-- ==== Sys2Proof/Word.lean ====
section
/-! DEFINITION. The plain words the model is written in: bytes, byte strings and sorted tables. -/

namespace Sys2Proof

/-- One byte (R3, R4: byte order is decided where a field is read or written). -/
abbrev Byte := BitVec 8

/-- A byte string; index 0 is the lowest address or the first byte sent (R3). -/
abbrev Bytes := List Byte

/-- A sparse table: keys strictly rising, each with its value (canonical form in `Tab.wf`). -/
abbrev Tab (α : Type) := List (Nat × α)

end Sys2Proof
end

