-- ==== Sys2Proof/Syntax.lean ====
section
/-! DEFINITION. The commands of the part: one constructor per row of spec/opcode_table.json, in the table's order,
with the operand types they use. An operand carries what comes from outside the part: the bytes a read of host memory
returned, whether a write of host memory was accepted (`wr`), a frame received, a measurement, a time of arrival.
`r` names an accepted descriptor by its acceptance number. -/

namespace Sys2Proof

/-- What the part's read of the host memory a descriptor names returned: the bytes, from the offset named
(bytes past the end of the list are zero), or an error (R123, HOST_READ). -/
inductive HostRead where
  | ok (data : Bytes)
  | failed
  deriving DecidableEq, Repr

/-- What the part's read of one ring's Headrace slot at HR_CI returned (R109). -/
structure HeadRead where
  ring : Fin 4096
  raw : BitVec 512
  deriving DecidableEq, Repr

/-- The three rails whose loss takes ports out of service (R100). -/
inductive PortRail where
  | vio33 | vrf | vlfdrv
  deriving DecidableEq, Repr

/-- A unit as the fault and test operations name it (R567): its type and its number. -/
structure UnitName where
  kind : BitVec 8
  num : BitVec 8
  deriving DecidableEq, Repr

/-- What makes the shadow pair take over (R23). -/
inductive TakeoverCause where
  | mismatch | missed | memory
  deriving DecidableEq, Repr

/-- What an MSI-X unmasking names: a vector, the function mask, or MSI-X Enable (R136). -/
inductive Unmask where
  | vector (v : Fin 2048)
  | function
  | enable
  deriving DecidableEq, Repr

/-- The conditions judged on a transmitting LF channel (R225). -/
inductive LfCondition where
  | short | opened | detuned | sense
  deriving DecidableEq, Repr

/-- A frame received on a UHF data channel (R269): whether its sync was found, LEN, payload, CRC, and what the part measured
with it: the turnaround in ns from ball to ball (R272), the median SNR in dB; the chain that received it. -/
structure TokenFrame where
  sync : Bool
  len : Nat
  payload : Bytes
  crc : Nat
  turn : Int
  snr : Nat
  chain : Fin 8 := 0
  deriving DecidableEq, Repr

/-- What a chain measures of one tone (R280, R284): its phase ψ in units of 2π/65,536, and the SNR in dB. -/
structure PhaseSeen where
  chain : Nat
  tone : Nat
  psi : Nat
  snr : Nat
  deriving DecidableEq, Repr

/-- What the chains have measured and the fit finds (R284–R287): the position in cm if one was found, SIGMA, the constant phase of each
chain in units of 2π/65,536, the phases measured (of a reply that is not sounded, one entry for each chain that received it), and the
azimuth of the reply's phase front in tenths of a degree. -/
structure FitResult where
  pos : Option (Int × Int × Int)
  sigma : Nat
  consts : List Nat
  phases : List PhaseSeen
  azReply : Nat
  deriving DecidableEq, Repr

/-- One challenge of a start decision's ranging (R297): the reply received, and what each REPORT trigger after it brings, three at
most (R283); none for nothing received. -/
structure StartTry where
  reply : Option TokenFrame
  reports : List (Option TokenFrame)
  deriving DecidableEq, Repr

/-- A driver card's answer to CARD_AUTH (R350): the reader it lies on, and CRED_ID, ALG, PUBKEY and SIG. -/
structure StartCard where
  reader : Fin 8
  answer : Bytes
  deriving DecidableEq, Repr

/-- What the ranging and the card reading of a start decision find (R316): for each candidate in turn the challenges and what
the fit delivers; the cards in the order they are read. -/
structure StartEvidence where
  tokens : List (List StartTry × FitResult)
  cards : List StartCard
  deriving DecidableEq, Repr
/-- What a reader's detection burst finds of its coil (R345). -/
inductive Coil where
  | good | opened | shorted
  deriving DecidableEq, Repr

/-- A card event (R346): type (0x0A or 0x0B), identifier, and which AIDs the card selected. -/
structure CardSeen where
  typ : Nat
  ident : Bytes
  driver : Bool
  isSeal : Bool
  deriving DecidableEq, Repr

/-- What an exchange with a card brings (R341, R424): ATQA, the bits of a UID level up to a collision or to its end, SAK, ATS, the answer to
PPS, ATQB and the answer to ATTRIB; the card that a trailer node has activated, with its type, identifier and ATS or ATQB; no card, or no
further one; R(ACK), a chained I-block with more to come, a response APDU or its last part; a block that fails its CRC; or a trailer node's
STATUS 2 to 5. -/
inductive CardBlock where
  | atqa
  | collision (bits : List Bool)
  | uid (bits : List Bool)
  | sak (v : Nat)
  | ats (b : Bytes)
  | ppsOk
  | atqb (b : Bytes)
  | attribOk
  | activated (typ : Nat) (ident ats : Bytes)
  | noCard
  | ack
  | more (data : Bytes)
  | apdu (data : Bytes) (sw : Nat)
  | bad
  | status (code : Nat)
  deriving DecidableEq, Repr
/-- What the pilots of a symbol show (R393): the common phase, 1/256 of a cycle, the timing, ns, and the ratio of the references, ppb,
beyond what the receiver corrects for. -/
structure PilotFit where
  phase : Int
  time : Int
  ratio : Int
  deriving DecidableEq, Repr
/-- A frame received on an Ifeven port (R386, R388, R392, R393): when its preamble begins, ns; its profile, its seven header bytes, payload and PCRC; the level of its
short symbols 1 to 4 in tenths of a dBFS, none for one that clipped; the ratio of the references, ppb, that the preamble shows, and what
the pilots of each later symbol show; whether the converter clipped after the freeze, and the median pilot SNR less its level at
sounding. -/
structure LineFrame where
  start : Nat
  flood : Bool
  head : Bytes
  payload : Bytes
  pcrc : Nat
  levels : List (Option Int)
  ratio : Int
  pilots : List PilotFit
  clip : Bool
  margin : Int
  deriving DecidableEq, Repr
/-- A PHY management message as its frame brings it (R386, R397): MAP, KIND and the payload. -/
structure LineMsg where
  map : Nat
  kind : Nat
  payload : Bytes
  deriving DecidableEq, Repr
/-- What a drive that has become ready shows (R435, R437, R440): the STORE_UID and DRIVE_UID of a valid label, NSID 1's capacity in
MiB, SMART Percentage Used, composite temperature, and whether that lies above the drive's warning threshold; SMART critical warning bit
0 or 2; NSID 1's LBA data size in bytes, and whether it has neither metadata nor protection information. -/
structure DriveLabel where
  label : Option (BitVec 128 × Bytes)
  cap : Nat
  used : Nat
  temp : Int
  hot : Bool := false
  critical : Bool := false
  lba : Nat := 512
  plain : Bool := true
  deriving DecidableEq, Repr
/-- The wear conditions of R440 that a drive reports: SMART critical warning bit 0 or bit 2, or Percentage Used. -/
inductive WearCause where
  | spare | reliability
  | used (pct : Nat)
  deriving DecidableEq, Repr
/-- The continuous tests a noise source can fail (R524). -/
inductive RngCause where
  | rct | apt
  deriving DecidableEq, Repr
/-- Where an update transport message comes from: a chain position (its ORIG, R423), or an Ethernet port and MAC address. -/
inductive UpdPeer where
  | line (pos : Fin 8)
  | eth (port : Fin 2) (mac : BitVec 48)
  deriving DecidableEq, Repr
/-- How the writing of an image to CFG went (R546): in order; an erase, program or read-back failed at a block, the blocks
before it written; or the read-back of a block gives other bytes than were written. -/
inductive FlashResult where
  | ok
  | failed (block : Nat)
  | differs (block : Nat)
  deriving DecidableEq, Repr
/-- What held the SRAM word that an error hit (R576): nothing, a steward pair (true: B), a measurement, or another operation. -/
inductive SramOwner where
  | none
  | pair (b : Bool)
  | measurement (r : Nat)
  | op (r : Nat)
  deriving DecidableEq, Repr
/-- What a scrub finds (R585, R593): the groups whose copy or stripe on the drive fails, and, when the drive is lost on the
way, the stripes checked before. -/
structure ScrubFindings where
  bad : List Nat
  lostAfter : Option Nat
  deriving DecidableEq, Repr

/-! The bodies of the configuration records (R557). The spec gives the fields and their widths and no byte layout, so a
record's body is carried as its fields beside its bytes (log entry 14). -/

/-- The board record (R74): bit n of a map stands for port n. -/
structure BoardRec where
  lf : BitVec 48 := 0
  uhf : BitVec 8 := 0
  paGain : List Nat := []
  nfc : BitVec 8 := 0
  cap : BitVec 48 := 0
  ifl : BitVec 4 := 0
  ang : BitVec 4 := 0
  can : BitVec 6 := 0
  eth : BitVec 2 := 0
  nvm : BitVec 4 := 0
  wake : BitVec 4 := 0
  tmesh : BitVec 2 := 0
  dsense : BitVec 8 := 0
  coex : BitVec 2 := 0
  slk1 : Bool := false
  pmicAddr : BitVec 7 := 0
  deriving DecidableEq, Repr

/-- One WAKE pin of the power record (R102): ROLE, POL, THRESH. -/
structure WakeCfg where
  role : BitVec 2
  pol : Bool
  thresh : BitVec 8
  deriving DecidableEq, Repr

/-- The power record (R83, R102): WAKE pins, the PMIC's output register and code slope, and the DSENSE inputs that sense
cab doors (log entry 14). -/
structure PowerRec where
  pins : List WakeCfg
  vcoreReg : BitVec 8
  vcoreSlope : Nat
  cabDoors : BitVec 8
  deriving DecidableEq, Repr

/-- One channel of the LF antenna record (R221). -/
structure LfChan where
  ch : Nat
  x : Int
  y : Int
  z : Int
  axis : Nat
  loc : Nat
  ilim : Nat
  peMin : Nat
  peMax : Nat
  deriving DecidableEq, Repr

/-- The LF antenna record (R221). -/
structure LfRec where
  carrier : Nat
  vwp : BitVec 16
  chans : List LfChan
  deriving DecidableEq, Repr

/-- One chain of the UHF location record (R259). -/
structure UhfChain where
  chain : Nat
  x : Int
  y : Int
  z : Int
  calDelay : Nat
  calPhase : Nat
  deriving DecidableEq, Repr

/-- The UHF location record (R259). -/
structure UhfRec where
  bandPlan : Nat
  chains : List UhfChain
  txpData : Nat
  txpTone : Nat
  txDuty : Nat
  coexUse : List (BitVec 2)
  coexTmo : Nat
  rangeMax : Nat
  lfTol : Nat
  /-- LF_HREF by channel -/
  lfHref : List (Nat × Nat)
  trackAge : Nat
  deriving DecidableEq, Repr

/-- The IFL record (R381). -/
structure IflRec where
  /-- Per port: port, IFL_TXG, IFL_RXG -/
  gains : List (Nat × Int × Int)
  psd : Nat
  /-- Masked ranges of subcarriers, first and last -/
  notches : List (Nat × Nat)
  margin : Nat
  trickleQpsk : Bool
  deriving DecidableEq, Repr

/-- One class of the custody configuration record (R434): PLACE, RETAIN_DAYS, READ_PARTIES. -/
structure CustodyClass where
  place : Nat
  retainDays : Nat
  parties : BitVec 16
  deriving DecidableEq, Repr

/-- The custody configuration record (R434): classes 1 to 5 in order, and WEAR_PCT. -/
structure CustodyRec where
  classes : List CustodyClass
  wearPct : Nat
  deriving DecidableEq, Repr

/-- The body of a configuration record, by TYPE (R557). The capacitive record holds CAP_THRESH per electrode (R369); the
role record says trailer or tractor. -/
inductive CfgBody where
  | board (b : BoardRec)
  | power (p : PowerRec)
  | lf (l : LfRec)
  | uhf (u : UhfRec)
  | ifl (i : IflRec)
  | custody (c : CustodyRec)
  | cap (thresh : List Nat)
  | role (trailer : Bool)
  deriving DecidableEq, Repr

/-- The commands (R-numbers: the rule the table gives the row). -/
inductive Instr where
  /-- VAON_GOOD (R95): VAON passes its power-on filter; the part raises PMIC_EN0 and starts the start-up
  sequence, with SLK0 and SLK1 following the latch again. -/
  | vaonGood
  /-- VAON_BROWN_OUT (R100): VAON falls below 1.62 V for 2 µs: cold reset, AON island runs on VKEEP, SLK
  outputs unpowered. -/
  | vaonBrownOut
  /-- AON_SUPPLY_CHANGEOVER (R84): The AON island switches between VAON and VKEEP without losing state. -/
  | aonSupplyChangeover
  /-- AON_LOSS (R25): VKEEP and VAON are both absent; at the next power-up the latch reads LOCKED and AON
  state is lost. -/
  | aonLoss
  /-- VKEEP_LOW (R100): VKEEP below 2.2 V for 1 s with VAON good sets PWR_VKEEP_LOW and reports a fault. -/
  | vkeepLow (mv : BitVec 12)
  /-- VCORE_BROWN_OUT (R100): VCORE or VSRAM below 90 % of its set value makes Hearth ROM start a full reset.
  -/
  | vcoreBrownOut (vsram : Bool)
  /-- DRAM_RAIL_FAULT (R100): VDDQ or VDD2 leaves its range; the LPDDR4X is treated as failed. -/
  | dramRailFault (vddq : Bool)
  /-- PORT_RAIL_FAULT (R100): VIO33, VRF or VLFDRV leaves its range; the ports on that rail are taken out of
  service. -/
  | portRailFault (rail : PortRail)
  /-- LINK_RAIL_FAULT (R100): VIO18 or VSERDES leaves its range; the HOST, NVMe and Ethernet links drop. -/
  | linkRailFault (serdes : Bool)
  /-- RAIL_GOOD_RETURN (R100): A faulted rail returns good; its ports return to service, links retrain or the
  directory is rebuilt. -/
  | railGoodReturn (rail : Fin 9)
  /-- ENABLE_GROUP_GOOD (R82): Every rail of an enable group is good; the part raises the next PMIC enable. -/
  | enableGroupGood (g : Fin 4)
  /-- ENABLE_GROUP_TIMEOUT (R82): A group is not good within 10 ms; the part lowers that enable and later ones
  and sets PWR_RAIL_FAULT. -/
  | enableGroupTimeout (g : Fin 4)
  /-- FUSE_LOAD_END (R95): The fuse load ends and, once the EN2 group is good, Hearth ROM starts the
  boot-stage check. -/
  | fuseLoadEnd
  /-- CONFIGURATION_LOAD (R95): Steward firmware has loaded the configuration records and trained the LPDDR4X;
  ledger replay starts. -/
  | configurationLoad (bad : List UnitName)
  /-- LEDGER_REPLAY (R455): Replay ends: ring indices, unfinished work and the ledger halves are restored and
  completions reposted. -/
  | ledgerReplay (aGood : Bool) (bGood : Bool)
  /-- WARM_RESET (R606): A PCIe hot reset or function-level reset of the physical function resets the part to
  warm depth. -/
  | warmReset (flr : Bool)
  /-- WATCHDOG_EXPIRY (R24): Neither steward pair has kicked the AON watchdog for 12 ms; both pairs reset and
  Hearth mode is entered. -/
  | watchdogExpiry
  /-- CHECKPOINT (R22): Every 1 ms the active pair writes a checkpoint to the shadow and the ledger, including
  each ring's TR_CI. -/
  | checkpoint
  /-- STEWARD_TAKEOVER (R23): A lockstep mismatch, missed checkpoint or memory fault makes the shadow pair
  take over from the last checkpoint. -/
  | stewardTakeover (cause : TakeoverCause)
  /-- PAIR_SELF_TEST_END (R572): The failed pair's built-in self-test ends; the pair becomes the shadow or is
  taken out of service. -/
  | pairSelfTestEnd (pass : Bool)
  /-- SHADOW_TEST_SLICE (R583): A 0.5 ms slice of the online steward shadow test runs between two checkpoints.
  -/
  | shadowTestSlice (pass : Bool)
  /-- PWR_PARK_REQ (R86): A write of 1 starts Parked entry from Cab: admission stops and accepted work runs to
  its fate. -/
  | pwrParkReq (func : Fin 64)
  /-- PWR_PARK_CANCEL (R87): A write of 1 abandons Parked entry before step 5 and resumes admission. -/
  | pwrParkCancel (func : Fin 64)
  /-- PARKED_ENTRY_IDLE (R86): 600 s pass with no doorbell and no IGN-role pin asserted; the part starts
  Parked entry. -/
  | parkedEntryIdle
  /-- PARKED_ENTRY_DRAINED (R86): Every accepted descriptor has its fate posted; the part writes the
  checkpoint and Parked-entry record, saves RWS fields and shuts the drives down. -/
  | parkedEntryDrained
  /-- DRIVE_SHUTDOWN_COMPLETE (R444): Each drive reports shutdown complete, or its 2 s wait ends; the part
  lowers PMIC_EN3, EN2 and EN1 and is in Parked. -/
  | driveShutdownComplete (done : BitVec 4)
  /-- WAKE_PIN_CROSSING (R96): A WAKE pin crosses its threshold and the 1 ms deglitch starts. -/
  | wakePinCrossing (pin : Fin 4) (above : Bool)
  /-- WAKE_EVENT (R90): The deglitch ends; an EDGE or IGN pin wakes the part from Dormant, makes a Cab trigger
  or abandons Dormant entry. -/
  | wakeEvent (pin : Fin 4)
  /-- NEAR_LIST_RESTORED (R90): The Near list is restored from the ledger after a Dormant wake and becomes
  usable. -/
  | nearListRestored
  /-- WAKE_WINDOW_END (R90): The 60 s wake window ends with no authenticated token seen; Dormant entry runs
  again. -/
  | wakeWindowEnd
  /-- DSENSE_CHANGE (R85): A DSENSE input changes state; a cab door opening within 30 s of a passive unlock is
  a Cab trigger. -/
  | dsenseChange (d : Fin 8) (high : Bool)
  /-- DORMANCY_HOUR (R92): An hour in Parked passes; the dormancy count advances, APPROACH polls may stop, and
  Dormant entry runs at the limit. -/
  | dormancyHour
  /-- LOW_BATTERY (R93): A VBAT-role pin has read below its threshold for 60 s; Dormant or Parked entry
  follows. -/
  | lowBattery
  /-- RTC_ALARM (R605): The PWR_ALARM count reaches 0 and sets PWR_WAKE_RTC, waking the part in Dormant. -/
  | rtcAlarm
  /-- PWR_ALARM_S (R605): A write to PWR_ALARM loads the RTC alarm count, or 0 disables it. -/
  | pwrAlarmS (func : Fin 64) (v : BitVec 32)
  /-- WAKE_SLICE_POWER_DOWN (R26): 2 s after its last use the wake slice powers down. -/
  | wakeSlicePowerDown
  /-- DRIVE_EXIT (R85): The engine has not turned and road speed has stayed below 2 km/h for 3 s; the part
  returns to Cab. -/
  | driveExit
  /-- SERVICE_END (R592): The Service duration has passed with no Service work in flight and no HALT open, or
  an IGN pin is asserted; the part returns to Cab. -/
  | serviceEnd
  /-- DEBUG_DURATION_END (R590): DURATION_S of a DEBUG_UNLOCK ends and the debug port closes. -/
  | debugDurationEnd
  /-- SLOT_CONSUME (R161): The sluice consumes an offered Headrace slot once weir and Tailrace room allow,
  stamps it, runs admission checks and writes the acceptance. -/
  | slotConsume (heads : List HeadRead)
  /-- CLASS_BOUND_EXPIRY (R122): A class bound expires before the effect; the descriptor ends TIMEOUT. -/
  | classBoundExpiry (r : Nat)
  /-- COMPLETION_WRITE (R119): Once a fate is in the ledger and earlier slots are written, the part writes the
  completion in two writes and counts it for moderation. -/
  | completionWrite (g : Fin 4096)
  /-- CONSUMER_INDEX_WRITEBACK (R108): Within 2 µs of a change of HR_CI or ring state the part writes the
  write-back block. -/
  | consumerIndexWriteback (g : Fin 4096)
  /-- DOORBELL_HR_PI (R111): An HR_PI doorbell write sets HR_PI or, if invalid, stops the ring with PI_RANGE.
  -/
  | doorbellHrPi (func : Fin 64) (ten : Fin 1024) (j : Fin 64) (v : BitVec 32)
  /-- DOORBELL_TR_CI (R111): A TR_CI doorbell write frees Tailrace slots and re-arms the interrupt, or stops
  the ring with TR_CI_RANGE. -/
  | doorbellTrCi (func : Fin 64) (ten : Fin 1024) (j : Fin 64) (v : BitVec 32)
  /-- DESCRIPTOR_READ_FAILED (R130): A Headrace read fails; HR_CI stays and the ring enters STOPPED with
  DESC_READ. -/
  | descriptorReadFailed (g : Fin 4096)
  /-- TAILRACE_WRITE_REFUSED (R129): A Tailrace or write-back write is refused; the ring stops or stops
  writing completions. -/
  | tailraceWriteRefused (g : Fin 4096) (writeback : Bool)
  /-- RING_ENABLE (R145): Writing 1 to HOST_RING_ENABLE runs the enable checks and makes the ring RUNNING with
  zero indices. -/
  | ringEnable (func : Fin 64)
  /-- RING_DISABLE (R128): Writing 0 to HOST_RING_ENABLE in RUNNING or STOPPED starts DRAINING. -/
  | ringDisable (func : Fin 64)
  /-- RING_DRAINED (R128): Every accepted descriptor of a DRAINING ring has its fate; the ring becomes
  DISABLED. -/
  | ringDrained (g : Fin 4096)
  /-- MODERATION_TIMER (R134): HOST_MOD_US passes after the first unsignalled completion; the ring's MSI-X
  message is sent and the interrupt disarmed. -/
  | moderationTimer (g : Fin 4096)
  /-- MSIX_UNMASK (R136): A vector or function is unmasked or MSI-X Enable set; pending messages are sent. -/
  | msixUnmask (func : Fin 64) (what : Unmask)
  /-- VF_FUNCTION_LEVEL_RESET (R133): A virtual function reset moves its tenancies' rings to DISABLED and ends
  unstarted work NOT_STARTED. -/
  | vfFunctionLevelReset (func : Fin 64)
  /-- VF_ENABLE_CLEAR (R147): Clearing VF Enable acts as a function-level reset of every virtual function. -/
  | vfEnableClear
  /-- HOST_PERST (R67): HOST_PERST_N low holds the HOST link in reset without resetting the part; high
  releases it. -/
  | hostPerst (low : Bool)
  /-- NOP (R142): SYS NOP ends DONE with RESULT 0. -/
  | nop (r : Nat)
  /-- FATE_INQUIRY (R143): Looks up a target SEQ and writes its fate record, or ends ABSENT. -/
  | fateInquiry (r : Nat) (wr : Bool)
  /-- PING (R142): Returns the admission time on the monotonic count. -/
  | ping (r : Nat)
  /-- WRIT_APPLY (R174): Checks a writ and, at its ledger record, applies it and advances the policy epoch. -/
  | writApply (r : Nat) (rd : HostRead)
  /-- WRIT_SETTLE (R181): Once affected descriptors have their fates and drained rings are DISABLED, the
  applied writ ends DONE. -/
  | writSettle (r : Nat)
  /-- WRIT_CHECK (R182): Runs steps 1 to 9 of a writ's checks without effect. -/
  | writCheck (r : Nat) (rd : HostRead)
  /-- WRIT_STATUS (R185): Writes the epoch and Warden status block. -/
  | writStatus (r : Nat) (wr : Bool)
  /-- ANG0_EDGE (R188): A crank tooth edge advances synchronisation, position, prediction and grant cuts. -/
  | ang0Edge (tNs : Nat)
  /-- ANG1_EDGE (R189): A cam edge makes cam phase known or lost. -/
  | ang1Edge (tNs : Nat)
  /-- ANG2_EDGE (R190): A propshaft edge updates propshaft usability and prediction. -/
  | ang2Edge (tNs : Nat)
  /-- ANG3_PULSE (R191): A wheel-speed pulse updates the ANG3 road-speed figure. -/
  | ang3Pulse (tNs : Nat)
  /-- CRANK_EDGE_TIMEOUT (R188): No crank edge arrives within the predicted limit; the crank is lost, or the
  engine has stopped. -/
  | crankEdgeTimeout
  /-- WHEEL_PULSE_TIMEOUT (R191): No ANG3 pulse for 1 s; the ANG3 figure reads 0. -/
  | wheelPulseTimeout
  /-- ROAD_SPEED_FRAME (R308): A CAN frame carrying the road-speed signal is received. -/
  | roadSpeedFrame (port : Fin 6) (ident : BitVec 32) (data : Bytes)
  /-- ENGINE_SPEED_FRAME (R308): A CAN frame carrying the engine-speed signal is received. -/
  | engineSpeedFrame (port : Fin 6) (ident : BitVec 32) (data : Bytes)
  /-- SPEED_SIGNAL_STALE (R191): A road- or engine-speed signal's last frame becomes 200 ms old and the signal
  becomes invalid. -/
  | speedSignalStale (engine : Bool)
  /-- ANGLE_SWITCH_WINDOW_END (R202): The angle switch window ends and the switch completes. -/
  | angleSwitchWindowEnd
  /-- PROP_HOLD_EXPIRY (R201): PROP_HOLD_S passes in PROP and a switch to TIME starts. -/
  | propHoldExpiry
  /-- XTAL25_LOSS (R204): The clock monitor sees XTAL25 lost and starts a switch to the RC. -/
  | xtal25Loss
  /-- CLOCK_SWITCH_WINDOW_END (R204): The 64-cycle clock switch window ends; the PLL relocks to the RC. -/
  | clockSwitchWindowEnd (recovered : Bool)
  /-- XTAL25_RETURN (R204): XTAL25 has been good for 1 ms and the part returns to it. -/
  | xtal25Return
  /-- XTAL32K_LOSS (R206): No XTAL32K edge for 100 µs; the RTC runs from the internal RC. -/
  | xtal32kLoss
  /-- XTAL32K_RETURN (R206): XTAL32K edges have been regular for 1 s and the RTC returns to it. -/
  | xtal32kReturn
  /-- RTC_RC_CALIBRATE (R206): Each second the RTC's RC is measured against XTAL25 and corrected. -/
  | rtcRcCalibrate (measured : Nat)
  /-- CNT_ENABLE (R209): Setting CNT_EN clears the count with CNT_DIR UP and evaluates both compares. -/
  | cntEnable (func : Fin 64) (v : BitVec 32)
  /-- CNT_DISABLE (R209): Clearing CNT_EN freezes the count. -/
  | cntDisable (func : Fin 64) (v : BitVec 32)
  /-- CNT_TOP (R209): A write of TOP takes effect at once when disabled or at the next count of 0 when
  enabled. -/
  | cntTop (func : Fin 64) (v : BitVec 32)
  /-- CNT_CMP (R212): A compare write is evaluated against the count and may fire at once. -/
  | cntCmp (func : Fin 64) (b : Bool) (v : BitVec 32)
  /-- COMPARE_MATCH (R212): A tick brings the count to a compare value; CNT_HITx is set and may interrupt. -/
  | compareMatch (n : Fin 16) (b : Bool)
  /-- CAPTURE_EDGE (R211): A selected capture edge loads CNT_CAP and sets CNT_CAP_FULL or CNT_CAP_OVR. -/
  | captureEdge (n : Fin 16) (rising : Bool)
  /-- CNT_CAP_READ (R211): Reading CNT_CAP clears CNT_CAP_FULL. -/
  | cntCapRead (func : Fin 64)
  /-- TIME_READ (R218): Writes the time block sampled at one instant. -/
  | timeRead (r : Nat) (wr : Bool)
  /-- TIME_SET (R216): Sets the wall clock, subject to the step and 60 s checks. -/
  | timeSet (r : Nat)
  /-- FURROW_READ (R215): Writes the Furrow table in force. -/
  | furrowRead (r : Nat) (wr : Bool)
  /-- PRESENCE_POLL (R244): The Cab or Drive PRESENCE period expires and a WAKE_CHAL poll starts. -/
  | presencePoll
  /-- APPROACH_POLL (R244): The Parked APPROACH period expires and an exterior WAKE_CHAL poll starts. -/
  | approachPoll
  /-- LF_SEGMENT (R229): A granted window opens and the part sends a telegram segment, or abandons the
  telegram. -/
  | lfSegment
  /-- LF_CHANNEL_FAULT (R225): A SHORT, OPEN, DETUNED or SENSE condition is detected on a transmitting LF
  channel. -/
  | lfChannelFault (ch : Fin 48) (cond : LfCondition) (early : Bool) (spareFails : Bool)
  /-- REPLY_SLOT_TRIGGER (R271): A reply slot opens and the part sends a REPLY trigger. -/
  | replySlotTrigger
  /-- REPLY_WINDOW_END (R245): The reply window ends; the poll reports its outcome or is repeated with N = 8.
  -/
  | replyWindowEnd
  /-- CHAL_REPLY (R241): A challenge reply is checked; it may unlock, arm the start lock or update a track. -/
  | chalReply (replies : List TokenFrame)
  /-- BUTTON (R254): A button frame is checked and, if accepted, the ACCESS record and body frame follow. -/
  | button (frame : TokenFrame)
  /-- SOUND_REPORT (R282): A SOUND_REPORT frame with the token's phases is received and checked. -/
  | soundReport (frame : TokenFrame)
  /-- TOKEN_FRAME_DISCARD (R273): A received frame with bad sync, LEN or CRC is discarded. -/
  | tokenFrameDiscard (frame : TokenFrame)
  /-- CAPACITIVE_TOUCH (R368): An electrode's rise exceeds CAP_THRESH on two scans and a touch starts. -/
  | capacitiveTouch (e : Fin 48) (scans : List Int)
  /-- TOUCH_END (R368): The rise falls below 70 % of CAP_THRESH on two scans and the touch ends. -/
  | touchEnd (scans : Fin 48 × List Int)
  /-- ELECTRODE_STUCK (R370): An electrode touched for 30 s is masked. -/
  | electrodeStuck (e : Fin 48)
  /-- ELECTRODE_UNMASK (R370): A masked electrode below touch level for 2 s is unmasked. -/
  | electrodeUnmask (e : Fin 48)
  /-- CAP_GUARD_FAULT (R370): A guard's load exceeds its limit and its electrodes are taken out of service. -/
  | capGuardFault (g : Fin 2)
  /-- UHF_POWER_CORRECTION (R263): Every 100 ms the part re-measures temperature and VRF and corrects output
  power. -/
  | uhfPowerCorrection (temp : Int) (errs : List Int)
  /-- SYNTH_FAULT (R266): A synthesiser fails; the burst ends and sounding restarts on the other. -/
  | synthFault (b : Bool)
  /-- SOUND_BURST (R280): A granted burst window opens and the part sends a SOUND trigger and the tone
  exchanges. -/
  | soundBurst
  /-- REPORT_TRIGGER (R283): After the bursts the part sends a REPORT trigger asking for the token's phases.
  -/
  | reportTrigger
  /-- POSITION_FIT (R285): The position fit ends; checks 6 and 7 are applied and the track is updated. -/
  | positionFit (fit : FitResult) (wr : Bool)
  /-- COEX_GRANT (R274): COEX_GNT has been high 20 µs on every pair; the waiting activity starts. -/
  | coexGrant
  /-- COEX_TIMEOUT (R275): A grant is not given within COEX_TMO; the activity is abandoned. -/
  | coexTimeout
  /-- COEX_GRANT_FALL (R277): A grant falls during an activity; the rest of the burst or slot is abandoned. -/
  | coexGrantFall (m : Fin 2)
  /-- COEX_PRI_LEAD (R276): 100 µs after COEX_PRI rises the start-decision ranging starts emitting. -/
  | coexPriLead
  /-- TRACK_AGE_EXPIRY (R294): An absent token's track passes TRACK_AGE without update and is dropped. -/
  | trackAgeExpiry (tid : BitVec 32)
  /-- LOCATE (R297): Challenges, optionally sounds and locates a named token. -/
  | locate (r : Nat)
  /-- TRACK_READ (R298): Writes one location record per track. -/
  | trackRead (r : Nat) (wr : Bool)
  /-- NEAR_ENROL (R299): Enrols a token on the Near list as a key release. -/
  | nearEnrol (r : Nat)
  /-- NEAR_REMOVE (R299): Removes a token from the Near list. -/
  | nearRemove (r : Nat)
  /-- NEAR_READ (R299): Writes the tenancy's Near-list entries. -/
  | nearRead (r : Nat) (wr : Bool)
  /-- ZONE_READ (R296): Writes the zone table in force. -/
  | zoneRead (r : Nat) (wr : Bool)
  /-- START (R316): Ranges, checks permission and card, commits and moves the start-lock latch to a release
  state. -/
  | start (r : Nat) (evidence : StartEvidence)
  /-- LOCK_REQ (R311): A lock request by descriptor moves the latch as R311 states. -/
  | lockReq (r : Nat)
  /-- LOCK_STATUS (R338): Writes the start-lock status block. -/
  | lockStatus (r : Nat) (wr : Bool)
  /-- ARM_HOLD_EXPIRY (R304): ARM_HOLD_S passes without a start-permitted token; ARMED moves to LOCKED. -/
  | armHoldExpiry
  /-- IGNITION_OFF_DEBOUNCE (R310): Every IGN-role pin has been deasserted for 2 s; an ignition-off lock
  request arises. -/
  | ignitionOffDebounce
  /-- RELEASE_WINDOW_EXPIRY (R313): RELEASE_WIN_S passes in RELEASED, postponed while cranking; a lock request
  arises. -/
  | releaseWindowExpiry
  /-- LOCK_HOLD_EXPIRY (R312): LOCK_HOLD_S completes at rest and DEFERRED_LOCK moves to LOCKED. -/
  | lockHoldExpiry
  /-- SLK_LEDGER_RETRY (R305): Every 100 ms an unwritten transition record is retried. -/
  | slkLedgerRetry
  /-- STATE_FRAME_PERIOD (R327): FRAME_PERIOD_MS after the last state frame a new state frame is sent. -/
  | stateFramePeriod
  /-- RECONCILIATION (R333): Within 250 ms of release the latch is reconciled with the engine. -/
  | reconciliation
  /-- CAN_BUS_OFF (R328): A CAN port goes bus-off and start-lock and body frames move to FRAME_ALT. -/
  | canBusOff (p : Fin 6)
  /-- CAN_BUSOFF_RECOVERY (R581): 100 ms after bus-off the part starts bus-off recovery. -/
  | canBusoffRecovery (p : Fin 6)
  /-- CAN_PORT_RETURN (R328): The first port has been error-active for 1 s and frames return to it. -/
  | canPortReturn (p : Fin 6)
  /-- SLK_MISMATCH (R581): An SLK ball read-back disagrees with the latch on three samples, or agrees again.
  -/
  | slkMismatch (out1 : Bool) (agrees : Bool)
  /-- NFC_DETECTION (R344): Each NFC_DET_PERIOD an idle reader sends a detection burst and may start an
  activation poll. -/
  | nfcDetection (k : Fin 8) (amp : Nat) (phase : Int) (opened shorted : Bool)
  /-- READER_RETRY (R345): Every 10 s an out-of-service reader is tried again. -/
  | readerRetry (k : Fin 8) (coil : Coil)
  /-- CARD_RESPONSE (R341): A card's answer block arrives during an exchange. -/
  | cardResponse (reader : Fin 64) (resp : CardBlock) (wr : Bool)
  /-- WTX_REQUEST (R348): A card sends S(WTX); the reader extends the wait or resets the card at the ceiling.
  -/
  | wtxRequest (reader : Fin 64) (wtxm : BitVec 8)
  /-- FRAME_WAIT_EXPIRY (R349): FWT expires with a block missing; the reader sends R(NAK) or ends the
  activation. -/
  | frameWaitExpiry (reader : Fin 64)
  /-- CARD_AUTH (R351): Reads and authenticates a driver card on the named readers. -/
  | cardAuth (r : Nat)
  /-- SEAL_SCAN (R372): Lists the seal tags in a reader's field. -/
  | sealScan (r : Nat)
  /-- SEAL_SECURE (R365): Secures a named seal tag as an external effect. -/
  | sealSecure (r : Nat)
  /-- SEAL_OPEN (R365): Opens a named seal tag as an external effect. -/
  | sealOpen (r : Nat)
  /-- SEAL_READ (R372): Reads a seal tag's header and log. -/
  | sealRead (r : Nat)
  /-- CAP_READ (R372): Writes the capacitive electrode block. -/
  | capRead (r : Nat) (wr : Bool)
  /-- IFL_DET_SAMPLE (R380): A DET reading is taken, judging impedance steps and shorted pairs. -/
  | iflDetSample (p : Fin 4) (uv : Nat)
  /-- IFL_FRAME_RECEIVED (R394): A received Ifeven frame is checked and passed to the link layer, or
  discarded. -/
  | iflFrameReceived (p : Fin 4) (frame : LineFrame)
  /-- SOUND_REQ (R398): A SOUND_REQ message asks the sender for a SOUND frame. -/
  | soundReq (p : Fin 4) (m : LineMsg)
  /-- SOUND_FRAME (R398): Within 5 ms of a SOUND_REQ the sender sends a SOUND frame. -/
  | soundFrame (p : Fin 4)
  /-- SOUND_FRAME_RECEIVED (R395): A SOUND frame is measured and a loading table built; LOAD follows. -/
  | soundFrameReceived (p : Fin 4) (syms : List (List (Int × Int)))
  /-- IFL_LOAD (R398): A LOAD message is checked and accepted or rejected as the sender's table. -/
  | iflLoad (p : Fin 4) (m : LineMsg)
  /-- LOAD_RESEND (R399): 50 ms after LOAD n with frames still under n − 1, LOAD is resent or the table
  abandoned. -/
  | loadResend (p : Fin 4)
  /-- OLD_TABLE_HOLD_END (R399): 1 s after LOAD n the receiver drops table n − 1. -/
  | oldTableHoldEnd (p : Fin 4)
  /-- SOUNDING_PERIOD (R397): 10 s since the last sounding; a SOUND_REQ with reason 3 is sent. -/
  | soundingPeriod (p : Fin 4)
  /-- TICK (R400): A TICK message aligns a follower's listen windows. -/
  | tick (p : Fin 4) (m : LineMsg)
  /-- LISTEN_WINDOW (R400): A Parked listen window opens; the master sends TICK in every second window. -/
  | listenWindow (p : Fin 4)
  /-- WINDOW_EXTENSION_END (R401): 20 ms after the last link frame the search stops. -/
  | windowExtensionEnd (p : Fin 4)
  /-- MASTER_SILENCE (R402): Each further second without the master widens windows; after 30 s the schedule is
  lost. -/
  | masterSilence (p : Fin 4)
  /-- RESYNC_LISTEN (R402): Every 60 s a follower that lost the schedule listens for 2.1 s. -/
  | resyncListen (p : Fin 4)
  /-- BEACON (R410): Every 100 ms the upstream end beacons and counts missed ROLLs. -/
  | beacon (p : Fin 4)
  /-- BEACON_RECEIVED (R412): A node answers a BEACON with ROLL, or drops its coupling on a wrong CPL_ID. -/
  | beaconReceived (p : Fin 4) (payload : Bytes)
  /-- ROLL (R411): A ROLL starts a discovery or completes an assignment. -/
  | roll (p : Fin 4) (src : Fin 16) (payload : Bytes)
  /-- JOIN (R411): The tractor receives a JOIN and sends an ASSIGN. -/
  | join (p : Fin 4) (payload : Bytes)
  /-- ASSIGN (R411): An ASSIGN is forwarded by the parent or taken by the matching node. -/
  | assign (p : Fin 4) (payload : Bytes)
  /-- JOINED (R411): The tractor records the coupling and raises the link to Flood. -/
  | joined (p : Fin 4) (payload : Bytes)
  /-- PROFILE (R411): A PROFILE frame changes the segment's profile. -/
  | profile (p : Fin 4) (payload : Bytes)
  /-- DECOUPLED (R417): The tractor frees the positions and removes the remote units. -/
  | decoupled (p : Fin 4) (payload : Bytes)
  /-- DATA (R423): A DATA frame is delivered to its service. -/
  | dataFrame (p : Fin 4) (payload : Bytes)
  /-- ACK (R418): An ACK releases acknowledged frames or signals BUSY. -/
  | ack (p : Fin 4) (payload : Bytes)
  /-- ONWARD_LOST (R422): The tractor records ONWARD_LOST. -/
  | onwardLost (p : Fin 4) (payload : Bytes)
  /-- RESEND_TIMER (R419): An ACK has not arrived; the frame is resent, or link loss declared after eight
  tries. -/
  | resendTimer (p : Fin 4)
  /-- SUPPLY_STEP_WINDOW_END (R415): 1 s after an IGN-pin change the supply-step window closes. -/
  | supplyStepWindowEnd
  /-- ADRIFT_HOLD_END (R415): 3 s in ADRIFT without a ROLL; the node and those behind it are decoupled. -/
  | adriftHoldEnd (p : Fin 4)
  /-- READER_REQUEST (R424): A READER service request is run by the node's reader. -/
  | readerRequest (payload : Bytes)
  /-- LF_REQUEST (R425): An LF service request is keyed by the node. -/
  | lfRequest (payload : Bytes)
  /-- SVC_STATUS (R423): Every 1 s a node sends its STATUS service message. -/
  | svcStatus
  /-- RELAY (R427): Sends host data as frames to a chain position. -/
  | relay (r : Nat) (rd : HostRead)
  /-- CHAIN_READ (R427): Writes one record per positioned node. -/
  | chainRead (r : Nat) (wr : Bool)
  /-- RECV (R427): Writes and consumes received SVC HOST frames. -/
  | recv (r : Nat) (wr : Bool)
  /-- APPEND (R457): Seals a record body into its class chain and writes its copies. -/
  | append (r : Nat) (rd : HostRead)
  /-- READ (R458): Verifies and writes a custody record's plaintext. -/
  | cusRead (r : Nat) (wr : Bool)
  /-- SCAN (R459): Lists readable records of a class from a time. -/
  | cusScan (r : Nat) (wr : Bool)
  /-- CUS_VERIFY (R459): Verifies the hash chain and seals over a RID range. -/
  | cusVerify (r : Nat)
  /-- CUS_STATUS (R460): Writes the custody status block. -/
  | cusStatus (r : Nat) (wr : Bool)
  /-- NVME_WRITE_COMPLETE (R436): A Write with FUA completes and the copy counts as written. -/
  | nvmeWriteComplete (d : Fin 4) (ok : Bool)
  /-- NVME_COMMAND_TIMEOUT (R438): A drive command has no completion within 2 s; Abort and reset follow, then
  LOST. -/
  | nvmeCommandTimeout (d : Fin 4)
  /-- NVME_LINK_DOWN (R438): A drive's link leaves L0. -/
  | nvmeLinkDown (d : Fin 4)
  /-- DRIVE_LOSS_DECLARATION (R438): The link has not returned in 100 ms; the drive is declared LOST. -/
  | driveLossDeclaration (d : Fin 4)
  /-- NVME_FATAL_STATUS (R438): CSTS.CFS reads 1; the drive is declared LOST. -/
  | nvmeFatalStatus (d : Fin 4)
  /-- NVME_LINK_UP (R437): A drive's link reaches L0 and the drive enters INIT. -/
  | nvmeLinkUp (d : Fin 4)
  /-- DRIVE_READY (R437): A drive is ready; its label decides ONLINE or FOREIGN. -/
  | driveReady (d : Fin 4) (label : DriveLabel)
  /-- DRIVE_READY_TIMEOUT (R436): A drive is not ready within 5 s and is taken out of service. -/
  | driveReadyTimeout (d : Fin 4)
  /-- DRIVE_WEAR (R440): A wear condition makes an ONLINE drive WORN. -/
  | driveWear (d : Fin 4) (cause : WearCause)
  /-- REPROTECTION (R442): The part rebuilds or moves copies to restore protection. -/
  | reprotection
  /-- EVICTION (R449): Free space below 5 % makes the part evict the oldest evictable records. -/
  | eviction
  /-- LEDGER_SECTOR_FAIL (R451): A ledger sector fails read-back and is replaced by a spare. -/
  | ledgerSectorFail (b : Bool)
  /-- SECTOR_REFILL_DONE (R451): A spare sector has been refilled from the other half. -/
  | sectorRefillDone (b : Bool)
  /-- LEDGERCP (R452): A LEDGERCP record is written after 256 KiB of log or 1 s. -/
  | ledgercp
  /-- LEDGER_DRAIN (R454): In Parked with free log below 512 KiB the part powers up and copies the log to
  drives. -/
  | ledgerDrain (ready : BitVec 4)
  /-- LOOKUP (R481): Looks up a directory entry. -/
  | lookup (r : Nat) (rd : HostRead) (wr : Bool)
  /-- GRANT (R473): Looks up a directory entry and queues its grant commit. -/
  | grant (r : Nat) (rd : HostRead) (wr : Bool)
  /-- GRANT_COMMIT (R473): At its commit turn a grant is re-judged and its DIR_GRANT record written. -/
  | grantCommit (r : Nat) (wr : Bool)
  /-- DIR_LOAD (R470): Loads directory entries as one change. -/
  | dirLoad (r : Nat) (rd : HostRead)
  /-- REVOKE (R471): Revokes one entry. -/
  | revoke (r : Nat)
  /-- REVOKE_EPOCH (R471): Raises a namespace's MIN_EPOCH. -/
  | revokeEpoch (r : Nat)
  /-- REMOVE (R471): Deletes a directory entry. -/
  | remove (r : Nat)
  /-- DIR_STATUS (R481): Writes the directory status block. -/
  | dirStatus (r : Nat) (wr : Bool)
  /-- DIR_DELTA_COPIED (R469): The delta has its copies; the change record is written and the change takes
  effect. -/
  | dirDeltaCopied
  /-- EPOCHS (R475): A node receives the epochs message and keeps the highest values. -/
  | epochs (payload : Bytes)
  /-- REVOKED (R475): A node receives revocation items and applies them. -/
  | revoked (payload : Bytes)
  /-- HELD (R475): The part receives a node's HELD report. -/
  | held (pos : Fin 8) (payload : Bytes)
  /-- DIR_RELAY_LATE (R475): 2 s after a revocation a node's HELD does not cover it; the full set is resent.
  -/
  | dirRelayLate (pos : Fin 8)
  /-- SNAPSHOT_START (R477): After enough changes or 24 h a directory snapshot starts. -/
  | snapshotStart
  /-- DIR_REBUILD (R479): The directory is rebuilt from DIRSNAP records. -/
  | dirRebuild (ok : Bool)
  /-- KEY_ROOT (R513): Opens a root handle. -/
  | keyRoot (r : Nat)
  /-- KEY_DERIVE (R513): Derives a child handle. -/
  | keyDerive (r : Nat) (rd : HostRead)
  /-- KEY_IMPORT (R502): Imports a wrapped blob as a new handle. -/
  | keyImport (r : Nat) (rd : HostRead)
  /-- KEY_EXPORT (R503): Exports a handle's key as a blob at a commit point. -/
  | keyExport (r : Nat) (rd : HostRead) (wr : Bool)
  /-- KEY_CLOSE (R498): Closes a handle. -/
  | keyClose (r : Nat)
  /-- KEY_INFO (R513): Writes a handle's attributes. -/
  | keyInfo (r : Nat) (wr : Bool)
  /-- KEY_PUBLIC (R513): Writes the tenancy's import public keys. -/
  | keyPublic (r : Nat) (wr : Bool)
  /-- ENCRYPT (R514): Encrypts on a cipher lane. -/
  | encrypt (r : Nat) (rd : HostRead) (wr : Bool)
  /-- DECRYPT (R514): Decrypts on a cipher lane. -/
  | decrypt (r : Nat) (rd : HostRead) (wr : Bool)
  /-- MAC (R514): Computes a CMAC tag. -/
  | mac (r : Nat) (rd : HostRead) (wr : Bool)
  /-- MAC_VERIFY (R509): Verifies a CMAC tag. -/
  | macVerify (r : Nat) (rd : HostRead)
  /-- SEAL (R514): Encrypts and tags with CCM. -/
  | sealCcm (r : Nat) (rd : HostRead) (wr : Bool)
  /-- OPEN (R509): Decrypts and verifies CCM through the proving buffer. -/
  | openCcm (r : Nat) (rd : HostRead) (wr : Bool)
  /-- LANE_FAULT (R507): A lane self-check mismatch moves the operation to another lane. -/
  | laneFault (lane : Fin 20) (op : Option Nat)
  /-- LANE_RETEST (R575): A faulted lane's known-answer test ends; it returns or is retired. -/
  | laneRetest (lane : Fin 20) (pass : Bool)
  /-- LANE_OVERHEAT (R627): A lane reaches 132 °C and is taken out of service. -/
  | laneOverheat (lane : Fin 20)
  /-- LANE_COOLED (R627): An overheated lane falls to 122 °C and returns to the pool. -/
  | laneCooled (lane : Fin 20) (temp : Int)
  /-- TAMPER_MESH (R587): A mesh loop pattern mismatches twice; a ZEROISE event follows. -/
  | tamperMesh (m : Fin 2)
  /-- LIGHT (R587): Light at the die is detected; a ZEROISE event follows. -/
  | light
  /-- VOLTAGE_GLITCH (R587): A voltage glitch is detected as an ALARM event. -/
  | voltageGlitch
  /-- CLOCK_GLITCH (R587): A clock glitch is detected as an ALARM event. -/
  | clockGlitch
  /-- TEMPERATURE_TAMPER (R587): Die temperature outside tamper limits for 10 ms is an ALARM event. -/
  | temperatureTamper
  /-- ALARM_HOLD_END (R490): 10 ms after the last ALARM event SEC_ALARM clears and interrupted work resumes.
  -/
  | alarmHoldEnd
  /-- PKE_VERIFY (R533): Verifies a signature. -/
  | pkeVerify (r : Nat) (rd : HostRead)
  /-- POINT_CHECK (R532): Checks a public key. -/
  | pointCheck (r : Nat) (rd : HostRead)
  /-- HASH (R533): Computes a SHA-256 or SHA-384 digest. -/
  | hash (r : Nat) (rd : HostRead) (wr : Bool)
  /-- RANDOM (R536): Writes random bytes from the DRBG. -/
  | random (r : Nat) (wr : Bool)
  /-- RNG_STATUS (R535): Writes the random-source status block. -/
  | rngStatus (r : Nat) (wr : Bool)
  /-- RNG_SOURCE_FAILURE (R527): A source fails RCT or APT and is suspended or retired. -/
  | rngSourceFailure (src : Fin 4) (cause : RngCause)
  /-- RNG_HEALTH_CHECK (R525): Every 1 ms liveness and mutual-lock tests run. -/
  | rngHealthCheck (live : BitVec 4) (locked : BitVec 4)
  /-- SOURCE_RETURN (R527): A suspended source passes 4,096 clean bits and returns to HEALTHY. -/
  | sourceReturn (src : Fin 4)
  /-- DRBG_RESEED (R530): 1 s after the last reseed the DRBG is reseeded. -/
  | drbgReseed
  /-- RNG_SELF_TEST_END (R529): The start-up self-test ends and the source becomes RUNNING or STOPPED. -/
  | rngSelfTestEnd (pass : BitVec 4) (kat : Bool)
  /-- HASH_ENGINE_FAULT (R523): A hash engine fails and the other serves all work. -/
  | hashEngineFault (e : Fin 2)
  /-- STAGE (R546): Stages an image into the inactive slot, all or nothing. -/
  | stage (r : Nat) (rd : HostRead) (flash : FlashResult)
  /-- PUSH (R551): Offers the staged image along the chain. -/
  | push (r : Nat)
  /-- SCHEDULE (R552): Schedules activation and sends SCHED. -/
  | schedule (r : Nat)
  /-- CANCEL (R562): Cancels a schedule and sends UNSCHED. -/
  | cancel (r : Nat)
  /-- CFG_WRITE (R559): Writes a configuration record into a bank. -/
  | cfgWrite (r : Nat) (rd : HostRead) (body : CfgBody) (flashOk : Bool)
  /-- UPD_STATUS (R563): Writes the update status block. -/
  | updStatus (r : Nat) (wr : Bool)
  /-- OFFER (R550): A receiver answers an OFFER with STATUS or NEED. -/
  | offer (src : UpdPeer) (payload : Bytes)
  /-- NEED (R550): A sender receives a NEED and sends the needed pieces. -/
  | need (src : UpdPeer) (payload : Bytes)
  /-- PIECE (R550): A receiver takes a piece and checks and writes each completed block. -/
  | piece (src : UpdPeer) (payload : Bytes) (flash : FlashResult)
  /-- TRANSPORT_STATUS (R551): A transport STATUS message is received and relayed to position 0. -/
  | transportStatus (src : UpdPeer) (payload : Bytes)
  /-- SCHED (R552): A unit receives SCHED and sets its activation deadline. -/
  | sched (src : UpdPeer) (payload : Bytes)
  /-- UNSCHED (R562): A unit receives UNSCHED and cancels its schedule. -/
  | unsched (src : UpdPeer) (payload : Bytes)
  /-- NEED_TIMER (R550): 2 s without a piece the receiver sends NEED. -/
  | needTimer
  /-- TRANSFER_ABANDON (R550): 10 s without a message the transfer is abandoned. -/
  | transferAbandon
  /-- SCHED_REPEAT (R552): Every 60 s the tractor resends SCHED to scheduled units. -/
  | schedRepeat
  /-- ACTIVATION_COMMIT (R552): At its deadline, once conditions hold, a unit commits activation. -/
  | activationCommit
  /-- ACTIVATION_LAPSE (R553): WINDOW_H passes after the deadline without activation; the schedule lapses. -/
  | activationLapse
  /-- HANDOVER_SHADOW_READY (R554): The shadow has loaded the new firmware and replayed the ledger. -/
  | handoverShadowReady
  /-- HANDOVER_TIMEOUT (R554): Step 1 has not ended in 2 s; the handover is abandoned. -/
  | handoverTimeout
  /-- HANDOVER_HOLD_END (R554): After 10 s the former pair loads the new firmware. -/
  | handoverHoldEnd
  /-- TRIAL_CONFIRM (R555): 300 s without failover confirms the TRIAL slot and raises SEC_FLOOR. -/
  | trialConfirm
  /-- UPD_HEARTH_GO (R561): In Hearth mode starts a download from host memory. -/
  | updHearthGo (func : Fin 64) (v : BitVec 32) (image : HostRead)
  /-- UPD_HEARTH_REVERT (R560): In Hearth mode starts a download from the STANDBY slot. -/
  | updHearthRevert (func : Fin 64) (v : BitVec 32)
  /-- HEARTH_CAN_FRAME (R561): A tool's BEGIN, DATA or END frame on CAN0 carries a Hearth download. -/
  | hearthCanFrame (ident : BitVec 32) (data : Bytes)
  /-- HEARTH_CAN_STATUS (R561): Every 100 ms the part answers on CAN0 with its receive count. -/
  | hearthCanStatus
  /-- HEARTH_DOWNLOAD_END (R560): A download passes its checks and a cold reset starts, or it fails. -/
  | hearthDownloadEnd (flash : FlashResult)
  /-- SRAM_ECC_ERROR (R576): An SRAM ECC error may repair a row or column. -/
  | sramEccError (bank : Nat) (row : Nat) (col : Nat) (uncorr : Bool) (owner : SramOwner)
  /-- WAKE_STUCK (R581): A WAKE pin asserted too long is masked. -/
  | wakeStuck (pin : Fin 4)
  /-- WAKE_UNMASK (R581): A masked WAKE pin deasserted for 2 s is unmasked. -/
  | wakeUnmask (pin : Fin 4)
  /-- COEX_GNT_STUCK (R581): COEX_GNT high 1 s with no request is reported. -/
  | coexGntStuck (m : Fin 2)
  /-- PMIC_RECOVERY_RETRY (R581): Every 10 s a stuck PMIC bus recovery is retried. -/
  | pmicRecoveryRetry (freed : Bool)
  /-- PMIC_IRQ_STUCK (R581): PMIC_IRQ_N low 10 s is ignored until high 1 s. -/
  | pmicIrqStuck (low : Bool)
  /-- FAULT_READ (R591): Writes fault records. -/
  | faultRead (r : Nat) (wr : Bool)
  /-- UNIT_TEST (R583): Runs an online test of one unit. -/
  | unitTest (r : Nat) (pass : Bool)
  /-- BYPASS (R586): Takes one unit out of service. -/
  | bypass (r : Nat)
  /-- RESTORE (R586): Tests a unit and returns it to service. -/
  | restore (r : Nat) (pass : Bool)
  /-- SCRUB (R585): Checks and repairs every copy on a drive. -/
  | scrub (r : Nat) (found : ScrubFindings)
  /-- DRIVE_DRAIN (R580): Moves every stripe off a drive until RETIRED. -/
  | driveDrain (r : Nat)
  /-- DRIVE_ADMIT (R592): Admits a FOREIGN drive as blank. -/
  | driveAdmit (r : Nat)
  /-- SERVICE (R592): Moves the part into Service for a duration. -/
  | service (r : Nat)
  /-- SYS_RESET (R602): Writing 0xA5 from the physical function starts a warm reset. -/
  | sysReset (func : Fin 64) (v : BitVec 32)
  /-- SYS_LOCK_SETUP (R603): Writing 1 locks the set-up fields until cold reset. -/
  | sysLockSetup (func : Fin 64) (v : BitVec 32)
  /-- HIGH_HALF_LATCH (R599): A read of a 64-bit register's low half latches its high half. -/
  | highHalfLatch (func : Fin 64) (off : BitVec 20) (size : BitVec 4)
  /-- REGISTER_WRITE (R598): A write to a register with no row of its own sets, clears or is ignored by its
  access code. -/
  | registerWrite (func : Fin 64) (off : BitVec 20) (size : BitVec 4) (v : BitVec 64)
  /-- THERMAL_GOVERNOR (R625): Every 10 ms the governor samples die temperature and changes level. -/
  | thermalGovernor (temp : Int)
  /-- UPSTREAM_NEIGHBOUR_LOST (R417): A YB-3200 in trailer role that has missed three BEACONs on its upstream
  port drops its position, discards queued frames and stops beaconing downstream. -/
  | upstreamNeighbourLost (p : Fin 4)
  /-- PUBLIC_KEY_ENGINE_FAULT (R577): The public-key engine fails, leaves service, and every PKE use then ends
  DEVICE_FAULT with ENGINE_DOWN or UNIT_LOST. -/
  | publicKeyEngineFault
  /-- COUNT_REACHES_ZERO (R209): An enabled counter's count reaches 0, and a TOP written while the counter was
  enabled takes effect. -/
  | countReachesZero (n : Fin 16)
  deriving DecidableEq, Repr

end Sys2Proof
end

