-- ==== Sys2Proof/Config.lean ====
section
/-! DEFINITION. What the spec leaves open or an implementation fixes: free values, as constants with no body, so that
no proof can see what they are. A statement that holds, holds whatever they are. -/

namespace Sys2Proof

/-- Free bytes: the n-th byte drawn (log entry 5). Stands for what the random source delivers, for fresh nonces, IVs and
identifiers (R17, R528), and for every other value the spec leaves undefined after a step that goes on. -/
opaque Config.freeByte : Nat → Byte

/-- Length of a ledger record in units of 32 B, by kind; the spec states no record's length (log entry 9). -/
opaque Config.recordUnits : Nat → Nat

/-- The azimuth of a position that lies on the vertical through the antenna centroid, in tenths of a degree, modulo 3,600; the
spec states none there (log entry 50). -/
opaque Config.azimuthAtCentre : Nat

/-- NODE_KIND less 1 of a part in trailer role; the spec gives no source for it (log entry 31). -/
opaque Config.nodeKind : Nat

end Sys2Proof
end

