-- ==== Sys2Proof/Machine/Bytes.lean ====
section
/-! DEFINITION. Byte-order, bit-field and check-sum helpers, and the operations on sorted sparse tables.
Registers, descriptors, completions and ledger records are little-endian (R4); telegrams, Ifeven frames,
writs, images and wrapped blobs are big-endian (R5). -/

namespace Sys2Proof.Machine

/-- The number a little-endian byte string spells (R4). -/
def fromLE : Bytes → Nat
  | [] => 0
  | b :: bs => b.toNat + 256 * fromLE bs

/-- The number a big-endian byte string spells (R5). -/
def fromBE (bs : Bytes) : Nat := fromLE bs.reverse

/-- `n` bytes of `v`, little-endian. -/
def le : Nat → Nat → Bytes
  | 0, _ => []
  | n + 1, v => BitVec.ofNat 8 v :: le n (v / 256)

/-- `n` bytes of `v`, big-endian. -/
def be (n v : Nat) : Bytes := (le n v).reverse

/-- `n` zero bytes. -/
def zeros (n : Nat) : Bytes := List.replicate n 0

/-- Bytes `off` to `off + n - 1`, zero where the string has ended. -/
def slice (bs : Bytes) (off n : Nat) : Bytes :=
  let got := (bs.drop off).take n
  got ++ zeros (n - got.length)

/-- A little-endian field of a byte string. -/
def leAt (bs : Bytes) (off n : Nat) : Nat := fromLE (slice bs off n)

/-- A big-endian field of a byte string. -/
def beAt (bs : Bytes) (off n : Nat) : Nat := fromBE (slice bs off n)

/-- One byte of a byte string as a number. -/
def byteAt (bs : Bytes) (off : Nat) : Nat := leAt bs off 1

/-- Whether bytes `off` to `off + n - 1` are all zero. -/
def zeroAt (bs : Bytes) (off n : Nat) : Bool := leAt bs off n == 0

/-- Bits `lo` to `lo + n - 1` of a number. -/
def bits (v lo n : Nat) : Nat := (v >>> lo) % 2 ^ n

/-- Bit `i` of a number. -/
def bit (v i : Nat) : Bool := bits v i 1 == 1

/-- A Bool as a bit. -/
def ofBool (b : Bool) : Nat := if b then 1 else 0

/-- Two's complement reading of the low `n` bits. -/
def signed (n v : Nat) : Int :=
  let u := v % 2 ^ n
  if 2 * u < 2 ^ n then (u : Int) else (u : Int) - (2 ^ n : Nat)

/-- Two's complement coding in `n` bits. -/
def unsigned (n : Nat) (v : Int) : Nat := (v % ((2 ^ n : Nat) : Int)).toNat

/-- Ceiling division. -/
def ceilDiv (a b : Nat) : Nat := if b = 0 then 0 else (a + b - 1) / b

/-- Reads a field of a 64 B descriptor (little-endian bytes `off` to `off + n - 1`, R113). -/
def fieldLE (raw : BitVec 512) (off n : Nat) : Nat := bits raw.toNat (8 * off) (8 * n)

/-- Byte-wise exclusive or, as long as the shorter string. -/
def xorBytes (a b : Bytes) : Bytes := List.zipWith (· ^^^ ·) a b

/-- A 128-bit counter block plus one, big-endian. -/
def incBlock (b : Bytes) : Bytes := be b.length ((fromBE b + 1) % 256 ^ b.length)

/-! ### Check sums: most significant bit first, no reflection -/

/-- Shifts the eight bits of one byte into a check-sum register of width `w` with polynomial `poly`. -/
def crcByte (w poly : Nat) (crc : Nat) (b : Byte) : Nat :=
  let step (c : Nat) : Nat :=
    let sh := (c * 2) % 2 ^ w
    if bit c (w - 1) then sh ^^^ poly else sh
  let c0 := crc ^^^ (b.toNat <<< (w - 8))
  step (step (step (step (step (step (step (step c0)))))))

/-- The check sum of a byte string. -/
def crc (w poly ini xorOut : Nat) (bs : Bytes) : Nat :=
  (bs.foldl (crcByte w poly) ini) ^^^ xorOut

/-- CRC-8 of the LF telegrams (polynomial 0x2F, R233). -/
def crc8 (bs : Bytes) : Nat := crc 8 0x2F 0xFF 0xFF bs

/-- CRC-16 of the token frames and line headers (polynomial 0x1021, R269, R387). -/
def crc16 (bs : Bytes) : Nat := crc 16 0x1021 0xFFFF 0 bs

/-- CRC-32 of line payloads and image pieces (polynomial 0x04C1_1DB7, R388). -/
def crc32 (bs : Bytes) : Nat := crc 32 0x04C11DB7 0xFFFFFFFF 0xFFFFFFFF bs

/-! ### Sorted sparse tables -/

/-- Reads a table entry; an unlisted key reads as the default. -/
def tabGet {α : Type} (d : α) (t : Tab α) (k : Nat) : α :=
  match t with
  | [] => d
  | (k', v) :: rest => if k' = k then v else tabGet d rest k

/-- The entry of a key, if listed. -/
def tabFind {α : Type} (t : Tab α) (k : Nat) : Option α :=
  match t with
  | [] => none
  | (k', v) :: rest => if k' = k then some v else tabFind rest k

/-- Removes a key. -/
def tabErase {α : Type} (t : Tab α) (k : Nat) : Tab α := t.filter (fun e => e.1 != k)

/-- Writes a table entry, keeping the keys rising. -/
def tabPut {α : Type} (t : Tab α) (k : Nat) (v : α) : Tab α :=
  match t with
  | [] => [(k, v)]
  | (k', v') :: rest =>
    if k < k' then (k, v) :: (k', v') :: rest
    else if k = k' then (k, v) :: rest
    else (k', v') :: tabPut rest k v

/-- Writes a table entry in the canonical form of a default `d`: an entry equal to the default is not listed. -/
def tabSet {α : Type} [DecidableEq α] (d : α) (t : Tab α) (k : Nat) (v : α) : Tab α :=
  if v = d then tabErase t k else tabPut t k v

/-- Applies a function to one entry of a table with default `d`. -/
def tabModify {α : Type} [DecidableEq α] (d : α) (t : Tab α) (k : Nat) (f : α → α) : Tab α :=
  tabSet d t k (f (tabGet d t k))

/-- Whether the keys rise strictly. -/
def tabSorted {α : Type} : Tab α → Bool
  | [] => true
  | [_] => true
  | (k, _) :: (k', v') :: rest => decide (k < k') && tabSorted ((k', v') :: rest)

/-- The canonical form of a table with default `d`: keys strictly rising and no entry equal to the default. -/
def tabWf {α : Type} [DecidableEq α] (d : α) (t : Tab α) : Bool :=
  tabSorted t && t.all (fun e => !decide (e.2 = d))

/-- Replaces element `i` of a list by its image. -/
def modAt {α : Type} (l : List α) (i : Nat) (f : α → α) : List α :=
  match l, i with
  | [], _ => []
  | a :: rest, 0 => f a :: rest
  | a :: rest, i + 1 => a :: modAt rest i f

/-- Element `i` of a list, or a default. -/
def nth {α : Type} (d : α) (l : List α) (i : Nat) : α := l.getD i d

/-- The smallest element of a list of numbers. -/
def minList : List Nat → Option Nat
  | [] => none
  | a :: rest => match minList rest with
    | none => some a
    | some b => some (min a b)

end Sys2Proof.Machine
end

