-- ==== Sys2Proof/Machine/State.lean ====
section
/-! DEFINITION. The state of the part as plain data. Every field carries its reset value as its default; `State.reset`
is the part with every field at that value. A default with no comment of its own is the value the spec gives for reset;
where the spec gives none, INVENTORY.md and the assumption log name the choice. -/

namespace Sys2Proof.Machine

/-! ### Outputs: what the part emits, oldest first -/

/-- Carrier and protocol signals of a reader (R341, R344, R348, R349): a detection burst; the frames of an activation, an anticollision frame with
the bits of its level known so far, SELECT with its four bytes, RATS and ATTRIB with an FSD of 256 B, PPS and ATTRIB with the rate, REQB with its
slots and AFI 0x00; HLTA and HLTB; R(ACK), R(NAK), the answer to S(WTX); S(DESELECT) alone, which sets the card to HALT, and with the carrier
off after it; and carrier off alone. -/
inductive CardCtl where
  | burst | reqa
  | anticoll (level : Nat) (known : List Bool)
  | select (level : Nat) (bytes : Bytes)
  | rats
  | pps (rate : Nat)
  | reqb (slots : Nat)
  | slotMarker (slot : Nat)
  | attrib (pupi : Bytes) (rate : Nat)
  | hlta
  | hltb (pupi : Bytes)
  | ack | nak
  | wtx (m : Nat)
  | halt | deselect | off
  deriving DecidableEq, Repr

/-- The value X_k of a subcarrier: (i + jq) over the square root of `pow`, the mean power of its constellation (R389). -/
structure Point where
  i : Int
  q : Int
  pow : Nat
  deriving DecidableEq, Repr

/-- A symbol on the line: a guard that repeats the end of its body, the body, both in ns, and the subcarriers that are not 0 (R378,
R384). -/
structure LineSym where
  guard : Nat
  body : Nat
  points : List (Nat × Point)
  deriving DecidableEq, Repr

/-- What the part has an NVMe drive do, of the subset of R435. -/
inductive NvmeCmd where
  /-- CC.EN with an admin queue pair of the depth given -/
  | enable (depth : Nat)
  /-- Identify, of the controller (0) or of a namespace -/
  | identify (nsid : Nat)
  /-- Get Log Page, SMART / Health Information -/
  | health
  /-- Set Features: the feature's number and value -/
  | feature (fid val : Nat)
  /-- Create I/O Completion Queue and Submission Queue: their number and depth -/
  | queuePair (id depth : Nat)
  /-- Asynchronous Event Request -/
  | awaitEvent
  /-- Dataset Management, deallocate: the whole of NSID 1 (R592) -/
  | deallocate
  /-- Write with FUA of stripe 0, the label: STORE_UID, DRIVE_UID, ledger position (R437) -/
  | label (store : BitVec 128) (uid : Bytes) (lsn : Nat)
  /-- Write with FUA of bytes of a group's stripe, from byte `off` of it (R432, R436) -/
  | write (group stripe off : Nat) (data : Bytes)
  /-- Abort, and the controller reset that follows (R438) -/
  | abort
  | reset
  /-- The normal shutdown notification, CC.SHN (R444) -/
  | shutdown
  deriving DecidableEq, Repr

/-- One thing the part emits. The list of them in `State.outs` is the model's own record of the part's emissions
(log entry 6); nothing the part does reads it. -/
inductive Out where
  /-- A posted write to host memory under the requester ID of a function (R119, R155). -/
  | hostWrite (func addr : Nat) (data : Bytes)
  /-- An MSI-X message (R134). -/
  | msix (func vec : Nat) (addr data : Nat)
  /-- A CAN frame sent on a port (R323, R326, R561). -/
  | can (port ident : Nat) (data : Bytes)
  /-- An LF telegram segment: the carrier in units of 0.1 kHz, and of each channel driven its number, its duty in 1/64 and its phase in
  1/256 of a cycle; then the runs of carrier, on or off, with their lengths in µs (R223, R224, R227, R229). -/
  | lf (carrier : Nat) (drive : List (Nat × Nat × Nat)) (runs : List (Bool × Nat))
  /-- A UHF trigger frame on a chain: the frequency in units of 10 kHz and the power at UHFk_RFOUT in half dB above −20 dBm (R263, R267,
  R270). -/
  | trigger (chain freq power : Nat) (data : Bytes)
  /-- A tone exchange of a sounding burst on a chain: its frequency in units of 10 kHz, the power, and the µs from one exchange to the next
  (R263, R267, R280). -/
  | tone (chain freq power period : Nat)
  /-- The burst put out last on a chain ends here, `ran` ns after it began: the exchanges not begun by then are not sent (R266, R277,
  R283). -/
  | burstStop (chain ran : Nat)
  /-- The LF segment put out last ends here, `ran` ns after it began: both bridge switches of every channel are off (R225, R230). -/
  | lfStop (ran : Nat)
  /-- A command APDU, or a part of one with more to come, that a reader sends to its card (R341, R348, R350, R363). -/
  | card (reader : Nat) (more : Bool) (apdu : Bytes)
  /-- What else a reader does on the air (R348, R349, R352). -/
  | cardCtl (reader : Nat) (what : CardCtl)
  /-- A frame sent on an Ifeven port: when it starts, ns, its seven header bytes and its payload (R386, R408), the PSD asked of the balls in half dB above
  −75 dBm/Hz (R381), and the symbols on the line (R378, R383–R390). -/
  | line (port at_ : Nat) (head payload : Bytes) (psd : Int) (syms : List LineSym)
  /-- An update transport message sent on an Ethernet port to a MAC address (R550). -/
  | transport (port mac : Nat) (payload : Bytes)
  /-- A line of UART0's report of a Hearth step (R560). -/
  | uart (what : Nat)
  /-- A change of a package output (R56, R59, R75, R82, R274, R320): level 0 low, 1 high, 2 driven by nothing. PMIC_EN0 to PMIC_EN3 are
  outputs 0 to 3, SLK0 and SLK1 10 and 11, COEX_REQ0, COEX_REQ1 and COEX_PRI 20 to 22, UHFk_TRSW 30 + k. -/
  | pin (name level : Nat)
  /-- A write on the PMIC bus: the PMIC's address, its output register, and the VCORE in mV that the code written stands for at
  the slope the power record declares (R83, R102). -/
  | pmic (addr reg mv slope : Nat)
  /-- A command to an NVMe drive, or a write of its controller's registers (R435–R438, R444). -/
  | nvme (drive : Nat) (cmd : NvmeCmd)
  deriving DecidableEq, Repr

/-! ### Rings, functions, flights (chapter 4) -/

/-- The states of a ring pair (R128). -/
inductive RingSt where
  | disabled | running | draining | stopped
  deriving DecidableEq, Repr

/-- The set-up fields of a ring pair (R144): base addresses, sizes, vector and moderation. -/
structure RingSetup where
  /-- HOST_HR_BASE -/
  hrBase : BitVec 64 := 0
  /-- HOST_TR_BASE -/
  trBase : BitVec 64 := 0
  /-- HOST_CIWB -/
  ciwb : BitVec 64 := 0
  /-- HOST_HR_LOG2 -/
  hrLog : BitVec 5 := 0
  /-- HOST_TR_LOG2 -/
  trLog : BitVec 5 := 0
  /-- HOST_RING_VEC -/
  vec : BitVec 11 := 0
  /-- HOST_MOD_COUNT -/
  modCount : BitVec 8 := 0
  /-- HOST_MOD_US -/
  modUs : BitVec 16 := 0
  deriving DecidableEq, Repr

/-- A ring pair (R103–R141). -/
structure Ring where
  /-- The set-up fields as they stand. -/
  setup : RingSetup := {}
  /-- The set-up recorded in the ledger at the last enable or disable (R132). -/
  recorded : RingSetup := {}
  /-- The state that the ledger holds: that of the last enable or disable recorded, STOPPED after a recorded enable that stopped (R132). -/
  ledSt : RingSt := .disabled
  /-- The set-up checked at the last enable: where the part reads and writes while the ring is not DISABLED (R105). -/
  inForce : RingSetup := {}
  /-- HOST_RING_ST -/
  st : RingSt := .disabled
  /-- HOST_RING_ERR (R145) -/
  err : BitVec 8 := 0
  /-- HOST_HR_PI, HOST_HR_CI, HOST_TR_PI, HOST_TR_CI: free-running 32-bit indices -/
  hrPi : BitVec 32 := 0
  hrCi : BitVec 32 := 0
  trPi : BitVec 32 := 0
  trCi : BitVec 32 := 0
  /-- HOST_RING_SEQ_HI -/
  seqHi : Nat := 0
  /-- TR_CI as the last checkpoint or disable recorded it (R138). -/
  trCiRec : BitVec 32 := 0
  /-- The next Tailrace slot to be written (R120, R138). -/
  trWrite : BitVec 32 := 0
  /-- The interrupt is armed (R134). -/
  armed : Bool := false
  /-- Completions written since arming and not yet signalled. -/
  modPend : Nat := 0
  /-- When the moderation timer fires, µs. -/
  modAt : Option Nat := none
  /-- Completions and write-backs are no longer written (R129, R133). -/
  mute : Bool := false
  /-- A change of HR_CI or state awaits its write-back; the time it is due (R108). -/
  wbDue : Option Nat := none
  /-- A doorbell recorded while the sluice has stopped for Parked entry (R112). -/
  heldHrPi : Option (BitVec 32) := none
  heldTrCi : Option (BitVec 32) := none
  /-- Head slot as last read (R109: before acceptance the part may read ahead). -/
  peek : Option (BitVec 512) := none
  /-- Which enable of the ring this is: indices do not carry over between enables (R106). -/
  era : Nat := 0
  /-- The memory the ring was checked against at enable: function, Headrace, Tailrace and write-back (R105, R180). -/
  func : Nat := 0
  /-- The tenancy that owned the ring at its last enable. -/
  owner : Nat := 0
  deriving DecidableEq, Repr

/-- An MSI-X table entry; PCIe reset value: masked, address and data 0 (R604). -/
structure MsixVec where
  addr : BitVec 64 := 0
  data : BitVec 32 := 0
  masked : Bool := true
  /-- The pending bit (R136). -/
  pending : Bool := false
  deriving DecidableEq, Repr

/-- What one PCIe function keeps of its own (R144, R186, R599, R604). -/
structure Func where
  /-- HOST_SEL_TENANCY -/
  selTen : BitVec 10 := 0
  /-- HOST_SEL_RING -/
  selRing : BitVec 6 := 0
  /-- SLC_SEL_TENANCY -/
  slcTen : BitVec 10 := 0
  /-- SLC_SEL_CULVERT -/
  slcCulv : BitVec 4 := 0
  /-- A writ has removed the tenancy or culvert that SLC_SEL names (R610) -/
  slcGone : Bool := false
  /-- MSI-X Enable of the function -/
  msixEn : Bool := false
  /-- The function mask of the function's MSI-X capability -/
  fnMask : Bool := false
  /-- The high half latched by a read of a low half, with the offset it belongs to (R599) -/
  high : Option (Nat × BitVec 32) := none
  /-- The value the function's last BAR0 read returned (the model's record of a read, log entry 8) -/
  lastRead : BitVec 64 := 0
  deriving DecidableEq, Repr

/-- A culvert (R152); RIGHTS 0 means that it does not exist. -/
structure Culvert where
  base : Nat := 0
  size : Nat := 0
  /-- Bit 0 R, bit 1 W, bit 2 RING -/
  rights : BitVec 3 := 0
  deriving DecidableEq, Repr

/-- A weir (R156); a new tenancy's weir holds every field's minimum (R172). -/
structure Weir where
  rate : Nat := 1
  burst : Nat := 1
  byteRate : Nat := 1
  inflightMax : Nat := 1
  custodyQuota : Nat := 0
  handleQuota : Nat := 0
  dirQuota : Nat := 0
  deriving DecidableEq, Repr

/-- A tenancy row (R149) with its culverts (R150), weir (R156) and sluice figures (R157, R161). FUNC 0x7F: no tenancy. -/
structure Tenancy where
  func : Nat := 0x7F
  party : Nat := 0
  ringBase : Nat := 0
  ringCount : Nat := 0
  weight : Nat := 0
  classMask : BitVec 16 := 0
  nsRead : BitVec 16 := 0
  nsWrite : BitVec 16 := 0
  /-- LEAVEN_LABEL, 32 B -/
  label : Bytes := []
  /-- Culverts 0 to 15 (default: does not exist) -/
  culverts : Tab Culvert := []
  weir : Weir := {}
  deriving DecidableEq, Repr

/-- A culvert range checked at admission and recorded with the acceptance (R154, R180). -/
structure HostRange where
  func : Nat
  addr : Nat
  len : Nat
  deriving DecidableEq, Repr

/-- The fate of an accepted descriptor (R122); the ledger record of it. -/
structure FateRec where
  /-- FATE -/
  code : Nat
  /-- RESULT[55:0] -/
  result : Nat := 0
  /-- DETAIL, RESULT[63:56] -/
  detail : Nat := 0
  /-- PROGRESS[31:24] -/
  stage : Nat := 0
  /-- PROGRESS[23:0] -/
  units : Nat := 0
  laneMoved : Bool := false
  stale : Bool := false
  degraded : Bool := false
  spare : Bool := false
  /-- ECHO_FATE -/
  echo : Nat := 0
  /-- Time the fate was written to the ledger, µs -/
  tFate : Nat := 0
  deriving DecidableEq, Repr

/-- What was charged against a quota at admission (R158). -/
inductive Charge where
  | none
  | custody (bytes : Nat)
  | handle
  | dir (entries : Nat)
  deriving DecidableEq, Repr

/-- An accepted descriptor: its acceptance record and what became of it (R32, R34, R107, R180). -/
structure Flight where
  /-- Global ring, and the enable of it under which the descriptor was accepted -/
  ring : Nat
  era : Nat
  /-- Tenancy, its PARTY and its function at admission -/
  ten : Nat
  party : Nat
  func : Nat
  /-- The 64 B accepted (R109) -/
  raw : BitVec 512
  /-- HR_CI at acceptance and the Tailrace slot reserved (R107) -/
  hrSlot : BitVec 32
  trSlot : BitVec 32
  /-- The tenancy's row as it stood at admission (R178) -/
  rules : Tenancy := {}
  /-- Virtual-time stamp (R161) -/
  stamp : Nat
  /-- Admission time, µs, and policy epoch in force at admission -/
  tAdm : Nat
  epochAdm : Nat
  /-- Ledger position of the acceptance record -/
  lsn : Nat
  /-- The culvert ranges it was checked against, in the order its class names them (R180) -/
  ranges : List HostRange := []
  /-- Whether a SEQ-indexed ledger record stands for it (R127) -/
  seqIndexed : Bool := true
  /-- The earlier descriptor a DUPLICATE waits for (R126) -/
  dupOf : Option Nat := none
  /-- The operation has begun (R133) -/
  begun : Bool := false
  /-- Stage reached and units so far while in flight (R121, R143) -/
  stage : Nat := 0
  units : Nat := 0
  laneMoved : Bool := false
  degraded : Bool := false
  spare : Bool := false
  charge : Charge := .none
  /-- The fate, once it is in the ledger -/
  fate : Option FateRec := none
  /-- Its completion has been written at least once -/
  posted : Bool := false
  deriving DecidableEq, Repr

/-- The HOST block and the rings. -/
structure HostBlk where
  /-- The rings, by global number (default: never enabled) -/
  rings : Tab Ring := []
  /-- The functions, by number -/
  funcs : Tab Func := []
  /-- MSI-X vectors, by function × 2048 + vector -/
  vecs : Tab MsixVec := []
  /-- Every accepted descriptor in acceptance order; its index is its acceptance number -/
  flights : List Flight := []
  /-- HOST_PERST_N is low: the link is held in reset (R67) -/
  perst : Bool := false
  /-- VF Enable of the SR-IOV capability (R147; log entry 91) -/
  vfEn : Bool := true
  /-- HOST_LINK_SPEED, HOST_LINK_WIDTH, HOST_LANE_REV, HOST_LANE_INV (R604) -/
  linkSpeed : BitVec 3 := 0
  linkWidth : BitVec 4 := 0
  laneRev : Bool := false
  laneInv : BitVec 2 := 0
  deriving DecidableEq, Repr

/-! ### Tenancies, culverts, weirs, the sluice (chapter 5) -/

/-- The running figures the sluice keeps for a tenancy (R157, R161, R163). Buckets are held in millionths
so that a refill of RATE per second is whole per µs. -/
structure TenRun where
  /-- F_t, the finish tag -/
  finish : Nat := 0
  /-- Descriptor bucket, millionths of a token, and the time it was last brought up to date -/
  tokens : Int := 0
  /-- Byte bucket, millionths of a byte; it may stand below zero (R157) -/
  bytes : Int := 0
  at_ : Nat := 0
  /-- Both buckets have been filled since the tenancy's weir was first used (log entry 12) -/
  primed : Bool := false
  /-- The tenancy-local ring served last (R163) -/
  lastRing : Nat := 63
  /-- Quota charges held: custody bytes, key handles, directory entries (R158) -/
  custodyHeld : Nat := 0
  handlesHeld : Nat := 0
  dirHeld : Nat := 0
  deriving DecidableEq, Repr

/-- A Warden slot (R166): ROLE 0 empty, 1 Vehicle, 2 Fleet. -/
structure Warden where
  role : Nat := 0
  alg : Nat := 0
  keyHash : Bytes := []
  deriving DecidableEq, Repr

/-- The Warden slots fused at vehicle build (R167): one Vehicle and one Fleet slot; the model's ALG and KEY_HASH stand in for
values the spec leaves to the build (log entry 15). -/
def fusedWardens : List Warden :=
  [{ role := 1, alg := 1, keyHash := List.replicate 32 0 }, { role := 2, alg := 1, keyHash := List.replicate 32 0 }]

/-- A writ that has taken effect and has not settled (R181). -/
structure Settling where
  /-- The WRIT_APPLY descriptor -/
  op : Nat
  /-- Affected tenancies, and how many descriptors had been accepted when it took effect -/
  tens : List Nat
  upTo : Nat
  /-- Rings it moved to DRAINING, each with its enable -/
  rings : List (Nat × Nat)
  /-- The epoch its record set -/
  epoch : Nat
  deriving DecidableEq, Repr

/-- The SLC block: tenancy table, sluice, Wardens, policy epoch. -/
structure Slc where
  /-- VECS of each function (R148) -/
  vecs : Tab Nat := [(0, 64)]
  /-- The tenancy table (default: no tenancy) -/
  tens : Tab Tenancy := []
  run : Tab TenRun := []
  /-- System virtual time V (R162) and the highest stamp issued -/
  vtime : Nat := 0
  topStamp : Nat := 0
  /-- SLC_EPOCH (R151: 1 while the provisioning table is in force) -/
  epoch : Nat := 1
  /-- The Warden set, slots 0 to 7, kept in the Starter vault (R166) -/
  wardens : List Warden := fusedWardens ++ List.replicate 6 ({} : Warden)
  settling : List Settling := []
  /-- EVIDENCE byte bucket of the thermal governor, millionths of a byte, and when it was last brought up to date (R626) -/
  evBytes : Int := 0
  evAt : Nat := 0
  deriving DecidableEq, Repr

/-! ### Modes, rails, start-up, wake (chapters 3, 19, 20) -/

/-- The modes of R85. -/
inductive Mode where
  | dormant | parked | cab | drive | service | hearth
  deriving DecidableEq, Repr

/-- Where the start-up sequence of R95 stands. -/
inductive Start where
  /-- VAON has not passed its power-on filter. -/
  | off
  /-- Enables are rising; the fuse load has not begun (steps 1, 2). -/
  | rails
  /-- The fuse load runs (step 2). -/
  | fusing
  /-- The boot stage is verified; configuration records are being loaded (step 4). -/
  | config
  /-- The ledger is being replayed (step 5). -/
  | replay
  /-- No start-up is under way: released, or resting in Parked, Dormant or Hearth. -/
  | settled
  deriving DecidableEq, Repr

/-- Parked entry (R86). -/
inductive Parking where
  | none
  /-- Steps 1 to 4: admission has stopped and accepted work runs to its fate. -/
  | draining
  /-- Step 5: the drives are being shut down. -/
  | shutting
  deriving DecidableEq, Repr

/-- A WAKE pin (R90, R96, R102, R581). -/
structure WakePin where
  /-- ROLE: 0 EDGE, 1 IGN, 2 VBAT (cfg) -/
  role : BitVec 2 := 3
  /-- POL (cfg) -/
  pol : Bool := false
  /-- THRESH, 10 mV units (cfg) -/
  thresh : BitVec 8 := 0
  /-- PWR_WAKEn_MASKED -/
  masked : Bool := false
  /-- The comparator reads above the threshold -/
  above : Bool := false
  /-- When the level last changed, µs -/
  since : Nat := 0
  /-- The 1 ms deglitch is running -/
  deglitch : Bool := false
  deriving DecidableEq, Repr

/-- The PWR block and the AON island's share of it. -/
structure Pwr where
  vaon : Bool := false
  /-- The AON island takes its power from VKEEP (R84) -/
  onVkeep : Bool := true
  /-- The AON state has been lost and the start-up that follows has not been released (R25, R85) -/
  aonLost : Bool := true
  mode : Mode := .cab
  start : Start := .off
  parking : Parking := .none
  /-- PWR_MODE_START -/
  modeStart : BitVec 8 := 0x01
  /-- PMIC_EN0 to PMIC_EN3 -/
  en : BitVec 4 := 0
  /-- When the enable of each group last rose (R82's 10 ms) -/
  enAt : Nat := 0
  /-- PWR_RAIL_GOOD and PWR_RAIL_FAULT: VIO33, VRF, VLFDRV, VCORE, VSRAM, VIO18, VSERDES, VDD2, VDDQ -/
  railGood : BitVec 9 := 0
  railFault : BitVec 9 := 0
  /-- PWR_PMIC_BUS_FAULT -/
  pmicFault : Bool := false
  /-- PWR_WAKE_CAUSE bits [11:0] (AON) -/
  wakeCause : BitVec 12 := 0
  pins : List WakePin := List.replicate 4 {}
  /-- DSENSE levels (1 high), and which inputs are fitted as cab doors -/
  dsense : BitVec 8 := 0
  /-- End of the 60 s wake window after a Dormant wake, µs (R90) -/
  window : Option Nat := none
  /-- An authenticated token was seen in the window -/
  windowToken : Bool := false
  /-- PWR_DORMANCY_DAYS and PWR_DORMANCY_HOURS (AON; 21 after AON loss) -/
  dormDays : Nat := 21
  dormHours : Nat := 0
  /-- The next whole hour in Parked, µs; in Dormant, the µs still to go to it (R92) -/
  hourAt : Nat := 0
  /-- Last passive unlock, µs (R85) -/
  passiveUnlock : Option Nat := none
  /-- Last doorbell, µs (R86) -/
  lastDoorbell : Nat := 0
  /-- A Cab trigger arrived after step 5 of Parked entry had begun (R87) -/
  cabAfter : Bool := false
  /-- PWR_VKEEP_MV and PWR_VKEEP_LOW -/
  vkeepMv : BitVec 12 := 0
  vkeepLow : Bool := false
  /-- PWR_ALARM_S (AON): when the alarm falls due on the RTC, µs -/
  alarmAt : Option Nat := none
  /-- PWR_DIE_TEMP and PWR_GOV_LEVEL -/
  dieTemp : BitVec 8 := 0
  govLevel : Nat := 0
  /-- PWR_VCORE_MV -/
  vcoreMv : BitVec 10 := 0
  /-- The VCORE that the PMIC holds by the part's last write, mV; none since its output was last switched on (R83) -/
  vcoreSet : Option Nat := none
  /-- The wake slice is powered; the time of its last use, µs (R26) -/
  slice : Option Nat := none
  /-- End of the 3 s of R85 that lead from Drive to Cab, µs -/
  driveQuiet : Option Nat := none
  /-- Service: when its duration ends, µs (R592); and whether a HALT debug session opened it -/
  serviceEnd : Option Nat := none
  /-- Checkpoint due, µs (R22) -/
  checkpointAt : Nat := 0
  /-- Active steward pair is B; each pair's service state (R21, R572) -/
  activeB : Bool := false
  /-- The pair that wrote the last checkpoint is B (R21) -/
  ckptB : Bool := false
  aOut : Bool := false
  bOut : Bool := false
  /-- The failed pair runs its built-in self-test -/
  selfTest : Option Bool := none
  /-- A ledger drain in Parked is under way (R454) -/
  ledgerDrain : Bool := false
  /-- PMIC_EN0 rose on a wake from Dormant, and its group has not been good since (R82, R90) -/
  waking : Bool := false
  /-- Dormant entry is under way on the wake slice, with the cause of its record: steps 1 and 2 are done and step 3 has not
  begun (R89) -/
  dorming : Option Nat := none
  deriving DecidableEq, Repr


/-! ### Angle, clocks, Furrow and Counter Bank (chapter 6) -/

/-- A Furrow table entry (R193). -/
structure FurrowEntry where
  start : Nat
  length : Nat
  /-- UNIT: LENGTH is in µs -/
  inUs : Bool
  /-- REPEAT: once per cylinder -/
  perCyl : Bool
  source : Nat
  deriving DecidableEq, Repr

/-- The Furrow table in force; the defaults are those of R196. -/
structure FurrowTable where
  tableId : Nat := 0
  cyl : Nat := 1
  cycleRevs : Nat := 1
  tdcOffset : Nat := 0
  guardUs : Nat := 0
  accMax : Nat := 3000
  propTeeth : Nat := 0
  propWiden : Nat := 0
  propHoldS : Nat := 0
  wheelPulsesKm : Nat := 0
  entries : List FurrowEntry := []
  deriving DecidableEq, Repr

/-- The crank decoder (R188). Times in ns. -/
structure Crank where
  /-- Time of the last edge, for the decoder and for R313 -/
  last : Option Nat := none
  seen : Option Nat := none
  /-- Last period, the gap taken as one third of its duration -/
  per : Option Nat := none
  /-- A gap edge has been seen and every period since lies within bounds -/
  gapSeen : Bool := false
  /-- Ordinary teeth since the last gap edge -/
  teeth : Nat := 0
  /-- ANG_CRANK_SYNC -/
  sync : Bool := false
  /-- Tooth of the last edge, and the revolution of the cycle, while synchronised -/
  tooth : Nat := 0
  second : Bool := false
  /-- Coasting during a switch window: time, tooth and period it started from, and edges validated (R202) -/
  coastT : Nat := 0
  coastTooth : Nat := 0
  coastPer : Nat := 0
  coastHits : Nat := 0
  /-- How far past `coastTooth` the coasting began: 60ths of an ang, or thousandths of a propshaft pitch (R202) -/
  coastOfs : Int := 0
  /-- How far the coasted position kept by an abandoned switch lies past the last edge's tooth, 60ths of an ang; 0 from the next edge
  on (R202) -/
  ofs : Int := 0
  deriving DecidableEq, Repr

/-- The cam decoder (R189). -/
structure Cam where
  /-- ANG_CAM_PHASE -/
  known : Bool := false
  /-- Position of the last cam edge in its cycle, ang from tooth 0 of the cycle's first revolution -/
  pos : Nat := 0
  /-- Crank angle passed since the last cam edge, 60ths of an ang -/
  adv : Nat := 0
  deriving DecidableEq, Repr

/-- The propshaft decoder (R190). -/
structure PropShaft where
  last : Option Nat := none
  per : Option Nat := none
  /-- Consecutive periods within 0.5 to 1.5 times their predecessors -/
  good : Nat := 0
  /-- Edges seen since reset -/
  edges : Nat := 0
  /-- Edges and fraction at the last crank tooth 0, thousandths of a pitch -/
  atTooth0 : Option Nat := none
  /-- Last ratio measured and the ratio held, millionths -/
  measured : Option Nat := none
  ratio : Option Nat := none
  /-- At the loss of the crank: crank position (60ths of an ang) and propshaft thousandths of a pitch -/
  lossPos : Nat := 0
  lossProp : Nat := 0
  /-- The position reached when the switch to the propshaft completed, below which the prediction does not fall (R192) -/
  floor : Nat := 0
  /-- How far the coasted propshaft angle kept by an abandoned switch lies past the last edge, thousandths of a pitch -/
  ofs : Int := 0
  /-- The switch from PROP to TIME that runs was started by its loss, not by PROP_HOLD_S -/
  lost : Bool := false
  deriving DecidableEq, Repr

/-- The angle reference (R201). -/
inductive Ref where
  | time | prop | crank
  deriving DecidableEq, Repr

/-- A window the Furrow granted (R198), in ns. -/
structure Window where
  start : Nat
  stop : Nat
  /-- The LF requester; otherwise the UHF requester -/
  lf : Bool
  /-- The Furrow table it was granted under, by which it is judged (R196) -/
  table : FurrowTable := {}
  /-- The crank angle when it was last judged, 60ths of an ang, and how far from there the noise counts by which it was granted (R199) -/
  at60 : Nat := 0
  reach : Int := 0
  deriving DecidableEq, Repr

/-- One counter of the bank (R209–R214). -/
structure Cnt where
  en : Bool := false
  irq0 : Bool := false
  irq1 : Bool := false
  capIrq : Bool := false
  capSrc : BitVec 4 := 0
  capEdge : BitVec 2 := 0
  prescale : BitVec 8 := 0
  top : Nat := 0xFFFFFFFE
  /-- A TOP written while enabled, waiting for the next count of 0 -/
  topNext : Option Nat := none
  count : Nat := 0
  /-- CNT_DIR: DOWN -/
  down : Bool := false
  cap : Nat := 0
  capFull : Bool := false
  capOvr : Bool := false
  cmp0 : Nat := 0xFFFFFFFF
  cmp1 : Nat := 0xFFFFFFFF
  hit0 : Bool := false
  hit1 : Bool := false
  /-- CNT_RATE_CHG -/
  rateChg : Bool := false
  /-- The fraction of a tick already passed -/
  acc : Nat := 0
  deriving DecidableEq, Repr

/-- The ANG and CNT blocks and the clocks. -/
structure Clk where
  /-- TIME_MONO in ns (R207 counts its whole µs) -/
  ns : Nat := 0
  /-- TIME_MONO when it last began to advance from the RTC, µs (R207) -/
  rtcFrom : Nat := 0
  /-- Highest time recorded in the ledger, µs (R207) -/
  ledgerUs : Nat := 0
  /-- TIME_VALID, and wall-clock time at `ns` = 0, µs (R208); it may be negative -/
  wallSet : Bool := false
  wallBase : Int := 0
  /-- TIME_MONO of the last TIME_SET that took effect, µs (R216) -/
  lastSet : Option Nat := none
  /-- ANG_CLK_SRC, ANG_CLK_SWITCHING, ANG_RTC_SRC -/
  onRc : Bool := false
  clkSwitching : Bool := false
  /-- XTAL25 has been good since -/
  rtcOnRc : Bool := false
  /-- Correction last measured for the RTC's RC (R206) -/
  rtcCal : Nat := 0
  crank : Crank := {}
  cam : Cam := {}
  prop : PropShaft := {}
  /-- ANG_REF, and the target while ANG_SWITCHING -/
  ref : Ref := .time
  switching : Option Ref := none
  /-- End of the switch window, ns -/
  switchEnd : Nat := 0
  /-- Entry to PROP, ns -/
  propSince : Nat := 0
  /-- ANG_POS as last set, when the position is not being predicted -/
  posHeld : Nat := 0
  /-- ANG_EVENTS -/
  events : BitVec 6 := 0
  /-- ANG3: time of the last pulse and last period, ns (R191) -/
  wheelLast : Option Nat := none
  wheelPer : Option Nat := none
  /-- CAN road-speed figure, 0.01 km/h, and the time of its last frame, ns; valid below 200 ms of age (R191) -/
  canRoad : Nat := 0
  canRoadAt : Option Nat := none
  /-- CAN engine-speed figure, 1/65,536 rpm, and the time of its last frame (R307, R308) -/
  canRpm : Nat := 0
  canRpmAt : Option Nat := none
  table : FurrowTable := {}
  windows : List Window := []
  /-- The counters, CNT_SEL, CNT_IRQ_VEC -/
  cnts : List Cnt := List.replicate 16 {}
  cntSel : BitVec 4 := 0
  cntVec : BitVec 11 := 0
  deriving DecidableEq, Repr

/-! ### The ledger (chapters 1, 13) -/

/-- The 64 B part body of a part record, with its KIND (R448). -/
structure PartRec where
  kind : Nat
  tid : Nat := 0
  ten : Nat := 0
  zone : Nat := 0
  cause : Nat := 0
  oldState : Nat := 0
  newState : Nat := 0
  unit : Nat := 0
  epoch : Nat := 0
  fresh : Nat := 0
  tcnt : Nat := 0
  sealId : Nat := 0
  seq : Nat := 0
  cplId : Nat := 0
  count : Nat := 0
  /-- The whole writ, for KIND WRIT -/
  extra : Bytes := []
  tMono : Nat := 0
  wall : Nat := 0
  deriving DecidableEq, Repr

/-- What a ledger record says. -/
inductive LKind where
  /-- An acceptance, by acceptance number (R32) -/
  | accept (op : Nat)
  /-- A fate (R34) -/
  | fate (op : Nat)
  /-- A ring's enable or disable (R132) -/
  | ringSet (ring : Nat)
  /-- A checkpoint (R22) -/
  | checkpoint
  /-- Parked entry and Dormant entry (R86, R89) -/
  | parkedEntry
  | dormantEntry (cause : Nat)
  /-- The writ that set this epoch (R176) -/
  | writ (epoch : Nat)
  /-- A part record that becomes a custody record (R27, R448) -/
  | part (p : PartRec)
  /-- The intent of an external effect, and its emission confirmed (R39) -/
  | intent (what : Nat) (arg : Nat)
  | emitted (what : Nat) (arg : Nat)
  /-- An evidence read-out (R458) -/
  | readOut (op : Nat)
  /-- A steward pair leaves service, or returns (R572) -/
  | pair (b out : Bool)
  /-- A fault record (R567) -/
  | fault (no : Nat)
  /-- A tamper record (R588) -/
  | tamper (cls : Nat)
  /-- An eviction, keeping class and RID (R459) -/
  | evict (cls rid : Nat)
  /-- A directory change takes effect (R469) -/
  | dirChange (rev : Nat)
  /-- A TCNT received (R242) -/
  | tcnt (tid val : Nat)
  /-- A change of a spare, unit or drive the ledger keeps (R574) -/
  | unit (u : Nat) (state : Nat)
  /-- A handle's creation or closure, with its wrapped key and its attributes as KEY_INFO lays them out (R497) -/
  | handle (h : Nat) (opened : Bool) (wrapped attrs : Bytes)
  /-- A link-layer event kept in the ledger (R411, R417) -/
  | link (pos : Nat) (what : Nat)
  /-- Any other record, by the rule that calls for it -/
  | other (rule : Nat) (arg : Nat)
  deriving DecidableEq, Repr

/-- One ledger record. -/
structure LRec where
  lsn : Nat
  kind : LKind
  /-- Log space it takes, in units of 32 B, the fate's share of an acceptance included -/
  units : Nat
  /-- A part record already copied to its class (R453) -/
  copied : Bool := false
  deriving DecidableEq, Repr

/-- The ledger (R451–R455). -/
structure Ledger where
  aFailed : Bool := false
  bFailed : Bool := false
  /-- Sectors of a half being refilled -/
  aRefill : Nat := 0
  bRefill : Nat := 0
  /-- Spare sectors left in each half -/
  aSpares : Nat := 64
  bSpares : Nat := 64
  /-- CUS_LSN: LSN of the last record -/
  lsn : Nat := 0
  /-- The log, oldest first -/
  log : List LRec := []
  /-- Log space used, units of 32 B, of 122,880 -/
  used : Nat := 0
  /-- The two low-space states of R454 -/
  low : Bool := false
  veryLow : Bool := false
  /-- LSN up to which a LEDGERCP covers the log, and when the last one was written, µs (R452) -/
  cpLsn : Nat := 0
  cpAt : Nat := 0
  deriving DecidableEq, Repr

/-- The SYS block and the fused identity (R13, R601–R603). -/
structure Sys where
  /-- SYS_READY -/
  ready : Bool := false
  /-- SYS_ROLE: 1 trailer (cfg) -/
  trailer : Bool := false
  /-- SYS_RESET_CAUSE -/
  resetCause : BitVec 4 := 0
  /-- SYS_LOCK_SETUP -/
  lockSetup : Bool := false
  /-- SYS_SCRATCH (RWS) -/
  scratch : BitVec 32 := 0
  /-- Operations whose external effect a reset cut short: the fate replay gives each, and its record (R39, R365, R422) -/
  broken : List (Nat × FateRec × Option PartRec) := []
  deriving DecidableEq, Repr

/-- The values fused at vehicle build (R12, R601, R167). -/
structure Fuse where
  /-- SYS_UID, byte 0 first -/
  uid : BitVec 128 := 0
  /-- SYS_FUSE_OPT: 0x1 A -/
  opt : BitVec 4 := 1
  /-- SYS_DBG_FUSED, SYS_DBG_PERM -/
  dbgFused : Bool := true
  dbgPerm : Bool := false
  /-- SYS_TEN_CEIL -/
  tenCeil : Nat := 1024
  /-- The Warden set fused in OTP: one Vehicle slot and one Fleet slot (R167) -/
  wardens : List Warden := fusedWardens
  /-- Vendor key hashes in OTP that no revocation fuse has cancelled (R545) -/
  vendors : List Bytes := [List.replicate 32 0]
  /-- The private half of the Farvos family key (R544) -/
  family : Bytes := List.replicate 32 0
  deriving DecidableEq, Repr

/-! ### Configuration records and images in CFG (chapters 2, 17) -/

/-- A configuration record as CFG holds it (R557): header fields, body, signature block, and the record's bytes. -/
structure CfgRec where
  type : Nat
  format : Nat
  gen : Nat
  target : BitVec 128
  body : CfgBody
  bytes : Bytes
  deriving DecidableEq, Repr

/-- The records in force since the last configuration load (R558, R607); absent or invalid records read none. -/
structure CfgSet where
  board : Option BoardRec := none
  power : Option PowerRec := none
  lf : Option LfRec := none
  uhf : Option UhfRec := none
  ifl : Option IflRec := none
  custody : Option CustodyRec := none
  cap : Option (List Nat) := none
  deriving DecidableEq, Repr

/-! ### Faults, units, service (chapter 18) -/

/-- The service state of a unit: in service; out for a fault (R76); by-passed (R586) or retired (R575), which last
through every reset until a RESTORE. -/
inductive UnitSt where
  | up | out | bypassed | retired
  deriving DecidableEq, Repr

/-- A fault record (R567). -/
structure FaultRec where
  no : Nat
  tMono : Nat
  unitType : Nat
  unitIndex : Nat
  code : Nat
  severity : Nat
  action : Nat
  detail : Nat
  count : Nat
  arg : Nat
  deriving DecidableEq, Repr

/-- One detection of a fault, for COUNT (R567, R568). -/
structure FaultHit where
  at_ : Nat
  unit : Nat
  code : Nat
  deriving DecidableEq, Repr

/-- An error seen in an SRAM bank, and whether a repair of its row or of its column has answered it (R576). -/
structure SramErr where
  at_ : Nat
  bank : Nat
  row : Nat
  col : Nat
  rowDone : Bool := false
  colDone : Bool := false
  deriving DecidableEq, Repr

/-- The FLT block. -/
structure Flt where
  /-- Service state by UNIT_TYPE × 256 + UNIT_INDEX; model codes from 0x20 up stand for ports without a unit type -/
  units : Tab UnitSt := []
  /-- The last 4,096 records (ledger) and FLT_LAST_NO -/
  faults : List FaultRec := []
  lastNo : Nat := 0
  hits : List FaultHit := []
  /-- FLT_SHADOW_OK -/
  shadowOk : Bool := false
  /-- FLT_HEARTH_CAUSE (ledger), and whether its fault record is still to be written at the next release (R573) -/
  hearthCause : Nat := 0
  hearthOwed : Bool := false
  /-- Takeovers of each pair in the last 24 h: pair and time (R572) -/
  takeovers : List (Bool × Nat) := []
  /-- FLT_DBG_LEVEL, and when the DURATION_S of the DEBUG_UNLOCK ends, µs (R590) -/
  dbgLevel : Nat := 0
  dbgEnd : Nat := 0
  /-- FLT_EVENTS; bit 5 is AON -/
  events : BitVec 8 := 0
  /-- FLT_IRQ -/
  irqVec : BitVec 11 := 0
  irqSev : BitVec 2 := 1
  irqEn : Bool := false
  /-- FLT_STUCK -/
  canBusoff : BitVec 6 := 0
  canStuck : BitVec 6 := 0
  pmicStuck : Bool := false
  /-- When the last recovery of the PMIC bus was tried, µs -/
  pmicAt : Nat := 0
  pmicIrqStuck : Bool := false
  slkMismatch : BitVec 2 := 0
  coexStuck : BitVec 2 := 0
  /-- FLT_TAMPER bits [5:0] (AON) and the times of ALARM events -/
  tamper : BitVec 6 := 0
  alarms : List Nat := []
  /-- A ZEROISE without VAON is still to be reported from TAMPER_LOG (R588) -/
  tamperOwed : Bool := false
  /-- FLT_TEST; the shadow test's slices done of 64, and the descriptor that runs it -/
  testBusy : Bool := false
  testType : Nat := 0
  testIndex : Nat := 0
  testResult : Nat := 0
  testSlices : Nat := 0
  testOp : Option Nat := none
  /-- SRAM errors seen, and spare rows and columns used per bank (ledger) -/
  sramErrs : List SramErr := []
  rowsUsed : Tab Nat := []
  colsUsed : Tab Nat := []
  deriving DecidableEq, Repr

/-! ### Keys, lanes, random source, public-key and hash engines (chapters 15, 16) -/

/-- An entry of TAMPER_LOG (R485): RTC seconds, event code, class. -/
structure TamperEntry where
  secs : Nat
  event : Nat
  cls : Nat
  deriving DecidableEq, Repr

/-- The key of a node of the Leaven tree and what goes with it (R492, R496). -/
structure NodeKey where
  key : Bytes
  level : Nat
  deriving DecidableEq, Repr

/-- A key handle (R496). The key is held unwrapped; R497's wrapping of the stored copy cannot be seen from outside. -/
structure Handle where
  key : Bytes
  level : Nat
  usage : BitVec 8
  childMask : BitVec 8
  /-- 1 root, 2 derived, 3 imported -/
  origin : Nat
  /-- 0 own subtree, 1 TOKEN, 2 FRAME -/
  subtree : Nat
  starterGen : Nat
  /-- TIME_MONO of creation, µs -/
  created : Nat
  /-- Closed: descriptors with acceptance numbers below this one still use it (R498) -/
  closed : Option Nat := none
  deriving DecidableEq, Repr

/-- SEC_LANE_ST (R517). -/
inductive LaneSt where
  | spare | active | out | test | wake
  deriving DecidableEq, Repr

/-- A cipher lane (R505, R517). -/
structure Lane where
  st : LaneSt := .spare
  /-- SEC_LANE_FAULT: 0 none, 1 running self-check, 2 known-answer test, 3 thermal -/
  fault : Nat := 0
  /-- SEC_LANE_TEMP, °C -/
  temp : Int := 0
  /-- Times of the lane faults counted by SEC_LANE_ERRS, µs -/
  faults : List Nat := []
  /-- Brought in as a spare (R507) -/
  wasSpare : Bool := false
  /-- Retired (R575) or by-passed: kept out by the ledger through every reset -/
  kept : Bool := false
  /-- Its 256-bit mask seed, empty before the first, and the bytes masked under it (R531) -/
  seed : Bytes := []
  masked : Nat := 0
  deriving DecidableEq, Repr

/-- The state of a noise source (R527). -/
inductive SrcSt where
  | healthy | suspended | retired
  deriving DecidableEq, Repr

/-- A noise source (R524, R527, R537). -/
structure Source where
  st : SrcSt := .healthy
  /-- SEC_RNG_SRC_CAUSE -/
  cause : Nat := 0
  /-- Times of its failures, µs -/
  fails : List Nat := []
  /-- When the run of clean bits began (suspension, or the last failure or lock since), µs -/
  since : Nat := 0
  deriving DecidableEq, Repr

/-- The random source as a whole (R528). -/
inductive RngSt where
  | init | running | held | stopped
  deriving DecidableEq, Repr

/-- The output queues of the DRBG (R531). -/
inductive RngQueue where
  | key | pke | lanes | wake | rng
  deriving DecidableEq, Repr

/-- The CTR_DRBG (R530, R531). -/
structure Drbg where
  /-- Key and V of SP 800-90A; empty before the first instantiation -/
  key : Bytes := []
  v : Bytes := []
  /-- Generate requests since the last reseed -/
  requests : Nat := 0
  /-- The queue served last -/
  last : RngQueue := .rng
  /-- Descriptors whose requests wait, with their queue, in order of arrival -/
  waits : List (RngQueue × Nat) := []
  deriving DecidableEq, Repr

/-- The SEC block and the Starter vault. -/
structure Sec where
  /-- STARTER and STARTER_CHK (the vault; empty when lost or zeroised) -/
  starter : Bytes := []
  starterChk : Bytes := []
  /-- TAMPER_LOG, the sixteen latest -/
  tamperLog : List TamperEntry := []
  /-- SEC_STARTER_GEN (ledger) -/
  starterGen : Nat := 0
  /-- Ledger position of the record that began the present generation, and whether this start-up still owes a new Starter (R486) -/
  genLsn : Nat := 0
  starterDue : Bool := false
  /-- Keys in the engine's cache of derived keys have been erased by an ALARM; SEC_ALARM clears then, µs (R490) -/
  alarmEnd : Option Nat := none
  /-- SEC_KEY_EVENTS; bits 0 and 1 are AON -/
  keyEvents : BitVec 6 := 0
  /-- The handle table, by 48-bit handle (ledger); open and closed -/
  handles : Tab Handle := []
  /-- The generation each slot was last given (default: never used) -/
  slotGen : Tab Nat := []
  /-- SEC_LANE_SEL -/
  laneSel : BitVec 5 := 0
  lanes : List Lane := List.replicate 20 {}
  /-- SEC_CNT_CPH, SEC_CNT_TAG_FAIL -/
  cntCph : BitVec 32 := 0
  cntTagFail : BitVec 32 := 0
  /-- SEC_RNG_ST -/
  rng : RngSt := .init
  sources : List Source := List.replicate 4 {}
  /-- SEC_RNG_SRC_SEL -/
  srcSel : BitVec 2 := 0
  /-- SEC_RNG_SELFTEST_REQ (RWS) -/
  selfTestReq : Bool := false
  /-- SEC_RNG_EVENTS -/
  rngEvents : BitVec 5 := 0
  /-- The reseed count and TIME_MONO of the last reseed, µs -/
  reseeds : Nat := 0
  reseedAt : Nat := 0
  /-- The start-up self-test of the sources runs (R529) -/
  selfTest : Bool := false
  /-- The DRBG -/
  drbg : Drbg := {}
  /-- Raw bits of each source in the conditioner's block, as of a time, µs (R526) -/
  cond : List Nat := [0, 0, 0, 0]
  condAt : Nat := 0
  /-- SEC_PKE_LAST, SEC_CNT_PKE -/
  pkeLast : BitVec 8 := 0
  cntPke : BitVec 32 := 0
  deriving DecidableEq, Repr

/-! ### The start lock (chapter 9) -/

/-- The states of the latch (R304). -/
inductive Latch where
  | locked | armed | released | running | deferred
  deriving DecidableEq, Repr

/-- The start policy (R329); the defaults are those of the table. -/
structure StartPolicy where
  id : Nat := 0
  lockHold : Nat := 10
  releaseWin : Nat := 30
  armHold : Nat := 30
  reqCard : Bool := false
  cardReaders : BitVec 8 := 0
  cardNs : BitVec 16 := 0
  tokenNs : BitVec 16 := 0
  autoLock : Bool := true
  framePort : Nat := 0xFF
  frameAlt : Nat := 0xFF
  bodyPort : Nat := 0xFF
  stateId : BitVec 32 := 0
  bodyId : BitVec 32 := 0
  periodMs : Nat := 100
  /-- FRAME_KEY_LABEL; zeros mean no key -/
  keyLabel : Bytes := List.replicate 32 0
  rsPort : Nat := 0xFF
  rsByte : Nat := 0
  rsLen : Nat := 16
  rsId : BitVec 32 := 0
  rsScale : Nat := 256
  esPort : Nat := 0xFF
  esByte : Nat := 0
  esLen : Nat := 16
  esId : BitVec 32 := 0
  esScale : Nat := 8192
  deriving DecidableEq, Repr

/-- A transition whose record waits to be written (R305): its cause code, the token that caused it and, of a LOCK_REQ, the tenancy
and SEQ of its descriptor. -/
structure SlkRetry where
  cause : Nat
  tid : Nat := 0
  ten : Nat := 0xFFFF
  seq : Nat := 0
  deriving DecidableEq, Repr

/-- The start-lock engine and the SLK block. -/
structure Slk where
  /-- The latch: an 8-bit code and its complement (AON, R332) -/
  code : BitVec 8 := 0x3C
  comp : BitVec 8 := 0xC3
  /-- SLK_CAUSE (AON): 0x0D, power-up after AON loss -/
  cause : Nat := 0x0D
  /-- TIME_MONO of the last transition, µs -/
  tTransition : Nat := 0
  /-- SLK_BOUND_TID (ledger) -/
  bound : Nat := 0
  /-- SLK_TOKEN_LOST and SLK_TOKEN_UNKNOWN -/
  tokenLost : Bool := false
  tokenUnknown : Bool := false
  /-- SLK_TIMER_KIND: 1 ARM_HOLD_S, 2 RELEASE_WIN_S, 3 LOCK_HOLD_S; when it ends, µs (none: LOCK_HOLD_S waits for rest) -/
  timerKind : Nat := 0
  timerEnd : Option Nat := none
  /-- The end of the 15 s beyond the release window, and that the window has passed (R313) -/
  winCap : Nat := 0
  winDue : Bool := false
  /-- The transitions whose records are retried, oldest first, and when next (R305) -/
  retry : List SlkRetry := []
  retryAt : Nat := 0
  /-- SLK_FRESH_STATE and SLK_FRESH_BODY (ledger) -/
  freshState : Nat := 0
  freshBody : Nat := 0
  /-- When the last state frame was sent, µs, and the FLAGS last announced (R327) -/
  frameAt : Option Nat := none
  lastFlags : Nat := 0x08
  /-- CAN ports whose frames have moved to FRAME_ALT; when a port went bus-off, and since when it is error-active (R328) -/
  portOff : BitVec 6 := 0
  busOffAt : Tab Nat := []
  activeAt : Tab Nat := []
  /-- SLK_EVENTS; bit 3 is AON -/
  events : BitVec 8 := 0
  /-- R306 has been applied in this engine run -/
  noReleaseDone : Bool := false
  /-- R333 has been applied since the last reset; when it is due, µs; and that the reset was a Hearth exit -/
  reconciled : Bool := false
  reconcileAt : Option Nat := none
  hearthExit : Bool := false
  /-- STARTs with acceptance numbers below this one were admitted before the last lock-request record (R314) -/
  lockReqOps : Nat := 0
  /-- Since when every IGN-role WAKE pin has been deasserted, µs, until the 2 s of R310 have been used -/
  ignOffAt : Option Nat := none
  policy : StartPolicy := {}
  /-- The start policy each START was admitted under (R318), by acceptance number -/
  admitted : Tab StartPolicy := []
  deriving DecidableEq, Repr

/-! ### The directory (chapter 14) -/

/-- A directory entry (R464). -/
structure DirEntry where
  ns : Nat
  kind : Nat
  epoch : Nat
  id : Bytes
  keyHash : Bytes
  notBefore : Nat
  notAfter : Nat
  bindTid : Nat
  owner : Nat
  /-- REV_SEQ, 0 when not revoked -/
  revSeq : Nat := 0
  revoked : Bool := false
  attr : Bytes
  deriving DecidableEq, Repr

/-- An item of the REVLIST (R472). -/
structure RevItem where
  ns : Nat
  kind : Nat
  id : Bytes
  seq : Nat
  deriving DecidableEq, Repr

/-- What a change does (R470, R471). -/
inductive DirAct where
  | load (entries : List DirEntry)
  | revoke (ns kind : Nat) (id : Bytes)
  | epoch (ns value : Nat)
  | remove (ns kind : Nat) (id : Bytes)
  deriving DecidableEq, Repr

/-- The change being made, between its delta and its change record (R469), and the delta's RID. -/
structure DirChange where
  op : Nat
  act : DirAct
  rid : Nat
  deriving DecidableEq, Repr

/-- What the part knows of the directory state at a chain position (R475). -/
structure DirNode where
  /-- REV_SEQ and MIN_EPOCH values of its last HELD -/
  held : Nat := 0
  epochs : List Nat := []
  /-- When the set it must hold is late, µs -/
  due : Option Nat := none
  deriving DecidableEq, Repr

/-- The directory engine and the DIR block. -/
structure Dir where
  /-- DIR_STATE: 0 UNAVAILABLE, 1 REBUILDING, 2 READY -/
  st : Nat := 0
  pct : Nat := 0
  /-- The table in the LPDDR4X -/
  table : List DirEntry := []
  /-- What the DIRSNAP records of the present Starter generation amount to -/
  persist : List DirEntry := []
  /-- MIN_EPOCH of the namespaces, REV_SEQ and the REVLIST, newest last (ledger) -/
  minEpoch : Tab Nat := []
  revSeq : Nat := 0
  revList : List RevItem := []
  pending : Option DirChange := none
  /-- GRANTs whose lookup has passed, in stamp order, with the entry's namespace, KIND and ID -/
  grants : List (Nat × Nat × Nat × Bytes) := []
  /-- Entries changed since the last snapshot began, and when it began, µs (R477) -/
  changed : Nat := 0
  snapAt : Nat := 0
  snapId : Nat := 0
  /-- Segments of the running snapshot that still await their copies, and the bodies of those not yet begun -/
  snapLeft : Nat := 0
  snapSegs : List Bytes := []
  /-- DIR_EVENTS, DIR_NS_SEL, DIR_NODE_SEL -/
  events : BitVec 4 := 0
  nsSel : BitVec 4 := 0
  nodeSel : BitVec 3 := 0
  /-- By chain position -/
  nodes : Tab DirNode := []
  deriving DecidableEq, Repr

/-! ### Tokens, LF polling, UHF and zones (chapters 7, 8) -/

/-- A Near-list entry (R249, R299). -/
structure NearEntry where
  tid : Nat
  key : Bytes
  tcnt : Nat
  zones : BitVec 12
  actions : BitVec 8
  owner : Nat
  deriving DecidableEq, Repr

/-- A track (R294, R298). -/
structure Track where
  tid : Nat
  pos : Option (Int × Int × Int) := none
  sigma : Nat := 0
  zone : Nat := 0xFF
  mask : Nat := 0
  qual : Nat := 0
  snr : Nat := 0
  resid : Nat := 0
  turn : Int := 0
  chains : Nat := 0
  tones : Nat := 0
  az : Nat := 0xFFFF
  /-- TIME_MONO of the position and of the last update, µs -/
  tMeas : Nat := 0
  updated : Nat := 0
  deriving DecidableEq, Repr

/-- Presence of a token (R246): polls without a passing reply, deferred polls, PRES. -/
structure Pres where
  miss : Nat := 0
  deferred : Nat := 0
  /-- 0 PRESENT, 1 ABSENT, 2 UNKNOWN -/
  st : Nat := 0
  deriving DecidableEq, Repr

/-- A zone (R290). -/
structure Zone where
  id : Nat
  cab : Bool
  door : Bool
  exterior : Bool
  handleCap : Nat
  handleLf : Nat
  zMin : Int
  zMax : Int
  verts : List (Int × Int)
  deriving DecidableEq, Repr

/-- The zone table in force and its body (R290, R293). -/
structure ZoneTable where
  tableId : Nat
  hyst : Nat
  zones : List Zone
  body : Bytes
  deriving DecidableEq, Repr

/-- What an LF poll is for (R244). -/
inductive PollKind where
  | handle (zone : Nat)
  | approach
  | presence
  | locate (op : Nat)
  deriving DecidableEq, Repr

/-- Where the LF or UHF activity stands. -/
inductive PollPhase where
  /-- The telegram is going out, segment by segment. -/
  | telegram
  /-- The reply window. -/
  | slots
  /-- The sounding's bursts. -/
  | sound
  /-- The token's phases are asked for. -/
  | report
  deriving DecidableEq, Repr

/-- A position to be fitted: a reply or report that has passed checks 1 to 5, its turnaround, its exchange's turnarounds within bound or
not, SNR, m, whether sounded and split, the LOCATE it belongs to, the field vector of the reply and what the channels were driven with in
its slots, and of a sounding the phases the token reports and the chain that sent the tones. -/
structure FitReq where
  tid : Nat
  turn : Int
  turnOk : Bool
  snr : Nat
  m : Nat
  sounded : Bool := false
  split : Bool := false
  op : Option Nat := none
  fv : Bytes := []
  drive : List (Nat × Nat × Nat) := []
  ph : Bytes := []
  tx : Nat := 0
  deriving DecidableEq, Repr

/-- The poll or LOCATE on air (R229, R236, R245, R283, R297). Times in ns. -/
structure Poll where
  kind : PollKind
  phase : PollPhase := .telegram
  /-- Repeated with N = 8 (R245), or moved to another channel of the door zone (R226) -/
  repeated : Bool := false
  moved : Bool := false
  /-- Reply slots N and measurement slots m -/
  n : Nat
  m : Nat
  nonce : Bytes
  chans : List Nat
  /-- The TID an ADDR_CHAL or a MEASURE names -/
  tid : Nat := 0
  /-- What the channels are driven with while the telegram lasts: channel, duty in 1/64, phase in 1/256 of a cycle (R223–R225) -/
  drive : List (Nat × Nat × Nat) := []
  /-- A channel drove the telegram on its spare sense path from its mark on (R226) -/
  spare : Bool := false
  /-- In Parked, when the nonce is delivered, ns (R234) -/
  nonceAt : Nat := 0
  /-- The telegram is a MEASURE (R233), and the reply to the challenge before it, which stands if the MEASURE brings none -/
  measure : Bool := false
  held : Option FitReq := none
  /-- Units of the telegram sent, and the end of the last segment -/
  sent : Nat := 0
  lastEnd : Nat
  /-- Start of the last segment, and of the last burst -/
  segAt : Nat := 0
  burstAt : Nat := 0
  /-- Next reply slot, and the slot that is open -/
  slot : Nat := 0
  open_ : Option Nat := none
  /-- A slot held frames that collided and no valid reply -/
  collided : Bool := false
  /-- TIDs that passed R241 in this poll -/
  passed : List Nat := []
  /-- HANDLE: the unlock of this poll has been made -/
  unlocked : Bool := false
  /-- LOCATE: challenges sent, and the check the last reply failed -/
  challenges : Nat := 0
  failed : Nat := 0
  /-- LOCATE: the reply's turnaround, SNR and field vector, once it has passed checks 1 to 5 -/
  turn : Option Int := none
  turnOk : Bool := true
  snr : Nat := 0
  fv : Bytes := []
  /-- Sounding: next tone, bursts sent, counts of the bursts still to go in the granted window and its start -/
  tone : Nat := 0
  bursts : Nat := 0
  plan : List Nat := []
  planAt : Nat := 0
  /-- First tone, and end, of the last burst; end of the last trigger; REPORTs sent -/
  burstTone : Nat := 0
  burstEnd : Nat := 0
  trigAt : Nat := 0
  reports : Nat := 0
  /-- The chain that sent the tones -/
  tx : Nat := 0
  /-- COEX_REQ is raised for the activity, its grants are high, and since when it waits, µs -/
  asked : Bool := false
  granted : Bool := false
  askedAt : Nat := 0
  /-- First emission of the activity for which the requests are up, ns; none before it (R274) -/
  actAt : Option Nat := none
  /-- DETAIL with which the bound's expiry ends a LOCATE that waits (R300) -/
  waits : Nat := 0
  deriving DecidableEq, Repr

/-- An LF channel's readings (R225, R256). -/
structure LfState where
  /-- On the spare sense path; to be taken into use with the next telegram (R226) -/
  spare : Bool := false
  spareNext : Bool := false
  fault : Nat := 0
  ipeak : Nat := 0
  duty : Nat := 0
  phase : Int := 0
  deriving DecidableEq, Repr

/-- A UHF chain's readings (R302). -/
structure UhfState where
  fault : Nat := 0
  pwrErr : Int := 0
  /-- Correction of the setting, in half dB (R263) -/
  trim : Int := 0
  snr : Nat := 0
  deriving DecidableEq, Repr

/-- The LF and UHF blocks, the Near list, tracks and zones. -/
structure Radio where
  near : List NearEntry := []
  /-- The Near list can be used: false from Dormant entry until it is restored (R90) -/
  nearUsable : Bool := true
  /-- Last TCNT accepted of TIDs not on the Near list (ledger) -/
  tcnts : Tab Nat := []
  tracks : List Track := []
  pres : Tab Pres := []
  /-- Last AUTH_FAIL or RELAY_SUSPECT... record per TID, µs (R242: at most one AUTH_FAIL per 10 s) -/
  authFailAt : Tab Nat := []
  poll : Option Poll := none
  fits : List FitReq := []
  /-- LOCATEs that wait for the air or for XTAL25, with the challenges they have sent, a touch on another door that waits (R252), a poll that fell due meanwhile (R244) -/
  locates : List (Nat × Nat) := []
  /-- A button frame that waits for the wake slice's rails (R82, R90) -/
  heldFrame : Option TokenFrame := none
  /-- A start decision that found the air in use and has the next turn (R301) -/
  startDue : Option Nat := none
  /-- The session of a start decision whose challenge has gone out and whose trigger waits for the priority lead (R276) -/
  session : Option Poll := none
  touchNext : Option Nat := none
  presenceDue : Bool := false
  approachDue : Bool := false
  /-- Starts of the last PRESENCE and APPROACH poll, µs -/
  presenceAt : Nat := 0
  approachAt : Nat := 0
  zones : Option ZoneTable := none
  /-- LF_SCHED (RWS) -/
  cabPeriod : Nat := 0x19
  drivePeriod : Nat := 0x14
  approach : Nat := 0
  /-- LF_EVENTS, counters, LF_CH_SEL -/
  lfEvents : BitVec 5 := 0
  cntTx : BitVec 32 := 0
  cntRxOk : BitVec 32 := 0
  cntNofit : BitVec 32 := 0
  lfSel : BitVec 6 := 0
  lfCh : Tab LfState := []
  /-- UHF_CH_SEL, UHF_EVENTS, counters -/
  uhfSel : BitVec 3 := 0
  uhfEvents : BitVec 7 := 0
  cntSound : BitVec 32 := 0
  cntRelay : BitVec 32 := 0
  cntCoex : BitVec 32 := 0
  uhfCh : Tab UhfState := []
  /-- Emissions of the last 3,600 s: start in µs and length in µs (R264) -/
  emissions : List (Nat × Nat) := []
  /-- COEX_REQ, COEX_GNT and COEX_PRI levels (R302) -/
  coexReq : BitVec 2 := 0
  coexGnt : BitVec 2 := 0
  coexPri : Bool := false
  /-- The start decision whose ranging waits for the priority lead, since when, µs, and what its ranging will find (R276) -/
  startWait : Option (Nat × Nat × StartEvidence) := none
  deriving DecidableEq, Repr

/-! ### Capacitive electrodes (chapter 10) -/

/-- An electrode (R368, R370): touched, masked, since when, and its rise in 10 fF units. -/
structure Electrode where
  touched : Bool := false
  masked : Bool := false
  since : Nat := 0
  /-- The rise of the last scan, 10 fF; when it was, µs; the baseline, in millionths of 10 fF above that at reset; scans in a row above CAP_THRESH and
  below 70 % of it (R368, R369) -/
  delta : Nat := 0
  scanAt : Option Nat := none
  base : Int := 0
  above : Nat := 0
  below : Nat := 0
  deriving DecidableEq, Repr

/-- The capacitive half of the NFC block. -/
structure Cap where
  /-- By electrode (default: untouched) -/
  els : Tab Electrode := []
  /-- CAP_SEL, CAP_EVENTS -/
  sel : BitVec 6 := 0
  events : BitVec 3 := 0
  deriving DecidableEq, Repr

/-! ### Ifeven Line (chapters 11, 12) -/

/-- IFL_LINK_ST (R414). -/
inductive LinkSt where
  | down | joining | coupledT | coupledF | adrift | quarantined
  deriving DecidableEq, Repr

/-- A frame waiting for an outgoing port: type, FINAL, ORIG, body after the link header, and the RELAY it belongs to. -/
structure QFrame where
  ltype : Nat
  final : Nat
  orig : Nat
  body : Bytes
  op : Option Nat := none
  deriving DecidableEq, Repr

/-- A frame sent and not yet acknowledged (R418, R419). Times in µs. -/
structure TxFrame where
  hseq : Nat
  frame : QFrame
  /-- Tries, and sendings, those after a BUSY answer included (R419) -/
  tries : Nat
  sends : Nat := 1
  sentAt : Nat
  deriving DecidableEq, Repr

/-- A port: its link to the node on its segment, and its physical layer. -/
structure Port where
  link : LinkSt := .down
  /-- Position and COUPLING_ID of the segment's node, its NODE_UID, 0 when none -/
  pos : Nat := 0
  cpl : Nat := 0
  uid : Nat := 0
  /-- IFL_MISSED; a ROLL has been heard since the last BEACON; last BEACON, µs; its count -/
  missed : Nat := 0
  rolled : Bool := true
  beaconAt : Option Nat := none
  beaconSeq : Nat := 0
  /-- The ROLL body that started a discovery, and when its JOIN was sent, µs -/
  roll : Bytes := []
  joinAt : Option Nat := none
  /-- The ASSIGN repeated with every BEACON (R411 step 3) -/
  assign : Option QFrame := none
  /-- Next HSEQ to send and to receive, frames unacknowledged, frames waiting, frames held that came early -/
  txSeq : Nat := 1
  rxNext : Nat := 1
  unacked : List TxFrame := []
  queue : List QFrame := []
  held : List (Nat × Bytes) := []
  /-- End of the 10 ms after a BUSY answer -/
  busyUntil : Nat := 0
  /-- Nodes whose Adrift hold runs: position and when ADRIFT was entered, µs, oldest first (R415) -/
  holds : List (Nat × Nat) := []
  /-- When the answer to the last BEACON was due, µs (R410) -/
  rollBy : Nat := 0
  /-- When the last frame on the segment ends, when the last of the part's own ends, and until when a frame for another node is passed over,
  ns (R394, R404) -/
  airEnd : Nat := 0
  txEnd : Nat := 0
  skipTo : Nat := 0
  /-- Management messages that wait to be sent (R398, R401) -/
  mgmt : List Bytes := []
  /-- The last DET sample, µs, and the Parked window it was taken in (R380) -/
  detAt : Option Nat := none
  detWin : Option Nat := none
  /-- DET readings, newest first; low and good samples in a row (R414, R416) -/
  det : List Nat := []
  lows : Nat := 0
  goods : Nat := 0
  /-- The ratio of the sender's reference to the part's, ppb, the timing, ns, and the common phase, 1/256 of a cycle, that the receiver
  corrected by at the last symbol of a frame (R393) -/
  rxRatio : Int := 0
  rxTime : Int := 0
  rxPhase : Int := 0
  /-- The last good Flood frame: when, µs, its SRC and the gain step that received it (R392) -/
  goodAt : Option Nat := none
  goodSrc : Nat := 0
  goodGain : Nat := 0
  /-- The position of the node upstream, from its BEACONs; 0xF while none has been heard -/
  parent : Nat := 0xF
  /-- b_k of the table in use for sending, for k = 82 to 1137 (R398) -/
  bkTx : List Nat := []
  /-- The LOAD body of the table before the last LOAD (R399) -/
  oldBody : Bytes := []
  /-- IFL_RX_GAIN, IFL_SNR_MARGIN -/
  gain : Nat := 0xA
  margin : Int := 0
  /-- IFL_TBL_TX, IFL_BITS_TX -/
  tblTx : Nat := 0
  bitsTx : Nat := 0
  /-- The newest table held for frames to the part, and the SRC it is held for (R394, R398) -/
  tblRx : Nat := 0
  bitsRx : Nat := 0
  srcRx : Nat := 0
  /-- IFL_TBL_RX, IFL_BITS_RX: the table last issued, held or given up since -/
  tblSent : Nat := 0
  bitsSent : Nat := 0
  /-- IFL_EVENTS and the counters of R403 -/
  events : BitVec 3 := 0
  cntPre : BitVec 32 := 0
  cntHcrc : BitVec 32 := 0
  cntPcrc : BitVec 32 := 0
  cntRxOk : BitVec 32 := 0
  cntTx : BitVec 32 := 0
  /-- The table before the last LOAD still held, 0 when none; a frame under it came since; LOAD sendings; when, µs; its body -/
  tblOld : Nat := 0
  bitsOld : Nat := 0
  oldSeen : Bool := false
  loads : Nat := 0
  loadAt : Nat := 0
  loadFirst : Nat := 0
  loadBody : Bytes := []
  /-- PCRC failures in a row under a table; last SOUND_REQ; last sounding, µs; until when a SOUND frame that is owed may go, µs -/
  pcrcRun : Nat := 0
  reqAt : Option Nat := none
  soundAt : Nat := 0
  soundDue : Option Nat := none
  /-- Listen windows: last opening, µs, count, and until when the port searches (R400, R401) -/
  winAt : Nat := 0
  winSeq : Nat := 0
  searchUntil : Nat := 0
  deriving DecidableEq, Repr

/-- A node of the chain as the tractor keeps it (R406, R427). -/
structure Node where
  uid : Nat
  parent : Nat
  parentPort : Nat
  tport : Nat
  kind : Nat
  readers : Nat
  lf : Nat
  cpl : Nat
  /-- JOINED has been received -/
  joined : Bool := false
  adrift : Bool := false
  /-- The PROFILE that raises its segment to Flood has been accepted on its way (R411, R427) -/
  flood : Bool := false
  /-- The last STATUS message (R423) -/
  status : Bytes := []
  deriving DecidableEq, Repr

/-- A RELAY in flight: frames accepted and frames in all (R422, R427). -/
structure Relay where
  op : Nat
  final : Nat
  accepted : Nat
  total : Nat
  deriving DecidableEq, Repr

/-- The IFL block. -/
structure Ifl where
  ports : List Port := List.replicate 4 {}
  /-- Nodes by position 1 to 7 -/
  nodes : Tab Node := []
  /-- Nodes whose position was freed, by NODE_UID: position, time, µs, and COUPLING_ID (R406, R407) -/
  freed : List (Nat × Nat × Nat × Nat) := []
  relays : List Relay := []
  /-- SVC HOST frames received, by tenancy: ORIG and data, oldest first (R427) -/
  inbox : Tab (List (Nat × Bytes)) := []
  /-- End of a supply-step window, µs (R415) -/
  stepEnd : Option Nat := none
  /-- In trailer role: own position and COUPLING_ID, last time the master was heard, last STATUS sent, µs -/
  ownPos : Option Nat := none
  ownCpl : Nat := 0
  masterAt : Nat := 0
  statusAt : Nat := 0
  /-- In trailer role: the downstream port behind which a position lies (R421) -/
  routes : Tab Nat := []
  /-- IFL_WIN_SYNC; last resynchronising listen, µs (R402) -/
  winSync : Bool := false
  resyncAt : Nat := 0
  /-- IFL_PORT_SEL, IFL_LINK_EV, counters of R429 -/
  sel : BitVec 2 := 0
  linkEv : BitVec 7 := 0
  cntRetx : BitVec 32 := 0
  cntLost : BitVec 32 := 0
  deriving DecidableEq, Repr

/-! ### Contactless readers (chapter 10) -/

/-- Where the exchange on a reader stands: the answer it waits for (R346–R363). -/
inductive NfcStep where
  | activate | selectDriver | cardAuth | selectSeal | getInfo | auth1 | auth2 | change | readLog
  deriving DecidableEq, Repr

/-- What an activation waits for (R341): the answer to REQA, to an anticollision frame or SELECT of a cascade level, to RATS or PPS, in a slot of
REQB, to ATTRIB; or for a trailer node's answer. -/
inductive ActStep where
  | reqa
  | anti (level : Nat) (known : List Bool)
  | select (level : Nat) (bytes : Bytes)
  | rats
  | pps (rate : Nat)
  | reqb (slots slot : Nat)
  | attrib (rate : Nat)
  | remote
  deriving DecidableEq, Repr

/-- An operation's exchange with the cards of a reader. Times in µs. -/
structure Xchg where
  /-- The descriptor (2^40 + reader for a request this part serves in trailer role, with the request's first four bytes; 2^41 + reader for a poll
  that detection started),
  and the readers (unit × 8 + reader) it still has to search, the present one first -/
  op : Nat
  node : Option Bytes := none
  /-- TIMEOUT_MS of such a request, the ceiling in place of NFC_WTX_CEIL; 0 for the part's own -/
  ceilMs : Nat := 0
  /-- The highest rate such a request allows -/
  limit : Option Nat := none
  /-- A poll of R346: the card selected the driver-card AID; a card has been found -/
  poll : Bool := false
  driver : Bool := false
  found : Bool := false
  readers : List Nat
  step : NfcStep := .activate
  act : ActStep := .reqa
  /-- Start of the command exchange, end of the present wait, R(NAK)s sent for the missing block -/
  started : Nat := 0
  waitEnd : Nat := 0
  naks : Nat := 0
  /-- Parts of the command still to be sent, parts of the answer received; the reader's last block was R(ACK) (R341, R349) -/
  out : List Bytes := []
  rx : Bytes := []
  acked : Bool := false
  /-- The card activated: type, identifier, ATS or ATQB, rate in kbit/s ÷ 106, FWI, SFGI and the frame size it accepts -/
  typ : Nat := 0
  ident : Bytes := []
  ats : Bytes := []
  rate : Nat := 1
  fwi : Nat := 4
  sfgi : Nat := 0
  fsc : Nat := 256
  /-- A state-changing command has been sent and its answer has not been read (R365) -/
  outstanding : Bool := false
  /-- CARD_AUTH: the challenge, and that a card failed R351 -/
  chal : Bytes := []
  failed : Bool := false
  /-- The answer to GET_INFO; SEAL_BREACH has been recorded in this activation (R366) -/
  info : Bytes := []
  breach : Bool := false
  /-- The session: RND_P, RND_T, K_s, CTR (R360, R361) -/
  rndP : Bytes := []
  rndT : Bytes := []
  ks : Bytes := []
  ctr : Nat := 0
  /-- SEAL_SCAN: the entries so far -/
  entries : List Bytes := []
  deriving DecidableEq, Repr

/-- A reader (R342, R344, R345, R375): NFC_RD_FAULT, NFC_RD_DELTA, and when it left service, µs. -/
structure Reader where
  fault : Nat := 0
  delta : Nat := 0
  outAt : Nat := 0
  /-- NFC_RD_FIELD; when the carrier went off, µs; end of the guard after an ATS or an answer to ATTRIB, µs -/
  field : Bool := false
  offAt : Nat := 0
  guardAt : Nat := 0
  /-- The last detection burst, µs; its amplitude, in units of the converter, and phase, 0.1°, both in millionths; the baseline in the same -/
  detAt : Option Nat := none
  reading : Int × Int := (0, 0)
  base : Option (Int × Int) := none
  /-- In trailer role, the card that stays activated between requests (R424) -/
  card : Option Xchg := none
  deriving DecidableEq, Repr

/-- The NFC block. -/
structure Nfc where
  /-- NFC_DET_PERIOD, NFC_WTX_CEIL, NFC_MAX_RATE (RWS) -/
  detPeriod : Nat := 0x14
  wtxCeil : Nat := 0x3E8
  maxRate : Nat := 3
  /-- NFC_RD_SEL, NFC_EVENTS -/
  sel : BitVec 3 := 0
  events : BitVec 5 := 0
  /-- The tractor's readers -/
  rds : Tab Reader := []
  /-- The card event list: reader and card (R346) -/
  cardEvents : List (Nat × CardSeen) := []
  xs : List Xchg := []
  /-- REQ_ID of the last READER request (R424) -/
  reqId : Nat := 0
  deriving DecidableEq, Repr

/-! ### The custody store (chapter 13) -/

/-- The states of a drive (R437). -/
inductive DrvSt where
  | absent | init | online | worn | lost | foreign | retired
  deriving DecidableEq, Repr

/-- A drive port (R434–R441, R462). -/
structure Drive where
  st : DrvSt := .absent
  /-- The link is in L0; when it left, µs; when INIT was entered, µs -/
  link : Bool := false
  downAt : Option Nat := none
  initAt : Nat := 0
  /-- The drive's number in the stripe map's list of drives -/
  unit : Option Nat := none
  /-- CUS_DRV_CAP in MiB, CUS_DRV_PS, CUS_DRV_USED_PCT, CUS_DRV_TEMP -/
  cap : Nat := 0
  ps : Nat := 0
  usedPct : Nat := 0
  temp : Int := 0
  /-- Its composite temperature lies above its warning threshold -/
  hot : Bool := false
  /-- The store's drive that was here before the last reset and has not shown itself since (R444) -/
  was : Option Nat := none
  /-- A DRIVE_DRAIN empties it (R580) -/
  drain : Option Nat := none
  deriving DecidableEq, Repr

/-- A drive of the store, by the DRIVE_UID and the ledger position of its label; lost once declared LOST (R437); WORN, and the
unrecoverable read errors found by scrubbing, µs (R440). -/
structure StoreDrive where
  uid : Bytes
  lost : Bool := false
  lsn : Nat := 0
  worn : Bool := false
  readErrs : List Nat := []
  deriving DecidableEq, Repr

/-- A copy, data stripe or parity stripe of a group on a drive of the store; `ok` false: lost-copy (R438). -/
structure Member where
  unit : Nat
  ok : Bool := true
  deriving DecidableEq, Repr

/-- A group of stripes of one class: `data` MiB of records, mirrored on each member, or one stripe a member of which one is
parity (R432). -/
structure Group where
  id : Nat
  cls : Nat
  data : Nat
  parity : Bool
  members : List Member
  /-- Bytes of records placed in it -/
  used : Nat := 0
  deriving DecidableEq, Repr

/-- Where bytes of a record lie: `len` bytes from byte `off` of a group (R432). -/
structure Piece where
  group : Nat
  off : Nat
  len : Nat
  deriving DecidableEq, Repr

/-- A custody record as stored (R445). -/
structure CusRec where
  cls : Nat
  rid : Nat
  origin : Nat
  kind : Nat
  tMono : Nat
  wall : Nat
  ten : Nat
  party : Nat
  bodyLen : Nat
  seq : Nat
  epoch : Nat
  lsn : Nat
  /-- Header, ciphertext, trailer -/
  stored : Bytes
  hash : Bytes
  /-- Where it lies, in order -/
  places : List Piece
  /-- DIRSNAP: the snapshot it belongs to or follows -/
  snap : Nat := 0
  deriving DecidableEq, Repr

/-- What a record being written is for. -/
inductive JobKind where
  | append (op : Nat)
  | part (lsn : Nat)
  | ledgercp (lsn : Nat)
  | delta (op : Nat)
  | segment
  /-- No record: re-protection writes the groups that this group becomes (R442) -/
  | move (group : Group) (new : List Group)
  deriving DecidableEq, Repr

/-- A record whose copies are being written, or a step of re-protection; drives (store numbers) still to complete, copies written. -/
structure CusJob where
  what : JobKind
  /-- Its stamp: the descriptor's, or the internal tenancy's (R164) -/
  stamp : Nat := 0
  item : CusRec
  wait : List Nat
  wrote : Nat
  deriving DecidableEq, Repr

/-- The chain head of a class: last RID and its HASH (R447). -/
structure ChainHead where
  rid : Nat := 0
  hash : Bytes := []
  deriving DecidableEq, Repr

/-- The CUS block. -/
structure Cus where
  drives : List Drive := List.replicate 4 {}
  known : List StoreDrive := []
  groups : List Group := []
  nextGroup : Nat := 1
  /-- The group a class is filling -/
  open_ : Tab Nat := []
  recs : List CusRec := []
  heads : Tab ChainHead := []
  /-- Evicted records: class, RID, HASH -/
  gone : List (Nat × Nat × Bytes) := []
  jobs : List CusJob := []
  /-- The internal tenancy's finish tag and the highest stamp of its work (R164) -/
  finish : Nat := 0
  topStamp : Nat := 0
  /-- A ledger drain (R454): 0 none, or its rails rise; 1 the part records are being copied; 2 its LEDGERCP is being written -/
  drainStep : Nat := 0
  /-- CUS_STORE_FULL -/
  full : Bool := false
  /-- CUS_DRV_SEL, CUS_EVENTS -/
  sel : BitVec 2 := 0
  events : BitVec 9 := 0
  deriving DecidableEq, Repr
/-! ### Firmware update (chapter 17) -/

/-- The states of an image slot (R541). -/
inductive SlotSt where
  | empty | staging | staged | scheduled | trial | active | standby | bad
  deriving DecidableEq, Repr

/-- An image slot: its fields of the journal entry in force, and the blocks its flash holds, block 0 the head and block
c + 1 chunk c (R540, R549). -/
structure Slot where
  st : SlotSt := .empty
  ver : Nat := 0
  headId : Nat := 0
  blocks : Tab Bytes := []
  deriving DecidableEq, Repr

/-- A schedule (R552): WINDOW_H, ROUTE, the tenancy and EPOCH field it was made under (none for a schedule received by SCHED),
the deadline a SCHED set, µs, and when SCHED was last sent, µs. -/
structure Schedule where
  windowH : Nat
  route : Nat := 0
  by_ : Option (Nat × Nat) := none
  due : Nat := 0
  sentAt : Nat := 0
  deriving DecidableEq, Repr

/-- The handover of R554. Times in µs. -/
inductive Handover where
  | none
  /-- Step 1 since this time: the shadow pair loads the new firmware. -/
  | loading (since : Nat)
  /-- Step 3: the former active pair holds the old firmware since this time. -/
  | hold (since : Nat)
  deriving DecidableEq, Repr

/-- A transfer being received (R550): its sender, the OFFER, the block whose pieces are arriving, blocks since the last NEED,
the times of the last message and of the last piece, µs. -/
structure Recv where
  src : UpdPeer
  headId : Nat
  chunks : Nat
  route : Nat
  headOk : Bool := false
  block : Nat := 0
  parts : Tab Bytes := []
  since : Nat := 0
  last : Nat := 0
  lastPiece : Option Nat := none
  deriving DecidableEq, Repr

/-- A transfer being sent (R550): its receiver, the HEAD_ID, and the time of the last message, µs. -/
structure Send where
  dst : UpdPeer
  headId : Nat
  last : Nat
  route : Nat
  deriving DecidableEq, Repr

/-- The PUSH being served (R551): targets still open, and what the others came to. -/
structure Push where
  op : Nat
  route : Nat
  open_ : List UpdPeer
  staged : Nat := 0
  refused : Nat := 0
  /-- CODE and DETAIL of the last refusal -/
  lastCode : Nat := 0
  lastDetail : Nat := 0
  /-- Positions passed over, and those that cannot answer any more -/
  passed : List Nat := []
  silent : List Nat := []
  deriving DecidableEq, Repr

/-- The last STATUS of a chain position: CODE, DETAIL, blocks held, HEAD_ID, and the IMAGE_VER of that image (R563). -/
structure PeerSt where
  code : Nat := 0
  detail : Nat := 0
  blocks : Nat := 0
  headId : Nat := 0
  ver : Nat := 0
  deriving DecidableEq, Repr

/-- A Hearth download (R560, R561): the slot it goes to, the length it announced, the bytes received without a gap. -/
structure Hearth where
  /-- UPD_HEARTH_SRC and UPD_HEARTH_LEN -/
  src : BitVec 64 := 0
  len : BitVec 24 := 0
  /-- UPD_HEARTH_ST, UPD_HEARTH_SRC_USED, UPD_HEARTH_DETAIL, UPD_HEARTH_BLOCKS -/
  st : Nat := 0
  used : Nat := 0
  detail : Nat := 0
  blocks : Nat := 0
  slotB : Bool := false
  total : Nat := 0
  got : Bytes := []
  /-- The last status frame on CAN0, µs -/
  canAt : Nat := 0
  deriving DecidableEq, Repr

/-- The CFG flash, the update engine and the UPD block. -/
structure Upd where
  /-- The journal entry in force (R540): ENTRY_SEQ, slots, BOOT (true: B), TRIES, SEC_FLOOR, ACT_AT, ACT_LSN -/
  seq : Nat := 0
  a : Slot := {}
  b : Slot := {}
  boot : Bool := false
  tries : Nat := 0
  secFloor : Nat := 0
  actAt : Nat := 0
  actLsn : Nat := 0
  /-- SEC_FLOOR in the ledger (R556) -/
  ledgerFloor : Nat := 0
  /-- Record banks 0 and 1 (R557) -/
  bank0 : List CfgRec := []
  bank1 : List CfgRec := []
  /-- The slot whose firmware runs (true: B) -/
  running : Option Bool := none
  sched : Option Schedule := none
  /-- DETAIL of the last lapse (R553) -/
  lapse : Nat := 0
  handover : Handover := .none
  /-- Since when the new firmware has run in Cab or Drive for R555, µs -/
  trialSince : Option Nat := none
  peers : Tab PeerSt := []
  recv : Option Recv := none
  sends : List Send := []
  push : Option Push := none
  /-- The SCHEDULE being served, the positions whose STATUS it waits for, and how many have answered SCHEDULED -/
  schedOp : Option (Nat × List Nat × Nat) := none
  /-- UPD_EVENTS -/
  events : BitVec 8 := 0
  hearth : Hearth := {}
  deriving DecidableEq, Repr


/-! ### The whole state -/

/-- The state of the part, with the queue of commands that wait. -/
structure State where
  pwr : Pwr := {}
  sys : Sys := {}
  fuse : Fuse := {}
  host : HostBlk := {}
  slc : Slc := {}
  clk : Clk := {}
  led : Ledger := {}
  cfg : CfgSet := {}
  flt : Flt := {}
  sec : Sec := {}
  slk : Slk := {}
  dir : Dir := {}
  radio : Radio := {}
  cap : Cap := {}
  ifl : Ifl := {}
  nfc : Nfc := {}
  cus : Cus := {}
  upd : Upd := {}
  /-- What the part has emitted, oldest first (the model's own record, log entry 6) -/
  outs : List Out := []
  /-- Free values drawn so far (the model's own counter, log entry 5) -/
  free : Nat := 0
  /-- The commands that wait, first in, first out (the model's own queue) -/
  pending : List Instr := []
  deriving DecidableEq, Repr

/-- Why a step may stop with a fault. -/
inductive Fault where
  /-- Reserved: no meaning of this model raises a fault (log entry 2). Safe: nothing is claimed of it. -/
  | none
  deriving DecidableEq, Repr

/-- Why a step may be refused. -/
inductive Refusal where
  /-- Raised by the dispatch alone, for a command that has no meaning yet. Safe: nothing is claimed of the command. -/
  | notModelled (mnemonic : String)
  deriving DecidableEq, Repr

/-- Tenancy 0 of the provisioning table (R151): LEAVEN_LABEL "TEN0", culvert 0 over all of the host's 2^48 B, the
largest value of every weir field. -/
def provisioningTenancy : Tenancy :=
  { func := 0, party := 0, ringBase := 0, ringCount := 8, weight := 16, classMask := 0xFFFE,
    label := [0x54, 0x45, 0x4E, 0x30] ++ List.replicate 28 0,
    culverts := [(0, { base := 0, size := 2 ^ 48, rights := 7 })],
    weir := { rate := 4000000, burst := 65536, byteRate := 4194304, inflightMax := 65536, custodyQuota := 262144,
              handleQuota := 65536, dirQuota := 8388608 } }

/-- The part right after reset: a part never provisioned, before VAON has been good for the first time, with the
provisioning table of R151 in force. -/
def State.reset : State := { slc := { tens := [(0, provisioningTenancy)] } }

end Sys2Proof.Machine
end

