-- ==== Sys2Proof/Machine/Ops.lean ====
section
/-! DEFINITION. The named operations over the state: one home for each table, the ledger, MSI-X messages, the outputs,
free values, and the life of an accepted descriptor from its acceptance to its fate. -/

namespace Sys2Proof.Machine

/-! ### Block updates -/

def modPwr (f : Pwr → Pwr) (s : State) : State := { s with pwr := f s.pwr }
def modSys (f : Sys → Sys) (s : State) : State := { s with sys := f s.sys }
def modHost (f : HostBlk → HostBlk) (s : State) : State := { s with host := f s.host }
def modSlc (f : Slc → Slc) (s : State) : State := { s with slc := f s.slc }
def modClk (f : Clk → Clk) (s : State) : State := { s with clk := f s.clk }
def modCfg (f : CfgSet → CfgSet) (s : State) : State := { s with cfg := f s.cfg }
def modFlt (f : Flt → Flt) (s : State) : State := { s with flt := f s.flt }
def modSec (f : Sec → Sec) (s : State) : State := { s with sec := f s.sec }
def modSlk (f : Slk → Slk) (s : State) : State := { s with slk := f s.slk }
def modDir (f : Dir → Dir) (s : State) : State := { s with dir := f s.dir }
def modRadio (f : Radio → Radio) (s : State) : State := { s with radio := f s.radio }
def modCap (f : Cap → Cap) (s : State) : State := { s with cap := f s.cap }
def modIfl (f : Ifl → Ifl) (s : State) : State := { s with ifl := f s.ifl }
def modNfc (f : Nfc → Nfc) (s : State) : State := { s with nfc := f s.nfc }
def modCus (f : Cus → Cus) (s : State) : State := { s with cus := f s.cus }
def modUpd (f : Upd → Upd) (s : State) : State := { s with upd := f s.upd }
def modLed (f : Ledger → Ledger) (s : State) : State := { s with led := f s.led }

/-- Records something the part emits. -/
def emit (o : Out) (s : State) : State := { s with outs := s.outs ++ [o] }

/-- Applies `f` when the condition holds. -/
def onlyIf (c : Bool) (f : State → State) (s : State) : State := if c then f s else s

/-- Applies `f x s` for every element of a list, left to right. -/
def each {α : Type} (l : List α) (f : α → State → State) (s : State) : State := l.foldl (fun t x => f x t) s

/-- `n` free bytes from the counter on, and the state with the counter advanced (log entry 5). -/
def freeBytes (s : State) (n : Nat) : Bytes := (List.range n).map (fun i => Config.freeByte (s.free + i))
def drawn (n : Nat) (s : State) : State := { s with free := s.free + n }

/-- PWR_DIE_TEMP takes a reading; what the 8 bits show of one outside two's complement's range is a free value (R605). -/
def setDieTemp (temp : Int) (s : State) : State :=
  if -128 ≤ temp ∧ temp ≤ 127 then { s with pwr := { s.pwr with dieTemp := BitVec.ofInt 8 temp } }
  else drawn 1 { s with pwr := { s.pwr with dieTemp := Config.freeByte s.free } }

/-! ### Time -/

/-- TIME_MONO advances from the RTC: in Parked and Dormant, and while only the AON island runs (R207). -/
def onRtc (s : State) : Bool := !s.pwr.vaon || s.pwr.mode == .parked || s.pwr.mode == .dormant

/-- TIME_MONO at the last RTC tick: 1,000,000 ÷ 32,768 µs a tick, with the fraction carried (R207). -/
def rtcUs (ns : Nat) : Nat := ns * 32768 / 1000000000 * 1000000 / 32768

/-- The first ns at which the RTC's count reads at least `t` µs. -/
def rtcNs (t : Nat) : Nat := ceilDiv (ceilDiv (t * 32768) 1000000 * 1000000000) 32768

/-- TIME_MONO in µs (R207): at a change to the RTC it stands until the RTC's count has caught up, so it never decreases. -/
def monoUs (s : State) : Nat := if onRtc s then max s.clk.rtcFrom (rtcUs s.clk.ns) else s.clk.ns / 1000

/-- TIME_MONO goes on from the RTC from here. -/
def fromRtc (s : State) : State := modClk (fun c => { c with rtcFrom := monoUs s }) s

/-- Wall-clock time in µs, 0 while unset (R208). -/
def wallUs (s : State) : Nat := if s.clk.wallSet then (s.clk.wallBase + (monoUs s : Int)).toNat else 0

/-! ### Access to tables -/

def getRing (s : State) (g : Nat) : Ring := tabGet {} s.host.rings g
def modRing (g : Nat) (f : Ring → Ring) : State → State :=
  modHost (fun h => { h with rings := tabModify {} h.rings g f })
def getFunc (s : State) (n : Nat) : Func := tabGet {} s.host.funcs n
def modFunc (n : Nat) (f : Func → Func) : State → State :=
  modHost (fun h => { h with funcs := tabModify {} h.funcs n f })
def vecKey (func vec : Nat) : Nat := func * 2048 + vec
def getVec (s : State) (func vec : Nat) : MsixVec := tabGet {} s.host.vecs (vecKey func vec)
def modVec (func vec : Nat) (f : MsixVec → MsixVec) : State → State :=
  modHost (fun h => { h with vecs := tabModify {} h.vecs (vecKey func vec) f })
/-- VECS of a function (R148). -/
def vecsOf (s : State) (func : Nat) : Nat := tabGet 0 s.slc.vecs func
def getTen (s : State) (t : Nat) : Tenancy := tabGet {} s.slc.tens t
def modTen (t : Nat) (f : Tenancy → Tenancy) : State → State :=
  modSlc (fun b => { b with tens := tabModify {} b.tens t f })
/-- A tenancy whose FUNC is 0x7F does not exist (R149). -/
def tenExists (s : State) (t : Nat) : Bool := (getTen s t).func != 0x7F
def getRun (s : State) (t : Nat) : TenRun := tabGet {} s.slc.run t
def modRun (t : Nat) (f : TenRun → TenRun) : State → State :=
  modSlc (fun b => { b with run := tabModify {} b.run t f })
/-- The global ring of ring `j` of tenancy `t`, if the tenancy has it. -/
def ringOf (s : State) (t j : Nat) : Option Nat :=
  let row := getTen s t
  if row.func != 0x7F && j < row.ringCount then some (row.ringBase + j) else none
/-- The tenancy whose range holds a global ring. -/
def tenOfRing (s : State) (g : Nat) : Option Nat :=
  (s.slc.tens.find? (fun e => e.2.func != 0x7F && e.2.ringBase ≤ g && g < e.2.ringBase + e.2.ringCount)).map (·.1)
def getFlight (s : State) (r : Nat) : Option Flight := s.host.flights[r]?
def modFlight (r : Nat) (f : Flight → Flight) : State → State :=
  modHost (fun h => { h with flights := modAt h.flights r f })

/-! ### Ring sizes -/

def hrSize (rg : Ring) : Nat := 2 ^ rg.setup.hrLog.toNat
def trSize (rg : Ring) : Nat := 2 ^ rg.setup.trLog.toNat

/-! ### The host link, and where registers can be reached -/

/-- The HOST link carries traffic: its rails are good, PERST is released and the part is neither in Parked nor Dormant
nor held in reset (R67, R100, R602). -/
def linkUp (s : State) : Bool :=
  !s.host.perst && s.pwr.railGood.getLsbD 5 && s.pwr.railGood.getLsbD 6 && s.pwr.start == .settled &&
    s.pwr.mode != .parked && s.pwr.mode != .dormant

/-- Rings, doorbells and the registers of every block can be reached: the part is released (R95, R600, R602). -/
def released (s : State) : Bool := s.sys.ready && linkUp s

/-! ### MSI-X (R134, R136) -/

/-- Whether a message of this vector goes out now rather than being held as its pending bit; a message raised while the HOST link is
down is held so too (DESIGN CHOICE, log entry 84). -/
def vecOpen (s : State) (func vec : Nat) : Bool :=
  (getFunc s func).msixEn && !(getFunc s func).fnMask && !(getVec s func vec).masked && linkUp s

/-- Sends a vector's message, or sets its pending bit while the vector or function is masked or MSI-X Enable is clear. -/
def sendMsix (func vec : Nat) (s : State) : State :=
  if vec < vecsOf s func then
    if vecOpen s func vec then
      emit (.msix func vec (getVec s func vec).addr.toNat (getVec s func vec).data.toNat) s
    else modVec func vec (fun v => { v with pending := true }) s
  else s

/-! ### The ledger (R27, R451–R454, R630) -/

/-- Log space of a half, in units of 32 B: 3,840 KiB. -/
def logUnits : Nat := 122880

/-- A number for the kind of a record, under which its length is looked up. -/
def kindCode : LKind → Nat
  | .accept _ => 1 | .fate _ => 2 | .ringSet _ => 3 | .checkpoint => 4 | .parkedEntry => 5 | .dormantEntry _ => 6
  | .writ _ => 7 | .part p => 256 + p.kind | .intent _ _ => 8 | .emitted _ _ => 9 | .readOut _ => 10 | .pair _ _ => 11
  | .fault _ => 12 | .tamper _ => 13 | .evict _ _ => 14 | .dirChange _ => 15 | .tcnt _ _ => 16 | .unit _ _ => 17
  | .handle _ _ _ _ => 18 | .link _ _ => 19 | .other n _ => 1024 + n

/-- Bytes of a record beyond what its kind fixes: the writ that a WRIT part record carries (R448). -/
def kindExtra : LKind → Nat
  | .part p => ceilDiv p.extra.length 32
  | _ => 0

/-- Length of a record, 1 to 128 units besides the extra bytes (log entry 9). A fate takes none: its room was kept back
at the acceptance (R34, R630). -/
def recUnits (k : LKind) : Nat :=
  match k with
  | .fate _ => 0
  | .accept _ => 1 + Config.recordUnits 1 % 128 + (1 + Config.recordUnits 2 % 128)
  | k => 1 + Config.recordUnits (kindCode k) % 128 + kindExtra k

/-- Room a record is given before it is written: a sector, and for an acceptance a second for its fate (log entry 9). -/
def recRoom (k : LKind) : Nat :=
  match k with
  | .fate _ => 0
  | .accept _ => 256
  | k => 128 + kindExtra k

/-- A half can hold a record. -/
def ledgerUp (s : State) : Bool := !s.led.aFailed || !s.led.bFailed

/-- Whether a record can be written: a healthy half and room in the log (R630). -/
def canLog (k : LKind) (s : State) : Bool := ledgerUp s && decide (s.led.used + recRoom k ≤ logUnits)

/-- The two low-space states with their 64 KiB of hysteresis (R454). -/
def lowState (now : Bool) (free limit : Nat) : Bool :=
  if free < limit then true else if limit + 2048 < free then false else now

/-- Brings the low-space states up to date with the free log. -/
def judgeLog (l : Ledger) : Ledger :=
  { l with low := lowState l.low (logUnits - l.used) 16384, veryLow := lowState l.veryLow (logUnits - l.used) 4096 }

/-- Writes a record; the caller has seen `canLog`, or the record is a fate. -/
def logRec (k : LKind) (s : State) : State :=
  modClk (fun c => { c with ledgerUs := max c.ledgerUs (monoUs s) })
    (modLed (fun l => judgeLog { l with
      lsn := l.lsn + 1
      log := l.log ++ [{ lsn := l.lsn + 1, kind := k, units := recUnits k }]
      used := l.used + recUnits k }) s)

/-- Writes a record where it can be written, and otherwise writes nothing. -/
def tryLog (k : LKind) (s : State) : State := if canLog k s then logRec k s else s

/-- A part record stamped with the time and the policy epoch (R27, R448). -/
def stampPart (p : PartRec) (s : State) : PartRec :=
  { p with tMono := monoUs s, wall := wallUs s / 1000000, epoch := s.slc.epoch }

/-- Writes a part record where it can be written. -/
def logPart (p : PartRec) (s : State) : State := tryLog (.part (stampPart p s)) s

/-- Completions carry DEGRADED while a half has failed or is being refilled (R40, R451). -/
def ledgerDegraded (s : State) : Bool :=
  s.led.aFailed || s.led.bFailed || s.led.aRefill != 0 || s.led.bRefill != 0

/-! ### Descriptors -/

def dOpc (raw : BitVec 512) : Nat := fieldLE raw 0 2
def dClass (raw : BitVec 512) : Nat := fieldLE raw 1 1
def dFlags (raw : BitVec 512) : Nat := fieldLE raw 2 2
def dLen (raw : BitVec 512) : Nat := fieldLE raw 4 4
def dSeq (raw : BitVec 512) : Nat := fieldLE raw 8 8
def dEpoch (raw : BitVec 512) : Nat := fieldLE raw 16 8
def dTag (raw : BitVec 512) : Nat := fieldLE raw 56 8
def dFence (raw : BitVec 512) : Bool := bit (dFlags raw) 0
def dIrq (raw : BitVec 512) : Bool := bit (dFlags raw) 1

/-! ### Fates (R34, R121, R122, R158, R178) -/

def fDone : Nat := 0x0000
def fPartial : Nat := 0x0010
def fNotStarted : Nat := 0x0020
def fWithdrawn : Nat := 0x0030
def fPolicy : Nat := 0x0040
def fQuota : Nat := 0x0041
def fMalformed : Nat := 0x0050
def fCulvert : Nat := 0x0051
def fAuth : Nat := 0x0060
def fDevice : Nat := 0x0070
def fDuplicate : Nat := 0x0080
def fTimeout : Nat := 0x0090
def fAbsent : Nat := 0x00A0

/-- A fate that leaves an effect: DONE or PARTIAL (R122). -/
def hasEffect (code : Nat) : Bool := code == fDone || code == fPartial

/-- DONE, one unit, stage 0xFF (R121). -/
def done (result : Nat := 0) : FateRec := { code := fDone, result := result, stage := 0xFF, units := 1 }

/-- A fate with no effect: units 0. -/
def failFate (code detail : Nat) (stage : Nat := 0) : FateRec := { code := code, detail := detail, stage := stage }

/-- Whether an operation has a commit point (R177): START, GRANT, KEY_EXPORT, NEAR_ENROL (a key release), READ of an
EVIDENCE record, WRIT_APPLY (R178) and SCHEDULE (update activation). -/
def hasCommit (raw : BitVec 512) : Bool :=
  let o := dOpc raw
  o == 0x0300 || o == 0x0701 || o == 0x0803 || o == 0x0202 || o == 0x0D00 || o == 0x0C02 ||
    (o == 0x0601 && fieldLE raw 24 1 == 3)

/-- NOTE STALE_EPOCH (R178): for an operation without a commit point, and for a WRIT_APPLY that has not taken effect. Any other
operation that has a commit point never carries it, also where it ends before that point (DESIGN CHOICE, log entry 36). -/
def isStale (f : Flight) (s : State) : Bool :=
  (!hasCommit f.raw || (dOpc f.raw == 0x0D00 && f.stage != 0x02)) && s.slc.epoch != f.epochAdm

/-- Returns a charge whose request had no effect (R158). -/
def returnCharge (f : Flight) : State → State :=
  modRun f.ten (fun x => match f.charge with
    | .none => x
    | .custody n => { x with custodyHeld := x.custodyHeld - n }
    | .handle => { x with handlesHeld := x.handlesHeld - 1 }
    | .dir n => { x with dirHeld := x.dirHeld - n })

/-- Hash engine `e` is in service (its UNIT_TYPE is 0x03, R569). -/
def hashEngine (s : State) (e : Nat) : Bool := tabGet UnitSt.up s.flt.units (0x03 * 256 + e) == .up
def hashUp (s : State) : Bool := hashEngine s 0 || hashEngine s 1
def hashDegraded (s : State) : Bool := !(hashEngine s 0 && hashEngine s 1)

/-- The operations outside the PKE and WRT classes whose results rest on a digest of a record, an image or a blob (R523). -/
def digests (raw : BitVec 512) : Bool := [0x0600, 0x0601, 0x0603, 0x0802, 0x0803, 0x0C00, 0x0C04].contains (dOpc raw)

/-- What the fate record of a flight becomes: its notes and the time of the write added. -/
def noteFate (fr : FateRec) (f : Flight) (s : State) : FateRec :=
  { fr with
    laneMoved := fr.laneMoved || f.laneMoved
    degraded := fr.degraded || f.degraded || ledgerDegraded s || (fr.code == fDone && digests f.raw && hashDegraded s)
    spare := fr.spare || f.spare
    stale := fr.stale || isStale f s
    units := min fr.units 0xFFFFFF
    tFate := monoUs s }

/-- The fate of a DUPLICATE `d`: the earlier descriptor's progress and result, and its fate in ECHO_FATE (R126). Its NOTE is its own:
STALE_EPOCH where the epoch advanced while it waited, and neither LANE_MOVED nor SPARE_IN_USE, since no lane and no spare served
it (DESIGN CHOICE, log entry 27). -/
def echoFate (fr : FateRec) (d : Flight) (s : State) : FateRec :=
  { fr with code := fDuplicate, echo := fr.code % 256, laneMoved := false, stale := isStale d s, degraded := ledgerDegraded s,
            spare := false, tFate := monoUs s }

/-- Descriptors that wait as duplicates of `r`. -/
def dupsOf (r : Nat) (s : State) : List Nat :=
  (List.range s.host.flights.length).filter (fun i => match getFlight s i with
    | some d => d.dupOf == some r && d.fate.isNone
    | none => false)

/-- Gives every duplicate that waits for descriptor `r` its echo (R126). -/
def settleDups (r : Nat) (fr : FateRec) (s : State) : State :=
  each (dupsOf r s) (fun i t =>
    logRec (.fate i) (modFlight i (fun x => if x.fate.isSome then x else { x with begun := true, fate := some (echoFate fr x s) }) t)) s

/-! ### Virtual time (R162) -/

/-- Completions can be written: the link is up, and the ring is not DISABLED and has had no refused write (R129). -/
def canPost (s : State) (g : Nat) : Bool :=
  released s && (getRing s g).st != .disabled && !(getRing s g).mute

/-- A descriptor waits in a queue behind the sluice: to be begun, a grant for its commit, a LOCATE for the air, or its completion for
the movers. -/
def waitsInQueue (s : State) (r : Nat) (f : Flight) : Bool :=
  f.dupOf.isNone && (match f.fate with
    | none => !f.begun || s.dir.grants.any (fun g => g.1 == r) || (s.radio.locates.map (·.1)).contains r
    | some _ => !f.posted && f.era == (getRing s f.ring).era && canPost s f.ring)

/-- V: the lowest stamp among the work that waits, else the highest stamp issued; it never decreases (R162). -/
def virtualNow (s : State) : Nat :=
  let waiting := (((List.range s.host.flights.length).zip s.host.flights).filter (fun e => waitsInQueue s e.1 e.2)).map (·.2.stamp)
  max s.slc.vtime ((minList (waiting ++ s.cus.jobs.map (·.stamp))).getD (max s.slc.topStamp s.cus.topStamp))

/-- V as it stands is kept, so that work which begins to wait with a lower stamp takes it no lower. -/
def noteV (s : State) : State := modSlc (fun b => { b with vtime := virtualNow s }) s

/-- Gives an accepted descriptor its one fate: written to the ledger, charges of a fate with no effect returned, waiting
duplicates answered. A descriptor that has its fate keeps it (R34). -/
def settle (r : Nat) (fr : FateRec) (s : State) : State :=
  match getFlight s r with
  | none => s
  | some f =>
    if f.fate.isSome then s
    else
      settleDups r (noteFate fr f s)
        (logRec (.fate r)
          (onlyIf (!hasEffect fr.code) (returnCharge f)
            (modFlight r (fun x => { x with begun := true, fate := some (noteFate fr f s), stage := fr.stage,
                                            units := fr.units }) (noteV s))))

/-! ### Order and fences on a ring (R36, R114) -/

/-- Whether every descriptor accepted before `r` on the same ring has its fate. -/
def earlierFated (s : State) (r : Nat) (f : Flight) : Bool :=
  (s.host.flights.take r).all (fun x => x.ring != f.ring || x.fate.isSome)

/-- Whether a fate counts as DONE for a fence. -/
def fenceGood (fate : Option FateRec) : Bool :=
  match fate with
  | none => false
  | some x => x.code == fDone || (x.code == fDuplicate && x.echo == fDone)

/-- The fence set of R114, newest first: back to the most recent earlier FENCE descriptor, itself included. -/
def fenceSet : List Flight → List Flight
  | [] => []
  | x :: rest => if dFence x.raw then [x] else x :: fenceSet rest

/-- Whether a descriptor's FENCE, if it has one, holds. -/
def fenceHolds (s : State) (r : Nat) (f : Flight) : Bool :=
  !dFence f.raw ||
    (fenceSet (((s.host.flights.take r).filter (fun x => x.ring == f.ring && x.era == f.era)).reverse)).all
      (fun x => fenceGood x.fate)

/-- When the bound of a descriptor began to run: its admission, or the last fate it waited for (R36). -/
def boundStart (s : State) (r : Nat) (f : Flight) : Nat :=
  ((s.host.flights.take r).filter (fun x => x.ring == f.ring)).foldl
    (fun t x => max t ((x.fate.map (·.tFate)).getD 0)) f.tAdm

/-- Whether engine work can run at all: the part is released and not in Hearth mode (R95, R560). -/
def working (s : State) : Bool := s.sys.ready && s.pwr.mode != .hearth

/-! ### The queues behind the sluice (R164) -/

/-- `a` is served before `b`, or is `b`: the lower stamp, then the lower tenancy, then the earlier acceptance. -/
def servedBefore (a b : Nat × Flight) : Bool :=
  decide (a.2.stamp < b.2.stamp) || (a.2.stamp == b.2.stamp &&
    (decide (a.2.ten < b.2.ten) || (a.2.ten == b.2.ten && decide (a.1 ≤ b.1))))

/-- The readers a descriptor of class NFC names. -/
def queueReaders (raw : BitVec 512) : List Nat :=
  if dOpc raw = 0x0400 then (List.range 8).filter (fun k => bit (fieldLE raw 24 1) k) else [fieldLE raw 24 1]

/-- Classes that one engine serves: the SYS, directory, key, cipher, public-key, random, update, time and service classes. -/
def oneEngine (cls : Nat) : Bool := [0x01, 0x07, 0x08, 0x09, 0x0A, 0x0B, 0x0C, 0x0E, 0x0F].contains cls

/-- Two descriptors wait in one queue (log entry 35): that of the class where one engine serves it, a reader for class NFC, a class of the
custody store for APPEND and a record of it for READ, and for every other operation the queue of that operation. -/
def sharesQueue (a b : BitVec 512) : Bool :=
  let o := dOpc a
  if dClass a = 0x04 then dClass b == 0x04 && (queueReaders a).any (queueReaders b).contains
  else if oneEngine (dClass a) then dClass b == dClass a
  else dOpc b == o && ((o != 0x0600 && o != 0x0601) || fieldLE a 24 1 == fieldLE b 24 1) &&
    (o != 0x0601 || fieldLE a 32 8 == fieldLE b 32 8)

/-- The queue's turn is `r`'s: no descriptor that waits in the same queue goes before it. A lookup that a rebuild holds back holds back
no other (R480). -/
def queueTurn (s : State) (r : Nat) (f : Flight) : Bool :=
  ((List.range s.host.flights.length).zip s.host.flights).all (fun e =>
    e.1 == r || e.2.begun || e.2.fate.isSome || e.2.dupOf.isSome || !sharesQueue f.raw e.2.raw || servedBefore (r, f) e ||
      !earlierFated s e.1 e.2 || (dClass f.raw == 0x07 && s.dir.st == 1))

/-- Begins descriptor `r`, an operation `opc` that has not begun, and runs `body` on it. A descriptor that does not exist,
is another operation, has begun or has its fate, or must still wait for an earlier one on its ring (R36) or in its queue (R164)
leaves the state as it is; a broken fence ends it NOT_STARTED (R114). -/
def startOp (opc r : Nat) (body : Flight → State → State) (s : State) : State :=
  match getFlight s r with
  | none => s
  | some f =>
    if working s && dOpc f.raw == opc && !f.begun && f.fate.isNone && earlierFated s r f && queueTurn s r f then
      if fenceHolds s r f then body f (modFlight r (fun x => { x with begun := true }) (noteV s))
      else settle r (failFate fNotStarted 0x09) s
    else s

/-- Goes on with descriptor `r`, an operation `opc` that has begun and has no fate. -/
def onOp (opc r : Nat) (body : Flight → State → State) (s : State) : State :=
  match getFlight s r with
  | none => s
  | some f => if working s && dOpc f.raw == opc && f.begun && f.fate.isNone then body f s else s

/-- Shows the stage and units a descriptor in flight has reached (R121, R143). -/
def atStage (r stage units : Nat) : State → State := modFlight r (fun x => { x with stage := stage, units := units })

/-! ### Culverts (R154, R155) -/

/-- The host memory behind range `i` of a descriptor, as checked at admission. -/
def rangeOf (f : Flight) (i : Nat) : HostRange := nth { func := 0, addr := 0, len := 0 } f.ranges i

/-- Bytes a host read returned, as `n` bytes. -/
def readBytes (rd : HostRead) (n : Nat) : Option Bytes :=
  match rd with
  | .ok d => some (slice d 0 n)
  | .failed => none

/-- The part's write of a culvert range: the bytes go out, and `ok` says whether the host took them. -/
def culvertWrite (f : Flight) (i : Nat) (data : Bytes) : State → State :=
  emit (.hostWrite (rangeOf f i).func (rangeOf f i).addr data)

/-- Ends an operation whose culvert write of `data` is its last step: DONE as given, or CULVERT_FAULT with HOST_WRITE. -/
def writeAndSettle (r : Nat) (f : Flight) (i : Nat) (data : Bytes) (wr : Bool) (fr : FateRec) (s : State) : State :=
  if wr then settle r fr (culvertWrite f i data s) else settle r (failFate fCulvert 0x12 fr.stage) s

/-- Runs `body` on what a culvert read returned, or ends the operation CULVERT_FAULT with HOST_READ. -/
def withRead (r : Nat) (rd : HostRead) (n stage : Nat) (body : Bytes → State → State) (s : State) : State :=
  match readBytes rd n with
  | some d => body d s
  | none => settle r (failFate fCulvert 0x11 stage) s

/-! ### Commit points (R28, R177) -/

/-- The epoch part of the check at a commit point: an EPOCH field that is not 0 must equal the epoch in force; with an
EPOCH field of 0 the tenancy must exist, its class be permitted, and the rules `allowed` not forbid it. -/
def commitHolds (f : Flight) (allowed : Bool) (s : State) : Bool :=
  if dEpoch f.raw != 0 then dEpoch f.raw == s.slc.epoch
  else tenExists s f.ten && (getTen s f.ten).classMask.getLsbD (dClass f.raw) && allowed

/-- A commit point: the check and the ledger record in one step. On a failed check the operation ends WITHDRAWN with
EPOCH_AT_COMMIT; where the record cannot be written it ends DEVICE_FAULT with `detail` (R630). -/
def commitPoint (r : Nat) (f : Flight) (allowed : Bool) (k : LKind) (stage detail : Nat) (body : State → State)
    (s : State) : State :=
  if commitHolds f allowed s then
    if canLog k s then body (logRec k s) else settle r (failFate fDevice detail stage) s
  else settle r (failFate fWithdrawn 0x0B stage) s

/-! ### Ring state and interrupts (R128–R136) -/

/-- Marks the write-back block of a ring as due within 2 µs (R108). -/
def wbMark (now : Nat) (rg : Ring) : Ring := { rg with wbDue := some (rg.wbDue.getD (now + 2)) }

/-- Sends a ring's moderated interrupt and disarms it (R134). -/
def signalRing (g : Nat) (s : State) : State :=
  modRing g (fun rg => { rg with armed := false, modPend := 0, modAt := none })
    (sendMsix (getRing s g).func (getRing s g).setup.vec.toNat s)

/-- HOST_MOD_COUNT and HOST_MOD_US, where 0 is treated as 1 (R144). -/
def modCountOf (rg : Ring) : Nat := max 1 rg.setup.modCount.toNat
def modUsOf (rg : Ring) : Nat := max 1 rg.setup.modUs.toNat

/-- Counts `n` completions toward an armed interrupt, which is sent when the count is reached or `irq` asks (R134). -/
def countForIrq (g n : Nat) (irq : Bool) (s : State) : State :=
  let rg := getRing s g
  if rg.armed && n != 0 then
    if irq || modCountOf rg ≤ rg.modPend + n then signalRing g s
    else modRing g (fun x => { x with modPend := x.modPend + n,
                                      modAt := some (x.modAt.getD (monoUs s + modUsOf rg)) }) s
  else s

/-- A cause of STOPPED (R128, R129, R131): the error code is taken; a RUNNING ring stops and its vector is raised once;
after a refused write the ring writes nothing more. -/
def stopRing (g : Nat) (err : BitVec 8) (s : State) : State :=
  let mute := err == 0x04 || err == 0x05
  let was := (getRing s g).st
  let s := modRing g (fun rg => wbMark (monoUs s) { rg with
    err := err, mute := rg.mute || mute, st := if rg.st = .running then .stopped else rg.st, peek := none
    ledSt := if rg.st = .running ∧ rg.ledSt = .running then .stopped else rg.ledSt }) s
  if was = .running then sendMsix (getRing s g).func (getRing s g).setup.vec.toNat s else s

/-- An enable or disable of a ring, with its ledger record; without room for the record the set-up, the state and TR_CI that the ledger
holds stay what they were (R132, R138). -/
def recordRing (g : Nat) (f : Ring → Ring) (s : State) : State :=
  if canLog (.ringSet g) s then logRec (.ringSet g) (modRing g (fun rg => { f rg with ledSt := (f rg).st }) s)
  else modRing g (fun rg => { f rg with recorded := rg.recorded, trCiRec := rg.trCiRec }) s

/-- Starts DRAINING of a RUNNING or STOPPED ring (R128, R179); the disable is recorded with TR_CI (R132, R138). -/
def drainRing (g : Nat) (s : State) : State :=
  if (getRing s g).st = .running ∨ (getRing s g).st = .stopped then
    recordRing g (fun rg => wbMark (monoUs s) { rg with st := .draining, recorded := rg.setup, trCiRec := rg.trCi,
                                                        peek := none }) s
  else s

/-- Whether every accepted descriptor of a ring has its fate. -/
def ringFated (s : State) (g : Nat) : Bool := s.host.flights.all (fun f => f.ring != g || f.fate.isSome)

/-- Descriptors of a tenancy accepted and without a fate (SLC_TEN_INFLIGHT). -/
def inflightOf (s : State) (t : Nat) : Nat :=
  (s.host.flights.filter (fun f => f.ten == t && f.fate.isNone)).length

/-! ### Weirs (R157, R159) -/

/-- A tenancy's two buckets as they stand now, millionths. -/
def bucketsNow (s : State) (t : Nat) : Int × Int :=
  let w := (getTen s t).weir
  let x := getRun s t
  let capD : Int := 1000000 * w.burst
  let capB : Int := 1024000000 * w.byteRate
  if x.primed then
    let dt : Nat := monoUs s - x.at_
    (min capD (x.tokens + w.rate * dt), min capB (x.bytes + 1024 * w.byteRate * dt))
  else (capD, capB)

/-- Brings every bucket in use up to date, at the rates in force (R159). -/
def settleBuckets (s : State) : State :=
  modSlc (fun b => { b with run := b.run.map (fun e => if e.2.primed then
    (e.1, { e.2 with tokens := (bucketsNow s e.1).1, bytes := (bucketsNow s e.1).2, at_ := monoUs s }) else e) }) s

/-! ### Fitted ports (R74–R77) -/

/-- Unit types (R569); the codes from 0x20 up are the model's, for ports the table gives no unit type. -/
def uPair : Nat := 0x01
def uLane : Nat := 0x02
def uHash : Nat := 0x03
def uPke : Nat := 0x04
def uRng : Nat := 0x05
def uSram : Nat := 0x06
def uLedger : Nat := 0x07
def pNvm : Nat := 0x08
def uDram : Nat := 0x09
def pLf : Nat := 0x0A
def pUhf : Nat := 0x0B
def uSyn : Nat := 0x0C
def pNfc : Nat := 0x0D
def pCap : Nat := 0x0E
def pIfl : Nat := 0x0F
def pCan : Nat := 0x10
def pEth : Nat := 0x11
def pWake : Nat := 0x12
def uPmic : Nat := 0x13
def uRail : Nat := 0x14
def uTamper : Nat := 0x15
def uRecord : Nat := 0x16
def pCoex : Nat := 0x17
def uSlk : Nat := 0x18
def uClock : Nat := 0x19
def pAng : Nat := 0x20
def pTmesh : Nat := 0x21
def pDsense : Nat := 0x22

/-- The mandatory ports a board record must fit besides those with no field of their own: UHF0, and at least one LF
channel, one CAN port and one drive (R77); UHF_PA_GAIN values above 60 make a record invalid (R74). -/
def boardOk (b : BoardRec) : Bool :=
  b.uhf.getLsbD 0 && b.lf != 0 && b.can != 0 && b.nvm != 0 && b.paGain.length == 8 && b.paGain.all (fun g => decide (g ≤ 60))

/-- The board record in force, when it is valid and fits every mandatory port (R77). -/
def board (s : State) : Option BoardRec :=
  match s.cfg.board with
  | some b => if boardOk b then some b else none
  | none => none

/-- The PMIC can be spoken to: the board record gives its address and the power record its register (R78). -/
def pmicKnown (s : State) : Bool := (board s).isSome && s.cfg.power.isSome

/-- The fitted map of a port kind. -/
def fittedMap (b : BoardRec) (kind : Nat) : Nat :=
  if kind = pLf then b.lf.toNat else if kind = pUhf then b.uhf.toNat else if kind = pNfc then b.nfc.toNat
  else if kind = pCap then b.cap.toNat else if kind = pIfl then b.ifl.toNat else if kind = pAng then b.ang.toNat
  else if kind = pCan then b.can.toNat else if kind = pEth then b.eth.toNat else if kind = pNvm then b.nvm.toNat
  else if kind = pWake then b.wake.toNat else if kind = pTmesh then b.tmesh.toNat
  else if kind = pDsense then b.dsense.toNat else if kind = pCoex then b.coex.toNat else 0

/-- Whether the board record fits a port. -/
def fitted (s : State) (kind n : Nat) : Bool :=
  match board s with
  | some b => bit (fittedMap b kind) n
  | none => false

/-- Service state of a unit. -/
def unitSt (s : State) (kind n : Nat) : UnitSt := tabGet .up s.flt.units (kind * 256 + n)
def setUnit (kind n : Nat) (u : UnitSt) : State → State :=
  modFlt (fun b => { b with units := tabSet .up b.units (kind * 256 + n) u })

def pkeUp (s : State) : Bool := unitSt s uPke 0 == .up

/-- While the part runs on the RC, the UHF chains, the Ifeven and Ethernet ports and the drives cannot be used (R205). -/
def clockServes (s : State) (kind : Nat) : Bool :=
  !(s.clk.onRc && (kind == pUhf || kind == pIfl || kind == pEth || kind == pNvm))

/-- The rail a port stands on is good (R100): VIO33, VRF and VLFDRV carry the ports, VSERDES the drives and Ethernet. -/
def railServes (s : State) (kind : Nat) : Bool :=
  let g := s.pwr.railGood
  if kind = pLf then g.getLsbD 0 && g.getLsbD 2
  else if kind = pUhf ∨ kind = pIfl then g.getLsbD 1
  else if kind = pNvm ∨ kind = pEth then g.getLsbD 5 && g.getLsbD 6
  else if kind = pNfc ∨ kind = pCap ∨ kind = pCan ∨ kind = pAng ∨ kind = pDsense then g.getLsbD 0
  else true

/-- Whether a port is fitted and in service (R75, R76). -/
def portUp (s : State) (kind n : Nat) : Bool :=
  fitted s kind n && unitSt s kind n == .up && clockServes s kind && railServes s kind

/-! ### Interrupt and event helpers of the other blocks -/

/-- Sets bits of an event register. -/
def setBits {n : Nat} (v : BitVec n) (i : Nat) : BitVec n := v ||| BitVec.ofNat n (2 ^ i)

/-- Writes a register's W1C bits: a 1 clears, a 0 has no effect (R8). -/
def w1c {n : Nat} (v : BitVec n) (w : Nat) : BitVec n := v &&& ~~~ BitVec.ofNat n w

end Sys2Proof.Machine
end

