-- ==== Sys2Proof/Machine/Time.lean ====
section
/-! DEFINITION. The passing of time: TIME_MONO and the Counter Bank (R207, R209–R214). -/

namespace Sys2Proof.Machine

/-! ### The triangle count (R209) -/

/-- Phase of a counter within its period of 2 × TOP ticks: 0 to TOP on the way up, then on to 2 × TOP on the way down.
A count of 0 reached from above is phase 2 × TOP; just enabled it is phase 0. -/
def cntPhase (c : Cnt) : Nat := if c.down then 2 * c.top - c.count else c.count

/-- The counter at a phase of 1 or more reached by a tick. -/
def cntAt (c : Cnt) (p : Nat) : Cnt :=
  if p ≤ c.top then { c with count := p, down := false } else { c with count := 2 * c.top - p, down := true }

/-- Ticks until the count next reaches 0. -/
def ticksToZero (c : Cnt) : Nat := 2 * c.top - cntPhase c % (2 * c.top)

/-- Ticks until a tick next brings the count to a value of at most TOP (R212). -/
def ticksToValue (c : Cnt) (v : Nat) : Nat :=
  let per := 2 * c.top
  let p := cntPhase c % per
  let up := (v + per - p - 1) % per + 1
  let dn := (per - v + per - p - 1) % per + 1
  min up dn

/-- The count after `k` ticks with TOP unchanged. -/
def cntMove (c : Cnt) (k : Nat) : Cnt :=
  if k = 0 then c
  else
    let p := (cntPhase c + k) % (2 * c.top)
    cntAt c (if p = 0 then 2 * c.top else p)

/-- Whether a compare value fires within the next `k` ticks (R212). -/
def firesIn (c : Cnt) (v k : Nat) : Bool := decide (v ≤ c.top) && decide (ticksToValue c v ≤ k)

/-- `k` ticks of an enabled counter. A TOP that waits takes effect when the count reaches 0 (R209). -/
def cntTicks (c : Cnt) (k : Nat) : Cnt :=
  let z := ticksToZero c
  match c.topNext with
  | some t =>
    if z ≤ k then
      let a := { cntMove c z with hit0 := c.hit0 || firesIn c c.cmp0 z, hit1 := c.hit1 || firesIn c c.cmp1 z }
      let b := { a with top := t, topNext := none, count := 0, down := true }
      { cntMove b (k - z) with hit0 := b.hit0 || firesIn b b.cmp0 (k - z), hit1 := b.hit1 || firesIn b b.cmp1 (k - z) }
    else { cntMove c k with hit0 := c.hit0 || firesIn c c.cmp0 k, hit1 := c.hit1 || firesIn c c.cmp1 k }
  | none => { cntMove c k with hit0 := c.hit0 || firesIn c c.cmp0 k, hit1 := c.hit1 || firesIn c c.cmp1 k }

/-- Counters tick at 32.768 kHz in Parked, and at the reference divided by CNT_PRESCALE + 1 otherwise (R210). -/
def cntSlow (s : State) : Bool := s.pwr.mode == .parked

/-- The Counter Bank runs while the Watch domain is powered: not in Dormant, and not without VAON (R210). -/
def cntRuns (s : State) : Bool := s.pwr.vaon && s.pwr.mode != .dormant

/-- Tick length as a fraction: a counter's accumulator gains `num` per ns and a tick takes `den`. -/
def cntRate (slow : Bool) (c : Cnt) : Nat × Nat :=
  if slow then (32768, 1000000000) else (1, 40 * (c.prescale.toNat + 1))

/-- `ns` nanoseconds of one counter. -/
def cntElapse (slow : Bool) (ns : Nat) (c : Cnt) : Cnt :=
  if c.en then
    let r := cntRate slow c
    let a := c.acc + ns * r.1
    { cntTicks c (a / r.2) with acc := a % r.2 }
  else c

/-- Messages for the hit and capture bits that rose between two views of a counter (R214). -/
def cntRises (old new : Cnt) : Nat :=
  ofBool (new.irq0 && new.hit0 && !old.hit0) + ofBool (new.irq1 && new.hit1 && !old.hit1) +
    ofBool (new.capIrq && new.capFull && !old.capFull)

/-- Puts a changed counter in place and sends the messages its rises ask for. -/
def putCnt (n : Nat) (new : Cnt) (s : State) : State :=
  let old := nth {} s.clk.cnts n
  let s := modClk (fun c => { c with cnts := modAt c.cnts n (fun _ => new) }) s
  (List.range (cntRises old new)).foldl (fun t _ => sendMsix 0 t.clk.cntVec.toNat t) s

/-- Lets `ns` nanoseconds pass. -/
def elapseNs (ns : Nat) (s : State) : State :=
  let slow := cntSlow s
  let s1 := onlyIf (cntRuns s)
    (each (List.range 16) (fun n t => putCnt n (cntElapse slow ns (nth {} t.clk.cnts n)) t)) s
  modClk (fun c => { c with ns := c.ns + ns }) s1

/-- Lets time pass until TIME_MONO reads at least `t` ns; a time already past changes nothing. -/
def elapseToNs (t : Nat) (s : State) : State := if t ≤ s.clk.ns then s else elapseNs (t - s.clk.ns) s

/-- Lets time pass until TIME_MONO reads at least `t` µs. -/
def elapseTo (t : Nat) (s : State) : State := elapseToNs (if onRtc s then rtcNs t else 1000 * t) s

/-- The change of every counter's tick source: the counts keep their values and CNT_RATE_CHG is set (R210). -/
def cntRateChange : State → State :=
  modClk (fun c => { c with cnts := c.cnts.map (fun x => { x with rateChg := true, acc := 0 }) })

end Sys2Proof.Machine
end

