-- ==== Sys2Proof/Machine/Angle.lean ====
section
/-! DEFINITION. The angle decoders, the cycle position, the Furrow table and the granting of windows (R187–R203).
Angles are counted in 60ths of an ang, so that a crank tooth pitch is 4,096 of them and a revolution 245,760. -/

namespace Sys2Proof.Machine

/-! ### Decoders -/

/-- Whether `lo` ÷ 10 ≤ p ÷ q ≤ `hi` ÷ 10. -/
def ratioIn (p q lo hi : Nat) : Bool := decide (lo * q ≤ 10 * p) && decide (10 * p ≤ hi * q)

/-- What a crank edge brings about. -/
inductive CrankEvent where
  | none | synced | lost
  deriving DecidableEq, Repr

/-- The crank after its loss at an edge at `t`: synchronisation starts afresh and the coasting data are kept (R188, R202). -/
def crankLost (c : Crank) (t : Nat) : Crank :=
  { last := some t, seen := c.seen, per := none, second := c.second, coastT := c.last.getD t, coastTooth := c.tooth,
    coastPer := c.per.getD 0, coastOfs := c.ofs }

/-- One falling edge of ANG0 at `t` ns (R188). -/
def crankStep (t : Nat) (c0 : Crank) : Crank × CrankEvent :=
  let c := { c0 with ofs := 0 }
  match c.last, c.per with
  | none, _ => ({ c with last := some t }, .none)
  | some l, none => ({ c with last := some t, per := some (t - l), gapSeen := false, teeth := 0 }, .none)
  | some l, some q =>
    let p := t - l
    if c.sync then
      if c.tooth = 57 then
        if ratioIn p q 20 40 then
          ({ c with last := some t, per := some (p / 3), tooth := 0, second := !c.second }, .none)
        else (crankLost c0 t, .lost)
      else if ratioIn p q 5 15 then ({ c with last := some t, per := some p, tooth := c.tooth + 1 }, .none)
      else (crankLost c0 t, .lost)
    else if ratioIn p q 20 40 then
      if c.gapSeen && c.teeth == 57 then
        ({ c with last := some t, per := some (p / 3), sync := true, tooth := 0, second := false }, .synced)
      else ({ c with last := some t, per := some (p / 3), gapSeen := true, teeth := 0 }, .none)
    else if ratioIn p q 5 15 then ({ c with last := some t, per := some p, teeth := c.teeth + 1 }, .none)
    else ({ c with last := some t, per := some p, gapSeen := false, teeth := 0 }, .none)

/-- When the crank's next edge is overdue, ns: 1.5 times the predicted period, 4.0 times at the gap (R188). -/
def crankDue (c : Crank) : Option Nat :=
  match c.sync, c.last, c.per with
  | true, some l, some q => some (l + if c.tooth = 57 then 4 * q else 3 * q / 2)
  | _, _, _ => none

/-- Whether an edge fits the coasting prediction within ±25 % of a period, and how many pitches on from the last edge before
the loss; the crank wheel has no teeth in its gap (R202). -/
def coastFit (t : Nat) (gap : Bool) (c : Crank) : Option Nat :=
  if c.coastPer = 0 then none
  else
    let k := (t - c.coastT + c.coastPer / 2) / c.coastPer
    let pred := c.coastT + k * c.coastPer
    let off := if t ≤ pred then pred - t else t - pred
    if k != 0 && decide (4 * off ≤ c.coastPer) && (!gap || decide ((c.coastTooth + k) % 60 < 58)) then some k else none

/-- One falling edge of ANG2 (R190): consecutive good periods are counted. -/
def propStep (t : Nat) (p0 : PropShaft) : PropShaft :=
  let p := { p0 with ofs := 0 }
  match p.last, p.per with
  | none, _ => { p with last := some t, edges := p.edges + 1 }
  | some l, none => { p with last := some t, per := some (t - l), good := 0, edges := p.edges + 1 }
  | some l, some q =>
    { p with last := some t, per := some (t - l), edges := p.edges + 1,
             good := if ratioIn (t - l) q 5 15 then p.good + 1 else 0 }

/-- Propshaft advance at `t`, thousandths of a pitch, interpolated at the last period's rate. -/
def propMilli (t : Nat) (p : PropShaft) : Nat :=
  match p.last, p.per with
  | some l, some q => (1000 * (p.edges : Int) + min 999 (p.ofs + (if q = 0 then 0 else 1000 * (t - l) / q : Nat))).toNat
  | _, _ => 1000 * p.edges

/-- Propshaft advance at `t` while a switch away from it coasts, thousandths of a pitch (R202). -/
def coastMilli (t : Nat) (c : Crank) : Nat :=
  (c.coastOfs + (1000 * c.coastTooth + (if c.coastPer = 0 then 0 else 1000 * (t - c.coastT) / c.coastPer) : Nat)).toNat

/-- Crank angle while a switch away from the crank coasts, 60ths of an ang (R202). -/
def coast60 (t : Nat) (c : Crank) : Nat :=
  (c.coastOfs + (4096 * c.coastTooth + (if c.coastPer = 0 then 0 else 4096 * (t - c.coastT) / c.coastPer) : Nat)).toNat

/-- Agreement of two ratios within 1 % (R190). -/
def within1 (a b : Nat) : Bool := decide (100 * (max a b - min a b) ≤ max a b)

/-- The ratio measured at a crank tooth 0 while synchronised: crank angle over propshaft angle in the last revolution,
millionths; held when two consecutive measurements agree within 1 %, dropped when they do not (R190). A ratio held when a new table changes
PROP_TEETH stays held until a measurement drops it (DESIGN CHOICE, log entry 101). -/
def measureRatio (t teeth : Nat) (p : PropShaft) : PropShaft :=
  let m := propMilli t p
  match p.atTooth0 with
  | none => { p with atTooth0 := some m }
  | some m0 =>
    if m ≤ m0 then { p with atTooth0 := some m, measured := none, ratio := none }
    else
      let r := 1000000 * 1000 * teeth / (m - m0)
      { p with
        atTooth0 := some m
        measured := some r
        ratio := match p.measured with
          | none => p.ratio
          | some r0 => if within1 r0 r then some r else none }

/-- Whether the propshaft is usable as the reference now (R190): its next edge is due one period after the last, and is overdue by more than
1.5 periods after 2.5. -/
def propUsable (s : State) : Bool :=
  let p := s.clk.prop
  let n := s.clk.table.propTeeth
  n != 0 && portUp s pAng 2 && decide (n ≤ p.good) && p.ratio.isSome &&
    (match p.last, p.per with
     | some l, some q => decide (s.clk.ns ≤ l + 5 * q / 2)
     | _, _ => false)

/-! ### Speeds (R188, R191) -/

/-- ANG_TURNING: synchronised and the last period below 20 ms. -/
def turning (s : State) : Bool :=
  s.clk.crank.sync && (match s.clk.crank.per with | some q => decide (q < 20000000) | none => false)

/-- ANG_RPM: a tooth pitch is one sixtieth of a revolution. -/
def angRpm (s : State) : Nat :=
  if s.clk.crank.sync then (match s.clk.crank.per with | some q => 1000000000 / q | none => 0) else 0

/-- A speed in km/h as a fraction, numerator and denominator. -/
abbrev Speed : Type := Nat × Nat

/-- The ANG3 figure, when it is valid: 3,600 ÷ (pulse period in s × WHEEL_PULSES_KM), and 0 once no pulse has come for 1 s. -/
def ang3Speed (s : State) : Option Speed :=
  if portUp s pAng 3 && s.clk.table.wheelPulsesKm != 0 then
    match s.clk.wheelLast, s.clk.wheelPer with
    | some l, some q =>
      some (if s.clk.ns < l + 1000000000 && q != 0 then (3600000000000, q * s.clk.table.wheelPulsesKm) else (0, 1))
    | _, _ => some (0, 1)
  else none

/-- The CAN figure, valid while its last frame is less than 200 ms old. -/
def canSpeed (s : State) : Option Speed :=
  match s.clk.canRoadAt with
  | some t => if s.clk.ns < t + 200000000 then some (s.clk.canRoad, 65536) else none
  | none => none

/-- The valid figures of road speed. -/
def speeds (s : State) : List Speed := (ang3Speed s).toList ++ (canSpeed s).toList

/-- Road speed, the greater of the valid figures, is above `k` km/h. -/
def roadAbove (s : State) (k : Nat) : Bool := (speeds s).any (fun v => decide (k * v.2 < v.1))

/-- Road speed is at least `k` km/h. -/
def roadReaches (s : State) (k : Nat) : Bool := (speeds s).any (fun v => decide (k * v.2 ≤ v.1))

/-- A figure as the registers show it, 0.01 km/h. -/
def centiKmh (v : Speed) : Nat := 100 * v.1 / v.2

def ang3Road (s : State) : Option Nat := (ang3Speed s).map centiKmh
def canRoad (s : State) : Option Nat := (canSpeed s).map centiKmh

/-- Road speed in 0.01 km/h: the greater of the valid figures; none when ANG_ROAD_VALID reads 0. -/
def road (s : State) : Option Nat :=
  match ang3Road s, canRoad s with
  | some a, some b => some (max a b)
  | some a, none => some a
  | none, b => b

/-! ### Position (R192, R200, R202) -/

/-- The cycle spans two revolutions only with cam phase known. -/
def twoRevs (s : State) : Bool := s.clk.table.cycleRevs == 2 && s.clk.cam.known
def cycle60 (s : State) : Nat := if twoRevs s then 491520 else 245760

/-- Crank angle from tooth 0 of the first revolution, 60ths of an ang: at an edge the tooth's angle, or where an abandoned switch kept
the coasted position, that; between edges advancing at the rate of the last period without passing the next tooth; coasting
during a switch window; from the propshaft on the propshaft reference. -/
def crank60 (s : State) : Nat :=
  let c := s.clk.crank
  if c.sync then
    let base := 4096 * c.tooth + (if c.second && twoRevs s then 245760 else 0)
    let adv : Nat := match c.last, c.per with
      | some l, some q => if q = 0 then 0 else 4096 * (s.clk.ns - l) / q
      | _, _ => 0
    ((base : Int) + min (c.ofs + adv) (if c.tooth = 57 then 12288 else 4096)).toNat
  else if s.clk.ref = .prop then
    let p := s.clk.prop
    let n := s.clk.table.propTeeth
    let m := if s.clk.switching.isSome then coastMilli s.clk.ns c else propMilli s.clk.ns p
    if n = 0 then p.lossPos else max p.floor (p.lossPos + 245760 * ((m - p.lossProp) * p.ratio.getD 0) / (n * 1000000000))
  else coast60 s.clk.ns c + (if c.second && twoRevs s then 245760 else 0)

/-- Whether the position is being predicted; otherwise ANG_POS keeps its last value. -/
def posLive (s : State) : Bool := s.clk.crank.sync || s.clk.switching.isSome || s.clk.ref != .time

/-- The angle from TDC1, 60ths of an ang, of an angle of the crank (R192). -/
def fromTdc (s : State) (a60 : Nat) : Nat := (a60 + 245760 - 60 * s.clk.table.tdcOffset) % cycle60 s

/-- ANG_POS from an angle of the crank. -/
def posOf (s : State) (a60 : Nat) : Nat := fromTdc s a60 / 60

/-- ANG_POS. -/
def angPos (s : State) : Nat := if posLive s then posOf s (crank60 s) else s.clk.posHeld

/-! ### Noise windows (R194, R197, R200) -/

/-- The entry's windows, start in ang and length, with one window per cylinder under REPEAT (R194); folded onto one
revolution where cam phase is unknown. -/
def entryStarts (t : FurrowTable) (fold : Bool) (e : FurrowEntry) : List Nat :=
  let cyc := 4096 * t.cycleRevs
  let starts := if e.perCyl then (List.range t.cyl).map (fun k => (e.start + k * 4096 * t.cycleRevs / t.cyl) % cyc)
    else [e.start % cyc]
  starts.map (fun x => if fold then x % 4096 else x)

/-- Time of a tooth pitch of the crank, ns, on the present reference. -/
def pitchNs (s : State) : Nat :=
  if s.clk.ref = .prop ∧ s.clk.crank.sync = false then
    match s.clk.prop.per, s.clk.prop.ratio with
    | some q, some r => if r = 0 then 0 else q * s.clk.table.propTeeth * 1000000 / (r * 60)
    | _, _ => 0
  else s.clk.crank.per.getD 0

/-- The acceleration margin m = ACC_MAX × h² ÷ (2 × rpm), ns, for a guarded edge `h` ns away, rounded up (R197). -/
def margin (s : State) (q h : Nat) : Nat := ceilDiv (s.clk.table.accMax * h * h * q) (2 * 10 ^ 18)

/-- A widened noise window around one predicted start, ns; times may lie before now. The margin is that of the edge with its guard, as
in the example of R200. -/
def widen (s : State) (q : Nat) (now start : Int) (len : Nat) : Int × Int :=
  let guard : Nat := 1000 * s.clk.table.guardUs
  let a := start - guard
  let b := start + len + guard
  let extra : Nat := if s.clk.ref = .prop then s.clk.table.propWiden * 60 * q / 4096 else 0
  (a - extra - margin s q (a - now).toNat, b + extra + margin s q (b - now).toNat)

/-- Insertion of an interval in order of its start. -/
def insertIv (x : Int × Int) : List (Int × Int) → List (Int × Int)
  | [] => [x]
  | y :: rest => if x.1 ≤ y.1 then x :: y :: rest else y :: insertIv x rest

/-- Merges intervals, sorted by start, that overlap or touch, into the interval `x` before them. -/
def mergeInto (x : Int × Int) : List (Int × Int) → List (Int × Int)
  | [] => [x]
  | y :: rest => if y.1 ≤ x.2 then mergeInto (x.1, max x.2 y.2) rest else x :: mergeInto y rest

/-- Intervals in order of their starts, those that overlap or touch merged. -/
def mergeIv (l : List (Int × Int)) : List (Int × Int) :=
  match l.foldl (fun acc x => insertIv x acc) [] with
  | [] => []
  | x :: rest => mergeInto x rest

/-- The horizon of R198: four revolutions or 100 ms, ns. -/
def horizonNs (s : State) : Nat := min (240 * pitchNs s) 100000000

/-- How far on, 60ths of an ang, a noise window's predicted start may lie that a request weighs: one cycle beyond the horizon (log entry 40). -/
def noiseReach (s : State) : Int :=
  if pitchNs s = 0 then 8 * 491520 else (horizonNs s * 4096 / pitchNs s : Nat) + (cycle60 s : Int)

/-- The merged widened noise windows (R197): of every window predicted to start from one cycle back to `lim` 60ths of an ang on. -/
def noiseTo (lim : Int) (s : State) : List (Int × Int) :=
  let q := pitchNs s
  let now : Int := s.clk.ns
  let cyc : Int := cycle60 s
  let fold := !twoRevs s
  let a : Int := fromTdc s (crank60 s)
  mergeIv (s.clk.table.entries.flatMap (fun e =>
    (entryStarts s.clk.table fold e).flatMap (fun (st : Nat) =>
      (List.range 8).filterMap (fun (n : Nat) =>
        let far : Int := 60 * (st : Int) + cyc * ((n : Int) - 1) - a
        let d : Int := far * q / 4096
        if far ≤ lim then
          some (widen s q now (now + d) (if e.inUs then 1000 * e.length else 60 * e.length * q / 4096))
        else none))))

/-- The noise that a request made now is weighed against (R198). -/
def noise (s : State) : List (Int × Int) := noiseTo (noiseReach s) s

/-! ### Grants (R198, R200, R202) -/

/-- The Furrow's answer to a request. -/
inductive Grant where
  | at (t : Nat)
  | noFit (longest : Nat)
  | wait
  deriving DecidableEq, Repr

/-- Whether [t, t + d] lies clear of every interval. -/
def clearOf (iv : List (Int × Int)) (t d : Nat) : Bool :=
  iv.all (fun x => decide (x.2 ≤ (t : Int)) || decide ((t : Int) + d ≤ x.1))

/-- The longest quiet interval between `now` and `stop` left by merged sorted intervals. -/
def longestQuiet (now stop : Int) : List (Int × Int) → Nat
  | [] => (stop - now).toNat
  | x :: rest => max ((min x.1 stop - now).toNat) (longestQuiet (max now x.2) stop rest)

/-- The Furrow runs on time alone in every mode but those with the angle inputs decoded (R200, R201). -/
def onTime (s : State) : Bool := s.clk.ref == .time || s.pwr.mode == .parked || s.pwr.mode == .dormant

/-- The earliest window of `d` ns from `t0` on (R198). On the time reference every request up to 100 ms is granted at t0;
a request during a switch window waits. -/
def furrowGrant (s : State) (d t0 : Nat) : Grant :=
  if s.clk.switching.isSome && s.pwr.mode != .parked then .wait
  else if onTime s then (if d ≤ 100000000 then .at t0 else .noFit 100000000)
  else
    let iv := noise s
    let stop := s.clk.ns + horizonNs s
    let cands := t0 :: (iv.map (fun x => x.2.toNat)).filter (fun x => decide (t0 ≤ x))
    match minList (cands.filter (fun t => decide (t + d ≤ stop) && clearOf iv t d)) with
    | some t => .at t
    | none => .noFit (longestQuiet s.clk.ns stop iv)

/-- Enters a granted window. -/
def grantWindow (lf : Bool) (t d : Nat) (s : State) : State :=
  modClk (fun c => { c with windows := c.windows ++
    [{ start := t, stop := t + d, lf := lf, table := c.table, at60 := crank60 s, reach := noiseReach s }] }) s

/-- The cut of one granted window against the noise as predicted now (R199): none when it is withdrawn. -/
def cutWindow (now : Nat) (iv : List (Int × Int)) (w : Window) : Option Window :=
  match iv.find? (fun x => decide (x.1 < (w.stop : Int)) && decide ((w.start : Int) < x.2)) with
  | none => some w
  | some x => if w.start ≤ now then some { w with stop := max now x.1.toNat } else none

/-- A granted window with the angle turned since it was last judged, less than a revolution, taken off the noise it reckons with. -/
def turnOn (s : State) (w : Window) : Window :=
  { w with at60 := crank60 s, reach := w.reach - (((crank60 s : Int) - w.at60) % 245760) }

/-- A granted window as the noise it was granted against leaves it: that of its own table, as far on as the grant reckoned, so that only an
engine faster than ACC_MAX foresaw cuts it (R196, R199). -/
def cutNow (s : State) (w : Window) : Option Window :=
  cutWindow s.clk.ns (noiseTo w.reach { s with clk := { s.clk with table := w.table } }) w

/-- Windows not yet ended are predicted again at a tooth edge; a shortened or withdrawn one sets ANG_CUT (R199). Answers
whether an LF and whether a UHF window was cut. Nothing is cut during a switch window (R202) or on time alone. -/
def recut (s : State) : State × Bool × Bool :=
  let live := (s.clk.windows.filter (fun w => decide (s.clk.ns < w.stop))).map (turnOn s)
  if s.clk.switching.isSome || onTime s then (modClk (fun c => { c with windows := live }) s, false, false)
  else
    let cut := live.filter (fun w => cutNow s w != some w)
    let kept := live.filterMap (cutNow s)
    (modClk (fun c => { c with windows := kept,
                               events := if cut.isEmpty then c.events else setBits c.events 3 }) s,
      cut.any (·.lf), cut.any (fun w => !w.lf))

/-! ### The reference (R201, R202) -/

/-- Length of a switch window: two tooth periods of the lost reference, 200 µs to 50 ms. -/
def switchLen (per : Nat) : Nat := min 50000000 (max 200000 (2 * per))

/-- Starts a switch away from the crank. -/
def leaveCrank (target : Ref) (s : State) : State :=
  modClk (fun c => { c with switching := some target, switchEnd := c.ns + switchLen c.crank.coastPer,
                            prop := { c.prop with lossPos := crank60 s, lossProp := propMilli c.ns c.prop, floor := 0 } }) s

/-- Starts a switch from the propshaft to time, coasting on as `p` had it. `lost` says that the propshaft ceased to be usable;
otherwise PROP_HOLD_S has passed. -/
def leaveProp (lost : Bool) (p : PropShaft) (s : State) : State :=
  modClk (fun c => { c with switching := some .time, switchEnd := c.ns + switchLen (p.per.getD 0)
                            crank := { c.crank with coastT := p.last.getD c.ns, coastTooth := p.edges
                                                    coastPer := p.per.getD 0, coastOfs := p.ofs, coastHits := 0 }
                            prop := { c.prop with lost := lost } }) s

/-- The propshaft has ceased to be usable in PROP. -/
def propWatch (p : PropShaft) (s : State) : State :=
  if s.clk.ref = .prop ∧ s.clk.switching = none ∧ propUsable s = false then leaveProp true p s else s

/-- The crank is lost: ANG_CRANK_LOST, and on the crank reference a switch to the propshaft or to time. -/
def onCrankLost (s : State) : State :=
  let s := modClk (fun c => { c with events := setBits c.events 0 }) s
  if s.clk.ref = .crank ∧ s.clk.switching = none then leaveCrank (if propUsable s then .prop else .time) s else s

/-- The engine has stopped on the crank reference or the propshaft reference: TIME without a switch. -/
def refEngineStop (s : State) : State :=
  if s.clk.ref = .time then s else modClk (fun c => { c with ref := .time, switching := none }) s

/-- The crank is synchronised: the reference is CRANK at once, or when the switch window that runs has ended. -/
def onCrankSync (s : State) : State :=
  if s.clk.switching = none then modClk (fun c => { c with ref := .crank }) s else s

/-! ### The FURROW_TABLE body (R193–R195) -/

/-- The header and entries of a body, big-endian. -/
def parseFurrow (b : Bytes) : FurrowTable :=
  { tableId := beAt b 0 4, cyl := byteAt b 4, cycleRevs := byteAt b 5, tdcOffset := beAt b 6 2, guardUs := beAt b 8 2,
    accMax := beAt b 10 2, propTeeth := beAt b 12 2, propWiden := beAt b 14 2, propHoldS := beAt b 16 2,
    wheelPulsesKm := beAt b 20 4,
    entries := (List.range (byteAt b 24)).map (fun i =>
      let o := 32 + 8 * i
      { start := beAt b o 2, length := beAt b (o + 2) 2, inUs := byteAt b (o + 4) == 1, perCyl := byteAt b (o + 5) == 1,
        source := byteAt b (o + 6) }) }

/-- Ranges and reserved bytes of one entry. -/
def furrowEntryOk (b : Bytes) (revs o : Nat) : Bool :=
  decide (beAt b o 2 < 4096 * revs) && decide (1 ≤ beAt b (o + 2) 2) &&
    decide (beAt b (o + 2) 2 ≤ if byteAt b (o + 4) = 1 then 20000 else 4096) && decide (byteAt b (o + 4) ≤ 1) &&
    decide (byteAt b (o + 5) ≤ 1) && decide (byteAt b (o + 6) ≤ 2) && zeroAt b (o + 7) 1

/-- The intervals between consecutive ones of a list. -/
def gapsOf : List (Int × Int) → List (Int × Int)
  | x :: y :: rest => (x.2, y.1) :: gapsOf (y :: rest)
  | _ => []

/-- The quiet check (R195): at 3,000 rpm every quiet interval between consecutive merged noise intervals, guards included and with no
acceleration margin, lasts at least 2,000 µs, and noise leaves one (log entry 40). A revolution lasts 20 ms and an ang
20,000,000 ÷ 4,096 ns; times are counted in units of 1/4,096 ns to stay whole. The windows are laid out over five cycles and the quiet
intervals that begin in the third are judged, which every window that reaches into it has by then entered. -/
def quietAt3000 (t : FurrowTable) (fold : Bool) : Bool :=
  let cyc : Int := 20000000 * 4096 * (if fold then 1 else t.cycleRevs)
  let guard : Int := 1000 * 4096 * t.guardUs
  let iv := mergeIv (t.entries.flatMap (fun e => (entryStarts t fold e).flatMap (fun (st : Nat) =>
    let a : Int := 20000000 * (st : Int)
    let len : Int := if e.inUs then 1000 * 4096 * (e.length : Int) else 20000000 * (e.length : Int)
    (List.range 5).map (fun (n : Nat) => (cyc * n + a - guard, cyc * n + a + len + guard)))))
  let quiet := (gapsOf iv).filter (fun g => decide (2 * cyc ≤ g.1) && decide (g.1 < 3 * cyc))
  (t.entries.isEmpty || !quiet.isEmpty) && quiet.all (fun g => decide (2000000 * 4096 ≤ g.2 - g.1))

/-- Whether a FURROW_TABLE body is valid (R193, R195). -/
def furrowOk (b : Bytes) : Bool :=
  let n := byteAt b 24
  let revs := byteAt b 5
  decide (32 ≤ b.length) && b.length == 32 + 8 * n && decide (1 ≤ byteAt b 4) && decide (byteAt b 4 ≤ 16) &&
    (revs == 1 || revs == 2) && decide (beAt b 6 2 ≤ 4095) && decide (beAt b 8 2 ≤ 2000) && decide (100 ≤ beAt b 10 2) &&
    decide (beAt b 10 2 ≤ 20000) && decide (beAt b 12 2 ≤ 64) && decide (beAt b 14 2 ≤ 2048) &&
    decide (beAt b 16 2 ≤ 120) && zeroAt b 18 2 && decide (beAt b 20 4 ≤ 100000) && decide (n ≤ 64) && zeroAt b 25 7 &&
    (List.range n).all (fun i => furrowEntryOk b revs (32 + 8 * i)) &&
    quietAt3000 (parseFurrow b) false && (revs == 1 || quietAt3000 (parseFurrow b) true)

/-- The body of the table in force as FURROW_READ returns it (R196, R215). -/
def furrowBytes (t : FurrowTable) : Bytes :=
  be 4 t.tableId ++ be 1 t.cyl ++ be 1 t.cycleRevs ++ be 2 t.tdcOffset ++ be 2 t.guardUs ++ be 2 t.accMax ++
    be 2 t.propTeeth ++ be 2 t.propWiden ++ be 2 t.propHoldS ++ zeros 2 ++ be 4 t.wheelPulsesKm ++
    be 1 t.entries.length ++ zeros 7 ++
    t.entries.flatMap (fun e => be 2 e.start ++ be 2 e.length ++ be 1 (ofBool e.inUs) ++ be 1 (ofBool e.perCyl) ++
      be 1 e.source ++ zeros 1)

end Sys2Proof.Machine
end

