-- ==== Sys2Proof/Machine/FaultOps.lean ====
section
/-! DEFINITION. Fault records and the service states of units (R76, R567–R571). -/

namespace Sys2Proof.Machine

/-- SEVERITY (R567). -/
def sInfo : Nat := 0
def sDegraded : Nat := 1
def sLost : Nat := 2
def sAlarm : Nat := 3

/-- Event bits a record sets besides FLT_NEW_EV: a spare brought in, SEVERITY LOST, a stuck line, ALARM, and a
configuration record at fault (R571, R594). -/
def faultEvents (ev : BitVec 8) (code sev action : Nat) : BitVec 8 :=
  let e := setBits ev 0
  let e := if action = 0x03 then setBits e 2 else e
  let e := if sev = sLost then setBits e 3 else e
  let e := if code = 0x03 then setBits e 4 else e
  let e := if sev = sAlarm then setBits e 5 else e
  if code = 0x06 then setBits e 6 else e

/-- Detections of a unit and CODE in the last 24 h, this one included. -/
def faultCount (s : State) (unit code : Nat) : Nat :=
  min 0xFFFF (1 + (s.flt.hits.filter (fun h => h.unit == unit && h.code == code &&
    decide (monoUs s < h.at_ + 86400000000))).length)

/-- Whether the one record per second of a unit and CODE has been used (R568). -/
def faultLimited (s : State) (ty ix code : Nat) : Bool :=
  s.flt.faults.any (fun r => r.unitType == ty && r.unitIndex == ix && r.code == code &&
    decide (monoUs s < r.tMono + 1000000))

/-- Writes a fault record and raises what it raises. -/
def writeFault (ty ix code sev action detail arg : Nat) (s : State) : State :=
  if canLog (.fault (s.flt.lastNo + 1)) s then
    let no := s.flt.lastNo + 1
    let frec : FaultRec := {
      no := no, tMono := monoUs s, unitType := ty, unitIndex := ix, code := code, severity := sev,
      action := action, detail := detail, count := faultCount s (ty * 256 + ix) code, arg := arg }
    let s := logRec (.fault no) s
    let s := modFlt (fun b => { b with
      faults := (b.faults ++ [frec]).drop (b.faults.length + 1 - 4096), lastNo := no
      events := faultEvents b.events code sev action }) s
    if s.flt.irqEn && decide (s.flt.irqSev.toNat ≤ sev) then sendMsix 0 s.flt.irqVec.toNat s else s
  else s

/-- Reports a fault: counted always, recorded at most once per second (R568). -/
def fault (ty ix code sev action detail arg : Nat) (s : State) : State :=
  let s1 := if faultLimited s ty ix code then s else writeFault ty ix code sev action detail arg s
  modFlt (fun b => { b with hits := b.hits ++ [{ at_ := monoUs s, unit := ty * 256 + ix, code := code }] }) s1

/-- Changes a unit's service state, recorded without the limit of R568; the ledger keeps the state. -/
def changeUnit (kind ix : Nat) (u : UnitSt) (code sev action detail arg : Nat) (s : State) : State :=
  modFlt (fun b => { b with hits := b.hits ++ [{ at_ := monoUs s, unit := kind * 256 + ix, code := code }] })
    (writeFault kind ix code sev action detail arg (setUnit kind ix u s))

/-- Reports a unit that leaves service, or returns, with its clock or rail; its own service state stands (R76). -/
def reportUnit (kind ix code sev action : Nat) (s : State) : State :=
  modFlt (fun b => { b with hits := b.hits ++ [{ at_ := monoUs s, unit := kind * 256 + ix, code := code }] })
    (writeFault kind ix code sev action 0 0 s)

/-- Takes a unit out of service and reports it (R76). -/
def outOfService (kind ix code sev arg : Nat) (s : State) : State :=
  if unitSt s kind ix = .up then changeUnit kind ix .out code sev 0x04 0 arg s else s

/-- Returns a unit to service and reports it. -/
def backInService (kind ix : Nat) (s : State) : State :=
  if unitSt s kind ix = .up then s else changeUnit kind ix .up 0x09 sInfo 0x09 0 0 s

/-! ### The units an SVC operation can name (R569, R583, R586, R593) -/

/-- How many units of a type the part has; ports count by the board record. -/
def unitCount (ty : Nat) : Nat :=
  if ty = uPair ∨ ty = uHash ∨ ty = uLedger ∨ ty = uSyn then 2
  else if ty = uLane then 20 else if ty = uPke ∨ ty = uDram then 1 else if ty = uRng then 4 else if ty = uSram then 64 else 0

/-- Ports that the SVC class names. -/
def isSvcPort (ty : Nat) : Bool :=
  [pNvm, pLf, pUhf, pNfc, pCap, pIfl, pCan, pEth, pWake, pCoex].contains ty

/-- How many ports of a type the part has (R19). -/
def portCount (ty : Nat) : Nat :=
  if ty = pLf ∨ ty = pCap then 48 else if ty = pUhf ∨ ty = pNfc then 8 else if ty = pCan then 6
  else if ty = pIfl ∨ ty = pNvm ∨ ty = pWake then 4 else if ty = pEth ∨ ty = pCoex then 2 else 0

/-- Types that have no by-pass: pairs, ledger halves, the public-key engine, the LPDDR4X, drives. -/
def noBypass (ty : Nat) : Bool := [uPair, uLedger, uPke, uDram, pNvm].contains ty

/-- The types that have an online test of their own; a drive's is SCRUB. -/
def hasTest (ty : Nat) : Bool := [uPair, uLane, pLf, pUhf, pNfc, pIfl].contains ty

/-- The UNIT_TYPE operand without its chain position. -/
def unitTypeOf (raw : BitVec 512) : Nat := fieldLE raw 24 1 % 32

/-- The unit that a UNIT_TEST, BYPASS or RESTORE names is unknown, remote or not allowed for the operation whatever the board record
says. No SVC operation of this part reaches a remote unit. -/
def svcBad (raw : BitVec 512) : Bool :=
  let ty := unitTypeOf raw
  decide (32 ≤ fieldLE raw 24 1) || decide ((if isSvcPort ty then portCount ty else unitCount ty) ≤ fieldLE raw 25 1) ||
    (dOpc raw == 0x0F01 && !hasTest ty) || (dOpc raw == 0x0F03 && noBypass ty && ty != uPair)

end Sys2Proof.Machine
end

