-- ==== Sys2Proof/Machine/Counter.lean ====
section
/-! DEFINITION. The Counter Bank's registers and events, the clock references, and the TIME class (R204–R218). -/

namespace Sys2Proof.Machine

/-! ### Counter Bank -/

/-- The physical function reaches the registers of every block while the part is released (R600). -/
def pfRegs (s : State) (func : Nat) : Bool := released s && s.pwr.mode != .hearth && func == 0

/-- BAR0 answers with registers: the part is released or in Hearth mode, and the link is up (R600, R602). -/
def regsUp (s : State) : Bool := linkUp s && (s.sys.ready || s.pwr.mode == .hearth)

/-- The counter that CNT_SEL selects. -/
def selCnt (s : State) : Cnt := nth {} s.clk.cnts s.clk.cntSel.toNat

/-- Whether a compare value has been passed by the count in its direction; a value above TOP never fires (R212). -/
def cmpPassed (c : Cnt) (v : Nat) : Bool :=
  decide (v ≤ c.top) && (if c.down then decide (c.count ≤ v) else decide (v ≤ c.count))

/-- A counter just enabled: count 0 going UP, a TOP that waited taking effect, both compares evaluated (R209, R212). -/
def cntStart (c : Cnt) : Cnt :=
  let c := { c with en := true, count := 0, down := false, acc := 0, top := c.topNext.getD c.top, topNext := none }
  { c with hit0 := c.hit0 || cmpPassed c c.cmp0, hit1 := c.hit1 || cmpPassed c c.cmp1 }

/-- A write of CNT_CTL: the enable's rise starts the counter, its fall freezes the count, and the other fields take their
values (R209, R220). -/
def cntCtl (v : Nat) (c : Cnt) : Cnt :=
  let c := { c with
    irq0 := bit v 1, irq1 := bit v 2, capIrq := bit v 3, capSrc := BitVec.ofNat 4 (bits v 8 4),
    capEdge := BitVec.ofNat 2 (bits v 12 2), prescale := BitVec.ofNat 8 (bits v 16 8) }
  if bit v 0 then (if c.en then c else cntStart c) else { c with en := false }

def execCntEnable (func : Fin 64) (v : BitVec 32) (s : State) : Host.Outcome State Fault Refusal :=
  .next (if pfRegs s func && v.getLsbD 0 then putCnt s.clk.cntSel.toNat (cntCtl v.toNat (selCnt s)) s else s)

def execCntDisable (func : Fin 64) (v : BitVec 32) (s : State) : Host.Outcome State Fault Refusal :=
  .next (if pfRegs s func && !v.getLsbD 0 then putCnt s.clk.cntSel.toNat (cntCtl v.toNat (selCnt s)) s else s)

/-- A write of CNT_TOP: at once while disabled, at the next count of 0 while enabled; 0 and 0xFFFF_FFFF have no effect. -/
def cntTopWrite (v : Nat) (c : Cnt) : Cnt :=
  if v = 0 ∨ v = 0xFFFFFFFF then c
  else if c.en then { c with topNext := some v } else { c with top := v, topNext := none }

def execCntTop (func : Fin 64) (v : BitVec 32) (s : State) : Host.Outcome State Fault Refusal :=
  .next (if pfRegs s func then putCnt s.clk.cntSel.toNat (cntTopWrite v.toNat (selCnt s)) s else s)

/-- A write of CNT_CMP0 (`b` false) or CNT_CMP1, evaluated at once while the counter is enabled (R212, R213). -/
def cntCmpWrite (b : Bool) (v : Nat) (c : Cnt) : Cnt :=
  let fire := c.en && cmpPassed c v
  if b then { c with cmp1 := v, hit1 := c.hit1 || fire } else { c with cmp0 := v, hit0 := c.hit0 || fire }

def execCntCmp (func : Fin 64) (b : Bool) (v : BitVec 32) (s : State) : Host.Outcome State Fault Refusal :=
  .next (if pfRegs s func then putCnt s.clk.cntSel.toNat (cntCmpWrite b v.toNat (selCnt s)) s else s)

/-- Nanoseconds until an enabled counter has made `k` more ticks. -/
def nsForTicks (slow : Bool) (c : Cnt) (k : Nat) : Nat :=
  let r := cntRate slow c
  ceilDiv (k * r.2 - c.acc) r.1

/-- A tick brings counter `n` to a compare value (R212): time passes up to that tick. -/
def execCompareMatch (n : Fin 16) (b : Bool) (s : State) : Host.Outcome State Fault Refusal :=
  .next (
    let c := nth {} s.clk.cnts n
    let v := if b then c.cmp1 else c.cmp0
    if cntRuns s && c.en && decide (v ≤ c.top) then elapseNs (nsForTicks (cntSlow s) c (ticksToValue c v)) s else s)

/-- A tick brings counter `n` to 0, where a TOP written while it was enabled takes effect (R209). -/
def execCountReachesZero (n : Fin 16) (s : State) : Host.Outcome State Fault Refusal :=
  .next (
    let c := nth {} s.clk.cnts n
    if cntRuns s && c.en then elapseNs (nsForTicks (cntSlow s) c (ticksToZero c)) s else s)

/-- Whether the capture input a counter selects exists on this board: ANG0–3, DSENSE0–7, position 0, SLK1 (R75, R211). -/
def capInput (s : State) (src : Nat) : Bool :=
  if src = 0 ∨ src = 15 then false
  else if src ≤ 4 then portUp s pAng (src - 1)
  else if src ≤ 12 then portUp s pDsense (src - 5)
  else src == 13 || (match board s with | some b => b.slk1 | none => false)

/-- A selected capture edge: the count is loaded, and an unread value is marked overrun (R211). -/
def cntCapture (c : Cnt) : Cnt := { c with cap := c.count, capOvr := c.capOvr || c.capFull, capFull := true }

def execCaptureEdge (n : Fin 16) (rising : Bool) (s : State) : Host.Outcome State Fault Refusal :=
  .next (
    let c := nth {} s.clk.cnts n
    if cntRuns s && capInput s c.capSrc.toNat && c.capEdge.getLsbD (if rising then 0 else 1) then
      putCnt n (cntCapture c) s
    else s)

/-- A read of CNT_CAP clears CNT_CAP_FULL; the value read is kept as the function's last read. -/
def execCntCapRead (func : Fin 64) (s : State) : Host.Outcome State Fault Refusal :=
  .next (if pfRegs s func then
      modFunc 0 (fun f => { f with lastRead := BitVec.ofNat 64 (selCnt s).cap, high := none })
        (putCnt s.clk.cntSel.toNat { selCnt s with capFull := false } s)
    else s)

/-! ### Clock references (R204–R206) -/

def execXtal25Loss (s : State) : Host.Outcome State Fault Refusal :=
  .next (if s.pwr.vaon && !s.clk.onRc then modClk (fun c => { c with clkSwitching := true }) s else s)

def execXtal32kLoss (s : State) : Host.Outcome State Fault Refusal :=
  .next (if s.clk.rtcOnRc then s
    else fault uClock 1 0x02 sDegraded 0x02 0 0 (modClk (fun c => { c with rtcOnRc := true }) s))

def execXtal32kReturn (s : State) : Host.Outcome State Fault Refusal :=
  .next (if s.clk.rtcOnRc then fault uClock 1 0x09 sInfo 0x09 0 0 (modClk (fun c => { c with rtcOnRc := false }) s) else s)

/-- Each second, while XTAL25 runs, the RTC's RC is measured against it; the measurement is the correction (R206). -/
def execRtcRcCalibrate (measured : Nat) (s : State) : Host.Outcome State Fault Refusal :=
  .next (if s.clk.rtcOnRc && !s.clk.onRc then modClk (fun c => { c with rtcCal := measured }) s else s)

/-! ### The TIME class (R215–R218) -/

/-- REF of the time block: 0 TIME, 1 PROP, 2 CRANK, 3 SWITCHING. -/
def refCode : Ref → Nat
  | .time => 0 | .prop => 1 | .crank => 2
def refField (s : State) : Nat := if s.clk.switching.isSome then 3 else refCode s.clk.ref

/-- The 32 B time block (R218). -/
def timeBlock (s : State) : Bytes :=
  le 8 (monoUs s) ++ le 8 (wallUs s / 1000000) ++ le 4 (wallUs s % 1000000) ++
    le 1 (ofBool s.clk.wallSet + 2 * ofBool s.clk.onRc + 4 * ofBool s.clk.rtcOnRc + 8 * ofBool s.clk.cam.known +
      16 * ofBool (turning s) + 32 * ofBool (road s).isSome) ++
    le 1 (refField s) ++ le 2 (angRpm s) ++ le 2 (angPos s) ++ le 2 ((road s).getD 0) ++ le 4 s.clk.table.tableId

def execTimeRead (r : Nat) (wr : Bool) (s : State) : Host.Outcome State Fault Refusal :=
  .next (startOp 0x0E00 r (fun f s => writeAndSettle r f 0 (timeBlock s) wr (done 0) s) s)

/-- The step a TIME_SET would apply, µs (R216). -/
def timeStep (f : Flight) (s : State) : Int :=
  ((fieldLE f.raw 24 8 * 1000000 + fieldLE f.raw 32 4 : Nat) : Int) + ((monoUs s : Int) - f.tAdm) - wallUs s

/-- TIME_SET: the step and the 60 s checks are made with the effect, against the clock as it then stands (R216). -/
def execTimeSet (r : Nat) (s : State) : Host.Outcome State Fault Refusal :=
  .next (startOp 0x0E01 r (fun f s =>
    let st := timeStep f s
    if s.clk.wallSet && (decide (2000000 < st) || decide (st < -2000000)) then settle r (failFate fPolicy 0x20) s
    else if s.clk.wallSet && (match s.clk.lastSet with
        | some t => decide (monoUs s < t + 60000000)
        | none => false) then settle r (failFate fPolicy 0x21) s
    else
      settle r (done (unsigned 56 st))
        (modClk (fun c => { c with wallSet := true, wallBase := (wallUs s : Int) + st - monoUs s,
                                   lastSet := some (monoUs s) }) s)) s)

def execFurrowRead (r : Nat) (wr : Bool) (s : State) : Host.Outcome State Fault Refusal :=
  .next (startOp 0x0E02 r (fun f s =>
    let body := furrowBytes s.clk.table
    let len := dLen f.raw
    if len < body.length then settle r (failFate fMalformed 0x23) s
    else writeAndSettle r f 0 (slice body 0 len) wr (done body.length) s) s)

end Sys2Proof.Machine
end

