-- ==== Sys2Proof/Machine/Crypto.lean ====
section
/-! DEFINITION. The ciphers and hashes the part's engines run: AES (FIPS 197) with the modes of R508 in their own file,
CMAC (SP 800-38B), and SHA-256, SHA-384 and SHA-512 (FIPS 180-4). Tables are packed numbers, entry 0 lowest. -/

namespace Sys2Proof.Machine

/-- The AES substitution table and its inverse, one byte an entry. -/
def sboxTable : Nat :=
    0x1531D871F1E5A534CCF73F362693FDB7C072A49CAFA2D4ADF04759FA7DC982CA76ABD7FE2B670130C56F6BF27B777C63 +
    0xCF584C4A39BECB6A5BB1FC20ED00D153842FE329B3D63B52A05A6E1B1A2C830975B227EBE28012079A059618C323C704 * 16 ^ 96 +
    0x73195D643D7EA7C41744975FEC130CCDD2F3FF1021DAB6BCF5389D928F40A351A89F3C507F02F94585334D43FBAAEFD0 * 16 ^ 192 +
    0x08AE7A65EAF4566CA94ED58D6D37C8E779E4959162ACD3C25C2406490A3A32E0DB0B5EDE14B8EE4688902A22DC4F8160 * 16 ^ 288 +
    0xDF2855CEE9871E9B948ED9691198F8E19E1DC186B95735610EF6034866B53E708A8BBD4B1F74DDE8C6B4A61C2E2578BA * 16 ^ 384 +
    0x16BB54B00F2D99416842E6BF0D89A18C * 16 ^ 480
def invSboxTable : Nat :=
    0x4EC3FA420B954CEE3D23C2A632947B54CBE9DEC444438E3487FF2F9B8239E37CFBD7F3819EA340BF38A53630D56A0952 +
    0x849D8DA75746155EDAB9EDFD5048706C92B6655DCC5CA4D41698688664F6F87225D18B6D49A25B76B224D92866A12E08 * 16 ^ 96 +
    0x73E6B4F0CECFF297EADC674F4111913A6B8A130103BDAFC1020F3FCA8F1E2CD00645B3B80558E4F70AD3BC8C00ABD890 * 16 ^ 192 +
    0xF45ACD78FEC0DB9A2079D2C64B3E56FC1BBE18AA0E62B76F89C5291D711AF1476EDF751CE837F9E28535ADE72274AC96 * 16 ^ 288 +
    0x619953833CBBEBC8B0F52AAE4D3BE0A0EF9CC9939F7AE52D0D4AB519A97F51605FEC8027591012B131C7078833A8DD1F * 16 ^ 384 +
    0x7D0C2155631469E126D677BA7E042B17 * 16 ^ 480

/-- Entry `i` of a packed table of `w`-bit entries. -/
def packed (t w i : Nat) : Nat := (t >>> (w * i)) % 2 ^ w
def sub (b : Nat) : Nat := packed sboxTable 8 b
def invSub (b : Nat) : Nat := packed invSboxTable 8 b

/-- Multiplication by x in GF(2^8), and by a constant. -/
def xtime (b : Nat) : Nat := if 128 ≤ b then (2 * b) % 256 ^^^ 0x1B else 2 * b
def gmul (c b : Nat) : Nat :=
  (if bit c 0 then b else 0) ^^^ (if bit c 1 then xtime b else 0) ^^^ (if bit c 2 then xtime (xtime b) else 0) ^^^
    (if bit c 3 then xtime (xtime (xtime b)) else 0)

/-- Key expansion: words of four bytes, newest first, `nk` words in the key. -/
def expandKey (nk : Nat) : Nat → Nat → Nat → List (List Nat) → List (List Nat)
  | 0, _, _, ws => ws
  | fuel + 1, i, rcon, ws =>
    let prev := ws.headD []
    let back := ws.getD (nk - 1) []
    let t := if i % nk = 0 then
        (match prev.map sub with
         | a :: b :: c :: d :: _ => [b ^^^ rcon, c, d, a]
         | l => l)
      else if 6 < nk ∧ i % nk = 4 then prev.map sub else prev
    expandKey nk fuel (i + 1) (if i % nk = 0 then xtime rcon else rcon) (List.zipWith (· ^^^ ·) back t :: ws)

/-- Words of four bytes. -/
def quads : Nat → List Nat → List (List Nat)
  | 0, _ => []
  | n + 1, l => l.take 4 :: quads n (l.drop 4)

/-- Round keys of 16 bytes, first round first. -/
def roundKeys (key : Bytes) : List (List Nat) :=
  let nk := key.length / 4
  let ws := (expandKey nk (4 * (nk + 7) - nk) nk 1 (quads nk (key.map (·.toNat))).reverse).reverse
  (List.range (nk + 7)).map (fun i => (ws.drop (4 * i)).take 4 |>.flatten)

def xorL (a b : List Nat) : List Nat := List.zipWith (· ^^^ ·) a b
/-- ShiftRows on the 16 bytes, column after column: byte 4c + r moves left by r columns. -/
def shiftRows (st : List Nat) (step : Nat) : List Nat :=
  (List.range 16).map (fun i => st.getD ((i + 4 * (step * (i % 4))) % 16) 0)
def mixWith (a b c d : Nat) (col : List Nat) : List Nat :=
  (List.range 4).map (fun r =>
    gmul a (col.getD r 0) ^^^ gmul b (col.getD ((r + 1) % 4) 0) ^^^ gmul c (col.getD ((r + 2) % 4) 0) ^^^
      gmul d (col.getD ((r + 3) % 4) 0))
def mixColumns (st : List Nat) : List Nat := (quads 4 st).flatMap (mixWith 2 3 1 1)
def invMixColumns (st : List Nat) : List Nat := (quads 4 st).flatMap (mixWith 14 11 13 9)

/-- AES encryption of one block under a key of 16 or 32 bytes. -/
def aes (key block : Bytes) : Bytes :=
  let ks := roundKeys key
  let st := xorL (block.map (·.toNat)) (ks.headD [])
  let mid := (ks.drop 1).dropLast.foldl (fun s k => xorL (mixColumns (shiftRows (s.map sub) 1)) k) st
  (xorL (shiftRows (mid.map sub) 1) (ks.getLastD [])).map (BitVec.ofNat 8)

/-- AES decryption of one block. -/
def aesInv (key block : Bytes) : Bytes :=
  let ks := (roundKeys key).reverse
  let st := xorL (block.map (·.toNat)) (ks.headD [])
  let mid := (ks.drop 1).dropLast.foldl (fun s k => invMixColumns (xorL ((shiftRows s 3).map invSub) k)) st
  (xorL ((shiftRows mid 3).map invSub) (ks.getLastD [])).map (BitVec.ofNat 8)

/-- Blocks of `n` bytes; the last may be short. -/
def chunks (n : Nat) : Nat → Bytes → List Bytes
  | 0, _ => []
  | fuel + 1, l => if l.isEmpty then [] else l.take n :: chunks n fuel (l.drop n)
def blocks16 (m : Bytes) : List Bytes := chunks 16 (m.length / 16 + 1) m

/-- Doubling in GF(2^128) for the CMAC subkeys. -/
def dbl128 (b : Bytes) : Bytes :=
  let v := fromBE b
  be 16 ((2 * v) % 2 ^ 128 ^^^ (if bit v 127 then 0x87 else 0))

/-- AES-CMAC (SP 800-38B). -/
def cmac (key msg : Bytes) : Bytes :=
  let k1 := dbl128 (aes key (zeros 16))
  let bl := blocks16 msg
  let last := bl.getLastD []
  let fin := if last.length = 16 then xorBytes last k1
    else xorBytes (last ++ [0x80] ++ zeros (15 - last.length)) (dbl128 k1)
  aes key (xorBytes (bl.dropLast.foldl (fun c b => aes key (xorBytes c b)) (zeros 16)) fin)

/-! ### SHA-2 -/

def k256Table : Nat :=
    0x550C7DC3243185BE12835B01D807AA98AB1C5ED5923F82A459F111F13956C25BE9B5DBA5B5C0FBCF71374491428A2F98 +
    0x76F988DA5CB0A9DC4A7484AA2DE92C6F240CA1CC0FC19DC6EFBE4786E49B69C1C19BF1749BDC06A780DEB1FE72BE5D74 * 16 ^ 96 +
    0x53380D134D2C6DFC2E1B213827B70A851429296706CA6351D5A79147C6E00BF3BF597FC7B00327C8A831C66D983E5152 * 16 ^ 192 +
    0x106AA070F40E3585D6990624D192E819C76C51A3C24B8B70A81A664BA2BFE8A192722C8581C2C92E766A0ABB650A7354 * 16 ^ 288 +
    0x8CC7020884C8781478A5636F748F82EE682E6FF35B9CCA4F4ED8AA4A391C0CB334B0BCB52748774C1E376C0819A4C116 * 16 ^ 384 +
    0xC67178F2BEF9A3F7A4506CEB90BEFFFA * 16 ^ 480
def k512Table : Nat :=
    0x59F111F1B605D0193956C25BF348B538E9B5DBA58189DBBCB5C0FBCFEC4D3B2F7137449123EF65CD428A2F98D728AE22 +
    0x550C7DC3D5FFB4E2243185BE4EE4B28C12835B0145706FBED807AA98A3030242AB1C5ED5DA6D8118923F82A4AF194F9B * 16 ^ 96 +
    0xEFBE4786384F25E3E49B69C19EF14AD2C19BF174CF6926949BDC06A725C7123580DEB1FE3B1696B172BE5D74F27B896F * 16 ^ 192 +
    0x76F988DA831153B55CB0A9DCBD41FBD44A7484AA6EA6E4832DE92C6F592B0275240CA1CC77AC9C650FC19DC68B8CD5B5 * 16 ^ 288 +
    0xD5A79147930AA725C6E00BF33DA88FC2BF597FC7BEEF0EE4B00327C898FB213FA831C66D2DB43210983E5152EE66DFAB * 16 ^ 384 +
    0x53380D139D95B3DF4D2C6DFC5AC42AED2E1B21385C26C92627B70A8546D22FFC142929670A0E6E7006CA6351E003826F * 16 ^ 480 +
    0xA81A664BBC423001A2BFE8A14CF1036492722C851482353B81C2C92E47EDAEE6766A0ABB3C77B2A8650A73548BAF63DE * 16 ^ 576 +
    0x106AA07032BBD1B8F40E35855771202AD69906245565A910D192E819D6EF5218C76C51A30654BE30C24B8B70D0F89791 * 16 ^ 672 +
    0x4ED8AA4AE3418ACB391C0CB3C5C95A6334B0BCB5E19B48A82748774CDF8EEB991E376C085141AB5319A4C116B8D2D0C8 * 16 ^ 768 +
    0x8CC702081A6439EC84C87814A1F0AB7278A5636F43172F60748F82EE5DEFB2FC682E6FF3D6B2B8A35B9CCA4F7763E373 * 16 ^ 864 +
    0xD186B8C721C0C207CA273ECEEA26619CC67178F2E372532BBEF9A3F7B2C67915A4506CEBDE82BDE990BEFFFA23631E28 * 16 ^ 960 +
    0x1B710B35131C471B113F9804BEF90DAE0A637DC5A2C898A606F067AA72176FBAF57D4F7FEE6ED178EADA7DD6CDE0EB1E * 16 ^ 1056 +
    0x597F299CFC657E2A4CC5D4BECB3E42B6431D67C49C100D4C3C9EBE0A15C9BEBC32CAAB7B40C7249328DB77F523047D84 * 16 ^ 1152 +
    0x6C44198C4A4758175FCB6FAB3AD6FAEC * 16 ^ 1248

/-- Rotation and addition in words of `w` bits. -/
def rotr (w n x : Nat) : Nat := (x >>> n) ||| ((x <<< (w - n)) % 2 ^ w)
def addw (w a b : Nat) : Nat := (a + b) % 2 ^ w

/-- What tells SHA-256 from SHA-512: word width, rounds, rotations and constants. -/
structure ShaParams where
  w : Nat
  rounds : Nat
  s0 : Nat × Nat × Nat
  s1 : Nat × Nat × Nat
  b0 : Nat × Nat × Nat
  b1 : Nat × Nat × Nat
  k : Nat

def p256 : ShaParams := ⟨32, 64, (7, 18, 3), (17, 19, 10), (2, 13, 22), (6, 11, 25), k256Table⟩
def p512 : ShaParams := ⟨64, 80, (1, 8, 7), (19, 61, 6), (28, 34, 39), (14, 18, 41), k512Table⟩

def smallSig (p : ShaParams) (r : Nat × Nat × Nat) (x : Nat) : Nat :=
  rotr p.w r.1 x ^^^ rotr p.w r.2.1 x ^^^ (x >>> r.2.2)
def bigSig (p : ShaParams) (r : Nat × Nat × Nat) (x : Nat) : Nat :=
  rotr p.w r.1 x ^^^ rotr p.w r.2.1 x ^^^ rotr p.w r.2.2 x

/-- The message schedule, newest word first. -/
def schedule (p : ShaParams) : Nat → List Nat → List Nat
  | 0, ws => ws
  | n + 1, ws =>
    let w := addw p.w (addw p.w (smallSig p p.s1 (ws.getD 1 0)) (ws.getD 6 0))
      (addw p.w (smallSig p p.s0 (ws.getD 14 0)) (ws.getD 15 0))
    schedule p n (w :: ws)

/-- One round on the eight working words. -/
def shaRound (p : ShaParams) (v : List Nat) (kw : Nat) : List Nat :=
  match v with
  | [a, b, c, d, e, f, g, h] =>
    let ch := (e &&& f) ^^^ ((2 ^ p.w - 1 - e) &&& g)
    let maj := (a &&& b) ^^^ (a &&& c) ^^^ (b &&& c)
    let t1 := addw p.w (addw p.w h (bigSig p p.b1 e)) (addw p.w ch kw)
    [addw p.w t1 (addw p.w (bigSig p p.b0 a) maj), a, b, c, addw p.w d t1, e, f, g]
  | l => l

/-- The compression of one block. -/
def shaBlock (p : ShaParams) (hs : List Nat) (block : Bytes) : List Nat :=
  let nb := p.w / 8
  let ws0 := (List.range 16).map (fun i => fromBE (slice block (nb * i) nb))
  let ws := (schedule p (p.rounds - 16) ws0.reverse).reverse
  let kws := (List.range p.rounds).zip ws |>.map (fun e => addw p.w (packed p.k p.w e.1) e.2)
  List.zipWith (addw p.w) hs (kws.foldl (shaRound p) hs)

/-- Padding and compression of a whole message; the digest as its eight words' bytes. -/
def sha (p : ShaParams) (iv : List Nat) (msg : Bytes) : Bytes :=
  let bsz := 2 * p.w
  let lsz := p.w / 4
  let pad := (2 * bsz - (msg.length + 1 + lsz) % bsz) % bsz
  let m := msg ++ [0x80] ++ zeros pad ++ be lsz (8 * msg.length)
  ((chunks bsz (m.length / bsz) m).foldl (shaBlock p) iv).flatMap (be (p.w / 8))

def sha256 (msg : Bytes) : Bytes :=
  sha p256 [0x6A09E667, 0xBB67AE85, 0x3C6EF372, 0xA54FF53A, 0x510E527F, 0x9B05688C, 0x1F83D9AB, 0x5BE0CD19] msg
def sha512 (msg : Bytes) : Bytes :=
  sha p512 [0x6A09E667F3BCC908, 0xBB67AE8584CAA73B, 0x3C6EF372FE94F82B, 0xA54FF53A5F1D36F1,
    0x510E527FADE682D1, 0x9B05688C2B3E6C1F, 0x1F83D9ABFB41BD6B, 0x5BE0CD19137E2179] msg
def sha384 (msg : Bytes) : Bytes :=
  (sha p512 [0xCBBB9D5DC1059ED8, 0x629A292A367CD507, 0x9159015A3070DD17, 0x152FECD8F70E5939,
    0x67332667FFC00B31, 0x8EB44A8768581511, 0xDB0C2E0D64F98FA7, 0x47B5481DBEFA4FA4] msg).take 48

end Sys2Proof.Machine
end

