-- ==== Sys2Proof/Machine/Rails.lean ====
section
/-! DEFINITION. The PMIC enables and the rails they switch (R80–R82). -/

namespace Sys2Proof.Machine

/-- The rails of an enable group, in the order of PWR_RAIL. -/
def groupRails (g : Nat) : BitVec 9 := if g = 0 then 0x007 else if g = 1 then 0x018 else if g = 2 then 0x060 else 0x180

/-- Every rail of a group is good. -/
def groupGood (s : State) (g : Nat) : Bool := s.pwr.railGood &&& groupRails g == groupRails g

/-- Raises PMIC_ENg. -/
def raiseEnable (g : Nat) (s : State) : State :=
  if s.pwr.en.getLsbD g then s
  else emit (.pin g 1) (modPwr (fun p => { p with en := setBits p.en g, enAt := monoUs s }) s)

/-- VIO18, the supply of the COEX and UART outputs, is good (R54). -/
def vio18 (s : State) : Bool := s.pwr.railGood.getLsbD 5

/-- COEX_REQ0, COEX_REQ1 and COEX_PRI of the pairs fitted (R75) as they stand, or unpowered with VIO18 (R56). -/
def coexPins (powered : Bool) (s : State) : State :=
  each [0, 1] (fun m t => onlyIf (fitted t pCoex m)
    (emit (.pin (20 + m) (if powered then ofBool (t.radio.coexReq.getLsbD m) else 2))) t)
    (onlyIf (fitted s pCoex 0 || fitted s pCoex 1) (emit (.pin 22 (if powered then ofBool s.radio.coexPri else 2))) s)

/-- A line of UART0's report of a Hearth step (R560), which needs VIO18 (R56). -/
def uartLine (n : Nat) (s : State) : State := onlyIf (vio18 s) (emit (.uart n)) s

/-- Lowers PMIC_ENg: its rails are no longer good, with group 2 the COEX outputs are unpowered, and with group 1 the PMIC's VCORE output
is off. -/
def lowerEnable (g : Nat) (s : State) : State :=
  if s.pwr.en.getLsbD g then
    onlyIf (g == 2 && vio18 s) (coexPins false)
      (emit (.pin g 0) (modPwr (fun p => { p with en := p.en &&& ~~~ BitVec.ofNat 4 (2 ^ g),
                                                  railGood := p.railGood &&& ~~~ groupRails g,
                                                  vcoreSet := if g = 1 then none else p.vcoreSet }) s))
  else s

/-- Lowers the enables from 3 down to `g`. -/
def lowerFrom (g : Nat) : State → State := each ([3, 2, 1, 0].filter (fun k => decide (g ≤ k))) lowerEnable

/-- Raises each of these enables whose earlier groups are all good (R82). -/
def raiseEach (gs : List Nat) : State → State :=
  each gs (fun g t => if (List.range g).all (groupGood t) then raiseEnable g t else t)

/-- The engines and lanes have power: in Parked they are the wake slice, whose rails the EN1 group switches (R80, R82). -/
def sliceUp (s : State) : Bool := s.pwr.mode != .parked || groupGood s 1

end Sys2Proof.Machine
end

