-- ==== Sys2Proof/Machine/Drbg.lean ====
section
/-! DEFINITION. The conditioner, the CTR_DRBG and its five output queues (R524, R526, R528, R530, R531). -/

namespace Sys2Proof.Machine

/-! ### The conditioner (R524, R526) -/

/-- Assessed min-entropy of one raw bit of a source, in tenths (R524). -/
def srcEntropy (i : Nat) : Nat := if i < 2 then 5 else if i = 2 then 8 else 9

/-- Number of healthy sources. -/
def healthyCount (s : State) : Nat := (s.sec.sources.filter (fun x => x.st == .healthy)).length

/-- Assessed entropy of a block with these raw bits of each source, in tenths of a bit. -/
def blockEntropy (bits : List Nat) : Nat := (bits.zipIdx.map (fun e => e.1 * srcEntropy e.2)).sum

/-- Entropy a microsecond adds: one raw bit of each healthy source. -/
def entropyRate (s : State) : Nat :=
  (s.sec.sources.zipIdx.map (fun e => if e.1.st = .healthy then srcEntropy e.2 else 0)).sum

/-- The microseconds a block still lacks to 512 bits of assessed entropy. -/
def blockLacks (bits : List Nat) (s : State) : Nat :=
  (5120 - blockEntropy bits + entropyRate s - 1) / max 1 (entropyRate s)

/-- `n` microseconds' raw bits of the healthy sources, added. -/
def addBits (n : Nat) (bits : List Nat) (s : State) : List Nat :=
  bits.zipIdx.map (fun e => if (nth {} s.sec.sources e.2).st = .healthy then e.1 + n else e.1)

/-- The block being built as it stands now; complete, it takes no further bits. -/
def blockBits (s : State) : List Nat := addBits (min (monoUs s - s.sec.condAt) (blockLacks s.sec.cond s)) s.sec.cond s

/-- Brings the block being built up to date. -/
def gather (s : State) : State := modSec (fun b => { b with cond := blockBits s, condAt := monoUs s }) s

/-- A source that fails a test takes the block it has contributed to with it. -/
def discardBlock (src : Nat) (s : State) : State :=
  let t := gather s
  if nth 0 t.sec.cond src = 0 then t else modSec (fun b => { b with cond := List.replicate 4 0 }) t

/-- The conditioner begins a block: the sources begin to deliver. -/
def startBlock (s : State) : State := modSec (fun b => { b with cond := List.replicate 4 0, condAt := monoUs s }) s

/-- The complete block's raw bits, eight to a byte: free values, for no rule gives the noise (log entry 70). -/
def blockRaw (s : State) : Bytes :=
  let bits := blockBits s
  freeBytes s (((addBits (blockLacks bits s) bits s).sum + 7) / 8)

/-- 256 conditioned bits. -/
def conditioned (s : State) : Bytes := sha256 (blockRaw s)

/-- The conditioner begins its next block. -/
def nextBlock (s : State) : State := startBlock (drawn (blockRaw s).length s)

/-! ### CTR_DRBG with AES-256 and the derivation function (R530; SP 800-90A) -/

/-- `n` blocks of AES over the counter, which advances before each. -/
def ctrBlocks (key : Bytes) : Nat → Nat → Bytes
  | 0, _ => []
  | n + 1, v => aes key (be 16 ((v + 1) % 2 ^ 128)) ++ ctrBlocks key n (v + 1)

/-- The update function: a new key and counter from 48 bytes. -/
def drbgUpdate (d : Drbg) (data : Bytes) : Drbg :=
  let t := xorBytes (ctrBlocks d.key 3 (fromBE d.v)) data
  { d with key := t.take 32, v := t.drop 32 }

/-- CBC-MAC of whole blocks from a chaining value of zeros. -/
def cbcMac (key : Bytes) (m : Bytes) : Bytes := (blocks16 m).foldl (fun c b => aes key (xorBytes c b)) (zeros 16)

/-- The derivation function to 48 bytes. -/
def blockDf (input : Bytes) : Bytes :=
  let m := be 4 input.length ++ be 4 48 ++ input ++ [0x80]
  let m := m ++ zeros ((16 - m.length % 16) % 16)
  let k := (List.range 32).map (BitVec.ofNat 8)
  let t := (List.range 3).flatMap (fun i => cbcMac k (be 4 i ++ zeros 12 ++ m))
  let b1 := aes (t.take 32) (t.drop 32)
  let b2 := aes (t.take 32) b1
  b1 ++ b2 ++ aes (t.take 32) b2

/-- Instantiation: 256 bits of entropy input and 128 bits of nonce. -/
def drbgNew (entropy nonce : Bytes) : Drbg := drbgUpdate { key := zeros 32, v := zeros 16 } (blockDf (entropy ++ nonce))

/-- A reseed with 256 conditioned bits. -/
def drbgReseed (d : Drbg) (entropy : Bytes) : Drbg := { drbgUpdate d (blockDf entropy) with requests := 0 }

/-- The bytes of a generate request, and the DRBG after it. -/
def drbgOut (d : Drbg) (n : Nat) : Bytes := (ctrBlocks d.key ((n + 15) / 16) (fromBE d.v)).take n
def drbgAfter (d : Drbg) (n : Nat) : Drbg :=
  drbgUpdate { d with v := be 16 ((fromBE d.v + (n + 15) / 16) % 2 ^ 128), requests := d.requests + 1 } (zeros 48)

/-! ### Reseeds and requests (R528, R530) -/

/-- The next reseed falls due: 1 s after the last one, or after 2^20 requests. -/
def reseedDue (s : State) : Bool :=
  decide (s.sec.reseedAt + 1000000 ≤ monoUs s) || decide (2 ^ 20 ≤ s.sec.drbg.requests)

/-- Random values can be drawn: RUNNING, or HELD until the next reseed falls due, with the rails of the source good. -/
def canDraw (s : State) : Bool := sliceUp s && (s.sec.rng == .running || (s.sec.rng == .held && !reseedDue s))

/-- A reseed can run: with three healthy sources at least. -/
def canReseed (s : State) : Bool := (s.sec.rng == .running || s.sec.rng == .held) && decide (3 ≤ healthyCount s)

/-- A reseed with the next conditioned block, which ends HELD. -/
def reseed (s : State) : State :=
  modSec (fun b => { b with rng := .running, reseeds := b.reseeds + 1, reseedAt := monoUs s,
                            drbg := drbgReseed b.drbg (conditioned s) }) (nextBlock s)

/-- The DRBG is instantiated from two conditioned blocks, and the source is RUNNING. -/
def instantiate (s : State) : State :=
  let t := nextBlock s
  modSec (fun b => { b with rng := .running, reseedAt := monoUs s,
                            drbg := drbgNew (conditioned s) ((conditioned t).take 16) }) (nextBlock t)

/-- STOPPED: the DRBG's state is zeroed. -/
def stopRng : State → State := modSec (fun b => { b with rng := .stopped, drbg := { key := zeros 32, v := zeros 16 } })

/-- The DRBG before a request: a reseed that is due runs first. -/
def readied (s : State) : State := onlyIf (reseedDue s && canReseed s) reseed s

/-- The wake slice powers: PMIC_EN1 rises once VIO33, VRF and VLFDRV are good (R80, R82). -/
def powerSlice (s : State) : State := raiseEach [1] s

/-- The wake slice's rails are good: the sources deliver again, and the DRBG is reseeded (R530). -/
def slicePowered (s : State) : State :=
  let t := startBlock s
  onlyIf (canReseed t) reseed t

/-- `n` random bytes, one generate request. Where the DRBG cannot be drawn from and the consumer does not wait, what it takes is a free
value (log entry 70). -/
def random (s : State) (n : Nat) : Bytes := if canDraw s then drbgOut (readied s).sec.drbg n else freeBytes s n

/-- The state after `n` bytes were drawn over a queue. -/
def drew (q : RngQueue) (n : Nat) (s : State) : State :=
  if canDraw s then modSec (fun b => { b with drbg := { drbgAfter b.drbg n with last := q } }) (readied s) else drawn n s

/-- The queue of the lane that serves the part's own protocols: the wake lane's in Parked. -/
def laneQueue (s : State) : RngQueue := if s.pwr.mode = .parked then .wake else .lanes

/-! ### The five queues (R531) -/

/-- The queues in the order they are served after one of them. -/
def queuesAfter : RngQueue → List RngQueue
  | .key => [.pke, .lanes, .wake, .rng, .key]
  | .pke => [.lanes, .wake, .rng, .key, .pke]
  | .lanes => [.wake, .rng, .key, .pke, .lanes]
  | .wake => [.rng, .key, .pke, .lanes, .wake]
  | .rng => [.key, .pke, .lanes, .wake, .rng]

/-- A RANDOM with prediction resistance. -/
def predRes (f : Flight) : Bool := dOpc f.raw == 0x0B00 && fieldLE f.raw 24 1 % 2 == 1

/-- A request of descriptor `f` can be served now. -/
def servable (s : State) (f : Flight) : Bool := if predRes f then canReseed s else canDraw s

/-- Requests that wait and can be served now, in order of arrival. -/
def waitingDraws (s : State) : List (RngQueue × Nat) :=
  s.sec.drbg.waits.filter (fun w => match getFlight s w.2 with
    | some f => f.fate.isNone && servable s f
    | none => false)

/-- The request the DRBG serves next. -/
def nextDraw (s : State) : Option (RngQueue × Nat) :=
  (queuesAfter s.sec.drbg.last).findSome? (fun q => (waitingDraws s).find? (fun w => w.1 == q))

/-- Descriptor `r` draws now: no request that waited goes before it. -/
def drawTurn (r : Nat) (s : State) : Bool := (nextDraw s).all (fun w => w.2 == r)

/-- Descriptor `r`, an operation `opc` without a fate, waits in a queue. -/
def joinQueue (q : RngQueue) (opc r : Nat) (s : State) : State :=
  if (getFlight s r).any (fun f => dOpc f.raw == opc && f.fate.isNone) && !s.sec.drbg.waits.any (fun w => w.2 == r) then
    modSec (fun b => { b with drbg := { b.drbg with waits := b.drbg.waits ++ [(q, r)] } }) s
  else s

/-- Its request has been served. -/
def leaveQueue (r : Nat) : State → State :=
  modSec (fun b => { b with drbg := { b.drbg with waits := b.drbg.waits.filter (fun w => w.2 != r) } })

end Sys2Proof.Machine
end

