-- ==== Sys2Proof/Machine/Ecc.lean ====
section
/-! DEFINITION. The public-key engine's arithmetic (R519–R522): ECDSA on P-256 and P-384, Ed25519 verification, X25519,
key pairs, and the checks of R522 in their order. The curves are those of the standards R519 names (log entry 20). -/

namespace Sys2Proof.Machine

/-! ### Modular arithmetic -/

/-- `b ^ e mod m`, for `e` below 2 ^ `fuel`. -/
def powMod (m : Nat) : Nat → Nat → Nat → Nat
  | 0, _, _ => 1 % m
  | fuel + 1, b, e =>
    let r := powMod m fuel (b * b % m) (e / 2)
    if e % 2 = 1 then b * r % m else r

/-- The inverse modulo a prime, 0 for 0. -/
def invMod (m a : Nat) : Nat := powMod m 521 (a % m) (m - 2)

/-- `a - b` modulo `m`. -/
def subMod (m a b : Nat) : Nat := (a % m + m - b % m) % m

/-! ### Short Weierstrass curves with a = -3 -/

/-- A curve: field size in bytes, prime, b, order and base point. -/
structure Curve where
  len : Nat
  p : Nat
  b : Nat
  n : Nat
  g : Nat × Nat

def curveP256 : Curve where
  len := 32
  p := 0xFFFFFFFF00000001000000000000000000000000FFFFFFFFFFFFFFFFFFFFFFFF
  b := 0x5AC635D8AA3A93E7B3EBBD55769886BC651D06B0CC53B0F63BCE3C3E27D2604B
  n := 0xFFFFFFFF00000000FFFFFFFFFFFFFFFFBCE6FAADA7179E84F3B9CAC2FC632551
  g := (0x6B17D1F2E12C4247F8BCE6E563A440F277037D812DEB33A0F4A13945D898C296,
    0x4FE342E2FE1A7F9B8EE7EB4A7C0F9E162BCE33576B315ECECBB6406837BF51F5)

def curveP384 : Curve where
  len := 48
  p := 0xFFFFFFFFFFFFFFFFFFFFFFFFFFFFFFFFFFFFFFFFFFFFFFFFFFFFFFFFFFFFFFFEFFFFFFFF0000000000000000FFFFFFFF
  b := 0xB3312FA7E23EE7E4988E056BE3F82D19181D9C6EFE8141120314088F5013875AC656398D8A2ED19D2A85C8EDD3EC2AEF
  n := 0xFFFFFFFFFFFFFFFFFFFFFFFFFFFFFFFFFFFFFFFFFFFFFFFFC7634D81F4372DDF581A0DB248B0A77AECEC196ACCC52973
  g := (0xAA87CA22BE8B05378EB1C71EF320AD746E1D3B628BA79B9859F741E082542A385502F25DBF55296C3A545E3872760AB7,
    0x3617DE4A96262C6F5D9E98BF9292DC29F8F41DBD289A147CE9DA3113B5F0B8C00A60B1CE1D7E819D7A431D7C90EA0E5F)

/-- A point in projective coordinates: (X / Z, Y / Z), at infinity with Z = 0. -/
abbrev Proj : Type := Nat × Nat × Nat
def wInf : Proj := (0, 1, 0)
def wPoint (P : Nat × Nat) : Proj := (P.1, P.2, 1)

/-- Point addition, by formulas that hold for every pair of points of a curve of odd order. -/
def wAdd (c : Curve) (P Q : Proj) : Proj :=
  let m := c.p
  let xx := P.1 * Q.1 % m
  let yy := P.2.1 * Q.2.1 % m
  let zz := P.2.2 * Q.2.2 % m
  let xy := subMod m ((P.1 + P.2.1) * (Q.1 + Q.2.1)) (xx + yy)
  let yz := subMod m ((P.2.1 + P.2.2) * (Q.2.1 + Q.2.2)) (yy + zz)
  let xz := subMod m ((P.1 + P.2.2) * (Q.1 + Q.2.2)) (xx + zz)
  let k := 3 * subMod m xz (c.b * zz)
  let lo := subMod m yy k
  let hi := (yy + k) % m
  let u := 3 * subMod m (c.b * xz) (3 * zz + xx)
  let v := 3 * subMod m xx zz
  (subMod m (xy * hi) (yz * u), (hi * lo + v * u) % m, (yz * lo + xy * v) % m)

/-- `k` times a point, for `k` below 2 ^ `fuel`. -/
def wMul (c : Curve) : Nat → Nat → Proj → Proj
  | 0, _, _ => wInf
  | fuel + 1, k, P =>
    let r := wMul c fuel (k / 2) (wAdd c P P)
    if k % 2 = 1 then wAdd c P r else r

/-- The point's own coordinates; none at infinity. -/
def wAffine (c : Curve) (P : Proj) : Option (Nat × Nat) :=
  if P.2.2 = 0 then none
  else
    let i := invMod c.p P.2.2
    some (P.1 * i % c.p, P.2.1 * i % c.p)

/-- The x and y of an uncompressed point. -/
def pointXY (c : Curve) (key : Bytes) : Nat × Nat := (beAt key 1 c.len, beAt key (1 + c.len) c.len)

/-- Checks 1 to 4 of R522 on a P-256 or P-384 public key; 0 when it passes. -/
def wPointCheck (c : Curve) (key : Bytes) : Nat :=
  let (x, y) := pointXY c key
  let b0 := byteAt key 0
  if b0 != 0x00 && b0 != 0x04 then 0x26
  else if b0 = 0x00 then 0x25
  else if c.p ≤ x ∨ c.p ≤ y then 0x23
  else if y * y % c.p != (subMod c.p (x * x * x) (3 * x) + c.b) % c.p then 0x24
  else 0

/-- ECDSA verification with the checks of R522; `digest` is as long as the field. -/
def ecdsaCheck (c : Curve) (key sig digest : Bytes) : Nat :=
  let e := wPointCheck c key
  let r := beAt sig 0 c.len
  let s := beAt sig c.len c.len
  if e != 0 then e
  else if r = 0 ∨ s = 0 then 0x21
  else if c.n ≤ r ∨ c.n ≤ s then 0x22
  else
    let w := powMod c.n 521 s (c.n - 2)
    let z := fromBE digest
    match wAffine c (wAdd c (wMul c 384 (z * w % c.n) (wPoint c.g)) (wMul c 384 (r * w % c.n) (wPoint (pointXY c key)))) with
    | none => 0x20
    | some (x, _) => if x % c.n = r then 0 else 0x20

/-! ### Ed25519 and X25519 -/

def p25519 : Nat := 2 ^ 255 - 19
/-- Order of the base point of Ed25519. -/
def lEd : Nat := 2 ^ 252 + 27742317777372353535851937790883648493
def dEd : Nat := 0x52036CEE2B6FFE738CC740797779E89800700A4D4141D8AB75EB4DCA135978A3
def sqrtM1 : Nat := 0x2B8324804FC1DF0B2B4D00993DFBD7A72F431806AD2FE478C4EE1B274A0EA0B0
def baseEd : Nat × Nat := (0x216936D3CD6E53FEC0A4E231FDD6DC5C692CC7609525A7B2C9562D608F25D51A,
  0x6666666666666666666666666666666666666666666666666666666666666658)

def edPoint (P : Nat × Nat) : Proj := (P.1, P.2, 1)

/-- Twisted Edwards addition, complete on the curve. -/
def edAdd (P Q : Proj) : Proj :=
  let m := p25519
  let a := P.2.2 * Q.2.2 % m
  let b := a * a % m
  let c := P.1 * Q.1 % m
  let d := P.2.1 * Q.2.1 % m
  let e := dEd * (c * d % m) % m
  let f := subMod m b e
  let g := b + e
  (a * f % m * subMod m ((P.1 + P.2.1) * (Q.1 + Q.2.1)) (c + d) % m, a * g % m * (d + c) % m, f * g % m)

def edMul : Nat → Nat → Proj → Proj
  | 0, _, _ => (0, 1, 1)
  | fuel + 1, k, P =>
    let r := edMul fuel (k / 2) (edAdd P P)
    if k % 2 = 1 then edAdd P r else r

/-- Two points are the same. -/
def edSame (P Q : Proj) : Bool :=
  P.1 * Q.2.2 % p25519 == Q.1 * P.2.2 % p25519 && P.2.1 * Q.2.2 % p25519 == Q.2.1 * P.2.2 % p25519

/-- The x of an Ed25519 point with a given y and sign, if there is one. -/
def edX (y sign : Nat) : Option Nat :=
  let m := p25519
  let u := subMod m (y * y) 1 * invMod m (dEd * (y * y % m) + 1) % m
  let x0 := powMod m 521 u ((m + 3) / 8)
  let x := if x0 * x0 % m = u then x0 else x0 * sqrtM1 % m
  if x * x % m != u then none
  else if x = 0 ∧ sign = 1 then none
  else some (if x % 2 = sign then x else m - x)

/-- Decodes an Ed25519 point (RFC 8032). -/
def edDecode (b : Bytes) : Option (Nat × Nat) :=
  let v := leAt b 0 32
  let y := v % 2 ^ 255
  if p25519 ≤ y then none else (edX y (v / 2 ^ 255)).map (fun x => (x, y))

def edSmall (b : Bytes) : Bool := match edDecode b with
  | some P => edSame (edMul 4 8 (edPoint P)) (0, 1, 1)
  | none => false
def edRange (b : Bytes) : Bool := decide (p25519 ≤ leAt b 0 32 % 2 ^ 255)

/-- Checks 2 to 4 of R522 on the points of an Ed25519 operation. -/
def edPointsCheck (l : List Bytes) : Nat :=
  if l.any edSmall then 0x25
  else if l.any edRange then 0x23
  else if l.any (fun b => (edDecode b).isNone) then 0x24
  else 0

/-- Ed25519 verification, cofactorless, with the checks of R522. -/
def edCheck (key sig msg : Bytes) : Nat :=
  let a := slice key 0 32
  let rB := slice sig 0 32
  let s := leAt sig 32 32
  let e := edPointsCheck [a, rB]
  if e != 0 then e
  else if s = 0 then 0x21
  else if lEd ≤ s then 0x22
  else match edDecode a, edDecode rB with
    | some A, some R =>
      let k := fromLE (sha512 (rB ++ a ++ msg)) % lEd
      if edSame (edMul 256 s (edPoint baseEd)) (edAdd (edPoint R) (edMul 256 k (edPoint A))) then 0 else 0x20
    | _, _ => 0x24

/-- One X25519 ladder step on (x2, z2, x3, z3) for base u and one bit of the scalar, high bit first. -/
def ladderStep (u : Nat) (st : Nat × Nat × Nat × Nat) (b : Bool) : Nat × Nat × Nat × Nat :=
  let m := p25519
  let (x2, z2, x3, z3) := if b then (st.2.2.1, st.2.2.2, st.1, st.2.1) else st
  let a := x2 + z2
  let bb := subMod m x2 z2
  let aa := a * a % m
  let bq := bb * bb % m
  let e := subMod m aa bq
  let da := subMod m x3 z3 * a % m
  let cb := (x3 + z3) * bb % m
  let nx3 := (da + cb) * (da + cb) % m
  let df := subMod m da cb
  let nz3 := u * (df * df % m) % m
  let nx2 := aa * bq % m
  let nz2 := e * (aa + 121665 * e) % m
  if b then (nx3, nz3, nx2, nz2) else (nx2, nz2, nx3, nz3)

/-- The ladder over the low `n` bits of a scalar. -/
def ladder (n k u : Nat) : Nat :=
  let (x2, z2, _, _) := ((List.range n).map (fun i => bit k (n - 1 - i))).foldl (ladderStep u) (1, 0, u, 1)
  x2 * invMod p25519 z2 % p25519

/-- A clamped X25519 scalar from 32 bytes. -/
def clamp (b : Bytes) : Nat := (leAt b 0 32 % 2 ^ 254) / 8 * 8 + 2 ^ 254
/-- The u-coordinate of 32 bytes, bit 255 masked. -/
def xU (b : Bytes) : Nat := leAt b 0 32 % 2 ^ 255
/-- X25519: the shared secret of 32 scalar bytes and a u-coordinate. -/
def x25519 (priv pub : Bytes) : Bytes := le 32 (ladder 255 (clamp priv) (xU pub % p25519))
def x25519Public (priv : Bytes) : Bytes := x25519 priv (le 32 9)

/-- Checks 2 to 4 of R522 on an X25519 u-coordinate. -/
def xPointCheck (key : Bytes) : Nat :=
  let m := p25519
  let u := xU key % m
  let rhs := (u * u % m * u + 486662 * u * u + u) % m
  if ladder 4 8 u = 0 then 0x25
  else if m ≤ xU key then 0x23
  else if powMod m 521 rhs ((m - 1) / 2) != 1 then 0x24
  else 0

/-! ### The engine's operations -/

/-- Point check by CURVE code (R522, R532): 1 P-256, 2 P-384, 3 Ed25519, 4 X25519. -/
def pointCheck (curve : Nat) (key : Bytes) : Nat :=
  if curve = 1 then wPointCheck curveP256 key
  else if curve = 2 then wPointCheck curveP384 key
  else if curve = 3 then edPointsCheck [slice key 0 32]
  else xPointCheck key

/-- Verification by ALG code (R532): 1 ECDSA P-256 with SHA-256, 2 ECDSA P-384 with SHA-384, 3 Ed25519. -/
def pkVerify (alg : Nat) (key sig msg : Bytes) (isDigest : Bool) : Nat :=
  if alg = 1 then ecdsaCheck curveP256 key sig (if isDigest then msg else sha256 msg)
  else if alg = 2 then ecdsaCheck curveP384 key sig (if isDigest then msg else sha384 msg)
  else edCheck key sig msg

/-- The P-256 scalar of 384 bits: reduced mod n - 1 and increased by 1 (R500, R519). -/
def p256Scalar (b : Bytes) : Nat := beAt b 0 48 % (curveP256.n - 1) + 1
/-- The uncompressed P-256 public key of a scalar. -/
def p256Public (d : Nat) : Bytes :=
  match wAffine curveP256 (wMul curveP256 256 d (wPoint curveP256.g)) with
  | some (x, y) => 0x04 :: (be 32 x ++ be 32 y)
  | none => zeros 65
/-- The P-256 shared secret: the x-coordinate. -/
def p256Shared (d : Nat) (pub : Bytes) : Bytes :=
  match wAffine curveP256 (wMul curveP256 256 d (wPoint (pointXY curveP256 pub))) with
  | some (x, _) => be 32 x
  | none => zeros 32

end Sys2Proof.Machine
end

