-- ==== Sys2Proof/Machine/Modes.lean ====
section
/-! DEFINITION. The modes of operation of the cipher lanes (R508), key wrap with padding (RFC 5649) and the counter-mode
KDF of the Leaven tree (R492). -/

namespace Sys2Proof.Machine

/-! ### SP 800-38A -/

/-- CBC over whole blocks. -/
def cbcEnc (key : Bytes) : Bytes → List Bytes → Bytes
  | _, [] => []
  | iv, b :: rest => let c := aes key (xorBytes iv b); c ++ cbcEnc key c rest
def cbcDec (key : Bytes) : Bytes → List Bytes → Bytes
  | _, [] => []
  | iv, b :: rest => xorBytes iv (aesInv key b) ++ cbcDec key b rest

/-- CFB with 128-bit segments, the last segment perhaps short; the same with the direction reversed. -/
def cfbEnc (key : Bytes) : Bytes → List Bytes → Bytes
  | _, [] => []
  | iv, b :: rest => let c := xorBytes (aes key iv) b; c ++ cfbEnc key c rest
def cfbDec (key : Bytes) : Bytes → List Bytes → Bytes
  | _, [] => []
  | iv, b :: rest => xorBytes (aes key iv) b ++ cfbDec key b rest

/-- CFB with 8-bit segments. -/
def cfb8Enc (key : Bytes) : Bytes → Bytes → Bytes
  | _, [] => []
  | iv, b :: rest => let c := (aes key iv).headD 0 ^^^ b; c :: cfb8Enc key (iv.drop 1 ++ [c]) rest
def cfb8Dec (key : Bytes) : Bytes → Bytes → Bytes
  | _, [] => []
  | iv, c :: rest => ((aes key iv).headD 0 ^^^ c) :: cfb8Dec key (iv.drop 1 ++ [c]) rest

/-- OFB. -/
def ofb (key : Bytes) : Bytes → List Bytes → Bytes
  | _, [] => []
  | iv, b :: rest => let o := aes key iv; xorBytes o b ++ ofb key o rest

/-- The counter block after `iv`: bytes 8 to 15 count modulo 2^64 (R508). -/
def ctrNext (iv : Bytes) : Bytes := iv.take 8 ++ incBlock (iv.drop 8)

/-- CTR. -/
def ctr (key : Bytes) : Bytes → List Bytes → Bytes
  | _, [] => []
  | iv, b :: rest => xorBytes (aes key iv) b ++ ctr key (ctrNext iv) rest

/-- Encryption by MODE 0x01 to 0x05. -/
def modeEnc (mode : Nat) (key iv msg : Bytes) : Bytes :=
  if mode = 1 then cbcEnc key iv (blocks16 msg)
  else if mode = 2 then cfb8Enc key iv msg
  else if mode = 3 then cfbEnc key iv (blocks16 msg)
  else if mode = 4 then ofb key iv (blocks16 msg)
  else ctr key iv (blocks16 msg)
/-- Decryption by MODE 0x01 to 0x05. -/
def modeDec (mode : Nat) (key iv msg : Bytes) : Bytes :=
  if mode = 1 then cbcDec key iv (blocks16 msg)
  else if mode = 2 then cfb8Dec key iv msg
  else if mode = 3 then cfbDec key iv (blocks16 msg)
  else if mode = 4 then ofb key iv (blocks16 msg)
  else ctr key iv (blocks16 msg)

/-! ### CCM (SP 800-38C) -/

/-- Pads with zeros to whole blocks. -/
def pad16 (b : Bytes) : Bytes := b ++ zeros ((16 - b.length % 16) % 16)

/-- The authentication string: B0, the associated data with its length, the payload. -/
def ccmB (nonce aad msg : Bytes) (tagLen : Nat) : Bytes :=
  let q := 15 - nonce.length
  let flags := (if aad.isEmpty then 0 else 64) + 8 * ((tagLen - 2) / 2) + (q - 1)
  le 1 flags ++ nonce ++ be q msg.length ++ (if aad.isEmpty then [] else pad16 (be 2 aad.length ++ aad)) ++ pad16 msg

/-- Counter block `i`. -/
def ccmCtr (nonce : Bytes) (i : Nat) : Bytes := le 1 (14 - nonce.length) ++ nonce ++ be (15 - nonce.length) i

/-- The counter pass: payload block `i` against counter block `i`, from `i` on. -/
def ccmCrypt (key nonce : Bytes) : Nat → List Bytes → Bytes
  | _, [] => []
  | i, b :: rest => xorBytes (aes key (ccmCtr nonce i)) b ++ ccmCrypt key nonce (i + 1) rest

/-- The tag. -/
def ccmTag (key nonce aad msg : Bytes) (tagLen : Nat) : Bytes :=
  let t := (blocks16 (ccmB nonce aad msg tagLen)).foldl (fun c b => aes key (xorBytes c b)) (zeros 16)
  (xorBytes t (aes key (ccmCtr nonce 0))).take tagLen

/-! ### RFC 5649 -/

/-- Semiblocks of 8 bytes. -/
def semis (b : Bytes) : List Bytes := chunks 8 (b.length / 8 + 1) b

/-- One pass over the semiblocks: A, the semiblocks still to do, the step number; the new A and semiblocks. -/
def wrapPass (key : Bytes) : Bytes → Nat → List Bytes → Bytes × List Bytes
  | a, _, [] => (a, [])
  | a, t, r :: rest =>
    let b := aes key (a ++ r)
    let (a', rs) := wrapPass key (xorBytes (b.take 8) (be 8 t)) (t + 1) rest
    (a', b.drop 8 :: rs)
/-- The inverse pass, over the semiblocks last first. -/
def unwrapPass (key : Bytes) : Bytes → Nat → List Bytes → Bytes × List Bytes
  | a, _, [] => (a, [])
  | a, t, r :: rest =>
    let b := aesInv key (xorBytes a (be 8 t) ++ r)
    let (a', rs) := unwrapPass key (b.take 8) (t - 1) rest
    (a', b.drop 8 :: rs)

def wrapIv : Bytes := [0xA6, 0x59, 0x59, 0xA6]

/-- Key wrap with padding of 9 bytes or more. -/
def keyWrap (kek key : Bytes) : Bytes :=
  let rs := semis (key ++ zeros ((8 - key.length % 8) % 8))
  let (a, out) := (List.range 6).foldl (fun (st : Bytes × List Bytes) j => wrapPass kek st.1 (rs.length * j + 1) st.2)
    (wrapIv ++ be 4 key.length, rs)
  a ++ out.flatten

/-- Key unwrap with padding; none when the integrity check fails. -/
def keyUnwrap (kek wrapped : Bytes) : Option Bytes :=
  let rs := (semis (wrapped.drop 8)).reverse
  let n := rs.length
  let (a, out) := (List.range 6).foldl
    (fun (st : Bytes × List Bytes) j =>
      let r := unwrapPass kek st.1 (n * (6 - j)) st.2.reverse
      (r.1, r.2.reverse)) (wrapped.take 8, rs.reverse)
  let plain := out.flatten
  let len := beAt a 4 4
  if a.take 4 = wrapIv ∧ 8 * n < len + 8 ∧ len ≤ 8 * n ∧ zeroAt plain len (8 * n - len) then some (plain.take len) else none

/-! ### The KDF of the Leaven tree (R492) -/

/-- The leftmost `8 * n` bits of T(1) ‖ T(2) ‖ … -/
def kdf (k label ctx : Bytes) (n : Nat) : Bytes :=
  ((List.range (ceilDiv n 16)).flatMap (fun i =>
    cmac k (be 4 (i + 1) ++ label ++ [0x00] ++ ctx ++ be 4 (8 * n)))).take n

/-- A fixed label: its bytes, then zeros to 32 B (R493). -/
def label32 (b : Bytes) : Bytes := slice b 0 32

/-- CONTEXT of a node: LEVEL, KIND, two zero bytes (R492). -/
def nodeCtx (level kind : Nat) : Bytes := le 1 level ++ le 1 kind ++ [0x00, 0x00]

end Sys2Proof.Machine
end

