-- ==== Sys2Proof/Machine/Keys.lean ====
section
/-! DEFINITION. The Starter, the Leaven tree, key handles, blobs and the KEY class (R485–R504, R512, R513, R516). -/

namespace Sys2Proof.Machine

/-- The key engine and the lanes can work: no ALARM is held and masks can be drawn (R490, R506). -/
def secReady (s : State) : Bool := s.sec.alarmEnd.isNone && canDraw s

/-- Sets a bit of SEC_KEY_EVENTS. -/
def keyEvent (i : Nat) : State → State := modSec (fun b => { b with keyEvents := setBits b.keyEvents i })

/-- Counts an operation of the public-key engine and its result code. -/
def pkeRan (code : Nat) : State → State :=
  modSec (fun b => { b with pkeLast := BitVec.ofNat 8 code, cntPke := b.cntPke + 1 })

/-! ### The Leaven tree (R485, R492–R494) -/

/-- SEC_STARTER_OK: STARTER_CHK verifies. -/
def vaultOk (s : State) : Bool := s.sec.starter.length == 32 && aes s.sec.starter (zeros 16) == s.sec.starterChk

def labelSyst : Bytes := label32 [0x53, 0x59, 0x53, 0x54]
def labelTokn : Bytes := label32 [0x54, 0x4F, 0x4B, 0x4E]
def labelFram : Bytes := label32 [0x46, 0x52, 0x41, 0x4D]
def labelCust : Bytes := label32 [0x43, 0x55, 0x53, 0x54]
def labelHndl : Bytes := label32 [0x48, 0x4E, 0x44, 0x4C]
def labelNear : Bytes := label32 [0x4E, 0x45, 0x41, 0x52]
def labelImpk : Bytes := label32 [0x49, 0x4D, 0x50, 0x4B]
def labelTkey (tid : Nat) : Bytes := label32 ([0x54, 0x4B, 0x45, 0x59] ++ be 4 tid)
def labelBlob : Bytes := label32 [0x42, 0x4C, 0x4F, 0x42]

/-- The fixed nodes of R493. -/
def systemKey (s : State) : Bytes := kdf s.sec.starter labelSyst (nodeCtx 1 0) 32
def branchKey (s : State) (label : Bytes) : Bytes := kdf (systemKey s) label (nodeCtx 2 0) 32
def tokenNode (s : State) : Bytes := branchKey s labelTokn
def frameNode (s : State) : Bytes := branchKey s labelFram
def custodyNode (s : State) : Bytes := branchKey s labelCust
def nearNode (s : State) : Bytes := branchKey s labelNear
def handleNode (s : State) : Bytes := branchKey s labelHndl
def tokenKey (s : State) (tid : Nat) : Bytes := kdf (tokenNode s) (labelTkey tid) (nodeCtx 3 0) 16
def frameKey (s : State) (label : Bytes) : Bytes := kdf (frameNode s) label (nodeCtx 3 0) 16
def tenancyRoot (s : State) (row : Tenancy) : Bytes := kdf s.sec.starter (label32 row.label) (nodeCtx 1 1) 32
def importNode (s : State) (row : Tenancy) : Bytes := kdf (tenancyRoot s row) labelImpk (nodeCtx 2 2) 48

/-! ### Handles (R495–R499) -/

def handleSlot (h : Nat) : Nat := h % 65536
def handleGen (h : Nat) : Nat := bits h 16 22
def handleTen (h : Nat) : Nat := bits h 38 10

/-- Open handles. -/
def openHandles (s : State) : Tab Handle := s.sec.handles.filter (fun e => e.2.closed.isNone)

/-- The handle an operand names, for descriptor `r` of tenancy `ten`; otherwise UNKNOWN_HANDLE or STALE_HANDLE (R498, R499). -/
def findHandle (s : State) (r ten h : Nat) : Except Nat Handle :=
  if handleTen h = ten then
    match tabFind s.sec.handles h with
    | none => .error 0x20
    | some k =>
      if k.closed.all (fun n => decide (r < n)) then .ok k
      else if tabGet 0 s.sec.slotGen (handleSlot h) = handleGen h then .error 0x20 else .error 0x21
  else .error 0x20

/-- A key made under the present Starter, with the vault in order (R487, R499). -/
def keyCurrent (s : State) (k : Handle) : Bool := vaultOk s && k.starterGen == s.sec.starterGen

/-- Runs `body` on the key of a handle, or ends the operation ABSENT or VAULT_LOST. -/
def withKey (r : Nat) (f : Flight) (h : Nat) (body : Handle → State → State) (s : State) : State :=
  match findHandle s r f.ten h with
  | .error d => settle r (failFate fAbsent d) s
  | .ok k => if keyCurrent s k then body k s else settle r (failFate fDevice 0x18) s

/-- The lowest slot with no open handle (log entry 21). -/
def freeSlot (s : State) : Option Nat :=
  let used := (openHandles s).map (fun e => handleSlot e.1)
  if 65536 ≤ used.length then none else (List.range (used.length + 1)).find? (fun i => !used.contains i)

/-- The generation a slot's next handle takes (R495). -/
def nextGen (s : State) (slot : Nat) : Nat :=
  match tabFind s.sec.slotGen slot with
  | none => 0
  | some g => (g + 1) % 2 ^ 22

/-- The 32 B of KEY_INFO (R513). -/
def keyInfoBytes (h : Nat) (k : Handle) : Bytes :=
  le 8 h ++ le 1 k.level ++ le 1 k.key.length ++ le 1 k.usage.toNat ++ le 1 k.childMask.toNat ++ le 1 k.origin ++
    le 1 k.subtree ++ zeros 2 ++ le 4 k.starterGen ++ le 8 k.created ++ zeros 4

/-- The key that wraps a handle's stored key: from HANDLE, with the handle in 6 bytes as CONTEXT (R497; big-endian, as R492 writes
its integers: log entry 21). -/
def handleKek (s : State) (h : Nat) : Bytes := kdf (handleNode s) labelHndl (be 6 h) 32

/-- The ledger record of a handle's creation or closure (R497). -/
def handleRecord (s : State) (h : Nat) (k : Handle) (opened : Bool) : LKind :=
  .handle h opened (keyWrap (handleKek s h) k.key) (keyInfoBytes h k)

/-- Makes a handle and ends the operation with it, or ends it HANDLES_FULL. -/
def makeHandle (r : Nat) (f : Flight) (k : Handle) (s : State) : State :=
  match freeSlot s with
  | none => keyEvent 4 (settle r (failFate fQuota 0x2A) s)
  | some slot =>
    let g := nextGen s slot
    let h := f.ten * 2 ^ 38 + g * 65536 + slot
    let k := { k with starterGen := s.sec.starterGen, created := monoUs s }
    if canLog (handleRecord s h k true) s then
      settle r (done h) (logRec (handleRecord s h k true) (modSec (fun b => { b with
        handles := tabPut b.handles h k
        slotGen := tabPut b.slotGen slot g }) s))
    else settle r (failFate fDevice 0x1A) s

/-- Closes an open handle: its unit of HANDLE_QUOTA is returned, and descriptors accepted so far go on using it (R498). -/
def closeHandle (h : Nat) (s : State) : State :=
  match tabFind s.sec.handles h with
  | none => s
  | some k =>
    if k.closed.isSome then s
    else tryLog (handleRecord s h k false) (modRun (handleTen h) (fun x => { x with handlesHeld := x.handlesHeld - 1 })
      (modSec (fun b => { b with handles := tabPut b.handles h { k with closed := some s.host.flights.length } }) s))

/-- Closes every handle of a tenancy (R498). -/
def closeHandlesOf (ten : Nat) (s : State) : State :=
  each (((openHandles s).filter (fun e => handleTen e.1 == ten)).map (·.1)) closeHandle s

/-! ### KEY operations (R512, R513, R516) -/

/-- The first byte of the USAGE bits (R496). -/
def uEnc : Nat := 0
def uDec : Nat := 1
def uMac : Nat := 2
def uAead : Nat := 3
def uDerive : Nat := 4
def uWrap : Nat := 5
def uExport : Nat := 6
def uHostNonce : Nat := 7

/-- `a` lies within `b`. -/
def within (a b : BitVec 8) : Bool := a &&& b == a

/-- Runs a KEY operation once the engine can derive (R490, R506). -/
def keyOp (opc r : Nat) (body : Flight → State → State) (s : State) : State :=
  if !canDraw s then joinQueue .key opc r s
  else if secReady s && drawTurn r s then startOp opc r (fun f t => body f (leaveQueue r t)) s
  else s

/-- A root handle: USAGE DERIVE only (R513). -/
def rootHandle (key : Bytes) (level subtree : Nat) (child : BitVec 8) : Handle :=
  { key := key, level := level, usage := 0x10, childMask := child, origin := 1, subtree := subtree, starterGen := 0,
    created := 0 }

def execKeyRoot (r : Nat) (s : State) : Host.Outcome State Fault Refusal :=
  .next (keyOp 0x0800 r (fun f s =>
    let root := fieldLE f.raw 24 1
    if root != 0 && 1 < f.party then settle r (failFate fPolicy 0x24) s
    else if !vaultOk s then settle r (failFate fDevice 0x18) s
    else if root = 0 then makeHandle r f (rootHandle (tenancyRoot s f.rules) 1 0 0xFF) s
    else if root = 1 then makeHandle r f (rootHandle (tokenNode s) 2 1 0x54) s
    else makeHandle r f (rootHandle (frameNode s) 2 2 0x44) s) s)

/-- The child of a parent handle under a label (R492, R513). -/
def deriveChild (p : Handle) (label : Bytes) (usage child : BitVec 8) (len : Nat) : Handle :=
  { key := kdf p.key label (nodeCtx (p.level + 1) (if p.subtree = 0 then 2 else 0)) len, level := p.level + 1,
    usage := usage, childMask := child, origin := 2, subtree := p.subtree, starterGen := 0, created := 0 }

def execKeyDerive (r : Nat) (rd : HostRead) (s : State) : Host.Outcome State Fault Refusal :=
  .next (keyOp 0x0801 r (fun f =>
    let usage := BitVec.ofNat 8 (fieldLE f.raw 32 1)
    let child := BitVec.ofNat 8 (fieldLE f.raw 33 1)
    withKey r f (fieldLE f.raw 24 8) (fun p s =>
      if !p.usage.getLsbD uDerive then settle r (failFate fPolicy 0x22) s
      else if 8 ≤ p.level then settle r (failFate fPolicy 0x23) s
      else if !(within usage p.childMask && within child p.childMask) then settle r (failFate fPolicy 0x25) s
      else withRead r rd 32 0 (fun label => makeHandle r f (deriveChild p label usage child (fieldLE f.raw 34 1))) s)) s)

/-- EPK's length by KEK_KIND (R500). -/
def epkLen (kind : Nat) : Nat := if kind = 2 then 32 else if kind = 3 then 65 else 0

/-- The format of a blob of `len` bytes (R500). -/
def blobOk (b : Bytes) (len : Nat) : Bool :=
  let kind := byteAt b 5
  let kl := byteAt b 6
  beAt b 0 4 == 0x46424C42 && byteAt b 4 == 1 && 1 ≤ kind && kind ≤ 3 && (kl == 16 || kl == 32) && zeroAt b 9 7 &&
    len == 40 + epkLen kind + kl

/-- KEK from the wrapping key or from Z (R501). -/
def kekOf (k header : Bytes) : Bytes := kdf k labelBlob (sha256 header) 32
def kekOfZ (z header : Bytes) : Bytes := kekOf (sha256 (z ++ sha256 header)) header

/-- Z between a tenancy's import key and a sender's EPK (R500). -/
def importZ (s : State) (row : Tenancy) (kind : Nat) (epk : Bytes) : Bytes :=
  let node := importNode s row
  if kind = 2 then x25519 (node.take 32) epk else p256Shared (p256Scalar node) epk

/-- The curve of a KEK_KIND as POINT_CHECK numbers it. -/
def kindCurve (kind : Nat) : Nat := if kind = 2 then 4 else 1

/-- Unwraps an accepted blob and makes the handle (R502). -/
def importWith (r : Nat) (f : Flight) (blob kek : Bytes) (s : State) : State :=
  let kl := byteAt blob 6
  let usage := BitVec.ofNat 8 (fieldLE f.raw 40 1)
  let child := BitVec.ofNat 8 (fieldLE f.raw 41 1)
  match keyUnwrap kek (slice blob (32 + epkLen (byteAt blob 5)) (kl + 8)) with
  | none => settle r (failFate fAuth 0x28) s
  | some key =>
    if key.length != kl then settle r (failFate fAuth 0x28) s
    else if !(within usage (BitVec.ofNat 8 (byteAt blob 7)) && within child (BitVec.ofNat 8 (byteAt blob 8))) then
      settle r (failFate fPolicy 0x25) s
    else makeHandle r f { key := key, level := 2, usage := usage, childMask := child, origin := 3, subtree := 0,
                          starterGen := 0, created := 0 } s

/-- This part's identity, byte 0 first (R601). -/
def uidBytes (s : State) : Bytes := le 16 s.fuse.uid.toNat

def execKeyImport (r : Nat) (rd : HostRead) (s : State) : Host.Outcome State Fault Refusal :=
  .next (keyOp 0x0802 r (fun f =>
    withRead r rd (dLen f.raw) 0 (fun blob s =>
      let kind := byteAt blob 5
      let kekH := fieldLE f.raw 32 8
      let header := slice blob 0 (32 + epkLen kind)
      if !blobOk blob (dLen f.raw) || (kind != 1 && kekH != 0) then settle r (failFate fMalformed 0x26) s
      else if !hashUp s || (kind != 1 && !pkeUp s) then settle r (failFate fDevice 0x19) s
      else if slice blob 16 16 != uidBytes s then settle r (failFate fPolicy 0x27) s
      else if kind = 1 then
        withKey r f kekH (fun k s =>
          if k.usage.getLsbD uWrap then importWith r f blob (kekOf k.key header) s
          else settle r (failFate fPolicy 0x22) s) s
      else if !vaultOk s then settle r (failFate fDevice 0x18) s
      else
        let epk := slice blob 32 (epkLen kind)
        let code := pointCheck (kindCurve kind) epk
        if code != 0 then settle r (failFate fAuth 0x29) (pkeRan code s)
        else importWith r f blob (kekOfZ (importZ s f.rules kind epk) header) (pkeRan 0 s))) s)

/-- A key release is possible: the handle is open and still within the tenancy's rights, and no HALT is open (R503, R590). -/
def releaseAllowed (s : State) (f : Flight) (h : Nat) : Bool :=
  match tabFind s.sec.handles h with
  | some k => k.closed.isNone && (k.subtree == 0 || (getTen s f.ten).party ≤ 1) && s.flt.dbgLevel != 2
  | none => false

/-- The commit point of a key release: epoch check, re-check and the KEY_RELEASE record in one step (R503). -/
def keyRelease (r : Nat) (f : Flight) (h unit tid : Nat) (body : State → State) (s : State) : State :=
  if releaseAllowed s f h then
    commitPoint r f true (.part (stampPart { kind := 0x14, ten := f.ten, seq := dSeq f.raw, unit := unit, tid := tid,
                                             count := handleSlot h } s)) 0x01 0x1A (fun t => body (atStage r 0x02 0 t)) s
  else settle r (failFate fWithdrawn 0x0B 0x01) s

/-- The header of an exported blob. -/
def blobHeader (kind : Nat) (k : Handle) (target : Bytes) : Bytes :=
  be 4 0x46424C42 ++ le 1 1 ++ le 1 kind ++ le 1 k.key.length ++ le 1 (k.usage &&& 0xBF).toNat ++
    le 1 k.childMask.toNat ++ zeros 7 ++ target

/-- Commits an export and writes the blob and zeros from area byte 128 (R503, R513). -/
def exportBlob (r : Nat) (f : Flight) (k : Handle) (header kek : Bytes) (wr : Bool) (s : State) : State :=
  keyRelease r f (fieldLE f.raw 24 8) 1 0 (fun s =>
    let blob := header ++ keyWrap kek k.key
    if wr then
      settle r (done blob.length)
        (emit (.hostWrite (rangeOf f 1).func ((rangeOf f 1).addr + 128) (slice blob 0 128)) s)
    else settle r (failFate fCulvert 0x12 0x02) s) s

/-- EPK and Z of an export with a freshly drawn key pair: 32 random bytes for X25519, 48 for P-256 (R503, R519). -/
def ephemeral (s : State) (kind : Nat) (pub : Bytes) : Bytes × Bytes :=
  if kind = 2 then
    let d := random s 32
    (x25519Public d, x25519 d pub)
  else
    let d := p256Scalar (random s 48)
    (p256Public d, p256Shared d pub)

def execKeyExport (r : Nat) (rd : HostRead) (wr : Bool) (s : State) : Host.Outcome State Fault Refusal :=
  .next (keyOp 0x0803 r (fun f =>
    let kind := fieldLE f.raw 40 1
    withKey r f (fieldLE f.raw 24 8) (fun k s =>
      if !k.usage.getLsbD uExport then settle r (failFate fPolicy 0x22) s
      else if !hashUp s || (kind != 1 && !pkeUp s) then settle r (failFate fDevice 0x19) s
      else withRead r rd 128 0 (fun area s =>
        let head := blobHeader kind k (slice area 0 16)
        if kind = 1 then
          withKey r f (fieldLE f.raw 32 8) (fun kek s =>
            if kek.usage.getLsbD uWrap then exportBlob r f k head (kekOf kek.key head) wr s
            else settle r (failFate fPolicy 0x22) s) s
        else
          let pub := slice area 16 (epkLen kind)
          let code := pointCheck (kindCurve kind) pub
          if code != 0 then settle r (failFate fAuth 0x29) (pkeRan code s)
          else
            let (epk, z) := ephemeral s kind pub
            exportBlob r f k (head ++ epk) (kekOfZ z (head ++ epk)) wr (pkeRan 0 (pkeRan 0 (drew .pke (if kind = 2 then 32 else 48) s)))) s)) s)

def execKeyClose (r : Nat) (s : State) : Host.Outcome State Fault Refusal :=
  .next (startOp 0x0804 r (fun f s =>
    match findHandle s r f.ten (fieldLE f.raw 24 8) with
    | .error d => settle r (failFate fAbsent d) s
    | .ok _ => settle r (done 0) (closeHandle (fieldLE f.raw 24 8) s)) s)

def execKeyInfo (r : Nat) (wr : Bool) (s : State) : Host.Outcome State Fault Refusal :=
  .next (startOp 0x0805 r (fun f s =>
    match findHandle s r f.ten (fieldLE f.raw 24 8) with
    | .error d => settle r (failFate fAbsent d) s
    | .ok k => writeAndSettle r f 0 (keyInfoBytes (fieldLE f.raw 24 8) k) wr (done 0) s) s)

/-- The 128 B of KEY_PUBLIC: the import public keys (R513). -/
def keyPublicBytes (s : State) (row : Tenancy) : Bytes :=
  let node := importNode s row
  slice (x25519Public (node.take 32) ++ p256Public (p256Scalar node)) 0 128

def execKeyPublic (r : Nat) (wr : Bool) (s : State) : Host.Outcome State Fault Refusal :=
  .next (keyOp 0x0806 r (fun f s =>
    if !pkeUp s then settle r (failFate fDevice 0x19) s
    else if vaultOk s then writeAndSettle r f 0 (keyPublicBytes s f.rules) wr (done 0) (pkeRan 0 (pkeRan 0 s))
    else settle r (failFate fDevice 0x18) s) s)

end Sys2Proof.Machine
end

