-- ==== Sys2Proof/Machine/LockOps.lean ====
section
/-! DEFINITION. The start-lock latch: its states and transitions, the timers, lock requests, token flags and the
authenticated frames (R304–R334). -/

namespace Sys2Proof.Machine

/-! ### The latch (R304, R332) -/

/-- The code of a latch state. -/
def latchCode : Latch → BitVec 8
  | .locked => 0x3C | .armed => 0x5A | .released => 0x96 | .running => 0xA5 | .deferred => 0xC3

/-- SLK_ST of a latch state. -/
def latchNo : Latch → Nat
  | .locked => 0 | .armed => 1 | .released => 2 | .running => 3 | .deferred => 4

/-- The latch as read: a code not in the list, or one that disagrees with its complement, reads LOCKED (R332). -/
def latch (s : State) : Latch :=
  if s.slk.comp = ~~~ s.slk.code then
    if s.slk.code = 0x5A then .armed else if s.slk.code = 0x96 then .released
    else if s.slk.code = 0xA5 then .running else if s.slk.code = 0xC3 then .deferred else .locked
  else .locked

/-- The three release states. -/
def isRelease : Latch → Bool
  | .released | .running | .deferred => true
  | .locked | .armed => false

/-- Sets a bit of SLK_EVENTS. -/
def slkEvent (i : Nat) : State → State := modSlk (fun b => { b with events := setBits b.events i })

/-! ### Engine and rest (R307, R309, R313) -/

/-- Engine speed by CAN, in 1/65,536 rpm, while its last frame is less than 200 ms old (R308). -/
def canRpm (s : State) : Option Nat :=
  match s.clk.canRpmAt with
  | some t => if s.clk.ns < t + 200000000 then some s.clk.canRpm else none
  | none => none

/-- A source of the engine's state is available (R307). -/
def engineSource (s : State) : Bool := fitted s pAng 0 || (canRpm s).isSome

/-- SLK_ENGINE_RUN: the engine is running, or is taken as running for want of a source (R307). -/
def engineRunning (s : State) : Bool :=
  turning s || (match canRpm s with | some v => decide (100 * 65536 ≤ v) | none => false) || !engineSource s

/-- SLK_ENGINE_INVALID: no source is available once the sources have had time to report, which R333's pass ends; it reads 0 from reset
until then (R307, R339; log entry 108). -/
def engineInvalid (s : State) : Bool := s.slk.reconciled && !engineSource s

/-- SLK_AT_REST (R309). -/
def atRest (s : State) : Bool :=
  !engineRunning s && (road s).isSome && !roadAbove s 5

/-- The engine is being cranked (R313). -/
def cranking (s : State) : Bool :=
  (!turning s && (match s.clk.crank.seen with | some l => decide (s.clk.ns < l + 200000000) | none => false)) ||
    (match canRpm s with | some v => decide (0 < v) | none => false)

/-- When the cranking of now ends if nothing more is heard, ns: 200 ms after the last ANG0 edge or engine-speed frame (R308, R313). -/
def crankedTo (s : State) : Nat :=
  let edge := if turning s then 0 else match s.clk.crank.seen with | some l => l + 200000000 | none => 0
  max edge (match s.clk.canRpmAt with | some t => t + 200000000 | none => 0)

/-! ### Frames (R323–R328) -/

/-- A CAN port's frames have moved to FRAME_ALT: it was bus-off (R328), or it is out of service (R577). -/
def canMoved (s : State) (p : Nat) : Bool := decide (p < 6) && (s.slk.portOff.getLsbD p || unitSt s pCan p != .up)

/-- The port that carries the frames of `port`: itself, or FRAME_ALT while it is off; none when nothing can be sent. -/
def framePort (s : State) (port : Nat) : Option Nat :=
  let p := if canMoved s port then s.slk.policy.frameAlt else port
  if p < 6 && portUp s pCan p && !s.flt.canBusoff.getLsbD p then some p else none

/-- SLK_ON_ALT: the frames of FRAME_PORT or BODY_PORT go out on FRAME_ALT; not while FRAME_ALT itself can send none (R328). -/
def onAlt (s : State) : Bool :=
  [s.slk.policy.framePort, s.slk.policy.bodyPort].any (fun p => canMoved s p && (framePort s p).isSome)

/-- FLAGS of the state frame (R323). -/
def lockFlags (s : State) : Nat :=
  ofBool (isRelease (latch s)) + 2 * ofBool s.slk.tokenLost + 4 * ofBool s.slk.tokenUnknown +
    8 * ofBool (road s).isNone + 16 * ofBool (engineInvalid s) + 32 * ofBool (onAlt s)

/-- The 16 B of a frame: eight bytes and their MAC (R325). -/
def macFrame (s : State) (ident : BitVec 32) (head : Bytes) : Bytes :=
  head ++ (cmac (frameKey s s.slk.policy.keyLabel) (be 4 ident.toNat ++ head)).take 8

/-- State frames are sent in Cab, Drive and Service (R327). -/
def stateFramesOn (s : State) : Bool :=
  s.sys.ready && (s.pwr.mode == .cab || s.pwr.mode == .drive || s.pwr.mode == .service) && vaultOk s &&
    (framePort s s.slk.policy.framePort).isSome && decide (s.slk.freshState < 0xFFFFFFFF)

/-- The FRESH value the next state frame would carry, 0 when none can be sent. -/
def nextFresh (s : State) : Nat := if stateFramesOn s then s.slk.freshState + 1 else 0

/-- Sends a state frame with the next FRESH value, written with the frame's intent (R326). -/
def sendState (s : State) : State :=
  if stateFramesOn s && canLog (.intent 1 (s.slk.freshState + 1)) s then
    let fresh := s.slk.freshState + 1
    let head := le 1 1 ++ le 1 (latchNo (latch s)) ++ le 1 (lockFlags s) ++ le 1 s.slk.cause ++ be 4 fresh
    let s := logRec (.intent 1 fresh) s
    let s := modSlk (fun b => { b with freshState := fresh, frameAt := some (monoUs s), lastFlags := lockFlags s }) s
    let s := onlyIf (fresh == 0xFFFFFFFF) (slkEvent 5) s
    match framePort s s.slk.policy.framePort with
    | some p => emit (.can p s.slk.policy.stateId.toNat (macFrame s s.slk.policy.stateId head)) s
    | none => s
  else s

/-- Sends one body frame: ACTION, SOURCE, ZONE (R323, R326, R327). -/
def sendBody (action source zone : Nat) (s : State) : State :=
  let on := (s.sys.ready || s.pwr.mode == .parked) && s.pwr.mode != .hearth && s.pwr.mode != .dormant && vaultOk s
  if on && (framePort s s.slk.policy.bodyPort).isSome && decide (s.slk.freshBody < 0xFFFFFFFF) &&
      canLog (.intent 2 (s.slk.freshBody + 1)) s then
    let fresh := s.slk.freshBody + 1
    let head := le 1 2 ++ le 1 action ++ le 1 source ++ le 1 zone ++ be 4 fresh
    let s := logRec (.intent 2 fresh) s
    let s := modSlk (fun b => { b with freshBody := fresh }) s
    let s := onlyIf (fresh == 0xFFFFFFFF) (slkEvent 5) s
    match framePort s s.slk.policy.bodyPort with
    | some p => emit (.can p s.slk.policy.bodyId.toNat (macFrame s s.slk.policy.bodyId head)) s
    | none => s
  else s

/-- Sends a state frame when FLAGS have changed since the last one (R327); frames moving to FRAME_ALT set SLK_ALT_EV. -/
def flagsCheck (s : State) : State :=
  if lockFlags s = s.slk.lastFlags then s
  else
    sendState (onlyIf (bit (lockFlags s) 5 && !bit s.slk.lastFlags 5) (slkEvent 4)
      (modSlk (fun b => { b with lastFlags := lockFlags s }) s))

/-! ### Timers (R304, R312, R313, R315) -/

/-- The timer a state runs, at the length in force now; LOCK_HOLD_S runs only at rest. -/
def startTimer (st : Latch) (s : State) : State :=
  let now := monoUs s
  let p := s.slk.policy
  modSlk (fun b => match st with
    | .armed => { b with timerKind := 1, timerEnd := some (now + 1000000 * p.armHold), winDue := false }
    | .released => { b with timerKind := 2, timerEnd := some (now + 1000000 * p.releaseWin),
                            winCap := now + 1000000 * p.releaseWin + 15000000, winDue := false }
    | .deferred => { b with timerKind := 3, winDue := false,
                            timerEnd := if atRest s then some (now + 1000000 * p.lockHold) else none }
    | .locked | .running => { b with timerKind := 0, timerEnd := none, winDue := false }) s

/-- LOCK_HOLD_S starts when the vehicle comes to rest and returns to zero when it stops being at rest (R312). -/
def holdUpdate (s : State) : State :=
  if s.slk.timerKind = 3 then
    if atRest s then
      if s.slk.timerEnd.isNone then
        modSlk (fun b => { b with timerEnd := some (monoUs s + 1000000 * b.policy.lockHold) }) s
      else s
    else modSlk (fun b => { b with timerEnd := none }) s
  else s

/-! ### Transitions (R29, R305) -/

/-- Drives SLK0 and SLK1 as the latch now stands (R320, R321): outputs 10 and 11, unpowered without VAON (R56). -/
def drivePins (s : State) : State :=
  let v := if s.pwr.vaon then ofBool (isRelease (latch s)) else 2
  onlyIf (match board s with | some b => b.slk1 | none => false) (emit (.pin 11 v)) (emit (.pin 10 v) s)

/-- The record of a transition, a decision or a lock request (R305, R314). -/
def lockRecord (old new : Latch) (cause tid fresh ten seq : Nat) (s : State) : LKind :=
  .part (stampPart { kind := 0x03, tid := tid, ten := ten, cause := cause, oldState := latchNo old,
                     newState := latchNo new, fresh := fresh, seq := seq } s)

/-- The latch after the record of a transition has been written. A START binds its token; leaving the release states
clears the token flags (R319). -/
def setLatch (old new : Latch) (cause : Nat) (bind : Option Nat) (s : State) : State :=
  let clear := (isRelease old && !isRelease new) || bind.isSome
  let s := modSlk (fun b => { b with
    code := latchCode new, comp := ~~~ latchCode new, cause := cause, tTransition := monoUs s
    bound := bind.getD b.bound
    tokenLost := b.tokenLost && !clear, tokenUnknown := b.tokenUnknown && !clear }) s
  sendState (onlyIf (isRelease old != isRelease new) drivePins (slkEvent 0 (startTimer new s)))

/-- A transition other than a START's: record first, then the latch; without the record the latch keeps its state and the
write is retried every 100 ms (R305). Without a valid board record the latch keeps its state (R77). The record holds the bound
token; `tid` is the token that caused the transition, `seq` and `ten` name the descriptor of a lock request. -/
def moveLatch (new : Latch) (cause tid ten seq : Nat) (s : State) : State :=
  let old := latch s
  let k := lockRecord old new cause s.slk.bound (nextFresh s) ten seq s
  let w : SlkRetry := { cause := cause, tid := tid, ten := ten, seq := seq }
  if (board s).isNone then s
  else if canLog k s then setLatch old new cause none (logRec k s)
  else slkEvent 6 (modSlk (fun b => { b with
    retry := if b.retry.contains w then b.retry else b.retry ++ [w]
    retryAt := if b.retry.isEmpty then monoUs s + 100000 else b.retryAt }) s)

/-- Where a lock request takes the latch (R311); none where it has no effect. -/
def requestTarget (cause : Nat) (s : State) : Option Latch :=
  match latch s with
  | .locked => none
  | .armed => some .locked
  | .released => some (if cause = 0x07 ∨ atRest s then .locked else .deferred)
  | .running => some (if cause = 0x07 then .locked else .deferred)
  | .deferred => if cause = 0x07 then some .locked else none

/-- A lock request: written to the ledger also when it has no effect; not recorded in Hearth mode (R310, R311, R314, R334). -/
def lockRequest (cause ten seq : Nat) (s : State) : State :=
  if s.pwr.mode = .hearth then s
  else
    let n := s.host.flights.length
    let note := fun (t : State) => if t.led.lsn = s.led.lsn then t else modSlk (fun b => { b with lockReqOps := n }) t
    match (if (board s).isNone then none else requestTarget cause s) with
    | some new => note (moveLatch new cause s.slk.bound ten seq s)
    | none => note (tryLog (lockRecord (latch s) (latch s) cause s.slk.bound 0 ten seq s) s)

/-! ### The engine (R306, R307, R313) -/

/-- The engine runs while the latch is LOCKED or ARMED: recorded once per engine run (R306, R313). -/
def noRelease (s : State) : State :=
  if s.slk.noReleaseDone then s
  else
    onlyIf (s.slk.cause == 0x04 && latch s == .locked) (slkEvent 7)
      (slkEvent 2 (modSlk (fun b => { b with noReleaseDone := true })
        (logPart { kind := 0x04, tid := s.slk.bound } s)))

/-- Release-window expiry (R310, R313). -/
def windowExpired (s : State) : State :=
  let s := modSlk (fun b => { b with winDue := false }) s
  if latch s = .released then lockRequest 0x04 0xFFFF 0 s else s

/-- The engine found running or stopped, applied to the latch (R304, R306). -/
def engineChange (s : State) : State :=
  if s.pwr.mode = .hearth ∨ s.slk.reconciled = false then s
  else if engineRunning s then
    match latch s with
    | .released => moveLatch .running 0x08 s.slk.bound 0xFFFF 0 s
    | .locked | .armed => noRelease s
    | .running | .deferred => s
  else
    let s := modSlk (fun b => { b with noReleaseDone := false }) s
    if latch s = .running then moveLatch .released 0x09 s.slk.bound 0xFFFF 0 s else s

/-- A latch code outside R332, or one that disagrees with its complement, is reported once while SLK_LATCH_FAULT stands
(log entry 88). -/
def latchCheck (s : State) : State :=
  let valid := s.slk.comp == ~~~ s.slk.code && [Latch.locked, .armed, .released, .running, .deferred].any (fun l => latchCode l == s.slk.code)
  if valid || s.slk.events.getLsbD 3 then s
  else fault uSlk 0 0x02 sDegraded 0x00 0 0 (slkEvent 3 s)

/-- What follows a change of the engine's state, of road speed or of a signal's validity. -/
def lockWatch (s : State) : State :=
  let s := holdUpdate (engineChange (latchCheck s))
  flagsCheck (onlyIf (s.slk.winDue && !cranking s) windowExpired s)

/-! ### Tokens (R304, R319) -/

/-- The bound token is absent. -/
def tokenAbsent (tid : Nat) (s : State) : State :=
  if tid = s.slk.bound ∧ isRelease (latch s) ∧ !s.slk.tokenLost then
    flagsCheck (logPart { kind := 0x05, tid := tid } (slkEvent 1 (modSlk (fun b => { b with tokenLost := true }) s)))
  else s

/-- The bound token's presence reads UNKNOWN. -/
def tokenUnknown (tid : Nat) (s : State) : State :=
  if tid = s.slk.bound ∧ isRelease (latch s) ∧ !s.slk.tokenUnknown then
    flagsCheck (modSlk (fun b => { b with tokenUnknown := true }) s)
  else s

/-- The bound token passes R241 again. -/
def tokenBack (tid : Nat) (s : State) : State :=
  if tid = s.slk.bound ∧ isRelease (latch s) ∧ (s.slk.tokenLost || s.slk.tokenUnknown) then
    flagsCheck (logPart { kind := 0x06, tid := tid }
      (modSlk (fun b => { b with tokenLost := false, tokenUnknown := false }) s))
  else s

/-- A start-permitted token passes R241 in a CAB zone: in Cab or Drive LOCKED moves to ARMED; in ARMED the ARM_HOLD_S runs from the
last such token whatever the mode (R304). -/
def tokenInCab (tid : Nat) (s : State) : State :=
  match latch s with
  | .locked => if s.pwr.mode = .cab ∨ s.pwr.mode = .drive then moveLatch .armed 0x0A tid 0xFFFF 0 s else s
  | .armed => startTimer .armed s
  | _ => s

/-! ### The road-speed and engine-speed signals (R308) -/

/-- The value of a signal of `len` bits at byte `off` of a frame; none when the frame does not carry it. -/
def signalOf (data : Bytes) (off len : Nat) : Option Nat :=
  if data.length < off + len / 8 then none
  else
    let v := beAt data off (len / 8)
    if v = 2 ^ len - 1 then none else some v

end Sys2Proof.Machine
end

