-- ==== Sys2Proof/Machine/Rings.lean ====
section
/-! DEFINITION. Headrace and Tailrace rings (chapter 4): doorbells, completions, write-backs, ring states, interrupts
and the SYS class. -/

namespace Sys2Proof.Machine

/-! ### Doorbells (R110–R112, R134, R135) -/

/-- An HR_PI value is valid when it offers no more than a full ring and moves forward by no more than one (R111). -/
def hrPiValid (rg : Ring) (v : BitVec 32) : Bool :=
  decide ((v - rg.hrCi).toNat ≤ hrSize rg) && decide ((v - rg.hrPi).toNat ≤ hrSize rg)

/-- A TR_CI value is valid when it frees no slot that has not been reserved (R111). -/
def trCiValid (rg : Ring) (v : BitVec 32) : Bool :=
  decide ((v - rg.trCi).toNat ≤ trSize rg) && decide ((rg.trPi - v).toNat ≤ trSize rg)

/-- Acts on an HR_PI doorbell of a RUNNING ring. -/
def ringHrPi (g : Nat) (v : BitVec 32) (s : State) : State :=
  if (getRing s g).st = .running then
    if hrPiValid (getRing s g) v then modRing g (fun rg => { rg with hrPi := v }) s else stopRing g 0x01 s
  else s

/-- Completions written at or beyond a TR_CI (R135). -/
def waitingAt (rg : Ring) (v : BitVec 32) : Nat :=
  if (rg.trWrite - v).toNat ≤ (rg.trPi - v).toNat then (rg.trWrite - v).toNat else 0

/-- Acts on a TR_CI doorbell of a ring that is not DISABLED: slots are freed, the interrupt is armed afresh and waiting
completions are counted toward it (R111, R134, R135). -/
def ringTrCi (g : Nat) (v : BitVec 32) (s : State) : State :=
  if (getRing s g).st = .disabled then s
  else if trCiValid (getRing s g) v then
    countForIrq g (waitingAt (getRing s g) v) false
      (modRing g (fun rg => { rg with trCi := v, armed := true, modPend := 0, modAt := none }) s)
  else stopRing g 0x02 s

/-- TotalVFs (R147). -/
def totalVfs : Nat := 63

/-- A function answers: the physical one, or a virtual one while VF Enable is set (R147). -/
def funcUp (s : State) (func : Nat) : Bool := func == 0 || (s.host.vfEn && decide (func ≤ totalVfs))

/-- The ring a doorbell reaches: page `t` is live only in the BAR2 of the function tenancy `t` is bound to (R103, R110). -/
def doorbellRing (s : State) (func t j : Nat) : Option Nat :=
  if released s && funcUp s func && (getTen s t).func == func then ringOf s t j else none

/-- Notes that a doorbell was rung (R86). -/
def rung (s : State) : State := modPwr (fun p => { p with lastDoorbell := monoUs s }) s

/-- A write at 0x00 of a doorbell. -/
def hrPiDoorbell (func t j : Nat) (v : BitVec 32) (s : State) : State :=
  match doorbellRing s func t j with
  | none => s
  | some g =>
    if s.pwr.parking = .none then ringHrPi g v (rung s)
    else modRing g (fun rg => { rg with heldHrPi := some v }) (rung s)

/-- A write at 0x04 of a doorbell. -/
def trCiDoorbell (func t j : Nat) (v : BitVec 32) (s : State) : State :=
  match doorbellRing s func t j with
  | none => s
  | some g =>
    if s.pwr.parking = .none then ringTrCi g v (rung s)
    else modRing g (fun rg => { rg with heldTrCi := some v }) (rung s)

def execDoorbellHrPi (func : Fin 64) (ten : Fin 1024) (j : Fin 64) (v : BitVec 32) (s : State) :
    Host.Outcome State Fault Refusal := .next (hrPiDoorbell func ten j v s)

def execDoorbellTrCi (func : Fin 64) (ten : Fin 1024) (j : Fin 64) (v : BitVec 32) (s : State) :
    Host.Outcome State Fault Refusal := .next (trCiDoorbell func ten j v s)

/-- A write of `size` bytes at an offset of a function's BAR2 (R110): page t at t × 0x1000, ring j at j × 0x40 within it; a 64-bit write
is its two halves in turn, and any other write is ignored. -/
def bar2Write (func off size : Nat) (v : BitVec 64) (s : State) : State :=
  let t := off / 4096 % 1024
  let j := off / 64 % 64
  if off % 64 = 0 ∧ size = 4 then hrPiDoorbell func t j (v.truncate 32) s
  else if off % 64 = 4 ∧ size = 4 then trCiDoorbell func t j (v.truncate 32) s
  else if off % 64 = 0 ∧ size = 8 then
    trCiDoorbell func t j ((v >>> 32).truncate 32) (hrPiDoorbell func t j (v.truncate 32) s)
  else s

/-- Reads of BAR2 return 0 (R110). -/
def bar2Read (_off _size : Nat) : BitVec 64 := 0

/-- Acts on the doorbells recorded while the sluice had stopped for Parked entry (R86, R87, R112): of one ring HR_PI first and then TR_CI,
whichever was written first (DESIGN CHOICE, log entry 100). -/
def heldDoorbells (s : State) : State :=
  each (s.host.rings.map (·.1)) (fun g t =>
    let rg := getRing t g
    let t := modRing g (fun x => { x with heldHrPi := none, heldTrCi := none }) t
    let t := match rg.heldHrPi with | some v => ringHrPi g v t | none => t
    match rg.heldTrCi with | some v => ringTrCi g v t | none => t) s

/-! ### Completions (R116–R120, R138, R139) -/

/-- The NOTE of a fate without REPOST and PHASE. -/
def noteBits (fr : FateRec) : Nat :=
  2 * ofBool fr.laneMoved + 4 * ofBool fr.stale + 8 * ofBool fr.degraded + 16 * ofBool fr.spare + 256 * (fr.echo % 256)

/-- PHASE of Tailrace slot index `i` (R118). -/
def phaseOf (rg : Ring) (i : BitVec 32) : Bool := i.toNat / trSize rg % 2 == 0

/-- The 32 B of a completion (R116). -/
def completionBytes (f : Flight) (fr : FateRec) (repost phase : Bool) : Bytes :=
  le 8 (dSeq f.raw) ++ le 8 (dTag f.raw) ++ le 2 fr.code ++
    le 2 (noteBits fr + ofBool repost + 128 * ofBool phase) ++ le 3 fr.units ++ le 1 fr.stage ++
    le 7 fr.result ++ le 1 fr.detail

/-- The accepted descriptor whose completion belongs in a Tailrace slot of the ring's present enable: the latest that reserved it,
since the index wraps. -/
def slotOwner (s : State) (g : Nat) (i : BitVec 32) : Option (Nat × Flight) :=
  ((List.range s.host.flights.length).zip s.host.flights).reverse.find? (fun e =>
    e.2.ring == g && e.2.era == (getRing s g).era && e.2.trSlot == i)

/-- The two writes of a completion, the second carrying the valid PHASE (R119). -/
def postWrites (g : Nat) (f : Flight) (fr : FateRec) (s : State) : State :=
  let rg := getRing s g
  let at_ := rg.setup.trBase.toNat + 32 * (rg.trWrite.toNat % trSize rg)
  let ph := phaseOf rg rg.trWrite
  emit (.hostWrite rg.func (at_ + 18) (slice (completionBytes f fr f.posted ph) 18 2))
    (emit (.hostWrite rg.func at_ (completionBytes f fr f.posted (!ph))) s)

/-- The completion of a ring that the host-memory movers may write next: the Tailrace slot's turn has come and its fate is in the
ledger (R120). -/
def nextPost (s : State) (g : Nat) : Option (Nat × Flight) :=
  if canPost s g && (getRing s g).trWrite != (getRing s g).trPi then
    (slotOwner s g (getRing s g).trWrite).filter (fun e => e.2.fate.isSome)
  else none

/-- The movers serve the rings' completions in stamp order (R164). -/
def moverTurn (s : State) (g : Nat) (e : Nat × Flight) : Bool :=
  s.host.rings.all (fun x => x.1 == g || (nextPost s x.1).all (servedBefore e))

/-- Writes the completion of the next Tailrace slot in order, if its fate is in the ledger (R120) and the movers' turn is its. A repost behind TR_CI
counts toward no interrupt (R139). -/
def execCompletionWrite (g : Fin 4096) (s : State) : Host.Outcome State Fault Refusal :=
  .next (
    let rg := getRing s g
    match nextPost s g with
    | some (r, f) =>
      match f.fate with
      | some fr =>
        if moverTurn s g (r, f) then
          let counts := !f.posted || decide ((rg.trWrite - rg.trCi).toNat < (rg.trPi - rg.trCi).toNat)
          countForIrq g (ofBool counts) (dIrq f.raw)
            (modRing g (fun x => { x with trWrite := x.trWrite + 1 })
              (modFlight r (fun x => { x with posted := true }) (postWrites g f fr s)))
        else s
      | none => s
    | none => s)

/-- The state code of the write-back block and HOST_RING_ST. -/
def ringCode : RingSt → Nat
  | .disabled => 0 | .running => 1 | .draining => 2 | .stopped => 3

/-- The 16 B write-back block (R108). -/
def writebackBytes (rg : Ring) : Bytes := le 4 rg.hrCi.toNat ++ zeros 4 ++ le 1 (ringCode rg.st) ++ zeros 7

/-- Writes the write-back block of a ring with a change waiting, where the last enable checked it (R105, R108). A ring reset with its function writes none (R133). -/
def execConsumerIndexWriteback (g : Fin 4096) (s : State) : Host.Outcome State Fault Refusal :=
  .next (
    let rg := getRing s g
    if released s && rg.wbDue.isSome && !rg.mute then
      modRing g (fun x => { x with wbDue := none })
        (emit (.hostWrite rg.func rg.inForce.ciwb.toNat (writebackBytes rg)) s)
    else s)

/-! ### Failed reads and writes (R129–R131) -/

def execDescriptorReadFailed (g : Fin 4096) (s : State) : Host.Outcome State Fault Refusal :=
  .next (
    let rg := getRing s g
    if released s && rg.st == .running && rg.hrPi != rg.hrCi then stopRing g 0x03 s else s)

def execTailraceWriteRefused (g : Fin 4096) (writeback : Bool) (s : State) : Host.Outcome State Fault Refusal :=
  .next (if canPost s g then stopRing g (if writeback then 0x05 else 0x04) s else s)

/-! ### Set-up through the selector (R144, R145) -/

/-- The ring pair a function's selector names, if the function answers and may reach it. -/
def selectedRing (s : State) (func : Nat) : Option Nat :=
  let f := getFunc s func
  if funcUp s func && (getTen s f.selTen.toNat).func == func then ringOf s f.selTen.toNat f.selRing.toNat else none

/-- Whether `len` bytes at `addr` lie inside one culvert of a tenancy with all the given rights (R105, R154). -/
def insideCulvert (row : Tenancy) (rights : BitVec 3) (addr len : Nat) : Bool :=
  row.culverts.any (fun c => c.2.rights &&& rights == rights && decide (c.2.base ≤ addr) &&
    decide (addr + len ≤ c.2.base + c.2.size))

/-- The ring and its write-back block lie inside the tenancy's ring culverts (R105): rights RING. -/
def ringMemoryOk (row : Tenancy) (u : RingSetup) : Bool :=
  insideCulvert row 4 u.hrBase.toNat (64 * 2 ^ u.hrLog.toNat) &&
    insideCulvert row 4 u.trBase.toNat (32 * 2 ^ u.trLog.toNat) && insideCulvert row 4 u.ciwb.toNat 16

/-- The enable checks in the order of R145; 0 when all pass. -/
def enableError (s : State) (func ten : Nat) (u : RingSetup) : BitVec 8 :=
  let n := u.hrLog.toNat
  let m := u.trLog.toNat
  if n < 6 || 16 < n || m < 6 || 16 < m then 0x10
  else if u.hrBase.toNat % 4096 != 0 || u.trBase.toNat % 4096 != 0 || u.ciwb.toNat % 64 != 0 then 0x11
  else if !ringMemoryOk (getTen s ten) u then 0x12
  else if vecsOf s func ≤ u.vec.toNat then 0x13
  else 0x00

/-- A ring as enabled: indices 0, interrupt armed, set-up recorded (R106, R134, R145). -/
def enabledRing (func ten now : Nat) (rg : Ring) : Ring :=
  wbMark now { rg with
    recorded := rg.setup, inForce := rg.setup, st := .running, err := 0, hrPi := 0, hrCi := 0, trPi := 0, trCi := 0, trCiRec := 0, trWrite := 0,
    armed := true, modPend := 0, modAt := none, mute := false, peek := none, heldHrPi := none,
    heldTrCi := none, era := rg.era + 1, func := func, owner := ten }

/-- A write of 1 to HOST_RING_ENABLE (R145). -/
def execRingEnable (func : Fin 64) (s : State) : Host.Outcome State Fault Refusal :=
  .next (match selectedRing s func with
    | none => s
    | some g =>
      let ten := (getFunc s func).selTen.toNat
      if released s && (getRing s g).st == .disabled then
        let e := enableError s func ten (getRing s g).setup
        if e = 0 then recordRing g (enabledRing func ten (monoUs s)) s
        else modRing g (fun rg => { rg with err := e }) s
      else s)

/-- A write of 0 to HOST_RING_ENABLE (R128). -/
def execRingDisable (func : Fin 64) (s : State) : Host.Outcome State Fault Refusal :=
  .next (match selectedRing s func with
    | none => s
    | some g => if released s then drainRing g s else s)

/-- A DRAINING ring with every fate in the ledger and every completion written that can be becomes DISABLED (R128, R129). -/
def execRingDrained (g : Fin 4096) (s : State) : Host.Outcome State Fault Refusal :=
  .next (
    let rg := getRing s g
    if rg.st == .draining && ringFated s g && (rg.mute || rg.trWrite == rg.trPi) then
      recordRing g (fun x => wbMark (monoUs s) { x with st := .disabled, trCiRec := x.trCi }) s
    else s)

/-! ### Interrupts (R134, R136) -/

def execModerationTimer (g : Fin 4096) (s : State) : Host.Outcome State Fault Refusal :=
  .next (match (getRing s g).modAt with
    | some t => if (getRing s g).armed then signalRing g (elapseTo t s) else s
    | none => s)

/-- Sends the pending messages of a function that its masks no longer hold (R136). -/
def sendPending (func : Nat) (s : State) : State :=
  each (List.range (vecsOf s func)) (fun v t =>
    if (getVec t func v).pending && vecOpen t func v then
      sendMsix func v (modVec func v (fun x => { x with pending := false }) t)
    else t) s

/-- A vector or the function is unmasked, or MSI-X Enable is set; a function without vectors cannot set it (R604). -/
def execMsixUnmask (func : Fin 64) (what : Unmask) (s : State) : Host.Outcome State Fault Refusal :=
  .next (
    if linkUp s && funcUp s func then
      sendPending func (match what with
        | .vector v =>
          if v.val < vecsOf s func then modVec func v.val (fun x => { x with masked := false }) s else s
        | .function => modFunc func (fun f => { f with fnMask := false }) s
        | .enable => if vecsOf s func = 0 then s else modFunc func (fun f => { f with msixEn := true }) s)
    else s)

/-! ### Function-level resets (R133, R147, R606) -/

/-- Every vector of a function back to its PCIe reset value. -/
def resetVectors (func : Nat) : State → State :=
  modHost (fun h => { h with vecs := h.vecs.filter (fun e => e.1 / 2048 != func) })

/-- A ring as its function's reset leaves it: DISABLED at once, with no write to host memory any more (R133). The reset disables
the rings that are not DISABLED, so theirs is the set-up recorded (R132). -/
def flrRing (rg : Ring) : Ring :=
  { rg with st := .disabled, mute := true, wbDue := none, armed := false, modPend := 0, modAt := none, peek := none,
            heldHrPi := none, heldTrCi := none, recorded := if rg.st = .disabled then rg.recorded else rg.setup
            trCiRec := rg.trCi }

/-- The function-level reset of one virtual function. A descriptor that has not begun ends NOT_STARTED, and a duplicate still waiting
counts as one: where its original has begun it ends so, and where the reset ends the original with it, it echoes NOT_STARTED
(DESIGN CHOICE, log entry 27). -/
def resetFunction (func : Nat) (s : State) : State :=
  let tens := (s.slc.tens.filter (fun e => e.2.func == func)).map (·.1)
  let rings := tens.flatMap (fun t => (List.range (getTen s t).ringCount).map (fun j => (getTen s t).ringBase + j))
  let s := each rings (fun g t =>
    if (getRing t g).st = .disabled then modRing g flrRing t else recordRing g flrRing t) s
  let ops := ((List.range s.host.flights.length).zip s.host.flights).filter
    (fun e => rings.contains e.2.ring && !e.2.begun && e.2.fate.isNone)
  let s := each ops (fun e t => settle e.1 (failFate fNotStarted 0x0A) t) s
  modFunc func (fun _ => {}) (resetVectors func s)

def execVfFunctionLevelReset (func : Fin 64) (s : State) : Host.Outcome State Fault Refusal :=
  .next (if func.val = 0 ∨ funcUp s func = false then s else if s.sys.ready then resetFunction func s else s)

/-- Clearing VF Enable acts as a function-level reset of every virtual function, and none answers until the host has set it again (R147). -/
def execVfEnableClear (s : State) : Host.Outcome State Fault Refusal :=
  .next (
    let s := onlyIf s.sys.ready (each ((List.range totalVfs).map (· + 1)) resetFunction) s
    onlyIf (linkUp s) (modHost (fun h => { h with vfEn := false })) s)

/-- The HOST link trains: which speed, width, lane order and polarity come out of it lies with the board and the host, so they
are free values (log entry 34). The host enumerates the functions and sets VF Enable (log entry 91). Messages held while the link was down are sent. -/
def trainLink (s : State) : State :=
  if linkUp s && s.host.linkSpeed == 0 then
    let b := freeBytes s 2
    drawn 2 (modHost (fun h => { h with
      vfEn := true, linkSpeed := BitVec.ofNat 3 (1 + byteAt b 0 % 3), linkWidth := BitVec.ofNat 4 (1 + byteAt b 1 % 2)
      laneRev := (byteAt b 1 / 2) % 2 == 1, laneInv := BitVec.ofNat 2 (byteAt b 1 / 4) }) s)
      |> each (s.host.funcs.map (·.1)) sendPending
  else s

/-- The HOST link is down. -/
def linkDown : State → State :=
  modHost (fun h => { h with linkSpeed := 0, linkWidth := 0, laneRev := false, laneInv := 0 })

/-- HOST_PERST_N: low holds the link in reset without resetting the part (R67). -/
def execHostPerst (low : Bool) (s : State) : Host.Outcome State Fault Refusal :=
  .next (if low then linkDown (modHost (fun h => { h with perst := true }) s)
    else trainLink (modHost (fun h => { h with perst := false }) s))

/-! ### The SYS class (R142, R143) -/

def execNop (r : Nat) (s : State) : Host.Outcome State Fault Refusal :=
  .next (startOp 0x0100 r (fun _ => settle r (done 0)) s)

def execPing (r : Nat) (s : State) : Host.Outcome State Fault Refusal :=
  .next (startOp 0x0102 r (fun f => settle r (done (f.tAdm % 2 ^ 48))) s)

/-- The SEQ-indexed acceptances of a ring, newest first. -/
def seqIndexed (s : State) (g : Nat) : List Flight :=
  (s.host.flights.filter (fun f => f.ring == g && f.seqIndexed)).reverse

/-- The duplicate window of a ring: the last 65,536 (R126). -/
def dupWindow (s : State) (g : Nat) : List Flight := (seqIndexed s g).take 65536

/-- The 64 B fate record (R143). In flight, NOTE shows LANE_MOVED, DEGRADED and SPARE_IN_USE as far as they have arisen and STALE_EPOCH 0, since
there is no first posting yet (DESIGN CHOICE, log entry 28). -/
def fateRecordBytes (f : Flight) : Bytes :=
  let body := match f.fate with
    | some fr => le 2 fr.code ++ le 2 (noteBits fr % 32) ++ le 3 fr.units ++ le 1 fr.stage ++ le 7 fr.result ++ le 1 fr.detail
    | none => le 2 0xFFFF ++ le 2 (2 * ofBool f.laneMoved + 8 * ofBool f.degraded + 16 * ofBool f.spare) ++
        le 3 f.units ++ le 1 f.stage ++ zeros 8
  le 8 (dSeq f.raw) ++ le 8 (dTag f.raw) ++ body ++ le 8 f.epochAdm ++ le 8 f.tAdm ++
    le 8 ((f.fate.map (·.tFate)).getD 0) ++ le 2 (dOpc f.raw) ++ le 1 (if f.fate.isSome then 1 else 2) ++ zeros 1 ++
    le 4 f.hrSlot.toNat

/-- The target ring is the tenancy's under the rules in force at admission (R178). A SEQ below the window that was never accepted ends with
0x20; 0x21 is for one that was (DESIGN CHOICE, log entry 28). -/
def execFateInquiry (r : Nat) (wr : Bool) (s : State) : Host.Outcome State Fault Refusal :=
  .next (startOp 0x0101 r (fun f s =>
    if f.rules.ringCount ≤ fieldLE f.raw 24 2 then settle r (failFate fPolicy 0) s
    else
      let g := f.rules.ringBase + fieldLE f.raw 24 2
      let seq := fieldLE f.raw 32 8
      match (dupWindow s g).find? (fun x => dSeq x.raw == seq) with
      | some x => writeAndSettle r f 0 (fateRecordBytes x) wr (done (if x.fate.isSome then 1 else 2)) s
      | none =>
        if (seqIndexed s g).any (fun x => dSeq x.raw == seq) then settle r (failFate fAbsent 0x21) s
        else settle r (failFate fAbsent 0x20) s) s)

end Sys2Proof.Machine
end

