-- ==== Sys2Proof/Machine/ModeOps.lean ====
section
/-! DEFINITION. The moves between Cab, Drive and Service (R85, R592). -/

namespace Sys2Proof.Machine

/-- Road speed exceeds 2 km/h. -/
def roadFast (s : State) : Bool := roadAbove s 2

/-- Parked entry is abandoned before its step 5: admission resumes and the doorbells recorded meanwhile are acted on (R87). -/
def abandonParking (s : State) : State :=
  if s.pwr.parking = .draining then heldDoorbells (modPwr (fun p => { p with parking := .none }) s) else s

/-- The 60 s of a low battery run anew in a mode just entered (R93). -/
def lowBatteryAnew (s : State) : State :=
  modPwr (fun p => { p with pins := p.pins.map (fun x => if x.role = 2 then { x with since := monoUs s } else x) }) s

/-- Cab becomes Drive. A Parked entry that still drains is abandoned; once its step 5 runs, the entry goes on and Drive is not entered (R85, R87;
DESIGN CHOICE, log entry 99). -/
def enterDrive (s : State) : State :=
  if s.pwr.mode = .cab ∧ s.sys.ready ∧ s.pwr.parking ≠ .shutting then
    modPwr (fun p => { p with mode := .drive, driveQuiet := none }) (abandonParking s)
  else s

/-- The vehicle neither turns its engine nor moves at 2 km/h or more. -/
def driveStill (s : State) : Bool := !turning s && !roadReaches s 2

/-- What follows a change of the engine's state or of road speed for the mode: Drive is entered, or the 3 s that lead back
to Cab start or stop. -/
def modeWatch (s : State) : State :=
  let s := onlyIf (turning s || roadFast s) enterDrive s
  if s.pwr.mode = .drive then
    modPwr (fun p => { p with driveQuiet := if driveStill s then some (p.driveQuiet.getD (monoUs s + 3000000)) else none }) s
  else s

/-- The part has been still for 3 s and returns to Cab. -/
def execDriveExit (s : State) : Host.Outcome State Fault Refusal :=
  .next (match s.pwr.driveQuiet with
    | some t =>
      if s.pwr.mode = .drive then
        let s := elapseTo t s
        if driveStill s then lowBatteryAnew (modPwr (fun p => { p with mode := .cab, driveQuiet := none }) s)
        else modPwr (fun p => { p with driveQuiet := none }) s
      else s
    | none => s)

/-- Cab becomes Service until `t`, or Service is extended to it. -/
def enterService (t : Nat) (s : State) : State :=
  if s.pwr.mode = .cab ∧ s.pwr.parking ≠ .shutting then
    modPwr (fun p => { p with mode := .service, serviceEnd := some t }) (abandonParking s)
  else if s.pwr.mode = .service then
    modPwr (fun p => { p with serviceEnd := some (max t (p.serviceEnd.getD 0)) }) s
  else s

/-- Service ends; the part returns to Cab, and to Drive where the vehicle already moves. The 300 s of a trial begin anew (R555). -/
def leaveService (s : State) : State :=
  if s.pwr.mode = .service then
    let s := modUpd (fun u => { u with trialSince := u.trialSince.map (fun _ => monoUs s) }) s
    modeWatch (lowBatteryAnew (modPwr (fun p => { p with mode := .cab, serviceEnd := none }) s))
  else s

/-- SVC or UPD work is in flight. -/
def serviceWork (s : State) : Bool :=
  s.host.flights.any (fun f => f.fate.isNone && (dClass f.raw == 0x0F || dClass f.raw == 0x0C))

/-- Service ends when its duration has passed, no SVC or UPD work is in flight and no HALT is open (R592). -/
def endServiceIfDue (s : State) : State :=
  match s.pwr.serviceEnd with
  | some t => if t ≤ monoUs s ∧ serviceWork s = false ∧ s.flt.dbgLevel ≠ 2 then leaveService s else s
  | none => s

/-- The debug port closes (R590). -/
def closeDebug (s : State) : State := endServiceIfDue (modFlt (fun b => { b with dbgLevel := 0, dbgEnd := 0 }) s)

end Sys2Proof.Machine
end

