-- ==== Sys2Proof/Machine/DirOps.lean ====
section
/-! DEFINITION. Directory entries, lookups and what a change does (R464–R473, R480). -/

namespace Sys2Proof.Machine

/-! ### Entries (R464) -/

def parseEntry (b : Bytes) (o : Nat) : DirEntry :=
  let fl := byteAt b (o + 2)
  { ns := byteAt b o, kind := byteAt b (o + 1), epoch := leAt b (o + 4) 4, id := slice b (o + 8) 16,
    keyHash := slice b (o + 24) 32, notBefore := leAt b (o + 56) 8, notAfter := leAt b (o + 64) 8,
    bindTid := leAt b (o + 72) 4, owner := leAt b (o + 76) 2, revSeq := leAt b (o + 80) 8, revoked := bit fl 0,
    attr := slice b (o + 88) 40 }

def entryBytes (e : DirEntry) : Bytes :=
  le 1 e.ns ++ le 1 e.kind ++ le 1 (ofBool e.revoked) ++ zeros 1 ++ le 4 e.epoch ++ slice e.id 0 16 ++
    slice e.keyHash 0 32 ++ le 8 e.notBefore ++ le 8 e.notAfter ++ le 4 e.bindTid ++ le 2 e.owner ++ zeros 2 ++
    le 8 e.revSeq ++ slice e.attr 0 40

/-- The key of an entry (R465). -/
def sameKey (ns kind : Nat) (id : Bytes) (e : DirEntry) : Bool := e.ns == ns && e.kind == kind && e.id == id

/-- The ID of a TOKEN entry. -/
def tokenId (tid : Nat) : Bytes := le 4 tid ++ zeros 12

def minEpoch (s : State) (ns : Nat) : Nat := tabGet 0 s.dir.minEpoch ns

/-- STATE of an entry: 1 VALID, 2 REVOKED, 3 EPOCH_REVOKED, 4 NOT_YET, 5 EXPIRED (R466, R481). -/
def entryState (s : State) (e : DirEntry) : Nat :=
  if e.revoked then 2
  else if e.epoch < minEpoch s e.ns then 3
  else if s.clk.wallSet && e.notBefore != 0 && decide (wallUs s < 1000000 * e.notBefore) then 4
  else if s.clk.wallSet && e.notAfter != 0 && decide (1000000 * e.notAfter < wallUs s) then 5
  else 1

/-! ### Lookups (R468, R480) -/

/-- What a lookup finds: an entry, no entry, nothing yet, or no readable copy to rebuild from. -/
inductive Found where
  | entry (e : DirEntry)
  | absent
  | waits
  | noSource
  deriving DecidableEq, Repr

/-- The LPDDR4X is in service: its rails are good and it has no fault. -/
def dramUp (s : State) : Bool := s.pwr.railGood.getLsbD 7 && s.pwr.railGood.getLsbD 8 && unitSt s uDram 0 == .up

/-- Looks a key up (R480): in READY the table decides; during a rebuild a key already found answers at once and any other
waits; while the LPDDR4X is out of service every lookup waits. -/
def lookup (s : State) (ns kind : Nat) (id : Bytes) : Found :=
  let hit := s.dir.table.find? (sameKey ns kind id)
  if !dramUp s then .waits
  else if s.dir.st = 0 then .noSource
  else match hit with
    | some e => .entry e
    | none => if s.dir.st = 2 then .absent else .waits

/-- Looks a key up in the namespaces of a mask, lowest first: the first entry found; otherwise the outcome of the last
lookup that could not answer. -/
def lookupIn (s : State) (mask : BitVec 16) (kind : Nat) (id : Bytes) : Found :=
  ((List.range 16).filter (fun n => mask.getLsbD n)).foldl (fun acc n => match acc with
    | .entry e => .entry e
    | .absent => lookup s n kind id
    | w => match lookup s n kind id with
      | .entry e => .entry e
      | _ => w) .absent

/-- Step 4 of R316: the TID is found, and not revoked, in a namespace that TOKEN_NS names; skipped when TOKEN_NS is 0.
None while a lookup must wait. -/
def permitUnder (s : State) (mask : BitVec 16) (tid : Nat) : Option Bool :=
  if mask = 0 then some true
  else
    let r := ((List.range 16).filter (fun n => mask.getLsbD n)).map (fun n => lookup s n 2 (tokenId tid))
    let good := fun x => match x with
      | .entry e => entryState s e != 2 && entryState s e != 3
      | _ => false
    if r.any good then some true else if r.any (fun x => x == .waits) then none else some false

/-- The same under the policy in force. -/
def tokenPermit (s : State) (tid : Nat) : Option Bool := permitUnder s s.slk.policy.tokenNs tid

/-! ### Changes (R469–R472) -/

/-- The entries a change is judged by: the table, and during a rebuild what the rebuild will bring, under which a change is
placed with overwrite (R480). -/
def dirTable (s : State) : List DirEntry := if s.dir.st = 1 then s.dir.persist else s.dir.table

/-- Removes a TID from the Near list (R250, R299). -/
def nearRemove (tid : Nat) : State → State := modRadio (fun b => { b with near := b.near.filter (fun e => e.tid != tid) })

/-- The TIDs a revoked entry stands for: its own when it is a TOKEN, and BIND_TID (R471). -/
def tidsOf (e : DirEntry) : List Nat :=
  (if e.kind = 2 then [leAt e.id 0 4] else []) ++ (if e.bindTid = 0 then [] else [e.bindTid])

/-- Puts an entry in a table, in place of the one with its key. -/
def putEntry (t : List DirEntry) (e : DirEntry) : List DirEntry :=
  t.filter (fun x => !sameKey e.ns e.kind e.id x) ++ [e]

/-- A directory table after an act; `rev` is the REV_SEQ a revocation takes. -/
def actOn (a : DirAct) (rev : Nat) (t : List DirEntry) : List DirEntry :=
  match a with
  | .load es => es.foldl putEntry t
  | .revoke ns kind id =>
    t.map (fun e => if sameKey ns kind id e then { e with revoked := true, revSeq := rev } else e)
  | .epoch _ _ => t
  | .remove ns kind id => t.filter (fun e => !sameKey ns kind id e)

/-- TIDs whose credentials an act revokes, judged on the table before it (R471). -/
def actTids (s : State) (a : DirAct) : List Nat :=
  match a with
  | .revoke ns kind id => ((dirTable s).filter (sameKey ns kind id)).flatMap tidsOf
  | .epoch ns v =>
    ((dirTable s).filter (fun e => e.ns == ns && decide (minEpoch s ns ≤ e.epoch) && decide (e.epoch < v))).flatMap tidsOf
  | _ => []

/-- The change takes effect: the table and its persistent copy, MIN_EPOCH, REV_SEQ and the REVLIST of the 4,096 most
recent revocations (R469, R471, R472). -/
def applyAct (a : DirAct) (s : State) : State :=
  let rev := s.dir.revSeq + 1
  let n := match a with | .load es => es.length | _ => 1
  modDir (fun d =>
    let d := { d with table := actOn a rev d.table, persist := actOn a rev d.persist, changed := d.changed + n }
    match a with
    | .revoke ns kind id =>
      { d with revSeq := rev,
               revList := (d.revList ++ [(⟨ns, kind, id, rev⟩ : RevItem)]).drop (d.revList.length + 1 - 4096) }
    | .epoch ns v => { d with minEpoch := tabSet 0 d.minEpoch ns v }
    | _ => d) s

end Sys2Proof.Machine
end

