-- ==== Sys2Proof/Machine/Zones.lean ====
section
/-! DEFINITION. The LF and UHF records in force (R221, R222, R259, R260) and the zones (R290–R293), in exact integer
geometry: lengths are compared as squares of fractions. -/

namespace Sys2Proof.Machine

/-! ### The LF antenna record and the UHF location record -/

/-- A coordinate of a record: 16 bits, signed, in cm. -/
def coordOk (v : Int) : Bool := decide (-32768 ≤ v) && decide (v ≤ 32767)

def lfChanOk (c : LfChan) : Bool :=
  coordOk c.x && coordOk c.y && coordOk c.z && decide (c.axis ≤ 5) && decide (c.loc ≤ 3) && decide (10 ≤ c.ilim) &&
    decide (c.ilim ≤ 255) && decide (c.peMin ≤ 255) && decide (c.peMax ≤ 255)

/-- Entries by number: one for each fitted port, and none besides. -/
def oneEach (n : Nat) (fit : Nat → Bool) (l : List Nat) : Bool :=
  (List.range n).all (fun i => (l.filter (fun c => c == i)).length == ofBool (fit i)) && l.all (fun c => decide (c < n))

/-- The fields lie in their ranges, and every fitted channel has its one entry (R221). -/
def lfRecOk (b : BoardRec) (l : LfRec) : Bool :=
  decide (l.carrier ≤ 160) && l.vwp != 0 && l.vwp != 0xFFFF && l.chans.all lfChanOk &&
    oneEach 48 b.lf.getLsbD (l.chans.map (·.ch))

/-- The LF antenna record in force (R222). -/
def lfRec (s : State) : Option LfRec :=
  match board s, s.cfg.lf with
  | some b, some l => if lfRecOk b l then some l else none
  | _, _ => none

/-- Power at a chain's RFOUT ball lies in −20 dBm to +14 dBm, in half-dB steps from −20 dBm (R59, R260, R263). -/
def rfoutOk (b : BoardRec) (code k : Nat) : Bool :=
  decide (nth 0 b.paGain k ≤ code) && decide (code ≤ nth 0 b.paGain k + 68)

def uhfChainOk (c : UhfChain) : Bool :=
  coordOk c.x && coordOk c.y && coordOk c.z && decide (c.calDelay ≤ 65535) && decide (c.calPhase ≤ 255)

/-- BAND_PLAN is the US plan (R259). -/
def usPlan (u : UhfRec) : Bool := u.bandPlan == 1

/-- The fields lie in their ranges, fitted chains and LF channels have theirs, and every chain can give the powers (R259,
R260). -/
def uhfRecOk (b : BoardRec) (u : UhfRec) : Bool :=
  decide (u.bandPlan ≤ 1) && decide (u.txDuty ≤ 10000) && decide (1 ≤ u.coexTmo) && decide (u.coexTmo ≤ 255) && decide (500 ≤ u.rangeMax) &&
    decide (u.rangeMax ≤ 4000) && decide (3 ≤ u.lfTol) && decide (u.lfTol ≤ 20) && decide (5 ≤ u.trackAge) &&
    decide (u.trackAge ≤ 255) &&
    u.chains.all uhfChainOk && u.lfHref.all (fun e => decide (e.2 ≤ 255)) &&
    (List.range 8).all (fun k => !b.uhf.getLsbD k || (rfoutOk b u.txpData k && rfoutOk b u.txpTone k)) &&
    oneEach 8 b.uhf.getLsbD (u.chains.map (·.chain)) && oneEach 48 b.lf.getLsbD (u.lfHref.map (·.1))

/-- The UHF location record in force (R260). -/
def uhfRec (s : State) : Option UhfRec :=
  match board s, s.cfg.uhf with
  | some b, some u => if uhfRecOk b u then some u else none
  | _, _ => none

/-- LOC of an LF channel. -/
def lfLoc (s : State) (ch : Nat) : Option Nat :=
  (lfRec s).bind (fun l => (l.chans.find? (fun c => c.ch == ch)).map (·.loc))

/-- A port serves: in service, and for an LF channel or a UHF chain with a valid record (R76, R222, R260). -/
def portServes (s : State) (kind n : Nat) : Bool :=
  portUp s kind n && (if kind = pLf then (lfRec s).isSome else if kind = pUhf then (uhfRec s).isSome else true)

/-- LF channels that can transmit: in service, with a valid record (R222, R248). -/
def lfUp (s : State) (ch : Nat) : Bool := portUp s pLf ch && (lfLoc s ch).isSome

/-- UHF chains that can be used: in service, with a valid record (R260) and a synthesiser (R266). -/
def uhfUp (s : State) (k : Nat) : Bool :=
  portUp s pUhf k && (uhfRec s).isSome && (unitSt s uSyn 0 == .up || unitSt s uSyn 1 == .up)

/-- The chains that receive in the present mode: all of them, or UHF0 alone in Parked (R261). -/
def chainsUp (s : State) : List Nat :=
  if s.pwr.mode = .parked then (if uhfUp s 0 then [0] else []) else (List.range 8).filter (uhfUp s)

/-! ### Polygons -/

abbrev Pt := Int × Int

def cross (a b c : Pt) : Int := (b.1 - a.1) * (c.2 - a.2) - (b.2 - a.2) * (c.1 - a.1)
def dot (a b c : Pt) : Int := (b.1 - a.1) * (c.1 - a.1) + (b.2 - a.2) * (c.2 - a.2)
def sq (x : Int) : Nat := (x * x).natAbs

/-- `c` lies on the segment from `a` to `b`. -/
def onSegment (a b c : Pt) : Bool := cross a b c == 0 && decide (dot c a b ≤ 0)

/-- The edges of a polygon, in order. -/
def edges (v : List Pt) : List (Pt × Pt) := v.zip (v.drop 1 ++ v.take 1)

/-- Two segments share a point. -/
def segMeet (e f : Pt × Pt) : Bool :=
  let d1 := (cross f.1 f.2 e.1).sign
  let d2 := (cross f.1 f.2 e.2).sign
  let d3 := (cross e.1 e.2 f.1).sign
  let d4 := (cross e.1 e.2 f.2).sign
  (decide (d1 * d2 < 0) && decide (d3 * d4 < 0)) || onSegment f.1 f.2 e.1 || onSegment f.1 f.2 e.2 ||
    onSegment e.1 e.2 f.1 || onSegment e.1 e.2 f.2

/-- Two edges break the rule of R291: adjacent ones that fold back, others that share a point. `i < j` are their places. -/
def edgesBad (n i j : Nat) (e f : Pt × Pt) : Bool :=
  if j = i + 1 then cross e.1 e.2 f.2 == 0 && decide (0 < dot e.2 e.1 f.2)
  else if i = 0 ∧ j + 1 = n then cross f.1 f.2 e.2 == 0 && decide (0 < dot f.2 f.1 e.2)
  else segMeet e f

/-- A polygon crosses itself (R291): an edge of zero length, or two edges that break the rule. Coinciding vertices make
two edges meet. -/
def crosses (v : List Pt) : Bool :=
  let es := (List.range v.length).zip (edges v)
  es.any (fun e => e.2.1 == e.2.2 ||
    es.any (fun f => decide (e.1 < f.1) && edgesBad v.length e.1 f.1 e.2 f.2))

/-- The horizontal ray toward +X from `p` crosses an edge. -/
def rayHits (p : Pt) (e : Pt × Pt) : Bool :=
  if decide (p.2 < e.1.2) != decide (p.2 < e.2.2) then
    if e.1.2 < e.2.2 then decide (0 < cross e.1 e.2 p) else decide (cross e.1 e.2 p < 0)
  else false

/-- `p` lies in a polygon, boundary included. -/
def inPolygon (v : List Pt) (p : Pt) : Bool :=
  (edges v).any (fun e => onSegment e.1 e.2 p) || ((edges v).filter (rayHits p)).length % 2 == 1

/-- Squared distance from `p` to a segment, as numerator and denominator. -/
def segDist2 (p : Pt) (e : Pt × Pt) : Nat × Nat :=
  let len := sq (e.2.1 - e.1.1) + sq (e.2.2 - e.1.2)
  let t := dot e.1 p e.2
  if t ≤ 0 then (sq (p.1 - e.1.1) + sq (p.2 - e.1.2), 1)
  else if (len : Int) ≤ t then (sq (p.1 - e.2.1) + sq (p.2 - e.2.2), 1)
  else (sq (cross e.1 e.2 p), len)

/-! ### Zones (R292) -/

abbrev Pos := Int × Int × Int

def inZone (z : Zone) (p : Pos) : Bool :=
  inPolygon z.verts (p.1, p.2.1) && decide (z.zMin ≤ p.2.2) && decide (p.2.2 ≤ z.zMax)

/-- `p` lies more than `h` outside a zone: further than `h` from its prism. -/
def farOutside (h : Nat) (z : Zone) (p : Pos) : Bool :=
  let dv : Int := max 0 (max (z.zMin - p.2.2) (p.2.2 - z.zMax))
  if inPolygon z.verts (p.1, p.2.1) then decide (h * h < sq dv)
  else (edges z.verts).all (fun e =>
    let d := segDist2 (p.1, p.2.1) e
    decide (h * h * d.2 < d.1 + sq dv * d.2))

/-- `p` lies more than `h` inside a zone: further than `h` from every face of its prism. -/
def deepInside (h : Nat) (z : Zone) (p : Pos) : Bool :=
  inZone z p && decide ((h : Int) < p.2.2 - z.zMin) && decide ((h : Int) < z.zMax - p.2.2) &&
    (edges z.verts).all (fun e =>
      let d := segDist2 (p.1, p.2.1) e
      decide (h * h * d.2 < d.1))

/-- The zones of the table in force, lowest ZONE_ID first; none before the first ZONE_TABLE writ (R293). -/
def zonesOf (s : State) : List Zone :=
  match s.radio.zones with
  | some t => (List.range 12).filterMap (fun i => t.zones.find? (fun z => z.id == i))
  | none => []

def zoneById (s : State) (id : Nat) : Option Zone := (zonesOf s).find? (fun z => z.id == id)
def isCabZone (s : State) (id : Nat) : Bool := ((zoneById s id).map (·.cab)).getD false

/-- ZONE_MASK of a position. -/
def zoneMask (s : State) (p : Pos) : Nat := ((zonesOf s).filter (fun z => inZone z p)).foldl (fun m z => m + 2 ^ z.id) 0

/-- The lowest zone that contains a position, or 0xFF. -/
def lowestZone (s : State) (p : Pos) : Nat := (((zonesOf s).find? (fun z => inZone z p)).map (·.id)).getD 0xFF

/-- The zone assigned to a token at `p` whose present zone is `now` (R292). DESIGN CHOICE (log entry 109): where both of the rule's cases
hold, the token takes the lower zone that `p` lies deep inside. -/
def assignZone (s : State) (now : Nat) (p : Pos) : Nat :=
  match s.radio.zones, zoneById s now with
  | some t, some z =>
    match (zonesOf s).find? (fun y => decide (y.id < now) && deepInside t.hyst y p) with
    | some y => y.id
    | none => if farOutside t.hyst z p then lowestZone s p else now
  | _, _ => lowestZone s p

/-- The DOOR zone whose handle electrode is `e` (R244, R252, R292). -/
def doorOfHandle (s : State) (e : Nat) : Option Zone := (zonesOf s).find? (fun z => z.door && z.handleCap == e)

/-! ### The ZONE_TABLE body (R290, R291) -/

def s16 (b : Bytes) (off : Nat) : Int := signed 16 (beAt b off 2)

def parseZone (b : Bytes) (o : Nat) : Zone :=
  let fl := byteAt b (o + 1)
  { id := byteAt b o, cab := bit fl 0, door := bit fl 1, exterior := bit fl 2, handleCap := byteAt b (o + 3),
    handleLf := byteAt b (o + 4), zMin := s16 b (o + 6), zMax := s16 b (o + 8),
    verts := (List.range (byteAt b (o + 2))).map (fun i => (s16 b (o + 10 + 4 * i), s16 b (o + 12 + 4 * i))) }

def parseZones (b : Bytes) : ZoneTable :=
  { tableId := beAt b 0 4, hyst := beAt b 6 2, zones := (List.range (byteAt b 4)).map (fun i => parseZone b (16 + 48 * i)),
    body := b }

/-- A handle number: 0 to 47 in a DOOR zone, 0xFF in every other zone. -/
def handleOk (door : Bool) (v : Nat) : Bool := if door then decide (v ≤ 47) else v == 0xFF

def zoneEntryOk (s : State) (b : Bytes) (o : Nat) : Bool :=
  let z := parseZone b o
  let nv := byteAt b (o + 2)
  decide (z.id ≤ 11) && decide (byteAt b (o + 1) < 8) && decide (3 ≤ nv) && decide (nv ≤ 8) && byteAt b (o + 5) == 0 &&
    zeroAt b (o + 10 + 4 * nv) (32 - 4 * nv) && zeroAt b (o + 42) 6 && decide (z.zMin < z.zMax) && !crosses z.verts &&
    !(z.cab && z.exterior) && handleOk z.door z.handleCap && handleOk z.door z.handleLf &&
    (!z.door || (fitted s pCap z.handleCap && lfLoc s z.handleLf == some 3))

/-- The body is one the part takes (R291). -/
def zonesOk (s : State) (b : Bytes) : Bool :=
  let n := byteAt b 4
  decide (1 ≤ n) && decide (n ≤ 12) && b.length == 16 + 48 * n && byteAt b 5 == 0 && decide (beAt b 6 2 ≤ 200) &&
    zeroAt b 8 8 && (List.range n).all (fun i => zoneEntryOk s b (16 + 48 * i)) &&
    (List.range n).all (fun i => (List.range i).all (fun j => byteAt b (16 + 48 * i) != byteAt b (16 + 48 * j)))

end Sys2Proof.Machine
end

