-- ==== Sys2Proof/Machine/Fit.lean ====
section
/-! DEFINITION. From phases and field values to a position (R235, R267, R284, R285, R288, R298), in fixed point: phases in 2^-24 of a
cycle, lengths in 10^-6 cm, powers in units of 10^-30. -/

namespace Sys2Proof.Machine

/-! ### Roots, sines and azimuths -/

/-- The square root of `v`, rounded down, from its bit `n - 1` on: `r` holds the bits above. -/
def rootFrom : Nat → Nat → Nat → Nat
  | 0, _, r => r
  | n + 1, v, r => rootFrom n v (if (r + 2 ^ n) * (r + 2 ^ n) ≤ v then r + 2 ^ n else r)

def root (v : Nat) : Nat := rootFrom (Nat.log2 v / 2 + 1) v 0

/-- The cosine of n/256 of a cycle for n from 0 to 64, in 2^-20. -/
def cosTable : List Int :=
  [1048576, 1048260, 1047313, 1045735, 1043527, 1040690, 1037227, 1033138, 1028428, 1023098, 1017151, 1010592, 1003425,
    995652, 987281, 978314, 968758, 958618, 947901, 936614, 924761, 912352, 899394, 885893, 871859, 857300, 842224] ++
  [826641, 810560, 793991, 776944, 759428, 741455, 723036, 704181, 684901, 665210, 645117, 624636, 603779, 582558, 560986,
    539076, 516841, 494295, 471452, 448324, 424926, 401273, 377377, 353255, 328919, 304386, 279669, 254783, 229744, 204567,
    179267, 153858, 128357, 102778, 77138, 51451, 25733, 0]

/-- The cosine of n/256 of a cycle, in 2^-20. -/
def cos256 (n : Nat) : Int :=
  let q := n % 256
  if q ≤ 64 then nth 0 cosTable q
  else if q ≤ 128 then -nth 0 cosTable (128 - q)
  else if q ≤ 192 then -nth 0 cosTable (q - 128)
  else nth 0 cosTable (256 - q)

/-- The angle of a vector with a positive first component, in 10^-6 degrees: rotation by the angles whose tangents are powers of a half. -/
def arcTan : List (Nat × Int) → Int → Int → Int → Int
  | [], _, _, a => a
  | (i, t) :: l, x, y, a =>
    if 0 ≤ y then arcTan l (x + y / 2 ^ i) (y - x / 2 ^ i) (a + t) else arcTan l (x - y / 2 ^ i) (y + x / 2 ^ i) (a - t)

def arcSteps : List (Nat × Int) :=
  (List.range 22).zip [45000000, 26565051, 14036243, 7125016, 3576334, 1789911, 895174, 447614, 223811, 111906, 55953, 27976,
    13988, 6994, 3497, 1749, 874, 437, 219, 109, 55, 27]

/-- The azimuth of a vector from +X toward +Y, in tenths of a degree, to the nearest (R298). -/
def azimuth (x y : Int) : Nat :=
  if x = 0 ∧ y = 0 then Config.azimuthAtCentre % 3600
  else
    let a := if 0 < x then arcTan arcSteps (x * 2 ^ 24) (y * 2 ^ 24) 0
      else if x < 0 then 180000000 + arcTan arcSteps (-x * 2 ^ 24) (-y * 2 ^ 24) 0
      else if 0 < y then 90000000 else -90000000
    (((a + 50000) / 100000) % 3600).toNat

/-- How far two azimuths lie apart, in tenths of a degree. -/
def azApart (a b : Nat) : Nat := let d := (a + 3600 - b) % 3600; min d (3600 - d)

/-- The length of a vector in cm, in units of 10^-6 cm. -/
def lengthOf (a b : Pos) : Nat := root ((sq (a.1 - b.1) + sq (a.2.1 - b.2.1) + sq (a.2.2 - b.2.2)) * 10 ^ 12)

/-- The median of numbers up to 255, the lower one of two. -/
def median (l : List Nat) : Nat :=
  [7, 6, 5, 4, 3, 2, 1, 0].foldl (fun v b =>
    if l.length ≤ 2 * (l.filter (fun x => decide (x < v + 2 ^ b))).length then v else v + 2 ^ b) 0

/-! ### Frequencies (R267) -/

/-- Tones of the band plan. -/
def planTones (u : UhfRec) : Nat := if usPlan u then 72 else 35

/-- The data channel, in units of 10 kHz. -/
def dataFreq (u : UhfRec) : Nat := if usPlan u then 91500 else 86830

/-- The frequency of tone `k`, in units of 10 kHz. -/
def toneFreq (u : UhfRec) (k : Nat) : Nat := if usPlan u then 90275 + 35 * k else 86310 + 20 * k

/-! ### Phases (R284, R285) -/

/-- The record's entry of a chain. -/
def chainRec (u : UhfRec) (k : Nat) : Option UhfChain := u.chains.find? (fun c => c.chain == k)

/-- The phase of a frequency over a path, in 2^-24 of a cycle: the frequency in 10 kHz, the path in 10^-6 cm; c is 299,792,458 m/s. -/
def pathPhase (f path : Nat) : Nat := f * 10 ^ 4 * path * 2 ^ 24 / (299792458 * 10 ^ 8)

/-- The phase of a frequency over a delay in units of 10 ps. -/
def delayPhase (f t : Nat) : Nat := f * 10 ^ 4 * t * 2 ^ 24 / 10 ^ 11

/-- A phase between half a cycle below and above 0. -/
def wrapPhase (x : Int) : Int := let r := x % 2 ^ 24; if r < 2 ^ 23 then r else r - 2 ^ 24

/-- The two-way phase Φ of a tone and a receiving chain (R284). -/
def twoWayPhase (u : UhfRec) (q : FitReq) (tx rx : UhfChain) (x : PhaseSeen) : Int :=
  65536 * byteAt q.ph x.tone + 256 * x.psi - 65536 * rx.calPhase - delayPhase (toneFreq u x.tone) (tx.calDelay + rx.calDelay)

/-- The model's phase of a tone at a position (R285). -/
def modelPhase (u : UhfRec) (tx rx : UhfChain) (k : Nat) (p : Pos) : Nat :=
  pathPhase (toneFreq u k) (lengthOf p (tx.x, tx.y, tx.z) + lengthOf p (rx.x, rx.y, rx.z))

/-- The pairs of chain and tone that are used: an SNR of at least 6 dB (R284). -/
def usedPairs (u : UhfRec) (fit : FitResult) : List PhaseSeen :=
  fit.phases.filter (fun x => decide (6 ≤ x.snr) && decide (x.tone < planTones u) && (chainRec u x.chain).isSome)

/-- The fit's residual of a pair, in 2^-24 of a cycle. -/
def residual (u : UhfRec) (q : FitReq) (fit : FitResult) (p : Pos) (x : PhaseSeen) : Int :=
  match chainRec u q.tx, chainRec u x.chain with
  | some tx, some rx =>
    wrapPhase (twoWayPhase u q tx rx x - modelPhase u tx rx x.tone p - 256 * (nth 0 fit.consts x.chain : Nat))
  | _, _ => 0

/-- The mean square of the residuals: RESID is its root. -/
def residSquare (u : UhfRec) (q : FitReq) (fit : FitResult) (p : Pos) : Nat :=
  let l := usedPairs u fit
  if l = [] then 0 else (l.foldl (fun a x => a + sq (residual u q fit p x)) 0) / l.length

/-- A position and the chains' constants are a fit of the phases: no step of 1 cm along an axis and no step of one constant brings the
residual lower (R285; log entry 110). -/
def isFit (u : UhfRec) (q : FitReq) (fit : FitResult) (p : Pos) : Bool :=
  let at_ := residSquare u q fit p
  let near : List Pos := [(p.1 + 1, p.2.1, p.2.2), (p.1 - 1, p.2.1, p.2.2), (p.1, p.2.1 + 1, p.2.2), (p.1, p.2.1 - 1, p.2.2),
    (p.1, p.2.1, p.2.2 + 1), (p.1, p.2.1, p.2.2 - 1)]
  let used := (List.range 8).filter (fun k => (usedPairs u fit).any (fun x => x.chain == k))
  near.all (fun y => decide (at_ ≤ residSquare u q fit y)) &&
    used.all (fun k => [1, 2 ^ 16 - 1].all (fun d =>
      decide (at_ ≤ residSquare u q { fit with consts := (List.range 8).map (fun i =>
        if i = k then (nth 0 fit.consts i + d) % 2 ^ 16 else nth 0 fit.consts i) } p)))

/-- RESID reaches no further than `deg` degrees. -/
def residWithin (ms deg : Nat) : Bool := decide (ms * 360 ^ 2 ≤ (deg * 2 ^ 24) ^ 2)

/-- RESID in degrees, to the nearest. -/
def residDegrees (ms : Nat) : Nat := (root (ms * 720 ^ 2) + 2 ^ 24) / 2 ^ 25

/-- The chains with at least 60 % of the plan's tones used (R285). -/
def wideChains (u : UhfRec) (fit : FitResult) : List Nat :=
  let l := usedPairs u fit
  (List.range 8).filter (fun k => decide (6 * planTones u ≤ 10 * (l.filter (fun x => x.chain == k)).length))

/-- At least four such chains, their tones spanning at least 70 % of the plan's span (R285). -/
def spanOk (u : UhfRec) (fit : FitResult) : Bool :=
  let wide := wideChains u fit
  let tones := ((usedPairs u fit).filter (fun x => wide.contains x.chain)).map (·.tone)
  decide (4 ≤ wide.length) && decide (7 * (planTones u - 1) ≤ 10 * (tones.foldl max 0 - tones.foldl min 100))

/-! ### Fields (R235, R288) -/

/-- 10^(i/20) in units of 10^-30, for i from 0 to 19. -/
def rootTable : List Nat :=
  [1000000000000000000000000000000, 1122018454301963435591038946477, 1258925411794167210423954106395,
   1412537544622754302155607863930, 1584893192461113485202101373391, 1778279410038922801225421195192,
   1995262314968879601352455396739, 2238721138568339611954950852465, 2511886431509580111085032067799,
   2818382931264453819101923699155, 3162277660168379331998893544432, 3548133892335754584332187022644,
   3981071705534972507702523050877, 4466835921509631185562505243193, 5011872336272722850015541868849,
   5623413251903490803949510397764, 6309573444801932494343601366223, 7079457843841379108022149421893,
   7943282347242815020659182828363, 8912509381337455299531086810782]

/-- The power a field value v stands for, relative to that of v = 0: 10^(v/20) (R235). -/
def fieldPower (v : Nat) : Nat := nth 0 rootTable (v % 20) * 10 ^ (v / 20)

/-- The total magnitude of a slot's three field values, as a power (R235). -/
def slotPower (fv : Bytes) : Nat := (fv.map (fun b => fieldPower b.toNat)).foldl (· + ·) 0

/-- The direction of AXIS (R221). -/
def axisOf (a : Nat) : Pos :=
  if a = 0 then (1, 0, 0) else if a = 1 then (-1, 0, 0) else if a = 2 then (0, 1, 0) else if a = 3 then (0, -1, 0)
  else if a = 4 then (0, 0, 1) else (0, 0, -1)

/-- The field of an ideal dipole in a channel's place at `p`, by component, for an on-axis field `h1` at 1 m (R288): in Cartesian form
h1 ÷ 2 × (3 (m·r) r − r² m) ÷ r⁵ with r in metres. -/
def dipole (h1 : Nat) (c : LfChan) (p : Pos) : Pos :=
  let x := p.1 - c.x
  let y := p.2.1 - c.y
  let z := p.2.2 - c.z
  let m := axisOf c.axis
  let along := m.1 * x + m.2.1 * y + m.2.2 * z
  let r2 : Int := (sq x + sq y + sq z : Nat)
  let den : Int := 2 * r2 * r2 * (root (r2.toNat * 10 ^ 8) : Nat)
  let comp := fun (v u : Int) => (h1 : Int) * 10 ^ 10 * (3 * along * v - r2 * u) / den
  (comp x m.1, comp y m.2.1, comp z m.2.2)

/-- The field of a driven channel at `p` with the phase it is driven in: LF_HREF scaled by duty ÷ 32 (R288). -/
def driveField (l : LfRec) (u : UhfRec) (p : Pos) (d : Nat × Nat × Nat) : Option (Pos × Nat) :=
  match l.chans.find? (fun c => c.ch == d.1), u.lfHref.find? (fun e => e.1 == d.1) with
  | some c, some e => some (dipole (root (fieldPower e.2) * d.2.1 / 32) c p, d.2.2)
  | _, _ => none

/-- The magnitude predicted at `p`, as a power: the dipole vectors summed with their phases (R288). -/
def predicted (l : LfRec) (u : UhfRec) (drive : List (Nat × Nat × Nat)) (p : Pos) : Nat :=
  let fs := drive.filterMap (driveField l u p)
  let part := fun (f : Pos → Int) (turn : Nat) => sq (fs.foldl (fun a x => a + f x.1 * cos256 (x.2 + turn)) 0)
  let both := fun (f : Pos → Int) => part f 0 + part f 192
  (both (·.1) + both (·.2.1) + both (·.2.2)) / 2 ^ 40

/-- Two magnitudes lie within `tol` dB of each other. -/
def withinDb (tol a b : Nat) : Bool :=
  decide (a * 10 ^ 30 ≤ b * fieldPower (2 * tol)) && decide (b * 10 ^ 30 ≤ a * fieldPower (2 * tol))

/-- A position is a driven channel's own place, where the dipole has no field. -/
def atAntenna (l : LfRec) (drive : List (Nat × Nat × Nat)) (p : Pos) : Bool :=
  drive.any (fun d => l.chans.any (fun c => c.ch == d.1 && p == (c.x, c.y, c.z)))

/-- Every slot's magnitude lies within LF_TOL of its prediction at `p` (R289). -/
def slotsOk (l : LfRec) (u : UhfRec) (q : FitReq) (p : Pos) : Bool :=
  !atAntenna l q.drive p &&
    (List.range q.m).all (fun i => withinDb u.lfTol (slotPower (slice q.fv (3 * i) 3)) (predicted l u q.drive p))

/-! ### Azimuth (R289, R298) -/

/-- The azimuth of `p` from the antenna centroid, the mean of ANT_X and of ANT_Y over the fitted chains (R298). -/
def azimuthOf (u : UhfRec) (p : Pos) : Nat :=
  let n : Int := (u.chains.length : Nat)
  azimuth (n * p.1 - u.chains.foldl (fun a c => a + c.x) 0) (n * p.2.1 - u.chains.foldl (fun a c => a + c.y) 0)

end Sys2Proof.Machine
end

