-- ==== Sys2Proof/Machine/Prox.lean ====
section
/-! DEFINITION. Token frames and their checks (R237–R243, R251, R269, R272, R282, R287, R289), tracks and the location
record (R294, R295, R298). -/

namespace Sys2Proof.Machine

/-! ### Frames (R269, R272, R273) -/

/-- Check 1 of R241: sync found, LEN from 1 to 96, CRC right. -/
def frameValid (f : TokenFrame) : Bool :=
  f.sync && decide (1 ≤ f.len) && decide (f.len ≤ 96) && f.payload.length == f.len &&
    f.crc == crc16 (le 1 f.len ++ f.payload)

def ptype (f : TokenFrame) : Nat := byteAt f.payload 0
def frameTid (f : TokenFrame) : Nat := beAt f.payload 1 4
def frameTcnt (f : TokenFrame) : Nat := beAt f.payload 5 4

/-- CAL_DELAY of a chain, in 10 ps. -/
def calDelayOf (s : State) (k : Nat) : Nat :=
  match uhfRec s with
  | some u => ((chainRec u k).map (·.calDelay)).getD 0
  | none => 0

/-- T_m, ns: the turnaround measured at the balls, its ends referred to the antenna plane. The trigger's end reaches the antenna the sending
chain's CAL_DELAY later than its balls, and the frame's start was at the antenna the receiving chain's CAL_DELAY before it was at its
balls (R272). -/
def antennaTurn (s : State) (f : TokenFrame) : Int :=
  (100 * f.turn - (calDelayOf s ((chainsUp s).headD 0) + calDelayOf s f.chain : Nat)) / 100

/-- Check 6 of R241 (R272). -/
def turnOk (t : Int) : Bool := decide (31750 ≤ t) && decide (t ≤ 32250)

/-! ### Token keys and counters (R238, R249, R251) -/

def nearEntry (s : State) (tid : Nat) : Option NearEntry :=
  if s.radio.nearUsable then s.radio.near.find? (fun e => e.tid == tid) else none

/-- Check 3 of R241: the key of a TID on the Near list or, outside Parked, of one the key engine can derive. -/
def tokenKeyOf (s : State) (tid : Nat) : Option Bytes :=
  match nearEntry s tid with
  | some e => some e.key
  | none => if s.pwr.mode != .parked && vaultOk s then some (tokenKey s tid) else none

/-- The last TCNT accepted for a TID. -/
def lastTcnt (s : State) (tid : Nat) : Nat :=
  match nearEntry s tid with
  | some e => e.tcnt
  | none => tabGet 0 s.radio.tcnts tid

/-- Takes a TCNT (R242). -/
def setTcnt (tid v : Nat) : State → State :=
  modRadio (fun b => { b with
    near := b.near.map (fun e => if e.tid = tid then { e with tcnt := v } else e), tcnts := tabSet 0 b.tcnts tid v })

/-- Takes a TCNT and writes it to the ledger before anything else is done with its frame (R251): in a TCNT record. -/
def recordTcnt (tid v : Nat) (s : State) : State := tryLog (.tcnt tid v) (setTcnt tid v s)

/-- An accepted TCNT can be written. -/
def canTakeTcnt (s : State) : Bool := canLog (.tcnt 0 0) s

def lfEvent (i : Nat) : State → State := modRadio (fun b => { b with lfEvents := setBits b.lfEvents i })
def uhfEvent (i : Nat) : State → State := modRadio (fun b => { b with uhfEvents := setBits b.uhfEvents i })

/-- Check 4 or 5 fails: an ACCESS record marked AUTH_FAIL, at most one per TID in 10 s (R242). -/
def authFail (tid tcnt : Nat) (s : State) : State :=
  let recent := match tabFind s.radio.authFailAt tid with
    | some t => decide (monoUs s < t + 10000000)
    | none => false
  lfEvent 3 (if recent then s else
    modRadio (fun b => { b with authFailAt := tabPut b.authFailAt tid (monoUs s) })
      (logPart { kind := 0x08, tid := tid, tcnt := tcnt } s))

/-- Check 6 or 7 fails, or two replies carry one TID: an ACCESS record marked RELAY_SUSPECT with the TCNT (R242, R243). -/
def relaySuspect (tid : Nat) (s : State) : State :=
  lfEvent 2 (logPart { kind := 0x07, tid := tid, tcnt := lastTcnt s tid } s)

/-- The consistency check of R289 fails, the turnaround's bound included. -/
def inconsistent (tid : Nat) (s : State) : State :=
  uhfEvent 4 (modRadio (fun b => { b with cntRelay := b.cntRelay + 1 }) (relaySuspect tid s))

/-- An authenticated token is seen: the dormancy count is zero, and a wake window has its token (R90, R92, R241). -/
def tokenSeen (s : State) : State :=
  modPwr (fun p => { p with dormHours := 0, hourAt := monoUs s + 3600000000, windowToken := p.windowToken || p.window.isSome }) s

/-! ### Checks of a reply (R241) -/

/-- VWP in force. -/
def vwp (s : State) : Nat := ((lfRec s).map (fun l => l.vwp.toNat)).getD 0

/-- The first of checks 2 to 5 that a challenge reply fails, 0 when it passes them: `cmd` is the CMD and ARG byte. -/
def replyCheck (s : State) (m cmd : Nat) (nonce : Bytes) (f : TokenFrame) : Nat :=
  let p := f.payload
  if !(ptype f == 1 && p.length == 19 + 3 * m && byteAt p 10 == m) then 2
  else match tokenKeyOf s (frameTid f) with
    | none => 3
    | some k =>
      if frameTcnt f ≤ lastTcnt s (frameTid f) then 4
      else if (cmac k (be 2 (vwp s) ++ le 1 cmd ++ nonce ++ p.take (11 + 3 * m))).take 8 == slice p (11 + 3 * m) 8 then 0
      else 5

/-- The first of checks 2 to 5 that a SOUND_REPORT fails (R282). -/
def reportCheck (s : State) (first count : Nat) (nonce : Bytes) (f : TokenFrame) : Nat :=
  let p := f.payload
  if !(ptype f == 3 && p.length == 19 + count && byteAt p 9 == first && byteAt p 10 == count) then 2
  else match tokenKeyOf s (frameTid f) with
    | none => 3
    | some k =>
      if frameTcnt f ≤ lastTcnt s (frameTid f) then 4
      else if (cmac k (be 2 (vwp s) ++ nonce ++ p.take (11 + count))).take 8 == slice p (11 + count) 8 then 0
      else 5

/-- The total magnitude of a slot's three field values lies from PE_MIN to PE_MAX (R235, check 7 of R241 in Parked). -/
def magnitudeOk (peMin peMax : Nat) (fv : Bytes) : Bool :=
  decide (fieldPower peMin ≤ slotPower fv) && decide (slotPower fv ≤ fieldPower peMax)

/-- Check 7 of R241 in Parked, for a HANDLE reply: the window of the handle antenna driven. -/
def handleCheck (s : State) (ch : Nat) (f : TokenFrame) : Bool :=
  match (lfRec s).bind (fun l => l.chans.find? (fun c => c.ch == ch)) with
  | some c => magnitudeOk c.peMin c.peMax (slice f.payload 11 3)
  | none => false

/-! ### Positions (R285, R287, R289) -/

def inRange (u : UhfRec) (p : Pos) : Bool := decide (sq p.1 + sq p.2.1 + sq p.2.2 ≤ u.rangeMax * u.rangeMax)

/-- The chains in service with which something was measured. -/
def heardBy (s : State) (fit : FitResult) : List Nat :=
  (chainsUp s).filter (fun k => fit.phases.any (fun x => x.chain == k))

/-- The chains that an operation used: of a sounding those with a used pair, otherwise those that received the reply (R298). -/
def chainsUsed (s : State) (u : UhfRec) (q : FitReq) (fit : FitResult) : List Nat :=
  if q.sounded then (List.range 8).filter (fun k => (usedPairs u fit).any (fun x => x.chain == k)) else heardBy s fit

/-- The position a fit produces: for a sounding the one that fits the phases, under the three conditions of R285, otherwise under those of
R287. -/
def fitPos (s : State) (u : UhfRec) (q : FitReq) (fit : FitResult) : Option Pos :=
  match fit.pos with
  | none => none
  | some p =>
    if q.sounded then (if spanOk u fit && inRange u p && isFit u q fit p then some p else none)
    else if 2 ≤ q.m ∧ 4 ≤ (heardBy s fit).length then some p else none

/-- The conditions of R289 on a produced position; the turnarounds are check 6. -/
def consistent (s : State) (u : UhfRec) (q : FitReq) (fit : FitResult) (p : Pos) : Bool :=
  inRange u p && (!q.sounded || residWithin (residSquare u q fit p) 40) &&
    (q.m == 0 || (match lfRec s with | some l => slotsOk l u q p | none => false)) &&
    (q.sounded || decide (azApart fit.azReply (azimuthOf u p) ≤ 200))

/-- The median SNR of an operation, dB: of the phases measured in a sounding, otherwise of the reply. -/
def snrOf (q : FitReq) (fit : FitResult) : Nat :=
  if q.sounded then median (fit.phases.map (fun x => min 255 x.snr)) else min 255 q.snr

/-! ### Tracks (R294, R295) -/

def trackOf (s : State) (tid : Nat) : Option Track := s.radio.tracks.find? (fun t => t.tid == tid)

/-- Rounds the quotient of an integer and a positive number to the nearest integer. -/
def roundDiv (a : Int) (b : Nat) : Int := (2 * a + b) / (2 * b)

/-- A coordinate weighted by inverse variance. -/
def weigh (a b : Int) (sa sb : Nat) : Int :=
  if sa * sa + sb * sb = 0 then b else roundDiv (a * (sb * sb : Nat) + b * (sa * sa : Nat)) (sa * sa + sb * sb)

/-- The position and SIGMA of a track once a new position is in (R294). -/
def mergePos (now : Nat) (old : Option Track) (p : Pos) (sigma : Nat) : Pos × Nat :=
  match old with
  | none => (p, sigma)
  | some t =>
    match t.pos with
    | none => (p, sigma)
    | some o =>
      let d2 := sq (p.1 - o.1) + sq (p.2.1 - o.2.1) + sq (p.2.2 - o.2.2)
      if d2 ≤ 9 * t.sigma * t.sigma ∧ now < t.tMeas + 1000000 then
        ((weigh o.1 p.1 t.sigma sigma, weigh o.2.1 p.2.1 t.sigma sigma, weigh o.2.2 p.2.2 t.sigma sigma),
          if t.sigma * t.sigma + sigma * sigma = 0 then 0
          else Nat.sqrt (t.sigma * t.sigma * sigma * sigma / (t.sigma * t.sigma + sigma * sigma)))
      else (p, sigma)

/-- A fitted chain is out of service (CHAINS_REDUCED). -/
def chainsReduced (s : State) : Bool := (List.range 8).any (fun k => fitted s pUhf k && !uhfUp s k)
/-- One synthesiser alone is in service (ONE_SYNTH). -/
def oneSynth (s : State) : Bool := (unitSt s uSyn 0 == .up) != (unitSt s uSyn 1 == .up)

/-- QUAL but for NOTRACK (R295): `ms` is the mean square of the residuals. -/
def qualOf (s : State) (q : FitReq) (fit : FitResult) (ms : Nat) (new held : Bool) (src : Nat) (pri : Bool) : Nat :=
  (if new then (if q.sounded then 1 else 2) else if held then src + 512 else 4) +
    8 * ofBool (decide (snrOf q fit < 10)) +
    16 * ofBool (new && q.sounded && decide ((25 * 2 ^ 24) ^ 2 ≤ ms * 360 ^ 2) && residWithin ms 40) +
    32 * ofBool (chainsReduced s) + 64 * ofBool (oneSynth s) + 128 * ofBool pri + 256 * ofBool q.split

/-- The track as the result of an operation leaves it (R287, R292, R294, R295, R298). -/
def fuse (s : State) (u : UhfRec) (q : FitReq) (fit : FitResult) (pos : Option Pos) (pri : Bool) : Track :=
  let old := trackOf s q.tid
  let ms := if q.sounded then (pos.map (residSquare u q fit)).getD 0 else 0
  let used := usedPairs u fit
  let base : Track := {
    tid := q.tid, snr := snrOf q fit, resid := min 255 (residDegrees ms), turn := q.turn - 32000,
    chains := (chainsUsed s u q fit).foldl (fun a k => a + 2 ^ k) 0
    tones := if q.sounded then ((List.range (planTones u)).filter (fun k => used.any (fun x => x.tone == k))).length else 0
    tMeas := monoUs s, updated := monoUs s }
  match pos with
  | some p =>
    let m := mergePos (monoUs s) old p fit.sigma
    { base with
      pos := some m.1, sigma := m.2, zone := assignZone s ((old.map (·.zone)).getD 0xFF) m.1
      mask := zoneMask s m.1, qual := qualOf s q fit ms true false 0 pri, az := azimuthOf u m.1 }
  | none =>
    match old with
    | none => { base with qual := qualOf s q fit 0 false false 0 pri }
    | some t =>
      { base with
        pos := t.pos, sigma := t.sigma, zone := t.zone, mask := t.mask, az := t.az, tMeas := t.tMeas
        qual := qualOf s q fit 0 false t.pos.isSome (t.qual % 4) pri }

/-- Enters a track. With 64 in use the one updated longest ago outside CAB zones makes room; where there is none the
result carries NOTRACK (R294). Answers the track as the result shows it. -/
def putTrack (t : Track) (s : State) : Track × State :=
  let others := s.radio.tracks.filter (fun x => x.tid != t.tid)
  if (trackOf s t.tid).isSome || decide (others.length < 64) then
    (t, modRadio (fun b => { b with tracks := others ++ [t] }) s)
  else
    let out := (others.filter (fun x => !isCabZone s x.zone)).foldl (fun (best : Option Track) x => match best with
      | none => some x
      | some y => if x.updated < y.updated then some x else some y) none
    match out with
    | some v => (t, modRadio (fun b => { b with tracks := others.filter (fun x => x.tid != v.tid) ++ [t] }) s)
    | none => ({ t with qual := t.qual + 1024 }, uhfEvent 6 s)

/-! ### What a token's passing does (R241, R246, R304, R319) -/

def modPres (tid : Nat) (f : Pres → Pres) : State → State :=
  modRadio (fun b => { b with pres := tabPut b.pres tid (f (tabGet {} b.pres tid)) })

/-- A reply has passed R241: the token is seen and present, the bound token is back, and a start-permitted token in a CAB
zone arms the lock. -/
def tokenPassed (tid zone : Nat) (s : State) : State :=
  let s := modRadio (fun b => { b with cntRxOk := b.cntRxOk + 1 }) (tokenSeen s)
  let s := tokenBack tid (modPres tid (fun _ => {}) s)
  onlyIf (isCabZone s zone && tokenPermit s tid == some true) (tokenInCab tid) s

/-! ### The location record (R298) -/

def coord (p : Option Pos) (f : Pos → Int) : Bytes := match p with
  | some x => le 2 (unsigned 16 (f x))
  | none => le 2 0x8000

def locationRecord (s : State) (t : Track) : Bytes :=
  le 4 t.tid ++ coord t.pos (·.1) ++ coord t.pos (·.2.1) ++ coord t.pos (·.2.2) ++ le 2 (min 0xFFFF t.sigma) ++
    le 1 t.zone ++ le 1 (tabGet {} s.radio.pres t.tid).st ++ le 2 t.mask ++ le 2 t.qual ++ le 1 t.snr ++ le 1 t.resid ++
    le 4 (unsigned 32 t.turn) ++ le 1 t.chains ++ le 1 t.tones ++ le 2 (if t.pos.isSome then t.az else 0xFFFF) ++
    le 4 (lastTcnt s t.tid) ++ le 8 t.tMeas ++ zeros 24

/-- RESULT of a LOCATE (R296). -/
def locateResult (t : Track) : Nat :=
  fromLE (coord t.pos (·.1) ++ coord t.pos (·.2.1) ++ coord t.pos (·.2.2) ++ le 1 t.zone)

end Sys2Proof.Machine
end

