-- ==== Sys2Proof/Machine/Polls.lean ====
section
/-! DEFINITION. LF polls, their telegrams and reply windows, UHF triggers, coexistence requests and soundings as the
commands of chapters 7 and 8 use them (R223–R236, R244–R248, R262–R264, R267, R270, R274–R277, R280, R283, R297, R301). -/

namespace Sys2Proof.Machine

/-! ### Timing, ns (R227, R236, R271, R280) -/

def nsWake : Nat := 4128000
def nsResume : Nat := 512000
def nsBit : Nat := 256000
def nsSlot : Nat := 896000
def nsReplySlot : Nat := 4500000

/-- A LOCATE's poll. -/
def isLocate : PollKind → Bool
  | .locate _ => true
  | _ => false

/-- The descriptor a poll works for. -/
def pollOp : PollKind → Option Nat
  | .locate r => some r
  | _ => none

/-- Bits of a poll's telegram: VWP, CMD, ARG, body, CRC (R232, R233). -/
def teleBits (p : Poll) : Nat := if p.measure then 64 else if isLocate p.kind then 112 else 80
def teleUnits (p : Poll) : Nat := teleBits p + p.m

/-- The next segment starts with the wake sync mark: the first one, but for a MEASURE, which follows on (R229, R233). -/
def wakeMark (p : Poll) : Bool := p.sent == 0 && !p.measure

/-- Duration of a segment: its mark and `k` units from unit `sent` on. -/
def segDur (p : Poll) (k : Nat) : Nat :=
  let b := min k (teleBits p - p.sent)
  (if wakeMark p then nsWake else nsResume) + nsBit * b + nsSlot * (k - b)

/-- The largest count of units whose segment lasts no more than `longest`. -/
def fitUnits (p : Poll) (longest : Nat) : Nat :=
  ((List.range (teleUnits p - p.sent + 1)).filter (fun k => decide (segDur p k ≤ longest))).foldl max 0

/-- The CMD and ARG byte (R233). -/
def cmdArg (p : Poll) : Nat :=
  if p.measure then 0x30 + p.m
  else if isLocate p.kind then 0x20 + p.m
  else 0x10 + 4 * (if p.n = 1 then 0 else if p.n = 2 then 1 else if p.n = 4 then 2 else 3) + p.m

/-- The TID a LOCATE names. -/
def locateTid (s : State) (r : Nat) : Nat := ((getFlight s r).map (fun f => fieldLE f.raw 24 4)).getD 0

/-- The bytes of a telegram, its CRC last (R232, R233). -/
def teleBytes (s : State) (p : Poll) : Bytes :=
  let body := if p.measure then be 4 p.tid else if isLocate p.kind then be 4 p.tid ++ p.nonce else p.nonce
  let head := be 2 (vwp s) ++ le 1 (cmdArg p) ++ body
  head ++ le 1 (crc8 head)

/-- The bits of a byte string, most significant first. -/
def bitsOf (bs : Bytes) : List Bool := bs.flatMap (fun b => (List.range 8).map (fun i => b.getLsbD (7 - i)))

/-- The carrier of a mark, a bit and a measurement slot: runs on or off, in µs (R227). -/
def markRuns (wake : Bool) : List (Bool × Nat) := [(true, if wake then 4000 else 384), (false, 128)]
def bitRuns (b : Bool) : List (Bool × Nat) := [(b, 128), (!b, 128)]
def slotRuns : List (Bool × Nat) := [(false, 128), (true, 768)]

/-- LF_CARRIER in units of 0.1 kHz (R221). -/
def carrierOf (s : State) : Nat := 1190 + ((lfRec s).map (·.carrier)).getD 0

/-- What a telegram's channels are driven with, but for those that have left service (R248). -/
def liveDrive (s : State) (p : Poll) : List (Nat × Nat × Nat) := p.drive.filter (fun d => lfUp s d.1)

/-- What a segment of `k` units emits (R223, R224, R227). -/
def segOut (s : State) (p : Poll) (k : Nat) : Out :=
  let b := min k (teleBits p - p.sent)
  .lf (carrierOf s) (liveDrive s p)
    (markRuns (wakeMark p) ++ (((bitsOf (teleBytes s p)).drop p.sent).take b).flatMap bitRuns ++
      (List.replicate (k - b) slotRuns).flatten)

/-- A telegram is going out: until the end of its last segment. -/
def telegramOn (s : State) (p : Poll) : Bool := p.phase == .telegram || (p.phase == .slots && decide (s.clk.ns < p.lastEnd))

/-- The carrier of the segment on air stops at once: every bridge switch is off (R225, R230). -/
def stopCarrier (p : Poll) (s : State) : State :=
  onlyIf (p.sent != 0 && decide (s.clk.ns < p.lastEnd)) (emit (.lfStop (s.clk.ns - p.segAt))) s

/-! ### Channels (R224, R244) -/

def chansAt (s : State) (locs : List Nat) : List Nat :=
  ((List.range 48).filter (fun i => lfUp s i && (match lfLoc s i with
    | some l => locs.contains l
    | none => false))).take 3

/-- The channels that a poll drives: the handle antenna, the tractor exterior, or the cab and sleeper interior; for a
LOCATE, those of the zone the token was last in. -/
def pollChans (s : State) (k : PollKind) : List Nat :=
  match k with
  | .handle z => match zoneById s z with
    | some y => if lfUp s y.handleLf then [y.handleLf] else []
    | none => []
  | .approach => chansAt s [2]
  | .presence => chansAt s [0, 1]
  | .locate r =>
    match (trackOf s (locateTid s r)).bind (fun t => zoneById s t.zone) with
    | some z => if z.door && lfUp s z.handleLf then [z.handleLf]
                else if z.exterior then chansAt s [2] else chansAt s [0, 1]
    | none => chansAt s [0, 1]

/-! ### Coexistence (R274–R278) -/

/-- The fitted pairs whose COEX_USE covers an activity: 0 triggers and replies, 1 sounding. In Parked the lines are
unpowered. -/
def coexPairs (s : State) (act : Nat) : List Nat :=
  match uhfRec s with
  | none => []
  | some u => if s.pwr.mode = .parked then []
              else (List.range 2).filter (fun m => portUp s pCoex m && (nth 0 u.coexUse m).getLsbD act)

def pairMask (l : List Nat) : BitVec 2 := BitVec.ofNat 2 (l.foldl (fun a m => a + 2 ^ m) 0)

/-- COEX_REQ0 and COEX_REQ1 are package outputs 20 and 21; without VIO18 nothing drives them (R56). -/
def driveReq (v : BitVec 2) (s : State) : State :=
  each [0, 1] (fun m t => if v.getLsbD m = s.radio.coexReq.getLsbD m || !vio18 s then t
    else emit (.pin (20 + m) (ofBool (v.getLsbD m))) t) (modRadio (fun b => { b with coexReq := v }) s)

/-- COEX_PRI is package output 22. -/
def drivePri (v : Bool) (s : State) : State :=
  if s.radio.coexPri = v then s else onlyIf (vio18 s) (emit (.pin 22 (ofBool v))) (modRadio (fun b => { b with coexPri := v }) s)

/-- Asks for the air for an activity: the requests of its pairs are up, those of others are not, and the poll waits for the grants that
it does not hold already. -/
def coexRaise (act : Nat) (p : Poll) (s : State) : State :=
  let want := pairMask (coexPairs s act)
  let keep := p.asked && p.granted && (want &&& s.radio.coexReq) == want
  let p := if want = 0 then { p with asked := false, granted := true, actAt := none }
    else { p with asked := true, granted := keep, askedAt := monoUs s, actAt := if keep then p.actAt else none }
  driveReq want (modRadio (fun b => { b with poll := some p }) s)

/-- Lowers the requests after an activity's last emission. -/
def coexDrop (s : State) : State := driveReq 0 s

/-- An emission that ends at `t` would pass the 50 ms for which a request may be held from the activity's first emission on (R274). -/
def coexSpent (p : Poll) (t : Nat) : Bool := p.asked && p.actAt.any (fun a => decide (a + 50000000 < t))

/-- The request is lowered and raised again: what is left is an activity of its own (R274). -/
def coexAnew (act : Nat) (p : Poll) (s : State) : State := coexRaise act { p with asked := false, plan := [], waits := 0x24 } (coexDrop s)

/-- The poll's activity begins with an emission at `t`, if it has not begun. -/
def actFrom (p : Poll) (t : Nat) : Poll := { p with actAt := some (p.actAt.getD t) }

/-! ### Emissions and the duty limit (R264) -/

/-- Emission of the last 3,600 s, µs. -/
def dutySum (s : State) : Nat :=
  (s.radio.emissions.filter (fun e => decide (monoUs s < e.1 + 3600000000))).foldl (fun a e => a + e.2) 0

/-- An emission of `us` may start. -/
def dutyAllows (us : Nat) (s : State) : Bool :=
  match uhfRec s with
  | some u => u.txDuty == 0 || decide (dutySum s + us ≤ u.txDuty * 360000)
  | none => false

def countEmission (us : Nat) (s : State) : State :=
  modRadio (fun b => { b with
    emissions := b.emissions.filter (fun e => decide (monoUs s < e.1 + 3600000000)) ++ [(monoUs s, us)] }) s

/-- The bytes of a trigger (R270). -/
def triggerBytes (s : State) (body : Nat) : Bytes :=
  be 2 0xAAAA ++ be 2 0x6B1D ++ be 2 body ++ le 1 (crc8 (be 2 (vwp s) ++ be 2 body))

/-- Power at a chain's RFOUT ball in half dB above −20 dBm: the code less the chain's UHF_PA_GAIN (R263). -/
def rfout (s : State) (code k : Nat) : Nat := code - ((board s).map (fun b => nth 0 b.paGain k)).getD 0

/-- UHFk_TRSW is package output 30 + k: high while chain k emits `o`, low while it receives (R59, R262). -/
def onChain (k : Nat) (o : Out) (s : State) : State := emit (.pin (30 + k) 0) (emit o (emit (.pin (30 + k) 1) s))

/-- A trigger as a chain sends it, on the data channel. -/
def triggerOut (s : State) (k body : Nat) : Out :=
  match uhfRec s with
  | some u => .trigger k (dataFreq u) (rfout s u.txpData k) (triggerBytes s body)
  | none => .trigger k 0 0 (triggerBytes s body)

/-- Sends a trigger on the lowest-numbered chain in service: settle and 560 µs. -/
def sendTrigger (body : Nat) (s : State) : State :=
  match chainsUp s with
  | [] => s
  | k :: _ => onChain k (triggerOut s k body) (countEmission 574 s)

/-! ### Starting a poll -/

/-- Whether tokens can be polled at all (R248, R490): a channel is in service and the key engine and the random source can serve. A passive
entry needs UHF0 too (R261), and no PRESENCE poll starts once the sluice has stopped admission. -/
def canPoll (s : State) (k : PollKind) : Bool :=
  s.pwr.vaon && secReady s && pollChans s k != [] && s.pwr.dorming.isNone && (match k with
    | .handle _ => chainsUp s != []
    | .presence => s.pwr.parking == .none
    | .approach | .locate _ => true)

/-- What channels are driven with, from free bytes: a duty of 2 to 32 sixty-fourths and a phase (R223, R224). -/
def drawDrive (chans : List Nat) (bs : Bytes) : List (Nat × Nat × Nat) :=
  (List.range chans.length).map (fun i => (nth 0 chans i, 2 + byteAt bs (2 * i) % 31, byteAt bs (2 * i + 1)))

/-- A spare sense path found necessary late in a telegram is in use from the next one on (R226). -/
def takeSpare (ch : Nat) : State → State :=
  modRadio (fun b => { b with lfCh := tabModify {} b.lfCh ch (fun x => { x with spare := x.spare || x.spareNext, spareNext := false }) })

/-- Some channel is on its spare sense path. -/
def onSpare (s : State) (chans : List Nat) : Bool := chans.any (fun c => (tabGet ({} : LfState) s.radio.lfCh c).spare)

/-- Puts a telegram on air from its mark on: the duties are regulated there and held until it ends (R225). -/
def keyTelegram (p : Poll) (s : State) : State :=
  let bs := freeBytes s (2 * p.chans.length)
  let s := each p.chans takeSpare s
  modRadio (fun b => { b with
    poll := some { p with phase := .telegram, sent := 0, drive := drawDrive p.chans bs, spare := onSpare s p.chans } })
    (drawn (2 * p.chans.length) s)

/-- Begins a telegram with a fresh nonce and a new wake sync mark (R229, R234). In Parked the nonce is delivered within 20 ms, at a time
that no rule states (a free value). -/
def beginTelegram (p : Poll) (s : State) : State :=
  let late := if s.pwr.mode = .parked then s.clk.ns + 1000 * (beAt (freeBytes s 2) 0 2 % 20000) else 0
  keyTelegram { p with
    nonce := random (drawn 2 s) 6, lastEnd := s.clk.ns, nonceAt := late, slot := 0, open_ := none, collided := false, tone := 0, bursts := 0,
    plan := [], reports := 0, turn := none, measure := false, held := none } (drew (laneQueue s) 6 (drawn 2 s))

/-- A poll of a kind with N reply slots and m measurement slots. -/
def newPoll (s : State) (k : PollKind) (n m : Nat) : Poll :=
  { kind := k, n := n, m := m, nonce := [], chans := pollChans s k, lastEnd := s.clk.ns,
    tid := match k with | .locate r => locateTid s r | .handle _ | .approach | .presence => 0 }

/-- Starts a poll, when tokens can be polled. -/
def startPoll (k : PollKind) (n m : Nat) (s : State) : State :=
  if canPoll s k then beginTelegram (newPoll s k n m) s else s

/-- Powers the wake slice in Parked, raising PMIC_EN1 (R80), or notes its use (R26); the DRBG is reseeded when the slice
powers (R530). -/
def useSlice (s : State) : State :=
  if s.pwr.mode = .parked then
    modPwr (fun p => { p with slice := some (monoUs s) })
      (onlyIf s.pwr.slice.isNone powerSlice s)
  else s

/-- A wake of the slice in Parked, with its bit of PWR_WAKE_CAUSE; it abandons a Dormant entry (R89, R252). -/
def noteSlice (cause : Nat) (s : State) : State :=
  if s.pwr.mode = .parked then
    modPwr (fun p => { p with wakeCause := setBits p.wakeCause cause, dorming := none }) (useSlice s)
  else s

/-- A HANDLE poll of a door zone (R244, R252), which waits for the wake slice's rails (R82). -/
def startHandle (z : Nat) (s : State) : State :=
  let s := noteSlice 6 s
  if sliceUp s then startPoll (.handle z) 1 1 s else modRadio (fun b => { b with touchNext := some z }) s

def startPresence (s : State) : State :=
  startPoll .presence 8 3 (modRadio (fun b => { b with presenceDue := false, presenceAt := monoUs s }) s)

def startApproach (s : State) : State :=
  let s := useSlice (modRadio (fun b => { b with approachAt := monoUs s }) s)
  let up := sliceUp s
  onlyIf up (startPoll .approach 8 0) (modRadio (fun b => { b with approachDue := !up }) s)

/-- The M of a LOCATE, and whether its MODE is SOUND (R296). -/
def locateM (f : Flight) : Nat := fieldLE f.raw 29 1
def locateSound (f : Flight) : Bool := fieldLE f.raw 28 1 == 1

/-- Ends a LOCATE and takes its traces out of the radio: the requests of its activity fall (R303). -/
def endLocate (r : Nat) (fr : FateRec) (s : State) : State :=
  let s := onlyIf (s.radio.poll.any (fun p => pollOp p.kind == some r)) coexDrop s
  settle r fr (modRadio (fun b => { b with
    poll := match b.poll with
      | some p => if pollOp p.kind = some r then none else some p
      | none => none
    fits := b.fits.filter (fun q => q.op != some r), locates := b.locates.filter (fun x => x.1 != r) }) s)

/-- Puts a LOCATE's challenge on air, or ends it NO_UHF: `n` challenges have been sent, and `waits` is the DETAIL of its bound. While the
part runs on the RC it waits for the chains (R205). -/
def startLocate (n waits r : Nat) (f : Flight) (s : State) : State :=
  if s.clk.onRc then
    modRadio (fun b => { b with poll := none, locates := b.locates.filter (fun x => x.1 != r) ++ [(r, n)] }) s
  else if chainsUp s = [] ∨ pollChans s (.locate r) = [] then endLocate r (failFate fDevice 0x27 f.stage) s
  else beginTelegram { newPoll s (.locate r) 1 (locateM f) with challenges := n, waits := waits } s

/-- A start decision has the next turn on the air: one that waits for its lead, or one that found the air in use (R301). -/
def startHolds (s : State) : Bool :=
  s.radio.startWait.isSome || s.radio.startDue.any (fun r => (getFlight s r).any (fun f => !f.begun && f.fate.isNone))

/-- The next poll: a waiting touch or a poll that fell due, then the waiting LOCATE with the lowest stamp (R164, R244, R252), unless a start
decision has the next turn. A PRESENCE poll that fell due lapses once the sluice has stopped admission (R248). -/
def nextPoll (s : State) : State :=
  if startHolds s then s
  else match s.radio.touchNext with
  | some z => startHandle z (modRadio (fun b => { b with touchNext := none }) s)
  | none =>
    if s.radio.presenceDue && s.pwr.parking == .none then startPresence s
    else if s.radio.approachDue && decide (s.pwr.dormHours < 72) then startApproach s
    else
      let first := s.radio.locates.foldl (fun (best : Option (Nat × Flight)) e => let r := e.1; match getFlight s r, best with
        | some f, none => some (r, f)
        | some f, some b => if servedBefore (r, f) b then some (r, f) else some b
        | none, b => b) none
      match first with
      | some (r, f) =>
        startLocate (((s.radio.locates.find? (fun x => x.1 == r)).map (·.2)).getD 0) 0 r f
          (modRadio (fun b => { b with locates := b.locates.filter (fun x => x.1 != r) }) s)
      | none => s

/-- The air is free again. -/
def pollEnds (s : State) : State := nextPoll (coexDrop (modRadio (fun b => { b with poll := none }) s))

/-! ### A LOCATE whose challenge found no passing reply (R297 step 2, R301) -/

/-- Tries again with a fresh nonce, up to three challenges in all, and otherwise ends AUTH_FAIL or ABSENT. -/
def retryLocate (r : Nat) (p : Poll) (s : State) : State :=
  match getFlight s r with
  | none => pollEnds s
  | some f =>
    if p.challenges < 3 then startLocate p.challenges 0 r f (coexDrop s)
    else
      let fr := if p.failed = 2 ∨ p.failed = 4 ∨ p.failed = 5 then
          { failFate fAuth 0x23 f.stage with result := p.failed } else failFate fAbsent 0x20 f.stage
      pollEnds (endLocate r fr s)

/-- The lane of the poll on air is lost: a LOCATE starts again with a fresh nonce, and any other poll ends (R301, R578). -/
def restartPoll (s : State) : State :=
  match s.radio.poll with
  | some p =>
    let s := stopCarrier p s
    match p.kind with
    | .locate r => retryLocate r { p with challenges := p.challenges - ofBool (p.phase == .slots && telegramOn s p) } s
    | .handle _ | .approach | .presence => pollEnds s
  | none => s

/-- A Parked passive entry ends with no unlock (R100). -/
def passiveEnds (s : State) : State :=
  match s.radio.poll with
  | some p => match p.kind with
    | .handle _ => pollEnds (stopCarrier p s)
    | .approach | .presence | .locate _ => s
  | none => s

/-! ### Deferred and unanswered PRESENCE polls (R231, R246, R319) -/

/-- The tokens whose presence is kept: those with a track or a presence, and the bound token in a release state. -/
def watchedTids (s : State) : List Nat :=
  let l := s.radio.tracks.map (·.tid) ++ s.radio.pres.map (·.1) ++ (if isRelease (latch s) then [s.slk.bound] else [])
  (l.foldl (fun acc t => if acc.contains t || t == 0 then acc else acc ++ [t]) [])

/-- A PRESENCE poll was deferred: after three in a row presence reads UNKNOWN. -/
def presenceDeferred (s : State) : State :=
  each (watchedTids s) (fun tid t =>
    let t := modPres tid (fun p => { p with deferred := p.deferred + 1, st := if 2 ≤ p.deferred then 2 else p.st }) t
    onlyIf (3 ≤ (tabGet {} t.radio.pres tid).deferred) (tokenUnknown tid) t) s

/-- A PRESENCE poll has ended: a token without a passing reply in three in a row is absent. -/
def presenceDone (passed : List Nat) (s : State) : State :=
  each (watchedTids s) (fun tid t =>
    if passed.contains tid then t
    else
      let t := modPres tid (fun p => { p with miss := p.miss + 1, deferred := 0, st := if 2 ≤ p.miss then 1 else p.st }) t
      onlyIf (3 ≤ (tabGet {} t.radio.pres tid).miss) (tokenAbsent tid) t) s

/-! ### Abandoned telegrams (R230) -/

/-- A telegram that went out to its last segment no longer counts as sent when it is abandoned there. -/
def uncount (p : Poll) (s : State) : State :=
  onlyIf (p.phase == .slots) (modRadio (fun b => { b with cntTx := b.cntTx - 1 })) s

/-- The reply to a challenge stands where the MEASURE after it brings none. -/
def heldReply (p : Poll) (s : State) : State :=
  pollEnds (match p.held with
    | some q => modRadio (fun b => { b with fits := b.fits ++ [q] }) s
    | none => s)

/-- A telegram is abandoned: the carrier stops and the event counts it. `noFit`: R229 abandons it, for which a PRESENCE poll counts as
deferred and in LF_CNT_NOFIT (R231). Otherwise a PRESENCE poll is tried again with a new telegram where a channel is left, and counts as
deferred, not as unanswered, where none is (DESIGN CHOICE, log entry 43). A LOCATE starts a new telegram, and its bound ends it; a
MEASURE is given up for the reply that it follows; any other poll ends. -/
def abandonTelegram (noFit : Bool) (p : Poll) (s : State) : State :=
  let s := coexDrop (lfEvent 1 (uncount p (stopCarrier p s)))
  match p.kind with
  | .locate r =>
    if p.measure then heldReply p s
    else match getFlight s r with
      | some f => onlyIf (secReady s) (startLocate (p.challenges - ofBool (p.phase == .slots)) 0x25 r f) s
      | none => pollEnds s
  | .presence =>
    if noFit then pollEnds (presenceDeferred (modRadio (fun b => { b with cntNofit := b.cntNofit + 1 }) s))
    else if canPoll s .presence then beginTelegram { newPoll s .presence p.n p.m with repeated := p.repeated, passed := p.passed } s
    else pollEnds (presenceDeferred s)
  | _ => pollEnds s

/-- The Furrow has cut or withdrawn an LF window (R230). -/
def lfCut (s : State) : State :=
  match s.radio.poll with
  | some p => if telegramOn s p then abandonTelegram false p s else s
  | none => s

/-! ### The sounding plan (R280, R283) -/

/-- Period of a tone exchange, µs: longer with one synthesiser (GAP). -/
def tonePeriod (s : State) : Nat := if oneSynth s then 192 else 160

/-- Duration of a burst, ns. -/
def burstDur (s : State) (count : Nat) : Nat := 1000 * (734 + tonePeriod s * (count - 1))

/-- All remaining tones in as few bursts as can be, of counts as equal as can be, the larger ones first. -/
def equalPlan (rem : Nat) : List Nat :=
  let n := ceilDiv rem 63
  (List.range n).map (fun i => rem / n + ofBool (decide (i < rem % n)))

/-- The largest burst of at most 63 tones that fits `longest`. -/
def largestBurst (s : State) (rem longest : Nat) : Nat :=
  ((List.range (min rem 63 + 1)).filter (fun k => k != 0 && decide (burstDur s k ≤ longest))).foldl max 0

/-- What the part is granted next for `rem` tones: the start and the counts of the bursts; nothing while a switch window
runs, or where nothing fits. -/
def planBursts (s : State) (rem t0 : Nat) : Option (Nat × List Nat) :=
  let all := equalPlan rem
  match furrowGrant s ((all.map (burstDur s)).foldl (· + ·) 0) t0 with
  | .at t => some (t, all)
  | .wait => none
  | .noFit longest =>
    let k := largestBurst s rem longest
    if k = 0 then none
    else match furrowGrant s (burstDur s k) t0 with
      | .at t => some (t, [k])
      | _ => none

/-- A burst of `count` tones from tone `first` on: the SOUND trigger on the data channel, then the exchanges, for each of which UHFk_TRSW rises
and falls (R262, R270, R280). -/
def burstOut (u : UhfRec) (k first count : Nat) (s : State) : State :=
  each (List.range count) (fun i => onChain k (.tone k (toneFreq u (first + i)) (rfout s u.txpTone k) (tonePeriod s)))
    (onChain k (triggerOut s k (0x8000 + 128 * first + 64 * ofBool (oneSynth s) + count)) s)

/-- Emission of a burst, µs: settle, trigger, and a settle of 14 µs and 48 µs of tone for each exchange (R264). -/
def burstUs (count : Nat) : Nat := 574 + 62 * count

/-! ### A burst ended early (R264, R266, R277, R283) -/

/-- Exchanges whose settle has begun `t` ns after the burst began, of a burst with this period, µs: exchange i from 592 µs + i periods on
(R280). -/
def begunTones (period t : Nat) : Nat := if t < 592000 then 0 else (t - 592000) / (1000 * period) + 1

/-- Emission of a burst up to `t` ns from its beginning, µs. `whole`: the trigger or exchange on air is finished (R277). -/
def ranUs (whole : Bool) (period t : Nat) : Nat :=
  let n := begunTones period t
  if n = 0 then (if whole then 574 else min 574 (t / 1000))
  else if whole then burstUs n
  else burstUs (n - 1) + min 62 ((t - 592000 - 1000 * period * (n - 1)) / 1000)

/-- When a burst ends that is cut `t` ns after its beginning, ns from its beginning. -/
def ranNs (whole : Bool) (period t : Nat) : Nat :=
  let n := begunTones period t
  if whole then (if n = 0 then max t 574000 else max t (654000 + 1000 * period * (n - 1))) else t

/-- The burst on air ends now, or with the trigger or exchange on air when `whole`: the rest is not sent, and the sum of R264 counts what was
emitted. `gap`: the period of the burst, µs. -/
def stopBurst (whole : Bool) (gap : Nat) (s : State) : State :=
  match s.radio.poll with
  | some p =>
    if (p.phase == .sound || p.phase == .report) && p.bursts != 0 && decide (s.clk.ns < p.burstEnd) then
      let t := s.clk.ns - p.burstAt
      let full := burstUs (p.tone - p.burstTone)
      emit (.burstStop p.tx (ranNs whole gap t)) (modRadio (fun b => { b with
        emissions := b.emissions.map (fun e => if e.1 == p.burstAt / 1000 && e.2 == full then (e.1, min full (ranUs whole gap t)) else e) }) s)
    else s
  | none => s

/-- The Furrow has cut or withdrawn a UHF window: the burst stops, and is sent again in full (R283). -/
def uhfCut (s : State) : State :=
  match s.radio.poll with
  | some p =>
    if p.phase == .sound || (p.phase == .report && decide (s.clk.ns < p.burstEnd)) then
      modRadio (fun b => { b with poll := some { p with
        phase := .sound, tone := if s.clk.ns < p.burstEnd then p.burstTone else p.tone, plan := [], waits := 0x25 } })
        (stopBurst false (tonePeriod s) s)
    else s
  | none => s

/-- A sounding on air starts again, with a fresh challenge that counts toward the three (R266, R301, R578); without a chain left a LOCATE
ends. `gap`: the period of the burst on air, µs. -/
def restartSound (gap : Nat) (s : State) : State :=
  match s.radio.poll with
  | some p =>
    if p.phase == .sound || p.phase == .report then
      let s := stopBurst false gap s
      match chainsUp s, pollOp p.kind with
      | [], some r => if s.clk.onRc then retryLocate r p s else pollEnds (endLocate r (failFate fDevice 0x27 0x02) s)
      | _, some r => retryLocate r p s
      | _, none => pollEnds s
    else s
  | none => s

/-- Every chain has left service: a passive entry ends (R100, R261) and a sounding starts again, waits or ends; an LF telegram goes on
(R248). -/
def chainsGone (s : State) : State := restartSound (tonePeriod s) (passiveEnds s)

/-! ### Segments (R229, R234) -/

/-- What the segment builder answers for the telegram's next segment: its units and start, nothing while a switch window runs, or that the
telegram is abandoned. -/
inductive SegPlan where
  | send (k t : Nat)
  | wait
  /-- R229 abandons it. -/
  | lost
  /-- None of its channels is left in service. -/
  | gone

/-- In Parked, a segment that starts at `t` ends after ARG when the nonce is not there as its first bit is due (R234): 24 bits. -/
def holdForNonce (p : Poll) (t k : Nat) : Nat :=
  if p.sent < 24 ∧ t + segDur p (24 - p.sent) < p.nonceAt then min k (24 - p.sent) else k

/-- The next segment (R229): all remaining units, or the most that the longest quiet interval holds; a hold lasts no longer than
12,000 µs. -/
def segPlan (s : State) (p : Poll) : SegPlan :=
  let t0 := if p.sent = 0 then max s.clk.ns p.lastEnd else max (p.lastEnd + 512000) p.nonceAt
  let put := fun (k t : Nat) => if p.sent != 0 && decide (p.lastEnd + 12000000 < t) then .lost else .send (holdForNonce p t k) t
  let all := teleUnits p - p.sent
  if liveDrive s p = [] ∧ (p.drive ≠ [] ∨ p.chans = []) then .gone
  else match furrowGrant s (segDur p all) t0 with
    | .at t => put all t
    | .wait => .wait
    | .noFit longest =>
      let k := fitUnits p longest
      if k = 0 then .lost
      else match furrowGrant s (segDur p k) t0 with
        | .at t => put k t
        | .wait => .wait
        | .noFit _ => .lost

/-- The readings a channel takes while it transmits (R223, R225): a peak current up to ILIM, in mA, the duty held, and a phase within 30°
of the drive, free values but for the duty. -/
def lfReadings (d : Nat × Nat × Nat) (s : State) : State :=
  let b := freeBytes s 3
  let ilim := 10 * (((lfRec s).bind (fun r => r.chans.find? (fun c => c.ch == d.1))).map (·.ilim)).getD 0
  drawn 3 (modRadio (fun r => { r with lfCh := tabModify {} r.lfCh d.1 (fun x =>
    { x with ipeak := beAt b 0 2 % (ilim + 1), duty := d.2.1,
             phase := if x.fault = 3 then x.phase else (byteAt b 2 % 61 : Nat) - (30 : Int) }) }) s)

/-- Emits a segment of `k` units in a window that starts at `t`. -/
def emitSegment (p : Poll) (k t : Nat) (s : State) : State :=
  each (liveDrive s p) lfReadings (emit (segOut s p k) (elapseToNs t (grantWindow true t (segDur p k) s)))

/-- The telegram after a segment. -/
def afterSegment (p : Poll) (k t : Nat) : Poll := { p with sent := p.sent + k, lastEnd := t + segDur p k, segAt := t, waits := 0 }

end Sys2Proof.Machine
end

