-- ==== Sys2Proof/Machine/Edges.lean ====
section
/-! DEFINITION. The angle inputs and the speed signals as commands: edges, pulses, frames and their time limits (R187–R192,
R199–R203, R308). -/

namespace Sys2Proof.Machine

/-- The angle inputs are decoded and the speed signals heard in Cab, Drive and Service (R200). -/
def angleOn (s : State) : Bool :=
  s.sys.ready && (s.pwr.mode == .cab || s.pwr.mode == .drive || s.pwr.mode == .service)

/-- An edge of ANG `n` is heard. -/
def angleHeard (s : State) (n : Nat) : Bool := angleOn s && portUp s pAng n

/-- The timestamp of an edge now, ns, to 40 ns (R187). -/
def edgeTime (s : State) : Nat := s.clk.ns / 40 * 40

/-- What every change of the engine's state, of road speed or of a signal's validity is followed by. -/
def speedWatch (s : State) : State := lockWatch (modeWatch s)

/-- The Furrow predicts again, and a requester whose window is cut or withdrawn is told (R199). -/
def edgeCuts (s : State) : State :=
  let r := recut s
  onlyIf r.2.2 uhfCut (onlyIf r.2.1 lfCut r.1)

/-! ### The crank (R188, R192, R202) -/

/-- The limit for the crank's next edge has passed: the crank is lost when its last period was 20 ms or less; otherwise the
engine has stopped and synchronisation ends, with ANG_POS kept. -/
def crankOverdue (s : State) : State :=
  let c := s.clk.crank
  if c.per.getD 0 ≤ 20000000 then
    onCrankLost (modClk (fun b => { b with crank := { crankLost c (c.last.getD 0) with last := none } }) s)
  else
    let pos := angPos s
    refEngineStop (modClk (fun b => { b with crank := { seen := c.seen }, posHeld := pos }) s)

/-- When the crank's next edge is overdue, ns: while synchronised as R188 says, and on the propshaft reference, where the engine may stop
too (R201), after 4.0 times a last period above 20 ms, as at a gap, since no tooth is predicted then (log entry 39). -/
def crankLimit (s : State) : Option Nat :=
  match s.clk.crank.sync, s.clk.crank.last, s.clk.crank.per with
  | false, some l, some q => if s.clk.ref = .prop ∧ 20000000 < q then some (l + 4 * q) else none
  | _, _, _ => crankDue s.clk.crank

/-- Whether the crank's next edge is overdue now. -/
def crankIsDue (s : State) : Bool := match crankLimit s with | some d => decide (d < edgeTime s) | none => false

/-- The revolution of the cycle in which a new synchronisation falls: with cam phase known, as predicted on the propshaft, and
otherwise not stated (a free value); without it, the first. -/
def syncRev (s : State) : State :=
  if s.clk.cam.known && s.clk.table.cycleRevs == 2 then
    if s.clk.ref = .prop then
      let second := (crank60 { s with clk := { s.clk with crank := {} } } + 122880) / 245760 % 2 == 1
      modClk (fun b => { b with crank := { b.crank with second := second } }) s
    else drawn 1 (modClk (fun b => { b with crank := { b.crank with second := (Config.freeByte s.free).getLsbD 0 } }) s)
  else s

/-- Passage of crank angle for the cam: phase is lost after two cycles without a cam edge (R189). -/
def camAdvance (d : Nat) : State → State :=
  modClk (fun b =>
    let a := b.cam.adv + d
    if b.cam.known then
      { b with cam := { b.cam with adv := a, known := decide (a ≤ 491520 * b.table.cycleRevs) } }
    else b)

/-- The lost crank is validated: the switch is abandoned and the coasted position kept, with no new synchronisation. A tooth 0 passed
while coasting gave no measurement of the propshaft ratio, so the next one begins a revolution afresh (R190). -/
def abandonToCrank (t k : Nat) (s : State) : State :=
  camAdvance (4096 * k) <| modClk (fun b =>
    let n := b.crank.coastTooth + k
    { b with
      switching := none, events := setBits b.events 2
      prop := { b.prop with atTooth0 := if 60 ≤ n then none else b.prop.atTooth0 }
      crank := { b.crank with last := some t, per := some b.crank.coastPer, sync := true, tooth := n % 60
                              second := b.crank.second != (n / 60 % 2 == 1), coastHits := 0
                              ofs := (coast60 b.ns b.crank : Int) - 4096 * n } }) s

/-- An edge while synchronised, or on the way there. At tooth 0 the propshaft ratio is measured (R190). -/
def crankEdge (t : Nat) (s : State) : State :=
  let r := crankStep t s.clk.crank
  let next := modClk (fun b => { b with crank := r.1 }) s
  match r.2 with
  | .lost => onCrankLost next
  | .synced =>
    enterDrive (modClk (fun b => { b with prop := { b.prop with atTooth0 := some (propMilli t b.prop) } }) (onCrankSync (syncRev next)))
  | .none =>
    if r.1.sync then
      camAdvance (if r.1.tooth = 0 then 12288 else 4096)
        (onlyIf (r.1.tooth == 0) (modClk (fun b => { b with prop := measureRatio t b.table.propTeeth b.prop })) next)
    else next

/-- An edge during a switch away from the crank: two consecutive ones within ±25 % of the coasting prediction validate it. -/
def coastEdge (t : Nat) (s : State) : State :=
  match coastFit t true s.clk.crank with
  | some k =>
    if s.clk.crank.coastHits = 1 then abandonToCrank t k s
    else
      let s := crankEdge t s
      modClk (fun b => { b with crank := { b.crank with coastHits := 1 } }) s
  | none =>
    let s := crankEdge t s
    modClk (fun b => { b with crank := { b.crank with coastHits := 0 } }) s

def execAng0Edge (tNs : Nat) (s : State) : Host.Outcome State Fault Refusal :=
  .next (if angleHeard s 0 then
    let s := elapseToNs tNs s
    let t := edgeTime s
    let s := modClk (fun b => { b with crank := { b.crank with seen := some t } }) (onlyIf (crankIsDue s) crankOverdue s)
    speedWatch (edgeCuts
      (if s.clk.switching.isSome && s.clk.ref == .crank && !s.clk.crank.sync then coastEdge t s else crankEdge t s))
  else s)

/-- The limit for the crank's next edge passes without one. -/
def execCrankEdgeTimeout (s : State) : Host.Outcome State Fault Refusal :=
  .next (match crankLimit s with
    | some d => if angleHeard s 0 then speedWatch (crankOverdue (elapseToNs d s)) else s
    | none => s)

/-! ### The cam (R189) -/

/-- Where the crank stands in its cycle, ang from tooth 0 of the first revolution. -/
def camAngle (s : State) : Nat := crank60 s / 60 % (4096 * s.clk.table.cycleRevs)

/-- The distance of two positions around a cycle of `n` ang. -/
def aroundDist (n a b : Nat) : Nat := min ((a + n - b) % n) ((b + n - a) % n)

def execAng1Edge (tNs : Nat) (s : State) : Host.Outcome State Fault Refusal :=
  .next (if angleHeard s 1 then
    let s := elapseToNs tNs s
    let a := camAngle s
    if s.clk.cam.known then
      if s.clk.crank.sync || s.clk.ref == .prop then
        if aroundDist (4096 * s.clk.table.cycleRevs) a s.clk.cam.pos ≤ 256 then
          modClk (fun b => { b with cam := { b.cam with pos := a, adv := 0 } }) s
        else modClk (fun b => { b with cam := { b.cam with known := false } }) s
      else s
    else if s.clk.crank.sync then
      -- The cycle's second revolution, from whose tooth 0 TDC1 lies TDC_OFFSET on (R192).
      modeWatch (enterDrive (modClk (fun b => { b with
        cam := { known := true, pos := a + 4096 * (b.table.cycleRevs - 1), adv := 0 }, crank := { b.crank with second := true } }) s))
    else s
  else s)

/-! ### The propshaft (R190, R201, R202) -/

/-- A lost propshaft is validated by two consecutive edges within ±25 % of the coasting prediction; the coasted position is kept. It is
usable again from there on: its last PROP_TEETH periods count as good ones, and the last is the coasting period (DESIGN CHOICE, log
entry 101). -/
def propCoastEdge (s : State) : State :=
  match coastFit (edgeTime s) false s.clk.crank with
  | some k =>
    if s.clk.crank.coastHits = 1 then
      modClk (fun b => { b with
        switching := none, events := setBits b.events 2
        crank := { b.crank with coastHits := 0 }
        prop := { b.prop with edges := b.crank.coastTooth + k, good := b.table.propTeeth, per := some b.crank.coastPer
                              ofs := (coastMilli b.ns b.crank : Int) - 1000 * (b.crank.coastTooth + k), lost := false } }) s
    else modClk (fun b => { b with crank := { b.crank with coastHits := 1 } }) s
  | none => modClk (fun b => { b with crank := { b.crank with coastHits := 0 } }) s

/-- The crank angle one propshaft pitch stands for at the ratio held, 60ths of an ang. -/
def pitchAngle (s : State) : Nat :=
  if s.clk.table.propTeeth = 0 then 0 else 245760 * s.clk.prop.ratio.getD 0 / (s.clk.table.propTeeth * 1000000)

/-- An edge of the propshaft. A switch that PROP_HOLD_S began is not abandoned, for no reference was lost (DESIGN CHOICE, log entry 101). -/
def execAng2Edge (tNs : Nat) (s : State) : Host.Outcome State Fault Refusal :=
  .next (if angleHeard s 2 then
    let s := elapseToNs tNs s
    let s := propWatch s.clk.prop s
    let old := s.clk.prop
    let s := modClk (fun b => { b with prop := propStep (edgeTime s) b.prop }) s
    if s.clk.ref = .prop then
      let s := camAdvance (pitchAngle s) s
      edgeCuts (if s.clk.switching.isSome then onlyIf s.clk.prop.lost propCoastEdge s else propWatch old s)
    else s
  else s)

/-- PROP_HOLD_S has passed since entry to PROP: ANG_PROP_EXPIRED, and a switch to TIME. -/
def execPropHoldExpiry (s : State) : Host.Outcome State Fault Refusal :=
  .next (if s.clk.ref = .prop ∧ s.clk.switching = none ∧ angleOn s then
    let s := elapseToNs (s.clk.propSince + 1000000000 * s.clk.table.propHoldS) s
    leaveProp false s.clk.prop (modClk (fun b => { b with events := setBits b.events 4 }) s)
  else s)

/-! ### The end of a switch window (R201–R203) -/

/-- The switch completes: ANG_SWITCH_DONE. A crank synchronised meanwhile is the reference at once. -/
def switchDone (target : Ref) (s : State) : State :=
  let pos := angPos s
  let at_ := crank60 s
  let s := modClk (fun b => { b with
    ref := target, switching := none, events := setBits b.events 1
    propSince := if target = .prop then b.ns else b.propSince
    posHeld := pos
    prop := { b.prop with lost := false, floor := at_ } }) s
  if s.clk.crank.sync then onCrankSync s else propWatch s.clk.prop s

def execAngleSwitchWindowEnd (s : State) : Host.Outcome State Fault Refusal :=
  .next (match s.clk.switching with
    | some target => if angleOn s then switchDone target (elapseToNs s.clk.switchEnd s) else s
    | none => s)

/-! ### Road and engine speed (R191, R307, R308) -/

def execAng3Pulse (tNs : Nat) (s : State) : Host.Outcome State Fault Refusal :=
  .next (if angleHeard s 3 then
    let s := elapseToNs tNs s
    let t := edgeTime s
    speedWatch (modClk (fun b => { b with wheelLast := some t, wheelPer := b.wheelLast.map (fun l => t - l) }) s)
  else s)

/-- No pulse for 1 s: the ANG3 figure reads 0. -/
def execWheelPulseTimeout (s : State) : Host.Outcome State Fault Refusal :=
  .next (match s.clk.wheelLast with
    | some l => if angleHeard s 3 then speedWatch (elapseToNs (l + 1000000000) s) else s
    | none => s)

/-- Whether a frame heard now on `port` with `ident` is the one the policy names. -/
def speedFrame (s : State) (port : Nat) (ident : BitVec 32) (polPort : Nat) (polId : BitVec 32) : Bool :=
  angleOn s && port == polPort && ident == polId && decide (port < 6) && portUp s pCan port

def execRoadSpeedFrame (port : Fin 6) (ident : BitVec 32) (data : Bytes) (s : State) : Host.Outcome State Fault Refusal :=
  let p := s.slk.policy
  .next (if speedFrame s port.val ident p.rsPort p.rsId then
    match signalOf data p.rsByte p.rsLen with
    | some v => speedWatch (modClk (fun b => { b with canRoad := v * p.rsScale, canRoadAt := some b.ns }) s)
    | none => s
  else s)

def execEngineSpeedFrame (port : Fin 6) (ident : BitVec 32) (data : Bytes) (s : State) : Host.Outcome State Fault Refusal :=
  let p := s.slk.policy
  .next (if speedFrame s port.val ident p.esPort p.esId then
    match signalOf data p.esByte p.esLen with
    | some v => speedWatch (modClk (fun b => { b with canRpm := v * p.esScale, canRpmAt := some b.ns }) s)
    | none => s
  else s)

/-- The last frame of a signal becomes 200 ms old and the signal invalid. -/
def execSpeedSignalStale (engine : Bool) (s : State) : Host.Outcome State Fault Refusal :=
  .next (match if engine then s.clk.canRpmAt else s.clk.canRoadAt with
    | some t => if angleOn s then speedWatch (elapseToNs (t + 200000000) s) else s
    | none => s)

end Sys2Proof.Machine
end

