-- ==== Sys2Proof/Machine/Lf.lean ====
section
/-! DEFINITION. The LF commands and the commands of the UHF data channel: polls, segments, reply slots, challenge replies,
buttons, channel faults and the capacitive electrodes (chapter 7, R363–R370). -/

namespace Sys2Proof.Machine

def putPoll (p : Poll) : State → State := modRadio (fun b => { b with poll := some p })

/-! ### Poll timers (R244, R247, R248) -/

/-- The PRESENCE period in force, µs. -/
def presencePeriod (s : State) : Nat :=
  if s.pwr.mode = .cab then 20000 * s.radio.cabPeriod else 100000 * s.radio.drivePeriod

def execPresencePoll (s : State) : Host.Outcome State Fault Refusal :=
  .next (
    if s.sys.ready && (s.pwr.mode == .cab || s.pwr.mode == .drive) && s.pwr.parking == .none then
      let s := elapseTo (s.radio.presenceAt + presencePeriod s) s
      if s.radio.poll.isSome || startHolds s then modRadio (fun b => { b with presenceDue := true }) s
      else startPresence s
    else s)

def execApproachPoll (s : State) : Host.Outcome State Fault Refusal :=
  .next (
    if s.pwr.mode == .parked && s.radio.approach != 0 && decide (s.pwr.dormHours < 72) then
      let s := elapseTo (s.radio.approachAt + 100000 * s.radio.approach) s
      if s.radio.poll.isSome then modRadio (fun b => { b with approachDue := true }) s else startApproach s
    else s)

/-! ### Segments (R229) -/

/-- What a telegram's last segment does: the telegram is counted, a LOCATE's challenge has been sent, and the reply window's activity
asks for the air. -/
def telegramSent (p : Poll) (s : State) : State :=
  let s := modRadio (fun b => { b with cntTx := b.cntTx + 1 }) s
  let s := match p.kind with
    | .locate r => modFlight r (fun f => { f with spare := f.spare || p.spare }) (onlyIf (!p.measure) (atStage r 0x01 0) s)
    | _ => s
  coexRaise 0 { p with phase := .slots, asked := false,
                       challenges := p.challenges + ofBool (isLocate p.kind && !p.measure),
                       failed := if p.measure then p.failed else 0 } s

/-- Sends `k` units in a grant that starts at `t`. -/
def sendSegment (p : Poll) (k t : Nat) (s : State) : State :=
  let q := afterSegment p k t
  if q.sent = teleUnits p then telegramSent q (emitSegment p k t s) else putPoll q (emitSegment p k t s)

/-- The next segment of the telegram on air, or the next poll. A start decision that waits for its lead goes first (R301). -/
def execLfSegment (s : State) : Host.Outcome State Fault Refusal :=
  .next (match s.radio.poll with
    | none => nextPoll s
    | some p =>
      if p.phase == .telegram && (!startHolds s || p.sent != 0) then
        match segPlan s p with
        | .send k t => sendSegment p k t s
        | .wait => s
        | .lost => abandonTelegram true p s
        | .gone => abandonTelegram false p s
      else s)

/-! ### Channel faults (R225, R226) -/

def lfFaultCode : LfCondition → Nat
  | .opened => 1 | .short => 2 | .detuned => 3 | .sense => 4

def modLfCh (ch : Nat) (f : LfState → LfState) : State → State :=
  modRadio (fun b => { b with lfCh := tabModify {} b.lfCh ch f })

/-- The handle channels that serve a door zone besides its HANDLE_LF: those whose antenna lies in the zone (DESIGN CHOICE, log entry
43). -/
def doorChans (s : State) (z : Nat) : List Nat :=
  match zoneById s z, lfRec s with
  | some y, some l => (l.chans.filter (fun c => c.loc == 3 && lfUp s c.ch && inZone y (c.x, c.y, c.z))).map (·.ch)
  | _, _ => []

/-- A telegram loses one of its channels: a HANDLE poll tries once more on another channel that serves the door zone (R226). -/
def telegramLost (ch : Nat) (p : Poll) (s : State) : State :=
  match p.kind with
  | .handle z =>
    let others := (doorChans s z).filter (fun c => c != ch)
    if p.moved ∨ others = [] then abandonTelegram false p s
    else lfEvent 1 (beginTelegram { newPoll s (.handle z) p.n p.m with chans := others.take 1, moved := true }
      (coexDrop (uncount p (stopCarrier p s))))
  | .approach | .presence | .locate _ => abandonTelegram false p s

/-- A channel leaves service under its telegram. -/
def lfChannelOut (ch : Nat) (p : Poll) (s : State) : State :=
  telegramLost ch p (outOfService pLf ch 0x02 (if chansAt s [(lfLoc s ch).getD 0] = [ch] then sLost else sDegraded) 0 s)

/-- A current more than 30° from the drive: its phase is a free value beyond that. -/
def detunedPhase (s : State) : Int :=
  let b := freeBytes s 2
  if byteAt b 0 % 2 = 0 then (31 + byteAt b 1 % 97 : Nat) else -((31 + byteAt b 1 % 97 : Nat) : Int)

/-- The telegram starts again from its mark, 200 µs later (R226); one that was out to its last segment no longer counts as sent. -/
def restartTelegram (p : Poll) (s : State) : State :=
  keyTelegram { p with
    challenges := p.challenges - ofBool (p.phase == .slots && isLocate p.kind && !p.measure), asked := false, open_ := none, slot := 0,
    lastEnd := s.clk.ns + 200000 } (coexDrop (uncount p (stopCarrier p s)))

/-- A condition of R225 on a channel that transmits: `early` in the first 512 µs of the mark, `spareFails` when the spare sense path
fails as well. A SENSE found early takes the spare path into use within 200 µs and the telegram starts again from its mark; one found
later takes it into use with the next telegram (R226). -/
def execLfChannelFault (ch : Fin 48) (cond : LfCondition) (early spareFails : Bool) (s : State) :
    Host.Outcome State Fault Refusal :=
  .next (match s.radio.poll with
    | none => s
    | some p =>
      if telegramOn s p && p.chans.contains ch.val then
        let s := lfEvent 0 (modLfCh ch.val (fun x => { x with fault := lfFaultCode cond }) s)
        match cond with
        | .short | .opened => lfChannelOut ch.val p s
        | .detuned => drawn 2 (modLfCh ch.val (fun x => { x with phase := detunedPhase s }) s)
        | .sense =>
          if spareFails then lfChannelOut ch.val p s
          else
            let s := modLfCh ch.val (fun x => { x with spare := x.spare || early, spareNext := !early }) s
            onlyIf early (restartTelegram p) s
      else s)

/-! ### Reply slots (R236, R245, R271) -/

/-- When reply slot `i` of a poll starts. -/
def slotAt (p : Poll) (i : Nat) : Nat := p.lastEnd + 300000 + nsReplySlot * i

/-- A HANDLE poll's emissions are exempt from the duty limit (R264). -/
def dutyExempt : PollKind → Bool
  | .handle _ => true
  | .approach | .presence | .locate _ => false

/-- The next reply slot is triggered: not before its grant, within the 50 ms of a request (R274), and with the sum of R264; without a chain
the slot passes with no trigger and takes no reply (R261). -/
def execReplySlotTrigger (s : State) : Host.Outcome State Fault Refusal :=
  .next (match s.radio.poll with
    | some p =>
      if p.phase == .slots && decide (p.slot < p.n) then
        let s := elapseToNs (slotAt p p.slot) s
        if !p.granted then putPoll { p with waits := 0x24 } s
        else if coexSpent p (s.clk.ns + 574000 + nsReplySlot) then coexAnew 0 p s
        else if chainsUp s = [] then putPoll { p with open_ := none, slot := p.slot + 1 } s
        else if dutyExempt p.kind || dutyAllows 574 s then
          sendTrigger (0x4000 + 128 * p.slot + p.n)
            (putPoll (actFrom { p with open_ := some p.slot, slot := p.slot + 1, trigAt := s.clk.ns + 574000, waits := 0 } s.clk.ns) s)
        else uhfEvent 5 (putPoll { p with waits := 0x26 } s)
      else s
    | none => s)

/-- The poll goes out again with eight slots after a collision, once (R245). -/
def repeatPoll (p : Poll) (s : State) : State :=
  onlyIf (secReady s) (fun t => beginTelegram { newPoll t p.kind 8 p.m with
    chans := p.chans, repeated := true, moved := p.moved, passed := p.passed, unlocked := p.unlocked } (coexDrop t)) s

/-- The reply window ends, once the positions of its replies have been fitted. -/
def execReplyWindowEnd (s : State) : Host.Outcome State Fault Refusal :=
  .next (match s.radio.poll with
    | some p =>
      if p.phase == .slots && decide (p.n ≤ p.slot) && !s.radio.fits.any (fun q => q.op.isNone) then
        let s := elapseToNs (slotAt p p.n) s
        match p.kind with
        | .locate r => if p.measure then heldReply p s else retryLocate r p s
        | .handle _ | .approach =>
          if p.collided && !p.repeated then repeatPoll p s else pollEnds s
        | .presence =>
          if p.collided && !p.repeated && s.pwr.parking == .none then repeatPoll p s else pollEnds (presenceDone p.passed s)
      else s
    | none => s)

/-! ### Challenge replies (R241–R243, R252, R297) -/

/-- The unlock of a passive entry: the ACCESS record, then the body frame (R252, R323). -/
def unlockDoor (z tid : Nat) (p : Poll) (s : State) : State :=
  let s := logPart { kind := 0x01, tid := tid, zone := z, tcnt := lastTcnt s tid } s
  sendBody 0x01 0x02 z (modPwr (fun x => { x with passiveUnlock := some (monoUs s) }) (putPoll { p with unlocked := true } s))

/-- A HANDLE reply that passes check 6. -/
def handleReply (z : Nat) (p : Poll) (f : TokenFrame) (s : State) : State :=
  let tid := frameTid f
  if !handleCheck s (nth 0 p.chans 0) f then relaySuspect tid (setTcnt tid (frameTcnt f) s)
  else if !p.unlocked && (nearEntry s tid).any (fun e => e.zones.getLsbD z) then
    tokenPassed tid 0xFF (unlockDoor z tid p (setTcnt tid (frameTcnt f) s))
  else tokenPassed tid 0xFF (recordTcnt tid (frameTcnt f) s)

/-- The reply as a position to be fitted (R287). -/
def replyFit (s : State) (p : Poll) (f : TokenFrame) (op : Option Nat) : FitReq :=
  { tid := frameTid f, turn := antennaTurn s f, turnOk := turnOk (antennaTurn s f) && p.held.all (·.turnOk), snr := f.snr, m := p.m, op := op,
    fv := slice f.payload 11 (3 * p.m), drive := p.drive }

/-- A MEASURE is needed (R244, log entry 43): some slot of the challenge measured no field on any axis. -/
def needsMeasure (p : Poll) (f : TokenFrame) : Bool :=
  !p.measure && (List.range p.m).any (fun i => (slice f.payload (11 + 3 * i) 3).all (fun b => b == 0))

/-- Puts a MEASURE on air for the token that has just replied: it follows on, with a resume mark and the nonce of the challenge
(R233, R238). -/
def beginMeasure (p : Poll) (f : TokenFrame) (r : Nat) (s : State) : State :=
  keyTelegram { p with
    measure := true, held := some (replyFit s p f (some r)), chans := pollChans s p.kind, lastEnd := s.clk.ns, slot := 0, open_ := none,
    asked := false } (coexDrop s)

/-- A LOCATE's reply that passes checks 1 to 5: what follows is the sounding, a MEASURE, or the fit. The reply window's request is lowered
before the sounding's is raised (R274). -/
def locateReply (r : Nat) (p : Poll) (f : TokenFrame) (s : State) : State :=
  let s := atStage r 0x02 0 (recordTcnt (frameTid f) (frameTcnt f) s)
  match getFlight s r with
  | none => pollEnds s
  | some d =>
    if locateSound d then
      coexRaise 1 { p with phase := .sound, open_ := none, turn := some (antennaTurn s f), turnOk := turnOk (antennaTurn s f), snr := f.snr,
                           fv := slice f.payload 11 (3 * p.m), asked := false, tone := 0, bursts := 0, plan := [], planAt := 0,
                           burstTone := 0, burstEnd := s.clk.ns, reports := 0 } (coexDrop s)
    else if needsMeasure p f && pollChans s p.kind != [] then beginMeasure p f r s
    else pollEnds (modRadio (fun b => { b with fits := b.fits ++ [replyFit s p f (some r)] }) s)

/-- One valid reply of the poll on air. -/
def oneReply (f : TokenFrame) (s : State) : State :=
  match s.radio.poll with
  | none => s
  | some p =>
    let tid := frameTid f
    let c := replyCheck s p.m (cmdArg p) p.nonce f
    let s := onlyIf (c == 4 || c == 5) (authFail tid (frameTcnt f)) s
    match p.kind with
    | .locate r => if c = 0 then locateReply r p f s else putPoll { p with failed := c } s
    | .handle z =>
      if c != 0 then s
      else if !turnOk (antennaTurn s f) then relaySuspect tid (setTcnt tid (frameTcnt f) s)
      else handleReply z p f s
    | .approach =>
      if c != 0 then s
      else if !turnOk (antennaTurn s f) then relaySuspect tid (setTcnt tid (frameTcnt f) s)
      else tokenPassed tid 0xFF (recordTcnt tid (frameTcnt f) s)
    | .presence =>
      if c != 0 then s
      else if !turnOk (antennaTurn s f) then inconsistent tid (setTcnt tid (frameTcnt f) s)
      else modRadio (fun b => { b with fits := b.fits ++ [replyFit s p f none] }) (recordTcnt tid (frameTcnt f) s)

/-- Replies that carry one TID: both are discarded, and the higher TCNT that passed check 5 is taken (R243). -/
def twinReplies (p : Poll) (tid : Nat) (l : List TokenFrame) (s : State) : State :=
  let good := (l.filter (fun f => replyCheck s p.m (cmdArg p) p.nonce f == 0)).map frameTcnt
  relaySuspect tid (if good.isEmpty then s else setTcnt tid (good.foldl max 0) s)

/-- A reply lies in its slot: TID mod N, or it comes from the token a LOCATE names. -/
def inSlot (s : State) (p : Poll) (slot : Nat) (f : TokenFrame) : Bool :=
  match p.kind with
  | .locate r => frameTid f == locateTid s r
  | .handle _ | .approach | .presence => frameTid f % p.n == slot

/-- What the open slot brought: every frame that answered its trigger. Several frames of which none is valid have collided. -/
def execChalReply (replies : List TokenFrame) (s : State) : Host.Outcome State Fault Refusal :=
  .next (match s.radio.poll with
    | some p =>
      match p.open_ with
      | some slot =>
        if p.phase == .slots && secReady s && canTakeTcnt s then
          let good := replies.filter (fun f => frameValid f && inSlot s p slot f)
          let p := { p with open_ := none, collided := p.collided || (decide (2 ≤ replies.length) && good.isEmpty) }
          let tids := (good.map frameTid).eraseDups
          each tids (fun tid t =>
            let l := good.filter (fun f => frameTid f == tid)
            match l with
            | [f] => oneReply f t
            | _ => twinReplies p tid l t) (putPoll p s)
        else s
      | none => s
    | none => s)

/-- A frame that fails check 1, or comes when none is expected, is discarded: it counts as no reply (R273). -/
def execTokenFrameDiscard (_frame : TokenFrame) (s : State) : Host.Outcome State Fault Refusal := .next s

/-! ### Buttons (R253–R255) -/

/-- UHF0 listens for button frames: in Parked and in the released modes, and not in Dormant (R90). Of a Dormant entry under way it is a frame
that began before step 1 (DEDUCED, log entry 94). -/
def hearsButtons (s : State) : Bool := uhfUp s 0 && (s.sys.ready || s.pwr.mode == .parked) && s.pwr.vaon

/-- RESP of a button frame, over bytes 0 to 12. -/
def buttonResp (key : Bytes) (p : Bytes) : Bool := (cmac key (p.take 13)).take 8 == slice p 13 8

/-- A press whose RESP verifies: its TCNT is taken, and the action its BTN asks for follows where ACTIONS permits it. -/
def buttonPress (e : NearEntry) (tcnt btn : Nat) (s : State) : State :=
  if 1 ≤ btn ∧ btn ≤ 4 ∧ e.actions.getLsbD (btn - 1) = true then
    let s := logPart { kind := 0x02, tid := e.tid, tcnt := tcnt } (setTcnt e.tid tcnt s)
    sendBody btn 0x01 0xFF (tokenSeen s)
  else recordTcnt e.tid tcnt s

/-- A button frame of this vehicle, checked with the key of its entry. -/
def buttonFrame (frame : TokenFrame) (s : State) : State :=
  let p := frame.payload
  let tid := beAt p 3 4
  let tcnt := beAt p 7 4
  match nearEntry s tid with
  | none => s
  | some e =>
    if !secReady s || !canTakeTcnt s || tcnt == e.tcnt then s
    else if tcnt < e.tcnt ∨ e.tcnt + 4096 < tcnt ∨ buttonResp e.key p = false then authFail tid tcnt s
    else buttonPress e tcnt (byteAt p 12) s

/-- A button frame. In Parked it wakes the slice, and is checked once the slice's rails are good (R82). -/
def execButton (frame : TokenFrame) (s : State) : Host.Outcome State Fault Refusal :=
  .next (
    let p := frame.payload
    if hearsButtons s && frameValid frame && ptype frame == 2 && p.length == 21 && beAt p 1 2 == vwp s then
      let s := noteSlice 7 s
      if sliceUp s then buttonFrame frame s else modRadio (fun b => { b with heldFrame := some frame }) s
    else s)

/-! ### Capacitive electrodes (R368–R370) -/

def capEvent (i : Nat) : State → State := modCap (fun b => { b with events := setBits b.events i })
def getEl (s : State) (e : Nat) : Electrode := tabGet {} s.cap.els e
def modEl (e : Nat) (f : Electrode → Electrode) : State → State := modCap (fun b => { b with els := tabModify {} b.els e f })

/-- The capacitive record: a threshold of 10 to 255 for each electrode (R369). -/
def capRecOk (l : List Nat) : Bool := l.length == 48 && l.all (fun v => decide (10 ≤ v) && decide (v ≤ 255))

/-- CAP_THRESH of an electrode, 10 fF units. -/
def capThresh (s : State) (e : Nat) : Nat :=
  match s.cfg.cap with
  | some l => if capRecOk l then nth 40 l e else 40
  | none => 40

/-- The electrode is scanned in the present mode. Of a Dormant entry under way it is a scan that began before step 1 (DEDUCED, log entry 94). -/
def scanned (s : State) (e : Nat) : Bool :=
  portUp s pCap e && (match s.pwr.mode with
    | .parked => (doorOfHandle s e).isSome && s.pwr.vaon
    | .cab | .drive | .service => s.sys.ready
    | .dormant | .hearth => false)

/-- A touch on a handle in Parked: a HANDLE poll, or its turn after the poll on air; a touch on the door being polled is ignored. -/
def handleTouched (z : Nat) (s : State) : State :=
  match s.radio.poll with
  | none => startHandle z s
  | some p =>
    if p.kind = .handle z then s
    else if s.radio.touchNext.isSome then s
    else modRadio (fun b => { b with touchNext := some z }) s

/-- `v` moves toward `goal` by at most `lim`. -/
def toward (v goal : Int) (lim : Nat) : Int := v + max (-(lim : Int)) (min lim (goal - v))

/-- One scan of an electrode (R368, R369): its rise against CAP_THRESH, and, of an untouched reading, the baseline's following at no more than
10 fF per second over the scan period, µs. `v`: the reading, 10 fF above the baseline at reset. -/
def scanEl (period thresh now : Nat) (v : Int) (x : Electrode) : Electrode :=
  let rise := (v - x.base / 1000000).toNat
  { x with
    delta := min 65535 rise, scanAt := some now
    above := if thresh < rise then x.above + 1 else 0
    below := if 10 * rise < 7 * thresh then x.below + 1 else 0
    base := if x.touched || decide (thresh < rise) then x.base else toward x.base (1000000 * v) period }

/-- The scan period, µs. -/
def scanPeriod (s : State) : Nat := if s.pwr.mode = .parked then 1600 else 10000

/-- A touch starts. -/
def touchStarts (e : Nat) (s : State) : State :=
  let s := modEl e (fun x => { x with touched := true, since := monoUs s }) s
  if (getEl s e).masked then s
  else
    let s := capEvent 0 s
    match doorOfHandle s e with
    | some z => if s.pwr.mode = .parked then handleTouched z.id s else s
    | none => s

/-- Lets time pass to an electrode's next scan. -/
def scanTime (e : Nat) (s : State) : State :=
  match (getEl s e).scanAt with
  | some t => elapseTo (t + scanPeriod s) s
  | none => s

/-- One scan with what it starts or ends: two in a row above CAP_THRESH, or below 70 % of it. -/
def oneScan (e : Nat) (v : Int) (s : State) : State :=
  if scanned s e then
    let s := scanTime e s
    let s := modEl e (scanEl (scanPeriod s) (capThresh s e) (monoUs s) v) s
    let x := getEl s e
    if !x.touched && decide (2 ≤ x.above) then touchStarts e s
    else if x.touched && decide (2 ≤ x.below) then modEl e (fun y => { y with touched := false, since := monoUs s }) s
    else s
  else s

/-- The electrode's next scans, among them the two that start a touch. -/
def execCapacitiveTouch (e : Fin 48) (scans : List Int) (s : State) : Host.Outcome State Fault Refusal :=
  .next (each scans (oneScan e) s)

/-- An electrode's next scans, among them the two that end a touch. -/
def execTouchEnd (scans : Fin 48 × List Int) (s : State) : Host.Outcome State Fault Refusal :=
  .next (each scans.2 (oneScan scans.1) s)

def execElectrodeStuck (e : Fin 48) (s : State) : Host.Outcome State Fault Refusal :=
  .next (
    let el := getEl s e
    if el.touched && !el.masked && scanned s e then
      let s := elapseTo (el.since + 30000000) s
      capEvent 1 (fault pCap e 0x03 sDegraded 0x05 0 0 (modEl e (fun x => { x with masked := true }) s))
    else s)

def execElectrodeUnmask (e : Fin 48) (s : State) : Host.Outcome State Fault Refusal :=
  .next (
    let el := getEl s e
    if el.masked && !el.touched && scanned s e then
      let s := elapseTo (el.since + 2000000) s
      fault pCap e 0x09 sInfo 0x09 0 0 (modEl e (fun x => { x with masked := false }) s)
    else s)

/-- A guard's load exceeds its limit: CAP_SHLD0 guards electrodes 0–23, CAP_SHLD1 24–47. -/
def execCapGuardFault (g : Fin 2) (s : State) : Host.Outcome State Fault Refusal :=
  .next (
    let mine := ((List.range 24).map (fun i => 24 * g.val + i)).filter (fun e => portUp s pCap e)
    if mine = [] then s
    else capEvent 2 (each mine (fun e t => outOfService pCap e 0x02 sDegraded 0 t) s))

end Sys2Proof.Machine
end

