-- ==== Sys2Proof/Machine/Pke.lean ====
section
/-! DEFINITION. The PKE and RNG classes, the hash and public-key engines, and the random source (chapter 16). -/

namespace Sys2Proof.Machine

/-! ### Hash and public-key engines (R519–R523) -/

/-- The fate of a check: DONE with 0, or AUTH_FAIL with the code (R534). -/
def pkeFate (code : Nat) (degraded : Bool) : FateRec :=
  if code = 0 then { done 0 with degraded := degraded }
  else { failFate fAuth code 0x01 with result := code, degraded := degraded }

def execPkeVerify (r : Nat) (rd : HostRead) (s : State) : Host.Outcome State Fault Refusal :=
  .next (startOp 0x0A00 r (fun f s =>
    let alg := fieldLE f.raw 24 1
    let digest := fieldLE f.raw 25 1 == 1
    if !pkeUp s || (!digest && !hashUp s) then settle r (failFate fDevice 0x29) s
    else withRead r rd (dLen f.raw) 0 (fun d s =>
      let code := pkVerify alg (slice d 0 97) (slice d 100 96) (d.drop 228) digest
      settle r (pkeFate code (!digest && hashDegraded s)) (pkeRan code (atStage r 0x01 0 s))) s) s)

def execPointCheck (r : Nat) (rd : HostRead) (s : State) : Host.Outcome State Fault Refusal :=
  .next (startOp 0x0A01 r (fun f s =>
    if !pkeUp s then settle r (failFate fDevice 0x29) s
    else withRead r rd 97 0 (fun d s =>
      let code := pointCheck (fieldLE f.raw 24 1) d
      settle r (pkeFate code false) (pkeRan code (atStage r 0x01 0 s))) s) s)

def execHash (r : Nat) (rd : HostRead) (wr : Bool) (s : State) : Host.Outcome State Fault Refusal :=
  .next (startOp 0x0A02 r (fun f s =>
    if !hashUp s then settle r (failFate fDevice 0x29) s
    else withRead r rd (dLen f.raw) 0 (fun d s =>
      let digest := if fieldLE f.raw 24 1 = 1 then sha256 d else sha384 d
      writeAndSettle r f 1 (slice digest 0 48) wr { done 0 with degraded := hashDegraded s } (atStage r 0x01 0 s)) s) s)

def execHashEngineFault (e : Fin 2) (s : State) : Host.Outcome State Fault Refusal :=
  .next (
    if unitSt s uHash e = .up then
      modSec (fun b => { b with rngEvents := setBits b.rngEvents 4 })
        (outOfService uHash e 0x02 (if hashDegraded s then sLost else sDegraded) 0 s)
    else s)

def execPublicKeyEngineFault (s : State) : Host.Outcome State Fault Refusal :=
  .next (outOfService uPke 0 0x02 sLost 0 s)

/-! ### The noise sources (R524–R528) -/

def getSource (s : State) (i : Nat) : Source := nth {} s.sec.sources i
def modSource (i : Nat) (f : Source → Source) : State → State := modSec (fun b => { b with sources := modAt b.sources i f })
def rngEvent (i : Nat) : State → State := modSec (fun b => { b with rngEvents := setBits b.rngEvents i })

def retiredCount (s : State) : Nat := (s.sec.sources.filter (fun x => x.st == .retired)).length

/-- The random source as a whole after a change of a source (R528). HELD ends with the reseed. -/
def judgeRng (s : State) : State :=
  if s.sec.rng = .running ∨ s.sec.rng = .held then
    if 2 ≤ retiredCount s then
      rngEvent 2 (fault uRng 0xFF 0x02 sLost 0x04 0 0 (stopRng s))
    else if healthyCount s < 3 then modSec (fun b => { b with rng := .held }) s
    else s
  else s

def failures24 (s : State) (x : Source) : List Nat := x.fails.filter (fun t => decide (monoUs s < t + 86400000000))

/-- A by-passed source contributes nothing and is not tested (R586). -/
def srcBypassed (s : State) (i : Nat) : Bool := unitSt s uRng i == .bypassed

/-- A source fails a test: 1 RCT, 2 APT, 3 liveness, 4 lock. A liveness failure, or the third failure in 24 h, retires it
(R527). A retired source is not tested. -/
def sourceFails (i cause : Nat) (s : State) : State :=
  let x := getSource s i
  if x.st = .retired ∨ srcBypassed s i then s
  else
    let fails := failures24 s x ++ [monoUs s]
    let out := cause == 3 || decide (3 ≤ fails.length)
    let s := modSource i (fun y => { y with st := if out then .retired else .suspended, cause := cause, fails := fails,
                                            since := monoUs s }) (discardBlock i s)
    let s := onlyIf (x.st == .healthy) (rngEvent 0) s
    let s := onlyIf out (rngEvent 1) s
    judgeRng (if x.st = .healthy ∨ out then changeUnit uRng i (if out then .retired else .out) 0x02 sDegraded 0x04 0 cause s else s)

def execRngSourceFailure (src : Fin 4) (cause : RngCause) (s : State) : Host.Outcome State Fault Refusal :=
  .next (
    if s.sec.rng = .running ∨ s.sec.rng = .held then
      sourceFails src (match cause with | .rct => 1 | .apt => 2) s
    else s)

/-- The tests of every 1 ms (R525): `live` the sources whose liveness holds, `locked` those a mutual lock implicates. -/
def execRngHealthCheck (live locked : BitVec 4) (s : State) : Host.Outcome State Fault Refusal :=
  .next (
    if s.sec.rng = .running ∨ s.sec.rng = .held then
      let s := onlyIf (locked != 0) (rngEvent 3) s
      each [0, 1, 2, 3] (fun i t =>
        if !live.getLsbD i then sourceFails i 3 t else if locked.getLsbD i then sourceFails i 4 t else t) s
    else s)

/-- A suspended source has passed 4,096 clean bits, one a microsecond (R527). -/
def execSourceReturn (src : Fin 4) (s : State) : Host.Outcome State Fault Refusal :=
  .next (
    let x := getSource s src
    if x.st = .suspended ∧ !srcBypassed s src then
      let s := elapseTo (x.since + 4096) s
      backInService uRng src (modSource src (fun y => { y with st := .healthy }) (gather s))
    else s)

def execDrbgReseed (s : State) : Host.Outcome State Fault Refusal :=
  .next (if canReseed s then reseed s else s)

/-- The key engine makes a new Starter: drawn from the DRBG, its check value and the next STARTER_GEN written; the Warden set is the
fused one, the Near list and the directory's records of the generation are empty (R486, R487). -/
def makeStarter (s : State) : State :=
  if canLog (.other 486 (s.sec.starterGen + 1)) s then
    let k := random s 32
    let s := logRec (.other 486 (s.sec.starterGen + 1)) (drew .key 32 s)
    let s := modSec (fun b => { b with
      starter := k, starterChk := aes k (zeros 16), starterGen := b.starterGen + 1, genLsn := s.led.lsn, starterDue := false }) s
    let s := modSlc (fun b => { b with wardens := s.fuse.wardens ++ List.replicate 6 ({} : Warden) }) s
    keyEvent 3 (modDir (fun d => { d with persist := [] }) (modRadio (fun b => { b with near := [] }) s))
  else s

/-- STARTER_CHK is checked at a start-up; a new Starter waits for the DRBG (R486). -/
def checkStarter (s : State) : State :=
  if vaultOk s then modSec (fun b => { b with starterDue := false }) s
  else if canDraw s then makeStarter s
  else modSec (fun b => { b with starterDue := true }) s

/-- The self-test of the sources ends: which sources passed, and whether the known-answer and DRBG health tests did
(R529). -/
def execRngSelfTestEnd (pass : BitVec 4) (kat : Bool) (s : State) : Host.Outcome State Fault Refusal :=
  .next (
    if s.sec.selfTest then
      let s := modSec (fun b => { b with
        selfTest := false, selfTestReq := false
        sources := b.sources.zipIdx.map (fun e =>
          if srcBypassed s e.2 then { e.1 with st := .suspended }
          else if pass.getLsbD e.2 then { e.1 with st := .healthy, fails := [] } else { e.1 with st := .retired, cause := 5 }) }) s
      let s := each [0, 1, 2, 3] (fun i t =>
        if srcBypassed t i then t
        else if pass.getLsbD i then backInService uRng i t
        else rngEvent 0 (rngEvent 1 (if unitSt t uRng i = .retired then t
          else changeUnit uRng i .retired 0x07 sDegraded 0x04 0 0 t))) s
      if kat && decide (3 ≤ healthyCount s) then
        let s := instantiate s
        onlyIf s.sec.starterDue makeStarter s
      else
        rngEvent 2 (fault uRng 0xFF 0x07 sLost 0x04 (if vaultOk s then 0 else 0x18) 0
          (stopRng s))
    else s)

/-! ### The RNG class (R535, R536) -/

def execRandom (r : Nat) (wr : Bool) (s : State) : Host.Outcome State Fault Refusal :=
  .next (
    if s.sec.rng = .stopped then startOp 0x0B00 r (fun _ s => settle r (failFate fDevice 0x20) s) s
    else if !(getFlight s r).any (servable s) then joinQueue .rng 0x0B00 r s
    else if drawTurn r s then
      startOp 0x0B00 r (fun f s =>
        let n := dLen f.raw
        let s := onlyIf (predRes f) reseed (leaveQueue r s)
        writeAndSettle r f 0 (random s n) wr (done n) (drew .rng n s)) s
    else s)

def srcCode : SrcSt → Nat
  | .healthy => 0 | .suspended => 1 | .retired => 2
def rngCode : RngSt → Nat
  | .init => 0 | .running => 1 | .held => 2 | .stopped => 3

def rngStatusBytes (s : State) : Bytes :=
  le 1 (rngCode s.sec.rng) ++ (s.sec.sources.flatMap (fun x => le 1 (srcCode x.st))) ++
    (s.sec.sources.flatMap (fun x => le 1 (min 255 (failures24 s x).length))) ++ zeros 7 ++ le 8 s.sec.reseeds ++
    le 8 s.sec.reseedAt ++ zeros 32

def execRngStatus (r : Nat) (wr : Bool) (s : State) : Host.Outcome State Fault Refusal :=
  .next (startOp 0x0B01 r (fun f s => writeAndSettle r f 0 (rngStatusBytes s) wr (done 0) s) s)

end Sys2Proof.Machine
end

