-- ==== Sys2Proof/Machine/Store.lean ====
section
/-! DEFINITION. The custody store's layout: classes and placement, space, groups and what their stripes hold, and what a step of
re-protection does with a group (R431–R434, R440–R443). -/

namespace Sys2Proof.Machine

/-! ### The custody configuration record (R431, R433, R434) -/

def custodyOk (c : CustodyRec) : Bool :=
  c.classes.length == 5 && decide (50 ≤ c.wearPct) && decide (c.wearPct ≤ 100) &&
    c.classes.all (fun x => decide (x.place ≤ 3) && decide (1 ≤ x.retainDays) && decide (x.retainDays ≤ 3650)) &&
    ((c.classes.head?.map (·.place)).getD 0) != 0 && ((c.classes.getLast?.map (·.place)).getD 0) != 0

/-- The defaults of R431; DIRSNAP and LEDGERCP have their own rules of retention. -/
def custodyDefault : CustodyRec :=
  { classes := [⟨2, 400, 0x95⟩, ⟨1, 180, 0x7⟩, ⟨3, 90, 0x81⟩, ⟨1, 1, 0⟩, ⟨2, 1, 0⟩], wearPct := 90 }

def custodyCfg (s : State) : CustodyRec :=
  match s.cfg.custody with
  | some c => if custodyOk c then c else custodyDefault
  | none => custodyDefault

def classCfg (s : State) (cls : Nat) : CustodyClass := nth ⟨0, 1, 0⟩ (custodyCfg s).classes (cls - 1)

/-! ### Drives and space (R437, R440, R441) -/

def getDrive (s : State) (d : Nat) : Drive := nth {} s.cus.drives d

/-- Ports and store numbers of the drives in ONLINE or WORN. -/
def storeDrives (c : Cus) : List (Nat × Nat) :=
  (List.range 4).filterMap (fun d =>
    let x := nth {} c.drives d
    match x.unit with
    | some u => if x.st == .online || x.st == .worn then some (d, u) else none
    | none => none)

/-- n of R432. -/
def driveCount (c : Cus) : Nat := (storeDrives c).length

/-- Stripes a group takes on each of its drives. -/
def stripesEach (g : Group) : Nat := if g.parity then 1 else g.data

/-- Drives on which a group written for `g` needs stripes that `g` does not have there. -/
def freshUnits (g h : Group) : List Nat :=
  (h.members.filter (fun m => h.parity != g.parity || h.id != g.id || !g.members.contains m)).map (·.unit)

/-- The step of re-protection under way: its group, and the groups that become of it (R442). -/
def moveOf (c : Cus) : Option (Group × List Group) :=
  c.jobs.findSome? (fun j => match j.what with | .move g new => some (g, new) | _ => none)

/-- Stripes in use on a drive of the store, those being written by re-protection among them. -/
def usedStripes (c : Cus) (u : Nat) : Nat :=
  let moving := match moveOf c with
    | some (g, new) => (new.map (fun h => if (freshUnits g h).contains u then stripesEach h else 0)).foldl (· + ·) 0
    | none => 0
  c.groups.foldl (fun a g => if g.members.any (fun m => m.unit == u && m.ok) then a + stripesEach g else a) moving

/-- Free stripes of a port's drive outside headroom, and with it. Stripe 0 holds the label. -/
def freeOutside (c : Cus) (d u : Nat) : Nat := ((nth {} c.drives d).cap - 1) * 7 / 8 - usedStripes c u
def freeAll (c : Cus) (d u : Nat) : Nat := (nth {} c.drives d).cap - 1 - usedStripes c u

/-- Drives that take new copies of `k` stripes: ONLINE, link up, not being drained, with room outside headroom. -/
def takers (c : Cus) (k : Nat) : List Nat :=
  ((storeDrives c).filter (fun e =>
    let x := nth {} c.drives e.1
    x.st == .online && x.link && x.drain.isNone && decide (k ≤ freeOutside c e.1 e.2))).map (·.2)

/-! ### Layouts (R432) -/

/-- Data stripes, parity, and members of the layout of a placement class with `n` drives. -/
def layoutOf (place n : Nat) : Nat × Bool × Nat :=
  if place = 3 then (if 4 ≤ n then (3, true, 4) else if n = 3 then (2, true, 3) else (1, false, min 2 n))
  else (1, false, min n (place + 1))

/-- Drive failures a group tolerates; none: it cannot be read. -/
def tolerance (g : Group) : Option Nat :=
  let ok := (g.members.filter (·.ok)).length
  if g.parity then (if g.members.length ≤ ok then some 1 else if g.members.length = ok + 1 then some 0 else none)
  else if ok = 0 then none else some (ok - 1)

/-- Failures the class's layout at n = 4 tolerates. -/
def needed (s : State) (cls : Nat) : Nat :=
  let p := (classCfg s cls).place
  if p = 0 then 0 else if p = 2 then 2 else 1

/-- The groups a record lies in. -/
def CusRec.groups (x : CusRec) : List Nat := x.places.map (·.group)

def groupProtected (s : State) (g : Group) : Bool := (tolerance g).any (fun t => decide (needed s g.cls ≤ t))
def getGroup (s : State) (id : Nat) : Option Group := s.cus.groups.find? (fun g => g.id == id)
def recProtected (s : State) (x : CusRec) : Bool := x.groups.all (fun i => (getGroup s i).any (groupProtected s))
/-- No copy or rebuild remains. -/
def recLost (s : State) (x : CusRec) : Bool := x.groups.any (fun i => (getGroup s i).all (fun g => (tolerance g).isNone))
/-- CUS_LOST_RECORDS. -/
def lostRecords (s : State) : Nat := (s.cus.recs.filter (recLost s)).length
/-- CUS_DEG_STRIPES: stripes of groups that hold unprotected records. -/
def degStripes (s : State) : Nat :=
  ((s.cus.groups.filter (fun g => g.used != 0 && !groupProtected s g)).map stripesEach).foldl (· + ·) 0

/-- A member's drive is present: ONLINE or WORN with its link up. -/
def unitPresent (c : Cus) (u : Nat) : Bool :=
  (storeDrives c).any (fun e => e.2 == u && (nth {} c.drives e.1).link)
/-- A group can be read now. -/
def readableNow (c : Cus) (g : Group) : Bool :=
  let ok := (g.members.filter (fun m => m.ok && unitPresent c m.unit)).length
  if g.parity then decide (g.members.length ≤ ok + 1) else decide (1 ≤ ok)

/-- The store is in use: Cab, Drive, Service, or a ledger drain (R444, R454). -/
def storeOn (s : State) : Bool := linkMode' s || s.pwr.ledgerDrain
where
  linkMode' (s : State) : Bool := s.sys.ready && (s.pwr.mode == .cab || s.pwr.mode == .drive || s.pwr.mode == .service)

/-- The thermal governor lets internal work run; at level 4 it pauses it (R625). -/
def internalRuns (s : State) : Bool := decide (s.pwr.govLevel < 4)

/-! ### Placement -/

/-- A drive of the store lies above its warning temperature. -/
def hotDrive (c : Cus) (u : Nat) : Bool := (storeDrives c).any (fun e => e.2 == u && (nth {} c.drives e.1).hot)

/-- Drives above their warning temperature come after the others: they take new copies only where no other can (the Note after R444). -/
def coolFirst (c : Cus) (l : List Nat) : List Nat := l.filter (fun u => !hotDrive c u) ++ l.filter (hotDrive c)

/-- A new group of a class on the drives that can take it, lowest ports first, those in `avoid` last (log entry 33). -/
def newGroup (avoid : List Nat) (place cls : Nat) (c : Cus) : Option (Group × Cus) :=
  let can := coolFirst c (takers c 1)
  let can := can.filter (fun u => !avoid.contains u) ++ can.filter (avoid.contains ·)
  match can with
  | [] => none
  | _ =>
    let lay := layoutOf place can.length
    let g : Group := { id := c.nextGroup, cls := cls, data := lay.1, parity := lay.2.1,
                       members := (can.take lay.2.2).map (fun u => ⟨u, true⟩) }
    some (g, { c with groups := c.groups ++ [g], nextGroup := c.nextGroup + 1, open_ := tabPut c.open_ cls g.id })

/-- A group has the layout that its class takes now: that of the drives that take new copies, the group's own among them (R432). -/
def laidForNow (place : Nat) (c : Cus) (g : Group) : Bool :=
  let n := ((takers c 0).filter (fun u => (takers c 1).contains u || g.members.any (fun m => m.unit == u))).length
  let lay := layoutOf place n
  g.data == lay.1 && g.parity == lay.2.1 && g.members.length == lay.2.2

/-- The group a class is filling, while it has room and the layout for the present n, all its members stand and its drives still take
copies. -/
def fillingGroup (place cls : Nat) (c : Cus) : Option Group :=
  match tabFind c.open_ cls with
  | none => none
  | some i =>
    match c.groups.find? (fun g => g.id == i) with
    | none => none
    | some g =>
      if g.used < g.data * 2 ^ 20 ∧ laidForNow place c g ∧ g.members.all (fun m => m.ok && (takers c 0).contains m.unit) ∧
          (g.members.all (fun m => !hotDrive c m.unit) ∨
            (takers c 0).all (fun u => hotDrive c u || g.members.any (fun m => m.unit == u))) then some g else none

/-- Places `need` bytes, a record perhaps spanning groups: the pieces, and the store. None where there is no room. -/
def placeBytes (avoid : List Nat) (place cls : Nat) : Nat → Nat → Cus → Option (List Piece × Cus)
  | 0, _, _ => none
  | fuel + 1, need, c =>
    if need = 0 then some ([], c)
    else
      let pick := match fillingGroup place cls c with
        | some g => some (g, c)
        | none => newGroup avoid place cls c
      match pick with
      | none => none
      | some (g, c) =>
        let n := min need (g.data * 2 ^ 20 - g.used)
        let c := { c with groups := c.groups.map (fun x => if x.id = g.id then { x with used := x.used + n } else x) }
        match placeBytes avoid place cls fuel (need - n) c with
        | none => none
        | some (l, c) => some (⟨g.id, g.used, n⟩ :: l, c)

/-- The drives that hold the groups given. -/
def drivesOf (c : Cus) (ids : List Nat) : List Nat :=
  (c.groups.filter (fun g => ids.contains g.id)).foldl (fun acc g =>
    g.members.foldl (fun a m => if a.contains m.unit then a else a ++ [m.unit]) acc) []

/-- Bytes a record takes in its stripes: from one 64 B boundary to the next. -/
def placedLen (x : CusRec) : Nat := (x.stored.length + 63) / 64 * 64

/-! ### What the stripes hold (R432) -/

/-- Puts `d` over `b` from byte `i` on. -/
def overlay (b : Bytes) (i : Nat) (d : Bytes) : Bytes := b.take i ++ d ++ b.drop (i + d.length)

/-- The pieces of a record with their bytes. -/
def pieceBytes (x : CusRec) : List (Piece × Bytes) :=
  let all := x.stored ++ zeros (placedLen x - x.stored.length)
  (x.places.foldl (fun (a : List (Piece × Bytes) × Nat) p => (a.1 ++ [(p, slice all a.2 p.len)], a.2 + p.len)) ([], 0)).1

/-- Bytes `off` to `off + n` of a group, by the records that lie in it, those being written among them; 0 where none does. -/
def groupBytes (c : Cus) (g off n : Nat) : Bytes :=
  ((c.recs ++ c.jobs.map (·.item)).flatMap pieceBytes).foldl (fun b e =>
    let lo := max off e.1.off
    let hi := min (off + n) (e.1.off + e.1.len)
    if e.1.group = g ∧ lo < hi then overlay b (lo - off) (slice e.2 (lo - e.1.off) (hi - lo)) else b) (zeros n)

/-- The bytewise XOR of stripes of `n` bytes. -/
def xorAll (n : Nat) (l : List Bytes) : Bytes := l.foldl xorBytes (zeros n)

/-- Bytes `off` to `off + n` of what member `k` of a group holds: the whole of a mirrored group, a data stripe, or the parity. -/
def memberBytes (c : Cus) (g : Group) (k off n : Nat) : Bytes :=
  let stripe := fun i => groupBytes c g.id (i * 2 ^ 20 + off) n
  if !g.parity then groupBytes c g.id off n
  else if k < g.data then stripe k
  else xorAll n ((List.range g.data).map stripe)

/-- The same of a parity group's member, rebuilt from the other members (R439, R442). -/
def rebuilt (c : Cus) (g : Group) (k off n : Nat) : Bytes :=
  if g.parity then xorAll n (((List.range (g.data + 1)).filter (· != k)).map (fun i => memberBytes c g i off n))
  else memberBytes c g k off n

/-- Bytes of a member that hold records. -/
def memberUsed (g : Group) (k : Nat) : Nat :=
  if !g.parity then g.used else if k < g.data then min (2 ^ 20) (g.used - k * 2 ^ 20) else min (2 ^ 20) g.used

/-- The writes, by the drives' store numbers, that bring bytes `off` to `off + n` of a group to its members: every copy, or the data
stripes that they lie in and the parity over them. -/
def pieceWrites (c : Cus) (g : Group) (off n : Nat) : List (Nat × NvmeCmd) :=
  let members := (List.range g.members.length).zip g.members
  if !g.parity then members.map (fun e => (e.2.unit, .write g.id e.1 off (groupBytes c g.id off n)))
  else
    (List.range g.data).flatMap (fun k =>
      let lo := max off (k * 2 ^ 20)
      let hi := min (off + n) ((k + 1) * 2 ^ 20)
      if lo < hi then
        (members.filter (fun e => e.1 == k || e.1 == g.data)).map (fun e =>
          (e.2.unit, .write g.id e.1 (lo - k * 2 ^ 20) (memberBytes c g e.1 (lo - k * 2 ^ 20) (hi - lo))))
      else [])

/-- The writes of a record, as placed. -/
def recordWrites (c : Cus) (x : CusRec) : List (Nat × NvmeCmd) :=
  x.places.flatMap (fun p => (c.groups.filter (fun g => g.id == p.group)).flatMap (fun g => pieceWrites c g p.off p.len))

/-- The write of one whole member of a group. -/
def memberWrite (c : Cus) (g : Group) (k : Nat) : NvmeCmd := .write g.id k 0 (rebuilt c g k 0 (memberUsed g k))

/-! ### Steps of re-protection (R442, R443) -/

/-- Drives re-protection may write: ONLINE, link up, room with headroom, not in the group. -/
def spareDrives (c : Cus) (g : Group) : List Nat :=
  coolFirst c (((storeDrives c).filter (fun e =>
    let x := nth {} c.drives e.1
    x.st == .online && x.link && x.drain.isNone && decide (stripesEach g ≤ freeAll c e.1 e.2) &&
      !g.members.any (fun m => m.unit == e.2))).map (·.2))

/-- A member's drive is to be emptied: WORN, or being drained. -/
def leaving (c : Cus) (m : Member) : Bool :=
  m.ok && (List.range 4).any (fun d => let x := nth {} c.drives d; x.unit == some m.unit && (x.st == .worn || x.drain.isSome))

/-- Drives a group can be laid on anew: its own that take new copies or stand with it, and those with room for it. -/
def layDrives (c : Cus) (g : Group) : List Nat :=
  coolFirst c (((storeDrives c).filter (fun e => let x := nth {} c.drives e.1
    x.st == .online && x.link && x.drain.isNone && decide (g.data ≤ freeAll c e.1 e.2))).map (·.2))

/-- A group laid again by the layout of the present n: as groups of that layout over its bytes, the first under its own number and the
others under numbers from `next` on. -/
def relaid (lay : Nat × Bool × Nat) (can : List Nat) (next : Nat) (g : Group) : List Group :=
  let mem := (can.take lay.2.2).map (fun u => (⟨u, true⟩ : Member))
  if lay.2.1 then
    let size := lay.1 * 2 ^ 20
    (List.range (max 1 (ceilDiv g.used size))).map (fun i =>
      { g with id := if i = 0 then g.id else next + i - 1, data := lay.1, parity := true, members := mem
               used := min size (g.used - i * size) })
  else [{ g with parity := false, members := mem }]

/-- A member is not there or is to leave. -/
def wanting (c : Cus) (g : Group) : Option Member := g.members.find? (fun m => !m.ok || leaving c m)

/-- What a step does with a group: a member replaced or added, a member given up that no drive can take, or, where n has changed and the
present layout tolerates more or has other stripes, the group laid again; never with fewer members than stand now. A group that a record
is being written to waits. -/
def stepGroup (s : State) (g : Group) : Option (List Group) :=
  let c := s.cus
  if !readableNow c g || c.jobs.any (fun j => j.item.groups.contains g.id) then none
  else
    let lay := layoutOf (classCfg s g.cls).place (driveCount c)
    let can := layDrives c g
    let standing := (g.members.filter (·.ok)).length
    let reshaped := g.parity != lay.2.1 || (lay.2.1 && g.data != lay.1)
    let better := decide (lay.2.2 ≤ can.length) && decide (standing ≤ lay.2.2) &&
      (decide ((tolerance g).getD 0 < (if lay.2.1 then 1 else lay.2.2 - 1)) || (reshaped && groupProtected s g))
    match wanting c g, spareDrives c g with
    | some m, v :: _ => some [{ g with members := g.members.map (fun x => if x = m then ⟨v, true⟩ else x) }]
    | some m, [] =>
      let live := g.members.filter (·.ok)
      if better then some (relaid lay can c.nextGroup g)
      else if g.parity then
        if !m.ok ∧ !lay.2.1 ∧ standing ≤ min lay.2.2 can.length then
          some (relaid (1, false, min lay.2.2 can.length) can c.nextGroup g)
        else none
      else if !m.ok ∧ live != [] ∧ lay.2.2 ≤ live.length then some [{ g with members := live }]
      else none
    | none, v :: _ =>
      if groupProtected s g then (if reshaped && better then some (relaid lay can c.nextGroup g) else none)
      else if !g.parity ∧ !lay.2.1 ∧ g.members.length < lay.2.2 then some [{ g with members := g.members ++ [⟨v, true⟩] }]
      else if better then some (relaid lay can c.nextGroup g)
      else none
    | none, [] => if (!groupProtected s g || reshaped) ∧ better then some (relaid lay can c.nextGroup g) else none

/-- Order of R442: one remaining copy or member first, then by class, then oldest. -/
def groupRank (g : Group) : Nat :=
  let cls := if g.cls = 1 then 0 else if g.cls = 5 then 1 else if g.cls = 2 then 2 else if g.cls = 4 then 3 else 4
  (if tolerance g = some 0 then 0 else 5) + cls

/-- The group the next step works on, and the groups it becomes. -/
def nextStep (s : State) : Option (Group × List Group) :=
  (s.cus.groups.filterMap (fun g => (stepGroup s g).map (fun h => (groupRank g, g, h)))).foldl
    (fun (best : Option (Nat × Group × List Group)) x => match best with
      | none => some x
      | some b => if x.1 < b.1 then some x else some b) none |>.map (·.2)

/-- A piece of a group in the groups, of `size` bytes each, that the group has become. -/
def pieceIn (size : Nat) (new : List Group) (p : Piece) : List Piece :=
  ((List.range new.length).zip new).filterMap (fun e =>
    let lo := max p.off (e.1 * size)
    let hi := min (p.off + p.len) ((e.1 + 1) * size)
    if lo < hi then some ⟨e.2.id, lo - e.1 * size, hi - lo⟩ else none)

/-- Puts the groups that a group has become in its place, in the stripe map and in the records that lie in it. -/
def regroup (g : Group) (new : List Group) (c : Cus) : Cus :=
  let size := 2 ^ 20 * (((new.head?).map (·.data)).getD 1)
  let inPlace := fun (x : CusRec) => { x with places := x.places.flatMap (fun p => if p.group = g.id then pieceIn size new p else [p]) }
  { c with
    groups := c.groups.flatMap (fun x => if x.id = g.id then new else [x])
    recs := c.recs.map inPlace }

/-- The writes of a step: each member that is new, rebuilt where it was lost. -/
def moveWrites (g : Group) (new : List Group) (c : Cus) : List (Nat × NvmeCmd) :=
  let c := regroup g new c
  new.flatMap (fun h =>
    (((List.range h.members.length).zip h.members).filter (fun e => (freshUnits g h).contains e.2.unit)).map (fun e =>
      (e.2.unit, memberWrite c h e.1)))

end Sys2Proof.Machine
end

