-- ==== Sys2Proof/Machine/CusOps.lean ====
section
/-! DEFINITION. The custody store at work: sealing, the copying of the part's own records, writes and what becomes of them, steps of
re-protection, reclaiming of the ledger log, eviction (R436, R439, R442–R449, R452, R453). -/

namespace Sys2Proof.Machine

def modDrive (d : Nat) (f : Drive → Drive) : State → State := modCus (fun b => { b with drives := modAt b.drives d f })
def cusEvent (i : Nat) : State → State := modCus (fun b => { b with events := setBits b.events i })

/-! ### Sealing (R445–R447) -/

def recordKey (s : State) (cls ten : Nat) : Bytes :=
  kdf (custodyNode s) (label32 ([0x43, 0x55, 0x53, 0x45] ++ le 1 cls ++ le 2 ten)) (nodeCtx 3 0) 32
def sealKey (s : State) (cls : Nat) : Bytes :=
  kdf (custodyNode s) (label32 ([0x43, 0x55, 0x53, 0x53] ++ le 1 cls)) (nodeCtx 3 0) 32

def chainHead (s : State) (cls : Nat) : ChainHead := tabGet {} s.cus.heads cls

/-- The 128 B header. -/
def cusHeader (x : CusRec) (prev : Bytes) : Bytes :=
  [0x43, 0x55, 0x53, 0x52] ++ le 1 x.cls ++ le 1 1 ++ le 1 x.origin ++ le 1 x.kind ++ le 8 x.rid ++ le 8 x.tMono ++ le 8 x.wall ++
    le 2 x.ten ++ le 1 x.party ++ zeros 1 ++ le 4 x.bodyLen ++ le 8 x.seq ++ le 8 x.epoch ++ le 8 x.lsn ++ slice prev 0 48 ++ zeros 16

/-- The counter-mode pass of a body. -/
def cusCrypt (s : State) (cls ten rid : Nat) (b : Bytes) : Bytes :=
  ctr (recordKey s cls ten) (le 8 rid ++ le 1 cls ++ zeros 7) (blocks16 b)

/-- Seals a record: RID and PREV_HASH follow the chain head of its class. -/
def sealRec (s : State) (x : CusRec) (body : Bytes) : CusRec :=
  let h := chainHead s x.cls
  let y := { x with rid := h.rid + 1, bodyLen := body.length }
  let padded := body ++ zeros ((16 - body.length % 16) % 16)
  let front := cusHeader y h.hash ++ cusCrypt s y.cls y.ten y.rid padded
  let hash := sha384 front
  { y with stored := front ++ hash ++ cmac (sealKey s y.cls) hash, hash := hash }

/-! ### Jobs -/

/-- What became of a try to begin writing a record. -/
inductive Began where
  /-- It must wait: the class is being appended to, keys or ledger or drives are not there. -/
  | waits
  /-- No room, and nothing evictable (R450). -/
  | full
  | ok (s : State)

/-- The outermost states in which any record is sealed: keys at hand, store in use. -/
def canSeal (s : State) : Bool := storeOn s && secReady s && vaultOk s

/-- The stamp that work of the internal tenancy over `len` bytes takes, and its next finish tag: weight 32 and the base cost of class
CUS (R161, R164; log entry 35). -/
def innerStamp (len : Nat) (s : State) : Nat × Nat :=
  let st := max (virtualNow s) s.cus.finish
  (st, st + ceilDiv (256 * (256 + ceilDiv len 64)) 32)

/-- The stamp of a record's job, and the internal tenancy's finish tag after it: a descriptor's record has the descriptor's stamp. -/
def jobStamp (what : JobKind) (len : Nat) (s : State) : Nat × Nat :=
  match what with
  | .append op | .delta op => (((getFlight s op).map (·.stamp)).getD 0, s.cus.finish)
  | .part _ | .ledgercp _ | .segment | .move _ _ => innerStamp len s

/-- The oldest part record that waits to be copied to its class. -/
def waitingPart (s : State) : Option (LRec × PartRec) :=
  s.led.log.findSome? (fun r => match r.kind with
    | .part p => if r.copied then none else some (r, p)
    | _ => none)

/-- The drives' store numbers that a list of writes goes to. -/
def writtenTo (l : List (Nat × NvmeCmd)) : List Nat := l.foldl (fun a e => if a.contains e.1 then a else a ++ [e.1]) []

/-- Sends writes to the drives of the store. -/
def sendWrites (l : List (Nat × NvmeCmd)) : State → State :=
  each l (fun e t => match (storeDrives t.cus).find? (fun x => x.2 == e.1) with
    | some x => emit (.nvme x.1 e.2) t
    | none => t)

/-- Begins writing a record: sealed, placed, the writes sent. A class takes one record at a time, and RIDs follow the ledger: the part
records of ACCESS that the ledger holds come before an append that begins now (R27, R447; log entry 90). -/
def beginRec (what : JobKind) (x : CusRec) (body : Bytes) (s : State) : Began :=
  if !canSeal s || s.cus.jobs.any (fun j => j.item.cls == x.cls) || takers s.cus 0 == [] || !canLog (.other 434 0) s ||
      (x.origin == 1 && x.cls == 2 && (waitingPart s).isSome && !s.cus.full) then .waits
  else if x.origin = 1 ∧ x.cls = 2 ∧ (waitingPart s).isSome then .full
  else
    let r := sealRec s x body
    match placeBytes [] (classCfg s x.cls).place x.cls 40 (placedLen r) s.cus with
    | none => .full
    | some (places, c) =>
      let r := { r with places := places }
      let s := if c.nextGroup = s.cus.nextGroup then s else logRec (.other 434 c.nextGroup) s
      let st := jobStamp what body.length s
      let s := modCus (fun _ => { c with
        jobs := c.jobs ++ [{ what := what, stamp := st.1, item := r, wait := drivesOf c r.groups, wrote := 0 }], full := false
        finish := st.2, topStamp := max c.topStamp st.1 }) (noteV s)
      .ok (sendWrites (recordWrites s.cus r) s)

/-- The header fields of a record the part makes for itself. -/
def partHeader (s : State) (cls kind lsn : Nat) : CusRec :=
  { cls := cls, rid := 0, origin := 0, kind := kind, tMono := monoUs s, wall := wallUs s / 1000000, ten := 0xFFFF, party := 0xFF,
    bodyLen := 0, seq := 0, epoch := s.slc.epoch, lsn := lsn, stored := [], hash := [], places := [] }

/-- The 64 B part body and the writ behind it (R448). Only a latch transition's record names the policy epoch (R305); the body of every
other kind has EPOCH 0. -/
def partBody (p : PartRec) : Bytes :=
  le 4 p.tid ++ le 2 p.ten ++ le 1 p.zone ++ le 1 p.cause ++ le 1 p.oldState ++ le 1 p.newState ++ le 1 p.unit ++ zeros 1 ++
    le 8 (if p.kind = 0x03 then p.epoch else 0) ++ le 4 p.fresh ++ le 4 p.tcnt ++ le 8 p.sealId ++ le 8 p.seq ++ le 4 p.cplId ++ le 4 p.count ++ zeros 12 ++ p.extra

/-- The header of a part record of the ledger. -/
def partRecord (s : State) (r : LRec) (p : PartRec) : CusRec :=
  { partHeader s 2 p.kind r.lsn with tMono := p.tMono, wall := p.wall, epoch := p.epoch }

/-- A LOST drive's stripe map entry is recorded, and the drive leaves LOST (R437). -/
def lostLeaves (d : Nat) (s : State) : State :=
  if (getDrive s d).st = .lost ∧ canLog (.other 437 d) s then
    modDrive d (fun y => { y with st := if y.link then .init else .absent, initAt := monoUs s }) (logRec (.other 437 d) s)
  else s

/-- Places a record that is being written once more, on drives but for `avoid` where others can take it, and writes it there. -/
def placeAgain (avoid : List Nat) (j : CusJob) (s : State) : Option State :=
  let cls := j.item.cls
  match placeBytes avoid (classCfg s cls).place cls 40 (placedLen j.item) { s.cus with open_ := tabErase s.cus.open_ cls } with
  | none => none
  | some (places, c) =>
    let x := { j.item with places := places }
    let j' := { j with item := x, wait := drivesOf c x.groups, wrote := 0 }
    let s := tryLog (.other 434 c.nextGroup) (modCus (fun _ => { c with
      jobs := c.jobs.map (fun y => if y.item.cls = cls then j' else y) }) s)
    some (sendWrites (recordWrites s.cus x) s)

/-- A record that no drive is left to write to is placed again once one can take it. -/
def placeIdle (s : State) : State :=
  each (s.cus.jobs.filter (fun j => j.wait.isEmpty)) (fun j t =>
    match placeAgain [] j t with
    | some u => u
    | none => t) s

/-- Begins the copying of the part's own records that can begin (R27, R164, R452, R477). -/
def custodyWork (s : State) : State :=
  let s := placeIdle (each (List.range 4) lostLeaves s)
  let s := match waitingPart s with
    | some (r, p) =>
      match beginRec (.part r.lsn) (partRecord s r p) (partBody p) s with
      | .ok t => t
      | .full => modCus (fun b => { b with full := true }) s
      | .waits => s
    | none => s
  match s.dir.snapSegs with
  | body :: rest =>
    match beginRec .segment { partHeader s 4 0x11 s.led.lsn with snap := s.dir.snapId } body s with
    | .ok t => modDir (fun d => { d with snapSegs := rest }) t
    | .full => modCus (fun b => { b with full := true }) s
    | .waits => s
  | [] => s

/-! ### Records that count as appended (R27, R447) -/

/-- Seals the part records given one after another behind a chain head. -/
def sealParts (s : State) : List (LRec × PartRec) → ChainHead → List CusRec
  | [], _ => []
  | (r, p) :: rest, h =>
    let x := sealRec (modCus (fun c => { c with heads := tabPut c.heads 2 h }) s) (partRecord s r p) (partBody p)
    x :: sealParts s rest { rid := x.rid, hash := x.hash }

/-- The part records that are in the ledger and not yet copied, numbered and chained behind the store's last ACCESS record, or behind
the one being appended: each counts as appended once it is in the ledger, whether or not keys and lanes can seal it now (log entry
90). -/
def ledgerRecs (s : State) : List CusRec :=
  let head := match s.cus.jobs.find? (fun j => j.item.cls == 2) with
    | some j => (match j.what with | .append _ => { rid := j.item.rid, hash := j.item.hash } | _ => chainHead s 2)
    | none => chainHead s 2
  sealParts s (s.led.log.filterMap (fun r => match r.kind with
    | .part p => if r.copied then none else some (r, p)
    | _ => none)) head

/-- The records of the store and those that count as appended to it. -/
def appended (s : State) : List CusRec := s.cus.recs ++ ledgerRecs s

/-- The last RID of a class. -/
def lastRid (s : State) (cls : Nat) : Nat :=
  (appended s).foldl (fun a x => if x.cls = cls then max a x.rid else a) (chainHead s cls).rid

/-- A record of the store that is not protected (R432). -/
def recWeak (s : State) (cls rid : Nat) : Bool := s.cus.recs.any (fun x => x.cls == cls && x.rid == rid && !recProtected s x)

/-! ### Reclaiming the log (R453) -/

/-- A log record that may not yet be reclaimed. -/
def holdsLog (s : State) (r : LRec) : Bool :=
  decide (s.led.cpLsn < r.lsn) || (match r.kind with
    | .part _ => !r.copied
    | .fate op => !((getFlight s op).any (·.posted))
    | _ => false)

/-- Drops the log up to the first record that must stay. -/
def reclaim (s : State) : State :=
  let keep := s.led.log.dropWhile (fun r => !holdsLog s r)
  modLed (fun l => judgeLog { l with log := keep, used := (keep.map (·.units)).foldl (· + ·) 0 }) s

/-! ### Completion of a record -/

/-- Counts the stripes a step moves off a drive toward its DRIVE_DRAIN (R591). -/
def countDrain (g : Group) (gone : List Nat) (s : State) : State :=
  each s.cus.drives (fun x t => match x.drain, x.unit with
    | some op, some u =>
      if gone.contains u then modFlight op (fun f => { f with units := f.units + stripesEach g }) t else t
    | _, _ => t) s

/-- The part record of a drive LOST, added or RETIRED (R448). -/
def driveRecord (d old new : Nat) (s : State) : State :=
  logPart { kind := 0x10, unit := d, oldState := old, newState := new } s

/-- WORN drives, and drives being drained, with nothing left on them retire. -/
def retireEmpty (s : State) : State :=
  each (List.range 4) (fun d t =>
    let x := getDrive t d
    match x.unit with
    | some u =>
      if (x.st = .worn ∨ x.drain.isSome) ∧ usedStripes t.cus u = 0 ∧ !t.cus.jobs.any (fun j => j.wait.contains u) then
        let t := driveRecord d (if x.st = .worn then 4 else 3) 7
          (tryLog (.unit (pNvm * 256 + d) 7) (modDrive d (fun y => { y with st := .retired, drain := none }) t))
        match x.drain with
        | some op => let n := ((getFlight t op).map (·.units)).getD 0; settle op { done n with units := n } t
        | none => t
      else t
    | none => t) s

/-- Nothing has changed under a step of re-protection since it began: its group stands as it was, and no drive it wrote to is LOST. -/
def moveStands (c : Cus) (g : Group) (new : List Group) : Bool :=
  c.groups.contains g &&
    new.all (fun h => h.members.all (fun m => !m.ok || !(nth ⟨[], true, 0, false, []⟩ c.known m.unit).lost))

/-- The new copies of a step of re-protection are written: the map change is recorded, only then is it used, and only then are the old
copies free (R442, R443). -/
def moveDone (g : Group) (new : List Group) (s : State) : State :=
  let s := modCus (fun c => { c with jobs := c.jobs.filter (fun j => j.what != .move g new) }) s
  if moveStands s.cus g new ∧ canLog (.other 434 g.id) s then
    let s := modCus (regroup g new) (logRec (.other 434 g.id) s)
    let units := fun (h : Group) => h.members.map (·.unit)
    let s := countDrain g ((units g).filter (fun u => !(new.any (fun h => (units h).contains u)))) s
    let s := retireEmpty s
    onlyIf (nextStep s).isNone (cusEvent 3) s
  else s

/-- The record has its copies: its chain head is taken and what waits for it goes on. -/
def recordDone (j : CusJob) (s : State) : State :=
  let x := j.item
  let kept := fun (s : State) => modCus (fun c => { c with
    jobs := c.jobs.filter (fun y => y.item.cls != x.cls), recs := c.recs ++ [x]
    heads := tabPut c.heads x.cls { rid := x.rid, hash := x.hash } }) s
  let s := match j.what with
    | .move _ _ => s
    | _ => kept s
  let s := match j.what with
    | .move g new => moveDone g new s
    | .append op =>
      settle op { done (x.rid + 2 ^ 48 * min 255 j.wrote) with degraded := !recProtected s x } (atStage op 0x03 0 s)
    | .part lsn =>
      modLed (fun l => { l with log := l.log.map (fun r => if r.lsn = lsn then { r with copied := true } else r) }) s
    | .ledgercp lsn => modLed (fun l => { l with cpLsn := lsn }) s
    | .delta op =>
      modDir (fun d => { d with pending := d.pending.map (fun p => if p.op = op then { p with rid := x.rid } else p) }) s
    | .segment => modDir (fun d => { d with
        snapLeft := d.snapLeft - 1, events := if d.snapLeft = 1 then setBits d.events 3 else d.events }) s
  custodyWork (reclaim s)

/-- The writes of a job on a drive end. With `ok` the copy counts (R436). -/
def jobWrite (u : Nat) (ok : Bool) (j : CusJob) (s : State) : State :=
  let j' := { j with wait := j.wait.erase u, wrote := j.wrote + ofBool ok }
  let s := modCus (fun c => { c with jobs := c.jobs.map (fun y => if y.item.cls = j.item.cls then j' else y) }) s
  if j'.wait.isEmpty then recordDone j' s else s

/-- The stripes of a record on a drive, which were not written, are lost-copy. -/
def copyLost (u : Nat) (x : CusRec) : State → State :=
  modCus (fun c => { c with groups := c.groups.map (fun g =>
    if x.groups.contains g.id then { g with members := g.members.map (fun m => if m.unit = u then { m with ok := false } else m) } else g) })

/-- A write in flight to drive `u` is not counted (R436, R439). A record is placed on other drives where R432 allows one, or where it has no
copy otherwise; else it keeps the copies it gets. A step of re-protection is given up. -/
def jobLost (u : Nat) (j : CusJob) (s : State) : State :=
  match j.what with
  | .move g new => modCus (fun c => { c with jobs := c.jobs.filter (fun y => y.what != .move g new) }) s
  | _ =>
    let alone := j.wrote == 0 && (j.wait.erase u).isEmpty
    let other := (takers s.cus 1).any (fun v => !(drivesOf s.cus j.item.groups).contains v)
    match (if alone || other then placeAgain [u] j s else none) with
    | some t => t
    | none =>
      if alone then
        modCus (fun c => { c with jobs := c.jobs.map (fun y => if y.item.cls = j.item.cls then { j with wait := [] } else y) }) s
      else jobWrite u false j (copyLost u j.item s)

/-- Drops the job of an append that ends with another fate; its RID is released (R457). -/
def cancelAppend (op : Nat) : State → State :=
  modCus (fun c => { c with jobs := c.jobs.filter (fun j => j.what != .append op) })

/-! ### Eviction (R449) -/

/-- First LSN of the duplicate windows of all rings. -/
def windowLsn (s : State) : Option Nat := minList ((s.host.rings.flatMap (fun e => dupWindow s e.1)).map (·.lsn))

def evictable (s : State) (x : CusRec) : Bool :=
  if x.cls = 4 then decide (x.snap + 2 ≤ (if s.dir.snapLeft = 0 then s.dir.snapId else s.dir.snapId - 1))
  else if x.cls = 5 then (match windowLsn s with | some n => decide (x.lsn < n) | none => true)
  else decide (x.tMono + 86400000000 * (classCfg s x.cls).retainDays ≤ monoUs s)

/-- Free space outside headroom and the whole store, MiB. -/
def storeSpace (c : Cus) : Nat × Nat :=
  (storeDrives c).foldl (fun a e => (a.1 + freeOutside c e.1 e.2, a.2 + ((nth {} c.drives e.1).cap - 1))) (0, 0)

/-- Removes a record; groups without a record are freed. -/
def evictRec (x : CusRec) (s : State) : State :=
  let same := fun (y : CusRec) => y.cls == x.cls && y.rid == x.rid
  let s := tryLog (.evict x.cls x.rid) s
  let s := modCus (fun c =>
    let recs := c.recs.filter (fun y => !same y)
    let live := fun (g : Group) => recs.any (fun y => y.groups.contains g.id) || c.jobs.any (fun j => j.item.groups.contains g.id) ||
      tabFind c.open_ g.cls == some g.id
    { c with recs := recs, gone := c.gone ++ [(x.cls, x.rid, x.hash)], groups := c.groups.filter live }) s
  onlyIf (x.origin == 1) (modRun x.ten (fun t => { t with custodyHeld := t.custodyHeld - x.bodyLen })) (cusEvent 6 s)

/-- The oldest evictable record. -/
def oldestEvictable (s : State) : Option CusRec :=
  (s.cus.recs.filter (evictable s)).foldl (fun (best : Option CusRec) x => match best with
    | none => some x
    | some b => if x.tMono < b.tMono then some x else some b) none

/-- Evicts until 8 % of the store is free. -/
def evictAll : Nat → State → State
  | 0, s => s
  | n + 1, s =>
    let sp := storeSpace s.cus
    if 100 * sp.1 < 8 * sp.2 then
      match oldestEvictable s with
      | some x => evictAll n (evictRec x s)
      | none => s
    else s

/-- Eviction starts below 5 %. -/
def evictIfLow (s : State) : State :=
  let sp := storeSpace s.cus
  if 100 * sp.1 < 5 * sp.2 then evictAll s.cus.recs.length s else s

end Sys2Proof.Machine
end

