-- ==== Sys2Proof/Machine/Custody.lean ====
section
/-! DEFINITION. The CUS class, the drives, re-protection, eviction and ledger checkpoints (chapter 13). -/

namespace Sys2Proof.Machine

/-! ### APPEND (R456, R457) -/

def execAppend (r : Nat) (rd : HostRead) (s : State) : Host.Outcome State Fault Refusal :=
  .next (
    let cls := match getFlight s r with | some f => fieldLE f.raw 24 1 | none => 0
    let s := onlyIf (linkMode s) evictIfLow s
    -- Without the vault no record can be sealed (R487); a class takes one record at a time, and in ACCESS the part records that the
    -- ledger holds come first (R27, R447).
    if vaultOk s && (!canSeal s || s.cus.jobs.any (fun j => j.item.cls == cls) || driveCount s.cus == 0 ||
        (cls == 2 && (waitingPart s).isSome && !s.cus.full)) then s
    else startOp 0x0600 r (fun f s =>
      if !vaultOk s then settle r (failFate fDevice 0x18) s
      else if !hashUp s then settle r (failFate fDevice 0x19) s
      else withRead r rd (dLen f.raw) 0 (fun body s =>
        let x : CusRec := {
          cls := cls, rid := 0, origin := 1, kind := 0, tMono := monoUs s, wall := wallUs s / 1000000, ten := f.ten,
          party := f.party, bodyLen := body.length, seq := dSeq f.raw, epoch := s.slc.epoch, lsn := f.lsn, stored := [],
          hash := [], places := [] }
        match beginRec (.append r) x body (atStage r 0x01 0 s) with
        | .ok t => atStage r 0x02 0 t
        | .full => settle r (failFate fDevice 0x26 0x01) (modCus (fun b => { b with full := true }) s)
        | .waits => modFlight r (fun g => { g with begun := false }) s) s) s)
where
  linkMode (s : State) : Bool := s.sys.ready && (s.pwr.mode == .cab || s.pwr.mode == .drive || s.pwr.mode == .service)

/-! ### READ (R458) -/

def findRec (s : State) (cls rid : Nat) : Option CusRec := (appended s).find? (fun x => x.cls == cls && x.rid == rid)
def wasEvicted (s : State) (cls rid : Nat) : Bool := s.cus.gone.any (fun e => e.1 == cls && e.2.1 == rid)

/-- The tenancy appended the record, or its PARTY reads the class. -/
def mayRead (s : State) (f : Flight) (x : CusRec) : Bool :=
  (x.origin == 1 && x.ten == f.ten) || (classCfg s x.cls).parties.getLsbD f.party

/-- The same by the rules in force, at the commit point of an evidence read-out (R177). -/
def mayReadNow (s : State) (f : Flight) (x : CusRec) : Bool :=
  (x.origin == 1 && x.ten == f.ten) || (classCfg s x.cls).parties.getLsbD (getTen s f.ten).party

/-- HASH and SEAL of a stored record hold. -/
def sealHolds (s : State) (x : CusRec) : Bool :=
  let n := x.stored.length - 64
  let hash := slice x.stored n 48
  sha384 (x.stored.take n) == hash && cmac (sealKey s x.cls) hash == slice x.stored (n + 48) 16

/-- Header, decrypted body, zeros to a multiple of 64 B, trailer. -/
def plainRecord (s : State) (x : CusRec) : Bytes :=
  let n := x.stored.length - 64
  let body := (cusCrypt s x.cls x.ten x.rid (slice x.stored 128 (n - 128))).take x.bodyLen
  x.stored.take 128 ++ body ++ zeros ((64 - x.bodyLen % 64) % 64) ++ x.stored.drop n

/-- Every group of the record can be read now. -/
def recReadable (s : State) (x : CusRec) : Bool := x.groups.all (fun i => (getGroup s i).any (readableNow s.cus))

/-- Writes the plaintext and ends the READ. -/
def readOut (r : Nat) (f : Flight) (x : CusRec) (wr : Bool) (s : State) : State :=
  writeAndSettle r f 0 (plainRecord s x) wr { done x.bodyLen with degraded := !recProtected s x } (atStage r 0x03 0 s)

def execCusRead (r : Nat) (wr : Bool) (s : State) : Host.Outcome State Fault Refusal :=
  .next (
    let key := fun (f : Flight) => (fieldLE f.raw 24 1, fieldLE f.raw 32 8)
    let waits := match getFlight s r with
      | none => false
      | some f => match findRec s (key f).1 (key f).2 with
        | some x => vaultOk s && mayRead s f x && !recLost s x && (!recReadable s x || !secReady s)
        | none => false
    if waits then s
    else startOp 0x0601 r (fun f s =>
      let (cls, rid) := key f
      match findRec s cls rid with
      | none => settle r (failFate fAbsent (if wasEvicted s cls rid then 0x23 else 0x22)) s
      | some x =>
        if !mayRead s f x then settle r (failFate fPolicy 0x21 0x01) s
        else if dLen f.raw < 192 + (x.bodyLen + 63) / 64 * 64 then settle r (failFate fMalformed 0x24 0x01) s
        else if recLost s x then settle r (failFate fDevice 0x28 0x01) s
        else if !vaultOk s || decide (x.lsn < s.sec.genLsn) then settle r (failFate fDevice 0x18 0x01) s
        else if !hashUp s then settle r (failFate fDevice 0x19 0x01) s
        else if !sealHolds s x then settle r (failFate fAuth 0x25 0x01) s
        else if cls = 3 then commitPoint r f (mayReadNow s f x) (.readOut r) 0x02 0x1A (readOut r f x wr) s
        else readOut r f x wr (atStage r 0x02 0 s)) s)

/-! ### SCAN, VERIFY, STATUS (R459, R460) -/

def scanEntry (s : State) (x : CusRec) : Bytes :=
  le 8 x.rid ++ le 8 x.tMono ++ le 4 x.bodyLen ++ le 2 x.ten ++ le 1 x.kind ++
    le 1 (if recLost s x then 2 else if recProtected s x then 0 else 1) ++ zeros 8

/-- The records of a class in RID order. -/
def classRecs (s : State) (cls : Nat) : List CusRec := (appended s).filter (fun x => x.cls == cls)

def execCusScan (r : Nat) (wr : Bool) (s : State) : Host.Outcome State Fault Refusal :=
  .next (startOp 0x0602 r (fun f s =>
    let l := ((classRecs s (fieldLE f.raw 24 1)).filter (fun x =>
      decide (fieldLE f.raw 32 8 ≤ x.tMono) && mayRead s f x)).take (dLen f.raw / 32)
    writeAndSettle r f 0 (l.flatMap (scanEntry s)) wr (done l.length) s) s)

/-- HASH of the record before a RID, as the store or the eviction's ledger record keeps it. -/
def hashBefore (s : State) (cls rid : Nat) : Bytes :=
  if rid ≤ 1 then zeros 48
  else match findRec s cls (rid - 1) with
    | some x => x.hash
    | none => match s.cus.gone.find? (fun e => e.1 == cls && e.2.1 == rid - 1) with
      | some e => e.2.2
      | none => zeros 48

/-- A record passes VERIFY. -/
def verifies (s : State) (x : CusRec) : Bool :=
  slice x.stored 64 48 == slice (hashBefore s x.cls x.rid) 0 48 && sealHolds s x

def execCusVerify (r : Nat) (s : State) : Host.Outcome State Fault Refusal :=
  .next (
    if vaultOk s && !secReady s then s
    else startOp 0x0603 r (fun f s =>
      let cls := fieldLE f.raw 24 1
      let a := fieldLE f.raw 32 8
      let b := fieldLE f.raw 40 8
      let l := (classRecs s cls).filter (fun x => decide (a ≤ x.rid) && decide (x.rid ≤ b))
      if a = 0 ∨ lastRid s cls < b then settle r (failFate fAbsent 0x22) s
      else if !vaultOk s then settle r (failFate fDevice 0x18) s
      else if !hashUp s then settle r (failFate fDevice 0x19) s
      else match l.find? (fun x => recLost s x || !verifies s x) with
        | some x =>
          if recLost s x then settle r (failFate fDevice 0x28) s
          else settle r { failFate fAuth 0x25 with result := x.rid } s
        | none => settle r { done l.length with units := l.length } s) s)

/-- CUS_DRV_ST. -/
def drvCode (s : State) (d : Nat) : Nat :=
  if !fitted s pNvm d then 0
  else match (getDrive s d).st with
    | .absent => 1 | .init => 2 | .online => 3 | .worn => 4 | .lost => 5 | .foreign => 6 | .retired => 7

def drvFree (s : State) (d : Nat) : Nat :=
  match (getDrive s d).unit with
  | some u => freeOutside s.cus d u
  | none => 0

/-- Free log in bytes. -/
def logFree (s : State) : Nat := 32 * (logUnits - s.led.used)

def cusStatusBytes (s : State) (ten : Nat) : Bytes :=
  (List.range 4).flatMap (fun d => le 1 (drvCode s d)) ++
    (List.range 4).flatMap (fun d => le 4 (getDrive s d).cap ++ le 4 (drvFree s d)) ++ le 4 (degStripes s) ++
    le 4 (lostRecords s) ++ le 4 (logFree s / 1024) ++ le 8 (getRun s ten).custodyHeld ++
    ((List.range 5).flatMap (fun c => le 8 (lastRid s (c + 1)))) ++ zeros 32

def execCusStatus (r : Nat) (wr : Bool) (s : State) : Host.Outcome State Fault Refusal :=
  .next (startOp 0x0604 r (fun f s => writeAndSettle r f 0 (cusStatusBytes s f.ten) wr (done 0) s) s)

/-! ### Drives (R436–R440) -/

/-- The job that waits for a drive with the lowest stamp, the oldest among equals (R164). -/
def firstJob (s : State) (u : Nat) : Option CusJob :=
  (s.cus.jobs.filter (fun j => j.wait.contains u)).foldl (fun (best : Option CusJob) j => match best with
    | none => some j
    | some b => if j.stamp < b.stamp then some j else some b) none

/-- The drive of a DRIVE_DRAIN is LOST: PARTIAL with the stripes moved so far, or DEVICE_FAULT when there is none (R593). -/
def driveGone (op : Nat) (s : State) : State :=
  let n := ((getFlight s op).map (·.units)).getD 0
  if n = 0 then settle op (failFate fDevice 0x25) s else settle op { failFate fPartial 0x25 with units := n, result := n } s

/-- A drive of the store is LOST: recorded first, then every copy and stripe on it marked lost-copy; writes in flight to it go
elsewhere (R438, R439). -/
def storeDriveLost (d u old : Nat) (s : State) : State :=
  let before := lostRecords s
  let s := cusEvent 0 (tryLog (.unit (pNvm * 256 + d) 5) s)
  let s := modCus (fun c => { c with
    groups := c.groups.map (fun g => { g with members := g.members.map (fun m => if m.unit = u then { m with ok := false } else m) })
    known := modAt c.known u (fun k => { k with lost := true }) }) s
  let s := each (s.cus.jobs.filter (fun j => j.wait.contains u)) (jobLost u) s
  let s := fault pNvm d 0x02 sDegraded 0x04 0 0 (driveRecord d old 5 s)
  onlyIf (decide (before < lostRecords s)) (cusEvent 8) s

/-- A drive in ONLINE or WORN is declared LOST; it leaves LOST when the stripe map's change is recorded (R437). -/
def declareLost (d : Nat) (s : State) : State :=
  let x := getDrive s d
  match x.unit with
  | some u =>
    if x.st = .online ∨ x.st = .worn then
      let s := modDrive d (fun y => { y with st := .lost, unit := none, downAt := none, drain := none }) s
      let s := storeDriveLost d u (if x.st = .online then 3 else 4) s
      let s := match x.drain with | some op => driveGone op s | none => s
      lostLeaves d s
    else s
  | none => s

/-- The drive that was at a port before the restart of its controller does not come back: declared LOST (R438, R444; log entry 111). -/
def wasLost (d : Nat) (s : State) : State :=
  match (getDrive s d).was with
  | some u => storeDriveLost d u 3 (modDrive d (fun y => { y with was := none, downAt := none }) s)
  | none => s

def execNvmeLinkDown (d : Fin 4) (s : State) : Host.Outcome State Fault Refusal :=
  .next (
    let x := getDrive s d
    if x.link then
      if x.st = .online ∨ x.st = .worn then modDrive d (fun y => { y with link := false, downAt := some (monoUs s) }) s
      else if x.st = .lost then modDrive d (fun y => { y with link := false }) s
      else modDrive d (fun y => { y with link := false, st := .absent, unit := none, downAt := y.was.map (fun _ => monoUs s) }) s
    else s)

/-- The link has not come back within 100 ms: that of a drive in use, or, from the release on, that of the drive that was there before
the restart (R438, R444). -/
def execDriveLossDeclaration (d : Fin 4) (s : State) : Host.Outcome State Fault Refusal :=
  .next (match (getDrive s d).downAt with
    | some t =>
      let x := getDrive s d
      if x.st = .online ∨ x.st = .worn then declareLost d (elapseTo (t + 100000) s)
      else if x.link && x.st == .init then s
      else wasLost d (elapseTo (t + 100000) s)
    | none => s)

/-- CSTS.CFS reads 1. -/
def execNvmeFatalStatus (d : Fin 4) (s : State) : Host.Outcome State Fault Refusal :=
  .next (if (getDrive s d).link then (if (getDrive s d).st = .init then wasLost d s else declareLost d s) else s)

/-- No completion within 2 s, and neither the Abort nor the controller reset recovers it within a further 3 s. -/
def execNvmeCommandTimeout (d : Fin 4) (s : State) : Host.Outcome State Fault Refusal :=
  .next (
    let x := getDrive s d
    if x.link && (x.st == .online || x.st == .worn) then
      declareLost d (elapseNs 3000000000 (emit (.nvme d .reset) (emit (.nvme d .abort) s)))
    else s)

/-- A link reaches L0: an absent drive enters INIT; one whose link was away for less than 100 ms goes on. -/
def execNvmeLinkUp (d : Fin 4) (s : State) : Host.Outcome State Fault Refusal :=
  .next (
    let x := getDrive s d
    if portUp s pNvm d && !x.link then
      modDrive d (fun y =>
        if y.st = .absent then { y with link := true, st := .init, initAt := monoUs s }
        else { y with link := true, downAt := none }) s
    else s)

/-- An ONLINE drive becomes WORN; the stripe map keeps it. -/
def driveWorn (d : Nat) (s : State) : State :=
  let x := getDrive s d
  if x.st = .online then
    let s := modCus (fun c => { c with known := match x.unit with
      | some u => modAt c.known u (fun k => { k with worn := true })
      | none => c.known }) s
    cusEvent 2 (fault pNvm d 0x05 sDegraded 0x02 0 0 (modDrive d (fun y => { y with st := .worn }) s))
  else s

/-- Takes a drive of the store into ONLINE, or into WORN where the stripe map has it so, or a wear condition it shows holds (R437, R440). -/
def driveOnline (d u : Nat) (label : DriveLabel) (s : State) : State :=
  let worn := (nth ⟨[], true, 0, false, []⟩ s.cus.known u).worn
  let s := modCus (fun c => { c with drives := c.drives.map (fun y => if y.was = some u then { y with was := none, downAt := none } else y) }) s
  let s := cusEvent 1 (modDrive d (fun y => { y with st := if worn then .worn else .online, unit := some u }) s)
  custodyWork (onlyIf (label.critical || decide ((custodyCfg s).wearPct ≤ label.used)) (driveWorn d) s)

/-- The number of a DRIVE_UID in the stripe map. -/
def knownUnit (s : State) (uid : Bytes) : Option Nat := s.cus.known.findIdx? (fun k => k.uid == uid)

/-- What the part has a drive do at initialisation (R435): the admin queue pair and the four I/O queue pairs, NSID 1, the features,
autonomous power state transitions off, an operational power state. The features' values but those are free. -/
def initDrive (d ps : Nat) (s : State) : State :=
  each ([.enable 32, .identify 0, .identify 1, .feature 0x07 (3 + 3 * 2 ^ 16), .feature 0x0C 0, .feature 0x02 ps,
    .feature 0x06 (byteAt (freeBytes s 1) 0 % 2), .feature 0x04 (beAt (freeBytes s 3) 1 2), .feature 0x0B (beAt (freeBytes s 5) 3 2)] ++
    (List.range 4).map (fun i => NvmeCmd.queuePair (i + 1) 256) ++ [.health, .awaitEvent]) (fun c t => emit (.nvme d c) t) (drawn 5 s)

/-- NSID 1 is one the part uses: LBAs of 512 B or 4,096 B, no metadata and no protection information (R435). -/
def namespaceOk (label : DriveLabel) : Bool := (label.lba == 512 || label.lba == 4096) && label.plain

/-- Writes a new label, with a DRIVE_UID drawn for it, and notes it in the stripe map (R437). -/
def writeLabel (d : Nat) (s : State) : State :=
  let uid := random s 16
  let s := emit (.nvme d (.label s.fuse.uid uid s.led.lsn)) (drew .lanes 16 s)
  modCus (fun c => { c with known := c.known ++ [{ uid := uid, lsn := s.led.lsn }] }) s

/-- Writes a new label and takes the drive into the store (R437). -/
def labelDrive (d : Nat) (label : DriveLabel) (s : State) : State :=
  driveRecord d 2 3 (driveOnline d s.cus.known.length label (writeLabel d s))

/-- An INIT drive is ready and shows its label (R435, R437). A drive whose namespace the part does not use is taken out of service
(log entry 111). -/
def execDriveReady (d : Fin 4) (label : DriveLabel) (s : State) : Host.Outcome State Fault Refusal :=
  .next (
    if (getDrive s d).st == .init && portUp s pNvm d then
      if !namespaceOk label then outOfService pNvm d 0x02 sDegraded 0 (wasLost d s)
      else
      let ps := byteAt (freeBytes s 1) 0 % 16
      let s := initDrive d ps (drawn 1 (modDrive d (fun y =>
        { y with cap := min label.cap 67108864, usedPct := label.used, temp := label.temp, hot := label.hot, ps := ps }) s))
      match label.label with
      | none => if canDraw s then labelDrive d label s else s
      | some (store, uid) =>
        match (if store = s.fuse.uid then knownUnit s uid else none) with
        | some u =>
          if (nth ⟨[], true, 0, false, []⟩ s.cus.known u).lost then cusEvent 7 (modDrive d (fun y => { y with st := .foreign }) s)
          else driveOnline d u label s
        | none => cusEvent 7 (modDrive d (fun y => { y with st := .foreign }) s)
    else s)

/-- Not ready within 5 s (R436); a drive of the store that restarts is LOST by it (R444). -/
def execDriveReadyTimeout (d : Fin 4) (s : State) : Host.Outcome State Fault Refusal :=
  .next (
    let x := getDrive s d
    if x.st = .init then wasLost d (outOfService pNvm d 0x02 sDegraded 0 (elapseTo (x.initAt + 5000000) s)) else s)

def execDriveWear (d : Fin 4) (cause : WearCause) (s : State) : Host.Outcome State Fault Refusal :=
  .next (match cause with
    | .spare | .reliability => driveWorn d s
    | .used pct =>
      let s := modDrive d (fun y => { y with usedPct := pct }) s
      if (custodyCfg s).wearPct ≤ pct then driveWorn d s else s)

/-! ### Re-protection (R442–R444) -/

/-- CUS_REPROT: re-protection has work it can do, in Cab, Drive and Service (R444). -/
def reprotecting (s : State) : Bool :=
  storeOn s && !s.pwr.ledgerDrain && ((moveOf s.cus).isSome || (nextStep s).isSome)

/-- Begins one step of re-protection: the group's class takes no more records into it, and the new copies are written, stamped as the internal
tenancy's work (R164, R442). -/
def beginMove (g : Group) (new : List Group) (s : State) : State :=
  let writes := moveWrites g new s.cus
  let none_ : CusRec := { partHeader s 0 0 s.led.lsn with epoch := 0 }
  let j : CusJob := { what := .move g new, item := none_, wait := writtenTo writes, wrote := 0 }
  let st := jobStamp j.what ((new.map (·.used)).foldl (· + ·) 0) s
  let s := modCus (fun c => { c with
    jobs := c.jobs ++ [{ j with stamp := st.1 }], open_ := c.open_.filter (fun e => e.2 != g.id), nextGroup := c.nextGroup + (new.length - 1)
    finish := st.2, topStamp := max c.topStamp st.1 }) (noteV s)
  if j.wait.isEmpty then moveDone g new s else sendWrites writes s

/-- Re-protection takes its next step, one at a time. -/
def execReprotection (s : State) : Host.Outcome State Fault Refusal :=
  .next (
    if storeOn s && internalRuns s && !s.pwr.ledgerDrain && (moveOf s.cus).isNone then
      match nextStep s with
      | none => retireEmpty s
      | some (g, new) => beginMove g new s
    else s)

def execEviction (s : State) : Host.Outcome State Fault Refusal :=
  .next (if storeOn s then evictIfLow s else s)

/-! ### The ledger's sectors and checkpoints (R451, R452, R454) -/

/-- A refilled sector. -/
def execSectorRefillDone (b : Bool) (s : State) : Host.Outcome State Fault Refusal :=
  .next (modLed (fun l => if b then { l with bRefill := l.bRefill - 1 } else { l with aRefill := l.aRefill - 1 }) s)

/-- Log units written after the last LEDGERCP. -/
def sinceCp (s : State) : Nat :=
  ((s.led.log.filter (fun r => decide (s.led.cpLsn < r.lsn))).map (·.units)).foldl (· + ·) 0

/-- Begins a LEDGERCP over the log so far. Its body is the log, whose records' bytes the spec does not lay out: free bytes of
that length. -/
def beginCp (s : State) : Began :=
  let n := 32 * sinceCp s
  beginRec (.ledgercp s.led.lsn) (partHeader s 5 0 s.led.lsn) (freeBytes s n)
    (drawn n (modLed (fun l => { l with cpAt := monoUs s }) s))

/-- A LEDGERCP once 256 KiB of log has come together, and at least once a second while any log waits. -/
def execLedgercp (s : State) : Host.Outcome State Fault Refusal :=
  .next (
    if storeOn s && sinceCp s != 0 then
      let s := if sinceCp s < 8192 then elapseTo (s.led.cpAt + 1000000) s else s
      let s := custodyWork (reclaim s)
      match beginCp s with
      | .ok t => t
      | .full => modCus (fun b => { b with full := true }) s
      | .waits => s
    else custodyWork (reclaim s))

/-- A ledger drain ends: the drives shut down, the rails fall, and the part is in Parked as before. Records that no drive has taken stay in
the ledger. -/
def drainEnds (s : State) : State :=
  let s := each (List.range 4) (fun d t => onlyIf ((storeDrives t.cus).any (fun e => e.1 == d)) (emit (.nvme d .shutdown)) t) s
  let s := modCus (fun c => { c with jobs := [], drainStep := 0, drives := c.drives.map (fun x =>
    if x.st = .online ∨ x.st = .worn then { x with link := false } else x) }) s
  modPwr (fun p => { p with ledgerDrain := false }) (onlyIf s.pwr.slice.isNone (lowerEnable 1) (lowerFrom 2 s))

/-- A ledger drain goes on when nothing is being written: after the part records its LEDGERCP, and after that the end (R454). -/
def drainOn (s : State) : State :=
  if s.cus.drainStep = 0 ∨ s.cus.jobs.any (fun j => !j.wait.isEmpty) then s
  else if s.cus.drainStep = 1 then
    match beginCp s with
    | .ok t => modCus (fun c => { c with drainStep := 2 }) t
    | _ => drainEnds s
  else drainEnds s

/-- The drives come out of shutdown for a ledger drain; one that is not ready within its bound is LOST. -/
def drainDrives (ready : BitVec 4) (s : State) : State :=
  let used := (storeDrives s.cus).map (·.1)
  let s := onlyIf (used.any (fun d => !ready.getLsbD d)) (elapseNs 5000000000) s
  each used (fun d t => if ready.getLsbD d then modDrive d (fun y => { y with link := true }) t else declareLost d t) s

/-- A ledger drain in Parked (R454): the rails rise in their order, each once the group before it is good (R82); with all of them good, the
drives are made ready (those not in `ready` are declared LOST) and the part records are copied. Its writes' completions take it on. -/
def execLedgerDrain (ready : BitVec 4) (s : State) : Host.Outcome State Fault Refusal :=
  .next (
    if s.pwr.mode == .parked && s.pwr.vaon && s.pwr.start == .settled && (s.led.low || s.cus.drainStep != 0) then
      if !(groupGood s 1 && groupGood s 2 && groupGood s 3) then
        raiseEach [1, 2, 3] (modPwr (fun p => { p with ledgerDrain := true }) s)
      else if s.cus.drainStep = 0 then
        drainOn (custodyWork (modCus (fun c => { c with drainStep := 1 })
          (drainDrives ready (modPwr (fun p => { p with ledgerDrain := true }) s))))
      else drainOn s
    else s)

/-- The writes of the job whose turn it is on the drive, Writes with FUA, end; a ledger drain goes on when they were its last. -/
def execNvmeWriteComplete (d : Fin 4) (ok : Bool) (s : State) : Host.Outcome State Fault Refusal :=
  .next (match (getDrive s d).unit with
    | none => s
    | some u =>
      match firstJob s u with
      | none => s
      | some j => drainOn (if ok then jobWrite u true j s else jobLost u j s))

end Sys2Proof.Machine
end

