-- ==== Sys2Proof/Machine/IflSym.lean ====
section
/-! DEFINITION. The symbols of Ifeven Line: the subcarrier grid, PN9 and the preamble, constellations, the mapping of bits to
subcarriers, the samples of a symbol (R377, R378, R381, R383–R390). -/

namespace Sys2Proof.Machine

/-! ### The record and the grid (R377, R381) -/

/-- The IFL record is valid (R381, R622). -/
def iflRecOk (b : BoardRec) (i : IflRec) : Bool :=
  decide (i.psd ≤ 40) && decide (i.margin ≤ 24) && decide (i.notches.length ≤ 8) &&
    i.notches.all (fun n => n.1 == 0 || (decide (146 ≤ n.1) && decide (n.1 ≤ n.2) && decide (n.2 ≤ 1137))) &&
    (List.range 4).all (fun p => !b.ifl.getLsbD p || i.gains.any (fun g => g.1 == p &&
      decide (-40 ≤ g.2.1) && decide (g.2.1 ≤ 40) && decide (-40 ≤ g.2.2) && decide (g.2.2 ≤ 40) &&
      decide (-20 ≤ (i.psd : Int) - g.2.1) && decide ((i.psd : Int) - g.2.1 ≤ 60)))

def iflRec (s : State) : Option IflRec :=
  match board s, s.cfg.ifl with
  | some b, some i => if iflRecOk b i then some i else none
  | _, _ => none

/-- The usable subcarriers of a profile, ascending. -/
def carriersOf (flood : Bool) : List Nat := (List.range (if flood then 1056 else 64)).map (· + 82)

/-- The usable subcarriers of Flood, 82 to 1137. -/
def carriers : List Nat := carriersOf true

def isPilot (k : Nat) : Bool := (k - 82) % 16 == 0

/-- A subcarrier that a masked range of the record covers. -/
def isMasked (s : State) (k : Nat) : Bool :=
  match iflRec s with
  | some i => i.notches.any (fun n => n.1 != 0 && decide (n.1 ≤ k) && decide (k ≤ n.2))
  | none => false

/-- The line PSD less the coupler's gain, half dB above −75 dBm/Hz. -/
def ballPsd (s : State) (p : Nat) : Int :=
  match iflRec s with
  | some i => (i.psd : Int) - (match i.gains.find? (fun g => g.1 == p) with | some g => g.2.1 | none => 0)
  | none => 0

/-! ### PN9 and the preamble (R384, R385) -/

/-- `n` bits of PN9 from its last nine bits, the oldest first. -/
def pnFrom : Nat → List Bool → List Bool
  | 0, _ => []
  | n + 1, w => nth false w 0 :: pnFrom n (w.drop 1 ++ [nth false w 0 != nth false w 4])

/-- The first `n` bits of the sequence. -/
def pn9 (n : Nat) : List Bool := pnFrom n (List.replicate 9 true)

/-- The value 1 − 2s of a PN9 bit. -/
def pnPoint (b : Bool) : Point := ⟨if b then -1 else 1, 0, 1⟩

/-- Values of the sequence on subcarriers: a masked one uses up its bit and stays 0. -/
def pnPoints (s : State) (ks : List Nat) (bits : List Bool) : List (Nat × Point) :=
  ((ks.zip bits).filter (fun e => !isMasked s e.1)).map (fun e => (e.1, pnPoint e.2))

def negated (l : List (Nat × Point)) : List (Nat × Point) := l.map (fun e => (e.1, { e.2 with i := -e.2.i, q := -e.2.q }))

/-- Eight short symbols, the eighth negated; the guard of 10.24 µs and the long symbol twice. -/
def preamble (s : State) (flood : Bool) : List LineSym :=
  let ks := carriersOf flood
  let few := ks.filter (fun k => k % 4 == 0)
  let short := pnPoints s few (pn9 few.length)
  let long := pnPoints s ks (pn9 ks.length)
  List.replicate 7 ⟨0, 10240, short⟩ ++ [⟨0, 10240, negated short⟩, ⟨10240, 40960, long⟩, ⟨0, 40960, long⟩]

/-! ### Constellations (R389) -/

/-- The number that a Gray code of `n` bits stands for. -/
def fromGray (n g : Nat) : Nat := (List.range n).foldl (fun a i => a ^^^ (g >>> i)) 0

/-- Bits, the most significant first, as a number. -/
def ofBits (l : List Bool) : Nat := l.foldl (fun a b => 2 * a + ofBool b) 0

/-- The PAM amplitude of an axis. -/
def pam (l : List Bool) : Int := 2 * (fromGray l.length (ofBits l) : Int) - (2 ^ l.length - 1)

/-- The mean power of an axis of `n` bits. -/
def pamPower (n : Nat) : Nat := (4 ^ n - 1) / 3

/-- The point of a group of bits: the first half, rounded up, on I and the rest on Q. -/
def qam (l : List Bool) : Point :=
  let n := (l.length + 1) / 2
  ⟨pam (l.take n), pam (l.drop n), pamPower n + pamPower (l.length - n)⟩

/-! ### Mapping (R390) -/

/-- Bits of bytes, the most significant first. -/
def msbBits (b : Bytes) : List Bool := b.flatMap (fun x => (List.range 8).map (fun i => x.getLsbD (7 - i)))

/-- The next `n` bits, padded with 0. -/
def padBits (n : Nat) (l : List Bool) : List Bool := l.take n ++ List.replicate (n - l.length) false

/-- One symbol's worth of points from subcarriers with their b_k, and the bits left over. -/
def fillSymbol : List (Nat × Nat) → List Bool → List (Nat × Point)
  | [], _ => []
  | (k, n) :: rest, l => if n = 0 then fillSymbol rest l else (k, qam (padBits n l)) :: fillSymbol rest (l.drop n)

/-- Successive symbols of the given width until the bits have run out. The fuel is the number of bits. -/
def cutBits (width : Nat) : Nat → List Bool → List (List Bool)
  | 0, _ => []
  | n + 1, l => if l.isEmpty ∨ width = 0 then [] else l.take width :: cutBits width n (l.drop width)

/-- The data subcarriers of a profile that are not masked. -/
def dataCarriers (s : State) (flood : Bool) : List Nat := (carriersOf flood).filter (fun k => !isPilot k && !isMasked s k)

/-- A Flood header symbol: bit 55 − (j mod 56) on data subcarrier j. -/
def floodHead (s : State) (head : Bytes) : List (Nat × Point) :=
  let bits := msbBits head
  let ks := dataCarriers s true
  (ks.zip (List.range ks.length)).map (fun e => (e.1, qam [nth false bits (e.2 % 56)]))

/-- A Trickle symbol of five groups of `n` bits, each on every data subcarrier with j mod 5 = g. -/
def spread (s : State) (n : Nat) (bits : List Bool) : List (Nat × Point) :=
  let ks := dataCarriers s false
  let b := padBits (5 * n) bits
  (ks.zip (List.range ks.length)).map (fun e => (e.1, qam ((b.drop (n * (e.2 % 5))).take n)))

/-- Payload bytes and their PCRC, as bits; nothing with LEN 0 (R383, R388). -/
def bodyBits (payload : Bytes) : List Bool :=
  if payload.isEmpty then [] else msbBits (payload ++ be 4 (crc32 payload))

/-- The points of the payload symbols of a MAP; `bk` is the table of MAP 0x4 for k = 82 to 1137. -/
def bodyPoints (s : State) (map : Nat) (bk : List Nat) (payload : Bytes) : List (List (Nat × Point)) :=
  let bits := bodyBits payload
  if map < 2 then (cutBits (5 * (map + 1)) bits.length bits).map (spread s (map + 1))
  else
    let load := if map = 4 then carriers.zip bk else (dataCarriers s true).map (fun k => (k, map - 1))
    let width := load.foldl (fun a e => a + e.2) 0
    (cutBits width bits.length bits).map (fillSymbol load)

/-- Puts the pilots between the data of a symbol, ascending. -/
def withPilots (s : State) : List Nat → List Bool → List (Nat × Point) → List (Nat × Point)
  | [], _, _ => []
  | k :: ks, pn, data =>
    if isPilot k then
      if isMasked s k then withPilots s ks (pn.drop 1) data
      else (k, pnPoint (nth false pn 0)) :: withPilots s ks (pn.drop 1) data
    else match data with
      | [] => withPilots s ks pn []
      | d :: rest => if d.1 = k then d :: withPilots s ks pn rest else withPilots s ks pn (d :: rest)

/-- The symbols after the preamble but the sounding symbols: the pilots go on from symbol to symbol. -/
def modulate (s : State) (flood : Bool) : List Bool → List (List (Nat × Point)) → List LineSym
  | _, [] => []
  | pn, d :: rest =>
    ⟨5120, 40960, withPilots s (carriersOf flood) pn d⟩ :: modulate s flood (pn.drop (if flood then 66 else 4)) rest

/-- The eight sounding symbols: the sequence restarted, one bit per usable subcarrier. -/
def soundSymbols (s : State) : List LineSym :=
  let pn := pn9 (8 * 1056)
  (List.range 8).map (fun i => ⟨5120, 40960, pnPoints s carriers (pn.drop (1056 * i))⟩)

/-- Every symbol of a frame (R383). -/
def frameSymbols (s : State) (map : Nat) (bk : List Nat) (head payload : Bytes) : List LineSym :=
  let flood := decide (2 ≤ map)
  let heads := if flood then [floodHead s head] else (cutBits 5 56 (msbBits head)).map (spread s 1)
  let data := heads ++ (if map = 8 then [] else bodyPoints s map bk payload)
  preamble s flood ++ modulate s flood (pn9 ((if flood then 66 else 4) * data.length)) data ++
    (if map = 8 then soundSymbols s else [])

/-- How long symbols last, ns. -/
def airNs (l : List LineSym) : Nat := l.foldl (fun a y => a + y.guard + y.body) 0

/-! ### The line signal (R378): samples at 50 Msps, in 2^-30 of a subcarrier's unit amplitude -/

/-- The cosine and sine of 2^i/2048 of a cycle, in 2^-30. -/
def turnSteps : List (Int × Int) :=
  [(1073736771, 3294193), (1073721611, 6588356), (1073660973, 13176464), (1073418433, 26350943), (1072448455, 52686014),
   (1068571464, 105245103), (1053110176, 209476638), (992008094, 410903207), (759250125, 759250125), (0, 1073741824),
   (-1073741824, 0)]

/-- The cosine and sine of m/2048 of a cycle, in 2^-30. -/
def turnBy (m : Nat) : Int × Int :=
  ((List.range 11).zip turnSteps).foldl (fun (a : Int × Int) e =>
    if m.testBit e.1 then ((a.1 * e.2.1 - a.2 * e.2.2) / 2 ^ 30, (a.1 * e.2.2 + a.2 * e.2.1) / 2 ^ 30) else a) (2 ^ 30, 0)

/-- Sample n of a body: Re Σ X_k e^(j2πkn/2048). -/
def bodySample (points : List (Nat × Point)) (n : Nat) : Int :=
  points.foldl (fun a e =>
    let w := turnBy (e.1 * n % 2048)
    a + (e.2.i * w.1 - e.2.q * w.2) * (root (2 ^ 60 / e.2.pow) : Int) / 2 ^ 30) 0

/-- Sample n of a symbol from the start of its guard, which repeats the end of the body; a sample lasts 20 ns. -/
def lineSample (y : LineSym) (n : Nat) : Int :=
  let body := y.body / 20
  bodySample y.points ((n + (body - y.guard / 20 % body)) % body)

end Sys2Proof.Machine
end

