-- ==== Sys2Proof/Machine/IflOps.lean ====
section
/-! DEFINITION. Ifeven ports, frames and queues: what sends a frame, what a frame looks like, and the chain as the tractor
keeps it (R381, R386, R387, R397, R405–R409, R418, R421). -/

namespace Sys2Proof.Machine

/-! ### Ports -/

/-- A port in service. -/
def lineUp (s : State) (p : Nat) : Bool := portUp s pIfl p && (iflRec s).isSome

def getPort (s : State) (p : Nat) : Port := nth {} s.ifl.ports p
def modPort (p : Nat) (f : Port → Port) : State → State := modIfl (fun b => { b with ports := modAt b.ports p f })
def linkEvent (i : Nat) : State → State := modIfl (fun b => { b with linkEv := setBits b.linkEv i })
def iflEvent (p i : Nat) : State → State := modPort p (fun x => { x with events := setBits x.events i })

/-- Cab, Drive and Service: the modes in which discovery runs (R410). -/
def linkMode (s : State) : Bool := s.sys.ready && (s.pwr.mode == .cab || s.pwr.mode == .drive || s.pwr.mode == .service)

/-- In trailer role IFL0 is the upstream port; every other port is a downstream port (R405). -/
def upstream (s : State) (p : Nat) : Bool := s.sys.trailer && p == 0

/-- The part's chain position: 0 on the tractor, 0xE without one (R386, R405). -/
def ownPos (s : State) : Nat := if s.sys.trailer then s.ifl.ownPos.getD 0xE else 0

/-- IFL_LINK_ST (R429). -/
def linkCode : LinkSt → Nat
  | .down => 0 | .joining => 1 | .coupledT => 2 | .coupledF => 3 | .adrift => 4 | .quarantined => 5

/-- The Trickle windows of Parked run: not once a Dormant entry has begun (R89, R400). -/
def tricklesOn (s : State) : Bool := s.pwr.mode == .parked && s.pwr.dorming.isNone

/-- A port may send: in service, not quarantined, and in Parked only while it searches (R400, R416). -/
def canSend (s : State) (p : Nat) : Bool :=
  lineUp s p && (getPort s p).link != .quarantined &&
    (linkMode s || (tricklesOn s && decide (monoUs s ≤ (getPort s p).searchUntil)))

/-! ### Frames (R386–R388, R408) -/

/-- MAP and TBL: Trickle BPSK; in Flood the loaded table, or MAP 0x3 without one or from the third sending on (R387, R398,
R419). A table whose BITS is 0 is used like any other, and its frames carry no payload symbols (DESIGN CHOICE, log entry 102). -/
def mapOf (pt : Port) (flood plain : Bool) : Nat × Nat :=
  if flood then (if pt.tblTx = 0 ∨ plain then (3, 0) else (4, pt.tblTx)) else (0, 0)

/-- The seven bytes of a header. -/
def headBytes (map tbl src dst kind len : Nat) : Bytes :=
  let five := le 1 (16 + map) ++ le 1 (16 * tbl + src) ++ be 3 (dst * 2 ^ 20 + kind * 2 ^ 18 + len * 2 ^ 6)
  five ++ be 2 (crc16 five)

/-- When a frame sent now starts, ns: 10 µs or more after the last on the segment, and a master's in Parked no earlier than 400 µs after
the window opened (R400, R404). -/
def frameStart (s : State) (p : Nat) : Nat :=
  let pt := getPort s p
  let free := max s.clk.ns (if pt.airEnd = 0 then 0 else pt.airEnd + 10000)
  if s.pwr.mode = .parked ∧ !upstream s p then max free (1000 * pt.winAt + 400000) else free

/-- A frame as it goes out on a port. -/
def lineOut (s : State) (p map tbl dst kind : Nat) (payload : Bytes) : Out :=
  let head := headBytes map tbl (ownPos s) dst kind payload.length
  .line p (frameStart s p) head payload (ballPsd s p) (frameSymbols s map (getPort s p).bkTx head payload)

/-- Bits that a payload symbol of a MAP carries (R387); `sum` is BITS of the table of MAP 0x4. -/
def symbolBits (s : State) (map sum : Nat) : Nat :=
  if map < 2 then 5 * (map + 1) else if map = 4 then sum else (map - 1) * (dataCarriers s true).length

/-- How long a frame of `len` payload bytes lasts, ns (R383). -/
def frameNs (s : State) (map sum len : Nat) : Nat :=
  174080 + 46080 * ((if map < 2 then 12 else 1) +
    (if map = 8 then 8 else if len = 0 then 0 else ceilDiv (8 * (len + 4)) (symbolBits s map sum)))

/-- In Parked both ends search on for 20 ms after a link frame's end at `ns` (R401). -/
def searchOn (p ns : Nat) (s : State) : State :=
  if s.pwr.mode = .parked then
    modPort p (fun x => { x with searchUntil := max x.searchUntil (ceilDiv ns 1000 + 20000) }) s
  else s

/-- Sends one frame on a port and counts it. -/
def sendFrame (p map tbl dst kind : Nat) (payload : Bytes) (s : State) : State :=
  let stop := frameStart s p + frameNs s map (getPort s p).bitsTx payload.length
  onlyIf (kind == 0) (searchOn p stop)
    (modPort p (fun x => { x with cntTx := x.cntTx + 1, airEnd := stop, txEnd := stop }) (emit (lineOut s p map tbl dst kind payload) s))

/-- A link payload: the 8 B header, then the body (R408). -/
def linkBytes (f : QFrame) (hseq cpl : Nat) : Bytes :=
  le 1 f.ltype ++ le 1 (16 * f.final + f.orig) ++ be 2 hseq ++ be 4 cpl ++ f.body

/-- PHY destination of a frame on a segment: on the upstream port the parent that BEACONs name, else the node; every node on the
segment where neither is known. -/
def phyDst (s : State) (p : Nat) : Nat :=
  let x := getPort s p
  if upstream s p then x.parent else if x.pos = 0 then 0xF else x.pos

/-- A message may go: a SOUND_REQ at most once per 5 ms (R398). -/
def mgmtReady (s : State) (p : Nat) (m : Bytes) : Bool :=
  !(byteAt m 0 == 2 && (getPort s p).reqAt.any (fun t => decide (monoUs s < t + 5000)))

/-- Sends the management messages that wait, in the profile of the segment, once the port may send (R397, R398, R401). -/
def flushMgmt (p : Nat) (s : State) : State :=
  if canSend s p then
    let go := (getPort s p).mgmt.filter (mgmtReady s p)
    let s := modPort p (fun x => { x with
      mgmt := x.mgmt.filter (fun m => !mgmtReady s p m)
      reqAt := if go.any (fun m => byteAt m 0 == 2) then some (monoUs s) else x.reqAt }) s
    each go (fun m t => sendFrame p (if (getPort t p).link = .coupledF then 3 else 0) 0 (phyDst t p) 1 m t) s
  else s

/-- A PHY management message to the other end: at once, or in the next window (R397, R401). -/
def sendMgmt (p : Nat) (payload : Bytes) (s : State) : State :=
  if lineUp s p && (getPort s p).link != .quarantined then flushMgmt p (modPort p (fun x => { x with mgmt := x.mgmt ++ [payload] }) s) else s

/-- An unsequenced frame, in the port's profile or in Trickle; `cpl` as given. -/
def sendPlain (p : Nat) (f : QFrame) (dst cpl : Nat) (flood : Bool) (s : State) : State :=
  if canSend s p then
    let m := mapOf (getPort s p) flood false
    sendFrame p m.1 m.2 dst 0 (linkBytes f 0 cpl) s
  else s

/-- Sends or resends a sequenced frame. -/
def sendSeq (p : Nat) (t : TxFrame) (s : State) : State :=
  let pt := getPort s p
  let m := mapOf pt (pt.link == .coupledF) (decide (3 ≤ t.sends))
  sendFrame p m.1 m.2 (phyDst s p) 0 (linkBytes t.frame t.hseq pt.cpl) s

/-- HSEQ after a value: 1 to 65,535, then 1 again (R418). -/
def nextSeq (h : Nat) : Nat := h % 65535 + 1

/-- How far `b` lies after `a` in HSEQ order. -/
def seqDist (a b : Nat) : Nat := (b + 65535 - a) % 65535

/-- A frame fits the port's profile: 256 B in Trickle. A longer one waits for Flood (R386; DESIGN CHOICE, log entry 103). -/
def fitsProfile (pt : Port) (f : QFrame) : Bool := pt.link == .coupledF || decide (8 + f.body.length ≤ 256)

/-- Moves waiting frames onto the air, up to eight unacknowledged (R418). The fuel is the window. -/
def pumpN : Nat → Nat → State → State
  | 0, _, s => s
  | n + 1, p, s =>
    let pt := getPort s p
    match pt.queue with
    | [] => s
    | f :: rest =>
      if canSend s p && decide (pt.unacked.length < 8) && decide (pt.busyUntil ≤ monoUs s) && fitsProfile pt f &&
          (pt.link == .coupledT || pt.link == .coupledF) then
        let t : TxFrame := { hseq := pt.txSeq, frame := f, tries := 1, sentAt := monoUs s }
        pumpN n p (sendSeq p t (modPort p (fun x => { x with
          queue := rest, unacked := x.unacked ++ [t], txSeq := nextSeq x.txSeq }) s))
      else s

def pump (p : Nat) (s : State) : State := pumpN 8 p (flushMgmt p s)

/-- Puts a sequenced frame in a port's queue. -/
def enqueue (p : Nat) (f : QFrame) (s : State) : State :=
  pump p (modPort p (fun x => { x with queue := x.queue ++ [f] }) s)

/-! ### The chain (R406, R421) -/

def nodeAt (s : State) (pos : Nat) : Option Node := tabFind s.ifl.nodes pos
def modNode (pos : Nat) (f : Node → Node) : State → State :=
  modIfl (fun b => { b with nodes := b.nodes.map (fun e => if e.1 = pos then (e.1, f e.2) else e) })

/-- A node's position is free from now on; the position and COUPLING_ID it had are remembered by its NODE_UID (R406, R407). -/
def freedBy (now : Nat) (n : Node) (pos : Nat) (l : List (Nat × Nat × Nat × Nat)) : List (Nat × Nat × Nat × Nat) :=
  l.filter (fun e => e.1 != n.uid) ++ [(n.uid, pos, now, n.cpl)]

/-- Whether `pos` is `top` or lies behind it; the chain has at most seven positions. -/
def behind (s : State) (top : Nat) : Nat → Nat → Bool
  | 0, _ => false
  | n + 1, pos => pos == top || (match nodeAt s pos with
    | some x => x.parent != 0 && behind s top n x.parent
    | none => false)

/-- The positions of a node and of the nodes behind it. -/
def subtree (s : State) (top : Nat) : List Nat := (s.ifl.nodes.map (·.1)).filter (behind s top 7)

/-- The port through which a position is reached (R421): on the tractor the node's port; in trailer role the downstream port
learned, and upstream otherwise. -/
def routePort (s : State) (pos : Nat) : Option Nat :=
  if s.sys.trailer then some (tabGet 0 s.ifl.routes pos)
  else (nodeAt s pos).map (·.tport)

/-- A joined node with no node on its route adrift. -/
def nodeReach (s : State) (pos : Nat) : Bool :=
  match nodeAt s pos with
  | some x => x.joined && !(s.ifl.nodes.any (fun e => e.2.adrift && behind s e.1 7 pos))
  | none => false

/-- Sends a sequenced frame of the part's own toward a position. -/
def sendTo (pos ltype : Nat) (body : Bytes) (op : Option Nat) (s : State) : State :=
  match routePort s pos with
  | some p => enqueue p { ltype := ltype, final := pos, orig := ownPos s, body := body, op := op } s
  | none => s

/-- A DATA frame (R408, R423). -/
def sendData (pos svc ten : Nat) (payload : Bytes) (op : Option Nat) (s : State) : State :=
  sendTo pos 0x08 (le 1 svc ++ zeros 1 ++ be 2 ten ++ payload) op s

/-- Positions with a joined node. -/
def positions (s : State) : List Nat := (s.ifl.nodes.filter (fun e => e.2.joined)).map (·.1)

/-! ### Directory messages to the nodes (R474, R475) -/

/-- EPOCHS. -/
def epochsBytes (s : State) : Bytes :=
  le 1 1 ++ zeros 3 ++ be 8 s.dir.revSeq ++ (List.range 16).flatMap (fun n => be 4 (tabGet 0 s.dir.minEpoch n))

/-- REVOKED for a run of items with consecutive REV_SEQ. -/
def revokedBytes (items : List RevItem) : Bytes :=
  le 1 2 ++ zeros 1 ++ be 2 items.length ++ be 8 ((items.head?.map (·.seq)).getD 0) ++
    items.flatMap (fun i => le 1 i.ns ++ le 1 i.kind ++ zeros 2 ++ slice i.id 0 16)

/-- The REVLIST in messages of at most 200 items. -/
def revChunks : Nat → List RevItem → List (List RevItem)
  | 0, _ => []
  | n + 1, l => if l.isEmpty then [] else l.take 200 :: revChunks n (l.drop 200)

/-- The full directory state for one node: EPOCHS, then REVOKED messages over the whole REVLIST; a HELD is due in 2 s. -/
def sendDirState (pos : Nat) (s : State) : State :=
  let s := sendData pos 0x02 0 (epochsBytes s) none s
  let s := each (revChunks 21 s.dir.revList) (fun c t => sendData pos 0x02 0 (revokedBytes c) none t) s
  modDir (fun d =>
    let n : DirNode := { tabGet {} d.nodes pos with due := some (monoUs s + 2000000) }
    { d with nodes := tabPut d.nodes pos n }) s

/-- After a change record: EPOCHS, or REVOKED for one item, to every positioned node; a HELD is due 2 s after the acceptance,
at `t0`. -/
def relayChange (item : Option RevItem) (t0 : Nat) (s : State) : State :=
  each (positions s) (fun pos t =>
    let t := sendData pos 0x02 0 (match item with | some i => revokedBytes [i] | none => epochsBytes t) none t
    modDir (fun d =>
      let old : DirNode := tabGet {} d.nodes pos
      let n : DirNode := { old with due := some (old.due.getD (t0 + 2000000)) }
      { d with nodes := tabPut d.nodes pos n }) t) s

end Sys2Proof.Machine
end

