-- ==== Sys2Proof/Machine/Directory.lean ====
section
/-! DEFINITION. The DIR class, directory changes and grants, the relay to the nodes, snapshots and rebuild (chapter 14). -/

namespace Sys2Proof.Machine

def dirEvent (i : Nat) : State → State := modDir (fun d => { d with events := setBits d.events i })

/-! ### Queries (R465, R466, R481) -/

structure Query where
  ns : Nat
  kind : Nat
  flag : Nat
  id : Bytes
  keyHash : Bytes
  ok : Bool
  deriving DecidableEq, Repr

def parseQuery (b : Bytes) : Query :=
  let ns := byteAt b 0
  let kind := byteAt b 1
  let fl := byteAt b 2
  { ns := ns, kind := kind, flag := fl, id := slice b 8 16, keyHash := slice b 24 32,
    ok := decide (ns ≤ 15) && decide (1 ≤ kind) && decide (kind ≤ 3) && decide (fl ≤ 1) && zeroAt b 3 5 && zeroAt b 56 8 }

/-- RESULT of a LOOKUP or GRANT. -/
def lookupResult (s : State) (e : DirEntry) : Nat :=
  entryState s e + 256 * ofBool (!s.clk.wallSet) + 65536 * e.epoch

/-- Writes the entry where WRITE_ENTRY asks for it, and ends the operation DONE. -/
def lookupDone (r : Nat) (f : Flight) (e : DirEntry) (wr : Bool) (s : State) : State :=
  if bit (fieldLE f.raw 40 1) 0 then writeAndSettle r f 1 (entryBytes e) wr (done (lookupResult s e)) s
  else settle r (done (lookupResult s e)) s

/-- DETAIL of a STATE that is not VALID (R482). -/
def stateDetail (st : Nat) : Nat := if st = 2 then 0x21 else if st = 3 then 0x22 else 0x23

/-- LOOKUP and GRANT up to the entry found, by the namespaces of the admission (R178). While the lookup must wait nothing happens (R480). -/
def withEntry (opc r : Nat) (rd : HostRead) (body : Flight → Query → DirEntry → State → State) (s : State) : State :=
  let q := match rd with | .ok d => parseQuery d | .failed => parseQuery []
  if q.ok && lookup s q.ns q.kind q.id == .waits then s
  else startOp opc r (fun f s =>
    withRead r rd 64 0 (fun d s =>
      let q := parseQuery d
      if !q.ok then settle r (failFate fMalformed 0x26) s
      else if !f.rules.nsRead.getLsbD q.ns then settle r (failFate fPolicy 0x25) s
      else match lookup s q.ns q.kind q.id with
        | .waits => s
        | .noSource => settle r (failFate fDevice 0x2A) s
        | .absent => settle r (failFate fAbsent 0x20) s
        | .entry e =>
          if q.flag = 1 ∧ e.keyHash ≠ q.keyHash then settle r (failFate fAuth 0x24) s else body f q e s) s) s

def execLookup (r : Nat) (rd : HostRead) (wr : Bool) (s : State) : Host.Outcome State Fault Refusal :=
  .next (withEntry 0x0700 r rd (fun f _ e s => lookupDone r f e wr s) s)

/-! ### Turns (R469, R473) -/

/-- A change or a grant waiting for its commit. -/
def takesTurn (s : State) (i : Nat) (f : Flight) : Bool :=
  f.fate.isNone && ((decide (0x0702 ≤ dOpc f.raw) && decide (dOpc f.raw ≤ 0x0705)) || s.dir.grants.any (fun g => g.1 == i))

/-- The directory engine's turn is `r`'s: nothing with a lower stamp waits for it. -/
def dirTurn (s : State) (r : Nat) (f : Flight) : Bool :=
  ((List.range s.host.flights.length).zip s.host.flights).all (fun e =>
    e.1 == r || !takesTurn s e.1 e.2 || servedBefore (r, f) e)

/-! ### Grants (R473) -/

def execGrant (r : Nat) (rd : HostRead) (_wr : Bool) (s : State) : Host.Outcome State Fault Refusal :=
  .next (withEntry 0x0701 r rd (fun _ q e s =>
    let st := entryState s e
    if st != 1 then settle r (failFate fPolicy (stateDetail st)) s
    else modDir (fun d => { d with grants := d.grants ++ [(r, q.ns, q.kind, q.id)] }) (noteV s)) s)

def execGrantCommit (r : Nat) (wr : Bool) (s : State) : Host.Outcome State Fault Refusal :=
  .next (match s.dir.grants.find? (fun g => g.1 == r) with
    | none => s
    | some (_, ns, kind, id) =>
      onOp 0x0701 r (fun f s =>
        let found := lookup s ns kind id
        if !dirTurn s r f || found == .waits then s
        else
          let s := modDir (fun d => { d with grants := d.grants.filter (fun g => g.1 != r) }) s
          match found with
          | .entry e =>
            let st := entryState s e
            if st != 1 then settle r (failFate fPolicy (stateDetail st)) s
            else
              commitPoint r f ((getTen s f.ten).nsRead.getLsbD ns)
                (.part (stampPart { kind := 0x13, ten := f.ten, tid := e.bindTid, seq := dSeq f.raw, unit := ns } s)) 0 0x1A
                (lookupDone r f e wr) s
          | .noSource => settle r (failFate fDevice 0x2A) s
          | _ => settle r (failFate fAbsent 0x20) s) s)

/-! ### Changes (R469–R472) -/

/-- A loaded entry's fields lie in their ranges and its part-only fields are zero (R464, R470). -/
def loadEntryOk (row : Tenancy) (b : Bytes) (o : Nat) : Bool :=
  let e := parseEntry b o
  decide (e.ns ≤ 15) && row.nsWrite.getLsbD e.ns && decide (1 ≤ e.kind) && decide (e.kind ≤ 3) && zeroAt b (o + 2) 2 &&
    e.epoch != 0 && (e.kind != 2 || (zeroAt e.id 4 12 && zeroAt e.keyHash 0 32)) && zeroAt b (o + 76) 12

def distinctKeys : List DirEntry → Bool
  | [] => true
  | e :: rest => !rest.any (sameKey e.ns e.kind e.id) && distinctKeys rest

/-- The entry with a key. -/
def inTable (s : State) (ns kind : Nat) (id : Bytes) : Option DirEntry := (dirTable s).find? (sameKey ns kind id)

/-- The body of the delta record (R476): the entries carry the state after the change; a removal carries REMOVED. -/
def deltaBytes (s : State) (f : Flight) (a : DirAct) : Bytes :=
  let removed := fun (e : DirEntry) => let b := entryBytes e; b.take 2 ++ [b.getD 2 0 ||| 0x02] ++ b.drop 3
  let es := match a with
    | .load es => es.map entryBytes
    | .revoke ns kind id =>
      ((inTable s ns kind id).toList).map (fun (e : DirEntry) =>
        let x : DirEntry := { e with revoked := true, revSeq := s.dir.revSeq + 1 }
        entryBytes x)
    | .epoch _ _ => []
    | .remove ns kind id => ((inTable s ns kind id).toList).map removed
  let (ns, v) := match a with | .epoch ns v => (ns, v) | _ => (0, 0)
  le 2 (dOpc f.raw) ++ le 1 ns ++ zeros 1 ++ le 4 es.length ++ le 8 (dSeq f.raw) ++ le 2 f.ten ++ zeros 6 ++ le 4 v ++ zeros 100 ++
    es.flatten

/-- Places a change and begins its delta. Where the delta cannot be begun yet the descriptor goes on waiting. -/
def beginChange (r : Nat) (f : Flight) (a : DirAct) (s : State) : State :=
  let head : CusRec := { partHeader s 4 0x12 f.lsn with snap := s.dir.snapId }
  match beginRec (.delta r) head (deltaBytes s f a) s with
  | .ok t => modDir (fun d => { d with pending := some ⟨r, a, 0⟩ }) (atStage r 0x02 0 t)
  | .full => modCus (fun b => { b with full := true }) (modFlight r (fun g => { g with begun := false }) s)
  | .waits => modFlight r (fun g => { g with begun := false }) s

/-- NS, KIND and ID of REVOKE and REMOVE. -/
def keyOf (f : Flight) : Nat × Nat × Bytes := (fieldLE f.raw 24 1, fieldLE f.raw 25 1, le 16 (fieldLE f.raw 32 16))

/-- A change that needs an entry waits like a lookup while a rebuild has not found it (R480). -/
def entryWaits (s : State) (f : Flight) : Bool :=
  s.dir.st == 1 && (dOpc f.raw == 0x0703 || dOpc f.raw == 0x0705) && (inTable s (keyOf f).1 (keyOf f).2.1 (keyOf f).2.2).isNone

/-- Runs a change when its turn has come and it can be judged (R469, R480). -/
def changeOp (opc r : Nat) (body : Flight → State → State) (s : State) : State :=
  match getFlight s r with
  | none => s
  | some f =>
    if s.dir.pending.isSome || !dirTurn s r f || !dramUp s || entryWaits s f then s
    else startOp opc r (fun f s => if s.dir.st = 0 then settle r (failFate fDevice 0x2A) s else body f s) s

/-- The table after a LOAD fits: always up to 8,126,464 entries, never above 8,388,608, and between them as the placement
turns out, which the spec leaves open (a free value; R467). -/
def loadFits (s : State) (es : List DirEntry) : Bool :=
  let n := (es.foldl putEntry (dirTable s)).length
  decide (n ≤ 8126464) || (decide (n ≤ 8388608) && (freeBytes s 1).all (fun b => b.toNat % 2 == 0))

def execDirLoad (r : Nat) (rd : HostRead) (s : State) : Host.Outcome State Fault Refusal :=
  .next (changeOp 0x0702 r (fun f => withRead r rd (dLen f.raw) 0 (fun b s =>
    let n := dLen f.raw / 128
    let es := (List.range n).map (fun i => { parseEntry b (128 * i) with owner := f.ten })
    let s := atStage r 0x01 0 s
    if !((List.range n).all (fun i => loadEntryOk f.rules b (128 * i)) && distinctKeys es) then
      settle r (failFate fMalformed 0x26 0x01) s
    else if es.any (fun e => (inTable s e.ns e.kind e.id).any (fun o => o.revoked && decide (e.epoch ≤ o.epoch))) then
      settle r (failFate fPolicy 0x2B 0x01) s
    else if !loadFits s es then dirEvent 1 (settle r (failFate fDevice 0x27 0x01) (drawn 1 s))
    else beginChange r f (.load es) (drawn 1 s))) s)

/-- The namespace may be written by the tenancy, by the rules of its admission (R178). -/
def mayWriteNs (f : Flight) (ns : Nat) : Bool := decide (ns ≤ 15) && f.rules.nsWrite.getLsbD ns

def execRevoke (r : Nat) (s : State) : Host.Outcome State Fault Refusal :=
  .next (changeOp 0x0703 r (fun f s =>
    let (ns, kind, id) := keyOf f
    if !mayWriteNs f ns then settle r (failFate fPolicy 0x25) s
    else match inTable s ns kind id with
      | none => settle r (failFate fAbsent 0x20) s
      | some e => if e.revoked then settle r (done e.revSeq) s else beginChange r f (.revoke ns kind id) s) s)

def execRevokeEpoch (r : Nat) (s : State) : Host.Outcome State Fault Refusal :=
  .next (changeOp 0x0704 r (fun f s =>
    let ns := fieldLE f.raw 24 1
    let v := fieldLE f.raw 28 4
    if !mayWriteNs f ns then settle r (failFate fPolicy 0x25) s
    else if v ≤ minEpoch s ns then settle r (failFate fPolicy 0x28) s
    else beginChange r f (.epoch ns v) s) s)

def execRemove (r : Nat) (s : State) : Host.Outcome State Fault Refusal :=
  .next (changeOp 0x0705 r (fun f s =>
    let (ns, kind, id) := keyOf f
    if !mayWriteNs f ns then settle r (failFate fPolicy 0x25) s
    else match inTable s ns kind id with
      | none => settle r (failFate fAbsent 0x20) s
      | some e =>
        if e.revoked ∧ minEpoch s ns ≤ e.epoch then settle r (failFate fPolicy 0x2B) s
        else beginChange r f (.remove ns kind id) s) s)

/-- Returns the charges of entries that a change replaces or removes (R470, R471). -/
def returnEntries (es : List DirEntry) (s : State) : State :=
  each es (fun e t => modRun e.owner (fun x => { x with dirHeld := x.dirHeld - 1 }) t) s

/-- Entries of the table that a change takes away. -/
def replaced (s : State) (a : DirAct) : List DirEntry :=
  match a with
  | .load es => (dirTable s).filter (fun o => es.any (fun e => sameKey e.ns e.kind e.id o))
  | .remove ns kind id => (dirTable s).filter (sameKey ns kind id)
  | _ => []

/-- RESULT and units of a change, on the state after it. -/
def changeFate (s : State) (a : DirAct) : FateRec :=
  match a with
  | .load es => { done es.length with units := es.length }
  | .revoke _ _ _ => done s.dir.revSeq
  | .epoch _ v => done v
  | .remove _ _ _ => done 0

/-- A change takes effect at its change record: the table, the Near list, the relay (R469). -/
def takeChange (a : DirAct) (t0 : Nat) (s : State) : State :=
  let tids := actTids s a
  let gone := replaced s a
  let s := applyAct a (returnEntries gone s)
  let s := each tids nearRemove s
  match a with
  | .revoke ns kind id => relayChange (some ⟨ns, kind, id, s.dir.revSeq⟩) t0 s
  | .epoch _ _ => relayChange none t0 s
  | _ => s

/-- The delta has its copies: the change record, the change, the fate, with DEGRADED where the delta has only the reduced set (R27). -/
def deltaCopied (s : State) : State :=
  match s.dir.pending with
  | none => s
  | some p =>
    if p.rid = 0 || !canLog (.dirChange (s.dir.revSeq + 1)) s then s
    else
      let t0 := ((getFlight s p.op).map (·.tAdm)).getD (monoUs s)
      let s := logRec (.dirChange (s.dir.revSeq + 1)) (atStage p.op 0x03 0 s)
      let s := takeChange p.act t0 (modDir (fun d => { d with pending := none }) s)
      settle p.op { changeFate s p.act with degraded := recWeak s 4 p.rid } s

def execDirDeltaCopied (s : State) : Host.Outcome State Fault Refusal := .next (deltaCopied s)

/-! ### STATUS -/

def dirStatusWord (s : State) : Nat := s.dir.st + 256 * s.dir.pct
def dirStatusBytes (s : State) (ten : Nat) : Bytes :=
  slice (le 4 (dirStatusWord s) ++ le 4 s.dir.table.length ++ le 8 s.dir.revSeq ++
    (List.range 16).flatMap (fun n => le 4 (minEpoch s n)) ++ le 8 (getRun s ten).dirHeld) 0 128

def execDirStatus (r : Nat) (wr : Bool) (s : State) : Host.Outcome State Fault Refusal :=
  .next (startOp 0x0706 r (fun f s => writeAndSettle r f 0 (dirStatusBytes s f.ten) wr (done 0) s) s)

/-! ### The relay (R474, R475) -/

/-- The part as a node of the chain. -/
def asNode (s : State) : Bool := s.sys.trailer && s.ifl.ownPos.isSome

/-- HELD, in answer to either message. -/
def sendHeld (s : State) : State :=
  sendData 0 0x02 0 (le 1 3 ++ zeros 3 ++ be 8 s.dir.revSeq ++ (List.range 16).flatMap (fun n => be 4 (minEpoch s n))) none s

def execEpochs (payload : Bytes) (s : State) : Host.Outcome State Fault Refusal :=
  .next (
    if asNode s && payload.length == 76 && byteAt payload 0 == 1 && zeroAt payload 1 3 then
      sendHeld (modDir (fun d => { d with minEpoch := (List.range 16).foldl (fun t n =>
        tabSet 0 t n (max (tabGet 0 t n) (beAt payload (12 + 4 * n) 4))) d.minEpoch }) s)
    else s)

/-- The items of a REVOKED message. -/
def revItems (b : Bytes) : List RevItem :=
  (List.range (beAt b 2 2)).map (fun i =>
    { ns := byteAt b (12 + 20 * i), kind := byteAt b (13 + 20 * i), id := slice b (16 + 20 * i) 16, seq := beAt b 4 8 + i })

/-- A node applies an item above its highest REV_SEQ. -/
def applyItem (x : RevItem) (s : State) : State :=
  if s.dir.revSeq < x.seq then
    let mark := fun (e : DirEntry) => if sameKey x.ns x.kind x.id e then { e with revoked := true, revSeq := x.seq } else e
    let tids := actTids s (.revoke x.ns x.kind x.id) ++ (if x.kind = 2 then [leAt x.id 0 4] else [])
    each tids nearRemove (modDir (fun d => { d with
      table := d.table.map mark, persist := d.persist.map mark, revSeq := x.seq
      revList := (d.revList ++ [x]).drop (d.revList.length + 1 - 4096) }) s)
  else s

def execRevoked (payload : Bytes) (s : State) : Host.Outcome State Fault Refusal :=
  .next (
    let n := beAt payload 2 2
    if asNode s && byteAt payload 0 == 2 && zeroAt payload 1 1 && decide (1 ≤ n) && decide (n ≤ 200) &&
        payload.length == 12 + 20 * n then
      sendHeld (each (revItems payload) applyItem s)
    else s)

/-- A node's HELD covers the present state. -/
def heldCovers (s : State) (n : DirNode) : Bool :=
  decide (s.dir.revSeq ≤ n.held) && (List.range 16).all (fun i => decide (minEpoch s i ≤ nth 0 n.epochs i))

def execHeld (pos : Fin 8) (payload : Bytes) (s : State) : Host.Outcome State Fault Refusal :=
  .next (
    if !s.sys.trailer && (nodeAt s pos).any (·.joined) && payload.length == 76 && byteAt payload 0 == 3 && zeroAt payload 1 3 then
      let old : DirNode := tabGet {} s.dir.nodes pos
      let n : DirNode := { old with held := beAt payload 4 8, epochs := (List.range 16).map (fun i => beAt payload (12 + 4 * i) 4) }
      let n := if heldCovers s n then { n with due := none } else n
      modDir (fun d => { d with nodes := tabPut d.nodes pos n }) s
    else s)

/-- A revocation is not covered 2 s after its acceptance: the full set goes out again. -/
def execDirRelayLate (pos : Fin 8) (s : State) : Host.Outcome State Fault Refusal :=
  .next (match (tabGet ({} : DirNode) s.dir.nodes pos).due with
    | some t =>
      if (nodeAt s pos).any (·.joined) then sendDirState pos (dirEvent 2 (elapseTo t s)) else s
    | none => s)

/-! ### Snapshots and rebuild (R476–R480) -/

/-- RID of the last delta. -/
def lastDelta (s : State) : Nat :=
  (s.cus.recs.filter (fun x => x.cls == 4 && x.kind == 0x12)).foldl (fun a x => max a x.rid) 0

/-- Entries in runs of 131,072; at least one segment. -/
def segmentsOf : Nat → List DirEntry → List (List DirEntry)
  | 0, _ => []
  | n + 1, l => if l.length ≤ 131072 then [l] else l.take 131072 :: segmentsOf n (l.drop 131072)

/-- The body of segment `i` of `n`. -/
def segmentBytes (s : State) (id n i : Nat) (es : List DirEntry) : Bytes :=
  le 8 id ++ le 4 i ++ le 4 n ++ le 4 es.length ++ zeros 4 ++ le 8 (lastDelta s) ++ le 8 s.dir.revSeq ++ zeros 24 ++
    (List.range 16).flatMap (fun k => le 4 (minEpoch s k)) ++ es.flatMap entryBytes

def execSnapshotStart (s : State) : Host.Outcome State Fault Refusal :=
  .next (
    if linkMode s && internalRuns s && s.dir.st == 2 && s.dir.snapLeft == 0 && s.dir.changed != 0 then
      let s := if s.dir.changed < 262144 then elapseTo (s.dir.snapAt + 86400000000) s else s
      let id := s.dir.snapId + 1
      let segs := segmentsOf 65 s.dir.table
      let bodies := ((List.range segs.length).zip segs).map (fun e => segmentBytes s id segs.length e.1 e.2)
      custodyWork (modDir (fun d => { d with snapId := id, snapLeft := bodies.length, snapSegs := bodies, changed := 0,
                                             snapAt := monoUs s }) s)
    else s)

/-- A rebuild is needed and begins (R478). -/
def startRebuild : State → State := modDir (fun d => { d with st := 1, pct := 0, table := [] })

/-- A record that a rebuild reads: the segments of the latest complete snapshot and the deltas behind its start (R479). -/
def rebuildNeeds (s : State) (x : CusRec) : Bool :=
  let last := if s.dir.snapLeft = 0 then s.dir.snapId else s.dir.snapId - 1
  x.cls == 4 && (if x.kind = 0x11 then x.snap == last else decide (last ≤ x.snap))

/-- The rebuild ends: with the newest state of every key, or, where no drive holds a readable copy of a needed record, without
a directory. -/
def execDirRebuild (ok : Bool) (s : State) : Host.Outcome State Fault Refusal :=
  .next (
    if s.dir.st == 1 && dramUp s && linkMode s then
      if ok && vaultOk s && !(s.cus.recs.any (fun x => rebuildNeeds s x && recLost s x)) then
        dirEvent 0 (modDir (fun d => { d with st := 2, pct := 100, table := d.persist }) (drawn 16 s))
      else modDir (fun d => { d with st := 0, pct := 0 }) s
    else s)

end Sys2Proof.Machine
end

