-- ==== Sys2Proof/Machine/Cipher.lean ====
section
/-! DEFINITION. The cipher lanes' choice and the CPH class (R505–R511, R514–R516). -/

namespace Sys2Proof.Machine

/-! ### Lanes (R505, R507, R517) -/

def getLane (s : State) (l : Nat) : Lane := nth {} s.sec.lanes l
def modLane (l : Nat) (f : Lane → Lane) : State → State := modSec (fun b => { b with lanes := modAt b.lanes l f })

/-- Numbers of the lanes in a state. -/
def lanesIn (s : State) (st : LaneSt) : List Nat := (List.range 20).filter (fun l => (getLane s l).st == st)

/-- Element in the middle of a sorted list of temperatures, the lower one of two. -/
def insertInt (x : Int) : List Int → List Int
  | [] => [x]
  | y :: rest => if x ≤ y then x :: y :: rest else y :: insertInt x rest
def medianTemp (l : List Int) : Int :=
  let sorted := l.foldr insertInt []
  nth 0 sorted ((sorted.length - 1) / 2)

/-- The lane that serves a new operation: the lowest-numbered active lane (log entry 22), from governor level 1 on among
those at or below the median temperature (R626). -/
def serveLane (s : State) : Option Nat :=
  let act := lanesIn s .active
  let med := medianTemp (act.map (fun l => (getLane s l).temp))
  act.find? (fun l => s.pwr.govLevel == 0 || decide ((getLane s l).temp ≤ med))

/-! ### CPH operations -/

def cMode (f : Flight) : Nat := fieldLE f.raw 32 1
def cPart (f : Flight) : Bool := bit (fieldLE f.raw 33 1) 0
def cTag (f : Flight) : Nat := fieldLE f.raw 34 1
def cNonce (f : Flight) : Nat := fieldLE f.raw 35 1
def cAad (f : Flight) : Nat := fieldLE f.raw 36 4

/-- The payload length: what remains of the input area (R515). MAC_VERIFY and OPEN carry a tag. -/
def payloadLen (raw : BitVec 512) : Nat :=
  let o := dOpc raw
  dLen raw - 16 - fieldLE raw 36 4 - (if o = 0x0903 ∨ o = 0x0905 then fieldLE raw 34 1 else 0)

/-- Counts an operation ended DONE. -/
def countCph : State → State := modSec (fun b => { b with cntCph := b.cntCph + 1 })

/-- Writes the output area and ends the operation DONE with the payload length. -/
def cphOut (r : Nat) (f : Flight) (out : Bytes) (wr : Bool) (s : State) : State :=
  if wr then countCph (settle r (done (payloadLen f.raw)) (culvertWrite f 1 out s))
  else settle r (failFate fCulvert 0x12 (if dOpc f.raw = 0x0905 then 0x03 else 0x02)) s

/-- A failed tag (R509). -/
def tagFail (r : Nat) (s : State) : State :=
  modSec (fun b => { b with cntTagFail := b.cntTagFail + 1 }) (settle r (failFate fAuth 0x30 0x02) s)

/-- AES blocks an operation runs on its lane (R508). -/
def laneBlocks (f : Flight) : Nat :=
  let p := payloadLen f.raw
  let blocks := (p + 15) / 16
  if cMode f = 2 then p
  else if cMode f = 6 then max 1 blocks + 1
  else if cMode f = 7 then 2 + (if cAad f = 0 then 0 else (cAad f + 17) / 16) + 2 * blocks
  else blocks

/-- Bytes that pass the masked S-box, sixteen a round (R505; that these are R531's masked bytes: log entry 70). -/
def maskedBytes (f : Flight) (k : Handle) : Nat := laneBlocks f * (if k.key.length = 16 then 160 else 224)

/-- Draws mask seeds for a lane, the last of which stays (R531). -/
def drawSeeds (l : Nat) : Nat → State → State
  | 0, s => s
  | n + 1, s => drawSeeds l n (modLane l (fun x => { x with seed := random s 32 }) (drew (laneQueue s) 32 s))

/-- A lane masks `n` bytes: it draws its first seed, and a new one every 4,096 masked bytes (R531). -/
def maskLane (l n : Nat) (s : State) : State :=
  let x := getLane s l
  let total := (if x.seed.isEmpty then 4096 else x.masked) + n
  let new := (total - 1) / 4096
  modLane l (fun y => { y with masked := total - 4096 * new }) (drawSeeds l new s)

/-- Runs a CPH operation that needs one usage bit of its handle: the key is found, a lane serves it and the input is read. -/
def cphOp (opc r use : Nat) (rd : HostRead) (body : Flight → Handle → Bytes → State → State) (s : State) : State :=
  if !canDraw s then joinQueue .lanes opc r s
  else if secReady s && drawTurn r s then
    startOp opc r (fun f t => withKey r f (fieldLE f.raw 24 8) (fun k s =>
      if !k.usage.getLsbD use then settle r (failFate fPolicy 0x22) s
      else if (opc == 0x0900 || opc == 0x0904) && !cPart f && !k.usage.getLsbD uHostNonce then
        settle r (failFate fPolicy 0x2F) s
      else match serveLane s with
        | none => settle r (failFate fDevice 0x19) s
        | some l => withRead r rd (dLen f.raw) 0 (fun inp t => body f k inp (maskLane l (maskedBytes f k) t))
            (modFlight r (fun x => { x with spare := x.spare || (getLane s l).wasSpare }) s)) (leaveQueue r t)) s
  else s

/-- The bytes an operation draws for its IV or nonce, and the state after that (R511). -/
def drewIv (f : Flight) (s : State) : State :=
  onlyIf (cPart f) (drew .lanes (if cMode f = 7 then cNonce f else if cMode f = 5 then 8 else 16)) s

/-- The IV of an encryption: the host's, or drawn (R511). -/
def cphIv (f : Flight) (inp : Bytes) (s : State) : Bytes :=
  if cPart f then (if cMode f = 5 then random s 8 ++ zeros 8 else random s 16) else slice inp 0 16

def execEncrypt (r : Nat) (rd : HostRead) (wr : Bool) (s : State) : Host.Outcome State Fault Refusal :=
  .next (cphOp 0x0900 r uEnc rd (fun f k inp s =>
    let iv := cphIv f inp s
    cphOut r f (iv ++ modeEnc (cMode f) k.key iv (slice inp 16 (payloadLen f.raw))) wr (drewIv f s)) s)

def execDecrypt (r : Nat) (rd : HostRead) (wr : Bool) (s : State) : Host.Outcome State Fault Refusal :=
  .next (cphOp 0x0901 r uDec rd (fun f k inp s =>
    let iv := slice inp 0 16
    cphOut r f (iv ++ modeDec (cMode f) k.key iv (slice inp 16 (payloadLen f.raw))) wr s) s)

def execMac (r : Nat) (rd : HostRead) (wr : Bool) (s : State) : Host.Outcome State Fault Refusal :=
  .next (cphOp 0x0902 r uMac rd (fun f k inp s =>
    cphOut r f (zeros 16 ++ (cmac k.key (slice inp 16 (payloadLen f.raw))).take (cTag f)) wr s) s)

def execMacVerify (r : Nat) (rd : HostRead) (s : State) : Host.Outcome State Fault Refusal :=
  .next (cphOp 0x0903 r uMac rd (fun f k inp s =>
    let p := payloadLen f.raw
    if (cmac k.key (slice inp 16 p)).take (cTag f) = slice inp (16 + p) (cTag f) then countCph (settle r (done p) s)
    else tagFail r s) s)

/-- The nonce field as written out: the nonce, and bytes the spec does not state (log entry 5). -/
def nonceField (nonce : Bytes) (s : State) : Bytes := nonce ++ freeBytes s (16 - nonce.length)

def execSealCcm (r : Nat) (rd : HostRead) (wr : Bool) (s : State) : Host.Outcome State Fault Refusal :=
  .next (cphOp 0x0904 r uAead rd (fun f k inp s =>
    let nonce := if cPart f then random s (cNonce f) else slice inp 0 (cNonce f)
    let aad := slice inp 16 (cAad f)
    let msg := slice inp (16 + cAad f) (payloadLen f.raw)
    let s := drewIv f s
    cphOut r f (nonceField nonce s ++ ccmCrypt k.key nonce 1 (blocks16 msg) ++ ccmTag k.key nonce aad msg (cTag f)) wr
      (drawn 16 s)) s)

def execOpenCcm (r : Nat) (rd : HostRead) (wr : Bool) (s : State) : Host.Outcome State Fault Refusal :=
  .next (cphOp 0x0905 r uAead rd (fun f k inp s =>
    let nonce := slice inp 0 (cNonce f)
    let p := payloadLen f.raw
    let msg := ccmCrypt k.key nonce 1 (blocks16 (slice inp (16 + cAad f) p))
    if ccmTag k.key nonce (slice inp 16 (cAad f)) msg (cTag f) = slice inp (16 + cAad f + p) (cTag f) then
      cphOut r f (nonceField nonce s ++ msg) wr (drawn 16 (atStage r 0x03 0 s))
    else tagFail r s) s)

end Sys2Proof.Machine
end

