-- ==== Sys2Proof/Machine/Lanes.lean ====
section
/-! DEFINITION. Lane faults, retests, retirement, spares and thermal removal (R507, R574, R575, R627). -/

namespace Sys2Proof.Machine

/-- Lane faults of the last 24 h. -/
def recentTimes (now : Nat) (l : List Nat) : List Nat := l.filter (fun t => decide (now < t + 86400000000))

/-- The spare with the lowest SEC_LANE_TEMP, the lowest number among equals (R575). -/
def coolestSpare (s : State) : Option Nat :=
  (lanesIn s .spare).foldl (fun best l => match best with
    | none => some l
    | some b => if (getLane s l).temp < (getLane s b).temp then some l else some b) none

/-- Retires a lane and brings a spare in; without a spare the pool shrinks by one lane (R575). -/
def retireLane (l code fault : Nat) (s : State) : State :=
  let s := modLane l (fun x => { x with st := .out, fault := fault, kept := true }) s
  match coolestSpare s with
  | some k => changeUnit uLane l .retired code sDegraded 0x03 0 k (modLane k (fun x => { x with st := .active, wasSpare := true }) s)
  | none => changeUnit uLane l .retired code sDegraded 0x04 0 0 s

/-- The first active lane serves the wake slice (R26). -/
def wakeLane (s : State) : State :=
  match (lanesIn s .active).head? with
  | some l => modLane l (fun x => { x with st := .wake }) s
  | none => s

/-- A descriptor whose lane failed restarts on another lane (R507). -/
def moveWork (op : Option Nat) (s : State) : State :=
  match op with
  | some r =>
    let s := modFlight r (fun f => if f.fate.isNone then { f with laneMoved := true } else f) s
    if s.radio.poll.any (fun p => pollOp p.kind == some r) then restartPoll s else s
  | none => s

def execLaneFault (lane : Fin 20) (op : Option Nat) (s : State) : Host.Outcome State Fault Refusal :=
  .next (
    let l := getLane s lane.val
    if l.st == .active || l.st == .wake then
      let times := recentTimes (monoUs s) l.faults ++ [monoUs s]
      let s := keyEvent 2 (moveWork op (modLane lane.val (fun x => { x with st := .test, fault := 1, faults := times }) s))
      onlyIf (l.st == .wake) wakeLane
        (if 3 ≤ times.length then retireLane lane.val 0x02 1 s else changeUnit uLane lane.val .out 0x02 sInfo 0x02 0 0 s)
    else s)

def execLaneRetest (lane : Fin 20) (pass : Bool) (s : State) : Host.Outcome State Fault Refusal :=
  .next (
    if (getLane s lane.val).st == .test && !(getLane s lane.val).kept then
      if pass then backInService uLane lane.val (modLane lane.val (fun x => { x with st := .active, fault := 0 }) s)
      else retireLane lane.val 0x07 2 s
    else s)

/-- A lane reaches 132 °C (R627): out of service, and no lane fault. -/
def execLaneOverheat (lane : Fin 20) (s : State) : Host.Outcome State Fault Refusal :=
  .next (
    if (getLane s lane.val).st == .active || (getLane s lane.val).st == .wake then
      onlyIf ((getLane s lane.val).st == .wake) wakeLane (changeUnit uLane lane.val .out 0x02 sDegraded 0x04 0 132
        (modLane lane.val (fun x => { x with st := .out, fault := 3, temp := 132 }) s))
    else s)

/-- Its temperature falls to 122 °C (R627). -/
def execLaneCooled (lane : Fin 20) (temp : Int) (s : State) : Host.Outcome State Fault Refusal :=
  .next (
    let l := getLane s lane.val
    let s := modLane lane.val (fun x => { x with temp := temp }) s
    if l.st == .out && l.fault == 3 && !l.kept && decide (temp ≤ 122) then
      backInService uLane lane.val (modLane lane.val (fun x => { x with st := .active, fault := 0 }) s)
    else s)

/-- The lanes from lane `i` on at start-up, `n` of those before being active. Their counts and temperatures begin anew (R517, R606), and
with SEC_LANE_ERRS the faults that R575 counts (DEDUCED, log entry 93). -/
def startLanesFrom : Nat → Nat → List Lane → List Lane
  | _, _, [] => []
  | i, n, x :: rest =>
    let x := { x with seed := [], masked := 0, faults := [], temp := 0 }
    if x.kept then { x with st := .out } :: startLanesFrom (i + 1) n rest
    else if n < 16 then { x with st := .active, fault := 0, wasSpare := decide (16 ≤ i) } :: startLanesFrom (i + 1) (n + 1) rest
    else { x with st := .spare, fault := 0, wasSpare := false } :: startLanesFrom (i + 1) n rest

/-- The lanes at start-up: of those the ledger does not keep out, the first sixteen are active (R505, R574). -/
def startLanes (l : List Lane) : List Lane := startLanesFrom 0 0 l

end Sys2Proof.Machine
end

