-- ==== Sys2Proof/Machine/Lock.lean ====
section
/-! DEFINITION. The commands of the start lock but START: lock requests, timers, frames, CAN ports, outputs (chapter 9,
R328, R581). -/

namespace Sys2Proof.Machine

/-! ### LOCK_REQ and STATUS (R335, R338) -/

def execLockReq (r : Nat) (s : State) : Host.Outcome State Fault Refusal :=
  .next (startOp 0x0301 r (fun f s =>
    let s := lockRequest 0x02 f.ten (dSeq f.raw) s
    settle r (done (latchNo (latch s))) s) s)

/-- Time left on the running timer, ms; LOCK_HOLD_S shows its whole length while it waits for rest. -/
def timerLeftMs (s : State) : Nat :=
  if s.slk.timerKind = 0 ∨ s.slk.winDue then 0
  else match s.slk.timerEnd with
    | some t => (t - monoUs s) / 1000
    | none => 1000 * s.slk.policy.lockHold

/-- The 64 B of STATUS (R338). -/
def lockStatusBytes (s : State) : Bytes :=
  let rpm := if s.clk.crank.sync then some (angRpm s) else (canRpm s).map (· / 65536)
  le 1 (latchNo (latch s)) ++ le 1 (lockFlags s) ++ le 1 s.slk.cause ++ le 1 s.slk.timerKind ++ le 4 s.slk.bound ++
    le 4 (timerLeftMs s) ++ le 4 s.slk.freshState ++ le 4 s.slk.freshBody ++ le 4 s.slk.policy.id ++
    le 2 ((road s).getD 0xFFFF) ++ le 2 (if engineSource s then rpm.getD 0 else 0xFFFF) ++
    le 1 (ofBool (atRest s) + 2 * ofBool (engineRunning s)) ++ zeros 3 ++ le 8 s.slk.tTransition ++ zeros 24

def execLockStatus (r : Nat) (wr : Bool) (s : State) : Host.Outcome State Fault Refusal :=
  .next (startOp 0x0302 r (fun f s => writeAndSettle r f 0 (lockStatusBytes s) wr (done 0) s) s)

/-! ### Timers (R304, R310, R312, R313, R327) -/

def execArmHoldExpiry (s : State) : Host.Outcome State Fault Refusal :=
  .next (match s.slk.timerEnd with
    | some t =>
      if s.slk.timerKind = 1 ∧ latch s = .armed then
        let s := elapseTo t s
        moveLatch .locked 0x0B s.slk.bound 0xFFFF 0 s
      else s
    | none => s)

/-- An IGN-role WAKE pin is asserted; a masked pin counts as deasserted (R102, R581). -/
def ignAsserted (s : State) : Bool :=
  ((List.range 4).zip s.pwr.pins).any (fun e => portUp s pWake e.1 && e.2.role == 1 && !e.2.masked && (e.2.above == e.2.pol))

def execIgnitionOffDebounce (s : State) : Host.Outcome State Fault Refusal :=
  .next (match s.slk.ignOffAt with
    | some t =>
      if ignAsserted s ∨ s.sys.ready = false then s
      else
        let s := modSlk (fun b => { b with ignOffAt := none }) (elapseTo (t + 2000000) s)
        if s.slk.policy.autoLock then lockRequest 0x03 0xFFFF 0 s else s
    | none => s)

/-- The window's end, postponed while the engine is cranked, by 15 s at most (R313). Postponed already, it comes when the cranking ends
of itself, nothing more heard, or at the cap. -/
def execReleaseWindowExpiry (s : State) : Host.Outcome State Fault Refusal :=
  .next (match s.slk.timerEnd with
    | some t =>
      if s.slk.timerKind = 2 ∧ latch s = .released then
        let s := if s.slk.winDue && decide (crankedTo s < 1000 * t) then elapseToNs (crankedTo s) s else elapseTo t s
        if cranking s && decide (monoUs s < s.slk.winCap) then
          modSlk (fun b => { b with winDue := true, timerEnd := some b.winCap }) s
        else windowExpired s
      else s
    | none => s)

def execLockHoldExpiry (s : State) : Host.Outcome State Fault Refusal :=
  .next (match s.slk.timerEnd with
    | some t =>
      if s.slk.timerKind = 3 ∧ latch s = .deferred ∧ atRest s then
        let s := elapseTo t s
        if atRest s then moveLatch .locked 0x05 s.slk.bound 0xFFFF 0 s else holdUpdate s
      else s
    | none => s)

/-- The change of R333 that reconciliation makes, if any. In ARMED the ARM_HOLD_S of R304 begins anew, the engine running or not: 'No
change' is read as the latch's (log entry 108). -/
def reconcileMove (s : State) : State :=
  if latch s = .released ∧ engineRunning s then moveLatch .running 0x0C s.slk.bound 0xFFFF 0 s
  else if latch s = .running ∧ engineRunning s = false then moveLatch .released 0x0C s.slk.bound 0xFFFF 0 s
  else
    let s := onlyIf (engineRunning s && (latch s == .locked || latch s == .armed)) noRelease s
    if latch s = .running ∨ latch s = .locked then s else startTimer (latch s) s

/-- The timer of kind `k` has run out. -/
def timerOver (k : Nat) (s : State) : Bool :=
  s.slk.timerKind == k && (match s.slk.timerEnd with | some t => decide (t ≤ monoUs s) | none => false)

/-- The release window has run out, its postponement with it (R313). -/
def windowOver (s : State) : Bool :=
  s.slk.timerKind == 2 && decide (s.slk.winCap ≤ monoUs s + 15000000) && (!cranking s || decide (s.slk.winCap ≤ monoUs s))

/-- A token stands in a CAB zone and is start-permitted. -/
def armedBy (tid : Nat) (s : State) : Bool :=
  (match trackOf s tid with | some t => isCabZone s t.zone | none => false) && tokenPermit s tid == some true &&
    decide ((tabGet {} s.radio.pres tid).st = 0)

/-- Retries the record of a transition whose cause still holds (R305). -/
def retryCause (w : SlkRetry) (s : State) : State :=
  let cause := w.cause
  if cause = 0x02 ∨ cause = 0x06 then lockRequest cause w.ten w.seq s
  else if cause = 0x03 then (if s.slk.policy.autoLock && !ignAsserted s then lockRequest 0x03 0xFFFF 0 s else s)
  else if cause = 0x04 then (if windowOver s then windowExpired s else s)
  else if cause = 0x05 then
    (if latch s = .deferred ∧ atRest s ∧ timerOver 3 s then moveLatch .locked 0x05 s.slk.bound 0xFFFF 0 s else s)
  else if cause = 0x07 then
    (if s.pwr.parking = .none ∧ s.pwr.mode ≠ .parked then s else lockRequest 0x07 0xFFFF 0 s)
  else if cause = 0x08 ∨ cause = 0x09 then engineChange s
  else if cause = 0x0A then
    (if latch s = .locked ∧ (s.pwr.mode = .cab ∨ s.pwr.mode = .drive) ∧ armedBy w.tid s then
      moveLatch .armed 0x0A w.tid 0xFFFF 0 s else s)
  else if cause = 0x0B then
    (if latch s = .armed ∧ timerOver 1 s then moveLatch .locked 0x0B s.slk.bound 0xFFFF 0 s else s)
  else reconcileMove s

/-- The records that wait are tried again, oldest first. -/
def execSlkLedgerRetry (s : State) : Host.Outcome State Fault Refusal :=
  .next (
    if s.slk.retry.isEmpty ∨ s.pwr.mode = .hearth then s
    else
      let ws := s.slk.retry
      each ws retryCause (modSlk (fun b => { b with retry := [] }) (elapseTo s.slk.retryAt s)))

def execStateFramePeriod (s : State) : Host.Outcome State Fault Refusal :=
  .next (match s.slk.frameAt with
    | some t => if stateFramesOn s then sendState (elapseTo (t + 1000 * s.slk.policy.periodMs) s) else s
    | none => s)

/-- R333, and after a Hearth exit the ignition-off request of R334. -/
def execReconciliation (s : State) : Host.Outcome State Fault Refusal :=
  .next (match s.slk.reconcileAt with
    | some t =>
      if s.sys.ready then
        let s := modSlk (fun b => { b with reconciled := true, reconcileAt := none }) (elapseTo t s)
        let s := reconcileMove s
        let s := onlyIf (s.slk.hearthExit && s.slk.policy.autoLock && !ignAsserted s) (lockRequest 0x03 0xFFFF 0) s
        flagsCheck (modSlk (fun b => { b with hearthExit := false }) s)
      else s
    | none => s)

/-! ### CAN ports (R328, R581) -/

/-- A port goes bus-off: reported, and the frames it carried move to FRAME_ALT. -/
def execCanBusOff (p : Fin 6) (s : State) : Host.Outcome State Fault Refusal :=
  .next (
    if portUp s pCan p.val && !s.flt.canBusoff.getLsbD p.val then
      let s := modFlt (fun b => { b with canBusoff := setBits b.canBusoff p.val }) s
      let s := modSlk (fun b => { b with
        portOff := setBits b.portOff p.val, busOffAt := tabPut b.busOffAt p.val (monoUs s)
        activeAt := tabErase b.activeAt p.val }) s
      let s := fault pCan p.val 0x03 sDegraded 0x02 0 0 s
      let carries := p.val == s.slk.policy.framePort || p.val == s.slk.policy.bodyPort
      flagsCheck (onlyIf (carries && (framePort s p.val).isSome) (slkEvent 4) s)
    else s)

/-- The recovery the part starts 100 ms after bus-off; the port is error-active from then on (log entry 23). -/
def execCanBusoffRecovery (p : Fin 6) (s : State) : Host.Outcome State Fault Refusal :=
  .next (match tabFind s.slk.busOffAt p.val with
    | some t =>
      let s := elapseTo (t + 100000) s
      flagsCheck (modFlt (fun b => { b with canBusoff := b.canBusoff &&& ~~~ BitVec.ofNat 6 (2 ^ p.val) })
        (modSlk (fun b => { b with busOffAt := tabErase b.busOffAt p.val, activeAt := tabPut b.activeAt p.val (monoUs s) }) s))
    | none => s)

/-- The port has been error-active for 1 s: its frames return to it. -/
def execCanPortReturn (p : Fin 6) (s : State) : Host.Outcome State Fault Refusal :=
  .next (match tabFind s.slk.activeAt p.val with
    | some t =>
      flagsCheck (modSlk (fun b => { b with activeAt := tabErase b.activeAt p.val
                                            portOff := b.portOff &&& ~~~ BitVec.ofNat 6 (2 ^ p.val) })
        (elapseTo (t + 1000000) s))
    | none => s)

/-! ### SLK balls (R581) -/

/-- Three samples disagree with the latch, or three agree again: reported, and the latch does not move. -/
def execSlkMismatch (out1 : Bool) (agrees : Bool) (s : State) : Host.Outcome State Fault Refusal :=
  .next (
    let i := ofBool out1
    if out1 && !(match board s with | some b => b.slk1 | none => false) then s
    else if agrees then
      if s.flt.slkMismatch.getLsbD i then
        writeFault uSlk i 0x09 sInfo 0x09 0 0 (modFlt (fun b => { b with slkMismatch := b.slkMismatch &&& ~~~ BitVec.ofNat 2 (2 ^ i) }) s)
      else s
    else if s.flt.slkMismatch.getLsbD i then s
    else fault uSlk i 0x03 sDegraded 0x00 0 0 (modFlt (fun b => { b with slkMismatch := setBits b.slkMismatch i }) s))

end Sys2Proof.Machine
end

