-- ==== Sys2Proof/Machine/IflPhy.lean ====
section
/-! DEFINITION. The physical layer of Ifeven Line: received frames, soundings and loading tables, listen windows (chapter 11). -/

namespace Sys2Proof.Machine

/-! ### Management messages the part sends (R397, R398) -/

/-- SOUND_REQ with a reason, unless one waits already. -/
def sendSoundReq (p reason : Nat) (s : State) : State :=
  if (getPort s p).mgmt.any (fun m => byteAt m 0 == 2) then s else sendMgmt p (le 1 2 ++ le 1 reason) s

/-! ### Received frames (R394) -/

/-- Fields of a header. -/
structure LineHead where
  ver : Nat
  map : Nat
  tbl : Nat
  src : Nat
  dst : Nat
  kind : Nat
  len : Nat
  rsvd : Nat
  deriving DecidableEq, Repr

def parseHead (h : Bytes) : LineHead :=
  let v := beAt h 0 5
  { ver := bits v 36 4, map := bits v 32 4, tbl := bits v 28 4, src := bits v 24 4, dst := bits v 20 4, kind := bits v 18 2,
    len := bits v 6 12, rsvd := bits v 0 6 }

/-- The header's fields are allowed and fit the profile. MAP 0x8 with a payload, or on a link frame, is no SOUND frame and counts as an
HCRC failure too (DESIGN CHOICE, log entry 102). -/
def headOk (flood : Bool) (h : LineHead) : Bool :=
  h.ver == 1 && h.rsvd == 0 && decide (h.kind ≤ 1) &&
    (if flood then (h.map == 2 || h.map == 3 || h.map == 4 || h.map == 8) && decide (h.len ≤ 4064)
     else decide (h.map ≤ 1) && decide (h.len ≤ 256)) &&
    (h.map == 4 || h.tbl == 0) && (h.map != 8 || (h.len == 0 && h.kind == 1))

/-- The port hears frames: always in Cab, Drive and Service; in Parked one whose preamble, starting now, ends before the search does
(R391, R401). -/
def hears (s : State) (p : Nat) : Bool :=
  lineUp s p && (linkMode s || (tricklesOn s && decide (s.clk.ns + 174080 ≤ 1000 * (getPort s p).searchUntil)))

/-- It hears a preamble that starts now: it is not transmitting, nor passing over a frame for another node, and in Parked every frame is a
Trickle frame (R391, R394, R400). -/
def hearsStart (s : State) (p : Nat) (flood : Bool) : Bool :=
  hears s p && decide ((getPort s p).txEnd ≤ s.clk.ns) && decide ((getPort s p).skipTo ≤ s.clk.ns) && (linkMode s || !flood)

/-- A DST that names this port: its chain position or every node (R386, R394). -/
def forUs (s : State) (dst : Nat) : Bool := dst == 0xF || (decide (dst ≤ 7) && dst == ownPos s)

/-- The receiver holds the table of a header for its SRC (R394). -/
def tableHeld (x : Port) (h : LineHead) : Bool := h.tbl != 0 && h.src == x.srcRx && (h.tbl == x.tblRx || h.tbl == x.tblOld)

/-! ### Gain, carrier and sampling (R392, R393) -/

/-- The gain after a short symbol: 4 lower when it clipped, otherwise moved by the error from −12 dBFS where that exceeds 4 dB. -/
def gainStep (g : Nat) (level : Option Int) : Nat :=
  let next : Int := match level with
    | none => (g : Int) - 4
    | some v =>
      let e := -120 - v
      if 40 < e.natAbs then (g : Int) + (if e < 0 then -((-e + 15) / 30) else (e + 15) / 30) else g
  min 15 next.toNat

/-- The gain at which a port waits for a frame of `src`. -/
def waitGain (s : State) (p src : Nat) : Nat :=
  let x := getPort s p
  match x.goodAt with
  | some t => if x.goodSrc = src ∧ monoUs s ≤ t + 100000 then x.goodGain else 10
  | none => 10

/-- The gain frozen from short symbol 5 on. -/
def frozenGain (s : State) (p src : Nat) (levels : List (Option Int)) : Nat := (levels.take 4).foldl gainStep (waitGain s p src)

/-- What the pilots of a symbol correct: in Trickle its common phase alone, in Flood the ratio and the timing too. -/
def trackSymbol (flood : Bool) (x : Port) (m : PilotFit) : Port :=
  if flood then { x with rxPhase := m.phase, rxRatio := x.rxRatio + m.ratio, rxTime := x.rxTime + m.time }
  else { x with rxPhase := m.phase }

/-- The receiver over a frame: the ratio the preamble shows corrects carrier and sampling, and the pilots follow. -/
def trackFrame (f : LineFrame) (x : Port) : Port :=
  f.pilots.foldl (trackSymbol f.flood) { x with rxRatio := f.ratio, rxTime := 0, rxPhase := 0 }

/-- A frame of the master, or any other, has come down the upstream port: its preamble began 400 µs after the window opened, and the
windows of the other ports follow (R400). -/
def masterHeard (p : Nat) (s : State) : State :=
  if upstream s p then
    modIfl (fun b => { b with
      winSync := true, masterAt := monoUs s
      ports := b.ports.map (fun x => { x with winAt := monoUs s - 400 }) }) s
  else s

/-- A good frame: counts, the gain it came at, the tables it speaks for, and in Parked the wake. -/
def goodFrame (p : Nat) (h : LineHead) (f : LineFrame) (s : State) : State :=
  let s := modPort p (fun x =>
    let x := { x with pcrcRun := 0, margin := f.margin, cntRxOk := x.cntRxOk + 1 }
    let x := if f.flood then { x with goodAt := some (monoUs s), goodSrc := h.src, goodGain := x.gain } else x
    if h.map = 4 then
      if h.tbl = x.tblRx then { x with tblOld := 0, bitsOld := 0, oldBody := [], oldSeen := false } else { x with oldSeen := true }
    else x) s
  let s := onlyIf (h.map == 4 && decide (f.margin ≤ -6)) (sendSoundReq p 2) s
  if s.pwr.mode = .parked ∧ h.kind = 0 ∧ h.dst = ownPos s then
    modPwr (fun w => { w with wakeCause := setBits w.wakeCause 8, slice := some (monoUs s) })
      (onlyIf s.pwr.slice.isNone powerSlice s)
  else s

/-- A PCRC failure; the third in a row under a table asks for a sounding. One under the older table has arrived under it all the same
(R399). -/
def badPcrc (p : Nat) (h : LineHead) (s : State) : State :=
  let s := modPort p (fun x => { x with cntPcrc := x.cntPcrc + 1 }) s
  if h.map = 4 then
    let s := modPort p (fun x => { x with pcrcRun := x.pcrcRun + 1, oldSeen := x.oldSeen || h.tbl != x.tblRx }) s
    if 3 ≤ (getPort s p).pcrcRun then sendSoundReq p 1 (modPort p (fun x => { x with pcrcRun := 0 }) s) else s
  else s

/-- BITS of the table a frame's header names. -/
def headBits (s : State) (p : Nat) (h : LineHead) : Nat :=
  let x := getPort s p
  if h.tbl = x.tblRx then x.bitsRx else x.bitsOld

/-- The PHY's verdict on a frame whose preamble begins now. -/
def frameVerdict (p : Nat) (frame : LineFrame) (s : State) : State :=
  let h := parseHead frame.head
  let g := frozenGain s p h.src frame.levels
  let s := modPort p (fun x => { trackFrame frame x with gain := g, cntPre := x.cntPre + 1 }) s
  let s := onlyIf frame.clip (iflEvent p 2) s
  if crc16 (slice frame.head 0 5) != beAt frame.head 5 2 || !headOk frame.flood h then
    modPort p (fun x => { x with cntHcrc := x.cntHcrc + 1 }) s
  else
    let stop := s.clk.ns + frameNs s h.map (headBits s p h) h.len
    let s := modPort p (fun x => { x with airEnd := max x.airEnd stop }) (onlyIf (h.kind == 0) (searchOn p stop) (masterHeard p s))
    if !forUs s h.dst then modPort p (fun x => { x with skipTo := stop }) s
    else if h.map == 4 && !tableHeld (getPort s p) h then sendSoundReq p 4 (iflEvent p 0 s)
    else if h.len != 0 && !(frame.payload.length == h.len && frame.pcrc == crc32 frame.payload) then badPcrc p h s
    else goodFrame p h frame s

/-- A frame arrives. An accepted link frame or message is then given to the link layer by the command of its type (log entry 30). -/
def execIflFrameReceived (p : Fin 4) (frame : LineFrame) (s : State) : Host.Outcome State Fault Refusal :=
  .next (
    let t := elapseToNs frame.start s
    if hearsStart t p frame.flood then frameVerdict p frame t else s)

/-! ### Sounding and loading (R395–R399) -/

/-- SNR_b in tenths of a dB. -/
def snrNeeded : List Nat := [105, 135, 180, 205, 240, 265, 300, 325, 360, 385]

/-- A power over an error reaches `x` tenths of a dB: power ÷ error ≥ 10^(x ÷ 100). -/
def snrReaches (pe : Nat × Nat) (x : Nat) : Bool := pe.1 != 0 && decide (10 ^ x * pe.2 ^ 100 ≤ pe.1 ^ 100)

/-- b_k for a measured power and error and a margin in half dB. -/
def loadBits (margin : Nat) (pe : Nat × Nat) : Nat := (snrNeeded.filter (fun n => snrReaches pe (n + 5 * margin))).length

/-- Adds one received value, in 1/1024 of the known value's amplitude, to a subcarrier's received power and squared error about the known
value. -/
def addSound (acc : Nat × Nat) (r : Int × Int) (known : Bool) : Nat × Nat :=
  let x : Int := if known then -1024 else 1024
  (acc.1 + (r.1 * r.1 + r.2 * r.2).toNat, acc.2 + ((r.1 - x) * (r.1 - x) + r.2 * r.2).toNat)

/-- Received power and squared error of each usable subcarrier over the eight sounding symbols, whose known values are those of R385. -/
def soundStats (syms : List (List (Int × Int))) : List (Nat × Nat) :=
  let pn := pn9 (8 * 1056)
  ((List.range 8).zip syms).foldl (fun acc e =>
    (acc.zip (e.2.zip (pn.drop (1056 * e.1)))).map (fun x => addSound x.1 x.2.1 x.2.2)) (List.replicate 1056 (0, 0))

/-- The table a sounding gives (R395). -/
def soundTable (s : State) (margin : Nat) (syms : List (List (Int × Int))) : List Nat :=
  (carriers.zip (soundStats syms)).map (fun e => if isPilot e.1 || isMasked s e.1 then 0 else loadBits margin e.2)

/-- Packs b_k as 4-bit values, high nibble first. -/
def packNibbles : List Nat → Bytes
  | a :: b :: rest => le 1 (16 * a + b) :: [] |>.flatten |> (· ++ packNibbles rest)
  | [a] => le 1 (16 * a)
  | [] => []

def unpackNibbles (b : Bytes) : List Nat := b.flatMap (fun x => [x.toNat / 16, x.toNat % 16])

/-- A management message of a type and length, from a frame that may carry one (R397). -/
def msgOk (m : LineMsg) (ty len : Nat) : Bool :=
  m.kind == 1 && decide (m.map ≤ 3) && m.payload.length == len && byteAt m.payload 0 == ty

/-- A SOUND_REQ arrives: a SOUND frame is owed within 5 ms of its end, and further requests before it are ignored (R398). A message that
breaks the table is discarded. -/
def execSoundReq (p : Fin 4) (m : LineMsg) (s : State) : Host.Outcome State Fault Refusal :=
  .next (
    if hears s p && msgOk m 2 2 && decide (1 ≤ byteAt m.payload 1) && decide (byteAt m.payload 1 ≤ 5) &&
        !(getPort s p).soundDue.any (fun d => decide (monoUs s ≤ d)) then
      modPort p (fun x => { x with soundDue := some (max s.clk.ns x.airEnd / 1000 + 5000) }) s
    else s)

/-- The SOUND frame that answers it. In Parked, where every frame is a Trickle frame, and after 5 ms, none is sent (R398, R400). -/
def execSoundFrame (p : Fin 4) (s : State) : Host.Outcome State Fault Refusal :=
  .next (match (getPort s p).soundDue with
    | some d =>
      if d < frameStart s p / 1000 then modPort p (fun x => { x with soundDue := none }) s
      else if canSend s p && linkMode s then
        sendFrame p 8 0 (phyDst s p) 1 [] (modPort p (fun x => { x with soundDue := none }) s)
      else s
    | none => s)

/-- A SOUND frame with what its eight sounding symbols brought on every usable subcarrier: the table is built and LOAD follows. -/
def execSoundFrameReceived (p : Fin 4) (syms : List (List (Int × Int))) (s : State) : Host.Outcome State Fault Refusal :=
  .next (match iflRec s with
    | some i =>
      if hears s p then
        let bk := soundTable s i.margin syms
        let sum := bk.foldl (· + ·) 0
        let pt := getPort s p
        let tbl := pt.tblSent % 15 + 1
        let body := le 1 3 ++ le 1 tbl ++ be 2 sum ++ le 1 i.margin ++ zeros 3 ++ slice (packNibbles bk) 0 528
        sendMgmt p body (modPort p (fun x => { x with
          tblOld := x.tblRx, bitsOld := x.bitsRx, oldBody := x.loadBody, tblRx := tbl, bitsRx := sum, srcRx := phyDst s p
          tblSent := tbl, bitsSent := sum, oldSeen := false, loads := 1
          loadAt := monoUs s, loadFirst := monoUs s, loadBody := body, soundAt := monoUs s }) s)
      else s
    | none => s)

/-- The LOAD's values are ones the sender accepts (R398). -/
def loadOk (s : State) (b : Bytes) : Bool :=
  let bk := unpackNibbles (slice b 8 528)
  beAt b 2 2 == bk.foldl (· + ·) 0 && bk.all (fun v => decide (v ≤ 10)) &&
    (carriers.zip bk).all (fun e => e.2 == 0 || !(isPilot e.1 || isMasked s e.1))

/-- A LOAD arrives. One that breaks the table of R397 is discarded; one with wrong values is counted. -/
def execIflLoad (p : Fin 4) (m : LineMsg) (s : State) : Host.Outcome State Fault Refusal :=
  .next (
    let b := m.payload
    if hears s p && msgOk m 3 536 && decide (1 ≤ byteAt b 1) && decide (byteAt b 1 ≤ 15) && zeroAt b 5 3 then
      if loadOk s b then
        modPort p (fun x => { x with tblTx := byteAt b 1, bitsTx := beAt b 2 2, bkTx := unpackNibbles (slice b 8 528) }) s
      else modPort p (fun x => { x with cntPcrc := x.cntPcrc + 1 }) s
    else s)

/-- 50 ms after a LOAD while frames come under the older table (R399). -/
def execLoadResend (p : Fin 4) (s : State) : Host.Outcome State Fault Refusal :=
  .next (
    let pt := getPort s p
    if pt.oldSeen && pt.tblOld != 0 && canSend s p then
      let s := elapseTo (pt.loadAt + 50000) s
      if pt.loads < 4 then
        sendMgmt p pt.loadBody (modPort p (fun x => { x with loads := x.loads + 1, loadAt := monoUs s, oldSeen := false }) s)
      else
        sendSoundReq p 1 (modPort p (fun x => { x with 
          tblRx := x.tblOld, bitsRx := x.bitsOld, loadBody := x.oldBody, tblOld := 0, bitsOld := 0, oldBody := [], oldSeen := false }) s)
    else s)

/-- 1 s after LOAD n the older table is dropped. -/
def execOldTableHoldEnd (p : Fin 4) (s : State) : Host.Outcome State Fault Refusal :=
  .next (
    let pt := getPort s p
    if pt.tblOld = 0 then s
    else modPort p (fun x => { x with tblOld := 0, bitsOld := 0, oldBody := [], oldSeen := false }) (elapseTo (pt.loadFirst + 1000000) s))

/-- 10 s since the last sounding of a Flood segment. -/
def execSoundingPeriod (p : Fin 4) (s : State) : Host.Outcome State Fault Refusal :=
  .next (
    if (getPort s p).link == .coupledF && linkMode s then
      let s := elapseTo ((getPort s p).soundAt + 10000000) s
      sendSoundReq p 3 (modPort p (fun x => { x with soundAt := monoUs s }) s)
    else s)

/-! ### Listen windows (R400–R402) -/

/-- The part is master of a segment's schedule on its downstream ports. -/
def masterOf (s : State) (p : Nat) : Bool := !upstream s p

/-- How much a follower's window is widened at each end, µs: 100 µs for every second beyond 2 s without its master, up to 10 ms. -/
def windowWiden (s : State) : Nat :=
  if s.sys.trailer then min 10000 (100 * ((monoUs s - s.ifl.masterAt) / 1000000 - 2)) else 0

/-- A Parked window opens, a follower's earlier by as much as it is widened: the master sends a TICK in the first and in every second
one, and waiting frames go. A follower that has lost the schedule has no windows. -/
def execListenWindow (p : Fin 4) (s : State) : Host.Outcome State Fault Refusal :=
  .next (
    if tricklesOn s && s.pwr.vaon && lineUp s p && (!s.sys.trailer || s.ifl.winSync) then
      let at_ := (getPort s p).winAt + 1000000
      let s := elapseTo (at_ - windowWiden s) s
      let n := (getPort s p).winSeq + 1
      let s := modPort p (fun x => { x with winAt := at_, winSeq := n,
                                            searchUntil := max x.searchUntil (at_ + 1500 + windowWiden s) }) s
      let s := if canSend s p && masterOf s p && n % 2 == 1 then sendFrame p 0 0 0xF 1 (le 1 1 ++ be 4 n) s else s
      pump p s
    else s)

/-- 20 ms after the last link frame the search stops. -/
def execWindowExtensionEnd (p : Fin 4) (s : State) : Host.Outcome State Fault Refusal :=
  .next (
    if s.pwr.mode == .parked && decide ((getPort s p).searchUntil != 0) then
      let s := elapseTo (getPort s p).searchUntil s
      modPort p (fun x => { x with searchUntil := 0 }) s
    else s)

/-- A follower hears its master's TICK, whose preamble `masterHeard` has taken. -/
def execTick (p : Fin 4) (m : LineMsg) (s : State) : Host.Outcome State Fault Refusal :=
  .next (
    if upstream s p && hears s p && msgOk m 1 5 then modPort p (fun x => { x with winSeq := beAt m.payload 1 4 }) (masterHeard p s) else s)

/-- A follower without a schedule listens for 2.1 s once every 60 s. -/
def execResyncListen (p : Fin 4) (s : State) : Host.Outcome State Fault Refusal :=
  .next (
    if upstream s p && tricklesOn s && !s.ifl.winSync then
      let s := elapseTo (s.ifl.resyncAt + 60000000) s
      modPort p (fun x => { x with searchUntil := monoUs s + 2100000 })
        (modIfl (fun b => { b with resyncAt := monoUs s }) s)
    else s)

end Sys2Proof.Machine
end

