-- ==== Sys2Proof/Machine/Card.lean ====
section
/-! DEFINITION. How a reader activates a card (R341, R342, R347): the frames of ISO/IEC 14443-3 and -4 that the rules name. The spec gives
the options and not the frames' coding, which is the standard's (PRESUMED, log entry 106). -/

namespace Sys2Proof.Machine

/-- FWT in µs (R347). -/
def fwtUs (fwi : Nat) : Nat := ceilDiv (409600 * 2 ^ fwi) 1356
def fwiOf (fwi : Nat) : Nat := if fwi = 15 then 4 else fwi % 16

/-- Cuts data into pieces of `n` bytes, the last one shorter. -/
def cut (n : Nat) : Nat → Bytes → List Bytes
  | 0, _ => []
  | k + 1, b => if b.isEmpty then [] else b.take n :: cut n k (b.drop n)

/-- The frame size a card accepts, by its FSCI. -/
def fscOf (n : Nat) : Nat := nth 256 [16, 24, 32, 40, 48, 64, 96, 128, 256] n

/-- The highest rate that a capability byte offers in both directions and the limit allows; 106 kbit/s is always offered (R342). -/
def rateOf (cap limit : Nat) : Nat :=
  (List.range 4).foldl (fun a r => if r ≤ limit && (r == 0 || (bit cap (r - 1) && bit cap (r + 3))) then r else a) 0

/-- TA, TB and FSCI of an ATS; what it leaves out has the standard's default. -/
def atsRates (b : Bytes) : Nat := if 2 ≤ b.length ∧ bit (byteAt b 1) 4 then byteAt b 2 else 0
def atsTb (b : Bytes) : Nat :=
  if 2 ≤ b.length ∧ bit (byteAt b 1) 5 then byteAt b (2 + ofBool (bit (byteAt b 1) 4)) else 0x40
def atsFsci (b : Bytes) : Nat := if 2 ≤ b.length then byteAt b 1 % 16 else 2

/-- Bytes of anticollision bits, which are sent the least significant first. -/
def ofLsb (l : List Bool) : Bytes :=
  (List.range (l.length / 8)).flatMap (fun i =>
    le 1 (((List.range 8).map (fun j => if nth false l (8 * i + j) then 2 ^ j else 0)).foldl (· + ·) 0))

/-- What an answer, or its absence, leads to in an activation: the next frame, the search again after a card without ISO-DEP has been set to
HALT, an active card with its rate, or no further card. -/
inductive ActNext where
  | send (c : CardCtl) (a : ActStep)
  | again (c : CardCtl)
  | active (rate : Nat)
  | over

/-- After a silent slot of Type B: the next slot, or no card. -/
def slotNext (n k : Nat) : ActNext := if k < n then .send (.slotMarker (k + 1)) (.reqb n (k + 1)) else .over

/-- One step of an activation under a highest rate: Type A first, over cascade levels 1 to 3 with its collisions resolved bit by bit, RATS and
PPS; without a Type A card Type B, with as many slots as it takes, and ATTRIB. None where the block is not one the step waits for. -/
def actNext (limit : Nat) (x : Xchg) (resp : CardBlock) : Option (ActNext × Xchg) :=
  match x.act, resp with
  | .reqa, .atqa | .reqa, .bad => some (.send (.anticoll 1 []) (.anti 1 []), x)
  | .reqa, .noCard => some (.send (.reqb 1) (.reqb 1 1), x)
  | .anti l known, .collision bits =>
    let k := known ++ bits ++ [true]
    some (if k.length ≤ 32 then .send (.anticoll l k) (.anti l k) else .over, x)
  | .anti l known, .uid bits =>
    let k := known ++ bits
    some (if k.length = 32 then .send (.select l (ofLsb k)) (.select l (ofLsb k)) else .over, x)
  | .select l u, .sak v =>
    if bit v 2 then some (if l < 3 then .send (.anticoll (l + 1) []) (.anti (l + 1) []) else .over, { x with ident := x.ident ++ u.drop 1 })
    else some (if bit v 5 then .send .rats .rats else .again .hlta, { x with ident := x.ident ++ u })
  | .rats, .ats b =>
    let r := rateOf (atsRates b) limit
    some (if r = 0 then .active 0 else .send (.pps r) (.pps r),
      { x with typ := 0x0A, ats := b, fwi := fwiOf (atsTb b / 16), sfgi := atsTb b % 16, fsc := fscOf (atsFsci b) })
  | .pps r, .ppsOk => some (.active r, x)
  | .pps _, .bad | .pps _, .noCard => some (.active 0, x)
  | .reqb n k, .collision _ | .reqb n k, .bad => some (if n < 16 then .send (.reqb (2 * n)) (.reqb (2 * n) 1) else slotNext n k, x)
  | .reqb n k, .noCard => some (slotNext n k, x)
  | .reqb _ _, .atqb b =>
    let r := rateOf (byteAt b 9) limit
    some (if bit (byteAt b 10) 0 then .send (.attrib (slice b 1 4) r) (.attrib r) else .again (.hltb (slice b 1 4)),
      { x with typ := 0x0B, ident := slice b 1 4, ats := b, fwi := fwiOf (byteAt b 11 / 16), fsc := fscOf (byteAt b 10 / 16)
               sfgi := if 13 ≤ b.length then byteAt b 12 / 16 else 0 })
  | .attrib r, .attribOk => some (.active r, x)
  | .anti _ _, .noCard | .anti _ _, .bad | .select _ _, .noCard | .select _ _, .bad | .rats, .noCard | .rats, .bad
  | .attrib _, .noCard | .attrib _, .bad => some (.over, x)
  | _, _ => none

end Sys2Proof.Machine
end

