-- ==== Sys2Proof/Machine/Uhf.lean ====
section
/-! DEFINITION. Soundings, reports, fits, coexistence, the front end's checks, tracks and the PROX class (chapter 8). -/

namespace Sys2Proof.Machine

/-! ### Soundings (R280, R283, R301) -/

/-- A session pauses too long after its last trigger: 36 ms (R301). -/
def pausedTooLong (p : Poll) (t : Nat) : Bool := decide (p.trigAt + 36000000 ≤ t)

/-- The session after a burst of `count` tones at `p.planAt`, sent on chain `k`. A burst sent again in full counts as one more, so that the
sounding is SPLIT (R295; DESIGN CHOICE, log entry 98). -/
def afterBurst (p : Poll) (k count : Nat) (s : State) : Poll :=
  let stop := p.planAt + burstDur s count
  { actFrom p p.planAt with
    burstTone := p.tone, burstAt := p.planAt, waits := 0, burstEnd := stop, trigAt := p.planAt + 574000, tone := p.tone + count, bursts := p.bursts + 1, planAt := stop,
    plan := p.plan.drop 1, tx := k }

/-- Sends the next burst of a plan, at its place in the granted window. -/
def sendBurst (r : Nat) (p : Poll) (u : UhfRec) (count : Nat) (s : State) : State :=
  if pausedTooLong p p.planAt then retryLocate r p s
  else if coexSpent p (p.planAt + burstDur s count) then coexAnew 1 p s
  else
    let s := elapseToNs p.planAt s
    if dutyAllows (burstUs count) s then
      match chainsUp s with
      | [] => pollEnds (endLocate r (failFate fDevice 0x27 0x02) s)
      | k :: _ =>
        let q := afterBurst p k count s
        let s := burstOut u k p.tone count (countEmission (burstUs count) s)
        if planTones u ≤ q.tone then coexRaise 0 { q with phase := .report, open_ := none } s else putPoll q s
    else uhfEvent 5 (putPoll { p with waits := 0x26, plan := [] } s)

/-- The next burst of the session on air. A start decision that waits for its lead goes first (R301). -/
def execSoundBurst (s : State) : Host.Outcome State Fault Refusal :=
  .next (match s.radio.poll, uhfRec s with
    | some p, some u =>
      match pollOp p.kind with
      | some r =>
        if p.phase == .sound && !startHolds s then
          if pausedTooLong p s.clk.ns then retryLocate r p s
          else if !p.granted then putPoll { p with waits := 0x24 } s
          else match p.plan with
            | c :: _ => sendBurst r p u c s
            | [] =>
              match planBursts s (planTones u - p.tone) (max s.clk.ns p.burstEnd) with
              | some (t, c :: rest) =>
                let d := ((c :: rest).map (burstDur s)).foldl (· + ·) 0
                sendBurst r { p with plan := c :: rest, planAt := t } u c (grantWindow false t d s)
              | _ => putPoll { p with waits := 0x25 } s
        else s
      | none => s
    | _, _ => s)

/-- Asks for the phases of every tone, and again, up to twice, while no report has passed check 1 (R282, R283). Where the third brings none
the session is over: its requests fall and the LOCATE tries again (R297, R303; DESIGN CHOICE, log entry 95). -/
def execReportTrigger (s : State) : Host.Outcome State Fault Refusal :=
  .next (match s.radio.poll, uhfRec s with
    | some p, some u =>
      match pollOp p.kind with
      | some r =>
        if p.phase == .report && !decide (p.reports < 3) then retryLocate r p (elapseToNs (p.trigAt + nsReplySlot) s)
        else if p.phase == .report && !startHolds s then
          let s := elapseToNs p.burstEnd s
          if pausedTooLong p s.clk.ns then retryLocate r p s
          else if !p.granted then putPoll { p with waits := 0x24 } s
          else if coexSpent p (s.clk.ns + 10000000) then coexAnew 0 p s
          else if dutyAllows 574 s then
            sendTrigger (0xC000 + planTones u)
              (putPoll (actFrom { p with reports := p.reports + 1, trigAt := s.clk.ns + 574000, open_ := some 0, waits := 0 } s.clk.ns) s)
          else uhfEvent 5 (putPoll { p with waits := 0x26 } s)
        else s
      | none => s
    | _, _ => s)

/-- A SOUND_REPORT that fails check 2, 4 or 5 ends the LOCATE AUTH_FAIL; check 3, ABSENT. -/
def reportFailed (r c : Nat) (f : TokenFrame) (s : State) : State :=
  let s := if c = 4 ∨ c = 5 then authFail (frameTid f) (frameTcnt f) s else s
  let fr := if c = 3 then failFate fAbsent 0x21 0x02 else { failFate fAuth 0x23 0x02 with result := c }
  pollEnds (endLocate r fr s)

/-- The sounding as a position to be fitted (R284, R285). -/
def soundFit (s : State) (p : Poll) (f : TokenFrame) (op : Option Nat) : FitReq :=
  { tid := frameTid f, turn := antennaTurn s f, turnOk := p.turnOk && turnOk (antennaTurn s f), snr := p.snr, m := p.m, sounded := true,
    split := decide (1 < p.bursts), op := op, fv := p.fv, drive := p.drive, ph := slice f.payload 11 (byteAt f.payload 10), tx := p.tx }

/-- A SOUND_REPORT on air is checked with checks 1 to 5 (R282). One that passes them and is not of the token asked leaves the session as
it is, with its TCNT taken (DESIGN CHOICE, log entry 49). -/
def execSoundReport (frame : TokenFrame) (s : State) : Host.Outcome State Fault Refusal :=
  .next (match s.radio.poll, uhfRec s with
    | some p, some u =>
      match pollOp p.kind with
      | some r =>
        if p.phase == .report && p.open_.isSome && secReady s && frameValid frame && canTakeTcnt s then
          let c := reportCheck s 0 (planTones u) p.nonce frame
          if c = 0 then
            let s := recordTcnt (frameTid frame) (frameTcnt frame) s
            if frameTid frame = p.tid then
              pollEnds (modRadio (fun b => { b with cntSound := b.cntSound + 1, fits := b.fits ++ [soundFit s p frame (some r)] })
                (atStage r 0x03 0 s))
            else s
          else reportFailed r c frame s
        else s
      | none => s
    | _, _ => s)

/-! ### The fit (R285, R287, R289, R294) -/

/-- UHF_CH_SNR of the chains after a sounding: the median of what each measured (R302). -/
def noteSnr (fit : FitResult) (s : State) : State :=
  each (heardBy s fit) (fun k t => modRadio (fun b => { b with
    uhfCh := tabModify {} b.uhfCh k (fun x => { x with
      snr := median ((fit.phases.filter (fun y => y.chain == k)).map (fun y => min 255 y.snr)) }) }) t) s

/-- CHAINS_REDUCED or ONE_SYNTH holds, which set NOTE DEGRADED (R295). -/
def frontReduced (s : State) : Bool := chainsReduced s || oneSynth s

/-- A LOCATE's fit that passes check 7: the track, the token's passing, the record and the fate. -/
def locateDone (r : Nat) (f : Flight) (u : UhfRec) (q : FitReq) (fit : FitResult) (pos : Option Pos) (wr : Bool) (s : State) : State :=
  let ts := putTrack (fuse s u q fit pos false) s
  let s := tokenPassed q.tid ts.1.zone ts.2
  let fr := { done (locateResult ts.1) with degraded := frontReduced s }
  if dLen f.raw = 64 then writeAndSettle r f 0 (locationRecord s ts.1) wr fr s else settle r fr s

/-- A PRESENCE reply's fit that passes check 7. -/
def presencePassed (u : UhfRec) (q : FitReq) (fit : FitResult) (pos : Option Pos) (s : State) : State :=
  let ts := putTrack (fuse s u q fit pos false) s
  modRadio (fun b => { b with poll := b.poll.map (fun p => { p with passed := p.passed ++ [q.tid] }) })
    (tokenPassed q.tid ts.1.zone ts.2)

def execPositionFit (fit : FitResult) (wr : Bool) (s : State) : Host.Outcome State Fault Refusal :=
  .next (match s.radio.fits, uhfRec s with
    | q :: rest, some u =>
      let s := modRadio (fun b => { b with fits := rest }) s
      let s := onlyIf q.sounded (noteSnr fit) s
      let pos := fitPos s u q fit
      let good := match pos with | some p => consistent s u q fit p | none => true
      let stage := if q.sounded then 0x03 else 0x02
      match q.op with
      | none => if good then presencePassed u q fit pos s else inconsistent q.tid s
      | some r =>
        match getFlight s r with
        | none => s
        | some f =>
          if !q.turnOk then settle r { failFate fAuth 0x22 stage with result := 6 } (inconsistent q.tid s)
          else if !good then settle r { failFate fAuth 0x22 stage with result := 7 } (inconsistent q.tid s)
          else locateDone r f u q fit pos wr s
    | _, _ => s)

/-! ### Coexistence (R274–R277) -/

/-- Grants have been high for 20 µs on every pair a poll asked for. -/
def execCoexGrant (s : State) : Host.Outcome State Fault Refusal :=
  .next (match s.radio.poll with
    | some p =>
      if p.asked && !p.granted then
        putPoll { p with granted := true, waits := 0 } (modRadio (fun b => { b with coexGnt := b.coexGnt ||| b.coexReq }) s)
      else s
    | none => s)

/-- A grant is not high within COEX_TMO: the activity is abandoned (R275). A LOCATE tries again with a fresh challenge, and ends COEX_DENIED
when it has sent three (DEDUCED, log entry 51). -/
def execCoexTimeout (s : State) : Host.Outcome State Fault Refusal :=
  .next (match s.radio.poll, uhfRec s with
    | some p, some u =>
      if p.asked && !p.granted then
        let s := elapseTo (p.askedAt + 1000 * u.coexTmo) s
        let s := uhfEvent 2 (coexDrop (modRadio (fun b => { b with cntCoex := b.cntCoex + 1 }) s))
        match p.kind with
        | .locate r =>
          match getFlight s r with
          | some f =>
            if p.challenges < 3 then onlyIf (secReady s) (startLocate p.challenges 0x24 r f) s
            else pollEnds (endLocate r (failFate fTimeout 0x24 f.stage) s)
          | none => pollEnds s
        | .presence => pollEnds (presenceDeferred s)
        | _ => pollEnds s
      else s
    | _, _ => s)

/-- A grant falls during an activity: the trigger or exchange on air is finished, what is left of the burst or slot is abandoned, and the part
requests again (R277): it holds the request high and waits for the grant with a new COEX_TMO (DESIGN CHOICE, log entry 96). -/
def execCoexGrantFall (m : Fin 2) (s : State) : Host.Outcome State Fault Refusal :=
  .next (
    let was := s.radio.coexGnt.getLsbD m
    let s := modRadio (fun b => { b with coexGnt := b.coexGnt &&& ~~~ BitVec.ofNat 2 (2 ^ m.val) }) s
    let s := onlyIf (s.flt.coexStuck.getLsbD m) (fun t => writeFault pCoex m 0x09 sInfo 0x09 0 0
      (modFlt (fun b => { b with coexStuck := b.coexStuck &&& ~~~ BitVec.ofNat 2 (2 ^ m.val) }) t)) s
    match s.radio.poll with
    | some p =>
      if was && p.asked && p.granted && s.radio.coexReq.getLsbD m then
        let s := stopBurst true (tonePeriod s) s
        let p := { p with granted := false, askedAt := monoUs s, actAt := none }
        if p.phase == .sound && decide (s.clk.ns < p.burstEnd) then putPoll { p with tone := p.burstTone, plan := [] } s
        else if p.phase == .report && decide (s.clk.ns < p.burstEnd) then
          putPoll { p with phase := .sound, tone := p.burstTone, plan := [] } s
        else putPoll p s
      else s
    | none => s)

/-! ### The front end (R263, R266) -/

def modUhfCh (k : Nat) (f : UhfState → UhfState) : State → State :=
  modRadio (fun b => { b with uhfCh := tabModify {} b.uhfCh k f })

/-- A chain has left service: a sounding starts again with a fresh nonce (R301), and a passive entry ends without UHF0 (R261). -/
def chainOut (s : State) : State := restartSound (tonePeriod s) (onlyIf (chainsUp s == []) passiveEnds s)

/-- The correction of every 100 ms: die temperature and VRF are measured anew, and each chain's measured error, in tenths of a dB, is
taken out of its setting in steps of half a dB; beyond 3 dB the chain leaves service. -/
def execUhfPowerCorrection (temp : Int) (errs : List Int) (s : State) : Host.Outcome State Fault Refusal :=
  .next (
    if s.sys.ready || s.pwr.mode == .parked then
      let s := setDieTemp temp s
      each ((chainsUp s).filter (fun k => decide (k < errs.length))) (fun k t =>
        let e := nth 0 errs k
        let t := modUhfCh k (fun x => { x with pwrErr := e, trim := x.trim - roundDiv e 5 }) t
        if 30 < e.natAbs then
          chainOut (uhfEvent 0 (outOfService pUhf k 0x02 (if chainsUp t = [k] then sLost else sDegraded) e.natAbs
            (modUhfCh k (fun x => { x with fault := 1 }) t)))
        else t) s
    else s)

/-- A synthesiser fails: a session starts again from its first burst on the other one (R266). -/
def execSynthFault (b : Bool) (s : State) : Host.Outcome State Fault Refusal :=
  .next (
    let n := ofBool b
    if unitSt s uSyn n = .up then
      restartSound (tonePeriod s) (uhfEvent 1 (outOfService uSyn n 0x02 (if unitSt s uSyn (1 - n) = .up then sDegraded else sLost) 0 s))
    else s)

/-! ### Tracks (R294) -/

/-- An absent token's track passes TRACK_AGE without update. -/
def execTrackAgeExpiry (tid : BitVec 32) (s : State) : Host.Outcome State Fault Refusal :=
  .next (match trackOf s tid.toNat, uhfRec s with
    | some t, some u =>
      if (tabGet {} s.radio.pres tid.toNat).st = 1 then
        let s := elapseTo (t.updated + 1000000 * u.trackAge) s
        modRadio (fun b => { b with tracks := b.tracks.filter (fun x => x.tid != tid.toNat),
                                    pres := if s.slk.bound = tid.toNat then b.pres else tabErase b.pres tid.toNat }) s
      else s
    | _, _ => s)

/-! ### The PROX class (R296–R299) -/

/-- A nonce is out of reach for good: the random source is STOPPED (R528). -/
def noNonce (s : State) : Bool := s.sec.rng == .stopped

def execLocate (r : Nat) (s : State) : Host.Outcome State Fault Refusal :=
  .next (if secReady s || (board s).isNone || noNonce s then startOp 0x0200 r (fun f s =>
    let tid := fieldLE f.raw 24 4
    if (board s).isNone then settle r (failFate fDevice 0x27) s
    else if noNonce s then settle r (failFate fDevice 0x20) s
    else if (tokenKeyOf s tid).isNone then settle r (failFate fAbsent 0x21) s
    else if s.radio.poll.isSome || startHolds s then modRadio (fun b => { b with locates := b.locates ++ [(r, 0)] }) (noteV s)
    else startLocate 0 0 r f s) s else s)

def execTrackRead (r : Nat) (wr : Bool) (s : State) : Host.Outcome State Fault Refusal :=
  .next (startOp 0x0201 r (fun f s =>
    let n := min s.radio.tracks.length (dLen f.raw / 64)
    let data := (s.radio.tracks.take n).flatMap (locationRecord s)
    writeAndSettle r f 0 data wr (done n) s) s)

/-- A key handle NEAR_ENROL takes (R299): open, of 16 B, with the MAC bit, in the tenancy's own subtree. The error is the
fate and DETAIL otherwise. -/
def enrolKey (s : State) (r : Nat) (f : Flight) (h : Nat) : Except (Nat × Nat) Handle :=
  match findHandle s r f.ten h with
  | .error _ => .error (fPolicy, 0x2A)
  | .ok k =>
    if !keyCurrent s k then .error (fDevice, 0x18)
    else if k.key.length = 16 ∧ k.usage.getLsbD uMac ∧ k.subtree = 0 then .ok k else .error (fPolicy, 0x2A)

/-- NEAR_ENROL. Where several refusals apply, TID_EXISTS goes before those of the key, and NEAR_FULL comes last (DESIGN CHOICE, log entry
97). -/
def execNearEnrol (r : Nat) (s : State) : Host.Outcome State Fault Refusal :=
  .next (keyOp 0x0202 r (fun f s =>
    let tid := fieldLE f.raw 24 4
    if s.radio.near.any (fun e => e.tid == tid) then settle r (failFate fPolicy 0x29) s
    else match enrolKey s r f (fieldLE f.raw 32 8) with
      | .error e => settle r (failFate e.1 e.2) s
      | .ok k =>
        if 256 ≤ s.radio.near.length then lfEvent 4 (settle r (failFate fQuota 0x28) s)
        else
          keyRelease r f (fieldLE f.raw 32 8) 2 tid (fun s =>
            settle r (done 0) (modRadio (fun b => { b with near := b.near ++ [({
              tid := tid, key := k.key, tcnt := 0, zones := BitVec.ofNat 12 (fieldLE f.raw 28 2),
              actions := BitVec.ofNat 8 (fieldLE f.raw 30 1), owner := f.ten } : NearEntry)] }) s)) s) s)

/-- The entries a tenancy reaches: those it enrolled, or every one for a tenancy with PARTY 0. -/
def nearReach (f : Flight) (e : NearEntry) : Bool := f.party == 0 || e.owner == f.ten

def execNearRemove (r : Nat) (s : State) : Host.Outcome State Fault Refusal :=
  .next (startOp 0x0203 r (fun f s =>
    let tid := fieldLE f.raw 24 4
    match s.radio.near.find? (fun e => e.tid == tid) with
    | none => settle r (failFate fAbsent 0x21) s
    | some e => if nearReach f e then settle r (done 0) (nearRemove tid s) else settle r (failFate fPolicy 0x2B) s) s)

def nearBytes (e : NearEntry) : Bytes :=
  le 4 e.tid ++ le 2 e.zones.toNat ++ le 1 e.actions.toNat ++ zeros 1 ++ le 4 e.tcnt ++ le 2 e.owner ++ zeros 2

def execNearRead (r : Nat) (wr : Bool) (s : State) : Host.Outcome State Fault Refusal :=
  .next (startOp 0x0204 r (fun f s =>
    let l := (s.radio.near.filter (nearReach f)).take (dLen f.raw / 16)
    writeAndSettle r f 0 (l.flatMap nearBytes) wr (done l.length) s) s)

def execZoneRead (r : Nat) (wr : Bool) (s : State) : Host.Outcome State Fault Refusal :=
  .next (startOp 0x0205 r (fun f s =>
    let body := match s.radio.zones with | some t => t.body | none => []
    if dLen f.raw < body.length then settle r (failFate fMalformed 0x2C) s
    else writeAndSettle r f 0 (slice body 0 (dLen f.raw)) wr (done body.length) s) s)

end Sys2Proof.Machine
end

