-- ==== Sys2Proof/Machine/Nfc.lean ====
section
/-! DEFINITION. Contactless readers, driver cards, seal tags and the NFC class (chapter 10). -/

namespace Sys2Proof.Machine

/-! ### Readers (R341–R349, R367) -/

def nfcEvent (i : Nat) : State → State := modNfc (fun b => { b with events := setBits b.events i })
def getReader (s : State) (k : Nat) : Reader := tabGet {} s.nfc.rds k
def modReader (k : Nat) (f : Reader → Reader) : State → State :=
  modNfc (fun b => { b with rds := tabModify {} b.rds k f })

/-- Readers and detection run in Cab, Drive and Service (R343). -/
def nfcOn (s : State) : Bool := linkMode s

/-- A reader operand's unit is coupled (R367). -/
def unitThere (s : State) (rd : Nat) : Bool := rd / 8 == 0 || nodeReach s (rd / 8)

/-- A reader is in service: on a trailer by the node's reader count and its last STATUS message. -/
def readerUp (s : State) (rd : Nat) : Bool :=
  if rd / 8 = 0 then nfcOn s && portUp s pNfc rd
  else match nodeAt s (rd / 8) with
    | some n => decide (rd % 8 < n.readers) && (n.status.isEmpty || bit (byteAt n.status 0) (rd % 8))
    | none => false

/-- A reader is held by an operation. -/
def readerBusy (s : State) (rd : Nat) : Bool := s.nfc.xs.any (fun x => x.readers.contains rd)

/-- The exchange waiting on a reader. -/
def xchgOn (s : State) (rd : Nat) : Option Xchg := s.nfc.xs.find? (fun x => x.readers.head? == some rd)
/-- The ceiling of an exchange, ms (R348, R424). -/
def ceilOf (s : State) (x : Xchg) : Nat := if x.ceilMs = 0 then s.nfc.wtxCeil else x.ceilMs
def xRd (x : Xchg) : Nat := x.readers.headD 0
def dropXchg (op : Nat) : State → State := modNfc (fun b => { b with xs := b.xs.filter (fun x => x.op != op) })
def putXchg (x : Xchg) : State → State :=
  modNfc (fun b => { b with xs := b.xs.filter (fun y => y.op != x.op) ++ [x] })

/-- A READER request to a node (R424). -/
def readerRequest (rd op : Nat) (data : Bytes) (s : State) : State :=
  let id := (s.nfc.reqId + 1) % 65536
  sendData (rd / 8) 0x04 0 (le 1 op ++ le 1 (rd % 8) ++ be 2 id ++ be 2 s.nfc.wtxCeil ++ le 1 s.nfc.maxRate ++ zeros 1 ++ data)
    none (modNfc (fun b => { b with reqId := id }) s)

/-- A reader is ready for an activation: the carrier on, after 5 ms off, for the field-on guard, and the guard after the last activation over
(R342, R376). -/
def carrierOn (rd : Nat) (s : State) : State :=
  let r := getReader s rd
  if r.field then elapseTo r.guardAt s
  else elapseNs 5100000 (modReader rd (fun x => { x with field := true, card := none }) (elapseTo (r.offAt + 5000) s))

/-- A frame of an activation goes out, and its answer is awaited for the default FWT. -/
def sendAct (x : Xchg) (c : CardCtl) (a : ActStep) (s : State) : State :=
  putXchg { x with act := a, waitEnd := monoUs s + fwtUs 4 } (emit (.cardCtl (xRd x) c) s)

/-- Searches the exchange's reader for a card from REQA on. -/
def beginSearch (x : Xchg) (s : State) : State :=
  let s := carrierOn (xRd x) s
  sendAct { x with step := .activate, ident := [], started := monoUs s } .reqa .reqa s

/-- The exchange as it stands before an activation. -/
def freshXchg (x : Xchg) : Xchg :=
  { op := x.op, node := x.node, ceilMs := x.ceilMs, limit := x.limit, poll := x.poll, found := x.found, readers := x.readers,
    failed := x.failed, entries := x.entries }

/-- Activates the first card of the exchange's reader, or the next one with the present card set to HALT. -/
def activateCard (x : Xchg) (next : Bool) (s : State) : State :=
  let rd := xRd x
  if rd / 8 = 0 then beginSearch (freshXchg x) (onlyIf next (emit (.cardCtl rd .halt)) s)
  else
    let t := monoUs s
    putXchg { freshXchg x with act := .remote, started := t, waitEnd := t + 5000 + fwtUs 4 }
      (readerRequest rd (if next then 0x04 else 0x01) [] s)

/-- End of a wait of `us` within the exchange's ceiling. -/
def waitUntil (s : State) (x : Xchg) (us : Nat) : Nat := min (monoUs s + us) (x.started + 1000 * ceilOf s x)

/-- Sends the next of the blocks that a command is chained into (R341). -/
def sendBlock (x : Xchg) (l : List Bytes) (s : State) : State :=
  match l with
  | [] => putXchg x s
  | b :: rest =>
    putXchg { x with out := rest, naks := 0, waitEnd := waitUntil s x (fwtUs x.fwi) } (emit (.card (xRd x) (!rest.isEmpty) b) s)

/-- Sends a command APDU and waits for its answer. -/
def sendApdu (x : Xchg) (step : NfcStep) (apdu : Bytes) (s : State) : State :=
  let rd := xRd x
  let y := { x with step := step, started := monoUs s, out := [], rx := [], acked := false }
  if rd / 8 = 0 then sendBlock y (cut (x.fsc - 3) apdu.length apdu) s
  else putXchg { y with naks := 0, waitEnd := waitUntil s y (fwtUs x.fwi) } (readerRequest rd 0x02 apdu s)

/-- Switches the carrier off, after S(DESELECT) when the card is still there. -/
def carrierOff (rd : Nat) (deselect : Bool) (s : State) : State :=
  if rd / 8 = 0 then
    emit (.cardCtl rd (if deselect then .deselect else .off)) (modReader rd (fun x => { x with field := false, offAt := monoUs s, card := none }) s)
  else if deselect then readerRequest rd 0x03 [] s else s

/-- Every carrier is off and no card is searched for (R343). -/
def readersOff (s : State) : State :=
  modNfc (fun b => { b with xs := [] })
    (each (List.range 8) (fun k t => if (getReader t k).field then carrierOff k false t else t) s)

/-- Ends the exchange and its operation. -/
def endXchg (x : Xchg) (fr : FateRec) (s : State) : State :=
  settle x.op fr (dropXchg x.op (carrierOff (xRd x) true s))

/-! ### Seal operands -/

def sealId (f : Flight) : Nat := fieldLE f.raw 32 8

/-- The ACCESS record of a seal event (R365, R366). -/
def sealRecord (kind : Nat) (x : Xchg) (f : Flight) (id : Nat) (s : State) : State :=
  logPart { kind := kind, ten := f.ten, unit := xRd x, sealId := id, seq := dSeq f.raw } s

/-- The answer of a request this part serves for the tractor (R424): its first four bytes, STATUS, data. -/
def nodeAnswer (x : Xchg) (status : Nat) (data : Bytes) (s : State) : State :=
  sendData 0 0x04 0 ((x.node.getD []) ++ le 1 status ++ data) none (dropXchg x.op s)

/-- An operation whose state-changing command stays unconfirmed ends PARTIAL, with the record of R365; any other ends with `fr`. A request served
in trailer role is answered, with STATUS 0x05 where its command was one of R365 (DEDUCED, log entry 62). -/
def endLost (x : Xchg) (fr : FateRec) (partialDetail : Nat) (s : State) : State :=
  match getFlight s x.op with
  | none =>
    let s := carrierOff (xRd x) false s
    if x.node.isSome then nodeAnswer x (if x.outstanding then 0x05 else 0x02) [] s else dropXchg x.op s
  | some f =>
    let s := dropXchg x.op (carrierOff (xRd x) false s)
    if x.outstanding then settle x.op (failFate fPartial partialDetail) (sealRecord 0x0A x f (sealId f) s)
    else settle x.op fr s

/-- The card is gone (R349, R367). -/
def cardLost (x : Xchg) : State → State := endLost x (failFate fTimeout 0x27) 0x28
/-- The exchange would pass NFC_WTX_CEIL (R348). -/
def ceilingHit (x : Xchg) (s : State) : State :=
  nfcEvent 4 (if x.node.isSome then nodeAnswer x 0x03 [] (carrierOff (xRd x) false s)
    else endLost x (failFate fTimeout 0x26) 0x26 s)

/-- Every operation on the readers of a unit, or on one reader, ends as if its card had gone. -/
def unitLost (unit : Nat) (s : State) : State :=
  each (s.nfc.xs.filter (fun x => xRd x / 8 == unit)) cardLost s
def readerLost (k : Nat) (s : State) : State := each (s.nfc.xs.filter (fun x => xRd x == k)) cardLost s

/-- K_tag (R354) of the operation's SEAL_ID under its key handle. -/
def tagKey (s : State) (r : Nat) (f : Flight) : Bytes :=
  match findHandle s r f.ten (fieldLE f.raw 40 8) with
  | .ok k => kdf k.key (label32 ([0x53, 0x45, 0x41, 0x4C] ++ be 8 (sealId f))) (nodeCtx (k.level + 1) 2) 16
  | .error _ => []

def tagPassword (key : Bytes) (f : Flight) : Bytes := (cmac key (le 1 0x50 ++ be 8 (sealId f))).take 8

/-- CLA, INS, P1 and P2 of a seal or driver-card command. -/
def apduHead (ins : Nat) : Bytes := le 1 0x80 ++ le 1 ins ++ zeros 2
def apdu (ins : Nat) (data : Bytes) : Bytes :=
  apduHead ins ++ (if data.isEmpty then [] else le 1 data.length ++ data) ++ zeros 1
def selectApdu (aid : Bytes) : Bytes := [0x00, 0xA4, 0x04, 0x00, 0x07] ++ aid ++ [0x00]
def driverAid : Bytes := [0xF0, 0x46, 0x41, 0x52, 0x56, 0x01, 0x44]
def sealAid : Bytes := [0xF0, 0x46, 0x41, 0x52, 0x56, 0x01, 0x53]

/-- The nonce of R361. -/
def sessionNonce (x : Xchg) (fromTag : Bool) : Bytes := le 1 (ofBool fromTag) ++ be 4 x.ctr ++ x.rndP
def ccmProtect (x : Xchg) (ins : Nat) (plain : Bytes) : Bytes :=
  ccmCrypt x.ks (sessionNonce x false) 1 (blocks16 plain) ++ ccmTag x.ks (sessionNonce x false) (apduHead ins) plain 8
/-- A protected answer; none when its check fails. -/
def ccmRead (x : Xchg) (ins : Nat) (data : Bytes) : Option Bytes :=
  if data.length < 8 then none
  else
    let n := data.length - 8
    let plain := ccmCrypt x.ks (sessionNonce x true) 1 (blocks16 (data.take n))
    if ccmTag x.ks (sessionNonce x true) (apduHead ins) plain 8 = data.drop n then some plain else none

/-! ### GET_INFO's answer (R363) -/

def infoMode (x : Xchg) : Nat := byteAt x.info 1
def infoState (x : Xchg) : Nat := byteAt x.info 2
def infoFlags (x : Xchg) : Nat := byteAt x.info 3
def infoId (x : Xchg) : Nat := beAt x.info 4 8

/-! ### Driver cards (R350–R352) -/

/-- The engine's result code on a card's answer (R351); none where the answer gives it nothing to verify. -/
def cardCode (s : State) (chal d : Bytes) : Option Nat :=
  let alg := byteAt d 16
  let n := if alg = 1 then 65 else 32
  if (alg = 1 ∨ alg = 2) ∧ d.length = 81 + n then
    some (pkVerify (if alg = 1 then 1 else 3) (slice d 17 n) (slice d (17 + n) 64)
      ([0x44, 0x52, 0x56, 0x43] ++ chal ++ uidBytes s ++ slice d 0 16) false)
  else none

/-- A card whose answer passed: CRED_ID, ALG, PUBKEY. -/
def cardKey (d : Bytes) : Bytes × Nat × Bytes :=
  (slice d 0 16, byteAt d 16, slice d 17 (if byteAt d 16 = 1 then 65 else 32))

/-- Counts the engine's operation on a card's answer. -/
def cardRan (code : Option Nat) (s : State) : State :=
  match code with
  | some c => pkeRan c s
  | none => s

/-- The CARD_AUTH record (R372). -/
def cardRecord (x : Xchg) (cred : Bytes) (alg : Nat) (key : Bytes) (t : Nat) : Bytes :=
  cred ++ sha256 key ++ le 1 (xRd x) ++ le 1 x.typ ++ le 1 x.rate ++ le 1 alg ++ zeros 4 ++ le 8 t

/-- The answer to CARD_AUTH. -/
def cardAnswer (x : Xchg) (f : Flight) (d : Bytes) (sw : Nat) (wr : Bool) (s : State) : State :=
  if !pkeUp s then endXchg x (failFate fDevice 0x19) s
  else
    let code := if sw = 0x9000 then cardCode s x.chal d else none
    let s := cardRan code s
    if code = some 0 then
      let (cred, alg, key) := cardKey d
      let s := dropXchg x.op (carrierOff (xRd x) true s)
      let fr := done (xRd x + 256 * alg + 65536 * leAt cred 0 5)
      if dLen f.raw = 0 then settle x.op fr s
      else writeAndSettle x.op f 0 (cardRecord x cred alg key (monoUs s)) wr fr s
    else activateCard { x with failed := true } true s

/-! ### Seal tags (R353–R366) -/

/-- Room for SEAL_SCAN entries. -/
def scanRoom (f : Flight) : Nat := min 16 (dLen f.raw / 16)

def scanDone (x : Xchg) (f : Flight) (wr : Bool) (s : State) : State :=
  let s := dropXchg x.op (carrierOff (xRd x) true s)
  writeAndSettle x.op f 0 x.entries.flatten wr (done x.entries.length) s

/-- A blocked tag answers 6983 to the tag named. -/
def tagBlocked (x : Xchg) (s : State) : State := endXchg x (failFate fPolicy 0x25) (nfcEvent 3 s)

/-- TIME, TENANCY and OP_ID of a state-changing command. -/
def changeFields (s : State) (f : Flight) : Bytes :=
  be 4 (wallUs s / 1000000) ++ be 2 f.ten ++ be 4 (dSeq f.raw)

/-- SEAL_OPEN, not SEAL_SECURE. -/
def isOpenOp (f : Flight) : Bool := dOpc f.raw == 0x0403

/-- Sends the state-changing command, once per descriptor: its intent first (R39, R365). -/
def sendChange (x : Xchg) (f : Flight) (s : State) : State :=
  if canLog (.intent 3 x.op) s then
    let s := logRec (.intent 3 x.op) s
    let y := { x with outstanding := true }
    if infoMode x = 2 then
      let ins := if isOpenOp f then 0x42 else 0x40
      sendApdu y .change (apdu ins (ccmProtect x ins (changeFields s f))) s
    else
      sendApdu y .change (apdu (if isOpenOp f then 0x52 else 0x50) (tagPassword (tagKey s x.op f) f ++ changeFields s f)) s
  else endXchg x (failFate fDevice 0x1A) s

/-- The tag is found and, in CCM mode, a session is open: the operation's command. -/
def sealCommand (x : Xchg) (f : Flight) (s : State) : State :=
  if dOpc f.raw = 0x0404 then
    sendApdu x .readLog (apdu 0x44 (if infoMode x = 2 then ccmProtect x 0x44 [] else [])) s
  else sendChange x f s

/-- The answer to GET_INFO. -/
def infoAnswer (x : Xchg) (f : Flight) (d : Bytes) (sw : Nat) (wr : Bool) (s : State) : State :=
  if !(sw == 0x9000 && d.length == 16 && byteAt d 0 == 1) then activateCard x true s
  else
    let x := { x with info := d }
    let broken := infoState x == 2 && bit (infoFlags x) 0 && !x.breach
    let s := onlyIf broken (fun t => nfcEvent 2 (sealRecord 0x0B x f (infoId x) t)) s
    let x := { x with breach := x.breach || broken }
    let s := onlyIf (bit (infoFlags x) 3) (nfcEvent 3) s
    if dOpc f.raw = 0x0401 then
      let y := { x with entries := x.entries ++ [slice x.ident 0 4 ++ le 1 x.typ ++ slice d 1 3 ++ slice d 4 8] }
      if scanRoom f ≤ y.entries.length then scanDone y f wr s else activateCard y true s
    else if infoMode x = 1 then
      if infoId x = sealId f then sealCommand x f s else activateCard x true s
    else if infoState x = 2 ∨ infoId x = sealId f then
      if noNonce s then endXchg x (failFate fDevice 0x20) s
      else
        let y := { x with rndP := random s 8 }
        sendApdu y .auth1 (apdu 0x30 y.rndP) (drew .lanes 8 s)
    else activateCard x true s

/-- The answer to AUTH1: MAC1 identifies the tag. -/
def auth1Answer (x : Xchg) (f : Flight) (d : Bytes) (sw : Nat) (s : State) : State :=
  let key := tagKey s x.op f
  let id := be 8 (sealId f)
  let rndT := slice d 0 8
  if sw = 0x9000 ∧ d.length = 16 ∧ (cmac key ([0x01] ++ x.rndP ++ rndT ++ id)).take 8 = slice d 8 8 then
    sendApdu { x with rndT := rndT } .auth2 (apdu 0x32 ((cmac key ([0x02] ++ rndT ++ x.rndP ++ id)).take 8)) s
  else if sw = 0x6983 then
    if infoState x = 1 then tagBlocked x s else activateCard x true (nfcEvent 3 s)
  else if sw = 0x6985 ∧ infoState x = 1 then endXchg x (failFate fPolicy 0x24) s
  else activateCard x true s

def auth2Answer (x : Xchg) (f : Flight) (sw : Nat) (s : State) : State :=
  if sw = 0x9000 then sealCommand { x with ks := aes (tagKey s x.op f) (x.rndP ++ x.rndT), ctr := 0 } f s
  else if sw = 0x6983 then tagBlocked x s
  else if sw = 0x6985 then endXchg x (failFate fPolicy 0x24) s
  else endXchg x (failFate fAuth 0x23) s

/-- The answer to the state-changing command: confirmed by 9000, with a valid CCM tag where one applies. -/
def changeAnswer (x : Xchg) (f : Flight) (d : Bytes) (sw : Nat) (s : State) : State :=
  let ins := if isOpenOp f then 0x42 else 0x40
  let plain := if infoMode x = 2 then ccmRead x ins d else some d
  if sw = 0x6983 then tagBlocked x s
  else if sw = 0x6985 then endXchg x (failFate fPolicy 0x24) s
  else match (if sw = 0x9000 then plain else none) with
    | some p =>
      if p.length = 5 then
        let st := if isOpenOp f then 1 else 2
        endXchg { x with outstanding := false }
          (done (beAt p 0 4 + 2 ^ 32 * st + 2 ^ 40 * byteAt p 4)) (sealRecord 0x09 x f (sealId f) (tryLog (.emitted 3 x.op) s))
      else cardLost x s
    | none => cardLost x s

/-- The SEAL_READ block (R372). -/
def sealBlock (x : Xchg) (f : Flight) (p : Bytes) : Bytes :=
  slice (be 8 (sealId f) ++ slice x.info 1 3 ++ slice p 0 5) 0 32 ++ slice p 5 (16 * min 8 (dLen f.raw / 16 - 2))

def logAnswer (x : Xchg) (f : Flight) (d : Bytes) (sw : Nat) (wr : Bool) (s : State) : State :=
  let plain := if infoMode x = 2 then ccmRead x 0x44 d else some d
  if sw = 0x6983 then tagBlocked x s
  else if sw = 0x6985 then endXchg x (failFate fPolicy 0x24) s
  else match (if sw = 0x9000 then plain else none) with
    | some p =>
      let s := dropXchg x.op (carrierOff (xRd x) true s)
      writeAndSettle x.op f 0 (sealBlock x f p) wr (done (min 8 (dLen f.raw / 16 - 2))) s
    | none => endXchg x (failFate fAuth 0x23) s

/-! ### Answers, waits and extensions -/

/-- The reader has no card, or no further one. -/
def noMoreCards (x : Xchg) (f : Flight) (wr : Bool) (s : State) : State :=
  if dOpc f.raw = 0x0400 then
    match x.readers.drop 1 with
    | [] => endXchg x (if x.failed then failFate fAuth 0x21 else failFate fAbsent 0x20) s
    | rest => activateCard { x with readers := rest } false (carrierOff (xRd x) true s)
  else if dOpc f.raw = 0x0401 then scanDone x f wr s
  else endXchg x (failFate fAbsent 0x22) s

/-- A card has been activated: the application of the operation is selected, a poll's driver-card AID first (R346). -/
def cardActive (x : Xchg) (f : Option Flight) (s : State) : State :=
  if f.any (fun f => dOpc f.raw != 0x0400) then sendApdu x .selectSeal (selectApdu sealAid) s
  else sendApdu x .selectDriver (selectApdu driverAid) s

/-- A response APDU, by the step that waits for it. -/
def apduAnswer (x : Xchg) (f : Flight) (d : Bytes) (sw : Nat) (wr : Bool) (s : State) : State :=
  match x.step with
  | .activate => s
  | .selectDriver =>
    if sw != 0x9000 then activateCard x true s
    else if noNonce s then endXchg x (failFate fDevice 0x20) s
    else
      let y := { x with chal := random s 32 }
      sendApdu y .cardAuth (apdu 0x60 y.chal) (drew .lanes 32 s)
  | .cardAuth => cardAnswer x f d sw wr s
  | .selectSeal => if sw = 0x9000 then sendApdu x .getInfo (apdu 0x10 []) s else activateCard x true s
  | .getInfo => infoAnswer x f d sw wr s
  | .auth1 => auth1Answer x f d sw s
  | .auth2 => auth2Answer x f sw s
  | .change => changeAnswer x f d sw s
  | .readLog => logAnswer x f d sw wr s

/-- A poll that detection started is over; the reading that led to one without a card is the new baseline (R345). -/
def pollOver (x : Xchg) (s : State) : State :=
  onlyIf (!x.found) (modReader (xRd x) (fun y => { y with base := some y.reading })) (dropXchg x.op (carrierOff (xRd x) true s))

/-- The outcome of a poll for one card, then the next card (R346). -/
def pollFound (x : Xchg) (isSeal : Bool) (s : State) : State :=
  activateCard { x with found := true } true (nfcEvent 1 (modNfc (fun b => { b with
    cardEvents := b.cardEvents ++ [(xRd x, { typ := x.typ, ident := x.ident, driver := x.driver, isSeal := isSeal })] }) s))

/-- The reader has no card, or no further one, for whoever searches it. -/
def searchOver (x : Xchg) (wr : Bool) (s : State) : State :=
  match getFlight s x.op with
  | some f => noMoreCards x f wr s
  | none =>
    if x.node.isSome then nodeAnswer x 0x01 [] (carrierOff (xRd x) false s) else if x.poll then pollOver x s else s

/-- A card is active at one of the four rates: 5 ms of guard run before the next activation (R342), and the first frame waits for SFGI. -/
def activated (x : Xchg) (rate : Nat) (s : State) : State :=
  let y := { x with rate := 2 ^ rate }
  let s := modReader (xRd x) (fun r => { r with guardAt := monoUs s + 5000 }) s
  if x.node.isSome then
    nodeAnswer y 0x00 (le 1 y.typ ++ le 1 y.ident.length ++ y.ident ++ y.ats) (modReader (xRd x) (fun r => { r with card := some y }) s)
  else cardActive y (getFlight s x.op) (onlyIf (1 ≤ x.sfgi && x.sfgi ≤ 14) (elapseNs (1000 * fwtUs x.sfgi)) s)

/-- One step of an activation on a reader of the part. -/
def actAnswer (x : Xchg) (resp : CardBlock) (wr : Bool) (s : State) : State :=
  match actNext ((x.limit).getD s.nfc.maxRate) x resp with
  | none => s
  | some (.send c a, y) => sendAct y c a s
  | some (.again c, y) => beginSearch y (emit (.cardCtl (xRd x) c) s)
  | some (.active r, y) => activated y r s
  | some (.over, y) => searchOver y wr s

/-- A block is missing or fails its CRC: R(NAK), or R(ACK) while the card chains its answer, at most twice, then the card counts as gone
(R349). -/
def blockMissing (x : Xchg) (s : State) : State :=
  if x.started + 1000 * ceilOf s x ≤ monoUs s then ceilingHit x s
  else if x.naks < 2 then
    putXchg { x with naks := x.naks + 1, waitEnd := waitUntil s x (fwtUs x.fwi) } (emit (.cardCtl (xRd x) (if x.acked then .ack else .nak)) s)
  else cardLost x s

/-- A draw the answer calls for would have to wait (R528). -/
def drawWaits (x : Xchg) (s : State) : Bool :=
  (x.step == .selectDriver || x.step == .getInfo) && !canDraw s && !noNonce s

/-- The whole answer to a command. In trailer role it goes to the tractor, and the card stays activated. -/
def wholeAnswer (x : Xchg) (d : Bytes) (sw : Nat) (wr : Bool) (s : State) : State :=
  match getFlight s x.op with
  | some f => apduAnswer x f d sw wr s
  | none =>
    if x.node.isSome then nodeAnswer x 0x00 (d ++ be 2 sw) s
    else if x.step == .selectDriver then sendApdu { x with driver := sw == 0x9000 } .selectSeal (selectApdu sealAid) s
    else pollFound x (sw == 0x9000) s

/-- A block of the exchange after the activation. -/
def exchangeBlock (x : Xchg) (resp : CardBlock) (wr : Bool) (s : State) : State :=
  match resp with
  | .ack => if x.out.isEmpty then blockMissing x s else sendBlock x x.out s
  | .more d =>
    putXchg { x with rx := x.rx ++ d, acked := true, naks := 0, waitEnd := waitUntil s x (fwtUs x.fwi) } (emit (.cardCtl (xRd x) .ack) s)
  | .apdu d sw => wholeAnswer { x with rx := [] } (x.rx ++ d) sw wr s
  | .noCard => cardLost x s
  | .bad => blockMissing x s
  | .atqa | .collision _ | .uid _ | .sak _ | .ats _ | .ppsOk | .atqb _ | .attribOk | .activated .. | .status _ => s

/-- What a trailer node answers for one of its readers (R424). -/
def remoteAnswer (x : Xchg) (f : Flight) (resp : CardBlock) (wr : Bool) (s : State) : State :=
  match resp with
  | .activated typ ident ats => if x.step == .activate then cardActive { x with typ := typ, ident := ident, ats := ats } (some f) s else s
  | .noCard => if x.step == .activate then noMoreCards x f wr s else cardLost x s
  | .apdu d sw => apduAnswer x f d sw wr s
  | .status n =>
    if n = 3 then ceilingHit x s else if n = 4 then endLost x (failFate fDevice 0x29) 0x28 s else cardLost x s
  | .atqa | .collision _ | .uid _ | .sak _ | .ats _ | .ppsOk | .atqb _ | .attribOk | .ack | .more _ | .bad => s

def execCardResponse (reader : Fin 64) (resp : CardBlock) (wr : Bool) (s : State) : Host.Outcome State Fault Refusal :=
  .next (match xchgOn s reader with
    | none => s
    | some x =>
      if drawWaits x s then s
      else if reader.val < 8 then (if x.step == .activate then actAnswer x resp wr s else exchangeBlock x resp wr s)
      else match getFlight s x.op with
        | some f => remoteAnswer x f resp wr s
        | none => s)

/-- S(WTX): a WTXM of 1 to 59 extends the wait of that block, within the ceiling; any other is no good block (R347, R348). -/
def execWtxRequest (reader : Fin 64) (wtxm : BitVec 8) (s : State) : Host.Outcome State Fault Refusal :=
  .next (match xchgOn s reader with
    | none => s
    | some x =>
      let m := wtxm.toNat
      if 8 ≤ reader.val ∨ x.step = .activate then s
      else if m = 0 ∨ 59 < m then blockMissing x s
      else
        let stop := monoUs s + min (m * fwtUs x.fwi) 4949000
        if x.started + 1000 * ceilOf s x < stop then elapseNs 5000000 (ceilingHit x s)
        else putXchg { x with waitEnd := stop } (emit (.cardCtl (xRd x) (.wtx m)) s))

def execFrameWaitExpiry (reader : Fin 64) (s : State) : Host.Outcome State Fault Refusal :=
  .next (match xchgOn s reader with
    | none => s
    | some x =>
      if 8 ≤ reader.val then s
      else
        let s := elapseTo x.waitEnd s
        if x.step == .activate then actAnswer x .noCard true s else blockMissing x s)

/-! ### Detection (R344–R346) -/

/-- What a burst finds of a coil: one that shows both faults counts as open (DESIGN CHOICE, log entry 56). -/
def coilOf (opened shorted : Bool) : Coil := if opened then .opened else if shorted then .shorted else .good

/-- NFC_RD_FAULT of a coil. -/
def coilFault : Coil → Nat
  | .good => 0 | .opened => 1 | .shorted => 2

/-- A reader leaves service. -/
def readerOut (k cause : Nat) (s : State) : State :=
  nfcEvent 0 (outOfService pNfc k 0x02 sDegraded cause
    (modReader k (fun x => { x with fault := cause, outAt := monoUs s }) (readerLost k s)))

/-- A reading differs from the baseline by more than 4 % in amplitude or by more than 3° in phase (R344). -/
def detuned (base reading : Int × Int) : Bool :=
  decide (4 * base.1.natAbs < 100 * (reading.1 - base.1).natAbs) || decide (30000000 < (reading.2 - base.2).natAbs)

/-- The baseline follows a reading that found no card: by at most 0.5 % of the amplitude in a minute, and of a turn in phase (DESIGN CHOICE, log
entry 107), over `us` µs. -/
def drift (us : Nat) (base reading : Int × Int) : Int × Int :=
  (toward base.1 reading.1 (base.1.natAbs * us / 12000000000), toward base.2 reading.2 (3 * us / 10))

/-- NFC_RD_DELTA: the change of amplitude in 0.1 %, saturated (log entry 56). -/
def detDelta (base reading : Int × Int) : Nat := min 255 (1000 * (reading.1 - base.1).natAbs / base.1.natAbs)

/-- Lets time pass to a reader's next detection burst. -/
def detTime (k : Nat) (s : State) : State :=
  match (getReader s k).detAt with
  | some t => elapseTo (t + 10000 * s.nfc.detPeriod) s
  | none => s

/-- A detection burst of an idle reader, NFC_DET_PERIOD after the last one: the amplitude, in units of the converter, and the phase, 0.1°, that it
finds, and whether the coil is open or shorted. The first burst gives the baseline; a change from it starts a poll (R344–R346). -/
def execNfcDetection (k : Fin 8) (amp : Nat) (phase : Int) (opened shorted : Bool) (s : State) : Host.Outcome State Fault Refusal :=
  .next (
    if nfcOn s && portUp s pNfc k && !readerBusy s k then
      let last := (getReader s k).detAt
      let s := detTime k s
      let s := emit (.cardCtl k .burst) s
      if opened || shorted then readerOut k (coilFault (coilOf opened shorted)) s
      else
        let v : Int × Int := (1000000 * (amp : Int), 1000000 * phase)
        let base := ((getReader s k).base).getD v
        let s := modReader k (fun x => { x with detAt := some (monoUs s), reading := v, delta := detDelta base v }) s
        if detuned base v then activateCard { op := 2 ^ 41 + k.val, poll := true, readers := [k.val] } false s
        else modReader k (fun x => { x with base := some (drift (monoUs s - last.getD (monoUs s)) base v) }) s
    else s)

/-- 10 s later the reader is tried again (R345). -/
def execReaderRetry (k : Fin 8) (coil : Coil) (s : State) : Host.Outcome State Fault Refusal :=
  .next (
    let x := getReader s k
    if nfcOn s && fitted s pNfc k && unitSt s pNfc k == .out && (x.fault == 1 || x.fault == 2) then
      let s := elapseTo (x.outAt + 10000000) s
      if coil = .good then backInService pNfc k (modReader k (fun x => { x with fault := 0 }) s)
      else modReader k (fun x => { x with fault := coilFault coil, outAt := monoUs s }) s
    else s)

/-! ### The NFC class (R371–R374) -/

/-- Readers an operation names: the tractor's by mask for CARD_AUTH, else the READER operand. -/
def namedReaders (f : Flight) : List Nat :=
  if dOpc f.raw = 0x0400 then (List.range 8).filter (fun k => bit (fieldLE f.raw 24 1) k) else [fieldLE f.raw 24 1]

/-- Starts an operation on its readers. -/
def nfcStart (opc r : Nat) (body : Flight → List Nat → State → State) (s : State) : State :=
  match getFlight s r with
  | none => s
  | some f =>
    if (namedReaders f).any (readerBusy s) then s
    else startOp opc r (fun f s =>
      if !(namedReaders f).all (unitThere s) then settle r (failFate fAbsent 0x2B) s
      else match (namedReaders f).filter (readerUp s) with
        | [] => if (namedReaders f).isEmpty then settle r (failFate fAbsent 0x20) s else settle r (failFate fDevice 0x29) s
        | up => body f up s) s

def execCardAuth (r : Nat) (s : State) : Host.Outcome State Fault Refusal :=
  .next (nfcStart 0x0400 r (fun _ up s => activateCard { op := r, readers := up } false s) s)

def execSealScan (r : Nat) (s : State) : Host.Outcome State Fault Refusal :=
  .next (nfcStart 0x0401 r (fun _ up s => activateCard { op := r, readers := up } false s) s)

/-- A seal operation: its key first (R373), and masked derivation must be possible (R506). -/
def sealStart (opc r : Nat) (s : State) : State :=
  if secReady s || noNonce s then
    nfcStart opc r (fun f up s =>
      match findHandle s r f.ten (fieldLE f.raw 40 8) with
      | .error _ => settle r (failFate fPolicy 0x2A) s
      | .ok k =>
        if !keyCurrent s k then settle r (failFate fDevice 0x18) s
        else if k.subtree != 0 then settle r (failFate fPolicy 0x2A) s
        else if noNonce s then settle r (failFate fDevice 0x20) s
        else activateCard { op := r, readers := up } false s) s
  else s

def execSealSecure (r : Nat) (s : State) : Host.Outcome State Fault Refusal := .next (sealStart 0x0402 r s)
def execSealOpen (r : Nat) (s : State) : Host.Outcome State Fault Refusal := .next (sealStart 0x0403 r s)
def execSealRead (r : Nat) (s : State) : Host.Outcome State Fault Refusal := .next (sealStart 0x0404 r s)

/-- CAP_EL_ST (R375). -/
def capElState (s : State) (e : Nat) : Nat :=
  if !fitted s pCap e then 0
  else if unitSt s pCap e != .up then 4
  else if (getEl s e).masked then 3
  else if (doorOfHandle s e).isSome then 1 else 2

def capReadBytes (s : State) : Bytes :=
  (List.range 48).flatMap (fun e => le 1 (capElState s e) ++ le 1 (ofBool (getEl s e).touched) ++ le 2 (getEl s e).delta)

def touchMask (s : State) : Nat := (List.range 48).foldl (fun a e => if (getEl s e).touched then a + 2 ^ e else a) 0

def execCapRead (r : Nat) (wr : Bool) (s : State) : Host.Outcome State Fault Refusal :=
  .next (startOp 0x0405 r (fun f s => writeAndSettle r f 0 (capReadBytes s) wr (done (touchMask s)) s) s)

end Sys2Proof.Machine
end

