-- ==== Sys2Proof/Machine/Writs.lean ====
section
/-! DEFINITION. Writs: their format and checks, the SETUP tables, how a writ takes effect and settles (R166–R185, R330,
R589). -/

namespace Sys2Proof.Machine

/-! ### The writ (R168–R170, R174) -/

def writBodyLen (w : Bytes) : Nat := beAt w 48 4
def writSigs (w : Bytes) : Nat := byteAt w 52
def writKind (w : Bytes) : Nat := beAt w 6 2
def writBase (w : Bytes) : Nat := beAt w 24 8
def writBody (w : Bytes) : Bytes := slice w 64 (writBodyLen w)
/-- Signature block `i`. -/
def sigBlock (w : Bytes) (i : Nat) : Bytes := slice w (64 + writBodyLen w + 256 * i) 256
def sigBlocks (w : Bytes) : List Bytes := (List.range (writSigs w)).map (sigBlock w)
/-- The public key of a block, without the zeros that fill its field (R166). -/
def sigKey (b : Bytes) : Bytes := slice b 4 (if byteAt b 1 = 1 then 97 else 32)

/-- The signatures a KIND needs (R170): none for no KIND, otherwise whether it is dual. -/
def kindDual (k : Nat) : Option Bool :=
  if k = 0x0001 ∨ k = 0x0011 ∨ k = 0x0012 then some true else if k = 0x0020 ∨ k = 0x0021 then some false else none

/-- A signature block is well formed (R174 step 2). -/
def sigBlockOk (b : Bytes) : Bool :=
  (byteAt b 0 == 1 || byteAt b 0 == 2) && (byteAt b 1 == 1 || byteAt b 1 == 2) && zeroAt b 2 2 && zeroAt b 101 3 &&
    zeroAt b 200 56 && (byteAt b 1 == 1 || (zeroAt b 36 65 && zeroAt b 168 32))

/-- Steps 1 and 2. -/
def writFormatOk (w : Bytes) (len : Nat) : Bool :=
  len == 64 + writBodyLen w + 256 * writSigs w && beAt w 0 4 == 0x57524954 && beAt w 4 2 == 1 &&
    (kindDual (writKind w)).isSome && (writSigs w == 1 || writSigs w == 2) && writBodyLen w % 4 == 0 && zeroAt w 53 3 &&
    (sigBlocks w).all sigBlockOk

/-- Step 4 (R175). -/
def writTimeOk (s : State) (w : Bytes) : Bool :=
  let a := beAt w 32 8
  let z := beAt w 40 8
  let now := wallUs s / 1000000
  (a == 0 && z == 0) || (s.clk.wallSet && decide (a ≤ now) && (z == 0 || decide (now ≤ z)))

/-- Step 5. -/
def writRolesOk (w : Bytes) : Bool :=
  let roles := (sigBlocks w).map (byteAt · 0)
  match kindDual (writKind w) with
  | some true => roles == [1, 2] || roles == [2, 1]
  | some false => roles == [1]
  | none => false

/-- Step 6 for one block. -/
def signerKnown (s : State) (b : Bytes) : Bool :=
  s.slc.wardens.any (fun x => x.role == byteAt b 0 && x.alg == byteAt b 1 && x.keyHash == sha256 (sigKey b))

/-- The engine's code on one block (step 7). -/
def sigCode (w b : Bytes) : Nat :=
  pkVerify (if byteAt b 1 = 1 then 2 else 3) (sigKey b) (slice b 104 (if byteAt b 1 = 1 then 96 else 64))
    (slice w 0 (64 + writBodyLen w)) false

/-- Steps 1 to 6 (R184): 0, or the fate and DETAIL of the first that fails. -/
def writStatic (s : State) (w : Bytes) (len : Nat) : Option (Nat × Nat) :=
  if !writFormatOk w len then some (fMalformed, 0x20)
  else if slice w 8 16 != uidBytes s then some (fPolicy, 0x21)
  else if !writTimeOk s w then some (fPolicy, 0x22)
  else if !writRolesOk w then some (fAuth, 0x23)
  else if !hashUp s then some (fDevice, 0x19)
  else if !(sigBlocks w).all (signerKnown s) then some (fAuth, 0x24)
  else if !pkeUp s then some (fDevice, 0x19)
  else none

/-- Step 7: the signatures in order up to the first that fails. -/
def writSigned (w : Bytes) : List Bytes → State → Bool × State
  | [], s => (true, s)
  | b :: rest, s =>
    let c := sigCode w b
    if c = 0 then writSigned w rest (pkeRan c s) else (false, pkeRan c s)

/-! ### SETUP bodies (R171–R173) -/

/-- The tables a SETUP writ would leave. -/
structure Setup where
  tens : Tab Tenancy
  vecs : Tab Nat
  wardens : List Warden
  dorm : Option Nat

/-- LENGTH of a record by TYPE. -/
def setupLen (ty : Nat) : Option Nat :=
  if ty = 1 ∨ ty = 5 then some 8 else if ty = 2 then some 64 else if ty = 3 then some 32 else if ty = 4 then some 40
  else if ty = 6 then some 48 else none

/-- Cuts a body into its records; none where a record has a wrong LENGTH or an unknown TYPE. -/
def setupRecs : Nat → Bytes → Option (List Bytes)
  | 0, b => if b.isEmpty then some [] else none
  | n + 1, b =>
    if b.isEmpty then some []
    else
      let len := beAt b 2 2
      if setupLen (beAt b 0 2) = some len ∧ len ≤ b.length then (setupRecs n (b.drop len)).map (b.take len :: ·) else none

/-- What a record sets: two records of one writ never set the same (R173). -/
def setupKey (r : Bytes) : Nat × Nat × Nat :=
  let ty := beAt r 0 2
  (ty, if ty = 1 ∨ ty = 6 then byteAt r 4 else if ty = 5 then 0 else beAt r 4 2, if ty = 3 then byteAt r 6 else 0)

/-- The row of a TENANCY record (R149). -/
def tenancyOf (r : Bytes) (old : Option Tenancy) : Tenancy :=
  { func := byteAt r 6, party := byteAt r 7, ringBase := beAt r 8 2, ringCount := byteAt r 10, weight := byteAt r 11,
    classMask := BitVec.ofNat 16 (beAt r 12 2) ||| 2, nsRead := BitVec.ofNat 16 (beAt r 14 2),
    nsWrite := BitVec.ofNat 16 (beAt r 16 2), label := slice r 32 32,
    culverts := (old.map (·.culverts)).getD [], weir := (old.map (·.weir)).getD {} }

def tenancyOk (r : Bytes) : Bool :=
  if byteAt r 6 = 0x7F then zeroAt r 7 57
  else
    decide (byteAt r 6 < 64) && decide (byteAt r 7 ≤ 7) && decide (1 ≤ byteAt r 10) && decide (byteAt r 10 ≤ 64) &&
      decide (beAt r 8 2 + byteAt r 10 ≤ 4096) && byteAt r 11 != 0 && !bit (beAt r 12 2) 0 && zeroAt r 18 14

/-- The weir of a WEIR record (R156). -/
def weirOf (r : Bytes) : Weir :=
  { rate := beAt r 8 4, burst := beAt r 12 4, byteRate := beAt r 16 4, inflightMax := beAt r 20 4,
    custodyQuota := beAt r 24 4, handleQuota := beAt r 28 4, dirQuota := beAt r 32 4 }

def withinBounds (lo hi v : Nat) : Bool := decide (lo ≤ v) && decide (v ≤ hi)

def weirOk (r : Bytes) : Bool :=
  let w := weirOf r
  zeroAt r 6 2 && zeroAt r 36 4 && withinBounds 1 4000000 w.rate && withinBounds 1 65536 w.burst && withinBounds 1 4194304 w.byteRate &&
    withinBounds 1 65536 w.inflightMax && decide (w.custodyQuota ≤ 262144) && decide (w.handleQuota ≤ 65536) &&
    decide (w.dirQuota ≤ 8388608)

/-- The culvert of a CULVERT record (R152); RIGHTS 0 removes it. -/
def culvertOf (r : Bytes) : Culvert :=
  if byteAt r 7 = 0 then {} else { base := beAt r 8 8, size := beAt r 16 8, rights := BitVec.ofNat 3 (byteAt r 7) }

/-- A CULVERT record in range. One that would reach beyond the 2^64 B of an address is refused too (DESIGN CHOICE, log entry 36). -/
def culvertOk (r : Bytes) : Bool :=
  decide (byteAt r 6 < 16) && decide (byteAt r 7 < 8) && zeroAt r 24 8 &&
    (byteAt r 7 == 0 || (beAt r 8 8 % 4096 == 0 && beAt r 16 8 % 4096 == 0 && withinBounds 4096 (2 ^ 48) (beAt r 16 8) &&
      decide (beAt r 8 8 + beAt r 16 8 ≤ 2 ^ 64)))

/-- One record applied to the tables; none where it is out of range. -/
def setupStep (s : State) (st : Setup) (r : Bytes) : Option Setup :=
  let ty := beAt r 0 2
  let t := beAt r 4 2
  if ty = 1 then
    if byteAt r 4 < 64 ∧ byteAt r 5 = 0 ∧ beAt r 6 2 ≤ 2048 then
      some { st with vecs := tabSet 0 st.vecs (byteAt r 4) (beAt r 6 2) }
    else none
  else if ty = 2 then
    if t < s.fuse.tenCeil ∧ tenancyOk r then
      if byteAt r 6 = 0x7F then some { st with tens := tabErase st.tens t }
      else some { st with tens := tabPut st.tens t (tenancyOf r (tabFind st.tens t)) }
    else none
  else if ty = 3 then
    match tabFind st.tens t with
    | some row =>
      if culvertOk r then
        some { st with tens := tabPut st.tens t { row with culverts := tabSet {} row.culverts (byteAt r 6) (culvertOf r) } }
      else none
    | none => none
  else if ty = 4 then
    match tabFind st.tens t with
    | some row => if weirOk r then some { st with tens := tabPut st.tens t { row with weir := weirOf r } } else none
    | none => none
  else if ty = 5 then
    if withinBounds 7 84 (byteAt r 4) ∧ zeroAt r 5 3 then some { st with dorm := some (byteAt r 4) } else none
  else if byteAt r 4 < 8 ∧ byteAt r 5 ≤ 2 ∧ zeroAt r 7 1 ∧ zeroAt r 40 8 ∧ byteAt r 6 ≤ 2 ∧ (byteAt r 5 = 0 ∨ byteAt r 6 ≠ 0) then
    some { st with wardens := modAt st.wardens (byteAt r 4) (fun _ =>
      if byteAt r 5 = 0 then {} else { role := byteAt r 5, alg := byteAt r 6, keyHash := slice r 8 32 }) }
  else none

/-- All records applied: tenancies and slots first, then culverts and weirs. -/
def setupApply (s : State) (rs : List Bytes) : Option Setup :=
  let late := fun (r : Bytes) => beAt r 0 2 == 3 || beAt r 0 2 == 4
  (rs.filter (fun r => !late r) ++ rs.filter late).foldl (fun st r => st.bind (fun x => setupStep s x r))
    (some { tens := s.slc.tens, vecs := s.slc.vecs, wardens := s.slc.wardens, dorm := none })

def ringsOf (t : Tenancy) : List Nat := (List.range t.ringCount).map (· + t.ringBase)

/-- A writ removes the tenancy of a row, rebinds it or gives it another ring range (R179). -/
def moved (st : Setup) (t : Nat) (old : Tenancy) : Bool :=
  match tabFind st.tens t with
  | none => true
  | some n => n.func != old.func || n.ringBase != old.ringBase || n.ringCount != old.ringCount

/-- Two ring ranges share no ring. -/
def apart (a b : Tenancy) : Bool :=
  decide (a.ringBase + a.ringCount ≤ b.ringBase) || decide (b.ringBase + b.ringCount ≤ a.ringBase)

/-- The rings freed of one tenancy go to no other (R173). -/
def freedApart (st : Setup) (t : Nat) (old : Tenancy) : Bool :=
  !moved st t old || (ringsOf old).all (fun g => st.tens.all (fun e => e.1 == t ||
    !(decide (e.2.ringBase ≤ g) && decide (g < e.2.ringBase + e.2.ringCount))) ||
      (match tabFind st.tens t with
       | some n => decide (n.ringBase ≤ g) && decide (g < n.ringBase + n.ringCount)
       | none => false))

/-- The memory a ring occupies (R105): Headrace, Tailrace, write-back block. -/
def ringMemory (u : RingSetup) : List (Nat × Nat) :=
  [(u.hrBase.toNat, 64 * 2 ^ u.hrLog.toNat), (u.trBase.toNat, 32 * 2 ^ u.trLog.toNat), (u.ciwb.toNat, 16)]

/-- No ring that is not DISABLED loses the RING right over memory it occupies (R173); one that an earlier writ left DRAINING without
the right has none to lose. -/
def ringsKept (s : State) (st : Setup) (t : Nat) (old : Tenancy) : Bool :=
  moved st t old || (match tabFind st.tens t with
    | some n => (ringsOf old).all (fun g =>
        let rg := getRing s g
        rg.st == .disabled || rg.owner != t || (ringMemory rg.inForce).all (fun m =>
          !insideCulvert old 4 m.1 m.2 || insideCulvert n 4 m.1 m.2))
    | none => true)

/-- VECS changes only with every ring of every tenancy of the function DISABLED (R173). -/
def vecsQuiet (s : State) (st : Setup) (func : Nat) : Bool :=
  tabGet 0 st.vecs func == vecsOf s func ||
    s.slc.tens.all (fun e => e.2.func != func || (ringsOf e.2).all (fun g => (getRing s g).st == .disabled))

/-- The tables that would result break none of the conditions of R173. -/
def setupOk (s : State) (st : Setup) : Bool :=
  decide ((st.vecs.map (·.2)).sum ≤ 2048) &&
    st.tens.all (fun a => st.tens.all (fun b => a.1 == b.1 || apart a.2 b.2)) &&
    st.wardens.any (fun x => x.role == 1) && st.wardens.any (fun x => x.role == 2) &&
    s.slc.tens.all (fun e => freedApart st e.1 e.2 && ringsKept s st e.1 e.2) &&
    (List.range 64).all (vecsQuiet s st)

/-- No element occurs twice. -/
def noRepeat {α : Type} [DecidableEq α] : List α → Bool
  | [] => true
  | x :: rest => !rest.contains x && noRepeat rest

/-- What a SETUP body leads to; none for BODY_INVALID. -/
def setupOf (s : State) (body : Bytes) : Option Setup :=
  match setupRecs (body.length + 1) body with
  | none => none
  | some rs =>
    if noRepeat (rs.map setupKey) then (setupApply s rs).filter (setupOk s) else none

/-- The tenancies a writ changes (R181). -/
def affectedBy (s : State) (st : Setup) : List Nat :=
  (List.range 1024).filter (fun t => tabFind s.slc.tens t != tabFind st.tens t)

/-- The rings a writ moves to DRAINING (R179); R173 leaves no other ring that loses its memory. -/
def drainedBy (s : State) (st : Setup) : List Nat :=
  (s.slc.tens.filter (fun e => moved st e.1 e.2)).flatMap (fun e => (ringsOf e.2).filter (fun g =>
    (getRing s g).st == .running || (getRing s g).st == .stopped))

/-- Tenancies whose handles a writ closes (R498). -/
def closedBy (s : State) (st : Setup) : List Nat :=
  (s.slc.tens.filter (fun e => match tabFind st.tens e.1 with
    | some n => n.label != e.2.label
    | none => true)).map (·.1)

/-- A function whose SLC_SEL names a tenancy or culvert that a writ removes (R610). -/
def markGone (st : Setup) (s : State) : State :=
  each (List.range 64) (fun n x =>
    let t := (getFunc s n).slcTen.toNat
    let c := (getFunc s n).slcCulv.toNat
    let new := tabGet ({} : Tenancy) st.tens t
    let had := (getTen s t).func != 0x7F && new.func == 0x7F
    let hadCulv := (tabGet ({} : Culvert) (getTen s t).culverts c).rights != 0 && (tabGet ({} : Culvert) new.culverts c).rights == 0
    onlyIf (had || hadCulv) (modFunc n (fun f => { f with slcGone := true })) x) s

/-- Puts the tables in force. Vectors beyond a smaller VECS are gone with what they held. The buckets fill at the old rates up to
here (R159). A tenancy's running figures (finish tag, buckets, quota charges) stay under its number, also where it is removed and
later created anew (DESIGN CHOICE, log entry 36). -/
def installSetup (st : Setup) (s : State) : State :=
  let drained := drainedBy s st
  let closed := closedBy s st
  let s := markGone st (settleBuckets s)
  let s := modSlc (fun b => { b with tens := st.tens, vecs := st.vecs, wardens := st.wardens }) s
  let s := modHost (fun h => { h with vecs := h.vecs.filter (fun e => decide (e.1 % 2048 < tabGet 0 st.vecs (e.1 / 2048))) }) s
  let s := modPwr (fun p => { p with dormDays := st.dorm.getD p.dormDays }) s
  each drained drainRing (each closed closeHandlesOf s)

/-! ### START_POLICY bodies (R329, R330) -/

def parsePolicy (b : Bytes) : StartPolicy :=
  { id := beAt b 0 4, lockHold := beAt b 4 2, releaseWin := beAt b 6 2, armHold := beAt b 8 2, reqCard := byteAt b 10 == 1,
    cardReaders := BitVec.ofNat 8 (byteAt b 11), cardNs := BitVec.ofNat 16 (beAt b 12 2),
    tokenNs := BitVec.ofNat 16 (beAt b 14 2), autoLock := byteAt b 16 == 1, framePort := byteAt b 17,
    frameAlt := byteAt b 18, bodyPort := byteAt b 19, stateId := BitVec.ofNat 32 (beAt b 20 4),
    bodyId := BitVec.ofNat 32 (beAt b 24 4), periodMs := beAt b 28 2, keyLabel := slice b 32 32, rsPort := byteAt b 64,
    rsByte := byteAt b 65, rsLen := byteAt b 66, rsId := BitVec.ofNat 32 (beAt b 68 4), rsScale := beAt b 72 2,
    esPort := byteAt b 74, esByte := byteAt b 75, esLen := byteAt b 76, esScale := beAt b 78 2,
    esId := BitVec.ofNat 32 (beAt b 80 4) }

/-- A port field: 0xFF, or a fitted CAN port. -/
def policyPort (s : State) (p : Nat) : Bool := p == 0xFF || (decide (p ≤ 5) && fitted s pCan p)

/-- An identifier field: reserved bits 0, a standard identifier of 11 bits. -/
def identOk (v : BitVec 32) : Bool :=
  !v.getLsbD 30 && !v.getLsbD 29 && (v.getLsbD 31 || decide (v.toNat ≤ 0x7FF))

def signalOk (off len scale : Nat) : Bool := decide (off ≤ 63) && (len == 8 || len == 16) && decide (1 ≤ scale)

def policyOk (s : State) (b : Bytes) : Bool :=
  let p := parsePolicy b
  b.length == 96 && withinBounds 5 120 p.lockHold && withinBounds 10 300 p.releaseWin && withinBounds 5 300 p.armHold &&
    decide (byteAt b 10 ≤ 1) && decide (byteAt b 16 ≤ 1) && withinBounds 20 1000 p.periodMs && zeroAt b 30 2 && zeroAt b 67 1 &&
    zeroAt b 77 1 && zeroAt b 84 12 && signalOk p.rsByte p.rsLen p.rsScale && signalOk p.esByte p.esLen p.esScale &&
    [p.framePort, p.frameAlt, p.bodyPort, p.rsPort, p.esPort].all (policyPort s) &&
    [p.stateId, p.bodyId, p.rsId, p.esId].all identOk &&
    (List.range 8).all (fun i => !p.cardReaders.getLsbD i || fitted s pNfc i) &&
    (p.frameAlt == 0xFF || (p.frameAlt != p.framePort && p.frameAlt != p.bodyPort)) &&
    (!p.reqCard || (p.cardReaders != 0 && p.cardNs != 0)) &&
    ((p.framePort == 0xFF && p.frameAlt == 0xFF && p.bodyPort == 0xFF) || p.keyLabel != zeros 32)

/-! ### DEBUG_UNLOCK bodies (R589) -/

def debugOk (s : State) (b : Bytes) : Bool :=
  b.length == 16 && !s.fuse.dbgPerm && decide (byteAt b 0 ≤ 2) && zeroAt b 1 3 && withinBounds 60 86400 (beAt b 4 4) && zeroAt b 8 8 &&
    (byteAt b 0 != 2 || ((s.pwr.mode == .cab || s.pwr.mode == .service) && !isRelease (latch s) && atRest s))

/-- Opens or closes the debug port (R590). A HALT opened in Cab counts as a Service period that has passed (R592). -/
def applyDebug (b : Bytes) (s : State) : State :=
  let lvl := byteAt b 0
  if lvl = 0 then closeDebug s
  else onlyIf (lvl == 2) (enterService (monoUs s))
    (modFlt (fun x => { x with dbgLevel := lvl, dbgEnd := monoUs s + 1000000 * beAt b 4 4 }) s)

/-! ### WRIT_APPLY, WRIT_CHECK, WRIT_SETTLE, WRIT_STATUS (R174–R185) -/

/-- Step 9: the body is valid. -/
def writBodyOk (s : State) (w : Bytes) : Bool :=
  let k := writKind w
  if k = 0x0001 then (setupOf s (writBody w)).isSome
  else if k = 0x0011 then debugOk s (writBody w)
  else if k = 0x0012 then policyOk s (writBody w)
  else if k = 0x0020 then zonesOk s (writBody w)
  else furrowOk (writBody w)

/-- A start policy comes into force; a new FRAME_KEY_LABEL starts both FRESH counts anew (R326). -/
def newPolicy (p : StartPolicy) (x : Slk) : Slk :=
  let same := p.keyLabel == x.policy.keyLabel
  { x with policy := p, freshState := if same then x.freshState else 0, freshBody := if same then x.freshBody else 0 }

/-- What the body of a valid writ does at its ledger record. -/
def writEffect (w : Bytes) (s : State) : State :=
  let k := writKind w
  let b := writBody w
  if k = 0x0001 then (match setupOf s b with | some st => installSetup st s | none => s)
  else if k = 0x0011 then applyDebug b s
  else if k = 0x0012 then flagsCheck (modSlk (newPolicy (parsePolicy b)) s)
  else if k = 0x0020 then modRadio (fun x => { x with zones := some (parseZones b) }) s
  else lockWatch (modClk (fun x => { x with table := parseFurrow b }) s)

/-- What the writ waits for before it settles. -/
def settlingOf (r : Nat) (w : Bytes) (s : State) : Settling :=
  let st := if writKind w = 0x0001 then setupOf s (writBody w) else none
  { op := r, tens := (st.map (affectedBy s)).getD [], upTo := s.host.flights.length,
    rings := ((st.map (drainedBy s)).getD []).map (fun g => (g, (getRing s g).era)), epoch := s.slc.epoch + 1 }

/-- The fate of a WRIT descriptor that takes no effect. -/
def writFail (r : Nat) (fr : FateRec) (s : State) : State := settle r { fr with degraded := hashDegraded s } s

/-- Steps 1 to 9 of R174; `body` is what a writ that passes all of them leads to. -/
def writRun (r : Nat) (rd : HostRead) (f : Flight) (body : Bytes → State → State) (s : State) : State :=
  match readBytes rd (dLen f.raw) with
  | none => writFail r (failFate fCulvert 0x11) s
  | some w =>
    match writStatic s w (dLen f.raw) with
    | some (code, detail) => writFail r (failFate code detail) s
    | none =>
      let (good, s) := writSigned w (sigBlocks w) s
      if !good then writFail r (failFate fAuth 0x25) s
      else
        let s := atStage r 0x01 0 s
        if writBase w != s.slc.epoch then writFail r (failFate fPolicy 0x26 0x01) s
        else if !writBodyOk s w then writFail r (failFate fPolicy 0x27 0x01) s
        else body w s

/-- The part record that carries a writ (R176, R448). -/
def writPart (w : Bytes) (s : State) : PartRec := { stampPart { kind := 0x0F, extra := w } s with epoch := s.slc.epoch + 1 }

/-- The ledger takes the writ's record and its part record. -/
def canLogWrit (w : Bytes) (s : State) : Bool :=
  ledgerUp s && decide (s.led.used + recRoom (.writ 0) + recRoom (.part (writPart w s)) ≤ logUnits)

/-- The writ's ledger record: the epoch advances, the body takes effect, and the descriptor waits to settle (R176). -/
def writCommit (r : Nat) (w : Bytes) (s : State) : State :=
  let e := s.slc.epoch + 1
  let wait := settlingOf r w s
  let s := logRec (.part (writPart w s)) (logRec (.writ e) s)
  let s := modSlc (fun b => { b with epoch := e, settling := b.settling ++ [wait] }) s
  atStage r 0x02 1 (writEffect w s)

/-- Steps 8 and 9 come before the check of R177, so that of two failures theirs is reported (DESIGN CHOICE, log entry 36). -/
def execWritApply (r : Nat) (rd : HostRead) (s : State) : Host.Outcome State Fault Refusal :=
  .next (startOp 0x0D00 r (fun f s =>
    writRun r rd f (fun w s =>
      if !commitHolds f true s then writFail r (failFate fWithdrawn 0x0B 0x01) s
      else if !canLogWrit w s then writFail r (failFate fDevice 0x1A 0x01) s
      else writCommit r w s) s) s)

def execWritCheck (r : Nat) (rd : HostRead) (s : State) : Host.Outcome State Fault Refusal :=
  .next (startOp 0x0D01 r (fun f s =>
    writRun r rd f (fun _ s => settle r { done 0 with degraded := hashDegraded s } s) s) s)

/-- What an applied writ still waits for: descriptors of affected tenancies admitted before it, but for itself, later ones
of its own ring and earlier writs that have taken effect; and rings it moved to DRAINING, but for its own (R181). -/
def writWaits (s : State) (x : Settling) (own : Flight) : Bool :=
  ((List.range x.upTo).zip s.host.flights).any (fun e =>
      e.2.fate.isNone && x.tens.contains e.2.ten && e.1 != x.op && !(e.2.ring == own.ring && decide (x.op < e.1)) &&
        !s.slc.settling.any (fun y => y.op == e.1 && decide (y.epoch < x.epoch))) ||
    x.rings.any (fun g => g.1 != own.ring && (getRing s g.1).st != .disabled && (getRing s g.1).era == g.2)

def execWritSettle (r : Nat) (s : State) : Host.Outcome State Fault Refusal :=
  .next (onOp 0x0D00 r (fun f s =>
    match s.slc.settling.find? (fun x => x.op == r) with
    | some x =>
      if writWaits s x f then s
      else
        settle r { done (x.epoch % 2 ^ 48 + 2 ^ 48 * min 255 x.rings.length) with
                   stale := s.slc.epoch != x.epoch, degraded := hashDegraded s }
          (modSlc (fun b => { b with settling := b.settling.filter (fun y => y.op != r) }) s)
    | none => s) s)

/-- The 128 B of WRIT_STATUS (R185). -/
def writStatusBytes (s : State) (ten : Nat) : Bytes :=
  le 8 s.slc.epoch ++ le 2 ten ++ le 1 (ofBool s.clk.wallSet) ++ zeros 5 ++
    s.slc.wardens.flatMap (fun x => le 1 x.role ++ le 1 x.alg ++ zeros 2 ++ slice x.keyHash 0 8) ++ zeros 16

def execWritStatus (r : Nat) (wr : Bool) (s : State) : Host.Outcome State Fault Refusal :=
  .next (startOp 0x0D02 r (fun f s => writeAndSettle r f 0 (writStatusBytes s f.ten) wr (done 0) s) s)

end Sys2Proof.Machine
end

