-- ==== Sys2Proof/Machine/UpdOps.lean ====
section
/-! DEFINITION. The CFG flash: the slot-state journal, images and their checks, configuration records, and the transport of
images along the chain (R539–R559). -/

namespace Sys2Proof.Machine

/-! ### The journal and the slots (R540, R541) -/

def slotCode : SlotSt → Nat
  | .empty => 0 | .staging => 1 | .staged => 2 | .scheduled => 3 | .trial => 4 | .active => 5 | .standby => 6 | .bad => 7

/-- Slot A (false) or B (true). -/
def getSlot (s : State) (b : Bool) : Slot := if b then s.upd.b else s.upd.a
def withSlot (b : Bool) (f : Slot → Slot) (u : Upd) : Upd := if b then { u with b := f u.b } else { u with a := f u.a }

/-- Writes a journal entry: its ENTRY_SEQ is one more than the last. -/
def journal (f : Upd → Upd) : State → State := modUpd (fun u => { f u with seq := u.seq + 1 })

/-- A journal entry that gives a slot a state. -/
def slotState (b : Bool) (st : SlotSt) : State → State := journal (withSlot b (fun x => { x with st := st }))

/-- Writes a block of a slot. -/
def putBlock (b : Bool) (i : Nat) (data : Bytes) : State → State :=
  modUpd (withSlot b (fun x => { x with blocks := tabPut x.blocks i data }))

/-- The slot a STAGE targets: the one BOOT does not name (R548). -/
def updTarget (s : State) : Bool := !s.upd.boot

def updEvent (i : Nat) : State → State := modUpd (fun u => { u with events := setBits u.events i })

/-- The entry in force as stored. -/
def journalBytes (u : Upd) : Bytes :=
  let e := be 8 u.seq ++ be 1 (slotCode u.a.st) ++ be 1 (slotCode u.b.st) ++ be 1 (ofBool u.boot) ++ be 1 u.tries ++
    be 4 u.a.ver ++ be 4 u.b.ver ++ be 4 u.secFloor ++ be 8 u.actAt ++ be 8 u.actLsn ++ be 8 u.a.headId ++ be 8 u.b.headId ++
    zeros 4
  e ++ be 4 (crc32 e)

/-- SEC_FLOOR: the greater of the ledger's and the journal's (R556). -/
def secFloor (s : State) : Nat := max s.upd.secFloor s.upd.ledgerFloor

/-! ### Images (R543, R544) -/

def hVer (h : Bytes) : Nat := beAt h 8 4
def hSecVer (h : Bytes) : Nat := beAt h 12 4
def hFmt (h : Bytes) : Nat := beAt h 20 2
def hOldest (h : Bytes) : Nat := beAt h 22 2
def hPayload (h : Bytes) : Nat := beAt h 24 4
def hChunks (h : Bytes) : Nat := beAt h 28 2
/-- What the signature covers, and the signature block. -/
def hSigned (h : Bytes) : Bytes := slice h 0 (384 + 48 * hChunks h)
def hSig (h : Bytes) : Bytes := slice h (384 + 48 * hChunks h) 256
def hChunkHash (h : Bytes) (c : Nat) : Bytes := slice h (384 + 48 * c) 48
/-- HEAD_ID. -/
def headIdOf (h : Bytes) : Nat := beAt (sha384 h) 0 8
/-- Length of chunk `c`. -/
def chunkLen (h : Bytes) (c : Nat) : Nat := min 65536 (hPayload h - 65536 * c)

/-- The component entries in use: TYPE, OFFSET, LENGTH. -/
def components (h : Bytes) : List (Nat × Nat × Nat) :=
  ((List.range 8).map (fun i => (byteAt h (256 + 16 * i), beAt h (260 + 16 * i) 4, beAt h (264 + 16 * i) 4))).filter (·.1 != 0)

/-- The component rules of R543. -/
def componentsOk (h : Bytes) : Bool :=
  let cs := components h
  let only := fun (t : Nat) => (cs.filter (fun c => c.1 == t)).length == 1
  let idx := (List.range cs.length).zip cs
  cs.length == beAt h 30 2 && only 1 && only 2 && only 4 &&
    cs.all (fun c => decide (c.1 ≤ 4) && c.2.1 % 65536 == 0 && decide (c.2.1 + c.2.2 ≤ hPayload h) &&
      (c.1 != 1 || (c.2.1 == 0 && decide (c.2.2 ≤ 1048576)))) &&
    idx.all (fun x => idx.all (fun y => x.1 == y.1 || decide (x.2.2.1 + x.2.2.2 ≤ y.2.2.1) || decide (y.2.2.1 + y.2.2.2 ≤ x.2.2.1)))

/-- Check 1 of R545. -/
def headFormatOk (h : Bytes) : Bool :=
  let n := hChunks h
  h.length == 65536 && beAt h 0 4 == 0x4D465354 && beAt h 4 2 == 1 && beAt h 6 2 == 0x3200 && decide (hOldest h ≤ hFmt h) &&
    decide (1 ≤ hPayload h) && decide (hPayload h ≤ 14614528) && n == ceilDiv (hPayload h) 65536 &&
    decide (2 ≤ beAt h 30 2) && decide (beAt h 30 2 ≤ 8) && zeroAt h 192 64 &&
    (List.range 8).all (fun i => zeroAt h (257 + 16 * i) 3 && zeroAt h (268 + 16 * i) 4) && componentsOk h &&
    zeroAt (hSig h) 2 2 && zeroAt (hSig h) 101 3 && zeroAt (hSig h) 200 56 && zeroAt h (640 + 48 * n) (65536 - (640 + 48 * n))

/-- SYS_ID of revision B1 (R13). -/
def sysId : Nat := 0x320000B1

/-- Checks 1 to 5 of R545: the DETAIL of the first that fails. -/
def bootCheck (s : State) (h : Bytes) : Option Nat :=
  let sg := hSig h
  if !headFormatOk h then some 0x20
  else if byteAt sg 0 != 3 || byteAt sg 1 != 1 || !s.fuse.vendors.contains (sha256 (slice sg 4 97)) then some 0x21
  else if pkVerify 2 (slice sg 4 97) (slice sg 104 96) (hSigned h) false != 0 then some 0x22
  else if sysId < beAt h 16 4 then some 0x23
  else if hSecVer h < secFloor s then some 0x24
  else none

/-- The image key, when KEY_BLOB unwraps under the family key (R504, R544). -/
def imageKey (s : State) (h : Bytes) : Option Bytes :=
  let blob := slice h 88 104
  if blobOk blob 104 && byteAt blob 5 == 2 && byteAt blob 6 == 32 && byteAt blob 7 == 2 && zeroAt blob 8 1 && zeroAt blob 16 16 then
    let z := x25519 s.fuse.family (slice blob 32 32)
    if z = zeros 32 then none
    else (keyUnwrap (kekOfZ z (slice blob 0 64)) (slice blob 64 40)).filter (fun k => k.length == 32)
  else none

/-- A chunk matches its CHUNK_HASH. -/
def chunkOk (h : Bytes) (c : Nat) (data : Bytes) : Bool := data.length == chunkLen h c && sha384 data == hChunkHash h c

/-- A chunk of a slot as its flash reads. -/
def slotChunk (x : Slot) (c : Nat) : Bytes := (tabFind x.blocks (c + 1)).getD []
def slotHead (x : Slot) : Bytes := (tabFind x.blocks 0).getD []
/-- The encrypted payload a slot holds. -/
def slotPayload (x : Slot) : Bytes := (List.range (hChunks (slotHead x))).flatMap (slotChunk x)

/-- Check 8 on the flash contents. -/
def payloadOk (x : Slot) : Bool :=
  let h := slotHead x
  (List.range (hChunks h)).all (fun c => chunkOk h c (slotChunk x c)) && sha384 (slotPayload x) == slice h 40 48

/-- Verification at start-up: checks 1 to 5 and 7, and the chunks of the SILL (R542, R545). -/
def bootable (s : State) (b : Bool) : Bool :=
  let x := getSlot s b
  let h := slotHead x
  let sill := (((components h).find? (fun c => c.1 == 1)).map (·.2.2)).getD 0
  (bootCheck s h).isNone && (imageKey s h).isSome && (List.range (ceilDiv sill 65536)).all (fun c => chunkOk h c (slotChunk x c))

/-- The fate a DETAIL of R564 goes with. -/
def updFate (d : Nat) : FateRec :=
  failFate (if d = 0x20 ∨ d = 0x2D then fMalformed else if d = 0x21 ∨ d = 0x22 ∨ d = 0x26 ∨ d = 0x27 then fAuth
    else if d = 0x29 ∨ d = 0x2E then fAbsent else if d = 0x2B then fDevice else fPolicy) d

/-! ### Configuration records (R557, R558) -/

def cfgTypeOf : CfgBody → Nat
  | .board _ => 1 | .power _ => 2 | .lf _ => 3 | .uhf _ => 4 | .ifl _ => 5 | .custody _ => 6 | .cap _ => 7 | .role _ => 8

/-- The rules of R102 on a power record. -/
def powerOk (p : PowerRec) : Bool :=
  p.pins.length == 4 && p.pins.all (fun x => x.role != 3 && decide (10 ≤ x.thresh.toNat) && decide (x.thresh.toNat ≤ 190))

/-- A body meets the rules of its own chapter, beside the board record in force. -/
def cfgBodyOk (b : Option BoardRec) : CfgBody → Bool
  | .board x => boardOk x
  | .power x => powerOk x
  | .lf x => b.any (fun y => lfRecOk y x)
  | .uhf x => b.any (fun y => uhfRecOk y x)
  | .ifl x => b.any (fun y => iflRecOk y x)
  | .custody x => custodyOk x
  | .cap x => capRecOk x
  | .role _ => true

/-- The signed bytes of a record and its signature block. -/
def recSigned (w : Bytes) : Bytes := slice w 0 (64 + beAt w 8 4)
def recSig (w : Bytes) : Bytes := slice w (64 + beAt w 8 4) 256

/-- Header rules of R557 on the bytes of a record. -/
def recFormatOk (w : Bytes) : Bool :=
  let n := beAt w 8 4
  w.length == 64 + n + 256 && beAt w 0 4 == 0x43464752 && decide (1 ≤ beAt w 4 2) && decide (beAt w 4 2 ≤ 8) &&
    decide (1 ≤ n) && decide (n ≤ 262144) && zeroAt w 32 32 && sigBlockOk (recSig w) && byteAt (recSig w) 0 == 1

/-- A filled Vehicle slot matches the signer, and the signature verifies. -/
def recSignerKnown (s : State) (w : Bytes) : Bool := signerKnown s (recSig w)
def recSigCode (w : Bytes) : Nat :=
  let b := recSig w
  pkVerify (if byteAt b 1 = 1 then 2 else 3) (sigKey b) (slice b 104 (if byteAt b 1 = 1 then 96 else 64)) (recSigned w) false

/-- TARGET_UID names this part or any part. -/
def recTargetOk (s : State) (w : Bytes) : Bool := zeroAt w 16 16 || slice w 16 16 == uidBytes s

/-- Head of the running image. -/
def runHead (s : State) : Option Bytes := s.upd.running.map (fun b => slotHead (getSlot s b))

/-- FORMAT lies within what an image reads. -/
def fmtRead (h : Bytes) (fmt : Nat) : Bool := decide (hOldest h ≤ fmt) && decide (fmt ≤ hFmt h)

/-- A record is valid (R558), given the board record in force. In Hearth mode no image runs, so that no FORMAT lies outside what one reads
(DEDUCED, log entry 80). -/
def recValid (s : State) (b : Option BoardRec) (x : CfgRec) : Bool :=
  recFormatOk x.bytes && cfgTypeOf x.body == x.type && (runHead s).all (fun h => fmtRead h x.format) &&
    recTargetOk s x.bytes && recSignerKnown s x.bytes && recSigCode x.bytes == 0 && cfgBodyOk b x.body

/-- The records of both banks, each with its bank. -/
def bankRecs (s : State) : List (Nat × CfgRec) := s.upd.bank0.map (fun x => (0, x)) ++ s.upd.bank1.map (fun x => (1, x))

/-- The record of a list with the highest GEN. -/
def highestGen (l : List (Nat × CfgRec)) : Option (Nat × CfgRec) :=
  l.foldl (fun (best : Option (Nat × CfgRec)) x => match best with
    | none => some x
    | some y => if y.2.gen < x.2.gen then some x else some y) none

/-- The valid record of a TYPE with the highest GEN in either bank (R558). -/
def bestRec (s : State) (b : Option BoardRec) (ty : Nat) : Option (Nat × CfgRec) :=
  highestGen ((bankRecs s).filter (fun x => x.2.type == ty && recValid s b x.2))

/-- The board record that a configuration load takes. -/
def boardInCfg (s : State) : Option BoardRec :=
  match bestRec s none 1 with
  | some (_, { body := .board b, .. }) => some b
  | _ => none

/-- The valid record of every TYPE, with its bank. -/
def validRecs (s : State) : List (Nat × CfgRec) :=
  let b := boardInCfg s
  (List.range 8).filterMap (fun i => bestRec s b (i + 1))

/-- Checks 1 to 6 of R545. -/
def headCheck (s : State) (h : Bytes) : Option Nat :=
  match bootCheck s h with
  | some d => some d
  | none =>
    let b := boardInCfg s
    if ((bankRecs s).filter (fun x => recValid s b x.2)).all (fun x => fmtRead h x.2.format) then none else some 0x25

/-! ### Transport messages (R549, R550) -/

/-- In Hearth mode a port serves a download where the board record in CFG fits it; with none that is valid and fits every mandatory port,
only HOST serves (R77; log entry 80). -/
def hearthPort (s : State) (kind n : Nat) : Bool :=
  s.pwr.mode == .hearth && (boardInCfg s).any (fun b => boardOk b && bit (fittedMap b kind) n) && clockServes s kind && railServes s kind

/-- A port carries transport: on the line only in Flood; on Ethernet in Cab, Drive and Service, and on ETH0 in Hearth mode. -/
def peerUp (s : State) : UpdPeer → Bool
  | .line pos => linkMode s && (match routePort s pos.val with
      | some p => (getPort s p).link == .coupledF
      | none => false)
  | .eth p _ => (linkMode s && portUp s pEth p.val) || (p.val == 0 && hearthPort s pEth 0)

/-- Sends a transport message to a peer. -/
def sendMsg (dst : UpdPeer) (m : Bytes) (s : State) : State :=
  match dst with
  | .line pos => sendData pos.val 0x03 0 m none s
  | .eth p mac => onlyIf (peerUp s dst) (emit (.transport p.val mac.toNat m)) s

def offerMsg (x : Slot) (route : Nat) : Bytes :=
  be 1 1 ++ zeros 3 ++ be 8 x.headId ++ be 4 x.ver ++ be 2 (hChunks (slotHead x)) ++ be 2 route ++ zeros 4
def needMsg (headId bitmap : Nat) : Bytes := be 1 2 ++ zeros 3 ++ be 8 headId ++ be 28 bitmap
def pieceMsg (block piece : Nat) (data : Bytes) : Bytes := be 1 3 ++ zeros 1 ++ be 2 block ++ be 1 piece ++ zeros 3 ++ slice data (1024 * piece) 1024
def statusMsg (pos code detail headId blocks : Nat) : Bytes :=
  be 1 4 ++ be 1 pos ++ be 1 code ++ be 1 detail ++ be 8 headId ++ be 2 blocks ++ zeros 2
def schedMsg (headId actAt leadMs windowH : Nat) : Bytes :=
  be 1 5 ++ zeros 3 ++ be 8 headId ++ be 8 actAt ++ be 8 leadMs ++ be 2 windowH ++ zeros 2
def unschedMsg (headId : Nat) : Bytes := be 1 6 ++ zeros 3 ++ be 8 headId

/-- Answers a peer with this unit's STATUS for a HEAD_ID. -/
def answer (dst : UpdPeer) (code detail headId : Nat) (s : State) : State :=
  let x := getSlot s (updTarget s)
  sendMsg dst (statusMsg (ownPos s) code detail headId (if x.headId = headId then x.blocks.length else 0)) s

/-! ### Schedules (R552) -/

/-- The slot that is SCHEDULED. -/
def scheduledSlot (s : State) : Option Bool :=
  if s.upd.a.st = .scheduled then some false else if s.upd.b.st = .scheduled then some true else none

/-- The deadline in TIME_MONO, µs: ACT_AT on the wall clock for a schedule made here, what SCHED set otherwise. -/
def deadline (s : State) : Option Nat :=
  match s.upd.sched with
  | none => none
  | some x =>
    if x.by_.isSome && s.upd.actAt != 0 then
      (if s.clk.wallSet then some ((1000000 * s.upd.actAt : Nat) - s.clk.wallBase).toNat else none)
    else some x.due

/-- SCHED to a position, with LEAD_MS from now. -/
def sendSched (pos : Nat) (s : State) : State :=
  match s.upd.sched, scheduledSlot s with
  | some x, some b =>
    sendData pos 0x03 0 (schedMsg (getSlot s b).headId s.upd.actAt (((deadline s).getD (monoUs s) - monoUs s) / 1000) x.windowH) none s
  | _, _ => s

/-- Positions of a route. -/
def routePositions (route : Nat) : List Nat := [1, 2, 3, 4, 5, 6, 7].filter (bit route)

def peerOf (s : State) (pos : Nat) : PeerSt := tabGet {} s.upd.peers pos

/-- SCHED again at the coupling of a unit that is scheduled (R552). -/
def resendSched (pos : Nat) (s : State) : State :=
  match s.upd.sched with
  | some x => if x.by_.isSome && bit x.route pos && (peerOf s pos).code == 3 then sendSched pos s else s
  | none => s

/-! ### PUSH (R551) -/

/-- Open route positions that lie behind no other route position that has not been passed over. -/
def nearestOpen (s : State) (p : Push) : List Nat :=
  let open_ := p.open_.filterMap (fun t => match t with | .line q => some q.val | .eth _ _ => none)
  let units := (routePositions p.route).filter (fun o => !p.passed.contains o)
  open_.filter (fun q => units.all (fun o => o == q || !behind s o 7 q))

/-- Offers the image to a peer. -/
def offerTo (b : Bool) (route : Nat) (dst : UpdPeer) (s : State) : State :=
  let x := getSlot s b
  sendMsg dst (offerMsg x route)
    (modUpd (fun u => { u with sends := u.sends ++ [{ dst := dst, headId := x.headId, last := monoUs s, route := route }] }) s)

/-- Offers to the nearest open positions that have no transfer yet. -/
def pushOffers (s : State) : State :=
  match s.upd.push with
  | none => s
  | some p =>
    each ((nearestOpen s p).filter (fun q => q < 8 && !(s.upd.sends.any (fun x => x.dst == .line (Fin.ofNat 8 q))))) (fun q t =>
        if peerUp t (.line (Fin.ofNat 8 q)) then offerTo (updTarget t) p.route (.line (Fin.ofNat 8 q)) t else t) s

/-- Ends a PUSH that has no open target. Where nothing was staged it has had no effect and ends as the last refusal says, a BUSY
counting as SLOT_BUSY; without a refusal none has answered (DESIGN CHOICE, log entry 73). -/
def pushDone (s : State) : State :=
  match s.upd.push with
  | none => s
  | some p =>
    if p.open_.isEmpty then
      let s := modUpd (fun u => { u with push := none }) s
      let result := min 255 p.staged + 256 * min 255 p.refused + 65536 * p.passed.length
      if p.staged = 0 then
        settle p.op { updFate (if p.refused = 0 then 0x2E else if p.lastCode = 4 then 0x28 else p.lastDetail) with result := result } s
      else if p.refused = 0 ∧ p.silent.isEmpty then settle p.op { done result with units := p.staged } s
      else settle p.op { failFate fPartial 0 with units := p.staged, result := result } s
    else s

/-- A position refuses or can answer no more: neither can the positions that only it would offer to. -/
def pushClosed (q : Nat) (refused : Bool) (s : State) : State :=
  modUpd (fun u => { u with push := u.push.map (fun p =>
    let far := p.open_.filterMap (fun t => match t with
      | .line o => if o.val != q && behind s q 7 o.val then some o.val else none
      | .eth _ _ => none)
    { p with
      open_ := p.open_.filter (fun t => match t with | .line o => o.val != q && !far.contains o.val | .eth _ _ => true)
      refused := if refused then p.refused + 1 else p.refused
      silent := p.silent ++ far ++ (if refused then [] else [q]) }) }) s

/-- The peers a unit that has reached STAGED offers to: the lowest route position behind each downstream port. -/
def onward (s : State) (route : Nat) : List Nat :=
  let far := (routePositions route).filter (fun q => s.sys.trailer && (tabFind s.ifl.routes q).isSome)
  far.filter (fun q => far.all (fun o => !(decide (o < q) && tabGet 0 s.ifl.routes o == tabGet 0 s.ifl.routes q)))

/-- A trailer unit's offer to a position that it passes over goes to the next route position behind that one. -/
def offerPast (q : Nat) (s : State) : State :=
  match s.upd.sends.find? (fun x => x.dst == .line (Fin.ofNat 8 q)) with
  | some x =>
    let s := modUpd (fun u => { u with sends := u.sends.filter (fun y => y.dst != .line (Fin.ofNat 8 q)) }) s
    let far := (routePositions x.route).filter (fun o =>
      decide (q < o) && (tabFind s.ifl.routes o).isSome && tabGet 0 s.ifl.routes o == tabGet 0 s.ifl.routes q)
    match far.head? with
    | some o => offerTo (updTarget s) x.route (.line (Fin.ofNat 8 o)) s
    | none => s
  | none => s

/-- A position answers with SVC 0x7F: it is passed over, and the positions behind it are offered to instead. -/
def pushPassed (q : Nat) (s : State) : State :=
  match s.upd.push with
  | none => onlyIf (s.sys.trailer && decide (q < 8)) (offerPast q) s
  | some p =>
    if p.open_.contains (.line (Fin.ofNat 8 q)) && q < 8 then
      let s := modUpd (fun u => { u with
        push := some { p with open_ := p.open_.filter (· != .line (Fin.ofNat 8 q)), passed := p.passed ++ [q] }
        sends := u.sends.filter (fun x => x.dst != .line (Fin.ofNat 8 q)) }) s
      pushDone (pushOffers s)
    else s

/-- A transfer's route decouples: it is abandoned, and the receiver's slot stays in STAGING (R550). -/
def dropTransfers (q : Nat) (s : State) : State :=
  let peer : UpdPeer := .line (Fin.ofNat 8 q)
  let s := modUpd (fun u => { u with sends := u.sends.filter (fun x => x.dst != peer)
                                     recv := u.recv.filter (fun r => r.src != peer) }) s
  if (s.upd.push.map (fun p => p.open_.contains peer)).getD false then pushDone (pushClosed q false s) else s

end Sys2Proof.Machine
end

