-- ==== Sys2Proof/Machine/IflLink.lean ====
section
/-! DEFINITION. The link layer of Ifeven Line: discovery, coupling, sequenced frames, relaying and the IFL class
(chapter 12). -/

namespace Sys2Proof.Machine

/-! ### Link headers (R408, R409) -/

structure LinkHead where
  ltype : Nat
  final : Nat
  orig : Nat
  hseq : Nat
  cpl : Nat
  body : Bytes
  deriving DecidableEq, Repr

def linkHead (b : Bytes) : LinkHead :=
  { ltype := byteAt b 0, final := byteAt b 1 / 16, orig := byteAt b 1 % 16, hseq := beAt b 2 2, cpl := beAt b 4 4,
    body := b.drop 8 }

/-- Least body length of a type; none for an unknown type. -/
def bodyMin (t : Nat) : Option Nat :=
  if t = 1 then some 4 else if t = 2 then some 22 else if t = 3 then some 24 else if t = 4 then some 24
  else if t = 5 then some 1 else if t = 6 then some 2 else if t = 7 then some 1 else if t = 8 then some 4
  else if t = 9 then some 4 else if t = 10 then some 3 else none

/-- Reserved bytes are zero. -/
def rsvdZero (t : Nat) (b : Bytes) : Bool :=
  if t = 2 ∨ t = 3 then zeroAt b 21 1 else if t = 4 then zeroAt b 17 3 else if t = 8 then zeroAt b 1 1 else true

/-- A frame of the type a command presents, with known type, zero reserved bytes and a body long enough. -/
def frameFits (t : Nat) (payload : Bytes) : Bool :=
  let h := linkHead payload
  decide (8 ≤ payload.length) && h.ltype == t && (bodyMin t).any (fun n => decide (n ≤ h.body.length)) && rsvdZero t h.body

/-! ### Relays (R422, R428) -/

/-- Takes the frames of a descriptor out of every port. -/
def purgeOp (r : Nat) : State → State :=
  modIfl (fun b => { b with ports := b.ports.map (fun x =>
    { x with queue := x.queue.filter (fun q => q.op != some r), unacked := x.unacked.filter (fun t => t.frame.op != some r) }) })

/-- Ends a relay short: PARTIAL with the frames accepted, NOT_STARTED (or the fate given) when none was. -/
def endRelay (x : Relay) (detail none_ some_ : Nat) (s : State) : State :=
  let s := purgeOp x.op (modIfl (fun b => { b with relays := b.relays.filter (fun y => y.op != x.op) }) s)
  if x.accepted = 0 then settle x.op (failFate none_ detail) s
  else settle x.op { failFate some_ detail with units := x.accepted, result := x.accepted } s

/-- Ends every relay to the positions given. -/
def endRelays (ps : List Nat) (detail : Nat) (s : State) : State :=
  each (s.ifl.relays.filter (fun x => ps.contains x.final)) (fun x => endRelay x detail fNotStarted fPartial) s

/-- A frame of a relay has been accepted by the next node. -/
def relayAccepted (r : Nat) (s : State) : State :=
  match s.ifl.relays.find? (fun x => x.op == r) with
  | none => s
  | some x =>
    let n := x.accepted + 1
    if n = x.total then
      settle r { done n with units := n }
        (tryLog (.emitted 4 r) (modIfl (fun b => { b with relays := b.relays.filter (fun y => y.op != r) }) s))
    else
      atStage r 0 n (modIfl (fun b => { b with relays := b.relays.map (fun y => if y.op = r then { y with accepted := n } else y) }) s)

/-! ### Losing a node (R412, R414–R417, R422) -/

/-- ONWARD_LOST to the origins of the frames a port of a node held and did not send. -/
def onwardLost (frames : List QFrame) (s : State) : State :=
  let origs := (List.range 8).filter (fun o => o != ownPos s && frames.any (fun q => q.orig == o))
  each origs (fun o t =>
    let mine := frames.filter (fun q => q.orig == o)
    sendTo o 0x0A (le 1 ((mine.head?.map (·.final)).getD 0) ++ be 2 mine.length) none t) s

/-- A port with no node: queues, sequence numbers and tables start afresh. -/
def emptyPort (st : LinkSt) (x : Port) : Port :=
  { x with link := st, pos := 0, cpl := 0, uid := 0, missed := 0, rolled := true, roll := [], joinAt := none, assign := none,
           txSeq := 1, rxNext := 1, unacked := [], queue := [], held := [], busyUntil := 0, tblTx := 0, bitsTx := 0, bkTx := [],
           tblRx := 0, bitsRx := 0, srcRx := 0, tblSent := 0, bitsSent := 0, loadBody := [], tblOld := 0, bitsOld := 0, oldBody := []
           oldSeen := false, soundDue := none, mgmt := [], goodAt := none }

/-- The tractor frees the positions of a node and of the nodes behind it: one decoupling record per node, its remote units
gone, its relays ended, its directory state dropped. -/
def freeNodes (top cause detail : Nat) (s : State) : State :=
  let ps := subtree s top
  let s := endRelays ps detail s
  each ps (fun p t =>
    match nodeAt t p with
    | none => t
    | some n =>
      let t := dropTransfers p (unitLost p t)
      let t := onlyIf n.joined (fun u => linkEvent 1 (logPart { kind := 0x0D, unit := p, cause := cause, cplId := n.cpl } u)) t
      modDir (fun d => { d with nodes := tabErase d.nodes p })
        (modIfl (fun b => { b with nodes := tabErase b.nodes p, freed := freedBy (monoUs t) n p b.freed }) t)) s

/-- DETAIL of a relay whose first hop decouples: LINK_LOST for link loss, DECOUPLED otherwise (R428). -/
def lossDetail (cause : Nat) : Nat := if cause = 3 then 0x23 else 0x22

/-- The node on a downstream port is gone; the port goes to `st`, or stays QUARANTINED (R414). A hold of another node runs on. -/
def portDown (p : Nat) (st : LinkSt) (cause : Nat) (s : State) : State :=
  let pt := getPort s p
  let frames := pt.queue ++ pt.unacked.map (·.frame)
  let s := modPort p (fun x => { emptyPort (if x.link = .quarantined then .quarantined else st) x with
                                 holds := x.holds.filter (fun e => e.1 != x.pos) }) s
  if s.sys.trailer then
    if pt.pos = 0 then s
    else
      let gone := (s.ifl.routes.filter (fun e => e.2 == p)).map (·.1)
      let s := modIfl (fun b => { b with routes := gone.foldl tabErase b.routes }) s
      onwardLost frames (sendTo 0 0x06 (le 1 pt.pos ++ le 1 cause) none (linkEvent 1 s))
  else if pt.pos = 0 then s
  else freeNodes pt.pos cause (lossDetail cause) s

/-- A supply-step window is open (R415). -/
def stepOpen (s : State) : Bool := match s.ifl.stepEnd with
  | some t => decide (monoUs s < t)
  | none => false

/-- The port enters ADRIFT: relays to the node and those behind it end, remote units are suspended, positions stay. -/
def portAdrift (p : Nat) (s : State) : State :=
  let pt := getPort s p
  let frames := pt.queue ++ pt.unacked.map (·.frame)
  let ps := subtree s pt.pos
  let s := modPort p (fun x => { x with link := .adrift, queue := [], unacked := [], held := []
                                        holds := x.holds.filter (fun e => e.1 != x.pos) ++ [(x.pos, monoUs s)] }) s
  let s := linkEvent 2 (modNode pt.pos (fun n => { n with adrift := true }) s)
  let s := each ps unitLost (endRelays ps 0x24 s)
  if s.sys.trailer then onwardLost frames s else s

def isCoupled (st : LinkSt) : Bool := st == .coupledT || st == .coupledF

/-- Decoupling detected on a coupled downstream port (R414). -/
def decouple (p cause : Nat) (s : State) : State :=
  if isCoupled (getPort s p).link then
    if stepOpen s then portAdrift p s else portDown p .down cause s
  else s

/-- The part, in trailer role, loses its position (R412, R417). -/
def dropPosition (s : State) : State :=
  let s := modIfl (fun b => { b with ownPos := none, ownCpl := 0, routes := [] }) s
  modIfl (fun b => { b with ports := b.ports.map (fun x =>
    { emptyPort (if x.link = .quarantined then .quarantined else .down) x with holds := [] }) }) s

/-! ### DET readings (R380, R414, R416) -/

/-- Two readings that agree and both differ from the mean of the sixteen before them. -/
def impedanceStep (det : List Nat) : Bool :=
  match det with
  | a :: b :: rest =>
    let l := rest.take 16
    let sum := l.foldl (· + ·) 0
    let far := fun (x : Nat) => decide (512 < 16 * x - sum) || decide (512 < sum - 16 * x)
    l.length == 16 && decide (a - b ≤ 8) && decide (b - a ≤ 8) && far a && far b
  | _ => false

/-- A shorted pair: the port is quarantined (R416). -/
def quarantine (p : Nat) (s : State) : State :=
  let s := portDown p .quarantined 4 s
  linkEvent 3 (fault pIfl p 0x02 sDegraded 0x06 0 4 (modPort p (fun x => { x with link := .quarantined, goods := 0 }) s))

/-- The reading of DET, µV, in 256ths of 1.8 V, saturating at 255 (R380). -/
def detCode (uv : Nat) : Nat := min 255 (uv * 256 / 1800000)

/-- A DET sample is due: every 1 ms with the part awake, and once in each listen window of Parked. -/
def detDue (s : State) (p : Nat) : Bool :=
  let pt := getPort s p
  lineUp s p && (linkMode s || (tricklesOn s && decide (pt.winAt ≤ monoUs s + windowWiden s) &&
    decide (monoUs s ≤ pt.winAt + 1500 + windowWiden s) && pt.detWin != some pt.winSeq))

/-- Takes a sample: low ones count while the port does not transmit (R416). -/
def takeDet (p v : Nat) (s : State) : State :=
  modPort p (fun x => { x with
    det := (v :: x.det).take 18, detAt := some (monoUs s), detWin := some x.winSeq
    lows := if s.clk.ns < x.txEnd then x.lows else if v < 6 then x.lows + 1 else 0
    goods := if x.link = .quarantined ∧ 64 < v then x.goods + 1 else 0 }) s

def execIflDetSample (p : Fin 4) (uv : Nat) (s : State) : Host.Outcome State Fault Refusal :=
  .next (
    if detDue s p then
      let v := detCode uv
      let s := takeDet p v (match (getPort s p).detAt with | some t => onlyIf (linkMode s) (elapseTo (t + 1000)) s | none => s)
      let pt := getPort s p
      if pt.link = .quarantined then
        if 100 ≤ pt.goods then
          fault pIfl p 0x09 sInfo 0x09 0 0 (modPort p (fun x => { x with link := .down, goods := 0, lows := 0 }) s)
        else s
      else if 10 ≤ pt.lows then quarantine p s
      else if isCoupled pt.link && impedanceStep pt.det then
        if stepOpen s then modPort p (fun x => { x with det := List.replicate 18 v }) s else decouple p 2 s
      else s
    else s)

/-! ### Assignment (R406, R407, R411) -/

def headUid (body : Bytes) : Nat := beAt body 0 16

/-- The ASSIGN frame for a node, as its parent sends it on the segment. -/
def assignBody (uid pos cpl : Nat) : Bytes := be 16 uid ++ le 1 pos ++ zeros 3 ++ be 4 cpl

/-- The parent sends the ASSIGN on the segment and repeats it with every BEACON. -/
def sendAssign (p : Nat) (body : Bytes) (s : State) : State :=
  let q : QFrame := { ltype := 4, final := byteAt body 16, orig := 0, body := body }
  sendPlain p q 0xF 0 false (modPort p (fun x => { x with assign := some q }) s)

/-- The position a NODE_UID gets: the one it holds, else the one it held within the last 60 s, else the lowest free one. -/
def choosePos (uid : Nat) (s : State) : Option Nat :=
  let free := ((List.range 8).drop 1).filter (fun p => (nodeAt s p).isNone)
  match s.ifl.nodes.find? (fun e => e.2.uid == uid) with
  | some e => some e.1
  | none =>
    match s.ifl.freed.find? (fun e => e.1 == uid && free.contains e.2.1 && decide (monoUs s ≤ e.2.2.1 + 60000000)) with
    | some e => some e.2.1
    | none => free.head?

/-- The COUPLING_ID a NODE_UID has or had last; 0 for one never assigned. -/
def lastCpl (uid : Nat) (s : State) : Nat :=
  match s.ifl.nodes.find? (fun e => e.2.uid == uid) with
  | some e => e.2.cpl
  | none => ((s.ifl.freed.find? (fun e => e.1 == uid)).map (fun e => e.2.2.2)).getD 0

/-- A fresh COUPLING_ID, never zero nor the node's last one (R407): where the draw gives one of these, the next value up (DESIGN CHOICE, log
entry 104). -/
def freshCpl (old : Nat) (s : State) : Nat :=
  let v := fromBE (random s 4)
  (([v, v + 1, v + 2].map (· % 2 ^ 32)).find? (fun x => x != 0 && x != old)).getD v

/-- The tractor assigns a node: a position, a new COUPLING_ID, and the ASSIGN toward its parent. Nodes behind a node that is
assigned again are decoupled with its old coupling. -/
def assignNode (roll : Bytes) (parent pport p : Nat) (s : State) : State :=
  let uid := headUid roll
  match choosePos uid s with
  | none => linkEvent 4 s
  | some pos =>
    if canDraw s then
      let s := each ((s.ifl.nodes.filter (fun e => e.2.parent == pos && e.1 != pos)).map (·.1)) (fun c => freeNodes c 1 0x22) s
      let cpl := freshCpl (lastCpl uid s) s
      let n : Node := { uid := uid, parent := parent, parentPort := pport, tport := p, kind := byteAt roll 16,
                        readers := byteAt roll 17, lf := byteAt roll 18, cpl := cpl }
      let s := modIfl (fun b => { b with nodes := tabPut b.nodes pos n }) (drew .lanes 4 s)
      if parent = 0 then sendAssign p (assignBody uid pos cpl) s else sendTo parent 4 (assignBody uid pos cpl) none s
    else s

/-- Starts or repeats a discovery: the JOIN to position 0. -/
def sendJoin (p : Nat) (roll : Bytes) (s : State) : State :=
  let s := modPort p (fun x => { x with roll := roll, joinAt := some (monoUs s) }) s
  if s.sys.trailer then sendTo 0 0x03 (slice roll 0 22 ++ le 1 (ownPos s) ++ le 1 p) none s
  else assignNode roll 0 p p s

/-- A node is coupled: the tractor records it, raises the link to Flood and sends the directory state. -/
def nodeJoined (pos : Nat) (s : State) : State :=
  match nodeAt s pos with
  | none => s
  | some n =>
    let s := modNode pos (fun x => { x with joined := true, adrift := false }) s
    let s := linkEvent 0 (logPart { kind := 0x0C, unit := pos, cplId := n.cpl } s)
    let s := onlyIf (linkMode s) (sendTo pos 0x07 [0x01] none) s
    resendSched pos (sendDirState pos s)

/-- The ROLL of the assigned node is heard: the port is coupled. -/
def coupled (p : Nat) (q : QFrame) (s : State) : State :=
  let pos := byteAt q.body 16
  let s := modPort p (fun x => { x with
    holds := x.holds.filter (fun e => e.1 != pos)
    link := .coupledT, pos := pos, cpl := beAt q.body 20 4, uid := beAt q.body 0 16, assign := none, joinAt := none, missed := 0,
    rolled := true, txSeq := 1, rxNext := 1, unacked := [], queue := [], held := [], busyUntil := 0 }) s
  if s.sys.trailer then
    sendTo 0 0x05 (le 1 pos) none (linkEvent 0 (modIfl (fun b => { b with routes := tabPut b.routes pos p }) s))
  else nodeJoined pos s

/-- A port in JOINING whose node has fallen silent: DOWN, and the position it was given is free again. -/
def dropUnjoined (p : Nat) (s : State) : State :=
  let gone := if s.sys.trailer then [] else s.ifl.nodes.filter (fun e => !e.2.joined && e.2.parent == 0 && e.2.tport == p)
  modIfl (fun b => { b with
    nodes := b.nodes.filter (fun e => !gone.contains e)
    freed := gone.foldl (fun l e => freedBy (monoUs s) e.2 e.1 l) b.freed }) (modPort p (emptyPort .down) s)

/-- The time for the answer to the last BEACON has passed (R410): a missed ROLL is counted, and the third in a row decouples the node (R414,
R430). -/
def rollMissed (p : Nat) (s : State) : State :=
  let pt := getPort s p
  if pt.beaconAt.isSome && !pt.rolled then
    let s := modPort p (fun x => { x with missed := x.missed + 1, rolled := true }) (elapseTo pt.rollBy s)
    if 3 ≤ pt.missed + 1 then (if pt.link = .joining then dropUnjoined p s else decouple p 1 s) else s
  else s

/-- Every 100 ms (R410): the answer to the last BEACON is judged when its time is over, then the next goes out. -/
def execBeacon (p : Fin 4) (s : State) : Host.Outcome State Fault Refusal :=
  .next (
    if linkMode s && canSend s p && !upstream s p && decide (ownPos s ≤ 7) then
      let at0 := (getPort s p).beaconAt
      let s := rollMissed p s
      let s := match at0 with | some t => elapseTo (t + 100000) s | none => s
      let s := modPort p (fun x => { x with rolled := false, beaconAt := some (monoUs s), beaconSeq := (x.beaconSeq + 1) % 65536 }) s
      let pt := getPort s p
      let q : QFrame := { ltype := 1, final := 0xF, orig := ownPos s,
                          body := le 1 (ownPos s) ++ le 1 (ofBool (pt.link == .coupledF)) ++ be 2 pt.beaconSeq }
      let s := sendPlain p q 0xF pt.cpl (pt.link == .coupledF) s
      let s := modPort p (fun x => { x with rollBy := x.airEnd / 1000 + 2000 }) s
      match pt.assign with
      | some a => sendPlain p a 0xF 0 false s
      | none => s
    else s)

/-- A ROLL heard on a downstream port with its PHY SRC (R411, R414). -/
def execRoll (p : Fin 4) (src : Fin 16) (payload : Bytes) (s : State) : Host.Outcome State Fault Refusal :=
  .next (
    let h := linkHead payload
    let pt := getPort s p
    if frameFits 2 payload && hears s p && linkMode s && !upstream s p && decide (ownPos s ≤ 7) then
      match pt.link with
      | .quarantined => s
      | .down =>
        if src.val = 0xE ∧ h.cpl = 0 then
          sendJoin p h.body (modPort p (fun x => { x with link := .joining, rolled := true, missed := 0, assign := none }) s)
        else s
      | .adrift =>
        if h.cpl = 0 ∨ h.cpl = pt.cpl then sendJoin p h.body (modPort p (fun x => { emptyPort .joining x with rolled := true }) s)
        else s
      | .joining =>
        let s := onlyIf (h.cpl == 0) (modPort p (fun x => { x with rolled := true, missed := 0 })) s
        match pt.assign with
        | some q =>
          if src.val = byteAt q.body 16 ∧ headUid h.body = headUid q.body ∧ (h.cpl = 0 ∨ h.cpl = beAt q.body 20 4) then
            coupled p q s
          else s
        | none =>
          if src.val == 0xE && h.cpl == 0 && (match pt.joinAt with | some t => decide (t + 500000 ≤ monoUs s) | none => true) then sendJoin p h.body s else s
      | .coupledT | .coupledF =>
        if src.val = pt.pos ∧ h.cpl = pt.cpl then modPort p (fun x => { x with rolled := true, missed := 0 }) s else s
    else s)

/-! ### The node side (R410–R412) -/

/-- The part's ROLL in trailer role. NODE_UID is its SYS_UID (log entry 31). -/
def rollBody (s : State) : Bytes :=
  let count := fun (m : Nat) (n : Nat) => ((List.range n).filter (bit m)).length
  let maps := fun (f : BoardRec → Nat) => ((board s).map f).getD 0
  uidBytes s ++ le 1 (1 + Config.nodeKind % 3) ++ le 1 (count (maps (·.nfc.toNat)) 8) ++ le 1 (count (maps (·.lf.toNat)) 48) ++
    le 1 (count (maps (·.ifl.toNat) / 2) 3) ++ le 1 1 ++ zeros 1

/-- Sends the ROLL: Trickle without a position or in answer to an ASSIGN, otherwise in the BEACON's profile. -/
def sendRoll (p : Nat) (flood : Bool) (s : State) : State :=
  sendPlain p { ltype := 2, final := phyDst s p, orig := ownPos s, body := rollBody s } (phyDst s p) s.ifl.ownCpl flood s

def execBeaconReceived (p : Fin 4) (payload : Bytes) (s : State) : Host.Outcome State Fault Refusal :=
  .next (
    let h := linkHead payload
    if frameFits 1 payload && hears s p && upstream s p then
      let s := modPort p (fun x => { x with missed := 0, rolled := true, beaconAt := some (monoUs s) }) (masterHeard p s)
      let s := if s.ifl.ownPos.isSome ∧ h.cpl ≠ s.ifl.ownCpl then dropPosition s else s
      let s := modPort p (fun x => { x with beaconAt := some (monoUs s), parent := byteAt h.body 0 % 16 }) s
      sendRoll p (s.ifl.ownPos.isSome && byteAt h.body 1 == 1) s
    else s)

/-- Three BEACONs missed on the upstream port. -/
def execUpstreamNeighbourLost (p : Fin 4) (s : State) : Host.Outcome State Fault Refusal :=
  .next (
    if upstream s p && s.ifl.ownPos.isSome && linkMode s then
      match (getPort s p).beaconAt with
      | some t => dropPosition (elapseTo (t + 300000) s)
      | none => s
    else s)

/-- Takes a position from an ASSIGN that names this part; a repeated one is answered again. -/
def takeAssign (p : Nat) (body : Bytes) (s : State) : State :=
  if headUid body = fromBE (uidBytes s) ∧ 1 ≤ byteAt body 16 ∧ byteAt body 16 ≤ 7 then
    let pos := byteAt body 16
    let cpl := beAt body 20 4
    let s := if s.ifl.ownPos = some pos ∧ s.ifl.ownCpl = cpl then s
      else
        modIfl (fun b => { b with ownPos := some pos, ownCpl := cpl })
          (modPort p (fun x => { emptyPort .coupledT x with cpl := cpl }) s)
    sendRoll p false s
  else s

/-! ### Sequenced frames (R418–R421) -/

/-- Bit i: NEXT + 1 + i is held. -/
def ackBitmap (pt : Port) : Nat :=
  (List.range 8).foldl (fun a i => if pt.held.any (fun e => seqDist pt.rxNext e.1 == i + 1) then a + 2 ^ i else a) 0

def sendAckFor (p : Nat) (pt : Port) (busy : Bool) (s : State) : State :=
  sendPlain p { ltype := 9, final := phyDst s p, orig := ownPos s,
                body := be 2 pt.rxNext ++ le 1 (ackBitmap pt) ++ le 1 (ofBool busy) } (phyDst s p) pt.cpl (pt.link == .coupledF) s

def sendAck (p : Nat) (busy : Bool) (s : State) : State := sendAckFor p (getPort s p) busy s

/-- The first HSEQ from `n` on that is not held. -/
def nextMissing (held : List (Nat × Bytes)) : Nat → Nat → Nat
  | 0, n => n
  | k + 1, n => if held.any (fun e => e.1 == n) then nextMissing held k (nextSeq n) else n

/-- A HOST frame for a tenancy: 64 KiB are held, the oldest dropped for room (R427). -/
def dropOld : Nat → List (Nat × Bytes) → List (Nat × Bytes)
  | 0, l => l
  | n + 1, l => if 65536 < (l.map (fun e => e.2.length)).foldl (· + ·) 0 then dropOld n (l.drop 1) else l

def storeHost (ten orig : Nat) (data : Bytes) (s : State) : State :=
  if tenExists s ten then
    let l := tabGet [] s.ifl.inbox ten ++ [(orig, data)]
    let kept := dropOld l.length l
    onlyIf (kept.length != l.length) (linkEvent 6) (modIfl (fun b => { b with inbox := tabPut b.inbox ten kept }) s)
  else s

/-- A DATA frame at its final node. The services with commands of their own (DIR, UPD, READER, LF) take their message from
those (log entry 30). -/
def deliverData (h : LinkHead) (s : State) : State :=
  let svc := byteAt h.body 0
  let data := h.body.drop 4
  if svc = 1 then storeHost (beAt h.body 2 2) h.orig data s
  else if svc = 6 then modNode h.orig (fun n => { n with status := data }) s
  else if svc = 0x7F then (if byteAt data 0 = 3 then pushPassed h.orig s else s)
  else if svc = 2 ∨ svc = 3 ∨ svc = 4 ∨ svc = 5 then s
  else sendData h.orig 0x7F 0 (le 1 svc) none s

/-- Enters a profile on the upstream port (R411 step 7). -/
def takeProfile (p v : Nat) (s : State) : State :=
  if v = 1 then sendSoundReq p 5 (modPort p (fun x => { x with link := .coupledF }) s)
  else modPort p (fun x => { x with link := .coupledT }) s

/-- ONWARD_LOST reaches the tractor (R422): the record and the event; a position the chain still holds has gone adrift on the way, so its
relays end, and with them those to the nodes behind it, whose remote units are suspended (DEDUCED, log entry 105). -/
def onwardReport (body : Bytes) (s : State) : State :=
  let pos := byteAt body 0
  let ps := subtree s pos
  each ps unitLost (endRelays ps 0x24 (modNode pos (fun n => { n with adrift := true })
    (linkEvent 5 (logPart { kind := 0x0E, unit := pos, count := beAt body 1 2 } s))))

/-- A frame whose final destination is this part. Discovery does not run in Parked: a JOIN and an ASSIGN have no effect there (R413). -/
def deliverHere (p : Nat) (h : LinkHead) (s : State) : State :=
  if h.ltype = 3 then
    if s.sys.trailer || !linkMode s then s else assignNode (slice h.body 0 22) (byteAt h.body 22) (byteAt h.body 23) p s
  else if h.ltype = 4 then
    match (List.range 4).find? (fun q => q != 0 && (getPort s q).link == .joining && headUid (getPort s q).roll == headUid h.body) with
    | some q => if s.sys.trailer && linkMode s then sendAssign q (slice h.body 0 24) s else s
    | none => s
  else if h.ltype = 5 then if s.sys.trailer then s else nodeJoined (byteAt h.body 0) s
  else if h.ltype = 6 then
    if s.sys.trailer then s else freeNodes (byteAt h.body 0) (byteAt h.body 1) 0x22 s
  else if h.ltype = 7 then if upstream s p then takeProfile p (byteAt h.body 0) s else s
  else if h.ltype = 8 then deliverData h s
  else if h.ltype = 10 then
    if s.sys.trailer then s else onwardReport h.body s
  else s

/-- What a node learns from frames that pass (R421). -/
def learnRoute (p : Nat) (h : LinkHead) (s : State) : State :=
  if upstream s p then s
  else if h.ltype = 5 then modIfl (fun b => { b with routes := tabPut b.routes (byteAt h.body 0) p }) s
  else if h.ltype = 6 then modIfl (fun b => { b with routes := tabErase b.routes (byteAt h.body 0) }) s
  else s

/-- Passes a frame on by its FINAL (R421), or reports it lost when the way is not coupled or there is none (R422). -/
def forward (p : Nat) (h : LinkHead) (s : State) : State :=
  let s := onlyIf s.sys.trailer (learnRoute p h) s
  let q : QFrame := { ltype := h.ltype, final := h.final, orig := h.orig, body := h.body }
  match routePort s h.final with
  | some out => if isCoupled (getPort s out).link then enqueue out q s else onwardLost [q] s
  | none => onwardLost [q] s

def deliver (p : Nat) (payload : Bytes) (s : State) : State :=
  let h := linkHead payload
  if h.final = ownPos s then deliverHere p h s else forward p h s

/-- Passes on the frames that are next in order. The fuel is the window. -/
def drainHeld : Nat → Nat → State → State
  | 0, _, s => s
  | n + 1, p, s =>
    let pt := getPort s p
    match pt.held.find? (fun e => e.1 == pt.rxNext) with
    | some e =>
      drainHeld n p (deliver p e.2 (modPort p (fun x => { x with
        rxNext := nextSeq x.rxNext, held := x.held.filter (fun y => y.1 != e.1) }) s))
    | none => s

/-- A node has no room to pass a frame on (R418, R421): 32 frames wait on its outgoing port (log entry 32). -/
def noRoom (s : State) (h : LinkHead) : Bool :=
  h.final != ownPos s && (routePort s h.final).any (fun out => decide (32 ≤ (getPort s out).queue.length))

/-- A sequenced frame of type `t` arrives (R409, R418, R420). -/
def recvSeq (t p : Nat) (payload : Bytes) (s : State) : State :=
  let h := linkHead payload
  let pt := getPort s p
  if frameFits t payload && hears s p && isCoupled pt.link && h.cpl == pt.cpl && h.hseq != 0 then
    let d := seqDist pt.rxNext h.hseq
    if 8 ≤ d ∨ pt.held.any (fun e => e.1 == h.hseq) then sendAck p false s
    else if noRoom s h then sendAck p true s
    else if d = 0 then
      let next := nextMissing pt.held 8 (nextSeq pt.rxNext)
      let s := sendAckFor p { pt with rxNext := next } false (modPort p (fun x => { x with rxNext := nextSeq x.rxNext }) s)
      drainHeld 8 p (deliver p payload s)
    else sendAck p false (modPort p (fun x => { x with held := x.held ++ [(h.hseq, payload)] }) s)
  else s

def execJoin (p : Fin 4) (payload : Bytes) (s : State) : Host.Outcome State Fault Refusal := .next (recvSeq 3 p payload s)
def execJoined (p : Fin 4) (payload : Bytes) (s : State) : Host.Outcome State Fault Refusal := .next (recvSeq 5 p payload s)
def execDecoupled (p : Fin 4) (payload : Bytes) (s : State) : Host.Outcome State Fault Refusal := .next (recvSeq 6 p payload s)
def execProfile (p : Fin 4) (payload : Bytes) (s : State) : Host.Outcome State Fault Refusal := .next (recvSeq 7 p payload s)
def execDataFrame (p : Fin 4) (payload : Bytes) (s : State) : Host.Outcome State Fault Refusal := .next (recvSeq 8 p payload s)
def execOnwardLost (p : Fin 4) (payload : Bytes) (s : State) : Host.Outcome State Fault Refusal := .next (recvSeq 10 p payload s)

/-- An ASSIGN: on the segment itself for the node that matches, otherwise a frame on its way to the parent. -/
def execAssign (p : Fin 4) (payload : Bytes) (s : State) : Host.Outcome State Fault Refusal :=
  .next (
    let h := linkHead payload
    if h.hseq = 0 then
      if frameFits 4 payload && hears s p && upstream s p && linkMode s && h.cpl == 0 then takeAssign p h.body s else s
    else recvSeq 4 p payload s)

/-! ### Acknowledgements (R418, R419) -/

/-- Whether an ACK with NEXT and BITMAP covers an HSEQ in flight. -/
def ackCovers (next bitmap hseq : Nat) : Bool :=
  let d := seqDist hseq next
  (decide (1 ≤ d) && decide (d ≤ 8)) || (let a := seqDist next hseq; decide (1 ≤ a) && decide (a ≤ 8) && bit bitmap (a - 1))

/-- What the acceptance of a frame by the neighbour does. -/
def frameAccepted (p : Nat) (t : TxFrame) (s : State) : State :=
  let s := match t.frame.op with | some r => relayAccepted r s | none => s
  let s := onlyIf (t.frame.ltype == 7) (modNode t.frame.final (fun n => { n with flood := byteAt t.frame.body 0 == 1 })) s
  let pt := getPort s p
  if t.frame.ltype = 7 ∧ t.frame.final = pt.pos ∧ !upstream s p ∧ isCoupled pt.link then
    takeProfile p (byteAt t.frame.body 0) s
  else s

def execAck (p : Fin 4) (payload : Bytes) (s : State) : Host.Outcome State Fault Refusal :=
  .next (
    let h := linkHead payload
    let pt := getPort s p
    if frameFits 9 payload && hears s p && isCoupled pt.link && h.cpl == pt.cpl then
      let covered := pt.unacked.filter (fun t => ackCovers (beAt h.body 0 2) (byteAt h.body 2) t.hseq)
      let s := modPort p (fun x => { x with
        unacked := x.unacked.filter (fun t => !ackCovers (beAt h.body 0 2) (byteAt h.body 2) t.hseq)
        busyUntil := if bit (byteAt h.body 3) 0 then monoUs s + 10000 else x.busyUntil }) s
      pump p (each covered (frameAccepted p) s)
    else s)

/-- The unacknowledged frame sent longest ago. -/
def oldestFrame (l : List TxFrame) : Option TxFrame :=
  l.foldl (fun (best : Option TxFrame) t => match best with
    | none => some t
    | some b => if t.sentAt < b.sentAt then some t else some b) none

/-- The ACK of the frame sent longest ago has not come (R419). In Parked, where link loss decouples nothing, a frame that has had its eight tries
waits for the release, and so does one too long for Trickle (R414; DEDUCED, log entry 103). -/
def execResendTimer (p : Fin 4) (s : State) : Host.Outcome State Fault Refusal :=
  .next (
    let pt := getPort s p
    match oldestFrame (pt.unacked.filter (fun t => fitsProfile pt t.frame && (linkMode s || decide (t.tries < 8)))) with
    | none => s
    | some t =>
      if isCoupled pt.link && canSend s p then
        let due := t.sentAt + (if pt.link = .coupledF then 2000 else 20000)
        let busy := decide (t.sentAt < pt.busyUntil)
        let s := elapseTo (if busy then pt.busyUntil else due) s
        if !busy && decide (8 ≤ t.tries) then
          decouple p 3 (modIfl (fun b => { b with cntLost := b.cntLost + 1 }) s)
        else
          let u := { t with tries := if busy then t.tries else t.tries + 1, sends := t.sends + 1, sentAt := monoUs s }
          pump p (sendSeq p u (modIfl (fun b => { b with cntRetx := b.cntRetx + 1 })
            (modPort p (fun x => { x with unacked := x.unacked.map (fun y => if y.hseq = t.hseq then u else y) }) s)))
      else s)

/-! ### Windows, holds (R415) -/

/-- An IGN-role WAKE pin changes state. -/
def supplyStep (s : State) : State := modIfl (fun b => { b with stepEnd := some (monoUs s + 1000000) }) s

def execSupplyStepWindowEnd (s : State) : Host.Outcome State Fault Refusal :=
  .next (match s.ifl.stepEnd with
    | some t => modIfl (fun b => { b with stepEnd := none }) (elapseTo t s)
    | none => s)

/-- The node of a hold that has ended while its port discovers anew: decoupled, with those behind it, unless it has come back. -/
def adriftGone (p pos : Nat) (s : State) : State :=
  let s := modPort p (fun x => { x with holds := x.holds.filter (fun e => e.1 != pos) }) s
  if s.sys.trailer then
    sendTo 0 0x06 (le 1 pos ++ le 1 5) none
      (linkEvent 1 (modIfl (fun b => { b with routes := tabErase b.routes pos }) s))
  else onlyIf ((nodeAt s pos).any (fun n => n.adrift)) (freeNodes pos 5 0x22) s

/-- The oldest Adrift hold of a port has run its 3 s. -/
def execAdriftHoldEnd (p : Fin 4) (s : State) : Host.Outcome State Fault Refusal :=
  .next (
    let pt := getPort s p
    match pt.holds with
    | [] => s
    | (pos, t) :: _ =>
      let s := elapseTo (t + 3000000) s
      if pt.link = .adrift ∧ pt.pos = pos then portDown p .down 5 s else adriftGone p pos s)

/-- A further second without the master: the windows widen, and after 30 s the schedule is lost and the position with it (R402,
R417). -/
def execMasterSilence (p : Fin 4) (s : State) : Host.Outcome State Fault Refusal :=
  .next (
    if upstream s p && s.pwr.mode == .parked && s.ifl.winSync then
      let k := (monoUs s - s.ifl.masterAt) / 1000000 + 1
      let s := elapseTo (s.ifl.masterAt + 1000000 * max 3 k) s
      if s.ifl.masterAt + 30000000 ≤ monoUs s then
        dropPosition (iflEvent p 1 (modIfl (fun b => { b with winSync := false, resyncAt := monoUs s }) s))
      else modPort p (fun x => { x with searchUntil := max x.searchUntil (x.winAt + 1500 + windowWiden s) }) s
    else s)

/-- The opening of a window of 1,000 ms' period, counted from one that opened at `t`, that is the last before now. -/
def lastOpening (t now : Nat) : Nat := now - (now - t) % 1000000

/-- At Parked entry every segment uses Trickle (R413, R414). The tractor's windows start with the entry; a follower's keep step with the
last preamble of its master (R400). -/
def linksParked (s : State) : State :=
  let w := if s.sys.trailer then lastOpening (s.ifl.masterAt - 400) (monoUs s) else monoUs s
  modIfl (fun b => { b with
    ports := b.ports.map (fun x => { x with link := if x.link = .coupledF then .coupledT else x.link, winAt := w, winSeq := 0,
                                            searchUntil := w + 1500, detWin := none })
    nodes := b.nodes.map (fun e => (e.1, { e.2 with flood := false })) }) s

/-- At the next release beaconing resumes and the coupled segments are raised to Flood again. -/
def linksReleased (s : State) : State :=
  let s := modIfl (fun b => { b with ports := b.ports.map (fun x => { x with missed := 0, rolled := true, beaconAt := none }) }) s
  if s.sys.trailer then s
  else each (positions s) (fun pos => sendTo pos 0x07 [0x01] none) s

/-! ### Services a trailer node serves (R423–R425) -/

/-- A command of R365, which changes a seal tag's state. -/
def changesTag (apdu : Bytes) : Bool := byteAt apdu 0 == 0x80 && [0x40, 0x42, 0x50, 0x52].contains (byteAt apdu 1)

/-- A READER request, under its own highest rate. It ends a poll that detection has started on the reader; a card stays activated between
requests, and a command without one finds no card (log entry 62). -/
def execReaderRequest (payload : Bytes) (s : State) : Host.Outcome State Fault Refusal :=
  .next (
    let op := byteAt payload 0
    let k := byteAt payload 1
    let req : Xchg := { op := 2 ^ 40 + k, node := some (slice payload 0 4), ceilMs := beAt payload 4 2, limit := some (byteAt payload 6), readers := [k] }
    if s.sys.trailer && s.ifl.ownPos.isSome && decide (8 ≤ payload.length) && zeroAt payload 7 1 && decide (1 ≤ op) &&
        decide (op ≤ 4) then
      let s := dropXchg (2 ^ 41 + k) s
      if 8 ≤ k ∨ !readerUp s k then nodeAnswer req 0x04 [] s
      else if op = 2 then
        match (getReader s k).card with
        | some x =>
          sendApdu { x with node := req.node, ceilMs := req.ceilMs, outstanding := changesTag (payload.drop 8) } .change (payload.drop 8) s
        | none => nodeAnswer req 0x01 [] s
      else if op = 3 then nodeAnswer req 0x00 [] (carrierOff k true s)
      else activateCard req (op == 4) s
    else s)

/-- One segment of an LF request: OFFSET_US, symbols. UNITS counts bits and slots, as R229 has it, and the mark comes before them
(DEDUCED, log entry 62). -/
def lfSegments : Nat → Bytes → List (Nat × Bytes)
  | 0, _ => []
  | n + 1, b => let k := beAt b 4 2 + 1; (beAt b 0 4, slice b 6 k) :: lfSegments n (b.drop (6 + k))

/-- Duration of a symbol, µs (R227). -/
def symbolUs (v : Byte) : Nat :=
  if v = 0x02 then 4128 else if v = 0x03 then 512 else if v = 0x04 then 896 else if v = 0x00 ∨ v = 0x01 then 256 else 0

/-- The carrier of a symbol (R227, R425). A value the list does not define keys nothing (DESIGN CHOICE, log entry 44). -/
def symbolRuns (v : Byte) : List (Bool × Nat) :=
  if v = 0x00 then bitRuns false else if v = 0x01 then bitRuns true else if v = 0x02 then markRuns true
  else if v = 0x03 then markRuns false else if v = 0x04 then slotRuns else []

/-- What an LF request drives its channels with: the duty it names, and phases that no rule states (free values). -/
def requestDrive (s : State) (payload : Bytes) (chans : List Nat) : List (Nat × Nat × Nat) :=
  (List.range chans.length).map (fun i => (nth 0 chans i, byteAt payload 4, byteAt (freeBytes s 3) i))

/-- Keys the segments of an LF request in turn, each in a window that the Furrow grants within 5 µs of its offset from `t0` (R18, R425); a
segment that cannot start there is late, and neither it nor any after it is sent. Answers the measured starts, µs from `t0`. -/
def keySegments (t0 : Nat) (drive : List (Nat × Nat × Nat)) : List (Nat × Bytes) → State → List Nat × State
  | [], s => ([], s)
  | g :: rest, s =>
    let d := 1000 * (g.2.map symbolUs).foldl (· + ·) 0
    let t := t0 + 1000 * g.1
    if t < s.clk.ns then ([], s)
    else match furrowGrant s d t with
      | .at w =>
        if w ≤ t + 5000 then
          let s := emit (.lf 1250 drive (g.2.flatMap symbolRuns)) (elapseToNs w (grantWindow true w d s))
          let r := keySegments t0 drive rest (elapseToNs (w + d) s)
          ((w - t0) / 1000 :: r.1, r.2)
        else ([], s)
      | .wait | .noFit _ => ([], s)

/-- STATUS for a channel that cannot transmit: open 0x02, short 0x03. -/
def lfChanStatus (s : State) (chans : List Nat) : Nat :=
  match chans.find? (fun c => !portUp s pLf c) with
  | some c => if (tabGet {} s.radio.lfCh c).fault = 2 then 0x03 else 0x02
  | none => 0

/-- An LF request: the segments are keyed in turn; a late one ends it. -/
def execLfRequest (payload : Bytes) (s : State) : Host.Outcome State Fault Refusal :=
  .next (
    let chans := ([byteAt payload 1, byteAt payload 2, byteAt payload 3].filter (· != 0xFF))
    if s.sys.trailer && s.ifl.ownPos.isSome && decide (8 ≤ payload.length) && byteAt payload 0 == 1 then
      let segs := lfSegments (byteAt payload 7) (payload.drop 8)
      let st := lfChanStatus s chans
      let k := keySegments s.clk.ns (requestDrive s payload chans) (if st = 0 then segs else []) (drawn 3 s)
      let code := if st != 0 then st else if k.1.length < segs.length then 0x01 else 0x00
      sendData 0 0x05 0 (slice payload 5 2 ++ le 1 code ++ k.1.flatMap (be 4)) none k.2
    else s)

/-- STATUS, every 1 s in Cab and Drive. The supply and the fault flags are not defined by the spec: free values. -/
def execSvcStatus (s : State) : Host.Outcome State Fault Refusal :=
  .next (
    if s.sys.trailer && s.ifl.ownPos.isSome && s.sys.ready && (s.pwr.mode == .cab || s.pwr.mode == .drive) then
      let s := elapseTo (s.ifl.statusAt + 1000000) s
      let mask := fun (kind : Nat) => (List.range 8).foldl (fun a k => if portUp s kind k then a + 2 ^ k else a) 0
      let free := freeBytes s 3
      let body := le 1 (mask pNfc) ++ le 1 (mask pLf) ++ free.take 2 ++ le 1 s.pwr.dieTemp.toNat ++ free.drop 2
      sendData 0 0x06 0 body none (drawn 3 (modIfl (fun b => { b with statusAt := monoUs s }) s))
    else s)

/-! ### The IFL class (R427, R428) -/

/-- The intent that covers a RELAY's frames comes before the first of them, and is marked emitted when the last is accepted (R39). -/
def execRelay (r : Nat) (rd : HostRead) (s : State) : Host.Outcome State Fault Refusal :=
  .next (if s.clk.onRc then s else startOp 0x0500 r (fun f s =>
    let final := fieldLE f.raw 24 1
    let adrift := s.ifl.nodes.any (fun e => e.2.adrift && behind s e.1 7 final)
    match nodeAt s final with
    | none => settle r (failFate fAbsent 0x20) s
    | some n =>
      if adrift then settle r (failFate fAbsent 0x21) s
      else if !n.joined then settle r (failFate fAbsent 0x20) s
      else withRead r rd (dLen f.raw) 0 (fun data s =>
        let frames := cut (fieldLE f.raw 26 2) (dLen f.raw) data
        if canLog (.intent 4 r) s then
          let s := logRec (.intent 4 r) s
          let s := modIfl (fun b => { b with relays := b.relays ++ [(⟨r, final, 0, frames.length⟩ : Relay)] }) s
          each frames (fun x => sendData final 0x01 f.ten x (some r)) s
        else settle r (failFate fDevice 0x1A) s) s) s)

/-- Link state and profile of a node's segment: the port's own on the tractor; behind a trailer as the frames that came tell (DEDUCED, log
entry 105). -/
def chainLink (s : State) (pos : Nat) (n : Node) : Nat × Bool :=
  let pt := getPort s n.tport
  if n.parent = 0 ∧ pt.pos = pos then (linkCode pt.link, pt.link == .coupledF)
  else (if n.adrift then 4 else if !n.joined then 1 else if n.flood then 3 else 2, n.flood)

/-- The 32 B of a node. The IFL_BITS_TX of a segment between other nodes has no source in the spec: a free value. -/
def chainBytes (s : State) (pos : Nat) (n : Node) : Bytes :=
  let l := chainLink s pos n
  be 16 n.uid ++ le 1 pos ++ le 1 n.parent ++ le 1 n.tport ++ le 1 l.1 ++ le 1 n.kind ++ le 1 n.readers ++ le 1 n.lf ++
    le 1 (ofBool l.2) ++ le 4 n.cpl ++
    (if n.parent = 0 then le 2 (getPort s n.tport).bitsTx else (freeBytes s 16).drop (2 * pos) |>.take 2) ++ zeros 2

def execChainRead (r : Nat) (wr : Bool) (s : State) : Host.Outcome State Fault Refusal :=
  .next (startOp 0x0501 r (fun f s =>
    let l := s.ifl.nodes.take (dLen f.raw / 32)
    writeAndSettle r f 0 (l.flatMap (fun e => chainBytes s e.1 e.2)) wr (done l.length) (drawn 16 s)) s)

/-- One received frame as RECV writes it. -/
def recvBytes (e : Nat × Bytes) : Bytes := le 1 e.1 ++ zeros 1 ++ le 2 e.2.length ++ e.2 ++ zeros ((4 - e.2.length % 4) % 4)

/-- The frames, oldest first, that fit in `room` bytes. -/
def recvFit : Nat → List (Nat × Bytes) → List (Nat × Bytes)
  | _, [] => []
  | room, e :: rest => if (recvBytes e).length ≤ room then e :: recvFit (room - (recvBytes e).length) rest else []

def execRecv (r : Nat) (wr : Bool) (s : State) : Host.Outcome State Fault Refusal :=
  .next (startOp 0x0502 r (fun f s =>
    let l := tabGet [] s.ifl.inbox f.ten
    let out := recvFit (dLen f.raw) l
    let data := out.flatMap recvBytes
    let s := if wr then modIfl (fun b => { b with inbox := tabSet [] b.inbox f.ten (l.drop out.length) }) s else s
    writeAndSettle r f 0 data wr (done data.length) s) s)

end Sys2Proof.Machine
end

