-- ==== Sys2Proof/Machine/Update.lean ====
section
/-! DEFINITION. The UPD class and the transfer of images along the chain (R546–R552, R559, R562, R563). -/

namespace Sys2Proof.Machine

/-! ### The update engine's turn (R548) -/

/-- Among the UPD descriptors that could begin, `r` has the lowest stamp. -/
def updTurn (s : State) (r : Nat) (f : Flight) : Bool :=
  ((List.range s.host.flights.length).zip s.host.flights).all (fun e =>
    e.1 == r || e.2.fate.isSome || e.2.dupOf.isSome || dClass e.2.raw != 0x0C || dOpc e.2.raw == 0x0C05 || e.2.begun ||
      servedBefore (r, f) e || !earlierFated s e.1 e.2)

/-- The engine serves something else: a PUSH, a SCHEDULE whose answers it awaits, or a transfer. -/
def updBusy (s : State) : Bool :=
  s.upd.push.isSome || s.upd.schedOp.isSome || s.upd.recv.isSome || !s.upd.sends.isEmpty

/-- Begins a UPD operation in its turn. -/
def updOp (opc r : Nat) (waits : Bool) (body : Flight → State → State) (s : State) : State :=
  match getFlight s r with
  | some f => if waits || !updTurn s r f then s else startOp opc r body s
  | none => s

/-! ### STAGE (R546–R548) -/

/-- A slot may not be staged into: it is SCHEDULED, either slot is in TRIAL, or a PUSH or a transfer reads it (R548). -/
def slotBusy (s : State) : Bool :=
  (getSlot s (updTarget s)).st == .scheduled || s.upd.a.st == .trial || s.upd.b.st == .trial || s.upd.push.isSome ||
    !s.upd.sends.isEmpty

/-- The journal entry that begins the writing of an image, and the erase. -/
def beginSlot (b : Bool) (h : Bytes) : State → State :=
  journal (withSlot b (fun x => { x with st := .staging, ver := hVer h, headId := headIdOf h, blocks := [] }))

/-- A slot goes BAD while staging. -/
def slotBad (b : Bool) (s : State) : State := updEvent 1 (slotState b .bad s)

/-- The blocks of an image as a culvert gives them. -/
def imageBlocks (data : Bytes) : List Bytes := chunks 65536 (data.length / 65536 + 1) data

/-- Writes the first `n` blocks. -/
def writeBlocks (b : Bool) (blocks : List Bytes) (n : Nat) (s : State) : State :=
  each ((List.range (min n blocks.length)).zip blocks) (fun e => putBlock b e.1 e.2) s

/-- Writes an image whose head has passed checks 1 to 7 into a slot, as the flash allows: 0, or the DETAIL with which it fails,
and the state. A slot whose flash fails stays in STAGING. -/
def writeImage (b : Bool) (data : Bytes) (flash : FlashResult) (s : State) : Nat × State :=
  let h := slice data 0 65536
  let blocks := imageBlocks data
  let s := beginSlot b h s
  let firstBad := (List.range (hChunks h)).find? (fun c => !chunkOk h c (nth [] blocks (c + 1)))
  match firstBad, flash with
  | some c, _ => (0x27, slotBad b (writeBlocks b blocks (c + 1) s))
  | none, .failed k => (0x2B, writeBlocks b blocks k s)
  | none, .differs k =>
    (0x27, slotBad b (modUpd (withSlot b (fun x => { x with blocks := tabErase x.blocks k })) (writeBlocks b blocks blocks.length s)))
  | none, .ok =>
    let s := writeBlocks b blocks blocks.length s
    if payloadOk (getSlot s b) then (0, s) else (0x27, slotBad b s)

def execStage (r : Nat) (rd : HostRead) (flash : FlashResult) (s : State) : Host.Outcome State Fault Refusal :=
  .next (updOp 0x0C00 r (s.upd.recv.isSome || s.upd.schedOp.isSome) (fun f s =>
    if slotBusy s then settle r (updFate 0x28) s
    else withRead r rd (dLen f.raw) 0 (fun data s =>
      let h := slice data 0 65536
      let b := updTarget s
      if !hashUp s || !pkeUp s then settle r (failFate fDevice 0x19) s
      else if dLen f.raw != 65536 + hPayload h then settle r (updFate 0x20) s
      else
        let c := bootCheck s h
        let s := if c = some 0x20 ∨ c = some 0x21 then s else pkeRan (if c = some 0x22 then 1 else 0) s
        match headCheck s h with
        | some d => settle r (updFate d) s
        | none =>
          let s := pkeRan 0 s
          if (imageKey s h).isNone then settle r (updFate 0x26) s
          else
            let w := writeImage b data flash s
            if w.1 = 0 then
              settle r (done (hChunks h + 65536 * ofBool b)) (updEvent 0 (slotState b .staged w.2))
            else settle r (updFate w.1) w.2) s) s)

/-! ### PUSH (R551, R562) -/

/-- Work that needs ETH and the Ifeven ports waits, within its bound, while the part runs on the RC (R205). -/
def execPush (r : Nat) (s : State) : Host.Outcome State Fault Refusal :=
  .next (if s.clk.onRc then s else updOp 0x0C01 r (updBusy s) (fun f s =>
    if (getSlot s (updTarget s)).st != .staged then settle r (updFate 0x29) s
    else
      let route := fieldLE f.raw 24 2
      let ethPort := fieldLE f.raw 26 1
      let ps := routePositions route
      let known := ps.filter (fun q => (nodeAt s q).isSome)
      let eth : List UpdPeer :=
        (if ethPort < 2 then [.eth (Fin.ofNat 2 ethPort) (BitVec.ofNat 48 (fieldLE f.raw 32 6))] else []).filter (peerUp s)
      let p : Push := { op := r, route := route, open_ := known.map (fun q => .line (Fin.ofNat 8 q)) ++ eth,
                        silent := ps.filter (fun q => (nodeAt s q).isNone) ++ (if ethPort < 2 ∧ eth = [] then [0] else []) }
      let s := modUpd (fun u => { u with push := some p }) s
      let s := each eth (fun t u => offerTo (updTarget u) route t u) s
      pushDone (pushOffers s)) s)

/-! ### SCHEDULE, CANCEL (R552, R562) -/

/-- Ends a SCHEDULE that no longer waits for an answer. -/
def schedDone (s : State) : State :=
  match s.upd.schedOp with
  | some (r, [], n) => settle r { done n with units := n } (modUpd (fun u => { u with schedOp := none }) s)
  | _ => s

def execSchedule (r : Nat) (s : State) : Host.Outcome State Fault Refusal :=
  .next (updOp 0x0C02 r (updBusy s) (fun f s =>
    let at_ := fieldLE f.raw 24 8
    let b := updTarget s
    if at_ != 0 && !s.clk.wallSet then settle r (updFate 0x2A) s
    else if (getSlot s b).st != .staged then settle r (updFate 0x29) s
    else
      let route := fieldLE f.raw 34 2
      let x : Schedule := { windowH := fieldLE f.raw 32 2, route := route, by_ := some (f.ten, dEpoch f.raw), due := monoUs s,
                            sentAt := monoUs s }
      let s := journal (fun u => withSlot b (fun y => { y with st := .scheduled }) { u with actAt := at_, sched := some x, lapse := 0 }) s
      let held := (routePositions route).filter (fun q => (peerOf s q).code == 2 && (peerOf s q).headId == (getSlot s b).headId)
      let s := each held sendSched s
      schedDone (modUpd (fun u => { u with schedOp := some (r, held, 1) }) (modFlight r (fun f => { f with units := 1 }) s))) s)

/-- A schedule ends: the slot returns to STAGED. -/
def unschedule (b : Bool) : State → State :=
  journal (fun u => withSlot b (fun y => { y with st := .staged }) { u with actAt := 0, sched := none })

def execCancel (r : Nat) (s : State) : Host.Outcome State Fault Refusal :=
  .next (updOp 0x0C03 r (updBusy s) (fun f s =>
    match scheduledSlot s with
    | none => settle r (updFate 0x29) s
    | some b =>
      let head := (getSlot s b).headId
      let ps := routePositions (fieldLE f.raw 34 2)
      let n := (ps.filter (fun q => (peerOf s q).code == 3 && (peerOf s q).headId == head)).length
      let s := unschedule b s
      settle r (done (1 + n)) (each (ps.filter (fun q => (nodeAt s q).isSome)) (fun q t => sendData q 0x03 0 (unschedMsg head) none t) s)) s)

/-! ### CFG_WRITE (R559) -/

/-- Flash a record takes, in 4 KiB units (R557), and the units of a bank. -/
def recUnits4k (w : Bytes) : Nat := ceilDiv w.length 4096
def bankUnits (l : List CfgRec) : Nat := (l.map (fun x => recUnits4k x.bytes)).foldl (· + ·) 0

def getBank (s : State) (n : Nat) : List CfgRec := if n = 0 then s.upd.bank0 else s.upd.bank1
def putBank (n : Nat) (l : List CfgRec) : State → State :=
  modUpd (fun u => if n = 0 then { u with bank0 := l } else { u with bank1 := l })

/-- The highest GEN of a TYPE in a bank, none when it holds no copy. -/
def bankGen (s : State) (n ty : Nat) : Option Nat :=
  (getBank s n).foldl (fun g x => if x.type = ty then some (max x.gen (g.getD 0)) else g) none

/-- The bank a record of a TYPE goes to: the one with no copy, bank 0 first, or the one with the lower GEN. -/
def bankFor (s : State) (ty : Nat) : Nat :=
  match bankGen s 0 ty, bankGen s 1 ty with
  | none, _ => 0
  | some _, none => 1
  | some a, some b => if a ≤ b then 0 else 1

/-- The highest-GEN record of each TYPE in both banks. -/
def gathered (s : State) : List CfgRec :=
  (List.range 8).filterMap (fun i => (highestGen ((bankRecs s).filter (fun x => x.2.type == i + 1))).map (·.2))

/-- Writes a record; none when even a rewritten bank has no room for it. -/
def placeRec (x : CfgRec) (s : State) : Option State :=
  let n := bankFor s x.type
  let old := getBank s n
  let all := gathered s
  if bankUnits old + recUnits4k x.bytes ≤ 384 then some (putBank n (old ++ [x]) s)
  else if bankUnits all + recUnits4k x.bytes ≤ 384 then some (putBank n (all ++ [x]) s)
  else none

/-- Writes the record of a CFG_WRITE, or ends it where no bank has room (R558). -/
def storeRec (r : Nat) (x : CfgRec) (s : State) : State :=
  match placeRec x s with
  | some t => settle r (done (x.type + 65536 * x.gen)) (updEvent 7 t)
  | none => settle r (updFate 0x2B) s

/-- FORMAT lies within what the ACTIVE and the STANDBY image read. -/
def fmtServes (s : State) (fmt : Nat) : Bool :=
  [s.upd.a, s.upd.b].all (fun x => (x.st != .active && x.st != .standby) || fmtRead (slotHead x) fmt)

/-- The record of a culvert's bytes. -/
def recOf (w : Bytes) (body : CfgBody) : CfgRec :=
  { type := beAt w 4 2, format := beAt w 6 2, gen := beAt w 12 4, target := BitVec.ofNat 128 (beAt w 16 16), body := body, bytes := w }

def execCfgWrite (r : Nat) (rd : HostRead) (body : CfgBody) (flashOk : Bool) (s : State) : Host.Outcome State Fault Refusal :=
  .next (updOp 0x0C04 r (updBusy s) (fun f =>
    withRead r rd (dLen f.raw) 0 (fun w s =>
      let x := recOf w body
      if !recFormatOk w || !recTargetOk s w || cfgTypeOf body != x.type then settle r (updFate 0x2D) s
      else if !hashUp s || !pkeUp s then settle r (failFate fDevice 0x19) s
      else if !recSignerKnown s w then settle r (updFate 0x21) s
      else
        let c := recSigCode w
        let s := pkeRan c s
        if c != 0 then settle r (updFate 0x22) s
        else if !cfgBodyOk (boardInCfg s) body then settle r (updFate 0x2D) s
        else if !fmtServes s x.format then settle r (updFate 0x25) s
        else if (bankRecs s).any (fun e => e.2.type == x.type && decide (x.gen ≤ e.2.gen)) then settle r (updFate 0x2C) s
        else if flashOk then storeRec r x s
        else settle r (updFate 0x2B) s)) s)

/-! ### STATUS (R563) -/

/-- UPD_ACT_STATE. -/
def actState (s : State) : Nat :=
  if s.upd.handover ≠ .none then 3
  else if s.upd.a.st = .trial ∨ s.upd.b.st = .trial then 4
  else if (scheduledSlot s).isSome then (match deadline s with
    | some t => if t ≤ monoUs s then 2 else 1
    | none => 1)
  else 0

/-- The 8 B of a record TYPE: the valid record's, or else the highest-GEN record's. -/
def recStatus (s : State) (ty : Nat) : Bytes :=
  match bestRec s (boardInCfg s) ty with
  | some x => le 2 x.2.format ++ le 1 x.1 ++ le 1 1 ++ le 4 x.2.gen
  | none => match highestGen ((bankRecs s).filter (fun x => x.2.type == ty)) with
    | some x => le 2 x.2.format ++ le 1 x.1 ++ le 1 2 ++ le 4 x.2.gen
    | none => zeros 8

def updStatusBytes (s : State) : Bytes :=
  journalBytes s.upd ++ le 8 ((deadline s).getD 0) ++ le 1 (actState s) ++ le 1 s.upd.lapse ++ zeros 6 ++
    [1, 2, 3, 4, 5, 6, 7].flatMap (fun q => let p := peerOf s q; le 1 p.code ++ le 1 p.detail ++ le 2 p.blocks ++ le 4 p.ver) ++
    zeros 8 ++ [1, 2, 3, 4, 5, 6, 7, 8].flatMap (recStatus s) ++ zeros 48

def execUpdStatus (r : Nat) (wr : Bool) (s : State) : Host.Outcome State Fault Refusal :=
  .next (startOp 0x0C05 r (fun f s => writeAndSettle r f 0 (updStatusBytes s) wr (done 0) s) s)

/-! ### Receiving an image (R550) -/

/-- Blocks of the image being received that the slot still needs, as the bits of BITMAP. -/
def missingBlocks (x : Slot) (n : Nat) : List Nat := (List.range (n + 1)).filter (fun i => (tabFind x.blocks i).isNone)
def bitmapOf (l : List Nat) : Nat := (l.map (fun i => 2 ^ i)).foldl (· + ·) 0

/-- The slot an image is received into: in Hearth mode the download's. -/
def recvSlot (s : State) : Bool := if s.pwr.mode = .hearth then s.upd.hearth.slotB else updTarget s

/-- Sends NEED: for block 0 alone until the head has passed, then for all that is missing. -/
def sendNeed (s : State) : State :=
  match s.upd.recv with
  | none => s
  | some x =>
    let need := if x.headOk then missingBlocks (getSlot s (recvSlot s)) x.chunks else [0]
    sendMsg x.src (needMsg x.headId (bitmapOf need))
      (modUpd (fun u => { u with recv := some { x with since := 0, last := monoUs s } }) s)

/-- The slot state with which an image already held is reported. -/
def heldCode : SlotSt → Nat
  | .staged => 2 | .scheduled => 3 | .trial | .active => 6 | _ => 0

/-- A neighbour's transfer, or a tool's on ETH0, begins. -/
def beginRecv (src : UpdPeer) (m : Bytes) (resumed : Bool) (s : State) : State :=
  let now := monoUs s
  sendNeed (modUpd (fun u => { u with recv := some {
    src := src, headId := beAt m 4 8, chunks := beAt m 16 2, route := beAt m 18 2, headOk := resumed, last := now,
    lastPiece := some now } }) s)

/-- The slot for a Hearth download: EMPTY, STAGING or BAD, slot A first; otherwise the one BOOT does not name (R560). -/
def hearthSlot (s : State) : Bool :=
  let free := fun (x : Slot) => x.st == .empty || x.st == .staging || x.st == .bad
  if free s.upd.a then false else if free s.upd.b then true else updTarget s

/-- Begins a Hearth download from a source. -/
def beginHearth (used total : Nat) (s : State) : State :=
  uartLine 1 (modUpd (fun u => { u with hearth := { u.hearth with
    st := 1, used := used, detail := 0, blocks := 0, slotB := hearthSlot s, total := total, got := [] } }) s)

/-- A Hearth download is under way. -/
def hearthBusy (s : State) : Bool := s.upd.hearth.st == 1 || s.upd.hearth.st == 2

def execOffer (src : UpdPeer) (payload : Bytes) (s : State) : Host.Outcome State Fault Refusal :=
  .next (
    if payload.length != 24 || byteAt payload 0 != 1 || !peerUp s src then s
    else
      let head := beAt payload 4 8
      if s.pwr.mode = .hearth then
        if hearthBusy s then answer src 4 0 head s else beginRecv src payload false (beginHearth 2 0 s)
      else
        let b := updTarget s
        let x := getSlot s b
        match [s.upd.a, s.upd.b].find? (fun y => y.headId == head && heldCode y.st != 0) with
        | some y => answer src (heldCode y.st) 0 head s
        | none =>
          if updBusy s then answer src 4 0 head s
          else if x.st == .scheduled || s.upd.a.st == .trial || s.upd.b.st == .trial then answer src 5 0x28 head s
          else beginRecv src payload (x.st == .staging && x.headId == head && (tabFind x.blocks 0).isSome) s)

/-- Ends the transfer being received with a STATUS. -/
def endRecv (x : Recv) (code detail : Nat) (s : State) : State :=
  answer x.src code detail x.headId (modUpd (fun u => { u with recv := none }) s)

/-- The last block has passed: staging is completed (R546), or in Hearth mode the download goes on to its checks (R560). -/
def recvComplete (x : Recv) (flash : FlashResult) (s : State) : State :=
  if s.pwr.mode = .hearth then
    modUpd (fun u => { u with recv := none, hearth := { u.hearth with st := 2 } }) (uartLine 2 s)
  else
    let b := updTarget s
    let slot := getSlot s b
    let differs := match flash with | .differs _ => true | _ => false
    if (imageKey s (slotHead slot)).isNone then endRecv x 5 0x26 (slotBad b s)
    else if differs || !payloadOk slot then endRecv x 5 0x27 (slotBad b s)
    else
      let s := endRecv x 2 0 (updEvent 0 (slotState b .staged s))
      each (onward s x.route) (fun q t => offerTo b x.route (.line (Fin.ofNat 8 q)) t) s

/-- Length of a block of the image being received. -/
def blockLen (h : Bytes) (i : Nat) : Nat := if i = 0 then 65536 else chunkLen h (i - 1)

/-- A whole block has arrived. -/
def blockArrived (x : Recv) (data : Bytes) (flash : FlashResult) (s : State) : State :=
  let b := recvSlot s
  let bad := match flash with | .failed _ => true | _ => false
  if x.block = 0 then
    if headIdOf data != x.headId || beAt data 28 2 != x.chunks then s
    else match headCheck s data with
      | some d =>
        endRecv x 5 d (if s.pwr.mode = .hearth then modUpd (fun u => { u with hearth := { u.hearth with st := 3, detail := d } }) s else s)
      | none =>
        let s := beginSlot b data s
        if bad then endRecv x 5 0x2B s
        else
          let s := putBlock b 0 data s
          sendNeed (modUpd (fun u => { u with recv := u.recv.map (fun y => { y with headOk := true })
                                              hearth := { u.hearth with blocks := 1 } }) s)
  else if !chunkOk (slotHead (getSlot s b)) (x.block - 1) data then s
  else if bad then endRecv x 5 0x2B s
  else
    let s := putBlock b x.block data s
    let s := modUpd (fun u => { u with recv := u.recv.map (fun y => { y with since := y.since + 1 })
                                       hearth := { u.hearth with blocks := (getSlot s b).blocks.length } }) s
    if (missingBlocks (getSlot s b) x.chunks).isEmpty then recvComplete x flash s
    else if 8 ≤ x.since + 1 then sendNeed s else s

def execPiece (src : UpdPeer) (payload : Bytes) (flash : FlashResult) (s : State) : Host.Outcome State Fault Refusal :=
  .next (match s.upd.recv with
    | none => s
    | some x =>
      let i := beAt payload 2 2
      let slot := getSlot s (recvSlot s)
      if payload.length != 1032 || byteAt payload 0 != 3 || x.src != src || !peerUp s src then s
      else
        let now := monoUs s
        let x := { x with last := now, lastPiece := some now }
        let s := modUpd (fun u => { u with recv := some x }) s
        if x.chunks < i || (i == 0) == x.headOk || (x.headOk && (tabFind slot.blocks i).isSome) then s
        else
          let old := if x.block = i then x.parts else []
          let x := { x with block := i, parts := tabPut old (byteAt payload 4) (payload.drop 8) }
          let len := blockLen (slotHead slot) i
          if x.parts.length = ceilDiv len 1024 then
            let y := { x with parts := [] }
            blockArrived y ((x.parts.flatMap (·.2)).take len) flash (modUpd (fun u => { u with recv := some y }) s)
          else modUpd (fun u => { u with recv := some x }) s)

/-- 2 s without a piece: NEED is sent, once in each silence. -/
def execNeedTimer (s : State) : Host.Outcome State Fault Refusal :=
  .next (match s.upd.recv with
    | none => s
    | some x => match x.lastPiece with
      | none => s
      | some t =>
        let s := elapseTo (t + 2000000) s
        sendNeed (modUpd (fun u => { u with recv := some { x with lastPiece := none } }) s))

/-! ### Sending an image (R550) -/

/-- The pieces of a block. -/
def pieces (data : Bytes) (i : Nat) : List Bytes := (List.range (ceilDiv data.length 1024)).map (fun k => pieceMsg i k data)

def execNeed (src : UpdPeer) (payload : Bytes) (s : State) : Host.Outcome State Fault Refusal :=
  .next (
    let head := beAt payload 4 8
    if payload.length != 40 || byteAt payload 0 != 2 || !peerUp s src then s
    else match s.upd.sends.find? (fun x => x.dst == src && x.headId == head) with
      | none => s
      | some _ =>
        let slot := getSlot s (updTarget s)
        let s := modUpd (fun u => { u with sends := u.sends.map (fun y =>
          if y.dst = src then { y with last := monoUs s } else y) }) s
        let wanted := (List.range 224).filter (fun i => bit (beAt payload 12 28) i)
        each (wanted.flatMap (fun i => pieces ((tabFind slot.blocks i).getD []) i)) (fun m t => sendMsg src m t) s)

/-- What a STATUS does to the PUSH: a target has reached STAGED, or refuses. -/
def pushStatus (dst : UpdPeer) (code detail : Nat) (s : State) : State :=
  match s.upd.push with
  | none => s
  | some p =>
    if !p.open_.contains dst then s
    else if code = 2 ∨ code = 3 ∨ code = 6 then
      pushDone (modUpd (fun u => { u with push := some { p with open_ := p.open_.filter (· != dst), staged := p.staged + 1 } })
        (modFlight p.op (fun f => { f with units := p.staged + 1 }) s))
    else if code = 4 ∨ code = 5 then
      let p := { p with lastCode := code, lastDetail := detail }
      let s := modUpd (fun u => { u with push := some p }) s
      match dst with
      | .line q => pushDone (pushClosed q.val true s)
      | .eth _ _ => pushDone (modUpd (fun u => { u with push := some { p with open_ := p.open_.filter (· != dst), refused := p.refused + 1 } }) s)
    else s

/-- What a STATUS does to the SCHEDULE that waits for it. -/
def schedStatus (pos code : Nat) (s : State) : State :=
  match s.upd.schedOp with
  | none => s
  | some (r, wait, n) =>
    if wait.contains pos && (code == 3 || code == 5 || code == 7) then
      let m := if code = 3 then n + 1 else n
      schedDone (modUpd (fun u => { u with schedOp := some (r, wait.filter (· != pos), m) }) (modFlight r (fun f => { f with units := m }) s))
    else s

def execTransportStatus (src : UpdPeer) (payload : Bytes) (s : State) : Host.Outcome State Fault Refusal :=
  .next (
    if payload.length != 16 || byteAt payload 0 != 4 || !peerUp s src then s
    else
      let pos := byteAt payload 1
      let code := byteAt payload 2
      let head := beAt payload 4 8
      let ver := if s.upd.a.headId = head then s.upd.a.ver else if s.upd.b.headId = head then s.upd.b.ver else 0
      let s := modUpd (fun u => { u with
        peers := if 1 ≤ pos ∧ pos ≤ 7 then
            tabPut u.peers pos ⟨code, byteAt payload 3, beAt payload 12 2, head, ver⟩ else u.peers
        sends := if code = 1 then u.sends.map (fun x => if x.dst = src then { x with last := monoUs s } else x)
          else u.sends.filter (fun x => !(x.dst == src && x.headId == head)) }) s
      if s.sys.trailer then sendData 0 0x03 0 payload none s
      else
        let dst : UpdPeer := match src with
          | .eth _ _ => src
          | .line q => .line (if pos < 8 ∧ pos ≠ 0 then Fin.ofNat 8 pos else q)
        schedStatus pos code (pushStatus dst code (byteAt payload 3) s))

/-- Drops the transfer being sent that has been idle since `t`. -/
def dropIdle (t : Nat) (s : State) : State :=
  match s.upd.sends.find? (fun x => x.last == t) with
  | none => s
  | some x =>
    let s := modUpd (fun u => { u with sends := u.sends.filter (fun y => y.dst != x.dst) }) s
    if (s.upd.push.map (fun p => p.open_.contains x.dst)).getD false then
      match x.dst with
      | .line q => pushDone (pushClosed q.val false s)
      | .eth _ _ => pushDone (modUpd (fun u => { u with push := u.push.map (fun p =>
          { p with open_ := p.open_.filter (· != x.dst), silent := p.silent ++ [0] }) }) s)
    else s

/-- Gives up the transfer that has been idle since `t`. -/
def giveUpIdle (t : Nat) (s : State) : State :=
  match s.upd.recv with
  | some x =>
    if x.last = t then modUpd (fun u => { u with
      recv := none, hearth := if u.hearth.st = 1 then { u.hearth with st := 3 } else u.hearth }) s
    else dropIdle t s
  | none => dropIdle t s

/-- 10 s without a message in either direction: the transfer idle longest is abandoned. -/
def execTransferAbandon (s : State) : Host.Outcome State Fault Refusal :=
  .next (match minList ((s.upd.recv.map (·.last)).toList ++ s.upd.sends.map (·.last)) with
    | none => s
    | some t => giveUpIdle t (elapseTo (t + 10000000) s))

/-! ### Schedules on the chain (R552) -/

/-- SCHED at a receiver: the deadline is its TIME_MONO at receipt plus LEAD_MS. -/
def execSched (src : UpdPeer) (payload : Bytes) (s : State) : Host.Outcome State Fault Refusal :=
  .next (
    let head := beAt payload 4 8
    if payload.length != 32 || byteAt payload 0 != 5 || !peerUp s src || !s.sys.ready then s
    else
      let x : Schedule := { windowH := beAt payload 28 2, due := monoUs s + 1000 * beAt payload 20 8, sentAt := monoUs s }
      match [false, true].find? (fun b => (getSlot s b).headId == head && ((getSlot s b).st == .staged || (getSlot s b).st == .scheduled)) with
      | none => answer src 5 0x29 head s
      | some b =>
        let set := fun (u : Upd) => withSlot b (fun y => { y with st := .scheduled }) { u with actAt := beAt payload 12 8, sched := some x, lapse := 0 }
        answer src 3 0 head (if (getSlot s b).st = .staged then journal set s else modUpd set s))

def execUnsched (src : UpdPeer) (payload : Bytes) (s : State) : Host.Outcome State Fault Refusal :=
  .next (
    let head := beAt payload 4 8
    if payload.length != 12 || byteAt payload 0 != 6 || !peerUp s src then s
    else match scheduledSlot s with
      | some b =>
        if (getSlot s b).headId = head ∧ (s.upd.sched.any (fun x => x.by_.isNone)) then answer src 2 0 head (unschedule b s) else s
      | none => s)

/-- Every 60 s in Cab and Drive, until the deadline, SCHED goes out again to every scheduled unit. -/
def execSchedRepeat (s : State) : Host.Outcome State Fault Refusal :=
  .next (match s.upd.sched, scheduledSlot s with
    | some x, some b =>
      if x.by_.isSome && s.sys.ready && (s.pwr.mode == .cab || s.pwr.mode == .drive) then
        let s := elapseTo (x.sentAt + 60000000) s
        if (deadline s).all (fun t => decide (monoUs s < t)) then
          each ((routePositions x.route).filter (fun q => (peerOf s q).code == 3 && (peerOf s q).headId == (getSlot s b).headId)) sendSched
            (modUpd (fun u => { u with sched := u.sched.map (fun y => { y with sentAt := monoUs s }) }) s)
        else s
      else s
    | _, _ => s)

end Sys2Proof.Machine
end

