-- ==== Sys2Proof/Machine/Reset.lean ====
section
/-! DEFINITION. What a reset does to the fields of every block, and what becomes of the work in flight (R33, R39, R42, R132,
R606). A passage through Parked counts as a warm reset and one through Dormant as a cold reset (R88). -/

namespace Sys2Proof.Machine

/-! ### The blocks -/

/-- RW selectors, MSI-X registers and live ring fields go back to their numbers; ring set-up, state and indices are kept in the
ledger. The HOST link stays up through a warm reset, after which the host sets VF Enable again (log entry 91). -/
def resetHost (cold : Bool) (h : HostBlk) : HostBlk :=
  { h with
    funcs := [], vecs := []
    rings := h.rings.map (fun e => (e.1, { e.2 with armed := false, modPend := 0, modAt := none, peek := none }))
    vfEn := true, linkSpeed := if cold then 0 else h.linkSpeed, linkWidth := if cold then 0 else h.linkWidth
    laneRev := !cold && h.laneRev, laneInv := if cold then 0 else h.laneInv }

/-- The Counter Bank keeps its fields through a warm reset (R210); the angle inputs start afresh, and the AON's clocks go on. -/
def resetClk (cold : Bool) (c : Clk) : Clk :=
  { c with
    onRc := false, clkSwitching := false, crank := {}, cam := {}, prop := {}, ref := .time, switching := none, switchEnd := 0,
    propSince := 0, posHeld := 0, events := 0, wheelLast := none, wheelPer := none, canRoad := 0, canRoadAt := none, canRpm := 0,
    canRpmAt := none, windows := []
    cnts := if cold then c.cnts.map (fun _ => {}) else c.cnts, cntSel := if cold then 0 else c.cntSel
    cntVec := if cold then 0 else c.cntVec }

/-- Units out of service for a fault are checked again; by-passed and retired ones stay out (R76, R575, R586). -/
def resetFlt (cold : Bool) (b : Flt) : Flt :=
  { b with
    units := b.units.filter (fun e => e.2 == .bypassed || e.2 == .retired)
    shadowOk := false, dbgLevel := 0, dbgEnd := 0, events := b.events &&& 0x20
    irqVec := if cold then 0 else b.irqVec, irqSev := if cold then 1 else b.irqSev, irqEn := !cold && b.irqEn
    canBusoff := 0, canStuck := 0, pmicStuck := false, pmicIrqStuck := false, slkMismatch := 0, coexStuck := 0, alarms := []
    testBusy := false, testType := 0, testIndex := 0, testResult := 0, testSlices := 0, testOp := none }

/-- The random source's self-test runs at every cold reset, and at a warm one that SEC_RNG_SELFTEST_REQ asks for (R529): it retests every
source, whose counts begin anew. -/
def resetSec (cold : Bool) (now : Nat) (b : Sec) : Sec :=
  let test := cold || b.selfTestReq
  { b with
    alarmEnd := none, keyEvents := b.keyEvents &&& 3, laneSel := 0, lanes := startLanes b.lanes, cntCph := 0, cntTagFail := 0,
    drbg := if test then {} else { b.drbg with waits := [] }, cond := List.replicate 4 0, condAt := now,
    rng := if test then .init else b.rng, selfTest := test, selfTestReq := !cold && b.selfTestReq, srcSel := 0, rngEvents := 0,
    pkeLast := 0, cntPke := 0, reseeds := 0
    sources := if test then b.sources.map (fun _ => {}) else b.sources.map (fun x => { x with cause := 0 }) }

/-- The latch, its cause and the FRESH counts are kept; R333 applies after the next release. -/
def resetSlk (b : Slk) : Slk :=
  { b with
    tokenLost := false, tokenUnknown := false, timerKind := 0, timerEnd := none, winCap := 0, winDue := false, retry := [],
    frameAt := none, portOff := 0, busOffAt := [], activeAt := [], events := b.events &&& 8, noReleaseDone := false,
    reconciled := false, reconcileAt := none }

/-- The directory engine rests until replay; what the ledger and the custody store hold is kept, and through a warm reset the table
of a READY directory with no change under way (R478). -/
def resetDir (cold : Bool) (b : Dir) : Dir :=
  let keep := !cold && b.st == 2 && b.pending.isNone
  { b with st := if keep then 2 else 0, pct := if keep then 100 else 0, grants := [], snapLeft := 0, snapSegs := [], events := 0, nsSel := 0, nodeSel := 0, nodes := [] }

/-- The TCNT of each Near-list entry from the latest record of its TID (R251). -/
def latestTcnts (tcnts : Tab Nat) (l : List NearEntry) : List NearEntry :=
  l.map (fun e => { e with tcnt := (tabFind tcnts e.tid).getD e.tcnt })

/-- Polls, soundings and tracks are lost; the Near list and the TCNTs are kept. -/
def resetRadio (cold : Bool) (b : Radio) : Radio :=
  { b with
    tracks := [], pres := [], poll := none, fits := [], locates := [], touchNext := none, presenceDue := false,
    approachDue := false, lfEvents := 0, cntTx := 0, cntRxOk := 0, cntNofit := 0, lfSel := 0
    lfCh := b.lfCh.map (fun e => (e.1, { spare := e.2.spare }))
    uhfSel := 0, uhfEvents := 0, cntSound := 0, cntRelay := 0, cntCoex := 0, uhfCh := [], emissions := [], coexReq := 0, coexPri := false,
    startWait := none, startDue := none, session := none, heldFrame := none, near := if cold then latestTcnts b.tcnts b.near else b.near
    cabPeriod := if cold then 0x19 else b.cabPeriod, drivePeriod := if cold then 0x14 else b.drivePeriod
    approach := if cold then 0 else b.approach }

def resetNfc (cold : Bool) (b : Nfc) : Nfc :=
  { detPeriod := if cold then 0x14 else b.detPeriod, wtxCeil := if cold then 0x3E8 else b.wtxCeil
    maxRate := if cold then 3 else b.maxRate, reqId := b.reqId }

/-- Every node is discovered afresh (R412); the positions freed are remembered for 60 s (R406). -/
def resetIfl (now : Nat) (b : Ifl) : Ifl :=
  { ports := b.ports.map (fun _ => {}), freed := b.nodes.foldl (fun l e => freedBy now e.2 e.1 l) b.freed, inbox := b.inbox, resyncAt := now, statusAt := now }

/-- The drives are found again; records being written are dropped, what the store and the stripe map hold is kept, and each port the drive of
the store that it had (R444). -/
def resetCus (b : Cus) : Cus :=
  { b with
    drives := b.drives.map (fun x => { was := if x.st = .online ∨ x.st = .worn then x.unit else x.was })
    jobs := [], drainStep := 0, full := false, sel := 0, events := 0 }

/-- Transfers end; the slots, the journal and the banks are flash, and the slot that runs is chosen anew at the fuse load's end. -/
def resetUpd (b : Upd) : Upd :=
  { b with handover := .none, trialSince := none, recv := none, sends := [], push := none, events := 0, hearth := {} }

/-- Live PWR fields; the AON's are kept. The rails' good bits follow the rails. -/
def resetPwr (p : Pwr) : Pwr :=
  { p with
    parking := .none, railFault := 0, pmicFault := false, vkeepLow := false, dieTemp := 0, dorming := none
    pins := p.pins.map (fun x => { x with masked := false })
    window := none, windowToken := false, cabAfter := false, govLevel := 0, vcoreMv := 0, slice := none, driveQuiet := none,
    serviceEnd := none, selfTest := none }

/-- SYS_SCRATCH is RWS, and SYS_LOCK_SETUP goes only with a cold reset (R603). -/
def resetSys (cold : Bool) (b : Sys) : Sys :=
  { b with ready := false, scratch := if cold then 0 else b.scratch, lockSetup := !cold && b.lockSetup }

/-! ### Work in flight -/

/-- Whether a frame of a relay has gone out. -/
def relaySent (s : State) (x : Relay) : Bool :=
  x.accepted != 0 || s.ifl.ports.any (fun p => p.unacked.any (fun t => t.frame.op == some x.op))

/-- The fates of operations whose external effect the reset cuts short: a seal command sent and not confirmed (R365), a relay
with frames sent (R422). -/
def brokenOps (s : State) : List (Nat × FateRec × Option PartRec) :=
  (s.nfc.xs.filterMap (fun x => match getFlight s x.op with
    | some f =>
      if x.outstanding then
        some (x.op, failFate fPartial 0x28,
          some { kind := 0x0A, ten := f.ten, unit := (x.readers.head?).getD 0, sealId := fieldLE f.raw 32 8, seq := dSeq f.raw })
      else none
    | none => none)) ++
  ((s.ifl.relays.filter (relaySent s)).map (fun x =>
    (x.op, if x.accepted = 0 then failFate fNotStarted 0x22
      else { failFate fPartial 0x22 with units := x.accepted, result := x.accepted }, none)))

/-- An operation that goes on where it stood: a writ that has taken effect, a SCHEDULE that has, and those of `brokenOps`. -/
def keepsOn (s : State) (broken : List (Nat × FateRec × Option PartRec)) (r : Nat) : Bool :=
  s.slc.settling.any (fun x => x.op == r) || (s.upd.schedOp.map (·.1)) == some r || broken.any (fun e => e.1 == r) ||
    (s.dir.pending.any (fun p => p.op == r && p.rid != 0))

/-- Every other operation with no fate starts again from its beginning (R33, R578). -/
def requeue (s : State) : State :=
  let b := brokenOps s
  modSys (fun x => { x with broken := x.broken ++ b }) (modHost (fun h => { h with
    flights := h.flights.zipIdx.map (fun e =>
      if e.1.begun && e.1.fate.isNone && !keepsOn s b e.2 then { e.1 with begun := false, stage := 0, units := 0 } else e.1) }) s)

/-! ### The resets -/

/-- A change still without its delta is made again from its beginning (R469). -/
def dropChange (d : Dir) : Dir := { d with pending := d.pending.filter (fun p => p.rid != 0) }

/-- Every block reset, warm or cold. The outputs COEX_REQ and COEX_PRI go low with their fields. -/
def resetBlocks (cold : Bool) (s : State) : State :=
  let now := monoUs s
  let s := requeue s
  let s := each [0, 1] (fun m t => onlyIf (vio18 t && t.radio.coexReq.getLsbD m) (emit (.pin (20 + m) 0)) t) s
  let s := onlyIf (vio18 s && s.radio.coexPri) (emit (.pin 22 0)) s
  { s with
    host := resetHost cold s.host, clk := resetClk cold s.clk, flt := resetFlt cold s.flt, sec := resetSec cold now s.sec
    slk := resetSlk s.slk, dir := dropChange (resetDir cold s.dir), radio := resetRadio cold s.radio, cap := {}
    nfc := resetNfc cold s.nfc, ifl := resetIfl now s.ifl, cus := resetCus s.cus, upd := resetUpd s.upd, pwr := resetPwr s.pwr
    sys := resetSys cold s.sys }

/-- What a cold reset loses besides: the LPDDR4X's contents. -/
def coldReset (s : State) : State := modDir (fun d => { d with table := [] }) (resetBlocks true s)

/-- The time from which TIME_MONO resumes after AON loss (R207), and everything else the AON island held. -/
def loseAon (s : State) : State :=
  let s := modClk (fun c => { c with ns := 1000 * (c.ledgerUs + 1000000), rtcFrom := c.ledgerUs + 1000000, wallSet := false, wallBase := 0, lastSet := none,
                                     rtcOnRc := false, rtcCal := 0 }) s
  let s := modPwr (fun p => { p with
    aonLost := true, wakeCause := 0, dormDays := 21, dormHours := 0, alarmAt := none, passiveUnlock := none }) s
  let s := modSlk (fun b => { b with code := 0x3C, comp := 0xC3, cause := 0x0D, tTransition := monoUs s, events := 0 }) s
  let s := modFlt (fun b => { b with tamper := 0, tamperOwed := false, events := b.events &&& 0xDF }) s
  let s := modSec (fun b => { b with starter := [], starterChk := [], tamperLog := [], keyEvents := 0 }) s
  let s := modSlc (fun b => { b with wardens := s.fuse.wardens ++ List.replicate 6 ({} : Warden) }) s
  modHost (fun h => { h with rings := h.rings.map (fun e => (e.1, ({ seqHi := e.2.seqHi, era := e.2.era } : Ring))) }) s

end Sys2Proof.Machine
end

