-- ==== Sys2Proof/Machine/Power.lean ====
section
/-! DEFINITION. Supplies, start-up from VAON good to release, Hearth entry, warm and full resets, checkpoints (R21–R25, R41, R82,
R84, R95–R101, R132, R138, R455, R486, R542, R601, R602). -/

namespace Sys2Proof.Machine

/-! ### Beginning a start-up -/

/-- The steward pair that is active from a reset on: A after a cold one, the one that wrote the last checkpoint after a warm one,
and never a pair out of service (R21). -/
def pickPair (cold : Bool) : State → State :=
  modPwr (fun p => { p with activeB := if p.aOut then true else if p.bOut || cold then false else p.ckptB })

/-- A checkpoint in the ledger: each ring's TR_CI and the pair that wrote it (R21, R22, R138). -/
def takeCheckpoint (s : State) : State :=
  if canLog .checkpoint s then
    modPwr (fun p => { p with ckptB := p.activeB })
      (modHost (fun h => { h with rings := h.rings.map (fun e => (e.1, { e.2 with trCiRec := e.2.trCi })) }) (logRec .checkpoint s))
  else s

/-- The enables of a start-up, and those of Hearth mode, where VDD2 and VDDQ are off (R80). -/
def raiseDue : State → State := raiseEach [0, 1, 2, 3]
def raiseHearth : State → State := raiseEach [0, 1, 2]

/-- Enters Hearth mode (R24, R41, R98): the blocks are reset, the LPDDR4X's rails fall, those that Parked had off rise, and the cause is
kept for the fault record of the next release (R573). The counters leave the RTC's rate with Parked (R210). -/
def enterHearth (cause : Nat) (s : State) : State :=
  let slow := cntSlow s
  let s := lowerEnable 3 (resetBlocks false s)
  let s := onlyIf slow cntRateChange (modPwr (fun p => { p with mode := .hearth, start := .settled }) s)
  trainLink (raiseHearth
    (modUpd (fun u => { u with running := none }) (modFlt (fun b => { b with hearthCause := cause, hearthOwed := true }) s)))

/-- The start-up sequence begins: from step 1, or from the fuse load when the EN1 group is good already (R95). -/
def startUp (cause modeStart : Nat) (s : State) : State :=
  raiseDue (modPwr (fun p => { p with
    mode := .cab, start := if groupGood s 1 then .fusing else .rails, modeStart := BitVec.ofNat 8 modeStart })
    (modSys (fun b => { b with resetCause := BitVec.ofNat 4 cause }) s))

/-- A cold reset that Hearth ROM starts. -/
def fullReset (cause : Nat) (s : State) : State :=
  startUp cause (if s.pwr.aonLost then 0x05 else 0x04) (pickPair true (coldReset s))

/-! ### VAON and VKEEP (R25, R84, R95, R99–R101) -/

def execVaonGood (s : State) : Host.Outcome State Fault Refusal :=
  .next (
    if s.pwr.vaon then s
    else
      let s := modPwr (fun p => { p with vaon := true }) (pickPair true (coldReset s))
      drivePins (startUp 0x1 (if s.pwr.aonLost then 0x05 else 0x01) s))

def execVaonBrownOut (s : State) : Host.Outcome State Fault Refusal :=
  .next (
    if s.pwr.vaon then
      let s := fromRtc (lowerFrom 0 (linkDown (coldReset s)))
      drivePins (modPwr (fun p => { p with
        vaon := false, mode := if p.mode = .dormant then .dormant else .cab, start := .off }) s)
    else s)

/-- The AON island follows VAON; no AON state changes (R84). -/
def execAonSupplyChangeover (s : State) : Host.Outcome State Fault Refusal :=
  .next (modPwr (fun p => { p with onVkeep := !p.vaon }) s)

/-- AON state is lost only without VAON; the loss shows at the next power-up (R25, R85). -/
def execAonLoss (s : State) : Host.Outcome State Fault Refusal := .next (if s.pwr.vaon then s else loseAon s)

/-- VKEEP is measured with VAON good; below 2.2 V is reported (R100, R102). The rail has no number of its own in PWR_RAIL. -/
def execVkeepLow (mv : BitVec 12) (s : State) : Host.Outcome State Fault Refusal :=
  .next (
    if s.pwr.vaon then
      let low := decide (mv.toNat < 2200)
      let s' := modPwr (fun p => { p with vkeepMv := mv, vkeepLow := low }) s
      if low && !s.pwr.vkeepLow then fault uRail 0xFF 0x02 sDegraded 0x00 0 mv.toNat s' else s'
    else s)

/-! ### The switched rails (R82, R100) -/

/-- A rail leaves its range: its good bit falls, its fault bit is set, and it is reported. -/
def railLost (rail : Nat) (s : State) : State :=
  fault uRail rail 0x02 sDegraded 0x00 0 rail (modPwr (fun p => { p with
    railGood := p.railGood &&& ~~~ BitVec.ofNat 9 (2 ^ rail), railFault := setBits p.railFault rail }) s)

/-- VCORE or VSRAM: Hearth ROM starts a full reset, and the rail is recorded. The start-up goes on when the group is good again. -/
def execVcoreBrownOut (vsram : Bool) (s : State) : Host.Outcome State Fault Refusal :=
  .next (
    if s.pwr.vaon && s.pwr.en.getLsbD 1 then
      let rail := 3 + ofBool vsram
      let s := modPwr (fun p => { p with railGood := p.railGood &&& ~~~ BitVec.ofNat 9 (2 ^ rail), enAt := monoUs s }) s
      modPwr (fun p => { p with railFault := setBits p.railFault rail }) (fullReset 0x7 s)
    else s)

/-- VDD2 or VDDQ: the LPDDR4X counts as failed and the directory's table is gone (R40, R100). -/
def execDramRailFault (vddq : Bool) (s : State) : Host.Outcome State Fault Refusal :=
  .next (
    let rail := 7 + ofBool vddq
    if s.pwr.railGood.getLsbD rail then modDir (fun d => { d with st := 0, pct := 0, table := [] }) (railLost rail s) else s)

/-- UHF_CH_FAULT_EV: chains that were in service have left it with their rail or clock (R302). -/
def chainsLeave (s : State) : State :=
  onlyIf ((List.range 8).any (fun k => fitted s pUhf k && unitSt s pUhf k == .up)) (uhfEvent 0) s

/-- NFC_RD_FAULT_EV: readers that were in service have left it with their rail (R375). -/
def readersLeave (s : State) : State :=
  onlyIf ((List.range 8).any (fun k => fitted s pNfc k && unitSt s pNfc k == .up)) (nfcEvent 0) s

/-- What stands on VIO33, VRF or VLFDRV stops: exchanges with cards end as if the card were gone, the nodes behind the Ifeven
ports are lost, a poll on air ends (R76, R100). -/
def portsLost (rail : PortRail) (s : State) : State :=
  match rail with
  | .vio33 => lfCut (passiveEnds (readersLeave (each (List.range 8) readerLost s)))
  | .vrf => chainsGone (chainsLeave (each (List.range 4) (fun p t => portDown p .down 3 t) s))
  | .vlfdrv => lfCut (passiveEnds s)

def execPortRailFault (rail : PortRail) (s : State) : Host.Outcome State Fault Refusal :=
  .next (
    let n := match rail with | .vio33 => 0 | .vrf => 1 | .vlfdrv => 2
    if s.pwr.railGood.getLsbD n then portsLost rail (railLost n s) else s)

/-- The links of the drives drop (R100, R438). -/
def drivesDrop (s : State) : State :=
  each (List.range 4) (fun d t =>
    if (getDrive t d).link then
      modDrive d (fun y => if y.st = .online ∨ y.st = .worn then { y with link := false, downAt := some (monoUs t) }
        else { y with link := false, st := .absent, unit := none }) t
    else t) s

/-- The ports that cannot be used on the RC (R205). -/
def clockPorts : List (Nat × Nat) :=
  (List.range 8).map (pUhf, ·) ++ (List.range 4).map (pIfl, ·) ++ (List.range 2).map (pEth, ·) ++ (List.range 4).map (pNvm, ·)

/-- Reports each of those ports as out of service or as returned (R76). -/
def clockReports (out : Bool) (s : State) : State :=
  each clockPorts (fun p t => onlyIf (fitted t p.1 p.2 && unitSt t p.1 p.2 == .up)
    (if out then reportUnit p.1 p.2 0x02 sDegraded 0x04 else reportUnit p.1 p.2 0x09 sInfo 0x09) t) s

/-- The end of the 64-cycle window: abandoned when XTAL25 has shown 32 consecutive good periods, otherwise the PLL is on
the RC and the units that need XTAL25 leave service: a sounding on air starts again and waits, the nodes behind the Ifeven ports are lost and the
drives' links drop (R204, R205). -/
def execClockSwitchWindowEnd (recovered : Bool) (s : State) : Host.Outcome State Fault Refusal :=
  .next (
    if s.clk.clkSwitching then
      if recovered then modClk (fun c => { c with clkSwitching := false, events := setBits c.events 5 }) s
      else
        let s := fault uClock 0 0x02 sDegraded 0x02 0 0 (modClk (fun c => { c with clkSwitching := false, onRc := true }) s)
        chainsGone (chainsLeave (drivesDrop (each (List.range 4) (fun p t => portDown p .down 3 t) (clockReports true s))))
    else s)

def execXtal25Return (s : State) : Host.Outcome State Fault Refusal :=
  .next (if s.clk.onRc then
      let s := clockReports false (fault uClock 0 0x09 sInfo 0x09 0 0 (modClk (fun c => { c with onRc := false }) s))
      onlyIf s.radio.poll.isNone nextPoll s
    else s)

def execLinkRailFault (serdes : Bool) (s : State) : Host.Outcome State Fault Refusal :=
  .next (
    let n := 5 + ofBool serdes
    if s.pwr.railGood.getLsbD n then
      drivesDrop (linkDown (onlyIf (!serdes) (coexPins false) (railLost n s)))
    else s)

/-- The enable group of a rail. -/
def railGroup (rail : Nat) : Nat := if rail < 3 then 0 else if rail < 5 then 1 else if rail < 7 then 2 else 3

/-- A rail whose enable is high is good again: links train, and with both its rails good the LPDDR4X is rebuilt (R100). -/
def execRailGoodReturn (rail : Fin 9) (s : State) : Host.Outcome State Fault Refusal :=
  .next (
    if s.pwr.en.getLsbD (railGroup rail.val) && s.pwr.start == .settled && !s.pwr.railGood.getLsbD rail.val then
      let s := modPwr (fun p => { p with railGood := setBits p.railGood rail.val }) s
      let s := writeFault uRail rail.val 0x09 sInfo 0x09 0 rail.val s
      let s := trainLink (onlyIf (rail.val == 5) (coexPins true) s)
      if 7 ≤ rail.val && dramUp s && s.sys.ready then startRebuild s else s
    else s)

/-- What waited for the wake slice goes on: a button frame that came while it had no power, then a touch or an APPROACH poll (R82, R90). -/
def sliceServes (s : State) : State :=
  let s := match s.radio.heldFrame with
    | some fr => buttonFrame fr (modRadio (fun b => { b with heldFrame := none }) s)
    | none => s
  onlyIf s.radio.poll.isNone nextPoll s

/-- A group is good in Parked: the wake slice's work goes on, and a ledger drain's next enable rises. -/
def parkedGroupGood (g : Nat) (s : State) : State :=
  let s := onlyIf s.pwr.ledgerDrain (raiseEach [2, 3]) s
  onlyIf (g == 1 && s.pwr.slice.isSome) (fun t => sliceServes (slicePowered t)) s

/-- A group that Parked raised is not good in time: the part stays in Parked, and what waited for the rails is given up. -/
def parkedGroupLate (s : State) : State :=
  modRadio (fun b => { b with touchNext := none, approachDue := false, heldFrame := none })
    (modPwr (fun p => { p with slice := if groupGood s 1 then p.slice else none, dorming := if groupGood s 1 then p.dorming else none,
                               ledgerDrain := false }) s)

/-- Every rail of a group is good: the next enable rises while the part starts up, and good VCORE and VSRAM start the fuse load. -/
def execEnableGroupGood (g : Fin 4) (s : State) : Host.Outcome State Fault Refusal :=
  .next (
    if s.pwr.en.getLsbD g.val && !groupGood s g.val then
      let s := modPwr (fun p => { p with railGood := p.railGood ||| groupRails g.val, waking := p.waking && g.val != 0 }) s
      let s := onlyIf (g.val == 2) (coexPins true) s
      if s.pwr.mode = .parked ∧ s.pwr.start = .settled then parkedGroupGood g.val s
      else if s.pwr.mode = .hearth then trainLink (raiseHearth s)
      else if s.pwr.start = .settled ∨ s.pwr.start = .off then s
      else raiseDue (modPwr (fun p => { p with start := if g.val = 1 ∧ p.start = .rails then .fusing else p.start }) s)
    else s)

/-- The start-up that runs is a resume from Parked. -/
def resuming (s : State) : Bool := s.sys.resetCause == 0x2

/-- The lowest enable that falls when group `g` is not good in time: `g`'s own, and PMIC_EN1 too when a resume ends, since VCORE and
VSRAM stand in Parked only for the wake slice or a resume (R80, R82). -/
def fallsFrom (s : State) (g : Nat) : Nat := if s.pwr.start != .settled && resuming s then min g 1 else g

/-- A group is not good within 10 ms: that enable and the later ones fall, and the part stays in the mode it was leaving: Dormant,
Parked, or none at all. -/
def execEnableGroupTimeout (g : Fin 4) (s : State) : Host.Outcome State Fault Refusal :=
  .next (
    if s.pwr.en.getLsbD g.val && !groupGood s g.val then
      let s := lowerFrom (fallsFrom s g.val) (elapseTo (s.pwr.enAt + 10000) s)
      let s := modPwr (fun p => { p with railFault := p.railFault ||| groupRails g.val }) s
      let s := fault uRail 0xFF 0x02 sDegraded 0x00 0 g.val s
      if s.pwr.waking then
        modPwr (fun p => { p with
          mode := .dormant, start := .settled, waking := false, window := none, hourAt := p.hourAt - monoUs s }) s
      else if s.pwr.start = .settled then onlyIf (s.pwr.mode == .parked) parkedGroupLate s
      else if resuming s then modPwr (fun p => { p with mode := .parked, start := .settled }) (fromRtc s)
      else modPwr (fun p => { p with start := .off }) s
    else s)

/-! ### Step 3: the boot slot (R542) -/

/-- Slots in these states may be booted (R541). -/
def mayBoot : SlotSt → Bool
  | .trial | .active | .standby => true
  | .empty | .staging | .staged | .scheduled | .bad => false

/-- A trial slot has failed: BAD, with UPD_REVERT_EV (R555). -/
def trialFails (b : Bool) (s : State) : State := updEvent 6 (slotState b .bad s)

/-- Step 3 of R542: the slot that fails verification is BAD, and the other one boots if it is STANDBY and verifies. -/
def trySlot (b : Bool) (s : State) : Option Bool × State :=
  let x := (getSlot s b).st
  if mayBoot x && bootable s b then (some b, s)
  else
    let s := if x = .trial then trialFails b s else if mayBoot x then slotState b .bad s else s
    if (getSlot s (!b)).st == .standby && bootable s (!b) then
      (some (!b), journal (fun u => withSlot (!b) (fun y => { y with st := .active }) { u with boot := !b }) s)
    else (none, s)

/-- The slot in TRIAL. -/
def trialSlot (s : State) : Option Bool := if s.upd.a.st = .trial then some false else if s.upd.b.st = .trial then some true else none

/-- Hearth ROM's choice of the boot slot. -/
def bootChoice (s : State) : Option Bool × State :=
  match trialSlot s with
  | some b =>
    let s := journal (fun u => { u with tries := u.tries + 1 }) s
    if s.upd.tries ≤ 3 then trySlot b s
    else
      trySlot (!b) (journal (fun u => withSlot (!b) (fun y => { y with st := .active }) { u with boot := !b }) (trialFails b s))
  | none => trySlot s.upd.boot s

/-- The fuse load ends with the EN2 group good: a slot boots, or the part enters Hearth mode: with no pair in service (R21), whose
FLT_HEARTH_CAUSE the spec does not give (a free value), or with no slot that verifies. -/
def execFuseLoadEnd (s : State) : Host.Outcome State Fault Refusal :=
  .next (
    if s.pwr.start == .fusing && groupGood s 2 then
      if s.pwr.aOut && s.pwr.bOut then
        enterHearth (byteAt (freeBytes s 1) 0 % 8) (drawn 1 s)
      else match bootChoice s with
        | (some b, t) =>
          modPwr (fun p => { p with start := .config }) (modUpd (fun u => { u with running := some b }) t)
        | (none, t) => enterHearth 2 t
    else s)

/-! ### Step 4: configuration (R76–R78, R83, R95, R486, R607) -/

/-- The records in force from their best copies; an absent or invalid one reads none. -/
def loadCfg (rs : List (Nat × CfgRec)) : CfgSet :=
  rs.foldl (fun c x => match x.2.body with
    | .board b => { c with board := some b }
    | .power p => { c with power := some p }
    | .lf l => { c with lf := some l }
    | .uhf u => { c with uhf := some u }
    | .ifl i => { c with ifl := some i }
    | .custody k => { c with custody := some k }
    | .cap l => { c with cap := some l }
    | .role _ => c) {}

/-- The role record's role: trailer, or the tractor without one. -/
def loadRole (rs : List (Nat × CfgRec)) : Bool :=
  rs.foldl (fun t x => match x.2.body with | .role v => v | _ => t) false

/-- The WAKE pins' fields of the power record. -/
def loadPins (p : Option PowerRec) (pins : List WakePin) : List WakePin :=
  pins.zipIdx.map (fun e => match p with
    | some r => let c := nth ⟨3, false, 0⟩ r.pins e.2; { e.1 with role := c.role, pol := c.pol, thresh := c.thresh }
    | none => { e.1 with role := 3, pol := false, thresh := 0 })

/-- SLK1 is driven as a second output of the latch: the board record fits it. -/
def slk1Fitted (s : State) : Bool := match board s with | some b => b.slk1 | none => false

/-- Ports that the records in force no longer fit are driven no more, and those newly fitted are (R75): SLK1, and the COEX outputs. -/
def portsRefit (old s : State) : State :=
  let s := if slk1Fitted old && !slk1Fitted s then emit (.pin 11 2) s else onlyIf (!slk1Fitted old && slk1Fitted s) drivePins s
  each [0, 1] (fun m t => if fitted old pCoex m && !fitted t pCoex m then emit (.pin (20 + m) 2) t
    else onlyIf (!fitted old pCoex m && fitted t pCoex m && vio18 t) (emit (.pin (20 + m) (ofBool (t.radio.coexReq.getLsbD m)))) t) s

/-- Takes the valid records into force. -/
def takeRecords (s : State) : State :=
  let rs := validRecs s
  let c := loadCfg rs
  portsRefit s (modPwr (fun p => { p with pins := loadPins c.power p.pins })
    (modSys (fun b => { b with trailer := loadRole rs }) (modCfg (fun _ => c) s)))

/-- Reports every TYPE without a valid record. -/
def reportRecords (s : State) : State :=
  let have_ := (validRecs s).map (fun x => x.2.type)
  each ((List.range 8).map (· + 1)) (fun ty t =>
    if have_.contains ty then t else writeFault uRecord ty 0x06 sDegraded 0x00 0 ty t) s

/-- A unit that the part's own checks at release find faulty; a port counts only when it is fitted. -/
def checkUnit (u : UnitName) (s : State) : State :=
  let k := u.kind.toNat
  let isPort := [pLf, pUhf, pNfc, pCap, pIfl, pAng, pCan, pEth, pNvm, pWake, pTmesh, pDsense, pCoex].contains k
  let isUnit := [uHash, uPke, uDram, uSyn, uClock].contains k
  if k = uPmic then
    if !pmicKnown s then s else fault uPmic 0 0x03 sDegraded 0x00 0 0 (modFlt (fun b => { b with pmicStuck := true }) (modPwr (fun p => { p with pmicFault := true }) s))
  else if !isUnit && !(isPort && fitted s k u.num.toNat) then s
  else
    let up := unitSt s k u.num.toNat == .up
    let s := onlyIf (k == pUhf && up) (fun t => uhfEvent 0 (modUhfCh u.num.toNat (fun x => { x with fault := 2 }) t)) s
    let s := onlyIf (k == uSyn && up) (uhfEvent 1) s
    outOfService k u.num.toNat 0x02 sDegraded 0 s

/-- The values VCORE passes through from `a` to `b`, each at most 10 mV from the one before; the last is `b` (R83). -/
def vcoreSteps (a b : Nat) : List Nat :=
  (List.range (max 1 (ceilDiv (max a b - min a b) 10))).map (fun i =>
    if a ≤ b then min b (a + 10 * (i + 1)) else max b (a - 10 * (i + 1)))

/-- One write of the PMIC's output register, 100 µs after the one before (R83). -/
def writeVcore (mv : Nat) (s : State) : State :=
  match s.cfg.board, s.cfg.power with
  | some b, some p =>
    emit (.pmic b.pmicAddr.toNat p.vcoreReg.toNat mv p.vcoreSlope)
      (modPwr (fun x => { x with vcoreMv := BitVec.ofNat 10 mv, vcoreSet := some mv }) (elapseNs 100000 s))
  | _, _ => s

/-- With a board and a power record the part sets VCORE within 0.75 V to 0.85 V, from the PMIC's default or the last value it wrote;
the default, and where inside the range the part sets it, are free values (R78, R83). A stuck bus is left alone. -/
def setVcore (s : State) : State :=
  if pmicKnown s && !s.flt.pmicStuck then
    let b := freeBytes s 2
    let start := s.pwr.vcoreSet.getD (750 + byteAt b 0 % 101)
    each (vcoreSteps start (750 + byteAt b 1 % 101)) writeVcore (drawn 2 s)
  else s

def execConfigurationLoad (bad : List UnitName) (s : State) : Host.Outcome State Fault Refusal :=
  .next (
    if s.pwr.start == .config && groupGood s 3 then
      let s := reportRecords (takeRecords s)
      let s := setVcore (each bad checkUnit s)
      modPwr (fun p => { p with start := .replay }) (checkStarter s)
    else s)

/-! ### Step 5: the ledger, and step 6: release (R33, R37, R42, R132, R138, R139, R162, R207, R455) -/

/-- Whether a class needs a key of the vault: a token, record, seal or tag key, a handle, or a key of the tree (R42, R487). -/
def needsKey (opc : Nat) : Bool :=
  [0x0200, 0x0202, 0x0300, 0x0402, 0x0403, 0x0404, 0x0600, 0x0601, 0x0603, 0x0702, 0x0703, 0x0704, 0x0705, 0x0800, 0x0801, 0x0802,
    0x0803, 0x0806, 0x0F04].contains opc || opc / 256 == 0x09

/-- Ends every operation without a fate that needs a key of the vault (R42, R489). -/
def endKeyWork (s : State) : State :=
  each (List.range s.host.flights.length) (fun r t => match getFlight t r with
    | some f => if f.fate.isNone && f.dupOf.isNone && needsKey (dOpc f.raw) then settle r (failFate fDevice 0x18) t else t
    | none => t) s

/-- A ring after replay: its state and set-up as the ledger holds them, TR_CI as recorded, and every slot from there on to be written again. A
ring in RUNNING is armed (R132, R138, R139). -/
def replayRing (rg : Ring) : Ring :=
  let rg := { rg with setup := rg.recorded, inForce := rg.recorded, st := rg.ledSt, mute := rg.mute && rg.st == rg.ledSt }
  if rg.st = .disabled then rg
  else { rg with trCi := rg.trCiRec, trWrite := rg.trCiRec, armed := rg.st == .running }

/-- Stamps and finish tags are V at every release (R162), the internal tenancy's among them. -/
def stampAll (s : State) : State :=
  let v := virtualNow s
  modHost (fun h => { h with flights := h.flights.map (fun f => { f with stamp := v }) })
    (modCus (fun c => { c with finish := v, topStamp := v, jobs := c.jobs.map (fun j => { j with stamp := v }) })
    (modSlc (fun b => { b with vtime := v, topStamp := v, run := b.run.map (fun e => (e.1, { e.2 with finish := v })) }) s))

/-- Operations whose external effect the reset cut short get their fates, with the record that goes with them (R39). -/
def settleBroken (s : State) : State :=
  let s := each s.sys.broken (fun e t =>
    settle e.1 e.2.1 (match e.2.2 with | some p => logPart p t | none => t)) s
  modSys (fun b => { b with broken := [] }) s

/-- The activation whose ledger record has no journal entry (R39, R552). -/
def activationOwed (s : State) : Option Bool :=
  (s.led.log.filterMap (fun r => match r.kind with
    | .other 552 n => if s.upd.actLsn < r.lsn then some (n != 0) else none
    | _ => none)).getLast?

/-- The journal entry of an activation (R552). -/
def activate (b : Bool) (lsn : Nat) : State → State :=
  journal (fun u =>
    let u := withSlot b (fun y => { y with st := .trial }) u
    let u := withSlot (!b) (fun y => { y with st := if y.st = .active then .standby else y.st }) u
    { u with boot := b, tries := 0, actAt := 0, actLsn := lsn, sched := none })

/-- The fault record that an entry to Hearth mode still owes (R573). The UNIT_TYPE of one without a verified slot is not given
(a free value). -/
def hearthRecord (s : State) : State :=
  if s.flt.hearthOwed then
    let ty := if s.flt.hearthCause = 1 then uPair else if s.flt.hearthCause = 3 then uLedger else byteAt (freeBytes s 1) 0 % 32
    modFlt (fun b => { b with hearthOwed := false })
      (writeFault ty 0xFF 0x02 sLost 0x07 0 s.flt.hearthCause (drawn 1 s))
  else s

/-- TAMPER_LOG entries of a ZEROISE without VAON are reported at release (R588). -/
def tamperRecord (s : State) : State :=
  if s.flt.tamperOwed then
    modFlt (fun b => { b with tamperOwed := false }) (writeFault uTamper 0xFF 0x08 sAlarm 0x08 0 0 s)
  else s

/-- A release under a TRIAL slot sets TRIES to 0; its 300 s begin (R542, R555). -/
def trialRelease (s : State) : State :=
  match s.upd.running with
  | some b =>
    if (getSlot s b).st = .trial then
      modUpd (fun u => { u with trialSince := some (monoUs s) }) (journal (fun u => { u with tries := 0 }) s)
    else s
  | none => s

/-- Parked entry begins: the sluice stops accepting (R86 step 1). None begins while the PMIC bus is stuck (R582). -/
def beginParking (s : State) : State :=
  if s.pwr.mode = .cab ∧ s.sys.ready ∧ s.pwr.parking = .none ∧ s.flt.pmicStuck = false then
    modPwr (fun p => { p with parking := .draining, cabAfter := false }) s
  else s

/-- Release. The 600 s of R86 run from here until a doorbell is rung (DESIGN CHOICE, log entry 82). -/
def release (s : State) : State :=
  let now := monoUs s
  let exit := s.flt.hearthOwed
  let s := modSys (fun b => { b with ready := true }) s
  let s := modPwr (fun p => { p with
    mode := .cab, start := .settled, checkpointAt := now + 1000, lastDoorbell := now, aonLost := false }) s
  let s := modSlk (fun b => { b with reconcileAt := some (now + 250000), hearthExit := exit }) s
  let s := modRadio (fun b => { b with presenceAt := now, approachAt := now, nearUsable := true }) s
  let s := modFlt (fun b => { b with shadowOk := !(s.pwr.aOut || s.pwr.bOut) }) s
  let s := modCus (fun c => { c with drives := c.drives.map (fun x => { x with downAt := x.was.map (fun _ => now) }) }) s
  let s := tamperRecord (hearthRecord (trainLink s))
  let s := trialRelease (linksReleased s)
  let s := heldDoorbells s
  let s := onlyIf (s.dir.st != 2) startRebuild s
  lowBatteryAnew (sendState s)

/-! ### Warm resets, the watchdog and checkpoints (R22, R24, R601, R602, R606) -/

/-- A warm reset: the rails stay, and the start-up runs again from the fuse load. In Hearth mode the part is in Hearth mode again. -/
def warmReset (cause : Nat) (s : State) : State :=
  if s.pwr.mode = .hearth then modSys (fun b => { b with resetCause := BitVec.ofNat 4 cause }) (resetBlocks false s)
  else if s.sys.ready then
    let warm := pickPair false (resetBlocks false s)
    startUp cause warm.pwr.modeStart.toNat warm
  else s

/-- A PCIe hot reset, or a function-level reset of the physical function. -/
def execWarmReset (flr : Bool) (s : State) : Host.Outcome State Fault Refusal :=
  .next (if linkUp s then warmReset (if flr then 0x4 else 0x3) s else s)

/-- Neither pair has kicked the AON watchdog for 12 ms. -/
def execWatchdogExpiry (s : State) : Host.Outcome State Fault Refusal :=
  .next (
    if s.sys.ready || s.pwr.mode == .hearth || s.pwr.start == .config || s.pwr.start == .replay then
      enterHearth 1 (modSys (fun b => { b with resetCause := 0x6 }) s) else s)

/-- The checkpoint of every 1 ms: each ring's TR_CI is recorded (R22, R138). -/
def execCheckpoint (s : State) : Host.Outcome State Fault Refusal :=
  .next (
    if working s then
      let s := elapseTo s.pwr.checkpointAt s
      takeCheckpoint (modPwr (fun p => { p with checkpointAt := monoUs s + 1000 }) s)
    else s)

end Sys2Proof.Machine
end

