-- ==== Sys2Proof/Machine/Parking.lean ====
section
/-! DEFINITION. Parked entry, Parked, Dormant and the wake from it, the WAKE pins, the wake slice and the ends of Service and of
a debug unlock (R26, R85–R93, R102, R310, R415, R444, R581, R582, R590, R592, R605). -/

namespace Sys2Proof.Machine

/-! ### Leaving Parked (R85, R87, R88, R95) -/

/-- What Parked keeps running through a resume: the chain, the polls and tokens' traces, and the electrodes. -/
def keptInParked (old s : State) : State :=
  { s with
    ifl := { old.ifl with relays := [], sel := 0, linkEv := 0, cntRetx := 0, cntLost := 0
                          ports := old.ifl.ports.map (fun x => { x with
                            events := 0, cntPre := 0, cntHcrc := 0, cntPcrc := 0, cntRxOk := 0, cntTx := 0 }) }
    radio := { s.radio with poll := old.radio.poll, fits := old.radio.fits,
                            touchNext := old.radio.touchNext }
    cap := { old.cap with sel := 0, events := 0 } }

/-- A resume from Parked: the start-up sequence from step 2, with the blocks as after a warm reset. -/
def resume (modeStart : Nat) (s : State) : State :=
  let warm := keptInParked s (resetBlocks false s)
  startUp 0x2 modeStart (cntRateChange (pickPair false warm))

/-- A Cab trigger: it resumes the part from Parked, abandons a Parked entry before its step 5, and is kept after it. -/
def cabTrigger (s : State) : State :=
  if s.pwr.mode = .parked ∧ s.pwr.start = .settled ∧ s.pwr.vaon then resume 0x02 s
  else if s.pwr.parking = .shutting then modPwr (fun p => { p with cabAfter := true }) s
  else abandonParking s

/-! ### Parked entry (R86, R87, R444) -/

def execPwrParkReq (func : Fin 64) (s : State) : Host.Outcome State Fault Refusal :=
  .next (if pfRegs s func then beginParking s else s)

def execPwrParkCancel (func : Fin 64) (s : State) : Host.Outcome State Fault Refusal :=
  .next (if pfRegs s func then abandonParking s else s)

/-- 600 s without a doorbell, with no IGN-role pin asserted. -/
def execParkedEntryIdle (s : State) : Host.Outcome State Fault Refusal :=
  .next (
    if s.sys.ready && s.pwr.mode == .cab && s.pwr.parking == .none && !ignAsserted s then
      beginParking (elapseTo (s.pwr.lastDoorbell + 600000000) s)
    else s)

/-- Step 2 is done: every accepted descriptor has its fate, and every fate that can be posted has been. -/
def drained (s : State) : Bool :=
  s.host.flights.all (fun f => f.fate.isSome) &&
    s.host.rings.all (fun e => e.2.st == .disabled || e.2.mute || e.2.trWrite == e.2.trPi)

/-- Steps 3 and 4, with the lock request of Parked entry; the drives begin to shut down. -/
def execParkedEntryDrained (s : State) : Host.Outcome State Fault Refusal :=
  .next (
    if s.pwr.parking == .draining && drained s then
      let s := lockRequest 0x07 0xFFFF 0 (tryLog .parkedEntry (takeCheckpoint s))
      modPwr (fun p => { p with parking := .shutting }) s
    else s)

/-- A drive after its shutdown: one that did not report complete within 2 s is out of service until the next release. -/
def shutDrive (done : BitVec 4) (d : Nat) (s : State) : State :=
  let x := getDrive s d
  let s := onlyIf (x.st == .online || x.st == .worn) (emit (.nvme d .shutdown)) s
  let s := modDrive d (fun y => { y with link := false, st := if y.st = .online ∨ y.st = .worn then y.st else .absent }) s
  if (x.st = .online ∨ x.st = .worn) ∧ done.getLsbD d = false then outOfService pNvm d 0x02 sDegraded 0 s else s

/-- Work that ends with the fabric: the directory's table, exchanges with cards, transfers, a PRESENCE poll, coexistence. -/
def fabricDown (s : State) : State :=
  let s := modDir (fun d => { d with st := 0, pct := 0, table := [] }) s
  let s := modNfc (fun b => { b with xs := [] }) s
  let s := modUpd (fun u => { u with handover := .none, recv := none, sends := [], push := none, trialSince := none }) s
  drivePri false (driveReq 0 (modRadio (fun b => { b with
    poll := match b.poll with
      | some p => if p.kind = .presence then none else some p
      | none => none
    presenceDue := false, startWait := none, session := none, startDue := none }) s))

/-- The part is in Parked: PMIC_EN3 to PMIC_EN1 have fallen, and the hours of R92 and the APPROACH period run from now. -/
def enterParked (s : State) : State :=
  let now := monoUs s
  let s := modSys (fun b => { b with ready := false }) (lowerFrom 1 (wakeLane (fabricDown (fromRtc (readersOff s)))))
  let s := modPwr (fun p => { p with
    mode := .parked, start := .settled, parking := .none, dormHours := 0, hourAt := now + 3600000000, slice := none,
    driveQuiet := none, cabAfter := false }) s
  lowBatteryAnew (modRadio (fun b => { b with approachAt := now }) (cntRateChange s))

/-- Step 5: the drives are down and the part is in Parked, unless a Cab trigger has come since. -/
def execDriveShutdownComplete (done : BitVec 4) (s : State) : Host.Outcome State Fault Refusal :=
  .next (
    if s.pwr.parking = .shutting then
      let again := s.pwr.cabAfter
      let s := enterParked (linksParked (linkDown (each (List.range 4) (shutDrive done) s)))
      onlyIf again (resume 0x02) s
    else s)

/-! ### The end of replay (R85, R95, R455) -/

/-- AON loss recovery ends with no Cab trigger present: the part is in Parked, with no release (R85). -/
def recoveredToParked (s : State) : State :=
  modRadio (fun b => { b with nearUsable := true }) (enterParked (modPwr (fun p => { p with aonLost := false }) s))

/-- Replay ends: `aGood` and `bGood` say which halves pass their replay checks. -/
def execLedgerReplay (aGood bGood : Bool) (s : State) : Host.Outcome State Fault Refusal :=
  .next (
    if s.pwr.start == .replay then
      let a := aGood && !s.led.aFailed
      let b := bGood && !s.led.bFailed
      if !a && !b then enterHearth 3 s
      else
        let s := modLed (fun l => { l with aRefill := if a || l.aFailed then l.aRefill else 960
                                           bRefill := if b || l.bFailed then l.bRefill else 960 }) s
        let s := modHost (fun h => { h with rings := h.rings.map (fun e => (e.1, replayRing e.2)) }) s
        let s := settleBroken s
        let s := onlyIf s.pwr.aonLost endKeyWork s
        let s := deltaCopied s
        let s := match activationOwed s with
          | some n => activate n s.led.lsn s
          | none => s
        let s := stampAll s
        if s.pwr.aonLost && !ignAsserted s then recoveredToParked s else release s
    else s)

/-! ### Dormant entry and wake (R89–R91) -/

/-- Dormant entry, step 1, and the wake slice for step 2: polling and listening stop, the Trickle windows among them. None begins while the
PMIC bus is stuck (R582). `bits` are set in PWR_WAKE_CAUSE. Steps 2 and 3 begin when no command waits (log entry 83). -/
def enterDormant (cause : Nat) (bits : BitVec 12) (s : State) : State :=
  if s.pwr.mode = .parked ∧ s.pwr.start = .settled ∧ s.pwr.vaon ∧ s.pwr.dorming = none ∧ s.flt.pmicStuck = false then
    let s := modPwr (fun p => { p with wakeCause := p.wakeCause ||| bits, window := none, dorming := some cause }) s
    let s := onlyIf (s.radio.poll.any (fun p => p.kind != .presence)) (fun t => match t.radio.poll with
      | some p => stopCarrier p t
      | none => t) s
    let s := modIfl (fun b => { b with ports := b.ports.map (fun x => { x with searchUntil := 0 }) }) s
    modRadio (fun b => { b with poll := none, fits := [], touchNext := none, approachDue := false }) (useSlice s)
  else s

/-- Step 2, once the wake slice's rails are good: the Near list, sealed, and the entry's cause go to the ledger. Step 3: PMIC_EN1 and
PMIC_EN0 fall and the Watch domain is switched off. -/
def dormantOff (s : State) : State :=
  if s.pwr.mode == .parked && s.pwr.start == .settled && sliceUp s then match s.pwr.dorming with
   | some cause =>
    let s := tryLog (.dormantEntry cause) (tryLog (.other 89 s.radio.near.length) s)
    let s := lowerFrom 0 (pickPair true (coldReset s))
    let s := modRadio (fun b => { b with nearUsable := false }) s
    modPwr (fun p => { p with mode := .dormant, dorming := none, hourAt := p.hourAt - monoUs s }) s
   | none => s
  else s

/-- A wake event from the sources that wake Dormant: PWR_WAKE_CAUSE bit `b`. Without VAON it is latched; in Dormant the part goes
to Parked and its 60 s window opens; a Dormant entry before its step 3 is abandoned. -/
def wake (b : Nat) (s : State) : State :=
  if !s.pwr.vaon then modPwr (fun p => { p with wakeCause := setBits (setBits p.wakeCause b) 11 }) s
  else if s.pwr.mode = .dormant then
    let now := monoUs s
    let s := modPwr (fun p => { p with
      wakeCause := setBits p.wakeCause b, mode := .parked, window := some (now + 60000000), windowToken := false
      hourAt := now + p.hourAt, waking := true }) s
    lowBatteryAnew (raiseEnable 0 (modRadio (fun r => { r with approachAt := now }) s))
  else if s.pwr.mode = .parked ∧ s.pwr.dorming.isSome then
    modPwr (fun p => { p with wakeCause := setBits p.wakeCause b, dorming := none }) s
  else s

/-- The Near list is unsealed on the wake slice, whose rails must be good (R82, R90). -/
def execNearListRestored (s : State) : Host.Outcome State Fault Refusal :=
  .next (
    if s.pwr.mode == .parked && s.pwr.start == .settled && groupGood s 0 && !s.radio.nearUsable then
      let near := if vaultOk s then s.radio.near else []
      let s := useSlice s
      onlyIf (sliceUp s) (modRadio (fun b => { b with nearUsable := true, near := latestTcnts b.tcnts near })) s
    else s)

/-- The wake window ends: with an authenticated token seen the part stays in Parked. -/
def execWakeWindowEnd (s : State) : Host.Outcome State Fault Refusal :=
  .next (match s.pwr.window with
    | some t =>
      if s.pwr.mode = .parked ∧ s.pwr.start = .settled then
        let s := elapseTo t s
        if s.pwr.windowToken then modPwr (fun p => { p with window := none }) s else enterDormant 3 0 s
      else s
    | none => s)

/-! ### The dormancy timer, low battery and the RTC alarm (R92, R93, R605) -/

def execDormancyHour (s : State) : Host.Outcome State Fault Refusal :=
  .next (
    if s.pwr.mode == .parked && s.pwr.start == .settled && s.pwr.vaon then
      let s := elapseTo s.pwr.hourAt s
      let s := modPwr (fun p => { p with dormHours := p.dormHours + 1, hourAt := p.hourAt + 3600000000 }) s
      if 24 * s.pwr.dormDays ≤ s.pwr.dormHours then enterDormant 1 0x400 s else s
    else s)

/-- The VBAT-role pins that read below their thresholds, and since when. -/
def lowPins (s : State) : List Nat :=
  (((List.range 4).zip s.pwr.pins).filter (fun e => portUp s pWake e.1 && e.2.role == 2 && !e.2.above)).map (fun e => e.2.since)

def execLowBattery (s : State) : Host.Outcome State Fault Refusal :=
  .next (match lowPins s with
    | [] => s
    | a :: rest =>
      let due := rest.foldl min a + 60000000
      if s.flt.pmicStuck then s
      else if s.pwr.mode = .parked ∧ s.pwr.start = .settled ∧ s.pwr.vaon then enterDormant 2 0x200 (elapseTo due s)
      else if s.pwr.mode = .cab ∧ s.sys.ready then
        let s := modPwr (fun p => { p with wakeCause := setBits p.wakeCause 9 }) (elapseTo due s)
        onlyIf (!ignAsserted s) beginParking s
      else s)

/-- A write of PWR_ALARM; SYS_LOCK_SETUP refuses it (R603). -/
def execPwrAlarmS (func : Fin 64) (v : BitVec 32) (s : State) : Host.Outcome State Fault Refusal :=
  .next (
    if regsUp s && func.val == 0 && !s.sys.lockSetup then
      modPwr (fun p => { p with alarmAt := if v = 0 then none else some (monoUs s + 1000000 * v.toNat) }) s
    else s)

/-- The alarm's count reaches 0: PWR_WAKE_RTC in any mode, and in Dormant a wake event. -/
def execRtcAlarm (s : State) : Host.Outcome State Fault Refusal :=
  .next (match s.pwr.alarmAt with
    | some t =>
      let s := modPwr (fun p => { p with alarmAt := none, wakeCause := setBits p.wakeCause 5 }) (elapseTo t s)
      wake 5 s
    | none => s)

/-! ### WAKE pins and doors (R85, R90, R96, R102) -/

def modPin (n : Nat) (f : WakePin → WakePin) : State → State := modPwr (fun p => { p with pins := modAt p.pins n f })
def getPin (s : State) (n : Nat) : WakePin := nth {} s.pwr.pins n
/-- A pin at its asserted level. -/
def asserted (x : WakePin) : Bool := x.above == x.pol

/-- The 2 s of R310 run from the moment the last IGN-role pin is deasserted. -/
def ignTimer (was : Bool) (s : State) : State :=
  let is_ := ignAsserted s
  if is_ then modSlk (fun b => { b with ignOffAt := none }) s
  else if was then modSlk (fun b => { b with ignOffAt := some (monoUs s) }) s
  else s

/-- A pin crosses its threshold; an EDGE or IGN pin's deglitch starts. -/
def execWakePinCrossing (pin : Fin 4) (above : Bool) (s : State) : Host.Outcome State Fault Refusal :=
  .next (
    let x := getPin s pin.val
    if portUp s pWake pin.val && x.role != 3 && x.above != above then
      let was := ignAsserted s
      let s := modPin pin.val (fun y => { y with above := above, since := monoUs s, deglitch := y.role != 2 }) s
      if x.role = 2 then s else ignTimer was s
    else s)

/-- An IGN-role pin is asserted with the part awake: a Cab trigger, and the end of Service and of a HALT. -/
def ignitionOn (s : State) : State :=
  if s.pwr.mode = .service then
    leaveService (onlyIf (s.flt.dbgLevel == 2) (modFlt (fun b => { b with dbgLevel := 0, dbgEnd := 0 })) s)
  else cabTrigger s

/-- The deglitch of a pin ends: an asserted EDGE or IGN pin that is not masked is a wake event; any IGN change opens a
supply-step window (R415). -/
def execWakeEvent (pin : Fin 4) (s : State) : Host.Outcome State Fault Refusal :=
  .next (
    let x := getPin s pin.val
    if portUp s pWake pin.val && x.deglitch then
      let s := modPin pin.val (fun y => { y with deglitch := false }) (elapseTo (x.since + 1000) s)
      let ign := x.role == 1
      let s := onlyIf (ign && (linkMode s || s.pwr.mode == .parked)) supplyStep s
      if asserted x && !x.masked then
        if !s.pwr.vaon then wake pin.val s
        else if s.pwr.mode = .dormant then onlyIf ign (resume 0x03) (wake pin.val s)
        else
          let s := onlyIf (s.pwr.mode == .parked) (modPwr (fun p => { p with
            wakeCause := setBits p.wakeCause pin.val, dorming := none })) s
          onlyIf ign ignitionOn s
      else s
    else s)

/-- A cab door is opened within 30 s of a passive unlock. -/
def doorTrigger (d : Nat) (high : Bool) (s : State) : Bool :=
  high && (match s.cfg.power with | some p => p.cabDoors.getLsbD d | none => false) &&
    (match s.pwr.passiveUnlock with | some t => decide (monoUs s ≤ t + 30000000) | none => false)

def execDsenseChange (d : Fin 8) (high : Bool) (s : State) : Host.Outcome State Fault Refusal :=
  .next (
    if portUp s pDsense d.val && s.pwr.dsense.getLsbD d.val != high then
      let s := modPwr (fun p => { p with dsense := if high then setBits p.dsense d.val else p.dsense &&& ~~~ BitVec.ofNat 8 (2 ^ d.val) }) s
      onlyIf (doorTrigger d.val high s) cabTrigger s
    else s)

/-! ### Stuck WAKE pins (R581) -/

/-- A WAKE pin is masked: an EDGE pin asserted for 10 s, an IGN pin still asserted 10 s after the 600 s of R86 with the engine not
turning. -/
def execWakeStuck (pin : Fin 4) (s : State) : Host.Outcome State Fault Refusal :=
  .next (
    let x := getPin s pin.val
    if portUp s pWake pin.val && asserted x && !x.masked && (x.role == 0 || (x.role == 1 && !turning s)) && s.pwr.vaon then
      let due := if x.role = 0 then x.since + 10000000 else max x.since (s.pwr.lastDoorbell + 600000000) + 10000000
      let was := ignAsserted s
      let s := modPin pin.val (fun y => { y with masked := true }) (elapseTo due s)
      ignTimer was (fault pWake pin.val 0x03 sDegraded 0x05 0 0 s)
    else s)

/-- A masked pin has been deasserted for 2 s. -/
def execWakeUnmask (pin : Fin 4) (s : State) : Host.Outcome State Fault Refusal :=
  .next (
    let x := getPin s pin.val
    if x.masked && !asserted x then
      writeFault pWake pin.val 0x09 sInfo 0x09 0 0
        (modPin pin.val (fun y => { y with masked := false }) (elapseTo (x.since + 2000000) s))
    else s)

/-! ### The wake slice, Service and debug (R26, R590, R592) -/

/-- 2 s after its last use the wake slice powers down. -/
def execWakeSlicePowerDown (s : State) : Host.Outcome State Fault Refusal :=
  .next (match s.pwr.slice with
    | some t =>
      if s.pwr.mode = .parked ∧ s.pwr.start = .settled ∧ s.pwr.dorming = none then
        modPwr (fun p => { p with slice := none }) (lowerEnable 1 (elapseTo (t + 2000000) s))
      else s
    | none => s)

/-- The duration of Service has passed. -/
def execServiceEnd (s : State) : Host.Outcome State Fault Refusal :=
  .next (match s.pwr.serviceEnd with
    | some t => if s.pwr.mode = .service ∧ serviceWork s = false ∧ s.flt.dbgLevel ≠ 2 then leaveService (elapseTo t s) else s
    | none => s)

/-- DURATION_S of a DEBUG_UNLOCK ends. -/
def execDebugDurationEnd (s : State) : Host.Outcome State Fault Refusal :=
  .next (if s.flt.dbgLevel = 0 then s else closeDebug (elapseTo s.flt.dbgEnd s))

/-! ### Time left alone -/

/-- With no command waiting 1 µs passes, in which a Dormant entry takes its step 3 and a propshaft found overdue is lost (log
entries 1 and 83). -/
def idle (s : State) : State :=
  let s := dormantOff (elapseNs 1000 s)
  onlyIf (angleOn s) (propWatch s.clk.prop) s

end Sys2Proof.Machine
end

