-- ==== Sys2Proof/Machine/Activate.lean ====
section
/-! DEFINITION. Activation of a staged image, the handover of the steward pairs, its trial, and Hearth downloads (R552–R556, R560,
R561). -/

namespace Sys2Proof.Machine

/-! ### Activation (R552, R553) -/

/-- The modes and latch states in which a unit activates. -/
def mayActivate (s : State) : Bool :=
  s.pwr.vaon && s.pwr.start == .settled && !isRelease (latch s) &&
    ((s.pwr.mode == .cab && s.sys.ready && s.pwr.parking == .none) || s.pwr.mode == .parked || s.pwr.mode == .dormant)

/-- When the window of a schedule with this deadline ends, µs. -/
def windowEnd (s : State) (t : Nat) : Nat := t + 3600000000 * ((s.upd.sched.map (·.windowH)).getD 0)

/-- A unit scheduled by SCHED reports to position 0. -/
def reportUp (received : Bool) (code detail head : Nat) (s : State) : State :=
  onlyIf received (answer (.line 0) code detail head) s

/-- A schedule lapses with a DETAIL. -/
def lapse (b : Bool) (detail : Nat) (s : State) : State :=
  let received := s.upd.sched.any (fun x => x.by_.isNone)
  let s := modUpd (fun u => { u with lapse := detail }) (unschedule b s)
  reportUp received 7 detail (getSlot s b).headId (updEvent 3 (tryLog (.other 553 detail) s))

/-- The part of the commit's check under the scheduling tenancy's rights. -/
def schedulerHolds (s : State) : Bool :=
  match s.upd.sched.bind (·.by_) with
  | some (t, ep) => tenExists s t && (getTen s t).classMask.getLsbD 0x0C && (ep == 0 || ep == s.slc.epoch)
  | none => true

/-- Checks 5 and 6 of R545 again: the DETAIL of the first that fails. -/
def commitCheck (s : State) (h : Bytes) : Option Nat :=
  let b := boardInCfg s
  if hSecVer h < secFloor s then some 0x24
  else if ((bankRecs s).filter (fun x => recValid s b x.2)).all (fun x => fmtRead h x.2.format) then none else some 0x25

/-- The commit of an activation, on the wake slice in Parked once its rails are good (R82); in Cab the handover follows. Without its record
it lapses (R630). -/
def commitActivation (b : Bool) (s : State) : State :=
  let s := useSlice s
  if !sliceUp s then s
  else if !schedulerHolds s then lapse b 0 s
  else match commitCheck s (slotHead (getSlot s b)) with
    | some d => lapse b d s
    | none =>
      if canLog (.other 552 (ofBool b)) s then
        let received := s.upd.sched.any (fun x => x.by_.isNone)
        let s := logRec (.other 552 (ofBool b)) s
        let s := updEvent 2 (activate b s.led.lsn s)
        let s := reportUp received 6 0 (getSlot s b).headId s
        if s.pwr.mode = .cab then
          modFlt (fun x => { x with shadowOk := false }) (modUpd (fun u => { u with handover := .loading (monoUs s) }) s)
        else s
      else lapse b 0x1A s

def execActivationCommit (s : State) : Host.Outcome State Fault Refusal :=
  .next (match scheduledSlot s, deadline s with
    | some b, some t =>
      let s := elapseTo t s
      if !mayActivate s then s
      else if windowEnd s t < monoUs s then lapse b 0x2F s
      else commitActivation b (onlyIf (s.pwr.mode == .dormant) (wake 5) s)
    | _, _ => s)

/-- WINDOW_H hours after the deadline the conditions have still not held. -/
def execActivationLapse (s : State) : Host.Outcome State Fault Refusal :=
  .next (match scheduledSlot s, deadline s with
    | some b, some t => if mayActivate s then s else lapse b 0x2F (elapseTo (windowEnd s t) s)
    | _, _ => s)

/-! ### The handover and the trial (R554, R555) -/

/-- The records at a handover; those missing are reported (R77, R607), and a VCORE not set before is set (R83, R559). -/
def recordsAnew (s : State) : State := onlyIf (s.pwr.vcoreMv == 0) setVcore (reportRecords (takeRecords s))

/-- The part gives up the TRIAL slot `b`: BAD, and the other slot ACTIVE and running again. -/
def giveUp (b : Bool) (s : State) : State :=
  let s := journal (fun u => withSlot (!b) (fun y => { y with st := .active }) { withSlot b (fun y => { y with st := .bad }) u with boot := !b }) s
  let s := modUpd (fun u => { u with handover := .none, trialSince := none, running := some (!b) }) s
  updEvent 6 (recordsAnew s)

/-- A handover is abandoned. -/
def abandonHandover (s : State) : State :=
  match trialSlot s with
  | some b => updEvent 4 (tryLog (.other 554 (ofBool b)) (giveUp b s))
  | none => s

/-- Steps 1 and 2 have ended: the shadow takes over under the new firmware, and the former active pair shadows it. -/
def execHandoverShadowReady (s : State) : Host.Outcome State Fault Refusal :=
  .next (match s.upd.handover, trialSlot s with
    | .loading t, some b =>
      if monoUs s ≤ t + 2000000 ∧ s.pwr.aOut = false ∧ s.pwr.bOut = false ∧ s.pwr.selfTest = none then
        let s := modPwr (fun p => { p with activeB := !p.activeB }) s
        let s := modUpd (fun u => { u with running := some b, handover := .hold (monoUs s) }) s
        modFlt (fun x => { x with shadowOk := true }) (recordsAnew s)
      else s
    | _, _ => s)

def execHandoverTimeout (s : State) : Host.Outcome State Fault Refusal :=
  .next (match s.upd.handover with
    | .loading t =>
      let s := abandonHandover (elapseTo (t + 2000000) s)
      modFlt (fun x => { x with shadowOk := !s.pwr.aOut && !s.pwr.bOut && s.pwr.selfTest.isNone }) s
    | _ => s)

/-- The former active pair loads the new firmware and resumes shadowing. -/
def execHandoverHoldEnd (s : State) : Host.Outcome State Fault Refusal :=
  .next (match s.upd.handover with
    | .hold t => modUpd (fun u => { u with handover := .none }) (elapseTo (t + 10000000) s)
    | _ => s)

/-- The trial is confirmed: ACTIVE, and SEC_FLOOR raised in the ledger and the journal (R556). -/
def confirm (b : Bool) (s : State) : State :=
  let floor := max (secFloor s) (hSecVer (slotHead (getSlot s b)))
  let s := modUpd (fun u => { u with ledgerFloor := floor, trialSince := none }) (logRec (.other 556 floor) s)
  updEvent 5 (journal (fun u => withSlot b (fun y => { y with st := .active }) { u with secFloor := floor }) s)

def execTrialConfirm (s : State) : Host.Outcome State Fault Refusal :=
  .next (match s.upd.trialSince, trialSlot s with
    | some t, some b =>
      if s.sys.ready && (s.pwr.mode == .cab || s.pwr.mode == .drive) then
        let s := elapseTo (t + 300000000) s
        if canLog (.other 556 0) s then confirm b s else s
      else s
    | _, _ => s)

/-- What a steward failover means for a handover in its hold, or for a trial within its 300 s. -/
def failoverTrial (s : State) : State :=
  match s.upd.handover, s.upd.trialSince, trialSlot s with
  | .hold _, _, _ => abandonHandover s
  | _, some _, some b => giveUp b s
  | _, _, _ => s

/-! ### Hearth downloads (R560, R561) -/

/-- The registers of Hearth mode, reached by the physical function. -/
def hearthRegs (s : State) (func : Nat) : Bool := linkUp s && s.pwr.mode == .hearth && func == 0

/-- All of a download has arrived: Hearth ROM checks it. -/
def hearthCheck : State → State := fun s => uartLine 2 (modUpd (fun u => { u with hearth := { u.hearth with st := 2 } }) s)

/-- The writing of a download begins: its slot is STAGING. -/
def startSlot : State → State := journal (fun u => withSlot u.hearth.slotB (fun x => { x with st := .staging, blocks := [] }) u)

/-- Writes a download's bytes into its slot. -/
def fillSlot (data : Bytes) (s : State) : State :=
  let b := s.upd.hearth.slotB
  let h := slice data 0 65536
  let blocks := imageBlocks data
  let s := writeBlocks b blocks blocks.length (beginSlot b h s)
  modUpd (fun u => { u with hearth := { u.hearth with blocks := blocks.length } }) s

/-- A download ends in failure. The slot written becomes BAD. -/
def hearthFails (detail : Nat) (bad : Bool) (s : State) : State :=
  let s := if bad then slotState s.upd.hearth.slotB .bad s else s
  uartLine 3 (modUpd (fun u => { u with hearth := { u.hearth with st := 3, detail := detail } }) s)

/-- The registers let a download from host memory begin. -/
def mayGo (s : State) (func : Nat) (v : BitVec 32) : Bool :=
  hearthRegs s func && v.getLsbD 0 && !hearthBusy s && s.upd.hearth.src.toNat % 4096 == 0 && s.upd.recv.isNone

/-- A download from host memory has begun by a register write, and its bytes are still to be read. -/
def hostLoading (s : State) (func : Nat) : Bool := hearthRegs s func && s.upd.hearth.st == 1 && s.upd.hearth.used == 0

/-- A register write of 1 to UPD_HEARTH_GO: a download from host memory begins. UPD_HEARTH_GO brings what is read (log entry 80). -/
def hearthGo (func : Nat) (v : BitVec 32) (s : State) : State :=
  onlyIf (mayGo s func v) (fun t => beginHearth 0 t.upd.hearth.len.toNat t) s

/-- UPD_HEARTH_GO: the image is read from host memory; a read that fails ends the download with HOST_READ. -/
def execUpdHearthGo (func : Fin 64) (v : BitVec 32) (image : HostRead) (s : State) : Host.Outcome State Fault Refusal :=
  .next (
    let s := hearthGo func v s
    if hostLoading s func then
      match readBytes image s.upd.hearth.total with
      | some data => hearthCheck (fillSlot data s)
      | none => hearthFails 0x11 true (startSlot s)
    else s)

/-- The STANDBY slot, if there is one. -/
def standbySlot (s : State) : Option Bool := if s.upd.a.st = .standby then some false else if s.upd.b.st = .standby then some true else none

def execUpdHearthRevert (func : Fin 64) (v : BitVec 32) (s : State) : Host.Outcome State Fault Refusal :=
  .next (match standbySlot s with
    | some b =>
      if hearthRegs s func && v.getLsbD 1 && !hearthBusy s && s.upd.recv.isNone then
        hearthCheck (modUpd (fun u => { u with hearth := { u.hearth with slotB := b } }) (beginHearth 3 0 s))
      else s
    | none => s)

/-- The tool's extended identifier, and the part's; bit 31 stands for an extended identifier. -/
def toolId : Nat := 0x9CEF3200
def partId : Nat := 0x9CEF3201

/-- The answer to the tool (R561). -/
def hearthAnswer (s : State) : State :=
  let h := s.upd.hearth
  emit (.can 0 partId (le 1 0x81 ++ zeros 3 ++ be 4 h.got.length ++ le 1 h.st ++ zeros 55))
    (modUpd (fun u => { u with hearth := { u.hearth with canAt := monoUs s } }) s)

/-- A CAN download is being received. -/
def canLoading (s : State) : Bool := s.pwr.mode == .hearth && s.upd.hearth.st == 1 && s.upd.hearth.used == 1

def execHearthCanFrame (ident : BitVec 32) (data : Bytes) (s : State) : Host.Outcome State Fault Refusal :=
  .next (
    if !hearthPort s pCan 0 || ident.toNat != toolId || data.length != 64 then s
    else
      let op := byteAt data 0
      let at_ := 60 * beAt data 1 3
      if op = 1 then
        (if hearthBusy s || s.upd.recv.isSome then s
         else
           let s := beginHearth 1 (beAt data 4 4) s
           startSlot (modUpd (fun u => { u with hearth := { u.hearth with canAt := monoUs s } }) s))
      else if canLoading s && op == 2 then
        (if at_ ≤ s.upd.hearth.got.length then
           modUpd (fun u =>
             let got := u.hearth.got.take at_ ++ slice data 4 60 ++ u.hearth.got.drop (at_ + 60)
             let got := got.take u.hearth.total
             { u with hearth := { u.hearth with got := got, blocks := got.length / 65536 } }) s
         else s)
      else if canLoading s && op == 3 then
        (if s.upd.hearth.got.length = s.upd.hearth.total then hearthAnswer (hearthCheck (fillSlot s.upd.hearth.got s))
         else hearthAnswer s)
      else s)

def execHearthCanStatus (s : State) : Host.Outcome State Fault Refusal :=
  .next (
    if hearthPort s pCan 0 && s.upd.hearth.used == 1 && s.upd.hearth.st != 0 then hearthAnswer (elapseTo (s.upd.hearth.canAt + 100000) s)
    else s)

/-- The DETAIL with which the download fails its checks, and nothing when it passes all eight. -/
def hearthJudge (s : State) (flash : FlashResult) : Option Nat :=
  let h := s.upd.hearth
  let x := getSlot s h.slotB
  let head := slotHead x
  match flash with
  | .failed _ => some 0x2B
  | .differs _ => some 0x27
  | .ok =>
    if (h.used = 0 ∨ h.used = 1) ∧ h.total ≠ 65536 + hPayload head then some 0x20
    else match headCheck s head with
      | some d => some d
      | none =>
        if (imageKey s head).isNone then some 0x26
        else if payloadOk x then none else some 0x27

/-- The checks end: the slot is TRIAL and a cold reset starts, or it is BAD and Hearth ROM waits for another download. -/
def execHearthDownloadEnd (flash : FlashResult) (s : State) : Host.Outcome State Fault Refusal :=
  .next (
    if s.pwr.mode == .hearth && s.upd.hearth.st == 2 then
      match hearthJudge s flash with
      | some d => hearthFails d true s
      | none =>
        let b := s.upd.hearth.slotB
        let s := journal (fun u =>
          let u := withSlot b (fun y => { y with st := .trial }) u
          withSlot (!b) (fun y => { y with st := if y.st = .active then .standby else y.st }) { u with boot := b, tries := 0 }) s
        fullReset 0x8 (uartLine 4 (modUpd (fun u => { u with hearth := { u.hearth with st := 4 } }) s))
    else s)

end Sys2Proof.Machine
end

