-- ==== Sys2Proof/Machine/Admission.lean ====
section
/-! DEFINITION. The sluice and admission: the weirs, virtual time, the choice of the next slot, the checks of a descriptor
and its acceptance (R32, R107, R114, R124, R126, R153–R163, R454, R626). -/

namespace Sys2Proof.Machine

/-! ### The operations as admission sees them -/

/-- An operation of a class: LEN from `lo` to `hi` in steps of `mult`, or 0 where `zero` allows it; its operand bytes:
`plain` ranges, culvert offsets and key handles by their first byte. -/
structure OpSpec where
  opc : Nat
  lo : Nat
  hi : Nat
  mult : Nat := 1
  zero : Bool := false
  plain : List (Nat × Nat) := []
  culv : List Nat := []
  hdl : List Nat := []
  deriving DecidableEq, Repr

/-- Classes SYS, PROX, LOCK, NFC (R142, R296, R335, R371). -/
def opSpecsA : List OpSpec := [
  { opc := 0x0100, lo := 0, hi := 0 },
  { opc := 0x0101, lo := 64, hi := 64, plain := [(24, 2), (32, 8)], culv := [40] },
  { opc := 0x0102, lo := 0, hi := 0 },
  { opc := 0x0200, lo := 64, hi := 64, zero := true, plain := [(24, 4), (28, 1), (29, 1)], culv := [32] },
  { opc := 0x0201, lo := 64, hi := 4096, mult := 64, culv := [24] },
  { opc := 0x0202, lo := 0, hi := 0, plain := [(24, 4), (28, 2), (30, 1)], hdl := [32] },
  { opc := 0x0203, lo := 0, hi := 0, plain := [(24, 4)] },
  { opc := 0x0204, lo := 16, hi := 4096, mult := 16, culv := [24] },
  { opc := 0x0205, lo := 16, hi := 592, culv := [24] },
  { opc := 0x0300, lo := 0, hi := 0, plain := [(24, 4)] },
  { opc := 0x0301, lo := 0, hi := 0 },
  { opc := 0x0302, lo := 64, hi := 64, culv := [24] },
  { opc := 0x0400, lo := 64, hi := 64, zero := true, plain := [(24, 1)], culv := [32] },
  { opc := 0x0401, lo := 16, hi := 256, mult := 16, plain := [(24, 1)], culv := [32] },
  { opc := 0x0402, lo := 0, hi := 0, plain := [(24, 1), (32, 8)], hdl := [40] },
  { opc := 0x0403, lo := 0, hi := 0, plain := [(24, 1), (32, 8)], hdl := [40] },
  { opc := 0x0404, lo := 32, hi := 160, mult := 16, plain := [(24, 1), (32, 8)], culv := [48], hdl := [40] },
  { opc := 0x0405, lo := 192, hi := 192, culv := [24] }]

/-- Classes IFL, CUS, DIR, KEY (R425, R456, R481, R512). -/
def opSpecsB : List OpSpec := [
  { opc := 0x0500, lo := 1, hi := 1048576, plain := [(24, 1), (26, 2)], culv := [32] },
  { opc := 0x0501, lo := 32, hi := 256, mult := 32, culv := [24] },
  { opc := 0x0502, lo := 64, hi := 65536, culv := [24] },
  { opc := 0x0600, lo := 1, hi := 16777216, plain := [(24, 1)], culv := [32] },
  { opc := 0x0601, lo := 192, hi := 16777408, mult := 64, plain := [(24, 1), (32, 8)], culv := [40] },
  { opc := 0x0602, lo := 32, hi := 65536, mult := 32, plain := [(24, 1), (32, 8)], culv := [40] },
  { opc := 0x0603, lo := 0, hi := 0, plain := [(24, 1), (32, 8), (40, 8)] },
  { opc := 0x0604, lo := 128, hi := 128, culv := [24] },
  { opc := 0x0700, lo := 64, hi := 64, plain := [(40, 1)], culv := [24, 32] },
  { opc := 0x0701, lo := 64, hi := 64, plain := [(40, 1)], culv := [24, 32] },
  { opc := 0x0702, lo := 128, hi := 1048576, mult := 128, culv := [24] },
  { opc := 0x0703, lo := 0, hi := 0, plain := [(24, 1), (25, 1), (32, 16)] },
  { opc := 0x0704, lo := 0, hi := 0, plain := [(24, 1), (28, 4)] },
  { opc := 0x0705, lo := 0, hi := 0, plain := [(24, 1), (25, 1), (32, 16)] },
  { opc := 0x0706, lo := 128, hi := 128, culv := [24] },
  { opc := 0x0800, lo := 0, hi := 0, plain := [(24, 1)] },
  { opc := 0x0801, lo := 32, hi := 32, plain := [(32, 1), (33, 1), (34, 1)], culv := [40], hdl := [24] },
  { opc := 0x0802, lo := 56, hi := 137, plain := [(40, 1), (41, 1)], culv := [24], hdl := [32] },
  { opc := 0x0803, lo := 256, hi := 256, plain := [(40, 1)], culv := [48], hdl := [24, 32] },
  { opc := 0x0804, lo := 0, hi := 0, hdl := [24] },
  { opc := 0x0805, lo := 32, hi := 32, culv := [32], hdl := [24] },
  { opc := 0x0806, lo := 128, hi := 128, culv := [24] }]

/-- The common form of the CPH operations (R514). -/
def cphSpec (opc : Nat) : OpSpec :=
  { opc := opc, lo := 16, hi := 16777248, plain := [(32, 1), (33, 1), (34, 1), (35, 1), (36, 4)], culv := [40, 48], hdl := [24] }

/-- Classes CPH, PKE, RNG, UPD, WRIT, TIME, SVC (R514, R532, R535, R562, R182, R215, R591). -/
def opSpecsC : List OpSpec := [
  cphSpec 0x0900, cphSpec 0x0901, cphSpec 0x0902, cphSpec 0x0903, cphSpec 0x0904, cphSpec 0x0905,
  { opc := 0x0A00, lo := 228, hi := 16777412, plain := [(24, 1), (25, 1)], culv := [32] },
  { opc := 0x0A01, lo := 97, hi := 97, plain := [(24, 1)], culv := [32] },
  { opc := 0x0A02, lo := 0, hi := 16777216, plain := [(24, 1)], culv := [32, 40] },
  { opc := 0x0B00, lo := 1, hi := 65536, plain := [(24, 1)], culv := [32] },
  { opc := 0x0B01, lo := 64, hi := 64, culv := [24] },
  { opc := 0x0C00, lo := 65537, hi := 14680064, culv := [24] },
  { opc := 0x0C01, lo := 0, hi := 0, plain := [(24, 2), (26, 1), (32, 6)] },
  { opc := 0x0C02, lo := 0, hi := 0, plain := [(24, 8), (32, 2), (34, 2)] },
  { opc := 0x0C03, lo := 0, hi := 0, plain := [(34, 2)] },
  { opc := 0x0C04, lo := 321, hi := 262464, culv := [24] },
  { opc := 0x0C05, lo := 256, hi := 256, culv := [24] },
  { opc := 0x0D00, lo := 320, hi := 16384, culv := [24] },
  { opc := 0x0D01, lo := 320, hi := 16384, culv := [24] },
  { opc := 0x0D02, lo := 128, hi := 128, culv := [24] },
  { opc := 0x0E00, lo := 32, hi := 32, culv := [24] },
  { opc := 0x0E01, lo := 0, hi := 0, plain := [(24, 8), (32, 4)] },
  { opc := 0x0E02, lo := 32, hi := 544, culv := [24] },
  { opc := 0x0F00, lo := 32, hi := 8192, mult := 32, plain := [(32, 8)], culv := [24] },
  { opc := 0x0F01, lo := 0, hi := 0, plain := [(24, 1), (25, 1)] },
  { opc := 0x0F02, lo := 0, hi := 0, plain := [(24, 1), (25, 1)] },
  { opc := 0x0F03, lo := 0, hi := 0, plain := [(24, 1), (25, 1)] },
  { opc := 0x0F04, lo := 0, hi := 0, plain := [(24, 1)] },
  { opc := 0x0F05, lo := 0, hi := 0, plain := [(24, 1)] },
  { opc := 0x0F06, lo := 0, hi := 0, plain := [(24, 1)] },
  { opc := 0x0F07, lo := 0, hi := 0, plain := [(24, 2)] }]

def opSpecs : List OpSpec := opSpecsA ++ opSpecsB ++ opSpecsC

def specOf (raw : BitVec 512) : Option OpSpec := opSpecs.find? (fun x => x.opc == dOpc raw)

/-! ### Reserved bits, LEN and operand fields (R11, R114, R124) -/

/-- Operand bytes that an operation names. -/
def namedByte (x : OpSpec) (i : Nat) : Bool :=
  x.plain.any (fun p => decide (p.1 ≤ i) && decide (i < p.1 + p.2)) ||
    (x.culv ++ x.hdl).any (fun o => decide (o ≤ i) && decide (i < o + 8))

/-- Reserved bits within fields that an operation names, and the second offset of MAC_VERIFY, which must be 0. -/
def fieldRsvd (raw : BitVec 512) : Bool :=
  let o := dOpc raw
  if o = 0x0202 then fieldLE raw 28 2 / 4096 != 0 || fieldLE raw 30 1 / 16 != 0
  else if o = 0x0700 ∨ o = 0x0701 then fieldLE raw 40 1 / 2 != 0
  else if dClass raw = 0x09 then fieldLE raw 33 1 / 2 != 0 || (o == 0x0903 && fieldLE raw 48 8 != 0)
  else if o = 0x0B00 then fieldLE raw 24 1 / 2 != 0
  else false

/-- A reserved bit or byte of FLAGS or the operands is not 0. -/
def reservedSet (x : OpSpec) (raw : BitVec 512) : Bool :=
  dFlags raw / 4 != 0 || fieldRsvd raw ||
    (List.range 32).any (fun i => !namedByte x (24 + i) && fieldLE raw (24 + i) 1 != 0) ||
    x.culv.any (fun o => bits (fieldLE raw o 8) 48 12 != 0) || x.hdl.any (fun o => fieldLE raw o 8 / 2 ^ 48 != 0)

/-- LEN lies outside the operation's limits; an append to a class other than EVIDENCE carries 65,536 bytes at most. -/
def lenBad (x : OpSpec) (raw : BitVec 512) : Bool :=
  let n := dLen raw
  !((x.zero && n == 0) || (decide (x.lo ≤ n) && decide (n ≤ x.hi) && n % x.mult == 0 &&
    (x.opc != 0x0600 || fieldLE raw 24 1 == 3 || decide (n ≤ 65536))))

/-- MODE and lengths of a CPH operation (R508, R514): a DETAIL, or 0. -/
def cphCheck (raw : BitVec 512) : Nat :=
  let o := dOpc raw
  let m := fieldLE raw 32 1
  let tag := fieldLE raw 34 1
  let nonce := fieldLE raw 35 1
  let aad := fieldLE raw 36 4
  let trail := if o = 0x0903 ∨ o = 0x0905 then tag else 0
  let p := dLen raw - 16 - aad - trail
  let modeOk := if o = 0x0900 ∨ o = 0x0901 then decide (1 ≤ m) && decide (m ≤ 5)
    else if o = 0x0902 ∨ o = 0x0903 then m == 6 else m == 7
  let tagOk := if m = 6 then decide (4 ≤ tag) && decide (tag ≤ 16)
    else if m = 7 then decide (4 ≤ tag) && decide (tag ≤ 16) && tag % 2 == 0 else tag == 0
  let restOk := if m = 7 then decide (7 ≤ nonce) && decide (nonce ≤ 13) && decide (aad ≤ 4096)
    else nonce == 0 && aad == 0
  let payOk := if m = 1 then decide (16 ≤ p) && decide (p ≤ 16777216) && p % 16 == 0
    else if m ≤ 5 then decide (1 ≤ p) && decide (p ≤ 16777216)
    else if m = 6 then decide (p ≤ 16777216)
    else decide (p ≤ 65536) && decide (p < 2 ^ (8 * (15 - nonce)))
  if !modeOk then 0x2D else if !(tagOk && restOk && decide (16 + aad + trail ≤ dLen raw) && payOk) then 0x2E else 0

/-- ALG, CURVE and INPUT of the PKE class, and the length of a digest (R532–R534): a DETAIL, or 0. -/
def pkeCheck (raw : BitVec 512) : Nat :=
  let o := dOpc raw
  let a := fieldLE raw 24 1
  if o = 0x0A00 then
    let i := fieldLE raw 25 1
    if a = 0 ∨ 3 < a ∨ 1 < i ∨ (i = 1 ∧ a = 3) then 0x27
    else if i = 1 ∧ dLen raw ≠ 228 + (if a = 1 then 32 else 48) then 0x28 else 0
  else if a = 0 ∨ (if o = 0x0A01 then 4 else 2) < a then 0x27 else 0

/-- The MALFORMED conditions of an operation's fields that its 64 B decide: the DETAIL of the one that holds. -/
def fieldBad (raw : BitVec 512) : Option Nat :=
  let o := dOpc raw
  let cls := dClass raw
  let b24 := fieldLE raw 24 1
  let when_ := fun (c : Bool) (d : Nat) => if c then some d else none
  if o = 0x0200 then when_ (decide (1 < fieldLE raw 28 1) || decide (6 < fieldLE raw 29 1)) 0
  else if o = 0x0500 then
    when_ (b24 == 0 || decide (7 < b24) || fieldLE raw 26 2 == 0 || decide (4044 < fieldLE raw 26 2)) 0x25
  else if o = 0x0600 then when_ (b24 == 0 || decide (3 < b24)) 0x20
  else if o = 0x0601 ∨ o = 0x0602 ∨ o = 0x0603 then when_ (b24 == 0 || decide (5 < b24)) 0x20
  else if o = 0x0703 ∨ o = 0x0705 then when_ (decide (15 < b24) || fieldLE raw 25 1 == 0 || decide (3 < fieldLE raw 25 1)) 0x26
  else if o = 0x0704 then when_ (decide (15 < b24)) 0x26
  else if o = 0x0800 then when_ (decide (2 < b24)) 0
  else if o = 0x0801 then when_ (fieldLE raw 34 1 != 16 && fieldLE raw 34 1 != 32) 0x2E
  else if o = 0x0803 then
    when_ (fieldLE raw 40 1 == 0 || decide (3 < fieldLE raw 40 1) || (fieldLE raw 40 1 != 1 && fieldLE raw 32 8 != 0)) 0x26
  else if cls = 0x09 then when_ (cphCheck raw != 0) (cphCheck raw)
  else if cls = 0x0A then when_ (pkeCheck raw != 0) (pkeCheck raw)
  else if o = 0x0C01 then when_ (decide (1 < fieldLE raw 26 1) && fieldLE raw 26 1 != 0xFF) 0
  else if o = 0x0C02 then when_ (decide (168 < fieldLE raw 32 2)) 0
  else if o = 0x0E01 then when_ (decide (1000000 ≤ fieldLE raw 32 4)) 0x22
  else if o = 0x0F01 ∨ o = 0x0F02 ∨ o = 0x0F03 then when_ (svcBad raw) 0x20
  else if o = 0x0F04 ∨ o = 0x0F05 ∨ o = 0x0F06 then when_ (decide (3 < b24)) 0x20
  else if o = 0x0F07 then when_ (fieldLE raw 24 2 == 0 || decide (3600 < fieldLE raw 24 2)) 0
  else none

/-! ### Quotas (R158) -/

/-- What a descriptor asks of its tenancy's quotas. -/
def chargeOf (raw : BitVec 512) : Charge :=
  let o := dOpc raw
  if o = 0x0600 then .custody (dLen raw)
  else if o = 0x0702 then .dir (dLen raw / 128)
  else if o = 0x0800 ∨ o = 0x0801 ∨ o = 0x0802 then .handle
  else .none

/-- The charge stays within the quota. -/
def quotaOk (s : State) (t : Nat) (c : Charge) : Bool :=
  let w := (getTen s t).weir
  let x := getRun s t
  match c with
  | .none => true
  | .custody n => decide (x.custodyHeld + n ≤ 2 ^ 30 * w.custodyQuota)
  | .handle => decide (x.handlesHeld + 1 ≤ w.handleQuota)
  | .dir n => decide (x.dirHeld + n ≤ w.dirQuota)

/-- Takes a charge. -/
def takeCharge (t : Nat) (c : Charge) : State → State :=
  modRun t (fun x => match c with
    | .none => x
    | .custody n => { x with custodyHeld := x.custodyHeld + n }
    | .handle => { x with handlesHeld := x.handlesHeld + 1 }
    | .dir n => { x with dirHeld := x.dirHeld + n })

/-! ### Culvert ranges (R153, R154) -/

/-- The ranges a descriptor names: culvert offset, length, and whether the part writes it. A length of 0 names none. -/
def rangesOf (raw : BitVec 512) : List (Nat × Nat × Bool) :=
  let o := dOpc raw
  let cls := dClass raw
  let at_ := fun i => fieldLE raw i 8
  let n := dLen raw
  let rs : List (Nat × Nat × Bool) :=
    if o = 0x0101 then [(at_ 40, 64, true)]
    else if o = 0x0200 ∨ o = 0x0400 ∨ o = 0x0401 ∨ o = 0x0805 ∨ o = 0x0B00 then [(at_ 32, n, true)]
    else if o = 0x0404 then [(at_ 48, n, true)]
    else if o = 0x0500 ∨ o = 0x0600 ∨ o = 0x0A00 ∨ o = 0x0A01 then [(at_ 32, n, false)]
    else if o = 0x0601 ∨ o = 0x0602 then [(at_ 40, n, true)]
    else if o = 0x0700 ∨ o = 0x0701 then
      (at_ 24, n, false) :: (if bit (fieldLE raw 40 1) 0 then [(at_ 32, 128, true)] else [])
    else if o = 0x0702 ∨ o = 0x0802 ∨ o = 0x0C00 ∨ o = 0x0C04 ∨ o = 0x0D00 ∨ o = 0x0D01 then [(at_ 24, n, false)]
    else if o = 0x0801 then [(at_ 40, n, false)]
    else if o = 0x0803 then [(at_ 48, n, false), (at_ 48, n, true)]
    else if o = 0x0A02 then [(at_ 32, n, false), (at_ 40, 48, true)]
    else if cls = 0x09 then
      let p := n - 16 - fieldLE raw 36 4 - (if o = 0x0903 ∨ o = 0x0905 then fieldLE raw 34 1 else 0)
      (at_ 40, n, false) :: (if o = 0x0902 then [(at_ 48, 16 + fieldLE raw 34 1, true)]
        else if o = 0x0903 then []
        else if o = 0x0904 then [(at_ 48, 16 + p + fieldLE raw 34 1, true)]
        else [(at_ 48, 16 + p, true)])
    else if o = 0x0201 ∨ o = 0x0204 ∨ o = 0x0205 ∨ o = 0x0302 ∨ o = 0x0405 ∨ o = 0x0501 ∨ o = 0x0502 ∨ o = 0x0604 ∨
        o = 0x0706 ∨ o = 0x0806 ∨ o = 0x0B01 ∨ o = 0x0C05 ∨ o = 0x0D02 ∨ o = 0x0E00 ∨ o = 0x0E02 ∨ o = 0x0F00 then
      [(at_ 24, n, true)]
    else []
  rs

/-- The host memory behind a range, or none where it fails the check of R154. -/
def resolveRange (row : Tenancy) (x : Nat × Nat × Bool) : Option HostRange :=
  let c := tabGet {} row.culverts (bits x.1 60 4)
  let off := bits x.1 0 48
  if c.rights.getLsbD (if x.2.2 then 1 else 0) ∧ off + x.2.1 ≤ c.size then
    some { func := row.func, addr := c.base + off, len := x.2.1 }
  else none

/-- Every range of a descriptor: in order, a range of length 0 left unchecked and standing for nothing. -/
def resolveAll (row : Tenancy) : List (Nat × Nat × Bool) → Option (List HostRange)
  | [] => some []
  | x :: rest =>
    match (if x.2.1 = 0 then some { func := row.func, addr := 0, len := 0 } else resolveRange row x), resolveAll row rest with
    | some a, some l => some (a :: l)
    | _, _ => none

/-! ### The checks at admission (R124) -/

/-- What the checks after the SEQ step decide: a fate and DETAIL, or the ranges of a descriptor that may run. PROX and LOCK
descriptors end DEVICE_FAULT while no valid board record fits the mandatory ports (R77). -/
def admitChecks (s : State) (t : Nat) (raw : BitVec 512) : (Nat × Nat) ⊕ List HostRange :=
  let cls := dClass raw
  if cls = 0 ∨ 0x0F < cls then .inl (fMalformed, 0x02)
  else match specOf raw with
    | none => .inl (fMalformed, 0x03)
    | some x =>
      if reservedSet x raw then .inl (fMalformed, 0x01)
      else if lenBad x raw then .inl (fMalformed, 0x04)
      else match fieldBad raw with
        | some d => .inl (fMalformed, d)
        | none =>
          if !(getTen s t).classMask.getLsbD cls && cls != 1 then .inl (fPolicy, 0)
          else if dEpoch raw != 0 && dEpoch raw != s.slc.epoch then .inl (fWithdrawn, 0x08)
          else if !quotaOk s t (chargeOf raw) then .inl (fQuota, 0)
          else match resolveAll (getTen s t) (rangesOf raw) with
            | none => .inl (fCulvert, 0x10)
            | some l => if (cls = 2 ∨ cls = 3) ∧ (board s).isNone then .inl (fDevice, 0x19) else .inr l

/-! ### Weirs (R156, R157, R626) -/

/-- The weir's conditions for a slot (R157). -/
def weirAllows (s : State) (t : Nat) (raw : BitVec 512) : Bool :=
  let w := (getTen s t).weir
  let b := bucketsNow s t
  decide (1000000 ≤ b.1) && decide (min (1000000 * (dLen raw : Int)) (1024000000 * (w.byteRate : Int)) ≤ b.2) &&
    decide (inflightOf s t < w.inflightMax)

/-- An append of EVIDENCE. -/
def isEvidence (raw : BitVec 512) : Bool := dOpc raw == 0x0600 && fieldLE raw 24 1 == 3

/-- Bytes per second of EVIDENCE at governor levels 1 and 2 (R625). -/
def evidenceRate (level : Nat) : Nat := if level = 1 then 160000000 else 40000000

/-- The EVIDENCE bucket as it stands now, millionths of a byte. -/
def evidenceNow (s : State) : Int :=
  let r := evidenceRate s.pwr.govLevel
  min (1000000 * (r : Int)) (s.slc.evBytes + r * (monoUs s - s.slc.evAt : Nat))

/-- The governor does not hold a slot (R625, R626). -/
def governorAllows (s : State) (raw : BitVec 512) : Bool :=
  let g := s.pwr.govLevel
  let cls := dClass raw
  (g != 1 && g != 2 || !isEvidence raw || decide (1000000 * (dLen raw : Int) ≤ evidenceNow s)) &&
    (decide (g < 3) || !isEvidence raw) &&
    (decide (g < 4) || cls == 1 || cls == 2 || cls == 3 || cls == 0x0E || dOpc raw == 0x0700 || dOpc raw == 0x0701)

/-- The ledger's room does not hold a slot (R454). -/
def logAllows (s : State) (raw : BitVec 512) : Bool :=
  let cls := dClass raw
  if s.led.veryLow then cls == 3
  else if s.led.low then cls == 1 || cls == 3 || dOpc raw == 0x0601 || dOpc raw == 0x0604
  else true

/-! ### The choice of the next slot (R107, R161–R163) -/

/-- The head slot of a ring that offers one that has been read, while its Tailrace has room and neither the governor nor the
ledger holds it. -/
def offered (s : State) (g : Nat) : Option (BitVec 512) :=
  let rg := getRing s g
  if rg.st == .running && rg.hrPi != rg.hrCi && decide ((rg.trPi - rg.trCi).toNat < trSize rg) then
    rg.peek.filter (fun raw => governorAllows s raw && logAllows s raw)
  else none

/-- A tenancy's rings in turn, from the one after the ring served last. -/
def turnOrder (s : State) (t : Nat) : List Nat :=
  let n := (getTen s t).ringCount
  let last := (getRun s t).lastRing
  let start := if last < n then last + 1 else 0
  (List.range n).map (fun i => (start + i) % n)

/-- The slot a tenancy would be served next: local ring and descriptor. -/
def nextSlot (s : State) (t : Nat) : Option (Nat × BitVec 512) :=
  ((turnOrder s t).filterMap (fun j => (offered s ((getTen s t).ringBase + j)).map (fun raw => (j, raw)))).head?

/-- A tenancy that R157 and R107 allow, with its next slot and next stamp. Where the slot whose turn it is fails the weir, the tenancy is
held as a whole, whatever its other rings offer (DESIGN CHOICE, log entry 12). -/
def candidates (s : State) : List (Nat × Nat × Nat × BitVec 512) :=
  (s.slc.tens.filter (fun e => e.2.func != 0x7F)).filterMap (fun e =>
    (nextSlot s e.1).bind (fun p =>
      if weirAllows s e.1 p.2 then some (max (virtualNow s) (getRun s e.1).finish, e.1, p.1, p.2) else none))

/-- The candidate with the lowest next stamp, the lowest tenancy among equals (the table's order). -/
def choose (l : List (Nat × Nat × Nat × BitVec 512)) : Option (Nat × Nat × BitVec 512) :=
  (l.foldl (fun (best : Option (Nat × Nat × Nat × BitVec 512)) x => match best with
    | none => some x
    | some b => if x.1 < b.1 then some x else some b) none).map (·.2)

/-- A weir's rate limit holds a tenancy's admission (SLC_TEN_HELD). -/
def weirHeld (s : State) (t : Nat) : Bool :=
  match nextSlot s t with
  | some p => !weirAllows s t p.2
  | none => false

/-- Base cost of a class (R160). -/
def classCost (cls : Nat) : Nat :=
  if cls = 2 then 4096 else if cls = 3 ∨ cls = 7 ∨ cls = 9 then 64
  else if cls = 4 ∨ cls = 0x0A ∨ cls = 0x0C ∨ cls = 0x0F then 1024
  else if cls = 5 ∨ cls = 6 then 256 else if cls = 8 then 128 else if cls = 0x0B then 32
  else if cls = 0x0D then 2048 else 16

/-- c of a descriptor. -/
def cost (raw : BitVec 512) : Nat := classCost (dClass raw) + ceilDiv (dLen raw) 64

/-- Stamp and next finish tag at virtual time `v` (R161). -/
def stampOf (v finish weight : Nat) (raw : BitVec 512) : Nat × Nat :=
  let st := if dClass raw = 3 then v else max v finish
  (st, max finish st + ceilDiv (256 * cost raw) weight)

/-! ### Acceptance (R32, R109, R124–R127, R157, R161) -/

/-- The verdict on SEQ: 0 new, 1 SEQ_ZERO, 2 duplicate, 3 SEQ_ORDER. -/
def seqVerdict (s : State) (g seq : Nat) : Nat :=
  if seq = 0 then 1
  else if (getRing s g).seqHi < seq then 0
  else if (dupWindow s g).any (fun f => dSeq f.raw == seq) then 2
  else 3

/-- The acceptance number of the descriptor a duplicate repeats. -/
def dupIndex (s : State) (g seq : Nat) : Option Nat :=
  (List.range s.host.flights.length).find? (fun i => match getFlight s i with
    | some f => f.ring == g && f.seqIndexed && dSeq f.raw == seq
    | none => false)

/-- The flight of an accepted descriptor. -/
def newFlight (s : State) (t g stamp : Nat) (raw : BitVec 512) : Flight :=
  let rg := getRing s g
  let row := getTen s t
  { ring := g, era := rg.era, ten := t, party := row.party, func := row.func, rules := row, raw := raw, hrSlot := rg.hrCi, trSlot := rg.trPi,
    stamp := stamp, tAdm := monoUs s, epochAdm := s.slc.epoch, lsn := s.led.lsn + 1 }

/-- Takes the slot's token and bytes, moves the tenancy's finish tag and V, and remembers the ring served. -/
def chargeSlot (t j : Nat) (raw : BitVec 512) (s : State) : State :=
  let b := bucketsNow s t
  let v := virtualNow s
  let p := stampOf v (getRun s t).finish (getTen s t).weight raw
  let ev := onlyIf (isEvidence raw && (s.pwr.govLevel == 1 || s.pwr.govLevel == 2))
    (modSlc (fun x => { x with evBytes := evidenceNow s - 1000000 * dLen raw, evAt := monoUs s }))
  ev (modSlc (fun x => { x with vtime := v, topStamp := max x.topStamp p.1 })
    (modRun t (fun x => { x with finish := p.2, tokens := b.1 - 1000000, bytes := b.2 - 1000000 * dLen raw,
                                 at_ := monoUs s, primed := true, lastRing := j }) s))

/-- Writes the acceptance and moves the ring past the slot. -/
def acceptSlot (t g : Nat) (f : Flight) (s : State) : State :=
  modRing g (fun rg => wbMark (monoUs s) { rg with
      hrCi := rg.hrCi + 1, trPi := rg.trPi + 1, seqHi := if f.seqIndexed then max rg.seqHi (dSeq f.raw) else rg.seqHi,
      peek := none })
    (logRec (.accept s.host.flights.length)
      (onlyIf (dOpc f.raw == 0x0300)
        (modSlk (fun b => { b with admitted := tabPut b.admitted s.host.flights.length b.policy }))
        (takeCharge t f.charge (modHost (fun h => { h with flights := h.flights ++ [f] }) s))))

/-- Consumes the slot of local ring `j` of tenancy `t`: stamp, checks, acceptance, and the fate of a descriptor that fails a
check. -/
def consume (t j : Nat) (raw : BitVec 512) (s : State) : State :=
  let g := (getTen s t).ringBase + j
  let r := s.host.flights.length
  let st := (stampOf (virtualNow s) (getRun s t).finish (getTen s t).weight raw).1
  let f := newFlight s t g st raw
  let v := seqVerdict s g (dSeq raw)
  let s1 := chargeSlot t j raw s
  if v = 2 then
    let d := dupIndex s g (dSeq raw)
    let s2 := acceptSlot t g { f with seqIndexed := false, dupOf := d } s1
    match d.bind (getFlight s) with
    | some x => (match x.fate with
      | some fr => settleDups (d.getD 0) fr s2
      | none => s2)
    | none => s2
  else if v = 1 ∨ v = 3 then
    settle r (failFate fMalformed (if v = 1 then 0x05 else 0x06)) (acceptSlot t g { f with seqIndexed := false } s1)
  else match admitChecks s t raw with
    | .inl (code, detail) => settle r (failFate code detail) (acceptSlot t g f s1)
    | .inr l => acceptSlot t g { f with ranges := l, charge := chargeOf raw } s1

/-- The sluice admits: the part is released and not entering Parked, and the ledger can hold an acceptance (R32, R41, R86). -/
def admitting (s : State) : Bool :=
  released s && s.pwr.mode != .hearth && s.pwr.parking == .none && canLog (.accept 0) s

/-- What the part's reads of Headrace slots returned: the heads of RUNNING rings with a slot offered (R109). -/
def takeHeads (heads : List HeadRead) (s : State) : State :=
  each heads (fun h t =>
    if (getRing t h.ring.val).st == .running && (getRing t h.ring.val).hrPi != (getRing t h.ring.val).hrCi then
      modRing h.ring.val (fun rg => { rg with peek := some h.raw }) t
    else t) s

/-- SLOT_CONSUME: the sluice consumes the slot that R163 names, if there is one. -/
def execSlotConsume (heads : List HeadRead) (s : State) : Host.Outcome State Fault Refusal :=
  .next (
    if admitting s then
      let s := takeHeads heads s
      match choose (candidates s) with
      | some (t, j, raw) => consume t j raw s
      | none => s
    else s)

end Sys2Proof.Machine
end

