-- ==== Sys2Proof/Machine/Start.lean ====
section
/-! DEFINITION. START: ranging, permission, card, commit and release (R276, R297, R316–R318). -/

namespace Sys2Proof.Machine

/-! ### Ranging (R276, R297) -/

/-- What a check of a start decision answers: a fate, or a value and the state so far. -/
inductive Checked (α : Type) where
  | fail (fr : FateRec) (s : State)
  | pass (a : α) (s : State)

/-- The state a check of a start decision leaves. -/
def checkedState {α : Type} : Checked α → State
  | .fail _ s => s
  | .pass _ s => s

/-- The session of a start decision stands in `radio.poll` while its ranging runs; a LOCATE that is not on air is put aside for it. -/
def putSession (p : Option Poll) : State → State := modRadio (fun b => { b with poll := p })

/-- Sends the segments of the session's telegram, each in its granted window (R229); the session is in its reply window once all have gone,
and the telegram is abandoned where the Furrow fits none. -/
def playSegments : Nat → State → State
  | 0, s => s
  | n + 1, s =>
    match s.radio.poll with
    | none => s
    | some p =>
      if p.phase != .telegram then s
      else match segPlan s p with
        | .send k t =>
          let q := afterSegment p k t
          if q.sent = teleUnits q then
            modRadio (fun b => { b with cntTx := b.cntTx + 1 }) (putPoll { q with phase := .slots } (emitSegment p k t s))
          else playSegments n (putPoll q (emitSegment p k t s))
        | .wait | .lost | .gone => lfEvent 1 s

/-- The requests of the pairs that cover an activity of a ranging rise with COEX_PRI, and its emission follows 100 µs later whatever the grants
read; with no such pair neither rises (R276). -/
def priRaise (act : Nat) (s : State) : State :=
  if coexPairs s act = [] then s
  else uhfEvent 3 (elapseNs 100000 (drivePri true (driveReq (s.radio.coexReq ||| pairMask (coexPairs s act)) s)))

/-- The lead an activity needs before it, ns. -/
def priLead (act : Nat) (s : State) : Nat := if coexPairs s act = [] then 0 else 100000

/-- They fall after its last emission (R274, R276). -/
def priFall (s : State) : State := drivePri false (driveReq 0 s)

/-- Sends the session's bursts, each window asked of the Furrow (R283) and an activity of its own, whose requests rise 100 µs before it, fall
after it and are held no longer than 50 ms (R274, R276). The session is in its report exchange once every tone has gone; it stays where no
burst fits, where the pause would be too long or no chain is left. The hold of TX_DUTY does not apply (R264). -/
def playBursts (u : UhfRec) : Nat → State → State
  | 0, s => s
  | n + 1, s =>
    match s.radio.poll with
    | none => s
    | some p =>
      if p.phase != .sound then s
      else match p.plan with
        | c :: _ =>
          if pausedTooLong p p.planAt then priFall s
          else if coexSpent p (p.planAt + burstDur s c) then
            playBursts u n (putPoll { p with plan := [], asked := false, actAt := none } (priFall (elapseToNs p.burstEnd s)))
          else
            let s := elapseToNs p.planAt s
            match chainsUp s with
            | [] => priFall s
            | k :: _ =>
              let q := afterBurst p k c s
              playBursts u n (putPoll { q with phase := if planTones u ≤ q.tone then .report else .sound }
                (burstOut u k p.tone c (countEmission (burstUs c) s)))
        | [] =>
          let s := priFall (elapseToNs p.burstEnd s)
          match planBursts s (planTones u - p.tone) (s.clk.ns + priLead 1 s) with
          | some (t, l) =>
            let d := (l.map (burstDur s)).foldl (· + ·) 0
            playBursts u n (putPoll { p with plan := l, planAt := t, asked := coexPairs s 1 != [], actAt := none }
              (priRaise 1 (elapseToNs (t - priLead 1 s) (grantWindow false t d s))))
          | none => s

/-- Asks for the phases, up to three times while no report passes check 1 (R283): the report, if one came. -/
def playReports (u : UhfRec) : Nat → List (Option TokenFrame) → State → Option TokenFrame × State
  | 0, _, s => (none, s)
  | n + 1, l, s =>
    let s := priFall (elapseNs (nsReplySlot + 574000) (sendTrigger (0xC000 + planTones u) (priRaise 0 s)))
    match l.headD none with
    | some f => if frameValid f then (some f, s) else playReports u n (l.drop 1) s
    | none => playReports u n (l.drop 1) s

/-- One reply as checks 1 to 5 judge it; 0 passes, 1 is no reply. -/
def judgeReply (s : State) (p : Poll) (f : Option TokenFrame) : Nat :=
  match f with
  | none => 1
  | some f => if frameValid f && frameTid f == p.tid then replyCheck s p.m (cmdArg p) p.nonce f else 1

/-- The class bound ends the ranging (R335): no window of the Furrow fits it before. -/
def rangingLate (lim : Nat) (s : State) : Checked FitReq := .fail (failFate fTimeout 0x2B) (elapseTo lim s)

/-- The report exchange of a ranging. A report that no trigger brings counts as no reply. -/
def startReport (u : UhfRec) (t : StartTry) (p : Poll) (again : State → Checked FitReq) (s : State) : Checked FitReq :=
  let r := playReports u 3 t.reports (priFall (elapseToNs p.burstEnd s))
  match r.1 with
  | none => again r.2
  | some g =>
    let k := reportCheck r.2 0 (planTones u) p.nonce g
    if k = 0 ∧ frameTid g = p.tid then
      .pass (soundFit r.2 p g none) (modRadio (fun b => { b with cntSound := b.cntSound + 1 }) (recordTcnt p.tid (frameTcnt g) r.2))
    else if k = 0 then again (recordTcnt (frameTid g) (frameTcnt g) r.2)
    else if k = 3 then .fail (failFate fAbsent 0x20) r.2
    else .fail { failFate fAuth 0x23 with result := k } (onlyIf (k == 4 || k == 5) (authFail (frameTid g) (frameTcnt g)) r.2)

/-- The sounding after a reply that passes checks 1 to 5 (R297 step 3). -/
def startSound (u : UhfRec) (lim : Nat) (t : StartTry) (p : Poll) (f : TokenFrame) (again : State → Checked FitReq) (s : State) :
    Checked FitReq :=
  let s := recordTcnt p.tid (frameTcnt f) s
  let s := playBursts u (2 * planTones u) (putPoll { p with
    phase := .sound, turn := some (antennaTurn s f), turnOk := turnOk (antennaTurn s f), snr := f.snr, fv := slice f.payload 11 (3 * p.m),
    burstEnd := s.clk.ns } s)
  match s.radio.poll with
  | some q =>
    if q.phase == .report then startReport u t q again s
    else if q.plan != [] || pausedTooLong q s.clk.ns then again s
    else rangingLate lim s
  | none => rangingLate lim s

/-- The fate of a ranging whose last challenge brought no passing reply: `c` is the check the reply failed (R297 step 2). -/
def noReplyFate (c : Nat) : FateRec :=
  if c = 2 ∨ c = 4 ∨ c = 5 then { failFate fAuth 0x23 with result := c } else failFate fAbsent 0x20

/-- The telegram of one challenge of a ranging. -/
def playChallenge (r tid : Nat) (chans : List Nat) (s : State) : State :=
  playSegments 120 (beginTelegram { newPoll s (.locate r) 1 3 with tid := tid, chans := chans } s)

/-- The session of a start decision stands before its first trigger: its telegram has been sent, or given up. -/
def sessionFresh (r tid : Nat) (s : State) : Bool :=
  s.radio.poll.any (fun p => p.kind == .locate r && p.tid == tid && p.open_.isNone && (p.phase == .telegram || p.phase == .slots))

/-- The trigger of its reply slot, 100 µs after its requests have risen, and the slot. -/
def playTrigger (r : Nat) (p : Poll) (s : State) : State :=
  let s := modFlight r (fun f => { f with spare := f.spare || p.spare }) s
  let s := if s.radio.coexPri then s else priRaise 0 (elapseToNs (slotAt p 0 - priLead 0 s) s)
  let s := elapseToNs (slotAt p 0) s
  sendTrigger 0x4001 (putPoll { p with open_ := some 0, trigAt := s.clk.ns + 574000 } s)

/-- The challenges of a ranging, three at most, each with a telegram, a reply slot and the sounding after it (R297): what is to be fitted,
or the fate. -/
def startTries (r : Nat) (u : UhfRec) (lim tid : Nat) (chans : List Nat) : Nat → List StartTry → Nat → State → Checked FitReq
  | 0, _, c, s => .fail (noReplyFate c) s
  | n + 1, tries, _, s =>
    let t : StartTry := tries.headD ⟨none, []⟩
    let s := if sessionFresh r tid s then s else playChallenge r tid chans s
    match s.radio.poll with
    | none => rangingLate lim s
    | some p =>
      if p.phase != .slots then rangingLate lim s
      else
        let s := priFall (elapseToNs (slotAt p 1) (playTrigger r p s))
        let c := judgeReply s p t.reply
        match t.reply with
        | none => startTries r u lim tid chans n (tries.drop 1) 1 s
        | some f =>
          if c = 0 then
            startSound u lim t { p with open_ := some 0, trigAt := slotAt p 0 + 574000 } f (startTries r u lim tid chans n (tries.drop 1) 1) s
          else startTries r u lim tid chans n (tries.drop 1) c (onlyIf (c == 4 || c == 5) (authFail tid (frameTcnt f)) s)

/-- The LF channels for a CAB zone: those of the cab and sleeper interior. -/
def cabChans (s : State) : List Nat := chansAt s [0, 1]

/-- Channels for a token: those of its zone, or those for a CAB zone. -/
def startChans (s : State) (tid : Nat) : List Nat :=
  let l := match (trackOf s tid).bind (fun t => zoneById s t.zone) with
    | some z => if z.door && lfUp s z.handleLf then [z.handleLf] else if z.exterior then chansAt s [2] else cabChans s
    | none => cabChans s
  if l.isEmpty then cabChans s else l

/-- Step 3 of R316 on what the ranging brought: checks 6 and 7, the track, and the CAB flag. -/
def startFit (r : Nat) (u : UhfRec) (pri : Bool) (fit : FitResult) (q : FitReq) (s : State) : Checked Track :=
  let s := noteSnr fit s
  let pos := fitPos s u q fit
  if !q.turnOk then .fail { failFate fAuth 0x22 with result := 6 } (inconsistent q.tid s)
  else if !(match pos with | some p => consistent s u q fit p | none => true) then
    .fail { failFate fAuth 0x22 with result := 7 } (inconsistent q.tid s)
  else
    let ts := putTrack (fuse s u q fit pos pri) s
    let s := tokenPassed q.tid ts.1.zone ts.2
    if isCabZone s ts.1.zone then .pass ts.1 (atStage r 0x01 0 s) else .fail (failFate fPolicy 0x21) s

/-- Steps 2 and 3 of R316 on one token. -/
def rangeToken (r lim tid : Nat) (pri : Bool) (ev : List StartTry × FitResult) (s : State) : Checked Track :=
  let chans := startChans s tid
  match uhfRec s with
  | none => .fail (failFate fDevice 0x2C) s
  | some u =>
    if chainsUp s = [] ∨ cabChans s = [] then .fail (failFate fDevice 0x2C) s
    else if noNonce s then .fail (failFate fDevice 0x20) s
    else if (tokenKeyOf s tid).isNone then .fail (failFate fAbsent 0x20) s
    else match startTries r u lim tid chans 3 ev.1 1 s with
      | .fail fr s => .fail fr s
      | .pass q s => startFit r u pri ev.2 q s

/-- Steps 2 to 4 on each candidate in turn; the first that passes goes on, the last fate counts. -/
def rangeAll (r lim : Nat) (mask : BitVec 16) (pri : Bool) : List Nat → List (List StartTry × FitResult) → FateRec → State →
    Checked (Nat × Nat)
  | [], _, fr, s => .fail fr s
  | tid :: rest, evs, _, s =>
    let ev := evs.headD ([], ⟨none, 0, [], [], 0⟩)
    match rangeToken r lim tid pri ev (atStage r 0 0 s) with
    | .fail fr s => if lim ≤ monoUs s then .fail fr s else rangeAll r lim mask pri rest (evs.drop 1) fr s
    | .pass tr s =>
      if permitUnder s mask tid == some true then .pass (tid, tr.zone) (atStage r 0x02 0 s)
      else rangeAll r lim mask pri rest (evs.drop 1) (failFate fPolicy 0x24 0x01) s

/-- Insertion of a track in order of its update, latest first. -/
def latestFirst (x : Track) : List Track → List Track
  | [] => [x]
  | y :: rest => if y.updated ≤ x.updated then x :: y :: rest else y :: latestFirst x rest

/-- The candidates of a START (R317). -/
def startCands (s : State) (tid : Nat) : List Nat :=
  if tid != 0 then [tid]
  else
    let cab := s.radio.tracks.filter (fun t => isCabZone s t.zone)
    ((cab.foldr latestFirst []).take 3).map (·.tid)

/-! ### The card (R350–R352, R316 step 5) -/

/-- The credential found in a mask of namespaces is VALID with the card's key. -/
def cardEntry (s : State) (mask : BitVec 16) (cred key : Bytes) : Checked DirEntry :=
  match lookupIn s mask 1 cred with
  | .entry e =>
    if e.keyHash ≠ sha256 key then .fail (failFate fAuth 0x26) s
    else if entryState s e = 1 then .pass e s
    else .fail (failFate fPolicy 0x27) s
  | .noSource => .fail (failFate fDevice 0x19) s
  | _ => .fail (failFate fPolicy 0x27) s

/-- Reads the cards in order, each with a challenge of its own; the first that passes R351 counts. -/
def startCards : Bool → List StartCard → State → Checked (StartCard × Bytes × Bytes)
  | failed, [], s => .fail (if failed then failFate fAuth 0x26 else failFate fAbsent 0x25) s
  | _, c :: rest, s =>
    let chal := random s 32
    let s1 := emit (.card c.reader false (apdu 0x60 chal)) (drew .lanes 32 s)
    let code := cardCode s1 chal c.answer
    let s2 := cardRan code s1
    if code = some 0 then .pass (c, (cardKey c.answer).1, (cardKey c.answer).2.2) s2 else startCards true rest s2

/-- The cards on readers a policy names that are in service, by reader. -/
def namedCards (s : State) (pol : StartPolicy) (l : List StartCard) : List StartCard :=
  (List.range 8).flatMap (fun k => l.filter (fun c =>
    c.reader.val == k && pol.cardReaders.getLsbD k && readerUp s k))

/-! ### The commit (R28, R29, R316, R318) -/

/-- What the checks made satisfy under the policy now in force (R318). -/
def stillPasses (s : State) (tid : Nat) (card : Option (StartCard × Bytes × Bytes)) : Bool :=
  let pol := s.slk.policy
  permitUnder s pol.tokenNs tid == some true &&
    (!pol.reqCard || (match card with
      | some (c, cred, key) => pol.cardReaders.getLsbD c.reader && (match cardEntry s pol.cardNs cred key with
        | .pass _ _ => true
        | .fail _ _ => false)
      | none => false))

/-- The latch state a START that passes leads to. -/
def startTarget (s : State) : Latch := if engineRunning s then .running else .released

/-- Steps 6 and 7: the decision record, then the latch; the directory grant before it. -/
def startCommit (r : Nat) (f : Flight) (tid zone : Nat) (card : Option (StartCard × Bytes × Bytes)) (grant : Option DirEntry)
    (s : State) : State :=
  let stage := if grant.isSome then 0x02 else 0x03
  if r < s.slk.lockReqOps then settle r (failFate fPolicy 0x29 stage) s
  else if s.slc.epoch != f.epochAdm && !stillPasses s tid card then settle r (failFate fWithdrawn 0x0B stage) s
  else
    let decide_ := fun (t : State) =>
      let old := latch t
      let new := startTarget t
      commitPoint r f true (lockRecord old new 0x01 tid (nextFresh t) f.ten (dSeq f.raw) t) 0x03 0x2A
        (fun u => settle r { done (latchNo new + 256 * zone + 65536 * tid) with degraded := frontReduced u }
          (setLatch old new 0x01 (some tid) u)) t
    match grant with
    | none => decide_ s
    | some e =>
      commitPoint r f true (.part (stampPart { kind := 0x13, ten := f.ten, tid := e.bindTid, seq := dSeq f.raw, unit := e.ns } s))
        0x02 0x2A decide_ s

/-- Step 5, and the commit. -/
def startCardStep (r : Nat) (f : Flight) (pol : StartPolicy) (tid zone : Nat) (cards : List StartCard) (s : State) : State :=
  if pol.reqCard then
    match startCards false (namedCards s pol cards) s with
    | .fail fr s => settle r { fr with stage := 0x02 } s
    | .pass c s =>
      match cardEntry s pol.cardNs c.2.1 c.2.2 with
      | .fail fr s => settle r { fr with stage := 0x02 } s
      | .pass e s => startCommit r f tid zone (some c) (some e) s
  else startCommit r f tid zone none none s

/-- The policy a START was admitted under. -/
def startPolicyOf (s : State) (r : Nat) : StartPolicy := (tabFind s.slk.admitted r).getD s.slk.policy

/-- The poll that a start decision's ranging put aside goes on: a sounding asks for the air anew. -/
def resumePoll (s : State) : State :=
  match s.radio.poll with
  | some q => if q.phase == .sound && q.asked then coexAnew 1 q s else if q.phase == .report && q.asked then coexAnew 0 q s else s
  | none => s

/-- When the class bound of a START expires, µs (R335). -/
def startLimit (s : State) (r : Nat) (f : Flight) : Nat := boundStart s r f + 2000000

/-- Pairs whose COEX_USE covers the ranging: COEX_PRI is raised in it (R276). -/
def startPairs (s : State) : List Nat :=
  (List.range 2).filter (fun m => (coexPairs s 0).contains m || (coexPairs s 1).contains m)

/-- Runs a START on what its ranging and card reading find; a session that waited for its lead goes on. -/
def startRun (r : Nat) (ev : StartEvidence) (f : Flight) (s : State) : State :=
  let pol := startPolicyOf s r
  let old := s.radio.poll
  let pri := startPairs s != []
  let s := modRadio (fun b => { b with poll := b.session, session := none }) s
  match rangeAll r (startLimit s r f) pol.tokenNs pri (startCands s (fieldLE f.raw 24 4)) ev.tokens (failFate fAbsent 0x20) s with
  | .fail fr t => settle r fr (putSession old (priFall t))
  | .pass p t =>
    if startLimit s r f ≤ monoUs t then settle r (failFate fTimeout 0x2B 0x02) (putSession old (priFall t))
    else startCardStep r f pol p.1 p.2 ev.cards (putSession old (priFall t))

/-- The first token's challenge goes out, where it can be ranged. -/
def firstChallenge (r : Nat) (f : Flight) (s : State) : State :=
  match (startCands s (fieldLE f.raw 24 4)).head? with
  | some tid =>
    if (uhfRec s).isSome && chainsUp s != [] && cabChans s != [] && !noNonce s && (tokenKeyOf s tid).isSome then
      playChallenge r tid (startChans s tid) (putSession none s)
    else putSession none s
  | none => putSession none s

/-- The challenge of a start decision has been sent and its trigger waits for the priority lead: the requests and COEX_PRI rise 100 µs before
it. -/
def awaitLead (r : Nat) (ev : StartEvidence) (old : Option Poll) (p : Poll) (s : State) : State :=
  let s := elapseToNs (slotAt p 0 - 100000) s
  uhfEvent 3 (modRadio (fun b => { b with startWait := some (r, monoUs s, ev), session := some p, poll := old })
    (drivePri true (driveReq (s.radio.coexReq ||| pairMask (coexPairs s 0)) s)))

/-- A start decision begins: in Service it is refused (R316 step 1). Its first challenge goes out; where a coexistence pair covers triggers the
rest goes on with COEX_PRI_LEAD, and elsewhere at once. -/
def startBegin (r : Nat) (ev : StartEvidence) (f : Flight) (s : State) : State :=
  if !(s.pwr.mode == .cab || s.pwr.mode == .drive) then settle r (failFate fPolicy 0x28) s
  else
    let old := s.radio.poll
    let t := firstChallenge r f s
    match t.radio.poll with
    | some p =>
      if p.phase == .slots && coexPairs t 0 != [] then awaitLead r ev old p t
      else resumePoll (startRun r ev f (modRadio (fun b => { b with poll := old, session := some p }) t))
    | none => resumePoll (startRun r ev f (putSession old t))

/-- The air is free for a start decision (R301): nothing is on it, or a LOCATE whose telegram has not begun, that pauses between bursts, or that
waits between its bursts and a report or after one. It has the turn before waiting LOCATEs, and cuts no burst or report. -/
def airFree (s : State) : Bool :=
  match s.radio.poll with
  | none => true
  | some p => (pollOp p.kind).isSome && !p.measure && ((p.phase == .telegram && p.sent == 0) ||
      (p.phase == .sound && decide (p.burstEnd ≤ s.clk.ns)) ||
      (p.phase == .report && decide (p.burstEnd ≤ s.clk.ns) && (p.open_.isNone || decide (p.trigAt + nsReplySlot ≤ s.clk.ns))))

/-- No window of a change of the angle reference holds requests to the Furrow (R202). -/
def furrowOpen (s : State) : Bool := match furrowGrant s 1 s.clk.ns with | .wait => false | .at _ | .noFit _ => true

/-- The START's lookups can be answered, its keys and nonces drawn, and the Furrow answers. -/
def startReady (s : State) (r : Nat) (f : Flight) (ev : StartEvidence) : Bool :=
  let pol := startPolicyOf s r
  (secReady s || noNonce s) && furrowOpen s && (startCands s (fieldLE f.raw 24 4)).all (fun t => (permitUnder s pol.tokenNs t).isSome) &&
    (!pol.reqCard || (namedCards s pol ev.cards).all (fun c => lookupIn s pol.cardNs 1 (slice c.answer 0 16) != .waits))

/-- Descriptor `r` is a START whose turn has come and that has not begun. -/
def startTurn (s : State) (r : Nat) (f : Flight) : Bool :=
  working s && dOpc f.raw == 0x0300 && !f.begun && f.fate.isNone && earlierFated s r f && queueTurn s r f

/-- A start decision. One that finds the air in use has the next turn on it (R301). -/
def execStart (r : Nat) (evidence : StartEvidence) (s : State) : Host.Outcome State Fault Refusal :=
  .next (match getFlight s r with
    | none => s
    | some f =>
      if s.radio.startWait.isSome || !startReady s r f evidence then s
      else if !airFree s then onlyIf (startTurn s r f) (modRadio (fun b => { b with startDue := some r })) s
      else startOp 0x0300 r (fun f s => startBegin r evidence f (modRadio (fun b => { b with startDue := none }) s)) s)

/-- The priority lead has passed. -/
def execCoexPriLead (s : State) : Host.Outcome State Fault Refusal :=
  .next (match s.radio.startWait with
    | none => s
    | some (r, t, ev) =>
      let s := modRadio (fun b => { b with startWait := none }) (elapseTo (t + 100) s)
      resumePoll (priFall (modRadio (fun b => { b with session := none }) (onOp 0x0300 r (startRun r ev) s))))

end Sys2Proof.Machine
end

