-- ==== Sys2Proof/Machine/Ends.lean ====
section
/-! DEFINITION. The end of an operation by something other than its own course: a unit lost under it, or its class bound
(R36, R122, R300, R480, R506, R536, R578). -/

namespace Sys2Proof.Machine

/-- The units an operation that counts them has reached: its fate is PARTIAL once there are any (R122). -/
def withUnits (fr : FateRec) (n : Nat) : FateRec :=
  if n = 0 then fr else { fr with code := fPartial, units := n, result := n }

/-- The pair's online test stops without a verdict (R584). -/
def dropTest (s : State) : State :=
  modFlt (fun b => { b with testBusy := false, testResult := 2, testSlices := 0, testOp := none, events := setBits b.events 7 }) s

/-- Gives an operation in flight the fate `fr` and takes its traces out of the engines. -/
def endOp (r : Nat) (f : Flight) (fr : FateRec) (s : State) : State :=
  let o := dOpc f.raw
  if o = 0x0200 then endLocate r fr s
  else if o = 0x0300 then
    match s.radio.startWait with
    | some (q, _, _) =>
      if q = r then settle r fr (resumePoll (priFall (modRadio (fun b => { b with startWait := none, session := none }) s)))
      else settle r fr s
    | none => settle r fr s
  else if dClass f.raw = 0x04 then
    match s.nfc.xs.find? (fun x => x.op == r) with
    | some x => endLost x fr 0x28 s
    | none => settle r fr s
  else if o = 0x0500 then
    match s.ifl.relays.find? (fun x => x.op == r) with
    | some x => endRelay x fr.detail fr.code fPartial s
    | none => settle r fr s
  else if o = 0x0600 then settle r fr (cancelAppend r s)
  else if o = 0x0701 then settle r fr (modDir (fun d => { d with grants := d.grants.filter (fun g => g.1 != r) }) s)
  else if 0x0702 ≤ o ∧ o ≤ 0x0705 then
    settle r fr (modCus (fun c => { c with jobs := c.jobs.filter (fun j => j.what != .delta r) })
      (modDir (fun d => { d with pending := d.pending.filter (fun p => p.op != r) }) s))
  else if o = 0x0C01 then
    match s.upd.push with
    | some p =>
      if p.op = r then settle r (withUnits fr p.staged) (modUpd (fun u => { u with push := none, sends := [] }) s) else settle r fr s
    | none => settle r fr s
  else if o = 0x0C02 then
    match s.upd.schedOp with
    | some (q, _, n) => if q = r then settle r (withUnits fr n) (modUpd (fun u => { u with schedOp := none }) s) else settle r fr s
    | none => settle r fr s
  else if o = 0x0F05 then
    settle r (withUnits fr f.units) (modCus (fun c => { c with
      drives := c.drives.map (fun x => if x.drain = some r then { x with drain := none } else x) }) s)
  else if o = 0x0F01 then settle r fr (if s.flt.testOp = some r then dropTest s else s)
  else settle r fr s

/-- An operation that has taken its effect, or is past the point where it can be stopped. -/
def pastEnd (s : State) (r : Nat) : Bool :=
  s.slc.settling.any (fun x => x.op == r) || s.dir.pending.any (fun p => p.op == r && p.rid != 0)

/-! ### The bounds -/

/-- Started MiB of LEN. -/
def mib (f : Flight) : Nat := ceilDiv (dLen f.raw) 1048576

/-- Stripes held on the drive an SVC operation names. -/
def stripesOn (s : State) (d : Nat) : Nat := match (getDrive s d).unit with | some u => usedStripes s.cus u | none => 0

/-- The bound of an operation, µs; none where its class gives none. Bounds of the NFC class grow for a reader of a trailer. -/
def boundUs (s : State) (f : Flight) : Option Nat :=
  let o := dOpc f.raw
  let ms := fun n => some (1000 * n)
  let far := if (namedReaders f).any (fun k => decide (8 ≤ k)) then 200 else 0
  if o = 0x0200 then ms (if locateSound f then 300 else 150)
  else if o = 0x0202 ∨ o = 0x0203 then ms 10
  else if o = 0x0201 ∨ o = 0x0204 ∨ o = 0x0205 ∨ o = 0x0302 ∨ o = 0x0405 ∨ o = 0x0501 ∨ o = 0x0502 ∨ o = 0x0604 ∨ o = 0x0706 ∨
      o = 0x0B01 ∨ o = 0x0C05 ∨ o = 0x0F00 then ms 1
  else if o = 0x0300 then ms 2000
  else if o = 0x0301 then ms 5
  else if o = 0x0400 ∨ o = 0x0404 then ms (1000 + far)
  else if o = 0x0401 then ms (500 + far)
  else if o = 0x0402 ∨ o = 0x0403 then ms (1500 + far)
  else if o = 0x0500 then ms 5000
  else if o = 0x0600 ∨ o = 0x0601 then ms (500 + 20 * mib f)
  else if o = 0x0602 ∨ o = 0x0703 ∨ o = 0x0705 ∨ o = 0x0802 ∨ o = 0x0803 ∨ o = 0x0806 then ms 50
  else if o = 0x0603 ∨ o = 0x0F06 then ms 10000
  else if o = 0x0700 ∨ o = 0x0701 then ms 5000
  else if o = 0x0702 then ms 200
  else if o = 0x0704 then ms 300
  else if o = 0x0800 ∨ o = 0x0801 ∨ o = 0x0804 ∨ o = 0x0805 ∨ o = 0x0A01 ∨ o = 0x0F02 then ms 10
  else if dClass f.raw = 0x09 then ms (5 + (if fieldLE f.raw 48 1 = 2 then 700 else 50) * mib f)
  else if o = 0x0A00 then ms (50 + 20 * mib f)
  else if o = 0x0A02 then ms (5 + 5 * mib f)
  else if o = 0x0B00 then ms (if fieldLE f.raw 24 1 % 2 = 1 then 20 else 10)
  else if o = 0x0C00 then ms 120000
  else if o = 0x0C01 then ms 600000
  else if o = 0x0C02 ∨ o = 0x0C03 ∨ o = 0x0C04 then ms 2000
  else if o = 0x0D00 then ms 40
  else if dClass f.raw = 0x0E then some 100
  else if o = 0x0F01 ∨ o = 0x0F03 then ms 500
  else if o = 0x0F04 ∨ o = 0x0F05 then ms (2000 + 2 * stripesOn s (fieldLE f.raw 24 1))
  else if o = 0x0F07 then ms 100
  else none

/-- The fate with which a bound's expiry ends an operation. -/
def boundFate (s : State) (r : Nat) (f : Flight) : FateRec :=
  let o := dOpc f.raw
  let dirOut := s.dir.st == 1 || !dramUp s
  if (dClass f.raw = 0x08 ∨ dClass f.raw = 0x09) ∧ !canDraw s then failFate fDevice 0x2C f.stage
  else if dClass f.raw = 0x0B ∧ !servable s f then failFate fDevice 0x20 f.stage
  else if o = 0x0200 then
    failFate fTimeout (match s.radio.poll with | some p => if pollOp p.kind = some r then p.waits else 0 | none => 0) f.stage
  else if o = 0x0300 then failFate fTimeout 0x2B f.stage
  else if o = 0x0500 then failFate fTimeout 0x26 f.stage
  else if dClass f.raw = 0x07 ∧ dirOut then failFate fTimeout 0x29 f.stage
  else if o = 0x0600 ∧ (storeDrives s.cus).isEmpty then failFate fDevice 0x27 f.stage
  else failFate fTimeout 0 f.stage

/-- A class bound expires before the effect (R122): it runs from admission, less the wait for earlier descriptors of the ring
(R36). A fence that has broken meanwhile counts first (R114). -/
def execClassBoundExpiry (r : Nat) (s : State) : Host.Outcome State Fault Refusal :=
  .next (match getFlight s r with
    | none => s
    | some f =>
      if f.fate.isSome || f.dupOf.isSome || !earlierFated s r f || !working s || pastEnd s r then s
      else match boundUs s f with
        | none => s
        | some n =>
          let s := elapseTo (boundStart s r f + n) s
          if !f.begun && !fenceHolds s r f then settle r (failFate fNotStarted 0x09) s
          else
            let dry := (dClass f.raw == 0x08 || dClass f.raw == 0x09) && !canDraw s
            onlyIf dry (keyEvent 5) (endOp r f (boundFate s r f) s))

end Sys2Proof.Machine
end

