-- ==== Sys2Proof/Machine/Pairs.lean ====
section
/-! DEFINITION. The steward pairs, repairs of SRAM and of the ledger's sectors, the lines of the PMIC and of COEX that stick,
and the thermal governor (R21–R23, R41, R451, R572, R576, R581–R584, R625). -/

namespace Sys2Proof.Machine

/-! ### The steward pairs -/

/-- Whether a pair has been taken out of service. -/
def pairOut (s : State) (b : Bool) : Bool := if b then s.pwr.bOut else s.pwr.aOut

/-- Reports a change of a pair's service state. -/
def pairRecord (b : Bool) (code sev action : Nat) (s : State) : State :=
  modFlt (fun x => { x with hits := x.hits ++ [{ at_ := monoUs s, unit := uPair * 256 + ofBool b, code := code }] })
    (writeFault uPair (ofBool b) code sev action 0 0 s)

/-- A pair leaves service or returns to it; the ledger keeps it. -/
def setPairOut (b out : Bool) (s : State) : State :=
  tryLog (.pair b out) (modPwr (fun p => if b then { p with bOut := out } else { p with aOut := out }) s)

/-- The online test of the shadow stops, and its descriptor ends with `result`. -/
def endPairTest (result : Nat) (s : State) : State :=
  match s.flt.testOp with
  | some r =>
    settle r (done result) (modFlt (fun b => { b with
      testBusy := false, testResult := result % 256, testSlices := 0, testOp := none, events := setBits b.events 7 }) s)
  | none => s

/-- The other pair tails no more: the shadow is gone. -/
def loseShadow (b : Bool) (third : Bool) (s : State) : State :=
  let s := modFlt (fun x => { x with shadowOk := false }) s
  let s := endPairTest 2 (pairRecord b 0x02 sDegraded (if third then 0x04 else 0x02) s)
  if third then setPairOut b true s else modPwr (fun p => { p with selfTest := some b }) s

/-- Takeovers within the last 24 h in which pair `b` failed. -/
def takeoversOf (s : State) (b : Bool) : Nat :=
  (s.flt.takeovers.filter (fun e => e.1 == b && decide (monoUs s < e.2 + 86400000000))).length

/-- The shadow becomes the active pair, and the failed one is tested, or out of service at its third takeover within 24 h. Without
a shadow nothing takes over (R23, R572). -/
def takeover (s : State) : State :=
  if s.sys.ready && s.flt.shadowOk then
    let b := s.pwr.activeB
    let s := modPwr (fun p => { p with activeB := !b }) s
    let s := modFlt (fun x => { x with takeovers := x.takeovers ++ [(b, monoUs s)], events := setBits x.events 1 }) s
    failoverTrial (loseShadow b (decide (3 ≤ takeoversOf s b)) s)
  else s

/-- Whatever the cause, the shadow takes over. -/
def execStewardTakeover (_cause : TakeoverCause) (s : State) : Host.Outcome State Fault Refusal := .next (takeover s)

/-- A pair that failed its test is out of service. -/
def pairFails (b : Bool) (s : State) : State :=
  setPairOut b true (pairRecord b 0x07 sDegraded 0x04 (modFlt (fun x => { x with shadowOk := false }) s))

/-- A pair that passed its test loads the last checkpoint and is the shadow; one loading new firmware is not yet (R554). -/
def joinShadow (s : State) : State :=
  modFlt (fun x => { x with shadowOk := match s.upd.handover with | .loading _ => false | .none | .hold _ => s.sys.ready }) s

def execPairSelfTestEnd (pass : Bool) (s : State) : Host.Outcome State Fault Refusal :=
  .next (match s.pwr.selfTest with
    | some b =>
      let s := modPwr (fun p => { p with selfTest := none }) s
      if pass then pairRecord b 0x09 sInfo 0x09 (joinShadow s) else pairFails b s
    | none => s)

/-- A slice of the shadow's online test; the 64th that passes ends it. -/
def execShadowTestSlice (pass : Bool) (s : State) : Host.Outcome State Fault Refusal :=
  .next (
    if s.flt.testBusy && s.flt.testType == uPair && s.flt.testOp.isSome then
      if pass then
        if s.flt.testSlices + 1 = 64 then endPairTest 0 s
        else modFlt (fun b => { b with testSlices := b.testSlices + 1 }) s
      else endPairTest 0x0701 (pairFails (!s.pwr.activeB) s)
    else s)

/-! ### SRAM (R576) -/

/-- Errors of a bank within the last 24 h. -/
def bankErrs (s : State) (bank : Nat) : List SramErr :=
  s.flt.sramErrs.filter (fun e => e.bank == bank && decide (monoUs s < e.at_ + 86400000000))

/-- The row calls for a repair: an uncorrectable error, or the second corrected one within 24 h. -/
def rowDue (s : State) (bank row : Nat) (uncorr : Bool) : Bool :=
  uncorr || decide (2 ≤ ((bankErrs s bank).filter (fun e => e.row == row && !e.rowDone)).length)

/-- The column calls for a repair: errors in three different rows within 24 h. -/
def colDue (s : State) (bank col : Nat) : Bool :=
  decide (3 ≤ ((((bankErrs s bank).filter (fun e => e.col == col && !e.colDone)).map (·.row)).eraseDups).length)

/-- A bank without a spare for a repair leaves service for good. -/
def bankFails (bank row : Nat) (s : State) : State := changeUnit uSram bank .retired 0x02 sDegraded 0x04 0 row s

/-- A spare row comes in. -/
def repairRow (bank row : Nat) (s : State) : State :=
  let used := tabGet 0 s.flt.rowsUsed bank
  if used < 8 then
    tryLog (.other 576 (bank * 256 + used)) (modFlt (fun b => { b with
      rowsUsed := tabPut b.rowsUsed bank (used + 1), events := setBits b.events 2
      sramErrs := b.sramErrs.map (fun e => if e.bank = bank ∧ e.row = row then { e with rowDone := true } else e) }) s)
  else bankFails bank row s

/-- A spare column comes in. -/
def repairCol (bank row col : Nat) (s : State) : State :=
  let used := tabGet 0 s.flt.colsUsed bank
  if used < 4 then
    tryLog (.other 576 (0x10000 + bank * 256 + used)) (modFlt (fun b => { b with
      colsUsed := tabPut b.colsUsed bank (used + 1), events := setBits b.events 2
      sramErrs := b.sramErrs.map (fun e => if e.bank = bank ∧ e.col = col then { e with colDone := true } else e) }) s)
  else bankFails bank row s

/-- What an uncorrectable word costs: its pair is taken over, a measurement restarts, any other operation ends UNIT_LOST. -/
def wordLost (owner : SramOwner) (s : State) : State :=
  match owner with
  | .none => s
  | .pair b =>
    if b = s.pwr.activeB then takeover s
    else if s.sys.ready && s.flt.shadowOk then loseShadow b false s else s
  | .measurement r =>
    match s.radio.poll with
    | some p => if pollOp p.kind = some r then restartPoll s else s
    | none => s
  | .op r =>
    match getFlight s r with
    | some f => if f.fate.isNone && f.begun && !pastEnd s r then endOp r f (failFate fDevice 0x19 f.stage) s else s
    | none => s

def execSramEccError (bank row col : Nat) (uncorr : Bool) (owner : SramOwner) (s : State) : Host.Outcome State Fault Refusal :=
  .next (
    if bank < 64 ∧ unitSt s uSram bank = .up then
      let s := modFlt (fun b => { b with
        sramErrs := b.sramErrs ++ [{ at_ := monoUs s, bank := bank, row := row, col := col }] }) s
      let byRow := rowDue s bank row uncorr
      let byCol := colDue s bank col
      let code := if uncorr then 0x02 else 0x01
      let s := fault uSram bank code (if byRow || byCol then sDegraded else sInfo) (if byRow || byCol then 0x03 else 0x00) 0 row s
      let s := onlyIf byRow (repairRow bank row) s
      let s := onlyIf (byCol && unitSt s uSram bank == .up) (repairCol bank row col) s
      onlyIf uncorr (wordLost owner) s
    else s)

/-! ### The ledger's sectors (R41, R451) -/

/-- A half has failed; with both gone the part enters Hearth mode. -/
def halfFails (b : Bool) (s : State) : State :=
  let s := modLed (fun l => if b then { l with bFailed := true, bRefill := 0 } else { l with aFailed := true, aRefill := 0 }) s
  let s := changeUnit uLedger (ofBool b) .retired 0x02 sDegraded 0x04 0 0 (cusEvent 5 s)
  if !ledgerUp s && (s.sys.ready || (s.pwr.mode == .parked && s.pwr.start == .settled)) then enterHearth 3 s else s

def execLedgerSectorFail (b : Bool) (s : State) : Host.Outcome State Fault Refusal :=
  .next (
    if (if b then s.led.bFailed else s.led.aFailed) then s
    else if (if b then s.led.bSpares else s.led.aSpares) = 0 then halfFails b s
    else
      let s := modLed (fun l => if b then { l with bSpares := l.bSpares - 1, bRefill := l.bRefill + 1 }
        else { l with aSpares := l.aSpares - 1, aRefill := l.aRefill + 1 }) s
      fault uLedger (ofBool b) 0x02 sDegraded 0x03 0 0 (modFlt (fun x => { x with events := setBits x.events 2 }) (cusEvent 4 s)))

/-! ### Lines that stick (R581, R582) -/

/-- COEX_GNTm stays high for 1 s with no request: reported, and grants are still taken as given. -/
def execCoexGntStuck (m : Fin 2) (s : State) : Host.Outcome State Fault Refusal :=
  .next (
    if portUp s pCoex m && s.radio.coexGnt.getLsbD m && !s.radio.coexReq.getLsbD m && !s.flt.coexStuck.getLsbD m then
      fault pCoex m 0x03 sInfo 0x00 0 0 (modFlt (fun b => { b with coexStuck := setBits b.coexStuck m }) s)
    else s)

/-- Nine clocks and a stop condition on the PMIC bus, when a transfer finds a line low and every 10 s while the bus is stuck. -/
def execPmicRecoveryRetry (freed : Bool) (s : State) : Host.Outcome State Fault Refusal :=
  .next (
    if !s.pwr.vaon || !pmicKnown s then s
    else if s.flt.pmicStuck then
      let s := elapseTo (s.flt.pmicAt + 10000000) s
      let s := modFlt (fun b => { b with pmicAt := monoUs s }) s
      if freed then writeFault uPmic 0 0x09 sInfo 0x09 0 0 (modFlt (fun b => { b with pmicStuck := false }) s) else s
    else if freed then fault uPmic 0 0x03 sInfo 0x01 0 0 s
    else
      let s := modFlt (fun b => { b with pmicStuck := true, pmicAt := monoUs s }) (modPwr (fun p => { p with pmicFault := true }) s)
      fault uPmic 0 0x03 sDegraded 0x01 0 0 s)

/-- PMIC_IRQ_N stays low for 10 s and is ignored; or it has been high for 1 s again. -/
def execPmicIrqStuck (low : Bool) (s : State) : Host.Outcome State Fault Refusal :=
  .next (
    if !s.pwr.vaon || s.flt.pmicIrqStuck == low then s
    else
      let s := modFlt (fun b => { b with pmicIrqStuck := low }) s
      if low then fault uPmic 0 0x03 sInfo 0x05 0 0 s else writeFault uPmic 0 0x09 sInfo 0x09 0 0 s)

/-! ### The thermal governor (R625, R626) -/

/-- A level is in force: its rising threshold is reached, or it was in force and its falling threshold is not. -/
def levelHolds (now : Nat) (temp : Int) (l : Nat) : Bool :=
  decide ((120 + 2 * l : Nat) ≤ temp) || (decide (l ≤ now) && decide ((117 + 2 * l : Nat) < temp))

/-- The governor's next level. -/
def nextLevel (now : Nat) (temp : Int) : Nat := (([1, 2, 3, 4].filter (levelHolds now temp)).getLast?).getD 0

/-- A change of level: the EVIDENCE bucket is brought up to date, and one that begins to limit is full. -/
def changeLevel (l : Nat) (s : State) : State :=
  let was := s.pwr.govLevel
  let s := modSlc (fun b => { b with evBytes := if was = 0 then 1000000 * (evidenceRate l : Int) else evidenceNow s, evAt := monoUs s }) s
  modPwr (fun p => { p with govLevel := l }) s

/-- The lanes' own sensors read free values up to the hottest sensor's reading, which is the die's (R605, R517). -/
def laneTemps (die : Int) (s : State) : State :=
  let b := freeBytes s 20
  drawn 20 (modSec (fun x => { x with lanes := x.lanes.zipIdx.map (fun e => { e.1 with temp := die - byteAt b e.2 }) }) s)

def execThermalGovernor (temp : Int) (s : State) : Host.Outcome State Fault Refusal :=
  .next (
    if s.sys.ready then
      let s := laneTemps temp (setDieTemp temp s)
      let l := nextLevel s.pwr.govLevel temp
      if l = s.pwr.govLevel then s else changeLevel l s
    else s)

end Sys2Proof.Machine
end

