-- ==== Sys2Proof/Machine/RegMap.lean ====
section
/-! DEFINITION. What every register of BAR0 reads (R13, R102, R144, R186, R220, R256, R302, R339, R375, R376, R403, R430, R462,
R463, R482, R517, R538, R565, R593–R605). A register word is read at its offset in its block; an offset with no register reads 0. -/

namespace Sys2Proof.Machine

/-! ### Words -/

/-- A word from its fields: position, width, value. -/
def pack (l : List (Nat × Nat × Nat)) : Nat := l.foldl (fun a e => a + (e.2.2 % 2 ^ e.2.1) * 2 ^ e.1) 0

/-- A word from single bits: position, bit. -/
def packBits (l : List (Nat × Bool)) : Nat := l.foldl (fun a e => a + ofBool e.2 * 2 ^ e.1) 0

/-- The mask of the numbers below `n` that satisfy `p`. -/
def maskOf (n : Nat) (p : Nat → Bool) : Nat := (List.range n).foldl (fun a i => a + ofBool (p i) * 2 ^ i) 0

/-- The low and the high half of a 64-bit register. -/
def half (high : Bool) (v : Nat) : Nat := if high then bits v 32 32 else bits v 0 32

/-- A unit is under an online test (R583). -/
def inTest (s : State) (kind n : Nat) : Bool := s.flt.testBusy && s.flt.testType == kind && s.flt.testIndex == n

/-! ### SYS (R13, R601) -/

/-- The fields a virtual function sees are SYS_ID, SYS_STATUS, SYS_UID and SYS_FW_VER (R600). -/
def sysWord (s : State) (func o : Nat) : Nat :=
  if o = 0x00 then 0x320000B1
  else if o = 0x04 then
    packBits [(0, s.sys.ready), (1, s.pwr.mode == .hearth), (2, s.sys.trailer)] + pack [(8, 4, s.sys.resetCause.toNat)]
  else if 0x10 ≤ o ∧ o < 0x20 then bits s.fuse.uid.toNat (8 * (o - 0x10)) 32
  else if o = 0x24 then (match s.upd.running with
    | some b => (getSlot s b).ver % 2 ^ 32
    | none => 0)
  else if func ≠ 0 then 0
  else if o = 0x0C then ofBool s.sys.lockSetup
  else if o = 0x20 then
    pack [(0, 4, s.fuse.opt.toNat), (16, 11, s.fuse.tenCeil)] + packBits [(4, s.fuse.dbgFused), (5, s.fuse.dbgPerm)]
  else if o = 0x28 then s.sys.scratch.toNat
  else 0

/-! ### HOST (R144, R604) -/

/-- A word of the ring that HOST_RING_SEL names. -/
def ringWord (rg : Ring) (o : Nat) : Nat :=
  let u := rg.setup
  if o = 0x08 ∨ o = 0x0C then half (o == 0x0C) u.hrBase.toNat
  else if o = 0x10 ∨ o = 0x14 then half (o == 0x14) u.trBase.toNat
  else if o = 0x18 ∨ o = 0x1C then half (o == 0x1C) u.ciwb.toNat
  else if o = 0x20 then pack [(0, 5, u.hrLog.toNat), (8, 5, u.trLog.toNat)]
  else if o = 0x24 then ofBool (rg.st == .running || rg.st == .stopped)
  else if o = 0x28 then pack [(0, 11, u.vec.toNat), (16, 8, u.modCount.toNat)]
  else if o = 0x2C then u.modUs.toNat
  else if o = 0x30 then pack [(0, 3, ringCode rg.st), (8, 8, rg.err.toNat)]
  else if o = 0x34 then rg.hrPi.toNat
  else if o = 0x38 then rg.hrCi.toNat
  else if o = 0x3C then rg.trPi.toNat
  else if o = 0x40 then rg.trCi.toNat
  else if o = 0x48 ∨ o = 0x4C then half (o == 0x4C) rg.seqHi
  else 0

/-- Tenancies bound to a function, lowest first. -/
def boundTens (s : State) (func : Nat) : List Nat := (s.slc.tens.filter (fun e => e.2.func == func)).map (·.1)

/-- A word of an MSI-X table entry. -/
def vecWord (v : MsixVec) (o : Nat) : Nat :=
  if o = 0 then bits v.addr.toNat 0 32 else if o = 4 then bits v.addr.toNat 32 32
  else if o = 8 then v.data.toNat else ofBool v.masked

def hostWord (s : State) (func o : Nat) : Nat :=
  let f := getFunc s func
  if o = 0x00 then pack [(0, 10, f.selTen.toNat), (16, 6, f.selRing.toNat)]
  else if o < 0x50 then (match selectedRing s func with
    | some g => ringWord (getRing s g) o
    | none => if o = 0x30 then 0x10000 else 0)
  else if o = 0x100 then pack [(0, 6, func), (16, 12, vecsOf s func)] + packBits [(6, func != 0)]
  else if o = 0x104 then pack [(0, 11, (boundTens s func).length), (16, 11, (boundTens s func).headD 0x7FF)]
  else if o = 0x108 then
    if func = 0 then
      pack [(0, 3, s.host.linkSpeed.toNat), (4, 4, s.host.linkWidth.toNat), (9, 2, s.host.laneInv.toNat)] +
        packBits [(8, s.host.laneRev)]
    else 0
  else if 0x7000 ≤ o ∧ o < 0x7100 then
    maskOf 32 (fun i => decide (8 * (o - 0x7000) + i < vecsOf s func) && (getVec s func (8 * (o - 0x7000) + i)).pending)
  else if 0x8000 ≤ o then
    let v := (o - 0x8000) / 16
    if v < vecsOf s func then vecWord (getVec s func v) (o % 16) else 0
  else 0

/-! ### SLC (R186, R610) -/

/-- SLC_SEL_BAD: the tenancy is not one the function may see, or a writ has removed what the selector names. -/
def slcBad (s : State) (func : Nat) : Bool :=
  let f := getFunc s func
  let t := getTen s f.slcTen.toNat
  (func != 0 && t.func != func) ||
    (f.slcGone && (t.func == 0x7F || (tabGet ({} : Culvert) t.culverts f.slcCulv.toNat).rights == 0))

def slcWord (s : State) (func o : Nat) : Nat :=
  let f := getFunc s func
  let t := f.slcTen.toNat
  let x := getTen s t
  let c := tabGet ({} : Culvert) x.culverts f.slcCulv.toNat
  if o = 0x00 ∨ o = 0x04 then half (o == 0x04) s.slc.epoch
  else if o = 0x10 then pack [(0, 10, t), (16, 4, f.slcCulv.toNat)] + packBits [(31, slcBad s func)]
  else if slcBad s func then 0
  else if o = 0x14 then pack [(0, 7, x.func), (8, 4, x.party), (16, 8, x.weight)]
  else if o = 0x18 then pack [(0, 12, x.ringBase), (16, 7, x.ringCount)]
  else if o = 0x1C then x.classMask.toNat
  else if o = 0x20 then pack [(0, 16, x.nsRead.toNat), (16, 16, x.nsWrite.toNat)]
  else if o = 0x28 ∨ o = 0x2C then half (o == 0x2C) c.base
  else if o = 0x30 ∨ o = 0x34 then half (o == 0x34) c.size
  else if o = 0x38 then c.rights.toNat
  else if o = 0x60 then pack [(0, 17, inflightOf s t)] + packBits [(31, x.func != 0x7F && weirHeld s t)]
  else if x.func = 0x7F then 0
  else if o = 0x40 then x.weir.rate % 2 ^ 23
  else if o = 0x44 then x.weir.burst % 2 ^ 23
  else if o = 0x48 then x.weir.byteRate % 2 ^ 23
  else if o = 0x4C then x.weir.inflightMax % 2 ^ 23
  else 0

/-! ### ANG and CNT (R220) -/

def cntCtlWord (c : Cnt) : Nat :=
  packBits [(0, c.en), (1, c.irq0), (2, c.irq1), (3, c.capIrq)] +
    pack [(8, 4, c.capSrc.toNat), (12, 2, c.capEdge.toNat), (16, 8, c.prescale.toNat)]

def cntStatWord (s : State) (c : Cnt) : Nat :=
  packBits [(0, c.down), (1, c.hit0), (2, c.hit1), (3, c.capFull), (4, c.capOvr), (5, cntSlow s), (6, c.rateChg)]

def angWord (s : State) (o : Nat) : Nat :=
  let c := selCnt s
  if o = 0x00 then
    pack [(0, 2, refCode s.clk.ref), (3, 2, (s.clk.switching.map refCode).getD 0), (16, 16, angRpm s)] +
      packBits [(2, s.clk.switching.isSome), (5, s.clk.crank.sync), (6, s.clk.cam.known), (7, turning s), (8, (road s).isSome)]
  else if o = 0x04 then angPos s % 8192
  else if o = 0x08 then (road s).getD 0 % 65536
  else if o = 0x0C then s.clk.events.toNat
  else if o = 0x10 then packBits [(0, s.clk.onRc), (1, s.clk.clkSwitching), (2, s.clk.rtcOnRc)]
  else if o = 0x14 then s.clk.table.tableId
  else if o = 0x100 then s.clk.cntSel.toNat
  else if o = 0x104 then cntCtlWord c
  -- A TOP that waits for the count of 0 is read as written (DESIGN CHOICE, log entry 41).
  else if o = 0x108 then c.topNext.getD c.top
  else if o = 0x10C then c.count
  else if o = 0x110 then c.cap
  else if o = 0x114 then c.cmp0
  else if o = 0x118 then c.cmp1
  else if o = 0x11C then cntStatWord s c
  else if o = 0x120 then s.clk.cntVec.toNat
  else 0

/-! ### LF and UHF (R256, R302) -/

/-- LF_CH_ST: 0 not fitted, 1 in service, 2 on the spare sense path, 3 out of service, 4 in test. -/
def lfChSt (s : State) (ch : Nat) : Nat :=
  if !fitted s pLf ch then 0
  else if inTest s pLf ch then 4
  else if portUp s pLf ch && (lfRec s).isSome then (if (tabGet ({} : LfState) s.radio.lfCh ch).spare then 2 else 1)
  else 3

/-- LF_ACTIVE: from a telegram's first mark to the end of its last segment. -/
def lfActive (s : State) (p : Poll) : Bool := telegramOn s p && p.sent != 0

def lfWord (s : State) (o : Nat) : Nat :=
  let ch := s.radio.lfSel.toNat
  let x := tabGet ({} : LfState) s.radio.lfCh ch
  if o = 0x00 then pack [(0, 8, s.radio.cabPeriod), (8, 8, s.radio.drivePeriod), (16, 8, s.radio.approach)]
  else if o = 0x04 then
    pack [(0, 6, ((List.range 48).filter (fun c => portUp s pLf c && (lfRec s).isSome)).length), (8, 9, s.radio.near.length)] +
      packBits [(6, s.radio.poll.any (lfActive s)), (7, (lfRec s).isSome)]
  else if o = 0x10 then ch
  else if o = 0x14 then
    if fitted s pLf ch then
      pack [(0, 3, lfChSt s ch), (4, 4, if railServes s pLf then x.fault else 5), (8, 12, x.ipeak)]
    else 0
  else if o = 0x18 then
    if fitted s pLf ch then pack [(0, 6, x.duty), (8, 8, unsigned 8 x.phase)] else 0
  else if o = 0x20 then s.radio.lfEvents.toNat
  else if o = 0x24 then
    -- A telegram counts once its last segment has ended.
    (s.radio.cntTx - BitVec.ofNat 32 (ofBool (s.radio.poll.any (fun p => p.phase == .slots && telegramOn s p)))).toNat
  else if o = 0x28 then s.radio.cntRxOk.toNat
  else if o = 0x2C then s.radio.cntNofit.toNat
  else if o = 0x30 then ((lfRec s).map (·.vwp.toNat)).getD 0
  else 0

/-- UHF_CH_ST: 0 not fitted, 1 in service, 2 out of service, 3 in test. -/
def uhfChSt (s : State) (k : Nat) : Nat :=
  if !fitted s pUhf k then 0 else if inTest s pUhf k then 3 else if portUp s pUhf k && (uhfRec s).isSome then 1 else 2

def uhfChFault (s : State) (k : Nat) : Nat :=
  if !railServes s pUhf then 4 else if !clockServes s pUhf then 5 else (tabGet ({} : UhfState) s.radio.uhfCh k).fault

def uhfWord (s : State) (o : Nat) : Nat :=
  let k := s.radio.uhfSel.toNat
  let x := tabGet ({} : UhfState) s.radio.uhfCh k
  let u := uhfRec s
  if o = 0x00 then
    pack [(0, 8, maskOf 8 (fun k => portUp s pUhf k && u.isSome)), (16, 7, s.radio.tracks.length)] +
      packBits [(8, unitSt s uSyn 0 == .up), (9, unitSt s uSyn 1 == .up), (10, u.isSome), (11, s.radio.zones.isSome),
        (12, u.any usPlan), (23, s.radio.poll.any (fun p => p.phase == .sound || p.phase == .report))]
  else if o = 0x04 then k
  else if o = 0x08 then
    if fitted s pUhf k then
      pack [(0, 3, uhfChSt s k), (4, 4, uhfChFault s k), (8, 8, unsigned 8 x.pwrErr), (16, 8, x.snr)]
    else 0
  else if o = 0x0C then
    pack [(0, 2, if s.radio.poll.any (fun p => coexSpent p s.clk.ns) then 0 else s.radio.coexReq.toNat), (2, 2, s.radio.coexGnt.toNat), (8, 8, (u.map (·.coexTmo)).getD 0)] +
      packBits [(4, s.radio.coexPri)]
  else if o = 0x10 then s.radio.uhfEvents.toNat
  else if o = 0x14 then pack [(0, 16, dutySum s / 360000), (16, 16, (u.map (·.txDuty)).getD 0)]
  else if o = 0x18 then s.radio.cntSound.toNat
  else if o = 0x1C then s.radio.cntRelay.toNat
  else if o = 0x20 then s.radio.cntCoex.toNat
  else if o = 0x24 then ((s.radio.zones).map (·.tableId)).getD 0
  else 0

/-! ### NFC and CAP (R375, R376) -/

/-- A reader's carrier is on; it has activated a card. -/
def readerField (s : State) (k : Nat) : Bool := (getReader s k).field
def readerActive (s : State) (k : Nat) : Bool := s.nfc.xs.any (fun x => x.readers.head? == some k && x.step != .activate) || (getReader s k).card.isSome

/-- NFC_RD_ST: 0 not fitted, 1 detecting, 2 active, 3 out of service, 4 in test. -/
def readerSt (s : State) (k : Nat) : Nat :=
  if !fitted s pNfc k then 0
  else if inTest s pNfc k then 4
  else if !portUp s pNfc k then 3
  else if readerActive s k then 2 else 1

def nfcWord (s : State) (o : Nat) : Nat :=
  let k := s.nfc.sel.toNat
  let e := s.cap.sel.toNat
  if o = 0x00 then pack [(0, 8, maskOf 8 (fun k => portUp s pNfc k)), (8, 8, maskOf 8 (readerField s))]
  else if o = 0x04 then pack [(0, 8, s.nfc.detPeriod), (8, 13, s.nfc.wtxCeil), (21, 2, s.nfc.maxRate)]
  else if o = 0x08 then k
  else if o = 0x0C then
    if fitted s pNfc k then
      pack [(0, 3, readerSt s k), (4, 4, if railServes s pNfc then (getReader s k).fault else 3), (8, 8, (getReader s k).delta)]
    else 0
  else if o = 0x10 then s.nfc.events.toNat
  else if o = 0x100 then bits (touchMask s) 0 32
  else if o = 0x104 then bits (touchMask s) 32 16
  else if o = 0x108 then e
  else if o = 0x10C then
    pack [(0, 3, if e < 48 then capElState s e else 0), (16, 16, (getEl s e).delta)] +
      packBits [(3, s.cfg.cap.any capRecOk)]
  else if o = 0x110 then s.cap.events.toNat
  else 0

/-! ### IFL (R403, R430) -/

/-- IFL_PORT_ST: 0 not fitted, 1 idle, 2 Trickle, 3 Flood, 4 out of service, 5 in test. A port in JOINING, ADRIFT or QUARANTINED, of which the
rule says nothing, reads as Trickle (DESIGN CHOICE, log entry 102). -/
def linePortSt (s : State) (p : Nat) : Nat :=
  if !fitted s pIfl p then 0
  else if inTest s pIfl p then 5
  else if !lineUp s p then 4
  else match (getPort s p).link with
    | .down => 1
    | .coupledF => 3
    | .joining | .coupledT | .adrift | .quarantined => 2

def iflWord (s : State) (o : Nat) : Nat :=
  let p := s.ifl.sel.toNat
  let x := getPort s p
  if o = 0x00 then
    pack [(0, 4, maskOf 4 (lineUp s)), (4, 4, maskOf 4 (fun n => (getPort s n).tblTx != 0))] +
      packBits [(8, (iflRec s).isSome), (9, s.ifl.winSync)]
  else if o = 0x04 then p
  else if o = 0x08 then
    pack [(0, 3, linePortSt s p), (4, 4, x.gain), (8, 4, x.tblTx), (12, 4, x.tblSent), (16, 8, x.det.headD 0),
      (24, 8, unsigned 8 x.margin)]
  else if o = 0x0C then pack [(0, 16, x.bitsTx), (16, 16, x.bitsSent)]
  else if o = 0x10 then x.events.toNat
  else if o = 0x14 then x.cntPre.toNat
  else if o = 0x18 then x.cntHcrc.toNat
  else if o = 0x1C then x.cntPcrc.toNat
  else if o = 0x20 then x.cntRxOk.toNat
  else if o = 0x24 then x.cntTx.toNat
  else if o = 0x40 then pack [(0, 3, linkCode x.link), (4, 3, x.pos), (8, 8, min 255 x.missed)]
  else if o = 0x44 then
    maskOf 8 (fun q => q != 0 && (nodeAt s q).isSome) + 256 * maskOf 8 (fun q => q != 0 && s.ifl.nodes.any (fun e => e.2.adrift && behind s e.1 7 q))
  else if o = 0x48 then s.ifl.linkEv.toNat
  else if o = 0x4C then s.ifl.cntRetx.toNat
  else if o = 0x50 then s.ifl.cntLost.toNat
  else 0

/-! ### CUS and DIR (R462, R463, R482) -/

def cusWord (s : State) (o : Nat) : Nat :=
  let d := s.cus.sel.toNat
  let x := getDrive s d
  if o = 0x00 then
    pack [(0, 4, maskOf 4 (fun d => (getDrive s d).st == .online || (getDrive s d).st == .worn)),
      (4, 4, maskOf 4 (fun d => (getDrive s d).st == .worn))] +
      packBits [(8, s.cus.recs.any (fun r => !recProtected s r)), (9, reprotecting s), (10, s.cfg.custody.any custodyOk),
        (11, s.cus.full), (12, !s.led.aFailed), (13, !s.led.bFailed), (14, s.led.low)]
  else if o = 0x04 then d
  else if o = 0x08 then
    pack [(0, 3, drvCode s d), (8, 4, x.ps), (16, 8, min 255 x.usedPct), (24, 8, unsigned 8 x.temp)]
  else if o = 0x0C then x.cap % 2 ^ 32
  else if o = 0x10 then drvFree s d % 2 ^ 32
  else if o = 0x14 then degStripes s % 2 ^ 32
  else if o = 0x18 then lostRecords s % 2 ^ 32
  else if o = 0x20 then pack [(0, 7, s.led.aSpares), (8, 7, s.led.bSpares), (16, 12, logFree s / 4096)]
  else if o = 0x28 ∨ o = 0x2C then half (o == 0x2C) s.led.lsn
  else if o = 0x30 then s.cus.events.toNat
  else 0

def dirWord (s : State) (o : Nat) : Nat :=
  let ns := s.dir.nsSel.toNat
  let q := s.dir.nodeSel.toNat
  let rev := if q != 0 && (nodeAt s q).isSome then (tabGet ({} : DirNode) s.dir.nodes q).held else 0
  if o = 0x00 then dirStatusWord s
  else if o = 0x04 then s.dir.table.length % 2 ^ 24
  else if o = 0x08 ∨ o = 0x0C then half (o == 0x0C) s.dir.revSeq
  else if o = 0x10 then ns
  else if o = 0x14 then minEpoch s ns % 2 ^ 32
  else if o = 0x18 then (s.dir.table.filter (fun e => e.ns == ns)).length % 2 ^ 24
  else if o = 0x20 then q
  else if o = 0x24 ∨ o = 0x28 then half (o == 0x28) rev
  else if o = 0x30 then s.dir.events.toNat
  else 0

/-! ### SEC (R517, R538) -/

def laneCode : LaneSt → Nat
  | .spare => 0 | .active => 1 | .out => 2 | .test => 3 | .wake => 4

def secWord (s : State) (o : Nat) : Nat :=
  let l := s.sec.laneSel.toNat
  let x := getLane s l
  let c := s.sec.srcSel.toNat
  let y := nth ({} : Source) s.sec.sources c
  if o = 0x00 then packBits [(0, vaultOk s), (1, s.sec.alarmEnd.isSome)] + pack [(8, 17, (openHandles s).length)]
  else if o = 0x04 then s.sec.starterGen % 2 ^ 32
  else if o = 0x08 then maskOf 20 (fun l => (getLane s l).st == .active)
  else if o = 0x0C then l
  else if o = 0x10 then
    if l < 20 then
      pack [(0, 3, if inTest s uLane l then 3 else laneCode x.st), (4, 4, x.fault), (8, 8, unsigned 8 x.temp),
        (16, 16, min 65535 (recentTimes (monoUs s) x.faults).length)]
    else 0
  else if o = 0x14 then s.sec.keyEvents.toNat
  else if o = 0x18 then s.sec.cntCph.toNat
  else if o = 0x1C then s.sec.cntTagFail.toNat
  else if o = 0x100 then
    pack [(0, 2, rngCode s.sec.rng), (4, 4, maskOf 4 (fun i => !s.sec.selfTest && (nth ({} : Source) s.sec.sources i).st == .healthy))]
  else if o = 0x104 then c
  else if o = 0x108 then pack [(0, 2, srcCode y.st), (4, 4, y.cause), (8, 8, min 255 (failures24 s y).length)]
  else if o = 0x10C then ofBool s.sec.selfTestReq
  else if o = 0x110 then s.sec.rngEvents.toNat
  else if o = 0x114 then s.sec.reseeds % 2 ^ 32
  else if o = 0x120 then s.sec.pkeLast.toNat
  else if o = 0x124 then s.sec.cntPke.toNat
  else 0

/-! ### SLK (R339) -/

def slkWord (s : State) (o : Nat) : Nat :=
  let p := s.slk.policy
  let out := isRelease (latch s) && s.pwr.vaon
  if o = 0x00 then
    pack [(0, 3, latchNo (latch s)), (8, 8, s.slk.cause), (16, 2, s.slk.timerKind)] +
      packBits [(3, out), (4, out && (board s).any (·.slk1)), (5, atRest s), (6, engineRunning s)]
  else if o = 0x04 then
    packBits [(0, s.slk.tokenLost), (1, s.slk.tokenUnknown), (2, (road s).isNone), (3, engineInvalid s), (4, onAlt s)]
  else if o = 0x08 then s.slk.events.toNat
  else if o = 0x0C then s.slk.bound % 2 ^ 32
  else if o = 0x10 then timerLeftMs s % 2 ^ 24
  else if o = 0x14 then s.slk.freshState % 2 ^ 32
  else if o = 0x18 then s.slk.freshBody % 2 ^ 32
  else if o = 0x1C then p.id % 2 ^ 32
  else if o = 0x20 then pack [(0, 8, p.lockHold), (8, 9, p.releaseWin), (17, 9, p.armHold)]
  else if o = 0x24 then pack [(0, 8, p.framePort), (8, 8, p.frameAlt), (16, 8, p.bodyPort)]
  else 0

/-! ### UPD (R565) -/

def updWord (s : State) (o : Nat) : Nat :=
  let u := s.upd
  let h := u.hearth
  if o = 0x00 then
    pack [(0, 3, slotCode u.a.st), (4, 3, slotCode u.b.st), (9, 3, actState s), (16, 3, u.tries)] + packBits [(8, u.boot)]
  else if o = 0x04 then u.a.ver % 2 ^ 32
  else if o = 0x08 then u.b.ver % 2 ^ 32
  else if o = 0x0C then u.ledgerFloor % 2 ^ 32
  else if o = 0x10 ∨ o = 0x14 then half (o == 0x14) u.actAt
  else if o = 0x18 then u.events.toNat
  else if o = 0x100 ∨ o = 0x104 then half (o == 0x104) h.src.toNat
  else if o = 0x108 then h.len.toNat
  else if o = 0x110 then pack [(0, 3, h.st), (4, 2, h.used), (8, 8, h.detail), (16, 16, h.blocks)]
  else 0

/-! ### FLT (R593) -/

/-- Units out of service: type and index. A fitted port on a rail or clock that does not serve it, or without its record, is out of service
(R76, R205, R222, R260). -/
def unitsOut (s : State) : List (Nat × Nat) :=
  let ports := [pLf, pUhf, pNfc, pCap, pIfl, pCan, pEth, pNvm, pWake, pCoex]
  ports.flatMap (fun k => ((List.range 48).filter (fun n => fitted s k n && !portServes s k n)).map (fun n => (k, n))) ++
    (s.flt.units.filter (fun e => e.2 != .up && !ports.contains (e.1 / 256) && decide (e.1 / 256 < 0x20))).map
      (fun e => (e.1 / 256, e.1 % 256)) ++
    (if s.pwr.aOut then [(uPair, 0)] else []) ++ (if s.pwr.bOut then [(uPair, 1)] else [])

/-- The last record of each unit of the tractor unit, latest first. -/
def lastFaults (s : State) : List FaultRec :=
  s.flt.faults.reverse.foldl (fun l x =>
    if l.any (fun y => y.unitType == x.unitType && y.unitIndex == x.unitIndex) then l else l ++ [x]) []

/-- FLT_SEV_MAX: the severity of the last record of each unit that is out of service, and DEGRADED for a unit in service whose last
record says so and has not been followed by its return. -/
def sevMax (s : State) : Nat :=
  (lastFaults s).foldl (fun m x =>
    if x.action == 0x09 then m
    else if (unitsOut s).contains (x.unitType, x.unitIndex) then max m x.severity
    else if x.severity == 1 then max m 1 else m) 0

def fltWord (s : State) (o : Nat) : Nat :=
  let f := s.flt
  if o = 0x00 then
    pack [(2, 2, sevMax s), (8, 3, f.hearthCause), (11, 2, f.dbgLevel), (16, 8, (unitsOut s).length)] +
      packBits [(0, s.pwr.activeB), (1, f.shadowOk)]
  else if o = 0x04 then f.events.toNat
  else if o = 0x08 then pack [(0, 11, f.irqVec.toNat), (12, 2, f.irqSev.toNat)] + packBits [(14, f.irqEn)]
  else if o = 0x10 ∨ o = 0x14 then half (o == 0x14) f.lastNo
  else if o = 0x18 then
    pack [(0, 3, (lanesIn s .spare).length), (8, 10, 512 - (f.rowsUsed.map (·.2)).foldl (· + ·) 0),
      (23, 9, 256 - (f.colsUsed.map (·.2)).foldl (· + ·) 0)] +
      packBits [(4, unitSt s uSyn 0 == .up), (5, unitSt s uSyn 1 == .up)]
  else if o = 0x1C then
    pack [(0, 6, f.canBusoff.toNat), (8, 6, f.canStuck.toNat), (18, 2, f.slkMismatch.toNat), (20, 2, f.coexStuck.toNat)] +
      packBits [(16, f.pmicStuck), (17, f.pmicIrqStuck)]
  else if o = 0x20 then
    pack [(0, 6, f.tamper.toNat), (8, 8, min 255 (f.alarms.filter (fun t => decide (monoUs s < t + 60000000))).length)]
  else if o = 0x24 then
    pack [(8, 8, f.testType), (16, 8, f.testIndex), (24, 8, f.testResult)] + packBits [(0, f.testBusy)]
  else 0

/-! ### PWR (R102, R605) -/

def modeCode : Mode → Nat
  | .dormant => 0 | .parked => 1 | .cab => 2 | .drive => 3 | .service => 4 | .hearth => 5

/-- A WAKE pin's half of PWR_WAKE_CFG. -/
def wakeCfg (x : WakePin) : Nat :=
  pack [(0, 2, x.role.toNat), (8, 8, x.thresh.toNat)] + packBits [(2, x.pol), (3, x.masked)]

/-- PWR_VBAT_PIN_MV: 0 without a VBAT-role pin; the pin's voltage, of which the model knows on which side of the threshold it lies, and
which is otherwise a free value. -/
def vbatShown (s : State) : Nat :=
  match s.pwr.pins.find? (fun x => x.role == 2) with
  | some x =>
    let t := 10 * x.thresh.toNat
    let v := fromLE (freeBytes s 2)
    if x.above then t + v % (4096 - t) else v % max 1 t
  | none => 0

def pwrWord (s : State) (o : Nat) : Nat :=
  let p := s.pwr
  if o = 0x00 then
    pack [(0, 4, modeCode p.mode), (4, 4, ofBool (p.parking != .none)), (16, 8, p.modeStart.toNat)]
  else if o = 0x08 then p.wakeCause.toNat
  else if o = 0x10 ∨ o = 0x14 then
    let n := (o - 0x10) / 2
    wakeCfg (nth {} p.pins n) + 65536 * wakeCfg (nth {} p.pins (n + 1))
  else if o = 0x18 then pack [(0, 7, p.dormDays), (16, 11, p.dormHours)]
  else if o = 0x20 then pack [(0, 9, p.railGood.toNat), (16, 9, p.railFault.toNat)] + packBits [(28, p.pmicFault)]
  else if o = 0x24 then pack [(0, 12, p.vkeepMv.toNat), (16, 12, vbatShown s)] + packBits [(31, p.vkeepLow)]
  else if o = 0x28 then (match p.alarmAt with
    | some t => ceilDiv (t - monoUs s) 1000000
    | none => 0)
  else if o = 0x2C then pack [(0, 8, p.dieTemp.toNat), (8, 3, p.govLevel)]
  else if o = 0x30 then (if pmicKnown s then p.vcoreMv.toNat else 0)
  else 0

/-! ### The map (R597, R600) -/

/-- Whether a function sees a block: in Hearth mode the physical function alone sees SYS, UPD, FLT and PWR. -/
def blockSeen (s : State) (func blk : Nat) : Bool :=
  if s.pwr.mode = .hearth then func == 0 && (blk == 0x0 || blk == 0xC || blk == 0xD || blk == 0xE)
  else func == 0 || decide (blk ≤ 2)

/-- The 32-bit word at an offset of BAR0, a multiple of 4. -/
def regWord (s : State) (func off : Nat) : Nat :=
  let blk := off / 65536
  let o := off % 65536
  if !blockSeen s func blk then 0
  else if blk = 0x0 then sysWord s func o
  else if blk = 0x1 then hostWord s func o
  else if blk = 0x2 then slcWord s func o
  else if blk = 0x3 then angWord s o
  else if blk = 0x4 then lfWord s o
  else if blk = 0x5 then uhfWord s o
  else if blk = 0x6 then nfcWord s o
  else if blk = 0x7 then iflWord s o
  else if blk = 0x8 then cusWord s o
  else if blk = 0x9 then dirWord s o
  else if blk = 0xA then secWord s o
  else if blk = 0xB then slkWord s o
  else if blk = 0xC then updWord s o
  else if blk = 0xD then fltWord s o
  else if blk = 0xE then pwrWord s o
  else 0

end Sys2Proof.Machine
end

