-- ==== Sys2Proof/Machine/Regs.lean ====
section
/-! DEFINITION. Accesses to BAR0 (R9, R144, R256, R375, R597–R605): reads with their side effects, and writes by access code. -/

namespace Sys2Proof.Machine

/-! ### Reads (R598, R599) -/

/-- Offsets of the low halves of 64-bit registers. -/
def lowHalves : List Nat :=
  [0x10008, 0x10010, 0x10018, 0x10048, 0x20000, 0x20028, 0x20030, 0x80028, 0x90008, 0x90024, 0xC0010, 0xC0100, 0xD0010]

/-- A read that returns what is addressed: 1, 2, 4 or 8 bytes, naturally aligned. -/
def readValid (off size : Nat) : Bool := (size == 1 || size == 2 || size == 4 || size == 8) && off % size == 0

/-- What a valid read returns; the high half latched for the function's next read counts for that read alone. -/
def readValue (s : State) (func off size : Nat) : Nat :=
  if size = 8 then regWord s func off + 2 ^ 32 * regWord s func (off + 4)
  else if size = 4 then (match (getFunc s func).high with
    | some (o, v) => if o = off then v.toNat else regWord s func off
    | none => regWord s func off)
  else bits (regWord s func (off / 4 * 4)) (8 * (off % 4)) (8 * size)

/-- The high half that a 4-byte read of a low half latches. -/
def latchHigh (s : State) (func off size : Nat) : Option (Nat × BitVec 32) :=
  if size = 4 ∧ lowHalves.contains off then some (off + 4, BitVec.ofNat 32 (regWord s func (off + 4))) else none

/-- A read of CNT_CAP clears CNT_CAP_FULL (R211). -/
def readsCap (s : State) (func off size : Nat) : Bool :=
  blockSeen s func 0x3 && decide (off < 0x30114) && decide (0x30110 < off + size)

/-- Ends a read: what it returned, and the high half it leaves latched. -/
def readDone (func : Nat) (v : Nat) (high : Option (Nat × BitVec 32)) : State → State :=
  modFunc func (fun f => { f with lastRead := BitVec.ofNat 64 v, high := high })

/-- A read of BAR0. Before release every bit reads 1; a read that is not of 1, 2, 4 or 8 aligned bytes returns 0 without side
effect. -/
def barRead (func off size : Nat) (s : State) : State :=
  if !linkUp s || !funcUp s func then s
  else if !regsUp s then readDone func (2 ^ (8 * size) - 1) none s
  else if !readValid off size then readDone func 0 none s
  else
    onlyIf (readsCap s func off size) (fun t => putCnt t.clk.cntSel.toNat { selCnt t with capFull := false } t)
      (readDone func (readValue s func off size) (latchHigh s func off size) s)

def execHighHalfLatch (func : Fin 64) (off : BitVec 20) (size : BitVec 4) (s : State) : Host.Outcome State Fault Refusal :=
  .next (barRead func off.toNat size.toNat s)

/-! ### SYS (R602, R603) -/

def execSysReset (func : Fin 64) (v : BitVec 32) (s : State) : Host.Outcome State Fault Refusal :=
  .next (if regsUp s && func.val == 0 && bits v.toNat 0 8 == 0xA5 then warmReset 0x5 s else s)

def execSysLockSetup (func : Fin 64) (v : BitVec 32) (s : State) : Host.Outcome State Fault Refusal :=
  .next (if regsUp s && func.val == 0 && v.getLsbD 0 then modSys (fun b => { b with lockSetup := true }) s else s)

/-! ### Writes, block by block -/

/-- The state a command's meaning answers with. -/
def after (o : Host.Outcome State Fault Refusal) (s : State) : State :=
  match o with
  | .next t => t
  | .fault _ | .refused _ => s

/-- A value inside its range, or the value as it was. -/
def keepIn (lo hi v old : Nat) : Nat := if lo ≤ v ∧ v ≤ hi then v else old

/-- One half of a 64-bit field replaced. -/
def setHalf (high : Bool) (old : BitVec 64) (v : Nat) : BitVec 64 :=
  BitVec.ofNat 64 (if high then bits old.toNat 0 32 + 2 ^ 32 * (v % 2 ^ 32) else v % 2 ^ 32 + 2 ^ 32 * bits old.toNat 32 32)

def sysWrite (func : Fin 64) (o v : Nat) (s : State) : State :=
  if func.val ≠ 0 then s
  else if o = 0x08 then after (execSysReset func (BitVec.ofNat 32 v) s) s
  else if o = 0x0C then after (execSysLockSetup func (BitVec.ofNat 32 v) s) s
  else if o = 0x28 then modSys (fun b => { b with scratch := BitVec.ofNat 32 v }) s
  else s

/-- A write of a set-up field of the selected ring, ignored unless the ring is DISABLED (R144). -/
def ringWrite (o v : Nat) (u : RingSetup) : RingSetup :=
  if o = 0x08 ∨ o = 0x0C then { u with hrBase := setHalf (o == 0x0C) u.hrBase v }
  else if o = 0x10 ∨ o = 0x14 then { u with trBase := setHalf (o == 0x14) u.trBase v }
  else if o = 0x18 ∨ o = 0x1C then { u with ciwb := setHalf (o == 0x1C) u.ciwb v }
  else if o = 0x20 then { u with hrLog := BitVec.ofNat 5 v, trLog := BitVec.ofNat 5 (bits v 8 5) }
  else if o = 0x28 then { u with vec := BitVec.ofNat 11 v, modCount := BitVec.ofNat 8 (bits v 16 8) }
  else if o = 0x2C then { u with modUs := BitVec.ofNat 16 v }
  else u

/-- A write of a word of an MSI-X table entry; clearing the mask lets a pending message go (R136, R604). -/
def vecWrite (func v o w : Nat) (s : State) : State :=
  if vecsOf s func ≤ v then s
  else if o = 0 ∨ o = 4 then modVec func v (fun x => { x with addr := setHalf (o == 4) x.addr w }) s
  else if o = 8 then modVec func v (fun x => { x with data := BitVec.ofNat 32 w }) s
  else sendPending func (modVec func v (fun x => { x with masked := bit w 0 }) s)

def hostWrite (func : Fin 64) (o v : Nat) (s : State) : State :=
  if o = 0x00 then
    modFunc func (fun f => { f with selTen := BitVec.ofNat 10 v, selRing := BitVec.ofNat 6 (bits v 16 6) }) s
  else if o = 0x24 then after (if bit v 0 then execRingEnable func s else execRingDisable func s) s
  else if o < 0x50 then (match selectedRing s func with
    | some g => if (getRing s g).st = .disabled then modRing g (fun rg => { rg with setup := ringWrite o v rg.setup }) s else s
    | none => s)
  else if 0x8000 ≤ o then vecWrite func ((o - 0x8000) / 16) (o % 16) v s
  else s

def slcWrite (func : Fin 64) (o v : Nat) (s : State) : State :=
  if o = 0x10 then
    modFunc func (fun f =>
      { f with slcTen := BitVec.ofNat 10 v, slcCulv := BitVec.ofNat 4 (bits v 16 4), slcGone := false }) s
  else s

/-- A write of 1s to CNT_STAT. -/
def cntStatWrite (v : Nat) (c : Cnt) : Cnt :=
  { c with hit0 := c.hit0 && !bit v 1, hit1 := c.hit1 && !bit v 2, capOvr := c.capOvr && !bit v 4,
           rateChg := c.rateChg && !bit v 6 }

def angWrite (func : Fin 64) (o v : Nat) (s : State) : State :=
  let w := BitVec.ofNat 32 v
  if o = 0x0C then modClk (fun b => { b with events := w1c b.events v }) s
  else if o = 0x100 then modClk (fun b => { b with cntSel := BitVec.ofNat 4 v }) s
  else if o = 0x104 then after (if bit v 0 then execCntEnable func w s else execCntDisable func w s) s
  else if o = 0x108 then after (execCntTop func w s) s
  else if o = 0x114 then after (execCntCmp func false w s) s
  else if o = 0x118 then after (execCntCmp func true w s) s
  else if o = 0x11C then modClk (fun b => { b with cnts := modAt b.cnts b.cntSel.toNat (cntStatWrite v) }) s
  else if o = 0x120 then modClk (fun b => { b with cntVec := BitVec.ofNat 11 v }) s
  else s

/-- LF_SCHED and NFC_CFG keep a field that a write puts outside its range, and are locked by SYS_LOCK_SETUP (R256, R375, R603). -/
def lfWrite (o v : Nat) (s : State) : State :=
  if o = 0x00 then
    if s.sys.lockSetup then s
    else modRadio (fun b =>
      let a := bits v 16 8
      { b with cabPeriod := keepIn 5 250 (bits v 0 8) b.cabPeriod, drivePeriod := keepIn 5 100 (bits v 8 8) b.drivePeriod
               approach := if a = 0 then 0 else keepIn 10 100 a b.approach }) s
  else if o = 0x10 then modRadio (fun b => { b with lfSel := BitVec.ofNat 6 v }) s
  else if o = 0x20 then modRadio (fun b => { b with lfEvents := w1c b.lfEvents v }) s
  else s

def uhfWrite (o v : Nat) (s : State) : State :=
  if o = 0x04 then modRadio (fun b => { b with uhfSel := BitVec.ofNat 3 v }) s
  else if o = 0x10 then modRadio (fun b => { b with uhfEvents := w1c b.uhfEvents v }) s
  else s

def nfcWrite (o v : Nat) (s : State) : State :=
  if o = 0x04 then
    if s.sys.lockSetup then s
    else modNfc (fun b => { b with
      detPeriod := keepIn 5 100 (bits v 0 8) b.detPeriod, wtxCeil := keepIn 10 5000 (bits v 8 13) b.wtxCeil
      maxRate := bits v 21 2 }) s
  else if o = 0x08 then modNfc (fun b => { b with sel := BitVec.ofNat 3 v }) s
  else if o = 0x10 then modNfc (fun b => { b with events := w1c b.events v }) s
  else if o = 0x108 then modCap (fun b => { b with sel := BitVec.ofNat 6 v }) s
  else if o = 0x110 then modCap (fun b => { b with events := w1c b.events v }) s
  else s

def iflWrite (o v : Nat) (s : State) : State :=
  if o = 0x04 then modIfl (fun b => { b with sel := BitVec.ofNat 2 v }) s
  else if o = 0x10 then modPort s.ifl.sel.toNat (fun x => { x with events := w1c x.events v }) s
  else if o = 0x48 then modIfl (fun b => { b with linkEv := w1c b.linkEv v }) s
  else s

def cusWrite (o v : Nat) (s : State) : State :=
  if o = 0x04 then modCus (fun b => { b with sel := BitVec.ofNat 2 v }) s
  else if o = 0x30 then modCus (fun b => { b with events := w1c b.events v }) s
  else s

def dirWrite (o v : Nat) (s : State) : State :=
  if o = 0x10 then modDir (fun b => { b with nsSel := BitVec.ofNat 4 v }) s
  else if o = 0x20 then modDir (fun b => { b with nodeSel := BitVec.ofNat 3 v }) s
  else if o = 0x30 then modDir (fun b => { b with events := w1c b.events v }) s
  else s

def secWrite (o v : Nat) (s : State) : State :=
  if o = 0x0C then modSec (fun b => { b with laneSel := BitVec.ofNat 5 v }) s
  else if o = 0x14 then modSec (fun b => { b with keyEvents := w1c b.keyEvents v }) s
  else if o = 0x104 then modSec (fun b => { b with srcSel := BitVec.ofNat 2 v }) s
  else if o = 0x10C then modSec (fun b => { b with selfTestReq := bit v 0 }) s
  else if o = 0x110 then modSec (fun b => { b with rngEvents := w1c b.rngEvents v }) s
  else s

def slkWrite (o v : Nat) (s : State) : State :=
  if o = 0x08 then modSlk (fun b => { b with events := w1c b.events v }) s else s

def updWrite (func : Fin 64) (o v : Nat) (s : State) : State :=
  if o = 0x18 then modUpd (fun b => { b with events := w1c b.events v }) s
  else if o = 0x100 ∨ o = 0x104 then
    modUpd (fun b => { b with hearth := { b.hearth with src := setHalf (o == 0x104) b.hearth.src v } }) s
  else if o = 0x108 then modUpd (fun b => { b with hearth := { b.hearth with len := BitVec.ofNat 24 v } }) s
  else if o = 0x10C then
    let s := hearthGo func (BitVec.ofNat 32 v) s
    after (execUpdHearthRevert func (BitVec.ofNat 32 v) s) s
  else s

def fltWrite (o v : Nat) (s : State) : State :=
  if o = 0x04 then modFlt (fun b => { b with events := w1c b.events v }) s
  else if o = 0x08 then
    if s.sys.lockSetup then s
    else modFlt (fun b => { b with
      irqVec := BitVec.ofNat 11 v, irqSev := BitVec.ofNat 2 (bits v 12 2), irqEn := bit v 14 }) s
  else if o = 0x20 then modFlt (fun b => { b with tamper := w1c b.tamper v }) s
  else s

def pwrWrite (func : Fin 64) (o v : Nat) (s : State) : State :=
  if o = 0x04 then
    let s := onlyIf (bit v 0) (fun t => after (execPwrParkReq func t) t) s
    onlyIf (bit v 1) (fun t => after (execPwrParkCancel func t) t) s
  else if o = 0x08 then modPwr (fun b => { b with wakeCause := w1c b.wakeCause v }) s
  else if o = 0x20 then
    modPwr (fun b => { b with railFault := w1c b.railFault (bits v 16 9), pmicFault := b.pmicFault && !bit v 28 }) s
  else if o = 0x28 then after (execPwrAlarmS func (BitVec.ofNat 32 v) s) s
  else s

/-- A 4-byte write at an offset of BAR0. -/
def wordWrite (func : Fin 64) (off v : Nat) (s : State) : State :=
  let blk := off / 65536
  let o := off % 65536
  if !blockSeen s func blk then s
  else if blk = 0x0 then sysWrite func o v s
  else if blk = 0x1 then hostWrite func o v s
  else if blk = 0x2 then slcWrite func o v s
  else if blk = 0x3 then angWrite func o v s
  else if blk = 0x4 then lfWrite o v s
  else if blk = 0x5 then uhfWrite o v s
  else if blk = 0x6 then nfcWrite o v s
  else if blk = 0x7 then iflWrite o v s
  else if blk = 0x8 then cusWrite o v s
  else if blk = 0x9 then dirWrite o v s
  else if blk = 0xA then secWrite o v s
  else if blk = 0xB then slkWrite o v s
  else if blk = 0xC then updWrite func o v s
  else if blk = 0xD then fltWrite o v s
  else if blk = 0xE then pwrWrite func o v s
  else s

/-- A write takes effect as 4 bytes to a 32-bit register or to a half of a 64-bit one, or as 8 bytes to a 64-bit register at its low
address; any other is ignored (R598, R599). -/
def execRegisterWrite (func : Fin 64) (off : BitVec 20) (size : BitVec 4) (v : BitVec 64) (s : State) :
    Host.Outcome State Fault Refusal :=
  let o := off.toNat
  .next (
    if regsUp s && funcUp s func && o % 4 == 0 then
      if size = 4 then wordWrite func o (bits v.toNat 0 32) s
      else if size = 8 ∧ lowHalves.contains o ∧ o % 8 = 0 then
        wordWrite func (o + 4) (bits v.toNat 32 32) (wordWrite func o (bits v.toNat 0 32) s)
      else s
    else s)

end Sys2Proof.Machine
end

