-- ==== Sys2Proof/Machine/Svc.lean ====
section
/-! DEFINITION. The SVC class: fault records read out, units tested, by-passed and restored, drives scrubbed, drained and admitted,
Service (R578–R586, R591–R593). -/

namespace Sys2Proof.Machine

/-! ### FAULT_READ (R567, R591) -/

/-- The 32 B of a fault record. -/
def faultBytes (x : FaultRec) : Bytes :=
  le 8 x.no ++ le 8 x.tMono ++ le 1 x.unitType ++ le 1 x.unitIndex ++ le 1 x.code ++ le 1 x.severity ++ le 1 x.action ++
    le 1 x.detail ++ le 2 x.count ++ le 8 x.arg

/-- The records from a FAULT_NO on, 0 standing for the oldest held. -/
def faultsFrom (s : State) (no : Nat) : List FaultRec := s.flt.faults.filter (fun x => decide (no ≤ x.no))

def execFaultRead (r : Nat) (wr : Bool) (s : State) : Host.Outcome State Fault Refusal :=
  .next (startOp 0x0F00 r (fun f s =>
    let l := (faultsFrom s (fieldLE f.raw 32 8)).take (dLen f.raw / 32)
    writeAndSettle r f 0 (l.flatMap faultBytes) wr (done l.length) s) s)

/-! ### The units an SVC operation names (R569, R586, R593) -/

/-- The UNIT_TYPE operand without its chain position, and the UNIT_INDEX operand. -/
def svcType (f : Flight) : Nat := unitTypeOf f.raw
def svcIndex (f : Flight) : Nat := fieldLE f.raw 25 1

/-- A unit the part has: of its own, or a fitted port. -/
def unitKnown (s : State) (ty ix : Nat) : Bool :=
  if isSvcPort ty then decide (ix < 48) && fitted s ty ix else decide (ix < unitCount ty)

/-- Units of a type in service. -/
def inService (s : State) (ty : Nat) : Nat :=
  if ty = uPair then ofBool s.sys.ready + ofBool s.flt.shadowOk
  else if ty = uLane then (lanesIn s .active).length + (lanesIn s .wake).length
  else if ty = uRng then
    ((List.range 4).filter (fun i => (getSource s i).st == .healthy && !srcBypassed s i)).length
  else if isSvcPort ty then ((List.range 48).filter (portServes s ty)).length
  else ((List.range (unitCount ty)).filter (fun i => unitSt s ty i == .up)).length

/-! ### UNIT_TEST (R583) -/

/-- The condition under which the unit can be tested now. -/
def testHolds (s : State) (ty ix : Nat) : Bool :=
  if ty = uPair then s.flt.shadowOk
  else if ty = uLane then
    decide (2 ≤ ((lanesIn s .active).filter (fun l => l != ix)).length) && (getLane s ix).st != .test
  else if ty = pLf then (match s.radio.poll with | some p => !dutyExempt p.kind | none => true)
  else if ty = pUhf then (match s.radio.poll with | some p => p.phase != .sound | none => true)
  else if ty = pNfc then !s.nfc.xs.any (fun x => xRd x == ix && x.step != .activate)
  else if ty = pIfl then (getPort s ix).link == .down || (getPort s ix).link == .quarantined
  else true

/-- A unit that fails its test leaves service: a lane is retired, another unit goes out. -/
def failsTest (ty ix : Nat) (s : State) : State :=
  if ty = uLane then
    match (getLane s ix).st with
    | .active | .wake => retireLane ix 0x07 2 s
    | .spare | .test | .out =>
      changeUnit uLane ix .retired 0x07 sDegraded 0x04 0 0 (modLane ix (fun x => { x with st := .out, fault := 2, kept := true }) s)
  else
    let s := outOfService ty ix 0x07 sDegraded 0 s
    if ty = pLf then lfEvent 0 s
    else if ty = pUhf then chainOut (uhfEvent 0 (modUhfCh ix (fun x => { x with fault := 3 }) s))
    else if ty = uSyn then chainOut (uhfEvent 1 s)
    else if ty = pNfc then nfcEvent 0 s
    else s

/-- FLT_TEST shows the last test and its result. -/
def noteTest (ty ix result : Nat) : State → State :=
  modFlt (fun b => { b with testType := ty, testIndex := ix, testResult := result, events := setBits b.events 7 })

def execUnitTest (r : Nat) (pass : Bool) (s : State) : Host.Outcome State Fault Refusal :=
  .next (startOp 0x0F01 r (fun f s =>
    let ty := svcType f
    let ix := svcIndex f
    if svcBad f.raw || !unitKnown s ty ix || (ty == uPair && ix == ofBool s.pwr.activeB) then
      settle r (failFate fMalformed 0x20) s
    else if s.flt.testBusy || !testHolds s ty ix then settle r (failFate fPolicy 0x21) s
    else if ty = uPair then
      modFlt (fun b => { b with
        testBusy := true, testType := ty, testIndex := ix, testResult := 0, testSlices := 0, testOp := some r }) s
    else
      let s := noteTest ty ix (ofBool (!pass)) s
      if pass then settle r (done 0) s else settle r (done 0x0701) (failsTest ty ix s)) s)

/-! ### BYPASS and RESTORE (R578, R579, R586) -/

/-- The record of a by-pass; the spec gives it no CODE (a free value). -/
def bypassRecord (ty ix : Nat) (s : State) : State :=
  changeUnit ty ix .bypassed (1 + byteAt (freeBytes s 1) 0 % 9) sDegraded 0x04 0 0 (drawn 1 s)

/-- What stands on a unit that goes moves on, restarts or ends (R578). -/
def leaveUnit (ty ix : Nat) (s : State) : State :=
  if ty = uLane then modLane ix (fun x => { x with st := .out, kept := true }) s
  else if ty = uHash then rngEvent 4 s
  else if ty = uRng then judgeRng (modSource ix (fun x => { x with st := if x.st = .retired then .retired else .suspended }) (gather (onlyIf ((getSource s ix).st == .healthy) (rngEvent 0) s)))
  else if ty = pLf then
    match s.radio.poll with
    | some p => if telegramOn s p && p.chans.contains ix then telegramLost ix p s else s
    | none => s
  else if ty = pUhf then chainOut (uhfEvent 0 s)
  else if ty = uSyn then chainOut (uhfEvent 1 s)
  else if ty = pNfc then nfcEvent 0 (readerLost ix s)
  else if ty = pIfl then portDown ix .down 3 s
  else if ty = pCan then flagsCheck s
  else s

/-- A by-pass that the part refuses. -/
def lastUnit (s : State) (ty ix : Nat) : Bool :=
  noBypass ty || (ty == pUhf && ix == 0) ||
    (ty == uLane && (getLane s ix).st == .active && ((lanesIn s .active).filter (fun l => l != ix)).isEmpty)

def execBypass (r : Nat) (s : State) : Host.Outcome State Fault Refusal :=
  .next (startOp 0x0F02 r (fun f s =>
    let ty := svcType f
    let ix := svcIndex f
    if svcBad f.raw || !unitKnown s ty ix then settle r (failFate fMalformed 0x20) s
    else if lastUnit s ty ix then settle r (failFate fPolicy 0x22) s
    else
      let s := if unitSt s ty ix = .bypassed then s else leaveUnit ty ix (bypassRecord ty ix s)
      settle r (done (inService s ty)) s) s)

/-- A unit whose test has passed is in service again. -/
def rejoin (ty ix : Nat) (s : State) : State :=
  if ty = uPair then
    if pairOut s (ix == 1) then joinShadow (pairRecord (ix == 1) 0x09 sInfo 0x09 (setPairOut (ix == 1) false s)) else s
  else
    let s := backInService ty ix s
    if ty = uLane then
      modLane ix (fun x => if x.st = .out ∨ x.st = .test then { x with st := .active, fault := 0, kept := false } else x) s
    else if ty = uRng then modSource ix (fun x => { x with since := monoUs s }) s
    else if ty = pLf then modLfCh ix (fun x => { x with fault := 0 }) s
    else if ty = pUhf then modUhfCh ix (fun x => { x with fault := 0 }) s
    else if ty = pNfc then modReader ix (fun x => { x with fault := 0 }) s
    else if ty = pCan then flagsCheck s
    else s

/-- A RESTORE whose test fails: a unit out of service stays out, and one in service leaves it. -/
def staysOut (ty ix : Nat) (s : State) : State :=
  let up := if ty = uPair then false else if ty = uLane then (getLane s ix).st != .out else unitSt s ty ix == .up
  if up then failsTest ty ix s else writeFault ty ix 0x07 sInfo 0x00 0 0 s

/-- RESTORE serves the units that a by-pass, a retirement or a pair's removal took out. -/
def mayRestore (s : State) (ty ix : Nat) : Bool :=
  if ty = uPair then pairOut s (ix == 1) || s.pwr.selfTest == some (ix == 1) else !noBypass ty

def execRestore (r : Nat) (pass : Bool) (s : State) : Host.Outcome State Fault Refusal :=
  .next (startOp 0x0F03 r (fun f s =>
    let ty := svcType f
    let ix := svcIndex f
    if svcBad f.raw || !unitKnown s ty ix || !mayRestore s ty ix then settle r (failFate fMalformed 0x20) s
    else if s.flt.testBusy || (ty == uPair && s.pwr.selfTest.isSome) then settle r (failFate fPolicy 0x21) s
    else
      let s := noteTest ty ix (ofBool (!pass)) s
      let s := if pass then rejoin ty ix s else staysOut ty ix s
      settle r (done (inService s ty)) s) s)

/-! ### Drives (R580, R585, R591–R593) -/

/-- The store number of a drive in ONLINE or WORN. -/
def storeUnit (s : State) (d : Nat) : Option Nat :=
  let x := getDrive s d
  if x.st = .online ∨ x.st = .worn then x.unit else none

/-- Groups with a good copy or stripe on a drive that the scrub finds failing. -/
def failingGroups (s : State) (u : Nat) (bad : List Nat) : List Group :=
  s.cus.groups.filter (fun g => bad.contains g.id && g.members.any (fun m => m.unit == u && m.ok))

/-- The group's copy on drive `u` can be written again from its other members. -/
def mendable (c : Cus) (u : Nat) (g : Group) : Bool :=
  readableNow c { g with members := g.members.map (fun m => if m.unit = u then { m with ok := false } else m) }

/-- A failing copy is written again, or is marked lost-copy. -/
def mendGroup (d u : Nat) (g : Group) (s : State) : State :=
  if mendable s.cus u g then
    each ((List.range g.members.length).zip g.members) (fun e t =>
      onlyIf (e.2.unit == u) (emit (.nvme d (memberWrite t.cus g e.1))) t) s
  else modCus (fun c => { c with groups := c.groups.map (fun x =>
    if x.id = g.id then { x with members := x.members.map (fun m => if m.unit = u then { m with ok := false } else m) } else x) }) s

/-- The scrub counts what failed toward R440. -/
def countReadErrs (d n : Nat) (s : State) : State :=
  match (getDrive s d).unit with
  | none => s
  | some u =>
    let s := modCus (fun c => { c with known := modAt c.known u (fun k => { k with
      readErrs := recentTimes (monoUs s) k.readErrs ++ List.replicate n (monoUs s) }) }) s
    if 16 < (nth ⟨[], true, 0, false, []⟩ s.cus.known u).readErrs.length then driveWorn d s else s

/-- The scrub's work is stamped as the internal tenancy's (R164, R585). -/
def innerCharge (r len : Nat) (s : State) : State :=
  let st := innerStamp len s
  modFlight r (fun f => { f with stamp := st.1 }) (modCus (fun c => { c with finish := st.2, topStamp := max c.topStamp st.1 }) s)

def execScrub (r : Nat) (found : ScrubFindings) (s : State) : Host.Outcome State Fault Refusal :=
  .next (startOp 0x0F04 r (fun f s =>
    let d := fieldLE f.raw 24 1
    if !fitted s pNvm d then settle r (failFate fMalformed 0x20) s
    else match storeUnit s d with
      | none => settle r (failFate fPolicy 0x21) s
      | some u =>
        if s.flt.testBusy then settle r (failFate fPolicy 0x21) s
        else
          let n := usedStripes s.cus u
          let s := innerCharge r (n * 2 ^ 20) s
          match found.lostAfter with
          | some k =>
            settle r (withUnits (failFate fDevice 0x25) (min k n)) (declareLost d (noteTest pNvm d 2 s))
          | none =>
            let l := failingGroups s u found.bad
            let mended := (l.filter (mendable s.cus u)).length
            let s := each l (mendGroup d u) (noteTest pNvm d (ofBool (!l.isEmpty)) s)
            let s := countReadErrs d l.length s
            settle r { done (n + 2 ^ 32 * mended) with units := n } s) s)

/-- The drive is emptied as a WORN one; the operation ends when it is RETIRED, or LOST. -/
def execDriveDrain (r : Nat) (s : State) : Host.Outcome State Fault Refusal :=
  .next (startOp 0x0F05 r (fun f s =>
    let d := fieldLE f.raw 24 1
    if !fitted s pNvm d then settle r (failFate fMalformed 0x20) s
    else if (storeUnit s d).isNone || (getDrive s d).drain.isSome then settle r (failFate fPolicy 0x21) s
    else retireEmpty (modDrive d (fun x => { x with drain := some r }) s)) s)

/-- A FOREIGN drive is emptied and gets a new label, where its DRIVE_UID can be drawn now; it enters INIT as a blank drive (R437, R592). -/
def execDriveAdmit (r : Nat) (s : State) : Host.Outcome State Fault Refusal :=
  .next (startOp 0x0F06 r (fun f s =>
    let d := fieldLE f.raw 24 1
    if !fitted s pNvm d then settle r (failFate fMalformed 0x20) s
    else if (getDrive s d).st != .foreign then settle r (failFate fPolicy 0x23) s
    else
      settle r (done 0) (modDrive d (fun x => { x with st := .init, initAt := monoUs s, unit := none })
        (driveRecord d 6 2 (onlyIf (canDraw s) (writeLabel d) (emit (.nvme d .deallocate) s))))) s)

/-! ### SERVICE (R592) -/

def execService (r : Nat) (s : State) : Host.Outcome State Fault Refusal :=
  .next (startOp 0x0F07 r (fun f s =>
    let t := monoUs s + 1000000 * fieldLE f.raw 24 2
    let still := (latch s == .locked || latch s == .armed) && atRest s
    if s.pwr.mode = .service ∨ (s.pwr.mode = .cab ∧ still = true) then settle r (done 0) (enterService t s)
    else settle r (failFate fPolicy 0x24) s) s)

end Sys2Proof.Machine
end

