-- ==== Sys2Proof/Machine/Tamper.lean ====
section
/-! DEFINITION. The tamper monitor: ALARM and ZEROISE events (R91, R310, R485, R488–R491, R587, R588). -/

namespace Sys2Proof.Machine

/-- The events of R587, numbered as FLT_TAMPER numbers its bits. -/
def tamperVolt : Nat := 3
def tamperClock : Nat := 4
def tamperTemp : Nat := 5

/-- The TAMPER_LOG entry and the FLT_TAMPER bit of an event, of class ZEROISE or ALARM. -/
def noteTamper (event : Nat) (zeroise : Bool) (s : State) : State :=
  let e : TamperEntry := { secs := monoUs s / 1000000, event := event, cls := ofBool zeroise }
  modFlt (fun b => { b with tamper := setBits b.tamper event, events := setBits b.events 5 })
    (modSec (fun b => { b with tamperLog := (b.tamperLog ++ [e]).drop (b.tamperLog.length + 1 - 16) }) s)

/-- With VAON the event also writes a fault record and raises a lock request. -/
def reportTamper (event : Nat) (zeroise : Bool) (s : State) : State :=
  if s.pwr.vaon then lockRequest 0x06 0xFFFF 0 (fault uTamper event 0x08 sAlarm (if zeroise then 0x08 else 0x00) 0 event s)
  else s

/-! ### ALARM (R490, R491) -/

/-- KEY and CPH operations that have begun end KEY_ERASED. -/
def eraseWork (s : State) : State :=
  each (List.range s.host.flights.length) (fun r t => match getFlight t r with
    | some f =>
      if f.begun && f.fate.isNone && (dClass f.raw == 0x08 || dClass f.raw == 0x09) then settle r (failFate fDevice 0x2B f.stage) t
      else t
    | none => t) s

/-- A poll on air starts again with a fresh nonce once SEC_ALARM clears. -/
def deferPoll (t : Nat) (s : State) : State :=
  match s.radio.poll with
  | some p =>
    let s := if 3 ≤ p.challenges then restartPoll (coexDrop s) else beginTelegram { newPoll s p.kind p.n p.m with
      repeated := p.repeated, moved := p.moved, passed := p.passed, unlocked := p.unlocked, challenges := p.challenges,
      failed := p.failed } (coexDrop s)
    modRadio (fun b => { b with poll := b.poll.map (fun q => { q with lastEnd := t }) }) s
  | none => s

/-- An ALARM event with VAON present: key material is erased, and SEC_ALARM reads 1 for 10 ms. -/
def alarm (s : State) : State :=
  let t := monoUs s + 10000
  deferPoll (1000 * t) (eraseWork (keyEvent 1 (modSec (fun b => { b with
    alarmEnd := some t, lanes := b.lanes.map (fun x => { x with seed := [], masked := 0 }) }) s)))

def execAlarmHoldEnd (s : State) : Host.Outcome State Fault Refusal :=
  .next (match s.sec.alarmEnd with
    | some t => modSec (fun b => { b with alarmEnd := none }) (elapseTo t s)
    | none => s)

/-! ### ZEROISE (R489) -/

/-- The vault goes: an AON loss. TAMPER_LOG stays, and SEC_ZEROISE_EV and the event's own bits stand after it. -/
def loseVault (event : Nat) (s : State) : State :=
  let log := s.sec.tamperLog
  let s := loseAon s
  let s := modSec (fun b => { b with tamperLog := log, keyEvents := 1 }) s
  modFlt (fun b => { b with tamper := setBits b.tamper event, events := setBits b.events 5 }) s

/-- With VAON, operations that need a key end VAULT_LOST and Hearth ROM starts a full reset; without it, the event is reported at
the next release. -/
def zeroise (event : Nat) (s : State) : State :=
  if s.pwr.vaon then
    let t := loseVault event (endKeyWork s)
    let t := onlyIf (s.pwr.mode == .dormant) (modPwr (fun p => { p with wakeCause := setBits p.wakeCause 4 })) t
    fullReset 0x7 (onlyIf (isRelease (latch s)) drivePins t)
  else modFlt (fun b => { b with tamperOwed := true }) (loseVault event s)

/-! ### The events -/

/-- An event of class ZEROISE. -/
def zeroiseEvent (event : Nat) (s : State) : State := wake 4 (zeroise event (reportTamper event true (noteTamper event true s)))

/-- An event of class ALARM. -/
def alarmEvent (event : Nat) (s : State) : State :=
  wake 4 (onlyIf s.pwr.vaon alarm (reportTamper event false (noteTamper event false s)))

/-- Counts an ALARM event; the count of the last 60 s, this one included. -/
def countAlarm (s : State) : Nat × State :=
  let l := (s.flt.alarms.filter (fun t => decide (monoUs s < t + 60000000))) ++ [monoUs s]
  (l.length, modFlt (fun b => { b with alarms := l }) s)

/-- A glitch is an ALARM event, and the fourth ALARM event within 60 s is a ZEROISE. No glitch detector runs in Dormant or without
VAON. -/
def glitch (event : Nat) (s : State) : State :=
  if s.pwr.vaon && s.pwr.mode != .dormant then
    let c := countAlarm s
    if 4 ≤ c.1 then zeroiseEvent event c.2 else alarmEvent event c.2
  else s

def execTamperMesh (m : Fin 2) (s : State) : Host.Outcome State Fault Refusal :=
  .next (if portUp s pTmesh m then zeroiseEvent m.val s else s)

def execLight (s : State) : Host.Outcome State Fault Refusal := .next (zeroiseEvent 2 s)

def execVoltageGlitch (s : State) : Host.Outcome State Fault Refusal := .next (glitch tamperVolt s)

def execClockGlitch (s : State) : Host.Outcome State Fault Refusal := .next (glitch tamperClock s)

def execTemperatureTamper (s : State) : Host.Outcome State Fault Refusal := .next (alarmEvent tamperTemp (countAlarm s).2)

end Sys2Proof.Machine
end

