-- ==== Sys2Proof/Machine/Dispatch.lean ====
section
/-! DEFINITION. The dispatch: one arm per command, each one call of that command's meaning. -/

namespace Sys2Proof.Machine

def exec (i : Instr) (s : State) : Host.Outcome State Fault Refusal :=
  match i with
  | .vaonGood => Sys2Proof.Machine.execVaonGood s
  | .vaonBrownOut => Sys2Proof.Machine.execVaonBrownOut s
  | .aonSupplyChangeover => Sys2Proof.Machine.execAonSupplyChangeover s
  | .aonLoss => Sys2Proof.Machine.execAonLoss s
  | .vkeepLow mv => Sys2Proof.Machine.execVkeepLow mv s
  | .vcoreBrownOut vsram => Sys2Proof.Machine.execVcoreBrownOut vsram s
  | .dramRailFault vddq => Sys2Proof.Machine.execDramRailFault vddq s
  | .portRailFault rail => Sys2Proof.Machine.execPortRailFault rail s
  | .linkRailFault serdes => Sys2Proof.Machine.execLinkRailFault serdes s
  | .railGoodReturn rail => Sys2Proof.Machine.execRailGoodReturn rail s
  | .enableGroupGood g => Sys2Proof.Machine.execEnableGroupGood g s
  | .enableGroupTimeout g => Sys2Proof.Machine.execEnableGroupTimeout g s
  | .fuseLoadEnd => Sys2Proof.Machine.execFuseLoadEnd s
  | .configurationLoad bad => Sys2Proof.Machine.execConfigurationLoad bad s
  | .ledgerReplay aGood bGood => Sys2Proof.Machine.execLedgerReplay aGood bGood s
  | .warmReset flr => Sys2Proof.Machine.execWarmReset flr s
  | .watchdogExpiry => Sys2Proof.Machine.execWatchdogExpiry s
  | .checkpoint => Sys2Proof.Machine.execCheckpoint s
  | .stewardTakeover cause => Sys2Proof.Machine.execStewardTakeover cause s
  | .pairSelfTestEnd pass => Sys2Proof.Machine.execPairSelfTestEnd pass s
  | .shadowTestSlice pass => Sys2Proof.Machine.execShadowTestSlice pass s
  | .pwrParkReq func => Sys2Proof.Machine.execPwrParkReq func s
  | .pwrParkCancel func => Sys2Proof.Machine.execPwrParkCancel func s
  | .parkedEntryIdle => Sys2Proof.Machine.execParkedEntryIdle s
  | .parkedEntryDrained => Sys2Proof.Machine.execParkedEntryDrained s
  | .driveShutdownComplete done => Sys2Proof.Machine.execDriveShutdownComplete done s
  | .wakePinCrossing pin above => Sys2Proof.Machine.execWakePinCrossing pin above s
  | .wakeEvent pin => Sys2Proof.Machine.execWakeEvent pin s
  | .nearListRestored => Sys2Proof.Machine.execNearListRestored s
  | .wakeWindowEnd => Sys2Proof.Machine.execWakeWindowEnd s
  | .dsenseChange d high => Sys2Proof.Machine.execDsenseChange d high s
  | .dormancyHour => Sys2Proof.Machine.execDormancyHour s
  | .lowBattery => Sys2Proof.Machine.execLowBattery s
  | .rtcAlarm => Sys2Proof.Machine.execRtcAlarm s
  | .pwrAlarmS func v => Sys2Proof.Machine.execPwrAlarmS func v s
  | .wakeSlicePowerDown => Sys2Proof.Machine.execWakeSlicePowerDown s
  | .driveExit => Sys2Proof.Machine.execDriveExit s
  | .serviceEnd => Sys2Proof.Machine.execServiceEnd s
  | .debugDurationEnd => Sys2Proof.Machine.execDebugDurationEnd s
  | .slotConsume heads => Sys2Proof.Machine.execSlotConsume heads s
  | .classBoundExpiry r => Sys2Proof.Machine.execClassBoundExpiry r s
  | .completionWrite g => Sys2Proof.Machine.execCompletionWrite g s
  | .consumerIndexWriteback g => Sys2Proof.Machine.execConsumerIndexWriteback g s
  | .doorbellHrPi func ten j v => Sys2Proof.Machine.execDoorbellHrPi func ten j v s
  | .doorbellTrCi func ten j v => Sys2Proof.Machine.execDoorbellTrCi func ten j v s
  | .descriptorReadFailed g => Sys2Proof.Machine.execDescriptorReadFailed g s
  | .tailraceWriteRefused g writeback => Sys2Proof.Machine.execTailraceWriteRefused g writeback s
  | .ringEnable func => Sys2Proof.Machine.execRingEnable func s
  | .ringDisable func => Sys2Proof.Machine.execRingDisable func s
  | .ringDrained g => Sys2Proof.Machine.execRingDrained g s
  | .moderationTimer g => Sys2Proof.Machine.execModerationTimer g s
  | .msixUnmask func what => Sys2Proof.Machine.execMsixUnmask func what s
  | .vfFunctionLevelReset func => Sys2Proof.Machine.execVfFunctionLevelReset func s
  | .vfEnableClear => Sys2Proof.Machine.execVfEnableClear s
  | .hostPerst low => Sys2Proof.Machine.execHostPerst low s
  | .nop r => Sys2Proof.Machine.execNop r s
  | .fateInquiry r wr => Sys2Proof.Machine.execFateInquiry r wr s
  | .ping r => Sys2Proof.Machine.execPing r s
  | .writApply r rd => Sys2Proof.Machine.execWritApply r rd s
  | .writSettle r => Sys2Proof.Machine.execWritSettle r s
  | .writCheck r rd => Sys2Proof.Machine.execWritCheck r rd s
  | .writStatus r wr => Sys2Proof.Machine.execWritStatus r wr s
  | .ang0Edge tNs => Sys2Proof.Machine.execAng0Edge tNs s
  | .ang1Edge tNs => Sys2Proof.Machine.execAng1Edge tNs s
  | .ang2Edge tNs => Sys2Proof.Machine.execAng2Edge tNs s
  | .ang3Pulse tNs => Sys2Proof.Machine.execAng3Pulse tNs s
  | .crankEdgeTimeout => Sys2Proof.Machine.execCrankEdgeTimeout s
  | .wheelPulseTimeout => Sys2Proof.Machine.execWheelPulseTimeout s
  | .roadSpeedFrame port ident data => Sys2Proof.Machine.execRoadSpeedFrame port ident data s
  | .engineSpeedFrame port ident data => Sys2Proof.Machine.execEngineSpeedFrame port ident data s
  | .speedSignalStale engine => Sys2Proof.Machine.execSpeedSignalStale engine s
  | .angleSwitchWindowEnd => Sys2Proof.Machine.execAngleSwitchWindowEnd s
  | .propHoldExpiry => Sys2Proof.Machine.execPropHoldExpiry s
  | .xtal25Loss => Sys2Proof.Machine.execXtal25Loss s
  | .clockSwitchWindowEnd recovered => Sys2Proof.Machine.execClockSwitchWindowEnd recovered s
  | .xtal25Return => Sys2Proof.Machine.execXtal25Return s
  | .xtal32kLoss => Sys2Proof.Machine.execXtal32kLoss s
  | .xtal32kReturn => Sys2Proof.Machine.execXtal32kReturn s
  | .rtcRcCalibrate measured => Sys2Proof.Machine.execRtcRcCalibrate measured s
  | .cntEnable func v => Sys2Proof.Machine.execCntEnable func v s
  | .cntDisable func v => Sys2Proof.Machine.execCntDisable func v s
  | .cntTop func v => Sys2Proof.Machine.execCntTop func v s
  | .cntCmp func b v => Sys2Proof.Machine.execCntCmp func b v s
  | .compareMatch n b => Sys2Proof.Machine.execCompareMatch n b s
  | .captureEdge n rising => Sys2Proof.Machine.execCaptureEdge n rising s
  | .cntCapRead func => Sys2Proof.Machine.execCntCapRead func s
  | .timeRead r wr => Sys2Proof.Machine.execTimeRead r wr s
  | .timeSet r => Sys2Proof.Machine.execTimeSet r s
  | .furrowRead r wr => Sys2Proof.Machine.execFurrowRead r wr s
  | .presencePoll => Sys2Proof.Machine.execPresencePoll s
  | .approachPoll => Sys2Proof.Machine.execApproachPoll s
  | .lfSegment => Sys2Proof.Machine.execLfSegment s
  | .lfChannelFault ch cond early spareFails => Sys2Proof.Machine.execLfChannelFault ch cond early spareFails s
  | .replySlotTrigger => Sys2Proof.Machine.execReplySlotTrigger s
  | .replyWindowEnd => Sys2Proof.Machine.execReplyWindowEnd s
  | .chalReply replies => Sys2Proof.Machine.execChalReply replies s
  | .button frame => Sys2Proof.Machine.execButton frame s
  | .soundReport frame => Sys2Proof.Machine.execSoundReport frame s
  | .tokenFrameDiscard frame => Sys2Proof.Machine.execTokenFrameDiscard frame s
  | .capacitiveTouch e scans => Sys2Proof.Machine.execCapacitiveTouch e scans s
  | .touchEnd scans => Sys2Proof.Machine.execTouchEnd scans s
  | .electrodeStuck e => Sys2Proof.Machine.execElectrodeStuck e s
  | .electrodeUnmask e => Sys2Proof.Machine.execElectrodeUnmask e s
  | .capGuardFault g => Sys2Proof.Machine.execCapGuardFault g s
  | .uhfPowerCorrection temp errs => Sys2Proof.Machine.execUhfPowerCorrection temp errs s
  | .synthFault b => Sys2Proof.Machine.execSynthFault b s
  | .soundBurst => Sys2Proof.Machine.execSoundBurst s
  | .reportTrigger => Sys2Proof.Machine.execReportTrigger s
  | .positionFit fit wr => Sys2Proof.Machine.execPositionFit fit wr s
  | .coexGrant => Sys2Proof.Machine.execCoexGrant s
  | .coexTimeout => Sys2Proof.Machine.execCoexTimeout s
  | .coexGrantFall m => Sys2Proof.Machine.execCoexGrantFall m s
  | .coexPriLead => Sys2Proof.Machine.execCoexPriLead s
  | .trackAgeExpiry tid => Sys2Proof.Machine.execTrackAgeExpiry tid s
  | .locate r => Sys2Proof.Machine.execLocate r s
  | .trackRead r wr => Sys2Proof.Machine.execTrackRead r wr s
  | .nearEnrol r => Sys2Proof.Machine.execNearEnrol r s
  | .nearRemove r => Sys2Proof.Machine.execNearRemove r s
  | .nearRead r wr => Sys2Proof.Machine.execNearRead r wr s
  | .zoneRead r wr => Sys2Proof.Machine.execZoneRead r wr s
  | .start r evidence => Sys2Proof.Machine.execStart r evidence s
  | .lockReq r => Sys2Proof.Machine.execLockReq r s
  | .lockStatus r wr => Sys2Proof.Machine.execLockStatus r wr s
  | .armHoldExpiry => Sys2Proof.Machine.execArmHoldExpiry s
  | .ignitionOffDebounce => Sys2Proof.Machine.execIgnitionOffDebounce s
  | .releaseWindowExpiry => Sys2Proof.Machine.execReleaseWindowExpiry s
  | .lockHoldExpiry => Sys2Proof.Machine.execLockHoldExpiry s
  | .slkLedgerRetry => Sys2Proof.Machine.execSlkLedgerRetry s
  | .stateFramePeriod => Sys2Proof.Machine.execStateFramePeriod s
  | .reconciliation => Sys2Proof.Machine.execReconciliation s
  | .canBusOff p => Sys2Proof.Machine.execCanBusOff p s
  | .canBusoffRecovery p => Sys2Proof.Machine.execCanBusoffRecovery p s
  | .canPortReturn p => Sys2Proof.Machine.execCanPortReturn p s
  | .slkMismatch out1 agrees => Sys2Proof.Machine.execSlkMismatch out1 agrees s
  | .nfcDetection k amp phase opened shorted => Sys2Proof.Machine.execNfcDetection k amp phase opened shorted s
  | .readerRetry k coil => Sys2Proof.Machine.execReaderRetry k coil s
  | .cardResponse reader resp wr => Sys2Proof.Machine.execCardResponse reader resp wr s
  | .wtxRequest reader wtxm => Sys2Proof.Machine.execWtxRequest reader wtxm s
  | .frameWaitExpiry reader => Sys2Proof.Machine.execFrameWaitExpiry reader s
  | .cardAuth r => Sys2Proof.Machine.execCardAuth r s
  | .sealScan r => Sys2Proof.Machine.execSealScan r s
  | .sealSecure r => Sys2Proof.Machine.execSealSecure r s
  | .sealOpen r => Sys2Proof.Machine.execSealOpen r s
  | .sealRead r => Sys2Proof.Machine.execSealRead r s
  | .capRead r wr => Sys2Proof.Machine.execCapRead r wr s
  | .iflDetSample p uv => Sys2Proof.Machine.execIflDetSample p uv s
  | .iflFrameReceived p frame => Sys2Proof.Machine.execIflFrameReceived p frame s
  | .soundReq p m => Sys2Proof.Machine.execSoundReq p m s
  | .soundFrame p => Sys2Proof.Machine.execSoundFrame p s
  | .soundFrameReceived p syms => Sys2Proof.Machine.execSoundFrameReceived p syms s
  | .iflLoad p m => Sys2Proof.Machine.execIflLoad p m s
  | .loadResend p => Sys2Proof.Machine.execLoadResend p s
  | .oldTableHoldEnd p => Sys2Proof.Machine.execOldTableHoldEnd p s
  | .soundingPeriod p => Sys2Proof.Machine.execSoundingPeriod p s
  | .tick p m => Sys2Proof.Machine.execTick p m s
  | .listenWindow p => Sys2Proof.Machine.execListenWindow p s
  | .windowExtensionEnd p => Sys2Proof.Machine.execWindowExtensionEnd p s
  | .masterSilence p => Sys2Proof.Machine.execMasterSilence p s
  | .resyncListen p => Sys2Proof.Machine.execResyncListen p s
  | .beacon p => Sys2Proof.Machine.execBeacon p s
  | .beaconReceived p payload => Sys2Proof.Machine.execBeaconReceived p payload s
  | .roll p src payload => Sys2Proof.Machine.execRoll p src payload s
  | .join p payload => Sys2Proof.Machine.execJoin p payload s
  | .assign p payload => Sys2Proof.Machine.execAssign p payload s
  | .joined p payload => Sys2Proof.Machine.execJoined p payload s
  | .profile p payload => Sys2Proof.Machine.execProfile p payload s
  | .decoupled p payload => Sys2Proof.Machine.execDecoupled p payload s
  | .dataFrame p payload => Sys2Proof.Machine.execDataFrame p payload s
  | .ack p payload => Sys2Proof.Machine.execAck p payload s
  | .onwardLost p payload => Sys2Proof.Machine.execOnwardLost p payload s
  | .resendTimer p => Sys2Proof.Machine.execResendTimer p s
  | .supplyStepWindowEnd => Sys2Proof.Machine.execSupplyStepWindowEnd s
  | .adriftHoldEnd p => Sys2Proof.Machine.execAdriftHoldEnd p s
  | .readerRequest payload => Sys2Proof.Machine.execReaderRequest payload s
  | .lfRequest payload => Sys2Proof.Machine.execLfRequest payload s
  | .svcStatus => Sys2Proof.Machine.execSvcStatus s
  | .relay r rd => Sys2Proof.Machine.execRelay r rd s
  | .chainRead r wr => Sys2Proof.Machine.execChainRead r wr s
  | .recv r wr => Sys2Proof.Machine.execRecv r wr s
  | .append r rd => Sys2Proof.Machine.execAppend r rd s
  | .cusRead r wr => Sys2Proof.Machine.execCusRead r wr s
  | .cusScan r wr => Sys2Proof.Machine.execCusScan r wr s
  | .cusVerify r => Sys2Proof.Machine.execCusVerify r s
  | .cusStatus r wr => Sys2Proof.Machine.execCusStatus r wr s
  | .nvmeWriteComplete d ok => Sys2Proof.Machine.execNvmeWriteComplete d ok s
  | .nvmeCommandTimeout d => Sys2Proof.Machine.execNvmeCommandTimeout d s
  | .nvmeLinkDown d => Sys2Proof.Machine.execNvmeLinkDown d s
  | .driveLossDeclaration d => Sys2Proof.Machine.execDriveLossDeclaration d s
  | .nvmeFatalStatus d => Sys2Proof.Machine.execNvmeFatalStatus d s
  | .nvmeLinkUp d => Sys2Proof.Machine.execNvmeLinkUp d s
  | .driveReady d label => Sys2Proof.Machine.execDriveReady d label s
  | .driveReadyTimeout d => Sys2Proof.Machine.execDriveReadyTimeout d s
  | .driveWear d cause => Sys2Proof.Machine.execDriveWear d cause s
  | .reprotection => Sys2Proof.Machine.execReprotection s
  | .eviction => Sys2Proof.Machine.execEviction s
  | .ledgerSectorFail b => Sys2Proof.Machine.execLedgerSectorFail b s
  | .sectorRefillDone b => Sys2Proof.Machine.execSectorRefillDone b s
  | .ledgercp => Sys2Proof.Machine.execLedgercp s
  | .ledgerDrain ready => Sys2Proof.Machine.execLedgerDrain ready s
  | .lookup r rd wr => Sys2Proof.Machine.execLookup r rd wr s
  | .grant r rd wr => Sys2Proof.Machine.execGrant r rd wr s
  | .grantCommit r wr => Sys2Proof.Machine.execGrantCommit r wr s
  | .dirLoad r rd => Sys2Proof.Machine.execDirLoad r rd s
  | .revoke r => Sys2Proof.Machine.execRevoke r s
  | .revokeEpoch r => Sys2Proof.Machine.execRevokeEpoch r s
  | .remove r => Sys2Proof.Machine.execRemove r s
  | .dirStatus r wr => Sys2Proof.Machine.execDirStatus r wr s
  | .dirDeltaCopied => Sys2Proof.Machine.execDirDeltaCopied s
  | .epochs payload => Sys2Proof.Machine.execEpochs payload s
  | .revoked payload => Sys2Proof.Machine.execRevoked payload s
  | .held pos payload => Sys2Proof.Machine.execHeld pos payload s
  | .dirRelayLate pos => Sys2Proof.Machine.execDirRelayLate pos s
  | .snapshotStart => Sys2Proof.Machine.execSnapshotStart s
  | .dirRebuild ok => Sys2Proof.Machine.execDirRebuild ok s
  | .keyRoot r => Sys2Proof.Machine.execKeyRoot r s
  | .keyDerive r rd => Sys2Proof.Machine.execKeyDerive r rd s
  | .keyImport r rd => Sys2Proof.Machine.execKeyImport r rd s
  | .keyExport r rd wr => Sys2Proof.Machine.execKeyExport r rd wr s
  | .keyClose r => Sys2Proof.Machine.execKeyClose r s
  | .keyInfo r wr => Sys2Proof.Machine.execKeyInfo r wr s
  | .keyPublic r wr => Sys2Proof.Machine.execKeyPublic r wr s
  | .encrypt r rd wr => Sys2Proof.Machine.execEncrypt r rd wr s
  | .decrypt r rd wr => Sys2Proof.Machine.execDecrypt r rd wr s
  | .mac r rd wr => Sys2Proof.Machine.execMac r rd wr s
  | .macVerify r rd => Sys2Proof.Machine.execMacVerify r rd s
  | .sealCcm r rd wr => Sys2Proof.Machine.execSealCcm r rd wr s
  | .openCcm r rd wr => Sys2Proof.Machine.execOpenCcm r rd wr s
  | .laneFault lane op => Sys2Proof.Machine.execLaneFault lane op s
  | .laneRetest lane pass => Sys2Proof.Machine.execLaneRetest lane pass s
  | .laneOverheat lane => Sys2Proof.Machine.execLaneOverheat lane s
  | .laneCooled lane temp => Sys2Proof.Machine.execLaneCooled lane temp s
  | .tamperMesh m => Sys2Proof.Machine.execTamperMesh m s
  | .light => Sys2Proof.Machine.execLight s
  | .voltageGlitch => Sys2Proof.Machine.execVoltageGlitch s
  | .clockGlitch => Sys2Proof.Machine.execClockGlitch s
  | .temperatureTamper => Sys2Proof.Machine.execTemperatureTamper s
  | .alarmHoldEnd => Sys2Proof.Machine.execAlarmHoldEnd s
  | .pkeVerify r rd => Sys2Proof.Machine.execPkeVerify r rd s
  | .pointCheck r rd => Sys2Proof.Machine.execPointCheck r rd s
  | .hash r rd wr => Sys2Proof.Machine.execHash r rd wr s
  | .random r wr => Sys2Proof.Machine.execRandom r wr s
  | .rngStatus r wr => Sys2Proof.Machine.execRngStatus r wr s
  | .rngSourceFailure src cause => Sys2Proof.Machine.execRngSourceFailure src cause s
  | .rngHealthCheck live locked => Sys2Proof.Machine.execRngHealthCheck live locked s
  | .sourceReturn src => Sys2Proof.Machine.execSourceReturn src s
  | .drbgReseed => Sys2Proof.Machine.execDrbgReseed s
  | .rngSelfTestEnd pass kat => Sys2Proof.Machine.execRngSelfTestEnd pass kat s
  | .hashEngineFault e => Sys2Proof.Machine.execHashEngineFault e s
  | .stage r rd flash => Sys2Proof.Machine.execStage r rd flash s
  | .push r => Sys2Proof.Machine.execPush r s
  | .schedule r => Sys2Proof.Machine.execSchedule r s
  | .cancel r => Sys2Proof.Machine.execCancel r s
  | .cfgWrite r rd body flashOk => Sys2Proof.Machine.execCfgWrite r rd body flashOk s
  | .updStatus r wr => Sys2Proof.Machine.execUpdStatus r wr s
  | .offer src payload => Sys2Proof.Machine.execOffer src payload s
  | .need src payload => Sys2Proof.Machine.execNeed src payload s
  | .piece src payload flash => Sys2Proof.Machine.execPiece src payload flash s
  | .transportStatus src payload => Sys2Proof.Machine.execTransportStatus src payload s
  | .sched src payload => Sys2Proof.Machine.execSched src payload s
  | .unsched src payload => Sys2Proof.Machine.execUnsched src payload s
  | .needTimer => Sys2Proof.Machine.execNeedTimer s
  | .transferAbandon => Sys2Proof.Machine.execTransferAbandon s
  | .schedRepeat => Sys2Proof.Machine.execSchedRepeat s
  | .activationCommit => Sys2Proof.Machine.execActivationCommit s
  | .activationLapse => Sys2Proof.Machine.execActivationLapse s
  | .handoverShadowReady => Sys2Proof.Machine.execHandoverShadowReady s
  | .handoverTimeout => Sys2Proof.Machine.execHandoverTimeout s
  | .handoverHoldEnd => Sys2Proof.Machine.execHandoverHoldEnd s
  | .trialConfirm => Sys2Proof.Machine.execTrialConfirm s
  | .updHearthGo func v image => Sys2Proof.Machine.execUpdHearthGo func v image s
  | .updHearthRevert func v => Sys2Proof.Machine.execUpdHearthRevert func v s
  | .hearthCanFrame ident data => Sys2Proof.Machine.execHearthCanFrame ident data s
  | .hearthCanStatus => Sys2Proof.Machine.execHearthCanStatus s
  | .hearthDownloadEnd flash => Sys2Proof.Machine.execHearthDownloadEnd flash s
  | .sramEccError bank row col uncorr owner => Sys2Proof.Machine.execSramEccError bank row col uncorr owner s
  | .wakeStuck pin => Sys2Proof.Machine.execWakeStuck pin s
  | .wakeUnmask pin => Sys2Proof.Machine.execWakeUnmask pin s
  | .coexGntStuck m => Sys2Proof.Machine.execCoexGntStuck m s
  | .pmicRecoveryRetry freed => Sys2Proof.Machine.execPmicRecoveryRetry freed s
  | .pmicIrqStuck low => Sys2Proof.Machine.execPmicIrqStuck low s
  | .faultRead r wr => Sys2Proof.Machine.execFaultRead r wr s
  | .unitTest r pass => Sys2Proof.Machine.execUnitTest r pass s
  | .bypass r => Sys2Proof.Machine.execBypass r s
  | .restore r pass => Sys2Proof.Machine.execRestore r pass s
  | .scrub r found => Sys2Proof.Machine.execScrub r found s
  | .driveDrain r => Sys2Proof.Machine.execDriveDrain r s
  | .driveAdmit r => Sys2Proof.Machine.execDriveAdmit r s
  | .service r => Sys2Proof.Machine.execService r s
  | .sysReset func v => Sys2Proof.Machine.execSysReset func v s
  | .sysLockSetup func v => Sys2Proof.Machine.execSysLockSetup func v s
  | .highHalfLatch func off size => Sys2Proof.Machine.execHighHalfLatch func off size s
  | .registerWrite func off size v => Sys2Proof.Machine.execRegisterWrite func off size v s
  | .thermalGovernor temp => Sys2Proof.Machine.execThermalGovernor temp s
  | .upstreamNeighbourLost p => Sys2Proof.Machine.execUpstreamNeighbourLost p s
  | .publicKeyEngineFault => Sys2Proof.Machine.execPublicKeyEngineFault s
  | .countReachesZero n => Sys2Proof.Machine.execCountReachesZero n s

end Sys2Proof.Machine
end

