-- ==== Sys2Proof/Safety.lean ====
section
/-! DEFINITION. What counts as a safe run: what every step keeps, whatever the command, and the shape a state has. -/

namespace Sys2Proof.Machine

/-- How many of each numbered unit the part has. -/
structure Counts where
  lanes : Nat
  sources : Nat
  counters : Nat
  pins : Nat
  ports : Nat
  drives : Nat
  deriving DecidableEq, Repr

/-- The units a state holds. -/
def counts (s : State) : Counts :=
  { lanes := s.sec.lanes.length, sources := s.sec.sources.length, counters := s.clk.cnts.length, pins := s.pwr.pins.length,
    ports := s.ifl.ports.length, drives := s.cus.drives.length }

/-- The units of the part: 20 cipher lanes (R505), 4 random sources (R524), 16 counters (R209), 4 WAKE pins, 4 Ifeven ports
and 4 drives (R74). -/
def partCounts : Counts := { lanes := 20, sources := 4, counters := 16, pins := 4, ports := 4, drives := 4 }

/-- The shape of a state of the part: every unit it numbers is there. -/
def Shaped (s : State) : Prop := counts s = partCounts

/-- What a descriptor's acceptance fixed for good: what was accepted, from which ring and tenancy, when, and where its
record and its Tailrace slot stand (R107, R109, R180). -/
def sameAcceptance (f g : Flight) : Prop :=
  g.ring = f.ring ∧ g.era = f.era ∧ g.ten = f.ten ∧ g.party = f.party ∧ g.func = f.func ∧ g.raw = f.raw ∧
    g.hrSlot = f.hrSlot ∧ g.trSlot = f.trSlot ∧ g.tAdm = f.tAdm ∧ g.epochAdm = f.epochAdm ∧ g.lsn = f.lsn ∧
    g.ranges = f.ranges

/-- A later view of the accepted descriptors: each is still there under its acceptance number, with what its acceptance
fixed, and with its fate if it had one (R34). -/
def FlightsKept (l m : List Flight) : Prop :=
  ∀ (r : Nat) (f : Flight), l[r]? = some f → ∃ g, m[r]? = some g ∧ sameAcceptance f g ∧ (f.fate.isSome → g.fate = f.fate)

/-- What no command and no passing of time takes back: accepted descriptors and fates given, the policy epoch, the ledger's
sequence, the recorded SEC_FLOOR, the journal's sequence, the fuses and the number of each unit. -/
structure Keeps (s t : State) : Prop where
  flights : FlightsKept s.host.flights t.host.flights
  epoch : s.slc.epoch ≤ t.slc.epoch
  lsn : s.led.lsn ≤ t.led.lsn
  floor : s.upd.ledgerFloor ≤ t.upd.ledgerFloor
  seq : s.upd.seq ≤ t.upd.seq
  fuse : t.fuse = s.fuse
  counts : counts t = counts s

/-! ### Frames -/

/-- The parts of the state between which frames distinguish. `led` takes in the time of the last ledger record, `rings` all of
the HOST block but the accepted descriptors and the MSI-X table, `slc` all of the SLC block but the sluice's running figures,
`clk` all of the CLK block but TIME_MONO, the counters and that time of the ledger. -/
inductive Part where
  | pwr | sys | flights | vecs | rings | run | slc | time | counters | clk | led | cfg | flt | sec | slk | dir | radio | cap
  | ifl | nfc | cus | upd | outs | free
  deriving DecidableEq, Repr

/-- A part reads the same in two states. -/
def Part.same (s t : State) : Part → Prop
  | .pwr => t.pwr = s.pwr
  | .sys => t.sys = s.sys
  | .flights => t.host.flights = s.host.flights
  | .vecs => t.host.vecs = s.host.vecs
  | .rings => { t.host with flights := [], vecs := [] } = { s.host with flights := [], vecs := [] }
  | .run => t.slc.run = s.slc.run
  | .slc => { t.slc with run := [] } = { s.slc with run := [] }
  | .time => t.clk.ns = s.clk.ns
  | .counters => t.clk.cnts = s.clk.cnts
  | .clk => { t.clk with ns := 0, cnts := [], ledgerUs := 0 } = { s.clk with ns := 0, cnts := [], ledgerUs := 0 }
  | .led => t.led = s.led ∧ t.clk.ledgerUs = s.clk.ledgerUs
  | .cfg => t.cfg = s.cfg
  | .flt => t.flt = s.flt
  | .sec => t.sec = s.sec
  | .slk => t.slk = s.slk
  | .dir => t.dir = s.dir
  | .radio => t.radio = s.radio
  | .cap => t.cap = s.cap
  | .ifl => t.ifl = s.ifl
  | .nfc => t.nfc = s.nfc
  | .cus => t.cus = s.cus
  | .upd => t.upd = s.upd
  | .outs => t.outs = s.outs
  | .free => t.free = s.free

/-- Only the parts listed may differ between two states; the fuses and the queue never do. -/
def Frame (ps : List Part) (s t : State) : Prop := t.fuse = s.fuse ∧ t.pending = s.pending ∧ ∀ p, p ∉ ps → p.same s t

/-! ### What each command may touch -/

/-- The parts of the state that a command may change; every other part, the fuses and the queue read the same after it. -/
def touches : Instr → List Part
  | .vaonGood .. | .vcoreBrownOut .. | .warmReset .. | .hearthDownloadEnd .. | .sysReset .. =>
     [.pwr, .sys, .flights, .vecs, .rings, .counters, .clk, .flt, .sec, .slk, .dir, .radio, .cap, .ifl, .nfc, .cus, .upd, .outs]
  | .vaonBrownOut .. | .driveShutdownComplete .. | .wakeEvent .. | .dsenseChange .. | .registerWrite .. =>
     [.pwr, .sys, .flights, .vecs, .rings, .time, .counters, .clk, .led, .flt, .sec, .slk, .dir, .radio, .cap, .ifl, .nfc, .cus, .upd, .outs]
  | .aonSupplyChangeover .. | .pwrParkReq .. | .pwrAlarmS .. => [.pwr]
  | .aonLoss .. => [.pwr, .flights, .vecs, .rings, .run, .slc, .time, .counters, .clk, .led, .flt, .sec, .slk]
  | .vkeepLow .. | .pairSelfTestEnd .. => [.pwr, .vecs, .led, .flt, .outs]
  | .dramRailFault .. => [.pwr, .vecs, .led, .flt, .dir, .outs]
  | .portRailFault .. | .bypass .. =>
     [.pwr, .flights, .vecs, .run, .slc, .led, .flt, .sec, .slk, .dir, .radio, .ifl, .nfc, .upd, .outs, .free]
  | .linkRailFault .. => [.pwr, .flights, .vecs, .rings, .led, .flt, .cus, .outs]
  | .railGoodReturn .. => [.pwr, .flights, .vecs, .rings, .led, .flt, .dir, .outs, .free]
  | .enableGroupGood .. => [.pwr, .flights, .vecs, .rings, .run, .slc, .led, .sec, .slk, .radio, .outs, .free]
  | .enableGroupTimeout .. => [.pwr, .vecs, .time, .counters, .clk, .led, .flt, .radio, .outs]
  | .fuseLoadEnd .. | .watchdogExpiry .. | .ledgerSectorFail .. =>
     [.pwr, .sys, .flights, .vecs, .rings, .time, .counters, .clk, .led, .flt, .sec, .slk, .dir, .radio, .cap, .ifl, .nfc, .cus, .upd, .outs, .free]
  | .configurationLoad .. =>
     [.pwr, .sys, .vecs, .run, .slc, .time, .counters, .led, .cfg, .flt, .sec, .dir, .radio, .outs, .free]
  | .ledgerReplay .. | .voltageGlitch .. | .clockGlitch .. =>
     [.pwr, .sys, .flights, .vecs, .rings, .run, .slc, .time, .counters, .clk, .led, .flt, .sec, .slk, .dir, .radio, .cap, .ifl, .nfc, .cus, .upd, .outs, .free]
  | .checkpoint .. => [.pwr, .flights, .vecs, .rings, .time, .counters, .led, .outs]
  | .stewardTakeover .. => [.pwr, .sys, .flights, .vecs, .run, .slc, .time, .counters, .led, .cfg, .flt, .upd, .outs, .free]
  | .shadowTestSlice .. => [.pwr, .flights, .vecs, .run, .slc, .led, .flt, .outs]
  | .pwrParkCancel .. | .doorbellHrPi .. | .doorbellTrCi .. => [.pwr, .vecs, .rings, .outs]
  | .parkedEntryIdle .. | .wakeSlicePowerDown .. | .driveExit .. => [.pwr, .vecs, .time, .counters, .outs]
  | .parkedEntryDrained .. => [.pwr, .flights, .vecs, .rings, .led, .slk, .outs]
  | .wakePinCrossing .. => [.pwr, .slk]
  | .nearListRestored .. => [.pwr, .radio, .outs]
  | .wakeWindowEnd .. | .dormancyHour .. | .lowBattery .. => [.pwr, .vecs, .time, .counters, .radio, .ifl, .outs]
  | .rtcAlarm .. => [.pwr, .vecs, .time, .counters, .radio, .outs]
  | .serviceEnd .. => [.pwr, .vecs, .rings, .time, .counters, .upd, .outs]
  | .debugDurationEnd .. => [.pwr, .vecs, .rings, .time, .counters, .flt, .upd, .outs]
  | .slotConsume .. => [.flights, .vecs, .rings, .run, .slc, .led, .slk]
  | .classBoundExpiry .. =>
     [.flights, .vecs, .run, .slc, .time, .counters, .led, .flt, .sec, .dir, .radio, .ifl, .nfc, .cus, .upd, .outs]
  | .completionWrite .. => [.flights, .vecs, .rings, .outs]
  | .consumerIndexWriteback .. => [.rings, .outs]
  | .descriptorReadFailed .. | .tailraceWriteRefused .. | .msixUnmask .. => [.vecs, .rings, .outs]
  | .ringEnable .. | .ringDisable .. | .ringDrained .. => [.rings, .led]
  | .moderationTimer .. => [.vecs, .rings, .time, .counters, .outs]
  | .vfFunctionLevelReset .. | .vfEnableClear .. => [.flights, .vecs, .rings, .run, .slc, .led]
  | .hostPerst .. => [.flights, .vecs, .rings, .outs, .free]
  | .nop .. | .ping .. | .writSettle .. | .cusVerify .. => [.flights, .run, .slc, .led]
  | .fateInquiry .. | .writStatus .. | .timeRead .. | .furrowRead .. | .trackRead .. | .nearRead .. | .zoneRead .. |
    .lockStatus .. | .capRead .. | .cusRead .. | .cusScan .. | .cusStatus .. | .lookup .. | .dirStatus .. | .keyInfo .. |
    .hash .. | .rngStatus .. | .updStatus .. | .faultRead .. => [.flights, .run, .slc, .led, .outs]
  | .writApply .. =>
     [.pwr, .flights, .vecs, .rings, .run, .slc, .time, .counters, .clk, .led, .flt, .sec, .slk, .radio, .upd, .outs]
  | .writCheck .. | .keyRoot .. | .keyDerive .. | .keyImport .. | .keyClose .. | .pkeVerify .. | .pointCheck .. =>
     [.flights, .run, .slc, .led, .sec]
  | .ang0Edge .. =>
     [.pwr, .flights, .vecs, .rings, .run, .slc, .time, .counters, .clk, .led, .flt, .sec, .slk, .radio, .outs, .free]
  | .ang1Edge .. => [.pwr, .vecs, .rings, .time, .counters, .clk, .led, .outs]
  | .ang2Edge .. | .lfSegment .. | .coexPriLead .. | .start .. =>
     [.pwr, .flights, .vecs, .run, .slc, .time, .counters, .clk, .led, .sec, .slk, .radio, .outs, .free]
  | .ang3Pulse .. | .crankEdgeTimeout .. | .roadSpeedFrame .. | .engineSpeedFrame .. =>
     [.pwr, .vecs, .rings, .time, .counters, .clk, .led, .flt, .slk, .outs]
  | .wheelPulseTimeout .. | .speedSignalStale .. => [.pwr, .vecs, .rings, .time, .counters, .led, .flt, .slk, .outs]
  | .angleSwitchWindowEnd .. | .propHoldExpiry .. => [.vecs, .time, .counters, .clk, .led, .outs]
  | .xtal25Loss .. | .rtcRcCalibrate .. => [.time, .counters, .clk, .led]
  | .clockSwitchWindowEnd .. =>
     [.pwr, .flights, .vecs, .run, .slc, .time, .counters, .clk, .led, .flt, .sec, .dir, .radio, .ifl, .nfc, .cus, .upd, .outs, .free]
  | .xtal25Return .. => [.pwr, .flights, .vecs, .run, .slc, .time, .counters, .clk, .led, .flt, .sec, .radio, .outs, .free]
  | .xtal32kLoss .. | .xtal32kReturn .. => [.vecs, .time, .counters, .clk, .led, .flt, .outs]
  | .cntEnable .. | .cntDisable .. | .cntTop .. | .cntCmp .. | .captureEdge .. => [.vecs, .counters, .outs]
  | .compareMatch .. | .countReachesZero .. => [.vecs, .time, .counters, .outs]
  | .cntCapRead .. | .highHalfLatch .. => [.vecs, .rings, .counters, .outs]
  | .timeSet .. => [.flights, .run, .slc, .time, .counters, .clk, .led]
  | .presencePoll .. => [.vecs, .time, .counters, .sec, .radio, .outs, .free]
  | .approachPoll .. => [.pwr, .vecs, .time, .counters, .sec, .radio, .outs, .free]
  | .lfChannelFault .. | .temperatureTamper .. =>
     [.pwr, .flights, .vecs, .run, .slc, .led, .flt, .sec, .slk, .radio, .outs, .free]
  | .replySlotTrigger .. | .trackAgeExpiry .. => [.vecs, .time, .counters, .radio, .outs]
  | .replyWindowEnd .. | .coexTimeout .. =>
     [.pwr, .flights, .vecs, .run, .slc, .time, .counters, .led, .sec, .slk, .radio, .outs, .free]
  | .chalReply .. => [.pwr, .flights, .run, .slc, .led, .sec, .slk, .radio, .outs, .free]
  | .button .. => [.pwr, .led, .slk, .radio, .outs]
  | .soundReport .. => [.pwr, .flights, .run, .slc, .led, .sec, .radio, .outs, .free]
  | .tokenFrameDiscard .. => []
  | .capacitiveTouch .. | .touchEnd .. => [.pwr, .vecs, .time, .counters, .sec, .radio, .cap, .outs, .free]
  | .electrodeStuck .. | .electrodeUnmask .. => [.vecs, .time, .counters, .led, .flt, .cap, .outs]
  | .capGuardFault .. => [.vecs, .led, .flt, .cap, .outs]
  | .uhfPowerCorrection .. | .synthFault .. | .laneFault .. =>
     [.pwr, .flights, .vecs, .run, .slc, .led, .flt, .sec, .radio, .outs, .free]
  | .soundBurst .. => [.pwr, .flights, .vecs, .run, .slc, .time, .counters, .clk, .led, .sec, .radio, .outs, .free]
  | .reportTrigger .. => [.pwr, .flights, .vecs, .run, .slc, .time, .counters, .led, .sec, .radio, .outs, .free]
  | .positionFit .. => [.pwr, .flights, .run, .slc, .led, .slk, .radio, .outs]
  | .coexGrant .. => [.radio]
  | .coexGrantFall .. => [.vecs, .led, .flt, .radio, .outs]
  | .locate .. => [.flights, .run, .slc, .led, .sec, .radio, .outs, .free]
  | .nearEnrol .. => [.flights, .run, .slc, .led, .sec, .radio]
  | .nearRemove .. => [.flights, .run, .slc, .led, .radio]
  | .lockReq .. => [.flights, .run, .slc, .led, .slk, .outs]
  | .armHoldExpiry .. | .ignitionOffDebounce .. | .releaseWindowExpiry .. | .lockHoldExpiry .. | .slkLedgerRetry .. |
    .stateFramePeriod .. | .reconciliation .. | .canPortReturn .. => [.vecs, .time, .counters, .led, .slk, .outs]
  | .canBusOff .. => [.vecs, .led, .flt, .slk, .outs]
  | .canBusoffRecovery .. => [.vecs, .time, .counters, .led, .flt, .slk, .outs]
  | .slkMismatch .. | .coexGntStuck .. | .pmicIrqStuck .. | .publicKeyEngineFault .. => [.vecs, .led, .flt, .outs]
  | .nfcDetection .. => [.flights, .vecs, .run, .slc, .time, .counters, .led, .flt, .ifl, .nfc, .outs]
  | .readerRetry .. => [.vecs, .time, .counters, .led, .flt, .nfc, .outs]
  | .cardResponse .. => [.flights, .vecs, .run, .slc, .time, .counters, .led, .sec, .ifl, .nfc, .outs, .free]
  | .wtxRequest .. | .frameWaitExpiry .. | .cardAuth .. | .sealScan .. | .sealSecure .. | .sealOpen .. | .sealRead .. =>
     [.flights, .vecs, .run, .slc, .time, .counters, .led, .ifl, .nfc, .outs]
  | .iflDetSample .. => [.flights, .vecs, .run, .slc, .time, .counters, .led, .flt, .dir, .ifl, .nfc, .upd, .outs]
  | .iflFrameReceived .. => [.pwr, .vecs, .time, .counters, .ifl, .outs]
  | .soundReq .. | .iflLoad .. | .tick .. => [.ifl]
  | .soundFrame .. | .soundFrameReceived .. | .beaconReceived .. => [.ifl, .outs]
  | .loadResend .. | .oldTableHoldEnd .. | .soundingPeriod .. | .listenWindow .. | .windowExtensionEnd .. |
    .masterSilence .. | .resyncListen .. | .supplyStepWindowEnd .. | .upstreamNeighbourLost .. =>
     [.vecs, .time, .counters, .ifl, .outs]
  | .beacon .. | .resendTimer .. | .adriftHoldEnd .. =>
     [.flights, .vecs, .run, .slc, .time, .counters, .led, .dir, .ifl, .nfc, .upd, .outs]
  | .roll .. | .join .. | .assign .. | .joined .. | .profile .. | .decoupled .. | .dataFrame .. | .onwardLost .. =>
     [.flights, .run, .slc, .led, .sec, .dir, .ifl, .nfc, .upd, .outs, .free]
  | .ack .. | .relay .. | .recv .. => [.flights, .run, .slc, .led, .ifl, .outs]
  | .readerRequest .. => [.vecs, .time, .counters, .ifl, .nfc, .outs]
  | .lfRequest .. => [.vecs, .time, .counters, .clk, .led, .ifl, .outs, .free]
  | .svcStatus .. => [.vecs, .time, .counters, .ifl, .outs, .free]
  | .chainRead .. => [.flights, .run, .slc, .led, .outs, .free]
  | .append .. | .reprotection .. => [.flights, .run, .slc, .led, .cus, .outs]
  | .nvmeWriteComplete .. => [.pwr, .flights, .run, .slc, .led, .dir, .cus, .outs, .free]
  | .nvmeCommandTimeout .. | .driveLossDeclaration .. | .driveReadyTimeout .. =>
     [.flights, .vecs, .run, .slc, .time, .counters, .led, .flt, .dir, .cus, .outs]
  | .nvmeLinkDown .. | .nvmeLinkUp .. => [.cus]
  | .nvmeFatalStatus .. | .scrub .. => [.flights, .vecs, .run, .slc, .led, .flt, .dir, .cus, .outs]
  | .driveReady .. => [.flights, .vecs, .run, .slc, .led, .flt, .sec, .dir, .cus, .outs, .free]
  | .driveWear .. => [.vecs, .led, .flt, .cus, .outs]
  | .eviction .. => [.run, .led, .cus]
  | .sectorRefillDone .. => [.led]
  | .ledgercp .. => [.vecs, .run, .slc, .time, .counters, .led, .dir, .cus, .outs, .free]
  | .ledgerDrain .. => [.pwr, .flights, .vecs, .run, .slc, .time, .counters, .led, .flt, .dir, .cus, .outs, .free]
  | .grant .. => [.flights, .run, .slc, .led, .dir]
  | .grantCommit .. => [.flights, .run, .slc, .led, .dir, .outs]
  | .dirLoad .. => [.flights, .run, .slc, .led, .dir, .cus, .outs, .free]
  | .revoke .. | .revokeEpoch .. | .remove .. => [.flights, .run, .slc, .led, .dir, .cus, .outs]
  | .dirDeltaCopied .. => [.flights, .run, .slc, .led, .dir, .radio, .ifl, .outs]
  | .epochs .. => [.dir, .ifl, .outs]
  | .revoked .. => [.dir, .radio, .ifl, .outs]
  | .held .. => [.dir]
  | .dirRelayLate .. => [.vecs, .time, .counters, .dir, .ifl, .outs]
  | .snapshotStart .. => [.vecs, .run, .slc, .time, .counters, .led, .dir, .cus, .outs]
  | .dirRebuild .. => [.dir, .free]
  | .keyExport .. | .encrypt .. | .decrypt .. | .mac .. | .sealCcm .. | .openCcm .. | .random .. =>
     [.flights, .run, .slc, .led, .sec, .outs, .free]
  | .keyPublic .. => [.flights, .run, .slc, .led, .sec, .outs]
  | .macVerify .. => [.flights, .run, .slc, .led, .sec, .free]
  | .laneRetest .. | .laneOverheat .. | .laneCooled .. | .rngSourceFailure .. | .rngHealthCheck .. | .hashEngineFault .. =>
     [.vecs, .led, .flt, .sec, .outs]
  | .tamperMesh .. | .light .. =>
     [.pwr, .sys, .flights, .vecs, .rings, .run, .slc, .time, .counters, .clk, .led, .flt, .sec, .slk, .dir, .radio, .cap, .ifl, .nfc, .cus, .upd, .outs]
  | .alarmHoldEnd .. => [.vecs, .time, .counters, .sec, .outs]
  | .sourceReturn .. => [.vecs, .time, .counters, .led, .flt, .sec, .outs]
  | .drbgReseed .. => [.sec, .free]
  | .rngSelfTestEnd .. => [.vecs, .run, .slc, .led, .flt, .sec, .dir, .radio, .outs, .free]
  | .stage .. | .cfgWrite .. => [.flights, .run, .slc, .led, .sec, .upd]
  | .push .. | .schedule .. | .cancel .. | .transportStatus .. => [.flights, .run, .slc, .led, .ifl, .upd, .outs]
  | .offer .. | .need .. | .piece .. | .sched .. | .unsched .. => [.ifl, .upd, .outs]
  | .needTimer .. | .schedRepeat .. => [.vecs, .time, .counters, .ifl, .upd, .outs]
  | .transferAbandon .. => [.flights, .vecs, .run, .slc, .time, .counters, .led, .upd, .outs]
  | .activationCommit .. => [.pwr, .vecs, .time, .counters, .led, .flt, .radio, .ifl, .upd, .outs]
  | .activationLapse .. => [.vecs, .time, .counters, .led, .ifl, .upd, .outs]
  | .handoverShadowReady .. | .handoverTimeout .. => [.pwr, .sys, .vecs, .time, .counters, .led, .cfg, .flt, .upd, .outs, .free]
  | .handoverHoldEnd .. | .hearthCanStatus .. => [.vecs, .time, .counters, .upd, .outs]
  | .trialConfirm .. => [.vecs, .time, .counters, .led, .upd, .outs]
  | .updHearthGo .. | .updHearthRevert .. | .hearthCanFrame .. => [.upd, .outs]
  | .sramEccError .. =>
     [.pwr, .sys, .flights, .vecs, .run, .slc, .time, .counters, .led, .cfg, .flt, .sec, .dir, .radio, .ifl, .nfc, .cus, .upd, .outs, .free]
  | .wakeStuck .. => [.pwr, .vecs, .time, .counters, .led, .flt, .slk, .outs]
  | .wakeUnmask .. | .pmicRecoveryRetry .. => [.pwr, .vecs, .time, .counters, .led, .flt, .outs]
  | .unitTest .. => [.pwr, .flights, .vecs, .run, .slc, .led, .flt, .sec, .radio, .nfc, .outs, .free]
  | .restore .. => [.pwr, .flights, .vecs, .run, .slc, .led, .flt, .sec, .slk, .radio, .nfc, .outs, .free]
  | .driveDrain .. => [.flights, .run, .slc, .led, .cus]
  | .driveAdmit .. => [.flights, .run, .slc, .led, .sec, .cus, .outs, .free]
  | .service .. => [.pwr, .flights, .vecs, .rings, .run, .slc, .led, .outs]
  | .sysLockSetup .. => [.sys]
  | .thermalGovernor .. => [.pwr, .run, .slc, .sec, .free]

/-- The descriptor that a command serves and ends in one go, for the commands that do nothing else for any descriptor. -/
def servesOnly : Instr → Option Nat
  | .nop r | .ping r | .fateInquiry r .. | .writCheck r .. | .writStatus r .. | .timeRead r .. | .furrowRead r .. |
    .trackRead r .. | .nearRead r .. | .zoneRead r .. | .lockStatus r .. | .capRead r .. | .chainRead r .. |
    .cusRead r .. | .cusScan r .. | .cusVerify r | .cusStatus r .. | .lookup r .. | .grant r .. | .grantCommit r .. |
    .dirStatus r .. | .keyRoot r | .keyDerive r .. | .keyImport r .. | .keyExport r .. | .keyClose r | .keyInfo r .. |
    .keyPublic r .. | .encrypt r .. | .decrypt r .. | .mac r .. | .macVerify r .. | .sealCcm r .. | .openCcm r .. |
    .pkeVerify r .. | .pointCheck r .. | .hash r .. | .random r .. | .rngStatus r .. | .stage r .. | .cfgWrite r .. |
    .updStatus r .. | .faultRead r .. => some r
  | _ => none

/-! ### Ifeven ports -/

/-- A sequenced frame of type `ty` arrives on port `p` in order, for this part, with nothing held behind it (R409, R418). -/
structure InOrder (ty : Nat) (p : Fin 4) (payload : Bytes) (s : State) : Prop where
  shape : Shaped s
  fits : frameFits ty payload = true
  heard : hears s p = true
  coupled : isCoupled (getPort s p).link = true
  cpl : (linkHead payload).cpl = (getPort s p).cpl
  numbered : (linkHead payload).hseq ≠ 0
  next : (linkHead payload).hseq = (getPort s p).rxNext
  held : (getPort s p).held = []
  here : (linkHead payload).final = ownPos s

/-! ### Descriptors -/

/-- Descriptor `r`, an operation `opc` accepted as `f`, can begin now: the part works, no earlier descriptor of its ring is
without a fate (R36), its queue's turn is its own (R164), and its FENCE, if it has one, holds (R114). -/
structure Ready (opc r : Nat) (f : Flight) (s : State) : Prop where
  here : getFlight s r = some f
  work : working s = true
  opc : dOpc f.raw = opc
  fresh : f.begun = false
  noFate : f.fate = none
  first : earlierFated s r f = true
  turn : queueTurn s r f = true
  fence : fenceHolds s r f = true

/-- The state in which the effect of descriptor `r` is found, once the descriptor has begun. -/
def started (r : Nat) (s : State) : State := modFlight r (fun x => { x with begun := true }) (noteV s)

/-- Descriptor `r`, an operation `opc` accepted as `f`, has begun and has no fate. -/
structure Running (opc r : Nat) (f : Flight) (s : State) : Prop where
  here : getFlight s r = some f
  work : working s = true
  opc : dOpc f.raw = opc
  begun : f.begun = true
  noFate : f.fate = none

/-- Descriptor `r` has its fate: FATE, RESULT[55:0] and DETAIL. -/
def Ended (r code result detail : Nat) (s : State) : Prop :=
  ∃ f fr, getFlight s r = some f ∧ f.fate = some fr ∧ fr.code = code ∧ fr.result = result ∧ fr.detail = detail

/-- Descriptor `r` is DONE. -/
def Done (r result : Nat) (s : State) : Prop := Ended r fDone result 0 s

end Sys2Proof.Machine
end

