-- ==== Sys2Proof/Certificates/Slice0/Obligations.lean ====
section
/-! DEFINITION. The statements for the provers. Each is about one group of commands, or about every command. A statement of a group
says of each command it names when the command is answered with a next state and what that state holds; what the command leaves
alone is said for all of them at once, by `CommandsStayInTheirParts` and by the statements about fellow descriptors and units. -/

open Sys2Proof Sys2Proof.Machine

/-- A step takes the command at the front of the queue and answers what `exec` answers for it with the queue's rest. -/
def Obligations.StepRunsFrontCommand : Prop :=
  ∀ (c : Instr) (s : State), step { s with pending := c :: s.pending } = exec c s

/-- On an empty queue a step lets 1 µs pass, which is the model's own choice (log entry 1): no descriptor, no ring, no ledger record and
nothing of the start lock changes. Where a Dormant entry has begun, the wake slice has power and no command has come since, its step 3 is taken then (R89; the
moment is the model's own choice, log entry 83): the part is in Dormant with every enable low. -/
def Obligations.EmptyQueueLetsTimePass : Prop :=
  (∀ s : State, s.pending = [] → s.pwr.dorming = none → ∃ t, step s = .next t ∧ t.pending = [] ∧ t.clk.ns = s.clk.ns + 1000 ∧
    t.host.flights = s.host.flights ∧ t.host.rings = s.host.rings ∧ t.led = s.led ∧ t.slk = s.slk ∧ t.sec = s.sec ∧ t.upd = s.upd) ∧
  (∀ s : State, s.pending = [] → s.pwr.dorming.isSome = true → s.pwr.mode = .parked → s.pwr.start = .settled →
    sliceUp s = true → ∃ t, step s = .next t ∧ t.pending = [] ∧ t.clk.ns = s.clk.ns + 1000 ∧ t.pwr.mode = .dormant ∧ t.pwr.dorming = none ∧
    t.radio.nearUsable = false ∧ ∀ i, t.pwr.en.getLsbD i = false)

/-- What reset leaves (R25, R85, R128, R186, R241, R304, R486, R540, R541): the latch powers up LOCKED, no ring is enabled, the Near list
and the vault are empty, no descriptor is accepted, both slots are EMPTY, the journal is blank, the queue is empty, and every numbered
unit of the part is there. The values the spec does not give are those of log entry 3. -/
def Obligations.ResetState : Prop :=
  latch State.reset = .locked ∧ State.reset.slk.cause = 0x0D ∧ State.reset.host.rings = [] ∧ State.reset.host.flights = [] ∧
  State.reset.radio.near = [] ∧ vaultOk State.reset = false ∧ State.reset.upd.a.st = .empty ∧ State.reset.upd.b.st = .empty ∧
  State.reset.upd.seq = 0 ∧ State.reset.pending = [] ∧ State.reset.pwr.vaon = false ∧
  State.reset.sys.ready = false ∧ Shaped State.reset

/-- Supplies and rails (R25, R82, R84, R95, R99, R100): VAON good starts the start-up sequence from step 1 with PMIC_EN0 high and
its cause in SYS_RESET_CAUSE; a VAON brown-out ends it with every enable low; the AON island follows VAON and loses its state only
without it; a rail that leaves its range loses its good bit and gains its fault bit; and an enable group that is good has its rails
good, while one that is not good in time has them in PWR_RAIL_FAULT and falls with the groups after it, in a resume from Parked with
PMIC_EN1 too. -/
def Obligations.SuppliesAndRails : Prop :=
  (∀ s : State, s.pwr.vaon = false → ∃ t, exec .vaonGood s = .next t ∧ t.pwr.vaon = true ∧ t.pwr.mode = .cab ∧
    t.pwr.en.getLsbD 0 = true ∧ t.sys.ready = false ∧ t.sys.resetCause = 1 ∧
    t.pwr.modeStart = (if s.pwr.aonLost then 5 else 1)) ∧
  (∀ s : State, s.pwr.vaon = true → ∃ t, exec .vaonBrownOut s = .next t ∧ t.pwr.vaon = false ∧ t.pwr.start = .off ∧
    (∀ i, t.pwr.en.getLsbD i = false) ∧ t.sys.ready = false) ∧
  (∀ s : State, exec .aonSupplyChangeover s = .next { s with pwr := { s.pwr with onVkeep := !s.pwr.vaon } }) ∧
  (∀ s : State, s.pwr.vaon = false → ∃ t, exec .aonLoss s = .next t ∧ t.pwr.aonLost = true ∧ t.slk.code = 0x3C ∧
    t.slk.comp = 0xC3 ∧ t.slk.cause = 0x0D ∧ t.sec.starter = [] ∧ t.clk.wallSet = false ∧
    t.clk.ns = 1000 * (s.clk.ledgerUs + 1000000) ∧ t.led = s.led ∧ t.upd = s.upd) ∧
  (∀ (mv : BitVec 12) (s : State), s.pwr.vaon = true → ∃ t, exec (.vkeepLow mv) s = .next t ∧
    t.pwr = { s.pwr with vkeepMv := mv, vkeepLow := decide (mv.toNat < 2200) }) ∧
  (∀ (vsram : Bool) (s : State), s.pwr.vaon = true → s.pwr.en.getLsbD 1 = true → ∃ t,
    exec (.vcoreBrownOut vsram) s = .next t ∧ t.sys.resetCause = 7 ∧ t.sys.ready = false ∧ t.pwr.mode = .cab ∧
    t.pwr.railFault.getLsbD (3 + ofBool vsram) = true ∧ t.pwr.railGood.getLsbD (3 + ofBool vsram) = false) ∧
  (∀ (vddq : Bool) (s : State), s.pwr.railGood.getLsbD (7 + ofBool vddq) = true → ∃ t,
    exec (.dramRailFault vddq) s = .next t ∧ t.dir = { s.dir with st := 0, pct := 0, table := [] } ∧
    t.pwr = { s.pwr with railGood := s.pwr.railGood &&& ~~~ BitVec.ofNat 9 (2 ^ (7 + ofBool vddq)),
                         railFault := setBits s.pwr.railFault (7 + ofBool vddq) }) ∧
  (∀ (rail : PortRail) (n : Nat) (s : State), n = (match rail with | .vio33 => 0 | .vrf => 1 | .vlfdrv => 2) →
    s.pwr.railGood.getLsbD n = true → exec (.portRailFault rail) s = .next (portsLost rail (railLost n s)) ∧
    (railLost n s).pwr = { s.pwr with railGood := s.pwr.railGood &&& ~~~ BitVec.ofNat 9 (2 ^ n),
                                      railFault := setBits s.pwr.railFault n }) ∧
  (∀ (serdes : Bool) (s : State), s.pwr.railGood.getLsbD (5 + ofBool serdes) = true → ∃ t,
    exec (.linkRailFault serdes) s = .next t ∧ linkUp t = false ∧
    t.pwr = { s.pwr with railGood := s.pwr.railGood &&& ~~~ BitVec.ofNat 9 (2 ^ (5 + ofBool serdes)),
                         railFault := setBits s.pwr.railFault (5 + ofBool serdes) }) ∧
  (∀ (rail : Fin 9) (s : State), s.pwr.en.getLsbD (railGroup rail.val) = true → s.pwr.start = .settled →
    s.pwr.railGood.getLsbD rail.val = false → ∃ t, exec (.railGoodReturn rail) s = .next t ∧
    t.pwr = { s.pwr with railGood := setBits s.pwr.railGood rail.val }) ∧
  (∀ (g : Fin 4) (s : State), s.pwr.en.getLsbD g.val = true → groupGood s g.val = false → ∃ t,
    exec (.enableGroupGood g) s = .next t ∧ groupGood t g.val = true) ∧
  (∀ (g : Fin 4) (s : State), s.pwr.en.getLsbD g.val = true → groupGood s g.val = false → ∃ t,
    exec (.enableGroupTimeout g) s = .next t ∧ t.pwr.railFault = s.pwr.railFault ||| groupRails g.val ∧
    (s.pwr.waking = true → t.pwr.mode = .dormant) ∧
    ∀ i, t.pwr.en.getLsbD i = (s.pwr.en.getLsbD i && decide (i < fallsFrom s g.val)))

/-- Start-up, resets and checkpoints (R22, R24, R95, R132, R138, R455, R542, R606): the fuse load ends with the slot Hearth ROM
chose, or in Hearth mode; the configuration load puts the valid records in force; replay with a good half releases the part in Cab,
or after AON loss without an asserted IGN pin ends in Parked, and with none leads to Hearth mode; a warm reset begins the start-up
again and a watchdog expiry leads to Hearth mode, each with its cause; and a checkpoint records the TR_CI of every ring and the pair
that wrote it. -/
def Obligations.StartUpAndReset : Prop :=
  (∀ (b : Bool) (s u : State), s.pwr.start = .fusing → groupGood s 2 = true → (s.pwr.aOut && s.pwr.bOut) = false →
    bootChoice s = (some b, u) → exec .fuseLoadEnd s =
      .next { u with pwr := { u.pwr with start := .config }, upd := { u.upd with running := some b } }) ∧
  (∀ s u : State, s.pwr.start = .fusing → groupGood s 2 = true → (s.pwr.aOut && s.pwr.bOut) = false →
    bootChoice s = (none, u) → ∃ t, exec .fuseLoadEnd s = .next t ∧ t.pwr.mode = .hearth ∧ t.pwr.start = .settled ∧
      t.flt.hearthCause = 2 ∧ t.upd.running = none) ∧
  (∀ (bad : List UnitName) (s : State), s.pwr.start = .config → groupGood s 3 = true → ∃ t,
    exec (.configurationLoad bad) s = .next t ∧ t.pwr.start = .replay ∧ t.cfg = loadCfg (validRecs s) ∧
      t.sys.trailer = loadRole (validRecs s)) ∧
  (∀ (a b : Bool) (s : State), s.pwr.start = .replay → ((a && !s.led.aFailed) || (b && !s.led.bFailed)) = true →
    (s.pwr.aonLost && !ignAsserted s) = false → ∃ t, exec (.ledgerReplay a b) s = .next t ∧ t.sys.ready = true ∧
      t.pwr.mode = .cab ∧ t.pwr.start = .settled ∧ t.pwr.aonLost = false) ∧
  (∀ (a b : Bool) (s : State), s.pwr.start = .replay → ((a && !s.led.aFailed) || (b && !s.led.bFailed)) = true →
    (s.pwr.aonLost && !ignAsserted s) = true → ∃ t, exec (.ledgerReplay a b) s = .next t ∧ t.sys.ready = false ∧
      t.pwr.mode = .parked ∧ t.pwr.start = .settled ∧ t.pwr.aonLost = false) ∧
  (∀ (a b : Bool) (s : State), s.pwr.start = .replay → ((a && !s.led.aFailed) || (b && !s.led.bFailed)) = false → ∃ t,
    exec (.ledgerReplay a b) s = .next t ∧ t.pwr.mode = .hearth ∧ t.flt.hearthCause = 3) ∧
  (∀ (flr : Bool) (s : State), linkUp s = true → s.sys.ready = true → s.pwr.mode ≠ .hearth → ∃ t,
    exec (.warmReset flr) s = .next t ∧ t.sys.ready = false ∧ t.sys.resetCause = (if flr then 4 else 3) ∧
      t.pwr.mode = .cab ∧ t.pwr.railGood = s.pwr.railGood) ∧
  (∀ s : State, s.sys.ready = true → ∃ t, exec .watchdogExpiry s = .next t ∧ t.pwr.mode = .hearth ∧
    t.flt.hearthCause = 1 ∧ t.sys.resetCause = 6 ∧ t.sys.ready = false) ∧
  (∀ s : State, working s = true → canLog .checkpoint s = true → ∃ t, exec .checkpoint s = .next t ∧
    t.host.rings = s.host.rings.map (fun e => (e.1, { e.2 with trCiRec := e.2.trCi })) ∧
    t.host.flights = s.host.flights ∧ t.pwr.ckptB = s.pwr.activeB ∧ t.led.lsn = s.led.lsn + 1)

/-- Parked entry and the modes of an awake part (R85–R87, R444, R590, R592): PWR_PARK_REQ begins a Parked entry in Cab and has no effect
in another mode, PWR_PARK_CANCEL gives one up that drains, and 600 s without a doorbell begin one; an entry that has drained goes on to
shut the drives down; with the drives down the part is in Parked with no enable but PMIC_EN0 high; Drive ends after its quiet seconds,
Service at the end of its duration, a debug unlock at the end of DURATION_S. -/
def Obligations.ParkedEntryAndModes : Prop :=
  (∀ (func : Fin 64) (s : State), pfRegs s func = true → s.pwr.mode = .cab → s.sys.ready = true → s.pwr.parking = .none →
    s.flt.pmicStuck = false → exec (.pwrParkReq func) s = .next { s with pwr := { s.pwr with parking := .draining, cabAfter := false } }) ∧
  (∀ (func : Fin 64) (s : State), s.pwr.mode ≠ .cab → exec (.pwrParkReq func) s = .next s) ∧
  (∀ (func : Fin 64) (s : State), pfRegs s func = true → s.pwr.parking = .draining → ∃ t, exec (.pwrParkCancel func) s = .next t ∧
    t.pwr = { s.pwr with parking := .none } ∧ t.host.flights = s.host.flights) ∧
  (∀ s : State, s.sys.ready = true → s.pwr.vaon = true → s.pwr.mode = .cab → s.pwr.parking = .none → ignAsserted s = false →
    s.flt.pmicStuck = false → ∃ t, exec .parkedEntryIdle s = .next t ∧
      t.pwr = { s.pwr with parking := .draining, cabAfter := false } ∧
      t.clk.ns = max s.clk.ns (1000 * (s.pwr.lastDoorbell + 600000000))) ∧
  (∀ s : State, s.pwr.parking = .draining → drained s = true → ∃ t, exec .parkedEntryDrained s = .next t ∧
    t.pwr.parking = .shutting ∧ t.pwr.mode = s.pwr.mode ∧ t.host.flights = s.host.flights) ∧
  (∀ (ok : BitVec 4) (s : State), s.pwr.parking = .shutting → s.pwr.cabAfter = false → ∃ t,
    exec (.driveShutdownComplete ok) s = .next t ∧ t.pwr.mode = .parked ∧ t.pwr.parking = .none ∧ t.pwr.dormHours = 0 ∧
    t.sys.ready = false ∧ t.dir.st = 0 ∧ (∀ i, t.pwr.en.getLsbD i = (s.pwr.en.getLsbD i && decide (i < 1)))) ∧
  (∀ (q : Nat) (s : State), s.pwr.mode = .drive → s.pwr.driveQuiet = some q → driveStill (elapseTo q s) = true → ∃ t,
    exec .driveExit s = .next t ∧ t.pwr.mode = .cab ∧ t.pwr.driveQuiet = none ∧ t.clk = (elapseTo q s).clk ∧
    t.pwr.pins = s.pwr.pins.map (fun x => if x.role = 2 then { x with since := monoUs t } else x)) ∧
  (∀ (q : Nat) (s : State), s.pwr.mode = .service → s.pwr.serviceEnd = some q → serviceWork s = false → s.flt.dbgLevel ≠ 2 →
    ∃ t, exec .serviceEnd s = .next t ∧ t.pwr.serviceEnd = none ∧ (t.pwr.mode = .cab ∨ t.pwr.mode = .drive)) ∧
  (∀ s : State, s.flt.dbgLevel ≠ 0 → ∃ t, exec .debugDurationEnd s = .next t ∧
    t.flt = { s.flt with dbgLevel := 0, dbgEnd := 0 } ∧ t.clk = (elapseTo s.flt.dbgEnd s).clk)

/-- Wake and dormancy (R26, R88–R93, R96, R102, R605): a WAKE pin's crossing starts its deglitch, a wake event in Dormant leads to Parked
with a 60 s window and PMIC_EN0 high, the window's end without a token, the last dormancy hour and a low battery in Parked begin a
Dormant entry with its cause, PWR_ALARM sets the alarm's time and the alarm sets its bit in PWR_WAKE_CAUSE, a door's level is taken,
and the wake slice powers down after its last use. -/
def Obligations.WakeAndDormancy : Prop :=
  (∀ (pin : Fin 4) (above : Bool) (s : State), portUp s pWake pin.val = true → (getPin s pin.val).role ≠ 3 →
    (getPin s pin.val).role ≠ 2 → (getPin s pin.val).above ≠ above → ∃ t, exec (.wakePinCrossing pin above) s = .next t ∧
    t.pwr = { s.pwr with pins := modAt s.pwr.pins pin.val (fun y =>
                           { y with above := above, since := monoUs s, deglitch := y.role != 2 }) }) ∧
  (∀ (pin : Fin 4) (s : State), portUp s pWake pin.val = true → (getPin s pin.val).deglitch = true →
    (getPin s pin.val).role = 0 → asserted (getPin s pin.val) = true → (getPin s pin.val).masked = false →
    s.pwr.vaon = true → s.pwr.mode = .dormant → ∃ t, exec (.wakeEvent pin) s = .next t ∧ t.pwr.mode = .parked ∧
    t.pwr.windowToken = false ∧ t.pwr.window = some (monoUs t + 60000000) ∧
    t.pwr.wakeCause = setBits s.pwr.wakeCause pin.val ∧ t.pwr.en.getLsbD 0 = true) ∧
  (∀ s : State, s.pwr.mode = .parked → s.pwr.start = .settled → groupGood s 0 = true → groupGood s 1 = true →
    s.radio.nearUsable = false → ∃ t,
    exec .nearListRestored s = .next t ∧ t.radio.nearUsable = true ∧
    t.radio.near = latestTcnts s.radio.tcnts (if vaultOk s then s.radio.near else [])) ∧
  (∀ (q : Nat) (s : State), s.pwr.window = some q → s.pwr.mode = .parked → s.pwr.start = .settled → s.pwr.vaon = true →
    s.flt.pmicStuck = false → s.pwr.dorming = none → ∃ t, exec .wakeWindowEnd s = .next t ∧ t.pwr.window = none ∧
    t.pwr.mode = .parked ∧ t.pwr.dorming = (if s.pwr.windowToken then none else some 3)) ∧
  (∀ (d : Fin 8) (high : Bool) (s : State), portUp s pDsense d.val = true → s.pwr.dsense.getLsbD d.val ≠ high →
    doorTrigger d.val high s = false → ∃ t, exec (.dsenseChange d high) s = .next t ∧
    (∀ i, t.pwr.dsense.getLsbD i = if i = d.val then high else s.pwr.dsense.getLsbD i)) ∧
  (∀ s : State, s.pwr.mode = .parked → s.pwr.start = .settled → s.pwr.vaon = true → s.pwr.dormHours + 1 < 24 * s.pwr.dormDays →
    ∃ t, exec .dormancyHour s = .next t ∧
    t.pwr = { s.pwr with dormHours := s.pwr.dormHours + 1, hourAt := s.pwr.hourAt + 3600000000 }) ∧
  (∀ s : State, s.pwr.mode = .parked → s.pwr.start = .settled → s.pwr.vaon = true → s.flt.pmicStuck = false →
    s.pwr.dorming = none → 24 * s.pwr.dormDays ≤ s.pwr.dormHours + 1 → ∃ t, exec .dormancyHour s = .next t ∧
    t.pwr.dorming = some 1 ∧ t.radio.poll = none ∧ t.pwr.wakeCause = s.pwr.wakeCause ||| 0x400) ∧
  (∀ s : State, lowPins s ≠ [] → s.flt.pmicStuck = false → s.pwr.mode = .parked → s.pwr.start = .settled → s.pwr.vaon = true →
    s.pwr.dorming = none → ∃ t, exec .lowBattery s = .next t ∧ t.pwr.dorming = some 2 ∧ t.radio.poll = none ∧
    t.pwr.wakeCause = s.pwr.wakeCause ||| 0x200) ∧
  (∀ (q : Nat) (s : State), s.pwr.alarmAt = some q → s.pwr.vaon = true → s.pwr.mode ≠ .dormant → ∃ t,
    exec .rtcAlarm s = .next t ∧ t.pwr = { s.pwr with alarmAt := none, wakeCause := setBits s.pwr.wakeCause 5,
                                                      dorming := if s.pwr.mode = .parked then none else s.pwr.dorming } ∧
    t.clk = (elapseTo q s).clk) ∧
  (∀ (v : BitVec 32) (s : State), regsUp s = true → s.sys.lockSetup = false → exec (.pwrAlarmS 0 v) s =
    .next { s with pwr := { s.pwr with alarmAt := if v = 0 then none else some (monoUs s + 1000000 * v.toNat) } }) ∧
  (∀ (q : Nat) (s : State), s.pwr.slice = some q → s.pwr.mode = .parked → s.pwr.start = .settled →
    s.pwr.dorming = none → ∃ t, exec .wakeSlicePowerDown s = .next t ∧ t.pwr.slice = none ∧
    (∀ i, t.pwr.en.getLsbD i = (s.pwr.en.getLsbD i && !decide (i = 1))))

/-- The steward pairs, SRAM and stuck lines (R23, R572, R576, R581, R582, R625): on a takeover the shadow becomes the active pair and the
takeover is counted; a pair that fails its self-test is out of service and one that passes is as it was; the shadow's online test counts
its slices and ends DONE with the 64th; a corrected SRAM error that calls for no repair is only counted, an uncorrectable one brings in
a spare row; a stuck WAKE pin is masked and unmasked again, a stuck COEX_GNT is noted and no request changes, a stuck PMIC bus is noted
and freed by a retry that finds it free, a stuck PMIC_IRQ_N is noted and returns; and the thermal governor moves to the level its
thresholds give. -/
def Obligations.PairsAndLines : Prop :=
  (∀ (cause : TakeoverCause) (s : State), s.sys.ready = true → s.flt.shadowOk = true → s.upd.handover = .none →
    s.upd.trialSince = none → ∃ t, exec (.stewardTakeover cause) s = .next t ∧ t.pwr.activeB = !s.pwr.activeB ∧
    t.flt.shadowOk = false ∧ t.flt.takeovers = s.flt.takeovers ++ [(s.pwr.activeB, monoUs s)]) ∧
  (∀ (pass b : Bool) (s : State), s.pwr.selfTest = some b → ∃ t, exec (.pairSelfTestEnd pass) s = .next t ∧
    t.pwr.selfTest = none ∧ pairOut t b = (if pass then pairOut s b else true)) ∧
  (∀ s : State, s.flt.testBusy = true → s.flt.testType = uPair → s.flt.testOp.isSome = true → s.flt.testSlices + 1 ≠ 64 →
    exec (.shadowTestSlice true) s = .next { s with flt := { s.flt with testSlices := s.flt.testSlices + 1 } }) ∧
  (∀ (r : Nat) (f : Flight) (s : State), s.flt.testBusy = true → s.flt.testType = uPair → s.flt.testOp = some r →
    s.flt.testSlices + 1 = 64 → getFlight s r = some f → f.fate = none → ∃ t, exec (.shadowTestSlice true) s = .next t ∧
    Done r 0 t ∧ t.flt.testBusy = false ∧ t.flt.testOp = none) ∧
  (∀ (bank row col : Nat) (s u : State), bank < 64 → unitSt s uSram bank = .up →
    u = modFlt (fun b => { b with sramErrs := b.sramErrs ++ [{ at_ := monoUs s, bank := bank, row := row, col := col }] }) s →
    rowDue u bank row false = false → colDue u bank col = false → ∃ t,
    exec (.sramEccError bank row col false .none) s = .next t ∧ t.flt.sramErrs = u.flt.sramErrs ∧
    t.flt.rowsUsed = s.flt.rowsUsed ∧ t.flt.colsUsed = s.flt.colsUsed) ∧
  (∀ (bank row col : Nat) (s : State), bank < 64 → unitSt s uSram bank = .up → tabGet 0 s.flt.rowsUsed bank < 8 → ∃ t,
    exec (.sramEccError bank row col true .none) s = .next t ∧
    tabGet 0 t.flt.rowsUsed bank = tabGet 0 s.flt.rowsUsed bank + 1) ∧
  (∀ (pin : Fin 4) (s : State), portUp s pWake pin.val = true → asserted (getPin s pin.val) = true →
    (getPin s pin.val).masked = false → (getPin s pin.val).role = 0 → s.pwr.vaon = true → ∃ t,
    exec (.wakeStuck pin) s = .next t ∧
    t.pwr = { s.pwr with pins := modAt s.pwr.pins pin.val (fun y => { y with masked := true }) }) ∧
  (∀ (pin : Fin 4) (s : State), (getPin s pin.val).masked = true → asserted (getPin s pin.val) = false → ∃ t,
    exec (.wakeUnmask pin) s = .next t ∧
    t.pwr = { s.pwr with pins := modAt s.pwr.pins pin.val (fun y => { y with masked := false }) }) ∧
  (∀ (m : Fin 2) (s : State), portUp s pCoex m = true → s.radio.coexGnt.getLsbD m = true → s.radio.coexReq.getLsbD m = false →
    s.flt.coexStuck.getLsbD m = false → ∃ t, exec (.coexGntStuck m) s = .next t ∧
    t.flt.coexStuck = setBits s.flt.coexStuck m ∧ t.radio = s.radio) ∧
  (∀ s : State, s.pwr.vaon = true → pmicKnown s = true → s.flt.pmicStuck = true → ∃ t, exec (.pmicRecoveryRetry true) s = .next t ∧
    t.flt.pmicStuck = false ∧ t.pwr = s.pwr) ∧
  (∀ s : State, s.pwr.vaon = true → pmicKnown s = true → s.flt.pmicStuck = false → ∃ t, exec (.pmicRecoveryRetry false) s = .next t ∧
    t.flt.pmicStuck = true ∧ t.pwr = { s.pwr with pmicFault := true }) ∧
  (∀ (low : Bool) (s : State), s.pwr.vaon = true → s.flt.pmicIrqStuck ≠ low → ∃ t, exec (.pmicIrqStuck low) s = .next t ∧
    t.flt.pmicIrqStuck = low) ∧
  (∀ (temp : Int) (s : State), s.sys.ready = true → ∃ t, exec (.thermalGovernor temp) s = .next t ∧
    t.pwr.govLevel = nextLevel s.pwr.govLevel temp)

/-- Doorbells, completions and ring states (R108, R111, R119, R128–R131, R134, R145): a valid HR_PI or TR_CI is taken and an invalid one stops
the ring; the next completion in order goes to its slot; a write-back block carries the consumer index; a failed read and a
refused write stop the ring; an enable starts a DISABLED ring at index 0 or leaves its error; a disable drains it, and a drained
ring is DISABLED. -/
def Obligations.RingCommands : Prop :=
  (∀ (func : Fin 64) (ten : Fin 1024) (j : Fin 64) (v : BitVec 32) (g : Nat) (s : State),
    doorbellRing s func ten j = some g → s.pwr.parking = .none → (getRing s g).st = .running → ∃ t,
    exec (.doorbellHrPi func ten j v) s = .next t ∧
    (hrPiValid (getRing s g) v = true → getRing t g = { getRing s g with hrPi := v }) ∧
    (hrPiValid (getRing s g) v = false → (getRing t g).st = .stopped ∧ (getRing t g).err = 0x01 ∧ (getRing t g).hrPi = (getRing s g).hrPi)) ∧
  (∀ (func : Fin 64) (ten : Fin 1024) (j : Fin 64) (v : BitVec 32) (g : Nat) (s : State),
    doorbellRing s func ten j = some g → s.pwr.parking = .none → (getRing s g).st ≠ .disabled → ∃ t,
    exec (.doorbellTrCi func ten j v) s = .next t ∧
    (trCiValid (getRing s g) v = true → (getRing t g).trCi = v ∧ (getRing t g).st = (getRing s g).st) ∧
    (trCiValid (getRing s g) v = false → (getRing t g).err = 0x02 ∧ (getRing t g).trCi = (getRing s g).trCi ∧
      ((getRing s g).st = .running → (getRing t g).st = .stopped))) ∧
  (∀ (g : Fin 4096) (r : Nat) (f : Flight) (fr : FateRec) (s : State), canPost s g = true →
    (getRing s g).trWrite ≠ (getRing s g).trPi → slotOwner s g (getRing s g).trWrite = some (r, f) → f.fate = some fr →
    moverTurn s g (r, f) = true → ∃ t,
    exec (.completionWrite g) s = .next t ∧ (getRing t g).trWrite = (getRing s g).trWrite + 1 ∧
    ∃ m, t.outs = s.outs ++ [
      .hostWrite (getRing s g).func ((getRing s g).setup.trBase.toNat + 32 * ((getRing s g).trWrite.toNat % trSize (getRing s g)))
        (completionBytes f fr f.posted !phaseOf (getRing s g) (getRing s g).trWrite),
      .hostWrite (getRing s g).func ((getRing s g).setup.trBase.toNat + 32 * ((getRing s g).trWrite.toNat % trSize (getRing s g)) + 18)
        (slice (completionBytes f fr f.posted (phaseOf (getRing s g) (getRing s g).trWrite)) 18 2)] ++ m) ∧
  (∀ (g : Fin 4096) (s : State), released s = true → (getRing s g).wbDue.isSome = true → (getRing s g).mute = false → ∃ t,
    exec (.consumerIndexWriteback g) s = .next t ∧
    t.outs = s.outs ++ [Out.hostWrite (getRing s g).func (getRing s g).inForce.ciwb.toNat (writebackBytes (getRing s g))] ∧
    getRing t g = { getRing s g with wbDue := none }) ∧
  (∀ (g : Fin 4096) (s : State), released s = true → (getRing s g).st = .running → (getRing s g).hrPi ≠ (getRing s g).hrCi → ∃ t,
    exec (.descriptorReadFailed g) s = .next t ∧ (getRing t g).st = .stopped ∧ (getRing t g).err = 0x03) ∧
  (∀ (g : Fin 4096) (wb : Bool) (s : State), canPost s g = true → ∃ t, exec (.tailraceWriteRefused g wb) s = .next t ∧
    (getRing t g).mute = true ∧ (getRing t g).err = (if wb then 0x05 else 0x04) ∧
    (getRing t g).st = (if (getRing s g).st = .running then .stopped else (getRing s g).st)) ∧
  (∀ (func : Fin 64) (g : Nat) (s : State), selectedRing s func = some g → released s = true → (getRing s g).st = .disabled →
    ∃ t, exec (.ringEnable func) s = .next t ∧
    (enableError s func (getFunc s func).selTen.toNat (getRing s g).setup = 0 → canLog (.ringSet g) s = true →
      getRing t g = { enabledRing func (getFunc s func).selTen.toNat (monoUs s) (getRing s g) with ledSt := .running }) ∧
    (enableError s func (getFunc s func).selTen.toNat (getRing s g).setup ≠ 0 →
      getRing t g = { getRing s g with err := enableError s func (getFunc s func).selTen.toNat (getRing s g).setup })) ∧
  (∀ (func : Fin 64) (g : Nat) (s : State), selectedRing s func = some g → released s = true →
    ((getRing s g).st = .running ∨ (getRing s g).st = .stopped) → ∃ t, exec (.ringDisable func) s = .next t ∧
    (getRing t g).st = .draining ∧ (canLog (.ringSet g) s = true → (getRing t g).trCiRec = (getRing s g).trCi) ∧ t.host.flights = s.host.flights) ∧
  (∀ (g : Fin 4096) (s : State), (getRing s g).st = .draining → ringFated s g = true →
    (getRing s g).trWrite = (getRing s g).trPi → ∃ t, exec (.ringDrained g) s = .next t ∧ (getRing t g).st = .disabled ∧
    t.host.flights = s.host.flights) ∧
  (∀ (g : Fin 4096) (q : Nat) (s : State), (getRing s g).modAt = some q → (getRing s g).armed = true → ∃ t,
    exec (.moderationTimer g) s = .next t ∧ (getRing t g).armed = false ∧ (getRing t g).modPend = 0 ∧ (getRing t g).modAt = none ∧
    t.clk.ns = (elapseTo q s).clk.ns)

/-- The sluice and the SYS class (R32, R114, R122, R124–R127, R142, R143, R161): the slot chosen is accepted with the next acceptance
number, stamped with its time, policy epoch and LSN, and a descriptor that fails a check has its fate at once; a class bound ends
an operation in flight; NOP, PING and FATE_INQUIRY are DONE with the result the class gives them. -/
def Obligations.SluiceAndSysClass : Prop :=
  (∀ (heads : List HeadRead) (t j : Nat) (raw : BitVec 512) (s u : State), admitting s = true → u = takeHeads heads s →
    choose (candidates u) = some (t, j, raw) → ∃ w, exec (.slotConsume heads) s = .next w ∧
    (∃ f, getFlight w s.host.flights.length = some f ∧ f.raw = raw ∧ f.ten = t ∧ f.ring = (getTen s t).ringBase + j ∧
      f.lsn = s.led.lsn + 1 ∧ f.epochAdm = s.slc.epoch ∧ f.tAdm = monoUs s) ∧
    (seqVerdict u ((getTen s t).ringBase + j) (dSeq raw) = 1 → Ended s.host.flights.length fMalformed 0 0x05 w) ∧
    (seqVerdict u ((getTen s t).ringBase + j) (dSeq raw) = 3 → Ended s.host.flights.length fMalformed 0 0x06 w) ∧
    (∀ code detail, seqVerdict u ((getTen s t).ringBase + j) (dSeq raw) = 0 → admitChecks u t raw = .inl (code, detail) →
      Ended s.host.flights.length code 0 detail w) ∧
    (∀ l, seqVerdict u ((getTen s t).ringBase + j) (dSeq raw) = 0 → admitChecks u t raw = .inr l →
      ∃ f, getFlight w s.host.flights.length = some f ∧ f.fate = none ∧ f.ranges = l)) ∧
  (∀ (r n : Nat) (f : Flight) (s : State), getFlight s r = some f → f.fate = none → f.dupOf = none →
    earlierFated s r f = true → working s = true → pastEnd s r = false → boundUs s f = some n → f.begun = false →
    fenceHolds (elapseTo (boundStart s r f + n) s) r f = false → ∃ t, exec (.classBoundExpiry r) s = .next t ∧
    Ended r fNotStarted 0 0x09 t) ∧
  (∀ (r n : Nat) (f : Flight) (s : State), getFlight s r = some f → f.fate = none → f.dupOf = none →
    earlierFated s r f = true → working s = true → pastEnd s r = false → boundUs s f = some n → f.begun = true →
    dOpc f.raw = 0x0A00 → dClass f.raw = 0x0A → ∃ t, exec (.classBoundExpiry r) s = .next t ∧ Ended r fTimeout 0 0 t) ∧
  (∀ (r : Nat) (f : Flight) (s : State), Ready 0x0100 r f s → ∃ t, exec (.nop r) s = .next t ∧ Done r 0 t) ∧
  (∀ (r : Nat) (f : Flight) (s : State), Ready 0x0102 r f s → ∃ t, exec (.ping r) s = .next t ∧ Done r (f.tAdm % 2 ^ 48) t) ∧
  (∀ (r g : Nat) (f x : Flight) (s u : State), Ready 0x0101 r f s → u = started r s →
    fieldLE f.raw 24 2 < f.rules.ringCount → g = f.rules.ringBase + fieldLE f.raw 24 2 →
    (dupWindow u g).find? (fun y => dSeq y.raw == fieldLE f.raw 32 8) = some x → ∃ t, exec (.fateInquiry r true) s = .next t ∧
    Done r (if x.fate.isSome then 1 else 2) t ∧ t.outs = s.outs ++
      [.hostWrite (rangeOf f 0).func (rangeOf f 0).addr (fateRecordBytes x)]) ∧
  (∀ (r g : Nat) (f : Flight) (s u : State), Ready 0x0101 r f s → u = started r s →
    fieldLE f.raw 24 2 < f.rules.ringCount → g = f.rules.ringBase + fieldLE f.raw 24 2 → (∀ x ∈ seqIndexed u g, dSeq x.raw ≠ fieldLE f.raw 32 8) → ∃ t,
    exec (.fateInquiry r true) s = .next t ∧ Ended r fAbsent 0 0x20 t)

/-- Registers, functions and the link (R8, R67, R133, R136, R147, R598, R599, R602–R604): a valid read of BAR0 returns the register and a
4-byte read of a low half latches the high half for the next read; a virtual function does not answer while VF Enable is clear; before release every bit reads 1; a 4-byte write takes effect by
its access code and a misaligned one has none; SYS_RESET with its key is a warm reset and SYS_LOCK_SETUP stays set; unmasking
clears the mask; a function-level reset leaves the function's registers and rings as at reset; HOST_PERST_N low holds the link down. -/
def Obligations.RegistersAndFunctions : Prop :=
  (∀ (func : Fin 64) (off : BitVec 20) (size : BitVec 4) (v : BitVec 64) (s : State), funcUp s func = false →
    exec (.highHalfLatch func off size) s = .next s ∧ exec (.registerWrite func off size v) s = .next s) ∧
  (∀ (func : Fin 64) (off : BitVec 20) (size : BitVec 4) (s : State), regsUp s = true → funcUp s func = true →
    readValid off.toNat size.toNat = true → readsCap s func off.toNat size.toNat = false → ∃ t, exec (.highHalfLatch func off size) s = .next t ∧
    getFunc t func = { getFunc s func with lastRead := BitVec.ofNat 64 (readValue s func off.toNat size.toNat),
                                           high := latchHigh s func off.toNat size.toNat } ∧ t.clk = s.clk) ∧
  (∀ (func : Fin 64) (off : BitVec 20) (size : BitVec 4) (s : State), linkUp s = true → funcUp s func = true → regsUp s = false → ∃ t,
    exec (.highHalfLatch func off size) s = .next t ∧
    (getFunc t func).lastRead = BitVec.ofNat 64 (2 ^ (8 * size.toNat) - 1)) ∧
  (∀ (v : BitVec 64) (s : State), regsUp s = true → blockSeen s 0 0x0 = true →
    exec (.registerWrite 0 0x00028 4 v) s = .next { s with sys := { s.sys with scratch := BitVec.ofNat 32 (bits v.toNat 0 32) } }) ∧
  (∀ (v : BitVec 64) (s : State), regsUp s = true → blockSeen s 0 0xD = true →
    exec (.registerWrite 0 0xD0004 4 v) s = .next { s with flt := { s.flt with events := w1c s.flt.events (bits v.toNat 0 32) } }) ∧
  (∀ (func : Fin 64) (v : BitVec 64) (s : State), s.sys.lockSetup = true → exec (.registerWrite func 0x40000 4 v) s = .next s) ∧
  (∀ (func : Fin 64) (off : BitVec 20) (size : BitVec 4) (v : BitVec 64) (s : State), off.toNat % 4 ≠ 0 →
    exec (.registerWrite func off size v) s = .next s) ∧
  (∀ (v : BitVec 32) (s : State), regsUp s = true → s.sys.ready = true → s.pwr.mode ≠ .hearth → bits v.toNat 0 8 = 0xA5 → ∃ t,
    exec (.sysReset 0 v) s = .next t ∧ t.sys.ready = false ∧ t.sys.resetCause = 5 ∧ t.pwr.mode = .cab ∧
    t.sys.scratch = s.sys.scratch ∧ t.sys.lockSetup = s.sys.lockSetup) ∧
  (∀ (func : Fin 64) (v : BitVec 32) (s : State), bits v.toNat 0 8 ≠ 0xA5 → exec (.sysReset func v) s = .next s) ∧
  (∀ (v : BitVec 32) (s : State), regsUp s = true → v.getLsbD 0 = true →
    exec (.sysLockSetup 0 v) s = .next { s with sys := { s.sys with lockSetup := true } }) ∧
  (∀ (func : Fin 64) (v : Fin 2048) (s : State), linkUp s = true → funcUp s func = true → v.val < vecsOf s func → ∃ t,
    exec (.msixUnmask func (.vector v)) s = .next t ∧ (getVec t func v).masked = false ∧
    ((getFunc s func).msixEn = true → (getFunc s func).fnMask = false → (getVec t func v).pending = false)) ∧
  (∀ (func : Fin 64) (s : State), linkUp s = true → funcUp s func = true → vecsOf s func ≠ 0 → ∃ t u, exec (.msixUnmask func .function) s = .next t ∧
    exec (.msixUnmask func .enable) s = .next u ∧ (getFunc t func).fnMask = false ∧ (getFunc u func).msixEn = true) ∧
  (∀ (func : Fin 64) (s : State), func.val ≠ 0 → funcUp s func = true → s.sys.ready = true → ∃ t,
    exec (.vfFunctionLevelReset func) s = .next t ∧ getFunc t func = {} ∧ (∀ v : Fin 2048, getVec t func v = {}) ∧
    (∀ ten j g, (getTen s ten).func = func.val → ringOf s ten j = some g →
      (getRing t g).st = .disabled ∧ (getRing t g).mute = true)) ∧
  (∀ (func : Fin 64) (s : State), func.val ≠ 0 → s.sys.ready = true → ∃ t, exec .vfEnableClear s = .next t ∧
    getFunc t func = {} ∧ (∀ v : Fin 2048, getVec t func v = {}) ∧ (linkUp s = true → funcUp t func = false)) ∧
  (∀ s : State, ∃ t, exec (.hostPerst true) s = .next t ∧ t.host.perst = true ∧ t.host.linkSpeed = 0 ∧ linkUp t = false) ∧
  (∀ s : State, ∃ t, exec (.hostPerst false) s = .next t ∧ t.host.perst = false ∧ t.host.flights = s.host.flights)

/-- Writs (R174, R176, R177, R181, R182, R185): a writ that passes every check advances the policy epoch by one at its ledger record and
waits to settle; one that fails a check on its words alone ends with that check's fate and leaves the epoch, as one does whose words
cannot be read; a settled writ is DONE with its epoch; a WRIT_CHECK that passes every check is DONE with no effect; WRIT_STATUS writes
its 128 B. -/
def Obligations.WritCommands : Prop :=
  (∀ (r : Nat) (d w : Bytes) (f : Flight) (s v : State), Ready 0x0D00 r f s → w = slice d 0 (dLen f.raw) →
    writStatic (started r s) w (dLen f.raw) = none → writSigned w (sigBlocks w) (started r s) = (true, v) →
    writBase w = s.slc.epoch → writBodyOk (atStage r 0x01 0 v) w = true → commitHolds f true s = true →
    canLogWrit w (atStage r 0x01 0 v) = true → ∃ t, exec (.writApply r (.ok d)) s = .next t ∧
    t.slc.epoch = s.slc.epoch + 1 ∧ (∃ x ∈ t.slc.settling, x.op = r ∧ x.epoch = s.slc.epoch + 1) ∧
    (∃ g, getFlight t r = some g ∧ g.fate = none)) ∧
  (∀ (r code detail : Nat) (d w : Bytes) (f : Flight) (s : State), Ready 0x0D00 r f s → w = slice d 0 (dLen f.raw) →
    writStatic (started r s) w (dLen f.raw) = some (code, detail) → ∃ t, exec (.writApply r (.ok d)) s = .next t ∧
    Ended r code 0 detail t ∧ t.slc.epoch = s.slc.epoch) ∧
  (∀ (r : Nat) (f : Flight) (s : State), Ready 0x0D00 r f s → ∃ t, exec (.writApply r .failed) s = .next t ∧
    Ended r fCulvert 0 0x11 t ∧ t.slc.epoch = s.slc.epoch) ∧
  (∀ (r : Nat) (x : Settling) (f : Flight) (s : State), Running 0x0D00 r f s → s.slc.settling.find? (fun y => y.op == r) = some x →
    writWaits s x f = false → ∃ t, exec (.writSettle r) s = .next t ∧
    Done r (x.epoch % 2 ^ 48 + 2 ^ 48 * min 255 x.rings.length) t ∧ t.slc.epoch = s.slc.epoch) ∧
  (∀ (r : Nat) (d w : Bytes) (f : Flight) (s v : State), Ready 0x0D01 r f s → w = slice d 0 (dLen f.raw) →
    writStatic (started r s) w (dLen f.raw) = none → writSigned w (sigBlocks w) (started r s) = (true, v) →
    writBase w = s.slc.epoch → writBodyOk (atStage r 0x01 0 v) w = true → ∃ t, exec (.writCheck r (.ok d)) s = .next t ∧
    Done r 0 t ∧ t.slc.epoch = s.slc.epoch ∧ t.slc.tens = s.slc.tens ∧ t.slk = s.slk ∧ t.radio = s.radio ∧ t.upd = s.upd) ∧
  (∀ (r : Nat) (f : Flight) (s : State), Ready 0x0D02 r f s → ∃ t, exec (.writStatus r true) s = .next t ∧ Done r 0 t ∧
    t.outs = s.outs ++ [Out.hostWrite (rangeOf f 0).func (rangeOf f 0).addr (writStatusBytes (started r s) f.ten)])

/-- The SVC class (R567, R580, R583–R586, R591–R593): records read out, a unit tested, by-passed or restored, a drive scrubbed, drained or
admitted, and Service entered. -/
def Obligations.ServiceOperations : Prop :=
  (∀ (r : Nat) (f : Flight) (s : State) (l : List FaultRec), Ready 0x0F00 r f s →
    l = (faultsFrom s (fieldLE f.raw 32 8)).take (dLen f.raw / 32) → ∃ t, exec (.faultRead r true) s = .next t ∧
    Done r l.length t ∧ t.outs = s.outs ++ [Out.hostWrite (rangeOf f 0).func (rangeOf f 0).addr (l.flatMap faultBytes)]) ∧
  (∀ (r : Nat) (f : Flight) (s : State), Ready 0x0F01 r f s → svcBad f.raw = false → svcType f = uPair →
    svcIndex f < 2 → svcIndex f ≠ ofBool s.pwr.activeB → s.flt.testBusy = false → s.flt.shadowOk = true → ∃ t,
    exec (.unitTest r true) s = .next t ∧ t.flt.testBusy = true ∧ t.flt.testOp = some r ∧ t.flt.testSlices = 0 ∧
    getFlight t r = some { f with begun := true }) ∧
  (∀ (r : Nat) (f : Flight) (s : State), Ready 0x0F01 r f s → svcBad f.raw = false → hasTest (svcType f) = true →
    unitKnown s (svcType f) (svcIndex f) = true → svcType f ≠ uPair → s.flt.testBusy = false →
    testHolds (started r s) (svcType f) (svcIndex f) = true → ∃ t, exec (.unitTest r true) s = .next t ∧ Done r 0 t ∧
    t.flt.testType = svcType f ∧ t.flt.testIndex = svcIndex f ∧ t.flt.testResult = 0 ∧ t.flt.units = s.flt.units) ∧
  (∀ (r : Nat) (f : Flight) (s x : State), Ready 0x0F02 r f s → svcBad f.raw = false →
    unitKnown s (svcType f) (svcIndex f) = true → lastUnit s (svcType f) (svcIndex f) = false →
    unitSt s (svcType f) (svcIndex f) ≠ .bypassed →
    x = leaveUnit (svcType f) (svcIndex f) (bypassRecord (svcType f) (svcIndex f) (started r s)) →
    exec (.bypass r) s = .next (settle r (done (inService x (svcType f))) x)) ∧
  (∀ (ty ix : Nat) (s : State), unitSt (bypassRecord ty ix s) ty ix = .bypassed) ∧
  (∀ (r : Nat) (f : Flight) (s x : State), Ready 0x0F03 r f s → svcBad f.raw = false →
    unitKnown s (svcType f) (svcIndex f) = true → mayRestore s (svcType f) (svcIndex f) = true → s.flt.testBusy = false →
    svcType f ≠ uPair → x = rejoin (svcType f) (svcIndex f) (noteTest (svcType f) (svcIndex f) 0 (started r s)) →
    exec (.restore r true) s = .next (settle r (done (inService x (svcType f))) x)) ∧
  (∀ (r u : Nat) (f : Flight) (s x : State), Ready 0x0F04 r f s → fitted s pNvm (fieldLE f.raw 24 1) = true →
    storeUnit s (fieldLE f.raw 24 1) = some u → s.flt.testBusy = false → ∃ t,
    exec (.scrub r { bad := [], lostAfter := none }) s = .next t ∧ Done r (usedStripes s.cus u) t ∧
    t.flt.testType = pNvm ∧ t.flt.testIndex = fieldLE f.raw 24 1 ∧ t.flt.testResult = 0) ∧
  (∀ (r : Nat) (f : Flight) (s : State), Ready 0x0F05 r f s → fitted s pNvm (fieldLE f.raw 24 1) = true →
    (storeUnit s (fieldLE f.raw 24 1)).isSome = true → (getDrive s (fieldLE f.raw 24 1)).drain = none →
    exec (.driveDrain r) s = .next (retireEmpty (modDrive (fieldLE f.raw 24 1) (fun x => { x with drain := some r }) (started r s)))) ∧
  (∀ (r : Nat) (f : Flight) (s : State), Ready 0x0F06 r f s → fitted s pNvm (fieldLE f.raw 24 1) = true →
    (getDrive s (fieldLE f.raw 24 1)).st = .foreign → ∃ t, exec (.driveAdmit r) s = .next t ∧ Done r 0 t ∧
    t.cus = { s.cus with
      drives := modAt s.cus.drives (fieldLE f.raw 24 1) (fun x => { x with st := .init, initAt := monoUs s, unit := none })
      known := s.cus.known ++ (if canDraw s then [{ uid := random (started r s) 16, lsn := s.led.lsn }] else []) } ∧
    t.outs = s.outs ++ Out.nvme (fieldLE f.raw 24 1) .deallocate :: (if canDraw s then
      [Out.nvme (fieldLE f.raw 24 1) (.label s.fuse.uid (random (started r s) 16) s.led.lsn)] else [])) ∧
  (∀ (r : Nat) (f : Flight) (s : State), Ready 0x0F07 r f s → s.pwr.mode = .cab → s.pwr.parking = .none →
    (latch s = .locked ∨ latch s = .armed) → atRest s = true → ∃ t, exec (.service r) s = .next t ∧ Done r 0 t ∧
    t.pwr.mode = .service ∧ t.pwr.serviceEnd = some (monoUs s + 1000000 * fieldLE f.raw 24 2)) ∧
  (∀ (r : Nat) (f : Flight) (s : State), Ready 0x0F07 r f s → s.pwr.mode = .drive → ∃ t, exec (.service r) s = .next t ∧
    Ended r fPolicy 0 0x24 t ∧ t.pwr = s.pwr)

/-- The angle inputs and the speed signals (R188–R192, R199–R203, R307, R308): a crank edge advances its decoder as the spec states and the
Furrow predicts again; a cam edge gives cam phase, with the crank in the cycle's second revolution, or checks it; a propshaft edge and a
wheel pulse are taken with their 40 ns timestamp; an overdue crank edge ends synchronisation, with a switch of the reference when the
crank is lost and TIME at once when the engine stops; a second without a wheel pulse makes the ANG3 figure 0; a CAN speed frame gives
its signal, and its age of 200 ms ends road speed from it; and a switch ends with ANG_SWITCH_DONE, PROP_HOLD_S with ANG_PROP_EXPIRED. -/
def Obligations.AngleAndSpeed : Prop :=
  (∀ (tNs : Nat) (s t : State), angleHeard s 0 = true → s.clk.switching = none → crankIsDue (elapseToNs tNs s) = false →
    t = crankEdge (edgeTime (elapseToNs tNs s)) (modClk (fun b =>
      { b with crank := { b.crank with seen := some (edgeTime (elapseToNs tNs s)) } }) (elapseToNs tNs s)) →
    exec (.ang0Edge tNs) s = .next (speedWatch (edgeCuts t)) ∧
    t.clk.crank.seen = some (edgeTime (elapseToNs tNs s)) ∧
    ((crankStep (edgeTime (elapseToNs tNs s)) s.clk.crank).2 = .none → t.clk.ref = s.clk.ref ∧ t.clk.switching = none ∧
      t.clk.crank = { (crankStep (edgeTime (elapseToNs tNs s)) s.clk.crank).1 with
        seen := some (edgeTime (elapseToNs tNs s)) }) ∧
    ((crankStep (edgeTime (elapseToNs tNs s)) s.clk.crank).2 = .synced → t.clk.ref = .crank ∧ t.clk.crank.sync = true ∧
      t.clk.crank.tooth = 0) ∧
    ((crankStep (edgeTime (elapseToNs tNs s)) s.clk.crank).2 = .lost → t.clk.crank.sync = false ∧
      t.clk.events = setBits s.clk.events 0 ∧ (s.clk.ref = .crank → t.clk.switching.isSome = true))) ∧
  (∀ (tNs : Nat) (s : State), angleHeard s 1 = true → s.clk.crank.sync = true → s.clk.cam.known = false → ∃ t,
    exec (.ang1Edge tNs) s = .next t ∧
    t.clk.cam = { known := true, pos := camAngle (elapseToNs tNs s) + 4096 * (s.clk.table.cycleRevs - 1), adv := 0 } ∧
    t.clk.crank.second = true) ∧
  (∀ (tNs : Nat) (s : State), angleHeard s 1 = true → s.clk.crank.sync = true → s.clk.cam.known = true → ∃ t,
    exec (.ang1Edge tNs) s = .next t ∧
    (t.clk.cam.known = true ↔ aroundDist (4096 * s.clk.table.cycleRevs) (camAngle (elapseToNs tNs s)) s.clk.cam.pos ≤ 256)) ∧
  (∀ (tNs : Nat) (s : State), angleHeard s 2 = true → s.clk.ref ≠ .prop → ∃ t, exec (.ang2Edge tNs) s = .next t ∧
    t.clk.prop = propStep (edgeTime (elapseToNs tNs s)) s.clk.prop ∧ t.clk.prop.last = some (edgeTime (elapseToNs tNs s)) ∧
    t.clk.prop.edges = s.clk.prop.edges + 1 ∧ t.clk.ref = s.clk.ref ∧ t.clk.crank = s.clk.crank) ∧
  (∀ (tNs : Nat) (s : State), angleHeard s 3 = true → ∃ t, exec (.ang3Pulse tNs) s = .next t ∧
    t.clk.wheelLast = some (edgeTime (elapseToNs tNs s)) ∧
    t.clk.wheelPer = s.clk.wheelLast.map (fun l => edgeTime (elapseToNs tNs s) - l) ∧ t.clk.crank = s.clk.crank) ∧
  (∀ (d : Nat) (s : State), angleHeard s 0 = true → crankDue s.clk.crank = some d → s.clk.crank.per.getD 0 ≤ 20000000 → ∃ t,
    exec .crankEdgeTimeout s = .next t ∧ t.clk.crank.sync = false ∧ t.clk.events = setBits s.clk.events 0 ∧
    t.clk.ref = s.clk.ref ∧ (s.clk.ref = .crank → t.clk.switching.isSome = true) ∧ d ≤ t.clk.ns) ∧
  (∀ (d : Nat) (s : State), angleHeard s 0 = true → crankDue s.clk.crank = some d → 20000000 < s.clk.crank.per.getD 0 → ∃ t,
    exec .crankEdgeTimeout s = .next t ∧ t.clk.crank = { seen := s.clk.crank.seen } ∧ t.clk.ref = .time ∧
    t.clk.posHeld = angPos (elapseToNs d s) ∧ t.clk.events = s.clk.events) ∧
  (∀ (l : Nat) (s : State), angleHeard s 3 = true → s.clk.wheelLast = some l → ∃ t,
    exec .wheelPulseTimeout s = .next t ∧ l + 1000000000 ≤ t.clk.ns ∧ t.clk.wheelLast = some l ∧ (ang3Road t).getD 0 = 0) ∧
  (∀ (port : Fin 6) (ident : BitVec 32) (data : Bytes) (v : Nat) (s : State),
    speedFrame s port.val ident s.slk.policy.rsPort s.slk.policy.rsId = true →
    signalOf data s.slk.policy.rsByte s.slk.policy.rsLen = some v → ∃ t, exec (.roadSpeedFrame port ident data) s = .next t ∧
    canRoad t = some (100 * (v * s.slk.policy.rsScale) / 65536) ∧ t.clk.canRoadAt = some s.clk.ns) ∧
  (∀ (port : Fin 6) (ident : BitVec 32) (data : Bytes) (v : Nat) (s : State),
    speedFrame s port.val ident s.slk.policy.esPort s.slk.policy.esId = true →
    signalOf data s.slk.policy.esByte s.slk.policy.esLen = some v → ∃ t, exec (.engineSpeedFrame port ident data) s = .next t ∧
    t.clk.canRpm = v * s.slk.policy.esScale ∧ t.clk.canRpmAt = some s.clk.ns) ∧
  (∀ (t0 : Nat) (s : State), angleOn s = true → s.clk.canRoadAt = some t0 → ∃ t,
    exec (.speedSignalStale false) s = .next t ∧ canRoad t = none ∧ t.clk.canRoadAt = some t0) ∧
  (∀ (t0 : Nat) (s : State), angleOn s = true → s.clk.canRpmAt = some t0 → ∃ t,
    exec (.speedSignalStale true) s = .next t ∧ t0 + 200000000 ≤ t.clk.ns ∧ t.clk.canRpmAt = some t0) ∧
  (∀ (target : Ref) (s : State), angleOn s = true → s.clk.switching = some target → target ≠ .prop → ∃ t,
    exec .angleSwitchWindowEnd s = .next t ∧ t.clk.ref = (if s.clk.crank.sync then .crank else target) ∧
    t.clk.switching = none ∧ t.clk.events = setBits s.clk.events 1 ∧ s.clk.switchEnd ≤ t.clk.ns) ∧
  (∀ s : State, angleOn s = true → s.clk.ref = .prop → s.clk.switching = none → ∃ t, exec .propHoldExpiry s = .next t ∧
    t.clk.events = setBits s.clk.events 4 ∧ t.clk.switching = some .time ∧ t.clk.prop.lost = false ∧
    s.clk.propSince + 1000000000 * s.clk.table.propHoldS ≤ t.clk.ns)

/-- Clocks, the Counter Bank and the TIME class (R204–R206, R209–R218): losing and regaining a crystal, an enable starting a counter
from 0 upwards and a disable freezing it, TOP and compare values taking effect when the spec says, a capture, a compare match and a
count of 0 reached by the passing of time, the time block written and the wall clock set. -/
def Obligations.ClocksAndCounters : Prop :=
  (∀ s : State, s.pwr.vaon = true → s.clk.onRc = false →
    exec .xtal25Loss s = .next { s with clk := { s.clk with clkSwitching := true } }) ∧
  (∀ s : State, s.clk.clkSwitching = true → exec (.clockSwitchWindowEnd true) s =
    .next { s with clk := { s.clk with clkSwitching := false, events := setBits s.clk.events 5 } }) ∧
  (∀ s : State, s.clk.clkSwitching = true → ∃ t, exec (.clockSwitchWindowEnd false) s = .next t ∧
    t.clk.clkSwitching = false ∧ t.clk.onRc = true ∧ ∀ q ∈ clockPorts, portUp t q.1 q.2 = false) ∧
  (∀ s : State, s.clk.onRc = true → ∃ t, exec .xtal25Return s = .next t ∧ t.clk.onRc = false ∧ t.pwr = s.pwr) ∧
  (∀ s : State, s.clk.rtcOnRc = false → ∃ t, exec .xtal32kLoss s = .next t ∧ t.clk.rtcOnRc = true ∧ t.clk.ns = s.clk.ns) ∧
  (∀ s : State, s.clk.rtcOnRc = true → ∃ t, exec .xtal32kReturn s = .next t ∧ t.clk.rtcOnRc = false ∧ t.clk.ns = s.clk.ns) ∧
  (∀ (measured : Nat) (s : State), s.clk.rtcOnRc = true → s.clk.onRc = false →
    exec (.rtcRcCalibrate measured) s = .next { s with clk := { s.clk with rtcCal := measured } }) ∧
  (∀ (v : BitVec 32) (s : State), Shaped s → pfRegs s 0 = true → v.getLsbD 0 = true → (selCnt s).en = false →
    ∃ t, exec (.cntEnable 0 v) s = .next t ∧ (selCnt t).en = true ∧ (selCnt t).count = 0 ∧ (selCnt t).down = false ∧
    (selCnt t).prescale = BitVec.ofNat 8 (bits v.toNat 16 8)) ∧
  (∀ (v : BitVec 32) (s : State), Shaped s → pfRegs s 0 = true → v.getLsbD 0 = false → ∃ t,
    exec (.cntDisable 0 v) s = .next t ∧ (selCnt t).en = false ∧ (selCnt t).count = (selCnt s).count ∧
    (selCnt t).down = (selCnt s).down) ∧
  (∀ (v : BitVec 32) (s : State), Shaped s → pfRegs s 0 = true → v.toNat ≠ 0 → v.toNat ≠ 0xFFFFFFFF → ∃ t,
    exec (.cntTop 0 v) s = .next t ∧ (selCnt t).count = (selCnt s).count ∧
    ((selCnt s).en = false → (selCnt t).top = v.toNat) ∧
    ((selCnt s).en = true → (selCnt t).top = (selCnt s).top ∧ (selCnt t).topNext = some v.toNat)) ∧
  (∀ (v : BitVec 32) (s : State), pfRegs s 0 = true → v.toNat = 0 ∨ v.toNat = 0xFFFFFFFF → Shaped s → ∃ t,
    exec (.cntTop 0 v) s = .next t ∧ t.clk.cnts = s.clk.cnts) ∧
  (∀ (b : Bool) (v : BitVec 32) (s : State), Shaped s → pfRegs s 0 = true → ∃ t,
    exec (.cntCmp 0 b v) s = .next t ∧ (if b then (selCnt t).cmp1 else (selCnt t).cmp0) = v.toNat ∧
    (if b then (selCnt t).cmp0 else (selCnt t).cmp1) = (if b then (selCnt s).cmp0 else (selCnt s).cmp1) ∧
    (v.toNat > (selCnt s).top → (selCnt t).hit0 = (selCnt s).hit0 ∧ (selCnt t).hit1 = (selCnt s).hit1)) ∧
  (∀ (func : Fin 64) (b : Bool) (v : BitVec 32) (s : State), func.val ≠ 0 → exec (.cntEnable func v) s = .next s ∧
    exec (.cntDisable func v) s = .next s ∧ exec (.cntTop func v) s = .next s ∧ exec (.cntCmp func b v) s = .next s ∧
    exec (.cntCapRead func) s = .next s) ∧
  (∀ (n : Fin 16) (b : Bool) (s : State) (c : Cnt) (v : Nat), c = nth {} s.clk.cnts n → v = (if b then c.cmp1 else c.cmp0) →
    cntRuns s = true → c.en = true → 0 < c.top → v ≤ c.top → c.count ≤ c.top → (∀ m, c.topNext = some m → v ≤ m) →
    Shaped s → c.acc < (cntRate (cntSlow s) c).2 → ∃ t, exec (.compareMatch n b) s = .next t ∧
    (if b then (nth {} t.clk.cnts n).hit1 else (nth {} t.clk.cnts n).hit0) = true ∧
    t.clk.ns = s.clk.ns + nsForTicks (cntSlow s) c (ticksToValue c v)) ∧
  (∀ (n : Fin 16) (s : State) (c : Cnt), c = nth {} s.clk.cnts n → cntRuns s = true → c.en = true → 0 < c.top →
    c.count ≤ c.top → Shaped s → c.acc < (cntRate (cntSlow s) c).2 → ∃ t,
    exec (.countReachesZero n) s = .next t ∧ (nth {} t.clk.cnts n).count = 0 ∧
    (nth {} t.clk.cnts n).top = c.topNext.getD c.top ∧ (nth {} t.clk.cnts n).topNext = none ∧
    t.clk.ns = s.clk.ns + nsForTicks (cntSlow s) c (ticksToZero c)) ∧
  (∀ (n : Fin 16) (s : State) (c : Cnt), c = nth {} s.clk.cnts n → cntRuns s = true → capInput s c.capSrc.toNat = true →
    c.capEdge.getLsbD 0 = true → Shaped s → ∃ t, exec (.captureEdge n true) s = .next t ∧
    nth {} t.clk.cnts n = { c with cap := c.count, capOvr := c.capOvr || c.capFull, capFull := true }) ∧
  (∀ s : State, pfRegs s 0 = true → Shaped s → ∃ t, exec (.cntCapRead 0) s = .next t ∧
    (selCnt t).capFull = false ∧ (selCnt t).cap = (selCnt s).cap ∧
    (getFunc t 0).lastRead = BitVec.ofNat 64 (selCnt s).cap) ∧
  (∀ (r : Nat) (f : Flight) (s : State), Ready 0x0E00 r f s → ∃ t, exec (.timeRead r true) s = .next t ∧ Done r 0 t ∧
    t.outs = s.outs ++ [Out.hostWrite (rangeOf f 0).func (rangeOf f 0).addr (timeBlock s)]) ∧
  (∀ (r : Nat) (f : Flight) (s : State), Ready 0x0E01 r f s →
    (s.clk.wallSet = true → timeStep f s ≤ 2000000 ∧ -2000000 ≤ timeStep f s ∧
      ∀ x, s.clk.lastSet = some x → x + 60000000 ≤ monoUs s) → ∃ t, exec (.timeSet r) s = .next t ∧
    Done r (unsigned 56 (timeStep f s)) t ∧ t.clk.wallSet = true ∧ t.clk.lastSet = some (monoUs s) ∧
    (wallUs t : Int) = max 0 (wallUs s + timeStep f s) ∧ t.clk.ns = s.clk.ns) ∧
  (∀ (r : Nat) (f : Flight) (s : State), Ready 0x0E01 r f s → s.clk.wallSet = true →
    timeStep f s > 2000000 ∨ timeStep f s < -2000000 → ∃ t, exec (.timeSet r) s = .next t ∧ Ended r fPolicy 0 0x20 t ∧
    t.clk.wallBase = s.clk.wallBase) ∧
  (∀ (r x : Nat) (f : Flight) (s : State), Ready 0x0E01 r f s → s.clk.wallSet = true →
    timeStep f s ≤ 2000000 ∧ -2000000 ≤ timeStep f s → s.clk.lastSet = some x → monoUs s < x + 60000000 → ∃ t,
    exec (.timeSet r) s = .next t ∧ Ended r fPolicy 0 0x21 t ∧ t.clk.wallBase = s.clk.wallBase) ∧
  (∀ (r : Nat) (f : Flight) (s : State), Ready 0x0E02 r f s → (furrowBytes s.clk.table).length ≤ dLen f.raw → ∃ t,
    exec (.furrowRead r true) s = .next t ∧ Done r (furrowBytes s.clk.table).length t ∧
    t.outs = s.outs ++ [Out.hostWrite (rangeOf f 0).func (rangeOf f 0).addr (slice (furrowBytes s.clk.table) 0 (dLen f.raw))])

/-- Custody operations (R431–R443, R445–R447, R453): an APPEND that is sealed and placed waits for its copies and is DONE with its RID when
the last is written; READ, SCAN, VERIFY and STATUS. -/
def Obligations.CustodyOperations : Prop :=
  (∀ (r : Nat) (d : Bytes) (f : Flight) (s u : State), Ready 0x0600 r f s → vaultOk s = true → canSeal s = true →
    s.cus.jobs.any (fun j => j.item.cls == fieldLE f.raw 24 1) = false → driveCount s.cus ≠ 0 →
    5 * (storeSpace s.cus).2 ≤ 100 * (storeSpace s.cus).1 → hashUp s = true →
    (fieldLE f.raw 24 1 = 2 → waitingPart s = none) →
    beginRec (.append r)
      { cls := fieldLE f.raw 24 1, rid := 0, origin := 1, kind := 0, tMono := monoUs s, wall := wallUs s / 1000000, ten := f.ten,
        party := f.party, bodyLen := dLen f.raw, seq := dSeq f.raw, epoch := s.slc.epoch, lsn := f.lsn, stored := [], hash := [],
        places := [] } (slice d 0 (dLen f.raw)) (atStage r 0x01 0 (started r s)) = .ok u →
    ∃ t g j, exec (.append r (.ok d)) s = .next t ∧ getFlight t r = some g ∧ g.fate = none ∧ g.begun = true ∧ j ∈ t.cus.jobs ∧
    j.what = .append r ∧ j.item.cls = fieldLE f.raw 24 1 ∧ j.item.rid = (chainHead s (fieldLE f.raw 24 1)).rid + 1 ∧
    j.item.ten = f.ten ∧ j.item.bodyLen = dLen f.raw) ∧
  (∀ (r : Nat) (f : Flight) (x : CusRec) (s : State), Ready 0x0601 r f s →
    findRec s (fieldLE f.raw 24 1) (fieldLE f.raw 32 8) = some x → mayRead s f x = true →
    192 + (x.bodyLen + 63) / 64 * 64 ≤ dLen f.raw → recLost s x = false → recReadable s x = true → secReady s = true →
    vaultOk s = true → s.sec.genLsn ≤ x.lsn → hashUp s = true → sealHolds s x = true →
    (fieldLE f.raw 24 1 = 3 → commitHolds f (mayReadNow s f x) s = true ∧ canLog (.readOut r) s = true) → ∃ t,
    exec (.cusRead r true) s = .next t ∧ Done r x.bodyLen t ∧
    t.outs = s.outs ++ [Out.hostWrite (rangeOf f 0).func (rangeOf f 0).addr (plainRecord s x)]) ∧
  (∀ (r : Nat) (f : Flight) (s : State), Ready 0x0601 r f s → findRec s (fieldLE f.raw 24 1) (fieldLE f.raw 32 8) = none → ∃ t,
    exec (.cusRead r true) s = .next t ∧
    Ended r fAbsent 0 (if wasEvicted s (fieldLE f.raw 24 1) (fieldLE f.raw 32 8) then 0x23 else 0x22) t ∧ t.outs = s.outs) ∧
  (∀ (r : Nat) (f : Flight) (l : List CusRec) (s : State), Ready 0x0602 r f s →
    l = ((classRecs s (fieldLE f.raw 24 1)).filter (fun x =>
      decide (fieldLE f.raw 32 8 ≤ x.tMono) && mayRead s f x)).take (dLen f.raw / 32) → ∃ t, exec (.cusScan r true) s = .next t ∧
    Done r l.length t ∧
    t.outs = s.outs ++ [Out.hostWrite (rangeOf f 0).func (rangeOf f 0).addr (l.flatMap (scanEntry s))]) ∧
  (∀ (r : Nat) (f : Flight) (l : List CusRec) (s : State), Ready 0x0603 r f s → vaultOk s = true → secReady s = true →
    hashUp s = true → 1 ≤ fieldLE f.raw 32 8 → fieldLE f.raw 40 8 ≤ lastRid s (fieldLE f.raw 24 1) →
    l = (classRecs s (fieldLE f.raw 24 1)).filter (fun x =>
      decide (fieldLE f.raw 32 8 ≤ x.rid) && decide (x.rid ≤ fieldLE f.raw 40 8)) →
    (∀ x ∈ l, recLost s x = false ∧ verifies s x = true) → ∃ t, exec (.cusVerify r) s = .next t ∧ Done r l.length t) ∧
  (∀ (r : Nat) (f : Flight) (s : State), Ready 0x0604 r f s → ∃ t, exec (.cusStatus r true) s = .next t ∧ Done r 0 t ∧
    t.outs = s.outs ++ [Out.hostWrite (rangeOf f 0).func (rangeOf f 0).addr (cusStatusBytes s f.ten)]) ∧
  (∀ (d : Fin 4) (u op : Nat) (j : CusJob) (f : Flight) (s : State), (getDrive s d).unit = some u →
    firstJob s u = some j → j.wait = [u] → j.what = .append op → getFlight s op = some f →
    f.fate = none → ∃ t, exec (.nvmeWriteComplete d true) s = .next t ∧
    Done op (j.item.rid + 2 ^ 48 * min 255 (j.wrote + 1)) t ∧ t.cus.recs = s.cus.recs ++ [j.item] ∧
    chainHead t j.item.cls = { rid := j.item.rid, hash := j.item.hash })

/-- Drives (R431, R434–R437, R440, R456, R457): a drive that fails is LOST, and in INIT once the stripe map's change is recorded, its link
falls and returns, it is declared LOST 100 ms after, is claimed or known again, found FOREIGN, taken out of service, or WORN. A namespace
that the part does not use takes the drive out of service, which is the model's own choice (log entry 111). -/
def Obligations.CustodyDrives : Prop :=
  (∀ (d : Fin 4) (s : State), Shaped s → (getDrive s d).link = true → (getDrive s d).unit ≠ none →
    (getDrive s d).st = .online ∨ (getDrive s d).st = .worn → ∃ t v, exec (.nvmeCommandTimeout d) s = .next t ∧
    exec (.nvmeFatalStatus d) s = .next v ∧ (getDrive t d).unit = none ∧ t.cus.events.getLsbD 0 = true ∧
    s.clk.ns + 3000000000 ≤ t.clk.ns ∧ (getDrive v d).unit = none ∧ v.cus.events.getLsbD 0 = true ∧
    ((getDrive t d).st = .init ∨ (getDrive t d).st = .lost ∧ canLog (.other 437 d) t = false) ∧
    ((getDrive v d).st = .init ∨ (getDrive v d).st = .lost ∧ canLog (.other 437 d) v = false)) ∧
  (∀ (d : Fin 4) (s : State), Shaped s → (getDrive s d).link = true → (getDrive s d).st = .online ∨ (getDrive s d).st = .worn → ∃ t,
    exec (.nvmeLinkDown d) s = .next t ∧ getDrive t d = { getDrive s d with link := false, downAt := some (monoUs s) }) ∧
  (∀ (d : Fin 4) (t0 : Nat) (s : State), Shaped s → (getDrive s d).downAt = some t0 → (getDrive s d).link = false →
    (getDrive s d).unit ≠ none → (getDrive s d).st = .online ∨ (getDrive s d).st = .worn → ∃ t,
    exec (.driveLossDeclaration d) s = .next t ∧ (getDrive t d).unit = none ∧
    ((getDrive t d).st = .absent ∨ (getDrive t d).st = .lost ∧ canLog (.other 437 d) t = false) ∧
    t.cus.events.getLsbD 0 = true ∧ t0 + 100000 ≤ monoUs t) ∧
  (∀ (d : Fin 4) (s : State), Shaped s → portUp s pNvm d = true → (getDrive s d).link = false → ∃ t,
    exec (.nvmeLinkUp d) s = .next t ∧ getDrive t d = (if (getDrive s d).st = .absent then
      { getDrive s d with link := true, st := .init, initAt := monoUs s } else { getDrive s d with link := true, downAt := none })) ∧
  (∀ (d : Fin 4) (l : DriveLabel) (s : State), Shaped s → (getDrive s d).st = .init → portUp s pNvm d = true → l.label = none →
    namespaceOk l = true → canDraw s = true → ∃ t, exec (.driveReady d l) s = .next t ∧
    (getDrive t d).st = (if l.critical ∨ (custodyCfg s).wearPct ≤ l.used then .worn else .online) ∧
    (getDrive t d).unit = some s.cus.known.length ∧ (getDrive t d).cap = min l.cap 67108864 ∧
    t.cus.known.length = s.cus.known.length + 1 ∧ t.cus.events.getLsbD 1 = true) ∧
  (∀ (d : Fin 4) (l : DriveLabel) (store : BitVec 128) (uid : Bytes) (s : State), Shaped s → (getDrive s d).st = .init →
    portUp s pNvm d = true → namespaceOk l = true → l.label = some (store, uid) → store ≠ s.fuse.uid → ∃ t, exec (.driveReady d l) s = .next t ∧
    (getDrive t d).st = .foreign ∧ t.cus.known = s.cus.known ∧ t.cus.events = setBits s.cus.events 7) ∧
  (∀ (d : Fin 4) (l : DriveLabel) (uid : Bytes) (u : Nat) (k : StoreDrive) (s : State), Shaped s → (getDrive s d).st = .init →
    portUp s pNvm d = true → namespaceOk l = true → l.label = some (s.fuse.uid, uid) → knownUnit s uid = some u →
    s.cus.known[u]? = some k → k.lost = false → ∃ t, exec (.driveReady d l) s = .next t ∧ (getDrive t d).unit = some u ∧
    (getDrive t d).st = (if k.worn ∨ l.critical ∨ (custodyCfg s).wearPct ≤ l.used then .worn else .online)) ∧
  (∀ (d : Fin 4) (l : DriveLabel) (s : State), (getDrive s d).st = .init → portUp s pNvm d = true → namespaceOk l = false → ∃ t,
    exec (.driveReady d l) s = .next t ∧ unitSt t pNvm d = .out) ∧
  (∀ (d : Fin 4) (s : State), (getDrive s d).st = .init → unitSt s pNvm d = .up → ∃ t, exec (.driveReadyTimeout d) s = .next t ∧
    unitSt t pNvm d = .out ∧ (getDrive s d).initAt + 5000000 ≤ monoUs t) ∧
  (∀ (d : Fin 4) (pct : Nat) (s : State), Shaped s → (getDrive s d).st = .online → (custodyCfg s).wearPct ≤ pct → ∃ t,
    exec (.driveWear d (.used pct)) s = .next t ∧ getDrive t d = { getDrive s d with usedPct := pct, st := .worn } ∧
    t.cus.events = setBits s.cus.events 2) ∧
  (∀ (d : Fin 4) (pct : Nat) (s : State), Shaped s → pct < (custodyCfg s).wearPct → ∃ t, exec (.driveWear d (.used pct)) s = .next t ∧
    getDrive t d = { getDrive s d with usedPct := pct } ∧ t.cus.events = s.cus.events)

/-- What custody does by itself (R434, R440, R449–R455, R458, R460, R625): re-protection, which rests at governor level 4, writes before it changes the stripe map and
records the change before it is used, eviction, sectors of the ledger, checkpoints and the drain in Parked. -/
def Obligations.CustodyCare : Prop :=
  (∀ (g : Group) (l : List Group) (s : State), storeOn s = true → s.pwr.govLevel < 4 → s.pwr.ledgerDrain = false →
    moveOf s.cus = none → nextStep s = some (g, l) → writtenTo (moveWrites g l s.cus) ≠ [] → ∃ t j, exec .reprotection s = .next t ∧
    j ∈ t.cus.jobs ∧ j.what = .move g l ∧ j.wait = writtenTo (moveWrites g l s.cus) ∧ t.cus.groups = s.cus.groups ∧
    t.cus.recs = s.cus.recs ∧ t.led = s.led) ∧
  (∀ (d : Fin 4) (u : Nat) (j : CusJob) (g h : Group) (l : List Group) (s : State), (getDrive s d).unit = some u →
    firstJob s u = some j → j.wait = [u] → j.what = .move g (h :: l) → moveStands s.cus g (h :: l) = true →
    canLog (.other 434 g.id) s = true → ∃ t, exec (.nvmeWriteComplete d true) s = .next t ∧ s.led.lsn < t.led.lsn ∧
    moveOf t.cus ≠ some (g, h :: l)) ∧
  (∀ (g h : Group) (l : List Group) (s : State), h.id = g.id → moveStands s.cus g (h :: l) = true →
    canLog (.other 434 g.id) s = true → getGroup (moveDone g (h :: l) s) g.id = some h ∧
    s.led.lsn < (moveDone g (h :: l) s).led.lsn) ∧
  (∀ s : State, (nextStep s).map (·.2) ≠ some []) ∧
  (∀ s : State, 4 ≤ s.pwr.govLevel → exec .reprotection s = .next s) ∧
  (∀ (x : CusRec) (s : State), storeOn s = true → 100 * (storeSpace s.cus).1 < 5 * (storeSpace s.cus).2 →
    oldestEvictable s = some x → ∃ t, exec .eviction s = .next t ∧
    t.cus.recs.any (fun y => y.cls == x.cls && y.rid == x.rid) = false ∧
    (x.cls, x.rid, x.hash) ∈ t.cus.gone ∧ t.cus.events = setBits s.cus.events 6) ∧
  (∀ s : State, 5 * (storeSpace s.cus).2 ≤ 100 * (storeSpace s.cus).1 → exec .eviction s = .next s) ∧
  (∀ s : State, s.led.aFailed = false → s.led.aSpares ≠ 0 → ∃ t, exec (.ledgerSectorFail false) s = .next t ∧
    t.led.aSpares = s.led.aSpares - 1 ∧ t.led.aRefill = s.led.aRefill + 1 ∧ t.cus.events = setBits s.cus.events 4) ∧
  (∀ s : State, s.led.bFailed = false → s.led.bSpares ≠ 0 → ∃ t, exec (.ledgerSectorFail true) s = .next t ∧
    t.led.bSpares = s.led.bSpares - 1 ∧ t.led.bRefill = s.led.bRefill + 1 ∧ t.cus.events = setBits s.cus.events 4) ∧
  (∀ s : State, s.led.aFailed = false → s.led.aSpares = 0 → s.led.bFailed = false → ∃ t, exec (.ledgerSectorFail false) s = .next t ∧
    t.led.aFailed = true ∧ t.led.aRefill = 0 ∧ t.pwr.mode = s.pwr.mode ∧ t.cus.events = setBits s.cus.events 5) ∧
  (∀ s : State, exec (.sectorRefillDone false) s = .next { s with led := { s.led with aRefill := s.led.aRefill - 1 } } ∧
    exec (.sectorRefillDone true) s = .next { s with led := { s.led with bRefill := s.led.bRefill - 1 } }) ∧
  (∀ s u v : State, storeOn s = true → sinceCp s ≠ 0 →
    u = custodyWork (reclaim (if sinceCp s < 8192 then elapseTo (s.led.cpAt + 1000000) s else s)) → beginCp u = .ok v →
    exec .ledgercp s = .next v ∧ v.led.cpAt = monoUs u ∧
    ∃ j, j ∈ v.cus.jobs ∧ j.what = .ledgercp u.led.lsn ∧ j.item.cls = 5) ∧
  (∀ (ready : BitVec 4) (s : State), s.pwr.mode = .parked → s.pwr.vaon = true → s.pwr.start = .settled → s.led.low = true →
    (groupGood s 1 && groupGood s 2 && groupGood s 3) = false → groupGood s 0 = true → ∃ t, exec (.ledgerDrain ready) s = .next t ∧
    t.pwr.ledgerDrain = true ∧ t.pwr.mode = .parked ∧ t.pwr.en.getLsbD 1 = true ∧ t.cus = s.cus ∧
    (groupGood s 1 = false → t.pwr.en.getLsbD 2 = s.pwr.en.getLsbD 2)) ∧
  (∀ (ready : BitVec 4) (s : State), s.pwr.mode = .parked → s.pwr.vaon = true → s.pwr.start = .settled → s.led.low = true →
    (groupGood s 1 && groupGood s 2 && groupGood s 3) = true → s.cus.drainStep = 0 → ∃ t,
    exec (.ledgerDrain ready) s = .next t ∧ t.pwr.mode = .parked ∧ (t.cus.drainStep = 0 → t.pwr.ledgerDrain = false ∧
      ∀ x, x ∈ t.cus.drives → x.st = .online ∨ x.st = .worn → x.link = false)) ∧
  (∀ (ready : BitVec 4) (s : State), s.pwr.mode = .parked → s.pwr.vaon = true → s.pwr.start = .settled →
    (groupGood s 1 && groupGood s 2 && groupGood s 3) = true → s.cus.drainStep = 2 → s.cus.jobs.all (fun j => j.wait.isEmpty) = true → ∃ t,
    exec (.ledgerDrain ready) s = .next t ∧ t.pwr.mode = .parked ∧ t.pwr.ledgerDrain = false ∧ t.cus.drainStep = 0 ∧
    ∀ x, x ∈ t.cus.drives → x.st = .online ∨ x.st = .worn → x.link = false)

/-- Coupling (R405–R412, R420, R423): the tractor's BEACON, the trailer's answer, a ROLL that starts a discovery, an ASSIGN taken, a JOIN
that is assigned a position, JOINED, DECOUPLED and ONWARD_LOST received in order. -/
def Obligations.CouplingAndPositions : Prop :=
  (∀ (p : Fin 4) (t0 : Nat) (s : State), Shaped s → linkMode s = true → lineUp s p = true → upstream s p = false → ownPos s ≤ 7 →
    (getPort s p).link ≠ .quarantined → (getPort s p).beaconAt = some t0 → (getPort s p).rolled = true → ∃ t,
    exec (.beacon p) s = .next t ∧ (getPort t p).missed = (getPort s p).missed ∧ (getPort t p).rolled = false ∧ (getPort t p).beaconSeq = ((getPort s p).beaconSeq + 1) % 65536 ∧
    (getPort t p).beaconAt = some (monoUs t) ∧ t0 + 100000 ≤ monoUs t ∧ (getPort t p).link = (getPort s p).link) ∧
  (∀ (p : Fin 4) (t0 : Nat) (s : State), Shaped s → linkMode s = true → lineUp s p = true → s.sys.trailer = false →
    (getPort s p).beaconAt = some t0 → (getPort s p).rolled = false → (getPort s p).missed = 2 →
    isCoupled (getPort s p).link = true → s.ifl.stepEnd = none → ∃ t, exec (.beacon p) s = .next t ∧ (getPort t p).link = .down) ∧
  (∀ (p : Fin 4) (b : Bytes) (s : State), Shaped s → frameFits 1 b = true → hears s p = true → upstream s p = true →
    (linkHead b).cpl = s.ifl.ownCpl → ∃ t, exec (.beaconReceived p b) s = .next t ∧ t.ifl.ownPos = s.ifl.ownPos ∧
    t.ifl.masterAt = monoUs s ∧ t.ifl.winSync = true ∧ (getPort t p).beaconAt = some (monoUs s) ∧
    (canSend s p = true → (getPort t p).cntTx = (getPort s p).cntTx + 1)) ∧
  (∀ (p : Fin 4) (b : Bytes) (s : State), frameFits 1 b = true → hears s p = true → upstream s p = true →
    s.ifl.ownPos.isSome = true → (linkHead b).cpl ≠ s.ifl.ownCpl → ∃ t, exec (.beaconReceived p b) s = .next t ∧
    t.ifl.ownPos = none ∧ t.ifl.ownCpl = 0 ∧ t.ifl.routes = []) ∧
  (∀ (p : Fin 4) (b : Bytes) (pos : Nat) (s : State), Shaped s → frameFits 2 b = true → hears s p = true → linkMode s = true →
    s.sys.trailer = false → (getPort s p).link = .down → (linkHead b).cpl = 0 → choosePos (headUid (linkHead b).body) s = some pos →
    s.ifl.nodes.all (fun e => e.2.parent != pos) = true → canDraw s = true → ∃ t n, exec (.roll p 0xE b) s = .next t ∧
    (getPort t p).link = .joining ∧ (getPort t p).joinAt = some (monoUs s) ∧ nodeAt t pos = some n ∧
    n.uid = headUid (linkHead b).body ∧ n.parent = 0 ∧ n.tport = p ∧ n.joined = false ∧
    n.cpl = freshCpl (lastCpl n.uid s) s) ∧
  (∀ (p : Fin 4) (src : Fin 16) (b : Bytes) (q : QFrame) (n : Node) (s : State), Shaped s → frameFits 2 b = true → hears s p = true →
    linkMode s = true → s.sys.trailer = false → (getPort s p).link = .joining → (getPort s p).assign = some q →
    src.val = byteAt q.body 16 → headUid (linkHead b).body = headUid q.body → (linkHead b).cpl = 0 → nodeAt s (byteAt q.body 16) = some n →
    ∃ t m, exec (.roll p src b) s = .next t ∧ nodeAt t (byteAt q.body 16) = some m ∧ m.joined = true ∧ (getPort t p).link = .coupledT ∧ (getPort t p).pos = byteAt q.body 16 ∧
    (getPort t p).cpl = beAt q.body 20 4 ∧ (getPort t p).assign = none) ∧
  (∀ (p : Fin 4) (b : Bytes) (s : State), Shaped s → (linkHead b).hseq = 0 → frameFits 4 b = true → hears s p = true →
    upstream s p = true → linkMode s = true → (linkHead b).cpl = 0 → headUid (linkHead b).body = fromBE (uidBytes s) →
    1 ≤ byteAt (linkHead b).body 16 → byteAt (linkHead b).body 16 ≤ 7 → s.ifl.ownPos = none → ∃ t,
    exec (.assign p b) s = .next t ∧ t.ifl.ownPos = some (byteAt (linkHead b).body 16) ∧
    t.ifl.ownCpl = beAt (linkHead b).body 20 4 ∧ (getPort t p).link = .coupledT) ∧
  (∀ (p : Fin 4) (b : Bytes) (pos : Nat) (s : State), InOrder 3 p b s → s.sys.trailer = false → linkMode s = true →
    choosePos (headUid (slice (linkHead b).body 0 22)) s = some pos → s.ifl.nodes.all (fun e => e.2.parent != pos) = true →
    canDraw s = true → ∃ t n, exec (.join p b) s = .next t ∧ (getPort t p).rxNext = nextSeq (getPort s p).rxNext ∧
    nodeAt t pos = some n ∧ n.uid = headUid (slice (linkHead b).body 0 22) ∧ n.parent = byteAt (linkHead b).body 22 ∧
    n.tport = p ∧ n.joined = false) ∧
  (∀ (p : Fin 4) (b : Bytes) (n : Node) (s : State), InOrder 5 p b s → s.sys.trailer = false →
    nodeAt s (byteAt (linkHead b).body 0) = some n → ∃ t m, exec (.joined p b) s = .next t ∧
    (getPort t p).rxNext = nextSeq (getPort s p).rxNext ∧ nodeAt t (byteAt (linkHead b).body 0) = some m ∧ m.joined = true ∧
    m.adrift = false ∧ m.flood = n.flood ∧ t.ifl.linkEv = setBits s.ifl.linkEv 0) ∧
  (∀ (p : Fin 4) (b : Bytes) (n : Node) (s : State), InOrder 6 p b s → s.sys.trailer = false →
    nodeAt s (byteAt (linkHead b).body 0) = some n → ∃ t, exec (.decoupled p b) s = .next t ∧
    (getPort t p).rxNext = nextSeq (getPort s p).rxNext ∧ nodeAt t (byteAt (linkHead b).body 0) = none) ∧
  (∀ (p : Fin 4) (b : Bytes) (s : State), InOrder 10 p b s → s.sys.trailer = false → ∃ t, exec (.onwardLost p b) s = .next t ∧
    (getPort t p).rxNext = nextSeq (getPort s p).rxNext ∧ t.ifl.linkEv = setBits s.ifl.linkEv 5)

/-- Data on the chain (R404, R413–R415, R418, R419, R421, R422, R427): PROFILE and DATA received in order, acknowledgements and resends, the
service a trailer has not, and the IFL descriptors. -/
def Obligations.ChainDataAndOperations : Prop :=
  (∀ (p : Fin 4) (b : Bytes) (s : State), InOrder 7 p b s → upstream s p = true → byteAt (linkHead b).body 0 = 1 → ∃ t,
    exec (.profile p b) s = .next t ∧ (getPort t p).rxNext = nextSeq (getPort s p).rxNext ∧ (getPort t p).link = .coupledF) ∧
  (∀ (p : Fin 4) (b : Bytes) (s : State), InOrder 7 p b s → upstream s p = true → byteAt (linkHead b).body 0 ≠ 1 → ∃ t,
    exec (.profile p b) s = .next t ∧ (getPort t p).rxNext = nextSeq (getPort s p).rxNext ∧ (getPort t p).link = .coupledT) ∧
  (∀ (p : Fin 4) (b : Bytes) (ten : Nat) (l : List (Nat × Bytes)) (s : State), InOrder 8 p b s → byteAt (linkHead b).body 0 = 1 →
    ten = beAt (linkHead b).body 2 2 → tenExists s ten = true →
    l = tabGet [] s.ifl.inbox ten ++ [((linkHead b).orig, (linkHead b).body.drop 4)] →
    (l.map (fun e => e.2.length)).foldl (· + ·) 0 ≤ 65536 → ∃ t, exec (.dataFrame p b) s = .next t ∧
    (getPort t p).rxNext = nextSeq (getPort s p).rxNext ∧ tabGet [] t.ifl.inbox ten = l) ∧
  (∀ (p : Fin 4) (b : Bytes) (s : State), frameFits 8 b = true → hears s p = true → isCoupled (getPort s p).link = true →
    (linkHead b).cpl = (getPort s p).cpl → (linkHead b).hseq ≠ 0 → 8 ≤ seqDist (getPort s p).rxNext (linkHead b).hseq →
    exec (.dataFrame p b) s = .next (sendAck p false s)) ∧
  (∀ (p : Fin 4) (b : Bytes) (s : State), Shaped s → frameFits 9 b = true → hears s p = true → isCoupled (getPort s p).link = true →
    (linkHead b).cpl = (getPort s p).cpl → (getPort s p).queue = [] →
    (getPort s p).unacked.all (fun x => x.frame.op.isNone && x.frame.ltype != 7) = true → ∃ t, exec (.ack p b) s = .next t ∧
    (getPort t p).unacked = (getPort s p).unacked.filter (fun x =>
      !ackCovers (beAt (linkHead b).body 0 2) (byteAt (linkHead b).body 2) x.hseq)) ∧
  (∀ (p : Fin 4) (b : Bytes) (r : Nat) (x : TxFrame) (y : Relay) (s : State), Shaped s → frameFits 9 b = true → hears s p = true →
    isCoupled (getPort s p).link = true → (linkHead b).cpl = (getPort s p).cpl → (getPort s p).queue = [] →
    (getPort s p).unacked = [x] → x.frame.op = some r → x.frame.ltype ≠ 7 →
    ackCovers (beAt (linkHead b).body 0 2) (byteAt (linkHead b).body 2) x.hseq = true →
    s.ifl.relays.find? (fun z => z.op == r) = some y → y.accepted + 1 = y.total →
    (∃ f, getFlight s r = some f ∧ f.fate = none) → ∃ t, exec (.ack p b) s = .next t ∧ Done r y.total t) ∧
  (∀ (p : Fin 4) (x : TxFrame) (s : State), Shaped s →
    oldestFrame ((getPort s p).unacked.filter (fun t => fitsProfile (getPort s p) t.frame)) = some x → linkMode s = true →
    canSend s p = true → isCoupled (getPort s p).link = true → (getPort s p).busyUntil ≤ x.sentAt → x.tries < 8 →
    (getPort s p).queue = [] → ∃ t, exec (.resendTimer p) s = .next t ∧ t.ifl.cntRetx = s.ifl.cntRetx + 1 ∧
    (getPort t p).unacked = (getPort s p).unacked.map (fun y =>
      if y.hseq = x.hseq then { x with tries := x.tries + 1, sends := x.sends + 1, sentAt := monoUs t } else y)) ∧
  (∀ (p : Fin 4) (x : TxFrame) (s : State), Shaped s →
    oldestFrame ((getPort s p).unacked.filter (fun t => fitsProfile (getPort s p) t.frame)) = some x → linkMode s = true →
    canSend s p = true → isCoupled (getPort s p).link = true → (getPort s p).busyUntil ≤ x.sentAt → 8 ≤ x.tries → s.sys.trailer = false →
    s.ifl.stepEnd = none → ∃ t, exec (.resendTimer p) s = .next t ∧ t.ifl.cntLost = s.ifl.cntLost + 1 ∧
    (getPort t p).link = .down) ∧
  (∀ s : State, s.sys.trailer = true → s.ifl.ownPos.isSome = true → s.sys.ready = true → s.pwr.mode = .cab ∨ s.pwr.mode = .drive →
    ∃ t, exec .svcStatus s = .next t ∧ t.ifl.statusAt = monoUs t ∧ s.ifl.statusAt + 1000000 ≤ monoUs t) ∧
  (∀ (r : Nat) (d : Bytes) (f : Flight) (n : Node) (s : State), Ready 0x0500 r f s → s.clk.onRc = false →
    nodeAt s (fieldLE f.raw 24 1) = some n → n.joined = true → s.ifl.nodes.any (fun e => e.2.adrift && behind s e.1 7 (fieldLE f.raw 24 1)) = false →
    canLog (.intent 4 r) s = true → ∃ t g, exec (.relay r (.ok d)) s = .next t ∧ getFlight t r = some g ∧ g.fate = none ∧
    g.begun = true ∧ t.led.lsn = s.led.lsn + 1 ∧ t.ifl.relays = s.ifl.relays ++
      [{ op := r, final := fieldLE f.raw 24 1, accepted := 0,
         total := (cut (fieldLE f.raw 26 2) (dLen f.raw) (slice d 0 (dLen f.raw))).length }]) ∧
  (∀ (r : Nat) (d : Bytes) (f : Flight) (s : State), Ready 0x0500 r f s → s.clk.onRc = false →
    nodeAt s (fieldLE f.raw 24 1) = none → ∃ t,
    exec (.relay r (.ok d)) s = .next t ∧ Ended r fAbsent 0 0x20 t ∧ t.ifl = s.ifl) ∧
  (∀ (r : Nat) (f : Flight) (l : List (Nat × Node)) (s : State), Ready 0x0501 r f s → l = s.ifl.nodes.take (dLen f.raw / 32) → ∃ t,
    exec (.chainRead r true) s = .next t ∧ Done r l.length t ∧ t.outs = s.outs ++
      [Out.hostWrite (rangeOf f 0).func (rangeOf f 0).addr (l.flatMap (fun e => chainBytes s e.1 e.2))]) ∧
  (∀ (r : Nat) (f : Flight) (l : List (Nat × Bytes)) (s : State), Ready 0x0502 r f s →
    l = recvFit (dLen f.raw) (tabGet [] s.ifl.inbox f.ten) → ∃ t, exec (.recv r true) s = .next t ∧
    Done r (l.flatMap recvBytes).length t ∧ tabGet [] t.ifl.inbox f.ten = (tabGet [] s.ifl.inbox f.ten).drop l.length ∧
    t.outs = s.outs ++ [Out.hostWrite (rangeOf f 0).func (rangeOf f 0).addr (l.flatMap recvBytes)])

/-- Holds and services on the chain (R374, R402, R411, R412, R424): the end of the time for supply measurements, a node given up for lost, the
upstream neighbour lost, and the readers and LF channels a trailer lends. -/
def Obligations.ChainHoldsAndServices : Prop :=
  (∀ (t0 : Nat) (s : State), s.ifl.stepEnd = some t0 → ∃ t, exec .supplyStepWindowEnd s = .next t ∧
    t.ifl = { s.ifl with stepEnd := none } ∧ t0 ≤ monoUs t) ∧
  (∀ (p : Fin 4) (t0 : Nat) (l : List (Nat × Nat)) (s : State), Shaped s → (getPort s p).link = .adrift →
    (getPort s p).holds = ((getPort s p).pos, t0) :: l → ∃ t, exec (.adriftHoldEnd p) s = .next t ∧
    (getPort t p).link = .down ∧ t0 + 3000000 ≤ monoUs t) ∧
  (∀ (p : Fin 4) (pos t0 : Nat) (l : List (Nat × Nat)) (n : Node) (s : State), s.sys.trailer = false →
    (getPort s p).holds = (pos, t0) :: l → (getPort s p).link ≠ .adrift ∨ (getPort s p).pos ≠ pos → nodeAt s pos = some n →
    n.adrift = true → ∃ t, exec (.adriftHoldEnd p) s = .next t ∧ nodeAt t pos = none ∧ t0 + 3000000 ≤ monoUs t) ∧
  (∀ (p : Fin 4) (t0 : Nat) (s : State), upstream s p = true → s.ifl.ownPos.isSome = true → linkMode s = true →
    (getPort s p).beaconAt = some t0 → ∃ t, exec (.upstreamNeighbourLost p) s = .next t ∧ t.ifl.ownPos = none ∧
    t.ifl.ownCpl = 0 ∧ t0 + 300000 ≤ monoUs t) ∧
  (∀ (b : Bytes) (s : State), s.sys.trailer = true → s.ifl.ownPos.isSome = true → 8 ≤ b.length → zeroAt b 7 1 = true →
    byteAt b 0 = 1 → byteAt b 1 < 8 → readerUp s (byteAt b 1) = true → ∃ t y, exec (.readerRequest b) s = .next t ∧
    y ∈ t.nfc.xs ∧ y.node = some (slice b 0 4) ∧ y.readers = [byteAt b 1] ∧ y.ceilMs = beAt b 4 2 ∧ y.limit = some (byteAt b 6) ∧
    y.step = .activate ∧ y.act = .reqa ∧ t.outs = s.outs ++ [Out.cardCtl (byteAt b 1) .reqa]) ∧
  (∀ (b : Bytes) (chans : List Nat) (off w ns : Nat) (syms : Bytes) (l : List (Nat × Bytes)) (s : State), s.sys.trailer = true →
    s.ifl.ownPos.isSome = true → 8 ≤ b.length → byteAt b 0 = 1 → chans = [byteAt b 1, byteAt b 2, byteAt b 3].filter (· != 0xFF) →
    lfChanStatus s chans = 0 → lfSegments (byteAt b 7) (b.drop 8) = (off, syms) :: l →
    ns = 1000 * (syms.map symbolUs).foldl (· + ·) 0 → furrowGrant s ns (s.clk.ns + 1000 * off) = .at w →
    w ≤ s.clk.ns + 1000 * off + 5000 → ∃ t, exec (.lfRequest b) s = .next t ∧ w + ns ≤ t.clk.ns ∧
    Out.lf 1250 (requestDrive s b chans) (syms.flatMap symbolRuns) ∈ t.outs) ∧
  (∀ (b : Bytes) (chans : List Nat) (s : State), s.sys.trailer = true → s.ifl.ownPos.isSome = true → 8 ≤ b.length → byteAt b 0 = 1 →
    chans = [byteAt b 1, byteAt b 2, byteAt b 3].filter (· != 0xFF) → lfChanStatus s chans ≠ 0 → exec (.lfRequest b) s =
    .next (sendData 0 0x05 0 (slice b 5 2 ++ le 1 (lfChanStatus s chans)) none (drawn 3 s)))

/-- The directory's descriptors (R464–R470, R480, R481): LOOKUP and GRANT answer with the entry found, a grant commits in its turn, LOAD,
REVOKE, REVOKE_EPOCH and REMOVE begin a change or answer at once, and STATUS. -/
def Obligations.DirectoryOperations : Prop :=
  (∀ (r : Nat) (d : Bytes) (f : Flight) (e : DirEntry) (s : State), Ready 0x0700 r f s → d.length = 64 → (parseQuery d).ok = true →
    f.rules.nsRead.getLsbD (parseQuery d).ns = true →
    lookup s (parseQuery d).ns (parseQuery d).kind (parseQuery d).id = .entry e →
    ((parseQuery d).flag = 1 → e.keyHash = (parseQuery d).keyHash) → ∃ t, exec (.lookup r (.ok d) true) s = .next t ∧
    Done r (lookupResult s e) t ∧ t.outs = s.outs ++ (if bit (fieldLE f.raw 40 1) 0 then
      [Out.hostWrite (rangeOf f 1).func (rangeOf f 1).addr (entryBytes e)] else [])) ∧
  (∀ (r : Nat) (d : Bytes) (f : Flight) (s : State), Ready 0x0700 r f s → d.length = 64 → (parseQuery d).ok = true →
    f.rules.nsRead.getLsbD (parseQuery d).ns = true →
    lookup s (parseQuery d).ns (parseQuery d).kind (parseQuery d).id = .absent → ∃ t, exec (.lookup r (.ok d) true) s = .next t ∧
    Ended r fAbsent 0 0x20 t) ∧
  (∀ (r : Nat) (d : Bytes) (f : Flight) (e : DirEntry) (s : State), Ready 0x0701 r f s → d.length = 64 → (parseQuery d).ok = true →
    f.rules.nsRead.getLsbD (parseQuery d).ns = true →
    lookup s (parseQuery d).ns (parseQuery d).kind (parseQuery d).id = .entry e →
    ((parseQuery d).flag = 1 → e.keyHash = (parseQuery d).keyHash) → entryState s e = 1 → ∃ t,
    exec (.grant r (.ok d) true) s = .next t ∧ getFlight t r = some { f with begun := true } ∧
    t.dir.grants = s.dir.grants ++ [(r, (parseQuery d).ns, (parseQuery d).kind, (parseQuery d).id)]) ∧
  (∀ (r ns kind : Nat) (id : Bytes) (f : Flight) (e : DirEntry) (s : State), Running 0x0701 r f s →
    s.dir.grants.find? (fun g => g.1 == r) = some (r, ns, kind, id) → dirTurn s r f = true → lookup s ns kind id = .entry e →
    entryState s e = 1 → commitHolds f ((getTen s f.ten).nsRead.getLsbD ns) s = true →
    canLog (.part (stampPart { kind := 0x13, ten := f.ten, tid := e.bindTid, seq := dSeq f.raw, unit := ns } s)) s = true → ∃ t,
    exec (.grantCommit r true) s = .next t ∧ Done r (lookupResult s e) t ∧ s.led.lsn + 1 ≤ t.led.lsn ∧
    t.dir.grants = s.dir.grants.filter (fun g => g.1 != r)) ∧
  (∀ (r : Nat) (b d : Bytes) (es : List DirEntry) (f : Flight) (s x u : State), Ready 0x0702 r f s → s.dir.pending = none →
    dirTurn s r f = true → dramUp s = true → s.dir.st ≠ 0 → b = slice d 0 (dLen f.raw) →
    es = (List.range (dLen f.raw / 128)).map (fun i => { parseEntry b (128 * i) with owner := f.ten }) →
    (List.range (dLen f.raw / 128)).all (fun i => loadEntryOk f.rules b (128 * i)) = true → distinctKeys es = true →
    es.any (fun e => (inTable s e.ns e.kind e.id).any (fun o => o.revoked && decide (e.epoch ≤ o.epoch))) = false →
    loadFits s es = true → x = drawn 1 (atStage r 0x01 0 (started r s)) →
    beginRec (.delta r) { partHeader x 4 0x12 f.lsn with snap := s.dir.snapId } (deltaBytes x f (.load es)) x = .ok u → ∃ t,
    exec (.dirLoad r (.ok d)) s = .next t ∧ t.dir.pending = some { op := r, act := .load es, rid := 0 } ∧
    t.dir.table = s.dir.table ∧ (∃ g, getFlight t r = some g ∧ g.fate = none ∧ g.begun = true)) ∧
  (∀ (r : Nat) (f : Flight) (e : DirEntry) (s x u : State), Ready 0x0703 r f s → s.dir.pending = none → dirTurn s r f = true →
    dramUp s = true → s.dir.st ≠ 0 → mayWriteNs f (keyOf f).1 = true →
    inTable s (keyOf f).1 (keyOf f).2.1 (keyOf f).2.2 = some e → e.revoked = false → x = started r s →
    beginRec (.delta r) { partHeader x 4 0x12 f.lsn with snap := s.dir.snapId }
      (deltaBytes x f (.revoke (keyOf f).1 (keyOf f).2.1 (keyOf f).2.2)) x = .ok u → ∃ t, exec (.revoke r) s = .next t ∧
    t.dir.pending = some { op := r, act := .revoke (keyOf f).1 (keyOf f).2.1 (keyOf f).2.2, rid := 0 } ∧ t.dir.table = s.dir.table) ∧
  (∀ (r : Nat) (f : Flight) (e : DirEntry) (s : State), Ready 0x0703 r f s → s.dir.pending = none → dirTurn s r f = true →
    dramUp s = true → s.dir.st ≠ 0 → mayWriteNs f (keyOf f).1 = true →
    inTable s (keyOf f).1 (keyOf f).2.1 (keyOf f).2.2 = some e → e.revoked = true → ∃ t, exec (.revoke r) s = .next t ∧
    Done r e.revSeq t ∧ t.dir = s.dir) ∧
  (∀ (r : Nat) (f : Flight) (s x u : State), Ready 0x0704 r f s → s.dir.pending = none → dirTurn s r f = true →
    dramUp s = true → s.dir.st ≠ 0 → mayWriteNs f (fieldLE f.raw 24 1) = true →
    minEpoch s (fieldLE f.raw 24 1) < fieldLE f.raw 28 4 → x = started r s →
    beginRec (.delta r) { partHeader x 4 0x12 f.lsn with snap := s.dir.snapId }
      (deltaBytes x f (.epoch (fieldLE f.raw 24 1) (fieldLE f.raw 28 4))) x = .ok u → ∃ t, exec (.revokeEpoch r) s = .next t ∧
    t.dir.pending = some { op := r, act := .epoch (fieldLE f.raw 24 1) (fieldLE f.raw 28 4), rid := 0 } ∧
    t.dir.minEpoch = s.dir.minEpoch) ∧
  (∀ (r : Nat) (f : Flight) (s : State), Ready 0x0704 r f s → s.dir.pending = none → dirTurn s r f = true →
    dramUp s = true → s.dir.st ≠ 0 → mayWriteNs f (fieldLE f.raw 24 1) = true →
    fieldLE f.raw 28 4 ≤ minEpoch s (fieldLE f.raw 24 1) → ∃ t, exec (.revokeEpoch r) s = .next t ∧
    Ended r fPolicy 0 0x28 t ∧ t.dir = s.dir) ∧
  (∀ (r : Nat) (f : Flight) (e : DirEntry) (s x u : State), Ready 0x0705 r f s → s.dir.pending = none → dirTurn s r f = true →
    dramUp s = true → s.dir.st ≠ 0 → mayWriteNs f (keyOf f).1 = true →
    inTable s (keyOf f).1 (keyOf f).2.1 (keyOf f).2.2 = some e → (e.revoked = true → e.epoch < minEpoch s (keyOf f).1) →
    x = started r s → beginRec (.delta r) { partHeader x 4 0x12 f.lsn with snap := s.dir.snapId }
      (deltaBytes x f (.remove (keyOf f).1 (keyOf f).2.1 (keyOf f).2.2)) x = .ok u → ∃ t, exec (.remove r) s = .next t ∧
    t.dir.pending = some { op := r, act := .remove (keyOf f).1 (keyOf f).2.1 (keyOf f).2.2, rid := 0 } ∧ t.dir.table = s.dir.table) ∧
  (∀ (r : Nat) (f : Flight) (s : State), Ready 0x0706 r f s → ∃ t, exec (.dirStatus r true) s = .next t ∧ Done r 0 t ∧
    t.outs = s.outs ++ [Out.hostWrite (rangeOf f 0).func (rangeOf f 0).addr (dirStatusBytes s f.ten)])

/-- Changes and nodes (R467, R469, R471, R473–R475, R477, R478): a change takes effect with its fate once its delta is copied; a node takes
EPOCHS and REVOKED; a HELD that covers the state ends the wait for it; a late relay counts as one and is given 2 s more; a snapshot
begins; a rebuild makes the directory READY, or leaves it unavailable where it fails. -/
def Obligations.DirectoryChangesAndNodes : Prop :=
  (∀ (p : DirChange) (f : Flight) (s : State), s.dir.pending = some p → p.rid ≠ 0 →
    canLog (.dirChange (s.dir.revSeq + 1)) s = true → getFlight s p.op = some f → f.fate = none → ∃ t,
    exec .dirDeltaCopied s = .next t ∧ t.dir.pending = none ∧ t.dir.table = actOn p.act (s.dir.revSeq + 1) s.dir.table ∧
    t.dir.persist = actOn p.act (s.dir.revSeq + 1) s.dir.persist ∧ s.led.lsn < t.led.lsn ∧ Done p.op (match p.act with
      | .load es => es.length
      | .revoke _ _ _ => s.dir.revSeq + 1
      | .epoch _ v => v
      | .remove _ _ _ => 0) t) ∧
  (∀ (b : Bytes) (n : Nat) (s : State), asNode s = true → b.length = 76 → byteAt b 0 = 1 → zeroAt b 1 3 = true → n < 16 → ∃ t,
    exec (.epochs b) s = .next t ∧ minEpoch t n = max (minEpoch s n) (beAt b (12 + 4 * n) 4)) ∧
  (∀ (b : Bytes) (x : RevItem) (s : State), asNode s = true → byteAt b 0 = 2 → zeroAt b 1 1 = true → beAt b 2 2 = 1 →
    b.length = 32 → x = { ns := byteAt b 12, kind := byteAt b 13, id := slice b 16 16, seq := beAt b 4 8 } →
    s.dir.revSeq < x.seq → ∃ t, exec (.revoked b) s = .next t ∧ t.dir.revSeq = x.seq ∧ x ∈ t.dir.revList ∧
    ∀ e, e ∈ t.dir.table → sameKey x.ns x.kind x.id e = true → e.revoked = true) ∧
  (∀ (pos : Fin 8) (b : Bytes) (n : Node) (s : State), s.sys.trailer = false → nodeAt s pos = some n → n.joined = true →
    b.length = 76 → byteAt b 0 = 3 → zeroAt b 1 3 = true → s.dir.revSeq ≤ beAt b 4 8 →
    (∀ i, i < 16 → minEpoch s i ≤ beAt b (12 + 4 * i) 4) → ∃ t, exec (.held pos b) s = .next t ∧
    (tabGet {} t.dir.nodes pos).due = none ∧ (tabGet {} t.dir.nodes pos).held = beAt b 4 8) ∧
  (∀ (pos : Fin 8) (t0 : Nat) (n : Node) (s : State), (tabGet ({} : DirNode) s.dir.nodes pos).due = some t0 →
    nodeAt s pos = some n → n.joined = true → ∃ t, exec (.dirRelayLate pos) s = .next t ∧ t0 ≤ monoUs t ∧
    t.dir.events = setBits s.dir.events 2 ∧ (tabGet ({} : DirNode) t.dir.nodes pos).due = some (monoUs t + 2000000)) ∧
  (∀ s : State, linkMode s = true → s.pwr.govLevel < 4 → s.dir.st = 2 → s.dir.snapLeft = 0 → s.dir.changed ≠ 0 → ∃ t,
    exec .snapshotStart s = .next t ∧ t.dir.snapId = s.dir.snapId + 1 ∧ t.dir.changed = 0 ∧ t.dir.snapAt = monoUs t ∧
    t.dir.snapLeft = (segmentsOf 65 s.dir.table).length ∧ (s.dir.changed < 262144 → s.dir.snapAt + 86400000000 ≤ monoUs t)) ∧
  (∀ s : State, s.dir.st = 1 → dramUp s = true → linkMode s = true → vaultOk s = true →
    s.cus.recs.any (fun x => rebuildNeeds s x && recLost s x) = false → ∃ t, exec (.dirRebuild true) s = .next t ∧ t.dir.st = 2 ∧
    t.dir.pct = 100 ∧ t.dir.table = s.dir.persist ∧ t.dir.events = setBits s.dir.events 0) ∧
  (∀ s : State, s.dir.st = 1 → dramUp s = true → linkMode s = true →
    exec (.dirRebuild false) s = .next { s with dir := { s.dir with st := 0, pct := 0 } })

/-- LF polls (R225, R226, R229, R236, R244, R245): a poll that falls due puts its telegram on air or waits for the air; a whole PRESENCE
telegram that the Furrow fits is sent; a detuned channel goes on transmitting, a SENSE takes the spare path at once or with the next telegram
and a SHORT takes the channel out; a reply slot opens with its trigger and closes with its replies, of which one that passes takes
its TCNT and is fitted; and a window ends a HANDLE poll. -/
def Obligations.LfPolls : Prop :=
  (∀ (u s : State), s.sys.ready = true → s.pwr.mode = .cab ∨ s.pwr.mode = .drive → s.pwr.parking = .none →
    u = elapseTo (s.radio.presenceAt + presencePeriod s) s → s.radio.poll = none → startHolds s = false →
    canPoll u .presence = true → ∃ t p,
    exec .presencePoll s = .next t ∧ t.radio.poll = some p ∧ p.kind = .presence ∧ p.phase = .telegram ∧ p.n = 8 ∧ p.m = 3 ∧
    p.sent = 0 ∧ p.nonce = random (drawn 2 u) 6 ∧ t.radio.presenceAt = monoUs u ∧ t.radio.presenceDue = false) ∧
  (∀ (p : Poll) (s : State), s.sys.ready = true → s.pwr.mode = .cab ∨ s.pwr.mode = .drive → s.pwr.parking = .none →
    s.radio.poll = some p → ∃ t, exec .presencePoll s = .next t ∧
    t.radio = { s.radio with presenceDue := true }) ∧
  (∀ u s : State, s.pwr.mode = .parked → s.radio.approach ≠ 0 → s.pwr.dormHours < 72 → s.radio.poll = none → s.pwr.slice ≠ none →
    groupGood s 1 = true → u = elapseTo (s.radio.approachAt + 100000 * s.radio.approach) s → canPoll u .approach = true → ∃ t p,
    exec .approachPoll s = .next t ∧ t.radio.poll = some p ∧ p.kind = .approach ∧ p.phase = .telegram ∧ p.n = 8 ∧ p.m = 0 ∧
    p.nonce = random (drawn 2 u) 6 ∧ t.radio.approachDue = false) ∧
  (∀ (p : Poll) (t0 : Nat) (s : State), s.radio.poll = some p → startHolds s = false → p.phase = .telegram →
    p.kind = .presence → p.sent = 0 → segPlan s p = .send (teleUnits p) t0 → ∃ t q,
    exec .lfSegment s = .next t ∧ t.radio.cntTx = s.radio.cntTx + 1 ∧ t.radio.poll = some q ∧
    q.phase = .slots ∧ q.sent = teleUnits p ∧ q.lastEnd = t0 + segDur p (teleUnits p) ∧ q.nonce = p.nonce ∧ segOut s p (teleUnits p) ∈ t.outs) ∧
  (∀ (ch : Fin 48) (early spareFails : Bool) (p : Poll) (s : State), s.radio.poll = some p → telegramOn s p = true →
    ch.val ∈ p.chans → 30 < (detunedPhase s).natAbs ∧ exec (.lfChannelFault ch .detuned early spareFails) s =
    .next (drawn 2 (modLfCh ch.val (fun x => { x with phase := detunedPhase s })
      (lfEvent 0 (modLfCh ch.val (fun x => { x with fault := 3 }) s))))) ∧
  (∀ (ch : Fin 48) (p : Poll) (s : State), s.radio.poll = some p → telegramOn s p = true → ch.val ∈ p.chans → ∃ t q,
    exec (.lfChannelFault ch .sense true false) s = .next t ∧ (tabGet {} t.radio.lfCh ch.val).spare = true ∧
    t.radio.lfEvents = setBits s.radio.lfEvents 0 ∧ t.radio.poll = some q ∧ q.phase = .telegram ∧ q.sent = 0 ∧
    q.lastEnd = s.clk.ns + 200000 ∧ q.nonce = p.nonce ∧ t.flt = s.flt) ∧
  (∀ (ch : Fin 48) (p : Poll) (s : State), s.radio.poll = some p → telegramOn s p = true → ch.val ∈ p.chans → ∃ t,
    exec (.lfChannelFault ch .sense false false) s = .next t ∧ (tabGet {} t.radio.lfCh ch.val).spareNext = true ∧
    (tabGet {} t.radio.lfCh ch.val).spare = (tabGet {} s.radio.lfCh ch.val).spare ∧
    t.radio.lfEvents = setBits s.radio.lfEvents 0 ∧ t.radio.poll = some p ∧ t.flt = s.flt) ∧
  (∀ (ch : Fin 48) (p : Poll) (early spareFails : Bool) (s : State), s.radio.poll = some p → telegramOn s p = true →
    ch.val ∈ p.chans → p.kind = .presence → ∃ t, exec (.lfChannelFault ch .short early spareFails) s = .next t ∧
    unitSt t pLf ch.val ≠ .up) ∧
  (∀ (p : Poll) (k : Nat) (l : List Nat) (u s : State), s.radio.poll = some p → p.phase = .slots → p.slot < p.n →
    p.granted = true → u = elapseToNs (slotAt p p.slot) s → coexSpent p (u.clk.ns + 574000 + nsReplySlot) = false →
    dutyExempt p.kind = true ∨ dutyAllows 574 u = true → chainsUp u = k :: l → ∃ t, exec .replySlotTrigger s = .next t ∧
    t.radio.poll = some (actFrom { p with
      open_ := some p.slot, slot := p.slot + 1, trigAt := u.clk.ns + 574000, waits := 0 } u.clk.ns) ∧
    t.outs = u.outs ++ [Out.pin (30 + k) 1, triggerOut u k (0x4000 + 128 * p.slot + p.n), Out.pin (30 + k) 0]) ∧
  (∀ (p : Poll) (s : State), s.radio.poll = some p → p.phase = .slots → p.slot < p.n → p.granted = false → ∃ t,
    exec .replySlotTrigger s = .next t ∧ t.radio.poll = some { p with waits := 0x24 }) ∧
  (∀ (p : Poll) (u s : State), s.radio.poll = some p → p.phase = .slots → p.slot < p.n → p.granted = true →
    u = elapseToNs (slotAt p p.slot) s → coexSpent p (u.clk.ns + 574000 + nsReplySlot) = false → chainsUp s = [] → ∃ t,
    exec .replySlotTrigger s = .next t ∧ t.radio.poll = some { p with open_ := none, slot := p.slot + 1 } ∧ t.outs = u.outs) ∧
  (∀ (p : Poll) (z : Nat) (s : State), s.radio.poll = some p → p.phase = .slots → p.n ≤ p.slot → p.kind = .handle z →
    s.radio.fits = [] → p.collided = false → s.radio.touchNext = none → s.radio.presenceDue = false →
    s.radio.approachDue = false → s.radio.locates = [] → ∃ t, exec .replyWindowEnd s = .next t ∧ t.radio.poll = none ∧
    t.radio.coexReq = 0) ∧
  (∀ (p : Poll) (slot : Nat) (s : State), s.radio.poll = some p → p.open_ = some slot → p.phase = .slots → secReady s = true →
    canTakeTcnt s = true → exec (.chalReply []) s = .next { s with radio := { s.radio with poll := some { p with open_ := none } } }) ∧
  (∀ (p : Poll) (slot : Nat) (f : TokenFrame) (s : State), s.radio.poll = some p → p.open_ = some slot → p.phase = .slots →
    p.kind = .presence → secReady s = true → canTakeTcnt s = true → frameValid f = true → inSlot s p slot f = true →
    replyCheck s p.m (cmdArg p) p.nonce f = 0 → turnOk (antennaTurn s f) = true → ∃ t, exec (.chalReply [f]) s = .next t ∧
    lastTcnt t (frameTid f) = frameTcnt f ∧ t.radio.poll = some { p with open_ := none } ∧ t.radio.fits = s.radio.fits ++
      [replyFit s p f none]) ∧
  (∀ (p : Poll) (slot : Nat) (f : TokenFrame) (s : State), s.radio.poll = some p → p.open_ = some slot → p.phase = .slots →
    p.kind = .presence → secReady s = true → canTakeTcnt s = true → frameValid f = true → inSlot s p slot f = true →
    replyCheck s p.m (cmdArg p) p.nonce f = 5 → ∃ t, exec (.chalReply [f]) s = .next t ∧
    lastTcnt t (frameTid f) = lastTcnt s (frameTid f) ∧ t.radio.lfEvents = setBits s.radio.lfEvents 3 ∧
    t.radio.fits = s.radio.fits)

/-- Buttons and electrodes (R254, R271, R273, R368, R370, R376): a press with a good RESP takes its TCNT; electrodes report touches, stick,
mask and unmask. -/
def Obligations.ButtonsAndElectrodes : Prop :=
  (∀ (frame : TokenFrame) (e : NearEntry) (u s : State), hearsButtons s = true → frameValid frame = true → ptype frame = 2 →
    frame.payload.length = 21 → beAt frame.payload 1 2 = vwp s → sliceUp s = true → u = noteSlice 7 s →
    nearEntry s (beAt frame.payload 3 4) = some e → secReady u = true → canTakeTcnt u = true →
    e.tcnt < beAt frame.payload 7 4 → beAt frame.payload 7 4 ≤ e.tcnt + 4096 → buttonResp e.key frame.payload = true → ∃ t,
    exec (.button frame) s = .next t ∧ lastTcnt t e.tid = beAt frame.payload 7 4) ∧
  (∀ (frame : TokenFrame) (e : NearEntry) (u s : State), hearsButtons s = true → frameValid frame = true → ptype frame = 2 →
    frame.payload.length = 21 → beAt frame.payload 1 2 = vwp s → sliceUp s = true → u = noteSlice 7 s →
    nearEntry s (beAt frame.payload 3 4) = some e → secReady u = true → canTakeTcnt u = true →
    e.tcnt < beAt frame.payload 7 4 → beAt frame.payload 7 4 ≤ e.tcnt + 4096 → buttonResp e.key frame.payload = false → ∃ t,
    exec (.button frame) s = .next t ∧ lastTcnt t e.tid = e.tcnt ∧ t.radio.lfEvents = setBits s.radio.lfEvents 3) ∧
  (∀ (frame : TokenFrame) (s : State), hearsButtons s = true → frameValid frame = true → ptype frame = 2 →
    frame.payload.length = 21 → beAt frame.payload 1 2 = vwp s → sliceUp s = false → ∃ t, exec (.button frame) s = .next t ∧
    t.radio.heldFrame = some frame ∧ t.pwr.wakeCause = setBits s.pwr.wakeCause 7) ∧
  (∀ (frame : TokenFrame) (s : State), exec (.tokenFrameDiscard frame) s = .next s) ∧
  (∀ (e : Fin 48) (v : Int) (x : Electrode) (u s : State), scanned s e = true → u = scanTime e s →
    x = scanEl (scanPeriod s) (capThresh s e) (monoUs u) v (getEl s e) → x.touched = false → 2 ≤ x.above → x.masked = false →
    s.pwr.mode ≠ .parked → ∃ t, exec (.capacitiveTouch e [v]) s = .next t ∧
    getEl t e = { x with touched := true, since := monoUs u } ∧ t.cap.events = setBits s.cap.events 0 ∧ t.radio = s.radio) ∧
  (∀ (e : Fin 48) (v : Int) (x : Electrode) (z : Zone) (u s : State), scanned s e = true → u = scanTime e s →
    x = scanEl (scanPeriod s) (capThresh s e) (monoUs u) v (getEl s e) → x.touched = false → 2 ≤ x.above → x.masked = false →
    s.pwr.mode = .parked → doorOfHandle s e = some z → s.radio.poll = none → s.pwr.slice ≠ none → groupGood s 1 = true →
    s.pwr.dorming = none → canPoll u (.handle z.id) = true → ∃ t p, exec (.capacitiveTouch e [v]) s = .next t ∧
    t.radio.poll = some p ∧ p.kind = .handle z.id ∧ p.phase = .telegram ∧ p.n = 1 ∧ p.m = 1 ∧
    t.pwr.wakeCause = setBits s.pwr.wakeCause 6) ∧
  (∀ (e : Fin 48) (v : Int) (x : Electrode) (u s : State), scanned s e = true → u = scanTime e s →
    x = scanEl (scanPeriod s) (capThresh s e) (monoUs u) v (getEl s e) → x.touched = true → 2 ≤ x.below → ∃ t,
    exec (.touchEnd (e, [v])) s = .next t ∧ getEl t e = { x with touched := false, since := monoUs u } ∧ t.radio = s.radio) ∧
  (∀ (e : Fin 48) (v : Int) (x : Electrode) (u s : State), scanned s e = true → u = scanTime e s →
    x = scanEl (scanPeriod s) (capThresh s e) (monoUs u) v (getEl s e) → x.touched = false ∧ x.above < 2 ∨ x.touched = true ∧ x.below < 2 → ∃ t,
    exec (.capacitiveTouch e [v]) s = .next t ∧ getEl t e = x ∧ t.cap.events = s.cap.events ∧ t.radio = s.radio) ∧
  (∀ (e : Fin 48) (v : Int) (l : List Int) (s : State), exec (.capacitiveTouch e (v :: l)) s = exec (.capacitiveTouch e l) (oneScan e v s) ∧
    exec (.touchEnd (e, v :: l)) s = exec (.touchEnd (e, l)) (oneScan e v s)) ∧
  (∀ (e : Fin 48) (s : State), (getEl s e).touched = true → (getEl s e).masked = false → scanned s e = true → ∃ t,
    exec (.electrodeStuck e) s = .next t ∧ (getEl t e).masked = true ∧ t.cap.events = setBits s.cap.events 1 ∧
    (getEl s e).since + 30000000 ≤ monoUs t) ∧
  (∀ (e : Fin 48) (s : State), (getEl s e).touched = false → (getEl s e).masked = true → scanned s e = true → ∃ t,
    exec (.electrodeUnmask e) s = .next t ∧ (getEl t e).masked = false ∧ (getEl s e).since + 2000000 ≤ monoUs t) ∧
  (∀ (g : Fin 2) (e : Nat) (s : State), 24 * g.val ≤ e → e < 24 * g.val + 24 → portUp s pCap e = true → ∃ t,
    exec (.capGuardFault g) s = .next t ∧ unitSt t pCap e = .out ∧ t.cap.events = setBits s.cap.events 2)

/-- The Ifeven line (R380, R392–R402, R416, R417): DET readings are kept and ten low ones quarantine a port; a good frame is counted, and one
with a bad header check too; a SOUND frame answers a SOUND_REQ; windows open and close, and a follower's schedule follows its
master and is lost after 30 s without it. -/
def Obligations.IfevenLine : Prop :=
  (∀ (p : Fin 4) (uv : Nat) (s : State), Shaped s → detDue s p = true → 6 ≤ detCode uv → (getPort s p).txEnd ≤ s.clk.ns →
    (getPort s p).link = .down → ∃ t, exec (.iflDetSample p uv) s = .next t ∧ (getPort t p).lows = 0 ∧
    (getPort t p).det = (detCode uv :: (getPort s p).det).take 18 ∧ (getPort t p).link = .down ∧
    (linkMode s = true → ∀ t0, (getPort s p).detAt = some t0 → t0 + 1000 ≤ monoUs t)) ∧
  (∀ (p : Fin 4) (uv : Nat) (s : State), Shaped s → detDue s p = true → detCode uv < 6 → (getPort s p).txEnd ≤ s.clk.ns →
    (getPort s p).link ≠ .quarantined → (getPort s p).lows = 9 → ∃ t, exec (.iflDetSample p uv) s = .next t ∧
    (getPort t p).link = .quarantined ∧ t.ifl.linkEv.getLsbD 3 = true) ∧
  (∀ (p : Fin 4) (f : LineFrame) (u s : State), u = elapseToNs f.start s → hearsStart u p f.flood = true → s.pwr.mode ≠ .parked →
    Shaped s → crc16 (slice f.head 0 5) = beAt f.head 5 2 → headOk f.flood (parseHead f.head) = true →
    forUs s (parseHead f.head).dst = true → (parseHead f.head).map ≠ 4 →
    (parseHead f.head).len = 0 ∨ f.payload.length = (parseHead f.head).len ∧ f.pcrc = crc32 f.payload → ∃ t,
    exec (.iflFrameReceived p f) s = .next t ∧ (getPort t p).cntPre = (getPort s p).cntPre + 1 ∧
    (getPort t p).cntRxOk = (getPort s p).cntRxOk + 1 ∧ (getPort t p).cntHcrc = (getPort s p).cntHcrc ∧ (getPort t p).margin = f.margin ∧
    (getPort t p).gain = frozenGain u p (parseHead f.head).src f.levels ∧ (getPort t p).rxRatio = (trackFrame f (getPort s p)).rxRatio) ∧
  (∀ (p : Fin 4) (f : LineFrame) (u s : State), Shaped s → u = elapseToNs f.start s → hearsStart u p f.flood = true →
    crc16 (slice f.head 0 5) ≠ beAt f.head 5 2 → ∃ t, exec (.iflFrameReceived p f) s = .next t ∧
    (getPort t p).cntPre = (getPort s p).cntPre + 1 ∧ (getPort t p).cntHcrc = (getPort s p).cntHcrc + 1 ∧
    (getPort t p).cntRxOk = (getPort s p).cntRxOk) ∧
  (∀ (p : Fin 4) (f : LineFrame) (s : State), hearsStart (elapseToNs f.start s) p f.flood = false →
    exec (.iflFrameReceived p f) s = .next s) ∧
  (∀ (p : Fin 4) (m : LineMsg) (s : State), Shaped s → hears s p = true → msgOk m 2 2 = true → 1 ≤ byteAt m.payload 1 →
    byteAt m.payload 1 ≤ 5 → (∀ d, (getPort s p).soundDue = some d → d < monoUs s) → ∃ t, exec (.soundReq p m) s = .next t ∧
    getPort t p = { getPort s p with soundDue := some (max s.clk.ns (getPort s p).airEnd / 1000 + 5000) }) ∧
  (∀ (p : Fin 4) (m : LineMsg) (d : Nat) (s : State), (getPort s p).soundDue = some d → monoUs s ≤ d → exec (.soundReq p m) s = .next s) ∧
  (∀ (p : Fin 4) (d : Nat) (s : State), Shaped s → (getPort s p).soundDue = some d → frameStart s p / 1000 ≤ d → canSend s p = true →
    linkMode s = true → ∃ t, exec (.soundFrame p) s = .next t ∧ (getPort t p).soundDue = none ∧
    (getPort t p).cntTx = (getPort s p).cntTx + 1 ∧ t.outs = s.outs ++ [lineOut s p 8 0 (phyDst s p) 1 []]) ∧
  (∀ (p : Fin 4) (d : Nat) (s : State), Shaped s → (getPort s p).soundDue = some d → d < frameStart s p / 1000 → ∃ t,
    exec (.soundFrame p) s = .next t ∧ getPort t p = { getPort s p with soundDue := none } ∧ t.outs = s.outs) ∧
  (∀ (p : Fin 4) (s : State), Shaped s → (getPort s p).tblOld ≠ 0 → ∃ t, exec (.oldTableHoldEnd p) s = .next t ∧
    getPort t p = { getPort s p with tblOld := 0, bitsOld := 0, oldBody := [], oldSeen := false } ∧ (getPort s p).loadFirst + 1000000 ≤ monoUs t) ∧
  (∀ (p : Fin 4) (s : State), Shaped s → (getPort s p).link = .coupledF → linkMode s = true → ∃ t,
    exec (.soundingPeriod p) s = .next t ∧ (getPort t p).soundAt = monoUs t ∧ (getPort s p).soundAt + 10000000 ≤ monoUs t ∧
    (getPort t p).link = .coupledF) ∧
  (∀ (p : Fin 4) (m : LineMsg) (s : State), Shaped s → upstream s p = true → hears s p = true → msgOk m 1 5 = true → ∃ t,
    exec (.tick p m) s = .next t ∧ getPort t p = { getPort s p with winAt := monoUs s - 400, winSeq := beAt m.payload 1 4 } ∧
    t.ifl.winSync = true ∧ t.ifl.masterAt = monoUs s) ∧
  (∀ (p : Fin 4) (s : State), Shaped s → s.pwr.mode = .parked → s.pwr.vaon = true → tricklesOn s = true → lineUp s p = true →
    s.sys.trailer = false ∨ s.ifl.winSync = true → ∃ t,
    exec (.listenWindow p) s = .next t ∧ (getPort t p).winSeq = (getPort s p).winSeq + 1 ∧
    (getPort t p).winAt = (getPort s p).winAt + 1000000 ∧ (getPort s p).winAt + 1000000 ≤ monoUs t + windowWiden s ∧
    (getPort s p).winAt + 1001500 ≤ (getPort t p).searchUntil ∧
    (masterOf s p = true → (getPort s p).winSeq % 2 = 0 → (getPort s p).link ≠ .quarantined → monoUs s ≤ (getPort s p).winAt + 1000000 →
      ∃ start head body, head = headBytes 0 0 (ownPos s) 0xF 1 5 ∧ body = le 1 1 ++ be 4 ((getPort s p).winSeq + 1) ∧
        Out.line p start head body (ballPsd s p) (frameSymbols s 0 (getPort s p).bkTx head body) ∈ t.outs ∧
        1000 * (getPort s p).winAt + 1000400000 ≤ start)) ∧
  (∀ (p : Fin 4) (s : State), Shaped s → s.pwr.mode = .parked → (getPort s p).searchUntil ≠ 0 → ∃ t,
    exec (.windowExtensionEnd p) s = .next t ∧ getPort t p = { getPort s p with searchUntil := 0 } ∧
    (getPort s p).searchUntil ≤ monoUs t) ∧
  (∀ (p : Fin 4) (s : State), Shaped s → upstream s p = true → s.pwr.mode = .parked → s.ifl.winSync = true →
    s.ifl.masterAt + 29000000 ≤ monoUs s → ∃ t, exec (.masterSilence p) s = .next t ∧ t.ifl.winSync = false ∧ t.ifl.ownPos = none ∧
    t.ifl.resyncAt = monoUs t ∧ (getPort t p).events = setBits (getPort s p).events 1) ∧
  (∀ (p : Fin 4) (s : State), Shaped s → upstream s p = true → s.pwr.mode = .parked → s.ifl.winSync = true →
    monoUs s < s.ifl.masterAt + 28000000 → s.ifl.masterAt ≤ monoUs s → ∃ t, exec (.masterSilence p) s = .next t ∧
    t.ifl.winSync = true ∧ (getPort s p).winAt + 1500 + windowWiden t ≤ (getPort t p).searchUntil) ∧
  (∀ (p : Fin 4) (s : State), Shaped s → upstream s p = true → tricklesOn s = true → s.ifl.winSync = false → ∃ t,
    exec (.resyncListen p) s = .next t ∧ (getPort t p).searchUntil = monoUs t + 2100000 ∧ t.ifl.resyncAt = monoUs t ∧
    s.ifl.resyncAt + 60000000 ≤ monoUs t)

/-- Sounding tables (R394–R399): a sounding received becomes a table, which is sent, loaded by the neighbour, sent again and given up. -/
def Obligations.SoundingTables : Prop :=
  (∀ (p : Fin 4) (syms : List (List (Int × Int))) (i : IflRec) (s : State), Shaped s → iflRec s = some i → hears s p = true → ∃ t,
    exec (.soundFrameReceived p syms) s = .next t ∧ (getPort t p).tblRx = (getPort s p).tblSent % 15 + 1 ∧
    (getPort t p).tblSent = (getPort t p).tblRx ∧ (getPort t p).tblOld = (getPort s p).tblRx ∧ (getPort t p).loads = 1 ∧
    (getPort t p).bitsRx = ((carriers.zip (soundStats syms)).map (fun e =>
      if isPilot e.1 || isMasked s e.1 then 0 else loadBits i.margin e.2)).foldl (· + ·) 0) ∧
  (∀ (p : Fin 4) (m : LineMsg) (b : Bytes) (s : State), Shaped s → b = m.payload → hears s p = true → msgOk m 3 536 = true → 1 ≤ byteAt b 1 →
    byteAt b 1 ≤ 15 → zeroAt b 5 3 = true → loadOk s b = true → ∃ t, exec (.iflLoad p m) s = .next t ∧
    getPort t p = { getPort s p with tblTx := byteAt b 1, bitsTx := beAt b 2 2, bkTx := unpackNibbles (slice b 8 528) }) ∧
  (∀ (p : Fin 4) (m : LineMsg) (b : Bytes) (s : State), Shaped s → b = m.payload → hears s p = true → msgOk m 3 536 = true → 1 ≤ byteAt b 1 →
    byteAt b 1 ≤ 15 → zeroAt b 5 3 = true → loadOk s b = false → ∃ t, exec (.iflLoad p m) s = .next t ∧
    getPort t p = { getPort s p with cntPcrc := (getPort s p).cntPcrc + 1 }) ∧
  (∀ (p : Fin 4) (s : State), Shaped s → (getPort s p).oldSeen = true → (getPort s p).tblOld ≠ 0 → canSend s p = true →
    (getPort s p).loads < 4 → ∃ t,
    exec (.loadResend p) s = .next t ∧ (getPort t p).loads = (getPort s p).loads + 1 ∧ (getPort t p).oldSeen = false ∧
    (getPort t p).loadAt = monoUs t ∧ (getPort s p).loadAt + 50000 ≤ monoUs t) ∧
  (∀ (p : Fin 4) (s : State), Shaped s → (getPort s p).oldSeen = true → (getPort s p).tblOld ≠ 0 → canSend s p = true →
    4 ≤ (getPort s p).loads → ∃ t,
    exec (.loadResend p) s = .next t ∧ (getPort t p).tblRx = (getPort s p).tblOld ∧
    (getPort t p).bitsRx = (getPort s p).bitsOld ∧ (getPort t p).tblOld = 0 ∧ (getPort t p).tblSent = (getPort s p).tblSent)

/-- The start lock (R29, R304, R305, R310–R313, R316, R335, R338): a START that passes on its token commits and releases the lock, waits
100 µs for COEX_PRI before its trigger, or for the air, and is refused in Service; a lock request takes the latch where R311 says and is answered with the state; and the timers, the ignition and
the retry of a record whose cause still holds move the latch. -/
def Obligations.StartLock : Prop :=
  (∀ (r tid zone : Nat) (ev : StartEvidence) (f g : Flight) (p : Poll) (s u v w x : State), Ready 0x0300 r f s → startReady s r f ev = true →
    s.radio.startWait = none → airFree s = true → s.pwr.mode = .cab ∨ s.pwr.mode = .drive →
    x = firstChallenge r f (modRadio (fun b => { b with startDue := none }) (started r s)) → x.radio.poll = some p →
    p.phase ≠ .slots ∨ coexPairs x 0 = [] → w = modRadio (fun b => { b with poll := some p, session := none }) x →
    (startPolicyOf w r).reqCard = false →
    rangeAll r (startLimit w r f) (startPolicyOf w r).tokenNs (startPairs w != []) (startCands w (fieldLE f.raw 24 4)) ev.tokens
      (failFate fAbsent 0x20) w = .pass (tid, zone) v →
    monoUs v < startLimit w r f → u = putSession s.radio.poll (priFall v) → getFlight u r = some g → g.fate = none →
    u.slk.lockReqOps ≤ r → u.slc.epoch = f.epochAdm → commitHolds f true u = true →
    canLog (lockRecord (latch u) (startTarget u) 0x01 tid (nextFresh u) f.ten (dSeq f.raw) u) u = true → ∃ t,
    exec (.start r ev) s = .next t ∧ latch t = startTarget u ∧ t.slk.bound = tid ∧ t.slk.cause = 0x01 ∧
    Done r (latchNo (startTarget u) + 256 * zone + 65536 * tid) t) ∧
  (∀ (r : Nat) (ev : StartEvidence) (f : Flight) (p : Poll) (s x : State), Ready 0x0300 r f s → startReady s r f ev = true →
    s.radio.startWait = none → airFree s = true → s.pwr.mode = .cab ∨ s.pwr.mode = .drive →
    x = firstChallenge r f (modRadio (fun b => { b with startDue := none }) (started r s)) → x.radio.poll = some p →
    p.phase = .slots → coexPairs x 0 ≠ [] → ∃ t, exec (.start r ev) s = .next t ∧ t.radio.startWait = some (r, monoUs t, ev) ∧
    t.radio.session = some p ∧ t.radio.coexPri = true ∧ t.radio.coexReq = x.radio.coexReq ||| pairMask (coexPairs x 0) ∧
    slotAt p 0 ≤ t.clk.ns + 100000 ∧ t.slk = s.slk) ∧
  (∀ (r t0 tid zone : Nat) (ev : StartEvidence) (f g : Flight) (s u v w x : State), s.radio.startWait = some (r, t0, ev) →
    Running 0x0300 r f s → x = modRadio (fun b => { b with startWait := none }) (elapseTo (t0 + 100) s) →
    w = modRadio (fun b => { b with poll := b.session, session := none }) x → (startPolicyOf w r).reqCard = false →
    rangeAll r (startLimit w r f) (startPolicyOf w r).tokenNs (startPairs w != []) (startCands w (fieldLE f.raw 24 4)) ev.tokens
      (failFate fAbsent 0x20) w = .pass (tid, zone) v →
    monoUs v < startLimit w r f → u = putSession x.radio.poll (priFall v) → getFlight u r = some g → g.fate = none →
    u.slk.lockReqOps ≤ r → u.slc.epoch = f.epochAdm → commitHolds f true u = true →
    canLog (lockRecord (latch u) (startTarget u) 0x01 tid (nextFresh u) f.ten (dSeq f.raw) u) u = true → ∃ t,
    exec .coexPriLead s = .next t ∧ latch t = startTarget u ∧ t.slk.bound = tid ∧ t.slk.cause = 0x01 ∧ t.radio.coexPri = false ∧
    Done r (latchNo (startTarget u) + 256 * zone + 65536 * tid) t) ∧
  (∀ (r : Nat) (ev : StartEvidence) (f : Flight) (s : State), getFlight s r = some f → startReady s r f ev = true →
    s.radio.startWait = none → airFree s = false → startTurn s r f = true →
    exec (.start r ev) s = .next { s with radio := { s.radio with startDue := some r } }) ∧
  (∀ (r : Nat) (ev : StartEvidence) (f : Flight) (s : State), Ready 0x0300 r f s → startReady s r f ev = true →
    s.radio.startWait = none → airFree s = true → s.pwr.mode = .service → ∃ t, exec (.start r ev) s = .next t ∧
    Ended r fPolicy 0 0x28 t ∧ t.slk = s.slk) ∧
  (∀ (r : Nat) (new : Latch) (f : Flight) (s : State), Ready 0x0301 r f s → (board s).isSome = true → requestTarget 0x02 s = some new →
    canLog (lockRecord (latch s) new 0x02 s.slk.bound (nextFresh s) f.ten (dSeq f.raw) s) s = true → ∃ t,
    exec (.lockReq r) s = .next t ∧ Done r (latchNo new) t ∧ latch t = new ∧ t.slk.cause = 0x02) ∧
  (∀ (r : Nat) (f : Flight) (s : State), Ready 0x0301 r f s → requestTarget 0x02 s = none ∨ board s = none → ∃ t,
    exec (.lockReq r) s = .next t ∧ Done r (latchNo (latch s)) t ∧ latch t = latch s) ∧
  (∀ (r : Nat) (f : Flight) (s : State), Ready 0x0302 r f s → ∃ t, exec (.lockStatus r true) s = .next t ∧ Done r 0 t ∧
    t.outs = s.outs ++ [Out.hostWrite (rangeOf f 0).func (rangeOf f 0).addr (lockStatusBytes s)]) ∧
  (∀ (t0 : Nat) (s u : State), s.slk.timerEnd = some t0 → s.slk.timerKind = 1 → latch s = .armed → u = elapseTo t0 s →
    (board u).isSome = true → canLog (lockRecord .armed .locked 0x0B u.slk.bound (nextFresh u) 0xFFFF 0 u) u = true → ∃ t,
    exec .armHoldExpiry s = .next t ∧ latch t = .locked ∧ t.slk.cause = 0x0B ∧ t0 ≤ monoUs t) ∧
  (∀ (t0 : Nat) (s u : State), s.slk.timerEnd = some t0 → s.slk.timerKind = 1 → latch s = .armed → u = elapseTo t0 s →
    (board u).isSome = true → canLog (lockRecord .armed .locked 0x0B u.slk.bound (nextFresh u) 0xFFFF 0 u) u = false → ∃ t,
    exec .armHoldExpiry s = .next t ∧ latch t = .armed ∧
    ({ cause := 0x0B, tid := s.slk.bound, ten := 0xFFFF, seq := 0 } : SlkRetry) ∈ t.slk.retry ∧
    (s.slk.retry = [] → t.slk.retryAt = monoUs u + 100000)) ∧
  (∀ (t0 : Nat) (new : Latch) (s u : State), s.slk.ignOffAt = some t0 → ignAsserted s = false → s.sys.ready = true →
    s.slk.policy.autoLock = true → s.pwr.mode ≠ .hearth →
    u = modSlk (fun b => { b with ignOffAt := none }) (elapseTo (t0 + 2000000) s) →
    (board u).isSome = true → requestTarget 0x03 u = some new → canLog (lockRecord (latch u) new 0x03 u.slk.bound (nextFresh u) 0xFFFF 0 u) u = true → ∃ t,
    exec .ignitionOffDebounce s = .next t ∧ latch t = new ∧ t.slk.cause = 0x03 ∧ t.slk.ignOffAt = none) ∧
  (∀ (t0 : Nat) (s : State), s.slk.ignOffAt = some t0 → ignAsserted s = false → s.sys.ready = true →
    s.slk.policy.autoLock = false → ∃ t, exec .ignitionOffDebounce s = .next t ∧ t.slk = { s.slk with ignOffAt := none }) ∧
  (∀ (t0 : Nat) (s u : State), s.slk.timerEnd = some t0 → s.slk.timerKind = 2 → latch s = .released → u = elapseTo t0 s →
    s.slk.winDue = false → cranking u = false → atRest u = true → s.pwr.mode ≠ .hearth → (board u).isSome = true →
    canLog (lockRecord .released .locked 0x04 u.slk.bound (nextFresh u) 0xFFFF 0 u) u = true → ∃ t,
    exec .releaseWindowExpiry s = .next t ∧ latch t = .locked ∧ t.slk.cause = 0x04) ∧
  (∀ (t0 : Nat) (s u : State), s.slk.timerEnd = some t0 → s.slk.timerKind = 2 → latch s = .released → u = elapseTo t0 s →
    s.slk.winDue = false → cranking u = true → monoUs u < s.slk.winCap → ∃ t, exec .releaseWindowExpiry s = .next t ∧
    t.slk = { s.slk with winDue := true, timerEnd := some s.slk.winCap }) ∧
  (∀ (t0 : Nat) (s u : State), s.slk.timerEnd = some t0 → s.slk.timerKind = 2 → latch s = .released → s.slk.winDue = true →
    crankedTo s < 1000 * t0 → u = elapseToNs (crankedTo s) s → cranking u = false → atRest u = true → s.pwr.mode ≠ .hearth →
    (board u).isSome = true → canLog (lockRecord .released .locked 0x04 u.slk.bound (nextFresh u) 0xFFFF 0 u) u = true → ∃ t,
    exec .releaseWindowExpiry s = .next t ∧ latch t = .locked ∧ t.slk.cause = 0x04 ∧ t.clk.ns = u.clk.ns) ∧
  (∀ (t0 : Nat) (s u : State), s.slk.timerEnd = some t0 → s.slk.timerKind = 3 → latch s = .deferred → atRest s = true →
    u = elapseTo t0 s → atRest u = true → (board u).isSome = true →
    canLog (lockRecord .deferred .locked 0x05 u.slk.bound (nextFresh u) 0xFFFF 0 u) u = true → ∃ t,
    exec .lockHoldExpiry s = .next t ∧ latch t = .locked ∧ t.slk.cause = 0x05) ∧
  (∀ (w : SlkRetry) (s u : State), s.slk.retry = [w] → w.cause = 0x0B → s.pwr.mode ≠ .hearth → latch s = .armed →
    u = modSlk (fun b => { b with retry := [] }) (elapseTo s.slk.retryAt s) → timerOver 1 u = true → (board u).isSome = true →
    canLog (lockRecord .armed .locked 0x0B u.slk.bound (nextFresh u) 0xFFFF 0 u) u = true → ∃ t,
    exec .slkLedgerRetry s = .next t ∧ latch t = .locked ∧ t.slk.cause = 0x0B ∧ t.slk.retry = []) ∧
  (∀ (w : SlkRetry) (s u : State), s.slk.retry = [w] → w.cause = 0x0B → s.pwr.mode ≠ .hearth →
    u = modSlk (fun b => { b with retry := [] }) (elapseTo s.slk.retryAt s) → latch u ≠ .armed ∨ timerOver 1 u = false →
    exec .slkLedgerRetry s = .next u)

/-- The lock's frames and balls (R324–R328, R333, R335, R581): state frames carry the next FRESH value; the latch is reconciled after a
release; CAN ports fall and return; and a disagreement of the SLK balls is reported and moves nothing. -/
def Obligations.LockFramesAndBalls : Prop :=
  (∀ (t0 p : Nat) (s u : State), s.slk.frameAt = some t0 → stateFramesOn s = true →
    u = elapseTo (t0 + 1000 * s.slk.policy.periodMs) s → stateFramesOn u = true → framePort u s.slk.policy.framePort = some p →
    s.slk.freshState + 1 < 0xFFFFFFFF → canLog (.intent 1 (s.slk.freshState + 1)) u = true → ∃ t,
    exec .stateFramePeriod s = .next t ∧ t.slk.freshState = s.slk.freshState + 1 ∧ t.slk.frameAt = some (monoUs u) ∧
    t.outs = u.outs ++ [Out.can p s.slk.policy.stateId.toNat (macFrame s s.slk.policy.stateId
      (le 1 1 ++ le 1 (latchNo (latch s)) ++ le 1 (lockFlags u) ++ le 1 s.slk.cause ++ be 4 (s.slk.freshState + 1)))]) ∧
  (∀ (t0 : Nat) (s u : State), s.slk.reconcileAt = some t0 → s.sys.ready = true → s.slk.hearthExit = false →
    u = modSlk (fun b => { b with reconciled := true, reconcileAt := none }) (elapseTo t0 s) → latch s = .released →
    engineRunning u = true → (board u).isSome = true → canLog (lockRecord .released .running 0x0C u.slk.bound (nextFresh u) 0xFFFF 0 u) u = true → ∃ t,
    exec .reconciliation s = .next t ∧ latch t = .running ∧ t.slk.cause = 0x0C ∧ t.slk.reconciled = true ∧
    t.slk.reconcileAt = none) ∧
  (∀ (t0 : Nat) (s : State), s.slk.reconcileAt = some t0 → s.sys.ready = true → s.slk.hearthExit = false → latch s = .locked → ∃ t,
    exec .reconciliation s = .next t ∧ latch t = .locked ∧ t.slk.reconciled = true ∧ t.slk.reconcileAt = none) ∧
  (∀ (p : Fin 6) (s : State), portUp s pCan p = true → s.flt.canBusoff.getLsbD p = false → ∃ t, exec (.canBusOff p) s = .next t ∧
    t.flt.canBusoff = setBits s.flt.canBusoff p ∧ t.slk.portOff = setBits s.slk.portOff p ∧
    tabFind t.slk.busOffAt p = some (monoUs s) ∧ latch t = latch s) ∧
  (∀ (p : Fin 6) (t0 : Nat) (s : State), tabFind s.slk.busOffAt p = some t0 → ∃ t, exec (.canBusoffRecovery p) s = .next t ∧
    t.flt.canBusoff.getLsbD p = false ∧ tabFind t.slk.busOffAt p = none ∧ tabFind t.slk.activeAt p = some (monoUs t) ∧
    t.slk.portOff = s.slk.portOff ∧ t0 + 100000 ≤ monoUs t) ∧
  (∀ (p : Fin 6) (t0 : Nat) (s : State), tabFind s.slk.activeAt p = some t0 → ∃ t, exec (.canPortReturn p) s = .next t ∧
    t.slk.portOff.getLsbD p = false ∧ tabFind t.slk.activeAt p = none ∧ t0 + 1000000 ≤ monoUs t ∧ latch t = latch s) ∧
  (∀ s : State, s.flt.slkMismatch.getLsbD 0 = false → ∃ t, exec (.slkMismatch false false) s = .next t ∧
    t.flt.slkMismatch = setBits s.flt.slkMismatch 0 ∧ t.slk = s.slk) ∧
  (∀ s : State, s.flt.slkMismatch.getLsbD 0 = true → ∃ t, exec (.slkMismatch false true) s = .next t ∧
    t.flt.slkMismatch.getLsbD 0 = false ∧ t.slk = s.slk) ∧
  (∀ (b : BoardRec) (s : State), board s = some b → b.slk1 = true → s.flt.slkMismatch.getLsbD 1 = false → ∃ t,
    exec (.slkMismatch true false) s = .next t ∧ t.flt.slkMismatch = setBits s.flt.slkMismatch 1 ∧ t.slk = s.slk)

/-- Contactless readers (R344–R346, R371, R374): a reader's first burst gives the baseline; a later one that differs from it by more than
4 % or 3° starts a poll, of which a card goes to the card event list and one without a card gives the new baseline; one that does not
differ lets the baseline follow; a bad coil takes the reader out of service, and it is tried again. -/
def Obligations.ContactlessReaders : Prop :=
  (∀ (k : Fin 8) (amp : Nat) (phase : Int) (u s : State), nfcOn s = true → portUp s pNfc k = true → readerBusy s k = false →
    (getReader s k).base = none → u = detTime k s → ∃ t, exec (.nfcDetection k amp phase false false) s = .next t ∧ t.nfc.xs = s.nfc.xs ∧
    (getReader t k).base = some (1000000 * (amp : Int), 1000000 * phase) ∧ (getReader t k).detAt = some (monoUs u) ∧
    (getReader t k).delta = 0 ∧ t.outs = s.outs ++ [Out.cardCtl k .burst]) ∧
  (∀ (k : Fin 8) (amp : Nat) (phase : Int) (b v : Int × Int) (u s : State), nfcOn s = true → portUp s pNfc k = true →
    readerBusy s k = false → (getReader s k).base = some b → v = (1000000 * (amp : Int), 1000000 * phase) → detuned b v = true →
    u = detTime k s → ∃ t y, exec (.nfcDetection k amp phase false false) s = .next t ∧ y ∈ t.nfc.xs ∧ y.op = 2 ^ 41 + k.val ∧ y.poll = true ∧
    y.readers = [k.val] ∧ y.step = .activate ∧ y.act = .reqa ∧ (getReader t k).delta = detDelta b v ∧ (getReader t k).reading = v ∧
    (getReader t k).base = some b ∧ t.outs = s.outs ++ [Out.cardCtl k .burst, Out.cardCtl k .reqa]) ∧
  (∀ (k : Fin 8) (amp : Nat) (phase : Int) (t0 : Nat) (b v : Int × Int) (u s : State), nfcOn s = true → portUp s pNfc k = true →
    readerBusy s k = false → (getReader s k).base = some b → (getReader s k).detAt = some t0 →
    v = (1000000 * (amp : Int), 1000000 * phase) → detuned b v = false → u = detTime k s → ∃ t,
    exec (.nfcDetection k amp phase false false) s = .next t ∧ t.nfc.xs = s.nfc.xs ∧ (getReader t k).delta = detDelta b v ∧
    (getReader t k).base = some (drift (monoUs u - t0) b v) ∧ t.outs = s.outs ++ [Out.cardCtl k .burst]) ∧
  (∀ (amp base : Nat), detuned (1000000 * (base : Int), 0) (1000000 * (amp : Int), 0) = true ↔
    100 * amp > 104 * base ∨ 100 * amp < 96 * base) ∧
  (∀ (k : Fin 8) (amp : Nat) (phase : Int) (opened shorted : Bool) (s : State), nfcOn s = true → portUp s pNfc k = true →
    readerBusy s k = false → (opened || shorted) = true → s.nfc.xs = [] → ∃ t, exec (.nfcDetection k amp phase opened shorted) s = .next t ∧
    unitSt t pNfc k = .out ∧ (getReader t k).fault = coilFault (coilOf opened shorted) ∧ (getReader t k).outAt = monoUs t ∧
    t.nfc.events = setBits s.nfc.events 0) ∧
  (∀ (k : Fin 8) (x : Xchg) (d : Bytes) (sw : Nat) (s : State), xchgOn s k = some x → getFlight s x.op = none → x.node = none →
    x.poll = true → x.step = .selectSeal → ∃ t, exec (.cardResponse ⟨k, by omega⟩ (.apdu d sw) true) s = .next t ∧
    t.nfc.events = setBits s.nfc.events 1 ∧ t.nfc.cardEvents = s.nfc.cardEvents ++
      [(k.val, { typ := x.typ, ident := x.ident, driver := x.driver, isSeal := sw == 0x9000 })]) ∧
  (∀ (k : Fin 8) (x : Xchg) (s : State), xchgOn s k = some x → getFlight s x.op = none → x.node = none → x.poll = true →
    x.found = false → x.step = .activate → x.act = .reqb 16 16 → ∃ t, exec (.cardResponse ⟨k, by omega⟩ .noCard true) s = .next t ∧
    (getReader t k).base = some (getReader s k).reading ∧ t.nfc.xs = s.nfc.xs.filter (fun y => y.op != x.op) ∧
    t.nfc.cardEvents = s.nfc.cardEvents) ∧
  (∀ (k : Fin 8) (s : State), nfcOn s = true → fitted s pNfc k = true → unitSt s pNfc k = .out →
    (getReader s k).fault = 1 ∨ (getReader s k).fault = 2 → ∃ t, exec (.readerRetry k .good) s = .next t ∧
    unitSt t pNfc k = .up ∧ (getReader t k).fault = 0 ∧ (getReader s k).outAt + 10000000 ≤ monoUs t)

/-- Cards and the NFC class (R346–R352, R360–R367, R372, R373): cards activated, selected and answered step by step, a driver card's and a
seal's result, extensions and waits, and the NFC descriptors. -/
def Obligations.ContactlessCards : Prop :=
  (∀ (rd : Fin 64) (x y : Xchg) (resp : CardBlock) (c : CardCtl) (a : ActStep) (s : State), rd.val < 8 → xchgOn s rd = some x →
    x.step = .activate → actNext ((x.limit).getD s.nfc.maxRate) x resp = some (.send c a, y) → ∃ t,
    exec (.cardResponse rd resp true) s = .next t ∧ t.outs = s.outs ++ [Out.cardCtl rd c] ∧
    { y with act := a, waitEnd := monoUs s + fwtUs 4 } ∈ t.nfc.xs) ∧
  (∀ (rd : Fin 64) (x y : Xchg) (resp : CardBlock) (rate : Nat) (f : Flight) (s : State), rd.val < 8 → xchgOn s rd = some x →
    getFlight s x.op = some f → x.node = none → x.step = .activate → dOpc f.raw = 0x0400 →
    actNext ((x.limit).getD s.nfc.maxRate) x resp = some (.active rate, y) → y.sfgi = 0 → 16 ≤ y.fsc → ∃ t z,
    exec (.cardResponse rd resp true) s = .next t ∧ z ∈ t.nfc.xs ∧ z.op = x.op ∧ z.step = .selectDriver ∧ z.rate = 2 ^ rate ∧
    z.ident = y.ident ∧ t.outs = s.outs ++ [Out.card rd false (selectApdu driverAid)]) ∧
  (∀ (rd : Fin 64) (x : Xchg) (d : Bytes) (s : State), rd.val < 8 → xchgOn s rd = some x → x.step ≠ .activate → drawWaits x s = false → ∃ t,
    exec (.cardResponse rd (.more d) true) s = .next t ∧ t.outs = s.outs ++ [Out.cardCtl rd .ack] ∧
    { x with rx := x.rx ++ d, acked := true, naks := 0, waitEnd := waitUntil s x (fwtUs x.fwi) } ∈ t.nfc.xs) ∧
  (∀ (rd : Fin 64) (x : Xchg) (b : Bytes) (l : List Bytes) (s : State), rd.val < 8 → xchgOn s rd = some x → x.step ≠ .activate →
    drawWaits x s = false → x.out = b :: l → ∃ t, exec (.cardResponse rd .ack true) s = .next t ∧
    t.outs = s.outs ++ [Out.card rd (!l.isEmpty) b] ∧ { x with out := l, naks := 0, waitEnd := waitUntil s x (fwtUs x.fwi) } ∈ t.nfc.xs) ∧
  (∀ (rd : Fin 64) (x : Xchg) (f : Flight) (d : Bytes) (s : State), rd.val < 8 → xchgOn s rd = some x →
    getFlight s x.op = some f → x.step = .selectDriver → canDraw s = true → noNonce s = false →
    (apdu 0x60 (random s 32)).length + 3 ≤ x.fsc → ∃ t y,
    exec (.cardResponse rd (.apdu d 0x9000) true) s = .next t ∧ y ∈ t.nfc.xs ∧ y.op = x.op ∧ y.step = .cardAuth ∧
    y.chal = random s 32 ∧ t.outs = s.outs ++ [Out.card rd false (apdu 0x60 (random s 32))]) ∧
  (∀ (rd : Fin 64) (x : Xchg) (f : Flight) (d : Bytes) (s : State), rd.val < 8 → xchgOn s rd = some x →
    getFlight s x.op = some f → f.fate = none → x.step = .cardAuth → x.rx = [] → pkeUp s = true → cardCode s x.chal d = some 0 →
    dLen f.raw = 0 → ∃ t, exec (.cardResponse rd (.apdu d 0x9000) true) s = .next t ∧
    Done x.op (rd.val + 256 * byteAt d 16 + 65536 * leAt (slice d 0 16) 0 5) t ∧
    t.nfc.xs = s.nfc.xs.filter (fun y => y.op != x.op) ∧ t.sec.cntPke = s.sec.cntPke + 1) ∧
  (∀ (rd : Fin 64) (x : Xchg) (f : Flight) (d : Bytes) (s : State), rd.val < 8 → xchgOn s rd = some x →
    getFlight s x.op = some f → f.fate = none → x.step = .change → x.rx = [] → infoMode x = 1 → d.length = 5 → ∃ t,
    exec (.cardResponse rd (.apdu d 0x9000) true) s = .next t ∧
    Done x.op (beAt d 0 4 + 2 ^ 32 * (if isOpenOp f then 1 else 2) + 2 ^ 40 * byteAt d 4) t ∧
    t.nfc.xs = s.nfc.xs.filter (fun y => y.op != x.op)) ∧
  (∀ (rd : Fin 64) (x : Xchg) (f : Flight) (s : State), rd.val < 8 → xchgOn s rd = some x → getFlight s x.op = some f →
    f.fate = none → x.step = .change → x.outstanding = true → ∃ t, exec (.cardResponse rd .noCard true) s = .next t ∧
    Ended x.op fPartial 0 0x28 t ∧ t.nfc.xs = s.nfc.xs.filter (fun y => y.op != x.op)) ∧
  (∀ (rd : Fin 64) (x : Xchg) (m : BitVec 8) (s : State), rd.val < 8 → xchgOn s rd = some x → x.step ≠ .activate →
    1 ≤ m.toNat → m.toNat ≤ 59 → monoUs s + min (m.toNat * fwtUs x.fwi) 4949000 ≤ x.started + 1000 * ceilOf s x → ∃ t,
    exec (.wtxRequest rd m) s = .next t ∧ t.outs = s.outs ++ [Out.cardCtl rd (.wtx m.toNat)] ∧
    { x with waitEnd := monoUs s + min (m.toNat * fwtUs x.fwi) 4949000 } ∈ t.nfc.xs) ∧
  (∀ (rd : Fin 64) (x : Xchg) (f : Flight) (m : BitVec 8) (s : State), rd.val < 8 → xchgOn s rd = some x → x.step ≠ .activate →
    1 ≤ m.toNat → m.toNat ≤ 59 → x.started + 1000 * ceilOf s x < monoUs s + min (m.toNat * fwtUs x.fwi) 4949000 →
    x.node = none → getFlight s x.op = some f → f.fate = none → x.outstanding = false → ∃ t,
    exec (.wtxRequest rd m) s = .next t ∧ Ended x.op fTimeout 0 0x26 t ∧ t.nfc.events = setBits s.nfc.events 4) ∧
  (∀ (rd : Fin 64) (x : Xchg) (u s : State), rd.val < 8 → xchgOn s rd = some x → x.step ≠ .activate → u = elapseTo x.waitEnd s →
    monoUs u < x.started + 1000 * ceilOf s x → x.naks < 2 → ∃ t, exec (.frameWaitExpiry rd) s = .next t ∧
    t.outs = u.outs ++ [Out.cardCtl rd (if x.acked then .ack else .nak)] ∧ { x with
      naks := x.naks + 1, waitEnd := min (monoUs u + fwtUs x.fwi) (x.started + 1000 * ceilOf s x) } ∈ t.nfc.xs) ∧
  (∀ (rd : Fin 64) (x : Xchg) (f : Flight) (u s : State), rd.val < 8 → xchgOn s rd = some x → x.step ≠ .activate →
    u = elapseTo x.waitEnd s → monoUs u < x.started + 1000 * ceilOf s x → 2 ≤ x.naks → getFlight s x.op = some f →
    f.fate = none → x.outstanding = false → ∃ t, exec (.frameWaitExpiry rd) s = .next t ∧ Ended x.op fTimeout 0 0x27 t) ∧
  (∀ (rd : Fin 64) (x y : Xchg) (c : CardCtl) (a : ActStep) (u s : State), rd.val < 8 → xchgOn s rd = some x → x.step = .activate →
    u = elapseTo x.waitEnd s → actNext ((x.limit).getD s.nfc.maxRate) x .noCard = some (.send c a, y) → ∃ t,
    exec (.frameWaitExpiry rd) s = .next t ∧ t.outs = u.outs ++ [Out.cardCtl rd c]) ∧
  (∀ (r k : Nat) (ks : List Nat) (f : Flight) (s : State), Ready 0x0400 r f s → (namedReaders f).any (readerBusy s) = false →
    (namedReaders f).all (unitThere s) = true → (namedReaders f).filter (readerUp s) = k :: ks → k < 8 → ∃ t y,
    exec (.cardAuth r) s = .next t ∧ y ∈ t.nfc.xs ∧ y.op = r ∧ y.readers = k :: ks ∧ y.step = .activate ∧
    y.act = .reqa ∧ y.started = monoUs t ∧ ((getReader s k).field = false → (getReader s k).offAt + 10000 ≤ monoUs t) ∧
    t.outs = s.outs ++ [Out.cardCtl k .reqa]) ∧
  (∀ (r k : Nat) (f : Flight) (s : State), Ready 0x0401 r f s → (namedReaders f).any (readerBusy s) = false →
    (namedReaders f).all (unitThere s) = true → (namedReaders f).filter (readerUp s) = [k] → k < 8 → ∃ t y,
    exec (.sealScan r) s = .next t ∧ y ∈ t.nfc.xs ∧ y.op = r ∧ y.readers = [k] ∧ y.step = .activate ∧
    t.outs = s.outs ++ [Out.cardCtl k .reqa]) ∧
  (∀ (r k : Nat) (h : Handle) (f : Flight) (s : State), Ready 0x0402 r f s → secReady s = true → noNonce s = false →
    (namedReaders f).any (readerBusy s) = false → (namedReaders f).all (unitThere s) = true →
    (namedReaders f).filter (readerUp s) = [k] → k < 8 → findHandle (started r s) r f.ten (fieldLE f.raw 40 8) = .ok h →
    keyCurrent s h = true → h.subtree = 0 → ∃ t y, exec (.sealSecure r) s = .next t ∧ y ∈ t.nfc.xs ∧ y.op = r ∧
    y.readers = [k] ∧ y.step = .activate ∧ t.outs = s.outs ++ [Out.cardCtl k .reqa]) ∧
  (∀ (r k : Nat) (h : Handle) (f : Flight) (s : State), Ready 0x0403 r f s → secReady s = true → noNonce s = false →
    (namedReaders f).any (readerBusy s) = false → (namedReaders f).all (unitThere s) = true →
    (namedReaders f).filter (readerUp s) = [k] → k < 8 → findHandle (started r s) r f.ten (fieldLE f.raw 40 8) = .ok h →
    keyCurrent s h = true → h.subtree = 0 → ∃ t y, exec (.sealOpen r) s = .next t ∧ y ∈ t.nfc.xs ∧ y.op = r ∧
    y.readers = [k] ∧ y.step = .activate ∧ t.outs = s.outs ++ [Out.cardCtl k .reqa]) ∧
  (∀ (r k : Nat) (h : Handle) (f : Flight) (s : State), Ready 0x0404 r f s → secReady s = true → noNonce s = false →
    (namedReaders f).any (readerBusy s) = false → (namedReaders f).all (unitThere s) = true →
    (namedReaders f).filter (readerUp s) = [k] → k < 8 → findHandle (started r s) r f.ten (fieldLE f.raw 40 8) = .ok h →
    keyCurrent s h = true → h.subtree = 0 → ∃ t y, exec (.sealRead r) s = .next t ∧ y ∈ t.nfc.xs ∧ y.op = r ∧
    y.readers = [k] ∧ y.step = .activate ∧ t.outs = s.outs ++ [Out.cardCtl k .reqa]) ∧
  (∀ (r : Nat) (f : Flight) (s : State), Ready 0x0402 r f s → secReady s = true → (namedReaders f).any (readerBusy s) = false →
    (namedReaders f).all (unitThere s) = true → (namedReaders f).filter (readerUp s) = [] → (namedReaders f) ≠ [] → ∃ t,
    exec (.sealSecure r) s = .next t ∧ Ended r fDevice 0 0x29 t ∧ t.nfc = s.nfc) ∧
  (∀ (r : Nat) (f : Flight) (s : State), Ready 0x0405 r f s → ∃ t, exec (.capRead r true) s = .next t ∧
    Done r (touchMask s) t ∧
    t.outs = s.outs ++ [Out.hostWrite (rangeOf f 0).func (rangeOf f 0).addr (capReadBytes s)])

/-- Soundings, fits and coexistence (R263, R266, R275–R277, R280, R282, R283, R289, R294, R297): a chain's error is taken out of its setting, and
beyond 3 dB the chain out of service; a synthesiser fails; a burst goes out and the report is asked for; a report and a fit that pass
give a LOCATE its result, and a turnaround out of bound ends it; grants come, fail to come and fall; and a track ages. -/
def Obligations.SoundingsAndCoexistence : Prop :=
  (∀ (temp e : Int) (s : State), s.sys.ready = true ∨ s.pwr.mode = .parked → 0 ∈ chainsUp s → e.natAbs ≤ 30 → ∃ t,
    exec (.uhfPowerCorrection temp [e]) s = .next t ∧ (tabGet {} t.radio.uhfCh 0).pwrErr = e ∧
    (tabGet {} t.radio.uhfCh 0).trim = (tabGet {} s.radio.uhfCh 0).trim - roundDiv e 5 ∧ unitSt t pUhf 0 = .up ∧
    t.flt = s.flt) ∧
  (∀ (temp e : Int) (s : State), s.sys.ready = true ∨ s.pwr.mode = .parked → 0 ∈ chainsUp s → 30 < e.natAbs → ∃ t,
    exec (.uhfPowerCorrection temp [e]) s = .next t ∧ (tabGet {} t.radio.uhfCh 0).fault = 1 ∧ unitSt t pUhf 0 = .out ∧
    t.radio.uhfEvents = setBits s.radio.uhfEvents 0) ∧
  (∀ (b : Bool) (s : State), unitSt s uSyn (ofBool b) = .up → s.radio.poll = none → ∃ t, exec (.synthFault b) s = .next t ∧
    unitSt t uSyn (ofBool b) = .out ∧ t.radio = { s.radio with uhfEvents := setBits s.radio.uhfEvents 1 }) ∧
  (∀ (r c k : Nat) (l ks : List Nat) (p : Poll) (u : UhfRec) (v s : State), s.radio.poll = some p → uhfRec s = some u →
    p.kind = .locate r → p.phase = .sound → startHolds s = false → p.plan = c :: l → p.granted = true →
    pausedTooLong p s.clk.ns = false → pausedTooLong p p.planAt = false → coexSpent p (p.planAt + burstDur s c) = false →
    v = elapseToNs p.planAt s → dutyAllows (burstUs c) v = true → chainsUp v = k :: ks → ∃ t q,
    exec .soundBurst s = .next t ∧ t.radio.poll = some q ∧ q.tone = p.tone + c ∧ q.bursts = p.bursts + 1 ∧
    q.burstTone = p.tone ∧ q.burstEnd = p.planAt + burstDur v c ∧
    q.phase = (if planTones u ≤ p.tone + c then .report else .sound) ∧
    triggerOut v k (0x8000 + 128 * p.tone + 64 * ofBool (oneSynth v) + c) ∈ t.outs ∧
    ∀ i, i < c → Out.tone k (toneFreq u (p.tone + i)) (rfout v u.txpTone k) (tonePeriod v) ∈ t.outs) ∧
  (∀ (r k : Nat) (ks : List Nat) (p : Poll) (u : UhfRec) (v s : State), s.radio.poll = some p → uhfRec s = some u →
    p.kind = .locate r → p.phase = .report → p.reports < 3 → startHolds s = false → p.granted = true → v = elapseToNs p.burstEnd s →
    pausedTooLong p v.clk.ns = false → coexSpent p (v.clk.ns + 10000000) = false → dutyAllows 574 v = true →
    chainsUp v = k :: ks → ∃ t, exec .reportTrigger s = .next t ∧
    t.radio.poll = some (actFrom { p with reports := p.reports + 1, trigAt := v.clk.ns + 574000, open_ := some 0, waits := 0 } v.clk.ns) ∧
    t.outs = v.outs ++ [Out.pin (30 + k) 1, triggerOut v k (0xC000 + planTones u), Out.pin (30 + k) 0]) ∧
  (∀ (r : Nat) (p : Poll) (u : UhfRec) (f : TokenFrame) (s : State), s.radio.poll = some p → uhfRec s = some u →
    p.kind = .locate r → p.phase = .report → p.open_.isSome = true → secReady s = true → frameValid f = true →
    canTakeTcnt s = true → reportCheck s 0 (planTones u) p.nonce f = 0 → frameTid f = p.tid → s.radio.touchNext = none →
    s.radio.presenceDue = false → s.radio.approachDue = false → s.radio.locates = [] → ∃ t, exec (.soundReport f) s = .next t ∧
    t.radio.poll = none ∧ t.radio.cntSound = s.radio.cntSound + 1 ∧ lastTcnt t p.tid = frameTcnt f ∧
    t.radio.fits = s.radio.fits ++ [soundFit s p f (some r)]) ∧
  (∀ (r : Nat) (f : Flight) (q : FitReq) (rest : List FitReq) (u : UhfRec) (pos : Pos) (fit : FitResult) (v s : State),
    s.radio.fits = q :: rest → uhfRec s = some u → q.op = some r → getFlight s r = some f → f.fate = none → q.turnOk = true →
    v = onlyIf q.sounded (noteSnr fit) (modRadio (fun b => { b with fits := rest }) s) → fitPos v u q fit = some pos →
    consistent v u q fit pos = true → dLen f.raw = 0 →
    s.radio.tracks.length < 64 → ∃ t tr,
    exec (.positionFit fit true) s = .next t ∧ Done r (locateResult tr) t ∧ trackOf t q.tid = some tr ∧ tr.tid = q.tid ∧
    tr.tMeas = monoUs s ∧ t.radio.fits = rest) ∧
  (∀ (r : Nat) (f : Flight) (q : FitReq) (rest : List FitReq) (u : UhfRec) (fit : FitResult) (s : State),
    s.radio.fits = q :: rest → uhfRec s = some u → q.op = some r → getFlight s r = some f → f.fate = none → q.turnOk = false →
    ∃ t, exec (.positionFit fit true) s = .next t ∧ Ended r fAuth 6 0x22 t ∧ t.radio.fits = rest) ∧
  (∀ (p : Poll) (s : State), s.radio.poll = some p → p.asked = true → p.granted = false → exec .coexGrant s =
    .next { s with radio := { s.radio with poll := some { p with granted := true, waits := 0 }, coexGnt := s.radio.coexGnt ||| s.radio.coexReq } }) ∧
  (∀ (p : Poll) (u : UhfRec) (s : State), s.radio.poll = some p → uhfRec s = some u → p.asked = true → p.granted = false →
    p.kind = .approach → s.radio.touchNext = none → s.radio.presenceDue = false → s.radio.approachDue = false →
    s.radio.locates = [] → ∃ t, exec .coexTimeout s = .next t ∧ t.radio.poll = none ∧ t.radio.coexReq = 0 ∧
    t.radio.cntCoex = s.radio.cntCoex + 1 ∧ t.radio.uhfEvents = setBits s.radio.uhfEvents 2) ∧
  (∀ (m : Fin 2) (p : Poll) (s : State), s.radio.poll = some p → p.asked = true → p.granted = true → p.phase = .slots →
    s.radio.coexGnt.getLsbD m = true → s.radio.coexReq.getLsbD m = true → ∃ t, exec (.coexGrantFall m) s = .next t ∧
    t.radio.poll = some { p with granted := false, askedAt := monoUs s, actAt := none } ∧ t.radio.coexGnt.getLsbD m = false) ∧
  (∀ (m : Fin 2) (p : Poll) (s : State), s.radio.poll = some p → p.asked = true → p.granted = true → p.phase = .sound →
    p.bursts ≠ 0 → s.clk.ns < p.burstEnd → s.radio.coexGnt.getLsbD m = true → s.radio.coexReq.getLsbD m = true → ∃ t,
    exec (.coexGrantFall m) s = .next t ∧ t.radio.coexGnt.getLsbD m = false ∧ t.radio.coexReq = s.radio.coexReq ∧
    t.radio.poll = some { p with granted := false, askedAt := monoUs s, actAt := none, tone := p.burstTone, plan := [] } ∧
    Out.burstStop p.tx (ranNs true (tonePeriod s) (s.clk.ns - p.burstAt)) ∈ t.outs) ∧
  (∀ (r t0 : Nat) (ev : StartEvidence) (f : Flight) (s : State), s.radio.startWait = some (r, t0, ev) → Running 0x0300 r f s →
    ∃ t u v, exec .coexPriLead s = .next t ∧ u = modRadio (fun b => { b with startWait := none }) (elapseTo (t0 + 100) s) ∧
    v = priFall (modRadio (fun b => { b with session := none }) (startRun r ev f u)) ∧ v.radio.coexReq = 0 ∧ v.radio.coexPri = false ∧ t = resumePoll v) ∧
  (∀ (tid : BitVec 32) (tr : Track) (u : UhfRec) (s : State), trackOf s tid.toNat = some tr → uhfRec s = some u →
    (tabGet {} s.radio.pres tid.toNat).st = 1 → ∃ t, exec (.trackAgeExpiry tid) s = .next t ∧ trackOf t tid.toNat = none ∧
    tr.updated + 1000000 * u.trackAge ≤ monoUs t ∧ t.slk = s.slk)

/-- The PROX class (R241, R258, R288, R296–R299): LOCATE, TRACK_READ, NEAR_ENROL, NEAR_REMOVE, NEAR_READ and ZONE_READ. -/
def Obligations.ProxClass : Prop :=
  (∀ (r : Nat) (f : Flight) (s : State), Ready 0x0200 r f s → secReady s = true → (board s).isSome = true → noNonce s = false →
    (tokenKeyOf s (fieldLE f.raw 24 4)).isSome = true → s.radio.poll = none → startHolds s = false → s.clk.onRc = false → chainsUp s ≠ [] →
    pollChans (started r s) (.locate r) ≠ [] → ∃ t p, exec (.locate r) s = .next t ∧ t.radio.poll = some p ∧ p.kind = .locate r ∧
    p.phase = .telegram ∧ p.m = locateM f ∧ p.n = 1 ∧ p.nonce = random (drawn 2 (started r s)) 6 ∧ getFlight t r = some { f with begun := true }) ∧
  (∀ (r : Nat) (f : Flight) (p : Poll) (s : State), Ready 0x0200 r f s → secReady s = true → (board s).isSome = true →
    noNonce s = false → (tokenKeyOf s (fieldLE f.raw 24 4)).isSome = true → s.radio.poll = some p → ∃ t,
    exec (.locate r) s = .next t ∧ t.radio = { s.radio with locates := s.radio.locates ++ [(r, 0)] }) ∧
  (∀ (r : Nat) (f : Flight) (s : State), Ready 0x0200 r f s → secReady s = true → (board s).isSome = true →
    noNonce s = false → tokenKeyOf s (fieldLE f.raw 24 4) = none → ∃ t, exec (.locate r) s = .next t ∧ Ended r fAbsent 0 0x21 t) ∧
  (∀ (r : Nat) (f : Flight) (n : Nat) (s : State), Ready 0x0201 r f s → n = min s.radio.tracks.length (dLen f.raw / 64) → ∃ t,
    exec (.trackRead r true) s = .next t ∧ Done r n t ∧
    t.outs = s.outs ++ [Out.hostWrite (rangeOf f 0).func (rangeOf f 0).addr ((s.radio.tracks.take n).flatMap (locationRecord s))]) ∧
  (∀ (r : Nat) (f : Flight) (k : Handle) (s x : State), Ready 0x0202 r f s → secReady s = true → drawTurn r s = true →
    x = leaveQueue r (started r s) →
    s.radio.near.any (fun e => e.tid == fieldLE f.raw 24 4) = false → enrolKey x r f (fieldLE f.raw 32 8) = .ok k →
    s.radio.near.length < 256 → releaseAllowed x f (fieldLE f.raw 32 8) = true → commitHolds f true x = true →
    canLog (.part (stampPart { kind := 0x14, ten := f.ten, seq := dSeq f.raw, unit := 2, tid := fieldLE f.raw 24 4,
                               count := handleSlot (fieldLE f.raw 32 8) } x)) x = true → ∃ t,
    exec (.nearEnrol r) s = .next t ∧ Done r 0 t ∧ t.radio.near = s.radio.near ++
      [({ tid := fieldLE f.raw 24 4, key := k.key, tcnt := 0, zones := BitVec.ofNat 12 (fieldLE f.raw 28 2),
          actions := BitVec.ofNat 8 (fieldLE f.raw 30 1), owner := f.ten } : NearEntry)]) ∧
  (∀ (r : Nat) (f : Flight) (s : State), Ready 0x0202 r f s → secReady s = true → drawTurn r s = true →
    s.radio.near.any (fun e => e.tid == fieldLE f.raw 24 4) = true → ∃ t, exec (.nearEnrol r) s = .next t ∧
    Ended r fPolicy 0 0x29 t ∧ t.radio = s.radio) ∧
  (∀ (r : Nat) (f : Flight) (e : NearEntry) (s : State), Ready 0x0203 r f s →
    s.radio.near.find? (fun x => x.tid == fieldLE f.raw 24 4) = some e → nearReach f e = true → ∃ t,
    exec (.nearRemove r) s = .next t ∧ Done r 0 t ∧
    t.radio.near = s.radio.near.filter (fun x => x.tid != fieldLE f.raw 24 4)) ∧
  (∀ (r : Nat) (f : Flight) (l : List NearEntry) (s : State), Ready 0x0204 r f s →
    l = (s.radio.near.filter (nearReach f)).take (dLen f.raw / 16) → ∃ t, exec (.nearRead r true) s = .next t ∧ Done r l.length t ∧
    t.outs = s.outs ++ [Out.hostWrite (rangeOf f 0).func (rangeOf f 0).addr (l.flatMap nearBytes)]) ∧
  (∀ (r : Nat) (f : Flight) (body : Bytes) (s : State), Ready 0x0205 r f s →
    body = (match s.radio.zones with | some z => z.body | none => []) → body.length ≤ dLen f.raw → ∃ t,
    exec (.zoneRead r true) s = .next t ∧ Done r body.length t ∧
    t.outs = s.outs ++ [Out.hostWrite (rangeOf f 0).func (rangeOf f 0).addr (slice body 0 (dLen f.raw))])

/-- Key handles and blobs (R489, R492–R503, R512, R513): a root, a derived child, an imported and an exported key, and what
KEY_INFO and KEY_PUBLIC write; each makes, reads or closes the handle the rules name. -/
def Obligations.KeyHandles : Prop :=
  (∀ (r h slot : Nat) (f : Flight) (k : Handle) (s : State), Ready 0x0800 r f s → secReady s = true → drawTurn r s = true →
    vaultOk s = true → (fieldLE f.raw 24 1 ≠ 0 → f.party ≤ 1) → freeSlot s = some slot →
    h = f.ten * 2 ^ 38 + nextGen s slot * 65536 + slot →
    canLog (handleRecord s h { k with starterGen := s.sec.starterGen, created := monoUs s } true) s = true →
    k = (if fieldLE f.raw 24 1 = 0 then rootHandle (tenancyRoot s f.rules) 1 0 0xFF
         else if fieldLE f.raw 24 1 = 1 then rootHandle (tokenNode s) 2 1 0x54 else rootHandle (frameNode s) 2 2 0x44) → ∃ t,
    exec (.keyRoot r) s = .next t ∧ Done r h t ∧
    tabFind t.sec.handles h = some { k with starterGen := s.sec.starterGen, created := monoUs s } ∧
    tabFind t.sec.slotGen slot = some (nextGen s slot)) ∧
  (∀ (r : Nat) (f : Flight) (s : State), Ready 0x0800 r f s → secReady s = true → drawTurn r s = true →
    fieldLE f.raw 24 1 ≠ 0 → 1 < f.party → ∃ t,
    exec (.keyRoot r) s = .next t ∧ Ended r fPolicy 0 0x24 t ∧ t.sec.handles = s.sec.handles) ∧
  (∀ (r h slot : Nat) (d : Bytes) (f : Flight) (p k : Handle) (s : State), Ready 0x0801 r f s → secReady s = true →
    drawTurn r s = true → findHandle s r f.ten (fieldLE f.raw 24 8) = .ok p → keyCurrent s p = true → p.usage.getLsbD uDerive = true → p.level < 8 →
    within (BitVec.ofNat 8 (fieldLE f.raw 32 1)) p.childMask = true → within (BitVec.ofNat 8 (fieldLE f.raw 33 1)) p.childMask = true →
    k = { key := kdf p.key (slice d 0 32) (nodeCtx (p.level + 1) (if p.subtree = 0 then 2 else 0)) (fieldLE f.raw 34 1),
          level := p.level + 1, usage := BitVec.ofNat 8 (fieldLE f.raw 32 1), childMask := BitVec.ofNat 8 (fieldLE f.raw 33 1),
          origin := 2, subtree := p.subtree, starterGen := s.sec.starterGen, created := monoUs s } →
    freeSlot s = some slot → h = f.ten * 2 ^ 38 + nextGen s slot * 65536 + slot → canLog (handleRecord s h k true) s = true → ∃ t,
    exec (.keyDerive r (.ok d)) s = .next t ∧ Done r h t ∧ tabFind t.sec.handles h = some k) ∧
  (∀ (r : Nat) (d : Bytes) (f : Flight) (p : Handle) (s : State), Ready 0x0801 r f s → secReady s = true → drawTurn r s = true →
    findHandle s r f.ten (fieldLE f.raw 24 8) = .ok p → keyCurrent s p = true → p.usage.getLsbD uDerive = false → ∃ t,
    exec (.keyDerive r (.ok d)) s = .next t ∧ Ended r fPolicy 0 0x22 t ∧ t.sec.handles = s.sec.handles) ∧
  (∀ (r h slot : Nat) (d blob key : Bytes) (f : Flight) (k x : Handle) (s : State), Ready 0x0802 r f s → secReady s = true →
    drawTurn r s = true → hashUp s = true → blob = slice d 0 (dLen f.raw) → blobOk blob (dLen f.raw) = true → slice blob 16 16 = uidBytes s → byteAt blob 5 = 1 →
    findHandle s r f.ten (fieldLE f.raw 32 8) = .ok k → keyCurrent s k = true → k.usage.getLsbD uWrap = true →
    keyUnwrap (kekOf k.key (slice blob 0 32)) (slice blob 32 (byteAt blob 6 + 8)) = some key → key.length = byteAt blob 6 →
    within (BitVec.ofNat 8 (fieldLE f.raw 40 1)) (BitVec.ofNat 8 (byteAt blob 7)) = true →
    within (BitVec.ofNat 8 (fieldLE f.raw 41 1)) (BitVec.ofNat 8 (byteAt blob 8)) = true →
    x = { key := key, level := 2, usage := BitVec.ofNat 8 (fieldLE f.raw 40 1), childMask := BitVec.ofNat 8 (fieldLE f.raw 41 1),
          origin := 3, subtree := 0, starterGen := s.sec.starterGen, created := monoUs s } →
    freeSlot s = some slot → h = f.ten * 2 ^ 38 + nextGen s slot * 65536 + slot → canLog (handleRecord s h x true) s = true → ∃ t,
    exec (.keyImport r (.ok d)) s = .next t ∧ Done r h t ∧ tabFind t.sec.handles h = some x) ∧
  (∀ (r h slot : Nat) (d blob key epk header : Bytes) (f : Flight) (x : Handle) (s : State), Ready 0x0802 r f s → secReady s = true →
    drawTurn r s = true → hashUp s = true → pkeUp s = true → blob = slice d 0 (dLen f.raw) → blobOk blob (dLen f.raw) = true → slice blob 16 16 = uidBytes s → byteAt blob 5 ≠ 1 →
    fieldLE f.raw 32 8 = 0 → vaultOk s = true → epk = slice blob 32 (epkLen (byteAt blob 5)) →
    pointCheck (kindCurve (byteAt blob 5)) epk = 0 → header = slice blob 0 (32 + epkLen (byteAt blob 5)) →
    keyUnwrap (kekOfZ (importZ s f.rules (byteAt blob 5) epk) header)
      (slice blob (32 + epkLen (byteAt blob 5)) (byteAt blob 6 + 8)) = some key → key.length = byteAt blob 6 →
    within (BitVec.ofNat 8 (fieldLE f.raw 40 1)) (BitVec.ofNat 8 (byteAt blob 7)) = true →
    within (BitVec.ofNat 8 (fieldLE f.raw 41 1)) (BitVec.ofNat 8 (byteAt blob 8)) = true →
    x = { key := key, level := 2, usage := BitVec.ofNat 8 (fieldLE f.raw 40 1), childMask := BitVec.ofNat 8 (fieldLE f.raw 41 1),
          origin := 3, subtree := 0, starterGen := s.sec.starterGen, created := monoUs s } →
    freeSlot s = some slot → h = f.ten * 2 ^ 38 + nextGen s slot * 65536 + slot → canLog (handleRecord s h x true) s = true → ∃ t,
    exec (.keyImport r (.ok d)) s = .next t ∧ Done r h t ∧ tabFind t.sec.handles h = some x) ∧
  (∀ (r : Nat) (d area head blob : Bytes) (f : Flight) (k kek : Handle) (s : State), Ready 0x0803 r f s → secReady s = true →
    drawTurn r s = true → hashUp s = true → fieldLE f.raw 40 1 = 1 → findHandle s r f.ten (fieldLE f.raw 24 8) = .ok k → keyCurrent s k = true →
    k.usage.getLsbD uExport = true → findHandle s r f.ten (fieldLE f.raw 32 8) = .ok kek → keyCurrent s kek = true →
    kek.usage.getLsbD uWrap = true → releaseAllowed s f (fieldLE f.raw 24 8) = true → commitHolds f true s = true →
    canLog (.part (stampPart { kind := 0x14, ten := f.ten, seq := dSeq f.raw, unit := 1, tid := 0,
                               count := handleSlot (fieldLE f.raw 24 8) } s)) s = true →
    area = slice d 0 128 → head = blobHeader 1 k (slice area 0 16) →
    blob = head ++ keyWrap (kekOf kek.key head) k.key → ∃ t,
    exec (.keyExport r (.ok d) true) s = .next t ∧ Done r blob.length t ∧ s.led.lsn + 1 ≤ t.led.lsn ∧
    t.outs = s.outs ++ [Out.hostWrite (rangeOf f 1).func ((rangeOf f 1).addr + 128) (slice blob 0 128)]) ∧
  (∀ (r : Nat) (d area head blob : Bytes) (f : Flight) (k : Handle) (e : Bytes × Bytes) (s : State), Ready 0x0803 r f s →
    secReady s = true → drawTurn r s = true → hashUp s = true → pkeUp s = true → fieldLE f.raw 40 1 ≠ 1 → findHandle s r f.ten (fieldLE f.raw 24 8) = .ok k → keyCurrent s k = true →
    k.usage.getLsbD uExport = true → area = slice d 0 128 →
    pointCheck (kindCurve (fieldLE f.raw 40 1)) (slice area 16 (epkLen (fieldLE f.raw 40 1))) = 0 →
    releaseAllowed s f (fieldLE f.raw 24 8) = true → commitHolds f true s = true →
    canLog (.part (stampPart { kind := 0x14, ten := f.ten, seq := dSeq f.raw, unit := 1, tid := 0,
                               count := handleSlot (fieldLE f.raw 24 8) } s)) s = true →
    e = ephemeral (leaveQueue r (started r s)) (fieldLE f.raw 40 1) (slice area 16 (epkLen (fieldLE f.raw 40 1))) →
    head = blobHeader (fieldLE f.raw 40 1) k (slice area 0 16) ++ e.1 → blob = head ++ keyWrap (kekOfZ e.2 head) k.key → ∃ t,
    exec (.keyExport r (.ok d) true) s = .next t ∧ Done r blob.length t ∧ s.led.lsn + 1 ≤ t.led.lsn ∧
    t.outs = s.outs ++ [Out.hostWrite (rangeOf f 1).func ((rangeOf f 1).addr + 128) (slice blob 0 128)]) ∧
  (∀ (r h : Nat) (f : Flight) (k : Handle) (s : State), Ready 0x0804 r f s → h = fieldLE f.raw 24 8 → handleTen h = f.ten →
    tabFind s.sec.handles h = some k → k.closed = none → ∃ t, exec (.keyClose r) s = .next t ∧ Done r 0 t ∧
    tabFind t.sec.handles h = some { k with closed := some s.host.flights.length }) ∧
  (∀ (r : Nat) (f : Flight) (k : Handle) (s : State), Ready 0x0805 r f s →
    findHandle s r f.ten (fieldLE f.raw 24 8) = .ok k → ∃ t, exec (.keyInfo r true) s = .next t ∧ Done r 0 t ∧ t.sec = s.sec ∧
    t.outs = s.outs ++ [Out.hostWrite (rangeOf f 0).func (rangeOf f 0).addr (keyInfoBytes (fieldLE f.raw 24 8) k)]) ∧
  (∀ (r : Nat) (f : Flight) (s : State), Ready 0x0806 r f s → secReady s = true → drawTurn r s = true →
    pkeUp s = true → vaultOk s = true → ∃ t,
    exec (.keyPublic r true) s = .next t ∧ Done r 0 t ∧ t.sec.handles = s.sec.handles ∧
    t.outs = s.outs ++ [Out.hostWrite (rangeOf f 0).func (rangeOf f 0).addr (keyPublicBytes s f.rules)])

/-- Cipher operations (R505–R511, R514–R516): each operation's output with a usable key and an active lane; a failed tag gives no output. -/
def Obligations.CipherOperations : Prop :=
  (∀ (r l : Nat) (d inp iv : Bytes) (f : Flight) (k : Handle) (s x : State), Ready 0x0900 r f s → secReady s = true →
    drawTurn r s = true → findHandle s r f.ten (fieldLE f.raw 24 8) = .ok k → keyCurrent s k = true → k.usage.getLsbD uEnc = true →
    cPart f = true ∨ k.usage.getLsbD uHostNonce = true → serveLane s = some l → inp = slice d 0 (dLen f.raw) →
    x = maskLane l (maskedBytes f k) (modFlight r (fun y => { y with spare := y.spare || (getLane s l).wasSpare })
      (leaveQueue r (started r s))) → iv = cphIv f inp x → ∃ t,
    exec (.encrypt r (.ok d) true) s = .next t ∧ Done r (payloadLen f.raw) t ∧ t.sec.cntCph = s.sec.cntCph + 1 ∧
    t.outs = s.outs ++ [Out.hostWrite (rangeOf f 1).func (rangeOf f 1).addr
      (iv ++ modeEnc (cMode f) k.key iv (slice inp 16 (payloadLen f.raw)))]) ∧
  (∀ (r : Nat) (rd : HostRead) (f : Flight) (k : Handle) (s : State), Ready 0x0900 r f s → secReady s = true →
    drawTurn r s = true → findHandle s r f.ten (fieldLE f.raw 24 8) = .ok k → keyCurrent s k = true → k.usage.getLsbD uEnc = true →
    cPart f = false → k.usage.getLsbD uHostNonce = false → ∃ t, exec (.encrypt r rd true) s = .next t ∧
    Ended r fPolicy 0 0x2F t ∧ t.outs = s.outs) ∧
  (∀ (r l : Nat) (d inp : Bytes) (f : Flight) (k : Handle) (s : State), Ready 0x0901 r f s → secReady s = true →
    drawTurn r s = true → findHandle s r f.ten (fieldLE f.raw 24 8) = .ok k → keyCurrent s k = true → k.usage.getLsbD uDec = true →
    serveLane s = some l → inp = slice d 0 (dLen f.raw) → ∃ t, exec (.decrypt r (.ok d) true) s = .next t ∧
    Done r (payloadLen f.raw) t ∧ t.sec.cntCph = s.sec.cntCph + 1 ∧
    t.outs = s.outs ++ [Out.hostWrite (rangeOf f 1).func (rangeOf f 1).addr
      (slice inp 0 16 ++ modeDec (cMode f) k.key (slice inp 0 16) (slice inp 16 (payloadLen f.raw)))]) ∧
  (∀ (r l : Nat) (d inp : Bytes) (f : Flight) (k : Handle) (s : State), Ready 0x0902 r f s → secReady s = true →
    drawTurn r s = true → findHandle s r f.ten (fieldLE f.raw 24 8) = .ok k → keyCurrent s k = true → k.usage.getLsbD uMac = true →
    serveLane s = some l → inp = slice d 0 (dLen f.raw) → ∃ t, exec (.mac r (.ok d) true) s = .next t ∧
    Done r (payloadLen f.raw) t ∧ t.sec.cntCph = s.sec.cntCph + 1 ∧
    t.outs = s.outs ++ [Out.hostWrite (rangeOf f 1).func (rangeOf f 1).addr
      (zeros 16 ++ (cmac k.key (slice inp 16 (payloadLen f.raw))).take (cTag f))]) ∧
  (∀ (r l p : Nat) (d inp : Bytes) (f : Flight) (k : Handle) (s : State), Ready 0x0903 r f s → secReady s = true →
    drawTurn r s = true → findHandle s r f.ten (fieldLE f.raw 24 8) = .ok k → keyCurrent s k = true → k.usage.getLsbD uMac = true →
    serveLane s = some l → inp = slice d 0 (dLen f.raw) → p = payloadLen f.raw → ∃ t,
    exec (.macVerify r (.ok d)) s = .next t ∧ t.outs = s.outs ∧
    ((cmac k.key (slice inp 16 p)).take (cTag f) = slice inp (16 + p) (cTag f) → Done r p t) ∧
    ((cmac k.key (slice inp 16 p)).take (cTag f) ≠ slice inp (16 + p) (cTag f) → Ended r fAuth 0 0x30 t ∧
      t.sec.cntTagFail = s.sec.cntTagFail + 1)) ∧
  (∀ (r l : Nat) (d inp nonce : Bytes) (f : Flight) (k : Handle) (s x : State), Ready 0x0904 r f s → secReady s = true →
    drawTurn r s = true → findHandle s r f.ten (fieldLE f.raw 24 8) = .ok k → keyCurrent s k = true → k.usage.getLsbD uAead = true →
    cPart f = true ∨ k.usage.getLsbD uHostNonce = true → serveLane s = some l → inp = slice d 0 (dLen f.raw) →
    x = maskLane l (maskedBytes f k) (modFlight r (fun y => { y with spare := y.spare || (getLane s l).wasSpare })
      (leaveQueue r (started r s))) →
    nonce = (if cPart f then random x (cNonce f) else slice inp 0 (cNonce f)) → ∃ t,
    exec (.sealCcm r (.ok d) true) s = .next t ∧ Done r (payloadLen f.raw) t ∧ t.sec.cntCph = s.sec.cntCph + 1 ∧
    t.outs = s.outs ++ [Out.hostWrite (rangeOf f 1).func (rangeOf f 1).addr
      (nonceField nonce (drewIv f x) ++ ccmCrypt k.key nonce 1 (blocks16 (slice inp (16 + cAad f) (payloadLen f.raw))) ++
        ccmTag k.key nonce (slice inp 16 (cAad f)) (slice inp (16 + cAad f) (payloadLen f.raw)) (cTag f))]) ∧
  (∀ (r l p : Nat) (d inp nonce msg : Bytes) (f : Flight) (k : Handle) (s x : State), Ready 0x0905 r f s → secReady s = true →
    drawTurn r s = true → findHandle s r f.ten (fieldLE f.raw 24 8) = .ok k → keyCurrent s k = true → k.usage.getLsbD uAead = true →
    serveLane s = some l → inp = slice d 0 (dLen f.raw) → nonce = slice inp 0 (cNonce f) → p = payloadLen f.raw →
    x = maskLane l (maskedBytes f k) (modFlight r (fun y => { y with spare := y.spare || (getLane s l).wasSpare })
      (leaveQueue r (started r s))) →
    msg = ccmCrypt k.key nonce 1 (blocks16 (slice inp (16 + cAad f) p)) → ∃ t, exec (.openCcm r (.ok d) true) s = .next t ∧
    (ccmTag k.key nonce (slice inp 16 (cAad f)) msg (cTag f) = slice inp (16 + cAad f + p) (cTag f) → Done r p t ∧
      t.outs = s.outs ++ [Out.hostWrite (rangeOf f 1).func (rangeOf f 1).addr (nonceField nonce x ++ msg)]) ∧
    (ccmTag k.key nonce (slice inp 16 (cAad f)) msg (cTag f) ≠ slice inp (16 + cAad f + p) (cTag f) →
      Ended r fAuth 0 0x30 t ∧ t.outs = s.outs ∧ t.sec.cntTagFail = s.sec.cntTagFail + 1))

/-- Cipher lanes (R507, R574, R575, R626, R627): a lane that fails, retests, retires, overheats and cools. -/
def Obligations.CipherLanes : Prop :=
  (∀ (l : Fin 20) (s : State), Shaped s → (getLane s l.val).st = .active → (recentTimes (monoUs s) (getLane s l.val).faults).length < 2 →
    ∃ t, exec (.laneFault l none) s = .next t ∧ unitSt t uLane l.val = .out ∧ t.sec.keyEvents = setBits s.sec.keyEvents 2 ∧
    getLane t l.val = { getLane s l.val with
      st := .test, fault := 1, faults := recentTimes (monoUs s) (getLane s l.val).faults ++ [monoUs s] }) ∧
  (∀ (l : Fin 20) (r : Nat) (f : Flight) (s : State), (getLane s l.val).st = .active → getFlight s r = some f → f.fate = none →
    s.radio.poll.any (fun p => pollOp p.kind == some r) = false → ∃ t,
    exec (.laneFault l (some r)) s = .next t ∧ getFlight t r = some { f with laneMoved := true }) ∧
  (∀ (l : Fin 20) (k : Nat) (s : State), Shaped s → (getLane s l.val).st = .active →
    2 ≤ (recentTimes (monoUs s) (getLane s l.val).faults).length → coolestSpare s = some k → ∃ t,
    exec (.laneFault l none) s = .next t ∧ unitSt t uLane l.val = .retired ∧ (getLane t l.val).st = .out ∧
    (getLane t l.val).kept = true ∧ getLane t k = { getLane s k with st := .active, wasSpare := true }) ∧
  (∀ (l : Fin 20) (s : State), Shaped s → (getLane s l.val).st = .test → (getLane s l.val).kept = false → ∃ t u,
    exec (.laneRetest l true) s = .next t ∧ exec (.laneRetest l false) s = .next u ∧
    getLane t l.val = { getLane s l.val with st := .active, fault := 0 } ∧ unitSt t uLane l.val = .up ∧
    (getLane u l.val).st = .out ∧ (getLane u l.val).kept = true ∧ unitSt u uLane l.val = .retired) ∧
  (∀ (l : Fin 20) (s : State), Shaped s → (getLane s l.val).st = .active → ∃ t, exec (.laneOverheat l) s = .next t ∧
    getLane t l.val = { getLane s l.val with st := .out, fault := 3, temp := 132 } ∧ unitSt t uLane l.val = .out) ∧
  (∀ (l : Fin 20) (temp : Int) (s : State), Shaped s → (getLane s l.val).st = .out → (getLane s l.val).fault = 3 →
    (getLane s l.val).kept = false → temp ≤ 122 → ∃ t, exec (.laneCooled l temp) s = .next t ∧
    getLane t l.val = { getLane s l.val with st := .active, fault := 0, temp := temp } ∧ unitSt t uLane l.val = .up)

/-- Tamper events (R310, R489–R491, R587, R588): a mesh or light event loses the vault and starts a full reset; an ALARM event
erases the work under way and holds SEC_ALARM for 10 ms; the fourth ALARM event of a minute, by a glitch, is a ZEROISE. -/
def Obligations.TamperEvents : Prop :=
  (∀ (m : Fin 2) (s : State), portUp s pTmesh m = true → s.pwr.vaon = true → ∃ t, exec (.tamperMesh m) s = .next t ∧
    t.sec.starter = [] ∧ t.sec.starterChk = [] ∧ vaultOk t = false ∧ t.flt.tamper = setBits 0 m.val ∧ t.pwr.aonLost = true ∧
    t.sys.resetCause = 7 ∧ t.slk.code = 0x3C ∧ t.slk.comp = 0xC3 ∧
    t.sec.tamperLog.getLast? = some { secs := monoUs s / 1000000, event := m.val, cls := 1 }) ∧
  (∀ (m : Fin 2) (s : State), portUp s pTmesh m = true → s.pwr.vaon = false → ∃ t, exec (.tamperMesh m) s = .next t ∧
    t.sec.starter = [] ∧ t.flt.tamper = setBits 0 m.val ∧ t.pwr.aonLost = true ∧ t.flt.tamperOwed = true ∧
    t.pwr.mode = s.pwr.mode) ∧
  (∀ (m : Fin 2) (s : State), portUp s pTmesh m = false → exec (.tamperMesh m) s = .next s) ∧
  (∀ s : State, s.pwr.vaon = true → ∃ t, exec .light s = .next t ∧ t.sec.starter = [] ∧ t.flt.tamper = setBits 0 2 ∧
    t.pwr.aonLost = true ∧ t.sys.resetCause = 7 ∧ t.slk.code = 0x3C ∧
    t.sec.tamperLog.getLast? = some { secs := monoUs s / 1000000, event := 2, cls := 1 }) ∧
  (∀ s : State, s.pwr.vaon = true → s.pwr.mode ≠ .dormant →
    (s.flt.alarms.filter (fun t => decide (monoUs s < t + 60000000))).length < 3 → ∃ t u,
    exec .voltageGlitch s = .next t ∧ exec .clockGlitch s = .next u ∧ t.sec.alarmEnd = some (monoUs s + 10000) ∧
    u.sec.alarmEnd = some (monoUs s + 10000) ∧ t.flt.tamper = setBits s.flt.tamper 3 ∧ u.flt.tamper = setBits s.flt.tamper 4 ∧
    t.sec.starter = s.sec.starter ∧ u.sec.starter = s.sec.starter ∧ t.sec.keyEvents = setBits s.sec.keyEvents 1 ∧
    t.sec.tamperLog.getLast? = some { secs := monoUs s / 1000000, event := 3, cls := 0 } ∧
    u.sec.tamperLog.getLast? = some { secs := monoUs s / 1000000, event := 4, cls := 0 }) ∧
  (∀ s : State, s.pwr.vaon = true → s.pwr.mode ≠ .dormant →
    3 ≤ (s.flt.alarms.filter (fun t => decide (monoUs s < t + 60000000))).length → ∃ t u,
    exec .voltageGlitch s = .next t ∧ exec .clockGlitch s = .next u ∧ t.sec.starter = [] ∧ u.sec.starter = [] ∧
    t.sys.resetCause = 7 ∧ u.sys.resetCause = 7 ∧ t.flt.tamper = setBits 0 3 ∧ u.flt.tamper = setBits 0 4) ∧
  (∀ s : State, s.pwr.vaon = true → ∃ t, exec .temperatureTamper s = .next t ∧
    t.sec.alarmEnd = some (monoUs s + 10000) ∧ t.flt.tamper = setBits s.flt.tamper 5 ∧ t.sec.starter = s.sec.starter ∧
    t.sec.tamperLog.getLast? = some { secs := monoUs s / 1000000, event := 5, cls := 0 }) ∧
  (∀ (r : Nat) (f : Flight) (s : State), s.pwr.vaon = true → getFlight s r = some f → f.begun = true → f.fate = none →
    f.dupOf = none → dClass f.raw = 0x08 ∨ dClass f.raw = 0x09 → ∃ t, exec .temperatureTamper s = .next t ∧
    Ended r fDevice 0 0x2B t) ∧
  (∀ (e : Nat) (s : State), s.sec.alarmEnd = some e → ∃ t, exec .alarmHoldEnd s = .next t ∧ t.sec = { s.sec with alarmEnd := none } ∧
    e ≤ monoUs t ∧ monoUs s ≤ monoUs t)

/-- Checks and hashes (R519–R523, R531–R534, R577): a signature or a point that holds is DONE, one that does not is AUTH_FAIL with its code;
HASH writes its digest; and an engine that fails is out of service. -/
def Obligations.ChecksAndHashes : Prop :=
  (∀ (r code : Nat) (d : Bytes) (f : Flight) (s : State), Ready 0x0A00 r f s → pkeUp s = true →
    fieldLE f.raw 25 1 = 1 ∨ hashUp s = true →
    code = pkVerify (fieldLE f.raw 24 1) (slice (slice d 0 (dLen f.raw)) 0 97) (slice (slice d 0 (dLen f.raw)) 100 96)
      ((slice d 0 (dLen f.raw)).drop 228) (fieldLE f.raw 25 1 == 1) → ∃ t, exec (.pkeVerify r (.ok d)) s = .next t ∧
    t.sec.cntPke = s.sec.cntPke + 1 ∧ t.sec.pkeLast = BitVec.ofNat 8 code ∧ (code = 0 → Done r 0 t) ∧
    (code ≠ 0 → Ended r fAuth code code t)) ∧
  (∀ (r code : Nat) (d : Bytes) (f : Flight) (s : State), Ready 0x0A01 r f s → pkeUp s = true →
    code = pointCheck (fieldLE f.raw 24 1) (slice d 0 97) → ∃ t, exec (.pointCheck r (.ok d)) s = .next t ∧
    t.sec.cntPke = s.sec.cntPke + 1 ∧ t.sec.pkeLast = BitVec.ofNat 8 code ∧ (code = 0 → Done r 0 t) ∧
    (code ≠ 0 → Ended r fAuth code code t)) ∧
  (∀ (r : Nat) (rd : HostRead) (f : Flight) (s : State), pkeUp s = false →
    (Ready 0x0A00 r f s → ∃ t, exec (.pkeVerify r rd) s = .next t ∧ Ended r fDevice 0 0x29 t) ∧
    (Ready 0x0A01 r f s → ∃ t, exec (.pointCheck r rd) s = .next t ∧ Ended r fDevice 0 0x29 t)) ∧
  (∀ (r : Nat) (d : Bytes) (f : Flight) (s : State), Ready 0x0A02 r f s → hashUp s = true → ∃ t,
    exec (.hash r (.ok d) true) s = .next t ∧ Done r 0 t ∧
    t.outs = s.outs ++ [Out.hostWrite (rangeOf f 1).func (rangeOf f 1).addr
      (slice (if fieldLE f.raw 24 1 = 1 then sha256 (slice d 0 (dLen f.raw)) else sha384 (slice d 0 (dLen f.raw))) 0 48)]) ∧
  (∀ (e : Fin 2) (s : State), unitSt s uHash e.val = .up → ∃ t, exec (.hashEngineFault e) s = .next t ∧
    unitSt t uHash e.val = .out ∧ t.sec = { s.sec with rngEvents := setBits s.sec.rngEvents 4 }) ∧
  (∀ s : State, unitSt s uPke 0 = .up → ∃ t, exec .publicKeyEngineFault s = .next t ∧ unitSt t uPke 0 = .out ∧ pkeUp t = false)

/-- The random source (R486, R525, R527–R530, R535, R536): RANDOM writes what the DRBG generates, or waits in its queue; sources that fail,
die and come back move the random source between its states; a reseed takes 256 conditioned bits; and the self-test's end starts
the source, with a new Starter where one is due, or stops it. -/
def Obligations.RandomSource : Prop :=
  (∀ (r : Nat) (f : Flight) (s x : State), Ready 0x0B00 r f s → fieldLE f.raw 24 1 % 2 = 0 → canDraw s = true → drawTurn r s = true →
    x = leaveQueue r (started r s) → ∃ t, exec (.random r true) s = .next t ∧ Done r (dLen f.raw) t ∧
    t.sec = (drew .rng (dLen f.raw) x).sec ∧ t.outs = s.outs ++
      [Out.hostWrite (rangeOf f 0).func (rangeOf f 0).addr (drbgOut (readied x).sec.drbg (dLen f.raw))]) ∧
  (∀ (r : Nat) (f : Flight) (s x : State), Ready 0x0B00 r f s → fieldLE f.raw 24 1 % 2 = 1 → canReseed s = true → drawTurn r s = true →
    x = reseed (leaveQueue r (started r s)) → ∃ t,
    exec (.random r true) s = .next t ∧ Done r (dLen f.raw) t ∧ t.sec.rng = .running ∧ t.sec.reseeds = s.sec.reseeds + 1 ∧
    t.sec.reseedAt = monoUs s ∧
    t.outs = s.outs ++ [Out.hostWrite (rangeOf f 0).func (rangeOf f 0).addr (drbgOut x.sec.drbg (dLen f.raw))]) ∧
  (∀ (r : Nat) (wr : Bool) (f : Flight) (s : State), Ready 0x0B00 r f s → s.sec.rng ≠ .stopped → servable s f = false → ∃ t,
    exec (.random r wr) s = .next t ∧ (∃ q, (q, r) ∈ t.sec.drbg.waits) ∧ t.host = s.host ∧ t.outs = s.outs) ∧
  (∀ (r : Nat) (wr : Bool) (f : Flight) (s : State), Ready 0x0B00 r f s → s.sec.rng = .stopped → ∃ t,
    exec (.random r wr) s = .next t ∧ Ended r fDevice 0 0x20 t ∧ t.outs = s.outs) ∧
  (∀ (r : Nat) (f : Flight) (s : State), Ready 0x0B01 r f s → ∃ t, exec (.rngStatus r true) s = .next t ∧ Done r 0 t ∧
    t.outs = s.outs ++ [Out.hostWrite (rangeOf f 0).func (rangeOf f 0).addr (rngStatusBytes s)]) ∧
  (∀ (i : Fin 4) (c : RngCause) (s : State), Shaped s → s.sec.rng = .running ∨ s.sec.rng = .held →
    (getSource s i.val).st = .healthy → srcBypassed s i.val = false → (failures24 s (getSource s i.val)).length < 2 →
    retiredCount s < 2 → ∃ t, exec (.rngSourceFailure i c) s = .next t ∧
    getSource t i.val = { st := .suspended, cause := (match c with | .rct => 1 | .apt => 2)
                          fails := failures24 s (getSource s i.val) ++ [monoUs s], since := monoUs s } ∧
    unitSt t uRng i.val = .out ∧ t.sec.rngEvents = setBits s.sec.rngEvents 0 ∧
    t.sec.rng = (if healthyCount s ≤ 3 then .held else s.sec.rng)) ∧
  (∀ (i : Fin 4) (c : RngCause) (s : State), Shaped s → s.sec.rng = .running ∨ s.sec.rng = .held →
    (getSource s i.val).st = .healthy → srcBypassed s i.val = false → 2 ≤ (failures24 s (getSource s i.val)).length →
    1 ≤ retiredCount s → ∃ t, exec (.rngSourceFailure i c) s = .next t ∧ (getSource t i.val).st = .retired ∧
    unitSt t uRng i.val = .retired ∧ t.sec.rng = .stopped ∧ t.sec.drbg.key = zeros 32 ∧ t.sec.drbg.v = zeros 16) ∧
  (∀ (i : Fin 4) (live : BitVec 4) (s : State), Shaped s → s.sec.rng = .running ∨ s.sec.rng = .held →
    (getSource s i.val).st = .healthy → srcBypassed s i.val = false → live.getLsbD i.val = false →
    (∀ j : Fin 4, j ≠ i → live.getLsbD j.val = true) → ∃ t, exec (.rngHealthCheck live 0) s = .next t ∧
    (getSource t i.val).st = .retired ∧ (getSource t i.val).cause = 3 ∧ unitSt t uRng i.val = .retired) ∧
  (∀ s : State, exec (.rngHealthCheck 0xF 0) s = .next s) ∧
  (∀ (i : Fin 4) (s : State), Shaped s → (getSource s i.val).st = .suspended → srcBypassed s i.val = false → ∃ t,
    exec (.sourceReturn i) s = .next t ∧ getSource t i.val = { getSource s i.val with st := .healthy } ∧
    unitSt t uRng i.val = .up ∧ (getSource s i.val).since + 4096 ≤ monoUs t ∧ monoUs s ≤ monoUs t) ∧
  (∀ s : State, canReseed s = true → ∃ t, exec .drbgReseed s = .next t ∧ t.sec.rng = .running ∧
    t.sec.reseeds = s.sec.reseeds + 1 ∧ t.sec.reseedAt = monoUs s ∧ t.sec.drbg = drbgReseed s.sec.drbg (conditioned s)) ∧
  (∀ s : State, Shaped s → s.sec.selfTest = true → s.sec.starterDue = false → (∀ i : Fin 4, srcBypassed s i.val = false) → ∃ t u,
    exec (.rngSelfTestEnd 0xF true) s = .next t ∧ exec (.rngSelfTestEnd 0xF false) s = .next u ∧ t.sec.selfTest = false ∧
    t.sec.rng = .running ∧ t.sec.reseedAt = monoUs s ∧ (∀ i : Fin 4, (getSource t i.val).st = .healthy) ∧
    t.sec.starter = s.sec.starter ∧ u.sec.selfTest = false ∧ u.sec.rng = .stopped ∧ u.sec.starter = s.sec.starter) ∧
  (∀ s v : State, Shaped s → s.sec.selfTest = true → s.sec.starterDue = true → (∀ i : Fin 4, unitSt s uRng i.val = .up) →
    v = instantiate (modSec (fun b => { b with
      selfTest := false, selfTestReq := false, sources := b.sources.map (fun x => { x with st := .healthy, fails := [] }) }) s) →
    canLog (.other 486 (s.sec.starterGen + 1)) s = true → ∃ t, exec (.rngSelfTestEnd 0xF true) s = .next t ∧
    t.sec.starter = drbgOut v.sec.drbg 32 ∧ t.sec.starterChk = aes (drbgOut v.sec.drbg 32) (zeros 16) ∧
    t.sec.starterGen = s.sec.starterGen + 1 ∧ t.sec.starterDue = false ∧ t.radio.near = [])

/-- Images and configuration records (R540–R552, R557–R559, R562–R564): STAGE writes and checks an image, PUSH offers it, SCHEDULE and
CANCEL set and clear its activation, CFG_WRITE stores a record with a higher GEN, and STATUS writes what it reports. -/
def Obligations.ImagesAndRecords : Prop :=
  (∀ (r : Nat) (d data h : Bytes) (b : Bool) (f : Flight) (s : State), Ready 0x0C00 r f s → s.upd.recv = none → s.upd.schedOp = none →
    updTurn s r f = true → slotBusy s = false → hashUp s = true → pkeUp s = true → data = slice d 0 (dLen f.raw) →
    h = slice data 0 65536 → b = updTarget s → dLen f.raw = 65536 + hPayload h → headCheck s h = none → (imageKey s h).isSome = true →
    (∀ c, c < hChunks h → chunkOk h c (nth [] (imageBlocks data) (c + 1)) = true) →
    payloadOk (getSlot (writeBlocks b (imageBlocks data) (imageBlocks data).length (beginSlot b h s)) b) = true → ∃ t,
    exec (.stage r (.ok d) .ok) s = .next t ∧ Done r (hChunks h + 65536 * ofBool b) t ∧ (getSlot t b).st = .staged ∧
    (getSlot t b).ver = hVer h ∧ (getSlot t b).headId = headIdOf h ∧ getSlot t (!b) = getSlot s (!b) ∧
    t.upd.seq = s.upd.seq + 2 ∧ t.upd.events = setBits s.upd.events 0) ∧
  (∀ (r : Nat) (rd : HostRead) (fl : FlashResult) (f : Flight) (s : State), Ready 0x0C00 r f s → s.upd.recv = none →
    s.upd.schedOp = none → updTurn s r f = true → slotBusy s = true → ∃ t, exec (.stage r rd fl) s = .next t ∧
    Ended r fPolicy 0 0x28 t ∧ t.upd = s.upd) ∧
  (∀ (r : Nat) (f : Flight) (eth : List UpdPeer) (p : Push) (s : State), Ready 0x0C01 r f s →
    eth = (if fieldLE f.raw 26 1 < 2 then
      [UpdPeer.eth (Fin.ofNat 2 (fieldLE f.raw 26 1)) (BitVec.ofNat 48 (fieldLE f.raw 32 6))] else []).filter (peerUp s) → s.clk.onRc = false → updBusy s = false →
    updTurn s r f = true → (getSlot s (updTarget s)).st = .staged →
    p = { op := r, route := fieldLE f.raw 24 2,
          open_ := ((routePositions (fieldLE f.raw 24 2)).filter (fun q => (nodeAt s q).isSome)).map (fun q => .line (Fin.ofNat 8 q)) ++
            eth,
          silent := (routePositions (fieldLE f.raw 24 2)).filter (fun q => (nodeAt s q).isNone) ++
            (if fieldLE f.raw 26 1 < 2 ∧ eth = [] then [0] else []) } → ∃ t,
    exec (.push r) s = .next t ∧ (p.open_ = [] → Ended r fAbsent 0 0x2E t ∧ t.upd.push = none) ∧
    (p.open_ ≠ [] → t.upd.push = some p ∧ getFlight t r = some { f with begun := true })) ∧
  (∀ (r : Nat) (s : State), s.clk.onRc = true → exec (.push r) s = .next s) ∧
  (∀ (r : Nat) (f : Flight) (held : List Nat) (b : Bool) (s : State), Ready 0x0C02 r f s → updBusy s = false →
    updTurn s r f = true → fieldLE f.raw 24 8 = 0 ∨ s.clk.wallSet = true → b = updTarget s → (getSlot s b).st = .staged →
    held = (routePositions (fieldLE f.raw 34 2)).filter (fun q => (peerOf s q).code == 2 &&
      (peerOf s q).headId == (getSlot s b).headId) → ∃ t,
    exec (.schedule r) s = .next t ∧ getSlot t b = { getSlot s b with st := .scheduled } ∧ t.upd.actAt = fieldLE f.raw 24 8 ∧
    t.upd.seq = s.upd.seq + 1 ∧
    t.upd.sched = some { windowH := fieldLE f.raw 32 2, route := fieldLE f.raw 34 2, by_ := some (f.ten, dEpoch f.raw),
                         due := monoUs s, sentAt := monoUs s } ∧
    (held = [] → Done r 1 t ∧ t.upd.schedOp = none) ∧
    (held ≠ [] → t.upd.schedOp = some (r, held, 1) ∧ getFlight t r = some { f with begun := true, units := 1 })) ∧
  (∀ (r : Nat) (f : Flight) (s : State), Ready 0x0C02 r f s → updBusy s = false → updTurn s r f = true →
    fieldLE f.raw 24 8 ≠ 0 → s.clk.wallSet = false → ∃ t, exec (.schedule r) s = .next t ∧ Ended r fPolicy 0 0x2A t ∧
    t.upd = s.upd) ∧
  (∀ (r n : Nat) (f : Flight) (b : Bool) (s : State), Ready 0x0C03 r f s → updBusy s = false → updTurn s r f = true →
    scheduledSlot s = some b →
    n = ((routePositions (fieldLE f.raw 34 2)).filter (fun q => (peerOf s q).code == 3 &&
      (peerOf s q).headId == (getSlot s b).headId)).length → ∃ t, exec (.cancel r) s = .next t ∧ Done r (1 + n) t ∧
    getSlot t b = { getSlot s b with st := .staged } ∧ t.upd.actAt = 0 ∧ t.upd.sched = none ∧ t.upd.seq = s.upd.seq + 1) ∧
  (∀ (r : Nat) (f : Flight) (s : State), Ready 0x0C03 r f s → updBusy s = false → updTurn s r f = true →
    scheduledSlot s = none → ∃ t, exec (.cancel r) s = .next t ∧ Ended r fAbsent 0 0x29 t ∧ t.upd = s.upd) ∧
  (∀ (r : Nat) (d w : Bytes) (body : CfgBody) (f : Flight) (x : CfgRec) (s u : State), Ready 0x0C04 r f s → updBusy s = false →
    updTurn s r f = true → w = slice d 0 (dLen f.raw) → x = recOf w body → recFormatOk w = true → recTargetOk s w = true →
    cfgTypeOf body = x.type → hashUp s = true → pkeUp s = true → recSignerKnown s w = true → recSigCode w = 0 →
    cfgBodyOk (boardInCfg s) body = true → fmtServes s x.format = true →
    (∀ e ∈ bankRecs s, e.2.type = x.type → e.2.gen < x.gen) → placeRec x s = some u → ∃ t,
    exec (.cfgWrite r (.ok d) body true) s = .next t ∧ Done r (x.type + 65536 * x.gen) t ∧ t.upd.bank0 = u.upd.bank0 ∧
    t.upd.bank1 = u.upd.bank1 ∧ t.upd.events = setBits s.upd.events 7 ∧ t.cfg = s.cfg) ∧
  (∀ (r : Nat) (f : Flight) (s : State), Ready 0x0C05 r f s → ∃ t, exec (.updStatus r true) s = .next t ∧ Done r 0 t ∧
    t.outs = s.outs ++ [Out.hostWrite (rangeOf f 0).func (rangeOf f 0).addr (updStatusBytes s)])

/-- The transport of images along the chain (R549–R552, R562): OFFER, NEED, PIECE, STATUS, SCHED and UNSCHED, and the timers that go
with them. -/
def Obligations.ImageTransport : Prop :=
  (∀ (p : Fin 2) (mac : BitVec 48) (m : Bytes) (s : State), m.length = 24 → byteAt m 0 = 1 → peerUp s (.eth p mac) = true →
    s.pwr.mode ≠ .hearth → [s.upd.a, s.upd.b].find? (fun y => y.headId == beAt m 4 8 && heldCode y.st != 0) = none →
    updBusy s = false → (getSlot s (updTarget s)).st = .empty → s.upd.a.st ≠ .trial → s.upd.b.st ≠ .trial → ∃ t,
    exec (.offer (.eth p mac) m) s = .next t ∧
    t.upd.recv = some { src := .eth p mac, headId := beAt m 4 8, chunks := beAt m 16 2, route := beAt m 18 2, headOk := false,
                        last := monoUs s, lastPiece := some (monoUs s) } ∧
    t.outs = s.outs ++ [Out.transport p.val mac.toNat (needMsg (beAt m 4 8) 1)]) ∧
  (∀ (mac : BitVec 48) (m : Bytes) (s : State), m.length = 24 → byteAt m 0 = 1 → peerUp s (.eth 0 mac) = true →
    s.pwr.mode = .hearth → hearthBusy s = false → ∃ t, exec (.offer (.eth 0 mac) m) s = .next t ∧ t.upd.hearth.st = 1 ∧
    t.upd.hearth.used = 2 ∧ t.upd.hearth.slotB = hearthSlot s ∧ (∃ x, t.upd.recv = some x ∧ x.src = .eth 0 mac ∧
      x.headId = beAt m 4 8 ∧ x.headOk = false) ∧
    t.outs = s.outs ++ (if vio18 s then [Out.uart 1] else []) ++ [Out.transport 0 mac.toNat (needMsg (beAt m 4 8) 1)]) ∧
  (∀ (p : Fin 2) (mac : BitVec 48) (m : Bytes) (y : Slot) (s : State), m.length = 24 → byteAt m 0 = 1 →
    peerUp s (.eth p mac) = true → s.pwr.mode ≠ .hearth →
    [s.upd.a, s.upd.b].find? (fun y => y.headId == beAt m 4 8 && heldCode y.st != 0) = some y → ∃ t,
    exec (.offer (.eth p mac) m) s = .next t ∧ t.upd = s.upd ∧
    t.outs = s.outs ++ [Out.transport p.val mac.toNat (statusMsg (ownPos s) (heldCode y.st) 0 (beAt m 4 8)
      (if (getSlot s (updTarget s)).headId = beAt m 4 8 then (getSlot s (updTarget s)).blocks.length else 0))]) ∧
  (∀ (p : Fin 2) (mac : BitVec 48) (m : Bytes) (x : Send) (s : State), m.length = 40 → byteAt m 0 = 2 →
    peerUp s (.eth p mac) = true → s.upd.sends.find? (fun x => x.dst == .eth p mac && x.headId == beAt m 4 8) = some x → ∃ t,
    exec (.need (.eth p mac) m) s = .next t ∧ t.upd.a = s.upd.a ∧ t.upd.b = s.upd.b ∧
    t.outs = s.outs ++ (((List.range 224).filter (fun i => bit (beAt m 12 28) i)).flatMap (fun i =>
      pieces ((tabFind (getSlot s (updTarget s)).blocks i).getD []) i)).map (fun q => Out.transport p.val mac.toNat q)) ∧
  (∀ (src : UpdPeer) (m : Bytes) (fl : FlashResult) (x : Recv) (parts : Tab Bytes) (s : State), s.upd.recv = some x → m.length = 1032 →
    byteAt m 0 = 3 → x.src = src → peerUp s src = true → beAt m 2 2 ≤ x.chunks → (beAt m 2 2 = 0 ↔ x.headOk = false) →
    (x.headOk = true → tabFind (getSlot s (recvSlot s)).blocks (beAt m 2 2) = none) →
    parts = tabPut (if x.block = beAt m 2 2 then x.parts else []) (byteAt m 4) (m.drop 8) →
    parts.length ≠ ceilDiv (blockLen (slotHead (getSlot s (recvSlot s))) (beAt m 2 2)) 1024 → ∃ t,
    exec (.piece src m fl) s = .next t ∧ t.upd.recv = some { x with
      last := monoUs s, lastPiece := some (monoUs s), block := beAt m 2 2, parts := parts }) ∧
  (∀ (src : UpdPeer) (m data : Bytes) (b : Bool) (x : Recv) (parts : Tab Bytes) (s : State), s.upd.recv = some x → m.length = 1032 →
    byteAt m 0 = 3 → x.src = src → peerUp s src = true → beAt m 2 2 ≤ x.chunks → beAt m 2 2 ≠ 0 → x.headOk = true →
    b = recvSlot s → tabFind (getSlot s b).blocks (beAt m 2 2) = none →
    parts = tabPut (if x.block = beAt m 2 2 then x.parts else []) (byteAt m 4) (m.drop 8) →
    parts.length = ceilDiv (blockLen (slotHead (getSlot s b)) (beAt m 2 2)) 1024 →
    data = (parts.flatMap (·.2)).take (blockLen (slotHead (getSlot s b)) (beAt m 2 2)) →
    chunkOk (slotHead (getSlot s b)) (beAt m 2 2 - 1) data = true → ∃ t,
    exec (.piece src m .ok) s = .next t ∧ tabFind (getSlot t b).blocks (beAt m 2 2) = some data ∧
    (getSlot t b).headId = (getSlot s b).headId) ∧
  (∀ (q : Fin 8) (m : Bytes) (ver : Nat) (s : State), m.length = 16 → byteAt m 0 = 4 → peerUp s (.line q) = true →
    1 ≤ byteAt m 1 → byteAt m 1 ≤ 7 → s.sys.trailer = false →
    ver = (if s.upd.a.headId = beAt m 4 8 then s.upd.a.ver else if s.upd.b.headId = beAt m 4 8 then s.upd.b.ver else 0) → ∃ t,
    exec (.transportStatus (.line q) m) s = .next t ∧
    peerOf t (byteAt m 1) = { code := byteAt m 2, detail := byteAt m 3, blocks := beAt m 12 2, headId := beAt m 4 8, ver := ver }) ∧
  (∀ (q : Fin 8) (m : Bytes) (x : Push) (f : Flight) (s : State), m.length = 16 → byteAt m 0 = 4 → peerUp s (.line q) = true →
    1 ≤ byteAt m 1 → byteAt m 1 ≤ 7 → s.sys.trailer = false → byteAt m 2 = 2 → s.upd.push = some x →
    x.open_ = [.line (Fin.ofNat 8 (byteAt m 1))] → x.refused = 0 → x.silent = [] → s.upd.schedOp = none →
    getFlight s x.op = some f → f.fate = none → ∃ t, exec (.transportStatus (.line q) m) s = .next t ∧
    Done x.op (min 255 (x.staged + 1) + 65536 * x.passed.length) t ∧ t.upd.push = none) ∧
  (∀ (q : Fin 8) (m : Bytes) (r n : Nat) (f : Flight) (s : State), m.length = 16 → byteAt m 0 = 4 → peerUp s (.line q) = true →
    1 ≤ byteAt m 1 → byteAt m 1 ≤ 7 → s.sys.trailer = false → byteAt m 2 = 3 → s.upd.push = none →
    s.upd.schedOp = some (r, [byteAt m 1], n) → getFlight s r = some f → f.fate = none → ∃ t,
    exec (.transportStatus (.line q) m) s = .next t ∧ Done r (n + 1) t ∧ t.upd.schedOp = none) ∧
  (∀ (src : UpdPeer) (m : Bytes) (b : Bool) (s : State), m.length = 32 → byteAt m 0 = 5 → peerUp s src = true → s.sys.ready = true →
    [false, true].find? (fun b => (getSlot s b).headId == beAt m 4 8 &&
      ((getSlot s b).st == .staged || (getSlot s b).st == .scheduled)) = some b → ∃ t, exec (.sched src m) s = .next t ∧
    getSlot t b = { getSlot s b with st := .scheduled } ∧ t.upd.actAt = beAt m 12 8 ∧
    t.upd.sched = some { windowH := beAt m 28 2, due := monoUs s + 1000 * beAt m 20 8, sentAt := monoUs s }) ∧
  (∀ (src : UpdPeer) (m : Bytes) (b : Bool) (x : Schedule) (s : State), m.length = 12 → byteAt m 0 = 6 → peerUp s src = true →
    scheduledSlot s = some b → (getSlot s b).headId = beAt m 4 8 → s.upd.sched = some x → x.by_ = none → ∃ t,
    exec (.unsched src m) s = .next t ∧ getSlot t b = { getSlot s b with st := .staged } ∧ t.upd.sched = none ∧ t.upd.actAt = 0) ∧
  (∀ (x : Recv) (t0 : Nat) (s : State), s.upd.recv = some x → x.lastPiece = some t0 → ∃ t, exec .needTimer s = .next t ∧
    t0 + 2000000 ≤ monoUs t ∧ monoUs s ≤ monoUs t ∧
    t.upd.recv = some { x with lastPiece := none, since := 0, last := monoUs t }) ∧
  (∀ (x : Recv) (s : State), s.upd.recv = some x → s.upd.sends = [] → ∃ t, exec .transferAbandon s = .next t ∧
    x.last + 10000000 ≤ monoUs t ∧ t.upd.recv = none ∧ t.upd.a = s.upd.a ∧ t.upd.b = s.upd.b) ∧
  (∀ (x : Send) (s : State), s.upd.recv = none → s.upd.sends = [x] → ∃ t, exec .transferAbandon s = .next t ∧
    x.last + 10000000 ≤ monoUs t ∧ t.upd.a = s.upd.a ∧ t.upd.b = s.upd.b ∧ x ∉ t.upd.sends) ∧
  (∀ (x : Schedule) (b : Bool) (s : State), s.upd.sched = some x → scheduledSlot s = some b → x.by_.isSome = true →
    s.sys.ready = true → s.pwr.mode = .cab ∨ s.pwr.mode = .drive →
    (∀ e, deadline s = some e → monoUs s < e ∧ x.sentAt + 60000000 < e) → ∃ t, exec .schedRepeat s = .next t ∧
    x.sentAt + 60000000 ≤ monoUs t ∧ t.upd.sched = some { x with sentAt := monoUs t })

/-- Activation, the handover and the trial (R552–R556): a scheduled slot goes into TRIAL at its deadline, or its schedule lapses; the shadow
takes over, or the handover is given up; and a trial that holds is ACTIVE. -/
def Obligations.ActivationAndTrial : Prop :=
  (∀ (b : Bool) (e : Nat) (s : State), scheduledSlot s = some b → deadline s = some e → mayActivate s = true → s.pwr.mode = .cab →
    monoUs s ≤ windowEnd s e → schedulerHolds s = true → commitCheck s (slotHead (getSlot s b)) = none →
    canLog (.other 552 (ofBool b)) s = true → ∃ t, exec .activationCommit s = .next t ∧
    getSlot t b = { getSlot s b with st := .trial } ∧
    getSlot t (!b) = (if (getSlot s (!b)).st = .active then { getSlot s (!b) with st := .standby } else getSlot s (!b)) ∧
    t.upd.boot = b ∧ t.upd.tries = 0 ∧ t.upd.actAt = 0 ∧ t.upd.sched = none ∧ t.upd.actLsn = s.led.lsn + 1 ∧
    t.upd.events = setBits s.upd.events 2 ∧ t.upd.handover = .loading (monoUs t) ∧ e ≤ monoUs t) ∧
  (∀ (b : Bool) (e : Nat) (s : State), scheduledSlot s = some b → deadline s = some e → mayActivate s = true → s.pwr.mode = .parked →
    s.pwr.slice ≠ none → sliceUp s = true → monoUs s ≤ windowEnd s e → schedulerHolds s = true → commitCheck s (slotHead (getSlot s b)) = none →
    canLog (.other 552 (ofBool b)) s = true → ∃ t, exec .activationCommit s = .next t ∧
    getSlot t b = { getSlot s b with st := .trial } ∧ t.upd.boot = b ∧ t.upd.actLsn = s.led.lsn + 1 ∧
    t.upd.handover = s.upd.handover) ∧
  (∀ (b : Bool) (e : Nat) (s : State), scheduledSlot s = some b → deadline s = some e → mayActivate s = true →
    windowEnd s e < monoUs s → ∃ t, exec .activationCommit s = .next t ∧ getSlot t b = { getSlot s b with st := .staged } ∧
    t.upd.sched = none ∧ t.upd.lapse = 0x2F ∧ t.upd.events = setBits s.upd.events 3) ∧
  (∀ (b : Bool) (e : Nat) (s : State), scheduledSlot s = some b → deadline s = some e → mayActivate s = false → ∃ t,
    exec .activationLapse s = .next t ∧ getSlot t b = { getSlot s b with st := .staged } ∧ t.upd.sched = none ∧
    t.upd.lapse = 0x2F ∧ t.upd.events = setBits s.upd.events 3 ∧ windowEnd s e ≤ monoUs t) ∧
  (∀ (b : Bool) (t0 : Nat) (s : State), s.upd.handover = .loading t0 → trialSlot s = some b → monoUs s ≤ t0 + 2000000 →
    s.pwr.aOut = false → s.pwr.bOut = false → s.pwr.selfTest = none → ∃ t, exec .handoverShadowReady s = .next t ∧
    t.pwr.activeB = !s.pwr.activeB ∧ t.upd.running = some b ∧ t.upd.handover = .hold (monoUs s) ∧ t.flt.shadowOk = true) ∧
  (∀ (b : Bool) (t0 : Nat) (s : State), s.upd.handover = .loading t0 → trialSlot s = some b → ∃ t,
    exec .handoverTimeout s = .next t ∧ t0 + 2000000 ≤ monoUs t ∧ getSlot t b = { getSlot s b with st := .bad } ∧
    getSlot t (!b) = { getSlot s (!b) with st := .active } ∧ t.upd.boot = !b ∧ t.upd.running = some (!b) ∧
    t.upd.handover = .none ∧ t.upd.events = setBits (setBits s.upd.events 6) 4) ∧
  (∀ (t0 : Nat) (s : State), s.upd.handover = .hold t0 → ∃ t, exec .handoverHoldEnd s = .next t ∧
    t.upd = { s.upd with handover := .none } ∧ t0 + 10000000 ≤ monoUs t) ∧
  (∀ (b : Bool) (t0 : Nat) (s : State), s.upd.trialSince = some t0 → trialSlot s = some b → s.sys.ready = true →
    s.pwr.mode = .cab ∨ s.pwr.mode = .drive → canLog (.other 556 0) s = true → ∃ t, exec .trialConfirm s = .next t ∧
    t0 + 300000000 ≤ monoUs t ∧ getSlot t b = { getSlot s b with st := .active } ∧ t.upd.trialSince = none ∧
    t.upd.secFloor = max (secFloor s) (hSecVer (slotHead (getSlot s b))) ∧ t.upd.ledgerFloor = t.upd.secFloor ∧
    t.upd.events = setBits s.upd.events 5)

/-- Hearth downloads (R542, R545, R560, R561): GO, REVERT and the CAN tool begin a download; its checks end in a TRIAL slot and a cold reset, or in
a BAD slot. -/
def Obligations.HearthDownloads : Prop :=
  (∀ (func : Fin 64) (v : BitVec 32) (d data : Bytes) (s : State), hearthRegs s func.val = true → v.getLsbD 0 = true →
    hearthBusy s = false → s.upd.hearth.src.toNat % 4096 = 0 → s.upd.recv = none → data = slice d 0 s.upd.hearth.len.toNat → ∃ t,
    exec (.updHearthGo func v (.ok d)) s = .next t ∧ t.upd.hearth.st = 2 ∧ t.upd.hearth.used = 0 ∧
    t.upd.hearth.slotB = hearthSlot s ∧ t.upd.hearth.total = s.upd.hearth.len.toNat ∧
    (getSlot t (hearthSlot s)).st = .staging ∧ (getSlot t (hearthSlot s)).headId = headIdOf (slice data 0 65536) ∧
    t.outs = s.outs ++ (if vio18 s then [Out.uart 1, Out.uart 2] else [])) ∧
  (∀ (func : Fin 64) (v : BitVec 32) (s : State), hearthRegs s func.val = true → v.getLsbD 0 = true →
    hearthBusy s = false → s.upd.hearth.src.toNat % 4096 = 0 → s.upd.recv = none → ∃ t,
    exec (.updHearthGo func v .failed) s = .next t ∧ t.upd.hearth.st = 3 ∧ t.upd.hearth.detail = 0x11 ∧
    (getSlot t (hearthSlot s)).st = .bad ∧ t.outs = s.outs ++ (if vio18 s then [Out.uart 1, Out.uart 3] else [])) ∧
  (∀ (func : Fin 64) (v : BitVec 32) (b : Bool) (s : State), hearthRegs s func.val = true → v.getLsbD 1 = true →
    hearthBusy s = false → s.upd.recv = none → standbySlot s = some b → ∃ t, exec (.updHearthRevert func v) s = .next t ∧
    t.upd.hearth.st = 2 ∧ t.upd.hearth.used = 3 ∧ t.upd.hearth.slotB = b ∧ t.upd.a = s.upd.a ∧ t.upd.b = s.upd.b ∧
    t.outs = s.outs ++ (if vio18 s then [Out.uart 1, Out.uart 2] else [])) ∧
  (∀ (ident : BitVec 32) (m : Bytes) (s : State), hearthPort s pCan 0 = true → ident.toNat = toolId → m.length = 64 → byteAt m 0 = 1 →
    hearthBusy s = false → s.upd.recv = none → ∃ t, exec (.hearthCanFrame ident m) s = .next t ∧ t.upd.hearth.st = 1 ∧
    t.upd.hearth.used = 1 ∧ t.upd.hearth.total = beAt m 4 4 ∧ t.upd.hearth.got = [] ∧ t.upd.hearth.canAt = monoUs s ∧
    (getSlot t (hearthSlot s)).st = .staging ∧ t.outs = s.outs ++ (if vio18 s then [Out.uart 1] else [])) ∧
  (∀ (ident : BitVec 32) (m got : Bytes) (s : State), hearthPort s pCan 0 = true → ident.toNat = toolId → m.length = 64 → byteAt m 0 = 2 → canLoading s = true →
    60 * beAt m 1 3 ≤ s.upd.hearth.got.length →
    got = (s.upd.hearth.got.take (60 * beAt m 1 3) ++ slice m 4 60 ++ s.upd.hearth.got.drop (60 * beAt m 1 3 + 60)).take
      s.upd.hearth.total → ∃ t, exec (.hearthCanFrame ident m) s = .next t ∧ t.upd.hearth.got = got ∧
    t.upd.hearth.blocks = got.length / 65536 ∧ t.outs = s.outs) ∧
  (∀ (ident : BitVec 32) (m : Bytes) (s : State), hearthPort s pCan 0 = true → ident.toNat = toolId → m.length = 64 → byteAt m 0 = 3 → canLoading s = true →
    s.upd.hearth.got.length ≠ s.upd.hearth.total → ∃ t, exec (.hearthCanFrame ident m) s = .next t ∧
    t.upd.hearth = { s.upd.hearth with canAt := monoUs s } ∧
    t.outs = s.outs ++ [Out.can 0 partId (le 1 0x81 ++ zeros 3 ++ be 4 s.upd.hearth.got.length ++ le 1 1 ++ zeros 55)]) ∧
  (∀ s : State, hearthPort s pCan 0 = true → s.upd.hearth.used = 1 → s.upd.hearth.st ≠ 0 → ∃ t u, exec .hearthCanStatus s = .next t ∧
    u = elapseTo (s.upd.hearth.canAt + 100000) s ∧ t.upd.hearth = { s.upd.hearth with canAt := monoUs t } ∧
    s.upd.hearth.canAt + 100000 ≤ monoUs t ∧
    t.outs = u.outs ++ [Out.can 0 partId (le 1 0x81 ++ zeros 3 ++ be 4 s.upd.hearth.got.length ++ le 1 s.upd.hearth.st ++ zeros 55)]) ∧
  (∀ (fl : FlashResult) (d : Nat) (s : State), s.pwr.mode = .hearth → s.upd.hearth.st = 2 → hearthJudge s fl = some d → ∃ t,
    exec (.hearthDownloadEnd fl) s = .next t ∧ t.upd.hearth.st = 3 ∧ t.upd.hearth.detail = d ∧
    (getSlot t s.upd.hearth.slotB).st = .bad ∧ t.pwr.mode = .hearth ∧ t.outs = s.outs ++ (if vio18 s then [Out.uart 3] else [])) ∧
  (∀ s : State, s.pwr.mode = .hearth → s.upd.hearth.st = 2 → hearthJudge s .ok = none → ∃ t,
    exec (.hearthDownloadEnd .ok) s = .next t ∧ (getSlot t s.upd.hearth.slotB).st = .trial ∧ t.upd.boot = s.upd.hearth.slotB ∧
    t.upd.tries = 0 ∧ t.sys.resetCause = 8 ∧ t.pwr.mode = .cab ∧ t.sys.ready = false)

/-- Whatever the command, and also on an empty queue, a step keeps the accepted descriptors and the fates given (R34), lowers neither the
policy epoch, the ledger's sequence, the recorded SEC_FLOOR nor the journal's ENTRY_SEQ (R540, R556), and changes neither the fuses
nor the number of any unit. -/
def Obligations.EveryStepKeeps : Prop :=
  ∀ s t : State, step s = .next t → Keeps s t

/-- Every step keeps the shape of the part: its 20 cipher lanes, 4 random sources, 16 counters, 4 WAKE pins, 4 Ifeven ports and 4 drives. -/
def Obligations.EveryStepKeepsTheUnits : Prop :=
  ∀ s t : State, Shaped s → step s = .next t → Shaped t

/-- Every command answers a next state and changes only the parts of the state it may touch; every other part, the fuses and the queue
read the same after it. -/
def Obligations.CommandsStayInTheirParts : Prop :=
  ∀ (c : Instr) (s : State), ∃ t, exec c s = .next t ∧ Frame (touches c) s t

/-- Both copies of the latch's code agree, and the code is one of the five of R332. -/
def Obligations.LatchCodeStaysLegal : Prop :=
  ∀ s t : State, (s.slk.comp = ~~~ s.slk.code ∧ s.slk.code ∈ [0x3C#8, 0x5A#8, 0x96#8, 0xA5#8, 0xC3#8]) → step s = .next t →
    t.slk.comp = ~~~ t.slk.code ∧ t.slk.code ∈ [0x3C#8, 0x5A#8, 0x96#8, 0xA5#8, 0xC3#8]

/-- The latch moves only with a ledger record in the same step, or to LOCKED at an AON loss (R25, R29, R305). -/
def Obligations.LatchMovesAreRecorded : Prop :=
  ∀ s t : State, step s = .next t → latch t ≠ latch s → s.led.lsn < t.led.lsn ∨ (t.pwr.aonLost = true ∧ latch t = .locked)

/-- SEC_FLOOR (R556): no step lowers the ledger's value, the journal's, or the greater of the two; a start-up takes the greater of the two,
so that a head below either is refused; and AON loss changes neither. -/
def Obligations.SecFloorNeverDecreases : Prop :=
  (∀ s t : State, step s = .next t → s.upd.secFloor ≤ t.upd.secFloor ∧ s.upd.ledgerFloor ≤ t.upd.ledgerFloor ∧
    secFloor s ≤ secFloor t) ∧
  (∀ (s : State) (h : Bytes), hSecVer h < s.upd.secFloor ∨ hSecVer h < s.upd.ledgerFloor → bootCheck s h ≠ none) ∧
  (∀ s : State, ∃ t, exec .aonLoss s = .next t ∧ t.upd.secFloor = s.upd.secFloor ∧ t.upd.ledgerFloor = s.upd.ledgerFloor)

/-- A new fault record (R571) sets FLT_NEW_EV, and with SEVERITY ALARM it sets FLT_TAMPER_EV whatever FLT_IRQ_SEV reads; while FLT_IRQ_EN
is 1 and its SEVERITY is at least FLT_IRQ_SEV, the physical function's vector FLT_IRQ_VEC is sent, or held pending while masked, and
otherwise no message is. -/
def Obligations.NewFaultRecord : Prop :=
  ∀ (ty ix code sev action detail arg : Nat) (s t : State), canLog (.fault (s.flt.lastNo + 1)) s = true →
    t = writeFault ty ix code sev action detail arg s →
    t.flt.lastNo = s.flt.lastNo + 1 ∧ s.led.lsn < t.led.lsn ∧ t.flt.events.getLsbD 0 = true ∧
    (∃ e, t.flt.faults.getLast? = some e ∧ e.no = s.flt.lastNo + 1 ∧ e.tMono = monoUs s ∧ e.unitType = ty ∧ e.unitIndex = ix ∧
      e.code = code ∧ e.severity = sev ∧ e.action = action ∧ e.detail = detail ∧ e.arg = arg) ∧
    (sev = sAlarm → t.flt.events.getLsbD 5 = true) ∧
    (s.flt.irqEn = true → s.flt.irqSev.toNat ≤ sev → s.flt.irqVec.toNat < vecsOf s 0 →
      if vecOpen s 0 s.flt.irqVec.toNat then t.outs = s.outs ++ [Out.msix 0 s.flt.irqVec.toNat
        (getVec s 0 s.flt.irqVec.toNat).addr.toNat (getVec s 0 s.flt.irqVec.toNat).data.toNat]
      else t.outs = s.outs ∧ (getVec t 0 s.flt.irqVec.toNat).pending = true) ∧
    (s.flt.irqEn = false ∨ sev < s.flt.irqSev.toNat → t.outs = s.outs ∧ t.host.vecs = s.host.vecs)

/-- One fault record per second (R568): within a second of a record of the same unit and CODE a further fault writes none, and the
next record counts it; a change of a unit's service state is recorded without that limit. -/
def Obligations.OneFaultRecordPerSecond : Prop :=
  (∀ (ty ix code sev action detail arg : Nat) (s : State), faultLimited s ty ix code = true →
    (fault ty ix code sev action detail arg s).flt.faults = s.flt.faults ∧ (fault ty ix code sev action detail arg s).led = s.led ∧
    (faultCount s (ty * 256 + ix) code < 0xFFFF →
      faultCount (fault ty ix code sev action detail arg s) (ty * 256 + ix) code = faultCount s (ty * 256 + ix) code + 1)) ∧
  (∀ (ty ix code sev action detail arg : Nat) (s : State), canLog (.fault (s.flt.lastNo + 1)) s = true →
    faultLimited s ty ix code = false → ∃ e, (fault ty ix code sev action detail arg s).flt.faults.getLast? = some e ∧
    e.no = s.flt.lastNo + 1 ∧ e.count = faultCount s (ty * 256 + ix) code ∧
    faultLimited (fault ty ix code sev action detail arg s) ty ix code = true) ∧
  (∀ (kind ix : Nat) (u : UnitSt) (code sev action detail arg : Nat) (s : State), canLog (.fault (s.flt.lastNo + 1)) s = true →
    (changeUnit kind ix u code sev action detail arg s).flt.lastNo = s.flt.lastNo + 1 ∧
    ∃ e, (changeUnit kind ix u code sev action detail arg s).flt.faults.getLast? = some e ∧ e.unitType = kind ∧ e.unitIndex = ix ∧
    e.code = code)

/-- The engine found running while the latch is LOCKED or ARMED (R306): the latch does not move; once per engine run the record marked
ENGINE_NO_RELEASE is written and SLK_NO_RELEASE_RUN is set, and in the same run nothing more is. -/
def Obligations.EngineRunsWithoutRelease : Prop :=
  (∀ s : State, s.pwr.mode ≠ .hearth → s.slk.reconciled = true → engineRunning s = true →
    latch s = .locked ∨ latch s = .armed → latch (engineChange s) = latch s ∧ (engineChange s).slk.code = s.slk.code) ∧
  (∀ s : State, s.pwr.mode ≠ .hearth → s.slk.reconciled = true → engineRunning s = true →
    latch s = .locked ∨ latch s = .armed → s.slk.noReleaseDone = false →
    canLog (.part (stampPart { kind := 0x04, tid := s.slk.bound } s)) s = true →
    (engineChange s).slk.noReleaseDone = true ∧ (engineChange s).slk.events.getLsbD 2 = true ∧
    ∃ e, (engineChange s).led.log.getLast? = some e ∧ e.lsn = s.led.lsn + 1 ∧
      e.kind = .part (stampPart { kind := 0x04, tid := s.slk.bound } s)) ∧
  (∀ s : State, s.pwr.mode ≠ .hearth → s.slk.reconciled = true → engineRunning s = true →
    latch s = .locked ∨ latch s = .armed → s.slk.noReleaseDone = true → engineChange s = s)

/-- The cause of an entry to Hearth mode (R573): every step that enters Hearth mode leaves a fault record owed; the entry keeps its cause
in FLT_HEARTH_CAUSE; and the next release writes the record, with that cause as its argument. -/
def Obligations.HearthEntryIsReported : Prop :=
  (∀ s t : State, step s = .next t → s.pwr.mode ≠ .hearth → t.pwr.mode = .hearth → t.flt.hearthOwed = true) ∧
  (∀ (cause : Nat) (s : State), (enterHearth cause s).pwr.mode = .hearth ∧ (enterHearth cause s).flt.hearthCause = cause ∧
    (enterHearth cause s).flt.hearthOwed = true) ∧
  (∀ s : State, s.flt.hearthOwed = true → canLog (.fault (s.flt.lastNo + 1)) s = true →
    (hearthRecord s).flt.lastNo = s.flt.lastNo + 1 ∧ ∃ e, (hearthRecord s).flt.faults.getLast? = some e ∧
    e.action = 0x07 ∧ e.arg = s.flt.hearthCause) ∧
  (∀ s : State, (release s).flt.hearthOwed = false ∧ (release s).flt.hearthCause = s.flt.hearthCause)

/-- A failed read of a Headrace slot (R130): nothing is accepted, no SEQ is consumed, HR_CI does not move, and the ring enters STOPPED with
DESC_READ; after the ring has been re-enabled, its highest accepted SEQ is still the one before. -/
def Obligations.FailedHeadraceRead : Prop :=
  ∀ (g : Fin 4096) (s : State), released s = true → (getRing s g.val).st = .running → (getRing s g.val).hrPi ≠ (getRing s g.val).hrCi →
    ∃ t, exec (.descriptorReadFailed g) s = .next t ∧ (getRing t g.val).st = .stopped ∧ (getRing t g.val).err = 0x03 ∧
    (getRing t g.val).hrCi = (getRing s g.val).hrCi ∧ (getRing t g.val).hrPi = (getRing s g.val).hrPi ∧
    (getRing t g.val).seqHi = (getRing s g.val).seqHi ∧ t.host.flights = s.host.flights ∧ t.slc = s.slc ∧ t.led = s.led ∧
    ∀ func ten now, (enabledRing func ten now (getRing t g.val)).seqHi = (getRing s g.val).seqHi

/-- Enabling a ring (R106): HR_PI, HR_CI, TR_PI and TR_CI are 0, whatever an earlier enabled period left, and the highest accepted SEQ
carries over. -/
def Obligations.EnabledRingStartsAtZero : Prop :=
  ∀ (func : Fin 64) (g : Nat) (s : State), selectedRing s func.val = some g → released s = true → (getRing s g).st = .disabled →
    enableError s func.val (getFunc s func.val).selTen.toNat (getRing s g).setup = 0 → ∃ t, exec (.ringEnable func) s = .next t ∧
    (getRing t g).st = .running ∧ (getRing t g).err = 0 ∧ (getRing t g).hrPi = 0 ∧ (getRing t g).hrCi = 0 ∧
    (getRing t g).trPi = 0 ∧ (getRing t g).trCi = 0 ∧ (getRing t g).seqHi = (getRing s g).seqHi ∧
    (getRing t g).era = (getRing s g).era + 1 ∧ (getRing t g).armed = true ∧
    (canLog (.ringSet g) s = true → (getRing t g).recorded = (getRing s g).setup) ∧
    ∀ g', g' ≠ g → getRing t g' = getRing s g'

/-- A fate is given once (R34): a descriptor without one takes it, with a ledger record, and one that has its fate keeps it. -/
def Obligations.FateIsGivenOnce : Prop :=
  (∀ (r : Nat) (fr : FateRec) (f : Flight) (s : State), getFlight s r = some f → f.fate = none → ∃ g,
    getFlight (settle r fr s) r = some g ∧ g.fate = some (noteFate fr f s) ∧ g.begun = true ∧ s.led.lsn < (settle r fr s).led.lsn) ∧
  (∀ (r : Nat) (fr : FateRec) (f : Flight) (s : State), getFlight s r = some f → f.fate ≠ none → settle r fr s = s) ∧
  (∀ (r i : Nat) (fr : FateRec) (g : Flight) (s : State), i ≠ r → getFlight s i = some g → g.dupOf ≠ some r →
    getFlight (settle r fr s) i = some g)

/-- A descriptor that ends at once ends alone: a command that serves descriptor `r` leaves every other accepted descriptor as it was, but
for the duplicates that wait for `r`. -/
def Obligations.OtherDescriptorsStand : Prop :=
  ∀ (c : Instr) (r i : Nat) (g : Flight) (s t : State), servesOnly c = some r → i ≠ r → getFlight s i = some g →
    g.dupOf ≠ some r → exec c s = .next t → getFlight t i = some g

/-- A command for one numbered thing leaves its fellows alone: rings, counters, drives, lanes and noise sources. -/
def Obligations.FellowsStand : Prop :=
  (∀ (g : Fin 4096) (w : Bool) (i : Nat) (s t : State), i ≠ g.val → exec (.completionWrite g) s = .next t ∨
    exec (.consumerIndexWriteback g) s = .next t ∨ exec (.descriptorReadFailed g) s = .next t ∨
    exec (.tailraceWriteRefused g w) s = .next t ∨ exec (.ringDrained g) s = .next t → getRing t i = getRing s i) ∧
  (∀ (func : Fin 64) (ten : Fin 1024) (j : Fin 64) (v : BitVec 32) (i : Nat) (s t : State), ringOf s ten.val j.val ≠ some i →
    exec (.doorbellHrPi func ten j v) s = .next t ∨ exec (.doorbellTrCi func ten j v) s = .next t → getRing t i = getRing s i) ∧
  (∀ (func : Fin 64) (v : BitVec 32) (b : Bool) (i : Nat) (s t : State), i ≠ s.clk.cntSel.toNat → exec (.cntEnable func v) s = .next t ∨
    exec (.cntDisable func v) s = .next t ∨ exec (.cntTop func v) s = .next t ∨ exec (.cntCmp func b v) s = .next t →
    nth {} t.clk.cnts i = nth {} s.clk.cnts i) ∧
  (∀ (d i : Fin 4) (s t : State), i ≠ d → exec (.nvmeLinkDown d) s = .next t ∨ exec (.nvmeLinkUp d) s = .next t →
    getDrive t i = getDrive s i) ∧
  (∀ (l i : Fin 20) (c : Int) (s t : State), i ≠ l → (getLane s l.val).st ≠ .wake → exec (.laneOverheat l) s = .next t ∨ exec (.laneCooled l c) s = .next t →
    getLane t i.val = getLane s i.val) ∧
  (∀ (l i : Fin 4) (c : RngCause) (s t : State), i ≠ l → exec (.rngSourceFailure l c) s = .next t ∨
    exec (.sourceReturn l) s = .next t → getSource t i.val = getSource s i.val)
end

