-- ==== Sys2Proof/Laws/Tables.lean ====
section
/-! SUPPORT. The tables by key: what a write leaves to be read, and that every write keeps their canonical form. -/

namespace Sys2Proof.Machine

variable {α : Type}

@[simp] theorem tabGet_tabPut (d : α) (t : Tab α) (k j : Nat) (v : α) :
    tabGet d (tabPut t k v) j = if j = k then v else tabGet d t j := by
  induction t with
  | nil =>
    by_cases h : j = k
    · simp [tabPut, tabGet, h]
    · simp [tabPut, tabGet, h, Ne.symm h]
  | cons e t ih =>
    obtain ⟨a, w⟩ := e
    by_cases h : j = k
    · subst h
      simp only [tabPut]
      split
      · simp [tabGet]
      · split
        · simp [tabGet]
        · rename_i h1 h2
          simp [tabGet, Ne.symm h2, ih]
    · simp only [tabPut]
      split
      · simp [tabGet, h, Ne.symm h]
      · split
        · rename_i h1 h2
          subst h2
          simp [tabGet, h, Ne.symm h]
        · simp [tabGet, h, ih]

@[simp] theorem tabGet_tabErase (d : α) (t : Tab α) (k j : Nat) :
    tabGet d (tabErase t k) j = if j = k then d else tabGet d t j := by
  induction t with
  | nil => simp [tabErase, tabGet]
  | cons e t ih =>
    obtain ⟨a, w⟩ := e
    have ih' : tabGet d (List.filter (fun e => e.1 != k) t) j = if j = k then d else tabGet d t j := ih
    by_cases ha : a = k
    · subst ha
      by_cases h : j = a
      · rw [if_pos h] at ih'
        simp only [h] at ih' ⊢
        simp [tabErase, ih']
      · simp [tabErase, ih', h, tabGet, Ne.symm h]
    · by_cases h : j = k
      · subst h
        simp [tabErase, ha, tabGet, ih']
      · simp [tabErase, ha, tabGet, ih', h]

/-- Reading a table entry after a write of one. -/
theorem tabGet_tabSet [DecidableEq α] (d : α) (t : Tab α) (k j : Nat) (v : α) :
    tabGet d (tabSet d t k v) j = if j = k then v else tabGet d t j := by
  unfold tabSet
  split
  · rename_i h
    rw [tabGet_tabErase]; split <;> simp_all
  · rw [tabGet_tabPut]

end Sys2Proof.Machine
end

