-- ==== Sys2Proof/Laws/Access.lean ====
section
/-! SUPPORT. What the named reads of rings, functions, vectors and tenancies give after the named writes of them. -/

namespace Sys2Proof.Machine

variable {s : State}

theorem tabGet_tabModify {α : Type} [DecidableEq α] (d : α) (t : Tab α) (k j : Nat) (f : α → α) :
    tabGet d (tabModify d t k f) j = if j = k then f (tabGet d t k) else tabGet d t j := tabGet_tabSet ..

@[simp] theorem getRing_modRing (g h : Nat) (f : Ring → Ring) :
    getRing (modRing g f s) h = if h = g then f (getRing s g) else getRing s h := tabGet_tabModify ..

@[simp] theorem getFunc_modFunc (g h : Nat) (f : Func → Func) :
    getFunc (modFunc g f s) h = if h = g then f (getFunc s g) else getFunc s h := tabGet_tabModify ..

@[simp] theorem getTen_modTen (g h : Nat) (f : Tenancy → Tenancy) :
    getTen (modTen g f s) h = if h = g then f (getTen s g) else getTen s h := tabGet_tabModify ..

@[simp] theorem getRun_modRun (g h : Nat) (f : TenRun → TenRun) :
    getRun (modRun g f s) h = if h = g then f (getRun s g) else getRun s h := tabGet_tabModify ..

/-- A vector number fits its table. -/
theorem vecKey_inj {a b v w : Nat} (hv : v < 2048) (hw : w < 2048) (h : vecKey a v = vecKey b w) : a = b ∧ v = w := by
  unfold vecKey at h; omega

@[simp] theorem getVec_modVec (n v : Nat) (f : MsixVec → MsixVec) : getVec (modVec n v f s) n v = f (getVec s n v) := by
  rw [show getVec (modVec n v f s) n v = _ from tabGet_tabModify .., if_pos rfl]; rfl

theorem getRing_of_host {t : State} (h : t.host.rings = s.host.rings) (g : Nat) : getRing t g = getRing s g := by
  simp only [getRing, h]

end Sys2Proof.Machine
end

