-- ==== Sys2Proof/Laws/Frame.lean ====
section
/-! SUPPORT. `Frame` composes, and each block update stays in its own parts. -/

namespace Sys2Proof.Machine

theorem Part.same_refl (s : State) (p : Part) : p.same s s := by cases p <;> simp [Part.same]

theorem Part.same_trans {a b c : State} {p : Part} (h : p.same a b) (k : p.same b c) : p.same a c := by
  cases p <;> simp only [Part.same] at h k ⊢
  case led => exact ⟨k.1.trans h.1, k.2.trans h.2⟩
  all_goals exact k.trans h

theorem Frame.refl (ps : List Part) (s : State) : Frame ps s s := ⟨rfl, rfl, fun p _ => Part.same_refl s p⟩

theorem Frame.trans {ps : List Part} {a b c : State} (h : Frame ps a b) (k : Frame ps b c) : Frame ps a c :=
  ⟨k.1.trans h.1, k.2.1.trans h.2.1, fun p hp => Part.same_trans (h.2.2 p hp) (k.2.2 p hp)⟩

theorem Frame.mono {ps qs : List Part} {s t : State} (h : Frame ps s t) (hq : ps ⊆ qs) : Frame qs s t :=
  ⟨h.1, h.2.1, fun p hp => h.2.2 p fun hm => hp (hq hm)⟩

/-- One list of parts lies in another. -/
def Within (ps qs : List Part) : Prop := ps ⊆ qs

/-! ### Reading a part off a frame -/

theorem Frame.part {ps : List Part} {s t : State} (h : Frame ps s t) (p : Part) (hp : ps.contains p = false) : p.same s t :=
  h.2.2 p fun hm => by simp [hm] at hp

/-- A list of parts lies in another, by evaluation. -/
theorem within_of {ps qs : List Part} (h : ps.all (qs.contains ·) = true) : Within ps qs := by
  intro p hp
  have := List.all_eq_true.mp h p hp
  simpa using this

theorem within_refl (ps : List Part) : Within ps ps := fun _ h => h

section

variable {ps : List Part} {s t : State}

theorem Frame.pwr (h : Frame ps s t) (hp : ps.contains .pwr = false) : t.pwr = s.pwr := h.part .pwr hp
theorem Frame.sys (h : Frame ps s t) (hp : ps.contains .sys = false) : t.sys = s.sys := h.part .sys hp
theorem Frame.flights (h : Frame ps s t) (hp : ps.contains .flights = false) : t.host.flights = s.host.flights := h.part .flights hp
theorem Frame.vecs (h : Frame ps s t) (hp : ps.contains .vecs = false) : t.host.vecs = s.host.vecs := h.part .vecs hp
theorem Frame.run (h : Frame ps s t) (hp : ps.contains .run = false) : t.slc.run = s.slc.run := h.part .run hp
theorem Frame.time (h : Frame ps s t) (hp : ps.contains .time = false) : t.clk.ns = s.clk.ns := h.part .time hp
theorem Frame.counters (h : Frame ps s t) (hp : ps.contains .counters = false) : t.clk.cnts = s.clk.cnts := h.part .counters hp
theorem Frame.led (h : Frame ps s t) (hp : ps.contains .led = false) : t.led = s.led := (h.part .led hp).1
theorem Frame.cfg (h : Frame ps s t) (hp : ps.contains .cfg = false) : t.cfg = s.cfg := h.part .cfg hp
theorem Frame.flt (h : Frame ps s t) (hp : ps.contains .flt = false) : t.flt = s.flt := h.part .flt hp
theorem Frame.sec (h : Frame ps s t) (hp : ps.contains .sec = false) : t.sec = s.sec := h.part .sec hp
theorem Frame.slk (h : Frame ps s t) (hp : ps.contains .slk = false) : t.slk = s.slk := h.part .slk hp
theorem Frame.dir (h : Frame ps s t) (hp : ps.contains .dir = false) : t.dir = s.dir := h.part .dir hp
theorem Frame.radio (h : Frame ps s t) (hp : ps.contains .radio = false) : t.radio = s.radio := h.part .radio hp
theorem Frame.cap (h : Frame ps s t) (hp : ps.contains .cap = false) : t.cap = s.cap := h.part .cap hp
theorem Frame.ifl (h : Frame ps s t) (hp : ps.contains .ifl = false) : t.ifl = s.ifl := h.part .ifl hp
theorem Frame.nfc (h : Frame ps s t) (hp : ps.contains .nfc = false) : t.nfc = s.nfc := h.part .nfc hp
theorem Frame.cus (h : Frame ps s t) (hp : ps.contains .cus = false) : t.cus = s.cus := h.part .cus hp
theorem Frame.upd (h : Frame ps s t) (hp : ps.contains .upd = false) : t.upd = s.upd := h.part .upd hp
theorem Frame.outs (h : Frame ps s t) (hp : ps.contains .outs = false) : t.outs = s.outs := h.part .outs hp
theorem Frame.free (h : Frame ps s t) (hp : ps.contains .free = false) : t.free = s.free := h.part .free hp

/-- The rings, functions and link fields of the HOST block. -/
theorem Frame.rings (h : Frame ps s t) (hp : ps.contains .rings = false) : t.host.rings = s.host.rings := by
  have k := congrArg HostBlk.rings (h.part .rings hp)
  exact k

theorem Frame.funcs (h : Frame ps s t) (hp : ps.contains .rings = false) : t.host.funcs = s.host.funcs := by
  have k := congrArg HostBlk.funcs (h.part .rings hp)
  exact k

theorem Frame.epoch (h : Frame ps s t) (hp : ps.contains .slc = false) : t.slc.epoch = s.slc.epoch := by
  have k := congrArg Slc.epoch (h.part .slc hp)
  exact k

theorem Frame.tens (h : Frame ps s t) (hp : ps.contains .slc = false) : t.slc.tens = s.slc.tens := by
  have k := congrArg Slc.tens (h.part .slc hp)
  exact k

end

theorem Within.trans {ps qs rs : List Part} (h : ps.all (qs.contains ·) = true) (k : Within qs rs) : Within ps rs := by
  intro p hp
  refine k ?_
  have := List.all_eq_true.mp h p hp
  simpa using this

theorem Within.sub {ps qs rs : List Part} (k : Within qs rs) (h : ps.all (qs.contains ·) = true) : Within ps rs :=
  Within.trans h k

/-- Every next state an outcome answers lies in the frame. -/
structure OutFrame (ps : List Part) (s : State) (o : Host.Outcome State Fault Refusal) : Prop where
  out : ∀ t, o = .next t → Frame ps s t

variable {ps : List Part} {s t : State}

theorem OutFrame.next (h : Frame ps s t) : OutFrame ps s (.next t) := by
  constructor; intro u hu; cases hu; exact h

theorem ite_frame {c : Prop} [Decidable c] {a b : State} (h : Frame ps s a) (k : Frame ps s b) :
    Frame ps s (if c then a else b) := by split <;> assumption

/-- A change whose every part outside the list reads the same. -/
theorem step_frame {u : State} (h : Frame ps s t) (hf : u.fuse = t.fuse) (hp : u.pending = t.pending)
    (k : ∀ p, p ∉ ps → p.same t u) : Frame ps s u := h.trans ⟨hf, hp, k⟩

theorem modPwr_frame (h : Frame ps s t) (hm : Within [.pwr] ps) (f : Pwr → Pwr) : Frame ps s (modPwr f t) :=
  step_frame h rfl rfl fun p hp => by cases p <;> first | exact rfl | exact ⟨rfl, rfl⟩ | exact absurd (hm (by decide)) hp
theorem modSys_frame (h : Frame ps s t) (hm : Within [.sys] ps) (f : Sys → Sys) : Frame ps s (modSys f t) :=
  step_frame h rfl rfl fun p hp => by cases p <;> first | exact rfl | exact ⟨rfl, rfl⟩ | exact absurd (hm (by decide)) hp
theorem modHost_frame (h : Frame ps s t) (hm : Within [.rings, .flights, .vecs] ps) (f : HostBlk → HostBlk) :
    Frame ps s (modHost f t) :=
  step_frame h rfl rfl fun p hp => by cases p <;> first | exact rfl | exact ⟨rfl, rfl⟩ | exact absurd (hm (by decide)) hp
theorem modSlc_frame (h : Frame ps s t) (hm : Within [.slc, .run] ps) (f : Slc → Slc) : Frame ps s (modSlc f t) :=
  step_frame h rfl rfl fun p hp => by cases p <;> first | exact rfl | exact ⟨rfl, rfl⟩ | exact absurd (hm (by decide)) hp
theorem modClk_frame (h : Frame ps s t) (hm : Within [.clk, .time, .counters, .led] ps) (f : Clk → Clk) :
    Frame ps s (modClk f t) :=
  step_frame h rfl rfl fun p hp => by cases p <;> first | exact rfl | exact ⟨rfl, rfl⟩ | exact absurd (hm (by decide)) hp
theorem modLed_frame (h : Frame ps s t) (hm : Within [.led] ps) (f : Ledger → Ledger) : Frame ps s (modLed f t) :=
  step_frame h rfl rfl fun p hp => by cases p <;> first | exact rfl | exact ⟨rfl, rfl⟩ | exact absurd (hm (by decide)) hp
theorem modCfg_frame (h : Frame ps s t) (hm : Within [.cfg] ps) (f : CfgSet → CfgSet) : Frame ps s (modCfg f t) :=
  step_frame h rfl rfl fun p hp => by cases p <;> first | exact rfl | exact ⟨rfl, rfl⟩ | exact absurd (hm (by decide)) hp
theorem modFlt_frame (h : Frame ps s t) (hm : Within [.flt] ps) (f : Flt → Flt) : Frame ps s (modFlt f t) :=
  step_frame h rfl rfl fun p hp => by cases p <;> first | exact rfl | exact ⟨rfl, rfl⟩ | exact absurd (hm (by decide)) hp
theorem modSec_frame (h : Frame ps s t) (hm : Within [.sec] ps) (f : Sec → Sec) : Frame ps s (modSec f t) :=
  step_frame h rfl rfl fun p hp => by cases p <;> first | exact rfl | exact ⟨rfl, rfl⟩ | exact absurd (hm (by decide)) hp
theorem modSlk_frame (h : Frame ps s t) (hm : Within [.slk] ps) (f : Slk → Slk) : Frame ps s (modSlk f t) :=
  step_frame h rfl rfl fun p hp => by cases p <;> first | exact rfl | exact ⟨rfl, rfl⟩ | exact absurd (hm (by decide)) hp
theorem modDir_frame (h : Frame ps s t) (hm : Within [.dir] ps) (f : Dir → Dir) : Frame ps s (modDir f t) :=
  step_frame h rfl rfl fun p hp => by cases p <;> first | exact rfl | exact ⟨rfl, rfl⟩ | exact absurd (hm (by decide)) hp
theorem modRadio_frame (h : Frame ps s t) (hm : Within [.radio] ps) (f : Radio → Radio) : Frame ps s (modRadio f t) :=
  step_frame h rfl rfl fun p hp => by cases p <;> first | exact rfl | exact ⟨rfl, rfl⟩ | exact absurd (hm (by decide)) hp
theorem modCap_frame (h : Frame ps s t) (hm : Within [.cap] ps) (f : Cap → Cap) : Frame ps s (modCap f t) :=
  step_frame h rfl rfl fun p hp => by cases p <;> first | exact rfl | exact ⟨rfl, rfl⟩ | exact absurd (hm (by decide)) hp
theorem modIfl_frame (h : Frame ps s t) (hm : Within [.ifl] ps) (f : Ifl → Ifl) : Frame ps s (modIfl f t) :=
  step_frame h rfl rfl fun p hp => by cases p <;> first | exact rfl | exact ⟨rfl, rfl⟩ | exact absurd (hm (by decide)) hp
theorem modNfc_frame (h : Frame ps s t) (hm : Within [.nfc] ps) (f : Nfc → Nfc) : Frame ps s (modNfc f t) :=
  step_frame h rfl rfl fun p hp => by cases p <;> first | exact rfl | exact ⟨rfl, rfl⟩ | exact absurd (hm (by decide)) hp
theorem modCus_frame (h : Frame ps s t) (hm : Within [.cus] ps) (f : Cus → Cus) : Frame ps s (modCus f t) :=
  step_frame h rfl rfl fun p hp => by cases p <;> first | exact rfl | exact ⟨rfl, rfl⟩ | exact absurd (hm (by decide)) hp
theorem modUpd_frame (h : Frame ps s t) (hm : Within [.upd] ps) (f : Upd → Upd) : Frame ps s (modUpd f t) :=
  step_frame h rfl rfl fun p hp => by cases p <;> first | exact rfl | exact ⟨rfl, rfl⟩ | exact absurd (hm (by decide)) hp
theorem emit_frame (h : Frame ps s t) (hm : Within [.outs] ps) (o : Out) : Frame ps s (emit o t) :=
  step_frame h rfl rfl fun p hp => by cases p <;> first | exact rfl | exact ⟨rfl, rfl⟩ | exact absurd (hm (by decide)) hp
theorem drawn_frame (h : Frame ps s t) (hm : Within [.free] ps) (n : Nat) : Frame ps s (drawn n t) :=
  step_frame h rfl rfl fun p hp => by cases p <;> first | exact rfl | exact ⟨rfl, rfl⟩ | exact absurd (hm (by decide)) hp
theorem setDieTemp_frame (h : Frame ps s t) (hm : Within [.pwr, .free] ps) (v : Int) : Frame ps s (setDieTemp v t) := by
  unfold setDieTemp
  split <;> exact step_frame h rfl rfl fun p hp => by
    cases p <;> first | exact rfl | exact ⟨rfl, rfl⟩ | exact absurd (hm (by decide)) hp

theorem modFlight_frame (h : Frame ps s t) (hm : Within [.flights] ps) (r : Nat) (f : Flight → Flight) :
    Frame ps s (modFlight r f t) :=
  step_frame h rfl rfl fun p hp => by cases p <;> first | exact rfl | exact ⟨rfl, rfl⟩ | exact absurd (hm (by decide)) hp
theorem modVec_frame (h : Frame ps s t) (hm : Within [.vecs] ps) (n v : Nat) (f : MsixVec → MsixVec) :
    Frame ps s (modVec n v f t) :=
  step_frame h rfl rfl fun p hp => by cases p <;> first | exact rfl | exact ⟨rfl, rfl⟩ | exact absurd (hm (by decide)) hp
theorem modRing_frame (h : Frame ps s t) (hm : Within [.rings] ps) (g : Nat) (f : Ring → Ring) : Frame ps s (modRing g f t) :=
  step_frame h rfl rfl fun p hp => by cases p <;> first | exact rfl | exact ⟨rfl, rfl⟩ | exact absurd (hm (by decide)) hp
theorem modFunc_frame (h : Frame ps s t) (hm : Within [.rings] ps) (n : Nat) (f : Func → Func) : Frame ps s (modFunc n f t) :=
  step_frame h rfl rfl fun p hp => by cases p <;> first | exact rfl | exact ⟨rfl, rfl⟩ | exact absurd (hm (by decide)) hp
theorem modRun_frame (h : Frame ps s t) (hm : Within [.run] ps) (n : Nat) (f : TenRun → TenRun) : Frame ps s (modRun n f t) :=
  step_frame h rfl rfl fun p hp => by cases p <;> first | exact rfl | exact ⟨rfl, rfl⟩ | exact absurd (hm (by decide)) hp
theorem modTen_frame (h : Frame ps s t) (hm : Within [.slc] ps) (n : Nat) (f : Tenancy → Tenancy) : Frame ps s (modTen n f t) :=
  step_frame h rfl rfl fun p hp => by cases p <;> first | exact rfl | exact ⟨rfl, rfl⟩ | exact absurd (hm (by decide)) hp

theorem logRec_frame (h : Frame ps s t) (hm : Within [.led] ps) (k : LKind) : Frame ps s (logRec k t) :=
  step_frame h rfl rfl fun p hp => by cases p <;> first | exact rfl | exact ⟨rfl, rfl⟩ | exact absurd (hm (by decide)) hp

theorem onlyIf_frame (h : Frame ps s t) (c : Bool) (f : State → State) (hf : ∀ {t}, Frame ps s t → Frame ps s (f t)) :
    Frame ps s (onlyIf c f t) := by
  unfold onlyIf; split
  · exact hf h
  · exact h

theorem foldl_frame {α : Type} (h : Frame ps s t) (l : List α) (f : State → α → State)
    (hf : ∀ x {t}, Frame ps s t → Frame ps s (f t x)) : Frame ps s (l.foldl f t) := by
  induction l generalizing t with
  | nil => exact h
  | cons a l ih => exact ih (hf a h)

theorem each_frame {α : Type} (h : Frame ps s t) (l : List α) (f : α → State → State)
    (hf : ∀ x {t}, Frame ps s t → Frame ps s (f x t)) : Frame ps s (each l f t) :=
  foldl_frame h l _ (fun x _ k => hf x k)

theorem putCnt_frame (h : Frame ps s t) (hm : Within [.counters, .vecs, .outs] ps) (n : Nat) (c : Cnt) :
    Frame ps s (putCnt n c t) := by
  unfold putCnt
  dsimp only
  refine foldl_frame ?_ _ _ fun _ u k => ?_
  · exact step_frame h rfl rfl fun p hp => by
      cases p <;> first | exact rfl | exact ⟨rfl, rfl⟩ | exact absurd (hm (by decide)) hp
  · unfold sendMsix
    refine ite_frame (ite_frame (emit_frame k ?_ _) (modVec_frame k ?_ _ _ _)) k <;>
      exact Within.trans (by decide) hm

theorem elapseNs_frame (h : Frame ps s t) (hm : Within [.time, .counters, .vecs, .outs] ps) (n : Nat) :
    Frame ps s (elapseNs n t) := by
  have k : Frame ps s (onlyIf (cntRuns t) (each (List.range 16) (fun i u =>
      putCnt i (cntElapse (cntSlow t) n (nth {} u.clk.cnts i)) u)) t) :=
    onlyIf_frame h _ _ fun k => each_frame k _ _ fun i _ k => putCnt_frame k (Within.trans (by decide) hm) _ _
  exact step_frame k rfl rfl fun p hp => by
    cases p <;> first | exact rfl | exact ⟨rfl, rfl⟩ | exact absurd (hm (by decide)) hp

end Sys2Proof.Machine
end

