-- ==== Sys2Proof/Laws/FrameOps.lean ====
section
/-! SUPPORT. Which parts of the state the operations of Ops, Time, FaultOps, Angle, Counter can change (Safety.Frame), one lemma each, in the order of their definitions. -/

set_option linter.unusedTactic false
set_option linter.unreachableTactic false
set_option linter.unusedSimpArgs false
set_option linter.unusedVariables false

namespace Sys2Proof.Machine

variable {ps : List Part} {s t : State}

theorem fromRtc_frame (h : Frame ps s t) (hm : Within [.time, .counters, .clk, .led] ps) : Frame ps s (fromRtc t) := by
  unfold fromRtc
  repeat'
    first
    | (show Within _ _; exact Within.trans (by decide) hm)
    | intro _
    | with_reducible (first | assumption | apply modClk_frame)

theorem sendMsix_frame (h : Frame ps s t) (hm : Within [.vecs, .outs] ps) (a1) (a2) : Frame ps s (sendMsix a1 a2 t) := by
  unfold sendMsix
  repeat'
    first
    | (show Within _ _; exact Within.trans (by decide) hm)
    | intro _
    | with_reducible (first | assumption | apply emit_frame | apply modVec_frame | apply ite_frame)
    | split

theorem tryLog_frame (h : Frame ps s t) (hm : Within [.led] ps) (a1) : Frame ps s (tryLog a1 t) := by
  unfold tryLog
  repeat'
    first
    | (show Within _ _; exact Within.trans (by decide) hm)
    | intro _
    | with_reducible (first | assumption | apply logRec_frame | apply ite_frame)
    | split

theorem logPart_frame (h : Frame ps s t) (hm : Within [.led] ps) (a1) : Frame ps s (logPart a1 t) := by
  unfold logPart
  repeat'
    first
    | (show Within _ _; exact Within.trans (by decide) hm)
    | intro _
    | with_reducible (first | assumption | apply tryLog_frame)

theorem returnCharge_frame (h : Frame ps s t) (hm : Within [.run] ps) (a1) : Frame ps s (returnCharge a1 t) := by
  unfold returnCharge
  repeat'
    first
    | (show Within _ _; exact Within.trans (by decide) hm)
    | intro _
    | with_reducible (first | assumption | apply modRun_frame)
    | split

theorem settleDups_frame (h : Frame ps s t) (hm : Within [.flights, .led] ps) (a1) (a2) : Frame ps s (settleDups a1 a2 t) := by
  unfold settleDups
  repeat'
    first
    | (show Within _ _; exact Within.trans (by decide) hm)
    | intro _
    | with_reducible (first | assumption | apply each_frame | apply logRec_frame | apply modFlight_frame | apply ite_frame)
    | split

theorem noteV_frame (h : Frame ps s t) (hm : Within [.run, .slc] ps) : Frame ps s (noteV t) := by
  unfold noteV
  repeat'
    first
    | (show Within _ _; exact Within.trans (by decide) hm)
    | intro _
    | with_reducible (first | assumption | apply modSlc_frame)

theorem settle_frame (h : Frame ps s t) (hm : Within [.flights, .run, .slc, .led] ps) (a1) (a2) : Frame ps s (settle a1 a2 t) := by
  unfold settle
  repeat'
    first
    | (show Within _ _; exact Within.trans (by decide) hm)
    | intro _
    | with_reducible (first | assumption | apply settleDups_frame | apply logRec_frame | apply onlyIf_frame | apply returnCharge_frame | apply modFlight_frame | apply noteV_frame | apply ite_frame)
    | split

theorem startOp_frame (h : Frame ps s t) (hm : Within [.flights, .run, .slc, .led] ps) (a1) (a2) (f1 : _ → State → State) (hf1 : ∀ a {t}, Frame ps s t → Frame ps s (f1 a t)) : Frame ps s (startOp a1 a2 f1 t) := by
  unfold startOp
  repeat'
    first
    | (show Within _ _; exact Within.trans (by decide) hm)
    | intro _
    | with_reducible (first | assumption | apply hf1 | apply modFlight_frame | apply noteV_frame | apply settle_frame | apply ite_frame)
    | split

theorem onOp_frame (h : Frame ps s t) (hm : Within [] ps) (a1) (a2) (f1 : _ → State → State) (hf1 : ∀ a {t}, Frame ps s t → Frame ps s (f1 a t)) : Frame ps s (onOp a1 a2 f1 t) := by
  unfold onOp
  repeat'
    first
    | (show Within _ _; exact Within.trans (by decide) hm)
    | intro _
    | with_reducible (first | assumption | apply hf1 | apply ite_frame)
    | split

theorem atStage_frame (h : Frame ps s t) (hm : Within [.flights] ps) (a1) (a2) (a3) : Frame ps s (atStage a1 a2 a3 t) := by
  unfold atStage
  repeat'
    first
    | (show Within _ _; exact Within.trans (by decide) hm)
    | intro _
    | with_reducible (first | assumption | apply modFlight_frame)

theorem culvertWrite_frame (h : Frame ps s t) (hm : Within [.outs] ps) (a1) (a2) (a3) : Frame ps s (culvertWrite a1 a2 a3 t) := by
  unfold culvertWrite
  repeat'
    first
    | (show Within _ _; exact Within.trans (by decide) hm)
    | intro _
    | with_reducible (first | assumption | apply emit_frame)

theorem writeAndSettle_frame (h : Frame ps s t) (hm : Within [.flights, .run, .slc, .led, .outs] ps) (a1) (a2) (a3) (a4) (a5) (a6) : Frame ps s (writeAndSettle a1 a2 a3 a4 a5 a6 t) := by
  unfold writeAndSettle
  repeat'
    first
    | (show Within _ _; exact Within.trans (by decide) hm)
    | intro _
    | with_reducible (first | assumption | apply settle_frame | apply culvertWrite_frame | apply ite_frame)
    | split

theorem withRead_frame (h : Frame ps s t) (hm : Within [.flights, .run, .slc, .led] ps) (a1) (a2) (a3) (a4) (f1 : _ → State → State) (hf1 : ∀ a {t}, Frame ps s t → Frame ps s (f1 a t)) : Frame ps s (withRead a1 a2 a3 a4 f1 t) := by
  unfold withRead
  repeat'
    first
    | (show Within _ _; exact Within.trans (by decide) hm)
    | intro _
    | with_reducible (first | assumption | apply hf1 | apply settle_frame)
    | split

theorem commitPoint_frame (h : Frame ps s t) (hm : Within [.flights, .run, .slc, .led] ps) (a1) (a2) (a3) (a4) (a5) (a6) (f1 : State → State) (hf1 : ∀ {t}, Frame ps s t → Frame ps s (f1 t)) : Frame ps s (commitPoint a1 a2 a3 a4 a5 a6 f1 t) := by
  unfold commitPoint
  repeat'
    first
    | (show Within _ _; exact Within.trans (by decide) hm)
    | intro _
    | with_reducible (first | assumption | apply hf1 | apply logRec_frame | apply settle_frame | apply ite_frame)
    | split

theorem signalRing_frame (h : Frame ps s t) (hm : Within [.vecs, .rings, .outs] ps) (a1) : Frame ps s (signalRing a1 t) := by
  unfold signalRing
  repeat'
    first
    | (show Within _ _; exact Within.trans (by decide) hm)
    | intro _
    | with_reducible (first | assumption | apply modRing_frame | apply sendMsix_frame)

theorem countForIrq_frame (h : Frame ps s t) (hm : Within [.vecs, .rings, .outs] ps) (a1) (a2) (a3) : Frame ps s (countForIrq a1 a2 a3 t) := by
  unfold countForIrq
  repeat'
    first
    | (show Within _ _; exact Within.trans (by decide) hm)
    | intro _
    | with_reducible (first | assumption | apply signalRing_frame | apply modRing_frame | apply ite_frame)
    | split
    | (extract_lets +onlyGivenNames x; first | (refine (fun hx : Frame ps s x => ?_) ?_ <;> [clear_value x; subst x]) | clear_value x)

theorem stopRing_frame (h : Frame ps s t) (hm : Within [.vecs, .rings, .outs] ps) (a1) (a2) : Frame ps s (stopRing a1 a2 t) := by
  unfold stopRing
  repeat'
    first
    | (show Within _ _; exact Within.trans (by decide) hm)
    | intro _
    | with_reducible (first | assumption | apply modRing_frame | apply sendMsix_frame | apply ite_frame)
    | split
    | (extract_lets +onlyGivenNames x; first | (refine (fun hx : Frame ps s x => ?_) ?_ <;> [clear_value x; subst x]) | clear_value x)

theorem recordRing_frame (h : Frame ps s t) (hm : Within [.rings, .led] ps) (a1) (a2) : Frame ps s (recordRing a1 a2 t) := by
  unfold recordRing
  repeat'
    first
    | (show Within _ _; exact Within.trans (by decide) hm)
    | intro _
    | with_reducible (first | assumption | apply logRec_frame | apply modRing_frame | apply ite_frame)
    | split

theorem drainRing_frame (h : Frame ps s t) (hm : Within [.rings, .led] ps) (a1) : Frame ps s (drainRing a1 t) := by
  unfold drainRing
  repeat'
    first
    | (show Within _ _; exact Within.trans (by decide) hm)
    | intro _
    | with_reducible (first | assumption | apply recordRing_frame | apply ite_frame)
    | split

theorem settleBuckets_frame (h : Frame ps s t) (hm : Within [.run, .slc] ps) : Frame ps s (settleBuckets t) := by
  unfold settleBuckets
  repeat'
    first
    | (show Within _ _; exact Within.trans (by decide) hm)
    | intro _
    | with_reducible (first | assumption | apply modSlc_frame | apply ite_frame)
    | split

theorem setUnit_frame (h : Frame ps s t) (hm : Within [.flt] ps) (a1) (a2) (a3) : Frame ps s (setUnit a1 a2 a3 t) := by
  unfold setUnit
  repeat'
    first
    | (show Within _ _; exact Within.trans (by decide) hm)
    | intro _
    | with_reducible (first | assumption | apply modFlt_frame)

theorem elapseToNs_frame (h : Frame ps s t) (hm : Within [.vecs, .time, .counters, .outs] ps) (a1) : Frame ps s (elapseToNs a1 t) := by
  unfold elapseToNs
  repeat'
    first
    | (show Within _ _; exact Within.trans (by decide) hm)
    | intro _
    | with_reducible (first | assumption | apply elapseNs_frame | apply ite_frame)
    | split

theorem elapseTo_frame (h : Frame ps s t) (hm : Within [.vecs, .time, .counters, .outs] ps) (a1) : Frame ps s (elapseTo a1 t) := by
  unfold elapseTo
  repeat'
    first
    | (show Within _ _; exact Within.trans (by decide) hm)
    | intro _
    | with_reducible (first | assumption | apply elapseToNs_frame | apply ite_frame)
    | split

theorem cntRateChange_frame (h : Frame ps s t) (hm : Within [.time, .counters, .clk, .led] ps) : Frame ps s (cntRateChange t) := by
  unfold cntRateChange
  repeat'
    first
    | (show Within _ _; exact Within.trans (by decide) hm)
    | intro _
    | with_reducible (first | assumption | apply modClk_frame)

theorem writeFault_frame (h : Frame ps s t) (hm : Within [.vecs, .led, .flt, .outs] ps) (a1) (a2) (a3) (a4) (a5) (a6) (a7) : Frame ps s (writeFault a1 a2 a3 a4 a5 a6 a7 t) := by
  unfold writeFault
  repeat'
    first
    | (show Within _ _; exact Within.trans (by decide) hm)
    | intro _
    | with_reducible (first | assumption | apply logRec_frame | apply modFlt_frame | apply sendMsix_frame | apply ite_frame)
    | split
    | (extract_lets +onlyGivenNames x; first | (refine (fun hx : Frame ps s x => ?_) ?_ <;> [clear_value x; subst x]) | clear_value x)

theorem fault_frame (h : Frame ps s t) (hm : Within [.vecs, .led, .flt, .outs] ps) (a1) (a2) (a3) (a4) (a5) (a6) (a7) : Frame ps s (fault a1 a2 a3 a4 a5 a6 a7 t) := by
  unfold fault
  repeat'
    first
    | (show Within _ _; exact Within.trans (by decide) hm)
    | intro _
    | with_reducible (first | assumption | apply writeFault_frame | apply modFlt_frame | apply ite_frame)
    | split
    | (extract_lets +onlyGivenNames x; first | (refine (fun hx : Frame ps s x => ?_) ?_ <;> [clear_value x; subst x]) | clear_value x)

theorem changeUnit_frame (h : Frame ps s t) (hm : Within [.vecs, .led, .flt, .outs] ps) (a1) (a2) (a3) (a4) (a5) (a6) (a7) (a8) : Frame ps s (changeUnit a1 a2 a3 a4 a5 a6 a7 a8 t) := by
  unfold changeUnit
  repeat'
    first
    | (show Within _ _; exact Within.trans (by decide) hm)
    | intro _
    | with_reducible (first | assumption | apply modFlt_frame | apply writeFault_frame | apply setUnit_frame)

theorem reportUnit_frame (h : Frame ps s t) (hm : Within [.vecs, .led, .flt, .outs] ps) (a1) (a2) (a3) (a4) (a5) : Frame ps s (reportUnit a1 a2 a3 a4 a5 t) := by
  unfold reportUnit
  repeat'
    first
    | (show Within _ _; exact Within.trans (by decide) hm)
    | intro _
    | with_reducible (first | assumption | apply modFlt_frame | apply writeFault_frame)

theorem outOfService_frame (h : Frame ps s t) (hm : Within [.vecs, .led, .flt, .outs] ps) (a1) (a2) (a3) (a4) (a5) : Frame ps s (outOfService a1 a2 a3 a4 a5 t) := by
  unfold outOfService
  repeat'
    first
    | (show Within _ _; exact Within.trans (by decide) hm)
    | intro _
    | with_reducible (first | assumption | apply changeUnit_frame | apply ite_frame)
    | split

theorem backInService_frame (h : Frame ps s t) (hm : Within [.vecs, .led, .flt, .outs] ps) (a1) (a2) : Frame ps s (backInService a1 a2 t) := by
  unfold backInService
  repeat'
    first
    | (show Within _ _; exact Within.trans (by decide) hm)
    | intro _
    | with_reducible (first | assumption | apply changeUnit_frame | apply ite_frame)
    | split

theorem raiseEnable_frame (h : Frame ps s t) (hm : Within [.pwr, .outs] ps) (a1) : Frame ps s (raiseEnable a1 t) := by
  unfold raiseEnable
  repeat'
    first
    | (show Within _ _; exact Within.trans (by decide) hm)
    | intro _
    | with_reducible (first | assumption | apply emit_frame | apply modPwr_frame | apply ite_frame)
    | split

theorem coexPins_frame (h : Frame ps s t) (hm : Within [.outs] ps) (a1) : Frame ps s (coexPins a1 t) := by
  unfold coexPins
  repeat'
    first
    | (show Within _ _; exact Within.trans (by decide) hm)
    | intro _
    | with_reducible (first | assumption | apply each_frame | apply onlyIf_frame | apply emit_frame | apply ite_frame)
    | split

theorem uartLine_frame (h : Frame ps s t) (hm : Within [.outs] ps) (a1) : Frame ps s (uartLine a1 t) := by
  unfold uartLine
  repeat'
    first
    | (show Within _ _; exact Within.trans (by decide) hm)
    | intro _
    | with_reducible (first | assumption | apply onlyIf_frame | apply emit_frame)

theorem lowerEnable_frame (h : Frame ps s t) (hm : Within [.pwr, .outs] ps) (a1) : Frame ps s (lowerEnable a1 t) := by
  unfold lowerEnable
  repeat'
    first
    | (show Within _ _; exact Within.trans (by decide) hm)
    | intro _
    | with_reducible (first | assumption | apply onlyIf_frame | apply coexPins_frame | apply emit_frame | apply modPwr_frame | apply ite_frame)
    | split

theorem lowerFrom_frame (h : Frame ps s t) (hm : Within [.pwr, .outs] ps) (a1) : Frame ps s (lowerFrom a1 t) := by
  unfold lowerFrom
  repeat'
    first
    | (show Within _ _; exact Within.trans (by decide) hm)
    | intro _
    | with_reducible (first | assumption | apply each_frame | apply lowerEnable_frame)

theorem raiseEach_frame (h : Frame ps s t) (hm : Within [.pwr, .outs] ps) (a1) : Frame ps s (raiseEach a1 t) := by
  unfold raiseEach
  repeat'
    first
    | (show Within _ _; exact Within.trans (by decide) hm)
    | intro _
    | with_reducible (first | assumption | apply each_frame | apply raiseEnable_frame | apply ite_frame)
    | split

theorem gather_frame (h : Frame ps s t) (hm : Within [.sec] ps) : Frame ps s (gather t) := by
  unfold gather
  repeat'
    first
    | (show Within _ _; exact Within.trans (by decide) hm)
    | intro _
    | with_reducible (first | assumption | apply modSec_frame)

theorem discardBlock_frame (h : Frame ps s t) (hm : Within [.sec] ps) (a1) : Frame ps s (discardBlock a1 t) := by
  unfold discardBlock
  repeat'
    first
    | (show Within _ _; exact Within.trans (by decide) hm)
    | intro _
    | with_reducible (first | assumption | apply gather_frame | apply modSec_frame | apply ite_frame)
    | split
    | (extract_lets +onlyGivenNames x; first | (refine (fun hx : Frame ps s x => ?_) ?_ <;> [clear_value x; subst x]) | clear_value x)

theorem startBlock_frame (h : Frame ps s t) (hm : Within [.sec] ps) : Frame ps s (startBlock t) := by
  unfold startBlock
  repeat'
    first
    | (show Within _ _; exact Within.trans (by decide) hm)
    | intro _
    | with_reducible (first | assumption | apply modSec_frame)

theorem nextBlock_frame (h : Frame ps s t) (hm : Within [.sec, .free] ps) : Frame ps s (nextBlock t) := by
  unfold nextBlock
  repeat'
    first
    | (show Within _ _; exact Within.trans (by decide) hm)
    | intro _
    | with_reducible (first | assumption | apply startBlock_frame | apply drawn_frame)

theorem reseed_frame (h : Frame ps s t) (hm : Within [.sec, .free] ps) : Frame ps s (reseed t) := by
  unfold reseed
  repeat'
    first
    | (show Within _ _; exact Within.trans (by decide) hm)
    | intro _
    | with_reducible (first | assumption | apply modSec_frame | apply nextBlock_frame)

theorem instantiate_frame (h : Frame ps s t) (hm : Within [.sec, .free] ps) : Frame ps s (instantiate t) := by
  unfold instantiate
  repeat'
    first
    | (show Within _ _; exact Within.trans (by decide) hm)
    | intro _
    | with_reducible (first | assumption | apply nextBlock_frame | apply modSec_frame)
    | split
    | (extract_lets +onlyGivenNames x; first | (refine (fun hx : Frame ps s x => ?_) ?_ <;> [clear_value x; subst x]) | clear_value x)

theorem stopRng_frame (h : Frame ps s t) (hm : Within [.sec] ps) : Frame ps s (stopRng t) := by
  unfold stopRng
  repeat'
    first
    | (show Within _ _; exact Within.trans (by decide) hm)
    | intro _
    | with_reducible (first | assumption | apply modSec_frame)

theorem readied_frame (h : Frame ps s t) (hm : Within [.sec, .free] ps) : Frame ps s (readied t) := by
  unfold readied
  repeat'
    first
    | (show Within _ _; exact Within.trans (by decide) hm)
    | intro _
    | with_reducible (first | assumption | apply onlyIf_frame | apply reseed_frame)

theorem powerSlice_frame (h : Frame ps s t) (hm : Within [.pwr, .outs] ps) : Frame ps s (powerSlice t) := by
  unfold powerSlice
  repeat'
    first
    | (show Within _ _; exact Within.trans (by decide) hm)
    | intro _
    | with_reducible (first | assumption | apply raiseEach_frame)

theorem slicePowered_frame (h : Frame ps s t) (hm : Within [.sec, .free] ps) : Frame ps s (slicePowered t) := by
  unfold slicePowered
  repeat'
    first
    | (show Within _ _; exact Within.trans (by decide) hm)
    | intro _
    | with_reducible (first | assumption | apply startBlock_frame | apply onlyIf_frame | apply reseed_frame)
    | split
    | (extract_lets +onlyGivenNames x; first | (refine (fun hx : Frame ps s x => ?_) ?_ <;> [clear_value x; subst x]) | clear_value x)

theorem drew_frame (h : Frame ps s t) (hm : Within [.sec, .free] ps) (a1) (a2) : Frame ps s (drew a1 a2 t) := by
  unfold drew
  repeat'
    first
    | (show Within _ _; exact Within.trans (by decide) hm)
    | intro _
    | with_reducible (first | assumption | apply modSec_frame | apply readied_frame | apply drawn_frame | apply ite_frame)
    | split

theorem joinQueue_frame (h : Frame ps s t) (hm : Within [.sec] ps) (a1) (a2) (a3) : Frame ps s (joinQueue a1 a2 a3 t) := by
  unfold joinQueue
  repeat'
    first
    | (show Within _ _; exact Within.trans (by decide) hm)
    | intro _
    | with_reducible (first | assumption | apply modSec_frame | apply ite_frame)
    | split

theorem leaveQueue_frame (h : Frame ps s t) (hm : Within [.sec] ps) (a1) : Frame ps s (leaveQueue a1 t) := by
  unfold leaveQueue
  repeat'
    first
    | (show Within _ _; exact Within.trans (by decide) hm)
    | intro _
    | with_reducible (first | assumption | apply modSec_frame)

theorem grantWindow_frame (h : Frame ps s t) (hm : Within [.time, .counters, .clk, .led] ps) (a1) (a2) (a3) : Frame ps s (grantWindow a1 a2 a3 t) := by
  unfold grantWindow
  repeat'
    first
    | (show Within _ _; exact Within.trans (by decide) hm)
    | intro _
    | with_reducible (first | assumption | apply modClk_frame)

theorem recut_frame (h : Frame ps s t) (hm : Within [.time, .counters, .clk, .led] ps) : Frame ps s (recut t).1 := by
  unfold recut
  repeat'
    first
    | (show Within _ _; exact Within.trans (by decide) hm)
    | intro _
    | with_reducible (first | assumption | apply modClk_frame | apply ite_frame)
    | split
    | (extract_lets +onlyGivenNames x; first | (refine (fun hx : Frame ps s x => ?_) ?_ <;> [clear_value x; subst x]) | clear_value x)
    | dsimp only

theorem leaveCrank_frame (h : Frame ps s t) (hm : Within [.time, .counters, .clk, .led] ps) (a1) : Frame ps s (leaveCrank a1 t) := by
  unfold leaveCrank
  repeat'
    first
    | (show Within _ _; exact Within.trans (by decide) hm)
    | intro _
    | with_reducible (first | assumption | apply modClk_frame)

theorem leaveProp_frame (h : Frame ps s t) (hm : Within [.time, .counters, .clk, .led] ps) (a1) (a2) : Frame ps s (leaveProp a1 a2 t) := by
  unfold leaveProp
  repeat'
    first
    | (show Within _ _; exact Within.trans (by decide) hm)
    | intro _
    | with_reducible (first | assumption | apply modClk_frame)

theorem propWatch_frame (h : Frame ps s t) (hm : Within [.time, .counters, .clk, .led] ps) (a1) : Frame ps s (propWatch a1 t) := by
  unfold propWatch
  repeat'
    first
    | (show Within _ _; exact Within.trans (by decide) hm)
    | intro _
    | with_reducible (first | assumption | apply leaveProp_frame | apply ite_frame)
    | split

theorem onCrankLost_frame (h : Frame ps s t) (hm : Within [.time, .counters, .clk, .led] ps) : Frame ps s (onCrankLost t) := by
  unfold onCrankLost
  repeat'
    first
    | (show Within _ _; exact Within.trans (by decide) hm)
    | intro _
    | with_reducible (first | assumption | apply modClk_frame | apply leaveCrank_frame | apply ite_frame)
    | split
    | (extract_lets +onlyGivenNames x; first | (refine (fun hx : Frame ps s x => ?_) ?_ <;> [clear_value x; subst x]) | clear_value x)

theorem refEngineStop_frame (h : Frame ps s t) (hm : Within [.time, .counters, .clk, .led] ps) : Frame ps s (refEngineStop t) := by
  unfold refEngineStop
  repeat'
    first
    | (show Within _ _; exact Within.trans (by decide) hm)
    | intro _
    | with_reducible (first | assumption | apply modClk_frame | apply ite_frame)
    | split

theorem onCrankSync_frame (h : Frame ps s t) (hm : Within [.time, .counters, .clk, .led] ps) : Frame ps s (onCrankSync t) := by
  unfold onCrankSync
  repeat'
    first
    | (show Within _ _; exact Within.trans (by decide) hm)
    | intro _
    | with_reducible (first | assumption | apply modClk_frame | apply ite_frame)
    | split

theorem execCntEnable_frame (h : Frame ps s t) (hm : Within [.vecs, .counters, .outs] ps) (a1) (a2) : OutFrame ps s (execCntEnable a1 a2 t) := by
  unfold execCntEnable
  repeat'
    first
    | (show Within _ _; exact Within.trans (by decide) hm)
    | intro _
    | with_reducible (first | assumption | apply OutFrame.next | apply putCnt_frame | apply ite_frame)
    | split

theorem execCntDisable_frame (h : Frame ps s t) (hm : Within [.vecs, .counters, .outs] ps) (a1) (a2) : OutFrame ps s (execCntDisable a1 a2 t) := by
  unfold execCntDisable
  repeat'
    first
    | (show Within _ _; exact Within.trans (by decide) hm)
    | intro _
    | with_reducible (first | assumption | apply OutFrame.next | apply putCnt_frame | apply ite_frame)
    | split

theorem execCntTop_frame (h : Frame ps s t) (hm : Within [.vecs, .counters, .outs] ps) (a1) (a2) : OutFrame ps s (execCntTop a1 a2 t) := by
  unfold execCntTop
  repeat'
    first
    | (show Within _ _; exact Within.trans (by decide) hm)
    | intro _
    | with_reducible (first | assumption | apply OutFrame.next | apply putCnt_frame | apply ite_frame)
    | split

theorem execCntCmp_frame (h : Frame ps s t) (hm : Within [.vecs, .counters, .outs] ps) (a1) (a2) (a3) : OutFrame ps s (execCntCmp a1 a2 a3 t) := by
  unfold execCntCmp
  repeat'
    first
    | (show Within _ _; exact Within.trans (by decide) hm)
    | intro _
    | with_reducible (first | assumption | apply OutFrame.next | apply putCnt_frame | apply ite_frame)
    | split

theorem execCompareMatch_frame (h : Frame ps s t) (hm : Within [.vecs, .time, .counters, .outs] ps) (a1) (a2) : OutFrame ps s (execCompareMatch a1 a2 t) := by
  unfold execCompareMatch
  repeat'
    first
    | (show Within _ _; exact Within.trans (by decide) hm)
    | intro _
    | with_reducible (first | assumption | apply OutFrame.next | apply elapseNs_frame | apply ite_frame)
    | split
    | (extract_lets +onlyGivenNames x; first | (refine (fun hx : Frame ps s x => ?_) ?_ <;> [clear_value x; subst x]) | clear_value x)

theorem execCountReachesZero_frame (h : Frame ps s t) (hm : Within [.vecs, .time, .counters, .outs] ps) (a1) : OutFrame ps s (execCountReachesZero a1 t) := by
  unfold execCountReachesZero
  repeat'
    first
    | (show Within _ _; exact Within.trans (by decide) hm)
    | intro _
    | with_reducible (first | assumption | apply OutFrame.next | apply elapseNs_frame | apply ite_frame)
    | split
    | (extract_lets +onlyGivenNames x; first | (refine (fun hx : Frame ps s x => ?_) ?_ <;> [clear_value x; subst x]) | clear_value x)

theorem execCaptureEdge_frame (h : Frame ps s t) (hm : Within [.vecs, .counters, .outs] ps) (a1) (a2) : OutFrame ps s (execCaptureEdge a1 a2 t) := by
  unfold execCaptureEdge
  repeat'
    first
    | (show Within _ _; exact Within.trans (by decide) hm)
    | intro _
    | with_reducible (first | assumption | apply OutFrame.next | apply putCnt_frame | apply ite_frame)
    | split
    | (extract_lets +onlyGivenNames x; first | (refine (fun hx : Frame ps s x => ?_) ?_ <;> [clear_value x; subst x]) | clear_value x)

theorem execCntCapRead_frame (h : Frame ps s t) (hm : Within [.vecs, .rings, .counters, .outs] ps) (a1) : OutFrame ps s (execCntCapRead a1 t) := by
  unfold execCntCapRead
  repeat'
    first
    | (show Within _ _; exact Within.trans (by decide) hm)
    | intro _
    | with_reducible (first | assumption | apply OutFrame.next | apply modFunc_frame | apply putCnt_frame | apply ite_frame)
    | split

theorem execXtal25Loss_frame (h : Frame ps s t) (hm : Within [.time, .counters, .clk, .led] ps) : OutFrame ps s (execXtal25Loss t) := by
  unfold execXtal25Loss
  repeat'
    first
    | (show Within _ _; exact Within.trans (by decide) hm)
    | intro _
    | with_reducible (first | assumption | apply OutFrame.next | apply modClk_frame | apply ite_frame)
    | split

theorem execXtal32kLoss_frame (h : Frame ps s t) (hm : Within [.vecs, .time, .counters, .clk, .led, .flt, .outs] ps) : OutFrame ps s (execXtal32kLoss t) := by
  unfold execXtal32kLoss
  repeat'
    first
    | (show Within _ _; exact Within.trans (by decide) hm)
    | intro _
    | with_reducible (first | assumption | apply OutFrame.next | apply fault_frame | apply modClk_frame | apply ite_frame)
    | split

theorem execXtal32kReturn_frame (h : Frame ps s t) (hm : Within [.vecs, .time, .counters, .clk, .led, .flt, .outs] ps) : OutFrame ps s (execXtal32kReturn t) := by
  unfold execXtal32kReturn
  repeat'
    first
    | (show Within _ _; exact Within.trans (by decide) hm)
    | intro _
    | with_reducible (first | assumption | apply OutFrame.next | apply fault_frame | apply modClk_frame | apply ite_frame)
    | split

theorem execRtcRcCalibrate_frame (h : Frame ps s t) (hm : Within [.time, .counters, .clk, .led] ps) (a1) : OutFrame ps s (execRtcRcCalibrate a1 t) := by
  unfold execRtcRcCalibrate
  repeat'
    first
    | (show Within _ _; exact Within.trans (by decide) hm)
    | intro _
    | with_reducible (first | assumption | apply OutFrame.next | apply modClk_frame | apply ite_frame)
    | split

theorem execTimeRead_frame (h : Frame ps s t) (hm : Within [.flights, .run, .slc, .led, .outs] ps) (a1) (a2) : OutFrame ps s (execTimeRead a1 a2 t) := by
  unfold execTimeRead
  repeat'
    first
    | (show Within _ _; exact Within.trans (by decide) hm)
    | intro _
    | with_reducible (first | assumption | apply OutFrame.next | apply startOp_frame | apply writeAndSettle_frame)

theorem execTimeSet_frame (h : Frame ps s t) (hm : Within [.flights, .run, .slc, .time, .counters, .clk, .led] ps) (a1) : OutFrame ps s (execTimeSet a1 t) := by
  unfold execTimeSet
  repeat'
    first
    | (show Within _ _; exact Within.trans (by decide) hm)
    | intro _
    | with_reducible (first | assumption | apply OutFrame.next | apply startOp_frame | apply settle_frame | apply modClk_frame | apply ite_frame)
    | split
    | (extract_lets +onlyGivenNames x; first | (refine (fun hx : Frame ps s x => ?_) ?_ <;> [clear_value x; subst x]) | clear_value x)

theorem execFurrowRead_frame (h : Frame ps s t) (hm : Within [.flights, .run, .slc, .led, .outs] ps) (a1) (a2) : OutFrame ps s (execFurrowRead a1 a2 t) := by
  unfold execFurrowRead
  repeat'
    first
    | (show Within _ _; exact Within.trans (by decide) hm)
    | intro _
    | with_reducible (first | assumption | apply OutFrame.next | apply startOp_frame | apply settle_frame | apply writeAndSettle_frame | apply ite_frame)
    | split
    | (extract_lets +onlyGivenNames x; first | (refine (fun hx : Frame ps s x => ?_) ?_ <;> [clear_value x; subst x]) | clear_value x)

end Sys2Proof.Machine
end

