-- ==== Sys2Proof/Laws/FrameRings.lean ====
section
/-! SUPPORT. Which parts of the state the operations of Rings, Keys, LockOps, ModeOps, Pke can change (Safety.Frame), one lemma each, in the order of their definitions. -/

set_option linter.unusedTactic false
set_option linter.unreachableTactic false
set_option linter.unusedSimpArgs false
set_option linter.unusedVariables false

namespace Sys2Proof.Machine

variable {ps : List Part} {s t : State}

theorem ringHrPi_frame (h : Frame ps s t) (hm : Within [.vecs, .rings, .outs] ps) (a1) (a2) : Frame ps s (ringHrPi a1 a2 t) := by
  unfold ringHrPi
  repeat'
    first
    | (show Within _ _; exact Within.trans (by decide) hm)
    | intro _
    | with_reducible (first | assumption | apply modRing_frame | apply stopRing_frame | apply ite_frame)
    | split

theorem ringTrCi_frame (h : Frame ps s t) (hm : Within [.vecs, .rings, .outs] ps) (a1) (a2) : Frame ps s (ringTrCi a1 a2 t) := by
  unfold ringTrCi
  repeat'
    first
    | (show Within _ _; exact Within.trans (by decide) hm)
    | intro _
    | with_reducible (first | assumption | apply countForIrq_frame | apply modRing_frame | apply stopRing_frame | apply ite_frame)
    | split

theorem rung_frame (h : Frame ps s t) (hm : Within [.pwr] ps) : Frame ps s (rung t) := by
  unfold rung
  repeat'
    first
    | (show Within _ _; exact Within.trans (by decide) hm)
    | intro _
    | with_reducible (first | assumption | apply modPwr_frame)

theorem hrPiDoorbell_frame (h : Frame ps s t) (hm : Within [.pwr, .vecs, .rings, .outs] ps) (a1) (a2) (a3) (a4) : Frame ps s (hrPiDoorbell a1 a2 a3 a4 t) := by
  unfold hrPiDoorbell
  repeat'
    first
    | (show Within _ _; exact Within.trans (by decide) hm)
    | intro _
    | with_reducible (first | assumption | apply ringHrPi_frame | apply rung_frame | apply modRing_frame | apply ite_frame)
    | split

theorem trCiDoorbell_frame (h : Frame ps s t) (hm : Within [.pwr, .vecs, .rings, .outs] ps) (a1) (a2) (a3) (a4) : Frame ps s (trCiDoorbell a1 a2 a3 a4 t) := by
  unfold trCiDoorbell
  repeat'
    first
    | (show Within _ _; exact Within.trans (by decide) hm)
    | intro _
    | with_reducible (first | assumption | apply ringTrCi_frame | apply rung_frame | apply modRing_frame | apply ite_frame)
    | split

theorem execDoorbellHrPi_frame (h : Frame ps s t) (hm : Within [.pwr, .vecs, .rings, .outs] ps) (a1) (a2) (a3) (a4) : OutFrame ps s (execDoorbellHrPi a1 a2 a3 a4 t) := by
  unfold execDoorbellHrPi
  repeat'
    first
    | (show Within _ _; exact Within.trans (by decide) hm)
    | intro _
    | with_reducible (first | assumption | apply OutFrame.next | apply hrPiDoorbell_frame)

theorem execDoorbellTrCi_frame (h : Frame ps s t) (hm : Within [.pwr, .vecs, .rings, .outs] ps) (a1) (a2) (a3) (a4) : OutFrame ps s (execDoorbellTrCi a1 a2 a3 a4 t) := by
  unfold execDoorbellTrCi
  repeat'
    first
    | (show Within _ _; exact Within.trans (by decide) hm)
    | intro _
    | with_reducible (first | assumption | apply OutFrame.next | apply trCiDoorbell_frame)

theorem bar2Write_frame (h : Frame ps s t) (hm : Within [.pwr, .vecs, .rings, .outs] ps) (a1) (a2) (a3) (a4) : Frame ps s (bar2Write a1 a2 a3 a4 t) := by
  unfold bar2Write
  repeat'
    first
    | (show Within _ _; exact Within.trans (by decide) hm)
    | intro _
    | with_reducible (first | assumption | apply hrPiDoorbell_frame | apply trCiDoorbell_frame | apply ite_frame)
    | split
    | (extract_lets +onlyGivenNames x; first | (refine (fun hx : Frame ps s x => ?_) ?_ <;> [clear_value x; subst x]) | clear_value x)

theorem heldDoorbells_frame (h : Frame ps s t) (hm : Within [.vecs, .rings, .outs] ps) : Frame ps s (heldDoorbells t) := by
  unfold heldDoorbells
  repeat'
    first
    | (show Within _ _; exact Within.trans (by decide) hm)
    | intro _
    | with_reducible (first | assumption | apply each_frame | apply modRing_frame | apply ringHrPi_frame | apply ringTrCi_frame)
    | split
    | (extract_lets +onlyGivenNames x; first | (refine (fun hx : Frame ps s x => ?_) ?_ <;> [clear_value x; subst x]) | (refine (fun hx : Frame ps s x.2 => ?_) ?_ <;> [clear_value x; subst x]) | (refine (fun hx : Frame ps s x.1 => ?_) ?_ <;> [clear_value x; subst x]) | clear_value x)

theorem postWrites_frame (h : Frame ps s t) (hm : Within [.outs] ps) (a1) (a2) (a3) : Frame ps s (postWrites a1 a2 a3 t) := by
  unfold postWrites
  repeat'
    first
    | (show Within _ _; exact Within.trans (by decide) hm)
    | intro _
    | with_reducible (first | assumption | apply emit_frame)
    | split
    | (extract_lets +onlyGivenNames x; first | (refine (fun hx : Frame ps s x => ?_) ?_ <;> [clear_value x; subst x]) | clear_value x)

theorem execCompletionWrite_frame (h : Frame ps s t) (hm : Within [.flights, .vecs, .rings, .outs] ps) (a1) : OutFrame ps s (execCompletionWrite a1 t) := by
  unfold execCompletionWrite
  repeat'
    first
    | (show Within _ _; exact Within.trans (by decide) hm)
    | intro _
    | with_reducible (first | assumption | apply OutFrame.next | apply countForIrq_frame | apply modRing_frame | apply modFlight_frame | apply postWrites_frame | apply ite_frame)
    | split
    | (extract_lets +onlyGivenNames x; first | (refine (fun hx : Frame ps s x => ?_) ?_ <;> [clear_value x; subst x]) | clear_value x)

theorem execConsumerIndexWriteback_frame (h : Frame ps s t) (hm : Within [.rings, .outs] ps) (a1) : OutFrame ps s (execConsumerIndexWriteback a1 t) := by
  unfold execConsumerIndexWriteback
  repeat'
    first
    | (show Within _ _; exact Within.trans (by decide) hm)
    | intro _
    | with_reducible (first | assumption | apply OutFrame.next | apply modRing_frame | apply emit_frame | apply ite_frame)
    | split
    | (extract_lets +onlyGivenNames x; first | (refine (fun hx : Frame ps s x => ?_) ?_ <;> [clear_value x; subst x]) | clear_value x)

theorem execDescriptorReadFailed_frame (h : Frame ps s t) (hm : Within [.vecs, .rings, .outs] ps) (a1) : OutFrame ps s (execDescriptorReadFailed a1 t) := by
  unfold execDescriptorReadFailed
  repeat'
    first
    | (show Within _ _; exact Within.trans (by decide) hm)
    | intro _
    | with_reducible (first | assumption | apply OutFrame.next | apply stopRing_frame | apply ite_frame)
    | split
    | (extract_lets +onlyGivenNames x; first | (refine (fun hx : Frame ps s x => ?_) ?_ <;> [clear_value x; subst x]) | clear_value x)

theorem execTailraceWriteRefused_frame (h : Frame ps s t) (hm : Within [.vecs, .rings, .outs] ps) (a1) (a2) : OutFrame ps s (execTailraceWriteRefused a1 a2 t) := by
  unfold execTailraceWriteRefused
  repeat'
    first
    | (show Within _ _; exact Within.trans (by decide) hm)
    | intro _
    | with_reducible (first | assumption | apply OutFrame.next | apply stopRing_frame | apply ite_frame)
    | split

theorem execRingEnable_frame (h : Frame ps s t) (hm : Within [.rings, .led] ps) (a1) : OutFrame ps s (execRingEnable a1 t) := by
  unfold execRingEnable
  repeat'
    first
    | (show Within _ _; exact Within.trans (by decide) hm)
    | intro _
    | with_reducible (first | assumption | apply OutFrame.next | apply recordRing_frame | apply modRing_frame | apply ite_frame)
    | split
    | (extract_lets +onlyGivenNames x; first | (refine (fun hx : Frame ps s x => ?_) ?_ <;> [clear_value x; subst x]) | clear_value x)

theorem execRingDisable_frame (h : Frame ps s t) (hm : Within [.rings, .led] ps) (a1) : OutFrame ps s (execRingDisable a1 t) := by
  unfold execRingDisable
  repeat'
    first
    | (show Within _ _; exact Within.trans (by decide) hm)
    | intro _
    | with_reducible (first | assumption | apply OutFrame.next | apply drainRing_frame | apply ite_frame)
    | split

theorem execRingDrained_frame (h : Frame ps s t) (hm : Within [.rings, .led] ps) (a1) : OutFrame ps s (execRingDrained a1 t) := by
  unfold execRingDrained
  repeat'
    first
    | (show Within _ _; exact Within.trans (by decide) hm)
    | intro _
    | with_reducible (first | assumption | apply OutFrame.next | apply recordRing_frame | apply ite_frame)
    | split
    | (extract_lets +onlyGivenNames x; first | (refine (fun hx : Frame ps s x => ?_) ?_ <;> [clear_value x; subst x]) | clear_value x)

theorem execModerationTimer_frame (h : Frame ps s t) (hm : Within [.vecs, .rings, .time, .counters, .outs] ps) (a1) : OutFrame ps s (execModerationTimer a1 t) := by
  unfold execModerationTimer
  repeat'
    first
    | (show Within _ _; exact Within.trans (by decide) hm)
    | intro _
    | with_reducible (first | assumption | apply OutFrame.next | apply signalRing_frame | apply elapseTo_frame | apply ite_frame)
    | split

theorem sendPending_frame (h : Frame ps s t) (hm : Within [.vecs, .outs] ps) (a1) : Frame ps s (sendPending a1 t) := by
  unfold sendPending
  repeat'
    first
    | (show Within _ _; exact Within.trans (by decide) hm)
    | intro _
    | with_reducible (first | assumption | apply each_frame | apply sendMsix_frame | apply modVec_frame | apply ite_frame)
    | split

theorem execMsixUnmask_frame (h : Frame ps s t) (hm : Within [.vecs, .rings, .outs] ps) (a1) (a2) : OutFrame ps s (execMsixUnmask a1 a2 t) := by
  unfold execMsixUnmask
  repeat'
    first
    | (show Within _ _; exact Within.trans (by decide) hm)
    | intro _
    | with_reducible (first | assumption | apply OutFrame.next | apply sendPending_frame | apply modVec_frame | apply modFunc_frame | apply ite_frame)
    | split

theorem resetVectors_frame (h : Frame ps s t) (hm : Within [.flights, .vecs, .rings] ps) (a1) : Frame ps s (resetVectors a1 t) := by
  unfold resetVectors
  repeat'
    first
    | (show Within _ _; exact Within.trans (by decide) hm)
    | intro _
    | with_reducible (first | assumption | apply modHost_frame)

theorem resetFunction_frame (h : Frame ps s t) (hm : Within [.flights, .vecs, .rings, .run, .slc, .led] ps) (a1) : Frame ps s (resetFunction a1 t) := by
  unfold resetFunction
  repeat'
    first
    | (show Within _ _; exact Within.trans (by decide) hm)
    | intro _
    | with_reducible (first | assumption | apply each_frame | apply modRing_frame | apply recordRing_frame | apply settle_frame | apply modFunc_frame | apply resetVectors_frame | apply ite_frame)
    | split
    | (extract_lets +onlyGivenNames x; first | (refine (fun hx : Frame ps s x => ?_) ?_ <;> [clear_value x; subst x]) | (refine (fun hx : Frame ps s x.2 => ?_) ?_ <;> [clear_value x; subst x]) | (refine (fun hx : Frame ps s x.1 => ?_) ?_ <;> [clear_value x; subst x]) | clear_value x)

theorem execVfFunctionLevelReset_frame (h : Frame ps s t) (hm : Within [.flights, .vecs, .rings, .run, .slc, .led] ps) (a1) : OutFrame ps s (execVfFunctionLevelReset a1 t) := by
  unfold execVfFunctionLevelReset
  repeat'
    first
    | (show Within _ _; exact Within.trans (by decide) hm)
    | intro _
    | with_reducible (first | assumption | apply OutFrame.next | apply resetFunction_frame | apply ite_frame)
    | split

theorem execVfEnableClear_frame (h : Frame ps s t) (hm : Within [.flights, .vecs, .rings, .run, .slc, .led] ps) : OutFrame ps s (execVfEnableClear t) := by
  unfold execVfEnableClear
  repeat'
    first
    | (show Within _ _; exact Within.trans (by decide) hm)
    | intro _
    | with_reducible (first | assumption | apply OutFrame.next | apply onlyIf_frame | apply each_frame | apply resetFunction_frame | apply modHost_frame)
    | split
    | (extract_lets +onlyGivenNames x; first | (refine (fun hx : Frame ps s x => ?_) ?_ <;> [clear_value x; subst x]) | clear_value x)

theorem trainLink_frame (h : Frame ps s t) (hm : Within [.flights, .vecs, .rings, .outs, .free] ps) : Frame ps s (trainLink t) := by
  unfold trainLink
  repeat'
    first
    | (show Within _ _; exact Within.trans (by decide) hm)
    | intro _
    | with_reducible (first | assumption | apply drawn_frame | apply modHost_frame | apply each_frame | apply sendPending_frame | apply ite_frame)
    | split
    | (extract_lets +onlyGivenNames x; first | (refine (fun hx : Frame ps s x => ?_) ?_ <;> [clear_value x; subst x]) | (refine (fun hx : Frame ps s x.2 => ?_) ?_ <;> [clear_value x; subst x]) | (refine (fun hx : Frame ps s x.1 => ?_) ?_ <;> [clear_value x; subst x]) | clear_value x)

theorem linkDown_frame (h : Frame ps s t) (hm : Within [.flights, .vecs, .rings] ps) : Frame ps s (linkDown t) := by
  unfold linkDown
  repeat'
    first
    | (show Within _ _; exact Within.trans (by decide) hm)
    | intro _
    | with_reducible (first | assumption | apply modHost_frame)

theorem execHostPerst_frame (h : Frame ps s t) (hm : Within [.flights, .vecs, .rings, .outs, .free] ps) (a1) : OutFrame ps s (execHostPerst a1 t) := by
  unfold execHostPerst
  repeat'
    first
    | (show Within _ _; exact Within.trans (by decide) hm)
    | intro _
    | with_reducible (first | assumption | apply OutFrame.next | apply linkDown_frame | apply modHost_frame | apply trainLink_frame | apply ite_frame)
    | split

theorem execNop_frame (h : Frame ps s t) (hm : Within [.flights, .run, .slc, .led] ps) (a1) : OutFrame ps s (execNop a1 t) := by
  unfold execNop
  repeat'
    first
    | (show Within _ _; exact Within.trans (by decide) hm)
    | intro _
    | with_reducible (first | assumption | apply OutFrame.next | apply startOp_frame | apply settle_frame)

theorem execPing_frame (h : Frame ps s t) (hm : Within [.flights, .run, .slc, .led] ps) (a1) : OutFrame ps s (execPing a1 t) := by
  unfold execPing
  repeat'
    first
    | (show Within _ _; exact Within.trans (by decide) hm)
    | intro _
    | with_reducible (first | assumption | apply OutFrame.next | apply startOp_frame | apply settle_frame)

theorem execFateInquiry_frame (h : Frame ps s t) (hm : Within [.flights, .run, .slc, .led, .outs] ps) (a1) (a2) : OutFrame ps s (execFateInquiry a1 a2 t) := by
  unfold execFateInquiry
  repeat'
    first
    | (show Within _ _; exact Within.trans (by decide) hm)
    | intro _
    | with_reducible (first | assumption | apply OutFrame.next | apply startOp_frame | apply settle_frame | apply writeAndSettle_frame | apply ite_frame)
    | split
    | (extract_lets +onlyGivenNames x; first | (refine (fun hx : Frame ps s x => ?_) ?_ <;> [clear_value x; subst x]) | clear_value x)

theorem keyEvent_frame (h : Frame ps s t) (hm : Within [.sec] ps) (a1) : Frame ps s (keyEvent a1 t) := by
  unfold keyEvent
  repeat'
    first
    | (show Within _ _; exact Within.trans (by decide) hm)
    | intro _
    | with_reducible (first | assumption | apply modSec_frame)

theorem pkeRan_frame (h : Frame ps s t) (hm : Within [.sec] ps) (a1) : Frame ps s (pkeRan a1 t) := by
  unfold pkeRan
  repeat'
    first
    | (show Within _ _; exact Within.trans (by decide) hm)
    | intro _
    | with_reducible (first | assumption | apply modSec_frame)

theorem withKey_frame (h : Frame ps s t) (hm : Within [.flights, .run, .slc, .led] ps) (a1) (a2) (a3) (f1 : _ → State → State) (hf1 : ∀ a {t}, Frame ps s t → Frame ps s (f1 a t)) : Frame ps s (withKey a1 a2 a3 f1 t) := by
  unfold withKey
  repeat'
    first
    | (show Within _ _; exact Within.trans (by decide) hm)
    | intro _
    | with_reducible (first | assumption | apply hf1 | apply settle_frame | apply ite_frame)
    | split

theorem makeHandle_frame (h : Frame ps s t) (hm : Within [.flights, .run, .slc, .led, .sec] ps) (a1) (a2) (a3) : Frame ps s (makeHandle a1 a2 a3 t) := by
  unfold makeHandle
  repeat'
    first
    | (show Within _ _; exact Within.trans (by decide) hm)
    | intro _
    | with_reducible (first | assumption | apply keyEvent_frame | apply settle_frame | apply logRec_frame | apply modSec_frame | apply ite_frame)
    | split
    | (extract_lets +onlyGivenNames x; first | (refine (fun hx : Frame ps s x => ?_) ?_ <;> [clear_value x; subst x]) | clear_value x)

theorem closeHandle_frame (h : Frame ps s t) (hm : Within [.run, .led, .sec] ps) (a1) : Frame ps s (closeHandle a1 t) := by
  unfold closeHandle
  repeat'
    first
    | (show Within _ _; exact Within.trans (by decide) hm)
    | intro _
    | with_reducible (first | assumption | apply tryLog_frame | apply modRun_frame | apply modSec_frame | apply ite_frame)
    | split

theorem closeHandlesOf_frame (h : Frame ps s t) (hm : Within [.run, .led, .sec] ps) (a1) : Frame ps s (closeHandlesOf a1 t) := by
  unfold closeHandlesOf
  repeat'
    first
    | (show Within _ _; exact Within.trans (by decide) hm)
    | intro _
    | with_reducible (first | assumption | apply each_frame | apply closeHandle_frame)

theorem keyOp_frame (h : Frame ps s t) (hm : Within [.flights, .run, .slc, .led, .sec] ps) (a1) (a2) (f1 : _ → State → State) (hf1 : ∀ a {t}, Frame ps s t → Frame ps s (f1 a t)) : Frame ps s (keyOp a1 a2 f1 t) := by
  unfold keyOp
  repeat'
    first
    | (show Within _ _; exact Within.trans (by decide) hm)
    | intro _
    | with_reducible (first | assumption | apply hf1 | apply joinQueue_frame | apply startOp_frame | apply leaveQueue_frame | apply ite_frame)
    | split

theorem execKeyRoot_frame (h : Frame ps s t) (hm : Within [.flights, .run, .slc, .led, .sec] ps) (a1) : OutFrame ps s (execKeyRoot a1 t) := by
  unfold execKeyRoot
  repeat'
    first
    | (show Within _ _; exact Within.trans (by decide) hm)
    | intro _
    | with_reducible (first | assumption | apply OutFrame.next | apply keyOp_frame | apply settle_frame | apply makeHandle_frame | apply ite_frame)
    | split
    | (extract_lets +onlyGivenNames x; first | (refine (fun hx : Frame ps s x => ?_) ?_ <;> [clear_value x; subst x]) | clear_value x)

theorem execKeyDerive_frame (h : Frame ps s t) (hm : Within [.flights, .run, .slc, .led, .sec] ps) (a1) (a2) : OutFrame ps s (execKeyDerive a1 a2 t) := by
  unfold execKeyDerive
  repeat'
    first
    | (show Within _ _; exact Within.trans (by decide) hm)
    | intro _
    | with_reducible (first | assumption | apply OutFrame.next | apply keyOp_frame | apply withKey_frame | apply settle_frame | apply withRead_frame | apply makeHandle_frame | apply ite_frame)
    | split
    | (extract_lets +onlyGivenNames x; first | (refine (fun hx : Frame ps s x => ?_) ?_ <;> [clear_value x; subst x]) | clear_value x)

theorem importWith_frame (h : Frame ps s t) (hm : Within [.flights, .run, .slc, .led, .sec] ps) (a1) (a2) (a3) (a4) : Frame ps s (importWith a1 a2 a3 a4 t) := by
  unfold importWith
  repeat'
    first
    | (show Within _ _; exact Within.trans (by decide) hm)
    | intro _
    | with_reducible (first | assumption | apply settle_frame | apply makeHandle_frame | apply ite_frame)
    | split
    | (extract_lets +onlyGivenNames x; first | (refine (fun hx : Frame ps s x => ?_) ?_ <;> [clear_value x; subst x]) | clear_value x)

theorem execKeyImport_frame (h : Frame ps s t) (hm : Within [.flights, .run, .slc, .led, .sec] ps) (a1) (a2) : OutFrame ps s (execKeyImport a1 a2 t) := by
  unfold execKeyImport
  repeat'
    first
    | (show Within _ _; exact Within.trans (by decide) hm)
    | intro _
    | with_reducible (first | assumption | apply OutFrame.next | apply keyOp_frame | apply withRead_frame | apply settle_frame | apply withKey_frame | apply importWith_frame | apply pkeRan_frame | apply ite_frame)
    | split
    | (extract_lets +onlyGivenNames x; first | (refine (fun hx : Frame ps s x => ?_) ?_ <;> [clear_value x; subst x]) | clear_value x)

theorem keyRelease_frame (h : Frame ps s t) (hm : Within [.flights, .run, .slc, .led] ps) (a1) (a2) (a3) (a4) (a5) (f1 : State → State) (hf1 : ∀ {t}, Frame ps s t → Frame ps s (f1 t)) : Frame ps s (keyRelease a1 a2 a3 a4 a5 f1 t) := by
  unfold keyRelease
  repeat'
    first
    | (show Within _ _; exact Within.trans (by decide) hm)
    | intro _
    | with_reducible (first | assumption | apply hf1 | apply commitPoint_frame | apply atStage_frame | apply settle_frame | apply ite_frame)
    | split

theorem exportBlob_frame (h : Frame ps s t) (hm : Within [.flights, .run, .slc, .led, .outs] ps) (a1) (a2) (a3) (a4) (a5) (a6) : Frame ps s (exportBlob a1 a2 a3 a4 a5 a6 t) := by
  unfold exportBlob
  repeat'
    first
    | (show Within _ _; exact Within.trans (by decide) hm)
    | intro _
    | with_reducible (first | assumption | apply keyRelease_frame | apply settle_frame | apply emit_frame | apply ite_frame)
    | split
    | (extract_lets +onlyGivenNames x; first | (refine (fun hx : Frame ps s x => ?_) ?_ <;> [clear_value x; subst x]) | clear_value x)

theorem execKeyExport_frame (h : Frame ps s t) (hm : Within [.flights, .run, .slc, .led, .sec, .outs, .free] ps) (a1) (a2) (a3) : OutFrame ps s (execKeyExport a1 a2 a3 t) := by
  unfold execKeyExport
  repeat'
    first
    | (show Within _ _; exact Within.trans (by decide) hm)
    | intro _
    | with_reducible (first | assumption | apply OutFrame.next | apply keyOp_frame | apply withKey_frame | apply settle_frame | apply withRead_frame | apply exportBlob_frame | apply pkeRan_frame | apply drew_frame | apply ite_frame)
    | split
    | (extract_lets +onlyGivenNames x; first | (refine (fun hx : Frame ps s x => ?_) ?_ <;> [clear_value x; subst x]) | (refine (fun hx : Frame ps s x.2 => ?_) ?_ <;> [clear_value x; subst x]) | (refine (fun hx : Frame ps s x.1 => ?_) ?_ <;> [clear_value x; subst x]) | clear_value x)

theorem execKeyClose_frame (h : Frame ps s t) (hm : Within [.flights, .run, .slc, .led, .sec] ps) (a1) : OutFrame ps s (execKeyClose a1 t) := by
  unfold execKeyClose
  repeat'
    first
    | (show Within _ _; exact Within.trans (by decide) hm)
    | intro _
    | with_reducible (first | assumption | apply OutFrame.next | apply startOp_frame | apply settle_frame | apply closeHandle_frame)
    | split

theorem execKeyInfo_frame (h : Frame ps s t) (hm : Within [.flights, .run, .slc, .led, .outs] ps) (a1) (a2) : OutFrame ps s (execKeyInfo a1 a2 t) := by
  unfold execKeyInfo
  repeat'
    first
    | (show Within _ _; exact Within.trans (by decide) hm)
    | intro _
    | with_reducible (first | assumption | apply OutFrame.next | apply startOp_frame | apply settle_frame | apply writeAndSettle_frame)
    | split

theorem execKeyPublic_frame (h : Frame ps s t) (hm : Within [.flights, .run, .slc, .led, .sec, .outs] ps) (a1) (a2) : OutFrame ps s (execKeyPublic a1 a2 t) := by
  unfold execKeyPublic
  repeat'
    first
    | (show Within _ _; exact Within.trans (by decide) hm)
    | intro _
    | with_reducible (first | assumption | apply OutFrame.next | apply keyOp_frame | apply settle_frame | apply writeAndSettle_frame | apply pkeRan_frame | apply ite_frame)
    | split

theorem slkEvent_frame (h : Frame ps s t) (hm : Within [.slk] ps) (a1) : Frame ps s (slkEvent a1 t) := by
  unfold slkEvent
  repeat'
    first
    | (show Within _ _; exact Within.trans (by decide) hm)
    | intro _
    | with_reducible (first | assumption | apply modSlk_frame)

theorem sendState_frame (h : Frame ps s t) (hm : Within [.led, .slk, .outs] ps) : Frame ps s (sendState t) := by
  unfold sendState
  repeat'
    first
    | (show Within _ _; exact Within.trans (by decide) hm)
    | intro _
    | with_reducible (first | assumption | apply logRec_frame | apply modSlk_frame | apply onlyIf_frame | apply slkEvent_frame | apply emit_frame | apply ite_frame)
    | split
    | (extract_lets +onlyGivenNames x; first | (refine (fun hx : Frame ps s x => ?_) ?_ <;> [clear_value x; subst x]) | clear_value x)

theorem sendBody_frame (h : Frame ps s t) (hm : Within [.led, .slk, .outs] ps) (a1) (a2) (a3) : Frame ps s (sendBody a1 a2 a3 t) := by
  unfold sendBody
  repeat'
    first
    | (show Within _ _; exact Within.trans (by decide) hm)
    | intro _
    | with_reducible (first | assumption | apply logRec_frame | apply modSlk_frame | apply onlyIf_frame | apply slkEvent_frame | apply emit_frame | apply ite_frame)
    | split
    | (extract_lets +onlyGivenNames x; first | (refine (fun hx : Frame ps s x => ?_) ?_ <;> [clear_value x; subst x]) | clear_value x)

theorem flagsCheck_frame (h : Frame ps s t) (hm : Within [.led, .slk, .outs] ps) : Frame ps s (flagsCheck t) := by
  unfold flagsCheck
  repeat'
    first
    | (show Within _ _; exact Within.trans (by decide) hm)
    | intro _
    | with_reducible (first | assumption | apply sendState_frame | apply onlyIf_frame | apply slkEvent_frame | apply modSlk_frame | apply ite_frame)
    | split

theorem startTimer_frame (h : Frame ps s t) (hm : Within [.slk] ps) (a1) : Frame ps s (startTimer a1 t) := by
  unfold startTimer
  repeat'
    first
    | (show Within _ _; exact Within.trans (by decide) hm)
    | intro _
    | with_reducible (first | assumption | apply modSlk_frame | apply ite_frame)
    | split
    | (extract_lets +onlyGivenNames x; first | (refine (fun hx : Frame ps s x => ?_) ?_ <;> [clear_value x; subst x]) | clear_value x)

theorem holdUpdate_frame (h : Frame ps s t) (hm : Within [.slk] ps) : Frame ps s (holdUpdate t) := by
  unfold holdUpdate
  repeat'
    first
    | (show Within _ _; exact Within.trans (by decide) hm)
    | intro _
    | with_reducible (first | assumption | apply modSlk_frame | apply ite_frame)
    | split

theorem drivePins_frame (h : Frame ps s t) (hm : Within [.outs] ps) : Frame ps s (drivePins t) := by
  unfold drivePins
  repeat'
    first
    | (show Within _ _; exact Within.trans (by decide) hm)
    | intro _
    | with_reducible (first | assumption | apply onlyIf_frame | apply emit_frame | apply ite_frame)
    | split
    | (extract_lets +onlyGivenNames x; first | (refine (fun hx : Frame ps s x => ?_) ?_ <;> [clear_value x; subst x]) | clear_value x)

theorem setLatch_frame (h : Frame ps s t) (hm : Within [.led, .slk, .outs] ps) (a1) (a2) (a3) (a4) : Frame ps s (setLatch a1 a2 a3 a4 t) := by
  unfold setLatch
  repeat'
    first
    | (show Within _ _; exact Within.trans (by decide) hm)
    | intro _
    | with_reducible (first | assumption | apply modSlk_frame | apply sendState_frame | apply onlyIf_frame | apply drivePins_frame | apply slkEvent_frame | apply startTimer_frame)
    | split
    | (extract_lets +onlyGivenNames x; first | (refine (fun hx : Frame ps s x => ?_) ?_ <;> [clear_value x; subst x]) | clear_value x)

theorem moveLatch_frame (h : Frame ps s t) (hm : Within [.led, .slk, .outs] ps) (a1) (a2) (a3) (a4) (a5) : Frame ps s (moveLatch a1 a2 a3 a4 a5 t) := by
  unfold moveLatch
  repeat'
    first
    | (show Within _ _; exact Within.trans (by decide) hm)
    | intro _
    | with_reducible (first | assumption | apply setLatch_frame | apply logRec_frame | apply slkEvent_frame | apply modSlk_frame | apply ite_frame)
    | split
    | (extract_lets +onlyGivenNames x; first | (refine (fun hx : Frame ps s x => ?_) ?_ <;> [clear_value x; subst x]) | clear_value x)

theorem lockRequest_frame (h : Frame ps s t) (hm : Within [.led, .slk, .outs] ps) (a1) (a2) (a3) : Frame ps s (lockRequest a1 a2 a3 t) := by
  unfold lockRequest
  split
  · exact h
  · extract_lets n note
    have hn : ∀ {u}, Frame ps s u → Frame ps s (note u) := by
      intro u k
      simp only [note]
      split
      · exact k
      · exact modSlk_frame k (hm.sub (by decide)) _
    split
    · exact hn (moveLatch_frame h (hm.sub (by decide)) _ _ _ _ _)
    · exact hn (tryLog_frame h (hm.sub (by decide)) _)

theorem noRelease_frame (h : Frame ps s t) (hm : Within [.led, .slk] ps) : Frame ps s (noRelease t) := by
  unfold noRelease
  repeat'
    first
    | (show Within _ _; exact Within.trans (by decide) hm)
    | intro _
    | with_reducible (first | assumption | apply onlyIf_frame | apply slkEvent_frame | apply modSlk_frame | apply logPart_frame | apply ite_frame)
    | split

theorem windowExpired_frame (h : Frame ps s t) (hm : Within [.led, .slk, .outs] ps) : Frame ps s (windowExpired t) := by
  unfold windowExpired
  repeat'
    first
    | (show Within _ _; exact Within.trans (by decide) hm)
    | intro _
    | with_reducible (first | assumption | apply modSlk_frame | apply lockRequest_frame | apply ite_frame)
    | split
    | (extract_lets +onlyGivenNames x; first | (refine (fun hx : Frame ps s x => ?_) ?_ <;> [clear_value x; subst x]) | clear_value x)

theorem engineChange_frame (h : Frame ps s t) (hm : Within [.led, .slk, .outs] ps) : Frame ps s (engineChange t) := by
  unfold engineChange
  repeat'
    first
    | (show Within _ _; exact Within.trans (by decide) hm)
    | intro _
    | with_reducible (first | assumption | apply moveLatch_frame | apply noRelease_frame | apply modSlk_frame | apply ite_frame)
    | split
    | (extract_lets +onlyGivenNames x; first | (refine (fun hx : Frame ps s x => ?_) ?_ <;> [clear_value x; subst x]) | clear_value x)

theorem latchCheck_frame (h : Frame ps s t) (hm : Within [.vecs, .led, .flt, .slk, .outs] ps) : Frame ps s (latchCheck t) := by
  unfold latchCheck
  repeat'
    first
    | (show Within _ _; exact Within.trans (by decide) hm)
    | intro _
    | with_reducible (first | assumption | apply fault_frame | apply slkEvent_frame | apply ite_frame)
    | split
    | (extract_lets +onlyGivenNames x; first | (refine (fun hx : Frame ps s x => ?_) ?_ <;> [clear_value x; subst x]) | clear_value x)

theorem lockWatch_frame (h : Frame ps s t) (hm : Within [.vecs, .led, .flt, .slk, .outs] ps) : Frame ps s (lockWatch t) := by
  unfold lockWatch
  repeat'
    first
    | (show Within _ _; exact Within.trans (by decide) hm)
    | intro _
    | with_reducible (first | assumption | apply holdUpdate_frame | apply engineChange_frame | apply latchCheck_frame | apply flagsCheck_frame | apply onlyIf_frame | apply windowExpired_frame)
    | split
    | (extract_lets +onlyGivenNames x; first | (refine (fun hx : Frame ps s x => ?_) ?_ <;> [clear_value x; subst x]) | clear_value x)

theorem tokenAbsent_frame (h : Frame ps s t) (hm : Within [.led, .slk, .outs] ps) (a1) : Frame ps s (tokenAbsent a1 t) := by
  unfold tokenAbsent
  repeat'
    first
    | (show Within _ _; exact Within.trans (by decide) hm)
    | intro _
    | with_reducible (first | assumption | apply flagsCheck_frame | apply logPart_frame | apply slkEvent_frame | apply modSlk_frame | apply ite_frame)
    | split

theorem tokenUnknown_frame (h : Frame ps s t) (hm : Within [.led, .slk, .outs] ps) (a1) : Frame ps s (tokenUnknown a1 t) := by
  unfold tokenUnknown
  repeat'
    first
    | (show Within _ _; exact Within.trans (by decide) hm)
    | intro _
    | with_reducible (first | assumption | apply flagsCheck_frame | apply modSlk_frame | apply ite_frame)
    | split

theorem tokenBack_frame (h : Frame ps s t) (hm : Within [.led, .slk, .outs] ps) (a1) : Frame ps s (tokenBack a1 t) := by
  unfold tokenBack
  repeat'
    first
    | (show Within _ _; exact Within.trans (by decide) hm)
    | intro _
    | with_reducible (first | assumption | apply flagsCheck_frame | apply logPart_frame | apply modSlk_frame | apply tokenUnknown_frame | apply ite_frame)
    | split

theorem tokenInCab_frame (h : Frame ps s t) (hm : Within [.led, .slk, .outs] ps) (a1) : Frame ps s (tokenInCab a1 t) := by
  unfold tokenInCab
  repeat'
    first
    | (show Within _ _; exact Within.trans (by decide) hm)
    | intro _
    | with_reducible (first | assumption | apply moveLatch_frame | apply startTimer_frame | apply ite_frame)
    | split

theorem abandonParking_frame (h : Frame ps s t) (hm : Within [.pwr, .vecs, .rings, .outs] ps) : Frame ps s (abandonParking t) := by
  unfold abandonParking
  repeat'
    first
    | (show Within _ _; exact Within.trans (by decide) hm)
    | intro _
    | with_reducible (first | assumption | apply heldDoorbells_frame | apply modPwr_frame | apply ite_frame)
    | split

theorem lowBatteryAnew_frame (h : Frame ps s t) (hm : Within [.pwr] ps) : Frame ps s (lowBatteryAnew t) := by
  unfold lowBatteryAnew
  repeat'
    first
    | (show Within _ _; exact Within.trans (by decide) hm)
    | intro _
    | with_reducible (first | assumption | apply modPwr_frame | apply ite_frame)
    | split

theorem enterDrive_frame (h : Frame ps s t) (hm : Within [.pwr, .vecs, .rings, .outs] ps) : Frame ps s (enterDrive t) := by
  unfold enterDrive
  repeat'
    first
    | (show Within _ _; exact Within.trans (by decide) hm)
    | intro _
    | with_reducible (first | assumption | apply modPwr_frame | apply abandonParking_frame | apply ite_frame)
    | split

theorem modeWatch_frame (h : Frame ps s t) (hm : Within [.pwr, .vecs, .rings, .outs] ps) : Frame ps s (modeWatch t) := by
  unfold modeWatch
  repeat'
    first
    | (show Within _ _; exact Within.trans (by decide) hm)
    | intro _
    | with_reducible (first | assumption | apply onlyIf_frame | apply enterDrive_frame | apply modPwr_frame | apply ite_frame)
    | split
    | (extract_lets +onlyGivenNames x; first | (refine (fun hx : Frame ps s x => ?_) ?_ <;> [clear_value x; subst x]) | clear_value x)

theorem execDriveExit_frame (h : Frame ps s t) (hm : Within [.pwr, .vecs, .time, .counters, .outs] ps) : OutFrame ps s (execDriveExit t) := by
  unfold execDriveExit
  repeat'
    first
    | (show Within _ _; exact Within.trans (by decide) hm)
    | intro _
    | with_reducible (first | assumption | apply OutFrame.next | apply elapseTo_frame | apply lowBatteryAnew_frame | apply modPwr_frame | apply ite_frame)
    | split
    | (extract_lets +onlyGivenNames x; first | (refine (fun hx : Frame ps s x => ?_) ?_ <;> [clear_value x; subst x]) | clear_value x)

theorem enterService_frame (h : Frame ps s t) (hm : Within [.pwr, .vecs, .rings, .outs] ps) (a1) : Frame ps s (enterService a1 t) := by
  unfold enterService
  repeat'
    first
    | (show Within _ _; exact Within.trans (by decide) hm)
    | intro _
    | with_reducible (first | assumption | apply modPwr_frame | apply abandonParking_frame | apply ite_frame)
    | split

theorem leaveService_frame (h : Frame ps s t) (hm : Within [.pwr, .vecs, .rings, .upd, .outs] ps) : Frame ps s (leaveService t) := by
  unfold leaveService
  repeat'
    first
    | (show Within _ _; exact Within.trans (by decide) hm)
    | intro _
    | with_reducible (first | assumption | apply modUpd_frame | apply modeWatch_frame | apply lowBatteryAnew_frame | apply modPwr_frame | apply ite_frame)
    | split
    | (extract_lets +onlyGivenNames x; first | (refine (fun hx : Frame ps s x => ?_) ?_ <;> [clear_value x; subst x]) | clear_value x)

theorem endServiceIfDue_frame (h : Frame ps s t) (hm : Within [.pwr, .vecs, .rings, .upd, .outs] ps) : Frame ps s (endServiceIfDue t) := by
  unfold endServiceIfDue
  repeat'
    first
    | (show Within _ _; exact Within.trans (by decide) hm)
    | intro _
    | with_reducible (first | assumption | apply leaveService_frame | apply ite_frame)
    | split

theorem closeDebug_frame (h : Frame ps s t) (hm : Within [.pwr, .vecs, .rings, .flt, .upd, .outs] ps) : Frame ps s (closeDebug t) := by
  unfold closeDebug
  repeat'
    first
    | (show Within _ _; exact Within.trans (by decide) hm)
    | intro _
    | with_reducible (first | assumption | apply endServiceIfDue_frame | apply modFlt_frame)

theorem execPkeVerify_frame (h : Frame ps s t) (hm : Within [.flights, .run, .slc, .led, .sec] ps) (a1) (a2) : OutFrame ps s (execPkeVerify a1 a2 t) := by
  unfold execPkeVerify
  repeat'
    first
    | (show Within _ _; exact Within.trans (by decide) hm)
    | intro _
    | with_reducible (first | assumption | apply OutFrame.next | apply startOp_frame | apply settle_frame | apply withRead_frame | apply pkeRan_frame | apply atStage_frame | apply ite_frame)
    | split
    | (extract_lets +onlyGivenNames x; first | (refine (fun hx : Frame ps s x => ?_) ?_ <;> [clear_value x; subst x]) | clear_value x)

theorem execPointCheck_frame (h : Frame ps s t) (hm : Within [.flights, .run, .slc, .led, .sec] ps) (a1) (a2) : OutFrame ps s (execPointCheck a1 a2 t) := by
  unfold execPointCheck
  repeat'
    first
    | (show Within _ _; exact Within.trans (by decide) hm)
    | intro _
    | with_reducible (first | assumption | apply OutFrame.next | apply startOp_frame | apply settle_frame | apply withRead_frame | apply pkeRan_frame | apply atStage_frame | apply ite_frame)
    | split
    | (extract_lets +onlyGivenNames x; first | (refine (fun hx : Frame ps s x => ?_) ?_ <;> [clear_value x; subst x]) | clear_value x)

theorem execHash_frame (h : Frame ps s t) (hm : Within [.flights, .run, .slc, .led, .outs] ps) (a1) (a2) (a3) : OutFrame ps s (execHash a1 a2 a3 t) := by
  unfold execHash
  repeat'
    first
    | (show Within _ _; exact Within.trans (by decide) hm)
    | intro _
    | with_reducible (first | assumption | apply OutFrame.next | apply startOp_frame | apply settle_frame | apply withRead_frame | apply writeAndSettle_frame | apply atStage_frame | apply ite_frame)
    | split
    | (extract_lets +onlyGivenNames x; first | (refine (fun hx : Frame ps s x => ?_) ?_ <;> [clear_value x; subst x]) | clear_value x)

theorem execHashEngineFault_frame (h : Frame ps s t) (hm : Within [.vecs, .led, .flt, .sec, .outs] ps) (a1) : OutFrame ps s (execHashEngineFault a1 t) := by
  unfold execHashEngineFault
  repeat'
    first
    | (show Within _ _; exact Within.trans (by decide) hm)
    | intro _
    | with_reducible (first | assumption | apply OutFrame.next | apply modSec_frame | apply outOfService_frame | apply ite_frame)
    | split

theorem execPublicKeyEngineFault_frame (h : Frame ps s t) (hm : Within [.vecs, .led, .flt, .outs] ps) : OutFrame ps s (execPublicKeyEngineFault t) := by
  unfold execPublicKeyEngineFault
  repeat'
    first
    | (show Within _ _; exact Within.trans (by decide) hm)
    | intro _
    | with_reducible (first | assumption | apply OutFrame.next | apply outOfService_frame)

theorem modSource_frame (h : Frame ps s t) (hm : Within [.sec] ps) (a1) (a2) : Frame ps s (modSource a1 a2 t) := by
  unfold modSource
  repeat'
    first
    | (show Within _ _; exact Within.trans (by decide) hm)
    | intro _
    | with_reducible (first | assumption | apply modSec_frame)

theorem rngEvent_frame (h : Frame ps s t) (hm : Within [.sec] ps) (a1) : Frame ps s (rngEvent a1 t) := by
  unfold rngEvent
  repeat'
    first
    | (show Within _ _; exact Within.trans (by decide) hm)
    | intro _
    | with_reducible (first | assumption | apply modSec_frame)

theorem judgeRng_frame (h : Frame ps s t) (hm : Within [.vecs, .led, .flt, .sec, .outs] ps) : Frame ps s (judgeRng t) := by
  unfold judgeRng
  repeat'
    first
    | (show Within _ _; exact Within.trans (by decide) hm)
    | intro _
    | with_reducible (first | assumption | apply rngEvent_frame | apply fault_frame | apply stopRng_frame | apply modSec_frame | apply ite_frame)
    | split

theorem sourceFails_frame (h : Frame ps s t) (hm : Within [.vecs, .led, .flt, .sec, .outs] ps) (a1) (a2) : Frame ps s (sourceFails a1 a2 t) := by
  unfold sourceFails
  repeat'
    first
    | (show Within _ _; exact Within.trans (by decide) hm)
    | intro _
    | with_reducible (first | assumption | apply modSource_frame | apply discardBlock_frame | apply onlyIf_frame | apply rngEvent_frame | apply judgeRng_frame | apply changeUnit_frame | apply ite_frame)
    | split
    | (extract_lets +onlyGivenNames x; first | (refine (fun hx : Frame ps s x => ?_) ?_ <;> [clear_value x; subst x]) | clear_value x)

theorem execRngSourceFailure_frame (h : Frame ps s t) (hm : Within [.vecs, .led, .flt, .sec, .outs] ps) (a1) (a2) : OutFrame ps s (execRngSourceFailure a1 a2 t) := by
  unfold execRngSourceFailure
  repeat'
    first
    | (show Within _ _; exact Within.trans (by decide) hm)
    | intro _
    | with_reducible (first | assumption | apply OutFrame.next | apply sourceFails_frame | apply ite_frame)
    | split

theorem execRngHealthCheck_frame (h : Frame ps s t) (hm : Within [.vecs, .led, .flt, .sec, .outs] ps) (a1) (a2) : OutFrame ps s (execRngHealthCheck a1 a2 t) := by
  unfold execRngHealthCheck
  repeat'
    first
    | (show Within _ _; exact Within.trans (by decide) hm)
    | intro _
    | with_reducible (first | assumption | apply OutFrame.next | apply onlyIf_frame | apply rngEvent_frame | apply each_frame | apply sourceFails_frame | apply ite_frame)
    | split
    | (extract_lets +onlyGivenNames x; first | (refine (fun hx : Frame ps s x => ?_) ?_ <;> [clear_value x; subst x]) | clear_value x)

theorem execSourceReturn_frame (h : Frame ps s t) (hm : Within [.vecs, .time, .counters, .led, .flt, .sec, .outs] ps) (a1) : OutFrame ps s (execSourceReturn a1 t) := by
  unfold execSourceReturn
  repeat'
    first
    | (show Within _ _; exact Within.trans (by decide) hm)
    | intro _
    | with_reducible (first | assumption | apply OutFrame.next | apply elapseTo_frame | apply backInService_frame | apply modSource_frame | apply gather_frame | apply ite_frame)
    | split
    | (extract_lets +onlyGivenNames x; first | (refine (fun hx : Frame ps s x => ?_) ?_ <;> [clear_value x; subst x]) | clear_value x)

theorem execDrbgReseed_frame (h : Frame ps s t) (hm : Within [.sec, .free] ps) : OutFrame ps s (execDrbgReseed t) := by
  unfold execDrbgReseed
  repeat'
    first
    | (show Within _ _; exact Within.trans (by decide) hm)
    | intro _
    | with_reducible (first | assumption | apply OutFrame.next | apply reseed_frame | apply ite_frame)
    | split

theorem makeStarter_frame (h : Frame ps s t) (hm : Within [.run, .slc, .led, .sec, .dir, .radio, .free] ps) : Frame ps s (makeStarter t) := by
  unfold makeStarter
  repeat'
    first
    | (show Within _ _; exact Within.trans (by decide) hm)
    | intro _
    | with_reducible (first | assumption | apply logRec_frame | apply drew_frame | apply modSec_frame | apply modSlc_frame | apply keyEvent_frame | apply modDir_frame | apply modRadio_frame | apply ite_frame)
    | split
    | (extract_lets +onlyGivenNames x; first | (refine (fun hx : Frame ps s x => ?_) ?_ <;> [clear_value x; subst x]) | clear_value x)

theorem checkStarter_frame (h : Frame ps s t) (hm : Within [.run, .slc, .led, .sec, .dir, .radio, .free] ps) : Frame ps s (checkStarter t) := by
  unfold checkStarter
  repeat'
    first
    | (show Within _ _; exact Within.trans (by decide) hm)
    | intro _
    | with_reducible (first | assumption | apply modSec_frame | apply makeStarter_frame | apply ite_frame)
    | split

theorem execRngSelfTestEnd_frame (h : Frame ps s t) (hm : Within [.vecs, .run, .slc, .led, .flt, .sec, .dir, .radio, .outs, .free] ps) (a1) (a2) : OutFrame ps s (execRngSelfTestEnd a1 a2 t) := by
  unfold execRngSelfTestEnd
  repeat'
    first
    | (show Within _ _; exact Within.trans (by decide) hm)
    | intro _
    | with_reducible (first | assumption | apply OutFrame.next | apply modSec_frame | apply each_frame | apply backInService_frame | apply rngEvent_frame | apply changeUnit_frame | apply instantiate_frame | apply onlyIf_frame | apply makeStarter_frame | apply fault_frame | apply stopRng_frame | apply ite_frame)
    | split
    | (extract_lets +onlyGivenNames x; first | (refine (fun hx : Frame ps s x => ?_) ?_ <;> [clear_value x; subst x]) | (refine (fun hx : Frame ps s x.2 => ?_) ?_ <;> [clear_value x; subst x]) | (refine (fun hx : Frame ps s x.1 => ?_) ?_ <;> [clear_value x; subst x]) | clear_value x)

theorem execRandom_frame (h : Frame ps s t) (hm : Within [.flights, .run, .slc, .led, .sec, .outs, .free] ps) (a1) (a2) : OutFrame ps s (execRandom a1 a2 t) := by
  unfold execRandom
  repeat'
    first
    | (show Within _ _; exact Within.trans (by decide) hm)
    | intro _
    | with_reducible (first | assumption | apply OutFrame.next | apply startOp_frame | apply settle_frame | apply joinQueue_frame | apply onlyIf_frame | apply reseed_frame | apply leaveQueue_frame | apply writeAndSettle_frame | apply drew_frame | apply ite_frame)
    | split
    | (extract_lets +onlyGivenNames x; first | (refine (fun hx : Frame ps s x => ?_) ?_ <;> [clear_value x; subst x]) | clear_value x)

theorem execRngStatus_frame (h : Frame ps s t) (hm : Within [.flights, .run, .slc, .led, .outs] ps) (a1) (a2) : OutFrame ps s (execRngStatus a1 a2 t) := by
  unfold execRngStatus
  repeat'
    first
    | (show Within _ _; exact Within.trans (by decide) hm)
    | intro _
    | with_reducible (first | assumption | apply OutFrame.next | apply startOp_frame | apply writeAndSettle_frame)

end Sys2Proof.Machine
end

