-- ==== Sys2Proof/Laws/FrameCusOps.lean ====
section
/-! SUPPORT. Which parts of the state the operations of CusOps, Rails, Custody, DirOps can change (Safety.Frame), one lemma each, in the order of their definitions. -/

set_option linter.unusedTactic false
set_option linter.unreachableTactic false
set_option linter.unusedSimpArgs false
set_option linter.unusedVariables false

namespace Sys2Proof.Machine

variable {ps : List Part} {s t : State}

theorem modDrive_frame (h : Frame ps s t) (hm : Within [.cus] ps) (a1) (a2) : Frame ps s (modDrive a1 a2 t) := by
  unfold modDrive
  repeat'
    first
    | (show Within _ _; exact Within.trans (by decide) hm)
    | intro _
    | with_reducible (first | assumption | apply modCus_frame)

theorem cusEvent_frame (h : Frame ps s t) (hm : Within [.cus] ps) (a1) : Frame ps s (cusEvent a1 t) := by
  unfold cusEvent
  repeat'
    first
    | (show Within _ _; exact Within.trans (by decide) hm)
    | intro _
    | with_reducible (first | assumption | apply modCus_frame)

theorem sendWrites_frame (h : Frame ps s t) (hm : Within [.outs] ps) (a1) : Frame ps s (sendWrites a1 t) := by
  unfold sendWrites
  repeat'
    first
    | (show Within _ _; exact Within.trans (by decide) hm)
    | intro _
    | with_reducible (first | assumption | apply each_frame | apply emit_frame)
    | split

theorem beginRec_frame {u : State} (h : Frame ps s t) (hm : Within [.run, .slc, .led, .cus, .outs] ps) {w x b}
    (e : beginRec w x b t = .ok u) : Frame ps s u := by
  unfold beginRec at e
  split at e
  · cases e
  · split at e
    · cases e
    · extract_lets r at e
      split at e
      · cases e
      · extract_lets r' x' st x'' at e
        have k : Frame ps s x' := by
          subst x'
          split
          · exact h
          · exact logRec_frame h (hm.sub (by decide)) _
        cases e
        have k2 : Frame ps s x'' := step_frame k rfl rfl fun p hp => by
          cases p <;> first | exact rfl | exact ⟨rfl, rfl⟩ | exact absurd (hm (by decide)) hp
        exact sendWrites_frame k2 (hm.sub (by decide)) _

theorem lostLeaves_frame (h : Frame ps s t) (hm : Within [.led, .cus] ps) (a1) : Frame ps s (lostLeaves a1 t) := by
  unfold lostLeaves
  repeat'
    first
    | (show Within _ _; exact Within.trans (by decide) hm)
    | intro _
    | with_reducible (first | assumption | apply modDrive_frame | apply logRec_frame | apply ite_frame)
    | split

theorem placeAgain_frame {u : State} (h : Frame ps s t) (hm : Within [.led, .cus, .outs] ps) {l : List Nat} {j : CusJob}
    (e : placeAgain l j t = some u) : Frame ps s u := by
  unfold placeAgain at e
  extract_lets cls at e
  split at e
  · cases e
  · extract_lets x j' x' at e
    cases e
    exact sendWrites_frame (tryLog_frame (modCus_frame h (hm.sub (by decide)) _) (hm.sub (by decide)) _) (hm.sub (by decide)) _

theorem placeIdle_frame (h : Frame ps s t) (hm : Within [.led, .cus, .outs] ps) : Frame ps s (placeIdle t) := by
  unfold placeIdle
  refine each_frame h _ _ fun j _ k => ?_
  split
  · exact placeAgain_frame k (hm.sub (by decide)) (by assumption)
  · exact k

theorem custodyWork_frame (h : Frame ps s t) (hm : Within [.run, .slc, .led, .dir, .cus, .outs] ps) : Frame ps s (custodyWork t) := by
  unfold custodyWork
  repeat'
    first
    | (show Within _ _; exact Within.trans (by decide) hm)
    | intro _
    | with_reducible (first | assumption | apply placeIdle_frame | apply each_frame | apply lostLeaves_frame | apply modCus_frame | apply modDir_frame | refine beginRec_frame ?_ ?_ (by with_reducible assumption))
    | split
    | (extract_lets +onlyGivenNames x; first | (refine (fun hx : Frame ps s x => ?_) ?_ <;> [clear_value x; subst x]) | clear_value x)

theorem reclaim_frame (h : Frame ps s t) (hm : Within [.led] ps) : Frame ps s (reclaim t) := by
  unfold reclaim
  repeat'
    first
    | (show Within _ _; exact Within.trans (by decide) hm)
    | intro _
    | with_reducible (first | assumption | apply modLed_frame | apply foldl_frame | refine foldl_frame ?_ ?_ (by with_reducible assumption))
    | split
    | (extract_lets +onlyGivenNames x; first | (refine (fun hx : Frame ps s x => ?_) ?_ <;> [clear_value x; subst x]) | clear_value x)

theorem countDrain_frame (h : Frame ps s t) (hm : Within [.flights] ps) (a1) (a2) : Frame ps s (countDrain a1 a2 t) := by
  unfold countDrain
  repeat'
    first
    | (show Within _ _; exact Within.trans (by decide) hm)
    | intro _
    | with_reducible (first | assumption | apply each_frame | apply modFlight_frame | apply ite_frame)
    | split

theorem driveRecord_frame (h : Frame ps s t) (hm : Within [.led] ps) (a1) (a2) (a3) : Frame ps s (driveRecord a1 a2 a3 t) := by
  unfold driveRecord
  repeat'
    first
    | (show Within _ _; exact Within.trans (by decide) hm)
    | intro _
    | with_reducible (first | assumption | apply logPart_frame)

theorem retireEmpty_frame (h : Frame ps s t) (hm : Within [.flights, .run, .slc, .led, .cus] ps) : Frame ps s (retireEmpty t) := by
  unfold retireEmpty
  repeat'
    first
    | (show Within _ _; exact Within.trans (by decide) hm)
    | intro _
    | with_reducible (first | assumption | apply each_frame | apply driveRecord_frame | apply tryLog_frame | apply modDrive_frame | apply settle_frame | apply ite_frame)
    | split
    | (extract_lets +onlyGivenNames x; first | (refine (fun hx : Frame ps s x => ?_) ?_ <;> [clear_value x; subst x]) | clear_value x)

theorem moveDone_frame (h : Frame ps s t) (hm : Within [.flights, .run, .slc, .led, .cus] ps) (a1) (a2) : Frame ps s (moveDone a1 a2 t) := by
  unfold moveDone
  repeat'
    first
    | (show Within _ _; exact Within.trans (by decide) hm)
    | intro _
    | with_reducible (first | assumption | apply modCus_frame | apply logRec_frame | apply countDrain_frame | apply retireEmpty_frame | apply onlyIf_frame | apply cusEvent_frame | apply ite_frame)
    | split
    | (extract_lets +onlyGivenNames x; first | (refine (fun hx : Frame ps s x => ?_) ?_ <;> [clear_value x; subst x]) | (refine (fun hx : ∀ {t}, Frame ps s t → Frame ps s (x t) => ?_) ?_ <;> [clear_value x; subst x]) | clear_value x)

theorem recordDone_frame (h : Frame ps s t) (hm : Within [.flights, .run, .slc, .led, .dir, .cus, .outs] ps) (a1) : Frame ps s (recordDone a1 t) := by
  unfold recordDone
  repeat'
    first
    | (show Within _ _; exact Within.trans (by decide) hm)
    | intro _
    | with_reducible (first | assumption | apply modCus_frame | apply moveDone_frame | apply settle_frame | apply atStage_frame | apply modLed_frame | apply modDir_frame | apply custodyWork_frame | apply reclaim_frame | apply ite_frame)
    | split
    | (extract_lets +onlyGivenNames x; first | (refine (fun hx : Frame ps s x => ?_) ?_ <;> [clear_value x; subst x]) | (refine (fun hx : ∀ {t}, Frame ps s t → Frame ps s (x t) => ?_) ?_ <;> [clear_value x; subst x]) | clear_value x)

theorem jobWrite_frame (h : Frame ps s t) (hm : Within [.flights, .run, .slc, .led, .dir, .cus, .outs] ps) (a1) (a2) (a3) : Frame ps s (jobWrite a1 a2 a3 t) := by
  unfold jobWrite
  repeat'
    first
    | (show Within _ _; exact Within.trans (by decide) hm)
    | intro _
    | with_reducible (first | assumption | apply modCus_frame | apply recordDone_frame | apply ite_frame)
    | split
    | (extract_lets +onlyGivenNames x; first | (refine (fun hx : Frame ps s x => ?_) ?_ <;> [clear_value x; subst x]) | clear_value x)

theorem copyLost_frame (h : Frame ps s t) (hm : Within [.cus] ps) (a1) (a2) : Frame ps s (copyLost a1 a2 t) := by
  unfold copyLost
  repeat'
    first
    | (show Within _ _; exact Within.trans (by decide) hm)
    | intro _
    | with_reducible (first | assumption | apply modCus_frame | apply ite_frame)
    | split

theorem jobLost_frame (h : Frame ps s t) (hm : Within [.flights, .run, .slc, .led, .dir, .cus, .outs] ps) (a1) (a2) : Frame ps s (jobLost a1 a2 t) := by
  unfold jobLost
  split
  · exact modCus_frame h (hm.sub (by decide)) _
  · extract_lets alone other
    split
    · rename_i e
      split at e
      · exact placeAgain_frame h (hm.sub (by decide)) e
      · cases e
    · split
      · exact modCus_frame h (hm.sub (by decide)) _
      · exact jobWrite_frame (copyLost_frame h (hm.sub (by decide)) _ _) (hm.sub (by decide)) _ _ _

theorem cancelAppend_frame (h : Frame ps s t) (hm : Within [.cus] ps) (a1) : Frame ps s (cancelAppend a1 t) := by
  unfold cancelAppend
  repeat'
    first
    | (show Within _ _; exact Within.trans (by decide) hm)
    | intro _
    | with_reducible (first | assumption | apply modCus_frame)

theorem evictRec_frame (h : Frame ps s t) (hm : Within [.run, .led, .cus] ps) (a1) : Frame ps s (evictRec a1 t) := by
  unfold evictRec
  repeat'
    first
    | (show Within _ _; exact Within.trans (by decide) hm)
    | intro _
    | with_reducible (first | assumption | apply tryLog_frame | apply modCus_frame | apply onlyIf_frame | apply modRun_frame | apply cusEvent_frame)
    | split
    | (extract_lets +onlyGivenNames x; first | (refine (fun hx : Frame ps s x => ?_) ?_ <;> [clear_value x; subst x]) | (refine (fun hx : ∀ {t}, Frame ps s t → Frame ps s (x t) => ?_) ?_ <;> [clear_value x; subst x]) | clear_value x)

theorem evictAll_frame (h : Frame ps s t) (hm : Within [.run, .led, .cus] ps) (a1) : Frame ps s (evictAll a1 t) := by
  induction a1 generalizing t with
  | zero => exact h
  | succ n ih =>
    unfold evictAll
    extract_lets sp
    split
    · split
      · exact ih (evictRec_frame h (hm.sub (by decide)) _)
      · exact h
    · exact h

theorem evictIfLow_frame (h : Frame ps s t) (hm : Within [.run, .led, .cus] ps) : Frame ps s (evictIfLow t) := by
  unfold evictIfLow
  repeat'
    first
    | (show Within _ _; exact Within.trans (by decide) hm)
    | intro _
    | with_reducible (first | assumption | apply evictAll_frame | apply ite_frame)
    | split
    | (extract_lets +onlyGivenNames x; first | (refine (fun hx : Frame ps s x => ?_) ?_ <;> [clear_value x; subst x]) | (refine (fun hx : Frame ps s x.2 => ?_) ?_ <;> [clear_value x; subst x]) | (refine (fun hx : Frame ps s x.1 => ?_) ?_ <;> [clear_value x; subst x]) | clear_value x)

theorem execAppend_frame (h : Frame ps s t) (hm : Within [.flights, .run, .slc, .led, .cus, .outs] ps) (a1) (a2) : OutFrame ps s (execAppend a1 a2 t) := by
  unfold execAppend
  repeat'
    first
    | (show Within _ _; exact Within.trans (by decide) hm)
    | intro _
    | with_reducible (first | assumption | apply OutFrame.next | apply onlyIf_frame | apply evictIfLow_frame | apply startOp_frame | apply settle_frame | apply withRead_frame | apply atStage_frame | apply modCus_frame | apply modFlight_frame | refine beginRec_frame ?_ ?_ (by with_reducible assumption) | apply ite_frame)
    | split
    | (extract_lets +onlyGivenNames x; first | (refine (fun hx : Frame ps s x => ?_) ?_ <;> [clear_value x; subst x]) | clear_value x)

theorem readOut_frame (h : Frame ps s t) (hm : Within [.flights, .run, .slc, .led, .outs] ps) (a1) (a2) (a3) (a4) : Frame ps s (readOut a1 a2 a3 a4 t) := by
  unfold readOut
  repeat'
    first
    | (show Within _ _; exact Within.trans (by decide) hm)
    | intro _
    | with_reducible (first | assumption | apply writeAndSettle_frame | apply atStage_frame)

theorem execCusRead_frame (h : Frame ps s t) (hm : Within [.flights, .run, .slc, .led, .outs] ps) (a1) (a2) : OutFrame ps s (execCusRead a1 a2 t) := by
  unfold execCusRead
  repeat'
    first
    | (show Within _ _; exact Within.trans (by decide) hm)
    | intro _
    | with_reducible (first | assumption | apply OutFrame.next | apply startOp_frame | apply settle_frame | apply commitPoint_frame | apply readOut_frame | apply atStage_frame | apply ite_frame)
    | split
    | (extract_lets +onlyGivenNames x; first | (refine (fun hx : Frame ps s x => ?_) ?_ <;> [clear_value x; subst x]) | (refine (fun hx : Frame ps s x.2 => ?_) ?_ <;> [clear_value x; subst x]) | (refine (fun hx : Frame ps s x.1 => ?_) ?_ <;> [clear_value x; subst x]) | (refine (fun hx : ∀ {t}, Frame ps s t → Frame ps s (x t) => ?_) ?_ <;> [clear_value x; subst x]) | clear_value x)

theorem execCusScan_frame (h : Frame ps s t) (hm : Within [.flights, .run, .slc, .led, .outs] ps) (a1) (a2) : OutFrame ps s (execCusScan a1 a2 t) := by
  unfold execCusScan
  repeat'
    first
    | (show Within _ _; exact Within.trans (by decide) hm)
    | intro _
    | with_reducible (first | assumption | apply OutFrame.next | apply startOp_frame | apply writeAndSettle_frame)
    | split
    | (extract_lets +onlyGivenNames x; first | (refine (fun hx : Frame ps s x => ?_) ?_ <;> [clear_value x; subst x]) | clear_value x)

theorem execCusVerify_frame (h : Frame ps s t) (hm : Within [.flights, .run, .slc, .led] ps) (a1) : OutFrame ps s (execCusVerify a1 t) := by
  unfold execCusVerify
  repeat'
    first
    | (show Within _ _; exact Within.trans (by decide) hm)
    | intro _
    | with_reducible (first | assumption | apply OutFrame.next | apply startOp_frame | apply settle_frame | apply ite_frame)
    | split
    | (extract_lets +onlyGivenNames x; first | (refine (fun hx : Frame ps s x => ?_) ?_ <;> [clear_value x; subst x]) | clear_value x)

theorem execCusStatus_frame (h : Frame ps s t) (hm : Within [.flights, .run, .slc, .led, .outs] ps) (a1) (a2) : OutFrame ps s (execCusStatus a1 a2 t) := by
  unfold execCusStatus
  repeat'
    first
    | (show Within _ _; exact Within.trans (by decide) hm)
    | intro _
    | with_reducible (first | assumption | apply OutFrame.next | apply startOp_frame | apply writeAndSettle_frame)

theorem driveGone_frame (h : Frame ps s t) (hm : Within [.flights, .run, .slc, .led] ps) (a1) : Frame ps s (driveGone a1 t) := by
  unfold driveGone
  repeat'
    first
    | (show Within _ _; exact Within.trans (by decide) hm)
    | intro _
    | with_reducible (first | assumption | apply settle_frame | apply ite_frame)
    | split
    | (extract_lets +onlyGivenNames x; first | (refine (fun hx : Frame ps s x => ?_) ?_ <;> [clear_value x; subst x]) | clear_value x)

theorem storeDriveLost_frame (h : Frame ps s t) (hm : Within [.flights, .vecs, .run, .slc, .led, .flt, .dir, .cus, .outs] ps) (a1) (a2) (a3) : Frame ps s (storeDriveLost a1 a2 a3 t) := by
  unfold storeDriveLost
  repeat'
    first
    | (show Within _ _; exact Within.trans (by decide) hm)
    | intro _
    | with_reducible (first | assumption | apply cusEvent_frame | apply tryLog_frame | apply modCus_frame | apply each_frame | apply jobLost_frame | apply fault_frame | apply driveRecord_frame | apply onlyIf_frame | apply ite_frame)
    | split
    | (extract_lets +onlyGivenNames x; first | (refine (fun hx : Frame ps s x => ?_) ?_ <;> [clear_value x; subst x]) | clear_value x)

theorem declareLost_frame (h : Frame ps s t) (hm : Within [.flights, .vecs, .run, .slc, .led, .flt, .dir, .cus, .outs] ps) (a1) : Frame ps s (declareLost a1 t) := by
  unfold declareLost
  repeat'
    first
    | (show Within _ _; exact Within.trans (by decide) hm)
    | intro _
    | with_reducible (first | assumption | apply modDrive_frame | apply storeDriveLost_frame | apply driveGone_frame | apply lostLeaves_frame | apply ite_frame)
    | split
    | (extract_lets +onlyGivenNames x; first | (refine (fun hx : Frame ps s x => ?_) ?_ <;> [clear_value x; subst x]) | clear_value x)

theorem wasLost_frame (h : Frame ps s t) (hm : Within [.flights, .vecs, .run, .slc, .led, .flt, .dir, .cus, .outs] ps) (a1) : Frame ps s (wasLost a1 t) := by
  unfold wasLost
  repeat'
    first
    | (show Within _ _; exact Within.trans (by decide) hm)
    | intro _
    | with_reducible (first | assumption | apply storeDriveLost_frame | apply modDrive_frame)
    | split

theorem execNvmeLinkDown_frame (h : Frame ps s t) (hm : Within [.cus] ps) (a1) : OutFrame ps s (execNvmeLinkDown a1 t) := by
  unfold execNvmeLinkDown
  repeat'
    first
    | (show Within _ _; exact Within.trans (by decide) hm)
    | intro _
    | with_reducible (first | assumption | apply OutFrame.next | apply modDrive_frame | apply ite_frame)
    | split
    | (extract_lets +onlyGivenNames x; first | (refine (fun hx : Frame ps s x => ?_) ?_ <;> [clear_value x; subst x]) | clear_value x)

theorem execDriveLossDeclaration_frame (h : Frame ps s t) (hm : Within [.flights, .vecs, .run, .slc, .time, .counters, .led, .flt, .dir, .cus, .outs] ps) (a1) : OutFrame ps s (execDriveLossDeclaration a1 t) := by
  unfold execDriveLossDeclaration
  repeat'
    first
    | (show Within _ _; exact Within.trans (by decide) hm)
    | intro _
    | with_reducible (first | assumption | apply OutFrame.next | apply declareLost_frame | apply elapseTo_frame | apply wasLost_frame | apply ite_frame)
    | split
    | (extract_lets +onlyGivenNames x; first | (refine (fun hx : Frame ps s x => ?_) ?_ <;> [clear_value x; subst x]) | clear_value x)

theorem execNvmeFatalStatus_frame (h : Frame ps s t) (hm : Within [.flights, .vecs, .run, .slc, .led, .flt, .dir, .cus, .outs] ps) (a1) : OutFrame ps s (execNvmeFatalStatus a1 t) := by
  unfold execNvmeFatalStatus
  repeat'
    first
    | (show Within _ _; exact Within.trans (by decide) hm)
    | intro _
    | with_reducible (first | assumption | apply OutFrame.next | apply wasLost_frame | apply declareLost_frame | apply ite_frame)
    | split

theorem execNvmeCommandTimeout_frame (h : Frame ps s t) (hm : Within [.flights, .vecs, .run, .slc, .time, .counters, .led, .flt, .dir, .cus, .outs] ps) (a1) : OutFrame ps s (execNvmeCommandTimeout a1 t) := by
  unfold execNvmeCommandTimeout
  repeat'
    first
    | (show Within _ _; exact Within.trans (by decide) hm)
    | intro _
    | with_reducible (first | assumption | apply OutFrame.next | apply declareLost_frame | apply elapseNs_frame | apply emit_frame | apply ite_frame)
    | split
    | (extract_lets +onlyGivenNames x; first | (refine (fun hx : Frame ps s x => ?_) ?_ <;> [clear_value x; subst x]) | clear_value x)

theorem execNvmeLinkUp_frame (h : Frame ps s t) (hm : Within [.cus] ps) (a1) : OutFrame ps s (execNvmeLinkUp a1 t) := by
  unfold execNvmeLinkUp
  repeat'
    first
    | (show Within _ _; exact Within.trans (by decide) hm)
    | intro _
    | with_reducible (first | assumption | apply OutFrame.next | apply modDrive_frame | apply ite_frame)
    | split
    | (extract_lets +onlyGivenNames x; first | (refine (fun hx : Frame ps s x => ?_) ?_ <;> [clear_value x; subst x]) | clear_value x)

theorem driveWorn_frame (h : Frame ps s t) (hm : Within [.vecs, .led, .flt, .cus, .outs] ps) (a1) : Frame ps s (driveWorn a1 t) := by
  unfold driveWorn
  repeat'
    first
    | (show Within _ _; exact Within.trans (by decide) hm)
    | intro _
    | with_reducible (first | assumption | apply modCus_frame | apply cusEvent_frame | apply fault_frame | apply modDrive_frame | apply ite_frame)
    | split
    | (extract_lets +onlyGivenNames x; first | (refine (fun hx : Frame ps s x => ?_) ?_ <;> [clear_value x; subst x]) | clear_value x)

theorem driveOnline_frame (h : Frame ps s t) (hm : Within [.vecs, .run, .slc, .led, .flt, .dir, .cus, .outs] ps) (a1) (a2) (a3) : Frame ps s (driveOnline a1 a2 a3 t) := by
  unfold driveOnline
  repeat'
    first
    | (show Within _ _; exact Within.trans (by decide) hm)
    | intro _
    | with_reducible (first | assumption | apply modCus_frame | apply cusEvent_frame | apply modDrive_frame | apply custodyWork_frame | apply onlyIf_frame | apply driveWorn_frame | apply ite_frame)
    | split
    | (extract_lets +onlyGivenNames x; first | (refine (fun hx : Frame ps s x => ?_) ?_ <;> [clear_value x; subst x]) | clear_value x)

theorem initDrive_frame (h : Frame ps s t) (hm : Within [.outs, .free] ps) (a1) (a2) : Frame ps s (initDrive a1 a2 t) := by
  unfold initDrive
  repeat'
    first
    | (show Within _ _; exact Within.trans (by decide) hm)
    | intro _
    | with_reducible (first | assumption | apply each_frame | apply emit_frame | apply drawn_frame)

theorem writeLabel_frame (h : Frame ps s t) (hm : Within [.sec, .cus, .outs, .free] ps) (a1) : Frame ps s (writeLabel a1 t) := by
  unfold writeLabel
  repeat'
    first
    | (show Within _ _; exact Within.trans (by decide) hm)
    | intro _
    | with_reducible (first | assumption | apply emit_frame | apply drew_frame | apply modCus_frame)
    | split
    | (extract_lets +onlyGivenNames x; first | (refine (fun hx : Frame ps s x => ?_) ?_ <;> [clear_value x; subst x]) | clear_value x)

theorem labelDrive_frame (h : Frame ps s t) (hm : Within [.vecs, .run, .slc, .led, .flt, .sec, .dir, .cus, .outs, .free] ps) (a1) (a2) : Frame ps s (labelDrive a1 a2 t) := by
  unfold labelDrive
  repeat'
    first
    | (show Within _ _; exact Within.trans (by decide) hm)
    | intro _
    | with_reducible (first | assumption | apply driveRecord_frame | apply driveOnline_frame | apply writeLabel_frame)

theorem execDriveReady_frame (h : Frame ps s t) (hm : Within [.flights, .vecs, .run, .slc, .led, .flt, .sec, .dir, .cus, .outs, .free] ps) (a1) (a2) : OutFrame ps s (execDriveReady a1 a2 t) := by
  unfold execDriveReady
  repeat'
    first
    | (show Within _ _; exact Within.trans (by decide) hm)
    | intro _
    | with_reducible (first | assumption | apply OutFrame.next | apply outOfService_frame | apply wasLost_frame | apply initDrive_frame | apply drawn_frame | apply modDrive_frame | apply labelDrive_frame | apply cusEvent_frame | apply driveOnline_frame | apply ite_frame)
    | split
    | (extract_lets +onlyGivenNames x; first | (refine (fun hx : Frame ps s x => ?_) ?_ <;> [clear_value x; subst x]) | clear_value x)

theorem execDriveReadyTimeout_frame (h : Frame ps s t) (hm : Within [.flights, .vecs, .run, .slc, .time, .counters, .led, .flt, .dir, .cus, .outs] ps) (a1) : OutFrame ps s (execDriveReadyTimeout a1 t) := by
  unfold execDriveReadyTimeout
  repeat'
    first
    | (show Within _ _; exact Within.trans (by decide) hm)
    | intro _
    | with_reducible (first | assumption | apply OutFrame.next | apply wasLost_frame | apply outOfService_frame | apply elapseTo_frame | apply ite_frame)
    | split
    | (extract_lets +onlyGivenNames x; first | (refine (fun hx : Frame ps s x => ?_) ?_ <;> [clear_value x; subst x]) | clear_value x)

theorem execDriveWear_frame (h : Frame ps s t) (hm : Within [.vecs, .led, .flt, .cus, .outs] ps) (a1) (a2) : OutFrame ps s (execDriveWear a1 a2 t) := by
  unfold execDriveWear
  repeat'
    first
    | (show Within _ _; exact Within.trans (by decide) hm)
    | intro _
    | with_reducible (first | assumption | apply OutFrame.next | apply driveWorn_frame | apply modDrive_frame | apply ite_frame)
    | split
    | (extract_lets +onlyGivenNames x; first | (refine (fun hx : Frame ps s x => ?_) ?_ <;> [clear_value x; subst x]) | clear_value x)

theorem beginMove_frame (h : Frame ps s t) (hm : Within [.flights, .run, .slc, .led, .cus, .outs] ps) (a1) (a2) : Frame ps s (beginMove a1 a2 t) := by
  unfold beginMove
  repeat'
    first
    | (show Within _ _; exact Within.trans (by decide) hm)
    | intro _
    | with_reducible (first | assumption | apply modCus_frame | apply noteV_frame | apply moveDone_frame | apply sendWrites_frame | apply foldl_frame | refine foldl_frame ?_ ?_ (by with_reducible assumption) | apply ite_frame)
    | split
    | (extract_lets +onlyGivenNames x; first | (refine (fun hx : Frame ps s x => ?_) ?_ <;> [clear_value x; subst x]) | (refine (fun hx : Frame ps s x.2 => ?_) ?_ <;> [clear_value x; subst x]) | (refine (fun hx : Frame ps s x.1 => ?_) ?_ <;> [clear_value x; subst x]) | clear_value x)

theorem execReprotection_frame (h : Frame ps s t) (hm : Within [.flights, .run, .slc, .led, .cus, .outs] ps) : OutFrame ps s (execReprotection t) := by
  unfold execReprotection
  repeat'
    first
    | (show Within _ _; exact Within.trans (by decide) hm)
    | intro _
    | with_reducible (first | assumption | apply OutFrame.next | apply retireEmpty_frame | apply beginMove_frame | apply ite_frame)
    | split

theorem execEviction_frame (h : Frame ps s t) (hm : Within [.run, .led, .cus] ps) : OutFrame ps s (execEviction t) := by
  unfold execEviction
  repeat'
    first
    | (show Within _ _; exact Within.trans (by decide) hm)
    | intro _
    | with_reducible (first | assumption | apply OutFrame.next | apply evictIfLow_frame | apply ite_frame)
    | split

theorem execSectorRefillDone_frame (h : Frame ps s t) (hm : Within [.led] ps) (a1) : OutFrame ps s (execSectorRefillDone a1 t) := by
  unfold execSectorRefillDone
  repeat'
    first
    | (show Within _ _; exact Within.trans (by decide) hm)
    | intro _
    | with_reducible (first | assumption | apply OutFrame.next | apply modLed_frame | apply ite_frame)
    | split

theorem beginCp_frame {u : State} (h : Frame ps s t) (hm : Within [.run, .slc, .led, .cus, .outs, .free] ps) (e : beginCp t = .ok u) : Frame ps s u := by
  unfold beginCp at e
  refine beginRec_frame ?_ (hm.sub (by decide)) e
  refine drawn_frame ?_ (hm.sub (by decide)) _
  exact modLed_frame h (hm.sub (by decide)) _

theorem execLedgercp_frame (h : Frame ps s t) (hm : Within [.vecs, .run, .slc, .time, .counters, .led, .dir, .cus, .outs, .free] ps) : OutFrame ps s (execLedgercp t) := by
  unfold execLedgercp
  refine OutFrame.next ?_
  split
  · have k : Frame ps s (if sinceCp t < 8192 then elapseTo (t.led.cpAt + 1000000) t else t) := by
      split
      · exact elapseTo_frame h (hm.sub (by decide)) _
      · exact h
    have k := custodyWork_frame (reclaim_frame k (hm.sub (by decide))) (hm.sub (by decide))
    dsimp only
    split
    · rename_i e
      exact beginCp_frame k (hm.sub (by decide)) e
    · exact modCus_frame k (hm.sub (by decide)) _
    · exact k
  · exact custodyWork_frame (reclaim_frame h (hm.sub (by decide))) (hm.sub (by decide))

theorem drainEnds_frame (h : Frame ps s t) (hm : Within [.pwr, .cus, .outs] ps) : Frame ps s (drainEnds t) := by
  unfold drainEnds
  repeat'
    first
    | (show Within _ _; exact Within.trans (by decide) hm)
    | intro _
    | with_reducible (first | assumption | apply each_frame | apply onlyIf_frame | apply emit_frame | apply modCus_frame | apply modPwr_frame | apply lowerEnable_frame | apply lowerFrom_frame | apply ite_frame)
    | split
    | (extract_lets +onlyGivenNames x; first | (refine (fun hx : Frame ps s x => ?_) ?_ <;> [clear_value x; subst x]) | (refine (fun hx : Frame ps s x.2 => ?_) ?_ <;> [clear_value x; subst x]) | (refine (fun hx : Frame ps s x.1 => ?_) ?_ <;> [clear_value x; subst x]) | clear_value x)

theorem drainOn_frame (h : Frame ps s t) (hm : Within [.pwr, .run, .slc, .led, .cus, .outs, .free] ps) : Frame ps s (drainOn t) := by
  unfold drainOn
  repeat'
    first
    | (show Within _ _; exact Within.trans (by decide) hm)
    | intro _
    | with_reducible (first | assumption | apply modCus_frame | apply drainEnds_frame | refine beginCp_frame ?_ ?_ (by with_reducible assumption) | apply ite_frame)
    | split

theorem drainDrives_frame (h : Frame ps s t) (hm : Within [.flights, .vecs, .run, .slc, .time, .counters, .led, .flt, .dir, .cus, .outs] ps) (a1) : Frame ps s (drainDrives a1 t) := by
  unfold drainDrives
  repeat'
    first
    | (show Within _ _; exact Within.trans (by decide) hm)
    | intro _
    | with_reducible (first | assumption | apply onlyIf_frame | apply elapseNs_frame | apply each_frame | apply modDrive_frame | apply declareLost_frame | apply ite_frame)
    | split
    | (extract_lets +onlyGivenNames x; first | (refine (fun hx : Frame ps s x => ?_) ?_ <;> [clear_value x; subst x]) | (refine (fun hx : Frame ps s x.2 => ?_) ?_ <;> [clear_value x; subst x]) | (refine (fun hx : Frame ps s x.1 => ?_) ?_ <;> [clear_value x; subst x]) | clear_value x)

theorem execLedgerDrain_frame (h : Frame ps s t) (hm : Within [.pwr, .flights, .vecs, .run, .slc, .time, .counters, .led, .flt, .dir, .cus, .outs, .free] ps) (a1) : OutFrame ps s (execLedgerDrain a1 t) := by
  unfold execLedgerDrain
  repeat'
    first
    | (show Within _ _; exact Within.trans (by decide) hm)
    | intro _
    | with_reducible (first | assumption | apply OutFrame.next | apply raiseEach_frame | apply modPwr_frame | apply drainOn_frame | apply custodyWork_frame | apply modCus_frame | apply drainDrives_frame | apply ite_frame)
    | split

theorem execNvmeWriteComplete_frame (h : Frame ps s t) (hm : Within [.pwr, .flights, .run, .slc, .led, .dir, .cus, .outs, .free] ps) (a1) (a2) : OutFrame ps s (execNvmeWriteComplete a1 a2 t) := by
  unfold execNvmeWriteComplete
  repeat'
    first
    | (show Within _ _; exact Within.trans (by decide) hm)
    | intro _
    | with_reducible (first | assumption | apply OutFrame.next | apply drainOn_frame | apply jobWrite_frame | apply jobLost_frame | apply ite_frame)
    | split

theorem nearRemove_frame (h : Frame ps s t) (hm : Within [.radio] ps) (a1) : Frame ps s (nearRemove a1 t) := by
  unfold nearRemove
  repeat'
    first
    | (show Within _ _; exact Within.trans (by decide) hm)
    | intro _
    | with_reducible (first | assumption | apply modRadio_frame)

theorem applyAct_frame (h : Frame ps s t) (hm : Within [.dir] ps) (a1) : Frame ps s (applyAct a1 t) := by
  unfold applyAct
  repeat'
    first
    | (show Within _ _; exact Within.trans (by decide) hm)
    | intro _
    | with_reducible (first | assumption | apply modDir_frame)
    | split
    | (extract_lets +onlyGivenNames x; first | (refine (fun hx : Frame ps s x => ?_) ?_ <;> [clear_value x; subst x]) | clear_value x)

end Sys2Proof.Machine
end

