-- ==== Sys2Proof/Laws/FrameIflOps.lean ====
section
/-! SUPPORT. Which parts of the state the operations of IflOps, Directory, Cipher, Lanes, Lock, IflPhy can change (Safety.Frame), one lemma each, in the order of their definitions. -/

set_option linter.unusedTactic false
set_option linter.unreachableTactic false
set_option linter.unusedSimpArgs false
set_option linter.unusedVariables false

namespace Sys2Proof.Machine

variable {ps : List Part} {s t : State}

theorem modPort_frame (h : Frame ps s t) (hm : Within [.ifl] ps) (a1) (a2) : Frame ps s (modPort a1 a2 t) := by
  unfold modPort
  repeat'
    first
    | (show Within _ _; exact Within.trans (by decide) hm)
    | intro _
    | with_reducible (first | assumption | apply modIfl_frame)

theorem linkEvent_frame (h : Frame ps s t) (hm : Within [.ifl] ps) (a1) : Frame ps s (linkEvent a1 t) := by
  unfold linkEvent
  repeat'
    first
    | (show Within _ _; exact Within.trans (by decide) hm)
    | intro _
    | with_reducible (first | assumption | apply modIfl_frame)

theorem iflEvent_frame (h : Frame ps s t) (hm : Within [.ifl] ps) (a1) (a2) : Frame ps s (iflEvent a1 a2 t) := by
  unfold iflEvent
  repeat'
    first
    | (show Within _ _; exact Within.trans (by decide) hm)
    | intro _
    | with_reducible (first | assumption | apply modPort_frame)

theorem searchOn_frame (h : Frame ps s t) (hm : Within [.ifl] ps) (a1) (a2) : Frame ps s (searchOn a1 a2 t) := by
  unfold searchOn
  repeat'
    first
    | (show Within _ _; exact Within.trans (by decide) hm)
    | intro _
    | with_reducible (first | assumption | apply modPort_frame | apply ite_frame)
    | split

theorem sendFrame_frame (h : Frame ps s t) (hm : Within [.ifl, .outs] ps) (a1) (a2) (a3) (a4) (a5) (a6) : Frame ps s (sendFrame a1 a2 a3 a4 a5 a6 t) := by
  unfold sendFrame
  repeat'
    first
    | (show Within _ _; exact Within.trans (by decide) hm)
    | intro _
    | with_reducible (first | assumption | apply onlyIf_frame | apply searchOn_frame | apply modPort_frame | apply emit_frame)
    | split
    | (extract_lets +onlyGivenNames x; first | (refine (fun hx : Frame ps s x => ?_) ?_ <;> [clear_value x; subst x]) | clear_value x)

theorem flushMgmt_frame (h : Frame ps s t) (hm : Within [.ifl, .outs] ps) (a1) : Frame ps s (flushMgmt a1 t) := by
  unfold flushMgmt
  repeat'
    first
    | (show Within _ _; exact Within.trans (by decide) hm)
    | intro _
    | with_reducible (first | assumption | apply modPort_frame | apply each_frame | apply sendFrame_frame | apply ite_frame)
    | split
    | (extract_lets +onlyGivenNames x; first | (refine (fun hx : Frame ps s x => ?_) ?_ <;> [clear_value x; subst x]) | clear_value x)

theorem sendMgmt_frame (h : Frame ps s t) (hm : Within [.ifl, .outs] ps) (a1) (a2) : Frame ps s (sendMgmt a1 a2 t) := by
  unfold sendMgmt
  repeat'
    first
    | (show Within _ _; exact Within.trans (by decide) hm)
    | intro _
    | with_reducible (first | assumption | apply flushMgmt_frame | apply modPort_frame | apply ite_frame)
    | split

theorem sendPlain_frame (h : Frame ps s t) (hm : Within [.ifl, .outs] ps) (a1) (a2) (a3) (a4) (a5) : Frame ps s (sendPlain a1 a2 a3 a4 a5 t) := by
  unfold sendPlain
  repeat'
    first
    | (show Within _ _; exact Within.trans (by decide) hm)
    | intro _
    | with_reducible (first | assumption | apply sendFrame_frame | apply ite_frame)
    | split
    | (extract_lets +onlyGivenNames x; first | (refine (fun hx : Frame ps s x => ?_) ?_ <;> [clear_value x; subst x]) | (refine (fun hx : Frame ps s x.2 => ?_) ?_ <;> [clear_value x; subst x]) | (refine (fun hx : Frame ps s x.1 => ?_) ?_ <;> [clear_value x; subst x]) | clear_value x)

theorem sendSeq_frame (h : Frame ps s t) (hm : Within [.ifl, .outs] ps) (a1) (a2) : Frame ps s (sendSeq a1 a2 t) := by
  unfold sendSeq
  repeat'
    first
    | (show Within _ _; exact Within.trans (by decide) hm)
    | intro _
    | with_reducible (first | assumption | apply sendFrame_frame)
    | split
    | (extract_lets +onlyGivenNames x; first | (refine (fun hx : Frame ps s x => ?_) ?_ <;> [clear_value x; subst x]) | (refine (fun hx : Frame ps s x.2 => ?_) ?_ <;> [clear_value x; subst x]) | (refine (fun hx : Frame ps s x.1 => ?_) ?_ <;> [clear_value x; subst x]) | clear_value x)

theorem pumpN_frame (h : Frame ps s t) (hm : Within [.ifl, .outs] ps) (a1) (a2) : Frame ps s (pumpN a1 a2 t) := by
  induction a1 generalizing t with
  | zero => exact h
  | succ n ih =>
    unfold pumpN
    extract_lets pt
    split
    · exact h
    · split
      · exact ih (sendSeq_frame (modPort_frame h (hm.sub (by decide)) _ _) (hm.sub (by decide)) _ _)
      · exact h

theorem pump_frame (h : Frame ps s t) (hm : Within [.ifl, .outs] ps) (a1) : Frame ps s (pump a1 t) := by
  unfold pump
  repeat'
    first
    | (show Within _ _; exact Within.trans (by decide) hm)
    | intro _
    | with_reducible (first | assumption | apply pumpN_frame | apply flushMgmt_frame)

theorem enqueue_frame (h : Frame ps s t) (hm : Within [.ifl, .outs] ps) (a1) (a2) : Frame ps s (enqueue a1 a2 t) := by
  unfold enqueue
  repeat'
    first
    | (show Within _ _; exact Within.trans (by decide) hm)
    | intro _
    | with_reducible (first | assumption | apply pump_frame | apply modPort_frame)

theorem modNode_frame (h : Frame ps s t) (hm : Within [.ifl] ps) (a1) (a2) : Frame ps s (modNode a1 a2 t) := by
  unfold modNode
  repeat'
    first
    | (show Within _ _; exact Within.trans (by decide) hm)
    | intro _
    | with_reducible (first | assumption | apply modIfl_frame | apply ite_frame)
    | split

theorem sendTo_frame (h : Frame ps s t) (hm : Within [.ifl, .outs] ps) (a1) (a2) (a3) (a4) : Frame ps s (sendTo a1 a2 a3 a4 t) := by
  unfold sendTo
  repeat'
    first
    | (show Within _ _; exact Within.trans (by decide) hm)
    | intro _
    | with_reducible (first | assumption | apply enqueue_frame)
    | split

theorem sendData_frame (h : Frame ps s t) (hm : Within [.ifl, .outs] ps) (a1) (a2) (a3) (a4) (a5) : Frame ps s (sendData a1 a2 a3 a4 a5 t) := by
  unfold sendData
  repeat'
    first
    | (show Within _ _; exact Within.trans (by decide) hm)
    | intro _
    | with_reducible (first | assumption | apply sendTo_frame)

theorem sendDirState_frame (h : Frame ps s t) (hm : Within [.dir, .ifl, .outs] ps) (a1) : Frame ps s (sendDirState a1 t) := by
  unfold sendDirState
  repeat'
    first
    | (show Within _ _; exact Within.trans (by decide) hm)
    | intro _
    | with_reducible (first | assumption | apply sendData_frame | apply each_frame | apply modDir_frame)
    | split
    | (extract_lets +onlyGivenNames x; first | (refine (fun hx : Frame ps s x => ?_) ?_ <;> [clear_value x; subst x]) | clear_value x)

theorem relayChange_frame (h : Frame ps s t) (hm : Within [.dir, .ifl, .outs] ps) (a1) (a2) : Frame ps s (relayChange a1 a2 t) := by
  unfold relayChange
  repeat'
    first
    | (show Within _ _; exact Within.trans (by decide) hm)
    | intro _
    | with_reducible (first | assumption | apply each_frame | apply sendData_frame | apply modDir_frame)
    | split
    | (extract_lets +onlyGivenNames x; first | (refine (fun hx : Frame ps s x => ?_) ?_ <;> [clear_value x; subst x]) | clear_value x)

theorem dirEvent_frame (h : Frame ps s t) (hm : Within [.dir] ps) (a1) : Frame ps s (dirEvent a1 t) := by
  unfold dirEvent
  repeat'
    first
    | (show Within _ _; exact Within.trans (by decide) hm)
    | intro _
    | with_reducible (first | assumption | apply modDir_frame)

theorem lookupDone_frame (h : Frame ps s t) (hm : Within [.flights, .run, .slc, .led, .outs] ps) (a1) (a2) (a3) (a4) : Frame ps s (lookupDone a1 a2 a3 a4 t) := by
  unfold lookupDone
  repeat'
    first
    | (show Within _ _; exact Within.trans (by decide) hm)
    | intro _
    | with_reducible (first | assumption | apply writeAndSettle_frame | apply settle_frame | apply ite_frame)
    | split

theorem withEntry_frame (h : Frame ps s t) (hm : Within [.flights, .run, .slc, .led] ps) (a1) (a2) (a3) (f1 : _ → _ → _ → State → State) (hf1 : ∀ a b c {t}, Frame ps s t → Frame ps s (f1 a b c t)) : Frame ps s (withEntry a1 a2 a3 f1 t) := by
  unfold withEntry
  repeat'
    first
    | (show Within _ _; exact Within.trans (by decide) hm)
    | intro _
    | with_reducible (first | assumption | apply hf1 | apply startOp_frame | apply withRead_frame | apply settle_frame | apply ite_frame)
    | split
    | (extract_lets +onlyGivenNames x; first | (refine (fun hx : Frame ps s x => ?_) ?_ <;> [clear_value x; subst x]) | clear_value x)

theorem execLookup_frame (h : Frame ps s t) (hm : Within [.flights, .run, .slc, .led, .outs] ps) (a1) (a2) (a3) : OutFrame ps s (execLookup a1 a2 a3 t) := by
  unfold execLookup
  repeat'
    first
    | (show Within _ _; exact Within.trans (by decide) hm)
    | intro _
    | with_reducible (first | assumption | apply OutFrame.next | apply withEntry_frame | apply lookupDone_frame)

theorem execGrant_frame (h : Frame ps s t) (hm : Within [.flights, .run, .slc, .led, .dir] ps) (a1) (a2) (a3) : OutFrame ps s (execGrant a1 a2 a3 t) := by
  unfold execGrant
  repeat'
    first
    | (show Within _ _; exact Within.trans (by decide) hm)
    | intro _
    | with_reducible (first | assumption | apply OutFrame.next | apply withEntry_frame | apply settle_frame | apply modDir_frame | apply noteV_frame | apply ite_frame)
    | split
    | (extract_lets +onlyGivenNames x; first | (refine (fun hx : Frame ps s x => ?_) ?_ <;> [clear_value x; subst x]) | clear_value x)

theorem execGrantCommit_frame (h : Frame ps s t) (hm : Within [.flights, .run, .slc, .led, .dir, .outs] ps) (a1) (a2) : OutFrame ps s (execGrantCommit a1 a2 t) := by
  unfold execGrantCommit
  repeat'
    first
    | (show Within _ _; exact Within.trans (by decide) hm)
    | intro _
    | with_reducible (first | assumption | apply OutFrame.next | apply onOp_frame | apply modDir_frame | apply settle_frame | apply commitPoint_frame | apply lookupDone_frame | apply ite_frame)
    | split
    | (extract_lets +onlyGivenNames x; first | (refine (fun hx : Frame ps s x => ?_) ?_ <;> [clear_value x; subst x]) | (refine (fun hx : Frame ps s x.2 => ?_) ?_ <;> [clear_value x; subst x]) | (refine (fun hx : Frame ps s x.1 => ?_) ?_ <;> [clear_value x; subst x]) | clear_value x)

theorem beginChange_frame (h : Frame ps s t) (hm : Within [.flights, .run, .slc, .led, .dir, .cus, .outs] ps) (a1) (a2) (a3) : Frame ps s (beginChange a1 a2 a3 t) := by
  unfold beginChange
  repeat'
    first
    | (show Within _ _; exact Within.trans (by decide) hm)
    | intro _
    | with_reducible (first | assumption | apply modDir_frame | apply atStage_frame | apply modCus_frame | apply modFlight_frame | refine beginRec_frame ?_ ?_ (by with_reducible assumption))
    | split
    | (extract_lets +onlyGivenNames x; first | (refine (fun hx : Frame ps s x => ?_) ?_ <;> [clear_value x; subst x]) | clear_value x)

theorem changeOp_frame (h : Frame ps s t) (hm : Within [.flights, .run, .slc, .led] ps) (a1) (a2) (f1 : _ → State → State) (hf1 : ∀ a {t}, Frame ps s t → Frame ps s (f1 a t)) : Frame ps s (changeOp a1 a2 f1 t) := by
  unfold changeOp
  repeat'
    first
    | (show Within _ _; exact Within.trans (by decide) hm)
    | intro _
    | with_reducible (first | assumption | apply hf1 | apply startOp_frame | apply settle_frame | apply ite_frame)
    | split

theorem execDirLoad_frame (h : Frame ps s t) (hm : Within [.flights, .run, .slc, .led, .dir, .cus, .outs, .free] ps) (a1) (a2) : OutFrame ps s (execDirLoad a1 a2 t) := by
  unfold execDirLoad
  repeat'
    first
    | (show Within _ _; exact Within.trans (by decide) hm)
    | intro _
    | with_reducible (first | assumption | apply OutFrame.next | apply changeOp_frame | apply withRead_frame | apply atStage_frame | apply settle_frame | apply dirEvent_frame | apply drawn_frame | apply beginChange_frame | apply ite_frame)
    | split
    | (extract_lets +onlyGivenNames x; first | (refine (fun hx : Frame ps s x => ?_) ?_ <;> [clear_value x; subst x]) | clear_value x)

theorem execRevoke_frame (h : Frame ps s t) (hm : Within [.flights, .run, .slc, .led, .dir, .cus, .outs] ps) (a1) : OutFrame ps s (execRevoke a1 t) := by
  unfold execRevoke
  repeat'
    first
    | (show Within _ _; exact Within.trans (by decide) hm)
    | intro _
    | with_reducible (first | assumption | apply OutFrame.next | apply changeOp_frame | apply settle_frame | apply beginChange_frame | apply ite_frame)
    | split
    | (extract_lets +onlyGivenNames x; first | (refine (fun hx : Frame ps s x => ?_) ?_ <;> [clear_value x; subst x]) | (refine (fun hx : Frame ps s x.2 => ?_) ?_ <;> [clear_value x; subst x]) | (refine (fun hx : Frame ps s x.1 => ?_) ?_ <;> [clear_value x; subst x]) | clear_value x)

theorem execRevokeEpoch_frame (h : Frame ps s t) (hm : Within [.flights, .run, .slc, .led, .dir, .cus, .outs] ps) (a1) : OutFrame ps s (execRevokeEpoch a1 t) := by
  unfold execRevokeEpoch
  repeat'
    first
    | (show Within _ _; exact Within.trans (by decide) hm)
    | intro _
    | with_reducible (first | assumption | apply OutFrame.next | apply changeOp_frame | apply settle_frame | apply beginChange_frame | apply ite_frame)
    | split
    | (extract_lets +onlyGivenNames x; first | (refine (fun hx : Frame ps s x => ?_) ?_ <;> [clear_value x; subst x]) | clear_value x)

theorem execRemove_frame (h : Frame ps s t) (hm : Within [.flights, .run, .slc, .led, .dir, .cus, .outs] ps) (a1) : OutFrame ps s (execRemove a1 t) := by
  unfold execRemove
  repeat'
    first
    | (show Within _ _; exact Within.trans (by decide) hm)
    | intro _
    | with_reducible (first | assumption | apply OutFrame.next | apply changeOp_frame | apply settle_frame | apply beginChange_frame | apply ite_frame)
    | split
    | (extract_lets +onlyGivenNames x; first | (refine (fun hx : Frame ps s x => ?_) ?_ <;> [clear_value x; subst x]) | (refine (fun hx : Frame ps s x.2 => ?_) ?_ <;> [clear_value x; subst x]) | (refine (fun hx : Frame ps s x.1 => ?_) ?_ <;> [clear_value x; subst x]) | clear_value x)

theorem returnEntries_frame (h : Frame ps s t) (hm : Within [.run] ps) (a1) : Frame ps s (returnEntries a1 t) := by
  unfold returnEntries
  repeat'
    first
    | (show Within _ _; exact Within.trans (by decide) hm)
    | intro _
    | with_reducible (first | assumption | apply each_frame | apply modRun_frame)

theorem takeChange_frame (h : Frame ps s t) (hm : Within [.run, .dir, .radio, .ifl, .outs] ps) (a1) (a2) : Frame ps s (takeChange a1 a2 t) := by
  unfold takeChange
  repeat'
    first
    | (show Within _ _; exact Within.trans (by decide) hm)
    | intro _
    | with_reducible (first | assumption | apply applyAct_frame | apply returnEntries_frame | apply each_frame | apply nearRemove_frame | apply relayChange_frame)
    | split
    | (extract_lets +onlyGivenNames x; first | (refine (fun hx : Frame ps s x => ?_) ?_ <;> [clear_value x; subst x]) | clear_value x)

theorem deltaCopied_frame (h : Frame ps s t) (hm : Within [.flights, .run, .slc, .led, .dir, .radio, .ifl, .outs] ps) : Frame ps s (deltaCopied t) := by
  unfold deltaCopied
  repeat'
    first
    | (show Within _ _; exact Within.trans (by decide) hm)
    | intro _
    | with_reducible (first | assumption | apply logRec_frame | apply atStage_frame | apply takeChange_frame | apply modDir_frame | apply settle_frame | apply ite_frame)
    | split
    | (extract_lets +onlyGivenNames x; first | (refine (fun hx : Frame ps s x => ?_) ?_ <;> [clear_value x; subst x]) | clear_value x)

theorem execDirDeltaCopied_frame (h : Frame ps s t) (hm : Within [.flights, .run, .slc, .led, .dir, .radio, .ifl, .outs] ps) : OutFrame ps s (execDirDeltaCopied t) := by
  unfold execDirDeltaCopied
  repeat'
    first
    | (show Within _ _; exact Within.trans (by decide) hm)
    | intro _
    | with_reducible (first | assumption | apply OutFrame.next | apply deltaCopied_frame)

theorem execDirStatus_frame (h : Frame ps s t) (hm : Within [.flights, .run, .slc, .led, .outs] ps) (a1) (a2) : OutFrame ps s (execDirStatus a1 a2 t) := by
  unfold execDirStatus
  repeat'
    first
    | (show Within _ _; exact Within.trans (by decide) hm)
    | intro _
    | with_reducible (first | assumption | apply OutFrame.next | apply startOp_frame | apply writeAndSettle_frame)

theorem sendHeld_frame (h : Frame ps s t) (hm : Within [.ifl, .outs] ps) : Frame ps s (sendHeld t) := by
  unfold sendHeld
  repeat'
    first
    | (show Within _ _; exact Within.trans (by decide) hm)
    | intro _
    | with_reducible (first | assumption | apply sendData_frame)

theorem execEpochs_frame (h : Frame ps s t) (hm : Within [.dir, .ifl, .outs] ps) (a1) : OutFrame ps s (execEpochs a1 t) := by
  unfold execEpochs
  repeat'
    first
    | (show Within _ _; exact Within.trans (by decide) hm)
    | intro _
    | with_reducible (first | assumption | apply OutFrame.next | apply sendHeld_frame | apply modDir_frame | apply foldl_frame | refine foldl_frame ?_ ?_ (by with_reducible assumption) | apply ite_frame)
    | split

theorem applyItem_frame (h : Frame ps s t) (hm : Within [.dir, .radio] ps) (a1) : Frame ps s (applyItem a1 t) := by
  unfold applyItem
  repeat'
    first
    | (show Within _ _; exact Within.trans (by decide) hm)
    | intro _
    | with_reducible (first | assumption | apply each_frame | apply nearRemove_frame | apply modDir_frame | apply ite_frame)
    | split
    | (extract_lets +onlyGivenNames x; first | (refine (fun hx : Frame ps s x => ?_) ?_ <;> [clear_value x; subst x]) | (refine (fun hx : ∀ {t}, Frame ps s t → Frame ps s (x t) => ?_) ?_ <;> [clear_value x; subst x]) | clear_value x)

theorem execRevoked_frame (h : Frame ps s t) (hm : Within [.dir, .radio, .ifl, .outs] ps) (a1) : OutFrame ps s (execRevoked a1 t) := by
  unfold execRevoked
  repeat'
    first
    | (show Within _ _; exact Within.trans (by decide) hm)
    | intro _
    | with_reducible (first | assumption | apply OutFrame.next | apply sendHeld_frame | apply each_frame | apply applyItem_frame | apply ite_frame)
    | split
    | (extract_lets +onlyGivenNames x; first | (refine (fun hx : Frame ps s x => ?_) ?_ <;> [clear_value x; subst x]) | clear_value x)

theorem execHeld_frame (h : Frame ps s t) (hm : Within [.dir] ps) (a1) (a2) : OutFrame ps s (execHeld a1 a2 t) := by
  unfold execHeld
  repeat'
    first
    | (show Within _ _; exact Within.trans (by decide) hm)
    | intro _
    | with_reducible (first | assumption | apply OutFrame.next | apply modDir_frame | apply ite_frame)
    | split
    | (extract_lets +onlyGivenNames x; first | (refine (fun hx : Frame ps s x => ?_) ?_ <;> [clear_value x; subst x]) | clear_value x)

theorem execDirRelayLate_frame (h : Frame ps s t) (hm : Within [.vecs, .time, .counters, .dir, .ifl, .outs] ps) (a1) : OutFrame ps s (execDirRelayLate a1 t) := by
  unfold execDirRelayLate
  repeat'
    first
    | (show Within _ _; exact Within.trans (by decide) hm)
    | intro _
    | with_reducible (first | assumption | apply OutFrame.next | apply sendDirState_frame | apply dirEvent_frame | apply elapseTo_frame | apply ite_frame)
    | split

theorem execSnapshotStart_frame (h : Frame ps s t) (hm : Within [.vecs, .run, .slc, .time, .counters, .led, .dir, .cus, .outs] ps) : OutFrame ps s (execSnapshotStart t) := by
  unfold execSnapshotStart
  repeat'
    first
    | (show Within _ _; exact Within.trans (by decide) hm)
    | intro _
    | with_reducible (first | assumption | apply OutFrame.next | apply elapseTo_frame | apply custodyWork_frame | apply modDir_frame | apply ite_frame)
    | split
    | (extract_lets +onlyGivenNames x; first | (refine (fun hx : Frame ps s x => ?_) ?_ <;> [clear_value x; subst x]) | (refine (fun hx : Frame ps s x.2 => ?_) ?_ <;> [clear_value x; subst x]) | (refine (fun hx : Frame ps s x.1 => ?_) ?_ <;> [clear_value x; subst x]) | clear_value x)

theorem startRebuild_frame (h : Frame ps s t) (hm : Within [.dir] ps) : Frame ps s (startRebuild t) := by
  unfold startRebuild
  repeat'
    first
    | (show Within _ _; exact Within.trans (by decide) hm)
    | intro _
    | with_reducible (first | assumption | apply modDir_frame)

theorem execDirRebuild_frame (h : Frame ps s t) (hm : Within [.dir, .free] ps) (a1) : OutFrame ps s (execDirRebuild a1 t) := by
  unfold execDirRebuild
  repeat'
    first
    | (show Within _ _; exact Within.trans (by decide) hm)
    | intro _
    | with_reducible (first | assumption | apply OutFrame.next | apply dirEvent_frame | apply modDir_frame | apply drawn_frame | apply ite_frame)
    | split

theorem modLane_frame (h : Frame ps s t) (hm : Within [.sec] ps) (a1) (a2) : Frame ps s (modLane a1 a2 t) := by
  unfold modLane
  repeat'
    first
    | (show Within _ _; exact Within.trans (by decide) hm)
    | intro _
    | with_reducible (first | assumption | apply modSec_frame)

theorem countCph_frame (h : Frame ps s t) (hm : Within [.sec] ps) : Frame ps s (countCph t) := by
  unfold countCph
  repeat'
    first
    | (show Within _ _; exact Within.trans (by decide) hm)
    | intro _
    | with_reducible (first | assumption | apply modSec_frame)

theorem cphOut_frame (h : Frame ps s t) (hm : Within [.flights, .run, .slc, .led, .sec, .outs] ps) (a1) (a2) (a3) (a4) : Frame ps s (cphOut a1 a2 a3 a4 t) := by
  unfold cphOut
  repeat'
    first
    | (show Within _ _; exact Within.trans (by decide) hm)
    | intro _
    | with_reducible (first | assumption | apply countCph_frame | apply settle_frame | apply culvertWrite_frame | apply ite_frame)
    | split

theorem tagFail_frame (h : Frame ps s t) (hm : Within [.flights, .run, .slc, .led, .sec] ps) (a1) : Frame ps s (tagFail a1 t) := by
  unfold tagFail
  repeat'
    first
    | (show Within _ _; exact Within.trans (by decide) hm)
    | intro _
    | with_reducible (first | assumption | apply modSec_frame | apply settle_frame)

theorem drawSeeds_frame (h : Frame ps s t) (hm : Within [.sec, .free] ps) (l n : Nat) : Frame ps s (drawSeeds l n t) := by
  induction n generalizing t with
  | zero => exact h
  | succ n ih =>
    unfold drawSeeds
    exact ih (modLane_frame (drew_frame h (hm.sub (by decide)) _ _) (hm.sub (by decide)) _ _)

theorem maskLane_frame (h : Frame ps s t) (hm : Within [.sec, .free] ps) (a1) (a2) : Frame ps s (maskLane a1 a2 t) := by
  unfold maskLane
  repeat'
    first
    | (show Within _ _; exact Within.trans (by decide) hm)
    | intro _
    | with_reducible (first | assumption | apply modLane_frame | apply drawSeeds_frame | apply ite_frame)
    | split
    | (extract_lets +onlyGivenNames x; first | (refine (fun hx : Frame ps s x => ?_) ?_ <;> [clear_value x; subst x]) | clear_value x)

theorem cphOp_frame (h : Frame ps s t) (hm : Within [.flights, .run, .slc, .led, .sec, .free] ps) (a1) (a2) (a3) (a4) (f1 : _ → _ → _ → State → State) (hf1 : ∀ a b c {t}, Frame ps s t → Frame ps s (f1 a b c t)) : Frame ps s (cphOp a1 a2 a3 a4 f1 t) := by
  unfold cphOp
  repeat'
    first
    | (show Within _ _; exact Within.trans (by decide) hm)
    | intro _
    | with_reducible (first | assumption | apply hf1 | apply joinQueue_frame | apply startOp_frame | apply withKey_frame | apply settle_frame | apply withRead_frame | apply maskLane_frame | apply modFlight_frame | apply leaveQueue_frame | apply ite_frame)
    | split

theorem drewIv_frame (h : Frame ps s t) (hm : Within [.sec, .free] ps) (a1) : Frame ps s (drewIv a1 t) := by
  unfold drewIv
  repeat'
    first
    | (show Within _ _; exact Within.trans (by decide) hm)
    | intro _
    | with_reducible (first | assumption | apply onlyIf_frame | apply drew_frame | apply ite_frame)
    | split

theorem execEncrypt_frame (h : Frame ps s t) (hm : Within [.flights, .run, .slc, .led, .sec, .outs, .free] ps) (a1) (a2) (a3) : OutFrame ps s (execEncrypt a1 a2 a3 t) := by
  unfold execEncrypt
  repeat'
    first
    | (show Within _ _; exact Within.trans (by decide) hm)
    | intro _
    | with_reducible (first | assumption | apply OutFrame.next | apply cphOp_frame | apply cphOut_frame | apply drewIv_frame)
    | split
    | (extract_lets +onlyGivenNames x; first | (refine (fun hx : Frame ps s x => ?_) ?_ <;> [clear_value x; subst x]) | clear_value x)

theorem execDecrypt_frame (h : Frame ps s t) (hm : Within [.flights, .run, .slc, .led, .sec, .outs, .free] ps) (a1) (a2) (a3) : OutFrame ps s (execDecrypt a1 a2 a3 t) := by
  unfold execDecrypt
  repeat'
    first
    | (show Within _ _; exact Within.trans (by decide) hm)
    | intro _
    | with_reducible (first | assumption | apply OutFrame.next | apply cphOp_frame | apply cphOut_frame)
    | split
    | (extract_lets +onlyGivenNames x; first | (refine (fun hx : Frame ps s x => ?_) ?_ <;> [clear_value x; subst x]) | clear_value x)

theorem execMac_frame (h : Frame ps s t) (hm : Within [.flights, .run, .slc, .led, .sec, .outs, .free] ps) (a1) (a2) (a3) : OutFrame ps s (execMac a1 a2 a3 t) := by
  unfold execMac
  repeat'
    first
    | (show Within _ _; exact Within.trans (by decide) hm)
    | intro _
    | with_reducible (first | assumption | apply OutFrame.next | apply cphOp_frame | apply cphOut_frame)

theorem execMacVerify_frame (h : Frame ps s t) (hm : Within [.flights, .run, .slc, .led, .sec, .free] ps) (a1) (a2) : OutFrame ps s (execMacVerify a1 a2 t) := by
  unfold execMacVerify
  repeat'
    first
    | (show Within _ _; exact Within.trans (by decide) hm)
    | intro _
    | with_reducible (first | assumption | apply OutFrame.next | apply cphOp_frame | apply countCph_frame | apply settle_frame | apply tagFail_frame | apply ite_frame)
    | split
    | (extract_lets +onlyGivenNames x; first | (refine (fun hx : Frame ps s x => ?_) ?_ <;> [clear_value x; subst x]) | clear_value x)

theorem execSealCcm_frame (h : Frame ps s t) (hm : Within [.flights, .run, .slc, .led, .sec, .outs, .free] ps) (a1) (a2) (a3) : OutFrame ps s (execSealCcm a1 a2 a3 t) := by
  unfold execSealCcm
  repeat'
    first
    | (show Within _ _; exact Within.trans (by decide) hm)
    | intro _
    | with_reducible (first | assumption | apply OutFrame.next | apply cphOp_frame | apply drewIv_frame | apply cphOut_frame | apply drawn_frame | apply ite_frame)
    | split
    | (extract_lets +onlyGivenNames x; first | (refine (fun hx : Frame ps s x => ?_) ?_ <;> [clear_value x; subst x]) | clear_value x)

theorem execOpenCcm_frame (h : Frame ps s t) (hm : Within [.flights, .run, .slc, .led, .sec, .outs, .free] ps) (a1) (a2) (a3) : OutFrame ps s (execOpenCcm a1 a2 a3 t) := by
  unfold execOpenCcm
  repeat'
    first
    | (show Within _ _; exact Within.trans (by decide) hm)
    | intro _
    | with_reducible (first | assumption | apply OutFrame.next | apply cphOp_frame | apply cphOut_frame | apply drawn_frame | apply atStage_frame | apply tagFail_frame | apply ite_frame)
    | split
    | (extract_lets +onlyGivenNames x; first | (refine (fun hx : Frame ps s x => ?_) ?_ <;> [clear_value x; subst x]) | clear_value x)

theorem sendSoundReq_frame (h : Frame ps s t) (hm : Within [.ifl, .outs] ps) (a1) (a2) : Frame ps s (sendSoundReq a1 a2 t) := by
  unfold sendSoundReq
  repeat'
    first
    | (show Within _ _; exact Within.trans (by decide) hm)
    | intro _
    | with_reducible (first | assumption | apply sendMgmt_frame | apply ite_frame)
    | split

theorem masterHeard_frame (h : Frame ps s t) (hm : Within [.ifl] ps) (a1) : Frame ps s (masterHeard a1 t) := by
  unfold masterHeard
  repeat'
    first
    | (show Within _ _; exact Within.trans (by decide) hm)
    | intro _
    | with_reducible (first | assumption | apply modIfl_frame | apply ite_frame)
    | split

theorem goodFrame_frame (h : Frame ps s t) (hm : Within [.pwr, .ifl, .outs] ps) (a1) (a2) (a3) : Frame ps s (goodFrame a1 a2 a3 t) := by
  unfold goodFrame
  repeat'
    first
    | (show Within _ _; exact Within.trans (by decide) hm)
    | intro _
    | with_reducible (first | assumption | apply modPort_frame | apply onlyIf_frame | apply sendSoundReq_frame | apply modPwr_frame | apply powerSlice_frame | apply ite_frame)
    | split
    | (extract_lets +onlyGivenNames x; first | (refine (fun hx : Frame ps s x => ?_) ?_ <;> [clear_value x; subst x]) | clear_value x)

theorem badPcrc_frame (h : Frame ps s t) (hm : Within [.ifl, .outs] ps) (a1) (a2) : Frame ps s (badPcrc a1 a2 t) := by
  unfold badPcrc
  repeat'
    first
    | (show Within _ _; exact Within.trans (by decide) hm)
    | intro _
    | with_reducible (first | assumption | apply modPort_frame | apply sendSoundReq_frame | apply ite_frame)
    | split
    | (extract_lets +onlyGivenNames x; first | (refine (fun hx : Frame ps s x => ?_) ?_ <;> [clear_value x; subst x]) | clear_value x)

theorem frameVerdict_frame (h : Frame ps s t) (hm : Within [.pwr, .ifl, .outs] ps) (a1) (a2) : Frame ps s (frameVerdict a1 a2 t) := by
  unfold frameVerdict
  repeat'
    first
    | (show Within _ _; exact Within.trans (by decide) hm)
    | intro _
    | with_reducible (first | assumption | apply modPort_frame | apply onlyIf_frame | apply iflEvent_frame | apply searchOn_frame | apply masterHeard_frame | apply sendSoundReq_frame | apply badPcrc_frame | apply goodFrame_frame | apply ite_frame)
    | split
    | (extract_lets +onlyGivenNames x; first | (refine (fun hx : Frame ps s x => ?_) ?_ <;> [clear_value x; subst x]) | clear_value x)

theorem execIflFrameReceived_frame (h : Frame ps s t) (hm : Within [.pwr, .vecs, .time, .counters, .ifl, .outs] ps) (a1) (a2) : OutFrame ps s (execIflFrameReceived a1 a2 t) := by
  unfold execIflFrameReceived
  repeat'
    first
    | (show Within _ _; exact Within.trans (by decide) hm)
    | intro _
    | with_reducible (first | assumption | apply OutFrame.next | apply elapseToNs_frame | apply frameVerdict_frame | apply ite_frame)
    | split
    | (extract_lets +onlyGivenNames x; first | (refine (fun hx : Frame ps s x => ?_) ?_ <;> [clear_value x; subst x]) | clear_value x)

theorem execSoundReq_frame (h : Frame ps s t) (hm : Within [.ifl] ps) (a1) (a2) : OutFrame ps s (execSoundReq a1 a2 t) := by
  unfold execSoundReq
  repeat'
    first
    | (show Within _ _; exact Within.trans (by decide) hm)
    | intro _
    | with_reducible (first | assumption | apply OutFrame.next | apply modPort_frame | apply ite_frame)
    | split

theorem execSoundFrame_frame (h : Frame ps s t) (hm : Within [.ifl, .outs] ps) (a1) : OutFrame ps s (execSoundFrame a1 t) := by
  unfold execSoundFrame
  repeat'
    first
    | (show Within _ _; exact Within.trans (by decide) hm)
    | intro _
    | with_reducible (first | assumption | apply OutFrame.next | apply modPort_frame | apply sendFrame_frame | apply ite_frame)
    | split

theorem execSoundFrameReceived_frame (h : Frame ps s t) (hm : Within [.ifl, .outs] ps) (a1) (a2) : OutFrame ps s (execSoundFrameReceived a1 a2 t) := by
  unfold execSoundFrameReceived
  repeat'
    first
    | (show Within _ _; exact Within.trans (by decide) hm)
    | intro _
    | with_reducible (first | assumption | apply OutFrame.next | apply sendMgmt_frame | apply modPort_frame | apply foldl_frame | refine foldl_frame ?_ ?_ (by with_reducible assumption) | apply ite_frame)
    | split
    | (extract_lets +onlyGivenNames x; first | (refine (fun hx : Frame ps s x => ?_) ?_ <;> [clear_value x; subst x]) | clear_value x)

theorem execIflLoad_frame (h : Frame ps s t) (hm : Within [.ifl] ps) (a1) (a2) : OutFrame ps s (execIflLoad a1 a2 t) := by
  unfold execIflLoad
  repeat'
    first
    | (show Within _ _; exact Within.trans (by decide) hm)
    | intro _
    | with_reducible (first | assumption | apply OutFrame.next | apply modPort_frame | apply ite_frame)
    | split
    | (extract_lets +onlyGivenNames x; first | (refine (fun hx : Frame ps s x => ?_) ?_ <;> [clear_value x; subst x]) | clear_value x)

theorem execLoadResend_frame (h : Frame ps s t) (hm : Within [.vecs, .time, .counters, .ifl, .outs] ps) (a1) : OutFrame ps s (execLoadResend a1 t) := by
  unfold execLoadResend
  repeat'
    first
    | (show Within _ _; exact Within.trans (by decide) hm)
    | intro _
    | with_reducible (first | assumption | apply OutFrame.next | apply elapseTo_frame | apply sendMgmt_frame | apply modPort_frame | apply sendSoundReq_frame | apply ite_frame)
    | split
    | (extract_lets +onlyGivenNames x; first | (refine (fun hx : Frame ps s x => ?_) ?_ <;> [clear_value x; subst x]) | clear_value x)

theorem execOldTableHoldEnd_frame (h : Frame ps s t) (hm : Within [.vecs, .time, .counters, .ifl, .outs] ps) (a1) : OutFrame ps s (execOldTableHoldEnd a1 t) := by
  unfold execOldTableHoldEnd
  repeat'
    first
    | (show Within _ _; exact Within.trans (by decide) hm)
    | intro _
    | with_reducible (first | assumption | apply OutFrame.next | apply modPort_frame | apply elapseTo_frame | apply ite_frame)
    | split
    | (extract_lets +onlyGivenNames x; first | (refine (fun hx : Frame ps s x => ?_) ?_ <;> [clear_value x; subst x]) | clear_value x)

theorem execSoundingPeriod_frame (h : Frame ps s t) (hm : Within [.vecs, .time, .counters, .ifl, .outs] ps) (a1) : OutFrame ps s (execSoundingPeriod a1 t) := by
  unfold execSoundingPeriod
  repeat'
    first
    | (show Within _ _; exact Within.trans (by decide) hm)
    | intro _
    | with_reducible (first | assumption | apply OutFrame.next | apply elapseTo_frame | apply sendSoundReq_frame | apply modPort_frame | apply ite_frame)
    | split
    | (extract_lets +onlyGivenNames x; first | (refine (fun hx : Frame ps s x => ?_) ?_ <;> [clear_value x; subst x]) | clear_value x)

theorem execListenWindow_frame (h : Frame ps s t) (hm : Within [.vecs, .time, .counters, .ifl, .outs] ps) (a1) : OutFrame ps s (execListenWindow a1 t) := by
  unfold execListenWindow
  repeat'
    first
    | (show Within _ _; exact Within.trans (by decide) hm)
    | intro _
    | with_reducible (first | assumption | apply OutFrame.next | apply elapseTo_frame | apply modPort_frame | apply sendFrame_frame | apply pump_frame | apply ite_frame)
    | split
    | (extract_lets +onlyGivenNames x; first | (refine (fun hx : Frame ps s x => ?_) ?_ <;> [clear_value x; subst x]) | clear_value x)

theorem execWindowExtensionEnd_frame (h : Frame ps s t) (hm : Within [.vecs, .time, .counters, .ifl, .outs] ps) (a1) : OutFrame ps s (execWindowExtensionEnd a1 t) := by
  unfold execWindowExtensionEnd
  repeat'
    first
    | (show Within _ _; exact Within.trans (by decide) hm)
    | intro _
    | with_reducible (first | assumption | apply OutFrame.next | apply elapseTo_frame | apply modPort_frame | apply ite_frame)
    | split
    | (extract_lets +onlyGivenNames x; first | (refine (fun hx : Frame ps s x => ?_) ?_ <;> [clear_value x; subst x]) | clear_value x)

theorem execTick_frame (h : Frame ps s t) (hm : Within [.ifl] ps) (a1) (a2) : OutFrame ps s (execTick a1 a2 t) := by
  unfold execTick
  repeat'
    first
    | (show Within _ _; exact Within.trans (by decide) hm)
    | intro _
    | with_reducible (first | assumption | apply OutFrame.next | apply modPort_frame | apply masterHeard_frame | apply ite_frame)
    | split

theorem execResyncListen_frame (h : Frame ps s t) (hm : Within [.vecs, .time, .counters, .ifl, .outs] ps) (a1) : OutFrame ps s (execResyncListen a1 t) := by
  unfold execResyncListen
  repeat'
    first
    | (show Within _ _; exact Within.trans (by decide) hm)
    | intro _
    | with_reducible (first | assumption | apply OutFrame.next | apply elapseTo_frame | apply modPort_frame | apply modIfl_frame | apply ite_frame)
    | split
    | (extract_lets +onlyGivenNames x; first | (refine (fun hx : Frame ps s x => ?_) ?_ <;> [clear_value x; subst x]) | clear_value x)

end Sys2Proof.Machine
end

