-- ==== Sys2Proof/Laws/FrameProx.lean ====
section
/-! SUPPORT. Which parts of the state the operations of Prox, Polls, Lf, Uhf, Nfc can change (Safety.Frame), one lemma each, in the order of their definitions. -/

set_option linter.unusedTactic false
set_option linter.unreachableTactic false
set_option linter.unusedSimpArgs false
set_option linter.unusedVariables false

namespace Sys2Proof.Machine

variable {ps : List Part} {s t : State}

theorem setTcnt_frame (h : Frame ps s t) (hm : Within [.radio] ps) (a1) (a2) : Frame ps s (setTcnt a1 a2 t) := by
  unfold setTcnt
  repeat'
    first
    | (show Within _ _; exact Within.trans (by decide) hm)
    | intro _
    | with_reducible (first | assumption | apply modRadio_frame | apply ite_frame)
    | split

theorem recordTcnt_frame (h : Frame ps s t) (hm : Within [.led, .radio] ps) (a1) (a2) : Frame ps s (recordTcnt a1 a2 t) := by
  unfold recordTcnt
  repeat'
    first
    | (show Within _ _; exact Within.trans (by decide) hm)
    | intro _
    | with_reducible (first | assumption | apply tryLog_frame | apply setTcnt_frame)

theorem lfEvent_frame (h : Frame ps s t) (hm : Within [.radio] ps) (a1) : Frame ps s (lfEvent a1 t) := by
  unfold lfEvent
  repeat'
    first
    | (show Within _ _; exact Within.trans (by decide) hm)
    | intro _
    | with_reducible (first | assumption | apply modRadio_frame)

theorem uhfEvent_frame (h : Frame ps s t) (hm : Within [.radio] ps) (a1) : Frame ps s (uhfEvent a1 t) := by
  unfold uhfEvent
  repeat'
    first
    | (show Within _ _; exact Within.trans (by decide) hm)
    | intro _
    | with_reducible (first | assumption | apply modRadio_frame)

theorem authFail_frame (h : Frame ps s t) (hm : Within [.led, .radio] ps) (a1) (a2) : Frame ps s (authFail a1 a2 t) := by
  unfold authFail
  repeat'
    first
    | (show Within _ _; exact Within.trans (by decide) hm)
    | intro _
    | with_reducible (first | assumption | apply lfEvent_frame | apply modRadio_frame | apply logPart_frame | apply ite_frame)
    | split
    | (extract_lets +onlyGivenNames x; first | (refine (fun hx : Frame ps s x => ?_) ?_ <;> [clear_value x; subst x]) | clear_value x)

theorem relaySuspect_frame (h : Frame ps s t) (hm : Within [.led, .radio] ps) (a1) : Frame ps s (relaySuspect a1 t) := by
  unfold relaySuspect
  repeat'
    first
    | (show Within _ _; exact Within.trans (by decide) hm)
    | intro _
    | with_reducible (first | assumption | apply lfEvent_frame | apply logPart_frame)

theorem inconsistent_frame (h : Frame ps s t) (hm : Within [.led, .radio] ps) (a1) : Frame ps s (inconsistent a1 t) := by
  unfold inconsistent
  repeat'
    first
    | (show Within _ _; exact Within.trans (by decide) hm)
    | intro _
    | with_reducible (first | assumption | apply uhfEvent_frame | apply modRadio_frame | apply relaySuspect_frame)

theorem tokenSeen_frame (h : Frame ps s t) (hm : Within [.pwr] ps) : Frame ps s (tokenSeen t) := by
  unfold tokenSeen
  repeat'
    first
    | (show Within _ _; exact Within.trans (by decide) hm)
    | intro _
    | with_reducible (first | assumption | apply modPwr_frame)

theorem putTrack_frame (h : Frame ps s t) (hm : Within [.radio] ps) (a1) : Frame ps s (putTrack a1 t).2 := by
  unfold putTrack
  repeat'
    first
    | (show Within _ _; exact Within.trans (by decide) hm)
    | intro _
    | with_reducible (first | assumption | apply modRadio_frame | apply uhfEvent_frame | apply ite_frame)
    | split
    | (extract_lets +onlyGivenNames x; first | (refine (fun hx : Frame ps s x => ?_) ?_ <;> [clear_value x; subst x]) | clear_value x)
    | dsimp only

theorem modPres_frame (h : Frame ps s t) (hm : Within [.radio] ps) (a1) (a2) : Frame ps s (modPres a1 a2 t) := by
  unfold modPres
  repeat'
    first
    | (show Within _ _; exact Within.trans (by decide) hm)
    | intro _
    | with_reducible (first | assumption | apply modRadio_frame)

theorem tokenPassed_frame (h : Frame ps s t) (hm : Within [.pwr, .led, .slk, .radio, .outs] ps) (a1) (a2) : Frame ps s (tokenPassed a1 a2 t) := by
  unfold tokenPassed
  repeat'
    first
    | (show Within _ _; exact Within.trans (by decide) hm)
    | intro _
    | with_reducible (first | assumption | apply modRadio_frame | apply tokenSeen_frame | apply tokenBack_frame | apply modPres_frame | apply onlyIf_frame | apply tokenInCab_frame)
    | split
    | (extract_lets +onlyGivenNames x; first | (refine (fun hx : Frame ps s x => ?_) ?_ <;> [clear_value x; subst x]) | clear_value x)

theorem stopCarrier_frame (h : Frame ps s t) (hm : Within [.outs] ps) (a1) : Frame ps s (stopCarrier a1 t) := by
  unfold stopCarrier
  repeat'
    first
    | (show Within _ _; exact Within.trans (by decide) hm)
    | intro _
    | with_reducible (first | assumption | apply onlyIf_frame | apply emit_frame)

theorem driveReq_frame (h : Frame ps s t) (hm : Within [.radio, .outs] ps) (a1) : Frame ps s (driveReq a1 t) := by
  unfold driveReq
  repeat'
    first
    | (show Within _ _; exact Within.trans (by decide) hm)
    | intro _
    | with_reducible (first | assumption | apply each_frame | apply emit_frame | apply modRadio_frame | apply ite_frame)
    | split

theorem drivePri_frame (h : Frame ps s t) (hm : Within [.radio, .outs] ps) (a1) : Frame ps s (drivePri a1 t) := by
  unfold drivePri
  repeat'
    first
    | (show Within _ _; exact Within.trans (by decide) hm)
    | intro _
    | with_reducible (first | assumption | apply onlyIf_frame | apply emit_frame | apply modRadio_frame | apply ite_frame)
    | split

theorem coexRaise_frame (h : Frame ps s t) (hm : Within [.radio, .outs] ps) (a1) (a2) : Frame ps s (coexRaise a1 a2 t) := by
  unfold coexRaise
  repeat'
    first
    | (show Within _ _; exact Within.trans (by decide) hm)
    | intro _
    | with_reducible (first | assumption | apply driveReq_frame | apply modRadio_frame | apply ite_frame)
    | split
    | (extract_lets +onlyGivenNames x; first | (refine (fun hx : Frame ps s x => ?_) ?_ <;> [clear_value x; subst x]) | clear_value x)

theorem coexDrop_frame (h : Frame ps s t) (hm : Within [.radio, .outs] ps) : Frame ps s (coexDrop t) := by
  unfold coexDrop
  repeat'
    first
    | (show Within _ _; exact Within.trans (by decide) hm)
    | intro _
    | with_reducible (first | assumption | apply driveReq_frame)

theorem coexAnew_frame (h : Frame ps s t) (hm : Within [.radio, .outs] ps) (a1) (a2) : Frame ps s (coexAnew a1 a2 t) := by
  unfold coexAnew
  repeat'
    first
    | (show Within _ _; exact Within.trans (by decide) hm)
    | intro _
    | with_reducible (first | assumption | apply coexRaise_frame | apply coexDrop_frame)

theorem countEmission_frame (h : Frame ps s t) (hm : Within [.radio] ps) (a1) : Frame ps s (countEmission a1 t) := by
  unfold countEmission
  repeat'
    first
    | (show Within _ _; exact Within.trans (by decide) hm)
    | intro _
    | with_reducible (first | assumption | apply modRadio_frame)

theorem onChain_frame (h : Frame ps s t) (hm : Within [.outs] ps) (a1) (a2) : Frame ps s (onChain a1 a2 t) := by
  unfold onChain
  repeat'
    first
    | (show Within _ _; exact Within.trans (by decide) hm)
    | intro _
    | with_reducible (first | assumption | apply emit_frame)

theorem sendTrigger_frame (h : Frame ps s t) (hm : Within [.radio, .outs] ps) (a1) : Frame ps s (sendTrigger a1 t) := by
  unfold sendTrigger
  repeat'
    first
    | (show Within _ _; exact Within.trans (by decide) hm)
    | intro _
    | with_reducible (first | assumption | apply onChain_frame | apply countEmission_frame)
    | split

theorem takeSpare_frame (h : Frame ps s t) (hm : Within [.radio] ps) (a1) : Frame ps s (takeSpare a1 t) := by
  unfold takeSpare
  repeat'
    first
    | (show Within _ _; exact Within.trans (by decide) hm)
    | intro _
    | with_reducible (first | assumption | apply modRadio_frame)

theorem keyTelegram_frame (h : Frame ps s t) (hm : Within [.radio, .free] ps) (a1) : Frame ps s (keyTelegram a1 t) := by
  unfold keyTelegram
  repeat'
    first
    | (show Within _ _; exact Within.trans (by decide) hm)
    | intro _
    | with_reducible (first | assumption | apply each_frame | apply takeSpare_frame | apply modRadio_frame | apply drawn_frame)
    | split
    | (extract_lets +onlyGivenNames x; first | (refine (fun hx : Frame ps s x => ?_) ?_ <;> [clear_value x; subst x]) | clear_value x)

theorem beginTelegram_frame (h : Frame ps s t) (hm : Within [.sec, .radio, .free] ps) (a1) : Frame ps s (beginTelegram a1 t) := by
  unfold beginTelegram
  repeat'
    first
    | (show Within _ _; exact Within.trans (by decide) hm)
    | intro _
    | with_reducible (first | assumption | apply keyTelegram_frame | apply drawn_frame | apply drew_frame | apply ite_frame)
    | split
    | (extract_lets +onlyGivenNames x; first | (refine (fun hx : Frame ps s x => ?_) ?_ <;> [clear_value x; subst x]) | clear_value x)

theorem startPoll_frame (h : Frame ps s t) (hm : Within [.sec, .radio, .free] ps) (a1) (a2) (a3) : Frame ps s (startPoll a1 a2 a3 t) := by
  unfold startPoll
  repeat'
    first
    | (show Within _ _; exact Within.trans (by decide) hm)
    | intro _
    | with_reducible (first | assumption | apply beginTelegram_frame | apply ite_frame)
    | split

theorem useSlice_frame (h : Frame ps s t) (hm : Within [.pwr, .outs] ps) : Frame ps s (useSlice t) := by
  unfold useSlice
  repeat'
    first
    | (show Within _ _; exact Within.trans (by decide) hm)
    | intro _
    | with_reducible (first | assumption | apply modPwr_frame | apply onlyIf_frame | apply powerSlice_frame | apply ite_frame)
    | split

theorem noteSlice_frame (h : Frame ps s t) (hm : Within [.pwr, .outs] ps) (a1) : Frame ps s (noteSlice a1 t) := by
  unfold noteSlice
  repeat'
    first
    | (show Within _ _; exact Within.trans (by decide) hm)
    | intro _
    | with_reducible (first | assumption | apply modPwr_frame | apply useSlice_frame | apply ite_frame)
    | split

theorem startHandle_frame (h : Frame ps s t) (hm : Within [.pwr, .sec, .radio, .outs, .free] ps) (a1) : Frame ps s (startHandle a1 t) := by
  unfold startHandle
  repeat'
    first
    | (show Within _ _; exact Within.trans (by decide) hm)
    | intro _
    | with_reducible (first | assumption | apply noteSlice_frame | apply startPoll_frame | apply modRadio_frame | apply ite_frame)
    | split
    | (extract_lets +onlyGivenNames x; first | (refine (fun hx : Frame ps s x => ?_) ?_ <;> [clear_value x; subst x]) | clear_value x)

theorem startPresence_frame (h : Frame ps s t) (hm : Within [.sec, .radio, .free] ps) : Frame ps s (startPresence t) := by
  unfold startPresence
  repeat'
    first
    | (show Within _ _; exact Within.trans (by decide) hm)
    | intro _
    | with_reducible (first | assumption | apply startPoll_frame | apply modRadio_frame)

theorem startApproach_frame (h : Frame ps s t) (hm : Within [.pwr, .sec, .radio, .outs, .free] ps) : Frame ps s (startApproach t) := by
  unfold startApproach
  repeat'
    first
    | (show Within _ _; exact Within.trans (by decide) hm)
    | intro _
    | with_reducible (first | assumption | apply useSlice_frame | apply modRadio_frame | apply onlyIf_frame | apply startPoll_frame)
    | split
    | (extract_lets +onlyGivenNames x; first | (refine (fun hx : Frame ps s x => ?_) ?_ <;> [clear_value x; subst x]) | clear_value x)

theorem endLocate_frame (h : Frame ps s t) (hm : Within [.flights, .run, .slc, .led, .radio, .outs] ps) (a1) (a2) : Frame ps s (endLocate a1 a2 t) := by
  unfold endLocate
  repeat'
    first
    | (show Within _ _; exact Within.trans (by decide) hm)
    | intro _
    | with_reducible (first | assumption | apply onlyIf_frame | apply coexDrop_frame | apply settle_frame | apply modRadio_frame | apply ite_frame)
    | split
    | (extract_lets +onlyGivenNames x; first | (refine (fun hx : Frame ps s x => ?_) ?_ <;> [clear_value x; subst x]) | (refine (fun hx : Frame ps s x.2 => ?_) ?_ <;> [clear_value x; subst x]) | (refine (fun hx : Frame ps s x.1 => ?_) ?_ <;> [clear_value x; subst x]) | clear_value x)

theorem startLocate_frame (h : Frame ps s t) (hm : Within [.flights, .run, .slc, .led, .sec, .radio, .outs, .free] ps) (a1) (a2) (a3) (a4) : Frame ps s (startLocate a1 a2 a3 a4 t) := by
  unfold startLocate
  repeat'
    first
    | (show Within _ _; exact Within.trans (by decide) hm)
    | intro _
    | with_reducible (first | assumption | apply modRadio_frame | apply endLocate_frame | apply beginTelegram_frame | apply ite_frame)
    | split

theorem nextPoll_frame (h : Frame ps s t) (hm : Within [.pwr, .flights, .run, .slc, .led, .sec, .radio, .outs, .free] ps) : Frame ps s (nextPoll t) := by
  unfold nextPoll
  repeat'
    first
    | (show Within _ _; exact Within.trans (by decide) hm)
    | intro _
    | with_reducible (first | assumption | apply startHandle_frame | apply modRadio_frame | apply startPresence_frame | apply startApproach_frame | apply startLocate_frame | apply foldl_frame | refine foldl_frame ?_ ?_ (by with_reducible assumption) | apply ite_frame)
    | split
    | (extract_lets +onlyGivenNames x; first | (refine (fun hx : Frame ps s x => ?_) ?_ <;> [clear_value x; subst x]) | (refine (fun hx : Frame ps s x.2 => ?_) ?_ <;> [clear_value x; subst x]) | (refine (fun hx : Frame ps s x.1 => ?_) ?_ <;> [clear_value x; subst x]) | clear_value x)

theorem pollEnds_frame (h : Frame ps s t) (hm : Within [.pwr, .flights, .run, .slc, .led, .sec, .radio, .outs, .free] ps) : Frame ps s (pollEnds t) := by
  unfold pollEnds
  repeat'
    first
    | (show Within _ _; exact Within.trans (by decide) hm)
    | intro _
    | with_reducible (first | assumption | apply nextPoll_frame | apply coexDrop_frame | apply modRadio_frame)

theorem retryLocate_frame (h : Frame ps s t) (hm : Within [.pwr, .flights, .run, .slc, .led, .sec, .radio, .outs, .free] ps) (a1) (a2) : Frame ps s (retryLocate a1 a2 t) := by
  unfold retryLocate
  repeat'
    first
    | (show Within _ _; exact Within.trans (by decide) hm)
    | intro _
    | with_reducible (first | assumption | apply pollEnds_frame | apply startLocate_frame | apply coexDrop_frame | apply endLocate_frame | apply ite_frame)
    | split
    | (extract_lets +onlyGivenNames x; first | (refine (fun hx : Frame ps s x => ?_) ?_ <;> [clear_value x; subst x]) | clear_value x)

theorem restartPoll_frame (h : Frame ps s t) (hm : Within [.pwr, .flights, .run, .slc, .led, .sec, .radio, .outs, .free] ps) : Frame ps s (restartPoll t) := by
  unfold restartPoll
  repeat'
    first
    | (show Within _ _; exact Within.trans (by decide) hm)
    | intro _
    | with_reducible (first | assumption | apply stopCarrier_frame | apply retryLocate_frame | apply pollEnds_frame)
    | split
    | (extract_lets +onlyGivenNames x; first | (refine (fun hx : Frame ps s x => ?_) ?_ <;> [clear_value x; subst x]) | clear_value x)

theorem passiveEnds_frame (h : Frame ps s t) (hm : Within [.pwr, .flights, .run, .slc, .led, .sec, .radio, .outs, .free] ps) : Frame ps s (passiveEnds t) := by
  unfold passiveEnds
  repeat'
    first
    | (show Within _ _; exact Within.trans (by decide) hm)
    | intro _
    | with_reducible (first | assumption | apply pollEnds_frame | apply stopCarrier_frame)
    | split

theorem presenceDeferred_frame (h : Frame ps s t) (hm : Within [.led, .slk, .radio, .outs] ps) : Frame ps s (presenceDeferred t) := by
  unfold presenceDeferred
  repeat'
    first
    | (show Within _ _; exact Within.trans (by decide) hm)
    | intro _
    | with_reducible (first | assumption | apply each_frame | apply modPres_frame | apply onlyIf_frame | apply tokenUnknown_frame | apply ite_frame)
    | split
    | (extract_lets +onlyGivenNames x; first | (refine (fun hx : Frame ps s x => ?_) ?_ <;> [clear_value x; subst x]) | clear_value x)

theorem presenceDone_frame (h : Frame ps s t) (hm : Within [.led, .slk, .radio, .outs] ps) (a1) : Frame ps s (presenceDone a1 t) := by
  unfold presenceDone
  repeat'
    first
    | (show Within _ _; exact Within.trans (by decide) hm)
    | intro _
    | with_reducible (first | assumption | apply each_frame | apply modPres_frame | apply onlyIf_frame | apply tokenAbsent_frame | apply ite_frame)
    | split
    | (extract_lets +onlyGivenNames x; first | (refine (fun hx : Frame ps s x => ?_) ?_ <;> [clear_value x; subst x]) | clear_value x)

theorem uncount_frame (h : Frame ps s t) (hm : Within [.radio] ps) (a1) : Frame ps s (uncount a1 t) := by
  unfold uncount
  repeat'
    first
    | (show Within _ _; exact Within.trans (by decide) hm)
    | intro _
    | with_reducible (first | assumption | apply onlyIf_frame | apply modRadio_frame)

theorem heldReply_frame (h : Frame ps s t) (hm : Within [.pwr, .flights, .run, .slc, .led, .sec, .radio, .outs, .free] ps) (a1) : Frame ps s (heldReply a1 t) := by
  unfold heldReply
  repeat'
    first
    | (show Within _ _; exact Within.trans (by decide) hm)
    | intro _
    | with_reducible (first | assumption | apply pollEnds_frame | apply modRadio_frame)
    | split

theorem abandonTelegram_frame (h : Frame ps s t) (hm : Within [.pwr, .flights, .run, .slc, .led, .sec, .slk, .radio, .outs, .free] ps) (a1) (a2) : Frame ps s (abandonTelegram a1 a2 t) := by
  unfold abandonTelegram
  repeat'
    first
    | (show Within _ _; exact Within.trans (by decide) hm)
    | intro _
    | with_reducible (first | assumption | apply coexDrop_frame | apply lfEvent_frame | apply uncount_frame | apply stopCarrier_frame | apply heldReply_frame | apply onlyIf_frame | apply startLocate_frame | apply pollEnds_frame | apply presenceDeferred_frame | apply modRadio_frame | apply beginTelegram_frame | apply ite_frame)
    | split
    | (extract_lets +onlyGivenNames x; first | (refine (fun hx : Frame ps s x => ?_) ?_ <;> [clear_value x; subst x]) | clear_value x)

theorem lfCut_frame (h : Frame ps s t) (hm : Within [.pwr, .flights, .run, .slc, .led, .sec, .slk, .radio, .outs, .free] ps) : Frame ps s (lfCut t) := by
  unfold lfCut
  repeat'
    first
    | (show Within _ _; exact Within.trans (by decide) hm)
    | intro _
    | with_reducible (first | assumption | apply abandonTelegram_frame | apply ite_frame)
    | split

theorem burstOut_frame (h : Frame ps s t) (hm : Within [.outs] ps) (a1) (a2) (a3) (a4) : Frame ps s (burstOut a1 a2 a3 a4 t) := by
  unfold burstOut
  repeat'
    first
    | (show Within _ _; exact Within.trans (by decide) hm)
    | intro _
    | with_reducible (first | assumption | apply each_frame | apply onChain_frame)

theorem stopBurst_frame (h : Frame ps s t) (hm : Within [.radio, .outs] ps) (a1) (a2) : Frame ps s (stopBurst a1 a2 t) := by
  unfold stopBurst
  repeat'
    first
    | (show Within _ _; exact Within.trans (by decide) hm)
    | intro _
    | with_reducible (first | assumption | apply emit_frame | apply modRadio_frame | apply ite_frame)
    | split
    | (extract_lets +onlyGivenNames x; first | (refine (fun hx : Frame ps s x => ?_) ?_ <;> [clear_value x; subst x]) | (refine (fun hx : Frame ps s x.2 => ?_) ?_ <;> [clear_value x; subst x]) | (refine (fun hx : Frame ps s x.1 => ?_) ?_ <;> [clear_value x; subst x]) | clear_value x)

theorem uhfCut_frame (h : Frame ps s t) (hm : Within [.radio, .outs] ps) : Frame ps s (uhfCut t) := by
  unfold uhfCut
  repeat'
    first
    | (show Within _ _; exact Within.trans (by decide) hm)
    | intro _
    | with_reducible (first | assumption | apply modRadio_frame | apply stopBurst_frame | apply ite_frame)
    | split

theorem restartSound_frame (h : Frame ps s t) (hm : Within [.pwr, .flights, .run, .slc, .led, .sec, .radio, .outs, .free] ps) (a1) : Frame ps s (restartSound a1 t) := by
  unfold restartSound
  repeat'
    first
    | (show Within _ _; exact Within.trans (by decide) hm)
    | intro _
    | with_reducible (first | assumption | apply stopBurst_frame | apply retryLocate_frame | apply pollEnds_frame | apply endLocate_frame | apply ite_frame)
    | split
    | (extract_lets +onlyGivenNames x; first | (refine (fun hx : Frame ps s x => ?_) ?_ <;> [clear_value x; subst x]) | clear_value x)

theorem chainsGone_frame (h : Frame ps s t) (hm : Within [.pwr, .flights, .run, .slc, .led, .sec, .radio, .outs, .free] ps) : Frame ps s (chainsGone t) := by
  unfold chainsGone
  repeat'
    first
    | (show Within _ _; exact Within.trans (by decide) hm)
    | intro _
    | with_reducible (first | assumption | apply restartSound_frame | apply passiveEnds_frame)

theorem lfReadings_frame (h : Frame ps s t) (hm : Within [.radio, .free] ps) (a1) : Frame ps s (lfReadings a1 t) := by
  unfold lfReadings
  repeat'
    first
    | (show Within _ _; exact Within.trans (by decide) hm)
    | intro _
    | with_reducible (first | assumption | apply drawn_frame | apply modRadio_frame | apply ite_frame)
    | split
    | (extract_lets +onlyGivenNames x; first | (refine (fun hx : Frame ps s x => ?_) ?_ <;> [clear_value x; subst x]) | (refine (fun hx : Frame ps s x.2 => ?_) ?_ <;> [clear_value x; subst x]) | (refine (fun hx : Frame ps s x.1 => ?_) ?_ <;> [clear_value x; subst x]) | clear_value x)

theorem emitSegment_frame (h : Frame ps s t) (hm : Within [.vecs, .time, .counters, .clk, .led, .radio, .outs, .free] ps) (a1) (a2) (a3) : Frame ps s (emitSegment a1 a2 a3 t) := by
  unfold emitSegment
  repeat'
    first
    | (show Within _ _; exact Within.trans (by decide) hm)
    | intro _
    | with_reducible (first | assumption | apply each_frame | apply lfReadings_frame | apply emit_frame | apply elapseToNs_frame | apply grantWindow_frame)

theorem putPoll_frame (h : Frame ps s t) (hm : Within [.radio] ps) (a1) : Frame ps s (putPoll a1 t) := by
  unfold putPoll
  repeat'
    first
    | (show Within _ _; exact Within.trans (by decide) hm)
    | intro _
    | with_reducible (first | assumption | apply modRadio_frame)

theorem execPresencePoll_frame (h : Frame ps s t) (hm : Within [.vecs, .time, .counters, .sec, .radio, .outs, .free] ps) : OutFrame ps s (execPresencePoll t) := by
  unfold execPresencePoll
  repeat'
    first
    | (show Within _ _; exact Within.trans (by decide) hm)
    | intro _
    | with_reducible (first | assumption | apply OutFrame.next | apply elapseTo_frame | apply modRadio_frame | apply startPresence_frame | apply ite_frame)
    | split
    | (extract_lets +onlyGivenNames x; first | (refine (fun hx : Frame ps s x => ?_) ?_ <;> [clear_value x; subst x]) | clear_value x)

theorem execApproachPoll_frame (h : Frame ps s t) (hm : Within [.pwr, .vecs, .time, .counters, .sec, .radio, .outs, .free] ps) : OutFrame ps s (execApproachPoll t) := by
  unfold execApproachPoll
  repeat'
    first
    | (show Within _ _; exact Within.trans (by decide) hm)
    | intro _
    | with_reducible (first | assumption | apply OutFrame.next | apply elapseTo_frame | apply modRadio_frame | apply startApproach_frame | apply ite_frame)
    | split
    | (extract_lets +onlyGivenNames x; first | (refine (fun hx : Frame ps s x => ?_) ?_ <;> [clear_value x; subst x]) | clear_value x)

theorem telegramSent_frame (h : Frame ps s t) (hm : Within [.flights, .radio, .outs] ps) (a1) : Frame ps s (telegramSent a1 t) := by
  unfold telegramSent
  repeat'
    first
    | (show Within _ _; exact Within.trans (by decide) hm)
    | intro _
    | with_reducible (first | assumption | apply modRadio_frame | apply modFlight_frame | apply onlyIf_frame | apply atStage_frame | apply coexRaise_frame | apply ite_frame)
    | split
    | (extract_lets +onlyGivenNames x; first | (refine (fun hx : Frame ps s x => ?_) ?_ <;> [clear_value x; subst x]) | clear_value x)

theorem sendSegment_frame (h : Frame ps s t) (hm : Within [.flights, .vecs, .time, .counters, .clk, .led, .radio, .outs, .free] ps) (a1) (a2) (a3) : Frame ps s (sendSegment a1 a2 a3 t) := by
  unfold sendSegment
  repeat'
    first
    | (show Within _ _; exact Within.trans (by decide) hm)
    | intro _
    | with_reducible (first | assumption | apply telegramSent_frame | apply emitSegment_frame | apply putPoll_frame | apply ite_frame)
    | split
    | (extract_lets +onlyGivenNames x; first | (refine (fun hx : Frame ps s x => ?_) ?_ <;> [clear_value x; subst x]) | clear_value x)

theorem execLfSegment_frame (h : Frame ps s t) (hm : Within [.pwr, .flights, .vecs, .run, .slc, .time, .counters, .clk, .led, .sec, .slk, .radio, .outs, .free] ps) : OutFrame ps s (execLfSegment t) := by
  unfold execLfSegment
  repeat'
    first
    | (show Within _ _; exact Within.trans (by decide) hm)
    | intro _
    | with_reducible (first | assumption | apply OutFrame.next | apply nextPoll_frame | apply sendSegment_frame | apply abandonTelegram_frame | apply ite_frame)
    | split

theorem modLfCh_frame (h : Frame ps s t) (hm : Within [.radio] ps) (a1) (a2) : Frame ps s (modLfCh a1 a2 t) := by
  unfold modLfCh
  repeat'
    first
    | (show Within _ _; exact Within.trans (by decide) hm)
    | intro _
    | with_reducible (first | assumption | apply modRadio_frame)

theorem telegramLost_frame (h : Frame ps s t) (hm : Within [.pwr, .flights, .run, .slc, .led, .sec, .slk, .radio, .outs, .free] ps) (a1) (a2) : Frame ps s (telegramLost a1 a2 t) := by
  unfold telegramLost
  repeat'
    first
    | (show Within _ _; exact Within.trans (by decide) hm)
    | intro _
    | with_reducible (first | assumption | apply abandonTelegram_frame | apply lfEvent_frame | apply beginTelegram_frame | apply coexDrop_frame | apply uncount_frame | apply stopCarrier_frame | apply ite_frame)
    | split
    | (extract_lets +onlyGivenNames x; first | (refine (fun hx : Frame ps s x => ?_) ?_ <;> [clear_value x; subst x]) | clear_value x)

theorem lfChannelOut_frame (h : Frame ps s t) (hm : Within [.pwr, .flights, .vecs, .run, .slc, .led, .flt, .sec, .slk, .radio, .outs, .free] ps) (a1) (a2) : Frame ps s (lfChannelOut a1 a2 t) := by
  unfold lfChannelOut
  repeat'
    first
    | (show Within _ _; exact Within.trans (by decide) hm)
    | intro _
    | with_reducible (first | assumption | apply telegramLost_frame | apply outOfService_frame | apply ite_frame)
    | split

theorem restartTelegram_frame (h : Frame ps s t) (hm : Within [.radio, .outs, .free] ps) (a1) : Frame ps s (restartTelegram a1 t) := by
  unfold restartTelegram
  repeat'
    first
    | (show Within _ _; exact Within.trans (by decide) hm)
    | intro _
    | with_reducible (first | assumption | apply keyTelegram_frame | apply coexDrop_frame | apply uncount_frame | apply stopCarrier_frame)

theorem execLfChannelFault_frame (h : Frame ps s t) (hm : Within [.pwr, .flights, .vecs, .run, .slc, .led, .flt, .sec, .slk, .radio, .outs, .free] ps) (a1) (a2) (a3) (a4) : OutFrame ps s (execLfChannelFault a1 a2 a3 a4 t) := by
  unfold execLfChannelFault
  repeat'
    first
    | (show Within _ _; exact Within.trans (by decide) hm)
    | intro _
    | with_reducible (first | assumption | apply OutFrame.next | apply lfEvent_frame | apply modLfCh_frame | apply fault_frame | apply lfChannelOut_frame | apply drawn_frame | apply onlyIf_frame | apply restartTelegram_frame | apply ite_frame)
    | split
    | (extract_lets +onlyGivenNames x; first | (refine (fun hx : Frame ps s x => ?_) ?_ <;> [clear_value x; subst x]) | clear_value x)

theorem execReplySlotTrigger_frame (h : Frame ps s t) (hm : Within [.vecs, .time, .counters, .radio, .outs] ps) : OutFrame ps s (execReplySlotTrigger t) := by
  unfold execReplySlotTrigger
  repeat'
    first
    | (show Within _ _; exact Within.trans (by decide) hm)
    | intro _
    | with_reducible (first | assumption | apply OutFrame.next | apply elapseToNs_frame | apply putPoll_frame | apply coexAnew_frame | apply sendTrigger_frame | apply uhfEvent_frame | apply ite_frame)
    | split
    | (extract_lets +onlyGivenNames x; first | (refine (fun hx : Frame ps s x => ?_) ?_ <;> [clear_value x; subst x]) | clear_value x)

theorem repeatPoll_frame (h : Frame ps s t) (hm : Within [.sec, .radio, .outs, .free] ps) (a1) : Frame ps s (repeatPoll a1 t) := by
  unfold repeatPoll
  repeat'
    first
    | (show Within _ _; exact Within.trans (by decide) hm)
    | intro _
    | with_reducible (first | assumption | apply onlyIf_frame | apply beginTelegram_frame | apply coexDrop_frame)

theorem execReplyWindowEnd_frame (h : Frame ps s t) (hm : Within [.pwr, .flights, .vecs, .run, .slc, .time, .counters, .led, .sec, .slk, .radio, .outs, .free] ps) : OutFrame ps s (execReplyWindowEnd t) := by
  unfold execReplyWindowEnd
  repeat'
    first
    | (show Within _ _; exact Within.trans (by decide) hm)
    | intro _
    | with_reducible (first | assumption | apply OutFrame.next | apply elapseToNs_frame | apply heldReply_frame | apply retryLocate_frame | apply repeatPoll_frame | apply pollEnds_frame | apply presenceDone_frame | apply ite_frame)
    | split
    | (extract_lets +onlyGivenNames x; first | (refine (fun hx : Frame ps s x => ?_) ?_ <;> [clear_value x; subst x]) | clear_value x)

theorem unlockDoor_frame (h : Frame ps s t) (hm : Within [.pwr, .led, .slk, .radio, .outs] ps) (a1) (a2) (a3) : Frame ps s (unlockDoor a1 a2 a3 t) := by
  unfold unlockDoor
  repeat'
    first
    | (show Within _ _; exact Within.trans (by decide) hm)
    | intro _
    | with_reducible (first | assumption | apply logPart_frame | apply sendBody_frame | apply modPwr_frame | apply putPoll_frame)
    | split
    | (extract_lets +onlyGivenNames x; first | (refine (fun hx : Frame ps s x => ?_) ?_ <;> [clear_value x; subst x]) | clear_value x)

theorem handleReply_frame (h : Frame ps s t) (hm : Within [.pwr, .led, .slk, .radio, .outs] ps) (a1) (a2) (a3) : Frame ps s (handleReply a1 a2 a3 t) := by
  unfold handleReply
  repeat'
    first
    | (show Within _ _; exact Within.trans (by decide) hm)
    | intro _
    | with_reducible (first | assumption | apply relaySuspect_frame | apply setTcnt_frame | apply tokenPassed_frame | apply unlockDoor_frame | apply recordTcnt_frame | apply ite_frame)
    | split
    | (extract_lets +onlyGivenNames x; first | (refine (fun hx : Frame ps s x => ?_) ?_ <;> [clear_value x; subst x]) | clear_value x)

theorem beginMeasure_frame (h : Frame ps s t) (hm : Within [.radio, .outs, .free] ps) (a1) (a2) (a3) : Frame ps s (beginMeasure a1 a2 a3 t) := by
  unfold beginMeasure
  repeat'
    first
    | (show Within _ _; exact Within.trans (by decide) hm)
    | intro _
    | with_reducible (first | assumption | apply keyTelegram_frame | apply coexDrop_frame)

theorem locateReply_frame (h : Frame ps s t) (hm : Within [.pwr, .flights, .run, .slc, .led, .sec, .radio, .outs, .free] ps) (a1) (a2) (a3) : Frame ps s (locateReply a1 a2 a3 t) := by
  unfold locateReply
  repeat'
    first
    | (show Within _ _; exact Within.trans (by decide) hm)
    | intro _
    | with_reducible (first | assumption | apply atStage_frame | apply recordTcnt_frame | apply pollEnds_frame | apply coexRaise_frame | apply coexDrop_frame | apply beginMeasure_frame | apply modRadio_frame | apply ite_frame)
    | split
    | (extract_lets +onlyGivenNames x; first | (refine (fun hx : Frame ps s x => ?_) ?_ <;> [clear_value x; subst x]) | clear_value x)

theorem oneReply_frame (h : Frame ps s t) (hm : Within [.pwr, .flights, .run, .slc, .led, .sec, .slk, .radio, .outs, .free] ps) (a1) : Frame ps s (oneReply a1 t) := by
  unfold oneReply
  repeat'
    first
    | (show Within _ _; exact Within.trans (by decide) hm)
    | intro _
    | with_reducible (first | assumption | apply onlyIf_frame | apply authFail_frame | apply locateReply_frame | apply putPoll_frame | apply relaySuspect_frame | apply setTcnt_frame | apply handleReply_frame | apply tokenPassed_frame | apply recordTcnt_frame | apply inconsistent_frame | apply modRadio_frame | apply ite_frame)
    | split
    | (extract_lets +onlyGivenNames x; first | (refine (fun hx : Frame ps s x => ?_) ?_ <;> [clear_value x; subst x]) | clear_value x)

theorem twinReplies_frame (h : Frame ps s t) (hm : Within [.led, .radio] ps) (a1) (a2) (a3) : Frame ps s (twinReplies a1 a2 a3 t) := by
  unfold twinReplies
  repeat'
    first
    | (show Within _ _; exact Within.trans (by decide) hm)
    | intro _
    | with_reducible (first | assumption | apply relaySuspect_frame | apply setTcnt_frame | apply foldl_frame | refine foldl_frame ?_ ?_ (by with_reducible assumption) | apply ite_frame)
    | split
    | (extract_lets +onlyGivenNames x; first | (refine (fun hx : Frame ps s x => ?_) ?_ <;> [clear_value x; subst x]) | clear_value x)

theorem execChalReply_frame (h : Frame ps s t) (hm : Within [.pwr, .flights, .run, .slc, .led, .sec, .slk, .radio, .outs, .free] ps) (a1) : OutFrame ps s (execChalReply a1 t) := by
  unfold execChalReply
  repeat'
    first
    | (show Within _ _; exact Within.trans (by decide) hm)
    | intro _
    | with_reducible (first | assumption | apply OutFrame.next | apply each_frame | apply oneReply_frame | apply twinReplies_frame | apply putPoll_frame | apply ite_frame)
    | split
    | (extract_lets +onlyGivenNames x; first | (refine (fun hx : Frame ps s x => ?_) ?_ <;> [clear_value x; subst x]) | clear_value x)

theorem execTokenFrameDiscard_frame (h : Frame ps s t) (hm : Within [] ps) (a1) : OutFrame ps s (execTokenFrameDiscard a1 t) := by
  unfold execTokenFrameDiscard
  repeat'
    first
    | (show Within _ _; exact Within.trans (by decide) hm)
    | intro _
    | with_reducible (first | assumption | apply OutFrame.next)

theorem buttonPress_frame (h : Frame ps s t) (hm : Within [.pwr, .led, .slk, .radio, .outs] ps) (a1) (a2) (a3) : Frame ps s (buttonPress a1 a2 a3 t) := by
  unfold buttonPress
  repeat'
    first
    | (show Within _ _; exact Within.trans (by decide) hm)
    | intro _
    | with_reducible (first | assumption | apply logPart_frame | apply setTcnt_frame | apply sendBody_frame | apply tokenSeen_frame | apply recordTcnt_frame | apply ite_frame)
    | split
    | (extract_lets +onlyGivenNames x; first | (refine (fun hx : Frame ps s x => ?_) ?_ <;> [clear_value x; subst x]) | clear_value x)

theorem buttonFrame_frame (h : Frame ps s t) (hm : Within [.pwr, .led, .slk, .radio, .outs] ps) (a1) : Frame ps s (buttonFrame a1 t) := by
  unfold buttonFrame
  repeat'
    first
    | (show Within _ _; exact Within.trans (by decide) hm)
    | intro _
    | with_reducible (first | assumption | apply authFail_frame | apply buttonPress_frame | apply ite_frame)
    | split
    | (extract_lets +onlyGivenNames x; first | (refine (fun hx : Frame ps s x => ?_) ?_ <;> [clear_value x; subst x]) | clear_value x)

theorem execButton_frame (h : Frame ps s t) (hm : Within [.pwr, .led, .slk, .radio, .outs] ps) (a1) : OutFrame ps s (execButton a1 t) := by
  unfold execButton
  repeat'
    first
    | (show Within _ _; exact Within.trans (by decide) hm)
    | intro _
    | with_reducible (first | assumption | apply OutFrame.next | apply noteSlice_frame | apply buttonFrame_frame | apply modRadio_frame | apply ite_frame)
    | split
    | (extract_lets +onlyGivenNames x; first | (refine (fun hx : Frame ps s x => ?_) ?_ <;> [clear_value x; subst x]) | clear_value x)

theorem capEvent_frame (h : Frame ps s t) (hm : Within [.cap] ps) (a1) : Frame ps s (capEvent a1 t) := by
  unfold capEvent
  repeat'
    first
    | (show Within _ _; exact Within.trans (by decide) hm)
    | intro _
    | with_reducible (first | assumption | apply modCap_frame)

theorem modEl_frame (h : Frame ps s t) (hm : Within [.cap] ps) (a1) (a2) : Frame ps s (modEl a1 a2 t) := by
  unfold modEl
  repeat'
    first
    | (show Within _ _; exact Within.trans (by decide) hm)
    | intro _
    | with_reducible (first | assumption | apply modCap_frame)

theorem handleTouched_frame (h : Frame ps s t) (hm : Within [.pwr, .sec, .radio, .outs, .free] ps) (a1) : Frame ps s (handleTouched a1 t) := by
  unfold handleTouched
  repeat'
    first
    | (show Within _ _; exact Within.trans (by decide) hm)
    | intro _
    | with_reducible (first | assumption | apply startHandle_frame | apply modRadio_frame | apply ite_frame)
    | split

theorem touchStarts_frame (h : Frame ps s t) (hm : Within [.pwr, .sec, .radio, .cap, .outs, .free] ps) (a1) : Frame ps s (touchStarts a1 t) := by
  unfold touchStarts
  repeat'
    first
    | (show Within _ _; exact Within.trans (by decide) hm)
    | intro _
    | with_reducible (first | assumption | apply modEl_frame | apply capEvent_frame | apply handleTouched_frame | apply ite_frame)
    | split
    | (extract_lets +onlyGivenNames x; first | (refine (fun hx : Frame ps s x => ?_) ?_ <;> [clear_value x; subst x]) | clear_value x)

theorem scanTime_frame (h : Frame ps s t) (hm : Within [.vecs, .time, .counters, .outs] ps) (a1) : Frame ps s (scanTime a1 t) := by
  unfold scanTime
  repeat'
    first
    | (show Within _ _; exact Within.trans (by decide) hm)
    | intro _
    | with_reducible (first | assumption | apply elapseTo_frame)
    | split

theorem oneScan_frame (h : Frame ps s t) (hm : Within [.pwr, .vecs, .time, .counters, .sec, .radio, .cap, .outs, .free] ps) (a1) (a2) : Frame ps s (oneScan a1 a2 t) := by
  unfold oneScan
  repeat'
    first
    | (show Within _ _; exact Within.trans (by decide) hm)
    | intro _
    | with_reducible (first | assumption | apply scanTime_frame | apply modEl_frame | apply touchStarts_frame | apply ite_frame)
    | split
    | (extract_lets +onlyGivenNames x; first | (refine (fun hx : Frame ps s x => ?_) ?_ <;> [clear_value x; subst x]) | clear_value x)

theorem execCapacitiveTouch_frame (h : Frame ps s t) (hm : Within [.pwr, .vecs, .time, .counters, .sec, .radio, .cap, .outs, .free] ps) (a1) (a2) : OutFrame ps s (execCapacitiveTouch a1 a2 t) := by
  unfold execCapacitiveTouch
  repeat'
    first
    | (show Within _ _; exact Within.trans (by decide) hm)
    | intro _
    | with_reducible (first | assumption | apply OutFrame.next | apply each_frame | apply oneScan_frame)

theorem execTouchEnd_frame (h : Frame ps s t) (hm : Within [.pwr, .vecs, .time, .counters, .sec, .radio, .cap, .outs, .free] ps) (a1) : OutFrame ps s (execTouchEnd a1 t) := by
  unfold execTouchEnd
  repeat'
    first
    | (show Within _ _; exact Within.trans (by decide) hm)
    | intro _
    | with_reducible (first | assumption | apply OutFrame.next | apply each_frame | apply oneScan_frame)

theorem execElectrodeStuck_frame (h : Frame ps s t) (hm : Within [.vecs, .time, .counters, .led, .flt, .cap, .outs] ps) (a1) : OutFrame ps s (execElectrodeStuck a1 t) := by
  unfold execElectrodeStuck
  repeat'
    first
    | (show Within _ _; exact Within.trans (by decide) hm)
    | intro _
    | with_reducible (first | assumption | apply OutFrame.next | apply elapseTo_frame | apply capEvent_frame | apply fault_frame | apply modEl_frame | apply ite_frame)
    | split
    | (extract_lets +onlyGivenNames x; first | (refine (fun hx : Frame ps s x => ?_) ?_ <;> [clear_value x; subst x]) | clear_value x)

theorem execElectrodeUnmask_frame (h : Frame ps s t) (hm : Within [.vecs, .time, .counters, .led, .flt, .cap, .outs] ps) (a1) : OutFrame ps s (execElectrodeUnmask a1 t) := by
  unfold execElectrodeUnmask
  repeat'
    first
    | (show Within _ _; exact Within.trans (by decide) hm)
    | intro _
    | with_reducible (first | assumption | apply OutFrame.next | apply elapseTo_frame | apply fault_frame | apply modEl_frame | apply ite_frame)
    | split
    | (extract_lets +onlyGivenNames x; first | (refine (fun hx : Frame ps s x => ?_) ?_ <;> [clear_value x; subst x]) | clear_value x)

theorem execCapGuardFault_frame (h : Frame ps s t) (hm : Within [.vecs, .led, .flt, .cap, .outs] ps) (a1) : OutFrame ps s (execCapGuardFault a1 t) := by
  unfold execCapGuardFault
  repeat'
    first
    | (show Within _ _; exact Within.trans (by decide) hm)
    | intro _
    | with_reducible (first | assumption | apply OutFrame.next | apply capEvent_frame | apply each_frame | apply outOfService_frame | apply ite_frame)
    | split
    | (extract_lets +onlyGivenNames x; first | (refine (fun hx : Frame ps s x => ?_) ?_ <;> [clear_value x; subst x]) | clear_value x)

theorem sendBurst_frame (h : Frame ps s t) (hm : Within [.pwr, .flights, .vecs, .run, .slc, .time, .counters, .led, .sec, .radio, .outs, .free] ps) (a1) (a2) (a3) (a4) : Frame ps s (sendBurst a1 a2 a3 a4 t) := by
  unfold sendBurst
  repeat'
    first
    | (show Within _ _; exact Within.trans (by decide) hm)
    | intro _
    | with_reducible (first | assumption | apply retryLocate_frame | apply coexAnew_frame | apply elapseToNs_frame | apply pollEnds_frame | apply endLocate_frame | apply burstOut_frame | apply countEmission_frame | apply coexRaise_frame | apply putPoll_frame | apply uhfEvent_frame | apply ite_frame)
    | split
    | (extract_lets +onlyGivenNames x; first | (refine (fun hx : Frame ps s x => ?_) ?_ <;> [clear_value x; subst x]) | clear_value x)

theorem execSoundBurst_frame (h : Frame ps s t) (hm : Within [.pwr, .flights, .vecs, .run, .slc, .time, .counters, .clk, .led, .sec, .radio, .outs, .free] ps) : OutFrame ps s (execSoundBurst t) := by
  unfold execSoundBurst
  repeat'
    first
    | (show Within _ _; exact Within.trans (by decide) hm)
    | intro _
    | with_reducible (first | assumption | apply OutFrame.next | apply retryLocate_frame | apply putPoll_frame | apply sendBurst_frame | apply grantWindow_frame | apply foldl_frame | refine foldl_frame ?_ ?_ (by with_reducible assumption) | apply ite_frame)
    | split
    | (extract_lets +onlyGivenNames x; first | (refine (fun hx : Frame ps s x => ?_) ?_ <;> [clear_value x; subst x]) | clear_value x)

theorem execReportTrigger_frame (h : Frame ps s t) (hm : Within [.pwr, .flights, .vecs, .run, .slc, .time, .counters, .led, .sec, .radio, .outs, .free] ps) : OutFrame ps s (execReportTrigger t) := by
  unfold execReportTrigger
  repeat'
    first
    | (show Within _ _; exact Within.trans (by decide) hm)
    | intro _
    | with_reducible (first | assumption | apply OutFrame.next | apply retryLocate_frame | apply elapseToNs_frame | apply putPoll_frame | apply coexAnew_frame | apply sendTrigger_frame | apply uhfEvent_frame | apply ite_frame)
    | split
    | (extract_lets +onlyGivenNames x; first | (refine (fun hx : Frame ps s x => ?_) ?_ <;> [clear_value x; subst x]) | clear_value x)

theorem reportFailed_frame (h : Frame ps s t) (hm : Within [.pwr, .flights, .run, .slc, .led, .sec, .radio, .outs, .free] ps) (a1) (a2) (a3) : Frame ps s (reportFailed a1 a2 a3 t) := by
  unfold reportFailed
  repeat'
    first
    | (show Within _ _; exact Within.trans (by decide) hm)
    | intro _
    | with_reducible (first | assumption | apply authFail_frame | apply pollEnds_frame | apply endLocate_frame | apply ite_frame)
    | split
    | (extract_lets +onlyGivenNames x; first | (refine (fun hx : Frame ps s x => ?_) ?_ <;> [clear_value x; subst x]) | clear_value x)

theorem execSoundReport_frame (h : Frame ps s t) (hm : Within [.pwr, .flights, .run, .slc, .led, .sec, .radio, .outs, .free] ps) (a1) : OutFrame ps s (execSoundReport a1 t) := by
  unfold execSoundReport
  repeat'
    first
    | (show Within _ _; exact Within.trans (by decide) hm)
    | intro _
    | with_reducible (first | assumption | apply OutFrame.next | apply recordTcnt_frame | apply pollEnds_frame | apply modRadio_frame | apply atStage_frame | apply reportFailed_frame | apply ite_frame)
    | split
    | (extract_lets +onlyGivenNames x; first | (refine (fun hx : Frame ps s x => ?_) ?_ <;> [clear_value x; subst x]) | clear_value x)

theorem noteSnr_frame (h : Frame ps s t) (hm : Within [.radio] ps) (a1) : Frame ps s (noteSnr a1 t) := by
  unfold noteSnr
  repeat'
    first
    | (show Within _ _; exact Within.trans (by decide) hm)
    | intro _
    | with_reducible (first | assumption | apply each_frame | apply modRadio_frame)

theorem locateDone_frame (h : Frame ps s t) (hm : Within [.pwr, .flights, .run, .slc, .led, .slk, .radio, .outs] ps) (a1) (a2) (a3) (a4) (a5) (a6) (a7) : Frame ps s (locateDone a1 a2 a3 a4 a5 a6 a7 t) := by
  unfold locateDone
  repeat'
    first
    | (show Within _ _; exact Within.trans (by decide) hm)
    | intro _
    | with_reducible (first | assumption | apply putTrack_frame | apply tokenPassed_frame | apply writeAndSettle_frame | apply settle_frame | apply ite_frame)
    | split
    | (extract_lets +onlyGivenNames x; first | (refine (fun hx : Frame ps s x => ?_) ?_ <;> [clear_value x; subst x]) | (refine (fun hx : Frame ps s x.2 => ?_) ?_ <;> [clear_value x; subst x]) | (refine (fun hx : Frame ps s x.1 => ?_) ?_ <;> [clear_value x; subst x]) | clear_value x)

theorem presencePassed_frame (h : Frame ps s t) (hm : Within [.pwr, .led, .slk, .radio, .outs] ps) (a1) (a2) (a3) (a4) : Frame ps s (presencePassed a1 a2 a3 a4 t) := by
  unfold presencePassed
  repeat'
    first
    | (show Within _ _; exact Within.trans (by decide) hm)
    | intro _
    | with_reducible (first | assumption | apply putTrack_frame | apply modRadio_frame | apply tokenPassed_frame)
    | split
    | (extract_lets +onlyGivenNames x; first | (refine (fun hx : Frame ps s x => ?_) ?_ <;> [clear_value x; subst x]) | (refine (fun hx : Frame ps s x.2 => ?_) ?_ <;> [clear_value x; subst x]) | (refine (fun hx : Frame ps s x.1 => ?_) ?_ <;> [clear_value x; subst x]) | clear_value x)

theorem execPositionFit_frame (h : Frame ps s t) (hm : Within [.pwr, .flights, .run, .slc, .led, .slk, .radio, .outs] ps) (a1) (a2) : OutFrame ps s (execPositionFit a1 a2 t) := by
  unfold execPositionFit
  repeat'
    first
    | (show Within _ _; exact Within.trans (by decide) hm)
    | intro _
    | with_reducible (first | assumption | apply OutFrame.next | apply modRadio_frame | apply onlyIf_frame | apply noteSnr_frame | apply presencePassed_frame | apply inconsistent_frame | apply settle_frame | apply locateDone_frame | apply ite_frame)
    | split
    | (extract_lets +onlyGivenNames x; first | (refine (fun hx : Frame ps s x => ?_) ?_ <;> [clear_value x; subst x]) | clear_value x)

theorem execCoexGrant_frame (h : Frame ps s t) (hm : Within [.radio] ps) : OutFrame ps s (execCoexGrant t) := by
  unfold execCoexGrant
  repeat'
    first
    | (show Within _ _; exact Within.trans (by decide) hm)
    | intro _
    | with_reducible (first | assumption | apply OutFrame.next | apply putPoll_frame | apply modRadio_frame | apply ite_frame)
    | split

theorem execCoexTimeout_frame (h : Frame ps s t) (hm : Within [.pwr, .flights, .vecs, .run, .slc, .time, .counters, .led, .sec, .slk, .radio, .outs, .free] ps) : OutFrame ps s (execCoexTimeout t) := by
  unfold execCoexTimeout
  repeat'
    first
    | (show Within _ _; exact Within.trans (by decide) hm)
    | intro _
    | with_reducible (first | assumption | apply OutFrame.next | apply elapseTo_frame | apply uhfEvent_frame | apply coexDrop_frame | apply modRadio_frame | apply onlyIf_frame | apply startLocate_frame | apply pollEnds_frame | apply endLocate_frame | apply presenceDeferred_frame | apply ite_frame)
    | split
    | (extract_lets +onlyGivenNames x; first | (refine (fun hx : Frame ps s x => ?_) ?_ <;> [clear_value x; subst x]) | clear_value x)

theorem execCoexGrantFall_frame (h : Frame ps s t) (hm : Within [.vecs, .led, .flt, .radio, .outs] ps) (a1) : OutFrame ps s (execCoexGrantFall a1 t) := by
  unfold execCoexGrantFall
  repeat'
    first
    | (show Within _ _; exact Within.trans (by decide) hm)
    | intro _
    | with_reducible (first | assumption | apply OutFrame.next | apply modRadio_frame | apply onlyIf_frame | apply writeFault_frame | apply modFlt_frame | apply stopBurst_frame | apply putPoll_frame | apply ite_frame)
    | split
    | (extract_lets +onlyGivenNames x; first | (refine (fun hx : Frame ps s x => ?_) ?_ <;> [clear_value x; subst x]) | clear_value x)

theorem modUhfCh_frame (h : Frame ps s t) (hm : Within [.radio] ps) (a1) (a2) : Frame ps s (modUhfCh a1 a2 t) := by
  unfold modUhfCh
  repeat'
    first
    | (show Within _ _; exact Within.trans (by decide) hm)
    | intro _
    | with_reducible (first | assumption | apply modRadio_frame)

theorem chainOut_frame (h : Frame ps s t) (hm : Within [.pwr, .flights, .run, .slc, .led, .sec, .radio, .outs, .free] ps) : Frame ps s (chainOut t) := by
  unfold chainOut
  repeat'
    first
    | (show Within _ _; exact Within.trans (by decide) hm)
    | intro _
    | with_reducible (first | assumption | apply restartSound_frame | apply onlyIf_frame | apply passiveEnds_frame)

theorem execUhfPowerCorrection_frame (h : Frame ps s t) (hm : Within [.pwr, .flights, .vecs, .run, .slc, .led, .flt, .sec, .radio, .outs, .free] ps) (a1) (a2) : OutFrame ps s (execUhfPowerCorrection a1 a2 t) := by
  unfold execUhfPowerCorrection
  repeat'
    first
    | (show Within _ _; exact Within.trans (by decide) hm)
    | intro _
    | with_reducible (first | assumption | apply OutFrame.next | apply setDieTemp_frame | apply each_frame | apply modUhfCh_frame | apply chainOut_frame | apply uhfEvent_frame | apply outOfService_frame | apply fault_frame | apply ite_frame)
    | split
    | (extract_lets +onlyGivenNames x; first | (refine (fun hx : Frame ps s x => ?_) ?_ <;> [clear_value x; subst x]) | clear_value x)

theorem execSynthFault_frame (h : Frame ps s t) (hm : Within [.pwr, .flights, .vecs, .run, .slc, .led, .flt, .sec, .radio, .outs, .free] ps) (a1) : OutFrame ps s (execSynthFault a1 t) := by
  unfold execSynthFault
  repeat'
    first
    | (show Within _ _; exact Within.trans (by decide) hm)
    | intro _
    | with_reducible (first | assumption | apply OutFrame.next | apply restartSound_frame | apply uhfEvent_frame | apply outOfService_frame | apply ite_frame)
    | split
    | (extract_lets +onlyGivenNames x; first | (refine (fun hx : Frame ps s x => ?_) ?_ <;> [clear_value x; subst x]) | clear_value x)

theorem execTrackAgeExpiry_frame (h : Frame ps s t) (hm : Within [.vecs, .time, .counters, .radio, .outs] ps) (a1) : OutFrame ps s (execTrackAgeExpiry a1 t) := by
  unfold execTrackAgeExpiry
  repeat'
    first
    | (show Within _ _; exact Within.trans (by decide) hm)
    | intro _
    | with_reducible (first | assumption | apply OutFrame.next | apply elapseTo_frame | apply modRadio_frame | apply ite_frame)
    | split
    | (extract_lets +onlyGivenNames x; first | (refine (fun hx : Frame ps s x => ?_) ?_ <;> [clear_value x; subst x]) | clear_value x)

theorem execLocate_frame (h : Frame ps s t) (hm : Within [.flights, .run, .slc, .led, .sec, .radio, .outs, .free] ps) (a1) : OutFrame ps s (execLocate a1 t) := by
  unfold execLocate
  repeat'
    first
    | (show Within _ _; exact Within.trans (by decide) hm)
    | intro _
    | with_reducible (first | assumption | apply OutFrame.next | apply startOp_frame | apply settle_frame | apply modRadio_frame | apply noteV_frame | apply startLocate_frame | apply ite_frame)
    | split
    | (extract_lets +onlyGivenNames x; first | (refine (fun hx : Frame ps s x => ?_) ?_ <;> [clear_value x; subst x]) | clear_value x)

theorem execTrackRead_frame (h : Frame ps s t) (hm : Within [.flights, .run, .slc, .led, .outs] ps) (a1) (a2) : OutFrame ps s (execTrackRead a1 a2 t) := by
  unfold execTrackRead
  repeat'
    first
    | (show Within _ _; exact Within.trans (by decide) hm)
    | intro _
    | with_reducible (first | assumption | apply OutFrame.next | apply startOp_frame | apply writeAndSettle_frame)
    | split
    | (extract_lets +onlyGivenNames x; first | (refine (fun hx : Frame ps s x => ?_) ?_ <;> [clear_value x; subst x]) | clear_value x)

theorem execNearEnrol_frame (h : Frame ps s t) (hm : Within [.flights, .run, .slc, .led, .sec, .radio] ps) (a1) : OutFrame ps s (execNearEnrol a1 t) := by
  unfold execNearEnrol
  repeat'
    first
    | (show Within _ _; exact Within.trans (by decide) hm)
    | intro _
    | with_reducible (first | assumption | apply OutFrame.next | apply keyOp_frame | apply settle_frame | apply lfEvent_frame | apply keyRelease_frame | apply modRadio_frame | apply ite_frame)
    | split
    | (extract_lets +onlyGivenNames x; first | (refine (fun hx : Frame ps s x => ?_) ?_ <;> [clear_value x; subst x]) | (refine (fun hx : Frame ps s x.2 => ?_) ?_ <;> [clear_value x; subst x]) | (refine (fun hx : Frame ps s x.1 => ?_) ?_ <;> [clear_value x; subst x]) | clear_value x)

theorem execNearRemove_frame (h : Frame ps s t) (hm : Within [.flights, .run, .slc, .led, .radio] ps) (a1) : OutFrame ps s (execNearRemove a1 t) := by
  unfold execNearRemove
  repeat'
    first
    | (show Within _ _; exact Within.trans (by decide) hm)
    | intro _
    | with_reducible (first | assumption | apply OutFrame.next | apply startOp_frame | apply settle_frame | apply nearRemove_frame | apply ite_frame)
    | split
    | (extract_lets +onlyGivenNames x; first | (refine (fun hx : Frame ps s x => ?_) ?_ <;> [clear_value x; subst x]) | clear_value x)

theorem execNearRead_frame (h : Frame ps s t) (hm : Within [.flights, .run, .slc, .led, .outs] ps) (a1) (a2) : OutFrame ps s (execNearRead a1 a2 t) := by
  unfold execNearRead
  repeat'
    first
    | (show Within _ _; exact Within.trans (by decide) hm)
    | intro _
    | with_reducible (first | assumption | apply OutFrame.next | apply startOp_frame | apply writeAndSettle_frame)
    | split
    | (extract_lets +onlyGivenNames x; first | (refine (fun hx : Frame ps s x => ?_) ?_ <;> [clear_value x; subst x]) | clear_value x)

theorem execZoneRead_frame (h : Frame ps s t) (hm : Within [.flights, .run, .slc, .led, .outs] ps) (a1) (a2) : OutFrame ps s (execZoneRead a1 a2 t) := by
  unfold execZoneRead
  repeat'
    first
    | (show Within _ _; exact Within.trans (by decide) hm)
    | intro _
    | with_reducible (first | assumption | apply OutFrame.next | apply startOp_frame | apply settle_frame | apply writeAndSettle_frame | apply ite_frame)
    | split
    | (extract_lets +onlyGivenNames x; first | (refine (fun hx : Frame ps s x => ?_) ?_ <;> [clear_value x; subst x]) | clear_value x)

theorem nfcEvent_frame (h : Frame ps s t) (hm : Within [.nfc] ps) (a1) : Frame ps s (nfcEvent a1 t) := by
  unfold nfcEvent
  repeat'
    first
    | (show Within _ _; exact Within.trans (by decide) hm)
    | intro _
    | with_reducible (first | assumption | apply modNfc_frame)

theorem modReader_frame (h : Frame ps s t) (hm : Within [.nfc] ps) (a1) (a2) : Frame ps s (modReader a1 a2 t) := by
  unfold modReader
  repeat'
    first
    | (show Within _ _; exact Within.trans (by decide) hm)
    | intro _
    | with_reducible (first | assumption | apply modNfc_frame)

theorem dropXchg_frame (h : Frame ps s t) (hm : Within [.nfc] ps) (a1) : Frame ps s (dropXchg a1 t) := by
  unfold dropXchg
  repeat'
    first
    | (show Within _ _; exact Within.trans (by decide) hm)
    | intro _
    | with_reducible (first | assumption | apply modNfc_frame)

theorem putXchg_frame (h : Frame ps s t) (hm : Within [.nfc] ps) (a1) : Frame ps s (putXchg a1 t) := by
  unfold putXchg
  repeat'
    first
    | (show Within _ _; exact Within.trans (by decide) hm)
    | intro _
    | with_reducible (first | assumption | apply modNfc_frame)

theorem readerRequest_frame (h : Frame ps s t) (hm : Within [.ifl, .nfc, .outs] ps) (a1) (a2) (a3) : Frame ps s (readerRequest a1 a2 a3 t) := by
  unfold readerRequest
  repeat'
    first
    | (show Within _ _; exact Within.trans (by decide) hm)
    | intro _
    | with_reducible (first | assumption | apply sendData_frame | apply modNfc_frame)
    | split
    | (extract_lets +onlyGivenNames x; first | (refine (fun hx : Frame ps s x => ?_) ?_ <;> [clear_value x; subst x]) | clear_value x)

theorem carrierOn_frame (h : Frame ps s t) (hm : Within [.vecs, .time, .counters, .nfc, .outs] ps) (a1) : Frame ps s (carrierOn a1 t) := by
  unfold carrierOn
  repeat'
    first
    | (show Within _ _; exact Within.trans (by decide) hm)
    | intro _
    | with_reducible (first | assumption | apply elapseTo_frame | apply elapseNs_frame | apply modReader_frame | apply ite_frame)
    | split
    | (extract_lets +onlyGivenNames x; first | (refine (fun hx : Frame ps s x => ?_) ?_ <;> [clear_value x; subst x]) | clear_value x)

theorem sendAct_frame (h : Frame ps s t) (hm : Within [.nfc, .outs] ps) (a1) (a2) (a3) : Frame ps s (sendAct a1 a2 a3 t) := by
  unfold sendAct
  repeat'
    first
    | (show Within _ _; exact Within.trans (by decide) hm)
    | intro _
    | with_reducible (first | assumption | apply putXchg_frame | apply emit_frame)

theorem beginSearch_frame (h : Frame ps s t) (hm : Within [.vecs, .time, .counters, .nfc, .outs] ps) (a1) : Frame ps s (beginSearch a1 t) := by
  unfold beginSearch
  repeat'
    first
    | (show Within _ _; exact Within.trans (by decide) hm)
    | intro _
    | with_reducible (first | assumption | apply carrierOn_frame | apply sendAct_frame)
    | split
    | (extract_lets +onlyGivenNames x; first | (refine (fun hx : Frame ps s x => ?_) ?_ <;> [clear_value x; subst x]) | clear_value x)

theorem activateCard_frame (h : Frame ps s t) (hm : Within [.vecs, .time, .counters, .ifl, .nfc, .outs] ps) (a1) (a2) : Frame ps s (activateCard a1 a2 t) := by
  unfold activateCard
  repeat'
    first
    | (show Within _ _; exact Within.trans (by decide) hm)
    | intro _
    | with_reducible (first | assumption | apply beginSearch_frame | apply onlyIf_frame | apply emit_frame | apply putXchg_frame | apply readerRequest_frame | apply ite_frame)
    | split
    | (extract_lets +onlyGivenNames x; first | (refine (fun hx : Frame ps s x => ?_) ?_ <;> [clear_value x; subst x]) | clear_value x)

theorem sendBlock_frame (h : Frame ps s t) (hm : Within [.nfc, .outs] ps) (a1) (a2) : Frame ps s (sendBlock a1 a2 t) := by
  unfold sendBlock
  repeat'
    first
    | (show Within _ _; exact Within.trans (by decide) hm)
    | intro _
    | with_reducible (first | assumption | apply putXchg_frame | apply emit_frame)
    | split

theorem sendApdu_frame (h : Frame ps s t) (hm : Within [.ifl, .nfc, .outs] ps) (a1) (a2) (a3) : Frame ps s (sendApdu a1 a2 a3 t) := by
  unfold sendApdu
  repeat'
    first
    | (show Within _ _; exact Within.trans (by decide) hm)
    | intro _
    | with_reducible (first | assumption | apply sendBlock_frame | apply putXchg_frame | apply readerRequest_frame | apply ite_frame)
    | split
    | (extract_lets +onlyGivenNames x; first | (refine (fun hx : Frame ps s x => ?_) ?_ <;> [clear_value x; subst x]) | clear_value x)

theorem carrierOff_frame (h : Frame ps s t) (hm : Within [.ifl, .nfc, .outs] ps) (a1) (a2) : Frame ps s (carrierOff a1 a2 t) := by
  unfold carrierOff
  repeat'
    first
    | (show Within _ _; exact Within.trans (by decide) hm)
    | intro _
    | with_reducible (first | assumption | apply emit_frame | apply modReader_frame | apply readerRequest_frame | apply ite_frame)
    | split

theorem readersOff_frame (h : Frame ps s t) (hm : Within [.ifl, .nfc, .outs] ps) : Frame ps s (readersOff t) := by
  unfold readersOff
  repeat'
    first
    | (show Within _ _; exact Within.trans (by decide) hm)
    | intro _
    | with_reducible (first | assumption | apply modNfc_frame | apply each_frame | apply carrierOff_frame | apply ite_frame)
    | split

theorem endXchg_frame (h : Frame ps s t) (hm : Within [.flights, .run, .slc, .led, .ifl, .nfc, .outs] ps) (a1) (a2) : Frame ps s (endXchg a1 a2 t) := by
  unfold endXchg
  repeat'
    first
    | (show Within _ _; exact Within.trans (by decide) hm)
    | intro _
    | with_reducible (first | assumption | apply settle_frame | apply dropXchg_frame | apply carrierOff_frame)

theorem sealRecord_frame (h : Frame ps s t) (hm : Within [.led] ps) (a1) (a2) (a3) (a4) : Frame ps s (sealRecord a1 a2 a3 a4 t) := by
  unfold sealRecord
  repeat'
    first
    | (show Within _ _; exact Within.trans (by decide) hm)
    | intro _
    | with_reducible (first | assumption | apply logPart_frame)

theorem nodeAnswer_frame (h : Frame ps s t) (hm : Within [.ifl, .nfc, .outs] ps) (a1) (a2) (a3) : Frame ps s (nodeAnswer a1 a2 a3 t) := by
  unfold nodeAnswer
  repeat'
    first
    | (show Within _ _; exact Within.trans (by decide) hm)
    | intro _
    | with_reducible (first | assumption | apply sendData_frame | apply dropXchg_frame)

theorem endLost_frame (h : Frame ps s t) (hm : Within [.flights, .run, .slc, .led, .ifl, .nfc, .outs] ps) (a1) (a2) (a3) : Frame ps s (endLost a1 a2 a3 t) := by
  unfold endLost
  repeat'
    first
    | (show Within _ _; exact Within.trans (by decide) hm)
    | intro _
    | with_reducible (first | assumption | apply carrierOff_frame | apply nodeAnswer_frame | apply dropXchg_frame | apply settle_frame | apply sealRecord_frame | apply ite_frame)
    | split
    | (extract_lets +onlyGivenNames x; first | (refine (fun hx : Frame ps s x => ?_) ?_ <;> [clear_value x; subst x]) | clear_value x)

theorem cardLost_frame (h : Frame ps s t) (hm : Within [.flights, .run, .slc, .led, .ifl, .nfc, .outs] ps) (a1) : Frame ps s (cardLost a1 t) := by
  unfold cardLost
  repeat'
    first
    | (show Within _ _; exact Within.trans (by decide) hm)
    | intro _
    | with_reducible (first | assumption | apply endLost_frame)

theorem ceilingHit_frame (h : Frame ps s t) (hm : Within [.flights, .run, .slc, .led, .ifl, .nfc, .outs] ps) (a1) : Frame ps s (ceilingHit a1 t) := by
  unfold ceilingHit
  repeat'
    first
    | (show Within _ _; exact Within.trans (by decide) hm)
    | intro _
    | with_reducible (first | assumption | apply nfcEvent_frame | apply nodeAnswer_frame | apply carrierOff_frame | apply endLost_frame | apply ite_frame)
    | split

theorem unitLost_frame (h : Frame ps s t) (hm : Within [.flights, .run, .slc, .led, .ifl, .nfc, .outs] ps) (a1) : Frame ps s (unitLost a1 t) := by
  unfold unitLost
  repeat'
    first
    | (show Within _ _; exact Within.trans (by decide) hm)
    | intro _
    | with_reducible (first | assumption | apply each_frame | apply cardLost_frame)

theorem readerLost_frame (h : Frame ps s t) (hm : Within [.flights, .run, .slc, .led, .ifl, .nfc, .outs] ps) (a1) : Frame ps s (readerLost a1 t) := by
  unfold readerLost
  repeat'
    first
    | (show Within _ _; exact Within.trans (by decide) hm)
    | intro _
    | with_reducible (first | assumption | apply each_frame | apply cardLost_frame)

theorem cardRan_frame (h : Frame ps s t) (hm : Within [.sec] ps) (a1) : Frame ps s (cardRan a1 t) := by
  unfold cardRan
  repeat'
    first
    | (show Within _ _; exact Within.trans (by decide) hm)
    | intro _
    | with_reducible (first | assumption | apply pkeRan_frame)
    | split

theorem cardAnswer_frame (h : Frame ps s t) (hm : Within [.flights, .vecs, .run, .slc, .time, .counters, .led, .sec, .ifl, .nfc, .outs] ps) (a1) (a2) (a3) (a4) (a5) : Frame ps s (cardAnswer a1 a2 a3 a4 a5 t) := by
  unfold cardAnswer
  repeat'
    first
    | (show Within _ _; exact Within.trans (by decide) hm)
    | intro _
    | with_reducible (first | assumption | apply endXchg_frame | apply cardRan_frame | apply dropXchg_frame | apply carrierOff_frame | apply settle_frame | apply writeAndSettle_frame | apply activateCard_frame | apply ite_frame)
    | split
    | (extract_lets +onlyGivenNames x; first | (refine (fun hx : Frame ps s x => ?_) ?_ <;> [clear_value x; subst x]) | (refine (fun hx : Frame ps s x.2 => ?_) ?_ <;> [clear_value x; subst x]) | (refine (fun hx : Frame ps s x.1 => ?_) ?_ <;> [clear_value x; subst x]) | clear_value x)

theorem scanDone_frame (h : Frame ps s t) (hm : Within [.flights, .run, .slc, .led, .ifl, .nfc, .outs] ps) (a1) (a2) (a3) : Frame ps s (scanDone a1 a2 a3 t) := by
  unfold scanDone
  repeat'
    first
    | (show Within _ _; exact Within.trans (by decide) hm)
    | intro _
    | with_reducible (first | assumption | apply dropXchg_frame | apply carrierOff_frame | apply writeAndSettle_frame)
    | split
    | (extract_lets +onlyGivenNames x; first | (refine (fun hx : Frame ps s x => ?_) ?_ <;> [clear_value x; subst x]) | clear_value x)

theorem tagBlocked_frame (h : Frame ps s t) (hm : Within [.flights, .run, .slc, .led, .ifl, .nfc, .outs] ps) (a1) : Frame ps s (tagBlocked a1 t) := by
  unfold tagBlocked
  repeat'
    first
    | (show Within _ _; exact Within.trans (by decide) hm)
    | intro _
    | with_reducible (first | assumption | apply endXchg_frame | apply nfcEvent_frame)

theorem sendChange_frame (h : Frame ps s t) (hm : Within [.flights, .run, .slc, .led, .ifl, .nfc, .outs] ps) (a1) (a2) : Frame ps s (sendChange a1 a2 t) := by
  unfold sendChange
  repeat'
    first
    | (show Within _ _; exact Within.trans (by decide) hm)
    | intro _
    | with_reducible (first | assumption | apply logRec_frame | apply sendApdu_frame | apply endXchg_frame | apply ite_frame)
    | split
    | (extract_lets +onlyGivenNames x; first | (refine (fun hx : Frame ps s x => ?_) ?_ <;> [clear_value x; subst x]) | clear_value x)

theorem sealCommand_frame (h : Frame ps s t) (hm : Within [.flights, .run, .slc, .led, .ifl, .nfc, .outs] ps) (a1) (a2) : Frame ps s (sealCommand a1 a2 t) := by
  unfold sealCommand
  repeat'
    first
    | (show Within _ _; exact Within.trans (by decide) hm)
    | intro _
    | with_reducible (first | assumption | apply sendApdu_frame | apply sendChange_frame | apply ite_frame)
    | split

theorem infoAnswer_frame (h : Frame ps s t) (hm : Within [.flights, .vecs, .run, .slc, .time, .counters, .led, .sec, .ifl, .nfc, .outs, .free] ps) (a1) (a2) (a3) (a4) (a5) : Frame ps s (infoAnswer a1 a2 a3 a4 a5 t) := by
  unfold infoAnswer
  repeat'
    first
    | (show Within _ _; exact Within.trans (by decide) hm)
    | intro _
    | with_reducible (first | assumption | apply activateCard_frame | apply onlyIf_frame | apply nfcEvent_frame | apply sealRecord_frame | apply scanDone_frame | apply sealCommand_frame | apply endXchg_frame | apply sendApdu_frame | apply drew_frame | apply ite_frame)
    | split
    | (extract_lets +onlyGivenNames x; first | (refine (fun hx : Frame ps s x => ?_) ?_ <;> [clear_value x; subst x]) | clear_value x)

theorem auth1Answer_frame (h : Frame ps s t) (hm : Within [.flights, .vecs, .run, .slc, .time, .counters, .led, .ifl, .nfc, .outs] ps) (a1) (a2) (a3) (a4) : Frame ps s (auth1Answer a1 a2 a3 a4 t) := by
  unfold auth1Answer
  repeat'
    first
    | (show Within _ _; exact Within.trans (by decide) hm)
    | intro _
    | with_reducible (first | assumption | apply sendApdu_frame | apply tagBlocked_frame | apply activateCard_frame | apply nfcEvent_frame | apply endXchg_frame | apply ite_frame)
    | split
    | (extract_lets +onlyGivenNames x; first | (refine (fun hx : Frame ps s x => ?_) ?_ <;> [clear_value x; subst x]) | clear_value x)

theorem auth2Answer_frame (h : Frame ps s t) (hm : Within [.flights, .run, .slc, .led, .ifl, .nfc, .outs] ps) (a1) (a2) (a3) : Frame ps s (auth2Answer a1 a2 a3 t) := by
  unfold auth2Answer
  repeat'
    first
    | (show Within _ _; exact Within.trans (by decide) hm)
    | intro _
    | with_reducible (first | assumption | apply sealCommand_frame | apply tagBlocked_frame | apply endXchg_frame | apply ite_frame)
    | split

theorem changeAnswer_frame (h : Frame ps s t) (hm : Within [.flights, .run, .slc, .led, .ifl, .nfc, .outs] ps) (a1) (a2) (a3) (a4) : Frame ps s (changeAnswer a1 a2 a3 a4 t) := by
  unfold changeAnswer
  repeat'
    first
    | (show Within _ _; exact Within.trans (by decide) hm)
    | intro _
    | with_reducible (first | assumption | apply tagBlocked_frame | apply endXchg_frame | apply sealRecord_frame | apply tryLog_frame | apply cardLost_frame | apply ite_frame)
    | split
    | (extract_lets +onlyGivenNames x; first | (refine (fun hx : Frame ps s x => ?_) ?_ <;> [clear_value x; subst x]) | clear_value x)

theorem logAnswer_frame (h : Frame ps s t) (hm : Within [.flights, .run, .slc, .led, .ifl, .nfc, .outs] ps) (a1) (a2) (a3) (a4) (a5) : Frame ps s (logAnswer a1 a2 a3 a4 a5 t) := by
  unfold logAnswer
  repeat'
    first
    | (show Within _ _; exact Within.trans (by decide) hm)
    | intro _
    | with_reducible (first | assumption | apply tagBlocked_frame | apply endXchg_frame | apply dropXchg_frame | apply carrierOff_frame | apply writeAndSettle_frame | apply ite_frame)
    | split
    | (extract_lets +onlyGivenNames x; first | (refine (fun hx : Frame ps s x => ?_) ?_ <;> [clear_value x; subst x]) | clear_value x)

theorem noMoreCards_frame (h : Frame ps s t) (hm : Within [.flights, .vecs, .run, .slc, .time, .counters, .led, .ifl, .nfc, .outs] ps) (a1) (a2) (a3) : Frame ps s (noMoreCards a1 a2 a3 t) := by
  unfold noMoreCards
  repeat'
    first
    | (show Within _ _; exact Within.trans (by decide) hm)
    | intro _
    | with_reducible (first | assumption | apply endXchg_frame | apply activateCard_frame | apply carrierOff_frame | apply scanDone_frame | apply ite_frame)
    | split

theorem cardActive_frame (h : Frame ps s t) (hm : Within [.ifl, .nfc, .outs] ps) (a1) (a2) : Frame ps s (cardActive a1 a2 t) := by
  unfold cardActive
  repeat'
    first
    | (show Within _ _; exact Within.trans (by decide) hm)
    | intro _
    | with_reducible (first | assumption | apply sendApdu_frame | apply ite_frame)
    | split

theorem apduAnswer_frame (h : Frame ps s t) (hm : Within [.flights, .vecs, .run, .slc, .time, .counters, .led, .sec, .ifl, .nfc, .outs, .free] ps) (a1) (a2) (a3) (a4) (a5) : Frame ps s (apduAnswer a1 a2 a3 a4 a5 t) := by
  unfold apduAnswer
  repeat'
    first
    | (show Within _ _; exact Within.trans (by decide) hm)
    | intro _
    | with_reducible (first | assumption | apply activateCard_frame | apply endXchg_frame | apply sendApdu_frame | apply drew_frame | apply cardAnswer_frame | apply infoAnswer_frame | apply auth1Answer_frame | apply auth2Answer_frame | apply changeAnswer_frame | apply logAnswer_frame | apply ite_frame)
    | split
    | (extract_lets +onlyGivenNames x; first | (refine (fun hx : Frame ps s x => ?_) ?_ <;> [clear_value x; subst x]) | clear_value x)

theorem pollOver_frame (h : Frame ps s t) (hm : Within [.ifl, .nfc, .outs] ps) (a1) : Frame ps s (pollOver a1 t) := by
  unfold pollOver
  repeat'
    first
    | (show Within _ _; exact Within.trans (by decide) hm)
    | intro _
    | with_reducible (first | assumption | apply onlyIf_frame | apply modReader_frame | apply dropXchg_frame | apply carrierOff_frame)

theorem pollFound_frame (h : Frame ps s t) (hm : Within [.vecs, .time, .counters, .ifl, .nfc, .outs] ps) (a1) (a2) : Frame ps s (pollFound a1 a2 t) := by
  unfold pollFound
  repeat'
    first
    | (show Within _ _; exact Within.trans (by decide) hm)
    | intro _
    | with_reducible (first | assumption | apply activateCard_frame | apply nfcEvent_frame | apply modNfc_frame)

theorem searchOver_frame (h : Frame ps s t) (hm : Within [.flights, .vecs, .run, .slc, .time, .counters, .led, .ifl, .nfc, .outs] ps) (a1) (a2) : Frame ps s (searchOver a1 a2 t) := by
  unfold searchOver
  repeat'
    first
    | (show Within _ _; exact Within.trans (by decide) hm)
    | intro _
    | with_reducible (first | assumption | apply noMoreCards_frame | apply nodeAnswer_frame | apply carrierOff_frame | apply pollOver_frame | apply ite_frame)
    | split

theorem activated_frame (h : Frame ps s t) (hm : Within [.vecs, .time, .counters, .ifl, .nfc, .outs] ps) (a1) (a2) : Frame ps s (activated a1 a2 t) := by
  unfold activated
  repeat'
    first
    | (show Within _ _; exact Within.trans (by decide) hm)
    | intro _
    | with_reducible (first | assumption | apply modReader_frame | apply nodeAnswer_frame | apply cardActive_frame | apply onlyIf_frame | apply elapseNs_frame | apply ite_frame)
    | split
    | (extract_lets +onlyGivenNames x; first | (refine (fun hx : Frame ps s x => ?_) ?_ <;> [clear_value x; subst x]) | clear_value x)

theorem actAnswer_frame (h : Frame ps s t) (hm : Within [.flights, .vecs, .run, .slc, .time, .counters, .led, .ifl, .nfc, .outs] ps) (a1) (a2) (a3) : Frame ps s (actAnswer a1 a2 a3 t) := by
  unfold actAnswer
  repeat'
    first
    | (show Within _ _; exact Within.trans (by decide) hm)
    | intro _
    | with_reducible (first | assumption | apply sendAct_frame | apply beginSearch_frame | apply emit_frame | apply activated_frame | apply searchOver_frame)
    | split

theorem blockMissing_frame (h : Frame ps s t) (hm : Within [.flights, .run, .slc, .led, .ifl, .nfc, .outs] ps) (a1) : Frame ps s (blockMissing a1 t) := by
  unfold blockMissing
  repeat'
    first
    | (show Within _ _; exact Within.trans (by decide) hm)
    | intro _
    | with_reducible (first | assumption | apply ceilingHit_frame | apply putXchg_frame | apply emit_frame | apply cardLost_frame | apply ite_frame)
    | split

theorem wholeAnswer_frame (h : Frame ps s t) (hm : Within [.flights, .vecs, .run, .slc, .time, .counters, .led, .sec, .ifl, .nfc, .outs, .free] ps) (a1) (a2) (a3) (a4) : Frame ps s (wholeAnswer a1 a2 a3 a4 t) := by
  unfold wholeAnswer
  repeat'
    first
    | (show Within _ _; exact Within.trans (by decide) hm)
    | intro _
    | with_reducible (first | assumption | apply apduAnswer_frame | apply nodeAnswer_frame | apply sendApdu_frame | apply pollFound_frame | apply ite_frame)
    | split

theorem exchangeBlock_frame (h : Frame ps s t) (hm : Within [.flights, .vecs, .run, .slc, .time, .counters, .led, .sec, .ifl, .nfc, .outs, .free] ps) (a1) (a2) (a3) : Frame ps s (exchangeBlock a1 a2 a3 t) := by
  unfold exchangeBlock
  repeat'
    first
    | (show Within _ _; exact Within.trans (by decide) hm)
    | intro _
    | with_reducible (first | assumption | apply blockMissing_frame | apply sendBlock_frame | apply putXchg_frame | apply emit_frame | apply wholeAnswer_frame | apply cardLost_frame | apply ite_frame)
    | split

theorem remoteAnswer_frame (h : Frame ps s t) (hm : Within [.flights, .vecs, .run, .slc, .time, .counters, .led, .sec, .ifl, .nfc, .outs, .free] ps) (a1) (a2) (a3) (a4) : Frame ps s (remoteAnswer a1 a2 a3 a4 t) := by
  unfold remoteAnswer
  repeat'
    first
    | (show Within _ _; exact Within.trans (by decide) hm)
    | intro _
    | with_reducible (first | assumption | apply cardActive_frame | apply noMoreCards_frame | apply cardLost_frame | apply apduAnswer_frame | apply ceilingHit_frame | apply endLost_frame | apply ite_frame)
    | split

theorem execCardResponse_frame (h : Frame ps s t) (hm : Within [.flights, .vecs, .run, .slc, .time, .counters, .led, .sec, .ifl, .nfc, .outs, .free] ps) (a1) (a2) (a3) : OutFrame ps s (execCardResponse a1 a2 a3 t) := by
  unfold execCardResponse
  repeat'
    first
    | (show Within _ _; exact Within.trans (by decide) hm)
    | intro _
    | with_reducible (first | assumption | apply OutFrame.next | apply actAnswer_frame | apply exchangeBlock_frame | apply remoteAnswer_frame | apply ite_frame)
    | split

theorem execWtxRequest_frame (h : Frame ps s t) (hm : Within [.flights, .vecs, .run, .slc, .time, .counters, .led, .ifl, .nfc, .outs] ps) (a1) (a2) : OutFrame ps s (execWtxRequest a1 a2 t) := by
  unfold execWtxRequest
  repeat'
    first
    | (show Within _ _; exact Within.trans (by decide) hm)
    | intro _
    | with_reducible (first | assumption | apply OutFrame.next | apply blockMissing_frame | apply elapseNs_frame | apply ceilingHit_frame | apply putXchg_frame | apply emit_frame | apply ite_frame)
    | split
    | (extract_lets +onlyGivenNames x; first | (refine (fun hx : Frame ps s x => ?_) ?_ <;> [clear_value x; subst x]) | clear_value x)

theorem execFrameWaitExpiry_frame (h : Frame ps s t) (hm : Within [.flights, .vecs, .run, .slc, .time, .counters, .led, .ifl, .nfc, .outs] ps) (a1) : OutFrame ps s (execFrameWaitExpiry a1 t) := by
  unfold execFrameWaitExpiry
  repeat'
    first
    | (show Within _ _; exact Within.trans (by decide) hm)
    | intro _
    | with_reducible (first | assumption | apply OutFrame.next | apply elapseTo_frame | apply actAnswer_frame | apply blockMissing_frame | apply ite_frame)
    | split
    | (extract_lets +onlyGivenNames x; first | (refine (fun hx : Frame ps s x => ?_) ?_ <;> [clear_value x; subst x]) | clear_value x)

theorem readerOut_frame (h : Frame ps s t) (hm : Within [.flights, .vecs, .run, .slc, .led, .flt, .ifl, .nfc, .outs] ps) (a1) (a2) : Frame ps s (readerOut a1 a2 t) := by
  unfold readerOut
  repeat'
    first
    | (show Within _ _; exact Within.trans (by decide) hm)
    | intro _
    | with_reducible (first | assumption | apply nfcEvent_frame | apply outOfService_frame | apply modReader_frame | apply fault_frame | apply readerLost_frame)

theorem detTime_frame (h : Frame ps s t) (hm : Within [.vecs, .time, .counters, .outs] ps) (a1) : Frame ps s (detTime a1 t) := by
  unfold detTime
  repeat'
    first
    | (show Within _ _; exact Within.trans (by decide) hm)
    | intro _
    | with_reducible (first | assumption | apply elapseTo_frame)
    | split

theorem execNfcDetection_frame (h : Frame ps s t) (hm : Within [.flights, .vecs, .run, .slc, .time, .counters, .led, .flt, .ifl, .nfc, .outs] ps) (a1) (a2) (a3) (a4) (a5) : OutFrame ps s (execNfcDetection a1 a2 a3 a4 a5 t) := by
  unfold execNfcDetection
  repeat'
    first
    | (show Within _ _; exact Within.trans (by decide) hm)
    | intro _
    | with_reducible (first | assumption | apply OutFrame.next | apply detTime_frame | apply emit_frame | apply readerOut_frame | apply modReader_frame | apply activateCard_frame | apply ite_frame)
    | split
    | (extract_lets +onlyGivenNames x; first | (refine (fun hx : Frame ps s x => ?_) ?_ <;> [clear_value x; subst x]) | clear_value x)

theorem execReaderRetry_frame (h : Frame ps s t) (hm : Within [.vecs, .time, .counters, .led, .flt, .nfc, .outs] ps) (a1) (a2) : OutFrame ps s (execReaderRetry a1 a2 t) := by
  unfold execReaderRetry
  repeat'
    first
    | (show Within _ _; exact Within.trans (by decide) hm)
    | intro _
    | with_reducible (first | assumption | apply OutFrame.next | apply elapseTo_frame | apply backInService_frame | apply modReader_frame | apply fault_frame | apply ite_frame)
    | split
    | (extract_lets +onlyGivenNames x; first | (refine (fun hx : Frame ps s x => ?_) ?_ <;> [clear_value x; subst x]) | clear_value x)

theorem nfcStart_frame (h : Frame ps s t) (hm : Within [.flights, .run, .slc, .led] ps) (a1) (a2) (f1 : _ → _ → State → State) (hf1 : ∀ a b {t}, Frame ps s t → Frame ps s (f1 a b t)) : Frame ps s (nfcStart a1 a2 f1 t) := by
  unfold nfcStart
  repeat'
    first
    | (show Within _ _; exact Within.trans (by decide) hm)
    | intro _
    | with_reducible (first | assumption | apply hf1 | apply startOp_frame | apply settle_frame | apply ite_frame)
    | split

theorem execCardAuth_frame (h : Frame ps s t) (hm : Within [.flights, .vecs, .run, .slc, .time, .counters, .led, .ifl, .nfc, .outs] ps) (a1) : OutFrame ps s (execCardAuth a1 t) := by
  unfold execCardAuth
  repeat'
    first
    | (show Within _ _; exact Within.trans (by decide) hm)
    | intro _
    | with_reducible (first | assumption | apply OutFrame.next | apply nfcStart_frame | apply activateCard_frame)

theorem execSealScan_frame (h : Frame ps s t) (hm : Within [.flights, .vecs, .run, .slc, .time, .counters, .led, .ifl, .nfc, .outs] ps) (a1) : OutFrame ps s (execSealScan a1 t) := by
  unfold execSealScan
  repeat'
    first
    | (show Within _ _; exact Within.trans (by decide) hm)
    | intro _
    | with_reducible (first | assumption | apply OutFrame.next | apply nfcStart_frame | apply activateCard_frame)

theorem sealStart_frame (h : Frame ps s t) (hm : Within [.flights, .vecs, .run, .slc, .time, .counters, .led, .ifl, .nfc, .outs] ps) (a1) (a2) : Frame ps s (sealStart a1 a2 t) := by
  unfold sealStart
  repeat'
    first
    | (show Within _ _; exact Within.trans (by decide) hm)
    | intro _
    | with_reducible (first | assumption | apply nfcStart_frame | apply settle_frame | apply activateCard_frame | apply ite_frame)
    | split

theorem execSealSecure_frame (h : Frame ps s t) (hm : Within [.flights, .vecs, .run, .slc, .time, .counters, .led, .ifl, .nfc, .outs] ps) (a1) : OutFrame ps s (execSealSecure a1 t) := by
  unfold execSealSecure
  repeat'
    first
    | (show Within _ _; exact Within.trans (by decide) hm)
    | intro _
    | with_reducible (first | assumption | apply OutFrame.next | apply sealStart_frame)

theorem execSealOpen_frame (h : Frame ps s t) (hm : Within [.flights, .vecs, .run, .slc, .time, .counters, .led, .ifl, .nfc, .outs] ps) (a1) : OutFrame ps s (execSealOpen a1 t) := by
  unfold execSealOpen
  repeat'
    first
    | (show Within _ _; exact Within.trans (by decide) hm)
    | intro _
    | with_reducible (first | assumption | apply OutFrame.next | apply sealStart_frame)

theorem execSealRead_frame (h : Frame ps s t) (hm : Within [.flights, .vecs, .run, .slc, .time, .counters, .led, .ifl, .nfc, .outs] ps) (a1) : OutFrame ps s (execSealRead a1 t) := by
  unfold execSealRead
  repeat'
    first
    | (show Within _ _; exact Within.trans (by decide) hm)
    | intro _
    | with_reducible (first | assumption | apply OutFrame.next | apply sealStart_frame)

theorem execCapRead_frame (h : Frame ps s t) (hm : Within [.flights, .run, .slc, .led, .outs] ps) (a1) (a2) : OutFrame ps s (execCapRead a1 a2 t) := by
  unfold execCapRead
  repeat'
    first
    | (show Within _ _; exact Within.trans (by decide) hm)
    | intro _
    | with_reducible (first | assumption | apply OutFrame.next | apply startOp_frame | apply writeAndSettle_frame)

theorem retireLane_frame (h : Frame ps s t) (hm : Within [.vecs, .led, .flt, .sec, .outs] ps) (a1) (a2) (a3) : Frame ps s (retireLane a1 a2 a3 t) := by
  unfold retireLane
  repeat'
    first
    | (show Within _ _; exact Within.trans (by decide) hm)
    | intro _
    | with_reducible (first | assumption | apply modLane_frame | apply changeUnit_frame)
    | split
    | (extract_lets +onlyGivenNames x; first | (refine (fun hx : Frame ps s x => ?_) ?_ <;> [clear_value x; subst x]) | clear_value x)

theorem wakeLane_frame (h : Frame ps s t) (hm : Within [.sec] ps) : Frame ps s (wakeLane t) := by
  unfold wakeLane
  repeat'
    first
    | (show Within _ _; exact Within.trans (by decide) hm)
    | intro _
    | with_reducible (first | assumption | apply modLane_frame)
    | split

theorem moveWork_frame (h : Frame ps s t) (hm : Within [.pwr, .flights, .run, .slc, .led, .sec, .radio, .outs, .free] ps) (a1) : Frame ps s (moveWork a1 t) := by
  unfold moveWork
  repeat'
    first
    | (show Within _ _; exact Within.trans (by decide) hm)
    | intro _
    | with_reducible (first | assumption | apply modFlight_frame | apply restartPoll_frame | apply ite_frame)
    | split
    | (extract_lets +onlyGivenNames x; first | (refine (fun hx : Frame ps s x => ?_) ?_ <;> [clear_value x; subst x]) | clear_value x)

theorem execLaneFault_frame (h : Frame ps s t) (hm : Within [.pwr, .flights, .vecs, .run, .slc, .led, .flt, .sec, .radio, .outs, .free] ps) (a1) (a2) : OutFrame ps s (execLaneFault a1 a2 t) := by
  unfold execLaneFault
  repeat'
    first
    | (show Within _ _; exact Within.trans (by decide) hm)
    | intro _
    | with_reducible (first | assumption | apply OutFrame.next | apply keyEvent_frame | apply moveWork_frame | apply modLane_frame | apply fault_frame | apply onlyIf_frame | apply wakeLane_frame | apply retireLane_frame | apply changeUnit_frame | apply ite_frame)
    | split
    | (extract_lets +onlyGivenNames x; first | (refine (fun hx : Frame ps s x => ?_) ?_ <;> [clear_value x; subst x]) | clear_value x)

theorem execLaneRetest_frame (h : Frame ps s t) (hm : Within [.vecs, .led, .flt, .sec, .outs] ps) (a1) (a2) : OutFrame ps s (execLaneRetest a1 a2 t) := by
  unfold execLaneRetest
  repeat'
    first
    | (show Within _ _; exact Within.trans (by decide) hm)
    | intro _
    | with_reducible (first | assumption | apply OutFrame.next | apply backInService_frame | apply modLane_frame | apply fault_frame | apply retireLane_frame | apply ite_frame)
    | split

theorem execLaneOverheat_frame (h : Frame ps s t) (hm : Within [.vecs, .led, .flt, .sec, .outs] ps) (a1) : OutFrame ps s (execLaneOverheat a1 t) := by
  unfold execLaneOverheat
  repeat'
    first
    | (show Within _ _; exact Within.trans (by decide) hm)
    | intro _
    | with_reducible (first | assumption | apply OutFrame.next | apply onlyIf_frame | apply wakeLane_frame | apply changeUnit_frame | apply modLane_frame | apply fault_frame | apply ite_frame)
    | split

theorem execLaneCooled_frame (h : Frame ps s t) (hm : Within [.vecs, .led, .flt, .sec, .outs] ps) (a1) (a2) : OutFrame ps s (execLaneCooled a1 a2 t) := by
  unfold execLaneCooled
  repeat'
    first
    | (show Within _ _; exact Within.trans (by decide) hm)
    | intro _
    | with_reducible (first | assumption | apply OutFrame.next | apply modLane_frame | apply backInService_frame | apply fault_frame | apply ite_frame)
    | split
    | (extract_lets +onlyGivenNames x; first | (refine (fun hx : Frame ps s x => ?_) ?_ <;> [clear_value x; subst x]) | clear_value x)

theorem execLockReq_frame (h : Frame ps s t) (hm : Within [.flights, .run, .slc, .led, .slk, .outs] ps) (a1) : OutFrame ps s (execLockReq a1 t) := by
  unfold execLockReq
  repeat'
    first
    | (show Within _ _; exact Within.trans (by decide) hm)
    | intro _
    | with_reducible (first | assumption | apply OutFrame.next | apply startOp_frame | apply lockRequest_frame | apply settle_frame)
    | split
    | (extract_lets +onlyGivenNames x; first | (refine (fun hx : Frame ps s x => ?_) ?_ <;> [clear_value x; subst x]) | clear_value x)

theorem execLockStatus_frame (h : Frame ps s t) (hm : Within [.flights, .run, .slc, .led, .outs] ps) (a1) (a2) : OutFrame ps s (execLockStatus a1 a2 t) := by
  unfold execLockStatus
  repeat'
    first
    | (show Within _ _; exact Within.trans (by decide) hm)
    | intro _
    | with_reducible (first | assumption | apply OutFrame.next | apply startOp_frame | apply writeAndSettle_frame)

theorem execArmHoldExpiry_frame (h : Frame ps s t) (hm : Within [.vecs, .time, .counters, .led, .slk, .outs] ps) : OutFrame ps s (execArmHoldExpiry t) := by
  unfold execArmHoldExpiry
  repeat'
    first
    | (show Within _ _; exact Within.trans (by decide) hm)
    | intro _
    | with_reducible (first | assumption | apply OutFrame.next | apply elapseTo_frame | apply moveLatch_frame | apply ite_frame)
    | split
    | (extract_lets +onlyGivenNames x; first | (refine (fun hx : Frame ps s x => ?_) ?_ <;> [clear_value x; subst x]) | clear_value x)

theorem execIgnitionOffDebounce_frame (h : Frame ps s t) (hm : Within [.vecs, .time, .counters, .led, .slk, .outs] ps) : OutFrame ps s (execIgnitionOffDebounce t) := by
  unfold execIgnitionOffDebounce
  repeat'
    first
    | (show Within _ _; exact Within.trans (by decide) hm)
    | intro _
    | with_reducible (first | assumption | apply OutFrame.next | apply modSlk_frame | apply elapseTo_frame | apply lockRequest_frame | apply ite_frame)
    | split
    | (extract_lets +onlyGivenNames x; first | (refine (fun hx : Frame ps s x => ?_) ?_ <;> [clear_value x; subst x]) | clear_value x)

theorem execReleaseWindowExpiry_frame (h : Frame ps s t) (hm : Within [.vecs, .time, .counters, .led, .slk, .outs] ps) : OutFrame ps s (execReleaseWindowExpiry t) := by
  unfold execReleaseWindowExpiry
  repeat'
    first
    | (show Within _ _; exact Within.trans (by decide) hm)
    | intro _
    | with_reducible (first | assumption | apply OutFrame.next | apply elapseToNs_frame | apply elapseTo_frame | apply modSlk_frame | apply windowExpired_frame | apply ite_frame)
    | split
    | (extract_lets +onlyGivenNames x; first | (refine (fun hx : Frame ps s x => ?_) ?_ <;> [clear_value x; subst x]) | clear_value x)

theorem execLockHoldExpiry_frame (h : Frame ps s t) (hm : Within [.vecs, .time, .counters, .led, .slk, .outs] ps) : OutFrame ps s (execLockHoldExpiry t) := by
  unfold execLockHoldExpiry
  repeat'
    first
    | (show Within _ _; exact Within.trans (by decide) hm)
    | intro _
    | with_reducible (first | assumption | apply OutFrame.next | apply elapseTo_frame | apply moveLatch_frame | apply holdUpdate_frame | apply ite_frame)
    | split
    | (extract_lets +onlyGivenNames x; first | (refine (fun hx : Frame ps s x => ?_) ?_ <;> [clear_value x; subst x]) | clear_value x)

theorem reconcileMove_frame (h : Frame ps s t) (hm : Within [.led, .slk, .outs] ps) : Frame ps s (reconcileMove t) := by
  unfold reconcileMove
  repeat'
    first
    | (show Within _ _; exact Within.trans (by decide) hm)
    | intro _
    | with_reducible (first | assumption | apply moveLatch_frame | apply onlyIf_frame | apply noRelease_frame | apply startTimer_frame | apply ite_frame)
    | split
    | (extract_lets +onlyGivenNames x; first | (refine (fun hx : Frame ps s x => ?_) ?_ <;> [clear_value x; subst x]) | clear_value x)

theorem retryCause_frame (h : Frame ps s t) (hm : Within [.led, .slk, .outs] ps) (a1) : Frame ps s (retryCause a1 t) := by
  unfold retryCause
  repeat'
    first
    | (show Within _ _; exact Within.trans (by decide) hm)
    | intro _
    | with_reducible (first | assumption | apply lockRequest_frame | apply windowExpired_frame | apply moveLatch_frame | apply engineChange_frame | apply reconcileMove_frame | apply ite_frame)
    | split
    | (extract_lets +onlyGivenNames x; first | (refine (fun hx : Frame ps s x => ?_) ?_ <;> [clear_value x; subst x]) | clear_value x)

theorem execSlkLedgerRetry_frame (h : Frame ps s t) (hm : Within [.vecs, .time, .counters, .led, .slk, .outs] ps) : OutFrame ps s (execSlkLedgerRetry t) := by
  unfold execSlkLedgerRetry
  repeat'
    first
    | (show Within _ _; exact Within.trans (by decide) hm)
    | intro _
    | with_reducible (first | assumption | apply OutFrame.next | apply each_frame | apply retryCause_frame | apply modSlk_frame | apply elapseTo_frame | apply ite_frame)
    | split
    | (extract_lets +onlyGivenNames x; first | (refine (fun hx : Frame ps s x => ?_) ?_ <;> [clear_value x; subst x]) | clear_value x)

theorem execStateFramePeriod_frame (h : Frame ps s t) (hm : Within [.vecs, .time, .counters, .led, .slk, .outs] ps) : OutFrame ps s (execStateFramePeriod t) := by
  unfold execStateFramePeriod
  repeat'
    first
    | (show Within _ _; exact Within.trans (by decide) hm)
    | intro _
    | with_reducible (first | assumption | apply OutFrame.next | apply sendState_frame | apply elapseTo_frame | apply ite_frame)
    | split

theorem execReconciliation_frame (h : Frame ps s t) (hm : Within [.vecs, .time, .counters, .led, .slk, .outs] ps) : OutFrame ps s (execReconciliation t) := by
  unfold execReconciliation
  repeat'
    first
    | (show Within _ _; exact Within.trans (by decide) hm)
    | intro _
    | with_reducible (first | assumption | apply OutFrame.next | apply modSlk_frame | apply elapseTo_frame | apply reconcileMove_frame | apply onlyIf_frame | apply lockRequest_frame | apply flagsCheck_frame | apply ite_frame)
    | split
    | (extract_lets +onlyGivenNames x; first | (refine (fun hx : Frame ps s x => ?_) ?_ <;> [clear_value x; subst x]) | clear_value x)

theorem execCanBusOff_frame (h : Frame ps s t) (hm : Within [.vecs, .led, .flt, .slk, .outs] ps) (a1) : OutFrame ps s (execCanBusOff a1 t) := by
  unfold execCanBusOff
  repeat'
    first
    | (show Within _ _; exact Within.trans (by decide) hm)
    | intro _
    | with_reducible (first | assumption | apply OutFrame.next | apply modFlt_frame | apply modSlk_frame | apply fault_frame | apply flagsCheck_frame | apply onlyIf_frame | apply slkEvent_frame | apply ite_frame)
    | split
    | (extract_lets +onlyGivenNames x; first | (refine (fun hx : Frame ps s x => ?_) ?_ <;> [clear_value x; subst x]) | clear_value x)

theorem execCanBusoffRecovery_frame (h : Frame ps s t) (hm : Within [.vecs, .time, .counters, .led, .flt, .slk, .outs] ps) (a1) : OutFrame ps s (execCanBusoffRecovery a1 t) := by
  unfold execCanBusoffRecovery
  repeat'
    first
    | (show Within _ _; exact Within.trans (by decide) hm)
    | intro _
    | with_reducible (first | assumption | apply OutFrame.next | apply elapseTo_frame | apply flagsCheck_frame | apply modFlt_frame | apply modSlk_frame)
    | split
    | (extract_lets +onlyGivenNames x; first | (refine (fun hx : Frame ps s x => ?_) ?_ <;> [clear_value x; subst x]) | clear_value x)

theorem execCanPortReturn_frame (h : Frame ps s t) (hm : Within [.vecs, .time, .counters, .led, .slk, .outs] ps) (a1) : OutFrame ps s (execCanPortReturn a1 t) := by
  unfold execCanPortReturn
  repeat'
    first
    | (show Within _ _; exact Within.trans (by decide) hm)
    | intro _
    | with_reducible (first | assumption | apply OutFrame.next | apply flagsCheck_frame | apply modSlk_frame | apply elapseTo_frame)
    | split

theorem execSlkMismatch_frame (h : Frame ps s t) (hm : Within [.vecs, .led, .flt, .outs] ps) (a1) (a2) : OutFrame ps s (execSlkMismatch a1 a2 t) := by
  unfold execSlkMismatch
  repeat'
    first
    | (show Within _ _; exact Within.trans (by decide) hm)
    | intro _
    | with_reducible (first | assumption | apply OutFrame.next | apply writeFault_frame | apply modFlt_frame | apply fault_frame | apply ite_frame)
    | split
    | (extract_lets +onlyGivenNames x; first | (refine (fun hx : Frame ps s x => ?_) ?_ <;> [clear_value x; subst x]) | clear_value x)

end Sys2Proof.Machine
end

