-- ==== Sys2Proof/Laws/FrameWrits.lean ====
section
/-! SUPPORT. Which parts of the state the operations of Writs, UpdOps, IflLink, Update can change (Safety.Frame), one lemma each, in the order of their definitions. -/

set_option linter.unusedTactic false
set_option linter.unreachableTactic false
set_option linter.unusedSimpArgs false
set_option linter.unusedVariables false

namespace Sys2Proof.Machine

variable {ps : List Part} {s t : State}

theorem writSigned_frame (h : Frame ps s t) (hm : Within [.sec] ps) (a1) (a2) : Frame ps s (writSigned a1 a2 t).2 := by
  induction a2 generalizing t with
  | nil => exact h
  | cons b l ih =>
    unfold writSigned
    extract_lets c
    split
    · exact ih (pkeRan_frame h (hm.sub (by decide)) _)
    · exact pkeRan_frame h (hm.sub (by decide)) _

theorem markGone_frame (h : Frame ps s t) (hm : Within [.rings] ps) (a1) : Frame ps s (markGone a1 t) := by
  unfold markGone
  repeat'
    first
    | (show Within _ _; exact Within.trans (by decide) hm)
    | intro _
    | with_reducible (first | assumption | apply each_frame | apply onlyIf_frame | apply modFunc_frame)
    | split
    | (extract_lets +onlyGivenNames x; first | (refine (fun hx : Frame ps s x => ?_) ?_ <;> [clear_value x; subst x]) | clear_value x)

theorem installSetup_frame (h : Frame ps s t) (hm : Within [.pwr, .flights, .vecs, .rings, .run, .slc, .led, .sec] ps) (a1) : Frame ps s (installSetup a1 t) := by
  unfold installSetup
  repeat'
    first
    | (show Within _ _; exact Within.trans (by decide) hm)
    | intro _
    | with_reducible (first | assumption | apply markGone_frame | apply settleBuckets_frame | apply modSlc_frame | apply modHost_frame | apply modPwr_frame | apply each_frame | apply drainRing_frame | apply closeHandlesOf_frame)
    | split
    | (extract_lets +onlyGivenNames x; first | (refine (fun hx : Frame ps s x => ?_) ?_ <;> [clear_value x; subst x]) | (refine (fun hx : Frame ps s x.2 => ?_) ?_ <;> [clear_value x; subst x]) | (refine (fun hx : Frame ps s x.1 => ?_) ?_ <;> [clear_value x; subst x]) | clear_value x)

theorem applyDebug_frame (h : Frame ps s t) (hm : Within [.pwr, .vecs, .rings, .flt, .upd, .outs] ps) (a1) : Frame ps s (applyDebug a1 t) := by
  unfold applyDebug
  repeat'
    first
    | (show Within _ _; exact Within.trans (by decide) hm)
    | intro _
    | with_reducible (first | assumption | apply closeDebug_frame | apply onlyIf_frame | apply enterService_frame | apply modFlt_frame | apply ite_frame)
    | split
    | (extract_lets +onlyGivenNames x; first | (refine (fun hx : Frame ps s x => ?_) ?_ <;> [clear_value x; subst x]) | clear_value x)

theorem writEffect_frame (h : Frame ps s t) (hm : Within [.pwr, .flights, .vecs, .rings, .run, .slc, .time, .counters, .clk, .led, .flt, .sec, .slk, .radio, .upd, .outs] ps) (a1) : Frame ps s (writEffect a1 t) := by
  unfold writEffect
  repeat'
    first
    | (show Within _ _; exact Within.trans (by decide) hm)
    | intro _
    | with_reducible (first | assumption | apply installSetup_frame | apply applyDebug_frame | apply flagsCheck_frame | apply modSlk_frame | apply modRadio_frame | apply lockWatch_frame | apply modClk_frame | apply ite_frame)
    | split
    | (extract_lets +onlyGivenNames x; first | (refine (fun hx : Frame ps s x => ?_) ?_ <;> [clear_value x; subst x]) | clear_value x)

theorem writFail_frame (h : Frame ps s t) (hm : Within [.flights, .run, .slc, .led] ps) (a1) (a2) : Frame ps s (writFail a1 a2 t) := by
  unfold writFail
  repeat'
    first
    | (show Within _ _; exact Within.trans (by decide) hm)
    | intro _
    | with_reducible (first | assumption | apply settle_frame)

theorem writRun_frame (h : Frame ps s t) (hm : Within [.flights, .run, .slc, .led, .sec] ps) (a1) (a2) (a3) (f1 : Bytes → State → State)
    (hf1 : ∀ a {t}, Frame ps s t → Frame ps s (f1 a t)) : Frame ps s (writRun a1 a2 a3 f1 t) := by
  unfold writRun
  split
  · exact writFail_frame h (hm.sub (by decide)) _ _
  · split
    · exact writFail_frame h (hm.sub (by decide)) _ _
    · rename_i w _ _ _
      have k := writSigned_frame h (hm.sub (by decide)) w (sigBlocks w)
      generalize writSigned w (sigBlocks w) t = p at k
      obtain ⟨g, u⟩ := p
      dsimp only
      split
      · exact writFail_frame k (hm.sub (by decide)) _ _
      · have k := atStage_frame k (hm.sub (by decide)) a1 0x01 0
        split
        · exact writFail_frame k (hm.sub (by decide)) _ _
        · split
          · exact writFail_frame k (hm.sub (by decide)) _ _
          · exact hf1 _ k

theorem writCommit_frame (h : Frame ps s t) (hm : Within [.pwr, .flights, .vecs, .rings, .run, .slc, .time, .counters, .clk, .led, .flt, .sec, .slk, .radio, .upd, .outs] ps) (a1) (a2) : Frame ps s (writCommit a1 a2 t) := by
  unfold writCommit
  repeat'
    first
    | (show Within _ _; exact Within.trans (by decide) hm)
    | intro _
    | with_reducible (first | assumption | apply logRec_frame | apply modSlc_frame | apply atStage_frame | apply writEffect_frame)
    | split
    | (extract_lets +onlyGivenNames x; first | (refine (fun hx : Frame ps s x => ?_) ?_ <;> [clear_value x; subst x]) | clear_value x)

theorem execWritApply_frame (h : Frame ps s t) (hm : Within [.pwr, .flights, .vecs, .rings, .run, .slc, .time, .counters, .clk, .led, .flt, .sec, .slk, .radio, .upd, .outs] ps) (a1) (a2) : OutFrame ps s (execWritApply a1 a2 t) := by
  unfold execWritApply
  repeat'
    first
    | (show Within _ _; exact Within.trans (by decide) hm)
    | intro _
    | with_reducible (first | assumption | apply OutFrame.next | apply startOp_frame | apply writRun_frame | apply writFail_frame | apply writCommit_frame | apply ite_frame)
    | split

theorem execWritCheck_frame (h : Frame ps s t) (hm : Within [.flights, .run, .slc, .led, .sec] ps) (a1) (a2) : OutFrame ps s (execWritCheck a1 a2 t) := by
  unfold execWritCheck
  repeat'
    first
    | (show Within _ _; exact Within.trans (by decide) hm)
    | intro _
    | with_reducible (first | assumption | apply OutFrame.next | apply startOp_frame | apply writRun_frame | apply settle_frame)

theorem execWritSettle_frame (h : Frame ps s t) (hm : Within [.flights, .run, .slc, .led] ps) (a1) : OutFrame ps s (execWritSettle a1 t) := by
  unfold execWritSettle
  repeat'
    first
    | (show Within _ _; exact Within.trans (by decide) hm)
    | intro _
    | with_reducible (first | assumption | apply OutFrame.next | apply onOp_frame | apply settle_frame | apply modSlc_frame | apply ite_frame)
    | split

theorem execWritStatus_frame (h : Frame ps s t) (hm : Within [.flights, .run, .slc, .led, .outs] ps) (a1) (a2) : OutFrame ps s (execWritStatus a1 a2 t) := by
  unfold execWritStatus
  repeat'
    first
    | (show Within _ _; exact Within.trans (by decide) hm)
    | intro _
    | with_reducible (first | assumption | apply OutFrame.next | apply startOp_frame | apply writeAndSettle_frame)

theorem journal_frame (h : Frame ps s t) (hm : Within [.upd] ps) (a1) : Frame ps s (journal a1 t) := by
  unfold journal
  repeat'
    first
    | (show Within _ _; exact Within.trans (by decide) hm)
    | intro _
    | with_reducible (first | assumption | apply modUpd_frame)

theorem slotState_frame (h : Frame ps s t) (hm : Within [.upd] ps) (a1) (a2) : Frame ps s (slotState a1 a2 t) := by
  unfold slotState
  repeat'
    first
    | (show Within _ _; exact Within.trans (by decide) hm)
    | intro _
    | with_reducible (first | assumption | apply journal_frame)

theorem putBlock_frame (h : Frame ps s t) (hm : Within [.upd] ps) (a1) (a2) (a3) : Frame ps s (putBlock a1 a2 a3 t) := by
  unfold putBlock
  repeat'
    first
    | (show Within _ _; exact Within.trans (by decide) hm)
    | intro _
    | with_reducible (first | assumption | apply modUpd_frame)

theorem updEvent_frame (h : Frame ps s t) (hm : Within [.upd] ps) (a1) : Frame ps s (updEvent a1 t) := by
  unfold updEvent
  repeat'
    first
    | (show Within _ _; exact Within.trans (by decide) hm)
    | intro _
    | with_reducible (first | assumption | apply modUpd_frame)

theorem sendMsg_frame (h : Frame ps s t) (hm : Within [.ifl, .outs] ps) (a1) (a2) : Frame ps s (sendMsg a1 a2 t) := by
  unfold sendMsg
  repeat'
    first
    | (show Within _ _; exact Within.trans (by decide) hm)
    | intro _
    | with_reducible (first | assumption | apply sendData_frame | apply onlyIf_frame | apply emit_frame)
    | split

theorem answer_frame (h : Frame ps s t) (hm : Within [.ifl, .outs] ps) (a1) (a2) (a3) (a4) : Frame ps s (answer a1 a2 a3 a4 t) := by
  unfold answer
  repeat'
    first
    | (show Within _ _; exact Within.trans (by decide) hm)
    | intro _
    | with_reducible (first | assumption | apply sendMsg_frame | apply ite_frame)
    | split
    | (extract_lets +onlyGivenNames x; first | (refine (fun hx : Frame ps s x => ?_) ?_ <;> [clear_value x; subst x]) | clear_value x)

theorem sendSched_frame (h : Frame ps s t) (hm : Within [.ifl, .outs] ps) (a1) : Frame ps s (sendSched a1 t) := by
  unfold sendSched
  repeat'
    first
    | (show Within _ _; exact Within.trans (by decide) hm)
    | intro _
    | with_reducible (first | assumption | apply sendData_frame)
    | split

theorem resendSched_frame (h : Frame ps s t) (hm : Within [.ifl, .outs] ps) (a1) : Frame ps s (resendSched a1 t) := by
  unfold resendSched
  repeat'
    first
    | (show Within _ _; exact Within.trans (by decide) hm)
    | intro _
    | with_reducible (first | assumption | apply sendSched_frame | apply ite_frame)
    | split

theorem offerTo_frame (h : Frame ps s t) (hm : Within [.ifl, .upd, .outs] ps) (a1) (a2) (a3) : Frame ps s (offerTo a1 a2 a3 t) := by
  unfold offerTo
  repeat'
    first
    | (show Within _ _; exact Within.trans (by decide) hm)
    | intro _
    | with_reducible (first | assumption | apply sendMsg_frame | apply modUpd_frame)
    | split
    | (extract_lets +onlyGivenNames x; first | (refine (fun hx : Frame ps s x => ?_) ?_ <;> [clear_value x; subst x]) | clear_value x)

theorem pushOffers_frame (h : Frame ps s t) (hm : Within [.ifl, .upd, .outs] ps) : Frame ps s (pushOffers t) := by
  unfold pushOffers
  repeat'
    first
    | (show Within _ _; exact Within.trans (by decide) hm)
    | intro _
    | with_reducible (first | assumption | apply each_frame | apply offerTo_frame | apply ite_frame)
    | split

theorem pushDone_frame (h : Frame ps s t) (hm : Within [.flights, .run, .slc, .led, .upd] ps) : Frame ps s (pushDone t) := by
  unfold pushDone
  repeat'
    first
    | (show Within _ _; exact Within.trans (by decide) hm)
    | intro _
    | with_reducible (first | assumption | apply modUpd_frame | apply settle_frame | apply ite_frame)
    | split
    | (extract_lets +onlyGivenNames x; first | (refine (fun hx : Frame ps s x => ?_) ?_ <;> [clear_value x; subst x]) | clear_value x)

theorem pushClosed_frame (h : Frame ps s t) (hm : Within [.upd] ps) (a1) (a2) : Frame ps s (pushClosed a1 a2 t) := by
  unfold pushClosed
  repeat'
    first
    | (show Within _ _; exact Within.trans (by decide) hm)
    | intro _
    | with_reducible (first | assumption | apply modUpd_frame | apply ite_frame)
    | split
    | (extract_lets +onlyGivenNames x; first | (refine (fun hx : Frame ps s x => ?_) ?_ <;> [clear_value x; subst x]) | clear_value x)

theorem offerPast_frame (h : Frame ps s t) (hm : Within [.ifl, .upd, .outs] ps) (a1) : Frame ps s (offerPast a1 t) := by
  unfold offerPast
  repeat'
    first
    | (show Within _ _; exact Within.trans (by decide) hm)
    | intro _
    | with_reducible (first | assumption | apply modUpd_frame | apply offerTo_frame)
    | split
    | (extract_lets +onlyGivenNames x; first | (refine (fun hx : Frame ps s x => ?_) ?_ <;> [clear_value x; subst x]) | clear_value x)

theorem pushPassed_frame (h : Frame ps s t) (hm : Within [.flights, .run, .slc, .led, .ifl, .upd, .outs] ps) (a1) : Frame ps s (pushPassed a1 t) := by
  unfold pushPassed
  repeat'
    first
    | (show Within _ _; exact Within.trans (by decide) hm)
    | intro _
    | with_reducible (first | assumption | apply onlyIf_frame | apply offerPast_frame | apply modUpd_frame | apply pushDone_frame | apply pushOffers_frame | apply ite_frame)
    | split
    | (extract_lets +onlyGivenNames x; first | (refine (fun hx : Frame ps s x => ?_) ?_ <;> [clear_value x; subst x]) | clear_value x)

theorem dropTransfers_frame (h : Frame ps s t) (hm : Within [.flights, .run, .slc, .led, .upd] ps) (a1) : Frame ps s (dropTransfers a1 t) := by
  unfold dropTransfers
  repeat'
    first
    | (show Within _ _; exact Within.trans (by decide) hm)
    | intro _
    | with_reducible (first | assumption | apply modUpd_frame | apply pushDone_frame | apply pushClosed_frame | apply ite_frame)
    | split
    | (extract_lets +onlyGivenNames x; first | (refine (fun hx : Frame ps s x => ?_) ?_ <;> [clear_value x; subst x]) | clear_value x)

theorem purgeOp_frame (h : Frame ps s t) (hm : Within [.ifl] ps) (a1) : Frame ps s (purgeOp a1 t) := by
  unfold purgeOp
  repeat'
    first
    | (show Within _ _; exact Within.trans (by decide) hm)
    | intro _
    | with_reducible (first | assumption | apply modIfl_frame)

theorem endRelay_frame (h : Frame ps s t) (hm : Within [.flights, .run, .slc, .led, .ifl] ps) (a1) (a2) (a3) (a4) : Frame ps s (endRelay a1 a2 a3 a4 t) := by
  unfold endRelay
  repeat'
    first
    | (show Within _ _; exact Within.trans (by decide) hm)
    | intro _
    | with_reducible (first | assumption | apply purgeOp_frame | apply modIfl_frame | apply settle_frame | apply ite_frame)
    | split
    | (extract_lets +onlyGivenNames x; first | (refine (fun hx : Frame ps s x => ?_) ?_ <;> [clear_value x; subst x]) | clear_value x)

theorem endRelays_frame (h : Frame ps s t) (hm : Within [.flights, .run, .slc, .led, .ifl] ps) (a1) (a2) : Frame ps s (endRelays a1 a2 t) := by
  unfold endRelays
  repeat'
    first
    | (show Within _ _; exact Within.trans (by decide) hm)
    | intro _
    | with_reducible (first | assumption | apply each_frame | apply endRelay_frame)

theorem relayAccepted_frame (h : Frame ps s t) (hm : Within [.flights, .run, .slc, .led, .ifl] ps) (a1) : Frame ps s (relayAccepted a1 t) := by
  unfold relayAccepted
  repeat'
    first
    | (show Within _ _; exact Within.trans (by decide) hm)
    | intro _
    | with_reducible (first | assumption | apply settle_frame | apply tryLog_frame | apply modIfl_frame | apply atStage_frame | apply ite_frame)
    | split
    | (extract_lets +onlyGivenNames x; first | (refine (fun hx : Frame ps s x => ?_) ?_ <;> [clear_value x; subst x]) | clear_value x)

theorem onwardLost_frame (h : Frame ps s t) (hm : Within [.ifl, .outs] ps) (a1) : Frame ps s (onwardLost a1 t) := by
  unfold onwardLost
  repeat'
    first
    | (show Within _ _; exact Within.trans (by decide) hm)
    | intro _
    | with_reducible (first | assumption | apply each_frame | apply sendTo_frame)
    | split
    | (extract_lets +onlyGivenNames x; first | (refine (fun hx : Frame ps s x => ?_) ?_ <;> [clear_value x; subst x]) | clear_value x)

theorem freeNodes_frame (h : Frame ps s t) (hm : Within [.flights, .run, .slc, .led, .dir, .ifl, .nfc, .upd, .outs] ps) (a1) (a2) (a3) : Frame ps s (freeNodes a1 a2 a3 t) := by
  unfold freeNodes
  repeat'
    first
    | (show Within _ _; exact Within.trans (by decide) hm)
    | intro _
    | with_reducible (first | assumption | apply endRelays_frame | apply each_frame | apply dropTransfers_frame | apply unitLost_frame | apply onlyIf_frame | apply linkEvent_frame | apply logPart_frame | apply modDir_frame | apply modIfl_frame)
    | split
    | (extract_lets +onlyGivenNames x; first | (refine (fun hx : Frame ps s x => ?_) ?_ <;> [clear_value x; subst x]) | clear_value x)

theorem portDown_frame (h : Frame ps s t) (hm : Within [.flights, .run, .slc, .led, .dir, .ifl, .nfc, .upd, .outs] ps) (a1) (a2) (a3) : Frame ps s (portDown a1 a2 a3 t) := by
  unfold portDown
  repeat'
    first
    | (show Within _ _; exact Within.trans (by decide) hm)
    | intro _
    | with_reducible (first | assumption | apply modPort_frame | apply modIfl_frame | apply onwardLost_frame | apply sendTo_frame | apply linkEvent_frame | apply freeNodes_frame | apply foldl_frame | refine foldl_frame ?_ ?_ (by with_reducible assumption) | apply ite_frame)
    | split
    | (extract_lets +onlyGivenNames x; first | (refine (fun hx : Frame ps s x => ?_) ?_ <;> [clear_value x; subst x]) | (refine (fun hx : Frame ps s x.2 => ?_) ?_ <;> [clear_value x; subst x]) | (refine (fun hx : Frame ps s x.1 => ?_) ?_ <;> [clear_value x; subst x]) | clear_value x)

theorem portAdrift_frame (h : Frame ps s t) (hm : Within [.flights, .run, .slc, .led, .ifl, .nfc, .outs] ps) (a1) : Frame ps s (portAdrift a1 t) := by
  unfold portAdrift
  repeat'
    first
    | (show Within _ _; exact Within.trans (by decide) hm)
    | intro _
    | with_reducible (first | assumption | apply modPort_frame | apply linkEvent_frame | apply modNode_frame | apply each_frame | apply unitLost_frame | apply endRelays_frame | apply onwardLost_frame | apply ite_frame)
    | split
    | (extract_lets +onlyGivenNames x; first | (refine (fun hx : Frame ps s x => ?_) ?_ <;> [clear_value x; subst x]) | (refine (fun hx : Frame ps s x.2 => ?_) ?_ <;> [clear_value x; subst x]) | (refine (fun hx : Frame ps s x.1 => ?_) ?_ <;> [clear_value x; subst x]) | clear_value x)

theorem decouple_frame (h : Frame ps s t) (hm : Within [.flights, .run, .slc, .led, .dir, .ifl, .nfc, .upd, .outs] ps) (a1) (a2) : Frame ps s (decouple a1 a2 t) := by
  unfold decouple
  repeat'
    first
    | (show Within _ _; exact Within.trans (by decide) hm)
    | intro _
    | with_reducible (first | assumption | apply portAdrift_frame | apply portDown_frame | apply ite_frame)
    | split

theorem dropPosition_frame (h : Frame ps s t) (hm : Within [.ifl] ps) : Frame ps s (dropPosition t) := by
  unfold dropPosition
  repeat'
    first
    | (show Within _ _; exact Within.trans (by decide) hm)
    | intro _
    | with_reducible (first | assumption | apply modIfl_frame | apply ite_frame)
    | split
    | (extract_lets +onlyGivenNames x; first | (refine (fun hx : Frame ps s x => ?_) ?_ <;> [clear_value x; subst x]) | clear_value x)

theorem quarantine_frame (h : Frame ps s t) (hm : Within [.flights, .vecs, .run, .slc, .led, .flt, .dir, .ifl, .nfc, .upd, .outs] ps) (a1) : Frame ps s (quarantine a1 t) := by
  unfold quarantine
  repeat'
    first
    | (show Within _ _; exact Within.trans (by decide) hm)
    | intro _
    | with_reducible (first | assumption | apply portDown_frame | apply linkEvent_frame | apply fault_frame | apply modPort_frame)
    | split
    | (extract_lets +onlyGivenNames x; first | (refine (fun hx : Frame ps s x => ?_) ?_ <;> [clear_value x; subst x]) | clear_value x)

theorem takeDet_frame (h : Frame ps s t) (hm : Within [.ifl] ps) (a1) (a2) : Frame ps s (takeDet a1 a2 t) := by
  unfold takeDet
  repeat'
    first
    | (show Within _ _; exact Within.trans (by decide) hm)
    | intro _
    | with_reducible (first | assumption | apply modPort_frame | apply ite_frame)
    | split

theorem execIflDetSample_frame (h : Frame ps s t) (hm : Within [.flights, .vecs, .run, .slc, .time, .counters, .led, .flt, .dir, .ifl, .nfc, .upd, .outs] ps) (a1) (a2) : OutFrame ps s (execIflDetSample a1 a2 t) := by
  unfold execIflDetSample
  repeat'
    first
    | (show Within _ _; exact Within.trans (by decide) hm)
    | intro _
    | with_reducible (first | assumption | apply OutFrame.next | apply takeDet_frame | apply onlyIf_frame | apply elapseTo_frame | apply fault_frame | apply modPort_frame | apply quarantine_frame | apply decouple_frame | apply ite_frame)
    | split
    | (extract_lets +onlyGivenNames x; first | (refine (fun hx : Frame ps s x => ?_) ?_ <;> [clear_value x; subst x]) | clear_value x)

theorem sendAssign_frame (h : Frame ps s t) (hm : Within [.ifl, .outs] ps) (a1) (a2) : Frame ps s (sendAssign a1 a2 t) := by
  unfold sendAssign
  repeat'
    first
    | (show Within _ _; exact Within.trans (by decide) hm)
    | intro _
    | with_reducible (first | assumption | apply sendPlain_frame | apply modPort_frame)
    | split
    | (extract_lets +onlyGivenNames x; first | (refine (fun hx : Frame ps s x => ?_) ?_ <;> [clear_value x; subst x]) | clear_value x)

theorem assignNode_frame (h : Frame ps s t) (hm : Within [.flights, .run, .slc, .led, .sec, .dir, .ifl, .nfc, .upd, .outs, .free] ps) (a1) (a2) (a3) (a4) : Frame ps s (assignNode a1 a2 a3 a4 t) := by
  unfold assignNode
  repeat'
    first
    | (show Within _ _; exact Within.trans (by decide) hm)
    | intro _
    | with_reducible (first | assumption | apply linkEvent_frame | apply each_frame | apply freeNodes_frame | apply modIfl_frame | apply drew_frame | apply sendAssign_frame | apply sendTo_frame | apply ite_frame)
    | split
    | (extract_lets +onlyGivenNames x; first | (refine (fun hx : Frame ps s x => ?_) ?_ <;> [clear_value x; subst x]) | (refine (fun hx : Frame ps s x.2 => ?_) ?_ <;> [clear_value x; subst x]) | (refine (fun hx : Frame ps s x.1 => ?_) ?_ <;> [clear_value x; subst x]) | clear_value x)

theorem sendJoin_frame (h : Frame ps s t) (hm : Within [.flights, .run, .slc, .led, .sec, .dir, .ifl, .nfc, .upd, .outs, .free] ps) (a1) (a2) : Frame ps s (sendJoin a1 a2 t) := by
  unfold sendJoin
  repeat'
    first
    | (show Within _ _; exact Within.trans (by decide) hm)
    | intro _
    | with_reducible (first | assumption | apply modPort_frame | apply sendTo_frame | apply assignNode_frame | apply ite_frame)
    | split
    | (extract_lets +onlyGivenNames x; first | (refine (fun hx : Frame ps s x => ?_) ?_ <;> [clear_value x; subst x]) | clear_value x)

theorem nodeJoined_frame (h : Frame ps s t) (hm : Within [.led, .dir, .ifl, .outs] ps) (a1) : Frame ps s (nodeJoined a1 t) := by
  unfold nodeJoined
  repeat'
    first
    | (show Within _ _; exact Within.trans (by decide) hm)
    | intro _
    | with_reducible (first | assumption | apply modNode_frame | apply linkEvent_frame | apply logPart_frame | apply onlyIf_frame | apply sendTo_frame | apply resendSched_frame | apply sendDirState_frame)
    | split
    | (extract_lets +onlyGivenNames x; first | (refine (fun hx : Frame ps s x => ?_) ?_ <;> [clear_value x; subst x]) | clear_value x)

theorem coupled_frame (h : Frame ps s t) (hm : Within [.led, .dir, .ifl, .outs] ps) (a1) (a2) : Frame ps s (coupled a1 a2 t) := by
  unfold coupled
  repeat'
    first
    | (show Within _ _; exact Within.trans (by decide) hm)
    | intro _
    | with_reducible (first | assumption | apply modPort_frame | apply sendTo_frame | apply linkEvent_frame | apply modIfl_frame | apply nodeJoined_frame | apply ite_frame)
    | split
    | (extract_lets +onlyGivenNames x; first | (refine (fun hx : Frame ps s x => ?_) ?_ <;> [clear_value x; subst x]) | (refine (fun hx : Frame ps s x.2 => ?_) ?_ <;> [clear_value x; subst x]) | (refine (fun hx : Frame ps s x.1 => ?_) ?_ <;> [clear_value x; subst x]) | clear_value x)

theorem dropUnjoined_frame (h : Frame ps s t) (hm : Within [.ifl] ps) (a1) : Frame ps s (dropUnjoined a1 t) := by
  unfold dropUnjoined
  repeat'
    first
    | (show Within _ _; exact Within.trans (by decide) hm)
    | intro _
    | with_reducible (first | assumption | apply modIfl_frame | apply modPort_frame | apply foldl_frame | refine foldl_frame ?_ ?_ (by with_reducible assumption) | apply ite_frame)
    | split
    | (extract_lets +onlyGivenNames x; first | (refine (fun hx : Frame ps s x => ?_) ?_ <;> [clear_value x; subst x]) | (refine (fun hx : Frame ps s x.2 => ?_) ?_ <;> [clear_value x; subst x]) | (refine (fun hx : Frame ps s x.1 => ?_) ?_ <;> [clear_value x; subst x]) | clear_value x)

theorem rollMissed_frame (h : Frame ps s t) (hm : Within [.flights, .vecs, .run, .slc, .time, .counters, .led, .dir, .ifl, .nfc, .upd, .outs] ps) (a1) : Frame ps s (rollMissed a1 t) := by
  unfold rollMissed
  repeat'
    first
    | (show Within _ _; exact Within.trans (by decide) hm)
    | intro _
    | with_reducible (first | assumption | apply modPort_frame | apply elapseTo_frame | apply dropUnjoined_frame | apply decouple_frame | apply ite_frame)
    | split
    | (extract_lets +onlyGivenNames x; first | (refine (fun hx : Frame ps s x => ?_) ?_ <;> [clear_value x; subst x]) | clear_value x)

theorem execBeacon_frame (h : Frame ps s t) (hm : Within [.flights, .vecs, .run, .slc, .time, .counters, .led, .dir, .ifl, .nfc, .upd, .outs] ps) (a1) : OutFrame ps s (execBeacon a1 t) := by
  unfold execBeacon
  repeat'
    first
    | (show Within _ _; exact Within.trans (by decide) hm)
    | intro _
    | with_reducible (first | assumption | apply OutFrame.next | apply rollMissed_frame | apply elapseTo_frame | apply modPort_frame | apply sendPlain_frame | apply ite_frame)
    | split
    | (extract_lets +onlyGivenNames x; first | (refine (fun hx : Frame ps s x => ?_) ?_ <;> [clear_value x; subst x]) | clear_value x)

theorem execRoll_frame (h : Frame ps s t) (hm : Within [.flights, .run, .slc, .led, .sec, .dir, .ifl, .nfc, .upd, .outs, .free] ps) (a1) (a2) (a3) : OutFrame ps s (execRoll a1 a2 a3 t) := by
  unfold execRoll
  repeat'
    first
    | (show Within _ _; exact Within.trans (by decide) hm)
    | intro _
    | with_reducible (first | assumption | apply OutFrame.next | apply sendJoin_frame | apply modPort_frame | apply onlyIf_frame | apply coupled_frame | apply ite_frame)
    | split
    | (extract_lets +onlyGivenNames x; first | (refine (fun hx : Frame ps s x => ?_) ?_ <;> [clear_value x; subst x]) | clear_value x)

theorem sendRoll_frame (h : Frame ps s t) (hm : Within [.ifl, .outs] ps) (a1) (a2) : Frame ps s (sendRoll a1 a2 t) := by
  unfold sendRoll
  repeat'
    first
    | (show Within _ _; exact Within.trans (by decide) hm)
    | intro _
    | with_reducible (first | assumption | apply sendPlain_frame)

theorem execBeaconReceived_frame (h : Frame ps s t) (hm : Within [.ifl, .outs] ps) (a1) (a2) : OutFrame ps s (execBeaconReceived a1 a2 t) := by
  unfold execBeaconReceived
  repeat'
    first
    | (show Within _ _; exact Within.trans (by decide) hm)
    | intro _
    | with_reducible (first | assumption | apply OutFrame.next | apply modPort_frame | apply masterHeard_frame | apply dropPosition_frame | apply sendRoll_frame | apply ite_frame)
    | split
    | (extract_lets +onlyGivenNames x; first | (refine (fun hx : Frame ps s x => ?_) ?_ <;> [clear_value x; subst x]) | clear_value x)

theorem execUpstreamNeighbourLost_frame (h : Frame ps s t) (hm : Within [.vecs, .time, .counters, .ifl, .outs] ps) (a1) : OutFrame ps s (execUpstreamNeighbourLost a1 t) := by
  unfold execUpstreamNeighbourLost
  repeat'
    first
    | (show Within _ _; exact Within.trans (by decide) hm)
    | intro _
    | with_reducible (first | assumption | apply OutFrame.next | apply dropPosition_frame | apply elapseTo_frame | apply ite_frame)
    | split

theorem takeAssign_frame (h : Frame ps s t) (hm : Within [.ifl, .outs] ps) (a1) (a2) : Frame ps s (takeAssign a1 a2 t) := by
  unfold takeAssign
  repeat'
    first
    | (show Within _ _; exact Within.trans (by decide) hm)
    | intro _
    | with_reducible (first | assumption | apply modIfl_frame | apply modPort_frame | apply sendRoll_frame | apply ite_frame)
    | split
    | (extract_lets +onlyGivenNames x; first | (refine (fun hx : Frame ps s x => ?_) ?_ <;> [clear_value x; subst x]) | clear_value x)

theorem sendAckFor_frame (h : Frame ps s t) (hm : Within [.ifl, .outs] ps) (a1) (a2) (a3) : Frame ps s (sendAckFor a1 a2 a3 t) := by
  unfold sendAckFor
  repeat'
    first
    | (show Within _ _; exact Within.trans (by decide) hm)
    | intro _
    | with_reducible (first | assumption | apply sendPlain_frame)

theorem sendAck_frame (h : Frame ps s t) (hm : Within [.ifl, .outs] ps) (a1) (a2) : Frame ps s (sendAck a1 a2 t) := by
  unfold sendAck
  repeat'
    first
    | (show Within _ _; exact Within.trans (by decide) hm)
    | intro _
    | with_reducible (first | assumption | apply sendAckFor_frame)

theorem storeHost_frame (h : Frame ps s t) (hm : Within [.ifl] ps) (a1) (a2) (a3) : Frame ps s (storeHost a1 a2 a3 t) := by
  unfold storeHost
  repeat'
    first
    | (show Within _ _; exact Within.trans (by decide) hm)
    | intro _
    | with_reducible (first | assumption | apply onlyIf_frame | apply linkEvent_frame | apply modIfl_frame | apply ite_frame)
    | split
    | (extract_lets +onlyGivenNames x; first | (refine (fun hx : Frame ps s x => ?_) ?_ <;> [clear_value x; subst x]) | clear_value x)

theorem deliverData_frame (h : Frame ps s t) (hm : Within [.flights, .run, .slc, .led, .ifl, .upd, .outs] ps) (a1) : Frame ps s (deliverData a1 t) := by
  unfold deliverData
  repeat'
    first
    | (show Within _ _; exact Within.trans (by decide) hm)
    | intro _
    | with_reducible (first | assumption | apply storeHost_frame | apply modNode_frame | apply pushPassed_frame | apply sendData_frame | apply ite_frame)
    | split
    | (extract_lets +onlyGivenNames x; first | (refine (fun hx : Frame ps s x => ?_) ?_ <;> [clear_value x; subst x]) | clear_value x)

theorem takeProfile_frame (h : Frame ps s t) (hm : Within [.ifl, .outs] ps) (a1) (a2) : Frame ps s (takeProfile a1 a2 t) := by
  unfold takeProfile
  repeat'
    first
    | (show Within _ _; exact Within.trans (by decide) hm)
    | intro _
    | with_reducible (first | assumption | apply sendSoundReq_frame | apply modPort_frame | apply ite_frame)
    | split

theorem onwardReport_frame (h : Frame ps s t) (hm : Within [.flights, .run, .slc, .led, .ifl, .nfc, .outs] ps) (a1) : Frame ps s (onwardReport a1 t) := by
  unfold onwardReport
  repeat'
    first
    | (show Within _ _; exact Within.trans (by decide) hm)
    | intro _
    | with_reducible (first | assumption | apply each_frame | apply unitLost_frame | apply endRelays_frame | apply modNode_frame | apply linkEvent_frame | apply logPart_frame)
    | split
    | (extract_lets +onlyGivenNames x; first | (refine (fun hx : Frame ps s x => ?_) ?_ <;> [clear_value x; subst x]) | clear_value x)

theorem deliverHere_frame (h : Frame ps s t) (hm : Within [.flights, .run, .slc, .led, .sec, .dir, .ifl, .nfc, .upd, .outs, .free] ps) (a1) (a2) : Frame ps s (deliverHere a1 a2 t) := by
  unfold deliverHere
  repeat'
    first
    | (show Within _ _; exact Within.trans (by decide) hm)
    | intro _
    | with_reducible (first | assumption | apply assignNode_frame | apply sendAssign_frame | apply nodeJoined_frame | apply freeNodes_frame | apply takeProfile_frame | apply deliverData_frame | apply onwardReport_frame | apply ite_frame)
    | split

theorem learnRoute_frame (h : Frame ps s t) (hm : Within [.ifl] ps) (a1) (a2) : Frame ps s (learnRoute a1 a2 t) := by
  unfold learnRoute
  repeat'
    first
    | (show Within _ _; exact Within.trans (by decide) hm)
    | intro _
    | with_reducible (first | assumption | apply modIfl_frame | apply ite_frame)
    | split

theorem forward_frame (h : Frame ps s t) (hm : Within [.ifl, .outs] ps) (a1) (a2) : Frame ps s (forward a1 a2 t) := by
  unfold forward
  repeat'
    first
    | (show Within _ _; exact Within.trans (by decide) hm)
    | intro _
    | with_reducible (first | assumption | apply onlyIf_frame | apply learnRoute_frame | apply enqueue_frame | apply onwardLost_frame | apply ite_frame)
    | split
    | (extract_lets +onlyGivenNames x; first | (refine (fun hx : Frame ps s x => ?_) ?_ <;> [clear_value x; subst x]) | clear_value x)

theorem deliver_frame (h : Frame ps s t) (hm : Within [.flights, .run, .slc, .led, .sec, .dir, .ifl, .nfc, .upd, .outs, .free] ps) (a1) (a2) : Frame ps s (deliver a1 a2 t) := by
  unfold deliver
  repeat'
    first
    | (show Within _ _; exact Within.trans (by decide) hm)
    | intro _
    | with_reducible (first | assumption | apply deliverHere_frame | apply forward_frame | apply ite_frame)
    | split
    | (extract_lets +onlyGivenNames x; first | (refine (fun hx : Frame ps s x => ?_) ?_ <;> [clear_value x; subst x]) | clear_value x)

theorem drainHeld_frame (h : Frame ps s t) (hm : Within [.flights, .run, .slc, .led, .sec, .dir, .ifl, .nfc, .upd, .outs, .free] ps) (a1) (a2) : Frame ps s (drainHeld a1 a2 t) := by
  induction a1 generalizing t with
  | zero => exact h
  | succ n ih =>
    unfold drainHeld
    extract_lets pt
    split
    · exact ih (deliver_frame (modPort_frame h (hm.sub (by decide)) _ _) (hm.sub (by decide)) _ _)
    · exact h

theorem recvSeq_frame (h : Frame ps s t) (hm : Within [.flights, .run, .slc, .led, .sec, .dir, .ifl, .nfc, .upd, .outs, .free] ps) (a1) (a2) (a3) : Frame ps s (recvSeq a1 a2 a3 t) := by
  unfold recvSeq
  repeat'
    first
    | (show Within _ _; exact Within.trans (by decide) hm)
    | intro _
    | with_reducible (first | assumption | apply sendAck_frame | apply sendAckFor_frame | apply modPort_frame | apply drainHeld_frame | apply deliver_frame | apply ite_frame)
    | split
    | (extract_lets +onlyGivenNames x; first | (refine (fun hx : Frame ps s x => ?_) ?_ <;> [clear_value x; subst x]) | (refine (fun hx : Frame ps s x.2 => ?_) ?_ <;> [clear_value x; subst x]) | (refine (fun hx : Frame ps s x.1 => ?_) ?_ <;> [clear_value x; subst x]) | clear_value x)

theorem execJoin_frame (h : Frame ps s t) (hm : Within [.flights, .run, .slc, .led, .sec, .dir, .ifl, .nfc, .upd, .outs, .free] ps) (a1) (a2) : OutFrame ps s (execJoin a1 a2 t) := by
  unfold execJoin
  repeat'
    first
    | (show Within _ _; exact Within.trans (by decide) hm)
    | intro _
    | with_reducible (first | assumption | apply OutFrame.next | apply recvSeq_frame)

theorem execJoined_frame (h : Frame ps s t) (hm : Within [.flights, .run, .slc, .led, .sec, .dir, .ifl, .nfc, .upd, .outs, .free] ps) (a1) (a2) : OutFrame ps s (execJoined a1 a2 t) := by
  unfold execJoined
  repeat'
    first
    | (show Within _ _; exact Within.trans (by decide) hm)
    | intro _
    | with_reducible (first | assumption | apply OutFrame.next | apply recvSeq_frame)

theorem execDecoupled_frame (h : Frame ps s t) (hm : Within [.flights, .run, .slc, .led, .sec, .dir, .ifl, .nfc, .upd, .outs, .free] ps) (a1) (a2) : OutFrame ps s (execDecoupled a1 a2 t) := by
  unfold execDecoupled
  repeat'
    first
    | (show Within _ _; exact Within.trans (by decide) hm)
    | intro _
    | with_reducible (first | assumption | apply OutFrame.next | apply recvSeq_frame)

theorem execProfile_frame (h : Frame ps s t) (hm : Within [.flights, .run, .slc, .led, .sec, .dir, .ifl, .nfc, .upd, .outs, .free] ps) (a1) (a2) : OutFrame ps s (execProfile a1 a2 t) := by
  unfold execProfile
  repeat'
    first
    | (show Within _ _; exact Within.trans (by decide) hm)
    | intro _
    | with_reducible (first | assumption | apply OutFrame.next | apply recvSeq_frame)

theorem execDataFrame_frame (h : Frame ps s t) (hm : Within [.flights, .run, .slc, .led, .sec, .dir, .ifl, .nfc, .upd, .outs, .free] ps) (a1) (a2) : OutFrame ps s (execDataFrame a1 a2 t) := by
  unfold execDataFrame
  repeat'
    first
    | (show Within _ _; exact Within.trans (by decide) hm)
    | intro _
    | with_reducible (first | assumption | apply OutFrame.next | apply recvSeq_frame)

theorem execOnwardLost_frame (h : Frame ps s t) (hm : Within [.flights, .run, .slc, .led, .sec, .dir, .ifl, .nfc, .upd, .outs, .free] ps) (a1) (a2) : OutFrame ps s (execOnwardLost a1 a2 t) := by
  unfold execOnwardLost
  repeat'
    first
    | (show Within _ _; exact Within.trans (by decide) hm)
    | intro _
    | with_reducible (first | assumption | apply OutFrame.next | apply recvSeq_frame)

theorem execAssign_frame (h : Frame ps s t) (hm : Within [.flights, .run, .slc, .led, .sec, .dir, .ifl, .nfc, .upd, .outs, .free] ps) (a1) (a2) : OutFrame ps s (execAssign a1 a2 t) := by
  unfold execAssign
  repeat'
    first
    | (show Within _ _; exact Within.trans (by decide) hm)
    | intro _
    | with_reducible (first | assumption | apply OutFrame.next | apply takeAssign_frame | apply recvSeq_frame | apply ite_frame)
    | split
    | (extract_lets +onlyGivenNames x; first | (refine (fun hx : Frame ps s x => ?_) ?_ <;> [clear_value x; subst x]) | clear_value x)

theorem frameAccepted_frame (h : Frame ps s t) (hm : Within [.flights, .run, .slc, .led, .ifl, .outs] ps) (a1) (a2) : Frame ps s (frameAccepted a1 a2 t) := by
  unfold frameAccepted
  repeat'
    first
    | (show Within _ _; exact Within.trans (by decide) hm)
    | intro _
    | with_reducible (first | assumption | apply relayAccepted_frame | apply onlyIf_frame | apply modNode_frame | apply takeProfile_frame | apply ite_frame)
    | split
    | (extract_lets +onlyGivenNames x; first | (refine (fun hx : Frame ps s x => ?_) ?_ <;> [clear_value x; subst x]) | clear_value x)

theorem execAck_frame (h : Frame ps s t) (hm : Within [.flights, .run, .slc, .led, .ifl, .outs] ps) (a1) (a2) : OutFrame ps s (execAck a1 a2 t) := by
  unfold execAck
  repeat'
    first
    | (show Within _ _; exact Within.trans (by decide) hm)
    | intro _
    | with_reducible (first | assumption | apply OutFrame.next | apply modPort_frame | apply pump_frame | apply each_frame | apply frameAccepted_frame | apply ite_frame)
    | split
    | (extract_lets +onlyGivenNames x; first | (refine (fun hx : Frame ps s x => ?_) ?_ <;> [clear_value x; subst x]) | clear_value x)

theorem execResendTimer_frame (h : Frame ps s t) (hm : Within [.flights, .vecs, .run, .slc, .time, .counters, .led, .dir, .ifl, .nfc, .upd, .outs] ps) (a1) : OutFrame ps s (execResendTimer a1 t) := by
  unfold execResendTimer
  repeat'
    first
    | (show Within _ _; exact Within.trans (by decide) hm)
    | intro _
    | with_reducible (first | assumption | apply OutFrame.next | apply elapseTo_frame | apply decouple_frame | apply modIfl_frame | apply pump_frame | apply sendSeq_frame | apply modPort_frame | apply ite_frame)
    | split
    | (extract_lets +onlyGivenNames x; first | (refine (fun hx : Frame ps s x => ?_) ?_ <;> [clear_value x; subst x]) | clear_value x)

theorem supplyStep_frame (h : Frame ps s t) (hm : Within [.ifl] ps) : Frame ps s (supplyStep t) := by
  unfold supplyStep
  repeat'
    first
    | (show Within _ _; exact Within.trans (by decide) hm)
    | intro _
    | with_reducible (first | assumption | apply modIfl_frame)

theorem execSupplyStepWindowEnd_frame (h : Frame ps s t) (hm : Within [.vecs, .time, .counters, .ifl, .outs] ps) : OutFrame ps s (execSupplyStepWindowEnd t) := by
  unfold execSupplyStepWindowEnd
  repeat'
    first
    | (show Within _ _; exact Within.trans (by decide) hm)
    | intro _
    | with_reducible (first | assumption | apply OutFrame.next | apply modIfl_frame | apply elapseTo_frame)
    | split

theorem adriftGone_frame (h : Frame ps s t) (hm : Within [.flights, .run, .slc, .led, .dir, .ifl, .nfc, .upd, .outs] ps) (a1) (a2) : Frame ps s (adriftGone a1 a2 t) := by
  unfold adriftGone
  repeat'
    first
    | (show Within _ _; exact Within.trans (by decide) hm)
    | intro _
    | with_reducible (first | assumption | apply modPort_frame | apply sendTo_frame | apply linkEvent_frame | apply modIfl_frame | apply onlyIf_frame | apply freeNodes_frame | apply ite_frame)
    | split
    | (extract_lets +onlyGivenNames x; first | (refine (fun hx : Frame ps s x => ?_) ?_ <;> [clear_value x; subst x]) | (refine (fun hx : Frame ps s x.2 => ?_) ?_ <;> [clear_value x; subst x]) | (refine (fun hx : Frame ps s x.1 => ?_) ?_ <;> [clear_value x; subst x]) | clear_value x)

theorem execAdriftHoldEnd_frame (h : Frame ps s t) (hm : Within [.flights, .vecs, .run, .slc, .time, .counters, .led, .dir, .ifl, .nfc, .upd, .outs] ps) (a1) : OutFrame ps s (execAdriftHoldEnd a1 t) := by
  unfold execAdriftHoldEnd
  repeat'
    first
    | (show Within _ _; exact Within.trans (by decide) hm)
    | intro _
    | with_reducible (first | assumption | apply OutFrame.next | apply elapseTo_frame | apply portDown_frame | apply adriftGone_frame | apply ite_frame)
    | split
    | (extract_lets +onlyGivenNames x; first | (refine (fun hx : Frame ps s x => ?_) ?_ <;> [clear_value x; subst x]) | clear_value x)

theorem execMasterSilence_frame (h : Frame ps s t) (hm : Within [.vecs, .time, .counters, .ifl, .outs] ps) (a1) : OutFrame ps s (execMasterSilence a1 t) := by
  unfold execMasterSilence
  repeat'
    first
    | (show Within _ _; exact Within.trans (by decide) hm)
    | intro _
    | with_reducible (first | assumption | apply OutFrame.next | apply elapseTo_frame | apply dropPosition_frame | apply iflEvent_frame | apply modIfl_frame | apply modPort_frame | apply ite_frame)
    | split
    | (extract_lets +onlyGivenNames x; first | (refine (fun hx : Frame ps s x => ?_) ?_ <;> [clear_value x; subst x]) | clear_value x)

theorem linksParked_frame (h : Frame ps s t) (hm : Within [.ifl] ps) : Frame ps s (linksParked t) := by
  unfold linksParked
  repeat'
    first
    | (show Within _ _; exact Within.trans (by decide) hm)
    | intro _
    | with_reducible (first | assumption | apply modIfl_frame | apply ite_frame)
    | split
    | (extract_lets +onlyGivenNames x; first | (refine (fun hx : Frame ps s x => ?_) ?_ <;> [clear_value x; subst x]) | (refine (fun hx : Frame ps s x.2 => ?_) ?_ <;> [clear_value x; subst x]) | (refine (fun hx : Frame ps s x.1 => ?_) ?_ <;> [clear_value x; subst x]) | clear_value x)

theorem linksReleased_frame (h : Frame ps s t) (hm : Within [.ifl, .outs] ps) : Frame ps s (linksReleased t) := by
  unfold linksReleased
  repeat'
    first
    | (show Within _ _; exact Within.trans (by decide) hm)
    | intro _
    | with_reducible (first | assumption | apply modIfl_frame | apply each_frame | apply sendTo_frame | apply ite_frame)
    | split
    | (extract_lets +onlyGivenNames x; first | (refine (fun hx : Frame ps s x => ?_) ?_ <;> [clear_value x; subst x]) | clear_value x)

theorem execReaderRequest_frame (h : Frame ps s t) (hm : Within [.vecs, .time, .counters, .ifl, .nfc, .outs] ps) (a1) : OutFrame ps s (execReaderRequest a1 t) := by
  unfold execReaderRequest
  repeat'
    first
    | (show Within _ _; exact Within.trans (by decide) hm)
    | intro _
    | with_reducible (first | assumption | apply OutFrame.next | apply dropXchg_frame | apply nodeAnswer_frame | apply sendApdu_frame | apply carrierOff_frame | apply activateCard_frame | apply ite_frame)
    | split
    | (extract_lets +onlyGivenNames x; first | (refine (fun hx : Frame ps s x => ?_) ?_ <;> [clear_value x; subst x]) | clear_value x)

theorem keySegments_frame (h : Frame ps s t) (hm : Within [.vecs, .time, .counters, .clk, .led, .outs] ps) (t0 : Nat)
    (drive : List (Nat × Nat × Nat)) (l : List (Nat × Bytes)) : Frame ps s (keySegments t0 drive l t).2 := by
  induction l generalizing t with
  | nil => exact h
  | cons g rest ih =>
    unfold keySegments
    extract_lets d w
    split
    · exact h
    · split
      · split
        · exact ih (elapseToNs_frame (emit_frame (elapseToNs_frame (grantWindow_frame h (hm.sub (by decide)) _ _ _)
            (hm.sub (by decide)) _) (hm.sub (by decide)) _) (hm.sub (by decide)) _)
        · exact h
      · exact h
      · exact h

theorem execLfRequest_frame (h : Frame ps s t) (hm : Within [.vecs, .time, .counters, .clk, .led, .ifl, .outs, .free] ps) (a1) : OutFrame ps s (execLfRequest a1 t) := by
  unfold execLfRequest
  repeat'
    first
    | (show Within _ _; exact Within.trans (by decide) hm)
    | intro _
    | with_reducible (first | assumption | apply OutFrame.next | apply keySegments_frame | apply drawn_frame | apply sendData_frame | apply ite_frame)
    | split
    | (extract_lets +onlyGivenNames x; first | (refine (fun hx : Frame ps s x => ?_) ?_ <;> [clear_value x; subst x]) | (refine (fun hx : Frame ps s x.2 => ?_) ?_ <;> [clear_value x; subst x]) | (refine (fun hx : Frame ps s x.1 => ?_) ?_ <;> [clear_value x; subst x]) | clear_value x)

theorem execSvcStatus_frame (h : Frame ps s t) (hm : Within [.vecs, .time, .counters, .ifl, .outs, .free] ps) : OutFrame ps s (execSvcStatus t) := by
  unfold execSvcStatus
  repeat'
    first
    | (show Within _ _; exact Within.trans (by decide) hm)
    | intro _
    | with_reducible (first | assumption | apply OutFrame.next | apply elapseTo_frame | apply sendData_frame | apply drawn_frame | apply modIfl_frame | apply foldl_frame | refine foldl_frame ?_ ?_ (by with_reducible assumption) | apply ite_frame)
    | split
    | (extract_lets +onlyGivenNames x; first | (refine (fun hx : Frame ps s x => ?_) ?_ <;> [clear_value x; subst x]) | (refine (fun hx : ∀ {t}, Frame ps s t → Frame ps s (x t) => ?_) ?_ <;> [clear_value x; subst x]) | clear_value x)

theorem execRelay_frame (h : Frame ps s t) (hm : Within [.flights, .run, .slc, .led, .ifl, .outs] ps) (a1) (a2) : OutFrame ps s (execRelay a1 a2 t) := by
  unfold execRelay
  repeat'
    first
    | (show Within _ _; exact Within.trans (by decide) hm)
    | intro _
    | with_reducible (first | assumption | apply OutFrame.next | apply startOp_frame | apply settle_frame | apply withRead_frame | apply logRec_frame | apply modIfl_frame | apply each_frame | apply sendData_frame | apply ite_frame)
    | split
    | (extract_lets +onlyGivenNames x; first | (refine (fun hx : Frame ps s x => ?_) ?_ <;> [clear_value x; subst x]) | (refine (fun hx : Frame ps s x.2 => ?_) ?_ <;> [clear_value x; subst x]) | (refine (fun hx : Frame ps s x.1 => ?_) ?_ <;> [clear_value x; subst x]) | clear_value x)

theorem execChainRead_frame (h : Frame ps s t) (hm : Within [.flights, .run, .slc, .led, .outs, .free] ps) (a1) (a2) : OutFrame ps s (execChainRead a1 a2 t) := by
  unfold execChainRead
  repeat'
    first
    | (show Within _ _; exact Within.trans (by decide) hm)
    | intro _
    | with_reducible (first | assumption | apply OutFrame.next | apply startOp_frame | apply writeAndSettle_frame | apply drawn_frame)
    | split
    | (extract_lets +onlyGivenNames x; first | (refine (fun hx : Frame ps s x => ?_) ?_ <;> [clear_value x; subst x]) | (refine (fun hx : Frame ps s x.2 => ?_) ?_ <;> [clear_value x; subst x]) | (refine (fun hx : Frame ps s x.1 => ?_) ?_ <;> [clear_value x; subst x]) | clear_value x)

theorem execRecv_frame (h : Frame ps s t) (hm : Within [.flights, .run, .slc, .led, .ifl, .outs] ps) (a1) (a2) : OutFrame ps s (execRecv a1 a2 t) := by
  unfold execRecv
  repeat'
    first
    | (show Within _ _; exact Within.trans (by decide) hm)
    | intro _
    | with_reducible (first | assumption | apply OutFrame.next | apply startOp_frame | apply modIfl_frame | apply writeAndSettle_frame | apply ite_frame)
    | split
    | (extract_lets +onlyGivenNames x; first | (refine (fun hx : Frame ps s x => ?_) ?_ <;> [clear_value x; subst x]) | clear_value x)

theorem updOp_frame (h : Frame ps s t) (hm : Within [.flights, .run, .slc, .led] ps) (a1) (a2) (a3) (f1 : _ → State → State) (hf1 : ∀ a {t}, Frame ps s t → Frame ps s (f1 a t)) : Frame ps s (updOp a1 a2 a3 f1 t) := by
  unfold updOp
  repeat'
    first
    | (show Within _ _; exact Within.trans (by decide) hm)
    | intro _
    | with_reducible (first | assumption | apply hf1 | apply startOp_frame | apply ite_frame)
    | split

theorem beginSlot_frame (h : Frame ps s t) (hm : Within [.upd] ps) (a1) (a2) : Frame ps s (beginSlot a1 a2 t) := by
  unfold beginSlot
  repeat'
    first
    | (show Within _ _; exact Within.trans (by decide) hm)
    | intro _
    | with_reducible (first | assumption | apply journal_frame)

theorem slotBad_frame (h : Frame ps s t) (hm : Within [.upd] ps) (a1) : Frame ps s (slotBad a1 t) := by
  unfold slotBad
  repeat'
    first
    | (show Within _ _; exact Within.trans (by decide) hm)
    | intro _
    | with_reducible (first | assumption | apply updEvent_frame | apply slotState_frame)

theorem writeBlocks_frame (h : Frame ps s t) (hm : Within [.upd] ps) (a1) (a2) (a3) : Frame ps s (writeBlocks a1 a2 a3 t) := by
  unfold writeBlocks
  repeat'
    first
    | (show Within _ _; exact Within.trans (by decide) hm)
    | intro _
    | with_reducible (first | assumption | apply each_frame | apply putBlock_frame)

theorem writeImage_frame (h : Frame ps s t) (hm : Within [.upd] ps) (a1) (a2) (a3) : Frame ps s (writeImage a1 a2 a3 t).2 := by
  unfold writeImage
  repeat'
    first
    | (show Within _ _; exact Within.trans (by decide) hm)
    | intro _
    | with_reducible (first | assumption | apply beginSlot_frame | apply slotBad_frame | apply writeBlocks_frame | apply modUpd_frame | apply ite_frame)
    | split
    | (extract_lets +onlyGivenNames x; first | (refine (fun hx : Frame ps s x => ?_) ?_ <;> [clear_value x; subst x]) | clear_value x)
    | dsimp only

theorem execStage_frame (h : Frame ps s t) (hm : Within [.flights, .run, .slc, .led, .sec, .upd] ps) (a1) (a2) (a3) : OutFrame ps s (execStage a1 a2 a3 t) := by
  unfold execStage
  repeat'
    first
    | (show Within _ _; exact Within.trans (by decide) hm)
    | intro _
    | with_reducible (first | assumption | apply OutFrame.next | apply updOp_frame | apply settle_frame | apply withRead_frame | apply pkeRan_frame | apply writeImage_frame | apply updEvent_frame | apply slotState_frame | apply ite_frame)
    | split
    | (extract_lets +onlyGivenNames x; first | (refine (fun hx : Frame ps s x => ?_) ?_ <;> [clear_value x; subst x]) | (refine (fun hx : Frame ps s x.2 => ?_) ?_ <;> [clear_value x; subst x]) | (refine (fun hx : Frame ps s x.1 => ?_) ?_ <;> [clear_value x; subst x]) | clear_value x)

theorem execPush_frame (h : Frame ps s t) (hm : Within [.flights, .run, .slc, .led, .ifl, .upd, .outs] ps) (a1) : OutFrame ps s (execPush a1 t) := by
  unfold execPush
  repeat'
    first
    | (show Within _ _; exact Within.trans (by decide) hm)
    | intro _
    | with_reducible (first | assumption | apply OutFrame.next | apply updOp_frame | apply settle_frame | apply modUpd_frame | apply each_frame | apply offerTo_frame | apply pushDone_frame | apply pushOffers_frame | apply ite_frame)
    | split
    | (extract_lets +onlyGivenNames x; first | (refine (fun hx : Frame ps s x => ?_) ?_ <;> [clear_value x; subst x]) | clear_value x)

theorem schedDone_frame (h : Frame ps s t) (hm : Within [.flights, .run, .slc, .led, .upd] ps) : Frame ps s (schedDone t) := by
  unfold schedDone
  repeat'
    first
    | (show Within _ _; exact Within.trans (by decide) hm)
    | intro _
    | with_reducible (first | assumption | apply settle_frame | apply modUpd_frame)
    | split

theorem execSchedule_frame (h : Frame ps s t) (hm : Within [.flights, .run, .slc, .led, .ifl, .upd, .outs] ps) (a1) : OutFrame ps s (execSchedule a1 t) := by
  unfold execSchedule
  repeat'
    first
    | (show Within _ _; exact Within.trans (by decide) hm)
    | intro _
    | with_reducible (first | assumption | apply OutFrame.next | apply updOp_frame | apply settle_frame | apply journal_frame | apply each_frame | apply sendSched_frame | apply schedDone_frame | apply modUpd_frame | apply modFlight_frame | apply ite_frame)
    | split
    | (extract_lets +onlyGivenNames x; first | (refine (fun hx : Frame ps s x => ?_) ?_ <;> [clear_value x; subst x]) | clear_value x)

theorem unschedule_frame (h : Frame ps s t) (hm : Within [.upd] ps) (a1) : Frame ps s (unschedule a1 t) := by
  unfold unschedule
  repeat'
    first
    | (show Within _ _; exact Within.trans (by decide) hm)
    | intro _
    | with_reducible (first | assumption | apply journal_frame)

theorem execCancel_frame (h : Frame ps s t) (hm : Within [.flights, .run, .slc, .led, .ifl, .upd, .outs] ps) (a1) : OutFrame ps s (execCancel a1 t) := by
  unfold execCancel
  repeat'
    first
    | (show Within _ _; exact Within.trans (by decide) hm)
    | intro _
    | with_reducible (first | assumption | apply OutFrame.next | apply updOp_frame | apply settle_frame | apply unschedule_frame | apply each_frame | apply sendData_frame)
    | split
    | (extract_lets +onlyGivenNames x; first | (refine (fun hx : Frame ps s x => ?_) ?_ <;> [clear_value x; subst x]) | clear_value x)

theorem putBank_frame (h : Frame ps s t) (hm : Within [.upd] ps) (a1) (a2) : Frame ps s (putBank a1 a2 t) := by
  unfold putBank
  repeat'
    first
    | (show Within _ _; exact Within.trans (by decide) hm)
    | intro _
    | with_reducible (first | assumption | apply modUpd_frame | apply ite_frame)
    | split

theorem placeRec_frame {u : State} (h : Frame ps s t) (hm : Within [.upd] ps) {a1} (e : placeRec a1 t = some u) : Frame ps s u := by
  unfold placeRec at e
  dsimp only at e
  split at e
  · cases e; exact putBank_frame h (hm.sub (by decide)) _ _
  · split at e
    · cases e; exact putBank_frame h (hm.sub (by decide)) _ _
    · cases e

theorem storeRec_frame (h : Frame ps s t) (hm : Within [.flights, .run, .slc, .led, .upd] ps) (a1) (a2) : Frame ps s (storeRec a1 a2 t) := by
  unfold storeRec
  repeat'
    first
    | (show Within _ _; exact Within.trans (by decide) hm)
    | intro _
    | with_reducible (first | assumption | apply settle_frame | apply updEvent_frame | refine placeRec_frame ?_ ?_ (by with_reducible assumption))
    | split

theorem execCfgWrite_frame (h : Frame ps s t) (hm : Within [.flights, .run, .slc, .led, .sec, .upd] ps) (a1) (a2) (a3) (a4) : OutFrame ps s (execCfgWrite a1 a2 a3 a4 t) := by
  unfold execCfgWrite
  repeat'
    first
    | (show Within _ _; exact Within.trans (by decide) hm)
    | intro _
    | with_reducible (first | assumption | apply OutFrame.next | apply updOp_frame | apply withRead_frame | apply settle_frame | apply pkeRan_frame | apply storeRec_frame | apply ite_frame)
    | split
    | (extract_lets +onlyGivenNames x; first | (refine (fun hx : Frame ps s x => ?_) ?_ <;> [clear_value x; subst x]) | (refine (fun hx : Frame ps s x.2 => ?_) ?_ <;> [clear_value x; subst x]) | (refine (fun hx : Frame ps s x.1 => ?_) ?_ <;> [clear_value x; subst x]) | clear_value x)

theorem execUpdStatus_frame (h : Frame ps s t) (hm : Within [.flights, .run, .slc, .led, .outs] ps) (a1) (a2) : OutFrame ps s (execUpdStatus a1 a2 t) := by
  unfold execUpdStatus
  repeat'
    first
    | (show Within _ _; exact Within.trans (by decide) hm)
    | intro _
    | with_reducible (first | assumption | apply OutFrame.next | apply startOp_frame | apply writeAndSettle_frame)

theorem sendNeed_frame (h : Frame ps s t) (hm : Within [.ifl, .upd, .outs] ps) : Frame ps s (sendNeed t) := by
  unfold sendNeed
  repeat'
    first
    | (show Within _ _; exact Within.trans (by decide) hm)
    | intro _
    | with_reducible (first | assumption | apply sendMsg_frame | apply modUpd_frame | apply ite_frame)
    | split
    | (extract_lets +onlyGivenNames x; first | (refine (fun hx : Frame ps s x => ?_) ?_ <;> [clear_value x; subst x]) | clear_value x)

theorem beginRecv_frame (h : Frame ps s t) (hm : Within [.ifl, .upd, .outs] ps) (a1) (a2) (a3) : Frame ps s (beginRecv a1 a2 a3 t) := by
  unfold beginRecv
  repeat'
    first
    | (show Within _ _; exact Within.trans (by decide) hm)
    | intro _
    | with_reducible (first | assumption | apply sendNeed_frame | apply modUpd_frame)
    | split
    | (extract_lets +onlyGivenNames x; first | (refine (fun hx : Frame ps s x => ?_) ?_ <;> [clear_value x; subst x]) | clear_value x)

theorem beginHearth_frame (h : Frame ps s t) (hm : Within [.upd, .outs] ps) (a1) (a2) : Frame ps s (beginHearth a1 a2 t) := by
  unfold beginHearth
  repeat'
    first
    | (show Within _ _; exact Within.trans (by decide) hm)
    | intro _
    | with_reducible (first | assumption | apply uartLine_frame | apply modUpd_frame)

theorem execOffer_frame (h : Frame ps s t) (hm : Within [.ifl, .upd, .outs] ps) (a1) (a2) : OutFrame ps s (execOffer a1 a2 t) := by
  unfold execOffer
  repeat'
    first
    | (show Within _ _; exact Within.trans (by decide) hm)
    | intro _
    | with_reducible (first | assumption | apply OutFrame.next | apply answer_frame | apply beginRecv_frame | apply beginHearth_frame | apply ite_frame)
    | split
    | (extract_lets +onlyGivenNames x; first | (refine (fun hx : Frame ps s x => ?_) ?_ <;> [clear_value x; subst x]) | clear_value x)

theorem endRecv_frame (h : Frame ps s t) (hm : Within [.ifl, .upd, .outs] ps) (a1) (a2) (a3) : Frame ps s (endRecv a1 a2 a3 t) := by
  unfold endRecv
  repeat'
    first
    | (show Within _ _; exact Within.trans (by decide) hm)
    | intro _
    | with_reducible (first | assumption | apply answer_frame | apply modUpd_frame)

theorem recvComplete_frame (h : Frame ps s t) (hm : Within [.ifl, .upd, .outs] ps) (a1) (a2) : Frame ps s (recvComplete a1 a2 t) := by
  unfold recvComplete
  repeat'
    first
    | (show Within _ _; exact Within.trans (by decide) hm)
    | intro _
    | with_reducible (first | assumption | apply modUpd_frame | apply uartLine_frame | apply endRecv_frame | apply slotBad_frame | apply updEvent_frame | apply slotState_frame | apply each_frame | apply offerTo_frame | apply ite_frame)
    | split
    | (extract_lets +onlyGivenNames x; first | (refine (fun hx : Frame ps s x => ?_) ?_ <;> [clear_value x; subst x]) | clear_value x)

theorem blockArrived_frame (h : Frame ps s t) (hm : Within [.ifl, .upd, .outs] ps) (a1) (a2) (a3) : Frame ps s (blockArrived a1 a2 a3 t) := by
  unfold blockArrived
  repeat'
    first
    | (show Within _ _; exact Within.trans (by decide) hm)
    | intro _
    | with_reducible (first | assumption | apply endRecv_frame | apply modUpd_frame | apply beginSlot_frame | apply putBlock_frame | apply sendNeed_frame | apply recvComplete_frame | apply ite_frame)
    | split
    | (extract_lets +onlyGivenNames x; first | (refine (fun hx : Frame ps s x => ?_) ?_ <;> [clear_value x; subst x]) | clear_value x)

theorem execPiece_frame (h : Frame ps s t) (hm : Within [.ifl, .upd, .outs] ps) (a1) (a2) (a3) : OutFrame ps s (execPiece a1 a2 a3 t) := by
  unfold execPiece
  repeat'
    first
    | (show Within _ _; exact Within.trans (by decide) hm)
    | intro _
    | with_reducible (first | assumption | apply OutFrame.next | apply modUpd_frame | apply blockArrived_frame | apply ite_frame)
    | split
    | (extract_lets +onlyGivenNames x; first | (refine (fun hx : Frame ps s x => ?_) ?_ <;> [clear_value x; subst x]) | (refine (fun hx : Frame ps s x.2 => ?_) ?_ <;> [clear_value x; subst x]) | (refine (fun hx : Frame ps s x.1 => ?_) ?_ <;> [clear_value x; subst x]) | clear_value x)

theorem execNeedTimer_frame (h : Frame ps s t) (hm : Within [.vecs, .time, .counters, .ifl, .upd, .outs] ps) : OutFrame ps s (execNeedTimer t) := by
  unfold execNeedTimer
  repeat'
    first
    | (show Within _ _; exact Within.trans (by decide) hm)
    | intro _
    | with_reducible (first | assumption | apply OutFrame.next | apply elapseTo_frame | apply sendNeed_frame | apply modUpd_frame)
    | split
    | (extract_lets +onlyGivenNames x; first | (refine (fun hx : Frame ps s x => ?_) ?_ <;> [clear_value x; subst x]) | clear_value x)

theorem execNeed_frame (h : Frame ps s t) (hm : Within [.ifl, .upd, .outs] ps) (a1) (a2) : OutFrame ps s (execNeed a1 a2 t) := by
  unfold execNeed
  repeat'
    first
    | (show Within _ _; exact Within.trans (by decide) hm)
    | intro _
    | with_reducible (first | assumption | apply OutFrame.next | apply modUpd_frame | apply each_frame | apply sendMsg_frame | apply ite_frame)
    | split
    | (extract_lets +onlyGivenNames x; first | (refine (fun hx : Frame ps s x => ?_) ?_ <;> [clear_value x; subst x]) | clear_value x)

theorem pushStatus_frame (h : Frame ps s t) (hm : Within [.flights, .run, .slc, .led, .upd] ps) (a1) (a2) (a3) : Frame ps s (pushStatus a1 a2 a3 t) := by
  unfold pushStatus
  repeat'
    first
    | (show Within _ _; exact Within.trans (by decide) hm)
    | intro _
    | with_reducible (first | assumption | apply pushDone_frame | apply modUpd_frame | apply modFlight_frame | apply pushClosed_frame | apply ite_frame)
    | split
    | (extract_lets +onlyGivenNames x; first | (refine (fun hx : Frame ps s x => ?_) ?_ <;> [clear_value x; subst x]) | clear_value x)

theorem schedStatus_frame (h : Frame ps s t) (hm : Within [.flights, .run, .slc, .led, .upd] ps) (a1) (a2) : Frame ps s (schedStatus a1 a2 t) := by
  unfold schedStatus
  repeat'
    first
    | (show Within _ _; exact Within.trans (by decide) hm)
    | intro _
    | with_reducible (first | assumption | apply schedDone_frame | apply modUpd_frame | apply modFlight_frame | apply ite_frame)
    | split
    | (extract_lets +onlyGivenNames x; first | (refine (fun hx : Frame ps s x => ?_) ?_ <;> [clear_value x; subst x]) | clear_value x)

theorem execTransportStatus_frame (h : Frame ps s t) (hm : Within [.flights, .run, .slc, .led, .ifl, .upd, .outs] ps) (a1) (a2) : OutFrame ps s (execTransportStatus a1 a2 t) := by
  unfold execTransportStatus
  repeat'
    first
    | (show Within _ _; exact Within.trans (by decide) hm)
    | intro _
    | with_reducible (first | assumption | apply OutFrame.next | apply modUpd_frame | apply sendData_frame | apply schedStatus_frame | apply pushStatus_frame | apply ite_frame)
    | split
    | (extract_lets +onlyGivenNames x; first | (refine (fun hx : Frame ps s x => ?_) ?_ <;> [clear_value x; subst x]) | clear_value x)

theorem dropIdle_frame (h : Frame ps s t) (hm : Within [.flights, .run, .slc, .led, .upd] ps) (a1) : Frame ps s (dropIdle a1 t) := by
  unfold dropIdle
  repeat'
    first
    | (show Within _ _; exact Within.trans (by decide) hm)
    | intro _
    | with_reducible (first | assumption | apply modUpd_frame | apply pushDone_frame | apply pushClosed_frame | apply ite_frame)
    | split
    | (extract_lets +onlyGivenNames x; first | (refine (fun hx : Frame ps s x => ?_) ?_ <;> [clear_value x; subst x]) | clear_value x)

theorem giveUpIdle_frame (h : Frame ps s t) (hm : Within [.flights, .run, .slc, .led, .upd] ps) (a1) : Frame ps s (giveUpIdle a1 t) := by
  unfold giveUpIdle
  repeat'
    first
    | (show Within _ _; exact Within.trans (by decide) hm)
    | intro _
    | with_reducible (first | assumption | apply modUpd_frame | apply dropIdle_frame | apply ite_frame)
    | split

theorem execTransferAbandon_frame (h : Frame ps s t) (hm : Within [.flights, .vecs, .run, .slc, .time, .counters, .led, .upd, .outs] ps) : OutFrame ps s (execTransferAbandon t) := by
  unfold execTransferAbandon
  repeat'
    first
    | (show Within _ _; exact Within.trans (by decide) hm)
    | intro _
    | with_reducible (first | assumption | apply OutFrame.next | apply giveUpIdle_frame | apply elapseTo_frame)
    | split

theorem execSched_frame (h : Frame ps s t) (hm : Within [.ifl, .upd, .outs] ps) (a1) (a2) : OutFrame ps s (execSched a1 a2 t) := by
  unfold execSched
  repeat'
    first
    | (show Within _ _; exact Within.trans (by decide) hm)
    | intro _
    | with_reducible (first | assumption | apply OutFrame.next | apply answer_frame | apply journal_frame | apply modUpd_frame | apply ite_frame)
    | split
    | (extract_lets +onlyGivenNames x; first | (refine (fun hx : Frame ps s x => ?_) ?_ <;> [clear_value x; subst x]) | (refine (fun hx : ∀ {t}, Frame ps s t → Frame ps s (x t) => ?_) ?_ <;> [clear_value x; subst x]) | clear_value x)

theorem execUnsched_frame (h : Frame ps s t) (hm : Within [.ifl, .upd, .outs] ps) (a1) (a2) : OutFrame ps s (execUnsched a1 a2 t) := by
  unfold execUnsched
  repeat'
    first
    | (show Within _ _; exact Within.trans (by decide) hm)
    | intro _
    | with_reducible (first | assumption | apply OutFrame.next | apply answer_frame | apply unschedule_frame | apply ite_frame)
    | split
    | (extract_lets +onlyGivenNames x; first | (refine (fun hx : Frame ps s x => ?_) ?_ <;> [clear_value x; subst x]) | clear_value x)

theorem execSchedRepeat_frame (h : Frame ps s t) (hm : Within [.vecs, .time, .counters, .ifl, .upd, .outs] ps) : OutFrame ps s (execSchedRepeat t) := by
  unfold execSchedRepeat
  repeat'
    first
    | (show Within _ _; exact Within.trans (by decide) hm)
    | intro _
    | with_reducible (first | assumption | apply OutFrame.next | apply elapseTo_frame | apply each_frame | apply sendSched_frame | apply modUpd_frame | apply ite_frame)
    | split
    | (extract_lets +onlyGivenNames x; first | (refine (fun hx : Frame ps s x => ?_) ?_ <;> [clear_value x; subst x]) | clear_value x)

end Sys2Proof.Machine
end

