-- ==== Sys2Proof/Laws/FrameReset.lean ====
section
/-! SUPPORT. Which parts of the state the operations of Reset, Power, Parking, Activate, Admission can change (Safety.Frame), one lemma each, in the order of their definitions. -/

set_option linter.unusedTactic false
set_option linter.unreachableTactic false
set_option linter.unusedSimpArgs false
set_option linter.unusedVariables false

namespace Sys2Proof.Machine

variable {ps : List Part} {s t : State}

theorem requeue_frame (h : Frame ps s t) (hm : Within [.sys, .flights, .vecs, .rings] ps) : Frame ps s (requeue t) := by
  unfold requeue
  repeat'
    first
    | (show Within _ _; exact Within.trans (by decide) hm)
    | intro _
    | with_reducible (first | assumption | apply modSys_frame | apply modHost_frame | apply ite_frame)
    | split
    | (extract_lets +onlyGivenNames x; first | (refine (fun hx : Frame ps s x => ?_) ?_ <;> [clear_value x; subst x]) | (refine (fun hx : Frame ps s x.2 => ?_) ?_ <;> [clear_value x; subst x]) | (refine (fun hx : Frame ps s x.1 => ?_) ?_ <;> [clear_value x; subst x]) | clear_value x)

theorem resetBlocks_frame (h : Frame ps s t) (hm : Within [.pwr, .sys, .flights, .vecs, .rings, .counters, .clk, .flt, .sec, .slk, .dir, .radio, .cap, .ifl, .nfc, .cus, .upd, .outs] ps)
    (a1) : Frame ps s (resetBlocks a1 t) := by
  unfold resetBlocks
  extract_lets +onlyGivenNames now
  clear_value now
  extract_lets +onlyGivenNames x
  have hx : Frame ps s x := requeue_frame h (hm.sub (by decide))
  clear_value x
  extract_lets +onlyGivenNames y
  have hy : Frame ps s y := each_frame hx _ _ fun m _ k => onlyIf_frame k _ _ fun k => emit_frame k (hm.sub (by decide)) _
  clear_value y
  extract_lets +onlyGivenNames z
  have hz : Frame ps s z := onlyIf_frame hy _ _ fun k => emit_frame k (hm.sub (by decide)) _
  clear_value z
  exact step_frame hz rfl rfl fun p hp => by
    cases p <;> first | exact rfl | exact ⟨rfl, rfl⟩ | exact absurd (hm (by decide)) hp

theorem coldReset_frame (h : Frame ps s t) (hm : Within [.pwr, .sys, .flights, .vecs, .rings, .counters, .clk, .flt, .sec, .slk, .dir, .radio, .cap, .ifl, .nfc, .cus, .upd, .outs] ps) : Frame ps s (coldReset t) := by
  unfold coldReset
  repeat'
    first
    | (show Within _ _; exact Within.trans (by decide) hm)
    | intro _
    | with_reducible (first | assumption | apply modDir_frame | apply resetBlocks_frame)

theorem loseAon_frame (h : Frame ps s t) (hm : Within [.pwr, .flights, .vecs, .rings, .run, .slc, .time, .counters, .clk, .led, .flt, .sec, .slk] ps) : Frame ps s (loseAon t) := by
  unfold loseAon
  repeat'
    first
    | (show Within _ _; exact Within.trans (by decide) hm)
    | intro _
    | with_reducible (first | assumption | apply modClk_frame | apply modPwr_frame | apply modSlk_frame | apply modFlt_frame | apply modSec_frame | apply modSlc_frame | apply modHost_frame)
    | split
    | (extract_lets +onlyGivenNames x; first | (refine (fun hx : Frame ps s x => ?_) ?_ <;> [clear_value x; subst x]) | (refine (fun hx : Frame ps s x.2 => ?_) ?_ <;> [clear_value x; subst x]) | (refine (fun hx : Frame ps s x.1 => ?_) ?_ <;> [clear_value x; subst x]) | clear_value x)

theorem pickPair_frame (h : Frame ps s t) (hm : Within [.pwr] ps) (a1) : Frame ps s (pickPair a1 t) := by
  unfold pickPair
  repeat'
    first
    | (show Within _ _; exact Within.trans (by decide) hm)
    | intro _
    | with_reducible (first | assumption | apply modPwr_frame | apply ite_frame)
    | split

theorem takeCheckpoint_frame (h : Frame ps s t) (hm : Within [.pwr, .flights, .vecs, .rings, .led] ps) : Frame ps s (takeCheckpoint t) := by
  unfold takeCheckpoint
  repeat'
    first
    | (show Within _ _; exact Within.trans (by decide) hm)
    | intro _
    | with_reducible (first | assumption | apply modPwr_frame | apply modHost_frame | apply logRec_frame | apply ite_frame)
    | split

theorem raiseDue_frame (h : Frame ps s t) (hm : Within [.pwr, .outs] ps) : Frame ps s (raiseDue t) := by
  unfold raiseDue
  repeat'
    first
    | (show Within _ _; exact Within.trans (by decide) hm)
    | intro _
    | with_reducible (first | assumption | apply raiseEach_frame)

theorem raiseHearth_frame (h : Frame ps s t) (hm : Within [.pwr, .outs] ps) : Frame ps s (raiseHearth t) := by
  unfold raiseHearth
  repeat'
    first
    | (show Within _ _; exact Within.trans (by decide) hm)
    | intro _
    | with_reducible (first | assumption | apply raiseEach_frame)

theorem enterHearth_frame (h : Frame ps s t) (hm : Within [.pwr, .sys, .flights, .vecs, .rings, .time, .counters, .clk, .led, .flt, .sec, .slk, .dir, .radio, .cap, .ifl, .nfc, .cus, .upd, .outs, .free] ps) (a1) : Frame ps s (enterHearth a1 t) := by
  unfold enterHearth
  repeat'
    first
    | (show Within _ _; exact Within.trans (by decide) hm)
    | intro _
    | with_reducible (first | assumption | apply lowerEnable_frame | apply resetBlocks_frame | apply onlyIf_frame | apply cntRateChange_frame | apply modPwr_frame | apply trainLink_frame | apply raiseHearth_frame | apply modUpd_frame | apply modFlt_frame)
    | split
    | (extract_lets +onlyGivenNames x; first | (refine (fun hx : Frame ps s x => ?_) ?_ <;> [clear_value x; subst x]) | clear_value x)

theorem startUp_frame (h : Frame ps s t) (hm : Within [.pwr, .sys, .outs] ps) (a1) (a2) : Frame ps s (startUp a1 a2 t) := by
  unfold startUp
  repeat'
    first
    | (show Within _ _; exact Within.trans (by decide) hm)
    | intro _
    | with_reducible (first | assumption | apply raiseDue_frame | apply modPwr_frame | apply modSys_frame | apply ite_frame)
    | split

theorem fullReset_frame (h : Frame ps s t) (hm : Within [.pwr, .sys, .flights, .vecs, .rings, .counters, .clk, .flt, .sec, .slk, .dir, .radio, .cap, .ifl, .nfc, .cus, .upd, .outs] ps) (a1) : Frame ps s (fullReset a1 t) := by
  unfold fullReset
  repeat'
    first
    | (show Within _ _; exact Within.trans (by decide) hm)
    | intro _
    | with_reducible (first | assumption | apply startUp_frame | apply pickPair_frame | apply coldReset_frame | apply ite_frame)
    | split

theorem execVaonGood_frame (h : Frame ps s t) (hm : Within [.pwr, .sys, .flights, .vecs, .rings, .counters, .clk, .flt, .sec, .slk, .dir, .radio, .cap, .ifl, .nfc, .cus, .upd, .outs] ps) : OutFrame ps s (execVaonGood t) := by
  unfold execVaonGood
  repeat'
    first
    | (show Within _ _; exact Within.trans (by decide) hm)
    | intro _
    | with_reducible (first | assumption | apply OutFrame.next | apply modPwr_frame | apply pickPair_frame | apply coldReset_frame | apply drivePins_frame | apply startUp_frame | apply ite_frame)
    | split
    | (extract_lets +onlyGivenNames x; first | (refine (fun hx : Frame ps s x => ?_) ?_ <;> [clear_value x; subst x]) | clear_value x)

theorem execVaonBrownOut_frame (h : Frame ps s t) (hm : Within [.pwr, .sys, .flights, .vecs, .rings, .time, .counters, .clk, .led, .flt, .sec, .slk, .dir, .radio, .cap, .ifl, .nfc, .cus, .upd, .outs] ps) : OutFrame ps s (execVaonBrownOut t) := by
  unfold execVaonBrownOut
  repeat'
    first
    | (show Within _ _; exact Within.trans (by decide) hm)
    | intro _
    | with_reducible (first | assumption | apply OutFrame.next | apply fromRtc_frame | apply lowerFrom_frame | apply linkDown_frame | apply coldReset_frame | apply drivePins_frame | apply modPwr_frame | apply ite_frame)
    | split
    | (extract_lets +onlyGivenNames x; first | (refine (fun hx : Frame ps s x => ?_) ?_ <;> [clear_value x; subst x]) | clear_value x)

theorem execAonSupplyChangeover_frame (h : Frame ps s t) (hm : Within [.pwr] ps) : OutFrame ps s (execAonSupplyChangeover t) := by
  unfold execAonSupplyChangeover
  repeat'
    first
    | (show Within _ _; exact Within.trans (by decide) hm)
    | intro _
    | with_reducible (first | assumption | apply OutFrame.next | apply modPwr_frame)

theorem execAonLoss_frame (h : Frame ps s t) (hm : Within [.pwr, .flights, .vecs, .rings, .run, .slc, .time, .counters, .clk, .led, .flt, .sec, .slk] ps) : OutFrame ps s (execAonLoss t) := by
  unfold execAonLoss
  repeat'
    first
    | (show Within _ _; exact Within.trans (by decide) hm)
    | intro _
    | with_reducible (first | assumption | apply OutFrame.next | apply loseAon_frame | apply ite_frame)
    | split

theorem execVkeepLow_frame (h : Frame ps s t) (hm : Within [.pwr, .vecs, .led, .flt, .outs] ps) (a1) : OutFrame ps s (execVkeepLow a1 t) := by
  unfold execVkeepLow
  repeat'
    first
    | (show Within _ _; exact Within.trans (by decide) hm)
    | intro _
    | with_reducible (first | assumption | apply OutFrame.next | apply modPwr_frame | apply fault_frame | apply ite_frame)
    | split
    | (extract_lets +onlyGivenNames x; first | (refine (fun hx : Frame ps s x => ?_) ?_ <;> [clear_value x; subst x]) | clear_value x)

theorem railLost_frame (h : Frame ps s t) (hm : Within [.pwr, .vecs, .led, .flt, .outs] ps) (a1) : Frame ps s (railLost a1 t) := by
  unfold railLost
  repeat'
    first
    | (show Within _ _; exact Within.trans (by decide) hm)
    | intro _
    | with_reducible (first | assumption | apply fault_frame | apply modPwr_frame)

theorem execVcoreBrownOut_frame (h : Frame ps s t) (hm : Within [.pwr, .sys, .flights, .vecs, .rings, .counters, .clk, .flt, .sec, .slk, .dir, .radio, .cap, .ifl, .nfc, .cus, .upd, .outs] ps) (a1) : OutFrame ps s (execVcoreBrownOut a1 t) := by
  unfold execVcoreBrownOut
  repeat'
    first
    | (show Within _ _; exact Within.trans (by decide) hm)
    | intro _
    | with_reducible (first | assumption | apply OutFrame.next | apply modPwr_frame | apply fullReset_frame | apply ite_frame)
    | split
    | (extract_lets +onlyGivenNames x; first | (refine (fun hx : Frame ps s x => ?_) ?_ <;> [clear_value x; subst x]) | clear_value x)

theorem execDramRailFault_frame (h : Frame ps s t) (hm : Within [.pwr, .vecs, .led, .flt, .dir, .outs] ps) (a1) : OutFrame ps s (execDramRailFault a1 t) := by
  unfold execDramRailFault
  repeat'
    first
    | (show Within _ _; exact Within.trans (by decide) hm)
    | intro _
    | with_reducible (first | assumption | apply OutFrame.next | apply modDir_frame | apply railLost_frame | apply ite_frame)
    | split
    | (extract_lets +onlyGivenNames x; first | (refine (fun hx : Frame ps s x => ?_) ?_ <;> [clear_value x; subst x]) | clear_value x)

theorem chainsLeave_frame (h : Frame ps s t) (hm : Within [.radio] ps) : Frame ps s (chainsLeave t) := by
  unfold chainsLeave
  repeat'
    first
    | (show Within _ _; exact Within.trans (by decide) hm)
    | intro _
    | with_reducible (first | assumption | apply onlyIf_frame | apply uhfEvent_frame)

theorem readersLeave_frame (h : Frame ps s t) (hm : Within [.nfc] ps) : Frame ps s (readersLeave t) := by
  unfold readersLeave
  repeat'
    first
    | (show Within _ _; exact Within.trans (by decide) hm)
    | intro _
    | with_reducible (first | assumption | apply onlyIf_frame | apply nfcEvent_frame)

theorem portsLost_frame (h : Frame ps s t) (hm : Within [.pwr, .flights, .run, .slc, .led, .sec, .slk, .dir, .radio, .ifl, .nfc, .upd, .outs, .free] ps) (a1) : Frame ps s (portsLost a1 t) := by
  unfold portsLost
  repeat'
    first
    | (show Within _ _; exact Within.trans (by decide) hm)
    | intro _
    | with_reducible (first | assumption | apply lfCut_frame | apply passiveEnds_frame | apply readersLeave_frame | apply each_frame | apply readerLost_frame | apply chainsGone_frame | apply chainsLeave_frame | apply portDown_frame)
    | split

theorem execPortRailFault_frame (h : Frame ps s t) (hm : Within [.pwr, .flights, .vecs, .run, .slc, .led, .flt, .sec, .slk, .dir, .radio, .ifl, .nfc, .upd, .outs, .free] ps) (a1) : OutFrame ps s (execPortRailFault a1 t) := by
  unfold execPortRailFault
  repeat'
    first
    | (show Within _ _; exact Within.trans (by decide) hm)
    | intro _
    | with_reducible (first | assumption | apply OutFrame.next | apply portsLost_frame | apply railLost_frame | apply ite_frame)
    | split
    | (extract_lets +onlyGivenNames x; first | (refine (fun hx : Frame ps s x => ?_) ?_ <;> [clear_value x; subst x]) | clear_value x)

theorem drivesDrop_frame (h : Frame ps s t) (hm : Within [.cus] ps) : Frame ps s (drivesDrop t) := by
  unfold drivesDrop
  repeat'
    first
    | (show Within _ _; exact Within.trans (by decide) hm)
    | intro _
    | with_reducible (first | assumption | apply each_frame | apply modDrive_frame | apply ite_frame)
    | split

theorem clockReports_frame (h : Frame ps s t) (hm : Within [.vecs, .led, .flt, .outs] ps) (a1) : Frame ps s (clockReports a1 t) := by
  unfold clockReports
  repeat'
    first
    | (show Within _ _; exact Within.trans (by decide) hm)
    | intro _
    | with_reducible (first | assumption | apply each_frame | apply onlyIf_frame | apply reportUnit_frame | apply ite_frame)
    | split

theorem execClockSwitchWindowEnd_frame (h : Frame ps s t) (hm : Within [.pwr, .flights, .vecs, .run, .slc, .time, .counters, .clk, .led, .flt, .sec, .dir, .radio, .ifl, .nfc, .cus, .upd, .outs, .free] ps) (a1) : OutFrame ps s (execClockSwitchWindowEnd a1 t) := by
  unfold execClockSwitchWindowEnd
  repeat'
    first
    | (show Within _ _; exact Within.trans (by decide) hm)
    | intro _
    | with_reducible (first | assumption | apply OutFrame.next | apply modClk_frame | apply fault_frame | apply chainsGone_frame | apply chainsLeave_frame | apply drivesDrop_frame | apply each_frame | apply portDown_frame | apply clockReports_frame | apply ite_frame)
    | split
    | (extract_lets +onlyGivenNames x; first | (refine (fun hx : Frame ps s x => ?_) ?_ <;> [clear_value x; subst x]) | clear_value x)

theorem execXtal25Return_frame (h : Frame ps s t) (hm : Within [.pwr, .flights, .vecs, .run, .slc, .time, .counters, .clk, .led, .flt, .sec, .radio, .outs, .free] ps) : OutFrame ps s (execXtal25Return t) := by
  unfold execXtal25Return
  repeat'
    first
    | (show Within _ _; exact Within.trans (by decide) hm)
    | intro _
    | with_reducible (first | assumption | apply OutFrame.next | apply clockReports_frame | apply fault_frame | apply modClk_frame | apply onlyIf_frame | apply nextPoll_frame | apply ite_frame)
    | split
    | (extract_lets +onlyGivenNames x; first | (refine (fun hx : Frame ps s x => ?_) ?_ <;> [clear_value x; subst x]) | clear_value x)

theorem execLinkRailFault_frame (h : Frame ps s t) (hm : Within [.pwr, .flights, .vecs, .rings, .led, .flt, .cus, .outs] ps) (a1) : OutFrame ps s (execLinkRailFault a1 t) := by
  unfold execLinkRailFault
  repeat'
    first
    | (show Within _ _; exact Within.trans (by decide) hm)
    | intro _
    | with_reducible (first | assumption | apply OutFrame.next | apply drivesDrop_frame | apply linkDown_frame | apply onlyIf_frame | apply coexPins_frame | apply railLost_frame | apply ite_frame)
    | split
    | (extract_lets +onlyGivenNames x; first | (refine (fun hx : Frame ps s x => ?_) ?_ <;> [clear_value x; subst x]) | clear_value x)

theorem execRailGoodReturn_frame (h : Frame ps s t) (hm : Within [.pwr, .flights, .vecs, .rings, .led, .flt, .dir, .outs, .free] ps) (a1) : OutFrame ps s (execRailGoodReturn a1 t) := by
  unfold execRailGoodReturn
  repeat'
    first
    | (show Within _ _; exact Within.trans (by decide) hm)
    | intro _
    | with_reducible (first | assumption | apply OutFrame.next | apply modPwr_frame | apply writeFault_frame | apply trainLink_frame | apply onlyIf_frame | apply coexPins_frame | apply startRebuild_frame | apply ite_frame)
    | split
    | (extract_lets +onlyGivenNames x; first | (refine (fun hx : Frame ps s x => ?_) ?_ <;> [clear_value x; subst x]) | clear_value x)

theorem sliceServes_frame (h : Frame ps s t) (hm : Within [.pwr, .flights, .run, .slc, .led, .sec, .slk, .radio, .outs, .free] ps) : Frame ps s (sliceServes t) := by
  unfold sliceServes
  repeat'
    first
    | (show Within _ _; exact Within.trans (by decide) hm)
    | intro _
    | with_reducible (first | assumption | apply buttonFrame_frame | apply modRadio_frame | apply onlyIf_frame | apply nextPoll_frame)
    | split
    | (extract_lets +onlyGivenNames x; first | (refine (fun hx : Frame ps s x => ?_) ?_ <;> [clear_value x; subst x]) | clear_value x)

theorem parkedGroupGood_frame (h : Frame ps s t) (hm : Within [.pwr, .flights, .run, .slc, .led, .sec, .slk, .radio, .outs, .free] ps) (a1) : Frame ps s (parkedGroupGood a1 t) := by
  unfold parkedGroupGood
  repeat'
    first
    | (show Within _ _; exact Within.trans (by decide) hm)
    | intro _
    | with_reducible (first | assumption | apply onlyIf_frame | apply raiseEach_frame | apply sliceServes_frame | apply slicePowered_frame)
    | split
    | (extract_lets +onlyGivenNames x; first | (refine (fun hx : Frame ps s x => ?_) ?_ <;> [clear_value x; subst x]) | clear_value x)

theorem parkedGroupLate_frame (h : Frame ps s t) (hm : Within [.pwr, .radio] ps) : Frame ps s (parkedGroupLate t) := by
  unfold parkedGroupLate
  repeat'
    first
    | (show Within _ _; exact Within.trans (by decide) hm)
    | intro _
    | with_reducible (first | assumption | apply modRadio_frame | apply modPwr_frame | apply ite_frame)
    | split

theorem execEnableGroupGood_frame (h : Frame ps s t) (hm : Within [.pwr, .flights, .vecs, .rings, .run, .slc, .led, .sec, .slk, .radio, .outs, .free] ps) (a1) : OutFrame ps s (execEnableGroupGood a1 t) := by
  unfold execEnableGroupGood
  repeat'
    first
    | (show Within _ _; exact Within.trans (by decide) hm)
    | intro _
    | with_reducible (first | assumption | apply OutFrame.next | apply modPwr_frame | apply onlyIf_frame | apply coexPins_frame | apply parkedGroupGood_frame | apply trainLink_frame | apply raiseHearth_frame | apply raiseDue_frame | apply ite_frame)
    | split
    | (extract_lets +onlyGivenNames x; first | (refine (fun hx : Frame ps s x => ?_) ?_ <;> [clear_value x; subst x]) | clear_value x)

theorem execEnableGroupTimeout_frame (h : Frame ps s t) (hm : Within [.pwr, .vecs, .time, .counters, .clk, .led, .flt, .radio, .outs] ps) (a1) : OutFrame ps s (execEnableGroupTimeout a1 t) := by
  unfold execEnableGroupTimeout
  repeat'
    first
    | (show Within _ _; exact Within.trans (by decide) hm)
    | intro _
    | with_reducible (first | assumption | apply OutFrame.next | apply lowerFrom_frame | apply elapseTo_frame | apply modPwr_frame | apply fault_frame | apply onlyIf_frame | apply parkedGroupLate_frame | apply fromRtc_frame | apply ite_frame)
    | split
    | (extract_lets +onlyGivenNames x; first | (refine (fun hx : Frame ps s x => ?_) ?_ <;> [clear_value x; subst x]) | clear_value x)

theorem trialFails_frame (h : Frame ps s t) (hm : Within [.upd] ps) (a1) : Frame ps s (trialFails a1 t) := by
  unfold trialFails
  repeat'
    first
    | (show Within _ _; exact Within.trans (by decide) hm)
    | intro _
    | with_reducible (first | assumption | apply updEvent_frame | apply slotState_frame)

theorem trySlot_frame (h : Frame ps s t) (hm : Within [.upd] ps) (a1) : Frame ps s (trySlot a1 t).2 := by
  unfold trySlot
  repeat'
    first
    | (show Within _ _; exact Within.trans (by decide) hm)
    | intro _
    | with_reducible (first | assumption | apply trialFails_frame | apply slotState_frame | apply journal_frame | apply ite_frame)
    | split
    | (extract_lets +onlyGivenNames x; first | (refine (fun hx : Frame ps s x => ?_) ?_ <;> [clear_value x; subst x]) | clear_value x)
    | dsimp only

theorem bootChoice_frame (h : Frame ps s t) (hm : Within [.upd] ps) : Frame ps s (bootChoice t).2 := by
  unfold bootChoice
  repeat'
    first
    | (show Within _ _; exact Within.trans (by decide) hm)
    | intro _
    | with_reducible (first | assumption | apply journal_frame | apply trySlot_frame | apply trialFails_frame | apply ite_frame)
    | split
    | (extract_lets +onlyGivenNames x; first | (refine (fun hx : Frame ps s x => ?_) ?_ <;> [clear_value x; subst x]) | clear_value x)
    | dsimp only

theorem execFuseLoadEnd_frame (h : Frame ps s t) (hm : Within [.pwr, .sys, .flights, .vecs, .rings, .time, .counters, .clk, .led, .flt, .sec, .slk, .dir, .radio, .cap, .ifl, .nfc, .cus, .upd, .outs, .free] ps) : OutFrame ps s (execFuseLoadEnd t) := by
  unfold execFuseLoadEnd
  refine OutFrame.next ?_
  have k := bootChoice_frame h (hm.sub (by decide))
  split
  · split
    · exact enterHearth_frame (drawn_frame h (hm.sub (by decide)) _) (hm.sub (by decide)) _
    · split
      · rename_i e
        rw [e] at k
        exact modPwr_frame (modUpd_frame k (hm.sub (by decide)) _) (hm.sub (by decide)) _
      · rename_i e
        rw [e] at k
        exact enterHearth_frame k (hm.sub (by decide)) _
  · exact h

theorem portsRefit_frame (h : Frame ps s t) (hm : Within [.outs] ps) (a1) : Frame ps s (portsRefit a1 t) := by
  unfold portsRefit
  repeat'
    first
    | (show Within _ _; exact Within.trans (by decide) hm)
    | intro _
    | with_reducible (first | assumption | apply emit_frame | apply onlyIf_frame | apply drivePins_frame | apply each_frame | apply ite_frame)
    | split
    | (extract_lets +onlyGivenNames x; first | (refine (fun hx : Frame ps s x => ?_) ?_ <;> [clear_value x; subst x]) | clear_value x)

theorem takeRecords_frame (h : Frame ps s t) (hm : Within [.pwr, .sys, .cfg, .outs] ps) : Frame ps s (takeRecords t) := by
  unfold takeRecords
  repeat'
    first
    | (show Within _ _; exact Within.trans (by decide) hm)
    | intro _
    | with_reducible (first | assumption | apply portsRefit_frame | apply modPwr_frame | apply modSys_frame | apply modCfg_frame)
    | split
    | (extract_lets +onlyGivenNames x; first | (refine (fun hx : Frame ps s x => ?_) ?_ <;> [clear_value x; subst x]) | clear_value x)

theorem reportRecords_frame (h : Frame ps s t) (hm : Within [.vecs, .led, .flt, .outs] ps) : Frame ps s (reportRecords t) := by
  unfold reportRecords
  repeat'
    first
    | (show Within _ _; exact Within.trans (by decide) hm)
    | intro _
    | with_reducible (first | assumption | apply each_frame | apply writeFault_frame | apply ite_frame)
    | split
    | (extract_lets +onlyGivenNames x; first | (refine (fun hx : Frame ps s x => ?_) ?_ <;> [clear_value x; subst x]) | (refine (fun hx : Frame ps s x.2 => ?_) ?_ <;> [clear_value x; subst x]) | (refine (fun hx : Frame ps s x.1 => ?_) ?_ <;> [clear_value x; subst x]) | clear_value x)

theorem checkUnit_frame (h : Frame ps s t) (hm : Within [.pwr, .vecs, .led, .flt, .radio, .outs] ps) (a1) : Frame ps s (checkUnit a1 t) := by
  unfold checkUnit
  repeat'
    first
    | (show Within _ _; exact Within.trans (by decide) hm)
    | intro _
    | with_reducible (first | assumption | apply fault_frame | apply modFlt_frame | apply modPwr_frame | apply onlyIf_frame | apply uhfEvent_frame | apply modUhfCh_frame | apply outOfService_frame | apply ite_frame)
    | split
    | (extract_lets +onlyGivenNames x; first | (refine (fun hx : Frame ps s x => ?_) ?_ <;> [clear_value x; subst x]) | clear_value x)

theorem writeVcore_frame (h : Frame ps s t) (hm : Within [.pwr, .vecs, .time, .counters, .outs] ps) (a1) : Frame ps s (writeVcore a1 t) := by
  unfold writeVcore
  repeat'
    first
    | (show Within _ _; exact Within.trans (by decide) hm)
    | intro _
    | with_reducible (first | assumption | apply emit_frame | apply modPwr_frame | apply elapseNs_frame)
    | split

theorem setVcore_frame (h : Frame ps s t) (hm : Within [.pwr, .vecs, .time, .counters, .outs, .free] ps) : Frame ps s (setVcore t) := by
  unfold setVcore
  repeat'
    first
    | (show Within _ _; exact Within.trans (by decide) hm)
    | intro _
    | with_reducible (first | assumption | apply each_frame | apply writeVcore_frame | apply drawn_frame | apply ite_frame)
    | split
    | (extract_lets +onlyGivenNames x; first | (refine (fun hx : Frame ps s x => ?_) ?_ <;> [clear_value x; subst x]) | clear_value x)

theorem execConfigurationLoad_frame (h : Frame ps s t) (hm : Within [.pwr, .sys, .vecs, .run, .slc, .time, .counters, .led, .cfg, .flt, .sec, .dir, .radio, .outs, .free] ps) (a1) : OutFrame ps s (execConfigurationLoad a1 t) := by
  unfold execConfigurationLoad
  repeat'
    first
    | (show Within _ _; exact Within.trans (by decide) hm)
    | intro _
    | with_reducible (first | assumption | apply OutFrame.next | apply reportRecords_frame | apply takeRecords_frame | apply setVcore_frame | apply each_frame | apply checkUnit_frame | apply modPwr_frame | apply checkStarter_frame | apply ite_frame)
    | split
    | (extract_lets +onlyGivenNames x; first | (refine (fun hx : Frame ps s x => ?_) ?_ <;> [clear_value x; subst x]) | clear_value x)

theorem endKeyWork_frame (h : Frame ps s t) (hm : Within [.flights, .run, .slc, .led] ps) : Frame ps s (endKeyWork t) := by
  unfold endKeyWork
  repeat'
    first
    | (show Within _ _; exact Within.trans (by decide) hm)
    | intro _
    | with_reducible (first | assumption | apply each_frame | apply settle_frame | apply ite_frame)
    | split

theorem stampAll_frame (h : Frame ps s t) (hm : Within [.flights, .vecs, .rings, .run, .slc, .cus] ps) : Frame ps s (stampAll t) := by
  unfold stampAll
  repeat'
    first
    | (show Within _ _; exact Within.trans (by decide) hm)
    | intro _
    | with_reducible (first | assumption | apply modHost_frame | apply modCus_frame | apply modSlc_frame)
    | split
    | (extract_lets +onlyGivenNames x; first | (refine (fun hx : Frame ps s x => ?_) ?_ <;> [clear_value x; subst x]) | (refine (fun hx : Frame ps s x.2 => ?_) ?_ <;> [clear_value x; subst x]) | (refine (fun hx : Frame ps s x.1 => ?_) ?_ <;> [clear_value x; subst x]) | clear_value x)

theorem settleBroken_frame (h : Frame ps s t) (hm : Within [.sys, .flights, .run, .slc, .led] ps) : Frame ps s (settleBroken t) := by
  unfold settleBroken
  repeat'
    first
    | (show Within _ _; exact Within.trans (by decide) hm)
    | intro _
    | with_reducible (first | assumption | apply each_frame | apply settle_frame | apply logPart_frame | apply modSys_frame)
    | split
    | (extract_lets +onlyGivenNames x; first | (refine (fun hx : Frame ps s x => ?_) ?_ <;> [clear_value x; subst x]) | (refine (fun hx : Frame ps s x.2 => ?_) ?_ <;> [clear_value x; subst x]) | (refine (fun hx : Frame ps s x.1 => ?_) ?_ <;> [clear_value x; subst x]) | clear_value x)

theorem activate_frame (h : Frame ps s t) (hm : Within [.upd] ps) (a1) (a2) : Frame ps s (activate a1 a2 t) := by
  unfold activate
  repeat'
    first
    | (show Within _ _; exact Within.trans (by decide) hm)
    | intro _
    | with_reducible (first | assumption | apply journal_frame | apply ite_frame)
    | split
    | (extract_lets +onlyGivenNames x; first | (refine (fun hx : Frame ps s x => ?_) ?_ <;> [clear_value x; subst x]) | clear_value x)

theorem hearthRecord_frame (h : Frame ps s t) (hm : Within [.vecs, .led, .flt, .outs, .free] ps) : Frame ps s (hearthRecord t) := by
  unfold hearthRecord
  repeat'
    first
    | (show Within _ _; exact Within.trans (by decide) hm)
    | intro _
    | with_reducible (first | assumption | apply modFlt_frame | apply writeFault_frame | apply drawn_frame | apply ite_frame)
    | split
    | (extract_lets +onlyGivenNames x; first | (refine (fun hx : Frame ps s x => ?_) ?_ <;> [clear_value x; subst x]) | clear_value x)

theorem tamperRecord_frame (h : Frame ps s t) (hm : Within [.vecs, .led, .flt, .outs] ps) : Frame ps s (tamperRecord t) := by
  unfold tamperRecord
  repeat'
    first
    | (show Within _ _; exact Within.trans (by decide) hm)
    | intro _
    | with_reducible (first | assumption | apply modFlt_frame | apply writeFault_frame | apply ite_frame)
    | split

theorem trialRelease_frame (h : Frame ps s t) (hm : Within [.upd] ps) : Frame ps s (trialRelease t) := by
  unfold trialRelease
  repeat'
    first
    | (show Within _ _; exact Within.trans (by decide) hm)
    | intro _
    | with_reducible (first | assumption | apply modUpd_frame | apply journal_frame | apply ite_frame)
    | split

theorem beginParking_frame (h : Frame ps s t) (hm : Within [.pwr] ps) : Frame ps s (beginParking t) := by
  unfold beginParking
  repeat'
    first
    | (show Within _ _; exact Within.trans (by decide) hm)
    | intro _
    | with_reducible (first | assumption | apply modPwr_frame | apply ite_frame)
    | split

theorem release_frame (h : Frame ps s t) (hm : Within [.pwr, .sys, .flights, .vecs, .rings, .led, .flt, .slk, .dir, .radio, .ifl, .cus, .upd, .outs, .free] ps) : Frame ps s (release t) := by
  unfold release
  repeat'
    first
    | (show Within _ _; exact Within.trans (by decide) hm)
    | intro _
    | with_reducible (first | assumption | apply modSys_frame | apply modPwr_frame | apply modSlk_frame | apply modRadio_frame | apply modFlt_frame | apply modCus_frame | apply tamperRecord_frame | apply hearthRecord_frame | apply trainLink_frame | apply trialRelease_frame | apply linksReleased_frame | apply heldDoorbells_frame | apply onlyIf_frame | apply startRebuild_frame | apply lowBatteryAnew_frame | apply sendState_frame)
    | split
    | (extract_lets +onlyGivenNames x; first | (refine (fun hx : Frame ps s x => ?_) ?_ <;> [clear_value x; subst x]) | clear_value x)

theorem warmReset_frame (h : Frame ps s t) (hm : Within [.pwr, .sys, .flights, .vecs, .rings, .counters, .clk, .flt, .sec, .slk, .dir, .radio, .cap, .ifl, .nfc, .cus, .upd, .outs] ps) (a1) : Frame ps s (warmReset a1 t) := by
  unfold warmReset
  repeat'
    first
    | (show Within _ _; exact Within.trans (by decide) hm)
    | intro _
    | with_reducible (first | assumption | apply modSys_frame | apply resetBlocks_frame | apply pickPair_frame | apply startUp_frame | apply ite_frame)
    | split
    | (extract_lets +onlyGivenNames x; first | (refine (fun hx : Frame ps s x => ?_) ?_ <;> [clear_value x; subst x]) | clear_value x)

theorem execWarmReset_frame (h : Frame ps s t) (hm : Within [.pwr, .sys, .flights, .vecs, .rings, .counters, .clk, .flt, .sec, .slk, .dir, .radio, .cap, .ifl, .nfc, .cus, .upd, .outs] ps) (a1) : OutFrame ps s (execWarmReset a1 t) := by
  unfold execWarmReset
  repeat'
    first
    | (show Within _ _; exact Within.trans (by decide) hm)
    | intro _
    | with_reducible (first | assumption | apply OutFrame.next | apply warmReset_frame | apply ite_frame)
    | split

theorem execWatchdogExpiry_frame (h : Frame ps s t) (hm : Within [.pwr, .sys, .flights, .vecs, .rings, .time, .counters, .clk, .led, .flt, .sec, .slk, .dir, .radio, .cap, .ifl, .nfc, .cus, .upd, .outs, .free] ps) : OutFrame ps s (execWatchdogExpiry t) := by
  unfold execWatchdogExpiry
  repeat'
    first
    | (show Within _ _; exact Within.trans (by decide) hm)
    | intro _
    | with_reducible (first | assumption | apply OutFrame.next | apply enterHearth_frame | apply modSys_frame | apply ite_frame)
    | split

theorem execCheckpoint_frame (h : Frame ps s t) (hm : Within [.pwr, .flights, .vecs, .rings, .time, .counters, .led, .outs] ps) : OutFrame ps s (execCheckpoint t) := by
  unfold execCheckpoint
  repeat'
    first
    | (show Within _ _; exact Within.trans (by decide) hm)
    | intro _
    | with_reducible (first | assumption | apply OutFrame.next | apply elapseTo_frame | apply takeCheckpoint_frame | apply modPwr_frame | apply ite_frame)
    | split
    | (extract_lets +onlyGivenNames x; first | (refine (fun hx : Frame ps s x => ?_) ?_ <;> [clear_value x; subst x]) | clear_value x)

theorem keptInParked_frame {u : State} (h : Frame ps s t) (_k : Frame ps s u) (hm : Within [.radio, .cap, .ifl] ps) :
    Frame ps s (keptInParked u t) :=
  step_frame h rfl rfl fun p hp => by
    cases p <;> first | exact rfl | exact ⟨rfl, rfl⟩ | exact absurd (hm (by decide)) hp

theorem resume_frame (h : Frame ps s t) (hm : Within [.pwr, .sys, .flights, .vecs, .rings, .time, .counters, .clk, .led, .flt, .sec, .slk, .dir, .radio, .cap, .ifl, .nfc, .cus, .upd, .outs] ps) (a1) : Frame ps s (resume a1 t) := by
  unfold resume
  repeat'
    first
    | (show Within _ _; exact Within.trans (by decide) hm)
    | intro _
    | with_reducible (first | assumption | apply keptInParked_frame | apply resetBlocks_frame | apply startUp_frame | apply cntRateChange_frame | apply pickPair_frame)
    | split
    | (extract_lets +onlyGivenNames x; first | (refine (fun hx : Frame ps s x => ?_) ?_ <;> [clear_value x; subst x]) | clear_value x)

theorem cabTrigger_frame (h : Frame ps s t) (hm : Within [.pwr, .sys, .flights, .vecs, .rings, .time, .counters, .clk, .led, .flt, .sec, .slk, .dir, .radio, .cap, .ifl, .nfc, .cus, .upd, .outs] ps) : Frame ps s (cabTrigger t) := by
  unfold cabTrigger
  repeat'
    first
    | (show Within _ _; exact Within.trans (by decide) hm)
    | intro _
    | with_reducible (first | assumption | apply resume_frame | apply modPwr_frame | apply abandonParking_frame | apply ite_frame)
    | split

theorem execPwrParkReq_frame (h : Frame ps s t) (hm : Within [.pwr] ps) (a1) : OutFrame ps s (execPwrParkReq a1 t) := by
  unfold execPwrParkReq
  repeat'
    first
    | (show Within _ _; exact Within.trans (by decide) hm)
    | intro _
    | with_reducible (first | assumption | apply OutFrame.next | apply beginParking_frame | apply ite_frame)
    | split

theorem execPwrParkCancel_frame (h : Frame ps s t) (hm : Within [.pwr, .vecs, .rings, .outs] ps) (a1) : OutFrame ps s (execPwrParkCancel a1 t) := by
  unfold execPwrParkCancel
  repeat'
    first
    | (show Within _ _; exact Within.trans (by decide) hm)
    | intro _
    | with_reducible (first | assumption | apply OutFrame.next | apply abandonParking_frame | apply ite_frame)
    | split

theorem execParkedEntryIdle_frame (h : Frame ps s t) (hm : Within [.pwr, .vecs, .time, .counters, .outs] ps) : OutFrame ps s (execParkedEntryIdle t) := by
  unfold execParkedEntryIdle
  repeat'
    first
    | (show Within _ _; exact Within.trans (by decide) hm)
    | intro _
    | with_reducible (first | assumption | apply OutFrame.next | apply beginParking_frame | apply elapseTo_frame | apply ite_frame)
    | split

theorem execParkedEntryDrained_frame (h : Frame ps s t) (hm : Within [.pwr, .flights, .vecs, .rings, .led, .slk, .outs] ps) : OutFrame ps s (execParkedEntryDrained t) := by
  unfold execParkedEntryDrained
  repeat'
    first
    | (show Within _ _; exact Within.trans (by decide) hm)
    | intro _
    | with_reducible (first | assumption | apply OutFrame.next | apply lockRequest_frame | apply tryLog_frame | apply takeCheckpoint_frame | apply modPwr_frame | apply ite_frame)
    | split
    | (extract_lets +onlyGivenNames x; first | (refine (fun hx : Frame ps s x => ?_) ?_ <;> [clear_value x; subst x]) | clear_value x)

theorem shutDrive_frame (h : Frame ps s t) (hm : Within [.vecs, .led, .flt, .cus, .outs] ps) (a1) (a2) : Frame ps s (shutDrive a1 a2 t) := by
  unfold shutDrive
  repeat'
    first
    | (show Within _ _; exact Within.trans (by decide) hm)
    | intro _
    | with_reducible (first | assumption | apply onlyIf_frame | apply emit_frame | apply modDrive_frame | apply outOfService_frame | apply ite_frame)
    | split
    | (extract_lets +onlyGivenNames x; first | (refine (fun hx : Frame ps s x => ?_) ?_ <;> [clear_value x; subst x]) | clear_value x)

theorem fabricDown_frame (h : Frame ps s t) (hm : Within [.dir, .radio, .nfc, .upd, .outs] ps) : Frame ps s (fabricDown t) := by
  unfold fabricDown
  repeat'
    first
    | (show Within _ _; exact Within.trans (by decide) hm)
    | intro _
    | with_reducible (first | assumption | apply modDir_frame | apply modNfc_frame | apply modUpd_frame | apply drivePri_frame | apply driveReq_frame | apply modRadio_frame | apply ite_frame)
    | split
    | (extract_lets +onlyGivenNames x; first | (refine (fun hx : Frame ps s x => ?_) ?_ <;> [clear_value x; subst x]) | clear_value x)

theorem enterParked_frame (h : Frame ps s t) (hm : Within [.pwr, .sys, .time, .counters, .clk, .led, .sec, .dir, .radio, .ifl, .nfc, .upd, .outs] ps) : Frame ps s (enterParked t) := by
  unfold enterParked
  repeat'
    first
    | (show Within _ _; exact Within.trans (by decide) hm)
    | intro _
    | with_reducible (first | assumption | apply modSys_frame | apply lowerFrom_frame | apply wakeLane_frame | apply fabricDown_frame | apply fromRtc_frame | apply readersOff_frame | apply modPwr_frame | apply lowBatteryAnew_frame | apply modRadio_frame | apply cntRateChange_frame)
    | split
    | (extract_lets +onlyGivenNames x; first | (refine (fun hx : Frame ps s x => ?_) ?_ <;> [clear_value x; subst x]) | clear_value x)

theorem execDriveShutdownComplete_frame (h : Frame ps s t) (hm : Within [.pwr, .sys, .flights, .vecs, .rings, .time, .counters, .clk, .led, .flt, .sec, .slk, .dir, .radio, .cap, .ifl, .nfc, .cus, .upd, .outs] ps) (a1) : OutFrame ps s (execDriveShutdownComplete a1 t) := by
  unfold execDriveShutdownComplete
  repeat'
    first
    | (show Within _ _; exact Within.trans (by decide) hm)
    | intro _
    | with_reducible (first | assumption | apply OutFrame.next | apply enterParked_frame | apply linksParked_frame | apply linkDown_frame | apply each_frame | apply shutDrive_frame | apply onlyIf_frame | apply resume_frame | apply ite_frame)
    | split
    | (extract_lets +onlyGivenNames x; first | (refine (fun hx : Frame ps s x => ?_) ?_ <;> [clear_value x; subst x]) | clear_value x)

theorem recoveredToParked_frame (h : Frame ps s t) (hm : Within [.pwr, .sys, .time, .counters, .clk, .led, .sec, .dir, .radio, .ifl, .nfc, .upd, .outs] ps) : Frame ps s (recoveredToParked t) := by
  unfold recoveredToParked
  repeat'
    first
    | (show Within _ _; exact Within.trans (by decide) hm)
    | intro _
    | with_reducible (first | assumption | apply modRadio_frame | apply enterParked_frame | apply modPwr_frame)

theorem execLedgerReplay_frame (h : Frame ps s t) (hm : Within [.pwr, .sys, .flights, .vecs, .rings, .run, .slc, .time, .counters, .clk, .led, .flt, .sec, .slk, .dir, .radio, .cap, .ifl, .nfc, .cus, .upd, .outs, .free] ps) (a1) (a2) : OutFrame ps s (execLedgerReplay a1 a2 t) := by
  unfold execLedgerReplay
  repeat'
    first
    | (show Within _ _; exact Within.trans (by decide) hm)
    | intro _
    | with_reducible (first | assumption | apply OutFrame.next | apply enterHearth_frame | apply modLed_frame | apply modHost_frame | apply settleBroken_frame | apply onlyIf_frame | apply endKeyWork_frame | apply deltaCopied_frame | apply activate_frame | apply stampAll_frame | apply recoveredToParked_frame | apply release_frame | apply ite_frame)
    | split
    | (extract_lets +onlyGivenNames x; first | (refine (fun hx : Frame ps s x => ?_) ?_ <;> [clear_value x; subst x]) | (refine (fun hx : Frame ps s x.2 => ?_) ?_ <;> [clear_value x; subst x]) | (refine (fun hx : Frame ps s x.1 => ?_) ?_ <;> [clear_value x; subst x]) | clear_value x)

theorem enterDormant_frame (h : Frame ps s t) (hm : Within [.pwr, .radio, .ifl, .outs] ps) (a1) (a2) : Frame ps s (enterDormant a1 a2 t) := by
  unfold enterDormant
  repeat'
    first
    | (show Within _ _; exact Within.trans (by decide) hm)
    | intro _
    | with_reducible (first | assumption | apply modPwr_frame | apply onlyIf_frame | apply stopCarrier_frame | apply modIfl_frame | apply modRadio_frame | apply useSlice_frame | apply ite_frame)
    | split
    | (extract_lets +onlyGivenNames x; first | (refine (fun hx : Frame ps s x => ?_) ?_ <;> [clear_value x; subst x]) | clear_value x)

theorem dormantOff_frame (h : Frame ps s t) (hm : Within [.pwr, .sys, .flights, .vecs, .rings, .counters, .clk, .led, .flt, .sec, .slk, .dir, .radio, .cap, .ifl, .nfc, .cus, .upd, .outs] ps) : Frame ps s (dormantOff t) := by
  unfold dormantOff
  repeat'
    first
    | (show Within _ _; exact Within.trans (by decide) hm)
    | intro _
    | with_reducible (first | assumption | apply tryLog_frame | apply lowerFrom_frame | apply pickPair_frame | apply coldReset_frame | apply modRadio_frame | apply modPwr_frame | apply ite_frame)
    | split
    | (extract_lets +onlyGivenNames x; first | (refine (fun hx : Frame ps s x => ?_) ?_ <;> [clear_value x; subst x]) | clear_value x)

theorem wake_frame (h : Frame ps s t) (hm : Within [.pwr, .radio, .outs] ps) (a1) : Frame ps s (wake a1 t) := by
  unfold wake
  repeat'
    first
    | (show Within _ _; exact Within.trans (by decide) hm)
    | intro _
    | with_reducible (first | assumption | apply modPwr_frame | apply lowBatteryAnew_frame | apply raiseEnable_frame | apply modRadio_frame | apply ite_frame)
    | split
    | (extract_lets +onlyGivenNames x; first | (refine (fun hx : Frame ps s x => ?_) ?_ <;> [clear_value x; subst x]) | clear_value x)

theorem execNearListRestored_frame (h : Frame ps s t) (hm : Within [.pwr, .radio, .outs] ps) : OutFrame ps s (execNearListRestored t) := by
  unfold execNearListRestored
  repeat'
    first
    | (show Within _ _; exact Within.trans (by decide) hm)
    | intro _
    | with_reducible (first | assumption | apply OutFrame.next | apply useSlice_frame | apply onlyIf_frame | apply modRadio_frame | apply ite_frame)
    | split
    | (extract_lets +onlyGivenNames x; first | (refine (fun hx : Frame ps s x => ?_) ?_ <;> [clear_value x; subst x]) | clear_value x)

theorem execWakeWindowEnd_frame (h : Frame ps s t) (hm : Within [.pwr, .vecs, .time, .counters, .radio, .ifl, .outs] ps) : OutFrame ps s (execWakeWindowEnd t) := by
  unfold execWakeWindowEnd
  repeat'
    first
    | (show Within _ _; exact Within.trans (by decide) hm)
    | intro _
    | with_reducible (first | assumption | apply OutFrame.next | apply elapseTo_frame | apply modPwr_frame | apply enterDormant_frame | apply ite_frame)
    | split
    | (extract_lets +onlyGivenNames x; first | (refine (fun hx : Frame ps s x => ?_) ?_ <;> [clear_value x; subst x]) | clear_value x)

theorem execDormancyHour_frame (h : Frame ps s t) (hm : Within [.pwr, .vecs, .time, .counters, .radio, .ifl, .outs] ps) : OutFrame ps s (execDormancyHour t) := by
  unfold execDormancyHour
  repeat'
    first
    | (show Within _ _; exact Within.trans (by decide) hm)
    | intro _
    | with_reducible (first | assumption | apply OutFrame.next | apply elapseTo_frame | apply modPwr_frame | apply enterDormant_frame | apply ite_frame)
    | split
    | (extract_lets +onlyGivenNames x; first | (refine (fun hx : Frame ps s x => ?_) ?_ <;> [clear_value x; subst x]) | clear_value x)

theorem execLowBattery_frame (h : Frame ps s t) (hm : Within [.pwr, .vecs, .time, .counters, .radio, .ifl, .outs] ps) : OutFrame ps s (execLowBattery t) := by
  unfold execLowBattery
  repeat'
    first
    | (show Within _ _; exact Within.trans (by decide) hm)
    | intro _
    | with_reducible (first | assumption | apply OutFrame.next | apply enterDormant_frame | apply elapseTo_frame | apply modPwr_frame | apply onlyIf_frame | apply beginParking_frame | apply foldl_frame | refine foldl_frame ?_ ?_ (by with_reducible assumption) | apply ite_frame)
    | split
    | (extract_lets +onlyGivenNames x; first | (refine (fun hx : Frame ps s x => ?_) ?_ <;> [clear_value x; subst x]) | clear_value x)

theorem execPwrAlarmS_frame (h : Frame ps s t) (hm : Within [.pwr] ps) (a1) (a2) : OutFrame ps s (execPwrAlarmS a1 a2 t) := by
  unfold execPwrAlarmS
  repeat'
    first
    | (show Within _ _; exact Within.trans (by decide) hm)
    | intro _
    | with_reducible (first | assumption | apply OutFrame.next | apply modPwr_frame | apply ite_frame)
    | split

theorem execRtcAlarm_frame (h : Frame ps s t) (hm : Within [.pwr, .vecs, .time, .counters, .radio, .outs] ps) : OutFrame ps s (execRtcAlarm t) := by
  unfold execRtcAlarm
  repeat'
    first
    | (show Within _ _; exact Within.trans (by decide) hm)
    | intro _
    | with_reducible (first | assumption | apply OutFrame.next | apply modPwr_frame | apply elapseTo_frame | apply wake_frame)
    | split
    | (extract_lets +onlyGivenNames x; first | (refine (fun hx : Frame ps s x => ?_) ?_ <;> [clear_value x; subst x]) | clear_value x)

theorem modPin_frame (h : Frame ps s t) (hm : Within [.pwr] ps) (a1) (a2) : Frame ps s (modPin a1 a2 t) := by
  unfold modPin
  repeat'
    first
    | (show Within _ _; exact Within.trans (by decide) hm)
    | intro _
    | with_reducible (first | assumption | apply modPwr_frame)

theorem ignTimer_frame (h : Frame ps s t) (hm : Within [.slk] ps) (a1) : Frame ps s (ignTimer a1 t) := by
  unfold ignTimer
  repeat'
    first
    | (show Within _ _; exact Within.trans (by decide) hm)
    | intro _
    | with_reducible (first | assumption | apply modSlk_frame | apply ite_frame)
    | split
    | (extract_lets +onlyGivenNames x; first | (refine (fun hx : Frame ps s x => ?_) ?_ <;> [clear_value x; subst x]) | clear_value x)

theorem execWakePinCrossing_frame (h : Frame ps s t) (hm : Within [.pwr, .slk] ps) (a1) (a2) : OutFrame ps s (execWakePinCrossing a1 a2 t) := by
  unfold execWakePinCrossing
  repeat'
    first
    | (show Within _ _; exact Within.trans (by decide) hm)
    | intro _
    | with_reducible (first | assumption | apply OutFrame.next | apply modPin_frame | apply ignTimer_frame | apply ite_frame)
    | split
    | (extract_lets +onlyGivenNames x; first | (refine (fun hx : Frame ps s x => ?_) ?_ <;> [clear_value x; subst x]) | clear_value x)

theorem ignitionOn_frame (h : Frame ps s t) (hm : Within [.pwr, .sys, .flights, .vecs, .rings, .time, .counters, .clk, .led, .flt, .sec, .slk, .dir, .radio, .cap, .ifl, .nfc, .cus, .upd, .outs] ps) : Frame ps s (ignitionOn t) := by
  unfold ignitionOn
  repeat'
    first
    | (show Within _ _; exact Within.trans (by decide) hm)
    | intro _
    | with_reducible (first | assumption | apply leaveService_frame | apply onlyIf_frame | apply modFlt_frame | apply cabTrigger_frame | apply ite_frame)
    | split

theorem execWakeEvent_frame (h : Frame ps s t) (hm : Within [.pwr, .sys, .flights, .vecs, .rings, .time, .counters, .clk, .led, .flt, .sec, .slk, .dir, .radio, .cap, .ifl, .nfc, .cus, .upd, .outs] ps) (a1) : OutFrame ps s (execWakeEvent a1 t) := by
  unfold execWakeEvent
  repeat'
    first
    | (show Within _ _; exact Within.trans (by decide) hm)
    | intro _
    | with_reducible (first | assumption | apply OutFrame.next | apply modPin_frame | apply elapseTo_frame | apply onlyIf_frame | apply supplyStep_frame | apply wake_frame | apply resume_frame | apply modPwr_frame | apply ignitionOn_frame | apply ite_frame)
    | split
    | (extract_lets +onlyGivenNames x; first | (refine (fun hx : Frame ps s x => ?_) ?_ <;> [clear_value x; subst x]) | clear_value x)

theorem execDsenseChange_frame (h : Frame ps s t) (hm : Within [.pwr, .sys, .flights, .vecs, .rings, .time, .counters, .clk, .led, .flt, .sec, .slk, .dir, .radio, .cap, .ifl, .nfc, .cus, .upd, .outs] ps) (a1) (a2) : OutFrame ps s (execDsenseChange a1 a2 t) := by
  unfold execDsenseChange
  repeat'
    first
    | (show Within _ _; exact Within.trans (by decide) hm)
    | intro _
    | with_reducible (first | assumption | apply OutFrame.next | apply modPwr_frame | apply onlyIf_frame | apply cabTrigger_frame | apply ite_frame)
    | split
    | (extract_lets +onlyGivenNames x; first | (refine (fun hx : Frame ps s x => ?_) ?_ <;> [clear_value x; subst x]) | clear_value x)

theorem execWakeStuck_frame (h : Frame ps s t) (hm : Within [.pwr, .vecs, .time, .counters, .led, .flt, .slk, .outs] ps) (a1) : OutFrame ps s (execWakeStuck a1 t) := by
  unfold execWakeStuck
  repeat'
    first
    | (show Within _ _; exact Within.trans (by decide) hm)
    | intro _
    | with_reducible (first | assumption | apply OutFrame.next | apply modPin_frame | apply elapseTo_frame | apply ignTimer_frame | apply fault_frame | apply ite_frame)
    | split
    | (extract_lets +onlyGivenNames x; first | (refine (fun hx : Frame ps s x => ?_) ?_ <;> [clear_value x; subst x]) | clear_value x)

theorem execWakeUnmask_frame (h : Frame ps s t) (hm : Within [.pwr, .vecs, .time, .counters, .led, .flt, .outs] ps) (a1) : OutFrame ps s (execWakeUnmask a1 t) := by
  unfold execWakeUnmask
  repeat'
    first
    | (show Within _ _; exact Within.trans (by decide) hm)
    | intro _
    | with_reducible (first | assumption | apply OutFrame.next | apply writeFault_frame | apply modPin_frame | apply elapseTo_frame | apply ite_frame)
    | split
    | (extract_lets +onlyGivenNames x; first | (refine (fun hx : Frame ps s x => ?_) ?_ <;> [clear_value x; subst x]) | clear_value x)

theorem execWakeSlicePowerDown_frame (h : Frame ps s t) (hm : Within [.pwr, .vecs, .time, .counters, .outs] ps) : OutFrame ps s (execWakeSlicePowerDown t) := by
  unfold execWakeSlicePowerDown
  repeat'
    first
    | (show Within _ _; exact Within.trans (by decide) hm)
    | intro _
    | with_reducible (first | assumption | apply OutFrame.next | apply modPwr_frame | apply lowerEnable_frame | apply elapseTo_frame | apply ite_frame)
    | split

theorem execServiceEnd_frame (h : Frame ps s t) (hm : Within [.pwr, .vecs, .rings, .time, .counters, .upd, .outs] ps) : OutFrame ps s (execServiceEnd t) := by
  unfold execServiceEnd
  repeat'
    first
    | (show Within _ _; exact Within.trans (by decide) hm)
    | intro _
    | with_reducible (first | assumption | apply OutFrame.next | apply leaveService_frame | apply elapseTo_frame | apply ite_frame)
    | split

theorem execDebugDurationEnd_frame (h : Frame ps s t) (hm : Within [.pwr, .vecs, .rings, .time, .counters, .flt, .upd, .outs] ps) : OutFrame ps s (execDebugDurationEnd t) := by
  unfold execDebugDurationEnd
  repeat'
    first
    | (show Within _ _; exact Within.trans (by decide) hm)
    | intro _
    | with_reducible (first | assumption | apply OutFrame.next | apply closeDebug_frame | apply elapseTo_frame | apply ite_frame)
    | split

theorem idle_frame (h : Frame ps s t) (hm : Within [.pwr, .sys, .flights, .vecs, .rings, .time, .counters, .clk, .led, .flt, .sec, .slk, .dir, .radio, .cap, .ifl, .nfc, .cus, .upd, .outs] ps) : Frame ps s (idle t) := by
  unfold idle
  repeat'
    first
    | (show Within _ _; exact Within.trans (by decide) hm)
    | intro _
    | with_reducible (first | assumption | apply dormantOff_frame | apply elapseNs_frame | apply onlyIf_frame | apply propWatch_frame)
    | split
    | (extract_lets +onlyGivenNames x; first | (refine (fun hx : Frame ps s x => ?_) ?_ <;> [clear_value x; subst x]) | clear_value x)

theorem reportUp_frame (h : Frame ps s t) (hm : Within [.ifl, .outs] ps) (a1) (a2) (a3) (a4) : Frame ps s (reportUp a1 a2 a3 a4 t) := by
  unfold reportUp
  repeat'
    first
    | (show Within _ _; exact Within.trans (by decide) hm)
    | intro _
    | with_reducible (first | assumption | apply onlyIf_frame | apply answer_frame)

theorem lapse_frame (h : Frame ps s t) (hm : Within [.led, .ifl, .upd, .outs] ps) (a1) (a2) : Frame ps s (lapse a1 a2 t) := by
  unfold lapse
  repeat'
    first
    | (show Within _ _; exact Within.trans (by decide) hm)
    | intro _
    | with_reducible (first | assumption | apply modUpd_frame | apply unschedule_frame | apply reportUp_frame | apply updEvent_frame | apply tryLog_frame)
    | split
    | (extract_lets +onlyGivenNames x; first | (refine (fun hx : Frame ps s x => ?_) ?_ <;> [clear_value x; subst x]) | clear_value x)

theorem commitActivation_frame (h : Frame ps s t) (hm : Within [.pwr, .led, .flt, .ifl, .upd, .outs] ps) (a1) : Frame ps s (commitActivation a1 t) := by
  unfold commitActivation
  repeat'
    first
    | (show Within _ _; exact Within.trans (by decide) hm)
    | intro _
    | with_reducible (first | assumption | apply useSlice_frame | apply lapse_frame | apply logRec_frame | apply updEvent_frame | apply activate_frame | apply reportUp_frame | apply modFlt_frame | apply modUpd_frame | apply ite_frame)
    | split
    | (extract_lets +onlyGivenNames x; first | (refine (fun hx : Frame ps s x => ?_) ?_ <;> [clear_value x; subst x]) | clear_value x)

theorem execActivationCommit_frame (h : Frame ps s t) (hm : Within [.pwr, .vecs, .time, .counters, .led, .flt, .radio, .ifl, .upd, .outs] ps) : OutFrame ps s (execActivationCommit t) := by
  unfold execActivationCommit
  repeat'
    first
    | (show Within _ _; exact Within.trans (by decide) hm)
    | intro _
    | with_reducible (first | assumption | apply OutFrame.next | apply elapseTo_frame | apply lapse_frame | apply commitActivation_frame | apply onlyIf_frame | apply wake_frame | apply ite_frame)
    | split
    | (extract_lets +onlyGivenNames x; first | (refine (fun hx : Frame ps s x => ?_) ?_ <;> [clear_value x; subst x]) | clear_value x)

theorem execActivationLapse_frame (h : Frame ps s t) (hm : Within [.vecs, .time, .counters, .led, .ifl, .upd, .outs] ps) : OutFrame ps s (execActivationLapse t) := by
  unfold execActivationLapse
  repeat'
    first
    | (show Within _ _; exact Within.trans (by decide) hm)
    | intro _
    | with_reducible (first | assumption | apply OutFrame.next | apply lapse_frame | apply elapseTo_frame | apply ite_frame)
    | split

theorem recordsAnew_frame (h : Frame ps s t) (hm : Within [.pwr, .sys, .vecs, .time, .counters, .led, .cfg, .flt, .outs, .free] ps) : Frame ps s (recordsAnew t) := by
  unfold recordsAnew
  repeat'
    first
    | (show Within _ _; exact Within.trans (by decide) hm)
    | intro _
    | with_reducible (first | assumption | apply onlyIf_frame | apply setVcore_frame | apply reportRecords_frame | apply takeRecords_frame)

theorem giveUp_frame (h : Frame ps s t) (hm : Within [.pwr, .sys, .vecs, .time, .counters, .led, .cfg, .flt, .upd, .outs, .free] ps) (a1) : Frame ps s (giveUp a1 t) := by
  unfold giveUp
  repeat'
    first
    | (show Within _ _; exact Within.trans (by decide) hm)
    | intro _
    | with_reducible (first | assumption | apply journal_frame | apply modUpd_frame | apply updEvent_frame | apply recordsAnew_frame)
    | split
    | (extract_lets +onlyGivenNames x; first | (refine (fun hx : Frame ps s x => ?_) ?_ <;> [clear_value x; subst x]) | clear_value x)

theorem abandonHandover_frame (h : Frame ps s t) (hm : Within [.pwr, .sys, .vecs, .time, .counters, .led, .cfg, .flt, .upd, .outs, .free] ps) : Frame ps s (abandonHandover t) := by
  unfold abandonHandover
  repeat'
    first
    | (show Within _ _; exact Within.trans (by decide) hm)
    | intro _
    | with_reducible (first | assumption | apply updEvent_frame | apply tryLog_frame | apply giveUp_frame)
    | split

theorem execHandoverShadowReady_frame (h : Frame ps s t) (hm : Within [.pwr, .sys, .vecs, .time, .counters, .led, .cfg, .flt, .upd, .outs, .free] ps) : OutFrame ps s (execHandoverShadowReady t) := by
  unfold execHandoverShadowReady
  repeat'
    first
    | (show Within _ _; exact Within.trans (by decide) hm)
    | intro _
    | with_reducible (first | assumption | apply OutFrame.next | apply modPwr_frame | apply modUpd_frame | apply modFlt_frame | apply recordsAnew_frame | apply ite_frame)
    | split
    | (extract_lets +onlyGivenNames x; first | (refine (fun hx : Frame ps s x => ?_) ?_ <;> [clear_value x; subst x]) | clear_value x)

theorem execHandoverTimeout_frame (h : Frame ps s t) (hm : Within [.pwr, .sys, .vecs, .time, .counters, .led, .cfg, .flt, .upd, .outs, .free] ps) : OutFrame ps s (execHandoverTimeout t) := by
  unfold execHandoverTimeout
  repeat'
    first
    | (show Within _ _; exact Within.trans (by decide) hm)
    | intro _
    | with_reducible (first | assumption | apply OutFrame.next | apply abandonHandover_frame | apply elapseTo_frame | apply modFlt_frame)
    | split
    | (extract_lets +onlyGivenNames x; first | (refine (fun hx : Frame ps s x => ?_) ?_ <;> [clear_value x; subst x]) | clear_value x)

theorem execHandoverHoldEnd_frame (h : Frame ps s t) (hm : Within [.vecs, .time, .counters, .upd, .outs] ps) : OutFrame ps s (execHandoverHoldEnd t) := by
  unfold execHandoverHoldEnd
  repeat'
    first
    | (show Within _ _; exact Within.trans (by decide) hm)
    | intro _
    | with_reducible (first | assumption | apply OutFrame.next | apply modUpd_frame | apply elapseTo_frame)
    | split

theorem confirm_frame (h : Frame ps s t) (hm : Within [.led, .upd] ps) (a1) : Frame ps s (confirm a1 t) := by
  unfold confirm
  repeat'
    first
    | (show Within _ _; exact Within.trans (by decide) hm)
    | intro _
    | with_reducible (first | assumption | apply modUpd_frame | apply logRec_frame | apply updEvent_frame | apply journal_frame)
    | split
    | (extract_lets +onlyGivenNames x; first | (refine (fun hx : Frame ps s x => ?_) ?_ <;> [clear_value x; subst x]) | clear_value x)

theorem execTrialConfirm_frame (h : Frame ps s t) (hm : Within [.vecs, .time, .counters, .led, .upd, .outs] ps) : OutFrame ps s (execTrialConfirm t) := by
  unfold execTrialConfirm
  repeat'
    first
    | (show Within _ _; exact Within.trans (by decide) hm)
    | intro _
    | with_reducible (first | assumption | apply OutFrame.next | apply elapseTo_frame | apply confirm_frame | apply ite_frame)
    | split
    | (extract_lets +onlyGivenNames x; first | (refine (fun hx : Frame ps s x => ?_) ?_ <;> [clear_value x; subst x]) | clear_value x)

theorem failoverTrial_frame (h : Frame ps s t) (hm : Within [.pwr, .sys, .vecs, .time, .counters, .led, .cfg, .flt, .upd, .outs, .free] ps) : Frame ps s (failoverTrial t) := by
  unfold failoverTrial
  repeat'
    first
    | (show Within _ _; exact Within.trans (by decide) hm)
    | intro _
    | with_reducible (first | assumption | apply abandonHandover_frame | apply giveUp_frame)
    | split

theorem hearthCheck_frame (h : Frame ps s t) (hm : Within [.upd, .outs] ps) : Frame ps s (hearthCheck t) := by
  unfold hearthCheck
  repeat'
    first
    | (show Within _ _; exact Within.trans (by decide) hm)
    | intro _
    | with_reducible (first | assumption | apply uartLine_frame | apply modUpd_frame)

theorem startSlot_frame (h : Frame ps s t) (hm : Within [.upd] ps) : Frame ps s (startSlot t) := by
  unfold startSlot
  repeat'
    first
    | (show Within _ _; exact Within.trans (by decide) hm)
    | intro _
    | with_reducible (first | assumption | apply journal_frame)

theorem fillSlot_frame (h : Frame ps s t) (hm : Within [.upd] ps) (a1) : Frame ps s (fillSlot a1 t) := by
  unfold fillSlot
  repeat'
    first
    | (show Within _ _; exact Within.trans (by decide) hm)
    | intro _
    | with_reducible (first | assumption | apply writeBlocks_frame | apply beginSlot_frame | apply modUpd_frame)
    | split
    | (extract_lets +onlyGivenNames x; first | (refine (fun hx : Frame ps s x => ?_) ?_ <;> [clear_value x; subst x]) | clear_value x)

theorem hearthFails_frame (h : Frame ps s t) (hm : Within [.upd, .outs] ps) (a1) (a2) : Frame ps s (hearthFails a1 a2 t) := by
  unfold hearthFails
  repeat'
    first
    | (show Within _ _; exact Within.trans (by decide) hm)
    | intro _
    | with_reducible (first | assumption | apply slotState_frame | apply uartLine_frame | apply modUpd_frame | apply ite_frame)
    | split
    | (extract_lets +onlyGivenNames x; first | (refine (fun hx : Frame ps s x => ?_) ?_ <;> [clear_value x; subst x]) | clear_value x)

theorem hearthGo_frame (h : Frame ps s t) (hm : Within [.upd, .outs] ps) (a1) (a2) : Frame ps s (hearthGo a1 a2 t) := by
  unfold hearthGo
  repeat'
    first
    | (show Within _ _; exact Within.trans (by decide) hm)
    | intro _
    | with_reducible (first | assumption | apply onlyIf_frame | apply beginHearth_frame)

theorem execUpdHearthGo_frame (h : Frame ps s t) (hm : Within [.upd, .outs] ps) (a1) (a2) (a3) : OutFrame ps s (execUpdHearthGo a1 a2 a3 t) := by
  unfold execUpdHearthGo
  repeat'
    first
    | (show Within _ _; exact Within.trans (by decide) hm)
    | intro _
    | with_reducible (first | assumption | apply OutFrame.next | apply hearthGo_frame | apply hearthCheck_frame | apply fillSlot_frame | apply hearthFails_frame | apply startSlot_frame | apply ite_frame)
    | split
    | (extract_lets +onlyGivenNames x; first | (refine (fun hx : Frame ps s x => ?_) ?_ <;> [clear_value x; subst x]) | clear_value x)

theorem execUpdHearthRevert_frame (h : Frame ps s t) (hm : Within [.upd, .outs] ps) (a1) (a2) : OutFrame ps s (execUpdHearthRevert a1 a2 t) := by
  unfold execUpdHearthRevert
  repeat'
    first
    | (show Within _ _; exact Within.trans (by decide) hm)
    | intro _
    | with_reducible (first | assumption | apply OutFrame.next | apply hearthCheck_frame | apply modUpd_frame | apply beginHearth_frame | apply ite_frame)
    | split

theorem hearthAnswer_frame (h : Frame ps s t) (hm : Within [.upd, .outs] ps) : Frame ps s (hearthAnswer t) := by
  unfold hearthAnswer
  repeat'
    first
    | (show Within _ _; exact Within.trans (by decide) hm)
    | intro _
    | with_reducible (first | assumption | apply emit_frame | apply modUpd_frame)
    | split
    | (extract_lets +onlyGivenNames x; first | (refine (fun hx : Frame ps s x => ?_) ?_ <;> [clear_value x; subst x]) | clear_value x)

theorem execHearthCanFrame_frame (h : Frame ps s t) (hm : Within [.upd, .outs] ps) (a1) (a2) : OutFrame ps s (execHearthCanFrame a1 a2 t) := by
  unfold execHearthCanFrame
  repeat'
    first
    | (show Within _ _; exact Within.trans (by decide) hm)
    | intro _
    | with_reducible (first | assumption | apply OutFrame.next | apply beginHearth_frame | apply startSlot_frame | apply modUpd_frame | apply hearthAnswer_frame | apply hearthCheck_frame | apply fillSlot_frame | apply ite_frame)
    | split
    | (extract_lets +onlyGivenNames x; first | (refine (fun hx : Frame ps s x => ?_) ?_ <;> [clear_value x; subst x]) | clear_value x)

theorem execHearthCanStatus_frame (h : Frame ps s t) (hm : Within [.vecs, .time, .counters, .upd, .outs] ps) : OutFrame ps s (execHearthCanStatus t) := by
  unfold execHearthCanStatus
  repeat'
    first
    | (show Within _ _; exact Within.trans (by decide) hm)
    | intro _
    | with_reducible (first | assumption | apply OutFrame.next | apply hearthAnswer_frame | apply elapseTo_frame | apply ite_frame)
    | split

theorem execHearthDownloadEnd_frame (h : Frame ps s t) (hm : Within [.pwr, .sys, .flights, .vecs, .rings, .counters, .clk, .flt, .sec, .slk, .dir, .radio, .cap, .ifl, .nfc, .cus, .upd, .outs] ps) (a1) : OutFrame ps s (execHearthDownloadEnd a1 t) := by
  unfold execHearthDownloadEnd
  repeat'
    first
    | (show Within _ _; exact Within.trans (by decide) hm)
    | intro _
    | with_reducible (first | assumption | apply OutFrame.next | apply hearthFails_frame | apply journal_frame | apply fullReset_frame | apply uartLine_frame | apply modUpd_frame | apply ite_frame)
    | split
    | (extract_lets +onlyGivenNames x; first | (refine (fun hx : Frame ps s x => ?_) ?_ <;> [clear_value x; subst x]) | clear_value x)

theorem takeCharge_frame (h : Frame ps s t) (hm : Within [.run] ps) (a1) (a2) : Frame ps s (takeCharge a1 a2 t) := by
  unfold takeCharge
  repeat'
    first
    | (show Within _ _; exact Within.trans (by decide) hm)
    | intro _
    | with_reducible (first | assumption | apply modRun_frame)
    | split

theorem chargeSlot_frame (h : Frame ps s t) (hm : Within [.run, .slc] ps) (a1) (a2) (a3) : Frame ps s (chargeSlot a1 a2 a3 t) := by
  unfold chargeSlot
  repeat'
    first
    | (show Within _ _; exact Within.trans (by decide) hm)
    | intro _
    | with_reducible (first | assumption | apply onlyIf_frame | apply modSlc_frame | apply modRun_frame)
    | split
    | (extract_lets +onlyGivenNames x; first | (refine (fun hx : Frame ps s x => ?_) ?_ <;> [clear_value x; subst x]) | (refine (fun hx : Frame ps s x.2 => ?_) ?_ <;> [clear_value x; subst x]) | (refine (fun hx : Frame ps s x.1 => ?_) ?_ <;> [clear_value x; subst x]) | clear_value x)

theorem acceptSlot_frame (h : Frame ps s t) (hm : Within [.flights, .vecs, .rings, .run, .led, .slk] ps) (a1) (a2) (a3) : Frame ps s (acceptSlot a1 a2 a3 t) := by
  unfold acceptSlot
  repeat'
    first
    | (show Within _ _; exact Within.trans (by decide) hm)
    | intro _
    | with_reducible (first | assumption | apply modRing_frame | apply logRec_frame | apply onlyIf_frame | apply modSlk_frame | apply takeCharge_frame | apply modHost_frame | apply ite_frame)
    | split

theorem consume_frame (h : Frame ps s t) (hm : Within [.flights, .vecs, .rings, .run, .slc, .led, .slk] ps) (a1) (a2) (a3) : Frame ps s (consume a1 a2 a3 t) := by
  unfold consume
  repeat'
    first
    | (show Within _ _; exact Within.trans (by decide) hm)
    | intro _
    | with_reducible (first | assumption | apply chargeSlot_frame | apply acceptSlot_frame | apply settleDups_frame | apply settle_frame | apply ite_frame)
    | split
    | (extract_lets +onlyGivenNames x; first | (refine (fun hx : Frame ps s x => ?_) ?_ <;> [clear_value x; subst x]) | (refine (fun hx : Frame ps s x.2 => ?_) ?_ <;> [clear_value x; subst x]) | (refine (fun hx : Frame ps s x.1 => ?_) ?_ <;> [clear_value x; subst x]) | clear_value x)

theorem takeHeads_frame (h : Frame ps s t) (hm : Within [.rings] ps) (a1) : Frame ps s (takeHeads a1 t) := by
  unfold takeHeads
  repeat'
    first
    | (show Within _ _; exact Within.trans (by decide) hm)
    | intro _
    | with_reducible (first | assumption | apply each_frame | apply modRing_frame | apply ite_frame)
    | split

theorem execSlotConsume_frame (h : Frame ps s t) (hm : Within [.flights, .vecs, .rings, .run, .slc, .led, .slk] ps) (a1) : OutFrame ps s (execSlotConsume a1 t) := by
  unfold execSlotConsume
  repeat'
    first
    | (show Within _ _; exact Within.trans (by decide) hm)
    | intro _
    | with_reducible (first | assumption | apply OutFrame.next | apply takeHeads_frame | apply consume_frame | apply ite_frame)
    | split
    | (extract_lets +onlyGivenNames x; first | (refine (fun hx : Frame ps s x => ?_) ?_ <;> [clear_value x; subst x]) | clear_value x)

end Sys2Proof.Machine
end

