-- ==== Sys2Proof/Laws/FrameEdges.lean ====
section
/-! SUPPORT. Which parts of the state the operations of Edges, Start, Ends, Pairs, Regs, Svc, Tamper can change (Safety.Frame), one lemma each, in the order of their definitions. -/

set_option linter.unusedTactic false
set_option linter.unreachableTactic false
set_option linter.unusedSimpArgs false
set_option linter.unusedVariables false

namespace Sys2Proof.Machine

variable {ps : List Part} {s t : State}

theorem checkedF_fail {α : Type} {s u : State} {x : Checked α} {fr : FateRec} (h : Frame ps s (checkedState x))
    (e : x = .fail fr u) : Frame ps s u := by rw [e] at h; exact h

theorem checkedF_pass {α : Type} {s u : State} {x : Checked α} {a : α} (h : Frame ps s (checkedState x))
    (e : x = .pass a u) : Frame ps s u := by rw [e] at h; exact h

theorem checkedF_ite {α : Type} {s : State} {c : Prop} [Decidable c] {x y : Checked α} (h : Frame ps s (checkedState x))
    (k : Frame ps s (checkedState y)) : Frame ps s (checkedState (if c then x else y)) := by split <;> assumption

theorem speedWatch_frame (h : Frame ps s t) (hm : Within [.pwr, .vecs, .rings, .led, .flt, .slk, .outs] ps) : Frame ps s (speedWatch t) := by
  unfold speedWatch
  repeat'
    first
    | (show Within _ _; exact Within.trans (by decide) hm)
    | intro _
    | with_reducible (first | assumption | apply lockWatch_frame | apply modeWatch_frame)

theorem edgeCuts_frame (h : Frame ps s t) (hm : Within [.pwr, .flights, .run, .slc, .time, .counters, .clk, .led, .sec, .slk, .radio, .outs, .free] ps) : Frame ps s (edgeCuts t) := by
  unfold edgeCuts
  repeat'
    first
    | (show Within _ _; exact Within.trans (by decide) hm)
    | intro _
    | with_reducible (first | assumption | apply recut_frame | apply onlyIf_frame | apply uhfCut_frame | apply lfCut_frame)
    | split
    | (extract_lets +onlyGivenNames x; first | (refine (fun hx : Frame ps s x => ?_) ?_ <;> [clear_value x; subst x]) | (refine (fun hx : Frame ps s x.2 => ?_) ?_ <;> [clear_value x; subst x]) | (refine (fun hx : Frame ps s x.1 => ?_) ?_ <;> [clear_value x; subst x]) | clear_value x)

theorem crankOverdue_frame (h : Frame ps s t) (hm : Within [.time, .counters, .clk, .led] ps) : Frame ps s (crankOverdue t) := by
  unfold crankOverdue
  repeat'
    first
    | (show Within _ _; exact Within.trans (by decide) hm)
    | intro _
    | with_reducible (first | assumption | apply onCrankLost_frame | apply modClk_frame | apply refEngineStop_frame | apply ite_frame)
    | split
    | (extract_lets +onlyGivenNames x; first | (refine (fun hx : Frame ps s x => ?_) ?_ <;> [clear_value x; subst x]) | clear_value x)

theorem syncRev_frame (h : Frame ps s t) (hm : Within [.time, .counters, .clk, .led, .free] ps) : Frame ps s (syncRev t) := by
  unfold syncRev
  repeat'
    first
    | (show Within _ _; exact Within.trans (by decide) hm)
    | intro _
    | with_reducible (first | assumption | apply modClk_frame | apply drawn_frame | apply ite_frame)
    | split
    | (extract_lets +onlyGivenNames x; first | (refine (fun hx : Frame ps s x => ?_) ?_ <;> [clear_value x; subst x]) | clear_value x)

theorem camAdvance_frame (h : Frame ps s t) (hm : Within [.time, .counters, .clk, .led] ps) (a1) : Frame ps s (camAdvance a1 t) := by
  unfold camAdvance
  repeat'
    first
    | (show Within _ _; exact Within.trans (by decide) hm)
    | intro _
    | with_reducible (first | assumption | apply modClk_frame | apply ite_frame)
    | split
    | (extract_lets +onlyGivenNames x; first | (refine (fun hx : Frame ps s x => ?_) ?_ <;> [clear_value x; subst x]) | clear_value x)

theorem abandonToCrank_frame (h : Frame ps s t) (hm : Within [.time, .counters, .clk, .led] ps) (a1) (a2) : Frame ps s (abandonToCrank a1 a2 t) := by
  unfold abandonToCrank
  repeat'
    first
    | (show Within _ _; exact Within.trans (by decide) hm)
    | intro _
    | with_reducible (first | assumption | apply camAdvance_frame | apply modClk_frame | apply ite_frame)
    | split
    | (extract_lets +onlyGivenNames x; first | (refine (fun hx : Frame ps s x => ?_) ?_ <;> [clear_value x; subst x]) | clear_value x)

theorem crankEdge_frame (h : Frame ps s t) (hm : Within [.pwr, .vecs, .rings, .time, .counters, .clk, .led, .outs, .free] ps) (a1) : Frame ps s (crankEdge a1 t) := by
  unfold crankEdge
  repeat'
    first
    | (show Within _ _; exact Within.trans (by decide) hm)
    | intro _
    | with_reducible (first | assumption | apply modClk_frame | apply onCrankLost_frame | apply enterDrive_frame | apply onCrankSync_frame | apply syncRev_frame | apply camAdvance_frame | apply onlyIf_frame | apply ite_frame)
    | split
    | (extract_lets +onlyGivenNames x; first | (refine (fun hx : Frame ps s x => ?_) ?_ <;> [clear_value x; subst x]) | (refine (fun hx : Frame ps s x.2 => ?_) ?_ <;> [clear_value x; subst x]) | (refine (fun hx : Frame ps s x.1 => ?_) ?_ <;> [clear_value x; subst x]) | clear_value x)

theorem coastEdge_frame (h : Frame ps s t) (hm : Within [.pwr, .vecs, .rings, .time, .counters, .clk, .led, .outs, .free] ps) (a1) : Frame ps s (coastEdge a1 t) := by
  unfold coastEdge
  repeat'
    first
    | (show Within _ _; exact Within.trans (by decide) hm)
    | intro _
    | with_reducible (first | assumption | apply abandonToCrank_frame | apply crankEdge_frame | apply modClk_frame | apply ite_frame)
    | split
    | (extract_lets +onlyGivenNames x; first | (refine (fun hx : Frame ps s x => ?_) ?_ <;> [clear_value x; subst x]) | clear_value x)

theorem execAng0Edge_frame (h : Frame ps s t) (hm : Within [.pwr, .flights, .vecs, .rings, .run, .slc, .time, .counters, .clk, .led, .flt, .sec, .slk, .radio, .outs, .free] ps) (a1) : OutFrame ps s (execAng0Edge a1 t) := by
  unfold execAng0Edge
  repeat'
    first
    | (show Within _ _; exact Within.trans (by decide) hm)
    | intro _
    | with_reducible (first | assumption | apply OutFrame.next | apply elapseToNs_frame | apply modClk_frame | apply onlyIf_frame | apply crankOverdue_frame | apply speedWatch_frame | apply edgeCuts_frame | apply coastEdge_frame | apply crankEdge_frame | apply ite_frame)
    | split
    | (extract_lets +onlyGivenNames x; first | (refine (fun hx : Frame ps s x => ?_) ?_ <;> [clear_value x; subst x]) | clear_value x)

theorem execCrankEdgeTimeout_frame (h : Frame ps s t) (hm : Within [.pwr, .vecs, .rings, .time, .counters, .clk, .led, .flt, .slk, .outs] ps) : OutFrame ps s (execCrankEdgeTimeout t) := by
  unfold execCrankEdgeTimeout
  repeat'
    first
    | (show Within _ _; exact Within.trans (by decide) hm)
    | intro _
    | with_reducible (first | assumption | apply OutFrame.next | apply speedWatch_frame | apply crankOverdue_frame | apply elapseToNs_frame | apply ite_frame)
    | split

theorem execAng1Edge_frame (h : Frame ps s t) (hm : Within [.pwr, .vecs, .rings, .time, .counters, .clk, .led, .outs] ps) (a1) : OutFrame ps s (execAng1Edge a1 t) := by
  unfold execAng1Edge
  repeat'
    first
    | (show Within _ _; exact Within.trans (by decide) hm)
    | intro _
    | with_reducible (first | assumption | apply OutFrame.next | apply elapseToNs_frame | apply modClk_frame | apply modeWatch_frame | apply enterDrive_frame | apply ite_frame)
    | split
    | (extract_lets +onlyGivenNames x; first | (refine (fun hx : Frame ps s x => ?_) ?_ <;> [clear_value x; subst x]) | clear_value x)

theorem propCoastEdge_frame (h : Frame ps s t) (hm : Within [.time, .counters, .clk, .led] ps) : Frame ps s (propCoastEdge t) := by
  unfold propCoastEdge
  repeat'
    first
    | (show Within _ _; exact Within.trans (by decide) hm)
    | intro _
    | with_reducible (first | assumption | apply modClk_frame | apply ite_frame)
    | split

theorem execAng2Edge_frame (h : Frame ps s t) (hm : Within [.pwr, .flights, .vecs, .run, .slc, .time, .counters, .clk, .led, .sec, .slk, .radio, .outs, .free] ps) (a1) : OutFrame ps s (execAng2Edge a1 t) := by
  unfold execAng2Edge
  repeat'
    first
    | (show Within _ _; exact Within.trans (by decide) hm)
    | intro _
    | with_reducible (first | assumption | apply OutFrame.next | apply elapseToNs_frame | apply propWatch_frame | apply modClk_frame | apply camAdvance_frame | apply edgeCuts_frame | apply onlyIf_frame | apply propCoastEdge_frame | apply ite_frame)
    | split
    | (extract_lets +onlyGivenNames x; first | (refine (fun hx : Frame ps s x => ?_) ?_ <;> [clear_value x; subst x]) | clear_value x)

theorem execPropHoldExpiry_frame (h : Frame ps s t) (hm : Within [.vecs, .time, .counters, .clk, .led, .outs] ps) : OutFrame ps s (execPropHoldExpiry t) := by
  unfold execPropHoldExpiry
  repeat'
    first
    | (show Within _ _; exact Within.trans (by decide) hm)
    | intro _
    | with_reducible (first | assumption | apply OutFrame.next | apply elapseToNs_frame | apply leaveProp_frame | apply modClk_frame | apply ite_frame)
    | split
    | (extract_lets +onlyGivenNames x; first | (refine (fun hx : Frame ps s x => ?_) ?_ <;> [clear_value x; subst x]) | clear_value x)

theorem switchDone_frame (h : Frame ps s t) (hm : Within [.time, .counters, .clk, .led] ps) (a1) : Frame ps s (switchDone a1 t) := by
  unfold switchDone
  repeat'
    first
    | (show Within _ _; exact Within.trans (by decide) hm)
    | intro _
    | with_reducible (first | assumption | apply modClk_frame | apply onCrankSync_frame | apply propWatch_frame | apply ite_frame)
    | split
    | (extract_lets +onlyGivenNames x; first | (refine (fun hx : Frame ps s x => ?_) ?_ <;> [clear_value x; subst x]) | clear_value x)

theorem execAngleSwitchWindowEnd_frame (h : Frame ps s t) (hm : Within [.vecs, .time, .counters, .clk, .led, .outs] ps) : OutFrame ps s (execAngleSwitchWindowEnd t) := by
  unfold execAngleSwitchWindowEnd
  repeat'
    first
    | (show Within _ _; exact Within.trans (by decide) hm)
    | intro _
    | with_reducible (first | assumption | apply OutFrame.next | apply switchDone_frame | apply elapseToNs_frame | apply ite_frame)
    | split

theorem execAng3Pulse_frame (h : Frame ps s t) (hm : Within [.pwr, .vecs, .rings, .time, .counters, .clk, .led, .flt, .slk, .outs] ps) (a1) : OutFrame ps s (execAng3Pulse a1 t) := by
  unfold execAng3Pulse
  repeat'
    first
    | (show Within _ _; exact Within.trans (by decide) hm)
    | intro _
    | with_reducible (first | assumption | apply OutFrame.next | apply elapseToNs_frame | apply speedWatch_frame | apply modClk_frame | apply ite_frame)
    | split
    | (extract_lets +onlyGivenNames x; first | (refine (fun hx : Frame ps s x => ?_) ?_ <;> [clear_value x; subst x]) | clear_value x)

theorem execWheelPulseTimeout_frame (h : Frame ps s t) (hm : Within [.pwr, .vecs, .rings, .time, .counters, .led, .flt, .slk, .outs] ps) : OutFrame ps s (execWheelPulseTimeout t) := by
  unfold execWheelPulseTimeout
  repeat'
    first
    | (show Within _ _; exact Within.trans (by decide) hm)
    | intro _
    | with_reducible (first | assumption | apply OutFrame.next | apply speedWatch_frame | apply elapseToNs_frame | apply ite_frame)
    | split

theorem execRoadSpeedFrame_frame (h : Frame ps s t) (hm : Within [.pwr, .vecs, .rings, .time, .counters, .clk, .led, .flt, .slk, .outs] ps) (a1) (a2) (a3) : OutFrame ps s (execRoadSpeedFrame a1 a2 a3 t) := by
  unfold execRoadSpeedFrame
  repeat'
    first
    | (show Within _ _; exact Within.trans (by decide) hm)
    | intro _
    | with_reducible (first | assumption | apply OutFrame.next | apply speedWatch_frame | apply modClk_frame | apply ite_frame)
    | split
    | (extract_lets +onlyGivenNames x; first | (refine (fun hx : Frame ps s x => ?_) ?_ <;> [clear_value x; subst x]) | clear_value x)

theorem execEngineSpeedFrame_frame (h : Frame ps s t) (hm : Within [.pwr, .vecs, .rings, .time, .counters, .clk, .led, .flt, .slk, .outs] ps) (a1) (a2) (a3) : OutFrame ps s (execEngineSpeedFrame a1 a2 a3 t) := by
  unfold execEngineSpeedFrame
  repeat'
    first
    | (show Within _ _; exact Within.trans (by decide) hm)
    | intro _
    | with_reducible (first | assumption | apply OutFrame.next | apply speedWatch_frame | apply modClk_frame | apply ite_frame)
    | split
    | (extract_lets +onlyGivenNames x; first | (refine (fun hx : Frame ps s x => ?_) ?_ <;> [clear_value x; subst x]) | clear_value x)

theorem execSpeedSignalStale_frame (h : Frame ps s t) (hm : Within [.pwr, .vecs, .rings, .time, .counters, .led, .flt, .slk, .outs] ps) (a1) : OutFrame ps s (execSpeedSignalStale a1 t) := by
  unfold execSpeedSignalStale
  repeat'
    first
    | (show Within _ _; exact Within.trans (by decide) hm)
    | intro _
    | with_reducible (first | assumption | apply OutFrame.next | apply speedWatch_frame | apply elapseToNs_frame | apply ite_frame)
    | split

theorem putSession_frame (h : Frame ps s t) (hm : Within [.radio] ps) (a1) : Frame ps s (putSession a1 t) := by
  unfold putSession
  repeat'
    first
    | (show Within _ _; exact Within.trans (by decide) hm)
    | intro _
    | with_reducible (first | assumption | apply modRadio_frame)

theorem playSegments_frame (h : Frame ps s t) (hm : Within [.vecs, .time, .counters, .clk, .led, .radio, .outs, .free] ps) (n) : Frame ps s (playSegments n t) := by
  induction n generalizing t with
  | zero => exact h
  | succ n ih =>
    unfold playSegments
    split
    · exact h
    · split
      · exact h
      · split
        · extract_lets +onlyGivenNames q
          clear_value q
          refine ite_frame ?_ ?_
          · exact modRadio_frame (putPoll_frame (emitSegment_frame h (hm.sub (by decide)) _ _ _) (hm.sub (by decide)) _) (hm.sub (by decide)) _
          · exact ih (putPoll_frame (emitSegment_frame h (hm.sub (by decide)) _ _ _) (hm.sub (by decide)) _)
        · exact lfEvent_frame h (hm.sub (by decide)) _
        · exact lfEvent_frame h (hm.sub (by decide)) _
        · exact lfEvent_frame h (hm.sub (by decide)) _

theorem priRaise_frame (h : Frame ps s t) (hm : Within [.vecs, .time, .counters, .radio, .outs] ps) (a1) : Frame ps s (priRaise a1 t) := by
  unfold priRaise
  repeat'
    first
    | (show Within _ _; exact Within.trans (by decide) hm)
    | intro _
    | with_reducible (first | assumption | apply uhfEvent_frame | apply elapseNs_frame | apply drivePri_frame | apply driveReq_frame | apply ite_frame)
    | split

theorem priFall_frame (h : Frame ps s t) (hm : Within [.radio, .outs] ps) : Frame ps s (priFall t) := by
  unfold priFall
  repeat'
    first
    | (show Within _ _; exact Within.trans (by decide) hm)
    | intro _
    | with_reducible (first | assumption | apply drivePri_frame | apply driveReq_frame)

theorem playBursts_frame (h : Frame ps s t) (hm : Within [.vecs, .time, .counters, .clk, .led, .radio, .outs] ps) (u n) : Frame ps s (playBursts u n t) := by
  induction n generalizing t with
  | zero => exact h
  | succ n ih =>
    unfold playBursts
    split
    · exact h
    · split
      · exact h
      · split
        · split
          · exact (priFall_frame h (hm.sub (by decide)))
          · split
            · exact ih ((putPoll_frame (priFall_frame (elapseToNs_frame h (hm.sub (by decide)) _) (hm.sub (by decide))) (hm.sub (by decide)) _))
            · extract_lets +onlyGivenNames s1
              have h1 : Frame ps s s1 := (elapseToNs_frame h (hm.sub (by decide)) _)
              clear_value s1
              split
              · exact (priFall_frame h1 (hm.sub (by decide)))
              · extract_lets +onlyGivenNames q
                clear_value q
                exact ih ((putPoll_frame (burstOut_frame (countEmission_frame h1 (hm.sub (by decide)) _) (hm.sub (by decide)) _ _ _ _) (hm.sub (by decide)) _))
        · extract_lets +onlyGivenNames s1
          have h1 : Frame ps s s1 := (priFall_frame (elapseToNs_frame h (hm.sub (by decide)) _) (hm.sub (by decide)))
          clear_value s1
          split
          · extract_lets d
            exact ih ((putPoll_frame (priRaise_frame (elapseToNs_frame (grantWindow_frame h1 (hm.sub (by decide)) _ _ _) (hm.sub (by decide)) _) (hm.sub (by decide)) _) (hm.sub (by decide)) _))
          · exact h1

theorem playReports_frame (h : Frame ps s t) (hm : Within [.vecs, .time, .counters, .radio, .outs] ps) (u n l) : Frame ps s ((playReports u n l t).2) := by
  induction n generalizing t l with
  | zero => exact h
  | succ n ih =>
    unfold playReports
    extract_lets +onlyGivenNames s1
    have h1 : Frame ps s s1 := (priFall_frame (elapseNs_frame (sendTrigger_frame (priRaise_frame h (hm.sub (by decide)) _) (hm.sub (by decide)) _) (hm.sub (by decide)) _) (hm.sub (by decide)))
    clear_value s1
    split
    · split
      · exact h1
      · exact ih h1 _
    · exact ih h1 _

theorem rangingLate_frame (h : Frame ps s t) (hm : Within [.vecs, .time, .counters, .outs] ps) (a) : Frame ps s (checkedState (rangingLate a t)) := elapseTo_frame h (hm.sub (by decide)) _

theorem startReport_frame (h : Frame ps s t) (hm : Within [.vecs, .time, .counters, .led, .radio, .outs] ps) (u a b again) (hg : ∀ {t}, Frame ps s (t) → Frame ps s (checkedState (again t))) :
    Frame ps s (checkedState (startReport u a b again t)) := by
  unfold startReport
  extract_lets +onlyGivenNames r
  have hr : Frame ps s (r.2) := (playReports_frame (priFall_frame (elapseToNs_frame h (hm.sub (by decide)) _) (hm.sub (by decide))) (hm.sub (by decide)) _ _ _)
  clear_value r
  split
  · exact hg hr
  · extract_lets +onlyGivenNames k
    clear_value k
    split
    · simp only [checkedState]
      exact (modRadio_frame (recordTcnt_frame hr (hm.sub (by decide)) _ _) (hm.sub (by decide)) _)
    · split
      · exact hg (recordTcnt_frame hr (hm.sub (by decide)) _ _)
      · split
        · exact hr
        · exact (onlyIf_frame hr _ _ fun k => (authFail_frame k (hm.sub (by decide)) _ _))

theorem startSound_frame (h : Frame ps s t) (hm : Within [.vecs, .time, .counters, .clk, .led, .radio, .outs] ps) (u a b c d again) (hg : ∀ {t}, Frame ps s (t) → Frame ps s (checkedState (again t))) :
    Frame ps s (checkedState (startSound u a b c d again t)) := by
  unfold startSound
  extract_lets +onlyGivenNames s1 s2
  have h1 : Frame ps s (s1) := (recordTcnt_frame h (hm.sub (by decide)) _ _)
  clear_value s1
  have h2 : Frame ps s (s2) := (playBursts_frame (putPoll_frame h1 (hm.sub (by decide)) _) (hm.sub (by decide)) _ _)
  clear_value s2
  split
  · split
    · exact startReport_frame h2 (hm.sub (by decide)) _ _ _ _ hg
    · split
      · exact hg h2
      · exact rangingLate_frame h2 (hm.sub (by decide)) _
  · exact (rangingLate_frame h2 (hm.sub (by decide)) _)

theorem playChallenge_frame (h : Frame ps s t) (hm : Within [.vecs, .time, .counters, .clk, .led, .sec, .radio, .outs, .free] ps) (a1) (a2) (a3) : Frame ps s (playChallenge a1 a2 a3 t) := by
  unfold playChallenge
  repeat'
    first
    | (show Within _ _; exact Within.trans (by decide) hm)
    | intro _
    | with_reducible (first | assumption | apply playSegments_frame | apply beginTelegram_frame)

theorem playTrigger_frame (h : Frame ps s t) (hm : Within [.flights, .vecs, .time, .counters, .radio, .outs] ps) (a1) (a2) : Frame ps s (playTrigger a1 a2 t) := by
  unfold playTrigger
  repeat'
    first
    | (show Within _ _; exact Within.trans (by decide) hm)
    | intro _
    | with_reducible (first | assumption | apply modFlight_frame | apply priRaise_frame | apply elapseToNs_frame | apply sendTrigger_frame | apply putPoll_frame | apply ite_frame)
    | split
    | (extract_lets +onlyGivenNames x; first | (refine (fun hx : Frame ps s x => ?_) ?_ <;> [clear_value x; subst x]) | clear_value x)

theorem startTries_frame (h : Frame ps s t) (hm : Within [.flights, .vecs, .time, .counters, .clk, .led, .sec, .radio, .outs, .free] ps) (r u lim tid chans n l c) : Frame ps s (checkedState (startTries r u lim tid chans n l c t)) := by
  induction n generalizing t l c with
  | zero => exact h
  | succ n ih =>
    unfold startTries
    extract_lets +onlyGivenNames x s1
    have h1 : Frame ps s (s1) := (ite_frame h (playChallenge_frame h (hm.sub (by decide)) _ _ _))
    clear_value s1
    split
    · exact (rangingLate_frame h1 (hm.sub (by decide)) _)
    · split
      · exact (rangingLate_frame h1 (hm.sub (by decide)) _)
      · extract_lets +onlyGivenNames s4 k
        have h4 : Frame ps s (s4) := (priFall_frame (elapseToNs_frame (playTrigger_frame h1 (hm.sub (by decide)) _ _) (hm.sub (by decide)) _) (hm.sub (by decide)))
        clear_value s4 k
        split
        · exact ih h4 _ _
        · split
          · exact (startSound_frame h4 (hm.sub (by decide)) _ _ _ _ _ _ fun h => ih h _ _)
          · exact ih (onlyIf_frame h4 _ _ fun k => (authFail_frame k (hm.sub (by decide)) _ _)) _ _

theorem startFit_frame (h : Frame ps s t) (hm : Within [.pwr, .flights, .led, .slk, .radio, .outs] ps) (r u a b c) : Frame ps s (checkedState (startFit r u a b c t)) := by
  unfold startFit
  extract_lets +onlyGivenNames s1 pos
  have h1 : Frame ps s (s1) := noteSnr_frame h (hm.sub (by decide)) _
  clear_value s1 pos
  refine checkedF_ite (inconsistent_frame h1 (hm.sub (by decide)) _) (checkedF_ite (inconsistent_frame h1 (hm.sub (by decide)) _) ?_)
  extract_lets +onlyGivenNames ts
  have kt : Frame ps s (ts.2) := putTrack_frame h1 (hm.sub (by decide)) _
  clear_value ts
  extract_lets +onlyGivenNames v
  have kv : Frame ps s (v) := tokenPassed_frame kt (hm.sub (by decide)) _ _
  clear_value v
  exact checkedF_ite (atStage_frame kv (hm.sub (by decide)) _ _ _) kv

theorem rangeToken_frame (h : Frame ps s t) (hm : Within [.pwr, .flights, .vecs, .time, .counters, .clk, .led, .sec, .slk, .radio, .outs, .free] ps) (r lim tid a b) : Frame ps s (checkedState (rangeToken r lim tid a b t)) := by
  unfold rangeToken
  extract_lets chans
  split
  · exact h
  · split
    · exact h
    · split
      · exact h
      · split
        · exact h
        · rename_i u _ _ _ _
          have k := (startTries_frame h (hm.sub (by decide)) r u lim tid chans 3 b.1 1)
          revert k
          split
          · rename_i e
            rw [e]; exact fun k => k
          · rename_i e
            rw [e]; exact fun k => (startFit_frame k (hm.sub (by decide)) _ _ _ _ _)

theorem rangeAll_frame (h : Frame ps s t) (hm : Within [.pwr, .flights, .vecs, .time, .counters, .clk, .led, .sec, .slk, .radio, .outs, .free] ps) (r lim a b l c d) : Frame ps s (checkedState (rangeAll r lim a b l c d t)) := by
  induction l generalizing t c d with
  | nil => exact h
  | cons tid l ih =>
    unfold rangeAll
    extract_lets ev
    have k := rangeToken_frame (atStage_frame h (hm.sub (by decide)) r 0 0) (hm.sub (by decide)) r lim tid b ev
    revert k
    split
    · rename_i e
      rw [e]; exact fun k => checkedF_ite k (ih k _ _)
    · rename_i e
      rw [e]; exact fun k => checkedF_ite (atStage_frame k (hm.sub (by decide)) _ _ _) (ih k _ _)

theorem cardEntry_frame (h : Frame ps s t) (hm : Within [] ps) (a1 a2 a3) : Frame ps s (checkedState (cardEntry t a1 a2 a3)) := by
  unfold cardEntry
  split
  · split
    · exact h
    · split <;> exact h
  · exact h
  · exact h

theorem startCards_frame (h : Frame ps s t) (hm : Within [.sec, .outs, .free] ps) (b l) : Frame ps s (checkedState (startCards b l t)) := by
  induction l generalizing t b with
  | nil => cases b <;> exact h
  | cons c l ih =>
    unfold startCards
    extract_lets +onlyGivenNames chal s1
    have h1 : Frame ps s s1 := emit_frame (drew_frame h (hm.sub (by decide)) _ _) (hm.sub (by decide)) _
    clear_value s1
    extract_lets +onlyGivenNames code s2
    have h2 : Frame ps s s2 := cardRan_frame h1 (hm.sub (by decide)) _
    clear_value s2
    split
    · exact h2
    · exact ih h2 _

theorem startCommit_frame (h : Frame ps s t) (hm : Within [.flights, .run, .slc, .led, .slk, .outs] ps) (a1) (a2) (a3) (a4) (a5) (a6) : Frame ps s (startCommit a1 a2 a3 a4 a5 a6 t) := by
  unfold startCommit
  repeat'
    first
    | (show Within _ _; exact Within.trans (by decide) hm)
    | intro _
    | with_reducible (first | assumption | apply settle_frame | apply commitPoint_frame | apply setLatch_frame | apply ite_frame)
    | split
    | (extract_lets +onlyGivenNames x; first | (refine (fun hx : Frame ps s x => ?_) ?_ <;> [clear_value x; subst x]) | (refine (fun hx : ∀ {t}, Frame ps s t → Frame ps s (x t) => ?_) ?_ <;> [clear_value x; subst x]) | clear_value x)

theorem startCardStep_frame (h : Frame ps s t) (hm : Within [.flights, .run, .slc, .led, .sec, .slk, .outs, .free] ps) (a1 a2 a3 a4 a5 a6) :
    Frame ps s (startCardStep a1 a2 a3 a4 a5 a6 t) := by
  unfold startCardStep
  split
  · have k := startCards_frame h (hm.sub (by decide)) false (namedCards t a3 a6)
    split
    · rename_i e
      exact settle_frame (checkedF_fail k e) (hm.sub (by decide)) _ _
    · rename_i c u e
      have k' := cardEntry_frame (checkedF_pass k e) (hm.sub (by decide)) a3.cardNs c.2.1 c.2.2
      split
      · rename_i e'
        exact settle_frame (checkedF_fail k' e') (hm.sub (by decide)) _ _
      · rename_i e'
        exact startCommit_frame (checkedF_pass k' e') (hm.sub (by decide)) _ _ _ _ _ _
  · exact startCommit_frame h (hm.sub (by decide)) _ _ _ _ _ _

theorem resumePoll_frame (h : Frame ps s t) (hm : Within [.radio, .outs] ps) : Frame ps s (resumePoll t) := by
  unfold resumePoll
  repeat'
    first
    | (show Within _ _; exact Within.trans (by decide) hm)
    | intro _
    | with_reducible (first | assumption | apply coexAnew_frame | apply ite_frame)
    | split

theorem startRun_frame (h : Frame ps s t) (hm : Within [.pwr, .flights, .vecs, .run, .slc, .time, .counters, .clk, .led, .sec, .slk, .radio, .outs, .free] ps) (a1 a2 a3) : Frame ps s (startRun a1 a2 a3 t) := by
  unfold startRun
  extract_lets +onlyGivenNames pol old pri x
  have hx : Frame ps s x := (modRadio_frame h (hm.sub (by decide)) _)
  clear_value x
  have k := (rangeAll_frame hx (hm.sub (by decide)) a1 (startLimit x a1 a3) pol.tokenNs pri (startCands x (fieldLE a3.raw 24 4)) a2.tokens (failFate fAbsent 0x20))
  revert k
  split
  · rename_i e
    rw [e]; exact fun k => (settle_frame (putSession_frame (priFall_frame k (hm.sub (by decide))) (hm.sub (by decide)) _) (hm.sub (by decide)) _ _)
  · rename_i e
    rw [e]; exact fun k => (ite_frame (settle_frame (putSession_frame (priFall_frame k (hm.sub (by decide))) (hm.sub (by decide)) _) (hm.sub (by decide)) _ _) (startCardStep_frame (putSession_frame (priFall_frame k (hm.sub (by decide))) (hm.sub (by decide)) _) (hm.sub (by decide)) _ _ _ _ _ _))

theorem firstChallenge_frame (h : Frame ps s t) (hm : Within [.vecs, .time, .counters, .clk, .led, .sec, .radio, .outs, .free] ps) (a1) (a2) : Frame ps s (firstChallenge a1 a2 t) := by
  unfold firstChallenge
  repeat'
    first
    | (show Within _ _; exact Within.trans (by decide) hm)
    | intro _
    | with_reducible (first | assumption | apply playChallenge_frame | apply putSession_frame | apply ite_frame)
    | split

theorem awaitLead_frame (h : Frame ps s t) (hm : Within [.vecs, .time, .counters, .radio, .outs] ps) (a1) (a2) (a3) (a4) : Frame ps s (awaitLead a1 a2 a3 a4 t) := by
  unfold awaitLead
  repeat'
    first
    | (show Within _ _; exact Within.trans (by decide) hm)
    | intro _
    | with_reducible (first | assumption | apply elapseToNs_frame | apply uhfEvent_frame | apply modRadio_frame | apply drivePri_frame | apply driveReq_frame)
    | split
    | (extract_lets +onlyGivenNames x; first | (refine (fun hx : Frame ps s x => ?_) ?_ <;> [clear_value x; subst x]) | clear_value x)

theorem startBegin_frame (h : Frame ps s t) (hm : Within [.pwr, .flights, .vecs, .run, .slc, .time, .counters, .clk, .led, .sec, .slk, .radio, .outs, .free] ps) (a1) (a2) (a3) : Frame ps s (startBegin a1 a2 a3 t) := by
  unfold startBegin
  repeat'
    first
    | (show Within _ _; exact Within.trans (by decide) hm)
    | intro _
    | with_reducible (first | assumption | apply settle_frame | apply firstChallenge_frame | apply awaitLead_frame | apply resumePoll_frame | apply startRun_frame | apply modRadio_frame | apply putSession_frame | apply ite_frame)
    | split
    | (extract_lets +onlyGivenNames x; first | (refine (fun hx : Frame ps s x => ?_) ?_ <;> [clear_value x; subst x]) | clear_value x)

theorem execStart_frame (h : Frame ps s t) (hm : Within [.pwr, .flights, .vecs, .run, .slc, .time, .counters, .clk, .led, .sec, .slk, .radio, .outs, .free] ps) (a1) (a2) : OutFrame ps s (execStart a1 a2 t) := by
  unfold execStart
  repeat'
    first
    | (show Within _ _; exact Within.trans (by decide) hm)
    | intro _
    | with_reducible (first | assumption | apply OutFrame.next | apply onlyIf_frame | apply modRadio_frame | apply startOp_frame | apply startBegin_frame | apply ite_frame)
    | split

theorem execCoexPriLead_frame (h : Frame ps s t) (hm : Within [.pwr, .flights, .vecs, .run, .slc, .time, .counters, .clk, .led, .sec, .slk, .radio, .outs, .free] ps) : OutFrame ps s (execCoexPriLead t) := by
  unfold execCoexPriLead
  repeat'
    first
    | (show Within _ _; exact Within.trans (by decide) hm)
    | intro _
    | with_reducible (first | assumption | apply OutFrame.next | apply modRadio_frame | apply elapseTo_frame | apply resumePoll_frame | apply priFall_frame | apply onOp_frame | apply startRun_frame)
    | split
    | (extract_lets +onlyGivenNames x; first | (refine (fun hx : Frame ps s x => ?_) ?_ <;> [clear_value x; subst x]) | clear_value x)

theorem dropTest_frame (h : Frame ps s t) (hm : Within [.flt] ps) : Frame ps s (dropTest t) := by
  unfold dropTest
  repeat'
    first
    | (show Within _ _; exact Within.trans (by decide) hm)
    | intro _
    | with_reducible (first | assumption | apply modFlt_frame)

theorem endOp_frame (h : Frame ps s t) (hm : Within [.flights, .run, .slc, .led, .flt, .dir, .radio, .ifl, .nfc, .cus, .upd, .outs] ps) (a1) (a2) (a3) : Frame ps s (endOp a1 a2 a3 t) := by
  unfold endOp
  repeat'
    first
    | (show Within _ _; exact Within.trans (by decide) hm)
    | intro _
    | with_reducible (first | assumption | apply endLocate_frame | apply settle_frame | apply resumePoll_frame | apply priFall_frame | apply modRadio_frame | apply endLost_frame | apply endRelay_frame | apply cancelAppend_frame | apply modDir_frame | apply modCus_frame | apply modUpd_frame | apply dropTest_frame | apply ite_frame)
    | split
    | (extract_lets +onlyGivenNames x; first | (refine (fun hx : Frame ps s x => ?_) ?_ <;> [clear_value x; subst x]) | (refine (fun hx : Frame ps s x.2 => ?_) ?_ <;> [clear_value x; subst x]) | (refine (fun hx : Frame ps s x.1 => ?_) ?_ <;> [clear_value x; subst x]) | clear_value x)

theorem execClassBoundExpiry_frame (h : Frame ps s t) (hm : Within [.flights, .vecs, .run, .slc, .time, .counters, .led, .flt, .sec, .dir, .radio, .ifl, .nfc, .cus, .upd, .outs] ps) (a1) : OutFrame ps s (execClassBoundExpiry a1 t) := by
  unfold execClassBoundExpiry
  repeat'
    first
    | (show Within _ _; exact Within.trans (by decide) hm)
    | intro _
    | with_reducible (first | assumption | apply OutFrame.next | apply elapseTo_frame | apply settle_frame | apply onlyIf_frame | apply keyEvent_frame | apply endOp_frame | apply ite_frame)
    | split
    | (extract_lets +onlyGivenNames x; first | (refine (fun hx : Frame ps s x => ?_) ?_ <;> [clear_value x; subst x]) | clear_value x)

theorem pairRecord_frame (h : Frame ps s t) (hm : Within [.vecs, .led, .flt, .outs] ps) (a1) (a2) (a3) (a4) : Frame ps s (pairRecord a1 a2 a3 a4 t) := by
  unfold pairRecord
  repeat'
    first
    | (show Within _ _; exact Within.trans (by decide) hm)
    | intro _
    | with_reducible (first | assumption | apply modFlt_frame | apply writeFault_frame)

theorem setPairOut_frame (h : Frame ps s t) (hm : Within [.pwr, .led] ps) (a1) (a2) : Frame ps s (setPairOut a1 a2 t) := by
  unfold setPairOut
  repeat'
    first
    | (show Within _ _; exact Within.trans (by decide) hm)
    | intro _
    | with_reducible (first | assumption | apply tryLog_frame | apply modPwr_frame | apply ite_frame)
    | split

theorem endPairTest_frame (h : Frame ps s t) (hm : Within [.flights, .run, .slc, .led, .flt] ps) (a1) : Frame ps s (endPairTest a1 t) := by
  unfold endPairTest
  repeat'
    first
    | (show Within _ _; exact Within.trans (by decide) hm)
    | intro _
    | with_reducible (first | assumption | apply settle_frame | apply modFlt_frame)
    | split

theorem loseShadow_frame (h : Frame ps s t) (hm : Within [.pwr, .flights, .vecs, .run, .slc, .led, .flt, .outs] ps) (a1) (a2) : Frame ps s (loseShadow a1 a2 t) := by
  unfold loseShadow
  repeat'
    first
    | (show Within _ _; exact Within.trans (by decide) hm)
    | intro _
    | with_reducible (first | assumption | apply modFlt_frame | apply endPairTest_frame | apply pairRecord_frame | apply setPairOut_frame | apply modPwr_frame | apply ite_frame)
    | split
    | (extract_lets +onlyGivenNames x; first | (refine (fun hx : Frame ps s x => ?_) ?_ <;> [clear_value x; subst x]) | clear_value x)

theorem takeover_frame (h : Frame ps s t) (hm : Within [.pwr, .sys, .flights, .vecs, .run, .slc, .time, .counters, .led, .cfg, .flt, .upd, .outs, .free] ps) : Frame ps s (takeover t) := by
  unfold takeover
  repeat'
    first
    | (show Within _ _; exact Within.trans (by decide) hm)
    | intro _
    | with_reducible (first | assumption | apply modPwr_frame | apply modFlt_frame | apply failoverTrial_frame | apply loseShadow_frame | apply ite_frame)
    | split
    | (extract_lets +onlyGivenNames x; first | (refine (fun hx : Frame ps s x => ?_) ?_ <;> [clear_value x; subst x]) | clear_value x)

theorem execStewardTakeover_frame (h : Frame ps s t) (hm : Within [.pwr, .sys, .flights, .vecs, .run, .slc, .time, .counters, .led, .cfg, .flt, .upd, .outs, .free] ps) (a1) : OutFrame ps s (execStewardTakeover a1 t) := by
  unfold execStewardTakeover
  repeat'
    first
    | (show Within _ _; exact Within.trans (by decide) hm)
    | intro _
    | with_reducible (first | assumption | apply OutFrame.next | apply takeover_frame)

theorem pairFails_frame (h : Frame ps s t) (hm : Within [.pwr, .vecs, .led, .flt, .outs] ps) (a1) : Frame ps s (pairFails a1 t) := by
  unfold pairFails
  repeat'
    first
    | (show Within _ _; exact Within.trans (by decide) hm)
    | intro _
    | with_reducible (first | assumption | apply setPairOut_frame | apply pairRecord_frame | apply modFlt_frame)

theorem joinShadow_frame (h : Frame ps s t) (hm : Within [.flt] ps) : Frame ps s (joinShadow t) := by
  unfold joinShadow
  repeat'
    first
    | (show Within _ _; exact Within.trans (by decide) hm)
    | intro _
    | with_reducible (first | assumption | apply modFlt_frame)
    | split

theorem execPairSelfTestEnd_frame (h : Frame ps s t) (hm : Within [.pwr, .vecs, .led, .flt, .outs] ps) (a1) : OutFrame ps s (execPairSelfTestEnd a1 t) := by
  unfold execPairSelfTestEnd
  repeat'
    first
    | (show Within _ _; exact Within.trans (by decide) hm)
    | intro _
    | with_reducible (first | assumption | apply OutFrame.next | apply modPwr_frame | apply pairRecord_frame | apply joinShadow_frame | apply pairFails_frame | apply ite_frame)
    | split
    | (extract_lets +onlyGivenNames x; first | (refine (fun hx : Frame ps s x => ?_) ?_ <;> [clear_value x; subst x]) | clear_value x)

theorem execShadowTestSlice_frame (h : Frame ps s t) (hm : Within [.pwr, .flights, .vecs, .run, .slc, .led, .flt, .outs] ps) (a1) : OutFrame ps s (execShadowTestSlice a1 t) := by
  unfold execShadowTestSlice
  repeat'
    first
    | (show Within _ _; exact Within.trans (by decide) hm)
    | intro _
    | with_reducible (first | assumption | apply OutFrame.next | apply endPairTest_frame | apply modFlt_frame | apply pairFails_frame | apply ite_frame)
    | split

theorem bankFails_frame (h : Frame ps s t) (hm : Within [.vecs, .led, .flt, .outs] ps) (a1) (a2) : Frame ps s (bankFails a1 a2 t) := by
  unfold bankFails
  repeat'
    first
    | (show Within _ _; exact Within.trans (by decide) hm)
    | intro _
    | with_reducible (first | assumption | apply changeUnit_frame)

theorem repairRow_frame (h : Frame ps s t) (hm : Within [.vecs, .led, .flt, .outs] ps) (a1) (a2) : Frame ps s (repairRow a1 a2 t) := by
  unfold repairRow
  repeat'
    first
    | (show Within _ _; exact Within.trans (by decide) hm)
    | intro _
    | with_reducible (first | assumption | apply tryLog_frame | apply modFlt_frame | apply bankFails_frame | apply ite_frame)
    | split
    | (extract_lets +onlyGivenNames x; first | (refine (fun hx : Frame ps s x => ?_) ?_ <;> [clear_value x; subst x]) | clear_value x)

theorem repairCol_frame (h : Frame ps s t) (hm : Within [.vecs, .led, .flt, .outs] ps) (a1) (a2) (a3) : Frame ps s (repairCol a1 a2 a3 t) := by
  unfold repairCol
  repeat'
    first
    | (show Within _ _; exact Within.trans (by decide) hm)
    | intro _
    | with_reducible (first | assumption | apply tryLog_frame | apply modFlt_frame | apply bankFails_frame | apply ite_frame)
    | split
    | (extract_lets +onlyGivenNames x; first | (refine (fun hx : Frame ps s x => ?_) ?_ <;> [clear_value x; subst x]) | clear_value x)

theorem wordLost_frame (h : Frame ps s t) (hm : Within [.pwr, .sys, .flights, .vecs, .run, .slc, .time, .counters, .led, .cfg, .flt, .sec, .dir, .radio, .ifl, .nfc, .cus, .upd, .outs, .free] ps) (a1) : Frame ps s (wordLost a1 t) := by
  unfold wordLost
  repeat'
    first
    | (show Within _ _; exact Within.trans (by decide) hm)
    | intro _
    | with_reducible (first | assumption | apply takeover_frame | apply loseShadow_frame | apply restartPoll_frame | apply endOp_frame | apply ite_frame)
    | split

theorem execSramEccError_frame (h : Frame ps s t) (hm : Within [.pwr, .sys, .flights, .vecs, .run, .slc, .time, .counters, .led, .cfg, .flt, .sec, .dir, .radio, .ifl, .nfc, .cus, .upd, .outs, .free] ps) (a1) (a2) (a3) (a4) (a5) : OutFrame ps s (execSramEccError a1 a2 a3 a4 a5 t) := by
  unfold execSramEccError
  repeat'
    first
    | (show Within _ _; exact Within.trans (by decide) hm)
    | intro _
    | with_reducible (first | assumption | apply OutFrame.next | apply modFlt_frame | apply fault_frame | apply onlyIf_frame | apply repairRow_frame | apply repairCol_frame | apply wordLost_frame | apply ite_frame)
    | split
    | (extract_lets +onlyGivenNames x; first | (refine (fun hx : Frame ps s x => ?_) ?_ <;> [clear_value x; subst x]) | clear_value x)

theorem halfFails_frame (h : Frame ps s t) (hm : Within [.pwr, .sys, .flights, .vecs, .rings, .time, .counters, .clk, .led, .flt, .sec, .slk, .dir, .radio, .cap, .ifl, .nfc, .cus, .upd, .outs, .free] ps) (a1) : Frame ps s (halfFails a1 t) := by
  unfold halfFails
  repeat'
    first
    | (show Within _ _; exact Within.trans (by decide) hm)
    | intro _
    | with_reducible (first | assumption | apply modLed_frame | apply changeUnit_frame | apply cusEvent_frame | apply enterHearth_frame | apply ite_frame)
    | split
    | (extract_lets +onlyGivenNames x; first | (refine (fun hx : Frame ps s x => ?_) ?_ <;> [clear_value x; subst x]) | clear_value x)

theorem execLedgerSectorFail_frame (h : Frame ps s t) (hm : Within [.pwr, .sys, .flights, .vecs, .rings, .time, .counters, .clk, .led, .flt, .sec, .slk, .dir, .radio, .cap, .ifl, .nfc, .cus, .upd, .outs, .free] ps) (a1) : OutFrame ps s (execLedgerSectorFail a1 t) := by
  unfold execLedgerSectorFail
  repeat'
    first
    | (show Within _ _; exact Within.trans (by decide) hm)
    | intro _
    | with_reducible (first | assumption | apply OutFrame.next | apply halfFails_frame | apply modLed_frame | apply fault_frame | apply modFlt_frame | apply cusEvent_frame | apply ite_frame)
    | split
    | (extract_lets +onlyGivenNames x; first | (refine (fun hx : Frame ps s x => ?_) ?_ <;> [clear_value x; subst x]) | clear_value x)

theorem execCoexGntStuck_frame (h : Frame ps s t) (hm : Within [.vecs, .led, .flt, .outs] ps) (a1) : OutFrame ps s (execCoexGntStuck a1 t) := by
  unfold execCoexGntStuck
  repeat'
    first
    | (show Within _ _; exact Within.trans (by decide) hm)
    | intro _
    | with_reducible (first | assumption | apply OutFrame.next | apply fault_frame | apply modFlt_frame | apply ite_frame)
    | split

theorem execPmicRecoveryRetry_frame (h : Frame ps s t) (hm : Within [.pwr, .vecs, .time, .counters, .led, .flt, .outs] ps) (a1) : OutFrame ps s (execPmicRecoveryRetry a1 t) := by
  unfold execPmicRecoveryRetry
  repeat'
    first
    | (show Within _ _; exact Within.trans (by decide) hm)
    | intro _
    | with_reducible (first | assumption | apply OutFrame.next | apply elapseTo_frame | apply modFlt_frame | apply writeFault_frame | apply fault_frame | apply modPwr_frame | apply ite_frame)
    | split
    | (extract_lets +onlyGivenNames x; first | (refine (fun hx : Frame ps s x => ?_) ?_ <;> [clear_value x; subst x]) | clear_value x)

theorem execPmicIrqStuck_frame (h : Frame ps s t) (hm : Within [.vecs, .led, .flt, .outs] ps) (a1) : OutFrame ps s (execPmicIrqStuck a1 t) := by
  unfold execPmicIrqStuck
  repeat'
    first
    | (show Within _ _; exact Within.trans (by decide) hm)
    | intro _
    | with_reducible (first | assumption | apply OutFrame.next | apply modFlt_frame | apply fault_frame | apply writeFault_frame | apply ite_frame)
    | split
    | (extract_lets +onlyGivenNames x; first | (refine (fun hx : Frame ps s x => ?_) ?_ <;> [clear_value x; subst x]) | clear_value x)

theorem changeLevel_frame (h : Frame ps s t) (hm : Within [.pwr, .run, .slc] ps) (a1) : Frame ps s (changeLevel a1 t) := by
  unfold changeLevel
  repeat'
    first
    | (show Within _ _; exact Within.trans (by decide) hm)
    | intro _
    | with_reducible (first | assumption | apply modSlc_frame | apply modPwr_frame | apply ite_frame)
    | split
    | (extract_lets +onlyGivenNames x; first | (refine (fun hx : Frame ps s x => ?_) ?_ <;> [clear_value x; subst x]) | clear_value x)

theorem laneTemps_frame (h : Frame ps s t) (hm : Within [.sec, .free] ps) (a1) : Frame ps s (laneTemps a1 t) := by
  unfold laneTemps
  repeat'
    first
    | (show Within _ _; exact Within.trans (by decide) hm)
    | intro _
    | with_reducible (first | assumption | apply drawn_frame | apply modSec_frame)
    | split
    | (extract_lets +onlyGivenNames x; first | (refine (fun hx : Frame ps s x => ?_) ?_ <;> [clear_value x; subst x]) | (refine (fun hx : Frame ps s x.2 => ?_) ?_ <;> [clear_value x; subst x]) | (refine (fun hx : Frame ps s x.1 => ?_) ?_ <;> [clear_value x; subst x]) | clear_value x)

theorem execThermalGovernor_frame (h : Frame ps s t) (hm : Within [.pwr, .run, .slc, .sec, .free] ps) (a1) : OutFrame ps s (execThermalGovernor a1 t) := by
  unfold execThermalGovernor
  repeat'
    first
    | (show Within _ _; exact Within.trans (by decide) hm)
    | intro _
    | with_reducible (first | assumption | apply OutFrame.next | apply laneTemps_frame | apply setDieTemp_frame | apply changeLevel_frame | apply ite_frame)
    | split
    | (extract_lets +onlyGivenNames x; first | (refine (fun hx : Frame ps s x => ?_) ?_ <;> [clear_value x; subst x]) | clear_value x)

theorem readDone_frame (h : Frame ps s t) (hm : Within [.rings] ps) (a1) (a2) (a3) : Frame ps s (readDone a1 a2 a3 t) := by
  unfold readDone
  repeat'
    first
    | (show Within _ _; exact Within.trans (by decide) hm)
    | intro _
    | with_reducible (first | assumption | apply modFunc_frame)

theorem barRead_frame (h : Frame ps s t) (hm : Within [.vecs, .rings, .counters, .outs] ps) (a1) (a2) (a3) : Frame ps s (barRead a1 a2 a3 t) := by
  unfold barRead
  repeat'
    first
    | (show Within _ _; exact Within.trans (by decide) hm)
    | intro _
    | with_reducible (first | assumption | apply readDone_frame | apply onlyIf_frame | apply putCnt_frame | apply ite_frame)
    | split

theorem execHighHalfLatch_frame (h : Frame ps s t) (hm : Within [.vecs, .rings, .counters, .outs] ps) (a1) (a2) (a3) : OutFrame ps s (execHighHalfLatch a1 a2 a3 t) := by
  unfold execHighHalfLatch
  repeat'
    first
    | (show Within _ _; exact Within.trans (by decide) hm)
    | intro _
    | with_reducible (first | assumption | apply OutFrame.next | apply barRead_frame)

theorem execSysReset_frame (h : Frame ps s t) (hm : Within [.pwr, .sys, .flights, .vecs, .rings, .counters, .clk, .flt, .sec, .slk, .dir, .radio, .cap, .ifl, .nfc, .cus, .upd, .outs] ps) (a1) (a2) : OutFrame ps s (execSysReset a1 a2 t) := by
  unfold execSysReset
  repeat'
    first
    | (show Within _ _; exact Within.trans (by decide) hm)
    | intro _
    | with_reducible (first | assumption | apply OutFrame.next | apply warmReset_frame | apply ite_frame)
    | split

theorem execSysLockSetup_frame (h : Frame ps s t) (hm : Within [.sys] ps) (a1) (a2) : OutFrame ps s (execSysLockSetup a1 a2 t) := by
  unfold execSysLockSetup
  repeat'
    first
    | (show Within _ _; exact Within.trans (by decide) hm)
    | intro _
    | with_reducible (first | assumption | apply OutFrame.next | apply modSys_frame | apply ite_frame)
    | split

theorem after_frame (h : Frame ps s t) (o : Host.Outcome State Fault Refusal) (ho : OutFrame ps s o) :
    Frame ps s (after o t) := by
  unfold after
  split
  · exact ho.out _ rfl
  · exact h
  · exact h

theorem sysWrite_frame (h : Frame ps s t) (hm : Within [.pwr, .sys, .flights, .vecs, .rings, .counters, .clk, .flt, .sec, .slk, .dir, .radio, .cap, .ifl, .nfc, .cus, .upd, .outs] ps) (a1) (a2) (a3) : Frame ps s (sysWrite a1 a2 a3 t) := by
  unfold sysWrite
  repeat'
    first
    | (show Within _ _; exact Within.trans (by decide) hm)
    | intro _
    | with_reducible (first | assumption | apply after_frame | apply execSysReset_frame | apply execSysLockSetup_frame | apply modSys_frame | apply ite_frame)
    | split

theorem vecWrite_frame (h : Frame ps s t) (hm : Within [.vecs, .outs] ps) (a1) (a2) (a3) (a4) : Frame ps s (vecWrite a1 a2 a3 a4 t) := by
  unfold vecWrite
  repeat'
    first
    | (show Within _ _; exact Within.trans (by decide) hm)
    | intro _
    | with_reducible (first | assumption | apply modVec_frame | apply sendPending_frame | apply ite_frame)
    | split

theorem hostWrite_frame (h : Frame ps s t) (hm : Within [.vecs, .rings, .led, .outs] ps) (a1) (a2) (a3) : Frame ps s (hostWrite a1 a2 a3 t) := by
  unfold hostWrite
  repeat'
    first
    | (show Within _ _; exact Within.trans (by decide) hm)
    | intro _
    | with_reducible (first | assumption | apply modFunc_frame | apply after_frame | apply execRingEnable_frame | apply execRingDisable_frame | apply modRing_frame | apply vecWrite_frame | apply ite_frame)
    | split

theorem slcWrite_frame (h : Frame ps s t) (hm : Within [.rings] ps) (a1) (a2) (a3) : Frame ps s (slcWrite a1 a2 a3 t) := by
  unfold slcWrite
  repeat'
    first
    | (show Within _ _; exact Within.trans (by decide) hm)
    | intro _
    | with_reducible (first | assumption | apply modFunc_frame | apply ite_frame)
    | split

theorem angWrite_frame (h : Frame ps s t) (hm : Within [.vecs, .time, .counters, .clk, .led, .outs] ps) (a1) (a2) (a3) : Frame ps s (angWrite a1 a2 a3 t) := by
  unfold angWrite
  repeat'
    first
    | (show Within _ _; exact Within.trans (by decide) hm)
    | intro _
    | with_reducible (first | assumption | apply modClk_frame | apply after_frame | apply execCntEnable_frame | apply execCntDisable_frame | apply execCntTop_frame | apply execCntCmp_frame | apply ite_frame)
    | split
    | (extract_lets +onlyGivenNames x; first | (refine (fun hx : Frame ps s x => ?_) ?_ <;> [clear_value x; subst x]) | clear_value x)

theorem lfWrite_frame (h : Frame ps s t) (hm : Within [.radio] ps) (a1) (a2) : Frame ps s (lfWrite a1 a2 t) := by
  unfold lfWrite
  repeat'
    first
    | (show Within _ _; exact Within.trans (by decide) hm)
    | intro _
    | with_reducible (first | assumption | apply modRadio_frame | apply ite_frame)
    | split
    | (extract_lets +onlyGivenNames x; first | (refine (fun hx : Frame ps s x => ?_) ?_ <;> [clear_value x; subst x]) | clear_value x)

theorem uhfWrite_frame (h : Frame ps s t) (hm : Within [.radio] ps) (a1) (a2) : Frame ps s (uhfWrite a1 a2 t) := by
  unfold uhfWrite
  repeat'
    first
    | (show Within _ _; exact Within.trans (by decide) hm)
    | intro _
    | with_reducible (first | assumption | apply modRadio_frame | apply ite_frame)
    | split

theorem nfcWrite_frame (h : Frame ps s t) (hm : Within [.cap, .nfc] ps) (a1) (a2) : Frame ps s (nfcWrite a1 a2 t) := by
  unfold nfcWrite
  repeat'
    first
    | (show Within _ _; exact Within.trans (by decide) hm)
    | intro _
    | with_reducible (first | assumption | apply modNfc_frame | apply modCap_frame | apply ite_frame)
    | split

theorem iflWrite_frame (h : Frame ps s t) (hm : Within [.ifl] ps) (a1) (a2) : Frame ps s (iflWrite a1 a2 t) := by
  unfold iflWrite
  repeat'
    first
    | (show Within _ _; exact Within.trans (by decide) hm)
    | intro _
    | with_reducible (first | assumption | apply modIfl_frame | apply modPort_frame | apply ite_frame)
    | split

theorem cusWrite_frame (h : Frame ps s t) (hm : Within [.cus] ps) (a1) (a2) : Frame ps s (cusWrite a1 a2 t) := by
  unfold cusWrite
  repeat'
    first
    | (show Within _ _; exact Within.trans (by decide) hm)
    | intro _
    | with_reducible (first | assumption | apply modCus_frame | apply ite_frame)
    | split

theorem dirWrite_frame (h : Frame ps s t) (hm : Within [.dir] ps) (a1) (a2) : Frame ps s (dirWrite a1 a2 t) := by
  unfold dirWrite
  repeat'
    first
    | (show Within _ _; exact Within.trans (by decide) hm)
    | intro _
    | with_reducible (first | assumption | apply modDir_frame | apply ite_frame)
    | split

theorem secWrite_frame (h : Frame ps s t) (hm : Within [.sec] ps) (a1) (a2) : Frame ps s (secWrite a1 a2 t) := by
  unfold secWrite
  repeat'
    first
    | (show Within _ _; exact Within.trans (by decide) hm)
    | intro _
    | with_reducible (first | assumption | apply modSec_frame | apply ite_frame)
    | split

theorem slkWrite_frame (h : Frame ps s t) (hm : Within [.slk] ps) (a1) (a2) : Frame ps s (slkWrite a1 a2 t) := by
  unfold slkWrite
  repeat'
    first
    | (show Within _ _; exact Within.trans (by decide) hm)
    | intro _
    | with_reducible (first | assumption | apply modSlk_frame | apply ite_frame)
    | split

theorem updWrite_frame (h : Frame ps s t) (hm : Within [.upd, .outs] ps) (a1) (a2) (a3) : Frame ps s (updWrite a1 a2 a3 t) := by
  unfold updWrite
  repeat'
    first
    | (show Within _ _; exact Within.trans (by decide) hm)
    | intro _
    | with_reducible (first | assumption | apply modUpd_frame | apply hearthGo_frame | apply after_frame | apply execUpdHearthRevert_frame | apply ite_frame)
    | split
    | (extract_lets +onlyGivenNames x; first | (refine (fun hx : Frame ps s x => ?_) ?_ <;> [clear_value x; subst x]) | clear_value x)

theorem fltWrite_frame (h : Frame ps s t) (hm : Within [.flt] ps) (a1) (a2) : Frame ps s (fltWrite a1 a2 t) := by
  unfold fltWrite
  repeat'
    first
    | (show Within _ _; exact Within.trans (by decide) hm)
    | intro _
    | with_reducible (first | assumption | apply modFlt_frame | apply ite_frame)
    | split

theorem pwrWrite_frame (h : Frame ps s t) (hm : Within [.pwr, .vecs, .rings, .outs] ps) (a1) (a2) (a3) : Frame ps s (pwrWrite a1 a2 a3 t) := by
  unfold pwrWrite
  repeat'
    first
    | (show Within _ _; exact Within.trans (by decide) hm)
    | intro _
    | with_reducible (first | assumption | apply onlyIf_frame | apply after_frame | apply execPwrParkReq_frame | apply execPwrParkCancel_frame | apply modPwr_frame | apply execPwrAlarmS_frame | apply ite_frame)
    | split
    | (extract_lets +onlyGivenNames x; first | (refine (fun hx : Frame ps s x => ?_) ?_ <;> [clear_value x; subst x]) | clear_value x)

theorem wordWrite_frame (h : Frame ps s t) (hm : Within [.pwr, .sys, .flights, .vecs, .rings, .time, .counters, .clk, .led, .flt, .sec, .slk, .dir, .radio, .cap, .ifl, .nfc, .cus, .upd, .outs] ps) (a1) (a2) (a3) : Frame ps s (wordWrite a1 a2 a3 t) := by
  unfold wordWrite
  repeat'
    first
    | (show Within _ _; exact Within.trans (by decide) hm)
    | intro _
    | with_reducible (first | assumption | apply sysWrite_frame | apply hostWrite_frame | apply slcWrite_frame | apply angWrite_frame | apply lfWrite_frame | apply uhfWrite_frame | apply nfcWrite_frame | apply iflWrite_frame | apply cusWrite_frame | apply dirWrite_frame | apply secWrite_frame | apply slkWrite_frame | apply updWrite_frame | apply fltWrite_frame | apply pwrWrite_frame | apply ite_frame)
    | split
    | (extract_lets +onlyGivenNames x; first | (refine (fun hx : Frame ps s x => ?_) ?_ <;> [clear_value x; subst x]) | clear_value x)

theorem execRegisterWrite_frame (h : Frame ps s t) (hm : Within [.pwr, .sys, .flights, .vecs, .rings, .time, .counters, .clk, .led, .flt, .sec, .slk, .dir, .radio, .cap, .ifl, .nfc, .cus, .upd, .outs] ps) (a1) (a2) (a3) (a4) : OutFrame ps s (execRegisterWrite a1 a2 a3 a4 t) := by
  unfold execRegisterWrite
  repeat'
    first
    | (show Within _ _; exact Within.trans (by decide) hm)
    | intro _
    | with_reducible (first | assumption | apply OutFrame.next | apply wordWrite_frame | apply ite_frame)
    | split
    | (extract_lets +onlyGivenNames x; first | (refine (fun hx : Frame ps s x => ?_) ?_ <;> [clear_value x; subst x]) | clear_value x)

theorem execFaultRead_frame (h : Frame ps s t) (hm : Within [.flights, .run, .slc, .led, .outs] ps) (a1) (a2) : OutFrame ps s (execFaultRead a1 a2 t) := by
  unfold execFaultRead
  repeat'
    first
    | (show Within _ _; exact Within.trans (by decide) hm)
    | intro _
    | with_reducible (first | assumption | apply OutFrame.next | apply startOp_frame | apply writeAndSettle_frame)
    | split
    | (extract_lets +onlyGivenNames x; first | (refine (fun hx : Frame ps s x => ?_) ?_ <;> [clear_value x; subst x]) | clear_value x)

theorem failsTest_frame (h : Frame ps s t) (hm : Within [.pwr, .flights, .vecs, .run, .slc, .led, .flt, .sec, .radio, .nfc, .outs, .free] ps) (a1) (a2) : Frame ps s (failsTest a1 a2 t) := by
  unfold failsTest
  repeat'
    first
    | (show Within _ _; exact Within.trans (by decide) hm)
    | intro _
    | with_reducible (first | assumption | apply retireLane_frame | apply changeUnit_frame | apply modLane_frame | apply fault_frame | apply outOfService_frame | apply lfEvent_frame | apply chainOut_frame | apply uhfEvent_frame | apply modUhfCh_frame | apply nfcEvent_frame | apply ite_frame)
    | split
    | (extract_lets +onlyGivenNames x; first | (refine (fun hx : Frame ps s x => ?_) ?_ <;> [clear_value x; subst x]) | clear_value x)

theorem noteTest_frame (h : Frame ps s t) (hm : Within [.flt] ps) (a1) (a2) (a3) : Frame ps s (noteTest a1 a2 a3 t) := by
  unfold noteTest
  repeat'
    first
    | (show Within _ _; exact Within.trans (by decide) hm)
    | intro _
    | with_reducible (first | assumption | apply modFlt_frame)

theorem execUnitTest_frame (h : Frame ps s t) (hm : Within [.pwr, .flights, .vecs, .run, .slc, .led, .flt, .sec, .radio, .nfc, .outs, .free] ps) (a1) (a2) : OutFrame ps s (execUnitTest a1 a2 t) := by
  unfold execUnitTest
  repeat'
    first
    | (show Within _ _; exact Within.trans (by decide) hm)
    | intro _
    | with_reducible (first | assumption | apply OutFrame.next | apply startOp_frame | apply settle_frame | apply modFlt_frame | apply noteTest_frame | apply failsTest_frame | apply ite_frame)
    | split
    | (extract_lets +onlyGivenNames x; first | (refine (fun hx : Frame ps s x => ?_) ?_ <;> [clear_value x; subst x]) | clear_value x)

theorem bypassRecord_frame (h : Frame ps s t) (hm : Within [.vecs, .led, .flt, .outs, .free] ps) (a1) (a2) : Frame ps s (bypassRecord a1 a2 t) := by
  unfold bypassRecord
  repeat'
    first
    | (show Within _ _; exact Within.trans (by decide) hm)
    | intro _
    | with_reducible (first | assumption | apply changeUnit_frame | apply drawn_frame)

theorem leaveUnit_frame (h : Frame ps s t) (hm : Within [.pwr, .flights, .vecs, .run, .slc, .led, .flt, .sec, .slk, .dir, .radio, .ifl, .nfc, .upd, .outs, .free] ps) (a1) (a2) : Frame ps s (leaveUnit a1 a2 t) := by
  unfold leaveUnit
  repeat'
    first
    | (show Within _ _; exact Within.trans (by decide) hm)
    | intro _
    | with_reducible (first | assumption | apply modLane_frame | apply rngEvent_frame | apply judgeRng_frame | apply modSource_frame | apply gather_frame | apply onlyIf_frame | apply telegramLost_frame | apply chainOut_frame | apply uhfEvent_frame | apply nfcEvent_frame | apply readerLost_frame | apply portDown_frame | apply flagsCheck_frame | apply ite_frame)
    | split

theorem execBypass_frame (h : Frame ps s t) (hm : Within [.pwr, .flights, .vecs, .run, .slc, .led, .flt, .sec, .slk, .dir, .radio, .ifl, .nfc, .upd, .outs, .free] ps) (a1) : OutFrame ps s (execBypass a1 t) := by
  unfold execBypass
  repeat'
    first
    | (show Within _ _; exact Within.trans (by decide) hm)
    | intro _
    | with_reducible (first | assumption | apply OutFrame.next | apply startOp_frame | apply settle_frame | apply leaveUnit_frame | apply bypassRecord_frame | apply ite_frame)
    | split
    | (extract_lets +onlyGivenNames x; first | (refine (fun hx : Frame ps s x => ?_) ?_ <;> [clear_value x; subst x]) | clear_value x)

theorem rejoin_frame (h : Frame ps s t) (hm : Within [.pwr, .vecs, .led, .flt, .sec, .slk, .radio, .nfc, .outs] ps) (a1) (a2) : Frame ps s (rejoin a1 a2 t) := by
  unfold rejoin
  repeat'
    first
    | (show Within _ _; exact Within.trans (by decide) hm)
    | intro _
    | with_reducible (first | assumption | apply joinShadow_frame | apply pairRecord_frame | apply setPairOut_frame | apply backInService_frame | apply modLane_frame | apply fault_frame | apply modSource_frame | apply modLfCh_frame | apply modUhfCh_frame | apply modReader_frame | apply flagsCheck_frame | apply ite_frame)
    | split
    | (extract_lets +onlyGivenNames x; first | (refine (fun hx : Frame ps s x => ?_) ?_ <;> [clear_value x; subst x]) | clear_value x)

theorem staysOut_frame (h : Frame ps s t) (hm : Within [.pwr, .flights, .vecs, .run, .slc, .led, .flt, .sec, .radio, .nfc, .outs, .free] ps) (a1) (a2) : Frame ps s (staysOut a1 a2 t) := by
  unfold staysOut
  repeat'
    first
    | (show Within _ _; exact Within.trans (by decide) hm)
    | intro _
    | with_reducible (first | assumption | apply failsTest_frame | apply writeFault_frame | apply ite_frame)
    | split
    | (extract_lets +onlyGivenNames x; first | (refine (fun hx : Frame ps s x => ?_) ?_ <;> [clear_value x; subst x]) | clear_value x)

theorem execRestore_frame (h : Frame ps s t) (hm : Within [.pwr, .flights, .vecs, .run, .slc, .led, .flt, .sec, .slk, .radio, .nfc, .outs, .free] ps) (a1) (a2) : OutFrame ps s (execRestore a1 a2 t) := by
  unfold execRestore
  repeat'
    first
    | (show Within _ _; exact Within.trans (by decide) hm)
    | intro _
    | with_reducible (first | assumption | apply OutFrame.next | apply startOp_frame | apply settle_frame | apply noteTest_frame | apply rejoin_frame | apply staysOut_frame | apply ite_frame)
    | split
    | (extract_lets +onlyGivenNames x; first | (refine (fun hx : Frame ps s x => ?_) ?_ <;> [clear_value x; subst x]) | clear_value x)

theorem mendGroup_frame (h : Frame ps s t) (hm : Within [.cus, .outs] ps) (a1) (a2) (a3) : Frame ps s (mendGroup a1 a2 a3 t) := by
  unfold mendGroup
  repeat'
    first
    | (show Within _ _; exact Within.trans (by decide) hm)
    | intro _
    | with_reducible (first | assumption | apply each_frame | apply onlyIf_frame | apply emit_frame | apply modCus_frame | apply ite_frame)
    | split

theorem countReadErrs_frame (h : Frame ps s t) (hm : Within [.vecs, .led, .flt, .cus, .outs] ps) (a1) (a2) : Frame ps s (countReadErrs a1 a2 t) := by
  unfold countReadErrs
  repeat'
    first
    | (show Within _ _; exact Within.trans (by decide) hm)
    | intro _
    | with_reducible (first | assumption | apply modCus_frame | apply driveWorn_frame | apply ite_frame)
    | split
    | (extract_lets +onlyGivenNames x; first | (refine (fun hx : Frame ps s x => ?_) ?_ <;> [clear_value x; subst x]) | clear_value x)

theorem innerCharge_frame (h : Frame ps s t) (hm : Within [.flights, .cus] ps) (a1) (a2) : Frame ps s (innerCharge a1 a2 t) := by
  unfold innerCharge
  repeat'
    first
    | (show Within _ _; exact Within.trans (by decide) hm)
    | intro _
    | with_reducible (first | assumption | apply modFlight_frame | apply modCus_frame)
    | split
    | (extract_lets +onlyGivenNames x; first | (refine (fun hx : Frame ps s x => ?_) ?_ <;> [clear_value x; subst x]) | (refine (fun hx : Frame ps s x.2 => ?_) ?_ <;> [clear_value x; subst x]) | (refine (fun hx : Frame ps s x.1 => ?_) ?_ <;> [clear_value x; subst x]) | clear_value x)

theorem execScrub_frame (h : Frame ps s t) (hm : Within [.flights, .vecs, .run, .slc, .led, .flt, .dir, .cus, .outs] ps) (a1) (a2) : OutFrame ps s (execScrub a1 a2 t) := by
  unfold execScrub
  repeat'
    first
    | (show Within _ _; exact Within.trans (by decide) hm)
    | intro _
    | with_reducible (first | assumption | apply OutFrame.next | apply startOp_frame | apply settle_frame | apply innerCharge_frame | apply declareLost_frame | apply noteTest_frame | apply each_frame | apply mendGroup_frame | apply countReadErrs_frame | apply ite_frame)
    | split
    | (extract_lets +onlyGivenNames x; first | (refine (fun hx : Frame ps s x => ?_) ?_ <;> [clear_value x; subst x]) | clear_value x)

theorem execDriveDrain_frame (h : Frame ps s t) (hm : Within [.flights, .run, .slc, .led, .cus] ps) (a1) : OutFrame ps s (execDriveDrain a1 t) := by
  unfold execDriveDrain
  repeat'
    first
    | (show Within _ _; exact Within.trans (by decide) hm)
    | intro _
    | with_reducible (first | assumption | apply OutFrame.next | apply startOp_frame | apply settle_frame | apply retireEmpty_frame | apply modDrive_frame | apply ite_frame)
    | split
    | (extract_lets +onlyGivenNames x; first | (refine (fun hx : Frame ps s x => ?_) ?_ <;> [clear_value x; subst x]) | clear_value x)

theorem execDriveAdmit_frame (h : Frame ps s t) (hm : Within [.flights, .run, .slc, .led, .sec, .cus, .outs, .free] ps) (a1) : OutFrame ps s (execDriveAdmit a1 t) := by
  unfold execDriveAdmit
  repeat'
    first
    | (show Within _ _; exact Within.trans (by decide) hm)
    | intro _
    | with_reducible (first | assumption | apply OutFrame.next | apply startOp_frame | apply settle_frame | apply modDrive_frame | apply driveRecord_frame | apply onlyIf_frame | apply writeLabel_frame | apply emit_frame | apply ite_frame)
    | split
    | (extract_lets +onlyGivenNames x; first | (refine (fun hx : Frame ps s x => ?_) ?_ <;> [clear_value x; subst x]) | clear_value x)

theorem execService_frame (h : Frame ps s t) (hm : Within [.pwr, .flights, .vecs, .rings, .run, .slc, .led, .outs] ps) (a1) : OutFrame ps s (execService a1 t) := by
  unfold execService
  repeat'
    first
    | (show Within _ _; exact Within.trans (by decide) hm)
    | intro _
    | with_reducible (first | assumption | apply OutFrame.next | apply startOp_frame | apply settle_frame | apply enterService_frame | apply ite_frame)
    | split
    | (extract_lets +onlyGivenNames x; first | (refine (fun hx : Frame ps s x => ?_) ?_ <;> [clear_value x; subst x]) | clear_value x)

theorem noteTamper_frame (h : Frame ps s t) (hm : Within [.flt, .sec] ps) (a1) (a2) : Frame ps s (noteTamper a1 a2 t) := by
  unfold noteTamper
  repeat'
    first
    | (show Within _ _; exact Within.trans (by decide) hm)
    | intro _
    | with_reducible (first | assumption | apply modFlt_frame | apply modSec_frame)
    | split
    | (extract_lets +onlyGivenNames x; first | (refine (fun hx : Frame ps s x => ?_) ?_ <;> [clear_value x; subst x]) | clear_value x)

theorem reportTamper_frame (h : Frame ps s t) (hm : Within [.vecs, .led, .flt, .slk, .outs] ps) (a1) (a2) : Frame ps s (reportTamper a1 a2 t) := by
  unfold reportTamper
  repeat'
    first
    | (show Within _ _; exact Within.trans (by decide) hm)
    | intro _
    | with_reducible (first | assumption | apply lockRequest_frame | apply fault_frame | apply ite_frame)
    | split

theorem eraseWork_frame (h : Frame ps s t) (hm : Within [.flights, .run, .slc, .led] ps) : Frame ps s (eraseWork t) := by
  unfold eraseWork
  repeat'
    first
    | (show Within _ _; exact Within.trans (by decide) hm)
    | intro _
    | with_reducible (first | assumption | apply each_frame | apply settle_frame | apply ite_frame)
    | split

theorem deferPoll_frame (h : Frame ps s t) (hm : Within [.pwr, .flights, .run, .slc, .led, .sec, .radio, .outs, .free] ps) (a1) : Frame ps s (deferPoll a1 t) := by
  unfold deferPoll
  repeat'
    first
    | (show Within _ _; exact Within.trans (by decide) hm)
    | intro _
    | with_reducible (first | assumption | apply restartPoll_frame | apply coexDrop_frame | apply beginTelegram_frame | apply modRadio_frame | apply ite_frame)
    | split
    | (extract_lets +onlyGivenNames x; first | (refine (fun hx : Frame ps s x => ?_) ?_ <;> [clear_value x; subst x]) | clear_value x)

theorem alarm_frame (h : Frame ps s t) (hm : Within [.pwr, .flights, .run, .slc, .led, .sec, .radio, .outs, .free] ps) : Frame ps s (alarm t) := by
  unfold alarm
  repeat'
    first
    | (show Within _ _; exact Within.trans (by decide) hm)
    | intro _
    | with_reducible (first | assumption | apply deferPoll_frame | apply eraseWork_frame | apply keyEvent_frame | apply modSec_frame)
    | split
    | (extract_lets +onlyGivenNames x; first | (refine (fun hx : Frame ps s x => ?_) ?_ <;> [clear_value x; subst x]) | clear_value x)

theorem execAlarmHoldEnd_frame (h : Frame ps s t) (hm : Within [.vecs, .time, .counters, .sec, .outs] ps) : OutFrame ps s (execAlarmHoldEnd t) := by
  unfold execAlarmHoldEnd
  repeat'
    first
    | (show Within _ _; exact Within.trans (by decide) hm)
    | intro _
    | with_reducible (first | assumption | apply OutFrame.next | apply modSec_frame | apply elapseTo_frame)
    | split

theorem loseVault_frame (h : Frame ps s t) (hm : Within [.pwr, .flights, .vecs, .rings, .run, .slc, .time, .counters, .clk, .led, .flt, .sec, .slk] ps) (a1) : Frame ps s (loseVault a1 t) := by
  unfold loseVault
  repeat'
    first
    | (show Within _ _; exact Within.trans (by decide) hm)
    | intro _
    | with_reducible (first | assumption | apply loseAon_frame | apply modSec_frame | apply modFlt_frame)
    | split
    | (extract_lets +onlyGivenNames x; first | (refine (fun hx : Frame ps s x => ?_) ?_ <;> [clear_value x; subst x]) | clear_value x)

theorem zeroise_frame (h : Frame ps s t) (hm : Within [.pwr, .sys, .flights, .vecs, .rings, .run, .slc, .time, .counters, .clk, .led, .flt, .sec, .slk, .dir, .radio, .cap, .ifl, .nfc, .cus, .upd, .outs] ps) (a1) : Frame ps s (zeroise a1 t) := by
  unfold zeroise
  repeat'
    first
    | (show Within _ _; exact Within.trans (by decide) hm)
    | intro _
    | with_reducible (first | assumption | apply loseVault_frame | apply endKeyWork_frame | apply onlyIf_frame | apply modPwr_frame | apply fullReset_frame | apply drivePins_frame | apply modFlt_frame | apply ite_frame)
    | split
    | (extract_lets +onlyGivenNames x; first | (refine (fun hx : Frame ps s x => ?_) ?_ <;> [clear_value x; subst x]) | clear_value x)

theorem zeroiseEvent_frame (h : Frame ps s t) (hm : Within [.pwr, .sys, .flights, .vecs, .rings, .run, .slc, .time, .counters, .clk, .led, .flt, .sec, .slk, .dir, .radio, .cap, .ifl, .nfc, .cus, .upd, .outs] ps) (a1) : Frame ps s (zeroiseEvent a1 t) := by
  unfold zeroiseEvent
  repeat'
    first
    | (show Within _ _; exact Within.trans (by decide) hm)
    | intro _
    | with_reducible (first | assumption | apply wake_frame | apply zeroise_frame | apply reportTamper_frame | apply noteTamper_frame)

theorem alarmEvent_frame (h : Frame ps s t) (hm : Within [.pwr, .flights, .vecs, .run, .slc, .led, .flt, .sec, .slk, .radio, .outs, .free] ps) (a1) : Frame ps s (alarmEvent a1 t) := by
  unfold alarmEvent
  repeat'
    first
    | (show Within _ _; exact Within.trans (by decide) hm)
    | intro _
    | with_reducible (first | assumption | apply wake_frame | apply onlyIf_frame | apply alarm_frame | apply reportTamper_frame | apply noteTamper_frame)

theorem countAlarm_frame (h : Frame ps s t) (hm : Within [.flt] ps) : Frame ps s (countAlarm t).2 := by
  unfold countAlarm
  repeat'
    first
    | (show Within _ _; exact Within.trans (by decide) hm)
    | intro _
    | with_reducible (first | assumption | apply modFlt_frame)
    | (extract_lets +onlyGivenNames x; first | (refine (fun hx : Frame ps s x => ?_) ?_ <;> [clear_value x; subst x]) | clear_value x)
    | dsimp only

theorem glitch_frame (h : Frame ps s t) (hm : Within [.pwr, .sys, .flights, .vecs, .rings, .run, .slc, .time, .counters, .clk, .led, .flt, .sec, .slk, .dir, .radio, .cap, .ifl, .nfc, .cus, .upd, .outs, .free] ps) (a1) : Frame ps s (glitch a1 t) := by
  unfold glitch
  repeat'
    first
    | (show Within _ _; exact Within.trans (by decide) hm)
    | intro _
    | with_reducible (first | assumption | apply countAlarm_frame | apply zeroiseEvent_frame | apply alarmEvent_frame | apply ite_frame)
    | split
    | (extract_lets +onlyGivenNames x; first | (refine (fun hx : Frame ps s x => ?_) ?_ <;> [clear_value x; subst x]) | (refine (fun hx : Frame ps s x.2 => ?_) ?_ <;> [clear_value x; subst x]) | (refine (fun hx : Frame ps s x.1 => ?_) ?_ <;> [clear_value x; subst x]) | clear_value x)

theorem execTamperMesh_frame (h : Frame ps s t) (hm : Within [.pwr, .sys, .flights, .vecs, .rings, .run, .slc, .time, .counters, .clk, .led, .flt, .sec, .slk, .dir, .radio, .cap, .ifl, .nfc, .cus, .upd, .outs] ps) (a1) : OutFrame ps s (execTamperMesh a1 t) := by
  unfold execTamperMesh
  repeat'
    first
    | (show Within _ _; exact Within.trans (by decide) hm)
    | intro _
    | with_reducible (first | assumption | apply OutFrame.next | apply zeroiseEvent_frame | apply ite_frame)
    | split

theorem execLight_frame (h : Frame ps s t) (hm : Within [.pwr, .sys, .flights, .vecs, .rings, .run, .slc, .time, .counters, .clk, .led, .flt, .sec, .slk, .dir, .radio, .cap, .ifl, .nfc, .cus, .upd, .outs] ps) : OutFrame ps s (execLight t) := by
  unfold execLight
  repeat'
    first
    | (show Within _ _; exact Within.trans (by decide) hm)
    | intro _
    | with_reducible (first | assumption | apply OutFrame.next | apply zeroiseEvent_frame)

theorem execVoltageGlitch_frame (h : Frame ps s t) (hm : Within [.pwr, .sys, .flights, .vecs, .rings, .run, .slc, .time, .counters, .clk, .led, .flt, .sec, .slk, .dir, .radio, .cap, .ifl, .nfc, .cus, .upd, .outs, .free] ps) : OutFrame ps s (execVoltageGlitch t) := by
  unfold execVoltageGlitch
  repeat'
    first
    | (show Within _ _; exact Within.trans (by decide) hm)
    | intro _
    | with_reducible (first | assumption | apply OutFrame.next | apply glitch_frame)

theorem execClockGlitch_frame (h : Frame ps s t) (hm : Within [.pwr, .sys, .flights, .vecs, .rings, .run, .slc, .time, .counters, .clk, .led, .flt, .sec, .slk, .dir, .radio, .cap, .ifl, .nfc, .cus, .upd, .outs, .free] ps) : OutFrame ps s (execClockGlitch t) := by
  unfold execClockGlitch
  repeat'
    first
    | (show Within _ _; exact Within.trans (by decide) hm)
    | intro _
    | with_reducible (first | assumption | apply OutFrame.next | apply glitch_frame)

theorem execTemperatureTamper_frame (h : Frame ps s t) (hm : Within [.pwr, .flights, .vecs, .run, .slc, .led, .flt, .sec, .slk, .radio, .outs, .free] ps) : OutFrame ps s (execTemperatureTamper t) := by
  unfold execTemperatureTamper
  repeat'
    first
    | (show Within _ _; exact Within.trans (by decide) hm)
    | intro _
    | with_reducible (first | assumption | apply OutFrame.next | apply alarmEvent_frame | apply countAlarm_frame)

end Sys2Proof.Machine
end

