-- ==== Sys2Proof/Laws/Keeps.lean ====
section
/-! SUPPORT. `Keeps` is a preorder, and each block update keeps it under a condition on its block alone. -/

namespace Sys2Proof.Machine

theorem sameAcceptance_refl (f : Flight) : sameAcceptance f f := by simp [sameAcceptance]

theorem FlightsKept.refl (l : List Flight) : FlightsKept l l := fun _ f h => ⟨f, h, sameAcceptance_refl f, fun _ => rfl⟩

theorem FlightsKept.trans {a b c : List Flight} (h : FlightsKept a b) (k : FlightsKept b c) : FlightsKept a c := by
  intro r f hf
  obtain ⟨g, hg, sg, fg⟩ := h r f hf
  obtain ⟨x, hx, sx, fx⟩ := k r g hg
  refine ⟨x, hx, ?_, fun hs => ?_⟩
  · simp only [sameAcceptance] at sg sx ⊢
    obtain ⟨a1, a2, a3, a4, a5, a6, a7, a8, a9, a10, a11, a12⟩ := sg
    simpa only [a1, a2, a3, a4, a5, a6, a7, a8, a9, a10, a11, a12] using sx
  · rw [fx (by rw [fg hs]; exact hs), fg hs]

theorem Keeps.refl (s : State) : Keeps s s := ⟨.refl _, le_rfl, le_rfl, le_rfl, le_rfl, rfl, rfl⟩

theorem Keeps.trans {a b c : State} (h : Keeps a b) (k : Keeps b c) : Keeps a c :=
  ⟨h.flights.trans k.flights, h.epoch.trans k.epoch, h.lsn.trans k.lsn, h.floor.trans k.floor, h.seq.trans k.seq,
    k.fuse.trans h.fuse, k.counts.trans h.counts⟩

/-- A change of one flight that keeps its acceptance and its fate. -/
def FlightFn (f : Flight → Flight) : Prop := ∀ x, sameAcceptance x (f x) ∧ (x.fate.isSome → (f x).fate = x.fate)

/-- Every next state an outcome answers is one that keeps what `s` had. -/
structure OutKeeps (s : State) (o : Host.Outcome State Fault Refusal) : Prop where
  out : ∀ t, o = .next t → Keeps s t

theorem OutKeeps.next {s t : State} (h : Keeps s t) : OutKeeps s (.next t) := by
  constructor; intro u hu; cases hu; exact h

variable {s t : State}

theorem ite_keeps {c : Prop} [Decidable c] {a b : State} (h : Keeps s a) (k : Keeps s b) :
    Keeps s (if c then a else b) := by split <;> assumption

/-! ### Block updates -/

theorem modHost_keeps_at (h : Keeps s t) (f : HostBlk → HostBlk) (hf : FlightsKept t.host.flights (f t.host).flights) :
    Keeps s (modHost f t) := h.trans ⟨hf, Nat.le_refl _, Nat.le_refl _, Nat.le_refl _, Nat.le_refl _, rfl, rfl⟩

theorem modHost_keeps (h : Keeps s t) (f : HostBlk → HostBlk) (hf : ∀ b, FlightsKept b.flights (f b).flights) : Keeps s (modHost f t) :=
  modHost_keeps_at h f (hf _)

theorem modSlc_keeps_at (h : Keeps s t) (f : Slc → Slc) (hf : t.slc.epoch ≤ (f t.slc).epoch) : Keeps s (modSlc f t) :=
  h.trans ⟨.refl _, hf, Nat.le_refl _, Nat.le_refl _, Nat.le_refl _, rfl, rfl⟩

theorem modSlc_keeps (h : Keeps s t) (f : Slc → Slc) (hf : ∀ b, b.epoch ≤ (f b).epoch) : Keeps s (modSlc f t) :=
  modSlc_keeps_at h f (hf _)

theorem modLed_keeps_at (h : Keeps s t) (f : Ledger → Ledger) (hf : t.led.lsn ≤ (f t.led).lsn) : Keeps s (modLed f t) :=
  h.trans ⟨.refl _, Nat.le_refl _, hf, Nat.le_refl _, Nat.le_refl _, rfl, rfl⟩

theorem modLed_keeps (h : Keeps s t) (f : Ledger → Ledger) (hf : ∀ b, b.lsn ≤ (f b).lsn) : Keeps s (modLed f t) :=
  modLed_keeps_at h f (hf _)

theorem modUpd_keeps_at (h : Keeps s t) (f : Upd → Upd) (hf : t.upd.ledgerFloor ≤ (f t.upd).ledgerFloor)
    (hq : t.upd.seq ≤ (f t.upd).seq) : Keeps s (modUpd f t) :=
  h.trans ⟨.refl _, Nat.le_refl _, Nat.le_refl _, hf, hq, rfl, rfl⟩

theorem modUpd_keeps (h : Keeps s t) (f : Upd → Upd) (hf : ∀ b, b.ledgerFloor ≤ (f b).ledgerFloor)
    (hq : ∀ b, b.seq ≤ (f b).seq) : Keeps s (modUpd f t) :=
  modUpd_keeps_at h f (hf _) (hq _)

theorem modClk_keeps_at (h : Keeps s t) (f : Clk → Clk) (hf : (f t.clk).cnts.length = t.clk.cnts.length) :
    Keeps s (modClk f t) :=
  h.trans ⟨.refl _, Nat.le_refl _, Nat.le_refl _, Nat.le_refl _, Nat.le_refl _, rfl, by simp [counts, modClk, hf]⟩

theorem modClk_keeps (h : Keeps s t) (f : Clk → Clk) (hf : ∀ b, (f b).cnts.length = b.cnts.length) : Keeps s (modClk f t) :=
  modClk_keeps_at h f (hf _)

theorem modSec_keeps_at (h : Keeps s t) (f : Sec → Sec) (hl : (f t.sec).lanes.length = t.sec.lanes.length)
    (hs : (f t.sec).sources.length = t.sec.sources.length) : Keeps s (modSec f t) :=
  h.trans ⟨.refl _, Nat.le_refl _, Nat.le_refl _, Nat.le_refl _, Nat.le_refl _, rfl, by simp [counts, modSec, hl, hs]⟩

theorem modSec_keeps (h : Keeps s t) (f : Sec → Sec) (hl : ∀ b, (f b).lanes.length = b.lanes.length)
    (hs : ∀ b, (f b).sources.length = b.sources.length) : Keeps s (modSec f t) :=
  modSec_keeps_at h f (hl _) (hs _)

theorem modPwr_keeps_at (h : Keeps s t) (f : Pwr → Pwr) (hf : (f t.pwr).pins.length = t.pwr.pins.length) :
    Keeps s (modPwr f t) :=
  h.trans ⟨.refl _, Nat.le_refl _, Nat.le_refl _, Nat.le_refl _, Nat.le_refl _, rfl, by simp [counts, modPwr, hf]⟩

theorem modPwr_keeps (h : Keeps s t) (f : Pwr → Pwr) (hf : ∀ b, (f b).pins.length = b.pins.length) : Keeps s (modPwr f t) :=
  modPwr_keeps_at h f (hf _)

theorem modIfl_keeps_at (h : Keeps s t) (f : Ifl → Ifl) (hf : (f t.ifl).ports.length = t.ifl.ports.length) :
    Keeps s (modIfl f t) :=
  h.trans ⟨.refl _, Nat.le_refl _, Nat.le_refl _, Nat.le_refl _, Nat.le_refl _, rfl, by simp [counts, modIfl, hf]⟩

theorem modIfl_keeps (h : Keeps s t) (f : Ifl → Ifl) (hf : ∀ b, (f b).ports.length = b.ports.length) : Keeps s (modIfl f t) :=
  modIfl_keeps_at h f (hf _)

theorem modCus_keeps_at (h : Keeps s t) (f : Cus → Cus) (hf : (f t.cus).drives.length = t.cus.drives.length) :
    Keeps s (modCus f t) :=
  h.trans ⟨.refl _, Nat.le_refl _, Nat.le_refl _, Nat.le_refl _, Nat.le_refl _, rfl, by simp [counts, modCus, hf]⟩

theorem modCus_keeps (h : Keeps s t) (f : Cus → Cus) (hf : ∀ b, (f b).drives.length = b.drives.length) : Keeps s (modCus f t) :=
  modCus_keeps_at h f (hf _)

theorem same_keeps {u : State} (h : Keeps s t) (h1 : u.host = t.host) (h2 : u.slc = t.slc) (h3 : u.led = t.led)
    (h4 : u.upd = t.upd) (h5 : u.fuse = t.fuse) (h6 : counts u = counts t) : Keeps s u :=
  h.trans ⟨by rw [h1]; exact .refl _, by rw [h2], by rw [h3], by rw [h4], by rw [h4], h5, h6⟩

theorem modSys_keeps (h : Keeps s t) (f : Sys → Sys) : Keeps s (modSys f t) := same_keeps h rfl rfl rfl rfl rfl rfl
theorem modCfg_keeps (h : Keeps s t) (f : CfgSet → CfgSet) : Keeps s (modCfg f t) := same_keeps h rfl rfl rfl rfl rfl rfl
theorem modFlt_keeps (h : Keeps s t) (f : Flt → Flt) : Keeps s (modFlt f t) := same_keeps h rfl rfl rfl rfl rfl rfl
theorem modSlk_keeps (h : Keeps s t) (f : Slk → Slk) : Keeps s (modSlk f t) := same_keeps h rfl rfl rfl rfl rfl rfl
theorem modDir_keeps (h : Keeps s t) (f : Dir → Dir) : Keeps s (modDir f t) := same_keeps h rfl rfl rfl rfl rfl rfl
theorem modRadio_keeps (h : Keeps s t) (f : Radio → Radio) : Keeps s (modRadio f t) := same_keeps h rfl rfl rfl rfl rfl rfl
theorem modCap_keeps (h : Keeps s t) (f : Cap → Cap) : Keeps s (modCap f t) := same_keeps h rfl rfl rfl rfl rfl rfl
theorem modNfc_keeps (h : Keeps s t) (f : Nfc → Nfc) : Keeps s (modNfc f t) := same_keeps h rfl rfl rfl rfl rfl rfl
theorem emit_keeps (h : Keeps s t) (o : Out) : Keeps s (emit o t) := same_keeps h rfl rfl rfl rfl rfl rfl
theorem drawn_keeps (h : Keeps s t) (n : Nat) : Keeps s (drawn n t) := same_keeps h rfl rfl rfl rfl rfl rfl
theorem setDieTemp_keeps (h : Keeps s t) (v : Int) : Keeps s (setDieTemp v t) := by
  unfold setDieTemp; split <;> exact same_keeps h rfl rfl rfl rfl rfl rfl

theorem onlyIf_keeps (h : Keeps s t) (c : Bool) (f : State → State) (hf : ∀ {t}, Keeps s t → Keeps s (f t)) :
    Keeps s (onlyIf c f t) := by
  unfold onlyIf; split
  · exact hf h
  · exact h

theorem foldl_keeps {α : Type} (h : Keeps s t) (l : List α) (f : State → α → State)
    (hf : ∀ x {t}, Keeps s t → Keeps s (f t x)) : Keeps s (l.foldl f t) := by
  induction l generalizing t with
  | nil => exact h
  | cons a l ih => exact ih (hf a h)

theorem each_keeps {α : Type} (h : Keeps s t) (l : List α) (f : α → State → State)
    (hf : ∀ x {t}, Keeps s t → Keeps s (f x t)) : Keeps s (each l f t) :=
  foldl_keeps h l _ (fun x _ k => hf x k)

/-! ### Flights -/

theorem flightsKept_modAt (l : List Flight) (r : Nat) (f : Flight → Flight) (hf : FlightFn f) :
    FlightsKept l (modAt l r f) := by
  induction l generalizing r with
  | nil => exact .refl _
  | cons a l ih =>
    cases r with
    | zero =>
      intro i x hx
      cases i with
      | zero => simp at hx; subst hx; exact ⟨f a, by simp [modAt], hf a⟩
      | succ i => exact ⟨x, by simpa [modAt] using hx, sameAcceptance_refl x, fun _ => rfl⟩
    | succ r =>
      intro i x hx
      cases i with
      | zero => simp at hx; subst hx; exact ⟨a, by simp [modAt], sameAcceptance_refl a, fun _ => rfl⟩
      | succ i =>
        obtain ⟨g, hg, k⟩ := ih r i x (by simpa using hx)
        exact ⟨g, by simpa [modAt] using hg, k⟩

theorem flightsKept_map (l : List Flight) (f : Flight → Flight) (hf : FlightFn f) : FlightsKept l (l.map f) := by
  intro i x hx
  exact ⟨f x, by simp [hx], hf x⟩

theorem flightsKept_append (l m : List Flight) : FlightsKept l (l ++ m) := by
  intro i x hx
  refine ⟨x, ?_, sameAcceptance_refl x, fun _ => rfl⟩
  rw [List.getElem?_append_left]
  · exact hx
  · exact (List.getElem?_eq_some_iff.mp hx).1

theorem modFlight_keeps (h : Keeps s t) (r : Nat) (f : Flight → Flight) (hf : FlightFn f) : Keeps s (modFlight r f t) :=
  modHost_keeps h _ fun _ => flightsKept_modAt _ _ _ hf

theorem length_modAt {α : Type} (l : List α) (i : Nat) (f : α → α) : (modAt l i f).length = l.length := by
  induction l generalizing i with
  | nil => rfl
  | cons a l ih => cases i <;> simp [modAt, ih]

end Sys2Proof.Machine
end

