-- ==== Sys2Proof/Laws/KeepsOps.lean ====
section
/-! SUPPORT. What the operations of Ops, Time, FaultOps, Angle, Counter keep (Safety.Keeps), one lemma each, in the order of their definitions. -/

set_option linter.unusedTactic false
set_option linter.unreachableTactic false
set_option linter.unusedSimpArgs false

namespace Sys2Proof.Machine

variable {s t : State}

theorem fromRtc_keeps (h : Keeps s t) : Keeps s (fromRtc t) := by
  unfold fromRtc
  repeat'
    first
    | (show (_ : Nat) = _; first | rfl | exact length_modAt _ _ _ | simp only [List.length_map, length_modAt, List.length_zipIdx])
    | intro _
    | with_reducible (first | assumption | apply modClk_keeps)

theorem modRing_keeps (h : Keeps s t) (a1) (a2) : Keeps s (modRing a1 a2 t) := by
  unfold modRing
  repeat'
    first
    | (show FlightsKept _ _; first | exact FlightsKept.refl _ | exact flightsKept_append _ _)
    | intro _
    | with_reducible (first | assumption | apply modHost_keeps)

theorem modFunc_keeps (h : Keeps s t) (a1) (a2) : Keeps s (modFunc a1 a2 t) := by
  unfold modFunc
  repeat'
    first
    | (show FlightsKept _ _; first | exact FlightsKept.refl _ | exact flightsKept_append _ _)
    | intro _
    | with_reducible (first | assumption | apply modHost_keeps)

theorem modVec_keeps (h : Keeps s t) (a1) (a2) (a3) : Keeps s (modVec a1 a2 a3 t) := by
  unfold modVec
  repeat'
    first
    | (show FlightsKept _ _; first | exact FlightsKept.refl _ | exact flightsKept_append _ _)
    | intro _
    | with_reducible (first | assumption | apply modHost_keeps)

theorem modTen_keeps (h : Keeps s t) (a1) (a2) : Keeps s (modTen a1 a2 t) := by
  unfold modTen
  repeat'
    first
    | (show (_ : Nat) ≤ _; first | exact Nat.le_refl _ | simp)
    | intro _
    | with_reducible (first | assumption | apply modSlc_keeps)

theorem modRun_keeps (h : Keeps s t) (a1) (a2) : Keeps s (modRun a1 a2 t) := by
  unfold modRun
  repeat'
    first
    | (show (_ : Nat) ≤ _; first | exact Nat.le_refl _ | simp)
    | intro _
    | with_reducible (first | assumption | apply modSlc_keeps)

theorem sendMsix_keeps (h : Keeps s t) (a1) (a2) : Keeps s (sendMsix a1 a2 t) := by
  unfold sendMsix
  repeat'
    first
    | intro _
    | with_reducible (first | assumption | apply emit_keeps | apply modVec_keeps | apply ite_keeps)
    | split

theorem logRec_keeps {s t : State} (h : Keeps s t) (a1) : Keeps s (logRec a1 t) := by
  unfold logRec
  exact modClk_keeps (modLed_keeps h _ fun b => Nat.le_succ _) _ fun _ => rfl

theorem tryLog_keeps (h : Keeps s t) (a1) : Keeps s (tryLog a1 t) := by
  unfold tryLog
  repeat'
    first
    | intro _
    | with_reducible (first | assumption | apply logRec_keeps | apply ite_keeps)
    | split

theorem logPart_keeps (h : Keeps s t) (a1) : Keeps s (logPart a1 t) := by
  unfold logPart
  repeat'
    first
    | intro _
    | with_reducible (first | assumption | apply tryLog_keeps)

theorem returnCharge_keeps (h : Keeps s t) (a1) : Keeps s (returnCharge a1 t) := by
  unfold returnCharge
  repeat'
    first
    | intro _
    | with_reducible (first | assumption | apply modRun_keeps)
    | split

theorem settleDups_keeps {s t : State} (h : Keeps s t) (a1) (a2) : Keeps s (settleDups a1 a2 t) := by
  unfold settleDups
  refine each_keeps h _ _ fun i _ k => logRec_keeps (modFlight_keeps k _ _ fun x => ?_) _
  split <;> simp_all [sameAcceptance]

/-- Where the changed flight is known, only its change matters. -/
theorem modFlight_keeps_at {s t : State} (h : Keeps s t) (r : Nat) (g : Flight) (f : Flight → Flight)
    (hg : getFlight t r = some g) (hf : sameAcceptance g (f g) ∧ (g.fate.isSome → (f g).fate = g.fate)) :
    Keeps s (modFlight r f t) := by
  refine modHost_keeps_at h _ ?_
  simp only [getFlight] at hg
  generalize t.host.flights = l at hg
  induction l generalizing r with
  | nil => simp at hg
  | cons a l ih =>
    cases r with
    | zero =>
      simp at hg; subst hg
      intro i x hx
      cases i with
      | zero => simp at hx; subst hx; exact ⟨f a, by simp [modAt], hf⟩
      | succ i => exact ⟨x, by simpa [modAt] using hx, sameAcceptance_refl x, fun _ => rfl⟩
    | succ r =>
      intro i x hx
      cases i with
      | zero => simp at hx; subst hx; exact ⟨a, by simp [modAt], sameAcceptance_refl a, fun _ => rfl⟩
      | succ i =>
        obtain ⟨y, hy, k⟩ := ih r (by simpa using hg) i x (by simpa using hx)
        exact ⟨y, by simpa [modAt] using hy, k⟩

theorem noteV_keeps (h : Keeps s t) : Keeps s (noteV t) := by
  unfold noteV
  repeat'
    first
    | (show (_ : Nat) ≤ _; first | exact Nat.le_refl _ | simp)
    | intro _
    | with_reducible (first | assumption | apply modSlc_keeps)

theorem settle_keeps {s t : State} (h : Keeps s t) (a1) (a2) : Keeps s (settle a1 a2 t) := by
  unfold settle
  split
  · exact h
  · rename_i f hf
    split
    · exact h
    · refine settleDups_keeps (logRec_keeps (onlyIf_keeps ?_ _ _ fun k => ?_) _) _ _
      · exact modFlight_keeps_at (noteV_keeps h) _ f _ hf (by simp_all [sameAcceptance])
      · exact modRun_keeps k _ _

theorem startOp_keeps (h : Keeps s t) (a1) (a2) (f1 : _ → State → State) (hf1 : ∀ a {t}, Keeps s t → Keeps s (f1 a t)) : Keeps s (startOp a1 a2 f1 t) := by
  unfold startOp
  repeat'
    first
    | (show FlightFn _; exact fun x => ⟨sameAcceptance_refl x, fun _ => rfl⟩)
    | intro _
    | with_reducible (first | assumption | apply hf1 | apply modFlight_keeps | apply noteV_keeps | apply settle_keeps | apply ite_keeps)
    | split

theorem onOp_keeps (h : Keeps s t) (a1) (a2) (f1 : _ → State → State) (hf1 : ∀ a {t}, Keeps s t → Keeps s (f1 a t)) : Keeps s (onOp a1 a2 f1 t) := by
  unfold onOp
  repeat'
    first
    | intro _
    | with_reducible (first | assumption | apply hf1 | apply ite_keeps)
    | split

theorem atStage_keeps (h : Keeps s t) (a1) (a2) (a3) : Keeps s (atStage a1 a2 a3 t) := by
  unfold atStage
  repeat'
    first
    | (show FlightFn _; exact fun x => ⟨sameAcceptance_refl x, fun _ => rfl⟩)
    | intro _
    | with_reducible (first | assumption | apply modFlight_keeps)

theorem culvertWrite_keeps (h : Keeps s t) (a1) (a2) (a3) : Keeps s (culvertWrite a1 a2 a3 t) := by
  unfold culvertWrite
  repeat'
    first
    | intro _
    | with_reducible (first | assumption | apply emit_keeps)

theorem writeAndSettle_keeps (h : Keeps s t) (a1) (a2) (a3) (a4) (a5) (a6) : Keeps s (writeAndSettle a1 a2 a3 a4 a5 a6 t) := by
  unfold writeAndSettle
  repeat'
    first
    | intro _
    | with_reducible (first | assumption | apply settle_keeps | apply culvertWrite_keeps | apply ite_keeps)
    | split

theorem withRead_keeps (h : Keeps s t) (a1) (a2) (a3) (a4) (f1 : _ → State → State) (hf1 : ∀ a {t}, Keeps s t → Keeps s (f1 a t)) : Keeps s (withRead a1 a2 a3 a4 f1 t) := by
  unfold withRead
  repeat'
    first
    | intro _
    | with_reducible (first | assumption | apply hf1 | apply settle_keeps)
    | split

theorem commitPoint_keeps (h : Keeps s t) (a1) (a2) (a3) (a4) (a5) (a6) (f1 : State → State) (hf1 : ∀ {t}, Keeps s t → Keeps s (f1 t)) : Keeps s (commitPoint a1 a2 a3 a4 a5 a6 f1 t) := by
  unfold commitPoint
  repeat'
    first
    | intro _
    | with_reducible (first | assumption | apply hf1 | apply logRec_keeps | apply settle_keeps | apply ite_keeps)
    | split

theorem signalRing_keeps (h : Keeps s t) (a1) : Keeps s (signalRing a1 t) := by
  unfold signalRing
  repeat'
    first
    | intro _
    | with_reducible (first | assumption | apply modRing_keeps | apply sendMsix_keeps)

theorem countForIrq_keeps (h : Keeps s t) (a1) (a2) (a3) : Keeps s (countForIrq a1 a2 a3 t) := by
  unfold countForIrq
  repeat'
    first
    | intro _
    | with_reducible (first | assumption | apply signalRing_keeps | apply modRing_keeps | apply ite_keeps)
    | split
    | (extract_lets +onlyGivenNames x; first | (refine (fun hx : Keeps s x => ?_) ?_ <;> [clear_value x; subst x]) | clear_value x)

theorem stopRing_keeps (h : Keeps s t) (a1) (a2) : Keeps s (stopRing a1 a2 t) := by
  unfold stopRing
  repeat'
    first
    | intro _
    | with_reducible (first | assumption | apply modRing_keeps | apply sendMsix_keeps | apply ite_keeps)
    | split
    | (extract_lets +onlyGivenNames x; first | (refine (fun hx : Keeps s x => ?_) ?_ <;> [clear_value x; subst x]) | clear_value x)

theorem recordRing_keeps (h : Keeps s t) (a1) (a2) : Keeps s (recordRing a1 a2 t) := by
  unfold recordRing
  repeat'
    first
    | intro _
    | with_reducible (first | assumption | apply logRec_keeps | apply modRing_keeps | apply ite_keeps)
    | split

theorem drainRing_keeps (h : Keeps s t) (a1) : Keeps s (drainRing a1 t) := by
  unfold drainRing
  repeat'
    first
    | intro _
    | with_reducible (first | assumption | apply recordRing_keeps | apply ite_keeps)
    | split

theorem settleBuckets_keeps (h : Keeps s t) : Keeps s (settleBuckets t) := by
  unfold settleBuckets
  repeat'
    first
    | (show (_ : Nat) ≤ _; first | exact Nat.le_refl _ | simp)
    | intro _
    | with_reducible (first | assumption | apply modSlc_keeps | apply ite_keeps)
    | split

theorem setUnit_keeps (h : Keeps s t) (a1) (a2) (a3) : Keeps s (setUnit a1 a2 a3 t) := by
  unfold setUnit
  repeat'
    first
    | intro _
    | with_reducible (first | assumption | apply modFlt_keeps)

theorem putCnt_keeps (h : Keeps s t) (a1) (a2) : Keeps s (putCnt a1 a2 t) := by
  unfold putCnt
  repeat'
    first
    | (show (_ : Nat) = _; first | rfl | exact length_modAt _ _ _ | simp only [List.length_map, length_modAt, List.length_zipIdx])
    | intro _
    | with_reducible (first | assumption | apply modClk_keeps | apply sendMsix_keeps | apply foldl_keeps | refine foldl_keeps ?_ (by with_reducible assumption))
    | split
    | (extract_lets +onlyGivenNames x; first | (refine (fun hx : Keeps s x => ?_) ?_ <;> [clear_value x; subst x]) | clear_value x)

theorem elapseNs_keeps (h : Keeps s t) (a1) : Keeps s (elapseNs a1 t) := by
  unfold elapseNs
  repeat'
    first
    | (show (_ : Nat) = _; first | rfl | exact length_modAt _ _ _ | simp only [List.length_map, length_modAt, List.length_zipIdx])
    | intro _
    | with_reducible (first | assumption | apply onlyIf_keeps | apply each_keeps | apply putCnt_keeps | apply modClk_keeps)
    | split
    | (extract_lets +onlyGivenNames x; first | (refine (fun hx : Keeps s x => ?_) ?_ <;> [clear_value x; subst x]) | clear_value x)

theorem elapseToNs_keeps (h : Keeps s t) (a1) : Keeps s (elapseToNs a1 t) := by
  unfold elapseToNs
  repeat'
    first
    | intro _
    | with_reducible (first | assumption | apply elapseNs_keeps | apply ite_keeps)
    | split

theorem elapseTo_keeps (h : Keeps s t) (a1) : Keeps s (elapseTo a1 t) := by
  unfold elapseTo
  repeat'
    first
    | intro _
    | with_reducible (first | assumption | apply elapseToNs_keeps | apply ite_keeps)
    | split

theorem cntRateChange_keeps (h : Keeps s t) : Keeps s (cntRateChange t) := by
  unfold cntRateChange
  repeat'
    first
    | (show (_ : Nat) = _; first | rfl | exact length_modAt _ _ _ | simp only [List.length_map, length_modAt, List.length_zipIdx])
    | intro _
    | with_reducible (first | assumption | apply modClk_keeps)

theorem writeFault_keeps (h : Keeps s t) (a1) (a2) (a3) (a4) (a5) (a6) (a7) : Keeps s (writeFault a1 a2 a3 a4 a5 a6 a7 t) := by
  unfold writeFault
  repeat'
    first
    | intro _
    | with_reducible (first | assumption | apply logRec_keeps | apply modFlt_keeps | apply sendMsix_keeps | apply ite_keeps)
    | split
    | (extract_lets +onlyGivenNames x; first | (refine (fun hx : Keeps s x => ?_) ?_ <;> [clear_value x; subst x]) | clear_value x)

theorem fault_keeps (h : Keeps s t) (a1) (a2) (a3) (a4) (a5) (a6) (a7) : Keeps s (fault a1 a2 a3 a4 a5 a6 a7 t) := by
  unfold fault
  repeat'
    first
    | intro _
    | with_reducible (first | assumption | apply writeFault_keeps | apply modFlt_keeps | apply ite_keeps)
    | split
    | (extract_lets +onlyGivenNames x; first | (refine (fun hx : Keeps s x => ?_) ?_ <;> [clear_value x; subst x]) | clear_value x)

theorem changeUnit_keeps (h : Keeps s t) (a1) (a2) (a3) (a4) (a5) (a6) (a7) (a8) : Keeps s (changeUnit a1 a2 a3 a4 a5 a6 a7 a8 t) := by
  unfold changeUnit
  repeat'
    first
    | intro _
    | with_reducible (first | assumption | apply modFlt_keeps | apply writeFault_keeps | apply setUnit_keeps)

theorem reportUnit_keeps (h : Keeps s t) (a1) (a2) (a3) (a4) (a5) : Keeps s (reportUnit a1 a2 a3 a4 a5 t) := by
  unfold reportUnit
  repeat'
    first
    | intro _
    | with_reducible (first | assumption | apply modFlt_keeps | apply writeFault_keeps)

theorem outOfService_keeps (h : Keeps s t) (a1) (a2) (a3) (a4) (a5) : Keeps s (outOfService a1 a2 a3 a4 a5 t) := by
  unfold outOfService
  repeat'
    first
    | intro _
    | with_reducible (first | assumption | apply changeUnit_keeps | apply ite_keeps)
    | split

theorem backInService_keeps (h : Keeps s t) (a1) (a2) : Keeps s (backInService a1 a2 t) := by
  unfold backInService
  repeat'
    first
    | intro _
    | with_reducible (first | assumption | apply changeUnit_keeps | apply ite_keeps)
    | split

theorem raiseEnable_keeps (h : Keeps s t) (a1) : Keeps s (raiseEnable a1 t) := by
  unfold raiseEnable
  repeat'
    first
    | (show (_ : Nat) = _; first | rfl | exact length_modAt _ _ _ | simp only [List.length_map, length_modAt, List.length_zipIdx])
    | intro _
    | with_reducible (first | assumption | apply emit_keeps | apply modPwr_keeps | apply ite_keeps)
    | split

theorem coexPins_keeps (h : Keeps s t) (a1) : Keeps s (coexPins a1 t) := by
  unfold coexPins
  repeat'
    first
    | intro _
    | with_reducible (first | assumption | apply each_keeps | apply onlyIf_keeps | apply emit_keeps | apply ite_keeps)
    | split

theorem uartLine_keeps (h : Keeps s t) (a1) : Keeps s (uartLine a1 t) := by
  unfold uartLine
  repeat'
    first
    | intro _
    | with_reducible (first | assumption | apply onlyIf_keeps | apply emit_keeps)

theorem lowerEnable_keeps (h : Keeps s t) (a1) : Keeps s (lowerEnable a1 t) := by
  unfold lowerEnable
  repeat'
    first
    | (show (_ : Nat) = _; first | rfl | exact length_modAt _ _ _ | simp only [List.length_map, length_modAt, List.length_zipIdx])
    | intro _
    | with_reducible (first | assumption | apply onlyIf_keeps | apply coexPins_keeps | apply emit_keeps | apply modPwr_keeps | apply ite_keeps)
    | split

theorem lowerFrom_keeps (h : Keeps s t) (a1) : Keeps s (lowerFrom a1 t) := by
  unfold lowerFrom
  repeat'
    first
    | intro _
    | with_reducible (first | assumption | apply each_keeps | apply lowerEnable_keeps)

theorem raiseEach_keeps (h : Keeps s t) (a1) : Keeps s (raiseEach a1 t) := by
  unfold raiseEach
  repeat'
    first
    | intro _
    | with_reducible (first | assumption | apply each_keeps | apply raiseEnable_keeps | apply ite_keeps)
    | split

theorem gather_keeps (h : Keeps s t) : Keeps s (gather t) := by
  unfold gather
  repeat'
    first
    | (show (_ : Nat) = _; first | rfl | exact length_modAt _ _ _ | simp only [List.length_map, length_modAt, List.length_zipIdx])
    | intro _
    | with_reducible (first | assumption | apply modSec_keeps)

theorem discardBlock_keeps (h : Keeps s t) (a1) : Keeps s (discardBlock a1 t) := by
  unfold discardBlock
  repeat'
    first
    | (show (_ : Nat) = _; first | rfl | exact length_modAt _ _ _ | simp only [List.length_map, length_modAt, List.length_zipIdx])
    | intro _
    | with_reducible (first | assumption | apply gather_keeps | apply modSec_keeps | apply ite_keeps)
    | split
    | (extract_lets +onlyGivenNames x; first | (refine (fun hx : Keeps s x => ?_) ?_ <;> [clear_value x; subst x]) | clear_value x)

theorem startBlock_keeps (h : Keeps s t) : Keeps s (startBlock t) := by
  unfold startBlock
  repeat'
    first
    | (show (_ : Nat) = _; first | rfl | exact length_modAt _ _ _ | simp only [List.length_map, length_modAt, List.length_zipIdx])
    | intro _
    | with_reducible (first | assumption | apply modSec_keeps)

theorem nextBlock_keeps (h : Keeps s t) : Keeps s (nextBlock t) := by
  unfold nextBlock
  repeat'
    first
    | intro _
    | with_reducible (first | assumption | apply startBlock_keeps | apply drawn_keeps)

theorem reseed_keeps (h : Keeps s t) : Keeps s (reseed t) := by
  unfold reseed
  repeat'
    first
    | (show (_ : Nat) = _; first | rfl | exact length_modAt _ _ _ | simp only [List.length_map, length_modAt, List.length_zipIdx])
    | intro _
    | with_reducible (first | assumption | apply modSec_keeps | apply nextBlock_keeps)

theorem instantiate_keeps (h : Keeps s t) : Keeps s (instantiate t) := by
  unfold instantiate
  repeat'
    first
    | (show (_ : Nat) = _; first | rfl | exact length_modAt _ _ _ | simp only [List.length_map, length_modAt, List.length_zipIdx])
    | intro _
    | with_reducible (first | assumption | apply nextBlock_keeps | apply modSec_keeps)
    | split
    | (extract_lets +onlyGivenNames x; first | (refine (fun hx : Keeps s x => ?_) ?_ <;> [clear_value x; subst x]) | clear_value x)

theorem stopRng_keeps (h : Keeps s t) : Keeps s (stopRng t) := by
  unfold stopRng
  repeat'
    first
    | (show (_ : Nat) = _; first | rfl | exact length_modAt _ _ _ | simp only [List.length_map, length_modAt, List.length_zipIdx])
    | intro _
    | with_reducible (first | assumption | apply modSec_keeps)

theorem readied_keeps (h : Keeps s t) : Keeps s (readied t) := by
  unfold readied
  repeat'
    first
    | intro _
    | with_reducible (first | assumption | apply onlyIf_keeps | apply reseed_keeps)

theorem powerSlice_keeps (h : Keeps s t) : Keeps s (powerSlice t) := by
  unfold powerSlice
  repeat'
    first
    | intro _
    | with_reducible (first | assumption | apply raiseEach_keeps)

theorem slicePowered_keeps (h : Keeps s t) : Keeps s (slicePowered t) := by
  unfold slicePowered
  repeat'
    first
    | intro _
    | with_reducible (first | assumption | apply startBlock_keeps | apply onlyIf_keeps | apply reseed_keeps)
    | split
    | (extract_lets +onlyGivenNames x; first | (refine (fun hx : Keeps s x => ?_) ?_ <;> [clear_value x; subst x]) | clear_value x)

theorem drew_keeps (h : Keeps s t) (a1) (a2) : Keeps s (drew a1 a2 t) := by
  unfold drew
  repeat'
    first
    | (show (_ : Nat) = _; first | rfl | exact length_modAt _ _ _ | simp only [List.length_map, length_modAt, List.length_zipIdx])
    | intro _
    | with_reducible (first | assumption | apply modSec_keeps | apply readied_keeps | apply drawn_keeps | apply ite_keeps)
    | split

theorem joinQueue_keeps (h : Keeps s t) (a1) (a2) (a3) : Keeps s (joinQueue a1 a2 a3 t) := by
  unfold joinQueue
  repeat'
    first
    | (show (_ : Nat) = _; first | rfl | exact length_modAt _ _ _ | simp only [List.length_map, length_modAt, List.length_zipIdx])
    | intro _
    | with_reducible (first | assumption | apply modSec_keeps | apply ite_keeps)
    | split

theorem leaveQueue_keeps (h : Keeps s t) (a1) : Keeps s (leaveQueue a1 t) := by
  unfold leaveQueue
  repeat'
    first
    | (show (_ : Nat) = _; first | rfl | exact length_modAt _ _ _ | simp only [List.length_map, length_modAt, List.length_zipIdx])
    | intro _
    | with_reducible (first | assumption | apply modSec_keeps)

theorem grantWindow_keeps (h : Keeps s t) (a1) (a2) (a3) : Keeps s (grantWindow a1 a2 a3 t) := by
  unfold grantWindow
  repeat'
    first
    | (show (_ : Nat) = _; first | rfl | exact length_modAt _ _ _ | simp only [List.length_map, length_modAt, List.length_zipIdx])
    | intro _
    | with_reducible (first | assumption | apply modClk_keeps)

theorem recut_keeps (h : Keeps s t) : Keeps s (recut t).1 := by
  unfold recut
  repeat'
    first
    | (show (_ : Nat) = _; first | rfl | exact length_modAt _ _ _ | simp only [List.length_map, length_modAt, List.length_zipIdx])
    | intro _
    | with_reducible (first | assumption | apply modClk_keeps | apply ite_keeps)
    | split
    | (extract_lets +onlyGivenNames x; first | (refine (fun hx : Keeps s x => ?_) ?_ <;> [clear_value x; subst x]) | clear_value x)
    | dsimp only

theorem leaveCrank_keeps (h : Keeps s t) (a1) : Keeps s (leaveCrank a1 t) := by
  unfold leaveCrank
  repeat'
    first
    | (show (_ : Nat) = _; first | rfl | exact length_modAt _ _ _ | simp only [List.length_map, length_modAt, List.length_zipIdx])
    | intro _
    | with_reducible (first | assumption | apply modClk_keeps)

theorem leaveProp_keeps (h : Keeps s t) (a1) (a2) : Keeps s (leaveProp a1 a2 t) := by
  unfold leaveProp
  repeat'
    first
    | (show (_ : Nat) = _; first | rfl | exact length_modAt _ _ _ | simp only [List.length_map, length_modAt, List.length_zipIdx])
    | intro _
    | with_reducible (first | assumption | apply modClk_keeps)

theorem propWatch_keeps (h : Keeps s t) (a1) : Keeps s (propWatch a1 t) := by
  unfold propWatch
  repeat'
    first
    | intro _
    | with_reducible (first | assumption | apply leaveProp_keeps | apply ite_keeps)
    | split

theorem onCrankLost_keeps (h : Keeps s t) : Keeps s (onCrankLost t) := by
  unfold onCrankLost
  repeat'
    first
    | (show (_ : Nat) = _; first | rfl | exact length_modAt _ _ _ | simp only [List.length_map, length_modAt, List.length_zipIdx])
    | intro _
    | with_reducible (first | assumption | apply modClk_keeps | apply leaveCrank_keeps | apply ite_keeps)
    | split
    | (extract_lets +onlyGivenNames x; first | (refine (fun hx : Keeps s x => ?_) ?_ <;> [clear_value x; subst x]) | clear_value x)

theorem refEngineStop_keeps (h : Keeps s t) : Keeps s (refEngineStop t) := by
  unfold refEngineStop
  repeat'
    first
    | (show (_ : Nat) = _; first | rfl | exact length_modAt _ _ _ | simp only [List.length_map, length_modAt, List.length_zipIdx])
    | intro _
    | with_reducible (first | assumption | apply modClk_keeps | apply ite_keeps)
    | split

theorem onCrankSync_keeps (h : Keeps s t) : Keeps s (onCrankSync t) := by
  unfold onCrankSync
  repeat'
    first
    | (show (_ : Nat) = _; first | rfl | exact length_modAt _ _ _ | simp only [List.length_map, length_modAt, List.length_zipIdx])
    | intro _
    | with_reducible (first | assumption | apply modClk_keeps | apply ite_keeps)
    | split

theorem execCntEnable_keeps (h : Keeps s t) (a1) (a2) : OutKeeps s (execCntEnable a1 a2 t) := by
  unfold execCntEnable
  repeat'
    first
    | intro _
    | with_reducible (first | assumption | apply OutKeeps.next | apply putCnt_keeps | apply ite_keeps)
    | split

theorem execCntDisable_keeps (h : Keeps s t) (a1) (a2) : OutKeeps s (execCntDisable a1 a2 t) := by
  unfold execCntDisable
  repeat'
    first
    | intro _
    | with_reducible (first | assumption | apply OutKeeps.next | apply putCnt_keeps | apply ite_keeps)
    | split

theorem execCntTop_keeps (h : Keeps s t) (a1) (a2) : OutKeeps s (execCntTop a1 a2 t) := by
  unfold execCntTop
  repeat'
    first
    | intro _
    | with_reducible (first | assumption | apply OutKeeps.next | apply putCnt_keeps | apply ite_keeps)
    | split

theorem execCntCmp_keeps (h : Keeps s t) (a1) (a2) (a3) : OutKeeps s (execCntCmp a1 a2 a3 t) := by
  unfold execCntCmp
  repeat'
    first
    | intro _
    | with_reducible (first | assumption | apply OutKeeps.next | apply putCnt_keeps | apply ite_keeps)
    | split

theorem execCompareMatch_keeps (h : Keeps s t) (a1) (a2) : OutKeeps s (execCompareMatch a1 a2 t) := by
  unfold execCompareMatch
  repeat'
    first
    | intro _
    | with_reducible (first | assumption | apply OutKeeps.next | apply elapseNs_keeps | apply ite_keeps)
    | split
    | (extract_lets +onlyGivenNames x; first | (refine (fun hx : Keeps s x => ?_) ?_ <;> [clear_value x; subst x]) | clear_value x)

theorem execCountReachesZero_keeps (h : Keeps s t) (a1) : OutKeeps s (execCountReachesZero a1 t) := by
  unfold execCountReachesZero
  repeat'
    first
    | intro _
    | with_reducible (first | assumption | apply OutKeeps.next | apply elapseNs_keeps | apply ite_keeps)
    | split
    | (extract_lets +onlyGivenNames x; first | (refine (fun hx : Keeps s x => ?_) ?_ <;> [clear_value x; subst x]) | clear_value x)

theorem execCaptureEdge_keeps (h : Keeps s t) (a1) (a2) : OutKeeps s (execCaptureEdge a1 a2 t) := by
  unfold execCaptureEdge
  repeat'
    first
    | intro _
    | with_reducible (first | assumption | apply OutKeeps.next | apply putCnt_keeps | apply ite_keeps)
    | split
    | (extract_lets +onlyGivenNames x; first | (refine (fun hx : Keeps s x => ?_) ?_ <;> [clear_value x; subst x]) | clear_value x)

theorem execCntCapRead_keeps (h : Keeps s t) (a1) : OutKeeps s (execCntCapRead a1 t) := by
  unfold execCntCapRead
  repeat'
    first
    | intro _
    | with_reducible (first | assumption | apply OutKeeps.next | apply modFunc_keeps | apply putCnt_keeps | apply ite_keeps)
    | split

theorem execXtal25Loss_keeps (h : Keeps s t) : OutKeeps s (execXtal25Loss t) := by
  unfold execXtal25Loss
  repeat'
    first
    | (show (_ : Nat) = _; first | rfl | exact length_modAt _ _ _ | simp only [List.length_map, length_modAt, List.length_zipIdx])
    | intro _
    | with_reducible (first | assumption | apply OutKeeps.next | apply modClk_keeps | apply ite_keeps)
    | split

theorem execXtal32kLoss_keeps (h : Keeps s t) : OutKeeps s (execXtal32kLoss t) := by
  unfold execXtal32kLoss
  repeat'
    first
    | (show (_ : Nat) = _; first | rfl | exact length_modAt _ _ _ | simp only [List.length_map, length_modAt, List.length_zipIdx])
    | intro _
    | with_reducible (first | assumption | apply OutKeeps.next | apply fault_keeps | apply modClk_keeps | apply ite_keeps)
    | split

theorem execXtal32kReturn_keeps (h : Keeps s t) : OutKeeps s (execXtal32kReturn t) := by
  unfold execXtal32kReturn
  repeat'
    first
    | (show (_ : Nat) = _; first | rfl | exact length_modAt _ _ _ | simp only [List.length_map, length_modAt, List.length_zipIdx])
    | intro _
    | with_reducible (first | assumption | apply OutKeeps.next | apply fault_keeps | apply modClk_keeps | apply ite_keeps)
    | split

theorem execRtcRcCalibrate_keeps (h : Keeps s t) (a1) : OutKeeps s (execRtcRcCalibrate a1 t) := by
  unfold execRtcRcCalibrate
  repeat'
    first
    | (show (_ : Nat) = _; first | rfl | exact length_modAt _ _ _ | simp only [List.length_map, length_modAt, List.length_zipIdx])
    | intro _
    | with_reducible (first | assumption | apply OutKeeps.next | apply modClk_keeps | apply ite_keeps)
    | split

theorem execTimeRead_keeps (h : Keeps s t) (a1) (a2) : OutKeeps s (execTimeRead a1 a2 t) := by
  unfold execTimeRead
  repeat'
    first
    | intro _
    | with_reducible (first | assumption | apply OutKeeps.next | apply startOp_keeps | apply writeAndSettle_keeps)

theorem execTimeSet_keeps (h : Keeps s t) (a1) : OutKeeps s (execTimeSet a1 t) := by
  unfold execTimeSet
  repeat'
    first
    | (show (_ : Nat) = _; first | rfl | exact length_modAt _ _ _ | simp only [List.length_map, length_modAt, List.length_zipIdx])
    | intro _
    | with_reducible (first | assumption | apply OutKeeps.next | apply startOp_keeps | apply settle_keeps | apply modClk_keeps | apply ite_keeps)
    | split
    | (extract_lets +onlyGivenNames x; first | (refine (fun hx : Keeps s x => ?_) ?_ <;> [clear_value x; subst x]) | clear_value x)

theorem execFurrowRead_keeps (h : Keeps s t) (a1) (a2) : OutKeeps s (execFurrowRead a1 a2 t) := by
  unfold execFurrowRead
  repeat'
    first
    | intro _
    | with_reducible (first | assumption | apply OutKeeps.next | apply startOp_keeps | apply settle_keeps | apply writeAndSettle_keeps | apply ite_keeps)
    | split
    | (extract_lets +onlyGivenNames x; first | (refine (fun hx : Keeps s x => ?_) ?_ <;> [clear_value x; subst x]) | clear_value x)

end Sys2Proof.Machine
end

