-- ==== Sys2Proof/Laws/KeepsRings.lean ====
section
/-! SUPPORT. What the operations of Rings, Keys, LockOps, ModeOps, Pke keep (Safety.Keeps), one lemma each, in the order of their definitions. -/

set_option linter.unusedTactic false
set_option linter.unreachableTactic false
set_option linter.unusedSimpArgs false

namespace Sys2Proof.Machine

variable {s t : State}

theorem ringHrPi_keeps (h : Keeps s t) (a1) (a2) : Keeps s (ringHrPi a1 a2 t) := by
  unfold ringHrPi
  repeat'
    first
    | intro _
    | with_reducible (first | assumption | apply modRing_keeps | apply stopRing_keeps | apply ite_keeps)
    | split

theorem ringTrCi_keeps (h : Keeps s t) (a1) (a2) : Keeps s (ringTrCi a1 a2 t) := by
  unfold ringTrCi
  repeat'
    first
    | intro _
    | with_reducible (first | assumption | apply countForIrq_keeps | apply modRing_keeps | apply stopRing_keeps | apply ite_keeps)
    | split

theorem rung_keeps (h : Keeps s t) : Keeps s (rung t) := by
  unfold rung
  repeat'
    first
    | (show (_ : Nat) = _; first | rfl | exact length_modAt _ _ _ | simp only [List.length_map, length_modAt, List.length_zipIdx])
    | intro _
    | with_reducible (first | assumption | apply modPwr_keeps)

theorem hrPiDoorbell_keeps (h : Keeps s t) (a1) (a2) (a3) (a4) : Keeps s (hrPiDoorbell a1 a2 a3 a4 t) := by
  unfold hrPiDoorbell
  repeat'
    first
    | intro _
    | with_reducible (first | assumption | apply ringHrPi_keeps | apply rung_keeps | apply modRing_keeps | apply ite_keeps)
    | split

theorem trCiDoorbell_keeps (h : Keeps s t) (a1) (a2) (a3) (a4) : Keeps s (trCiDoorbell a1 a2 a3 a4 t) := by
  unfold trCiDoorbell
  repeat'
    first
    | intro _
    | with_reducible (first | assumption | apply ringTrCi_keeps | apply rung_keeps | apply modRing_keeps | apply ite_keeps)
    | split

theorem execDoorbellHrPi_keeps (h : Keeps s t) (a1) (a2) (a3) (a4) : OutKeeps s (execDoorbellHrPi a1 a2 a3 a4 t) := by
  unfold execDoorbellHrPi
  repeat'
    first
    | intro _
    | with_reducible (first | assumption | apply OutKeeps.next | apply hrPiDoorbell_keeps)

theorem execDoorbellTrCi_keeps (h : Keeps s t) (a1) (a2) (a3) (a4) : OutKeeps s (execDoorbellTrCi a1 a2 a3 a4 t) := by
  unfold execDoorbellTrCi
  repeat'
    first
    | intro _
    | with_reducible (first | assumption | apply OutKeeps.next | apply trCiDoorbell_keeps)

theorem bar2Write_keeps (h : Keeps s t) (a1) (a2) (a3) (a4) : Keeps s (bar2Write a1 a2 a3 a4 t) := by
  unfold bar2Write
  repeat'
    first
    | intro _
    | with_reducible (first | assumption | apply hrPiDoorbell_keeps | apply trCiDoorbell_keeps | apply ite_keeps)
    | split
    | (extract_lets +onlyGivenNames x; first | (refine (fun hx : Keeps s x => ?_) ?_ <;> [clear_value x; subst x]) | clear_value x)

theorem heldDoorbells_keeps (h : Keeps s t) : Keeps s (heldDoorbells t) := by
  unfold heldDoorbells
  repeat'
    first
    | intro _
    | with_reducible (first | assumption | apply each_keeps | apply modRing_keeps | apply ringHrPi_keeps | apply ringTrCi_keeps)
    | split
    | (extract_lets +onlyGivenNames x; first | (refine (fun hx : Keeps s x => ?_) ?_ <;> [clear_value x; subst x]) | (refine (fun hx : Keeps s x.2 => ?_) ?_ <;> [clear_value x; subst x]) | (refine (fun hx : Keeps s x.1 => ?_) ?_ <;> [clear_value x; subst x]) | clear_value x)

theorem postWrites_keeps (h : Keeps s t) (a1) (a2) (a3) : Keeps s (postWrites a1 a2 a3 t) := by
  unfold postWrites
  repeat'
    first
    | intro _
    | with_reducible (first | assumption | apply emit_keeps)
    | split
    | (extract_lets +onlyGivenNames x; first | (refine (fun hx : Keeps s x => ?_) ?_ <;> [clear_value x; subst x]) | clear_value x)

theorem execCompletionWrite_keeps (h : Keeps s t) (a1) : OutKeeps s (execCompletionWrite a1 t) := by
  unfold execCompletionWrite
  repeat'
    first
    | (show FlightFn _; exact fun x => ⟨sameAcceptance_refl x, fun _ => rfl⟩)
    | intro _
    | with_reducible (first | assumption | apply OutKeeps.next | apply countForIrq_keeps | apply modRing_keeps | apply modFlight_keeps | apply postWrites_keeps | apply ite_keeps)
    | split
    | (extract_lets +onlyGivenNames x; first | (refine (fun hx : Keeps s x => ?_) ?_ <;> [clear_value x; subst x]) | clear_value x)

theorem execConsumerIndexWriteback_keeps (h : Keeps s t) (a1) : OutKeeps s (execConsumerIndexWriteback a1 t) := by
  unfold execConsumerIndexWriteback
  repeat'
    first
    | intro _
    | with_reducible (first | assumption | apply OutKeeps.next | apply modRing_keeps | apply emit_keeps | apply ite_keeps)
    | split
    | (extract_lets +onlyGivenNames x; first | (refine (fun hx : Keeps s x => ?_) ?_ <;> [clear_value x; subst x]) | clear_value x)

theorem execDescriptorReadFailed_keeps (h : Keeps s t) (a1) : OutKeeps s (execDescriptorReadFailed a1 t) := by
  unfold execDescriptorReadFailed
  repeat'
    first
    | intro _
    | with_reducible (first | assumption | apply OutKeeps.next | apply stopRing_keeps | apply ite_keeps)
    | split
    | (extract_lets +onlyGivenNames x; first | (refine (fun hx : Keeps s x => ?_) ?_ <;> [clear_value x; subst x]) | clear_value x)

theorem execTailraceWriteRefused_keeps (h : Keeps s t) (a1) (a2) : OutKeeps s (execTailraceWriteRefused a1 a2 t) := by
  unfold execTailraceWriteRefused
  repeat'
    first
    | intro _
    | with_reducible (first | assumption | apply OutKeeps.next | apply stopRing_keeps | apply ite_keeps)
    | split

theorem execRingEnable_keeps (h : Keeps s t) (a1) : OutKeeps s (execRingEnable a1 t) := by
  unfold execRingEnable
  repeat'
    first
    | intro _
    | with_reducible (first | assumption | apply OutKeeps.next | apply recordRing_keeps | apply modRing_keeps | apply ite_keeps)
    | split
    | (extract_lets +onlyGivenNames x; first | (refine (fun hx : Keeps s x => ?_) ?_ <;> [clear_value x; subst x]) | clear_value x)

theorem execRingDisable_keeps (h : Keeps s t) (a1) : OutKeeps s (execRingDisable a1 t) := by
  unfold execRingDisable
  repeat'
    first
    | intro _
    | with_reducible (first | assumption | apply OutKeeps.next | apply drainRing_keeps | apply ite_keeps)
    | split

theorem execRingDrained_keeps (h : Keeps s t) (a1) : OutKeeps s (execRingDrained a1 t) := by
  unfold execRingDrained
  repeat'
    first
    | intro _
    | with_reducible (first | assumption | apply OutKeeps.next | apply recordRing_keeps | apply ite_keeps)
    | split
    | (extract_lets +onlyGivenNames x; first | (refine (fun hx : Keeps s x => ?_) ?_ <;> [clear_value x; subst x]) | clear_value x)

theorem execModerationTimer_keeps (h : Keeps s t) (a1) : OutKeeps s (execModerationTimer a1 t) := by
  unfold execModerationTimer
  repeat'
    first
    | intro _
    | with_reducible (first | assumption | apply OutKeeps.next | apply signalRing_keeps | apply elapseTo_keeps | apply ite_keeps)
    | split

theorem sendPending_keeps (h : Keeps s t) (a1) : Keeps s (sendPending a1 t) := by
  unfold sendPending
  repeat'
    first
    | intro _
    | with_reducible (first | assumption | apply each_keeps | apply sendMsix_keeps | apply modVec_keeps | apply ite_keeps)
    | split

theorem execMsixUnmask_keeps (h : Keeps s t) (a1) (a2) : OutKeeps s (execMsixUnmask a1 a2 t) := by
  unfold execMsixUnmask
  repeat'
    first
    | intro _
    | with_reducible (first | assumption | apply OutKeeps.next | apply sendPending_keeps | apply modVec_keeps | apply modFunc_keeps | apply ite_keeps)
    | split

theorem resetVectors_keeps (h : Keeps s t) (a1) : Keeps s (resetVectors a1 t) := by
  unfold resetVectors
  repeat'
    first
    | (show FlightsKept _ _; first | exact FlightsKept.refl _ | exact flightsKept_append _ _)
    | intro _
    | with_reducible (first | assumption | apply modHost_keeps)

theorem resetFunction_keeps (h : Keeps s t) (a1) : Keeps s (resetFunction a1 t) := by
  unfold resetFunction
  repeat'
    first
    | intro _
    | with_reducible (first | assumption | apply each_keeps | apply modRing_keeps | apply recordRing_keeps | apply settle_keeps | apply modFunc_keeps | apply resetVectors_keeps | apply ite_keeps)
    | split
    | (extract_lets +onlyGivenNames x; first | (refine (fun hx : Keeps s x => ?_) ?_ <;> [clear_value x; subst x]) | (refine (fun hx : Keeps s x.2 => ?_) ?_ <;> [clear_value x; subst x]) | (refine (fun hx : Keeps s x.1 => ?_) ?_ <;> [clear_value x; subst x]) | clear_value x)

theorem execVfFunctionLevelReset_keeps (h : Keeps s t) (a1) : OutKeeps s (execVfFunctionLevelReset a1 t) := by
  unfold execVfFunctionLevelReset
  repeat'
    first
    | intro _
    | with_reducible (first | assumption | apply OutKeeps.next | apply resetFunction_keeps | apply ite_keeps)
    | split

theorem execVfEnableClear_keeps (h : Keeps s t) : OutKeeps s (execVfEnableClear t) := by
  unfold execVfEnableClear
  repeat'
    first
    | (show FlightsKept _ _; first | exact FlightsKept.refl _ | exact flightsKept_append _ _)
    | intro _
    | with_reducible (first | assumption | apply OutKeeps.next | apply onlyIf_keeps | apply each_keeps | apply resetFunction_keeps | apply modHost_keeps)
    | split
    | (extract_lets +onlyGivenNames x; first | (refine (fun hx : Keeps s x => ?_) ?_ <;> [clear_value x; subst x]) | clear_value x)

theorem trainLink_keeps (h : Keeps s t) : Keeps s (trainLink t) := by
  unfold trainLink
  repeat'
    first
    | (show FlightsKept _ _; first | exact FlightsKept.refl _ | exact flightsKept_append _ _)
    | intro _
    | with_reducible (first | assumption | apply drawn_keeps | apply modHost_keeps | apply each_keeps | apply sendPending_keeps | apply ite_keeps)
    | split
    | (extract_lets +onlyGivenNames x; first | (refine (fun hx : Keeps s x => ?_) ?_ <;> [clear_value x; subst x]) | (refine (fun hx : Keeps s x.2 => ?_) ?_ <;> [clear_value x; subst x]) | (refine (fun hx : Keeps s x.1 => ?_) ?_ <;> [clear_value x; subst x]) | clear_value x)

theorem linkDown_keeps (h : Keeps s t) : Keeps s (linkDown t) := by
  unfold linkDown
  repeat'
    first
    | (show FlightsKept _ _; first | exact FlightsKept.refl _ | exact flightsKept_append _ _)
    | intro _
    | with_reducible (first | assumption | apply modHost_keeps)

theorem execHostPerst_keeps (h : Keeps s t) (a1) : OutKeeps s (execHostPerst a1 t) := by
  unfold execHostPerst
  repeat'
    first
    | (show FlightsKept _ _; first | exact FlightsKept.refl _ | exact flightsKept_append _ _)
    | intro _
    | with_reducible (first | assumption | apply OutKeeps.next | apply linkDown_keeps | apply modHost_keeps | apply trainLink_keeps | apply ite_keeps)
    | split

theorem execNop_keeps (h : Keeps s t) (a1) : OutKeeps s (execNop a1 t) := by
  unfold execNop
  repeat'
    first
    | intro _
    | with_reducible (first | assumption | apply OutKeeps.next | apply startOp_keeps | apply settle_keeps)

theorem execPing_keeps (h : Keeps s t) (a1) : OutKeeps s (execPing a1 t) := by
  unfold execPing
  repeat'
    first
    | intro _
    | with_reducible (first | assumption | apply OutKeeps.next | apply startOp_keeps | apply settle_keeps)

theorem execFateInquiry_keeps (h : Keeps s t) (a1) (a2) : OutKeeps s (execFateInquiry a1 a2 t) := by
  unfold execFateInquiry
  repeat'
    first
    | intro _
    | with_reducible (first | assumption | apply OutKeeps.next | apply startOp_keeps | apply settle_keeps | apply writeAndSettle_keeps | apply ite_keeps)
    | split
    | (extract_lets +onlyGivenNames x; first | (refine (fun hx : Keeps s x => ?_) ?_ <;> [clear_value x; subst x]) | clear_value x)

theorem keyEvent_keeps (h : Keeps s t) (a1) : Keeps s (keyEvent a1 t) := by
  unfold keyEvent
  repeat'
    first
    | (show (_ : Nat) = _; first | rfl | exact length_modAt _ _ _ | simp only [List.length_map, length_modAt, List.length_zipIdx])
    | intro _
    | with_reducible (first | assumption | apply modSec_keeps)

theorem pkeRan_keeps (h : Keeps s t) (a1) : Keeps s (pkeRan a1 t) := by
  unfold pkeRan
  repeat'
    first
    | (show (_ : Nat) = _; first | rfl | exact length_modAt _ _ _ | simp only [List.length_map, length_modAt, List.length_zipIdx])
    | intro _
    | with_reducible (first | assumption | apply modSec_keeps)

theorem withKey_keeps (h : Keeps s t) (a1) (a2) (a3) (f1 : _ → State → State) (hf1 : ∀ a {t}, Keeps s t → Keeps s (f1 a t)) : Keeps s (withKey a1 a2 a3 f1 t) := by
  unfold withKey
  repeat'
    first
    | intro _
    | with_reducible (first | assumption | apply hf1 | apply settle_keeps | apply ite_keeps)
    | split

theorem makeHandle_keeps (h : Keeps s t) (a1) (a2) (a3) : Keeps s (makeHandle a1 a2 a3 t) := by
  unfold makeHandle
  repeat'
    first
    | (show (_ : Nat) = _; first | rfl | exact length_modAt _ _ _ | simp only [List.length_map, length_modAt, List.length_zipIdx])
    | intro _
    | with_reducible (first | assumption | apply keyEvent_keeps | apply settle_keeps | apply logRec_keeps | apply modSec_keeps | apply ite_keeps)
    | split
    | (extract_lets +onlyGivenNames x; first | (refine (fun hx : Keeps s x => ?_) ?_ <;> [clear_value x; subst x]) | clear_value x)

theorem closeHandle_keeps (h : Keeps s t) (a1) : Keeps s (closeHandle a1 t) := by
  unfold closeHandle
  repeat'
    first
    | (show (_ : Nat) = _; first | rfl | exact length_modAt _ _ _ | simp only [List.length_map, length_modAt, List.length_zipIdx])
    | intro _
    | with_reducible (first | assumption | apply tryLog_keeps | apply modRun_keeps | apply modSec_keeps | apply ite_keeps)
    | split

theorem closeHandlesOf_keeps (h : Keeps s t) (a1) : Keeps s (closeHandlesOf a1 t) := by
  unfold closeHandlesOf
  repeat'
    first
    | intro _
    | with_reducible (first | assumption | apply each_keeps | apply closeHandle_keeps)

theorem keyOp_keeps (h : Keeps s t) (a1) (a2) (f1 : _ → State → State) (hf1 : ∀ a {t}, Keeps s t → Keeps s (f1 a t)) : Keeps s (keyOp a1 a2 f1 t) := by
  unfold keyOp
  repeat'
    first
    | intro _
    | with_reducible (first | assumption | apply hf1 | apply joinQueue_keeps | apply startOp_keeps | apply leaveQueue_keeps | apply ite_keeps)
    | split

theorem execKeyRoot_keeps (h : Keeps s t) (a1) : OutKeeps s (execKeyRoot a1 t) := by
  unfold execKeyRoot
  repeat'
    first
    | intro _
    | with_reducible (first | assumption | apply OutKeeps.next | apply keyOp_keeps | apply settle_keeps | apply makeHandle_keeps | apply ite_keeps)
    | split
    | (extract_lets +onlyGivenNames x; first | (refine (fun hx : Keeps s x => ?_) ?_ <;> [clear_value x; subst x]) | clear_value x)

theorem execKeyDerive_keeps (h : Keeps s t) (a1) (a2) : OutKeeps s (execKeyDerive a1 a2 t) := by
  unfold execKeyDerive
  repeat'
    first
    | intro _
    | with_reducible (first | assumption | apply OutKeeps.next | apply keyOp_keeps | apply withKey_keeps | apply settle_keeps | apply withRead_keeps | apply makeHandle_keeps | apply ite_keeps)
    | split
    | (extract_lets +onlyGivenNames x; first | (refine (fun hx : Keeps s x => ?_) ?_ <;> [clear_value x; subst x]) | clear_value x)

theorem importWith_keeps (h : Keeps s t) (a1) (a2) (a3) (a4) : Keeps s (importWith a1 a2 a3 a4 t) := by
  unfold importWith
  repeat'
    first
    | intro _
    | with_reducible (first | assumption | apply settle_keeps | apply makeHandle_keeps | apply ite_keeps)
    | split
    | (extract_lets +onlyGivenNames x; first | (refine (fun hx : Keeps s x => ?_) ?_ <;> [clear_value x; subst x]) | clear_value x)

theorem execKeyImport_keeps (h : Keeps s t) (a1) (a2) : OutKeeps s (execKeyImport a1 a2 t) := by
  unfold execKeyImport
  repeat'
    first
    | intro _
    | with_reducible (first | assumption | apply OutKeeps.next | apply keyOp_keeps | apply withRead_keeps | apply settle_keeps | apply withKey_keeps | apply importWith_keeps | apply pkeRan_keeps | apply ite_keeps)
    | split
    | (extract_lets +onlyGivenNames x; first | (refine (fun hx : Keeps s x => ?_) ?_ <;> [clear_value x; subst x]) | clear_value x)

theorem keyRelease_keeps (h : Keeps s t) (a1) (a2) (a3) (a4) (a5) (f1 : State → State) (hf1 : ∀ {t}, Keeps s t → Keeps s (f1 t)) : Keeps s (keyRelease a1 a2 a3 a4 a5 f1 t) := by
  unfold keyRelease
  repeat'
    first
    | intro _
    | with_reducible (first | assumption | apply hf1 | apply commitPoint_keeps | apply atStage_keeps | apply settle_keeps | apply ite_keeps)
    | split

theorem exportBlob_keeps (h : Keeps s t) (a1) (a2) (a3) (a4) (a5) (a6) : Keeps s (exportBlob a1 a2 a3 a4 a5 a6 t) := by
  unfold exportBlob
  repeat'
    first
    | intro _
    | with_reducible (first | assumption | apply keyRelease_keeps | apply settle_keeps | apply emit_keeps | apply ite_keeps)
    | split
    | (extract_lets +onlyGivenNames x; first | (refine (fun hx : Keeps s x => ?_) ?_ <;> [clear_value x; subst x]) | clear_value x)

theorem execKeyExport_keeps (h : Keeps s t) (a1) (a2) (a3) : OutKeeps s (execKeyExport a1 a2 a3 t) := by
  unfold execKeyExport
  repeat'
    first
    | intro _
    | with_reducible (first | assumption | apply OutKeeps.next | apply keyOp_keeps | apply withKey_keeps | apply settle_keeps | apply withRead_keeps | apply exportBlob_keeps | apply pkeRan_keeps | apply drew_keeps | apply ite_keeps)
    | split
    | (extract_lets +onlyGivenNames x; first | (refine (fun hx : Keeps s x => ?_) ?_ <;> [clear_value x; subst x]) | (refine (fun hx : Keeps s x.2 => ?_) ?_ <;> [clear_value x; subst x]) | (refine (fun hx : Keeps s x.1 => ?_) ?_ <;> [clear_value x; subst x]) | clear_value x)

theorem execKeyClose_keeps (h : Keeps s t) (a1) : OutKeeps s (execKeyClose a1 t) := by
  unfold execKeyClose
  repeat'
    first
    | intro _
    | with_reducible (first | assumption | apply OutKeeps.next | apply startOp_keeps | apply settle_keeps | apply closeHandle_keeps)
    | split

theorem execKeyInfo_keeps (h : Keeps s t) (a1) (a2) : OutKeeps s (execKeyInfo a1 a2 t) := by
  unfold execKeyInfo
  repeat'
    first
    | intro _
    | with_reducible (first | assumption | apply OutKeeps.next | apply startOp_keeps | apply settle_keeps | apply writeAndSettle_keeps)
    | split

theorem execKeyPublic_keeps (h : Keeps s t) (a1) (a2) : OutKeeps s (execKeyPublic a1 a2 t) := by
  unfold execKeyPublic
  repeat'
    first
    | intro _
    | with_reducible (first | assumption | apply OutKeeps.next | apply keyOp_keeps | apply settle_keeps | apply writeAndSettle_keeps | apply pkeRan_keeps | apply ite_keeps)
    | split

theorem slkEvent_keeps (h : Keeps s t) (a1) : Keeps s (slkEvent a1 t) := by
  unfold slkEvent
  repeat'
    first
    | intro _
    | with_reducible (first | assumption | apply modSlk_keeps)

theorem sendState_keeps (h : Keeps s t) : Keeps s (sendState t) := by
  unfold sendState
  repeat'
    first
    | intro _
    | with_reducible (first | assumption | apply logRec_keeps | apply modSlk_keeps | apply onlyIf_keeps | apply slkEvent_keeps | apply emit_keeps | apply ite_keeps)
    | split
    | (extract_lets +onlyGivenNames x; first | (refine (fun hx : Keeps s x => ?_) ?_ <;> [clear_value x; subst x]) | clear_value x)

theorem sendBody_keeps (h : Keeps s t) (a1) (a2) (a3) : Keeps s (sendBody a1 a2 a3 t) := by
  unfold sendBody
  repeat'
    first
    | intro _
    | with_reducible (first | assumption | apply logRec_keeps | apply modSlk_keeps | apply onlyIf_keeps | apply slkEvent_keeps | apply emit_keeps | apply ite_keeps)
    | split
    | (extract_lets +onlyGivenNames x; first | (refine (fun hx : Keeps s x => ?_) ?_ <;> [clear_value x; subst x]) | clear_value x)

theorem flagsCheck_keeps (h : Keeps s t) : Keeps s (flagsCheck t) := by
  unfold flagsCheck
  repeat'
    first
    | intro _
    | with_reducible (first | assumption | apply sendState_keeps | apply onlyIf_keeps | apply slkEvent_keeps | apply modSlk_keeps | apply ite_keeps)
    | split

theorem startTimer_keeps (h : Keeps s t) (a1) : Keeps s (startTimer a1 t) := by
  unfold startTimer
  repeat'
    first
    | intro _
    | with_reducible (first | assumption | apply modSlk_keeps | apply ite_keeps)
    | split
    | (extract_lets +onlyGivenNames x; first | (refine (fun hx : Keeps s x => ?_) ?_ <;> [clear_value x; subst x]) | clear_value x)

theorem holdUpdate_keeps (h : Keeps s t) : Keeps s (holdUpdate t) := by
  unfold holdUpdate
  repeat'
    first
    | intro _
    | with_reducible (first | assumption | apply modSlk_keeps | apply ite_keeps)
    | split

theorem drivePins_keeps (h : Keeps s t) : Keeps s (drivePins t) := by
  unfold drivePins
  repeat'
    first
    | intro _
    | with_reducible (first | assumption | apply onlyIf_keeps | apply emit_keeps | apply ite_keeps)
    | split
    | (extract_lets +onlyGivenNames x; first | (refine (fun hx : Keeps s x => ?_) ?_ <;> [clear_value x; subst x]) | clear_value x)

theorem setLatch_keeps (h : Keeps s t) (a1) (a2) (a3) (a4) : Keeps s (setLatch a1 a2 a3 a4 t) := by
  unfold setLatch
  repeat'
    first
    | intro _
    | with_reducible (first | assumption | apply modSlk_keeps | apply sendState_keeps | apply onlyIf_keeps | apply drivePins_keeps | apply slkEvent_keeps | apply startTimer_keeps)
    | split
    | (extract_lets +onlyGivenNames x; first | (refine (fun hx : Keeps s x => ?_) ?_ <;> [clear_value x; subst x]) | clear_value x)

theorem moveLatch_keeps (h : Keeps s t) (a1) (a2) (a3) (a4) (a5) : Keeps s (moveLatch a1 a2 a3 a4 a5 t) := by
  unfold moveLatch
  repeat'
    first
    | intro _
    | with_reducible (first | assumption | apply setLatch_keeps | apply logRec_keeps | apply slkEvent_keeps | apply modSlk_keeps | apply ite_keeps)
    | split
    | (extract_lets +onlyGivenNames x; first | (refine (fun hx : Keeps s x => ?_) ?_ <;> [clear_value x; subst x]) | clear_value x)

theorem lockRequest_keeps {s t : State} (h : Keeps s t) (a1) (a2) (a3) : Keeps s (lockRequest a1 a2 a3 t) := by
  unfold lockRequest
  split
  · exact h
  · extract_lets n note
    have hn : ∀ {u}, Keeps s u → Keeps s (note u) := by
      intro u k
      simp only [note]
      split
      · exact k
      · exact modSlk_keeps k _
    split
    · exact hn (moveLatch_keeps h _ _ _ _ _)
    · exact hn (tryLog_keeps h _)

theorem noRelease_keeps (h : Keeps s t) : Keeps s (noRelease t) := by
  unfold noRelease
  repeat'
    first
    | intro _
    | with_reducible (first | assumption | apply onlyIf_keeps | apply slkEvent_keeps | apply modSlk_keeps | apply logPart_keeps | apply ite_keeps)
    | split

theorem windowExpired_keeps (h : Keeps s t) : Keeps s (windowExpired t) := by
  unfold windowExpired
  repeat'
    first
    | intro _
    | with_reducible (first | assumption | apply modSlk_keeps | apply lockRequest_keeps | apply ite_keeps)
    | split
    | (extract_lets +onlyGivenNames x; first | (refine (fun hx : Keeps s x => ?_) ?_ <;> [clear_value x; subst x]) | clear_value x)

theorem engineChange_keeps (h : Keeps s t) : Keeps s (engineChange t) := by
  unfold engineChange
  repeat'
    first
    | intro _
    | with_reducible (first | assumption | apply moveLatch_keeps | apply noRelease_keeps | apply modSlk_keeps | apply ite_keeps)
    | split
    | (extract_lets +onlyGivenNames x; first | (refine (fun hx : Keeps s x => ?_) ?_ <;> [clear_value x; subst x]) | clear_value x)

theorem latchCheck_keeps (h : Keeps s t) : Keeps s (latchCheck t) := by
  unfold latchCheck
  repeat'
    first
    | intro _
    | with_reducible (first | assumption | apply fault_keeps | apply slkEvent_keeps | apply ite_keeps)
    | split
    | (extract_lets +onlyGivenNames x; first | (refine (fun hx : Keeps s x => ?_) ?_ <;> [clear_value x; subst x]) | clear_value x)

theorem lockWatch_keeps (h : Keeps s t) : Keeps s (lockWatch t) := by
  unfold lockWatch
  repeat'
    first
    | intro _
    | with_reducible (first | assumption | apply holdUpdate_keeps | apply engineChange_keeps | apply latchCheck_keeps | apply flagsCheck_keeps | apply onlyIf_keeps | apply windowExpired_keeps)
    | split
    | (extract_lets +onlyGivenNames x; first | (refine (fun hx : Keeps s x => ?_) ?_ <;> [clear_value x; subst x]) | clear_value x)

theorem tokenAbsent_keeps (h : Keeps s t) (a1) : Keeps s (tokenAbsent a1 t) := by
  unfold tokenAbsent
  repeat'
    first
    | intro _
    | with_reducible (first | assumption | apply flagsCheck_keeps | apply logPart_keeps | apply slkEvent_keeps | apply modSlk_keeps | apply ite_keeps)
    | split

theorem tokenUnknown_keeps (h : Keeps s t) (a1) : Keeps s (tokenUnknown a1 t) := by
  unfold tokenUnknown
  repeat'
    first
    | intro _
    | with_reducible (first | assumption | apply flagsCheck_keeps | apply modSlk_keeps | apply ite_keeps)
    | split

theorem tokenBack_keeps (h : Keeps s t) (a1) : Keeps s (tokenBack a1 t) := by
  unfold tokenBack
  repeat'
    first
    | intro _
    | with_reducible (first | assumption | apply flagsCheck_keeps | apply logPart_keeps | apply modSlk_keeps | apply tokenUnknown_keeps | apply ite_keeps)
    | split

theorem tokenInCab_keeps (h : Keeps s t) (a1) : Keeps s (tokenInCab a1 t) := by
  unfold tokenInCab
  repeat'
    first
    | intro _
    | with_reducible (first | assumption | apply moveLatch_keeps | apply startTimer_keeps | apply ite_keeps)
    | split

theorem abandonParking_keeps (h : Keeps s t) : Keeps s (abandonParking t) := by
  unfold abandonParking
  repeat'
    first
    | (show (_ : Nat) = _; first | rfl | exact length_modAt _ _ _ | simp only [List.length_map, length_modAt, List.length_zipIdx])
    | intro _
    | with_reducible (first | assumption | apply heldDoorbells_keeps | apply modPwr_keeps | apply ite_keeps)
    | split

theorem lowBatteryAnew_keeps (h : Keeps s t) : Keeps s (lowBatteryAnew t) := by
  unfold lowBatteryAnew
  repeat'
    first
    | (show (_ : Nat) = _; first | rfl | exact length_modAt _ _ _ | simp only [List.length_map, length_modAt, List.length_zipIdx])
    | intro _
    | with_reducible (first | assumption | apply modPwr_keeps | apply ite_keeps)
    | split

theorem enterDrive_keeps (h : Keeps s t) : Keeps s (enterDrive t) := by
  unfold enterDrive
  repeat'
    first
    | (show (_ : Nat) = _; first | rfl | exact length_modAt _ _ _ | simp only [List.length_map, length_modAt, List.length_zipIdx])
    | intro _
    | with_reducible (first | assumption | apply modPwr_keeps | apply abandonParking_keeps | apply ite_keeps)
    | split

theorem modeWatch_keeps (h : Keeps s t) : Keeps s (modeWatch t) := by
  unfold modeWatch
  repeat'
    first
    | (show (_ : Nat) = _; first | rfl | exact length_modAt _ _ _ | simp only [List.length_map, length_modAt, List.length_zipIdx])
    | intro _
    | with_reducible (first | assumption | apply onlyIf_keeps | apply enterDrive_keeps | apply modPwr_keeps | apply ite_keeps)
    | split
    | (extract_lets +onlyGivenNames x; first | (refine (fun hx : Keeps s x => ?_) ?_ <;> [clear_value x; subst x]) | clear_value x)

theorem execDriveExit_keeps (h : Keeps s t) : OutKeeps s (execDriveExit t) := by
  unfold execDriveExit
  repeat'
    first
    | (show (_ : Nat) = _; first | rfl | exact length_modAt _ _ _ | simp only [List.length_map, length_modAt, List.length_zipIdx])
    | intro _
    | with_reducible (first | assumption | apply OutKeeps.next | apply elapseTo_keeps | apply lowBatteryAnew_keeps | apply modPwr_keeps | apply ite_keeps)
    | split
    | (extract_lets +onlyGivenNames x; first | (refine (fun hx : Keeps s x => ?_) ?_ <;> [clear_value x; subst x]) | clear_value x)

theorem enterService_keeps (h : Keeps s t) (a1) : Keeps s (enterService a1 t) := by
  unfold enterService
  repeat'
    first
    | (show (_ : Nat) = _; first | rfl | exact length_modAt _ _ _ | simp only [List.length_map, length_modAt, List.length_zipIdx])
    | intro _
    | with_reducible (first | assumption | apply modPwr_keeps | apply abandonParking_keeps | apply ite_keeps)
    | split

theorem leaveService_keeps (h : Keeps s t) : Keeps s (leaveService t) := by
  unfold leaveService
  repeat'
    first
    | (show (_ : Nat) = _; first | rfl | exact length_modAt _ _ _ | simp only [List.length_map, length_modAt, List.length_zipIdx])
    | (show (_ : Nat) ≤ _; first | exact Nat.le_refl _ | simp)
    | intro _
    | with_reducible (first | assumption | apply modUpd_keeps | apply modeWatch_keeps | apply lowBatteryAnew_keeps | apply modPwr_keeps | apply ite_keeps)
    | split
    | (extract_lets +onlyGivenNames x; first | (refine (fun hx : Keeps s x => ?_) ?_ <;> [clear_value x; subst x]) | clear_value x)

theorem endServiceIfDue_keeps (h : Keeps s t) : Keeps s (endServiceIfDue t) := by
  unfold endServiceIfDue
  repeat'
    first
    | intro _
    | with_reducible (first | assumption | apply leaveService_keeps | apply ite_keeps)
    | split

theorem closeDebug_keeps (h : Keeps s t) : Keeps s (closeDebug t) := by
  unfold closeDebug
  repeat'
    first
    | intro _
    | with_reducible (first | assumption | apply endServiceIfDue_keeps | apply modFlt_keeps)

theorem execPkeVerify_keeps (h : Keeps s t) (a1) (a2) : OutKeeps s (execPkeVerify a1 a2 t) := by
  unfold execPkeVerify
  repeat'
    first
    | intro _
    | with_reducible (first | assumption | apply OutKeeps.next | apply startOp_keeps | apply settle_keeps | apply withRead_keeps | apply pkeRan_keeps | apply atStage_keeps | apply ite_keeps)
    | split
    | (extract_lets +onlyGivenNames x; first | (refine (fun hx : Keeps s x => ?_) ?_ <;> [clear_value x; subst x]) | clear_value x)

theorem execPointCheck_keeps (h : Keeps s t) (a1) (a2) : OutKeeps s (execPointCheck a1 a2 t) := by
  unfold execPointCheck
  repeat'
    first
    | intro _
    | with_reducible (first | assumption | apply OutKeeps.next | apply startOp_keeps | apply settle_keeps | apply withRead_keeps | apply pkeRan_keeps | apply atStage_keeps | apply ite_keeps)
    | split
    | (extract_lets +onlyGivenNames x; first | (refine (fun hx : Keeps s x => ?_) ?_ <;> [clear_value x; subst x]) | clear_value x)

theorem execHash_keeps (h : Keeps s t) (a1) (a2) (a3) : OutKeeps s (execHash a1 a2 a3 t) := by
  unfold execHash
  repeat'
    first
    | intro _
    | with_reducible (first | assumption | apply OutKeeps.next | apply startOp_keeps | apply settle_keeps | apply withRead_keeps | apply writeAndSettle_keeps | apply atStage_keeps | apply ite_keeps)
    | split
    | (extract_lets +onlyGivenNames x; first | (refine (fun hx : Keeps s x => ?_) ?_ <;> [clear_value x; subst x]) | clear_value x)

theorem execHashEngineFault_keeps (h : Keeps s t) (a1) : OutKeeps s (execHashEngineFault a1 t) := by
  unfold execHashEngineFault
  repeat'
    first
    | (show (_ : Nat) = _; first | rfl | exact length_modAt _ _ _ | simp only [List.length_map, length_modAt, List.length_zipIdx])
    | intro _
    | with_reducible (first | assumption | apply OutKeeps.next | apply modSec_keeps | apply outOfService_keeps | apply ite_keeps)
    | split

theorem execPublicKeyEngineFault_keeps (h : Keeps s t) : OutKeeps s (execPublicKeyEngineFault t) := by
  unfold execPublicKeyEngineFault
  repeat'
    first
    | intro _
    | with_reducible (first | assumption | apply OutKeeps.next | apply outOfService_keeps)

theorem modSource_keeps (h : Keeps s t) (a1) (a2) : Keeps s (modSource a1 a2 t) := by
  unfold modSource
  repeat'
    first
    | (show (_ : Nat) = _; first | rfl | exact length_modAt _ _ _ | simp only [List.length_map, length_modAt, List.length_zipIdx])
    | intro _
    | with_reducible (first | assumption | apply modSec_keeps)

theorem rngEvent_keeps (h : Keeps s t) (a1) : Keeps s (rngEvent a1 t) := by
  unfold rngEvent
  repeat'
    first
    | (show (_ : Nat) = _; first | rfl | exact length_modAt _ _ _ | simp only [List.length_map, length_modAt, List.length_zipIdx])
    | intro _
    | with_reducible (first | assumption | apply modSec_keeps)

theorem judgeRng_keeps (h : Keeps s t) : Keeps s (judgeRng t) := by
  unfold judgeRng
  repeat'
    first
    | (show (_ : Nat) = _; first | rfl | exact length_modAt _ _ _ | simp only [List.length_map, length_modAt, List.length_zipIdx])
    | intro _
    | with_reducible (first | assumption | apply rngEvent_keeps | apply fault_keeps | apply stopRng_keeps | apply modSec_keeps | apply ite_keeps)
    | split

theorem sourceFails_keeps (h : Keeps s t) (a1) (a2) : Keeps s (sourceFails a1 a2 t) := by
  unfold sourceFails
  repeat'
    first
    | intro _
    | with_reducible (first | assumption | apply modSource_keeps | apply discardBlock_keeps | apply onlyIf_keeps | apply rngEvent_keeps | apply judgeRng_keeps | apply changeUnit_keeps | apply ite_keeps)
    | split
    | (extract_lets +onlyGivenNames x; first | (refine (fun hx : Keeps s x => ?_) ?_ <;> [clear_value x; subst x]) | clear_value x)

theorem execRngSourceFailure_keeps (h : Keeps s t) (a1) (a2) : OutKeeps s (execRngSourceFailure a1 a2 t) := by
  unfold execRngSourceFailure
  repeat'
    first
    | intro _
    | with_reducible (first | assumption | apply OutKeeps.next | apply sourceFails_keeps | apply ite_keeps)
    | split

theorem execRngHealthCheck_keeps (h : Keeps s t) (a1) (a2) : OutKeeps s (execRngHealthCheck a1 a2 t) := by
  unfold execRngHealthCheck
  repeat'
    first
    | intro _
    | with_reducible (first | assumption | apply OutKeeps.next | apply onlyIf_keeps | apply rngEvent_keeps | apply each_keeps | apply sourceFails_keeps | apply ite_keeps)
    | split
    | (extract_lets +onlyGivenNames x; first | (refine (fun hx : Keeps s x => ?_) ?_ <;> [clear_value x; subst x]) | clear_value x)

theorem execSourceReturn_keeps (h : Keeps s t) (a1) : OutKeeps s (execSourceReturn a1 t) := by
  unfold execSourceReturn
  repeat'
    first
    | intro _
    | with_reducible (first | assumption | apply OutKeeps.next | apply elapseTo_keeps | apply backInService_keeps | apply modSource_keeps | apply gather_keeps | apply ite_keeps)
    | split
    | (extract_lets +onlyGivenNames x; first | (refine (fun hx : Keeps s x => ?_) ?_ <;> [clear_value x; subst x]) | clear_value x)

theorem execDrbgReseed_keeps (h : Keeps s t) : OutKeeps s (execDrbgReseed t) := by
  unfold execDrbgReseed
  repeat'
    first
    | intro _
    | with_reducible (first | assumption | apply OutKeeps.next | apply reseed_keeps | apply ite_keeps)
    | split

theorem makeStarter_keeps (h : Keeps s t) : Keeps s (makeStarter t) := by
  unfold makeStarter
  repeat'
    first
    | (show (_ : Nat) = _; first | rfl | exact length_modAt _ _ _ | simp only [List.length_map, length_modAt, List.length_zipIdx])
    | (show (_ : Nat) ≤ _; first | exact Nat.le_refl _ | simp)
    | intro _
    | with_reducible (first | assumption | apply logRec_keeps | apply drew_keeps | apply modSec_keeps | apply modSlc_keeps | apply keyEvent_keeps | apply modDir_keeps | apply modRadio_keeps | apply ite_keeps)
    | split
    | (extract_lets +onlyGivenNames x; first | (refine (fun hx : Keeps s x => ?_) ?_ <;> [clear_value x; subst x]) | clear_value x)

theorem checkStarter_keeps (h : Keeps s t) : Keeps s (checkStarter t) := by
  unfold checkStarter
  repeat'
    first
    | (show (_ : Nat) = _; first | rfl | exact length_modAt _ _ _ | simp only [List.length_map, length_modAt, List.length_zipIdx])
    | intro _
    | with_reducible (first | assumption | apply modSec_keeps | apply makeStarter_keeps | apply ite_keeps)
    | split

theorem execRngSelfTestEnd_keeps (h : Keeps s t) (a1) (a2) : OutKeeps s (execRngSelfTestEnd a1 a2 t) := by
  unfold execRngSelfTestEnd
  repeat'
    first
    | (show (_ : Nat) = _; first | rfl | exact length_modAt _ _ _ | simp only [List.length_map, length_modAt, List.length_zipIdx])
    | intro _
    | with_reducible (first | assumption | apply OutKeeps.next | apply modSec_keeps | apply each_keeps | apply backInService_keeps | apply rngEvent_keeps | apply changeUnit_keeps | apply instantiate_keeps | apply onlyIf_keeps | apply makeStarter_keeps | apply fault_keeps | apply stopRng_keeps | apply ite_keeps)
    | split
    | (extract_lets +onlyGivenNames x; first | (refine (fun hx : Keeps s x => ?_) ?_ <;> [clear_value x; subst x]) | (refine (fun hx : Keeps s x.2 => ?_) ?_ <;> [clear_value x; subst x]) | (refine (fun hx : Keeps s x.1 => ?_) ?_ <;> [clear_value x; subst x]) | clear_value x)

theorem execRandom_keeps (h : Keeps s t) (a1) (a2) : OutKeeps s (execRandom a1 a2 t) := by
  unfold execRandom
  repeat'
    first
    | intro _
    | with_reducible (first | assumption | apply OutKeeps.next | apply startOp_keeps | apply settle_keeps | apply joinQueue_keeps | apply onlyIf_keeps | apply reseed_keeps | apply leaveQueue_keeps | apply writeAndSettle_keeps | apply drew_keeps | apply ite_keeps)
    | split
    | (extract_lets +onlyGivenNames x; first | (refine (fun hx : Keeps s x => ?_) ?_ <;> [clear_value x; subst x]) | clear_value x)

theorem execRngStatus_keeps (h : Keeps s t) (a1) (a2) : OutKeeps s (execRngStatus a1 a2 t) := by
  unfold execRngStatus
  repeat'
    first
    | intro _
    | with_reducible (first | assumption | apply OutKeeps.next | apply startOp_keeps | apply writeAndSettle_keeps)

end Sys2Proof.Machine
end

