-- ==== Sys2Proof/Laws/KeepsCusOps.lean ====
section
/-! SUPPORT. What the operations of CusOps, Rails, Custody, DirOps keep (Safety.Keeps), one lemma each, in the order of their definitions. -/

set_option linter.unusedTactic false
set_option linter.unreachableTactic false
set_option linter.unusedSimpArgs false

namespace Sys2Proof.Machine

variable {s t : State}

theorem modDrive_keeps (h : Keeps s t) (a1) (a2) : Keeps s (modDrive a1 a2 t) := by
  unfold modDrive
  repeat'
    first
    | (show (_ : Nat) = _; first | rfl | exact length_modAt _ _ _ | simp only [List.length_map, length_modAt, List.length_zipIdx])
    | intro _
    | with_reducible (first | assumption | apply modCus_keeps)

theorem cusEvent_keeps (h : Keeps s t) (a1) : Keeps s (cusEvent a1 t) := by
  unfold cusEvent
  repeat'
    first
    | (show (_ : Nat) = _; first | rfl | exact length_modAt _ _ _ | simp only [List.length_map, length_modAt, List.length_zipIdx])
    | intro _
    | with_reducible (first | assumption | apply modCus_keeps)

theorem placeBytes_drives {avoid : List Nat} {place cls : Nat} (n need : Nat) (c : Cus) {l : List Piece} {d : Cus}
    (e : placeBytes avoid place cls n need c = some (l, d)) : d.drives = c.drives := by
  induction n generalizing need c l d with
  | zero => cases e
  | succ n ih =>
    unfold placeBytes at e
    split at e
    · cases e; rfl
    · extract_lets pick at e
      have hp : ∀ g c', pick = some (g, c') → c'.drives = c.drives := by
        intro g c' h
        subst pick
        split at h
        · cases h; rfl
        · unfold newGroup at h
          extract_lets can can' at h
          clear_value can'
          split at h
          · cases h
          · injection h with h; injection h with _ h; rw [← h]
      clear_value pick
      split at e
      · cases e
      · rename_i g c'
        extract_lets k c2 at e
        have := hp _ _ rfl
        split at e
        · cases e
        · rename_i l' c3 h3
          cases e
          rw [ih _ _ h3, ← this]

theorem sendWrites_keeps (h : Keeps s t) (a1) : Keeps s (sendWrites a1 t) := by
  unfold sendWrites
  repeat'
    first
    | intro _
    | with_reducible (first | assumption | apply each_keeps | apply emit_keeps)
    | split

theorem beginRec_keeps {s t u : State} (h : Keeps s t) {w x b} (e : beginRec w x b t = .ok u) : Keeps s u := by
  unfold beginRec at e
  split at e
  · cases e
  · split at e
    · cases e
    · extract_lets r at e
      split at e
      · cases e
      · rename_i ids c hp
        extract_lets r' x' st x'' at e
        have k : Keeps s x' := by
          subst x'
          split
          · exact h
          · exact logRec_keeps h _
        have hc : x'.cus.drives = t.cus.drives := by
          subst x'
          split <;> rfl
        have hd : x''.cus.drives.length = x'.cus.drives.length := by
          rw [hc]; exact congrArg _ (placeBytes_drives _ _ _ hp : c.drives = _)
        cases e
        have k2 : Keeps s x'' := same_keeps (noteV_keeps k) rfl rfl rfl rfl rfl (by simp only [counts, hd]; rfl)
        exact sendWrites_keeps k2 _

theorem lostLeaves_keeps (h : Keeps s t) (a1) : Keeps s (lostLeaves a1 t) := by
  unfold lostLeaves
  repeat'
    first
    | intro _
    | with_reducible (first | assumption | apply modDrive_keeps | apply logRec_keeps | apply ite_keeps)
    | split

theorem placeAgain_keeps {s t u : State} (h : Keeps s t) {l : List Nat} {j : CusJob} (e : placeAgain l j t = some u) : Keeps s u := by
  unfold placeAgain at e
  extract_lets cls at e
  split at e
  · cases e
  · rename_i places c hp
    extract_lets x j' x' at e
    have hd : c.drives = t.cus.drives := (placeBytes_drives _ _ _ hp).trans rfl
    cases e
    have k : Keeps s (modCus (fun _ => { c with jobs := c.jobs.map (fun y => if y.item.cls = cls then j' else y) }) t) :=
      same_keeps h rfl rfl rfl rfl rfl (by simp only [counts, modCus, hd])
    exact sendWrites_keeps (tryLog_keeps k _) _

theorem placeIdle_keeps (h : Keeps s t) : Keeps s (placeIdle t) := by
  unfold placeIdle
  refine each_keeps h _ _ fun j _ k => ?_
  split
  · exact placeAgain_keeps k (by assumption)
  · exact k

theorem custodyWork_keeps (h : Keeps s t) : Keeps s (custodyWork t) := by
  unfold custodyWork
  repeat'
    first
    | (show (_ : Nat) = _; first | rfl | exact length_modAt _ _ _ | simp only [List.length_map, length_modAt, List.length_zipIdx])
    | intro _
    | with_reducible (first | assumption | apply placeIdle_keeps | apply each_keeps | apply lostLeaves_keeps | apply modCus_keeps | apply modDir_keeps | refine beginRec_keeps ?_ (by with_reducible assumption))
    | split
    | (extract_lets +onlyGivenNames x; first | (refine (fun hx : Keeps s x => ?_) ?_ <;> [clear_value x; subst x]) | clear_value x)

theorem reclaim_keeps (h : Keeps s t) : Keeps s (reclaim t) := by
  unfold reclaim
  repeat'
    first
    | (show (_ : Nat) ≤ _; first | exact Nat.le_refl _ | simp)
    | intro _
    | with_reducible (first | assumption | apply modLed_keeps | apply foldl_keeps | refine foldl_keeps ?_ (by with_reducible assumption))
    | split
    | (extract_lets +onlyGivenNames x; first | (refine (fun hx : Keeps s x => ?_) ?_ <;> [clear_value x; subst x]) | clear_value x)

theorem countDrain_keeps (h : Keeps s t) (a1) (a2) : Keeps s (countDrain a1 a2 t) := by
  unfold countDrain
  repeat'
    first
    | (show FlightFn _; exact fun x => ⟨sameAcceptance_refl x, fun _ => rfl⟩)
    | intro _
    | with_reducible (first | assumption | apply each_keeps | apply modFlight_keeps | apply ite_keeps)
    | split

theorem driveRecord_keeps (h : Keeps s t) (a1) (a2) (a3) : Keeps s (driveRecord a1 a2 a3 t) := by
  unfold driveRecord
  repeat'
    first
    | intro _
    | with_reducible (first | assumption | apply logPart_keeps)

theorem retireEmpty_keeps (h : Keeps s t) : Keeps s (retireEmpty t) := by
  unfold retireEmpty
  repeat'
    first
    | intro _
    | with_reducible (first | assumption | apply each_keeps | apply driveRecord_keeps | apply tryLog_keeps | apply modDrive_keeps | apply settle_keeps | apply ite_keeps)
    | split
    | (extract_lets +onlyGivenNames x; first | (refine (fun hx : Keeps s x => ?_) ?_ <;> [clear_value x; subst x]) | clear_value x)

theorem moveDone_keeps (h : Keeps s t) (a1) (a2) : Keeps s (moveDone a1 a2 t) := by
  unfold moveDone
  repeat'
    first
    | (show (_ : Nat) = _; first | rfl | exact length_modAt _ _ _ | simp only [List.length_map, length_modAt, List.length_zipIdx])
    | intro _
    | with_reducible (first | assumption | apply modCus_keeps | apply logRec_keeps | apply countDrain_keeps | apply retireEmpty_keeps | apply onlyIf_keeps | apply cusEvent_keeps | apply ite_keeps)
    | split
    | (extract_lets +onlyGivenNames x; first | (refine (fun hx : Keeps s x => ?_) ?_ <;> [clear_value x; subst x]) | (refine (fun hx : ∀ {t}, Keeps s t → Keeps s (x t) => ?_) ?_ <;> [clear_value x; subst x]) | clear_value x)

theorem recordDone_keeps (h : Keeps s t) (a1) : Keeps s (recordDone a1 t) := by
  unfold recordDone
  repeat'
    first
    | (show (_ : Nat) = _; first | rfl | exact length_modAt _ _ _ | simp only [List.length_map, length_modAt, List.length_zipIdx])
    | (show (_ : Nat) ≤ _; first | exact Nat.le_refl _ | simp)
    | intro _
    | with_reducible (first | assumption | apply modCus_keeps | apply moveDone_keeps | apply settle_keeps | apply atStage_keeps | apply modLed_keeps | apply modDir_keeps | apply custodyWork_keeps | apply reclaim_keeps | apply ite_keeps)
    | split
    | (extract_lets +onlyGivenNames x; first | (refine (fun hx : Keeps s x => ?_) ?_ <;> [clear_value x; subst x]) | (refine (fun hx : ∀ {t}, Keeps s t → Keeps s (x t) => ?_) ?_ <;> [clear_value x; subst x]) | clear_value x)

theorem jobWrite_keeps (h : Keeps s t) (a1) (a2) (a3) : Keeps s (jobWrite a1 a2 a3 t) := by
  unfold jobWrite
  repeat'
    first
    | (show (_ : Nat) = _; first | rfl | exact length_modAt _ _ _ | simp only [List.length_map, length_modAt, List.length_zipIdx])
    | intro _
    | with_reducible (first | assumption | apply modCus_keeps | apply recordDone_keeps | apply ite_keeps)
    | split
    | (extract_lets +onlyGivenNames x; first | (refine (fun hx : Keeps s x => ?_) ?_ <;> [clear_value x; subst x]) | clear_value x)

theorem copyLost_keeps (h : Keeps s t) (a1) (a2) : Keeps s (copyLost a1 a2 t) := by
  unfold copyLost
  repeat'
    first
    | (show (_ : Nat) = _; first | rfl | exact length_modAt _ _ _ | simp only [List.length_map, length_modAt, List.length_zipIdx])
    | intro _
    | with_reducible (first | assumption | apply modCus_keeps | apply ite_keeps)
    | split

theorem jobLost_keeps {s t : State} (h : Keeps s t) (a1) (a2) : Keeps s (jobLost a1 a2 t) := by
  unfold jobLost
  split
  · exact modCus_keeps h _ fun _ => rfl
  · extract_lets alone other
    split
    · rename_i e
      split at e
      · exact placeAgain_keeps h e
      · cases e
    · split
      · exact modCus_keeps h _ fun _ => rfl
      · exact jobWrite_keeps (copyLost_keeps h _ _) _ _ _

theorem cancelAppend_keeps (h : Keeps s t) (a1) : Keeps s (cancelAppend a1 t) := by
  unfold cancelAppend
  repeat'
    first
    | (show (_ : Nat) = _; first | rfl | exact length_modAt _ _ _ | simp only [List.length_map, length_modAt, List.length_zipIdx])
    | intro _
    | with_reducible (first | assumption | apply modCus_keeps)

theorem evictRec_keeps (h : Keeps s t) (a1) : Keeps s (evictRec a1 t) := by
  unfold evictRec
  repeat'
    first
    | (show (_ : Nat) = _; first | rfl | exact length_modAt _ _ _ | simp only [List.length_map, length_modAt, List.length_zipIdx])
    | intro _
    | with_reducible (first | assumption | apply tryLog_keeps | apply modCus_keeps | apply onlyIf_keeps | apply modRun_keeps | apply cusEvent_keeps)
    | split
    | (extract_lets +onlyGivenNames x; first | (refine (fun hx : Keeps s x => ?_) ?_ <;> [clear_value x; subst x]) | (refine (fun hx : ∀ {t}, Keeps s t → Keeps s (x t) => ?_) ?_ <;> [clear_value x; subst x]) | clear_value x)

theorem evictAll_keeps {s t : State} (h : Keeps s t) (a1) : Keeps s (evictAll a1 t) := by
  induction a1 generalizing t with
  | zero => exact h
  | succ n ih =>
    unfold evictAll
    extract_lets sp
    split
    · split
      · exact ih (evictRec_keeps h _)
      · exact h
    · exact h

theorem evictIfLow_keeps (h : Keeps s t) : Keeps s (evictIfLow t) := by
  unfold evictIfLow
  repeat'
    first
    | intro _
    | with_reducible (first | assumption | apply evictAll_keeps | apply ite_keeps)
    | split
    | (extract_lets +onlyGivenNames x; first | (refine (fun hx : Keeps s x => ?_) ?_ <;> [clear_value x; subst x]) | (refine (fun hx : Keeps s x.2 => ?_) ?_ <;> [clear_value x; subst x]) | (refine (fun hx : Keeps s x.1 => ?_) ?_ <;> [clear_value x; subst x]) | clear_value x)

theorem execAppend_keeps (h : Keeps s t) (a1) (a2) : OutKeeps s (execAppend a1 a2 t) := by
  unfold execAppend
  repeat'
    first
    | (show (_ : Nat) = _; first | rfl | exact length_modAt _ _ _ | simp only [List.length_map, length_modAt, List.length_zipIdx])
    | (show FlightFn _; exact fun x => ⟨sameAcceptance_refl x, fun _ => rfl⟩)
    | intro _
    | with_reducible (first | assumption | apply OutKeeps.next | apply onlyIf_keeps | apply evictIfLow_keeps | apply startOp_keeps | apply settle_keeps | apply withRead_keeps | apply atStage_keeps | apply modCus_keeps | apply modFlight_keeps | refine beginRec_keeps ?_ (by with_reducible assumption) | apply ite_keeps)
    | split
    | (extract_lets +onlyGivenNames x; first | (refine (fun hx : Keeps s x => ?_) ?_ <;> [clear_value x; subst x]) | clear_value x)

theorem readOut_keeps (h : Keeps s t) (a1) (a2) (a3) (a4) : Keeps s (readOut a1 a2 a3 a4 t) := by
  unfold readOut
  repeat'
    first
    | intro _
    | with_reducible (first | assumption | apply writeAndSettle_keeps | apply atStage_keeps)

theorem execCusRead_keeps (h : Keeps s t) (a1) (a2) : OutKeeps s (execCusRead a1 a2 t) := by
  unfold execCusRead
  repeat'
    first
    | intro _
    | with_reducible (first | assumption | apply OutKeeps.next | apply startOp_keeps | apply settle_keeps | apply commitPoint_keeps | apply readOut_keeps | apply atStage_keeps | apply ite_keeps)
    | split
    | (extract_lets +onlyGivenNames x; first | (refine (fun hx : Keeps s x => ?_) ?_ <;> [clear_value x; subst x]) | (refine (fun hx : Keeps s x.2 => ?_) ?_ <;> [clear_value x; subst x]) | (refine (fun hx : Keeps s x.1 => ?_) ?_ <;> [clear_value x; subst x]) | (refine (fun hx : ∀ {t}, Keeps s t → Keeps s (x t) => ?_) ?_ <;> [clear_value x; subst x]) | clear_value x)

theorem execCusScan_keeps (h : Keeps s t) (a1) (a2) : OutKeeps s (execCusScan a1 a2 t) := by
  unfold execCusScan
  repeat'
    first
    | intro _
    | with_reducible (first | assumption | apply OutKeeps.next | apply startOp_keeps | apply writeAndSettle_keeps)
    | split
    | (extract_lets +onlyGivenNames x; first | (refine (fun hx : Keeps s x => ?_) ?_ <;> [clear_value x; subst x]) | clear_value x)

theorem execCusVerify_keeps (h : Keeps s t) (a1) : OutKeeps s (execCusVerify a1 t) := by
  unfold execCusVerify
  repeat'
    first
    | intro _
    | with_reducible (first | assumption | apply OutKeeps.next | apply startOp_keeps | apply settle_keeps | apply ite_keeps)
    | split
    | (extract_lets +onlyGivenNames x; first | (refine (fun hx : Keeps s x => ?_) ?_ <;> [clear_value x; subst x]) | clear_value x)

theorem execCusStatus_keeps (h : Keeps s t) (a1) (a2) : OutKeeps s (execCusStatus a1 a2 t) := by
  unfold execCusStatus
  repeat'
    first
    | intro _
    | with_reducible (first | assumption | apply OutKeeps.next | apply startOp_keeps | apply writeAndSettle_keeps)

theorem driveGone_keeps (h : Keeps s t) (a1) : Keeps s (driveGone a1 t) := by
  unfold driveGone
  repeat'
    first
    | intro _
    | with_reducible (first | assumption | apply settle_keeps | apply ite_keeps)
    | split
    | (extract_lets +onlyGivenNames x; first | (refine (fun hx : Keeps s x => ?_) ?_ <;> [clear_value x; subst x]) | clear_value x)

theorem storeDriveLost_keeps (h : Keeps s t) (a1) (a2) (a3) : Keeps s (storeDriveLost a1 a2 a3 t) := by
  unfold storeDriveLost
  repeat'
    first
    | (show (_ : Nat) = _; first | rfl | exact length_modAt _ _ _ | simp only [List.length_map, length_modAt, List.length_zipIdx])
    | intro _
    | with_reducible (first | assumption | apply cusEvent_keeps | apply tryLog_keeps | apply modCus_keeps | apply each_keeps | apply jobLost_keeps | apply fault_keeps | apply driveRecord_keeps | apply onlyIf_keeps | apply ite_keeps)
    | split
    | (extract_lets +onlyGivenNames x; first | (refine (fun hx : Keeps s x => ?_) ?_ <;> [clear_value x; subst x]) | clear_value x)

theorem declareLost_keeps (h : Keeps s t) (a1) : Keeps s (declareLost a1 t) := by
  unfold declareLost
  repeat'
    first
    | intro _
    | with_reducible (first | assumption | apply modDrive_keeps | apply storeDriveLost_keeps | apply driveGone_keeps | apply lostLeaves_keeps | apply ite_keeps)
    | split
    | (extract_lets +onlyGivenNames x; first | (refine (fun hx : Keeps s x => ?_) ?_ <;> [clear_value x; subst x]) | clear_value x)

theorem wasLost_keeps (h : Keeps s t) (a1) : Keeps s (wasLost a1 t) := by
  unfold wasLost
  repeat'
    first
    | intro _
    | with_reducible (first | assumption | apply storeDriveLost_keeps | apply modDrive_keeps)
    | split

theorem execNvmeLinkDown_keeps (h : Keeps s t) (a1) : OutKeeps s (execNvmeLinkDown a1 t) := by
  unfold execNvmeLinkDown
  repeat'
    first
    | intro _
    | with_reducible (first | assumption | apply OutKeeps.next | apply modDrive_keeps | apply ite_keeps)
    | split
    | (extract_lets +onlyGivenNames x; first | (refine (fun hx : Keeps s x => ?_) ?_ <;> [clear_value x; subst x]) | clear_value x)

theorem execDriveLossDeclaration_keeps (h : Keeps s t) (a1) : OutKeeps s (execDriveLossDeclaration a1 t) := by
  unfold execDriveLossDeclaration
  repeat'
    first
    | intro _
    | with_reducible (first | assumption | apply OutKeeps.next | apply declareLost_keeps | apply elapseTo_keeps | apply wasLost_keeps | apply ite_keeps)
    | split
    | (extract_lets +onlyGivenNames x; first | (refine (fun hx : Keeps s x => ?_) ?_ <;> [clear_value x; subst x]) | clear_value x)

theorem execNvmeFatalStatus_keeps (h : Keeps s t) (a1) : OutKeeps s (execNvmeFatalStatus a1 t) := by
  unfold execNvmeFatalStatus
  repeat'
    first
    | intro _
    | with_reducible (first | assumption | apply OutKeeps.next | apply wasLost_keeps | apply declareLost_keeps | apply ite_keeps)
    | split

theorem execNvmeCommandTimeout_keeps (h : Keeps s t) (a1) : OutKeeps s (execNvmeCommandTimeout a1 t) := by
  unfold execNvmeCommandTimeout
  repeat'
    first
    | intro _
    | with_reducible (first | assumption | apply OutKeeps.next | apply declareLost_keeps | apply elapseNs_keeps | apply emit_keeps | apply ite_keeps)
    | split
    | (extract_lets +onlyGivenNames x; first | (refine (fun hx : Keeps s x => ?_) ?_ <;> [clear_value x; subst x]) | clear_value x)

theorem execNvmeLinkUp_keeps (h : Keeps s t) (a1) : OutKeeps s (execNvmeLinkUp a1 t) := by
  unfold execNvmeLinkUp
  repeat'
    first
    | intro _
    | with_reducible (first | assumption | apply OutKeeps.next | apply modDrive_keeps | apply ite_keeps)
    | split
    | (extract_lets +onlyGivenNames x; first | (refine (fun hx : Keeps s x => ?_) ?_ <;> [clear_value x; subst x]) | clear_value x)

theorem driveWorn_keeps (h : Keeps s t) (a1) : Keeps s (driveWorn a1 t) := by
  unfold driveWorn
  repeat'
    first
    | (show (_ : Nat) = _; first | rfl | exact length_modAt _ _ _ | simp only [List.length_map, length_modAt, List.length_zipIdx])
    | intro _
    | with_reducible (first | assumption | apply modCus_keeps | apply cusEvent_keeps | apply fault_keeps | apply modDrive_keeps | apply ite_keeps)
    | split
    | (extract_lets +onlyGivenNames x; first | (refine (fun hx : Keeps s x => ?_) ?_ <;> [clear_value x; subst x]) | clear_value x)

theorem driveOnline_keeps (h : Keeps s t) (a1) (a2) (a3) : Keeps s (driveOnline a1 a2 a3 t) := by
  unfold driveOnline
  repeat'
    first
    | (show (_ : Nat) = _; first | rfl | exact length_modAt _ _ _ | simp only [List.length_map, length_modAt, List.length_zipIdx])
    | intro _
    | with_reducible (first | assumption | apply modCus_keeps | apply cusEvent_keeps | apply modDrive_keeps | apply custodyWork_keeps | apply onlyIf_keeps | apply driveWorn_keeps | apply ite_keeps)
    | split
    | (extract_lets +onlyGivenNames x; first | (refine (fun hx : Keeps s x => ?_) ?_ <;> [clear_value x; subst x]) | clear_value x)

theorem initDrive_keeps (h : Keeps s t) (a1) (a2) : Keeps s (initDrive a1 a2 t) := by
  unfold initDrive
  repeat'
    first
    | intro _
    | with_reducible (first | assumption | apply each_keeps | apply emit_keeps | apply drawn_keeps)

theorem writeLabel_keeps (h : Keeps s t) (a1) : Keeps s (writeLabel a1 t) := by
  unfold writeLabel
  repeat'
    first
    | (show (_ : Nat) = _; first | rfl | exact length_modAt _ _ _ | simp only [List.length_map, length_modAt, List.length_zipIdx])
    | intro _
    | with_reducible (first | assumption | apply emit_keeps | apply drew_keeps | apply modCus_keeps)
    | split
    | (extract_lets +onlyGivenNames x; first | (refine (fun hx : Keeps s x => ?_) ?_ <;> [clear_value x; subst x]) | clear_value x)

theorem labelDrive_keeps (h : Keeps s t) (a1) (a2) : Keeps s (labelDrive a1 a2 t) := by
  unfold labelDrive
  repeat'
    first
    | intro _
    | with_reducible (first | assumption | apply driveRecord_keeps | apply driveOnline_keeps | apply writeLabel_keeps)

theorem execDriveReady_keeps (h : Keeps s t) (a1) (a2) : OutKeeps s (execDriveReady a1 a2 t) := by
  unfold execDriveReady
  repeat'
    first
    | intro _
    | with_reducible (first | assumption | apply OutKeeps.next | apply outOfService_keeps | apply wasLost_keeps | apply initDrive_keeps | apply drawn_keeps | apply modDrive_keeps | apply labelDrive_keeps | apply cusEvent_keeps | apply driveOnline_keeps | apply ite_keeps)
    | split
    | (extract_lets +onlyGivenNames x; first | (refine (fun hx : Keeps s x => ?_) ?_ <;> [clear_value x; subst x]) | clear_value x)

theorem execDriveReadyTimeout_keeps (h : Keeps s t) (a1) : OutKeeps s (execDriveReadyTimeout a1 t) := by
  unfold execDriveReadyTimeout
  repeat'
    first
    | intro _
    | with_reducible (first | assumption | apply OutKeeps.next | apply wasLost_keeps | apply outOfService_keeps | apply elapseTo_keeps | apply ite_keeps)
    | split
    | (extract_lets +onlyGivenNames x; first | (refine (fun hx : Keeps s x => ?_) ?_ <;> [clear_value x; subst x]) | clear_value x)

theorem execDriveWear_keeps (h : Keeps s t) (a1) (a2) : OutKeeps s (execDriveWear a1 a2 t) := by
  unfold execDriveWear
  repeat'
    first
    | intro _
    | with_reducible (first | assumption | apply OutKeeps.next | apply driveWorn_keeps | apply modDrive_keeps | apply ite_keeps)
    | split
    | (extract_lets +onlyGivenNames x; first | (refine (fun hx : Keeps s x => ?_) ?_ <;> [clear_value x; subst x]) | clear_value x)

theorem beginMove_keeps (h : Keeps s t) (a1) (a2) : Keeps s (beginMove a1 a2 t) := by
  unfold beginMove
  repeat'
    first
    | (show (_ : Nat) = _; first | rfl | exact length_modAt _ _ _ | simp only [List.length_map, length_modAt, List.length_zipIdx])
    | intro _
    | with_reducible (first | assumption | apply modCus_keeps | apply noteV_keeps | apply moveDone_keeps | apply sendWrites_keeps | apply foldl_keeps | refine foldl_keeps ?_ (by with_reducible assumption) | apply ite_keeps)
    | split
    | (extract_lets +onlyGivenNames x; first | (refine (fun hx : Keeps s x => ?_) ?_ <;> [clear_value x; subst x]) | (refine (fun hx : Keeps s x.2 => ?_) ?_ <;> [clear_value x; subst x]) | (refine (fun hx : Keeps s x.1 => ?_) ?_ <;> [clear_value x; subst x]) | clear_value x)

theorem execReprotection_keeps (h : Keeps s t) : OutKeeps s (execReprotection t) := by
  unfold execReprotection
  repeat'
    first
    | intro _
    | with_reducible (first | assumption | apply OutKeeps.next | apply retireEmpty_keeps | apply beginMove_keeps | apply ite_keeps)
    | split

theorem execEviction_keeps (h : Keeps s t) : OutKeeps s (execEviction t) := by
  unfold execEviction
  repeat'
    first
    | intro _
    | with_reducible (first | assumption | apply OutKeeps.next | apply evictIfLow_keeps | apply ite_keeps)
    | split

theorem execSectorRefillDone_keeps (h : Keeps s t) (a1) : OutKeeps s (execSectorRefillDone a1 t) := by
  unfold execSectorRefillDone
  repeat'
    first
    | (show (_ : Nat) ≤ _; first | exact Nat.le_refl _ | simp)
    | intro _
    | with_reducible (first | assumption | apply OutKeeps.next | apply modLed_keeps | apply ite_keeps)
    | split

theorem beginCp_keeps {s t u : State} (h : Keeps s t) (e : beginCp t = .ok u) : Keeps s u := by
  unfold beginCp at e
  refine beginRec_keeps ?_ e
  refine drawn_keeps ?_ _
  exact modLed_keeps h _ fun _ => Nat.le_refl _

theorem execLedgercp_keeps {s t : State} (h : Keeps s t) : OutKeeps s (execLedgercp t) := by
  unfold execLedgercp
  refine OutKeeps.next ?_
  split
  · have k : Keeps s (if sinceCp t < 8192 then elapseTo (t.led.cpAt + 1000000) t else t) := by
      split
      · exact elapseTo_keeps h _
      · exact h
    have k := custodyWork_keeps (reclaim_keeps k)
    dsimp only
    split
    · rename_i e
      exact beginCp_keeps k e
    · exact modCus_keeps k _ fun _ => rfl
    · exact k
  · exact custodyWork_keeps (reclaim_keeps h)

theorem drainEnds_keeps (h : Keeps s t) : Keeps s (drainEnds t) := by
  unfold drainEnds
  repeat'
    first
    | (show (_ : Nat) = _; first | rfl | exact length_modAt _ _ _ | simp only [List.length_map, length_modAt, List.length_zipIdx])
    | intro _
    | with_reducible (first | assumption | apply each_keeps | apply onlyIf_keeps | apply emit_keeps | apply modCus_keeps | apply modPwr_keeps | apply lowerEnable_keeps | apply lowerFrom_keeps | apply ite_keeps)
    | split
    | (extract_lets +onlyGivenNames x; first | (refine (fun hx : Keeps s x => ?_) ?_ <;> [clear_value x; subst x]) | (refine (fun hx : Keeps s x.2 => ?_) ?_ <;> [clear_value x; subst x]) | (refine (fun hx : Keeps s x.1 => ?_) ?_ <;> [clear_value x; subst x]) | clear_value x)

theorem drainOn_keeps (h : Keeps s t) : Keeps s (drainOn t) := by
  unfold drainOn
  repeat'
    first
    | (show (_ : Nat) = _; first | rfl | exact length_modAt _ _ _ | simp only [List.length_map, length_modAt, List.length_zipIdx])
    | intro _
    | with_reducible (first | assumption | apply modCus_keeps | apply drainEnds_keeps | refine beginCp_keeps ?_ (by with_reducible assumption) | apply ite_keeps)
    | split

theorem drainDrives_keeps (h : Keeps s t) (a1) : Keeps s (drainDrives a1 t) := by
  unfold drainDrives
  repeat'
    first
    | intro _
    | with_reducible (first | assumption | apply onlyIf_keeps | apply elapseNs_keeps | apply each_keeps | apply modDrive_keeps | apply declareLost_keeps | apply ite_keeps)
    | split
    | (extract_lets +onlyGivenNames x; first | (refine (fun hx : Keeps s x => ?_) ?_ <;> [clear_value x; subst x]) | (refine (fun hx : Keeps s x.2 => ?_) ?_ <;> [clear_value x; subst x]) | (refine (fun hx : Keeps s x.1 => ?_) ?_ <;> [clear_value x; subst x]) | clear_value x)

theorem execLedgerDrain_keeps (h : Keeps s t) (a1) : OutKeeps s (execLedgerDrain a1 t) := by
  unfold execLedgerDrain
  repeat'
    first
    | (show (_ : Nat) = _; first | rfl | exact length_modAt _ _ _ | simp only [List.length_map, length_modAt, List.length_zipIdx])
    | intro _
    | with_reducible (first | assumption | apply OutKeeps.next | apply raiseEach_keeps | apply modPwr_keeps | apply drainOn_keeps | apply custodyWork_keeps | apply modCus_keeps | apply drainDrives_keeps | apply ite_keeps)
    | split

theorem execNvmeWriteComplete_keeps (h : Keeps s t) (a1) (a2) : OutKeeps s (execNvmeWriteComplete a1 a2 t) := by
  unfold execNvmeWriteComplete
  repeat'
    first
    | intro _
    | with_reducible (first | assumption | apply OutKeeps.next | apply drainOn_keeps | apply jobWrite_keeps | apply jobLost_keeps | apply ite_keeps)
    | split

theorem nearRemove_keeps (h : Keeps s t) (a1) : Keeps s (nearRemove a1 t) := by
  unfold nearRemove
  repeat'
    first
    | intro _
    | with_reducible (first | assumption | apply modRadio_keeps)

theorem applyAct_keeps (h : Keeps s t) (a1) : Keeps s (applyAct a1 t) := by
  unfold applyAct
  repeat'
    first
    | intro _
    | with_reducible (first | assumption | apply modDir_keeps)
    | split
    | (extract_lets +onlyGivenNames x; first | (refine (fun hx : Keeps s x => ?_) ?_ <;> [clear_value x; subst x]) | clear_value x)

end Sys2Proof.Machine
end

