-- ==== Sys2Proof/Laws/KeepsIflOps.lean ====
section
/-! SUPPORT. What the operations of IflOps, Directory, Cipher, Lanes, Lock, IflPhy keep (Safety.Keeps), one lemma each, in the order of their definitions. -/

set_option linter.unusedTactic false
set_option linter.unreachableTactic false
set_option linter.unusedSimpArgs false

namespace Sys2Proof.Machine

variable {s t : State}

theorem modPort_keeps (h : Keeps s t) (a1) (a2) : Keeps s (modPort a1 a2 t) := by
  unfold modPort
  repeat'
    first
    | (show (_ : Nat) = _; first | rfl | exact length_modAt _ _ _ | simp only [List.length_map, length_modAt, List.length_zipIdx])
    | intro _
    | with_reducible (first | assumption | apply modIfl_keeps)

theorem linkEvent_keeps (h : Keeps s t) (a1) : Keeps s (linkEvent a1 t) := by
  unfold linkEvent
  repeat'
    first
    | (show (_ : Nat) = _; first | rfl | exact length_modAt _ _ _ | simp only [List.length_map, length_modAt, List.length_zipIdx])
    | intro _
    | with_reducible (first | assumption | apply modIfl_keeps)

theorem iflEvent_keeps (h : Keeps s t) (a1) (a2) : Keeps s (iflEvent a1 a2 t) := by
  unfold iflEvent
  repeat'
    first
    | intro _
    | with_reducible (first | assumption | apply modPort_keeps)

theorem searchOn_keeps (h : Keeps s t) (a1) (a2) : Keeps s (searchOn a1 a2 t) := by
  unfold searchOn
  repeat'
    first
    | intro _
    | with_reducible (first | assumption | apply modPort_keeps | apply ite_keeps)
    | split

theorem sendFrame_keeps (h : Keeps s t) (a1) (a2) (a3) (a4) (a5) (a6) : Keeps s (sendFrame a1 a2 a3 a4 a5 a6 t) := by
  unfold sendFrame
  repeat'
    first
    | intro _
    | with_reducible (first | assumption | apply onlyIf_keeps | apply searchOn_keeps | apply modPort_keeps | apply emit_keeps)
    | split
    | (extract_lets +onlyGivenNames x; first | (refine (fun hx : Keeps s x => ?_) ?_ <;> [clear_value x; subst x]) | clear_value x)

theorem flushMgmt_keeps (h : Keeps s t) (a1) : Keeps s (flushMgmt a1 t) := by
  unfold flushMgmt
  repeat'
    first
    | intro _
    | with_reducible (first | assumption | apply modPort_keeps | apply each_keeps | apply sendFrame_keeps | apply ite_keeps)
    | split
    | (extract_lets +onlyGivenNames x; first | (refine (fun hx : Keeps s x => ?_) ?_ <;> [clear_value x; subst x]) | clear_value x)

theorem sendMgmt_keeps (h : Keeps s t) (a1) (a2) : Keeps s (sendMgmt a1 a2 t) := by
  unfold sendMgmt
  repeat'
    first
    | intro _
    | with_reducible (first | assumption | apply flushMgmt_keeps | apply modPort_keeps | apply ite_keeps)
    | split

theorem sendPlain_keeps (h : Keeps s t) (a1) (a2) (a3) (a4) (a5) : Keeps s (sendPlain a1 a2 a3 a4 a5 t) := by
  unfold sendPlain
  repeat'
    first
    | intro _
    | with_reducible (first | assumption | apply sendFrame_keeps | apply ite_keeps)
    | split
    | (extract_lets +onlyGivenNames x; first | (refine (fun hx : Keeps s x => ?_) ?_ <;> [clear_value x; subst x]) | (refine (fun hx : Keeps s x.2 => ?_) ?_ <;> [clear_value x; subst x]) | (refine (fun hx : Keeps s x.1 => ?_) ?_ <;> [clear_value x; subst x]) | clear_value x)

theorem sendSeq_keeps (h : Keeps s t) (a1) (a2) : Keeps s (sendSeq a1 a2 t) := by
  unfold sendSeq
  repeat'
    first
    | intro _
    | with_reducible (first | assumption | apply sendFrame_keeps)
    | split
    | (extract_lets +onlyGivenNames x; first | (refine (fun hx : Keeps s x => ?_) ?_ <;> [clear_value x; subst x]) | (refine (fun hx : Keeps s x.2 => ?_) ?_ <;> [clear_value x; subst x]) | (refine (fun hx : Keeps s x.1 => ?_) ?_ <;> [clear_value x; subst x]) | clear_value x)

theorem pumpN_keeps {s t : State} (h : Keeps s t) (a1) (a2) : Keeps s (pumpN a1 a2 t) := by
  induction a1 generalizing t with
  | zero => exact h
  | succ n ih =>
    unfold pumpN
    extract_lets pt
    split
    · exact h
    · split
      · exact ih (sendSeq_keeps (modPort_keeps h _ _) _ _)
      · exact h

theorem pump_keeps (h : Keeps s t) (a1) : Keeps s (pump a1 t) := by
  unfold pump
  repeat'
    first
    | intro _
    | with_reducible (first | assumption | apply pumpN_keeps | apply flushMgmt_keeps)

theorem enqueue_keeps (h : Keeps s t) (a1) (a2) : Keeps s (enqueue a1 a2 t) := by
  unfold enqueue
  repeat'
    first
    | intro _
    | with_reducible (first | assumption | apply pump_keeps | apply modPort_keeps)

theorem modNode_keeps (h : Keeps s t) (a1) (a2) : Keeps s (modNode a1 a2 t) := by
  unfold modNode
  repeat'
    first
    | (show (_ : Nat) = _; first | rfl | exact length_modAt _ _ _ | simp only [List.length_map, length_modAt, List.length_zipIdx])
    | intro _
    | with_reducible (first | assumption | apply modIfl_keeps | apply ite_keeps)
    | split

theorem sendTo_keeps (h : Keeps s t) (a1) (a2) (a3) (a4) : Keeps s (sendTo a1 a2 a3 a4 t) := by
  unfold sendTo
  repeat'
    first
    | intro _
    | with_reducible (first | assumption | apply enqueue_keeps)
    | split

theorem sendData_keeps (h : Keeps s t) (a1) (a2) (a3) (a4) (a5) : Keeps s (sendData a1 a2 a3 a4 a5 t) := by
  unfold sendData
  repeat'
    first
    | intro _
    | with_reducible (first | assumption | apply sendTo_keeps)

theorem sendDirState_keeps (h : Keeps s t) (a1) : Keeps s (sendDirState a1 t) := by
  unfold sendDirState
  repeat'
    first
    | intro _
    | with_reducible (first | assumption | apply sendData_keeps | apply each_keeps | apply modDir_keeps)
    | split
    | (extract_lets +onlyGivenNames x; first | (refine (fun hx : Keeps s x => ?_) ?_ <;> [clear_value x; subst x]) | clear_value x)

theorem relayChange_keeps (h : Keeps s t) (a1) (a2) : Keeps s (relayChange a1 a2 t) := by
  unfold relayChange
  repeat'
    first
    | intro _
    | with_reducible (first | assumption | apply each_keeps | apply sendData_keeps | apply modDir_keeps)
    | split
    | (extract_lets +onlyGivenNames x; first | (refine (fun hx : Keeps s x => ?_) ?_ <;> [clear_value x; subst x]) | clear_value x)

theorem dirEvent_keeps (h : Keeps s t) (a1) : Keeps s (dirEvent a1 t) := by
  unfold dirEvent
  repeat'
    first
    | intro _
    | with_reducible (first | assumption | apply modDir_keeps)

theorem lookupDone_keeps (h : Keeps s t) (a1) (a2) (a3) (a4) : Keeps s (lookupDone a1 a2 a3 a4 t) := by
  unfold lookupDone
  repeat'
    first
    | intro _
    | with_reducible (first | assumption | apply writeAndSettle_keeps | apply settle_keeps | apply ite_keeps)
    | split

theorem withEntry_keeps (h : Keeps s t) (a1) (a2) (a3) (f1 : _ → _ → _ → State → State) (hf1 : ∀ a b c {t}, Keeps s t → Keeps s (f1 a b c t)) : Keeps s (withEntry a1 a2 a3 f1 t) := by
  unfold withEntry
  repeat'
    first
    | intro _
    | with_reducible (first | assumption | apply hf1 | apply startOp_keeps | apply withRead_keeps | apply settle_keeps | apply ite_keeps)
    | split
    | (extract_lets +onlyGivenNames x; first | (refine (fun hx : Keeps s x => ?_) ?_ <;> [clear_value x; subst x]) | clear_value x)

theorem execLookup_keeps (h : Keeps s t) (a1) (a2) (a3) : OutKeeps s (execLookup a1 a2 a3 t) := by
  unfold execLookup
  repeat'
    first
    | intro _
    | with_reducible (first | assumption | apply OutKeeps.next | apply withEntry_keeps | apply lookupDone_keeps)

theorem execGrant_keeps (h : Keeps s t) (a1) (a2) (a3) : OutKeeps s (execGrant a1 a2 a3 t) := by
  unfold execGrant
  repeat'
    first
    | intro _
    | with_reducible (first | assumption | apply OutKeeps.next | apply withEntry_keeps | apply settle_keeps | apply modDir_keeps | apply noteV_keeps | apply ite_keeps)
    | split
    | (extract_lets +onlyGivenNames x; first | (refine (fun hx : Keeps s x => ?_) ?_ <;> [clear_value x; subst x]) | clear_value x)

theorem execGrantCommit_keeps (h : Keeps s t) (a1) (a2) : OutKeeps s (execGrantCommit a1 a2 t) := by
  unfold execGrantCommit
  repeat'
    first
    | intro _
    | with_reducible (first | assumption | apply OutKeeps.next | apply onOp_keeps | apply modDir_keeps | apply settle_keeps | apply commitPoint_keeps | apply lookupDone_keeps | apply ite_keeps)
    | split
    | (extract_lets +onlyGivenNames x; first | (refine (fun hx : Keeps s x => ?_) ?_ <;> [clear_value x; subst x]) | (refine (fun hx : Keeps s x.2 => ?_) ?_ <;> [clear_value x; subst x]) | (refine (fun hx : Keeps s x.1 => ?_) ?_ <;> [clear_value x; subst x]) | clear_value x)

theorem beginChange_keeps (h : Keeps s t) (a1) (a2) (a3) : Keeps s (beginChange a1 a2 a3 t) := by
  unfold beginChange
  repeat'
    first
    | (show (_ : Nat) = _; first | rfl | exact length_modAt _ _ _ | simp only [List.length_map, length_modAt, List.length_zipIdx])
    | (show FlightFn _; exact fun x => ⟨sameAcceptance_refl x, fun _ => rfl⟩)
    | intro _
    | with_reducible (first | assumption | apply modDir_keeps | apply atStage_keeps | apply modCus_keeps | apply modFlight_keeps | refine beginRec_keeps ?_ (by with_reducible assumption))
    | split
    | (extract_lets +onlyGivenNames x; first | (refine (fun hx : Keeps s x => ?_) ?_ <;> [clear_value x; subst x]) | clear_value x)

theorem changeOp_keeps (h : Keeps s t) (a1) (a2) (f1 : _ → State → State) (hf1 : ∀ a {t}, Keeps s t → Keeps s (f1 a t)) : Keeps s (changeOp a1 a2 f1 t) := by
  unfold changeOp
  repeat'
    first
    | intro _
    | with_reducible (first | assumption | apply hf1 | apply startOp_keeps | apply settle_keeps | apply ite_keeps)
    | split

theorem execDirLoad_keeps (h : Keeps s t) (a1) (a2) : OutKeeps s (execDirLoad a1 a2 t) := by
  unfold execDirLoad
  repeat'
    first
    | intro _
    | with_reducible (first | assumption | apply OutKeeps.next | apply changeOp_keeps | apply withRead_keeps | apply atStage_keeps | apply settle_keeps | apply dirEvent_keeps | apply drawn_keeps | apply beginChange_keeps | apply ite_keeps)
    | split
    | (extract_lets +onlyGivenNames x; first | (refine (fun hx : Keeps s x => ?_) ?_ <;> [clear_value x; subst x]) | clear_value x)

theorem execRevoke_keeps (h : Keeps s t) (a1) : OutKeeps s (execRevoke a1 t) := by
  unfold execRevoke
  repeat'
    first
    | intro _
    | with_reducible (first | assumption | apply OutKeeps.next | apply changeOp_keeps | apply settle_keeps | apply beginChange_keeps | apply ite_keeps)
    | split
    | (extract_lets +onlyGivenNames x; first | (refine (fun hx : Keeps s x => ?_) ?_ <;> [clear_value x; subst x]) | (refine (fun hx : Keeps s x.2 => ?_) ?_ <;> [clear_value x; subst x]) | (refine (fun hx : Keeps s x.1 => ?_) ?_ <;> [clear_value x; subst x]) | clear_value x)

theorem execRevokeEpoch_keeps (h : Keeps s t) (a1) : OutKeeps s (execRevokeEpoch a1 t) := by
  unfold execRevokeEpoch
  repeat'
    first
    | intro _
    | with_reducible (first | assumption | apply OutKeeps.next | apply changeOp_keeps | apply settle_keeps | apply beginChange_keeps | apply ite_keeps)
    | split
    | (extract_lets +onlyGivenNames x; first | (refine (fun hx : Keeps s x => ?_) ?_ <;> [clear_value x; subst x]) | clear_value x)

theorem execRemove_keeps (h : Keeps s t) (a1) : OutKeeps s (execRemove a1 t) := by
  unfold execRemove
  repeat'
    first
    | intro _
    | with_reducible (first | assumption | apply OutKeeps.next | apply changeOp_keeps | apply settle_keeps | apply beginChange_keeps | apply ite_keeps)
    | split
    | (extract_lets +onlyGivenNames x; first | (refine (fun hx : Keeps s x => ?_) ?_ <;> [clear_value x; subst x]) | (refine (fun hx : Keeps s x.2 => ?_) ?_ <;> [clear_value x; subst x]) | (refine (fun hx : Keeps s x.1 => ?_) ?_ <;> [clear_value x; subst x]) | clear_value x)

theorem returnEntries_keeps (h : Keeps s t) (a1) : Keeps s (returnEntries a1 t) := by
  unfold returnEntries
  repeat'
    first
    | intro _
    | with_reducible (first | assumption | apply each_keeps | apply modRun_keeps)

theorem takeChange_keeps (h : Keeps s t) (a1) (a2) : Keeps s (takeChange a1 a2 t) := by
  unfold takeChange
  repeat'
    first
    | intro _
    | with_reducible (first | assumption | apply applyAct_keeps | apply returnEntries_keeps | apply each_keeps | apply nearRemove_keeps | apply relayChange_keeps)
    | split
    | (extract_lets +onlyGivenNames x; first | (refine (fun hx : Keeps s x => ?_) ?_ <;> [clear_value x; subst x]) | clear_value x)

theorem deltaCopied_keeps (h : Keeps s t) : Keeps s (deltaCopied t) := by
  unfold deltaCopied
  repeat'
    first
    | intro _
    | with_reducible (first | assumption | apply logRec_keeps | apply atStage_keeps | apply takeChange_keeps | apply modDir_keeps | apply settle_keeps | apply ite_keeps)
    | split
    | (extract_lets +onlyGivenNames x; first | (refine (fun hx : Keeps s x => ?_) ?_ <;> [clear_value x; subst x]) | clear_value x)

theorem execDirDeltaCopied_keeps (h : Keeps s t) : OutKeeps s (execDirDeltaCopied t) := by
  unfold execDirDeltaCopied
  repeat'
    first
    | intro _
    | with_reducible (first | assumption | apply OutKeeps.next | apply deltaCopied_keeps)

theorem execDirStatus_keeps (h : Keeps s t) (a1) (a2) : OutKeeps s (execDirStatus a1 a2 t) := by
  unfold execDirStatus
  repeat'
    first
    | intro _
    | with_reducible (first | assumption | apply OutKeeps.next | apply startOp_keeps | apply writeAndSettle_keeps)

theorem sendHeld_keeps (h : Keeps s t) : Keeps s (sendHeld t) := by
  unfold sendHeld
  repeat'
    first
    | intro _
    | with_reducible (first | assumption | apply sendData_keeps)

theorem execEpochs_keeps (h : Keeps s t) (a1) : OutKeeps s (execEpochs a1 t) := by
  unfold execEpochs
  repeat'
    first
    | intro _
    | with_reducible (first | assumption | apply OutKeeps.next | apply sendHeld_keeps | apply modDir_keeps | apply foldl_keeps | refine foldl_keeps ?_ (by with_reducible assumption) | apply ite_keeps)
    | split

theorem applyItem_keeps (h : Keeps s t) (a1) : Keeps s (applyItem a1 t) := by
  unfold applyItem
  repeat'
    first
    | intro _
    | with_reducible (first | assumption | apply each_keeps | apply nearRemove_keeps | apply modDir_keeps | apply ite_keeps)
    | split
    | (extract_lets +onlyGivenNames x; first | (refine (fun hx : Keeps s x => ?_) ?_ <;> [clear_value x; subst x]) | (refine (fun hx : ∀ {t}, Keeps s t → Keeps s (x t) => ?_) ?_ <;> [clear_value x; subst x]) | clear_value x)

theorem execRevoked_keeps (h : Keeps s t) (a1) : OutKeeps s (execRevoked a1 t) := by
  unfold execRevoked
  repeat'
    first
    | intro _
    | with_reducible (first | assumption | apply OutKeeps.next | apply sendHeld_keeps | apply each_keeps | apply applyItem_keeps | apply ite_keeps)
    | split
    | (extract_lets +onlyGivenNames x; first | (refine (fun hx : Keeps s x => ?_) ?_ <;> [clear_value x; subst x]) | clear_value x)

theorem execHeld_keeps (h : Keeps s t) (a1) (a2) : OutKeeps s (execHeld a1 a2 t) := by
  unfold execHeld
  repeat'
    first
    | intro _
    | with_reducible (first | assumption | apply OutKeeps.next | apply modDir_keeps | apply ite_keeps)
    | split
    | (extract_lets +onlyGivenNames x; first | (refine (fun hx : Keeps s x => ?_) ?_ <;> [clear_value x; subst x]) | clear_value x)

theorem execDirRelayLate_keeps (h : Keeps s t) (a1) : OutKeeps s (execDirRelayLate a1 t) := by
  unfold execDirRelayLate
  repeat'
    first
    | intro _
    | with_reducible (first | assumption | apply OutKeeps.next | apply sendDirState_keeps | apply dirEvent_keeps | apply elapseTo_keeps | apply ite_keeps)
    | split

theorem execSnapshotStart_keeps (h : Keeps s t) : OutKeeps s (execSnapshotStart t) := by
  unfold execSnapshotStart
  repeat'
    first
    | intro _
    | with_reducible (first | assumption | apply OutKeeps.next | apply elapseTo_keeps | apply custodyWork_keeps | apply modDir_keeps | apply ite_keeps)
    | split
    | (extract_lets +onlyGivenNames x; first | (refine (fun hx : Keeps s x => ?_) ?_ <;> [clear_value x; subst x]) | (refine (fun hx : Keeps s x.2 => ?_) ?_ <;> [clear_value x; subst x]) | (refine (fun hx : Keeps s x.1 => ?_) ?_ <;> [clear_value x; subst x]) | clear_value x)

theorem startRebuild_keeps (h : Keeps s t) : Keeps s (startRebuild t) := by
  unfold startRebuild
  repeat'
    first
    | intro _
    | with_reducible (first | assumption | apply modDir_keeps)

theorem execDirRebuild_keeps (h : Keeps s t) (a1) : OutKeeps s (execDirRebuild a1 t) := by
  unfold execDirRebuild
  repeat'
    first
    | intro _
    | with_reducible (first | assumption | apply OutKeeps.next | apply dirEvent_keeps | apply modDir_keeps | apply drawn_keeps | apply ite_keeps)
    | split

theorem modLane_keeps (h : Keeps s t) (a1) (a2) : Keeps s (modLane a1 a2 t) := by
  unfold modLane
  repeat'
    first
    | (show (_ : Nat) = _; first | rfl | exact length_modAt _ _ _ | simp only [List.length_map, length_modAt, List.length_zipIdx])
    | intro _
    | with_reducible (first | assumption | apply modSec_keeps)

theorem countCph_keeps (h : Keeps s t) : Keeps s (countCph t) := by
  unfold countCph
  repeat'
    first
    | (show (_ : Nat) = _; first | rfl | exact length_modAt _ _ _ | simp only [List.length_map, length_modAt, List.length_zipIdx])
    | intro _
    | with_reducible (first | assumption | apply modSec_keeps)

theorem cphOut_keeps (h : Keeps s t) (a1) (a2) (a3) (a4) : Keeps s (cphOut a1 a2 a3 a4 t) := by
  unfold cphOut
  repeat'
    first
    | intro _
    | with_reducible (first | assumption | apply countCph_keeps | apply settle_keeps | apply culvertWrite_keeps | apply ite_keeps)
    | split

theorem tagFail_keeps (h : Keeps s t) (a1) : Keeps s (tagFail a1 t) := by
  unfold tagFail
  repeat'
    first
    | (show (_ : Nat) = _; first | rfl | exact length_modAt _ _ _ | simp only [List.length_map, length_modAt, List.length_zipIdx])
    | intro _
    | with_reducible (first | assumption | apply modSec_keeps | apply settle_keeps)

theorem drawSeeds_keeps (h : Keeps s t) (l n : Nat) : Keeps s (drawSeeds l n t) := by
  induction n generalizing t with
  | zero => exact h
  | succ n ih =>
    unfold drawSeeds
    exact ih (modLane_keeps (drew_keeps h _ _) _ _)

theorem maskLane_keeps (h : Keeps s t) (a1) (a2) : Keeps s (maskLane a1 a2 t) := by
  unfold maskLane
  repeat'
    first
    | intro _
    | with_reducible (first | assumption | apply modLane_keeps | apply drawSeeds_keeps | apply ite_keeps)
    | split
    | (extract_lets +onlyGivenNames x; first | (refine (fun hx : Keeps s x => ?_) ?_ <;> [clear_value x; subst x]) | clear_value x)

theorem cphOp_keeps (h : Keeps s t) (a1) (a2) (a3) (a4) (f1 : _ → _ → _ → State → State) (hf1 : ∀ a b c {t}, Keeps s t → Keeps s (f1 a b c t)) : Keeps s (cphOp a1 a2 a3 a4 f1 t) := by
  unfold cphOp
  repeat'
    first
    | (show FlightFn _; exact fun x => ⟨sameAcceptance_refl x, fun _ => rfl⟩)
    | intro _
    | with_reducible (first | assumption | apply hf1 | apply joinQueue_keeps | apply startOp_keeps | apply withKey_keeps | apply settle_keeps | apply withRead_keeps | apply maskLane_keeps | apply modFlight_keeps | apply leaveQueue_keeps | apply ite_keeps)
    | split

theorem drewIv_keeps (h : Keeps s t) (a1) : Keeps s (drewIv a1 t) := by
  unfold drewIv
  repeat'
    first
    | intro _
    | with_reducible (first | assumption | apply onlyIf_keeps | apply drew_keeps | apply ite_keeps)
    | split

theorem execEncrypt_keeps (h : Keeps s t) (a1) (a2) (a3) : OutKeeps s (execEncrypt a1 a2 a3 t) := by
  unfold execEncrypt
  repeat'
    first
    | intro _
    | with_reducible (first | assumption | apply OutKeeps.next | apply cphOp_keeps | apply cphOut_keeps | apply drewIv_keeps)
    | split
    | (extract_lets +onlyGivenNames x; first | (refine (fun hx : Keeps s x => ?_) ?_ <;> [clear_value x; subst x]) | clear_value x)

theorem execDecrypt_keeps (h : Keeps s t) (a1) (a2) (a3) : OutKeeps s (execDecrypt a1 a2 a3 t) := by
  unfold execDecrypt
  repeat'
    first
    | intro _
    | with_reducible (first | assumption | apply OutKeeps.next | apply cphOp_keeps | apply cphOut_keeps)
    | split
    | (extract_lets +onlyGivenNames x; first | (refine (fun hx : Keeps s x => ?_) ?_ <;> [clear_value x; subst x]) | clear_value x)

theorem execMac_keeps (h : Keeps s t) (a1) (a2) (a3) : OutKeeps s (execMac a1 a2 a3 t) := by
  unfold execMac
  repeat'
    first
    | intro _
    | with_reducible (first | assumption | apply OutKeeps.next | apply cphOp_keeps | apply cphOut_keeps)

theorem execMacVerify_keeps (h : Keeps s t) (a1) (a2) : OutKeeps s (execMacVerify a1 a2 t) := by
  unfold execMacVerify
  repeat'
    first
    | intro _
    | with_reducible (first | assumption | apply OutKeeps.next | apply cphOp_keeps | apply countCph_keeps | apply settle_keeps | apply tagFail_keeps | apply ite_keeps)
    | split
    | (extract_lets +onlyGivenNames x; first | (refine (fun hx : Keeps s x => ?_) ?_ <;> [clear_value x; subst x]) | clear_value x)

theorem execSealCcm_keeps (h : Keeps s t) (a1) (a2) (a3) : OutKeeps s (execSealCcm a1 a2 a3 t) := by
  unfold execSealCcm
  repeat'
    first
    | intro _
    | with_reducible (first | assumption | apply OutKeeps.next | apply cphOp_keeps | apply drewIv_keeps | apply cphOut_keeps | apply drawn_keeps | apply ite_keeps)
    | split
    | (extract_lets +onlyGivenNames x; first | (refine (fun hx : Keeps s x => ?_) ?_ <;> [clear_value x; subst x]) | clear_value x)

theorem execOpenCcm_keeps (h : Keeps s t) (a1) (a2) (a3) : OutKeeps s (execOpenCcm a1 a2 a3 t) := by
  unfold execOpenCcm
  repeat'
    first
    | intro _
    | with_reducible (first | assumption | apply OutKeeps.next | apply cphOp_keeps | apply cphOut_keeps | apply drawn_keeps | apply atStage_keeps | apply tagFail_keeps | apply ite_keeps)
    | split
    | (extract_lets +onlyGivenNames x; first | (refine (fun hx : Keeps s x => ?_) ?_ <;> [clear_value x; subst x]) | clear_value x)

theorem sendSoundReq_keeps (h : Keeps s t) (a1) (a2) : Keeps s (sendSoundReq a1 a2 t) := by
  unfold sendSoundReq
  repeat'
    first
    | intro _
    | with_reducible (first | assumption | apply sendMgmt_keeps | apply ite_keeps)
    | split

theorem masterHeard_keeps (h : Keeps s t) (a1) : Keeps s (masterHeard a1 t) := by
  unfold masterHeard
  repeat'
    first
    | (show (_ : Nat) = _; first | rfl | exact length_modAt _ _ _ | simp only [List.length_map, length_modAt, List.length_zipIdx])
    | intro _
    | with_reducible (first | assumption | apply modIfl_keeps | apply ite_keeps)
    | split

theorem goodFrame_keeps (h : Keeps s t) (a1) (a2) (a3) : Keeps s (goodFrame a1 a2 a3 t) := by
  unfold goodFrame
  repeat'
    first
    | (show (_ : Nat) = _; first | rfl | exact length_modAt _ _ _ | simp only [List.length_map, length_modAt, List.length_zipIdx])
    | intro _
    | with_reducible (first | assumption | apply modPort_keeps | apply onlyIf_keeps | apply sendSoundReq_keeps | apply modPwr_keeps | apply powerSlice_keeps | apply ite_keeps)
    | split
    | (extract_lets +onlyGivenNames x; first | (refine (fun hx : Keeps s x => ?_) ?_ <;> [clear_value x; subst x]) | clear_value x)

theorem badPcrc_keeps (h : Keeps s t) (a1) (a2) : Keeps s (badPcrc a1 a2 t) := by
  unfold badPcrc
  repeat'
    first
    | intro _
    | with_reducible (first | assumption | apply modPort_keeps | apply sendSoundReq_keeps | apply ite_keeps)
    | split
    | (extract_lets +onlyGivenNames x; first | (refine (fun hx : Keeps s x => ?_) ?_ <;> [clear_value x; subst x]) | clear_value x)

theorem frameVerdict_keeps (h : Keeps s t) (a1) (a2) : Keeps s (frameVerdict a1 a2 t) := by
  unfold frameVerdict
  repeat'
    first
    | intro _
    | with_reducible (first | assumption | apply modPort_keeps | apply onlyIf_keeps | apply iflEvent_keeps | apply searchOn_keeps | apply masterHeard_keeps | apply sendSoundReq_keeps | apply badPcrc_keeps | apply goodFrame_keeps | apply ite_keeps)
    | split
    | (extract_lets +onlyGivenNames x; first | (refine (fun hx : Keeps s x => ?_) ?_ <;> [clear_value x; subst x]) | clear_value x)

theorem execIflFrameReceived_keeps (h : Keeps s t) (a1) (a2) : OutKeeps s (execIflFrameReceived a1 a2 t) := by
  unfold execIflFrameReceived
  repeat'
    first
    | intro _
    | with_reducible (first | assumption | apply OutKeeps.next | apply elapseToNs_keeps | apply frameVerdict_keeps | apply ite_keeps)
    | split
    | (extract_lets +onlyGivenNames x; first | (refine (fun hx : Keeps s x => ?_) ?_ <;> [clear_value x; subst x]) | clear_value x)

theorem execSoundReq_keeps (h : Keeps s t) (a1) (a2) : OutKeeps s (execSoundReq a1 a2 t) := by
  unfold execSoundReq
  repeat'
    first
    | intro _
    | with_reducible (first | assumption | apply OutKeeps.next | apply modPort_keeps | apply ite_keeps)
    | split

theorem execSoundFrame_keeps (h : Keeps s t) (a1) : OutKeeps s (execSoundFrame a1 t) := by
  unfold execSoundFrame
  repeat'
    first
    | intro _
    | with_reducible (first | assumption | apply OutKeeps.next | apply modPort_keeps | apply sendFrame_keeps | apply ite_keeps)
    | split

theorem execSoundFrameReceived_keeps (h : Keeps s t) (a1) (a2) : OutKeeps s (execSoundFrameReceived a1 a2 t) := by
  unfold execSoundFrameReceived
  repeat'
    first
    | intro _
    | with_reducible (first | assumption | apply OutKeeps.next | apply sendMgmt_keeps | apply modPort_keeps | apply foldl_keeps | refine foldl_keeps ?_ (by with_reducible assumption) | apply ite_keeps)
    | split
    | (extract_lets +onlyGivenNames x; first | (refine (fun hx : Keeps s x => ?_) ?_ <;> [clear_value x; subst x]) | clear_value x)

theorem execIflLoad_keeps (h : Keeps s t) (a1) (a2) : OutKeeps s (execIflLoad a1 a2 t) := by
  unfold execIflLoad
  repeat'
    first
    | intro _
    | with_reducible (first | assumption | apply OutKeeps.next | apply modPort_keeps | apply ite_keeps)
    | split
    | (extract_lets +onlyGivenNames x; first | (refine (fun hx : Keeps s x => ?_) ?_ <;> [clear_value x; subst x]) | clear_value x)

theorem execLoadResend_keeps (h : Keeps s t) (a1) : OutKeeps s (execLoadResend a1 t) := by
  unfold execLoadResend
  repeat'
    first
    | intro _
    | with_reducible (first | assumption | apply OutKeeps.next | apply elapseTo_keeps | apply sendMgmt_keeps | apply modPort_keeps | apply sendSoundReq_keeps | apply ite_keeps)
    | split
    | (extract_lets +onlyGivenNames x; first | (refine (fun hx : Keeps s x => ?_) ?_ <;> [clear_value x; subst x]) | clear_value x)

theorem execOldTableHoldEnd_keeps (h : Keeps s t) (a1) : OutKeeps s (execOldTableHoldEnd a1 t) := by
  unfold execOldTableHoldEnd
  repeat'
    first
    | intro _
    | with_reducible (first | assumption | apply OutKeeps.next | apply modPort_keeps | apply elapseTo_keeps | apply ite_keeps)
    | split
    | (extract_lets +onlyGivenNames x; first | (refine (fun hx : Keeps s x => ?_) ?_ <;> [clear_value x; subst x]) | clear_value x)

theorem execSoundingPeriod_keeps (h : Keeps s t) (a1) : OutKeeps s (execSoundingPeriod a1 t) := by
  unfold execSoundingPeriod
  repeat'
    first
    | intro _
    | with_reducible (first | assumption | apply OutKeeps.next | apply elapseTo_keeps | apply sendSoundReq_keeps | apply modPort_keeps | apply ite_keeps)
    | split
    | (extract_lets +onlyGivenNames x; first | (refine (fun hx : Keeps s x => ?_) ?_ <;> [clear_value x; subst x]) | clear_value x)

theorem execListenWindow_keeps (h : Keeps s t) (a1) : OutKeeps s (execListenWindow a1 t) := by
  unfold execListenWindow
  repeat'
    first
    | intro _
    | with_reducible (first | assumption | apply OutKeeps.next | apply elapseTo_keeps | apply modPort_keeps | apply sendFrame_keeps | apply pump_keeps | apply ite_keeps)
    | split
    | (extract_lets +onlyGivenNames x; first | (refine (fun hx : Keeps s x => ?_) ?_ <;> [clear_value x; subst x]) | clear_value x)

theorem execWindowExtensionEnd_keeps (h : Keeps s t) (a1) : OutKeeps s (execWindowExtensionEnd a1 t) := by
  unfold execWindowExtensionEnd
  repeat'
    first
    | intro _
    | with_reducible (first | assumption | apply OutKeeps.next | apply elapseTo_keeps | apply modPort_keeps | apply ite_keeps)
    | split
    | (extract_lets +onlyGivenNames x; first | (refine (fun hx : Keeps s x => ?_) ?_ <;> [clear_value x; subst x]) | clear_value x)

theorem execTick_keeps (h : Keeps s t) (a1) (a2) : OutKeeps s (execTick a1 a2 t) := by
  unfold execTick
  repeat'
    first
    | intro _
    | with_reducible (first | assumption | apply OutKeeps.next | apply modPort_keeps | apply masterHeard_keeps | apply ite_keeps)
    | split

theorem execResyncListen_keeps (h : Keeps s t) (a1) : OutKeeps s (execResyncListen a1 t) := by
  unfold execResyncListen
  repeat'
    first
    | (show (_ : Nat) = _; first | rfl | exact length_modAt _ _ _ | simp only [List.length_map, length_modAt, List.length_zipIdx])
    | intro _
    | with_reducible (first | assumption | apply OutKeeps.next | apply elapseTo_keeps | apply modPort_keeps | apply modIfl_keeps | apply ite_keeps)
    | split
    | (extract_lets +onlyGivenNames x; first | (refine (fun hx : Keeps s x => ?_) ?_ <;> [clear_value x; subst x]) | clear_value x)

end Sys2Proof.Machine
end

