-- ==== Sys2Proof/Laws/KeepsProx.lean ====
section
/-! SUPPORT. What the operations of Prox, Polls, Lf, Uhf, Nfc keep (Safety.Keeps), one lemma each, in the order of their definitions. -/

set_option linter.unusedTactic false
set_option linter.unreachableTactic false
set_option linter.unusedSimpArgs false

namespace Sys2Proof.Machine

variable {s t : State}

theorem setTcnt_keeps (h : Keeps s t) (a1) (a2) : Keeps s (setTcnt a1 a2 t) := by
  unfold setTcnt
  repeat'
    first
    | intro _
    | with_reducible (first | assumption | apply modRadio_keeps | apply ite_keeps)
    | split

theorem recordTcnt_keeps (h : Keeps s t) (a1) (a2) : Keeps s (recordTcnt a1 a2 t) := by
  unfold recordTcnt
  repeat'
    first
    | intro _
    | with_reducible (first | assumption | apply tryLog_keeps | apply setTcnt_keeps)

theorem lfEvent_keeps (h : Keeps s t) (a1) : Keeps s (lfEvent a1 t) := by
  unfold lfEvent
  repeat'
    first
    | intro _
    | with_reducible (first | assumption | apply modRadio_keeps)

theorem uhfEvent_keeps (h : Keeps s t) (a1) : Keeps s (uhfEvent a1 t) := by
  unfold uhfEvent
  repeat'
    first
    | intro _
    | with_reducible (first | assumption | apply modRadio_keeps)

theorem authFail_keeps (h : Keeps s t) (a1) (a2) : Keeps s (authFail a1 a2 t) := by
  unfold authFail
  repeat'
    first
    | intro _
    | with_reducible (first | assumption | apply lfEvent_keeps | apply modRadio_keeps | apply logPart_keeps | apply ite_keeps)
    | split
    | (extract_lets +onlyGivenNames x; first | (refine (fun hx : Keeps s x => ?_) ?_ <;> [clear_value x; subst x]) | clear_value x)

theorem relaySuspect_keeps (h : Keeps s t) (a1) : Keeps s (relaySuspect a1 t) := by
  unfold relaySuspect
  repeat'
    first
    | intro _
    | with_reducible (first | assumption | apply lfEvent_keeps | apply logPart_keeps)

theorem inconsistent_keeps (h : Keeps s t) (a1) : Keeps s (inconsistent a1 t) := by
  unfold inconsistent
  repeat'
    first
    | intro _
    | with_reducible (first | assumption | apply uhfEvent_keeps | apply modRadio_keeps | apply relaySuspect_keeps)

theorem tokenSeen_keeps (h : Keeps s t) : Keeps s (tokenSeen t) := by
  unfold tokenSeen
  repeat'
    first
    | (show (_ : Nat) = _; first | rfl | exact length_modAt _ _ _ | simp only [List.length_map, length_modAt, List.length_zipIdx])
    | intro _
    | with_reducible (first | assumption | apply modPwr_keeps)

theorem putTrack_keeps (h : Keeps s t) (a1) : Keeps s (putTrack a1 t).2 := by
  unfold putTrack
  repeat'
    first
    | intro _
    | with_reducible (first | assumption | apply modRadio_keeps | apply uhfEvent_keeps | apply ite_keeps)
    | split
    | (extract_lets +onlyGivenNames x; first | (refine (fun hx : Keeps s x => ?_) ?_ <;> [clear_value x; subst x]) | clear_value x)
    | dsimp only

theorem modPres_keeps (h : Keeps s t) (a1) (a2) : Keeps s (modPres a1 a2 t) := by
  unfold modPres
  repeat'
    first
    | intro _
    | with_reducible (first | assumption | apply modRadio_keeps)

theorem tokenPassed_keeps (h : Keeps s t) (a1) (a2) : Keeps s (tokenPassed a1 a2 t) := by
  unfold tokenPassed
  repeat'
    first
    | intro _
    | with_reducible (first | assumption | apply modRadio_keeps | apply tokenSeen_keeps | apply tokenBack_keeps | apply modPres_keeps | apply onlyIf_keeps | apply tokenInCab_keeps)
    | split
    | (extract_lets +onlyGivenNames x; first | (refine (fun hx : Keeps s x => ?_) ?_ <;> [clear_value x; subst x]) | clear_value x)

theorem stopCarrier_keeps (h : Keeps s t) (a1) : Keeps s (stopCarrier a1 t) := by
  unfold stopCarrier
  repeat'
    first
    | intro _
    | with_reducible (first | assumption | apply onlyIf_keeps | apply emit_keeps)

theorem driveReq_keeps (h : Keeps s t) (a1) : Keeps s (driveReq a1 t) := by
  unfold driveReq
  repeat'
    first
    | intro _
    | with_reducible (first | assumption | apply each_keeps | apply emit_keeps | apply modRadio_keeps | apply ite_keeps)
    | split

theorem drivePri_keeps (h : Keeps s t) (a1) : Keeps s (drivePri a1 t) := by
  unfold drivePri
  repeat'
    first
    | intro _
    | with_reducible (first | assumption | apply onlyIf_keeps | apply emit_keeps | apply modRadio_keeps | apply ite_keeps)
    | split

theorem coexRaise_keeps (h : Keeps s t) (a1) (a2) : Keeps s (coexRaise a1 a2 t) := by
  unfold coexRaise
  repeat'
    first
    | intro _
    | with_reducible (first | assumption | apply driveReq_keeps | apply modRadio_keeps | apply ite_keeps)
    | split
    | (extract_lets +onlyGivenNames x; first | (refine (fun hx : Keeps s x => ?_) ?_ <;> [clear_value x; subst x]) | clear_value x)

theorem coexDrop_keeps (h : Keeps s t) : Keeps s (coexDrop t) := by
  unfold coexDrop
  repeat'
    first
    | intro _
    | with_reducible (first | assumption | apply driveReq_keeps)

theorem coexAnew_keeps (h : Keeps s t) (a1) (a2) : Keeps s (coexAnew a1 a2 t) := by
  unfold coexAnew
  repeat'
    first
    | intro _
    | with_reducible (first | assumption | apply coexRaise_keeps | apply coexDrop_keeps)

theorem countEmission_keeps (h : Keeps s t) (a1) : Keeps s (countEmission a1 t) := by
  unfold countEmission
  repeat'
    first
    | intro _
    | with_reducible (first | assumption | apply modRadio_keeps)

theorem onChain_keeps (h : Keeps s t) (a1) (a2) : Keeps s (onChain a1 a2 t) := by
  unfold onChain
  repeat'
    first
    | intro _
    | with_reducible (first | assumption | apply emit_keeps)

theorem sendTrigger_keeps (h : Keeps s t) (a1) : Keeps s (sendTrigger a1 t) := by
  unfold sendTrigger
  repeat'
    first
    | intro _
    | with_reducible (first | assumption | apply onChain_keeps | apply countEmission_keeps)
    | split

theorem takeSpare_keeps (h : Keeps s t) (a1) : Keeps s (takeSpare a1 t) := by
  unfold takeSpare
  repeat'
    first
    | intro _
    | with_reducible (first | assumption | apply modRadio_keeps)

theorem keyTelegram_keeps (h : Keeps s t) (a1) : Keeps s (keyTelegram a1 t) := by
  unfold keyTelegram
  repeat'
    first
    | intro _
    | with_reducible (first | assumption | apply each_keeps | apply takeSpare_keeps | apply modRadio_keeps | apply drawn_keeps)
    | split
    | (extract_lets +onlyGivenNames x; first | (refine (fun hx : Keeps s x => ?_) ?_ <;> [clear_value x; subst x]) | clear_value x)

theorem beginTelegram_keeps (h : Keeps s t) (a1) : Keeps s (beginTelegram a1 t) := by
  unfold beginTelegram
  repeat'
    first
    | intro _
    | with_reducible (first | assumption | apply keyTelegram_keeps | apply drawn_keeps | apply drew_keeps | apply ite_keeps)
    | split
    | (extract_lets +onlyGivenNames x; first | (refine (fun hx : Keeps s x => ?_) ?_ <;> [clear_value x; subst x]) | clear_value x)

theorem startPoll_keeps (h : Keeps s t) (a1) (a2) (a3) : Keeps s (startPoll a1 a2 a3 t) := by
  unfold startPoll
  repeat'
    first
    | intro _
    | with_reducible (first | assumption | apply beginTelegram_keeps | apply ite_keeps)
    | split

theorem useSlice_keeps (h : Keeps s t) : Keeps s (useSlice t) := by
  unfold useSlice
  repeat'
    first
    | (show (_ : Nat) = _; first | rfl | exact length_modAt _ _ _ | simp only [List.length_map, length_modAt, List.length_zipIdx])
    | intro _
    | with_reducible (first | assumption | apply modPwr_keeps | apply onlyIf_keeps | apply powerSlice_keeps | apply ite_keeps)
    | split

theorem noteSlice_keeps (h : Keeps s t) (a1) : Keeps s (noteSlice a1 t) := by
  unfold noteSlice
  repeat'
    first
    | (show (_ : Nat) = _; first | rfl | exact length_modAt _ _ _ | simp only [List.length_map, length_modAt, List.length_zipIdx])
    | intro _
    | with_reducible (first | assumption | apply modPwr_keeps | apply useSlice_keeps | apply ite_keeps)
    | split

theorem startHandle_keeps (h : Keeps s t) (a1) : Keeps s (startHandle a1 t) := by
  unfold startHandle
  repeat'
    first
    | intro _
    | with_reducible (first | assumption | apply noteSlice_keeps | apply startPoll_keeps | apply modRadio_keeps | apply ite_keeps)
    | split
    | (extract_lets +onlyGivenNames x; first | (refine (fun hx : Keeps s x => ?_) ?_ <;> [clear_value x; subst x]) | clear_value x)

theorem startPresence_keeps (h : Keeps s t) : Keeps s (startPresence t) := by
  unfold startPresence
  repeat'
    first
    | intro _
    | with_reducible (first | assumption | apply startPoll_keeps | apply modRadio_keeps)

theorem startApproach_keeps (h : Keeps s t) : Keeps s (startApproach t) := by
  unfold startApproach
  repeat'
    first
    | intro _
    | with_reducible (first | assumption | apply useSlice_keeps | apply modRadio_keeps | apply onlyIf_keeps | apply startPoll_keeps)
    | split
    | (extract_lets +onlyGivenNames x; first | (refine (fun hx : Keeps s x => ?_) ?_ <;> [clear_value x; subst x]) | clear_value x)

theorem endLocate_keeps (h : Keeps s t) (a1) (a2) : Keeps s (endLocate a1 a2 t) := by
  unfold endLocate
  repeat'
    first
    | intro _
    | with_reducible (first | assumption | apply onlyIf_keeps | apply coexDrop_keeps | apply settle_keeps | apply modRadio_keeps | apply ite_keeps)
    | split
    | (extract_lets +onlyGivenNames x; first | (refine (fun hx : Keeps s x => ?_) ?_ <;> [clear_value x; subst x]) | (refine (fun hx : Keeps s x.2 => ?_) ?_ <;> [clear_value x; subst x]) | (refine (fun hx : Keeps s x.1 => ?_) ?_ <;> [clear_value x; subst x]) | clear_value x)

theorem startLocate_keeps (h : Keeps s t) (a1) (a2) (a3) (a4) : Keeps s (startLocate a1 a2 a3 a4 t) := by
  unfold startLocate
  repeat'
    first
    | intro _
    | with_reducible (first | assumption | apply modRadio_keeps | apply endLocate_keeps | apply beginTelegram_keeps | apply ite_keeps)
    | split

theorem nextPoll_keeps (h : Keeps s t) : Keeps s (nextPoll t) := by
  unfold nextPoll
  repeat'
    first
    | intro _
    | with_reducible (first | assumption | apply startHandle_keeps | apply modRadio_keeps | apply startPresence_keeps | apply startApproach_keeps | apply startLocate_keeps | apply foldl_keeps | refine foldl_keeps ?_ (by with_reducible assumption) | apply ite_keeps)
    | split
    | (extract_lets +onlyGivenNames x; first | (refine (fun hx : Keeps s x => ?_) ?_ <;> [clear_value x; subst x]) | (refine (fun hx : Keeps s x.2 => ?_) ?_ <;> [clear_value x; subst x]) | (refine (fun hx : Keeps s x.1 => ?_) ?_ <;> [clear_value x; subst x]) | clear_value x)

theorem pollEnds_keeps (h : Keeps s t) : Keeps s (pollEnds t) := by
  unfold pollEnds
  repeat'
    first
    | intro _
    | with_reducible (first | assumption | apply nextPoll_keeps | apply coexDrop_keeps | apply modRadio_keeps)

theorem retryLocate_keeps (h : Keeps s t) (a1) (a2) : Keeps s (retryLocate a1 a2 t) := by
  unfold retryLocate
  repeat'
    first
    | intro _
    | with_reducible (first | assumption | apply pollEnds_keeps | apply startLocate_keeps | apply coexDrop_keeps | apply endLocate_keeps | apply ite_keeps)
    | split
    | (extract_lets +onlyGivenNames x; first | (refine (fun hx : Keeps s x => ?_) ?_ <;> [clear_value x; subst x]) | clear_value x)

theorem restartPoll_keeps (h : Keeps s t) : Keeps s (restartPoll t) := by
  unfold restartPoll
  repeat'
    first
    | intro _
    | with_reducible (first | assumption | apply stopCarrier_keeps | apply retryLocate_keeps | apply pollEnds_keeps)
    | split
    | (extract_lets +onlyGivenNames x; first | (refine (fun hx : Keeps s x => ?_) ?_ <;> [clear_value x; subst x]) | clear_value x)

theorem passiveEnds_keeps (h : Keeps s t) : Keeps s (passiveEnds t) := by
  unfold passiveEnds
  repeat'
    first
    | intro _
    | with_reducible (first | assumption | apply pollEnds_keeps | apply stopCarrier_keeps)
    | split

theorem presenceDeferred_keeps (h : Keeps s t) : Keeps s (presenceDeferred t) := by
  unfold presenceDeferred
  repeat'
    first
    | intro _
    | with_reducible (first | assumption | apply each_keeps | apply modPres_keeps | apply onlyIf_keeps | apply tokenUnknown_keeps | apply ite_keeps)
    | split
    | (extract_lets +onlyGivenNames x; first | (refine (fun hx : Keeps s x => ?_) ?_ <;> [clear_value x; subst x]) | clear_value x)

theorem presenceDone_keeps (h : Keeps s t) (a1) : Keeps s (presenceDone a1 t) := by
  unfold presenceDone
  repeat'
    first
    | intro _
    | with_reducible (first | assumption | apply each_keeps | apply modPres_keeps | apply onlyIf_keeps | apply tokenAbsent_keeps | apply ite_keeps)
    | split
    | (extract_lets +onlyGivenNames x; first | (refine (fun hx : Keeps s x => ?_) ?_ <;> [clear_value x; subst x]) | clear_value x)

theorem uncount_keeps (h : Keeps s t) (a1) : Keeps s (uncount a1 t) := by
  unfold uncount
  repeat'
    first
    | intro _
    | with_reducible (first | assumption | apply onlyIf_keeps | apply modRadio_keeps)

theorem heldReply_keeps (h : Keeps s t) (a1) : Keeps s (heldReply a1 t) := by
  unfold heldReply
  repeat'
    first
    | intro _
    | with_reducible (first | assumption | apply pollEnds_keeps | apply modRadio_keeps)
    | split

theorem abandonTelegram_keeps (h : Keeps s t) (a1) (a2) : Keeps s (abandonTelegram a1 a2 t) := by
  unfold abandonTelegram
  repeat'
    first
    | intro _
    | with_reducible (first | assumption | apply coexDrop_keeps | apply lfEvent_keeps | apply uncount_keeps | apply stopCarrier_keeps | apply heldReply_keeps | apply onlyIf_keeps | apply startLocate_keeps | apply pollEnds_keeps | apply presenceDeferred_keeps | apply modRadio_keeps | apply beginTelegram_keeps | apply ite_keeps)
    | split
    | (extract_lets +onlyGivenNames x; first | (refine (fun hx : Keeps s x => ?_) ?_ <;> [clear_value x; subst x]) | clear_value x)

theorem lfCut_keeps (h : Keeps s t) : Keeps s (lfCut t) := by
  unfold lfCut
  repeat'
    first
    | intro _
    | with_reducible (first | assumption | apply abandonTelegram_keeps | apply ite_keeps)
    | split

theorem burstOut_keeps (h : Keeps s t) (a1) (a2) (a3) (a4) : Keeps s (burstOut a1 a2 a3 a4 t) := by
  unfold burstOut
  repeat'
    first
    | intro _
    | with_reducible (first | assumption | apply each_keeps | apply onChain_keeps)

theorem stopBurst_keeps (h : Keeps s t) (a1) (a2) : Keeps s (stopBurst a1 a2 t) := by
  unfold stopBurst
  repeat'
    first
    | intro _
    | with_reducible (first | assumption | apply emit_keeps | apply modRadio_keeps | apply ite_keeps)
    | split
    | (extract_lets +onlyGivenNames x; first | (refine (fun hx : Keeps s x => ?_) ?_ <;> [clear_value x; subst x]) | (refine (fun hx : Keeps s x.2 => ?_) ?_ <;> [clear_value x; subst x]) | (refine (fun hx : Keeps s x.1 => ?_) ?_ <;> [clear_value x; subst x]) | clear_value x)

theorem uhfCut_keeps (h : Keeps s t) : Keeps s (uhfCut t) := by
  unfold uhfCut
  repeat'
    first
    | intro _
    | with_reducible (first | assumption | apply modRadio_keeps | apply stopBurst_keeps | apply ite_keeps)
    | split

theorem restartSound_keeps (h : Keeps s t) (a1) : Keeps s (restartSound a1 t) := by
  unfold restartSound
  repeat'
    first
    | intro _
    | with_reducible (first | assumption | apply stopBurst_keeps | apply retryLocate_keeps | apply pollEnds_keeps | apply endLocate_keeps | apply ite_keeps)
    | split
    | (extract_lets +onlyGivenNames x; first | (refine (fun hx : Keeps s x => ?_) ?_ <;> [clear_value x; subst x]) | clear_value x)

theorem chainsGone_keeps (h : Keeps s t) : Keeps s (chainsGone t) := by
  unfold chainsGone
  repeat'
    first
    | intro _
    | with_reducible (first | assumption | apply restartSound_keeps | apply passiveEnds_keeps)

theorem lfReadings_keeps (h : Keeps s t) (a1) : Keeps s (lfReadings a1 t) := by
  unfold lfReadings
  repeat'
    first
    | intro _
    | with_reducible (first | assumption | apply drawn_keeps | apply modRadio_keeps | apply ite_keeps)
    | split
    | (extract_lets +onlyGivenNames x; first | (refine (fun hx : Keeps s x => ?_) ?_ <;> [clear_value x; subst x]) | (refine (fun hx : Keeps s x.2 => ?_) ?_ <;> [clear_value x; subst x]) | (refine (fun hx : Keeps s x.1 => ?_) ?_ <;> [clear_value x; subst x]) | clear_value x)

theorem emitSegment_keeps (h : Keeps s t) (a1) (a2) (a3) : Keeps s (emitSegment a1 a2 a3 t) := by
  unfold emitSegment
  repeat'
    first
    | intro _
    | with_reducible (first | assumption | apply each_keeps | apply lfReadings_keeps | apply emit_keeps | apply elapseToNs_keeps | apply grantWindow_keeps)

theorem putPoll_keeps (h : Keeps s t) (a1) : Keeps s (putPoll a1 t) := by
  unfold putPoll
  repeat'
    first
    | intro _
    | with_reducible (first | assumption | apply modRadio_keeps)

theorem execPresencePoll_keeps (h : Keeps s t) : OutKeeps s (execPresencePoll t) := by
  unfold execPresencePoll
  repeat'
    first
    | intro _
    | with_reducible (first | assumption | apply OutKeeps.next | apply elapseTo_keeps | apply modRadio_keeps | apply startPresence_keeps | apply ite_keeps)
    | split
    | (extract_lets +onlyGivenNames x; first | (refine (fun hx : Keeps s x => ?_) ?_ <;> [clear_value x; subst x]) | clear_value x)

theorem execApproachPoll_keeps (h : Keeps s t) : OutKeeps s (execApproachPoll t) := by
  unfold execApproachPoll
  repeat'
    first
    | intro _
    | with_reducible (first | assumption | apply OutKeeps.next | apply elapseTo_keeps | apply modRadio_keeps | apply startApproach_keeps | apply ite_keeps)
    | split
    | (extract_lets +onlyGivenNames x; first | (refine (fun hx : Keeps s x => ?_) ?_ <;> [clear_value x; subst x]) | clear_value x)

theorem telegramSent_keeps (h : Keeps s t) (a1) : Keeps s (telegramSent a1 t) := by
  unfold telegramSent
  repeat'
    first
    | (show FlightFn _; exact fun x => ⟨sameAcceptance_refl x, fun _ => rfl⟩)
    | intro _
    | with_reducible (first | assumption | apply modRadio_keeps | apply modFlight_keeps | apply onlyIf_keeps | apply atStage_keeps | apply coexRaise_keeps | apply ite_keeps)
    | split
    | (extract_lets +onlyGivenNames x; first | (refine (fun hx : Keeps s x => ?_) ?_ <;> [clear_value x; subst x]) | clear_value x)

theorem sendSegment_keeps (h : Keeps s t) (a1) (a2) (a3) : Keeps s (sendSegment a1 a2 a3 t) := by
  unfold sendSegment
  repeat'
    first
    | intro _
    | with_reducible (first | assumption | apply telegramSent_keeps | apply emitSegment_keeps | apply putPoll_keeps | apply ite_keeps)
    | split
    | (extract_lets +onlyGivenNames x; first | (refine (fun hx : Keeps s x => ?_) ?_ <;> [clear_value x; subst x]) | clear_value x)

theorem execLfSegment_keeps (h : Keeps s t) : OutKeeps s (execLfSegment t) := by
  unfold execLfSegment
  repeat'
    first
    | intro _
    | with_reducible (first | assumption | apply OutKeeps.next | apply nextPoll_keeps | apply sendSegment_keeps | apply abandonTelegram_keeps | apply ite_keeps)
    | split

theorem modLfCh_keeps (h : Keeps s t) (a1) (a2) : Keeps s (modLfCh a1 a2 t) := by
  unfold modLfCh
  repeat'
    first
    | intro _
    | with_reducible (first | assumption | apply modRadio_keeps)

theorem telegramLost_keeps (h : Keeps s t) (a1) (a2) : Keeps s (telegramLost a1 a2 t) := by
  unfold telegramLost
  repeat'
    first
    | intro _
    | with_reducible (first | assumption | apply abandonTelegram_keeps | apply lfEvent_keeps | apply beginTelegram_keeps | apply coexDrop_keeps | apply uncount_keeps | apply stopCarrier_keeps | apply ite_keeps)
    | split
    | (extract_lets +onlyGivenNames x; first | (refine (fun hx : Keeps s x => ?_) ?_ <;> [clear_value x; subst x]) | clear_value x)

theorem lfChannelOut_keeps (h : Keeps s t) (a1) (a2) : Keeps s (lfChannelOut a1 a2 t) := by
  unfold lfChannelOut
  repeat'
    first
    | intro _
    | with_reducible (first | assumption | apply telegramLost_keeps | apply outOfService_keeps | apply ite_keeps)
    | split

theorem restartTelegram_keeps (h : Keeps s t) (a1) : Keeps s (restartTelegram a1 t) := by
  unfold restartTelegram
  repeat'
    first
    | intro _
    | with_reducible (first | assumption | apply keyTelegram_keeps | apply coexDrop_keeps | apply uncount_keeps | apply stopCarrier_keeps)

theorem execLfChannelFault_keeps (h : Keeps s t) (a1) (a2) (a3) (a4) : OutKeeps s (execLfChannelFault a1 a2 a3 a4 t) := by
  unfold execLfChannelFault
  repeat'
    first
    | intro _
    | with_reducible (first | assumption | apply OutKeeps.next | apply lfEvent_keeps | apply modLfCh_keeps | apply fault_keeps | apply lfChannelOut_keeps | apply drawn_keeps | apply onlyIf_keeps | apply restartTelegram_keeps | apply ite_keeps)
    | split
    | (extract_lets +onlyGivenNames x; first | (refine (fun hx : Keeps s x => ?_) ?_ <;> [clear_value x; subst x]) | clear_value x)

theorem execReplySlotTrigger_keeps (h : Keeps s t) : OutKeeps s (execReplySlotTrigger t) := by
  unfold execReplySlotTrigger
  repeat'
    first
    | intro _
    | with_reducible (first | assumption | apply OutKeeps.next | apply elapseToNs_keeps | apply putPoll_keeps | apply coexAnew_keeps | apply sendTrigger_keeps | apply uhfEvent_keeps | apply ite_keeps)
    | split
    | (extract_lets +onlyGivenNames x; first | (refine (fun hx : Keeps s x => ?_) ?_ <;> [clear_value x; subst x]) | clear_value x)

theorem repeatPoll_keeps (h : Keeps s t) (a1) : Keeps s (repeatPoll a1 t) := by
  unfold repeatPoll
  repeat'
    first
    | intro _
    | with_reducible (first | assumption | apply onlyIf_keeps | apply beginTelegram_keeps | apply coexDrop_keeps)

theorem execReplyWindowEnd_keeps (h : Keeps s t) : OutKeeps s (execReplyWindowEnd t) := by
  unfold execReplyWindowEnd
  repeat'
    first
    | intro _
    | with_reducible (first | assumption | apply OutKeeps.next | apply elapseToNs_keeps | apply heldReply_keeps | apply retryLocate_keeps | apply repeatPoll_keeps | apply pollEnds_keeps | apply presenceDone_keeps | apply ite_keeps)
    | split
    | (extract_lets +onlyGivenNames x; first | (refine (fun hx : Keeps s x => ?_) ?_ <;> [clear_value x; subst x]) | clear_value x)

theorem unlockDoor_keeps (h : Keeps s t) (a1) (a2) (a3) : Keeps s (unlockDoor a1 a2 a3 t) := by
  unfold unlockDoor
  repeat'
    first
    | (show (_ : Nat) = _; first | rfl | exact length_modAt _ _ _ | simp only [List.length_map, length_modAt, List.length_zipIdx])
    | intro _
    | with_reducible (first | assumption | apply logPart_keeps | apply sendBody_keeps | apply modPwr_keeps | apply putPoll_keeps)
    | split
    | (extract_lets +onlyGivenNames x; first | (refine (fun hx : Keeps s x => ?_) ?_ <;> [clear_value x; subst x]) | clear_value x)

theorem handleReply_keeps (h : Keeps s t) (a1) (a2) (a3) : Keeps s (handleReply a1 a2 a3 t) := by
  unfold handleReply
  repeat'
    first
    | intro _
    | with_reducible (first | assumption | apply relaySuspect_keeps | apply setTcnt_keeps | apply tokenPassed_keeps | apply unlockDoor_keeps | apply recordTcnt_keeps | apply ite_keeps)
    | split
    | (extract_lets +onlyGivenNames x; first | (refine (fun hx : Keeps s x => ?_) ?_ <;> [clear_value x; subst x]) | clear_value x)

theorem beginMeasure_keeps (h : Keeps s t) (a1) (a2) (a3) : Keeps s (beginMeasure a1 a2 a3 t) := by
  unfold beginMeasure
  repeat'
    first
    | intro _
    | with_reducible (first | assumption | apply keyTelegram_keeps | apply coexDrop_keeps)

theorem locateReply_keeps (h : Keeps s t) (a1) (a2) (a3) : Keeps s (locateReply a1 a2 a3 t) := by
  unfold locateReply
  repeat'
    first
    | intro _
    | with_reducible (first | assumption | apply atStage_keeps | apply recordTcnt_keeps | apply pollEnds_keeps | apply coexRaise_keeps | apply coexDrop_keeps | apply beginMeasure_keeps | apply modRadio_keeps | apply ite_keeps)
    | split
    | (extract_lets +onlyGivenNames x; first | (refine (fun hx : Keeps s x => ?_) ?_ <;> [clear_value x; subst x]) | clear_value x)

theorem oneReply_keeps (h : Keeps s t) (a1) : Keeps s (oneReply a1 t) := by
  unfold oneReply
  repeat'
    first
    | intro _
    | with_reducible (first | assumption | apply onlyIf_keeps | apply authFail_keeps | apply locateReply_keeps | apply putPoll_keeps | apply relaySuspect_keeps | apply setTcnt_keeps | apply handleReply_keeps | apply tokenPassed_keeps | apply recordTcnt_keeps | apply inconsistent_keeps | apply modRadio_keeps | apply ite_keeps)
    | split
    | (extract_lets +onlyGivenNames x; first | (refine (fun hx : Keeps s x => ?_) ?_ <;> [clear_value x; subst x]) | clear_value x)

theorem twinReplies_keeps (h : Keeps s t) (a1) (a2) (a3) : Keeps s (twinReplies a1 a2 a3 t) := by
  unfold twinReplies
  repeat'
    first
    | intro _
    | with_reducible (first | assumption | apply relaySuspect_keeps | apply setTcnt_keeps | apply foldl_keeps | refine foldl_keeps ?_ (by with_reducible assumption) | apply ite_keeps)
    | split
    | (extract_lets +onlyGivenNames x; first | (refine (fun hx : Keeps s x => ?_) ?_ <;> [clear_value x; subst x]) | clear_value x)

theorem execChalReply_keeps (h : Keeps s t) (a1) : OutKeeps s (execChalReply a1 t) := by
  unfold execChalReply
  repeat'
    first
    | intro _
    | with_reducible (first | assumption | apply OutKeeps.next | apply each_keeps | apply oneReply_keeps | apply twinReplies_keeps | apply putPoll_keeps | apply ite_keeps)
    | split
    | (extract_lets +onlyGivenNames x; first | (refine (fun hx : Keeps s x => ?_) ?_ <;> [clear_value x; subst x]) | clear_value x)

theorem execTokenFrameDiscard_keeps (h : Keeps s t) (a1) : OutKeeps s (execTokenFrameDiscard a1 t) := by
  unfold execTokenFrameDiscard
  repeat'
    first
    | intro _
    | with_reducible (first | assumption | apply OutKeeps.next)

theorem buttonPress_keeps (h : Keeps s t) (a1) (a2) (a3) : Keeps s (buttonPress a1 a2 a3 t) := by
  unfold buttonPress
  repeat'
    first
    | intro _
    | with_reducible (first | assumption | apply logPart_keeps | apply setTcnt_keeps | apply sendBody_keeps | apply tokenSeen_keeps | apply recordTcnt_keeps | apply ite_keeps)
    | split
    | (extract_lets +onlyGivenNames x; first | (refine (fun hx : Keeps s x => ?_) ?_ <;> [clear_value x; subst x]) | clear_value x)

theorem buttonFrame_keeps (h : Keeps s t) (a1) : Keeps s (buttonFrame a1 t) := by
  unfold buttonFrame
  repeat'
    first
    | intro _
    | with_reducible (first | assumption | apply authFail_keeps | apply buttonPress_keeps | apply ite_keeps)
    | split
    | (extract_lets +onlyGivenNames x; first | (refine (fun hx : Keeps s x => ?_) ?_ <;> [clear_value x; subst x]) | clear_value x)

theorem execButton_keeps (h : Keeps s t) (a1) : OutKeeps s (execButton a1 t) := by
  unfold execButton
  repeat'
    first
    | intro _
    | with_reducible (first | assumption | apply OutKeeps.next | apply noteSlice_keeps | apply buttonFrame_keeps | apply modRadio_keeps | apply ite_keeps)
    | split
    | (extract_lets +onlyGivenNames x; first | (refine (fun hx : Keeps s x => ?_) ?_ <;> [clear_value x; subst x]) | clear_value x)

theorem capEvent_keeps (h : Keeps s t) (a1) : Keeps s (capEvent a1 t) := by
  unfold capEvent
  repeat'
    first
    | intro _
    | with_reducible (first | assumption | apply modCap_keeps)

theorem modEl_keeps (h : Keeps s t) (a1) (a2) : Keeps s (modEl a1 a2 t) := by
  unfold modEl
  repeat'
    first
    | intro _
    | with_reducible (first | assumption | apply modCap_keeps)

theorem handleTouched_keeps (h : Keeps s t) (a1) : Keeps s (handleTouched a1 t) := by
  unfold handleTouched
  repeat'
    first
    | intro _
    | with_reducible (first | assumption | apply startHandle_keeps | apply modRadio_keeps | apply ite_keeps)
    | split

theorem touchStarts_keeps (h : Keeps s t) (a1) : Keeps s (touchStarts a1 t) := by
  unfold touchStarts
  repeat'
    first
    | intro _
    | with_reducible (first | assumption | apply modEl_keeps | apply capEvent_keeps | apply handleTouched_keeps | apply ite_keeps)
    | split
    | (extract_lets +onlyGivenNames x; first | (refine (fun hx : Keeps s x => ?_) ?_ <;> [clear_value x; subst x]) | clear_value x)

theorem scanTime_keeps (h : Keeps s t) (a1) : Keeps s (scanTime a1 t) := by
  unfold scanTime
  repeat'
    first
    | intro _
    | with_reducible (first | assumption | apply elapseTo_keeps)
    | split

theorem oneScan_keeps (h : Keeps s t) (a1) (a2) : Keeps s (oneScan a1 a2 t) := by
  unfold oneScan
  repeat'
    first
    | intro _
    | with_reducible (first | assumption | apply scanTime_keeps | apply modEl_keeps | apply touchStarts_keeps | apply ite_keeps)
    | split
    | (extract_lets +onlyGivenNames x; first | (refine (fun hx : Keeps s x => ?_) ?_ <;> [clear_value x; subst x]) | clear_value x)

theorem execCapacitiveTouch_keeps (h : Keeps s t) (a1) (a2) : OutKeeps s (execCapacitiveTouch a1 a2 t) := by
  unfold execCapacitiveTouch
  repeat'
    first
    | intro _
    | with_reducible (first | assumption | apply OutKeeps.next | apply each_keeps | apply oneScan_keeps)

theorem execTouchEnd_keeps (h : Keeps s t) (a1) : OutKeeps s (execTouchEnd a1 t) := by
  unfold execTouchEnd
  repeat'
    first
    | intro _
    | with_reducible (first | assumption | apply OutKeeps.next | apply each_keeps | apply oneScan_keeps)

theorem execElectrodeStuck_keeps (h : Keeps s t) (a1) : OutKeeps s (execElectrodeStuck a1 t) := by
  unfold execElectrodeStuck
  repeat'
    first
    | intro _
    | with_reducible (first | assumption | apply OutKeeps.next | apply elapseTo_keeps | apply capEvent_keeps | apply fault_keeps | apply modEl_keeps | apply ite_keeps)
    | split
    | (extract_lets +onlyGivenNames x; first | (refine (fun hx : Keeps s x => ?_) ?_ <;> [clear_value x; subst x]) | clear_value x)

theorem execElectrodeUnmask_keeps (h : Keeps s t) (a1) : OutKeeps s (execElectrodeUnmask a1 t) := by
  unfold execElectrodeUnmask
  repeat'
    first
    | intro _
    | with_reducible (first | assumption | apply OutKeeps.next | apply elapseTo_keeps | apply fault_keeps | apply modEl_keeps | apply ite_keeps)
    | split
    | (extract_lets +onlyGivenNames x; first | (refine (fun hx : Keeps s x => ?_) ?_ <;> [clear_value x; subst x]) | clear_value x)

theorem execCapGuardFault_keeps (h : Keeps s t) (a1) : OutKeeps s (execCapGuardFault a1 t) := by
  unfold execCapGuardFault
  repeat'
    first
    | intro _
    | with_reducible (first | assumption | apply OutKeeps.next | apply capEvent_keeps | apply each_keeps | apply outOfService_keeps | apply ite_keeps)
    | split
    | (extract_lets +onlyGivenNames x; first | (refine (fun hx : Keeps s x => ?_) ?_ <;> [clear_value x; subst x]) | clear_value x)

theorem sendBurst_keeps (h : Keeps s t) (a1) (a2) (a3) (a4) : Keeps s (sendBurst a1 a2 a3 a4 t) := by
  unfold sendBurst
  repeat'
    first
    | intro _
    | with_reducible (first | assumption | apply retryLocate_keeps | apply coexAnew_keeps | apply elapseToNs_keeps | apply pollEnds_keeps | apply endLocate_keeps | apply burstOut_keeps | apply countEmission_keeps | apply coexRaise_keeps | apply putPoll_keeps | apply uhfEvent_keeps | apply ite_keeps)
    | split
    | (extract_lets +onlyGivenNames x; first | (refine (fun hx : Keeps s x => ?_) ?_ <;> [clear_value x; subst x]) | clear_value x)

theorem execSoundBurst_keeps (h : Keeps s t) : OutKeeps s (execSoundBurst t) := by
  unfold execSoundBurst
  repeat'
    first
    | intro _
    | with_reducible (first | assumption | apply OutKeeps.next | apply retryLocate_keeps | apply putPoll_keeps | apply sendBurst_keeps | apply grantWindow_keeps | apply foldl_keeps | refine foldl_keeps ?_ (by with_reducible assumption) | apply ite_keeps)
    | split
    | (extract_lets +onlyGivenNames x; first | (refine (fun hx : Keeps s x => ?_) ?_ <;> [clear_value x; subst x]) | clear_value x)

theorem execReportTrigger_keeps (h : Keeps s t) : OutKeeps s (execReportTrigger t) := by
  unfold execReportTrigger
  repeat'
    first
    | intro _
    | with_reducible (first | assumption | apply OutKeeps.next | apply retryLocate_keeps | apply elapseToNs_keeps | apply putPoll_keeps | apply coexAnew_keeps | apply sendTrigger_keeps | apply uhfEvent_keeps | apply ite_keeps)
    | split
    | (extract_lets +onlyGivenNames x; first | (refine (fun hx : Keeps s x => ?_) ?_ <;> [clear_value x; subst x]) | clear_value x)

theorem reportFailed_keeps (h : Keeps s t) (a1) (a2) (a3) : Keeps s (reportFailed a1 a2 a3 t) := by
  unfold reportFailed
  repeat'
    first
    | intro _
    | with_reducible (first | assumption | apply authFail_keeps | apply pollEnds_keeps | apply endLocate_keeps | apply ite_keeps)
    | split
    | (extract_lets +onlyGivenNames x; first | (refine (fun hx : Keeps s x => ?_) ?_ <;> [clear_value x; subst x]) | clear_value x)

theorem execSoundReport_keeps (h : Keeps s t) (a1) : OutKeeps s (execSoundReport a1 t) := by
  unfold execSoundReport
  repeat'
    first
    | intro _
    | with_reducible (first | assumption | apply OutKeeps.next | apply recordTcnt_keeps | apply pollEnds_keeps | apply modRadio_keeps | apply atStage_keeps | apply reportFailed_keeps | apply ite_keeps)
    | split
    | (extract_lets +onlyGivenNames x; first | (refine (fun hx : Keeps s x => ?_) ?_ <;> [clear_value x; subst x]) | clear_value x)

theorem noteSnr_keeps (h : Keeps s t) (a1) : Keeps s (noteSnr a1 t) := by
  unfold noteSnr
  repeat'
    first
    | intro _
    | with_reducible (first | assumption | apply each_keeps | apply modRadio_keeps)

theorem locateDone_keeps (h : Keeps s t) (a1) (a2) (a3) (a4) (a5) (a6) (a7) : Keeps s (locateDone a1 a2 a3 a4 a5 a6 a7 t) := by
  unfold locateDone
  repeat'
    first
    | intro _
    | with_reducible (first | assumption | apply putTrack_keeps | apply tokenPassed_keeps | apply writeAndSettle_keeps | apply settle_keeps | apply ite_keeps)
    | split
    | (extract_lets +onlyGivenNames x; first | (refine (fun hx : Keeps s x => ?_) ?_ <;> [clear_value x; subst x]) | (refine (fun hx : Keeps s x.2 => ?_) ?_ <;> [clear_value x; subst x]) | (refine (fun hx : Keeps s x.1 => ?_) ?_ <;> [clear_value x; subst x]) | clear_value x)

theorem presencePassed_keeps (h : Keeps s t) (a1) (a2) (a3) (a4) : Keeps s (presencePassed a1 a2 a3 a4 t) := by
  unfold presencePassed
  repeat'
    first
    | intro _
    | with_reducible (first | assumption | apply putTrack_keeps | apply modRadio_keeps | apply tokenPassed_keeps)
    | split
    | (extract_lets +onlyGivenNames x; first | (refine (fun hx : Keeps s x => ?_) ?_ <;> [clear_value x; subst x]) | (refine (fun hx : Keeps s x.2 => ?_) ?_ <;> [clear_value x; subst x]) | (refine (fun hx : Keeps s x.1 => ?_) ?_ <;> [clear_value x; subst x]) | clear_value x)

theorem execPositionFit_keeps (h : Keeps s t) (a1) (a2) : OutKeeps s (execPositionFit a1 a2 t) := by
  unfold execPositionFit
  repeat'
    first
    | intro _
    | with_reducible (first | assumption | apply OutKeeps.next | apply modRadio_keeps | apply onlyIf_keeps | apply noteSnr_keeps | apply presencePassed_keeps | apply inconsistent_keeps | apply settle_keeps | apply locateDone_keeps | apply ite_keeps)
    | split
    | (extract_lets +onlyGivenNames x; first | (refine (fun hx : Keeps s x => ?_) ?_ <;> [clear_value x; subst x]) | clear_value x)

theorem execCoexGrant_keeps (h : Keeps s t) : OutKeeps s (execCoexGrant t) := by
  unfold execCoexGrant
  repeat'
    first
    | intro _
    | with_reducible (first | assumption | apply OutKeeps.next | apply putPoll_keeps | apply modRadio_keeps | apply ite_keeps)
    | split

theorem execCoexTimeout_keeps (h : Keeps s t) : OutKeeps s (execCoexTimeout t) := by
  unfold execCoexTimeout
  repeat'
    first
    | intro _
    | with_reducible (first | assumption | apply OutKeeps.next | apply elapseTo_keeps | apply uhfEvent_keeps | apply coexDrop_keeps | apply modRadio_keeps | apply onlyIf_keeps | apply startLocate_keeps | apply pollEnds_keeps | apply endLocate_keeps | apply presenceDeferred_keeps | apply ite_keeps)
    | split
    | (extract_lets +onlyGivenNames x; first | (refine (fun hx : Keeps s x => ?_) ?_ <;> [clear_value x; subst x]) | clear_value x)

theorem execCoexGrantFall_keeps (h : Keeps s t) (a1) : OutKeeps s (execCoexGrantFall a1 t) := by
  unfold execCoexGrantFall
  repeat'
    first
    | intro _
    | with_reducible (first | assumption | apply OutKeeps.next | apply modRadio_keeps | apply onlyIf_keeps | apply writeFault_keeps | apply modFlt_keeps | apply stopBurst_keeps | apply putPoll_keeps | apply ite_keeps)
    | split
    | (extract_lets +onlyGivenNames x; first | (refine (fun hx : Keeps s x => ?_) ?_ <;> [clear_value x; subst x]) | clear_value x)

theorem modUhfCh_keeps (h : Keeps s t) (a1) (a2) : Keeps s (modUhfCh a1 a2 t) := by
  unfold modUhfCh
  repeat'
    first
    | intro _
    | with_reducible (first | assumption | apply modRadio_keeps)

theorem chainOut_keeps (h : Keeps s t) : Keeps s (chainOut t) := by
  unfold chainOut
  repeat'
    first
    | intro _
    | with_reducible (first | assumption | apply restartSound_keeps | apply onlyIf_keeps | apply passiveEnds_keeps)

theorem execUhfPowerCorrection_keeps (h : Keeps s t) (a1) (a2) : OutKeeps s (execUhfPowerCorrection a1 a2 t) := by
  unfold execUhfPowerCorrection
  repeat'
    first
    | intro _
    | with_reducible (first | assumption | apply OutKeeps.next | apply setDieTemp_keeps | apply each_keeps | apply modUhfCh_keeps | apply chainOut_keeps | apply uhfEvent_keeps | apply outOfService_keeps | apply fault_keeps | apply ite_keeps)
    | split
    | (extract_lets +onlyGivenNames x; first | (refine (fun hx : Keeps s x => ?_) ?_ <;> [clear_value x; subst x]) | clear_value x)

theorem execSynthFault_keeps (h : Keeps s t) (a1) : OutKeeps s (execSynthFault a1 t) := by
  unfold execSynthFault
  repeat'
    first
    | intro _
    | with_reducible (first | assumption | apply OutKeeps.next | apply restartSound_keeps | apply uhfEvent_keeps | apply outOfService_keeps | apply ite_keeps)
    | split
    | (extract_lets +onlyGivenNames x; first | (refine (fun hx : Keeps s x => ?_) ?_ <;> [clear_value x; subst x]) | clear_value x)

theorem execTrackAgeExpiry_keeps (h : Keeps s t) (a1) : OutKeeps s (execTrackAgeExpiry a1 t) := by
  unfold execTrackAgeExpiry
  repeat'
    first
    | intro _
    | with_reducible (first | assumption | apply OutKeeps.next | apply elapseTo_keeps | apply modRadio_keeps | apply ite_keeps)
    | split
    | (extract_lets +onlyGivenNames x; first | (refine (fun hx : Keeps s x => ?_) ?_ <;> [clear_value x; subst x]) | clear_value x)

theorem execLocate_keeps (h : Keeps s t) (a1) : OutKeeps s (execLocate a1 t) := by
  unfold execLocate
  repeat'
    first
    | intro _
    | with_reducible (first | assumption | apply OutKeeps.next | apply startOp_keeps | apply settle_keeps | apply modRadio_keeps | apply noteV_keeps | apply startLocate_keeps | apply ite_keeps)
    | split
    | (extract_lets +onlyGivenNames x; first | (refine (fun hx : Keeps s x => ?_) ?_ <;> [clear_value x; subst x]) | clear_value x)

theorem execTrackRead_keeps (h : Keeps s t) (a1) (a2) : OutKeeps s (execTrackRead a1 a2 t) := by
  unfold execTrackRead
  repeat'
    first
    | intro _
    | with_reducible (first | assumption | apply OutKeeps.next | apply startOp_keeps | apply writeAndSettle_keeps)
    | split
    | (extract_lets +onlyGivenNames x; first | (refine (fun hx : Keeps s x => ?_) ?_ <;> [clear_value x; subst x]) | clear_value x)

theorem execNearEnrol_keeps (h : Keeps s t) (a1) : OutKeeps s (execNearEnrol a1 t) := by
  unfold execNearEnrol
  repeat'
    first
    | intro _
    | with_reducible (first | assumption | apply OutKeeps.next | apply keyOp_keeps | apply settle_keeps | apply lfEvent_keeps | apply keyRelease_keeps | apply modRadio_keeps | apply ite_keeps)
    | split
    | (extract_lets +onlyGivenNames x; first | (refine (fun hx : Keeps s x => ?_) ?_ <;> [clear_value x; subst x]) | (refine (fun hx : Keeps s x.2 => ?_) ?_ <;> [clear_value x; subst x]) | (refine (fun hx : Keeps s x.1 => ?_) ?_ <;> [clear_value x; subst x]) | clear_value x)

theorem execNearRemove_keeps (h : Keeps s t) (a1) : OutKeeps s (execNearRemove a1 t) := by
  unfold execNearRemove
  repeat'
    first
    | intro _
    | with_reducible (first | assumption | apply OutKeeps.next | apply startOp_keeps | apply settle_keeps | apply nearRemove_keeps | apply ite_keeps)
    | split
    | (extract_lets +onlyGivenNames x; first | (refine (fun hx : Keeps s x => ?_) ?_ <;> [clear_value x; subst x]) | clear_value x)

theorem execNearRead_keeps (h : Keeps s t) (a1) (a2) : OutKeeps s (execNearRead a1 a2 t) := by
  unfold execNearRead
  repeat'
    first
    | intro _
    | with_reducible (first | assumption | apply OutKeeps.next | apply startOp_keeps | apply writeAndSettle_keeps)
    | split
    | (extract_lets +onlyGivenNames x; first | (refine (fun hx : Keeps s x => ?_) ?_ <;> [clear_value x; subst x]) | clear_value x)

theorem execZoneRead_keeps (h : Keeps s t) (a1) (a2) : OutKeeps s (execZoneRead a1 a2 t) := by
  unfold execZoneRead
  repeat'
    first
    | intro _
    | with_reducible (first | assumption | apply OutKeeps.next | apply startOp_keeps | apply settle_keeps | apply writeAndSettle_keeps | apply ite_keeps)
    | split
    | (extract_lets +onlyGivenNames x; first | (refine (fun hx : Keeps s x => ?_) ?_ <;> [clear_value x; subst x]) | clear_value x)

theorem nfcEvent_keeps (h : Keeps s t) (a1) : Keeps s (nfcEvent a1 t) := by
  unfold nfcEvent
  repeat'
    first
    | intro _
    | with_reducible (first | assumption | apply modNfc_keeps)

theorem modReader_keeps (h : Keeps s t) (a1) (a2) : Keeps s (modReader a1 a2 t) := by
  unfold modReader
  repeat'
    first
    | intro _
    | with_reducible (first | assumption | apply modNfc_keeps)

theorem dropXchg_keeps (h : Keeps s t) (a1) : Keeps s (dropXchg a1 t) := by
  unfold dropXchg
  repeat'
    first
    | intro _
    | with_reducible (first | assumption | apply modNfc_keeps)

theorem putXchg_keeps (h : Keeps s t) (a1) : Keeps s (putXchg a1 t) := by
  unfold putXchg
  repeat'
    first
    | intro _
    | with_reducible (first | assumption | apply modNfc_keeps)

theorem readerRequest_keeps (h : Keeps s t) (a1) (a2) (a3) : Keeps s (readerRequest a1 a2 a3 t) := by
  unfold readerRequest
  repeat'
    first
    | intro _
    | with_reducible (first | assumption | apply sendData_keeps | apply modNfc_keeps)
    | split
    | (extract_lets +onlyGivenNames x; first | (refine (fun hx : Keeps s x => ?_) ?_ <;> [clear_value x; subst x]) | clear_value x)

theorem carrierOn_keeps (h : Keeps s t) (a1) : Keeps s (carrierOn a1 t) := by
  unfold carrierOn
  repeat'
    first
    | intro _
    | with_reducible (first | assumption | apply elapseTo_keeps | apply elapseNs_keeps | apply modReader_keeps | apply ite_keeps)
    | split
    | (extract_lets +onlyGivenNames x; first | (refine (fun hx : Keeps s x => ?_) ?_ <;> [clear_value x; subst x]) | clear_value x)

theorem sendAct_keeps (h : Keeps s t) (a1) (a2) (a3) : Keeps s (sendAct a1 a2 a3 t) := by
  unfold sendAct
  repeat'
    first
    | intro _
    | with_reducible (first | assumption | apply putXchg_keeps | apply emit_keeps)

theorem beginSearch_keeps (h : Keeps s t) (a1) : Keeps s (beginSearch a1 t) := by
  unfold beginSearch
  repeat'
    first
    | intro _
    | with_reducible (first | assumption | apply carrierOn_keeps | apply sendAct_keeps)
    | split
    | (extract_lets +onlyGivenNames x; first | (refine (fun hx : Keeps s x => ?_) ?_ <;> [clear_value x; subst x]) | clear_value x)

theorem activateCard_keeps (h : Keeps s t) (a1) (a2) : Keeps s (activateCard a1 a2 t) := by
  unfold activateCard
  repeat'
    first
    | intro _
    | with_reducible (first | assumption | apply beginSearch_keeps | apply onlyIf_keeps | apply emit_keeps | apply putXchg_keeps | apply readerRequest_keeps | apply ite_keeps)
    | split
    | (extract_lets +onlyGivenNames x; first | (refine (fun hx : Keeps s x => ?_) ?_ <;> [clear_value x; subst x]) | clear_value x)

theorem sendBlock_keeps (h : Keeps s t) (a1) (a2) : Keeps s (sendBlock a1 a2 t) := by
  unfold sendBlock
  repeat'
    first
    | intro _
    | with_reducible (first | assumption | apply putXchg_keeps | apply emit_keeps)
    | split

theorem sendApdu_keeps (h : Keeps s t) (a1) (a2) (a3) : Keeps s (sendApdu a1 a2 a3 t) := by
  unfold sendApdu
  repeat'
    first
    | intro _
    | with_reducible (first | assumption | apply sendBlock_keeps | apply putXchg_keeps | apply readerRequest_keeps | apply ite_keeps)
    | split
    | (extract_lets +onlyGivenNames x; first | (refine (fun hx : Keeps s x => ?_) ?_ <;> [clear_value x; subst x]) | clear_value x)

theorem carrierOff_keeps (h : Keeps s t) (a1) (a2) : Keeps s (carrierOff a1 a2 t) := by
  unfold carrierOff
  repeat'
    first
    | intro _
    | with_reducible (first | assumption | apply emit_keeps | apply modReader_keeps | apply readerRequest_keeps | apply ite_keeps)
    | split

theorem readersOff_keeps (h : Keeps s t) : Keeps s (readersOff t) := by
  unfold readersOff
  repeat'
    first
    | intro _
    | with_reducible (first | assumption | apply modNfc_keeps | apply each_keeps | apply carrierOff_keeps | apply ite_keeps)
    | split

theorem endXchg_keeps (h : Keeps s t) (a1) (a2) : Keeps s (endXchg a1 a2 t) := by
  unfold endXchg
  repeat'
    first
    | intro _
    | with_reducible (first | assumption | apply settle_keeps | apply dropXchg_keeps | apply carrierOff_keeps)

theorem sealRecord_keeps (h : Keeps s t) (a1) (a2) (a3) (a4) : Keeps s (sealRecord a1 a2 a3 a4 t) := by
  unfold sealRecord
  repeat'
    first
    | intro _
    | with_reducible (first | assumption | apply logPart_keeps)

theorem nodeAnswer_keeps (h : Keeps s t) (a1) (a2) (a3) : Keeps s (nodeAnswer a1 a2 a3 t) := by
  unfold nodeAnswer
  repeat'
    first
    | intro _
    | with_reducible (first | assumption | apply sendData_keeps | apply dropXchg_keeps)

theorem endLost_keeps (h : Keeps s t) (a1) (a2) (a3) : Keeps s (endLost a1 a2 a3 t) := by
  unfold endLost
  repeat'
    first
    | intro _
    | with_reducible (first | assumption | apply carrierOff_keeps | apply nodeAnswer_keeps | apply dropXchg_keeps | apply settle_keeps | apply sealRecord_keeps | apply ite_keeps)
    | split
    | (extract_lets +onlyGivenNames x; first | (refine (fun hx : Keeps s x => ?_) ?_ <;> [clear_value x; subst x]) | clear_value x)

theorem cardLost_keeps (h : Keeps s t) (a1) : Keeps s (cardLost a1 t) := by
  unfold cardLost
  repeat'
    first
    | intro _
    | with_reducible (first | assumption | apply endLost_keeps)

theorem ceilingHit_keeps (h : Keeps s t) (a1) : Keeps s (ceilingHit a1 t) := by
  unfold ceilingHit
  repeat'
    first
    | intro _
    | with_reducible (first | assumption | apply nfcEvent_keeps | apply nodeAnswer_keeps | apply carrierOff_keeps | apply endLost_keeps | apply ite_keeps)
    | split

theorem unitLost_keeps (h : Keeps s t) (a1) : Keeps s (unitLost a1 t) := by
  unfold unitLost
  repeat'
    first
    | intro _
    | with_reducible (first | assumption | apply each_keeps | apply cardLost_keeps)

theorem readerLost_keeps (h : Keeps s t) (a1) : Keeps s (readerLost a1 t) := by
  unfold readerLost
  repeat'
    first
    | intro _
    | with_reducible (first | assumption | apply each_keeps | apply cardLost_keeps)

theorem cardRan_keeps (h : Keeps s t) (a1) : Keeps s (cardRan a1 t) := by
  unfold cardRan
  repeat'
    first
    | intro _
    | with_reducible (first | assumption | apply pkeRan_keeps)
    | split

theorem cardAnswer_keeps (h : Keeps s t) (a1) (a2) (a3) (a4) (a5) : Keeps s (cardAnswer a1 a2 a3 a4 a5 t) := by
  unfold cardAnswer
  repeat'
    first
    | intro _
    | with_reducible (first | assumption | apply endXchg_keeps | apply cardRan_keeps | apply dropXchg_keeps | apply carrierOff_keeps | apply settle_keeps | apply writeAndSettle_keeps | apply activateCard_keeps | apply ite_keeps)
    | split
    | (extract_lets +onlyGivenNames x; first | (refine (fun hx : Keeps s x => ?_) ?_ <;> [clear_value x; subst x]) | (refine (fun hx : Keeps s x.2 => ?_) ?_ <;> [clear_value x; subst x]) | (refine (fun hx : Keeps s x.1 => ?_) ?_ <;> [clear_value x; subst x]) | clear_value x)

theorem scanDone_keeps (h : Keeps s t) (a1) (a2) (a3) : Keeps s (scanDone a1 a2 a3 t) := by
  unfold scanDone
  repeat'
    first
    | intro _
    | with_reducible (first | assumption | apply dropXchg_keeps | apply carrierOff_keeps | apply writeAndSettle_keeps)
    | split
    | (extract_lets +onlyGivenNames x; first | (refine (fun hx : Keeps s x => ?_) ?_ <;> [clear_value x; subst x]) | clear_value x)

theorem tagBlocked_keeps (h : Keeps s t) (a1) : Keeps s (tagBlocked a1 t) := by
  unfold tagBlocked
  repeat'
    first
    | intro _
    | with_reducible (first | assumption | apply endXchg_keeps | apply nfcEvent_keeps)

theorem sendChange_keeps (h : Keeps s t) (a1) (a2) : Keeps s (sendChange a1 a2 t) := by
  unfold sendChange
  repeat'
    first
    | intro _
    | with_reducible (first | assumption | apply logRec_keeps | apply sendApdu_keeps | apply endXchg_keeps | apply ite_keeps)
    | split
    | (extract_lets +onlyGivenNames x; first | (refine (fun hx : Keeps s x => ?_) ?_ <;> [clear_value x; subst x]) | clear_value x)

theorem sealCommand_keeps (h : Keeps s t) (a1) (a2) : Keeps s (sealCommand a1 a2 t) := by
  unfold sealCommand
  repeat'
    first
    | intro _
    | with_reducible (first | assumption | apply sendApdu_keeps | apply sendChange_keeps | apply ite_keeps)
    | split

theorem infoAnswer_keeps (h : Keeps s t) (a1) (a2) (a3) (a4) (a5) : Keeps s (infoAnswer a1 a2 a3 a4 a5 t) := by
  unfold infoAnswer
  repeat'
    first
    | intro _
    | with_reducible (first | assumption | apply activateCard_keeps | apply onlyIf_keeps | apply nfcEvent_keeps | apply sealRecord_keeps | apply scanDone_keeps | apply sealCommand_keeps | apply endXchg_keeps | apply sendApdu_keeps | apply drew_keeps | apply ite_keeps)
    | split
    | (extract_lets +onlyGivenNames x; first | (refine (fun hx : Keeps s x => ?_) ?_ <;> [clear_value x; subst x]) | clear_value x)

theorem auth1Answer_keeps (h : Keeps s t) (a1) (a2) (a3) (a4) : Keeps s (auth1Answer a1 a2 a3 a4 t) := by
  unfold auth1Answer
  repeat'
    first
    | intro _
    | with_reducible (first | assumption | apply sendApdu_keeps | apply tagBlocked_keeps | apply activateCard_keeps | apply nfcEvent_keeps | apply endXchg_keeps | apply ite_keeps)
    | split
    | (extract_lets +onlyGivenNames x; first | (refine (fun hx : Keeps s x => ?_) ?_ <;> [clear_value x; subst x]) | clear_value x)

theorem auth2Answer_keeps (h : Keeps s t) (a1) (a2) (a3) : Keeps s (auth2Answer a1 a2 a3 t) := by
  unfold auth2Answer
  repeat'
    first
    | intro _
    | with_reducible (first | assumption | apply sealCommand_keeps | apply tagBlocked_keeps | apply endXchg_keeps | apply ite_keeps)
    | split

theorem changeAnswer_keeps (h : Keeps s t) (a1) (a2) (a3) (a4) : Keeps s (changeAnswer a1 a2 a3 a4 t) := by
  unfold changeAnswer
  repeat'
    first
    | intro _
    | with_reducible (first | assumption | apply tagBlocked_keeps | apply endXchg_keeps | apply sealRecord_keeps | apply tryLog_keeps | apply cardLost_keeps | apply ite_keeps)
    | split
    | (extract_lets +onlyGivenNames x; first | (refine (fun hx : Keeps s x => ?_) ?_ <;> [clear_value x; subst x]) | clear_value x)

theorem logAnswer_keeps (h : Keeps s t) (a1) (a2) (a3) (a4) (a5) : Keeps s (logAnswer a1 a2 a3 a4 a5 t) := by
  unfold logAnswer
  repeat'
    first
    | intro _
    | with_reducible (first | assumption | apply tagBlocked_keeps | apply endXchg_keeps | apply dropXchg_keeps | apply carrierOff_keeps | apply writeAndSettle_keeps | apply ite_keeps)
    | split
    | (extract_lets +onlyGivenNames x; first | (refine (fun hx : Keeps s x => ?_) ?_ <;> [clear_value x; subst x]) | clear_value x)

theorem noMoreCards_keeps (h : Keeps s t) (a1) (a2) (a3) : Keeps s (noMoreCards a1 a2 a3 t) := by
  unfold noMoreCards
  repeat'
    first
    | intro _
    | with_reducible (first | assumption | apply endXchg_keeps | apply activateCard_keeps | apply carrierOff_keeps | apply scanDone_keeps | apply ite_keeps)
    | split

theorem cardActive_keeps (h : Keeps s t) (a1) (a2) : Keeps s (cardActive a1 a2 t) := by
  unfold cardActive
  repeat'
    first
    | intro _
    | with_reducible (first | assumption | apply sendApdu_keeps | apply ite_keeps)
    | split

theorem apduAnswer_keeps (h : Keeps s t) (a1) (a2) (a3) (a4) (a5) : Keeps s (apduAnswer a1 a2 a3 a4 a5 t) := by
  unfold apduAnswer
  repeat'
    first
    | intro _
    | with_reducible (first | assumption | apply activateCard_keeps | apply endXchg_keeps | apply sendApdu_keeps | apply drew_keeps | apply cardAnswer_keeps | apply infoAnswer_keeps | apply auth1Answer_keeps | apply auth2Answer_keeps | apply changeAnswer_keeps | apply logAnswer_keeps | apply ite_keeps)
    | split
    | (extract_lets +onlyGivenNames x; first | (refine (fun hx : Keeps s x => ?_) ?_ <;> [clear_value x; subst x]) | clear_value x)

theorem pollOver_keeps (h : Keeps s t) (a1) : Keeps s (pollOver a1 t) := by
  unfold pollOver
  repeat'
    first
    | intro _
    | with_reducible (first | assumption | apply onlyIf_keeps | apply modReader_keeps | apply dropXchg_keeps | apply carrierOff_keeps)

theorem pollFound_keeps (h : Keeps s t) (a1) (a2) : Keeps s (pollFound a1 a2 t) := by
  unfold pollFound
  repeat'
    first
    | intro _
    | with_reducible (first | assumption | apply activateCard_keeps | apply nfcEvent_keeps | apply modNfc_keeps)

theorem searchOver_keeps (h : Keeps s t) (a1) (a2) : Keeps s (searchOver a1 a2 t) := by
  unfold searchOver
  repeat'
    first
    | intro _
    | with_reducible (first | assumption | apply noMoreCards_keeps | apply nodeAnswer_keeps | apply carrierOff_keeps | apply pollOver_keeps | apply ite_keeps)
    | split

theorem activated_keeps (h : Keeps s t) (a1) (a2) : Keeps s (activated a1 a2 t) := by
  unfold activated
  repeat'
    first
    | intro _
    | with_reducible (first | assumption | apply modReader_keeps | apply nodeAnswer_keeps | apply cardActive_keeps | apply onlyIf_keeps | apply elapseNs_keeps | apply ite_keeps)
    | split
    | (extract_lets +onlyGivenNames x; first | (refine (fun hx : Keeps s x => ?_) ?_ <;> [clear_value x; subst x]) | clear_value x)

theorem actAnswer_keeps (h : Keeps s t) (a1) (a2) (a3) : Keeps s (actAnswer a1 a2 a3 t) := by
  unfold actAnswer
  repeat'
    first
    | intro _
    | with_reducible (first | assumption | apply sendAct_keeps | apply beginSearch_keeps | apply emit_keeps | apply activated_keeps | apply searchOver_keeps)
    | split

theorem blockMissing_keeps (h : Keeps s t) (a1) : Keeps s (blockMissing a1 t) := by
  unfold blockMissing
  repeat'
    first
    | intro _
    | with_reducible (first | assumption | apply ceilingHit_keeps | apply putXchg_keeps | apply emit_keeps | apply cardLost_keeps | apply ite_keeps)
    | split

theorem wholeAnswer_keeps (h : Keeps s t) (a1) (a2) (a3) (a4) : Keeps s (wholeAnswer a1 a2 a3 a4 t) := by
  unfold wholeAnswer
  repeat'
    first
    | intro _
    | with_reducible (first | assumption | apply apduAnswer_keeps | apply nodeAnswer_keeps | apply sendApdu_keeps | apply pollFound_keeps | apply ite_keeps)
    | split

theorem exchangeBlock_keeps (h : Keeps s t) (a1) (a2) (a3) : Keeps s (exchangeBlock a1 a2 a3 t) := by
  unfold exchangeBlock
  repeat'
    first
    | intro _
    | with_reducible (first | assumption | apply blockMissing_keeps | apply sendBlock_keeps | apply putXchg_keeps | apply emit_keeps | apply wholeAnswer_keeps | apply cardLost_keeps | apply ite_keeps)
    | split

theorem remoteAnswer_keeps (h : Keeps s t) (a1) (a2) (a3) (a4) : Keeps s (remoteAnswer a1 a2 a3 a4 t) := by
  unfold remoteAnswer
  repeat'
    first
    | intro _
    | with_reducible (first | assumption | apply cardActive_keeps | apply noMoreCards_keeps | apply cardLost_keeps | apply apduAnswer_keeps | apply ceilingHit_keeps | apply endLost_keeps | apply ite_keeps)
    | split

theorem execCardResponse_keeps (h : Keeps s t) (a1) (a2) (a3) : OutKeeps s (execCardResponse a1 a2 a3 t) := by
  unfold execCardResponse
  repeat'
    first
    | intro _
    | with_reducible (first | assumption | apply OutKeeps.next | apply actAnswer_keeps | apply exchangeBlock_keeps | apply remoteAnswer_keeps | apply ite_keeps)
    | split

theorem execWtxRequest_keeps (h : Keeps s t) (a1) (a2) : OutKeeps s (execWtxRequest a1 a2 t) := by
  unfold execWtxRequest
  repeat'
    first
    | intro _
    | with_reducible (first | assumption | apply OutKeeps.next | apply blockMissing_keeps | apply elapseNs_keeps | apply ceilingHit_keeps | apply putXchg_keeps | apply emit_keeps | apply ite_keeps)
    | split
    | (extract_lets +onlyGivenNames x; first | (refine (fun hx : Keeps s x => ?_) ?_ <;> [clear_value x; subst x]) | clear_value x)

theorem execFrameWaitExpiry_keeps (h : Keeps s t) (a1) : OutKeeps s (execFrameWaitExpiry a1 t) := by
  unfold execFrameWaitExpiry
  repeat'
    first
    | intro _
    | with_reducible (first | assumption | apply OutKeeps.next | apply elapseTo_keeps | apply actAnswer_keeps | apply blockMissing_keeps | apply ite_keeps)
    | split
    | (extract_lets +onlyGivenNames x; first | (refine (fun hx : Keeps s x => ?_) ?_ <;> [clear_value x; subst x]) | clear_value x)

theorem readerOut_keeps (h : Keeps s t) (a1) (a2) : Keeps s (readerOut a1 a2 t) := by
  unfold readerOut
  repeat'
    first
    | intro _
    | with_reducible (first | assumption | apply nfcEvent_keeps | apply outOfService_keeps | apply modReader_keeps | apply fault_keeps | apply readerLost_keeps)

theorem detTime_keeps (h : Keeps s t) (a1) : Keeps s (detTime a1 t) := by
  unfold detTime
  repeat'
    first
    | intro _
    | with_reducible (first | assumption | apply elapseTo_keeps)
    | split

theorem execNfcDetection_keeps (h : Keeps s t) (a1) (a2) (a3) (a4) (a5) : OutKeeps s (execNfcDetection a1 a2 a3 a4 a5 t) := by
  unfold execNfcDetection
  repeat'
    first
    | intro _
    | with_reducible (first | assumption | apply OutKeeps.next | apply detTime_keeps | apply emit_keeps | apply readerOut_keeps | apply modReader_keeps | apply activateCard_keeps | apply ite_keeps)
    | split
    | (extract_lets +onlyGivenNames x; first | (refine (fun hx : Keeps s x => ?_) ?_ <;> [clear_value x; subst x]) | clear_value x)

theorem execReaderRetry_keeps (h : Keeps s t) (a1) (a2) : OutKeeps s (execReaderRetry a1 a2 t) := by
  unfold execReaderRetry
  repeat'
    first
    | intro _
    | with_reducible (first | assumption | apply OutKeeps.next | apply elapseTo_keeps | apply backInService_keeps | apply modReader_keeps | apply fault_keeps | apply ite_keeps)
    | split
    | (extract_lets +onlyGivenNames x; first | (refine (fun hx : Keeps s x => ?_) ?_ <;> [clear_value x; subst x]) | clear_value x)

theorem nfcStart_keeps (h : Keeps s t) (a1) (a2) (f1 : _ → _ → State → State) (hf1 : ∀ a b {t}, Keeps s t → Keeps s (f1 a b t)) : Keeps s (nfcStart a1 a2 f1 t) := by
  unfold nfcStart
  repeat'
    first
    | intro _
    | with_reducible (first | assumption | apply hf1 | apply startOp_keeps | apply settle_keeps | apply ite_keeps)
    | split

theorem execCardAuth_keeps (h : Keeps s t) (a1) : OutKeeps s (execCardAuth a1 t) := by
  unfold execCardAuth
  repeat'
    first
    | intro _
    | with_reducible (first | assumption | apply OutKeeps.next | apply nfcStart_keeps | apply activateCard_keeps)

theorem execSealScan_keeps (h : Keeps s t) (a1) : OutKeeps s (execSealScan a1 t) := by
  unfold execSealScan
  repeat'
    first
    | intro _
    | with_reducible (first | assumption | apply OutKeeps.next | apply nfcStart_keeps | apply activateCard_keeps)

theorem sealStart_keeps (h : Keeps s t) (a1) (a2) : Keeps s (sealStart a1 a2 t) := by
  unfold sealStart
  repeat'
    first
    | intro _
    | with_reducible (first | assumption | apply nfcStart_keeps | apply settle_keeps | apply activateCard_keeps | apply ite_keeps)
    | split

theorem execSealSecure_keeps (h : Keeps s t) (a1) : OutKeeps s (execSealSecure a1 t) := by
  unfold execSealSecure
  repeat'
    first
    | intro _
    | with_reducible (first | assumption | apply OutKeeps.next | apply sealStart_keeps)

theorem execSealOpen_keeps (h : Keeps s t) (a1) : OutKeeps s (execSealOpen a1 t) := by
  unfold execSealOpen
  repeat'
    first
    | intro _
    | with_reducible (first | assumption | apply OutKeeps.next | apply sealStart_keeps)

theorem execSealRead_keeps (h : Keeps s t) (a1) : OutKeeps s (execSealRead a1 t) := by
  unfold execSealRead
  repeat'
    first
    | intro _
    | with_reducible (first | assumption | apply OutKeeps.next | apply sealStart_keeps)

theorem execCapRead_keeps (h : Keeps s t) (a1) (a2) : OutKeeps s (execCapRead a1 a2 t) := by
  unfold execCapRead
  repeat'
    first
    | intro _
    | with_reducible (first | assumption | apply OutKeeps.next | apply startOp_keeps | apply writeAndSettle_keeps)

theorem retireLane_keeps (h : Keeps s t) (a1) (a2) (a3) : Keeps s (retireLane a1 a2 a3 t) := by
  unfold retireLane
  repeat'
    first
    | intro _
    | with_reducible (first | assumption | apply modLane_keeps | apply changeUnit_keeps)
    | split
    | (extract_lets +onlyGivenNames x; first | (refine (fun hx : Keeps s x => ?_) ?_ <;> [clear_value x; subst x]) | clear_value x)

theorem wakeLane_keeps (h : Keeps s t) : Keeps s (wakeLane t) := by
  unfold wakeLane
  repeat'
    first
    | intro _
    | with_reducible (first | assumption | apply modLane_keeps)
    | split

theorem moveWork_keeps {s t : State} (h : Keeps s t) (a1) : Keeps s (moveWork a1 t) := by
  unfold moveWork
  split
  · extract_lets s1
    have h1 : Keeps s s1 := modFlight_keeps h _ _ fun x => by split <;> simp_all [sameAcceptance]
    exact ite_keeps (restartPoll_keeps h1) h1
  · exact h

theorem execLaneFault_keeps (h : Keeps s t) (a1) (a2) : OutKeeps s (execLaneFault a1 a2 t) := by
  unfold execLaneFault
  repeat'
    first
    | intro _
    | with_reducible (first | assumption | apply OutKeeps.next | apply keyEvent_keeps | apply moveWork_keeps | apply modLane_keeps | apply fault_keeps | apply onlyIf_keeps | apply wakeLane_keeps | apply retireLane_keeps | apply changeUnit_keeps | apply ite_keeps)
    | split
    | (extract_lets +onlyGivenNames x; first | (refine (fun hx : Keeps s x => ?_) ?_ <;> [clear_value x; subst x]) | clear_value x)

theorem execLaneRetest_keeps (h : Keeps s t) (a1) (a2) : OutKeeps s (execLaneRetest a1 a2 t) := by
  unfold execLaneRetest
  repeat'
    first
    | intro _
    | with_reducible (first | assumption | apply OutKeeps.next | apply backInService_keeps | apply modLane_keeps | apply fault_keeps | apply retireLane_keeps | apply ite_keeps)
    | split

theorem execLaneOverheat_keeps (h : Keeps s t) (a1) : OutKeeps s (execLaneOverheat a1 t) := by
  unfold execLaneOverheat
  repeat'
    first
    | intro _
    | with_reducible (first | assumption | apply OutKeeps.next | apply onlyIf_keeps | apply wakeLane_keeps | apply changeUnit_keeps | apply modLane_keeps | apply fault_keeps | apply ite_keeps)
    | split

theorem execLaneCooled_keeps (h : Keeps s t) (a1) (a2) : OutKeeps s (execLaneCooled a1 a2 t) := by
  unfold execLaneCooled
  repeat'
    first
    | intro _
    | with_reducible (first | assumption | apply OutKeeps.next | apply modLane_keeps | apply backInService_keeps | apply fault_keeps | apply ite_keeps)
    | split
    | (extract_lets +onlyGivenNames x; first | (refine (fun hx : Keeps s x => ?_) ?_ <;> [clear_value x; subst x]) | clear_value x)

theorem execLockReq_keeps (h : Keeps s t) (a1) : OutKeeps s (execLockReq a1 t) := by
  unfold execLockReq
  repeat'
    first
    | intro _
    | with_reducible (first | assumption | apply OutKeeps.next | apply startOp_keeps | apply lockRequest_keeps | apply settle_keeps)
    | split
    | (extract_lets +onlyGivenNames x; first | (refine (fun hx : Keeps s x => ?_) ?_ <;> [clear_value x; subst x]) | clear_value x)

theorem execLockStatus_keeps (h : Keeps s t) (a1) (a2) : OutKeeps s (execLockStatus a1 a2 t) := by
  unfold execLockStatus
  repeat'
    first
    | intro _
    | with_reducible (first | assumption | apply OutKeeps.next | apply startOp_keeps | apply writeAndSettle_keeps)

theorem execArmHoldExpiry_keeps (h : Keeps s t) : OutKeeps s (execArmHoldExpiry t) := by
  unfold execArmHoldExpiry
  repeat'
    first
    | intro _
    | with_reducible (first | assumption | apply OutKeeps.next | apply elapseTo_keeps | apply moveLatch_keeps | apply ite_keeps)
    | split
    | (extract_lets +onlyGivenNames x; first | (refine (fun hx : Keeps s x => ?_) ?_ <;> [clear_value x; subst x]) | clear_value x)

theorem execIgnitionOffDebounce_keeps (h : Keeps s t) : OutKeeps s (execIgnitionOffDebounce t) := by
  unfold execIgnitionOffDebounce
  repeat'
    first
    | intro _
    | with_reducible (first | assumption | apply OutKeeps.next | apply modSlk_keeps | apply elapseTo_keeps | apply lockRequest_keeps | apply ite_keeps)
    | split
    | (extract_lets +onlyGivenNames x; first | (refine (fun hx : Keeps s x => ?_) ?_ <;> [clear_value x; subst x]) | clear_value x)

theorem execReleaseWindowExpiry_keeps (h : Keeps s t) : OutKeeps s (execReleaseWindowExpiry t) := by
  unfold execReleaseWindowExpiry
  repeat'
    first
    | intro _
    | with_reducible (first | assumption | apply OutKeeps.next | apply elapseToNs_keeps | apply elapseTo_keeps | apply modSlk_keeps | apply windowExpired_keeps | apply ite_keeps)
    | split
    | (extract_lets +onlyGivenNames x; first | (refine (fun hx : Keeps s x => ?_) ?_ <;> [clear_value x; subst x]) | clear_value x)

theorem execLockHoldExpiry_keeps (h : Keeps s t) : OutKeeps s (execLockHoldExpiry t) := by
  unfold execLockHoldExpiry
  repeat'
    first
    | intro _
    | with_reducible (first | assumption | apply OutKeeps.next | apply elapseTo_keeps | apply moveLatch_keeps | apply holdUpdate_keeps | apply ite_keeps)
    | split
    | (extract_lets +onlyGivenNames x; first | (refine (fun hx : Keeps s x => ?_) ?_ <;> [clear_value x; subst x]) | clear_value x)

theorem reconcileMove_keeps (h : Keeps s t) : Keeps s (reconcileMove t) := by
  unfold reconcileMove
  repeat'
    first
    | intro _
    | with_reducible (first | assumption | apply moveLatch_keeps | apply onlyIf_keeps | apply noRelease_keeps | apply startTimer_keeps | apply ite_keeps)
    | split
    | (extract_lets +onlyGivenNames x; first | (refine (fun hx : Keeps s x => ?_) ?_ <;> [clear_value x; subst x]) | clear_value x)

theorem retryCause_keeps (h : Keeps s t) (a1) : Keeps s (retryCause a1 t) := by
  unfold retryCause
  repeat'
    first
    | intro _
    | with_reducible (first | assumption | apply lockRequest_keeps | apply windowExpired_keeps | apply moveLatch_keeps | apply engineChange_keeps | apply reconcileMove_keeps | apply ite_keeps)
    | split
    | (extract_lets +onlyGivenNames x; first | (refine (fun hx : Keeps s x => ?_) ?_ <;> [clear_value x; subst x]) | clear_value x)

theorem execSlkLedgerRetry_keeps (h : Keeps s t) : OutKeeps s (execSlkLedgerRetry t) := by
  unfold execSlkLedgerRetry
  repeat'
    first
    | intro _
    | with_reducible (first | assumption | apply OutKeeps.next | apply each_keeps | apply retryCause_keeps | apply modSlk_keeps | apply elapseTo_keeps | apply ite_keeps)
    | split
    | (extract_lets +onlyGivenNames x; first | (refine (fun hx : Keeps s x => ?_) ?_ <;> [clear_value x; subst x]) | clear_value x)

theorem execStateFramePeriod_keeps (h : Keeps s t) : OutKeeps s (execStateFramePeriod t) := by
  unfold execStateFramePeriod
  repeat'
    first
    | intro _
    | with_reducible (first | assumption | apply OutKeeps.next | apply sendState_keeps | apply elapseTo_keeps | apply ite_keeps)
    | split

theorem execReconciliation_keeps (h : Keeps s t) : OutKeeps s (execReconciliation t) := by
  unfold execReconciliation
  repeat'
    first
    | intro _
    | with_reducible (first | assumption | apply OutKeeps.next | apply modSlk_keeps | apply elapseTo_keeps | apply reconcileMove_keeps | apply onlyIf_keeps | apply lockRequest_keeps | apply flagsCheck_keeps | apply ite_keeps)
    | split
    | (extract_lets +onlyGivenNames x; first | (refine (fun hx : Keeps s x => ?_) ?_ <;> [clear_value x; subst x]) | clear_value x)

theorem execCanBusOff_keeps (h : Keeps s t) (a1) : OutKeeps s (execCanBusOff a1 t) := by
  unfold execCanBusOff
  repeat'
    first
    | intro _
    | with_reducible (first | assumption | apply OutKeeps.next | apply modFlt_keeps | apply modSlk_keeps | apply fault_keeps | apply flagsCheck_keeps | apply onlyIf_keeps | apply slkEvent_keeps | apply ite_keeps)
    | split
    | (extract_lets +onlyGivenNames x; first | (refine (fun hx : Keeps s x => ?_) ?_ <;> [clear_value x; subst x]) | clear_value x)

theorem execCanBusoffRecovery_keeps (h : Keeps s t) (a1) : OutKeeps s (execCanBusoffRecovery a1 t) := by
  unfold execCanBusoffRecovery
  repeat'
    first
    | intro _
    | with_reducible (first | assumption | apply OutKeeps.next | apply elapseTo_keeps | apply flagsCheck_keeps | apply modFlt_keeps | apply modSlk_keeps)
    | split
    | (extract_lets +onlyGivenNames x; first | (refine (fun hx : Keeps s x => ?_) ?_ <;> [clear_value x; subst x]) | clear_value x)

theorem execCanPortReturn_keeps (h : Keeps s t) (a1) : OutKeeps s (execCanPortReturn a1 t) := by
  unfold execCanPortReturn
  repeat'
    first
    | intro _
    | with_reducible (first | assumption | apply OutKeeps.next | apply flagsCheck_keeps | apply modSlk_keeps | apply elapseTo_keeps)
    | split

theorem execSlkMismatch_keeps (h : Keeps s t) (a1) (a2) : OutKeeps s (execSlkMismatch a1 a2 t) := by
  unfold execSlkMismatch
  repeat'
    first
    | intro _
    | with_reducible (first | assumption | apply OutKeeps.next | apply writeFault_keeps | apply modFlt_keeps | apply fault_keeps | apply ite_keeps)
    | split
    | (extract_lets +onlyGivenNames x; first | (refine (fun hx : Keeps s x => ?_) ?_ <;> [clear_value x; subst x]) | clear_value x)

end Sys2Proof.Machine
end

