-- ==== Sys2Proof/Laws/KeepsWrits.lean ====
section
/-! SUPPORT. What the operations of Writs, UpdOps, IflLink, Update keep (Safety.Keeps), one lemma each, in the order of their definitions. -/

set_option linter.unusedTactic false
set_option linter.unreachableTactic false
set_option linter.unusedSimpArgs false

namespace Sys2Proof.Machine

variable {s t : State}

theorem writSigned_keeps {s t : State} (h : Keeps s t) (a1) (a2) : Keeps s (writSigned a1 a2 t).2 := by
  induction a2 generalizing t with
  | nil => exact h
  | cons b l ih =>
    unfold writSigned
    extract_lets c
    split
    · exact ih (pkeRan_keeps h _)
    · exact pkeRan_keeps h _

theorem markGone_keeps (h : Keeps s t) (a1) : Keeps s (markGone a1 t) := by
  unfold markGone
  repeat'
    first
    | intro _
    | with_reducible (first | assumption | apply each_keeps | apply onlyIf_keeps | apply modFunc_keeps)
    | split
    | (extract_lets +onlyGivenNames x; first | (refine (fun hx : Keeps s x => ?_) ?_ <;> [clear_value x; subst x]) | clear_value x)

theorem installSetup_keeps (h : Keeps s t) (a1) : Keeps s (installSetup a1 t) := by
  unfold installSetup
  repeat'
    first
    | (show (_ : Nat) = _; first | rfl | exact length_modAt _ _ _ | simp only [List.length_map, length_modAt, List.length_zipIdx])
    | (show (_ : Nat) ≤ _; first | exact Nat.le_refl _ | simp)
    | (show FlightsKept _ _; first | exact FlightsKept.refl _ | exact flightsKept_append _ _)
    | intro _
    | with_reducible (first | assumption | apply markGone_keeps | apply settleBuckets_keeps | apply modSlc_keeps | apply modHost_keeps | apply modPwr_keeps | apply each_keeps | apply drainRing_keeps | apply closeHandlesOf_keeps)
    | split
    | (extract_lets +onlyGivenNames x; first | (refine (fun hx : Keeps s x => ?_) ?_ <;> [clear_value x; subst x]) | (refine (fun hx : Keeps s x.2 => ?_) ?_ <;> [clear_value x; subst x]) | (refine (fun hx : Keeps s x.1 => ?_) ?_ <;> [clear_value x; subst x]) | clear_value x)

theorem applyDebug_keeps (h : Keeps s t) (a1) : Keeps s (applyDebug a1 t) := by
  unfold applyDebug
  repeat'
    first
    | intro _
    | with_reducible (first | assumption | apply closeDebug_keeps | apply onlyIf_keeps | apply enterService_keeps | apply modFlt_keeps | apply ite_keeps)
    | split
    | (extract_lets +onlyGivenNames x; first | (refine (fun hx : Keeps s x => ?_) ?_ <;> [clear_value x; subst x]) | clear_value x)

theorem writEffect_keeps (h : Keeps s t) (a1) : Keeps s (writEffect a1 t) := by
  unfold writEffect
  repeat'
    first
    | (show (_ : Nat) = _; first | rfl | exact length_modAt _ _ _ | simp only [List.length_map, length_modAt, List.length_zipIdx])
    | intro _
    | with_reducible (first | assumption | apply installSetup_keeps | apply applyDebug_keeps | apply flagsCheck_keeps | apply modSlk_keeps | apply modRadio_keeps | apply lockWatch_keeps | apply modClk_keeps | apply ite_keeps)
    | split
    | (extract_lets +onlyGivenNames x; first | (refine (fun hx : Keeps s x => ?_) ?_ <;> [clear_value x; subst x]) | clear_value x)

theorem writFail_keeps (h : Keeps s t) (a1) (a2) : Keeps s (writFail a1 a2 t) := by
  unfold writFail
  repeat'
    first
    | intro _
    | with_reducible (first | assumption | apply settle_keeps)

theorem writRun_keeps {s t : State} (h : Keeps s t) (a1) (a2) (a3) (f1 : Bytes → State → State)
    (hf1 : ∀ a {t}, Keeps s t → Keeps s (f1 a t)) : Keeps s (writRun a1 a2 a3 f1 t) := by
  unfold writRun
  split
  · exact writFail_keeps h _ _
  · split
    · exact writFail_keeps h _ _
    · rename_i w _ _ _
      have k := writSigned_keeps h w (sigBlocks w)
      generalize writSigned w (sigBlocks w) t = p at k
      obtain ⟨g, u⟩ := p
      dsimp only
      split
      · exact writFail_keeps k _ _
      · have k := atStage_keeps k a1 0x01 0
        split
        · exact writFail_keeps k _ _
        · split
          · exact writFail_keeps k _ _
          · exact hf1 _ k

theorem writCommit_keeps {s t : State} (h : Keeps s t) (a1) (a2) : Keeps s (writCommit a1 a2 t) := by
  unfold writCommit
  extract_lets e w
  clear_value w
  refine atStage_keeps (writEffect_keeps (modSlc_keeps_at (logRec_keeps (logRec_keeps h _) _) _ ?_) _) _ _ _
  exact Nat.le_succ _

theorem execWritApply_keeps (h : Keeps s t) (a1) (a2) : OutKeeps s (execWritApply a1 a2 t) := by
  unfold execWritApply
  repeat'
    first
    | intro _
    | with_reducible (first | assumption | apply OutKeeps.next | apply startOp_keeps | apply writRun_keeps | apply writFail_keeps | apply writCommit_keeps | apply ite_keeps)
    | split

theorem execWritCheck_keeps (h : Keeps s t) (a1) (a2) : OutKeeps s (execWritCheck a1 a2 t) := by
  unfold execWritCheck
  repeat'
    first
    | intro _
    | with_reducible (first | assumption | apply OutKeeps.next | apply startOp_keeps | apply writRun_keeps | apply settle_keeps)

theorem execWritSettle_keeps (h : Keeps s t) (a1) : OutKeeps s (execWritSettle a1 t) := by
  unfold execWritSettle
  repeat'
    first
    | (show (_ : Nat) ≤ _; first | exact Nat.le_refl _ | simp)
    | intro _
    | with_reducible (first | assumption | apply OutKeeps.next | apply onOp_keeps | apply settle_keeps | apply modSlc_keeps | apply ite_keeps)
    | split

theorem execWritStatus_keeps (h : Keeps s t) (a1) (a2) : OutKeeps s (execWritStatus a1 a2 t) := by
  unfold execWritStatus
  repeat'
    first
    | intro _
    | with_reducible (first | assumption | apply OutKeeps.next | apply startOp_keeps | apply writeAndSettle_keeps)

theorem journal_keeps {s t : State} (h : Keeps s t) (f : Upd → Upd) (hf : ∀ b, b.ledgerFloor ≤ (f b).ledgerFloor) : Keeps s (journal f t) :=
  modUpd_keeps h (fun u => { f u with seq := u.seq + 1 }) hf fun _ => Nat.le_succ _

@[simp] theorem withSlot_seq (b : Bool) (f : Slot → Slot) (u : Upd) : (withSlot b f u).seq = u.seq := by
  unfold withSlot; split <;> rfl

@[simp] theorem withSlot_ledgerFloor (b : Bool) (f : Slot → Slot) (u : Upd) :
    (withSlot b f u).ledgerFloor = u.ledgerFloor := by
  unfold withSlot; split <;> rfl

theorem slotState_keeps (h : Keeps s t) (a1) (a2) : Keeps s (slotState a1 a2 t) := by
  unfold slotState
  repeat'
    first
    | (show (_ : Nat) ≤ _; first | exact Nat.le_refl _ | simp [withSlot_seq, withSlot_ledgerFloor])
    | intro _
    | with_reducible (first | assumption | apply journal_keeps)

theorem putBlock_keeps (h : Keeps s t) (a1) (a2) (a3) : Keeps s (putBlock a1 a2 a3 t) := by
  unfold putBlock
  repeat'
    first
    | (show (_ : Nat) ≤ _; first | exact Nat.le_refl _ | simp [withSlot_seq, withSlot_ledgerFloor])
    | intro _
    | with_reducible (first | assumption | apply modUpd_keeps)

theorem updEvent_keeps (h : Keeps s t) (a1) : Keeps s (updEvent a1 t) := by
  unfold updEvent
  repeat'
    first
    | (show (_ : Nat) ≤ _; first | exact Nat.le_refl _ | simp)
    | intro _
    | with_reducible (first | assumption | apply modUpd_keeps)

theorem sendMsg_keeps (h : Keeps s t) (a1) (a2) : Keeps s (sendMsg a1 a2 t) := by
  unfold sendMsg
  repeat'
    first
    | intro _
    | with_reducible (first | assumption | apply sendData_keeps | apply onlyIf_keeps | apply emit_keeps)
    | split

theorem answer_keeps (h : Keeps s t) (a1) (a2) (a3) (a4) : Keeps s (answer a1 a2 a3 a4 t) := by
  unfold answer
  repeat'
    first
    | intro _
    | with_reducible (first | assumption | apply sendMsg_keeps | apply ite_keeps)
    | split
    | (extract_lets +onlyGivenNames x; first | (refine (fun hx : Keeps s x => ?_) ?_ <;> [clear_value x; subst x]) | clear_value x)

theorem sendSched_keeps (h : Keeps s t) (a1) : Keeps s (sendSched a1 t) := by
  unfold sendSched
  repeat'
    first
    | intro _
    | with_reducible (first | assumption | apply sendData_keeps)
    | split

theorem resendSched_keeps (h : Keeps s t) (a1) : Keeps s (resendSched a1 t) := by
  unfold resendSched
  repeat'
    first
    | intro _
    | with_reducible (first | assumption | apply sendSched_keeps | apply ite_keeps)
    | split

theorem offerTo_keeps (h : Keeps s t) (a1) (a2) (a3) : Keeps s (offerTo a1 a2 a3 t) := by
  unfold offerTo
  repeat'
    first
    | (show (_ : Nat) ≤ _; first | exact Nat.le_refl _ | simp)
    | intro _
    | with_reducible (first | assumption | apply sendMsg_keeps | apply modUpd_keeps)
    | split
    | (extract_lets +onlyGivenNames x; first | (refine (fun hx : Keeps s x => ?_) ?_ <;> [clear_value x; subst x]) | clear_value x)

theorem pushOffers_keeps (h : Keeps s t) : Keeps s (pushOffers t) := by
  unfold pushOffers
  repeat'
    first
    | intro _
    | with_reducible (first | assumption | apply each_keeps | apply offerTo_keeps | apply ite_keeps)
    | split

theorem pushDone_keeps (h : Keeps s t) : Keeps s (pushDone t) := by
  unfold pushDone
  repeat'
    first
    | (show (_ : Nat) ≤ _; first | exact Nat.le_refl _ | simp)
    | intro _
    | with_reducible (first | assumption | apply modUpd_keeps | apply settle_keeps | apply ite_keeps)
    | split
    | (extract_lets +onlyGivenNames x; first | (refine (fun hx : Keeps s x => ?_) ?_ <;> [clear_value x; subst x]) | clear_value x)

theorem pushClosed_keeps (h : Keeps s t) (a1) (a2) : Keeps s (pushClosed a1 a2 t) := by
  unfold pushClosed
  repeat'
    first
    | (show (_ : Nat) ≤ _; first | exact Nat.le_refl _ | simp)
    | intro _
    | with_reducible (first | assumption | apply modUpd_keeps | apply ite_keeps)
    | split
    | (extract_lets +onlyGivenNames x; first | (refine (fun hx : Keeps s x => ?_) ?_ <;> [clear_value x; subst x]) | clear_value x)

theorem offerPast_keeps (h : Keeps s t) (a1) : Keeps s (offerPast a1 t) := by
  unfold offerPast
  repeat'
    first
    | (show (_ : Nat) ≤ _; first | exact Nat.le_refl _ | simp)
    | intro _
    | with_reducible (first | assumption | apply modUpd_keeps | apply offerTo_keeps)
    | split
    | (extract_lets +onlyGivenNames x; first | (refine (fun hx : Keeps s x => ?_) ?_ <;> [clear_value x; subst x]) | clear_value x)

theorem pushPassed_keeps (h : Keeps s t) (a1) : Keeps s (pushPassed a1 t) := by
  unfold pushPassed
  repeat'
    first
    | (show (_ : Nat) ≤ _; first | exact Nat.le_refl _ | simp)
    | intro _
    | with_reducible (first | assumption | apply onlyIf_keeps | apply offerPast_keeps | apply modUpd_keeps | apply pushDone_keeps | apply pushOffers_keeps | apply ite_keeps)
    | split
    | (extract_lets +onlyGivenNames x; first | (refine (fun hx : Keeps s x => ?_) ?_ <;> [clear_value x; subst x]) | clear_value x)

theorem dropTransfers_keeps (h : Keeps s t) (a1) : Keeps s (dropTransfers a1 t) := by
  unfold dropTransfers
  repeat'
    first
    | (show (_ : Nat) ≤ _; first | exact Nat.le_refl _ | simp)
    | intro _
    | with_reducible (first | assumption | apply modUpd_keeps | apply pushDone_keeps | apply pushClosed_keeps | apply ite_keeps)
    | split
    | (extract_lets +onlyGivenNames x; first | (refine (fun hx : Keeps s x => ?_) ?_ <;> [clear_value x; subst x]) | clear_value x)

theorem purgeOp_keeps (h : Keeps s t) (a1) : Keeps s (purgeOp a1 t) := by
  unfold purgeOp
  repeat'
    first
    | (show (_ : Nat) = _; first | rfl | exact length_modAt _ _ _ | simp only [List.length_map, length_modAt, List.length_zipIdx])
    | intro _
    | with_reducible (first | assumption | apply modIfl_keeps)

theorem endRelay_keeps (h : Keeps s t) (a1) (a2) (a3) (a4) : Keeps s (endRelay a1 a2 a3 a4 t) := by
  unfold endRelay
  repeat'
    first
    | (show (_ : Nat) = _; first | rfl | exact length_modAt _ _ _ | simp only [List.length_map, length_modAt, List.length_zipIdx])
    | intro _
    | with_reducible (first | assumption | apply purgeOp_keeps | apply modIfl_keeps | apply settle_keeps | apply ite_keeps)
    | split
    | (extract_lets +onlyGivenNames x; first | (refine (fun hx : Keeps s x => ?_) ?_ <;> [clear_value x; subst x]) | clear_value x)

theorem endRelays_keeps (h : Keeps s t) (a1) (a2) : Keeps s (endRelays a1 a2 t) := by
  unfold endRelays
  repeat'
    first
    | intro _
    | with_reducible (first | assumption | apply each_keeps | apply endRelay_keeps)

theorem relayAccepted_keeps (h : Keeps s t) (a1) : Keeps s (relayAccepted a1 t) := by
  unfold relayAccepted
  repeat'
    first
    | (show (_ : Nat) = _; first | rfl | exact length_modAt _ _ _ | simp only [List.length_map, length_modAt, List.length_zipIdx])
    | intro _
    | with_reducible (first | assumption | apply settle_keeps | apply tryLog_keeps | apply modIfl_keeps | apply atStage_keeps | apply ite_keeps)
    | split
    | (extract_lets +onlyGivenNames x; first | (refine (fun hx : Keeps s x => ?_) ?_ <;> [clear_value x; subst x]) | clear_value x)

theorem onwardLost_keeps (h : Keeps s t) (a1) : Keeps s (onwardLost a1 t) := by
  unfold onwardLost
  repeat'
    first
    | intro _
    | with_reducible (first | assumption | apply each_keeps | apply sendTo_keeps)
    | split
    | (extract_lets +onlyGivenNames x; first | (refine (fun hx : Keeps s x => ?_) ?_ <;> [clear_value x; subst x]) | clear_value x)

theorem freeNodes_keeps (h : Keeps s t) (a1) (a2) (a3) : Keeps s (freeNodes a1 a2 a3 t) := by
  unfold freeNodes
  repeat'
    first
    | (show (_ : Nat) = _; first | rfl | exact length_modAt _ _ _ | simp only [List.length_map, length_modAt, List.length_zipIdx])
    | intro _
    | with_reducible (first | assumption | apply endRelays_keeps | apply each_keeps | apply dropTransfers_keeps | apply unitLost_keeps | apply onlyIf_keeps | apply linkEvent_keeps | apply logPart_keeps | apply modDir_keeps | apply modIfl_keeps)
    | split
    | (extract_lets +onlyGivenNames x; first | (refine (fun hx : Keeps s x => ?_) ?_ <;> [clear_value x; subst x]) | clear_value x)

theorem portDown_keeps (h : Keeps s t) (a1) (a2) (a3) : Keeps s (portDown a1 a2 a3 t) := by
  unfold portDown
  repeat'
    first
    | (show (_ : Nat) = _; first | rfl | exact length_modAt _ _ _ | simp only [List.length_map, length_modAt, List.length_zipIdx])
    | intro _
    | with_reducible (first | assumption | apply modPort_keeps | apply modIfl_keeps | apply onwardLost_keeps | apply sendTo_keeps | apply linkEvent_keeps | apply freeNodes_keeps | apply foldl_keeps | refine foldl_keeps ?_ (by with_reducible assumption) | apply ite_keeps)
    | split
    | (extract_lets +onlyGivenNames x; first | (refine (fun hx : Keeps s x => ?_) ?_ <;> [clear_value x; subst x]) | (refine (fun hx : Keeps s x.2 => ?_) ?_ <;> [clear_value x; subst x]) | (refine (fun hx : Keeps s x.1 => ?_) ?_ <;> [clear_value x; subst x]) | clear_value x)

theorem portAdrift_keeps (h : Keeps s t) (a1) : Keeps s (portAdrift a1 t) := by
  unfold portAdrift
  repeat'
    first
    | intro _
    | with_reducible (first | assumption | apply modPort_keeps | apply linkEvent_keeps | apply modNode_keeps | apply each_keeps | apply unitLost_keeps | apply endRelays_keeps | apply onwardLost_keeps | apply ite_keeps)
    | split
    | (extract_lets +onlyGivenNames x; first | (refine (fun hx : Keeps s x => ?_) ?_ <;> [clear_value x; subst x]) | (refine (fun hx : Keeps s x.2 => ?_) ?_ <;> [clear_value x; subst x]) | (refine (fun hx : Keeps s x.1 => ?_) ?_ <;> [clear_value x; subst x]) | clear_value x)

theorem decouple_keeps (h : Keeps s t) (a1) (a2) : Keeps s (decouple a1 a2 t) := by
  unfold decouple
  repeat'
    first
    | intro _
    | with_reducible (first | assumption | apply portAdrift_keeps | apply portDown_keeps | apply ite_keeps)
    | split

theorem dropPosition_keeps (h : Keeps s t) : Keeps s (dropPosition t) := by
  unfold dropPosition
  repeat'
    first
    | (show (_ : Nat) = _; first | rfl | exact length_modAt _ _ _ | simp only [List.length_map, length_modAt, List.length_zipIdx])
    | intro _
    | with_reducible (first | assumption | apply modIfl_keeps | apply ite_keeps)
    | split
    | (extract_lets +onlyGivenNames x; first | (refine (fun hx : Keeps s x => ?_) ?_ <;> [clear_value x; subst x]) | clear_value x)

theorem quarantine_keeps (h : Keeps s t) (a1) : Keeps s (quarantine a1 t) := by
  unfold quarantine
  repeat'
    first
    | intro _
    | with_reducible (first | assumption | apply portDown_keeps | apply linkEvent_keeps | apply fault_keeps | apply modPort_keeps)
    | split
    | (extract_lets +onlyGivenNames x; first | (refine (fun hx : Keeps s x => ?_) ?_ <;> [clear_value x; subst x]) | clear_value x)

theorem takeDet_keeps (h : Keeps s t) (a1) (a2) : Keeps s (takeDet a1 a2 t) := by
  unfold takeDet
  repeat'
    first
    | intro _
    | with_reducible (first | assumption | apply modPort_keeps | apply ite_keeps)
    | split

theorem execIflDetSample_keeps (h : Keeps s t) (a1) (a2) : OutKeeps s (execIflDetSample a1 a2 t) := by
  unfold execIflDetSample
  repeat'
    first
    | intro _
    | with_reducible (first | assumption | apply OutKeeps.next | apply takeDet_keeps | apply onlyIf_keeps | apply elapseTo_keeps | apply fault_keeps | apply modPort_keeps | apply quarantine_keeps | apply decouple_keeps | apply ite_keeps)
    | split
    | (extract_lets +onlyGivenNames x; first | (refine (fun hx : Keeps s x => ?_) ?_ <;> [clear_value x; subst x]) | clear_value x)

theorem sendAssign_keeps (h : Keeps s t) (a1) (a2) : Keeps s (sendAssign a1 a2 t) := by
  unfold sendAssign
  repeat'
    first
    | intro _
    | with_reducible (first | assumption | apply sendPlain_keeps | apply modPort_keeps)
    | split
    | (extract_lets +onlyGivenNames x; first | (refine (fun hx : Keeps s x => ?_) ?_ <;> [clear_value x; subst x]) | clear_value x)

theorem assignNode_keeps (h : Keeps s t) (a1) (a2) (a3) (a4) : Keeps s (assignNode a1 a2 a3 a4 t) := by
  unfold assignNode
  repeat'
    first
    | (show (_ : Nat) = _; first | rfl | exact length_modAt _ _ _ | simp only [List.length_map, length_modAt, List.length_zipIdx])
    | intro _
    | with_reducible (first | assumption | apply linkEvent_keeps | apply each_keeps | apply freeNodes_keeps | apply modIfl_keeps | apply drew_keeps | apply sendAssign_keeps | apply sendTo_keeps | apply ite_keeps)
    | split
    | (extract_lets +onlyGivenNames x; first | (refine (fun hx : Keeps s x => ?_) ?_ <;> [clear_value x; subst x]) | (refine (fun hx : Keeps s x.2 => ?_) ?_ <;> [clear_value x; subst x]) | (refine (fun hx : Keeps s x.1 => ?_) ?_ <;> [clear_value x; subst x]) | clear_value x)

theorem sendJoin_keeps (h : Keeps s t) (a1) (a2) : Keeps s (sendJoin a1 a2 t) := by
  unfold sendJoin
  repeat'
    first
    | intro _
    | with_reducible (first | assumption | apply modPort_keeps | apply sendTo_keeps | apply assignNode_keeps | apply ite_keeps)
    | split
    | (extract_lets +onlyGivenNames x; first | (refine (fun hx : Keeps s x => ?_) ?_ <;> [clear_value x; subst x]) | clear_value x)

theorem nodeJoined_keeps (h : Keeps s t) (a1) : Keeps s (nodeJoined a1 t) := by
  unfold nodeJoined
  repeat'
    first
    | intro _
    | with_reducible (first | assumption | apply modNode_keeps | apply linkEvent_keeps | apply logPart_keeps | apply onlyIf_keeps | apply sendTo_keeps | apply resendSched_keeps | apply sendDirState_keeps)
    | split
    | (extract_lets +onlyGivenNames x; first | (refine (fun hx : Keeps s x => ?_) ?_ <;> [clear_value x; subst x]) | clear_value x)

theorem coupled_keeps (h : Keeps s t) (a1) (a2) : Keeps s (coupled a1 a2 t) := by
  unfold coupled
  repeat'
    first
    | (show (_ : Nat) = _; first | rfl | exact length_modAt _ _ _ | simp only [List.length_map, length_modAt, List.length_zipIdx])
    | intro _
    | with_reducible (first | assumption | apply modPort_keeps | apply sendTo_keeps | apply linkEvent_keeps | apply modIfl_keeps | apply nodeJoined_keeps | apply ite_keeps)
    | split
    | (extract_lets +onlyGivenNames x; first | (refine (fun hx : Keeps s x => ?_) ?_ <;> [clear_value x; subst x]) | (refine (fun hx : Keeps s x.2 => ?_) ?_ <;> [clear_value x; subst x]) | (refine (fun hx : Keeps s x.1 => ?_) ?_ <;> [clear_value x; subst x]) | clear_value x)

theorem dropUnjoined_keeps (h : Keeps s t) (a1) : Keeps s (dropUnjoined a1 t) := by
  unfold dropUnjoined
  repeat'
    first
    | (show (_ : Nat) = _; first | rfl | exact length_modAt _ _ _ | simp only [List.length_map, length_modAt, List.length_zipIdx])
    | intro _
    | with_reducible (first | assumption | apply modIfl_keeps | apply modPort_keeps | apply foldl_keeps | refine foldl_keeps ?_ (by with_reducible assumption) | apply ite_keeps)
    | split
    | (extract_lets +onlyGivenNames x; first | (refine (fun hx : Keeps s x => ?_) ?_ <;> [clear_value x; subst x]) | (refine (fun hx : Keeps s x.2 => ?_) ?_ <;> [clear_value x; subst x]) | (refine (fun hx : Keeps s x.1 => ?_) ?_ <;> [clear_value x; subst x]) | clear_value x)

theorem rollMissed_keeps (h : Keeps s t) (a1) : Keeps s (rollMissed a1 t) := by
  unfold rollMissed
  repeat'
    first
    | intro _
    | with_reducible (first | assumption | apply modPort_keeps | apply elapseTo_keeps | apply dropUnjoined_keeps | apply decouple_keeps | apply ite_keeps)
    | split
    | (extract_lets +onlyGivenNames x; first | (refine (fun hx : Keeps s x => ?_) ?_ <;> [clear_value x; subst x]) | clear_value x)

theorem execBeacon_keeps (h : Keeps s t) (a1) : OutKeeps s (execBeacon a1 t) := by
  unfold execBeacon
  repeat'
    first
    | intro _
    | with_reducible (first | assumption | apply OutKeeps.next | apply rollMissed_keeps | apply elapseTo_keeps | apply modPort_keeps | apply sendPlain_keeps | apply ite_keeps)
    | split
    | (extract_lets +onlyGivenNames x; first | (refine (fun hx : Keeps s x => ?_) ?_ <;> [clear_value x; subst x]) | clear_value x)

theorem execRoll_keeps (h : Keeps s t) (a1) (a2) (a3) : OutKeeps s (execRoll a1 a2 a3 t) := by
  unfold execRoll
  repeat'
    first
    | intro _
    | with_reducible (first | assumption | apply OutKeeps.next | apply sendJoin_keeps | apply modPort_keeps | apply onlyIf_keeps | apply coupled_keeps | apply ite_keeps)
    | split
    | (extract_lets +onlyGivenNames x; first | (refine (fun hx : Keeps s x => ?_) ?_ <;> [clear_value x; subst x]) | clear_value x)

theorem sendRoll_keeps (h : Keeps s t) (a1) (a2) : Keeps s (sendRoll a1 a2 t) := by
  unfold sendRoll
  repeat'
    first
    | intro _
    | with_reducible (first | assumption | apply sendPlain_keeps)

theorem execBeaconReceived_keeps (h : Keeps s t) (a1) (a2) : OutKeeps s (execBeaconReceived a1 a2 t) := by
  unfold execBeaconReceived
  repeat'
    first
    | intro _
    | with_reducible (first | assumption | apply OutKeeps.next | apply modPort_keeps | apply masterHeard_keeps | apply dropPosition_keeps | apply sendRoll_keeps | apply ite_keeps)
    | split
    | (extract_lets +onlyGivenNames x; first | (refine (fun hx : Keeps s x => ?_) ?_ <;> [clear_value x; subst x]) | clear_value x)

theorem execUpstreamNeighbourLost_keeps (h : Keeps s t) (a1) : OutKeeps s (execUpstreamNeighbourLost a1 t) := by
  unfold execUpstreamNeighbourLost
  repeat'
    first
    | intro _
    | with_reducible (first | assumption | apply OutKeeps.next | apply dropPosition_keeps | apply elapseTo_keeps | apply ite_keeps)
    | split

theorem takeAssign_keeps (h : Keeps s t) (a1) (a2) : Keeps s (takeAssign a1 a2 t) := by
  unfold takeAssign
  repeat'
    first
    | (show (_ : Nat) = _; first | rfl | exact length_modAt _ _ _ | simp only [List.length_map, length_modAt, List.length_zipIdx])
    | intro _
    | with_reducible (first | assumption | apply modIfl_keeps | apply modPort_keeps | apply sendRoll_keeps | apply ite_keeps)
    | split
    | (extract_lets +onlyGivenNames x; first | (refine (fun hx : Keeps s x => ?_) ?_ <;> [clear_value x; subst x]) | clear_value x)

theorem sendAckFor_keeps (h : Keeps s t) (a1) (a2) (a3) : Keeps s (sendAckFor a1 a2 a3 t) := by
  unfold sendAckFor
  repeat'
    first
    | intro _
    | with_reducible (first | assumption | apply sendPlain_keeps)

theorem sendAck_keeps (h : Keeps s t) (a1) (a2) : Keeps s (sendAck a1 a2 t) := by
  unfold sendAck
  repeat'
    first
    | intro _
    | with_reducible (first | assumption | apply sendAckFor_keeps)

theorem storeHost_keeps (h : Keeps s t) (a1) (a2) (a3) : Keeps s (storeHost a1 a2 a3 t) := by
  unfold storeHost
  repeat'
    first
    | (show (_ : Nat) = _; first | rfl | exact length_modAt _ _ _ | simp only [List.length_map, length_modAt, List.length_zipIdx])
    | intro _
    | with_reducible (first | assumption | apply onlyIf_keeps | apply linkEvent_keeps | apply modIfl_keeps | apply ite_keeps)
    | split
    | (extract_lets +onlyGivenNames x; first | (refine (fun hx : Keeps s x => ?_) ?_ <;> [clear_value x; subst x]) | clear_value x)

theorem deliverData_keeps (h : Keeps s t) (a1) : Keeps s (deliverData a1 t) := by
  unfold deliverData
  repeat'
    first
    | intro _
    | with_reducible (first | assumption | apply storeHost_keeps | apply modNode_keeps | apply pushPassed_keeps | apply sendData_keeps | apply ite_keeps)
    | split
    | (extract_lets +onlyGivenNames x; first | (refine (fun hx : Keeps s x => ?_) ?_ <;> [clear_value x; subst x]) | clear_value x)

theorem takeProfile_keeps (h : Keeps s t) (a1) (a2) : Keeps s (takeProfile a1 a2 t) := by
  unfold takeProfile
  repeat'
    first
    | intro _
    | with_reducible (first | assumption | apply sendSoundReq_keeps | apply modPort_keeps | apply ite_keeps)
    | split

theorem onwardReport_keeps (h : Keeps s t) (a1) : Keeps s (onwardReport a1 t) := by
  unfold onwardReport
  repeat'
    first
    | intro _
    | with_reducible (first | assumption | apply each_keeps | apply unitLost_keeps | apply endRelays_keeps | apply modNode_keeps | apply linkEvent_keeps | apply logPart_keeps)
    | split
    | (extract_lets +onlyGivenNames x; first | (refine (fun hx : Keeps s x => ?_) ?_ <;> [clear_value x; subst x]) | clear_value x)

theorem deliverHere_keeps (h : Keeps s t) (a1) (a2) : Keeps s (deliverHere a1 a2 t) := by
  unfold deliverHere
  repeat'
    first
    | intro _
    | with_reducible (first | assumption | apply assignNode_keeps | apply sendAssign_keeps | apply nodeJoined_keeps | apply freeNodes_keeps | apply takeProfile_keeps | apply deliverData_keeps | apply onwardReport_keeps | apply ite_keeps)
    | split

theorem learnRoute_keeps (h : Keeps s t) (a1) (a2) : Keeps s (learnRoute a1 a2 t) := by
  unfold learnRoute
  repeat'
    first
    | (show (_ : Nat) = _; first | rfl | exact length_modAt _ _ _ | simp only [List.length_map, length_modAt, List.length_zipIdx])
    | intro _
    | with_reducible (first | assumption | apply modIfl_keeps | apply ite_keeps)
    | split

theorem forward_keeps (h : Keeps s t) (a1) (a2) : Keeps s (forward a1 a2 t) := by
  unfold forward
  repeat'
    first
    | intro _
    | with_reducible (first | assumption | apply onlyIf_keeps | apply learnRoute_keeps | apply enqueue_keeps | apply onwardLost_keeps | apply ite_keeps)
    | split
    | (extract_lets +onlyGivenNames x; first | (refine (fun hx : Keeps s x => ?_) ?_ <;> [clear_value x; subst x]) | clear_value x)

theorem deliver_keeps (h : Keeps s t) (a1) (a2) : Keeps s (deliver a1 a2 t) := by
  unfold deliver
  repeat'
    first
    | intro _
    | with_reducible (first | assumption | apply deliverHere_keeps | apply forward_keeps | apply ite_keeps)
    | split
    | (extract_lets +onlyGivenNames x; first | (refine (fun hx : Keeps s x => ?_) ?_ <;> [clear_value x; subst x]) | clear_value x)

theorem drainHeld_keeps {s t : State} (h : Keeps s t) (a1) (a2) : Keeps s (drainHeld a1 a2 t) := by
  induction a1 generalizing t with
  | zero => exact h
  | succ n ih =>
    unfold drainHeld
    extract_lets pt
    split
    · exact ih (deliver_keeps (modPort_keeps h _ _) _ _)
    · exact h

theorem recvSeq_keeps (h : Keeps s t) (a1) (a2) (a3) : Keeps s (recvSeq a1 a2 a3 t) := by
  unfold recvSeq
  repeat'
    first
    | intro _
    | with_reducible (first | assumption | apply sendAck_keeps | apply sendAckFor_keeps | apply modPort_keeps | apply drainHeld_keeps | apply deliver_keeps | apply ite_keeps)
    | split
    | (extract_lets +onlyGivenNames x; first | (refine (fun hx : Keeps s x => ?_) ?_ <;> [clear_value x; subst x]) | (refine (fun hx : Keeps s x.2 => ?_) ?_ <;> [clear_value x; subst x]) | (refine (fun hx : Keeps s x.1 => ?_) ?_ <;> [clear_value x; subst x]) | clear_value x)

theorem execJoin_keeps (h : Keeps s t) (a1) (a2) : OutKeeps s (execJoin a1 a2 t) := by
  unfold execJoin
  repeat'
    first
    | intro _
    | with_reducible (first | assumption | apply OutKeeps.next | apply recvSeq_keeps)

theorem execJoined_keeps (h : Keeps s t) (a1) (a2) : OutKeeps s (execJoined a1 a2 t) := by
  unfold execJoined
  repeat'
    first
    | intro _
    | with_reducible (first | assumption | apply OutKeeps.next | apply recvSeq_keeps)

theorem execDecoupled_keeps (h : Keeps s t) (a1) (a2) : OutKeeps s (execDecoupled a1 a2 t) := by
  unfold execDecoupled
  repeat'
    first
    | intro _
    | with_reducible (first | assumption | apply OutKeeps.next | apply recvSeq_keeps)

theorem execProfile_keeps (h : Keeps s t) (a1) (a2) : OutKeeps s (execProfile a1 a2 t) := by
  unfold execProfile
  repeat'
    first
    | intro _
    | with_reducible (first | assumption | apply OutKeeps.next | apply recvSeq_keeps)

theorem execDataFrame_keeps (h : Keeps s t) (a1) (a2) : OutKeeps s (execDataFrame a1 a2 t) := by
  unfold execDataFrame
  repeat'
    first
    | intro _
    | with_reducible (first | assumption | apply OutKeeps.next | apply recvSeq_keeps)

theorem execOnwardLost_keeps (h : Keeps s t) (a1) (a2) : OutKeeps s (execOnwardLost a1 a2 t) := by
  unfold execOnwardLost
  repeat'
    first
    | intro _
    | with_reducible (first | assumption | apply OutKeeps.next | apply recvSeq_keeps)

theorem execAssign_keeps (h : Keeps s t) (a1) (a2) : OutKeeps s (execAssign a1 a2 t) := by
  unfold execAssign
  repeat'
    first
    | intro _
    | with_reducible (first | assumption | apply OutKeeps.next | apply takeAssign_keeps | apply recvSeq_keeps | apply ite_keeps)
    | split
    | (extract_lets +onlyGivenNames x; first | (refine (fun hx : Keeps s x => ?_) ?_ <;> [clear_value x; subst x]) | clear_value x)

theorem frameAccepted_keeps (h : Keeps s t) (a1) (a2) : Keeps s (frameAccepted a1 a2 t) := by
  unfold frameAccepted
  repeat'
    first
    | intro _
    | with_reducible (first | assumption | apply relayAccepted_keeps | apply onlyIf_keeps | apply modNode_keeps | apply takeProfile_keeps | apply ite_keeps)
    | split
    | (extract_lets +onlyGivenNames x; first | (refine (fun hx : Keeps s x => ?_) ?_ <;> [clear_value x; subst x]) | clear_value x)

theorem execAck_keeps (h : Keeps s t) (a1) (a2) : OutKeeps s (execAck a1 a2 t) := by
  unfold execAck
  repeat'
    first
    | intro _
    | with_reducible (first | assumption | apply OutKeeps.next | apply modPort_keeps | apply pump_keeps | apply each_keeps | apply frameAccepted_keeps | apply ite_keeps)
    | split
    | (extract_lets +onlyGivenNames x; first | (refine (fun hx : Keeps s x => ?_) ?_ <;> [clear_value x; subst x]) | clear_value x)

theorem execResendTimer_keeps (h : Keeps s t) (a1) : OutKeeps s (execResendTimer a1 t) := by
  unfold execResendTimer
  repeat'
    first
    | (show (_ : Nat) = _; first | rfl | exact length_modAt _ _ _ | simp only [List.length_map, length_modAt, List.length_zipIdx])
    | intro _
    | with_reducible (first | assumption | apply OutKeeps.next | apply elapseTo_keeps | apply decouple_keeps | apply modIfl_keeps | apply pump_keeps | apply sendSeq_keeps | apply modPort_keeps | apply ite_keeps)
    | split
    | (extract_lets +onlyGivenNames x; first | (refine (fun hx : Keeps s x => ?_) ?_ <;> [clear_value x; subst x]) | clear_value x)

theorem supplyStep_keeps (h : Keeps s t) : Keeps s (supplyStep t) := by
  unfold supplyStep
  repeat'
    first
    | (show (_ : Nat) = _; first | rfl | exact length_modAt _ _ _ | simp only [List.length_map, length_modAt, List.length_zipIdx])
    | intro _
    | with_reducible (first | assumption | apply modIfl_keeps)

theorem execSupplyStepWindowEnd_keeps (h : Keeps s t) : OutKeeps s (execSupplyStepWindowEnd t) := by
  unfold execSupplyStepWindowEnd
  repeat'
    first
    | (show (_ : Nat) = _; first | rfl | exact length_modAt _ _ _ | simp only [List.length_map, length_modAt, List.length_zipIdx])
    | intro _
    | with_reducible (first | assumption | apply OutKeeps.next | apply modIfl_keeps | apply elapseTo_keeps)
    | split

theorem adriftGone_keeps (h : Keeps s t) (a1) (a2) : Keeps s (adriftGone a1 a2 t) := by
  unfold adriftGone
  repeat'
    first
    | (show (_ : Nat) = _; first | rfl | exact length_modAt _ _ _ | simp only [List.length_map, length_modAt, List.length_zipIdx])
    | intro _
    | with_reducible (first | assumption | apply modPort_keeps | apply sendTo_keeps | apply linkEvent_keeps | apply modIfl_keeps | apply onlyIf_keeps | apply freeNodes_keeps | apply ite_keeps)
    | split
    | (extract_lets +onlyGivenNames x; first | (refine (fun hx : Keeps s x => ?_) ?_ <;> [clear_value x; subst x]) | (refine (fun hx : Keeps s x.2 => ?_) ?_ <;> [clear_value x; subst x]) | (refine (fun hx : Keeps s x.1 => ?_) ?_ <;> [clear_value x; subst x]) | clear_value x)

theorem execAdriftHoldEnd_keeps (h : Keeps s t) (a1) : OutKeeps s (execAdriftHoldEnd a1 t) := by
  unfold execAdriftHoldEnd
  repeat'
    first
    | intro _
    | with_reducible (first | assumption | apply OutKeeps.next | apply elapseTo_keeps | apply portDown_keeps | apply adriftGone_keeps | apply ite_keeps)
    | split
    | (extract_lets +onlyGivenNames x; first | (refine (fun hx : Keeps s x => ?_) ?_ <;> [clear_value x; subst x]) | clear_value x)

theorem execMasterSilence_keeps (h : Keeps s t) (a1) : OutKeeps s (execMasterSilence a1 t) := by
  unfold execMasterSilence
  repeat'
    first
    | (show (_ : Nat) = _; first | rfl | exact length_modAt _ _ _ | simp only [List.length_map, length_modAt, List.length_zipIdx])
    | intro _
    | with_reducible (first | assumption | apply OutKeeps.next | apply elapseTo_keeps | apply dropPosition_keeps | apply iflEvent_keeps | apply modIfl_keeps | apply modPort_keeps | apply ite_keeps)
    | split
    | (extract_lets +onlyGivenNames x; first | (refine (fun hx : Keeps s x => ?_) ?_ <;> [clear_value x; subst x]) | clear_value x)

theorem linksParked_keeps (h : Keeps s t) : Keeps s (linksParked t) := by
  unfold linksParked
  repeat'
    first
    | (show (_ : Nat) = _; first | rfl | exact length_modAt _ _ _ | simp only [List.length_map, length_modAt, List.length_zipIdx])
    | intro _
    | with_reducible (first | assumption | apply modIfl_keeps | apply ite_keeps)
    | split
    | (extract_lets +onlyGivenNames x; first | (refine (fun hx : Keeps s x => ?_) ?_ <;> [clear_value x; subst x]) | (refine (fun hx : Keeps s x.2 => ?_) ?_ <;> [clear_value x; subst x]) | (refine (fun hx : Keeps s x.1 => ?_) ?_ <;> [clear_value x; subst x]) | clear_value x)

theorem linksReleased_keeps (h : Keeps s t) : Keeps s (linksReleased t) := by
  unfold linksReleased
  repeat'
    first
    | (show (_ : Nat) = _; first | rfl | exact length_modAt _ _ _ | simp only [List.length_map, length_modAt, List.length_zipIdx])
    | intro _
    | with_reducible (first | assumption | apply modIfl_keeps | apply each_keeps | apply sendTo_keeps | apply ite_keeps)
    | split
    | (extract_lets +onlyGivenNames x; first | (refine (fun hx : Keeps s x => ?_) ?_ <;> [clear_value x; subst x]) | clear_value x)

theorem execReaderRequest_keeps (h : Keeps s t) (a1) : OutKeeps s (execReaderRequest a1 t) := by
  unfold execReaderRequest
  repeat'
    first
    | intro _
    | with_reducible (first | assumption | apply OutKeeps.next | apply dropXchg_keeps | apply nodeAnswer_keeps | apply sendApdu_keeps | apply carrierOff_keeps | apply activateCard_keeps | apply ite_keeps)
    | split
    | (extract_lets +onlyGivenNames x; first | (refine (fun hx : Keeps s x => ?_) ?_ <;> [clear_value x; subst x]) | clear_value x)

theorem keySegments_keeps {s t : State} (h : Keeps s t) (t0 : Nat) (drive : List (Nat × Nat × Nat)) (l : List (Nat × Bytes)) :
    Keeps s (keySegments t0 drive l t).2 := by
  induction l generalizing t with
  | nil => exact h
  | cons g rest ih =>
    unfold keySegments
    extract_lets d w
    split
    · exact h
    · split
      · split
        · exact ih (elapseToNs_keeps (emit_keeps (elapseToNs_keeps (grantWindow_keeps h _ _ _) _) _) _)
        · exact h
      · exact h
      · exact h

theorem execLfRequest_keeps (h : Keeps s t) (a1) : OutKeeps s (execLfRequest a1 t) := by
  unfold execLfRequest
  repeat'
    first
    | intro _
    | with_reducible (first | assumption | apply OutKeeps.next | apply keySegments_keeps | apply drawn_keeps | apply sendData_keeps | apply ite_keeps)
    | split
    | (extract_lets +onlyGivenNames x; first | (refine (fun hx : Keeps s x => ?_) ?_ <;> [clear_value x; subst x]) | (refine (fun hx : Keeps s x.2 => ?_) ?_ <;> [clear_value x; subst x]) | (refine (fun hx : Keeps s x.1 => ?_) ?_ <;> [clear_value x; subst x]) | clear_value x)

theorem execSvcStatus_keeps (h : Keeps s t) : OutKeeps s (execSvcStatus t) := by
  unfold execSvcStatus
  repeat'
    first
    | (show (_ : Nat) = _; first | rfl | exact length_modAt _ _ _ | simp only [List.length_map, length_modAt, List.length_zipIdx])
    | intro _
    | with_reducible (first | assumption | apply OutKeeps.next | apply elapseTo_keeps | apply sendData_keeps | apply drawn_keeps | apply modIfl_keeps | apply foldl_keeps | refine foldl_keeps ?_ (by with_reducible assumption) | apply ite_keeps)
    | split
    | (extract_lets +onlyGivenNames x; first | (refine (fun hx : Keeps s x => ?_) ?_ <;> [clear_value x; subst x]) | (refine (fun hx : ∀ {t}, Keeps s t → Keeps s (x t) => ?_) ?_ <;> [clear_value x; subst x]) | clear_value x)

theorem execRelay_keeps (h : Keeps s t) (a1) (a2) : OutKeeps s (execRelay a1 a2 t) := by
  unfold execRelay
  repeat'
    first
    | (show (_ : Nat) = _; first | rfl | exact length_modAt _ _ _ | simp only [List.length_map, length_modAt, List.length_zipIdx])
    | intro _
    | with_reducible (first | assumption | apply OutKeeps.next | apply startOp_keeps | apply settle_keeps | apply withRead_keeps | apply logRec_keeps | apply modIfl_keeps | apply each_keeps | apply sendData_keeps | apply ite_keeps)
    | split
    | (extract_lets +onlyGivenNames x; first | (refine (fun hx : Keeps s x => ?_) ?_ <;> [clear_value x; subst x]) | (refine (fun hx : Keeps s x.2 => ?_) ?_ <;> [clear_value x; subst x]) | (refine (fun hx : Keeps s x.1 => ?_) ?_ <;> [clear_value x; subst x]) | clear_value x)

theorem execChainRead_keeps (h : Keeps s t) (a1) (a2) : OutKeeps s (execChainRead a1 a2 t) := by
  unfold execChainRead
  repeat'
    first
    | intro _
    | with_reducible (first | assumption | apply OutKeeps.next | apply startOp_keeps | apply writeAndSettle_keeps | apply drawn_keeps)
    | split
    | (extract_lets +onlyGivenNames x; first | (refine (fun hx : Keeps s x => ?_) ?_ <;> [clear_value x; subst x]) | (refine (fun hx : Keeps s x.2 => ?_) ?_ <;> [clear_value x; subst x]) | (refine (fun hx : Keeps s x.1 => ?_) ?_ <;> [clear_value x; subst x]) | clear_value x)

theorem execRecv_keeps (h : Keeps s t) (a1) (a2) : OutKeeps s (execRecv a1 a2 t) := by
  unfold execRecv
  repeat'
    first
    | (show (_ : Nat) = _; first | rfl | exact length_modAt _ _ _ | simp only [List.length_map, length_modAt, List.length_zipIdx])
    | intro _
    | with_reducible (first | assumption | apply OutKeeps.next | apply startOp_keeps | apply modIfl_keeps | apply writeAndSettle_keeps | apply ite_keeps)
    | split
    | (extract_lets +onlyGivenNames x; first | (refine (fun hx : Keeps s x => ?_) ?_ <;> [clear_value x; subst x]) | clear_value x)

theorem updOp_keeps (h : Keeps s t) (a1) (a2) (a3) (f1 : _ → State → State) (hf1 : ∀ a {t}, Keeps s t → Keeps s (f1 a t)) : Keeps s (updOp a1 a2 a3 f1 t) := by
  unfold updOp
  repeat'
    first
    | intro _
    | with_reducible (first | assumption | apply hf1 | apply startOp_keeps | apply ite_keeps)
    | split

theorem beginSlot_keeps (h : Keeps s t) (a1) (a2) : Keeps s (beginSlot a1 a2 t) := by
  unfold beginSlot
  repeat'
    first
    | (show (_ : Nat) ≤ _; first | exact Nat.le_refl _ | simp [withSlot_seq, withSlot_ledgerFloor])
    | intro _
    | with_reducible (first | assumption | apply journal_keeps)

theorem slotBad_keeps (h : Keeps s t) (a1) : Keeps s (slotBad a1 t) := by
  unfold slotBad
  repeat'
    first
    | intro _
    | with_reducible (first | assumption | apply updEvent_keeps | apply slotState_keeps)

theorem writeBlocks_keeps (h : Keeps s t) (a1) (a2) (a3) : Keeps s (writeBlocks a1 a2 a3 t) := by
  unfold writeBlocks
  repeat'
    first
    | intro _
    | with_reducible (first | assumption | apply each_keeps | apply putBlock_keeps)

theorem writeImage_keeps (h : Keeps s t) (a1) (a2) (a3) : Keeps s (writeImage a1 a2 a3 t).2 := by
  unfold writeImage
  repeat'
    first
    | (show (_ : Nat) ≤ _; first | exact Nat.le_refl _ | simp)
    | intro _
    | with_reducible (first | assumption | apply beginSlot_keeps | apply slotBad_keeps | apply writeBlocks_keeps | apply modUpd_keeps | apply ite_keeps)
    | split
    | (extract_lets +onlyGivenNames x; first | (refine (fun hx : Keeps s x => ?_) ?_ <;> [clear_value x; subst x]) | clear_value x)
    | dsimp only

theorem execStage_keeps (h : Keeps s t) (a1) (a2) (a3) : OutKeeps s (execStage a1 a2 a3 t) := by
  unfold execStage
  repeat'
    first
    | intro _
    | with_reducible (first | assumption | apply OutKeeps.next | apply updOp_keeps | apply settle_keeps | apply withRead_keeps | apply pkeRan_keeps | apply writeImage_keeps | apply updEvent_keeps | apply slotState_keeps | apply ite_keeps)
    | split
    | (extract_lets +onlyGivenNames x; first | (refine (fun hx : Keeps s x => ?_) ?_ <;> [clear_value x; subst x]) | (refine (fun hx : Keeps s x.2 => ?_) ?_ <;> [clear_value x; subst x]) | (refine (fun hx : Keeps s x.1 => ?_) ?_ <;> [clear_value x; subst x]) | clear_value x)

theorem execPush_keeps (h : Keeps s t) (a1) : OutKeeps s (execPush a1 t) := by
  unfold execPush
  repeat'
    first
    | (show (_ : Nat) ≤ _; first | exact Nat.le_refl _ | simp)
    | intro _
    | with_reducible (first | assumption | apply OutKeeps.next | apply updOp_keeps | apply settle_keeps | apply modUpd_keeps | apply each_keeps | apply offerTo_keeps | apply pushDone_keeps | apply pushOffers_keeps | apply ite_keeps)
    | split
    | (extract_lets +onlyGivenNames x; first | (refine (fun hx : Keeps s x => ?_) ?_ <;> [clear_value x; subst x]) | clear_value x)

theorem schedDone_keeps (h : Keeps s t) : Keeps s (schedDone t) := by
  unfold schedDone
  repeat'
    first
    | (show (_ : Nat) ≤ _; first | exact Nat.le_refl _ | simp)
    | intro _
    | with_reducible (first | assumption | apply settle_keeps | apply modUpd_keeps)
    | split

theorem execSchedule_keeps (h : Keeps s t) (a1) : OutKeeps s (execSchedule a1 t) := by
  unfold execSchedule
  repeat'
    first
    | (show (_ : Nat) ≤ _; first | exact Nat.le_refl _ | simp [withSlot_seq, withSlot_ledgerFloor])
    | (show FlightFn _; exact fun x => ⟨sameAcceptance_refl x, fun _ => rfl⟩)
    | intro _
    | with_reducible (first | assumption | apply OutKeeps.next | apply updOp_keeps | apply settle_keeps | apply journal_keeps | apply each_keeps | apply sendSched_keeps | apply schedDone_keeps | apply modUpd_keeps | apply modFlight_keeps | apply ite_keeps)
    | split
    | (extract_lets +onlyGivenNames x; first | (refine (fun hx : Keeps s x => ?_) ?_ <;> [clear_value x; subst x]) | clear_value x)

theorem unschedule_keeps (h : Keeps s t) (a1) : Keeps s (unschedule a1 t) := by
  unfold unschedule
  repeat'
    first
    | (show (_ : Nat) ≤ _; first | exact Nat.le_refl _ | simp [withSlot_seq, withSlot_ledgerFloor])
    | intro _
    | with_reducible (first | assumption | apply journal_keeps)

theorem execCancel_keeps (h : Keeps s t) (a1) : OutKeeps s (execCancel a1 t) := by
  unfold execCancel
  repeat'
    first
    | intro _
    | with_reducible (first | assumption | apply OutKeeps.next | apply updOp_keeps | apply settle_keeps | apply unschedule_keeps | apply each_keeps | apply sendData_keeps)
    | split
    | (extract_lets +onlyGivenNames x; first | (refine (fun hx : Keeps s x => ?_) ?_ <;> [clear_value x; subst x]) | clear_value x)

theorem putBank_keeps (h : Keeps s t) (a1) (a2) : Keeps s (putBank a1 a2 t) := by
  unfold putBank
  repeat'
    first
    | (show (_ : Nat) ≤ _; first | exact Nat.le_refl _ | simp)
    | intro _
    | with_reducible (first | assumption | apply modUpd_keeps | apply ite_keeps)
    | split

theorem placeRec_keeps {s t u : State} (h : Keeps s t) {a1} (e : placeRec a1 t = some u) : Keeps s u := by
  unfold placeRec at e
  dsimp only at e
  split at e
  · cases e; exact putBank_keeps h _ _
  · split at e
    · cases e; exact putBank_keeps h _ _
    · cases e

theorem storeRec_keeps (h : Keeps s t) (a1) (a2) : Keeps s (storeRec a1 a2 t) := by
  unfold storeRec
  repeat'
    first
    | intro _
    | with_reducible (first | assumption | apply settle_keeps | apply updEvent_keeps | refine placeRec_keeps ?_ (by with_reducible assumption))
    | split

theorem execCfgWrite_keeps (h : Keeps s t) (a1) (a2) (a3) (a4) : OutKeeps s (execCfgWrite a1 a2 a3 a4 t) := by
  unfold execCfgWrite
  repeat'
    first
    | intro _
    | with_reducible (first | assumption | apply OutKeeps.next | apply updOp_keeps | apply withRead_keeps | apply settle_keeps | apply pkeRan_keeps | apply storeRec_keeps | apply ite_keeps)
    | split
    | (extract_lets +onlyGivenNames x; first | (refine (fun hx : Keeps s x => ?_) ?_ <;> [clear_value x; subst x]) | (refine (fun hx : Keeps s x.2 => ?_) ?_ <;> [clear_value x; subst x]) | (refine (fun hx : Keeps s x.1 => ?_) ?_ <;> [clear_value x; subst x]) | clear_value x)

theorem execUpdStatus_keeps (h : Keeps s t) (a1) (a2) : OutKeeps s (execUpdStatus a1 a2 t) := by
  unfold execUpdStatus
  repeat'
    first
    | intro _
    | with_reducible (first | assumption | apply OutKeeps.next | apply startOp_keeps | apply writeAndSettle_keeps)

theorem sendNeed_keeps (h : Keeps s t) : Keeps s (sendNeed t) := by
  unfold sendNeed
  repeat'
    first
    | (show (_ : Nat) ≤ _; first | exact Nat.le_refl _ | simp)
    | intro _
    | with_reducible (first | assumption | apply sendMsg_keeps | apply modUpd_keeps | apply ite_keeps)
    | split
    | (extract_lets +onlyGivenNames x; first | (refine (fun hx : Keeps s x => ?_) ?_ <;> [clear_value x; subst x]) | clear_value x)

theorem beginRecv_keeps (h : Keeps s t) (a1) (a2) (a3) : Keeps s (beginRecv a1 a2 a3 t) := by
  unfold beginRecv
  repeat'
    first
    | (show (_ : Nat) ≤ _; first | exact Nat.le_refl _ | simp)
    | intro _
    | with_reducible (first | assumption | apply sendNeed_keeps | apply modUpd_keeps)
    | split
    | (extract_lets +onlyGivenNames x; first | (refine (fun hx : Keeps s x => ?_) ?_ <;> [clear_value x; subst x]) | clear_value x)

theorem beginHearth_keeps (h : Keeps s t) (a1) (a2) : Keeps s (beginHearth a1 a2 t) := by
  unfold beginHearth
  repeat'
    first
    | (show (_ : Nat) ≤ _; first | exact Nat.le_refl _ | simp)
    | intro _
    | with_reducible (first | assumption | apply uartLine_keeps | apply modUpd_keeps)

theorem execOffer_keeps (h : Keeps s t) (a1) (a2) : OutKeeps s (execOffer a1 a2 t) := by
  unfold execOffer
  repeat'
    first
    | intro _
    | with_reducible (first | assumption | apply OutKeeps.next | apply answer_keeps | apply beginRecv_keeps | apply beginHearth_keeps | apply ite_keeps)
    | split
    | (extract_lets +onlyGivenNames x; first | (refine (fun hx : Keeps s x => ?_) ?_ <;> [clear_value x; subst x]) | clear_value x)

theorem endRecv_keeps (h : Keeps s t) (a1) (a2) (a3) : Keeps s (endRecv a1 a2 a3 t) := by
  unfold endRecv
  repeat'
    first
    | (show (_ : Nat) ≤ _; first | exact Nat.le_refl _ | simp)
    | intro _
    | with_reducible (first | assumption | apply answer_keeps | apply modUpd_keeps)

theorem recvComplete_keeps (h : Keeps s t) (a1) (a2) : Keeps s (recvComplete a1 a2 t) := by
  unfold recvComplete
  repeat'
    first
    | (show (_ : Nat) ≤ _; first | exact Nat.le_refl _ | simp)
    | intro _
    | with_reducible (first | assumption | apply modUpd_keeps | apply uartLine_keeps | apply endRecv_keeps | apply slotBad_keeps | apply updEvent_keeps | apply slotState_keeps | apply each_keeps | apply offerTo_keeps | apply ite_keeps)
    | split
    | (extract_lets +onlyGivenNames x; first | (refine (fun hx : Keeps s x => ?_) ?_ <;> [clear_value x; subst x]) | clear_value x)

theorem blockArrived_keeps (h : Keeps s t) (a1) (a2) (a3) : Keeps s (blockArrived a1 a2 a3 t) := by
  unfold blockArrived
  repeat'
    first
    | (show (_ : Nat) ≤ _; first | exact Nat.le_refl _ | simp)
    | intro _
    | with_reducible (first | assumption | apply endRecv_keeps | apply modUpd_keeps | apply beginSlot_keeps | apply putBlock_keeps | apply sendNeed_keeps | apply recvComplete_keeps | apply ite_keeps)
    | split
    | (extract_lets +onlyGivenNames x; first | (refine (fun hx : Keeps s x => ?_) ?_ <;> [clear_value x; subst x]) | clear_value x)

theorem execPiece_keeps (h : Keeps s t) (a1) (a2) (a3) : OutKeeps s (execPiece a1 a2 a3 t) := by
  unfold execPiece
  repeat'
    first
    | (show (_ : Nat) ≤ _; first | exact Nat.le_refl _ | simp)
    | intro _
    | with_reducible (first | assumption | apply OutKeeps.next | apply modUpd_keeps | apply blockArrived_keeps | apply ite_keeps)
    | split
    | (extract_lets +onlyGivenNames x; first | (refine (fun hx : Keeps s x => ?_) ?_ <;> [clear_value x; subst x]) | (refine (fun hx : Keeps s x.2 => ?_) ?_ <;> [clear_value x; subst x]) | (refine (fun hx : Keeps s x.1 => ?_) ?_ <;> [clear_value x; subst x]) | clear_value x)

theorem execNeedTimer_keeps (h : Keeps s t) : OutKeeps s (execNeedTimer t) := by
  unfold execNeedTimer
  repeat'
    first
    | (show (_ : Nat) ≤ _; first | exact Nat.le_refl _ | simp)
    | intro _
    | with_reducible (first | assumption | apply OutKeeps.next | apply elapseTo_keeps | apply sendNeed_keeps | apply modUpd_keeps)
    | split
    | (extract_lets +onlyGivenNames x; first | (refine (fun hx : Keeps s x => ?_) ?_ <;> [clear_value x; subst x]) | clear_value x)

theorem execNeed_keeps (h : Keeps s t) (a1) (a2) : OutKeeps s (execNeed a1 a2 t) := by
  unfold execNeed
  repeat'
    first
    | (show (_ : Nat) ≤ _; first | exact Nat.le_refl _ | simp)
    | intro _
    | with_reducible (first | assumption | apply OutKeeps.next | apply modUpd_keeps | apply each_keeps | apply sendMsg_keeps | apply ite_keeps)
    | split
    | (extract_lets +onlyGivenNames x; first | (refine (fun hx : Keeps s x => ?_) ?_ <;> [clear_value x; subst x]) | clear_value x)

theorem pushStatus_keeps (h : Keeps s t) (a1) (a2) (a3) : Keeps s (pushStatus a1 a2 a3 t) := by
  unfold pushStatus
  repeat'
    first
    | (show (_ : Nat) ≤ _; first | exact Nat.le_refl _ | simp)
    | (show FlightFn _; exact fun x => ⟨sameAcceptance_refl x, fun _ => rfl⟩)
    | intro _
    | with_reducible (first | assumption | apply pushDone_keeps | apply modUpd_keeps | apply modFlight_keeps | apply pushClosed_keeps | apply ite_keeps)
    | split
    | (extract_lets +onlyGivenNames x; first | (refine (fun hx : Keeps s x => ?_) ?_ <;> [clear_value x; subst x]) | clear_value x)

theorem schedStatus_keeps (h : Keeps s t) (a1) (a2) : Keeps s (schedStatus a1 a2 t) := by
  unfold schedStatus
  repeat'
    first
    | (show (_ : Nat) ≤ _; first | exact Nat.le_refl _ | simp)
    | (show FlightFn _; exact fun x => ⟨sameAcceptance_refl x, fun _ => rfl⟩)
    | intro _
    | with_reducible (first | assumption | apply schedDone_keeps | apply modUpd_keeps | apply modFlight_keeps | apply ite_keeps)
    | split
    | (extract_lets +onlyGivenNames x; first | (refine (fun hx : Keeps s x => ?_) ?_ <;> [clear_value x; subst x]) | clear_value x)

theorem execTransportStatus_keeps (h : Keeps s t) (a1) (a2) : OutKeeps s (execTransportStatus a1 a2 t) := by
  unfold execTransportStatus
  repeat'
    first
    | (show (_ : Nat) ≤ _; first | exact Nat.le_refl _ | simp)
    | intro _
    | with_reducible (first | assumption | apply OutKeeps.next | apply modUpd_keeps | apply sendData_keeps | apply schedStatus_keeps | apply pushStatus_keeps | apply ite_keeps)
    | split
    | (extract_lets +onlyGivenNames x; first | (refine (fun hx : Keeps s x => ?_) ?_ <;> [clear_value x; subst x]) | clear_value x)

theorem dropIdle_keeps (h : Keeps s t) (a1) : Keeps s (dropIdle a1 t) := by
  unfold dropIdle
  repeat'
    first
    | (show (_ : Nat) ≤ _; first | exact Nat.le_refl _ | simp)
    | intro _
    | with_reducible (first | assumption | apply modUpd_keeps | apply pushDone_keeps | apply pushClosed_keeps | apply ite_keeps)
    | split
    | (extract_lets +onlyGivenNames x; first | (refine (fun hx : Keeps s x => ?_) ?_ <;> [clear_value x; subst x]) | clear_value x)

theorem giveUpIdle_keeps (h : Keeps s t) (a1) : Keeps s (giveUpIdle a1 t) := by
  unfold giveUpIdle
  repeat'
    first
    | (show (_ : Nat) ≤ _; first | exact Nat.le_refl _ | simp)
    | intro _
    | with_reducible (first | assumption | apply modUpd_keeps | apply dropIdle_keeps | apply ite_keeps)
    | split

theorem execTransferAbandon_keeps (h : Keeps s t) : OutKeeps s (execTransferAbandon t) := by
  unfold execTransferAbandon
  repeat'
    first
    | intro _
    | with_reducible (first | assumption | apply OutKeeps.next | apply giveUpIdle_keeps | apply elapseTo_keeps)
    | split

theorem execSched_keeps (h : Keeps s t) (a1) (a2) : OutKeeps s (execSched a1 a2 t) := by
  unfold execSched
  repeat'
    first
    | (show (_ : Nat) ≤ _; first | exact Nat.le_refl _ | simp [withSlot_seq, withSlot_ledgerFloor])
    | intro _
    | with_reducible (first | assumption | apply OutKeeps.next | apply answer_keeps | apply journal_keeps | apply modUpd_keeps | apply ite_keeps)
    | split
    | (extract_lets +onlyGivenNames x; first | (refine (fun hx : Keeps s x => ?_) ?_ <;> [clear_value x; subst x]) | (refine (fun hx : ∀ {t}, Keeps s t → Keeps s (x t) => ?_) ?_ <;> [clear_value x; subst x]) | clear_value x)

theorem execUnsched_keeps (h : Keeps s t) (a1) (a2) : OutKeeps s (execUnsched a1 a2 t) := by
  unfold execUnsched
  repeat'
    first
    | intro _
    | with_reducible (first | assumption | apply OutKeeps.next | apply answer_keeps | apply unschedule_keeps | apply ite_keeps)
    | split
    | (extract_lets +onlyGivenNames x; first | (refine (fun hx : Keeps s x => ?_) ?_ <;> [clear_value x; subst x]) | clear_value x)

theorem execSchedRepeat_keeps (h : Keeps s t) : OutKeeps s (execSchedRepeat t) := by
  unfold execSchedRepeat
  repeat'
    first
    | (show (_ : Nat) ≤ _; first | exact Nat.le_refl _ | simp)
    | intro _
    | with_reducible (first | assumption | apply OutKeeps.next | apply elapseTo_keeps | apply each_keeps | apply sendSched_keeps | apply modUpd_keeps | apply ite_keeps)
    | split
    | (extract_lets +onlyGivenNames x; first | (refine (fun hx : Keeps s x => ?_) ?_ <;> [clear_value x; subst x]) | clear_value x)

end Sys2Proof.Machine
end

