-- ==== Sys2Proof/Laws/KeepsReset.lean ====
section
/-! SUPPORT. What the operations of Reset, Power, Parking, Activate, Admission keep (Safety.Keeps), one lemma each, in the order of their definitions. -/

set_option linter.unusedTactic false
set_option linter.unreachableTactic false
set_option linter.unusedSimpArgs false

namespace Sys2Proof.Machine

variable {s t : State}

theorem requeue_keeps {s t : State} (h : Keeps s t) : Keeps s (requeue t) := by
  unfold requeue
  refine modSys_keeps (modHost_keeps h _ ?_) _
  intro b i x hx
  refine ⟨_, by simp [hx]; rfl, ?_⟩
  split <;> simp_all [sameAcceptance]

theorem length_startLanesFrom (i n : Nat) (l : List Lane) : (startLanesFrom i n l).length = l.length := by
  induction l generalizing i n with
  | nil => rfl
  | cons a l ih => unfold startLanesFrom; dsimp only; repeat' split; all_goals simp [ih]

theorem resetBlocks_keeps {s t : State} (h : Keeps s t) (a1) : Keeps s (resetBlocks a1 t) := by
  unfold resetBlocks
  extract_lets +onlyGivenNames now
  clear_value now
  extract_lets +onlyGivenNames x
  have hx : Keeps s x := requeue_keeps h
  clear_value x
  extract_lets +onlyGivenNames y
  have hy : Keeps s y := each_keeps hx _ _ fun m _ k => onlyIf_keeps k _ _ fun k => emit_keeps k _
  clear_value y
  extract_lets +onlyGivenNames z
  have hz : Keeps s z := onlyIf_keeps hy _ _ fun k => emit_keeps k _
  clear_value z
  refine hz.trans ⟨.refl _, Nat.le_refl _, Nat.le_refl _, Nat.le_refl _, Nat.le_refl _, rfl, ?_⟩
  cases a1 <;> simp [counts, resetClk, resetSec, resetIfl, resetCus, resetPwr, startLanes, length_startLanesFrom]
  split <;> simp

theorem coldReset_keeps (h : Keeps s t) : Keeps s (coldReset t) := by
  unfold coldReset
  repeat'
    first
    | intro _
    | with_reducible (first | assumption | apply modDir_keeps | apply resetBlocks_keeps)

theorem loseAon_keeps (h : Keeps s t) : Keeps s (loseAon t) := by
  unfold loseAon
  repeat'
    first
    | (show (_ : Nat) = _; first | rfl | exact length_modAt _ _ _ | simp only [List.length_map, length_modAt, List.length_zipIdx])
    | (show (_ : Nat) ≤ _; first | exact Nat.le_refl _ | simp)
    | (show FlightsKept _ _; first | exact FlightsKept.refl _ | exact flightsKept_append _ _)
    | intro _
    | with_reducible (first | assumption | apply modClk_keeps | apply modPwr_keeps | apply modSlk_keeps | apply modFlt_keeps | apply modSec_keeps | apply modSlc_keeps | apply modHost_keeps)
    | split
    | (extract_lets +onlyGivenNames x; first | (refine (fun hx : Keeps s x => ?_) ?_ <;> [clear_value x; subst x]) | (refine (fun hx : Keeps s x.2 => ?_) ?_ <;> [clear_value x; subst x]) | (refine (fun hx : Keeps s x.1 => ?_) ?_ <;> [clear_value x; subst x]) | clear_value x)

theorem pickPair_keeps (h : Keeps s t) (a1) : Keeps s (pickPair a1 t) := by
  unfold pickPair
  repeat'
    first
    | (show (_ : Nat) = _; first | rfl | exact length_modAt _ _ _ | simp only [List.length_map, length_modAt, List.length_zipIdx])
    | intro _
    | with_reducible (first | assumption | apply modPwr_keeps | apply ite_keeps)
    | split

theorem takeCheckpoint_keeps (h : Keeps s t) : Keeps s (takeCheckpoint t) := by
  unfold takeCheckpoint
  repeat'
    first
    | (show (_ : Nat) = _; first | rfl | exact length_modAt _ _ _ | simp only [List.length_map, length_modAt, List.length_zipIdx])
    | (show FlightsKept _ _; first | exact FlightsKept.refl _ | exact flightsKept_append _ _)
    | intro _
    | with_reducible (first | assumption | apply modPwr_keeps | apply modHost_keeps | apply logRec_keeps | apply ite_keeps)
    | split

theorem raiseDue_keeps (h : Keeps s t) : Keeps s (raiseDue t) := by
  unfold raiseDue
  repeat'
    first
    | intro _
    | with_reducible (first | assumption | apply raiseEach_keeps)

theorem raiseHearth_keeps (h : Keeps s t) : Keeps s (raiseHearth t) := by
  unfold raiseHearth
  repeat'
    first
    | intro _
    | with_reducible (first | assumption | apply raiseEach_keeps)

theorem enterHearth_keeps (h : Keeps s t) (a1) : Keeps s (enterHearth a1 t) := by
  unfold enterHearth
  repeat'
    first
    | (show (_ : Nat) = _; first | rfl | exact length_modAt _ _ _ | simp only [List.length_map, length_modAt, List.length_zipIdx])
    | (show (_ : Nat) ≤ _; first | exact Nat.le_refl _ | simp)
    | intro _
    | with_reducible (first | assumption | apply lowerEnable_keeps | apply resetBlocks_keeps | apply onlyIf_keeps | apply cntRateChange_keeps | apply modPwr_keeps | apply trainLink_keeps | apply raiseHearth_keeps | apply modUpd_keeps | apply modFlt_keeps)
    | split
    | (extract_lets +onlyGivenNames x; first | (refine (fun hx : Keeps s x => ?_) ?_ <;> [clear_value x; subst x]) | clear_value x)

theorem startUp_keeps (h : Keeps s t) (a1) (a2) : Keeps s (startUp a1 a2 t) := by
  unfold startUp
  repeat'
    first
    | (show (_ : Nat) = _; first | rfl | exact length_modAt _ _ _ | simp only [List.length_map, length_modAt, List.length_zipIdx])
    | intro _
    | with_reducible (first | assumption | apply raiseDue_keeps | apply modPwr_keeps | apply modSys_keeps | apply ite_keeps)
    | split

theorem fullReset_keeps (h : Keeps s t) (a1) : Keeps s (fullReset a1 t) := by
  unfold fullReset
  repeat'
    first
    | intro _
    | with_reducible (first | assumption | apply startUp_keeps | apply pickPair_keeps | apply coldReset_keeps | apply ite_keeps)
    | split

theorem execVaonGood_keeps (h : Keeps s t) : OutKeeps s (execVaonGood t) := by
  unfold execVaonGood
  repeat'
    first
    | (show (_ : Nat) = _; first | rfl | exact length_modAt _ _ _ | simp only [List.length_map, length_modAt, List.length_zipIdx])
    | intro _
    | with_reducible (first | assumption | apply OutKeeps.next | apply modPwr_keeps | apply pickPair_keeps | apply coldReset_keeps | apply drivePins_keeps | apply startUp_keeps | apply ite_keeps)
    | split
    | (extract_lets +onlyGivenNames x; first | (refine (fun hx : Keeps s x => ?_) ?_ <;> [clear_value x; subst x]) | clear_value x)

theorem execVaonBrownOut_keeps (h : Keeps s t) : OutKeeps s (execVaonBrownOut t) := by
  unfold execVaonBrownOut
  repeat'
    first
    | (show (_ : Nat) = _; first | rfl | exact length_modAt _ _ _ | simp only [List.length_map, length_modAt, List.length_zipIdx])
    | intro _
    | with_reducible (first | assumption | apply OutKeeps.next | apply fromRtc_keeps | apply lowerFrom_keeps | apply linkDown_keeps | apply coldReset_keeps | apply drivePins_keeps | apply modPwr_keeps | apply ite_keeps)
    | split
    | (extract_lets +onlyGivenNames x; first | (refine (fun hx : Keeps s x => ?_) ?_ <;> [clear_value x; subst x]) | clear_value x)

theorem execAonSupplyChangeover_keeps (h : Keeps s t) : OutKeeps s (execAonSupplyChangeover t) := by
  unfold execAonSupplyChangeover
  repeat'
    first
    | (show (_ : Nat) = _; first | rfl | exact length_modAt _ _ _ | simp only [List.length_map, length_modAt, List.length_zipIdx])
    | intro _
    | with_reducible (first | assumption | apply OutKeeps.next | apply modPwr_keeps)

theorem execAonLoss_keeps (h : Keeps s t) : OutKeeps s (execAonLoss t) := by
  unfold execAonLoss
  repeat'
    first
    | intro _
    | with_reducible (first | assumption | apply OutKeeps.next | apply loseAon_keeps | apply ite_keeps)
    | split

theorem execVkeepLow_keeps (h : Keeps s t) (a1) : OutKeeps s (execVkeepLow a1 t) := by
  unfold execVkeepLow
  repeat'
    first
    | (show (_ : Nat) = _; first | rfl | exact length_modAt _ _ _ | simp only [List.length_map, length_modAt, List.length_zipIdx])
    | intro _
    | with_reducible (first | assumption | apply OutKeeps.next | apply modPwr_keeps | apply fault_keeps | apply ite_keeps)
    | split
    | (extract_lets +onlyGivenNames x; first | (refine (fun hx : Keeps s x => ?_) ?_ <;> [clear_value x; subst x]) | clear_value x)

theorem railLost_keeps (h : Keeps s t) (a1) : Keeps s (railLost a1 t) := by
  unfold railLost
  repeat'
    first
    | (show (_ : Nat) = _; first | rfl | exact length_modAt _ _ _ | simp only [List.length_map, length_modAt, List.length_zipIdx])
    | intro _
    | with_reducible (first | assumption | apply fault_keeps | apply modPwr_keeps)

theorem execVcoreBrownOut_keeps (h : Keeps s t) (a1) : OutKeeps s (execVcoreBrownOut a1 t) := by
  unfold execVcoreBrownOut
  repeat'
    first
    | (show (_ : Nat) = _; first | rfl | exact length_modAt _ _ _ | simp only [List.length_map, length_modAt, List.length_zipIdx])
    | intro _
    | with_reducible (first | assumption | apply OutKeeps.next | apply modPwr_keeps | apply fullReset_keeps | apply ite_keeps)
    | split
    | (extract_lets +onlyGivenNames x; first | (refine (fun hx : Keeps s x => ?_) ?_ <;> [clear_value x; subst x]) | clear_value x)

theorem execDramRailFault_keeps (h : Keeps s t) (a1) : OutKeeps s (execDramRailFault a1 t) := by
  unfold execDramRailFault
  repeat'
    first
    | intro _
    | with_reducible (first | assumption | apply OutKeeps.next | apply modDir_keeps | apply railLost_keeps | apply ite_keeps)
    | split
    | (extract_lets +onlyGivenNames x; first | (refine (fun hx : Keeps s x => ?_) ?_ <;> [clear_value x; subst x]) | clear_value x)

theorem chainsLeave_keeps (h : Keeps s t) : Keeps s (chainsLeave t) := by
  unfold chainsLeave
  repeat'
    first
    | intro _
    | with_reducible (first | assumption | apply onlyIf_keeps | apply uhfEvent_keeps)

theorem readersLeave_keeps (h : Keeps s t) : Keeps s (readersLeave t) := by
  unfold readersLeave
  repeat'
    first
    | intro _
    | with_reducible (first | assumption | apply onlyIf_keeps | apply nfcEvent_keeps)

theorem portsLost_keeps (h : Keeps s t) (a1) : Keeps s (portsLost a1 t) := by
  unfold portsLost
  repeat'
    first
    | intro _
    | with_reducible (first | assumption | apply lfCut_keeps | apply passiveEnds_keeps | apply readersLeave_keeps | apply each_keeps | apply readerLost_keeps | apply chainsGone_keeps | apply chainsLeave_keeps | apply portDown_keeps)
    | split

theorem execPortRailFault_keeps (h : Keeps s t) (a1) : OutKeeps s (execPortRailFault a1 t) := by
  unfold execPortRailFault
  repeat'
    first
    | intro _
    | with_reducible (first | assumption | apply OutKeeps.next | apply portsLost_keeps | apply railLost_keeps | apply ite_keeps)
    | split
    | (extract_lets +onlyGivenNames x; first | (refine (fun hx : Keeps s x => ?_) ?_ <;> [clear_value x; subst x]) | clear_value x)

theorem drivesDrop_keeps (h : Keeps s t) : Keeps s (drivesDrop t) := by
  unfold drivesDrop
  repeat'
    first
    | intro _
    | with_reducible (first | assumption | apply each_keeps | apply modDrive_keeps | apply ite_keeps)
    | split

theorem clockReports_keeps (h : Keeps s t) (a1) : Keeps s (clockReports a1 t) := by
  unfold clockReports
  repeat'
    first
    | intro _
    | with_reducible (first | assumption | apply each_keeps | apply onlyIf_keeps | apply reportUnit_keeps | apply ite_keeps)
    | split

theorem execClockSwitchWindowEnd_keeps (h : Keeps s t) (a1) : OutKeeps s (execClockSwitchWindowEnd a1 t) := by
  unfold execClockSwitchWindowEnd
  repeat'
    first
    | (show (_ : Nat) = _; first | rfl | exact length_modAt _ _ _ | simp only [List.length_map, length_modAt, List.length_zipIdx])
    | intro _
    | with_reducible (first | assumption | apply OutKeeps.next | apply modClk_keeps | apply fault_keeps | apply chainsGone_keeps | apply chainsLeave_keeps | apply drivesDrop_keeps | apply each_keeps | apply portDown_keeps | apply clockReports_keeps | apply ite_keeps)
    | split
    | (extract_lets +onlyGivenNames x; first | (refine (fun hx : Keeps s x => ?_) ?_ <;> [clear_value x; subst x]) | clear_value x)

theorem execXtal25Return_keeps (h : Keeps s t) : OutKeeps s (execXtal25Return t) := by
  unfold execXtal25Return
  repeat'
    first
    | (show (_ : Nat) = _; first | rfl | exact length_modAt _ _ _ | simp only [List.length_map, length_modAt, List.length_zipIdx])
    | intro _
    | with_reducible (first | assumption | apply OutKeeps.next | apply clockReports_keeps | apply fault_keeps | apply modClk_keeps | apply onlyIf_keeps | apply nextPoll_keeps | apply ite_keeps)
    | split
    | (extract_lets +onlyGivenNames x; first | (refine (fun hx : Keeps s x => ?_) ?_ <;> [clear_value x; subst x]) | clear_value x)

theorem execLinkRailFault_keeps (h : Keeps s t) (a1) : OutKeeps s (execLinkRailFault a1 t) := by
  unfold execLinkRailFault
  repeat'
    first
    | intro _
    | with_reducible (first | assumption | apply OutKeeps.next | apply drivesDrop_keeps | apply linkDown_keeps | apply onlyIf_keeps | apply coexPins_keeps | apply railLost_keeps | apply ite_keeps)
    | split
    | (extract_lets +onlyGivenNames x; first | (refine (fun hx : Keeps s x => ?_) ?_ <;> [clear_value x; subst x]) | clear_value x)

theorem execRailGoodReturn_keeps (h : Keeps s t) (a1) : OutKeeps s (execRailGoodReturn a1 t) := by
  unfold execRailGoodReturn
  repeat'
    first
    | (show (_ : Nat) = _; first | rfl | exact length_modAt _ _ _ | simp only [List.length_map, length_modAt, List.length_zipIdx])
    | intro _
    | with_reducible (first | assumption | apply OutKeeps.next | apply modPwr_keeps | apply writeFault_keeps | apply trainLink_keeps | apply onlyIf_keeps | apply coexPins_keeps | apply startRebuild_keeps | apply ite_keeps)
    | split
    | (extract_lets +onlyGivenNames x; first | (refine (fun hx : Keeps s x => ?_) ?_ <;> [clear_value x; subst x]) | clear_value x)

theorem sliceServes_keeps (h : Keeps s t) : Keeps s (sliceServes t) := by
  unfold sliceServes
  repeat'
    first
    | intro _
    | with_reducible (first | assumption | apply buttonFrame_keeps | apply modRadio_keeps | apply onlyIf_keeps | apply nextPoll_keeps)
    | split
    | (extract_lets +onlyGivenNames x; first | (refine (fun hx : Keeps s x => ?_) ?_ <;> [clear_value x; subst x]) | clear_value x)

theorem parkedGroupGood_keeps (h : Keeps s t) (a1) : Keeps s (parkedGroupGood a1 t) := by
  unfold parkedGroupGood
  repeat'
    first
    | intro _
    | with_reducible (first | assumption | apply onlyIf_keeps | apply raiseEach_keeps | apply sliceServes_keeps | apply slicePowered_keeps)
    | split
    | (extract_lets +onlyGivenNames x; first | (refine (fun hx : Keeps s x => ?_) ?_ <;> [clear_value x; subst x]) | clear_value x)

theorem parkedGroupLate_keeps (h : Keeps s t) : Keeps s (parkedGroupLate t) := by
  unfold parkedGroupLate
  repeat'
    first
    | (show (_ : Nat) = _; first | rfl | exact length_modAt _ _ _ | simp only [List.length_map, length_modAt, List.length_zipIdx])
    | intro _
    | with_reducible (first | assumption | apply modRadio_keeps | apply modPwr_keeps | apply ite_keeps)
    | split

theorem execEnableGroupGood_keeps (h : Keeps s t) (a1) : OutKeeps s (execEnableGroupGood a1 t) := by
  unfold execEnableGroupGood
  repeat'
    first
    | (show (_ : Nat) = _; first | rfl | exact length_modAt _ _ _ | simp only [List.length_map, length_modAt, List.length_zipIdx])
    | intro _
    | with_reducible (first | assumption | apply OutKeeps.next | apply modPwr_keeps | apply onlyIf_keeps | apply coexPins_keeps | apply parkedGroupGood_keeps | apply trainLink_keeps | apply raiseHearth_keeps | apply raiseDue_keeps | apply ite_keeps)
    | split
    | (extract_lets +onlyGivenNames x; first | (refine (fun hx : Keeps s x => ?_) ?_ <;> [clear_value x; subst x]) | clear_value x)

theorem execEnableGroupTimeout_keeps (h : Keeps s t) (a1) : OutKeeps s (execEnableGroupTimeout a1 t) := by
  unfold execEnableGroupTimeout
  repeat'
    first
    | (show (_ : Nat) = _; first | rfl | exact length_modAt _ _ _ | simp only [List.length_map, length_modAt, List.length_zipIdx])
    | intro _
    | with_reducible (first | assumption | apply OutKeeps.next | apply lowerFrom_keeps | apply elapseTo_keeps | apply modPwr_keeps | apply fault_keeps | apply onlyIf_keeps | apply parkedGroupLate_keeps | apply fromRtc_keeps | apply ite_keeps)
    | split
    | (extract_lets +onlyGivenNames x; first | (refine (fun hx : Keeps s x => ?_) ?_ <;> [clear_value x; subst x]) | clear_value x)

theorem trialFails_keeps (h : Keeps s t) (a1) : Keeps s (trialFails a1 t) := by
  unfold trialFails
  repeat'
    first
    | intro _
    | with_reducible (first | assumption | apply updEvent_keeps | apply slotState_keeps)

theorem trySlot_keeps (h : Keeps s t) (a1) : Keeps s (trySlot a1 t).2 := by
  unfold trySlot
  repeat'
    first
    | (show (_ : Nat) ≤ _; first | exact Nat.le_refl _ | simp)
    | intro _
    | with_reducible (first | assumption | apply trialFails_keeps | apply slotState_keeps | apply journal_keeps | apply ite_keeps)
    | split
    | (extract_lets +onlyGivenNames x; first | (refine (fun hx : Keeps s x => ?_) ?_ <;> [clear_value x; subst x]) | clear_value x)
    | dsimp only

theorem bootChoice_keeps (h : Keeps s t) : Keeps s (bootChoice t).2 := by
  unfold bootChoice
  repeat'
    first
    | (show (_ : Nat) ≤ _; first | exact Nat.le_refl _ | simp)
    | intro _
    | with_reducible (first | assumption | apply journal_keeps | apply trySlot_keeps | apply trialFails_keeps | apply ite_keeps)
    | split
    | (extract_lets +onlyGivenNames x; first | (refine (fun hx : Keeps s x => ?_) ?_ <;> [clear_value x; subst x]) | clear_value x)
    | dsimp only

theorem execFuseLoadEnd_keeps {s t : State} (h : Keeps s t) : OutKeeps s (execFuseLoadEnd t) := by
  unfold execFuseLoadEnd
  refine OutKeeps.next ?_
  have k := bootChoice_keeps h
  split
  · split
    · exact enterHearth_keeps (drawn_keeps h _) _
    · split
      · rename_i e
        rw [e] at k
        refine modPwr_keeps (modUpd_keeps (t := _) ?_ _ ?_ ?_) _ fun _ => rfl
        · exact k
        · exact fun _ => Nat.le_refl _
        · exact fun _ => Nat.le_refl _
      · rename_i e
        rw [e] at k
        exact enterHearth_keeps k _
  · exact h

theorem length_loadPins (p : Option PowerRec) (l : List WakePin) : (loadPins p l).length = l.length := by
  unfold loadPins
  rw [List.length_map, List.length_zipIdx]

theorem portsRefit_keeps (h : Keeps s t) (a1) : Keeps s (portsRefit a1 t) := by
  unfold portsRefit
  repeat'
    first
    | intro _
    | with_reducible (first | assumption | apply emit_keeps | apply onlyIf_keeps | apply drivePins_keeps | apply each_keeps | apply ite_keeps)
    | split
    | (extract_lets +onlyGivenNames x; first | (refine (fun hx : Keeps s x => ?_) ?_ <;> [clear_value x; subst x]) | clear_value x)

theorem takeRecords_keeps {s t : State} (h : Keeps s t) : Keeps s (takeRecords t) := by
  unfold takeRecords
  exact portsRefit_keeps (modPwr_keeps (modSys_keeps (modCfg_keeps h _) _) _ fun _ => length_loadPins _ _) _

theorem reportRecords_keeps (h : Keeps s t) : Keeps s (reportRecords t) := by
  unfold reportRecords
  repeat'
    first
    | intro _
    | with_reducible (first | assumption | apply each_keeps | apply writeFault_keeps | apply ite_keeps)
    | split
    | (extract_lets +onlyGivenNames x; first | (refine (fun hx : Keeps s x => ?_) ?_ <;> [clear_value x; subst x]) | (refine (fun hx : Keeps s x.2 => ?_) ?_ <;> [clear_value x; subst x]) | (refine (fun hx : Keeps s x.1 => ?_) ?_ <;> [clear_value x; subst x]) | clear_value x)

theorem checkUnit_keeps (h : Keeps s t) (a1) : Keeps s (checkUnit a1 t) := by
  unfold checkUnit
  repeat'
    first
    | (show (_ : Nat) = _; first | rfl | exact length_modAt _ _ _ | simp only [List.length_map, length_modAt, List.length_zipIdx])
    | intro _
    | with_reducible (first | assumption | apply fault_keeps | apply modFlt_keeps | apply modPwr_keeps | apply onlyIf_keeps | apply uhfEvent_keeps | apply modUhfCh_keeps | apply outOfService_keeps | apply ite_keeps)
    | split
    | (extract_lets +onlyGivenNames x; first | (refine (fun hx : Keeps s x => ?_) ?_ <;> [clear_value x; subst x]) | clear_value x)

theorem writeVcore_keeps (h : Keeps s t) (a1) : Keeps s (writeVcore a1 t) := by
  unfold writeVcore
  repeat'
    first
    | (show (_ : Nat) = _; first | rfl | exact length_modAt _ _ _ | simp only [List.length_map, length_modAt, List.length_zipIdx])
    | intro _
    | with_reducible (first | assumption | apply emit_keeps | apply modPwr_keeps | apply elapseNs_keeps)
    | split

theorem setVcore_keeps (h : Keeps s t) : Keeps s (setVcore t) := by
  unfold setVcore
  repeat'
    first
    | intro _
    | with_reducible (first | assumption | apply each_keeps | apply writeVcore_keeps | apply drawn_keeps | apply ite_keeps)
    | split
    | (extract_lets +onlyGivenNames x; first | (refine (fun hx : Keeps s x => ?_) ?_ <;> [clear_value x; subst x]) | clear_value x)

theorem execConfigurationLoad_keeps (h : Keeps s t) (a1) : OutKeeps s (execConfigurationLoad a1 t) := by
  unfold execConfigurationLoad
  repeat'
    first
    | (show (_ : Nat) = _; first | rfl | exact length_modAt _ _ _ | simp only [List.length_map, length_modAt, List.length_zipIdx])
    | intro _
    | with_reducible (first | assumption | apply OutKeeps.next | apply reportRecords_keeps | apply takeRecords_keeps | apply setVcore_keeps | apply each_keeps | apply checkUnit_keeps | apply modPwr_keeps | apply checkStarter_keeps | apply ite_keeps)
    | split
    | (extract_lets +onlyGivenNames x; first | (refine (fun hx : Keeps s x => ?_) ?_ <;> [clear_value x; subst x]) | clear_value x)

theorem endKeyWork_keeps (h : Keeps s t) : Keeps s (endKeyWork t) := by
  unfold endKeyWork
  repeat'
    first
    | intro _
    | with_reducible (first | assumption | apply each_keeps | apply settle_keeps | apply ite_keeps)
    | split

theorem stampAll_keeps {s t : State} (h : Keeps s t) : Keeps s (stampAll t) := by
  unfold stampAll
  dsimp only
  refine modHost_keeps (modCus_keeps (modSlc_keeps h _ ?_) _ ?_) _ fun b => ?_
  · exact fun _ => Nat.le_refl _
  · exact fun _ => rfl
  exact flightsKept_map b.flights _ fun x => ⟨sameAcceptance_refl x, fun _ => rfl⟩

theorem settleBroken_keeps (h : Keeps s t) : Keeps s (settleBroken t) := by
  unfold settleBroken
  repeat'
    first
    | intro _
    | with_reducible (first | assumption | apply each_keeps | apply settle_keeps | apply logPart_keeps | apply modSys_keeps)
    | split
    | (extract_lets +onlyGivenNames x; first | (refine (fun hx : Keeps s x => ?_) ?_ <;> [clear_value x; subst x]) | (refine (fun hx : Keeps s x.2 => ?_) ?_ <;> [clear_value x; subst x]) | (refine (fun hx : Keeps s x.1 => ?_) ?_ <;> [clear_value x; subst x]) | clear_value x)

theorem activate_keeps (h : Keeps s t) (a1) (a2) : Keeps s (activate a1 a2 t) := by
  unfold activate
  repeat'
    first
    | (show (_ : Nat) ≤ _; first | exact Nat.le_refl _ | simp [withSlot_seq, withSlot_ledgerFloor])
    | intro _
    | with_reducible (first | assumption | apply journal_keeps | apply ite_keeps)
    | split
    | (extract_lets +onlyGivenNames x; first | (refine (fun hx : Keeps s x => ?_) ?_ <;> [clear_value x; subst x]) | clear_value x)

theorem hearthRecord_keeps (h : Keeps s t) : Keeps s (hearthRecord t) := by
  unfold hearthRecord
  repeat'
    first
    | intro _
    | with_reducible (first | assumption | apply modFlt_keeps | apply writeFault_keeps | apply drawn_keeps | apply ite_keeps)
    | split
    | (extract_lets +onlyGivenNames x; first | (refine (fun hx : Keeps s x => ?_) ?_ <;> [clear_value x; subst x]) | clear_value x)

theorem tamperRecord_keeps (h : Keeps s t) : Keeps s (tamperRecord t) := by
  unfold tamperRecord
  repeat'
    first
    | intro _
    | with_reducible (first | assumption | apply modFlt_keeps | apply writeFault_keeps | apply ite_keeps)
    | split

theorem trialRelease_keeps (h : Keeps s t) : Keeps s (trialRelease t) := by
  unfold trialRelease
  repeat'
    first
    | (show (_ : Nat) ≤ _; first | exact Nat.le_refl _ | simp)
    | intro _
    | with_reducible (first | assumption | apply modUpd_keeps | apply journal_keeps | apply ite_keeps)
    | split

theorem beginParking_keeps (h : Keeps s t) : Keeps s (beginParking t) := by
  unfold beginParking
  repeat'
    first
    | (show (_ : Nat) = _; first | rfl | exact length_modAt _ _ _ | simp only [List.length_map, length_modAt, List.length_zipIdx])
    | intro _
    | with_reducible (first | assumption | apply modPwr_keeps | apply ite_keeps)
    | split

theorem release_keeps (h : Keeps s t) : Keeps s (release t) := by
  unfold release
  repeat'
    first
    | (show (_ : Nat) = _; first | rfl | exact length_modAt _ _ _ | simp only [List.length_map, length_modAt, List.length_zipIdx])
    | intro _
    | with_reducible (first | assumption | apply modSys_keeps | apply modPwr_keeps | apply modSlk_keeps | apply modRadio_keeps | apply modFlt_keeps | apply modCus_keeps | apply tamperRecord_keeps | apply hearthRecord_keeps | apply trainLink_keeps | apply trialRelease_keeps | apply linksReleased_keeps | apply heldDoorbells_keeps | apply onlyIf_keeps | apply startRebuild_keeps | apply lowBatteryAnew_keeps | apply sendState_keeps)
    | split
    | (extract_lets +onlyGivenNames x; first | (refine (fun hx : Keeps s x => ?_) ?_ <;> [clear_value x; subst x]) | clear_value x)

theorem warmReset_keeps (h : Keeps s t) (a1) : Keeps s (warmReset a1 t) := by
  unfold warmReset
  repeat'
    first
    | intro _
    | with_reducible (first | assumption | apply modSys_keeps | apply resetBlocks_keeps | apply pickPair_keeps | apply startUp_keeps | apply ite_keeps)
    | split
    | (extract_lets +onlyGivenNames x; first | (refine (fun hx : Keeps s x => ?_) ?_ <;> [clear_value x; subst x]) | clear_value x)

theorem execWarmReset_keeps (h : Keeps s t) (a1) : OutKeeps s (execWarmReset a1 t) := by
  unfold execWarmReset
  repeat'
    first
    | intro _
    | with_reducible (first | assumption | apply OutKeeps.next | apply warmReset_keeps | apply ite_keeps)
    | split

theorem execWatchdogExpiry_keeps (h : Keeps s t) : OutKeeps s (execWatchdogExpiry t) := by
  unfold execWatchdogExpiry
  repeat'
    first
    | intro _
    | with_reducible (first | assumption | apply OutKeeps.next | apply enterHearth_keeps | apply modSys_keeps | apply ite_keeps)
    | split

theorem execCheckpoint_keeps (h : Keeps s t) : OutKeeps s (execCheckpoint t) := by
  unfold execCheckpoint
  repeat'
    first
    | (show (_ : Nat) = _; first | rfl | exact length_modAt _ _ _ | simp only [List.length_map, length_modAt, List.length_zipIdx])
    | intro _
    | with_reducible (first | assumption | apply OutKeeps.next | apply elapseTo_keeps | apply takeCheckpoint_keeps | apply modPwr_keeps | apply ite_keeps)
    | split
    | (extract_lets +onlyGivenNames x; first | (refine (fun hx : Keeps s x => ?_) ?_ <;> [clear_value x; subst x]) | clear_value x)

theorem keptInParked_keeps {s t u : State} (h : Keeps s t) (k : Keeps s u) : Keeps s (keptInParked u t) := by
  refine ⟨h.flights, h.epoch, h.lsn, h.floor, h.seq, h.fuse, ?_⟩
  have a := h.counts
  have b := k.counts
  simp only [counts, Counts.mk.injEq, keptInParked, List.length_map] at a b ⊢
  exact ⟨a.1, a.2.1, a.2.2.1, a.2.2.2.1, b.2.2.2.2.1, a.2.2.2.2.2⟩

theorem resume_keeps (h : Keeps s t) (a1) : Keeps s (resume a1 t) := by
  unfold resume
  repeat'
    first
    | intro _
    | with_reducible (first | assumption | apply keptInParked_keeps | apply resetBlocks_keeps | apply startUp_keeps | apply cntRateChange_keeps | apply pickPair_keeps)
    | split
    | (extract_lets +onlyGivenNames x; first | (refine (fun hx : Keeps s x => ?_) ?_ <;> [clear_value x; subst x]) | clear_value x)

theorem cabTrigger_keeps (h : Keeps s t) : Keeps s (cabTrigger t) := by
  unfold cabTrigger
  repeat'
    first
    | (show (_ : Nat) = _; first | rfl | exact length_modAt _ _ _ | simp only [List.length_map, length_modAt, List.length_zipIdx])
    | intro _
    | with_reducible (first | assumption | apply resume_keeps | apply modPwr_keeps | apply abandonParking_keeps | apply ite_keeps)
    | split

theorem execPwrParkReq_keeps (h : Keeps s t) (a1) : OutKeeps s (execPwrParkReq a1 t) := by
  unfold execPwrParkReq
  repeat'
    first
    | intro _
    | with_reducible (first | assumption | apply OutKeeps.next | apply beginParking_keeps | apply ite_keeps)
    | split

theorem execPwrParkCancel_keeps (h : Keeps s t) (a1) : OutKeeps s (execPwrParkCancel a1 t) := by
  unfold execPwrParkCancel
  repeat'
    first
    | intro _
    | with_reducible (first | assumption | apply OutKeeps.next | apply abandonParking_keeps | apply ite_keeps)
    | split

theorem execParkedEntryIdle_keeps (h : Keeps s t) : OutKeeps s (execParkedEntryIdle t) := by
  unfold execParkedEntryIdle
  repeat'
    first
    | intro _
    | with_reducible (first | assumption | apply OutKeeps.next | apply beginParking_keeps | apply elapseTo_keeps | apply ite_keeps)
    | split

theorem execParkedEntryDrained_keeps (h : Keeps s t) : OutKeeps s (execParkedEntryDrained t) := by
  unfold execParkedEntryDrained
  repeat'
    first
    | (show (_ : Nat) = _; first | rfl | exact length_modAt _ _ _ | simp only [List.length_map, length_modAt, List.length_zipIdx])
    | intro _
    | with_reducible (first | assumption | apply OutKeeps.next | apply lockRequest_keeps | apply tryLog_keeps | apply takeCheckpoint_keeps | apply modPwr_keeps | apply ite_keeps)
    | split
    | (extract_lets +onlyGivenNames x; first | (refine (fun hx : Keeps s x => ?_) ?_ <;> [clear_value x; subst x]) | clear_value x)

theorem shutDrive_keeps (h : Keeps s t) (a1) (a2) : Keeps s (shutDrive a1 a2 t) := by
  unfold shutDrive
  repeat'
    first
    | intro _
    | with_reducible (first | assumption | apply onlyIf_keeps | apply emit_keeps | apply modDrive_keeps | apply outOfService_keeps | apply ite_keeps)
    | split
    | (extract_lets +onlyGivenNames x; first | (refine (fun hx : Keeps s x => ?_) ?_ <;> [clear_value x; subst x]) | clear_value x)

theorem fabricDown_keeps (h : Keeps s t) : Keeps s (fabricDown t) := by
  unfold fabricDown
  repeat'
    first
    | (show (_ : Nat) ≤ _; first | exact Nat.le_refl _ | simp)
    | intro _
    | with_reducible (first | assumption | apply modDir_keeps | apply modNfc_keeps | apply modUpd_keeps | apply drivePri_keeps | apply driveReq_keeps | apply modRadio_keeps | apply ite_keeps)
    | split
    | (extract_lets +onlyGivenNames x; first | (refine (fun hx : Keeps s x => ?_) ?_ <;> [clear_value x; subst x]) | clear_value x)

theorem enterParked_keeps (h : Keeps s t) : Keeps s (enterParked t) := by
  unfold enterParked
  repeat'
    first
    | (show (_ : Nat) = _; first | rfl | exact length_modAt _ _ _ | simp only [List.length_map, length_modAt, List.length_zipIdx])
    | intro _
    | with_reducible (first | assumption | apply modSys_keeps | apply lowerFrom_keeps | apply wakeLane_keeps | apply fabricDown_keeps | apply fromRtc_keeps | apply readersOff_keeps | apply modPwr_keeps | apply lowBatteryAnew_keeps | apply modRadio_keeps | apply cntRateChange_keeps)
    | split
    | (extract_lets +onlyGivenNames x; first | (refine (fun hx : Keeps s x => ?_) ?_ <;> [clear_value x; subst x]) | clear_value x)

theorem execDriveShutdownComplete_keeps (h : Keeps s t) (a1) : OutKeeps s (execDriveShutdownComplete a1 t) := by
  unfold execDriveShutdownComplete
  repeat'
    first
    | intro _
    | with_reducible (first | assumption | apply OutKeeps.next | apply enterParked_keeps | apply linksParked_keeps | apply linkDown_keeps | apply each_keeps | apply shutDrive_keeps | apply onlyIf_keeps | apply resume_keeps | apply ite_keeps)
    | split
    | (extract_lets +onlyGivenNames x; first | (refine (fun hx : Keeps s x => ?_) ?_ <;> [clear_value x; subst x]) | clear_value x)

theorem recoveredToParked_keeps (h : Keeps s t) : Keeps s (recoveredToParked t) := by
  unfold recoveredToParked
  repeat'
    first
    | (show (_ : Nat) = _; first | rfl | exact length_modAt _ _ _ | simp only [List.length_map, length_modAt, List.length_zipIdx])
    | intro _
    | with_reducible (first | assumption | apply modRadio_keeps | apply enterParked_keeps | apply modPwr_keeps)

theorem execLedgerReplay_keeps (h : Keeps s t) (a1) (a2) : OutKeeps s (execLedgerReplay a1 a2 t) := by
  unfold execLedgerReplay
  repeat'
    first
    | (show (_ : Nat) ≤ _; first | exact Nat.le_refl _ | simp)
    | (show FlightsKept _ _; first | exact FlightsKept.refl _ | exact flightsKept_append _ _)
    | intro _
    | with_reducible (first | assumption | apply OutKeeps.next | apply enterHearth_keeps | apply modLed_keeps | apply modHost_keeps | apply settleBroken_keeps | apply onlyIf_keeps | apply endKeyWork_keeps | apply deltaCopied_keeps | apply activate_keeps | apply stampAll_keeps | apply recoveredToParked_keeps | apply release_keeps | apply ite_keeps)
    | split
    | (extract_lets +onlyGivenNames x; first | (refine (fun hx : Keeps s x => ?_) ?_ <;> [clear_value x; subst x]) | (refine (fun hx : Keeps s x.2 => ?_) ?_ <;> [clear_value x; subst x]) | (refine (fun hx : Keeps s x.1 => ?_) ?_ <;> [clear_value x; subst x]) | clear_value x)

theorem enterDormant_keeps (h : Keeps s t) (a1) (a2) : Keeps s (enterDormant a1 a2 t) := by
  unfold enterDormant
  repeat'
    first
    | (show (_ : Nat) = _; first | rfl | exact length_modAt _ _ _ | simp only [List.length_map, length_modAt, List.length_zipIdx])
    | intro _
    | with_reducible (first | assumption | apply modPwr_keeps | apply onlyIf_keeps | apply stopCarrier_keeps | apply modIfl_keeps | apply modRadio_keeps | apply useSlice_keeps | apply ite_keeps)
    | split
    | (extract_lets +onlyGivenNames x; first | (refine (fun hx : Keeps s x => ?_) ?_ <;> [clear_value x; subst x]) | clear_value x)

theorem dormantOff_keeps (h : Keeps s t) : Keeps s (dormantOff t) := by
  unfold dormantOff
  repeat'
    first
    | (show (_ : Nat) = _; first | rfl | exact length_modAt _ _ _ | simp only [List.length_map, length_modAt, List.length_zipIdx])
    | intro _
    | with_reducible (first | assumption | apply tryLog_keeps | apply lowerFrom_keeps | apply pickPair_keeps | apply coldReset_keeps | apply modRadio_keeps | apply modPwr_keeps | apply ite_keeps)
    | split
    | (extract_lets +onlyGivenNames x; first | (refine (fun hx : Keeps s x => ?_) ?_ <;> [clear_value x; subst x]) | clear_value x)

theorem wake_keeps (h : Keeps s t) (a1) : Keeps s (wake a1 t) := by
  unfold wake
  repeat'
    first
    | (show (_ : Nat) = _; first | rfl | exact length_modAt _ _ _ | simp only [List.length_map, length_modAt, List.length_zipIdx])
    | intro _
    | with_reducible (first | assumption | apply modPwr_keeps | apply lowBatteryAnew_keeps | apply raiseEnable_keeps | apply modRadio_keeps | apply ite_keeps)
    | split
    | (extract_lets +onlyGivenNames x; first | (refine (fun hx : Keeps s x => ?_) ?_ <;> [clear_value x; subst x]) | clear_value x)

theorem execNearListRestored_keeps (h : Keeps s t) : OutKeeps s (execNearListRestored t) := by
  unfold execNearListRestored
  repeat'
    first
    | intro _
    | with_reducible (first | assumption | apply OutKeeps.next | apply useSlice_keeps | apply onlyIf_keeps | apply modRadio_keeps | apply ite_keeps)
    | split
    | (extract_lets +onlyGivenNames x; first | (refine (fun hx : Keeps s x => ?_) ?_ <;> [clear_value x; subst x]) | clear_value x)

theorem execWakeWindowEnd_keeps (h : Keeps s t) : OutKeeps s (execWakeWindowEnd t) := by
  unfold execWakeWindowEnd
  repeat'
    first
    | (show (_ : Nat) = _; first | rfl | exact length_modAt _ _ _ | simp only [List.length_map, length_modAt, List.length_zipIdx])
    | intro _
    | with_reducible (first | assumption | apply OutKeeps.next | apply elapseTo_keeps | apply modPwr_keeps | apply enterDormant_keeps | apply ite_keeps)
    | split
    | (extract_lets +onlyGivenNames x; first | (refine (fun hx : Keeps s x => ?_) ?_ <;> [clear_value x; subst x]) | clear_value x)

theorem execDormancyHour_keeps (h : Keeps s t) : OutKeeps s (execDormancyHour t) := by
  unfold execDormancyHour
  repeat'
    first
    | (show (_ : Nat) = _; first | rfl | exact length_modAt _ _ _ | simp only [List.length_map, length_modAt, List.length_zipIdx])
    | intro _
    | with_reducible (first | assumption | apply OutKeeps.next | apply elapseTo_keeps | apply modPwr_keeps | apply enterDormant_keeps | apply ite_keeps)
    | split
    | (extract_lets +onlyGivenNames x; first | (refine (fun hx : Keeps s x => ?_) ?_ <;> [clear_value x; subst x]) | clear_value x)

theorem execLowBattery_keeps (h : Keeps s t) : OutKeeps s (execLowBattery t) := by
  unfold execLowBattery
  repeat'
    first
    | (show (_ : Nat) = _; first | rfl | exact length_modAt _ _ _ | simp only [List.length_map, length_modAt, List.length_zipIdx])
    | intro _
    | with_reducible (first | assumption | apply OutKeeps.next | apply enterDormant_keeps | apply elapseTo_keeps | apply modPwr_keeps | apply onlyIf_keeps | apply beginParking_keeps | apply foldl_keeps | refine foldl_keeps ?_ (by with_reducible assumption) | apply ite_keeps)
    | split
    | (extract_lets +onlyGivenNames x; first | (refine (fun hx : Keeps s x => ?_) ?_ <;> [clear_value x; subst x]) | clear_value x)

theorem execPwrAlarmS_keeps (h : Keeps s t) (a1) (a2) : OutKeeps s (execPwrAlarmS a1 a2 t) := by
  unfold execPwrAlarmS
  repeat'
    first
    | (show (_ : Nat) = _; first | rfl | exact length_modAt _ _ _ | simp only [List.length_map, length_modAt, List.length_zipIdx])
    | intro _
    | with_reducible (first | assumption | apply OutKeeps.next | apply modPwr_keeps | apply ite_keeps)
    | split

theorem execRtcAlarm_keeps (h : Keeps s t) : OutKeeps s (execRtcAlarm t) := by
  unfold execRtcAlarm
  repeat'
    first
    | (show (_ : Nat) = _; first | rfl | exact length_modAt _ _ _ | simp only [List.length_map, length_modAt, List.length_zipIdx])
    | intro _
    | with_reducible (first | assumption | apply OutKeeps.next | apply modPwr_keeps | apply elapseTo_keeps | apply wake_keeps)
    | split
    | (extract_lets +onlyGivenNames x; first | (refine (fun hx : Keeps s x => ?_) ?_ <;> [clear_value x; subst x]) | clear_value x)

theorem modPin_keeps (h : Keeps s t) (a1) (a2) : Keeps s (modPin a1 a2 t) := by
  unfold modPin
  repeat'
    first
    | (show (_ : Nat) = _; first | rfl | exact length_modAt _ _ _ | simp only [List.length_map, length_modAt, List.length_zipIdx])
    | intro _
    | with_reducible (first | assumption | apply modPwr_keeps)

theorem ignTimer_keeps (h : Keeps s t) (a1) : Keeps s (ignTimer a1 t) := by
  unfold ignTimer
  repeat'
    first
    | intro _
    | with_reducible (first | assumption | apply modSlk_keeps | apply ite_keeps)
    | split
    | (extract_lets +onlyGivenNames x; first | (refine (fun hx : Keeps s x => ?_) ?_ <;> [clear_value x; subst x]) | clear_value x)

theorem execWakePinCrossing_keeps (h : Keeps s t) (a1) (a2) : OutKeeps s (execWakePinCrossing a1 a2 t) := by
  unfold execWakePinCrossing
  repeat'
    first
    | intro _
    | with_reducible (first | assumption | apply OutKeeps.next | apply modPin_keeps | apply ignTimer_keeps | apply ite_keeps)
    | split
    | (extract_lets +onlyGivenNames x; first | (refine (fun hx : Keeps s x => ?_) ?_ <;> [clear_value x; subst x]) | clear_value x)

theorem ignitionOn_keeps (h : Keeps s t) : Keeps s (ignitionOn t) := by
  unfold ignitionOn
  repeat'
    first
    | intro _
    | with_reducible (first | assumption | apply leaveService_keeps | apply onlyIf_keeps | apply modFlt_keeps | apply cabTrigger_keeps | apply ite_keeps)
    | split

theorem execWakeEvent_keeps (h : Keeps s t) (a1) : OutKeeps s (execWakeEvent a1 t) := by
  unfold execWakeEvent
  repeat'
    first
    | (show (_ : Nat) = _; first | rfl | exact length_modAt _ _ _ | simp only [List.length_map, length_modAt, List.length_zipIdx])
    | intro _
    | with_reducible (first | assumption | apply OutKeeps.next | apply modPin_keeps | apply elapseTo_keeps | apply onlyIf_keeps | apply supplyStep_keeps | apply wake_keeps | apply resume_keeps | apply modPwr_keeps | apply ignitionOn_keeps | apply ite_keeps)
    | split
    | (extract_lets +onlyGivenNames x; first | (refine (fun hx : Keeps s x => ?_) ?_ <;> [clear_value x; subst x]) | clear_value x)

theorem execDsenseChange_keeps (h : Keeps s t) (a1) (a2) : OutKeeps s (execDsenseChange a1 a2 t) := by
  unfold execDsenseChange
  repeat'
    first
    | (show (_ : Nat) = _; first | rfl | exact length_modAt _ _ _ | simp only [List.length_map, length_modAt, List.length_zipIdx])
    | intro _
    | with_reducible (first | assumption | apply OutKeeps.next | apply modPwr_keeps | apply onlyIf_keeps | apply cabTrigger_keeps | apply ite_keeps)
    | split
    | (extract_lets +onlyGivenNames x; first | (refine (fun hx : Keeps s x => ?_) ?_ <;> [clear_value x; subst x]) | clear_value x)

theorem execWakeStuck_keeps (h : Keeps s t) (a1) : OutKeeps s (execWakeStuck a1 t) := by
  unfold execWakeStuck
  repeat'
    first
    | intro _
    | with_reducible (first | assumption | apply OutKeeps.next | apply modPin_keeps | apply elapseTo_keeps | apply ignTimer_keeps | apply fault_keeps | apply ite_keeps)
    | split
    | (extract_lets +onlyGivenNames x; first | (refine (fun hx : Keeps s x => ?_) ?_ <;> [clear_value x; subst x]) | clear_value x)

theorem execWakeUnmask_keeps (h : Keeps s t) (a1) : OutKeeps s (execWakeUnmask a1 t) := by
  unfold execWakeUnmask
  repeat'
    first
    | intro _
    | with_reducible (first | assumption | apply OutKeeps.next | apply writeFault_keeps | apply modPin_keeps | apply elapseTo_keeps | apply ite_keeps)
    | split
    | (extract_lets +onlyGivenNames x; first | (refine (fun hx : Keeps s x => ?_) ?_ <;> [clear_value x; subst x]) | clear_value x)

theorem execWakeSlicePowerDown_keeps (h : Keeps s t) : OutKeeps s (execWakeSlicePowerDown t) := by
  unfold execWakeSlicePowerDown
  repeat'
    first
    | (show (_ : Nat) = _; first | rfl | exact length_modAt _ _ _ | simp only [List.length_map, length_modAt, List.length_zipIdx])
    | intro _
    | with_reducible (first | assumption | apply OutKeeps.next | apply modPwr_keeps | apply lowerEnable_keeps | apply elapseTo_keeps | apply ite_keeps)
    | split

theorem execServiceEnd_keeps (h : Keeps s t) : OutKeeps s (execServiceEnd t) := by
  unfold execServiceEnd
  repeat'
    first
    | intro _
    | with_reducible (first | assumption | apply OutKeeps.next | apply leaveService_keeps | apply elapseTo_keeps | apply ite_keeps)
    | split

theorem execDebugDurationEnd_keeps (h : Keeps s t) : OutKeeps s (execDebugDurationEnd t) := by
  unfold execDebugDurationEnd
  repeat'
    first
    | intro _
    | with_reducible (first | assumption | apply OutKeeps.next | apply closeDebug_keeps | apply elapseTo_keeps | apply ite_keeps)
    | split

theorem idle_keeps (h : Keeps s t) : Keeps s (idle t) := by
  unfold idle
  repeat'
    first
    | intro _
    | with_reducible (first | assumption | apply dormantOff_keeps | apply elapseNs_keeps | apply onlyIf_keeps | apply propWatch_keeps)
    | split
    | (extract_lets +onlyGivenNames x; first | (refine (fun hx : Keeps s x => ?_) ?_ <;> [clear_value x; subst x]) | clear_value x)

theorem reportUp_keeps (h : Keeps s t) (a1) (a2) (a3) (a4) : Keeps s (reportUp a1 a2 a3 a4 t) := by
  unfold reportUp
  repeat'
    first
    | intro _
    | with_reducible (first | assumption | apply onlyIf_keeps | apply answer_keeps)

theorem lapse_keeps (h : Keeps s t) (a1) (a2) : Keeps s (lapse a1 a2 t) := by
  unfold lapse
  repeat'
    first
    | (show (_ : Nat) ≤ _; first | exact Nat.le_refl _ | simp)
    | intro _
    | with_reducible (first | assumption | apply modUpd_keeps | apply unschedule_keeps | apply reportUp_keeps | apply updEvent_keeps | apply tryLog_keeps)
    | split
    | (extract_lets +onlyGivenNames x; first | (refine (fun hx : Keeps s x => ?_) ?_ <;> [clear_value x; subst x]) | clear_value x)

theorem commitActivation_keeps (h : Keeps s t) (a1) : Keeps s (commitActivation a1 t) := by
  unfold commitActivation
  repeat'
    first
    | (show (_ : Nat) ≤ _; first | exact Nat.le_refl _ | simp)
    | intro _
    | with_reducible (first | assumption | apply useSlice_keeps | apply lapse_keeps | apply logRec_keeps | apply updEvent_keeps | apply activate_keeps | apply reportUp_keeps | apply modFlt_keeps | apply modUpd_keeps | apply ite_keeps)
    | split
    | (extract_lets +onlyGivenNames x; first | (refine (fun hx : Keeps s x => ?_) ?_ <;> [clear_value x; subst x]) | clear_value x)

theorem execActivationCommit_keeps (h : Keeps s t) : OutKeeps s (execActivationCommit t) := by
  unfold execActivationCommit
  repeat'
    first
    | intro _
    | with_reducible (first | assumption | apply OutKeeps.next | apply elapseTo_keeps | apply lapse_keeps | apply commitActivation_keeps | apply onlyIf_keeps | apply wake_keeps | apply ite_keeps)
    | split
    | (extract_lets +onlyGivenNames x; first | (refine (fun hx : Keeps s x => ?_) ?_ <;> [clear_value x; subst x]) | clear_value x)

theorem execActivationLapse_keeps (h : Keeps s t) : OutKeeps s (execActivationLapse t) := by
  unfold execActivationLapse
  repeat'
    first
    | intro _
    | with_reducible (first | assumption | apply OutKeeps.next | apply lapse_keeps | apply elapseTo_keeps | apply ite_keeps)
    | split

theorem recordsAnew_keeps (h : Keeps s t) : Keeps s (recordsAnew t) := by
  unfold recordsAnew
  repeat'
    first
    | intro _
    | with_reducible (first | assumption | apply onlyIf_keeps | apply setVcore_keeps | apply reportRecords_keeps | apply takeRecords_keeps)

theorem giveUp_keeps (h : Keeps s t) (a1) : Keeps s (giveUp a1 t) := by
  unfold giveUp
  repeat'
    first
    | (show (_ : Nat) ≤ _; first | exact Nat.le_refl _ | simp [withSlot_seq, withSlot_ledgerFloor])
    | intro _
    | with_reducible (first | assumption | apply journal_keeps | apply modUpd_keeps | apply updEvent_keeps | apply recordsAnew_keeps)
    | split
    | (extract_lets +onlyGivenNames x; first | (refine (fun hx : Keeps s x => ?_) ?_ <;> [clear_value x; subst x]) | clear_value x)

theorem abandonHandover_keeps (h : Keeps s t) : Keeps s (abandonHandover t) := by
  unfold abandonHandover
  repeat'
    first
    | intro _
    | with_reducible (first | assumption | apply updEvent_keeps | apply tryLog_keeps | apply giveUp_keeps)
    | split

theorem execHandoverShadowReady_keeps (h : Keeps s t) : OutKeeps s (execHandoverShadowReady t) := by
  unfold execHandoverShadowReady
  repeat'
    first
    | (show (_ : Nat) = _; first | rfl | exact length_modAt _ _ _ | simp only [List.length_map, length_modAt, List.length_zipIdx])
    | (show (_ : Nat) ≤ _; first | exact Nat.le_refl _ | simp)
    | intro _
    | with_reducible (first | assumption | apply OutKeeps.next | apply modPwr_keeps | apply modUpd_keeps | apply modFlt_keeps | apply recordsAnew_keeps | apply ite_keeps)
    | split
    | (extract_lets +onlyGivenNames x; first | (refine (fun hx : Keeps s x => ?_) ?_ <;> [clear_value x; subst x]) | clear_value x)

theorem execHandoverTimeout_keeps (h : Keeps s t) : OutKeeps s (execHandoverTimeout t) := by
  unfold execHandoverTimeout
  repeat'
    first
    | intro _
    | with_reducible (first | assumption | apply OutKeeps.next | apply abandonHandover_keeps | apply elapseTo_keeps | apply modFlt_keeps)
    | split
    | (extract_lets +onlyGivenNames x; first | (refine (fun hx : Keeps s x => ?_) ?_ <;> [clear_value x; subst x]) | clear_value x)

theorem execHandoverHoldEnd_keeps (h : Keeps s t) : OutKeeps s (execHandoverHoldEnd t) := by
  unfold execHandoverHoldEnd
  repeat'
    first
    | (show (_ : Nat) ≤ _; first | exact Nat.le_refl _ | simp)
    | intro _
    | with_reducible (first | assumption | apply OutKeeps.next | apply modUpd_keeps | apply elapseTo_keeps)
    | split

theorem confirm_keeps {s t : State} (h : Keeps s t) (a1) : Keeps s (confirm a1 t) := by
  unfold confirm
  dsimp only
  refine updEvent_keeps (journal_keeps (modUpd_keeps_at (logRec_keeps h _) _ ?_ ?_) _ fun b => ?_) _
  · simp only [logRec, modClk, modLed, secFloor]; omega
  · exact Nat.le_refl _
  · simp

theorem execTrialConfirm_keeps (h : Keeps s t) : OutKeeps s (execTrialConfirm t) := by
  unfold execTrialConfirm
  repeat'
    first
    | intro _
    | with_reducible (first | assumption | apply OutKeeps.next | apply elapseTo_keeps | apply confirm_keeps | apply ite_keeps)
    | split
    | (extract_lets +onlyGivenNames x; first | (refine (fun hx : Keeps s x => ?_) ?_ <;> [clear_value x; subst x]) | clear_value x)

theorem failoverTrial_keeps (h : Keeps s t) : Keeps s (failoverTrial t) := by
  unfold failoverTrial
  repeat'
    first
    | intro _
    | with_reducible (first | assumption | apply abandonHandover_keeps | apply giveUp_keeps)
    | split

theorem hearthCheck_keeps (h : Keeps s t) : Keeps s (hearthCheck t) := by
  unfold hearthCheck
  repeat'
    first
    | (show (_ : Nat) ≤ _; first | exact Nat.le_refl _ | simp)
    | intro _
    | with_reducible (first | assumption | apply uartLine_keeps | apply modUpd_keeps)

theorem startSlot_keeps (h : Keeps s t) : Keeps s (startSlot t) := by
  unfold startSlot
  repeat'
    first
    | (show (_ : Nat) ≤ _; first | exact Nat.le_refl _ | simp [withSlot_seq, withSlot_ledgerFloor])
    | intro _
    | with_reducible (first | assumption | apply journal_keeps)

theorem fillSlot_keeps (h : Keeps s t) (a1) : Keeps s (fillSlot a1 t) := by
  unfold fillSlot
  repeat'
    first
    | (show (_ : Nat) ≤ _; first | exact Nat.le_refl _ | simp)
    | intro _
    | with_reducible (first | assumption | apply writeBlocks_keeps | apply beginSlot_keeps | apply modUpd_keeps)
    | split
    | (extract_lets +onlyGivenNames x; first | (refine (fun hx : Keeps s x => ?_) ?_ <;> [clear_value x; subst x]) | clear_value x)

theorem hearthFails_keeps (h : Keeps s t) (a1) (a2) : Keeps s (hearthFails a1 a2 t) := by
  unfold hearthFails
  repeat'
    first
    | (show (_ : Nat) ≤ _; first | exact Nat.le_refl _ | simp)
    | intro _
    | with_reducible (first | assumption | apply slotState_keeps | apply uartLine_keeps | apply modUpd_keeps | apply ite_keeps)
    | split
    | (extract_lets +onlyGivenNames x; first | (refine (fun hx : Keeps s x => ?_) ?_ <;> [clear_value x; subst x]) | clear_value x)

theorem hearthGo_keeps (h : Keeps s t) (a1) (a2) : Keeps s (hearthGo a1 a2 t) := by
  unfold hearthGo
  repeat'
    first
    | intro _
    | with_reducible (first | assumption | apply onlyIf_keeps | apply beginHearth_keeps)

theorem execUpdHearthGo_keeps (h : Keeps s t) (a1) (a2) (a3) : OutKeeps s (execUpdHearthGo a1 a2 a3 t) := by
  unfold execUpdHearthGo
  repeat'
    first
    | intro _
    | with_reducible (first | assumption | apply OutKeeps.next | apply hearthGo_keeps | apply hearthCheck_keeps | apply fillSlot_keeps | apply hearthFails_keeps | apply startSlot_keeps | apply ite_keeps)
    | split
    | (extract_lets +onlyGivenNames x; first | (refine (fun hx : Keeps s x => ?_) ?_ <;> [clear_value x; subst x]) | clear_value x)

theorem execUpdHearthRevert_keeps (h : Keeps s t) (a1) (a2) : OutKeeps s (execUpdHearthRevert a1 a2 t) := by
  unfold execUpdHearthRevert
  repeat'
    first
    | (show (_ : Nat) ≤ _; first | exact Nat.le_refl _ | simp)
    | intro _
    | with_reducible (first | assumption | apply OutKeeps.next | apply hearthCheck_keeps | apply modUpd_keeps | apply beginHearth_keeps | apply ite_keeps)
    | split

theorem hearthAnswer_keeps (h : Keeps s t) : Keeps s (hearthAnswer t) := by
  unfold hearthAnswer
  repeat'
    first
    | (show (_ : Nat) ≤ _; first | exact Nat.le_refl _ | simp)
    | intro _
    | with_reducible (first | assumption | apply emit_keeps | apply modUpd_keeps)
    | split
    | (extract_lets +onlyGivenNames x; first | (refine (fun hx : Keeps s x => ?_) ?_ <;> [clear_value x; subst x]) | clear_value x)

theorem execHearthCanFrame_keeps (h : Keeps s t) (a1) (a2) : OutKeeps s (execHearthCanFrame a1 a2 t) := by
  unfold execHearthCanFrame
  repeat'
    first
    | (show (_ : Nat) ≤ _; first | exact Nat.le_refl _ | simp)
    | intro _
    | with_reducible (first | assumption | apply OutKeeps.next | apply beginHearth_keeps | apply startSlot_keeps | apply modUpd_keeps | apply hearthAnswer_keeps | apply hearthCheck_keeps | apply fillSlot_keeps | apply ite_keeps)
    | split
    | (extract_lets +onlyGivenNames x; first | (refine (fun hx : Keeps s x => ?_) ?_ <;> [clear_value x; subst x]) | clear_value x)

theorem execHearthCanStatus_keeps (h : Keeps s t) : OutKeeps s (execHearthCanStatus t) := by
  unfold execHearthCanStatus
  repeat'
    first
    | intro _
    | with_reducible (first | assumption | apply OutKeeps.next | apply hearthAnswer_keeps | apply elapseTo_keeps | apply ite_keeps)
    | split

theorem execHearthDownloadEnd_keeps (h : Keeps s t) (a1) : OutKeeps s (execHearthDownloadEnd a1 t) := by
  unfold execHearthDownloadEnd
  repeat'
    first
    | (show (_ : Nat) ≤ _; first | exact Nat.le_refl _ | simp [withSlot_seq, withSlot_ledgerFloor])
    | intro _
    | with_reducible (first | assumption | apply OutKeeps.next | apply hearthFails_keeps | apply journal_keeps | apply fullReset_keeps | apply uartLine_keeps | apply modUpd_keeps | apply ite_keeps)
    | split
    | (extract_lets +onlyGivenNames x; first | (refine (fun hx : Keeps s x => ?_) ?_ <;> [clear_value x; subst x]) | clear_value x)

theorem takeCharge_keeps (h : Keeps s t) (a1) (a2) : Keeps s (takeCharge a1 a2 t) := by
  unfold takeCharge
  repeat'
    first
    | intro _
    | with_reducible (first | assumption | apply modRun_keeps)
    | split

theorem chargeSlot_keeps (h : Keeps s t) (a1) (a2) (a3) : Keeps s (chargeSlot a1 a2 a3 t) := by
  unfold chargeSlot
  repeat'
    first
    | (show (_ : Nat) ≤ _; first | exact Nat.le_refl _ | simp)
    | intro _
    | with_reducible (first | assumption | apply onlyIf_keeps | apply modSlc_keeps | apply modRun_keeps)
    | split
    | (extract_lets +onlyGivenNames x; first | (refine (fun hx : Keeps s x => ?_) ?_ <;> [clear_value x; subst x]) | (refine (fun hx : Keeps s x.2 => ?_) ?_ <;> [clear_value x; subst x]) | (refine (fun hx : Keeps s x.1 => ?_) ?_ <;> [clear_value x; subst x]) | clear_value x)

theorem acceptSlot_keeps (h : Keeps s t) (a1) (a2) (a3) : Keeps s (acceptSlot a1 a2 a3 t) := by
  unfold acceptSlot
  repeat'
    first
    | (show FlightsKept _ _; first | exact FlightsKept.refl _ | exact flightsKept_append _ _)
    | intro _
    | with_reducible (first | assumption | apply modRing_keeps | apply logRec_keeps | apply onlyIf_keeps | apply modSlk_keeps | apply takeCharge_keeps | apply modHost_keeps | apply ite_keeps)
    | split

theorem consume_keeps (h : Keeps s t) (a1) (a2) (a3) : Keeps s (consume a1 a2 a3 t) := by
  unfold consume
  repeat'
    first
    | intro _
    | with_reducible (first | assumption | apply chargeSlot_keeps | apply acceptSlot_keeps | apply settleDups_keeps | apply settle_keeps | apply ite_keeps)
    | split
    | (extract_lets +onlyGivenNames x; first | (refine (fun hx : Keeps s x => ?_) ?_ <;> [clear_value x; subst x]) | (refine (fun hx : Keeps s x.2 => ?_) ?_ <;> [clear_value x; subst x]) | (refine (fun hx : Keeps s x.1 => ?_) ?_ <;> [clear_value x; subst x]) | clear_value x)

theorem takeHeads_keeps (h : Keeps s t) (a1) : Keeps s (takeHeads a1 t) := by
  unfold takeHeads
  repeat'
    first
    | intro _
    | with_reducible (first | assumption | apply each_keeps | apply modRing_keeps | apply ite_keeps)
    | split

theorem execSlotConsume_keeps (h : Keeps s t) (a1) : OutKeeps s (execSlotConsume a1 t) := by
  unfold execSlotConsume
  repeat'
    first
    | intro _
    | with_reducible (first | assumption | apply OutKeeps.next | apply takeHeads_keeps | apply consume_keeps | apply ite_keeps)
    | split
    | (extract_lets +onlyGivenNames x; first | (refine (fun hx : Keeps s x => ?_) ?_ <;> [clear_value x; subst x]) | clear_value x)

end Sys2Proof.Machine
end

