-- ==== Sys2Proof/Laws/KeepsEdges.lean ====
section
/-! SUPPORT. What the operations of Edges, Start, Ends, Pairs, Regs, Svc, Tamper keep (Safety.Keeps), one lemma each, in the order of their definitions. -/

set_option linter.unusedTactic false
set_option linter.unreachableTactic false
set_option linter.unusedSimpArgs false

namespace Sys2Proof.Machine

variable {s t : State}

theorem checked_fail {α : Type} {s u : State} {x : Checked α} {fr : FateRec} (h : Keeps s (checkedState x))
    (e : x = .fail fr u) : Keeps s u := by rw [e] at h; exact h

theorem checked_pass {α : Type} {s u : State} {x : Checked α} {a : α} (h : Keeps s (checkedState x))
    (e : x = .pass a u) : Keeps s u := by rw [e] at h; exact h

theorem checked_ite {α : Type} {s : State} {c : Prop} [Decidable c] {x y : Checked α} (h : Keeps s (checkedState x))
    (k : Keeps s (checkedState y)) : Keeps s (checkedState (if c then x else y)) := by split <;> assumption

theorem speedWatch_keeps (h : Keeps s t) : Keeps s (speedWatch t) := by
  unfold speedWatch
  repeat'
    first
    | intro _
    | with_reducible (first | assumption | apply lockWatch_keeps | apply modeWatch_keeps)

theorem edgeCuts_keeps (h : Keeps s t) : Keeps s (edgeCuts t) := by
  unfold edgeCuts
  repeat'
    first
    | intro _
    | with_reducible (first | assumption | apply recut_keeps | apply onlyIf_keeps | apply uhfCut_keeps | apply lfCut_keeps)
    | split
    | (extract_lets +onlyGivenNames x; first | (refine (fun hx : Keeps s x => ?_) ?_ <;> [clear_value x; subst x]) | (refine (fun hx : Keeps s x.2 => ?_) ?_ <;> [clear_value x; subst x]) | (refine (fun hx : Keeps s x.1 => ?_) ?_ <;> [clear_value x; subst x]) | clear_value x)

theorem crankOverdue_keeps (h : Keeps s t) : Keeps s (crankOverdue t) := by
  unfold crankOverdue
  repeat'
    first
    | (show (_ : Nat) = _; first | rfl | exact length_modAt _ _ _ | simp only [List.length_map, length_modAt, List.length_zipIdx])
    | intro _
    | with_reducible (first | assumption | apply onCrankLost_keeps | apply modClk_keeps | apply refEngineStop_keeps | apply ite_keeps)
    | split
    | (extract_lets +onlyGivenNames x; first | (refine (fun hx : Keeps s x => ?_) ?_ <;> [clear_value x; subst x]) | clear_value x)

theorem syncRev_keeps (h : Keeps s t) : Keeps s (syncRev t) := by
  unfold syncRev
  repeat'
    first
    | (show (_ : Nat) = _; first | rfl | exact length_modAt _ _ _ | simp only [List.length_map, length_modAt, List.length_zipIdx])
    | intro _
    | with_reducible (first | assumption | apply modClk_keeps | apply drawn_keeps | apply ite_keeps)
    | split
    | (extract_lets +onlyGivenNames x; first | (refine (fun hx : Keeps s x => ?_) ?_ <;> [clear_value x; subst x]) | clear_value x)

theorem camAdvance_keeps (h : Keeps s t) (a1) : Keeps s (camAdvance a1 t) := by
  unfold camAdvance
  repeat'
    first
    | (show (_ : Nat) = _; first | rfl | exact length_modAt _ _ _ | simp only [List.length_map, length_modAt, List.length_zipIdx])
    | intro _
    | with_reducible (first | assumption | apply modClk_keeps | apply ite_keeps)
    | split
    | (extract_lets +onlyGivenNames x; first | (refine (fun hx : Keeps s x => ?_) ?_ <;> [clear_value x; subst x]) | clear_value x)

theorem abandonToCrank_keeps (h : Keeps s t) (a1) (a2) : Keeps s (abandonToCrank a1 a2 t) := by
  unfold abandonToCrank
  repeat'
    first
    | (show (_ : Nat) = _; first | rfl | exact length_modAt _ _ _ | simp only [List.length_map, length_modAt, List.length_zipIdx])
    | intro _
    | with_reducible (first | assumption | apply camAdvance_keeps | apply modClk_keeps | apply ite_keeps)
    | split
    | (extract_lets +onlyGivenNames x; first | (refine (fun hx : Keeps s x => ?_) ?_ <;> [clear_value x; subst x]) | clear_value x)

theorem crankEdge_keeps (h : Keeps s t) (a1) : Keeps s (crankEdge a1 t) := by
  unfold crankEdge
  repeat'
    first
    | (show (_ : Nat) = _; first | rfl | exact length_modAt _ _ _ | simp only [List.length_map, length_modAt, List.length_zipIdx])
    | intro _
    | with_reducible (first | assumption | apply modClk_keeps | apply onCrankLost_keeps | apply enterDrive_keeps | apply onCrankSync_keeps | apply syncRev_keeps | apply camAdvance_keeps | apply onlyIf_keeps | apply ite_keeps)
    | split
    | (extract_lets +onlyGivenNames x; first | (refine (fun hx : Keeps s x => ?_) ?_ <;> [clear_value x; subst x]) | (refine (fun hx : Keeps s x.2 => ?_) ?_ <;> [clear_value x; subst x]) | (refine (fun hx : Keeps s x.1 => ?_) ?_ <;> [clear_value x; subst x]) | clear_value x)

theorem coastEdge_keeps (h : Keeps s t) (a1) : Keeps s (coastEdge a1 t) := by
  unfold coastEdge
  repeat'
    first
    | (show (_ : Nat) = _; first | rfl | exact length_modAt _ _ _ | simp only [List.length_map, length_modAt, List.length_zipIdx])
    | intro _
    | with_reducible (first | assumption | apply abandonToCrank_keeps | apply crankEdge_keeps | apply modClk_keeps | apply ite_keeps)
    | split
    | (extract_lets +onlyGivenNames x; first | (refine (fun hx : Keeps s x => ?_) ?_ <;> [clear_value x; subst x]) | clear_value x)

theorem execAng0Edge_keeps (h : Keeps s t) (a1) : OutKeeps s (execAng0Edge a1 t) := by
  unfold execAng0Edge
  repeat'
    first
    | (show (_ : Nat) = _; first | rfl | exact length_modAt _ _ _ | simp only [List.length_map, length_modAt, List.length_zipIdx])
    | intro _
    | with_reducible (first | assumption | apply OutKeeps.next | apply elapseToNs_keeps | apply modClk_keeps | apply onlyIf_keeps | apply crankOverdue_keeps | apply speedWatch_keeps | apply edgeCuts_keeps | apply coastEdge_keeps | apply crankEdge_keeps | apply ite_keeps)
    | split
    | (extract_lets +onlyGivenNames x; first | (refine (fun hx : Keeps s x => ?_) ?_ <;> [clear_value x; subst x]) | clear_value x)

theorem execCrankEdgeTimeout_keeps (h : Keeps s t) : OutKeeps s (execCrankEdgeTimeout t) := by
  unfold execCrankEdgeTimeout
  repeat'
    first
    | intro _
    | with_reducible (first | assumption | apply OutKeeps.next | apply speedWatch_keeps | apply crankOverdue_keeps | apply elapseToNs_keeps | apply ite_keeps)
    | split

theorem execAng1Edge_keeps (h : Keeps s t) (a1) : OutKeeps s (execAng1Edge a1 t) := by
  unfold execAng1Edge
  repeat'
    first
    | (show (_ : Nat) = _; first | rfl | exact length_modAt _ _ _ | simp only [List.length_map, length_modAt, List.length_zipIdx])
    | intro _
    | with_reducible (first | assumption | apply OutKeeps.next | apply elapseToNs_keeps | apply modClk_keeps | apply modeWatch_keeps | apply enterDrive_keeps | apply ite_keeps)
    | split
    | (extract_lets +onlyGivenNames x; first | (refine (fun hx : Keeps s x => ?_) ?_ <;> [clear_value x; subst x]) | clear_value x)

theorem propCoastEdge_keeps (h : Keeps s t) : Keeps s (propCoastEdge t) := by
  unfold propCoastEdge
  repeat'
    first
    | (show (_ : Nat) = _; first | rfl | exact length_modAt _ _ _ | simp only [List.length_map, length_modAt, List.length_zipIdx])
    | intro _
    | with_reducible (first | assumption | apply modClk_keeps | apply ite_keeps)
    | split

theorem execAng2Edge_keeps (h : Keeps s t) (a1) : OutKeeps s (execAng2Edge a1 t) := by
  unfold execAng2Edge
  repeat'
    first
    | (show (_ : Nat) = _; first | rfl | exact length_modAt _ _ _ | simp only [List.length_map, length_modAt, List.length_zipIdx])
    | intro _
    | with_reducible (first | assumption | apply OutKeeps.next | apply elapseToNs_keeps | apply propWatch_keeps | apply modClk_keeps | apply camAdvance_keeps | apply edgeCuts_keeps | apply onlyIf_keeps | apply propCoastEdge_keeps | apply ite_keeps)
    | split
    | (extract_lets +onlyGivenNames x; first | (refine (fun hx : Keeps s x => ?_) ?_ <;> [clear_value x; subst x]) | clear_value x)

theorem execPropHoldExpiry_keeps (h : Keeps s t) : OutKeeps s (execPropHoldExpiry t) := by
  unfold execPropHoldExpiry
  repeat'
    first
    | (show (_ : Nat) = _; first | rfl | exact length_modAt _ _ _ | simp only [List.length_map, length_modAt, List.length_zipIdx])
    | intro _
    | with_reducible (first | assumption | apply OutKeeps.next | apply elapseToNs_keeps | apply leaveProp_keeps | apply modClk_keeps | apply ite_keeps)
    | split
    | (extract_lets +onlyGivenNames x; first | (refine (fun hx : Keeps s x => ?_) ?_ <;> [clear_value x; subst x]) | clear_value x)

theorem switchDone_keeps (h : Keeps s t) (a1) : Keeps s (switchDone a1 t) := by
  unfold switchDone
  repeat'
    first
    | (show (_ : Nat) = _; first | rfl | exact length_modAt _ _ _ | simp only [List.length_map, length_modAt, List.length_zipIdx])
    | intro _
    | with_reducible (first | assumption | apply modClk_keeps | apply onCrankSync_keeps | apply propWatch_keeps | apply ite_keeps)
    | split
    | (extract_lets +onlyGivenNames x; first | (refine (fun hx : Keeps s x => ?_) ?_ <;> [clear_value x; subst x]) | clear_value x)

theorem execAngleSwitchWindowEnd_keeps (h : Keeps s t) : OutKeeps s (execAngleSwitchWindowEnd t) := by
  unfold execAngleSwitchWindowEnd
  repeat'
    first
    | intro _
    | with_reducible (first | assumption | apply OutKeeps.next | apply switchDone_keeps | apply elapseToNs_keeps | apply ite_keeps)
    | split

theorem execAng3Pulse_keeps (h : Keeps s t) (a1) : OutKeeps s (execAng3Pulse a1 t) := by
  unfold execAng3Pulse
  repeat'
    first
    | (show (_ : Nat) = _; first | rfl | exact length_modAt _ _ _ | simp only [List.length_map, length_modAt, List.length_zipIdx])
    | intro _
    | with_reducible (first | assumption | apply OutKeeps.next | apply elapseToNs_keeps | apply speedWatch_keeps | apply modClk_keeps | apply ite_keeps)
    | split
    | (extract_lets +onlyGivenNames x; first | (refine (fun hx : Keeps s x => ?_) ?_ <;> [clear_value x; subst x]) | clear_value x)

theorem execWheelPulseTimeout_keeps (h : Keeps s t) : OutKeeps s (execWheelPulseTimeout t) := by
  unfold execWheelPulseTimeout
  repeat'
    first
    | intro _
    | with_reducible (first | assumption | apply OutKeeps.next | apply speedWatch_keeps | apply elapseToNs_keeps | apply ite_keeps)
    | split

theorem execRoadSpeedFrame_keeps (h : Keeps s t) (a1) (a2) (a3) : OutKeeps s (execRoadSpeedFrame a1 a2 a3 t) := by
  unfold execRoadSpeedFrame
  repeat'
    first
    | (show (_ : Nat) = _; first | rfl | exact length_modAt _ _ _ | simp only [List.length_map, length_modAt, List.length_zipIdx])
    | intro _
    | with_reducible (first | assumption | apply OutKeeps.next | apply speedWatch_keeps | apply modClk_keeps | apply ite_keeps)
    | split
    | (extract_lets +onlyGivenNames x; first | (refine (fun hx : Keeps s x => ?_) ?_ <;> [clear_value x; subst x]) | clear_value x)

theorem execEngineSpeedFrame_keeps (h : Keeps s t) (a1) (a2) (a3) : OutKeeps s (execEngineSpeedFrame a1 a2 a3 t) := by
  unfold execEngineSpeedFrame
  repeat'
    first
    | (show (_ : Nat) = _; first | rfl | exact length_modAt _ _ _ | simp only [List.length_map, length_modAt, List.length_zipIdx])
    | intro _
    | with_reducible (first | assumption | apply OutKeeps.next | apply speedWatch_keeps | apply modClk_keeps | apply ite_keeps)
    | split
    | (extract_lets +onlyGivenNames x; first | (refine (fun hx : Keeps s x => ?_) ?_ <;> [clear_value x; subst x]) | clear_value x)

theorem execSpeedSignalStale_keeps (h : Keeps s t) (a1) : OutKeeps s (execSpeedSignalStale a1 t) := by
  unfold execSpeedSignalStale
  repeat'
    first
    | intro _
    | with_reducible (first | assumption | apply OutKeeps.next | apply speedWatch_keeps | apply elapseToNs_keeps | apply ite_keeps)
    | split

theorem putSession_keeps (h : Keeps s t) (a1) : Keeps s (putSession a1 t) := by
  unfold putSession
  repeat'
    first
    | intro _
    | with_reducible (first | assumption | apply modRadio_keeps)

theorem playSegments_keeps {s t : State} (h : Keeps s t) (n) : Keeps s (playSegments n t) := by
  induction n generalizing t with
  | zero => exact h
  | succ n ih =>
    unfold playSegments
    split
    · exact h
    · split
      · exact h
      · split
        · extract_lets +onlyGivenNames q
          clear_value q
          refine ite_keeps ?_ ?_
          · exact modRadio_keeps (putPoll_keeps (emitSegment_keeps h _ _ _) _) _
          · exact ih (putPoll_keeps (emitSegment_keeps h _ _ _) _)
        · exact lfEvent_keeps h _
        · exact lfEvent_keeps h _
        · exact lfEvent_keeps h _

theorem priRaise_keeps (h : Keeps s t) (a1) : Keeps s (priRaise a1 t) := by
  unfold priRaise
  repeat'
    first
    | intro _
    | with_reducible (first | assumption | apply uhfEvent_keeps | apply elapseNs_keeps | apply drivePri_keeps | apply driveReq_keeps | apply ite_keeps)
    | split

theorem priFall_keeps (h : Keeps s t) : Keeps s (priFall t) := by
  unfold priFall
  repeat'
    first
    | intro _
    | with_reducible (first | assumption | apply drivePri_keeps | apply driveReq_keeps)

theorem playBursts_keeps {s t : State} (h : Keeps s t) (u n) : Keeps s (playBursts u n t) := by
  induction n generalizing t with
  | zero => exact h
  | succ n ih =>
    unfold playBursts
    split
    · exact h
    · split
      · exact h
      · split
        · split
          · exact (priFall_keeps h)
          · split
            · exact ih ((putPoll_keeps (priFall_keeps (elapseToNs_keeps h _)) _))
            · extract_lets +onlyGivenNames s1
              have h1 : Keeps s s1 := (elapseToNs_keeps h _)
              clear_value s1
              split
              · exact (priFall_keeps h1)
              · extract_lets +onlyGivenNames q
                clear_value q
                exact ih ((putPoll_keeps (burstOut_keeps (countEmission_keeps h1 _) _ _ _ _) _))
        · extract_lets +onlyGivenNames s1
          have h1 : Keeps s s1 := (priFall_keeps (elapseToNs_keeps h _))
          clear_value s1
          split
          · extract_lets d
            exact ih ((putPoll_keeps (priRaise_keeps (elapseToNs_keeps (grantWindow_keeps h1 _ _ _) _) _) _))
          · exact h1

theorem playReports_keeps {s t : State} (h : Keeps s t) (u n l) : Keeps s ((playReports u n l t).2) := by
  induction n generalizing t l with
  | zero => exact h
  | succ n ih =>
    unfold playReports
    extract_lets +onlyGivenNames s1
    have h1 : Keeps s s1 := (priFall_keeps (elapseNs_keeps (sendTrigger_keeps (priRaise_keeps h _) _) _))
    clear_value s1
    split
    · split
      · exact h1
      · exact ih h1 _
    · exact ih h1 _

theorem rangingLate_keeps {s t : State} (h : Keeps s t) (a) : Keeps s (checkedState (rangingLate a t)) := elapseTo_keeps h _

theorem startReport_keeps {s t : State} (h : Keeps s t) (u a b again) (hg : ∀ {t}, Keeps s (t) → Keeps s (checkedState (again t))) :
    Keeps s (checkedState (startReport u a b again t)) := by
  unfold startReport
  extract_lets +onlyGivenNames r
  have hr : Keeps s (r.2) := (playReports_keeps (priFall_keeps (elapseToNs_keeps h _)) _ _ _)
  clear_value r
  split
  · exact hg hr
  · extract_lets +onlyGivenNames k
    clear_value k
    split
    · simp only [checkedState]
      exact (modRadio_keeps (recordTcnt_keeps hr _ _) _)
    · split
      · exact hg (recordTcnt_keeps hr _ _)
      · split
        · exact hr
        · exact (onlyIf_keeps hr _ _ fun k => (authFail_keeps k _ _))

theorem startSound_keeps {s t : State} (h : Keeps s t) (u a b c d again) (hg : ∀ {t}, Keeps s (t) → Keeps s (checkedState (again t))) :
    Keeps s (checkedState (startSound u a b c d again t)) := by
  unfold startSound
  extract_lets +onlyGivenNames s1 s2
  have h1 : Keeps s (s1) := (recordTcnt_keeps h _ _)
  clear_value s1
  have h2 : Keeps s (s2) := (playBursts_keeps (putPoll_keeps h1 _) _ _)
  clear_value s2
  split
  · refine checked_ite (startReport_keeps h2 _ _ _ _ hg) (checked_ite (hg h2) (rangingLate_keeps h2 _))
  · exact (rangingLate_keeps h2 _)

theorem playChallenge_keeps (h : Keeps s t) (a1) (a2) (a3) : Keeps s (playChallenge a1 a2 a3 t) := by
  unfold playChallenge
  repeat'
    first
    | intro _
    | with_reducible (first | assumption | apply playSegments_keeps | apply beginTelegram_keeps)

theorem playTrigger_keeps (h : Keeps s t) (a1) (a2) : Keeps s (playTrigger a1 a2 t) := by
  unfold playTrigger
  repeat'
    first
    | (show FlightFn _; exact fun x => ⟨sameAcceptance_refl x, fun _ => rfl⟩)
    | intro _
    | with_reducible (first | assumption | apply modFlight_keeps | apply priRaise_keeps | apply elapseToNs_keeps | apply sendTrigger_keeps | apply putPoll_keeps | apply ite_keeps)
    | split
    | (extract_lets +onlyGivenNames x; first | (refine (fun hx : Keeps s x => ?_) ?_ <;> [clear_value x; subst x]) | clear_value x)

theorem startTries_keeps {s t : State} (h : Keeps s t) (r u lim tid chans n l c) : Keeps s (checkedState (startTries r u lim tid chans n l c t)) := by
  induction n generalizing t l c with
  | zero => exact h
  | succ n ih =>
    unfold startTries
    extract_lets +onlyGivenNames x s1
    have h1 : Keeps s (s1) := (ite_keeps h (playChallenge_keeps h _ _ _))
    clear_value s1
    split
    · exact (rangingLate_keeps h1 _)
    · split
      · exact (rangingLate_keeps h1 _)
      · extract_lets +onlyGivenNames s4 k
        have h4 : Keeps s (s4) := (priFall_keeps (elapseToNs_keeps (playTrigger_keeps h1 _ _) _))
        clear_value s4 k
        split
        · exact ih h4 _ _
        · split
          · exact (startSound_keeps h4 _ _ _ _ _ _ fun h => ih h _ _)
          · exact ih (onlyIf_keeps h4 _ _ fun k => (authFail_keeps k _ _)) _ _

theorem startFit_keeps {s t : State} (h : Keeps s t) (r u a b c) : Keeps s (checkedState (startFit r u a b c t)) := by
  unfold startFit
  extract_lets +onlyGivenNames s1 pos
  have h1 : Keeps s (s1) := noteSnr_keeps h _
  clear_value s1 pos
  refine checked_ite (inconsistent_keeps h1 _) (checked_ite (inconsistent_keeps h1 _) ?_)
  extract_lets +onlyGivenNames ts
  have kt : Keeps s (ts.2) := putTrack_keeps h1 _
  clear_value ts
  extract_lets +onlyGivenNames v
  have kv : Keeps s (v) := tokenPassed_keeps kt _ _
  clear_value v
  exact checked_ite (atStage_keeps kv _ _ _) kv

theorem rangeToken_keeps {s t : State} (h : Keeps s t) (r lim tid a b) : Keeps s (checkedState (rangeToken r lim tid a b t)) := by
  unfold rangeToken
  extract_lets chans
  split
  · exact h
  · split
    · exact h
    · split
      · exact h
      · split
        · exact h
        · rename_i u _ _ _ _
          have k := (startTries_keeps h r u lim tid chans 3 b.1 1)
          revert k
          split
          · rename_i e
            rw [e]; exact fun k => k
          · rename_i e
            rw [e]; exact fun k => (startFit_keeps k _ _ _ _ _)

theorem rangeAll_keeps {s t : State} (h : Keeps s t) (r lim a b l c d) : Keeps s (checkedState (rangeAll r lim a b l c d t)) := by
  induction l generalizing t c d with
  | nil => exact h
  | cons tid l ih =>
    unfold rangeAll
    extract_lets ev
    have k := rangeToken_keeps (atStage_keeps h r 0 0) r lim tid b ev
    revert k
    split
    · rename_i e
      rw [e]; exact fun k => checked_ite k (ih k _ _)
    · rename_i e
      rw [e]; exact fun k => checked_ite (atStage_keeps k _ _ _) (ih k _ _)

theorem cardEntry_keeps {s t : State} (h : Keeps s t) (a1 a2 a3) : Keeps s (checkedState (cardEntry t a1 a2 a3)) := by
  unfold cardEntry
  split
  · split
    · exact h
    · split <;> exact h
  · exact h
  · exact h

theorem startCards_keeps {s t : State} (h : Keeps s t) (b l) : Keeps s (checkedState (startCards b l t)) := by
  induction l generalizing t b with
  | nil => cases b <;> exact h
  | cons c l ih =>
    unfold startCards
    extract_lets +onlyGivenNames chal s1
    have h1 : Keeps s s1 := emit_keeps (drew_keeps h _ _) _
    clear_value s1
    extract_lets +onlyGivenNames code s2
    have h2 : Keeps s s2 := cardRan_keeps h1 _
    clear_value s2
    split
    · exact h2
    · exact ih h2 _

theorem startCommit_keeps (h : Keeps s t) (a1) (a2) (a3) (a4) (a5) (a6) : Keeps s (startCommit a1 a2 a3 a4 a5 a6 t) := by
  unfold startCommit
  repeat'
    first
    | intro _
    | with_reducible (first | assumption | apply settle_keeps | apply commitPoint_keeps | apply setLatch_keeps | apply ite_keeps)
    | split
    | (extract_lets +onlyGivenNames x; first | (refine (fun hx : Keeps s x => ?_) ?_ <;> [clear_value x; subst x]) | (refine (fun hx : ∀ {t}, Keeps s t → Keeps s (x t) => ?_) ?_ <;> [clear_value x; subst x]) | clear_value x)

theorem startCardStep_keeps {s t : State} (h : Keeps s t) (a1 a2 a3 a4 a5 a6) :
    Keeps s (startCardStep a1 a2 a3 a4 a5 a6 t) := by
  unfold startCardStep
  split
  · have k := startCards_keeps h false (namedCards t a3 a6)
    split
    · rename_i e
      exact settle_keeps (checked_fail k e) _ _
    · rename_i c u e
      have k' := cardEntry_keeps (checked_pass k e) a3.cardNs c.2.1 c.2.2
      split
      · rename_i e'
        exact settle_keeps (checked_fail k' e') _ _
      · rename_i e'
        exact startCommit_keeps (checked_pass k' e') _ _ _ _ _ _
  · exact startCommit_keeps h _ _ _ _ _ _

theorem resumePoll_keeps (h : Keeps s t) : Keeps s (resumePoll t) := by
  unfold resumePoll
  repeat'
    first
    | intro _
    | with_reducible (first | assumption | apply coexAnew_keeps | apply ite_keeps)
    | split

theorem startRun_keeps {s t : State} (h : Keeps s t) (a1 a2 a3) : Keeps s (startRun a1 a2 a3 t) := by
  unfold startRun
  extract_lets +onlyGivenNames pol old pri x
  have hx : Keeps s x := (modRadio_keeps h _)
  clear_value x
  have k := (rangeAll_keeps hx a1 (startLimit x a1 a3) pol.tokenNs pri (startCands x (fieldLE a3.raw 24 4)) a2.tokens (failFate fAbsent 0x20))
  revert k
  split
  · rename_i e
    rw [e]; exact fun k => (settle_keeps (putSession_keeps (priFall_keeps k) _) _ _)
  · rename_i e
    rw [e]; exact fun k => (ite_keeps (settle_keeps (putSession_keeps (priFall_keeps k) _) _ _) (startCardStep_keeps (putSession_keeps (priFall_keeps k) _) _ _ _ _ _ _))

theorem firstChallenge_keeps (h : Keeps s t) (a1) (a2) : Keeps s (firstChallenge a1 a2 t) := by
  unfold firstChallenge
  repeat'
    first
    | intro _
    | with_reducible (first | assumption | apply playChallenge_keeps | apply putSession_keeps | apply ite_keeps)
    | split

theorem awaitLead_keeps (h : Keeps s t) (a1) (a2) (a3) (a4) : Keeps s (awaitLead a1 a2 a3 a4 t) := by
  unfold awaitLead
  repeat'
    first
    | intro _
    | with_reducible (first | assumption | apply elapseToNs_keeps | apply uhfEvent_keeps | apply modRadio_keeps | apply drivePri_keeps | apply driveReq_keeps)
    | split
    | (extract_lets +onlyGivenNames x; first | (refine (fun hx : Keeps s x => ?_) ?_ <;> [clear_value x; subst x]) | clear_value x)

theorem startBegin_keeps (h : Keeps s t) (a1) (a2) (a3) : Keeps s (startBegin a1 a2 a3 t) := by
  unfold startBegin
  repeat'
    first
    | intro _
    | with_reducible (first | assumption | apply settle_keeps | apply firstChallenge_keeps | apply awaitLead_keeps | apply resumePoll_keeps | apply startRun_keeps | apply modRadio_keeps | apply putSession_keeps | apply ite_keeps)
    | split
    | (extract_lets +onlyGivenNames x; first | (refine (fun hx : Keeps s x => ?_) ?_ <;> [clear_value x; subst x]) | clear_value x)

theorem execStart_keeps (h : Keeps s t) (a1) (a2) : OutKeeps s (execStart a1 a2 t) := by
  unfold execStart
  repeat'
    first
    | intro _
    | with_reducible (first | assumption | apply OutKeeps.next | apply onlyIf_keeps | apply modRadio_keeps | apply startOp_keeps | apply startBegin_keeps | apply ite_keeps)
    | split

theorem execCoexPriLead_keeps (h : Keeps s t) : OutKeeps s (execCoexPriLead t) := by
  unfold execCoexPriLead
  repeat'
    first
    | intro _
    | with_reducible (first | assumption | apply OutKeeps.next | apply modRadio_keeps | apply elapseTo_keeps | apply resumePoll_keeps | apply priFall_keeps | apply onOp_keeps | apply startRun_keeps)
    | split
    | (extract_lets +onlyGivenNames x; first | (refine (fun hx : Keeps s x => ?_) ?_ <;> [clear_value x; subst x]) | clear_value x)

theorem dropTest_keeps (h : Keeps s t) : Keeps s (dropTest t) := by
  unfold dropTest
  repeat'
    first
    | intro _
    | with_reducible (first | assumption | apply modFlt_keeps)

theorem endOp_keeps (h : Keeps s t) (a1) (a2) (a3) : Keeps s (endOp a1 a2 a3 t) := by
  unfold endOp
  repeat'
    first
    | (show (_ : Nat) = _; first | rfl | exact length_modAt _ _ _ | simp only [List.length_map, length_modAt, List.length_zipIdx])
    | (show (_ : Nat) ≤ _; first | exact Nat.le_refl _ | simp)
    | intro _
    | with_reducible (first | assumption | apply endLocate_keeps | apply settle_keeps | apply resumePoll_keeps | apply priFall_keeps | apply modRadio_keeps | apply endLost_keeps | apply endRelay_keeps | apply cancelAppend_keeps | apply modDir_keeps | apply modCus_keeps | apply modUpd_keeps | apply dropTest_keeps | apply ite_keeps)
    | split
    | (extract_lets +onlyGivenNames x; first | (refine (fun hx : Keeps s x => ?_) ?_ <;> [clear_value x; subst x]) | (refine (fun hx : Keeps s x.2 => ?_) ?_ <;> [clear_value x; subst x]) | (refine (fun hx : Keeps s x.1 => ?_) ?_ <;> [clear_value x; subst x]) | clear_value x)

theorem execClassBoundExpiry_keeps (h : Keeps s t) (a1) : OutKeeps s (execClassBoundExpiry a1 t) := by
  unfold execClassBoundExpiry
  repeat'
    first
    | intro _
    | with_reducible (first | assumption | apply OutKeeps.next | apply elapseTo_keeps | apply settle_keeps | apply onlyIf_keeps | apply keyEvent_keeps | apply endOp_keeps | apply ite_keeps)
    | split
    | (extract_lets +onlyGivenNames x; first | (refine (fun hx : Keeps s x => ?_) ?_ <;> [clear_value x; subst x]) | clear_value x)

theorem pairRecord_keeps (h : Keeps s t) (a1) (a2) (a3) (a4) : Keeps s (pairRecord a1 a2 a3 a4 t) := by
  unfold pairRecord
  repeat'
    first
    | intro _
    | with_reducible (first | assumption | apply modFlt_keeps | apply writeFault_keeps)

theorem setPairOut_keeps (h : Keeps s t) (a1) (a2) : Keeps s (setPairOut a1 a2 t) := by
  unfold setPairOut
  repeat'
    first
    | (show (_ : Nat) = _; first | rfl | exact length_modAt _ _ _ | simp only [List.length_map, length_modAt, List.length_zipIdx])
    | intro _
    | with_reducible (first | assumption | apply tryLog_keeps | apply modPwr_keeps | apply ite_keeps)
    | split

theorem endPairTest_keeps (h : Keeps s t) (a1) : Keeps s (endPairTest a1 t) := by
  unfold endPairTest
  repeat'
    first
    | intro _
    | with_reducible (first | assumption | apply settle_keeps | apply modFlt_keeps)
    | split

theorem loseShadow_keeps (h : Keeps s t) (a1) (a2) : Keeps s (loseShadow a1 a2 t) := by
  unfold loseShadow
  repeat'
    first
    | (show (_ : Nat) = _; first | rfl | exact length_modAt _ _ _ | simp only [List.length_map, length_modAt, List.length_zipIdx])
    | intro _
    | with_reducible (first | assumption | apply modFlt_keeps | apply endPairTest_keeps | apply pairRecord_keeps | apply setPairOut_keeps | apply modPwr_keeps | apply ite_keeps)
    | split
    | (extract_lets +onlyGivenNames x; first | (refine (fun hx : Keeps s x => ?_) ?_ <;> [clear_value x; subst x]) | clear_value x)

theorem takeover_keeps (h : Keeps s t) : Keeps s (takeover t) := by
  unfold takeover
  repeat'
    first
    | (show (_ : Nat) = _; first | rfl | exact length_modAt _ _ _ | simp only [List.length_map, length_modAt, List.length_zipIdx])
    | intro _
    | with_reducible (first | assumption | apply modPwr_keeps | apply modFlt_keeps | apply failoverTrial_keeps | apply loseShadow_keeps | apply ite_keeps)
    | split
    | (extract_lets +onlyGivenNames x; first | (refine (fun hx : Keeps s x => ?_) ?_ <;> [clear_value x; subst x]) | clear_value x)

theorem execStewardTakeover_keeps (h : Keeps s t) (a1) : OutKeeps s (execStewardTakeover a1 t) := by
  unfold execStewardTakeover
  repeat'
    first
    | intro _
    | with_reducible (first | assumption | apply OutKeeps.next | apply takeover_keeps)

theorem pairFails_keeps (h : Keeps s t) (a1) : Keeps s (pairFails a1 t) := by
  unfold pairFails
  repeat'
    first
    | intro _
    | with_reducible (first | assumption | apply setPairOut_keeps | apply pairRecord_keeps | apply modFlt_keeps)

theorem joinShadow_keeps (h : Keeps s t) : Keeps s (joinShadow t) := by
  unfold joinShadow
  repeat'
    first
    | intro _
    | with_reducible (first | assumption | apply modFlt_keeps)
    | split

theorem execPairSelfTestEnd_keeps (h : Keeps s t) (a1) : OutKeeps s (execPairSelfTestEnd a1 t) := by
  unfold execPairSelfTestEnd
  repeat'
    first
    | (show (_ : Nat) = _; first | rfl | exact length_modAt _ _ _ | simp only [List.length_map, length_modAt, List.length_zipIdx])
    | intro _
    | with_reducible (first | assumption | apply OutKeeps.next | apply modPwr_keeps | apply pairRecord_keeps | apply joinShadow_keeps | apply pairFails_keeps | apply ite_keeps)
    | split
    | (extract_lets +onlyGivenNames x; first | (refine (fun hx : Keeps s x => ?_) ?_ <;> [clear_value x; subst x]) | clear_value x)

theorem execShadowTestSlice_keeps (h : Keeps s t) (a1) : OutKeeps s (execShadowTestSlice a1 t) := by
  unfold execShadowTestSlice
  repeat'
    first
    | intro _
    | with_reducible (first | assumption | apply OutKeeps.next | apply endPairTest_keeps | apply modFlt_keeps | apply pairFails_keeps | apply ite_keeps)
    | split

theorem bankFails_keeps (h : Keeps s t) (a1) (a2) : Keeps s (bankFails a1 a2 t) := by
  unfold bankFails
  repeat'
    first
    | intro _
    | with_reducible (first | assumption | apply changeUnit_keeps)

theorem repairRow_keeps (h : Keeps s t) (a1) (a2) : Keeps s (repairRow a1 a2 t) := by
  unfold repairRow
  repeat'
    first
    | intro _
    | with_reducible (first | assumption | apply tryLog_keeps | apply modFlt_keeps | apply bankFails_keeps | apply ite_keeps)
    | split
    | (extract_lets +onlyGivenNames x; first | (refine (fun hx : Keeps s x => ?_) ?_ <;> [clear_value x; subst x]) | clear_value x)

theorem repairCol_keeps (h : Keeps s t) (a1) (a2) (a3) : Keeps s (repairCol a1 a2 a3 t) := by
  unfold repairCol
  repeat'
    first
    | intro _
    | with_reducible (first | assumption | apply tryLog_keeps | apply modFlt_keeps | apply bankFails_keeps | apply ite_keeps)
    | split
    | (extract_lets +onlyGivenNames x; first | (refine (fun hx : Keeps s x => ?_) ?_ <;> [clear_value x; subst x]) | clear_value x)

theorem wordLost_keeps (h : Keeps s t) (a1) : Keeps s (wordLost a1 t) := by
  unfold wordLost
  repeat'
    first
    | intro _
    | with_reducible (first | assumption | apply takeover_keeps | apply loseShadow_keeps | apply restartPoll_keeps | apply endOp_keeps | apply ite_keeps)
    | split

theorem execSramEccError_keeps (h : Keeps s t) (a1) (a2) (a3) (a4) (a5) : OutKeeps s (execSramEccError a1 a2 a3 a4 a5 t) := by
  unfold execSramEccError
  repeat'
    first
    | intro _
    | with_reducible (first | assumption | apply OutKeeps.next | apply modFlt_keeps | apply fault_keeps | apply onlyIf_keeps | apply repairRow_keeps | apply repairCol_keeps | apply wordLost_keeps | apply ite_keeps)
    | split
    | (extract_lets +onlyGivenNames x; first | (refine (fun hx : Keeps s x => ?_) ?_ <;> [clear_value x; subst x]) | clear_value x)

theorem halfFails_keeps (h : Keeps s t) (a1) : Keeps s (halfFails a1 t) := by
  unfold halfFails
  repeat'
    first
    | (show (_ : Nat) ≤ _; first | exact Nat.le_refl _ | simp)
    | intro _
    | with_reducible (first | assumption | apply modLed_keeps | apply changeUnit_keeps | apply cusEvent_keeps | apply enterHearth_keeps | apply ite_keeps)
    | split
    | (extract_lets +onlyGivenNames x; first | (refine (fun hx : Keeps s x => ?_) ?_ <;> [clear_value x; subst x]) | clear_value x)

theorem execLedgerSectorFail_keeps (h : Keeps s t) (a1) : OutKeeps s (execLedgerSectorFail a1 t) := by
  unfold execLedgerSectorFail
  repeat'
    first
    | (show (_ : Nat) ≤ _; first | exact Nat.le_refl _ | simp)
    | intro _
    | with_reducible (first | assumption | apply OutKeeps.next | apply halfFails_keeps | apply modLed_keeps | apply fault_keeps | apply modFlt_keeps | apply cusEvent_keeps | apply ite_keeps)
    | split
    | (extract_lets +onlyGivenNames x; first | (refine (fun hx : Keeps s x => ?_) ?_ <;> [clear_value x; subst x]) | clear_value x)

theorem execCoexGntStuck_keeps (h : Keeps s t) (a1) : OutKeeps s (execCoexGntStuck a1 t) := by
  unfold execCoexGntStuck
  repeat'
    first
    | intro _
    | with_reducible (first | assumption | apply OutKeeps.next | apply fault_keeps | apply modFlt_keeps | apply ite_keeps)
    | split

theorem execPmicRecoveryRetry_keeps (h : Keeps s t) (a1) : OutKeeps s (execPmicRecoveryRetry a1 t) := by
  unfold execPmicRecoveryRetry
  repeat'
    first
    | (show (_ : Nat) = _; first | rfl | exact length_modAt _ _ _ | simp only [List.length_map, length_modAt, List.length_zipIdx])
    | intro _
    | with_reducible (first | assumption | apply OutKeeps.next | apply elapseTo_keeps | apply modFlt_keeps | apply writeFault_keeps | apply fault_keeps | apply modPwr_keeps | apply ite_keeps)
    | split
    | (extract_lets +onlyGivenNames x; first | (refine (fun hx : Keeps s x => ?_) ?_ <;> [clear_value x; subst x]) | clear_value x)

theorem execPmicIrqStuck_keeps (h : Keeps s t) (a1) : OutKeeps s (execPmicIrqStuck a1 t) := by
  unfold execPmicIrqStuck
  repeat'
    first
    | intro _
    | with_reducible (first | assumption | apply OutKeeps.next | apply modFlt_keeps | apply fault_keeps | apply writeFault_keeps | apply ite_keeps)
    | split
    | (extract_lets +onlyGivenNames x; first | (refine (fun hx : Keeps s x => ?_) ?_ <;> [clear_value x; subst x]) | clear_value x)

theorem changeLevel_keeps (h : Keeps s t) (a1) : Keeps s (changeLevel a1 t) := by
  unfold changeLevel
  repeat'
    first
    | (show (_ : Nat) = _; first | rfl | exact length_modAt _ _ _ | simp only [List.length_map, length_modAt, List.length_zipIdx])
    | (show (_ : Nat) ≤ _; first | exact Nat.le_refl _ | simp)
    | intro _
    | with_reducible (first | assumption | apply modSlc_keeps | apply modPwr_keeps | apply ite_keeps)
    | split
    | (extract_lets +onlyGivenNames x; first | (refine (fun hx : Keeps s x => ?_) ?_ <;> [clear_value x; subst x]) | clear_value x)

theorem laneTemps_keeps (h : Keeps s t) (a1) : Keeps s (laneTemps a1 t) := by
  unfold laneTemps
  repeat'
    first
    | (show (_ : Nat) = _; first | rfl | exact length_modAt _ _ _ | simp only [List.length_map, length_modAt, List.length_zipIdx])
    | intro _
    | with_reducible (first | assumption | apply drawn_keeps | apply modSec_keeps)
    | split
    | (extract_lets +onlyGivenNames x; first | (refine (fun hx : Keeps s x => ?_) ?_ <;> [clear_value x; subst x]) | (refine (fun hx : Keeps s x.2 => ?_) ?_ <;> [clear_value x; subst x]) | (refine (fun hx : Keeps s x.1 => ?_) ?_ <;> [clear_value x; subst x]) | clear_value x)

theorem execThermalGovernor_keeps (h : Keeps s t) (a1) : OutKeeps s (execThermalGovernor a1 t) := by
  unfold execThermalGovernor
  repeat'
    first
    | intro _
    | with_reducible (first | assumption | apply OutKeeps.next | apply laneTemps_keeps | apply setDieTemp_keeps | apply changeLevel_keeps | apply ite_keeps)
    | split
    | (extract_lets +onlyGivenNames x; first | (refine (fun hx : Keeps s x => ?_) ?_ <;> [clear_value x; subst x]) | clear_value x)

theorem readDone_keeps (h : Keeps s t) (a1) (a2) (a3) : Keeps s (readDone a1 a2 a3 t) := by
  unfold readDone
  repeat'
    first
    | intro _
    | with_reducible (first | assumption | apply modFunc_keeps)

theorem barRead_keeps (h : Keeps s t) (a1) (a2) (a3) : Keeps s (barRead a1 a2 a3 t) := by
  unfold barRead
  repeat'
    first
    | intro _
    | with_reducible (first | assumption | apply readDone_keeps | apply onlyIf_keeps | apply putCnt_keeps | apply ite_keeps)
    | split

theorem execHighHalfLatch_keeps (h : Keeps s t) (a1) (a2) (a3) : OutKeeps s (execHighHalfLatch a1 a2 a3 t) := by
  unfold execHighHalfLatch
  repeat'
    first
    | intro _
    | with_reducible (first | assumption | apply OutKeeps.next | apply barRead_keeps)

theorem execSysReset_keeps (h : Keeps s t) (a1) (a2) : OutKeeps s (execSysReset a1 a2 t) := by
  unfold execSysReset
  repeat'
    first
    | intro _
    | with_reducible (first | assumption | apply OutKeeps.next | apply warmReset_keeps | apply ite_keeps)
    | split

theorem execSysLockSetup_keeps (h : Keeps s t) (a1) (a2) : OutKeeps s (execSysLockSetup a1 a2 t) := by
  unfold execSysLockSetup
  repeat'
    first
    | intro _
    | with_reducible (first | assumption | apply OutKeeps.next | apply modSys_keeps | apply ite_keeps)
    | split

theorem after_keeps {s t : State} (h : Keeps s t) (o : Host.Outcome State Fault Refusal) (ho : OutKeeps s o) :
    Keeps s (after o t) := by
  unfold after
  split
  · exact ho.out _ rfl
  · exact h
  · exact h

theorem sysWrite_keeps (h : Keeps s t) (a1) (a2) (a3) : Keeps s (sysWrite a1 a2 a3 t) := by
  unfold sysWrite
  repeat'
    first
    | intro _
    | with_reducible (first | assumption | apply after_keeps | apply execSysReset_keeps | apply execSysLockSetup_keeps | apply modSys_keeps | apply ite_keeps)
    | split

theorem vecWrite_keeps (h : Keeps s t) (a1) (a2) (a3) (a4) : Keeps s (vecWrite a1 a2 a3 a4 t) := by
  unfold vecWrite
  repeat'
    first
    | intro _
    | with_reducible (first | assumption | apply modVec_keeps | apply sendPending_keeps | apply ite_keeps)
    | split

theorem hostWrite_keeps (h : Keeps s t) (a1) (a2) (a3) : Keeps s (hostWrite a1 a2 a3 t) := by
  unfold hostWrite
  repeat'
    first
    | intro _
    | with_reducible (first | assumption | apply modFunc_keeps | apply after_keeps | apply execRingEnable_keeps | apply execRingDisable_keeps | apply modRing_keeps | apply vecWrite_keeps | apply ite_keeps)
    | split

theorem slcWrite_keeps (h : Keeps s t) (a1) (a2) (a3) : Keeps s (slcWrite a1 a2 a3 t) := by
  unfold slcWrite
  repeat'
    first
    | intro _
    | with_reducible (first | assumption | apply modFunc_keeps | apply ite_keeps)
    | split

theorem angWrite_keeps (h : Keeps s t) (a1) (a2) (a3) : Keeps s (angWrite a1 a2 a3 t) := by
  unfold angWrite
  repeat'
    first
    | (show (_ : Nat) = _; first | rfl | exact length_modAt _ _ _ | simp only [List.length_map, length_modAt, List.length_zipIdx])
    | intro _
    | with_reducible (first | assumption | apply modClk_keeps | apply after_keeps | apply execCntEnable_keeps | apply execCntDisable_keeps | apply execCntTop_keeps | apply execCntCmp_keeps | apply ite_keeps)
    | split
    | (extract_lets +onlyGivenNames x; first | (refine (fun hx : Keeps s x => ?_) ?_ <;> [clear_value x; subst x]) | clear_value x)

theorem lfWrite_keeps (h : Keeps s t) (a1) (a2) : Keeps s (lfWrite a1 a2 t) := by
  unfold lfWrite
  repeat'
    first
    | intro _
    | with_reducible (first | assumption | apply modRadio_keeps | apply ite_keeps)
    | split
    | (extract_lets +onlyGivenNames x; first | (refine (fun hx : Keeps s x => ?_) ?_ <;> [clear_value x; subst x]) | clear_value x)

theorem uhfWrite_keeps (h : Keeps s t) (a1) (a2) : Keeps s (uhfWrite a1 a2 t) := by
  unfold uhfWrite
  repeat'
    first
    | intro _
    | with_reducible (first | assumption | apply modRadio_keeps | apply ite_keeps)
    | split

theorem nfcWrite_keeps (h : Keeps s t) (a1) (a2) : Keeps s (nfcWrite a1 a2 t) := by
  unfold nfcWrite
  repeat'
    first
    | intro _
    | with_reducible (first | assumption | apply modNfc_keeps | apply modCap_keeps | apply ite_keeps)
    | split

theorem iflWrite_keeps (h : Keeps s t) (a1) (a2) : Keeps s (iflWrite a1 a2 t) := by
  unfold iflWrite
  repeat'
    first
    | (show (_ : Nat) = _; first | rfl | exact length_modAt _ _ _ | simp only [List.length_map, length_modAt, List.length_zipIdx])
    | intro _
    | with_reducible (first | assumption | apply modIfl_keeps | apply modPort_keeps | apply ite_keeps)
    | split

theorem cusWrite_keeps (h : Keeps s t) (a1) (a2) : Keeps s (cusWrite a1 a2 t) := by
  unfold cusWrite
  repeat'
    first
    | (show (_ : Nat) = _; first | rfl | exact length_modAt _ _ _ | simp only [List.length_map, length_modAt, List.length_zipIdx])
    | intro _
    | with_reducible (first | assumption | apply modCus_keeps | apply ite_keeps)
    | split

theorem dirWrite_keeps (h : Keeps s t) (a1) (a2) : Keeps s (dirWrite a1 a2 t) := by
  unfold dirWrite
  repeat'
    first
    | intro _
    | with_reducible (first | assumption | apply modDir_keeps | apply ite_keeps)
    | split

theorem secWrite_keeps (h : Keeps s t) (a1) (a2) : Keeps s (secWrite a1 a2 t) := by
  unfold secWrite
  repeat'
    first
    | (show (_ : Nat) = _; first | rfl | exact length_modAt _ _ _ | simp only [List.length_map, length_modAt, List.length_zipIdx])
    | intro _
    | with_reducible (first | assumption | apply modSec_keeps | apply ite_keeps)
    | split

theorem slkWrite_keeps (h : Keeps s t) (a1) (a2) : Keeps s (slkWrite a1 a2 t) := by
  unfold slkWrite
  repeat'
    first
    | intro _
    | with_reducible (first | assumption | apply modSlk_keeps | apply ite_keeps)
    | split

theorem updWrite_keeps (h : Keeps s t) (a1) (a2) (a3) : Keeps s (updWrite a1 a2 a3 t) := by
  unfold updWrite
  repeat'
    first
    | (show (_ : Nat) ≤ _; first | exact Nat.le_refl _ | simp)
    | intro _
    | with_reducible (first | assumption | apply modUpd_keeps | apply hearthGo_keeps | apply after_keeps | apply execUpdHearthRevert_keeps | apply ite_keeps)
    | split
    | (extract_lets +onlyGivenNames x; first | (refine (fun hx : Keeps s x => ?_) ?_ <;> [clear_value x; subst x]) | clear_value x)

theorem fltWrite_keeps (h : Keeps s t) (a1) (a2) : Keeps s (fltWrite a1 a2 t) := by
  unfold fltWrite
  repeat'
    first
    | intro _
    | with_reducible (first | assumption | apply modFlt_keeps | apply ite_keeps)
    | split

theorem pwrWrite_keeps (h : Keeps s t) (a1) (a2) (a3) : Keeps s (pwrWrite a1 a2 a3 t) := by
  unfold pwrWrite
  repeat'
    first
    | (show (_ : Nat) = _; first | rfl | exact length_modAt _ _ _ | simp only [List.length_map, length_modAt, List.length_zipIdx])
    | intro _
    | with_reducible (first | assumption | apply onlyIf_keeps | apply after_keeps | apply execPwrParkReq_keeps | apply execPwrParkCancel_keeps | apply modPwr_keeps | apply execPwrAlarmS_keeps | apply ite_keeps)
    | split
    | (extract_lets +onlyGivenNames x; first | (refine (fun hx : Keeps s x => ?_) ?_ <;> [clear_value x; subst x]) | clear_value x)

theorem wordWrite_keeps (h : Keeps s t) (a1) (a2) (a3) : Keeps s (wordWrite a1 a2 a3 t) := by
  unfold wordWrite
  repeat'
    first
    | intro _
    | with_reducible (first | assumption | apply sysWrite_keeps | apply hostWrite_keeps | apply slcWrite_keeps | apply angWrite_keeps | apply lfWrite_keeps | apply uhfWrite_keeps | apply nfcWrite_keeps | apply iflWrite_keeps | apply cusWrite_keeps | apply dirWrite_keeps | apply secWrite_keeps | apply slkWrite_keeps | apply updWrite_keeps | apply fltWrite_keeps | apply pwrWrite_keeps | apply ite_keeps)
    | split
    | (extract_lets +onlyGivenNames x; first | (refine (fun hx : Keeps s x => ?_) ?_ <;> [clear_value x; subst x]) | clear_value x)

theorem execRegisterWrite_keeps (h : Keeps s t) (a1) (a2) (a3) (a4) : OutKeeps s (execRegisterWrite a1 a2 a3 a4 t) := by
  unfold execRegisterWrite
  repeat'
    first
    | intro _
    | with_reducible (first | assumption | apply OutKeeps.next | apply wordWrite_keeps | apply ite_keeps)
    | split
    | (extract_lets +onlyGivenNames x; first | (refine (fun hx : Keeps s x => ?_) ?_ <;> [clear_value x; subst x]) | clear_value x)

theorem execFaultRead_keeps (h : Keeps s t) (a1) (a2) : OutKeeps s (execFaultRead a1 a2 t) := by
  unfold execFaultRead
  repeat'
    first
    | intro _
    | with_reducible (first | assumption | apply OutKeeps.next | apply startOp_keeps | apply writeAndSettle_keeps)
    | split
    | (extract_lets +onlyGivenNames x; first | (refine (fun hx : Keeps s x => ?_) ?_ <;> [clear_value x; subst x]) | clear_value x)

theorem failsTest_keeps (h : Keeps s t) (a1) (a2) : Keeps s (failsTest a1 a2 t) := by
  unfold failsTest
  repeat'
    first
    | intro _
    | with_reducible (first | assumption | apply retireLane_keeps | apply changeUnit_keeps | apply modLane_keeps | apply fault_keeps | apply outOfService_keeps | apply lfEvent_keeps | apply chainOut_keeps | apply uhfEvent_keeps | apply modUhfCh_keeps | apply nfcEvent_keeps | apply ite_keeps)
    | split
    | (extract_lets +onlyGivenNames x; first | (refine (fun hx : Keeps s x => ?_) ?_ <;> [clear_value x; subst x]) | clear_value x)

theorem noteTest_keeps (h : Keeps s t) (a1) (a2) (a3) : Keeps s (noteTest a1 a2 a3 t) := by
  unfold noteTest
  repeat'
    first
    | intro _
    | with_reducible (first | assumption | apply modFlt_keeps)

theorem execUnitTest_keeps (h : Keeps s t) (a1) (a2) : OutKeeps s (execUnitTest a1 a2 t) := by
  unfold execUnitTest
  repeat'
    first
    | intro _
    | with_reducible (first | assumption | apply OutKeeps.next | apply startOp_keeps | apply settle_keeps | apply modFlt_keeps | apply noteTest_keeps | apply failsTest_keeps | apply ite_keeps)
    | split
    | (extract_lets +onlyGivenNames x; first | (refine (fun hx : Keeps s x => ?_) ?_ <;> [clear_value x; subst x]) | clear_value x)

theorem bypassRecord_keeps (h : Keeps s t) (a1) (a2) : Keeps s (bypassRecord a1 a2 t) := by
  unfold bypassRecord
  repeat'
    first
    | intro _
    | with_reducible (first | assumption | apply changeUnit_keeps | apply drawn_keeps)

theorem leaveUnit_keeps (h : Keeps s t) (a1) (a2) : Keeps s (leaveUnit a1 a2 t) := by
  unfold leaveUnit
  repeat'
    first
    | intro _
    | with_reducible (first | assumption | apply modLane_keeps | apply rngEvent_keeps | apply judgeRng_keeps | apply modSource_keeps | apply gather_keeps | apply onlyIf_keeps | apply telegramLost_keeps | apply chainOut_keeps | apply uhfEvent_keeps | apply nfcEvent_keeps | apply readerLost_keeps | apply portDown_keeps | apply flagsCheck_keeps | apply ite_keeps)
    | split

theorem execBypass_keeps (h : Keeps s t) (a1) : OutKeeps s (execBypass a1 t) := by
  unfold execBypass
  repeat'
    first
    | intro _
    | with_reducible (first | assumption | apply OutKeeps.next | apply startOp_keeps | apply settle_keeps | apply leaveUnit_keeps | apply bypassRecord_keeps | apply ite_keeps)
    | split
    | (extract_lets +onlyGivenNames x; first | (refine (fun hx : Keeps s x => ?_) ?_ <;> [clear_value x; subst x]) | clear_value x)

theorem rejoin_keeps (h : Keeps s t) (a1) (a2) : Keeps s (rejoin a1 a2 t) := by
  unfold rejoin
  repeat'
    first
    | intro _
    | with_reducible (first | assumption | apply joinShadow_keeps | apply pairRecord_keeps | apply setPairOut_keeps | apply backInService_keeps | apply modLane_keeps | apply fault_keeps | apply modSource_keeps | apply modLfCh_keeps | apply modUhfCh_keeps | apply modReader_keeps | apply flagsCheck_keeps | apply ite_keeps)
    | split
    | (extract_lets +onlyGivenNames x; first | (refine (fun hx : Keeps s x => ?_) ?_ <;> [clear_value x; subst x]) | clear_value x)

theorem staysOut_keeps (h : Keeps s t) (a1) (a2) : Keeps s (staysOut a1 a2 t) := by
  unfold staysOut
  repeat'
    first
    | intro _
    | with_reducible (first | assumption | apply failsTest_keeps | apply writeFault_keeps | apply ite_keeps)
    | split
    | (extract_lets +onlyGivenNames x; first | (refine (fun hx : Keeps s x => ?_) ?_ <;> [clear_value x; subst x]) | clear_value x)

theorem execRestore_keeps (h : Keeps s t) (a1) (a2) : OutKeeps s (execRestore a1 a2 t) := by
  unfold execRestore
  repeat'
    first
    | intro _
    | with_reducible (first | assumption | apply OutKeeps.next | apply startOp_keeps | apply settle_keeps | apply noteTest_keeps | apply rejoin_keeps | apply staysOut_keeps | apply ite_keeps)
    | split
    | (extract_lets +onlyGivenNames x; first | (refine (fun hx : Keeps s x => ?_) ?_ <;> [clear_value x; subst x]) | clear_value x)

theorem mendGroup_keeps (h : Keeps s t) (a1) (a2) (a3) : Keeps s (mendGroup a1 a2 a3 t) := by
  unfold mendGroup
  repeat'
    first
    | (show (_ : Nat) = _; first | rfl | exact length_modAt _ _ _ | simp only [List.length_map, length_modAt, List.length_zipIdx])
    | intro _
    | with_reducible (first | assumption | apply each_keeps | apply onlyIf_keeps | apply emit_keeps | apply modCus_keeps | apply ite_keeps)
    | split

theorem countReadErrs_keeps (h : Keeps s t) (a1) (a2) : Keeps s (countReadErrs a1 a2 t) := by
  unfold countReadErrs
  repeat'
    first
    | (show (_ : Nat) = _; first | rfl | exact length_modAt _ _ _ | simp only [List.length_map, length_modAt, List.length_zipIdx])
    | intro _
    | with_reducible (first | assumption | apply modCus_keeps | apply driveWorn_keeps | apply ite_keeps)
    | split
    | (extract_lets +onlyGivenNames x; first | (refine (fun hx : Keeps s x => ?_) ?_ <;> [clear_value x; subst x]) | clear_value x)

theorem innerCharge_keeps (h : Keeps s t) (a1) (a2) : Keeps s (innerCharge a1 a2 t) := by
  unfold innerCharge
  repeat'
    first
    | (show (_ : Nat) = _; first | rfl | exact length_modAt _ _ _ | simp only [List.length_map, length_modAt, List.length_zipIdx])
    | (show FlightFn _; exact fun x => ⟨sameAcceptance_refl x, fun _ => rfl⟩)
    | intro _
    | with_reducible (first | assumption | apply modFlight_keeps | apply modCus_keeps)
    | split
    | (extract_lets +onlyGivenNames x; first | (refine (fun hx : Keeps s x => ?_) ?_ <;> [clear_value x; subst x]) | (refine (fun hx : Keeps s x.2 => ?_) ?_ <;> [clear_value x; subst x]) | (refine (fun hx : Keeps s x.1 => ?_) ?_ <;> [clear_value x; subst x]) | clear_value x)

theorem execScrub_keeps (h : Keeps s t) (a1) (a2) : OutKeeps s (execScrub a1 a2 t) := by
  unfold execScrub
  repeat'
    first
    | intro _
    | with_reducible (first | assumption | apply OutKeeps.next | apply startOp_keeps | apply settle_keeps | apply innerCharge_keeps | apply declareLost_keeps | apply noteTest_keeps | apply each_keeps | apply mendGroup_keeps | apply countReadErrs_keeps | apply ite_keeps)
    | split
    | (extract_lets +onlyGivenNames x; first | (refine (fun hx : Keeps s x => ?_) ?_ <;> [clear_value x; subst x]) | clear_value x)

theorem execDriveDrain_keeps (h : Keeps s t) (a1) : OutKeeps s (execDriveDrain a1 t) := by
  unfold execDriveDrain
  repeat'
    first
    | intro _
    | with_reducible (first | assumption | apply OutKeeps.next | apply startOp_keeps | apply settle_keeps | apply retireEmpty_keeps | apply modDrive_keeps | apply ite_keeps)
    | split
    | (extract_lets +onlyGivenNames x; first | (refine (fun hx : Keeps s x => ?_) ?_ <;> [clear_value x; subst x]) | clear_value x)

theorem execDriveAdmit_keeps (h : Keeps s t) (a1) : OutKeeps s (execDriveAdmit a1 t) := by
  unfold execDriveAdmit
  repeat'
    first
    | intro _
    | with_reducible (first | assumption | apply OutKeeps.next | apply startOp_keeps | apply settle_keeps | apply modDrive_keeps | apply driveRecord_keeps | apply onlyIf_keeps | apply writeLabel_keeps | apply emit_keeps | apply ite_keeps)
    | split
    | (extract_lets +onlyGivenNames x; first | (refine (fun hx : Keeps s x => ?_) ?_ <;> [clear_value x; subst x]) | clear_value x)

theorem execService_keeps (h : Keeps s t) (a1) : OutKeeps s (execService a1 t) := by
  unfold execService
  repeat'
    first
    | intro _
    | with_reducible (first | assumption | apply OutKeeps.next | apply startOp_keeps | apply settle_keeps | apply enterService_keeps | apply ite_keeps)
    | split
    | (extract_lets +onlyGivenNames x; first | (refine (fun hx : Keeps s x => ?_) ?_ <;> [clear_value x; subst x]) | clear_value x)

theorem noteTamper_keeps (h : Keeps s t) (a1) (a2) : Keeps s (noteTamper a1 a2 t) := by
  unfold noteTamper
  repeat'
    first
    | (show (_ : Nat) = _; first | rfl | exact length_modAt _ _ _ | simp only [List.length_map, length_modAt, List.length_zipIdx])
    | intro _
    | with_reducible (first | assumption | apply modFlt_keeps | apply modSec_keeps)
    | split
    | (extract_lets +onlyGivenNames x; first | (refine (fun hx : Keeps s x => ?_) ?_ <;> [clear_value x; subst x]) | clear_value x)

theorem reportTamper_keeps (h : Keeps s t) (a1) (a2) : Keeps s (reportTamper a1 a2 t) := by
  unfold reportTamper
  repeat'
    first
    | intro _
    | with_reducible (first | assumption | apply lockRequest_keeps | apply fault_keeps | apply ite_keeps)
    | split

theorem eraseWork_keeps (h : Keeps s t) : Keeps s (eraseWork t) := by
  unfold eraseWork
  repeat'
    first
    | intro _
    | with_reducible (first | assumption | apply each_keeps | apply settle_keeps | apply ite_keeps)
    | split

theorem deferPoll_keeps (h : Keeps s t) (a1) : Keeps s (deferPoll a1 t) := by
  unfold deferPoll
  repeat'
    first
    | intro _
    | with_reducible (first | assumption | apply restartPoll_keeps | apply coexDrop_keeps | apply beginTelegram_keeps | apply modRadio_keeps | apply ite_keeps)
    | split
    | (extract_lets +onlyGivenNames x; first | (refine (fun hx : Keeps s x => ?_) ?_ <;> [clear_value x; subst x]) | clear_value x)

theorem alarm_keeps (h : Keeps s t) : Keeps s (alarm t) := by
  unfold alarm
  repeat'
    first
    | (show (_ : Nat) = _; first | rfl | exact length_modAt _ _ _ | simp only [List.length_map, length_modAt, List.length_zipIdx])
    | intro _
    | with_reducible (first | assumption | apply deferPoll_keeps | apply eraseWork_keeps | apply keyEvent_keeps | apply modSec_keeps)
    | split
    | (extract_lets +onlyGivenNames x; first | (refine (fun hx : Keeps s x => ?_) ?_ <;> [clear_value x; subst x]) | clear_value x)

theorem execAlarmHoldEnd_keeps (h : Keeps s t) : OutKeeps s (execAlarmHoldEnd t) := by
  unfold execAlarmHoldEnd
  repeat'
    first
    | (show (_ : Nat) = _; first | rfl | exact length_modAt _ _ _ | simp only [List.length_map, length_modAt, List.length_zipIdx])
    | intro _
    | with_reducible (first | assumption | apply OutKeeps.next | apply modSec_keeps | apply elapseTo_keeps)
    | split

theorem loseVault_keeps (h : Keeps s t) (a1) : Keeps s (loseVault a1 t) := by
  unfold loseVault
  repeat'
    first
    | (show (_ : Nat) = _; first | rfl | exact length_modAt _ _ _ | simp only [List.length_map, length_modAt, List.length_zipIdx])
    | intro _
    | with_reducible (first | assumption | apply loseAon_keeps | apply modSec_keeps | apply modFlt_keeps)
    | split
    | (extract_lets +onlyGivenNames x; first | (refine (fun hx : Keeps s x => ?_) ?_ <;> [clear_value x; subst x]) | clear_value x)

theorem zeroise_keeps (h : Keeps s t) (a1) : Keeps s (zeroise a1 t) := by
  unfold zeroise
  repeat'
    first
    | (show (_ : Nat) = _; first | rfl | exact length_modAt _ _ _ | simp only [List.length_map, length_modAt, List.length_zipIdx])
    | intro _
    | with_reducible (first | assumption | apply loseVault_keeps | apply endKeyWork_keeps | apply onlyIf_keeps | apply modPwr_keeps | apply fullReset_keeps | apply drivePins_keeps | apply modFlt_keeps | apply ite_keeps)
    | split
    | (extract_lets +onlyGivenNames x; first | (refine (fun hx : Keeps s x => ?_) ?_ <;> [clear_value x; subst x]) | clear_value x)

theorem zeroiseEvent_keeps (h : Keeps s t) (a1) : Keeps s (zeroiseEvent a1 t) := by
  unfold zeroiseEvent
  repeat'
    first
    | intro _
    | with_reducible (first | assumption | apply wake_keeps | apply zeroise_keeps | apply reportTamper_keeps | apply noteTamper_keeps)

theorem alarmEvent_keeps (h : Keeps s t) (a1) : Keeps s (alarmEvent a1 t) := by
  unfold alarmEvent
  repeat'
    first
    | intro _
    | with_reducible (first | assumption | apply wake_keeps | apply onlyIf_keeps | apply alarm_keeps | apply reportTamper_keeps | apply noteTamper_keeps)

theorem countAlarm_keeps (h : Keeps s t) : Keeps s (countAlarm t).2 := by
  unfold countAlarm
  repeat'
    first
    | intro _
    | with_reducible (first | assumption | apply modFlt_keeps)
    | (extract_lets +onlyGivenNames x; first | (refine (fun hx : Keeps s x => ?_) ?_ <;> [clear_value x; subst x]) | clear_value x)
    | dsimp only

theorem glitch_keeps (h : Keeps s t) (a1) : Keeps s (glitch a1 t) := by
  unfold glitch
  repeat'
    first
    | intro _
    | with_reducible (first | assumption | apply countAlarm_keeps | apply zeroiseEvent_keeps | apply alarmEvent_keeps | apply ite_keeps)
    | split
    | (extract_lets +onlyGivenNames x; first | (refine (fun hx : Keeps s x => ?_) ?_ <;> [clear_value x; subst x]) | (refine (fun hx : Keeps s x.2 => ?_) ?_ <;> [clear_value x; subst x]) | (refine (fun hx : Keeps s x.1 => ?_) ?_ <;> [clear_value x; subst x]) | clear_value x)

theorem execTamperMesh_keeps (h : Keeps s t) (a1) : OutKeeps s (execTamperMesh a1 t) := by
  unfold execTamperMesh
  repeat'
    first
    | intro _
    | with_reducible (first | assumption | apply OutKeeps.next | apply zeroiseEvent_keeps | apply ite_keeps)
    | split

theorem execLight_keeps (h : Keeps s t) : OutKeeps s (execLight t) := by
  unfold execLight
  repeat'
    first
    | intro _
    | with_reducible (first | assumption | apply OutKeeps.next | apply zeroiseEvent_keeps)

theorem execVoltageGlitch_keeps (h : Keeps s t) : OutKeeps s (execVoltageGlitch t) := by
  unfold execVoltageGlitch
  repeat'
    first
    | intro _
    | with_reducible (first | assumption | apply OutKeeps.next | apply glitch_keeps)

theorem execClockGlitch_keeps (h : Keeps s t) : OutKeeps s (execClockGlitch t) := by
  unfold execClockGlitch
  repeat'
    first
    | intro _
    | with_reducible (first | assumption | apply OutKeeps.next | apply glitch_keeps)

theorem execTemperatureTamper_keeps (h : Keeps s t) : OutKeeps s (execTemperatureTamper t) := by
  unfold execTemperatureTamper
  repeat'
    first
    | intro _
    | with_reducible (first | assumption | apply OutKeeps.next | apply alarmEvent_keeps | apply countAlarm_keeps)

end Sys2Proof.Machine
end

