-- ==== Sys2Proof/Laws/State.lean ====
section
/-! SUPPORT. What each block update, the record of an emission and the drawing of free values leave in every field of the state. -/

namespace Sys2Proof.Machine

variable (s : State)

@[simp] theorem modPwr_pwr (f : Pwr → Pwr) : (modPwr f s).pwr = f s.pwr := rfl
@[simp] theorem modPwr_sys (f : Pwr → Pwr) : (modPwr f s).sys = s.sys := rfl
@[simp] theorem modPwr_fuse (f : Pwr → Pwr) : (modPwr f s).fuse = s.fuse := rfl
@[simp] theorem modPwr_host (f : Pwr → Pwr) : (modPwr f s).host = s.host := rfl
@[simp] theorem modPwr_slc (f : Pwr → Pwr) : (modPwr f s).slc = s.slc := rfl
@[simp] theorem modPwr_clk (f : Pwr → Pwr) : (modPwr f s).clk = s.clk := rfl
@[simp] theorem modPwr_led (f : Pwr → Pwr) : (modPwr f s).led = s.led := rfl
@[simp] theorem modPwr_cfg (f : Pwr → Pwr) : (modPwr f s).cfg = s.cfg := rfl
@[simp] theorem modPwr_flt (f : Pwr → Pwr) : (modPwr f s).flt = s.flt := rfl
@[simp] theorem modPwr_sec (f : Pwr → Pwr) : (modPwr f s).sec = s.sec := rfl
@[simp] theorem modPwr_slk (f : Pwr → Pwr) : (modPwr f s).slk = s.slk := rfl
@[simp] theorem modPwr_dir (f : Pwr → Pwr) : (modPwr f s).dir = s.dir := rfl
@[simp] theorem modPwr_radio (f : Pwr → Pwr) : (modPwr f s).radio = s.radio := rfl
@[simp] theorem modPwr_cap (f : Pwr → Pwr) : (modPwr f s).cap = s.cap := rfl
@[simp] theorem modPwr_ifl (f : Pwr → Pwr) : (modPwr f s).ifl = s.ifl := rfl
@[simp] theorem modPwr_nfc (f : Pwr → Pwr) : (modPwr f s).nfc = s.nfc := rfl
@[simp] theorem modPwr_cus (f : Pwr → Pwr) : (modPwr f s).cus = s.cus := rfl
@[simp] theorem modPwr_upd (f : Pwr → Pwr) : (modPwr f s).upd = s.upd := rfl
@[simp] theorem modPwr_outs (f : Pwr → Pwr) : (modPwr f s).outs = s.outs := rfl
@[simp] theorem modPwr_free (f : Pwr → Pwr) : (modPwr f s).free = s.free := rfl
@[simp] theorem modPwr_pending (f : Pwr → Pwr) : (modPwr f s).pending = s.pending := rfl

@[simp] theorem modSys_pwr (f : Sys → Sys) : (modSys f s).pwr = s.pwr := rfl
@[simp] theorem modSys_sys (f : Sys → Sys) : (modSys f s).sys = f s.sys := rfl
@[simp] theorem modSys_fuse (f : Sys → Sys) : (modSys f s).fuse = s.fuse := rfl
@[simp] theorem modSys_host (f : Sys → Sys) : (modSys f s).host = s.host := rfl
@[simp] theorem modSys_slc (f : Sys → Sys) : (modSys f s).slc = s.slc := rfl
@[simp] theorem modSys_clk (f : Sys → Sys) : (modSys f s).clk = s.clk := rfl
@[simp] theorem modSys_led (f : Sys → Sys) : (modSys f s).led = s.led := rfl
@[simp] theorem modSys_cfg (f : Sys → Sys) : (modSys f s).cfg = s.cfg := rfl
@[simp] theorem modSys_flt (f : Sys → Sys) : (modSys f s).flt = s.flt := rfl
@[simp] theorem modSys_sec (f : Sys → Sys) : (modSys f s).sec = s.sec := rfl
@[simp] theorem modSys_slk (f : Sys → Sys) : (modSys f s).slk = s.slk := rfl
@[simp] theorem modSys_dir (f : Sys → Sys) : (modSys f s).dir = s.dir := rfl
@[simp] theorem modSys_radio (f : Sys → Sys) : (modSys f s).radio = s.radio := rfl
@[simp] theorem modSys_cap (f : Sys → Sys) : (modSys f s).cap = s.cap := rfl
@[simp] theorem modSys_ifl (f : Sys → Sys) : (modSys f s).ifl = s.ifl := rfl
@[simp] theorem modSys_nfc (f : Sys → Sys) : (modSys f s).nfc = s.nfc := rfl
@[simp] theorem modSys_cus (f : Sys → Sys) : (modSys f s).cus = s.cus := rfl
@[simp] theorem modSys_upd (f : Sys → Sys) : (modSys f s).upd = s.upd := rfl
@[simp] theorem modSys_outs (f : Sys → Sys) : (modSys f s).outs = s.outs := rfl
@[simp] theorem modSys_free (f : Sys → Sys) : (modSys f s).free = s.free := rfl
@[simp] theorem modSys_pending (f : Sys → Sys) : (modSys f s).pending = s.pending := rfl

@[simp] theorem modHost_pwr (f : HostBlk → HostBlk) : (modHost f s).pwr = s.pwr := rfl
@[simp] theorem modHost_sys (f : HostBlk → HostBlk) : (modHost f s).sys = s.sys := rfl
@[simp] theorem modHost_fuse (f : HostBlk → HostBlk) : (modHost f s).fuse = s.fuse := rfl
@[simp] theorem modHost_host (f : HostBlk → HostBlk) : (modHost f s).host = f s.host := rfl
@[simp] theorem modHost_slc (f : HostBlk → HostBlk) : (modHost f s).slc = s.slc := rfl
@[simp] theorem modHost_clk (f : HostBlk → HostBlk) : (modHost f s).clk = s.clk := rfl
@[simp] theorem modHost_led (f : HostBlk → HostBlk) : (modHost f s).led = s.led := rfl
@[simp] theorem modHost_cfg (f : HostBlk → HostBlk) : (modHost f s).cfg = s.cfg := rfl
@[simp] theorem modHost_flt (f : HostBlk → HostBlk) : (modHost f s).flt = s.flt := rfl
@[simp] theorem modHost_sec (f : HostBlk → HostBlk) : (modHost f s).sec = s.sec := rfl
@[simp] theorem modHost_slk (f : HostBlk → HostBlk) : (modHost f s).slk = s.slk := rfl
@[simp] theorem modHost_dir (f : HostBlk → HostBlk) : (modHost f s).dir = s.dir := rfl
@[simp] theorem modHost_radio (f : HostBlk → HostBlk) : (modHost f s).radio = s.radio := rfl
@[simp] theorem modHost_cap (f : HostBlk → HostBlk) : (modHost f s).cap = s.cap := rfl
@[simp] theorem modHost_ifl (f : HostBlk → HostBlk) : (modHost f s).ifl = s.ifl := rfl
@[simp] theorem modHost_nfc (f : HostBlk → HostBlk) : (modHost f s).nfc = s.nfc := rfl
@[simp] theorem modHost_cus (f : HostBlk → HostBlk) : (modHost f s).cus = s.cus := rfl
@[simp] theorem modHost_upd (f : HostBlk → HostBlk) : (modHost f s).upd = s.upd := rfl
@[simp] theorem modHost_outs (f : HostBlk → HostBlk) : (modHost f s).outs = s.outs := rfl
@[simp] theorem modHost_free (f : HostBlk → HostBlk) : (modHost f s).free = s.free := rfl
@[simp] theorem modHost_pending (f : HostBlk → HostBlk) : (modHost f s).pending = s.pending := rfl

@[simp] theorem modSlc_pwr (f : Slc → Slc) : (modSlc f s).pwr = s.pwr := rfl
@[simp] theorem modSlc_sys (f : Slc → Slc) : (modSlc f s).sys = s.sys := rfl
@[simp] theorem modSlc_fuse (f : Slc → Slc) : (modSlc f s).fuse = s.fuse := rfl
@[simp] theorem modSlc_host (f : Slc → Slc) : (modSlc f s).host = s.host := rfl
@[simp] theorem modSlc_slc (f : Slc → Slc) : (modSlc f s).slc = f s.slc := rfl
@[simp] theorem modSlc_clk (f : Slc → Slc) : (modSlc f s).clk = s.clk := rfl
@[simp] theorem modSlc_led (f : Slc → Slc) : (modSlc f s).led = s.led := rfl
@[simp] theorem modSlc_cfg (f : Slc → Slc) : (modSlc f s).cfg = s.cfg := rfl
@[simp] theorem modSlc_flt (f : Slc → Slc) : (modSlc f s).flt = s.flt := rfl
@[simp] theorem modSlc_sec (f : Slc → Slc) : (modSlc f s).sec = s.sec := rfl
@[simp] theorem modSlc_slk (f : Slc → Slc) : (modSlc f s).slk = s.slk := rfl
@[simp] theorem modSlc_dir (f : Slc → Slc) : (modSlc f s).dir = s.dir := rfl
@[simp] theorem modSlc_radio (f : Slc → Slc) : (modSlc f s).radio = s.radio := rfl
@[simp] theorem modSlc_cap (f : Slc → Slc) : (modSlc f s).cap = s.cap := rfl
@[simp] theorem modSlc_ifl (f : Slc → Slc) : (modSlc f s).ifl = s.ifl := rfl
@[simp] theorem modSlc_nfc (f : Slc → Slc) : (modSlc f s).nfc = s.nfc := rfl
@[simp] theorem modSlc_cus (f : Slc → Slc) : (modSlc f s).cus = s.cus := rfl
@[simp] theorem modSlc_upd (f : Slc → Slc) : (modSlc f s).upd = s.upd := rfl
@[simp] theorem modSlc_outs (f : Slc → Slc) : (modSlc f s).outs = s.outs := rfl
@[simp] theorem modSlc_free (f : Slc → Slc) : (modSlc f s).free = s.free := rfl
@[simp] theorem modSlc_pending (f : Slc → Slc) : (modSlc f s).pending = s.pending := rfl

@[simp] theorem modClk_pwr (f : Clk → Clk) : (modClk f s).pwr = s.pwr := rfl
@[simp] theorem modClk_sys (f : Clk → Clk) : (modClk f s).sys = s.sys := rfl
@[simp] theorem modClk_fuse (f : Clk → Clk) : (modClk f s).fuse = s.fuse := rfl
@[simp] theorem modClk_host (f : Clk → Clk) : (modClk f s).host = s.host := rfl
@[simp] theorem modClk_slc (f : Clk → Clk) : (modClk f s).slc = s.slc := rfl
@[simp] theorem modClk_clk (f : Clk → Clk) : (modClk f s).clk = f s.clk := rfl
@[simp] theorem modClk_led (f : Clk → Clk) : (modClk f s).led = s.led := rfl
@[simp] theorem modClk_cfg (f : Clk → Clk) : (modClk f s).cfg = s.cfg := rfl
@[simp] theorem modClk_flt (f : Clk → Clk) : (modClk f s).flt = s.flt := rfl
@[simp] theorem modClk_sec (f : Clk → Clk) : (modClk f s).sec = s.sec := rfl
@[simp] theorem modClk_slk (f : Clk → Clk) : (modClk f s).slk = s.slk := rfl
@[simp] theorem modClk_dir (f : Clk → Clk) : (modClk f s).dir = s.dir := rfl
@[simp] theorem modClk_radio (f : Clk → Clk) : (modClk f s).radio = s.radio := rfl
@[simp] theorem modClk_cap (f : Clk → Clk) : (modClk f s).cap = s.cap := rfl
@[simp] theorem modClk_ifl (f : Clk → Clk) : (modClk f s).ifl = s.ifl := rfl
@[simp] theorem modClk_nfc (f : Clk → Clk) : (modClk f s).nfc = s.nfc := rfl
@[simp] theorem modClk_cus (f : Clk → Clk) : (modClk f s).cus = s.cus := rfl
@[simp] theorem modClk_upd (f : Clk → Clk) : (modClk f s).upd = s.upd := rfl
@[simp] theorem modClk_outs (f : Clk → Clk) : (modClk f s).outs = s.outs := rfl
@[simp] theorem modClk_free (f : Clk → Clk) : (modClk f s).free = s.free := rfl
@[simp] theorem modClk_pending (f : Clk → Clk) : (modClk f s).pending = s.pending := rfl

@[simp] theorem modCfg_pwr (f : CfgSet → CfgSet) : (modCfg f s).pwr = s.pwr := rfl
@[simp] theorem modCfg_sys (f : CfgSet → CfgSet) : (modCfg f s).sys = s.sys := rfl
@[simp] theorem modCfg_fuse (f : CfgSet → CfgSet) : (modCfg f s).fuse = s.fuse := rfl
@[simp] theorem modCfg_host (f : CfgSet → CfgSet) : (modCfg f s).host = s.host := rfl
@[simp] theorem modCfg_slc (f : CfgSet → CfgSet) : (modCfg f s).slc = s.slc := rfl
@[simp] theorem modCfg_clk (f : CfgSet → CfgSet) : (modCfg f s).clk = s.clk := rfl
@[simp] theorem modCfg_led (f : CfgSet → CfgSet) : (modCfg f s).led = s.led := rfl
@[simp] theorem modCfg_cfg (f : CfgSet → CfgSet) : (modCfg f s).cfg = f s.cfg := rfl
@[simp] theorem modCfg_flt (f : CfgSet → CfgSet) : (modCfg f s).flt = s.flt := rfl
@[simp] theorem modCfg_sec (f : CfgSet → CfgSet) : (modCfg f s).sec = s.sec := rfl
@[simp] theorem modCfg_slk (f : CfgSet → CfgSet) : (modCfg f s).slk = s.slk := rfl
@[simp] theorem modCfg_dir (f : CfgSet → CfgSet) : (modCfg f s).dir = s.dir := rfl
@[simp] theorem modCfg_radio (f : CfgSet → CfgSet) : (modCfg f s).radio = s.radio := rfl
@[simp] theorem modCfg_cap (f : CfgSet → CfgSet) : (modCfg f s).cap = s.cap := rfl
@[simp] theorem modCfg_ifl (f : CfgSet → CfgSet) : (modCfg f s).ifl = s.ifl := rfl
@[simp] theorem modCfg_nfc (f : CfgSet → CfgSet) : (modCfg f s).nfc = s.nfc := rfl
@[simp] theorem modCfg_cus (f : CfgSet → CfgSet) : (modCfg f s).cus = s.cus := rfl
@[simp] theorem modCfg_upd (f : CfgSet → CfgSet) : (modCfg f s).upd = s.upd := rfl
@[simp] theorem modCfg_outs (f : CfgSet → CfgSet) : (modCfg f s).outs = s.outs := rfl
@[simp] theorem modCfg_free (f : CfgSet → CfgSet) : (modCfg f s).free = s.free := rfl
@[simp] theorem modCfg_pending (f : CfgSet → CfgSet) : (modCfg f s).pending = s.pending := rfl

@[simp] theorem modFlt_pwr (f : Flt → Flt) : (modFlt f s).pwr = s.pwr := rfl
@[simp] theorem modFlt_sys (f : Flt → Flt) : (modFlt f s).sys = s.sys := rfl
@[simp] theorem modFlt_fuse (f : Flt → Flt) : (modFlt f s).fuse = s.fuse := rfl
@[simp] theorem modFlt_host (f : Flt → Flt) : (modFlt f s).host = s.host := rfl
@[simp] theorem modFlt_slc (f : Flt → Flt) : (modFlt f s).slc = s.slc := rfl
@[simp] theorem modFlt_clk (f : Flt → Flt) : (modFlt f s).clk = s.clk := rfl
@[simp] theorem modFlt_led (f : Flt → Flt) : (modFlt f s).led = s.led := rfl
@[simp] theorem modFlt_cfg (f : Flt → Flt) : (modFlt f s).cfg = s.cfg := rfl
@[simp] theorem modFlt_flt (f : Flt → Flt) : (modFlt f s).flt = f s.flt := rfl
@[simp] theorem modFlt_sec (f : Flt → Flt) : (modFlt f s).sec = s.sec := rfl
@[simp] theorem modFlt_slk (f : Flt → Flt) : (modFlt f s).slk = s.slk := rfl
@[simp] theorem modFlt_dir (f : Flt → Flt) : (modFlt f s).dir = s.dir := rfl
@[simp] theorem modFlt_radio (f : Flt → Flt) : (modFlt f s).radio = s.radio := rfl
@[simp] theorem modFlt_cap (f : Flt → Flt) : (modFlt f s).cap = s.cap := rfl
@[simp] theorem modFlt_ifl (f : Flt → Flt) : (modFlt f s).ifl = s.ifl := rfl
@[simp] theorem modFlt_nfc (f : Flt → Flt) : (modFlt f s).nfc = s.nfc := rfl
@[simp] theorem modFlt_cus (f : Flt → Flt) : (modFlt f s).cus = s.cus := rfl
@[simp] theorem modFlt_upd (f : Flt → Flt) : (modFlt f s).upd = s.upd := rfl
@[simp] theorem modFlt_outs (f : Flt → Flt) : (modFlt f s).outs = s.outs := rfl
@[simp] theorem modFlt_free (f : Flt → Flt) : (modFlt f s).free = s.free := rfl
@[simp] theorem modFlt_pending (f : Flt → Flt) : (modFlt f s).pending = s.pending := rfl

@[simp] theorem modSec_pwr (f : Sec → Sec) : (modSec f s).pwr = s.pwr := rfl
@[simp] theorem modSec_sys (f : Sec → Sec) : (modSec f s).sys = s.sys := rfl
@[simp] theorem modSec_fuse (f : Sec → Sec) : (modSec f s).fuse = s.fuse := rfl
@[simp] theorem modSec_host (f : Sec → Sec) : (modSec f s).host = s.host := rfl
@[simp] theorem modSec_slc (f : Sec → Sec) : (modSec f s).slc = s.slc := rfl
@[simp] theorem modSec_clk (f : Sec → Sec) : (modSec f s).clk = s.clk := rfl
@[simp] theorem modSec_led (f : Sec → Sec) : (modSec f s).led = s.led := rfl
@[simp] theorem modSec_cfg (f : Sec → Sec) : (modSec f s).cfg = s.cfg := rfl
@[simp] theorem modSec_flt (f : Sec → Sec) : (modSec f s).flt = s.flt := rfl
@[simp] theorem modSec_sec (f : Sec → Sec) : (modSec f s).sec = f s.sec := rfl
@[simp] theorem modSec_slk (f : Sec → Sec) : (modSec f s).slk = s.slk := rfl
@[simp] theorem modSec_dir (f : Sec → Sec) : (modSec f s).dir = s.dir := rfl
@[simp] theorem modSec_radio (f : Sec → Sec) : (modSec f s).radio = s.radio := rfl
@[simp] theorem modSec_cap (f : Sec → Sec) : (modSec f s).cap = s.cap := rfl
@[simp] theorem modSec_ifl (f : Sec → Sec) : (modSec f s).ifl = s.ifl := rfl
@[simp] theorem modSec_nfc (f : Sec → Sec) : (modSec f s).nfc = s.nfc := rfl
@[simp] theorem modSec_cus (f : Sec → Sec) : (modSec f s).cus = s.cus := rfl
@[simp] theorem modSec_upd (f : Sec → Sec) : (modSec f s).upd = s.upd := rfl
@[simp] theorem modSec_outs (f : Sec → Sec) : (modSec f s).outs = s.outs := rfl
@[simp] theorem modSec_free (f : Sec → Sec) : (modSec f s).free = s.free := rfl
@[simp] theorem modSec_pending (f : Sec → Sec) : (modSec f s).pending = s.pending := rfl

@[simp] theorem modSlk_pwr (f : Slk → Slk) : (modSlk f s).pwr = s.pwr := rfl
@[simp] theorem modSlk_sys (f : Slk → Slk) : (modSlk f s).sys = s.sys := rfl
@[simp] theorem modSlk_fuse (f : Slk → Slk) : (modSlk f s).fuse = s.fuse := rfl
@[simp] theorem modSlk_host (f : Slk → Slk) : (modSlk f s).host = s.host := rfl
@[simp] theorem modSlk_slc (f : Slk → Slk) : (modSlk f s).slc = s.slc := rfl
@[simp] theorem modSlk_clk (f : Slk → Slk) : (modSlk f s).clk = s.clk := rfl
@[simp] theorem modSlk_led (f : Slk → Slk) : (modSlk f s).led = s.led := rfl
@[simp] theorem modSlk_cfg (f : Slk → Slk) : (modSlk f s).cfg = s.cfg := rfl
@[simp] theorem modSlk_flt (f : Slk → Slk) : (modSlk f s).flt = s.flt := rfl
@[simp] theorem modSlk_sec (f : Slk → Slk) : (modSlk f s).sec = s.sec := rfl
@[simp] theorem modSlk_slk (f : Slk → Slk) : (modSlk f s).slk = f s.slk := rfl
@[simp] theorem modSlk_dir (f : Slk → Slk) : (modSlk f s).dir = s.dir := rfl
@[simp] theorem modSlk_radio (f : Slk → Slk) : (modSlk f s).radio = s.radio := rfl
@[simp] theorem modSlk_cap (f : Slk → Slk) : (modSlk f s).cap = s.cap := rfl
@[simp] theorem modSlk_ifl (f : Slk → Slk) : (modSlk f s).ifl = s.ifl := rfl
@[simp] theorem modSlk_nfc (f : Slk → Slk) : (modSlk f s).nfc = s.nfc := rfl
@[simp] theorem modSlk_cus (f : Slk → Slk) : (modSlk f s).cus = s.cus := rfl
@[simp] theorem modSlk_upd (f : Slk → Slk) : (modSlk f s).upd = s.upd := rfl
@[simp] theorem modSlk_outs (f : Slk → Slk) : (modSlk f s).outs = s.outs := rfl
@[simp] theorem modSlk_free (f : Slk → Slk) : (modSlk f s).free = s.free := rfl
@[simp] theorem modSlk_pending (f : Slk → Slk) : (modSlk f s).pending = s.pending := rfl

@[simp] theorem modDir_pwr (f : Dir → Dir) : (modDir f s).pwr = s.pwr := rfl
@[simp] theorem modDir_sys (f : Dir → Dir) : (modDir f s).sys = s.sys := rfl
@[simp] theorem modDir_fuse (f : Dir → Dir) : (modDir f s).fuse = s.fuse := rfl
@[simp] theorem modDir_host (f : Dir → Dir) : (modDir f s).host = s.host := rfl
@[simp] theorem modDir_slc (f : Dir → Dir) : (modDir f s).slc = s.slc := rfl
@[simp] theorem modDir_clk (f : Dir → Dir) : (modDir f s).clk = s.clk := rfl
@[simp] theorem modDir_led (f : Dir → Dir) : (modDir f s).led = s.led := rfl
@[simp] theorem modDir_cfg (f : Dir → Dir) : (modDir f s).cfg = s.cfg := rfl
@[simp] theorem modDir_flt (f : Dir → Dir) : (modDir f s).flt = s.flt := rfl
@[simp] theorem modDir_sec (f : Dir → Dir) : (modDir f s).sec = s.sec := rfl
@[simp] theorem modDir_slk (f : Dir → Dir) : (modDir f s).slk = s.slk := rfl
@[simp] theorem modDir_dir (f : Dir → Dir) : (modDir f s).dir = f s.dir := rfl
@[simp] theorem modDir_radio (f : Dir → Dir) : (modDir f s).radio = s.radio := rfl
@[simp] theorem modDir_cap (f : Dir → Dir) : (modDir f s).cap = s.cap := rfl
@[simp] theorem modDir_ifl (f : Dir → Dir) : (modDir f s).ifl = s.ifl := rfl
@[simp] theorem modDir_nfc (f : Dir → Dir) : (modDir f s).nfc = s.nfc := rfl
@[simp] theorem modDir_cus (f : Dir → Dir) : (modDir f s).cus = s.cus := rfl
@[simp] theorem modDir_upd (f : Dir → Dir) : (modDir f s).upd = s.upd := rfl
@[simp] theorem modDir_outs (f : Dir → Dir) : (modDir f s).outs = s.outs := rfl
@[simp] theorem modDir_free (f : Dir → Dir) : (modDir f s).free = s.free := rfl
@[simp] theorem modDir_pending (f : Dir → Dir) : (modDir f s).pending = s.pending := rfl

@[simp] theorem modRadio_pwr (f : Radio → Radio) : (modRadio f s).pwr = s.pwr := rfl
@[simp] theorem modRadio_sys (f : Radio → Radio) : (modRadio f s).sys = s.sys := rfl
@[simp] theorem modRadio_fuse (f : Radio → Radio) : (modRadio f s).fuse = s.fuse := rfl
@[simp] theorem modRadio_host (f : Radio → Radio) : (modRadio f s).host = s.host := rfl
@[simp] theorem modRadio_slc (f : Radio → Radio) : (modRadio f s).slc = s.slc := rfl
@[simp] theorem modRadio_clk (f : Radio → Radio) : (modRadio f s).clk = s.clk := rfl
@[simp] theorem modRadio_led (f : Radio → Radio) : (modRadio f s).led = s.led := rfl
@[simp] theorem modRadio_cfg (f : Radio → Radio) : (modRadio f s).cfg = s.cfg := rfl
@[simp] theorem modRadio_flt (f : Radio → Radio) : (modRadio f s).flt = s.flt := rfl
@[simp] theorem modRadio_sec (f : Radio → Radio) : (modRadio f s).sec = s.sec := rfl
@[simp] theorem modRadio_slk (f : Radio → Radio) : (modRadio f s).slk = s.slk := rfl
@[simp] theorem modRadio_dir (f : Radio → Radio) : (modRadio f s).dir = s.dir := rfl
@[simp] theorem modRadio_radio (f : Radio → Radio) : (modRadio f s).radio = f s.radio := rfl
@[simp] theorem modRadio_cap (f : Radio → Radio) : (modRadio f s).cap = s.cap := rfl
@[simp] theorem modRadio_ifl (f : Radio → Radio) : (modRadio f s).ifl = s.ifl := rfl
@[simp] theorem modRadio_nfc (f : Radio → Radio) : (modRadio f s).nfc = s.nfc := rfl
@[simp] theorem modRadio_cus (f : Radio → Radio) : (modRadio f s).cus = s.cus := rfl
@[simp] theorem modRadio_upd (f : Radio → Radio) : (modRadio f s).upd = s.upd := rfl
@[simp] theorem modRadio_outs (f : Radio → Radio) : (modRadio f s).outs = s.outs := rfl
@[simp] theorem modRadio_free (f : Radio → Radio) : (modRadio f s).free = s.free := rfl
@[simp] theorem modRadio_pending (f : Radio → Radio) : (modRadio f s).pending = s.pending := rfl

@[simp] theorem modCap_pwr (f : Cap → Cap) : (modCap f s).pwr = s.pwr := rfl
@[simp] theorem modCap_sys (f : Cap → Cap) : (modCap f s).sys = s.sys := rfl
@[simp] theorem modCap_fuse (f : Cap → Cap) : (modCap f s).fuse = s.fuse := rfl
@[simp] theorem modCap_host (f : Cap → Cap) : (modCap f s).host = s.host := rfl
@[simp] theorem modCap_slc (f : Cap → Cap) : (modCap f s).slc = s.slc := rfl
@[simp] theorem modCap_clk (f : Cap → Cap) : (modCap f s).clk = s.clk := rfl
@[simp] theorem modCap_led (f : Cap → Cap) : (modCap f s).led = s.led := rfl
@[simp] theorem modCap_cfg (f : Cap → Cap) : (modCap f s).cfg = s.cfg := rfl
@[simp] theorem modCap_flt (f : Cap → Cap) : (modCap f s).flt = s.flt := rfl
@[simp] theorem modCap_sec (f : Cap → Cap) : (modCap f s).sec = s.sec := rfl
@[simp] theorem modCap_slk (f : Cap → Cap) : (modCap f s).slk = s.slk := rfl
@[simp] theorem modCap_dir (f : Cap → Cap) : (modCap f s).dir = s.dir := rfl
@[simp] theorem modCap_radio (f : Cap → Cap) : (modCap f s).radio = s.radio := rfl
@[simp] theorem modCap_cap (f : Cap → Cap) : (modCap f s).cap = f s.cap := rfl
@[simp] theorem modCap_ifl (f : Cap → Cap) : (modCap f s).ifl = s.ifl := rfl
@[simp] theorem modCap_nfc (f : Cap → Cap) : (modCap f s).nfc = s.nfc := rfl
@[simp] theorem modCap_cus (f : Cap → Cap) : (modCap f s).cus = s.cus := rfl
@[simp] theorem modCap_upd (f : Cap → Cap) : (modCap f s).upd = s.upd := rfl
@[simp] theorem modCap_outs (f : Cap → Cap) : (modCap f s).outs = s.outs := rfl
@[simp] theorem modCap_free (f : Cap → Cap) : (modCap f s).free = s.free := rfl
@[simp] theorem modCap_pending (f : Cap → Cap) : (modCap f s).pending = s.pending := rfl

@[simp] theorem modIfl_pwr (f : Ifl → Ifl) : (modIfl f s).pwr = s.pwr := rfl
@[simp] theorem modIfl_sys (f : Ifl → Ifl) : (modIfl f s).sys = s.sys := rfl
@[simp] theorem modIfl_fuse (f : Ifl → Ifl) : (modIfl f s).fuse = s.fuse := rfl
@[simp] theorem modIfl_host (f : Ifl → Ifl) : (modIfl f s).host = s.host := rfl
@[simp] theorem modIfl_slc (f : Ifl → Ifl) : (modIfl f s).slc = s.slc := rfl
@[simp] theorem modIfl_clk (f : Ifl → Ifl) : (modIfl f s).clk = s.clk := rfl
@[simp] theorem modIfl_led (f : Ifl → Ifl) : (modIfl f s).led = s.led := rfl
@[simp] theorem modIfl_cfg (f : Ifl → Ifl) : (modIfl f s).cfg = s.cfg := rfl
@[simp] theorem modIfl_flt (f : Ifl → Ifl) : (modIfl f s).flt = s.flt := rfl
@[simp] theorem modIfl_sec (f : Ifl → Ifl) : (modIfl f s).sec = s.sec := rfl
@[simp] theorem modIfl_slk (f : Ifl → Ifl) : (modIfl f s).slk = s.slk := rfl
@[simp] theorem modIfl_dir (f : Ifl → Ifl) : (modIfl f s).dir = s.dir := rfl
@[simp] theorem modIfl_radio (f : Ifl → Ifl) : (modIfl f s).radio = s.radio := rfl
@[simp] theorem modIfl_cap (f : Ifl → Ifl) : (modIfl f s).cap = s.cap := rfl
@[simp] theorem modIfl_ifl (f : Ifl → Ifl) : (modIfl f s).ifl = f s.ifl := rfl
@[simp] theorem modIfl_nfc (f : Ifl → Ifl) : (modIfl f s).nfc = s.nfc := rfl
@[simp] theorem modIfl_cus (f : Ifl → Ifl) : (modIfl f s).cus = s.cus := rfl
@[simp] theorem modIfl_upd (f : Ifl → Ifl) : (modIfl f s).upd = s.upd := rfl
@[simp] theorem modIfl_outs (f : Ifl → Ifl) : (modIfl f s).outs = s.outs := rfl
@[simp] theorem modIfl_free (f : Ifl → Ifl) : (modIfl f s).free = s.free := rfl
@[simp] theorem modIfl_pending (f : Ifl → Ifl) : (modIfl f s).pending = s.pending := rfl

@[simp] theorem modNfc_pwr (f : Nfc → Nfc) : (modNfc f s).pwr = s.pwr := rfl
@[simp] theorem modNfc_sys (f : Nfc → Nfc) : (modNfc f s).sys = s.sys := rfl
@[simp] theorem modNfc_fuse (f : Nfc → Nfc) : (modNfc f s).fuse = s.fuse := rfl
@[simp] theorem modNfc_host (f : Nfc → Nfc) : (modNfc f s).host = s.host := rfl
@[simp] theorem modNfc_slc (f : Nfc → Nfc) : (modNfc f s).slc = s.slc := rfl
@[simp] theorem modNfc_clk (f : Nfc → Nfc) : (modNfc f s).clk = s.clk := rfl
@[simp] theorem modNfc_led (f : Nfc → Nfc) : (modNfc f s).led = s.led := rfl
@[simp] theorem modNfc_cfg (f : Nfc → Nfc) : (modNfc f s).cfg = s.cfg := rfl
@[simp] theorem modNfc_flt (f : Nfc → Nfc) : (modNfc f s).flt = s.flt := rfl
@[simp] theorem modNfc_sec (f : Nfc → Nfc) : (modNfc f s).sec = s.sec := rfl
@[simp] theorem modNfc_slk (f : Nfc → Nfc) : (modNfc f s).slk = s.slk := rfl
@[simp] theorem modNfc_dir (f : Nfc → Nfc) : (modNfc f s).dir = s.dir := rfl
@[simp] theorem modNfc_radio (f : Nfc → Nfc) : (modNfc f s).radio = s.radio := rfl
@[simp] theorem modNfc_cap (f : Nfc → Nfc) : (modNfc f s).cap = s.cap := rfl
@[simp] theorem modNfc_ifl (f : Nfc → Nfc) : (modNfc f s).ifl = s.ifl := rfl
@[simp] theorem modNfc_nfc (f : Nfc → Nfc) : (modNfc f s).nfc = f s.nfc := rfl
@[simp] theorem modNfc_cus (f : Nfc → Nfc) : (modNfc f s).cus = s.cus := rfl
@[simp] theorem modNfc_upd (f : Nfc → Nfc) : (modNfc f s).upd = s.upd := rfl
@[simp] theorem modNfc_outs (f : Nfc → Nfc) : (modNfc f s).outs = s.outs := rfl
@[simp] theorem modNfc_free (f : Nfc → Nfc) : (modNfc f s).free = s.free := rfl
@[simp] theorem modNfc_pending (f : Nfc → Nfc) : (modNfc f s).pending = s.pending := rfl

@[simp] theorem modCus_pwr (f : Cus → Cus) : (modCus f s).pwr = s.pwr := rfl
@[simp] theorem modCus_sys (f : Cus → Cus) : (modCus f s).sys = s.sys := rfl
@[simp] theorem modCus_fuse (f : Cus → Cus) : (modCus f s).fuse = s.fuse := rfl
@[simp] theorem modCus_host (f : Cus → Cus) : (modCus f s).host = s.host := rfl
@[simp] theorem modCus_slc (f : Cus → Cus) : (modCus f s).slc = s.slc := rfl
@[simp] theorem modCus_clk (f : Cus → Cus) : (modCus f s).clk = s.clk := rfl
@[simp] theorem modCus_led (f : Cus → Cus) : (modCus f s).led = s.led := rfl
@[simp] theorem modCus_cfg (f : Cus → Cus) : (modCus f s).cfg = s.cfg := rfl
@[simp] theorem modCus_flt (f : Cus → Cus) : (modCus f s).flt = s.flt := rfl
@[simp] theorem modCus_sec (f : Cus → Cus) : (modCus f s).sec = s.sec := rfl
@[simp] theorem modCus_slk (f : Cus → Cus) : (modCus f s).slk = s.slk := rfl
@[simp] theorem modCus_dir (f : Cus → Cus) : (modCus f s).dir = s.dir := rfl
@[simp] theorem modCus_radio (f : Cus → Cus) : (modCus f s).radio = s.radio := rfl
@[simp] theorem modCus_cap (f : Cus → Cus) : (modCus f s).cap = s.cap := rfl
@[simp] theorem modCus_ifl (f : Cus → Cus) : (modCus f s).ifl = s.ifl := rfl
@[simp] theorem modCus_nfc (f : Cus → Cus) : (modCus f s).nfc = s.nfc := rfl
@[simp] theorem modCus_cus (f : Cus → Cus) : (modCus f s).cus = f s.cus := rfl
@[simp] theorem modCus_upd (f : Cus → Cus) : (modCus f s).upd = s.upd := rfl
@[simp] theorem modCus_outs (f : Cus → Cus) : (modCus f s).outs = s.outs := rfl
@[simp] theorem modCus_free (f : Cus → Cus) : (modCus f s).free = s.free := rfl
@[simp] theorem modCus_pending (f : Cus → Cus) : (modCus f s).pending = s.pending := rfl

@[simp] theorem modUpd_pwr (f : Upd → Upd) : (modUpd f s).pwr = s.pwr := rfl
@[simp] theorem modUpd_sys (f : Upd → Upd) : (modUpd f s).sys = s.sys := rfl
@[simp] theorem modUpd_fuse (f : Upd → Upd) : (modUpd f s).fuse = s.fuse := rfl
@[simp] theorem modUpd_host (f : Upd → Upd) : (modUpd f s).host = s.host := rfl
@[simp] theorem modUpd_slc (f : Upd → Upd) : (modUpd f s).slc = s.slc := rfl
@[simp] theorem modUpd_clk (f : Upd → Upd) : (modUpd f s).clk = s.clk := rfl
@[simp] theorem modUpd_led (f : Upd → Upd) : (modUpd f s).led = s.led := rfl
@[simp] theorem modUpd_cfg (f : Upd → Upd) : (modUpd f s).cfg = s.cfg := rfl
@[simp] theorem modUpd_flt (f : Upd → Upd) : (modUpd f s).flt = s.flt := rfl
@[simp] theorem modUpd_sec (f : Upd → Upd) : (modUpd f s).sec = s.sec := rfl
@[simp] theorem modUpd_slk (f : Upd → Upd) : (modUpd f s).slk = s.slk := rfl
@[simp] theorem modUpd_dir (f : Upd → Upd) : (modUpd f s).dir = s.dir := rfl
@[simp] theorem modUpd_radio (f : Upd → Upd) : (modUpd f s).radio = s.radio := rfl
@[simp] theorem modUpd_cap (f : Upd → Upd) : (modUpd f s).cap = s.cap := rfl
@[simp] theorem modUpd_ifl (f : Upd → Upd) : (modUpd f s).ifl = s.ifl := rfl
@[simp] theorem modUpd_nfc (f : Upd → Upd) : (modUpd f s).nfc = s.nfc := rfl
@[simp] theorem modUpd_cus (f : Upd → Upd) : (modUpd f s).cus = s.cus := rfl
@[simp] theorem modUpd_upd (f : Upd → Upd) : (modUpd f s).upd = f s.upd := rfl
@[simp] theorem modUpd_outs (f : Upd → Upd) : (modUpd f s).outs = s.outs := rfl
@[simp] theorem modUpd_free (f : Upd → Upd) : (modUpd f s).free = s.free := rfl
@[simp] theorem modUpd_pending (f : Upd → Upd) : (modUpd f s).pending = s.pending := rfl

@[simp] theorem modLed_pwr (f : Ledger → Ledger) : (modLed f s).pwr = s.pwr := rfl
@[simp] theorem modLed_sys (f : Ledger → Ledger) : (modLed f s).sys = s.sys := rfl
@[simp] theorem modLed_fuse (f : Ledger → Ledger) : (modLed f s).fuse = s.fuse := rfl
@[simp] theorem modLed_host (f : Ledger → Ledger) : (modLed f s).host = s.host := rfl
@[simp] theorem modLed_slc (f : Ledger → Ledger) : (modLed f s).slc = s.slc := rfl
@[simp] theorem modLed_clk (f : Ledger → Ledger) : (modLed f s).clk = s.clk := rfl
@[simp] theorem modLed_led (f : Ledger → Ledger) : (modLed f s).led = f s.led := rfl
@[simp] theorem modLed_cfg (f : Ledger → Ledger) : (modLed f s).cfg = s.cfg := rfl
@[simp] theorem modLed_flt (f : Ledger → Ledger) : (modLed f s).flt = s.flt := rfl
@[simp] theorem modLed_sec (f : Ledger → Ledger) : (modLed f s).sec = s.sec := rfl
@[simp] theorem modLed_slk (f : Ledger → Ledger) : (modLed f s).slk = s.slk := rfl
@[simp] theorem modLed_dir (f : Ledger → Ledger) : (modLed f s).dir = s.dir := rfl
@[simp] theorem modLed_radio (f : Ledger → Ledger) : (modLed f s).radio = s.radio := rfl
@[simp] theorem modLed_cap (f : Ledger → Ledger) : (modLed f s).cap = s.cap := rfl
@[simp] theorem modLed_ifl (f : Ledger → Ledger) : (modLed f s).ifl = s.ifl := rfl
@[simp] theorem modLed_nfc (f : Ledger → Ledger) : (modLed f s).nfc = s.nfc := rfl
@[simp] theorem modLed_cus (f : Ledger → Ledger) : (modLed f s).cus = s.cus := rfl
@[simp] theorem modLed_upd (f : Ledger → Ledger) : (modLed f s).upd = s.upd := rfl
@[simp] theorem modLed_outs (f : Ledger → Ledger) : (modLed f s).outs = s.outs := rfl
@[simp] theorem modLed_free (f : Ledger → Ledger) : (modLed f s).free = s.free := rfl
@[simp] theorem modLed_pending (f : Ledger → Ledger) : (modLed f s).pending = s.pending := rfl

@[simp] theorem emit_pwr (o : Out) : (emit o s).pwr = s.pwr := rfl
@[simp] theorem emit_sys (o : Out) : (emit o s).sys = s.sys := rfl
@[simp] theorem emit_fuse (o : Out) : (emit o s).fuse = s.fuse := rfl
@[simp] theorem emit_host (o : Out) : (emit o s).host = s.host := rfl
@[simp] theorem emit_slc (o : Out) : (emit o s).slc = s.slc := rfl
@[simp] theorem emit_clk (o : Out) : (emit o s).clk = s.clk := rfl
@[simp] theorem emit_led (o : Out) : (emit o s).led = s.led := rfl
@[simp] theorem emit_cfg (o : Out) : (emit o s).cfg = s.cfg := rfl
@[simp] theorem emit_flt (o : Out) : (emit o s).flt = s.flt := rfl
@[simp] theorem emit_sec (o : Out) : (emit o s).sec = s.sec := rfl
@[simp] theorem emit_slk (o : Out) : (emit o s).slk = s.slk := rfl
@[simp] theorem emit_dir (o : Out) : (emit o s).dir = s.dir := rfl
@[simp] theorem emit_radio (o : Out) : (emit o s).radio = s.radio := rfl
@[simp] theorem emit_cap (o : Out) : (emit o s).cap = s.cap := rfl
@[simp] theorem emit_ifl (o : Out) : (emit o s).ifl = s.ifl := rfl
@[simp] theorem emit_nfc (o : Out) : (emit o s).nfc = s.nfc := rfl
@[simp] theorem emit_cus (o : Out) : (emit o s).cus = s.cus := rfl
@[simp] theorem emit_upd (o : Out) : (emit o s).upd = s.upd := rfl
@[simp] theorem emit_outs (o : Out) : (emit o s).outs = s.outs ++ [o] := rfl
@[simp] theorem emit_free (o : Out) : (emit o s).free = s.free := rfl
@[simp] theorem emit_pending (o : Out) : (emit o s).pending = s.pending := rfl

@[simp] theorem drawn_pwr (n : Nat) : (drawn n s).pwr = s.pwr := rfl
@[simp] theorem drawn_sys (n : Nat) : (drawn n s).sys = s.sys := rfl
@[simp] theorem drawn_fuse (n : Nat) : (drawn n s).fuse = s.fuse := rfl
@[simp] theorem drawn_host (n : Nat) : (drawn n s).host = s.host := rfl
@[simp] theorem drawn_slc (n : Nat) : (drawn n s).slc = s.slc := rfl
@[simp] theorem drawn_clk (n : Nat) : (drawn n s).clk = s.clk := rfl
@[simp] theorem drawn_led (n : Nat) : (drawn n s).led = s.led := rfl
@[simp] theorem drawn_cfg (n : Nat) : (drawn n s).cfg = s.cfg := rfl
@[simp] theorem drawn_flt (n : Nat) : (drawn n s).flt = s.flt := rfl
@[simp] theorem drawn_sec (n : Nat) : (drawn n s).sec = s.sec := rfl
@[simp] theorem drawn_slk (n : Nat) : (drawn n s).slk = s.slk := rfl
@[simp] theorem drawn_dir (n : Nat) : (drawn n s).dir = s.dir := rfl
@[simp] theorem drawn_radio (n : Nat) : (drawn n s).radio = s.radio := rfl
@[simp] theorem drawn_cap (n : Nat) : (drawn n s).cap = s.cap := rfl
@[simp] theorem drawn_ifl (n : Nat) : (drawn n s).ifl = s.ifl := rfl
@[simp] theorem drawn_nfc (n : Nat) : (drawn n s).nfc = s.nfc := rfl
@[simp] theorem drawn_cus (n : Nat) : (drawn n s).cus = s.cus := rfl
@[simp] theorem drawn_upd (n : Nat) : (drawn n s).upd = s.upd := rfl
@[simp] theorem drawn_outs (n : Nat) : (drawn n s).outs = s.outs := rfl
@[simp] theorem drawn_free (n : Nat) : (drawn n s).free = s.free + n := rfl
@[simp] theorem drawn_pending (n : Nat) : (drawn n s).pending = s.pending := rfl

@[simp] theorem modFlight_pwr (r : Nat) (f : Flight → Flight) : (modFlight r f s).pwr = s.pwr := rfl
@[simp] theorem modFlight_sys (r : Nat) (f : Flight → Flight) : (modFlight r f s).sys = s.sys := rfl
@[simp] theorem modFlight_fuse (r : Nat) (f : Flight → Flight) : (modFlight r f s).fuse = s.fuse := rfl
@[simp] theorem modFlight_host (r : Nat) (f : Flight → Flight) : (modFlight r f s).host = { s.host with flights := modAt s.host.flights r f } := rfl
@[simp] theorem modFlight_slc (r : Nat) (f : Flight → Flight) : (modFlight r f s).slc = s.slc := rfl
@[simp] theorem modFlight_clk (r : Nat) (f : Flight → Flight) : (modFlight r f s).clk = s.clk := rfl
@[simp] theorem modFlight_led (r : Nat) (f : Flight → Flight) : (modFlight r f s).led = s.led := rfl
@[simp] theorem modFlight_cfg (r : Nat) (f : Flight → Flight) : (modFlight r f s).cfg = s.cfg := rfl
@[simp] theorem modFlight_flt (r : Nat) (f : Flight → Flight) : (modFlight r f s).flt = s.flt := rfl
@[simp] theorem modFlight_sec (r : Nat) (f : Flight → Flight) : (modFlight r f s).sec = s.sec := rfl
@[simp] theorem modFlight_slk (r : Nat) (f : Flight → Flight) : (modFlight r f s).slk = s.slk := rfl
@[simp] theorem modFlight_dir (r : Nat) (f : Flight → Flight) : (modFlight r f s).dir = s.dir := rfl
@[simp] theorem modFlight_radio (r : Nat) (f : Flight → Flight) : (modFlight r f s).radio = s.radio := rfl
@[simp] theorem modFlight_cap (r : Nat) (f : Flight → Flight) : (modFlight r f s).cap = s.cap := rfl
@[simp] theorem modFlight_ifl (r : Nat) (f : Flight → Flight) : (modFlight r f s).ifl = s.ifl := rfl
@[simp] theorem modFlight_nfc (r : Nat) (f : Flight → Flight) : (modFlight r f s).nfc = s.nfc := rfl
@[simp] theorem modFlight_cus (r : Nat) (f : Flight → Flight) : (modFlight r f s).cus = s.cus := rfl
@[simp] theorem modFlight_upd (r : Nat) (f : Flight → Flight) : (modFlight r f s).upd = s.upd := rfl
@[simp] theorem modFlight_outs (r : Nat) (f : Flight → Flight) : (modFlight r f s).outs = s.outs := rfl
@[simp] theorem modFlight_free (r : Nat) (f : Flight → Flight) : (modFlight r f s).free = s.free := rfl
@[simp] theorem modFlight_pending (r : Nat) (f : Flight → Flight) : (modFlight r f s).pending = s.pending := rfl

@[simp] theorem modRing_pwr (g : Nat) (f : Ring → Ring) : (modRing g f s).pwr = s.pwr := rfl
@[simp] theorem modRing_sys (g : Nat) (f : Ring → Ring) : (modRing g f s).sys = s.sys := rfl
@[simp] theorem modRing_fuse (g : Nat) (f : Ring → Ring) : (modRing g f s).fuse = s.fuse := rfl
@[simp] theorem modRing_host (g : Nat) (f : Ring → Ring) : (modRing g f s).host = { s.host with rings := tabModify {} s.host.rings g f } := rfl
@[simp] theorem modRing_slc (g : Nat) (f : Ring → Ring) : (modRing g f s).slc = s.slc := rfl
@[simp] theorem modRing_clk (g : Nat) (f : Ring → Ring) : (modRing g f s).clk = s.clk := rfl
@[simp] theorem modRing_led (g : Nat) (f : Ring → Ring) : (modRing g f s).led = s.led := rfl
@[simp] theorem modRing_cfg (g : Nat) (f : Ring → Ring) : (modRing g f s).cfg = s.cfg := rfl
@[simp] theorem modRing_flt (g : Nat) (f : Ring → Ring) : (modRing g f s).flt = s.flt := rfl
@[simp] theorem modRing_sec (g : Nat) (f : Ring → Ring) : (modRing g f s).sec = s.sec := rfl
@[simp] theorem modRing_slk (g : Nat) (f : Ring → Ring) : (modRing g f s).slk = s.slk := rfl
@[simp] theorem modRing_dir (g : Nat) (f : Ring → Ring) : (modRing g f s).dir = s.dir := rfl
@[simp] theorem modRing_radio (g : Nat) (f : Ring → Ring) : (modRing g f s).radio = s.radio := rfl
@[simp] theorem modRing_cap (g : Nat) (f : Ring → Ring) : (modRing g f s).cap = s.cap := rfl
@[simp] theorem modRing_ifl (g : Nat) (f : Ring → Ring) : (modRing g f s).ifl = s.ifl := rfl
@[simp] theorem modRing_nfc (g : Nat) (f : Ring → Ring) : (modRing g f s).nfc = s.nfc := rfl
@[simp] theorem modRing_cus (g : Nat) (f : Ring → Ring) : (modRing g f s).cus = s.cus := rfl
@[simp] theorem modRing_upd (g : Nat) (f : Ring → Ring) : (modRing g f s).upd = s.upd := rfl
@[simp] theorem modRing_outs (g : Nat) (f : Ring → Ring) : (modRing g f s).outs = s.outs := rfl
@[simp] theorem modRing_free (g : Nat) (f : Ring → Ring) : (modRing g f s).free = s.free := rfl
@[simp] theorem modRing_pending (g : Nat) (f : Ring → Ring) : (modRing g f s).pending = s.pending := rfl

@[simp] theorem modFunc_pwr (n : Nat) (f : Func → Func) : (modFunc n f s).pwr = s.pwr := rfl
@[simp] theorem modFunc_sys (n : Nat) (f : Func → Func) : (modFunc n f s).sys = s.sys := rfl
@[simp] theorem modFunc_fuse (n : Nat) (f : Func → Func) : (modFunc n f s).fuse = s.fuse := rfl
@[simp] theorem modFunc_host (n : Nat) (f : Func → Func) : (modFunc n f s).host = { s.host with funcs := tabModify {} s.host.funcs n f } := rfl
@[simp] theorem modFunc_slc (n : Nat) (f : Func → Func) : (modFunc n f s).slc = s.slc := rfl
@[simp] theorem modFunc_clk (n : Nat) (f : Func → Func) : (modFunc n f s).clk = s.clk := rfl
@[simp] theorem modFunc_led (n : Nat) (f : Func → Func) : (modFunc n f s).led = s.led := rfl
@[simp] theorem modFunc_cfg (n : Nat) (f : Func → Func) : (modFunc n f s).cfg = s.cfg := rfl
@[simp] theorem modFunc_flt (n : Nat) (f : Func → Func) : (modFunc n f s).flt = s.flt := rfl
@[simp] theorem modFunc_sec (n : Nat) (f : Func → Func) : (modFunc n f s).sec = s.sec := rfl
@[simp] theorem modFunc_slk (n : Nat) (f : Func → Func) : (modFunc n f s).slk = s.slk := rfl
@[simp] theorem modFunc_dir (n : Nat) (f : Func → Func) : (modFunc n f s).dir = s.dir := rfl
@[simp] theorem modFunc_radio (n : Nat) (f : Func → Func) : (modFunc n f s).radio = s.radio := rfl
@[simp] theorem modFunc_cap (n : Nat) (f : Func → Func) : (modFunc n f s).cap = s.cap := rfl
@[simp] theorem modFunc_ifl (n : Nat) (f : Func → Func) : (modFunc n f s).ifl = s.ifl := rfl
@[simp] theorem modFunc_nfc (n : Nat) (f : Func → Func) : (modFunc n f s).nfc = s.nfc := rfl
@[simp] theorem modFunc_cus (n : Nat) (f : Func → Func) : (modFunc n f s).cus = s.cus := rfl
@[simp] theorem modFunc_upd (n : Nat) (f : Func → Func) : (modFunc n f s).upd = s.upd := rfl
@[simp] theorem modFunc_outs (n : Nat) (f : Func → Func) : (modFunc n f s).outs = s.outs := rfl
@[simp] theorem modFunc_free (n : Nat) (f : Func → Func) : (modFunc n f s).free = s.free := rfl
@[simp] theorem modFunc_pending (n : Nat) (f : Func → Func) : (modFunc n f s).pending = s.pending := rfl

@[simp] theorem modVec_pwr (n v : Nat) (f : MsixVec → MsixVec) : (modVec n v f s).pwr = s.pwr := rfl
@[simp] theorem modVec_sys (n v : Nat) (f : MsixVec → MsixVec) : (modVec n v f s).sys = s.sys := rfl
@[simp] theorem modVec_fuse (n v : Nat) (f : MsixVec → MsixVec) : (modVec n v f s).fuse = s.fuse := rfl
@[simp] theorem modVec_host (n v : Nat) (f : MsixVec → MsixVec) : (modVec n v f s).host = { s.host with vecs := tabModify {} s.host.vecs (vecKey n v) f } := rfl
@[simp] theorem modVec_slc (n v : Nat) (f : MsixVec → MsixVec) : (modVec n v f s).slc = s.slc := rfl
@[simp] theorem modVec_clk (n v : Nat) (f : MsixVec → MsixVec) : (modVec n v f s).clk = s.clk := rfl
@[simp] theorem modVec_led (n v : Nat) (f : MsixVec → MsixVec) : (modVec n v f s).led = s.led := rfl
@[simp] theorem modVec_cfg (n v : Nat) (f : MsixVec → MsixVec) : (modVec n v f s).cfg = s.cfg := rfl
@[simp] theorem modVec_flt (n v : Nat) (f : MsixVec → MsixVec) : (modVec n v f s).flt = s.flt := rfl
@[simp] theorem modVec_sec (n v : Nat) (f : MsixVec → MsixVec) : (modVec n v f s).sec = s.sec := rfl
@[simp] theorem modVec_slk (n v : Nat) (f : MsixVec → MsixVec) : (modVec n v f s).slk = s.slk := rfl
@[simp] theorem modVec_dir (n v : Nat) (f : MsixVec → MsixVec) : (modVec n v f s).dir = s.dir := rfl
@[simp] theorem modVec_radio (n v : Nat) (f : MsixVec → MsixVec) : (modVec n v f s).radio = s.radio := rfl
@[simp] theorem modVec_cap (n v : Nat) (f : MsixVec → MsixVec) : (modVec n v f s).cap = s.cap := rfl
@[simp] theorem modVec_ifl (n v : Nat) (f : MsixVec → MsixVec) : (modVec n v f s).ifl = s.ifl := rfl
@[simp] theorem modVec_nfc (n v : Nat) (f : MsixVec → MsixVec) : (modVec n v f s).nfc = s.nfc := rfl
@[simp] theorem modVec_cus (n v : Nat) (f : MsixVec → MsixVec) : (modVec n v f s).cus = s.cus := rfl
@[simp] theorem modVec_upd (n v : Nat) (f : MsixVec → MsixVec) : (modVec n v f s).upd = s.upd := rfl
@[simp] theorem modVec_outs (n v : Nat) (f : MsixVec → MsixVec) : (modVec n v f s).outs = s.outs := rfl
@[simp] theorem modVec_free (n v : Nat) (f : MsixVec → MsixVec) : (modVec n v f s).free = s.free := rfl
@[simp] theorem modVec_pending (n v : Nat) (f : MsixVec → MsixVec) : (modVec n v f s).pending = s.pending := rfl

@[simp] theorem modTen_pwr (t : Nat) (f : Tenancy → Tenancy) : (modTen t f s).pwr = s.pwr := rfl
@[simp] theorem modTen_sys (t : Nat) (f : Tenancy → Tenancy) : (modTen t f s).sys = s.sys := rfl
@[simp] theorem modTen_fuse (t : Nat) (f : Tenancy → Tenancy) : (modTen t f s).fuse = s.fuse := rfl
@[simp] theorem modTen_host (t : Nat) (f : Tenancy → Tenancy) : (modTen t f s).host = s.host := rfl
@[simp] theorem modTen_slc (t : Nat) (f : Tenancy → Tenancy) : (modTen t f s).slc = { s.slc with tens := tabModify {} s.slc.tens t f } := rfl
@[simp] theorem modTen_clk (t : Nat) (f : Tenancy → Tenancy) : (modTen t f s).clk = s.clk := rfl
@[simp] theorem modTen_led (t : Nat) (f : Tenancy → Tenancy) : (modTen t f s).led = s.led := rfl
@[simp] theorem modTen_cfg (t : Nat) (f : Tenancy → Tenancy) : (modTen t f s).cfg = s.cfg := rfl
@[simp] theorem modTen_flt (t : Nat) (f : Tenancy → Tenancy) : (modTen t f s).flt = s.flt := rfl
@[simp] theorem modTen_sec (t : Nat) (f : Tenancy → Tenancy) : (modTen t f s).sec = s.sec := rfl
@[simp] theorem modTen_slk (t : Nat) (f : Tenancy → Tenancy) : (modTen t f s).slk = s.slk := rfl
@[simp] theorem modTen_dir (t : Nat) (f : Tenancy → Tenancy) : (modTen t f s).dir = s.dir := rfl
@[simp] theorem modTen_radio (t : Nat) (f : Tenancy → Tenancy) : (modTen t f s).radio = s.radio := rfl
@[simp] theorem modTen_cap (t : Nat) (f : Tenancy → Tenancy) : (modTen t f s).cap = s.cap := rfl
@[simp] theorem modTen_ifl (t : Nat) (f : Tenancy → Tenancy) : (modTen t f s).ifl = s.ifl := rfl
@[simp] theorem modTen_nfc (t : Nat) (f : Tenancy → Tenancy) : (modTen t f s).nfc = s.nfc := rfl
@[simp] theorem modTen_cus (t : Nat) (f : Tenancy → Tenancy) : (modTen t f s).cus = s.cus := rfl
@[simp] theorem modTen_upd (t : Nat) (f : Tenancy → Tenancy) : (modTen t f s).upd = s.upd := rfl
@[simp] theorem modTen_outs (t : Nat) (f : Tenancy → Tenancy) : (modTen t f s).outs = s.outs := rfl
@[simp] theorem modTen_free (t : Nat) (f : Tenancy → Tenancy) : (modTen t f s).free = s.free := rfl
@[simp] theorem modTen_pending (t : Nat) (f : Tenancy → Tenancy) : (modTen t f s).pending = s.pending := rfl

@[simp] theorem modRun_pwr (t : Nat) (f : TenRun → TenRun) : (modRun t f s).pwr = s.pwr := rfl
@[simp] theorem modRun_sys (t : Nat) (f : TenRun → TenRun) : (modRun t f s).sys = s.sys := rfl
@[simp] theorem modRun_fuse (t : Nat) (f : TenRun → TenRun) : (modRun t f s).fuse = s.fuse := rfl
@[simp] theorem modRun_host (t : Nat) (f : TenRun → TenRun) : (modRun t f s).host = s.host := rfl
@[simp] theorem modRun_slc (t : Nat) (f : TenRun → TenRun) : (modRun t f s).slc = { s.slc with run := tabModify {} s.slc.run t f } := rfl
@[simp] theorem modRun_clk (t : Nat) (f : TenRun → TenRun) : (modRun t f s).clk = s.clk := rfl
@[simp] theorem modRun_led (t : Nat) (f : TenRun → TenRun) : (modRun t f s).led = s.led := rfl
@[simp] theorem modRun_cfg (t : Nat) (f : TenRun → TenRun) : (modRun t f s).cfg = s.cfg := rfl
@[simp] theorem modRun_flt (t : Nat) (f : TenRun → TenRun) : (modRun t f s).flt = s.flt := rfl
@[simp] theorem modRun_sec (t : Nat) (f : TenRun → TenRun) : (modRun t f s).sec = s.sec := rfl
@[simp] theorem modRun_slk (t : Nat) (f : TenRun → TenRun) : (modRun t f s).slk = s.slk := rfl
@[simp] theorem modRun_dir (t : Nat) (f : TenRun → TenRun) : (modRun t f s).dir = s.dir := rfl
@[simp] theorem modRun_radio (t : Nat) (f : TenRun → TenRun) : (modRun t f s).radio = s.radio := rfl
@[simp] theorem modRun_cap (t : Nat) (f : TenRun → TenRun) : (modRun t f s).cap = s.cap := rfl
@[simp] theorem modRun_ifl (t : Nat) (f : TenRun → TenRun) : (modRun t f s).ifl = s.ifl := rfl
@[simp] theorem modRun_nfc (t : Nat) (f : TenRun → TenRun) : (modRun t f s).nfc = s.nfc := rfl
@[simp] theorem modRun_cus (t : Nat) (f : TenRun → TenRun) : (modRun t f s).cus = s.cus := rfl
@[simp] theorem modRun_upd (t : Nat) (f : TenRun → TenRun) : (modRun t f s).upd = s.upd := rfl
@[simp] theorem modRun_outs (t : Nat) (f : TenRun → TenRun) : (modRun t f s).outs = s.outs := rfl
@[simp] theorem modRun_free (t : Nat) (f : TenRun → TenRun) : (modRun t f s).free = s.free := rfl
@[simp] theorem modRun_pending (t : Nat) (f : TenRun → TenRun) : (modRun t f s).pending = s.pending := rfl

@[simp] theorem atStage_pwr (r stage units : Nat) : (atStage r stage units s).pwr = s.pwr := rfl
@[simp] theorem atStage_sys (r stage units : Nat) : (atStage r stage units s).sys = s.sys := rfl
@[simp] theorem atStage_fuse (r stage units : Nat) : (atStage r stage units s).fuse = s.fuse := rfl
@[simp] theorem atStage_host (r stage units : Nat) : (atStage r stage units s).host = { s.host with flights := modAt s.host.flights r (fun x => { x with stage := stage, units := units }) } := rfl
@[simp] theorem atStage_slc (r stage units : Nat) : (atStage r stage units s).slc = s.slc := rfl
@[simp] theorem atStage_clk (r stage units : Nat) : (atStage r stage units s).clk = s.clk := rfl
@[simp] theorem atStage_led (r stage units : Nat) : (atStage r stage units s).led = s.led := rfl
@[simp] theorem atStage_cfg (r stage units : Nat) : (atStage r stage units s).cfg = s.cfg := rfl
@[simp] theorem atStage_flt (r stage units : Nat) : (atStage r stage units s).flt = s.flt := rfl
@[simp] theorem atStage_sec (r stage units : Nat) : (atStage r stage units s).sec = s.sec := rfl
@[simp] theorem atStage_slk (r stage units : Nat) : (atStage r stage units s).slk = s.slk := rfl
@[simp] theorem atStage_dir (r stage units : Nat) : (atStage r stage units s).dir = s.dir := rfl
@[simp] theorem atStage_radio (r stage units : Nat) : (atStage r stage units s).radio = s.radio := rfl
@[simp] theorem atStage_cap (r stage units : Nat) : (atStage r stage units s).cap = s.cap := rfl
@[simp] theorem atStage_ifl (r stage units : Nat) : (atStage r stage units s).ifl = s.ifl := rfl
@[simp] theorem atStage_nfc (r stage units : Nat) : (atStage r stage units s).nfc = s.nfc := rfl
@[simp] theorem atStage_cus (r stage units : Nat) : (atStage r stage units s).cus = s.cus := rfl
@[simp] theorem atStage_upd (r stage units : Nat) : (atStage r stage units s).upd = s.upd := rfl
@[simp] theorem atStage_outs (r stage units : Nat) : (atStage r stage units s).outs = s.outs := rfl
@[simp] theorem atStage_free (r stage units : Nat) : (atStage r stage units s).free = s.free := rfl
@[simp] theorem atStage_pending (r stage units : Nat) : (atStage r stage units s).pending = s.pending := rfl

@[simp] theorem setUnit_pwr (kind n : Nat) (u : UnitSt) : (setUnit kind n u s).pwr = s.pwr := rfl
@[simp] theorem setUnit_sys (kind n : Nat) (u : UnitSt) : (setUnit kind n u s).sys = s.sys := rfl
@[simp] theorem setUnit_fuse (kind n : Nat) (u : UnitSt) : (setUnit kind n u s).fuse = s.fuse := rfl
@[simp] theorem setUnit_host (kind n : Nat) (u : UnitSt) : (setUnit kind n u s).host = s.host := rfl
@[simp] theorem setUnit_slc (kind n : Nat) (u : UnitSt) : (setUnit kind n u s).slc = s.slc := rfl
@[simp] theorem setUnit_clk (kind n : Nat) (u : UnitSt) : (setUnit kind n u s).clk = s.clk := rfl
@[simp] theorem setUnit_led (kind n : Nat) (u : UnitSt) : (setUnit kind n u s).led = s.led := rfl
@[simp] theorem setUnit_cfg (kind n : Nat) (u : UnitSt) : (setUnit kind n u s).cfg = s.cfg := rfl
@[simp] theorem setUnit_flt (kind n : Nat) (u : UnitSt) : (setUnit kind n u s).flt = { s.flt with units := tabSet .up s.flt.units (kind * 256 + n) u } := rfl
@[simp] theorem setUnit_sec (kind n : Nat) (u : UnitSt) : (setUnit kind n u s).sec = s.sec := rfl
@[simp] theorem setUnit_slk (kind n : Nat) (u : UnitSt) : (setUnit kind n u s).slk = s.slk := rfl
@[simp] theorem setUnit_dir (kind n : Nat) (u : UnitSt) : (setUnit kind n u s).dir = s.dir := rfl
@[simp] theorem setUnit_radio (kind n : Nat) (u : UnitSt) : (setUnit kind n u s).radio = s.radio := rfl
@[simp] theorem setUnit_cap (kind n : Nat) (u : UnitSt) : (setUnit kind n u s).cap = s.cap := rfl
@[simp] theorem setUnit_ifl (kind n : Nat) (u : UnitSt) : (setUnit kind n u s).ifl = s.ifl := rfl
@[simp] theorem setUnit_nfc (kind n : Nat) (u : UnitSt) : (setUnit kind n u s).nfc = s.nfc := rfl
@[simp] theorem setUnit_cus (kind n : Nat) (u : UnitSt) : (setUnit kind n u s).cus = s.cus := rfl
@[simp] theorem setUnit_upd (kind n : Nat) (u : UnitSt) : (setUnit kind n u s).upd = s.upd := rfl
@[simp] theorem setUnit_outs (kind n : Nat) (u : UnitSt) : (setUnit kind n u s).outs = s.outs := rfl
@[simp] theorem setUnit_free (kind n : Nat) (u : UnitSt) : (setUnit kind n u s).free = s.free := rfl
@[simp] theorem setUnit_pending (kind n : Nat) (u : UnitSt) : (setUnit kind n u s).pending = s.pending := rfl

@[simp] theorem logRec_pwr (k : LKind) : (logRec k s).pwr = s.pwr := rfl
@[simp] theorem logRec_sys (k : LKind) : (logRec k s).sys = s.sys := rfl
@[simp] theorem logRec_fuse (k : LKind) : (logRec k s).fuse = s.fuse := rfl
@[simp] theorem logRec_host (k : LKind) : (logRec k s).host = s.host := rfl
@[simp] theorem logRec_slc (k : LKind) : (logRec k s).slc = s.slc := rfl
@[simp] theorem logRec_cfg (k : LKind) : (logRec k s).cfg = s.cfg := rfl
@[simp] theorem logRec_flt (k : LKind) : (logRec k s).flt = s.flt := rfl
@[simp] theorem logRec_sec (k : LKind) : (logRec k s).sec = s.sec := rfl
@[simp] theorem logRec_slk (k : LKind) : (logRec k s).slk = s.slk := rfl
@[simp] theorem logRec_dir (k : LKind) : (logRec k s).dir = s.dir := rfl
@[simp] theorem logRec_radio (k : LKind) : (logRec k s).radio = s.radio := rfl
@[simp] theorem logRec_cap (k : LKind) : (logRec k s).cap = s.cap := rfl
@[simp] theorem logRec_ifl (k : LKind) : (logRec k s).ifl = s.ifl := rfl
@[simp] theorem logRec_nfc (k : LKind) : (logRec k s).nfc = s.nfc := rfl
@[simp] theorem logRec_cus (k : LKind) : (logRec k s).cus = s.cus := rfl
@[simp] theorem logRec_upd (k : LKind) : (logRec k s).upd = s.upd := rfl
@[simp] theorem logRec_outs (k : LKind) : (logRec k s).outs = s.outs := rfl
@[simp] theorem logRec_free (k : LKind) : (logRec k s).free = s.free := rfl
@[simp] theorem logRec_pending (k : LKind) : (logRec k s).pending = s.pending := rfl

end Sys2Proof.Machine
end

