-- ==== Sys2Proof/Laws/Ops.lean ====
section
/-! SUPPORT. What the shared operations on descriptors do: beginning one, going on with one, giving it its fate. -/

namespace Sys2Proof.Machine

variable {s t : State} {r : Nat} {f : Flight}

/-! ### Flights -/

theorem modAt_getElem? {α : Type} (l : List α) (i j : Nat) (g : α → α) :
    (modAt l i g)[j]? = if i = j then l[j]?.map g else l[j]? := by
  induction l generalizing i j with
  | nil => simp [modAt]
  | cons a l ih =>
    cases i <;> cases j <;> simp [modAt, ih]

@[simp] theorem getFlight_modFlight (i : Nat) (g : Flight → Flight) :
    getFlight (modFlight i g s) r = if i = r then (getFlight s r).map g else getFlight s r := by
  simp [getFlight, modAt_getElem?]

theorem getFlight_of_host {u : State} (h : u.host.flights = t.host.flights) : getFlight u r = getFlight t r := by
  simp only [getFlight, h]

@[simp] theorem getFlight_noteV : getFlight (noteV s) r = getFlight s r := rfl

/-! ### Beginning and going on -/

theorem startOp_ready {opc : Nat} (h : Ready opc r f s) (body : Flight → State → State) :
    startOp opc r body s = body f (started r s) := by
  unfold startOp started
  rw [h.here]
  simp [h.work, h.opc, h.fresh, h.noFate, h.first, h.turn, h.fence]

theorem onOp_running {opc : Nat} (h : Running opc r f s) (body : Flight → State → State) :
    onOp opc r body s = body f s := by
  unfold onOp
  rw [h.here]
  simp [h.work, h.opc, h.begun, h.noFate]

/-- A descriptor whose FENCE does not hold ends NOT_STARTED when its turn comes (R114). -/
theorem startOp_fenced {opc : Nat} (h : getFlight s r = some f) (hw : working s = true) (ho : dOpc f.raw = opc)
    (hb : f.begun = false) (hn : f.fate = none) (he : earlierFated s r f = true) (hq : queueTurn s r f = true) (hf : fenceHolds s r f = false)
    (body : Flight → State → State) : startOp opc r body s = settle r (failFate fNotStarted 0x09) s := by
  unfold startOp
  rw [h]
  simp [hw, ho, hb, hn, he, hq, hf]

/-! ### Fates -/

theorem Ended.keeps {code result detail : Nat} (h : Ended r code result detail s) (k : Keeps s t) :
    Ended r code result detail t := by
  obtain ⟨f, fr, hf, hfr, h1, h2, h3⟩ := h
  obtain ⟨g, hg, -, hk⟩ := k.flights r f (by simpa [getFlight] using hf)
  exact ⟨g, fr, by simpa [getFlight] using hg, by rw [hk (by simp [hfr]), hfr], h1, h2, h3⟩

theorem settle_ended (hf : getFlight s r = some f) (hn : f.fate = none) (fr : FateRec) :
    Ended r fr.code fr.result fr.detail (settle r fr s) := by
  unfold settle
  rw [hf]
  simp only [hn, Option.isSome_none, Bool.false_eq_true, if_false]
  refine Ended.keeps ?_ (settleDups_keeps (Keeps.refl _) _ _)
  refine Ended.keeps ?_ (logRec_keeps (Keeps.refl _) _)
  refine Ended.keeps ?_ (onlyIf_keeps (Keeps.refl _) _ _ fun k => returnCharge_keeps k _)
  refine ⟨_, noteFate fr f s, by rw [getFlight_modFlight, if_pos rfl, getFlight_noteV, hf]; rfl, rfl, ?_, ?_, ?_⟩ <;> simp [noteFate]

theorem settle_done (hf : getFlight s r = some f) (hn : f.fate = none) (v : Nat) : Done r v (settle r (done v) s) :=
  settle_ended hf hn (done v)

theorem settle_fail (hf : getFlight s r = some f) (hn : f.fate = none) (code detail stage : Nat) :
    Ended r code 0 detail (settle r (failFate code detail stage) s) := settle_ended hf hn (failFate code detail stage)

theorem Ready.begun {opc : Nat} (h : Ready opc r f s) :
    getFlight (started r s) r = some { f with begun := true } := by
  rw [started, getFlight_modFlight, if_pos rfl, getFlight_noteV, h.here]; rfl

theorem withRead_ok {d : Bytes} (n stage : Nat) (body : Bytes → State → State) :
    withRead r (.ok d) n stage body s = body (slice d 0 n) s := rfl

theorem withRead_failed (n stage : Nat) (body : Bytes → State → State) :
    withRead r .failed n stage body s = settle r (failFate fCulvert 0x11 stage) s := rfl

/-- What `settle` leaves alone. -/
theorem settle_frame_of (fr : FateRec) : Frame [.flights, .run, .slc, .led] s (settle r fr s) :=
  settle_frame (Frame.refl _ _) (within_refl _) _ _

@[simp] theorem settle_outs (fr : FateRec) : (settle r fr s).outs = s.outs := (settle_frame_of fr).part .outs rfl

end Sys2Proof.Machine
end

