-- ==== Sys2Proof/Laws/Rails.lean ====
section
/-! SUPPORT. What raising and lowering enables does to PWR_EN and to the rails' good bits. -/

namespace Sys2Proof.Machine

variable (s : State)

theorem oneBit_getLsbD (w g i : Nat) : (BitVec.ofNat w (2 ^ g)).getLsbD i = (decide (i < w) && decide (i = g)) := by
  rw [BitVec.getLsbD_ofNat, Nat.testBit_two_pow]
  by_cases e : g = i <;> simp [e, eq_comm]

theorem setBits_getLsbD {n : Nat} (v : BitVec n) (g i : Nat) :
    (setBits v g).getLsbD i = (v.getLsbD i || (decide (i < n) && decide (i = g))) := by
  rw [setBits, BitVec.getLsbD_or, oneBit_getLsbD]

theorem raiseEnable_en (g i : Nat) : (raiseEnable g s).pwr.en.getLsbD i = (s.pwr.en.getLsbD i || (decide (i = g) && decide (i < 4))) := by
  unfold raiseEnable
  split
  · rename_i h
    by_cases e : i = g
    · subst e; simp [h]
    · simp [e]
  · simp only [emit_pwr, modPwr_pwr, setBits_getLsbD]
    rw [Bool.and_comm (decide (i < 4))]

theorem raiseEnable_pwr (g : Nat) : ∃ e n, (raiseEnable g s).pwr = { s.pwr with en := e, enAt := n } := by
  unfold raiseEnable
  split
  · exact ⟨s.pwr.en, s.pwr.enAt, rfl⟩
  · exact ⟨_, _, rfl⟩

/-- Raising the enables that are due changes PWR_EN and the time of the last raise alone. -/
theorem raiseEach_pwr (l : List Nat) : ∃ e n, (raiseEach l s).pwr = { s.pwr with en := e, enAt := n } := by
  have step : ∀ (l : List Nat) (t : State), (∃ e n, t.pwr = { s.pwr with en := e, enAt := n }) →
      ∃ e n, (each l (fun g t => if (List.range g).all (groupGood t) then raiseEnable g t else t) t).pwr =
        { s.pwr with en := e, enAt := n } := by
    intro l
    induction l with
    | nil => exact fun t h => h
    | cons g l ih =>
      intro t ⟨e, n, h⟩
      simp only [each, List.foldl_cons]
      apply ih
      split
      · obtain ⟨e', n', h'⟩ := raiseEnable_pwr t g
        exact ⟨e', n', by rw [h', h]⟩
      · exact ⟨e, n, h⟩
  exact step l s ⟨_, _, rfl⟩

theorem raiseDue_pwr : ∃ e n, (raiseDue s).pwr = { s.pwr with en := e, enAt := n } := raiseEach_pwr s _

theorem raiseDue_en0 : (raiseDue s).pwr.en.getLsbD 0 = true := by
  have keep : ∀ (l : List Nat) (t : State), t.pwr.en.getLsbD 0 = true →
      (each l (fun g t => if (List.range g).all (groupGood t) then raiseEnable g t else t) t).pwr.en.getLsbD 0 = true := by
    intro l
    induction l with
    | nil => exact fun t h => h
    | cons g l ih =>
      intro t h
      simp only [each, List.foldl_cons]
      apply ih
      split
      · rw [raiseEnable_en, h]; rfl
      · exact h
  unfold raiseDue raiseEach
  simp only [each, List.foldl_cons, List.range_zero, List.all_nil, if_true]
  exact keep [1, 2, 3] _ (by rw [raiseEnable_en]; simp)

@[simp] theorem coexLines_pwr (c on : Bool) : (onlyIf c (coexPins on) s).pwr = s.pwr :=
  (onlyIf_frame (Frame.refl _ s) c _ fun h => coexPins_frame h (within_refl [.outs]) on).part .pwr rfl

theorem lowerEnable_en (g i : Nat) :
    (lowerEnable g s).pwr.en.getLsbD i = (s.pwr.en.getLsbD i && !decide (i = g)) := by
  unfold lowerEnable
  split
  · simp only [coexLines_pwr, emit_pwr, modPwr_pwr, BitVec.getLsbD_and, BitVec.getLsbD_not, oneBit_getLsbD]
    by_cases hi : i < 4
    · simp [hi]
    · simp [BitVec.getLsbD_of_ge _ _ (by omega : 4 ≤ i)]
  · rename_i h
    by_cases e : i = g
    · subst e; simp at h; simp [h]
    · simp [e]

theorem lowerEnable_pwr (g : Nat) :
    ∃ e m v, (lowerEnable g s).pwr = { s.pwr with en := e, railGood := m, vcoreSet := v } := by
  unfold lowerEnable
  split
  · exact ⟨_, _, _, coexLines_pwr _ _ _⟩
  · exact ⟨s.pwr.en, s.pwr.railGood, s.pwr.vcoreSet, rfl⟩

/-- Lowering enables from 3 down to `g` changes PWR_EN, the rails' good bits and the PMIC's VCORE output alone. -/
theorem lowerFrom_pwr (g : Nat) :
    ∃ e m v, (lowerFrom g s).pwr = { s.pwr with en := e, railGood := m, vcoreSet := v } := by
  have step : ∀ (l : List Nat) (t : State),
      (∃ e m v, t.pwr = { s.pwr with en := e, railGood := m, vcoreSet := v }) →
      ∃ e m v, (each l lowerEnable t).pwr = { s.pwr with en := e, railGood := m, vcoreSet := v } := by
    intro l
    induction l with
    | nil => exact fun t h => h
    | cons g l ih =>
      intro t ⟨e, n, v, h⟩
      simp only [each, List.foldl_cons]
      apply ih
      obtain ⟨e', n', v', h'⟩ := lowerEnable_pwr t g
      exact ⟨e', n', v', by rw [h', h]⟩
  exact step _ s ⟨_, _, _, rfl⟩

/-- After it every enable from `g` on is low, and those before it stand as they stood. -/
theorem lowerFrom_en (g i : Nat) : (lowerFrom g s).pwr.en.getLsbD i = (s.pwr.en.getLsbD i && decide (i < g)) := by
  have step : ∀ (l : List Nat) (t : State),
      (each l lowerEnable t).pwr.en.getLsbD i = (t.pwr.en.getLsbD i && !l.contains i) := by
    intro l
    induction l with
    | nil => simp [each]
    | cons g l ih =>
      intro t
      simp only [each, List.foldl_cons]
      have := ih (lowerEnable g t)
      simp only [each] at this
      rw [this, lowerEnable_en]
      by_cases e : i = g <;> simp [e]
  unfold lowerFrom
  rw [step]
  by_cases hi : i < 4
  · have : i = 0 ∨ i = 1 ∨ i = 2 ∨ i = 3 := by omega
    have k : (([3, 2, 1, 0].filter (fun k => decide (g ≤ k))).contains i) = decide (g ≤ i) := by
      rw [Bool.eq_iff_iff]
      simp only [List.contains_iff_mem, List.mem_filter, decide_eq_true_eq]
      simp only [List.mem_cons, List.not_mem_nil, or_false]
      omega
    rw [k]
    by_cases hg : i < g
    · simp [hg, Nat.not_le.mpr hg]
    · simp [hg, Nat.le_of_not_lt hg]
  · simp [BitVec.getLsbD_of_ge _ _ (by omega : 4 ≤ i)]

end Sys2Proof.Machine
end

