-- ==== Sys2Proof/Machine/Pins.lean ====
section
/-! DEFINITION. What the package shows of the state: the level of each signal in reset and without its supply (R54–R56), and how the
HOST port answers configuration requests before release (R54, R95, R98). -/

namespace Sys2Proof.Machine

/-- The signals of R54; those a row joins share a constructor where they have one state. -/
inductive Signal where
  | lfDrive (n : Nat) | lfSense (n : Nat)
  | uhfRfin (k : Nat) | uhfRfout (k : Nat) | uhfTrsw (k : Nat)
  | nfcTx (k : Nat) | nfcRx (k : Nat)
  | cap (n : Nat) | capShield (m : Nat)
  | iflTx (p : Nat) | iflRx (p : Nat)
  | ang (n : Nat)
  | canTxd (p : Nat) | canRxd (p : Nat)
  | eth (x : Nat) | ethMdc | ethMdio
  | hostLanes | hostPerst | hostClkreq
  | nvmLanes (d : Nat) | nvmClk (d : Nat) | nvmPerst (d : Nat)
  | dramCke | dramCs | dramResetN
  | cfgCsN | cfgClk
  | wake (n : Nat) | tmeshOut (m : Nat) | tmeshIn (m : Nat)
  | xtal32k | xtal25
  | slk (n : Nat)
  | coexReq (m : Nat) | coexPri | coexGnt (m : Nat)
  | dsense (n : Nat)
  | pmicBus | pmicEn (g : Nat) | pmicIrqN
  | dbgTck | dbgTrstN | dbgTms | dbgTdi | dbgTdo
  | uartTxd | uartRxd
  | testmode
  deriving DecidableEq, Repr

/-- What R54 says a signal shows. -/
inductive PinState where
  | low | high | highZ | pullUp | pullDown
  /-- Receiver off, 50 Ω terminated; receiver off, biased to mid-rail -/
  | receiverOff | midRail
  /-- Transmitter off; both of a pair at common mode; transmitter in electrical idle; clock off -/
  | transmitterOff | commonMode | electricalIdle | clockOff
  /-- Link training as PCIe allows -/
  | training
  /-- Comparator or loop active; oscillator running -/
  | active | running
  /-- Must be at VSS -/
  | atVss
  /-- The supply of the output is absent -/
  | unpowered
  /-- An output that nothing drives: its port is not fitted -/
  | idle
  /-- Driven by its block -/
  | driven
  deriving DecidableEq, Repr

/-- The state a signal has in reset (R54). SLK0, SLK1 and the PMIC enables have none of their own: the AON island drives them. -/
def inResetState : Signal → PinState
  | .lfDrive _ => .low | .lfSense _ => .highZ
  | .uhfRfin _ => .receiverOff | .uhfRfout _ => .transmitterOff | .uhfTrsw _ => .low
  | .nfcTx _ => .low | .nfcRx _ => .midRail
  | .cap _ => .low | .capShield _ => .low
  | .iflTx _ => .commonMode | .iflRx _ => .highZ
  | .ang _ => .active
  | .canTxd _ => .high | .canRxd _ => .pullUp
  | .eth _ => .electricalIdle | .ethMdc => .low | .ethMdio => .pullUp
  | .hostLanes => .training | .hostPerst => .pullDown | .hostClkreq => .highZ
  | .nvmLanes _ => .electricalIdle | .nvmClk _ => .clockOff | .nvmPerst _ => .low
  | .dramCke => .low | .dramCs => .low | .dramResetN => .low
  | .cfgCsN => .high | .cfgClk => .low
  | .wake _ => .active | .tmeshOut _ => .active | .tmeshIn _ => .active
  | .xtal32k => .running | .xtal25 => .running
  | .slk _ => .driven
  | .coexReq _ => .low | .coexPri => .low | .coexGnt _ => .pullDown
  | .dsense _ => .pullDown
  | .pmicBus => .highZ | .pmicEn _ => .driven | .pmicIrqN => .pullUp
  | .dbgTck => .pullDown | .dbgTrstN => .pullDown | .dbgTms => .pullUp | .dbgTdi => .pullUp | .dbgTdo => .highZ
  | .uartTxd => .high | .uartRxd => .pullUp
  | .testmode => .atVss

/-- The rails of the I/O supply a signal has (R54), numbered as PWR_RAIL numbers them; none of them for VKEEP and VAON. -/
def ioRails : Signal → List Nat
  | .lfDrive _ => [2]
  | .uhfRfin _ | .uhfRfout _ | .uhfTrsw _ | .iflTx _ | .iflRx _ => [1]
  | .lfSense _ | .nfcTx _ | .nfcRx _ | .cap _ | .capShield _ | .ang _ | .canTxd _ | .canRxd _ | .hostPerst | .hostClkreq
  | .nvmPerst _ | .dsense _ => [0]
  | .eth _ | .hostLanes | .nvmLanes _ | .nvmClk _ => [6]
  | .ethMdc | .ethMdio | .cfgCsN | .cfgClk | .coexReq _ | .coexPri | .coexGnt _ | .dbgTck | .dbgTrstN | .dbgTms | .dbgTdi | .dbgTdo
  | .uartTxd | .uartRxd | .testmode => [5]
  | .dramCke | .dramCs => [7, 8]
  | .dramResetN => [7]
  | .wake _ | .tmeshOut _ | .tmeshIn _ | .xtal32k | .xtal25 | .slk _ | .pmicBus | .pmicEn _ | .pmicIrqN => []

/-- Signals on VKEEP, which stay powered without VAON (R54). -/
def onVkeepSupply : Signal → Bool
  | .wake _ | .tmeshOut _ | .tmeshIn _ | .xtal32k => true
  | _ => false

/-- The supply of a signal stands. -/
def signalPowered (s : State) (g : Signal) : Bool :=
  (s.pwr.vaon || onVkeepSupply g) && (ioRails g).all (fun r => s.pwr.railGood.getLsbD r)

/-- The way a signal goes (R54). -/
inductive Direction where
  | input | output | both | openDrain
  /-- A lane or bus that its protocol drives both ways, and an oscillator's pair -/
  | link | oscillator
  deriving DecidableEq, Repr

/-- The direction of each signal (R54). -/
def direction : Signal → Direction
  | .lfDrive _ | .uhfRfout _ | .uhfTrsw _ | .nfcTx _ | .iflTx _ | .canTxd _ | .ethMdc | .nvmClk _ | .nvmPerst _ | .dramCke | .dramCs
  | .dramResetN | .cfgCsN | .cfgClk | .tmeshOut _ | .slk _ | .coexReq _ | .coexPri | .pmicEn _ | .dbgTdo | .uartTxd => .output
  | .lfSense _ | .uhfRfin _ | .nfcRx _ | .iflRx _ | .ang _ | .canRxd _ | .hostPerst | .wake _ | .tmeshIn _ | .coexGnt _ | .dsense _
  | .pmicIrqN | .dbgTck | .dbgTrstN | .dbgTms | .dbgTdi | .uartRxd | .testmode => .input
  | .cap _ | .capShield _ | .ethMdio => .both
  | .hostClkreq | .pmicBus => .openDrain
  | .eth _ | .hostLanes | .nvmLanes _ => .link
  | .xtal32k | .xtal25 => .oscillator

/-- Ports that Hearth ROM sets up: those a download can come by, and its console (R54, R560). -/
def hearthSetsUp (s : State) : Signal → Bool
  | .hostLanes | .hostPerst | .hostClkreq | .uartTxd | .uartRxd | .pmicBus => true
  | .canTxd p | .canRxd p => p == 0 && hearthPort s pCan 0
  | .eth x => x == 0 && hearthPort s pEth 0
  | .ethMdc | .ethMdio => hearthPort s pEth 0
  | _ => false

/-- The CFG port is driven once the fuse load has ended, and every other port that a reset holds once the part is released or rests in
Parked, or Hearth ROM has set the port up (R54). -/
def heldInReset (s : State) (g : Signal) : Bool :=
  match g with
  | .cfgCsN | .cfgClk => s.pwr.start == .off || s.pwr.start == .rails || s.pwr.start == .fusing
  | .coexReq _ | .coexPri => false
  | g => s.pwr.start != .settled || (s.pwr.mode == .hearth && !hearthSetsUp s g)

/-- The board record fits the port of a signal; signals of mandatory and of unlisted ports need no entry (R75, R77). -/
def signalFitted (s : State) : Signal → Bool
  | .lfDrive n | .lfSense n => fitted s pLf n
  | .uhfRfin k | .uhfRfout k | .uhfTrsw k => fitted s pUhf k
  | .nfcTx k | .nfcRx k => fitted s pNfc k
  | .cap n => fitted s pCap n
  | .capShield m => (List.range 24).any (fun i => fitted s pCap (24 * m + i))
  | .iflTx p | .iflRx p => fitted s pIfl p
  | .ang n => fitted s pAng n
  | .canTxd p | .canRxd p => fitted s pCan p || (p == 0 && hearthPort s pCan 0)
  | .eth x => fitted s pEth x || (x == 0 && hearthPort s pEth 0)
  | .nvmLanes d | .nvmClk d | .nvmPerst d => fitted s pNvm d
  | .wake n => fitted s pWake n
  | .tmeshOut m | .tmeshIn m => fitted s pTmesh m
  | .slk n => n == 0 || (match board s with | some b => b.slk1 | none => false)
  | .coexReq m | .coexGnt m => fitted s pCoex m
  | .coexPri => fitted s pCoex 0 || fitted s pCoex 1
  | .dsense n => fitted s pDsense n
  | .ethMdc | .ethMdio | .hostLanes | .hostPerst | .hostClkreq | .dramCke | .dramCs | .dramResetN | .cfgCsN | .cfgClk | .xtal32k | .xtal25
  | .pmicBus | .pmicEn _ | .pmicIrqN | .dbgTck | .dbgTrstN | .dbgTms | .dbgTdi | .dbgTdo | .uartTxd | .uartRxd | .testmode => true

/-- What a signal shows (R54–R56): nothing of the part's own without its supply; the latch and the enables from the AON island; the
reset state in reset and on a port not fitted, which the part neither drives nor samples (R75); and otherwise what its block drives. -/
def pinState (s : State) (g : Signal) : PinState :=
  if !signalPowered s g then .unpowered
  else if !signalFitted s g then (match g with | .slk _ => .idle | g => inResetState g)
  else match g with
    | .slk _ => if isRelease (latch s) then .high else .low
    | .pmicEn k => if s.pwr.en.getLsbD k then .high else .low
    | .coexReq m => if s.radio.coexReq.getLsbD m then .high else .low
    | .coexPri => if s.radio.coexPri then .high else .low
    | g => if heldInReset s g then inResetState g else .driven

/-- How a PCIe configuration request is answered (R54, R95, R98). -/
inductive CfgAnswer where
  | noAnswer | retry | answered
  deriving DecidableEq, Repr

/-- With the link able to train, a request is answered with retry until release or Hearth mode. -/
def configAnswer (s : State) : CfgAnswer :=
  if s.host.perst || !s.pwr.railGood.getLsbD 5 || !s.pwr.railGood.getLsbD 6 || s.pwr.mode == .parked || s.pwr.mode == .dormant then
    .noAnswer
  else if s.sys.ready || (s.pwr.mode == .hearth && s.pwr.start == .settled) then .answered
  else .retry

end Sys2Proof.Machine
end

