-- ==== Sys2Proof/WellFormed.lean ====
section
/-! DEFINITION. Which commands are well formed: what their operands carry fits the field, signal or port it comes from. The
constructors' types already bound port, ring, function and register numbers; here stand the bounds the types leave to data.
A command that is not well formed cannot come from outside the part; `exec` gives it a meaning all the same. -/

namespace Sys2Proof

/-- A CAN or CAN FD data field: at most 64 B (R561). -/
def canDataFits (d : Bytes) : Bool := decide (d.length ≤ 64)

/-- An 11-bit or a 29-bit CAN identifier, the latter marked by bit 31 (log entry 14). -/
def canIdFits (i : BitVec 32) : Bool :=
  if i.getLsbD 31 then decide (i.toNat % 2 ^ 31 < 2 ^ 29) else decide (i.toNat < 2 ^ 11)

/-- A token frame: LEN is 8 bits and the CRC 16 (R269); a payload is at most 96 B. -/
def tokenFrameFits (f : TokenFrame) : Bool :=
  decide (f.len < 256) && decide (f.payload.length ≤ 96) && decide (f.crc < 2 ^ 16)

/-- A line frame: seven header bytes, at most 4,064 payload bytes in Flood and 256 in Trickle (R386), a 32-bit PCRC (R388),
the levels of four short symbols (R392). -/
def lineFrameFits (f : LineFrame) : Bool :=
  f.head.length == 7 && decide (f.payload.length ≤ if f.flood then 4064 else 256) && decide (f.pcrc < 2 ^ 32) &&
    f.levels.length == 4

/-- A payload carried in one line frame: at most 4,064 B (R386). -/
def payloadFits (m : Bytes) : Bool := decide (m.length ≤ 4064)

/-- A management message: MAP and KIND as a header holds them (R386). -/
def msgFits (m : LineMsg) : Bool := decide (m.map < 16) && decide (m.kind < 4) && payloadFits m.payload

/-- A card's type is A (0x0A) or B (0x0B), and its identifier is 4, 7 or 10 B (R341). -/
def cardIdFits (typ : Nat) (ident : Bytes) : Bool :=
  (typ == 0x0A || typ == 0x0B) && (ident.length == 4 || ident.length == 7 || ident.length == 10)

/-- What a card exchange brings: at most the 32 bits of a UID level, an SAK of 8 bits, an ATS, an ATQB and a type and identifier (R341); a
status word of 16 bits; a trailer node's STATUS 2 to 5 (R424). -/
def cardBlockFits : CardBlock → Bool
  | .atqa | .ppsOk | .attribOk | .noCard | .ack => true
  | .collision bits => decide (bits.length < 32)
  | .uid bits => decide (bits.length ≤ 32)
  | .sak v => decide (v < 256)
  | .ats b => decide (1 ≤ b.length) && decide (b.length ≤ 254)
  | .atqb b => b.length == 12 || b.length == 13
  | .activated typ ident _ => cardIdFits typ ident
  | .more b => decide (b.length ≤ 253)
  | .apdu _ sw => decide (sw < 2 ^ 16)
  | .bad => true
  | .status c => decide (2 ≤ c) && decide (c ≤ 5)

/-- A die or lane temperature within the signed 8 bits of PWR_DIE_TEMP (R605). -/
def temperatureFits (t : Int) : Bool := decide (-128 ≤ t) && decide (t ≤ 127)

/-- A position fit: an azimuth of 0 to 3,599 tenths of a degree, tones of at most eight chains, a span that does not run
backwards (R285, R298). -/
def fitFits (f : FitResult) : Bool :=
  decide (f.azReply < 3600) && decide (f.consts.length ≤ 8) && f.consts.all (fun c => decide (c < 65536)) &&
    f.phases.all (fun x => decide (x.chain < 8) && decide (x.tone < 72) && decide (x.psi < 65536))

/-- A start decision's evidence: frames and fits that fit (R316). -/
def evidenceFits (e : StartEvidence) : Bool :=
  e.tokens.all (fun t => fitFits t.2 &&
    t.1.all (fun k => decide (k.reports.length ≤ 3) &&
      (k.reply :: k.reports).all (fun x => match x with | some f => tokenFrameFits f | none => true)))

/-- An image has at most 223 chunks of 64 KiB (R543), so a block number lies below 224. -/
def flashFits : FlashResult → Bool
  | .ok => true
  | .failed b => decide (b < 224)
  | .differs b => decide (b < 224)

/-- A wear condition: Percentage Used is one byte of the SMART log (R440). -/
def wearFits : WearCause → Bool
  | .spare => true
  | .reliability => true
  | .used p => decide (p < 256)

/-- A drive's label: a DRIVE_UID of 16 B; Percentage Used one byte (R437). -/
def labelFits (l : DriveLabel) : Bool :=
  (match l.label with | some e => e.2.length == 16 | none => true) && decide (l.used < 256)

/-- One command consumes at most one slot of each ring, the one HR_CI names (R107). -/
def headsFit (h : List HeadRead) : Bool := decide ((h.map (fun x => x.ring)).Nodup)

/-- A BAR0 access has 1 to 8 bytes; which of them have an effect is R598's, not a matter of form. -/
def accessFits (size : BitVec 4) : Bool := decide (1 ≤ size.toNat) && decide (size.toNat ≤ 8)

/-- Every operand of the command fits what it comes from. -/
def Instr.wf : Instr → Bool
  | .slotConsume heads => headsFit heads
  | .roadSpeedFrame _ i d => canIdFits i && canDataFits d
  | .engineSpeedFrame _ i d => canIdFits i && canDataFits d
  | .hearthCanFrame i d => canIdFits i && canDataFits d
  | .chalReply l => l.all tokenFrameFits
  | .button f => tokenFrameFits f
  | .soundReport f => tokenFrameFits f
  | .tokenFrameDiscard f => tokenFrameFits f
  | .uhfPowerCorrection t errs => temperatureFits t && decide (errs.length ≤ 8)
  | .thermalGovernor t => temperatureFits t
  | .laneCooled _ t => temperatureFits t
  | .positionFit f _ => fitFits f
  | .start _ e => evidenceFits e
  | .cardResponse _ b _ => cardBlockFits b
  | .iflFrameReceived _ f => lineFrameFits f
  | .soundFrameReceived _ syms => syms.length == 8 && syms.all (fun y => y.length == 1056)
  | .iflLoad _ m => msgFits m
  | .soundReq _ m => msgFits m
  | .tick _ m => msgFits m
  | .beaconReceived _ m => payloadFits m
  | .roll _ _ m => payloadFits m
  | .join _ m => payloadFits m
  | .assign _ m => payloadFits m
  | .joined _ m => payloadFits m
  | .profile _ m => payloadFits m
  | .decoupled _ m => payloadFits m
  | .dataFrame _ m => payloadFits m
  | .ack _ m => payloadFits m
  | .onwardLost _ m => payloadFits m
  | .readerRequest m => payloadFits m
  | .lfRequest m => payloadFits m
  | .epochs m => payloadFits m
  | .revoked m => payloadFits m
  | .held _ m => payloadFits m
  | .offer _ m => payloadFits m
  | .need _ m => payloadFits m
  | .piece _ m f => payloadFits m && flashFits f
  | .transportStatus _ m => payloadFits m
  | .sched _ m => payloadFits m
  | .unsched _ m => payloadFits m
  | .driveReady _ l => labelFits l
  | .driveWear _ c => wearFits c
  | .stage _ _ f => flashFits f
  | .hearthDownloadEnd f => flashFits f
  | .highHalfLatch _ _ size => accessFits size
  | .registerWrite _ _ size _ => accessFits size
  | .vaonGood | .vaonBrownOut | .aonSupplyChangeover | .aonLoss | .vkeepLow _ | .vcoreBrownOut _
  | .dramRailFault _ | .portRailFault _ | .linkRailFault _ | .railGoodReturn _ | .enableGroupGood _
  | .enableGroupTimeout _ | .fuseLoadEnd | .configurationLoad _ | .ledgerReplay _ _ | .warmReset _
  | .watchdogExpiry | .checkpoint | .stewardTakeover _ | .pairSelfTestEnd _ | .shadowTestSlice _
  | .pwrParkReq _ | .pwrParkCancel _ | .parkedEntryIdle | .parkedEntryDrained | .driveShutdownComplete _
  | .wakePinCrossing _ _ | .wakeEvent _ | .nearListRestored | .wakeWindowEnd | .dsenseChange _ _
  | .dormancyHour | .lowBattery | .rtcAlarm | .pwrAlarmS _ _ | .wakeSlicePowerDown | .driveExit | .serviceEnd
  | .debugDurationEnd | .classBoundExpiry _ | .completionWrite _ | .consumerIndexWriteback _
  | .doorbellHrPi _ _ _ _ | .doorbellTrCi _ _ _ _ | .descriptorReadFailed _ | .tailraceWriteRefused _ _
  | .ringEnable _ | .ringDisable _ | .ringDrained _ | .moderationTimer _ | .msixUnmask _ _
  | .vfFunctionLevelReset _ | .vfEnableClear | .hostPerst _ | .nop _ | .fateInquiry _ _ | .ping _
  | .writApply _ _ | .writSettle _ | .writCheck _ _ | .writStatus _ _ | .ang0Edge _ | .ang1Edge _ | .ang2Edge _
  | .ang3Pulse _ | .crankEdgeTimeout | .wheelPulseTimeout | .speedSignalStale _ | .angleSwitchWindowEnd
  | .propHoldExpiry | .xtal25Loss | .clockSwitchWindowEnd _ | .xtal25Return | .xtal32kLoss | .xtal32kReturn
  | .rtcRcCalibrate _ | .cntEnable _ _ | .cntDisable _ _ | .cntTop _ _ | .cntCmp _ _ _ | .compareMatch _ _
  | .captureEdge _ _ | .cntCapRead _ | .timeRead _ _ | .timeSet _ | .furrowRead _ _ | .presencePoll
  | .approachPoll | .lfSegment | .lfChannelFault _ _ _ _ | .replySlotTrigger | .replyWindowEnd
  | .nfcDetection _ _ _ _ _ | .capacitiveTouch _ _ | .touchEnd _ | .electrodeStuck _ | .electrodeUnmask _ | .capGuardFault _
  | .synthFault _ | .soundBurst | .reportTrigger | .coexGrant | .coexTimeout | .coexGrantFall _ | .coexPriLead
  | .trackAgeExpiry _ | .locate _ | .trackRead _ _ | .nearEnrol _ | .nearRemove _ | .nearRead _ _
  | .zoneRead _ _ | .lockReq _ | .lockStatus _ _ | .armHoldExpiry | .ignitionOffDebounce | .releaseWindowExpiry
  | .lockHoldExpiry | .slkLedgerRetry | .stateFramePeriod | .reconciliation | .canBusOff _
  | .canBusoffRecovery _ | .canPortReturn _ | .slkMismatch _ _ | .readerRetry _ _ | .wtxRequest _ _
  | .frameWaitExpiry _ | .cardAuth _ | .sealScan _ | .sealSecure _ | .sealOpen _ | .sealRead _ | .capRead _ _
  | .iflDetSample _ _ | .soundFrame _ | .loadResend _ | .oldTableHoldEnd _ | .soundingPeriod _
  | .listenWindow _ | .windowExtensionEnd _ | .masterSilence _ | .resyncListen _ | .beacon _
  | .resendTimer _ | .supplyStepWindowEnd | .adriftHoldEnd _ | .svcStatus | .relay _ _ | .chainRead _ _
  | .recv _ _ | .append _ _ | .cusRead _ _ | .cusScan _ _ | .cusVerify _ | .cusStatus _ _
  | .nvmeWriteComplete _ _ | .nvmeCommandTimeout _ | .nvmeLinkDown _ | .driveLossDeclaration _
  | .nvmeFatalStatus _ | .nvmeLinkUp _ | .driveReadyTimeout _ | .reprotection | .eviction | .ledgerSectorFail _
  | .sectorRefillDone _ | .ledgercp | .ledgerDrain _ | .lookup _ _ _ | .grant _ _ _ | .grantCommit _ _
  | .dirLoad _ _ | .revoke _ | .revokeEpoch _ | .remove _ | .dirStatus _ _ | .dirDeltaCopied | .dirRelayLate _
  | .snapshotStart | .dirRebuild _ | .keyRoot _ | .keyDerive _ _ | .keyImport _ _ | .keyExport _ _ _
  | .keyClose _ | .keyInfo _ _ | .keyPublic _ _ | .encrypt _ _ _ | .decrypt _ _ _ | .mac _ _ _ | .macVerify _ _
  | .sealCcm _ _ _ | .openCcm _ _ _ | .laneFault _ _ | .laneRetest _ _ | .laneOverheat _ | .tamperMesh _
  | .light | .voltageGlitch | .clockGlitch | .temperatureTamper | .alarmHoldEnd | .pkeVerify _ _
  | .pointCheck _ _ | .hash _ _ _ | .random _ _ | .rngStatus _ _ | .rngSourceFailure _ _ | .rngHealthCheck _ _
  | .sourceReturn _ | .drbgReseed | .rngSelfTestEnd _ _ | .hashEngineFault _ | .push _ | .schedule _
  | .cancel _ | .cfgWrite _ _ _ _ | .updStatus _ _ | .needTimer | .transferAbandon | .schedRepeat
  | .activationCommit | .activationLapse | .handoverShadowReady | .handoverTimeout | .handoverHoldEnd
  | .trialConfirm | .updHearthGo _ _ _ | .updHearthRevert _ _ | .hearthCanStatus | .sramEccError _ _ _ _ _
  | .wakeStuck _ | .wakeUnmask _ | .coexGntStuck _ | .pmicRecoveryRetry _ | .pmicIrqStuck _ | .faultRead _ _
  | .unitTest _ _ | .bypass _ | .restore _ _ | .scrub _ _ | .driveDrain _ | .driveAdmit _ | .service _
  | .sysReset _ _ | .sysLockSetup _ _ | .upstreamNeighbourLost _ | .publicKeyEngineFault | .countReachesZero _ => true

end Sys2Proof
end

