-- ==== Sys2Proof/Tests/Slice0.lean ====
section
/-! SUPPORT. Tests: the manual's worked examples, ill-formed commands, and for every obligation states and operands that meet the
hypotheses of each of its clauses, in the order of the clauses. -/

namespace Sys2Proof.Tests

set_option maxRecDepth 100000
set_option Elab.async false

open Sys2Proof Sys2Proof.Machine

/-! ### How a test shows the hypotheses of a statement -/

def readyB (opc r : Nat) (f : Flight) (s : State) : Bool :=
  getFlight s r == some f && working s && dOpc f.raw == opc && !f.begun && f.fate == none && earlierFated s r f && queueTurn s r f &&
    fenceHolds s r f

theorem ready_of {opc r : Nat} {f : Flight} {s : State} (h : readyB opc r f s = true) : Ready opc r f s := by
  simp only [readyB, Bool.and_eq_true, beq_iff_eq, Bool.not_eq_true'] at h
  obtain ⟨⟨⟨⟨⟨⟨⟨h1, h2⟩, h3⟩, h4⟩, h5⟩, h6⟩, h7⟩, h8⟩ := h
  exact ⟨h1, h2, h3, h4, h5, h6, h7, h8⟩

def runningB (opc r : Nat) (f : Flight) (s : State) : Bool :=
  getFlight s r == some f && working s && dOpc f.raw == opc && f.begun && f.fate == none

theorem running_of {opc r : Nat} {f : Flight} {s : State} (h : runningB opc r f s = true) : Running opc r f s := by
  simp only [runningB, Bool.and_eq_true, beq_iff_eq] at h
  obtain ⟨⟨⟨⟨h1, h2⟩, h3⟩, h4⟩, h5⟩ := h
  exact ⟨h1, h2, h3, h4, h5⟩

/-- Decidable facts closed together, and one more. -/
theorem also2 {a b p : Prop} (h : a ∧ b) (hp : p) : a ∧ b ∧ p := ⟨h.1, h.2, hp⟩
theorem also3 {a b c p : Prop} (h : a ∧ b ∧ c) (hp : p) : a ∧ b ∧ c ∧ p := ⟨h.1, also2 h.2 hp⟩
theorem also4 {a b c d p : Prop} (h : a ∧ b ∧ c ∧ d) (hp : p) : a ∧ b ∧ c ∧ d ∧ p := ⟨h.1, also3 h.2 hp⟩

theorem shaped_of {s : State} (h : (counts s == partCounts) = true) : Shaped s := eq_of_beq h

def inOrderB (ty : Nat) (p : Fin 4) (m : Bytes) (s : State) : Bool :=
  counts s == partCounts && frameFits ty m && hears s p && isCoupled (getPort s p).link &&
    (linkHead m).cpl == (getPort s p).cpl && (linkHead m).hseq != 0 && (linkHead m).hseq == (getPort s p).rxNext &&
    (getPort s p).held == [] && (linkHead m).final == ownPos s

theorem inOrder_of {ty : Nat} {p : Fin 4} {m : Bytes} {s : State} (h : inOrderB ty p m s = true) : InOrder ty p m s := by
  simp only [inOrderB, Bool.and_eq_true, beq_iff_eq, bne_iff_ne] at h
  obtain ⟨⟨⟨⟨⟨⟨⟨⟨h1, h2⟩, h3⟩, h4⟩, h5⟩, h6⟩, h7⟩, h8⟩, h9⟩ := h
  exact ⟨h1, h2, h3, h4, h5, h6, h7, h8, h9⟩

def okVal {ε : Type} (x : Except ε State) : State :=
  match x with | .ok u => u | .error _ => {}
def isOk {ε : Type} (x : Except ε State) : Bool :=
  match x with | .ok _ => true | .error _ => false

theorem ok_of {ε : Type} {x : Except ε State} (h : isOk x = true) : x = .ok (okVal x) := by
  cases x with
  | ok u => rfl
  | error e => cases h

theorem okEq_of {ε α : Type} [DecidableEq α] {x : Except ε α} {a : α}
    (h : (match x with | .ok k => decide (k = a) | .error _ => false) = true) : x = .ok a := by
  cases x with
  | ok k => simpa using h
  | error e => cases h

theorem pair_of {α β : Type} {x : α × β} {a : α} (h : x.1 = a) : x = (a, x.2) := by rw [← h]

/-! ### A part in service -/

/-- Tenancy 0 with every class and namespace. -/
def tenancy0 : Tenancy := { provisioningTenancy with nsRead := 0xFFFF, nsWrite := 0xFFFF }
/-- An accepted descriptor of ring 0: its opcode, LEN, and operands by byte offset. -/
def fl (opc : Nat) (len : Nat := 0) (fields : List (Nat × Nat) := []) : Flight :=
  { ring := 0, era := 0, ten := 0, party := 0, func := 0, hrSlot := 0, trSlot := 0, stamp := 0, tAdm := 0, epochAdm := 1, lsn := 0,
    raw := BitVec.ofNat 512 (opc + len * 2 ^ 32 + (fields.map (fun e => e.2 * 2 ^ (8 * e.1))).foldl (· + ·) 0)
    ranges := [{ func := 0, addr := 0x1000, len := 4096 }, { func := 0, addr := 0x2000, len := 4096 }], rules := tenancy0 }

def allFitted : BoardRec :=
  { lf := BitVec.allOnes 48, uhf := 0xFF, paGain := List.replicate 8 0, nfc := 0xFF, cap := BitVec.allOnes 48, ifl := 0xF, ang := 0xF,
    can := 0x3F, eth := 3, nvm := 0xF, wake := 0xF, tmesh := 3, dsense := 0xFF, coex := 3, slk1 := true, pmicAddr := 0x20 }

/-- Released in Cab, at 1,000 s, with every port fitted and every rail good. -/
def up : State :=
  { pwr := { vaon := true, onVkeep := false, aonLost := false, mode := .cab, start := .settled, en := 0xF, railGood := 0x1FF }
    sys := { ready := true }
    slc := { tens := [(0, tenancy0)] }
    cfg := { board := some allFitted, power := some { pins := [], vcoreReg := 0, vcoreSlope := 10, cabDoors := 0 } }
    clk := { ns := 1000000000000 }
    sec := { starter := List.replicate 32 1, starterChk := aes (List.replicate 32 1) (zeros 16), rng := .running
             drbg := { key := List.replicate 32 1, v := zeros 16 }, reseedAt := 1000000000
             lanes := startLanes (List.replicate 20 {}) }
    slk := { reconciled := true }
    upd := { a := { st := .active }, running := some false } }

/-- Road speed 0 and engine speed 0, just heard on CAN. -/
def still : State := { up with clk := { up.clk with canRoadAt := some 1000000000000, canRpmAt := some 1000000000000 } }

/-- The same with one descriptor accepted. -/
def op (f : Flight) (s : State := up) : State := { s with host := { s.host with flights := [f] } }

/-- A custody store on drives NVMA and NVMB, of 1,000 MiB each. -/
def stocked (s : State := up) : State := { s with cus := { s.cus with
  drives := [{ st := .online, link := true, unit := some 0, cap := 1000 }, { st := .online, link := true, unit := some 1, cap := 1000 }, {}, {}]
  known := [{ uid := List.replicate 16 1 }, { uid := List.replicate 16 2 }] } }

def begunVal (x : Began) : State := match x with | .ok u => u | _ => {}
theorem begun_of {x : Began} (h : (match x with | .ok _ => true | _ => false) = true) : x = .ok (begunVal x) := by
  cases x with
  | ok u => rfl
  | waits => cases h
  | full => cases h

/-- An IFL record for four ports. -/
def lined (s : State := up) : State :=
  { s with cfg := { s.cfg with ifl := some { gains := [(0, 0, 0), (1, 0, 0), (2, 0, 0), (3, 0, 0)], psd := 20, notches := [], margin := 6, trickleQpsk := false } } }
/-- A node that has joined, on segment `p` of the tractor. -/
def nodeOn (p : Nat) : Node := { uid := 77, parent := 0, parentPort := 0, tport := p, kind := 1, readers := 2, lf := 3, cpl := 9, joined := true }
def noded (p : Nat) (s : State := lined) : State := { s with ifl := { s.ifl with nodes := [(1, nodeOn p)] } }
/-- The part in trailer role, at position 2. -/
def trailing (s : State := lined) : State :=
  { s with sys := { s.sys with trailer := true }, ifl := { s.ifl with ownPos := some 2, ownCpl := 5 } }
/-- A link frame. -/
def lframe (ty final orig hseq cpl : Nat) (body : Bytes) : Bytes := le 1 ty ++ le 1 (16 * final + orig) ++ be 2 hseq ++ be 4 cpl ++ body

/-- LF and UHF records for every fitted channel and chain, a zone table, and a token 7 on the Near list. -/
def lfRecord : LfRec :=
  { carrier := 60, vwp := 0x1234, chans := (List.range 48).map (fun i =>
      { ch := i, x := 0, y := 0, z := 0, axis := 0, loc := i % 4, ilim := 100, peMin := 1, peMax := 200 }) }
def uhfRecord : UhfRec :=
  { bandPlan := 0, chains := (List.range 8).map (fun i => { chain := i, x := 0, y := 0, z := 0, calDelay := 0, calPhase := 0 }), txpData := 40
    txpTone := 40, txDuty := 0, coexUse := [0, 0], coexTmo := 20, rangeMax := 4000, lfTol := 10, lfHref := (List.range 48).map (fun i => (i, 100)), trackAge := 30 }
def square (id : Nat) (cab door exterior : Bool) (x : Int) : Zone :=
  { id := id, cab := cab, door := door, exterior := exterior, handleCap := if door then 47 else 0xFF, handleLf := if door then 47 else 0xFF
    zMin := 0, zMax := 300, verts := [(x, 0), (x + 200, 0), (x + 200, 200), (x, 200)] }
def zoneTable : ZoneTable :=
  { tableId := 1, hyst := 10, zones := [square 0 true false false 0, square 1 false true true 200, square 2 false false true 400], body := zeros 160 }
def token7 : NearEntry := { tid := 7, key := List.replicate 16 1, tcnt := 100, zones := 0xFFF, actions := 0xFF, owner := 0 }
def aired (s : State := up) : State :=
  { s with cfg := { s.cfg with lf := some lfRecord, uhf := some uhfRecord }, radio := { s.radio with zones := some zoneTable, near := [token7] } }
/-- Parked, with the wake slice powered. -/
def parked (s : State) : State :=
  { s with pwr := { s.pwr with mode := .parked, en := 3, railGood := 0x7F, slice := some 999999500 }, sys := { s.sys with ready := false } }
/-- A token frame with its CRC. -/
def tframe (payload : Bytes) (turn : Int := 32000) : TokenFrame :=
  { sync := true, len := payload.length, payload := payload, crc := crc16 (le 1 payload.length ++ payload), turn := turn, snr := 30 }

/-- A key of 32 bytes with its USAGE and CHILD_MASK, and a part that holds it under a handle. -/
def kdH (u c : BitVec 8) : Handle :=
  { key := List.replicate 32 7, level := 1, usage := u, childMask := c, origin := 1, subtree := 0, starterGen := 0, created := 5 }
def withH (h : Nat) (k : Handle) (s : State) : State :=
  { s with sec := { s.sec with handles := tabPut s.sec.handles h k } }

/-! ### A signed image -/

/-- The head of an image with one chunk of one zero byte, its KEY_BLOB wrapped for the family key of `up`, signed by `imgVendor`'s key. -/
def imgHead : Bytes :=
  be 86 0x4d465354000132000102000100000001320000b10001000100000001000100030000000000000000bec021b4f368e3069134e012c2b4307083d3a9bdd206e24e5f0d86e13d6636655933ec2b413465966817a9c208a1 ++
    be 86 0x171746424c42010220020000000000000000000000000000000000000000000000000900000000000000000000000000000000000000000000000000000000000000bcf8fb50297823553fc03b9f17d268600337231f ++
    be 86 0x50536458f039533cf6c7df787b774e096575872c000000000000000000000000000000000000000000000000000000000000000000000000000000000000000000000000000000000000000000000000000000000100 ++
    be 86 0x0000000000000000000000000000020000000000000000000000000000000400000000000000000000000000000000000000000000000000000000000000000000000000000000000000000000000000000000000000 ++
    be 86 0x00000000000000000000000000000000000000000000000000000000000000000000000000000000bec021b4f368e3069134e012c2b4307083d3a9bdd206e24e5f0d86e13d6636655933ec2b413465966817a9c208a1 ++
    be 86 0x17170301000004bac458d84f98120d524369f7b20a14f071ac9af62aa0fa79602750d0baeb7f5ce63514f7a97c787db1572939a22f48d50ca63bf0e337064771d3e3011f5acb04af0b7bdb17d8b8ffacf1c8564a66f9 ++
    be 86 0x379e53b8c0987556b406d238690e039c1d0000001bc3385127805b468d24ea4874f0fcb55445897b8441c3ed018e33fd77177bfaa23b766468029d6e0a42bccd2947915b1bc3385127805b468d24ea4874f0fcb55445 ++
    be 86 0x897b8441c3ed018e33fd77177bfaa23b766468029d6e0a42bccd2947915b0000000000000000000000000000000000000000000000000000000000000000000000000000000000000000000000000000000000000000 ++
    zeros 64848
def imgVendor : Bytes := be 32 0xd8aebbc899d169e4f00a48ca2496000aa1a585442b5fb93c9a504ca401b335f6

/-- A part that has fused the hash of that vendor's key. -/
def signed (s : State) : State := { s with fuse := { s.fuse with vendors := [imgVendor] } }

theorem bootCheck_congr {s t : State} {h : Bytes} (hf : s.fuse = t.fuse) (hu : secFloor s = secFloor t) :
    bootCheck s h = bootCheck t h := by
  simp only [bootCheck, hf, hu]

theorem imageKey_congr {s t : State} {h : Bytes} (hf : s.fuse = t.fuse) : imageKey s h = imageKey t h := by
  simp only [imageKey, hf]

/-- Checks 1 to 5 of R545 on the image. -/
theorem img_boot : bootCheck (signed up) imgHead = none := by decide +kernel

/-- Check 7. -/
theorem img_key : (imageKey (signed up) imgHead).isSome = true := by decide +kernel

/-- Check 6 holds where no configuration record stands. -/
theorem headCheck_of {s : State} {x : Bytes} (h : bootCheck s x = none) (e : bankRecs s = []) : headCheck s x = none := by
  unfold headCheck
  rw [h]
  show (if List.all (List.filter _ (bankRecs s)) _ then none else some 0x25) = none
  rw [e]; rfl

theorem le_length (n v : Nat) : (le n v).length = n := by
  induction n generalizing v with
  | zero => rfl
  | succ n ih => simp [le, ih]
theorem imgHead_length : imgHead.length = 65536 := by
  simp only [imgHead, be, zeros, List.length_append, List.length_reverse, le_length, List.length_replicate]

/-- The whole image. -/
def imgData : Bytes := imgHead ++ [0]
theorem imgData_slice : slice imgData 0 65537 = imgData := by
  have h : imgData.length = 65537 := by rw [imgData, List.length_append, imgHead_length]; rfl
  rw [slice, List.drop_zero, List.take_of_length_le (by omega), h]; simp [zeros]
theorem imgData_head : slice imgData 0 65536 = imgHead := by
  have h : imgData.take 65536 = imgHead := by rw [imgData, ← imgHead_length, List.take_left]
  rw [slice, List.drop_zero, h, imgHead_length]; simp [zeros]
theorem imgData_blocks : imageBlocks imgData = [imgHead, [0]] := by
  have h : imgData.length = 65537 := by rw [imgData, List.length_append, imgHead_length]; rfl
  have t : imgData.take 65536 = imgHead := by rw [imgData, ← imgHead_length, List.take_left]
  have d : imgData.drop 65536 = [0] := by rw [imgData, ← imgHead_length, List.drop_left]
  have e : imgData.isEmpty = false := by rw [imgData]; simp
  rw [imageBlocks, h]
  simp [chunks, t, d, e]

/-! ### A board record in CFG -/

/-- A board record's bytes, signed by the Vehicle key of `boardKey`. -/
def boardBytes : Bytes :=
  be 68 0x4346475200010001000000040000000100000000000000000000000000000000000000000000000000000000000000000000000000000000000000000000000000000000 ++
    be 68 0x0101000004725134d921fc85d8f8f1fea896b8222b3ec3abc129a0f474b641ae17280e1c924d59caae6bc5e8a5bffb09b72b4aa7469097373b7a1a62144d82881aa29c27 ++
    be 68 0x7aaca0bb9d1968ecc80f4cb71fc0f75e38d146bbfa4e222eb14d21d7bfb245341100000021e3c1ee33e2b12f15b74376ae6b2d0ce95187018cf3b815c195a6862d099013 ++
    be 68 0x8944859b4c8afdda4e17fb72e69f252821e3c1ee33e2b12f15b74376ae6b2d0ce95187018cf3b815c195a6862d0990138944859b4c8afdda4e17fb72e69f252800000000 ++ zeros 52
def boardKey : Bytes := be 32 0x85a65dcb96588b50ad3becca35c20458519e3c607cd733d4e0419548a40c00d6
/-- Hearth mode, with that record in bank 0. -/
def inHearth : State := { up with
  pwr := { up.pwr with mode := .hearth }, sys := { up.sys with ready := false }
  slc := { up.slc with wardens := [{ role := 1, alg := 1, keyHash := boardKey }] }
  upd := { up.upd with running := none, bank0 := [{ type := 1, format := 1, gen := 1, target := 0, body := .board allFitted, bytes := boardBytes }] } }
theorem hearth_board : boardInCfg inHearth = some allFitted := by decide +kernel
/-- The record stands whatever else the download does. -/
theorem hearthPort_of {s : State} {k n : Nat} (hf : s.fuse = inHearth.fuse) (hw : s.slc.wardens = inHearth.slc.wardens)
    (h0 : s.upd.bank0 = inHearth.upd.bank0) (h1 : s.upd.bank1 = inHearth.upd.bank1) (hr : s.upd.running = none)
    (h : (s.pwr.mode == .hearth && (boardOk allFitted && bit (fittedMap allFitted k) n) && clockServes s k && railServes s k) = true) :
    hearthPort s k n = true := by
  have e : boardInCfg s = some allFitted := by
    refine Eq.trans ?_ hearth_board
    have hr' : inHearth.upd.running = none := rfl
    simp only [boardInCfg, bestRec, bankRecs, recValid, runHead, recTargetOk, uidBytes, recSignerKnown, signerKnown, hf, hw, h0, h1, hr, hr', Option.map_none]
  rw [hearthPort, e]
  exact h

/-! ### The manual's worked examples -/

/-- The check value of the CRC-16 of R388 and of the token frames: "123456789". -/
theorem test_crc16 : crc16 [0x31, 0x32, 0x33, 0x34, 0x35, 0x36, 0x37, 0x38, 0x39] = 0x29B1 := by decide +kernel

/-- The header of a link frame of 1,500 B under table 3 from position 0 to position 1 (the example of chapter 11). -/
theorem test_header : headBytes 4 3 0 1 0 1500 = [0x14, 0x30, 0x11, 0x77, 0x00, 0x55, 0x24] := by decide +kernel

/-- The CRC of the WAKE_CHAL of chapter 7's example. -/
theorem test_crc8 : crc8 [0xA5, 0x3C, 0x11, 0x7E, 0x21, 0x94, 0xC0, 0x5B, 0xD3] = 0xC1 := by decide +kernel

/-- The example of stamps in chapter 5: appends of 412 B at WEIGHT 32, cipher operations of 4,096 B at WEIGHT 8. -/
def append412 : BitVec 512 := (fl 0x0600 412).raw
def cipher4k : BitVec 512 := (fl 0x0900 4096).raw
theorem test_cost : cost append412 = 263 ∧ cost cipher4k = 128 := by decide +kernel
theorem test_stamps : stampOf 10000 10000 32 append412 = (10000, 12104) ∧ stampOf 10000 10000 8 cipher4k = (10000, 14096) ∧
    stampOf 12104 12104 32 append412 = (12104, 14208) ∧ stampOf 14096 14096 8 cipher4k = (14096, 18192) := by decide +kernel

/-- Chapter 6's engine at 2,400 rpm, `t` ns after TDC1. -/
def farmTable : FurrowTable :=
  { tableId := 1, cyl := 6, cycleRevs := 2, tdcOffset := 1092, guardUs := 100, accMax := 3000, propTeeth := 8, propWiden := 512
    propHoldS := 30, wheelPulsesKm := 31250
    entries := [{ start := 7936, length := 400, inUs := false, perCyl := true, source := 1 }, { start := 144, length := 600, inUs := true, perCyl := true, source := 1 }] }
def afterTdc1 (t : Nat) : State :=
  let a := 65520 + t * 4096 / 416666
  let crank : Crank := { sync := true, per := some 416666, tooth := a / 4096, last := some (1000000000000 + t - a % 4096 * 416666 / 4096) }
  { aired with clk := { up.clk with ns := 1000000000000 + t, table := farmTable, ref := .crank, crank := crank, cam := { known := true } } }
/-- A grant within 0.2 µs of a time of the example, which gives tenths of a microsecond. -/
def granted (g : Grant) (ns : Nat) : Bool :=
  match g with | .at t => decide (t ≤ ns + 200) && decide (ns ≤ t + 200) | _ => false
/-- The two LF segments: 1,580.5 µs and 9,921.9 µs after TDC1. -/
theorem test_furrow_first : granted (furrowGrant (afterTdc1 0) 4000000 1000000000000) 1000001580500 = true := by decide +kernel
theorem test_furrow_second : granted (furrowGrant (afterTdc1 5580500) 4000000 1000006092500) 1000009921900 = true := by decide +kernel
/-- The sounding of chapter 8's example: 28 tones fit first, and the other 7 come after the next noise. -/
theorem test_sounding_plan : (planBursts (afterTdc1 0) 35 1000000000000).map (·.2) = some [28] ∧
    (planBursts (afterTdc1 6634500) 7 1000006634500).map (·.2) = some [7] := by decide +kernel

/-- Chapter 6's counter: at 1,000 going UP, a compare of 999 fires at once and one of 1,001 never. -/
theorem test_compare :
    (cntCmpWrite false 999 { en := true, top := 1000, count := 1000 }).hit0 = true ∧
      (cntCmpWrite true 1001 { en := true, top := 1000, count := 1000 }).hit1 = false := by decide +kernel

/-- Chapter 9's state frame after a LOCK_REQ with the engine running: 01 04 01 02 00 01 2A 40 before its MAC. -/
def idling : State := { still with
  clk := { still.clk with canRpm := 650 * 65536 }
  slk := { still.slk with code := 0xC3, comp := 0x3C, cause := 0x02, freshState := 0x12A3F, policy := { still.slk.policy with framePort := 1, frameAlt := 2 } } }
def canHead (o : Out) : Bytes := match o with | .can 1 _ b => b.take 8 | _ => []
theorem test_lock_frame : (sendState idling).outs.map canHead = [[0x01, 0x04, 0x01, 0x02, 0x00, 0x01, 0x2A, 0x40]] := by decide +kernel
theorem test_lock_request : requestTarget 0x02 { idling with slk := { idling.slk with code := 0xA5, comp := 0x5A } } = some .deferred := by decide +kernel
/-- RESULT of the example's START: RUNNING, zone 0, TID 0x4A10_0008. -/
theorem test_start_result : latchNo .running + 256 * 0 + 65536 * 0x4A100008 = 0x4A1000080003 := by decide +kernel

/-- Handle 0x00C0_0012_0041 of chapter 15: tenancy 3, generation 0x12, slot 0x41. -/
theorem test_handle : handleTen 0xC000120041 = 3 ∧ handleGen 0xC000120041 = 0x12 ∧ handleSlot 0xC000120041 = 0x41 := by decide +kernel

/-- Chapter 18's lane 6: its third fault in 24 h retires it, lane 17 (58 °C) comes in, and the record says so. -/
def lanes6 : State := { up with sec := { up.sec with
  lanes := (List.range 20).map (fun l => if l = 6 then { st := .active, faults := [999000000, 999500000] }
    else if l < 16 then { st := .active } else { st := .spare, temp := nth 0 [61, 58, 63, 60] (l - 16) }) }
                                flt := { up.flt with hits := [{ unit := 0x206, code := 2, at_ := 999000000 }, { unit := 0x206, code := 2, at_ := 999500000 }] } }
theorem test_lane_retired : (match exec (.laneFault 6 none) lanes6 with
    | .next t => (t.flt.faults.map (fun e => [e.unitType, e.unitIndex, e.code, e.severity, e.action, e.detail, e.count, e.arg])).getLast?
    | _ => none) = some [0x02, 0x06, 0x02, 1, 0x03, 0x00, 3, 17] := by decide +kernel

/-- Chapter 20's governor: 122 °C, 124 °C and 126 °C raise the level; level 2 holds above 121 °C and level 3 above 123 °C. -/
theorem test_governor : nextLevel 0 122 = 1 ∧ nextLevel 1 124 = 2 ∧ nextLevel 2 125 = 2 ∧ nextLevel 2 126 = 3 ∧ nextLevel 3 124 = 3 ∧
    nextLevel 3 123 = 2 := by decide +kernel

/-- Chapter 19's reads after a cold start: SYS_ID, SYS_STATUS, and SLC_TEN_BIND of a tenancy that does not exist. -/
def coldStarted : State := { up with sys := { up.sys with resetCause := 1 }, host := { up.host with funcs := [(0, { selTen := 0 })] } }
theorem test_sys_registers : regWord coldStarted 0 0 = 0x320000B1 ∧ regWord coldStarted 0 4 = 0x101 := by decide +kernel

/-- The image of chapter 17's example: 9,437,184 B are 144 chunks, and STAGE into slot B answers 0x0_0001_0090. -/
theorem test_image_result : ceilDiv 9437184 65536 = 144 ∧ 144 + 65536 * ofBool true = 0x10090 := by decide +kernel

/-- The frames of chapter 11's example: the SOUND frame lasts 588.80 µs, the LOAD in MAP 0x3 358.40 µs. -/
theorem test_frame_times : airNs (frameSymbols lined 8 [] (headBytes 8 0 0 1 1 0) []) = 588800 ∧
    airNs (frameSymbols lined 3 [] (headBytes 3 0 1 0 1 536) (zeros 536)) = 358400 := by decide +kernel
/-- PN9 by its recurrence, and a point of 8-QAM, four levels by two (R385, R389). -/
theorem test_pn9 : (pn9 20).drop 9 = [false, false, false, false, false, true, true, true, true, false, true] := by decide +kernel
theorem test_8qam : qam [true, false, true] = ⟨3, 1, 6⟩ := by decide +kernel

/-- R54–R56 in DEFERRED: SLK0 is high, the DRAM's CKE low until release, and COEX_REQ0 is unpowered without VIO18. -/
theorem test_pins :
    pinState { up with slk := { up.slk with code := 0xC3, comp := 0x3C } } (.slk 0) = .high ∧
      pinState { up with pwr := { up.pwr with start := .config } } .dramCke = .low ∧
      pinState { up with pwr := { up.pwr with railGood := 0x1DF }, radio := { up.radio with coexReq := 1 } } (.coexReq 0) = .unpowered := by
  decide +kernel
/-- A configuration request is answered with retry until release (R54). -/
theorem test_config_retry : configAnswer { up with pwr := { up.pwr with start := .replay }, sys := { up.sys with ready := false } } = .retry ∧
    configAnswer up = .answered := by decide +kernel

/-! ### Published vectors of the ciphers and hashes -/

/-- FIPS 197, appendix C.1. -/
theorem test_aes : aes (be 16 0x000102030405060708090A0B0C0D0E0F) (be 16 0x00112233445566778899AABBCCDDEEFF) =
    be 16 0x69C4E0D86A7B0430D8CDB78070B4C55A := by decide +kernel
/-- RFC 4493, the empty message. -/
theorem test_cmac : cmac (be 16 0x2B7E151628AED2A6ABF7158809CF4F3C) [] = be 16 0xBB1D6929E95937287FA37D129B756746 := by decide +kernel
/-- FIPS 180-4, "abc". -/
theorem test_sha256 : sha256 [0x61, 0x62, 0x63] = be 32 0xBA7816BF8F01CFEA414140DE5DAE2223B00361A396177A9CB410FF61F20015AD := by decide +kernel
theorem test_sha384 : sha384 [0x61, 0x62, 0x63] =
    be 48 0xCB00753F45A35E8BB5A03D699AC65007272C32AB0EDED1631A8B605A43FF5BED8086072BA1E7CC2358BAECA134C825A7 := by decide +kernel

/-- NIST's CTR_DRBG with AES-256, the derivation function and no prediction resistance: the second 64 bytes, by their ends. -/
def nistDrbg : Drbg := drbgNew (be 32 0x36401940fa8b1fba91a1661f211d78a0b9389a74e5bccfece8d766af1a6d3b14) (be 16 0x496f25b0f1301b4f501be30380a137eb)
theorem test_drbg : let out := drbgOut (drbgAfter nistDrbg 64) 64
    out.take 6 = be 6 0x5862eb38bd55 ∧ out.drop 61 = be 3 0xf07e1d := by decide +kernel

/-! ### Ill-formed commands, one for each check of WellFormed -/

def slot0 : HeadRead := { ring := 5, raw := 0 }
theorem test_wf_heads : (Instr.slotConsume [slot0, slot0]).wf = false := by decide +kernel
theorem test_wf_can_data : (Instr.roadSpeedFrame 0 0x123 (zeros 65)).wf = false := by decide +kernel
theorem test_wf_can_id : (Instr.engineSpeedFrame 0 0x800 (zeros 8)).wf = false ∧ (Instr.engineSpeedFrame 0 0x80000800 (zeros 8)).wf = true := by
  decide +kernel
theorem test_wf_token_frame : (Instr.chalReply [tframe (zeros 97)]).wf = false := by decide +kernel
theorem test_wf_line_frame :
    (Instr.iflFrameReceived 0 ⟨0, false, zeros 7, zeros 257, 0, List.replicate 4 none, 0, [], false, 0⟩).wf = false := by decide +kernel
theorem test_wf_payload : (Instr.decoupled 0 (zeros 4065)).wf = false := by decide +kernel
theorem test_wf_message : (Instr.iflLoad 0 ⟨16, 0, zeros 536⟩).wf = false := by decide +kernel
theorem test_wf_card_id : (Instr.cardResponse 0 (.activated 0x0C (zeros 4) [2]) true).wf = false := by decide +kernel
theorem test_wf_card_block : (Instr.cardResponse 0 (.uid (List.replicate 33 true)) true).wf = false := by decide +kernel
theorem test_wf_temperature : (Instr.thermalGovernor 128).wf = false := by decide +kernel
theorem test_wf_chains : (Instr.uhfPowerCorrection 0 (List.replicate 9 0)).wf = false := by decide +kernel
theorem test_wf_fit :
    (Instr.positionFit { pos := none, sigma := 0, consts := [], phases := [], azReply := 3600 } true).wf = false := by
  decide +kernel
theorem test_wf_evidence : (Instr.start 0 { tokens := [([⟨some (tframe (zeros 97)), []⟩],
    { pos := none, sigma := 0, consts := [], phases := [], azReply := 0 })], cards := [] }).wf = false := by
  decide +kernel
theorem test_wf_subcarriers : (Instr.soundFrameReceived 0 (List.replicate 8 (List.replicate 1055 (0, 0)))).wf = false := by decide +kernel
theorem test_wf_flash : (Instr.stage 0 .failed (.failed 224)).wf = false := by decide +kernel
theorem test_wf_wear : (Instr.driveWear 0 (.used 256)).wf = false := by decide +kernel
theorem test_wf_label : (Instr.driveReady 0 { label := some (0, zeros 15), cap := 1, used := 0, temp := 0 }).wf = false := by decide +kernel
theorem test_wf_access : (Instr.highHalfLatch 0 0 0).wf = false := by decide +kernel

/-! ### Statements about every step -/

/-- The state a step or a command answers. -/
def nextVal (x : Host.Outcome State Fault Refusal) : State := match x with | .next t => t | _ => {}
theorem next_of {x : Host.Outcome State Fault Refusal} (h : (match x with | .next _ => true | _ => false) = true) : x = .next (nextVal x) := by
  cases x with
  | next t => rfl
  | fault e => cases h
  | refused e => cases h

/-- A state with one command waiting. -/
def queue (c : Instr) (s : State := up) : State := { s with pending := [c] }

/-- ARM_HOLD_S ends in 1 ms. -/
def armed : State := { up with slk := { up.slk with code := 0x5A, comp := 0xA5, timerKind := 1, timerEnd := some 1000001000 } }

/-- EmptyQueueLetsTimePass. -/
theorem witness_G2 : ∃ s : State, s.pending = [] := ⟨up, rfl⟩

/-- EveryStepKeeps, EveryStepKeepsTheUnits: the hold of an armed latch ends. -/
theorem witness_G4 : ∃ s t : State, Shaped s ∧ step s = .next t :=
  ⟨queue .armHoldExpiry armed, _, shaped_of (by decide +kernel), next_of (by decide +kernel)⟩

/-- LatchCodeStaysLegal, LatchMovesAreRecorded: the same step. -/
theorem witness_G7 : ∃ s t : State, (s.slk.comp = ~~~ s.slk.code ∧ s.slk.code ∈ [0x3C#8, 0x5A#8, 0x96#8, 0xA5#8, 0xC3#8]) ∧
    step s = .next t ∧ latch t ≠ latch s :=
  ⟨queue .armHoldExpiry armed, _, by decide +kernel, next_of (by decide +kernel), by decide +kernel⟩

/-- SecFloorNeverDecreases: a trial is confirmed; a head below the journal's floor alone, and one below the ledger's alone. -/
def confirming : State := queue .trialConfirm { up with upd := { up.upd with
  b := { st := .trial, blocks := [(0, imgHead)] }, trialSince := some 700000000 } }
theorem witness_G9a : ∃ s t : State, step s = .next t := ⟨confirming, _, next_of (by decide +kernel)⟩
theorem witness_G9b : ∃ (s : State) (h : Bytes), hSecVer h < s.upd.secFloor :=
  ⟨{ up with upd := { up.upd with secFloor := 1 } }, [], by decide +kernel⟩
theorem witness_G9c : ∃ (s : State) (h : Bytes), hSecVer h < s.upd.ledgerFloor :=
  ⟨{ up with upd := { up.upd with ledgerFloor := 2 } }, imgHead, by decide +kernel⟩

/-- NewFaultRecord: an ALARM at the limit of FLT_IRQ_SEV, its vector open; the same, masked; and one below the limit. -/
def heard (sev : BitVec 2) (masked : Bool) : State :=
  { up with flt := { up.flt with irqEn := true, irqSev := sev, irqVec := 1 }, slc := { up.slc with vecs := [(0, 2)] }
            host := { up.host with funcs := [(0, { msixEn := true })], vecs := [(vecKey 0 1, { masked := masked })] } }
theorem witness_G10a : ∃ s : State, canLog (.fault (s.flt.lastNo + 1)) s = true ∧ s.flt.irqEn = true ∧ s.flt.irqSev.toNat ≤ sAlarm ∧
    s.flt.irqVec.toNat < vecsOf s 0 ∧ vecOpen s 0 s.flt.irqVec.toNat = true :=
  ⟨heard 3 false, by decide +kernel⟩
theorem witness_G10b : ∃ s : State, canLog (.fault (s.flt.lastNo + 1)) s = true ∧ s.flt.irqEn = true ∧ s.flt.irqSev.toNat ≤ sAlarm ∧
    s.flt.irqVec.toNat < vecsOf s 0 ∧ ¬ vecOpen s 0 s.flt.irqVec.toNat = true :=
  ⟨heard 3 true, by decide +kernel⟩
theorem witness_G10c : ∃ s : State, canLog (.fault (s.flt.lastNo + 1)) s = true ∧ s.flt.irqEn = true ∧ sInfo < s.flt.irqSev.toNat :=
  ⟨heard 3 false, by decide +kernel⟩

/-- OneFaultRecordPerSecond: a unit with a record of half a second ago, and one without. -/
def faulty : State := { up with flt := { up.flt with
  faults := [{ no := 1, tMono := 999500000, unitType := 3, unitIndex := 2, code := 2, severity := 0, action := 0, detail := 0, count := 1, arg := 0 }]
  lastNo := 1, hits := [{ unit := 3 * 256 + 2, code := 2, at_ := 999500000 }] } }
theorem witness_G11a : ∃ (ty ix code : Nat) (s : State), faultLimited s ty ix code = true ∧ faultCount s (ty * 256 + ix) code < 0xFFFF :=
  ⟨3, 2, 2, faulty, by decide +kernel⟩
theorem witness_G11b : ∃ (ty ix code : Nat) (s : State), canLog (.fault (s.flt.lastNo + 1)) s = true ∧ faultLimited s ty ix code = false :=
  ⟨3, 2, 3, faulty, by decide +kernel⟩

/-- EngineRunsWithoutRelease: 800 min⁻¹ by CAN while the latch is LOCKED, before and after the record of this engine run. -/
def driven (done : Bool) : State := { still with clk := { still.clk with canRpm := 800 * 65536 }, slk := { still.slk with noReleaseDone := done } }
theorem witness_G12a : ∃ s : State, s.pwr.mode ≠ .hearth ∧ s.slk.reconciled = true ∧ engineRunning s = true ∧
    (latch s = .locked ∨ latch s = .armed) ∧ s.slk.noReleaseDone = false ∧
    canLog (.part (stampPart { kind := 0x04, tid := s.slk.bound } s)) s = true :=
  ⟨driven false, by decide +kernel⟩
theorem witness_G12b : ∃ s : State, s.pwr.mode ≠ .hearth ∧ s.slk.reconciled = true ∧ engineRunning s = true ∧
    (latch s = .locked ∨ latch s = .armed) ∧ s.slk.noReleaseDone = true :=
  ⟨driven true, by decide +kernel⟩

/-- HearthEntryIsReported: the watchdog expires; a release with a record owed. -/
theorem witness_G13a : ∃ s t : State, step s = .next t ∧ s.pwr.mode ≠ .hearth ∧ t.pwr.mode = .hearth :=
  ⟨queue .watchdogExpiry, _, next_of (by decide +kernel), by decide +kernel⟩
theorem witness_G13b : ∃ s : State, s.flt.hearthOwed = true ∧ canLog (.fault (s.flt.lastNo + 1)) s = true :=
  ⟨{ up with flt := { up.flt with hearthOwed := true, hearthCause := 3 } }, by decide +kernel⟩

/-- FailedHeadraceRead, EnabledRingStartsAtZero: ring 4095 running with a slot to read, and ring 0 disabled. -/
def setup6 : RingSetup := { hrBase := 0x10000, trBase := 0x20000, ciwb := 0x30000, hrLog := 6, trLog := 6 }
def ringAt (g : Nat) (x : Ring) : State := { up with host := { up.host with rings := [(g, x)] } }
theorem witness_G14 : ∃ (g : Fin 4096) (s : State), released s = true ∧ (getRing s g.val).st = .running ∧
    (getRing s g.val).hrPi ≠ (getRing s g.val).hrCi :=
  ⟨4095, ringAt 4095 { setup := setup6, st := .running, hrPi := 1 }, by decide +kernel⟩
theorem witness_G15 : ∃ (func : Fin 64) (g : Nat) (s : State), selectedRing s func.val = some g ∧ released s = true ∧
    (getRing s g).st = .disabled ∧ enableError s func.val (getFunc s func.val).selTen.toNat (getRing s g).setup = 0 :=
  ⟨0, 0, ringAt 0 { setup := setup6, hrPi := 5, hrCi := 5, seqHi := 9 }, by decide +kernel⟩

/-- FateIsGivenOnce, OtherDescriptorsStand: two descriptors, the first without a fate, the second with one. -/
def two : State := { up with host := { up.host with flights := [fl 0x0100, { fl 0x0100 with fate := some (done 0) }] } }
theorem witness_G16a : ∃ (r : Nat) (f : Flight) (s : State), getFlight s r = some f ∧ f.fate = none :=
  ⟨0, fl 0x0100, two, by decide +kernel⟩
theorem witness_G16b : ∃ (r : Nat) (f : Flight) (s : State), getFlight s r = some f ∧ f.fate ≠ none :=
  ⟨1, { fl 0x0100 with fate := some (done 0) }, two, by decide +kernel⟩
theorem witness_G16c : ∃ (r i : Nat) (g : Flight) (s : State), i ≠ r ∧ getFlight s i = some g ∧ g.dupOf ≠ some r :=
  ⟨0, 1, { fl 0x0100 with fate := some (done 0) }, two, by decide +kernel⟩
theorem witness_G17 : ∃ (c : Instr) (r i : Nat) (g : Flight) (s t : State), servesOnly c = some r ∧ i ≠ r ∧ getFlight s i = some g ∧
    g.dupOf ≠ some r ∧ exec c s = .next t :=
  ⟨.nop 0, 0, 1, { fl 0x0100 with fate := some (done 0) }, two, _, by decide +kernel, by decide +kernel, by decide +kernel,
    by decide +kernel, next_of (by decide +kernel)⟩

/-- FellowsStand: one command of each group, on the highest number, and a fellow of it. -/
theorem witness_G18a : ∃ (g : Fin 4096) (i : Nat) (s t : State), i ≠ g.val ∧ exec (.descriptorReadFailed g) s = .next t :=
  ⟨4095, 0, ringAt 4095 { setup := setup6, st := .running, hrPi := 1 }, _, by decide +kernel, next_of (by decide +kernel)⟩
theorem witness_G18b : ∃ (func : Fin 64) (ten : Fin 1024) (j : Fin 64) (v : BitVec 32) (i : Nat) (s t : State),
    ringOf s ten.val j.val ≠ some i ∧ exec (.doorbellHrPi func ten j v) s = .next t :=
  ⟨0, 0, 63, 1, 0, ringAt 63 { setup := setup6, st := .running }, _, by decide +kernel, next_of (by decide +kernel)⟩
theorem witness_G18c : ∃ (func : Fin 64) (v : BitVec 32) (i : Nat) (s t : State), i ≠ s.clk.cntSel.toNat ∧ exec (.cntEnable func v) s = .next t :=
  ⟨0, 3, 15, up, _, by decide +kernel, next_of (by decide +kernel)⟩
theorem witness_G18d : ∃ (d i : Fin 4) (s t : State), i ≠ d ∧ exec (.nvmeLinkDown d) s = .next t :=
  ⟨0, 3, stocked, _, by decide +kernel, next_of (by decide +kernel)⟩
theorem witness_G18e : ∃ (l i : Fin 20) (s t : State), i ≠ l ∧ exec (.laneOverheat l) s = .next t :=
  ⟨0, 19, up, _, by decide +kernel, next_of (by decide +kernel)⟩
theorem witness_G18f : ∃ (l i : Fin 4) (c : RngCause) (s t : State), i ≠ l ∧ exec (.rngSourceFailure l c) s = .next t :=
  ⟨0, 3, .rct, up, _, by decide +kernel, next_of (by decide +kernel)⟩

/-! ### SuppliesAndRails -/

namespace Rails

def off : State := { up with pwr := { up.pwr with vaon := false, start := .off, en := 0, railGood := 0 } }

/-- States and operands that meet the hypotheses of each clause of SuppliesAndRails; clause 3 has none. -/
theorem witness :
    (∃ (s : State), (s.pwr.vaon = false)) ∧
    (∃ (s : State), (s.pwr.vaon = true)) ∧
    (∃ (s : State), (s.pwr.vaon = false)) ∧
    (∃ (s : State), (s.pwr.vaon = true)) ∧
    (∃ (s : State), (s.pwr.vaon = true) ∧ (s.pwr.en.getLsbD 1 = true)) ∧
    (∃ (vddq : Bool) (s : State), (s.pwr.railGood.getLsbD (7 + ofBool vddq) = true)) ∧
    (∃ (rail : PortRail) (n : Nat) (s : State), (n = (match rail with | .vio33 => 0 | .vrf => 1 | .vlfdrv => 2)) ∧
        (s.pwr.railGood.getLsbD n = true)) ∧
    (∃ (serdes : Bool) (s : State), (s.pwr.railGood.getLsbD (5 + ofBool serdes) = true)) ∧
    (∃ (rail : Fin 9) (s : State), (s.pwr.en.getLsbD (railGroup rail.val) = true) ∧ (s.pwr.start = .settled) ∧
        (s.pwr.railGood.getLsbD rail.val = false)) ∧
    (∃ (g : Fin 4) (s : State), (s.pwr.en.getLsbD g.val = true) ∧ (groupGood s g.val = false)) ∧
    (∃ (g : Fin 4) (s : State), (s.pwr.en.getLsbD g.val = true) ∧ (groupGood s g.val = false)) :=
  ⟨⟨off, by decide +kernel⟩,
   ⟨up, by decide +kernel⟩,
   ⟨off, by decide +kernel⟩,
   ⟨up, by decide +kernel⟩,
   ⟨up, by decide +kernel⟩,
   ⟨true, up, by decide +kernel⟩,
   ⟨.vlfdrv, _, up, rfl, by decide +kernel⟩,
   ⟨true, up, by decide +kernel⟩,
   ⟨8, { up with pwr := { up.pwr with railGood := 0x0FF } }, by decide +kernel⟩,
   ⟨3, { up with pwr := { up.pwr with railGood := 0x07F } }, by decide +kernel⟩,
   ⟨3, { up with pwr := { up.pwr with railGood := 0x07F } }, by decide +kernel⟩⟩

end Rails

/-! ### StartUpAndReset -/

namespace StartUp

def starting (p : Start) : State := { up with pwr := { up.pwr with start := p }, sys := { up.sys with ready := false } }
def imaged : State := { signed (starting .fusing) with upd := { up.upd with a := { st := .active, blocks := [(0, imgHead)] } } }
theorem imaged_bootable : bootable imaged false = true := by
  have h1 : (bootCheck imaged imgHead).isNone = true := by rw [bootCheck_congr (s := imaged) (t := signed up) rfl rfl, img_boot]; rfl
  have h2 : (imageKey imaged imgHead).isSome = true := by rw [imageKey_congr (s := imaged) (t := signed up) rfl, img_key]
  have h3 : slotHead (getSlot imaged false) = imgHead := rfl
  simp only [bootable, h3, h1, h2, Bool.and_self, Bool.true_and]
  decide +kernel
theorem imaged_boots : bootChoice imaged = (some false, imaged) := by
  have h : trySlot false imaged = (some false, imaged) := by
    unfold trySlot
    rw [if_pos (by rw [imaged_bootable]; decide +kernel)]
  exact h

/-- States and operands that meet the hypotheses of each clause of StartUpAndReset. -/
theorem witness :
    (∃ (b : Bool) (s : State) (u : State), (s.pwr.start = .fusing) ∧ (groupGood s 2 = true) ∧ ((s.pwr.aOut && s.pwr.bOut) = false) ∧
        (bootChoice s = (some b, u))) ∧
    (∃ (s : State) (u : State), (s.pwr.start = .fusing) ∧ (groupGood s 2 = true) ∧ ((s.pwr.aOut && s.pwr.bOut) = false) ∧
        (bootChoice s = (none, u))) ∧
    (∃ (s : State), (s.pwr.start = .config) ∧ (groupGood s 3 = true)) ∧
    (∃ (a : Bool) (b : Bool) (s : State), (s.pwr.start = .replay) ∧ (((a && !s.led.aFailed) || (b && !s.led.bFailed)) = true) ∧
        ((s.pwr.aonLost && !ignAsserted s) = false)) ∧
    (∃ (a : Bool) (b : Bool) (s : State), (s.pwr.start = .replay) ∧ (((a && !s.led.aFailed) || (b && !s.led.bFailed)) = true) ∧
        ((s.pwr.aonLost && !ignAsserted s) = true)) ∧
    (∃ (a : Bool) (b : Bool) (s : State), (s.pwr.start = .replay) ∧ (((a && !s.led.aFailed) || (b && !s.led.bFailed)) = false)) ∧
    (∃ (s : State), (linkUp s = true) ∧ (s.sys.ready = true) ∧ (s.pwr.mode ≠ .hearth)) ∧
    (∃ (s : State), (s.sys.ready = true)) ∧
    (∃ (s : State), (working s = true) ∧ (canLog .checkpoint s = true)) :=
  ⟨⟨false, imaged, imaged, by decide +kernel, by decide +kernel, by decide +kernel, imaged_boots⟩,
   ⟨starting .fusing, _, by decide +kernel, by decide +kernel, by decide +kernel, pair_of (by decide +kernel)⟩,
   ⟨starting .config, by decide +kernel⟩,
   ⟨false, true, starting .replay, by decide +kernel⟩,
   ⟨false, true, modPwr (fun p => { p with aonLost := true }) (starting .replay), by decide +kernel⟩,
   ⟨false, true, { starting .replay with led := { up.led with bFailed := true } }, by decide +kernel⟩,
   ⟨{ up with host := { up.host with perst := false } }, by decide +kernel⟩,
   ⟨up, by decide +kernel⟩,
   ⟨up, by decide +kernel⟩⟩

end StartUp

/-! ### ParkedEntryAndModes -/

namespace Parking

def pw (f : Pwr → Pwr) : State := modPwr f up

/-- States and operands that meet the hypotheses of each clause of ParkedEntryAndModes. -/
theorem witness :
    (∃ (func : Fin 64) (s : State), (pfRegs s func = true) ∧ (s.pwr.mode = .cab) ∧ (s.sys.ready = true) ∧ (s.pwr.parking = .none) ∧
        (s.flt.pmicStuck = false)) ∧
    (∃ (s : State), (s.pwr.mode ≠ .cab)) ∧
    (∃ (func : Fin 64) (s : State), (pfRegs s func = true) ∧ (s.pwr.parking = .draining)) ∧
    (∃ (s : State), (s.sys.ready = true) ∧ (s.pwr.vaon = true) ∧ (s.pwr.mode = .cab) ∧ (s.pwr.parking = .none) ∧ (ignAsserted s = false) ∧
        (s.flt.pmicStuck = false)) ∧
    (∃ (s : State), (s.pwr.parking = .draining) ∧ (drained s = true)) ∧
    (∃ (s : State), (s.pwr.parking = .shutting) ∧ (s.pwr.cabAfter = false)) ∧
    (∃ (q : Nat) (s : State), (s.pwr.mode = .drive) ∧ (s.pwr.driveQuiet = some q) ∧ (driveStill (elapseTo q s) = true)) ∧
    (∃ (q : Nat) (s : State), (s.pwr.mode = .service) ∧ (s.pwr.serviceEnd = some q) ∧ (serviceWork s = false) ∧ (s.flt.dbgLevel ≠ 2)) ∧
    (∃ (s : State), (s.flt.dbgLevel ≠ 0)) :=
  ⟨⟨0, up, by decide +kernel⟩,
   ⟨pw (fun p => { p with mode := .drive }), by decide +kernel⟩,
   ⟨0, pw (fun p => { p with parking := .draining }), by decide +kernel⟩,
   ⟨up, by decide +kernel⟩,
   ⟨pw (fun p => { p with parking := .draining }), by decide +kernel⟩,
   ⟨pw (fun p => { p with parking := .shutting }), by decide +kernel⟩,
   ⟨1000000500, pw (fun p => { p with mode := .drive, driveQuiet := some 1000000500 }), by decide +kernel⟩,
   ⟨1000000500, pw (fun p => { p with mode := .service, serviceEnd := some 1000000500 }), by decide +kernel⟩,
   ⟨{ up with flt := { up.flt with dbgLevel := 1, dbgEnd := 1000000500 } }, by decide +kernel⟩⟩

end Parking

/-! ### WakeAndDormancy -/

namespace Wake

def pw (f : Pwr → Pwr) : State := modPwr f up
def asleep (m : Mode) (f : Pwr → Pwr) : State :=
  { modPwr (fun p => f { p with mode := m, en := 1, railGood := 0x7 }) up with sys := { up.sys with ready := false } }

/-- States and operands that meet the hypotheses of each clause of WakeAndDormancy. -/
theorem witness :
    (∃ (pin : Fin 4) (above : Bool) (s : State), (portUp s pWake pin.val = true) ∧ ((getPin s pin.val).role ≠ 3) ∧
        ((getPin s pin.val).role ≠ 2) ∧ ((getPin s pin.val).above ≠ above)) ∧
    (∃ (pin : Fin 4) (s : State), (portUp s pWake pin.val = true) ∧ ((getPin s pin.val).deglitch = true) ∧ ((getPin s pin.val).role = 0) ∧
        (asserted (getPin s pin.val) = true) ∧ ((getPin s pin.val).masked = false) ∧ (s.pwr.vaon = true) ∧ (s.pwr.mode = .dormant)) ∧
    (∃ (s : State), (s.pwr.mode = .parked) ∧ (s.pwr.start = .settled) ∧ (groupGood s 0 = true) ∧ (groupGood s 1 = true) ∧
        (s.radio.nearUsable = false)) ∧
    (∃ (q : Nat) (s : State), (s.pwr.window = some q) ∧ (s.pwr.mode = .parked) ∧ (s.pwr.start = .settled) ∧ (s.pwr.vaon = true) ∧
        (s.flt.pmicStuck = false) ∧ (s.pwr.dorming = none)) ∧
    (∃ (d : Fin 8) (high : Bool) (s : State), (portUp s pDsense d.val = true) ∧ (s.pwr.dsense.getLsbD d.val ≠ high) ∧
        (doorTrigger d.val high s = false)) ∧
    (∃ (s : State), (s.pwr.mode = .parked) ∧ (s.pwr.start = .settled) ∧ (s.pwr.vaon = true) ∧ (s.pwr.dormHours + 1 < 24 * s.pwr.dormDays)) ∧
    (∃ (s : State), (s.pwr.mode = .parked) ∧ (s.pwr.start = .settled) ∧ (s.pwr.vaon = true) ∧ (s.flt.pmicStuck = false) ∧
        (s.pwr.dorming = none) ∧ (24 * s.pwr.dormDays ≤ s.pwr.dormHours + 1)) ∧
    (∃ (s : State), (lowPins s ≠ []) ∧ (s.flt.pmicStuck = false) ∧ (s.pwr.mode = .parked) ∧ (s.pwr.start = .settled) ∧
        (s.pwr.vaon = true) ∧ (s.pwr.dorming = none)) ∧
    (∃ (q : Nat) (s : State), (s.pwr.alarmAt = some q) ∧ (s.pwr.vaon = true) ∧ (s.pwr.mode ≠ .dormant)) ∧
    (∃ (s : State), (regsUp s = true) ∧ (s.sys.lockSetup = false)) ∧
    (∃ (q : Nat) (s : State), (s.pwr.slice = some q) ∧ (s.pwr.mode = .parked) ∧ (s.pwr.start = .settled) ∧ (s.pwr.dorming = none)) :=
  ⟨⟨3, true, pw (fun p => { p with pins := List.replicate 4 { role := 1, thresh := 100 } }), by decide +kernel⟩,
   ⟨3,
    { asleep .dormant (fun p => { p with en := 0, railGood := 0, pins := List.replicate 4 { role := 0, pol := true, above := true, deglitch := true } }) with clk := { up.clk with ns := 1000001000000 } },
    by decide +kernel⟩,
   ⟨{ asleep .parked (fun p => { p with en := 3, railGood := 0x1F }) with radio := { up.radio with nearUsable := false } }, by decide +kernel⟩,
   ⟨1000000500, asleep .parked (fun p => { p with window := some 1000000500 }), by decide +kernel⟩,
   ⟨7, true, up, by decide +kernel⟩,
   ⟨asleep .parked (fun p => { p with dormHours := 502 }), by decide +kernel⟩,
   ⟨asleep .parked (fun p => { p with dormHours := 503 }), by decide +kernel⟩,
   ⟨asleep .parked (fun p => { p with pins := List.replicate 4 { role := 2, thresh := 100 } }), by decide +kernel⟩,
   ⟨1000000500, pw (fun p => { p with alarmAt := some 1000000500 }), by decide +kernel⟩,
   ⟨up, by decide +kernel⟩,
   ⟨999999000, asleep .parked (fun p => { p with slice := some 999999000, en := 3, railGood := 0x1F }), by decide +kernel⟩⟩

end Wake

/-! ### PairsAndLines -/

namespace Pairs

def pw (f : Pwr → Pwr) : State := modPwr f up
def fw (f : Flt → Flt) : State := modFlt f up

/-- States and operands that meet the hypotheses of each clause of PairsAndLines. -/
theorem witness :
    (∃ (s : State), (s.sys.ready = true) ∧ (s.flt.shadowOk = true) ∧ (s.upd.handover = .none) ∧ (s.upd.trialSince = none)) ∧
    (∃ (b : Bool) (s : State), (s.pwr.selfTest = some b)) ∧
    (∃ (s : State), (s.flt.testBusy = true) ∧ (s.flt.testType = uPair) ∧ (s.flt.testOp.isSome = true) ∧ (s.flt.testSlices + 1 ≠ 64)) ∧
    (∃ (r : Nat) (f : Flight) (s : State), (s.flt.testBusy = true) ∧ (s.flt.testType = uPair) ∧ (s.flt.testOp = some r) ∧
        (s.flt.testSlices + 1 = 64) ∧ (getFlight s r = some f) ∧ (f.fate = none)) ∧
    (∃ (bank : Nat) (row : Nat) (col : Nat) (s : State) (u : State), (bank < 64) ∧ (unitSt s uSram bank = .up) ∧
        (u = modFlt (fun b => { b with sramErrs := b.sramErrs ++ [{ at_ := monoUs s, bank := bank, row := row, col := col }] }) s) ∧
        (rowDue u bank row false = false) ∧ (colDue u bank col = false)) ∧
    (∃ (bank : Nat) (s : State), (bank < 64) ∧ (unitSt s uSram bank = .up) ∧ (tabGet 0 s.flt.rowsUsed bank < 8)) ∧
    (∃ (pin : Fin 4) (s : State), (portUp s pWake pin.val = true) ∧ (asserted (getPin s pin.val) = true) ∧
        ((getPin s pin.val).masked = false) ∧ ((getPin s pin.val).role = 0) ∧ (s.pwr.vaon = true)) ∧
    (∃ (pin : Fin 4) (s : State), ((getPin s pin.val).masked = true) ∧ (asserted (getPin s pin.val) = false)) ∧
    (∃ (m : Fin 2) (s : State), (portUp s pCoex m = true) ∧ (s.radio.coexGnt.getLsbD m = true) ∧ (s.radio.coexReq.getLsbD m = false) ∧
        (s.flt.coexStuck.getLsbD m = false)) ∧
    (∃ (s : State), (s.pwr.vaon = true) ∧ (pmicKnown s = true) ∧ (s.flt.pmicStuck = true)) ∧
    (∃ (s : State), (s.pwr.vaon = true) ∧ (pmicKnown s = true) ∧ (s.flt.pmicStuck = false)) ∧
    (∃ (low : Bool) (s : State), (s.pwr.vaon = true) ∧ (s.flt.pmicIrqStuck ≠ low)) ∧
    (∃ (s : State), (s.sys.ready = true)) :=
  ⟨⟨fw (fun b => { b with shadowOk := true }), by decide +kernel⟩,
   ⟨true, pw (fun p => { p with selfTest := some true }), by decide +kernel⟩,
   ⟨fw (fun b => { b with testBusy := true, testType := uPair, testOp := some 0, testSlices := 62 }), by decide +kernel⟩,
   ⟨0, fl 0x0F01, op (fl 0x0F01) (fw (fun b => { b with testBusy := true, testType := uPair, testOp := some 0, testSlices := 63 })),
    by decide +kernel⟩,
   ⟨63, 1023, 7, up, _, by decide +kernel, by decide +kernel, rfl, by decide +kernel⟩,
   ⟨63, fw (fun b => { b with rowsUsed := [(63, 7)] }), by decide +kernel⟩,
   ⟨3, pw (fun p => { p with pins := List.replicate 4 { role := 0, pol := true, above := true } }), by decide +kernel⟩,
   ⟨3, pw (fun p => { p with pins := List.replicate 4 { role := 0, pol := true, above := false, masked := true } }), by decide +kernel⟩,
   ⟨1, { up with radio := { up.radio with coexGnt := 2 } }, by decide +kernel⟩,
   ⟨fw (fun b => { b with pmicStuck := true }), by decide +kernel⟩,
   ⟨up, by decide +kernel⟩,
   ⟨true, up, by decide +kernel⟩,
   ⟨up, by decide +kernel⟩⟩

end Pairs

/-! ### RingCommands -/

namespace Rings

def setup7 : RingSetup := { hrBase := 0x10000, trBase := 0x20000, ciwb := 0x30000, hrLog := 6, trLog := 6 }
def ring7 : Ring := { setup := setup7, recorded := setup7, st := .running, hrPi := 4, trPi := 3, trWrite := 2, trCi := 1, armed := true, era := 1 }
def ringed (g : Nat) (rg : Ring) : State := { up with host := { up.host with rings := [(g, rg)] } }

/-- States and operands that meet the hypotheses of each clause of RingCommands. -/
theorem witness :
    (∃ (func : Fin 64) (ten : Fin 1024) (j : Fin 64) (g : Nat) (s : State), (doorbellRing s func ten j = some g) ∧
        (s.pwr.parking = .none) ∧ ((getRing s g).st = .running)) ∧
    (∃ (func : Fin 64) (ten : Fin 1024) (j : Fin 64) (g : Nat) (s : State), (doorbellRing s func ten j = some g) ∧
        (s.pwr.parking = .none) ∧ ((getRing s g).st ≠ .disabled)) ∧
    (∃ (g : Fin 4096) (r : Nat) (f : Flight) (fr : FateRec) (s : State), (canPost s g = true) ∧
        ((getRing s g).trWrite ≠ (getRing s g).trPi) ∧ (slotOwner s g (getRing s g).trWrite = some (r, f)) ∧ (f.fate = some fr) ∧
        (moverTurn s g (r, f) = true)) ∧
    (∃ (g : Fin 4096) (s : State), (released s = true) ∧ ((getRing s g).wbDue.isSome = true) ∧ ((getRing s g).mute = false)) ∧
    (∃ (g : Fin 4096) (s : State), (released s = true) ∧ ((getRing s g).st = .running) ∧ ((getRing s g).hrPi ≠ (getRing s g).hrCi)) ∧
    (∃ (g : Fin 4096) (s : State), (canPost s g = true)) ∧
    (∃ (func : Fin 64) (g : Nat) (s : State), (selectedRing s func = some g) ∧ (released s = true) ∧ ((getRing s g).st = .disabled)) ∧
    (∃ (func : Fin 64) (g : Nat) (s : State), (selectedRing s func = some g) ∧ (released s = true) ∧
        ((getRing s g).st = .running ∨ (getRing s g).st = .stopped)) ∧
    (∃ (g : Fin 4096) (s : State), ((getRing s g).st = .draining) ∧ (ringFated s g = true) ∧ ((getRing s g).trWrite = (getRing s g).trPi)) ∧
    (∃ (g : Fin 4096) (q : Nat) (s : State), ((getRing s g).modAt = some q) ∧ ((getRing s g).armed = true)) :=
  ⟨⟨0, 0, 7, _, ringed 7 ring7, (Option.some_get (by decide +kernel)).symm, by decide +kernel⟩,
   ⟨0, 0, 7, _, ringed 7 ring7, (Option.some_get (by decide +kernel)).symm, by decide +kernel⟩,
   ⟨7, 0, { fl 0x0100 with ring := 7, era := 1, trSlot := 2, fate := some { code := 1 } }, { code := 1 },
    op { fl 0x0100 with ring := 7, era := 1, trSlot := 2, fate := some { code := 1 } } (ringed 7 ring7), by decide +kernel⟩,
   ⟨7, ringed 7 { ring7 with wbDue := some 1000000002 }, by decide +kernel⟩,
   ⟨7, ringed 7 ring7, by decide +kernel⟩,
   ⟨7, ringed 7 ring7, by decide +kernel⟩,
   ⟨0, _, ringed 0 { setup := setup7 }, (Option.some_get (by decide +kernel)).symm, by decide +kernel⟩,
   ⟨0, _, ringed 0 ring7, (Option.some_get (by decide +kernel)).symm, by decide +kernel⟩,
   ⟨7, ringed 7 { ring7 with st := .draining, trWrite := 3 }, by decide +kernel⟩,
   ⟨7, 1000000050, ringed 7 { ring7 with modPend := 3, modAt := some 1000000050 }, by decide +kernel⟩⟩

end Rings

/-! ### SluiceAndSysClass -/

namespace Sluice

def ring0 : Ring := { setup := { hrLog := 6, trLog := 6 }, st := .running, hrPi := 1, era := 1 }
def nopRaw : BitVec 512 := BitVec.ofNat 512 (0x0100 + 2 ^ 64)
def offering : State := { up with host := { up.host with rings := [(0, ring0)] }, slc := { up.slc with wardens := fusedWardens } }

/-- States and operands that meet the hypotheses of each clause of SluiceAndSysClass. -/
theorem witness :
    (∃ (heads : List HeadRead) (t : Nat) (j : Nat) (raw : BitVec 512) (s : State) (u : State), (admitting s = true) ∧
        (u = takeHeads heads s) ∧ (choose (candidates u) = some (t, j, raw))) ∧
    (∃ (r : Nat) (n : Nat) (f : Flight) (s : State), (getFlight s r = some f) ∧ (f.fate = none) ∧ (f.dupOf = none) ∧
        (earlierFated s r f = true) ∧ (working s = true) ∧ (pastEnd s r = false) ∧ (boundUs s f = some n) ∧ (f.begun = false) ∧
        (fenceHolds (elapseTo (boundStart s r f + n) s) r f = false)) ∧
    (∃ (r : Nat) (n : Nat) (f : Flight) (s : State), (getFlight s r = some f) ∧ (f.fate = none) ∧ (f.dupOf = none) ∧
        (earlierFated s r f = true) ∧ (working s = true) ∧ (pastEnd s r = false) ∧ (boundUs s f = some n) ∧ (f.begun = true) ∧
        (dOpc f.raw = 0x0A00) ∧ (dClass f.raw = 0x0A)) ∧
    (∃ (r : Nat) (f : Flight) (s : State), (Ready 0x0100 r f s)) ∧
    (∃ (r : Nat) (f : Flight) (s : State), (Ready 0x0102 r f s)) ∧
    (∃ (r : Nat) (g : Nat) (f : Flight) (x : Flight) (s : State) (u : State), (Ready 0x0101 r f s) ∧ (u = started r s) ∧
        (fieldLE f.raw 24 2 < f.rules.ringCount) ∧ (g = f.rules.ringBase + fieldLE f.raw 24 2) ∧
        ((dupWindow u g).find? (fun y => dSeq y.raw == fieldLE f.raw 32 8) = some x)) ∧
    (∃ (r : Nat) (g : Nat) (f : Flight) (s : State) (u : State), (Ready 0x0101 r f s) ∧ (u = started r s) ∧
        (fieldLE f.raw 24 2 < f.rules.ringCount) ∧ (g = f.rules.ringBase + fieldLE f.raw 24 2) ∧
        (∀ x ∈ seqIndexed u g, dSeq x.raw ≠ fieldLE f.raw 32 8)) :=
  ⟨⟨[{ ring := 0, raw := nopRaw }], 0, 0, nopRaw, offering, _, by decide +kernel, rfl, by decide +kernel⟩,
   ⟨1, _, fl (0x0706 + 2 ^ 16),
    { up with host := { up.host with flights := [{ fl 0x0700 with fate := some { code := 0x70 } }, fl (0x0706 + 2 ^ 16)] } },
    also3 (by decide +kernel) (also3 (by decide +kernel) ⟨(Option.some_get (by decide +kernel)).symm, by decide +kernel⟩)⟩,
   ⟨0, _, { fl 0x0A00 with begun := true }, op { fl 0x0A00 with begun := true },
    also3 (by decide +kernel) (also3 (by decide +kernel) ⟨(Option.some_get (by decide +kernel)).symm, by decide +kernel⟩)⟩,
   ⟨0, fl 0x0100, op (fl 0x0100), ready_of (by decide +kernel)⟩,
   ⟨0, fl 0x0102, op (fl 0x0102), ready_of (by decide +kernel)⟩,
   ⟨1, _, fl 0x0101 0 [(32, 5)], { fl 0x0100 0 [(8, 5)] with seqIndexed := true, fate := some { code := 1 } },
    { op (fl 0x0100) with host := { up.host with flights := [{ fl 0x0100 0 [(8, 5)] with seqIndexed := true, fate := some { code := 1 } }, fl 0x0101 0 [(32, 5)]] } },
    _, ready_of (by decide +kernel), rfl, by decide +kernel, rfl, by decide +kernel⟩,
   ⟨1, _, fl 0x0101 0 [(32, 6)],
    { op (fl 0x0100) with host := { up.host with flights := [{ fl 0x0100 0 [(8, 5)] with seqIndexed := true, fate := some { code := 1 } }, fl 0x0101 0 [(32, 6)]] } },
    _, ready_of (by decide +kernel), rfl, by decide +kernel, rfl, by decide +kernel⟩⟩

end Sluice

/-! ### RegistersAndFunctions -/

namespace Regs

/-- States and operands that meet the hypotheses of each clause of RegistersAndFunctions; clauses 15 and 16 have none. -/
theorem witness :
    (∃ (func : Fin 64) (s : State), (funcUp s func = false)) ∧
    (∃ (func : Fin 64) (off : BitVec 20) (size : BitVec 4) (s : State), (regsUp s = true) ∧ (funcUp s func = true) ∧
        (readValid off.toNat size.toNat = true) ∧ (readsCap s func off.toNat size.toNat = false)) ∧
    (∃ (func : Fin 64) (s : State), (linkUp s = true) ∧ (funcUp s func = true) ∧ (regsUp s = false)) ∧
    (∃ (s : State), (regsUp s = true) ∧ (blockSeen s 0 0x0 = true)) ∧
    (∃ (s : State), (regsUp s = true) ∧ (blockSeen s 0 0xD = true)) ∧
    (∃ (s : State), (s.sys.lockSetup = true)) ∧
    (∃ (off : BitVec 20), (off.toNat % 4 ≠ 0)) ∧
    (∃ (v : BitVec 32) (s : State), (regsUp s = true) ∧ (s.sys.ready = true) ∧ (s.pwr.mode ≠ .hearth) ∧ (bits v.toNat 0 8 = 0xA5)) ∧
    (∃ (v : BitVec 32), (bits v.toNat 0 8 ≠ 0xA5)) ∧
    (∃ (v : BitVec 32) (s : State), (regsUp s = true) ∧ (v.getLsbD 0 = true)) ∧
    (∃ (func : Fin 64) (v : Fin 2048) (s : State), (linkUp s = true) ∧ (funcUp s func = true) ∧ (v.val < vecsOf s func)) ∧
    (∃ (func : Fin 64) (s : State), (linkUp s = true) ∧ (funcUp s func = true) ∧ (vecsOf s func ≠ 0)) ∧
    (∃ (func : Fin 64) (s : State), (func.val ≠ 0) ∧ (funcUp s func = true) ∧ (s.sys.ready = true)) ∧
    (∃ (func : Fin 64) (s : State), (func.val ≠ 0) ∧ (s.sys.ready = true)) :=
  ⟨⟨63, { up with host := { up.host with vfEn := false } }, by decide +kernel⟩,
   ⟨0, 0x00028, 4, up, by decide +kernel⟩,
   ⟨63, { up with sys := { up.sys with ready := false } }, by decide +kernel⟩,
   ⟨up, by decide +kernel⟩,
   ⟨{ up with flt := { up.flt with events := 0x3F } }, by decide +kernel⟩,
   ⟨{ up with sys := { up.sys with lockSetup := true } }, by decide +kernel⟩,
   ⟨0x0002A, by decide +kernel⟩,
   ⟨0xA5, up, by decide +kernel⟩,
   ⟨0x5A, by decide +kernel⟩,
   ⟨1, up, by decide +kernel⟩,
   ⟨0, 63, up, by decide +kernel⟩,
   ⟨0, up, by decide +kernel⟩,
   ⟨63, up, by decide +kernel⟩,
   ⟨63, up, by decide +kernel⟩⟩

end Regs

/-! ### WritCommands -/

namespace Writs

def furrowWrit : Bytes :=
  be 75 0x575249540001002100000000000000000000000000000000000000000000000100000000000000000000000000000000000000200100000000000000000000000000000104010000000000 ++
    be 75 0x6400000000000000000000000000000000000000000101000004b4e2553cdf43f2e2f6c25adea3f89af155baebe3ea3b52d8168696217e11c49d37bff092ef1e6840d1c6d67294ba4fae62 ++
    be 75 0x06c709af19763c7d42a50ff961e3f6acb6e3e725050d26ac5a1c0039a75fc09ac7f9930340e0540c14a64f2e30de8f000000cc4cec86751442efded859f46781d139c4025cec083f8fcc65 ++
    be 75 0x43a8b2deb52a8f3d79b3f006e75e6aea2cdc2f878b64bfcc4cec86751442efded859f46781d139c4025cec083f8fcc6543a8b2deb52a8f3d79b3f006e75e6aea2cdc2f878b64bf00000000 ++ zeros 52
def writKey : Bytes := be 32 0xe84704e79ca7d094523077135241c67e434e93c054112915bc2215c4ee5cbfb3
def chartered : State := { up with slc := { up.slc with wardens := [{ role := 1, alg := 1, keyHash := writKey }] } }
def writOp (opc : Nat) : Flight := fl opc 352 [(32, 0)]

/-- States and operands that meet the hypotheses of each clause of WritCommands. -/
theorem witness :
    (∃ (r : Nat) (d : Bytes) (w : Bytes) (f : Flight) (s : State) (v : State), (Ready 0x0D00 r f s) ∧ (w = slice d 0 (dLen f.raw)) ∧
        (writStatic (started r s) w (dLen f.raw) = none) ∧ (writSigned w (sigBlocks w) (started r s) = (true, v)) ∧
        (writBase w = s.slc.epoch) ∧ (writBodyOk (atStage r 0x01 0 v) w = true) ∧ (commitHolds f true s = true) ∧
        (canLogWrit w (atStage r 0x01 0 v) = true)) ∧
    (∃ (r : Nat) (code : Nat) (detail : Nat) (d : Bytes) (w : Bytes) (f : Flight) (s : State), (Ready 0x0D00 r f s) ∧
        (w = slice d 0 (dLen f.raw)) ∧ (writStatic (started r s) w (dLen f.raw) = some (code, detail))) ∧
    (∃ (r : Nat) (f : Flight) (s : State), (Ready 0x0D00 r f s)) ∧
    (∃ (r : Nat) (x : Settling) (f : Flight) (s : State), (Running 0x0D00 r f s) ∧ (s.slc.settling.find? (fun y => y.op == r) = some x) ∧
        (writWaits s x f = false)) ∧
    (∃ (r : Nat) (d : Bytes) (w : Bytes) (f : Flight) (s : State) (v : State), (Ready 0x0D01 r f s) ∧ (w = slice d 0 (dLen f.raw)) ∧
        (writStatic (started r s) w (dLen f.raw) = none) ∧ (writSigned w (sigBlocks w) (started r s) = (true, v)) ∧
        (writBase w = s.slc.epoch) ∧ (writBodyOk (atStage r 0x01 0 v) w = true)) ∧
    (∃ (r : Nat) (f : Flight) (s : State), (Ready 0x0D02 r f s)) :=
  ⟨⟨0, furrowWrit, _, writOp 0x0D00, op (writOp 0x0D00) chartered, _, ready_of (by decide +kernel), rfl, by decide +kernel,
    pair_of (by decide +kernel), by decide +kernel⟩,
   ⟨0, fMalformed, 0x20, zeros 352, _, writOp 0x0D00, op (writOp 0x0D00) chartered, ready_of (by decide +kernel), rfl, by decide +kernel⟩,
   ⟨0, writOp 0x0D00, op (writOp 0x0D00) chartered, ready_of (by decide +kernel)⟩,
   ⟨0, { op := 0, tens := [], upTo := 0, rings := [], epoch := 2 }, { writOp 0x0D00 with begun := true },
    op { writOp 0x0D00 with begun := true } { chartered with slc := { chartered.slc with settling := [{ op := 0, tens := [], upTo := 0, rings := [], epoch := 2 }] } },
    running_of (by decide +kernel), by decide +kernel⟩,
   ⟨0, furrowWrit, _, writOp 0x0D01, op (writOp 0x0D01) chartered, _, ready_of (by decide +kernel), rfl, by decide +kernel,
    pair_of (by decide +kernel), by decide +kernel⟩,
   ⟨0, fl 0x0D02, op (fl 0x0D02) chartered, ready_of (by decide +kernel)⟩⟩

end Writs

/-! ### ServiceOperations -/

namespace Svc

def driveOn (d : Drive) (s : State) : State := { s with cus := { s.cus with drives := modAt s.cus.drives 3 (fun _ => d) } }

/-- States and operands that meet the hypotheses of each clause of ServiceOperations; clause 5 has none. -/
theorem witness :
    (∃ (r : Nat) (f : Flight) (s : State) (l : List FaultRec), (Ready 0x0F00 r f s) ∧
        (l = (faultsFrom s (fieldLE f.raw 32 8)).take (dLen f.raw / 32))) ∧
    (∃ (r : Nat) (f : Flight) (s : State), (Ready 0x0F01 r f s) ∧ (svcBad f.raw = false) ∧ (svcType f = uPair) ∧ (svcIndex f < 2) ∧
        (svcIndex f ≠ ofBool s.pwr.activeB) ∧ (s.flt.testBusy = false) ∧ (s.flt.shadowOk = true)) ∧
    (∃ (r : Nat) (f : Flight) (s : State), (Ready 0x0F01 r f s) ∧ (svcBad f.raw = false) ∧ (hasTest (svcType f) = true) ∧
        (unitKnown s (svcType f) (svcIndex f) = true) ∧ (svcType f ≠ uPair) ∧ (s.flt.testBusy = false) ∧
        (testHolds (started r s) (svcType f) (svcIndex f) = true)) ∧
    (∃ (r : Nat) (f : Flight) (s : State) (x : State), (Ready 0x0F02 r f s) ∧ (svcBad f.raw = false) ∧
        (unitKnown s (svcType f) (svcIndex f) = true) ∧ (lastUnit s (svcType f) (svcIndex f) = false) ∧
        (unitSt s (svcType f) (svcIndex f) ≠ .bypassed) ∧
        (x = leaveUnit (svcType f) (svcIndex f) (bypassRecord (svcType f) (svcIndex f) (started r s)))) ∧
    (∃ (r : Nat) (f : Flight) (s : State) (x : State), (Ready 0x0F03 r f s) ∧ (svcBad f.raw = false) ∧
        (unitKnown s (svcType f) (svcIndex f) = true) ∧ (mayRestore s (svcType f) (svcIndex f) = true) ∧ (s.flt.testBusy = false) ∧
        (svcType f ≠ uPair) ∧ (x = rejoin (svcType f) (svcIndex f) (noteTest (svcType f) (svcIndex f) 0 (started r s)))) ∧
    (∃ (r : Nat) (u : Nat) (f : Flight) (s : State), (Ready 0x0F04 r f s) ∧ (fitted s pNvm (fieldLE f.raw 24 1) = true) ∧
        (storeUnit s (fieldLE f.raw 24 1) = some u) ∧ (s.flt.testBusy = false)) ∧
    (∃ (r : Nat) (f : Flight) (s : State), (Ready 0x0F05 r f s) ∧ (fitted s pNvm (fieldLE f.raw 24 1) = true) ∧
        ((storeUnit s (fieldLE f.raw 24 1)).isSome = true) ∧ ((getDrive s (fieldLE f.raw 24 1)).drain = none)) ∧
    (∃ (r : Nat) (f : Flight) (s : State), (Ready 0x0F06 r f s) ∧ (fitted s pNvm (fieldLE f.raw 24 1) = true) ∧
        ((getDrive s (fieldLE f.raw 24 1)).st = .foreign)) ∧
    (∃ (r : Nat) (f : Flight) (s : State), (Ready 0x0F07 r f s) ∧ (s.pwr.mode = .cab) ∧ (s.pwr.parking = .none) ∧
        (latch s = .locked ∨ latch s = .armed) ∧ (atRest s = true)) ∧
    (∃ (r : Nat) (f : Flight) (s : State), (Ready 0x0F07 r f s) ∧ (s.pwr.mode = .drive)) :=
  ⟨⟨0, fl 0x0F00 64 [(32, 1)], op (fl 0x0F00 64 [(32, 1)]) (fault uLane 3 0x03 sDegraded 0 0 5 up), _, ready_of (by decide +kernel), rfl⟩,
   ⟨0, fl 0x0F01 0 [(24, 1), (25, 1)], op (fl 0x0F01 0 [(24, 1), (25, 1)]) { up with flt := { up.flt with shadowOk := true } },
    ready_of (by decide +kernel), by decide +kernel⟩,
   ⟨0, fl 0x0F01 0 [(24, 2), (25, 19)], op (fl 0x0F01 0 [(24, 2), (25, 19)]), ready_of (by decide +kernel), by decide +kernel⟩,
   ⟨0, fl 0x0F02 0 [(24, 2), (25, 19)], op (fl 0x0F02 0 [(24, 2), (25, 19)]), _, ready_of (by decide +kernel), by decide +kernel,
    by decide +kernel, by decide +kernel, by decide +kernel, rfl⟩,
   ⟨0, fl 0x0F03 0 [(24, 2), (25, 19)], op (fl 0x0F03 0 [(24, 2), (25, 19)]), _, ready_of (by decide +kernel), by decide +kernel,
    by decide +kernel, by decide +kernel, by decide +kernel, by decide +kernel, rfl⟩,
   ⟨0, 0, fl 0x0F04 0 [(24, 3)], op (fl 0x0F04 0 [(24, 3)]) (driveOn { st := .online, unit := some 0 } up), ready_of (by decide +kernel),
    by decide +kernel⟩,
   ⟨0, fl 0x0F05 0 [(24, 3)], op (fl 0x0F05 0 [(24, 3)]) (driveOn { st := .online, unit := some 0 } up), ready_of (by decide +kernel),
    by decide +kernel⟩,
   ⟨0, fl 0x0F06 0 [(24, 3)], op (fl 0x0F06 0 [(24, 3)]) (driveOn { st := .foreign, link := true } up), ready_of (by decide +kernel),
    by decide +kernel⟩,
   ⟨0, fl 0x0F07 0 [(24, 600)], op (fl 0x0F07 0 [(24, 600)]) still, ready_of (by decide +kernel), by decide +kernel⟩,
   ⟨0, fl 0x0F07 0 [(24, 600)], op (fl 0x0F07 0 [(24, 600)]) { up with pwr := { up.pwr with mode := .drive } }, ready_of (by decide +kernel),
    by decide +kernel⟩⟩

end Svc

/-! ### AngleAndSpeed -/

namespace Angle

def ck (f : Clk → Clk) : State := modClk f up
def policied : State := { up with slk := { up.slk with policy := { up.slk.policy with rsPort := 5, rsByte := 1, rsLen := 16, rsScale := 512, rsId := 0x123, esPort := 5, esByte := 0, esLen := 8, esScale := 65535, esId := 0x124 } } }
def synced : Crank := { last := some 999990000000, seen := some 999990000000, per := some 1000000, gapSeen := true, sync := true, tooth := 57, teeth := 57 }

/-- States and operands that meet the hypotheses of each clause of AngleAndSpeed. -/
theorem witness :
    (∃ (tNs : Nat) (s : State) (t : State), (angleHeard s 0 = true) ∧ (s.clk.switching = none) ∧ (crankIsDue (elapseToNs tNs s) = false) ∧
        (t = crankEdge (edgeTime (elapseToNs tNs s)) (modClk (fun b => { b with crank := { b.crank with seen := some (edgeTime (elapseToNs tNs s)) } }) (elapseToNs tNs s)))) ∧
    (∃ (s : State), (angleHeard s 1 = true) ∧ (s.clk.crank.sync = true) ∧ (s.clk.cam.known = false)) ∧
    (∃ (s : State), (angleHeard s 1 = true) ∧ (s.clk.crank.sync = true) ∧ (s.clk.cam.known = true)) ∧
    (∃ (s : State), (angleHeard s 2 = true) ∧ (s.clk.ref ≠ .prop)) ∧
    (∃ (s : State), (angleHeard s 3 = true)) ∧
    (∃ (d : Nat) (s : State), (angleHeard s 0 = true) ∧ (crankDue s.clk.crank = some d) ∧ (s.clk.crank.per.getD 0 ≤ 20000000)) ∧
    (∃ (d : Nat) (s : State), (angleHeard s 0 = true) ∧ (crankDue s.clk.crank = some d) ∧ (20000000 < s.clk.crank.per.getD 0)) ∧
    (∃ (l : Nat) (s : State), (angleHeard s 3 = true) ∧ (s.clk.wheelLast = some l)) ∧
    (∃ (port : Fin 6) (ident : BitVec 32) (data : Bytes) (v : Nat) (s : State), (speedFrame s port.val ident s.slk.policy.rsPort s.slk.policy.rsId = true) ∧
        (signalOf data s.slk.policy.rsByte s.slk.policy.rsLen = some v)) ∧
    (∃ (port : Fin 6) (ident : BitVec 32) (data : Bytes) (v : Nat) (s : State), (speedFrame s port.val ident s.slk.policy.esPort s.slk.policy.esId = true) ∧
        (signalOf data s.slk.policy.esByte s.slk.policy.esLen = some v)) ∧
    (∃ (t0 : Nat) (s : State), (angleOn s = true) ∧ (s.clk.canRoadAt = some t0)) ∧
    (∃ (t0 : Nat) (s : State), (angleOn s = true) ∧ (s.clk.canRpmAt = some t0)) ∧
    (∃ (target : Ref) (s : State), (angleOn s = true) ∧ (s.clk.switching = some target) ∧ (target ≠ .prop)) ∧
    (∃ (s : State), (angleOn s = true) ∧ (s.clk.ref = .prop) ∧ (s.clk.switching = none)) :=
  ⟨⟨1000003000007, ck (fun c => { c with crank := { synced with last := some 1000000000000, seen := some 1000000000000 } }), _,
    by decide +kernel, by decide +kernel, by decide +kernel, rfl⟩,
   ⟨ck (fun c => { c with crank := { synced with last := some 1000000000000, seen := some 1000000000000, second := true } }),
    by decide +kernel⟩,
   ⟨ck (fun c => { c with crank := { synced with last := some 1000000000000, seen := some 1000000000000 }, cam := { known := true, pos := 100 } }),
    by decide +kernel⟩,
   ⟨ck (fun c => { c with prop := { last := some 999990000000, per := some 10000000 } }), by decide +kernel⟩,
   ⟨ck (fun c => { c with wheelLast := some 999990000000 }), by decide +kernel⟩,
   ⟨_, ck (fun c => { c with ref := .crank, crank := { synced with tooth := 3 } }), by decide +kernel,
    (Option.some_get (by decide +kernel)).symm, by decide +kernel⟩,
   ⟨_, ck (fun c => { c with ref := .crank, crank := { synced with tooth := 3, per := some 20000001 } }), by decide +kernel,
    (Option.some_get (by decide +kernel)).symm, by decide +kernel⟩,
   ⟨999990000000, ck (fun c => { c with wheelLast := some 999990000000, table := { c.table with wheelPulsesKm := 5000 } }), by decide +kernel⟩,
   ⟨5, 0x123, [9, 0xFF, 0xFE], _, policied, by decide +kernel, (Option.some_get (by decide +kernel)).symm⟩,
   ⟨5, 0x124, [0xFE], _, policied, by decide +kernel, (Option.some_get (by decide +kernel)).symm⟩,
   ⟨999990000000, ck (fun c => { c with canRoad := 700, canRoadAt := some 999990000000 }), by decide +kernel⟩,
   ⟨999990000000, ck (fun c => { c with canRpm := 700 * 65536, canRpmAt := some 999990000000 }), by decide +kernel⟩,
   ⟨.time, ck (fun c => { c with ref := .crank, switching := some .time, switchEnd := 1000000500000 }), by decide +kernel⟩,
   ⟨ck (fun c => { c with ref := .prop, propSince := 999990000000, table := { c.table with propHoldS := 30 } }), by decide +kernel⟩⟩

end Angle

/-! ### ClocksAndCounters -/

namespace Clocks

def ck (f : Clk → Clk) : State := modClk f up
def cnted (c : Cnt) : State := ck (fun b => { b with cnts := modAt b.cnts 15 (fun _ => c), cntSel := 15 })

/-- States and operands that meet the hypotheses of each clause of ClocksAndCounters. -/
theorem witness :
    (∃ (s : State), (s.pwr.vaon = true) ∧ (s.clk.onRc = false)) ∧
    (∃ (s : State), (s.clk.clkSwitching = true)) ∧
    (∃ (s : State), (s.clk.clkSwitching = true)) ∧
    (∃ (s : State), (s.clk.onRc = true)) ∧
    (∃ (s : State), (s.clk.rtcOnRc = false)) ∧
    (∃ (s : State), (s.clk.rtcOnRc = true)) ∧
    (∃ (s : State), (s.clk.rtcOnRc = true) ∧ (s.clk.onRc = false)) ∧
    (∃ (v : BitVec 32) (s : State), (Shaped s) ∧ (pfRegs s 0 = true) ∧ (v.getLsbD 0 = true) ∧ ((selCnt s).en = false)) ∧
    (∃ (v : BitVec 32) (s : State), (Shaped s) ∧ (pfRegs s 0 = true) ∧ (v.getLsbD 0 = false)) ∧
    (∃ (v : BitVec 32) (s : State), (Shaped s) ∧ (pfRegs s 0 = true) ∧ (v.toNat ≠ 0) ∧ (v.toNat ≠ 0xFFFFFFFF)) ∧
    (∃ (v : BitVec 32) (s : State), (pfRegs s 0 = true) ∧ (v.toNat = 0 ∨ v.toNat = 0xFFFFFFFF) ∧ (Shaped s)) ∧
    (∃ (s : State), (Shaped s) ∧ (pfRegs s 0 = true)) ∧
    (∃ (func : Fin 64), (func.val ≠ 0)) ∧
    (∃ (n : Fin 16) (b : Bool) (s : State) (c : Cnt) (v : Nat), (c = nth {} s.clk.cnts n) ∧ (v = (if b then c.cmp1 else c.cmp0)) ∧
        (cntRuns s = true) ∧ (c.en = true) ∧ (0 < c.top) ∧ (v ≤ c.top) ∧ (c.count ≤ c.top) ∧ (∀ m, c.topNext = some m → v ≤ m) ∧
        (Shaped s) ∧ (c.acc < (cntRate (cntSlow s) c).2)) ∧
    (∃ (n : Fin 16) (s : State) (c : Cnt), (c = nth {} s.clk.cnts n) ∧ (cntRuns s = true) ∧ (c.en = true) ∧ (0 < c.top) ∧
        (c.count ≤ c.top) ∧ (Shaped s) ∧ (c.acc < (cntRate (cntSlow s) c).2)) ∧
    (∃ (n : Fin 16) (s : State) (c : Cnt), (c = nth {} s.clk.cnts n) ∧ (cntRuns s = true) ∧ (capInput s c.capSrc.toNat = true) ∧
        (c.capEdge.getLsbD 0 = true) ∧ (Shaped s)) ∧
    (∃ (s : State), (pfRegs s 0 = true) ∧ (Shaped s)) ∧
    (∃ (r : Nat) (f : Flight) (s : State), (Ready 0x0E00 r f s)) ∧
    (∃ (r : Nat) (f : Flight) (s : State), (Ready 0x0E01 r f s) ∧
        (s.clk.wallSet = true → timeStep f s ≤ 2000000 ∧ -2000000 ≤ timeStep f s ∧ ∀ x, s.clk.lastSet = some x → x + 60000000 ≤ monoUs s)) ∧
    (∃ (r : Nat) (f : Flight) (s : State), (Ready 0x0E01 r f s) ∧ (s.clk.wallSet = true) ∧
        (timeStep f s > 2000000 ∨ timeStep f s < -2000000)) ∧
    (∃ (r : Nat) (x : Nat) (f : Flight) (s : State), (Ready 0x0E01 r f s) ∧ (s.clk.wallSet = true) ∧
        (timeStep f s ≤ 2000000 ∧ -2000000 ≤ timeStep f s) ∧ (s.clk.lastSet = some x) ∧ (monoUs s < x + 60000000)) ∧
    (∃ (r : Nat) (f : Flight) (s : State), (Ready 0x0E02 r f s) ∧ ((furrowBytes s.clk.table).length ≤ dLen f.raw)) :=
  ⟨⟨up, by decide +kernel⟩,
   ⟨ck (fun c => { c with clkSwitching := true }), by decide +kernel⟩,
   ⟨ck (fun c => { c with clkSwitching := true }), by decide +kernel⟩,
   ⟨ck (fun c => { c with onRc := true }), by decide +kernel⟩,
   ⟨up, by decide +kernel⟩,
   ⟨ck (fun c => { c with rtcOnRc := true }), by decide +kernel⟩,
   ⟨ck (fun c => { c with rtcOnRc := true }), by decide +kernel⟩,
   ⟨0x00FF0001, cnted { count := 77, down := true }, shaped_of (by decide +kernel), by decide +kernel⟩,
   ⟨0x00FF0000, cnted { count := 77, en := true }, shaped_of (by decide +kernel), by decide +kernel⟩,
   ⟨0xFFFFFFFE, cnted { count := 77, en := true, top := 100 }, shaped_of (by decide +kernel), by decide +kernel⟩,
   ⟨0xFFFFFFFF, up, by decide +kernel, by decide +kernel, shaped_of (by decide +kernel)⟩,
   ⟨cnted { count := 77, en := true, top := 100 }, shaped_of (by decide +kernel), by decide +kernel⟩,
   ⟨63, by decide +kernel⟩,
   ⟨15, true, cnted { count := 77, en := true, top := 100, cmp1 := 100 }, _, 100, rfl,
    also4 (by decide +kernel) (also3 (by decide +kernel) ⟨shaped_of (by decide +kernel),
    by decide +kernel⟩)⟩,
   ⟨15, cnted { count := 77, en := true, top := 100, topNext := some 50 }, _, rfl, by decide +kernel, by decide +kernel, by decide +kernel,
    by decide +kernel, shaped_of (by decide +kernel), by decide +kernel⟩,
   ⟨15, cnted { count := 77, en := true, capFull := true, capSrc := 12, capEdge := 1 }, _, rfl, by decide +kernel, by decide +kernel,
    by decide +kernel, shaped_of (by decide +kernel)⟩,
   ⟨cnted { count := 77, cap := 5, capFull := true }, by decide +kernel, shaped_of (by decide +kernel)⟩,
   ⟨0, fl 0x0E00, op (fl 0x0E00), ready_of (by decide +kernel)⟩,
   ⟨0, { fl 0x0E01 0 [(24, 1700000000)] with tAdm := 999999000 }, op { fl 0x0E01 0 [(24, 1700000000)] with tAdm := 999999000 },
    ready_of (by decide +kernel), by decide +kernel⟩,
   ⟨0, { fl 0x0E01 0 [(24, 1002)] with tAdm := 999999999 },
    op { fl 0x0E01 0 [(24, 1002)] with tAdm := 999999999 } (ck (fun c => { c with wallSet := true })), ready_of (by decide +kernel),
    by decide +kernel⟩,
   ⟨0, 940000001, { fl 0x0E01 0 [(24, 1001)] with tAdm := 1000000000 },
    op { fl 0x0E01 0 [(24, 1001)] with tAdm := 1000000000 } (ck (fun c => { c with wallSet := true, lastSet := some 940000001 })),
    ready_of (by decide +kernel), by decide +kernel⟩,
   ⟨0, fl 0x0E02 32, op (fl 0x0E02 32), ready_of (by decide +kernel), by decide +kernel⟩⟩

end Clocks

/-! ### CustodyOperations -/

namespace CusOps

/-- A sealed record of class 1 with an empty body, the first of its chain, kept on both drives. -/
def rec1 : CusRec :=
  { cls := 1, rid := 1, origin := 1, kind := 0, tMono := 5, wall := 0, ten := 0, party := 0, bodyLen := 0, seq := 1, epoch := 1, lsn := 1
    stored := be 64 0x43555352010101000100000000000000050000000000000000000000000000000000000000000000010000000000000001000000000000000100000000000000 ++
      zeros 64 ++ be 64 0x5927ac9427caa9a754684032abae5fa93e44f0b49775b70829ead78403d346aa71873e5df802e8639030dad58aed6ec9fa2128317218597acfed18e0ecd5f4a
    hash := be 48 0x5927ac9427caa9a754684032abae5fa93e44f0b49775b70829ead78403d346aa71873e5df802e8639030dad58aed6ec
    places := [⟨1, 0, 192⟩] }
def grp1 : Group := { id := 1, cls := 1, data := 1, parity := false, members := [⟨0, true⟩, ⟨1, true⟩], used := 192 }
def kept : State := let s := stocked up
  { s with cus := { s.cus with recs := [rec1], groups := [grp1], nextGroup := 2, heads := [(1, { rid := 1, hash := rec1.hash })] } }
theorem sealHolds_congr {s t : State} {x : CusRec} (h : s.sec = t.sec) : sealHolds s x = sealHolds t x := by
  simp only [sealHolds, sealKey, custodyNode, branchKey, systemKey, h]
theorem rec1_seals : sealHolds kept rec1 = true := by decide +kernel

/-- States and operands that meet the hypotheses of each clause of CustodyOperations. -/
theorem witness :
    (∃ (r : Nat) (d : Bytes) (f : Flight) (s : State) (u : State), (Ready 0x0600 r f s) ∧ (vaultOk s = true) ∧ (canSeal s = true) ∧
        (s.cus.jobs.any (fun j => j.item.cls == fieldLE f.raw 24 1) = false) ∧ (driveCount s.cus ≠ 0) ∧
        (5 * (storeSpace s.cus).2 ≤ 100 * (storeSpace s.cus).1) ∧ (hashUp s = true) ∧ (fieldLE f.raw 24 1 = 2 → waitingPart s = none) ∧
        (beginRec (.append r) { cls := fieldLE f.raw 24 1, rid := 0, origin := 1, kind := 0, tMono := monoUs s, wall := wallUs s / 1000000, ten := f.ten, party := f.party, bodyLen := dLen f.raw, seq := dSeq f.raw, epoch := s.slc.epoch, lsn := f.lsn, stored := [], hash := [], places := [] } (slice d 0 (dLen f.raw)) (atStage r 0x01 0 (started r s)) = .ok u)) ∧
    (∃ (r : Nat) (f : Flight) (x : CusRec) (s : State), (Ready 0x0601 r f s) ∧
        (findRec s (fieldLE f.raw 24 1) (fieldLE f.raw 32 8) = some x) ∧ (mayRead s f x = true) ∧
        (192 + (x.bodyLen + 63) / 64 * 64 ≤ dLen f.raw) ∧ (recLost s x = false) ∧ (recReadable s x = true) ∧ (secReady s = true) ∧
        (vaultOk s = true) ∧ (s.sec.genLsn ≤ x.lsn) ∧ (hashUp s = true) ∧ (sealHolds s x = true) ∧
        (fieldLE f.raw 24 1 = 3 → commitHolds f (mayReadNow s f x) s = true ∧ canLog (.readOut r) s = true)) ∧
    (∃ (r : Nat) (f : Flight) (s : State), (Ready 0x0601 r f s) ∧ (findRec s (fieldLE f.raw 24 1) (fieldLE f.raw 32 8) = none)) ∧
    (∃ (r : Nat) (f : Flight) (l : List CusRec) (s : State), (Ready 0x0602 r f s) ∧
        (l = ((classRecs s (fieldLE f.raw 24 1)).filter (fun x => decide (fieldLE f.raw 32 8 ≤ x.tMono) && mayRead s f x)).take (dLen f.raw / 32))) ∧
    (∃ (r : Nat) (f : Flight) (l : List CusRec) (s : State), (Ready 0x0603 r f s) ∧ (vaultOk s = true) ∧ (secReady s = true) ∧
        (hashUp s = true) ∧ (1 ≤ fieldLE f.raw 32 8) ∧ (fieldLE f.raw 40 8 ≤ lastRid s (fieldLE f.raw 24 1)) ∧
        (l = (classRecs s (fieldLE f.raw 24 1)).filter (fun x => decide (fieldLE f.raw 32 8 ≤ x.rid) && decide (x.rid ≤ fieldLE f.raw 40 8))) ∧
        (∀ x ∈ l, recLost s x = false ∧ verifies s x = true)) ∧
    (∃ (r : Nat) (f : Flight) (s : State), (Ready 0x0604 r f s)) ∧
    (∃ (d : Fin 4) (u : Nat) (op : Nat) (j : CusJob) (f : Flight) (s : State), ((getDrive s d).unit = some u) ∧ (firstJob s u = some j) ∧
        (j.wait = [u]) ∧ (j.what = .append op) ∧ (getFlight s op = some f) ∧ (f.fate = none)) :=
  ⟨⟨0, [], fl 0x0600 0 [(24, 1)], op (fl 0x0600 0 [(24, 1)]) (stocked up), _, ready_of (by decide +kernel),
    also4 (by decide +kernel) (also3 (by decide +kernel) (begun_of (by decide +kernel)))⟩,
   ⟨0, fl 0x0601 192 [(24, 1), (32, 1)], rec1, op (fl 0x0601 192 [(24, 1), (32, 1)]) kept, ready_of (by decide +kernel),
    also4 (by decide +kernel) (also4 (by decide +kernel) ⟨by decide +kernel, (sealHolds_congr rfl).trans rec1_seals, by decide +kernel⟩)⟩,
   ⟨0, fl 0x0601 192 [(24, 1), (32, 2)], op (fl 0x0601 192 [(24, 1), (32, 2)]) kept, ready_of (by decide +kernel), by decide +kernel⟩,
   ⟨0, fl 0x0602 32 [(24, 1)], _, op (fl 0x0602 32 [(24, 1)]) kept, ready_of (by decide +kernel), rfl⟩,
   ⟨0, fl 0x0603 0 [(24, 1), (32, 1), (40, 1)], [rec1], op (fl 0x0603 0 [(24, 1), (32, 1), (40, 1)]) kept, ready_of (by decide +kernel),
    also3 (by decide +kernel) (also3 (by decide +kernel) (fun x hx => by
    obtain rfl := List.mem_singleton.mp hx
    refine ⟨by decide +kernel, ?_⟩
    refine Bool.and_eq_true_iff.mpr ⟨by decide +kernel, (sealHolds_congr rfl).trans rec1_seals⟩))⟩,
   ⟨0, fl 0x0604, op (fl 0x0604) kept, ready_of (by decide +kernel)⟩,
   ⟨1, 1, 0, { what := .append 0, item := rec1, wait := [1], wrote := 1 }, { fl 0x0600 0 [(24, 1)] with begun := true },
    { (Sys2Proof.Tests.op { fl 0x0600 0 [(24, 1)] with begun := true } (stocked up)) with cus := { (stocked up).cus with groups := [grp1], jobs := [{ what := .append 0, item := rec1, wait := [1], wrote := 1 }] } },
    by decide +kernel⟩⟩

end CusOps

/-! ### CustodyDrives -/

namespace Drives

def drv (x : Drive) (s : State) : State := { s with cus := { s.cus with drives := modAt s.cus.drives 3 (fun _ => x) } }

/-- States and operands that meet the hypotheses of each clause of CustodyDrives. -/
theorem witness :
    (∃ (d : Fin 4) (s : State), (Shaped s) ∧ ((getDrive s d).link = true) ∧ ((getDrive s d).unit ≠ none) ∧
        ((getDrive s d).st = .online ∨ (getDrive s d).st = .worn)) ∧
    (∃ (d : Fin 4) (s : State), (Shaped s) ∧ ((getDrive s d).link = true) ∧ ((getDrive s d).st = .online ∨ (getDrive s d).st = .worn)) ∧
    (∃ (d : Fin 4) (t0 : Nat) (s : State), (Shaped s) ∧ ((getDrive s d).downAt = some t0) ∧ ((getDrive s d).link = false) ∧
        ((getDrive s d).unit ≠ none) ∧ ((getDrive s d).st = .online ∨ (getDrive s d).st = .worn)) ∧
    (∃ (d : Fin 4) (s : State), (Shaped s) ∧ (portUp s pNvm d = true) ∧ ((getDrive s d).link = false)) ∧
    (∃ (d : Fin 4) (l : DriveLabel) (s : State), (Shaped s) ∧ ((getDrive s d).st = .init) ∧ (portUp s pNvm d = true) ∧ (l.label = none) ∧
        (namespaceOk l = true) ∧ (canDraw s = true)) ∧
    (∃ (d : Fin 4) (l : DriveLabel) (store : BitVec 128) (uid : Bytes) (s : State), (Shaped s) ∧ ((getDrive s d).st = .init) ∧
        (portUp s pNvm d = true) ∧ (namespaceOk l = true) ∧ (l.label = some (store, uid)) ∧ (store ≠ s.fuse.uid)) ∧
    (∃ (d : Fin 4) (l : DriveLabel) (uid : Bytes) (u : Nat) (k : StoreDrive) (s : State), (Shaped s) ∧ ((getDrive s d).st = .init) ∧
        (portUp s pNvm d = true) ∧ (namespaceOk l = true) ∧ (l.label = some (s.fuse.uid, uid)) ∧ (knownUnit s uid = some u) ∧
        (s.cus.known[u]? = some k) ∧ (k.lost = false)) ∧
    (∃ (d : Fin 4) (l : DriveLabel) (s : State), ((getDrive s d).st = .init) ∧ (portUp s pNvm d = true) ∧ (namespaceOk l = false)) ∧
    (∃ (d : Fin 4) (s : State), ((getDrive s d).st = .init) ∧ (unitSt s pNvm d = .up)) ∧
    (∃ (d : Fin 4) (pct : Nat) (s : State), (Shaped s) ∧ ((getDrive s d).st = .online) ∧ ((custodyCfg s).wearPct ≤ pct)) ∧
    (∃ (pct : Nat) (s : State), (Shaped s) ∧ (pct < (custodyCfg s).wearPct)) :=
  ⟨⟨1, stocked up, shaped_of (by decide +kernel), by decide +kernel⟩,
   ⟨1, stocked up, shaped_of (by decide +kernel), by decide +kernel⟩,
   ⟨3, 999999000, drv { st := .worn, unit := some 0, downAt := some 999999000 } up, shaped_of (by decide +kernel), by decide +kernel⟩,
   ⟨3, up, shaped_of (by decide +kernel), by decide +kernel⟩,
   ⟨3, { label := none, cap := 67108865, used := 1, temp := 40 }, drv { st := .init, link := true } up, shaped_of (by decide +kernel),
    by decide +kernel⟩,
   ⟨3, { label := some (7, List.replicate 16 1), cap := 67108865, used := 1, temp := 40 }, 7, List.replicate 16 1,
    drv { st := .init, link := true } up, shaped_of (by decide +kernel), by decide +kernel⟩,
   ⟨3, { label := some (up.fuse.uid, List.replicate 16 2), cap := 1000, used := 1, temp := 40, lba := 4096 }, List.replicate 16 2, 1, { uid := List.replicate 16 2 },
    drv { st := .init, link := true } (stocked up), shaped_of (by decide +kernel), by decide +kernel⟩,
   ⟨3, { label := none, cap := 1000, used := 1, temp := 40, plain := false }, drv { st := .init, link := true } up, by decide +kernel⟩,
   ⟨3, drv { st := .init, link := true, initAt := 999000000 } up, by decide +kernel⟩,
   ⟨1, 90, stocked up, shaped_of (by decide +kernel), by decide +kernel⟩,
   ⟨89, stocked up, shaped_of (by decide +kernel), by decide +kernel⟩⟩

end Drives

/-! ### CustodyCare -/

namespace CusCare

def grp0 : Group := { id := 1, cls := 1, data := 1, parity := false, members := [⟨0, true⟩], used := 192 }
def rec0 : CusRec := { cls := 1, rid := 1, origin := 1, kind := 0, tMono := 5, wall := 0, ten := 0, party := 0, bodyLen := 64, seq := 1, epoch := 1, lsn := 1, stored := [], hash := [9], places := [⟨2, 0, 192⟩] }
def halfKept : State := let s := stocked up
  { s with cus := { s.cus with groups := [grp0], nextGroup := 2, recs := [{ rec0 with places := [⟨1, 0, 192⟩] }] } }
/-- Both drives full of groups, and a time past every retention. -/
def fullStore : State := let s := stocked up
  { s with clk := { s.clk with ns := 10 ^ 20 }, cus := { s.cus with recs := [rec0], groups := [{ id := 1, cls := 1, data := 900, parity := false, members := [⟨0, true⟩, ⟨1, true⟩] }, { id := 2, cls := 1, data := 1, parity := false, members := [⟨0, true⟩, ⟨1, true⟩], used := 192 }], nextGroup := 3 } }
def leds (f : Ledger → Ledger) : State := modLed f (stocked up)
/-- A second copy of the group is being written on the other drive. -/
def grp0b : Group := { grp0 with members := [⟨0, true⟩, ⟨1, true⟩] }
def copying : CusJob := { what := .move grp0 [grp0b], item := rec0, wait := [1], wrote := 0 }
def moving : State := { halfKept with cus := { halfKept.cus with jobs := [copying] } }
/-- Parked with LEDGER_LOW, and with enables and rails. -/
def low (en : BitVec 4) (rails : BitVec 9) : State :=
  let t := leds (fun l => { l with low := true })
  { t with pwr := { t.pwr with mode := .parked, en := en, railGood := rails }, sys := { t.sys with ready := false } }

/-- States and operands that meet the hypotheses of each clause of CustodyCare; clauses 4 and 11 have none. -/
theorem witness :
    (∃ (g : Group) (l : List Group) (s : State), (storeOn s = true) ∧ (s.pwr.govLevel < 4) ∧ (s.pwr.ledgerDrain = false) ∧
        (moveOf s.cus = none) ∧ (nextStep s = some (g, l)) ∧ (writtenTo (moveWrites g l s.cus) ≠ [])) ∧
    (∃ (d : Fin 4) (u : Nat) (j : CusJob) (g : Group) (h : Group) (l : List Group) (s : State), ((getDrive s d).unit = some u) ∧
        (firstJob s u = some j) ∧ (j.wait = [u]) ∧ (j.what = .move g (h :: l)) ∧ (moveStands s.cus g (h :: l) = true) ∧
        (canLog (.other 434 g.id) s = true)) ∧
    (∃ (g : Group) (h : Group) (l : List Group) (s : State), (h.id = g.id) ∧ (moveStands s.cus g (h :: l) = true) ∧
        (canLog (.other 434 g.id) s = true)) ∧
    (∃ (s : State), (4 ≤ s.pwr.govLevel)) ∧
    (∃ (x : CusRec) (s : State), (storeOn s = true) ∧ (100 * (storeSpace s.cus).1 < 5 * (storeSpace s.cus).2) ∧
        (oldestEvictable s = some x)) ∧
    (∃ (s : State), (5 * (storeSpace s.cus).2 ≤ 100 * (storeSpace s.cus).1)) ∧
    (∃ (s : State), (s.led.aFailed = false) ∧ (s.led.aSpares ≠ 0)) ∧
    (∃ (s : State), (s.led.bFailed = false) ∧ (s.led.bSpares ≠ 0)) ∧
    (∃ (s : State), (s.led.aFailed = false) ∧ (s.led.aSpares = 0) ∧ (s.led.bFailed = false)) ∧
    (∃ (s : State) (u : State) (v : State), (storeOn s = true) ∧ (sinceCp s ≠ 0) ∧
        (u = custodyWork (reclaim (if sinceCp s < 8192 then elapseTo (s.led.cpAt + 1000000) s else s))) ∧ (beginCp u = .ok v)) ∧
    (∃ (s : State), (s.pwr.mode = .parked) ∧ (s.pwr.vaon = true) ∧ (s.pwr.start = .settled) ∧ (s.led.low = true) ∧
        ((groupGood s 1 && groupGood s 2 && groupGood s 3) = false) ∧ (groupGood s 0 = true)) ∧
    (∃ (s : State), (s.pwr.mode = .parked) ∧ (s.pwr.vaon = true) ∧ (s.pwr.start = .settled) ∧ (s.led.low = true) ∧
        ((groupGood s 1 && groupGood s 2 && groupGood s 3) = true) ∧ (s.cus.drainStep = 0)) ∧
    (∃ (s : State), (s.pwr.mode = .parked) ∧ (s.pwr.vaon = true) ∧ (s.pwr.start = .settled) ∧
        ((groupGood s 1 && groupGood s 2 && groupGood s 3) = true) ∧ (s.cus.drainStep = 2) ∧
        (s.cus.jobs.all (fun j => j.wait.isEmpty) = true)) :=
  ⟨⟨_, _, halfKept, by decide +kernel, by decide +kernel, by decide +kernel, by decide +kernel, (Option.some_get (by decide +kernel)).symm,
    by decide +kernel⟩,
   ⟨1, 1, copying, grp0, grp0b, [], moving, by decide +kernel⟩,
   ⟨grp0, grp0b, [], moving, by decide +kernel⟩,
   ⟨{ stocked up with pwr := { (stocked up).pwr with govLevel := 4 } }, by decide +kernel⟩,
   ⟨rec0, fullStore, by decide +kernel⟩,
   ⟨stocked up, by decide +kernel⟩,
   ⟨leds (fun l => { l with aSpares := 1 }), by decide +kernel⟩,
   ⟨leds (fun l => { l with bSpares := 1 }), by decide +kernel⟩,
   ⟨leds (fun l => { l with aSpares := 0, aRefill := 2 }), by decide +kernel⟩,
   ⟨leds (fun l => { l with log := [{ lsn := 1, kind := .checkpoint, units := 4 }], lsn := 1, cpAt := 1000000000, used := 4 }), _, _,
    by decide +kernel, by decide +kernel, rfl, begun_of (by decide +kernel)⟩,
   ⟨low 1 0x7, by decide +kernel⟩,
   ⟨low 0xF 0x1FF, by decide +kernel⟩,
   ⟨{ low 0xF 0x1FF with cus := { (stocked up).cus with drainStep := 2 } }, by decide +kernel⟩⟩

end CusCare

/-! ### CouplingAndPositions -/

namespace Coupling

def onPort (p : Nat) (x : Port) (s : State := lined) : State := modPort p (fun _ => x) s
def rolled : Bytes := be 16 77 ++ le 1 1 ++ le 1 2 ++ le 1 3 ++ zeros 3
def assign1 : QFrame := { ltype := 4, final := 1, orig := 0, body := be 16 77 ++ le 1 1 ++ zeros 3 ++ be 4 9 }

/-- States and operands that meet the hypotheses of each clause of CouplingAndPositions. -/
theorem witness :
    (∃ (p : Fin 4) (t0 : Nat) (s : State), (Shaped s) ∧ (linkMode s = true) ∧ (lineUp s p = true) ∧ (upstream s p = false) ∧
        (ownPos s ≤ 7) ∧ ((getPort s p).link ≠ .quarantined) ∧ ((getPort s p).beaconAt = some t0) ∧ ((getPort s p).rolled = true)) ∧
    (∃ (p : Fin 4) (t0 : Nat) (s : State), (Shaped s) ∧ (linkMode s = true) ∧ (lineUp s p = true) ∧ (s.sys.trailer = false) ∧
        ((getPort s p).beaconAt = some t0) ∧ ((getPort s p).rolled = false) ∧ ((getPort s p).missed = 2) ∧
        (isCoupled (getPort s p).link = true) ∧ (s.ifl.stepEnd = none)) ∧
    (∃ (p : Fin 4) (b : Bytes) (s : State), (Shaped s) ∧ (frameFits 1 b = true) ∧ (hears s p = true) ∧ (upstream s p = true) ∧
        ((linkHead b).cpl = s.ifl.ownCpl)) ∧
    (∃ (p : Fin 4) (b : Bytes) (s : State), (frameFits 1 b = true) ∧ (hears s p = true) ∧ (upstream s p = true) ∧
        (s.ifl.ownPos.isSome = true) ∧ ((linkHead b).cpl ≠ s.ifl.ownCpl)) ∧
    (∃ (p : Fin 4) (b : Bytes) (pos : Nat) (s : State), (Shaped s) ∧ (frameFits 2 b = true) ∧ (hears s p = true) ∧ (linkMode s = true) ∧
        (s.sys.trailer = false) ∧ ((getPort s p).link = .down) ∧ ((linkHead b).cpl = 0) ∧
        (choosePos (headUid (linkHead b).body) s = some pos) ∧ (s.ifl.nodes.all (fun e => e.2.parent != pos) = true) ∧ (canDraw s = true)) ∧
    (∃ (p : Fin 4) (src : Fin 16) (b : Bytes) (q : QFrame) (n : Node) (s : State), (Shaped s) ∧ (frameFits 2 b = true) ∧
        (hears s p = true) ∧ (linkMode s = true) ∧ (s.sys.trailer = false) ∧ ((getPort s p).link = .joining) ∧
        ((getPort s p).assign = some q) ∧ (src.val = byteAt q.body 16) ∧ (headUid (linkHead b).body = headUid q.body) ∧
        ((linkHead b).cpl = 0) ∧ (nodeAt s (byteAt q.body 16) = some n)) ∧
    (∃ (p : Fin 4) (b : Bytes) (s : State), (Shaped s) ∧ ((linkHead b).hseq = 0) ∧ (frameFits 4 b = true) ∧ (hears s p = true) ∧
        (upstream s p = true) ∧ (linkMode s = true) ∧ ((linkHead b).cpl = 0) ∧ (headUid (linkHead b).body = fromBE (uidBytes s)) ∧
        (1 ≤ byteAt (linkHead b).body 16) ∧ (byteAt (linkHead b).body 16 ≤ 7) ∧ (s.ifl.ownPos = none)) ∧
    (∃ (p : Fin 4) (b : Bytes) (pos : Nat) (s : State), (InOrder 3 p b s) ∧ (s.sys.trailer = false) ∧ (linkMode s = true) ∧
        (choosePos (headUid (slice (linkHead b).body 0 22)) s = some pos) ∧ (s.ifl.nodes.all (fun e => e.2.parent != pos) = true) ∧
        (canDraw s = true)) ∧
    (∃ (p : Fin 4) (b : Bytes) (n : Node) (s : State), (InOrder 5 p b s) ∧ (s.sys.trailer = false) ∧
        (nodeAt s (byteAt (linkHead b).body 0) = some n)) ∧
    (∃ (p : Fin 4) (b : Bytes) (n : Node) (s : State), (InOrder 6 p b s) ∧ (s.sys.trailer = false) ∧
        (nodeAt s (byteAt (linkHead b).body 0) = some n)) ∧
    (∃ (p : Fin 4) (b : Bytes) (s : State), (InOrder 10 p b s) ∧ (s.sys.trailer = false)) :=
  ⟨⟨3, 999950000, onPort 3 { link := .coupledF, beaconAt := some 999950000, rolled := true, missed := 2, beaconSeq := 65535 },
    shaped_of (by decide +kernel), by decide +kernel⟩,
   ⟨3, 999950000, onPort 3 { link := .coupledF, beaconAt := some 999950000, rolled := false, missed := 2 } (noded 3),
    shaped_of (by decide +kernel), by decide +kernel⟩,
   ⟨0, lframe 1 0xF 0 0 5 (zeros 4), trailing, shaped_of (by decide +kernel), by decide +kernel⟩,
   ⟨0, lframe 1 0xF 0 0 6 (zeros 4), trailing, by decide +kernel⟩,
   ⟨3, lframe 2 0 0xE 0 0 rolled, 1, lined, shaped_of (by decide +kernel), by decide +kernel⟩,
   ⟨3, 1, lframe 2 0 1 0 0 rolled, assign1, { nodeOn 3 with joined := false },
    let t := onPort 3 { link := .joining, assign := some assign1, joinAt := some 999000000 }; { t with ifl := { t.ifl with nodes := [(1, { nodeOn 3 with joined := false })] } },
    shaped_of (by decide +kernel), by decide +kernel⟩,
   ⟨0, lframe 4 7 0 0 0 (zeros 16 ++ le 1 7 ++ zeros 3 ++ be 4 9), { trailing with ifl := { lined.ifl with ownPos := none } },
    shaped_of (by decide +kernel), by decide +kernel⟩,
   ⟨3, lframe 3 0 1 1 9 (be 16 78 ++ zeros 6 ++ le 1 1 ++ le 1 1), 2, onPort 3 { link := .coupledF, pos := 1, cpl := 9 } (noded 3),
    inOrder_of (by decide +kernel), by decide +kernel⟩,
   ⟨3, lframe 5 0 1 1 9 (le 1 1), nodeOn 3, onPort 3 { link := .coupledF, pos := 1, cpl := 9 } (noded 3), inOrder_of (by decide +kernel),
    by decide +kernel⟩,
   ⟨3, lframe 6 0 1 1 9 (le 1 1 ++ le 1 0), nodeOn 3, onPort 3 { link := .coupledF, pos := 1, cpl := 9 } (noded 3),
    inOrder_of (by decide +kernel), by decide +kernel⟩,
   ⟨3, lframe 10 0 1 1 9 (zeros 3), onPort 3 { link := .coupledF, pos := 1, cpl := 9 } (noded 3), inOrder_of (by decide +kernel),
    by decide +kernel⟩⟩

end Coupling

/-! ### ChainDataAndOperations -/

namespace ChainData

def onPort (p : Nat) (x : Port) (s : State := noded 3) : State := modPort p (fun _ => x) s
def coupled3 : State := onPort 3 { link := .coupledF, pos := 1, cpl := 9 }
def trail0 : State := onPort 0 { link := .coupledT, cpl := 5 } trailing
def tx1 (op : Option Nat) (tries : Nat) : TxFrame := { hseq := 1, frame := { ltype := 8, final := 1, orig := 0, body := [1, 0, 0, 0], op := op }, tries := tries, sentAt := 999990000 }

/-- States and operands that meet the hypotheses of each clause of ChainDataAndOperations. -/
theorem witness :
    (∃ (p : Fin 4) (b : Bytes) (s : State), (InOrder 7 p b s) ∧ (upstream s p = true) ∧ (byteAt (linkHead b).body 0 = 1)) ∧
    (∃ (p : Fin 4) (b : Bytes) (s : State), (InOrder 7 p b s) ∧ (upstream s p = true) ∧ (byteAt (linkHead b).body 0 ≠ 1)) ∧
    (∃ (p : Fin 4) (b : Bytes) (ten : Nat) (l : List (Nat × Bytes)) (s : State), (InOrder 8 p b s) ∧ (byteAt (linkHead b).body 0 = 1) ∧
        (ten = beAt (linkHead b).body 2 2) ∧ (tenExists s ten = true) ∧
        (l = tabGet [] s.ifl.inbox ten ++ [((linkHead b).orig, (linkHead b).body.drop 4)]) ∧
        ((l.map (fun e => e.2.length)).foldl (· + ·) 0 ≤ 65536)) ∧
    (∃ (p : Fin 4) (b : Bytes) (s : State), (frameFits 8 b = true) ∧ (hears s p = true) ∧ (isCoupled (getPort s p).link = true) ∧
        ((linkHead b).cpl = (getPort s p).cpl) ∧ ((linkHead b).hseq ≠ 0) ∧ (8 ≤ seqDist (getPort s p).rxNext (linkHead b).hseq)) ∧
    (∃ (p : Fin 4) (b : Bytes) (s : State), (Shaped s) ∧ (frameFits 9 b = true) ∧ (hears s p = true) ∧
        (isCoupled (getPort s p).link = true) ∧ ((linkHead b).cpl = (getPort s p).cpl) ∧ ((getPort s p).queue = []) ∧
        ((getPort s p).unacked.all (fun x => x.frame.op.isNone && x.frame.ltype != 7) = true)) ∧
    (∃ (p : Fin 4) (b : Bytes) (r : Nat) (x : TxFrame) (y : Relay) (s : State), (Shaped s) ∧ (frameFits 9 b = true) ∧ (hears s p = true) ∧
        (isCoupled (getPort s p).link = true) ∧ ((linkHead b).cpl = (getPort s p).cpl) ∧ ((getPort s p).queue = []) ∧
        ((getPort s p).unacked = [x]) ∧ (x.frame.op = some r) ∧ (x.frame.ltype ≠ 7) ∧
        (ackCovers (beAt (linkHead b).body 0 2) (byteAt (linkHead b).body 2) x.hseq = true) ∧
        (s.ifl.relays.find? (fun z => z.op == r) = some y) ∧ (y.accepted + 1 = y.total) ∧ (∃ f, getFlight s r = some f ∧ f.fate = none)) ∧
    (∃ (p : Fin 4) (x : TxFrame) (s : State), (Shaped s) ∧
        (oldestFrame ((getPort s p).unacked.filter (fun t => fitsProfile (getPort s p) t.frame)) = some x) ∧ (linkMode s = true) ∧
        (canSend s p = true) ∧ (isCoupled (getPort s p).link = true) ∧ ((getPort s p).busyUntil ≤ x.sentAt) ∧ (x.tries < 8) ∧
        ((getPort s p).queue = [])) ∧
    (∃ (p : Fin 4) (x : TxFrame) (s : State), (Shaped s) ∧
        (oldestFrame ((getPort s p).unacked.filter (fun t => fitsProfile (getPort s p) t.frame)) = some x) ∧ (linkMode s = true) ∧
        (canSend s p = true) ∧ (isCoupled (getPort s p).link = true) ∧ ((getPort s p).busyUntil ≤ x.sentAt) ∧ (8 ≤ x.tries) ∧
        (s.sys.trailer = false) ∧ (s.ifl.stepEnd = none)) ∧
    (∃ (s : State), (s.sys.trailer = true) ∧ (s.ifl.ownPos.isSome = true) ∧ (s.sys.ready = true) ∧
        (s.pwr.mode = .cab ∨ s.pwr.mode = .drive)) ∧
    (∃ (r : Nat) (f : Flight) (n : Node) (s : State), (Ready 0x0500 r f s) ∧ (s.clk.onRc = false) ∧
        (nodeAt s (fieldLE f.raw 24 1) = some n) ∧ (n.joined = true) ∧
        (s.ifl.nodes.any (fun e => e.2.adrift && behind s e.1 7 (fieldLE f.raw 24 1)) = false) ∧ (canLog (.intent 4 r) s = true)) ∧
    (∃ (r : Nat) (f : Flight) (s : State), (Ready 0x0500 r f s) ∧ (s.clk.onRc = false) ∧ (nodeAt s (fieldLE f.raw 24 1) = none)) ∧
    (∃ (r : Nat) (f : Flight) (l : List (Nat × Node)) (s : State), (Ready 0x0501 r f s) ∧ (l = s.ifl.nodes.take (dLen f.raw / 32))) ∧
    (∃ (r : Nat) (f : Flight) (l : List (Nat × Bytes)) (s : State), (Ready 0x0502 r f s) ∧
        (l = recvFit (dLen f.raw) (tabGet [] s.ifl.inbox f.ten))) :=
  ⟨⟨0, lframe 7 2 0 1 5 (le 1 1), trail0, inOrder_of (by decide +kernel), by decide +kernel⟩,
   ⟨0, lframe 7 2 0 1 5 (le 1 0), trail0, inOrder_of (by decide +kernel), by decide +kernel⟩,
   ⟨3, lframe 8 0 1 1 9 ([1, 0, 0, 0] ++ [5, 6, 7]), _, _, coupled3, inOrder_of (by decide +kernel), by decide +kernel, rfl,
    by decide +kernel, rfl, by decide +kernel⟩,
   ⟨3, lframe 8 0 1 9 9 ([1, 0, 0, 0] ++ [5, 6, 7]), coupled3, by decide +kernel⟩,
   ⟨3, lframe 9 0 1 0 9 (be 2 2 ++ zeros 2), onPort 3 { link := .coupledF, pos := 1, cpl := 9, txSeq := 2, unacked := [tx1 none 1] },
    shaped_of (by decide +kernel), by decide +kernel⟩,
   ⟨3, lframe 9 0 1 0 9 (be 2 2 ++ zeros 2), 0, tx1 (some 0) 1, { op := 0, final := 1, accepted := 2, total := 3 },
    let t := op { fl 0x0500 with begun := true } (onPort 3 { link := .coupledF, pos := 1, cpl := 9, txSeq := 2, unacked := [tx1 (some 0) 1] }); { t with ifl := { t.ifl with relays := [{ op := 0, final := 1, accepted := 2, total := 3 }] } },
    shaped_of (by decide +kernel),
    also4 (by decide +kernel) (also4 (by decide +kernel) (also3 (by decide +kernel) ⟨{ fl 0x0500 with begun := true }, by decide +kernel⟩))⟩,
   ⟨3, tx1 none 7, onPort 3 { link := .coupledF, pos := 1, cpl := 9, txSeq := 2, unacked := [tx1 none 7] }, shaped_of (by decide +kernel),
    by decide +kernel⟩,
   ⟨3, tx1 none 8, onPort 3 { link := .coupledF, pos := 1, cpl := 9, txSeq := 2, unacked := [tx1 none 8] }, shaped_of (by decide +kernel),
    by decide +kernel⟩,
   ⟨trailing, by decide +kernel⟩,
   ⟨0, fl 0x0500 100 [(24, 1), (26, 64)], nodeOn 3, op (fl 0x0500 100 [(24, 1), (26, 64)]) coupled3, ready_of (by decide +kernel),
    by decide +kernel⟩,
   ⟨0, fl 0x0500 100 [(24, 2), (26, 64)], op (fl 0x0500 100 [(24, 2), (26, 64)]) coupled3, ready_of (by decide +kernel), by decide +kernel⟩,
   ⟨0, fl 0x0501 32, _, op (fl 0x0501 32) coupled3, ready_of (by decide +kernel), rfl⟩,
   ⟨0, fl 0x0502 64, _,
    op (fl 0x0502 64) { coupled3 with ifl := { coupled3.ifl with inbox := [(0, [(1, [5, 6]), (1, List.replicate 60 3)])] } },
    ready_of (by decide +kernel), rfl⟩⟩

end ChainData

/-! ### ChainHoldsAndServices -/

namespace ChainCare

def onPort (p : Nat) (x : Port) (s : State := noded 3) : State := modPort p (fun _ => x) s
def lone : Node := { nodeOn 3 with adrift := true }
/-- An LF request of one channel and two segments. -/
def lfReq (ch : BitVec 8) : Bytes := [1, ch, 0xFF, 0xFF, 0, 0, 0, 2, 0, 0, 0, 0, 0, 2, 2, 0, 1, 0, 1, 0, 0, 0, 0, 3]

/-- States and operands that meet the hypotheses of each clause of ChainHoldsAndServices. -/
theorem witness :
    (∃ (t0 : Nat) (s : State), (s.ifl.stepEnd = some t0)) ∧
    (∃ (p : Fin 4) (t0 : Nat) (l : List (Nat × Nat)) (s : State), (Shaped s) ∧ ((getPort s p).link = .adrift) ∧
        ((getPort s p).holds = ((getPort s p).pos, t0) :: l)) ∧
    (∃ (p : Fin 4) (pos : Nat) (t0 : Nat) (l : List (Nat × Nat)) (n : Node) (s : State), (s.sys.trailer = false) ∧
        ((getPort s p).holds = (pos, t0) :: l) ∧ ((getPort s p).link ≠ .adrift ∨ (getPort s p).pos ≠ pos) ∧ (nodeAt s pos = some n) ∧
        (n.adrift = true)) ∧
    (∃ (p : Fin 4) (t0 : Nat) (s : State), (upstream s p = true) ∧ (s.ifl.ownPos.isSome = true) ∧ (linkMode s = true) ∧
        ((getPort s p).beaconAt = some t0)) ∧
    (∃ (b : Bytes) (s : State), (s.sys.trailer = true) ∧ (s.ifl.ownPos.isSome = true) ∧ (8 ≤ b.length) ∧ (zeroAt b 7 1 = true) ∧
        (byteAt b 0 = 1) ∧ (byteAt b 1 < 8) ∧ (readerUp s (byteAt b 1) = true)) ∧
    (∃ (b : Bytes) (chans : List Nat) (off : Nat) (w : Nat) (ns : Nat) (syms : Bytes) (l : List (Nat × Bytes)) (s : State), (s.sys.trailer = true) ∧
        (s.ifl.ownPos.isSome = true) ∧ (8 ≤ b.length) ∧ (byteAt b 0 = 1) ∧
        (chans = [byteAt b 1, byteAt b 2, byteAt b 3].filter (· != 0xFF)) ∧ (lfChanStatus s chans = 0) ∧
        (lfSegments (byteAt b 7) (b.drop 8) = (off, syms) :: l) ∧ (ns = 1000 * (syms.map symbolUs).foldl (· + ·) 0) ∧
        (furrowGrant s ns (s.clk.ns + 1000 * off) = .at w) ∧ (w ≤ s.clk.ns + 1000 * off + 5000)) ∧
    (∃ (b : Bytes) (chans : List Nat) (s : State), (s.sys.trailer = true) ∧ (s.ifl.ownPos.isSome = true) ∧ (8 ≤ b.length) ∧
        (byteAt b 0 = 1) ∧ (chans = [byteAt b 1, byteAt b 2, byteAt b 3].filter (· != 0xFF)) ∧ (lfChanStatus s chans ≠ 0)) :=
  ⟨⟨1000000500, { lined with ifl := { lined.ifl with stepEnd := some 1000000500 } }, by decide +kernel⟩,
   ⟨3, 999999000, [], onPort 3 { link := .adrift, pos := 1, cpl := 9, holds := [(1, 999999000)] }, shaped_of (by decide +kernel), by decide +kernel⟩,
   ⟨3, 1, 999999000, [], lone, let t := onPort 3 { holds := [(1, 999999000)] }; { t with ifl := { t.ifl with nodes := [(1, lone)] } }, by decide +kernel⟩,
   ⟨0, 999999000, onPort 0 { link := .coupledT, cpl := 5, beaconAt := some 999999000 } trailing, by decide +kernel⟩,
   ⟨[1, 7, 0, 9, 0x0B, 0xB8, 0, 0], trailing, by decide +kernel⟩,
   ⟨lfReq 47, [47], 0, 1000000000000, 4640000, [2, 0, 1], [(65536, [3])], trailing, by decide +kernel⟩,
   ⟨lfReq 48, [48], trailing, by decide +kernel⟩⟩

end ChainCare

/-! ### DirectoryOperations -/

namespace DirOps

/-- A driver's entry of namespace 3 with EPOCH 2. -/
def ent : DirEntry := { ns := 3, kind := 1, epoch := 2, id := List.replicate 16 4, keyHash := List.replicate 32 5, notBefore := 0, notAfter := 0, bindTid := 7, owner := 0, attr := zeros 40 }
def listed (e : DirEntry := ent) : State := let s := stocked up
  { s with dir := { s.dir with st := 2, table := [e], persist := [e], revSeq := 5, minEpoch := [(3, 2)] } }
def query (id : Nat) : Bytes := le 1 3 ++ le 1 1 ++ le 1 1 ++ zeros 5 ++ List.replicate 16 (BitVec.ofNat 8 id) ++ List.replicate 32 5 ++ zeros 8
def keyFields : List (Nat × Nat) := [(24, 3), (25, 1), (32, 0x04040404040404040404040404040404)]

/-- States and operands that meet the hypotheses of each clause of DirectoryOperations. -/
theorem witness :
    (∃ (r : Nat) (d : Bytes) (f : Flight) (e : DirEntry) (s : State), (Ready 0x0700 r f s) ∧ (d.length = 64) ∧ ((parseQuery d).ok = true) ∧
        (f.rules.nsRead.getLsbD (parseQuery d).ns = true) ∧ (lookup s (parseQuery d).ns (parseQuery d).kind (parseQuery d).id = .entry e) ∧
        ((parseQuery d).flag = 1 → e.keyHash = (parseQuery d).keyHash)) ∧
    (∃ (r : Nat) (d : Bytes) (f : Flight) (s : State), (Ready 0x0700 r f s) ∧ (d.length = 64) ∧ ((parseQuery d).ok = true) ∧
        (f.rules.nsRead.getLsbD (parseQuery d).ns = true) ∧ (lookup s (parseQuery d).ns (parseQuery d).kind (parseQuery d).id = .absent)) ∧
    (∃ (r : Nat) (d : Bytes) (f : Flight) (e : DirEntry) (s : State), (Ready 0x0701 r f s) ∧ (d.length = 64) ∧ ((parseQuery d).ok = true) ∧
        (f.rules.nsRead.getLsbD (parseQuery d).ns = true) ∧ (lookup s (parseQuery d).ns (parseQuery d).kind (parseQuery d).id = .entry e) ∧
        ((parseQuery d).flag = 1 → e.keyHash = (parseQuery d).keyHash) ∧ (entryState s e = 1)) ∧
    (∃ (r : Nat) (ns : Nat) (kind : Nat) (id : Bytes) (f : Flight) (e : DirEntry) (s : State), (Running 0x0701 r f s) ∧
        (s.dir.grants.find? (fun g => g.1 == r) = some (r, ns, kind, id)) ∧ (dirTurn s r f = true) ∧ (lookup s ns kind id = .entry e) ∧
        (entryState s e = 1) ∧ (commitHolds f ((getTen s f.ten).nsRead.getLsbD ns) s = true) ∧
        (canLog (.part (stampPart { kind := 0x13, ten := f.ten, tid := e.bindTid, seq := dSeq f.raw, unit := ns } s)) s = true)) ∧
    (∃ (r : Nat) (b : Bytes) (d : Bytes) (es : List DirEntry) (f : Flight) (s : State) (x : State) (u : State), (Ready 0x0702 r f s) ∧
        (s.dir.pending = none) ∧ (dirTurn s r f = true) ∧ (dramUp s = true) ∧ (s.dir.st ≠ 0) ∧ (b = slice d 0 (dLen f.raw)) ∧
        (es = (List.range (dLen f.raw / 128)).map (fun i => { parseEntry b (128 * i) with owner := f.ten })) ∧
        ((List.range (dLen f.raw / 128)).all (fun i => loadEntryOk f.rules b (128 * i)) = true) ∧ (distinctKeys es = true) ∧
        (es.any (fun e => (inTable s e.ns e.kind e.id).any (fun o => o.revoked && decide (e.epoch ≤ o.epoch))) = false) ∧
        (loadFits s es = true) ∧ (x = drawn 1 (atStage r 0x01 0 (started r s))) ∧
        (beginRec (.delta r) { partHeader x 4 0x12 f.lsn with snap := s.dir.snapId } (deltaBytes x f (.load es)) x = .ok u)) ∧
    (∃ (r : Nat) (f : Flight) (e : DirEntry) (s : State) (x : State) (u : State), (Ready 0x0703 r f s) ∧ (s.dir.pending = none) ∧
        (dirTurn s r f = true) ∧ (dramUp s = true) ∧ (s.dir.st ≠ 0) ∧ (mayWriteNs f (keyOf f).1 = true) ∧
        (inTable s (keyOf f).1 (keyOf f).2.1 (keyOf f).2.2 = some e) ∧ (e.revoked = false) ∧ (x = started r s) ∧
        (beginRec (.delta r) { partHeader x 4 0x12 f.lsn with snap := s.dir.snapId } (deltaBytes x f (.revoke (keyOf f).1 (keyOf f).2.1 (keyOf f).2.2)) x = .ok u)) ∧
    (∃ (r : Nat) (f : Flight) (e : DirEntry) (s : State), (Ready 0x0703 r f s) ∧ (s.dir.pending = none) ∧ (dirTurn s r f = true) ∧
        (dramUp s = true) ∧ (s.dir.st ≠ 0) ∧ (mayWriteNs f (keyOf f).1 = true) ∧
        (inTable s (keyOf f).1 (keyOf f).2.1 (keyOf f).2.2 = some e) ∧ (e.revoked = true)) ∧
    (∃ (r : Nat) (f : Flight) (s : State) (x : State) (u : State), (Ready 0x0704 r f s) ∧ (s.dir.pending = none) ∧ (dirTurn s r f = true) ∧
        (dramUp s = true) ∧ (s.dir.st ≠ 0) ∧ (mayWriteNs f (fieldLE f.raw 24 1) = true) ∧
        (minEpoch s (fieldLE f.raw 24 1) < fieldLE f.raw 28 4) ∧ (x = started r s) ∧
        (beginRec (.delta r) { partHeader x 4 0x12 f.lsn with snap := s.dir.snapId } (deltaBytes x f (.epoch (fieldLE f.raw 24 1) (fieldLE f.raw 28 4))) x = .ok u)) ∧
    (∃ (r : Nat) (f : Flight) (s : State), (Ready 0x0704 r f s) ∧ (s.dir.pending = none) ∧ (dirTurn s r f = true) ∧ (dramUp s = true) ∧
        (s.dir.st ≠ 0) ∧ (mayWriteNs f (fieldLE f.raw 24 1) = true) ∧ (fieldLE f.raw 28 4 ≤ minEpoch s (fieldLE f.raw 24 1))) ∧
    (∃ (r : Nat) (f : Flight) (e : DirEntry) (s : State) (x : State) (u : State), (Ready 0x0705 r f s) ∧ (s.dir.pending = none) ∧
        (dirTurn s r f = true) ∧ (dramUp s = true) ∧ (s.dir.st ≠ 0) ∧ (mayWriteNs f (keyOf f).1 = true) ∧
        (inTable s (keyOf f).1 (keyOf f).2.1 (keyOf f).2.2 = some e) ∧ (e.revoked = true → e.epoch < minEpoch s (keyOf f).1) ∧
        (x = started r s) ∧
        (beginRec (.delta r) { partHeader x 4 0x12 f.lsn with snap := s.dir.snapId } (deltaBytes x f (.remove (keyOf f).1 (keyOf f).2.1 (keyOf f).2.2)) x = .ok u)) ∧
    (∃ (r : Nat) (f : Flight) (s : State), (Ready 0x0706 r f s)) :=
  ⟨⟨0, query 4, fl 0x0700 0 [(40, 1)], ent, op (fl 0x0700 0 [(40, 1)]) listed, ready_of (by decide +kernel), by decide +kernel⟩,
   ⟨0, query 9, fl 0x0700 0 [(40, 1)], op (fl 0x0700 0 [(40, 1)]) listed, ready_of (by decide +kernel), by decide +kernel⟩,
   ⟨0, query 4, fl 0x0701, ent, op (fl 0x0701) listed, ready_of (by decide +kernel), by decide +kernel⟩,
   ⟨0, 3, 1, ent.id, { fl 0x0701 with begun := true }, ent,
    let t := op { fl 0x0701 with begun := true } listed; { t with dir := { t.dir with grants := [(0, 3, 1, ent.id)] } },
    running_of (by decide +kernel), by decide +kernel⟩,
   ⟨0, _, entryBytes { ent with id := List.replicate 16 6 }, _, fl 0x0702 128, op (fl 0x0702 128) listed, _, _, ready_of (by decide +kernel),
    by decide +kernel, by decide +kernel, by decide +kernel, by decide +kernel, rfl, rfl, by decide +kernel, by decide +kernel,
    by decide +kernel, by decide +kernel, rfl, begun_of (by decide +kernel)⟩,
   ⟨0, fl 0x0703 0 keyFields, ent, op (fl 0x0703 0 keyFields) listed, _, _, ready_of (by decide +kernel),
    also4 (by decide +kernel) (also3 (by decide +kernel) ⟨rfl, begun_of (by decide +kernel)⟩)⟩,
   ⟨0, fl 0x0703 0 keyFields, { ent with revoked := true, revSeq := 5 },
    op (fl 0x0703 0 keyFields) (listed { ent with revoked := true, revSeq := 5 }), ready_of (by decide +kernel), by decide +kernel⟩,
   ⟨0, fl 0x0704 0 [(24, 3), (28, 3)], op (fl 0x0704 0 [(24, 3), (28, 3)]) listed, _, _, ready_of (by decide +kernel),
    also3 (by decide +kernel) (also3 (by decide +kernel) ⟨rfl, begun_of (by decide +kernel)⟩)⟩,
   ⟨0, fl 0x0704 0 [(24, 3), (28, 2)], op (fl 0x0704 0 [(24, 3), (28, 2)]) listed, ready_of (by decide +kernel), by decide +kernel⟩,
   ⟨0, fl 0x0705 0 keyFields, ent, op (fl 0x0705 0 keyFields) listed, _, _, ready_of (by decide +kernel),
    also4 (by decide +kernel) (also3 (by decide +kernel) ⟨rfl, begun_of (by decide +kernel)⟩)⟩,
   ⟨0, fl 0x0706, op (fl 0x0706) listed, ready_of (by decide +kernel)⟩⟩

end DirOps

/-! ### DirectoryChangesAndNodes -/

namespace DirNodes

def ent : DirEntry := { ns := 3, kind := 1, epoch := 2, id := List.replicate 16 4, keyHash := List.replicate 32 5, notBefore := 0, notAfter := 0, bindTid := 7, owner := 0, attr := zeros 40 }
def dired (f : Dir → Dir) (s : State := stocked up) : State := modDir f s
def trailerDir : State := dired (fun d => { d with st := 2, table := [ent], revSeq := 5, minEpoch := [(3, 2)] }) trailing

/-- States and operands that meet the hypotheses of each clause of DirectoryChangesAndNodes. -/
theorem witness :
    (∃ (p : DirChange) (f : Flight) (s : State), (s.dir.pending = some p) ∧ (p.rid ≠ 0) ∧
        (canLog (.dirChange (s.dir.revSeq + 1)) s = true) ∧ (getFlight s p.op = some f) ∧ (f.fate = none)) ∧
    (∃ (b : Bytes) (n : Nat) (s : State), (asNode s = true) ∧ (b.length = 76) ∧ (byteAt b 0 = 1) ∧ (zeroAt b 1 3 = true) ∧ (n < 16)) ∧
    (∃ (b : Bytes) (x : RevItem) (s : State), (asNode s = true) ∧ (byteAt b 0 = 2) ∧ (zeroAt b 1 1 = true) ∧ (beAt b 2 2 = 1) ∧
        (b.length = 32) ∧ (x = { ns := byteAt b 12, kind := byteAt b 13, id := slice b 16 16, seq := beAt b 4 8 }) ∧ (s.dir.revSeq < x.seq)) ∧
    (∃ (pos : Fin 8) (b : Bytes) (n : Node) (s : State), (s.sys.trailer = false) ∧ (nodeAt s pos = some n) ∧ (n.joined = true) ∧
        (b.length = 76) ∧ (byteAt b 0 = 3) ∧ (zeroAt b 1 3 = true) ∧ (s.dir.revSeq ≤ beAt b 4 8) ∧
        (∀ i, i < 16 → minEpoch s i ≤ beAt b (12 + 4 * i) 4)) ∧
    (∃ (pos : Fin 8) (t0 : Nat) (n : Node) (s : State), ((tabGet ({} : DirNode) s.dir.nodes pos).due = some t0) ∧ (nodeAt s pos = some n) ∧
        (n.joined = true)) ∧
    (∃ (s : State), (linkMode s = true) ∧ (s.pwr.govLevel < 4) ∧ (s.dir.st = 2) ∧ (s.dir.snapLeft = 0) ∧ (s.dir.changed ≠ 0)) ∧
    (∃ (s : State), (s.dir.st = 1) ∧ (dramUp s = true) ∧ (linkMode s = true) ∧ (vaultOk s = true) ∧
        (s.cus.recs.any (fun x => rebuildNeeds s x && recLost s x) = false)) ∧
    (∃ (s : State), (s.dir.st = 1) ∧ (dramUp s = true) ∧ (linkMode s = true)) :=
  ⟨⟨{ op := 0, act := .revoke 3 1 ent.id, rid := 4 }, { fl 0x0703 with begun := true },
    dired (fun d => { d with st := 2, table := [ent], persist := [ent], revSeq := 5, pending := some { op := 0, act := .revoke 3 1 ent.id, rid := 4 } }) (op { fl 0x0703 with begun := true }),
    by decide +kernel⟩,
   ⟨le 1 1 ++ zeros 11 ++ (List.range 16).flatMap (fun n => be 4 n), 15, trailerDir, by decide +kernel⟩,
   ⟨le 1 2 ++ zeros 1 ++ be 2 1 ++ be 8 6 ++ le 1 3 ++ le 1 1 ++ zeros 2 ++ ent.id, _, trailerDir, by decide +kernel, by decide +kernel,
    by decide +kernel, by decide +kernel, by decide +kernel, rfl, by decide +kernel⟩,
   ⟨1, le 1 3 ++ zeros 3 ++ be 8 5 ++ (List.range 16).flatMap (fun _ => be 4 2), nodeOn 3,
    dired (fun d => { d with st := 2, table := [ent], revSeq := 5, minEpoch := [(3, 2)], nodes := [(1, { held := 4, due := some 1000000500 })] }) (noded 3),
    by decide +kernel⟩,
   ⟨1, 1000000500, nodeOn 3,
    dired (fun d => { d with st := 2, table := [ent], revSeq := 5, minEpoch := [(3, 2)], nodes := [(1, { held := 4, due := some 1000000500 })] }) (noded 3),
    by decide +kernel⟩,
   ⟨dired (fun d => { d with st := 2, table := [ent], changed := 1, snapId := 3 }), by decide +kernel⟩,
   ⟨dired (fun d => { d with st := 1, persist := [ent] }), by decide +kernel⟩,
   ⟨dired (fun d => { d with st := 1, persist := [ent] }), by decide +kernel⟩⟩

end DirNodes

/-! ### LfPolls -/

namespace LfPolls

def rad (f : Radio → Radio) (s : State := aired) : State := modRadio f s
def nonce0 : Bytes := [1, 2, 3, 4, 5, 6]
def poll0 (ph : PollPhase) : Poll := { kind := .presence, phase := ph, n := 8, m := 3, nonce := nonce0, chans := [0, 1, 4], lastEnd := 1000000000000 }
def onAir (p : Poll) : State := rad (fun b => { b with poll := some p })
theorem segPlan_of {x : SegPlan} {k t : Nat} (h : (match x with | .send a b => decide (a = k ∧ b = t) | .wait | .lost | .gone => false) = true) :
    x = .send k t := by
  cases x with
  | send a b => obtain ⟨rfl, rfl⟩ := of_decide_eq_true h; rfl
  | wait => cases h
  | lost => cases h
  | gone => cases h
/-- The reply of token 7 to `nonce0`, TCNT 101. -/
def reply7 : Bytes := be 28 0x0100000007000000655a03323232323232323232de6544113d1f28cf

/-- States and operands that meet the hypotheses of each clause of LfPolls. -/
theorem witness :
    (∃ (u : State) (s : State), (s.sys.ready = true) ∧ (s.pwr.mode = .cab ∨ s.pwr.mode = .drive) ∧ (s.pwr.parking = .none) ∧
        (u = elapseTo (s.radio.presenceAt + presencePeriod s) s) ∧ (s.radio.poll = none) ∧ (startHolds s = false) ∧
        (canPoll u .presence = true)) ∧
    (∃ (p : Poll) (s : State), (s.sys.ready = true) ∧ (s.pwr.mode = .cab ∨ s.pwr.mode = .drive) ∧ (s.pwr.parking = .none) ∧
        (s.radio.poll = some p)) ∧
    (∃ (u : State) (s : State), (s.pwr.mode = .parked) ∧ (s.radio.approach ≠ 0) ∧ (s.pwr.dormHours < 72) ∧ (s.radio.poll = none) ∧
        (s.pwr.slice ≠ none) ∧ (groupGood s 1 = true) ∧ (u = elapseTo (s.radio.approachAt + 100000 * s.radio.approach) s) ∧
        (canPoll u .approach = true)) ∧
    (∃ (p : Poll) (t0 : Nat) (s : State), (s.radio.poll = some p) ∧ (startHolds s = false) ∧ (p.phase = .telegram) ∧ (p.kind = .presence) ∧
        (p.sent = 0) ∧ (segPlan s p = .send (teleUnits p) t0)) ∧
    (∃ (ch : Fin 48) (p : Poll) (s : State), (s.radio.poll = some p) ∧ (telegramOn s p = true) ∧ (ch.val ∈ p.chans)) ∧
    (∃ (ch : Fin 48) (p : Poll) (s : State), (s.radio.poll = some p) ∧ (telegramOn s p = true) ∧ (ch.val ∈ p.chans)) ∧
    (∃ (ch : Fin 48) (p : Poll) (s : State), (s.radio.poll = some p) ∧ (telegramOn s p = true) ∧ (ch.val ∈ p.chans)) ∧
    (∃ (ch : Fin 48) (p : Poll) (s : State), (s.radio.poll = some p) ∧ (telegramOn s p = true) ∧ (ch.val ∈ p.chans) ∧ (p.kind = .presence)) ∧
    (∃ (p : Poll) (k : Nat) (l : List Nat) (u : State) (s : State), (s.radio.poll = some p) ∧ (p.phase = .slots) ∧ (p.slot < p.n) ∧
        (p.granted = true) ∧ (u = elapseToNs (slotAt p p.slot) s) ∧ (coexSpent p (u.clk.ns + 574000 + nsReplySlot) = false) ∧
        (dutyExempt p.kind = true ∨ dutyAllows 574 u = true) ∧ (chainsUp u = k :: l)) ∧
    (∃ (p : Poll) (s : State), (s.radio.poll = some p) ∧ (p.phase = .slots) ∧ (p.slot < p.n) ∧ (p.granted = false)) ∧
    (∃ (p : Poll) (u : State) (s : State), (s.radio.poll = some p) ∧ (p.phase = .slots) ∧ (p.slot < p.n) ∧ (p.granted = true) ∧
        (u = elapseToNs (slotAt p p.slot) s) ∧ (coexSpent p (u.clk.ns + 574000 + nsReplySlot) = false) ∧ (chainsUp s = [])) ∧
    (∃ (p : Poll) (z : Nat) (s : State), (s.radio.poll = some p) ∧ (p.phase = .slots) ∧ (p.n ≤ p.slot) ∧ (p.kind = .handle z) ∧
        (s.radio.fits = []) ∧ (p.collided = false) ∧ (s.radio.touchNext = none) ∧ (s.radio.presenceDue = false) ∧
        (s.radio.approachDue = false) ∧ (s.radio.locates = [])) ∧
    (∃ (p : Poll) (slot : Nat) (s : State), (s.radio.poll = some p) ∧ (p.open_ = some slot) ∧ (p.phase = .slots) ∧ (secReady s = true) ∧
        (canTakeTcnt s = true)) ∧
    (∃ (p : Poll) (slot : Nat) (f : TokenFrame) (s : State), (s.radio.poll = some p) ∧ (p.open_ = some slot) ∧ (p.phase = .slots) ∧
        (p.kind = .presence) ∧ (secReady s = true) ∧ (canTakeTcnt s = true) ∧ (frameValid f = true) ∧ (inSlot s p slot f = true) ∧
        (replyCheck s p.m (cmdArg p) p.nonce f = 0) ∧ (turnOk (antennaTurn s f) = true)) ∧
    (∃ (p : Poll) (slot : Nat) (f : TokenFrame) (s : State), (s.radio.poll = some p) ∧ (p.open_ = some slot) ∧ (p.phase = .slots) ∧
        (p.kind = .presence) ∧ (secReady s = true) ∧ (canTakeTcnt s = true) ∧ (frameValid f = true) ∧ (inSlot s p slot f = true) ∧
        (replyCheck s p.m (cmdArg p) p.nonce f = 5)) :=
  ⟨⟨_, rad (fun b => { b with presenceAt := 999900000 }), by decide +kernel, by decide +kernel, by decide +kernel, rfl, by decide +kernel⟩,
   ⟨poll0 .slots, rad (fun b => { b with presenceAt := 999900000, poll := some (poll0 .slots) }), by decide +kernel⟩,
   ⟨_, parked (rad (fun b => { b with approach := 5, approachAt := 999900000 })),
    also3 (by decide +kernel) (also3 (by decide +kernel) ⟨rfl, by decide +kernel⟩)⟩,
   ⟨poll0 .telegram, 1000000000000, onAir (poll0 .telegram), by decide +kernel, by decide +kernel, by decide +kernel, by decide +kernel,
    by decide +kernel, segPlan_of (by decide +kernel)⟩,
   ⟨4, poll0 .telegram, onAir (poll0 .telegram), by decide +kernel⟩,
   ⟨4, poll0 .telegram, onAir (poll0 .telegram), by decide +kernel⟩,
   ⟨4, poll0 .telegram, onAir (poll0 .telegram), by decide +kernel⟩,
   ⟨4, poll0 .telegram, onAir (poll0 .telegram), by decide +kernel⟩,
   ⟨{ poll0 .slots with granted := true, slot := 7 }, 0, [1, 2, 3, 4, 5, 6, 7], _, onAir { poll0 .slots with granted := true, slot := 7 },
    by decide +kernel, by decide +kernel, by decide +kernel, by decide +kernel, rfl, by decide +kernel⟩,
   ⟨poll0 .slots, onAir (poll0 .slots), by decide +kernel⟩,
   ⟨{ poll0 .slots with granted := true }, _, { onAir { poll0 .slots with granted := true } with pwr := { up.pwr with railGood := 0x1FD } },
    by decide +kernel, by decide +kernel, by decide +kernel, by decide +kernel, rfl, by decide +kernel⟩,
   ⟨{ poll0 .slots with kind := .handle 1, n := 1, m := 1, slot := 1, chans := [47] }, 1,
    parked (onAir { poll0 .slots with kind := .handle 1, n := 1, m := 1, slot := 1, chans := [47] }), by decide +kernel⟩,
   ⟨{ poll0 .slots with open_ := some 7, slot := 8 }, 7, onAir { poll0 .slots with open_ := some 7, slot := 8 }, by decide +kernel⟩,
   ⟨{ poll0 .slots with open_ := some 7, slot := 8 }, 7, tframe reply7 31750, onAir { poll0 .slots with open_ := some 7, slot := 8 },
    by decide +kernel⟩,
   ⟨{ poll0 .slots with open_ := some 7, slot := 8, nonce := zeros 6 }, 7, tframe reply7 31750,
    onAir { poll0 .slots with open_ := some 7, slot := 8, nonce := zeros 6 }, by decide +kernel⟩⟩

end LfPolls

/-! ### ButtonsAndElectrodes -/

namespace Touch

def cape (e : Electrode) (s : State := aired) : State := { s with cap := { s.cap with els := [(47, e)] } }
/-- Button 1 of token 7, TCNT 101. -/
def press7 : Bytes := be 21 0x0212340000000700000065015a94c6c443f771a968

/-- States and operands that meet the hypotheses of each clause of ButtonsAndElectrodes; clause 3 has none. -/
theorem witness :
    (∃ (frame : TokenFrame) (e : NearEntry) (u : State) (s : State), (hearsButtons s = true) ∧ (frameValid frame = true) ∧
        (ptype frame = 2) ∧ (frame.payload.length = 21) ∧ (beAt frame.payload 1 2 = vwp s) ∧ (sliceUp s = true) ∧ (u = noteSlice 7 s) ∧
        (nearEntry s (beAt frame.payload 3 4) = some e) ∧ (secReady u = true) ∧ (canTakeTcnt u = true) ∧
        (e.tcnt < beAt frame.payload 7 4) ∧ (beAt frame.payload 7 4 ≤ e.tcnt + 4096) ∧ (buttonResp e.key frame.payload = true)) ∧
    (∃ (frame : TokenFrame) (e : NearEntry) (u : State) (s : State), (hearsButtons s = true) ∧ (frameValid frame = true) ∧
        (ptype frame = 2) ∧ (frame.payload.length = 21) ∧ (beAt frame.payload 1 2 = vwp s) ∧ (sliceUp s = true) ∧ (u = noteSlice 7 s) ∧
        (nearEntry s (beAt frame.payload 3 4) = some e) ∧ (secReady u = true) ∧ (canTakeTcnt u = true) ∧
        (e.tcnt < beAt frame.payload 7 4) ∧ (beAt frame.payload 7 4 ≤ e.tcnt + 4096) ∧ (buttonResp e.key frame.payload = false)) ∧
    (∃ (frame : TokenFrame) (s : State), (hearsButtons s = true) ∧ (frameValid frame = true) ∧ (ptype frame = 2) ∧
        (frame.payload.length = 21) ∧ (beAt frame.payload 1 2 = vwp s) ∧ (sliceUp s = false)) ∧
    (∃ (e : Fin 48) (v : Int) (x : Electrode) (u : State) (s : State), (scanned s e = true) ∧ (u = scanTime e s) ∧
        (x = scanEl (scanPeriod s) (capThresh s e) (monoUs u) v (getEl s e)) ∧ (x.touched = false) ∧ (2 ≤ x.above) ∧ (x.masked = false) ∧
        (s.pwr.mode ≠ .parked)) ∧
    (∃ (e : Fin 48) (v : Int) (x : Electrode) (z : Zone) (u : State) (s : State), (scanned s e = true) ∧ (u = scanTime e s) ∧
        (x = scanEl (scanPeriod s) (capThresh s e) (monoUs u) v (getEl s e)) ∧ (x.touched = false) ∧ (2 ≤ x.above) ∧ (x.masked = false) ∧
        (s.pwr.mode = .parked) ∧ (doorOfHandle s e = some z) ∧ (s.radio.poll = none) ∧ (s.pwr.slice ≠ none) ∧ (groupGood s 1 = true) ∧
        (s.pwr.dorming = none) ∧ (canPoll u (.handle z.id) = true)) ∧
    (∃ (e : Fin 48) (v : Int) (x : Electrode) (u : State) (s : State), (scanned s e = true) ∧ (u = scanTime e s) ∧
        (x = scanEl (scanPeriod s) (capThresh s e) (monoUs u) v (getEl s e)) ∧ (x.touched = true) ∧ (2 ≤ x.below)) ∧
    (∃ (e : Fin 48) (v : Int) (x : Electrode) (u : State) (s : State), (scanned s e = true) ∧ (u = scanTime e s) ∧
        (x = scanEl (scanPeriod s) (capThresh s e) (monoUs u) v (getEl s e)) ∧
        (x.touched = false ∧ x.above < 2 ∨ x.touched = true ∧ x.below < 2)) ∧
    (∃ (e : Fin 48) (s : State), ((getEl s e).touched = true) ∧ ((getEl s e).masked = false) ∧ (scanned s e = true)) ∧
    (∃ (e : Fin 48) (s : State), ((getEl s e).touched = false) ∧ ((getEl s e).masked = true) ∧ (scanned s e = true)) ∧
    (∃ (g : Fin 2) (e : Nat) (s : State), (24 * g.val ≤ e) ∧ (e < 24 * g.val + 24) ∧ (portUp s pCap e = true)) :=
  ⟨⟨tframe press7, token7, _, aired, also3 (by decide +kernel) (also3 (by decide +kernel) ⟨rfl, by decide +kernel⟩)⟩,
   ⟨tframe (press7.take 20 ++ [0x69]), token7, _, aired, also3 (by decide +kernel) (also3 (by decide +kernel) ⟨rfl, by decide +kernel⟩)⟩,
   ⟨tframe press7, let t := parked aired; { t with pwr := { t.pwr with railGood := 0x67 } }, by decide +kernel⟩,
   ⟨47, 41, _, _, cape { above := 1 }, by decide +kernel, rfl, rfl, by decide +kernel⟩,
   ⟨47, 41, _, square 1 false true true 200, _, parked (cape { above := 1 }), by decide +kernel, rfl, rfl, by decide +kernel⟩,
   ⟨47, 27, _, _, cape { touched := true, since := 999000000, delta := 60, below := 1 }, by decide +kernel, rfl, rfl, by decide +kernel⟩,
   ⟨47, 41, _, _, aired, by decide +kernel, rfl, rfl, by decide +kernel⟩,
   ⟨47, cape { touched := true, since := 999000000, delta := 60 }, by decide +kernel⟩,
   ⟨47, cape { masked := true, since := 999000000 }, by decide +kernel⟩,
   ⟨1, 24, aired, by decide +kernel⟩⟩

end Touch

/-! ### IfevenLine -/

namespace Line

def port (p : Nat) (x : Port) (s : State := lined) : State := modPort p (fun _ => x) s
def goodHead : Bytes := headBytes 0 0 1 0 0 3
/-- A Trickle frame whose preamble begins now. -/
def lowHead (b : Bytes) : LineFrame := ⟨1000000000000, false, b, [1, 2, 3], crc32 [1, 2, 3], List.replicate 4 (some 3), 0, [], false, 7⟩
/-- A parked trailer that follows a master last heard `k` ms ago. -/
def follower (sync : Bool) (k : Nat) : State :=
  let t := parked trailing; { t with ifl := { t.ifl with winSync := sync, masterAt := 1000000000 - 1000 * k } }

/-- States and operands that meet the hypotheses of each clause of IfevenLine. -/
theorem witness :
    (∃ (p : Fin 4) (uv : Nat) (s : State), (Shaped s) ∧ (detDue s p = true) ∧ (6 ≤ detCode uv) ∧ ((getPort s p).txEnd ≤ s.clk.ns) ∧
        ((getPort s p).link = .down)) ∧
    (∃ (p : Fin 4) (uv : Nat) (s : State), (Shaped s) ∧ (detDue s p = true) ∧ (detCode uv < 6) ∧ ((getPort s p).txEnd ≤ s.clk.ns) ∧
        ((getPort s p).link ≠ .quarantined) ∧ ((getPort s p).lows = 9)) ∧
    (∃ (p : Fin 4) (f : LineFrame) (u : State) (s : State), (u = elapseToNs f.start s) ∧ (hearsStart u p f.flood = true) ∧
        (s.pwr.mode ≠ .parked) ∧ (Shaped s) ∧ (crc16 (slice f.head 0 5) = beAt f.head 5 2) ∧ (headOk f.flood (parseHead f.head) = true) ∧
        (forUs s (parseHead f.head).dst = true) ∧ ((parseHead f.head).map ≠ 4) ∧
        ((parseHead f.head).len = 0 ∨ f.payload.length = (parseHead f.head).len ∧ f.pcrc = crc32 f.payload)) ∧
    (∃ (p : Fin 4) (f : LineFrame) (u : State) (s : State), (Shaped s) ∧ (u = elapseToNs f.start s) ∧ (hearsStart u p f.flood = true) ∧
        (crc16 (slice f.head 0 5) ≠ beAt f.head 5 2)) ∧
    (∃ (p : Fin 4) (f : LineFrame) (s : State), (hearsStart (elapseToNs f.start s) p f.flood = false)) ∧
    (∃ (p : Fin 4) (m : LineMsg) (s : State), (Shaped s) ∧ (hears s p = true) ∧ (msgOk m 2 2 = true) ∧ (1 ≤ byteAt m.payload 1) ∧
        (byteAt m.payload 1 ≤ 5) ∧ (∀ d, (getPort s p).soundDue = some d → d < monoUs s)) ∧
    (∃ (p : Fin 4) (d : Nat) (s : State), ((getPort s p).soundDue = some d) ∧ (monoUs s ≤ d)) ∧
    (∃ (p : Fin 4) (d : Nat) (s : State), (Shaped s) ∧ ((getPort s p).soundDue = some d) ∧ (frameStart s p / 1000 ≤ d) ∧
        (canSend s p = true) ∧ (linkMode s = true)) ∧
    (∃ (p : Fin 4) (d : Nat) (s : State), (Shaped s) ∧ ((getPort s p).soundDue = some d) ∧ (d < frameStart s p / 1000)) ∧
    (∃ (p : Fin 4) (s : State), (Shaped s) ∧ ((getPort s p).tblOld ≠ 0)) ∧
    (∃ (p : Fin 4) (s : State), (Shaped s) ∧ ((getPort s p).link = .coupledF) ∧ (linkMode s = true)) ∧
    (∃ (p : Fin 4) (m : LineMsg) (s : State), (Shaped s) ∧ (upstream s p = true) ∧ (hears s p = true) ∧ (msgOk m 1 5 = true)) ∧
    (∃ (p : Fin 4) (s : State), (Shaped s) ∧ (s.pwr.mode = .parked) ∧ (s.pwr.vaon = true) ∧ (tricklesOn s = true) ∧ (lineUp s p = true) ∧
        (s.sys.trailer = false ∨ s.ifl.winSync = true)) ∧
    (∃ (p : Fin 4) (s : State), (Shaped s) ∧ (s.pwr.mode = .parked) ∧ ((getPort s p).searchUntil ≠ 0)) ∧
    (∃ (p : Fin 4) (s : State), (Shaped s) ∧ (upstream s p = true) ∧ (s.pwr.mode = .parked) ∧ (s.ifl.winSync = true) ∧
        (s.ifl.masterAt + 29000000 ≤ monoUs s)) ∧
    (∃ (p : Fin 4) (s : State), (Shaped s) ∧ (upstream s p = true) ∧ (s.pwr.mode = .parked) ∧ (s.ifl.winSync = true) ∧
        (monoUs s < s.ifl.masterAt + 28000000) ∧ (s.ifl.masterAt ≤ monoUs s)) ∧
    (∃ (p : Fin 4) (s : State), (Shaped s) ∧ (upstream s p = true) ∧ (tricklesOn s = true) ∧ (s.ifl.winSync = false)) :=
  ⟨⟨2, 42188, port 2 { lows := 4, det := [3, 3, 3, 3] }, shaped_of (by decide +kernel), by decide +kernel⟩,
   ⟨2, 42187, port 2 { link := .coupledT, lows := 9 }, shaped_of (by decide +kernel), by decide +kernel⟩,
   ⟨3, lowHead goodHead, _, lined, rfl, by decide +kernel, by decide +kernel, shaped_of (by decide +kernel), by decide +kernel⟩,
   ⟨3, lowHead (goodHead.take 6 ++ [0]), _, lined, shaped_of (by decide +kernel), rfl, by decide +kernel⟩,
   ⟨3, lowHead goodHead, port 3 { txEnd := 1000000000001 }, by decide +kernel⟩,
   ⟨3, ⟨0, 1, [2, 5]⟩, lined, shaped_of (by decide +kernel), by decide +kernel, by decide +kernel, by decide +kernel, by decide +kernel, nofun⟩,
   ⟨3, 1000000000, port 3 { soundDue := some 1000000000, pos := 1 }, by decide +kernel⟩,
   ⟨3, 1000005000, port 3 { soundDue := some 1000005000, pos := 1 }, shaped_of (by decide +kernel), by decide +kernel⟩,
   ⟨3, 999999999, port 3 { soundDue := some 999999999, pos := 1 }, shaped_of (by decide +kernel), by decide +kernel⟩,
   ⟨1, port 1 { tblOld := 15, tblRx := 1, loadFirst := 999500000 }, shaped_of (by decide +kernel), by decide +kernel⟩,
   ⟨1, port 1 { link := .coupledF, soundAt := 995000000 }, shaped_of (by decide +kernel), by decide +kernel⟩,
   ⟨0, ⟨0, 1, [1, 0, 0, 0, 9]⟩, trailing, shaped_of (by decide +kernel), by decide +kernel⟩,
   ⟨3, port 3 { winAt := 999500000, winSeq := 4 } (parked lined), shaped_of (by decide +kernel), by decide +kernel⟩,
   ⟨3, port 3 { searchUntil := 1000005000 } (parked lined), shaped_of (by decide +kernel), by decide +kernel⟩,
   ⟨0, follower true 29000, shaped_of (by decide +kernel), by decide +kernel⟩,
   ⟨0, follower true 2500, shaped_of (by decide +kernel), by decide +kernel⟩,
   ⟨0, follower false 0, shaped_of (by decide +kernel), by decide +kernel⟩⟩

end Line

/-! ### SoundingTables -/

namespace Load

def port (p : Nat) (x : Port) (s : State := lined) : State := modPort p (fun _ => x) s
def record : IflRec := { gains := [(0, 0, 0), (1, 0, 0), (2, 0, 0), (3, 0, 0)], psd := 20, notches := [], margin := 6, trickleQpsk := false }
/-- A LOAD of table 15 that gives one bit to subcarrier 83, and says `sum`. -/
def load1 (sum : Nat) : LineMsg := ⟨3, 1, [3, 15] ++ be 2 sum ++ [6, 0, 0, 0, 1] ++ zeros 527⟩

/-- States and operands that meet the hypotheses of each clause of SoundingTables. -/
theorem witness :
    (∃ (p : Fin 4) (i : IflRec) (s : State), (Shaped s) ∧ (iflRec s = some i) ∧ (hears s p = true)) ∧
    (∃ (p : Fin 4) (m : LineMsg) (b : Bytes) (s : State), (Shaped s) ∧ (b = m.payload) ∧ (hears s p = true) ∧ (msgOk m 3 536 = true) ∧
        (1 ≤ byteAt b 1) ∧ (byteAt b 1 ≤ 15) ∧ (zeroAt b 5 3 = true) ∧ (loadOk s b = true)) ∧
    (∃ (p : Fin 4) (m : LineMsg) (b : Bytes) (s : State), (Shaped s) ∧ (b = m.payload) ∧ (hears s p = true) ∧ (msgOk m 3 536 = true) ∧
        (1 ≤ byteAt b 1) ∧ (byteAt b 1 ≤ 15) ∧ (zeroAt b 5 3 = true) ∧ (loadOk s b = false)) ∧
    (∃ (p : Fin 4) (s : State), (Shaped s) ∧ ((getPort s p).oldSeen = true) ∧ ((getPort s p).tblOld ≠ 0) ∧ (canSend s p = true) ∧
        ((getPort s p).loads < 4)) ∧
    (∃ (p : Fin 4) (s : State), (Shaped s) ∧ ((getPort s p).oldSeen = true) ∧ ((getPort s p).tblOld ≠ 0) ∧ (canSend s p = true) ∧
        (4 ≤ (getPort s p).loads)) :=
  ⟨⟨3, record, port 3 { tblRx := 15, bitsRx := 9 }, shaped_of (by decide +kernel), by decide +kernel⟩,
   ⟨3, load1 1, _, lined, shaped_of (by decide +kernel), rfl, by decide +kernel⟩,
   ⟨3, load1 2, _, lined, shaped_of (by decide +kernel), rfl, by decide +kernel⟩,
   ⟨3, port 3 { oldSeen := true, tblOld := 2, tblRx := 3, loads := 3, loadAt := 999990000 }, shaped_of (by decide +kernel), by decide +kernel⟩,
   ⟨3, port 3 { oldSeen := true, tblOld := 2, bitsOld := 500, tblRx := 3, loads := 4, loadAt := 999990000 }, shaped_of (by decide +kernel),
    by decide +kernel⟩⟩

end Load

/-! ### StartLock -/

namespace Lock

/-! ### A START that ranges token 7 -/

/-- A record that no writ extends has room while at most half the log is used, and takes at most a sector. -/
theorem canLog_of {k : LKind} {s : State} (h1 : ledgerUp s = true) (h2 : kindExtra k = 0) (h3 : s.led.used ≤ 61440) : canLog k s = true := by
  have h : recRoom k ≤ 256 := by cases k <;> simp_all [recRoom]
  have h' : s.led.used + recRoom k ≤ logUnits := by unfold logUnits; omega
  rw [canLog, h1, decide_eq_true h']; rfl

def start7 : Flight := { fl 0x0300 0 [(24, 7)] with tAdm := 1000000000 }
/-- Token 7's last track lies in zone 0, the cab. -/
def st0 : State := op start7 { aired with
  slk := { aired.slk with code := 0x5A, comp := 0xA5 }
  radio := { aired.radio with tracks := [{ tid := 7, pos := some (100, 100, 100), sigma := 5, zone := 0, updated := 999990000 }] } }
/-- Its first challenge has gone out. -/
def st1 : State := firstChallenge 0 start7 (modRadio (fun b => { b with startDue := none }) (started 0 st0))
theorem st1_poll : st1.radio.poll.isSome = true := by decide +kernel
def stP : Poll := st1.radio.poll.get st1_poll
def st2 : State := modRadio (fun b => { b with poll := some stP, session := none }) st1
def stS : State := atStage 0 0 0 st2
def rpre : Bytes := be 20 0x0100000007000000655a031b1b1b1b1b1b1b1b1b
def rmac : Bytes := (cmac (List.replicate 16 1) (be 2 (vwp stS) ++ le 1 0x23 ++ stP.nonce ++ rpre)).take 8
def stReply : TokenFrame := tframe (rpre ++ rmac)
def gpre : Bytes := be 11 0x0300000007000000660023 ++ zeros 35
def gmac : Bytes := (cmac (List.replicate 16 1) (be 2 (vwp stS) ++ stP.nonce ++ gpre)).take 8
def stReport : TokenFrame := tframe (gpre ++ gmac)
def stFit : FitResult := { pos := none, sigma := 0, consts := [], phases := [], azReply := 0 }
def stEv : StartEvidence := { tokens := [([⟨some stReply, [some stReport]⟩], stFit)], cards := [] }

/-- A challenge already sent that a reply passes goes on to the sounding. -/
theorem tries_of {r lim tid n c : Nat} {u : UhfRec} {chans : List Nat} {tries : List StartTry} {k : StartTry} {p : Poll} {f : TokenFrame}
    {s e : State} (ha : sessionFresh r tid s = true) (hp : s.radio.poll = some p) (hs : p.phase = .slots)
    (he : e = priFall (elapseToNs (slotAt p 1) (playTrigger r p s))) (hk : tries.headD ⟨none, []⟩ = k)
    (hf : k.reply = some f) (hj : judgeReply e p (some f) = 0) :
    startTries r u lim tid chans (n + 1) tries c s =
      startSound u lim k { p with open_ := some 0, trigAt := slotAt p 0 + 574000 } f (startTries r u lim tid chans n (tries.drop 1) 1) e := by
  subst he
  rw [startTries]
  simp only [ha, hk, hp, hs, hf, hj, bne_self_eq_false, Bool.false_eq_true, if_false, if_true]

/-- A sounding whose tones have all gone goes on to the report. -/
theorem sound_of {u : UhfRec} {lim : Nat} {k : StartTry} {p q : Poll} {f : TokenFrame} {again : State → Checked FitReq} {s a b : State}
    (ha : a = recordTcnt p.tid (frameTcnt f) s)
    (hb : b = playBursts u (2 * planTones u) (putPoll { p with
      phase := .sound, turn := some (antennaTurn a f), turnOk := turnOk (antennaTurn a f), snr := f.snr, fv := slice f.payload 11 (3 * p.m)
      burstEnd := a.clk.ns } a)) (hq : b.radio.poll = some q) (hr : q.phase = .report) :
    startSound u lim k p f again s = startReport u k q again b := by
  subst ha hb
  simp only [startSound, hq, hr, beq_self_eq_true, if_true]

/-- A report that passes. -/
theorem report_of {u : UhfRec} {k : StartTry} {p : Poll} {g : TokenFrame} {again : State → Checked FitReq} {s a : State}
    (ha : playReports u 3 k.reports (priFall (elapseToNs p.burstEnd s)) = (some g, a)) (hk : reportCheck a 0 (planTones u) p.nonce g = 0)
    (ht : frameTid g = p.tid) :
    startReport u k p again s =
      .pass (soundFit a p g none) (modRadio (fun b => { b with cntSound := b.cntSound + 1 }) (recordTcnt p.tid (frameTcnt g) a)) := by
  simp only [startReport, ha, hk, ht, and_self, if_true]

def stLim : Nat := startLimit stS 0 start7
def stTry : StartTry := ⟨some stReply, [some stReport]⟩
def st3 : State := priFall (elapseToNs (slotAt stP 1) (playTrigger 0 stP stS))
def stSent : Poll := { stP with open_ := some 0, trigAt := slotAt stP 0 + 574000 }
def st4 : State := recordTcnt 7 (frameTcnt stReply) st3
def st5 : State := playBursts uhfRecord (2 * planTones uhfRecord) (putPoll { stSent with
  phase := .sound, turn := some (antennaTurn st4 stReply), turnOk := turnOk (antennaTurn st4 stReply), snr := stReply.snr
  fv := slice stReply.payload 11 (3 * stSent.m), burstEnd := st4.clk.ns } st4)
theorem st5_poll : st5.radio.poll.isSome = true := by decide +kernel
def stQ : Poll := st5.radio.poll.get st5_poll
def st6 : State := (playReports uhfRecord 3 stTry.reports (priFall (elapseToNs stQ.burstEnd st5))).2
def st7 : State := logRec (.tcnt 7 (frameTcnt stReport)) (setTcnt 7 (frameTcnt stReport) st6)
def st8 : State := modRadio (fun b => { b with cntSound := b.cntSound + 1 }) st7

theorem used6 : st6.led.used ≤ 256 := by
  have h : ∀ s : State, s = st6 → s.led.used = 0 + recUnits (.tcnt 7 (frameTcnt stReply)) := by intro s h; subst h; rfl
  rw [h st6 rfl]
  simp only [recUnits, kindExtra]
  omega

theorem recorded6 : recordTcnt 7 (frameTcnt stReport) st6 = st7 := by
  have hu : ledgerUp (setTcnt 7 (frameTcnt stReport) st6) = true := by decide +kernel
  have hl : (setTcnt 7 (frameTcnt stReport) st6).led.used ≤ 61440 := Nat.le_trans used6 (by decide)
  rw [recordTcnt, tryLog, if_pos (canLog_of hu rfl hl)]
  rfl

def stReq : FitReq := soundFit st6 stQ stReport none

theorem tries_pass : startTries 0 uhfRecord stLim 7 (startChans stS 7) 3 [stTry] 1 stS = .pass stReq st8 := by
  have hq : stQ.tid = 7 := by decide +kernel
  have ht : stSent.tid = 7 := by decide +kernel
  have h1 := tries_of (r := 0) (u := uhfRecord) (lim := stLim) (tid := 7) (n := 2) (c := 1) (chans := startChans stS 7) (s := stS)
    (k := stTry) (tries := [stTry]) (p := stP) (f := stReply) (e := st3) (by decide +kernel) rfl (by decide +kernel) rfl rfl
    rfl (by decide +kernel)
  have h2 := fun again => sound_of (u := uhfRecord) (lim := stLim) (k := stTry) (p := stSent) (q := stQ) (f := stReply) (again := again)
    (s := st3) (a := st4) (b := st5) (by rw [ht]; rfl) rfl (Option.some_get st5_poll).symm (by decide +kernel)
  have h3 := fun again => report_of (u := uhfRecord) (k := stTry) (p := stQ) (g := stReport) (again := again) (s := st5) (a := st6)
    (pair_of (by decide +kernel)) (by decide +kernel) (by decide +kernel)
  rw [hq, recorded6] at h3
  exact h1.trans ((h2 _).trans (h3 _))

/-- A fit that gives no position leaves a token in the zone of its last track. -/
theorem fit_of {r : Nat} {u : UhfRec} {pri : Bool} {fit : FitResult} {q : FitReq} {s a b : State} {t : Track × State} (ha : a = noteSnr fit s)
    (hq : q.turnOk = true) (hp : fitPos a u q fit = none) (ht : t = putTrack (fuse a u q fit none pri) a)
    (hb : b = tokenPassed q.tid t.1.zone t.2) (hz : isCabZone b t.1.zone = true) :
    startFit r u pri fit q s = .pass t.1 (atStage r 0x01 0 b) := by
  subst ha ht hb
  simp only [startFit, hq, hp, hz, Bool.not_true, Bool.false_eq_true, if_false, if_true]

/-- A token whose ranging and fit pass. -/
theorem token_of {r lim tid : Nat} {pri : Bool} {ev : List StartTry × FitResult} {s a : State} {u : UhfRec} {q : FitReq} {c : Checked Track}
    (hu : uhfRec s = some u) (hn : ¬ (chainsUp s = [] ∨ cabChans s = [])) (hd : noNonce s = false)
    (hk : (tokenKeyOf s tid).isNone = false) (ht : startTries r u lim tid (startChans s tid) 3 ev.1 1 s = .pass q a)
    (hf : startFit r u pri ev.2 q a = c) : rangeToken r lim tid pri ev s = c := by
  simp only [rangeToken, hu, hn, hd, hk, ht, hf, Bool.false_eq_true, if_false]

/-- The one candidate of a START that passes. -/
theorem range_of {r lim tid : Nat} {mask : BitVec 16} {pri : Bool} {ev : List StartTry × FitResult} {fr : FateRec} {s a : State} {t : Track}
    (ht : rangeToken r lim tid pri ev (atStage r 0 0 s) = .pass t a) (hp : permitUnder a mask tid = some true) :
    rangeAll r lim mask pri [tid] [ev] fr s = .pass (tid, t.zone) (atStage r 0x02 0 a) := by
  simp only [rangeAll, List.headD_cons, ht, hp, beq_self_eq_true, if_true]

def st9 : State := noteSnr stFit st8
def stTrack : Track × State := putTrack (fuse st9 uhfRecord stReq stFit none false) st9
def st10 : State := tokenPassed stReq.tid stTrack.1.zone stTrack.2
def st11 : State := atStage 0 0x01 0 st10
def stV : State := atStage 0 0x02 0 st11
def stU : State := putSession none (priFall stV)

theorem token_passes : rangeToken 0 stLim 7 false ([stTry], stFit) stS = .pass stTrack.1 st11 :=
  token_of (u := uhfRecord) (by decide +kernel) (by decide +kernel) (by decide +kernel) (by decide +kernel) tries_pass
    (fit_of (a := st9) (b := st10) (t := stTrack) rfl (by decide +kernel) rfl rfl rfl (by decide +kernel))

/-- The flight as a start decision that has begun holds it. -/
theorem range_passes {f : Flight} (hc : startCands st2 (fieldLE f.raw 24 4) = [7]) (hl : startLimit st2 0 f = stLim) :
    rangeAll 0 (startLimit st2 0 f) (startPolicyOf st2 0).tokenNs (startPairs st2 != []) (startCands st2 (fieldLE f.raw 24 4)) stEv.tokens
      (failFate fAbsent 0x20) st2 = .pass (7, 0) stV := by
  have hp : (startPairs st2 != []) = false := by decide +kernel
  have hz : stTrack.1.zone = 0 := by decide +kernel
  have hr := range_of (fr := failFate fAbsent 0x20) (mask := (startPolicyOf st2 0).tokenNs) (s := st2) token_passes (by decide +kernel)
  rw [hz] at hr
  rw [hc, hl, hp]
  exact hr

theorem usedU : stU.led.used ≤ 512 := by
  have h : stU.led = st7.led := by rfl
  have h7 : st7.led.used = st6.led.used + recUnits (.tcnt 7 (frameTcnt stReport)) := rfl
  have h6 := used6
  rw [h, h7]
  simp only [recUnits, kindExtra]
  omega

/-- The same decision where its trigger waited for the lead of COEX_PRI. -/
theorem st2_flight : (getFlight st2 0).isSome = true := by decide +kernel
def start7b : Flight := (getFlight st2 0).get st2_flight
def stLed : State := modRadio (fun b => { b with poll := none, session := some stP, startWait := some (0, 999999000, stEv) }) st1
def latched (c : BitVec 8) (f : Slk → Slk) (s : State := still) : State := { s with slk := f { s.slk with code := c, comp := ~~~ c } }
/-- The LF and UHF records with pair 0 covering chain 0. -/
def covered : State := { aired with cfg := { aired.cfg with uhf := some { uhfRecord with coexUse := [1, 0] } } }
def noEvidence : StartEvidence := { tokens := [], cards := [] }
/-- A START of token 7 where a pair covers triggers. -/
def cvS : State := op start7 covered
def cv1 : State := firstChallenge 0 start7 (modRadio (fun b => { b with startDue := none }) (started 0 cvS))
theorem cv1_poll : cv1.radio.poll.isSome = true := by decide +kernel
def cvP : Poll := cv1.radio.poll.get cv1_poll
def timed (c : BitVec 8) (kind : Nat) (s : State := still) : State :=
  latched c (fun b => { b with timerKind := kind, timerEnd := some 1000001000, winCap := 1015001000 }) s
def held : SlkRetry := { cause := 0x0B, tid := 7, ten := 0xFFFF, seq := 0 }
def cranked : State := { still with clk := { still.clk with canRpm := 50 * 65536 } }

/-- States and operands that meet the hypotheses of each clause of StartLock. -/
theorem witness :
    (∃ (r : Nat) (tid : Nat) (zone : Nat) (ev : StartEvidence) (f : Flight) (g : Flight) (p : Poll) (s : State) (u : State) (v : State) (w : State) (x : State), (Ready 0x0300 r f s) ∧
        (startReady s r f ev = true) ∧ (s.radio.startWait = none) ∧ (airFree s = true) ∧ (s.pwr.mode = .cab ∨ s.pwr.mode = .drive) ∧
        (x = firstChallenge r f (modRadio (fun b => { b with startDue := none }) (started r s))) ∧ (x.radio.poll = some p) ∧
        (p.phase ≠ .slots ∨ coexPairs x 0 = []) ∧ (w = modRadio (fun b => { b with poll := some p, session := none }) x) ∧
        ((startPolicyOf w r).reqCard = false) ∧
        (rangeAll r (startLimit w r f) (startPolicyOf w r).tokenNs (startPairs w != []) (startCands w (fieldLE f.raw 24 4)) ev.tokens (failFate fAbsent 0x20) w = .pass (tid, zone) v) ∧
        (monoUs v < startLimit w r f) ∧ (u = putSession s.radio.poll (priFall v)) ∧ (getFlight u r = some g) ∧ (g.fate = none) ∧
        (u.slk.lockReqOps ≤ r) ∧ (u.slc.epoch = f.epochAdm) ∧ (commitHolds f true u = true) ∧
        (canLog (lockRecord (latch u) (startTarget u) 0x01 tid (nextFresh u) f.ten (dSeq f.raw) u) u = true)) ∧
    (∃ (r : Nat) (ev : StartEvidence) (f : Flight) (p : Poll) (s : State) (x : State), (Ready 0x0300 r f s) ∧
        (startReady s r f ev = true) ∧ (s.radio.startWait = none) ∧ (airFree s = true) ∧ (s.pwr.mode = .cab ∨ s.pwr.mode = .drive) ∧
        (x = firstChallenge r f (modRadio (fun b => { b with startDue := none }) (started r s))) ∧ (x.radio.poll = some p) ∧
        (p.phase = .slots) ∧ (coexPairs x 0 ≠ [])) ∧
    (∃ (r : Nat) (t0 : Nat) (tid : Nat) (zone : Nat) (ev : StartEvidence) (f : Flight) (g : Flight) (s : State) (u : State) (v : State) (w : State) (x : State), (s.radio.startWait = some (r, t0, ev)) ∧
        (Running 0x0300 r f s) ∧ (x = modRadio (fun b => { b with startWait := none }) (elapseTo (t0 + 100) s)) ∧
        (w = modRadio (fun b => { b with poll := b.session, session := none }) x) ∧ ((startPolicyOf w r).reqCard = false) ∧
        (rangeAll r (startLimit w r f) (startPolicyOf w r).tokenNs (startPairs w != []) (startCands w (fieldLE f.raw 24 4)) ev.tokens (failFate fAbsent 0x20) w = .pass (tid, zone) v) ∧
        (monoUs v < startLimit w r f) ∧ (u = putSession x.radio.poll (priFall v)) ∧ (getFlight u r = some g) ∧ (g.fate = none) ∧
        (u.slk.lockReqOps ≤ r) ∧ (u.slc.epoch = f.epochAdm) ∧ (commitHolds f true u = true) ∧
        (canLog (lockRecord (latch u) (startTarget u) 0x01 tid (nextFresh u) f.ten (dSeq f.raw) u) u = true)) ∧
    (∃ (r : Nat) (ev : StartEvidence) (f : Flight) (s : State), (getFlight s r = some f) ∧ (startReady s r f ev = true) ∧
        (s.radio.startWait = none) ∧ (airFree s = false) ∧ (startTurn s r f = true)) ∧
    (∃ (r : Nat) (ev : StartEvidence) (f : Flight) (s : State), (Ready 0x0300 r f s) ∧ (startReady s r f ev = true) ∧
        (s.radio.startWait = none) ∧ (airFree s = true) ∧ (s.pwr.mode = .service)) ∧
    (∃ (r : Nat) (new : Latch) (f : Flight) (s : State), (Ready 0x0301 r f s) ∧ ((board s).isSome = true) ∧
        (requestTarget 0x02 s = some new) ∧
        (canLog (lockRecord (latch s) new 0x02 s.slk.bound (nextFresh s) f.ten (dSeq f.raw) s) s = true)) ∧
    (∃ (r : Nat) (f : Flight) (s : State), (Ready 0x0301 r f s) ∧ (requestTarget 0x02 s = none ∨ board s = none)) ∧
    (∃ (r : Nat) (f : Flight) (s : State), (Ready 0x0302 r f s)) ∧
    (∃ (t0 : Nat) (s : State) (u : State), (s.slk.timerEnd = some t0) ∧ (s.slk.timerKind = 1) ∧ (latch s = .armed) ∧ (u = elapseTo t0 s) ∧
        ((board u).isSome = true) ∧ (canLog (lockRecord .armed .locked 0x0B u.slk.bound (nextFresh u) 0xFFFF 0 u) u = true)) ∧
    (∃ (t0 : Nat) (s : State) (u : State), (s.slk.timerEnd = some t0) ∧ (s.slk.timerKind = 1) ∧ (latch s = .armed) ∧ (u = elapseTo t0 s) ∧
        ((board u).isSome = true) ∧ (canLog (lockRecord .armed .locked 0x0B u.slk.bound (nextFresh u) 0xFFFF 0 u) u = false)) ∧
    (∃ (t0 : Nat) (new : Latch) (s : State) (u : State), (s.slk.ignOffAt = some t0) ∧ (ignAsserted s = false) ∧ (s.sys.ready = true) ∧
        (s.slk.policy.autoLock = true) ∧ (s.pwr.mode ≠ .hearth) ∧
        (u = modSlk (fun b => { b with ignOffAt := none }) (elapseTo (t0 + 2000000) s)) ∧ ((board u).isSome = true) ∧
        (requestTarget 0x03 u = some new) ∧ (canLog (lockRecord (latch u) new 0x03 u.slk.bound (nextFresh u) 0xFFFF 0 u) u = true)) ∧
    (∃ (t0 : Nat) (s : State), (s.slk.ignOffAt = some t0) ∧ (ignAsserted s = false) ∧ (s.sys.ready = true) ∧
        (s.slk.policy.autoLock = false)) ∧
    (∃ (t0 : Nat) (s : State) (u : State), (s.slk.timerEnd = some t0) ∧ (s.slk.timerKind = 2) ∧ (latch s = .released) ∧
        (u = elapseTo t0 s) ∧ (s.slk.winDue = false) ∧ (cranking u = false) ∧ (atRest u = true) ∧ (s.pwr.mode ≠ .hearth) ∧
        ((board u).isSome = true) ∧ (canLog (lockRecord .released .locked 0x04 u.slk.bound (nextFresh u) 0xFFFF 0 u) u = true)) ∧
    (∃ (t0 : Nat) (s : State) (u : State), (s.slk.timerEnd = some t0) ∧ (s.slk.timerKind = 2) ∧ (latch s = .released) ∧
        (u = elapseTo t0 s) ∧ (s.slk.winDue = false) ∧ (cranking u = true) ∧ (monoUs u < s.slk.winCap)) ∧
    (∃ (t0 : Nat) (s : State) (u : State), (s.slk.timerEnd = some t0) ∧ (s.slk.timerKind = 2) ∧ (latch s = .released) ∧
        (s.slk.winDue = true) ∧ (crankedTo s < 1000 * t0) ∧ (u = elapseToNs (crankedTo s) s) ∧ (cranking u = false) ∧ (atRest u = true) ∧
        (s.pwr.mode ≠ .hearth) ∧ ((board u).isSome = true) ∧
        (canLog (lockRecord .released .locked 0x04 u.slk.bound (nextFresh u) 0xFFFF 0 u) u = true)) ∧
    (∃ (t0 : Nat) (s : State) (u : State), (s.slk.timerEnd = some t0) ∧ (s.slk.timerKind = 3) ∧ (latch s = .deferred) ∧ (atRest s = true) ∧
        (u = elapseTo t0 s) ∧ (atRest u = true) ∧ ((board u).isSome = true) ∧
        (canLog (lockRecord .deferred .locked 0x05 u.slk.bound (nextFresh u) 0xFFFF 0 u) u = true)) ∧
    (∃ (w : SlkRetry) (s : State) (u : State), (s.slk.retry = [w]) ∧ (w.cause = 0x0B) ∧ (s.pwr.mode ≠ .hearth) ∧ (latch s = .armed) ∧
        (u = modSlk (fun b => { b with retry := [] }) (elapseTo s.slk.retryAt s)) ∧ (timerOver 1 u = true) ∧ ((board u).isSome = true) ∧
        (canLog (lockRecord .armed .locked 0x0B u.slk.bound (nextFresh u) 0xFFFF 0 u) u = true)) ∧
    (∃ (w : SlkRetry) (s : State) (u : State), (s.slk.retry = [w]) ∧ (w.cause = 0x0B) ∧ (s.pwr.mode ≠ .hearth) ∧
        (u = modSlk (fun b => { b with retry := [] }) (elapseTo s.slk.retryAt s)) ∧ (latch u ≠ .armed ∨ timerOver 1 u = false)) :=
  ⟨⟨0, 7, 0, stEv, start7, _, stP, st0, stU, stV, st2, st1, ready_of (by decide +kernel), by decide +kernel, by decide +kernel,
    by decide +kernel, by decide +kernel, rfl, rfl, by decide +kernel, rfl, by decide +kernel,
    range_passes (by decide +kernel) (by decide +kernel), by decide +kernel, rfl, (Option.some_get (by decide +kernel)).symm,
    by decide +kernel, by decide +kernel, by decide +kernel, by decide +kernel, canLog_of (by decide +kernel) rfl (Nat.le_trans usedU (by decide))⟩,
   ⟨0, noEvidence, start7, cvP, cvS, cv1, ready_of (by decide +kernel), by decide +kernel, by decide +kernel, by decide +kernel,
    by decide +kernel, rfl, rfl, by decide +kernel⟩,
   ⟨0, 999999000, 7, 0, stEv, start7b, _, stLed, stU, stV, st2, _, rfl, running_of (by decide +kernel), rfl, rfl, by decide +kernel,
    range_passes (by decide +kernel) (by decide +kernel), by decide +kernel, rfl, (Option.some_get (by decide +kernel)).symm,
    by decide +kernel, by decide +kernel, by decide +kernel, by decide +kernel, canLog_of (by decide +kernel) rfl (Nat.le_trans usedU (by decide))⟩,
   ⟨0, noEvidence, start7, op start7 { covered with radio := { covered.radio with poll := some { stP with kind := .presence } } },
    by decide +kernel⟩,
   ⟨0, noEvidence, start7, op start7 { covered with pwr := { covered.pwr with mode := .service } }, ready_of (by decide +kernel),
    by decide +kernel⟩,
   ⟨0, .locked, fl 0x0301, op (fl 0x0301) (latched 0x96 id), ready_of (by decide +kernel), by decide +kernel⟩,
   ⟨0, fl 0x0301, op (fl 0x0301), ready_of (by decide +kernel), by decide +kernel⟩,
   ⟨0, fl 0x0302 64, op (fl 0x0302 64), ready_of (by decide +kernel)⟩,
   ⟨1000001000, timed 0x5A 1, _, by decide +kernel, by decide +kernel, by decide +kernel, rfl, by decide +kernel⟩,
   ⟨1000001000, timed 0x5A 1 { still with led := { still.led with used := 122880 } }, _, by decide +kernel, by decide +kernel,
    by decide +kernel, rfl, by decide +kernel⟩,
   ⟨999000000, .deferred, latched 0x96 (fun b => { b with ignOffAt := some 999000000 }), _, by decide +kernel, by decide +kernel,
    by decide +kernel, by decide +kernel, by decide +kernel, rfl, by decide +kernel⟩,
   ⟨999000000, latched 0x96 (fun b => { b with ignOffAt := some 999000000, policy := { b.policy with autoLock := false } }), by decide +kernel⟩,
   ⟨1000001000, timed 0x96 2, _, by decide +kernel, by decide +kernel, by decide +kernel, rfl, by decide +kernel⟩,
   ⟨1000001000, timed 0x96 2 cranked, _, by decide +kernel, by decide +kernel, by decide +kernel, rfl, by decide +kernel⟩,
   ⟨1000001000, latched 0x96 (fun b => { b with winDue := true }) { timed 0x96 2 cranked with
     clk := { cranked.clk with canRpmAt := some 999800000001 } }, _, by decide +kernel, by decide +kernel, by decide +kernel,
    by decide +kernel, by decide +kernel, rfl, by decide +kernel⟩,
   ⟨1000001000, timed 0xC3 3, _, by decide +kernel, by decide +kernel, by decide +kernel, by decide +kernel, rfl, by decide +kernel⟩,
   ⟨held, timed 0x5A 1 (latched 0x5A (fun b => { b with retry := [held], retryAt := 1000002000 })), _, by decide +kernel, by decide +kernel,
    by decide +kernel, by decide +kernel, rfl, by decide +kernel⟩,
   ⟨held, latched 0xA5 (fun b => { b with retry := [held], retryAt := 1000000500 }), _, by decide +kernel, by decide +kernel,
    by decide +kernel, rfl, by decide +kernel⟩⟩

end Lock

/-! ### LockFramesAndBalls -/

namespace LockOut

def slkOf (f : Slk → Slk) (s : State := still) : State := { s with slk := f s.slk }
def turningOver : State := { still with clk := { still.clk with canRpm := 800 * 65536 } }
def offBus (s : State := up) : State := { s with flt := { s.flt with canBusoff := 0x20 } }

/-- States and operands that meet the hypotheses of each clause of LockFramesAndBalls. -/
theorem witness :
    (∃ (t0 : Nat) (p : Nat) (s : State) (u : State), (s.slk.frameAt = some t0) ∧ (stateFramesOn s = true) ∧
        (u = elapseTo (t0 + 1000 * s.slk.policy.periodMs) s) ∧ (stateFramesOn u = true) ∧ (framePort u s.slk.policy.framePort = some p) ∧
        (s.slk.freshState + 1 < 0xFFFFFFFF) ∧ (canLog (.intent 1 (s.slk.freshState + 1)) u = true)) ∧
    (∃ (t0 : Nat) (s : State) (u : State), (s.slk.reconcileAt = some t0) ∧ (s.sys.ready = true) ∧ (s.slk.hearthExit = false) ∧
        (u = modSlk (fun b => { b with reconciled := true, reconcileAt := none }) (elapseTo t0 s)) ∧ (latch s = .released) ∧
        (engineRunning u = true) ∧ ((board u).isSome = true) ∧
        (canLog (lockRecord .released .running 0x0C u.slk.bound (nextFresh u) 0xFFFF 0 u) u = true)) ∧
    (∃ (t0 : Nat) (s : State), (s.slk.reconcileAt = some t0) ∧ (s.sys.ready = true) ∧ (s.slk.hearthExit = false) ∧ (latch s = .locked)) ∧
    (∃ (p : Fin 6) (s : State), (portUp s pCan p = true) ∧ (s.flt.canBusoff.getLsbD p = false)) ∧
    (∃ (p : Fin 6) (t0 : Nat) (s : State), (tabFind s.slk.busOffAt p = some t0)) ∧
    (∃ (p : Fin 6) (t0 : Nat) (s : State), (tabFind s.slk.activeAt p = some t0)) ∧
    (∃ (s : State), (s.flt.slkMismatch.getLsbD 0 = false)) ∧
    (∃ (s : State), (s.flt.slkMismatch.getLsbD 0 = true)) ∧
    (∃ (b : BoardRec) (s : State), (board s = some b) ∧ (b.slk1 = true) ∧ (s.flt.slkMismatch.getLsbD 1 = false)) :=
  ⟨⟨1000000000, 0,
    slkOf (fun b => { b with frameAt := some 1000000000, freshState := 41, policy := { b.policy with framePort := 0, stateId := 0x123 } }),
    _, by decide +kernel, by decide +kernel, rfl, by decide +kernel⟩,
   ⟨1000000100, slkOf (fun b => { b with code := 0x96, comp := 0x69, reconciled := false, reconcileAt := some 1000000100 }) turningOver, _,
    by decide +kernel, by decide +kernel, by decide +kernel, rfl, by decide +kernel⟩,
   ⟨1000000100, slkOf (fun b => { b with reconciled := false, reconcileAt := some 1000000100 }), by decide +kernel⟩,
   ⟨5, up, by decide +kernel⟩,
   ⟨5, 999950000, slkOf (fun b => { b with busOffAt := [(5, 999950000)], portOff := 0x20 }) (offBus), by decide +kernel⟩,
   ⟨5, 999950000, slkOf (fun b => { b with activeAt := [(5, 999950000)], portOff := 0x20 }) up, by decide +kernel⟩,
   ⟨up, by decide +kernel⟩,
   ⟨{ up with flt := { up.flt with slkMismatch := 1 } }, by decide +kernel⟩,
   ⟨allFitted, up, by decide +kernel⟩⟩

end LockOut

/-! ### ContactlessReaders -/

namespace Readers

/-- Reader 7 has a baseline and has had a detection burst. -/
def based : State := { up with nfc := { up.nfc with rds := [(7, { detAt := some 999990000, reading := (1000000000, 0), base := some (1000000000, 0) })] } }
/-- A poll that detection on reader 7 started. -/
def polled (step : NfcStep) (a : ActStep) : Xchg := { op := 2 ^ 41 + 7, poll := true, readers := [7], step := step, act := a }
def polling (x : Xchg) : State := { up with nfc := { up.nfc with xs := [x] } }

/-- States and operands that meet the hypotheses of each clause of ContactlessReaders. -/
theorem witness :
    (∃ (k : Fin 8) (u : State) (s : State), (nfcOn s = true) ∧ (portUp s pNfc k = true) ∧ (readerBusy s k = false) ∧
        ((getReader s k).base = none) ∧ (u = detTime k s)) ∧
    (∃ (k : Fin 8) (amp : Nat) (phase : Int) (b : Int × Int) (v : Int × Int) (u : State) (s : State), (nfcOn s = true) ∧
        (portUp s pNfc k = true) ∧ (readerBusy s k = false) ∧ ((getReader s k).base = some b) ∧
        (v = (1000000 * (amp : Int), 1000000 * phase)) ∧ (detuned b v = true) ∧ (u = detTime k s)) ∧
    (∃ (k : Fin 8) (amp : Nat) (phase : Int) (t0 : Nat) (b : Int × Int) (v : Int × Int) (u : State) (s : State), (nfcOn s = true) ∧
        (portUp s pNfc k = true) ∧ (readerBusy s k = false) ∧ ((getReader s k).base = some b) ∧ ((getReader s k).detAt = some t0) ∧
        (v = (1000000 * (amp : Int), 1000000 * phase)) ∧ (detuned b v = false) ∧ (u = detTime k s)) ∧
    (∃ (k : Fin 8) (opened : Bool) (shorted : Bool) (s : State), (nfcOn s = true) ∧ (portUp s pNfc k = true) ∧ (readerBusy s k = false) ∧
        ((opened || shorted) = true) ∧ (s.nfc.xs = [])) ∧
    (∃ (k : Fin 8) (x : Xchg) (s : State), (xchgOn s k = some x) ∧ (getFlight s x.op = none) ∧ (x.node = none) ∧ (x.poll = true) ∧
        (x.step = .selectSeal)) ∧
    (∃ (k : Fin 8) (x : Xchg) (s : State), (xchgOn s k = some x) ∧ (getFlight s x.op = none) ∧ (x.node = none) ∧ (x.poll = true) ∧
        (x.found = false) ∧ (x.step = .activate) ∧ (x.act = .reqb 16 16)) ∧
    (∃ (k : Fin 8) (s : State), (nfcOn s = true) ∧ (fitted s pNfc k = true) ∧ (unitSt s pNfc k = .out) ∧
        ((getReader s k).fault = 1 ∨ (getReader s k).fault = 2)) :=
  ⟨⟨7, _, up, by decide +kernel, by decide +kernel, by decide +kernel, by decide +kernel, rfl⟩,
   ⟨7, 1041, 0, (1000000000, 0), _, _, based, by decide +kernel, by decide +kernel, by decide +kernel, by decide +kernel, rfl, by decide +kernel, rfl⟩,
   ⟨7, 1040, 30, 999990000, (1000000000, 0), _, _, based, by decide +kernel, by decide +kernel, by decide +kernel, by decide +kernel,
    by decide +kernel, rfl, by decide +kernel, rfl⟩,
   ⟨7, false, true, up, by decide +kernel⟩,
   ⟨7, polled .selectSeal .reqa, polling (polled .selectSeal .reqa), by decide +kernel⟩,
   ⟨7, polled .activate (.reqb 16 16), polling (polled .activate (.reqb 16 16)), by decide +kernel⟩,
   ⟨7, { (setUnit pNfc 7 .out up) with nfc := { up.nfc with rds := [(7, { fault := 2, outAt := 995000000 })] } }, by decide +kernel⟩⟩

end Readers

/-! ### ContactlessCards -/

namespace Cards

/-- Descriptor 0, in hand, with an exchange on reader 7. -/
def xchg (opc : Nat) (x : Xchg) (fields : List (Nat × Nat) := []) : State :=
  let t := op { fl opc 0 fields with begun := true }; { t with nfc := { t.nfc with xs := [x] } }
def on7 (step : NfcStep) : Xchg := { op := 0, readers := [7], step := step, started := 999999000, waitEnd := 1000004000, fwi := 4 }
/-- A driver card's answer to the challenge of 32 bytes 9. -/
def cardSays : Bytes :=
  be 81 0x0102030405000000000000000000000001042a6a0fe10dba124363848696eaa2ecf93e8ef47d682101aa4e7273ce9d916d00accb4670258bea9f7b92cb8fec5189f430009c0f3782ccd3e1e21000460a73 ++
    be 65 0x08cf19caa21137902785d2187905c267abf98c60290ebc933bc6b631d1dc5dff11cf19caa21137902785d2187905c267abf98c60290ebc933bc6b631d1dc5dff11
def sealOp (opc : Nat) : Flight := fl opc 160 [(24, 7), (32, 99), (40, 0)]
def begunF (opc : Nat) (fields : List (Nat × Nat) := []) : Flight := { fl opc 0 fields with begun := true }

/-- States and operands that meet the hypotheses of each clause of ContactlessCards. -/
theorem witness :
    (∃ (rd : Fin 64) (x : Xchg) (y : Xchg) (resp : CardBlock) (c : CardCtl) (a : ActStep) (s : State), (rd.val < 8) ∧
        (xchgOn s rd = some x) ∧ (x.step = .activate) ∧ (actNext ((x.limit).getD s.nfc.maxRate) x resp = some (.send c a, y))) ∧
    (∃ (rd : Fin 64) (x : Xchg) (y : Xchg) (resp : CardBlock) (rate : Nat) (f : Flight) (s : State), (rd.val < 8) ∧
        (xchgOn s rd = some x) ∧ (getFlight s x.op = some f) ∧ (x.node = none) ∧ (x.step = .activate) ∧ (dOpc f.raw = 0x0400) ∧
        (actNext ((x.limit).getD s.nfc.maxRate) x resp = some (.active rate, y)) ∧ (y.sfgi = 0) ∧ (16 ≤ y.fsc)) ∧
    (∃ (rd : Fin 64) (x : Xchg) (s : State), (rd.val < 8) ∧ (xchgOn s rd = some x) ∧ (x.step ≠ .activate) ∧ (drawWaits x s = false)) ∧
    (∃ (rd : Fin 64) (x : Xchg) (b : Bytes) (l : List Bytes) (s : State), (rd.val < 8) ∧ (xchgOn s rd = some x) ∧ (x.step ≠ .activate) ∧
        (drawWaits x s = false) ∧ (x.out = b :: l)) ∧
    (∃ (rd : Fin 64) (x : Xchg) (f : Flight) (s : State), (rd.val < 8) ∧ (xchgOn s rd = some x) ∧ (getFlight s x.op = some f) ∧
        (x.step = .selectDriver) ∧ (canDraw s = true) ∧ (noNonce s = false) ∧ ((apdu 0x60 (random s 32)).length + 3 ≤ x.fsc)) ∧
    (∃ (rd : Fin 64) (x : Xchg) (f : Flight) (d : Bytes) (s : State), (rd.val < 8) ∧ (xchgOn s rd = some x) ∧ (getFlight s x.op = some f) ∧
        (f.fate = none) ∧ (x.step = .cardAuth) ∧ (x.rx = []) ∧ (pkeUp s = true) ∧ (cardCode s x.chal d = some 0) ∧ (dLen f.raw = 0)) ∧
    (∃ (rd : Fin 64) (x : Xchg) (f : Flight) (d : Bytes) (s : State), (rd.val < 8) ∧ (xchgOn s rd = some x) ∧ (getFlight s x.op = some f) ∧
        (f.fate = none) ∧ (x.step = .change) ∧ (x.rx = []) ∧ (infoMode x = 1) ∧ (d.length = 5)) ∧
    (∃ (rd : Fin 64) (x : Xchg) (f : Flight) (s : State), (rd.val < 8) ∧ (xchgOn s rd = some x) ∧ (getFlight s x.op = some f) ∧
        (f.fate = none) ∧ (x.step = .change) ∧ (x.outstanding = true)) ∧
    (∃ (rd : Fin 64) (x : Xchg) (m : BitVec 8) (s : State), (rd.val < 8) ∧ (xchgOn s rd = some x) ∧ (x.step ≠ .activate) ∧ (1 ≤ m.toNat) ∧
        (m.toNat ≤ 59) ∧ (monoUs s + min (m.toNat * fwtUs x.fwi) 4949000 ≤ x.started + 1000 * ceilOf s x)) ∧
    (∃ (rd : Fin 64) (x : Xchg) (f : Flight) (m : BitVec 8) (s : State), (rd.val < 8) ∧ (xchgOn s rd = some x) ∧ (x.step ≠ .activate) ∧
        (1 ≤ m.toNat) ∧ (m.toNat ≤ 59) ∧ (x.started + 1000 * ceilOf s x < monoUs s + min (m.toNat * fwtUs x.fwi) 4949000) ∧
        (x.node = none) ∧ (getFlight s x.op = some f) ∧ (f.fate = none) ∧ (x.outstanding = false)) ∧
    (∃ (rd : Fin 64) (x : Xchg) (u : State) (s : State), (rd.val < 8) ∧ (xchgOn s rd = some x) ∧ (x.step ≠ .activate) ∧
        (u = elapseTo x.waitEnd s) ∧ (monoUs u < x.started + 1000 * ceilOf s x) ∧ (x.naks < 2)) ∧
    (∃ (rd : Fin 64) (x : Xchg) (f : Flight) (u : State) (s : State), (rd.val < 8) ∧ (xchgOn s rd = some x) ∧ (x.step ≠ .activate) ∧
        (u = elapseTo x.waitEnd s) ∧ (monoUs u < x.started + 1000 * ceilOf s x) ∧ (2 ≤ x.naks) ∧ (getFlight s x.op = some f) ∧
        (f.fate = none) ∧ (x.outstanding = false)) ∧
    (∃ (rd : Fin 64) (x : Xchg) (y : Xchg) (c : CardCtl) (a : ActStep) (u : State) (s : State), (rd.val < 8) ∧ (xchgOn s rd = some x) ∧
        (x.step = .activate) ∧ (u = elapseTo x.waitEnd s) ∧ (actNext ((x.limit).getD s.nfc.maxRate) x .noCard = some (.send c a, y))) ∧
    (∃ (r : Nat) (k : Nat) (ks : List Nat) (f : Flight) (s : State), (Ready 0x0400 r f s) ∧ ((namedReaders f).any (readerBusy s) = false) ∧
        ((namedReaders f).all (unitThere s) = true) ∧ ((namedReaders f).filter (readerUp s) = k :: ks) ∧ (k < 8)) ∧
    (∃ (r : Nat) (k : Nat) (f : Flight) (s : State), (Ready 0x0401 r f s) ∧ ((namedReaders f).any (readerBusy s) = false) ∧
        ((namedReaders f).all (unitThere s) = true) ∧ ((namedReaders f).filter (readerUp s) = [k]) ∧ (k < 8)) ∧
    (∃ (r : Nat) (k : Nat) (h : Handle) (f : Flight) (s : State), (Ready 0x0402 r f s) ∧ (secReady s = true) ∧ (noNonce s = false) ∧
        ((namedReaders f).any (readerBusy s) = false) ∧ ((namedReaders f).all (unitThere s) = true) ∧
        ((namedReaders f).filter (readerUp s) = [k]) ∧ (k < 8) ∧ (findHandle (started r s) r f.ten (fieldLE f.raw 40 8) = .ok h) ∧
        (keyCurrent s h = true) ∧ (h.subtree = 0)) ∧
    (∃ (r : Nat) (k : Nat) (h : Handle) (f : Flight) (s : State), (Ready 0x0403 r f s) ∧ (secReady s = true) ∧ (noNonce s = false) ∧
        ((namedReaders f).any (readerBusy s) = false) ∧ ((namedReaders f).all (unitThere s) = true) ∧
        ((namedReaders f).filter (readerUp s) = [k]) ∧ (k < 8) ∧ (findHandle (started r s) r f.ten (fieldLE f.raw 40 8) = .ok h) ∧
        (keyCurrent s h = true) ∧ (h.subtree = 0)) ∧
    (∃ (r : Nat) (k : Nat) (h : Handle) (f : Flight) (s : State), (Ready 0x0404 r f s) ∧ (secReady s = true) ∧ (noNonce s = false) ∧
        ((namedReaders f).any (readerBusy s) = false) ∧ ((namedReaders f).all (unitThere s) = true) ∧
        ((namedReaders f).filter (readerUp s) = [k]) ∧ (k < 8) ∧ (findHandle (started r s) r f.ten (fieldLE f.raw 40 8) = .ok h) ∧
        (keyCurrent s h = true) ∧ (h.subtree = 0)) ∧
    (∃ (r : Nat) (f : Flight) (s : State), (Ready 0x0402 r f s) ∧ (secReady s = true) ∧ ((namedReaders f).any (readerBusy s) = false) ∧
        ((namedReaders f).all (unitThere s) = true) ∧ ((namedReaders f).filter (readerUp s) = []) ∧ ((namedReaders f) ≠ [])) ∧
    (∃ (r : Nat) (f : Flight) (s : State), (Ready 0x0405 r f s)) :=
  ⟨⟨7, on7 .activate, on7 .activate, .atqa, .anticoll 1 [], .anti 1 [], xchg 0x0400 (on7 .activate), by decide +kernel, by decide +kernel,
    by decide +kernel, rfl⟩,
   ⟨7, { on7 .activate with act := .pps 2 }, { on7 .activate with act := .pps 2 }, .ppsOk, 2, begunF 0x0400,
    xchg 0x0400 { on7 .activate with act := .pps 2 }, by decide +kernel, by decide +kernel, by decide +kernel, rfl, rfl, by decide +kernel, rfl,
    by decide +kernel⟩,
   ⟨7, on7 .getInfo, xchg 0x0402 (on7 .getInfo), by decide +kernel⟩,
   ⟨7, { on7 .change with out := [[1, 2]] }, [1, 2], [], xchg 0x0403 { on7 .change with out := [[1, 2]] }, by decide +kernel⟩,
   ⟨7, on7 .selectDriver, begunF 0x0400, xchg 0x0400 (on7 .selectDriver), by decide +kernel⟩,
   ⟨7, { on7 .cardAuth with chal := List.replicate 32 9 }, begunF 0x0400, cardSays,
    xchg 0x0400 { on7 .cardAuth with chal := List.replicate 32 9 }, by decide +kernel⟩,
   ⟨7, { on7 .change with info := [1, 1] }, begunF 0x0403, [0, 0, 1, 0, 9], xchg 0x0403 { on7 .change with info := [1, 1] }, by decide +kernel⟩,
   ⟨7, { on7 .change with outstanding := true }, begunF 0x0402, xchg 0x0402 { on7 .change with outstanding := true }, by decide +kernel⟩,
   ⟨7, on7 .getInfo, 59, xchg 0x0402 (on7 .getInfo), by decide +kernel⟩,
   ⟨7, { on7 .getInfo with fwi := 14, started := 999000000 }, begunF 0x0402, 1,
    xchg 0x0402 { on7 .getInfo with fwi := 14, started := 999000000 }, by decide +kernel⟩,
   ⟨7, { on7 .getInfo with naks := 1 }, _, xchg 0x0402 { on7 .getInfo with naks := 1 }, by decide +kernel, by decide +kernel,
    by decide +kernel, rfl, by decide +kernel⟩,
   ⟨7, { on7 .getInfo with naks := 2 }, begunF 0x0402, _, xchg 0x0402 { on7 .getInfo with naks := 2 }, by decide +kernel, by decide +kernel,
    by decide +kernel, rfl, by decide +kernel⟩,
   ⟨7, on7 .activate, on7 .activate, .reqb 1, .reqb 1 1, _, xchg 0x0400 (on7 .activate), by decide +kernel, by decide +kernel,
    by decide +kernel, rfl, rfl⟩,
   ⟨0, 3, [7], fl 0x0400 0 [(24, 0x88)], op (fl 0x0400 0 [(24, 0x88)]), ready_of (by decide +kernel), by decide +kernel⟩,
   ⟨0, 7, sealOp 0x0401, op (sealOp 0x0401), ready_of (by decide +kernel), by decide +kernel⟩,
   ⟨0, 7, kdH 0 0, sealOp 0x0402, op (sealOp 0x0402) (withH 0 (kdH 0 0) up), ready_of (by decide +kernel),
    also3 (by decide +kernel) (also3 (by decide +kernel) ⟨okEq_of (by decide +kernel), by decide +kernel⟩)⟩,
   ⟨0, 7, kdH 0 0, sealOp 0x0403, op (sealOp 0x0403) (withH 0 (kdH 0 0) up), ready_of (by decide +kernel),
    also3 (by decide +kernel) (also3 (by decide +kernel) ⟨okEq_of (by decide +kernel), by decide +kernel⟩)⟩,
   ⟨0, 7, kdH 0 0, sealOp 0x0404, op (sealOp 0x0404) (withH 0 (kdH 0 0) up), ready_of (by decide +kernel),
    also3 (by decide +kernel) (also3 (by decide +kernel) ⟨okEq_of (by decide +kernel), by decide +kernel⟩)⟩,
   ⟨0, sealOp 0x0402, op (sealOp 0x0402) (setUnit pNfc 7 .out up), ready_of (by decide +kernel), by decide +kernel⟩,
   ⟨0, fl 0x0405 48, op (fl 0x0405 48) aired, ready_of (by decide +kernel)⟩⟩

end Cards

/-! ### SoundingsAndCoexistence -/

namespace Uhf

def withPoll (p : Poll) (t : State := aired) : State := modRadio (fun b => { b with poll := some p }) t
/-- LOCATE of token 7, in hand, its sounding granted. -/
def locF : Flight := { fl 0x0200 0 [(24, 7)] with begun := true }
def sounding : Poll := { kind := .locate 0, tid := 7, phase := .sound, n := 1, m := 3, nonce := [1, 2, 3, 4, 5, 6], chans := [0, 1], lastEnd := 999999000000, plan := [35], planAt := 1000000100000, trigAt := 999990000000, asked := true, granted := true, snr := 30 }
def reporting : Poll := { sounding with phase := .report, plan := [], tone := 35, bursts := 1, burstEnd := 1000000100000 }
/-- A burst of all the tones is on air. -/
def bursting : Poll := { sounding with plan := [], tone := 35, bursts := 1, burstAt := 999999900000, burstEnd := 1000005000000 }
def located (p : Poll) : State := op locF (withPoll p)
def fitted1 (q : FitReq) : State := let t := op locF aired; modRadio (fun b => { b with fits := [q] }) t
def replyFit : FitReq :=
  { tid := 7, turn := 31750, turnOk := true, snr := 30, m := 3, op := some 0, fv := List.replicate 9 27, drive := [(0, 2, 0), (1, 2, 0), (4, 2, 0)] }
def cabFit : FitResult :=
  { pos := some (100, 100, 100), sigma := 5, consts := [], phases := (List.range 4).map (fun k => ⟨k, 0, 0, 30⟩), azReply := 440 }
/-- The SOUND_REPORT of token 7 to `sounding`'s nonce, TCNT 102. -/
def report7 : TokenFrame := tframe (be 54 0x30000000700000066002300000000000000000000000000000000000000000000000000000000000000000000009c0f2dffecb6d44e)
def track7 : Track := { tid := 7, pos := some (100, 100, 100), sigma := 5, zone := 0, mask := 1, qual := 1, snr := 30, resid := 0, turn := 0, chains := 0xFF, tones := 35, tMeas := 990000000, updated := 990000000, az := 0 }
def loneStart : StartEvidence := { tokens := [], cards := [] }

/-- States and operands that meet the hypotheses of each clause of SoundingsAndCoexistence. -/
theorem witness :
    (∃ (e : Int) (s : State), (s.sys.ready = true ∨ s.pwr.mode = .parked) ∧ (0 ∈ chainsUp s) ∧ (e.natAbs ≤ 30)) ∧
    (∃ (e : Int) (s : State), (s.sys.ready = true ∨ s.pwr.mode = .parked) ∧ (0 ∈ chainsUp s) ∧ (30 < e.natAbs)) ∧
    (∃ (b : Bool) (s : State), (unitSt s uSyn (ofBool b) = .up) ∧ (s.radio.poll = none)) ∧
    (∃ (r : Nat) (c : Nat) (k : Nat) (l : List Nat) (ks : List Nat) (p : Poll) (u : UhfRec) (v : State) (s : State), (s.radio.poll = some p) ∧
        (uhfRec s = some u) ∧ (p.kind = .locate r) ∧ (p.phase = .sound) ∧ (startHolds s = false) ∧ (p.plan = c :: l) ∧ (p.granted = true) ∧
        (pausedTooLong p s.clk.ns = false) ∧ (pausedTooLong p p.planAt = false) ∧ (coexSpent p (p.planAt + burstDur s c) = false) ∧
        (v = elapseToNs p.planAt s) ∧ (dutyAllows (burstUs c) v = true) ∧ (chainsUp v = k :: ks)) ∧
    (∃ (r : Nat) (k : Nat) (ks : List Nat) (p : Poll) (u : UhfRec) (v : State) (s : State), (s.radio.poll = some p) ∧ (uhfRec s = some u) ∧
        (p.kind = .locate r) ∧ (p.phase = .report) ∧ (p.reports < 3) ∧ (startHolds s = false) ∧ (p.granted = true) ∧
        (v = elapseToNs p.burstEnd s) ∧ (pausedTooLong p v.clk.ns = false) ∧ (coexSpent p (v.clk.ns + 10000000) = false) ∧
        (dutyAllows 574 v = true) ∧ (chainsUp v = k :: ks)) ∧
    (∃ (r : Nat) (p : Poll) (u : UhfRec) (f : TokenFrame) (s : State), (s.radio.poll = some p) ∧ (uhfRec s = some u) ∧
        (p.kind = .locate r) ∧ (p.phase = .report) ∧ (p.open_.isSome = true) ∧ (secReady s = true) ∧ (frameValid f = true) ∧
        (canTakeTcnt s = true) ∧ (reportCheck s 0 (planTones u) p.nonce f = 0) ∧ (frameTid f = p.tid) ∧ (s.radio.touchNext = none) ∧
        (s.radio.presenceDue = false) ∧ (s.radio.approachDue = false) ∧ (s.radio.locates = [])) ∧
    (∃ (r : Nat) (f : Flight) (q : FitReq) (rest : List FitReq) (u : UhfRec) (pos : Pos) (fit : FitResult) (v : State) (s : State),
        (s.radio.fits = q :: rest) ∧ (uhfRec s = some u) ∧ (q.op = some r) ∧ (getFlight s r = some f) ∧ (f.fate = none) ∧
        (q.turnOk = true) ∧ (v = onlyIf q.sounded (noteSnr fit) (modRadio (fun b => { b with fits := rest }) s)) ∧
        (fitPos v u q fit = some pos) ∧ (consistent v u q fit pos = true) ∧ (dLen f.raw = 0) ∧ (s.radio.tracks.length < 64)) ∧
    (∃ (r : Nat) (f : Flight) (q : FitReq) (rest : List FitReq) (u : UhfRec) (s : State), (s.radio.fits = q :: rest) ∧
        (uhfRec s = some u) ∧ (q.op = some r) ∧ (getFlight s r = some f) ∧ (f.fate = none) ∧ (q.turnOk = false)) ∧
    (∃ (p : Poll) (s : State), (s.radio.poll = some p) ∧ (p.asked = true) ∧ (p.granted = false)) ∧
    (∃ (p : Poll) (u : UhfRec) (s : State), (s.radio.poll = some p) ∧ (uhfRec s = some u) ∧ (p.asked = true) ∧ (p.granted = false) ∧
        (p.kind = .approach) ∧ (s.radio.touchNext = none) ∧ (s.radio.presenceDue = false) ∧ (s.radio.approachDue = false) ∧
        (s.radio.locates = [])) ∧
    (∃ (m : Fin 2) (p : Poll) (s : State), (s.radio.poll = some p) ∧ (p.asked = true) ∧ (p.granted = true) ∧ (p.phase = .slots) ∧
        (s.radio.coexGnt.getLsbD m = true) ∧ (s.radio.coexReq.getLsbD m = true)) ∧
    (∃ (m : Fin 2) (p : Poll) (s : State), (s.radio.poll = some p) ∧ (p.asked = true) ∧ (p.granted = true) ∧ (p.phase = .sound) ∧
        (p.bursts ≠ 0) ∧ (s.clk.ns < p.burstEnd) ∧ (s.radio.coexGnt.getLsbD m = true) ∧ (s.radio.coexReq.getLsbD m = true)) ∧
    (∃ (r : Nat) (t0 : Nat) (ev : StartEvidence) (f : Flight) (s : State), (s.radio.startWait = some (r, t0, ev)) ∧ (Running 0x0300 r f s)) ∧
    (∃ (tid : BitVec 32) (tr : Track) (u : UhfRec) (s : State), (trackOf s tid.toNat = some tr) ∧ (uhfRec s = some u) ∧
        ((tabGet {} s.radio.pres tid.toNat).st = 1)) :=
  ⟨⟨-30, aired, by decide +kernel⟩,
   ⟨-31, aired, by decide +kernel⟩,
   ⟨true, aired, by decide +kernel⟩,
   ⟨0, 35, 0, [], [1, 2, 3, 4, 5, 6, 7], sounding, uhfRecord, _, located sounding,
    also4 (by decide +kernel) (also3 (by decide +kernel) (also3 (by decide +kernel) ⟨rfl, by decide +kernel⟩))⟩,
   ⟨0, 0, [1, 2, 3, 4, 5, 6, 7], { reporting with reports := 2, open_ := some 0 }, uhfRecord, _,
    located { reporting with reports := 2, open_ := some 0 },
    also4 (by decide +kernel) (also3 (by decide +kernel) ⟨rfl, by decide +kernel⟩)⟩,
   ⟨0, { reporting with open_ := some 0 }, uhfRecord, report7, located { reporting with open_ := some 0 }, by decide +kernel⟩,
   ⟨0, locF, replyFit, [], uhfRecord, (100, 100, 100), cabFit, _, fitted1 replyFit,
    also3 (by decide +kernel) (also3 (by decide +kernel) ⟨rfl, by decide +kernel⟩)⟩,
   ⟨0, locF, { replyFit with turnOk := false }, [], uhfRecord, fitted1 { replyFit with turnOk := false }, by decide +kernel⟩,
   ⟨{ sounding with granted := false }, located { sounding with granted := false }, by decide +kernel⟩,
   ⟨{ sounding with kind := .approach, granted := false, askedAt := 999999990 }, uhfRecord,
    withPoll { sounding with kind := .approach, granted := false, askedAt := 999999990 }, by decide +kernel⟩,
   ⟨1, { sounding with phase := .slots },
    modRadio (fun b => { b with coexReq := 3, coexGnt := 3 }) (withPoll { sounding with phase := .slots }), by decide +kernel⟩,
   ⟨1, bursting, modRadio (fun b => { b with coexReq := 2, coexGnt := 2 }) (located bursting), by decide +kernel⟩,
   ⟨0, 999999950, loneStart, { fl 0x0300 0 [(24, 7)] with begun := true },
    modRadio (fun b => { b with startWait := some (0, 999999950, loneStart), coexPri := true, coexReq := 1 }) (op { fl 0x0300 0 [(24, 7)] with begun := true } aired),
    by decide +kernel, running_of (by decide +kernel)⟩,
   ⟨7, track7, uhfRecord, modRadio (fun b => { b with tracks := [track7], pres := [(7, { st := 1 })] }) aired, by decide +kernel⟩⟩

end Uhf

/-! ### ProxClass -/

namespace Prox

def located (r : Nat) (s : State) (opc : Nat := 0x0200) : State := op (fl opc 0 [(24, r)]) s
def polled : State := modRadio (fun b => { b with poll := some { kind := .presence, n := 8, m := 3, nonce := zeros 6, chans := [0], lastEnd := 999999000000 } }) aired
def track7 : Track := { tid := 7, pos := some (100, -100, 100), sigma := 5, zone := 0, mask := 1, qual := 1, snr := 30, resid := 0, turn := -3, chains := 0xFF, tones := 35, tMeas := 990000000, updated := 990000000, az := 0 }
def keyMac : Handle := { kdH 0x04 0 with key := List.replicate 16 7 }
def enrol (tid : Nat) : Flight := fl 0x0202 0 [(24, tid), (28, 0xFFF), (30, 0xFF)]

/-- States and operands that meet the hypotheses of each clause of ProxClass. -/
theorem witness :
    (∃ (r : Nat) (f : Flight) (s : State), (Ready 0x0200 r f s) ∧ (secReady s = true) ∧ ((board s).isSome = true) ∧ (noNonce s = false) ∧
        ((tokenKeyOf s (fieldLE f.raw 24 4)).isSome = true) ∧ (s.radio.poll = none) ∧ (startHolds s = false) ∧ (s.clk.onRc = false) ∧
        (chainsUp s ≠ []) ∧ (pollChans (started r s) (.locate r) ≠ [])) ∧
    (∃ (r : Nat) (f : Flight) (p : Poll) (s : State), (Ready 0x0200 r f s) ∧ (secReady s = true) ∧ ((board s).isSome = true) ∧
        (noNonce s = false) ∧ ((tokenKeyOf s (fieldLE f.raw 24 4)).isSome = true) ∧ (s.radio.poll = some p)) ∧
    (∃ (r : Nat) (f : Flight) (s : State), (Ready 0x0200 r f s) ∧ (secReady s = true) ∧ ((board s).isSome = true) ∧ (noNonce s = false) ∧
        (tokenKeyOf s (fieldLE f.raw 24 4) = none)) ∧
    (∃ (r : Nat) (f : Flight) (n : Nat) (s : State), (Ready 0x0201 r f s) ∧ (n = min s.radio.tracks.length (dLen f.raw / 64))) ∧
    (∃ (r : Nat) (f : Flight) (k : Handle) (s : State) (x : State), (Ready 0x0202 r f s) ∧ (secReady s = true) ∧ (drawTurn r s = true) ∧
        (x = leaveQueue r (started r s)) ∧ (s.radio.near.any (fun e => e.tid == fieldLE f.raw 24 4) = false) ∧
        (enrolKey x r f (fieldLE f.raw 32 8) = .ok k) ∧ (s.radio.near.length < 256) ∧ (releaseAllowed x f (fieldLE f.raw 32 8) = true) ∧
        (commitHolds f true x = true) ∧
        (canLog (.part (stampPart { kind := 0x14, ten := f.ten, seq := dSeq f.raw, unit := 2, tid := fieldLE f.raw 24 4, count := handleSlot (fieldLE f.raw 32 8) } x)) x = true)) ∧
    (∃ (r : Nat) (f : Flight) (s : State), (Ready 0x0202 r f s) ∧ (secReady s = true) ∧ (drawTurn r s = true) ∧
        (s.radio.near.any (fun e => e.tid == fieldLE f.raw 24 4) = true)) ∧
    (∃ (r : Nat) (f : Flight) (e : NearEntry) (s : State), (Ready 0x0203 r f s) ∧
        (s.radio.near.find? (fun x => x.tid == fieldLE f.raw 24 4) = some e) ∧ (nearReach f e = true)) ∧
    (∃ (r : Nat) (f : Flight) (l : List NearEntry) (s : State), (Ready 0x0204 r f s) ∧
        (l = (s.radio.near.filter (nearReach f)).take (dLen f.raw / 16))) ∧
    (∃ (r : Nat) (f : Flight) (body : Bytes) (s : State), (Ready 0x0205 r f s) ∧
        (body = (match s.radio.zones with | some z => z.body | none => [])) ∧ (body.length ≤ dLen f.raw)) :=
  ⟨⟨0, fl 0x0200 0 [(24, 7)], located 7 aired, ready_of (by decide +kernel), by decide +kernel⟩,
   ⟨0, fl 0x0200 0 [(24, 7)], _, located 7 polled, ready_of (by decide +kernel), by decide +kernel, by decide +kernel, by decide +kernel,
    by decide +kernel, (Option.some_get (by decide +kernel)).symm⟩,
   ⟨0, fl 0x0200 0 [(24, 9)], located 9 { aired with sec := { aired.sec with starterChk := [] } }, ready_of (by decide +kernel),
    by decide +kernel⟩,
   ⟨0, fl 0x0201 64, _, op (fl 0x0201 64) (modRadio (fun b => { b with tracks := [track7, { track7 with tid := 8 }] }) aired),
    ready_of (by decide +kernel), rfl⟩,
   ⟨0, enrol 9, keyMac, op (enrol 9) (withH 0 keyMac aired), _, ready_of (by decide +kernel), by decide +kernel, rfl, rfl, by decide +kernel,
    okEq_of (by decide +kernel), by decide +kernel⟩,
   ⟨0, enrol 7, op (enrol 7) aired, ready_of (by decide +kernel), by decide +kernel⟩,
   ⟨0, fl 0x0203 0 [(24, 7)], token7, located 7 aired 0x0203, ready_of (by decide +kernel), by decide +kernel⟩,
   ⟨0, fl 0x0204 16, _, op (fl 0x0204 16) aired, ready_of (by decide +kernel), rfl⟩,
   ⟨0, fl 0x0205 160, _, op (fl 0x0205 160) aired, ready_of (by decide +kernel), rfl, by decide +kernel⟩⟩

end Prox

/-! ### KeyHandles -/

namespace Keys

def impBlob : Bytes := be 56 0x46424c4201011001000000000000000000000000000000000000000000000000d224fbf737e51f1169f808163bcb412d949cee7ff74c74d9

/-- States and operands that meet the hypotheses of each clause of KeyHandles. -/
theorem witness :
    (∃ (r : Nat) (h : Nat) (slot : Nat) (f : Flight) (k : Handle) (s : State), (Ready 0x0800 r f s) ∧ (secReady s = true) ∧
        (drawTurn r s = true) ∧ (vaultOk s = true) ∧ (fieldLE f.raw 24 1 ≠ 0 → f.party ≤ 1) ∧ (freeSlot s = some slot) ∧
        (h = f.ten * 2 ^ 38 + nextGen s slot * 65536 + slot) ∧
        (canLog (handleRecord s h { k with starterGen := s.sec.starterGen, created := monoUs s } true) s = true) ∧
        (k = (if fieldLE f.raw 24 1 = 0 then rootHandle (tenancyRoot s f.rules) 1 0 0xFF else if fieldLE f.raw 24 1 = 1 then rootHandle (tokenNode s) 2 1 0x54 else rootHandle (frameNode s) 2 2 0x44))) ∧
    (∃ (r : Nat) (f : Flight) (s : State), (Ready 0x0800 r f s) ∧ (secReady s = true) ∧ (drawTurn r s = true) ∧ (fieldLE f.raw 24 1 ≠ 0) ∧
        (1 < f.party)) ∧
    (∃ (r : Nat) (h : Nat) (slot : Nat) (d : Bytes) (f : Flight) (p : Handle) (k : Handle) (s : State), (Ready 0x0801 r f s) ∧
        (secReady s = true) ∧ (drawTurn r s = true) ∧ (findHandle s r f.ten (fieldLE f.raw 24 8) = .ok p) ∧ (keyCurrent s p = true) ∧
        (p.usage.getLsbD uDerive = true) ∧ (p.level < 8) ∧ (within (BitVec.ofNat 8 (fieldLE f.raw 32 1)) p.childMask = true) ∧
        (within (BitVec.ofNat 8 (fieldLE f.raw 33 1)) p.childMask = true) ∧
        (k = { key := kdf p.key (slice d 0 32) (nodeCtx (p.level + 1) (if p.subtree = 0 then 2 else 0)) (fieldLE f.raw 34 1), level := p.level + 1, usage := BitVec.ofNat 8 (fieldLE f.raw 32 1), childMask := BitVec.ofNat 8 (fieldLE f.raw 33 1), origin := 2, subtree := p.subtree, starterGen := s.sec.starterGen, created := monoUs s }) ∧
        (freeSlot s = some slot) ∧ (h = f.ten * 2 ^ 38 + nextGen s slot * 65536 + slot) ∧ (canLog (handleRecord s h k true) s = true)) ∧
    (∃ (r : Nat) (f : Flight) (p : Handle) (s : State), (Ready 0x0801 r f s) ∧ (secReady s = true) ∧ (drawTurn r s = true) ∧
        (findHandle s r f.ten (fieldLE f.raw 24 8) = .ok p) ∧ (keyCurrent s p = true) ∧ (p.usage.getLsbD uDerive = false)) :=
  ⟨⟨0, 0, 0, fl 0x0800, _, op (fl 0x0800), ready_of (by decide +kernel), also4 (by decide +kernel) (also3 (by decide +kernel) rfl)⟩,
   ⟨0, { fl 0x0800 0 [(24, 1)] with party := 2 }, op { fl 0x0800 0 [(24, 1)] with party := 2 }, ready_of (by decide +kernel),
    by decide +kernel⟩,
   ⟨0, 1, 1, zeros 32, fl 0x0801 0 [(32, 0x11), (33, 0x10), (34, 32)], kdH 0x10 0xFF, _,
    op (fl 0x0801 0 [(32, 0x11), (33, 0x10), (34, 32)]) (withH 0 (kdH 0x10 0xFF) up), ready_of (by decide +kernel), by decide +kernel,
    by decide +kernel, okEq_of (by decide +kernel), by decide +kernel, by decide +kernel, by decide +kernel, by decide +kernel,
    by decide +kernel, rfl, by decide +kernel⟩,
   ⟨0, fl 0x0801, kdH 0x01 0xFF, op (fl 0x0801) (withH 0 (kdH 0x01 0xFF) up), ready_of (by decide +kernel), by decide +kernel,
    by decide +kernel, okEq_of (by decide +kernel), by decide +kernel⟩⟩

/-- The next clauses of KeyHandles. -/
theorem witness2 :
    (∃ (r : Nat) (h : Nat) (slot : Nat) (d : Bytes) (blob : Bytes) (key : Bytes) (f : Flight) (k : Handle) (x : Handle) (s : State), (Ready 0x0802 r f s) ∧
        (secReady s = true) ∧ (drawTurn r s = true) ∧ (hashUp s = true) ∧ (blob = slice d 0 (dLen f.raw)) ∧
        (blobOk blob (dLen f.raw) = true) ∧ (slice blob 16 16 = uidBytes s) ∧ (byteAt blob 5 = 1) ∧
        (findHandle s r f.ten (fieldLE f.raw 32 8) = .ok k) ∧ (keyCurrent s k = true) ∧ (k.usage.getLsbD uWrap = true) ∧
        (keyUnwrap (kekOf k.key (slice blob 0 32)) (slice blob 32 (byteAt blob 6 + 8)) = some key) ∧ (key.length = byteAt blob 6) ∧
        (within (BitVec.ofNat 8 (fieldLE f.raw 40 1)) (BitVec.ofNat 8 (byteAt blob 7)) = true) ∧
        (within (BitVec.ofNat 8 (fieldLE f.raw 41 1)) (BitVec.ofNat 8 (byteAt blob 8)) = true) ∧
        (x = { key := key, level := 2, usage := BitVec.ofNat 8 (fieldLE f.raw 40 1), childMask := BitVec.ofNat 8 (fieldLE f.raw 41 1), origin := 3, subtree := 0, starterGen := s.sec.starterGen, created := monoUs s }) ∧
        (freeSlot s = some slot) ∧ (h = f.ten * 2 ^ 38 + nextGen s slot * 65536 + slot) ∧ (canLog (handleRecord s h x true) s = true)) ∧
    (∃ (r : Nat) (h : Nat) (slot : Nat) (d : Bytes) (blob : Bytes) (key : Bytes) (epk : Bytes) (header : Bytes) (f : Flight) (x : Handle) (s : State), (Ready 0x0802 r f s) ∧
        (secReady s = true) ∧ (drawTurn r s = true) ∧ (hashUp s = true) ∧ (pkeUp s = true) ∧ (blob = slice d 0 (dLen f.raw)) ∧
        (blobOk blob (dLen f.raw) = true) ∧ (slice blob 16 16 = uidBytes s) ∧ (byteAt blob 5 ≠ 1) ∧ (fieldLE f.raw 32 8 = 0) ∧
        (vaultOk s = true) ∧ (epk = slice blob 32 (epkLen (byteAt blob 5))) ∧ (pointCheck (kindCurve (byteAt blob 5)) epk = 0) ∧
        (header = slice blob 0 (32 + epkLen (byteAt blob 5))) ∧
        (keyUnwrap (kekOfZ (importZ s f.rules (byteAt blob 5) epk) header) (slice blob (32 + epkLen (byteAt blob 5)) (byteAt blob 6 + 8)) = some key) ∧
        (key.length = byteAt blob 6) ∧ (within (BitVec.ofNat 8 (fieldLE f.raw 40 1)) (BitVec.ofNat 8 (byteAt blob 7)) = true) ∧
        (within (BitVec.ofNat 8 (fieldLE f.raw 41 1)) (BitVec.ofNat 8 (byteAt blob 8)) = true) ∧
        (x = { key := key, level := 2, usage := BitVec.ofNat 8 (fieldLE f.raw 40 1), childMask := BitVec.ofNat 8 (fieldLE f.raw 41 1), origin := 3, subtree := 0, starterGen := s.sec.starterGen, created := monoUs s }) ∧
        (freeSlot s = some slot) ∧ (h = f.ten * 2 ^ 38 + nextGen s slot * 65536 + slot) ∧ (canLog (handleRecord s h x true) s = true)) ∧
    (∃ (r : Nat) (d : Bytes) (area : Bytes) (head : Bytes) (blob : Bytes) (f : Flight) (k : Handle) (kek : Handle) (s : State), (Ready 0x0803 r f s) ∧
        (secReady s = true) ∧ (drawTurn r s = true) ∧ (hashUp s = true) ∧ (fieldLE f.raw 40 1 = 1) ∧
        (findHandle s r f.ten (fieldLE f.raw 24 8) = .ok k) ∧ (keyCurrent s k = true) ∧ (k.usage.getLsbD uExport = true) ∧
        (findHandle s r f.ten (fieldLE f.raw 32 8) = .ok kek) ∧ (keyCurrent s kek = true) ∧ (kek.usage.getLsbD uWrap = true) ∧
        (releaseAllowed s f (fieldLE f.raw 24 8) = true) ∧ (commitHolds f true s = true) ∧
        (canLog (.part (stampPart { kind := 0x14, ten := f.ten, seq := dSeq f.raw, unit := 1, tid := 0, count := handleSlot (fieldLE f.raw 24 8) } s)) s = true) ∧
        (area = slice d 0 128) ∧ (head = blobHeader 1 k (slice area 0 16)) ∧ (blob = head ++ keyWrap (kekOf kek.key head) k.key)) ∧
    (∃ (r : Nat) (d : Bytes) (area : Bytes) (head : Bytes) (blob : Bytes) (f : Flight) (k : Handle) (e : Bytes × Bytes) (s : State), (Ready 0x0803 r f s) ∧
        (secReady s = true) ∧ (drawTurn r s = true) ∧ (hashUp s = true) ∧ (pkeUp s = true) ∧ (fieldLE f.raw 40 1 ≠ 1) ∧
        (findHandle s r f.ten (fieldLE f.raw 24 8) = .ok k) ∧ (keyCurrent s k = true) ∧ (k.usage.getLsbD uExport = true) ∧
        (area = slice d 0 128) ∧ (pointCheck (kindCurve (fieldLE f.raw 40 1)) (slice area 16 (epkLen (fieldLE f.raw 40 1))) = 0) ∧
        (releaseAllowed s f (fieldLE f.raw 24 8) = true) ∧ (commitHolds f true s = true) ∧
        (canLog (.part (stampPart { kind := 0x14, ten := f.ten, seq := dSeq f.raw, unit := 1, tid := 0, count := handleSlot (fieldLE f.raw 24 8) } s)) s = true) ∧
        (e = ephemeral (leaveQueue r (started r s)) (fieldLE f.raw 40 1) (slice area 16 (epkLen (fieldLE f.raw 40 1)))) ∧
        (head = blobHeader (fieldLE f.raw 40 1) k (slice area 0 16) ++ e.1) ∧ (blob = head ++ keyWrap (kekOfZ e.2 head) k.key)) :=
  ⟨⟨0, 1, 1, impBlob, _, List.replicate 16 3, fl 0x0802 56 [(32, 0), (40, 1)], kdH 0x20 0, _,
    op (fl 0x0802 56 [(32, 0), (40, 1)]) (withH 0 (kdH 0x20 0) up), ready_of (by decide +kernel), by decide +kernel, by decide +kernel,
    by decide +kernel, rfl, by decide +kernel, by decide +kernel, by decide +kernel, okEq_of (by decide +kernel),
    also3 (by decide +kernel) (also3 (by decide +kernel) ⟨rfl, by decide +kernel⟩)⟩,
   ⟨0, 0, 0,
    be 88 0x46424c4201021001000000000000000000000000000000000000000000000000090000000000000000000000000000000000000000000000000000000000000028f15d9df06bcd5cd41374235b69ba016f2e9c6526e304b0,
    _, List.replicate 16 3, _, _, fl 0x0802 88 [(40, 1)], _, op (fl 0x0802 88 [(40, 1)]), ready_of (by decide +kernel), by decide +kernel,
    by decide +kernel, by decide +kernel, by decide +kernel, rfl, by decide +kernel, by decide +kernel, by decide +kernel,
    by decide +kernel, by decide +kernel, rfl, by decide +kernel, rfl, by decide +kernel, by decide +kernel, by decide +kernel,
    by decide +kernel, rfl, by decide +kernel⟩,
   ⟨0, zeros 128, _, _, _, fl 0x0803 0 [(32, 1), (40, 1)], kdH 0x40 0, kdH 0x20 0,
    op (fl 0x0803 0 [(32, 1), (40, 1)]) (withH 0 (kdH 0x40 0) (withH 1 (kdH 0x20 0) up)), ready_of (by decide +kernel), by decide +kernel,
    by decide +kernel, by decide +kernel, by decide +kernel, okEq_of (by decide +kernel), by decide +kernel, by decide +kernel,
    okEq_of (by decide +kernel), by decide +kernel, by decide +kernel, by decide +kernel, by decide +kernel, by decide +kernel, rfl, rfl,
    rfl⟩,
   ⟨0, zeros 16 ++ le 32 9 ++ zeros 80, _, _, _, fl 0x0803 0 [(40, 2)], kdH 0x40 0, _, op (fl 0x0803 0 [(40, 2)]) (withH 0 (kdH 0x40 0) up),
    ready_of (by decide +kernel), by decide +kernel, by decide +kernel, by decide +kernel, by decide +kernel, by decide +kernel,
    okEq_of (by decide +kernel), by decide +kernel, by decide +kernel, rfl, by decide +kernel, by decide +kernel, by decide +kernel,
    by decide +kernel, rfl, rfl, rfl⟩⟩

/-- The next clauses of KeyHandles. -/
theorem witness3 :
    (∃ (r : Nat) (h : Nat) (f : Flight) (k : Handle) (s : State), (Ready 0x0804 r f s) ∧ (h = fieldLE f.raw 24 8) ∧ (handleTen h = f.ten) ∧
        (tabFind s.sec.handles h = some k) ∧ (k.closed = none)) ∧
    (∃ (r : Nat) (f : Flight) (k : Handle) (s : State), (Ready 0x0805 r f s) ∧ (findHandle s r f.ten (fieldLE f.raw 24 8) = .ok k)) ∧
    (∃ (r : Nat) (f : Flight) (s : State), (Ready 0x0806 r f s) ∧ (secReady s = true) ∧ (drawTurn r s = true) ∧ (pkeUp s = true) ∧
        (vaultOk s = true)) :=
  ⟨⟨0, 0, fl 0x0804, kdH 0x01 0xFF, op (fl 0x0804) (withH 0 (kdH 0x01 0xFF) up), ready_of (by decide +kernel), by decide +kernel⟩,
   ⟨0, fl 0x0805, kdH 0x01 0xFF, op (fl 0x0805) (withH 0 (kdH 0x01 0xFF) up), ready_of (by decide +kernel), okEq_of (by decide +kernel)⟩,
   ⟨0, fl 0x0806, op (fl 0x0806), ready_of (by decide +kernel), by decide +kernel⟩⟩

end Keys

/-! ### CipherOperations -/

namespace Cipher

/-- States and operands that meet the hypotheses of each clause of CipherOperations. -/
theorem witness :
    (∃ (r : Nat) (l : Nat) (d : Bytes) (inp : Bytes) (iv : Bytes) (f : Flight) (k : Handle) (s : State) (x : State), (Ready 0x0900 r f s) ∧
        (secReady s = true) ∧ (drawTurn r s = true) ∧ (findHandle s r f.ten (fieldLE f.raw 24 8) = .ok k) ∧ (keyCurrent s k = true) ∧
        (k.usage.getLsbD uEnc = true) ∧ (cPart f = true ∨ k.usage.getLsbD uHostNonce = true) ∧ (serveLane s = some l) ∧
        (inp = slice d 0 (dLen f.raw)) ∧
        (x = maskLane l (maskedBytes f k) (modFlight r (fun y => { y with spare := y.spare || (getLane s l).wasSpare }) (leaveQueue r (started r s)))) ∧
        (iv = cphIv f inp x)) ∧
    (∃ (r : Nat) (f : Flight) (k : Handle) (s : State), (Ready 0x0900 r f s) ∧ (secReady s = true) ∧ (drawTurn r s = true) ∧
        (findHandle s r f.ten (fieldLE f.raw 24 8) = .ok k) ∧ (keyCurrent s k = true) ∧ (k.usage.getLsbD uEnc = true) ∧ (cPart f = false) ∧
        (k.usage.getLsbD uHostNonce = false)) ∧
    (∃ (r : Nat) (l : Nat) (d : Bytes) (inp : Bytes) (f : Flight) (k : Handle) (s : State), (Ready 0x0901 r f s) ∧ (secReady s = true) ∧
        (drawTurn r s = true) ∧ (findHandle s r f.ten (fieldLE f.raw 24 8) = .ok k) ∧ (keyCurrent s k = true) ∧
        (k.usage.getLsbD uDec = true) ∧ (serveLane s = some l) ∧ (inp = slice d 0 (dLen f.raw))) ∧
    (∃ (r : Nat) (l : Nat) (d : Bytes) (inp : Bytes) (f : Flight) (k : Handle) (s : State), (Ready 0x0902 r f s) ∧ (secReady s = true) ∧
        (drawTurn r s = true) ∧ (findHandle s r f.ten (fieldLE f.raw 24 8) = .ok k) ∧ (keyCurrent s k = true) ∧
        (k.usage.getLsbD uMac = true) ∧ (serveLane s = some l) ∧ (inp = slice d 0 (dLen f.raw))) ∧
    (∃ (r : Nat) (l : Nat) (p : Nat) (d : Bytes) (inp : Bytes) (f : Flight) (k : Handle) (s : State), (Ready 0x0903 r f s) ∧
        (secReady s = true) ∧ (drawTurn r s = true) ∧ (findHandle s r f.ten (fieldLE f.raw 24 8) = .ok k) ∧ (keyCurrent s k = true) ∧
        (k.usage.getLsbD uMac = true) ∧ (serveLane s = some l) ∧ (inp = slice d 0 (dLen f.raw)) ∧ (p = payloadLen f.raw)) ∧
    (∃ (r : Nat) (l : Nat) (d : Bytes) (inp : Bytes) (nonce : Bytes) (f : Flight) (k : Handle) (s : State) (x : State), (Ready 0x0904 r f s) ∧
        (secReady s = true) ∧ (drawTurn r s = true) ∧ (findHandle s r f.ten (fieldLE f.raw 24 8) = .ok k) ∧ (keyCurrent s k = true) ∧
        (k.usage.getLsbD uAead = true) ∧ (cPart f = true ∨ k.usage.getLsbD uHostNonce = true) ∧ (serveLane s = some l) ∧
        (inp = slice d 0 (dLen f.raw)) ∧
        (x = maskLane l (maskedBytes f k) (modFlight r (fun y => { y with spare := y.spare || (getLane s l).wasSpare }) (leaveQueue r (started r s)))) ∧
        (nonce = (if cPart f then random x (cNonce f) else slice inp 0 (cNonce f)))) ∧
    (∃ (r : Nat) (l : Nat) (p : Nat) (d : Bytes) (inp : Bytes) (nonce : Bytes) (msg : Bytes) (f : Flight) (k : Handle) (s : State) (x : State), (Ready 0x0905 r f s) ∧
        (secReady s = true) ∧ (drawTurn r s = true) ∧ (findHandle s r f.ten (fieldLE f.raw 24 8) = .ok k) ∧ (keyCurrent s k = true) ∧
        (k.usage.getLsbD uAead = true) ∧ (serveLane s = some l) ∧ (inp = slice d 0 (dLen f.raw)) ∧ (nonce = slice inp 0 (cNonce f)) ∧
        (p = payloadLen f.raw) ∧
        (x = maskLane l (maskedBytes f k) (modFlight r (fun y => { y with spare := y.spare || (getLane s l).wasSpare }) (leaveQueue r (started r s)))) ∧
        (msg = ccmCrypt k.key nonce 1 (blocks16 (slice inp (16 + cAad f) p)))) :=
  ⟨⟨0, 0, zeros 32, _, _, fl 0x0900 32 [(33, 1)], kdH 0x01 0, op (fl 0x0900 32 [(33, 1)]) (withH 0 (kdH 0x01 0) up), _,
    ready_of (by decide +kernel), by decide +kernel, by decide +kernel, okEq_of (by decide +kernel), by decide +kernel, by decide +kernel,
    by decide +kernel, by decide +kernel, rfl, rfl, rfl⟩,
   ⟨0, fl 0x0900 32, kdH 0x01 0, op (fl 0x0900 32) (withH 0 (kdH 0x01 0) up), ready_of (by decide +kernel), by decide +kernel,
    by decide +kernel, okEq_of (by decide +kernel), by decide +kernel⟩,
   ⟨0, 0, zeros 32, _, fl 0x0901 32, kdH 0x02 0, op (fl 0x0901 32) (withH 0 (kdH 0x02 0) up), ready_of (by decide +kernel), by decide +kernel,
    by decide +kernel, okEq_of (by decide +kernel), by decide +kernel, by decide +kernel, by decide +kernel, rfl⟩,
   ⟨0, 0, zeros 32, _, fl 0x0902 32 [(34, 16)], kdH 0x04 0, op (fl 0x0902 32 [(34, 16)]) (withH 0 (kdH 0x04 0) up),
    ready_of (by decide +kernel), by decide +kernel, by decide +kernel, okEq_of (by decide +kernel), by decide +kernel, by decide +kernel,
    by decide +kernel, rfl⟩,
   ⟨0, 0, _, zeros 48, _, fl 0x0903 48 [(34, 16)], kdH 0x04 0, op (fl 0x0903 48 [(34, 16)]) (withH 0 (kdH 0x04 0) up),
    ready_of (by decide +kernel), by decide +kernel, by decide +kernel, okEq_of (by decide +kernel), by decide +kernel, by decide +kernel,
    by decide +kernel, rfl, rfl⟩,
   ⟨0, 0, zeros 32, _, _, fl 0x0904 32 [(33, 1), (34, 16), (35, 13)], kdH 0x08 0,
    op (fl 0x0904 32 [(33, 1), (34, 16), (35, 13)]) (withH 0 (kdH 0x08 0) up), _, ready_of (by decide +kernel), by decide +kernel,
    by decide +kernel, okEq_of (by decide +kernel), by decide +kernel, by decide +kernel, by decide +kernel, by decide +kernel, rfl, rfl,
    rfl⟩,
   ⟨0, 0, _, zeros 48, _, _, _, fl 0x0905 48 [(34, 16), (35, 13)], kdH 0x08 0,
    op (fl 0x0905 48 [(34, 16), (35, 13)]) (withH 0 (kdH 0x08 0) up), _, ready_of (by decide +kernel), by decide +kernel,
    by decide +kernel, okEq_of (by decide +kernel), by decide +kernel, by decide +kernel, by decide +kernel, rfl, rfl, rfl, rfl, rfl⟩⟩

end Cipher

/-! ### CipherLanes -/

namespace Lanes

def laned (l : Nat) (x : Lane) (s : State) : State := { s with sec := { s.sec with lanes := modAt s.sec.lanes l (fun _ => x) } }

/-- States and operands that meet the hypotheses of each clause of CipherLanes. -/
theorem witness :
    (∃ (l : Fin 20) (s : State), (Shaped s) ∧ ((getLane s l.val).st = .active) ∧
        ((recentTimes (monoUs s) (getLane s l.val).faults).length < 2)) ∧
    (∃ (l : Fin 20) (r : Nat) (f : Flight) (s : State), ((getLane s l.val).st = .active) ∧ (getFlight s r = some f) ∧ (f.fate = none) ∧
        (s.radio.poll.any (fun p => pollOp p.kind == some r) = false)) ∧
    (∃ (l : Fin 20) (k : Nat) (s : State), (Shaped s) ∧ ((getLane s l.val).st = .active) ∧
        (2 ≤ (recentTimes (monoUs s) (getLane s l.val).faults).length) ∧ (coolestSpare s = some k)) ∧
    (∃ (l : Fin 20) (s : State), (Shaped s) ∧ ((getLane s l.val).st = .test) ∧ ((getLane s l.val).kept = false)) ∧
    (∃ (l : Fin 20) (s : State), (Shaped s) ∧ ((getLane s l.val).st = .active)) ∧
    (∃ (l : Fin 20) (temp : Int) (s : State), (Shaped s) ∧ ((getLane s l.val).st = .out) ∧ ((getLane s l.val).fault = 3) ∧
        ((getLane s l.val).kept = false) ∧ (temp ≤ 122)) :=
  ⟨⟨19, laned 19 { st := .active, faults := [999999999] } up, shaped_of (by decide +kernel), by decide +kernel⟩,
   ⟨0, 0, fl 0x0900, op (fl 0x0900), by decide +kernel⟩,
   ⟨3, 16, laned 3 { st := .active, faults := [999999998, 999999999] } up, shaped_of (by decide +kernel), by decide +kernel⟩,
   ⟨3, laned 3 { st := .test } up, shaped_of (by decide +kernel), by decide +kernel⟩,
   ⟨3, up, shaped_of (by decide +kernel), by decide +kernel⟩,
   ⟨3, 122, laned 3 { st := .out, fault := 3 } up, shaped_of (by decide +kernel), by decide +kernel⟩⟩

end Lanes

/-! ### TamperEvents -/

namespace Tamper

/-- States and operands that meet the hypotheses of each clause of TamperEvents. -/
theorem witness :
    (∃ (m : Fin 2) (s : State), (portUp s pTmesh m = true) ∧ (s.pwr.vaon = true)) ∧
    (∃ (m : Fin 2) (s : State), (portUp s pTmesh m = true) ∧ (s.pwr.vaon = false)) ∧
    (∃ (m : Fin 2) (s : State), (portUp s pTmesh m = false)) ∧
    (∃ (s : State), (s.pwr.vaon = true)) ∧
    (∃ (s : State), (s.pwr.vaon = true) ∧ (s.pwr.mode ≠ .dormant) ∧
        ((s.flt.alarms.filter (fun t => decide (monoUs s < t + 60000000))).length < 3)) ∧
    (∃ (s : State), (s.pwr.vaon = true) ∧ (s.pwr.mode ≠ .dormant) ∧
        (3 ≤ (s.flt.alarms.filter (fun t => decide (monoUs s < t + 60000000))).length)) ∧
    (∃ (s : State), (s.pwr.vaon = true)) ∧
    (∃ (r : Nat) (f : Flight) (s : State), (s.pwr.vaon = true) ∧ (getFlight s r = some f) ∧ (f.begun = true) ∧ (f.fate = none) ∧
        (f.dupOf = none) ∧ (dClass f.raw = 0x08 ∨ dClass f.raw = 0x09)) ∧
    (∃ (e : Nat) (s : State), (s.sec.alarmEnd = some e)) :=
  ⟨⟨1, up, by decide +kernel⟩,
   ⟨1, { up with pwr := { up.pwr with vaon := false } }, by decide +kernel⟩,
   ⟨1, { up with cfg := {} }, by decide +kernel⟩,
   ⟨up, by decide +kernel⟩,
   ⟨{ up with flt := { alarms := [1, 999999000, 999999001] } }, by decide +kernel⟩,
   ⟨{ up with flt := { alarms := [999999000, 999999001, 999999002] } }, by decide +kernel⟩,
   ⟨up, by decide +kernel⟩,
   ⟨0, { fl 0x0900 with begun := true }, op { fl 0x0900 with begun := true }, by decide +kernel⟩,
   ⟨1000000007, { up with sec := { up.sec with alarmEnd := some 1000000007 } }, by decide +kernel⟩⟩

end Tamper

/-! ### ChecksAndHashes -/

namespace Pke

/-- States and operands that meet the hypotheses of each clause of ChecksAndHashes. -/
theorem witness :
    (∃ (r : Nat) (code : Nat) (d : Bytes) (f : Flight) (s : State), (Ready 0x0A00 r f s) ∧ (pkeUp s = true) ∧
        (fieldLE f.raw 25 1 = 1 ∨ hashUp s = true) ∧
        (code = pkVerify (fieldLE f.raw 24 1) (slice (slice d 0 (dLen f.raw)) 0 97) (slice (slice d 0 (dLen f.raw)) 100 96) ((slice d 0 (dLen f.raw)).drop 228) (fieldLE f.raw 25 1 == 1))) ∧
    (∃ (r : Nat) (code : Nat) (d : Bytes) (f : Flight) (s : State), (Ready 0x0A01 r f s) ∧ (pkeUp s = true) ∧
        (code = pointCheck (fieldLE f.raw 24 1) (slice d 0 97))) ∧
    (∃ (s : State), (pkeUp s = false)) ∧
    (∃ (r : Nat) (f : Flight) (s : State), (Ready 0x0A02 r f s) ∧ (hashUp s = true)) ∧
    (∃ (e : Fin 2) (s : State), (unitSt s uHash e.val = .up)) ∧
    (∃ (s : State), (unitSt s uPke 0 = .up)) :=
  ⟨⟨0, _, zeros 260, fl 0x0A00 260 [(25, 1), (24, 1)], op (fl 0x0A00 260 [(25, 1), (24, 1)]), ready_of (by decide +kernel), by decide +kernel,
    by decide +kernel, rfl⟩,
   ⟨0, _, le 32 9, fl 0x0A01 0 [(24, 4)], op (fl 0x0A01 0 [(24, 4)]), ready_of (by decide +kernel), by decide +kernel, rfl⟩,
   ⟨op (fl 0x0A00) (setUnit uPke 0 .out up), by decide +kernel⟩,
   ⟨0, fl 0x0A02 3 [(24, 1)], op (fl 0x0A02 3 [(24, 1)]), ready_of (by decide +kernel), by decide +kernel⟩,
   ⟨1, up, by decide +kernel⟩,
   ⟨up, by decide +kernel⟩⟩

end Pke

/-! ### RandomSource -/

namespace Rng

def srcd (l : Nat) (x : Source) (s : State) : State := { s with sec := { s.sec with sources := modAt s.sec.sources l (fun _ => x) } }

/-- States and operands that meet the hypotheses of each clause of RandomSource; clause 8 has none. -/
theorem witness :
    (∃ (r : Nat) (f : Flight) (s : State) (x : State), (Ready 0x0B00 r f s) ∧ (fieldLE f.raw 24 1 % 2 = 0) ∧ (canDraw s = true) ∧
        (drawTurn r s = true) ∧ (x = leaveQueue r (started r s))) ∧
    (∃ (r : Nat) (f : Flight) (s : State) (x : State), (Ready 0x0B00 r f s) ∧ (fieldLE f.raw 24 1 % 2 = 1) ∧ (canReseed s = true) ∧
        (drawTurn r s = true) ∧ (x = reseed (leaveQueue r (started r s)))) ∧
    (∃ (r : Nat) (f : Flight) (s : State), (Ready 0x0B00 r f s) ∧ (s.sec.rng ≠ .stopped) ∧ (servable s f = false)) ∧
    (∃ (r : Nat) (f : Flight) (s : State), (Ready 0x0B00 r f s) ∧ (s.sec.rng = .stopped)) ∧
    (∃ (r : Nat) (f : Flight) (s : State), (Ready 0x0B01 r f s)) ∧
    (∃ (i : Fin 4) (s : State), (Shaped s) ∧ (s.sec.rng = .running ∨ s.sec.rng = .held) ∧ ((getSource s i.val).st = .healthy) ∧
        (srcBypassed s i.val = false) ∧ ((failures24 s (getSource s i.val)).length < 2) ∧ (retiredCount s < 2)) ∧
    (∃ (i : Fin 4) (s : State), (Shaped s) ∧ (s.sec.rng = .running ∨ s.sec.rng = .held) ∧ ((getSource s i.val).st = .healthy) ∧
        (srcBypassed s i.val = false) ∧ (2 ≤ (failures24 s (getSource s i.val)).length) ∧ (1 ≤ retiredCount s)) ∧
    (∃ (i : Fin 4) (live : BitVec 4) (s : State), (Shaped s) ∧ (s.sec.rng = .running ∨ s.sec.rng = .held) ∧
        ((getSource s i.val).st = .healthy) ∧ (srcBypassed s i.val = false) ∧ (live.getLsbD i.val = false) ∧
        (∀ j : Fin 4, j ≠ i → live.getLsbD j.val = true)) ∧
    (∃ (i : Fin 4) (s : State), (Shaped s) ∧ ((getSource s i.val).st = .suspended) ∧ (srcBypassed s i.val = false)) ∧
    (∃ (s : State), (canReseed s = true)) ∧
    (∃ (s : State), (Shaped s) ∧ (s.sec.selfTest = true) ∧ (s.sec.starterDue = false) ∧ (∀ i : Fin 4, srcBypassed s i.val = false)) ∧
    (∃ (s : State) (v : State), (Shaped s) ∧ (s.sec.selfTest = true) ∧ (s.sec.starterDue = true) ∧
        (∀ i : Fin 4, unitSt s uRng i.val = .up) ∧
        (v = instantiate (modSec (fun b => { b with selfTest := false, selfTestReq := false, sources := b.sources.map (fun x => { x with st := .healthy, fails := [] }) }) s)) ∧
        (canLog (.other 486 (s.sec.starterGen + 1)) s = true)) :=
  ⟨⟨0, fl 0x0B00 64, op (fl 0x0B00 64), _, ready_of (by decide +kernel), by decide +kernel, by decide +kernel, by decide +kernel, rfl⟩,
   ⟨0, fl 0x0B00 64 [(24, 1)], op (fl 0x0B00 64 [(24, 1)]), _, ready_of (by decide +kernel), by decide +kernel, by decide +kernel,
    by decide +kernel, rfl⟩,
   ⟨0, fl 0x0B00 64, op (fl 0x0B00 64) { up with sec := { up.sec with rng := .init } }, ready_of (by decide +kernel), by decide +kernel⟩,
   ⟨0, fl 0x0B00 64, op (fl 0x0B00 64) { up with sec := { up.sec with rng := .stopped } }, ready_of (by decide +kernel), by decide +kernel⟩,
   ⟨0, fl 0x0B01, op (fl 0x0B01), ready_of (by decide +kernel)⟩,
   ⟨3, srcd 3 { fails := [999999999] } up, shaped_of (by decide +kernel), by decide +kernel⟩,
   ⟨3, srcd 2 { st := .retired } (srcd 3 { fails := [999999998, 999999999] } up), shaped_of (by decide +kernel), by decide +kernel⟩,
   ⟨2, 0xB, up, shaped_of (by decide +kernel), by decide +kernel⟩,
   ⟨1, srcd 1 { st := .suspended, since := 999999000 } up, shaped_of (by decide +kernel), by decide +kernel⟩,
   ⟨up, by decide +kernel⟩,
   ⟨{ up with sec := { up.sec with selfTest := true, rng := .init } }, shaped_of (by decide +kernel), by decide +kernel⟩,
   ⟨{ up with sec := { up.sec with selfTest := true, rng := .init, starterDue := true } }, _, shaped_of (by decide +kernel),
    by decide +kernel, by decide +kernel, by decide +kernel, rfl, by decide +kernel⟩⟩

end Rng

/-! ### ImagesAndRecords -/

namespace Upd

def stageF : Flight := fl 0x0C00 65537
def stageS : State := op stageF (signed { up with upd := { up.upd with boot := false } })
theorem stage_head : headCheck stageS imgHead = none :=
  headCheck_of ((bootCheck_congr (s := stageS) (t := signed up) rfl rfl).trans img_boot) rfl
theorem stage_key : (imageKey stageS imgHead).isSome = true :=
  (congrArg Option.isSome (imageKey_congr (s := stageS) (t := signed up) rfl)).trans img_key

def staged (st : SlotSt) : Slot := { st := st, ver := 7, headId := 99, blocks := [(0, imgHead), (1, [0])] }
def holding (st : SlotSt) (f : Upd → Upd) (s : State := up) : State := { s with upd := f { s.upd with b := staged st } }
def roleRec : Bytes :=
  be 68 0x4346475200080001000000040000000100000000000000000000000000000000000000000000000000000000000000000000000000000000000000000000000000000000 ++
    be 68 0x0101000004d83ac52eefe316d147d4618c5b67e6d83e4a4ca0614c4badb642b06d6de5b2c8d55dc3aaf94465531b86d57728e386c7ae35aff47b53b5d03d9f52ce9baa8d ++
    be 68 0x543aa3806c894030f821f681f473cb203c23808a789de8f8f4078307c51e4b7db800000021e3c1ee33e2b12f15b74376ae6b2d0ce95187018cf3b815c195a6862d099013 ++
    be 68 0x8944859b4c8afdda4e17fb72e69f252821e3c1ee33e2b12f15b74376ae6b2d0ce95187018cf3b815c195a6862d0990138944859b4c8afdda4e17fb72e69f252800000000 ++ zeros 52
def recKey : Bytes := be 32 0x44798e8e2e08e473a4b10c3a70150be72ce545268d71fdb9ad971610bccc0ec4
def recSet : State := { up with slc := { up.slc with wardens := [{ role := 1, alg := 1, keyHash := recKey }] }
                                upd := { up.upd with a := { st := .active, blocks := [(0, imgHead)] } } }

/-- States and operands that meet the hypotheses of each clause of ImagesAndRecords. -/
theorem witness :
    (∃ (r : Nat) (d : Bytes) (data : Bytes) (h : Bytes) (b : Bool) (f : Flight) (s : State), (Ready 0x0C00 r f s) ∧ (s.upd.recv = none) ∧
        (s.upd.schedOp = none) ∧ (updTurn s r f = true) ∧ (slotBusy s = false) ∧ (hashUp s = true) ∧ (pkeUp s = true) ∧
        (data = slice d 0 (dLen f.raw)) ∧ (h = slice data 0 65536) ∧ (b = updTarget s) ∧ (dLen f.raw = 65536 + hPayload h) ∧
        (headCheck s h = none) ∧ ((imageKey s h).isSome = true) ∧
        (∀ c, c < hChunks h → chunkOk h c (nth [] (imageBlocks data) (c + 1)) = true) ∧
        (payloadOk (getSlot (writeBlocks b (imageBlocks data) (imageBlocks data).length (beginSlot b h s)) b) = true)) ∧
    (∃ (r : Nat) (f : Flight) (s : State), (Ready 0x0C00 r f s) ∧ (s.upd.recv = none) ∧ (s.upd.schedOp = none) ∧ (updTurn s r f = true) ∧
        (slotBusy s = true)) ∧
    (∃ (r : Nat) (f : Flight) (eth : List UpdPeer) (p : Push) (s : State), (Ready 0x0C01 r f s) ∧
        (eth = (if fieldLE f.raw 26 1 < 2 then [UpdPeer.eth (Fin.ofNat 2 (fieldLE f.raw 26 1)) (BitVec.ofNat 48 (fieldLE f.raw 32 6))] else []).filter (peerUp s)) ∧
        (s.clk.onRc = false) ∧ (updBusy s = false) ∧ (updTurn s r f = true) ∧ ((getSlot s (updTarget s)).st = .staged) ∧
        (p = { op := r, route := fieldLE f.raw 24 2, open_ := ((routePositions (fieldLE f.raw 24 2)).filter (fun q => (nodeAt s q).isSome)).map (fun q => .line (Fin.ofNat 8 q)) ++ eth, silent := (routePositions (fieldLE f.raw 24 2)).filter (fun q => (nodeAt s q).isNone) ++ (if fieldLE f.raw 26 1 < 2 ∧ eth = [] then [0] else []) })) ∧
    (∃ (s : State), (s.clk.onRc = true)) ∧
    (∃ (r : Nat) (f : Flight) (held : List Nat) (b : Bool) (s : State), (Ready 0x0C02 r f s) ∧ (updBusy s = false) ∧
        (updTurn s r f = true) ∧ (fieldLE f.raw 24 8 = 0 ∨ s.clk.wallSet = true) ∧ (b = updTarget s) ∧ ((getSlot s b).st = .staged) ∧
        (held = (routePositions (fieldLE f.raw 34 2)).filter (fun q => (peerOf s q).code == 2 && (peerOf s q).headId == (getSlot s b).headId))) ∧
    (∃ (r : Nat) (f : Flight) (s : State), (Ready 0x0C02 r f s) ∧ (updBusy s = false) ∧ (updTurn s r f = true) ∧ (fieldLE f.raw 24 8 ≠ 0) ∧
        (s.clk.wallSet = false)) ∧
    (∃ (r : Nat) (n : Nat) (f : Flight) (b : Bool) (s : State), (Ready 0x0C03 r f s) ∧ (updBusy s = false) ∧ (updTurn s r f = true) ∧
        (scheduledSlot s = some b) ∧
        (n = ((routePositions (fieldLE f.raw 34 2)).filter (fun q => (peerOf s q).code == 3 && (peerOf s q).headId == (getSlot s b).headId)).length)) ∧
    (∃ (r : Nat) (f : Flight) (s : State), (Ready 0x0C03 r f s) ∧ (updBusy s = false) ∧ (updTurn s r f = true) ∧ (scheduledSlot s = none)) ∧
    (∃ (r : Nat) (d : Bytes) (w : Bytes) (body : CfgBody) (f : Flight) (x : CfgRec) (s : State) (u : State), (Ready 0x0C04 r f s) ∧
        (updBusy s = false) ∧ (updTurn s r f = true) ∧ (w = slice d 0 (dLen f.raw)) ∧ (x = recOf w body) ∧ (recFormatOk w = true) ∧
        (recTargetOk s w = true) ∧ (cfgTypeOf body = x.type) ∧ (hashUp s = true) ∧ (pkeUp s = true) ∧ (recSignerKnown s w = true) ∧
        (recSigCode w = 0) ∧ (cfgBodyOk (boardInCfg s) body = true) ∧ (fmtServes s x.format = true) ∧
        (∀ e ∈ bankRecs s, e.2.type = x.type → e.2.gen < x.gen) ∧ (placeRec x s = some u)) ∧
    (∃ (r : Nat) (f : Flight) (s : State), (Ready 0x0C05 r f s)) :=
  ⟨⟨0, imgData, imgData, imgHead, true, stageF, stageS, ready_of (by decide +kernel),
    also3 (by decide +kernel) (also3 (by decide +kernel) ⟨imgData_slice.symm, imgData_head.symm, by decide +kernel, by decide +kernel,
    stage_head, stage_key,
    fun c hc => by
    have h1 : hChunks imgHead = 1 := by decide +kernel
    have : c = 0 := by omega
    subst this; rw [imgData_blocks]; decide +kernel,
    by rw [imgData_blocks]; decide +kernel⟩)⟩,
   ⟨0, stageF, op stageF (holding .scheduled id), ready_of (by decide +kernel), by decide +kernel⟩,
   ⟨0, Sys2Proof.Tests.fl 0x0C01 0 [(24, 6), (26, 1), (32, 0x112233445566)], _, _,
    Sys2Proof.Tests.op (Sys2Proof.Tests.fl 0x0C01 0 [(24, 6), (26, 1), (32, 0x112233445566)]) (holding .staged id (noded 3)),
    ready_of (by decide +kernel), rfl, by decide +kernel, by decide +kernel, by decide +kernel, by decide +kernel, rfl⟩,
   ⟨{ up with clk := { up.clk with onRc := true } }, by decide +kernel⟩,
   ⟨0, fl 0x0C02 0 [(32, 24), (34, 2)], _, true,
    op (fl 0x0C02 0 [(32, 24), (34, 2)]) (holding .staged (fun u => { u with peers := [(1, { code := 2, headId := 99 })] }) (noded 3)),
    ready_of (by decide +kernel), by decide +kernel, by decide +kernel, by decide +kernel, by decide +kernel, by decide +kernel, rfl⟩,
   ⟨0, fl 0x0C02 0 [(24, 5)], op (fl 0x0C02 0 [(24, 5)]) (holding .staged id), ready_of (by decide +kernel), by decide +kernel⟩,
   ⟨0, _, fl 0x0C03 0 [(34, 2)], true,
    op (fl 0x0C03 0 [(34, 2)]) (holding .scheduled (fun u => { u with peers := [(1, { code := 3, headId := 99 })] }) (noded 3)),
    ready_of (by decide +kernel), by decide +kernel, by decide +kernel, by decide +kernel, rfl⟩,
   ⟨0, fl 0x0C03, op (fl 0x0C03) up, ready_of (by decide +kernel), by decide +kernel⟩,
   ⟨0, roleRec, _, .role true, fl 0x0C04 324, _, op (fl 0x0C04 324) recSet, _, ready_of (by decide +kernel), by decide +kernel,
    by decide +kernel, rfl, rfl,
    also4 (by decide +kernel) (also3 (by decide +kernel) (also3 (by decide +kernel) (Option.some_get (by decide +kernel)).symm))⟩,
   ⟨0, fl 0x0C05 256, op (fl 0x0C05 256) (noded 3), ready_of (by decide +kernel)⟩⟩

end Upd

/-! ### ImageTransport -/

namespace Trans

theorem hearth_eth : peerUp inHearth (.eth 0 0x112233445566) = true := by
  have h : hearthPort inHearth pEth 0 = true := hearthPort_of rfl rfl rfl rfl rfl (by decide +kernel)
  simp [peerUp, h]

def tool : UpdPeer := .eth 1 0x112233445566
def staged (st : SlotSt) : Slot := { st := st, ver := 7, headId := 99, blocks := [(0, imgHead), (1, [0])] }
def holding (st : SlotSt) (f : Upd → Upd) (s : State := up) : State := { s with upd := f { s.upd with b := staged st } }
def offerM (h : Nat) : Bytes := [1, 0, 0, 0] ++ be 8 h ++ be 4 7 ++ be 2 1 ++ be 2 0 ++ zeros 4
def chained (s : State := noded 3) : State := modPort 3 (fun _ => { link := .coupledF, pos := 1, cpl := 9 }) s
def heard (code : Nat) : Bytes := [4, 1, BitVec.ofNat 8 code, 0] ++ be 8 99 ++ be 2 2 ++ zeros 2
def recv1 : Recv := { src := tool, headId := 99, chunks := 1, route := 0, headOk := true, last := 999999000, lastPiece := some 999999000 }
def waiting : Flight := { fl 0x0C01 with begun := true }
def send1 : Send := { dst := tool, headId := 99, last := 999000000, route := 2 }
def sched1 : Schedule := { windowH := 24, route := 2, by_ := some (0, 0), due := 990000000, sentAt := 990000000 }
def push1 : Push := { op := 0, route := 2, open_ := [.line (Fin.ofNat 8 1)] }
def scheduling : State := holding .scheduled (fun u => { u with sched := some sched1, actAt := 2000 }) { up with clk := { up.clk with wallSet := true } }

/-- States and operands that meet the hypotheses of each clause of ImageTransport. -/
theorem witness :
    (∃ (p : Fin 2) (mac : BitVec 48) (m : Bytes) (s : State), (m.length = 24) ∧ (byteAt m 0 = 1) ∧ (peerUp s (.eth p mac) = true) ∧
        (s.pwr.mode ≠ .hearth) ∧ ([s.upd.a, s.upd.b].find? (fun y => y.headId == beAt m 4 8 && heldCode y.st != 0) = none) ∧
        (updBusy s = false) ∧ ((getSlot s (updTarget s)).st = .empty) ∧ (s.upd.a.st ≠ .trial) ∧ (s.upd.b.st ≠ .trial)) ∧
    (∃ (mac : BitVec 48) (m : Bytes) (s : State), (m.length = 24) ∧ (byteAt m 0 = 1) ∧ (peerUp s (.eth 0 mac) = true) ∧
        (s.pwr.mode = .hearth) ∧ (hearthBusy s = false)) ∧
    (∃ (p : Fin 2) (mac : BitVec 48) (m : Bytes) (y : Slot) (s : State), (m.length = 24) ∧ (byteAt m 0 = 1) ∧
        (peerUp s (.eth p mac) = true) ∧ (s.pwr.mode ≠ .hearth) ∧
        ([s.upd.a, s.upd.b].find? (fun y => y.headId == beAt m 4 8 && heldCode y.st != 0) = some y)) ∧
    (∃ (p : Fin 2) (mac : BitVec 48) (m : Bytes) (x : Send) (s : State), (m.length = 40) ∧ (byteAt m 0 = 2) ∧
        (peerUp s (.eth p mac) = true) ∧ (s.upd.sends.find? (fun x => x.dst == .eth p mac && x.headId == beAt m 4 8) = some x)) ∧
    (∃ (src : UpdPeer) (m : Bytes) (x : Recv) (parts : Tab Bytes) (s : State), (s.upd.recv = some x) ∧ (m.length = 1032) ∧
        (byteAt m 0 = 3) ∧ (x.src = src) ∧ (peerUp s src = true) ∧ (beAt m 2 2 ≤ x.chunks) ∧ (beAt m 2 2 = 0 ↔ x.headOk = false) ∧
        (x.headOk = true → tabFind (getSlot s (recvSlot s)).blocks (beAt m 2 2) = none) ∧
        (parts = tabPut (if x.block = beAt m 2 2 then x.parts else []) (byteAt m 4) (m.drop 8)) ∧
        (parts.length ≠ ceilDiv (blockLen (slotHead (getSlot s (recvSlot s))) (beAt m 2 2)) 1024)) ∧
    (∃ (src : UpdPeer) (m : Bytes) (data : Bytes) (b : Bool) (x : Recv) (parts : Tab Bytes) (s : State), (s.upd.recv = some x) ∧
        (m.length = 1032) ∧ (byteAt m 0 = 3) ∧ (x.src = src) ∧ (peerUp s src = true) ∧ (beAt m 2 2 ≤ x.chunks) ∧ (beAt m 2 2 ≠ 0) ∧
        (x.headOk = true) ∧ (b = recvSlot s) ∧ (tabFind (getSlot s b).blocks (beAt m 2 2) = none) ∧
        (parts = tabPut (if x.block = beAt m 2 2 then x.parts else []) (byteAt m 4) (m.drop 8)) ∧
        (parts.length = ceilDiv (blockLen (slotHead (getSlot s b)) (beAt m 2 2)) 1024) ∧
        (data = (parts.flatMap (·.2)).take (blockLen (slotHead (getSlot s b)) (beAt m 2 2))) ∧
        (chunkOk (slotHead (getSlot s b)) (beAt m 2 2 - 1) data = true)) ∧
    (∃ (q : Fin 8) (m : Bytes) (ver : Nat) (s : State), (m.length = 16) ∧ (byteAt m 0 = 4) ∧ (peerUp s (.line q) = true) ∧
        (1 ≤ byteAt m 1) ∧ (byteAt m 1 ≤ 7) ∧ (s.sys.trailer = false) ∧
        (ver = (if s.upd.a.headId = beAt m 4 8 then s.upd.a.ver else if s.upd.b.headId = beAt m 4 8 then s.upd.b.ver else 0))) ∧
    (∃ (q : Fin 8) (m : Bytes) (x : Push) (f : Flight) (s : State), (m.length = 16) ∧ (byteAt m 0 = 4) ∧ (peerUp s (.line q) = true) ∧
        (1 ≤ byteAt m 1) ∧ (byteAt m 1 ≤ 7) ∧ (s.sys.trailer = false) ∧ (byteAt m 2 = 2) ∧ (s.upd.push = some x) ∧
        (x.open_ = [.line (Fin.ofNat 8 (byteAt m 1))]) ∧ (x.refused = 0) ∧ (x.silent = []) ∧ (s.upd.schedOp = none) ∧
        (getFlight s x.op = some f) ∧ (f.fate = none)) ∧
    (∃ (q : Fin 8) (m : Bytes) (r : Nat) (n : Nat) (f : Flight) (s : State), (m.length = 16) ∧ (byteAt m 0 = 4) ∧
        (peerUp s (.line q) = true) ∧ (1 ≤ byteAt m 1) ∧ (byteAt m 1 ≤ 7) ∧ (s.sys.trailer = false) ∧ (byteAt m 2 = 3) ∧
        (s.upd.push = none) ∧ (s.upd.schedOp = some (r, [byteAt m 1], n)) ∧ (getFlight s r = some f) ∧ (f.fate = none)) ∧
    (∃ (src : UpdPeer) (m : Bytes) (b : Bool) (s : State), (m.length = 32) ∧ (byteAt m 0 = 5) ∧ (peerUp s src = true) ∧
        (s.sys.ready = true) ∧
        ([false, true].find? (fun b => (getSlot s b).headId == beAt m 4 8 && ((getSlot s b).st == .staged || (getSlot s b).st == .scheduled)) = some b)) ∧
    (∃ (src : UpdPeer) (m : Bytes) (b : Bool) (x : Schedule) (s : State), (m.length = 12) ∧ (byteAt m 0 = 6) ∧ (peerUp s src = true) ∧
        (scheduledSlot s = some b) ∧ ((getSlot s b).headId = beAt m 4 8) ∧ (s.upd.sched = some x) ∧ (x.by_ = none)) ∧
    (∃ (x : Recv) (t0 : Nat) (s : State), (s.upd.recv = some x) ∧ (x.lastPiece = some t0)) ∧
    (∃ (x : Recv) (s : State), (s.upd.recv = some x) ∧ (s.upd.sends = [])) ∧
    (∃ (x : Send) (s : State), (s.upd.recv = none) ∧ (s.upd.sends = [x])) ∧
    (∃ (x : Schedule) (b : Bool) (s : State), (s.upd.sched = some x) ∧ (scheduledSlot s = some b) ∧ (x.by_.isSome = true) ∧
        (s.sys.ready = true) ∧ (s.pwr.mode = .cab ∨ s.pwr.mode = .drive) ∧
        (∀ e, deadline s = some e → monoUs s < e ∧ x.sentAt + 60000000 < e)) :=
  ⟨⟨1, 0x112233445566, offerM 99, up, by decide +kernel⟩,
   ⟨0x112233445566, offerM 99, inHearth, by decide +kernel, by decide +kernel, hearth_eth, by decide +kernel⟩,
   ⟨1, 0x112233445566, offerM 99, staged .staged, holding .staged id, by decide +kernel⟩,
   ⟨1, 0x112233445566, [2, 0, 0, 0] ++ be 8 99 ++ be 28 2, send1, holding .staged (fun u => { u with sends := [send1] }), by decide +kernel⟩,
   ⟨tool, [3, 0, 0, 0, 63, 0, 0, 0] ++ zeros 1024, { recv1 with headOk := false }, _,
    holding .staging (fun u => { u with recv := some { recv1 with headOk := false } }),
    also3 (by decide +kernel) (also3 (by decide +kernel) ⟨iff_of_true (by decide +kernel) (by decide +kernel),
    by decide +kernel, rfl, by decide +kernel⟩)⟩,
   ⟨tool, [3, 0, 0, 1, 0, 0, 0, 0] ++ zeros 1024, _, true, recv1, _,
    { up with upd := { up.upd with recv := some recv1, b := { st := .staging, headId := 99, blocks := [(0, imgHead)] } } },
    also4 (by decide +kernel) (also3 (by decide +kernel) (also3 (by decide +kernel) ⟨rfl, by decide +kernel, rfl, by decide +kernel⟩))⟩,
   ⟨1, heard 1, _, holding .staged id chained, also3 (by decide +kernel) (also3 (by decide +kernel) rfl)⟩,
   ⟨1, heard 2, push1, waiting, Sys2Proof.Tests.op waiting (holding .staged (fun u => { u with push := some push1 }) chained),
    by decide +kernel⟩,
   ⟨1, heard 3, 0, 1, waiting, Sys2Proof.Tests.op waiting (holding .scheduled (fun u => { u with schedOp := some (0, [1], 1) }) chained),
    by decide +kernel⟩,
   ⟨tool, [5, 0, 0, 0] ++ be 8 99 ++ be 8 2000 ++ be 8 5000 ++ be 2 24 ++ zeros 2, true, holding .staged id, by decide +kernel⟩,
   ⟨tool, [6, 0, 0, 0] ++ be 8 99, true, { sched1 with by_ := none },
    holding .scheduled (fun u => { u with sched := some { sched1 with by_ := none } }), by decide +kernel⟩,
   ⟨recv1, 999999000, holding .staging (fun u => { u with recv := some recv1 }), by decide +kernel⟩,
   ⟨recv1, holding .staging (fun u => { u with recv := some recv1 }), by decide +kernel⟩,
   ⟨send1, holding .staging (fun u => { u with sends := [send1] }), by decide +kernel⟩,
   ⟨sched1, true, scheduling, by decide +kernel, by decide +kernel, by decide +kernel, by decide +kernel, by decide +kernel,
    fun e he => by cases (show deadline scheduling = some 2000000000 by decide +kernel).symm.trans he; decide +kernel⟩⟩

end Trans

/-! ### ActivationAndTrial -/

namespace Activ

def staged (st : SlotSt) : Slot := { st := st, ver := 7, headId := 99, blocks := [(0, imgHead), (1, [0])] }
def holding (st : SlotSt) (f : Upd → Upd) (s : State := up) : State := { s with upd := f { s.upd with b := staged st } }
def sched1 : Schedule := { windowH := 1, by_ := some (0, 0), due := 1000000500, sentAt := 990000000 }
def due (s : State := up) : State := holding .scheduled (fun u => { u with sched := some sched1 }) s
/-- The window ended before now. -/
def lapsedNow : State := holding .scheduled (fun u => { u with sched := some { sched1 with windowH := 0, due := 999999500 } })

/-- States and operands that meet the hypotheses of each clause of ActivationAndTrial. -/
theorem witness :
    (∃ (b : Bool) (e : Nat) (s : State), (scheduledSlot s = some b) ∧ (deadline s = some e) ∧ (mayActivate s = true) ∧
        (s.pwr.mode = .cab) ∧ (monoUs s ≤ windowEnd s e) ∧ (schedulerHolds s = true) ∧ (commitCheck s (slotHead (getSlot s b)) = none) ∧
        (canLog (.other 552 (ofBool b)) s = true)) ∧
    (∃ (b : Bool) (e : Nat) (s : State), (scheduledSlot s = some b) ∧ (deadline s = some e) ∧ (mayActivate s = true) ∧
        (s.pwr.mode = .parked) ∧ (s.pwr.slice ≠ none) ∧ (sliceUp s = true) ∧ (monoUs s ≤ windowEnd s e) ∧ (schedulerHolds s = true) ∧
        (commitCheck s (slotHead (getSlot s b)) = none) ∧ (canLog (.other 552 (ofBool b)) s = true)) ∧
    (∃ (b : Bool) (e : Nat) (s : State), (scheduledSlot s = some b) ∧ (deadline s = some e) ∧ (mayActivate s = true) ∧
        (windowEnd s e < monoUs s)) ∧
    (∃ (b : Bool) (e : Nat) (s : State), (scheduledSlot s = some b) ∧ (deadline s = some e) ∧ (mayActivate s = false)) ∧
    (∃ (b : Bool) (t0 : Nat) (s : State), (s.upd.handover = .loading t0) ∧ (trialSlot s = some b) ∧ (monoUs s ≤ t0 + 2000000) ∧
        (s.pwr.aOut = false) ∧ (s.pwr.bOut = false) ∧ (s.pwr.selfTest = none)) ∧
    (∃ (b : Bool) (t0 : Nat) (s : State), (s.upd.handover = .loading t0) ∧ (trialSlot s = some b)) ∧
    (∃ (t0 : Nat) (s : State), (s.upd.handover = .hold t0)) ∧
    (∃ (b : Bool) (t0 : Nat) (s : State), (s.upd.trialSince = some t0) ∧ (trialSlot s = some b) ∧ (s.sys.ready = true) ∧
        (s.pwr.mode = .cab ∨ s.pwr.mode = .drive) ∧ (canLog (.other 556 0) s = true)) :=
  ⟨⟨true, 1000000500, due, by decide +kernel⟩,
   ⟨true, 1000000500, due (parked up), by decide +kernel⟩,
   ⟨true, 999999500, lapsedNow, by decide +kernel⟩,
   ⟨true, 1000000500, due { up with pwr := { up.pwr with mode := .drive } }, by decide +kernel⟩,
   ⟨true, 999000000, holding .trial (fun u => { u with handover := .loading 999000000 }), by decide +kernel⟩,
   ⟨true, 999000000, holding .trial (fun u => { u with handover := .loading 999000000 }), by decide +kernel⟩,
   ⟨999000000, holding .trial (fun u => { u with handover := .hold 999000000 }), by decide +kernel⟩,
   ⟨true, 700000000, holding .trial (fun u => { u with trialSince := some 700000000 }), by decide +kernel⟩⟩

end Activ

/-! ### HearthDownloads -/

namespace Hearth

def hearthed (f : Hearth → Hearth) (s : State := up) : State :=
  { s with pwr := { s.pwr with mode := .hearth }, sys := { s.sys with ready := false }, upd := { s.upd with hearth := f s.upd.hearth } }
/-- A download by CAN of 100 bytes, of which 70 have come. -/
def canLoad (t : Nat) : State :=
  hearthed (fun h => { h with st := 1, used := 1, total := 100, got := zeros 70, canAt := t }) inHearth
theorem can_serves : (inHearth.pwr.mode == .hearth && (boardOk allFitted && bit (fittedMap allFitted pCan) 0) && clockServes inHearth pCan &&
    railServes inHearth pCan) = true := by decide +kernel
theorem can_of {f : Hearth → Hearth} : hearthPort (hearthed f inHearth) pCan 0 = true :=
  hearthPort_of rfl rfl rfl rfl rfl can_serves
def tool64 (op : BitVec 8) (n : Nat) (body : Bytes) : Bytes := [op] ++ be 3 n ++ body ++ zeros (60 - body.length)
/-- A download whose bytes are the image of `imgHead`. -/
def judged : State :=
  let t := signed (hearthed (fun h => { h with st := 2, used := 0, slotB := true, total := 65537 }))
  { t with upd := { t.upd with b := { st := .staging, blocks := [(0, imgHead), (1, [0])] } } }
theorem hearthJudge_of {s : State} {x : Bytes} (h0 : slotHead (getSlot s s.upd.hearth.slotB) = x)
    (h1 : ¬ ((s.upd.hearth.used = 0 ∨ s.upd.hearth.used = 1) ∧ s.upd.hearth.total ≠ 65536 + hPayload x)) (h2 : headCheck s x = none)
    (h3 : (imageKey s x).isSome = true) (h4 : payloadOk (getSlot s s.upd.hearth.slotB) = true) : hearthJudge s .ok = none := by
  subst h0
  have h5 : ¬ (imageKey s (slotHead (getSlot s s.upd.hearth.slotB))).isNone = true := by
    cases hk : imageKey s (slotHead (getSlot s s.upd.hearth.slotB)) <;> simp_all
  unfold hearthJudge
  refine (if_neg h1).trans ?_
  rw [h2]
  exact (if_neg h5).trans (if_pos h4)
theorem judged_passes : hearthJudge judged .ok = none :=
  hearthJudge_of (x := imgHead) rfl (by decide +kernel) (headCheck_of ((bootCheck_congr (s := judged) (t := signed up) rfl rfl).trans img_boot) rfl)
    ((congrArg Option.isSome (imageKey_congr (s := judged) (t := signed up) rfl)).trans img_key) (by decide +kernel)

/-- States and operands that meet the hypotheses of each clause of HearthDownloads. -/
theorem witness :
    (∃ (func : Fin 64) (v : BitVec 32) (d : Bytes) (data : Bytes) (s : State), (hearthRegs s func.val = true) ∧ (v.getLsbD 0 = true) ∧
        (hearthBusy s = false) ∧ (s.upd.hearth.src.toNat % 4096 = 0) ∧ (s.upd.recv = none) ∧ (data = slice d 0 s.upd.hearth.len.toNat)) ∧
    (∃ (func : Fin 64) (v : BitVec 32) (s : State), (hearthRegs s func.val = true) ∧ (v.getLsbD 0 = true) ∧ (hearthBusy s = false) ∧
        (s.upd.hearth.src.toNat % 4096 = 0) ∧ (s.upd.recv = none)) ∧
    (∃ (func : Fin 64) (v : BitVec 32) (b : Bool) (s : State), (hearthRegs s func.val = true) ∧ (v.getLsbD 1 = true) ∧
        (hearthBusy s = false) ∧ (s.upd.recv = none) ∧ (standbySlot s = some b)) ∧
    (∃ (ident : BitVec 32) (m : Bytes) (s : State), (hearthPort s pCan 0 = true) ∧ (ident.toNat = toolId) ∧ (m.length = 64) ∧
        (byteAt m 0 = 1) ∧ (hearthBusy s = false) ∧ (s.upd.recv = none)) ∧
    (∃ (ident : BitVec 32) (m : Bytes) (got : Bytes) (s : State), (hearthPort s pCan 0 = true) ∧ (ident.toNat = toolId) ∧ (m.length = 64) ∧
        (byteAt m 0 = 2) ∧ (canLoading s = true) ∧ (60 * beAt m 1 3 ≤ s.upd.hearth.got.length) ∧
        (got = (s.upd.hearth.got.take (60 * beAt m 1 3) ++ slice m 4 60 ++ s.upd.hearth.got.drop (60 * beAt m 1 3 + 60)).take s.upd.hearth.total)) ∧
    (∃ (ident : BitVec 32) (m : Bytes) (s : State), (hearthPort s pCan 0 = true) ∧ (ident.toNat = toolId) ∧ (m.length = 64) ∧
        (byteAt m 0 = 3) ∧ (canLoading s = true) ∧ (s.upd.hearth.got.length ≠ s.upd.hearth.total)) ∧
    (∃ (s : State), (hearthPort s pCan 0 = true) ∧ (s.upd.hearth.used = 1) ∧ (s.upd.hearth.st ≠ 0)) ∧
    (∃ (fl : FlashResult) (d : Nat) (s : State), (s.pwr.mode = .hearth) ∧ (s.upd.hearth.st = 2) ∧ (hearthJudge s fl = some d)) ∧
    (∃ (s : State), (s.pwr.mode = .hearth) ∧ (s.upd.hearth.st = 2) ∧ (hearthJudge s .ok = none)) :=
  ⟨⟨0, 1, imgData, _, hearthed (fun h => { h with len := 65537 }), by decide +kernel, by decide +kernel, by decide +kernel, by decide +kernel,
    by decide +kernel, rfl⟩,
   ⟨0, 3, hearthed (fun h => { h with len := 65537 }), by decide +kernel⟩,
   ⟨0, 2, true, let t := hearthed id; { t with upd := { t.upd with b := { st := .standby } } }, by decide +kernel⟩,
   ⟨0x9CEF3200, tool64 1 0 (be 4 65537), hearthed id inHearth, can_of, by decide +kernel⟩,
   ⟨0x9CEF3200, tool64 2 1 (be 4 65537), _, canLoad 0, can_of, by decide +kernel, by decide +kernel, by decide +kernel, by decide +kernel,
    by decide +kernel, rfl⟩,
   ⟨0x9CEF3200, tool64 3 0 [], canLoad 0, can_of, by decide +kernel⟩,
   ⟨canLoad 999950000, can_of, by decide +kernel⟩,
   ⟨.failed 0, 0x2B, judged, by decide +kernel⟩,
   ⟨judged, by decide +kernel, by decide +kernel, judged_passes⟩⟩

end Hearth

end Sys2Proof.Tests
end

/-! A cause of STOPPED and an enable, as they act on the table of rings, and the two statements about them (R106, R130). -/

namespace Sys2Proof.Machine

variable {s : State}

/-! ### A cause of STOPPED -/

/-- The sluice is two parts of a frame: what its tenancies run, and the rest. -/
theorem Frame.slc_eq {ps : List Part} {t : State} (h : Frame ps s t) (hrun : ps.contains .run = false)
    (hslc : ps.contains .slc = false) : t.slc = s.slc := by
  have hrest : { t.slc with run := [] } = { s.slc with run := [] } := h.part .slc hslc
  calc t.slc = { t.slc with run := s.slc.run } := by rw [← h.run hrun]
    _ = s.slc := congrArg (fun b : Slc => { b with run := s.slc.run }) hrest

/-- A message to the host, or its pending bit, leaves every ring as it was. -/
@[simp] theorem getRing_sendMsix (func vec g : Nat) : getRing (sendMsix func vec s) g = getRing s g :=
  getRing_of_host ((sendMsix_frame (Frame.refl [.vecs, .outs] s) (within_refl _) func vec).rings rfl) g

/-- A RUNNING ring after a cause of STOPPED: it takes the error code and keeps its indices and its highest accepted SEQ. -/
theorem getRing_stopRing_of_running {g : Nat} (h : (getRing s g).st = .running) (err : BitVec 8) :
    getRing (stopRing g err s) g = wbMark (monoUs s) { getRing s g with
      err := err, mute := (getRing s g).mute || (err == 0x04 || err == 0x05), st := .stopped, peek := none,
      ledSt := if (getRing s g).ledSt = .running then .stopped else (getRing s g).ledSt } := by
  simp [stopRing, h]

/-- What `stopRing` may touch. -/
theorem stopRing_frame_of (g : Nat) (err : BitVec 8) : Frame [.vecs, .rings, .outs] s (stopRing g err s) :=
  stopRing_frame (Frame.refl _ _) (within_refl _) g err

@[simp] theorem stopRing_flights (g : Nat) (err : BitVec 8) : (stopRing g err s).host.flights = s.host.flights :=
  (stopRing_frame_of g err).flights rfl

@[simp] theorem stopRing_slc (g : Nat) (err : BitVec 8) : (stopRing g err s).slc = s.slc :=
  (stopRing_frame_of g err).slc_eq rfl rfl

@[simp] theorem stopRing_led (g : Nat) (err : BitVec 8) : (stopRing g err s).led = s.led :=
  (stopRing_frame_of g err).led rfl

/-- A read of a Headrace slot is outstanding on a RUNNING ring of a released part, and it fails (R130). -/
theorem exec_descriptorReadFailed {g : Fin 4096} (hr : released s = true) (hst : (getRing s g).st = .running)
    (hpi : (getRing s g).hrPi ≠ (getRing s g).hrCi) : exec (.descriptorReadFailed g) s = .next (stopRing g 0x03 s) := by
  show execDescriptorReadFailed g s = _
  simp [execDescriptorReadFailed, hr, hst, hpi]

/-- Settles O54: `stopRing` writes neither the ring's indices nor its highest accepted SEQ, and its frame holds everything an acceptance
would change; `enabledRing` keeps that SEQ. -/
theorem failedHeadraceRead : Obligations.FailedHeadraceRead := by
  intro g s hr hst hpi
  have hring := getRing_stopRing_of_running hst 0x03
  refine ⟨_, exec_descriptorReadFailed hr hst hpi, ?_, ?_, ?_, ?_, ?_, stopRing_flights .., stopRing_slc ..,
    stopRing_led .., fun _ _ _ => ?_⟩ <;> rw [hring] <;> rfl

/-! ### An enable -/

/-- A ledger record leaves every ring as it was. -/
@[simp] theorem getRing_logRec (k : LKind) (g : Nat) : getRing (logRec k s) g = getRing s g := rfl

/-- `recordRing` acts on its ring as `f` does, but for the three fields that show what the ledger holds: only with room in the log is
the set-up recorded `f`'s own (R132, R138). -/
theorem getRing_recordRing_same (g : Nat) (f : Ring → Ring) : ∃ u i st,
    getRing (recordRing g f s) g = { f (getRing s g) with recorded := u, trCiRec := i, ledSt := st } ∧
    (canLog (.ringSet g) s = true → u = (f (getRing s g)).recorded) := by
  unfold recordRing
  split
  case isTrue hlog => exact ⟨_, _, _, by rw [getRing_logRec, getRing_modRing, if_pos rfl], fun _ => rfl⟩
  case isFalse hlog => exact ⟨_, _, _, by rw [getRing_modRing, if_pos rfl], fun h => absurd h hlog⟩

theorem getRing_recordRing_of_ne {g h : Nat} (hne : h ≠ g) (f : Ring → Ring) : getRing (recordRing g f s) h = getRing s h := by
  unfold recordRing
  split <;> simp [hne]

/-- A write of 1 to HOST_RING_ENABLE on a DISABLED ring whose set-up passes the checks (R145). -/
theorem exec_ringEnable_of_passed {func : Fin 64} {g : Nat} (hsel : selectedRing s func = some g) (hr : released s = true)
    (hst : (getRing s g).st = .disabled) (he : enableError s func (getFunc s func).selTen.toNat (getRing s g).setup = 0) :
    exec (.ringEnable func) s = .next (recordRing g (enabledRing func (getFunc s func).selTen.toNat (monoUs s)) s) := by
  show execRingEnable func s = _
  simp [execRingEnable, hsel, hr, hst, he]

/-- Settles O55: an enable sets every field as `enabledRing` does, whether the ledger has room for its record or not. -/
theorem enabledRingStartsAtZero : Obligations.EnabledRingStartsAtZero := by
  intro func g s hsel hr hst he
  obtain ⟨u, i, st, hring, hu⟩ := getRing_recordRing_same (s := s) g (enabledRing func (getFunc s func).selTen.toNat (monoUs s))
  refine ⟨_, exec_ringEnable_of_passed hsel hr hst he, ?_, ?_, ?_, ?_, ?_, ?_, ?_, ?_, ?_, fun hlog => ?_,
    fun g' hne => getRing_recordRing_of_ne hne _⟩ <;> rw [hring]
  case refine_10 => exact hu hlog
  all_goals rfl

end Sys2Proof.Machine

/-! The engine found running while the latch is LOCKED or ARMED, and the statement about it (R306). -/

namespace Sys2Proof.Machine

variable {s t : State}

/-! ### What the latch reads, an event bit and a record -/

/-- The latch reads its code and the complement, and nothing else (R332). -/
theorem latch_congr (hcode : t.slk.code = s.slk.code) (hcomp : t.slk.comp = s.slk.comp) : latch t = latch s := by
  simp only [latch, hcode, hcomp]

@[simp] theorem slkEvent_slk (i : Nat) : (slkEvent i s).slk = { s.slk with events := setBits s.slk.events i } := rfl

@[simp] theorem slkEvent_led (i : Nat) : (slkEvent i s).led = s.led := rfl

@[simp] theorem logPart_slk (p : PartRec) : (logPart p s).slk = s.slk := by
  simp only [logPart, tryLog]
  split
  · exact logRec_slk s _
  · rfl

/-- A part record for which the log has room is written. -/
theorem logPart_of_canLog {p : PartRec} (h : canLog (.part (stampPart p s)) s = true) :
    logPart p s = logRec (.part (stampPart p s)) s := if_pos h

/-- A record written stands last in the log, under the next LSN. -/
theorem getLast?_log_logRec (k : LKind) :
    (logRec k s).led.log.getLast? = some { lsn := s.led.lsn + 1, kind := k, units := recUnits k } :=
  List.getLast?_concat

/-! ### The record of an engine run without a release -/

theorem noRelease_of_done (h : s.slk.noReleaseDone = true) : noRelease s = s := if_pos h

/-- The first time in an engine run, the START-LOCK block changes in the mark of the run and in its events, of which
SLK_NO_RELEASE_RUN is set, whether SLK_LATE_START is set with it or not (R313). -/
theorem noRelease_slk_of_not_done (h : s.slk.noReleaseDone = false) :
    ∃ e, (noRelease s).slk = { s.slk with noReleaseDone := true, events := e } ∧ e.getLsbD 2 = true := by
  simp only [noRelease, h, Bool.false_eq_true, if_false, onlyIf]
  split
  case isTrue late => exact ⟨setBits (setBits s.slk.events 2) 7, by simp, by simp [setBits_getLsbD]⟩
  case isFalse notLate => exact ⟨setBits s.slk.events 2, by simp, by simp [setBits_getLsbD]⟩

/-- The first time in an engine run, the ledger changes as by the record marked ENGINE_NO_RELEASE. -/
theorem noRelease_led_of_not_done (h : s.slk.noReleaseDone = false) :
    (noRelease s).led = (logPart { kind := 0x04, tid := s.slk.bound } s).led := by
  simp only [noRelease, h, Bool.false_eq_true, if_false, onlyIf]
  split <;> rfl

/-- No engine run without a release moves the latch. -/
theorem noRelease_code_comp (s : State) : (noRelease s).slk.code = s.slk.code ∧ (noRelease s).slk.comp = s.slk.comp := by
  cases h : s.slk.noReleaseDone
  case true => simp only [noRelease_of_done h, and_self]
  case false =>
    obtain ⟨e, hslk, -⟩ := noRelease_slk_of_not_done h
    simp only [hslk, and_self]

/-- Outside Hearth mode, once the latch has been reconciled, an engine found running in LOCKED or ARMED leads to `noRelease` alone. -/
theorem engineChange_of_no_release (hm : s.pwr.mode ≠ .hearth) (hr : s.slk.reconciled = true)
    (he : engineRunning s = true) (hl : latch s = .locked ∨ latch s = .armed) : engineChange s = noRelease s := by
  obtain hl | hl := hl <;> simp [engineChange, hm, hr, he, hl]

/-- Settles O52: in LOCKED and in ARMED `engineChange` is `noRelease`, which keeps the latch's code, writes its record and sets its
event once, and once marked as done in this engine run does nothing. -/
theorem engineRunsWithoutRelease : Obligations.EngineRunsWithoutRelease := by
  refine ⟨fun s hm hr he hl => ?_, fun s hm hr he hl hnew hlog => ?_, fun s hm hr he hl hdone => ?_⟩ <;>
    rw [engineChange_of_no_release hm hr he hl]
  · obtain ⟨hcode, hcomp⟩ := noRelease_code_comp s
    exact ⟨latch_congr hcode hcomp, hcode⟩
  · obtain ⟨e, hslk, hevent⟩ := noRelease_slk_of_not_done hnew
    rw [noRelease_led_of_not_done hnew, logPart_of_canLog hlog, hslk]
    exact ⟨rfl, hevent, _, getLast?_log_logRec _, rfl, rfl⟩
  · exact noRelease_of_done hdone

end Sys2Proof.Machine

/-! Which operations leave the update engine's block as it is. -/

namespace Sys2Proof.Machine

variable {s : State}

/-! ### Time, the ledger, faults and rails -/

@[simp] theorem elapseNs_upd (n) : (elapseNs n s).upd = s.upd := (elapseNs_frame (.refl _ s) (within_refl _) n).upd rfl
@[simp] theorem fromRtc_upd : (fromRtc s).upd = s.upd := (fromRtc_frame (.refl _ s) (within_refl _)).upd rfl
@[simp] theorem tryLog_upd (k) : (tryLog k s).upd = s.upd := (tryLog_frame (.refl _ s) (within_refl _) k).upd rfl
@[simp] theorem logPart_upd (p) : (logPart p s).upd = s.upd := (logPart_frame (.refl _ s) (within_refl _) p).upd rfl
@[simp] theorem noteV_upd : (noteV s).upd = s.upd := (noteV_frame (.refl _ s) (within_refl _)).upd rfl
@[simp] theorem settle_upd (r fr) : (settle r fr s).upd = s.upd := (settle_frame (.refl _ s) (within_refl _) r fr).upd rfl
@[simp] theorem elapseTo_upd (t) : (elapseTo t s).upd = s.upd := (elapseTo_frame (.refl _ s) (within_refl _) t).upd rfl
@[simp] theorem cntRateChange_upd : (cntRateChange s).upd = s.upd := (cntRateChange_frame (.refl _ s) (within_refl _)).upd rfl
@[simp] theorem fault_upd (ty ix code sev action detail arg) : (fault ty ix code sev action detail arg s).upd = s.upd :=
  (fault_frame (.refl _ s) (within_refl _) ty ix code sev action detail arg).upd rfl
@[simp] theorem changeUnit_upd (kind ix u code sev action detail arg) : (changeUnit kind ix u code sev action detail arg s).upd = s.upd :=
  (changeUnit_frame (.refl _ s) (within_refl _) kind ix u code sev action detail arg).upd rfl
@[simp] theorem uartLine_upd (n) : (uartLine n s).upd = s.upd := (uartLine_frame (.refl _ s) (within_refl _) n).upd rfl
@[simp] theorem lowerEnable_upd (g) : (lowerEnable g s).upd = s.upd := (lowerEnable_frame (.refl _ s) (within_refl _) g).upd rfl
@[simp] theorem lowerFrom_upd (g) : (lowerFrom g s).upd = s.upd := (lowerFrom_frame (.refl _ s) (within_refl _) g).upd rfl
@[simp] theorem gather_upd : (gather s).upd = s.upd := (gather_frame (.refl _ s) (within_refl _)).upd rfl
@[simp] theorem drew_upd (q n) : (drew q n s).upd = s.upd := (drew_frame (.refl _ s) (within_refl _) q n).upd rfl
@[simp] theorem propWatch_upd (p) : (propWatch p s).upd = s.upd := (propWatch_frame (.refl _ s) (within_refl _) p).upd rfl

/-! ### Rings, the start lock, power modes and random sources -/

@[simp] theorem heldDoorbells_upd : (heldDoorbells s).upd = s.upd := (heldDoorbells_frame (.refl _ s) (within_refl _)).upd rfl
@[simp] theorem trainLink_upd : (trainLink s).upd = s.upd := (trainLink_frame (.refl _ s) (within_refl _)).upd rfl
@[simp] theorem linkDown_upd : (linkDown s).upd = s.upd := (linkDown_frame (.refl _ s) (within_refl _)).upd rfl
@[simp] theorem keyEvent_upd (i) : (keyEvent i s).upd = s.upd := (keyEvent_frame (.refl _ s) (within_refl _) i).upd rfl
@[simp] theorem pkeRan_upd (code) : (pkeRan code s).upd = s.upd := (pkeRan_frame (.refl _ s) (within_refl _) code).upd rfl
@[simp] theorem sendState_upd : (sendState s).upd = s.upd := (sendState_frame (.refl _ s) (within_refl _)).upd rfl
@[simp] theorem flagsCheck_upd : (flagsCheck s).upd = s.upd := (flagsCheck_frame (.refl _ s) (within_refl _)).upd rfl
@[simp] theorem drivePins_upd : (drivePins s).upd = s.upd := (drivePins_frame (.refl _ s) (within_refl _)).upd rfl
@[simp] theorem lockWatch_upd : (lockWatch s).upd = s.upd := (lockWatch_frame (.refl _ s) (within_refl _)).upd rfl
@[simp] theorem abandonParking_upd : (abandonParking s).upd = s.upd := (abandonParking_frame (.refl _ s) (within_refl _)).upd rfl
@[simp] theorem lowBatteryAnew_upd : (lowBatteryAnew s).upd = s.upd := (lowBatteryAnew_frame (.refl _ s) (within_refl _)).upd rfl
@[simp] theorem modeWatch_upd : (modeWatch s).upd = s.upd := (modeWatch_frame (.refl _ s) (within_refl _)).upd rfl
@[simp] theorem enterService_upd (t) : (enterService t s).upd = s.upd := (enterService_frame (.refl _ s) (within_refl _) t).upd rfl
@[simp] theorem modSource_upd (i f) : (modSource i f s).upd = s.upd := (modSource_frame (.refl _ s) (within_refl _) i f).upd rfl
@[simp] theorem rngEvent_upd (i) : (rngEvent i s).upd = s.upd := (rngEvent_frame (.refl _ s) (within_refl _) i).upd rfl
@[simp] theorem judgeRng_upd : (judgeRng s).upd = s.upd := (judgeRng_frame (.refl _ s) (within_refl _)).upd rfl

/-! ### The custody store -/

@[simp] theorem cusEvent_upd (i) : (cusEvent i s).upd = s.upd := (cusEvent_frame (.refl _ s) (within_refl _) i).upd rfl
@[simp] theorem cancelAppend_upd (op) : (cancelAppend op s).upd = s.upd := (cancelAppend_frame (.refl _ s) (within_refl _) op).upd rfl

/-! ### The Ifeven line and the credential directory -/

@[simp] theorem modPort_upd (p f) : (modPort p f s).upd = s.upd := (modPort_frame (.refl _ s) (within_refl _) p f).upd rfl
@[simp] theorem linkEvent_upd (i) : (linkEvent i s).upd = s.upd := (linkEvent_frame (.refl _ s) (within_refl _) i).upd rfl
@[simp] theorem sendPlain_upd (p f dst cpl flood) : (sendPlain p f dst cpl flood s).upd = s.upd :=
  (sendPlain_frame (.refl _ s) (within_refl _) p f dst cpl flood).upd rfl
@[simp] theorem sendSeq_upd (p t) : (sendSeq p t s).upd = s.upd := (sendSeq_frame (.refl _ s) (within_refl _) p t).upd rfl
@[simp] theorem pump_upd (p) : (pump p s).upd = s.upd := (pump_frame (.refl _ s) (within_refl _) p).upd rfl
@[simp] theorem modNode_upd (pos f) : (modNode pos f s).upd = s.upd := (modNode_frame (.refl _ s) (within_refl _) pos f).upd rfl
@[simp] theorem sendTo_upd (pos ltype body op) : (sendTo pos ltype body op s).upd = s.upd :=
  (sendTo_frame (.refl _ s) (within_refl _) pos ltype body op).upd rfl
@[simp] theorem sendData_upd (pos svc ten payload op) : (sendData pos svc ten payload op s).upd = s.upd :=
  (sendData_frame (.refl _ s) (within_refl _) pos svc ten payload op).upd rfl
@[simp] theorem deltaCopied_upd : (deltaCopied s).upd = s.upd := (deltaCopied_frame (.refl _ s) (within_refl _)).upd rfl
@[simp] theorem startRebuild_upd : (startRebuild s).upd = s.upd := (startRebuild_frame (.refl _ s) (within_refl _)).upd rfl
@[simp] theorem modLane_upd (l f) : (modLane l f s).upd = s.upd := (modLane_frame (.refl _ s) (within_refl _) l f).upd rfl

/-! ### Cipher lanes, token polling, sounding and the readers -/

@[simp] theorem uhfEvent_upd (i) : (uhfEvent i s).upd = s.upd := (uhfEvent_frame (.refl _ s) (within_refl _) i).upd rfl
@[simp] theorem driveReq_upd (v) : (driveReq v s).upd = s.upd := (driveReq_frame (.refl _ s) (within_refl _) v).upd rfl
@[simp] theorem drivePri_upd (v) : (drivePri v s).upd = s.upd := (drivePri_frame (.refl _ s) (within_refl _) v).upd rfl
@[simp] theorem useSlice_upd : (useSlice s).upd = s.upd := (useSlice_frame (.refl _ s) (within_refl _)).upd rfl
@[simp] theorem endLocate_upd (r fr) : (endLocate r fr s).upd = s.upd := (endLocate_frame (.refl _ s) (within_refl _) r fr).upd rfl
@[simp] theorem restartPoll_upd : (restartPoll s).upd = s.upd := (restartPoll_frame (.refl _ s) (within_refl _)).upd rfl
@[simp] theorem passiveEnds_upd : (passiveEnds s).upd = s.upd := (passiveEnds_frame (.refl _ s) (within_refl _)).upd rfl
@[simp] theorem lfCut_upd : (lfCut s).upd = s.upd := (lfCut_frame (.refl _ s) (within_refl _)).upd rfl
@[simp] theorem chainsGone_upd : (chainsGone s).upd = s.upd := (chainsGone_frame (.refl _ s) (within_refl _)).upd rfl
@[simp] theorem telegramLost_upd (ch p) : (telegramLost ch p s).upd = s.upd :=
  (telegramLost_frame (.refl _ s) (within_refl _) ch p).upd rfl
@[simp] theorem chainOut_upd : (chainOut s).upd = s.upd := (chainOut_frame (.refl _ s) (within_refl _)).upd rfl
@[simp] theorem nfcEvent_upd (i) : (nfcEvent i s).upd = s.upd := (nfcEvent_frame (.refl _ s) (within_refl _) i).upd rfl
@[simp] theorem readersOff_upd : (readersOff s).upd = s.upd := (readersOff_frame (.refl _ s) (within_refl _)).upd rfl
@[simp] theorem endLost_upd (x fr partialDetail) : (endLost x fr partialDetail s).upd = s.upd :=
  (endLost_frame (.refl _ s) (within_refl _) x fr partialDetail).upd rfl
@[simp] theorem unitLost_upd (unit) : (unitLost unit s).upd = s.upd := (unitLost_frame (.refl _ s) (within_refl _) unit).upd rfl
@[simp] theorem readerLost_upd (k) : (readerLost k s).upd = s.upd := (readerLost_frame (.refl _ s) (within_refl _) k).upd rfl
@[simp] theorem wakeLane_upd : (wakeLane s).upd = s.upd := (wakeLane_frame (.refl _ s) (within_refl _)).upd rfl

/-! ### Writs, messages and the line's links -/

@[simp] theorem installSetup_upd (st) : (installSetup st s).upd = s.upd := (installSetup_frame (.refl _ s) (within_refl _) st).upd rfl
@[simp] theorem writSigned_upd (w l) : (writSigned w l s).2.upd = s.upd := (writSigned_frame (.refl _ s) (within_refl _) w l).upd rfl
@[simp] theorem writFail_upd (r fr) : (writFail r fr s).upd = s.upd := (writFail_frame (.refl _ s) (within_refl _) r fr).upd rfl
@[simp] theorem sendMsg_upd (dst m) : (sendMsg dst m s).upd = s.upd := (sendMsg_frame (.refl _ s) (within_refl _) dst m).upd rfl
@[simp] theorem answer_upd (dst code detail headId) : (answer dst code detail headId s).upd = s.upd :=
  (answer_frame (.refl _ s) (within_refl _) dst code detail headId).upd rfl
@[simp] theorem sendSched_upd (pos) : (sendSched pos s).upd = s.upd := (sendSched_frame (.refl _ s) (within_refl _) pos).upd rfl
@[simp] theorem endRelay_upd (x detail none_ some_) : (endRelay x detail none_ some_ s).upd = s.upd :=
  (endRelay_frame (.refl _ s) (within_refl _) x detail none_ some_).upd rfl
@[simp] theorem endRelays_upd (ps detail) : (endRelays ps detail s).upd = s.upd :=
  (endRelays_frame (.refl _ s) (within_refl _) ps detail).upd rfl
@[simp] theorem onwardLost_upd (frames) : (onwardLost frames s).upd = s.upd :=
  (onwardLost_frame (.refl _ s) (within_refl _) frames).upd rfl
@[simp] theorem portAdrift_upd (p) : (portAdrift p s).upd = s.upd := (portAdrift_frame (.refl _ s) (within_refl _) p).upd rfl
@[simp] theorem takeDet_upd (p v) : (takeDet p v s).upd = s.upd := (takeDet_frame (.refl _ s) (within_refl _) p v).upd rfl
@[simp] theorem sendAssign_upd (p body) : (sendAssign p body s).upd = s.upd :=
  (sendAssign_frame (.refl _ s) (within_refl _) p body).upd rfl
@[simp] theorem nodeJoined_upd (pos) : (nodeJoined pos s).upd = s.upd := (nodeJoined_frame (.refl _ s) (within_refl _) pos).upd rfl
@[simp] theorem coupled_upd (p q) : (coupled p q s).upd = s.upd := (coupled_frame (.refl _ s) (within_refl _) p q).upd rfl
@[simp] theorem dropUnjoined_upd (p) : (dropUnjoined p s).upd = s.upd := (dropUnjoined_frame (.refl _ s) (within_refl _) p).upd rfl
@[simp] theorem takeAssign_upd (p body) : (takeAssign p body s).upd = s.upd :=
  (takeAssign_frame (.refl _ s) (within_refl _) p body).upd rfl
@[simp] theorem sendAckFor_upd (p pt busy) : (sendAckFor p pt busy s).upd = s.upd :=
  (sendAckFor_frame (.refl _ s) (within_refl _) p pt busy).upd rfl
@[simp] theorem sendAck_upd (p busy) : (sendAck p busy s).upd = s.upd := (sendAck_frame (.refl _ s) (within_refl _) p busy).upd rfl
@[simp] theorem storeHost_upd (ten orig data) : (storeHost ten orig data s).upd = s.upd :=
  (storeHost_frame (.refl _ s) (within_refl _) ten orig data).upd rfl
@[simp] theorem takeProfile_upd (p v) : (takeProfile p v s).upd = s.upd := (takeProfile_frame (.refl _ s) (within_refl _) p v).upd rfl
@[simp] theorem onwardReport_upd (body) : (onwardReport body s).upd = s.upd :=
  (onwardReport_frame (.refl _ s) (within_refl _) body).upd rfl
@[simp] theorem forward_upd (p h) : (forward p h s).upd = s.upd := (forward_frame (.refl _ s) (within_refl _) p h).upd rfl
@[simp] theorem supplyStep_upd : (supplyStep s).upd = s.upd := (supplyStep_frame (.refl _ s) (within_refl _)).upd rfl
@[simp] theorem linksParked_upd : (linksParked s).upd = s.upd := (linksParked_frame (.refl _ s) (within_refl _)).upd rfl
@[simp] theorem linksReleased_upd : (linksReleased s).upd = s.upd := (linksReleased_frame (.refl _ s) (within_refl _)).upd rfl

/-! ### Resets, start-up and parking -/

@[simp] theorem requeue_upd : (requeue s).upd = s.upd := (requeue_frame (.refl _ s) (within_refl _)).upd rfl
@[simp] theorem pickPair_upd (cold) : (pickPair cold s).upd = s.upd := (pickPair_frame (.refl _ s) (within_refl _) cold).upd rfl
@[simp] theorem raiseHearth_upd : (raiseHearth s).upd = s.upd := (raiseHearth_frame (.refl _ s) (within_refl _)).upd rfl
@[simp] theorem startUp_upd (cause modeStart) : (startUp cause modeStart s).upd = s.upd :=
  (startUp_frame (.refl _ s) (within_refl _) cause modeStart).upd rfl
@[simp] theorem railLost_upd (rail) : (railLost rail s).upd = s.upd := (railLost_frame (.refl _ s) (within_refl _) rail).upd rfl
@[simp] theorem chainsLeave_upd : (chainsLeave s).upd = s.upd := (chainsLeave_frame (.refl _ s) (within_refl _)).upd rfl
@[simp] theorem readersLeave_upd : (readersLeave s).upd = s.upd := (readersLeave_frame (.refl _ s) (within_refl _)).upd rfl
@[simp] theorem drivesDrop_upd : (drivesDrop s).upd = s.upd := (drivesDrop_frame (.refl _ s) (within_refl _)).upd rfl
@[simp] theorem clockReports_upd (out) : (clockReports out s).upd = s.upd := (clockReports_frame (.refl _ s) (within_refl _) out).upd rfl
@[simp] theorem endKeyWork_upd : (endKeyWork s).upd = s.upd := (endKeyWork_frame (.refl _ s) (within_refl _)).upd rfl
@[simp] theorem stampAll_upd : (stampAll s).upd = s.upd := (stampAll_frame (.refl _ s) (within_refl _)).upd rfl
@[simp] theorem settleBroken_upd : (settleBroken s).upd = s.upd := (settleBroken_frame (.refl _ s) (within_refl _)).upd rfl
@[simp] theorem hearthRecord_upd : (hearthRecord s).upd = s.upd := (hearthRecord_frame (.refl _ s) (within_refl _)).upd rfl
@[simp] theorem tamperRecord_upd : (tamperRecord s).upd = s.upd := (tamperRecord_frame (.refl _ s) (within_refl _)).upd rfl
@[simp] theorem shutDrive_upd (done d) : (shutDrive done d s).upd = s.upd := (shutDrive_frame (.refl _ s) (within_refl _) done d).upd rfl
@[simp] theorem wake_upd (b) : (wake b s).upd = s.upd := (wake_frame (.refl _ s) (within_refl _) b).upd rfl
@[simp] theorem modPin_upd (n f) : (modPin n f s).upd = s.upd := (modPin_frame (.refl _ s) (within_refl _) n f).upd rfl
@[simp] theorem reportUp_upd (received code detail head) : (reportUp received code detail head s).upd = s.upd :=
  (reportUp_frame (.refl _ s) (within_refl _) received code detail head).upd rfl
@[simp] theorem recordsAnew_upd : (recordsAnew s).upd = s.upd := (recordsAnew_frame (.refl _ s) (within_refl _)).upd rfl

/-! ### Operations ended early, service, registers and tamper -/

@[simp] theorem priFall_upd : (priFall s).upd = s.upd := (priFall_frame (.refl _ s) (within_refl _)).upd rfl
@[simp] theorem resumePoll_upd : (resumePoll s).upd = s.upd := (resumePoll_frame (.refl _ s) (within_refl _)).upd rfl
@[simp] theorem dropTest_upd : (dropTest s).upd = s.upd := (dropTest_frame (.refl _ s) (within_refl _)).upd rfl
@[simp] theorem loseShadow_upd (b third) : (loseShadow b third s).upd = s.upd :=
  (loseShadow_frame (.refl _ s) (within_refl _) b third).upd rfl
@[simp] theorem repairRow_upd (bank row) : (repairRow bank row s).upd = s.upd :=
  (repairRow_frame (.refl _ s) (within_refl _) bank row).upd rfl
@[simp] theorem repairCol_upd (bank row col) : (repairCol bank row col s).upd = s.upd :=
  (repairCol_frame (.refl _ s) (within_refl _) bank row col).upd rfl
@[simp] theorem hostWrite_upd (func o v) : (hostWrite func o v s).upd = s.upd :=
  (hostWrite_frame (.refl _ s) (within_refl _) func o v).upd rfl
@[simp] theorem slcWrite_upd (func o v) : (slcWrite func o v s).upd = s.upd :=
  (slcWrite_frame (.refl _ s) (within_refl _) func o v).upd rfl
@[simp] theorem angWrite_upd (func o v) : (angWrite func o v s).upd = s.upd :=
  (angWrite_frame (.refl _ s) (within_refl _) func o v).upd rfl
@[simp] theorem lfWrite_upd (o v) : (lfWrite o v s).upd = s.upd := (lfWrite_frame (.refl _ s) (within_refl _) o v).upd rfl
@[simp] theorem uhfWrite_upd (o v) : (uhfWrite o v s).upd = s.upd := (uhfWrite_frame (.refl _ s) (within_refl _) o v).upd rfl
@[simp] theorem nfcWrite_upd (o v) : (nfcWrite o v s).upd = s.upd := (nfcWrite_frame (.refl _ s) (within_refl _) o v).upd rfl
@[simp] theorem iflWrite_upd (o v) : (iflWrite o v s).upd = s.upd := (iflWrite_frame (.refl _ s) (within_refl _) o v).upd rfl
@[simp] theorem cusWrite_upd (o v) : (cusWrite o v s).upd = s.upd := (cusWrite_frame (.refl _ s) (within_refl _) o v).upd rfl
@[simp] theorem dirWrite_upd (o v) : (dirWrite o v s).upd = s.upd := (dirWrite_frame (.refl _ s) (within_refl _) o v).upd rfl
@[simp] theorem secWrite_upd (o v) : (secWrite o v s).upd = s.upd := (secWrite_frame (.refl _ s) (within_refl _) o v).upd rfl
@[simp] theorem slkWrite_upd (o v) : (slkWrite o v s).upd = s.upd := (slkWrite_frame (.refl _ s) (within_refl _) o v).upd rfl
@[simp] theorem fltWrite_upd (o v) : (fltWrite o v s).upd = s.upd := (fltWrite_frame (.refl _ s) (within_refl _) o v).upd rfl
@[simp] theorem pwrWrite_upd (func o v) : (pwrWrite func o v s).upd = s.upd :=
  (pwrWrite_frame (.refl _ s) (within_refl _) func o v).upd rfl
@[simp] theorem bypassRecord_upd (ty ix) : (bypassRecord ty ix s).upd = s.upd :=
  (bypassRecord_frame (.refl _ s) (within_refl _) ty ix).upd rfl
@[simp] theorem noteTamper_upd (event zeroise) : (noteTamper event zeroise s).upd = s.upd :=
  (noteTamper_frame (.refl _ s) (within_refl _) event zeroise).upd rfl
@[simp] theorem reportTamper_upd (event zeroise) : (reportTamper event zeroise s).upd = s.upd :=
  (reportTamper_frame (.refl _ s) (within_refl _) event zeroise).upd rfl
@[simp] theorem loseVault_upd (event) : (loseVault event s).upd = s.upd := (loseVault_frame (.refl _ s) (within_refl _) event).upd rfl
@[simp] theorem alarmEvent_upd (event) : (alarmEvent event s).upd = s.upd := (alarmEvent_frame (.refl _ s) (within_refl _) event).upd rfl
@[simp] theorem countAlarm_upd : (countAlarm s).2.upd = s.upd := (countAlarm_frame (.refl _ s) (within_refl _)).upd rfl
@[simp] theorem keptInParked_upd (warm : State) : (keptInParked s warm).upd = warm.upd := rfl

end Sys2Proof.Machine

/-! The two recorded values of SEC_FLOOR (R556), which every operation but the confirmation of a trial leaves as they are. Each
operation that reaches the update engine has one lemma: the floors after it, simplified to the floors before it. -/

namespace Sys2Proof.Machine

variable {s t : State}

/-- SEC_FLOOR as the journal records it, and as the ledger does. -/
def Upd.floors (u : Upd) : Nat × Nat := (u.secFloor, u.ledgerFloor)

@[simp] theorem Upd.floors_mk (seq a b boot tries secFloor actAt actLsn ledgerFloor bank0 bank1 running sched lapse handover trialSince
    peers recv sends push schedOp events hearth) :
    (Upd.mk seq a b boot tries secFloor actAt actLsn ledgerFloor bank0 bank1 running sched lapse handover trialSince peers recv sends
      push schedOp events hearth).floors = (secFloor, ledgerFloor) := rfl

@[simp] theorem Upd.floors_eta (u : Upd) : (u.secFloor, u.ledgerFloor) = u.floors := rfl

@[simp] theorem withSlot_secFloor (b f) (u : Upd) : (withSlot b f u).secFloor = u.secFloor := by
  unfold withSlot
  split <;> rfl

@[simp] theorem withSlot_floors (b f) (u : Upd) : (withSlot b f u).floors = u.floors := by
  unfold withSlot
  split <;> rfl

@[simp] theorem resetUpd_floors (u : Upd) : (resetUpd u).floors = u.floors := rfl

/-- Every next state of the outcome records the values of SEC_FLOOR that `s` records. -/
def KeepsFloors (s : State) (o : Host.Outcome State Fault Refusal) : Prop := ∀ t, o = .next t → t.upd.floors = s.upd.floors

theorem KeepsFloors.next (h : t.upd.floors = s.upd.floors) : KeepsFloors s (.next t) := by
  intro u hu
  cases hu
  exact h

theorem OutFrame.keepsFloors {ps : List Part} {o} (h : OutFrame ps s o) (hp : ps.contains .upd = false) : KeepsFloors s o :=
  fun t e => congrArg Upd.floors ((h.out t e).upd hp)

/-! ### Branches, repetition, and the shared shapes of operations -/

theorem ite_floors_eq {c : Prop} [Decidable c] {a b : State} {x} (ha : a.upd.floors = x) (hb : b.upd.floors = x) :
    (if c then a else b).upd.floors = x := by
  split <;> assumption

@[simp] theorem ite_floors {c : Prop} [Decidable c] (a b : State) :
    (if c then a else b).upd.floors = if c then a.upd.floors else b.upd.floors := by
  split <;> rfl

@[simp] theorem onlyIf_floors (c f) : (onlyIf c f s).upd.floors = if c then (f s).upd.floors else s.upd.floors := by
  unfold onlyIf
  split <;> rfl

@[simp] theorem each_floors {α : Type} (l : List α) (f : α → State → State) (hf : ∀ x t, (f x t).upd.floors = t.upd.floors) :
    (each l f s).upd.floors = s.upd.floors := by
  induction l generalizing s with
  | nil => rfl
  | cons x l ih => exact ih.trans (hf x s)

@[simp] theorem startOp_floors (opc r) (body : Flight → State → State) (hb : ∀ f t, (body f t).upd.floors = t.upd.floors) :
    (startOp opc r body s).upd.floors = s.upd.floors := by
  unfold startOp
  split <;> simp [hb]

@[simp] theorem updOp_floors (opc r waits) (body : Flight → State → State) (hb : ∀ f t, (body f t).upd.floors = t.upd.floors) :
    (updOp opc r waits body s).upd.floors = s.upd.floors := by
  unfold updOp
  split <;> simp [hb]

@[simp] theorem withRead_floors (r rd n stage) (body : Bytes → State → State) (hb : ∀ d t, (body d t).upd.floors = t.upd.floors) :
    (withRead r rd n stage body s).upd.floors = s.upd.floors := by
  unfold withRead
  split <;> simp [hb]

@[simp] theorem writRun_floors (r rd f) (body : Bytes → State → State) (hb : ∀ w t, (body w t).upd.floors = t.upd.floors) :
    (writRun r rd f body s).upd.floors = s.upd.floors := by
  unfold writRun
  split
  · simp
  next w _ =>
    split
    · simp
    · have hsig : (writSigned w (sigBlocks w) s).2.upd = s.upd := writSigned_upd w _
      generalize writSigned w (sigBlocks w) s = signed at hsig
      simp [hb, hsig]

theorem after_floors {o} (h : KeepsFloors s o) : (after o s).upd.floors = s.upd.floors := by
  cases o with
  | next t => exact h t rfl
  | fault e => rfl
  | refused e => rfl

/-! ### Service mode and debug access -/

@[simp] theorem leaveService_floors : (leaveService s).upd.floors = s.upd.floors := by simp [leaveService]

@[simp] theorem endServiceIfDue_floors : (endServiceIfDue s).upd.floors = s.upd.floors := by
  unfold endServiceIfDue
  split <;> simp

@[simp] theorem closeDebug_floors : (closeDebug s).upd.floors = s.upd.floors := by simp [closeDebug]

/-! ### Writs, the update engine and the Ifeven line -/

@[simp] theorem applyDebug_floors (b) : (applyDebug b s).upd.floors = s.upd.floors := by simp [applyDebug]

@[simp] theorem writEffect_floors (w) : (writEffect w s).upd.floors = s.upd.floors := by
  unfold writEffect
  extract_lets k b
  split
  · split <;> simp
  · simp

@[simp] theorem writCommit_floors (r w) : (writCommit r w s).upd.floors = s.upd.floors := by simp [writCommit]
theorem execWritApply_keepsFloors (r rd) : KeepsFloors s (execWritApply r rd s) := .next (by simp)
@[simp] theorem journal_floors (f) : (journal f s).upd.floors = (f s.upd).floors := rfl
@[simp] theorem slotState_floors (b st) : (slotState b st s).upd.floors = s.upd.floors := by simp [slotState]
@[simp] theorem putBlock_floors (b i data) : (putBlock b i data s).upd.floors = s.upd.floors := by simp [putBlock]
@[simp] theorem updEvent_floors (i) : (updEvent i s).upd.floors = s.upd.floors := by simp [updEvent]
@[simp] theorem offerTo_floors (b route dst) : (offerTo b route dst s).upd.floors = s.upd.floors := by simp [offerTo]

@[simp] theorem pushOffers_floors : (pushOffers s).upd.floors = s.upd.floors := by
  unfold pushOffers
  split <;> simp

@[simp] theorem pushDone_floors : (pushDone s).upd.floors = s.upd.floors := by
  unfold pushDone
  split <;> simp

@[simp] theorem pushClosed_floors (q refused) : (pushClosed q refused s).upd.floors = s.upd.floors := by simp [pushClosed]

@[simp] theorem offerPast_floors (q) : (offerPast q s).upd.floors = s.upd.floors := by
  unfold offerPast
  split
  · extract_lets s' far
    split <;> simp [s']
  · rfl

@[simp] theorem pushPassed_floors (q) : (pushPassed q s).upd.floors = s.upd.floors := by
  unfold pushPassed
  split <;> simp

@[simp] theorem dropTransfers_floors (q) : (dropTransfers q s).upd.floors = s.upd.floors := by simp [dropTransfers]

@[simp] theorem freeNodes_floors (top cause detail) : (freeNodes top cause detail s).upd.floors = s.upd.floors := by
  unfold freeNodes
  refine (each_floors _ _ fun p t => ?_).trans (by simp)
  split <;> simp

@[simp] theorem portDown_floors (p st cause) : (portDown p st cause s).upd.floors = s.upd.floors := by simp [portDown]
@[simp] theorem decouple_floors (p cause) : (decouple p cause s).upd.floors = s.upd.floors := by simp [decouple]
@[simp] theorem quarantine_floors (p) : (quarantine p s).upd.floors = s.upd.floors := by simp [quarantine]
theorem execIflDetSample_keepsFloors (p uv) : KeepsFloors s (execIflDetSample p uv s) := .next (by (repeat' split) <;> simp)

@[simp] theorem assignNode_floors (roll parent pport p) : (assignNode roll parent pport p s).upd.floors = s.upd.floors := by
  unfold assignNode
  extract_lets uid
  split <;> simp

@[simp] theorem sendJoin_floors (p roll) : (sendJoin p roll s).upd.floors = s.upd.floors := by simp [sendJoin]
@[simp] theorem rollMissed_floors (p) : (rollMissed p s).upd.floors = s.upd.floors := by simp [rollMissed]

theorem execBeacon_keepsFloors (p) : KeepsFloors s (execBeacon p s) := by
  refine .next (ite_floors_eq ?_ rfl)
  extract_lets at0 missed due opened pt q sent timed
  have due_floors : due.upd.floors = s.upd.floors := by
    clear_value at0
    cases at0 <;> simp [due, missed]
  clear_value due
  split <;> simp [timed, sent, opened, due_floors]

theorem execRoll_keepsFloors (p src payload) : KeepsFloors s (execRoll p src payload s) := by
  refine .next ?_
  extract_lets h pt heard
  have heard_floors : heard.upd.floors = s.upd.floors := by simp [heard]
  repeat' split
  all_goals simp [heard_floors]

@[simp] theorem deliverData_floors (h) : (deliverData h s).upd.floors = s.upd.floors := by simp [deliverData]

@[simp] theorem deliverHere_floors (p h) : (deliverHere p h s).upd.floors = s.upd.floors := by
  unfold deliverHere
  (repeat' split) <;> simp

@[simp] theorem deliver_floors (p payload) : (deliver p payload s).upd.floors = s.upd.floors := by simp [deliver]

@[simp] theorem drainHeld_floors (n p) : (drainHeld n p s).upd.floors = s.upd.floors := by
  induction n generalizing s with
  | zero => rfl
  | succ n ih =>
    unfold drainHeld
    extract_lets pt
    split <;> simp [ih]

@[simp] theorem recvSeq_floors (t p payload) : (recvSeq t p payload s).upd.floors = s.upd.floors := by simp [recvSeq]
theorem execJoin_keepsFloors (p payload) : KeepsFloors s (execJoin p payload s) := .next (by simp)
theorem execJoined_keepsFloors (p payload) : KeepsFloors s (execJoined p payload s) := .next (by simp)
theorem execDecoupled_keepsFloors (p payload) : KeepsFloors s (execDecoupled p payload s) := .next (by simp)
theorem execProfile_keepsFloors (p payload) : KeepsFloors s (execProfile p payload s) := .next (by simp)
theorem execDataFrame_keepsFloors (p payload) : KeepsFloors s (execDataFrame p payload s) := .next (by simp)
theorem execOnwardLost_keepsFloors (p payload) : KeepsFloors s (execOnwardLost p payload s) := .next (by simp)
theorem execAssign_keepsFloors (p payload) : KeepsFloors s (execAssign p payload s) := .next (by simp)

theorem execResendTimer_keepsFloors (p) : KeepsFloors s (execResendTimer p s) := by
  refine .next ?_
  extract_lets pt
  split <;> simp

@[simp] theorem adriftGone_floors (p pos) : (adriftGone p pos s).upd.floors = s.upd.floors := by simp [adriftGone]

theorem execAdriftHoldEnd_keepsFloors (p) : KeepsFloors s (execAdriftHoldEnd p s) := by
  refine .next ?_
  extract_lets pt
  split <;> simp

@[simp] theorem beginSlot_floors (b h) : (beginSlot b h s).upd.floors = s.upd.floors := by simp [beginSlot]
@[simp] theorem slotBad_floors (b) : (slotBad b s).upd.floors = s.upd.floors := by simp [slotBad]
@[simp] theorem writeBlocks_floors (b blocks n) : (writeBlocks b blocks n s).upd.floors = s.upd.floors := by simp [writeBlocks]

@[simp] theorem writeImage_floors (b data flash) : (writeImage b data flash s).2.upd.floors = s.upd.floors := by
  unfold writeImage
  extract_lets h blocks s' firstBad written
  have begun : s'.upd.floors = s.upd.floors := by simp [s']
  clear_value s' firstBad
  cases firstBad with
  | some c => simp [begun]
  | none =>
    cases flash with
    | failed k => simp [begun]
    | differs k => simp [begun]
    | ok =>
      dsimp only
      split <;> simp [written, begun]

theorem execStage_keepsFloors (r rd flash) : KeepsFloors s (execStage r rd flash s) := by
  refine .next (updOp_floors _ _ _ _ fun f s => ?_)
  refine ite_floors_eq (by simp) (withRead_floors _ _ _ _ _ fun data s => ?_)
  extract_lets h b c checked signed w
  refine ite_floors_eq (by simp) (ite_floors_eq (by simp) ?_)
  have checked_floors : checked.upd.floors = s.upd.floors := by simp [checked]
  clear_value checked
  split <;> simp [signed, w, checked_floors]

theorem execPush_keepsFloors (r) : KeepsFloors s (execPush r s) := .next (by simp)

@[simp] theorem schedDone_floors : (schedDone s).upd.floors = s.upd.floors := by
  unfold schedDone
  split <;> simp

theorem execSchedule_keepsFloors (r) : KeepsFloors s (execSchedule r s) := .next (by simp)
@[simp] theorem unschedule_floors (b) : (unschedule b s).upd.floors = s.upd.floors := by simp [unschedule]

theorem execCancel_keepsFloors (r) : KeepsFloors s (execCancel r s) := by
  refine .next (updOp_floors _ _ _ _ fun f s => ?_)
  split <;> simp

@[simp] theorem putBank_floors (n l) : (putBank n l s).upd.floors = s.upd.floors := by
  unfold putBank
  split <;> simp

/-- A record is placed in a bank, which holds no floor. -/
theorem placeRec_floors {x} (h : placeRec x s = some t) : t.upd.floors = s.upd.floors := by
  unfold placeRec at h
  extract_lets n old all at h
  split at h
  · cases h; simp
  · split at h
    · cases h; simp
    · cases h

@[simp] theorem storeRec_floors (r x) : (storeRec r x s).upd.floors = s.upd.floors := by
  unfold storeRec
  split
  · simp [placeRec_floors ‹_›]
  · simp

theorem execCfgWrite_keepsFloors (r rd body flashOk) : KeepsFloors s (execCfgWrite r rd body flashOk s) := .next (by simp)

@[simp] theorem sendNeed_floors : (sendNeed s).upd.floors = s.upd.floors := by
  unfold sendNeed
  split <;> simp

@[simp] theorem beginRecv_floors (src m resumed) : (beginRecv src m resumed s).upd.floors = s.upd.floors := by simp [beginRecv]
@[simp] theorem beginHearth_floors (used total) : (beginHearth used total s).upd.floors = s.upd.floors := by simp [beginHearth]

theorem execOffer_keepsFloors (src payload) : KeepsFloors s (execOffer src payload s) := by
  refine .next (ite_floors_eq rfl ?_)
  extract_lets head b x
  refine ite_floors_eq (by simp) ?_
  split <;> simp

@[simp] theorem endRecv_floors (x code detail) : (endRecv x code detail s).upd.floors = s.upd.floors := by simp [endRecv]

@[simp] theorem recvComplete_floors (x flash) : (recvComplete x flash s).upd.floors = s.upd.floors := by
  unfold recvComplete
  split <;> simp

@[simp] theorem blockArrived_floors (x data flash) : (blockArrived x data flash s).upd.floors = s.upd.floors := by
  unfold blockArrived
  (repeat' split) <;> simp

theorem execPiece_keepsFloors (src payload flash) : KeepsFloors s (execPiece src payload flash s) := .next (by split <;> simp)
theorem execNeedTimer_keepsFloors : KeepsFloors s (execNeedTimer s) := .next (by (repeat' split) <;> simp)

theorem execNeed_keepsFloors (src payload) : KeepsFloors s (execNeed src payload s) := by
  refine .next ?_
  extract_lets head slot noted wanted
  refine ite_floors_eq rfl ?_
  split <;> simp [noted]

@[simp] theorem pushStatus_floors (dst code detail) : (pushStatus dst code detail s).upd.floors = s.upd.floors := by
  unfold pushStatus
  (repeat' split) <;> simp

@[simp] theorem schedStatus_floors (pos code) : (schedStatus pos code s).upd.floors = s.upd.floors := by
  unfold schedStatus
  split <;> simp

theorem execTransportStatus_keepsFloors (src payload) : KeepsFloors s (execTransportStatus src payload s) := .next (by simp)

@[simp] theorem dropIdle_floors (t) : (dropIdle t s).upd.floors = s.upd.floors := by
  unfold dropIdle
  (repeat' split) <;> simp

@[simp] theorem giveUpIdle_floors (t) : (giveUpIdle t s).upd.floors = s.upd.floors := by
  unfold giveUpIdle
  split <;> simp

theorem execTransferAbandon_keepsFloors : KeepsFloors s (execTransferAbandon s) := .next (by split <;> simp)

theorem execSched_keepsFloors (src payload) : KeepsFloors s (execSched src payload s) := by
  refine .next ?_
  extract_lets head x
  refine ite_floors_eq rfl ?_
  split <;> simp

theorem execUnsched_keepsFloors (src payload) : KeepsFloors s (execUnsched src payload s) := .next (by (repeat' split) <;> simp)
theorem execSchedRepeat_keepsFloors : KeepsFloors s (execSchedRepeat s) := .next (by split <;> simp)

/-! ### Resets, start-up, power modes, activation, trial and Hearth mode -/

@[simp] theorem resetBlocks_floors (cold) : (resetBlocks cold s).upd.floors = s.upd.floors := by
  simp [resetBlocks]

@[simp] theorem coldReset_floors : (coldReset s).upd.floors = s.upd.floors := by simp [coldReset]
@[simp] theorem enterHearth_floors (cause) : (enterHearth cause s).upd.floors = s.upd.floors := by simp [enterHearth]
@[simp] theorem fullReset_floors (cause) : (fullReset cause s).upd.floors = s.upd.floors := by simp [fullReset]
theorem execVaonGood_keepsFloors : KeepsFloors s (execVaonGood s) := .next (by simp)
theorem execVaonBrownOut_keepsFloors : KeepsFloors s (execVaonBrownOut s) := .next (by simp)
theorem execVcoreBrownOut_keepsFloors (vsram) : KeepsFloors s (execVcoreBrownOut vsram s) := .next (by simp)

@[simp] theorem portsLost_floors (rail) : (portsLost rail s).upd.floors = s.upd.floors := by
  unfold portsLost
  split <;> simp

theorem execPortRailFault_keepsFloors (rail) : KeepsFloors s (execPortRailFault rail s) := .next (by simp)
theorem execClockSwitchWindowEnd_keepsFloors (recovered) : KeepsFloors s (execClockSwitchWindowEnd recovered s) := .next (by simp)
@[simp] theorem trialFails_floors (b) : (trialFails b s).upd.floors = s.upd.floors := by simp [trialFails]

@[simp] theorem trySlot_floors (b) : (trySlot b s).2.upd.floors = s.upd.floors := by
  unfold trySlot
  extract_lets x s'
  split
  · rfl
  · have marked : s'.upd.floors = s.upd.floors := by simp [s']
    split <;> simp [marked]

@[simp] theorem bootChoice_floors : (bootChoice s).2.upd.floors = s.upd.floors := by
  unfold bootChoice
  split
  · extract_lets s'
    split <;> simp [s']
  · simp

theorem execFuseLoadEnd_keepsFloors : KeepsFloors s (execFuseLoadEnd s) := by
  refine .next ?_
  split
  · split
    · simp
    · have chosen : (bootChoice s).2.upd.floors = s.upd.floors := bootChoice_floors
      generalize bootChoice s = c at chosen
      obtain ⟨_ | b, t⟩ := c <;> simpa using chosen
  · rfl

@[simp] theorem activate_floors (b lsn) : (activate b lsn s).upd.floors = s.upd.floors := by simp [activate]

@[simp] theorem trialRelease_floors : (trialRelease s).upd.floors = s.upd.floors := by
  unfold trialRelease
  split <;> simp

@[simp] theorem release_floors : (release s).upd.floors = s.upd.floors := by simp [release]
@[simp] theorem warmReset_floors (cause) : (warmReset cause s).upd.floors = s.upd.floors := by simp [warmReset]
theorem execWarmReset_keepsFloors (flr) : KeepsFloors s (execWarmReset flr s) := .next (by simp)
theorem execWatchdogExpiry_keepsFloors : KeepsFloors s (execWatchdogExpiry s) := .next (by simp)
@[simp] theorem resume_floors (modeStart) : (resume modeStart s).upd.floors = s.upd.floors := by simp [resume]
@[simp] theorem cabTrigger_floors : (cabTrigger s).upd.floors = s.upd.floors := by simp [cabTrigger]
@[simp] theorem fabricDown_floors : (fabricDown s).upd.floors = s.upd.floors := by simp [fabricDown]
@[simp] theorem enterParked_floors : (enterParked s).upd.floors = s.upd.floors := by simp [enterParked]
theorem execDriveShutdownComplete_keepsFloors (done) : KeepsFloors s (execDriveShutdownComplete done s) := .next (by simp)
@[simp] theorem recoveredToParked_floors : (recoveredToParked s).upd.floors = s.upd.floors := by simp [recoveredToParked]

theorem execLedgerReplay_keepsFloors (aGood bGood) : KeepsFloors s (execLedgerReplay aGood bGood s) := by
  refine .next (ite_floors_eq ?_ rfl)
  extract_lets a b refilled replayed settled keyless copied activated stamped
  have copied_floors : copied.upd.floors = s.upd.floors := by simp [copied, keyless, settled, replayed, refilled]
  have activated_floors : activated.upd.floors = s.upd.floors := by
    clear_value copied
    cases h : activationOwed copied <;> simp [activated, h, copied_floors]
  clear_value activated
  simp [stamped, activated_floors]

@[simp] theorem dormantOff_floors : (dormantOff s).upd.floors = s.upd.floors := by
  unfold dormantOff
  (repeat' split) <;> simp

@[simp] theorem ignitionOn_floors : (ignitionOn s).upd.floors = s.upd.floors := by simp [ignitionOn]
theorem execWakeEvent_keepsFloors (pin) : KeepsFloors s (execWakeEvent pin s) := .next (by simp)
theorem execDsenseChange_keepsFloors (d high) : KeepsFloors s (execDsenseChange d high s) := .next (by simp)
theorem execServiceEnd_keepsFloors : KeepsFloors s (execServiceEnd s) := .next (by split <;> simp)
theorem execDebugDurationEnd_keepsFloors : KeepsFloors s (execDebugDurationEnd s) := .next (by simp)
@[simp] theorem idle_floors : (idle s).upd.floors = s.upd.floors := by simp [idle]
@[simp] theorem lapse_floors (b detail) : (lapse b detail s).upd.floors = s.upd.floors := by simp [lapse]

@[simp] theorem commitActivation_floors (b) : (commitActivation b s).upd.floors = s.upd.floors := by
  unfold commitActivation
  extract_lets used received recorded active reported
  have used_upd : used.upd = s.upd := useSlice_upd
  have reported_floors : reported.upd.floors = s.upd.floors := by simp [reported, active, recorded, used_upd]
  clear_value used reported
  refine ite_floors_eq (by rw [used_upd]) (ite_floors_eq (by simp [used_upd]) ?_)
  split
  · simp [used_upd]
  · simp [used_upd, reported_floors]

theorem execActivationCommit_keepsFloors : KeepsFloors s (execActivationCommit s) := .next (by split <;> simp)
theorem execActivationLapse_keepsFloors : KeepsFloors s (execActivationLapse s) := .next (by split <;> simp)
@[simp] theorem giveUp_floors (b) : (giveUp b s).upd.floors = s.upd.floors := by simp [giveUp]

@[simp] theorem abandonHandover_floors : (abandonHandover s).upd.floors = s.upd.floors := by
  unfold abandonHandover
  split <;> simp

theorem execHandoverShadowReady_keepsFloors : KeepsFloors s (execHandoverShadowReady s) := .next (by split <;> simp)
theorem execHandoverTimeout_keepsFloors : KeepsFloors s (execHandoverTimeout s) := .next (by split <;> simp)
theorem execHandoverHoldEnd_keepsFloors : KeepsFloors s (execHandoverHoldEnd s) := .next (by split <;> simp)

@[simp] theorem failoverTrial_floors : (failoverTrial s).upd.floors = s.upd.floors := by
  unfold failoverTrial
  split <;> simp

@[simp] theorem hearthCheck_floors : (hearthCheck s).upd.floors = s.upd.floors := by simp [hearthCheck]
@[simp] theorem startSlot_floors : (startSlot s).upd.floors = s.upd.floors := by simp [startSlot]
@[simp] theorem fillSlot_floors (data) : (fillSlot data s).upd.floors = s.upd.floors := by simp [fillSlot]
@[simp] theorem hearthFails_floors (detail bad) : (hearthFails detail bad s).upd.floors = s.upd.floors := by simp [hearthFails]
@[simp] theorem hearthGo_floors (func v) : (hearthGo func v s).upd.floors = s.upd.floors := by simp [hearthGo]

theorem execUpdHearthGo_keepsFloors (func v image) : KeepsFloors s (execUpdHearthGo func v image s) := by
  refine .next ?_
  extract_lets s'
  have gone : s'.upd.floors = s.upd.floors := hearthGo_floors _ _
  split
  · split <;> simp [gone]
  · exact gone

theorem execUpdHearthRevert_keepsFloors (func v) : KeepsFloors s (execUpdHearthRevert func v s) := .next (by split <;> simp)
@[simp] theorem hearthAnswer_floors : (hearthAnswer s).upd.floors = s.upd.floors := by simp [hearthAnswer]
theorem execHearthCanFrame_keepsFloors (ident data) : KeepsFloors s (execHearthCanFrame ident data s) := .next (by simp)
theorem execHearthCanStatus_keepsFloors : KeepsFloors s (execHearthCanStatus s) := .next (by simp)
theorem execHearthDownloadEnd_keepsFloors (flash) : KeepsFloors s (execHearthDownloadEnd flash s) := .next (by (repeat' split) <;> simp)

/-! ### Operations ended early, faults, registers and tamper -/

@[simp] theorem endOp_floors (r f fr) : (endOp r f fr s).upd.floors = s.upd.floors := by
  unfold endOp
  extract_lets o
  repeat' refine ite_floors_eq ?_ ?_
  all_goals repeat' split
  all_goals simp

theorem execClassBoundExpiry_keepsFloors (r) : KeepsFloors s (execClassBoundExpiry r s) := .next (by (repeat' split) <;> simp)
@[simp] theorem takeover_floors : (takeover s).upd.floors = s.upd.floors := by simp [takeover]
theorem execStewardTakeover_keepsFloors (cause) : KeepsFloors s (execStewardTakeover cause s) := .next (by simp)

@[simp] theorem wordLost_floors (owner) : (wordLost owner s).upd.floors = s.upd.floors := by
  unfold wordLost
  (repeat' split) <;> simp

theorem execSramEccError_keepsFloors (bank row col uncorr owner) : KeepsFloors s (execSramEccError bank row col uncorr owner s) :=
  .next (by simp)

@[simp] theorem halfFails_floors (b) : (halfFails b s).upd.floors = s.upd.floors := by simp [halfFails]
theorem execLedgerSectorFail_keepsFloors (b) : KeepsFloors s (execLedgerSectorFail b s) := .next (by simp)
theorem execSysReset_keepsFloors (func v) : KeepsFloors s (execSysReset func v s) := .next (by simp)

@[simp] theorem sysWrite_floors (func o v) : (sysWrite func o v s).upd.floors = s.upd.floors := by
  have setup : KeepsFloors s (execSysLockSetup func (BitVec.ofNat 32 v) s) :=
    (execSysLockSetup_frame (.refl _ s) (within_refl _) _ _).keepsFloors rfl
  simp [sysWrite, after_floors (execSysReset_keepsFloors _ _), after_floors setup]

@[simp] theorem updWrite_floors (func o v) : (updWrite func o v s).upd.floors = s.upd.floors := by
  simp [updWrite, after_floors (execUpdHearthRevert_keepsFloors _ _)]

@[simp] theorem wordWrite_floors (func off v) : (wordWrite func off v s).upd.floors = s.upd.floors := by simp [wordWrite]
theorem execRegisterWrite_keepsFloors (func off size v) : KeepsFloors s (execRegisterWrite func off size v s) := .next (by simp)

@[simp] theorem leaveUnit_floors (ty ix) : (leaveUnit ty ix s).upd.floors = s.upd.floors := by
  unfold leaveUnit
  (repeat' split) <;> simp

theorem execBypass_keepsFloors (r) : KeepsFloors s (execBypass r s) := .next (by simp)

@[simp] theorem zeroise_floors (event) : (zeroise event s).upd.floors = s.upd.floors := by
  unfold zeroise
  split
  · extract_lets lost woken
    -- by `rw`: `simp` would leave the kernel to compare the whole states around `loseVault` by evaluation
    have woken_floors : woken.upd.floors = s.upd.floors := by
      rw [onlyIf_floors, modPwr_upd, loseVault_upd, endKeyWork_upd, ite_self]
    clear_value woken
    simp [woken_floors]
  · rw [modFlt_upd, loseVault_upd]

@[simp] theorem zeroiseEvent_floors (event) : (zeroiseEvent event s).upd.floors = s.upd.floors := by simp [zeroiseEvent]
@[simp] theorem glitch_floors (event) : (glitch event s).upd.floors = s.upd.floors := by simp [glitch]
theorem execTamperMesh_keepsFloors (m) : KeepsFloors s (execTamperMesh m s) := .next (by simp)
theorem execLight_keepsFloors : KeepsFloors s (execLight s) := .next (by simp)
theorem execVoltageGlitch_keepsFloors : KeepsFloors s (execVoltageGlitch s) := .next (by simp)
theorem execClockGlitch_keepsFloors : KeepsFloors s (execClockGlitch s) := .next (by simp)

end Sys2Proof.Machine

/-! SEC_FLOOR (R556): the one command that moves it, and the obligation. -/

namespace Sys2Proof.Machine

variable {s t : State}

/-- Every command but the confirmation of a trial keeps both values of SEC_FLOOR: most do not reach the update engine at all, and those
that do write it without its floors. -/
theorem exec_keepsFloors {c : Instr} (hc : c ≠ .trialConfirm) : KeepsFloors s (exec c s) := by
  cases c with
  | trialConfirm => exact absurd rfl hc
  | vaonGood => exact execVaonGood_keepsFloors
  | vaonBrownOut => exact execVaonBrownOut_keepsFloors
  | aonSupplyChangeover => exact (execAonSupplyChangeover_frame (.refl _ s) (within_refl _)).keepsFloors rfl
  | aonLoss => exact (execAonLoss_frame (.refl _ s) (within_refl _)).keepsFloors rfl
  | vkeepLow mv => exact (execVkeepLow_frame (.refl _ s) (within_refl _) mv).keepsFloors rfl
  | vcoreBrownOut vsram => exact execVcoreBrownOut_keepsFloors vsram
  | dramRailFault vddq => exact (execDramRailFault_frame (.refl _ s) (within_refl _) vddq).keepsFloors rfl
  | portRailFault rail => exact execPortRailFault_keepsFloors rail
  | linkRailFault serdes => exact (execLinkRailFault_frame (.refl _ s) (within_refl _) serdes).keepsFloors rfl
  | railGoodReturn rail => exact (execRailGoodReturn_frame (.refl _ s) (within_refl _) rail).keepsFloors rfl
  | enableGroupGood g => exact (execEnableGroupGood_frame (.refl _ s) (within_refl _) g).keepsFloors rfl
  | enableGroupTimeout g => exact (execEnableGroupTimeout_frame (.refl _ s) (within_refl _) g).keepsFloors rfl
  | fuseLoadEnd => exact execFuseLoadEnd_keepsFloors
  | configurationLoad bad => exact (execConfigurationLoad_frame (.refl _ s) (within_refl _) bad).keepsFloors rfl
  | ledgerReplay aGood bGood => exact execLedgerReplay_keepsFloors aGood bGood
  | warmReset flr => exact execWarmReset_keepsFloors flr
  | watchdogExpiry => exact execWatchdogExpiry_keepsFloors
  | checkpoint => exact (execCheckpoint_frame (.refl _ s) (within_refl _)).keepsFloors rfl
  | stewardTakeover cause => exact execStewardTakeover_keepsFloors cause
  | pairSelfTestEnd pass => exact (execPairSelfTestEnd_frame (.refl _ s) (within_refl _) pass).keepsFloors rfl
  | shadowTestSlice pass => exact (execShadowTestSlice_frame (.refl _ s) (within_refl _) pass).keepsFloors rfl
  | pwrParkReq func => exact (execPwrParkReq_frame (.refl _ s) (within_refl _) func).keepsFloors rfl
  | pwrParkCancel func => exact (execPwrParkCancel_frame (.refl _ s) (within_refl _) func).keepsFloors rfl
  | parkedEntryIdle => exact (execParkedEntryIdle_frame (.refl _ s) (within_refl _)).keepsFloors rfl
  | parkedEntryDrained => exact (execParkedEntryDrained_frame (.refl _ s) (within_refl _)).keepsFloors rfl
  | driveShutdownComplete done => exact execDriveShutdownComplete_keepsFloors done
  | wakePinCrossing pin above => exact (execWakePinCrossing_frame (.refl _ s) (within_refl _) pin above).keepsFloors rfl
  | wakeEvent pin => exact execWakeEvent_keepsFloors pin
  | nearListRestored => exact (execNearListRestored_frame (.refl _ s) (within_refl _)).keepsFloors rfl
  | wakeWindowEnd => exact (execWakeWindowEnd_frame (.refl _ s) (within_refl _)).keepsFloors rfl
  | dsenseChange d high => exact execDsenseChange_keepsFloors d high
  | dormancyHour => exact (execDormancyHour_frame (.refl _ s) (within_refl _)).keepsFloors rfl
  | lowBattery => exact (execLowBattery_frame (.refl _ s) (within_refl _)).keepsFloors rfl
  | rtcAlarm => exact (execRtcAlarm_frame (.refl _ s) (within_refl _)).keepsFloors rfl
  | pwrAlarmS func v => exact (execPwrAlarmS_frame (.refl _ s) (within_refl _) func v).keepsFloors rfl
  | wakeSlicePowerDown => exact (execWakeSlicePowerDown_frame (.refl _ s) (within_refl _)).keepsFloors rfl
  | driveExit => exact (execDriveExit_frame (.refl _ s) (within_refl _)).keepsFloors rfl
  | serviceEnd => exact execServiceEnd_keepsFloors
  | debugDurationEnd => exact execDebugDurationEnd_keepsFloors
  | slotConsume heads => exact (execSlotConsume_frame (.refl _ s) (within_refl _) heads).keepsFloors rfl
  | classBoundExpiry r => exact execClassBoundExpiry_keepsFloors r
  | completionWrite g => exact (execCompletionWrite_frame (.refl _ s) (within_refl _) g).keepsFloors rfl
  | consumerIndexWriteback g => exact (execConsumerIndexWriteback_frame (.refl _ s) (within_refl _) g).keepsFloors rfl
  | doorbellHrPi func ten j v => exact (execDoorbellHrPi_frame (.refl _ s) (within_refl _) func ten j v).keepsFloors rfl
  | doorbellTrCi func ten j v => exact (execDoorbellTrCi_frame (.refl _ s) (within_refl _) func ten j v).keepsFloors rfl
  | descriptorReadFailed g => exact (execDescriptorReadFailed_frame (.refl _ s) (within_refl _) g).keepsFloors rfl
  | tailraceWriteRefused g writeback => exact (execTailraceWriteRefused_frame (.refl _ s) (within_refl _) g writeback).keepsFloors rfl
  | ringEnable func => exact (execRingEnable_frame (.refl _ s) (within_refl _) func).keepsFloors rfl
  | ringDisable func => exact (execRingDisable_frame (.refl _ s) (within_refl _) func).keepsFloors rfl
  | ringDrained g => exact (execRingDrained_frame (.refl _ s) (within_refl _) g).keepsFloors rfl
  | moderationTimer g => exact (execModerationTimer_frame (.refl _ s) (within_refl _) g).keepsFloors rfl
  | msixUnmask func what => exact (execMsixUnmask_frame (.refl _ s) (within_refl _) func what).keepsFloors rfl
  | vfFunctionLevelReset func => exact (execVfFunctionLevelReset_frame (.refl _ s) (within_refl _) func).keepsFloors rfl
  | vfEnableClear => exact (execVfEnableClear_frame (.refl _ s) (within_refl _)).keepsFloors rfl
  | hostPerst low => exact (execHostPerst_frame (.refl _ s) (within_refl _) low).keepsFloors rfl
  | nop r => exact (execNop_frame (.refl _ s) (within_refl _) r).keepsFloors rfl
  | fateInquiry r wr => exact (execFateInquiry_frame (.refl _ s) (within_refl _) r wr).keepsFloors rfl
  | ping r => exact (execPing_frame (.refl _ s) (within_refl _) r).keepsFloors rfl
  | writApply r rd => exact execWritApply_keepsFloors r rd
  | writSettle r => exact (execWritSettle_frame (.refl _ s) (within_refl _) r).keepsFloors rfl
  | writCheck r rd => exact (execWritCheck_frame (.refl _ s) (within_refl _) r rd).keepsFloors rfl
  | writStatus r wr => exact (execWritStatus_frame (.refl _ s) (within_refl _) r wr).keepsFloors rfl
  | ang0Edge tNs => exact (execAng0Edge_frame (.refl _ s) (within_refl _) tNs).keepsFloors rfl
  | ang1Edge tNs => exact (execAng1Edge_frame (.refl _ s) (within_refl _) tNs).keepsFloors rfl
  | ang2Edge tNs => exact (execAng2Edge_frame (.refl _ s) (within_refl _) tNs).keepsFloors rfl
  | ang3Pulse tNs => exact (execAng3Pulse_frame (.refl _ s) (within_refl _) tNs).keepsFloors rfl
  | crankEdgeTimeout => exact (execCrankEdgeTimeout_frame (.refl _ s) (within_refl _)).keepsFloors rfl
  | wheelPulseTimeout => exact (execWheelPulseTimeout_frame (.refl _ s) (within_refl _)).keepsFloors rfl
  | roadSpeedFrame port ident data => exact (execRoadSpeedFrame_frame (.refl _ s) (within_refl _) port ident data).keepsFloors rfl
  | engineSpeedFrame port ident data => exact (execEngineSpeedFrame_frame (.refl _ s) (within_refl _) port ident data).keepsFloors rfl
  | speedSignalStale engine => exact (execSpeedSignalStale_frame (.refl _ s) (within_refl _) engine).keepsFloors rfl
  | angleSwitchWindowEnd => exact (execAngleSwitchWindowEnd_frame (.refl _ s) (within_refl _)).keepsFloors rfl
  | propHoldExpiry => exact (execPropHoldExpiry_frame (.refl _ s) (within_refl _)).keepsFloors rfl
  | xtal25Loss => exact (execXtal25Loss_frame (.refl _ s) (within_refl _)).keepsFloors rfl
  | clockSwitchWindowEnd recovered => exact execClockSwitchWindowEnd_keepsFloors recovered
  | xtal25Return => exact (execXtal25Return_frame (.refl _ s) (within_refl _)).keepsFloors rfl
  | xtal32kLoss => exact (execXtal32kLoss_frame (.refl _ s) (within_refl _)).keepsFloors rfl
  | xtal32kReturn => exact (execXtal32kReturn_frame (.refl _ s) (within_refl _)).keepsFloors rfl
  | rtcRcCalibrate measured => exact (execRtcRcCalibrate_frame (.refl _ s) (within_refl _) measured).keepsFloors rfl
  | cntEnable func v => exact (execCntEnable_frame (.refl _ s) (within_refl _) func v).keepsFloors rfl
  | cntDisable func v => exact (execCntDisable_frame (.refl _ s) (within_refl _) func v).keepsFloors rfl
  | cntTop func v => exact (execCntTop_frame (.refl _ s) (within_refl _) func v).keepsFloors rfl
  | cntCmp func b v => exact (execCntCmp_frame (.refl _ s) (within_refl _) func b v).keepsFloors rfl
  | compareMatch n b => exact (execCompareMatch_frame (.refl _ s) (within_refl _) n b).keepsFloors rfl
  | captureEdge n rising => exact (execCaptureEdge_frame (.refl _ s) (within_refl _) n rising).keepsFloors rfl
  | cntCapRead func => exact (execCntCapRead_frame (.refl _ s) (within_refl _) func).keepsFloors rfl
  | timeRead r wr => exact (execTimeRead_frame (.refl _ s) (within_refl _) r wr).keepsFloors rfl
  | timeSet r => exact (execTimeSet_frame (.refl _ s) (within_refl _) r).keepsFloors rfl
  | furrowRead r wr => exact (execFurrowRead_frame (.refl _ s) (within_refl _) r wr).keepsFloors rfl
  | presencePoll => exact (execPresencePoll_frame (.refl _ s) (within_refl _)).keepsFloors rfl
  | approachPoll => exact (execApproachPoll_frame (.refl _ s) (within_refl _)).keepsFloors rfl
  | lfSegment => exact (execLfSegment_frame (.refl _ s) (within_refl _)).keepsFloors rfl
  | lfChannelFault ch cond early spareFails =>
    exact (execLfChannelFault_frame (.refl _ s) (within_refl _) ch cond early spareFails).keepsFloors rfl
  | replySlotTrigger => exact (execReplySlotTrigger_frame (.refl _ s) (within_refl _)).keepsFloors rfl
  | replyWindowEnd => exact (execReplyWindowEnd_frame (.refl _ s) (within_refl _)).keepsFloors rfl
  | chalReply replies => exact (execChalReply_frame (.refl _ s) (within_refl _) replies).keepsFloors rfl
  | button frame => exact (execButton_frame (.refl _ s) (within_refl _) frame).keepsFloors rfl
  | soundReport frame => exact (execSoundReport_frame (.refl _ s) (within_refl _) frame).keepsFloors rfl
  | tokenFrameDiscard frame => exact (execTokenFrameDiscard_frame (.refl _ s) (within_refl _) frame).keepsFloors rfl
  | capacitiveTouch e scans => exact (execCapacitiveTouch_frame (.refl _ s) (within_refl _) e scans).keepsFloors rfl
  | touchEnd scans => exact (execTouchEnd_frame (.refl _ s) (within_refl _) scans).keepsFloors rfl
  | electrodeStuck e => exact (execElectrodeStuck_frame (.refl _ s) (within_refl _) e).keepsFloors rfl
  | electrodeUnmask e => exact (execElectrodeUnmask_frame (.refl _ s) (within_refl _) e).keepsFloors rfl
  | capGuardFault g => exact (execCapGuardFault_frame (.refl _ s) (within_refl _) g).keepsFloors rfl
  | uhfPowerCorrection temp errs => exact (execUhfPowerCorrection_frame (.refl _ s) (within_refl _) temp errs).keepsFloors rfl
  | synthFault b => exact (execSynthFault_frame (.refl _ s) (within_refl _) b).keepsFloors rfl
  | soundBurst => exact (execSoundBurst_frame (.refl _ s) (within_refl _)).keepsFloors rfl
  | reportTrigger => exact (execReportTrigger_frame (.refl _ s) (within_refl _)).keepsFloors rfl
  | positionFit fit wr => exact (execPositionFit_frame (.refl _ s) (within_refl _) fit wr).keepsFloors rfl
  | coexGrant => exact (execCoexGrant_frame (.refl _ s) (within_refl _)).keepsFloors rfl
  | coexTimeout => exact (execCoexTimeout_frame (.refl _ s) (within_refl _)).keepsFloors rfl
  | coexGrantFall m => exact (execCoexGrantFall_frame (.refl _ s) (within_refl _) m).keepsFloors rfl
  | coexPriLead => exact (execCoexPriLead_frame (.refl _ s) (within_refl _)).keepsFloors rfl
  | trackAgeExpiry tid => exact (execTrackAgeExpiry_frame (.refl _ s) (within_refl _) tid).keepsFloors rfl
  | locate r => exact (execLocate_frame (.refl _ s) (within_refl _) r).keepsFloors rfl
  | trackRead r wr => exact (execTrackRead_frame (.refl _ s) (within_refl _) r wr).keepsFloors rfl
  | nearEnrol r => exact (execNearEnrol_frame (.refl _ s) (within_refl _) r).keepsFloors rfl
  | nearRemove r => exact (execNearRemove_frame (.refl _ s) (within_refl _) r).keepsFloors rfl
  | nearRead r wr => exact (execNearRead_frame (.refl _ s) (within_refl _) r wr).keepsFloors rfl
  | zoneRead r wr => exact (execZoneRead_frame (.refl _ s) (within_refl _) r wr).keepsFloors rfl
  | start r evidence => exact (execStart_frame (.refl _ s) (within_refl _) r evidence).keepsFloors rfl
  | lockReq r => exact (execLockReq_frame (.refl _ s) (within_refl _) r).keepsFloors rfl
  | lockStatus r wr => exact (execLockStatus_frame (.refl _ s) (within_refl _) r wr).keepsFloors rfl
  | armHoldExpiry => exact (execArmHoldExpiry_frame (.refl _ s) (within_refl _)).keepsFloors rfl
  | ignitionOffDebounce => exact (execIgnitionOffDebounce_frame (.refl _ s) (within_refl _)).keepsFloors rfl
  | releaseWindowExpiry => exact (execReleaseWindowExpiry_frame (.refl _ s) (within_refl _)).keepsFloors rfl
  | lockHoldExpiry => exact (execLockHoldExpiry_frame (.refl _ s) (within_refl _)).keepsFloors rfl
  | slkLedgerRetry => exact (execSlkLedgerRetry_frame (.refl _ s) (within_refl _)).keepsFloors rfl
  | stateFramePeriod => exact (execStateFramePeriod_frame (.refl _ s) (within_refl _)).keepsFloors rfl
  | reconciliation => exact (execReconciliation_frame (.refl _ s) (within_refl _)).keepsFloors rfl
  | canBusOff p => exact (execCanBusOff_frame (.refl _ s) (within_refl _) p).keepsFloors rfl
  | canBusoffRecovery p => exact (execCanBusoffRecovery_frame (.refl _ s) (within_refl _) p).keepsFloors rfl
  | canPortReturn p => exact (execCanPortReturn_frame (.refl _ s) (within_refl _) p).keepsFloors rfl
  | slkMismatch out1 agrees => exact (execSlkMismatch_frame (.refl _ s) (within_refl _) out1 agrees).keepsFloors rfl
  | nfcDetection k amp phase opened shorted =>
    exact (execNfcDetection_frame (.refl _ s) (within_refl _) k amp phase opened shorted).keepsFloors rfl
  | readerRetry k coil => exact (execReaderRetry_frame (.refl _ s) (within_refl _) k coil).keepsFloors rfl
  | cardResponse reader resp wr => exact (execCardResponse_frame (.refl _ s) (within_refl _) reader resp wr).keepsFloors rfl
  | wtxRequest reader wtxm => exact (execWtxRequest_frame (.refl _ s) (within_refl _) reader wtxm).keepsFloors rfl
  | frameWaitExpiry reader => exact (execFrameWaitExpiry_frame (.refl _ s) (within_refl _) reader).keepsFloors rfl
  | cardAuth r => exact (execCardAuth_frame (.refl _ s) (within_refl _) r).keepsFloors rfl
  | sealScan r => exact (execSealScan_frame (.refl _ s) (within_refl _) r).keepsFloors rfl
  | sealSecure r => exact (execSealSecure_frame (.refl _ s) (within_refl _) r).keepsFloors rfl
  | sealOpen r => exact (execSealOpen_frame (.refl _ s) (within_refl _) r).keepsFloors rfl
  | sealRead r => exact (execSealRead_frame (.refl _ s) (within_refl _) r).keepsFloors rfl
  | capRead r wr => exact (execCapRead_frame (.refl _ s) (within_refl _) r wr).keepsFloors rfl
  | iflDetSample p uv => exact execIflDetSample_keepsFloors p uv
  | iflFrameReceived p frame => exact (execIflFrameReceived_frame (.refl _ s) (within_refl _) p frame).keepsFloors rfl
  | soundReq p m => exact (execSoundReq_frame (.refl _ s) (within_refl _) p m).keepsFloors rfl
  | soundFrame p => exact (execSoundFrame_frame (.refl _ s) (within_refl _) p).keepsFloors rfl
  | soundFrameReceived p syms => exact (execSoundFrameReceived_frame (.refl _ s) (within_refl _) p syms).keepsFloors rfl
  | iflLoad p m => exact (execIflLoad_frame (.refl _ s) (within_refl _) p m).keepsFloors rfl
  | loadResend p => exact (execLoadResend_frame (.refl _ s) (within_refl _) p).keepsFloors rfl
  | oldTableHoldEnd p => exact (execOldTableHoldEnd_frame (.refl _ s) (within_refl _) p).keepsFloors rfl
  | soundingPeriod p => exact (execSoundingPeriod_frame (.refl _ s) (within_refl _) p).keepsFloors rfl
  | tick p m => exact (execTick_frame (.refl _ s) (within_refl _) p m).keepsFloors rfl
  | listenWindow p => exact (execListenWindow_frame (.refl _ s) (within_refl _) p).keepsFloors rfl
  | windowExtensionEnd p => exact (execWindowExtensionEnd_frame (.refl _ s) (within_refl _) p).keepsFloors rfl
  | masterSilence p => exact (execMasterSilence_frame (.refl _ s) (within_refl _) p).keepsFloors rfl
  | resyncListen p => exact (execResyncListen_frame (.refl _ s) (within_refl _) p).keepsFloors rfl
  | beacon p => exact execBeacon_keepsFloors p
  | beaconReceived p payload => exact (execBeaconReceived_frame (.refl _ s) (within_refl _) p payload).keepsFloors rfl
  | roll p src payload => exact execRoll_keepsFloors p src payload
  | join p payload => exact execJoin_keepsFloors p payload
  | assign p payload => exact execAssign_keepsFloors p payload
  | joined p payload => exact execJoined_keepsFloors p payload
  | profile p payload => exact execProfile_keepsFloors p payload
  | decoupled p payload => exact execDecoupled_keepsFloors p payload
  | dataFrame p payload => exact execDataFrame_keepsFloors p payload
  | ack p payload => exact (execAck_frame (.refl _ s) (within_refl _) p payload).keepsFloors rfl
  | onwardLost p payload => exact execOnwardLost_keepsFloors p payload
  | resendTimer p => exact execResendTimer_keepsFloors p
  | supplyStepWindowEnd => exact (execSupplyStepWindowEnd_frame (.refl _ s) (within_refl _)).keepsFloors rfl
  | adriftHoldEnd p => exact execAdriftHoldEnd_keepsFloors p
  | readerRequest payload => exact (execReaderRequest_frame (.refl _ s) (within_refl _) payload).keepsFloors rfl
  | lfRequest payload => exact (execLfRequest_frame (.refl _ s) (within_refl _) payload).keepsFloors rfl
  | svcStatus => exact (execSvcStatus_frame (.refl _ s) (within_refl _)).keepsFloors rfl
  | relay r rd => exact (execRelay_frame (.refl _ s) (within_refl _) r rd).keepsFloors rfl
  | chainRead r wr => exact (execChainRead_frame (.refl _ s) (within_refl _) r wr).keepsFloors rfl
  | recv r wr => exact (execRecv_frame (.refl _ s) (within_refl _) r wr).keepsFloors rfl
  | append r rd => exact (execAppend_frame (.refl _ s) (within_refl _) r rd).keepsFloors rfl
  | cusRead r wr => exact (execCusRead_frame (.refl _ s) (within_refl _) r wr).keepsFloors rfl
  | cusScan r wr => exact (execCusScan_frame (.refl _ s) (within_refl _) r wr).keepsFloors rfl
  | cusVerify r => exact (execCusVerify_frame (.refl _ s) (within_refl _) r).keepsFloors rfl
  | cusStatus r wr => exact (execCusStatus_frame (.refl _ s) (within_refl _) r wr).keepsFloors rfl
  | nvmeWriteComplete d ok => exact (execNvmeWriteComplete_frame (.refl _ s) (within_refl _) d ok).keepsFloors rfl
  | nvmeCommandTimeout d => exact (execNvmeCommandTimeout_frame (.refl _ s) (within_refl _) d).keepsFloors rfl
  | nvmeLinkDown d => exact (execNvmeLinkDown_frame (.refl _ s) (within_refl _) d).keepsFloors rfl
  | driveLossDeclaration d => exact (execDriveLossDeclaration_frame (.refl _ s) (within_refl _) d).keepsFloors rfl
  | nvmeFatalStatus d => exact (execNvmeFatalStatus_frame (.refl _ s) (within_refl _) d).keepsFloors rfl
  | nvmeLinkUp d => exact (execNvmeLinkUp_frame (.refl _ s) (within_refl _) d).keepsFloors rfl
  | driveReady d label => exact (execDriveReady_frame (.refl _ s) (within_refl _) d label).keepsFloors rfl
  | driveReadyTimeout d => exact (execDriveReadyTimeout_frame (.refl _ s) (within_refl _) d).keepsFloors rfl
  | driveWear d cause => exact (execDriveWear_frame (.refl _ s) (within_refl _) d cause).keepsFloors rfl
  | reprotection => exact (execReprotection_frame (.refl _ s) (within_refl _)).keepsFloors rfl
  | eviction => exact (execEviction_frame (.refl _ s) (within_refl _)).keepsFloors rfl
  | ledgerSectorFail b => exact execLedgerSectorFail_keepsFloors b
  | sectorRefillDone b => exact (execSectorRefillDone_frame (.refl _ s) (within_refl _) b).keepsFloors rfl
  | ledgercp => exact (execLedgercp_frame (.refl _ s) (within_refl _)).keepsFloors rfl
  | ledgerDrain ready => exact (execLedgerDrain_frame (.refl _ s) (within_refl _) ready).keepsFloors rfl
  | lookup r rd wr => exact (execLookup_frame (.refl _ s) (within_refl _) r rd wr).keepsFloors rfl
  | grant r rd wr => exact (execGrant_frame (.refl _ s) (within_refl _) r rd wr).keepsFloors rfl
  | grantCommit r wr => exact (execGrantCommit_frame (.refl _ s) (within_refl _) r wr).keepsFloors rfl
  | dirLoad r rd => exact (execDirLoad_frame (.refl _ s) (within_refl _) r rd).keepsFloors rfl
  | revoke r => exact (execRevoke_frame (.refl _ s) (within_refl _) r).keepsFloors rfl
  | revokeEpoch r => exact (execRevokeEpoch_frame (.refl _ s) (within_refl _) r).keepsFloors rfl
  | remove r => exact (execRemove_frame (.refl _ s) (within_refl _) r).keepsFloors rfl
  | dirStatus r wr => exact (execDirStatus_frame (.refl _ s) (within_refl _) r wr).keepsFloors rfl
  | dirDeltaCopied => exact (execDirDeltaCopied_frame (.refl _ s) (within_refl _)).keepsFloors rfl
  | epochs payload => exact (execEpochs_frame (.refl _ s) (within_refl _) payload).keepsFloors rfl
  | revoked payload => exact (execRevoked_frame (.refl _ s) (within_refl _) payload).keepsFloors rfl
  | held pos payload => exact (execHeld_frame (.refl _ s) (within_refl _) pos payload).keepsFloors rfl
  | dirRelayLate pos => exact (execDirRelayLate_frame (.refl _ s) (within_refl _) pos).keepsFloors rfl
  | snapshotStart => exact (execSnapshotStart_frame (.refl _ s) (within_refl _)).keepsFloors rfl
  | dirRebuild ok => exact (execDirRebuild_frame (.refl _ s) (within_refl _) ok).keepsFloors rfl
  | keyRoot r => exact (execKeyRoot_frame (.refl _ s) (within_refl _) r).keepsFloors rfl
  | keyDerive r rd => exact (execKeyDerive_frame (.refl _ s) (within_refl _) r rd).keepsFloors rfl
  | keyImport r rd => exact (execKeyImport_frame (.refl _ s) (within_refl _) r rd).keepsFloors rfl
  | keyExport r rd wr => exact (execKeyExport_frame (.refl _ s) (within_refl _) r rd wr).keepsFloors rfl
  | keyClose r => exact (execKeyClose_frame (.refl _ s) (within_refl _) r).keepsFloors rfl
  | keyInfo r wr => exact (execKeyInfo_frame (.refl _ s) (within_refl _) r wr).keepsFloors rfl
  | keyPublic r wr => exact (execKeyPublic_frame (.refl _ s) (within_refl _) r wr).keepsFloors rfl
  | encrypt r rd wr => exact (execEncrypt_frame (.refl _ s) (within_refl _) r rd wr).keepsFloors rfl
  | decrypt r rd wr => exact (execDecrypt_frame (.refl _ s) (within_refl _) r rd wr).keepsFloors rfl
  | mac r rd wr => exact (execMac_frame (.refl _ s) (within_refl _) r rd wr).keepsFloors rfl
  | macVerify r rd => exact (execMacVerify_frame (.refl _ s) (within_refl _) r rd).keepsFloors rfl
  | sealCcm r rd wr => exact (execSealCcm_frame (.refl _ s) (within_refl _) r rd wr).keepsFloors rfl
  | openCcm r rd wr => exact (execOpenCcm_frame (.refl _ s) (within_refl _) r rd wr).keepsFloors rfl
  | laneFault lane op => exact (execLaneFault_frame (.refl _ s) (within_refl _) lane op).keepsFloors rfl
  | laneRetest lane pass => exact (execLaneRetest_frame (.refl _ s) (within_refl _) lane pass).keepsFloors rfl
  | laneOverheat lane => exact (execLaneOverheat_frame (.refl _ s) (within_refl _) lane).keepsFloors rfl
  | laneCooled lane temp => exact (execLaneCooled_frame (.refl _ s) (within_refl _) lane temp).keepsFloors rfl
  | tamperMesh m => exact execTamperMesh_keepsFloors m
  | light => exact execLight_keepsFloors
  | voltageGlitch => exact execVoltageGlitch_keepsFloors
  | clockGlitch => exact execClockGlitch_keepsFloors
  | temperatureTamper => exact (execTemperatureTamper_frame (.refl _ s) (within_refl _)).keepsFloors rfl
  | alarmHoldEnd => exact (execAlarmHoldEnd_frame (.refl _ s) (within_refl _)).keepsFloors rfl
  | pkeVerify r rd => exact (execPkeVerify_frame (.refl _ s) (within_refl _) r rd).keepsFloors rfl
  | pointCheck r rd => exact (execPointCheck_frame (.refl _ s) (within_refl _) r rd).keepsFloors rfl
  | hash r rd wr => exact (execHash_frame (.refl _ s) (within_refl _) r rd wr).keepsFloors rfl
  | random r wr => exact (execRandom_frame (.refl _ s) (within_refl _) r wr).keepsFloors rfl
  | rngStatus r wr => exact (execRngStatus_frame (.refl _ s) (within_refl _) r wr).keepsFloors rfl
  | rngSourceFailure src cause => exact (execRngSourceFailure_frame (.refl _ s) (within_refl _) src cause).keepsFloors rfl
  | rngHealthCheck live locked => exact (execRngHealthCheck_frame (.refl _ s) (within_refl _) live locked).keepsFloors rfl
  | sourceReturn src => exact (execSourceReturn_frame (.refl _ s) (within_refl _) src).keepsFloors rfl
  | drbgReseed => exact (execDrbgReseed_frame (.refl _ s) (within_refl _)).keepsFloors rfl
  | rngSelfTestEnd pass kat => exact (execRngSelfTestEnd_frame (.refl _ s) (within_refl _) pass kat).keepsFloors rfl
  | hashEngineFault e => exact (execHashEngineFault_frame (.refl _ s) (within_refl _) e).keepsFloors rfl
  | stage r rd flash => exact execStage_keepsFloors r rd flash
  | push r => exact execPush_keepsFloors r
  | schedule r => exact execSchedule_keepsFloors r
  | cancel r => exact execCancel_keepsFloors r
  | cfgWrite r rd body flashOk => exact execCfgWrite_keepsFloors r rd body flashOk
  | updStatus r wr => exact (execUpdStatus_frame (.refl _ s) (within_refl _) r wr).keepsFloors rfl
  | offer src payload => exact execOffer_keepsFloors src payload
  | need src payload => exact execNeed_keepsFloors src payload
  | piece src payload flash => exact execPiece_keepsFloors src payload flash
  | transportStatus src payload => exact execTransportStatus_keepsFloors src payload
  | sched src payload => exact execSched_keepsFloors src payload
  | unsched src payload => exact execUnsched_keepsFloors src payload
  | needTimer => exact execNeedTimer_keepsFloors
  | transferAbandon => exact execTransferAbandon_keepsFloors
  | schedRepeat => exact execSchedRepeat_keepsFloors
  | activationCommit => exact execActivationCommit_keepsFloors
  | activationLapse => exact execActivationLapse_keepsFloors
  | handoverShadowReady => exact execHandoverShadowReady_keepsFloors
  | handoverTimeout => exact execHandoverTimeout_keepsFloors
  | handoverHoldEnd => exact execHandoverHoldEnd_keepsFloors
  | updHearthGo func v image => exact execUpdHearthGo_keepsFloors func v image
  | updHearthRevert func v => exact execUpdHearthRevert_keepsFloors func v
  | hearthCanFrame ident data => exact execHearthCanFrame_keepsFloors ident data
  | hearthCanStatus => exact execHearthCanStatus_keepsFloors
  | hearthDownloadEnd flash => exact execHearthDownloadEnd_keepsFloors flash
  | sramEccError bank row col uncorr owner => exact execSramEccError_keepsFloors bank row col uncorr owner
  | wakeStuck pin => exact (execWakeStuck_frame (.refl _ s) (within_refl _) pin).keepsFloors rfl
  | wakeUnmask pin => exact (execWakeUnmask_frame (.refl _ s) (within_refl _) pin).keepsFloors rfl
  | coexGntStuck m => exact (execCoexGntStuck_frame (.refl _ s) (within_refl _) m).keepsFloors rfl
  | pmicRecoveryRetry freed => exact (execPmicRecoveryRetry_frame (.refl _ s) (within_refl _) freed).keepsFloors rfl
  | pmicIrqStuck low => exact (execPmicIrqStuck_frame (.refl _ s) (within_refl _) low).keepsFloors rfl
  | faultRead r wr => exact (execFaultRead_frame (.refl _ s) (within_refl _) r wr).keepsFloors rfl
  | unitTest r pass => exact (execUnitTest_frame (.refl _ s) (within_refl _) r pass).keepsFloors rfl
  | bypass r => exact execBypass_keepsFloors r
  | restore r pass => exact (execRestore_frame (.refl _ s) (within_refl _) r pass).keepsFloors rfl
  | scrub r found => exact (execScrub_frame (.refl _ s) (within_refl _) r found).keepsFloors rfl
  | driveDrain r => exact (execDriveDrain_frame (.refl _ s) (within_refl _) r).keepsFloors rfl
  | driveAdmit r => exact (execDriveAdmit_frame (.refl _ s) (within_refl _) r).keepsFloors rfl
  | service r => exact (execService_frame (.refl _ s) (within_refl _) r).keepsFloors rfl
  | sysReset func v => exact execSysReset_keepsFloors func v
  | sysLockSetup func v => exact (execSysLockSetup_frame (.refl _ s) (within_refl _) func v).keepsFloors rfl
  | highHalfLatch func off size => exact (execHighHalfLatch_frame (.refl _ s) (within_refl _) func off size).keepsFloors rfl
  | registerWrite func off size v => exact execRegisterWrite_keepsFloors func off size v
  | thermalGovernor temp => exact (execThermalGovernor_frame (.refl _ s) (within_refl _) temp).keepsFloors rfl
  | upstreamNeighbourLost p => exact (execUpstreamNeighbourLost_frame (.refl _ s) (within_refl _) p).keepsFloors rfl
  | publicKeyEngineFault => exact (execPublicKeyEngineFault_frame (.refl _ s) (within_refl _)).keepsFloors rfl
  | countReachesZero n => exact (execCountReachesZero_frame (.refl _ s) (within_refl _) n).keepsFloors rfl

/-- A confirmation records the greater of SEC_FLOOR and the image's SEC_VERSION, in the journal and in the ledger. -/
theorem confirm_floors (b) : (confirm b s).upd.floors =
    (max (secFloor s) (hSecVer (slotHead (getSlot s b))), max (secFloor s) (hSecVer (slotHead (getSlot s b)))) := by
  simp [confirm]

theorem floors_le_confirm (b) : s.upd.floors ≤ (confirm b s).upd.floors := by
  rw [confirm_floors, Prod.le_def]
  simp only [Upd.floors, secFloor]
  omega

theorem floors_le_of_trialConfirm (h : exec .trialConfirm s = .next t) : s.upd.floors ≤ t.upd.floors := by
  rw [← Host.Outcome.next.inj h]
  split
  next since b _ _ =>
    split
    · extract_lets later
      have later_floors : later.upd.floors = s.upd.floors := by simp [later]
      split
      · exact later_floors.ge.trans (floors_le_confirm b)
      · exact later_floors.ge
    · exact le_rfl
  next => exact le_rfl

theorem floors_le_of_step (h : step s = .next t) : s.upd.floors ≤ t.upd.floors := by
  unfold step at h
  split at h
  · rw [← Host.Outcome.next.inj h]
    exact idle_floors.ge
  next c rest _ =>
    by_cases hc : c = .trialConfirm
    · subst hc
      exact floors_le_of_trialConfirm (s := { s with pending := rest }) h
    · exact (exec_keepsFloors hc t h).ge

theorem secFloor_mono (h : s.upd.floors ≤ t.upd.floors) : secFloor s ≤ secFloor t := max_le_max h.1 h.2

/-- Check 5 of R545 at a start-up: a head below SEC_FLOOR does not pass. -/
theorem bootCheck_ne_none_of_lt {h : Bytes} (hv : hSecVer h < secFloor s) : bootCheck s h ≠ none := by
  unfold bootCheck
  extract_lets sg
  rw [if_pos hv]
  (repeat' split) <;> simp

/-- Settles O49: no command but the confirmation of a trial moves either value of SEC_FLOOR, and that one raises both to the greatest
of the two and the image's SEC_VERSION; the start-up's check compares with the greater of the two, so it refuses a head below either;
and the AON loss leaves the update engine's block as it is. -/
theorem secFloorNeverDecreases : Obligations.SecFloorNeverDecreases := by
  refine ⟨fun s t h => ?_, fun s h hv => bootCheck_ne_none_of_lt (lt_max_iff.mpr hv), fun s => ?_⟩
  · have hle := floors_le_of_step h
    exact ⟨hle.1, hle.2, secFloor_mono hle⟩
  · have hupd := ((execAonLoss_frame (.refl _ s) (within_refl _)).out _ rfl).upd rfl
    exact ⟨_, rfl, congrArg Upd.secFloor hupd, congrArg Upd.ledgerFloor hupd⟩

end Sys2Proof.Machine

/-! Fault records: what writing one leaves in the FLT block, in the ledger and to be sent, how faults are counted, and the two statements
about them (R568, R571). -/

namespace Sys2Proof.Machine

variable {s : State} {ty ix code sev action detail arg : Nat}

/-! ### The vector of a function -/

/-- A message leaves the FLT block and the ledger as they were. -/
@[simp] theorem sendMsix_flt (func vec : Nat) : (sendMsix func vec s).flt = s.flt :=
  (sendMsix_frame (.refl _ s) (within_refl _) func vec).flt rfl

@[simp] theorem sendMsix_led (func vec : Nat) : (sendMsix func vec s).led = s.led :=
  (sendMsix_frame (.refl _ s) (within_refl _) func vec).led rfl

/-- A vector that is open sends its message at once (R134). -/
theorem sendMsix_of_open {func vec : Nat} (hv : vec < vecsOf s func) (ho : vecOpen s func vec = true) :
    sendMsix func vec s = emit (.msix func vec (getVec s func vec).addr.toNat (getVec s func vec).data.toNat) s := by
  rw [sendMsix, if_pos hv, if_pos ho]

/-- A vector that is not open is held as its pending bit (R136). -/
theorem sendMsix_of_not_open {func vec : Nat} (hv : vec < vecsOf s func) (ho : ¬ vecOpen s func vec = true) :
    sendMsix func vec s = modVec func vec (fun v => { v with pending := true }) s := by
  rw [sendMsix, if_pos hv, if_neg ho]

/-! ### TIME_MONO -/

/-- TIME_MONO reads the power mode, the time and what the RTC took over, all three outside the parts a fault record may touch. -/
theorem Frame.monoUs_eq {ps : List Part} {t : State} (h : Frame ps s t) (hpwr : ps.contains .pwr = false)
    (htime : ps.contains .time = false) (hclk : ps.contains .clk = false) : monoUs t = monoUs s := by
  have hfrom := congrArg Clk.rtcFrom (h.part .clk hclk)
  change t.clk.rtcFrom = s.clk.rtcFrom at hfrom
  rw [monoUs, monoUs, onRtc, onRtc, h.pwr hpwr, h.time htime, hfrom]

@[simp] theorem monoUs_writeFault : monoUs (writeFault ty ix code sev action detail arg s) = monoUs s :=
  (writeFault_frame (.refl _ s) (within_refl _) ..).monoUs_eq rfl rfl rfl

/-! ### A record written -/

/-- The record of a fault found now (R567). -/
def faultRecord (ty ix code sev action detail arg : Nat) (s : State) : FaultRec where
  no := s.flt.lastNo + 1
  tMono := monoUs s
  unitType := ty
  unitIndex := ix
  code := code
  severity := sev
  action := action
  detail := detail
  count := faultCount s (ty * 256 + ix) code
  arg := arg

/-- The state with a fault record in the ledger and among the last 4,096, and its event bits set. -/
def withRecord (x : FaultRec) (s : State) : State :=
  modFlt (fun b => { b with
    faults := (b.faults ++ [x]).drop (b.faults.length + 1 - 4096)
    lastNo := x.no
    events := faultEvents b.events x.code x.severity x.action }) (logRec (.fault x.no) s)

/-- Sends FLT_IRQ_VEC for a record whose SEVERITY reaches FLT_IRQ_SEV, while FLT_IRQ_EN is 1 (R571). -/
def announce (sev : Nat) (s : State) : State :=
  onlyIf (s.flt.irqEn && decide (s.flt.irqSev.toNat ≤ sev)) (sendMsix 0 s.flt.irqVec.toNat) s

/-- With room in the log, writing a fault record adds it and then announces it. -/
theorem writeFault_of_canLog (h : canLog (.fault (s.flt.lastNo + 1)) s = true) :
    writeFault ty ix code sev action detail arg s =
      announce sev (withRecord (faultRecord ty ix code sev action detail arg s) s) :=
  if_pos h

/-! ### The record in the FLT block and in the ledger -/

theorem withRecord_flt (x : FaultRec) : (withRecord x s).flt = { s.flt with
    faults := (s.flt.faults ++ [x]).drop (s.flt.faults.length + 1 - 4096)
    lastNo := x.no
    events := faultEvents s.flt.events x.code x.severity x.action } := by
  rw [withRecord, modFlt_flt, logRec_flt]

theorem withRecord_lsn (x : FaultRec) : (withRecord x s).led.lsn = s.led.lsn + 1 := by
  rw [withRecord, modFlt_led]
  rfl

@[simp] theorem announce_flt : (announce sev s).flt = s.flt := by
  rw [announce, onlyIf]
  split
  · exact sendMsix_flt ..
  · rfl

@[simp] theorem announce_led : (announce sev s).led = s.led := by
  rw [announce, onlyIf]
  split
  · exact sendMsix_led ..
  · rfl

theorem writeFault_flt (h : canLog (.fault (s.flt.lastNo + 1)) s = true) :
    (writeFault ty ix code sev action detail arg s).flt =
      (withRecord (faultRecord ty ix code sev action detail arg s) s).flt := by
  rw [writeFault_of_canLog h, announce_flt]

theorem writeFault_lastNo (h : canLog (.fault (s.flt.lastNo + 1)) s = true) :
    (writeFault ty ix code sev action detail arg s).flt.lastNo = s.flt.lastNo + 1 := by
  rw [writeFault_flt h, withRecord_flt, faultRecord]

theorem writeFault_events (h : canLog (.fault (s.flt.lastNo + 1)) s = true) :
    (writeFault ty ix code sev action detail arg s).flt.events = faultEvents s.flt.events code sev action := by
  rw [writeFault_flt h, withRecord_flt, faultRecord]

theorem writeFault_lsn (h : canLog (.fault (s.flt.lastNo + 1)) s = true) :
    (writeFault ty ix code sev action detail arg s).led.lsn = s.led.lsn + 1 := by
  rw [writeFault_of_canLog h, announce_led, withRecord_lsn]

/-- The record stands last among the 4,096 kept. -/
theorem getLast?_faults_writeFault (h : canLog (.fault (s.flt.lastNo + 1)) s = true) :
    (writeFault ty ix code sev action detail arg s).flt.faults.getLast? =
      some (faultRecord ty ix code sev action detail arg s) := by
  have hkept : ¬ (s.flt.faults ++ [faultRecord ty ix code sev action detail arg s]).length ≤ s.flt.faults.length + 1 - 4096 := by
    rw [List.length_append, List.length_singleton]
    omega
  rw [writeFault_flt h, withRecord_flt, List.getLast?_drop, if_neg hkept, List.getLast?_concat]

/-! ### Events -/

/-- Every record sets FLT_NEW_EV: no later bit of the record's clears it. -/
theorem faultEvents_new (ev : BitVec 8) : (faultEvents ev code sev action).getLsbD 0 = true := by
  simp only [faultEvents]
  split_ifs <;> simp [setBits_getLsbD]

/-- A record of SEVERITY ALARM sets FLT_TAMPER_EV. -/
theorem faultEvents_tamper (ev : BitVec 8) : (faultEvents ev code sAlarm action).getLsbD 5 = true := by
  simp only [faultEvents, if_true]
  split_ifs <;> simp [setBits_getLsbD]

/-! ### The message of a record -/

/-- A record below FLT_IRQ_SEV, or while FLT_IRQ_EN is 0, sends nothing. -/
theorem announce_of_quiet (h : s.flt.irqEn = false ∨ sev < s.flt.irqSev.toNat) : announce sev s = s := by
  obtain hen | hsev := h
  · simp [announce, onlyIf, hen]
  · simp [announce, onlyIf, Nat.not_le.mpr hsev]

theorem announce_of_reached (hen : s.flt.irqEn = true) (hsev : s.flt.irqSev.toNat ≤ sev) :
    announce sev s = sendMsix 0 s.flt.irqVec.toNat s := by
  simp [announce, onlyIf, hen, hsev]

@[simp] theorem withRecord_outs (x : FaultRec) : (withRecord x s).outs = s.outs := by
  rw [withRecord, modFlt_outs, logRec_outs]

@[simp] theorem withRecord_host (x : FaultRec) : (withRecord x s).host = s.host := by
  rw [withRecord, modFlt_host, logRec_host]

@[simp] theorem withRecord_pwr (x : FaultRec) : (withRecord x s).pwr = s.pwr := by
  rw [withRecord, modFlt_pwr, logRec_pwr]

@[simp] theorem vecsOf_withRecord (x : FaultRec) (func : Nat) : vecsOf (withRecord x s) func = vecsOf s func := by
  rw [vecsOf, vecsOf, withRecord, modFlt_slc, logRec_slc]

@[simp] theorem getVec_withRecord (x : FaultRec) (func vec : Nat) : getVec (withRecord x s) func vec = getVec s func vec := by
  rw [getVec, getVec, withRecord_host]

/-- Whether a vector's message goes out at once does not depend on the record. -/
@[simp] theorem vecOpen_withRecord (x : FaultRec) (func vec : Nat) : vecOpen (withRecord x s) func vec = vecOpen s func vec := by
  simp [vecOpen, getFunc, linkUp]

/-- Settles O50: with room in the log `writeFault` is `withRecord`, which changes neither the vectors nor what they depend on, followed by
`sendMsix` exactly when FLT_IRQ_EN is 1 and SEVERITY reaches FLT_IRQ_SEV. -/
theorem newFaultRecord : Obligations.NewFaultRecord := by
  rintro ty ix code sev action detail arg s t h rfl
  refine ⟨writeFault_lastNo h, writeFault_lsn h ▸ Nat.lt_succ_self _, writeFault_events h ▸ faultEvents_new _,
    ⟨_, getLast?_faults_writeFault h, rfl, rfl, rfl, rfl, rfl, rfl, rfl, rfl, rfl⟩, ?_, fun hen hsev hvec => ?_, fun hquiet => ?_⟩
  · rintro rfl
    exact writeFault_events h ▸ faultEvents_tamper _
  · rw [writeFault_of_canLog h, announce_of_reached (by rwa [withRecord_flt]) (by rwa [withRecord_flt]), withRecord_flt]
    split
    case isTrue ho => simp [sendMsix_of_open, hvec, ho]
    case isFalse ho => simp [sendMsix_of_not_open, hvec, ho]
  · rw [writeFault_of_canLog h, announce_of_quiet (by rwa [withRecord_flt]), withRecord_outs, withRecord_host]
    exact ⟨rfl, rfl⟩

/-! ### One record per second -/

/-- Counts a fault of a unit and CODE, whether it is recorded or not. -/
def countFault (at_ unit code : Nat) : State → State :=
  modFlt (fun b => { b with hits := b.hits ++ [{ at_ := at_, unit := unit, code := code }] })

/-- A fault is counted, and recorded unless its unit and CODE have used the record of this second (R568). -/
theorem fault_eq : fault ty ix code sev action detail arg s = countFault (monoUs s) (ty * 256 + ix) code
    (if faultLimited s ty ix code then s else writeFault ty ix code sev action detail arg s) := rfl

theorem fault_of_limited (h : faultLimited s ty ix code = true) :
    fault ty ix code sev action detail arg s = countFault (monoUs s) (ty * 256 + ix) code s := by
  rw [fault_eq, if_pos h]

theorem fault_of_not_limited (h : faultLimited s ty ix code = false) :
    fault ty ix code sev action detail arg s =
      countFault (monoUs s) (ty * 256 + ix) code (writeFault ty ix code sev action detail arg s) := by
  rw [fault_eq, h, if_neg Bool.false_ne_true]

/-- A change of a unit's service state is counted and recorded, with no limit (R568). -/
theorem changeUnit_eq {u : UnitSt} : changeUnit ty ix u code sev action detail arg s = countFault (monoUs s) (ty * 256 + ix) code
    (writeFault ty ix code sev action detail arg (setUnit ty ix u s)) := rfl

@[simp] theorem countFault_faults (at_ unit : Nat) : (countFault at_ unit code s).flt.faults = s.flt.faults := rfl

@[simp] theorem countFault_lastNo (at_ unit : Nat) : (countFault at_ unit code s).flt.lastNo = s.flt.lastNo := rfl

/-- A fault counted leaves the limit of R568, which looks at the records, as it was. -/
@[simp] theorem faultLimited_countFault (at_ unit cd : Nat) :
    faultLimited (countFault at_ unit cd s) ty ix code = faultLimited s ty ix code := rfl

/-- A fault counted now raises COUNT of its unit and CODE by one, up to 0xFFFF (R567). -/
theorem faultCount_countFault (unit : Nat) :
    faultCount (countFault (monoUs s) unit code s) unit code = min 0xFFFF (faultCount s unit code + 1) := by
  have hmono : monoUs (countFault (monoUs s) unit code s) = monoUs s := rfl
  have hhits : (countFault (monoUs s) unit code s).flt.hits = s.flt.hits ++ [{ at_ := monoUs s, unit := unit, code := code }] := rfl
  have hnew : ([{ at_ := monoUs s, unit := unit, code := code }] : List FaultHit).filter (fun h =>
      h.unit == unit && h.code == code && decide (monoUs s < h.at_ + 86400000000)) =
      [{ at_ := monoUs s, unit := unit, code := code }] := by simp
  simp only [faultCount, hmono, hhits, List.filter_append, hnew, List.length_append, List.length_singleton]
  omega

/-- A record written uses up its second (R568). -/
theorem faultLimited_writeFault (h : canLog (.fault (s.flt.lastNo + 1)) s = true) :
    faultLimited (writeFault ty ix code sev action detail arg s) ty ix code = true := by
  have hmem := List.mem_of_getLast? (getLast?_faults_writeFault (ty := ty) (ix := ix) (code := code) (sev := sev) (action := action)
    (detail := detail) (arg := arg) h)
  rw [faultLimited, List.any_eq_true, monoUs_writeFault]
  exact ⟨_, hmem, by simp [faultRecord]⟩

/-- Settles O51: a limited fault is only counted; another writes a record that carries the count and from then on limits its unit and
CODE; a change of a unit's service state writes its record without asking for the limit. -/
theorem oneFaultRecordPerSecond : Obligations.OneFaultRecordPerSecond := by
  refine ⟨fun ty ix code sev action detail arg s hlim => ?_, fun ty ix code sev action detail arg s h hfree => ?_,
    fun kind ix u code sev action detail arg s h => ?_⟩
  · rw [fault_of_limited hlim]
    refine ⟨rfl, rfl, fun hcount => ?_⟩
    rw [faultCount_countFault]
    omega
  · rw [fault_of_not_limited hfree, countFault_faults, faultLimited_countFault]
    exact ⟨_, getLast?_faults_writeFault h, rfl, rfl, faultLimited_writeFault h⟩
  · have hset : canLog (.fault ((setUnit kind ix u s).flt.lastNo + 1)) (setUnit kind ix u s) = true := h
    rw [changeUnit_eq, countFault_lastNo, countFault_faults]
    exact ⟨writeFault_lastNo hset, _, getLast?_faults_writeFault hset, rfl, rfl, rfl⟩

end Sys2Proof.Machine

/-! What every command answers, what it may touch and what it keeps, put together from the laws about the commands' meanings, and the
statements about a step as such. -/

namespace Sys2Proof.Machine

variable {s t : State}

/-- No command faults and none is refused (log entry 2). -/
theorem exec_answers (c : Instr) (s : State) : ∃ t, exec c s = .next t := by
  cases c <;> exact ⟨_, rfl⟩

/-- Every command stays in the parts that `touches` lists. Each law is elaborated without the expected type, which is quicker to check. -/
theorem exec_frame (c : Instr) : OutFrame (touches c) s (exec c s) := by
  cases c with
  | vaonGood => exact (execVaonGood_frame (.refl _ s) (within_refl _) :)
  | vaonBrownOut => exact (execVaonBrownOut_frame (.refl _ s) (within_refl _) :)
  | aonSupplyChangeover => exact (execAonSupplyChangeover_frame (.refl _ s) (within_refl _) :)
  | aonLoss => exact (execAonLoss_frame (.refl _ s) (within_refl _) :)
  | vkeepLow mv => exact (execVkeepLow_frame (.refl _ s) (within_refl _) mv :)
  | vcoreBrownOut vsram => exact (execVcoreBrownOut_frame (.refl _ s) (within_refl _) vsram :)
  | dramRailFault vddq => exact (execDramRailFault_frame (.refl _ s) (within_refl _) vddq :)
  | portRailFault rail => exact (execPortRailFault_frame (.refl _ s) (within_refl _) rail :)
  | linkRailFault serdes => exact (execLinkRailFault_frame (.refl _ s) (within_refl _) serdes :)
  | railGoodReturn rail => exact (execRailGoodReturn_frame (.refl _ s) (within_refl _) rail :)
  | enableGroupGood g => exact (execEnableGroupGood_frame (.refl _ s) (within_refl _) g :)
  | enableGroupTimeout g => exact (execEnableGroupTimeout_frame (.refl _ s) (within_refl _) g :)
  | fuseLoadEnd => exact (execFuseLoadEnd_frame (.refl _ s) (within_refl _) :)
  | configurationLoad bad => exact (execConfigurationLoad_frame (.refl _ s) (within_refl _) bad :)
  | ledgerReplay aGood bGood => exact (execLedgerReplay_frame (.refl _ s) (within_refl _) aGood bGood :)
  | warmReset flr => exact (execWarmReset_frame (.refl _ s) (within_refl _) flr :)
  | watchdogExpiry => exact (execWatchdogExpiry_frame (.refl _ s) (within_refl _) :)
  | checkpoint => exact (execCheckpoint_frame (.refl _ s) (within_refl _) :)
  | stewardTakeover cause => exact (execStewardTakeover_frame (.refl _ s) (within_refl _) cause :)
  | pairSelfTestEnd pass => exact (execPairSelfTestEnd_frame (.refl _ s) (within_refl _) pass :)
  | shadowTestSlice pass => exact (execShadowTestSlice_frame (.refl _ s) (within_refl _) pass :)
  | pwrParkReq func => exact (execPwrParkReq_frame (.refl _ s) (within_refl _) func :)
  | pwrParkCancel func => exact (execPwrParkCancel_frame (.refl _ s) (within_refl _) func :)
  | parkedEntryIdle => exact (execParkedEntryIdle_frame (.refl _ s) (within_refl _) :)
  | parkedEntryDrained => exact (execParkedEntryDrained_frame (.refl _ s) (within_refl _) :)
  | driveShutdownComplete done => exact (execDriveShutdownComplete_frame (.refl _ s) (within_refl _) done :)
  | wakePinCrossing pin above => exact (execWakePinCrossing_frame (.refl _ s) (within_refl _) pin above :)
  | wakeEvent pin => exact (execWakeEvent_frame (.refl _ s) (within_refl _) pin :)
  | nearListRestored => exact (execNearListRestored_frame (.refl _ s) (within_refl _) :)
  | wakeWindowEnd => exact (execWakeWindowEnd_frame (.refl _ s) (within_refl _) :)
  | dsenseChange d high => exact (execDsenseChange_frame (.refl _ s) (within_refl _) d high :)
  | dormancyHour => exact (execDormancyHour_frame (.refl _ s) (within_refl _) :)
  | lowBattery => exact (execLowBattery_frame (.refl _ s) (within_refl _) :)
  | rtcAlarm => exact (execRtcAlarm_frame (.refl _ s) (within_refl _) :)
  | pwrAlarmS func v => exact (execPwrAlarmS_frame (.refl _ s) (within_refl _) func v :)
  | wakeSlicePowerDown => exact (execWakeSlicePowerDown_frame (.refl _ s) (within_refl _) :)
  | driveExit => exact (execDriveExit_frame (.refl _ s) (within_refl _) :)
  | serviceEnd => exact (execServiceEnd_frame (.refl _ s) (within_refl _) :)
  | debugDurationEnd => exact (execDebugDurationEnd_frame (.refl _ s) (within_refl _) :)
  | slotConsume heads => exact (execSlotConsume_frame (.refl _ s) (within_refl _) heads :)
  | classBoundExpiry r => exact (execClassBoundExpiry_frame (.refl _ s) (within_refl _) r :)
  | completionWrite g => exact (execCompletionWrite_frame (.refl _ s) (within_refl _) g :)
  | consumerIndexWriteback g => exact (execConsumerIndexWriteback_frame (.refl _ s) (within_refl _) g :)
  | doorbellHrPi func ten j v => exact (execDoorbellHrPi_frame (.refl _ s) (within_refl _) func ten j v :)
  | doorbellTrCi func ten j v => exact (execDoorbellTrCi_frame (.refl _ s) (within_refl _) func ten j v :)
  | descriptorReadFailed g => exact (execDescriptorReadFailed_frame (.refl _ s) (within_refl _) g :)
  | tailraceWriteRefused g writeback => exact (execTailraceWriteRefused_frame (.refl _ s) (within_refl _) g writeback :)
  | ringEnable func => exact (execRingEnable_frame (.refl _ s) (within_refl _) func :)
  | ringDisable func => exact (execRingDisable_frame (.refl _ s) (within_refl _) func :)
  | ringDrained g => exact (execRingDrained_frame (.refl _ s) (within_refl _) g :)
  | moderationTimer g => exact (execModerationTimer_frame (.refl _ s) (within_refl _) g :)
  | msixUnmask func what => exact (execMsixUnmask_frame (.refl _ s) (within_refl _) func what :)
  | vfFunctionLevelReset func => exact (execVfFunctionLevelReset_frame (.refl _ s) (within_refl _) func :)
  | vfEnableClear => exact (execVfEnableClear_frame (.refl _ s) (within_refl _) :)
  | hostPerst low => exact (execHostPerst_frame (.refl _ s) (within_refl _) low :)
  | nop r => exact (execNop_frame (.refl _ s) (within_refl _) r :)
  | fateInquiry r wr => exact (execFateInquiry_frame (.refl _ s) (within_refl _) r wr :)
  | ping r => exact (execPing_frame (.refl _ s) (within_refl _) r :)
  | writApply r rd => exact (execWritApply_frame (.refl _ s) (within_refl _) r rd :)
  | writSettle r => exact (execWritSettle_frame (.refl _ s) (within_refl _) r :)
  | writCheck r rd => exact (execWritCheck_frame (.refl _ s) (within_refl _) r rd :)
  | writStatus r wr => exact (execWritStatus_frame (.refl _ s) (within_refl _) r wr :)
  | ang0Edge tNs => exact (execAng0Edge_frame (.refl _ s) (within_refl _) tNs :)
  | ang1Edge tNs => exact (execAng1Edge_frame (.refl _ s) (within_refl _) tNs :)
  | ang2Edge tNs => exact (execAng2Edge_frame (.refl _ s) (within_refl _) tNs :)
  | ang3Pulse tNs => exact (execAng3Pulse_frame (.refl _ s) (within_refl _) tNs :)
  | crankEdgeTimeout => exact (execCrankEdgeTimeout_frame (.refl _ s) (within_refl _) :)
  | wheelPulseTimeout => exact (execWheelPulseTimeout_frame (.refl _ s) (within_refl _) :)
  | roadSpeedFrame port ident data => exact (execRoadSpeedFrame_frame (.refl _ s) (within_refl _) port ident data :)
  | engineSpeedFrame port ident data => exact (execEngineSpeedFrame_frame (.refl _ s) (within_refl _) port ident data :)
  | speedSignalStale engine => exact (execSpeedSignalStale_frame (.refl _ s) (within_refl _) engine :)
  | angleSwitchWindowEnd => exact (execAngleSwitchWindowEnd_frame (.refl _ s) (within_refl _) :)
  | propHoldExpiry => exact (execPropHoldExpiry_frame (.refl _ s) (within_refl _) :)
  | xtal25Loss => exact (execXtal25Loss_frame (.refl _ s) (within_refl _) :)
  | clockSwitchWindowEnd recovered => exact (execClockSwitchWindowEnd_frame (.refl _ s) (within_refl _) recovered :)
  | xtal25Return => exact (execXtal25Return_frame (.refl _ s) (within_refl _) :)
  | xtal32kLoss => exact (execXtal32kLoss_frame (.refl _ s) (within_refl _) :)
  | xtal32kReturn => exact (execXtal32kReturn_frame (.refl _ s) (within_refl _) :)
  | rtcRcCalibrate measured => exact (execRtcRcCalibrate_frame (.refl _ s) (within_refl _) measured :)
  | cntEnable func v => exact (execCntEnable_frame (.refl _ s) (within_refl _) func v :)
  | cntDisable func v => exact (execCntDisable_frame (.refl _ s) (within_refl _) func v :)
  | cntTop func v => exact (execCntTop_frame (.refl _ s) (within_refl _) func v :)
  | cntCmp func b v => exact (execCntCmp_frame (.refl _ s) (within_refl _) func b v :)
  | compareMatch n b => exact (execCompareMatch_frame (.refl _ s) (within_refl _) n b :)
  | captureEdge n rising => exact (execCaptureEdge_frame (.refl _ s) (within_refl _) n rising :)
  | cntCapRead func => exact (execCntCapRead_frame (.refl _ s) (within_refl _) func :)
  | timeRead r wr => exact (execTimeRead_frame (.refl _ s) (within_refl _) r wr :)
  | timeSet r => exact (execTimeSet_frame (.refl _ s) (within_refl _) r :)
  | furrowRead r wr => exact (execFurrowRead_frame (.refl _ s) (within_refl _) r wr :)
  | presencePoll => exact (execPresencePoll_frame (.refl _ s) (within_refl _) :)
  | approachPoll => exact (execApproachPoll_frame (.refl _ s) (within_refl _) :)
  | lfSegment => exact (execLfSegment_frame (.refl _ s) (within_refl _) :)
  | lfChannelFault ch cond early spareFails => exact (execLfChannelFault_frame (.refl _ s) (within_refl _) ch cond early spareFails :)
  | replySlotTrigger => exact (execReplySlotTrigger_frame (.refl _ s) (within_refl _) :)
  | replyWindowEnd => exact (execReplyWindowEnd_frame (.refl _ s) (within_refl _) :)
  | chalReply replies => exact (execChalReply_frame (.refl _ s) (within_refl _) replies :)
  | button frame => exact (execButton_frame (.refl _ s) (within_refl _) frame :)
  | soundReport frame => exact (execSoundReport_frame (.refl _ s) (within_refl _) frame :)
  | tokenFrameDiscard frame => exact (execTokenFrameDiscard_frame (.refl _ s) (within_refl _) frame :)
  | capacitiveTouch e scans => exact (execCapacitiveTouch_frame (.refl _ s) (within_refl _) e scans :)
  | touchEnd scans => exact (execTouchEnd_frame (.refl _ s) (within_refl _) scans :)
  | electrodeStuck e => exact (execElectrodeStuck_frame (.refl _ s) (within_refl _) e :)
  | electrodeUnmask e => exact (execElectrodeUnmask_frame (.refl _ s) (within_refl _) e :)
  | capGuardFault g => exact (execCapGuardFault_frame (.refl _ s) (within_refl _) g :)
  | uhfPowerCorrection temp errs => exact (execUhfPowerCorrection_frame (.refl _ s) (within_refl _) temp errs :)
  | synthFault b => exact (execSynthFault_frame (.refl _ s) (within_refl _) b :)
  | soundBurst => exact (execSoundBurst_frame (.refl _ s) (within_refl _) :)
  | reportTrigger => exact (execReportTrigger_frame (.refl _ s) (within_refl _) :)
  | positionFit fit wr => exact (execPositionFit_frame (.refl _ s) (within_refl _) fit wr :)
  | coexGrant => exact (execCoexGrant_frame (.refl _ s) (within_refl _) :)
  | coexTimeout => exact (execCoexTimeout_frame (.refl _ s) (within_refl _) :)
  | coexGrantFall m => exact (execCoexGrantFall_frame (.refl _ s) (within_refl _) m :)
  | coexPriLead => exact (execCoexPriLead_frame (.refl _ s) (within_refl _) :)
  | trackAgeExpiry tid => exact (execTrackAgeExpiry_frame (.refl _ s) (within_refl _) tid :)
  | locate r => exact (execLocate_frame (.refl _ s) (within_refl _) r :)
  | trackRead r wr => exact (execTrackRead_frame (.refl _ s) (within_refl _) r wr :)
  | nearEnrol r => exact (execNearEnrol_frame (.refl _ s) (within_refl _) r :)
  | nearRemove r => exact (execNearRemove_frame (.refl _ s) (within_refl _) r :)
  | nearRead r wr => exact (execNearRead_frame (.refl _ s) (within_refl _) r wr :)
  | zoneRead r wr => exact (execZoneRead_frame (.refl _ s) (within_refl _) r wr :)
  | start r evidence => exact (execStart_frame (.refl _ s) (within_refl _) r evidence :)
  | lockReq r => exact (execLockReq_frame (.refl _ s) (within_refl _) r :)
  | lockStatus r wr => exact (execLockStatus_frame (.refl _ s) (within_refl _) r wr :)
  | armHoldExpiry => exact (execArmHoldExpiry_frame (.refl _ s) (within_refl _) :)
  | ignitionOffDebounce => exact (execIgnitionOffDebounce_frame (.refl _ s) (within_refl _) :)
  | releaseWindowExpiry => exact (execReleaseWindowExpiry_frame (.refl _ s) (within_refl _) :)
  | lockHoldExpiry => exact (execLockHoldExpiry_frame (.refl _ s) (within_refl _) :)
  | slkLedgerRetry => exact (execSlkLedgerRetry_frame (.refl _ s) (within_refl _) :)
  | stateFramePeriod => exact (execStateFramePeriod_frame (.refl _ s) (within_refl _) :)
  | reconciliation => exact (execReconciliation_frame (.refl _ s) (within_refl _) :)
  | canBusOff p => exact (execCanBusOff_frame (.refl _ s) (within_refl _) p :)
  | canBusoffRecovery p => exact (execCanBusoffRecovery_frame (.refl _ s) (within_refl _) p :)
  | canPortReturn p => exact (execCanPortReturn_frame (.refl _ s) (within_refl _) p :)
  | slkMismatch out1 agrees => exact (execSlkMismatch_frame (.refl _ s) (within_refl _) out1 agrees :)
  | nfcDetection k amp phase opened shorted => exact (execNfcDetection_frame (.refl _ s) (within_refl _) k amp phase opened shorted :)
  | readerRetry k coil => exact (execReaderRetry_frame (.refl _ s) (within_refl _) k coil :)
  | cardResponse reader resp wr => exact (execCardResponse_frame (.refl _ s) (within_refl _) reader resp wr :)
  | wtxRequest reader wtxm => exact (execWtxRequest_frame (.refl _ s) (within_refl _) reader wtxm :)
  | frameWaitExpiry reader => exact (execFrameWaitExpiry_frame (.refl _ s) (within_refl _) reader :)
  | cardAuth r => exact (execCardAuth_frame (.refl _ s) (within_refl _) r :)
  | sealScan r => exact (execSealScan_frame (.refl _ s) (within_refl _) r :)
  | sealSecure r => exact (execSealSecure_frame (.refl _ s) (within_refl _) r :)
  | sealOpen r => exact (execSealOpen_frame (.refl _ s) (within_refl _) r :)
  | sealRead r => exact (execSealRead_frame (.refl _ s) (within_refl _) r :)
  | capRead r wr => exact (execCapRead_frame (.refl _ s) (within_refl _) r wr :)
  | iflDetSample p uv => exact (execIflDetSample_frame (.refl _ s) (within_refl _) p uv :)
  | iflFrameReceived p frame => exact (execIflFrameReceived_frame (.refl _ s) (within_refl _) p frame :)
  | soundReq p m => exact (execSoundReq_frame (.refl _ s) (within_refl _) p m :)
  | soundFrame p => exact (execSoundFrame_frame (.refl _ s) (within_refl _) p :)
  | soundFrameReceived p syms => exact (execSoundFrameReceived_frame (.refl _ s) (within_refl _) p syms :)
  | iflLoad p m => exact (execIflLoad_frame (.refl _ s) (within_refl _) p m :)
  | loadResend p => exact (execLoadResend_frame (.refl _ s) (within_refl _) p :)
  | oldTableHoldEnd p => exact (execOldTableHoldEnd_frame (.refl _ s) (within_refl _) p :)
  | soundingPeriod p => exact (execSoundingPeriod_frame (.refl _ s) (within_refl _) p :)
  | tick p m => exact (execTick_frame (.refl _ s) (within_refl _) p m :)
  | listenWindow p => exact (execListenWindow_frame (.refl _ s) (within_refl _) p :)
  | windowExtensionEnd p => exact (execWindowExtensionEnd_frame (.refl _ s) (within_refl _) p :)
  | masterSilence p => exact (execMasterSilence_frame (.refl _ s) (within_refl _) p :)
  | resyncListen p => exact (execResyncListen_frame (.refl _ s) (within_refl _) p :)
  | beacon p => exact (execBeacon_frame (.refl _ s) (within_refl _) p :)
  | beaconReceived p payload => exact (execBeaconReceived_frame (.refl _ s) (within_refl _) p payload :)
  | roll p src payload => exact (execRoll_frame (.refl _ s) (within_refl _) p src payload :)
  | join p payload => exact (execJoin_frame (.refl _ s) (within_refl _) p payload :)
  | assign p payload => exact (execAssign_frame (.refl _ s) (within_refl _) p payload :)
  | joined p payload => exact (execJoined_frame (.refl _ s) (within_refl _) p payload :)
  | profile p payload => exact (execProfile_frame (.refl _ s) (within_refl _) p payload :)
  | decoupled p payload => exact (execDecoupled_frame (.refl _ s) (within_refl _) p payload :)
  | dataFrame p payload => exact (execDataFrame_frame (.refl _ s) (within_refl _) p payload :)
  | ack p payload => exact (execAck_frame (.refl _ s) (within_refl _) p payload :)
  | onwardLost p payload => exact (execOnwardLost_frame (.refl _ s) (within_refl _) p payload :)
  | resendTimer p => exact (execResendTimer_frame (.refl _ s) (within_refl _) p :)
  | supplyStepWindowEnd => exact (execSupplyStepWindowEnd_frame (.refl _ s) (within_refl _) :)
  | adriftHoldEnd p => exact (execAdriftHoldEnd_frame (.refl _ s) (within_refl _) p :)
  | readerRequest payload => exact (execReaderRequest_frame (.refl _ s) (within_refl _) payload :)
  | lfRequest payload => exact (execLfRequest_frame (.refl _ s) (within_refl _) payload :)
  | svcStatus => exact (execSvcStatus_frame (.refl _ s) (within_refl _) :)
  | relay r rd => exact (execRelay_frame (.refl _ s) (within_refl _) r rd :)
  | chainRead r wr => exact (execChainRead_frame (.refl _ s) (within_refl _) r wr :)
  | recv r wr => exact (execRecv_frame (.refl _ s) (within_refl _) r wr :)
  | append r rd => exact (execAppend_frame (.refl _ s) (within_refl _) r rd :)
  | cusRead r wr => exact (execCusRead_frame (.refl _ s) (within_refl _) r wr :)
  | cusScan r wr => exact (execCusScan_frame (.refl _ s) (within_refl _) r wr :)
  | cusVerify r => exact (execCusVerify_frame (.refl _ s) (within_refl _) r :)
  | cusStatus r wr => exact (execCusStatus_frame (.refl _ s) (within_refl _) r wr :)
  | nvmeWriteComplete d ok => exact (execNvmeWriteComplete_frame (.refl _ s) (within_refl _) d ok :)
  | nvmeCommandTimeout d => exact (execNvmeCommandTimeout_frame (.refl _ s) (within_refl _) d :)
  | nvmeLinkDown d => exact (execNvmeLinkDown_frame (.refl _ s) (within_refl _) d :)
  | driveLossDeclaration d => exact (execDriveLossDeclaration_frame (.refl _ s) (within_refl _) d :)
  | nvmeFatalStatus d => exact (execNvmeFatalStatus_frame (.refl _ s) (within_refl _) d :)
  | nvmeLinkUp d => exact (execNvmeLinkUp_frame (.refl _ s) (within_refl _) d :)
  | driveReady d label => exact (execDriveReady_frame (.refl _ s) (within_refl _) d label :)
  | driveReadyTimeout d => exact (execDriveReadyTimeout_frame (.refl _ s) (within_refl _) d :)
  | driveWear d cause => exact (execDriveWear_frame (.refl _ s) (within_refl _) d cause :)
  | reprotection => exact (execReprotection_frame (.refl _ s) (within_refl _) :)
  | eviction => exact (execEviction_frame (.refl _ s) (within_refl _) :)
  | ledgerSectorFail b => exact (execLedgerSectorFail_frame (.refl _ s) (within_refl _) b :)
  | sectorRefillDone b => exact (execSectorRefillDone_frame (.refl _ s) (within_refl _) b :)
  | ledgercp => exact (execLedgercp_frame (.refl _ s) (within_refl _) :)
  | ledgerDrain ready => exact (execLedgerDrain_frame (.refl _ s) (within_refl _) ready :)
  | lookup r rd wr => exact (execLookup_frame (.refl _ s) (within_refl _) r rd wr :)
  | grant r rd wr => exact (execGrant_frame (.refl _ s) (within_refl _) r rd wr :)
  | grantCommit r wr => exact (execGrantCommit_frame (.refl _ s) (within_refl _) r wr :)
  | dirLoad r rd => exact (execDirLoad_frame (.refl _ s) (within_refl _) r rd :)
  | revoke r => exact (execRevoke_frame (.refl _ s) (within_refl _) r :)
  | revokeEpoch r => exact (execRevokeEpoch_frame (.refl _ s) (within_refl _) r :)
  | remove r => exact (execRemove_frame (.refl _ s) (within_refl _) r :)
  | dirStatus r wr => exact (execDirStatus_frame (.refl _ s) (within_refl _) r wr :)
  | dirDeltaCopied => exact (execDirDeltaCopied_frame (.refl _ s) (within_refl _) :)
  | epochs payload => exact (execEpochs_frame (.refl _ s) (within_refl _) payload :)
  | revoked payload => exact (execRevoked_frame (.refl _ s) (within_refl _) payload :)
  | held pos payload => exact (execHeld_frame (.refl _ s) (within_refl _) pos payload :)
  | dirRelayLate pos => exact (execDirRelayLate_frame (.refl _ s) (within_refl _) pos :)
  | snapshotStart => exact (execSnapshotStart_frame (.refl _ s) (within_refl _) :)
  | dirRebuild ok => exact (execDirRebuild_frame (.refl _ s) (within_refl _) ok :)
  | keyRoot r => exact (execKeyRoot_frame (.refl _ s) (within_refl _) r :)
  | keyDerive r rd => exact (execKeyDerive_frame (.refl _ s) (within_refl _) r rd :)
  | keyImport r rd => exact (execKeyImport_frame (.refl _ s) (within_refl _) r rd :)
  | keyExport r rd wr => exact (execKeyExport_frame (.refl _ s) (within_refl _) r rd wr :)
  | keyClose r => exact (execKeyClose_frame (.refl _ s) (within_refl _) r :)
  | keyInfo r wr => exact (execKeyInfo_frame (.refl _ s) (within_refl _) r wr :)
  | keyPublic r wr => exact (execKeyPublic_frame (.refl _ s) (within_refl _) r wr :)
  | encrypt r rd wr => exact (execEncrypt_frame (.refl _ s) (within_refl _) r rd wr :)
  | decrypt r rd wr => exact (execDecrypt_frame (.refl _ s) (within_refl _) r rd wr :)
  | mac r rd wr => exact (execMac_frame (.refl _ s) (within_refl _) r rd wr :)
  | macVerify r rd => exact (execMacVerify_frame (.refl _ s) (within_refl _) r rd :)
  | sealCcm r rd wr => exact (execSealCcm_frame (.refl _ s) (within_refl _) r rd wr :)
  | openCcm r rd wr => exact (execOpenCcm_frame (.refl _ s) (within_refl _) r rd wr :)
  | laneFault lane op => exact (execLaneFault_frame (.refl _ s) (within_refl _) lane op :)
  | laneRetest lane pass => exact (execLaneRetest_frame (.refl _ s) (within_refl _) lane pass :)
  | laneOverheat lane => exact (execLaneOverheat_frame (.refl _ s) (within_refl _) lane :)
  | laneCooled lane temp => exact (execLaneCooled_frame (.refl _ s) (within_refl _) lane temp :)
  | tamperMesh m => exact (execTamperMesh_frame (.refl _ s) (within_refl _) m :)
  | light => exact (execLight_frame (.refl _ s) (within_refl _) :)
  | voltageGlitch => exact (execVoltageGlitch_frame (.refl _ s) (within_refl _) :)
  | clockGlitch => exact (execClockGlitch_frame (.refl _ s) (within_refl _) :)
  | temperatureTamper => exact (execTemperatureTamper_frame (.refl _ s) (within_refl _) :)
  | alarmHoldEnd => exact (execAlarmHoldEnd_frame (.refl _ s) (within_refl _) :)
  | pkeVerify r rd => exact (execPkeVerify_frame (.refl _ s) (within_refl _) r rd :)
  | pointCheck r rd => exact (execPointCheck_frame (.refl _ s) (within_refl _) r rd :)
  | hash r rd wr => exact (execHash_frame (.refl _ s) (within_refl _) r rd wr :)
  | random r wr => exact (execRandom_frame (.refl _ s) (within_refl _) r wr :)
  | rngStatus r wr => exact (execRngStatus_frame (.refl _ s) (within_refl _) r wr :)
  | rngSourceFailure src cause => exact (execRngSourceFailure_frame (.refl _ s) (within_refl _) src cause :)
  | rngHealthCheck live locked => exact (execRngHealthCheck_frame (.refl _ s) (within_refl _) live locked :)
  | sourceReturn src => exact (execSourceReturn_frame (.refl _ s) (within_refl _) src :)
  | drbgReseed => exact (execDrbgReseed_frame (.refl _ s) (within_refl _) :)
  | rngSelfTestEnd pass kat => exact (execRngSelfTestEnd_frame (.refl _ s) (within_refl _) pass kat :)
  | hashEngineFault e => exact (execHashEngineFault_frame (.refl _ s) (within_refl _) e :)
  | stage r rd flash => exact (execStage_frame (.refl _ s) (within_refl _) r rd flash :)
  | push r => exact (execPush_frame (.refl _ s) (within_refl _) r :)
  | schedule r => exact (execSchedule_frame (.refl _ s) (within_refl _) r :)
  | cancel r => exact (execCancel_frame (.refl _ s) (within_refl _) r :)
  | cfgWrite r rd body flashOk => exact (execCfgWrite_frame (.refl _ s) (within_refl _) r rd body flashOk :)
  | updStatus r wr => exact (execUpdStatus_frame (.refl _ s) (within_refl _) r wr :)
  | offer src payload => exact (execOffer_frame (.refl _ s) (within_refl _) src payload :)
  | need src payload => exact (execNeed_frame (.refl _ s) (within_refl _) src payload :)
  | piece src payload flash => exact (execPiece_frame (.refl _ s) (within_refl _) src payload flash :)
  | transportStatus src payload => exact (execTransportStatus_frame (.refl _ s) (within_refl _) src payload :)
  | sched src payload => exact (execSched_frame (.refl _ s) (within_refl _) src payload :)
  | unsched src payload => exact (execUnsched_frame (.refl _ s) (within_refl _) src payload :)
  | needTimer => exact (execNeedTimer_frame (.refl _ s) (within_refl _) :)
  | transferAbandon => exact (execTransferAbandon_frame (.refl _ s) (within_refl _) :)
  | schedRepeat => exact (execSchedRepeat_frame (.refl _ s) (within_refl _) :)
  | activationCommit => exact (execActivationCommit_frame (.refl _ s) (within_refl _) :)
  | activationLapse => exact (execActivationLapse_frame (.refl _ s) (within_refl _) :)
  | handoverShadowReady => exact (execHandoverShadowReady_frame (.refl _ s) (within_refl _) :)
  | handoverTimeout => exact (execHandoverTimeout_frame (.refl _ s) (within_refl _) :)
  | handoverHoldEnd => exact (execHandoverHoldEnd_frame (.refl _ s) (within_refl _) :)
  | trialConfirm => exact (execTrialConfirm_frame (.refl _ s) (within_refl _) :)
  | updHearthGo func v image => exact (execUpdHearthGo_frame (.refl _ s) (within_refl _) func v image :)
  | updHearthRevert func v => exact (execUpdHearthRevert_frame (.refl _ s) (within_refl _) func v :)
  | hearthCanFrame ident data => exact (execHearthCanFrame_frame (.refl _ s) (within_refl _) ident data :)
  | hearthCanStatus => exact (execHearthCanStatus_frame (.refl _ s) (within_refl _) :)
  | hearthDownloadEnd flash => exact (execHearthDownloadEnd_frame (.refl _ s) (within_refl _) flash :)
  | sramEccError bank row col uncorr owner => exact (execSramEccError_frame (.refl _ s) (within_refl _) bank row col uncorr owner :)
  | wakeStuck pin => exact (execWakeStuck_frame (.refl _ s) (within_refl _) pin :)
  | wakeUnmask pin => exact (execWakeUnmask_frame (.refl _ s) (within_refl _) pin :)
  | coexGntStuck m => exact (execCoexGntStuck_frame (.refl _ s) (within_refl _) m :)
  | pmicRecoveryRetry freed => exact (execPmicRecoveryRetry_frame (.refl _ s) (within_refl _) freed :)
  | pmicIrqStuck low => exact (execPmicIrqStuck_frame (.refl _ s) (within_refl _) low :)
  | faultRead r wr => exact (execFaultRead_frame (.refl _ s) (within_refl _) r wr :)
  | unitTest r pass => exact (execUnitTest_frame (.refl _ s) (within_refl _) r pass :)
  | bypass r => exact (execBypass_frame (.refl _ s) (within_refl _) r :)
  | restore r pass => exact (execRestore_frame (.refl _ s) (within_refl _) r pass :)
  | scrub r found => exact (execScrub_frame (.refl _ s) (within_refl _) r found :)
  | driveDrain r => exact (execDriveDrain_frame (.refl _ s) (within_refl _) r :)
  | driveAdmit r => exact (execDriveAdmit_frame (.refl _ s) (within_refl _) r :)
  | service r => exact (execService_frame (.refl _ s) (within_refl _) r :)
  | sysReset func v => exact (execSysReset_frame (.refl _ s) (within_refl _) func v :)
  | sysLockSetup func v => exact (execSysLockSetup_frame (.refl _ s) (within_refl _) func v :)
  | highHalfLatch func off size => exact (execHighHalfLatch_frame (.refl _ s) (within_refl _) func off size :)
  | registerWrite func off size v => exact (execRegisterWrite_frame (.refl _ s) (within_refl _) func off size v :)
  | thermalGovernor temp => exact (execThermalGovernor_frame (.refl _ s) (within_refl _) temp :)
  | upstreamNeighbourLost p => exact (execUpstreamNeighbourLost_frame (.refl _ s) (within_refl _) p :)
  | publicKeyEngineFault => exact (execPublicKeyEngineFault_frame (.refl _ s) (within_refl _) :)
  | countReachesZero n => exact (execCountReachesZero_frame (.refl _ s) (within_refl _) n :)

/-- Every command keeps what `Keeps` lists. -/
theorem exec_keeps (c : Instr) : OutKeeps s (exec c s) := by
  cases c with
  | vaonGood => exact (execVaonGood_keeps (.refl s) :)
  | vaonBrownOut => exact (execVaonBrownOut_keeps (.refl s) :)
  | aonSupplyChangeover => exact (execAonSupplyChangeover_keeps (.refl s) :)
  | aonLoss => exact (execAonLoss_keeps (.refl s) :)
  | vkeepLow mv => exact (execVkeepLow_keeps (.refl s) mv :)
  | vcoreBrownOut vsram => exact (execVcoreBrownOut_keeps (.refl s) vsram :)
  | dramRailFault vddq => exact (execDramRailFault_keeps (.refl s) vddq :)
  | portRailFault rail => exact (execPortRailFault_keeps (.refl s) rail :)
  | linkRailFault serdes => exact (execLinkRailFault_keeps (.refl s) serdes :)
  | railGoodReturn rail => exact (execRailGoodReturn_keeps (.refl s) rail :)
  | enableGroupGood g => exact (execEnableGroupGood_keeps (.refl s) g :)
  | enableGroupTimeout g => exact (execEnableGroupTimeout_keeps (.refl s) g :)
  | fuseLoadEnd => exact (execFuseLoadEnd_keeps (.refl s) :)
  | configurationLoad bad => exact (execConfigurationLoad_keeps (.refl s) bad :)
  | ledgerReplay aGood bGood => exact (execLedgerReplay_keeps (.refl s) aGood bGood :)
  | warmReset flr => exact (execWarmReset_keeps (.refl s) flr :)
  | watchdogExpiry => exact (execWatchdogExpiry_keeps (.refl s) :)
  | checkpoint => exact (execCheckpoint_keeps (.refl s) :)
  | stewardTakeover cause => exact (execStewardTakeover_keeps (.refl s) cause :)
  | pairSelfTestEnd pass => exact (execPairSelfTestEnd_keeps (.refl s) pass :)
  | shadowTestSlice pass => exact (execShadowTestSlice_keeps (.refl s) pass :)
  | pwrParkReq func => exact (execPwrParkReq_keeps (.refl s) func :)
  | pwrParkCancel func => exact (execPwrParkCancel_keeps (.refl s) func :)
  | parkedEntryIdle => exact (execParkedEntryIdle_keeps (.refl s) :)
  | parkedEntryDrained => exact (execParkedEntryDrained_keeps (.refl s) :)
  | driveShutdownComplete done => exact (execDriveShutdownComplete_keeps (.refl s) done :)
  | wakePinCrossing pin above => exact (execWakePinCrossing_keeps (.refl s) pin above :)
  | wakeEvent pin => exact (execWakeEvent_keeps (.refl s) pin :)
  | nearListRestored => exact (execNearListRestored_keeps (.refl s) :)
  | wakeWindowEnd => exact (execWakeWindowEnd_keeps (.refl s) :)
  | dsenseChange d high => exact (execDsenseChange_keeps (.refl s) d high :)
  | dormancyHour => exact (execDormancyHour_keeps (.refl s) :)
  | lowBattery => exact (execLowBattery_keeps (.refl s) :)
  | rtcAlarm => exact (execRtcAlarm_keeps (.refl s) :)
  | pwrAlarmS func v => exact (execPwrAlarmS_keeps (.refl s) func v :)
  | wakeSlicePowerDown => exact (execWakeSlicePowerDown_keeps (.refl s) :)
  | driveExit => exact (execDriveExit_keeps (.refl s) :)
  | serviceEnd => exact (execServiceEnd_keeps (.refl s) :)
  | debugDurationEnd => exact (execDebugDurationEnd_keeps (.refl s) :)
  | slotConsume heads => exact (execSlotConsume_keeps (.refl s) heads :)
  | classBoundExpiry r => exact (execClassBoundExpiry_keeps (.refl s) r :)
  | completionWrite g => exact (execCompletionWrite_keeps (.refl s) g :)
  | consumerIndexWriteback g => exact (execConsumerIndexWriteback_keeps (.refl s) g :)
  | doorbellHrPi func ten j v => exact (execDoorbellHrPi_keeps (.refl s) func ten j v :)
  | doorbellTrCi func ten j v => exact (execDoorbellTrCi_keeps (.refl s) func ten j v :)
  | descriptorReadFailed g => exact (execDescriptorReadFailed_keeps (.refl s) g :)
  | tailraceWriteRefused g writeback => exact (execTailraceWriteRefused_keeps (.refl s) g writeback :)
  | ringEnable func => exact (execRingEnable_keeps (.refl s) func :)
  | ringDisable func => exact (execRingDisable_keeps (.refl s) func :)
  | ringDrained g => exact (execRingDrained_keeps (.refl s) g :)
  | moderationTimer g => exact (execModerationTimer_keeps (.refl s) g :)
  | msixUnmask func what => exact (execMsixUnmask_keeps (.refl s) func what :)
  | vfFunctionLevelReset func => exact (execVfFunctionLevelReset_keeps (.refl s) func :)
  | vfEnableClear => exact (execVfEnableClear_keeps (.refl s) :)
  | hostPerst low => exact (execHostPerst_keeps (.refl s) low :)
  | nop r => exact (execNop_keeps (.refl s) r :)
  | fateInquiry r wr => exact (execFateInquiry_keeps (.refl s) r wr :)
  | ping r => exact (execPing_keeps (.refl s) r :)
  | writApply r rd => exact (execWritApply_keeps (.refl s) r rd :)
  | writSettle r => exact (execWritSettle_keeps (.refl s) r :)
  | writCheck r rd => exact (execWritCheck_keeps (.refl s) r rd :)
  | writStatus r wr => exact (execWritStatus_keeps (.refl s) r wr :)
  | ang0Edge tNs => exact (execAng0Edge_keeps (.refl s) tNs :)
  | ang1Edge tNs => exact (execAng1Edge_keeps (.refl s) tNs :)
  | ang2Edge tNs => exact (execAng2Edge_keeps (.refl s) tNs :)
  | ang3Pulse tNs => exact (execAng3Pulse_keeps (.refl s) tNs :)
  | crankEdgeTimeout => exact (execCrankEdgeTimeout_keeps (.refl s) :)
  | wheelPulseTimeout => exact (execWheelPulseTimeout_keeps (.refl s) :)
  | roadSpeedFrame port ident data => exact (execRoadSpeedFrame_keeps (.refl s) port ident data :)
  | engineSpeedFrame port ident data => exact (execEngineSpeedFrame_keeps (.refl s) port ident data :)
  | speedSignalStale engine => exact (execSpeedSignalStale_keeps (.refl s) engine :)
  | angleSwitchWindowEnd => exact (execAngleSwitchWindowEnd_keeps (.refl s) :)
  | propHoldExpiry => exact (execPropHoldExpiry_keeps (.refl s) :)
  | xtal25Loss => exact (execXtal25Loss_keeps (.refl s) :)
  | clockSwitchWindowEnd recovered => exact (execClockSwitchWindowEnd_keeps (.refl s) recovered :)
  | xtal25Return => exact (execXtal25Return_keeps (.refl s) :)
  | xtal32kLoss => exact (execXtal32kLoss_keeps (.refl s) :)
  | xtal32kReturn => exact (execXtal32kReturn_keeps (.refl s) :)
  | rtcRcCalibrate measured => exact (execRtcRcCalibrate_keeps (.refl s) measured :)
  | cntEnable func v => exact (execCntEnable_keeps (.refl s) func v :)
  | cntDisable func v => exact (execCntDisable_keeps (.refl s) func v :)
  | cntTop func v => exact (execCntTop_keeps (.refl s) func v :)
  | cntCmp func b v => exact (execCntCmp_keeps (.refl s) func b v :)
  | compareMatch n b => exact (execCompareMatch_keeps (.refl s) n b :)
  | captureEdge n rising => exact (execCaptureEdge_keeps (.refl s) n rising :)
  | cntCapRead func => exact (execCntCapRead_keeps (.refl s) func :)
  | timeRead r wr => exact (execTimeRead_keeps (.refl s) r wr :)
  | timeSet r => exact (execTimeSet_keeps (.refl s) r :)
  | furrowRead r wr => exact (execFurrowRead_keeps (.refl s) r wr :)
  | presencePoll => exact (execPresencePoll_keeps (.refl s) :)
  | approachPoll => exact (execApproachPoll_keeps (.refl s) :)
  | lfSegment => exact (execLfSegment_keeps (.refl s) :)
  | lfChannelFault ch cond early spareFails => exact (execLfChannelFault_keeps (.refl s) ch cond early spareFails :)
  | replySlotTrigger => exact (execReplySlotTrigger_keeps (.refl s) :)
  | replyWindowEnd => exact (execReplyWindowEnd_keeps (.refl s) :)
  | chalReply replies => exact (execChalReply_keeps (.refl s) replies :)
  | button frame => exact (execButton_keeps (.refl s) frame :)
  | soundReport frame => exact (execSoundReport_keeps (.refl s) frame :)
  | tokenFrameDiscard frame => exact (execTokenFrameDiscard_keeps (.refl s) frame :)
  | capacitiveTouch e scans => exact (execCapacitiveTouch_keeps (.refl s) e scans :)
  | touchEnd scans => exact (execTouchEnd_keeps (.refl s) scans :)
  | electrodeStuck e => exact (execElectrodeStuck_keeps (.refl s) e :)
  | electrodeUnmask e => exact (execElectrodeUnmask_keeps (.refl s) e :)
  | capGuardFault g => exact (execCapGuardFault_keeps (.refl s) g :)
  | uhfPowerCorrection temp errs => exact (execUhfPowerCorrection_keeps (.refl s) temp errs :)
  | synthFault b => exact (execSynthFault_keeps (.refl s) b :)
  | soundBurst => exact (execSoundBurst_keeps (.refl s) :)
  | reportTrigger => exact (execReportTrigger_keeps (.refl s) :)
  | positionFit fit wr => exact (execPositionFit_keeps (.refl s) fit wr :)
  | coexGrant => exact (execCoexGrant_keeps (.refl s) :)
  | coexTimeout => exact (execCoexTimeout_keeps (.refl s) :)
  | coexGrantFall m => exact (execCoexGrantFall_keeps (.refl s) m :)
  | coexPriLead => exact (execCoexPriLead_keeps (.refl s) :)
  | trackAgeExpiry tid => exact (execTrackAgeExpiry_keeps (.refl s) tid :)
  | locate r => exact (execLocate_keeps (.refl s) r :)
  | trackRead r wr => exact (execTrackRead_keeps (.refl s) r wr :)
  | nearEnrol r => exact (execNearEnrol_keeps (.refl s) r :)
  | nearRemove r => exact (execNearRemove_keeps (.refl s) r :)
  | nearRead r wr => exact (execNearRead_keeps (.refl s) r wr :)
  | zoneRead r wr => exact (execZoneRead_keeps (.refl s) r wr :)
  | start r evidence => exact (execStart_keeps (.refl s) r evidence :)
  | lockReq r => exact (execLockReq_keeps (.refl s) r :)
  | lockStatus r wr => exact (execLockStatus_keeps (.refl s) r wr :)
  | armHoldExpiry => exact (execArmHoldExpiry_keeps (.refl s) :)
  | ignitionOffDebounce => exact (execIgnitionOffDebounce_keeps (.refl s) :)
  | releaseWindowExpiry => exact (execReleaseWindowExpiry_keeps (.refl s) :)
  | lockHoldExpiry => exact (execLockHoldExpiry_keeps (.refl s) :)
  | slkLedgerRetry => exact (execSlkLedgerRetry_keeps (.refl s) :)
  | stateFramePeriod => exact (execStateFramePeriod_keeps (.refl s) :)
  | reconciliation => exact (execReconciliation_keeps (.refl s) :)
  | canBusOff p => exact (execCanBusOff_keeps (.refl s) p :)
  | canBusoffRecovery p => exact (execCanBusoffRecovery_keeps (.refl s) p :)
  | canPortReturn p => exact (execCanPortReturn_keeps (.refl s) p :)
  | slkMismatch out1 agrees => exact (execSlkMismatch_keeps (.refl s) out1 agrees :)
  | nfcDetection k amp phase opened shorted => exact (execNfcDetection_keeps (.refl s) k amp phase opened shorted :)
  | readerRetry k coil => exact (execReaderRetry_keeps (.refl s) k coil :)
  | cardResponse reader resp wr => exact (execCardResponse_keeps (.refl s) reader resp wr :)
  | wtxRequest reader wtxm => exact (execWtxRequest_keeps (.refl s) reader wtxm :)
  | frameWaitExpiry reader => exact (execFrameWaitExpiry_keeps (.refl s) reader :)
  | cardAuth r => exact (execCardAuth_keeps (.refl s) r :)
  | sealScan r => exact (execSealScan_keeps (.refl s) r :)
  | sealSecure r => exact (execSealSecure_keeps (.refl s) r :)
  | sealOpen r => exact (execSealOpen_keeps (.refl s) r :)
  | sealRead r => exact (execSealRead_keeps (.refl s) r :)
  | capRead r wr => exact (execCapRead_keeps (.refl s) r wr :)
  | iflDetSample p uv => exact (execIflDetSample_keeps (.refl s) p uv :)
  | iflFrameReceived p frame => exact (execIflFrameReceived_keeps (.refl s) p frame :)
  | soundReq p m => exact (execSoundReq_keeps (.refl s) p m :)
  | soundFrame p => exact (execSoundFrame_keeps (.refl s) p :)
  | soundFrameReceived p syms => exact (execSoundFrameReceived_keeps (.refl s) p syms :)
  | iflLoad p m => exact (execIflLoad_keeps (.refl s) p m :)
  | loadResend p => exact (execLoadResend_keeps (.refl s) p :)
  | oldTableHoldEnd p => exact (execOldTableHoldEnd_keeps (.refl s) p :)
  | soundingPeriod p => exact (execSoundingPeriod_keeps (.refl s) p :)
  | tick p m => exact (execTick_keeps (.refl s) p m :)
  | listenWindow p => exact (execListenWindow_keeps (.refl s) p :)
  | windowExtensionEnd p => exact (execWindowExtensionEnd_keeps (.refl s) p :)
  | masterSilence p => exact (execMasterSilence_keeps (.refl s) p :)
  | resyncListen p => exact (execResyncListen_keeps (.refl s) p :)
  | beacon p => exact (execBeacon_keeps (.refl s) p :)
  | beaconReceived p payload => exact (execBeaconReceived_keeps (.refl s) p payload :)
  | roll p src payload => exact (execRoll_keeps (.refl s) p src payload :)
  | join p payload => exact (execJoin_keeps (.refl s) p payload :)
  | assign p payload => exact (execAssign_keeps (.refl s) p payload :)
  | joined p payload => exact (execJoined_keeps (.refl s) p payload :)
  | profile p payload => exact (execProfile_keeps (.refl s) p payload :)
  | decoupled p payload => exact (execDecoupled_keeps (.refl s) p payload :)
  | dataFrame p payload => exact (execDataFrame_keeps (.refl s) p payload :)
  | ack p payload => exact (execAck_keeps (.refl s) p payload :)
  | onwardLost p payload => exact (execOnwardLost_keeps (.refl s) p payload :)
  | resendTimer p => exact (execResendTimer_keeps (.refl s) p :)
  | supplyStepWindowEnd => exact (execSupplyStepWindowEnd_keeps (.refl s) :)
  | adriftHoldEnd p => exact (execAdriftHoldEnd_keeps (.refl s) p :)
  | readerRequest payload => exact (execReaderRequest_keeps (.refl s) payload :)
  | lfRequest payload => exact (execLfRequest_keeps (.refl s) payload :)
  | svcStatus => exact (execSvcStatus_keeps (.refl s) :)
  | relay r rd => exact (execRelay_keeps (.refl s) r rd :)
  | chainRead r wr => exact (execChainRead_keeps (.refl s) r wr :)
  | recv r wr => exact (execRecv_keeps (.refl s) r wr :)
  | append r rd => exact (execAppend_keeps (.refl s) r rd :)
  | cusRead r wr => exact (execCusRead_keeps (.refl s) r wr :)
  | cusScan r wr => exact (execCusScan_keeps (.refl s) r wr :)
  | cusVerify r => exact (execCusVerify_keeps (.refl s) r :)
  | cusStatus r wr => exact (execCusStatus_keeps (.refl s) r wr :)
  | nvmeWriteComplete d ok => exact (execNvmeWriteComplete_keeps (.refl s) d ok :)
  | nvmeCommandTimeout d => exact (execNvmeCommandTimeout_keeps (.refl s) d :)
  | nvmeLinkDown d => exact (execNvmeLinkDown_keeps (.refl s) d :)
  | driveLossDeclaration d => exact (execDriveLossDeclaration_keeps (.refl s) d :)
  | nvmeFatalStatus d => exact (execNvmeFatalStatus_keeps (.refl s) d :)
  | nvmeLinkUp d => exact (execNvmeLinkUp_keeps (.refl s) d :)
  | driveReady d label => exact (execDriveReady_keeps (.refl s) d label :)
  | driveReadyTimeout d => exact (execDriveReadyTimeout_keeps (.refl s) d :)
  | driveWear d cause => exact (execDriveWear_keeps (.refl s) d cause :)
  | reprotection => exact (execReprotection_keeps (.refl s) :)
  | eviction => exact (execEviction_keeps (.refl s) :)
  | ledgerSectorFail b => exact (execLedgerSectorFail_keeps (.refl s) b :)
  | sectorRefillDone b => exact (execSectorRefillDone_keeps (.refl s) b :)
  | ledgercp => exact (execLedgercp_keeps (.refl s) :)
  | ledgerDrain ready => exact (execLedgerDrain_keeps (.refl s) ready :)
  | lookup r rd wr => exact (execLookup_keeps (.refl s) r rd wr :)
  | grant r rd wr => exact (execGrant_keeps (.refl s) r rd wr :)
  | grantCommit r wr => exact (execGrantCommit_keeps (.refl s) r wr :)
  | dirLoad r rd => exact (execDirLoad_keeps (.refl s) r rd :)
  | revoke r => exact (execRevoke_keeps (.refl s) r :)
  | revokeEpoch r => exact (execRevokeEpoch_keeps (.refl s) r :)
  | remove r => exact (execRemove_keeps (.refl s) r :)
  | dirStatus r wr => exact (execDirStatus_keeps (.refl s) r wr :)
  | dirDeltaCopied => exact (execDirDeltaCopied_keeps (.refl s) :)
  | epochs payload => exact (execEpochs_keeps (.refl s) payload :)
  | revoked payload => exact (execRevoked_keeps (.refl s) payload :)
  | held pos payload => exact (execHeld_keeps (.refl s) pos payload :)
  | dirRelayLate pos => exact (execDirRelayLate_keeps (.refl s) pos :)
  | snapshotStart => exact (execSnapshotStart_keeps (.refl s) :)
  | dirRebuild ok => exact (execDirRebuild_keeps (.refl s) ok :)
  | keyRoot r => exact (execKeyRoot_keeps (.refl s) r :)
  | keyDerive r rd => exact (execKeyDerive_keeps (.refl s) r rd :)
  | keyImport r rd => exact (execKeyImport_keeps (.refl s) r rd :)
  | keyExport r rd wr => exact (execKeyExport_keeps (.refl s) r rd wr :)
  | keyClose r => exact (execKeyClose_keeps (.refl s) r :)
  | keyInfo r wr => exact (execKeyInfo_keeps (.refl s) r wr :)
  | keyPublic r wr => exact (execKeyPublic_keeps (.refl s) r wr :)
  | encrypt r rd wr => exact (execEncrypt_keeps (.refl s) r rd wr :)
  | decrypt r rd wr => exact (execDecrypt_keeps (.refl s) r rd wr :)
  | mac r rd wr => exact (execMac_keeps (.refl s) r rd wr :)
  | macVerify r rd => exact (execMacVerify_keeps (.refl s) r rd :)
  | sealCcm r rd wr => exact (execSealCcm_keeps (.refl s) r rd wr :)
  | openCcm r rd wr => exact (execOpenCcm_keeps (.refl s) r rd wr :)
  | laneFault lane op => exact (execLaneFault_keeps (.refl s) lane op :)
  | laneRetest lane pass => exact (execLaneRetest_keeps (.refl s) lane pass :)
  | laneOverheat lane => exact (execLaneOverheat_keeps (.refl s) lane :)
  | laneCooled lane temp => exact (execLaneCooled_keeps (.refl s) lane temp :)
  | tamperMesh m => exact (execTamperMesh_keeps (.refl s) m :)
  | light => exact (execLight_keeps (.refl s) :)
  | voltageGlitch => exact (execVoltageGlitch_keeps (.refl s) :)
  | clockGlitch => exact (execClockGlitch_keeps (.refl s) :)
  | temperatureTamper => exact (execTemperatureTamper_keeps (.refl s) :)
  | alarmHoldEnd => exact (execAlarmHoldEnd_keeps (.refl s) :)
  | pkeVerify r rd => exact (execPkeVerify_keeps (.refl s) r rd :)
  | pointCheck r rd => exact (execPointCheck_keeps (.refl s) r rd :)
  | hash r rd wr => exact (execHash_keeps (.refl s) r rd wr :)
  | random r wr => exact (execRandom_keeps (.refl s) r wr :)
  | rngStatus r wr => exact (execRngStatus_keeps (.refl s) r wr :)
  | rngSourceFailure src cause => exact (execRngSourceFailure_keeps (.refl s) src cause :)
  | rngHealthCheck live locked => exact (execRngHealthCheck_keeps (.refl s) live locked :)
  | sourceReturn src => exact (execSourceReturn_keeps (.refl s) src :)
  | drbgReseed => exact (execDrbgReseed_keeps (.refl s) :)
  | rngSelfTestEnd pass kat => exact (execRngSelfTestEnd_keeps (.refl s) pass kat :)
  | hashEngineFault e => exact (execHashEngineFault_keeps (.refl s) e :)
  | stage r rd flash => exact (execStage_keeps (.refl s) r rd flash :)
  | push r => exact (execPush_keeps (.refl s) r :)
  | schedule r => exact (execSchedule_keeps (.refl s) r :)
  | cancel r => exact (execCancel_keeps (.refl s) r :)
  | cfgWrite r rd body flashOk => exact (execCfgWrite_keeps (.refl s) r rd body flashOk :)
  | updStatus r wr => exact (execUpdStatus_keeps (.refl s) r wr :)
  | offer src payload => exact (execOffer_keeps (.refl s) src payload :)
  | need src payload => exact (execNeed_keeps (.refl s) src payload :)
  | piece src payload flash => exact (execPiece_keeps (.refl s) src payload flash :)
  | transportStatus src payload => exact (execTransportStatus_keeps (.refl s) src payload :)
  | sched src payload => exact (execSched_keeps (.refl s) src payload :)
  | unsched src payload => exact (execUnsched_keeps (.refl s) src payload :)
  | needTimer => exact (execNeedTimer_keeps (.refl s) :)
  | transferAbandon => exact (execTransferAbandon_keeps (.refl s) :)
  | schedRepeat => exact (execSchedRepeat_keeps (.refl s) :)
  | activationCommit => exact (execActivationCommit_keeps (.refl s) :)
  | activationLapse => exact (execActivationLapse_keeps (.refl s) :)
  | handoverShadowReady => exact (execHandoverShadowReady_keeps (.refl s) :)
  | handoverTimeout => exact (execHandoverTimeout_keeps (.refl s) :)
  | handoverHoldEnd => exact (execHandoverHoldEnd_keeps (.refl s) :)
  | trialConfirm => exact (execTrialConfirm_keeps (.refl s) :)
  | updHearthGo func v image => exact (execUpdHearthGo_keeps (.refl s) func v image :)
  | updHearthRevert func v => exact (execUpdHearthRevert_keeps (.refl s) func v :)
  | hearthCanFrame ident data => exact (execHearthCanFrame_keeps (.refl s) ident data :)
  | hearthCanStatus => exact (execHearthCanStatus_keeps (.refl s) :)
  | hearthDownloadEnd flash => exact (execHearthDownloadEnd_keeps (.refl s) flash :)
  | sramEccError bank row col uncorr owner => exact (execSramEccError_keeps (.refl s) bank row col uncorr owner :)
  | wakeStuck pin => exact (execWakeStuck_keeps (.refl s) pin :)
  | wakeUnmask pin => exact (execWakeUnmask_keeps (.refl s) pin :)
  | coexGntStuck m => exact (execCoexGntStuck_keeps (.refl s) m :)
  | pmicRecoveryRetry freed => exact (execPmicRecoveryRetry_keeps (.refl s) freed :)
  | pmicIrqStuck low => exact (execPmicIrqStuck_keeps (.refl s) low :)
  | faultRead r wr => exact (execFaultRead_keeps (.refl s) r wr :)
  | unitTest r pass => exact (execUnitTest_keeps (.refl s) r pass :)
  | bypass r => exact (execBypass_keeps (.refl s) r :)
  | restore r pass => exact (execRestore_keeps (.refl s) r pass :)
  | scrub r found => exact (execScrub_keeps (.refl s) r found :)
  | driveDrain r => exact (execDriveDrain_keeps (.refl s) r :)
  | driveAdmit r => exact (execDriveAdmit_keeps (.refl s) r :)
  | service r => exact (execService_keeps (.refl s) r :)
  | sysReset func v => exact (execSysReset_keeps (.refl s) func v :)
  | sysLockSetup func v => exact (execSysLockSetup_keeps (.refl s) func v :)
  | highHalfLatch func off size => exact (execHighHalfLatch_keeps (.refl s) func off size :)
  | registerWrite func off size v => exact (execRegisterWrite_keeps (.refl s) func off size v :)
  | thermalGovernor temp => exact (execThermalGovernor_keeps (.refl s) temp :)
  | upstreamNeighbourLost p => exact (execUpstreamNeighbourLost_keeps (.refl s) p :)
  | publicKeyEngineFault => exact (execPublicKeyEngineFault_keeps (.refl s) :)
  | countReachesZero n => exact (execCountReachesZero_keeps (.refl s) n :)

/-- What a step is: the passing of 1 µs on an empty queue, or the command at the queue's front with the queue's rest. -/
theorem step_cases (h : step s = .next t) :
    (s.pending = [] ∧ t = idle s) ∨ ∃ c rest, s.pending = c :: rest ∧ exec c { s with pending := rest } = .next t := by
  unfold step at h
  split at h
  case h_1 hq => exact .inl ⟨hq, (Host.Outcome.next.inj h).symm⟩
  case h_2 c rest hq => exact .inr ⟨c, rest, hq, h⟩

/-- The queue is none of the things kept. -/
theorem keeps_of_pending (rest : List Instr) : Keeps s { s with pending := rest } :=
  same_keeps (.refl s) rfl rfl rfl rfl rfl rfl

theorem step_keeps (h : step s = .next t) : Keeps s t := by
  obtain ⟨-, rfl⟩ | ⟨c, rest, -, hc⟩ := step_cases h
  · exact idle_keeps (.refl s)
  · exact (keeps_of_pending rest).trans ((exec_keeps c).out t hc)

/-- Settles O1. -/
theorem stepRunsFrontCommand : Obligations.StepRunsFrontCommand := fun _ _ => rfl

/-- Settles O44: `Keeps` is a preorder, every meaning keeps it, and so does the passing of time. -/
theorem everyStepKeeps : Obligations.EveryStepKeeps := fun _ _ h => step_keeps h

/-- Settles O45: the number of each unit is among the things that a step keeps. -/
theorem everyStepKeepsTheUnits : Obligations.EveryStepKeepsTheUnits := fun _ _ hs h => (step_keeps h).counts.trans hs

/-- Settles O46. -/
theorem commandsStayInTheirParts : Obligations.CommandsStayInTheirParts := by
  intro c s
  obtain ⟨t, ht⟩ := exec_answers c s
  exact ⟨t, ht, (exec_frame c).out t ht⟩

end Sys2Proof.Machine

/-! What a command reports of what it changes: the latch moves with a ledger record, or to LOCKED with the AON state lost (R25, R305);
Hearth mode is entered with its fault record owed (R573). `Reported` is a preorder, so it is enough that each operation keeps it. -/

namespace Sys2Proof.Machine

variable {s t u : State}

/-- The code and the complement are those of a state of the latch (R332). -/
def LegalCode (b : Slk) : Prop := ∃ l, b.code = latchCode l ∧ b.comp = ~~~ latchCode l

/-- AON state lost, and the latch LOCKED for that (R25). -/
def LockedByAonLoss (s : State) : Prop := s.pwr.aonLost = true ∧ s.slk.code = 0x3C ∧ s.slk.comp = 0xC3

/-- Between `s` and `t` the latch has kept its code, or moved with a ledger record or by the loss of AON state, and Hearth mode has been
entered only with its fault record owed. -/
structure Reported (s t : State) : Prop where
  lsn : s.led.lsn ≤ t.led.lsn
  latch : (t.slk.code = s.slk.code ∧ t.slk.comp = s.slk.comp) ∨ (s.led.lsn < t.led.lsn ∧ LegalCode t.slk) ∨ LockedByAonLoss t
  aon : s.pwr.aonLost = true → t.pwr.aonLost = true
  hearth : t.pwr.mode = .hearth → t.flt.hearthOwed = false → s.pwr.mode = .hearth ∧ s.flt.hearthOwed = false

theorem Reported.refl (s : State) : Reported s s := ⟨le_rfl, .inl ⟨rfl, rfl⟩, id, fun hm ho => ⟨hm, ho⟩⟩

theorem Reported.trans (h : Reported s t) (k : Reported t u) : Reported s u where
  lsn := h.lsn.trans k.lsn
  latch := by
    obtain ⟨hcode, hcomp⟩ | ⟨hlt, hlegal⟩ | hlost := k.latch
    · obtain ⟨hc, hp⟩ | ⟨hl, l, hc, hp⟩ | ⟨ha, hc, hp⟩ := h.latch
      · exact .inl ⟨hcode.trans hc, hcomp.trans hp⟩
      · exact .inr (.inl ⟨hl.trans_le k.lsn, l, hcode.trans hc, hcomp.trans hp⟩)
      · exact .inr (.inr ⟨k.aon ha, hcode.trans hc, hcomp.trans hp⟩)
    · exact .inr (.inl ⟨h.lsn.trans_lt hlt, hlegal⟩)
    · exact .inr (.inr hlost)
  aon := k.aon ∘ h.aon
  hearth hm ho := (k.hearth hm ho).elim h.hearth

/-- What leaves the latch, the power block and the fault block alone has nothing to report. -/
theorem Reported.quiet {ps : List Part} (h : Reported s t) (hf : Frame ps t u)
    (hp : (ps.contains .slk || ps.contains .pwr || ps.contains .flt) = false) (hk : Keeps t u) : Reported s u := by
  simp only [Bool.or_eq_false_iff] at hp
  obtain ⟨⟨hslk, hpwr⟩, hflt⟩ := hp
  refine h.trans ⟨hk.lsn, .inl ?_, ?_, ?_⟩
  · rw [hf.slk hslk]; exact ⟨rfl, rfl⟩
  · rw [hf.pwr hpwr]; exact id
  · rw [hf.pwr hpwr, hf.flt hflt]; exact .intro

/-- Every next state of the outcome is reported. -/
structure OutReported (s : State) (o : Host.Outcome State Fault Refusal) : Prop where
  out : ∀ t, o = .next t → Reported s t

theorem OutReported.next (h : Reported s t) : OutReported s (.next t) := by
  constructor
  intro u hu
  cases hu
  exact h

theorem Reported.quietOut {ps : List Part} {o : Host.Outcome State Fault Refusal} (h : Reported s t) (hf : OutFrame ps t o)
    (hp : (ps.contains .slk || ps.contains .pwr || ps.contains .flt) = false) (hk : OutKeeps t o) : OutReported s o :=
  ⟨fun u e => h.quiet (hf.out u e) hp (hk.out u e)⟩

/-! ### Branches and repetition -/

theorem ite_reported {c : Prop} [Decidable c] {a b : State} (h : Reported s a) (k : Reported s b) :
    Reported s (if c then a else b) := by split <;> assumption

theorem onlyIf_reported (h : Reported s t) (c : Bool) (f : State → State) (hf : ∀ {t}, Reported s t → Reported s (f t)) :
    Reported s (onlyIf c f t) := ite_reported (hf h) h

theorem foldl_reported {α : Type} (h : Reported s t) (l : List α) (f : State → α → State)
    (hf : ∀ x {t}, Reported s t → Reported s (f t x)) : Reported s (l.foldl f t) := by
  induction l generalizing t with
  | nil => exact h
  | cons a l ih => exact ih (hf a h)

theorem each_reported {α : Type} (h : Reported s t) (l : List α) (f : α → State → State)
    (hf : ∀ x {t}, Reported s t → Reported s (f x t)) : Reported s (each l f t) := foldl_reported h l _ fun x _ k => hf x k

theorem after_reported (h : Reported s t) (o : Host.Outcome State Fault Refusal) (ho : OutReported s o) : Reported s (after o t) := by
  unfold after
  split
  · exact ho.out _ rfl
  · exact h
  · exact h

theorem checked_ite_reported {α : Type} {c : Prop} [Decidable c] {x y : Checked α} (h : Reported s (checkedState x))
    (k : Reported s (checkedState y)) : Reported s (checkedState (if c then x else y)) := by split <;> assumption

/-! ### Block updates -/

/-- A change of none of the blocks that `Reported` speaks of. -/
theorem Reported.same (h : Reported s t) (hled : t.led = u.led) (hslk : t.slk = u.slk) (hpwr : t.pwr = u.pwr) (hflt : t.flt = u.flt) :
    Reported s u := by
  obtain ⟨lsn, latch, aon, hearth⟩ := h
  rw [hled] at lsn latch
  rw [hslk] at latch
  rw [hpwr] at aon hearth
  rw [hflt] at hearth
  refine ⟨lsn, ?_, aon, hearth⟩
  simpa only [LockedByAonLoss, hpwr, hslk] using latch

theorem modSys_reported (h : Reported s t) (f : Sys → Sys) : Reported s (modSys f t) := h.same rfl rfl rfl rfl
theorem modHost_reported (h : Reported s t) (f : HostBlk → HostBlk) : Reported s (modHost f t) := h.same rfl rfl rfl rfl
theorem modSlc_reported (h : Reported s t) (f : Slc → Slc) : Reported s (modSlc f t) := h.same rfl rfl rfl rfl
theorem modClk_reported (h : Reported s t) (f : Clk → Clk) : Reported s (modClk f t) := h.same rfl rfl rfl rfl
theorem modCfg_reported (h : Reported s t) (f : CfgSet → CfgSet) : Reported s (modCfg f t) := h.same rfl rfl rfl rfl
theorem modSec_reported (h : Reported s t) (f : Sec → Sec) : Reported s (modSec f t) := h.same rfl rfl rfl rfl
theorem modDir_reported (h : Reported s t) (f : Dir → Dir) : Reported s (modDir f t) := h.same rfl rfl rfl rfl
theorem modRadio_reported (h : Reported s t) (f : Radio → Radio) : Reported s (modRadio f t) := h.same rfl rfl rfl rfl
theorem modIfl_reported (h : Reported s t) (f : Ifl → Ifl) : Reported s (modIfl f t) := h.same rfl rfl rfl rfl
theorem modCus_reported (h : Reported s t) (f : Cus → Cus) : Reported s (modCus f t) := h.same rfl rfl rfl rfl
theorem modUpd_reported (h : Reported s t) (f : Upd → Upd) : Reported s (modUpd f t) := h.same rfl rfl rfl rfl
theorem modFlight_reported (h : Reported s t) (r : Nat) (f : Flight → Flight) : Reported s (modFlight r f t) := h.same rfl rfl rfl rfl
theorem modRing_reported (h : Reported s t) (g : Nat) (f : Ring → Ring) : Reported s (modRing g f t) := h.same rfl rfl rfl rfl
theorem emit_reported (h : Reported s t) (o : Out) : Reported s (emit o t) := h.same rfl rfl rfl rfl
theorem drawn_reported (h : Reported s t) (n : Nat) : Reported s (drawn n t) := h.same rfl rfl rfl rfl

theorem modLed_reported (h : Reported s t) (f : Ledger → Ledger) (hf : ∀ b, (f b).lsn = b.lsn) : Reported s (modLed f t) :=
  h.trans ⟨(hf _).ge, .inl ⟨rfl, rfl⟩, id, .intro⟩

theorem logRec_reported (h : Reported s t) (k : LKind) : Reported s (logRec k t) :=
  h.trans ⟨Nat.le_succ _, .inl ⟨rfl, rfl⟩, id, .intro⟩

/-- The power block, with the mode and the loss of AON state as they were. -/
theorem modPwr_reported (h : Reported s t) (f : Pwr → Pwr) (hf : ∀ b, (f b).mode = b.mode ∧ (f b).aonLost = b.aonLost) :
    Reported s (modPwr f t) :=
  h.trans ⟨le_rfl, .inl ⟨rfl, rfl⟩, (hf _).2.trans, fun hm ho => ⟨(hf _).1.symm.trans hm, ho⟩⟩

/-- The power block, with another mode than Hearth and the loss of AON state as it was. -/
theorem modPwr_reported_of_ne (h : Reported s t) (f : Pwr → Pwr) (hf : ∀ b, (f b).mode ≠ .hearth ∧ (f b).aonLost = b.aonLost) :
    Reported s (modPwr f t) :=
  h.trans ⟨le_rfl, .inl ⟨rfl, rfl⟩, (hf _).2.trans, fun hm _ => absurd hm (hf _).1⟩

/-- The fault block, but for the Hearth record owed and its cause. -/
theorem modFlt_reported (h : Reported s t) (f : Flt → Flt)
    (hf : ∀ b, (f b).hearthOwed = b.hearthOwed ∧ (f b).hearthCause = b.hearthCause) : Reported s (modFlt f t) :=
  h.trans ⟨le_rfl, .inl ⟨rfl, rfl⟩, id, fun hm ho => ⟨hm, (hf _).1.symm.trans ho⟩⟩

/-- Whatever the mode has become: a Hearth record is owed. -/
theorem Reported.owed (h : Reported s t) (hlsn : t.led.lsn ≤ u.led.lsn) (hslk : u.slk = t.slk) (haon : u.pwr.aonLost = t.pwr.aonLost)
    (ho : u.flt.hearthOwed = true) : Reported s u :=
  h.trans ⟨hlsn, .inl (by rw [hslk]; exact ⟨rfl, rfl⟩), haon.trans, fun _ hn => by simp [ho] at hn⟩

/-- The START-LOCK block, but for the latch. -/
theorem modSlk_reported (h : Reported s t) (f : Slk → Slk) (hf : ∀ b, (f b).code = b.code ∧ (f b).comp = b.comp) :
    Reported s (modSlk f t) :=
  h.trans ⟨le_rfl, .inl (hf _), id, .intro⟩

theorem setDieTemp_reported (h : Reported s t) (v : Int) : Reported s (setDieTemp v t) := by
  refine h.trans ?_
  unfold setDieTemp
  split <;> exact ⟨le_rfl, .inl ⟨rfl, rfl⟩, id, .intro⟩

/-! ### The operations, in the order of their definitions -/

set_option linter.unusedTactic false
set_option linter.unreachableTactic false


theorem fromRtc_reported (h : Reported s t) : Reported s (fromRtc t) :=
  h.quiet (fromRtc_frame (.refl _ t) (within_refl _)) rfl (fromRtc_keeps (.refl t))

theorem sendMsix_reported (h : Reported s t) (a1 a2) : Reported s (sendMsix a1 a2 t) :=
  h.quiet (sendMsix_frame (.refl _ t) (within_refl _) a1 a2) rfl (sendMsix_keeps (.refl t) a1 a2)

theorem tryLog_reported (h : Reported s t) (a1) : Reported s (tryLog a1 t) :=
  h.quiet (tryLog_frame (.refl _ t) (within_refl _) a1) rfl (tryLog_keeps (.refl t) a1)

theorem logPart_reported (h : Reported s t) (a1) : Reported s (logPart a1 t) :=
  h.quiet (logPart_frame (.refl _ t) (within_refl _) a1) rfl (logPart_keeps (.refl t) a1)

theorem settleDups_reported (h : Reported s t) (a1 a2) : Reported s (settleDups a1 a2 t) :=
  h.quiet (settleDups_frame (.refl _ t) (within_refl _) a1 a2) rfl (settleDups_keeps (.refl t) a1 a2)

theorem noteV_reported (h : Reported s t) : Reported s (noteV t) :=
  h.quiet (noteV_frame (.refl _ t) (within_refl _)) rfl (noteV_keeps (.refl t))

theorem settle_reported (h : Reported s t) (a1 a2) : Reported s (settle a1 a2 t) :=
  h.quiet (settle_frame (.refl _ t) (within_refl _) a1 a2) rfl (settle_keeps (.refl t) a1 a2)

theorem startOp_reported (h : Reported s t) (opc r : Nat) (body : Flight → State → State)
    (hb : ∀ f {t}, Reported s t → Reported s (body f t)) : Reported s (startOp opc r body t) := by
  unfold startOp
  split
  · exact h
  · exact ite_reported (ite_reported (hb _ (modFlight_reported (noteV_reported h) _ _)) (settle_reported h _ _)) h

theorem onOp_reported (h : Reported s t) (opc r : Nat) (body : Flight → State → State)
    (hb : ∀ f {t}, Reported s t → Reported s (body f t)) : Reported s (onOp opc r body t) := by
  unfold onOp
  split
  · exact h
  · exact ite_reported (hb _ h) h

theorem atStage_reported (h : Reported s t) (a1 a2 a3) : Reported s (atStage a1 a2 a3 t) :=
  h.quiet (atStage_frame (.refl _ t) (within_refl _) a1 a2 a3) rfl (atStage_keeps (.refl t) a1 a2 a3)

theorem writeAndSettle_reported (h : Reported s t) (a1 a2 a3 a4 a5 a6) : Reported s (writeAndSettle a1 a2 a3 a4 a5 a6 t) :=
  h.quiet (writeAndSettle_frame (.refl _ t) (within_refl _) a1 a2 a3 a4 a5 a6) rfl (writeAndSettle_keeps (.refl t) a1 a2 a3 a4 a5 a6)

/-- A commit point writes its record before the effect, which may so move the latch. -/
theorem commitPoint_reported (h : Reported s t) (r : Nat) (f : Flight) (allowed : Bool) (k : LKind) (stage detail : Nat)
    (body : State → State) (hb : ∀ {t}, Reported s t → s.led.lsn < t.led.lsn → Reported s (body t)) :
    Reported s (commitPoint r f allowed k stage detail body t) :=
  ite_reported (ite_reported (hb (logRec_reported h k) (Nat.lt_succ_of_le h.lsn)) (settle_reported h _ _)) (settle_reported h _ _)

theorem drainRing_reported (h : Reported s t) (a1) : Reported s (drainRing a1 t) :=
  h.quiet (drainRing_frame (.refl _ t) (within_refl _) a1) rfl (drainRing_keeps (.refl t) a1)

theorem settleBuckets_reported (h : Reported s t) : Reported s (settleBuckets t) :=
  h.quiet (settleBuckets_frame (.refl _ t) (within_refl _)) rfl (settleBuckets_keeps (.refl t))

theorem setUnit_reported (h : Reported s t) (a1 a2 a3) : Reported s (setUnit a1 a2 a3 t) := by
  unfold setUnit
  repeat'
    first
    | exact fun _ => ⟨rfl, rfl⟩
    | intro _
    | with_reducible (first | assumption | apply modFlt_reported)

theorem elapseNs_reported (h : Reported s t) (a1) : Reported s (elapseNs a1 t) :=
  h.quiet (elapseNs_frame (.refl _ t) (within_refl _) a1) rfl (elapseNs_keeps (.refl t) a1)

theorem elapseToNs_reported (h : Reported s t) (a1) : Reported s (elapseToNs a1 t) :=
  h.quiet (elapseToNs_frame (.refl _ t) (within_refl _) a1) rfl (elapseToNs_keeps (.refl t) a1)

theorem elapseTo_reported (h : Reported s t) (a1) : Reported s (elapseTo a1 t) :=
  h.quiet (elapseTo_frame (.refl _ t) (within_refl _) a1) rfl (elapseTo_keeps (.refl t) a1)

theorem cntRateChange_reported (h : Reported s t) : Reported s (cntRateChange t) :=
  h.quiet (cntRateChange_frame (.refl _ t) (within_refl _)) rfl (cntRateChange_keeps (.refl t))

theorem writeFault_reported (h : Reported s t) (a1 a2 a3 a4 a5 a6 a7) : Reported s (writeFault a1 a2 a3 a4 a5 a6 a7 t) := by
  unfold writeFault
  repeat'
    first
    | exact fun _ => ⟨rfl, rfl⟩
    | intro _
    | with_reducible (first | assumption | apply logRec_reported | apply modFlt_reported | apply sendMsix_reported | apply ite_reported)

theorem fault_reported (h : Reported s t) (a1 a2 a3 a4 a5 a6 a7) : Reported s (fault a1 a2 a3 a4 a5 a6 a7 t) := by
  unfold fault
  repeat'
    first
    | exact fun _ => ⟨rfl, rfl⟩
    | intro _
    | with_reducible (first | assumption | apply writeFault_reported | apply modFlt_reported | apply ite_reported)

theorem changeUnit_reported (h : Reported s t) (a1 a2 a3 a4 a5 a6 a7 a8) : Reported s (changeUnit a1 a2 a3 a4 a5 a6 a7 a8 t) := by
  unfold changeUnit
  repeat'
    first
    | exact fun _ => ⟨rfl, rfl⟩
    | intro _
    | with_reducible (first | assumption | apply modFlt_reported | apply writeFault_reported | apply setUnit_reported)

theorem reportUnit_reported (h : Reported s t) (a1 a2 a3 a4 a5) : Reported s (reportUnit a1 a2 a3 a4 a5 t) := by
  unfold reportUnit
  repeat'
    first
    | exact fun _ => ⟨rfl, rfl⟩
    | intro _
    | with_reducible (first | assumption | apply modFlt_reported | apply writeFault_reported)

theorem outOfService_reported (h : Reported s t) (a1 a2 a3 a4 a5) : Reported s (outOfService a1 a2 a3 a4 a5 t) := by
  unfold outOfService
  repeat'
    first
    | intro _
    | with_reducible (first | assumption | apply changeUnit_reported | apply ite_reported)

theorem backInService_reported (h : Reported s t) (a1 a2) : Reported s (backInService a1 a2 t) := by
  unfold backInService
  repeat'
    first
    | intro _
    | with_reducible (first | assumption | apply changeUnit_reported | apply ite_reported)

theorem raiseEnable_reported (h : Reported s t) (a1) : Reported s (raiseEnable a1 t) := by
  unfold raiseEnable
  repeat'
    first
    | exact fun _ => ⟨rfl, rfl⟩
    | intro _
    | with_reducible (first | assumption | apply emit_reported | apply modPwr_reported | apply ite_reported)

theorem coexPins_reported (h : Reported s t) (a1) : Reported s (coexPins a1 t) :=
  h.quiet (coexPins_frame (.refl _ t) (within_refl _) a1) rfl (coexPins_keeps (.refl t) a1)

theorem uartLine_reported (h : Reported s t) (a1) : Reported s (uartLine a1 t) :=
  h.quiet (uartLine_frame (.refl _ t) (within_refl _) a1) rfl (uartLine_keeps (.refl t) a1)

theorem lowerEnable_reported (h : Reported s t) (a1) : Reported s (lowerEnable a1 t) := by
  unfold lowerEnable
  repeat'
    first
    | exact fun _ => ⟨rfl, rfl⟩
    | intro _
    | with_reducible (first | assumption | apply onlyIf_reported | apply coexPins_reported | apply emit_reported | apply modPwr_reported | apply ite_reported)

theorem lowerFrom_reported (h : Reported s t) (a1) : Reported s (lowerFrom a1 t) := by
  unfold lowerFrom
  repeat'
    first
    | intro _
    | with_reducible (first | assumption | apply each_reported | apply lowerEnable_reported)

theorem raiseEach_reported (h : Reported s t) (a1) : Reported s (raiseEach a1 t) := by
  unfold raiseEach
  repeat'
    first
    | intro _
    | with_reducible (first | assumption | apply each_reported | apply raiseEnable_reported | apply ite_reported)

theorem gather_reported (h : Reported s t) : Reported s (gather t) :=
  h.quiet (gather_frame (.refl _ t) (within_refl _)) rfl (gather_keeps (.refl t))

theorem discardBlock_reported (h : Reported s t) (a1) : Reported s (discardBlock a1 t) :=
  h.quiet (discardBlock_frame (.refl _ t) (within_refl _) a1) rfl (discardBlock_keeps (.refl t) a1)

theorem instantiate_reported (h : Reported s t) : Reported s (instantiate t) :=
  h.quiet (instantiate_frame (.refl _ t) (within_refl _)) rfl (instantiate_keeps (.refl t))

theorem stopRng_reported (h : Reported s t) : Reported s (stopRng t) :=
  h.quiet (stopRng_frame (.refl _ t) (within_refl _)) rfl (stopRng_keeps (.refl t))

theorem powerSlice_reported (h : Reported s t) : Reported s (powerSlice t) := by
  unfold powerSlice
  repeat'
    first
    | intro _
    | with_reducible (first | assumption | apply raiseEach_reported)

theorem slicePowered_reported (h : Reported s t) : Reported s (slicePowered t) :=
  h.quiet (slicePowered_frame (.refl _ t) (within_refl _)) rfl (slicePowered_keeps (.refl t))

theorem grantWindow_reported (h : Reported s t) (a1 a2 a3) : Reported s (grantWindow a1 a2 a3 t) :=
  h.quiet (grantWindow_frame (.refl _ t) (within_refl _) a1 a2 a3) rfl (grantWindow_keeps (.refl t) a1 a2 a3)

theorem recut_reported (h : Reported s t) : Reported s (recut t).1 :=
  h.quiet (recut_frame (.refl _ t) (within_refl _)) rfl (recut_keeps (.refl t))

theorem propWatch_reported (h : Reported s t) (a1) : Reported s (propWatch a1 t) :=
  h.quiet (propWatch_frame (.refl _ t) (within_refl _) a1) rfl (propWatch_keeps (.refl t) a1)

theorem onCrankLost_reported (h : Reported s t) : Reported s (onCrankLost t) :=
  h.quiet (onCrankLost_frame (.refl _ t) (within_refl _)) rfl (onCrankLost_keeps (.refl t))

theorem onCrankSync_reported (h : Reported s t) : Reported s (onCrankSync t) :=
  h.quiet (onCrankSync_frame (.refl _ t) (within_refl _)) rfl (onCrankSync_keeps (.refl t))

theorem execXtal32kLoss_reported (h : Reported s t) : OutReported s (execXtal32kLoss t) := by
  unfold execXtal32kLoss
  repeat'
    first
    | exact fun _ => ⟨rfl, rfl⟩
    | intro _
    | with_reducible (first | assumption | apply OutReported.next | apply fault_reported | apply modClk_reported | apply ite_reported)

theorem execXtal32kReturn_reported (h : Reported s t) : OutReported s (execXtal32kReturn t) := by
  unfold execXtal32kReturn
  repeat'
    first
    | exact fun _ => ⟨rfl, rfl⟩
    | intro _
    | with_reducible (first | assumption | apply OutReported.next | apply fault_reported | apply modClk_reported | apply ite_reported)

theorem ringHrPi_reported (h : Reported s t) (a1 a2) : Reported s (ringHrPi a1 a2 t) :=
  h.quiet (ringHrPi_frame (.refl _ t) (within_refl _) a1 a2) rfl (ringHrPi_keeps (.refl t) a1 a2)

theorem ringTrCi_reported (h : Reported s t) (a1 a2) : Reported s (ringTrCi a1 a2 t) :=
  h.quiet (ringTrCi_frame (.refl _ t) (within_refl _) a1 a2) rfl (ringTrCi_keeps (.refl t) a1 a2)

theorem rung_reported (h : Reported s t) : Reported s (rung t) := by
  unfold rung
  repeat'
    first
    | exact fun _ => ⟨rfl, rfl⟩
    | intro _
    | with_reducible (first | assumption | apply modPwr_reported)

theorem hrPiDoorbell_reported (h : Reported s t) (a1 a2 a3 a4) : Reported s (hrPiDoorbell a1 a2 a3 a4 t) := by
  unfold hrPiDoorbell
  repeat'
    first
    | intro _
    | with_reducible (first | assumption | apply ringHrPi_reported | apply rung_reported | apply modRing_reported | apply ite_reported)
    | split

theorem trCiDoorbell_reported (h : Reported s t) (a1 a2 a3 a4) : Reported s (trCiDoorbell a1 a2 a3 a4 t) := by
  unfold trCiDoorbell
  repeat'
    first
    | intro _
    | with_reducible (first | assumption | apply ringTrCi_reported | apply rung_reported | apply modRing_reported | apply ite_reported)
    | split

theorem execDoorbellHrPi_reported (h : Reported s t) (a1 a2 a3 a4) : OutReported s (execDoorbellHrPi a1 a2 a3 a4 t) := by
  unfold execDoorbellHrPi
  repeat'
    first
    | intro _
    | with_reducible (first | assumption | apply OutReported.next | apply hrPiDoorbell_reported)

theorem execDoorbellTrCi_reported (h : Reported s t) (a1 a2 a3 a4) : OutReported s (execDoorbellTrCi a1 a2 a3 a4 t) := by
  unfold execDoorbellTrCi
  repeat'
    first
    | intro _
    | with_reducible (first | assumption | apply OutReported.next | apply trCiDoorbell_reported)

theorem heldDoorbells_reported (h : Reported s t) : Reported s (heldDoorbells t) :=
  h.quiet (heldDoorbells_frame (.refl _ t) (within_refl _)) rfl (heldDoorbells_keeps (.refl t))

theorem trainLink_reported (h : Reported s t) : Reported s (trainLink t) :=
  h.quiet (trainLink_frame (.refl _ t) (within_refl _)) rfl (trainLink_keeps (.refl t))

theorem linkDown_reported (h : Reported s t) : Reported s (linkDown t) :=
  h.quiet (linkDown_frame (.refl _ t) (within_refl _)) rfl (linkDown_keeps (.refl t))

theorem keyEvent_reported (h : Reported s t) (a1) : Reported s (keyEvent a1 t) :=
  h.quiet (keyEvent_frame (.refl _ t) (within_refl _) a1) rfl (keyEvent_keeps (.refl t) a1)

theorem closeHandlesOf_reported (h : Reported s t) (a1) : Reported s (closeHandlesOf a1 t) :=
  h.quiet (closeHandlesOf_frame (.refl _ t) (within_refl _) a1) rfl (closeHandlesOf_keeps (.refl t) a1)

theorem slkEvent_reported (h : Reported s t) (a1) : Reported s (slkEvent a1 t) := by
  unfold slkEvent
  repeat'
    first
    | exact fun _ => ⟨rfl, rfl⟩
    | intro _
    | with_reducible (first | assumption | apply modSlk_reported)

theorem sendState_reported (h : Reported s t) : Reported s (sendState t) := by
  unfold sendState
  repeat'
    first
    | exact fun _ => ⟨rfl, rfl⟩
    | intro _
    | with_reducible (first | assumption | apply logRec_reported | apply modSlk_reported | apply onlyIf_reported | apply slkEvent_reported | apply emit_reported | apply ite_reported)
    | split
    | (extract_lets +onlyGivenNames x; first | (refine (fun hx : Reported s x => ?_) ?_ <;> [clear_value x; subst x]) | clear_value x)

theorem sendBody_reported (h : Reported s t) (a1 a2 a3) : Reported s (sendBody a1 a2 a3 t) := by
  unfold sendBody
  repeat'
    first
    | exact fun _ => ⟨rfl, rfl⟩
    | intro _
    | with_reducible (first | assumption | apply logRec_reported | apply modSlk_reported | apply onlyIf_reported | apply slkEvent_reported | apply emit_reported | apply ite_reported)
    | split
    | (extract_lets +onlyGivenNames x; first | (refine (fun hx : Reported s x => ?_) ?_ <;> [clear_value x; subst x]) | clear_value x)

theorem flagsCheck_reported (h : Reported s t) : Reported s (flagsCheck t) := by
  unfold flagsCheck
  repeat'
    first
    | exact fun _ => ⟨rfl, rfl⟩
    | intro _
    | with_reducible (first | assumption | apply sendState_reported | apply onlyIf_reported | apply slkEvent_reported | apply modSlk_reported | apply ite_reported)

theorem startTimer_reported (h : Reported s t) (l : Latch) : Reported s (startTimer l t) := by
  unfold startTimer
  exact modSlk_reported h _ fun _ => by split <;> exact ⟨rfl, rfl⟩

theorem holdUpdate_reported (h : Reported s t) : Reported s (holdUpdate t) := by
  unfold holdUpdate
  repeat'
    first
    | exact fun _ => ⟨rfl, rfl⟩
    | intro _
    | with_reducible (first | assumption | apply modSlk_reported | apply ite_reported)

theorem drivePins_reported (h : Reported s t) : Reported s (drivePins t) :=
  h.quiet (drivePins_frame (.refl _ t) (within_refl _)) rfl (drivePins_keeps (.refl t))

/-- The latch moves after its record. -/
theorem setLatch_reported (h : Reported s t) (hl : s.led.lsn < t.led.lsn) (old new : Latch) (cause : Nat) (bind : Option Nat) :
    Reported s (setLatch old new cause bind t) := by
  unfold setLatch
  extract_lets clear moved
  have hmoved : Reported s moved := ⟨h.lsn, .inr (.inl ⟨hl, new, rfl, rfl⟩), h.aon, h.hearth⟩
  clear_value moved
  exact sendState_reported (onlyIf_reported (slkEvent_reported (startTimer_reported hmoved _) _) _ _ fun k => drivePins_reported k)

theorem moveLatch_reported (h : Reported s t) (new : Latch) (cause tid ten seq : Nat) : Reported s (moveLatch new cause tid ten seq t) := by
  unfold moveLatch
  refine ite_reported h (ite_reported (setLatch_reported (logRec_reported h _) (Nat.lt_succ_of_le h.lsn) _ _ _ _)
    (slkEvent_reported (modSlk_reported h _ ?_) _))
  exact fun _ => ⟨rfl, rfl⟩

theorem lockRequest_reported (h : Reported s t) (cause ten seq : Nat) : Reported s (lockRequest cause ten seq t) := by
  unfold lockRequest
  refine ite_reported h ?_
  extract_lets n note
  have hnote : ∀ {u}, Reported s u → Reported s (note u) := fun k => ite_reported k (modSlk_reported k _ fun _ => ⟨rfl, rfl⟩)
  split
  · exact hnote (moveLatch_reported h _ _ _ _ _)
  · exact hnote (tryLog_reported h _)

theorem noRelease_reported (h : Reported s t) : Reported s (noRelease t) := by
  unfold noRelease
  repeat'
    first
    | exact fun _ => ⟨rfl, rfl⟩
    | intro _
    | with_reducible (first | assumption | apply onlyIf_reported | apply slkEvent_reported | apply modSlk_reported | apply logPart_reported | apply ite_reported)

theorem windowExpired_reported (h : Reported s t) : Reported s (windowExpired t) := by
  unfold windowExpired
  repeat'
    first
    | exact fun _ => ⟨rfl, rfl⟩
    | intro _
    | with_reducible (first | assumption | apply modSlk_reported | apply lockRequest_reported | apply ite_reported)

theorem engineChange_reported (h : Reported s t) : Reported s (engineChange t) := by
  unfold engineChange
  repeat'
    first
    | exact fun _ => ⟨rfl, rfl⟩
    | intro _
    | with_reducible (first | assumption | apply moveLatch_reported | apply noRelease_reported | apply modSlk_reported | apply ite_reported)
    | split

theorem latchCheck_reported (h : Reported s t) : Reported s (latchCheck t) := by
  unfold latchCheck
  repeat'
    first
    | intro _
    | with_reducible (first | assumption | apply fault_reported | apply slkEvent_reported | apply ite_reported)

theorem lockWatch_reported (h : Reported s t) : Reported s (lockWatch t) := by
  unfold lockWatch
  repeat'
    first
    | intro _
    | with_reducible (first | assumption | apply holdUpdate_reported | apply engineChange_reported | apply latchCheck_reported | apply flagsCheck_reported | apply onlyIf_reported | apply windowExpired_reported)

theorem tokenAbsent_reported (h : Reported s t) (a1) : Reported s (tokenAbsent a1 t) := by
  unfold tokenAbsent
  repeat'
    first
    | exact fun _ => ⟨rfl, rfl⟩
    | intro _
    | with_reducible (first | assumption | apply flagsCheck_reported | apply logPart_reported | apply slkEvent_reported | apply modSlk_reported | apply ite_reported)

theorem tokenUnknown_reported (h : Reported s t) (a1) : Reported s (tokenUnknown a1 t) := by
  unfold tokenUnknown
  repeat'
    first
    | exact fun _ => ⟨rfl, rfl⟩
    | intro _
    | with_reducible (first | assumption | apply flagsCheck_reported | apply modSlk_reported | apply ite_reported)

theorem tokenBack_reported (h : Reported s t) (a1) : Reported s (tokenBack a1 t) := by
  unfold tokenBack
  repeat'
    first
    | exact fun _ => ⟨rfl, rfl⟩
    | intro _
    | with_reducible (first | assumption | apply flagsCheck_reported | apply logPart_reported | apply modSlk_reported | apply tokenUnknown_reported | apply ite_reported)

theorem tokenInCab_reported (h : Reported s t) (a1) : Reported s (tokenInCab a1 t) := by
  unfold tokenInCab
  repeat'
    first
    | intro _
    | with_reducible (first | assumption | apply moveLatch_reported | apply startTimer_reported | apply ite_reported)
    | split

theorem abandonParking_reported (h : Reported s t) : Reported s (abandonParking t) := by
  unfold abandonParking
  repeat'
    first
    | exact fun _ => ⟨rfl, rfl⟩
    | intro _
    | with_reducible (first | assumption | apply heldDoorbells_reported | apply modPwr_reported | apply ite_reported)

theorem lowBatteryAnew_reported (h : Reported s t) : Reported s (lowBatteryAnew t) := by
  unfold lowBatteryAnew
  repeat'
    first
    | exact fun _ => ⟨rfl, rfl⟩
    | intro _
    | with_reducible (first | assumption | apply modPwr_reported | apply ite_reported)
    | split

theorem enterDrive_reported (h : Reported s t) : Reported s (enterDrive t) :=
  ite_reported (modPwr_reported_of_ne (abandonParking_reported h) _ fun _ => ⟨nofun, rfl⟩) h

theorem modeWatch_reported (h : Reported s t) : Reported s (modeWatch t) := by
  unfold modeWatch
  repeat'
    first
    | exact fun _ => ⟨rfl, rfl⟩
    | intro _
    | with_reducible (first | assumption | apply onlyIf_reported | apply enterDrive_reported | apply modPwr_reported | apply ite_reported)

theorem execDriveExit_reported (h : Reported s t) : OutReported s (execDriveExit t) := by
  refine .next ?_
  split
  · have helapsed := elapseTo_reported h ‹_›
    exact ite_reported (ite_reported (lowBatteryAnew_reported (modPwr_reported_of_ne helapsed _ fun _ => ⟨nofun, rfl⟩))
      (modPwr_reported helapsed _ fun _ => ⟨rfl, rfl⟩)) h
  · exact h

theorem enterService_reported (h : Reported s t) (n : Nat) : Reported s (enterService n t) :=
  ite_reported (modPwr_reported_of_ne (abandonParking_reported h) _ fun _ => ⟨nofun, rfl⟩)
    (ite_reported (modPwr_reported h _ fun _ => ⟨rfl, rfl⟩) h)

theorem leaveService_reported (h : Reported s t) : Reported s (leaveService t) :=
  ite_reported (modeWatch_reported (lowBatteryAnew_reported
    (modPwr_reported_of_ne (modUpd_reported h _) _ fun _ => ⟨nofun, rfl⟩))) h

theorem endServiceIfDue_reported (h : Reported s t) : Reported s (endServiceIfDue t) := by
  unfold endServiceIfDue
  repeat'
    first
    | intro _
    | with_reducible (first | assumption | apply leaveService_reported | apply ite_reported)
    | split

theorem closeDebug_reported (h : Reported s t) : Reported s (closeDebug t) := by
  unfold closeDebug
  repeat'
    first
    | exact fun _ => ⟨rfl, rfl⟩
    | intro _
    | with_reducible (first | assumption | apply endServiceIfDue_reported | apply modFlt_reported)

theorem execHashEngineFault_reported (h : Reported s t) (a1) : OutReported s (execHashEngineFault a1 t) := by
  unfold execHashEngineFault
  repeat'
    first
    | exact fun _ => ⟨rfl, rfl⟩
    | intro _
    | with_reducible (first | assumption | apply OutReported.next | apply modSec_reported | apply outOfService_reported | apply ite_reported)

theorem execPublicKeyEngineFault_reported (h : Reported s t) : OutReported s (execPublicKeyEngineFault t) := by
  unfold execPublicKeyEngineFault
  repeat'
    first
    | intro _
    | with_reducible (first | assumption | apply OutReported.next | apply outOfService_reported)

theorem modSource_reported (h : Reported s t) (a1 a2) : Reported s (modSource a1 a2 t) :=
  h.quiet (modSource_frame (.refl _ t) (within_refl _) a1 a2) rfl (modSource_keeps (.refl t) a1 a2)

theorem rngEvent_reported (h : Reported s t) (a1) : Reported s (rngEvent a1 t) :=
  h.quiet (rngEvent_frame (.refl _ t) (within_refl _) a1) rfl (rngEvent_keeps (.refl t) a1)

theorem judgeRng_reported (h : Reported s t) : Reported s (judgeRng t) := by
  unfold judgeRng
  repeat'
    first
    | exact fun _ => ⟨rfl, rfl⟩
    | intro _
    | with_reducible (first | assumption | apply rngEvent_reported | apply fault_reported | apply stopRng_reported | apply modSec_reported | apply ite_reported)

theorem sourceFails_reported (h : Reported s t) (a1 a2) : Reported s (sourceFails a1 a2 t) := by
  unfold sourceFails
  repeat'
    first
    | intro _
    | with_reducible (first | assumption | apply modSource_reported | apply discardBlock_reported | apply onlyIf_reported | apply rngEvent_reported | apply judgeRng_reported | apply changeUnit_reported | apply ite_reported)

theorem execRngSourceFailure_reported (h : Reported s t) (a1 a2) : OutReported s (execRngSourceFailure a1 a2 t) := by
  unfold execRngSourceFailure
  repeat'
    first
    | intro _
    | with_reducible (first | assumption | apply OutReported.next | apply sourceFails_reported | apply ite_reported)

theorem execRngHealthCheck_reported (h : Reported s t) (a1 a2) : OutReported s (execRngHealthCheck a1 a2 t) := by
  unfold execRngHealthCheck
  repeat'
    first
    | intro _
    | with_reducible (first | assumption | apply OutReported.next | apply onlyIf_reported | apply rngEvent_reported | apply each_reported | apply sourceFails_reported | apply ite_reported)

theorem execSourceReturn_reported (h : Reported s t) (a1) : OutReported s (execSourceReturn a1 t) := by
  unfold execSourceReturn
  repeat'
    first
    | intro _
    | with_reducible (first | assumption | apply OutReported.next | apply elapseTo_reported | apply backInService_reported | apply modSource_reported | apply gather_reported | apply ite_reported)

theorem makeStarter_reported (h : Reported s t) : Reported s (makeStarter t) :=
  h.quiet (makeStarter_frame (.refl _ t) (within_refl _)) rfl (makeStarter_keeps (.refl t))

theorem checkStarter_reported (h : Reported s t) : Reported s (checkStarter t) :=
  h.quiet (checkStarter_frame (.refl _ t) (within_refl _)) rfl (checkStarter_keeps (.refl t))

theorem execRngSelfTestEnd_reported (h : Reported s t) (a1 a2) : OutReported s (execRngSelfTestEnd a1 a2 t) := by
  unfold execRngSelfTestEnd
  repeat'
    first
    | exact fun _ => ⟨rfl, rfl⟩
    | intro _
    | with_reducible (first | assumption | apply OutReported.next | apply modSec_reported | apply each_reported | apply backInService_reported | apply rngEvent_reported | apply changeUnit_reported | apply instantiate_reported | apply onlyIf_reported | apply makeStarter_reported | apply fault_reported | apply stopRng_reported | apply ite_reported)

theorem modDrive_reported (h : Reported s t) (a1 a2) : Reported s (modDrive a1 a2 t) :=
  h.quiet (modDrive_frame (.refl _ t) (within_refl _) a1 a2) rfl (modDrive_keeps (.refl t) a1 a2)

theorem cusEvent_reported (h : Reported s t) (a1) : Reported s (cusEvent a1 t) :=
  h.quiet (cusEvent_frame (.refl _ t) (within_refl _) a1) rfl (cusEvent_keeps (.refl t) a1)

theorem lostLeaves_reported (h : Reported s t) (a1) : Reported s (lostLeaves a1 t) :=
  h.quiet (lostLeaves_frame (.refl _ t) (within_refl _) a1) rfl (lostLeaves_keeps (.refl t) a1)

theorem custodyWork_reported (h : Reported s t) : Reported s (custodyWork t) :=
  h.quiet (custodyWork_frame (.refl _ t) (within_refl _)) rfl (custodyWork_keeps (.refl t))

theorem driveRecord_reported (h : Reported s t) (a1 a2 a3) : Reported s (driveRecord a1 a2 a3 t) :=
  h.quiet (driveRecord_frame (.refl _ t) (within_refl _) a1 a2 a3) rfl (driveRecord_keeps (.refl t) a1 a2 a3)

theorem jobWrite_reported (h : Reported s t) (a1 a2 a3) : Reported s (jobWrite a1 a2 a3 t) :=
  h.quiet (jobWrite_frame (.refl _ t) (within_refl _) a1 a2 a3) rfl (jobWrite_keeps (.refl t) a1 a2 a3)

theorem jobLost_reported (h : Reported s t) (a1 a2) : Reported s (jobLost a1 a2 t) :=
  h.quiet (jobLost_frame (.refl _ t) (within_refl _) a1 a2) rfl (jobLost_keeps (.refl t) a1 a2)

theorem cancelAppend_reported (h : Reported s t) (a1) : Reported s (cancelAppend a1 t) :=
  h.quiet (cancelAppend_frame (.refl _ t) (within_refl _) a1) rfl (cancelAppend_keeps (.refl t) a1)

theorem driveGone_reported (h : Reported s t) (a1) : Reported s (driveGone a1 t) :=
  h.quiet (driveGone_frame (.refl _ t) (within_refl _) a1) rfl (driveGone_keeps (.refl t) a1)

theorem storeDriveLost_reported (h : Reported s t) (a1 a2 a3) : Reported s (storeDriveLost a1 a2 a3 t) := by
  unfold storeDriveLost
  repeat'
    first
    | exact fun _ => ⟨rfl, rfl⟩
    | intro _
    | with_reducible (first | assumption | apply cusEvent_reported | apply tryLog_reported | apply modCus_reported | apply each_reported | apply jobLost_reported | apply fault_reported | apply driveRecord_reported | apply onlyIf_reported | apply ite_reported)
    | split
    | (extract_lets +onlyGivenNames x; first | (refine (fun hx : Reported s x => ?_) ?_ <;> [clear_value x; subst x]) | clear_value x)

theorem declareLost_reported (h : Reported s t) (a1) : Reported s (declareLost a1 t) := by
  unfold declareLost
  repeat'
    first
    | intro _
    | with_reducible (first | assumption | apply modDrive_reported | apply storeDriveLost_reported | apply driveGone_reported | apply lostLeaves_reported | apply ite_reported)
    | split
    | (extract_lets +onlyGivenNames x; first | (refine (fun hx : Reported s x => ?_) ?_ <;> [clear_value x; subst x]) | clear_value x)

theorem wasLost_reported (h : Reported s t) (a1) : Reported s (wasLost a1 t) := by
  unfold wasLost
  repeat'
    first
    | intro _
    | with_reducible (first | assumption | apply storeDriveLost_reported | apply modDrive_reported)
    | split

theorem execDriveLossDeclaration_reported (h : Reported s t) (a1) : OutReported s (execDriveLossDeclaration a1 t) := by
  unfold execDriveLossDeclaration
  repeat'
    first
    | intro _
    | with_reducible (first | assumption | apply OutReported.next | apply declareLost_reported | apply elapseTo_reported | apply wasLost_reported | apply ite_reported)
    | split

theorem execNvmeFatalStatus_reported (h : Reported s t) (a1) : OutReported s (execNvmeFatalStatus a1 t) := by
  unfold execNvmeFatalStatus
  repeat'
    first
    | intro _
    | with_reducible (first | assumption | apply OutReported.next | apply wasLost_reported | apply declareLost_reported | apply ite_reported)

theorem execNvmeCommandTimeout_reported (h : Reported s t) (a1) : OutReported s (execNvmeCommandTimeout a1 t) := by
  unfold execNvmeCommandTimeout
  repeat'
    first
    | intro _
    | with_reducible (first | assumption | apply OutReported.next | apply declareLost_reported | apply elapseNs_reported | apply emit_reported | apply ite_reported)

theorem driveWorn_reported (h : Reported s t) (a1) : Reported s (driveWorn a1 t) := by
  unfold driveWorn
  repeat'
    first
    | exact fun _ => ⟨rfl, rfl⟩
    | intro _
    | with_reducible (first | assumption | apply modCus_reported | apply cusEvent_reported | apply fault_reported | apply modDrive_reported | apply ite_reported)

theorem driveOnline_reported (h : Reported s t) (a1 a2 a3) : Reported s (driveOnline a1 a2 a3 t) := by
  unfold driveOnline
  repeat'
    first
    | exact fun _ => ⟨rfl, rfl⟩
    | intro _
    | with_reducible (first | assumption | apply modCus_reported | apply cusEvent_reported | apply modDrive_reported | apply custodyWork_reported | apply onlyIf_reported | apply driveWorn_reported | apply ite_reported)
    | split
    | (extract_lets +onlyGivenNames x; first | (refine (fun hx : Reported s x => ?_) ?_ <;> [clear_value x; subst x]) | clear_value x)

theorem initDrive_reported (h : Reported s t) (a1 a2) : Reported s (initDrive a1 a2 t) :=
  h.quiet (initDrive_frame (.refl _ t) (within_refl _) a1 a2) rfl (initDrive_keeps (.refl t) a1 a2)

theorem writeLabel_reported (h : Reported s t) (a1) : Reported s (writeLabel a1 t) :=
  h.quiet (writeLabel_frame (.refl _ t) (within_refl _) a1) rfl (writeLabel_keeps (.refl t) a1)

theorem labelDrive_reported (h : Reported s t) (a1 a2) : Reported s (labelDrive a1 a2 t) := by
  unfold labelDrive
  repeat'
    first
    | intro _
    | with_reducible (first | assumption | apply driveRecord_reported | apply driveOnline_reported | apply writeLabel_reported)

theorem execDriveReady_reported (h : Reported s t) (a1 a2) : OutReported s (execDriveReady a1 a2 t) := by
  unfold execDriveReady
  repeat'
    first
    | intro _
    | with_reducible (first | assumption | apply OutReported.next | apply outOfService_reported | apply wasLost_reported | apply initDrive_reported | apply drawn_reported | apply modDrive_reported | apply labelDrive_reported | apply cusEvent_reported | apply driveOnline_reported | apply ite_reported)
    | split
    | (extract_lets +onlyGivenNames x; first | (refine (fun hx : Reported s x => ?_) ?_ <;> [clear_value x; subst x]) | clear_value x)

theorem execDriveReadyTimeout_reported (h : Reported s t) (a1) : OutReported s (execDriveReadyTimeout a1 t) := by
  unfold execDriveReadyTimeout
  repeat'
    first
    | intro _
    | with_reducible (first | assumption | apply OutReported.next | apply wasLost_reported | apply outOfService_reported | apply elapseTo_reported | apply ite_reported)

theorem execDriveWear_reported (h : Reported s t) (a1 a2) : OutReported s (execDriveWear a1 a2 t) := by
  unfold execDriveWear
  repeat'
    first
    | intro _
    | with_reducible (first | assumption | apply OutReported.next | apply driveWorn_reported | apply modDrive_reported | apply ite_reported)
    | split

theorem beginCp_reported (h : Reported s t) (e : beginCp t = .ok u) : Reported s u :=
  h.quiet (beginCp_frame (.refl _ t) (within_refl _) e) rfl (beginCp_keeps (.refl t) e)

theorem drainEnds_reported (h : Reported s t) : Reported s (drainEnds t) := by
  unfold drainEnds
  repeat'
    first
    | exact fun _ => ⟨rfl, rfl⟩
    | intro _
    | with_reducible (first | assumption | apply each_reported | apply onlyIf_reported | apply emit_reported | apply modCus_reported | apply modPwr_reported | apply lowerEnable_reported | apply lowerFrom_reported | apply ite_reported)
    | split
    | (extract_lets +onlyGivenNames x; first | (refine (fun hx : Reported s x => ?_) ?_ <;> [clear_value x; subst x]) | (refine (fun hx : Reported s x.2 => ?_) ?_ <;> [clear_value x; subst x]) | (refine (fun hx : Reported s x.1 => ?_) ?_ <;> [clear_value x; subst x]) | clear_value x)

theorem drainOn_reported (h : Reported s t) : Reported s (drainOn t) := by
  unfold drainOn
  repeat'
    first
    | exact fun _ => ⟨rfl, rfl⟩
    | intro _
    | with_reducible (first | assumption | apply modCus_reported | apply drainEnds_reported | refine beginCp_reported ?_ (by with_reducible assumption) | apply ite_reported)
    | split

theorem drainDrives_reported (h : Reported s t) (a1) : Reported s (drainDrives a1 t) := by
  unfold drainDrives
  repeat'
    first
    | intro _
    | with_reducible (first | assumption | apply onlyIf_reported | apply elapseNs_reported | apply each_reported | apply modDrive_reported | apply declareLost_reported | apply ite_reported)

theorem execLedgerDrain_reported (h : Reported s t) (a1) : OutReported s (execLedgerDrain a1 t) := by
  unfold execLedgerDrain
  repeat'
    first
    | exact fun _ => ⟨rfl, rfl⟩
    | intro _
    | with_reducible (first | assumption | apply OutReported.next | apply raiseEach_reported | apply modPwr_reported | apply drainOn_reported | apply custodyWork_reported | apply modCus_reported | apply drainDrives_reported | apply ite_reported)

theorem execNvmeWriteComplete_reported (h : Reported s t) (a1 a2) : OutReported s (execNvmeWriteComplete a1 a2 t) := by
  unfold execNvmeWriteComplete
  repeat'
    first
    | intro _
    | with_reducible (first | assumption | apply OutReported.next | apply drainOn_reported | apply jobWrite_reported | apply jobLost_reported | apply ite_reported)
    | split

theorem modPort_reported (h : Reported s t) (a1 a2) : Reported s (modPort a1 a2 t) :=
  h.quiet (modPort_frame (.refl _ t) (within_refl _) a1 a2) rfl (modPort_keeps (.refl t) a1 a2)

theorem linkEvent_reported (h : Reported s t) (a1) : Reported s (linkEvent a1 t) :=
  h.quiet (linkEvent_frame (.refl _ t) (within_refl _) a1) rfl (linkEvent_keeps (.refl t) a1)

theorem iflEvent_reported (h : Reported s t) (a1 a2) : Reported s (iflEvent a1 a2 t) :=
  h.quiet (iflEvent_frame (.refl _ t) (within_refl _) a1 a2) rfl (iflEvent_keeps (.refl t) a1 a2)

theorem searchOn_reported (h : Reported s t) (a1 a2) : Reported s (searchOn a1 a2 t) :=
  h.quiet (searchOn_frame (.refl _ t) (within_refl _) a1 a2) rfl (searchOn_keeps (.refl t) a1 a2)

theorem startRebuild_reported (h : Reported s t) : Reported s (startRebuild t) :=
  h.quiet (startRebuild_frame (.refl _ t) (within_refl _)) rfl (startRebuild_keeps (.refl t))

theorem modLane_reported (h : Reported s t) (a1 a2) : Reported s (modLane a1 a2 t) :=
  h.quiet (modLane_frame (.refl _ t) (within_refl _) a1 a2) rfl (modLane_keeps (.refl t) a1 a2)

theorem sendSoundReq_reported (h : Reported s t) (a1 a2) : Reported s (sendSoundReq a1 a2 t) :=
  h.quiet (sendSoundReq_frame (.refl _ t) (within_refl _) a1 a2) rfl (sendSoundReq_keeps (.refl t) a1 a2)

theorem masterHeard_reported (h : Reported s t) (a1) : Reported s (masterHeard a1 t) :=
  h.quiet (masterHeard_frame (.refl _ t) (within_refl _) a1) rfl (masterHeard_keeps (.refl t) a1)

theorem goodFrame_reported (h : Reported s t) (a1 a2 a3) : Reported s (goodFrame a1 a2 a3 t) := by
  unfold goodFrame
  repeat'
    first
    | exact fun _ => ⟨rfl, rfl⟩
    | intro _
    | with_reducible (first | assumption | apply modPort_reported | apply onlyIf_reported | apply sendSoundReq_reported | apply modPwr_reported | apply powerSlice_reported | apply ite_reported)

theorem badPcrc_reported (h : Reported s t) (a1 a2) : Reported s (badPcrc a1 a2 t) :=
  h.quiet (badPcrc_frame (.refl _ t) (within_refl _) a1 a2) rfl (badPcrc_keeps (.refl t) a1 a2)

theorem frameVerdict_reported (h : Reported s t) (a1 a2) : Reported s (frameVerdict a1 a2 t) := by
  unfold frameVerdict
  repeat'
    first
    | intro _
    | with_reducible (first | assumption | apply modPort_reported | apply onlyIf_reported | apply iflEvent_reported | apply searchOn_reported | apply masterHeard_reported | apply sendSoundReq_reported | apply badPcrc_reported | apply goodFrame_reported | apply ite_reported)

theorem execIflFrameReceived_reported (h : Reported s t) (a1 a2) : OutReported s (execIflFrameReceived a1 a2 t) := by
  unfold execIflFrameReceived
  repeat'
    first
    | intro _
    | with_reducible (first | assumption | apply OutReported.next | apply elapseToNs_reported | apply frameVerdict_reported | apply ite_reported)

theorem setTcnt_reported (h : Reported s t) (a1 a2) : Reported s (setTcnt a1 a2 t) :=
  h.quiet (setTcnt_frame (.refl _ t) (within_refl _) a1 a2) rfl (setTcnt_keeps (.refl t) a1 a2)

theorem recordTcnt_reported (h : Reported s t) (a1 a2) : Reported s (recordTcnt a1 a2 t) :=
  h.quiet (recordTcnt_frame (.refl _ t) (within_refl _) a1 a2) rfl (recordTcnt_keeps (.refl t) a1 a2)

theorem lfEvent_reported (h : Reported s t) (a1) : Reported s (lfEvent a1 t) :=
  h.quiet (lfEvent_frame (.refl _ t) (within_refl _) a1) rfl (lfEvent_keeps (.refl t) a1)

theorem uhfEvent_reported (h : Reported s t) (a1) : Reported s (uhfEvent a1 t) :=
  h.quiet (uhfEvent_frame (.refl _ t) (within_refl _) a1) rfl (uhfEvent_keeps (.refl t) a1)

theorem authFail_reported (h : Reported s t) (a1 a2) : Reported s (authFail a1 a2 t) :=
  h.quiet (authFail_frame (.refl _ t) (within_refl _) a1 a2) rfl (authFail_keeps (.refl t) a1 a2)

theorem relaySuspect_reported (h : Reported s t) (a1) : Reported s (relaySuspect a1 t) :=
  h.quiet (relaySuspect_frame (.refl _ t) (within_refl _) a1) rfl (relaySuspect_keeps (.refl t) a1)

theorem inconsistent_reported (h : Reported s t) (a1) : Reported s (inconsistent a1 t) :=
  h.quiet (inconsistent_frame (.refl _ t) (within_refl _) a1) rfl (inconsistent_keeps (.refl t) a1)

theorem tokenSeen_reported (h : Reported s t) : Reported s (tokenSeen t) := by
  unfold tokenSeen
  repeat'
    first
    | exact fun _ => ⟨rfl, rfl⟩
    | intro _
    | with_reducible (first | assumption | apply modPwr_reported)

theorem putTrack_reported (h : Reported s t) (a1) : Reported s (putTrack a1 t).2 :=
  h.quiet (putTrack_frame (.refl _ t) (within_refl _) a1) rfl (putTrack_keeps (.refl t) a1)

theorem modPres_reported (h : Reported s t) (a1 a2) : Reported s (modPres a1 a2 t) :=
  h.quiet (modPres_frame (.refl _ t) (within_refl _) a1 a2) rfl (modPres_keeps (.refl t) a1 a2)

theorem tokenPassed_reported (h : Reported s t) (a1 a2) : Reported s (tokenPassed a1 a2 t) := by
  unfold tokenPassed
  repeat'
    first
    | intro _
    | with_reducible (first | assumption | apply modRadio_reported | apply tokenSeen_reported | apply tokenBack_reported | apply modPres_reported | apply onlyIf_reported | apply tokenInCab_reported)

theorem stopCarrier_reported (h : Reported s t) (a1) : Reported s (stopCarrier a1 t) :=
  h.quiet (stopCarrier_frame (.refl _ t) (within_refl _) a1) rfl (stopCarrier_keeps (.refl t) a1)

theorem coexRaise_reported (h : Reported s t) (a1 a2) : Reported s (coexRaise a1 a2 t) :=
  h.quiet (coexRaise_frame (.refl _ t) (within_refl _) a1 a2) rfl (coexRaise_keeps (.refl t) a1 a2)

theorem coexDrop_reported (h : Reported s t) : Reported s (coexDrop t) :=
  h.quiet (coexDrop_frame (.refl _ t) (within_refl _)) rfl (coexDrop_keeps (.refl t))

theorem coexAnew_reported (h : Reported s t) (a1 a2) : Reported s (coexAnew a1 a2 t) :=
  h.quiet (coexAnew_frame (.refl _ t) (within_refl _) a1 a2) rfl (coexAnew_keeps (.refl t) a1 a2)

theorem countEmission_reported (h : Reported s t) (a1) : Reported s (countEmission a1 t) :=
  h.quiet (countEmission_frame (.refl _ t) (within_refl _) a1) rfl (countEmission_keeps (.refl t) a1)

theorem sendTrigger_reported (h : Reported s t) (a1) : Reported s (sendTrigger a1 t) :=
  h.quiet (sendTrigger_frame (.refl _ t) (within_refl _) a1) rfl (sendTrigger_keeps (.refl t) a1)

theorem beginTelegram_reported (h : Reported s t) (a1) : Reported s (beginTelegram a1 t) :=
  h.quiet (beginTelegram_frame (.refl _ t) (within_refl _) a1) rfl (beginTelegram_keeps (.refl t) a1)

theorem startPoll_reported (h : Reported s t) (a1 a2 a3) : Reported s (startPoll a1 a2 a3 t) :=
  h.quiet (startPoll_frame (.refl _ t) (within_refl _) a1 a2 a3) rfl (startPoll_keeps (.refl t) a1 a2 a3)

theorem useSlice_reported (h : Reported s t) : Reported s (useSlice t) := by
  unfold useSlice
  repeat'
    first
    | exact fun _ => ⟨rfl, rfl⟩
    | intro _
    | with_reducible (first | assumption | apply modPwr_reported | apply onlyIf_reported | apply powerSlice_reported | apply ite_reported)

theorem noteSlice_reported (h : Reported s t) (a1) : Reported s (noteSlice a1 t) := by
  unfold noteSlice
  repeat'
    first
    | exact fun _ => ⟨rfl, rfl⟩
    | intro _
    | with_reducible (first | assumption | apply modPwr_reported | apply useSlice_reported | apply ite_reported)

theorem startHandle_reported (h : Reported s t) (a1) : Reported s (startHandle a1 t) := by
  unfold startHandle
  repeat'
    first
    | intro _
    | with_reducible (first | assumption | apply noteSlice_reported | apply startPoll_reported | apply modRadio_reported | apply ite_reported)

theorem startPresence_reported (h : Reported s t) : Reported s (startPresence t) :=
  h.quiet (startPresence_frame (.refl _ t) (within_refl _)) rfl (startPresence_keeps (.refl t))

theorem startApproach_reported (h : Reported s t) : Reported s (startApproach t) := by
  unfold startApproach
  repeat'
    first
    | intro _
    | with_reducible (first | assumption | apply useSlice_reported | apply modRadio_reported | apply onlyIf_reported | apply startPoll_reported)

theorem endLocate_reported (h : Reported s t) (a1 a2) : Reported s (endLocate a1 a2 t) :=
  h.quiet (endLocate_frame (.refl _ t) (within_refl _) a1 a2) rfl (endLocate_keeps (.refl t) a1 a2)

theorem startLocate_reported (h : Reported s t) (a1 a2 a3 a4) : Reported s (startLocate a1 a2 a3 a4 t) :=
  h.quiet (startLocate_frame (.refl _ t) (within_refl _) a1 a2 a3 a4) rfl (startLocate_keeps (.refl t) a1 a2 a3 a4)

theorem nextPoll_reported (h : Reported s t) : Reported s (nextPoll t) := by
  unfold nextPoll
  repeat'
    first
    | intro _
    | with_reducible (first | assumption | apply startHandle_reported | apply modRadio_reported | apply startPresence_reported | apply startApproach_reported | apply startLocate_reported | apply foldl_reported | refine foldl_reported ?_ (by with_reducible assumption) | apply ite_reported)
    | split
    | (extract_lets +onlyGivenNames x; first | (refine (fun hx : Reported s x => ?_) ?_ <;> [clear_value x; subst x]) | (refine (fun hx : Reported s x.2 => ?_) ?_ <;> [clear_value x; subst x]) | (refine (fun hx : Reported s x.1 => ?_) ?_ <;> [clear_value x; subst x]) | clear_value x)

theorem pollEnds_reported (h : Reported s t) : Reported s (pollEnds t) := by
  unfold pollEnds
  repeat'
    first
    | intro _
    | with_reducible (first | assumption | apply nextPoll_reported | apply coexDrop_reported | apply modRadio_reported)

theorem retryLocate_reported (h : Reported s t) (a1 a2) : Reported s (retryLocate a1 a2 t) := by
  unfold retryLocate
  repeat'
    first
    | intro _
    | with_reducible (first | assumption | apply pollEnds_reported | apply startLocate_reported | apply coexDrop_reported | apply endLocate_reported | apply ite_reported)
    | split

theorem restartPoll_reported (h : Reported s t) : Reported s (restartPoll t) := by
  unfold restartPoll
  repeat'
    first
    | intro _
    | with_reducible (first | assumption | apply stopCarrier_reported | apply retryLocate_reported | apply pollEnds_reported)
    | split

theorem passiveEnds_reported (h : Reported s t) : Reported s (passiveEnds t) := by
  unfold passiveEnds
  repeat'
    first
    | intro _
    | with_reducible (first | assumption | apply pollEnds_reported | apply stopCarrier_reported)
    | split

theorem presenceDeferred_reported (h : Reported s t) : Reported s (presenceDeferred t) := by
  unfold presenceDeferred
  repeat'
    first
    | intro _
    | with_reducible (first | assumption | apply each_reported | apply modPres_reported | apply onlyIf_reported | apply tokenUnknown_reported | apply ite_reported)
    | split
    | (extract_lets +onlyGivenNames x; first | (refine (fun hx : Reported s x => ?_) ?_ <;> [clear_value x; subst x]) | clear_value x)

theorem presenceDone_reported (h : Reported s t) (a1) : Reported s (presenceDone a1 t) := by
  unfold presenceDone
  repeat'
    first
    | intro _
    | with_reducible (first | assumption | apply each_reported | apply modPres_reported | apply onlyIf_reported | apply tokenAbsent_reported | apply ite_reported)

theorem uncount_reported (h : Reported s t) (a1) : Reported s (uncount a1 t) :=
  h.quiet (uncount_frame (.refl _ t) (within_refl _) a1) rfl (uncount_keeps (.refl t) a1)

theorem heldReply_reported (h : Reported s t) (a1) : Reported s (heldReply a1 t) := by
  unfold heldReply
  repeat'
    first
    | intro _
    | with_reducible (first | assumption | apply pollEnds_reported | apply modRadio_reported)
    | split

theorem abandonTelegram_reported (h : Reported s t) (a1 a2) : Reported s (abandonTelegram a1 a2 t) := by
  unfold abandonTelegram
  repeat'
    first
    | intro _
    | with_reducible (first | assumption | apply coexDrop_reported | apply lfEvent_reported | apply uncount_reported | apply stopCarrier_reported | apply heldReply_reported | apply onlyIf_reported | apply startLocate_reported | apply pollEnds_reported | apply presenceDeferred_reported | apply modRadio_reported | apply beginTelegram_reported | apply ite_reported)
    | split

theorem lfCut_reported (h : Reported s t) : Reported s (lfCut t) := by
  unfold lfCut
  repeat'
    first
    | intro _
    | with_reducible (first | assumption | apply abandonTelegram_reported | apply ite_reported)
    | split

theorem burstOut_reported (h : Reported s t) (a1 a2 a3 a4) : Reported s (burstOut a1 a2 a3 a4 t) :=
  h.quiet (burstOut_frame (.refl _ t) (within_refl _) a1 a2 a3 a4) rfl (burstOut_keeps (.refl t) a1 a2 a3 a4)

theorem stopBurst_reported (h : Reported s t) (a1 a2) : Reported s (stopBurst a1 a2 t) :=
  h.quiet (stopBurst_frame (.refl _ t) (within_refl _) a1 a2) rfl (stopBurst_keeps (.refl t) a1 a2)

theorem uhfCut_reported (h : Reported s t) : Reported s (uhfCut t) :=
  h.quiet (uhfCut_frame (.refl _ t) (within_refl _)) rfl (uhfCut_keeps (.refl t))

theorem restartSound_reported (h : Reported s t) (a1) : Reported s (restartSound a1 t) := by
  unfold restartSound
  repeat'
    first
    | intro _
    | with_reducible (first | assumption | apply stopBurst_reported | apply retryLocate_reported | apply pollEnds_reported | apply endLocate_reported | apply ite_reported)
    | split
    | (extract_lets +onlyGivenNames x; first | (refine (fun hx : Reported s x => ?_) ?_ <;> [clear_value x; subst x]) | clear_value x)

theorem chainsGone_reported (h : Reported s t) : Reported s (chainsGone t) := by
  unfold chainsGone
  repeat'
    first
    | intro _
    | with_reducible (first | assumption | apply restartSound_reported | apply passiveEnds_reported)

theorem putPoll_reported (h : Reported s t) (a1) : Reported s (putPoll a1 t) :=
  h.quiet (putPoll_frame (.refl _ t) (within_refl _) a1) rfl (putPoll_keeps (.refl t) a1)

theorem execApproachPoll_reported (h : Reported s t) : OutReported s (execApproachPoll t) := by
  unfold execApproachPoll
  repeat'
    first
    | intro _
    | with_reducible (first | assumption | apply OutReported.next | apply elapseTo_reported | apply modRadio_reported | apply startApproach_reported | apply ite_reported)

theorem sendSegment_reported (h : Reported s t) (a1 a2 a3) : Reported s (sendSegment a1 a2 a3 t) :=
  h.quiet (sendSegment_frame (.refl _ t) (within_refl _) a1 a2 a3) rfl (sendSegment_keeps (.refl t) a1 a2 a3)

theorem execLfSegment_reported (h : Reported s t) : OutReported s (execLfSegment t) := by
  unfold execLfSegment
  repeat'
    first
    | intro _
    | with_reducible (first | assumption | apply OutReported.next | apply nextPoll_reported | apply sendSegment_reported | apply abandonTelegram_reported | apply ite_reported)
    | split

theorem modLfCh_reported (h : Reported s t) (a1 a2) : Reported s (modLfCh a1 a2 t) :=
  h.quiet (modLfCh_frame (.refl _ t) (within_refl _) a1 a2) rfl (modLfCh_keeps (.refl t) a1 a2)

theorem telegramLost_reported (h : Reported s t) (a1 a2) : Reported s (telegramLost a1 a2 t) := by
  unfold telegramLost
  repeat'
    first
    | intro _
    | with_reducible (first | assumption | apply abandonTelegram_reported | apply lfEvent_reported | apply beginTelegram_reported | apply coexDrop_reported | apply uncount_reported | apply stopCarrier_reported | apply ite_reported)
    | split

theorem lfChannelOut_reported (h : Reported s t) (a1 a2) : Reported s (lfChannelOut a1 a2 t) := by
  unfold lfChannelOut
  repeat'
    first
    | intro _
    | with_reducible (first | assumption | apply telegramLost_reported | apply outOfService_reported | apply ite_reported)
    | split

theorem restartTelegram_reported (h : Reported s t) (a1) : Reported s (restartTelegram a1 t) :=
  h.quiet (restartTelegram_frame (.refl _ t) (within_refl _) a1) rfl (restartTelegram_keeps (.refl t) a1)

theorem execLfChannelFault_reported (h : Reported s t) (a1 a2 a3 a4) : OutReported s (execLfChannelFault a1 a2 a3 a4 t) := by
  unfold execLfChannelFault
  repeat'
    first
    | intro _
    | with_reducible (first | assumption | apply OutReported.next | apply lfEvent_reported | apply modLfCh_reported | apply fault_reported | apply lfChannelOut_reported | apply drawn_reported | apply onlyIf_reported | apply restartTelegram_reported | apply ite_reported)
    | split

theorem repeatPoll_reported (h : Reported s t) (a1) : Reported s (repeatPoll a1 t) :=
  h.quiet (repeatPoll_frame (.refl _ t) (within_refl _) a1) rfl (repeatPoll_keeps (.refl t) a1)

theorem execReplyWindowEnd_reported (h : Reported s t) : OutReported s (execReplyWindowEnd t) := by
  unfold execReplyWindowEnd
  repeat'
    first
    | intro _
    | with_reducible (first | assumption | apply OutReported.next | apply elapseToNs_reported | apply heldReply_reported | apply retryLocate_reported | apply repeatPoll_reported | apply pollEnds_reported | apply presenceDone_reported | apply ite_reported)
    | split

theorem unlockDoor_reported (h : Reported s t) (a1 a2 a3) : Reported s (unlockDoor a1 a2 a3 t) := by
  unfold unlockDoor
  repeat'
    first
    | exact fun _ => ⟨rfl, rfl⟩
    | intro _
    | with_reducible (first | assumption | apply logPart_reported | apply sendBody_reported | apply modPwr_reported | apply putPoll_reported)

theorem handleReply_reported (h : Reported s t) (a1 a2 a3) : Reported s (handleReply a1 a2 a3 t) := by
  unfold handleReply
  repeat'
    first
    | intro _
    | with_reducible (first | assumption | apply relaySuspect_reported | apply setTcnt_reported | apply tokenPassed_reported | apply unlockDoor_reported | apply recordTcnt_reported | apply ite_reported)

theorem beginMeasure_reported (h : Reported s t) (a1 a2 a3) : Reported s (beginMeasure a1 a2 a3 t) :=
  h.quiet (beginMeasure_frame (.refl _ t) (within_refl _) a1 a2 a3) rfl (beginMeasure_keeps (.refl t) a1 a2 a3)

theorem locateReply_reported (h : Reported s t) (a1 a2 a3) : Reported s (locateReply a1 a2 a3 t) := by
  unfold locateReply
  repeat'
    first
    | intro _
    | with_reducible (first | assumption | apply atStage_reported | apply recordTcnt_reported | apply pollEnds_reported | apply coexRaise_reported | apply coexDrop_reported | apply beginMeasure_reported | apply modRadio_reported | apply ite_reported)
    | split
    | (extract_lets +onlyGivenNames x; first | (refine (fun hx : Reported s x => ?_) ?_ <;> [clear_value x; subst x]) | clear_value x)

theorem oneReply_reported (h : Reported s t) (a1) : Reported s (oneReply a1 t) := by
  unfold oneReply
  repeat'
    first
    | intro _
    | with_reducible (first | assumption | apply onlyIf_reported | apply authFail_reported | apply locateReply_reported | apply putPoll_reported | apply relaySuspect_reported | apply setTcnt_reported | apply handleReply_reported | apply tokenPassed_reported | apply recordTcnt_reported | apply inconsistent_reported | apply modRadio_reported | apply ite_reported)
    | split

theorem twinReplies_reported (h : Reported s t) (a1 a2 a3) : Reported s (twinReplies a1 a2 a3 t) :=
  h.quiet (twinReplies_frame (.refl _ t) (within_refl _) a1 a2 a3) rfl (twinReplies_keeps (.refl t) a1 a2 a3)

theorem execChalReply_reported (h : Reported s t) (a1) : OutReported s (execChalReply a1 t) := by
  unfold execChalReply
  repeat'
    first
    | intro _
    | with_reducible (first | assumption | apply OutReported.next | apply each_reported | apply oneReply_reported | apply twinReplies_reported | apply putPoll_reported | apply ite_reported)
    | split
    | (extract_lets +onlyGivenNames x; first | (refine (fun hx : Reported s x => ?_) ?_ <;> [clear_value x; subst x]) | clear_value x)

theorem buttonPress_reported (h : Reported s t) (a1 a2 a3) : Reported s (buttonPress a1 a2 a3 t) := by
  unfold buttonPress
  repeat'
    first
    | intro _
    | with_reducible (first | assumption | apply logPart_reported | apply setTcnt_reported | apply sendBody_reported | apply tokenSeen_reported | apply recordTcnt_reported | apply ite_reported)

theorem buttonFrame_reported (h : Reported s t) (a1) : Reported s (buttonFrame a1 t) := by
  unfold buttonFrame
  repeat'
    first
    | intro _
    | with_reducible (first | assumption | apply authFail_reported | apply buttonPress_reported | apply ite_reported)
    | split
    | (extract_lets +onlyGivenNames x; first | (refine (fun hx : Reported s x => ?_) ?_ <;> [clear_value x; subst x]) | clear_value x)

theorem execButton_reported (h : Reported s t) (a1) : OutReported s (execButton a1 t) := by
  unfold execButton
  repeat'
    first
    | intro _
    | with_reducible (first | assumption | apply OutReported.next | apply noteSlice_reported | apply buttonFrame_reported | apply modRadio_reported | apply ite_reported)

theorem capEvent_reported (h : Reported s t) (a1) : Reported s (capEvent a1 t) :=
  h.quiet (capEvent_frame (.refl _ t) (within_refl _) a1) rfl (capEvent_keeps (.refl t) a1)

theorem modEl_reported (h : Reported s t) (a1 a2) : Reported s (modEl a1 a2 t) :=
  h.quiet (modEl_frame (.refl _ t) (within_refl _) a1 a2) rfl (modEl_keeps (.refl t) a1 a2)

theorem handleTouched_reported (h : Reported s t) (a1) : Reported s (handleTouched a1 t) := by
  unfold handleTouched
  repeat'
    first
    | intro _
    | with_reducible (first | assumption | apply startHandle_reported | apply modRadio_reported | apply ite_reported)
    | split

theorem touchStarts_reported (h : Reported s t) (a1) : Reported s (touchStarts a1 t) := by
  unfold touchStarts
  repeat'
    first
    | intro _
    | with_reducible (first | assumption | apply modEl_reported | apply capEvent_reported | apply handleTouched_reported | apply ite_reported)
    | split
    | (extract_lets +onlyGivenNames x; first | (refine (fun hx : Reported s x => ?_) ?_ <;> [clear_value x; subst x]) | clear_value x)

theorem scanTime_reported (h : Reported s t) (a1) : Reported s (scanTime a1 t) :=
  h.quiet (scanTime_frame (.refl _ t) (within_refl _) a1) rfl (scanTime_keeps (.refl t) a1)

theorem oneScan_reported (h : Reported s t) (a1 a2) : Reported s (oneScan a1 a2 t) := by
  unfold oneScan
  repeat'
    first
    | intro _
    | with_reducible (first | assumption | apply scanTime_reported | apply modEl_reported | apply touchStarts_reported | apply ite_reported)

theorem execCapacitiveTouch_reported (h : Reported s t) (a1 a2) : OutReported s (execCapacitiveTouch a1 a2 t) := by
  unfold execCapacitiveTouch
  repeat'
    first
    | intro _
    | with_reducible (first | assumption | apply OutReported.next | apply each_reported | apply oneScan_reported)

theorem execTouchEnd_reported (h : Reported s t) (a1) : OutReported s (execTouchEnd a1 t) := by
  unfold execTouchEnd
  repeat'
    first
    | intro _
    | with_reducible (first | assumption | apply OutReported.next | apply each_reported | apply oneScan_reported)

theorem execElectrodeStuck_reported (h : Reported s t) (a1) : OutReported s (execElectrodeStuck a1 t) := by
  unfold execElectrodeStuck
  repeat'
    first
    | intro _
    | with_reducible (first | assumption | apply OutReported.next | apply elapseTo_reported | apply capEvent_reported | apply fault_reported | apply modEl_reported | apply ite_reported)

theorem execElectrodeUnmask_reported (h : Reported s t) (a1) : OutReported s (execElectrodeUnmask a1 t) := by
  unfold execElectrodeUnmask
  repeat'
    first
    | intro _
    | with_reducible (first | assumption | apply OutReported.next | apply elapseTo_reported | apply fault_reported | apply modEl_reported | apply ite_reported)

theorem execCapGuardFault_reported (h : Reported s t) (a1) : OutReported s (execCapGuardFault a1 t) := by
  unfold execCapGuardFault
  repeat'
    first
    | intro _
    | with_reducible (first | assumption | apply OutReported.next | apply capEvent_reported | apply each_reported | apply outOfService_reported | apply ite_reported)

theorem sendBurst_reported (h : Reported s t) (a1 a2 a3 a4) : Reported s (sendBurst a1 a2 a3 a4 t) := by
  unfold sendBurst
  repeat'
    first
    | intro _
    | with_reducible (first | assumption | apply retryLocate_reported | apply coexAnew_reported | apply elapseToNs_reported | apply pollEnds_reported | apply endLocate_reported | apply burstOut_reported | apply countEmission_reported | apply coexRaise_reported | apply putPoll_reported | apply uhfEvent_reported | apply ite_reported)
    | split

theorem execSoundBurst_reported (h : Reported s t) : OutReported s (execSoundBurst t) := by
  unfold execSoundBurst
  repeat'
    first
    | intro _
    | with_reducible (first | assumption | apply OutReported.next | apply retryLocate_reported | apply putPoll_reported | apply sendBurst_reported | apply grantWindow_reported | apply foldl_reported | refine foldl_reported ?_ (by with_reducible assumption) | apply ite_reported)
    | split

theorem execReportTrigger_reported (h : Reported s t) : OutReported s (execReportTrigger t) := by
  unfold execReportTrigger
  repeat'
    first
    | intro _
    | with_reducible (first | assumption | apply OutReported.next | apply retryLocate_reported | apply elapseToNs_reported | apply putPoll_reported | apply coexAnew_reported | apply sendTrigger_reported | apply uhfEvent_reported | apply ite_reported)
    | split

theorem reportFailed_reported (h : Reported s t) (a1 a2 a3) : Reported s (reportFailed a1 a2 a3 t) := by
  unfold reportFailed
  repeat'
    first
    | intro _
    | with_reducible (first | assumption | apply authFail_reported | apply pollEnds_reported | apply endLocate_reported | apply ite_reported)

theorem execSoundReport_reported (h : Reported s t) (a1) : OutReported s (execSoundReport a1 t) := by
  unfold execSoundReport
  repeat'
    first
    | intro _
    | with_reducible (first | assumption | apply OutReported.next | apply recordTcnt_reported | apply pollEnds_reported | apply modRadio_reported | apply atStage_reported | apply reportFailed_reported | apply ite_reported)
    | split

theorem noteSnr_reported (h : Reported s t) (a1) : Reported s (noteSnr a1 t) :=
  h.quiet (noteSnr_frame (.refl _ t) (within_refl _) a1) rfl (noteSnr_keeps (.refl t) a1)

theorem locateDone_reported (h : Reported s t) (a1 a2 a3 a4 a5 a6 a7) : Reported s (locateDone a1 a2 a3 a4 a5 a6 a7 t) := by
  unfold locateDone
  repeat'
    first
    | intro _
    | with_reducible (first | assumption | apply putTrack_reported | apply tokenPassed_reported | apply writeAndSettle_reported | apply settle_reported | apply ite_reported)

theorem presencePassed_reported (h : Reported s t) (a1 a2 a3 a4) : Reported s (presencePassed a1 a2 a3 a4 t) := by
  unfold presencePassed
  repeat'
    first
    | intro _
    | with_reducible (first | assumption | apply putTrack_reported | apply modRadio_reported | apply tokenPassed_reported)

theorem execPositionFit_reported (h : Reported s t) (a1 a2) : OutReported s (execPositionFit a1 a2 t) := by
  unfold execPositionFit
  repeat'
    first
    | intro _
    | with_reducible (first | assumption | apply OutReported.next | apply modRadio_reported | apply onlyIf_reported | apply noteSnr_reported | apply presencePassed_reported | apply inconsistent_reported | apply settle_reported | apply locateDone_reported | apply ite_reported)
    | split
    | (extract_lets +onlyGivenNames x; first | (refine (fun hx : Reported s x => ?_) ?_ <;> [clear_value x; subst x]) | clear_value x)

theorem execCoexTimeout_reported (h : Reported s t) : OutReported s (execCoexTimeout t) := by
  unfold execCoexTimeout
  repeat'
    first
    | intro _
    | with_reducible (first | assumption | apply OutReported.next | apply elapseTo_reported | apply uhfEvent_reported | apply coexDrop_reported | apply modRadio_reported | apply onlyIf_reported | apply startLocate_reported | apply pollEnds_reported | apply endLocate_reported | apply presenceDeferred_reported | apply ite_reported)
    | split
    | (extract_lets +onlyGivenNames x; first | (refine (fun hx : Reported s x => ?_) ?_ <;> [clear_value x; subst x]) | clear_value x)

theorem execCoexGrantFall_reported (h : Reported s t) (a1) : OutReported s (execCoexGrantFall a1 t) := by
  unfold execCoexGrantFall
  repeat'
    first
    | exact fun _ => ⟨rfl, rfl⟩
    | intro _
    | with_reducible (first | assumption | apply OutReported.next | apply modRadio_reported | apply onlyIf_reported | apply writeFault_reported | apply modFlt_reported | apply stopBurst_reported | apply putPoll_reported | apply ite_reported)
    | split
    | (extract_lets +onlyGivenNames x; first | (refine (fun hx : Reported s x => ?_) ?_ <;> [clear_value x; subst x]) | clear_value x)

theorem modUhfCh_reported (h : Reported s t) (a1 a2) : Reported s (modUhfCh a1 a2 t) :=
  h.quiet (modUhfCh_frame (.refl _ t) (within_refl _) a1 a2) rfl (modUhfCh_keeps (.refl t) a1 a2)

theorem chainOut_reported (h : Reported s t) : Reported s (chainOut t) := by
  unfold chainOut
  repeat'
    first
    | intro _
    | with_reducible (first | assumption | apply restartSound_reported | apply onlyIf_reported | apply passiveEnds_reported)

theorem execUhfPowerCorrection_reported (h : Reported s t) (a1 a2) : OutReported s (execUhfPowerCorrection a1 a2 t) := by
  unfold execUhfPowerCorrection
  repeat'
    first
    | intro _
    | with_reducible (first | assumption | apply OutReported.next | apply setDieTemp_reported | apply each_reported | apply modUhfCh_reported | apply chainOut_reported | apply uhfEvent_reported | apply outOfService_reported | apply fault_reported | apply ite_reported)

theorem execSynthFault_reported (h : Reported s t) (a1) : OutReported s (execSynthFault a1 t) := by
  unfold execSynthFault
  repeat'
    first
    | intro _
    | with_reducible (first | assumption | apply OutReported.next | apply restartSound_reported | apply uhfEvent_reported | apply outOfService_reported | apply ite_reported)

theorem nfcEvent_reported (h : Reported s t) (a1) : Reported s (nfcEvent a1 t) :=
  h.quiet (nfcEvent_frame (.refl _ t) (within_refl _) a1) rfl (nfcEvent_keeps (.refl t) a1)

theorem modReader_reported (h : Reported s t) (a1 a2) : Reported s (modReader a1 a2 t) :=
  h.quiet (modReader_frame (.refl _ t) (within_refl _) a1 a2) rfl (modReader_keeps (.refl t) a1 a2)

theorem activateCard_reported (h : Reported s t) (a1 a2) : Reported s (activateCard a1 a2 t) :=
  h.quiet (activateCard_frame (.refl _ t) (within_refl _) a1 a2) rfl (activateCard_keeps (.refl t) a1 a2)

theorem readersOff_reported (h : Reported s t) : Reported s (readersOff t) :=
  h.quiet (readersOff_frame (.refl _ t) (within_refl _)) rfl (readersOff_keeps (.refl t))

theorem endLost_reported (h : Reported s t) (a1 a2 a3) : Reported s (endLost a1 a2 a3 t) :=
  h.quiet (endLost_frame (.refl _ t) (within_refl _) a1 a2 a3) rfl (endLost_keeps (.refl t) a1 a2 a3)

theorem readerLost_reported (h : Reported s t) (a1) : Reported s (readerLost a1 t) :=
  h.quiet (readerLost_frame (.refl _ t) (within_refl _) a1) rfl (readerLost_keeps (.refl t) a1)

theorem readerOut_reported (h : Reported s t) (a1 a2) : Reported s (readerOut a1 a2 t) := by
  unfold readerOut
  repeat'
    first
    | intro _
    | with_reducible (first | assumption | apply nfcEvent_reported | apply outOfService_reported | apply modReader_reported | apply fault_reported | apply readerLost_reported)

theorem detTime_reported (h : Reported s t) (a1) : Reported s (detTime a1 t) :=
  h.quiet (detTime_frame (.refl _ t) (within_refl _) a1) rfl (detTime_keeps (.refl t) a1)

theorem execNfcDetection_reported (h : Reported s t) (a1 a2 a3 a4 a5) : OutReported s (execNfcDetection a1 a2 a3 a4 a5 t) := by
  unfold execNfcDetection
  repeat'
    first
    | intro _
    | with_reducible (first | assumption | apply OutReported.next | apply detTime_reported | apply emit_reported | apply readerOut_reported | apply modReader_reported | apply activateCard_reported | apply ite_reported)

theorem execReaderRetry_reported (h : Reported s t) (a1 a2) : OutReported s (execReaderRetry a1 a2 t) := by
  unfold execReaderRetry
  repeat'
    first
    | intro _
    | with_reducible (first | assumption | apply OutReported.next | apply elapseTo_reported | apply backInService_reported | apply modReader_reported | apply fault_reported | apply ite_reported)

theorem retireLane_reported (h : Reported s t) (a1 a2 a3) : Reported s (retireLane a1 a2 a3 t) := by
  unfold retireLane
  repeat'
    first
    | intro _
    | with_reducible (first | assumption | apply modLane_reported | apply changeUnit_reported)
    | split
    | (extract_lets +onlyGivenNames x; first | (refine (fun hx : Reported s x => ?_) ?_ <;> [clear_value x; subst x]) | clear_value x)

theorem wakeLane_reported (h : Reported s t) : Reported s (wakeLane t) :=
  h.quiet (wakeLane_frame (.refl _ t) (within_refl _)) rfl (wakeLane_keeps (.refl t))

theorem moveWork_reported (h : Reported s t) (op : Option Nat) : Reported s (moveWork op t) := by
  unfold moveWork
  split
  · exact ite_reported (restartPoll_reported (modFlight_reported h _ _)) (modFlight_reported h _ _)
  · exact h

theorem execLaneFault_reported (h : Reported s t) (a1 a2) : OutReported s (execLaneFault a1 a2 t) := by
  unfold execLaneFault
  repeat'
    first
    | intro _
    | with_reducible (first | assumption | apply OutReported.next | apply keyEvent_reported | apply moveWork_reported | apply modLane_reported | apply fault_reported | apply onlyIf_reported | apply wakeLane_reported | apply retireLane_reported | apply changeUnit_reported | apply ite_reported)

theorem execLaneRetest_reported (h : Reported s t) (a1 a2) : OutReported s (execLaneRetest a1 a2 t) := by
  unfold execLaneRetest
  repeat'
    first
    | intro _
    | with_reducible (first | assumption | apply OutReported.next | apply backInService_reported | apply modLane_reported | apply fault_reported | apply retireLane_reported | apply ite_reported)

theorem execLaneOverheat_reported (h : Reported s t) (a1) : OutReported s (execLaneOverheat a1 t) := by
  unfold execLaneOverheat
  repeat'
    first
    | intro _
    | with_reducible (first | assumption | apply OutReported.next | apply onlyIf_reported | apply wakeLane_reported | apply changeUnit_reported | apply modLane_reported | apply fault_reported | apply ite_reported)

theorem execLaneCooled_reported (h : Reported s t) (a1 a2) : OutReported s (execLaneCooled a1 a2 t) := by
  unfold execLaneCooled
  repeat'
    first
    | intro _
    | with_reducible (first | assumption | apply OutReported.next | apply modLane_reported | apply backInService_reported | apply fault_reported | apply ite_reported)

theorem execLockReq_reported (h : Reported s t) (a1) : OutReported s (execLockReq a1 t) := by
  unfold execLockReq
  repeat'
    first
    | intro _
    | with_reducible (first | assumption | apply OutReported.next | apply startOp_reported | apply lockRequest_reported | apply settle_reported)

theorem execArmHoldExpiry_reported (h : Reported s t) : OutReported s (execArmHoldExpiry t) := by
  unfold execArmHoldExpiry
  repeat'
    first
    | intro _
    | with_reducible (first | assumption | apply OutReported.next | apply elapseTo_reported | apply moveLatch_reported | apply ite_reported)
    | split

theorem execIgnitionOffDebounce_reported (h : Reported s t) : OutReported s (execIgnitionOffDebounce t) := by
  unfold execIgnitionOffDebounce
  repeat'
    first
    | exact fun _ => ⟨rfl, rfl⟩
    | intro _
    | with_reducible (first | assumption | apply OutReported.next | apply modSlk_reported | apply elapseTo_reported | apply lockRequest_reported | apply ite_reported)
    | split

theorem execReleaseWindowExpiry_reported (h : Reported s t) : OutReported s (execReleaseWindowExpiry t) := by
  unfold execReleaseWindowExpiry
  repeat'
    first
    | exact fun _ => ⟨rfl, rfl⟩
    | intro _
    | with_reducible (first | assumption | apply OutReported.next | apply elapseToNs_reported | apply elapseTo_reported | apply modSlk_reported | apply windowExpired_reported | apply ite_reported)
    | split

theorem execLockHoldExpiry_reported (h : Reported s t) : OutReported s (execLockHoldExpiry t) := by
  unfold execLockHoldExpiry
  repeat'
    first
    | intro _
    | with_reducible (first | assumption | apply OutReported.next | apply elapseTo_reported | apply moveLatch_reported | apply holdUpdate_reported | apply ite_reported)
    | split

theorem reconcileMove_reported (h : Reported s t) : Reported s (reconcileMove t) := by
  unfold reconcileMove
  repeat'
    first
    | intro _
    | with_reducible (first | assumption | apply moveLatch_reported | apply onlyIf_reported | apply noRelease_reported | apply startTimer_reported | apply ite_reported)

theorem retryCause_reported (h : Reported s t) (a1) : Reported s (retryCause a1 t) := by
  unfold retryCause
  repeat'
    first
    | intro _
    | with_reducible (first | assumption | apply lockRequest_reported | apply windowExpired_reported | apply moveLatch_reported | apply engineChange_reported | apply reconcileMove_reported | apply ite_reported)

theorem execSlkLedgerRetry_reported (h : Reported s t) : OutReported s (execSlkLedgerRetry t) := by
  unfold execSlkLedgerRetry
  repeat'
    first
    | exact fun _ => ⟨rfl, rfl⟩
    | intro _
    | with_reducible (first | assumption | apply OutReported.next | apply each_reported | apply retryCause_reported | apply modSlk_reported | apply elapseTo_reported | apply ite_reported)

theorem execStateFramePeriod_reported (h : Reported s t) : OutReported s (execStateFramePeriod t) := by
  unfold execStateFramePeriod
  repeat'
    first
    | intro _
    | with_reducible (first | assumption | apply OutReported.next | apply sendState_reported | apply elapseTo_reported | apply ite_reported)
    | split

theorem execReconciliation_reported (h : Reported s t) : OutReported s (execReconciliation t) := by
  unfold execReconciliation
  repeat'
    first
    | exact fun _ => ⟨rfl, rfl⟩
    | intro _
    | with_reducible (first | assumption | apply OutReported.next | apply modSlk_reported | apply elapseTo_reported | apply reconcileMove_reported | apply onlyIf_reported | apply lockRequest_reported | apply flagsCheck_reported | apply ite_reported)
    | split

theorem execCanBusOff_reported (h : Reported s t) (a1) : OutReported s (execCanBusOff a1 t) := by
  unfold execCanBusOff
  repeat'
    first
    | exact fun _ => ⟨rfl, rfl⟩
    | intro _
    | with_reducible (first | assumption | apply OutReported.next | apply modFlt_reported | apply modSlk_reported | apply fault_reported | apply flagsCheck_reported | apply onlyIf_reported | apply slkEvent_reported | apply ite_reported)

theorem execCanBusoffRecovery_reported (h : Reported s t) (a1) : OutReported s (execCanBusoffRecovery a1 t) := by
  unfold execCanBusoffRecovery
  repeat'
    first
    | exact fun _ => ⟨rfl, rfl⟩
    | intro _
    | with_reducible (first | assumption | apply OutReported.next | apply elapseTo_reported | apply flagsCheck_reported | apply modFlt_reported | apply modSlk_reported)
    | split

theorem execCanPortReturn_reported (h : Reported s t) (a1) : OutReported s (execCanPortReturn a1 t) := by
  unfold execCanPortReturn
  repeat'
    first
    | exact fun _ => ⟨rfl, rfl⟩
    | intro _
    | with_reducible (first | assumption | apply OutReported.next | apply flagsCheck_reported | apply modSlk_reported | apply elapseTo_reported)
    | split

theorem execSlkMismatch_reported (h : Reported s t) (a1 a2) : OutReported s (execSlkMismatch a1 a2 t) := by
  unfold execSlkMismatch
  repeat'
    first
    | exact fun _ => ⟨rfl, rfl⟩
    | intro _
    | with_reducible (first | assumption | apply OutReported.next | apply writeFault_reported | apply modFlt_reported | apply fault_reported | apply ite_reported)

theorem writSigned_reported (h : Reported s t) (a1 a2) : Reported s (writSigned a1 a2 t).2 :=
  h.quiet (writSigned_frame (.refl _ t) (within_refl _) a1 a2) rfl (writSigned_keeps (.refl t) a1 a2)

theorem markGone_reported (h : Reported s t) (a1) : Reported s (markGone a1 t) :=
  h.quiet (markGone_frame (.refl _ t) (within_refl _) a1) rfl (markGone_keeps (.refl t) a1)

theorem installSetup_reported (h : Reported s t) (a1) : Reported s (installSetup a1 t) := by
  unfold installSetup
  repeat'
    first
    | exact fun _ => ⟨rfl, rfl⟩
    | intro _
    | with_reducible (first | assumption | apply markGone_reported | apply settleBuckets_reported | apply modSlc_reported | apply modHost_reported | apply modPwr_reported | apply each_reported | apply drainRing_reported | apply closeHandlesOf_reported)

theorem applyDebug_reported (h : Reported s t) (a1) : Reported s (applyDebug a1 t) := by
  unfold applyDebug
  repeat'
    first
    | exact fun _ => ⟨rfl, rfl⟩
    | intro _
    | with_reducible (first | assumption | apply closeDebug_reported | apply onlyIf_reported | apply enterService_reported | apply modFlt_reported | apply ite_reported)

theorem writEffect_reported (h : Reported s t) (a1) : Reported s (writEffect a1 t) := by
  unfold writEffect
  repeat'
    first
    | exact fun _ => ⟨rfl, rfl⟩
    | intro _
    | with_reducible (first | assumption | apply installSetup_reported | apply applyDebug_reported | apply flagsCheck_reported | apply modSlk_reported | apply modRadio_reported | apply lockWatch_reported | apply modClk_reported | apply ite_reported)
    | split

theorem writFail_reported (h : Reported s t) (a1 a2) : Reported s (writFail a1 a2 t) :=
  h.quiet (writFail_frame (.refl _ t) (within_refl _) a1 a2) rfl (writFail_keeps (.refl t) a1 a2)

theorem writRun_reported (h : Reported s t) (r : Nat) (rd : HostRead) (f : Flight) (body : Bytes → State → State)
    (hb : ∀ w {t}, Reported s t → Reported s (body w t)) : Reported s (writRun r rd f body t) := by
  unfold writRun
  split
  · exact writFail_reported h _ _
  next w _ =>
    split
    · exact writFail_reported h _ _
    · have hsigned : Reported s (writSigned w (sigBlocks w) t).2 := writSigned_reported h w _
      generalize writSigned w (sigBlocks w) t = signed at hsigned
      have hstage : Reported s (atStage r 1 0 signed.2) := atStage_reported hsigned _ _ _
      exact ite_reported (writFail_reported hsigned _ _)
        (ite_reported (writFail_reported hstage _ _) (ite_reported (writFail_reported hstage _ _) (hb _ hstage)))

theorem writCommit_reported (h : Reported s t) (r : Nat) (w : Bytes) : Reported s (writCommit r w t) :=
  atStage_reported (writEffect_reported (modSlc_reported (logRec_reported (logRec_reported h _) _) _) _) _ _ _

theorem execWritApply_reported (h : Reported s t) (a1 a2) : OutReported s (execWritApply a1 a2 t) := by
  unfold execWritApply
  repeat'
    first
    | intro _
    | with_reducible (first | assumption | apply OutReported.next | apply startOp_reported | apply writRun_reported | apply writFail_reported | apply writCommit_reported | apply ite_reported)

theorem journal_reported (h : Reported s t) (f : Upd → Upd) : Reported s (journal f t) := modUpd_reported h _

theorem updEvent_reported (h : Reported s t) (a1) : Reported s (updEvent a1 t) :=
  h.quiet (updEvent_frame (.refl _ t) (within_refl _) a1) rfl (updEvent_keeps (.refl t) a1)

theorem endRelay_reported (h : Reported s t) (a1 a2 a3 a4) : Reported s (endRelay a1 a2 a3 a4 t) :=
  h.quiet (endRelay_frame (.refl _ t) (within_refl _) a1 a2 a3 a4) rfl (endRelay_keeps (.refl t) a1 a2 a3 a4)

theorem portDown_reported (h : Reported s t) (a1 a2 a3) : Reported s (portDown a1 a2 a3 t) :=
  h.quiet (portDown_frame (.refl _ t) (within_refl _) a1 a2 a3) rfl (portDown_keeps (.refl t) a1 a2 a3)

theorem decouple_reported (h : Reported s t) (a1 a2) : Reported s (decouple a1 a2 t) :=
  h.quiet (decouple_frame (.refl _ t) (within_refl _) a1 a2) rfl (decouple_keeps (.refl t) a1 a2)

theorem quarantine_reported (h : Reported s t) (a1) : Reported s (quarantine a1 t) := by
  unfold quarantine
  repeat'
    first
    | intro _
    | with_reducible (first | assumption | apply portDown_reported | apply linkEvent_reported | apply fault_reported | apply modPort_reported)

theorem takeDet_reported (h : Reported s t) (a1 a2) : Reported s (takeDet a1 a2 t) :=
  h.quiet (takeDet_frame (.refl _ t) (within_refl _) a1 a2) rfl (takeDet_keeps (.refl t) a1 a2)

theorem execIflDetSample_reported (h : Reported s t) (a1 a2) : OutReported s (execIflDetSample a1 a2 t) := by
  unfold execIflDetSample
  repeat'
    first
    | intro _
    | with_reducible (first | assumption | apply OutReported.next | apply takeDet_reported | apply onlyIf_reported | apply elapseTo_reported | apply fault_reported | apply modPort_reported | apply quarantine_reported | apply decouple_reported | apply ite_reported)
    | split

theorem supplyStep_reported (h : Reported s t) : Reported s (supplyStep t) :=
  h.quiet (supplyStep_frame (.refl _ t) (within_refl _)) rfl (supplyStep_keeps (.refl t))

theorem linksParked_reported (h : Reported s t) : Reported s (linksParked t) :=
  h.quiet (linksParked_frame (.refl _ t) (within_refl _)) rfl (linksParked_keeps (.refl t))

theorem requeue_reported (h : Reported s t) : Reported s (requeue t) :=
  h.quiet (requeue_frame (.refl _ t) (within_refl _)) rfl (requeue_keeps (.refl t))

theorem resetBlocks_reported (h : Reported s t) (cold : Bool) : Reported s (resetBlocks cold t) := by
  unfold resetBlocks
  extract_lets now x y z
  have hz : Reported s z := onlyIf_reported (each_reported (requeue_reported h) _ _ fun _ _ k =>
    onlyIf_reported k _ _ fun k => emit_reported k _) _ _ fun k => emit_reported k _
  clear_value z
  exact hz.trans ⟨le_rfl, .inl ⟨rfl, rfl⟩, id, .intro⟩

theorem coldReset_reported (h : Reported s t) : Reported s (coldReset t) := by
  unfold coldReset
  repeat'
    first
    | intro _
    | with_reducible (first | assumption | apply modDir_reported | apply resetBlocks_reported)

/-- The heart of a loss of AON state: the latch locked as the loss is noted (R25). -/
theorem aonLost_reported (h : Reported s t) (f : Pwr → Pwr) (g : Slk → Slk) (hf : ∀ b, (f b).mode = b.mode ∧ (f b).aonLost = true)
    (hg : ∀ b, (g b).code = 0x3C ∧ (g b).comp = 0xC3) : Reported s (modSlk g (modPwr f t)) :=
  h.trans ⟨le_rfl, .inr (.inr ⟨(hf _).2, (hg _).1, (hg _).2⟩), fun _ => (hf _).2, fun hm ho => ⟨(hf _).1.symm.trans hm, ho⟩⟩

theorem loseAon_reported (h : Reported s t) : Reported s (loseAon t) := by
  unfold loseAon
  extract_lets clk pwr slk flt sec slc
  have hclk : Reported s clk := modClk_reported h _
  clear_value clk
  have hslk : Reported s slk := by exact aonLost_reported hclk _ _ (fun _ => ⟨rfl, rfl⟩) fun _ => ⟨rfl, rfl⟩
  clear_value slk
  refine modHost_reported (modSlc_reported (modSec_reported (modFlt_reported hslk _ ?_) _) _) _
  exact fun _ => ⟨rfl, rfl⟩

theorem pickPair_reported (h : Reported s t) (a1) : Reported s (pickPair a1 t) := by
  unfold pickPair
  repeat'
    first
    | exact fun _ => ⟨rfl, rfl⟩
    | intro _
    | with_reducible (first | assumption | apply modPwr_reported | apply ite_reported)
    | split

theorem takeCheckpoint_reported (h : Reported s t) : Reported s (takeCheckpoint t) := by
  unfold takeCheckpoint
  repeat'
    first
    | exact fun _ => ⟨rfl, rfl⟩
    | intro _
    | with_reducible (first | assumption | apply modPwr_reported | apply modHost_reported | apply logRec_reported | apply ite_reported)

theorem raiseDue_reported (h : Reported s t) : Reported s (raiseDue t) := by
  unfold raiseDue
  repeat'
    first
    | intro _
    | with_reducible (first | assumption | apply raiseEach_reported)

theorem raiseHearth_reported (h : Reported s t) : Reported s (raiseHearth t) := by
  unfold raiseHearth
  repeat'
    first
    | intro _
    | with_reducible (first | assumption | apply raiseEach_reported)

/-- Hearth mode is entered with its fault record owed (R573). -/
theorem enterHearth_reported (h : Reported s t) (cause : Nat) : Reported s (enterHearth cause t) := by
  unfold enterHearth
  extract_lets slow lowered inHearth
  have hlowered : Reported s lowered := lowerEnable_reported (resetBlocks_reported h _) _
  have hrate : Frame [.time, .counters, .clk, .led] (modPwr (fun p => { p with mode := .hearth, start := .settled }) lowered) inHearth :=
    onlyIf_frame (.refl _ _) _ _ fun k => cntRateChange_frame k (within_refl _)
  have hkept : Keeps (modPwr (fun p => { p with mode := .hearth, start := .settled }) lowered) inHearth :=
    onlyIf_keeps (.refl _) _ _ fun k => cntRateChange_keeps k
  have hpwr := hrate.pwr rfl
  clear_value inHearth lowered
  refine trainLink_reported (raiseHearth_reported (modUpd_reported (hlowered.owed ?_ ?_ ?_ rfl) _))
  · exact hkept.lsn
  · exact hrate.slk rfl
  · rw [modFlt_pwr, hpwr]
    rfl

theorem startUp_reported (h : Reported s t) (cause modeStart : Nat) : Reported s (startUp cause modeStart t) :=
  raiseDue_reported (modPwr_reported_of_ne (modSys_reported h _) _ fun _ => ⟨nofun, rfl⟩)

theorem fullReset_reported (h : Reported s t) (a1) : Reported s (fullReset a1 t) := by
  unfold fullReset
  repeat'
    first
    | intro _
    | with_reducible (first | assumption | apply startUp_reported | apply pickPair_reported | apply coldReset_reported | apply ite_reported)
    | split

theorem execVaonGood_reported (h : Reported s t) : OutReported s (execVaonGood t) := by
  unfold execVaonGood
  repeat'
    first
    | exact fun _ => ⟨rfl, rfl⟩
    | intro _
    | with_reducible (first | assumption | apply OutReported.next | apply modPwr_reported | apply pickPair_reported | apply coldReset_reported | apply drivePins_reported | apply startUp_reported | apply ite_reported)

theorem execVaonBrownOut_reported (h : Reported s t) : OutReported s (execVaonBrownOut t) := by
  refine .next (ite_reported (drivePins_reported (modPwr_reported_of_ne
    (fromRtc_reported (lowerFrom_reported (linkDown_reported (coldReset_reported h)) _)) _ fun b => ⟨?_, rfl⟩)) h)
  show (if b.mode = .dormant then Mode.dormant else .cab) ≠ .hearth
  split <;> nofun

theorem execAonSupplyChangeover_reported (h : Reported s t) : OutReported s (execAonSupplyChangeover t) := by
  unfold execAonSupplyChangeover
  repeat'
    first
    | exact fun _ => ⟨rfl, rfl⟩
    | intro _
    | with_reducible (first | assumption | apply OutReported.next | apply modPwr_reported)

theorem execAonLoss_reported (h : Reported s t) : OutReported s (execAonLoss t) := by
  unfold execAonLoss
  repeat'
    first
    | intro _
    | with_reducible (first | assumption | apply OutReported.next | apply loseAon_reported | apply ite_reported)

theorem execVkeepLow_reported (h : Reported s t) (a1) : OutReported s (execVkeepLow a1 t) := by
  unfold execVkeepLow
  repeat'
    first
    | exact fun _ => ⟨rfl, rfl⟩
    | intro _
    | with_reducible (first | assumption | apply OutReported.next | apply modPwr_reported | apply fault_reported | apply ite_reported)

theorem railLost_reported (h : Reported s t) (a1) : Reported s (railLost a1 t) := by
  unfold railLost
  repeat'
    first
    | exact fun _ => ⟨rfl, rfl⟩
    | intro _
    | with_reducible (first | assumption | apply fault_reported | apply modPwr_reported)

theorem execVcoreBrownOut_reported (h : Reported s t) (a1) : OutReported s (execVcoreBrownOut a1 t) := by
  unfold execVcoreBrownOut
  repeat'
    first
    | exact fun _ => ⟨rfl, rfl⟩
    | intro _
    | with_reducible (first | assumption | apply OutReported.next | apply modPwr_reported | apply fullReset_reported | apply ite_reported)

theorem execDramRailFault_reported (h : Reported s t) (a1) : OutReported s (execDramRailFault a1 t) := by
  unfold execDramRailFault
  repeat'
    first
    | intro _
    | with_reducible (first | assumption | apply OutReported.next | apply modDir_reported | apply railLost_reported | apply ite_reported)

theorem chainsLeave_reported (h : Reported s t) : Reported s (chainsLeave t) :=
  h.quiet (chainsLeave_frame (.refl _ t) (within_refl _)) rfl (chainsLeave_keeps (.refl t))

theorem readersLeave_reported (h : Reported s t) : Reported s (readersLeave t) :=
  h.quiet (readersLeave_frame (.refl _ t) (within_refl _)) rfl (readersLeave_keeps (.refl t))

theorem portsLost_reported (h : Reported s t) (a1) : Reported s (portsLost a1 t) := by
  unfold portsLost
  repeat'
    first
    | intro _
    | with_reducible (first | assumption | apply lfCut_reported | apply passiveEnds_reported | apply readersLeave_reported | apply each_reported | apply readerLost_reported | apply chainsGone_reported | apply chainsLeave_reported | apply portDown_reported)
    | split

theorem execPortRailFault_reported (h : Reported s t) (a1) : OutReported s (execPortRailFault a1 t) := by
  unfold execPortRailFault
  repeat'
    first
    | intro _
    | with_reducible (first | assumption | apply OutReported.next | apply portsLost_reported | apply railLost_reported | apply ite_reported)

theorem drivesDrop_reported (h : Reported s t) : Reported s (drivesDrop t) :=
  h.quiet (drivesDrop_frame (.refl _ t) (within_refl _)) rfl (drivesDrop_keeps (.refl t))

theorem clockReports_reported (h : Reported s t) (a1) : Reported s (clockReports a1 t) := by
  unfold clockReports
  repeat'
    first
    | intro _
    | with_reducible (first | assumption | apply each_reported | apply onlyIf_reported | apply reportUnit_reported | apply ite_reported)
    | split

theorem execClockSwitchWindowEnd_reported (h : Reported s t) (a1) : OutReported s (execClockSwitchWindowEnd a1 t) := by
  unfold execClockSwitchWindowEnd
  repeat'
    first
    | exact fun _ => ⟨rfl, rfl⟩
    | intro _
    | with_reducible (first | assumption | apply OutReported.next | apply modClk_reported | apply fault_reported | apply chainsGone_reported | apply chainsLeave_reported | apply drivesDrop_reported | apply each_reported | apply portDown_reported | apply clockReports_reported | apply ite_reported)

theorem execXtal25Return_reported (h : Reported s t) : OutReported s (execXtal25Return t) := by
  unfold execXtal25Return
  repeat'
    first
    | exact fun _ => ⟨rfl, rfl⟩
    | intro _
    | with_reducible (first | assumption | apply OutReported.next | apply clockReports_reported | apply fault_reported | apply modClk_reported | apply onlyIf_reported | apply nextPoll_reported | apply ite_reported)

theorem execLinkRailFault_reported (h : Reported s t) (a1) : OutReported s (execLinkRailFault a1 t) := by
  unfold execLinkRailFault
  repeat'
    first
    | intro _
    | with_reducible (first | assumption | apply OutReported.next | apply drivesDrop_reported | apply linkDown_reported | apply onlyIf_reported | apply coexPins_reported | apply railLost_reported | apply ite_reported)

theorem execRailGoodReturn_reported (h : Reported s t) (a1) : OutReported s (execRailGoodReturn a1 t) := by
  unfold execRailGoodReturn
  repeat'
    first
    | exact fun _ => ⟨rfl, rfl⟩
    | intro _
    | with_reducible (first | assumption | apply OutReported.next | apply modPwr_reported | apply writeFault_reported | apply trainLink_reported | apply onlyIf_reported | apply coexPins_reported | apply startRebuild_reported | apply ite_reported)

theorem sliceServes_reported (h : Reported s t) : Reported s (sliceServes t) := by
  unfold sliceServes
  repeat'
    first
    | intro _
    | with_reducible (first | assumption | apply buttonFrame_reported | apply modRadio_reported | apply onlyIf_reported | apply nextPoll_reported)
    | split

theorem parkedGroupGood_reported (h : Reported s t) (a1) : Reported s (parkedGroupGood a1 t) := by
  unfold parkedGroupGood
  repeat'
    first
    | intro _
    | with_reducible (first | assumption | apply onlyIf_reported | apply raiseEach_reported | apply sliceServes_reported | apply slicePowered_reported)

theorem parkedGroupLate_reported (h : Reported s t) : Reported s (parkedGroupLate t) := by
  unfold parkedGroupLate
  repeat'
    first
    | exact fun _ => ⟨rfl, rfl⟩
    | intro _
    | with_reducible (first | assumption | apply modRadio_reported | apply modPwr_reported | apply ite_reported)
    | split

theorem execEnableGroupGood_reported (h : Reported s t) (a1) : OutReported s (execEnableGroupGood a1 t) := by
  unfold execEnableGroupGood
  repeat'
    first
    | exact fun _ => ⟨rfl, rfl⟩
    | intro _
    | with_reducible (first | assumption | apply OutReported.next | apply modPwr_reported | apply onlyIf_reported | apply coexPins_reported | apply parkedGroupGood_reported | apply trainLink_reported | apply raiseHearth_reported | apply raiseDue_reported | apply ite_reported)

theorem execEnableGroupTimeout_reported (h : Reported s t) (g : Fin 4) : OutReported s (execEnableGroupTimeout g t) := by
  unfold execEnableGroupTimeout
  refine .next (ite_reported ?_ h)
  extract_lets low marked faulted
  have hmarked : Reported s marked := modPwr_reported (lowerFrom_reported (elapseTo_reported h _) _) _ fun _ => ⟨rfl, rfl⟩
  have hfaulted : Reported s faulted := fault_reported hmarked _ _ _ _ _ _ _
  clear_value faulted
  refine ite_reported (modPwr_reported_of_ne hfaulted _ ?_) (ite_reported (onlyIf_reported hfaulted _ _ parkedGroupLate_reported)
    (ite_reported (modPwr_reported_of_ne (fromRtc_reported hfaulted) _ ?_) (modPwr_reported hfaulted _ ?_)))
  · exact fun _ => ⟨nofun, rfl⟩
  · exact fun _ => ⟨nofun, rfl⟩
  · exact fun _ => ⟨rfl, rfl⟩

theorem bootChoice_reported (h : Reported s t) : Reported s (bootChoice t).2 :=
  h.quiet (bootChoice_frame (.refl _ t) (within_refl _)) rfl (bootChoice_keeps (.refl t))

theorem execFuseLoadEnd_reported (h : Reported s t) : OutReported s (execFuseLoadEnd t) := by
  unfold execFuseLoadEnd
  refine .next (ite_reported (ite_reported (enterHearth_reported (drawn_reported h _) _) ?_) h)
  have hchoice : Reported s (bootChoice t).2 := bootChoice_reported h
  split
  next e =>
    rw [e] at hchoice
    exact modPwr_reported (modUpd_reported hchoice _) _ fun _ => ⟨rfl, rfl⟩
  next e =>
    rw [e] at hchoice
    exact enterHearth_reported hchoice _

theorem portsRefit_reported (h : Reported s t) (a1) : Reported s (portsRefit a1 t) :=
  h.quiet (portsRefit_frame (.refl _ t) (within_refl _) a1) rfl (portsRefit_keeps (.refl t) a1)

theorem takeRecords_reported (h : Reported s t) : Reported s (takeRecords t) := by
  unfold takeRecords
  refine portsRefit_reported (modPwr_reported (modSys_reported (modCfg_reported h _) _) _ ?_) _
  exact fun _ => ⟨rfl, rfl⟩

theorem reportRecords_reported (h : Reported s t) : Reported s (reportRecords t) := by
  unfold reportRecords
  repeat'
    first
    | intro _
    | with_reducible (first | assumption | apply each_reported | apply writeFault_reported | apply ite_reported)

theorem checkUnit_reported (h : Reported s t) (a1) : Reported s (checkUnit a1 t) := by
  unfold checkUnit
  repeat'
    first
    | exact fun _ => ⟨rfl, rfl⟩
    | intro _
    | with_reducible (first | assumption | apply fault_reported | apply modFlt_reported | apply modPwr_reported | apply onlyIf_reported | apply uhfEvent_reported | apply modUhfCh_reported | apply outOfService_reported | apply ite_reported)

theorem writeVcore_reported (h : Reported s t) (a1) : Reported s (writeVcore a1 t) := by
  unfold writeVcore
  repeat'
    first
    | exact fun _ => ⟨rfl, rfl⟩
    | intro _
    | with_reducible (first | assumption | apply emit_reported | apply modPwr_reported | apply elapseNs_reported)
    | split

theorem setVcore_reported (h : Reported s t) : Reported s (setVcore t) := by
  unfold setVcore
  repeat'
    first
    | intro _
    | with_reducible (first | assumption | apply each_reported | apply writeVcore_reported | apply drawn_reported | apply ite_reported)

theorem execConfigurationLoad_reported (h : Reported s t) (a1) : OutReported s (execConfigurationLoad a1 t) := by
  unfold execConfigurationLoad
  repeat'
    first
    | exact fun _ => ⟨rfl, rfl⟩
    | intro _
    | with_reducible (first | assumption | apply OutReported.next | apply reportRecords_reported | apply takeRecords_reported | apply setVcore_reported | apply each_reported | apply checkUnit_reported | apply modPwr_reported | apply checkStarter_reported | apply ite_reported)

theorem endKeyWork_reported (h : Reported s t) : Reported s (endKeyWork t) :=
  h.quiet (endKeyWork_frame (.refl _ t) (within_refl _)) rfl (endKeyWork_keeps (.refl t))

theorem activate_reported (h : Reported s t) (a1 a2) : Reported s (activate a1 a2 t) :=
  h.quiet (activate_frame (.refl _ t) (within_refl _) a1 a2) rfl (activate_keeps (.refl t) a1 a2)

theorem tamperRecord_reported (h : Reported s t) : Reported s (tamperRecord t) := by
  unfold tamperRecord
  repeat'
    first
    | exact fun _ => ⟨rfl, rfl⟩
    | intro _
    | with_reducible (first | assumption | apply modFlt_reported | apply writeFault_reported | apply ite_reported)

theorem beginParking_reported (h : Reported s t) : Reported s (beginParking t) := by
  unfold beginParking
  repeat'
    first
    | exact fun _ => ⟨rfl, rfl⟩
    | intro _
    | with_reducible (first | assumption | apply modPwr_reported | apply ite_reported)

theorem warmReset_reported (h : Reported s t) (a1) : Reported s (warmReset a1 t) := by
  unfold warmReset
  repeat'
    first
    | intro _
    | with_reducible (first | assumption | apply modSys_reported | apply resetBlocks_reported | apply pickPair_reported | apply startUp_reported | apply ite_reported)

theorem execWarmReset_reported (h : Reported s t) (a1) : OutReported s (execWarmReset a1 t) := by
  unfold execWarmReset
  repeat'
    first
    | intro _
    | with_reducible (first | assumption | apply OutReported.next | apply warmReset_reported | apply ite_reported)

theorem execWatchdogExpiry_reported (h : Reported s t) : OutReported s (execWatchdogExpiry t) := by
  unfold execWatchdogExpiry
  repeat'
    first
    | intro _
    | with_reducible (first | assumption | apply OutReported.next | apply enterHearth_reported | apply modSys_reported | apply ite_reported)

theorem execCheckpoint_reported (h : Reported s t) : OutReported s (execCheckpoint t) := by
  unfold execCheckpoint
  repeat'
    first
    | exact fun _ => ⟨rfl, rfl⟩
    | intro _
    | with_reducible (first | assumption | apply OutReported.next | apply elapseTo_reported | apply takeCheckpoint_reported | apply modPwr_reported | apply ite_reported)

theorem keptInParked_reported (h : Reported s t) (old : State) : Reported s (keptInParked old t) := h.same rfl rfl rfl rfl

theorem resume_reported (h : Reported s t) (a1) : Reported s (resume a1 t) := by
  unfold resume
  repeat'
    first
    | intro _
    | with_reducible (first | assumption | apply keptInParked_reported | apply resetBlocks_reported | apply startUp_reported | apply cntRateChange_reported | apply pickPair_reported)

theorem cabTrigger_reported (h : Reported s t) : Reported s (cabTrigger t) := by
  unfold cabTrigger
  repeat'
    first
    | exact fun _ => ⟨rfl, rfl⟩
    | intro _
    | with_reducible (first | assumption | apply resume_reported | apply modPwr_reported | apply abandonParking_reported | apply ite_reported)

theorem execPwrParkReq_reported (h : Reported s t) (a1) : OutReported s (execPwrParkReq a1 t) := by
  unfold execPwrParkReq
  repeat'
    first
    | intro _
    | with_reducible (first | assumption | apply OutReported.next | apply beginParking_reported | apply ite_reported)

theorem execPwrParkCancel_reported (h : Reported s t) (a1) : OutReported s (execPwrParkCancel a1 t) := by
  unfold execPwrParkCancel
  repeat'
    first
    | intro _
    | with_reducible (first | assumption | apply OutReported.next | apply abandonParking_reported | apply ite_reported)

theorem execParkedEntryIdle_reported (h : Reported s t) : OutReported s (execParkedEntryIdle t) := by
  unfold execParkedEntryIdle
  repeat'
    first
    | intro _
    | with_reducible (first | assumption | apply OutReported.next | apply beginParking_reported | apply elapseTo_reported | apply ite_reported)

theorem execParkedEntryDrained_reported (h : Reported s t) : OutReported s (execParkedEntryDrained t) := by
  unfold execParkedEntryDrained
  repeat'
    first
    | exact fun _ => ⟨rfl, rfl⟩
    | intro _
    | with_reducible (first | assumption | apply OutReported.next | apply lockRequest_reported | apply tryLog_reported | apply takeCheckpoint_reported | apply modPwr_reported | apply ite_reported)

theorem shutDrive_reported (h : Reported s t) (a1 a2) : Reported s (shutDrive a1 a2 t) := by
  unfold shutDrive
  repeat'
    first
    | intro _
    | with_reducible (first | assumption | apply onlyIf_reported | apply emit_reported | apply modDrive_reported | apply outOfService_reported | apply ite_reported)

theorem fabricDown_reported (h : Reported s t) : Reported s (fabricDown t) :=
  h.quiet (fabricDown_frame (.refl _ t) (within_refl _)) rfl (fabricDown_keeps (.refl t))

theorem enterParked_reported (h : Reported s t) : Reported s (enterParked t) := by
  unfold enterParked
  extract_lets now off parked
  have hoff : Reported s off :=
    modSys_reported (lowerFrom_reported (wakeLane_reported (fabricDown_reported (fromRtc_reported (readersOff_reported h)))) _) _
  have hparked : Reported s parked := modPwr_reported_of_ne hoff _ fun _ => ⟨nofun, rfl⟩
  exact lowBatteryAnew_reported (modRadio_reported (cntRateChange_reported hparked) _)

theorem execDriveShutdownComplete_reported (h : Reported s t) (a1) : OutReported s (execDriveShutdownComplete a1 t) := by
  unfold execDriveShutdownComplete
  repeat'
    first
    | intro _
    | with_reducible (first | assumption | apply OutReported.next | apply enterParked_reported | apply linksParked_reported | apply linkDown_reported | apply each_reported | apply shutDrive_reported | apply onlyIf_reported | apply resume_reported | apply ite_reported)

theorem enterDormant_reported (h : Reported s t) (a1 a2) : Reported s (enterDormant a1 a2 t) := by
  unfold enterDormant
  repeat'
    first
    | exact fun _ => ⟨rfl, rfl⟩
    | intro _
    | with_reducible (first | assumption | apply modPwr_reported | apply onlyIf_reported | apply stopCarrier_reported | apply modIfl_reported | apply modRadio_reported | apply useSlice_reported | apply ite_reported)
    | split

theorem dormantOff_reported (h : Reported s t) : Reported s (dormantOff t) := by
  refine ite_reported ?_ h
  split
  · exact modPwr_reported_of_ne (modRadio_reported (lowerFrom_reported (pickPair_reported (coldReset_reported
      (tryLog_reported (tryLog_reported h _) _)) _) _) _) _ fun _ => ⟨nofun, rfl⟩
  · exact h

theorem wake_reported (h : Reported s t) (b : Nat) : Reported s (wake b t) := by
  unfold wake
  refine ite_reported (modPwr_reported h _ ?_) (ite_reported ?_ (ite_reported (modPwr_reported h _ ?_) h))
  · exact fun _ => ⟨rfl, rfl⟩
  · extract_lets now woken
    have hwoken : Reported s woken := modPwr_reported_of_ne h _ fun _ => ⟨nofun, rfl⟩
    exact lowBatteryAnew_reported (raiseEnable_reported (modRadio_reported hwoken _) _)
  · exact fun _ => ⟨rfl, rfl⟩

theorem execNearListRestored_reported (h : Reported s t) : OutReported s (execNearListRestored t) := by
  unfold execNearListRestored
  repeat'
    first
    | intro _
    | with_reducible (first | assumption | apply OutReported.next | apply useSlice_reported | apply onlyIf_reported | apply modRadio_reported | apply ite_reported)

theorem execWakeWindowEnd_reported (h : Reported s t) : OutReported s (execWakeWindowEnd t) := by
  unfold execWakeWindowEnd
  repeat'
    first
    | exact fun _ => ⟨rfl, rfl⟩
    | intro _
    | with_reducible (first | assumption | apply OutReported.next | apply elapseTo_reported | apply modPwr_reported | apply enterDormant_reported | apply ite_reported)
    | split

theorem execDormancyHour_reported (h : Reported s t) : OutReported s (execDormancyHour t) := by
  unfold execDormancyHour
  repeat'
    first
    | exact fun _ => ⟨rfl, rfl⟩
    | intro _
    | with_reducible (first | assumption | apply OutReported.next | apply elapseTo_reported | apply modPwr_reported | apply enterDormant_reported | apply ite_reported)

theorem execLowBattery_reported (h : Reported s t) : OutReported s (execLowBattery t) := by
  unfold execLowBattery
  repeat'
    first
    | exact fun _ => ⟨rfl, rfl⟩
    | intro _
    | with_reducible (first | assumption | apply OutReported.next | apply enterDormant_reported | apply elapseTo_reported | apply modPwr_reported | apply onlyIf_reported | apply beginParking_reported | apply foldl_reported | refine foldl_reported ?_ (by with_reducible assumption) | apply ite_reported)
    | split

theorem execPwrAlarmS_reported (h : Reported s t) (a1 a2) : OutReported s (execPwrAlarmS a1 a2 t) := by
  unfold execPwrAlarmS
  repeat'
    first
    | exact fun _ => ⟨rfl, rfl⟩
    | intro _
    | with_reducible (first | assumption | apply OutReported.next | apply modPwr_reported | apply ite_reported)

theorem execRtcAlarm_reported (h : Reported s t) : OutReported s (execRtcAlarm t) := by
  unfold execRtcAlarm
  repeat'
    first
    | exact fun _ => ⟨rfl, rfl⟩
    | intro _
    | with_reducible (first | assumption | apply OutReported.next | apply modPwr_reported | apply elapseTo_reported | apply wake_reported)
    | split

theorem modPin_reported (h : Reported s t) (a1 a2) : Reported s (modPin a1 a2 t) := by
  unfold modPin
  repeat'
    first
    | exact fun _ => ⟨rfl, rfl⟩
    | intro _
    | with_reducible (first | assumption | apply modPwr_reported)

theorem ignTimer_reported (h : Reported s t) (a1) : Reported s (ignTimer a1 t) := by
  unfold ignTimer
  repeat'
    first
    | exact fun _ => ⟨rfl, rfl⟩
    | intro _
    | with_reducible (first | assumption | apply modSlk_reported | apply ite_reported)

theorem execWakePinCrossing_reported (h : Reported s t) (a1 a2) : OutReported s (execWakePinCrossing a1 a2 t) := by
  unfold execWakePinCrossing
  repeat'
    first
    | intro _
    | with_reducible (first | assumption | apply OutReported.next | apply modPin_reported | apply ignTimer_reported | apply ite_reported)

theorem ignitionOn_reported (h : Reported s t) : Reported s (ignitionOn t) := by
  unfold ignitionOn
  repeat'
    first
    | exact fun _ => ⟨rfl, rfl⟩
    | intro _
    | with_reducible (first | assumption | apply leaveService_reported | apply onlyIf_reported | apply modFlt_reported | apply cabTrigger_reported | apply ite_reported)

theorem execWakeEvent_reported (h : Reported s t) (a1) : OutReported s (execWakeEvent a1 t) := by
  unfold execWakeEvent
  repeat'
    first
    | exact fun _ => ⟨rfl, rfl⟩
    | intro _
    | with_reducible (first | assumption | apply OutReported.next | apply modPin_reported | apply elapseTo_reported | apply onlyIf_reported | apply supplyStep_reported | apply wake_reported | apply resume_reported | apply modPwr_reported | apply ignitionOn_reported | apply ite_reported)

theorem execDsenseChange_reported (h : Reported s t) (a1 a2) : OutReported s (execDsenseChange a1 a2 t) := by
  unfold execDsenseChange
  repeat'
    first
    | exact fun _ => ⟨rfl, rfl⟩
    | intro _
    | with_reducible (first | assumption | apply OutReported.next | apply modPwr_reported | apply onlyIf_reported | apply cabTrigger_reported | apply ite_reported)

theorem execWakeStuck_reported (h : Reported s t) (a1) : OutReported s (execWakeStuck a1 t) := by
  unfold execWakeStuck
  repeat'
    first
    | intro _
    | with_reducible (first | assumption | apply OutReported.next | apply modPin_reported | apply elapseTo_reported | apply ignTimer_reported | apply fault_reported | apply ite_reported)

theorem execWakeUnmask_reported (h : Reported s t) (a1) : OutReported s (execWakeUnmask a1 t) := by
  unfold execWakeUnmask
  repeat'
    first
    | intro _
    | with_reducible (first | assumption | apply OutReported.next | apply writeFault_reported | apply modPin_reported | apply elapseTo_reported | apply ite_reported)

theorem execWakeSlicePowerDown_reported (h : Reported s t) : OutReported s (execWakeSlicePowerDown t) := by
  unfold execWakeSlicePowerDown
  repeat'
    first
    | exact fun _ => ⟨rfl, rfl⟩
    | intro _
    | with_reducible (first | assumption | apply OutReported.next | apply modPwr_reported | apply lowerEnable_reported | apply elapseTo_reported | apply ite_reported)
    | split

theorem execServiceEnd_reported (h : Reported s t) : OutReported s (execServiceEnd t) := by
  unfold execServiceEnd
  repeat'
    first
    | intro _
    | with_reducible (first | assumption | apply OutReported.next | apply leaveService_reported | apply elapseTo_reported | apply ite_reported)
    | split

theorem execDebugDurationEnd_reported (h : Reported s t) : OutReported s (execDebugDurationEnd t) := by
  unfold execDebugDurationEnd
  repeat'
    first
    | intro _
    | with_reducible (first | assumption | apply OutReported.next | apply closeDebug_reported | apply elapseTo_reported | apply ite_reported)

theorem idle_reported (h : Reported s t) : Reported s (idle t) := by
  unfold idle
  repeat'
    first
    | intro _
    | with_reducible (first | assumption | apply dormantOff_reported | apply elapseNs_reported | apply onlyIf_reported | apply propWatch_reported)

theorem reportUp_reported (h : Reported s t) (a1 a2 a3 a4) : Reported s (reportUp a1 a2 a3 a4 t) :=
  h.quiet (reportUp_frame (.refl _ t) (within_refl _) a1 a2 a3 a4) rfl (reportUp_keeps (.refl t) a1 a2 a3 a4)

theorem lapse_reported (h : Reported s t) (a1 a2) : Reported s (lapse a1 a2 t) :=
  h.quiet (lapse_frame (.refl _ t) (within_refl _) a1 a2) rfl (lapse_keeps (.refl t) a1 a2)

theorem commitActivation_reported (h : Reported s t) (a1) : Reported s (commitActivation a1 t) := by
  unfold commitActivation
  repeat'
    first
    | exact fun _ => ⟨rfl, rfl⟩
    | intro _
    | with_reducible (first | assumption | apply useSlice_reported | apply lapse_reported | apply logRec_reported | apply updEvent_reported | apply activate_reported | apply reportUp_reported | apply modFlt_reported | apply modUpd_reported | apply ite_reported)
    | split

theorem execActivationCommit_reported (h : Reported s t) : OutReported s (execActivationCommit t) := by
  unfold execActivationCommit
  repeat'
    first
    | intro _
    | with_reducible (first | assumption | apply OutReported.next | apply elapseTo_reported | apply lapse_reported | apply commitActivation_reported | apply onlyIf_reported | apply wake_reported | apply ite_reported)
    | split

theorem recordsAnew_reported (h : Reported s t) : Reported s (recordsAnew t) := by
  unfold recordsAnew
  repeat'
    first
    | intro _
    | with_reducible (first | assumption | apply onlyIf_reported | apply setVcore_reported | apply reportRecords_reported | apply takeRecords_reported)

theorem giveUp_reported (h : Reported s t) (b : Bool) : Reported s (giveUp b t) :=
  updEvent_reported (recordsAnew_reported (modUpd_reported (journal_reported h _) _)) _

theorem abandonHandover_reported (h : Reported s t) : Reported s (abandonHandover t) := by
  unfold abandonHandover
  repeat'
    first
    | intro _
    | with_reducible (first | assumption | apply updEvent_reported | apply tryLog_reported | apply giveUp_reported)
    | split

theorem execHandoverShadowReady_reported (h : Reported s t) : OutReported s (execHandoverShadowReady t) := by
  unfold execHandoverShadowReady
  repeat'
    first
    | exact fun _ => ⟨rfl, rfl⟩
    | intro _
    | with_reducible (first | assumption | apply OutReported.next | apply modPwr_reported | apply modUpd_reported | apply modFlt_reported | apply recordsAnew_reported | apply ite_reported)
    | split

theorem execHandoverTimeout_reported (h : Reported s t) : OutReported s (execHandoverTimeout t) := by
  unfold execHandoverTimeout
  repeat'
    first
    | exact fun _ => ⟨rfl, rfl⟩
    | intro _
    | with_reducible (first | assumption | apply OutReported.next | apply abandonHandover_reported | apply elapseTo_reported | apply modFlt_reported)
    | split

theorem failoverTrial_reported (h : Reported s t) : Reported s (failoverTrial t) := by
  unfold failoverTrial
  repeat'
    first
    | intro _
    | with_reducible (first | assumption | apply abandonHandover_reported | apply giveUp_reported)
    | split

theorem hearthFails_reported (h : Reported s t) (a1 a2) : Reported s (hearthFails a1 a2 t) :=
  h.quiet (hearthFails_frame (.refl _ t) (within_refl _) a1 a2) rfl (hearthFails_keeps (.refl t) a1 a2)

theorem execHearthDownloadEnd_reported (h : Reported s t) (a1) : OutReported s (execHearthDownloadEnd a1 t) := by
  unfold execHearthDownloadEnd
  repeat'
    first
    | intro _
    | with_reducible (first | assumption | apply OutReported.next | apply hearthFails_reported | apply journal_reported | apply fullReset_reported | apply uartLine_reported | apply modUpd_reported | apply ite_reported)
    | split

theorem takeCharge_reported (h : Reported s t) (a1 a2) : Reported s (takeCharge a1 a2 t) :=
  h.quiet (takeCharge_frame (.refl _ t) (within_refl _) a1 a2) rfl (takeCharge_keeps (.refl t) a1 a2)

theorem chargeSlot_reported (h : Reported s t) (a1 a2 a3) : Reported s (chargeSlot a1 a2 a3 t) :=
  h.quiet (chargeSlot_frame (.refl _ t) (within_refl _) a1 a2 a3) rfl (chargeSlot_keeps (.refl t) a1 a2 a3)

theorem acceptSlot_reported (h : Reported s t) (a1 a2 a3) : Reported s (acceptSlot a1 a2 a3 t) := by
  unfold acceptSlot
  repeat'
    first
    | (show FlightsKept _ _; first | exact FlightsKept.refl _ | exact flightsKept_append _ _)
    | exact fun _ => ⟨rfl, rfl⟩
    | intro _
    | with_reducible (first | assumption | apply modRing_reported | apply logRec_reported | apply onlyIf_reported | apply modSlk_reported | apply takeCharge_reported | apply modHost_reported | apply ite_reported)
    | split

theorem consume_reported (h : Reported s t) (a1 a2 a3) : Reported s (consume a1 a2 a3 t) := by
  unfold consume
  repeat'
    first
    | intro _
    | with_reducible (first | assumption | apply chargeSlot_reported | apply acceptSlot_reported | apply settleDups_reported | apply settle_reported | apply ite_reported)
    | split
    | (extract_lets +onlyGivenNames x; first | (refine (fun hx : Reported s x => ?_) ?_ <;> [clear_value x; subst x]) | (refine (fun hx : Reported s x.2 => ?_) ?_ <;> [clear_value x; subst x]) | (refine (fun hx : Reported s x.1 => ?_) ?_ <;> [clear_value x; subst x]) | clear_value x)

theorem takeHeads_reported (h : Reported s t) (a1) : Reported s (takeHeads a1 t) :=
  h.quiet (takeHeads_frame (.refl _ t) (within_refl _) a1) rfl (takeHeads_keeps (.refl t) a1)

theorem execSlotConsume_reported (h : Reported s t) (a1) : OutReported s (execSlotConsume a1 t) := by
  unfold execSlotConsume
  repeat'
    first
    | intro _
    | with_reducible (first | assumption | apply OutReported.next | apply takeHeads_reported | apply consume_reported | apply ite_reported)
    | split
    | (extract_lets +onlyGivenNames x; first | (refine (fun hx : Reported s x => ?_) ?_ <;> [clear_value x; subst x]) | clear_value x)

theorem speedWatch_reported (h : Reported s t) : Reported s (speedWatch t) := by
  unfold speedWatch
  repeat'
    first
    | intro _
    | with_reducible (first | assumption | apply lockWatch_reported | apply modeWatch_reported)

theorem edgeCuts_reported (h : Reported s t) : Reported s (edgeCuts t) := by
  unfold edgeCuts
  repeat'
    first
    | intro _
    | with_reducible (first | assumption | apply recut_reported | apply onlyIf_reported | apply uhfCut_reported | apply lfCut_reported)

theorem crankOverdue_reported (h : Reported s t) : Reported s (crankOverdue t) :=
  h.quiet (crankOverdue_frame (.refl _ t) (within_refl _)) rfl (crankOverdue_keeps (.refl t))

theorem syncRev_reported (h : Reported s t) : Reported s (syncRev t) :=
  h.quiet (syncRev_frame (.refl _ t) (within_refl _)) rfl (syncRev_keeps (.refl t))

theorem camAdvance_reported (h : Reported s t) (a1) : Reported s (camAdvance a1 t) :=
  h.quiet (camAdvance_frame (.refl _ t) (within_refl _) a1) rfl (camAdvance_keeps (.refl t) a1)

theorem abandonToCrank_reported (h : Reported s t) (a1 a2) : Reported s (abandonToCrank a1 a2 t) :=
  h.quiet (abandonToCrank_frame (.refl _ t) (within_refl _) a1 a2) rfl (abandonToCrank_keeps (.refl t) a1 a2)

theorem crankEdge_reported (h : Reported s t) (a1) : Reported s (crankEdge a1 t) := by
  unfold crankEdge
  repeat'
    first
    | exact fun _ => ⟨rfl, rfl⟩
    | intro _
    | with_reducible (first | assumption | apply modClk_reported | apply onCrankLost_reported | apply enterDrive_reported | apply onCrankSync_reported | apply syncRev_reported | apply camAdvance_reported | apply onlyIf_reported | apply ite_reported)
    | split
    | (extract_lets +onlyGivenNames x; first | (refine (fun hx : Reported s x => ?_) ?_ <;> [clear_value x; subst x]) | (refine (fun hx : Reported s x.2 => ?_) ?_ <;> [clear_value x; subst x]) | (refine (fun hx : Reported s x.1 => ?_) ?_ <;> [clear_value x; subst x]) | clear_value x)

theorem coastEdge_reported (h : Reported s t) (a1) : Reported s (coastEdge a1 t) := by
  unfold coastEdge
  repeat'
    first
    | exact fun _ => ⟨rfl, rfl⟩
    | intro _
    | with_reducible (first | assumption | apply abandonToCrank_reported | apply crankEdge_reported | apply modClk_reported | apply ite_reported)
    | split

theorem execAng0Edge_reported (h : Reported s t) (a1) : OutReported s (execAng0Edge a1 t) := by
  unfold execAng0Edge
  repeat'
    first
    | exact fun _ => ⟨rfl, rfl⟩
    | intro _
    | with_reducible (first | assumption | apply OutReported.next | apply elapseToNs_reported | apply modClk_reported | apply onlyIf_reported | apply crankOverdue_reported | apply speedWatch_reported | apply edgeCuts_reported | apply coastEdge_reported | apply crankEdge_reported | apply ite_reported)

theorem execCrankEdgeTimeout_reported (h : Reported s t) : OutReported s (execCrankEdgeTimeout t) := by
  unfold execCrankEdgeTimeout
  repeat'
    first
    | intro _
    | with_reducible (first | assumption | apply OutReported.next | apply speedWatch_reported | apply crankOverdue_reported | apply elapseToNs_reported | apply ite_reported)
    | split

theorem execAng1Edge_reported (h : Reported s t) (a1) : OutReported s (execAng1Edge a1 t) := by
  unfold execAng1Edge
  repeat'
    first
    | exact fun _ => ⟨rfl, rfl⟩
    | intro _
    | with_reducible (first | assumption | apply OutReported.next | apply elapseToNs_reported | apply modClk_reported | apply modeWatch_reported | apply enterDrive_reported | apply ite_reported)

theorem propCoastEdge_reported (h : Reported s t) : Reported s (propCoastEdge t) :=
  h.quiet (propCoastEdge_frame (.refl _ t) (within_refl _)) rfl (propCoastEdge_keeps (.refl t))

theorem execAng2Edge_reported (h : Reported s t) (a1) : OutReported s (execAng2Edge a1 t) := by
  unfold execAng2Edge
  repeat'
    first
    | exact fun _ => ⟨rfl, rfl⟩
    | intro _
    | with_reducible (first | assumption | apply OutReported.next | apply elapseToNs_reported | apply propWatch_reported | apply modClk_reported | apply camAdvance_reported | apply edgeCuts_reported | apply onlyIf_reported | apply propCoastEdge_reported | apply ite_reported)

theorem execAng3Pulse_reported (h : Reported s t) (a1) : OutReported s (execAng3Pulse a1 t) := by
  unfold execAng3Pulse
  repeat'
    first
    | exact fun _ => ⟨rfl, rfl⟩
    | intro _
    | with_reducible (first | assumption | apply OutReported.next | apply elapseToNs_reported | apply speedWatch_reported | apply modClk_reported | apply ite_reported)

theorem execWheelPulseTimeout_reported (h : Reported s t) : OutReported s (execWheelPulseTimeout t) := by
  unfold execWheelPulseTimeout
  repeat'
    first
    | intro _
    | with_reducible (first | assumption | apply OutReported.next | apply speedWatch_reported | apply elapseToNs_reported | apply ite_reported)
    | split

theorem execRoadSpeedFrame_reported (h : Reported s t) (a1 a2 a3) : OutReported s (execRoadSpeedFrame a1 a2 a3 t) := by
  unfold execRoadSpeedFrame
  repeat'
    first
    | exact fun _ => ⟨rfl, rfl⟩
    | intro _
    | with_reducible (first | assumption | apply OutReported.next | apply speedWatch_reported | apply modClk_reported | apply ite_reported)
    | split

theorem execEngineSpeedFrame_reported (h : Reported s t) (a1 a2 a3) : OutReported s (execEngineSpeedFrame a1 a2 a3 t) := by
  unfold execEngineSpeedFrame
  repeat'
    first
    | exact fun _ => ⟨rfl, rfl⟩
    | intro _
    | with_reducible (first | assumption | apply OutReported.next | apply speedWatch_reported | apply modClk_reported | apply ite_reported)
    | split

theorem execSpeedSignalStale_reported (h : Reported s t) (a1) : OutReported s (execSpeedSignalStale a1 t) := by
  unfold execSpeedSignalStale
  repeat'
    first
    | intro _
    | with_reducible (first | assumption | apply OutReported.next | apply speedWatch_reported | apply elapseToNs_reported | apply ite_reported)
    | split

theorem putSession_reported (h : Reported s t) (a1) : Reported s (putSession a1 t) :=
  h.quiet (putSession_frame (.refl _ t) (within_refl _) a1) rfl (putSession_keeps (.refl t) a1)

theorem priFall_reported (h : Reported s t) : Reported s (priFall t) :=
  h.quiet (priFall_frame (.refl _ t) (within_refl _)) rfl (priFall_keeps (.refl t))

theorem startTries_reported (h : Reported s t) (r u lim tid chans n l c) : Reported s (checkedState (startTries r u lim tid chans n l c t)) :=
  h.quiet (startTries_frame (.refl _ t) (within_refl _) r u lim tid chans n l c) rfl (startTries_keeps (.refl t) r u lim tid chans n l c)

theorem startFit_reported (h : Reported s t) (r u a b c) : Reported s (checkedState (startFit r u a b c t)) := by
  unfold startFit
  extract_lets +onlyGivenNames snr pos
  have hsnr : Reported s snr := noteSnr_reported h _
  clear_value snr pos
  refine checked_ite_reported (inconsistent_reported hsnr _) (checked_ite_reported (inconsistent_reported hsnr _) ?_)
  extract_lets +onlyGivenNames track
  have htrack : Reported s track.2 := putTrack_reported hsnr _
  clear_value track
  extract_lets +onlyGivenNames passed
  have hpassed : Reported s passed := tokenPassed_reported htrack _ _
  clear_value passed
  exact checked_ite_reported (atStage_reported hpassed _ _ _) hpassed

theorem rangeToken_reported (h : Reported s t) (r lim tid a b) : Reported s (checkedState (rangeToken r lim tid a b t)) := by
  unfold rangeToken
  extract_lets chans
  split
  · exact h
  · split
    · exact h
    · split
      · exact h
      · split
        · exact h
        next u _ _ _ _ =>
          have htries := startTries_reported h r u lim tid chans 3 b.1 1
          split
          next e => rw [e] at htries; exact htries
          next e => rw [e] at htries; exact startFit_reported htries _ _ _ _ _

theorem rangeAll_reported (h : Reported s t) (r lim a b l c d) : Reported s (checkedState (rangeAll r lim a b l c d t)) := by
  induction l generalizing t c d with
  | nil => exact h
  | cons tid l ih =>
    unfold rangeAll
    extract_lets ev
    have htoken := rangeToken_reported (atStage_reported h r 0 0) r lim tid b ev
    split
    next e =>
      rw [e] at htoken
      exact checked_ite_reported htoken (ih htoken _ _)
    next e =>
      rw [e] at htoken
      exact checked_ite_reported (atStage_reported htoken _ _ _) (ih htoken _ _)

theorem cardEntry_reported (h : Reported s t) (a1 a2 a3) : Reported s (checkedState (cardEntry t a1 a2 a3)) :=
  h.quiet (cardEntry_frame (.refl _ t) (within_refl _) a1 a2 a3) rfl (cardEntry_keeps (.refl t) a1 a2 a3)

theorem startCards_reported (h : Reported s t) (b l) : Reported s (checkedState (startCards b l t)) :=
  h.quiet (startCards_frame (.refl _ t) (within_refl _) b l) rfl (startCards_keeps (.refl t) b l)

theorem startCommit_reported (h : Reported s t) (r : Nat) (f : Flight) (tid zone : Nat) (card : Option (StartCard × Bytes × Bytes))
    (grant : Option DirEntry) : Reported s (startCommit r f tid zone card grant t) := by
  unfold startCommit
  extract_lets stage decide_
  have hdecide : ∀ {u}, Reported s u → Reported s (decide_ u) := fun k =>
    commitPoint_reported k _ _ _ _ _ _ _ fun k hl => settle_reported (setLatch_reported k hl _ _ _ _) _ _
  clear_value decide_
  refine ite_reported (settle_reported h _ _) (ite_reported (settle_reported h _ _) ?_)
  split
  · exact hdecide h
  · exact commitPoint_reported h _ _ _ _ _ _ _ fun k _ => hdecide k

theorem startCardStep_reported (h : Reported s t) (a1 a2 a3 a4 a5 a6) : Reported s (startCardStep a1 a2 a3 a4 a5 a6 t) := by
  unfold startCardStep
  split
  · have hcards := startCards_reported h false (namedCards t a3 a6)
    split
    next e => rw [e] at hcards; exact settle_reported hcards _ _
    next c u e =>
      rw [e] at hcards
      have hentry := cardEntry_reported (s := s) (t := u) hcards a3.cardNs c.2.1 c.2.2
      split
      next e' => rw [e'] at hentry; exact settle_reported hentry _ _
      next e' => rw [e'] at hentry; exact startCommit_reported hentry _ _ _ _ _ _
  · exact startCommit_reported h _ _ _ _ _ _

theorem resumePoll_reported (h : Reported s t) : Reported s (resumePoll t) :=
  h.quiet (resumePoll_frame (.refl _ t) (within_refl _)) rfl (resumePoll_keeps (.refl t))

theorem startRun_reported {s t : State} (h : Reported s t) (a1 a2 a3) : Reported s (startRun a1 a2 a3 t) := by
  unfold startRun
  extract_lets +onlyGivenNames pol old pri x
  have hx : Reported s x := (modRadio_reported h _)
  clear_value x
  have k := (rangeAll_reported hx a1 (startLimit x a1 a3) pol.tokenNs pri (startCands x (fieldLE a3.raw 24 4)) a2.tokens (failFate fAbsent 0x20))
  revert k
  split
  · rename_i e
    rw [e]; exact fun k => (settle_reported (putSession_reported (priFall_reported k) _) _ _)
  · rename_i e
    rw [e]; exact fun k => (ite_reported (settle_reported (putSession_reported (priFall_reported k) _) _ _) (startCardStep_reported (putSession_reported (priFall_reported k) _) _ _ _ _ _ _))

theorem firstChallenge_reported (h : Reported s t) (a1 a2) : Reported s (firstChallenge a1 a2 t) :=
  h.quiet (firstChallenge_frame (.refl _ t) (within_refl _) a1 a2) rfl (firstChallenge_keeps (.refl t) a1 a2)

theorem awaitLead_reported (h : Reported s t) (a1 a2 a3 a4) : Reported s (awaitLead a1 a2 a3 a4 t) :=
  h.quiet (awaitLead_frame (.refl _ t) (within_refl _) a1 a2 a3 a4) rfl (awaitLead_keeps (.refl t) a1 a2 a3 a4)

theorem startBegin_reported (h : Reported s t) (a1 a2 a3) : Reported s (startBegin a1 a2 a3 t) := by
  unfold startBegin
  repeat'
    first
    | intro _
    | with_reducible (first | assumption | apply settle_reported | apply firstChallenge_reported | apply awaitLead_reported | apply resumePoll_reported | apply startRun_reported | apply modRadio_reported | apply putSession_reported | apply ite_reported)
    | split
    | (extract_lets +onlyGivenNames x; first | (refine (fun hx : Reported s x => ?_) ?_ <;> [clear_value x; subst x]) | clear_value x)

theorem execStart_reported (h : Reported s t) (a1 a2) : OutReported s (execStart a1 a2 t) := by
  unfold execStart
  repeat'
    first
    | intro _
    | with_reducible (first | assumption | apply OutReported.next | apply onlyIf_reported | apply modRadio_reported | apply startOp_reported | apply startBegin_reported | apply ite_reported)
    | split

theorem execCoexPriLead_reported (h : Reported s t) : OutReported s (execCoexPriLead t) := by
  unfold execCoexPriLead
  repeat'
    first
    | intro _
    | with_reducible (first | assumption | apply OutReported.next | apply modRadio_reported | apply elapseTo_reported | apply resumePoll_reported | apply priFall_reported | apply onOp_reported | apply startRun_reported)
    | split

theorem dropTest_reported (h : Reported s t) : Reported s (dropTest t) := by
  unfold dropTest
  repeat'
    first
    | exact fun _ => ⟨rfl, rfl⟩
    | intro _
    | with_reducible (first | assumption | apply modFlt_reported)

theorem endOp_reported (h : Reported s t) (a1 a2 a3) : Reported s (endOp a1 a2 a3 t) := by
  unfold endOp
  repeat'
    first
    | exact fun _ => ⟨rfl, rfl⟩
    | intro _
    | with_reducible (first | assumption | apply endLocate_reported | apply settle_reported | apply resumePoll_reported | apply priFall_reported | apply modRadio_reported | apply endLost_reported | apply endRelay_reported | apply cancelAppend_reported | apply modDir_reported | apply modCus_reported | apply modUpd_reported | apply dropTest_reported | apply ite_reported)
    | split

theorem execClassBoundExpiry_reported (h : Reported s t) (a1) : OutReported s (execClassBoundExpiry a1 t) := by
  unfold execClassBoundExpiry
  repeat'
    first
    | intro _
    | with_reducible (first | assumption | apply OutReported.next | apply elapseTo_reported | apply settle_reported | apply onlyIf_reported | apply keyEvent_reported | apply endOp_reported | apply ite_reported)
    | split

theorem pairRecord_reported (h : Reported s t) (a1 a2 a3 a4) : Reported s (pairRecord a1 a2 a3 a4 t) := by
  unfold pairRecord
  repeat'
    first
    | exact fun _ => ⟨rfl, rfl⟩
    | intro _
    | with_reducible (first | assumption | apply modFlt_reported | apply writeFault_reported)

theorem setPairOut_reported (h : Reported s t) (b out : Bool) : Reported s (setPairOut b out t) :=
  tryLog_reported (modPwr_reported h _ fun _ => by split <;> exact ⟨rfl, rfl⟩) _

theorem endPairTest_reported (h : Reported s t) (a1) : Reported s (endPairTest a1 t) := by
  unfold endPairTest
  repeat'
    first
    | exact fun _ => ⟨rfl, rfl⟩
    | intro _
    | with_reducible (first | assumption | apply settle_reported | apply modFlt_reported)
    | split

theorem loseShadow_reported (h : Reported s t) (a1 a2) : Reported s (loseShadow a1 a2 t) := by
  unfold loseShadow
  repeat'
    first
    | exact fun _ => ⟨rfl, rfl⟩
    | intro _
    | with_reducible (first | assumption | apply modFlt_reported | apply endPairTest_reported | apply pairRecord_reported | apply setPairOut_reported | apply modPwr_reported | apply ite_reported)

theorem takeover_reported (h : Reported s t) : Reported s (takeover t) := by
  unfold takeover
  repeat'
    first
    | exact fun _ => ⟨rfl, rfl⟩
    | intro _
    | with_reducible (first | assumption | apply modPwr_reported | apply modFlt_reported | apply failoverTrial_reported | apply loseShadow_reported | apply ite_reported)

theorem execStewardTakeover_reported (h : Reported s t) (a1) : OutReported s (execStewardTakeover a1 t) := by
  unfold execStewardTakeover
  repeat'
    first
    | intro _
    | with_reducible (first | assumption | apply OutReported.next | apply takeover_reported)

theorem pairFails_reported (h : Reported s t) (a1) : Reported s (pairFails a1 t) := by
  unfold pairFails
  repeat'
    first
    | exact fun _ => ⟨rfl, rfl⟩
    | intro _
    | with_reducible (first | assumption | apply setPairOut_reported | apply pairRecord_reported | apply modFlt_reported)

theorem joinShadow_reported (h : Reported s t) : Reported s (joinShadow t) := by
  unfold joinShadow
  repeat'
    first
    | exact fun _ => ⟨rfl, rfl⟩
    | intro _
    | with_reducible (first | assumption | apply modFlt_reported)

theorem execPairSelfTestEnd_reported (h : Reported s t) (a1) : OutReported s (execPairSelfTestEnd a1 t) := by
  unfold execPairSelfTestEnd
  repeat'
    first
    | exact fun _ => ⟨rfl, rfl⟩
    | intro _
    | with_reducible (first | assumption | apply OutReported.next | apply modPwr_reported | apply pairRecord_reported | apply joinShadow_reported | apply pairFails_reported | apply ite_reported)
    | split

theorem execShadowTestSlice_reported (h : Reported s t) (a1) : OutReported s (execShadowTestSlice a1 t) := by
  unfold execShadowTestSlice
  repeat'
    first
    | exact fun _ => ⟨rfl, rfl⟩
    | intro _
    | with_reducible (first | assumption | apply OutReported.next | apply endPairTest_reported | apply modFlt_reported | apply pairFails_reported | apply ite_reported)

theorem bankFails_reported (h : Reported s t) (a1 a2) : Reported s (bankFails a1 a2 t) := by
  unfold bankFails
  repeat'
    first
    | intro _
    | with_reducible (first | assumption | apply changeUnit_reported)

theorem repairRow_reported (h : Reported s t) (a1 a2) : Reported s (repairRow a1 a2 t) := by
  unfold repairRow
  repeat'
    first
    | exact fun _ => ⟨rfl, rfl⟩
    | intro _
    | with_reducible (first | assumption | apply tryLog_reported | apply modFlt_reported | apply bankFails_reported | apply ite_reported)

theorem repairCol_reported (h : Reported s t) (a1 a2 a3) : Reported s (repairCol a1 a2 a3 t) := by
  unfold repairCol
  repeat'
    first
    | exact fun _ => ⟨rfl, rfl⟩
    | intro _
    | with_reducible (first | assumption | apply tryLog_reported | apply modFlt_reported | apply bankFails_reported | apply ite_reported)

theorem wordLost_reported (h : Reported s t) (a1) : Reported s (wordLost a1 t) := by
  unfold wordLost
  repeat'
    first
    | intro _
    | with_reducible (first | assumption | apply takeover_reported | apply loseShadow_reported | apply restartPoll_reported | apply endOp_reported | apply ite_reported)
    | split

theorem execSramEccError_reported (h : Reported s t) (a1 a2 a3 a4 a5) : OutReported s (execSramEccError a1 a2 a3 a4 a5 t) := by
  unfold execSramEccError
  repeat'
    first
    | exact fun _ => ⟨rfl, rfl⟩
    | intro _
    | with_reducible (first | assumption | apply OutReported.next | apply modFlt_reported | apply fault_reported | apply onlyIf_reported | apply repairRow_reported | apply repairCol_reported | apply wordLost_reported | apply ite_reported)

theorem halfFails_reported (h : Reported s t) (b : Bool) : Reported s (halfFails b t) := by
  have hfailed : Reported s (changeUnit uLedger (ofBool b) .retired 0x02 sDegraded 0x04 0 0 (cusEvent 5 (modLed (fun l =>
      if b then { l with bFailed := true, bRefill := 0 } else { l with aFailed := true, aRefill := 0 }) t))) :=
    changeUnit_reported (cusEvent_reported (modLed_reported h _ fun _ => by split <;> rfl) _) _ _ _ _ _ _ _ _
  exact ite_reported (enterHearth_reported hfailed _) hfailed

theorem execLedgerSectorFail_reported (h : Reported s t) (b : Bool) : OutReported s (execLedgerSectorFail b t) := by
  unfold execLedgerSectorFail
  refine .next (ite_reported h (ite_reported (halfFails_reported h _) ?_))
  refine fault_reported (modFlt_reported (cusEvent_reported (modLed_reported h _ ?_) _) _ ?_) _ _ _ _ _ _ _
  · exact fun _ => by split <;> rfl
  · exact fun _ => ⟨rfl, rfl⟩

theorem execCoexGntStuck_reported (h : Reported s t) (a1) : OutReported s (execCoexGntStuck a1 t) := by
  unfold execCoexGntStuck
  repeat'
    first
    | exact fun _ => ⟨rfl, rfl⟩
    | intro _
    | with_reducible (first | assumption | apply OutReported.next | apply fault_reported | apply modFlt_reported | apply ite_reported)

theorem execPmicRecoveryRetry_reported (h : Reported s t) (a1) : OutReported s (execPmicRecoveryRetry a1 t) := by
  unfold execPmicRecoveryRetry
  repeat'
    first
    | exact fun _ => ⟨rfl, rfl⟩
    | intro _
    | with_reducible (first | assumption | apply OutReported.next | apply elapseTo_reported | apply modFlt_reported | apply writeFault_reported | apply fault_reported | apply modPwr_reported | apply ite_reported)

theorem execPmicIrqStuck_reported (h : Reported s t) (a1) : OutReported s (execPmicIrqStuck a1 t) := by
  unfold execPmicIrqStuck
  repeat'
    first
    | exact fun _ => ⟨rfl, rfl⟩
    | intro _
    | with_reducible (first | assumption | apply OutReported.next | apply modFlt_reported | apply fault_reported | apply writeFault_reported | apply ite_reported)

theorem changeLevel_reported (h : Reported s t) (a1) : Reported s (changeLevel a1 t) := by
  unfold changeLevel
  repeat'
    first
    | exact fun _ => ⟨rfl, rfl⟩
    | intro _
    | with_reducible (first | assumption | apply modSlc_reported | apply modPwr_reported | apply ite_reported)
    | split
    | (extract_lets +onlyGivenNames x; first | (refine (fun hx : Reported s x => ?_) ?_ <;> [clear_value x; subst x]) | clear_value x)

theorem laneTemps_reported (h : Reported s t) (a1) : Reported s (laneTemps a1 t) :=
  h.quiet (laneTemps_frame (.refl _ t) (within_refl _) a1) rfl (laneTemps_keeps (.refl t) a1)

theorem execThermalGovernor_reported (h : Reported s t) (a1) : OutReported s (execThermalGovernor a1 t) := by
  unfold execThermalGovernor
  repeat'
    first
    | intro _
    | with_reducible (first | assumption | apply OutReported.next | apply laneTemps_reported | apply setDieTemp_reported | apply changeLevel_reported | apply ite_reported)

theorem execSysReset_reported (h : Reported s t) (a1 a2) : OutReported s (execSysReset a1 a2 t) := by
  unfold execSysReset
  repeat'
    first
    | intro _
    | with_reducible (first | assumption | apply OutReported.next | apply warmReset_reported | apply ite_reported)

theorem execSysLockSetup_reported (h : Reported s t) (func v) : OutReported s (execSysLockSetup func v t) :=
  h.quietOut (execSysLockSetup_frame (.refl _ t) (within_refl _) func v) rfl (execSysLockSetup_keeps (.refl t) func v)

theorem sysWrite_reported (h : Reported s t) (a1 a2 a3) : Reported s (sysWrite a1 a2 a3 t) := by
  unfold sysWrite
  repeat'
    first
    | intro _
    | with_reducible (first | assumption | apply after_reported | apply execSysReset_reported | apply execSysLockSetup_reported | apply modSys_reported | apply ite_reported)

theorem hostWrite_reported (h : Reported s t) (a1 a2 a3) : Reported s (hostWrite a1 a2 a3 t) :=
  h.quiet (hostWrite_frame (.refl _ t) (within_refl _) a1 a2 a3) rfl (hostWrite_keeps (.refl t) a1 a2 a3)

theorem slcWrite_reported (h : Reported s t) (a1 a2 a3) : Reported s (slcWrite a1 a2 a3 t) :=
  h.quiet (slcWrite_frame (.refl _ t) (within_refl _) a1 a2 a3) rfl (slcWrite_keeps (.refl t) a1 a2 a3)

theorem angWrite_reported (h : Reported s t) (a1 a2 a3) : Reported s (angWrite a1 a2 a3 t) :=
  h.quiet (angWrite_frame (.refl _ t) (within_refl _) a1 a2 a3) rfl (angWrite_keeps (.refl t) a1 a2 a3)

theorem lfWrite_reported (h : Reported s t) (a1 a2) : Reported s (lfWrite a1 a2 t) :=
  h.quiet (lfWrite_frame (.refl _ t) (within_refl _) a1 a2) rfl (lfWrite_keeps (.refl t) a1 a2)

theorem uhfWrite_reported (h : Reported s t) (a1 a2) : Reported s (uhfWrite a1 a2 t) :=
  h.quiet (uhfWrite_frame (.refl _ t) (within_refl _) a1 a2) rfl (uhfWrite_keeps (.refl t) a1 a2)

theorem nfcWrite_reported (h : Reported s t) (a1 a2) : Reported s (nfcWrite a1 a2 t) :=
  h.quiet (nfcWrite_frame (.refl _ t) (within_refl _) a1 a2) rfl (nfcWrite_keeps (.refl t) a1 a2)

theorem iflWrite_reported (h : Reported s t) (a1 a2) : Reported s (iflWrite a1 a2 t) :=
  h.quiet (iflWrite_frame (.refl _ t) (within_refl _) a1 a2) rfl (iflWrite_keeps (.refl t) a1 a2)

theorem cusWrite_reported (h : Reported s t) (a1 a2) : Reported s (cusWrite a1 a2 t) :=
  h.quiet (cusWrite_frame (.refl _ t) (within_refl _) a1 a2) rfl (cusWrite_keeps (.refl t) a1 a2)

theorem dirWrite_reported (h : Reported s t) (a1 a2) : Reported s (dirWrite a1 a2 t) :=
  h.quiet (dirWrite_frame (.refl _ t) (within_refl _) a1 a2) rfl (dirWrite_keeps (.refl t) a1 a2)

theorem secWrite_reported (h : Reported s t) (a1 a2) : Reported s (secWrite a1 a2 t) :=
  h.quiet (secWrite_frame (.refl _ t) (within_refl _) a1 a2) rfl (secWrite_keeps (.refl t) a1 a2)

theorem slkWrite_reported (h : Reported s t) (a1 a2) : Reported s (slkWrite a1 a2 t) := by
  unfold slkWrite
  repeat'
    first
    | exact fun _ => ⟨rfl, rfl⟩
    | intro _
    | with_reducible (first | assumption | apply modSlk_reported | apply ite_reported)

theorem updWrite_reported (h : Reported s t) (a1 a2 a3) : Reported s (updWrite a1 a2 a3 t) :=
  h.quiet (updWrite_frame (.refl _ t) (within_refl _) a1 a2 a3) rfl (updWrite_keeps (.refl t) a1 a2 a3)

theorem fltWrite_reported (h : Reported s t) (a1 a2) : Reported s (fltWrite a1 a2 t) := by
  unfold fltWrite
  repeat'
    first
    | exact fun _ => ⟨rfl, rfl⟩
    | intro _
    | with_reducible (first | assumption | apply modFlt_reported | apply ite_reported)

theorem pwrWrite_reported (h : Reported s t) (a1 a2 a3) : Reported s (pwrWrite a1 a2 a3 t) := by
  unfold pwrWrite
  repeat'
    first
    | exact fun _ => ⟨rfl, rfl⟩
    | intro _
    | with_reducible (first | assumption | apply onlyIf_reported | apply after_reported | apply execPwrParkReq_reported | apply execPwrParkCancel_reported | apply modPwr_reported | apply execPwrAlarmS_reported | apply ite_reported)

theorem wordWrite_reported (h : Reported s t) (a1 a2 a3) : Reported s (wordWrite a1 a2 a3 t) := by
  unfold wordWrite
  repeat'
    first
    | intro _
    | with_reducible (first | assumption | apply sysWrite_reported | apply hostWrite_reported | apply slcWrite_reported | apply angWrite_reported | apply lfWrite_reported | apply uhfWrite_reported | apply nfcWrite_reported | apply iflWrite_reported | apply cusWrite_reported | apply dirWrite_reported | apply secWrite_reported | apply slkWrite_reported | apply updWrite_reported | apply fltWrite_reported | apply pwrWrite_reported | apply ite_reported)

theorem execRegisterWrite_reported (h : Reported s t) (a1 a2 a3 a4) : OutReported s (execRegisterWrite a1 a2 a3 a4 t) := by
  unfold execRegisterWrite
  repeat'
    first
    | intro _
    | with_reducible (first | assumption | apply OutReported.next | apply wordWrite_reported | apply ite_reported)

theorem failsTest_reported (h : Reported s t) (a1 a2) : Reported s (failsTest a1 a2 t) := by
  unfold failsTest
  repeat'
    first
    | intro _
    | with_reducible (first | assumption | apply retireLane_reported | apply changeUnit_reported | apply modLane_reported | apply fault_reported | apply outOfService_reported | apply lfEvent_reported | apply chainOut_reported | apply uhfEvent_reported | apply modUhfCh_reported | apply nfcEvent_reported | apply ite_reported)
    | split

theorem noteTest_reported (h : Reported s t) (a1 a2 a3) : Reported s (noteTest a1 a2 a3 t) := by
  unfold noteTest
  repeat'
    first
    | exact fun _ => ⟨rfl, rfl⟩
    | intro _
    | with_reducible (first | assumption | apply modFlt_reported)

theorem execUnitTest_reported (h : Reported s t) (a1 a2) : OutReported s (execUnitTest a1 a2 t) := by
  unfold execUnitTest
  repeat'
    first
    | exact fun _ => ⟨rfl, rfl⟩
    | intro _
    | with_reducible (first | assumption | apply OutReported.next | apply startOp_reported | apply settle_reported | apply modFlt_reported | apply noteTest_reported | apply failsTest_reported | apply ite_reported)

theorem bypassRecord_reported (h : Reported s t) (a1 a2) : Reported s (bypassRecord a1 a2 t) := by
  unfold bypassRecord
  repeat'
    first
    | intro _
    | with_reducible (first | assumption | apply changeUnit_reported | apply drawn_reported)

theorem leaveUnit_reported (h : Reported s t) (a1 a2) : Reported s (leaveUnit a1 a2 t) := by
  unfold leaveUnit
  repeat'
    first
    | intro _
    | with_reducible (first | assumption | apply modLane_reported | apply rngEvent_reported | apply judgeRng_reported | apply modSource_reported | apply gather_reported | apply onlyIf_reported | apply telegramLost_reported | apply chainOut_reported | apply uhfEvent_reported | apply nfcEvent_reported | apply readerLost_reported | apply portDown_reported | apply flagsCheck_reported | apply ite_reported)
    | split

theorem execBypass_reported (h : Reported s t) (a1) : OutReported s (execBypass a1 t) := by
  unfold execBypass
  repeat'
    first
    | intro _
    | with_reducible (first | assumption | apply OutReported.next | apply startOp_reported | apply settle_reported | apply leaveUnit_reported | apply bypassRecord_reported | apply ite_reported)

theorem rejoin_reported (h : Reported s t) (a1 a2) : Reported s (rejoin a1 a2 t) := by
  unfold rejoin
  repeat'
    first
    | intro _
    | with_reducible (first | assumption | apply joinShadow_reported | apply pairRecord_reported | apply setPairOut_reported | apply backInService_reported | apply modLane_reported | apply fault_reported | apply modSource_reported | apply modLfCh_reported | apply modUhfCh_reported | apply modReader_reported | apply flagsCheck_reported | apply ite_reported)

theorem staysOut_reported (h : Reported s t) (a1 a2) : Reported s (staysOut a1 a2 t) := by
  unfold staysOut
  repeat'
    first
    | intro _
    | with_reducible (first | assumption | apply failsTest_reported | apply writeFault_reported | apply ite_reported)

theorem execRestore_reported (h : Reported s t) (a1 a2) : OutReported s (execRestore a1 a2 t) := by
  unfold execRestore
  repeat'
    first
    | intro _
    | with_reducible (first | assumption | apply OutReported.next | apply startOp_reported | apply settle_reported | apply noteTest_reported | apply rejoin_reported | apply staysOut_reported | apply ite_reported)

theorem mendGroup_reported (h : Reported s t) (a1 a2 a3) : Reported s (mendGroup a1 a2 a3 t) :=
  h.quiet (mendGroup_frame (.refl _ t) (within_refl _) a1 a2 a3) rfl (mendGroup_keeps (.refl t) a1 a2 a3)

theorem countReadErrs_reported (h : Reported s t) (a1 a2) : Reported s (countReadErrs a1 a2 t) := by
  unfold countReadErrs
  repeat'
    first
    | exact fun _ => ⟨rfl, rfl⟩
    | intro _
    | with_reducible (first | assumption | apply modCus_reported | apply driveWorn_reported | apply ite_reported)
    | split

theorem innerCharge_reported (h : Reported s t) (a1 a2) : Reported s (innerCharge a1 a2 t) :=
  h.quiet (innerCharge_frame (.refl _ t) (within_refl _) a1 a2) rfl (innerCharge_keeps (.refl t) a1 a2)

theorem execScrub_reported (h : Reported s t) (a1 a2) : OutReported s (execScrub a1 a2 t) := by
  unfold execScrub
  repeat'
    first
    | intro _
    | with_reducible (first | assumption | apply OutReported.next | apply startOp_reported | apply settle_reported | apply innerCharge_reported | apply declareLost_reported | apply noteTest_reported | apply each_reported | apply mendGroup_reported | apply countReadErrs_reported | apply ite_reported)
    | split

theorem execService_reported (h : Reported s t) (a1) : OutReported s (execService a1 t) := by
  unfold execService
  repeat'
    first
    | intro _
    | with_reducible (first | assumption | apply OutReported.next | apply startOp_reported | apply settle_reported | apply enterService_reported | apply ite_reported)

theorem noteTamper_reported (h : Reported s t) (a1 a2) : Reported s (noteTamper a1 a2 t) := by
  unfold noteTamper
  repeat'
    first
    | exact fun _ => ⟨rfl, rfl⟩
    | intro _
    | with_reducible (first | assumption | apply modFlt_reported | apply modSec_reported)

theorem reportTamper_reported (h : Reported s t) (a1 a2) : Reported s (reportTamper a1 a2 t) := by
  unfold reportTamper
  repeat'
    first
    | intro _
    | with_reducible (first | assumption | apply lockRequest_reported | apply fault_reported | apply ite_reported)

theorem eraseWork_reported (h : Reported s t) : Reported s (eraseWork t) :=
  h.quiet (eraseWork_frame (.refl _ t) (within_refl _)) rfl (eraseWork_keeps (.refl t))

theorem deferPoll_reported (h : Reported s t) (a1) : Reported s (deferPoll a1 t) := by
  unfold deferPoll
  repeat'
    first
    | intro _
    | with_reducible (first | assumption | apply restartPoll_reported | apply coexDrop_reported | apply beginTelegram_reported | apply modRadio_reported | apply ite_reported)
    | split

theorem alarm_reported (h : Reported s t) : Reported s (alarm t) := by
  unfold alarm
  repeat'
    first
    | exact fun _ => ⟨rfl, rfl⟩
    | intro _
    | with_reducible (first | assumption | apply deferPoll_reported | apply eraseWork_reported | apply keyEvent_reported | apply modSec_reported)

/-- A ZEROISE loses the AON state (R586). -/
theorem loseVault_reported (h : Reported s t) (event : Nat) : Reported s (loseVault event t) := by
  unfold loseVault
  extract_lets log lost sec
  have hlost : Reported s lost := loseAon_reported h
  clear_value lost
  exact modFlt_reported (modSec_reported hlost _) _ fun _ => ⟨rfl, rfl⟩

theorem zeroise_reported (h : Reported s t) (event : Nat) : Reported s (zeroise event t) := by
  unfold zeroise
  split
  · extract_lets lost woken
    have hwoken : Reported s woken :=
      onlyIf_reported (loseVault_reported (endKeyWork_reported h) _) _ _ fun k => modPwr_reported k _ fun _ => ⟨rfl, rfl⟩
    clear_value woken
    exact fullReset_reported (onlyIf_reported hwoken _ _ fun k => drivePins_reported k) _
  · exact modFlt_reported (loseVault_reported h _) _ fun _ => ⟨rfl, rfl⟩

theorem zeroiseEvent_reported (h : Reported s t) (a1) : Reported s (zeroiseEvent a1 t) := by
  unfold zeroiseEvent
  repeat'
    first
    | intro _
    | with_reducible (first | assumption | apply wake_reported | apply zeroise_reported | apply reportTamper_reported | apply noteTamper_reported)

theorem alarmEvent_reported (h : Reported s t) (a1) : Reported s (alarmEvent a1 t) := by
  unfold alarmEvent
  repeat'
    first
    | intro _
    | with_reducible (first | assumption | apply wake_reported | apply onlyIf_reported | apply alarm_reported | apply reportTamper_reported | apply noteTamper_reported)

theorem countAlarm_reported (h : Reported s t) : Reported s (countAlarm t).2 := by
  unfold countAlarm
  repeat'
    first
    | exact fun _ => ⟨rfl, rfl⟩
    | intro _
    | with_reducible (first | assumption | apply modFlt_reported)

theorem glitch_reported (h : Reported s t) (a1) : Reported s (glitch a1 t) := by
  unfold glitch
  repeat'
    first
    | intro _
    | with_reducible (first | assumption | apply countAlarm_reported | apply zeroiseEvent_reported | apply alarmEvent_reported | apply ite_reported)

theorem execTamperMesh_reported (h : Reported s t) (a1) : OutReported s (execTamperMesh a1 t) := by
  unfold execTamperMesh
  repeat'
    first
    | intro _
    | with_reducible (first | assumption | apply OutReported.next | apply zeroiseEvent_reported | apply ite_reported)

theorem execLight_reported (h : Reported s t) : OutReported s (execLight t) := by
  unfold execLight
  repeat'
    first
    | intro _
    | with_reducible (first | assumption | apply OutReported.next | apply zeroiseEvent_reported)

theorem execVoltageGlitch_reported (h : Reported s t) : OutReported s (execVoltageGlitch t) := by
  unfold execVoltageGlitch
  repeat'
    first
    | intro _
    | with_reducible (first | assumption | apply OutReported.next | apply glitch_reported)

theorem execClockGlitch_reported (h : Reported s t) : OutReported s (execClockGlitch t) := by
  unfold execClockGlitch
  repeat'
    first
    | intro _
    | with_reducible (first | assumption | apply OutReported.next | apply glitch_reported)

theorem execTemperatureTamper_reported (h : Reported s t) : OutReported s (execTemperatureTamper t) := by
  unfold execTemperatureTamper
  repeat'
    first
    | intro _
    | with_reducible (first | assumption | apply OutReported.next | apply alarmEvent_reported | apply countAlarm_reported)

end Sys2Proof.Machine

/-! What every step reports, and the statements that rest on it: the latch's code (R332), the latch's moves (R305), entries to Hearth
mode (R573). The replay of the ledger, the one command that ends the loss of AON state, is taken apart at that point. -/

namespace Sys2Proof.Machine

variable {s t u : State}

/-! ### Every command but the replay -/

/-- A command whose parts leave out the latch, the power block and the fault block has nothing to report; the others have their laws. -/
theorem exec_reported {c : Instr} (hc : ∀ a b, c ≠ .ledgerReplay a b) : OutReported s (exec c s) := by
  by_cases hq : ((touches c).contains .slk || (touches c).contains .pwr || (touches c).contains .flt) = false
  · exact (Reported.refl s).quietOut (exec_frame c) hq (exec_keeps c)
  cases c
  all_goals try exact absurd rfl hq
  case vaonGood => exact (execVaonGood_reported (.refl s) :)
  case vaonBrownOut => exact (execVaonBrownOut_reported (.refl s) :)
  case aonSupplyChangeover => exact (execAonSupplyChangeover_reported (.refl s) :)
  case aonLoss => exact (execAonLoss_reported (.refl s) :)
  case vkeepLow mv => exact (execVkeepLow_reported (.refl s) mv :)
  case vcoreBrownOut vsram => exact (execVcoreBrownOut_reported (.refl s) vsram :)
  case dramRailFault vddq => exact (execDramRailFault_reported (.refl s) vddq :)
  case portRailFault rail => exact (execPortRailFault_reported (.refl s) rail :)
  case linkRailFault serdes => exact (execLinkRailFault_reported (.refl s) serdes :)
  case railGoodReturn rail => exact (execRailGoodReturn_reported (.refl s) rail :)
  case enableGroupGood g => exact (execEnableGroupGood_reported (.refl s) g :)
  case enableGroupTimeout g => exact (execEnableGroupTimeout_reported (.refl s) g :)
  case fuseLoadEnd => exact (execFuseLoadEnd_reported (.refl s) :)
  case configurationLoad bad => exact (execConfigurationLoad_reported (.refl s) bad :)
  case ledgerReplay aGood bGood => exact absurd rfl (hc _ _)
  case warmReset flr => exact (execWarmReset_reported (.refl s) flr :)
  case watchdogExpiry => exact (execWatchdogExpiry_reported (.refl s) :)
  case checkpoint => exact (execCheckpoint_reported (.refl s) :)
  case stewardTakeover cause => exact (execStewardTakeover_reported (.refl s) cause :)
  case pairSelfTestEnd pass => exact (execPairSelfTestEnd_reported (.refl s) pass :)
  case shadowTestSlice pass => exact (execShadowTestSlice_reported (.refl s) pass :)
  case pwrParkReq func => exact (execPwrParkReq_reported (.refl s) func :)
  case pwrParkCancel func => exact (execPwrParkCancel_reported (.refl s) func :)
  case parkedEntryIdle => exact (execParkedEntryIdle_reported (.refl s) :)
  case parkedEntryDrained => exact (execParkedEntryDrained_reported (.refl s) :)
  case driveShutdownComplete done => exact (execDriveShutdownComplete_reported (.refl s) done :)
  case wakePinCrossing pin above => exact (execWakePinCrossing_reported (.refl s) pin above :)
  case wakeEvent pin => exact (execWakeEvent_reported (.refl s) pin :)
  case nearListRestored => exact (execNearListRestored_reported (.refl s) :)
  case wakeWindowEnd => exact (execWakeWindowEnd_reported (.refl s) :)
  case dsenseChange d high => exact (execDsenseChange_reported (.refl s) d high :)
  case dormancyHour => exact (execDormancyHour_reported (.refl s) :)
  case lowBattery => exact (execLowBattery_reported (.refl s) :)
  case rtcAlarm => exact (execRtcAlarm_reported (.refl s) :)
  case pwrAlarmS func v => exact (execPwrAlarmS_reported (.refl s) func v :)
  case wakeSlicePowerDown => exact (execWakeSlicePowerDown_reported (.refl s) :)
  case driveExit => exact (execDriveExit_reported (.refl s) :)
  case serviceEnd => exact (execServiceEnd_reported (.refl s) :)
  case debugDurationEnd => exact (execDebugDurationEnd_reported (.refl s) :)
  case slotConsume heads => exact (execSlotConsume_reported (.refl s) heads :)
  case classBoundExpiry r => exact (execClassBoundExpiry_reported (.refl s) r :)
  case doorbellHrPi func ten j v => exact (execDoorbellHrPi_reported (.refl s) func ten j v :)
  case doorbellTrCi func ten j v => exact (execDoorbellTrCi_reported (.refl s) func ten j v :)
  case writApply r rd => exact (execWritApply_reported (.refl s) r rd :)
  case ang0Edge tNs => exact (execAng0Edge_reported (.refl s) tNs :)
  case ang1Edge tNs => exact (execAng1Edge_reported (.refl s) tNs :)
  case ang2Edge tNs => exact (execAng2Edge_reported (.refl s) tNs :)
  case ang3Pulse tNs => exact (execAng3Pulse_reported (.refl s) tNs :)
  case crankEdgeTimeout => exact (execCrankEdgeTimeout_reported (.refl s) :)
  case wheelPulseTimeout => exact (execWheelPulseTimeout_reported (.refl s) :)
  case roadSpeedFrame port ident data => exact (execRoadSpeedFrame_reported (.refl s) port ident data :)
  case engineSpeedFrame port ident data => exact (execEngineSpeedFrame_reported (.refl s) port ident data :)
  case speedSignalStale engine => exact (execSpeedSignalStale_reported (.refl s) engine :)
  case clockSwitchWindowEnd recovered => exact (execClockSwitchWindowEnd_reported (.refl s) recovered :)
  case xtal25Return => exact (execXtal25Return_reported (.refl s) :)
  case xtal32kLoss => exact (execXtal32kLoss_reported (.refl s) :)
  case xtal32kReturn => exact (execXtal32kReturn_reported (.refl s) :)
  case approachPoll => exact (execApproachPoll_reported (.refl s) :)
  case lfSegment => exact (execLfSegment_reported (.refl s) :)
  case lfChannelFault ch cond early spareFails => exact (execLfChannelFault_reported (.refl s) ch cond early spareFails :)
  case replyWindowEnd => exact (execReplyWindowEnd_reported (.refl s) :)
  case chalReply replies => exact (execChalReply_reported (.refl s) replies :)
  case button frame => exact (execButton_reported (.refl s) frame :)
  case soundReport frame => exact (execSoundReport_reported (.refl s) frame :)
  case capacitiveTouch e scans => exact (execCapacitiveTouch_reported (.refl s) e scans :)
  case touchEnd scans => exact (execTouchEnd_reported (.refl s) scans :)
  case electrodeStuck e => exact (execElectrodeStuck_reported (.refl s) e :)
  case electrodeUnmask e => exact (execElectrodeUnmask_reported (.refl s) e :)
  case capGuardFault g => exact (execCapGuardFault_reported (.refl s) g :)
  case uhfPowerCorrection temp errs => exact (execUhfPowerCorrection_reported (.refl s) temp errs :)
  case synthFault b => exact (execSynthFault_reported (.refl s) b :)
  case soundBurst => exact (execSoundBurst_reported (.refl s) :)
  case reportTrigger => exact (execReportTrigger_reported (.refl s) :)
  case positionFit fit wr => exact (execPositionFit_reported (.refl s) fit wr :)
  case coexTimeout => exact (execCoexTimeout_reported (.refl s) :)
  case coexGrantFall m => exact (execCoexGrantFall_reported (.refl s) m :)
  case coexPriLead => exact (execCoexPriLead_reported (.refl s) :)
  case start r evidence => exact (execStart_reported (.refl s) r evidence :)
  case lockReq r => exact (execLockReq_reported (.refl s) r :)
  case armHoldExpiry => exact (execArmHoldExpiry_reported (.refl s) :)
  case ignitionOffDebounce => exact (execIgnitionOffDebounce_reported (.refl s) :)
  case releaseWindowExpiry => exact (execReleaseWindowExpiry_reported (.refl s) :)
  case lockHoldExpiry => exact (execLockHoldExpiry_reported (.refl s) :)
  case slkLedgerRetry => exact (execSlkLedgerRetry_reported (.refl s) :)
  case stateFramePeriod => exact (execStateFramePeriod_reported (.refl s) :)
  case reconciliation => exact (execReconciliation_reported (.refl s) :)
  case canBusOff p => exact (execCanBusOff_reported (.refl s) p :)
  case canBusoffRecovery p => exact (execCanBusoffRecovery_reported (.refl s) p :)
  case canPortReturn p => exact (execCanPortReturn_reported (.refl s) p :)
  case slkMismatch out1 agrees => exact (execSlkMismatch_reported (.refl s) out1 agrees :)
  case nfcDetection k amp phase opened shorted => exact (execNfcDetection_reported (.refl s) k amp phase opened shorted :)
  case readerRetry k coil => exact (execReaderRetry_reported (.refl s) k coil :)
  case iflDetSample p uv => exact (execIflDetSample_reported (.refl s) p uv :)
  case iflFrameReceived p frame => exact (execIflFrameReceived_reported (.refl s) p frame :)
  case nvmeWriteComplete d ok => exact (execNvmeWriteComplete_reported (.refl s) d ok :)
  case nvmeCommandTimeout d => exact (execNvmeCommandTimeout_reported (.refl s) d :)
  case driveLossDeclaration d => exact (execDriveLossDeclaration_reported (.refl s) d :)
  case nvmeFatalStatus d => exact (execNvmeFatalStatus_reported (.refl s) d :)
  case driveReady d label => exact (execDriveReady_reported (.refl s) d label :)
  case driveReadyTimeout d => exact (execDriveReadyTimeout_reported (.refl s) d :)
  case driveWear d cause => exact (execDriveWear_reported (.refl s) d cause :)
  case ledgerSectorFail b => exact (execLedgerSectorFail_reported (.refl s) b :)
  case ledgerDrain ready => exact (execLedgerDrain_reported (.refl s) ready :)
  case laneFault lane op => exact (execLaneFault_reported (.refl s) lane op :)
  case laneRetest lane pass => exact (execLaneRetest_reported (.refl s) lane pass :)
  case laneOverheat lane => exact (execLaneOverheat_reported (.refl s) lane :)
  case laneCooled lane temp => exact (execLaneCooled_reported (.refl s) lane temp :)
  case tamperMesh m => exact (execTamperMesh_reported (.refl s) m :)
  case light => exact (execLight_reported (.refl s) :)
  case voltageGlitch => exact (execVoltageGlitch_reported (.refl s) :)
  case clockGlitch => exact (execClockGlitch_reported (.refl s) :)
  case temperatureTamper => exact (execTemperatureTamper_reported (.refl s) :)
  case rngSourceFailure src cause => exact (execRngSourceFailure_reported (.refl s) src cause :)
  case rngHealthCheck live locked => exact (execRngHealthCheck_reported (.refl s) live locked :)
  case sourceReturn src => exact (execSourceReturn_reported (.refl s) src :)
  case rngSelfTestEnd pass kat => exact (execRngSelfTestEnd_reported (.refl s) pass kat :)
  case hashEngineFault e => exact (execHashEngineFault_reported (.refl s) e :)
  case activationCommit => exact (execActivationCommit_reported (.refl s) :)
  case handoverShadowReady => exact (execHandoverShadowReady_reported (.refl s) :)
  case handoverTimeout => exact (execHandoverTimeout_reported (.refl s) :)
  case hearthDownloadEnd flash => exact (execHearthDownloadEnd_reported (.refl s) flash :)
  case sramEccError bank row col uncorr owner => exact (execSramEccError_reported (.refl s) bank row col uncorr owner :)
  case wakeStuck pin => exact (execWakeStuck_reported (.refl s) pin :)
  case wakeUnmask pin => exact (execWakeUnmask_reported (.refl s) pin :)
  case coexGntStuck m => exact (execCoexGntStuck_reported (.refl s) m :)
  case pmicRecoveryRetry freed => exact (execPmicRecoveryRetry_reported (.refl s) freed :)
  case pmicIrqStuck low => exact (execPmicIrqStuck_reported (.refl s) low :)
  case unitTest r pass => exact (execUnitTest_reported (.refl s) r pass :)
  case bypass r => exact (execBypass_reported (.refl s) r :)
  case restore r pass => exact (execRestore_reported (.refl s) r pass :)
  case scrub r found => exact (execScrub_reported (.refl s) r found :)
  case service r => exact (execService_reported (.refl s) r :)
  case sysReset func v => exact (execSysReset_reported (.refl s) func v :)
  case registerWrite func off size v => exact (execRegisterWrite_reported (.refl s) func off size v :)
  case thermalGovernor temp => exact (execThermalGovernor_reported (.refl s) temp :)
  case publicKeyEngineFault => exact (execPublicKeyEngineFault_reported (.refl s) :)

/-! ### Release from the loss of AON state -/

/-- Outside Hearth mode the record of an entry to it may be written, and is owed no more. -/
theorem hearthRecord_reported (h : Reported s t) (hm : t.pwr.mode ≠ .hearth) : Reported s (hearthRecord t) := by
  have hf : Frame [.vecs, .led, .flt, .outs, .free] t (hearthRecord t) := hearthRecord_frame (.refl _ t) (within_refl _)
  refine h.trans ⟨(hearthRecord_keeps (.refl t)).lsn, .inl ?_, ?_, fun hm' => absurd ?_ hm⟩
  · rw [hf.slk rfl]; exact ⟨rfl, rfl⟩
  · rw [hf.pwr rfl]; exact id
  · rwa [hf.pwr rfl] at hm'

/-- The power block at a release (R98, R101). -/
def releasedPwr (now : Nat) (p : Pwr) : Pwr :=
  { p with mode := .cab, start := .settled, checkpointAt := now + 1000, lastDoorbell := now, aonLost := false }

/-- The state in which the release writes the records it owes: the blocks are set up, and the link trains. -/
def releasing (s : State) : State :=
  let now := monoUs s
  let s' := modSys (fun b => { b with ready := true }) s
  let s' := modPwr (releasedPwr now) s'
  let s' := modSlk (fun b => { b with reconcileAt := some (now + 250000), hearthExit := s.flt.hearthOwed }) s'
  let s' := modRadio (fun b => { b with presenceAt := now, approachAt := now, nearUsable := true }) s'
  let s' := modFlt (fun b => { b with shadowOk := !(s'.pwr.aOut || s'.pwr.bOut) }) s'
  let s' := modCus (fun c => { c with drives := c.drives.map (fun x => { x with downAt := x.was.map (fun _ => now) }) }) s'
  trainLink s'

/-- What the release does once its records are written. -/
def afterRecords (s : State) : State :=
  let s := heldDoorbells (trialRelease (linksReleased s))
  lowBatteryAnew (sendState (onlyIf (s.dir.st != 2) startRebuild s))

theorem release_eq (s : State) : release s = afterRecords (tamperRecord (hearthRecord (releasing s))) := rfl

theorem releasing_mode (s : State) : (releasing s).pwr.mode = .cab := by
  have hf := fun t => trainLink_frame (.refl _ t) (within_refl _)
  unfold releasing
  extract_lets now a b c d e f
  rw [(hf f).pwr rfl]
  rfl

theorem releasing_reported (s : State) : Reported (modPwr (releasedPwr (monoUs s)) (modSys (fun b => { b with ready := true }) s))
    (releasing s) := by
  unfold releasing
  refine trainLink_reported (modCus_reported (modFlt_reported (modRadio_reported (modSlk_reported (.refl _) _ ?_) _) _ ?_) _)
  · exact fun _ => ⟨rfl, rfl⟩
  · exact fun _ => ⟨rfl, rfl⟩

theorem trialRelease_reported (h : Reported s t) : Reported s (trialRelease t) :=
  h.quiet (trialRelease_frame (.refl _ t) (within_refl _)) rfl (trialRelease_keeps (.refl t))

theorem linksReleased_reported (h : Reported s t) : Reported s (linksReleased t) :=
  h.quiet (linksReleased_frame (.refl _ t) (within_refl _)) rfl (linksReleased_keeps (.refl t))

theorem afterRecords_reported (h : Reported s t) : Reported s (afterRecords t) :=
  lowBatteryAnew_reported (sendState_reported (onlyIf_reported (heldDoorbells_reported (trialRelease_reported (linksReleased_reported h)))
    _ _ fun k => startRebuild_reported k))

theorem release_reported (s : State) : Reported (modPwr (releasedPwr (monoUs s)) (modSys (fun b => { b with ready := true }) s))
    (release s) := by
  have hm : (releasing s).pwr.mode ≠ .hearth := by rw [releasing_mode]; nofun
  rw [release_eq]
  exact afterRecords_reported (tamperRecord_reported (hearthRecord_reported (releasing_reported s) hm))

/-! ### Every step -/

/-- What is left of `Reported` across a release: how the latch and the mode may have come to be what they are. -/
structure Accounted (s t : State) : Prop where
  latch : (t.slk.code = s.slk.code ∧ t.slk.comp = s.slk.comp) ∨ (s.led.lsn < t.led.lsn ∧ LegalCode t.slk) ∨ LockedByAonLoss t
  hearth : t.pwr.mode = .hearth → t.flt.hearthOwed = false → s.pwr.mode = .hearth

theorem Reported.accounted (h : Reported s t) : Accounted s t := ⟨h.latch, fun hm ho => (h.hearth hm ho).1⟩

/-- A release reports against the state it starts from, once the power block has been set up. -/
theorem accounted_of_released {ps : List Part} {f : Pwr → Pwr} (hf : Frame ps s u)
    (hp : (ps.contains .slk || ps.contains .pwr) = false) (hk : Keeps s u) (hm : ∀ b, (f b).mode = .hearth → b.mode = .hearth)
    (h : Reported (modPwr f u) t) : Accounted s t := by
  simp only [Bool.or_eq_false_iff] at hp
  have hslk := hf.slk hp.1
  have hpwr := hf.pwr hp.2
  obtain ⟨lsn, latch, -, hearth⟩ := h
  rw [modPwr_slk, modPwr_led, hslk] at latch
  rw [modPwr_pwr, hpwr] at hearth
  refine ⟨latch.imp_right (Or.imp_left fun ⟨hl, hcode⟩ => ⟨hk.lsn.trans_lt hl, hcode⟩), fun hm' ho => hm _ (hearth hm' ho).1⟩

/-- The state in which replay is done and the part not yet released (R34, R132, R138, R455). -/
def replayed (a b : Bool) (s : State) : State :=
  let s := modLed (fun l => { l with aRefill := if a || l.aFailed then l.aRefill else 960
                                     bRefill := if b || l.bFailed then l.bRefill else 960 }) s
  let s := modHost (fun h => { h with rings := h.rings.map (fun e => (e.1, replayRing e.2)) }) s
  let s := settleBroken s
  let s := onlyIf s.pwr.aonLost endKeyWork s
  let s := deltaCopied s
  let s := match activationOwed s with
    | some n => activate n s.led.lsn s
    | none => s
  stampAll s

theorem execLedgerReplay_eq (aGood bGood : Bool) (s : State) : execLedgerReplay aGood bGood s = .next (
    let a := aGood && !s.led.aFailed
    let b := bGood && !s.led.bFailed
    if s.pwr.start == .replay then
      if !a && !b then enterHearth 3 s
      else if (replayed a b s).pwr.aonLost && !ignAsserted (replayed a b s) then recoveredToParked (replayed a b s)
      else release (replayed a b s)
    else s) := rfl

/-- Replay touches neither the latch nor the power block. -/
theorem replayed_frame (a b : Bool) (s : State) :
    Frame [.sys, .flights, .vecs, .rings, .run, .slc, .led, .dir, .radio, .ifl, .cus, .upd, .outs] s (replayed a b s) := by
  unfold replayed
  extract_lets refilled rings settled ended copied activated
  have hcopied : Frame [.sys, .flights, .vecs, .rings, .run, .slc, .led, .dir, .radio, .ifl, .cus, .upd, .outs] s copied := by
    refine deltaCopied_frame (onlyIf_frame (settleBroken_frame (modHost_frame (modLed_frame (.refl _ s) ?_ _) ?_ _) ?_) _ _ fun k =>
      endKeyWork_frame k ?_) ?_ <;> exact within_of rfl
  have hactivated : Frame [.sys, .flights, .vecs, .rings, .run, .slc, .led, .dir, .radio, .ifl, .cus, .upd, .outs] s activated := by
    show Frame _ s (match activationOwed copied with | some n => activate n copied.led.lsn copied | none => copied)
    split
    · exact activate_frame hcopied (within_of rfl) _ _
    · exact hcopied
  exact stampAll_frame hactivated (within_of rfl)

theorem replayed_keeps (a b : Bool) (s : State) : Keeps s (replayed a b s) := by
  unfold replayed
  extract_lets refilled rings settled ended copied activated
  have hcopied : Keeps s copied := by
    refine deltaCopied_keeps (onlyIf_keeps (settleBroken_keeps (modHost_keeps (modLed_keeps (.refl s) _ ?_) _ ?_)) _ _ fun k =>
      endKeyWork_keeps k)
    · exact fun _ => le_rfl
    · exact fun _ => .refl _
  have hactivated : Keeps s activated := by
    show Keeps s (match activationOwed copied with | some n => activate n copied.led.lsn copied | none => copied)
    split
    · exact activate_keeps hcopied _ _
    · exact hcopied
  exact stampAll_keeps hactivated

theorem execLedgerReplay_accounted (aGood bGood : Bool) (h : execLedgerReplay aGood bGood s = .next t) : Accounted s t := by
  rw [execLedgerReplay_eq] at h
  extract_lets a b at h
  have hframe := replayed_frame a b s
  have hkeeps := replayed_keeps a b s
  generalize replayed a b s = u at h hframe hkeeps
  obtain rfl := Host.Outcome.next.inj h
  split
  · split
    · exact (enterHearth_reported (.refl s) 3).accounted
    · split
      · refine accounted_of_released hframe rfl hkeeps (f := fun p => { p with aonLost := false }) (fun _ => id) ?_
        exact modRadio_reported (enterParked_reported (.refl _)) _
      · refine accounted_of_released (u := modSys (fun b => { b with ready := true }) u)
          (f := releasedPwr (monoUs u))
          (modSys_frame hframe (within_of rfl) _) rfl (modSys_keeps hkeeps _) (fun _ => nofun) (release_reported u)
  · exact (Reported.refl s).accounted

theorem exec_accounted {c : Instr} (h : exec c s = .next t) : Accounted s t := by
  by_cases hc : ∃ a b, c = .ledgerReplay a b
  · obtain ⟨a, b, rfl⟩ := hc
    exact execLedgerReplay_accounted a b h
  · exact ((exec_reported fun a b e => hc ⟨a, b, e⟩).out t h).accounted

theorem step_accounted (h : step s = .next t) : Accounted s t := by
  obtain ⟨-, rfl⟩ | ⟨c, rest, -, hc⟩ := step_cases h
  · exact (idle_reported (.refl s)).accounted
  · obtain ⟨latch, hearth⟩ := exec_accounted hc
    exact ⟨latch, hearth⟩

/-! ### The latch -/

theorem legalCode_iff (b : Slk) : LegalCode b ↔ b.comp = ~~~ b.code ∧ b.code ∈ [0x3C#8, 0x5A#8, 0x96#8, 0xA5#8, 0xC3#8] := by
  constructor
  · rintro ⟨l, hcode, hcomp⟩
    refine ⟨hcomp.trans (by rw [hcode]), ?_⟩
    rw [hcode]
    cases l <;> simp [latchCode]
  · rintro ⟨hcomp, hmem⟩
    simp only [List.mem_cons, List.not_mem_nil, or_false] at hmem
    obtain h | h | h | h | h := hmem
    · exact ⟨.locked, h, hcomp.trans (by rw [h]; rfl)⟩
    · exact ⟨.armed, h, hcomp.trans (by rw [h]; rfl)⟩
    · exact ⟨.released, h, hcomp.trans (by rw [h]; rfl)⟩
    · exact ⟨.running, h, hcomp.trans (by rw [h]; rfl)⟩
    · exact ⟨.deferred, h, hcomp.trans (by rw [h]; rfl)⟩

theorem LockedByAonLoss.legalCode (h : LockedByAonLoss t) : LegalCode t.slk := ⟨.locked, h.2.1, h.2.2⟩

theorem LockedByAonLoss.latch (h : LockedByAonLoss t) : latch t = .locked := by
  obtain ⟨-, hcode, hcomp⟩ := h
  simp [Machine.latch, hcode, hcomp]

/-- Settles O47: a step keeps the code, or sets that of a state of the latch. -/
theorem latchCodeStaysLegal : Obligations.LatchCodeStaysLegal := by
  intro s t hs h
  rw [← legalCode_iff] at hs ⊢
  obtain ⟨hcode, hcomp⟩ | ⟨-, hlegal⟩ | hlost := (step_accounted h).latch
  · obtain ⟨l, hc, hp⟩ := hs
    exact ⟨l, hcode.trans hc, hcomp.trans hp⟩
  · exact hlegal
  · exact hlost.legalCode

/-- Settles O48: a latch that reads otherwise than before has not kept its code. -/
theorem latchMovesAreRecorded : Obligations.LatchMovesAreRecorded := by
  intro s t h hmoved
  obtain ⟨hcode, hcomp⟩ | ⟨hlsn, -⟩ | hlost := (step_accounted h).latch
  · exact absurd (latch_congr hcode hcomp) hmoved
  · exact .inl hlsn
  · exact .inr ⟨hlost.1, hlost.latch⟩

/-! ### Hearth mode -/

@[simp] theorem raiseEnable_mode (g : Nat) (s : State) : (raiseEnable g s).pwr.mode = s.pwr.mode := by
  unfold raiseEnable
  split <;> rfl

@[simp] theorem raiseEach_mode (gs : List Nat) (s : State) : (raiseEach gs s).pwr.mode = s.pwr.mode := by
  simp only [raiseEach, each]
  induction gs generalizing s with
  | nil => rfl
  | cons g gs ih =>
    rw [List.foldl_cons, ih]
    split
    · exact raiseEnable_mode g s
    · rfl

@[simp] theorem trainLink_pwr (s : State) : (trainLink s).pwr = s.pwr := (trainLink_frame (.refl _ s) (within_refl _)).pwr rfl

@[simp] theorem trainLink_flt (s : State) : (trainLink s).flt = s.flt := (trainLink_frame (.refl _ s) (within_refl _)).flt rfl

@[simp] theorem raiseHearth_mode (s : State) : (raiseHearth s).pwr.mode = s.pwr.mode := raiseEach_mode _ s

@[simp] theorem raiseHearth_flt (s : State) : (raiseHearth s).flt = s.flt := (raiseHearth_frame (.refl _ s) (within_refl _)).flt rfl

theorem enterHearth_mode (cause : Nat) (s : State) : (enterHearth cause s).pwr.mode = .hearth := by
  have hrate (t : State) : (cntRateChange t).pwr = t.pwr := (cntRateChange_frame (.refl _ t) (within_refl _)).pwr rfl
  simp only [enterHearth, trainLink_pwr, raiseHearth_mode, modUpd_pwr, modFlt_pwr, onlyIf]
  split
  · rw [hrate]; rfl
  · rfl

theorem enterHearth_hearthCause (cause : Nat) (s : State) : (enterHearth cause s).flt.hearthCause = cause := by
  simp only [enterHearth, trainLink_flt, raiseHearth_flt, modUpd_flt, modFlt_flt]

theorem enterHearth_hearthOwed (cause : Nat) (s : State) : (enterHearth cause s).flt.hearthOwed = true := by
  simp only [enterHearth, trainLink_flt, raiseHearth_flt, modUpd_flt, modFlt_flt]

/-- Without room in the log nothing is written. -/
theorem writeFault_of_not_canLog {ty ix code sev action detail arg : Nat} (h : ¬ canLog (.fault (s.flt.lastNo + 1)) s = true) :
    writeFault ty ix code sev action detail arg s = s := if_neg h

/-- Whether the log has room or not, a fault record leaves the Hearth record owed and its cause as they were. -/
theorem writeFault_hearth (ty ix code sev action detail arg : Nat) (s : State) :
    (writeFault ty ix code sev action detail arg s).flt.hearthOwed = s.flt.hearthOwed ∧
      (writeFault ty ix code sev action detail arg s).flt.hearthCause = s.flt.hearthCause := by
  by_cases h : canLog (.fault (s.flt.lastNo + 1)) s = true
  · rw [writeFault_flt h, withRecord_flt]
    exact ⟨rfl, rfl⟩
  · rw [writeFault_of_not_canLog h]
    exact ⟨rfl, rfl⟩

theorem hearthRecord_hearth (s : State) :
    (hearthRecord s).flt.hearthOwed = false ∧ (hearthRecord s).flt.hearthCause = s.flt.hearthCause := by
  unfold hearthRecord
  split
  case isTrue => exact ⟨rfl, (writeFault_hearth ..).2⟩
  case isFalse h => exact ⟨Bool.eq_false_iff.mpr h, rfl⟩

theorem tamperRecord_hearth (s : State) :
    (tamperRecord s).flt.hearthOwed = s.flt.hearthOwed ∧ (tamperRecord s).flt.hearthCause = s.flt.hearthCause := by
  unfold tamperRecord
  split
  · exact writeFault_hearth ..
  · exact ⟨rfl, rfl⟩

theorem releasing_hearthCause (s : State) : (releasing s).flt.hearthCause = s.flt.hearthCause := by
  unfold releasing
  rw [trainLink_flt]
  rfl

theorem afterRecords_flt (s : State) : (afterRecords s).flt = s.flt := by
  have hf : Frame [.pwr, .vecs, .rings, .led, .slk, .dir, .ifl, .upd, .outs] s (afterRecords s) := by
    unfold afterRecords
    refine lowBatteryAnew_frame (sendState_frame (onlyIf_frame (heldDoorbells_frame (trialRelease_frame
      (linksReleased_frame (.refl _ s) ?_) ?_) ?_) _ _ fun k => startRebuild_frame k ?_) ?_) ?_ <;> exact within_of rfl
  exact hf.flt rfl

theorem release_hearth (s : State) : (release s).flt.hearthOwed = false ∧ (release s).flt.hearthCause = s.flt.hearthCause := by
  rw [release_eq, afterRecords_flt, (tamperRecord_hearth _).1, (tamperRecord_hearth _).2, (hearthRecord_hearth _).1,
    (hearthRecord_hearth _).2, releasing_hearthCause]
  exact ⟨rfl, rfl⟩

/-- Settles O53: the steps by `Accounted`, the entry and the release by what they leave in the FLT block. -/
theorem hearthEntryIsReported : Obligations.HearthEntryIsReported := by
  refine ⟨fun s t h hs ht => ?_, fun cause s => ⟨enterHearth_mode .., enterHearth_hearthCause .., enterHearth_hearthOwed ..⟩,
    fun s howed hlog => ?_, release_hearth⟩
  · by_contra hnot
    exact hs ((step_accounted h).hearth ht (Bool.eq_false_iff.mpr hnot))
  · have hlog' : canLog (.fault ((drawn 1 s).flt.lastNo + 1)) (drawn 1 s) = true := hlog
    rw [hearthRecord, if_pos howed]
    exact ⟨writeFault_lastNo hlog', _, getLast?_faults_writeFault hlog', rfl, rfl⟩

end Sys2Proof.Machine

/-! An empty queue, reset, and a fate: what time passing leaves alone, what reset holds, what `settle` does to each descriptor. -/

namespace Sys2Proof.Machine

variable {s t : State}

/-! ### Time -/

/-- What the passing of time may touch. -/
theorem elapseNs_frame_of (n : Nat) : Frame [.time, .counters, .vecs, .outs] s (elapseNs n s) := elapseNs_frame (.refl _ s) (within_refl _) n

/-- TIME_MONO advances by what passes, whatever the counters do meanwhile (R207). -/
@[simp] theorem elapseNs_ns (n : Nat) (s : State) : (elapseNs n s).clk.ns = s.clk.ns + n := by
  have hrun : Frame [.counters, .vecs, .outs] s (onlyIf (cntRuns s) (each (List.range 16) fun i t =>
      putCnt i (cntElapse (cntSlow s) n (nth {} t.clk.cnts i)) t) s) :=
    onlyIf_frame (.refl _ s) _ _ fun k => each_frame k _ _ fun i _ k => putCnt_frame k (within_refl _) _ _
  simp only [elapseNs, modClk_clk]
  rw [hrun.time rfl]

@[simp] theorem elapseNs_pwr (n : Nat) (s : State) : (elapseNs n s).pwr = s.pwr := (elapseNs_frame_of n).pwr rfl
@[simp] theorem elapseNs_pending (n : Nat) (s : State) : (elapseNs n s).pending = s.pending := (elapseNs_frame_of n).2.1

/-- A propshaft found overdue changes the angle's fields of the clock block, not the time. -/
theorem propWatch_eq (p : PropShaft) (s : State) :
    ∃ f : Clk → Clk, propWatch p s = modClk f s ∧ ∀ c, (f c).ns = c.ns := by
  unfold propWatch
  split
  · exact ⟨_, rfl, fun _ => rfl⟩
  · exact ⟨id, rfl, fun _ => rfl⟩

/-! ### An empty queue -/

theorem dormantOff_of_none (h : s.pwr.dorming = none) : dormantOff s = s := by
  unfold dormantOff
  rw [h]
  exact ite_self s

/-- Without a Dormant entry under way, an empty queue changes the time, the counters and the angle alone. -/
theorem idle_of_awake (h : s.pwr.dorming = none) : ∃ f : Clk → Clk, idle s = modClk f (elapseNs 1000 s) ∧ ∀ c, (f c).ns = c.ns := by
  have hoff : dormantOff (elapseNs 1000 s) = elapseNs 1000 s := dormantOff_of_none (by rw [elapseNs_pwr, h])
  simp only [idle, hoff, onlyIf]
  split
  · exact propWatch_eq _ _
  · exact ⟨id, rfl, fun _ => rfl⟩

/-- Step 3 of a Dormant entry (R89): the reset, the enables low, the Near list no longer usable. -/
theorem dormantOff_of_some {cause : Nat} (hm : s.pwr.mode = .parked) (hst : s.pwr.start = .settled) (hsl : sliceUp s = true)
    (hd : s.pwr.dorming = some cause) : ∃ u : State, u = lowerFrom 0 (pickPair true (coldReset
      (tryLog (.dormantEntry cause) (tryLog (.other 89 s.radio.near.length) s)))) ∧
    dormantOff s = modPwr (fun p => { p with mode := .dormant, dorming := none, hourAt := p.hourAt - monoUs (modRadio (fun b => { b with nearUsable := false }) u) })
      (modRadio (fun b => { b with nearUsable := false }) u) := by
  refine ⟨_, rfl, ?_⟩
  simp [dormantOff, hm, hst, hsl, hd]

@[simp] theorem coldReset_ns (s : State) : (coldReset s).clk.ns = s.clk.ns := (coldReset_frame (.refl _ s) (within_refl _)).time rfl
@[simp] theorem coldReset_pending (s : State) : (coldReset s).pending = s.pending := (coldReset_frame (.refl _ s) (within_refl _)).2.1
@[simp] theorem tryLog_ns (e : LKind) (s : State) : (tryLog e s).clk.ns = s.clk.ns := (tryLog_frame (.refl _ s) (within_refl _) e).time rfl
@[simp] theorem tryLog_pending (e : LKind) (s : State) : (tryLog e s).pending = s.pending := (tryLog_frame (.refl _ s) (within_refl _) e).2.1
@[simp] theorem pickPair_ns (b : Bool) (s : State) : (pickPair b s).clk.ns = s.clk.ns := (pickPair_frame (.refl _ s) (within_refl _) b).time rfl
@[simp] theorem pickPair_pending (b : Bool) (s : State) : (pickPair b s).pending = s.pending := (pickPair_frame (.refl _ s) (within_refl _) b).2.1
@[simp] theorem lowerFrom_ns (g : Nat) (s : State) : (lowerFrom g s).clk.ns = s.clk.ns := (lowerFrom_frame (.refl _ s) (within_refl _) g).time rfl
@[simp] theorem lowerFrom_pending (g : Nat) (s : State) : (lowerFrom g s).pending = s.pending := (lowerFrom_frame (.refl _ s) (within_refl _) g).2.1

/-- A Dormant entry whose step 3 is due leaves the part in Dormant with nothing powered, in the same moment (R89). -/
theorem dormantOff_dormant (hm : s.pwr.mode = .parked) (hst : s.pwr.start = .settled) (hsl : sliceUp s = true)
    (hd : s.pwr.dorming.isSome = true) : (dormantOff s).pwr.mode = .dormant ∧ (dormantOff s).pwr.dorming = none ∧
    (dormantOff s).radio.nearUsable = false ∧ (∀ i, (dormantOff s).pwr.en.getLsbD i = false) ∧
    (dormantOff s).clk.ns = s.clk.ns ∧ (dormantOff s).pending = s.pending := by
  obtain ⟨cause, hcause⟩ := Option.isSome_iff_exists.mp hd
  obtain ⟨u, rfl, hoff⟩ := dormantOff_of_some hm hst hsl hcause
  rw [hoff]
  refine ⟨rfl, rfl, rfl, fun i => ?_, ?_, ?_⟩
  · simp [lowerFrom_en]
  · simp
  · simp

/-- Settles O2. The first clause is `idle_of_awake`; in the second the part is in Dormant, where no angle is watched. -/
theorem emptyQueueLetsTimePass : Obligations.EmptyQueueLetsTimePass := by
  refine ⟨fun s hq hd => ?_, fun s hq hd hm hst hsl => ?_⟩
  · obtain ⟨f, hidle, hf⟩ := idle_of_awake hd
    have hk := elapseNs_frame_of (s := s) 1000
    refine ⟨idle s, by simp [step, hq], ?_⟩
    rw [hidle]
    exact ⟨hk.2.1.trans hq, (hf _).trans (elapseNs_ns ..), hk.flights rfl, hk.rings rfl, hk.led rfl, hk.slk rfl, hk.sec rfl, hk.upd rfl⟩
  · obtain ⟨hmode, hdone, hnear, hen, hns, hpend⟩ := dormantOff_dormant (s := elapseNs 1000 s) (by simpa) (by simpa) (by simpa [sliceUp, groupGood] using hsl) (by simpa)
    have hidle : idle s = dormantOff (elapseNs 1000 s) := by simp [idle, onlyIf, angleOn, hmode]
    refine ⟨idle s, by simp [step, hq], ?_⟩
    rw [hidle]
    exact ⟨by simpa [hq] using hpend, by simpa using hns, hmode, hdone, hnear, hen⟩

/-! ### Reset -/

/-- Settles O3: each fact is read off the reset state. -/
theorem resetState : Obligations.ResetState := by
  refine ⟨?_, rfl, rfl, rfl, rfl, ?_, rfl, rfl, rfl, rfl, rfl, rfl, rfl⟩
  · decide
  · decide

end Sys2Proof.Machine

/-! A fate is given once, and a command that serves one descriptor leaves the others as they were. -/

namespace Sys2Proof.Machine

variable {s t : State} {r i : Nat} {f g : Flight}

/-! ### What `settle` does to each descriptor -/

@[simp] theorem getFlight_logRec (k : LKind) : getFlight (logRec k s) r = getFlight s r := rfl

/-- Duplicates settled one after another: a descriptor that is none of them stays as it was. -/
theorem getFlight_settleEach (l : List Nat) (fr : FateRec) (s : State) (hi : i ∉ l) : getFlight (each l (fun j t =>
    logRec (.fate j) (modFlight j (fun x => if x.fate.isSome then x else { x with begun := true, fate := some (echoFate fr x s) }) t)) t) i =
    getFlight t i := by
  unfold each
  induction l generalizing t with
  | nil => rfl
  | cons j l ih =>
    obtain ⟨hij, hil⟩ := List.ne_and_not_mem_of_not_mem_cons hi
    rw [List.foldl_cons, ih hil, getFlight_logRec, getFlight_modFlight, if_neg (Ne.symm hij)]

/-- The duplicates that `r` settles wait for `r` and have no fate. -/
theorem mem_dupsOf (hg : getFlight s i = some g) : i ∈ dupsOf r s ↔ g.dupOf = some r ∧ g.fate = none := by
  have hlt : i < s.host.flights.length := (List.getElem?_eq_some_iff.mp hg).1
  simp [dupsOf, hg, hlt]

/-- A descriptor that is no duplicate of `r`, or that has its fate, is no concern of the duplicates of `r`. -/
theorem getFlight_settleDups (fr : FateRec) (hg : getFlight s i = some g) (h : g.dupOf ≠ some r ∨ g.fate ≠ none) :
    getFlight (settleDups r fr s) i = some g := by
  have hi : i ∉ dupsOf r s := by rw [mem_dupsOf hg]; tauto
  rw [settleDups, getFlight_settleEach _ _ _ hi, hg]

/-- A fate given changes the ledger, the charges and descriptor `r`, and then the duplicates of `r`. -/
theorem settle_of_no_fate (fr : FateRec) (hf : getFlight s r = some f) (hn : f.fate = none) : ∃ u, settle r fr s = settleDups r (noteFate fr f s) u ∧
    (∀ j, getFlight u j = if r = j then some { f with begun := true, fate := some (noteFate fr f s), stage := fr.stage, units := fr.units }
      else getFlight s j) ∧ s.led.lsn < u.led.lsn := by
  have hcharge : ∀ b (t : State), Frame [.run, .slc] t (onlyIf b (returnCharge f) t) := fun b t =>
    onlyIf_frame (.refl _ t) _ _ fun k => returnCharge_frame k (within_of rfl) _
  refine ⟨_, by simp only [settle, hf, hn, Option.isSome_none, Bool.false_eq_true, if_false]; rfl, fun j => ?_, ?_⟩
  · rw [getFlight_logRec, getFlight_of_host ((hcharge _ _).flights rfl), getFlight_modFlight, getFlight_noteV]
    split
    · next e => rw [← e, hf]; rfl
    · rfl
  · have hled := (hcharge (!hasEffect fr.code) (modFlight r (fun x => { x with
      begun := true, fate := some (noteFate fr f s), stage := fr.stage, units := fr.units }) (noteV s))).led rfl
    exact Nat.lt_succ_of_le (congrArg Ledger.lsn hled).ge

/-- A descriptor other than `r` that does not wait for `r` stays as it was when `r` has its fate. -/
theorem getFlight_settle_of_ne (fr : FateRec) (hi : i ≠ r) (hg : getFlight s i = some g) (hdup : g.dupOf ≠ some r) :
    getFlight (settle r fr s) i = some g := by
  rcases hf : getFlight s r with _ | f
  · simpa [settle, hf] using hg
  · rcases hn : f.fate with _ | x
    · obtain ⟨u, hu, hflight, -⟩ := settle_of_no_fate fr hf hn
      rw [hu]
      exact getFlight_settleDups _ (by rw [hflight, if_neg hi.symm, hg]) (.inl hdup)
    · simpa [settle, hf, hn] using hg

/-- Settles O56. -/
theorem fateIsGivenOnce : Obligations.FateIsGivenOnce := by
  refine ⟨fun r fr f s hf hn => ?_, fun r fr f s hf hn => ?_, fun r i fr g s hi hg hdup => getFlight_settle_of_ne fr hi hg hdup⟩
  · obtain ⟨u, hu, hflight, hlsn⟩ := settle_of_no_fate fr hf hn
    refine ⟨_, by rw [hu]; exact getFlight_settleDups _ ((hflight r).trans (if_pos rfl)) (.inr (by simp)), rfl, rfl, ?_⟩
    rw [hu]
    exact hlsn.trans_le (settleDups_keeps (Keeps.refl u) r _).lsn
  · simp [settle, hf, Option.isSome_iff_ne_none.mpr hn]

end Sys2Proof.Machine

/-! A command that serves one descriptor and ends it in one go leaves the others as they were. -/

namespace Sys2Proof.Machine

variable {s t u : State} {r : Nat}

/-- Of the descriptors of `s`, `t` has each but `r` and the duplicates that wait for `r` as it was. -/
def Spares (r : Nat) (s t : State) : Prop :=
  ∀ i g, i ≠ r → getFlight s i = some g → g.dupOf ≠ some r → getFlight t i = some g

theorem Spares.refl (r : Nat) (s : State) : Spares r s s := fun _ _ _ hg _ => hg

theorem Spares.trans (h : Spares r s t) (k : Spares r t u) : Spares r s u := fun i g hi hg hd => k i g hi (h i g hi hg hd) hd

/-- What does not touch the descriptors spares them all. -/
theorem Spares.frame {ps : List Part} (h : Spares r s t) (k : Frame ps t u) (hp : ps.contains .flights = false) : Spares r s u :=
  fun i g hi hg hd => (getFlight_of_host (k.flights hp)).trans (h i g hi hg hd)

/-! ### One rule per shared operation -/

theorem modFlight_spares (h : Spares r s t) (f : Flight → Flight) : Spares r s (modFlight r f t) :=
  fun i g hi hg hd => by rw [getFlight_modFlight, if_neg hi.symm, h i g hi hg hd]

theorem settle_spares (h : Spares r s t) (fr : FateRec) : Spares r s (settle r fr t) :=
  h.trans fun _ _ hi hg hd => getFlight_settle_of_ne fr hi hg hd

/-- A settled refusal in each branch of a command's checks. -/
theorem settleIf_spares {c : Prop} [Decidable c] (h : Spares r s t) (fr : FateRec) {other : State} (ho : ¬ c → Spares r s other) :
    Spares r s (if c then settle r fr t else other) := by
  split
  next => exact settle_spares h fr
  next hc => exact ho hc

theorem atStage_spares (h : Spares r s t) (stage units : Nat) : Spares r s (atStage r stage units t) := modFlight_spares h _

theorem logRec_spares (h : Spares r s t) (k : LKind) : Spares r s (logRec k t) := h.frame (ps := [.led]) (logRec_frame (.refl _ t) (within_refl _) k) rfl

theorem pkeRan_spares (h : Spares r s t) (code : Nat) : Spares r s (pkeRan code t) := h.frame (pkeRan_frame (.refl _ t) (within_refl _) code) rfl

theorem drew_spares (h : Spares r s t) (q : RngQueue) (n : Nat) : Spares r s (drew q n t) := h.frame (drew_frame (.refl _ t) (within_refl _) q n) rfl

theorem drewIv_spares (h : Spares r s t) (f : Flight) : Spares r s (drewIv f t) := h.frame (drewIv_frame (.refl _ t) (within_refl _) f) rfl

theorem drawn_spares (h : Spares r s t) (n : Nat) : Spares r s (drawn n t) := h.frame (drawn_frame (.refl _ t) (within_refl _) n) rfl

theorem leaveQueue_spares (h : Spares r s t) (i : Nat) : Spares r s (leaveQueue i t) := h.frame (leaveQueue_frame (.refl _ t) (within_refl _) i) rfl

theorem joinQueue_spares (h : Spares r s t) (q : RngQueue) (opc i : Nat) : Spares r s (joinQueue q opc i t) :=
  h.frame (joinQueue_frame (.refl _ t) (within_refl _) q opc i) rfl

theorem countCph_spares (h : Spares r s t) : Spares r s (countCph t) := h.frame (countCph_frame (.refl _ t) (within_refl _)) rfl

theorem modDir_spares (h : Spares r s t) (f : Dir → Dir) : Spares r s (modDir f t) := h.frame (modDir_frame (.refl _ t) (within_refl _) f) rfl

theorem noteV_spares (h : Spares r s t) : Spares r s (noteV t) := h.frame (noteV_frame (.refl _ t) (within_refl _)) rfl

theorem writeAndSettle_spares (h : Spares r s t) (f : Flight) (i : Nat) (data : Bytes) (wr : Bool) (fr : FateRec) :
    Spares r s (writeAndSettle r f i data wr fr t) := by
  unfold writeAndSettle
  split
  · exact settle_spares (h.frame (culvertWrite_frame (.refl _ t) (within_refl _) f i data) rfl) fr
  · exact settle_spares h _

theorem startOp_spares (h : Spares r s t) (opc : Nat) (body : Flight → State → State)
    (hb : ∀ f {u}, Spares r s u → Spares r s (body f u)) : Spares r s (startOp opc r body t) := by
  unfold startOp
  split
  · exact h
  · split
    · split
      · exact hb _ (modFlight_spares (noteV_spares h) _)
      · exact settle_spares h _
    · exact h

theorem onOp_spares (h : Spares r s t) (opc : Nat) (body : Flight → State → State)
    (hb : ∀ f {u}, Spares r s u → Spares r s (body f u)) : Spares r s (onOp opc r body t) := by
  unfold onOp
  split
  · exact h
  · split
    · exact hb _ h
    · exact h

theorem withRead_spares (h : Spares r s t) (rd : HostRead) (n stage : Nat) (body : Bytes → State → State)
    (hb : ∀ d {u}, Spares r s u → Spares r s (body d u)) : Spares r s (withRead r rd n stage body t) := by
  unfold withRead
  split
  · exact hb _ h
  · exact settle_spares h _

theorem commitPoint_spares (h : Spares r s t) (f : Flight) (allowed : Bool) (k : LKind) (stage detail : Nat) (body : State → State)
    (hb : ∀ {u}, Spares r s u → Spares r s (body u)) : Spares r s (commitPoint r f allowed k stage detail body t) := by
  unfold commitPoint
  split
  · split
    · exact hb (logRec_spares h k)
    · exact settle_spares h _
  · exact settle_spares h _

/-! ### Writs, custody and the directory -/

theorem writSigned_spares (w : Bytes) (l : List Bytes) (h : Spares r s t) : Spares r s (writSigned w l t).2 := by
  induction l generalizing t with
  | nil => exact h
  | cons b l ih =>
    simp only [writSigned]
    split
    · exact ih (pkeRan_spares h _)
    · exact pkeRan_spares h _

theorem writRun_spares (h : Spares r s t) (rd : HostRead) (f : Flight) (body : Bytes → State → State)
    (hb : ∀ w {u}, Spares r s u → Spares r s (body w u)) : Spares r s (writRun r rd f body t) := by
  have hsigned : ∀ w, Spares r s (writSigned w (sigBlocks w) t).2 := fun w => writSigned_spares w _ h
  simp only [writRun, writFail]
  split
  · exact settle_spares h _
  · split
    · exact settle_spares h _
    · split
      · exact settle_spares (hsigned _) _
      · have hchecked := atStage_spares (hsigned ‹_›) 0x01 0
        repeat' split
        · exact settle_spares hchecked _
        · exact settle_spares hchecked _
        · exact hb _ hchecked

theorem readOut_spares (h : Spares r s t) (f : Flight) (x : CusRec) (wr : Bool) : Spares r s (readOut r f x wr t) :=
  writeAndSettle_spares (atStage_spares h _ _) _ _ _ _ _

theorem withEntry_spares (h : Spares r s t) (opc : Nat) (rd : HostRead) (body : Flight → Query → DirEntry → State → State)
    (hb : ∀ f q e {u}, Spares r s u → Spares r s (body f q e u)) : Spares r s (withEntry opc r rd body t) := by
  unfold withEntry
  extract_lets q
  split
  · exact h
  · refine startOp_spares h _ _ fun f u k => withRead_spares k _ _ _ _ fun d u k => ?_
    extract_lets q
    refine settleIf_spares k _ fun _ => settleIf_spares k _ fun _ => ?_
    split
    · exact k
    · exact settle_spares k _
    · exact settle_spares k _
    · exact settleIf_spares k _ fun _ => hb _ _ _ k

theorem lookupDone_spares (h : Spares r s t) (f : Flight) (e : DirEntry) (wr : Bool) : Spares r s (lookupDone r f e wr t) := by
  unfold lookupDone
  split
  · exact writeAndSettle_spares h _ _ _ _ _
  · exact settle_spares h _

/-! ### Keys and cipher lanes -/

theorem keyOp_spares (h : Spares r s t) (opc : Nat) (body : Flight → State → State)
    (hb : ∀ f {u}, Spares r s u → Spares r s (body f u)) : Spares r s (keyOp opc r body t) := by
  unfold keyOp
  repeat' split
  · exact joinQueue_spares h _ _ _
  · exact startOp_spares h _ _ fun f u k => hb f (leaveQueue_spares k r)
  · exact h

theorem withKey_spares (h : Spares r s t) (f : Flight) (n : Nat) (body : Handle → State → State)
    (hb : ∀ k {u}, Spares r s u → Spares r s (body k u)) : Spares r s (withKey r f n body t) := by
  unfold withKey
  repeat' split
  · exact settle_spares h _
  · exact hb _ h
  · exact settle_spares h _

theorem makeHandle_spares (h : Spares r s t) (f : Flight) (k : Handle) : Spares r s (makeHandle r f k t) := by
  unfold makeHandle
  split
  · exact (settle_spares h _).frame (keyEvent_frame (.refl _ _) (within_refl _) 4) rfl
  · extract_lets g hd k
    split
    · exact settle_spares (logRec_spares (h.frame (modSec_frame (.refl _ _) (within_refl _) _) rfl) _) _
    · exact settle_spares h _

theorem importWith_spares (h : Spares r s t) (f : Flight) (blob kek : Bytes) : Spares r s (importWith r f blob kek t) := by
  unfold importWith
  extract_lets kl usage child
  repeat' split
  · exact settle_spares h _
  · exact settle_spares h _
  · exact settle_spares h _
  · exact makeHandle_spares h f _

theorem keyRelease_spares (h : Spares r s t) (f : Flight) (n unit tid : Nat) (body : State → State)
    (hb : ∀ {u}, Spares r s u → Spares r s (body u)) : Spares r s (keyRelease r f n unit tid body t) := by
  unfold keyRelease
  split
  · exact commitPoint_spares h _ _ _ _ _ _ fun k => hb (atStage_spares k _ _)
  · exact settle_spares h _

theorem exportBlob_spares (h : Spares r s t) (f : Flight) (k : Handle) (header kek : Bytes) (wr : Bool) :
    Spares r s (exportBlob r f k header kek wr t) := by
  refine keyRelease_spares h _ _ _ _ _ fun {u} k => ?_
  dsimp only
  split
  · exact settle_spares (k.frame (emit_frame (.refl _ u) (within_refl _) _) rfl) _
  · exact settle_spares k _

theorem cphOp_spares (h : Spares r s t) (opc use : Nat) (rd : HostRead) (body : Flight → Handle → Bytes → State → State)
    (hb : ∀ f k d {u}, Spares r s u → Spares r s (body f k d u)) : Spares r s (cphOp opc r use rd body t) := by
  unfold cphOp
  split
  · exact joinQueue_spares h _ _ _
  · split
    · refine startOp_spares h _ _ fun f u k => withKey_spares (leaveQueue_spares k r) _ _ _ fun key u k => ?_
      repeat' split
      · exact settle_spares k _
      · exact settle_spares k _
      · exact settle_spares k _
      · exact withRead_spares (modFlight_spares k _) _ _ _ _ fun d u k => hb _ _ _ (k.frame (maskLane_frame (.refl _ u) (within_refl _) _ _) rfl)
    · exact h

theorem cphOut_spares (h : Spares r s t) (f : Flight) (out : Bytes) (wr : Bool) : Spares r s (cphOut r f out wr t) := by
  unfold cphOut
  split
  · exact countCph_spares (settle_spares (h.frame (culvertWrite_frame (.refl _ _) (within_refl _) f 1 out) rfl) _)
  · exact settle_spares h _

theorem tagFail_spares (h : Spares r s t) : Spares r s (tagFail r t) :=
  (settle_spares h _).frame (modSec_frame (.refl _ _) (within_refl _) _) rfl

/-! ### The update engine -/

theorem updOp_spares (h : Spares r s t) (opc : Nat) (waits : Bool) (body : Flight → State → State)
    (hb : ∀ f {u}, Spares r s u → Spares r s (body f u)) : Spares r s (updOp opc r waits body t) := by
  unfold updOp
  repeat' split
  · exact h
  · exact startOp_spares h _ _ hb
  · exact h

theorem storeRec_spares (h : Spares r s t) (x : CfgRec) : Spares r s (storeRec r x t) := by
  unfold storeRec
  split
  next v hv => exact settle_spares ((h.frame (placeRec_frame (.refl _ t) (within_refl _) hv) rfl).frame (updEvent_frame (.refl _ _) (within_refl _) 7) rfl) _
  next => exact settle_spares h _

/-! ### The commands -/

/-- What a command answers spares the descriptors other than `r`. -/
def OutSpares (r : Nat) (s : State) (o : Host.Outcome State Fault Refusal) : Prop := ∀ t, o = .next t → Spares r s t

theorem OutSpares.next (h : Spares r s t) : OutSpares r s (.next t) := fun _ e => by cases e; exact h

/-- A command that begins its descriptor and ends it. -/
theorem OutSpares.startOp {opc : Nat} {body : Flight → State → State} (hb : ∀ f {u}, Spares r s u → Spares r s (body f u)) :
    OutSpares r s (.next (startOp opc r body s)) := .next (startOp_spares (.refl r s) opc body hb)

theorem execFateInquiry_spares (wr : Bool) : OutSpares r s (execFateInquiry r wr s) := by
  refine .startOp fun f u k => ?_
  extract_lets g seq
  split
  · exact settle_spares k _
  · split
    · exact writeAndSettle_spares k _ _ _ _ _
    · split
      · exact settle_spares k _
      · exact settle_spares k _

theorem execFurrowRead_spares (wr : Bool) : OutSpares r s (execFurrowRead r wr s) := by
  refine .startOp fun f u k => ?_
  extract_lets body len
  split
  · exact settle_spares k _
  · exact writeAndSettle_spares k _ _ _ _ _

theorem execZoneRead_spares (wr : Bool) : OutSpares r s (execZoneRead r wr s) := by
  refine .startOp fun f u k => ?_
  extract_lets body
  split
  · exact settle_spares k _
  · exact writeAndSettle_spares k _ _ _ _ _

theorem execCusRead_spares (wr : Bool) : OutSpares r s (execCusRead r wr s) := by
  refine .next ?_
  extract_lets key waits
  split
  · exact .refl r s
  · refine startOp_spares (.refl r s) _ _ fun f u k => ?_
    dsimp only
    split
    · exact settle_spares k _
    · refine settleIf_spares k _ fun _ => settleIf_spares k _ fun _ => settleIf_spares k _ fun _ => settleIf_spares k _ fun _ =>
        settleIf_spares k _ fun _ => settleIf_spares k _ fun _ => ?_
      split
      · exact commitPoint_spares k _ _ _ _ _ _ fun k => readOut_spares k _ _ _
      · exact readOut_spares (atStage_spares k _ _) _ _ _

theorem execCusVerify_spares : OutSpares r s (execCusVerify r s) := by
  refine .next ?_
  split
  · exact .refl r s
  · refine startOp_spares (.refl r s) _ _ fun f u k => ?_
    extract_lets cls a b l
    refine settleIf_spares k _ fun _ => settleIf_spares k _ fun _ => settleIf_spares k _ fun _ => ?_
    split
    · exact settleIf_spares k _ fun _ => settle_spares k _
    · exact settle_spares k _

theorem execGrant_spares (rd : HostRead) (wr : Bool) : OutSpares r s (execGrant r rd wr s) :=
  .next (withEntry_spares (.refl r s) _ _ _ fun _ _ _ {_} k => settleIf_spares k _ fun _ => modDir_spares (noteV_spares k) _)

theorem execGrantCommit_spares (wr : Bool) : OutSpares r s (execGrantCommit r wr s) := by
  refine .next ?_
  split
  · exact .refl r s
  · refine onOp_spares (.refl r s) _ _ fun f u k => ?_
    extract_lets found v
    have hv : Spares r s v := modDir_spares k _
    split
    · exact k
    · clear_value found
      cases found with
      | entry e => exact settleIf_spares hv _ fun _ => commitPoint_spares hv _ _ _ _ _ _ fun k => lookupDone_spares k _ _ _
      | _ => exact settle_spares hv _

theorem execKeyRoot_spares : OutSpares r s (execKeyRoot r s) := by
  refine .next (keyOp_spares (.refl r s) _ _ fun f u k => ?_)
  extract_lets root
  refine settleIf_spares k _ fun _ => settleIf_spares k _ fun _ => ?_
  repeat' split
  all_goals exact makeHandle_spares k _ _

theorem execKeyDerive_spares (rd : HostRead) : OutSpares r s (execKeyDerive r rd s) :=
  .next (keyOp_spares (.refl r s) _ _ fun f _ k => withKey_spares k _ _ _ fun _ _ k =>
    settleIf_spares k _ fun _ => settleIf_spares k _ fun _ => settleIf_spares k _ fun _ =>
      withRead_spares k _ _ _ _ fun _ _ k => makeHandle_spares k f _)

theorem execKeyImport_spares (rd : HostRead) : OutSpares r s (execKeyImport r rd s) := by
  refine .next (keyOp_spares (.refl r s) _ _ fun f u k => withRead_spares k _ _ _ _ fun blob v k => ?_)
  extract_lets kind kekH header epk code
  refine settleIf_spares k _ fun _ => settleIf_spares k _ fun _ => settleIf_spares k _ fun _ => ?_
  split
  · refine withKey_spares k _ _ _ fun kek u k => ?_
    split
    · exact importWith_spares k _ _ _
    · exact settle_spares k _
  · exact settleIf_spares k _ fun _ => settleIf_spares (pkeRan_spares k _) _ fun _ => importWith_spares (pkeRan_spares k _) _ _ _

theorem execKeyExport_spares (rd : HostRead) (wr : Bool) : OutSpares r s (execKeyExport r rd wr s) := by
  refine .next (keyOp_spares (.refl r s) _ _ fun f u k => withKey_spares k _ _ _ fun key v k => settleIf_spares k _ fun _ =>
    settleIf_spares k _ fun _ => withRead_spares k _ _ _ _ fun area w k => ?_)
  extract_lets head pub code
  split
  · refine withKey_spares k _ _ _ fun kek u k => ?_
    split
    · exact exportBlob_spares k _ _ _ _ _
    · exact settle_spares k _
  · exact settleIf_spares (pkeRan_spares k _) _ fun _ =>
      exportBlob_spares (pkeRan_spares (pkeRan_spares (drew_spares k _ _) _) _) _ _ _ _ _

theorem execKeyClose_spares : OutSpares r s (execKeyClose r s) := by
  refine .startOp fun f u k => ?_
  split
  · exact settle_spares k _
  · exact settle_spares (k.frame (closeHandle_frame (.refl _ u) (within_refl _) _) rfl) _

theorem execKeyInfo_spares (wr : Bool) : OutSpares r s (execKeyInfo r wr s) := by
  refine .startOp fun f u k => ?_
  split
  · exact settle_spares k _
  · exact writeAndSettle_spares k _ _ _ _ _

theorem execKeyPublic_spares (wr : Bool) : OutSpares r s (execKeyPublic r wr s) := by
  refine .next (keyOp_spares (.refl r s) _ _ fun f u k => settleIf_spares k _ fun _ => ?_)
  split
  · exact writeAndSettle_spares (pkeRan_spares (pkeRan_spares k _) _) _ _ _ _ _
  · exact settle_spares k _

theorem execMacVerify_spares (rd : HostRead) : OutSpares r s (execMacVerify r rd s) := by
  refine .next (cphOp_spares (.refl r s) _ _ _ _ fun f key inp u k => ?_)
  dsimp only
  split
  · exact countCph_spares (settle_spares k _)
  · exact tagFail_spares k

theorem execOpenCcm_spares (rd : HostRead) (wr : Bool) : OutSpares r s (execOpenCcm r rd wr s) := by
  refine .next (cphOp_spares (.refl r s) _ _ _ _ fun f key inp u k => ?_)
  dsimp only
  split
  · exact cphOut_spares (drawn_spares (atStage_spares k _ _) _) _ _ _
  · exact tagFail_spares k

theorem execPkeVerify_spares (rd : HostRead) : OutSpares r s (execPkeVerify r rd s) :=
  .startOp fun _ _ k => settleIf_spares k _ fun _ => withRead_spares k _ _ _ _ fun _ _ k => settle_spares (pkeRan_spares (atStage_spares k _ _) _) _

theorem execPointCheck_spares (rd : HostRead) : OutSpares r s (execPointCheck r rd s) :=
  .startOp fun _ _ k => settleIf_spares k _ fun _ => withRead_spares k _ _ _ _ fun _ _ k => settle_spares (pkeRan_spares (atStage_spares k _ _) _) _

theorem execHash_spares (rd : HostRead) (wr : Bool) : OutSpares r s (execHash r rd wr s) :=
  .startOp fun _ _ k => settleIf_spares k _ fun _ => withRead_spares k _ _ _ _ fun _ _ k =>
    writeAndSettle_spares (atStage_spares k _ _) _ _ _ _ _

theorem execRandom_spares (wr : Bool) : OutSpares r s (execRandom r wr s) := by
  refine .next ?_
  split
  · exact startOp_spares (.refl r s) _ _ fun _ _ k => settle_spares k _
  · split
    · exact joinQueue_spares (.refl r s) _ _ _
    · split
      · refine startOp_spares (.refl r s) _ _ fun f u k => ?_
        have hseed := (leaveQueue_spares k r).frame (onlyIf_frame (.refl _ (leaveQueue r u)) (predRes f) reseed
          fun k => reseed_frame k (within_refl _)) rfl
        exact writeAndSettle_spares (drew_spares hseed _ _) _ _ _ _ _
      · exact .refl r s

theorem execStage_spares (rd : HostRead) (flash : FlashResult) : OutSpares r s (execStage r rd flash s) := by
  refine .next (updOp_spares (.refl r s) _ _ _ fun f u k => settleIf_spares k _ fun _ => withRead_spares k _ _ _ _ fun d v k => ?_)
  extract_lets h b c signed checked w
  have hs : Spares r s signed := by
    unfold signed
    split
    · exact k
    · exact pkeRan_spares k _
  have hc : Spares r s checked := pkeRan_spares hs _
  have hw : Spares r s w.2 := hc.frame (writeImage_frame (.refl _ checked) (within_refl _) b d flash) rfl
  refine settleIf_spares k _ fun _ => settleIf_spares k _ fun _ => ?_
  split
  · exact settle_spares hs _
  · refine settleIf_spares hc _ fun _ => ?_
    split
    · exact settle_spares (hw.frame (updEvent_frame (slotState_frame (.refl _ w.2) (within_refl _) b .staged) (within_refl _) 0) rfl) _
    · exact settle_spares hw _

theorem execCfgWrite_spares (rd : HostRead) (body : CfgBody) (flashOk : Bool) : OutSpares r s (execCfgWrite r rd body flashOk s) := by
  refine .next (updOp_spares (.refl r s) _ _ _ fun f u k => withRead_spares k _ _ _ _ fun w v k => ?_)
  extract_lets x c signed
  have hs : Spares r s signed := pkeRan_spares k _
  refine settleIf_spares k _ fun _ => settleIf_spares k _ fun _ => settleIf_spares k _ fun _ => settleIf_spares hs _ fun _ =>
    settleIf_spares hs _ fun _ => settleIf_spares hs _ fun _ => settleIf_spares hs _ fun _ => ?_
  split
  · exact storeRec_spares hs _
  · exact settle_spares hs _

/-- A command that ends the descriptor it serves in one go spares the others. -/
theorem exec_spares {c : Instr} (hc : servesOnly c = some r) : OutSpares r s (exec c s) := by
  cases c <;> cases hc
  case nop => exact .startOp fun _ _ k => settle_spares k _
  case ping => exact .startOp fun _ _ k => settle_spares k _
  case fateInquiry => exact execFateInquiry_spares _
  case writCheck => exact .next (startOp_spares (.refl r s) _ _ fun _ _ k => writRun_spares k _ _ _ fun _ _ k => settle_spares k _)
  case writStatus => exact .startOp fun _ _ k => writeAndSettle_spares k _ _ _ _ _
  case timeRead => exact .startOp fun _ _ k => writeAndSettle_spares k _ _ _ _ _
  case furrowRead => exact execFurrowRead_spares _
  case trackRead => exact .startOp fun _ _ k => writeAndSettle_spares k _ _ _ _ _
  case nearRead => exact .startOp fun _ _ k => writeAndSettle_spares k _ _ _ _ _
  case zoneRead => exact execZoneRead_spares _
  case lockStatus => exact .startOp fun _ _ k => writeAndSettle_spares k _ _ _ _ _
  case capRead => exact .startOp fun _ _ k => writeAndSettle_spares k _ _ _ _ _
  case chainRead => exact .startOp fun _ _ k => writeAndSettle_spares (drawn_spares k _) _ _ _ _ _
  case cusRead => exact execCusRead_spares _
  case cusScan => exact .startOp fun _ _ k => writeAndSettle_spares k _ _ _ _ _
  case cusVerify => exact execCusVerify_spares
  case cusStatus => exact .startOp fun _ _ k => writeAndSettle_spares k _ _ _ _ _
  case lookup => exact .next (withEntry_spares (.refl r s) _ _ _ fun _ _ _ _ k => lookupDone_spares k _ _ _)
  case grant rd wr => exact execGrant_spares rd wr
  case grantCommit => exact execGrantCommit_spares _
  case dirStatus => exact .startOp fun _ _ k => writeAndSettle_spares k _ _ _ _ _
  case keyRoot => exact execKeyRoot_spares
  case keyDerive => exact execKeyDerive_spares _
  case keyImport => exact execKeyImport_spares _
  case keyExport => exact execKeyExport_spares _ _
  case keyClose => exact execKeyClose_spares
  case keyInfo => exact execKeyInfo_spares _
  case keyPublic => exact execKeyPublic_spares _
  case encrypt => exact .next (cphOp_spares (.refl r s) _ _ _ _ fun _ _ _ _ k => cphOut_spares (drewIv_spares k _) _ _ _)
  case decrypt => exact .next (cphOp_spares (.refl r s) _ _ _ _ fun _ _ _ _ k => cphOut_spares k _ _ _)
  case mac => exact .next (cphOp_spares (.refl r s) _ _ _ _ fun _ _ _ _ k => cphOut_spares k _ _ _)
  case macVerify => exact execMacVerify_spares _
  case sealCcm => exact .next (cphOp_spares (.refl r s) _ _ _ _ fun _ _ _ _ k => cphOut_spares (drawn_spares (drewIv_spares k _) _) _ _ _)
  case openCcm => exact execOpenCcm_spares _ _
  case pkeVerify => exact execPkeVerify_spares _
  case pointCheck => exact execPointCheck_spares _
  case hash => exact execHash_spares _ _
  case random => exact execRandom_spares _
  case rngStatus => exact .startOp fun _ _ k => writeAndSettle_spares k _ _ _ _ _
  case stage => exact execStage_spares _ _
  case cfgWrite => exact execCfgWrite_spares _ _ _
  case updStatus => exact .startOp fun _ _ k => writeAndSettle_spares k _ _ _ _ _
  case faultRead => exact .startOp fun _ _ k => writeAndSettle_spares k _ _ _ _ _

/-- Settles O57. -/
theorem otherDescriptorsStand : Obligations.OtherDescriptorsStand := fun _ _ i g _ t hc hi hg hd ht => exec_spares hc t ht i g hi hg hd

end Sys2Proof.Machine

/-! What a command for one numbered thing leaves of its fellows: rings, counters, drives, lanes and noise sources. -/

namespace Sys2Proof.Machine

variable {s t : State} {i j : Nat}

/-! ### Numbered units in a list -/

theorem nth_modAt {α : Type} (d : α) (l : List α) (f : α → α) : nth d (modAt l i f) j = if i = j ∧ j < l.length then f (nth d l j) else nth d l j := by
  simp only [nth, List.getD_eq_getElem?_getD, modAt_getElem?]
  by_cases hij : i = j
  · by_cases hlt : j < l.length
    · simp [hij, hlt]
    · simp [hij, hlt]
  · simp [hij]

theorem nth_modAt_of_ne {α : Type} (d : α) (l : List α) (f : α → α) (h : j ≠ i) : nth d (modAt l i f) j = nth d l j := by
  rw [nth_modAt, if_neg fun hij => h hij.1.symm]

/-- A change of unit `i` of a part that has it. -/
theorem nth_modAt_same {α : Type} (d : α) (l : List α) (f : α → α) (h : i < l.length) : nth d (modAt l i f) i = f (nth d l i) := by
  rw [nth_modAt, if_pos ⟨rfl, h⟩]

theorem getDrive_modDrive_of_ne (f : Drive → Drive) (h : j ≠ i) : getDrive (modDrive i f s) j = getDrive s j := nth_modAt_of_ne _ _ f h

theorem getLane_modLane_of_ne (f : Lane → Lane) (h : j ≠ i) : getLane (modLane i f s) j = getLane s j := nth_modAt_of_ne _ _ f h

theorem getSource_modSource_of_ne (f : Source → Source) (h : j ≠ i) : getSource (modSource i f s) j = getSource s j := nth_modAt_of_ne _ _ f h

theorem getLane_of_sec (h : t.sec = s.sec) : getLane t j = getLane s j := by rw [getLane, getLane, h]

/-- A counter's new state, and the messages of its new events. -/
theorem putCnt_counter (c : Cnt) (s : State) : (putCnt i c s).clk.cnts = modAt s.clk.cnts i (fun _ => c) := by
  unfold putCnt
  have hmsgs : ∀ (l : List Nat) (t : State), (l.foldl (fun t _ => sendMsix 0 t.clk.cntVec.toNat t) t).clk.cnts = t.clk.cnts := by
    intro l
    induction l with
    | nil => exact fun _ => rfl
    | cons a l ih =>
      intro t
      rw [List.foldl_cons, ih]
      exact (sendMsix_frame (Frame.refl [.vecs, .outs] t) (within_refl _) 0 _).part .counters rfl
  exact hmsgs _ _

theorem putCnt_of_ne (c : Cnt) (h : j ≠ i) : nth {} (putCnt i c s).clk.cnts j = nth {} s.clk.cnts j := by
  rw [putCnt_counter, nth_modAt_of_ne _ _ _ h]

/-! ### Rings -/

@[simp] theorem getRing_emit (o : Out) : getRing (emit o s) j = getRing s j := rfl

@[simp] theorem getRing_rung : getRing (rung s) j = getRing s j := rfl

theorem getRing_modRing_of_ne (f : Ring → Ring) (h : j ≠ i) : getRing (modRing i f s) j = getRing s j := by
  rw [getRing_modRing, if_neg h]

theorem getRing_signalRing_of_ne (h : j ≠ i) : getRing (signalRing i s) j = getRing s j := by
  rw [signalRing, getRing_modRing_of_ne _ h, getRing_sendMsix]

theorem getRing_countForIrq_of_ne (n : Nat) (irq : Bool) (h : j ≠ i) : getRing (countForIrq i n irq s) j = getRing s j := by
  unfold countForIrq
  dsimp only
  repeat' split
  · exact getRing_signalRing_of_ne h
  · exact getRing_modRing_of_ne _ h
  · rfl

theorem getRing_stopRing_of_ne (err : BitVec 8) (h : j ≠ i) : getRing (stopRing i err s) j = getRing s j := by
  unfold stopRing
  dsimp only
  split
  · rw [getRing_sendMsix, getRing_modRing_of_ne _ h]
  · exact getRing_modRing_of_ne _ h

theorem getRing_ringHrPi_of_ne (v : BitVec 32) (h : j ≠ i) : getRing (ringHrPi i v s) j = getRing s j := by
  unfold ringHrPi
  repeat' split
  · exact getRing_modRing_of_ne _ h
  · exact getRing_stopRing_of_ne _ h
  · rfl

theorem getRing_ringTrCi_of_ne (v : BitVec 32) (h : j ≠ i) : getRing (ringTrCi i v s) j = getRing s j := by
  unfold ringTrCi
  repeat' split
  · rfl
  · rw [getRing_countForIrq_of_ne _ _ h, getRing_modRing_of_ne _ h]
  · exact getRing_stopRing_of_ne _ h

theorem execCompletionWrite_ring {g : Fin 4096} (h : j ≠ g.val) (ht : execCompletionWrite g s = .next t) : getRing t j = getRing s j := by
  cases ht
  dsimp only
  repeat' split
  · rw [getRing_countForIrq_of_ne _ _ h, getRing_modRing_of_ne _ h]
    rfl
  all_goals rfl

theorem execConsumerIndexWriteback_ring {g : Fin 4096} (h : j ≠ g.val) (ht : execConsumerIndexWriteback g s = .next t) : getRing t j = getRing s j := by
  cases ht
  dsimp only
  split
  · exact getRing_modRing_of_ne _ h
  · rfl

theorem execDescriptorReadFailed_ring {g : Fin 4096} (h : j ≠ g.val) (ht : execDescriptorReadFailed g s = .next t) : getRing t j = getRing s j := by
  cases ht
  dsimp only
  split
  · exact getRing_stopRing_of_ne _ h
  · rfl

theorem execTailraceWriteRefused_ring {g : Fin 4096} {w : Bool} (h : j ≠ g.val) (ht : execTailraceWriteRefused g w s = .next t) :
    getRing t j = getRing s j := by
  cases ht
  split
  · exact getRing_stopRing_of_ne _ h
  · rfl

theorem execRingDrained_ring {g : Fin 4096} (h : j ≠ g.val) (ht : execRingDrained g s = .next t) : getRing t j = getRing s j := by
  cases ht
  dsimp only
  split
  · exact getRing_recordRing_of_ne h _
  · rfl

/-- A doorbell acts on no ring but the one its tenancy and number name. -/
theorem doorbellRing_ringOf {func ten k g : Nat} (hd : doorbellRing s func ten k = some g) : ringOf s ten k = some g := by
  unfold doorbellRing at hd
  split at hd
  · exact hd
  · cases hd

theorem getRing_hrPiDoorbell_of_ne {func ten k : Nat} (v : BitVec 32) (h : ringOf s ten k ≠ some j) : getRing (hrPiDoorbell func ten k v s) j = getRing s j := by
  unfold hrPiDoorbell
  split
  · rfl
  next g hg =>
    have hne : j ≠ g := fun e => h (e ▸ doorbellRing_ringOf hg)
    split
    · exact getRing_ringHrPi_of_ne v hne
    · exact getRing_modRing_of_ne _ hne

theorem getRing_trCiDoorbell_of_ne {func ten k : Nat} (v : BitVec 32) (h : ringOf s ten k ≠ some j) : getRing (trCiDoorbell func ten k v s) j = getRing s j := by
  unfold trCiDoorbell
  split
  · rfl
  next g hg =>
    have hne : j ≠ g := fun e => h (e ▸ doorbellRing_ringOf hg)
    split
    · exact getRing_ringTrCi_of_ne v hne
    · exact getRing_modRing_of_ne _ hne

/-! ### Drives -/

theorem execNvmeLinkDown_drive {d i : Fin 4} (h : i ≠ d) (ht : execNvmeLinkDown d s = .next t) : getDrive t i = getDrive s i := by
  cases ht
  dsimp only
  split
  · repeat' split
    all_goals exact getDrive_modDrive_of_ne _ (Fin.val_ne_of_ne h)
  · rfl

theorem execNvmeLinkUp_drive {d i : Fin 4} (h : i ≠ d) (ht : execNvmeLinkUp d s = .next t) : getDrive t i = getDrive s i := by
  cases ht
  dsimp only
  split
  · exact getDrive_modDrive_of_ne _ (Fin.val_ne_of_ne h)
  · rfl

/-! ### Lanes and noise sources -/

/-- What is out of the security block changes no lane. -/
theorem getLane_frame {ps : List Part} (k : Frame ps s t) (hp : ps.contains .sec = false) : getLane t j = getLane s j := getLane_of_sec (k.sec hp)

theorem getSource_frame {ps : List Part} (k : Frame ps s t) (hp : ps.contains .sec = false) : getSource t j = getSource s j := by
  rw [getSource, getSource, k.sec hp]

theorem execLaneOverheat_lane {l i : Fin 20} (h : i ≠ l) (hst : (getLane s l.val).st ≠ .wake) (ht : execLaneOverheat l s = .next t) :
    getLane t i.val = getLane s i.val := by
  cases ht
  split
  · have hwake : ((getLane s l.val).st == .wake) = false := by simpa using hst
    rw [hwake]
    exact (getLane_frame (changeUnit_frame (.refl _ _) (within_refl _) ..) rfl).trans (getLane_modLane_of_ne _ (Fin.val_ne_of_ne h))
  · rfl

theorem execLaneCooled_lane {l i : Fin 20} {c : Int} (h : i ≠ l) (ht : execLaneCooled l c s = .next t) : getLane t i.val = getLane s i.val := by
  have hne := Fin.val_ne_of_ne h
  cases ht
  dsimp only
  split
  · rw [getLane_frame (backInService_frame (.refl _ _) (within_refl _) ..) rfl, getLane_modLane_of_ne _ hne, getLane_modLane_of_ne _ hne]
  · exact getLane_modLane_of_ne _ hne

theorem getSource_gather : getSource (gather s) j = getSource s j := rfl

theorem getSource_discardBlock : getSource (discardBlock i s) j = getSource s j := by
  unfold discardBlock
  dsimp only
  split
  · rfl
  · rfl

theorem getSource_rngEvent (n : Nat) : getSource (rngEvent n s) j = getSource s j := rfl

theorem getSource_judgeRng : getSource (judgeRng s) j = getSource s j := by
  unfold judgeRng
  repeat' split
  · rw [getSource_rngEvent, getSource_frame (fault_frame (.refl _ _) (within_refl _) ..) rfl]
    rfl
  all_goals rfl

theorem getSource_onlyIf (c : Bool) (f : State → State) (hf : ∀ t, getSource (f t) j = getSource t j) : getSource (onlyIf c f s) j = getSource s j := by
  unfold onlyIf
  split
  · exact hf s
  · rfl

theorem getSource_sourceFails_of_ne (cause : Nat) (h : j ≠ i) : getSource (sourceFails i cause s) j = getSource s j := by
  unfold sourceFails
  extract_lets x fails out marked noted told
  have htold : getSource told j = getSource s j := by
    rw [getSource_onlyIf out (rngEvent 1) fun _ => rfl, getSource_onlyIf _ (rngEvent 0) fun _ => rfl, getSource_modSource_of_ne _ h, getSource_discardBlock]
  split
  · rfl
  · rw [getSource_judgeRng]
    split
    · rw [getSource_frame (changeUnit_frame (.refl _ _) (within_refl _) ..) rfl, htold]
    · exact htold

theorem execRngSourceFailure_source {l i : Fin 4} {c : RngCause} (h : i ≠ l) (ht : execRngSourceFailure l c s = .next t) :
    getSource t i.val = getSource s i.val := by
  cases ht
  split
  · exact getSource_sourceFails_of_ne _ (Fin.val_ne_of_ne h)
  · rfl

theorem execSourceReturn_source {l i : Fin 4} (h : i ≠ l) (ht : execSourceReturn l s = .next t) : getSource t i.val = getSource s i.val := by
  cases ht
  dsimp only
  split
  · rw [getSource_frame (backInService_frame (.refl _ _) (within_refl _) ..) rfl, getSource_modSource_of_ne _ (Fin.val_ne_of_ne h)]
    rw [getSource_gather]
    exact (getSource_frame (elapseTo_frame (.refl _ s) (within_refl _) _) rfl)
  · rfl

/-! ### Counters -/

/-- The commands that set up the selected counter change that one alone. -/
theorem putCnt_selected {c : Bool} {new : Cnt} (h : j ≠ s.clk.cntSel.toNat)
    (ht : Host.Outcome.next (if c then putCnt s.clk.cntSel.toNat new s else s) = (.next t : Host.Outcome State Fault Refusal)) :
    nth {} t.clk.cnts j = nth {} s.clk.cnts j := by
  cases ht
  split
  · exact putCnt_of_ne new h
  · rfl

/-- Settles O58: one lemma for each command. -/
theorem fellowsStand : Obligations.FellowsStand := by
  refine ⟨fun g w i s t h ht => ?_, fun func ten j v i s t h ht => ?_, fun func v b i s t h ht => ?_, fun d i s t h ht => ?_,
    fun l i c s t h hst ht => ?_, fun l i c s t h ht => ?_⟩
  · rcases ht with ht | ht | ht | ht | ht
    · exact execCompletionWrite_ring h ht
    · exact execConsumerIndexWriteback_ring h ht
    · exact execDescriptorReadFailed_ring h ht
    · exact execTailraceWriteRefused_ring h ht
    · exact execRingDrained_ring h ht
  · rcases ht with ht | ht
    · cases ht
      exact getRing_hrPiDoorbell_of_ne v h
    · cases ht
      exact getRing_trCiDoorbell_of_ne v h
  · rcases ht with ht | ht | ht | ht <;> exact putCnt_selected h ht
  · rcases ht with ht | ht
    · exact execNvmeLinkDown_drive h ht
    · exact execNvmeLinkUp_drive h ht
  · rcases ht with ht | ht
    · exact execLaneOverheat_lane h hst ht
    · exact execLaneCooled_lane h ht
  · rcases ht with ht | ht
    · exact execRngSourceFailure_source h ht
    · exact execSourceReturn_source h ht

end Sys2Proof.Machine

/-! Supplies, rails and the enable groups. -/

namespace Sys2Proof.Machine

variable {s t : State}

/-! ### What the operations of this part leave alone -/

@[simp] theorem drivePins_pwr : (drivePins s).pwr = s.pwr := (drivePins_frame (.refl _ s) (within_refl _)).pwr rfl
@[simp] theorem drivePins_sys : (drivePins s).sys = s.sys := (drivePins_frame (.refl _ s) (within_refl _)).sys rfl
@[simp] theorem raiseDue_sys : (raiseDue s).sys = s.sys := (raiseDue_frame (.refl _ s) (within_refl _)).sys rfl
@[simp] theorem pickPair_sys (cold : Bool) : (pickPair cold s).sys = s.sys := (pickPair_frame (.refl _ s) (within_refl _) cold).sys rfl
@[simp] theorem pickPair_slk (cold : Bool) : (pickPair cold s).slk = s.slk := (pickPair_frame (.refl _ s) (within_refl _) cold).slk rfl
@[simp] theorem pickPair_sec (cold : Bool) : (pickPair cold s).sec = s.sec := (pickPair_frame (.refl _ s) (within_refl _) cold).sec rfl
@[simp] theorem pickPair_flt (cold : Bool) : (pickPair cold s).flt = s.flt := (pickPair_frame (.refl _ s) (within_refl _) cold).flt rfl
@[simp] theorem fault_pwr (ty : Nat) (ix : Nat) (code : Nat) (sev : Nat) (action : Nat) (detail : Nat) (arg : Nat) : (fault ty ix code sev action detail arg s).pwr = s.pwr := (fault_frame (.refl _ s) (within_refl _) ty ix code sev action detail arg).pwr rfl
@[simp] theorem fault_radio (ty : Nat) (ix : Nat) (code : Nat) (sev : Nat) (action : Nat) (detail : Nat) (arg : Nat) : (fault ty ix code sev action detail arg s).radio = s.radio := (fault_frame (.refl _ s) (within_refl _) ty ix code sev action detail arg).radio rfl
@[simp] theorem fault_slk (ty : Nat) (ix : Nat) (code : Nat) (sev : Nat) (action : Nat) (detail : Nat) (arg : Nat) : (fault ty ix code sev action detail arg s).slk = s.slk := (fault_frame (.refl _ s) (within_refl _) ty ix code sev action detail arg).slk rfl
@[simp] theorem lowerFrom_sys (g : Nat) : (lowerFrom g s).sys = s.sys := (lowerFrom_frame (.refl _ s) (within_refl _) g).sys rfl
@[simp] theorem linkDown_pwr : (linkDown s).pwr = s.pwr := (linkDown_frame (.refl _ s) (within_refl _)).pwr rfl
@[simp] theorem linkDown_sys : (linkDown s).sys = s.sys := (linkDown_frame (.refl _ s) (within_refl _)).sys rfl
@[simp] theorem fromRtc_pwr : (fromRtc s).pwr = s.pwr := (fromRtc_frame (.refl _ s) (within_refl _)).pwr rfl
@[simp] theorem fromRtc_sys : (fromRtc s).sys = s.sys := (fromRtc_frame (.refl _ s) (within_refl _)).sys rfl
@[simp] theorem drivesDrop_pwr : (drivesDrop s).pwr = s.pwr := (drivesDrop_frame (.refl _ s) (within_refl _)).pwr rfl
@[simp] theorem trainLink_sys : (trainLink s).sys = s.sys := (trainLink_frame (.refl _ s) (within_refl _)).sys rfl
@[simp] theorem writeFault_pwr (ty : Nat) (ix : Nat) (code : Nat) (sev : Nat) (action : Nat) (detail : Nat) (arg : Nat) : (writeFault ty ix code sev action detail arg s).pwr = s.pwr := (writeFault_frame (.refl _ s) (within_refl _) ty ix code sev action detail arg).pwr rfl
@[simp] theorem elapseTo_pwr (t0 : Nat) : (elapseTo t0 s).pwr = s.pwr := (elapseTo_frame (.refl _ s) (within_refl _) t0).pwr rfl
@[simp] theorem elapseTo_sys (t0 : Nat) : (elapseTo t0 s).sys = s.sys := (elapseTo_frame (.refl _ s) (within_refl _) t0).sys rfl

@[simp] theorem startPoll_pwr (k : PollKind) (n : Nat) (m : Nat) : (startPoll k n m s).pwr = s.pwr := (startPoll_frame (.refl _ s) (within_refl _) k n m).pwr rfl
@[simp] theorem startPresence_pwr : (startPresence s).pwr = s.pwr := (startPresence_frame (.refl _ s) (within_refl _)).pwr rfl
@[simp] theorem startLocate_pwr (n : Nat) (waits : Nat) (r : Nat) (f : Flight) : (startLocate n waits r f s).pwr = s.pwr := (startLocate_frame (.refl _ s) (within_refl _) n waits r f).pwr rfl
@[simp] theorem authFail_pwr (tid : Nat) (tcnt : Nat) : (authFail tid tcnt s).pwr = s.pwr := (authFail_frame (.refl _ s) (within_refl _) tid tcnt).pwr rfl
@[simp] theorem logPart_pwr (p : PartRec) : (logPart p s).pwr = s.pwr := (logPart_frame (.refl _ s) (within_refl _) p).pwr rfl
@[simp] theorem setTcnt_pwr (tid : Nat) (v : Nat) : (setTcnt tid v s).pwr = s.pwr := (setTcnt_frame (.refl _ s) (within_refl _) tid v).pwr rfl
@[simp] theorem sendBody_pwr (action : Nat) (source : Nat) (zone : Nat) : (sendBody action source zone s).pwr = s.pwr := (sendBody_frame (.refl _ s) (within_refl _) action source zone).pwr rfl
@[simp] theorem recordTcnt_pwr (tid : Nat) (v : Nat) : (recordTcnt tid v s).pwr = s.pwr := (recordTcnt_frame (.refl _ s) (within_refl _) tid v).pwr rfl
@[simp] theorem slicePowered_pwr : (slicePowered s).pwr = s.pwr := (slicePowered_frame (.refl _ s) (within_refl _)).pwr rfl
@[simp] theorem railLost_dir (rail : Nat) : (railLost rail s).dir = s.dir := (railLost_frame (.refl _ s) (within_refl _) rail).dir rfl
@[simp] theorem startRebuild_pwr : (startRebuild s).pwr = s.pwr := (startRebuild_frame (.refl _ s) (within_refl _)).pwr rfl

/-! ### A reset -/

/-- A reset of the blocks works on a state in which the host's descriptors stand queued again and the pins have fallen. -/
theorem resetBlocks_eq (cold : Bool) (s : State) : ∃ u, Frame [.sys, .flights, .vecs, .rings, .outs] s u ∧ resetBlocks cold s = { u with
    host := resetHost cold u.host, clk := resetClk cold u.clk, flt := resetFlt cold u.flt, sec := resetSec cold (monoUs s) u.sec
    slk := resetSlk u.slk, dir := dropChange (resetDir cold u.dir), radio := resetRadio cold u.radio, cap := {}
    nfc := resetNfc cold u.nfc, ifl := resetIfl (monoUs s) u.ifl, cus := resetCus u.cus, upd := resetUpd u.upd, pwr := resetPwr u.pwr
    sys := resetSys cold u.sys } := by
  unfold resetBlocks
  extract_lets now requeued pulled fallen
  have hf : Frame [.sys, .flights, .vecs, .rings, .outs] s fallen := by
    refine onlyIf_frame (each_frame (requeue_frame (.refl _ s) ?_) _ _ fun m _ k => onlyIf_frame k _ _ fun k => emit_frame k ?_ _) _ _
      fun k => emit_frame k ?_ _ <;> exact within_of rfl
  exact ⟨fallen, hf, rfl⟩

theorem resetBlocks_pwr (cold : Bool) (s : State) : (resetBlocks cold s).pwr = resetPwr s.pwr := by
  obtain ⟨u, hu, h⟩ := resetBlocks_eq cold s
  rw [h, ← hu.pwr rfl]

@[simp] theorem resetBlocks_ready (cold : Bool) (s : State) : (resetBlocks cold s).sys.ready = false := by
  obtain ⟨u, -, h⟩ := resetBlocks_eq cold s
  rw [h]
  rfl

@[simp] theorem coldReset_pwr (s : State) : (coldReset s).pwr = resetPwr s.pwr := resetBlocks_pwr true s

@[simp] theorem coldReset_ready (s : State) : (coldReset s).sys.ready = false := resetBlocks_ready true s

/-- A start-up leaves its cause in SYS_RESET_CAUSE. -/
@[simp] theorem startUp_sys (cause n : Nat) (s : State) : (startUp cause n s).sys = { s.sys with resetCause := BitVec.ofNat 4 cause } := by
  rw [startUp, raiseDue_sys]
  rfl

/-- A start-up begins in Cab, with its step in PWR_MODE and PMIC_EN0 high. -/
theorem startUp_pwr (cause n : Nat) (s : State) : ∃ e i, (startUp cause n s).pwr = { s.pwr with
    mode := .cab, start := if groupGood s 1 then .fusing else .rails, modeStart := BitVec.ofNat 8 n, en := e, enAt := i } ∧ e.getLsbD 0 = true := by
  have h0 : (startUp cause n s).pwr.en.getLsbD 0 = true := raiseDue_en0 _
  obtain ⟨e, i, h⟩ := raiseDue_pwr (modPwr (fun p => { p with
    mode := .cab, start := if groupGood s 1 then .fusing else .rails, modeStart := BitVec.ofNat 8 n })
    (modSys (fun b => { b with resetCause := BitVec.ofNat 4 cause }) s))
  have hpwr : (startUp cause n s).pwr = _ := h
  exact ⟨e, i, hpwr, by rw [hpwr] at h0; exact h0⟩

theorem execVaonGood_starts (h : s.pwr.vaon = false) : ∃ t, exec .vaonGood s = .next t ∧ t.pwr.vaon = true ∧ t.pwr.mode = .cab ∧
    t.pwr.en.getLsbD 0 = true ∧ t.sys.ready = false ∧ t.sys.resetCause = 1 ∧
    t.pwr.modeStart = (if s.pwr.aonLost then 5 else 1) := by
  have haon : (pickPair true (coldReset s)).pwr.aonLost = s.pwr.aonLost := by
    show (coldReset s).pwr.aonLost = _
    rw [coldReset_pwr]
    rfl
  refine ⟨_, rfl, ?_⟩
  simp only [h, Bool.false_eq_true, if_false, drivePins_pwr, drivePins_sys, startUp_sys, modPwr_pwr, modPwr_sys, haon, pickPair_sys, coldReset_ready]
  obtain ⟨e, i, hp, he⟩ := startUp_pwr 0x1 (if s.pwr.aonLost then 0x05 else 0x01) (modPwr (fun p => { p with vaon := true }) (pickPair true (coldReset s)))
  rw [hp]
  refine ⟨rfl, rfl, he, trivial, rfl, ?_⟩
  cases s.pwr.aonLost <;> rfl

theorem execVaonBrownOut_ends (h : s.pwr.vaon = true) : ∃ t, exec .vaonBrownOut s = .next t ∧ t.pwr.vaon = false ∧ t.pwr.start = .off ∧
    (∀ i, t.pwr.en.getLsbD i = false) ∧ t.sys.ready = false := by
  refine ⟨_, rfl, ?_⟩
  simp only [h, if_true, drivePins_pwr, drivePins_sys, modPwr_pwr, modPwr_sys, fromRtc_pwr, fromRtc_sys, lowerFrom_sys, linkDown_sys, coldReset_ready]
  exact ⟨trivial, trivial, fun i => by simp [lowerFrom_en], trivial⟩

/-- What a loss of the AON state leaves of the fields that keep through everything else (R25, R84). -/
theorem loseAon_fields (s : State) : (loseAon s).pwr.aonLost = true ∧ (loseAon s).slk.code = 0x3C ∧ (loseAon s).slk.comp = 0xC3 ∧
    (loseAon s).slk.cause = 0x0D ∧ (loseAon s).sec.starter = [] ∧ (loseAon s).clk.wallSet = false ∧
    (loseAon s).clk.ns = 1000 * (s.clk.ledgerUs + 1000000) ∧ (loseAon s).led = s.led := by
  simp -implicitDefEqProofs only [loseAon, modHost_led, modSlc_led, modSec_led, modFlt_led, modSlk_led, modPwr_led, modClk_led, modHost_pwr, modHost_slk, modHost_sec, modHost_clk, modSlc_pwr, modSlc_slk, modSlc_sec, modSlc_clk,
    modSec_pwr, modSec_slk, modSec_sec, modSec_clk, modFlt_pwr, modFlt_slk, modFlt_clk, modSlk_pwr, modSlk_slk, modSlk_clk,
    modPwr_pwr, modPwr_clk, modClk_clk, and_self]

theorem execAonLoss_loses (h : s.pwr.vaon = false) : ∃ t, exec .aonLoss s = .next t ∧ t.pwr.aonLost = true ∧ t.slk.code = 0x3C ∧
    t.slk.comp = 0xC3 ∧ t.slk.cause = 0x0D ∧ t.sec.starter = [] ∧ t.clk.wallSet = false ∧
    t.clk.ns = 1000 * (s.clk.ledgerUs + 1000000) ∧ t.led = s.led ∧ t.upd = s.upd := by
  have hloss := loseAon_frame (.refl _ s) (within_refl _)
  obtain ⟨haon, hcode, hcomp, hcause, hstarter, hwall, hns, hled⟩ := loseAon_fields s
  refine ⟨loseAon s, ?_, haon, hcode, hcomp, hcause, hstarter, hwall, hns, hled, hloss.upd rfl⟩
  show execAonLoss s = _
  simp [execAonLoss, h]

theorem execVkeepLow_pwr (mv : BitVec 12) (h : s.pwr.vaon = true) : ∃ t, exec (.vkeepLow mv) s = .next t ∧
    t.pwr = { s.pwr with vkeepMv := mv, vkeepLow := decide (mv.toNat < 2200) } := by
  refine ⟨_, rfl, ?_⟩
  rw [if_pos h]
  dsimp only
  split
  · rw [fault_pwr, modPwr_pwr]
  · rfl

@[simp] theorem railLost_pwr (rail : Nat) (s : State) : (railLost rail s).pwr = { s.pwr with
    railGood := s.pwr.railGood &&& ~~~ BitVec.ofNat 9 (2 ^ rail), railFault := setBits s.pwr.railFault rail } := by
  rw [railLost, fault_pwr, modPwr_pwr]

/-- A full reset starts up in Cab, with the rails that are good and without their faults. -/
theorem fullReset_pwr (cause : Nat) (s : State) : (fullReset cause s).pwr.mode = .cab ∧ (fullReset cause s).pwr.railFault = 0 ∧
    (fullReset cause s).pwr.railGood = s.pwr.railGood := by
  have hpair : ∀ u : State, (pickPair true u).pwr.railFault = u.pwr.railFault ∧ (pickPair true u).pwr.railGood = u.pwr.railGood := fun _ => ⟨rfl, rfl⟩
  obtain ⟨hfault, hgood⟩ := hpair (coldReset s)
  obtain ⟨e, i, h, -⟩ := startUp_pwr cause (if s.pwr.aonLost then 0x05 else 0x04) (pickPair true (coldReset s))
  rw [coldReset_pwr] at hfault hgood
  rw [fullReset, h]
  exact ⟨rfl, hfault, hgood⟩

theorem fullReset_sys (cause : Nat) (s : State) : (fullReset cause s).sys.ready = false ∧ (fullReset cause s).sys.resetCause = BitVec.ofNat 4 cause := by
  rw [fullReset, startUp_sys, pickPair_sys]
  exact ⟨coldReset_ready s, rfl⟩

theorem execVcoreBrownOut_resets (vsram : Bool) (hv : s.pwr.vaon = true) (he : s.pwr.en.getLsbD 1 = true) : ∃ t,
    exec (.vcoreBrownOut vsram) s = .next t ∧ t.sys.resetCause = 7 ∧ t.sys.ready = false ∧ t.pwr.mode = .cab ∧
    t.pwr.railFault.getLsbD (3 + ofBool vsram) = true ∧ t.pwr.railGood.getLsbD (3 + ofBool vsram) = false := by
  refine ⟨_, rfl, ?_⟩
  rw [if_pos (by rw [hv, he]; rfl)]
  dsimp only
  obtain ⟨hmode, hfault, hgood⟩ := fullReset_pwr 0x7 (modPwr (fun p => { p with
    railGood := p.railGood &&& ~~~ BitVec.ofNat 9 (2 ^ (3 + ofBool vsram)), enAt := monoUs s }) s)
  simp only [modPwr_pwr, modPwr_sys, fullReset_sys, hmode, hfault, hgood, true_and]
  cases vsram <;> simp [setBits_getLsbD, ofBool]

theorem execDramRailFault_loses (vddq : Bool) (h : s.pwr.railGood.getLsbD (7 + ofBool vddq) = true) : ∃ t,
    exec (.dramRailFault vddq) s = .next t ∧ t.dir = { s.dir with st := 0, pct := 0, table := [] } ∧
    t.pwr = { s.pwr with railGood := s.pwr.railGood &&& ~~~ BitVec.ofNat 9 (2 ^ (7 + ofBool vddq)),
                         railFault := setBits s.pwr.railFault (7 + ofBool vddq) } := by
  refine ⟨_, rfl, ?_⟩
  simp only [h, if_true, modDir_dir, modDir_pwr, railLost_pwr, railLost_dir, and_self]

theorem execPortRailFault_loses (rail : PortRail) (n : Nat) (hn : n = (match rail with | .vio33 => 0 | .vrf => 1 | .vlfdrv => 2))
    (h : s.pwr.railGood.getLsbD n = true) : exec (.portRailFault rail) s = .next (portsLost rail (railLost n s)) := by
  cases rail <;> cases hn <;> exact congrArg Host.Outcome.next (if_pos h)

theorem execLinkRailFault_loses (serdes : Bool) (h : s.pwr.railGood.getLsbD (5 + ofBool serdes) = true) : ∃ t,
    exec (.linkRailFault serdes) s = .next t ∧ linkUp t = false ∧
    t.pwr = { s.pwr with railGood := s.pwr.railGood &&& ~~~ BitVec.ofNat 9 (2 ^ (5 + ofBool serdes)),
                         railFault := setBits s.pwr.railFault (5 + ofBool serdes) } := by
  have hpwr : ∀ u : State, (drivesDrop (linkDown (onlyIf (!serdes) (coexPins false) (railLost (5 + ofBool serdes) u)))).pwr =
      (railLost (5 + ofBool serdes) u).pwr := fun u => by rw [drivesDrop_pwr, linkDown_pwr, coexLines_pwr]
  refine ⟨_, rfl, ?_⟩
  simp only [h, if_true, linkUp, hpwr, railLost_pwr, and_true]
  cases serdes <;> simp [ofBool]

theorem execRailGoodReturn_returns (rail : Fin 9) (he : s.pwr.en.getLsbD (railGroup rail.val) = true) (hs : s.pwr.start = .settled)
    (hg : s.pwr.railGood.getLsbD rail.val = false) : ∃ t, exec (.railGoodReturn rail) s = .next t ∧
    t.pwr = { s.pwr with railGood := setBits s.pwr.railGood rail.val } := by
  refine ⟨_, rfl, ?_⟩
  rw [if_pos (by rw [he, hs, hg]; rfl)]
  dsimp only
  split <;> simp only [startRebuild_pwr, trainLink_pwr, coexLines_pwr, writeFault_pwr, modPwr_pwr]

/-! ### Rails that stay good -/

theorem raiseEach_railGood (l : List Nat) (s : State) : (raiseEach l s).pwr.railGood = s.pwr.railGood := by
  obtain ⟨e, n, h⟩ := raiseEach_pwr s l
  rw [h]

theorem useSlice_railGood (s : State) : (useSlice s).pwr.railGood = s.pwr.railGood := by
  unfold useSlice onlyIf
  split
  · split
    · exact raiseEach_railGood [1] s
    · rfl
  · rfl

theorem noteSlice_railGood (cause : Nat) (s : State) : (noteSlice cause s).pwr.railGood = s.pwr.railGood := by
  unfold noteSlice
  split
  · exact useSlice_railGood s
  · rfl

theorem startHandle_railGood (z : Nat) (s : State) : (startHandle z s).pwr.railGood = s.pwr.railGood := by
  simp only [startHandle]
  split
  · rw [startPoll_pwr, noteSlice_railGood]
  · rw [modRadio_pwr, noteSlice_railGood]

theorem startApproach_railGood (s : State) : (startApproach s).pwr.railGood = s.pwr.railGood := by
  have hslice := useSlice_railGood (modRadio (fun b => { b with approachAt := monoUs s }) s)
  simp only [startApproach, onlyIf]
  split
  · rw [startPoll_pwr, modRadio_pwr, hslice, modRadio_pwr]
  · rw [modRadio_pwr, hslice, modRadio_pwr]

theorem nextPoll_railGood (s : State) : (nextPoll s).pwr.railGood = s.pwr.railGood := by
  unfold nextPoll
  extract_lets first
  clear_value first
  split
  · rfl
  · split
    · exact startHandle_railGood _ _
    · split
      · rw [startPresence_pwr]
      · split
        · exact startApproach_railGood s
        · split
          · rw [startLocate_pwr, modRadio_pwr]
          · rfl

theorem buttonPress_railGood (e : NearEntry) (tcnt btn : Nat) (s : State) : (buttonPress e tcnt btn s).pwr.railGood = s.pwr.railGood := by
  simp only [buttonPress]
  split
  · rw [sendBody_pwr]
    simp only [tokenSeen, modPwr_pwr, logPart_pwr, setTcnt_pwr]
  · rw [recordTcnt_pwr]

theorem buttonFrame_railGood (frame : TokenFrame) (s : State) : (buttonFrame frame s).pwr.railGood = s.pwr.railGood := by
  simp only [buttonFrame]
  split
  · rfl
  · repeat' split
    · rfl
    · rw [authFail_pwr]
    · exact buttonPress_railGood _ _ _ s

theorem sliceServes_railGood (s : State) : (sliceServes s).pwr.railGood = s.pwr.railGood := by
  unfold sliceServes
  extract_lets u
  have hu : u.pwr.railGood = s.pwr.railGood := by
    unfold u
    split
    · exact buttonFrame_railGood _ _
    · rfl
  rw [← hu]
  unfold onlyIf
  split
  · exact nextPoll_railGood u
  · rfl

theorem parkedGroupGood_railGood (g : Nat) (s : State) : (parkedGroupGood g s).pwr.railGood = s.pwr.railGood := by
  have hraise : (onlyIf s.pwr.ledgerDrain (raiseEach [2, 3]) s).pwr.railGood = s.pwr.railGood := by
    unfold onlyIf
    split
    · exact raiseEach_railGood _ s
    · rfl
  simp only [parkedGroupGood]
  rw [← hraise]
  generalize onlyIf s.pwr.ledgerDrain (raiseEach [2, 3]) s = u
  unfold onlyIf
  split
  · rw [sliceServes_railGood, slicePowered_pwr]
  · rfl

theorem groupGood_of_or {v m : BitVec 9} : (v ||| m) &&& m = m := by
  ext i hi
  simp
  tauto

theorem execEnableGroupGood_good (g : Fin 4) (he : s.pwr.en.getLsbD g.val = true) (hg : groupGood s g.val = false) : ∃ t,
    exec (.enableGroupGood g) s = .next t ∧ groupGood t g.val = true := by
  refine ⟨_, rfl, ?_⟩
  rw [if_pos (by rw [he, hg]; rfl)]
  extract_lets good u
  have hu : u.pwr.railGood = s.pwr.railGood ||| groupRails g.val := by
    unfold u
    rw [coexLines_pwr]
    rfl
  have key : ∀ t : State, t.pwr.railGood = u.pwr.railGood → groupGood t g.val = true := fun t ht => by
    rw [groupGood, ht, hu, groupGood_of_or, BEq.rfl]
  clear_value u
  repeat' split
  · exact key _ (parkedGroupGood_railGood g.val u)
  · exact key _ (by rw [trainLink_pwr, raiseHearth, raiseEach_railGood])
  · exact key _ rfl
  · exact key _ (raiseEach_railGood _ _)

theorem execEnableGroupTimeout_falls (g : Fin 4) (he : s.pwr.en.getLsbD g.val = true) (hg : groupGood s g.val = false) : ∃ t,
    exec (.enableGroupTimeout g) s = .next t ∧ t.pwr.railFault = s.pwr.railFault ||| groupRails g.val ∧
    (s.pwr.waking = true → t.pwr.mode = .dormant) ∧
    ∀ i, t.pwr.en.getLsbD i = (s.pwr.en.getLsbD i && decide (i < fallsFrom s g.val)) := by
  refine ⟨_, rfl, ?_⟩
  rw [if_pos (by rw [he, hg]; rfl)]
  extract_lets lowered faulted u
  have hen : ∀ i, lowered.pwr.en.getLsbD i = (s.pwr.en.getLsbD i && decide (i < fallsFrom s g.val)) := fun i => by
    rw [lowerFrom_en, elapseTo_pwr]
  obtain ⟨e, m, v, hlow⟩ := lowerFrom_pwr (elapseTo (s.pwr.enAt + 10000) s) (fallsFrom s g.val)
  have hlowered : lowered.pwr = { s.pwr with en := e, railGood := m, vcoreSet := v } := by rw [hlow, elapseTo_pwr]
  have hu : u.pwr = { s.pwr with en := e, railGood := m, vcoreSet := v, railFault := s.pwr.railFault ||| groupRails g.val } := by
    unfold u
    rw [fault_pwr, modPwr_pwr, hlowered]
  rw [hlowered] at hen
  clear_value u lowered faulted
  by_cases hw : s.pwr.waking = true
  · rw [if_pos (by rw [hu]; exact hw), modPwr_pwr, hu]
    exact ⟨rfl, fun _ => rfl, hen⟩
  · rw [if_neg (by rw [hu]; exact hw)]
    have ends : ∀ t : State, t.pwr.en = u.pwr.en → t.pwr.railFault = u.pwr.railFault → t.pwr.railFault = s.pwr.railFault ||| groupRails g.val ∧
        (s.pwr.waking = true → t.pwr.mode = .dormant) ∧ ∀ i, t.pwr.en.getLsbD i = (s.pwr.en.getLsbD i && decide (i < fallsFrom s g.val)) :=
      fun t ht hf => ⟨by rw [hf, hu], fun h => absurd h hw, fun i => by rw [ht, hu]; exact hen i⟩
    split
    · unfold onlyIf
      split
      · exact ends _ rfl rfl
      · exact ends _ rfl rfl
    · split
      · exact ends _ rfl rfl
      · exact ends _ rfl rfl

/-- Settles O4. -/
theorem suppliesAndRails : Obligations.SuppliesAndRails :=
  ⟨fun _ h => execVaonGood_starts h, fun _ h => execVaonBrownOut_ends h, fun _ => rfl, fun _ h => execAonLoss_loses h,
    fun mv _ h => execVkeepLow_pwr mv h, fun v _ hv he => execVcoreBrownOut_resets v hv he, fun v _ h => execDramRailFault_loses v h,
    fun rail n s hn h => ⟨execPortRailFault_loses rail n hn h, railLost_pwr n s⟩, fun v _ h => execLinkRailFault_loses v h,
    fun rail _ he hs hg => execRailGoodReturn_returns rail he hs hg, fun g _ he hg => execEnableGroupGood_good g he hg,
    fun g _ he hg => execEnableGroupTimeout_falls g he hg⟩

end Sys2Proof.Machine

/-! Start-up, resets and checkpoints. -/

namespace Sys2Proof.Machine

variable {s t : State}

@[simp] theorem raiseHearth_sys : (raiseHearth s).sys = s.sys := (raiseHearth_frame (.refl _ s) (within_refl _)).sys rfl
@[simp] theorem cntRateChange_pwr : (cntRateChange s).pwr = s.pwr := (cntRateChange_frame (.refl _ s) (within_refl _)).pwr rfl
@[simp] theorem cntRateChange_sys : (cntRateChange s).sys = s.sys := (cntRateChange_frame (.refl _ s) (within_refl _)).sys rfl
@[simp] theorem lowerEnable_sys (g : Nat) : (lowerEnable g s).sys = s.sys := (lowerEnable_frame (.refl _ s) (within_refl _) g).sys rfl
@[simp] theorem portsRefit_cfg (old : State) : (portsRefit old s).cfg = s.cfg := (portsRefit_frame (.refl _ s) (within_refl _) old).cfg rfl
@[simp] theorem portsRefit_sys (old : State) : (portsRefit old s).sys = s.sys := (portsRefit_frame (.refl _ s) (within_refl _) old).sys rfl
@[simp] theorem reportRecords_cfg : (reportRecords s).cfg = s.cfg := (reportRecords_frame (.refl _ s) (within_refl _)).cfg rfl
@[simp] theorem reportRecords_sys : (reportRecords s).sys = s.sys := (reportRecords_frame (.refl _ s) (within_refl _)).sys rfl
@[simp] theorem setVcore_cfg : (setVcore s).cfg = s.cfg := (setVcore_frame (.refl _ s) (within_refl _)).cfg rfl
@[simp] theorem setVcore_sys : (setVcore s).sys = s.sys := (setVcore_frame (.refl _ s) (within_refl _)).sys rfl
@[simp] theorem checkUnit_cfg (u : UnitName) : (checkUnit u s).cfg = s.cfg := (checkUnit_frame (.refl _ s) (within_refl _) u).cfg rfl
@[simp] theorem checkUnit_sys (u : UnitName) : (checkUnit u s).sys = s.sys := (checkUnit_frame (.refl _ s) (within_refl _) u).sys rfl
@[simp] theorem checkStarter_cfg : (checkStarter s).cfg = s.cfg := (checkStarter_frame (.refl _ s) (within_refl _)).cfg rfl
@[simp] theorem checkStarter_sys : (checkStarter s).sys = s.sys := (checkStarter_frame (.refl _ s) (within_refl _)).sys rfl
@[simp] theorem linksReleased_pwr : (linksReleased s).pwr = s.pwr := (linksReleased_frame (.refl _ s) (within_refl _)).pwr rfl
@[simp] theorem linksReleased_sys : (linksReleased s).sys = s.sys := (linksReleased_frame (.refl _ s) (within_refl _)).sys rfl
@[simp] theorem heldDoorbells_pwr : (heldDoorbells s).pwr = s.pwr := (heldDoorbells_frame (.refl _ s) (within_refl _)).pwr rfl
@[simp] theorem heldDoorbells_sys : (heldDoorbells s).sys = s.sys := (heldDoorbells_frame (.refl _ s) (within_refl _)).sys rfl
@[simp] theorem trialRelease_pwr : (trialRelease s).pwr = s.pwr := (trialRelease_frame (.refl _ s) (within_refl _)).pwr rfl
@[simp] theorem trialRelease_sys : (trialRelease s).sys = s.sys := (trialRelease_frame (.refl _ s) (within_refl _)).sys rfl
@[simp] theorem sendState_pwr : (sendState s).pwr = s.pwr := (sendState_frame (.refl _ s) (within_refl _)).pwr rfl
@[simp] theorem sendState_sys : (sendState s).sys = s.sys := (sendState_frame (.refl _ s) (within_refl _)).sys rfl
@[simp] theorem tamperRecord_pwr : (tamperRecord s).pwr = s.pwr := (tamperRecord_frame (.refl _ s) (within_refl _)).pwr rfl
@[simp] theorem tamperRecord_sys : (tamperRecord s).sys = s.sys := (tamperRecord_frame (.refl _ s) (within_refl _)).sys rfl
@[simp] theorem hearthRecord_pwr : (hearthRecord s).pwr = s.pwr := (hearthRecord_frame (.refl _ s) (within_refl _)).pwr rfl
@[simp] theorem hearthRecord_sys : (hearthRecord s).sys = s.sys := (hearthRecord_frame (.refl _ s) (within_refl _)).sys rfl
@[simp] theorem wakeLane_pwr : (wakeLane s).pwr = s.pwr := (wakeLane_frame (.refl _ s) (within_refl _)).pwr rfl
@[simp] theorem fabricDown_pwr : (fabricDown s).pwr = s.pwr := (fabricDown_frame (.refl _ s) (within_refl _)).pwr rfl
@[simp] theorem readersOff_pwr : (readersOff s).pwr = s.pwr := (readersOff_frame (.refl _ s) (within_refl _)).pwr rfl
@[simp] theorem elapseTo_flights (t0 : Nat) : (elapseTo t0 s).host.flights = s.host.flights := (elapseTo_frame (.refl _ s) (within_refl _) t0).flights rfl
@[simp] theorem elapseTo_led (t0 : Nat) : (elapseTo t0 s).led = s.led := (elapseTo_frame (.refl _ s) (within_refl _) t0).led rfl

/-- Whether the part runs on the RC oscillator is a field of the CLK block. -/
theorem Frame.onRc {ps : List Part} (h : Frame ps s t) (hp : ps.contains .clk = false) : t.clk.onRc = s.clk.onRc := by
  have k := congrArg Clk.onRc (h.part .clk hp)
  exact k

theorem resetBlocks_resetCause (cold : Bool) (s : State) : (resetBlocks cold s).sys.resetCause = s.sys.resetCause := by
  unfold resetBlocks
  extract_lets now requeued pulled fallen
  have hf : Frame [.outs] requeued fallen := by
    refine onlyIf_frame (each_frame (.refl _ requeued) _ _ fun m _ k => onlyIf_frame k _ _ fun k => emit_frame k ?_ _) _ _
      fun k => emit_frame k ?_ _ <;> exact within_of rfl
  exact (congrArg Sys.resetCause (hf.sys rfl) :)

/-! ### The fuse load -/

/-- The fuse load ends with the slot that Hearth ROM chose. -/
theorem execFuseLoadEnd_boots {b : Bool} {u : State} (hst : s.pwr.start = .fusing) (hg : groupGood s 2 = true)
    (hp : (s.pwr.aOut && s.pwr.bOut) = false) (hb : bootChoice s = (some b, u)) : exec .fuseLoadEnd s =
      .next { u with pwr := { u.pwr with start := .config }, upd := { u.upd with running := some b } } := by
  show execFuseLoadEnd s = _
  unfold execFuseLoadEnd
  rw [if_pos (by rw [hst, hg]; rfl), if_neg (by rw [hp]; nofun), hb]
  rfl

theorem enterHearth_start (cause : Nat) (s : State) : (enterHearth cause s).pwr.start = .settled := by
  have hraise (u : State) : (raiseHearth u).pwr.start = u.pwr.start := by
    obtain ⟨e, n, h⟩ := raiseEach_pwr u [0, 1, 2]
    rw [raiseHearth, h]
  simp only [enterHearth, trainLink_pwr, hraise, modUpd_pwr, modFlt_pwr, onlyIf]
  split
  · rw [cntRateChange_pwr, modPwr_pwr]
  · rfl

theorem enterHearth_running (cause : Nat) (s : State) : (enterHearth cause s).upd.running = none := by
  simp only [enterHearth, trainLink_upd, raiseHearth_upd, modUpd_upd]

theorem enterHearth_sys (cause : Nat) (s : State) : (enterHearth cause s).sys.ready = false ∧ (enterHearth cause s).sys.resetCause = s.sys.resetCause := by
  have hsys : (enterHearth cause s).sys = (resetBlocks false s).sys := by
    simp only [enterHearth, trainLink_sys, raiseHearth_sys, modUpd_sys, modFlt_sys, onlyIf]
    split
    · rw [cntRateChange_sys, modPwr_sys, lowerEnable_sys]
    · rw [modPwr_sys, lowerEnable_sys]
  rw [hsys]
  exact ⟨resetBlocks_ready false s, resetBlocks_resetCause false s⟩

/-- With no slot that Hearth ROM can boot, the fuse load ends in Hearth mode. -/
theorem execFuseLoadEnd_hearth {u : State} (hst : s.pwr.start = .fusing) (hg : groupGood s 2 = true)
    (hp : (s.pwr.aOut && s.pwr.bOut) = false) (hb : bootChoice s = (none, u)) : exec .fuseLoadEnd s = .next (enterHearth 2 u) := by
  show execFuseLoadEnd s = _
  unfold execFuseLoadEnd
  rw [if_pos (by rw [hst, hg]; rfl), if_neg (by rw [hp]; nofun), hb]

/-! ### The configuration load -/

/-- What each step of a run leaves as it is, the run leaves. -/
theorem each_same {α β : Type} (p : State → β) (l : List α) (f : α → State → State) (hf : ∀ a t, p (f a t) = p t) (s : State) :
    p (each l f s) = p s := by
  unfold each
  induction l generalizing s with
  | nil => rfl
  | cons a l ih => rw [List.foldl_cons, ih, hf]

theorem execConfigurationLoad_loads (bad : List UnitName) (hst : s.pwr.start = .config) (hg : groupGood s 3 = true) : ∃ t,
    exec (.configurationLoad bad) s = .next t ∧ t.pwr.start = .replay ∧ t.cfg = loadCfg (validRecs s) ∧
      t.sys.trailer = loadRole (validRecs s) := by
  refine ⟨_, rfl, ?_⟩
  rw [if_pos (by rw [hst, hg]; rfl)]
  extract_lets taken set
  have hcfg := each_same State.cfg bad checkUnit (fun a _ => checkUnit_cfg a) taken
  have hsys := each_same State.sys bad checkUnit (fun a _ => checkUnit_sys a) taken
  refine ⟨rfl, ?_, ?_⟩
  · rw [modPwr_cfg, checkStarter_cfg, setVcore_cfg, hcfg, reportRecords_cfg]
    exact portsRefit_cfg _
  · rw [modPwr_sys, checkStarter_sys, setVcore_sys, hsys, reportRecords_sys]
    exact congrArg Sys.trailer (portsRefit_sys _)

/-! ### Replay and the release -/

theorem afterRecords_start (s : State) : (afterRecords s).sys = s.sys ∧ (afterRecords s).pwr.mode = s.pwr.mode ∧
    (afterRecords s).pwr.start = s.pwr.start ∧ (afterRecords s).pwr.aonLost = s.pwr.aonLost := by
  have hrebuild (t : State) : (onlyIf (t.dir.st != 2) startRebuild t).sys = t.sys ∧ (onlyIf (t.dir.st != 2) startRebuild t).pwr = t.pwr := by
    unfold onlyIf
    split <;> exact ⟨rfl, rfl⟩
  simp only [afterRecords, lowBatteryAnew, modPwr_sys, modPwr_pwr, sendState_sys, sendState_pwr, hrebuild, heldDoorbells_sys,
    heldDoorbells_pwr, trialRelease_sys, trialRelease_pwr, linksReleased_sys, linksReleased_pwr, and_self]

/-- The release ends the start-up in Cab. -/
theorem release_released (s : State) : (release s).sys.ready = true ∧ (release s).pwr.mode = .cab ∧ (release s).pwr.start = .settled ∧
    (release s).pwr.aonLost = false := by
  obtain ⟨hsys, hmode, hstart, haon⟩ := afterRecords_start (tamperRecord (hearthRecord (releasing s)))
  have hrel : (releasing s).sys.ready = true ∧ (releasing s).pwr.mode = .cab ∧ (releasing s).pwr.start = .settled ∧
      (releasing s).pwr.aonLost = false := by
    unfold releasing
    extract_lets now a b c d e f
    rw [trainLink_sys, trainLink_pwr]
    exact ⟨rfl, rfl, rfl, rfl⟩
  rw [release_eq, hsys, hmode, hstart, haon, tamperRecord_sys, tamperRecord_pwr, hearthRecord_sys, hearthRecord_pwr]
  exact hrel

/-- A start-up recovered after AON loss without an asserted IGN pin stands in Parked. -/
theorem recoveredToParked_parked (s : State) : (recoveredToParked s).sys.ready = false ∧ (recoveredToParked s).pwr.mode = .parked ∧
    (recoveredToParked s).pwr.start = .settled ∧ (recoveredToParked s).pwr.aonLost = false := by
  have haon (t : State) : (lowerFrom 1 (wakeLane (fabricDown (fromRtc (readersOff t))))).pwr.aonLost = t.pwr.aonLost := by
    obtain ⟨e, m, v, h⟩ := lowerFrom_pwr (wakeLane (fabricDown (fromRtc (readersOff t)))) 1
    rw [h, wakeLane_pwr, fabricDown_pwr, fromRtc_pwr, readersOff_pwr]
  simp only [recoveredToParked, enterParked, lowBatteryAnew, modRadio_sys, modRadio_pwr, modPwr_sys, modPwr_pwr, cntRateChange_sys,
    cntRateChange_pwr, modSys_sys, modSys_pwr, haon, and_self]

/-- Replay changes nothing that tells whether the ignition is on. -/
theorem ignAsserted_replayed (a b : Bool) (s : State) : ignAsserted (replayed a b s) = ignAsserted s := by
  have k := replayed_frame a b s
  have hclk : (replayed a b s).clk.onRc = s.clk.onRc := k.onRc rfl
  simp only [ignAsserted, portUp, fitted, board, unitSt, clockServes, railServes, k.pwr rfl, k.cfg rfl, k.flt rfl, hclk]

theorem execLedgerReplay_of_good (a b : Bool) (hst : s.pwr.start = .replay) (h : ((a && !s.led.aFailed) || (b && !s.led.bFailed)) = true) :
    exec (.ledgerReplay a b) s = .next (if s.pwr.aonLost && !ignAsserted s then
      recoveredToParked (replayed (a && !s.led.aFailed) (b && !s.led.bFailed) s)
    else release (replayed (a && !s.led.aFailed) (b && !s.led.bFailed) s)) := by
  have hgood : ¬ (!(a && !s.led.aFailed) && !(b && !s.led.bFailed)) = true := by
    rw [← Bool.not_or, h]
    nofun
  refine (execLedgerReplay_eq a b s).trans ?_
  dsimp only
  rw [if_pos (by rw [hst]; rfl), if_neg hgood, ignAsserted_replayed, (replayed_frame _ _ s).pwr rfl]

theorem execLedgerReplay_of_bad (a b : Bool) (hst : s.pwr.start = .replay) (h : ((a && !s.led.aFailed) || (b && !s.led.bFailed)) = false) :
    exec (.ledgerReplay a b) s = .next (enterHearth 3 s) := by
  have hbad : (!(a && !s.led.aFailed) && !(b && !s.led.bFailed)) = true := by rw [← Bool.not_or, h, Bool.not_false]
  refine (execLedgerReplay_eq a b s).trans ?_
  dsimp only
  rw [if_pos (by rw [hst]; rfl), if_pos hbad]

/-! ### Resets -/

theorem startUp_railGood (cause n : Nat) (s : State) : (startUp cause n s).pwr.mode = .cab ∧ (startUp cause n s).pwr.railGood = s.pwr.railGood := by
  obtain ⟨e, i, h, -⟩ := startUp_pwr cause n s
  rw [h]
  exact ⟨rfl, rfl⟩

theorem execWarmReset_starts (flr : Bool) (hl : linkUp s = true) (hr : s.sys.ready = true) (hm : s.pwr.mode ≠ .hearth) : ∃ t,
    exec (.warmReset flr) s = .next t ∧ t.sys.ready = false ∧ t.sys.resetCause = (if flr then 4 else 3) ∧
      t.pwr.mode = .cab ∧ t.pwr.railGood = s.pwr.railGood := by
  refine ⟨_, rfl, ?_⟩
  have hpair (u : State) : (pickPair false u).pwr.railGood = u.pwr.railGood := rfl
  rw [if_pos hl, warmReset, if_neg hm, if_pos hr]
  dsimp only
  obtain ⟨hmode, hgood⟩ := startUp_railGood (if flr then 0x4 else 0x3) (pickPair false (resetBlocks false s)).pwr.modeStart.toNat
    (pickPair false (resetBlocks false s))
  rw [startUp_sys, pickPair_sys]
  refine ⟨resetBlocks_ready false s, ?_, hmode, ?_⟩
  · cases flr <;> rfl
  · rw [hgood, hpair, resetBlocks_pwr]
    rfl

theorem execWatchdogExpiry_hearth (h : s.sys.ready = true) :
    exec .watchdogExpiry s = .next (enterHearth 1 (modSys (fun b => { b with resetCause := 0x6 }) s)) := by
  show execWatchdogExpiry s = _
  unfold execWatchdogExpiry
  rw [if_pos (by rw [h]; rfl)]

/-! ### Checkpoints -/

theorem execCheckpoint_records (hw : working s = true) (hlog : canLog .checkpoint s = true) : ∃ t, exec .checkpoint s = .next t ∧
    t.host.rings = s.host.rings.map (fun e => (e.1, { e.2 with trCiRec := e.2.trCi })) ∧
    t.host.flights = s.host.flights ∧ t.pwr.ckptB = s.pwr.activeB ∧ t.led.lsn = s.led.lsn + 1 := by
  have hk := elapseTo_frame (.refl _ s) (within_refl _) s.pwr.checkpointAt
  refine ⟨_, rfl, ?_⟩
  rw [if_pos hw]
  extract_lets u
  have hlog' : canLog .checkpoint (modPwr (fun p => { p with checkpointAt := monoUs u + 1000 }) u) = true := by
    simpa only [canLog, ledgerUp, modPwr_led, u, elapseTo_led] using hlog
  rw [takeCheckpoint, if_pos hlog']
  refine ⟨?_, ?_, ?_, ?_⟩
  · exact congrArg (List.map _) (hk.rings rfl)
  · exact hk.flights rfl
  · exact (congrArg Pwr.activeB (hk.pwr rfl) :)
  · exact (congrArg (fun l : Ledger => l.lsn + 1) (hk.led rfl) :)

/-- Settles O5. -/
theorem startUpAndReset : Obligations.StartUpAndReset := by
  refine ⟨fun b s u hst hg hp hb => execFuseLoadEnd_boots hst hg hp hb, fun s u hst hg hp hb => ?_,
    fun bad s hst hg => execConfigurationLoad_loads bad hst hg, fun a b s hst h hi => ?_, fun a b s hst h hi => ?_, fun a b s hst h => ?_,
    fun flr s hl hr hm => execWarmReset_starts flr hl hr hm, fun s h => ?_, fun s hw hlog => execCheckpoint_records hw hlog⟩
  · exact ⟨_, execFuseLoadEnd_hearth hst hg hp hb, enterHearth_mode 2 u, enterHearth_start 2 u, enterHearth_hearthCause 2 u, enterHearth_running 2 u⟩
  · exact ⟨_, by rw [execLedgerReplay_of_good a b hst h, hi]; rfl, release_released _⟩
  · exact ⟨_, by rw [execLedgerReplay_of_good a b hst h, hi]; rfl, recoveredToParked_parked _⟩
  · exact ⟨_, execLedgerReplay_of_bad a b hst h, enterHearth_mode 3 s, enterHearth_hearthCause 3 s⟩
  · obtain ⟨hready, hcause⟩ := enterHearth_sys 1 (modSys (fun b => { b with resetCause := 0x6 }) s)
    exact ⟨_, execWatchdogExpiry_hearth h, enterHearth_mode 1 _, enterHearth_hearthCause 1 _, hcause, hready⟩

end Sys2Proof.Machine

/-! Parked entry and the modes of an awake part. -/

namespace Sys2Proof.Machine

variable {s t : State}

@[simp] theorem heldDoorbells_flights : (heldDoorbells s).host.flights = s.host.flights := (heldDoorbells_frame (.refl _ s) (within_refl _)).flights rfl
@[simp] theorem lockRequest_pwr (cause : Nat) (ten : Nat) (seq : Nat) : (lockRequest cause ten seq s).pwr = s.pwr := (lockRequest_frame (.refl _ s) (within_refl _) cause ten seq).pwr rfl
@[simp] theorem lockRequest_flights (cause : Nat) (ten : Nat) (seq : Nat) : (lockRequest cause ten seq s).host.flights = s.host.flights := (lockRequest_frame (.refl _ s) (within_refl _) cause ten seq).flights rfl
@[simp] theorem tryLog_pwr (k : LKind) : (tryLog k s).pwr = s.pwr := (tryLog_frame (.refl _ s) (within_refl _) k).pwr rfl
@[simp] theorem tryLog_flights (k : LKind) : (tryLog k s).host.flights = s.host.flights := (tryLog_frame (.refl _ s) (within_refl _) k).flights rfl
@[simp] theorem linksParked_pwr : (linksParked s).pwr = s.pwr := (linksParked_frame (.refl _ s) (within_refl _)).pwr rfl
@[simp] theorem wakeLane_dir : (wakeLane s).dir = s.dir := (wakeLane_frame (.refl _ s) (within_refl _)).dir rfl
@[simp] theorem shutDrive_pwr (done : BitVec 4) (d : Nat) : (shutDrive done d s).pwr = s.pwr := (shutDrive_frame (.refl _ s) (within_refl _) done d).pwr rfl
@[simp] theorem lowerFrom_dir (g : Nat) : (lowerFrom g s).dir = s.dir := (lowerFrom_frame (.refl _ s) (within_refl _) g).dir rfl
@[simp] theorem drivePri_dir (v : Bool) : (drivePri v s).dir = s.dir := (drivePri_frame (.refl _ s) (within_refl _) v).dir rfl
@[simp] theorem driveReq_dir (v : BitVec 2) : (driveReq v s).dir = s.dir := (driveReq_frame (.refl _ s) (within_refl _) v).dir rfl
@[simp] theorem cntRateChange_dir : (cntRateChange s).dir = s.dir := (cntRateChange_frame (.refl _ s) (within_refl _)).dir rfl
@[simp] theorem elapseTo_flt (t0 : Nat) : (elapseTo t0 s).flt = s.flt := (elapseTo_frame (.refl _ s) (within_refl _) t0).flt rfl

/-- The clock block as a whole. -/
theorem Frame.clk_eq {ps : List Part} (h : Frame ps s t) (htime : ps.contains .time = false) (hcnts : ps.contains .counters = false)
    (hclk : ps.contains .clk = false) (hled : ps.contains .led = false) : t.clk = s.clk := by
  have hrest : { t.clk with ns := 0, cnts := [], ledgerUs := 0 } = { s.clk with ns := 0, cnts := [], ledgerUs := 0 } := h.part .clk hclk
  calc t.clk = { { t.clk with ns := 0, cnts := [], ledgerUs := 0 } with ns := s.clk.ns, cnts := s.clk.cnts, ledgerUs := s.clk.ledgerUs } := by
        rw [← h.time htime, ← h.counters hcnts, ← (h.part .led hled).2]
    _ = s.clk := congrArg (fun c : Clk => { c with ns := s.clk.ns, cnts := s.clk.cnts, ledgerUs := s.clk.ledgerUs }) hrest

/-! ### Time up to a moment -/

theorem elapseToNs_ns (n : Nat) (s : State) : (elapseToNs n s).clk.ns = max s.clk.ns n := by
  unfold elapseToNs
  split
  · omega
  · rw [elapseNs_ns]
    omega

/-- Off the RTC's time, time passes to the µs named (R207). -/
theorem elapseTo_ns_of_awake (h : onRtc s = false) (q : Nat) : (elapseTo q s).clk.ns = max s.clk.ns (1000 * q) := by
  rw [elapseTo, h, if_neg (by nofun), elapseToNs_ns]

/-! ### Parked entry -/

theorem beginParking_of_cab (hm : s.pwr.mode = .cab) (hr : s.sys.ready = true) (hp : s.pwr.parking = .none) (hf : s.flt.pmicStuck = false) :
    beginParking s = modPwr (fun p => { p with parking := .draining, cabAfter := false }) s := if_pos ⟨hm, hr, hp, hf⟩

theorem execPwrParkReq_begins {func : Fin 64} (hreg : pfRegs s func = true) (hm : s.pwr.mode = .cab) (hr : s.sys.ready = true)
    (hp : s.pwr.parking = .none) (hf : s.flt.pmicStuck = false) :
    exec (.pwrParkReq func) s = .next { s with pwr := { s.pwr with parking := .draining, cabAfter := false } } := by
  show execPwrParkReq func s = _
  rw [execPwrParkReq, if_pos hreg, beginParking_of_cab hm hr hp hf]
  rfl

theorem execPwrParkReq_ignored (func : Fin 64) (hm : s.pwr.mode ≠ .cab) : exec (.pwrParkReq func) s = .next s := by
  have hstays : beginParking s = s := if_neg fun h => hm h.1
  show execPwrParkReq func s = _
  rw [execPwrParkReq, hstays, ite_self]

theorem execPwrParkCancel_abandons {func : Fin 64} (hreg : pfRegs s func = true) (hp : s.pwr.parking = .draining) : ∃ t,
    exec (.pwrParkCancel func) s = .next t ∧ t.pwr = { s.pwr with parking := .none } ∧ t.host.flights = s.host.flights := by
  refine ⟨_, rfl, ?_⟩
  rw [if_pos hreg, abandonParking, if_pos hp, heldDoorbells_pwr, heldDoorbells_flights]
  exact ⟨rfl, rfl⟩

theorem execParkedEntryIdle_begins (hr : s.sys.ready = true) (hv : s.pwr.vaon = true) (hm : s.pwr.mode = .cab) (hp : s.pwr.parking = .none)
    (hi : ignAsserted s = false) (hf : s.flt.pmicStuck = false) : ∃ t, exec .parkedEntryIdle s = .next t ∧
      t.pwr = { s.pwr with parking := .draining, cabAfter := false } ∧
      t.clk.ns = max s.clk.ns (1000 * (s.pwr.lastDoorbell + 600000000)) := by
  have hk := elapseTo_frame (.refl _ s) (within_refl _) (s.pwr.lastDoorbell + 600000000)
  have hawake : onRtc s = false := by simp [onRtc, hv, hm]
  refine ⟨_, rfl, ?_⟩
  rw [if_pos (by rw [hr, hm, hp, hi]; rfl), beginParking_of_cab (by rw [hk.pwr rfl, hm]) (by rw [hk.sys rfl, hr]) (by rw [hk.pwr rfl, hp])
    (by rw [hk.flt rfl, hf]), modPwr_pwr, modPwr_clk, hk.pwr rfl, elapseTo_ns_of_awake hawake]
  exact ⟨rfl, rfl⟩

theorem execParkedEntryDrained_shuts (hp : s.pwr.parking = .draining) (hd : drained s = true) : ∃ t, exec .parkedEntryDrained s = .next t ∧
    t.pwr.parking = .shutting ∧ t.pwr.mode = s.pwr.mode ∧ t.host.flights = s.host.flights := by
  have hcp : (takeCheckpoint s).pwr.mode = s.pwr.mode ∧ (takeCheckpoint s).host.flights = s.host.flights := by
    unfold takeCheckpoint
    split <;> exact ⟨rfl, rfl⟩
  refine ⟨_, rfl, ?_⟩
  rw [if_pos (by rw [hp, hd]; rfl)]
  dsimp only
  rw [modPwr_pwr, modPwr_host, lockRequest_pwr, lockRequest_flights, tryLog_pwr, tryLog_flights]
  exact ⟨rfl, hcp⟩

/-! ### Parked -/

/-- What a Parked entry leaves in the power block, with the blocks of the fabric down. -/
theorem enterParked_parked (s : State) : (enterParked s).pwr.mode = .parked ∧ (enterParked s).pwr.parking = .none ∧
    (enterParked s).pwr.dormHours = 0 ∧ (enterParked s).sys.ready = false ∧ (enterParked s).dir.st = 0 ∧
    ∀ i, (enterParked s).pwr.en.getLsbD i = (s.pwr.en.getLsbD i && decide (i < 1)) := by
  have hen : ∀ i, (lowerFrom 1 (wakeLane (fabricDown (fromRtc (readersOff s))))).pwr.en.getLsbD i = (s.pwr.en.getLsbD i && decide (i < 1)) :=
    fun i => by rw [lowerFrom_en, wakeLane_pwr, fabricDown_pwr, fromRtc_pwr, readersOff_pwr]
  have hdir : (fabricDown (fromRtc (readersOff s))).dir.st = 0 := by
    simp only [fabricDown]
    rw [drivePri_dir, driveReq_dir]
    rfl
  simp only [enterParked, lowBatteryAnew, modRadio_sys, modRadio_pwr, modRadio_dir, modPwr_sys, modPwr_pwr, modPwr_dir, cntRateChange_sys,
    cntRateChange_pwr, cntRateChange_dir, modSys_sys, modSys_pwr, modSys_dir, lowerFrom_dir, wakeLane_dir, hdir, hen, implies_true, and_self]

theorem execDriveShutdownComplete_parks (ok : BitVec 4) (hp : s.pwr.parking = .shutting) (hc : s.pwr.cabAfter = false) : ∃ t,
    exec (.driveShutdownComplete ok) s = .next t ∧ t.pwr.mode = .parked ∧ t.pwr.parking = .none ∧ t.pwr.dormHours = 0 ∧
    t.sys.ready = false ∧ t.dir.st = 0 ∧ (∀ i, t.pwr.en.getLsbD i = (s.pwr.en.getLsbD i && decide (i < 1))) := by
  refine ⟨_, rfl, ?_⟩
  have hpwr : (linksParked (linkDown (each (List.range 4) (shutDrive ok) s))).pwr = s.pwr := by
    rw [linksParked_pwr, linkDown_pwr, each_same State.pwr _ _ fun d _ => shutDrive_pwr ok d]
  have hparked := enterParked_parked (linksParked (linkDown (each (List.range 4) (shutDrive ok) s)))
  rw [hpwr] at hparked
  rw [if_pos hp, hc]
  exact hparked

/-! ### The end of Drive, of Service and of a debug unlock -/

theorem execDriveExit_ends {q : Nat} (hm : s.pwr.mode = .drive) (hq : s.pwr.driveQuiet = some q) (hs : driveStill (elapseTo q s) = true) : ∃ t,
    exec .driveExit s = .next t ∧ t.pwr.mode = .cab ∧ t.pwr.driveQuiet = none ∧ t.clk = (elapseTo q s).clk ∧
    t.pwr.pins = s.pwr.pins.map (fun x => if x.role = 2 then { x with since := monoUs t } else x) := by
  refine ⟨lowBatteryAnew (modPwr (fun p => { p with mode := .cab, driveQuiet := none }) (elapseTo q s)), ?_, ?_⟩
  · show execDriveExit s = _
    simp only [execDriveExit, hq, hm, hs, if_true]
  · refine ⟨rfl, rfl, rfl, ?_⟩
    have hmono : ∀ u : State, monoUs (lowBatteryAnew u) = monoUs u := fun _ => rfl
    rw [hmono]
    simp only [lowBatteryAnew, modPwr_pwr, elapseTo_pwr]

theorem enterDrive_mode (h : s.pwr.mode = .cab) : (enterDrive s).pwr.serviceEnd = s.pwr.serviceEnd ∧
    ((enterDrive s).pwr.mode = .cab ∨ (enterDrive s).pwr.mode = .drive) := by
  have habandon : (abandonParking s).pwr.serviceEnd = s.pwr.serviceEnd := by
    unfold abandonParking
    split
    · rw [heldDoorbells_pwr, modPwr_pwr]
    · rfl
  unfold enterDrive
  split
  · exact ⟨habandon, .inr rfl⟩
  · exact ⟨rfl, .inl h⟩

theorem modeWatch_mode (h : s.pwr.mode = .cab) : (modeWatch s).pwr.serviceEnd = s.pwr.serviceEnd ∧
    ((modeWatch s).pwr.mode = .cab ∨ (modeWatch s).pwr.mode = .drive) := by
  have hdrive : (onlyIf (turning s || roadFast s) enterDrive s).pwr.serviceEnd = s.pwr.serviceEnd ∧
      ((onlyIf (turning s || roadFast s) enterDrive s).pwr.mode = .cab ∨ (onlyIf (turning s || roadFast s) enterDrive s).pwr.mode = .drive) := by
    unfold onlyIf
    split
    · exact enterDrive_mode h
    · exact ⟨rfl, .inl h⟩
  simp only [modeWatch]
  split
  · exact hdrive
  · exact hdrive

/-- At the end of Service the part is in Cab, or in Drive where the vehicle moves. -/
theorem leaveService_mode (h : s.pwr.mode = .service) : (leaveService s).pwr.serviceEnd = none ∧
    ((leaveService s).pwr.mode = .cab ∨ (leaveService s).pwr.mode = .drive) := by
  rw [leaveService, if_pos h]
  exact modeWatch_mode rfl

theorem execServiceEnd_leaves {q : Nat} (hm : s.pwr.mode = .service) (hq : s.pwr.serviceEnd = some q) (hw : serviceWork s = false)
    (hd : s.flt.dbgLevel ≠ 2) : ∃ t, exec .serviceEnd s = .next t ∧ t.pwr.serviceEnd = none ∧ (t.pwr.mode = .cab ∨ t.pwr.mode = .drive) := by
  refine ⟨leaveService (elapseTo q s), ?_, leaveService_mode (by rw [elapseTo_pwr, hm])⟩
  show execServiceEnd s = _
  simp only [execServiceEnd, hq]
  rw [if_pos ⟨hm, hw, hd⟩]

theorem execDebugDurationEnd_closes (h : s.flt.dbgLevel ≠ 0) : ∃ t, exec .debugDurationEnd s = .next t ∧
    t.flt = { s.flt with dbgLevel := 0, dbgEnd := 0 } ∧ t.clk = (elapseTo s.flt.dbgEnd s).clk := by
  have hend (u : State) := endServiceIfDue_frame (.refl _ u) (within_refl _)
  refine ⟨_, rfl, ?_⟩
  rw [if_neg h, closeDebug]
  refine ⟨?_, (hend _).clk_eq rfl rfl rfl rfl⟩
  rw [(hend _).flt rfl, modFlt_flt, elapseTo_flt]

/-- Settles O6. -/
theorem parkedEntryAndModes : Obligations.ParkedEntryAndModes :=
  ⟨fun _ _ hreg hm hr hp hf => execPwrParkReq_begins hreg hm hr hp hf, fun func _ hm => execPwrParkReq_ignored func hm,
    fun _ _ hreg hp => execPwrParkCancel_abandons hreg hp, fun _ hr hv hm hp hi hf => execParkedEntryIdle_begins hr hv hm hp hi hf,
    fun _ hp hd => execParkedEntryDrained_shuts hp hd, fun ok _ hp hc => execDriveShutdownComplete_parks ok hp hc,
    fun _ _ hm hq hs => execDriveExit_ends hm hq hs, fun _ _ hm hq hw hd => execServiceEnd_leaves hm hq hw hd,
    fun _ h => execDebugDurationEnd_closes h⟩

end Sys2Proof.Machine

/-! Wake and dormancy. -/

namespace Sys2Proof.Machine

variable {s t : State}

@[simp] theorem ignTimer_pwr (was : Bool) : (ignTimer was s).pwr = s.pwr := (ignTimer_frame (.refl _ s) (within_refl _) was).pwr rfl
@[simp] theorem stopCarrier_pwr (p : Poll) : (stopCarrier p s).pwr = s.pwr := (stopCarrier_frame (.refl _ s) (within_refl _) p).pwr rfl

/-! ### WAKE pins and doors -/

theorem execWakePinCrossing_deglitches {pin : Fin 4} {above : Bool} (hup : portUp s pWake pin.val = true) (h3 : (getPin s pin.val).role ≠ 3)
    (h2 : (getPin s pin.val).role ≠ 2) (ha : (getPin s pin.val).above ≠ above) : ∃ t, exec (.wakePinCrossing pin above) s = .next t ∧
    t.pwr = { s.pwr with pins := modAt s.pwr.pins pin.val (fun y =>
                           { y with above := above, since := monoUs s, deglitch := y.role != 2 }) } := by
  refine ⟨_, rfl, ?_⟩
  have hc : (portUp s pWake pin.val && (getPin s pin.val).role != 3 && (getPin s pin.val).above != above) = true := by
    simpa [hup, ha] using h3
  rw [if_pos hc, if_neg h2, ignTimer_pwr]
  rfl

/-- The time read depends on the clock block, and on whether the part is on the RTC's time. -/
theorem monoUs_congr (hclk : t.clk = s.clk) (hv : t.pwr.vaon = s.pwr.vaon) (hm : t.pwr.mode = s.pwr.mode) : monoUs t = monoUs s := by
  unfold monoUs onRtc
  rw [hclk, hv, hm]

/-- On the RTC's time the time read does not depend on which of its modes the part is in. -/
theorem monoUs_of_onRtc (h : onRtc s = true) : monoUs s = max s.clk.rtcFrom (rtcUs s.clk.ns) := if_pos h

/-- A wake from Dormant: Parked with a 60 s window, and the first enable on its way up (R88, R90). -/
theorem wake_of_dormant (b : Nat) (hv : s.pwr.vaon = true) (hm : s.pwr.mode = .dormant) : (wake b s).pwr.mode = .parked ∧
    (wake b s).pwr.windowToken = false ∧ (wake b s).pwr.window = some (monoUs (wake b s) + 60000000) ∧
    (wake b s).pwr.wakeCause = setBits s.pwr.wakeCause b ∧ (wake b s).pwr.en.getLsbD 0 = true := by
  have hclk (u : State) : (raiseEnable 0 u).clk = u.clk := (raiseEnable_frame (.refl _ u) (within_refl _) 0).clk_eq rfl rfl rfl rfl
  unfold wake
  rw [if_neg (by rw [hv]; nofun), if_pos hm]
  extract_lets now woken
  obtain ⟨e, n, hp⟩ := raiseEnable_pwr (modRadio (fun r => { r with approachAt := now }) woken) 0
  have hrtc : onRtc s = true := by simp [onRtc, hm]
  have hmono : monoUs (lowBatteryAnew (raiseEnable 0 (modRadio (fun r => { r with approachAt := now }) woken))) = now := by
    rw [monoUs_of_onRtc (by simp [onRtc, lowBatteryAnew, hp, woken])]
    show max (raiseEnable 0 _).clk.rtcFrom (rtcUs (raiseEnable 0 _).clk.ns) = _
    rw [hclk]
    exact (monoUs_of_onRtc hrtc).symm
  rw [hmono]
  have hen : (raiseEnable 0 (modRadio (fun r => { r with approachAt := now }) woken)).pwr.en.getLsbD 0 = true := by simp [raiseEnable_en]
  simp only [lowBatteryAnew, modPwr_pwr, hp] at hen ⊢
  exact ⟨rfl, rfl, rfl, rfl, hen⟩

theorem execWakeEvent_wakes {pin : Fin 4} (hup : portUp s pWake pin.val = true) (hd : (getPin s pin.val).deglitch = true)
    (hrole : (getPin s pin.val).role = 0) (hon : asserted (getPin s pin.val) = true) (hmask : (getPin s pin.val).masked = false)
    (hv : s.pwr.vaon = true) (hm : s.pwr.mode = .dormant) : ∃ t, exec (.wakeEvent pin) s = .next t ∧ t.pwr.mode = .parked ∧
    t.pwr.windowToken = false ∧ t.pwr.window = some (monoUs t + 60000000) ∧
    t.pwr.wakeCause = setBits s.pwr.wakeCause pin.val ∧ t.pwr.en.getLsbD 0 = true := by
  have helapse := elapseTo_pwr ((getPin s pin.val).since + 1000) (s := s)
  have hwake := wake_of_dormant (s := modPin pin.val (fun y => { y with deglitch := false }) (elapseTo ((getPin s pin.val).since + 1000) s)) pin.val
    ((congrArg Pwr.vaon helapse).trans hv) ((congrArg Pwr.mode helapse).trans hm)
  have hcause : (modPin pin.val (fun y => { y with deglitch := false }) (elapseTo ((getPin s pin.val).since + 1000) s)).pwr.wakeCause = s.pwr.wakeCause :=
    (congrArg Pwr.wakeCause helapse :)
  rw [hcause] at hwake
  refine ⟨_, ?_, hwake⟩
  show execWakeEvent pin s = _
  unfold execWakeEvent
  have hign : ((getPin s pin.val).role == 1) = false := by rw [hrole]; rfl
  simp only [hup, hd, hon, hmask, hign, onlyIf, Bool.and_self, Bool.not_false, Bool.false_and, Bool.false_eq_true, if_true, if_false]
  have hvaon : (!(elapseTo ((getPin s pin.val).since + 1000) s).pwr.vaon) ≠ true := by rw [helapse, hv]; nofun
  exact (congrArg Host.Outcome.next ((if_neg hvaon).trans (if_pos ((congrArg Pwr.mode helapse).trans hm))) :)

theorem clearBit_getLsbD {n : Nat} (v : BitVec n) (g i : Nat) : (v &&& ~~~ BitVec.ofNat n (2 ^ g)).getLsbD i = (v.getLsbD i && !decide (i = g)) := by
  rw [BitVec.getLsbD_and, BitVec.getLsbD_not, oneBit_getLsbD]
  by_cases hi : i < n
  · simp only [hi, decide_true, Bool.true_and]
  · rw [BitVec.getLsbD_of_ge v i (not_lt.mp hi), Bool.false_and, Bool.false_and]

theorem execDsenseChange_takes {d : Fin 8} {high : Bool} (hup : portUp s pDsense d.val = true) (hne : s.pwr.dsense.getLsbD d.val ≠ high)
    (ht : doorTrigger d.val high s = false) : ∃ t, exec (.dsenseChange d high) s = .next t ∧
    (∀ i, t.pwr.dsense.getLsbD i = if i = d.val then high else s.pwr.dsense.getLsbD i) := by
  refine ⟨_, rfl, fun i => ?_⟩
  rw [if_pos (by rw [hup, Bool.true_and]; exact bne_iff_ne.mpr hne)]
  dsimp only
  have hquiet (f : Pwr → Pwr) (hf : (f s.pwr).passiveUnlock = s.pwr.passiveUnlock ∧ (f s.pwr).vaon = s.pwr.vaon ∧ (f s.pwr).mode = s.pwr.mode) :
      doorTrigger d.val high (modPwr f s) = false := by
    have hmono : monoUs (modPwr f s) = monoUs s := monoUs_congr rfl hf.2.1 hf.2.2
    rw [← ht, doorTrigger, doorTrigger, hmono, modPwr_pwr, modPwr_cfg, hf.1]
  rw [hquiet _ ⟨rfl, rfl, rfl⟩]
  have hd : d.val < 8 := d.isLt
  simp only [onlyIf, Bool.false_eq_true, if_false, modPwr_pwr]
  cases high
  · simp only [Bool.false_eq_true, if_false, clearBit_getLsbD]
    by_cases hi : i = d.val <;> simp [hi]
  · simp only [if_true, setBits_getLsbD]
    by_cases hi : i = d.val <;> simp [hi, hd]

/-! ### The Near list in Parked -/

theorem useSlice_pwr (s : State) : ∃ e n sl, (useSlice s).pwr = { s.pwr with en := e, enAt := n, slice := sl } := by
  have hraise : ∃ e n, (onlyIf s.pwr.slice.isNone powerSlice s).pwr = { s.pwr with en := e, enAt := n } := by
    unfold onlyIf
    split
    · exact raiseEach_pwr s [1]
    · exact ⟨s.pwr.en, s.pwr.enAt, rfl⟩
  obtain ⟨e, n, h⟩ := hraise
  unfold useSlice
  split
  · exact ⟨e, n, some (monoUs s), by rw [modPwr_pwr, h]⟩
  · exact ⟨s.pwr.en, s.pwr.enAt, s.pwr.slice, rfl⟩

theorem execNearListRestored_restores (hm : s.pwr.mode = .parked) (hs : s.pwr.start = .settled) (h0 : groupGood s 0 = true)
    (h1 : groupGood s 1 = true) (hn : s.radio.nearUsable = false) : ∃ t,
    exec .nearListRestored s = .next t ∧ t.radio.nearUsable = true ∧
    t.radio.near = latestTcnts s.radio.tcnts (if vaultOk s then s.radio.near else []) := by
  obtain ⟨e, n, sl, hp⟩ := useSlice_pwr s
  have hup : sliceUp (useSlice s) = true := by simpa [sliceUp, groupGood, hp, hm] using h1
  have hradio : (useSlice s).radio = s.radio := (useSlice_frame (.refl _ s) (within_refl _)).radio rfl
  refine ⟨_, rfl, ?_⟩
  rw [if_pos (by rw [hm, hs, h0, hn]; rfl)]
  simp only [hup, onlyIf, if_true, modRadio_radio, hradio, and_self]

/-! ### Dormancy -/

/-- A Dormant entry begun in Parked (R88, R89): its cause, no wake window and no poll. -/
theorem enterDormant_enters (cause : Nat) (bits : BitVec 12) (hm : s.pwr.mode = .parked) (hs : s.pwr.start = .settled)
    (hv : s.pwr.vaon = true) (hd : s.pwr.dorming = none) (hf : s.flt.pmicStuck = false) :
    (enterDormant cause bits s).pwr.mode = .parked ∧ (enterDormant cause bits s).pwr.window = none ∧
    (enterDormant cause bits s).pwr.dorming = some cause ∧ (enterDormant cause bits s).pwr.wakeCause = s.pwr.wakeCause ||| bits ∧
    (enterDormant cause bits s).radio.poll = none := by
  rw [enterDormant, if_pos ⟨hm, hs, hv, hd, hf⟩]
  extract_lets begun stopped quiet
  have hq : quiet.pwr = begun.pwr := by
    unfold quiet stopped onlyIf
    split
    · dsimp only
      split
      · rw [modIfl_pwr, stopCarrier_pwr]
      · rfl
    · rfl
  obtain ⟨e, n, sl, hp⟩ := useSlice_pwr quiet
  rw [modRadio_pwr, modRadio_radio, hp, hq]
  exact ⟨hm, rfl, rfl, rfl, rfl⟩

theorem execWakeWindowEnd_ends {q : Nat} (hw : s.pwr.window = some q) (hm : s.pwr.mode = .parked) (hs : s.pwr.start = .settled)
    (hv : s.pwr.vaon = true) (hf : s.flt.pmicStuck = false) (hd : s.pwr.dorming = none) : ∃ t, exec .wakeWindowEnd s = .next t ∧
    t.pwr.window = none ∧ t.pwr.mode = .parked ∧ t.pwr.dorming = (if s.pwr.windowToken then none else some 3) := by
  have hp := elapseTo_pwr q (s := s)
  obtain ⟨hmode, hwin, hcause, -, -⟩ := enterDormant_enters (s := elapseTo q s) 3 0 (by rw [hp, hm]) (by rw [hp, hs]) (by rw [hp, hv])
    (by rw [hp, hd]) (by rw [elapseTo_flt, hf])
  refine ⟨if (elapseTo q s).pwr.windowToken then modPwr (fun p => { p with window := none }) (elapseTo q s) else enterDormant 3 0 (elapseTo q s), ?_, ?_⟩
  · show execWakeWindowEnd s = _
    simp only [execWakeWindowEnd, hw]
    rw [if_pos ⟨hm, hs⟩]
  · rw [hp]
    split
    · rw [modPwr_pwr, hp]
      exact ⟨rfl, hm, hd⟩
    · exact ⟨hwin, hmode, hcause⟩

theorem execDormancyHour_counts (hm : s.pwr.mode = .parked) (hs : s.pwr.start = .settled) (hv : s.pwr.vaon = true)
    (hd : s.pwr.dormHours + 1 < 24 * s.pwr.dormDays) : ∃ t, exec .dormancyHour s = .next t ∧
    t.pwr = { s.pwr with dormHours := s.pwr.dormHours + 1, hourAt := s.pwr.hourAt + 3600000000 } := by
  refine ⟨_, rfl, ?_⟩
  rw [if_pos (by rw [hm, hs, hv]; rfl)]
  dsimp only
  rw [if_neg (by simp only [modPwr_pwr, elapseTo_pwr]; omega), modPwr_pwr, elapseTo_pwr]

theorem execDormancyHour_last (hm : s.pwr.mode = .parked) (hs : s.pwr.start = .settled) (hv : s.pwr.vaon = true)
    (hf : s.flt.pmicStuck = false) (hd : s.pwr.dorming = none) (hl : 24 * s.pwr.dormDays ≤ s.pwr.dormHours + 1) : ∃ t,
    exec .dormancyHour s = .next t ∧ t.pwr.dorming = some 1 ∧ t.radio.poll = none ∧ t.pwr.wakeCause = s.pwr.wakeCause ||| 0x400 := by
  refine ⟨_, rfl, ?_⟩
  rw [if_pos (by rw [hm, hs, hv]; rfl)]
  extract_lets u counted
  have hp : counted.pwr = { s.pwr with dormHours := s.pwr.dormHours + 1, hourAt := s.pwr.hourAt + 3600000000 } := by
    unfold counted
    rw [modPwr_pwr, elapseTo_pwr]
  have hflt : counted.flt = s.flt := elapseTo_flt _
  obtain ⟨-, -, hcause, hbits, hpoll⟩ := enterDormant_enters (s := counted) 1 0x400 (by rw [hp]; exact hm) (by rw [hp]; exact hs) (by rw [hp]; exact hv)
    (by rw [hp]; exact hd) (by rw [hflt, hf])
  rw [if_pos (by rw [hp]; exact hl)]
  exact ⟨hcause, hpoll, by rw [hbits, hp]⟩

theorem execLowBattery_dorms (hl : lowPins s ≠ []) (hf : s.flt.pmicStuck = false) (hm : s.pwr.mode = .parked) (hs : s.pwr.start = .settled)
    (hv : s.pwr.vaon = true) (hd : s.pwr.dorming = none) : ∃ t, exec .lowBattery s = .next t ∧ t.pwr.dorming = some 2 ∧
    t.radio.poll = none ∧ t.pwr.wakeCause = s.pwr.wakeCause ||| 0x200 := by
  obtain ⟨a, rest, hlow⟩ := List.exists_cons_of_ne_nil hl
  have hp := elapseTo_pwr (rest.foldl min a + 60000000) (s := s)
  obtain ⟨-, -, hcause, hbits, hpoll⟩ := enterDormant_enters (s := elapseTo (rest.foldl min a + 60000000) s) 2 0x200 (by rw [hp, hm]) (by rw [hp, hs])
    (by rw [hp, hv]) (by rw [hp, hd]) (by rw [elapseTo_flt, hf])
  refine ⟨enterDormant 2 0x200 (elapseTo (rest.foldl min a + 60000000) s), ?_, hcause, hpoll, by rw [hbits, hp]⟩
  show execLowBattery s = _
  simp only [execLowBattery, hlow, hf]
  rw [if_neg (by nofun), if_pos ⟨hm, hs, hv⟩]

/-! ### The alarm and the wake slice -/

theorem setBits_setBits {n : Nat} (v : BitVec n) (g : Nat) : setBits (setBits v g) g = setBits v g := by
  rw [setBits, setBits, BitVec.or_assoc, BitVec.or_self]

/-- Awake or in Parked, a wake changes nothing but a Dormant entry under way, which it ends. -/
theorem wake_pwr_of_awake (b : Nat) (hv : s.pwr.vaon = true) (hm : s.pwr.mode ≠ .dormant) (hb : setBits s.pwr.wakeCause b = s.pwr.wakeCause) :
    (wake b s).pwr = { s.pwr with dorming := if s.pwr.mode = .parked then none else s.pwr.dorming } := by
  unfold wake
  rw [if_neg (by rw [hv]; nofun), if_neg hm]
  by_cases hp : s.pwr.mode = .parked
  · rw [if_pos hp]
    rcases hd : s.pwr.dorming with _ | c
    · rw [if_neg (by simp), ← hd]
    · rw [if_pos (by simp [hp]), modPwr_pwr, hb]
  · rw [if_neg fun h => hp h.1, if_neg hp]

theorem execRtcAlarm_sets {q : Nat} (ha : s.pwr.alarmAt = some q) (hv : s.pwr.vaon = true) (hm : s.pwr.mode ≠ .dormant) : ∃ t,
    exec .rtcAlarm s = .next t ∧ t.pwr = { s.pwr with alarmAt := none, wakeCause := setBits s.pwr.wakeCause 5,
                                                      dorming := if s.pwr.mode = .parked then none else s.pwr.dorming } ∧
    t.clk = (elapseTo q s).clk := by
  have hwake (u : State) := wake_frame (.refl _ u) (within_refl _) 5
  refine ⟨wake 5 (modPwr (fun p => { p with alarmAt := none, wakeCause := setBits p.wakeCause 5 }) (elapseTo q s)), ?_, ?_,
    (hwake _).clk_eq rfl rfl rfl rfl⟩
  · show execRtcAlarm s = _
    simp only [execRtcAlarm, ha]
  · have hp := elapseTo_pwr q (s := s)
    rw [wake_pwr_of_awake 5 (by rw [modPwr_pwr, hp]; exact hv) (by rw [modPwr_pwr, hp]; exact hm) (setBits_setBits _ 5), modPwr_pwr, hp]

theorem execPwrAlarmS_sets (v : BitVec 32) (hr : regsUp s = true) (hl : s.sys.lockSetup = false) : exec (.pwrAlarmS 0 v) s =
    .next { s with pwr := { s.pwr with alarmAt := if v = 0 then none else some (monoUs s + 1000000 * v.toNat) } } := by
  show execPwrAlarmS 0 v s = _
  rw [execPwrAlarmS, if_pos (by rw [hr, hl]; rfl)]
  rfl

theorem execWakeSlicePowerDown_lowers {q : Nat} (hq : s.pwr.slice = some q) (hm : s.pwr.mode = .parked) (hs : s.pwr.start = .settled)
    (hd : s.pwr.dorming = none) : ∃ t, exec .wakeSlicePowerDown s = .next t ∧ t.pwr.slice = none ∧
    (∀ i, t.pwr.en.getLsbD i = (s.pwr.en.getLsbD i && !decide (i = 1))) := by
  refine ⟨modPwr (fun p => { p with slice := none }) (lowerEnable 1 (elapseTo (q + 2000000) s)), ?_, rfl, fun i => ?_⟩
  · show execWakeSlicePowerDown s = _
    simp only [execWakeSlicePowerDown, hq]
    rw [if_pos ⟨hm, hs, hd⟩]
  · rw [modPwr_pwr, lowerEnable_en, elapseTo_pwr]

/-- Settles O7. -/
theorem wakeAndDormancy : Obligations.WakeAndDormancy :=
  ⟨fun _ _ _ hup h3 h2 ha => execWakePinCrossing_deglitches hup h3 h2 ha,
    fun _ _ hup hd hrole hon hmask hv hm => execWakeEvent_wakes hup hd hrole hon hmask hv hm,
    fun _ hm hs h0 h1 hn => execNearListRestored_restores hm hs h0 h1 hn, fun _ _ hw hm hs hv hf hd => execWakeWindowEnd_ends hw hm hs hv hf hd,
    fun _ _ _ hup hne ht => execDsenseChange_takes hup hne ht, fun _ hm hs hv hd => execDormancyHour_counts hm hs hv hd,
    fun _ hm hs hv hf hd hl => execDormancyHour_last hm hs hv hf hd hl, fun _ hl hf hm hs hv hd => execLowBattery_dorms hl hf hm hs hv hd,
    fun _ _ ha hv hm => execRtcAlarm_sets ha hv hm, fun v _ hr hl => execPwrAlarmS_sets v hr hl,
    fun _ _ hq hm hs hd => execWakeSlicePowerDown_lowers hq hm hs hd⟩

end Sys2Proof.Machine

/-! The steward pairs, SRAM and stuck lines. -/

namespace Sys2Proof.Machine

variable {s t : State}

@[simp] theorem writeFault_radio (ty : Nat) (ix : Nat) (code : Nat) (sev : Nat) (action : Nat) (detail : Nat) (arg : Nat) : (writeFault ty ix code sev action detail arg s).radio = s.radio := (writeFault_frame (.refl _ s) (within_refl _) ty ix code sev action detail arg).radio rfl
@[simp] theorem settle_flt (r : Nat) (fr : FateRec) : (settle r fr s).flt = s.flt := (settle_frame (.refl _ s) (within_refl _) r fr).flt rfl
@[simp] theorem settle_pwr (r : Nat) (fr : FateRec) : (settle r fr s).pwr = s.pwr := (settle_frame (.refl _ s) (within_refl _) r fr).pwr rfl
@[simp] theorem laneTemps_pwr (die : Int) : (laneTemps die s).pwr = s.pwr := (laneTemps_frame (.refl _ s) (within_refl _) die).pwr rfl
@[simp] theorem tryLog_flt (k : LKind) : (tryLog k s).flt = s.flt := (tryLog_frame (.refl _ s) (within_refl _) k).flt rfl
@[simp] theorem pairRecord_pwr (b : Bool) (code : Nat) (sev : Nat) (action : Nat) : (pairRecord b code sev action s).pwr = s.pwr := (pairRecord_frame (.refl _ s) (within_refl _) b code sev action).pwr rfl
@[simp] theorem elapseTo_radio (t0 : Nat) : (elapseTo t0 s).radio = s.radio := (elapseTo_frame (.refl _ s) (within_refl _) t0).radio rfl

/-! ### What a record changes of the FLT block -/

/-- Writing a record changes the records, their number and the events of the FLT block alone. -/
theorem writeFault_flt_eq (ty ix code sev action detail arg : Nat) (s : State) : ∃ fs no ev,
    (writeFault ty ix code sev action detail arg s).flt = { s.flt with faults := fs, lastNo := no, events := ev } := by
  by_cases h : canLog (.fault (s.flt.lastNo + 1)) s = true
  · exact ⟨_, _, _, by rw [writeFault_flt h, withRecord_flt]⟩
  · exact ⟨s.flt.faults, s.flt.lastNo, s.flt.events, by rw [writeFault_of_not_canLog h]⟩

/-- A fault changes these, and the hits counted. -/
theorem fault_flt_eq (ty ix code sev action detail arg : Nat) (s : State) : ∃ fs no ev hs,
    (fault ty ix code sev action detail arg s).flt = { s.flt with faults := fs, lastNo := no, events := ev, hits := hs } := by
  obtain ⟨fs, no, ev, hw⟩ := writeFault_flt_eq ty ix code sev action detail arg s
  rw [fault_eq]
  split
  · exact ⟨s.flt.faults, s.flt.lastNo, s.flt.events, _, rfl⟩
  · exact ⟨fs, no, ev, _, by rw [countFault, modFlt_flt, hw]⟩

/-- A change of a unit's service state changes these, and the state of the unit. -/
theorem changeUnit_flt_eq (ty ix : Nat) (u : UnitSt) (code sev action detail arg : Nat) (s : State) : ∃ fs no ev hs us,
    (changeUnit ty ix u code sev action detail arg s).flt = { s.flt with faults := fs, lastNo := no, events := ev, hits := hs, units := us } := by
  obtain ⟨fs, no, ev, hw⟩ := writeFault_flt_eq ty ix code sev action detail arg (setUnit ty ix u s)
  exact ⟨fs, no, ev, _, _, by rw [changeUnit_eq, countFault, modFlt_flt, hw, setUnit_flt]⟩

/-! ### The steward pairs -/

theorem pairRecord_flt_eq (b : Bool) (code sev action : Nat) (s : State) : ∃ fs no ev hs,
    (pairRecord b code sev action s).flt = { s.flt with faults := fs, lastNo := no, events := ev, hits := hs } := by
  obtain ⟨fs, no, ev, hw⟩ := writeFault_flt_eq uPair (ofBool b) code sev action 0 0 s
  exact ⟨fs, no, ev, _, by rw [pairRecord, modFlt_flt, hw]⟩

theorem endPairTest_flt (result : Nat) (s : State) : (endPairTest result s).flt.takeovers = s.flt.takeovers ∧
    (endPairTest result s).flt.shadowOk = s.flt.shadowOk ∧ (endPairTest result s).pwr = s.pwr := by
  unfold endPairTest
  split
  · rw [settle_flt, settle_pwr]
    exact ⟨rfl, rfl, rfl⟩
  · exact ⟨rfl, rfl, rfl⟩

/-- The loss of the shadow pair ends its service, and neither changes the active pair nor counts a takeover. -/
theorem loseShadow_lost (b third : Bool) (s : State) : (loseShadow b third s).flt.shadowOk = false ∧
    (loseShadow b third s).flt.takeovers = s.flt.takeovers ∧ (loseShadow b third s).pwr.activeB = s.pwr.activeB := by
  simp only [loseShadow]
  generalize (if third then 0x04 else 0x02) = action
  obtain ⟨fs, no, ev, hs, hrec⟩ := pairRecord_flt_eq b 0x02 sDegraded action (modFlt (fun x => { x with shadowOk := false }) s)
  obtain ⟨htake, hok, hpwr⟩ := endPairTest_flt 2 (pairRecord b 0x02 sDegraded action (modFlt (fun x => { x with shadowOk := false }) s))
  rw [hrec] at htake hok
  rw [pairRecord_pwr] at hpwr
  split
  · rw [setPairOut, tryLog_flt, tryLog_pwr, modPwr_pwr, modPwr_flt, hpwr]
    refine ⟨hok, htake, ?_⟩
    split <;> rfl
  · rw [modPwr_pwr, modPwr_flt, hpwr]
    exact ⟨hok, htake, rfl⟩

/-- Without a handover or a trial a takeover loses the shadow, and no more (R23). -/
theorem execStewardTakeover_takes (cause : TakeoverCause) (hr : s.sys.ready = true) (hok : s.flt.shadowOk = true)
    (hh : s.upd.handover = .none) (ht : s.upd.trialSince = none) : ∃ t, exec (.stewardTakeover cause) s = .next t ∧
    t.pwr.activeB = !s.pwr.activeB ∧ t.flt.shadowOk = false ∧ t.flt.takeovers = s.flt.takeovers ++ [(s.pwr.activeB, monoUs s)] := by
  have htrial (u : State) (hu : u.upd = s.upd) : failoverTrial u = u := by simp only [failoverTrial, hu, hh, ht]
  refine ⟨_, rfl, ?_⟩
  rw [takeover, if_pos (by rw [hr, hok]; rfl)]
  extract_lets b moved counted
  have hmono : monoUs moved = monoUs s := monoUs_congr rfl rfl rfl
  rw [htrial _ (by rw [loseShadow_upd]; rfl)]
  obtain ⟨hlost, htake, hactive⟩ := loseShadow_lost b (decide (3 ≤ takeoversOf counted b)) counted
  refine ⟨hactive, hlost, htake.trans ?_⟩
  show s.flt.takeovers ++ [(b, monoUs moved)] = _
  rw [hmono]

theorem execPairSelfTestEnd_ends (pass : Bool) {b : Bool} (h : s.pwr.selfTest = some b) : ∃ t, exec (.pairSelfTestEnd pass) s = .next t ∧
    t.pwr.selfTest = none ∧ pairOut t b = (if pass then pairOut s b else true) := by
  refine ⟨if pass then pairRecord b 0x09 sInfo 0x09 (joinShadow (modPwr (fun p => { p with selfTest := none }) s))
    else pairFails b (modPwr (fun p => { p with selfTest := none }) s), ?_, ?_⟩
  · show execPairSelfTestEnd pass s = _
    simp only [execPairSelfTestEnd, h]
  · cases pass
    · simp only [Bool.false_eq_true, if_false, pairFails, setPairOut, tryLog_pwr, modPwr_pwr, pairRecord_pwr, modFlt_pwr, pairOut]
      cases b <;> exact ⟨rfl, rfl⟩
    · simp only [if_true, pairRecord_pwr, pairOut]
      cases b <;> exact ⟨rfl, rfl⟩

theorem execShadowTestSlice_counts (hb : s.flt.testBusy = true) (ht : s.flt.testType = uPair) (ho : s.flt.testOp.isSome = true)
    (hn : s.flt.testSlices + 1 ≠ 64) :
    exec (.shadowTestSlice true) s = .next { s with flt := { s.flt with testSlices := s.flt.testSlices + 1 } } := by
  show execShadowTestSlice true s = _
  rw [execShadowTestSlice, if_pos (by rw [hb, ht, ho]; rfl), if_pos rfl, if_neg hn]
  rfl

theorem execShadowTestSlice_ends {r : Nat} {f : Flight} (hb : s.flt.testBusy = true) (ht : s.flt.testType = uPair) (ho : s.flt.testOp = some r)
    (hn : s.flt.testSlices + 1 = 64) (hf : getFlight s r = some f) (hfate : f.fate = none) : ∃ t, exec (.shadowTestSlice true) s = .next t ∧
    Done r 0 t ∧ t.flt.testBusy = false ∧ t.flt.testOp = none := by
  refine ⟨settle r (done 0) (modFlt (fun b => { b with
      testBusy := false, testResult := 0, testSlices := 0, testOp := none, events := setBits b.events 7 }) s), ?_, ?_, ?_, ?_⟩
  · show execShadowTestSlice true s = _
    rw [execShadowTestSlice, if_pos (by rw [hb, ht, ho]; rfl), if_pos rfl, if_pos hn, endPairTest]
    simp only [ho]
  · exact settle_done (s := modFlt _ s) hf hfate 0
  · rw [settle_flt]
    rfl
  · rw [settle_flt]
    rfl

/-! ### SRAM -/

/-- What the repair of a row leaves of a bank's spare rows: one more in use, while there is one (R576). -/
theorem repairRow_rowsUsed {bank : Nat} (row : Nat) (h : tabGet 0 s.flt.rowsUsed bank < 8) :
    tabGet 0 (repairRow bank row s).flt.rowsUsed bank = tabGet 0 s.flt.rowsUsed bank + 1 := by
  rw [repairRow, if_pos h, tryLog_flt, modFlt_flt, tabGet_tabPut, if_pos rfl]

theorem repairCol_rowsUsed (bank row col : Nat) (s : State) : (repairCol bank row col s).flt.rowsUsed = s.flt.rowsUsed := by
  unfold repairCol
  dsimp only
  split
  · rw [tryLog_flt]
    rfl
  · obtain ⟨fs, no, ev, hs, us, h⟩ := changeUnit_flt_eq uSram bank .retired 0x02 sDegraded 0x04 0 row s
    rw [bankFails, h]

theorem execSramEccError_counts {bank : Nat} (row col : Nat) {u : State} (hb : bank < 64) (hup : unitSt s uSram bank = .up)
    (hu : u = modFlt (fun b => { b with sramErrs := b.sramErrs ++ [{ at_ := monoUs s, bank := bank, row := row, col := col }] }) s)
    (hrow : rowDue u bank row false = false) (hcol : colDue u bank col = false) : ∃ t,
    exec (.sramEccError bank row col false .none) s = .next t ∧ t.flt.sramErrs = u.flt.sramErrs ∧
    t.flt.rowsUsed = s.flt.rowsUsed ∧ t.flt.colsUsed = s.flt.colsUsed := by
  obtain ⟨fs, no, ev, hs, hf⟩ := fault_flt_eq uSram bank 0x01 sInfo 0x00 0 row u
  refine ⟨fault uSram bank 0x01 sInfo 0x00 0 row u, ?_, by rw [hf], by rw [hf, hu]; rfl, by rw [hf, hu]; rfl⟩
  show execSramEccError bank row col false .none s = _
  rw [execSramEccError, if_pos ⟨hb, hup⟩, ← hu]
  simp only [hrow, hcol, onlyIf, Bool.or_self, Bool.false_and, Bool.false_eq_true, if_false]

theorem execSramEccError_repairs {bank : Nat} (row col : Nat) (hb : bank < 64) (hup : unitSt s uSram bank = .up)
    (hused : tabGet 0 s.flt.rowsUsed bank < 8) : ∃ t, exec (.sramEccError bank row col true .none) s = .next t ∧
    tabGet 0 t.flt.rowsUsed bank = tabGet 0 s.flt.rowsUsed bank + 1 := by
  refine ⟨_, rfl, ?_⟩
  rw [if_pos ⟨hb, hup⟩]
  extract_lets noted byRow byCol code faulted repaired cols
  have hbyRow : byRow = true := rfl
  obtain ⟨fs, no, ev, hs, hf⟩ := fault_flt_eq uSram bank code (if byRow || byCol then sDegraded else sInfo) (if byRow || byCol then 0x03 else 0x00) 0 row noted
  have hfault : faulted.flt.rowsUsed = s.flt.rowsUsed := by
    unfold faulted
    rw [hf]
    rfl
  have hrepaired : tabGet 0 repaired.flt.rowsUsed bank = tabGet 0 s.flt.rowsUsed bank + 1 := by
    unfold repaired onlyIf
    rw [if_pos hbyRow, repairRow_rowsUsed row (by rwa [hfault]), hfault]
  have hcols : cols.flt.rowsUsed = repaired.flt.rowsUsed := by
    unfold cols onlyIf
    split
    · exact repairCol_rowsUsed bank row col repaired
    · rfl
  exact (congrArg (fun r => tabGet 0 r bank) hcols).trans hrepaired

/-! ### Stuck lines -/

theorem execWakeStuck_masks {pin : Fin 4} (hup : portUp s pWake pin.val = true) (ha : asserted (getPin s pin.val) = true)
    (hm : (getPin s pin.val).masked = false) (hr : (getPin s pin.val).role = 0) (hv : s.pwr.vaon = true) : ∃ t,
    exec (.wakeStuck pin) s = .next t ∧
    t.pwr = { s.pwr with pins := modAt s.pwr.pins pin.val (fun y => { y with masked := true }) } := by
  refine ⟨_, rfl, ?_⟩
  rw [if_pos (by rw [hup, ha, hm, hr, hv]; rfl)]
  dsimp only
  rw [ignTimer_pwr, fault_pwr, modPin, modPwr_pwr, elapseTo_pwr]

theorem execWakeUnmask_unmasks {pin : Fin 4} (hm : (getPin s pin.val).masked = true) (ha : asserted (getPin s pin.val) = false) : ∃ t,
    exec (.wakeUnmask pin) s = .next t ∧
    t.pwr = { s.pwr with pins := modAt s.pwr.pins pin.val (fun y => { y with masked := false }) } := by
  refine ⟨_, rfl, ?_⟩
  rw [if_pos (by rw [hm, ha]; rfl), writeFault_pwr, modPin, modPwr_pwr, elapseTo_pwr]

theorem execCoexGntStuck_notes {m : Fin 2} (hup : portUp s pCoex m = true) (hg : s.radio.coexGnt.getLsbD m = true)
    (hr : s.radio.coexReq.getLsbD m = false) (hs : s.flt.coexStuck.getLsbD m = false) : ∃ t, exec (.coexGntStuck m) s = .next t ∧
    t.flt.coexStuck = setBits s.flt.coexStuck m ∧ t.radio = s.radio := by
  obtain ⟨fs, no, ev, hs', hf⟩ := fault_flt_eq pCoex m 0x03 sInfo 0x00 0 0 (modFlt (fun b => { b with coexStuck := setBits b.coexStuck m }) s)
  refine ⟨_, rfl, ?_⟩
  rw [if_pos (by rw [hup, hg, hr, hs]; rfl), hf, fault_radio]
  exact ⟨rfl, rfl⟩

theorem execPmicRecoveryRetry_frees (hv : s.pwr.vaon = true) (hk : pmicKnown s = true) (hs : s.flt.pmicStuck = true) : ∃ t,
    exec (.pmicRecoveryRetry true) s = .next t ∧ t.flt.pmicStuck = false ∧ t.pwr = s.pwr := by
  refine ⟨_, rfl, ?_⟩
  rw [if_neg (by rw [hv, hk]; nofun), if_pos hs, if_pos rfl, writeFault_pwr]
  obtain ⟨fs, no, ev, hf⟩ := writeFault_flt_eq uPmic 0 0x09 sInfo 0x09 0 0 (modFlt (fun b => { b with pmicStuck := false })
    (modFlt (fun b => { b with pmicAt := monoUs (elapseTo (s.flt.pmicAt + 10000000) s) }) (elapseTo (s.flt.pmicAt + 10000000) s)))
  rw [hf]
  exact ⟨rfl, elapseTo_pwr _⟩

theorem execPmicRecoveryRetry_sticks (hv : s.pwr.vaon = true) (hk : pmicKnown s = true) (hs : s.flt.pmicStuck = false) : ∃ t,
    exec (.pmicRecoveryRetry false) s = .next t ∧ t.flt.pmicStuck = true ∧ t.pwr = { s.pwr with pmicFault := true } := by
  refine ⟨_, rfl, ?_⟩
  rw [if_neg (by rw [hv, hk]; nofun), if_neg (by rw [hs]; nofun), if_neg (by nofun), fault_pwr]
  obtain ⟨fs, no, ev, hs', hf⟩ := fault_flt_eq uPmic 0 0x03 sDegraded 0x01 0 0
    (modFlt (fun b => { b with pmicStuck := true, pmicAt := monoUs s }) (modPwr (fun p => { p with pmicFault := true }) s))
  rw [hf]
  exact ⟨rfl, rfl⟩

theorem execPmicIrqStuck_notes {low : Bool} (hv : s.pwr.vaon = true) (hne : s.flt.pmicIrqStuck ≠ low) : ∃ t,
    exec (.pmicIrqStuck low) s = .next t ∧ t.flt.pmicIrqStuck = low := by
  obtain ⟨fs, no, ev, hs, hf⟩ := fault_flt_eq uPmic 0 0x03 sInfo 0x05 0 0 (modFlt (fun b => { b with pmicIrqStuck := low }) s)
  obtain ⟨fs', no', ev', hw⟩ := writeFault_flt_eq uPmic 0 0x09 sInfo 0x09 0 0 (modFlt (fun b => { b with pmicIrqStuck := low }) s)
  refine ⟨_, rfl, ?_⟩
  rw [if_neg (by rw [hv]; simpa using hne)]
  dsimp only
  split
  · rw [hf]
    rfl
  · rw [hw]
    rfl

/-! ### The thermal governor -/

theorem setDieTemp_govLevel (temp : Int) (s : State) : (setDieTemp temp s).pwr.govLevel = s.pwr.govLevel := by
  unfold setDieTemp
  split <;> rfl

theorem execThermalGovernor_moves (temp : Int) (hr : s.sys.ready = true) : ∃ t, exec (.thermalGovernor temp) s = .next t ∧
    t.pwr.govLevel = nextLevel s.pwr.govLevel temp := by
  have hlevel : (laneTemps temp (setDieTemp temp s)).pwr.govLevel = s.pwr.govLevel := by rw [laneTemps_pwr, setDieTemp_govLevel]
  refine ⟨_, rfl, ?_⟩
  rw [if_pos hr]
  dsimp only
  split
  next h => rw [hlevel, ← hlevel, h, hlevel]
  next => rw [changeLevel, modPwr_pwr, hlevel]

/-- Settles O8. -/
theorem pairsAndLines : Obligations.PairsAndLines :=
  ⟨fun cause _ hr hok hh ht => execStewardTakeover_takes cause hr hok hh ht, fun pass _ _ h => execPairSelfTestEnd_ends pass h,
    fun _ hb ht ho hn => execShadowTestSlice_counts hb ht ho hn, fun _ _ _ hb ht ho hn hf hfate => execShadowTestSlice_ends hb ht ho hn hf hfate,
    fun _ row col _ _ hb hup hu hrow hcol => execSramEccError_counts row col hb hup hu hrow hcol,
    fun _ row col _ hb hup hused => execSramEccError_repairs row col hb hup hused,
    fun _ _ hup ha hm hr hv => execWakeStuck_masks hup ha hm hr hv, fun _ _ hm ha => execWakeUnmask_unmasks hm ha,
    fun _ _ hup hg hr hs => execCoexGntStuck_notes hup hg hr hs, fun _ hv hk hs => execPmicRecoveryRetry_frees hv hk hs,
    fun _ hv hk hs => execPmicRecoveryRetry_sticks hv hk hs, fun _ _ hv hne => execPmicIrqStuck_notes hv hne,
    fun temp _ hr => execThermalGovernor_moves temp hr⟩

end Sys2Proof.Machine

/-! Doorbells, completions and ring states. -/

namespace Sys2Proof.Machine

variable {s t : State} {g : Nat}

@[simp] theorem recordRing_flights (g : Nat) (f : Ring → Ring) : (recordRing g f s).host.flights = s.host.flights := (recordRing_frame (.refl _ s) (within_refl _) g f).flights rfl
@[simp] theorem signalRing_ns (g : Nat) : (signalRing g s).clk.ns = s.clk.ns := (signalRing_frame (.refl _ s) (within_refl _) g).time rfl

theorem getRing_modRing_same (f : Ring → Ring) : getRing (modRing g f s) g = f (getRing s g) := by
  rw [getRing_modRing, if_pos rfl]

/-! ### Doorbells -/

theorem getRing_ringHrPi_same (v : BitVec 32) (hst : (getRing s g).st = .running) :
    (hrPiValid (getRing s g) v = true → getRing (ringHrPi g v s) g = { getRing s g with hrPi := v }) ∧
    (hrPiValid (getRing s g) v = false → (getRing (ringHrPi g v s) g).st = .stopped ∧ (getRing (ringHrPi g v s) g).err = 0x01 ∧
      (getRing (ringHrPi g v s) g).hrPi = (getRing s g).hrPi) := by
  refine ⟨fun h => ?_, fun h => ?_⟩
  · rw [ringHrPi, if_pos hst, if_pos h, getRing_modRing_same]
  · rw [ringHrPi, if_pos hst, h, if_neg (by nofun), getRing_stopRing_of_running hst]
    exact ⟨rfl, rfl, rfl⟩

theorem execDoorbellHrPi_rings {func : Fin 64} {ten : Fin 1024} {j : Fin 64} (v : BitVec 32) (hd : doorbellRing s func ten j = some g)
    (hp : s.pwr.parking = .none) (hst : (getRing s g).st = .running) : ∃ t, exec (.doorbellHrPi func ten j v) s = .next t ∧
    (hrPiValid (getRing s g) v = true → getRing t g = { getRing s g with hrPi := v }) ∧
    (hrPiValid (getRing s g) v = false → (getRing t g).st = .stopped ∧ (getRing t g).err = 0x01 ∧ (getRing t g).hrPi = (getRing s g).hrPi) := by
  refine ⟨ringHrPi g v (rung s), ?_, getRing_ringHrPi_same (s := rung s) v hst⟩
  show execDoorbellHrPi func ten j v s = _
  simp only [execDoorbellHrPi, hrPiDoorbell, hd]
  rw [if_pos hp]

/-- Counting a completion changes nothing of its ring but the moderation. -/
theorem getRing_countForIrq_same (n : Nat) (irq : Bool) (s : State) : ∃ a m q,
    getRing (countForIrq g n irq s) g = { getRing s g with armed := a, modPend := m, modAt := q } := by
  unfold countForIrq
  dsimp only
  repeat' split
  · exact ⟨_, _, _, by rw [signalRing, getRing_modRing_same, getRing_sendMsix]⟩
  · exact ⟨(getRing s g).armed, _, _, getRing_modRing_same _⟩
  · exact ⟨(getRing s g).armed, (getRing s g).modPend, (getRing s g).modAt, rfl⟩

/-- A ring after a cause of STOPPED: the error code, the mute that goes with it, STOPPED where it was RUNNING, and every index as it was. -/
theorem getRing_stopRing_same (err : BitVec 8) : ∃ ls, getRing (stopRing g err s) g = wbMark (monoUs s) { getRing s g with
    err := err, mute := (getRing s g).mute || (err == 0x04 || err == 0x05), st := if (getRing s g).st = .running then .stopped else (getRing s g).st,
    peek := none, ledSt := ls } := by
  refine ⟨if (getRing s g).st = .running ∧ (getRing s g).ledSt = .running then .stopped else (getRing s g).ledSt, ?_⟩
  have hsend (c : Prop) [Decidable c] (func vec : Nat) (u : State) : getRing (if c then sendMsix func vec u else u) g = getRing u g := by
    split
    · exact getRing_sendMsix _ _ _
    · rfl
  exact (hsend _ _ _ _).trans (getRing_modRing_same _)

theorem execDoorbellTrCi_rings {func : Fin 64} {ten : Fin 1024} {j : Fin 64} (v : BitVec 32) (hd : doorbellRing s func ten j = some g)
    (hp : s.pwr.parking = .none) (hst : (getRing s g).st ≠ .disabled) : ∃ t, exec (.doorbellTrCi func ten j v) s = .next t ∧
    (trCiValid (getRing s g) v = true → (getRing t g).trCi = v ∧ (getRing t g).st = (getRing s g).st) ∧
    (trCiValid (getRing s g) v = false → (getRing t g).err = 0x02 ∧ (getRing t g).trCi = (getRing s g).trCi ∧
      ((getRing s g).st = .running → (getRing t g).st = .stopped)) := by
  refine ⟨ringTrCi g v (rung s), ?_, fun h => ?_, fun h => ?_⟩
  · show execDoorbellTrCi func ten j v s = _
    simp only [execDoorbellTrCi, trCiDoorbell, hd]
    rw [if_pos hp]
  · rw [ringTrCi, getRing_rung, if_neg hst, if_pos h]
    obtain ⟨a, m, q, hr⟩ := getRing_countForIrq_same (g := g) (waitingAt (getRing s g) v) false
      (modRing g (fun rg => { rg with trCi := v, armed := true, modPend := 0, modAt := none }) (rung s))
    rw [hr, getRing_modRing_same]
    exact ⟨rfl, rfl⟩
  · rw [ringTrCi, getRing_rung, if_neg hst, h, if_neg (by nofun)]
    obtain ⟨ls, hr⟩ := getRing_stopRing_same (s := rung s) (g := g) 0x02
    rw [hr]
    exact ⟨rfl, rfl, fun h => if_pos h⟩

/-! ### Completions and write-backs -/

/-- A message adds to what is put out. -/
theorem sendMsix_outs_append (func vec : Nat) (s : State) : ∃ m, (sendMsix func vec s).outs = s.outs ++ m := by
  unfold sendMsix
  split
  · split
    · exact ⟨_, rfl⟩
    · exact ⟨[], (List.append_nil _).symm⟩
  · exact ⟨[], (List.append_nil _).symm⟩

theorem countForIrq_outs_append (n : Nat) (irq : Bool) (s : State) : ∃ m, (countForIrq g n irq s).outs = s.outs ++ m := by
  unfold countForIrq
  dsimp only
  repeat' split
  · exact sendMsix_outs_append _ _ s
  · exact ⟨[], (List.append_nil _).symm⟩
  · exact ⟨[], (List.append_nil _).symm⟩

theorem execCompletionWrite_posts {g : Fin 4096} {r : Nat} {f : Flight} {fr : FateRec} (hp : canPost s g = true)
    (hne : (getRing s g).trWrite ≠ (getRing s g).trPi) (ho : slotOwner s g (getRing s g).trWrite = some (r, f)) (hf : f.fate = some fr)
    (hm : moverTurn s g (r, f) = true) : ∃ t,
    exec (.completionWrite g) s = .next t ∧ (getRing t g).trWrite = (getRing s g).trWrite + 1 ∧
    ∃ m, t.outs = s.outs ++ [
      .hostWrite (getRing s g).func ((getRing s g).setup.trBase.toNat + 32 * ((getRing s g).trWrite.toNat % trSize (getRing s g)))
        (completionBytes f fr f.posted !phaseOf (getRing s g) (getRing s g).trWrite),
      .hostWrite (getRing s g).func ((getRing s g).setup.trBase.toNat + 32 * ((getRing s g).trWrite.toNat % trSize (getRing s g)) + 18)
        (slice (completionBytes f fr f.posted (phaseOf (getRing s g) (getRing s g).trWrite)) 18 2)] ++ m := by
  have hnext : nextPost s g = some (r, f) := by
    rw [nextPost, if_pos (by rw [hp, Bool.true_and]; exact bne_iff_ne.mpr hne), ho]
    exact Option.filter_some_pos (by rw [hf]; rfl)
  have hexec (n : Nat) (hn : n = ofBool (!f.posted || decide (((getRing s g).trWrite - (getRing s g).trCi).toNat <
      ((getRing s g).trPi - (getRing s g).trCi).toNat))) : exec (.completionWrite g) s = .next (countForIrq g n (dIrq f.raw)
      (modRing g (fun x => { x with trWrite := x.trWrite + 1 }) (modFlight r (fun x => { x with posted := true }) (postWrites g f fr s)))) := by
    show execCompletionWrite g s = _
    simp only [execCompletionWrite, hnext, hf, hm, if_true, hn]
  refine ⟨_, hexec _ rfl, ?_, ?_⟩
  · obtain ⟨a, m, q, hr⟩ := getRing_countForIrq_same (g := g) (ofBool (!f.posted || decide (((getRing s g).trWrite - (getRing s g).trCi).toNat <
      ((getRing s g).trPi - (getRing s g).trCi).toNat))) (dIrq f.raw)
      (modRing g (fun x => { x with trWrite := x.trWrite + 1 }) (modFlight r (fun x => { x with posted := true }) (postWrites g f fr s)))
    rw [hr, getRing_modRing_same]
    rfl
  · obtain ⟨m, hm⟩ := countForIrq_outs_append (g := g) (ofBool (!f.posted || decide (((getRing s g).trWrite - (getRing s g).trCi).toNat <
      ((getRing s g).trPi - (getRing s g).trCi).toNat))) (dIrq f.raw)
      (modRing g (fun x => { x with trWrite := x.trWrite + 1 }) (modFlight r (fun x => { x with posted := true }) (postWrites g f fr s)))
    refine ⟨m, hm.trans (congrArg (· ++ m) ?_)⟩
    rw [modRing_outs, modFlight_outs, postWrites, emit_outs, emit_outs, List.append_assoc, List.singleton_append]

theorem execConsumerIndexWriteback_writes {g : Fin 4096} (hr : released s = true) (hd : (getRing s g).wbDue.isSome = true)
    (hm : (getRing s g).mute = false) : ∃ t, exec (.consumerIndexWriteback g) s = .next t ∧
    t.outs = s.outs ++ [Out.hostWrite (getRing s g).func (getRing s g).inForce.ciwb.toNat (writebackBytes (getRing s g))] ∧
    getRing t g = { getRing s g with wbDue := none } := by
  refine ⟨_, rfl, ?_⟩
  rw [if_pos (by rw [hr, hd, hm]; rfl), modRing_outs, emit_outs, getRing_modRing_same, getRing_emit]
  exact ⟨rfl, rfl⟩

/-! ### Failed accesses -/

theorem execTailraceWriteRefused_stops {g : Fin 4096} (wb : Bool) (hp : canPost s g = true) : ∃ t, exec (.tailraceWriteRefused g wb) s = .next t ∧
    (getRing t g).mute = true ∧ (getRing t g).err = (if wb then 0x05 else 0x04) ∧
    (getRing t g).st = (if (getRing s g).st = .running then .stopped else (getRing s g).st) := by
  obtain ⟨ls, hring⟩ := getRing_stopRing_same (s := s) (g := g) (if wb then 0x05 else 0x04)
  refine ⟨_, rfl, ?_⟩
  rw [if_pos hp, hring]
  refine ⟨?_, rfl, rfl⟩
  cases wb <;> exact Bool.or_true _

/-! ### Enables and disables -/

theorem getRing_recordRing_of_canLog (f : Ring → Ring) (h : canLog (.ringSet g) s = true) :
    getRing (recordRing g f s) g = { f (getRing s g) with ledSt := (f (getRing s g)).st } := by
  rw [recordRing, if_pos h, getRing_logRec, getRing_modRing_same]

theorem execRingEnable_answers {func : Fin 64} (hsel : selectedRing s func = some g) (hr : released s = true) (hst : (getRing s g).st = .disabled) :
    ∃ t, exec (.ringEnable func) s = .next t ∧
    (enableError s func (getFunc s func).selTen.toNat (getRing s g).setup = 0 → canLog (.ringSet g) s = true →
      getRing t g = { enabledRing func (getFunc s func).selTen.toNat (monoUs s) (getRing s g) with ledSt := .running }) ∧
    (enableError s func (getFunc s func).selTen.toNat (getRing s g).setup ≠ 0 →
      getRing t g = { getRing s g with err := enableError s func (getFunc s func).selTen.toNat (getRing s g).setup }) := by
  by_cases he : enableError s func (getFunc s func).selTen.toNat (getRing s g).setup = 0
  · refine ⟨_, exec_ringEnable_of_passed hsel hr hst he, fun _ hlog => ?_, fun hne => absurd he hne⟩
    rw [getRing_recordRing_of_canLog _ hlog]
    rfl
  · refine ⟨modRing g (fun rg => { rg with err := enableError s func (getFunc s func).selTen.toNat (getRing s g).setup }) s, ?_,
      fun h => absurd h he, fun _ => getRing_modRing_same _⟩
    show execRingEnable func s = _
    simp only [execRingEnable, hsel]
    rw [if_pos (by rw [hr, hst]; rfl), if_neg he]

theorem execRingDisable_drains {func : Fin 64} (hsel : selectedRing s func = some g) (hr : released s = true)
    (hst : (getRing s g).st = .running ∨ (getRing s g).st = .stopped) : ∃ t, exec (.ringDisable func) s = .next t ∧
    (getRing t g).st = .draining ∧ (canLog (.ringSet g) s = true → (getRing t g).trCiRec = (getRing s g).trCi) ∧ t.host.flights = s.host.flights := by
  refine ⟨recordRing g (fun rg => wbMark (monoUs s) { rg with st := .draining, recorded := rg.setup, trCiRec := rg.trCi, peek := none }) s, ?_, ?_,
    fun hlog => ?_, recordRing_flights _ _⟩
  · show execRingDisable func s = _
    simp only [execRingDisable, hsel, hr, if_true]
    rw [drainRing, if_pos hst]
  · obtain ⟨u, i, st, hring, -⟩ := getRing_recordRing_same (s := s) g
      (fun rg => wbMark (monoUs s) { rg with st := .draining, recorded := rg.setup, trCiRec := rg.trCi, peek := none })
    rw [hring]
    rfl
  · rw [getRing_recordRing_of_canLog _ hlog]
    rfl

theorem execRingDrained_disables {g : Fin 4096} (hst : (getRing s g).st = .draining) (hf : ringFated s g = true)
    (hw : (getRing s g).trWrite = (getRing s g).trPi) : ∃ t, exec (.ringDrained g) s = .next t ∧ (getRing t g).st = .disabled ∧
    t.host.flights = s.host.flights := by
  refine ⟨_, rfl, ?_⟩
  rw [if_pos (by rw [hst, hf, hw, BEq.rfl, BEq.rfl, Bool.or_true]; rfl)]
  obtain ⟨u, i, st, hring, -⟩ := getRing_recordRing_same (s := s) g (fun x => wbMark (monoUs s) { x with st := .disabled, trCiRec := x.trCi })
  rw [hring]
  exact ⟨rfl, recordRing_flights _ _⟩

theorem execModerationTimer_signals {g : Fin 4096} {q : Nat} (hq : (getRing s g).modAt = some q) (ha : (getRing s g).armed = true) : ∃ t,
    exec (.moderationTimer g) s = .next t ∧ (getRing t g).armed = false ∧ (getRing t g).modPend = 0 ∧ (getRing t g).modAt = none ∧
    t.clk.ns = (elapseTo q s).clk.ns := by
  refine ⟨signalRing g (elapseTo q s), ?_, ?_⟩
  · show execModerationTimer g s = _
    simp only [execModerationTimer, hq, ha, if_true]
  · rw [signalRing_ns, signalRing, getRing_modRing_same]
    exact ⟨rfl, rfl, rfl, rfl⟩

/-- Settles O9. -/
theorem ringCommands : Obligations.RingCommands := by
  refine ⟨fun _ _ _ v _ _ hd hp hst => execDoorbellHrPi_rings v hd hp hst, fun _ _ _ v _ _ hd hp hst => execDoorbellTrCi_rings v hd hp hst,
    fun _ _ _ _ _ hp hne ho hf hm => execCompletionWrite_posts hp hne ho hf hm, fun _ _ hr hd hm => execConsumerIndexWriteback_writes hr hd hm,
    fun g s hr hst hne => ?_, fun _ wb _ hp => execTailraceWriteRefused_stops wb hp, fun _ _ _ hsel hr hst => execRingEnable_answers hsel hr hst,
    fun _ _ _ hsel hr hst => execRingDisable_drains hsel hr hst, fun _ _ hst hf hw => execRingDrained_disables hst hf hw,
    fun _ _ _ hq ha => execModerationTimer_signals hq ha⟩
  rw [exec_descriptorReadFailed hr hst hne]
  exact ⟨_, rfl, by rw [getRing_stopRing_of_running hst]; exact ⟨rfl, rfl⟩⟩

end Sys2Proof.Machine

/-! Descriptors that begin and end: what the shared operations leave, read off once. -/

namespace Sys2Proof.Machine

variable {s t u : State} {r opc : Nat} {f g : Flight}

/-! ### A descriptor that has begun -/

/-- Beginning a descriptor touches the descriptors and the sluice's virtual time alone. -/
theorem started_frame (r : Nat) (s : State) : Frame [.flights, .run, .slc] s (started r s) :=
  modFlight_frame (noteV_frame (.refl _ s) (within_of rfl)) (within_of rfl) _ _

@[simp] theorem started_pwr (r : Nat) (s : State) : (started r s).pwr = s.pwr := rfl
@[simp] theorem started_sys (r : Nat) (s : State) : (started r s).sys = s.sys := rfl
@[simp] theorem started_led (r : Nat) (s : State) : (started r s).led = s.led := rfl
@[simp] theorem started_cfg (r : Nat) (s : State) : (started r s).cfg = s.cfg := rfl
@[simp] theorem started_flt (r : Nat) (s : State) : (started r s).flt = s.flt := rfl
@[simp] theorem started_sec (r : Nat) (s : State) : (started r s).sec = s.sec := rfl
@[simp] theorem started_slk (r : Nat) (s : State) : (started r s).slk = s.slk := rfl
@[simp] theorem started_dir (r : Nat) (s : State) : (started r s).dir = s.dir := rfl
@[simp] theorem started_radio (r : Nat) (s : State) : (started r s).radio = s.radio := rfl
@[simp] theorem started_cap (r : Nat) (s : State) : (started r s).cap = s.cap := rfl
@[simp] theorem started_ifl (r : Nat) (s : State) : (started r s).ifl = s.ifl := rfl
@[simp] theorem started_nfc (r : Nat) (s : State) : (started r s).nfc = s.nfc := rfl
@[simp] theorem started_cus (r : Nat) (s : State) : (started r s).cus = s.cus := rfl
@[simp] theorem started_upd (r : Nat) (s : State) : (started r s).upd = s.upd := rfl
@[simp] theorem started_free (r : Nat) (s : State) : (started r s).free = s.free := rfl
@[simp] theorem started_outs (r : Nat) (s : State) : (started r s).outs = s.outs := rfl
@[simp] theorem started_clk (r : Nat) (s : State) : (started r s).clk = s.clk := rfl

@[simp] theorem monoUs_started (r : Nat) (s : State) : monoUs (started r s) = monoUs s := rfl

/-- The fate of a descriptor that begins and ends at once. -/
theorem Ready.settle_ended (h : Ready opc r f s) (fr : FateRec) : Ended r fr.code fr.result fr.detail (settle r fr (started r s)) :=
  Machine.settle_ended h.begun h.noFate fr

theorem Ready.settle_done (h : Ready opc r f s) (v : Nat) : Done r v (settle r (done v) (started r s)) := h.settle_ended (done v)

/-- Writing out an answer: the bytes go to the host, and then the descriptor has its fate. -/
theorem writeAndSettle_true (i : Nat) (data : Bytes) (fr : FateRec) :
    writeAndSettle r f i data true fr s = settle r fr (culvertWrite f i data s) := if_pos rfl

theorem writeAndSettle_ended (hg : getFlight s r = some g) (hn : g.fate = none) (i : Nat) (data : Bytes) (fr : FateRec) :
    Ended r fr.code fr.result fr.detail (writeAndSettle r f i data true fr s) ∧
    (writeAndSettle r f i data true fr s).outs = s.outs ++ [.hostWrite (rangeOf f i).func (rangeOf f i).addr data] := by
  rw [writeAndSettle_true, settle_outs]
  exact ⟨Machine.settle_ended (s := culvertWrite f i data s) hg hn fr, rfl⟩

/-- An operation that begins, writes out its answer and is DONE. -/
theorem Ready.writes (h : Ready opc r f s) (i : Nat) (data : Bytes) (fr : FateRec) :
    Ended r fr.code fr.result fr.detail (writeAndSettle r f i data true fr (started r s)) ∧
    (writeAndSettle r f i data true fr (started r s)).outs = s.outs ++ [.hostWrite (rangeOf f i).func (rangeOf f i).addr data] :=
  writeAndSettle_ended h.begun h.noFate i data fr

end Sys2Proof.Machine

/-! The sluice and the SYS class. -/

namespace Sys2Proof.Machine

variable {s t u : State} {r opc : Nat} {f g : Flight}

@[simp] theorem chargeSlot_flights (t0 : Nat) (j : Nat) (raw : BitVec 512) : (chargeSlot t0 j raw s).host.flights = s.host.flights := (chargeSlot_frame (.refl _ s) (within_refl _) t0 j raw).flights rfl

/-! ### Acceptance -/

theorem Keeps.flight (k : Keeps s t) (h : getFlight s r = some f) : ∃ g, getFlight t r = some g ∧ sameAcceptance f g := by
  obtain ⟨g, hg, hsame, -⟩ := k.flights r f h
  exact ⟨g, hg, hsame⟩

/-- The accepted descriptor stands behind those accepted before it. -/
theorem acceptSlot_flights (ten ring : Nat) (f : Flight) (s : State) : (acceptSlot ten ring f s).host.flights = s.host.flights ++ [f] := by
  have hadmit (c : Bool) (b : Slk → Slk) (u : State) : (onlyIf c (modSlk b) u).host = u.host := by
    unfold onlyIf
    split <;> rfl
  have hcharge (u : State) : (takeCharge ten f.charge u).host = u.host := rfl
  have hring (f : Ring → Ring) (u : State) : (modRing ring f u).host.flights = u.host.flights := rfl
  rw [acceptSlot, hring, logRec_host, hadmit, hcharge, modHost_host]

theorem getFlight_acceptSlot (ten ring : Nat) (f : Flight) (s : State) : getFlight (acceptSlot ten ring f s) s.host.flights.length = some f := by
  rw [getFlight, acceptSlot_flights, List.getElem?_append_right le_rfl, Nat.sub_self]
  rfl

/-- What the slot chosen is accepted as, whatever the checks then say. -/
def AcceptedAs (u : State) (ten ring : Nat) (raw : BitVec 512) (f : Flight) : Prop :=
  f.raw = raw ∧ f.ten = ten ∧ f.ring = ring ∧ f.lsn = u.led.lsn + 1 ∧ f.epochAdm = u.slc.epoch ∧ f.tAdm = monoUs u

theorem AcceptedAs.keeps {ten ring : Nat} {raw : BitVec 512} (h : AcceptedAs u ten ring raw f) (k : Keeps s t) (hf : getFlight s r = some f) :
    ∃ g, getFlight t r = some g ∧ AcceptedAs u ten ring raw g := by
  obtain ⟨g, hg, hring, -, hten, -, -, hraw, -, -, htadm, hepoch, hlsn, -⟩ := k.flight hf
  obtain ⟨h1, h2, h3, h4, h5, h6⟩ := h
  exact ⟨g, hg, hraw.trans h1, hten.trans h2, hring.trans h3, hlsn.trans h4, hepoch.trans h5, htadm.trans h6⟩

theorem consume_accepts (ten j : Nat) (raw : BitVec 512) (u : State) : ∃ g, getFlight (consume ten j raw u) u.host.flights.length = some g ∧
    AcceptedAs u ten ((getTen u ten).ringBase + j) raw g := by
  have hat (f : Flight) (hf : AcceptedAs u ten ((getTen u ten).ringBase + j) raw f) :
      getFlight (acceptSlot ten ((getTen u ten).ringBase + j) f (chargeSlot ten j raw u)) u.host.flights.length = some f := by
    have h := getFlight_acceptSlot ten ((getTen u ten).ringBase + j) f (chargeSlot ten j raw u)
    rwa [chargeSlot_flights] at h
  have hnew (st : Nat) : AcceptedAs u ten ((getTen u ten).ringBase + j) raw (newFlight u ten ((getTen u ten).ringBase + j) st raw) :=
    ⟨rfl, rfl, rfl, rfl, rfl, rfl⟩
  unfold consume
  extract_lets g r st f v s1 d s2
  split
  · have hf : AcceptedAs u ten g raw { f with seqIndexed := false, dupOf := d } := hnew st
    split
    · split
      · exact hf.keeps (settleDups_keeps (.refl s2) _ _) (hat _ hf)
      · exact ⟨_, hat _ hf, hf⟩
    · exact ⟨_, hat _ hf, hf⟩
  · split
    · have hf : AcceptedAs u ten g raw { f with seqIndexed := false } := hnew st
      exact hf.keeps (settle_keeps (.refl _) _ _) (hat _ hf)
    · split
      · exact (hnew st).keeps (settle_keeps (.refl _) _ _) (hat _ (hnew st))
      · next l _ =>
        have hf : AcceptedAs u ten g raw { f with ranges := l, charge := chargeOf raw } := hnew st
        exact ⟨_, hat _ hf, hf⟩

/-- A descriptor that fails a check after its acceptance has its fate at once (R32, R161). -/
theorem settle_acceptSlot_ended {n : Nat} (ten ring : Nat) (fr : FateRec) (hn : f.fate = none) (hlen : n = s.host.flights.length) :
    Ended n fr.code fr.result fr.detail (settle n fr (acceptSlot ten ring f s)) := by
  subst hlen
  exact settle_ended (getFlight_acceptSlot ten ring f s) hn fr

/-- What becomes of the slot chosen, by its SEQ and the checks of its words. -/
theorem consume_fate (ten j : Nat) (raw : BitVec 512) (u : State) :
    (seqVerdict u ((getTen u ten).ringBase + j) (dSeq raw) = 1 → Ended u.host.flights.length fMalformed 0 0x05 (consume ten j raw u)) ∧
    (seqVerdict u ((getTen u ten).ringBase + j) (dSeq raw) = 3 → Ended u.host.flights.length fMalformed 0 0x06 (consume ten j raw u)) ∧
    (∀ code detail, seqVerdict u ((getTen u ten).ringBase + j) (dSeq raw) = 0 → admitChecks u ten raw = .inl (code, detail) →
      Ended u.host.flights.length code 0 detail (consume ten j raw u)) ∧
    (∀ l, seqVerdict u ((getTen u ten).ringBase + j) (dSeq raw) = 0 → admitChecks u ten raw = .inr l →
      ∃ f, getFlight (consume ten j raw u) u.host.flights.length = some f ∧ f.fate = none ∧ f.ranges = l) := by
  have hlen : u.host.flights.length = (chargeSlot ten j raw u).host.flights.length := by rw [chargeSlot_flights]
  refine ⟨fun hv => ?_, fun hv => ?_, fun code detail hv hc => ?_, fun l hv hc => ?_⟩
  · simp only [consume, hv]
    exact settle_acceptSlot_ended ten _ (failFate fMalformed 0x05) rfl hlen
  · simp only [consume, hv]
    exact settle_acceptSlot_ended ten _ (failFate fMalformed 0x06) rfl hlen
  · simp only [consume, hv, hc]
    exact settle_acceptSlot_ended ten _ (failFate code detail) rfl hlen
  · simp only [consume, hv, hc]
    have hat := getFlight_acceptSlot ten ((getTen u ten).ringBase + j) { newFlight u ten ((getTen u ten).ringBase + j)
      (stampOf (virtualNow u) (getRun u ten).finish (getTen u ten).weight raw).1 raw with ranges := l, charge := chargeOf raw } (chargeSlot ten j raw u)
    rw [← hlen] at hat
    exact ⟨_, hat, rfl, rfl⟩

/-- Reading the heads of the rings changes nothing that an acceptance looks at but those heads. -/
theorem takeHeads_same (heads : List HeadRead) (s : State) : (takeHeads heads s).host.flights = s.host.flights ∧
    (∀ ten, getTen (takeHeads heads s) ten = getTen s ten) ∧ (takeHeads heads s).led = s.led ∧
    (takeHeads heads s).slc.epoch = s.slc.epoch ∧ monoUs (takeHeads heads s) = monoUs s := by
  have k := takeHeads_frame (.refl _ s) (within_refl _) heads
  refine ⟨k.flights rfl, fun ten => ?_, k.led rfl, k.epoch rfl, ?_⟩
  · rw [getTen, getTen, k.tens rfl]
  · exact monoUs_congr (k.clk_eq rfl rfl rfl rfl) (by rw [k.pwr rfl]) (by rw [k.pwr rfl])

theorem execSlotConsume_accepts {heads : List HeadRead} {ten j : Nat} {raw : BitVec 512} (ha : admitting s = true) (hu : u = takeHeads heads s)
    (hc : choose (candidates u) = some (ten, j, raw)) : ∃ w, exec (.slotConsume heads) s = .next w ∧
    (∃ f, getFlight w s.host.flights.length = some f ∧ f.raw = raw ∧ f.ten = ten ∧ f.ring = (getTen s ten).ringBase + j ∧
      f.lsn = s.led.lsn + 1 ∧ f.epochAdm = s.slc.epoch ∧ f.tAdm = monoUs s) ∧
    (seqVerdict u ((getTen s ten).ringBase + j) (dSeq raw) = 1 → Ended s.host.flights.length fMalformed 0 0x05 w) ∧
    (seqVerdict u ((getTen s ten).ringBase + j) (dSeq raw) = 3 → Ended s.host.flights.length fMalformed 0 0x06 w) ∧
    (∀ code detail, seqVerdict u ((getTen s ten).ringBase + j) (dSeq raw) = 0 → admitChecks u ten raw = .inl (code, detail) →
      Ended s.host.flights.length code 0 detail w) ∧
    (∀ l, seqVerdict u ((getTen s ten).ringBase + j) (dSeq raw) = 0 → admitChecks u ten raw = .inr l →
      ∃ f, getFlight w s.host.flights.length = some f ∧ f.fate = none ∧ f.ranges = l) := by
  subst hu
  obtain ⟨hflights, hten, hled, hepoch, hmono⟩ := takeHeads_same heads s
  obtain ⟨g, hg, hraw, htn, hring, hlsn, hep, htadm⟩ := consume_accepts ten j raw (takeHeads heads s)
  have hfate := consume_fate ten j raw (takeHeads heads s)
  rw [hflights, hten] at hfate
  rw [hflights] at hg
  rw [hten] at hring
  rw [hled] at hlsn
  rw [hepoch] at hep
  rw [hmono] at htadm
  refine ⟨consume ten j raw (takeHeads heads s), ?_, ⟨g, hg, hraw, htn, hring, hlsn, hep, htadm⟩, hfate⟩
  show execSlotConsume heads s = _
  simp only [execSlotConsume, ha, hc, if_true]

/-! ### Class bounds -/

theorem getFlight_elapseTo (q : Nat) (s : State) : getFlight (elapseTo q s) r = getFlight s r := getFlight_of_host (elapseTo_flights q)

/-- A class bound that ends an operation, once its checks let it. -/
theorem execClassBoundExpiry_of_bound {n : Nat} (hf : getFlight s r = some f) (hn : f.fate = none) (hd : f.dupOf = none)
    (he : earlierFated s r f = true) (hw : working s = true) (hp : pastEnd s r = false) (hb : boundUs s f = some n) :
    exec (.classBoundExpiry r) s = .next (
      let u := elapseTo (boundStart s r f + n) s
      if !f.begun && !fenceHolds u r f then settle r (failFate fNotStarted 0x09) u
      else onlyIf ((dClass f.raw == 0x08 || dClass f.raw == 0x09) && !canDraw u) (keyEvent 5) (endOp r f (boundFate u r f) u)) := by
  show execClassBoundExpiry r s = _
  simp only [execClassBoundExpiry, hf]
  rw [if_neg (by simp [hn, hd, he, hw, hp])]
  simp only [hb]

theorem execClassBoundExpiry_notStarted {n : Nat} (hf : getFlight s r = some f) (hn : f.fate = none) (hd : f.dupOf = none)
    (he : earlierFated s r f = true) (hw : working s = true) (hp : pastEnd s r = false) (hb : boundUs s f = some n) (hbegun : f.begun = false)
    (hfence : fenceHolds (elapseTo (boundStart s r f + n) s) r f = false) : ∃ t, exec (.classBoundExpiry r) s = .next t ∧
    Ended r fNotStarted 0 0x09 t := by
  refine ⟨_, execClassBoundExpiry_of_bound hf hn hd he hw hp hb, ?_⟩
  dsimp only
  rw [if_pos (by rw [hbegun, hfence]; rfl)]
  exact settle_fail (by rw [getFlight_elapseTo, hf]) hn fNotStarted 0x09 0

/-- A signature check runs out with TIMEOUT (R143). -/
theorem execClassBoundExpiry_pkeVerify {n : Nat} (hf : getFlight s r = some f) (hn : f.fate = none) (hd : f.dupOf = none)
    (he : earlierFated s r f = true) (hw : working s = true) (hp : pastEnd s r = false) (hb : boundUs s f = some n) (hbegun : f.begun = true)
    (ho : dOpc f.raw = 0x0A00) (hc : dClass f.raw = 0x0A) : ∃ t, exec (.classBoundExpiry r) s = .next t ∧ Ended r fTimeout 0 0 t := by
  refine ⟨_, execClassBoundExpiry_of_bound hf hn hd he hw hp hb, ?_⟩
  have hfate (u : State) : boundFate u r f = failFate fTimeout 0 f.stage := by simp [boundFate, ho, hc]
  simp only [hbegun, hc, hfate, endOp, ho, onlyIf]
  exact settle_fail (by rw [getFlight_elapseTo, hf]) hn fTimeout 0 f.stage

/-! ### The SYS class -/

theorem execNop_done (h : Ready 0x0100 r f s) : ∃ t, exec (.nop r) s = .next t ∧ Done r 0 t :=
  ⟨_, congrArg Host.Outcome.next (startOp_ready h _), h.settle_done 0⟩

theorem execPing_done (h : Ready 0x0102 r f s) : ∃ t, exec (.ping r) s = .next t ∧ Done r (f.tAdm % 2 ^ 48) t :=
  ⟨_, congrArg Host.Outcome.next (startOp_ready h _), h.settle_done _⟩

theorem execFateInquiry_found {g : Nat} {x : Flight} (h : Ready 0x0101 r f s) (hu : u = started r s) (hr : fieldLE f.raw 24 2 < f.rules.ringCount)
    (hg : g = f.rules.ringBase + fieldLE f.raw 24 2) (hx : (dupWindow u g).find? (fun y => dSeq y.raw == fieldLE f.raw 32 8) = some x) : ∃ t,
    exec (.fateInquiry r true) s = .next t ∧ Done r (if x.fate.isSome then 1 else 2) t ∧ t.outs = s.outs ++
      [.hostWrite (rangeOf f 0).func (rangeOf f 0).addr (fateRecordBytes x)] := by
  subst hu hg
  refine ⟨_, congrArg Host.Outcome.next (startOp_ready h _), ?_⟩
  rw [if_neg (Nat.not_le.mpr hr)]
  simp only [hx]
  exact h.writes 0 (fateRecordBytes x) (done (if x.fate.isSome then 1 else 2))

theorem execFateInquiry_absent {g : Nat} (h : Ready 0x0101 r f s) (hu : u = started r s) (hr : fieldLE f.raw 24 2 < f.rules.ringCount)
    (hg : g = f.rules.ringBase + fieldLE f.raw 24 2) (hx : ∀ x ∈ seqIndexed u g, dSeq x.raw ≠ fieldLE f.raw 32 8) : ∃ t,
    exec (.fateInquiry r true) s = .next t ∧ Ended r fAbsent 0 0x20 t := by
  subst hu hg
  have hnone : (dupWindow (started r s) (f.rules.ringBase + fieldLE f.raw 24 2)).find? (fun y => dSeq y.raw == fieldLE f.raw 32 8) = none := by
    rw [List.find?_eq_none]
    exact fun x hm => by simpa using hx x (List.mem_of_mem_take hm)
  have hany : (seqIndexed (started r s) (f.rules.ringBase + fieldLE f.raw 24 2)).any (fun y => dSeq y.raw == fieldLE f.raw 32 8) = false := by
    rw [List.any_eq_false]
    exact fun x hm => by simpa using hx x hm
  refine ⟨_, congrArg Host.Outcome.next (startOp_ready h _), ?_⟩
  rw [if_neg (Nat.not_le.mpr hr)]
  simp only [hnone, hany]
  exact h.settle_ended (failFate fAbsent 0x20)

/-- Settles O10. -/
theorem sluiceAndSysClass : Obligations.SluiceAndSysClass :=
  ⟨fun _ _ _ _ _ _ ha hu hc => execSlotConsume_accepts ha hu hc,
    fun _ _ _ _ hf hn hd he hw hp hb hbegun hfence => execClassBoundExpiry_notStarted hf hn hd he hw hp hb hbegun hfence,
    fun _ _ _ _ hf hn hd he hw hp hb hbegun ho hc => execClassBoundExpiry_pkeVerify hf hn hd he hw hp hb hbegun ho hc,
    fun _ _ _ h => execNop_done h, fun _ _ _ h => execPing_done h, fun _ _ _ _ _ _ h hu hr hg hx => execFateInquiry_found h hu hr hg hx,
    fun _ _ _ _ _ h hu hr hg hx => execFateInquiry_absent h hu hr hg hx⟩

end Sys2Proof.Machine

/-! Registers, functions and the link. -/

namespace Sys2Proof.Machine

variable {s t : State} {func : Fin 64}

/-! ### Reads -/

theorem execHighHalfLatch_of_funcDown (off : BitVec 20) (size : BitVec 4) (h : funcUp s func = false) :
    exec (.highHalfLatch func off size) s = .next s := by
  show Host.Outcome.next (barRead func off.toNat size.toNat s) = _
  rw [barRead, if_pos (by rw [h, Bool.not_false, Bool.or_true])]

theorem execRegisterWrite_of_invalid {off : BitVec 20} (size : BitVec 4) (v : BitVec 64) (h : funcUp s func = false ∨ off.toNat % 4 ≠ 0) :
    exec (.registerWrite func off size v) s = .next s := by
  show execRegisterWrite func off size v s = _
  have hbad : (regsUp s && funcUp s func && off.toNat % 4 == 0) ≠ true := by
    rcases h with h | h
    · rw [h, Bool.and_false, Bool.false_and]
      nofun
    · simp [h]
  simp only [execRegisterWrite]
  rw [if_neg hbad]

theorem getFunc_modFunc_same (f : Func → Func) (n : Nat) : getFunc (modFunc n f s) n = f (getFunc s n) := by
  rw [getFunc_modFunc, if_pos rfl]

theorem linkUp_of_regsUp (h : regsUp s = true) : linkUp s = true := (Bool.and_eq_true _ _ ▸ h).1

theorem execHighHalfLatch_reads {off : BitVec 20} {size : BitVec 4} (hr : regsUp s = true) (hf : funcUp s func = true)
    (hv : readValid off.toNat size.toNat = true) (hc : readsCap s func off.toNat size.toNat = false) : ∃ t,
    exec (.highHalfLatch func off size) s = .next t ∧
    getFunc t func = { getFunc s func with lastRead := BitVec.ofNat 64 (readValue s func off.toNat size.toNat),
                                           high := latchHigh s func off.toNat size.toNat } ∧ t.clk = s.clk := by
  refine ⟨readDone func (readValue s func off.toNat size.toNat) (latchHigh s func off.toNat size.toNat) s, ?_, getFunc_modFunc_same _ _, rfl⟩
  show Host.Outcome.next (barRead func off.toNat size.toNat s) = _
  rw [barRead, linkUp_of_regsUp hr, hf, hr, hv, hc]
  rfl

/-- Before release every bit reads 1 (R599). -/
theorem execHighHalfLatch_ones (off : BitVec 20) (size : BitVec 4) (hl : linkUp s = true) (hf : funcUp s func = true) (hr : regsUp s = false) : ∃ t,
    exec (.highHalfLatch func off size) s = .next t ∧ (getFunc t func).lastRead = BitVec.ofNat 64 (2 ^ (8 * size.toNat) - 1) := by
  refine ⟨readDone func (2 ^ (8 * size.toNat) - 1) none s, ?_, by rw [readDone, getFunc_modFunc_same]⟩
  show Host.Outcome.next (barRead func off.toNat size.toNat s) = _
  rw [barRead, hl, hf, hr]
  rfl

/-! ### Writes -/

theorem execRegisterWrite_word {off : BitVec 20} (v : BitVec 64) (hr : regsUp s = true) (hf : funcUp s func = true) (ho : off.toNat % 4 = 0) :
    exec (.registerWrite func off 4 v) s = .next (wordWrite func off.toNat (bits v.toNat 0 32) s) := by
  show execRegisterWrite func off 4 v s = _
  simp only [execRegisterWrite]
  rw [if_pos (by rw [hr, hf, ho]; rfl), if_pos trivial]

theorem not_unseen {b : Bool} (h : b = true) : ¬ (!b) = true := by rw [h]; nofun

theorem execRegisterWrite_scratch (v : BitVec 64) (hr : regsUp s = true) (hb : blockSeen s 0 0x0 = true) :
    exec (.registerWrite 0 0x00028 4 v) s = .next { s with sys := { s.sys with scratch := BitVec.ofNat 32 (bits v.toNat 0 32) } } := by
  rw [execRegisterWrite_word v hr rfl rfl]
  have hword : wordWrite 0 (0x00028 : BitVec 20).toNat (bits v.toNat 0 32) s = sysWrite 0 0x28 (bits v.toNat 0 32) s := if_neg (not_unseen hb)
  rw [hword]
  rfl

theorem execRegisterWrite_fltEvents (v : BitVec 64) (hr : regsUp s = true) (hb : blockSeen s 0 0xD = true) :
    exec (.registerWrite 0 0xD0004 4 v) s = .next { s with flt := { s.flt with events := w1c s.flt.events (bits v.toNat 0 32) } } := by
  rw [execRegisterWrite_word v hr rfl rfl]
  have hword : wordWrite 0 (0xD0004 : BitVec 20).toNat (bits v.toNat 0 32) s = fltWrite 0x04 (bits v.toNat 0 32) s := if_neg (not_unseen hb)
  rw [hword]
  rfl

/-- The LF periods are locked with the set-up (R67). -/
theorem execRegisterWrite_locked (func : Fin 64) (v : BitVec 64) (hl : s.sys.lockSetup = true) : exec (.registerWrite func 0x40000 4 v) s = .next s := by
  have hlf : lfWrite 0x00 (bits v.toNat 0 32) s = s := (if_pos rfl).trans (if_pos hl)
  have hblk : wordWrite func 0x40000 (bits v.toNat 0 32) s = if !blockSeen s func 4 then s else lfWrite 0x00 (bits v.toNat 0 32) s := rfl
  have hword : wordWrite func (0x40000 : BitVec 20).toNat (bits v.toNat 0 32) s = s := by rw [hlf, ite_self] at hblk; exact hblk
  show execRegisterWrite func 0x40000 4 v s = _
  simp only [execRegisterWrite, hword]
  split
  · rfl
  · rfl

/-- What a reset of the blocks leaves of the SYS block. -/
theorem resetBlocks_sys (cold : Bool) (s : State) : ∃ b, (resetBlocks cold s).sys = resetSys cold { s.sys with broken := b } := by
  unfold resetBlocks
  extract_lets now requeued pulled fallen
  have hf : Frame [.outs] requeued fallen := by
    refine onlyIf_frame (each_frame (.refl _ requeued) _ _ fun m _ k => onlyIf_frame k _ _ fun k => emit_frame k ?_ _) _ _
      fun k => emit_frame k ?_ _ <;> exact within_of rfl
  exact ⟨requeued.sys.broken, congrArg (resetSys cold) (hf.sys rfl)⟩

theorem execSysReset_resets {v : BitVec 32} (hr : regsUp s = true) (hready : s.sys.ready = true) (hm : s.pwr.mode ≠ .hearth)
    (hkey : bits v.toNat 0 8 = 0xA5) : ∃ t, exec (.sysReset 0 v) s = .next t ∧ t.sys.ready = false ∧ t.sys.resetCause = 5 ∧ t.pwr.mode = .cab ∧
    t.sys.scratch = s.sys.scratch ∧ t.sys.lockSetup = s.sys.lockSetup := by
  obtain ⟨b, hb⟩ := resetBlocks_sys false s
  refine ⟨_, rfl, ?_⟩
  rw [if_pos (by rw [hr, hkey]; rfl), warmReset, if_neg hm, if_pos hready]
  dsimp only
  obtain ⟨hmode, -⟩ := startUp_railGood 0x5 (pickPair false (resetBlocks false s)).pwr.modeStart.toNat (pickPair false (resetBlocks false s))
  rw [hmode, startUp_sys, pickPair_sys, hb]
  exact ⟨rfl, rfl, rfl, rfl, rfl⟩

theorem execSysReset_ignored {v : BitVec 32} (func : Fin 64) (hkey : bits v.toNat 0 8 ≠ 0xA5) : exec (.sysReset func v) s = .next s := by
  show execSysReset func v s = _
  rw [execSysReset, if_neg (by simp [hkey])]

theorem execSysLockSetup_locks {v : BitVec 32} (hr : regsUp s = true) (hv : v.getLsbD 0 = true) :
    exec (.sysLockSetup 0 v) s = .next { s with sys := { s.sys with lockSetup := true } } := by
  show execSysLockSetup 0 v s = _
  rw [execSysLockSetup, if_pos (by rw [hr, hv]; rfl)]
  rfl

/-! ### MSI-X vectors -/

theorem getVec_modVec_of_ne {n v w : Nat} (f : MsixVec → MsixVec) (h : w ≠ v) : getVec (modVec n v f s) n w = getVec s n w := by
  rw [show getVec (modVec n v f s) n w = _ from tabGet_tabModify .., if_neg (by unfold vecKey; omega)]
  rfl

theorem getVec_sendMsix_of_ne {n v w : Nat} (h : w ≠ v) : getVec (sendMsix n v s) n w = getVec s n w := by
  unfold sendMsix
  split
  · split
    · rfl
    · exact getVec_modVec_of_ne _ h
  · rfl

/-- One step of the sending of the messages that wait: a vector that is open sends its message and is no longer pending. -/
def sendOnePending (func v : Nat) (t : State) : State :=
  if (getVec t func v).pending && vecOpen t func v then sendMsix func v (modVec func v (fun x => { x with pending := false }) t) else t

theorem sendOnePending_frame (n v : Nat) (s : State) : Frame [.vecs, .outs] s (sendOnePending n v s) := by
  unfold sendOnePending
  split
  · exact sendMsix_frame (modVec_frame (.refl _ s) (within_of rfl) n v _) (within_refl _) n v
  · exact .refl _ s

theorem linkUp_of_frame {ps : List Part} (k : Frame ps s t) (hp : ps.contains .pwr = false) (hr : ps.contains .rings = false) : linkUp t = linkUp s := by
  have hperst : t.host.perst = s.host.perst := by
    have h := congrArg HostBlk.perst (k.part .rings hr)
    exact h
  rw [linkUp, linkUp, k.pwr hp, hperst]

/-- Whether a vector's message goes out at once depends on its function's bits, its mask and the link. -/
theorem vecOpen_congr {n w : Nat} (k : Frame [.vecs, .outs] s t) (hm : (getVec t n w).masked = (getVec s n w).masked) : vecOpen t n w = vecOpen s n w := by
  rw [vecOpen, vecOpen, linkUp_of_frame k rfl rfl, getFunc, getFunc, k.funcs rfl, hm]

theorem getVec_sendMsix_masked (n v w : Nat) (s : State) : (getVec (sendMsix n v s) n w).masked = (getVec s n w).masked := by
  by_cases h : w = v
  · subst h
    unfold sendMsix
    split
    · split
      · rfl
      · rw [getVec_modVec]
    · rfl
  · rw [getVec_sendMsix_of_ne h]

theorem sendOnePending_masked (n v w : Nat) (s : State) : (getVec (sendOnePending n v s) n w).masked = (getVec s n w).masked := by
  unfold sendOnePending
  split
  · rw [getVec_sendMsix_masked]
    by_cases h : w = v
    · subst h
      rw [getVec_modVec]
    · rw [getVec_modVec_of_ne _ h]
  · rfl

/-- Of an open vector no message stays pending. -/
theorem sendOnePending_pending {n v : Nat} (ho : vecOpen s n v = true) : (getVec (sendOnePending n v s) n v).pending = false := by
  have hsent : vecOpen (modVec n v (fun x => { x with pending := false }) s) n v = true := by
    rw [vecOpen_congr (modVec_frame (.refl _ s) (within_of rfl) n v _) (by rw [getVec_modVec]), ho]
  unfold sendOnePending
  split
  · unfold sendMsix
    rw [if_pos hsent]
    split
    · show (getVec (modVec n v _ s) n v).pending = false
      rw [getVec_modVec]
    · rw [getVec_modVec]
  next h => simpa [ho] using h

theorem sendOnePending_of_ne {n v w : Nat} (h : w ≠ v) : getVec (sendOnePending n v s) n w = getVec s n w := by
  unfold sendOnePending
  split
  · rw [getVec_sendMsix_of_ne h, getVec_modVec_of_ne _ h]
  · rfl

/-- Sending the messages that wait masks nothing, and leaves none pending of an open vector it comes to. -/
theorem sendEachPending_vector (n w : Nat) (l : List Nat) (s : State) :
    (getVec (each l (sendOnePending n) s) n w).masked = (getVec s n w).masked ∧
    (vecOpen s n w = true → w ∈ l ∨ (getVec s n w).pending = false → (getVec (each l (sendOnePending n) s) n w).pending = false) := by
  unfold each
  induction l generalizing s with
  | nil => exact ⟨rfl, fun _ h => h.resolve_left List.not_mem_nil⟩
  | cons v l ih =>
    obtain ⟨hmasked, hpending⟩ := ih (sendOnePending n v s)
    have hm := sendOnePending_masked n v w s
    rw [List.foldl_cons, hmasked]
    refine ⟨hm, fun ho hmem => ?_⟩
    refine hpending (by rw [vecOpen_congr (sendOnePending_frame n v s) hm, ho]) ?_
    by_cases hw : w = v
    · subst hw
      exact .inr (sendOnePending_pending ho)
    · rw [sendOnePending_of_ne hw]
      exact hmem.imp_left fun h => (List.mem_cons.mp h).resolve_left hw

theorem getFunc_sendPending (n m : Nat) (s : State) : getFunc (sendPending n s) m = getFunc s m := by
  have k := sendPending_frame (.refl _ s) (within_refl _) n
  rw [getFunc, getFunc, k.funcs rfl]

theorem execMsixUnmask_vector {v : Fin 2048} (hl : linkUp s = true) (hf : funcUp s func = true) (hv : v.val < vecsOf s func) : ∃ t,
    exec (.msixUnmask func (.vector v)) s = .next t ∧ (getVec t func v).masked = false ∧
    ((getFunc s func).msixEn = true → (getFunc s func).fnMask = false → (getVec t func v).pending = false) := by
  have hmask := getVec_modVec func.val v.val (fun x => { x with masked := false }) (s := s)
  obtain ⟨hmasked, hpending⟩ := sendEachPending_vector func.val v.val (List.range (vecsOf s func))
    (modVec func v.val (fun x => { x with masked := false }) s)
  refine ⟨sendPending func (modVec func v.val (fun x => { x with masked := false }) s), ?_, ?_, fun hen hfn => ?_⟩
  · show execMsixUnmask func (.vector v) s = _
    simp only [execMsixUnmask]
    rw [if_pos (by rw [hl, hf]; rfl), if_pos hv]
  · exact hmasked.trans (by rw [hmask])
  · refine hpending ?_ (.inl (List.mem_range.mpr hv))
    have hlink : linkUp (modVec func v.val (fun x => { x with masked := false }) s) = true := hl
    have hfunc : getFunc (modVec func v.val (fun x => { x with masked := false }) s) func = getFunc s func := rfl
    rw [vecOpen, hmask, hlink, hfunc, hen, hfn]
    rfl

theorem execMsixUnmask_function (hl : linkUp s = true) (hf : funcUp s func = true) (hv : vecsOf s func ≠ 0) : ∃ t u,
    exec (.msixUnmask func .function) s = .next t ∧
    exec (.msixUnmask func .enable) s = .next u ∧ (getFunc t func).fnMask = false ∧ (getFunc u func).msixEn = true := by
  refine ⟨sendPending func (modFunc func (fun f => { f with fnMask := false }) s),
    sendPending func (modFunc func (fun f => { f with msixEn := true }) s), ?_, ?_, ?_, ?_⟩
  · show execMsixUnmask func .function s = _
    simp only [execMsixUnmask]
    rw [if_pos (by rw [hl, hf]; rfl)]
  · show execMsixUnmask func .enable s = _
    simp only [execMsixUnmask]
    rw [if_pos (by rw [hl, hf]; rfl), if_neg hv]
  · rw [getFunc_sendPending, getFunc_modFunc_same]
  · rw [getFunc_sendPending, getFunc_modFunc_same]

/-! ### Function-level resets -/

theorem tabGet_filter_of_not {α : Type} (d : α) (t : Tab α) (p : Nat × α → Bool) (k : Nat) (h : ∀ v, p (k, v) = false) : tabGet d (t.filter p) k = d := by
  induction t with
  | nil => rfl
  | cons e t ih =>
    obtain ⟨k', v⟩ := e
    by_cases hp : p (k', v) = true
    · have hne : k' ≠ k := fun e => by rw [e, h] at hp; cases hp
      rw [List.filter_cons_of_pos hp, tabGet, if_neg hne, ih]
    · rw [List.filter_cons_of_neg hp, ih]

/-- A function-level reset leaves the function's registers and vectors as at reset (R147). -/
theorem resetFunction_function (n : Nat) (s : State) : getFunc (resetFunction n s) n = {} ∧ ∀ v : Fin 2048, getVec (resetFunction n s) n v = {} := by
  refine ⟨getFunc_modFunc_same _ _, fun v => tabGet_filter_of_not _ _ _ _ fun x => ?_⟩
  have hkey : vecKey n v / 2048 = n := by unfold vecKey; omega
  rw [bne_eq_false_iff_eq, hkey]

theorem recordRing_funcs (g : Nat) (f : Ring → Ring) (s : State) : (recordRing g f s).host.funcs = s.host.funcs ∧
    (recordRing g f s).host.vecs = s.host.vecs ∧ linkUp (recordRing g f s) = linkUp s := by
  unfold recordRing
  split <;> exact ⟨rfl, rfl, rfl⟩

/-- A ring under a function-level reset. -/
def resetRing (g : Nat) (t : State) : State := if (getRing t g).st = .disabled then modRing g flrRing t else recordRing g flrRing t

theorem resetRing_funcs (g : Nat) (s : State) : (resetRing g s).host.funcs = s.host.funcs ∧
    (resetRing g s).host.vecs = s.host.vecs ∧ linkUp (resetRing g s) = linkUp s := by
  unfold resetRing
  split
  · exact ⟨rfl, rfl, rfl⟩
  · exact recordRing_funcs g flrRing s

/-- The rings of a function's tenancies. -/
def funcRings (n : Nat) (s : State) : List Nat :=
  ((s.slc.tens.filter (fun e => e.2.func == n)).map (·.1)).flatMap (fun t => (List.range (getTen s t).ringCount).map (fun j => (getTen s t).ringBase + j))

/-- A function-level reset: its rings, then the fates of the descriptors not begun, then its registers and vectors. -/
theorem resetFunction_eq (n : Nat) (s : State) : ∃ ops : List (Nat × Flight), resetFunction n s = modFunc n (fun _ => {}) (resetVectors n
    (each ops (fun e t => settle e.1 (failFate fNotStarted 0x0A) t) (each (funcRings n s) resetRing s))) := ⟨_, rfl⟩

theorem resetFunction_parts (n : Nat) (s : State) : ∃ u, resetFunction n s = modFunc n (fun _ => {}) (resetVectors n u) ∧
    u.host.funcs = s.host.funcs ∧ u.host.vecs = s.host.vecs ∧ linkUp u = linkUp s := by
  obtain ⟨ops, h⟩ := resetFunction_eq n s
  refine ⟨_, h, ?_, ?_, ?_⟩
  · rw [each_same (fun t => t.host.funcs) ops _ fun e t => (settle_frame_of _).funcs rfl, each_same (fun t => t.host.funcs) _ _ fun g t => (resetRing_funcs g t).1]
  · rw [each_same (fun t => t.host.vecs) ops _ fun e t => (settle_frame_of _).vecs rfl, each_same (fun t => t.host.vecs) _ _ fun g t => (resetRing_funcs g t).2.1]
  · rw [each_same linkUp ops _ fun e t => linkUp_of_frame (settle_frame_of _) rfl rfl, each_same linkUp _ _ fun g t => (resetRing_funcs g t).2.2]

theorem tabGet_filter_of_pos {α : Type} (d : α) (t : Tab α) (p : Nat × α → Bool) (k : Nat) (h : ∀ v, p (k, v) = true) :
    tabGet d (t.filter p) k = tabGet d t k := by
  induction t with
  | nil => rfl
  | cons e t ih =>
    obtain ⟨k', v⟩ := e
    by_cases hk : k' = k
    · subst hk
      rw [List.filter_cons_of_pos (h v), tabGet, tabGet, if_pos rfl, if_pos rfl]
    · by_cases hp : p (k', v) = true
      · rw [List.filter_cons_of_pos hp, tabGet, tabGet, if_neg hk, if_neg hk, ih]
      · rw [List.filter_cons_of_neg hp, ih, tabGet, if_neg hk]

/-- It leaves every other function's registers and vectors as they were. -/
theorem resetFunction_other {n m : Nat} (h : m ≠ n) (s : State) : getFunc (resetFunction n s) m = getFunc s m ∧
    ∀ v : Fin 2048, getVec (resetFunction n s) m v = getVec s m v := by
  obtain ⟨u, hu, hfuncs, hvecs, -⟩ := resetFunction_parts n s
  rw [hu]
  refine ⟨?_, fun v => ?_⟩
  · rw [getFunc_modFunc, if_neg h]
    show tabGet {} u.host.funcs m = _
    rw [hfuncs, getFunc]
  · have hkey : vecKey m v / 2048 = m := by unfold vecKey; omega
    show tabGet {} (u.host.vecs.filter (fun e => e.1 / 2048 != n)) (vecKey m v) = _
    rw [tabGet_filter_of_pos _ _ _ _ fun x => by rw [hkey]; exact bne_iff_ne.mpr h, hvecs, getVec]

theorem linkUp_resetFunction (n : Nat) (s : State) : linkUp (resetFunction n s) = linkUp s := by
  obtain ⟨u, hu, -, -, hlink⟩ := resetFunction_parts n s
  rw [hu, ← hlink]
  rfl

/-- A table answers its default, or an entry it holds. -/
theorem tabGet_mem {α : Type} (d : α) (t : Tab α) (k : Nat) : tabGet d t k = d ∨ (k, tabGet d t k) ∈ t := by
  induction t with
  | nil => exact .inl rfl
  | cons e t ih =>
    obtain ⟨k', v⟩ := e
    by_cases hk : k' = k
    · subst hk
      rw [tabGet, if_pos rfl]
      exact .inr List.mem_cons_self
    · rw [tabGet, if_neg hk]
      exact ih.imp_right (List.mem_cons_of_mem _)

theorem mem_funcRings {n ten j g : Nat} (hn : n ≠ 0x7F) (ht : (getTen s ten).func = n) (hg : ringOf s ten j = some g) : g ∈ funcRings n s := by
  have hmem : (ten, getTen s ten) ∈ s.slc.tens := (tabGet_mem ({} : Tenancy) s.slc.tens ten).resolve_left fun h => hn (by
    rw [← ht, getTen, h])
  unfold ringOf at hg
  dsimp only at hg
  split at hg
  case isFalse => cases hg
  case isTrue h =>
    cases hg
    have hj : j < (getTen s ten).ringCount := of_decide_eq_true (Bool.and_eq_true _ _ ▸ h).2
    refine List.mem_flatMap.mpr ⟨ten, List.mem_map.mpr ⟨(ten, getTen s ten), List.mem_filter.mpr ⟨hmem, beq_iff_eq.mpr ht⟩, rfl⟩, ?_⟩
    exact List.mem_map.mpr ⟨j, List.mem_range.mpr hj, rfl⟩

/-- A ring as a function-level reset leaves it: DISABLED and mute (R147). -/
def RingReset (g : Nat) (s : State) : Prop := (getRing s g).st = .disabled ∧ (getRing s g).mute = true

theorem resetRing_reset (g : Nat) (s : State) : RingReset g (resetRing g s) := by
  unfold resetRing RingReset
  split
  · rw [getRing_modRing_same]
    exact ⟨rfl, rfl⟩
  · obtain ⟨u, i, st, hring, -⟩ := getRing_recordRing_same (s := s) g flrRing
    rw [hring]
    exact ⟨rfl, rfl⟩

theorem getRing_resetRing_of_ne {g h : Nat} (hne : h ≠ g) (s : State) : getRing (resetRing g s) h = getRing s h := by
  unfold resetRing
  split
  · exact getRing_modRing_of_ne _ hne
  · exact getRing_recordRing_of_ne hne _

theorem resetRings_reset (g : Nat) (l : List Nat) (s : State) (h : g ∈ l ∨ RingReset g s) : RingReset g (each l resetRing s) := by
  unfold each
  induction l generalizing s with
  | nil => exact h.resolve_left List.not_mem_nil
  | cons a l ih =>
    refine ih _ ?_
    by_cases ha : g = a
    · subst ha
      exact .inr (resetRing_reset g s)
    · refine h.imp (fun hm => (List.mem_cons.mp hm).resolve_left ha) fun hr => ?_
      rwa [RingReset, getRing_resetRing_of_ne ha]

theorem resetFunction_rings {n ten j g : Nat} (hn : n ≠ 0x7F) (ht : (getTen s ten).func = n) (hg : ringOf s ten j = some g) :
    RingReset g (resetFunction n s) := by
  obtain ⟨ops, h⟩ := resetFunction_eq n s
  have hreset := resetRings_reset g (funcRings n s) s (.inl (mem_funcRings hn ht hg))
  have hsettled : getRing (each ops (fun e t => settle e.1 (failFate fNotStarted 0x0A) t) (each (funcRings n s) resetRing s)) g =
      getRing (each (funcRings n s) resetRing s) g :=
    each_same (fun t => getRing t g) ops _ (fun e t => getRing_of_host ((settle_frame_of _).rings rfl) g) _
  rw [h]
  show RingReset g (each ops _ _)
  rwa [RingReset, hsettled]

theorem execVfFunctionLevelReset_resets (hne : func.val ≠ 0) (hf : funcUp s func = true) (hr : s.sys.ready = true) : ∃ t,
    exec (.vfFunctionLevelReset func) s = .next t ∧ getFunc t func = {} ∧ (∀ v : Fin 2048, getVec t func v = {}) ∧
    (∀ ten j g, (getTen s ten).func = func.val → ringOf s ten j = some g →
      (getRing t g).st = .disabled ∧ (getRing t g).mute = true) := by
  obtain ⟨hfunc, hvecs⟩ := resetFunction_function func.val s
  refine ⟨resetFunction func s, ?_, hfunc, hvecs, fun ten j g ht hg => resetFunction_rings (by omega) ht hg⟩
  show execVfFunctionLevelReset func s = _
  rw [execVfFunctionLevelReset, if_neg (by simp [hne, hf]), if_pos hr]

/-- A run of function-level resets leaves each function it comes to as at reset. -/
theorem resetFunctions_function {n : Nat} (l : List Nat) (s : State)
    (h : n ∈ l ∨ (getFunc s n = {} ∧ ∀ v : Fin 2048, getVec s n v = {})) :
    getFunc (each l resetFunction s) n = {} ∧ ∀ v : Fin 2048, getVec (each l resetFunction s) n v = {} := by
  unfold each
  induction l generalizing s with
  | nil => exact h.resolve_left List.not_mem_nil
  | cons a l ih =>
    refine ih _ ?_
    by_cases ha : n = a
    · subst ha
      exact .inr (resetFunction_function n s)
    · obtain ⟨hfunc, hvec⟩ := resetFunction_other ha s
      refine h.imp (fun hm => (List.mem_cons.mp hm).resolve_left ha) fun ⟨hf, hv⟩ => ⟨hfunc.trans hf, fun v => (hvec v).trans (hv v)⟩

theorem execVfEnableClear_clears (hne : func.val ≠ 0) (hr : s.sys.ready = true) : ∃ t, exec .vfEnableClear s = .next t ∧
    getFunc t func = {} ∧ (∀ v : Fin 2048, getVec t func v = {}) ∧ (linkUp s = true → funcUp t func = false) := by
  have hmem : func.val ∈ (List.range totalVfs).map (· + 1) :=
    List.mem_map.mpr ⟨func.val - 1, List.mem_range.mpr (by unfold totalVfs; omega), by omega⟩
  obtain ⟨hfunc, hvec⟩ := resetFunctions_function _ s (.inl hmem)
  have hlink := each_same linkUp ((List.range totalVfs).map (· + 1)) resetFunction linkUp_resetFunction s
  have hreset : onlyIf s.sys.ready (each ((List.range totalVfs).map (· + 1)) resetFunction) s = each ((List.range totalVfs).map (· + 1)) resetFunction s :=
    if_pos hr
  refine ⟨_, rfl, ?_⟩
  dsimp only
  rw [hreset]
  generalize each ((List.range totalVfs).map (· + 1)) resetFunction s = u at hfunc hvec hlink
  by_cases hl : linkUp s = true
  · rw [onlyIf, if_pos (by rw [hlink, hl])]
    exact ⟨hfunc, hvec, fun _ => by simp [funcUp, hne]⟩
  · rw [onlyIf, if_neg (by rw [hlink]; exact hl)]
    exact ⟨hfunc, hvec, fun h => absurd h hl⟩

/-! ### HOST_PERST_N -/

theorem trainLink_host (s : State) : (trainLink s).host.perst = s.host.perst ∧ (trainLink s).host.flights = s.host.flights := by
  have hsend (l : List Nat) (u : State) : (each l sendPending u).host.perst = u.host.perst ∧ (each l sendPending u).host.flights = u.host.flights :=
    ⟨each_same (fun t => t.host.perst) l _ (fun n t => by
      have h := congrArg HostBlk.perst ((sendPending_frame (.refl _ t) (within_refl _) n).part .rings rfl)
      exact h) u,
      each_same (fun t => t.host.flights) l _ (fun n t => (sendPending_frame (.refl _ t) (within_refl _) n).flights rfl) u⟩
  unfold trainLink
  split
  · obtain ⟨hperst, hflights⟩ := hsend (s.host.funcs.map (·.1)) (drawn 2 (modHost (fun h => { h with
      vfEn := true, linkSpeed := BitVec.ofNat 3 (1 + byteAt (freeBytes s 2) 0 % 3), linkWidth := BitVec.ofNat 4 (1 + byteAt (freeBytes s 2) 1 % 2)
      laneRev := (byteAt (freeBytes s 2) 1 / 2) % 2 == 1, laneInv := BitVec.ofNat 2 (byteAt (freeBytes s 2) 1 / 4) }) s))
    exact ⟨hperst, hflights⟩
  · exact ⟨rfl, rfl⟩

theorem execHostPerst_low (s : State) : ∃ t, exec (.hostPerst true) s = .next t ∧ t.host.perst = true ∧ t.host.linkSpeed = 0 ∧ linkUp t = false :=
  ⟨linkDown (modHost (fun h => { h with perst := true }) s), rfl, rfl, rfl, rfl⟩

theorem execHostPerst_high (s : State) : ∃ t, exec (.hostPerst false) s = .next t ∧ t.host.perst = false ∧ t.host.flights = s.host.flights :=
  ⟨_, rfl, trainLink_host (modHost (fun h => { h with perst := false }) s)⟩

/-- Settles O11. -/
theorem registersAndFunctions : Obligations.RegistersAndFunctions :=
  ⟨fun _ off size v _ h => ⟨execHighHalfLatch_of_funcDown off size h, execRegisterWrite_of_invalid size v (.inl h)⟩,
    fun _ _ _ _ hr hf hv hc => execHighHalfLatch_reads hr hf hv hc, fun _ off size _ hl hf hr => execHighHalfLatch_ones off size hl hf hr,
    fun v _ hr hb => execRegisterWrite_scratch v hr hb, fun v _ hr hb => execRegisterWrite_fltEvents v hr hb,
    fun func v _ hl => execRegisterWrite_locked func v hl, fun _ _ size v _ ho => execRegisterWrite_of_invalid size v (.inr ho),
    fun _ _ hr hready hm hkey => execSysReset_resets hr hready hm hkey, fun func _ _ hkey => execSysReset_ignored func hkey,
    fun _ _ hr hv => execSysLockSetup_locks hr hv, fun _ _ _ hl hf hv => execMsixUnmask_vector hl hf hv,
    fun _ _ hl hf hv => execMsixUnmask_function hl hf hv, fun _ _ hne hf hr => execVfFunctionLevelReset_resets hne hf hr,
    fun _ _ hne hr => execVfEnableClear_clears hne hr, execHostPerst_low, execHostPerst_high⟩

end Sys2Proof.Machine

/-! Writs (O12). -/

namespace Sys2Proof.Machine

variable {s t u v : State} {r opc : Nat} {f g : Flight} {w d : Bytes} {l : List Bytes} {b : Bool}

@[simp] theorem markGone_flights (st : Setup) : (markGone st s).host.flights = s.host.flights := (markGone_frame (.refl _ s) (within_refl _) st).flights rfl
@[simp] theorem markGone_slc (st : Setup) : (markGone st s).slc = s.slc := (markGone_frame (.refl _ s) (within_refl _) st).slc_eq rfl rfl
@[simp] theorem drainRing_flights (g : Nat) : (drainRing g s).host.flights = s.host.flights := (drainRing_frame (.refl _ s) (within_refl _) g).flights rfl
@[simp] theorem drainRing_slc (g : Nat) : (drainRing g s).slc = s.slc := (drainRing_frame (.refl _ s) (within_refl _) g).slc_eq rfl rfl
@[simp] theorem closeHandlesOf_flights (ten : Nat) : (closeHandlesOf ten s).host.flights = s.host.flights := (closeHandlesOf_frame (.refl _ s) (within_refl _) ten).flights rfl
@[simp] theorem applyDebug_flights (b : Bytes) : (applyDebug b s).host.flights = s.host.flights := (applyDebug_frame (.refl _ s) (within_refl _) b).flights rfl
@[simp] theorem applyDebug_slc (b : Bytes) : (applyDebug b s).slc = s.slc := (applyDebug_frame (.refl _ s) (within_refl _) b).slc_eq rfl rfl
@[simp] theorem flagsCheck_flights : (flagsCheck s).host.flights = s.host.flights := (flagsCheck_frame (.refl _ s) (within_refl _)).flights rfl
@[simp] theorem flagsCheck_slc : (flagsCheck s).slc = s.slc := (flagsCheck_frame (.refl _ s) (within_refl _)).slc_eq rfl rfl
@[simp] theorem lockWatch_flights : (lockWatch s).host.flights = s.host.flights := (lockWatch_frame (.refl _ s) (within_refl _)).flights rfl
@[simp] theorem lockWatch_slc : (lockWatch s).slc = s.slc := (lockWatch_frame (.refl _ s) (within_refl _)).slc_eq rfl rfl
@[simp] theorem settleDups_slc (r : Nat) (fr : FateRec) : (settleDups r fr s).slc = s.slc := (settleDups_frame (.refl _ s) (within_refl _) r fr).slc_eq rfl rfl
@[simp] theorem settle_sec (r : Nat) (fr : FateRec) : (settle r fr s).sec = s.sec := (settle_frame (.refl _ s) (within_refl _) r fr).sec rfl

/-! ### What a writ's effect leaves -/

/-- What a frame that keeps the sluice's part says of a policy figure in it. -/
theorem Frame.slcField {ps : List Part} {α : Type} (h : Frame ps s t) (p : Slc → α) (hp : ∀ b : Slc, p { b with run := [] } = p b)
    (hslc : ps.contains .slc = false) : p t.slc = p s.slc := by
  rw [← hp t.slc, ← hp s.slc]
  exact congrArg p (h.part .slc hslc)

theorem installSetup_flights (st : Setup) : (installSetup st s).host.flights = s.host.flights := by
  unfold installSetup
  extract_lets drained closed s₁ s₂ s₃ s₄
  rw [each_same (fun x => x.host.flights) drained drainRing (fun a x => drainRing_flights (s := x) a),
    each_same (fun x => x.host.flights) closed closeHandlesOf (fun a x => closeHandlesOf_flights (s := x) a)]
  exact markGone_flights (s := settleBuckets s) st

/-- Installing a setup changes the tenancies' tables: the epoch and the writs that wait to settle stand. -/
theorem installSetup_slc (st : Setup) {α : Type} (p : Slc → α) (hp : ∀ (b : Slc) run tens vecs wardens,
    p { b with run := run, tens := tens, vecs := vecs, wardens := wardens } = p b) : p (installSetup st s).slc = p s.slc := by
  have hrun : ∀ b : Slc, p { b with run := [] } = p b := fun b => hp b [] b.tens b.vecs b.wardens
  unfold installSetup
  extract_lets drained closed s₁ s₂ s₃ s₄
  rw [each_same (fun x => p x.slc) drained drainRing (fun a x => congrArg p (drainRing_slc (s := x) a)),
    each_same (fun x => p x.slc) closed closeHandlesOf (fun a x => (closeHandlesOf_frame (.refl _ x) (within_refl _) a).slcField p hrun rfl)]
  calc p s₄.slc = p s₁.slc := hp s₁.slc s₁.slc.run st.tens st.vecs st.wardens
    _ = p (settleBuckets s).slc := congrArg p (markGone_slc (s := settleBuckets s) st)
    _ = p s.slc := hp s.slc _ s.slc.tens s.slc.vecs s.slc.wardens

theorem writEffect_flights (w : Bytes) : (writEffect w s).host.flights = s.host.flights := by
  unfold writEffect
  extract_lets k b
  split
  · cases setupOf s b with
    | none => rfl
    | some st => exact installSetup_flights st
  · split
    · exact applyDebug_flights b
    · split
      · exact flagsCheck_flights
      · split
        · rfl
        · exact lockWatch_flights

theorem writEffect_slc (w : Bytes) {α : Type} (p : Slc → α) (hp : ∀ (b : Slc) run tens vecs wardens,
    p { b with run := run, tens := tens, vecs := vecs, wardens := wardens } = p b) : p (writEffect w s).slc = p s.slc := by
  unfold writEffect
  extract_lets k b
  split
  · cases setupOf s b with
    | none => rfl
    | some st => exact installSetup_slc st p hp
  · split
    · exact congrArg p (applyDebug_slc b)
    · split
      · exact congrArg p flagsCheck_slc
      · split
        · rfl
        · exact congrArg p lockWatch_slc

/-- What a descriptor's fate leaves of the sluice: all but its virtual time and its running figures. -/
theorem settle_slc (fr : FateRec) : ∃ run v, (settle r fr s).slc = { s.slc with run := run, vtime := v } := by
  unfold settle
  split
  · exact ⟨_, _, rfl⟩
  · split
    · exact ⟨_, _, rfl⟩
    · next f _ _ =>
      rw [settleDups_slc, logRec_slc]
      cases !hasEffect fr.code with
      | true => exact ⟨_, _, rfl⟩
      | false => exact ⟨_, _, rfl⟩

theorem settle_policy (fr : FateRec) : (settle r fr s).slc.epoch = s.slc.epoch ∧ (settle r fr s).slc.tens = s.slc.tens := by
  obtain ⟨run, v, h⟩ := settle_slc (r := r) (s := s) fr
  rw [h]
  exact ⟨rfl, rfl⟩

/-! ### The checks of a writ -/

/-- A writ whose checks have all passed goes on with the rest of its operation. -/
theorem writRun_passes (body : Bytes → State → State) (hw : w = slice d 0 (dLen f.raw)) (hstatic : writStatic s w (dLen f.raw) = none)
    (hsig : writSigned w (sigBlocks w) s = (true, v)) (hbase : writBase w = v.slc.epoch) (hbody : writBodyOk (atStage r 0x01 0 v) w = true) :
    writRun r (.ok d) f body s = body w (atStage r 0x01 0 v) := by
  subst hw
  simp only [writRun, readBytes, hstatic, hsig, Bool.not_true, Bool.false_eq_true, if_false]
  rw [if_neg (by rw [atStage_slc, hbase]; simp), if_neg (by rw [hbody]; simp)]

theorem writSigned_slc (hsig : writSigned w l s = (b, v)) : v.slc = s.slc := by
  have hv := writSigned_frame (.refl _ s) (within_refl _) w l
  rw [hsig] at hv
  exact hv.slc_eq rfl rfl

/-- The descriptor of a writ whose signatures are good, at the stage that follows the checks. -/
theorem getFlight_signed (h : Ready opc r f s) (hsig : writSigned w l (started r s) = (b, v)) :
    getFlight (atStage r 0x01 0 v) r = some { f with begun := true, stage := 0x01, units := 0 } := by
  have hv := writSigned_frame (.refl _ (started r s)) (within_refl _) w l
  rw [hsig] at hv
  rw [atStage, getFlight_modFlight, if_pos rfl, getFlight_of_host (hv.flights rfl), h.begun]
  rfl

/-- A writ's record advances the policy epoch by one, and the writ then waits to settle. -/
theorem writCommit_slc (r : Nat) (w : Bytes) : (writCommit r w s).slc.epoch = s.slc.epoch + 1 ∧
    ∃ x ∈ (writCommit r w s).slc.settling, x.op = r ∧ x.epoch = s.slc.epoch + 1 := by
  unfold writCommit
  extract_lets e wait s₁ s₂
  rw [atStage_slc, writEffect_slc w Slc.epoch (fun _ _ _ _ _ => rfl), writEffect_slc w Slc.settling (fun _ _ _ _ _ => rfl)]
  exact ⟨rfl, wait, List.mem_append_right _ (List.mem_singleton_self wait), rfl, rfl⟩

theorem getFlight_writCommit (r : Nat) (w : Bytes) :
    getFlight (writCommit r w s) r = (getFlight s r).map (fun x => { x with stage := 0x02, units := 1 }) := by
  unfold writCommit
  extract_lets e wait s₁ s₂
  rw [atStage, getFlight_modFlight, if_pos rfl, getFlight_of_host (writEffect_flights w)]
  rfl

/-! ### The clauses -/

theorem execWritApply_commits (h : Ready 0x0D00 r f s) (hw : w = slice d 0 (dLen f.raw)) (hstatic : writStatic (started r s) w (dLen f.raw) = none)
    (hsig : writSigned w (sigBlocks w) (started r s) = (true, v)) (hbase : writBase w = s.slc.epoch)
    (hbody : writBodyOk (atStage r 0x01 0 v) w = true) (hholds : commitHolds f true s = true)
    (hlog : canLogWrit w (atStage r 0x01 0 v) = true) : ∃ t, exec (.writApply r (.ok d)) s = .next t ∧
    t.slc.epoch = s.slc.epoch + 1 ∧ (∃ x ∈ t.slc.settling, x.op = r ∧ x.epoch = s.slc.epoch + 1) ∧
    (∃ g, getFlight t r = some g ∧ g.fate = none) := by
  have hslc := writSigned_slc hsig
  have hnext : v.slc.epoch + 1 = s.slc.epoch + 1 := (congrArg (fun b : Slc => b.epoch + 1) hslc :)
  refine ⟨writCommit r w (atStage r 0x01 0 v), congrArg Host.Outcome.next ((startOp_ready h _).trans ?_), ?_, ?_, ?_⟩
  · rw [writRun_passes _ hw hstatic hsig (hbase.trans (congrArg Slc.epoch hslc).symm) hbody, if_neg, if_neg]
    · rw [hlog]; simp
    · have : commitHolds f true (atStage r 0x01 0 v) = commitHolds f true s := by
        simp only [commitHolds, tenExists, getTen, atStage_slc, hslc]
        rfl
      rw [this, hholds]; simp
  · exact (writCommit_slc r w).1.trans hnext
  · obtain ⟨x, hx, hop, he⟩ := (writCommit_slc (s := atStage r 0x01 0 v) r w).2
    exact ⟨x, hx, hop, he.trans hnext⟩
  · rw [getFlight_writCommit, getFlight_signed h hsig]
    exact ⟨_, rfl, h.noFate⟩

theorem execWritApply_fails {code detail : Nat} (h : Ready 0x0D00 r f s) (hw : w = slice d 0 (dLen f.raw))
    (hstatic : writStatic (started r s) w (dLen f.raw) = some (code, detail)) : ∃ t, exec (.writApply r (.ok d)) s = .next t ∧
    Ended r code 0 detail t ∧ t.slc.epoch = s.slc.epoch := by
  subst hw
  refine ⟨_, congrArg Host.Outcome.next ((startOp_ready h _).trans ?_), h.settle_ended { failFate code detail with degraded := hashDegraded (started r s) },
    (settle_policy _).1⟩
  simp only [writRun, readBytes, hstatic]
  rfl

theorem execWritApply_unread (h : Ready 0x0D00 r f s) : ∃ t, exec (.writApply r .failed) s = .next t ∧
    Ended r fCulvert 0 0x11 t ∧ t.slc.epoch = s.slc.epoch :=
  ⟨_, congrArg Host.Outcome.next (startOp_ready h _), h.settle_ended { failFate fCulvert 0x11 with degraded := hashDegraded (started r s) },
    (settle_policy _).1⟩

theorem execWritSettle_done {x : Settling} (h : Running 0x0D00 r f s) (hx : s.slc.settling.find? (fun y => y.op == r) = some x)
    (hwait : writWaits s x f = false) : ∃ t, exec (.writSettle r) s = .next t ∧
    Done r (x.epoch % 2 ^ 48 + 2 ^ 48 * min 255 x.rings.length) t ∧ t.slc.epoch = s.slc.epoch := by
  refine ⟨_, congrArg Host.Outcome.next (onOp_running h _), ?_⟩
  simp only [hx, hwait, Bool.false_eq_true, if_false]
  exact ⟨Machine.settle_ended (s := modSlc _ s) h.here h.noFate _, (settle_policy _).1⟩

theorem execWritCheck_done (h : Ready 0x0D01 r f s) (hw : w = slice d 0 (dLen f.raw)) (hstatic : writStatic (started r s) w (dLen f.raw) = none)
    (hsig : writSigned w (sigBlocks w) (started r s) = (true, v)) (hbase : writBase w = s.slc.epoch)
    (hbody : writBodyOk (atStage r 0x01 0 v) w = true) : ∃ t, exec (.writCheck r (.ok d)) s = .next t ∧
    Done r 0 t ∧ t.slc.epoch = s.slc.epoch ∧ t.slc.tens = s.slc.tens ∧ t.slk = s.slk ∧ t.radio = s.radio ∧ t.upd = s.upd := by
  have hslc := writSigned_slc hsig
  have hv := writSigned_frame (.refl _ (started r s)) (within_refl _) w (sigBlocks w)
  rw [hsig] at hv
  have ht := settle_frame (.refl _ (atStage r 0x01 0 v)) (within_refl _) r { done 0 with degraded := hashDegraded (atStage r 0x01 0 v) }
  have hp := settle_policy (r := r) (s := atStage r 0x01 0 v) { done 0 with degraded := hashDegraded (atStage r 0x01 0 v) }
  refine ⟨_, congrArg Host.Outcome.next ((startOp_ready h _).trans
      (writRun_passes _ hw hstatic hsig (hbase.trans (congrArg Slc.epoch hslc).symm) hbody)),
    Machine.settle_ended (getFlight_signed h hsig) h.noFate _, hp.1.trans (congrArg Slc.epoch hslc :), hp.2.trans (congrArg Slc.tens hslc :),
    (ht.slk rfl).trans (hv.slk rfl), (ht.radio rfl).trans (hv.radio rfl), (ht.upd rfl).trans (hv.upd rfl)⟩

theorem execWritStatus_writes (h : Ready 0x0D02 r f s) : ∃ t, exec (.writStatus r true) s = .next t ∧ Done r 0 t ∧
    t.outs = s.outs ++ [Out.hostWrite (rangeOf f 0).func (rangeOf f 0).addr (writStatusBytes (started r s) f.ten)] :=
  ⟨_, congrArg Host.Outcome.next (startOp_ready h _), h.writes 0 _ (done 0)⟩

/-- Settles O12. -/
theorem writCommands : Obligations.WritCommands :=
  ⟨fun _ _ _ _ _ _ h hw hst hsig hb hbo hh hl => execWritApply_commits h hw hst hsig hb hbo hh hl, fun _ _ _ _ _ _ _ h hw hst => execWritApply_fails h hw hst,
    fun _ _ _ h => execWritApply_unread h, fun _ _ _ _ h hx hw => execWritSettle_done h hx hw,
    fun _ _ _ _ _ _ h hw hst hsig hb hbo => execWritCheck_done h hw hst hsig hb hbo, fun _ _ _ h => execWritStatus_writes h⟩

end Sys2Proof.Machine

/-! The SVC class (O13). -/

namespace Sys2Proof.Machine

variable {s x : State} {r : Nat} {f : Flight}

@[simp] theorem drew_outs (q : RngQueue) (n : Nat) : (drew q n s).outs = s.outs := (drew_frame (.refl _ s) (within_refl _) q n).part .outs rfl
@[simp] theorem drew_cus (q : RngQueue) (n : Nat) : (drew q n s).cus = s.cus := (drew_frame (.refl _ s) (within_refl _) q n).cus rfl
@[simp] theorem drew_led (q : RngQueue) (n : Nat) : (drew q n s).led = s.led := (drew_frame (.refl _ s) (within_refl _) q n).led rfl
@[simp] theorem driveRecord_cus (d : Nat) (old : Nat) (new : Nat) : (driveRecord d old new s).cus = s.cus := (driveRecord_frame (.refl _ s) (within_refl _) d old new).cus rfl
@[simp] theorem driveRecord_outs (d : Nat) (old : Nat) (new : Nat) : (driveRecord d old new s).outs = s.outs := (driveRecord_frame (.refl _ s) (within_refl _) d old new).part .outs rfl
@[simp] theorem cusEvent_flt (i : Nat) : (cusEvent i s).flt = s.flt := (cusEvent_frame (.refl _ s) (within_refl _) i).flt rfl
@[simp] theorem countReadErrs_flights (d : Nat) (n : Nat) : (countReadErrs d n s).host.flights = s.host.flights := (countReadErrs_frame (.refl _ s) (within_refl _) d n).flights rfl
@[simp] theorem settle_cus (r : Nat) (fr : FateRec) : (settle r fr s).cus = s.cus := (settle_frame (.refl _ s) (within_refl _) r fr).cus rfl

/-! ### Draws from the random source -/

theorem readied_emit_sec (o : Out) : (readied (emit o s)).sec = (readied s).sec := by
  unfold readied
  cases h : reseedDue s && canReseed s with
  | true => rw [show (reseedDue (emit o s) && canReseed (emit o s)) = true from h]; rfl
  | false => rw [show (reseedDue (emit o s) && canReseed (emit o s)) = false from h]; rfl

theorem random_emit (o : Out) (n : Nat) : random (emit o s) n = random s n := by
  unfold random
  rw [readied_emit_sec]
  rfl

theorem writeLabel_writes (d : Nat) : (writeLabel d s).cus = { s.cus with known := s.cus.known ++ [{ uid := random s 16, lsn := s.led.lsn }] } ∧
    (writeLabel d s).outs = s.outs ++ [.nvme d (.label s.fuse.uid (random s 16) s.led.lsn)] := by
  unfold writeLabel
  extract_lets +onlyGivenNames uid s₁
  rw [modCus_cus, modCus_outs]
  have hcus : s₁.cus = s.cus := drew_cus (s := s) .lanes 16
  have houts : s₁.outs = s.outs ++ [.nvme d (.label s.fuse.uid uid s.led.lsn)] :=
    congrArg (· ++ [Out.nvme d (.label s.fuse.uid uid s.led.lsn)]) (drew_outs (s := s) .lanes 16)
  have hled : s₁.led = s.led := drew_led (s := s) .lanes 16
  rw [hcus, houts, hled]
  exact ⟨rfl, rfl⟩

/-! ### The clauses -/

theorem execFaultRead_writes {l : List FaultRec} (h : Ready 0x0F00 r f s) (hl : l = (faultsFrom s (fieldLE f.raw 32 8)).take (dLen f.raw / 32)) :
    ∃ t, exec (.faultRead r true) s = .next t ∧ Done r l.length t ∧
    t.outs = s.outs ++ [Out.hostWrite (rangeOf f 0).func (rangeOf f 0).addr (l.flatMap faultBytes)] := by
  subst hl
  exact ⟨_, congrArg Host.Outcome.next (startOp_ready h _), h.writes 0 _ (done _)⟩

theorem execUnitTest_pair (h : Ready 0x0F01 r f s) (hbad : svcBad f.raw = false) (hty : svcType f = uPair) (hix : svcIndex f < 2)
    (hother : svcIndex f ≠ ofBool s.pwr.activeB) (hbusy : s.flt.testBusy = false) (hok : s.flt.shadowOk = true) : ∃ t,
    exec (.unitTest r true) s = .next t ∧ t.flt.testBusy = true ∧ t.flt.testOp = some r ∧ t.flt.testSlices = 0 ∧
    getFlight t r = some { f with begun := true } := by
  refine ⟨_, congrArg Host.Outcome.next (startOp_ready h _), ?_⟩
  have hknown : unitKnown (started r s) (svcType f) (svcIndex f) = true := by
    rw [hty]; simpa [unitKnown, isSvcPort, uPair, unitCount, pNvm, pLf, pUhf, pNfc, pCap, pIfl, pCan, pEth, pWake, pCoex] using Nat.le_of_lt_succ hix
  have hholds : testHolds (started r s) (svcType f) (svcIndex f) = true := by
    rw [testHolds, if_pos hty]; exact hok
  have hact : (svcIndex f == ofBool (started r s).pwr.activeB) = false := by simpa using hother
  rw [if_neg (by rw [hbad, hknown, hact]; simp), if_neg (by rw [hholds, started_flt, hbusy]; simp), if_pos hty]
  exact ⟨rfl, rfl, rfl, h.begun⟩

theorem execUnitTest_passes (h : Ready 0x0F01 r f s) (hbad : svcBad f.raw = false) (hknown : unitKnown s (svcType f) (svcIndex f) = true)
    (hty : svcType f ≠ uPair) (hbusy : s.flt.testBusy = false) (hholds : testHolds (started r s) (svcType f) (svcIndex f) = true) : ∃ t,
    exec (.unitTest r true) s = .next t ∧ Done r 0 t ∧
    t.flt.testType = svcType f ∧ t.flt.testIndex = svcIndex f ∧ t.flt.testResult = 0 ∧ t.flt.units = s.flt.units := by
  refine ⟨_, congrArg Host.Outcome.next (startOp_ready h _), ?_⟩
  have hknown' : unitKnown (started r s) (svcType f) (svcIndex f) = true := hknown
  rw [if_neg (by rw [hbad, hknown']; simpa using fun e => absurd e hty), if_neg (by rw [hholds, started_flt, hbusy]; simp), if_neg hty]
  simp only [if_true, settle_flt]
  exact ⟨Machine.settle_done (s := noteTest _ _ _ (started r s)) h.begun h.noFate 0, rfl, rfl, rfl, rfl⟩

theorem execBypass_leaves (h : Ready 0x0F02 r f s) (hbad : svcBad f.raw = false) (hknown : unitKnown s (svcType f) (svcIndex f) = true)
    (hlast : lastUnit s (svcType f) (svcIndex f) = false) (hst : unitSt s (svcType f) (svcIndex f) ≠ .bypassed)
    (hx : x = leaveUnit (svcType f) (svcIndex f) (bypassRecord (svcType f) (svcIndex f) (started r s))) :
    exec (.bypass r) s = .next (settle r (done (inService x (svcType f))) x) := by
  subst hx
  refine congrArg Host.Outcome.next ((startOp_ready h _).trans ?_)
  have hknown' : unitKnown (started r s) (svcType f) (svcIndex f) = true := hknown
  have hlast' : lastUnit (started r s) (svcType f) (svcIndex f) = false := hlast
  rw [if_neg (by rw [hbad, hknown']; simp), if_neg (by rw [hlast']; simp)]
  exact congrArg (fun y => settle r (done (inService y (svcType f))) y) (if_neg hst)

theorem unitSt_bypassRecord (ty ix : Nat) (s : State) : unitSt (bypassRecord ty ix s) ty ix = .bypassed := by
  obtain ⟨fs, no, ev, hw⟩ := writeFault_flt_eq ty ix (1 + byteAt (freeBytes s 1) 0 % 9) sDegraded 0x04 0 0 (setUnit ty ix .bypassed (drawn 1 s))
  rw [bypassRecord, changeUnit_eq, unitSt, countFault, modFlt_flt, hw, setUnit_flt]
  show tabGet UnitSt.up (tabSet UnitSt.up s.flt.units (ty * 256 + ix) .bypassed) (ty * 256 + ix) = _
  rw [tabGet_tabSet, if_pos rfl]

theorem execRestore_rejoins (h : Ready 0x0F03 r f s) (hbad : svcBad f.raw = false) (hknown : unitKnown s (svcType f) (svcIndex f) = true)
    (hmay : mayRestore s (svcType f) (svcIndex f) = true) (hbusy : s.flt.testBusy = false) (hty : svcType f ≠ uPair)
    (hx : x = rejoin (svcType f) (svcIndex f) (noteTest (svcType f) (svcIndex f) 0 (started r s))) :
    exec (.restore r true) s = .next (settle r (done (inService x (svcType f))) x) := by
  subst hx
  refine congrArg Host.Outcome.next ((startOp_ready h _).trans ?_)
  have hknown' : unitKnown (started r s) (svcType f) (svcIndex f) = true := hknown
  have hmay' : mayRestore (started r s) (svcType f) (svcIndex f) = true := hmay
  rw [if_neg (by rw [hbad, hknown', hmay']; simp), if_neg (by rw [started_flt, hbusy]; simpa using fun e => absurd e hty)]
  rfl

/-! ### Scrubbing -/

/-- The findings of the last unit test. -/
def testOf (b : Flt) : Nat × Nat × Nat := (b.testType, b.testIndex, b.testResult)

theorem driveWorn_testOf (d : Nat) : testOf (driveWorn d s).flt = testOf s.flt := by
  unfold driveWorn
  extract_lets x s₁
  split
  · obtain ⟨fs, no, ev, hs, hw⟩ := fault_flt_eq pNvm d 0x05 sDegraded 0x02 0 0 (modDrive d (fun y => { y with st := .worn }) s₁)
    rw [cusEvent_flt, hw]
    rfl
  · rfl

theorem countReadErrs_testOf (d n : Nat) : testOf (countReadErrs d n s).flt = testOf s.flt := by
  unfold countReadErrs
  split
  · rfl
  · extract_lets s₁
    split
    · exact driveWorn_testOf d
    · rfl

theorem getFlight_innerCharge (hg : getFlight s r = some f) (n : Nat) : ∃ st, getFlight (innerCharge r n s) r = some { f with stamp := st } := by
  refine ⟨(innerStamp n s).1, ?_⟩
  rw [innerCharge]
  exact (getFlight_modFlight _ _).trans ((if_pos rfl).trans (congrArg _ hg))

theorem execScrub_clean {u : Nat} (h : Ready 0x0F04 r f s) (hfit : fitted s pNvm (fieldLE f.raw 24 1) = true)
    (hu : storeUnit s (fieldLE f.raw 24 1) = some u) (hbusy : s.flt.testBusy = false) : ∃ t,
    exec (.scrub r { bad := [], lostAfter := none }) s = .next t ∧ Done r (usedStripes s.cus u) t ∧
    t.flt.testType = pNvm ∧ t.flt.testIndex = fieldLE f.raw 24 1 ∧ t.flt.testResult = 0 := by
  refine ⟨_, congrArg Host.Outcome.next (startOp_ready h _), ?_⟩
  have hfit' : fitted (started r s) pNvm (fieldLE f.raw 24 1) = true := hfit
  have hu' : storeUnit (started r s) (fieldLE f.raw 24 1) = some u := hu
  have hnone : ∀ v : State, failingGroups v u [] = [] := fun v => by simp [failingGroups]
  rw [if_neg (by rw [hfit']; simp)]
  simp only [hu', started_flt, hbusy, hnone, started_cus, Bool.false_eq_true, if_false]
  obtain ⟨st, hflight⟩ := getFlight_innerCharge h.begun (usedStripes s.cus u * 2 ^ 20)
  generalize innerCharge r (usedStripes s.cus u * 2 ^ 20) (started r s) = v at hflight ⊢
  have hkept := countReadErrs_testOf (s := noteTest pNvm (fieldLE f.raw 24 1) 0 v) (fieldLE f.raw 24 1) 0
  obtain ⟨hty, hrest⟩ := Prod.mk.inj hkept
  obtain ⟨hix, hres⟩ := Prod.mk.inj hrest
  rw [settle_flt]
  refine ⟨Machine.settle_ended (f := { f with begun := true, stamp := st }) ?_ h.noFate _, hty, hix, hres⟩
  exact (getFlight_of_host (countReadErrs_flights (s := noteTest pNvm (fieldLE f.raw 24 1) 0 v) _ _)).trans hflight

theorem execDriveDrain_begins (h : Ready 0x0F05 r f s) (hfit : fitted s pNvm (fieldLE f.raw 24 1) = true)
    (hu : (storeUnit s (fieldLE f.raw 24 1)).isSome = true) (hdrain : (getDrive s (fieldLE f.raw 24 1)).drain = none) :
    exec (.driveDrain r) s = .next (retireEmpty (modDrive (fieldLE f.raw 24 1) (fun x => { x with drain := some r }) (started r s))) := by
  refine congrArg Host.Outcome.next ((startOp_ready h _).trans ?_)
  have hfit' : fitted (started r s) pNvm (fieldLE f.raw 24 1) = true := hfit
  have hu' : (storeUnit (started r s) (fieldLE f.raw 24 1)).isNone = false := by
    rw [← Option.not_isSome]; exact congrArg (!·) hu
  have hdrain' : (getDrive (started r s) (fieldLE f.raw 24 1)).drain = none := hdrain
  rw [if_neg (by rw [hfit']; simp), if_neg (by rw [hu', hdrain']; simp)]

theorem execDriveAdmit_claims (h : Ready 0x0F06 r f s) (hfit : fitted s pNvm (fieldLE f.raw 24 1) = true)
    (hst : (getDrive s (fieldLE f.raw 24 1)).st = .foreign) : ∃ t, exec (.driveAdmit r) s = .next t ∧ Done r 0 t ∧
    t.cus = { s.cus with
      drives := modAt s.cus.drives (fieldLE f.raw 24 1) (fun x => { x with st := .init, initAt := monoUs s, unit := none })
      known := s.cus.known ++ (if canDraw s then [{ uid := random (started r s) 16, lsn := s.led.lsn }] else []) } ∧
    t.outs = s.outs ++ Out.nvme (fieldLE f.raw 24 1) .deallocate :: (if canDraw s then
      [Out.nvme (fieldLE f.raw 24 1) (.label s.fuse.uid (random (started r s) 16) s.led.lsn)] else []) := by
  refine ⟨_, congrArg Host.Outcome.next (startOp_ready h _), ?_⟩
  have hfit' : fitted (started r s) pNvm (fieldLE f.raw 24 1) = true := hfit
  have hst' : (getDrive (started r s) (fieldLE f.raw 24 1)).st = .foreign := hst
  rw [if_neg (by rw [hfit']; simp), if_neg (by rw [hst']; simp)]
  have hflight : getFlight (onlyIf (canDraw s) (writeLabel (fieldLE f.raw 24 1)) (emit (.nvme (fieldLE f.raw 24 1) .deallocate) (started r s))) r =
      some { f with begun := true } :=
    (getFlight_of_host ((onlyIf_frame (.refl _ _) _ _ fun k => writeLabel_frame k (within_refl _) _).flights rfl)).trans h.begun
  have hrecord := (driveRecord_frame (.refl _ (onlyIf (canDraw s) (writeLabel (fieldLE f.raw 24 1))
    (emit (.nvme (fieldLE f.raw 24 1) .deallocate) (started r s)))) (within_refl _) (fieldLE f.raw 24 1) 6 2).flights rfl
  refine ⟨Machine.settle_done (s := modDrive _ _ (driveRecord _ 6 2 _)) ((getFlight_of_host hrecord).trans hflight) h.noFate 0, ?_⟩
  rw [settle_cus, settle_outs, modDrive, modCus_cus, modCus_outs, driveRecord_cus, driveRecord_outs, show canDraw (started r s) = canDraw s from rfl]
  cases hdraw : canDraw s with
  | true =>
    obtain ⟨hcus, houts⟩ := writeLabel_writes (s := emit (.nvme (fieldLE f.raw 24 1) .deallocate) (started r s)) (fieldLE f.raw 24 1)
    rw [random_emit] at hcus houts
    simp only [onlyIf, if_true, hcus, houts]
    exact ⟨rfl, List.append_assoc _ _ _⟩
  | false => exact ⟨by simp [onlyIf], rfl⟩

/-! ### Service -/

theorem execService_enters (h : Ready 0x0F07 r f s) (hmode : s.pwr.mode = .cab) (hpark : s.pwr.parking = .none)
    (hlatch : latch s = .locked ∨ latch s = .armed) (hrest : atRest s = true) : ∃ t, exec (.service r) s = .next t ∧ Done r 0 t ∧
    t.pwr.mode = .service ∧ t.pwr.serviceEnd = some (monoUs s + 1000000 * fieldLE f.raw 24 2) := by
  refine ⟨_, congrArg Host.Outcome.next (startOp_ready h _), ?_⟩
  have hrest' : atRest (started r s) = true := hrest
  have hlatch' : (latch (started r s) == .locked || latch (started r s) == .armed) = true := by
    rw [show latch (started r s) = latch s from rfl]; simpa using hlatch
  have henter : ∀ q, enterService q (started r s) =
      modPwr (fun p => { p with mode := .service, serviceEnd := some q }) (started r s) := fun q => by
    unfold enterService abandonParking
    rw [started_pwr, hmode, hpark, if_pos ⟨rfl, by simp⟩, if_neg (by simp)]
  simp only [hrest', hlatch', started_pwr, hmode, henter, Bool.and_self, and_self, or_true, if_true]
  refine ⟨Machine.settle_done (s := modPwr _ (started r s)) h.begun h.noFate 0, ?_⟩
  rw [settle_pwr]
  exact ⟨rfl, rfl⟩

theorem execService_refused (h : Ready 0x0F07 r f s) (hmode : s.pwr.mode = .drive) : ∃ t, exec (.service r) s = .next t ∧
    Ended r fPolicy 0 0x24 t ∧ t.pwr = s.pwr := by
  refine ⟨_, congrArg Host.Outcome.next (startOp_ready h _), ?_⟩
  simp only [started_pwr, hmode, reduceCtorEq, false_and, or_self, if_false]
  exact ⟨h.settle_ended (failFate fPolicy 0x24), settle_pwr r _⟩

/-- Settles O13. -/
theorem serviceOperations : Obligations.ServiceOperations :=
  ⟨fun _ _ _ _ h hl => execFaultRead_writes h hl, fun _ _ _ h hb ht hi ho hbusy hok => execUnitTest_pair h hb ht hi ho hbusy hok,
    fun _ _ _ h hb _ hk ht hbusy hh => execUnitTest_passes h hb hk ht hbusy hh,
    fun _ _ _ _ h hb hk hl hst hx => execBypass_leaves h hb hk hl hst hx, unitSt_bypassRecord,
    fun _ _ _ _ h hb hk hm hbusy ht hx => execRestore_rejoins h hb hk hm hbusy ht hx,
    fun _ _ _ _ _ h hf hu hbusy => execScrub_clean h hf hu hbusy, fun _ _ _ h hf hu hd => execDriveDrain_begins h hf hu hd,
    fun _ _ _ h hf hst => execDriveAdmit_claims h hf hst, fun _ _ _ h hm hp hl hr => execService_enters h hm hp hl hr,
    fun _ _ _ h hm => execService_refused h hm⟩

end Sys2Proof.Machine

/-! The angle inputs and the speed signals (O14). -/

namespace Sys2Proof.Machine

variable {s t u : State}

/-! ### What passing time and the watches leave of the clocks -/

/-- Time that passes leaves the decoders and the signals as they are. -/
theorem elapseToNs_clk (n : Nat) (s : State) : ∃ cnts, (elapseToNs n s).clk = { s.clk with ns := max s.clk.ns n, cnts := cnts } := by
  have h := elapseToNs_frame (.refl _ s) (within_refl _) n
  have hrest : { (elapseToNs n s).clk with ns := 0, cnts := [], ledgerUs := 0 } = { s.clk with ns := 0, cnts := [], ledgerUs := 0 } := h.part .clk rfl
  refine ⟨(elapseToNs n s).clk.cnts, ?_⟩
  rw [← elapseToNs_ns n s]
  calc (elapseToNs n s).clk = { { (elapseToNs n s).clk with ns := 0, cnts := [], ledgerUs := 0 } with
        ns := (elapseToNs n s).clk.ns, cnts := (elapseToNs n s).clk.cnts, ledgerUs := s.clk.ledgerUs } := by rw [← (h.part .led rfl).2]
    _ = _ := congrArg (fun c : Clk => ({ c with ns := (elapseToNs n s).clk.ns, cnts := (elapseToNs n s).clk.cnts, ledgerUs := s.clk.ledgerUs } : Clk)) hrest

/-- The watches that follow a speed note at most the time of a ledger record among the clocks. -/
theorem speedWatch_clk : ∃ l, (speedWatch s).clk = { s.clk with ledgerUs := l } := by
  have h := speedWatch_frame (.refl _ s) (within_refl _)
  have hrest : { (speedWatch s).clk with ns := 0, cnts := [], ledgerUs := 0 } = { s.clk with ns := 0, cnts := [], ledgerUs := 0 } := h.part .clk rfl
  refine ⟨(speedWatch s).clk.ledgerUs, ?_⟩
  calc (speedWatch s).clk = { { (speedWatch s).clk with ns := 0, cnts := [], ledgerUs := 0 } with
        ns := s.clk.ns, cnts := s.clk.cnts, ledgerUs := (speedWatch s).clk.ledgerUs } := by
        rw [← h.time rfl, ← (h.part .counters rfl : _ = s.clk.cnts)]
    _ = _ := congrArg (fun c : Clk => ({ c with ns := s.clk.ns, cnts := s.clk.cnts, ledgerUs := (speedWatch s).clk.ledgerUs } : Clk)) hrest

@[simp] theorem enterDrive_clk : (enterDrive s).clk = s.clk := (enterDrive_frame (.refl _ s) (within_refl _)).clk_eq rfl rfl rfl rfl
@[simp] theorem modeWatch_clk : (modeWatch s).clk = s.clk := (modeWatch_frame (.refl _ s) (within_refl _)).clk_eq rfl rfl rfl rfl

/-! ### The crank decoder -/

/-- The decoder does not read the time of the last edge that R313 keeps. -/
theorem crankStep_seen (n : Nat) (c : Crank) (x : Option Nat) :
    crankStep n { c with seen := x } = ({ (crankStep n c).1 with seen := x }, (crankStep n c).2) := by
  rcases c with ⟨last, _, per, _, _, sync, _, _, _, _, _, _, _, _⟩
  unfold crankStep
  cases last with
  | none => rfl
  | some l =>
    cases per with
    | none => rfl
    | some q =>
      dsimp only
      repeat' split
      all_goals rfl

/-- What the decoder's event says of the decoder after it. -/
def EventFits (p : Crank × CrankEvent) : Prop :=
  (p.2 = .synced → p.1.sync = true ∧ p.1.tooth = 0) ∧ (p.2 = .lost → p.1.sync = false)

theorem crankStep_fits (n : Nat) (c : Crank) : EventFits (crankStep n c) := by
  unfold crankStep
  dsimp only
  repeat' split
  all_goals simp [EventFits, crankLost]

/-! ### The reference -/

@[simp] theorem onCrankLost_crank : (onCrankLost s).clk.crank = s.clk.crank := by
  unfold onCrankLost
  extract_lets s₁
  split
  · rfl
  · rfl

theorem onCrankLost_ns : (onCrankLost s).clk.ns = s.clk.ns := by
  unfold onCrankLost
  extract_lets s₁
  split
  · rfl
  · rfl

theorem onCrankLost_events : (onCrankLost s).clk.events = setBits s.clk.events 0 ∧ (onCrankLost s).clk.ref = s.clk.ref ∧
    (s.clk.ref = .crank → (onCrankLost s).clk.switching.isSome = true) := by
  unfold onCrankLost
  extract_lets s₁
  split
  · exact ⟨rfl, rfl, fun _ => rfl⟩
  · next hn =>
    refine ⟨rfl, rfl, fun hr => ?_⟩
    cases hs : s.clk.switching with
    | none => exact absurd ⟨hr, hs⟩ hn
    | some x => exact congrArg Option.isSome hs

@[simp] theorem onCrankSync_crank : (onCrankSync s).clk.crank = s.clk.crank := by
  unfold onCrankSync
  split
  · rfl
  · rfl

theorem onCrankSync_ref (h : s.clk.switching = none) : (onCrankSync s).clk.ref = .crank := by
  rw [onCrankSync, if_pos h]
  rfl

/-- The revolution that synchronisation takes is all that changes. -/
theorem syncRev_crank : ∃ b, (syncRev s).clk = { s.clk with crank := { s.clk.crank with second := b } } := by
  unfold syncRev
  split
  · split
    · exact ⟨_, rfl⟩
    · exact ⟨_, rfl⟩
  · exact ⟨s.clk.crank.second, rfl⟩

@[simp] theorem camAdvance_clk (d : Nat) : ∃ k, (camAdvance d s).clk = { s.clk with cam := k } := by
  unfold camAdvance
  rw [modClk_clk]
  dsimp only
  split
  · exact ⟨_, rfl⟩
  · exact ⟨s.clk.cam, rfl⟩

theorem crankEdge_none {n : Nat} (h : (crankStep n s.clk.crank).2 = .none) : (crankEdge n s).clk.crank = (crankStep n s.clk.crank).1 ∧
    (crankEdge n s).clk.ref = s.clk.ref ∧ (crankEdge n s).clk.switching = s.clk.switching := by
  unfold crankEdge
  extract_lets r next
  rw [show r.2 = .none from h]
  dsimp only
  split
  · obtain ⟨k, hk⟩ := camAdvance_clk (s := onlyIf (r.1.tooth == 0) (modClk (fun b => { b with prop := measureRatio n b.table.propTeeth b.prop })) next)
      (if r.1.tooth = 0 then 12288 else 4096)
    rw [hk]
    cases r.1.tooth == 0 with
    | true => exact ⟨rfl, rfl, rfl⟩
    | false => exact ⟨rfl, rfl, rfl⟩
  · exact ⟨rfl, rfl, rfl⟩

theorem crankEdge_synced {n : Nat} (h : (crankStep n s.clk.crank).2 = .synced) (hs : s.clk.switching = none) :
    (crankEdge n s).clk.ref = .crank ∧ ∃ b, (crankEdge n s).clk.crank = { (crankStep n s.clk.crank).1 with second := b } := by
  unfold crankEdge
  extract_lets r next
  rw [show r.2 = .synced from h]
  dsimp only
  obtain ⟨b, hb⟩ := syncRev_crank (s := next)
  rw [enterDrive_clk, modClk_clk]
  refine ⟨onCrankSync_ref (by rw [hb]; exact hs), b, ?_⟩
  show (onCrankSync (syncRev next)).clk.crank = _
  rw [onCrankSync_crank, hb]
  rfl

theorem crankEdge_lost {n : Nat} (h : (crankStep n s.clk.crank).2 = .lost) : (crankEdge n s).clk.crank = (crankStep n s.clk.crank).1 ∧
    (crankEdge n s).clk.events = setBits s.clk.events 0 ∧ (s.clk.ref = .crank → (crankEdge n s).clk.switching.isSome = true) := by
  unfold crankEdge
  extract_lets r next
  rw [show r.2 = .lost from h]
  dsimp only
  obtain ⟨he, -, hs⟩ := onCrankLost_events (s := next)
  exact ⟨onCrankLost_crank, he, hs⟩

/-! ### The edges -/

theorem execAng0Edge_steps {n : Nat} (hon : angleHeard s 0 = true) (hsw : s.clk.switching = none) (hdue : crankIsDue (elapseToNs n s) = false)
    (ht : t = crankEdge (edgeTime (elapseToNs n s)) (modClk (fun b =>
      { b with crank := { b.crank with seen := some (edgeTime (elapseToNs n s)) } }) (elapseToNs n s))) :
    exec (.ang0Edge n) s = .next (speedWatch (edgeCuts t)) ∧
    t.clk.crank.seen = some (edgeTime (elapseToNs n s)) ∧
    ((crankStep (edgeTime (elapseToNs n s)) s.clk.crank).2 = .none → t.clk.ref = s.clk.ref ∧ t.clk.switching = none ∧
      t.clk.crank = { (crankStep (edgeTime (elapseToNs n s)) s.clk.crank).1 with
        seen := some (edgeTime (elapseToNs n s)) }) ∧
    ((crankStep (edgeTime (elapseToNs n s)) s.clk.crank).2 = .synced → t.clk.ref = .crank ∧ t.clk.crank.sync = true ∧
      t.clk.crank.tooth = 0) ∧
    ((crankStep (edgeTime (elapseToNs n s)) s.clk.crank).2 = .lost → t.clk.crank.sync = false ∧
      t.clk.events = setBits s.clk.events 0 ∧ (s.clk.ref = .crank → t.clk.switching.isSome = true)) := by
  obtain ⟨cnts, hclk⟩ := elapseToNs_clk n s
  obtain ⟨hsync, hlost⟩ := crankStep_fits (edgeTime (elapseToNs n s)) s.clk.crank
  generalize hq : edgeTime (elapseToNs n s) = q at ht hsync hlost ⊢
  generalize hv : modClk (fun b => { b with crank := { b.crank with seen := some q } }) (elapseToNs n s) = v at ht
  have hvclk : v.clk = { s.clk with ns := max s.clk.ns n, cnts := cnts, crank := { s.clk.crank with seen := some q } } := by
    rw [← hv, modClk_clk, hclk]
  have hstep : crankStep q v.clk.crank = ({ (crankStep q s.clk.crank).1 with seen := some q }, (crankStep q s.clk.crank).2) := by
    rw [hvclk]; exact crankStep_seen q s.clk.crank (some q)
  have hseen : t.clk.crank.seen = some q := by
    rw [ht]
    cases he : (crankStep q v.clk.crank).2 with
    | none => rw [(crankEdge_none he).1, hstep]
    | synced =>
      obtain ⟨b, hb⟩ := (crankEdge_synced he (by rw [hvclk]; exact hsw)).2
      rw [hb, hstep]
    | lost => rw [(crankEdge_lost he).1, hstep]
  refine ⟨?_, hseen, fun h => ?_, fun h => ?_, fun h => ?_⟩
  · refine congrArg Host.Outcome.next ((if_pos hon).trans ?_)
    dsimp only
    rw [hdue, hq]
    simp only [onlyIf, Bool.false_eq_true, if_false]
    rw [hv, if_neg (by rw [hvclk]; simp [hsw]), ht]
  · obtain ⟨hc, hr, hs⟩ := crankEdge_none (s := v) (n := q) (by rw [hstep]; exact h)
    rw [ht, hc, hr, hs, hstep, hvclk]
    exact ⟨rfl, hsw, rfl⟩
  · obtain ⟨hr, b, hc⟩ := crankEdge_synced (s := v) (n := q) (by rw [hstep]; exact h) (by rw [hvclk]; exact hsw)
    rw [ht, hr, hc, hstep]
    exact ⟨rfl, hsync h⟩
  · obtain ⟨hc, he, hs⟩ := crankEdge_lost (s := v) (n := q) (by rw [hstep]; exact h)
    rw [ht, hc, he, hstep]
    rw [hvclk] at hs ⊢
    exact ⟨hlost h, rfl, hs⟩

theorem execAng1Edge_finds {n : Nat} (hon : angleHeard s 1 = true) (hsync : s.clk.crank.sync = true) (hcam : s.clk.cam.known = false) : ∃ t,
    exec (.ang1Edge n) s = .next t ∧
    t.clk.cam = { known := true, pos := camAngle (elapseToNs n s) + 4096 * (s.clk.table.cycleRevs - 1), adv := 0 } ∧
    t.clk.crank.second = true := by
  obtain ⟨cnts, hclk⟩ := elapseToNs_clk n s
  refine ⟨modeWatch (enterDrive (modClk (fun b => { b with
        cam := { known := true, pos := camAngle (elapseToNs n s) + 4096 * (b.table.cycleRevs - 1), adv := 0 },
        crank := { b.crank with second := true } }) (elapseToNs n s))), congrArg Host.Outcome.next ?_, ?_⟩
  · rw [if_pos hon]
    dsimp only
    rw [if_neg (by rw [hclk]; simp [hcam]), if_pos (by rw [hclk]; exact hsync)]
  · rw [modeWatch_clk, enterDrive_clk, modClk_clk, hclk]
    exact ⟨rfl, rfl⟩

theorem execAng1Edge_checks {n : Nat} (hon : angleHeard s 1 = true) (hsync : s.clk.crank.sync = true) (hcam : s.clk.cam.known = true) : ∃ t,
    exec (.ang1Edge n) s = .next t ∧
    (t.clk.cam.known = true ↔ aroundDist (4096 * s.clk.table.cycleRevs) (camAngle (elapseToNs n s)) s.clk.cam.pos ≤ 256) := by
  obtain ⟨cnts, hclk⟩ := elapseToNs_clk n s
  refine ⟨_, rfl, ?_⟩
  rw [if_pos hon]
  dsimp only
  rw [if_pos (by rw [hclk]; exact hcam), if_pos (by rw [hclk, hsync]; rfl), hclk]
  split
  · next h => simpa [hclk, hcam] using h
  · next h => simpa using h

theorem execAng2Edge_takes {n : Nat} (hon : angleHeard s 2 = true) (href : s.clk.ref ≠ .prop) : ∃ t, exec (.ang2Edge n) s = .next t ∧
    t.clk.prop = propStep (edgeTime (elapseToNs n s)) s.clk.prop ∧ t.clk.prop.last = some (edgeTime (elapseToNs n s)) ∧
    t.clk.prop.edges = s.clk.prop.edges + 1 ∧ t.clk.ref = s.clk.ref ∧ t.clk.crank = s.clk.crank := by
  obtain ⟨cnts, hclk⟩ := elapseToNs_clk n s
  have hwatch : propWatch (elapseToNs n s).clk.prop (elapseToNs n s) = elapseToNs n s :=
    if_neg (fun h => href (by rw [← h.1, hclk]))
  have hstep : ∀ (q : Nat) (p : PropShaft), (propStep q p).last = some q ∧ (propStep q p).edges = p.edges + 1 := fun q p => by
    unfold propStep
    extract_lets p'
    split
    · exact ⟨rfl, rfl⟩
    · exact ⟨rfl, rfl⟩
    · exact ⟨rfl, rfl⟩
  obtain ⟨hlast, hedges⟩ := hstep (edgeTime (elapseToNs n s)) s.clk.prop
  refine ⟨modClk (fun b => { b with prop := propStep (edgeTime (elapseToNs n s)) b.prop }) (elapseToNs n s), congrArg Host.Outcome.next ?_, ?_⟩
  · rw [if_pos hon]
    dsimp only
    rw [hwatch, if_neg]
    rw [modClk_clk, hclk]
    exact href
  · rw [modClk_clk, hclk]
    exact ⟨rfl, hlast, hedges, rfl, rfl⟩

theorem execAng3Pulse_takes {n : Nat} (hon : angleHeard s 3 = true) : ∃ t, exec (.ang3Pulse n) s = .next t ∧
    t.clk.wheelLast = some (edgeTime (elapseToNs n s)) ∧
    t.clk.wheelPer = s.clk.wheelLast.map (fun l => edgeTime (elapseToNs n s) - l) ∧ t.clk.crank = s.clk.crank := by
  obtain ⟨cnts, hclk⟩ := elapseToNs_clk n s
  refine ⟨_, rfl, ?_⟩
  rw [if_pos hon]
  dsimp only
  obtain ⟨l, hl⟩ := speedWatch_clk (s := modClk (fun b => { b with
    wheelLast := some (edgeTime (elapseToNs n s)), wheelPer := b.wheelLast.map (fun l => edgeTime (elapseToNs n s) - l) }) (elapseToNs n s))
  rw [hl, modClk_clk, hclk]
  exact ⟨rfl, rfl, rfl⟩

/-! ### Overdue edges -/

theorem crankLimit_of_due {d : Nat} (h : crankDue s.clk.crank = some d) : crankLimit s = some d := by
  have hsync : s.clk.crank.sync = true := by
    cases hs : s.clk.crank.sync with
    | true => rfl
    | false => rw [crankDue, hs] at h; cases h
  rw [crankLimit, hsync]
  exact h

theorem execCrankEdgeTimeout_loses {d : Nat} (hon : angleHeard s 0 = true) (hd : crankDue s.clk.crank = some d)
    (hper : s.clk.crank.per.getD 0 ≤ 20000000) : ∃ t,
    exec .crankEdgeTimeout s = .next t ∧ t.clk.crank.sync = false ∧ t.clk.events = setBits s.clk.events 0 ∧
    t.clk.ref = s.clk.ref ∧ (s.clk.ref = .crank → t.clk.switching.isSome = true) ∧ d ≤ t.clk.ns := by
  obtain ⟨cnts, hclk⟩ := elapseToNs_clk d s
  refine ⟨speedWatch (crankOverdue (elapseToNs d s)), congrArg Host.Outcome.next ?_, ?_⟩
  · rw [crankLimit_of_due hd]
    exact if_pos hon
  obtain ⟨l, hl⟩ := speedWatch_clk (s := crankOverdue (elapseToNs d s))
  rw [hl]
  dsimp only
  rw [crankOverdue]
  dsimp only
  rw [if_pos (by rw [hclk]; exact hper)]
  generalize hv : modClk (fun b => { b with crank := { crankLost (elapseToNs d s).clk.crank ((elapseToNs d s).clk.crank.last.getD 0) with last := none } })
    (elapseToNs d s) = v
  have hvclk : v.clk = { s.clk with
      ns := max s.clk.ns d, cnts := cnts, crank := { crankLost s.clk.crank (s.clk.crank.last.getD 0) with last := none } } := by
    rw [← hv, modClk_clk, hclk]
  obtain ⟨he, hr, hs⟩ := onCrankLost_events (s := v)
  rw [onCrankLost_crank, he, hr, onCrankLost_ns]
  rw [hvclk] at hs ⊢
  exact ⟨rfl, rfl, rfl, hs, Nat.le_max_right _ _⟩

theorem execCrankEdgeTimeout_stops {d : Nat} (hon : angleHeard s 0 = true) (hd : crankDue s.clk.crank = some d)
    (hper : 20000000 < s.clk.crank.per.getD 0) : ∃ t,
    exec .crankEdgeTimeout s = .next t ∧ t.clk.crank = { seen := s.clk.crank.seen } ∧ t.clk.ref = .time ∧
    t.clk.posHeld = angPos (elapseToNs d s) ∧ t.clk.events = s.clk.events := by
  obtain ⟨cnts, hclk⟩ := elapseToNs_clk d s
  refine ⟨speedWatch (crankOverdue (elapseToNs d s)), congrArg Host.Outcome.next ?_, ?_⟩
  · rw [crankLimit_of_due hd]
    exact if_pos hon
  obtain ⟨l, hl⟩ := speedWatch_clk (s := crankOverdue (elapseToNs d s))
  rw [hl]
  dsimp only
  rw [crankOverdue]
  dsimp only
  rw [if_neg (by rw [hclk]; exact Nat.not_le.mpr hper), refEngineStop]
  split
  · next hr =>
    rw [hr, modClk_clk, hclk]
    exact ⟨rfl, rfl, rfl, rfl⟩
  · rw [modClk_clk, modClk_clk, hclk]
    exact ⟨rfl, rfl, rfl, rfl⟩

theorem execWheelPulseTimeout_stands {l : Nat} (hon : angleHeard s 3 = true) (hl : s.clk.wheelLast = some l) : ∃ t,
    exec .wheelPulseTimeout s = .next t ∧ l + 1000000000 ≤ t.clk.ns ∧ t.clk.wheelLast = some l ∧ (ang3Road t).getD 0 = 0 := by
  obtain ⟨cnts, hclk⟩ := elapseToNs_clk (l + 1000000000) s
  obtain ⟨q, hq⟩ := speedWatch_clk (s := elapseToNs (l + 1000000000) s)
  refine ⟨speedWatch (elapseToNs (l + 1000000000) s), congrArg Host.Outcome.next ?_, ?_⟩
  · rw [hl]
    exact if_pos hon
  rw [hclk] at hq
  generalize speedWatch (elapseToNs (l + 1000000000) s) = t at hq
  have hns : t.clk.ns = max s.clk.ns (l + 1000000000) := by rw [hq]
  have hlast : t.clk.wheelLast = some l := by rw [hq]; exact hl
  refine ⟨by omega, hlast, ?_⟩
  rw [ang3Road, ang3Speed, hlast]
  split
  · cases t.clk.wheelPer with
    | none => rfl
    | some p =>
      dsimp only
      rw [if_neg (by simp; omega)]
      rfl
  · rfl

/-! ### The speed signals on CAN -/

theorem execRoadSpeedFrame_takes {port : Fin 6} {ident : BitVec 32} {data : Bytes} {v : Nat}
    (hf : speedFrame s port.val ident s.slk.policy.rsPort s.slk.policy.rsId = true)
    (hv : signalOf data s.slk.policy.rsByte s.slk.policy.rsLen = some v) : ∃ t, exec (.roadSpeedFrame port ident data) s = .next t ∧
    canRoad t = some (100 * (v * s.slk.policy.rsScale) / 65536) ∧ t.clk.canRoadAt = some s.clk.ns := by
  refine ⟨_, rfl, ?_⟩
  rw [if_pos hf, hv]
  obtain ⟨l, hl⟩ := speedWatch_clk (s := modClk (fun b => { b with canRoad := v * s.slk.policy.rsScale, canRoadAt := some b.ns }) s)
  rw [canRoad, canSpeed, hl, modClk_clk]
  dsimp only
  rw [if_pos (by omega)]
  exact ⟨rfl, rfl⟩

theorem execEngineSpeedFrame_takes {port : Fin 6} {ident : BitVec 32} {data : Bytes} {v : Nat}
    (hf : speedFrame s port.val ident s.slk.policy.esPort s.slk.policy.esId = true)
    (hv : signalOf data s.slk.policy.esByte s.slk.policy.esLen = some v) : ∃ t, exec (.engineSpeedFrame port ident data) s = .next t ∧
    t.clk.canRpm = v * s.slk.policy.esScale ∧ t.clk.canRpmAt = some s.clk.ns := by
  refine ⟨_, rfl, ?_⟩
  rw [if_pos hf, hv]
  obtain ⟨l, hl⟩ := speedWatch_clk (s := modClk (fun b => { b with canRpm := v * s.slk.policy.esScale, canRpmAt := some b.ns }) s)
  rw [hl]
  exact ⟨rfl, rfl⟩

theorem execSpeedSignalStale_road {t0 : Nat} (hon : angleOn s = true) (ht : s.clk.canRoadAt = some t0) : ∃ t,
    exec (.speedSignalStale false) s = .next t ∧ canRoad t = none ∧ t.clk.canRoadAt = some t0 := by
  obtain ⟨cnts, hclk⟩ := elapseToNs_clk (t0 + 200000000) s
  obtain ⟨q, hq⟩ := speedWatch_clk (s := elapseToNs (t0 + 200000000) s)
  refine ⟨speedWatch (elapseToNs (t0 + 200000000) s), congrArg Host.Outcome.next ?_, ?_⟩
  · simp only [Bool.false_eq_true, if_false, ht, hon, if_true]
  rw [hclk] at hq
  have hat : (speedWatch (elapseToNs (t0 + 200000000) s)).clk.canRoadAt = some t0 := by rw [hq]; exact ht
  refine ⟨?_, hat⟩
  rw [canRoad, canSpeed, hat]
  dsimp only
  rw [if_neg (by rw [hq]; dsimp only; omega)]
  rfl

theorem execSpeedSignalStale_engine {t0 : Nat} (hon : angleOn s = true) (ht : s.clk.canRpmAt = some t0) : ∃ t,
    exec (.speedSignalStale true) s = .next t ∧ t0 + 200000000 ≤ t.clk.ns ∧ t.clk.canRpmAt = some t0 := by
  obtain ⟨cnts, hclk⟩ := elapseToNs_clk (t0 + 200000000) s
  obtain ⟨q, hq⟩ := speedWatch_clk (s := elapseToNs (t0 + 200000000) s)
  refine ⟨speedWatch (elapseToNs (t0 + 200000000) s), congrArg Host.Outcome.next ?_, ?_⟩
  · simp only [if_true, ht, hon]
  rw [hq, hclk]
  exact ⟨Nat.le_max_right _ _, ht⟩

/-! ### The end of a switch and of PROP_HOLD_S -/

theorem execAngleSwitchWindowEnd_ends {target : Ref} (hon : angleOn s = true) (hs : s.clk.switching = some target) (ht : target ≠ .prop) : ∃ t,
    exec .angleSwitchWindowEnd s = .next t ∧ t.clk.ref = (if s.clk.crank.sync then .crank else target) ∧
    t.clk.switching = none ∧ t.clk.events = setBits s.clk.events 1 ∧ s.clk.switchEnd ≤ t.clk.ns := by
  obtain ⟨cnts, hclk⟩ := elapseToNs_clk s.clk.switchEnd s
  refine ⟨switchDone target (elapseToNs s.clk.switchEnd s), congrArg Host.Outcome.next ?_, ?_⟩
  · rw [hs]
    exact if_pos hon
  unfold switchDone
  extract_lets pos at_ s₁
  have hs₁ : s₁.clk.crank = s.clk.crank ∧ s₁.clk.ref = target ∧ s₁.clk.switching = none ∧ s₁.clk.events = setBits s.clk.events 1 ∧
      s.clk.switchEnd ≤ s₁.clk.ns := by
    refine ⟨?_, rfl, rfl, ?_, ?_⟩ 
    · exact (congrArg Clk.crank hclk :)
    · exact (congrArg (fun c : Clk => setBits c.events 1) hclk :)
    · exact (Nat.le_max_right _ _).trans (congrArg Clk.ns hclk).ge
  clear_value s₁
  obtain ⟨hc, hr, hsw, he, hns⟩ := hs₁
  rw [hc]
  cases s.clk.crank.sync with
  | true =>
    rw [if_pos rfl, onCrankSync, if_pos hsw]
    exact ⟨rfl, hsw, he, hns⟩
  | false =>
    rw [if_neg Bool.false_ne_true, propWatch, if_neg (fun h => ht (hr.symm.trans h.1))]
    exact ⟨hr, hsw, he, hns⟩

theorem execPropHoldExpiry_leaves (hon : angleOn s = true) (hr : s.clk.ref = .prop) (hs : s.clk.switching = none) : ∃ t,
    exec .propHoldExpiry s = .next t ∧
    t.clk.events = setBits s.clk.events 4 ∧ t.clk.switching = some .time ∧ t.clk.prop.lost = false ∧
    s.clk.propSince + 1000000000 * s.clk.table.propHoldS ≤ t.clk.ns := by
  obtain ⟨cnts, hclk⟩ := elapseToNs_clk (s.clk.propSince + 1000000000 * s.clk.table.propHoldS) s
  refine ⟨_, rfl, ?_⟩
  rw [if_pos ⟨hr, hs, hon⟩]
  dsimp only
  rw [leaveProp, modClk_clk, modClk_clk, hclk]
  exact ⟨rfl, rfl, rfl, Nat.le_max_right _ _⟩

/-- Settles O14. -/
theorem angleAndSpeed : Obligations.AngleAndSpeed :=
  ⟨fun _ _ _ hon hsw hdue ht => execAng0Edge_steps hon hsw hdue ht, fun _ _ hon hs hc => execAng1Edge_finds hon hs hc,
    fun _ _ hon hs hc => execAng1Edge_checks hon hs hc, fun _ _ hon hr => execAng2Edge_takes hon hr, fun _ _ hon => execAng3Pulse_takes hon,
    fun _ _ hon hd hp => execCrankEdgeTimeout_loses hon hd hp, fun _ _ hon hd hp => execCrankEdgeTimeout_stops hon hd hp,
    fun _ _ hon hl => execWheelPulseTimeout_stands hon hl, fun _ _ _ _ _ hf hv => execRoadSpeedFrame_takes hf hv,
    fun _ _ _ _ _ hf hv => execEngineSpeedFrame_takes hf hv, fun _ _ hon ht => execSpeedSignalStale_road hon ht,
    fun _ _ hon ht => execSpeedSignalStale_engine hon ht, fun _ _ hon hs ht => execAngleSwitchWindowEnd_ends hon hs ht,
    fun _ hon hr hs => execPropHoldExpiry_leaves hon hr hs⟩

end Sys2Proof.Machine

/-! Clocks, the Counter Bank and the TIME class (O15): a statement about XTAL25 that does not hold in Parked. -/

namespace Sys2Proof.Machine

variable {s : State}

@[simp] theorem clockReports_pwr (out : Bool) : (clockReports out s).pwr = s.pwr := (clockReports_frame (.refl _ s) (within_refl _) out).pwr rfl
@[simp] theorem clockReports_radio (out : Bool) : (clockReports out s).radio = s.radio := (clockReports_frame (.refl _ s) (within_refl _) out).radio rfl

/-- An APPROACH poll in Parked uses the wake slice (R96). -/
theorem startApproach_slice (hm : s.pwr.mode = .parked) : (startApproach s).pwr.slice.isSome = true := by
  unfold startApproach
  extract_lets s₁ up
  have hs₁ : s₁.pwr.slice.isSome = true := by
    show (useSlice (modRadio _ s)).pwr.slice.isSome = true
    rw [useSlice, if_pos (by exact hm)]
    rfl
  have hpoll := (onlyIf_frame (ps := [.sec, .radio, .free]) (.refl _ (modRadio (fun b => { b with approachDue := !up }) s₁)) up
    (startPoll .approach 8 0) fun k => startPoll_frame k (within_refl _) .approach 8 0).pwr rfl
  rw [hpoll]
  exact hs₁

/-- A part in Parked on the RC, the wake slice without power, for which an APPROACH poll is due. -/
def approachWaits : State :=
  { State.reset with pwr := { State.reset.pwr with mode := .parked, slice := none }, clk := { State.reset.clk with onRc := true },
                     radio := { State.reset.radio with approachDue := true } }

/-- XTAL25's return begins the poll that waits, and in Parked the poll powers the wake slice. -/
theorem xtal25Return_powers_slice : ∃ t, exec .xtal25Return approachWaits = .next t ∧ t.pwr ≠ approachWaits.pwr := by
  refine ⟨_, congrArg Host.Outcome.next (if_pos rfl), fun h => ?_⟩
  generalize hv : clockReports false (fault uClock 0 0x09 sInfo 0x09 0 0 (modClk (fun c => { c with onRc := false }) approachWaits)) = v at h
  have hradio : v.radio = approachWaits.radio := by rw [← hv, clockReports_radio, fault_radio]; rfl
  have hpwr : v.pwr = approachWaits.pwr := by rw [← hv, clockReports_pwr, fault_pwr]; rfl
  have hnext : nextPoll v = startApproach v := by
    rw [nextPoll, if_neg (by rw [startHolds, hradio]; exact Bool.false_ne_true), hradio]
    show (if (approachWaits.radio.presenceDue && v.pwr.parking == .none) = true then _ else _) = _
    rw [if_neg (by exact Bool.false_ne_true), if_pos (by rw [hpwr]; rfl)]
  have hnone : v.radio.poll.isNone = true := by rw [hradio]; rfl
  dsimp only at h
  rw [hnone, onlyIf, if_pos rfl, hnext] at h
  have hslice := startApproach_slice (s := v) (by rw [hpwr]; rfl)
  rw [h] at hslice
  exact Bool.false_ne_true hslice

/-- Refutes O15: XTAL25 that returns in Parked while an APPROACH poll waits begins that poll, which powers the wake slice (R96), so the
power block does not read the same after it. -/
theorem not_clocksAndCounters : ¬ Obligations.ClocksAndCounters := by
  unfold Obligations.ClocksAndCounters
  rintro ⟨-, -, -, hreturn, -⟩
  obtain ⟨t, ht, -, hpwr⟩ := hreturn approachWaits rfl
  obtain ⟨u, hu, hne⟩ := xtal25Return_powers_slice
  cases hu.symm.trans ht
  exact hne hpwr

end Sys2Proof.Machine

/-! Custody operations (O16). -/

namespace Sys2Proof.Machine

variable {s t u : State} {r st n : Nat} {f g : Flight}

@[simp] theorem sendWrites_cus (l : List (Nat × NvmeCmd)) : (sendWrites l s).cus = s.cus := (sendWrites_frame (.refl _ s) (within_refl _) l).cus rfl
@[simp] theorem drainOn_flights : (drainOn s).host.flights = s.host.flights := (drainOn_frame (.refl _ s) (within_refl _)).flights rfl
@[simp] theorem custodyWork_flights : (custodyWork s).host.flights = s.host.flights := (custodyWork_frame (.refl _ s) (within_refl _)).flights rfl
@[simp] theorem reclaim_flights : (reclaim s).host.flights = s.host.flights := (reclaim_frame (.refl _ s) (within_refl _)).flights rfl
@[simp] theorem reclaim_cus : (reclaim s).cus = s.cus := (reclaim_frame (.refl _ s) (within_refl _)).cus rfl
@[simp] theorem tryLog_cus (k : LKind) : (tryLog k s).cus = s.cus := (tryLog_frame (.refl _ s) (within_refl _) k).cus rfl
@[simp] theorem lowerFrom_cus (g : Nat) : (lowerFrom g s).cus = s.cus := (lowerFrom_frame (.refl _ s) (within_refl _) g).cus rfl
@[simp] theorem lowerEnable_cus (g : Nat) : (lowerEnable g s).cus = s.cus := (lowerEnable_frame (.refl _ s) (within_refl _) g).cus rfl

/-! ### Beginning a record -/

@[simp] theorem length_slice (b : Bytes) (off n : Nat) : (slice b off n).length = n := by
  simp [slice, zeros]

/-- What placing a record cannot change: a property that the groups, the open groups, the jobs and the figures of a job's stamp leave. -/
def Placing (P : Cus → Prop) : Prop := ∀ (c : Cus) gs n op js full fin top, P c →
  P { c with groups := gs, nextGroup := n, open_ := op, jobs := js, full := full, finish := fin, topStamp := top }

/-- What finding room cannot change: a property that the groups and the open groups leave. -/
def Grouping (P : Cus → Prop) : Prop := ∀ (c : Cus) gs n op, P c → P { c with groups := gs, nextGroup := n, open_ := op }

theorem Placing.grouping {P : Cus → Prop} (h : Placing P) : Grouping P := fun c gs n op hc => h c gs n op c.jobs c.full c.finish c.topStamp hc

/-- The chains of a store: its records in place and each class's head. -/
def chainsOf (c : Cus) : List CusRec × Tab ChainHead := (c.recs, c.heads)

theorem placing_chains (x : List CusRec × Tab ChainHead) : Placing (fun c => chainsOf c = x) := fun _ _ _ _ _ _ _ _ h => h

theorem newGroup_cusHolds {P : Cus → Prop} (hP : Grouping P) {avoid : List Nat} {place cls : Nat} {c c' : Cus} {g : Group}
    (h : newGroup avoid place cls c = some (g, c')) (hc : P c) : P c' := by
  unfold newGroup at h
  dsimp only at h
  split at h
  · cases h
  · cases h
    exact hP c _ _ _ hc

/-- Finding room for a record's copies changes groups alone. -/
theorem placeBytes_cusHolds {P : Cus → Prop} (hP : Grouping P) {avoid : List Nat} {place cls fuel need : Nat} {c c' : Cus} {l : List Piece}
    (h : placeBytes avoid place cls fuel need c = some (l, c')) (hc : P c) : P c' := by
  induction fuel generalizing need c l with
  | zero => cases h
  | succ fuel ih =>
    unfold placeBytes at h
    split at h
    · cases h
      exact hc
    · extract_lets pick at h
      have hpick : ∀ p, pick = some p → P p.2 := by
        intro p hp
        dsimp only [pick] at hp
        split at hp
        · cases hp
          exact hc
        · exact newGroup_cusHolds hP hp hc
      clear_value pick
      cases pick with
      | none => cases h
      | some p =>
        dsimp only at h
        split at h
        · cases h
        · next hrest =>
          cases h
          exact ih hrest (hP p.2 _ p.2.nextGroup p.2.open_ (hpick p rfl))

theorem beginRec_cusHolds {P : Cus → Prop} (hP : Placing P) {what : JobKind} {x : CusRec} {body : Bytes} (h : beginRec what x body s = .ok u)
    (hc : P s.cus) : P u.cus := by
  unfold beginRec at h
  split at h
  · cases h
  · split at h
    · cases h
    · extract_lets y at h
      split at h
      · cases h
      · next places c hplace =>
        extract_lets z s₁ st s₂ at h
        cases h
        rw [sendWrites_cus]
        exact hP c c.groups c.nextGroup c.open_ _ _ _ _ (placeBytes_cusHolds hP.grouping hplace hc)

/-- A record that begins waits for its copies under the next RID of its chain. -/
theorem beginRec_ok {what : JobKind} {x : CusRec} {body : Bytes} (h : beginRec what x body s = .ok u) :
    ∃ j ∈ u.cus.jobs, j.what = what ∧ j.item.cls = x.cls ∧ j.item.rid = (chainHead s x.cls).rid + 1 ∧ j.item.ten = x.ten ∧
      j.item.bodyLen = body.length := by
  unfold beginRec at h
  split at h
  · cases h
  · split at h
    · cases h
    · extract_lets y at h
      split at h
      · cases h
      · next places c hplace =>
        extract_lets z s₁ st s₂ at h
        cases h
        rw [sendWrites_cus]
        exact ⟨_, List.mem_append_right _ (List.mem_singleton_self _), rfl, rfl, rfl, rfl, rfl⟩

theorem placeAgain_cusHolds {P : Cus → Prop} (hP : Placing P) {avoid : List Nat} {j : CusJob} (h : placeAgain avoid j s = some u) (hc : P s.cus) :
    P u.cus := by
  unfold placeAgain at h
  extract_lets cls at h
  split at h
  · cases h
  · next places c hplace =>
    extract_lets x j' s₁ at h
    cases h
    rw [sendWrites_cus]
    have hopen : P { s.cus with open_ := tabErase s.cus.open_ cls } :=
      hP s.cus s.cus.groups s.cus.nextGroup _ s.cus.jobs s.cus.full s.cus.finish s.cus.topStamp hc
    have hplaced := placeBytes_cusHolds hP.grouping hplace hopen
    have htry : s₁.cus = { c with jobs := c.jobs.map (fun y => if y.item.cls = cls then j' else y) } := tryLog_cus (s := modCus _ s) _
    rw [htry]
    exact hP c c.groups c.nextGroup c.open_ _ c.full c.finish c.topStamp hplaced

theorem each_holds {α : Type} {P : State → Prop} (l : List α) (f : α → State → State) (hf : ∀ a t, P t → P (f a t)) (h : P s) : P (each l f s) := by
  unfold each
  induction l generalizing s with
  | nil => exact h
  | cons a l ih => exact ih (hf a s h)

/-- What custody does by itself places records, and lets drives that are LOST leave. -/
theorem custodyWork_cusHolds {P : Cus → Prop} (hP : Placing P) (hleave : ∀ (d : Nat) (t : State), P t.cus → P (lostLeaves d t).cus) (hc : P s.cus) :
    P (custodyWork s).cus := by
  unfold custodyWork
  extract_lets s₁ s₂
  have hfull : ∀ v : State, P v.cus → P (modCus (fun b => { b with full := true }) v).cus := fun v hv =>
    hP v.cus v.cus.groups v.cus.nextGroup v.cus.open_ v.cus.jobs true v.cus.finish v.cus.topStamp hv
  have hs₁ : P s₁.cus := by
    refine each_holds (P := fun x => P x.cus) _ _ (fun j t ht => ?_) (each_holds (P := fun x => P x.cus) _ _ (fun d t ht => hleave d t ht) hc)
    split
    · next hu => exact placeAgain_cusHolds hP hu ht
    · exact ht
  have hs₂ : P s₂.cus := by
    dsimp only [s₂]
    clear_value s₁
    split
    · split
      · next hb => exact beginRec_cusHolds hP hb hs₁
      · exact hfull s₁ hs₁
      · exact hs₁
    · exact hs₁
  clear_value s₂ s₁
  split
  · split
    · next hb => exact (beginRec_cusHolds hP hb hs₂ :)
    · exact hfull s₂ hs₂
    · exact hs₂
  · exact hs₂

theorem lostLeaves_chains (d : Nat) (t : State) : chainsOf (lostLeaves d t).cus = chainsOf t.cus := by
  unfold lostLeaves
  split
  · rfl
  · rfl

/-- What custody does by itself begins records and changes none in place. -/
theorem custodyWork_chains : chainsOf (custodyWork s).cus = chainsOf s.cus :=
  custodyWork_cusHolds (P := fun c => chainsOf c = chainsOf s.cus) (placing_chains _) (fun d t ht => (lostLeaves_chains d t).trans ht) rfl

theorem drainEnds_chains : chainsOf (drainEnds s).cus = chainsOf s.cus := by
  unfold drainEnds
  extract_lets s₁ s₂
  have hs₁ : s₁.cus = s.cus := each_same State.cus _ _ (fun d t => by
    cases (storeDrives t.cus).any (fun e => e.1 == d) with
    | true => rfl
    | false => rfl) s
  clear_value s₁
  have hs₂ : chainsOf s₂.cus = chainsOf s₁.cus := rfl
  rw [modPwr_cus, ← hs₁, ← hs₂]
  clear_value s₂
  cases s₂.pwr.slice.isNone with
  | true => rw [onlyIf, if_pos rfl, lowerEnable_cus, lowerFrom_cus]
  | false => rw [onlyIf, if_neg Bool.false_ne_true, lowerFrom_cus]

theorem drainOn_chains : chainsOf (drainOn s).cus = chainsOf s.cus := by
  unfold drainOn
  split
  · rfl
  · split
    · split
      · next hb => exact (beginRec_cusHolds (placing_chains (chainsOf s.cus)) (hb : beginRec _ _ _ (drawn _ (modLed _ s)) = _) rfl :)
      · exact drainEnds_chains
    · exact drainEnds_chains

/-! ### What beginning a descriptor leaves of the store -/

theorem sealParts_started (l : List (LRec × PartRec)) (h : ChainHead) : sealParts (started r s) l h = sealParts s l h := by
  induction l generalizing h with
  | nil => rfl
  | cons e l ih =>
    obtain ⟨x, p⟩ := e
    unfold sealParts
    dsimp only
    rw [ih]
    rfl

@[simp] theorem appended_started : appended (started r s) = appended s := by
  rw [appended, appended, ledgerRecs, ledgerRecs, sealParts_started]
  rfl

@[simp] theorem findRec_started (cls rid : Nat) : findRec (started r s) cls rid = findRec s cls rid := by
  rw [findRec, findRec, appended_started]

@[simp] theorem classRecs_started (cls : Nat) : classRecs (started r s) cls = classRecs s cls := by
  rw [classRecs, classRecs, appended_started]

@[simp] theorem lastRid_started (cls : Nat) : lastRid (started r s) cls = lastRid s cls := by
  rw [lastRid, lastRid, appended_started]
  rfl

@[simp] theorem verifies_started (x : CusRec) : verifies (started r s) x = verifies s x := by
  rw [verifies, verifies, hashBefore, hashBefore, findRec_started]
  rfl

theorem cusStatusBytes_started (ten : Nat) : cusStatusBytes (started r s) ten = cusStatusBytes s ten := by
  unfold cusStatusBytes
  simp only [lastRid_started]
  rfl

/-- A fate stands where the descriptors do. -/
theorem Ended.of_flights {code result detail : Nat} (h : Ended r code result detail s) (hf : t.host.flights = s.host.flights) :
    Ended r code result detail t := by
  obtain ⟨g, fr, hg, hrest⟩ := h
  exact ⟨g, fr, (getFlight_of_host hf).trans hg, hrest⟩

/-! ### The clauses -/

theorem execAppend_places {d : Bytes} (h : Ready 0x0600 r f s) (hvault : vaultOk s = true) (hseal : canSeal s = true)
    (hjobs : s.cus.jobs.any (fun j => j.item.cls == fieldLE f.raw 24 1) = false) (hdrives : driveCount s.cus ≠ 0)
    (hspace : 5 * (storeSpace s.cus).2 ≤ 100 * (storeSpace s.cus).1) (hhash : hashUp s = true)
    (hpart : fieldLE f.raw 24 1 = 2 → waitingPart s = none)
    (hbegin : beginRec (.append r)
      { cls := fieldLE f.raw 24 1, rid := 0, origin := 1, kind := 0, tMono := monoUs s, wall := wallUs s / 1000000, ten := f.ten,
        party := f.party, bodyLen := dLen f.raw, seq := dSeq f.raw, epoch := s.slc.epoch, lsn := f.lsn, stored := [], hash := [],
        places := [] } (slice d 0 (dLen f.raw)) (atStage r 0x01 0 (started r s)) = .ok u) :
    ∃ t g j, exec (.append r (.ok d)) s = .next t ∧ getFlight t r = some g ∧ g.fate = none ∧ g.begun = true ∧ j ∈ t.cus.jobs ∧
    j.what = .append r ∧ j.item.cls = fieldLE f.raw 24 1 ∧ j.item.rid = (chainHead s (fieldLE f.raw 24 1)).rid + 1 ∧
    j.item.ten = f.ten ∧ j.item.bodyLen = dLen f.raw := by
  obtain ⟨j, hj, hwhat, hcls, hrid, hten, hlen⟩ := beginRec_ok hbegin
  have hflight : getFlight u r = some { f with begun := true, stage := 0x01, units := 0 } := by
    rw [getFlight_of_host ((beginRec_frame (.refl _ _) (within_refl _) hbegin).flights rfl), atStage, getFlight_modFlight, if_pos rfl, h.begun]
    rfl
  refine ⟨atStage r 0x02 0 u, { f with begun := true, stage := 0x02, units := 0 }, j, congrArg Host.Outcome.next ?_, ?_, h.noFate, rfl, hj, hwhat, hcls,
    hrid, hten, hlen.trans (length_slice _ _ _)⟩
  · have hlow : evictIfLow s = s := if_neg (by omega)
    have hkeep : ∀ b, onlyIf b evictIfLow s = s := fun b => by cases b with
      | true => exact hlow
      | false => rfl
    simp only [h.here, hkeep]
    rw [if_neg (by
      rw [hvault, hseal, hjobs]
      simp only [Bool.true_and, Bool.not_true, Bool.false_or, Bool.or_eq_true, beq_iff_eq, Bool.and_eq_true]
      rintro (he | ⟨⟨h2, hp⟩, -⟩)
      · exact hdrives he
      · rw [hpart h2] at hp
        cases hp), startOp_ready h]
    have hvault' : vaultOk (started r s) = true := hvault
    have hhash' : hashUp (started r s) = true := hhash
    rw [if_neg (by rw [hvault']; simp), if_neg (by rw [hhash']; simp)]
    simp only [withRead, readBytes, length_slice]
    generalize hb : beginRec (.append r) _ (slice d 0 (dLen f.raw)) (atStage r 0x01 0 (started r s)) = b
    cases hb.symm.trans hbegin
    rfl
  · rw [atStage, getFlight_modFlight, if_pos rfl, hflight]
    rfl

theorem getFlight_atStage (hf : getFlight s r = some g) : getFlight (atStage r st n s) r = some { g with stage := st, units := n } := by
  rw [atStage, getFlight_modFlight, if_pos rfl, hf]
  rfl

/-- A record that is read out goes to the host, and then the descriptor has its fate. -/
theorem readOut_ended (x : CusRec) (hf : getFlight s r = some g) (hn : g.fate = none) : Done r x.bodyLen (readOut r f x true s) ∧
    (readOut r f x true s).outs = s.outs ++ [Out.hostWrite (rangeOf f 0).func (rangeOf f 0).addr (plainRecord s x)] :=
  writeAndSettle_ended (s := atStage r 0x03 0 s) (getFlight_atStage hf) hn 0 _ { done x.bodyLen with degraded := !recProtected s x }

theorem execCusRead_reads {x : CusRec} (h : Ready 0x0601 r f s) (hx : findRec s (fieldLE f.raw 24 1) (fieldLE f.raw 32 8) = some x)
    (hmay : mayRead s f x = true) (hlen : 192 + (x.bodyLen + 63) / 64 * 64 ≤ dLen f.raw) (hlost : recLost s x = false)
    (hread : recReadable s x = true) (hsec : secReady s = true) (hvault : vaultOk s = true) (hgen : s.sec.genLsn ≤ x.lsn) (hhash : hashUp s = true)
    (hseal : sealHolds s x = true)
    (hcommit : fieldLE f.raw 24 1 = 3 → commitHolds f (mayReadNow s f x) s = true ∧ canLog (.readOut r) s = true) : ∃ t,
    exec (.cusRead r true) s = .next t ∧ Done r x.bodyLen t ∧
    t.outs = s.outs ++ [Out.hostWrite (rangeOf f 0).func (rangeOf f 0).addr (plainRecord s x)] := by
  refine ⟨_, rfl, ?_⟩
  have hmay' : mayRead (started r s) f x = true := hmay
  have hlost' : recLost (started r s) x = false := hlost
  have hvault' : vaultOk (started r s) = true := hvault
  have hhash' : hashUp (started r s) = true := hhash
  have hseal' : sealHolds (started r s) x = true := hseal
  simp only [h.here, hx, hread, hsec, Bool.not_true, Bool.or_self, Bool.and_false, Bool.false_eq_true, if_false, startOp_ready h, findRec_started,
    hmay', hlost', hvault', hhash', hseal', Bool.false_or]
  have hgen' : ¬ decide (x.lsn < (started r s).sec.genLsn) = true := fun hlt => absurd (of_decide_eq_true hlt) (Nat.not_lt.mpr hgen)
  rw [if_neg (by omega), if_neg hgen']
  split
  · next h3 =>
    obtain ⟨hholds, hlog⟩ := hcommit h3
    have hholds' : commitHolds f (mayReadNow (started r s) f x) (started r s) = true := hholds
    have hlog' : canLog (.readOut r) (started r s) = true := hlog
    rw [commitPoint, if_pos hholds', if_pos hlog']
    exact readOut_ended (s := logRec (.readOut r) (started r s)) x h.begun h.noFate
  · exact readOut_ended (s := atStage r 0x02 0 (started r s)) x (getFlight_atStage h.begun) h.noFate

theorem execCusRead_absent (h : Ready 0x0601 r f s) (hnone : findRec s (fieldLE f.raw 24 1) (fieldLE f.raw 32 8) = none) : ∃ t,
    exec (.cusRead r true) s = .next t ∧
    Ended r fAbsent 0 (if wasEvicted s (fieldLE f.raw 24 1) (fieldLE f.raw 32 8) then 0x23 else 0x22) t ∧ t.outs = s.outs := by
  refine ⟨_, rfl, ?_⟩
  dsimp only
  simp only [h.here, hnone, startOp_ready h, findRec_started, Bool.false_eq_true, if_false, settle_outs, started_outs, and_true]
  exact h.settle_ended (failFate fAbsent _)

theorem execCusScan_lists {l : List CusRec} (h : Ready 0x0602 r f s)
    (hl : l = ((classRecs s (fieldLE f.raw 24 1)).filter (fun x =>
      decide (fieldLE f.raw 32 8 ≤ x.tMono) && mayRead s f x)).take (dLen f.raw / 32)) : ∃ t, exec (.cusScan r true) s = .next t ∧
    Done r l.length t ∧
    t.outs = s.outs ++ [Out.hostWrite (rangeOf f 0).func (rangeOf f 0).addr (l.flatMap (scanEntry s))] := by
  refine ⟨_, congrArg Host.Outcome.next (startOp_ready h _), ?_⟩
  simp only [classRecs_started]
  subst hl
  exact h.writes 0 _ (done _)

theorem execCusVerify_holds {l : List CusRec} (h : Ready 0x0603 r f s) (hvault : vaultOk s = true) (hsec : secReady s = true)
    (hhash : hashUp s = true) (hlow : 1 ≤ fieldLE f.raw 32 8) (hhigh : fieldLE f.raw 40 8 ≤ lastRid s (fieldLE f.raw 24 1))
    (hl : l = (classRecs s (fieldLE f.raw 24 1)).filter (fun x =>
      decide (fieldLE f.raw 32 8 ≤ x.rid) && decide (x.rid ≤ fieldLE f.raw 40 8)))
    (hgood : ∀ x ∈ l, recLost s x = false ∧ verifies s x = true) : ∃ t, exec (.cusVerify r) s = .next t ∧ Done r l.length t := by
  have hnone : l.find? (fun x => recLost (started r s) x || !verifies (started r s) x) = none := by
    rw [List.find?_eq_none]
    intro x hx
    obtain ⟨hlost, hver⟩ := hgood x hx
    have hlost' : recLost (started r s) x = false := hlost
    rw [hlost', verifies_started, hver]
    simp
  refine ⟨_, rfl, ?_⟩
  rw [if_neg (by rw [hvault, hsec]; simp), startOp_ready h]
  simp only [classRecs_started, lastRid_started, ← hl, hnone]
  have hvault' : vaultOk (started r s) = true := hvault
  have hhash' : hashUp (started r s) = true := hhash
  rw [if_neg (by omega), if_neg (by rw [hvault']; simp), if_neg (by rw [hhash']; simp)]
  exact h.settle_ended { done l.length with units := l.length }

theorem execCusStatus_writes (h : Ready 0x0604 r f s) : ∃ t, exec (.cusStatus r true) s = .next t ∧ Done r 0 t ∧
    t.outs = s.outs ++ [Out.hostWrite (rangeOf f 0).func (rangeOf f 0).addr (cusStatusBytes s f.ten)] := by
  refine ⟨_, congrArg Host.Outcome.next (startOp_ready h _), ?_⟩
  rw [← cusStatusBytes_started (r := r) (s := s)]
  exact h.writes 0 _ (done 0)

theorem recordDone_append {op : Nat} {j : CusJob} (hwhat : j.what = .append op) (hf : getFlight s op = some f) (hn : f.fate = none) :
    Done op (j.item.rid + 2 ^ 48 * min 255 j.wrote) (recordDone j s) ∧
    chainsOf (recordDone j s).cus = (s.cus.recs ++ [j.item], tabPut s.cus.heads j.item.cls { rid := j.item.rid, hash := j.item.hash }) := by
  obtain ⟨b, hdone⟩ : ∃ b, recordDone j s = custodyWork (reclaim (settle op { done (j.item.rid + 2 ^ 48 * min 255 j.wrote) with degraded := b }
      (atStage op 0x03 0 (modCus (fun c => { c with
        jobs := c.jobs.filter (fun y => y.item.cls != j.item.cls), recs := c.recs ++ [j.item]
        heads := tabPut c.heads j.item.cls { rid := j.item.rid, hash := j.item.hash } }) s)))) := by
    simp only [recordDone, hwhat]
    exact ⟨_, rfl⟩
  rw [hdone, custodyWork_chains, reclaim_cus, settle_cus, atStage_cus]
  refine ⟨?_, rfl⟩
  have hended := settle_ended (getFlight_atStage (s := modCus (fun c => { c with
        jobs := c.jobs.filter (fun y => y.item.cls != j.item.cls), recs := c.recs ++ [j.item]
        heads := tabPut c.heads j.item.cls { rid := j.item.rid, hash := j.item.hash } }) s) (st := 0x03) (n := 0) hf) hn
      { done (j.item.rid + 2 ^ 48 * min 255 j.wrote) with degraded := b }
  generalize settle op { done (j.item.rid + 2 ^ 48 * min 255 j.wrote) with degraded := b } _ = v at hended ⊢
  exact hended.of_flights (custodyWork_flights.trans reclaim_flights)

theorem execNvmeWriteComplete_last {d : Fin 4} {u op : Nat} {j : CusJob} (hu : (getDrive s d).unit = some u) (hj : firstJob s u = some j)
    (hwait : j.wait = [u]) (hwhat : j.what = .append op) (hf : getFlight s op = some f) (hn : f.fate = none) : ∃ t,
    exec (.nvmeWriteComplete d true) s = .next t ∧
    Done op (j.item.rid + 2 ^ 48 * min 255 (j.wrote + 1)) t ∧ t.cus.recs = s.cus.recs ++ [j.item] ∧
    chainHead t j.item.cls = { rid := j.item.rid, hash := j.item.hash } := by
  have herase : j.wait.erase u = [] := by rw [hwait]; exact List.erase_cons_head u []
  obtain ⟨hdone, hchains⟩ := recordDone_append (j := { j with wait := [], wrote := j.wrote + 1 })
    (s := modCus (fun c => { c with
      jobs := c.jobs.map (fun y => if y.item.cls = j.item.cls then { j with wait := [], wrote := j.wrote + 1 } else y) }) s) hwhat hf hn
  refine ⟨_, rfl, ?_⟩
  simp only [hu, hj, if_true, jobWrite, herase, ofBool, List.isEmpty_nil, chainHead]
  generalize recordDone { j with wait := [], wrote := j.wrote + 1 } _ = v at hdone hchains ⊢
  obtain ⟨hrecs, hheads⟩ := Prod.mk.inj (drainOn_chains.trans hchains)
  refine ⟨hdone.of_flights drainOn_flights, hrecs, ?_⟩
  rw [hheads, tabGet_tabPut, if_pos rfl]

/-- Settles O16. -/
theorem custodyOperations : Obligations.CustodyOperations :=
  ⟨fun _ _ _ _ _ h hv hs hj hd hsp hh hp hb => execAppend_places h hv hs hj hd hsp hh hp hb,
    fun _ _ _ _ h hx hm hl hlo hr hs hv hg hh hse hc => execCusRead_reads h hx hm hl hlo hr hs hv hg hh hse hc,
    fun _ _ _ h hn => execCusRead_absent h hn, fun _ _ _ _ h hl => execCusScan_lists h hl,
    fun _ _ _ _ h hv hs hh hlo hhi hl hg => execCusVerify_holds h hv hs hh hlo hhi hl hg, fun _ _ _ h => execCusStatus_writes h,
    fun _ _ _ _ _ _ hu hj hw hwh hf hn => execNvmeWriteComplete_last hu hj hw hwh hf hn⟩

end Sys2Proof.Machine

/-! The drives of the store (O17). -/

namespace Sys2Proof.Machine

variable {s t u : State} {d : Nat}

@[simp] theorem recordDone_flt (j : CusJob) : (recordDone j s).flt = s.flt := (recordDone_frame (.refl _ s) (within_refl _) j).flt rfl
@[simp] theorem jobLost_flt (u : Nat) (j : CusJob) : (jobLost u j s).flt = s.flt := (jobLost_frame (.refl _ s) (within_refl _) u j).flt rfl
@[simp] theorem driveRecord_flt (d : Nat) (old : Nat) (new : Nat) : (driveRecord d old new s).flt = s.flt := (driveRecord_frame (.refl _ s) (within_refl _) d old new).flt rfl
@[simp] theorem fault_cus (ty : Nat) (ix : Nat) (code : Nat) (sev : Nat) (action : Nat) (detail : Nat) (arg : Nat) : (fault ty ix code sev action detail arg s).cus = s.cus := (fault_frame (.refl _ s) (within_refl _) ty ix code sev action detail arg).cus rfl
@[simp] theorem driveGone_cus (op : Nat) : (driveGone op s).cus = s.cus := (driveGone_frame (.refl _ s) (within_refl _) op).cus rfl
@[simp] theorem initDrive_cus (d : Nat) (ps : Nat) : (initDrive d ps s).cus = s.cus := (initDrive_frame (.refl _ s) (within_refl _) d ps).cus rfl
@[simp] theorem writeLabel_cfg (d : Nat) : (writeLabel d s).cfg = s.cfg := (writeLabel_frame (.refl _ s) (within_refl _) d).cfg rfl
@[simp] theorem changeUnit_cus (kind : Nat) (ix : Nat) (u : UnitSt) (code : Nat) (sev : Nat) (action : Nat) (detail : Nat) (arg : Nat) : (changeUnit kind ix u code sev action detail arg s).cus = s.cus := (changeUnit_frame (.refl _ s) (within_refl _) kind ix u code sev action detail arg).cus rfl
@[simp] theorem elapseNs_cus (ns : Nat) : (elapseNs ns s).cus = s.cus := (elapseNs_frame (.refl _ s) (within_refl _) ns).cus rfl
@[simp] theorem elapseTo_cus (t0 : Nat) : (elapseTo t0 s).cus = s.cus := (elapseTo_frame (.refl _ s) (within_refl _) t0).cus rfl

/-! ### Units and time -/

theorem Shaped.drives (h : Shaped s) (d : Fin 4) : d.val < s.cus.drives.length := by
  have hlen : s.cus.drives.length = 4 := congrArg Counts.drives h
  rw [hlen]
  exact d.isLt

theorem getDrive_modDrive_same (f : Drive → Drive) (h : d < s.cus.drives.length) : getDrive (modDrive d f s) d = f (getDrive s d) :=
  nth_modAt_same _ _ f h

theorem getDrive_of_cus (h : t.cus = s.cus) : getDrive t d = getDrive s d := by rw [getDrive, getDrive, h]

theorem length_modDrive (i : Nat) (f : Drive → Drive) : (modDrive i f s).cus.drives.length = s.cus.drives.length := length_modAt _ _ _

theorem le_rtcUs {n q : Nat} (h : rtcNs q ≤ n) : q ≤ rtcUs n := by
  unfold rtcNs ceilDiv at h
  unfold rtcUs
  simp only [OfNat.ofNat_ne_zero, if_false] at h
  omega

/-- Time that passes up to a moment reaches it, on the RTC's time too (R207). -/
theorem le_monoUs_elapseTo (q : Nat) : q ≤ monoUs (elapseTo q s) := by
  have hrtc : onRtc (elapseTo q s) = onRtc s := by rw [onRtc, onRtc, elapseTo_pwr]
  rw [monoUs, hrtc]
  cases h : onRtc s with
  | true =>
    rw [if_pos rfl]
    refine (le_rtcUs ?_).trans (Nat.le_max_right _ _)
    rw [elapseTo, h, if_pos rfl, elapseToNs_ns]
    exact Nat.le_max_right _ _
  | false =>
    rw [if_neg Bool.false_ne_true, elapseTo_ns_of_awake h]
    omega

/-! ### A drive declared LOST -/

/-- What storing a record cannot change: a property that its place, its job and its chain leave. -/
def Storing (P : Cus → Prop) : Prop := Placing P ∧ ∀ (c : Cus) recs heads, P c → P { c with recs := recs, heads := heads }

theorem Storing.jobs {P : Cus → Prop} (h : Storing P) (f : List CusJob → List CusJob) (hc : P s.cus) :
    P (modCus (fun c => { c with jobs := f c.jobs }) s).cus :=
  h.1 s.cus s.cus.groups s.cus.nextGroup s.cus.open_ (f s.cus.jobs) s.cus.full s.cus.finish s.cus.topStamp hc

/-- Drive `d` of the part, LOST since it was declared so, or in INIT or ABSENT by its link `b` since the stripe map's change is recorded
(R437); CUS_EVENTS says so. -/
def Fallen (d : Nat) (b : Bool) (c : Cus) : Prop :=
  d < c.drives.length ∧ (nth {} c.drives d).unit = none ∧ (nth {} c.drives d).link = b ∧
    ((nth {} c.drives d).st = .lost ∨ (nth {} c.drives d).st = if b then .init else .absent)

/-- That, and the event of a drive LOST. -/
def FallenSaid (d : Nat) (b : Bool) (c : Cus) : Prop := Fallen d b c ∧ c.events.getLsbD 0 = true

theorem storing_fallenSaid (d : Nat) (b : Bool) : Storing (FallenSaid d b) := ⟨fun _ _ _ _ _ _ _ _ h => h, fun _ _ _ h => h⟩

/-- What leaving LOST makes of a drive: INIT or ABSENT by its link (R437). -/
def leaveLost (now : Nat) (y : Drive) : Drive := { y with st := if y.link then .init else .absent, initAt := now }

theorem Fallen.modAt {b : Bool} {c : Cus} (h : Fallen d b c) (i now : Nat) : Fallen d b { c with drives := modAt c.drives i (leaveLost now) } := by
  obtain ⟨hlen, hunit, hlink, hst⟩ := h
  have hdrive := nth_modAt {} c.drives (leaveLost now) (i := i) (j := d)
  refine ⟨by rw [length_modAt]; exact hlen, ?_⟩
  dsimp only
  rw [hdrive]
  split
  · exact ⟨hunit, hlink, Or.inr (by rw [leaveLost, hlink])⟩
  · exact ⟨hunit, hlink, hst⟩

theorem Fallen.leaves {b : Bool} (h : Fallen d b s.cus) (i : Nat) : Fallen d b (lostLeaves i s).cus := by
  unfold lostLeaves
  split
  · exact h.modAt i _
  · exact h

theorem FallenSaid.leaves {b : Bool} (h : FallenSaid d b s.cus) (i : Nat) : FallenSaid d b (lostLeaves i s).cus := by
  refine ⟨h.1.leaves i, ?_⟩
  unfold lostLeaves
  split
  · exact h.2
  · exact h.2

/-- A job whose last copy is written or lost: its record is in place, or the job's work goes on. -/
theorem recordDone_cusHolds {P : Cus → Prop} (hP : Storing P) (hleave : ∀ (i : Nat) (t : State), P t.cus → P (lostLeaves i t).cus) {j : CusJob}
    (hwhat : ∀ g new, j.what ≠ .move g new) (hc : P s.cus) : P (recordDone j s).cus := by
  have hkept : P (modCus (fun c => { c with
      jobs := c.jobs.filter (fun y => y.item.cls != j.item.cls), recs := c.recs ++ [j.item]
      heads := tabPut c.heads j.item.cls { rid := j.item.rid, hash := j.item.hash } }) s).cus :=
    hP.2 _ _ _ (hP.jobs (List.filter fun y => y.item.cls != j.item.cls) hc)
  have hend : ∀ v : State, P v.cus → P (custodyWork (reclaim v)).cus := fun v hv =>
    custodyWork_cusHolds hP.1 hleave (by rw [reclaim_cus]; exact hv)
  unfold recordDone
  cases hj : j.what with
  | move g new => exact absurd hj (hwhat g new)
  | append op =>
    refine hend _ ?_
    rw [settle_cus, atStage_cus]
    exact hkept
  | part lsn => exact hend _ hkept
  | ledgercp lsn => exact hend _ hkept
  | delta op => exact hend _ hkept
  | segment => exact hend _ hkept

theorem jobLost_cusHolds {P : Cus → Prop} (hP : Storing P) (hleave : ∀ (i : Nat) (t : State), P t.cus → P (lostLeaves i t).cus) (u : Nat) (j : CusJob)
    (hc : P s.cus) : P (jobLost u j s).cus := by
  unfold jobLost
  split
  · exact hP.jobs (List.filter _) hc
  · next hwhat =>
    extract_lets alone other
    split
    · next hplace =>
      split at hplace
      · exact placeAgain_cusHolds hP.1 hplace hc
      · cases hplace
    · split
      · exact hP.jobs (List.map _) hc
      · have hcopy : P (copyLost u j.item s).cus :=
          hP.1 s.cus _ s.cus.nextGroup s.cus.open_ s.cus.jobs s.cus.full s.cus.finish s.cus.topStamp hc
        unfold jobWrite
        extract_lets j' s₁
        have hs₁ : P s₁.cus := hP.jobs (List.map _) hcopy
        split
        · exact recordDone_cusHolds hP hleave (j := j') hwhat hs₁
        · exact hs₁

theorem storeDriveLost_fallen {b : Bool} (h : Fallen d b s.cus) (i u old : Nat) : FallenSaid d b (storeDriveLost i u old s).cus := by
  unfold storeDriveLost
  extract_lets before s₁ s₂ s₃ s₄
  have hs₂ : FallenSaid d b s₂.cus := by
    refine ⟨?_, ?_⟩
    · show Fallen d b { (tryLog _ s).cus with events := _, groups := _, known := _ }
      rw [tryLog_cus]
      exact h
    · show (setBits (tryLog (.unit (pNvm * 256 + i) 5) s).cus.events 0).getLsbD 0 = true
      rw [setBits_getLsbD]
      simp
  have hs₃ : FallenSaid d b s₃.cus := each_holds (P := fun x => FallenSaid d b x.cus) _ _
    (fun j t ht => jobLost_cusHolds (storing_fallenSaid d b) (fun i t ht => ht.leaves i) u j ht) hs₂
  have hs₄ : FallenSaid d b s₄.cus := by
    show FallenSaid d b (fault pNvm i 0x02 sDegraded 0x04 0 0 (driveRecord i old 5 s₃)).cus
    rw [fault_cus, driveRecord_cus]
    exact hs₃
  clear_value s₄
  cases decide (before < lostRecords s₄) with
  | true =>
    refine ⟨hs₄.1, ?_⟩
    show (setBits s₄.cus.events 8).getLsbD 0 = true
    rw [setBits_getLsbD, hs₄.2]
    rfl
  | false => exact hs₄

theorem declareLost_falls (hd : d < s.cus.drives.length) (hunit : (getDrive s d).unit ≠ none)
    (hst : (getDrive s d).st = .online ∨ (getDrive s d).st = .worn) : (getDrive (declareLost d s) d).unit = none ∧
    (declareLost d s).cus.events.getLsbD 0 = true ∧
    ((getDrive (declareLost d s) d).st = (if (getDrive s d).link then .init else .absent) ∨
      (getDrive (declareLost d s) d).st = .lost ∧ canLog (.other 437 d) (declareLost d s) = false) := by
  obtain ⟨u, hu⟩ := Option.ne_none_iff_exists'.mp hunit
  unfold declareLost
  extract_lets x
  rw [show x.unit = some u from hu]
  dsimp only
  rw [if_pos hst]
  generalize hv : storeDriveLost d u _ _ = v
  have hfall : FallenSaid d (getDrive s d).link v.cus := by
    rw [← hv]
    refine storeDriveLost_fallen ⟨by rw [length_modDrive]; exact hd, ?_⟩ d u _
    have hdrive := getDrive_modDrive_same (fun y => { y with st := .lost, unit := none, downAt := none, drain := none }) hd
    unfold getDrive at hdrive
    rw [hdrive]
    exact ⟨rfl, rfl, Or.inl rfl⟩
  have hgone : ∀ w : State, w.cus = v.cus → (getDrive (lostLeaves d w) d).unit = none ∧ (lostLeaves d w).cus.events.getLsbD 0 = true ∧
    ((getDrive (lostLeaves d w) d).st = (if (getDrive s d).link then .init else .absent) ∨
      (getDrive (lostLeaves d w) d).st = .lost ∧ canLog (.other 437 d) (lostLeaves d w) = false) := fun w hw => by
    rw [← hw] at hfall
    obtain ⟨⟨hlen, hunit, hlink, hst⟩, hevent⟩ := hfall
    unfold lostLeaves
    split
    · have hdrive := getDrive_modDrive_same (s := logRec (.other 437 d) w) (leaveLost (monoUs w)) hlen
      unfold leaveLost at hdrive
      rw [hdrive]
      exact ⟨hunit, hevent, Or.inl (by rw [← hlink]; rfl)⟩
    · next hstay =>
      refine ⟨hunit, hevent, ?_⟩
      cases hst with
      | inl hlost => exact Or.inr ⟨hlost, Bool.eq_false_iff.mpr fun hlog => hstay ⟨hlost, hlog⟩⟩
      | inr hleft => exact Or.inl hleft
  cases x.drain with
  | none => exact hgone v rfl
  | some op => exact hgone _ (driveGone_cus op)

/-! ### The clauses -/

theorem execNvmeFailure_loses {d : Fin 4} (hs : Shaped s) (hlink : (getDrive s d).link = true) (hunit : (getDrive s d).unit ≠ none)
    (hst : (getDrive s d).st = .online ∨ (getDrive s d).st = .worn) : ∃ t v, exec (.nvmeCommandTimeout d) s = .next t ∧
    exec (.nvmeFatalStatus d) s = .next v ∧ (getDrive t d).unit = none ∧ t.cus.events.getLsbD 0 = true ∧
    s.clk.ns + 3000000000 ≤ t.clk.ns ∧ (getDrive v d).unit = none ∧ v.cus.events.getLsbD 0 = true ∧
    ((getDrive t d).st = .init ∨ (getDrive t d).st = .lost ∧ canLog (.other 437 d) t = false) ∧
    ((getDrive v d).st = .init ∨ (getDrive v d).st = .lost ∧ canLog (.other 437 d) v = false) := by
  have hcus : (elapseNs 3000000000 (emit (.nvme d .reset) (emit (.nvme d .abort) s))).cus = s.cus := elapseNs_cus _
  obtain ⟨hv, hve, hvs⟩ := declareLost_falls (hs.drives d) hunit hst
  obtain ⟨ht, hte, hts⟩ := declareLost_falls (s := elapseNs 3000000000 (emit (.nvme d .reset) (emit (.nvme d .abort) s))) (d := d)
    (by rw [hcus]; exact hs.drives d) (by rw [getDrive_of_cus hcus]; exact hunit) (by rw [getDrive_of_cus hcus]; exact hst)
  rw [getDrive_of_cus hcus, hlink] at hts
  refine ⟨_, _, congrArg Host.Outcome.next (if_pos ?_), congrArg Host.Outcome.next ((if_pos hlink).trans (if_neg ?_)), ht, hte, ?_, hv, hve, ?_, ?_⟩
  · rw [hlink]
    rcases hst with hst | hst
    · rw [hst]; rfl
    · rw [hst]; rfl
  · rcases hst with hst | hst
    · rw [hst]; nofun
    · rw [hst]; nofun
  · rw [(declareLost_frame (.refl _ _) (within_refl _) d.val).time rfl, elapseNs_ns]
    exact Nat.le_refl _
  · exact hts
  · rw [hlink] at hvs
    exact hvs

theorem execNvmeLinkDown_notes {d : Fin 4} (hs : Shaped s) (hlink : (getDrive s d).link = true)
    (hst : (getDrive s d).st = .online ∨ (getDrive s d).st = .worn) : ∃ t,
    exec (.nvmeLinkDown d) s = .next t ∧ getDrive t d = { getDrive s d with link := false, downAt := some (monoUs s) } :=
  ⟨_, congrArg Host.Outcome.next ((if_pos hlink).trans (if_pos hst)), getDrive_modDrive_same _ (hs.drives d)⟩

theorem execDriveLossDeclaration_loses {d : Fin 4} {t0 : Nat} (hs : Shaped s) (hdown : (getDrive s d).downAt = some t0) (hlink : (getDrive s d).link = false)
    (hunit : (getDrive s d).unit ≠ none) (hst : (getDrive s d).st = .online ∨ (getDrive s d).st = .worn) : ∃ t,
    exec (.driveLossDeclaration d) s = .next t ∧ (getDrive t d).unit = none ∧
    ((getDrive t d).st = .absent ∨ (getDrive t d).st = .lost ∧ canLog (.other 437 d) t = false) ∧
    t.cus.events.getLsbD 0 = true ∧ t0 + 100000 ≤ monoUs t := by
  have hcus : (elapseTo (t0 + 100000) s).cus = s.cus := elapseTo_cus _
  obtain ⟨ht, hte, hts⟩ := declareLost_falls (s := elapseTo (t0 + 100000) s) (d := d)
    (by rw [hcus]; exact hs.drives d) (by rw [getDrive_of_cus hcus]; exact hunit) (by rw [getDrive_of_cus hcus]; exact hst)
  rw [getDrive_of_cus hcus, hlink] at hts
  refine ⟨declareLost d (elapseTo (t0 + 100000) s), congrArg Host.Outcome.next ?_, ht, hts, hte, ?_⟩
  · rw [hdown]
    exact if_pos hst
  · rw [(declareLost_frame (.refl _ _) (within_refl _) d.val).monoUs_eq rfl rfl rfl]
    exact le_monoUs_elapseTo _

theorem execNvmeLinkUp_returns {d : Fin 4} (hs : Shaped s) (hup : portUp s pNvm d = true) (hlink : (getDrive s d).link = false) : ∃ t,
    exec (.nvmeLinkUp d) s = .next t ∧ getDrive t d = (if (getDrive s d).st = .absent then
      { getDrive s d with link := true, st := .init, initAt := monoUs s } else { getDrive s d with link := true, downAt := none }) :=
  ⟨_, congrArg Host.Outcome.next (if_pos (by rw [hup, hlink]; rfl)), getDrive_modDrive_same _ (hs.drives d)⟩

/-- A drive in use that is WORN: its state, the store's note of it, and the event (R440). -/
theorem driveWorn_cus (h : (getDrive s d).st = .online) : ∃ known, (driveWorn d s).cus = { s.cus with
    known := known, drives := modAt s.cus.drives d (fun y => { y with st := .worn }), events := setBits s.cus.events 2 } ∧
    known.length = s.cus.known.length := by
  unfold driveWorn
  extract_lets x s₁
  rw [if_pos h]
  refine ⟨s₁.cus.known, ?_, ?_⟩
  · rw [cusEvent, modCus_cus, fault_cus]
    rfl
  · show (match x.unit with | some u => modAt s.cus.known u (fun k => { k with worn := true }) | none => s.cus.known).length = _
    cases x.unit with
    | some u => exact length_modAt _ _ _
    | none => rfl

theorem execDriveWear_wears {d : Fin 4} {pct : Nat} (hs : Shaped s) (hst : (getDrive s d).st = .online) (hpct : (custodyCfg s).wearPct ≤ pct) : ∃ t,
    exec (.driveWear d (.used pct)) s = .next t ∧ getDrive t d = { getDrive s d with usedPct := pct, st := .worn } ∧
    t.cus.events = setBits s.cus.events 2 := by
  have hused := getDrive_modDrive_same (fun y => { y with usedPct := pct }) (hs.drives d)
  obtain ⟨known, hworn, -⟩ := driveWorn_cus (s := modDrive d (fun y => { y with usedPct := pct }) s) (d := d) (by rw [hused]; exact hst)
  refine ⟨driveWorn d (modDrive d (fun y => { y with usedPct := pct }) s), congrArg Host.Outcome.next (if_pos hpct), ?_, ?_⟩
  · rw [getDrive, hworn]
    refine (nth_modAt_same _ _ _ (by rw [length_modDrive]; exact hs.drives d)).trans ?_
    unfold getDrive at hused
    rw [hused]
    rfl
  · rw [hworn]
    rfl

theorem execDriveWear_notes {d : Fin 4} {pct : Nat} (hs : Shaped s) (hpct : pct < (custodyCfg s).wearPct) : ∃ t,
    exec (.driveWear d (.used pct)) s = .next t ∧
    getDrive t d = { getDrive s d with usedPct := pct } ∧ t.cus.events = s.cus.events :=
  ⟨_, congrArg Host.Outcome.next (if_neg (Nat.not_le.mpr hpct)), getDrive_modDrive_same _ (hs.drives d), rfl⟩

/-! ### Units out of service -/

theorem unitSt_of_fault (ty ix code sev action detail arg kind n : Nat) : unitSt (fault ty ix code sev action detail arg s) kind n = unitSt s kind n := by
  obtain ⟨fs, no, ev, hs, h⟩ := fault_flt_eq ty ix code sev action detail arg s
  rw [unitSt, h]
  rfl

theorem unitSt_changeUnit_same (kind n : Nat) (x : UnitSt) (code sev action detail arg : Nat) :
    unitSt (changeUnit kind n x code sev action detail arg s) kind n = x := by
  obtain ⟨fs, no, ev, hw⟩ := writeFault_flt_eq kind n code sev action detail arg (setUnit kind n x s)
  rw [changeUnit_eq, unitSt, countFault, modFlt_flt, hw, setUnit_flt]
  show tabGet UnitSt.up (tabSet UnitSt.up s.flt.units (kind * 256 + n) x) (kind * 256 + n) = _
  rw [tabGet_tabSet, if_pos rfl]

theorem unitSt_of_flt (h : t.flt = s.flt) (kind n : Nat) : unitSt t kind n = unitSt s kind n := by rw [unitSt, unitSt, h]

theorem unitSt_storeDriveLost (i u old kind n : Nat) : unitSt (storeDriveLost i u old s) kind n = unitSt s kind n := by
  unfold storeDriveLost
  extract_lets before s₁ s₂ s₃ s₄
  have hs₃ : s₃.flt = s.flt := (each_same State.flt _ _ (fun j t => jobLost_flt (s := t) u j) s₂).trans (tryLog_flt (s := s) _)
  have hs₄ : unitSt s₄ kind n = unitSt s kind n := by
    refine (unitSt_of_fault _ _ _ _ _ _ _ _ _).trans ?_
    rw [unitSt_of_flt (driveRecord_flt (s := s₃) i old 5), unitSt_of_flt hs₃]
  rw [← hs₄]
  clear_value s₄
  cases decide (before < lostRecords s₄) with
  | true => rfl
  | false => rfl

theorem unitSt_wasLost (i kind n : Nat) : unitSt (wasLost i s) kind n = unitSt s kind n := by
  unfold wasLost
  split
  · exact unitSt_storeDriveLost _ _ _ _ _
  · rfl

theorem execDriveReady_refused {d : Fin 4} {l : DriveLabel} (hst : (getDrive s d).st = .init) (hup : portUp s pNvm d = true)
    (hns : namespaceOk l = false) : ∃ t, exec (.driveReady d l) s = .next t ∧ unitSt t pNvm d = .out := by
  have hunit : unitSt s pNvm d = .up := by
    unfold portUp at hup
    simp only [Bool.and_eq_true, beq_iff_eq] at hup
    exact hup.1.1.2
  refine ⟨outOfService pNvm d 0x02 sDegraded 0 (wasLost d s), congrArg Host.Outcome.next ((if_pos (by rw [hst, hup]; rfl)).trans (if_pos (by rw [hns]; rfl))), ?_⟩
  rw [outOfService, if_pos ((unitSt_wasLost _ _ _).trans hunit), unitSt_changeUnit_same]

theorem execDriveReadyTimeout_leaves {d : Fin 4} (hst : (getDrive s d).st = .init) (hunit : unitSt s pNvm d = .up) : ∃ t,
    exec (.driveReadyTimeout d) s = .next t ∧ unitSt t pNvm d = .out ∧ (getDrive s d).initAt + 5000000 ≤ monoUs t := by
  have hunit' : unitSt (elapseTo ((getDrive s d).initAt + 5000000) s) pNvm d = .up := by rw [unitSt, elapseTo_flt]; exact hunit
  refine ⟨_, congrArg Host.Outcome.next (if_pos hst), ?_, ?_⟩
  · rw [unitSt_wasLost, outOfService, if_pos hunit', unitSt_changeUnit_same]
  · rw [(wasLost_frame (.refl _ _) (within_refl _) d.val).monoUs_eq rfl rfl rfl, (outOfService_frame (.refl _ _) (within_refl _) _ _ _ _ _).monoUs_eq rfl rfl rfl]
    exact le_monoUs_elapseTo _

/-! ### Drives that come into use -/

theorem canDraw_congr (hp : t.pwr = s.pwr) (hs : t.sec = s.sec) (hm : monoUs t = monoUs s) : canDraw t = canDraw s := by
  rw [canDraw, canDraw, sliceUp, sliceUp, groupGood, groupGood, reseedDue, reseedDue, hp, hs, hm]

/-- A drive that comes into use as the store's drive `u`, ONLINE or WORN. -/
def InUse (d : Nat) (x : Drive) (known : List StoreDrive) (c : Cus) : Prop :=
  nth {} c.drives d = x ∧ c.known = known ∧ c.events.getLsbD 1 = true

theorem custodyWork_inUse {x : Drive} {known : List StoreDrive} (hx : x.st ≠ .lost) (h : InUse d x known s.cus) :
    InUse d x known (custodyWork s).cus := by
  refine custodyWork_cusHolds (fun _ _ _ _ _ _ _ _ h => h) (fun i t ht => ?_) h
  obtain ⟨hdrive, hknown, hevent⟩ := ht
  unfold lostLeaves
  split
  · next hlost =>
    have hne : d ≠ i := fun e => hx (by rw [← hdrive, e]; exact hlost.1)
    exact ⟨(nth_modAt_of_ne _ _ _ hne).trans hdrive, hknown, hevent⟩
  · exact ⟨hdrive, hknown, hevent⟩

theorem driveOnline_serves {u : Nat} {l : DriveLabel} (hd : d < s.cus.drives.length) :
    (getDrive (driveOnline d u l s) d).st =
      (if (nth ⟨[], true, 0, false, []⟩ s.cus.known u).worn ∨ l.critical ∨ (custodyCfg s).wearPct ≤ l.used then .worn else .online) ∧
    (getDrive (driveOnline d u l s) d).unit = some u ∧ (getDrive (driveOnline d u l s) d).cap = (getDrive s d).cap ∧
    (driveOnline d u l s).cus.known.length = s.cus.known.length ∧ (driveOnline d u l s).cus.events.getLsbD 1 = true := by
  unfold driveOnline
  extract_lets worn s₁ s₂
  have hmap : nth {} (s.cus.drives.map (fun y => if y.was = some u then { y with was := none, downAt := none } else y)) d =
      (if (getDrive s d).was = some u then { getDrive s d with was := none, downAt := none } else getDrive s d) := by
    simp [nth, getDrive, hd]
  have hx : ∃ x, getDrive s₂ d = x ∧ x.st = (if worn then .worn else .online) ∧ x.unit = some u ∧ x.cap = (getDrive s d).cap := by
    refine ⟨_, nth_modAt_same _ _ _ (by show d < (s.cus.drives.map _).length; rw [List.length_map]; exact hd), rfl, rfl, ?_⟩
    refine (congrArg Drive.cap hmap).trans ?_
    split
    · rfl
    · rfl
  obtain ⟨x, hx, hst, hunit, hcap⟩ := hx
  have hlen : d < s₂.cus.drives.length := by
    show d < (modAt (s.cus.drives.map _) d _).length
    rw [length_modAt, List.length_map]
    exact hd
  have hevent : s₂.cus.events.getLsbD 1 = true := by
    show (setBits s.cus.events 1).getLsbD 1 = true
    rw [setBits_getLsbD]
    simp
  have hcfg : custodyCfg s₂ = custodyCfg s := rfl
  have hknown : s₂.cus.known = s.cus.known := rfl
  rw [hcfg]
  clear_value s₂
  have hout : ∃ v y, onlyIf (l.critical || decide ((custodyCfg s).wearPct ≤ l.used)) (driveWorn d) s₂ = v ∧
      InUse d y v.cus.known v.cus ∧ v.cus.known.length = s.cus.known.length ∧ y.unit = some u ∧ y.cap = (getDrive s d).cap ∧
      y.st = (if worn ∨ l.critical ∨ (custodyCfg s).wearPct ≤ l.used then .worn else .online) := by
    by_cases hbad : l.critical ∨ (custodyCfg s).wearPct ≤ l.used
    · rw [onlyIf, if_pos (by simpa using hbad)]
      by_cases hw : worn = true
      · have hstay : driveWorn d s₂ = s₂ := if_neg (by rw [hx, hst, if_pos hw]; nofun)
        rw [hstay]
        exact ⟨s₂, x, rfl, ⟨hx, rfl, hevent⟩, congrArg List.length hknown, hunit, hcap, by rw [hst, if_pos hw, if_pos (Or.inl hw)]⟩
      · obtain ⟨known, hc, hl⟩ := driveWorn_cus (s := s₂) (d := d) (by rw [hx, hst, if_neg hw])
        refine ⟨driveWorn d s₂, { x with st := .worn }, rfl, ⟨?_, rfl, ?_⟩, ?_, hunit, hcap, by rw [if_pos (Or.inr hbad)]⟩
        · rw [hc]
          exact (nth_modAt_same _ _ _ hlen).trans (by rw [show nth {} s₂.cus.drives d = x from hx])
        · rw [hc]
          show (setBits s₂.cus.events 2).getLsbD 1 = true
          rw [setBits_getLsbD, hevent]
          rfl
        · rw [hc]
          exact hl.trans (congrArg List.length hknown)
    · rw [onlyIf, if_neg (by simpa using hbad)]
      refine ⟨s₂, x, rfl, ⟨hx, rfl, hevent⟩, congrArg List.length hknown, hunit, hcap, ?_⟩
      rw [hst]
      simp [hbad]
  obtain ⟨v, y, hv, huse, hlength, hyunit, hycap, hyst⟩ := hout
  have hnot : y.st ≠ .lost := by
    rw [hyst]
    split
    · nofun
    · nofun
  obtain ⟨hdrive, hk, he⟩ := custodyWork_inUse hnot huse
  rw [hv, getDrive, hdrive, hk]
  exact ⟨hyst, hyunit, hycap, hlength, he⟩

/-- A drive in INIT that answers is set up; what it says of itself is kept. -/
theorem execDriveReady_label {d : Fin 4} {l : DriveLabel} (hs : Shaped s) (hst : (getDrive s d).st = .init) (hup : portUp s pNvm d = true)
    (hns : namespaceOk l = true) : ∃ v, v.cus.known = s.cus.known ∧ v.cus.events = s.cus.events ∧ d.val < v.cus.drives.length ∧
    (getDrive v d).cap = min l.cap 67108864 ∧ v.fuse = s.fuse ∧ custodyCfg v = custodyCfg s ∧ canDraw v = canDraw s ∧
    exec (.driveReady d l) s = .next (match l.label with
      | none => if canDraw v then labelDrive d l v else v
      | some (store, uid) =>
        match (if store = v.fuse.uid then knownUnit v uid else none) with
        | some u =>
          if (nth ⟨[], true, 0, false, []⟩ v.cus.known u).lost then cusEvent 7 (modDrive d (fun y => { y with st := .foreign }) v)
          else driveOnline d u l v
        | none => cusEvent 7 (modDrive d (fun y => { y with st := .foreign }) v)) := by
  generalize hv : initDrive d (byteAt (freeBytes s 1) 0 % 16) (drawn 1 (modDrive d (fun y =>
        { y with cap := min l.cap 67108864, usedPct := l.used, temp := l.temp, hot := l.hot, ps := byteAt (freeBytes s 1) 0 % 16 }) s)) = v
  have hcus : v.cus = { s.cus with drives := modAt s.cus.drives d (fun y =>
        { y with cap := min l.cap 67108864, usedPct := l.used, temp := l.temp, hot := l.hot, ps := byteAt (freeBytes s 1) 0 % 16 }) } := by
    rw [← hv, initDrive_cus]
    rfl
  have hframe := initDrive_frame (.refl _ (drawn 1 (modDrive d (fun y =>
        { y with cap := min l.cap 67108864, usedPct := l.used, temp := l.temp, hot := l.hot, ps := byteAt (freeBytes s 1) 0 % 16 }) s)))
    (within_refl _) d.val (byteAt (freeBytes s 1) 0 % 16)
  rw [hv] at hframe
  refine ⟨v, by rw [hcus], by rw [hcus], by rw [hcus, length_modAt]; exact hs.drives d, ?_, hframe.1, ?_, ?_, ?_⟩
  · rw [getDrive, hcus]
    exact congrArg Drive.cap (nth_modAt_same _ _ _ (hs.drives d))
  · rw [custodyCfg, custodyCfg, hframe.cfg rfl]
    rfl
  · exact canDraw_congr (hframe.pwr rfl) (hframe.sec rfl) (hframe.monoUs_eq rfl rfl rfl)
  · refine congrArg Host.Outcome.next ((if_pos (by rw [hst, hup]; rfl)).trans ((if_neg (by rw [hns]; simp)).trans ?_))
    subst hv
    rfl

theorem execDriveReady_claims {d : Fin 4} {l : DriveLabel} (hs : Shaped s) (hst : (getDrive s d).st = .init) (hup : portUp s pNvm d = true)
    (hlabel : l.label = none) (hns : namespaceOk l = true) (hdraw : canDraw s = true) : ∃ t, exec (.driveReady d l) s = .next t ∧
    (getDrive t d).st = (if l.critical ∨ (custodyCfg s).wearPct ≤ l.used then .worn else .online) ∧
    (getDrive t d).unit = some s.cus.known.length ∧ (getDrive t d).cap = min l.cap 67108864 ∧
    t.cus.known.length = s.cus.known.length + 1 ∧ t.cus.events.getLsbD 1 = true := by
  obtain ⟨v, hknown, hevents, hlen, hcap, hfuse, hcfg, hcan, hexec⟩ := execDriveReady_label hs hst hup hns
  obtain ⟨hwcus, -⟩ := writeLabel_writes (s := v) d.val
  have hwcfg : custodyCfg (writeLabel d v) = custodyCfg v := by rw [custodyCfg, custodyCfg, writeLabel_cfg]
  have hdrive : getDrive (writeLabel d v) d = getDrive v d := by rw [getDrive, hwcus]; rfl
  obtain ⟨h1, h2, h3, h4, h5⟩ := driveOnline_serves (s := writeLabel d v) (d := d.val) (u := s.cus.known.length) (l := l) (by rw [hwcus]; exact hlen)
  rw [hlabel] at hexec
  dsimp only at hexec
  rw [if_pos (hcan.trans hdraw)] at hexec
  refine ⟨labelDrive d l v, hexec, ?_⟩
  have ht : (labelDrive d l v).cus = (driveOnline d s.cus.known.length l (writeLabel d v)).cus := by
    rw [← hknown]
    exact driveRecord_cus (s := driveOnline d v.cus.known.length l (writeLabel d v)) d 2 3
  rw [getDrive_of_cus ht, ht, h1, h2, h3, h4, hdrive, hcap, hwcfg, hcfg, hwcus, hknown]
  exact ⟨by simp [nth], rfl, rfl, List.length_append, h5⟩

theorem execDriveReady_foreign {d : Fin 4} {l : DriveLabel} {store : BitVec 128} {uid : Bytes} (hs : Shaped s) (hst : (getDrive s d).st = .init)
    (hup : portUp s pNvm d = true) (hns : namespaceOk l = true) (hlabel : l.label = some (store, uid)) (hstore : store ≠ s.fuse.uid) : ∃ t,
    exec (.driveReady d l) s = .next t ∧
    (getDrive t d).st = .foreign ∧ t.cus.known = s.cus.known ∧ t.cus.events = setBits s.cus.events 7 := by
  obtain ⟨v, hknown, hevents, hlen, hcap, hfuse, hcfg, hcan, hexec⟩ := execDriveReady_label hs hst hup hns
  rw [hlabel] at hexec
  dsimp only at hexec
  rw [if_neg (by rw [hfuse]; exact hstore)] at hexec
  refine ⟨_, hexec, ?_, hknown, ?_⟩
  · exact congrArg Drive.st (getDrive_modDrive_same (fun y => { y with st := .foreign }) hlen)
  · rw [← hevents]
    rfl

theorem execDriveReady_known {d : Fin 4} {l : DriveLabel} {uid : Bytes} {u : Nat} {k : StoreDrive} (hs : Shaped s) (hst : (getDrive s d).st = .init)
    (hup : portUp s pNvm d = true) (hns : namespaceOk l = true) (hlabel : l.label = some (s.fuse.uid, uid)) (hu : knownUnit s uid = some u)
    (hk : s.cus.known[u]? = some k) (hlost : k.lost = false) : ∃ t, exec (.driveReady d l) s = .next t ∧ (getDrive t d).unit = some u ∧
    (getDrive t d).st = (if k.worn ∨ l.critical ∨ (custodyCfg s).wearPct ≤ l.used then .worn else .online) := by
  obtain ⟨v, hknown, hevents, hlen, hcap, hfuse, hcfg, hcan, hexec⟩ := execDriveReady_label hs hst hup hns
  have hnth : nth ⟨[], true, 0, false, []⟩ v.cus.known u = k := by
    rw [hknown, nth, List.getD_eq_getElem?_getD, hk]
    rfl
  have huv : knownUnit v uid = some u := by rw [knownUnit, hknown]; exact hu
  rw [hlabel] at hexec
  dsimp only at hexec
  rw [hfuse, if_pos rfl, huv] at hexec
  dsimp only at hexec
  rw [hnth, hlost, if_neg Bool.false_ne_true] at hexec
  obtain ⟨h1, h2, -⟩ := driveOnline_serves (s := v) (d := d.val) (u := u) (l := l) hlen
  rw [hnth, hcfg] at h1
  exact ⟨_, hexec, h2, h1⟩

/-- Settles O17. -/
theorem custodyDrives : Obligations.CustodyDrives :=
  ⟨fun _ _ hs hl hu hst => execNvmeFailure_loses hs hl hu hst, fun _ _ hs hl hst => execNvmeLinkDown_notes hs hl hst,
    fun _ _ _ hs hd hl hu hst => execDriveLossDeclaration_loses hs hd hl hu hst, fun _ _ hs hup hl => execNvmeLinkUp_returns hs hup hl,
    fun _ _ _ hs hst hup hl hns hd => execDriveReady_claims hs hst hup hl hns hd,
    fun _ _ _ _ _ hs hst hup hns hl hne => execDriveReady_foreign hs hst hup hns hl hne,
    fun _ _ _ _ _ _ hs hst hup hns hl hu hk hlo => execDriveReady_known hs hst hup hns hl hu hk hlo, fun _ _ _ hst hup hns => execDriveReady_refused hst hup hns,
    fun _ _ hst hu => execDriveReadyTimeout_leaves hst hu, fun _ _ _ hs hst hp => execDriveWear_wears hs hst hp,
    fun _ _ _ hs hp => execDriveWear_notes hs hp⟩

end Sys2Proof.Machine

/-! What custody does by itself (O18). -/

namespace Sys2Proof.Machine

variable {s t u v : State} {g h : Group} {l : List Group}

@[simp] theorem sendWrites_led (l : List (Nat × NvmeCmd)) : (sendWrites l s).led = s.led := (sendWrites_frame (.refl _ s) (within_refl _) l).led rfl
@[simp] theorem raiseEach_cus (gs : List Nat) : (raiseEach gs s).cus = s.cus := (raiseEach_frame (.refl _ s) (within_refl _) gs).cus rfl
@[simp] theorem drainDrives_pwr (ready : BitVec 4) : (drainDrives ready s).pwr = s.pwr := (drainDrives_frame (.refl _ s) (within_refl _) ready).pwr rfl
@[simp] theorem custodyWork_pwr : (custodyWork s).pwr = s.pwr := (custodyWork_frame (.refl _ s) (within_refl _)).pwr rfl

/-! ### Re-protection -/

theorem execReprotection_begins (hon : storeOn s = true) (hgov : s.pwr.govLevel < 4) (hdrain : s.pwr.ledgerDrain = false)
    (hmove : moveOf s.cus = none) (hnext : nextStep s = some (g, l)) (hw : writtenTo (moveWrites g l s.cus) ≠ []) : ∃ t j,
    exec .reprotection s = .next t ∧
    j ∈ t.cus.jobs ∧ j.what = .move g l ∧ j.wait = writtenTo (moveWrites g l s.cus) ∧ t.cus.groups = s.cus.groups ∧
    t.cus.recs = s.cus.recs ∧ t.led = s.led := by
  refine ⟨beginMove g l s, {
    what := .move g l, stamp := (jobStamp (.move g l) ((l.map (·.used)).foldl (· + ·) 0) s).1
    item := { partHeader s 0 0 s.led.lsn with epoch := 0 }, wait := writtenTo (moveWrites g l s.cus), wrote := 0 }, congrArg Host.Outcome.next ?_, ?_⟩
  · have hrun : internalRuns s = true := decide_eq_true hgov
    rw [if_pos (by rw [hon, hrun, hdrain, hmove]; rfl), hnext]
  · unfold beginMove
    extract_lets writes src none_ j st s₁
    have hwait : j.wait.isEmpty = false := by
      cases hj : writtenTo (moveWrites g l s.cus) with
      | nil => exact absurd hj hw
      | cons a rest => exact congrArg List.isEmpty hj
    rw [if_neg (by rw [hwait]; exact Bool.false_ne_true), sendWrites_cus, sendWrites_led]
    exact ⟨List.mem_append_right _ (List.mem_singleton_self _), rfl, rfl, rfl, rfl, rfl⟩

theorem execReprotection_rests (hgov : 4 ≤ s.pwr.govLevel) : exec .reprotection s = .next s := by
  have hrun : internalRuns s = false := decide_eq_false (Nat.not_lt.mpr hgov)
  exact congrArg Host.Outcome.next (if_neg (by rw [hrun]; simp))

theorem relaid_ne_nil (lay : Nat × Bool × Nat) (can : List Nat) (next : Nat) (g : Group) : relaid lay can next g ≠ [] := by
  unfold relaid
  split
  · have hpos : max 1 (ceilDiv g.used (lay.1 * 2 ^ 20)) ≠ 0 := by omega
    rw [Ne, List.map_eq_nil_iff, List.range_eq_nil]
    exact hpos
  · nofun

/-- A step lays a group as at least one group. -/
theorem stepGroup_ne_nil (h : stepGroup s g = some l) : l ≠ [] := by
  have hrelaid := fun lay can => relaid_ne_nil lay can s.cus.nextGroup g
  intro hl
  subst hl
  unfold stepGroup at h
  dsimp only at h
  repeat' split at h
  all_goals simp [hrelaid] at h

/-- A choice that keeps the best so far or takes the one at hand chooses one of the list. -/
theorem foldl_choose_mem {α : Type} {f : Option α → α → Option α} (hf : ∀ best x, f best x = some x ∨ f best x = best) (xs : List α) {best : Option α}
    {y : α} (h : xs.foldl f best = some y) : best = some y ∨ y ∈ xs := by
  induction xs generalizing best with
  | nil => exact Or.inl h
  | cons x xs ih =>
    rcases ih h with hx | hx
    · rcases hf best x with hb | hb
      · exact Or.inr (Option.some.inj (hb.symm.trans hx) ▸ List.mem_cons_self)
      · exact Or.inl (hb.symm.trans hx)
    · exact Or.inr (List.mem_cons_of_mem x hx)

theorem nextStep_ne_nil (s : State) : (nextStep s).map (·.2) ≠ some [] := by
  intro h
  unfold nextStep at h
  rw [Option.map_map, Option.map_eq_some_iff] at h
  obtain ⟨x, hx, hnil⟩ := h
  rcases foldl_choose_mem (fun best x => by
    split
    · exact Or.inl rfl
    · split
      · exact Or.inl rfl
      · exact Or.inr rfl) _ hx with he | hmem
  · cases he
  · obtain ⟨g, -, hg⟩ := List.mem_filterMap.mp hmem
    obtain ⟨l, hl, he⟩ := Option.map_eq_some_iff.mp hg
    subst he
    exact stepGroup_ne_nil hl hnil

/-! ### A step of re-protection that is done -/

/-- The chain of moves has no step from `g` to `l`. -/
def NoMove (g : Group) (l : List Group) (c : Cus) : Prop := ∀ j ∈ c.jobs, j.what ≠ .move g l

theorem NoMove.moveOf {c : Cus} (h : NoMove g l c) : moveOf c ≠ some (g, l) := by
  intro he
  obtain ⟨j, hj, hw⟩ := List.exists_of_findSome?_eq_some he
  revert hw
  split
  · next x y hwhat =>
    intro hw
    cases hw
    exact h j hj hwhat
  · nofun

theorem getGroup_regroup {c : Cus} (hid : h.id = g.id) (hmem : g ∈ c.groups) :
    (regroup g (h :: l) c).groups.find? (fun x => x.id == g.id) = some h := by
  show (c.groups.flatMap (fun x => if x.id = g.id then h :: l else [x])).find? (fun x => x.id == g.id) = some h
  generalize c.groups = gs at hmem ⊢
  induction gs with
  | nil => cases hmem
  | cons a gs ih =>
    rw [List.flatMap_cons]
    by_cases ha : a.id = g.id
    · rw [if_pos ha, List.cons_append, List.find?_cons, hid, BEq.rfl]
    · rw [if_neg ha, List.singleton_append, List.find?_cons, beq_false_of_ne ha]
      exact ih ((List.mem_cons.mp hmem).resolve_left fun e => ha (e ▸ rfl))

theorem retireEmpty_storing {P : Cus → Prop} (hP : ∀ (c : Cus) ds, P c → P { c with drives := ds }) (hc : P s.cus) : P (retireEmpty s).cus := by
  unfold retireEmpty
  refine each_holds (P := fun x => P x.cus) _ _ (fun d t ht => ?_) hc
  extract_lets x t₁
  split
  · split
    · have ht₁ : P t₁.cus := by
        show P (driveRecord d _ 7 (tryLog _ (modDrive d _ t))).cus
        rw [driveRecord_cus, tryLog_cus]
        exact hP t.cus _ ht
      split
      · rw [settle_cus]
        exact ht₁
      · exact ht₁
    · exact ht
  · exact ht

theorem countDrain_cus (gone : List Nat) : (countDrain g gone s).cus = s.cus :=
  each_same State.cus _ _ (fun x t => by
    split
    · split
      · rfl
      · rfl
    · rfl) s

theorem moveDone_stands (hst : moveStands s.cus g l = true) (hlog : canLog (.other 434 g.id) s = true) :
    (moveDone g l s).cus.groups = (regroup g l s.cus).groups ∧ NoMove g l (moveDone g l s).cus ∧ s.led.lsn < (moveDone g l s).led.lsn := by
  unfold moveDone
  extract_lets s₁ s₂ units s₃ s₄
  rw [if_pos ⟨hst, hlog⟩]
  have hmove : NoMove g l s₁.cus := fun j hj => by simpa using (List.mem_filter.mp hj).2
  have hgroups : (regroup g l s₁.cus).groups = (regroup g l s.cus).groups := rfl
  have hs₂ : s₂.cus = regroup g l s₁.cus := rfl
  have hled : s.led.lsn < s₂.led.lsn := Nat.lt_succ_self _
  clear_value s₂ s₁
  have hs₃ : s₃.cus = s₂.cus := countDrain_cus _
  have hlsn₃ : s₂.led.lsn ≤ s₃.led.lsn := (countDrain_keeps (.refl s₂) _ _).lsn
  clear_value s₃
  have hs₄ : s₄.cus.groups = s₃.cus.groups ∧ s₄.cus.jobs = s₃.cus.jobs :=
    retireEmpty_storing (P := fun c => c.groups = s₃.cus.groups ∧ c.jobs = s₃.cus.jobs) (fun _ _ hc => hc) ⟨rfl, rfl⟩
  have hlsn₄ : s₃.led.lsn ≤ s₄.led.lsn := (retireEmpty_keeps (.refl s₃)).lsn
  clear_value s₄
  have hend : ∀ b, (onlyIf b (cusEvent 3) s₄).cus.groups = s₄.cus.groups ∧ (onlyIf b (cusEvent 3) s₄).cus.jobs = s₄.cus.jobs ∧
      (onlyIf b (cusEvent 3) s₄).led = s₄.led := fun b => by
    cases b with
    | true => exact ⟨rfl, rfl, rfl⟩
    | false => exact ⟨rfl, rfl, rfl⟩
  obtain ⟨hg, hj, hl⟩ := hend (nextStep s₄).isNone
  refine ⟨by rw [hg, hs₄.1, hs₃, hs₂, hgroups], ?_, by rw [hl]; omega⟩
  unfold NoMove
  rw [hj, hs₄.2, hs₃, hs₂]
  exact hmove

theorem moveDone_groups (hid : h.id = g.id) (hst : moveStands s.cus g (h :: l) = true) (hlog : canLog (.other 434 g.id) s = true) :
    getGroup (moveDone g (h :: l) s) g.id = some h ∧ s.led.lsn < (moveDone g (h :: l) s).led.lsn := by
  obtain ⟨hgroups, -, hlsn⟩ := moveDone_stands hst hlog
  refine ⟨?_, hlsn⟩
  rw [getGroup, hgroups]
  unfold moveStands at hst
  rw [Bool.and_eq_true] at hst
  exact getGroup_regroup hid (List.contains_iff_mem.mp hst.1)

theorem beginRec_noMove {what : JobKind} {x : CusRec} {body : Bytes} (hb : beginRec what x body s = .ok u)
    (hn : NoMove g l s.cus) (hwhat : what ≠ .move g l) : NoMove g l u.cus := by
  unfold beginRec at hb
  split at hb
  · cases hb
  · split at hb
    · cases hb
    · extract_lets y at hb
      split at hb
      · cases hb
      · next places c hplace =>
        extract_lets z s₁ st s₂ at hb
        cases hb
        rw [sendWrites_cus]
        have hc : NoMove g l c := placeBytes_cusHolds (fun _ _ _ _ h => h) hplace hn
        intro j hj
        rcases List.mem_append.mp (hj : j ∈ c.jobs ++ _) with hj | hj
        · exact hc j hj
        · rw [List.mem_singleton.mp hj]
          exact hwhat

theorem placeAgain_noMove {avoid : List Nat} {j : CusJob} (hj : j.what ≠ .move g l) (hp : placeAgain avoid j s = some u) (hn : NoMove g l s.cus) :
    NoMove g l u.cus := by
  unfold placeAgain at hp
  extract_lets cls at hp
  split at hp
  · cases hp
  · next places c hplace =>
    extract_lets x j' s₁ at hp
    cases hp
    rw [sendWrites_cus]
    have hc : NoMove g l c := placeBytes_cusHolds (P := NoMove g l) (fun _ _ _ _ h => h) hplace hn
    have htry : s₁.cus = { c with jobs := c.jobs.map (fun y => if y.item.cls = cls then j' else y) } := tryLog_cus (s := modCus _ s) _
    rw [htry]
    intro k hk
    obtain ⟨y, hy, rfl⟩ := List.mem_map.mp hk
    split
    · exact hj
    · exact hc y hy

theorem placeIdle_noMove (hn : NoMove g l s.cus) : NoMove g l (placeIdle s).cus := by
  have hjobs : ∀ j ∈ s.cus.jobs.filter (fun j => j.wait.isEmpty), j.what ≠ .move g l := fun j hj => hn j (List.mem_filter.mp hj).1
  unfold placeIdle each
  generalize s.cus.jobs.filter (fun j => j.wait.isEmpty) = js at hjobs
  induction js generalizing s with
  | nil => exact hn
  | cons j js ih =>
    refine ih ?_ fun k hk => hjobs k (List.mem_cons_of_mem j hk)
    dsimp only
    split
    · next hp => exact placeAgain_noMove (hjobs j List.mem_cons_self) hp hn
    · exact hn

theorem custodyWork_noMove (hn : NoMove g l s.cus) : NoMove g l (custodyWork s).cus := by
  unfold custodyWork
  extract_lets s₁ s₂
  have hleave : ∀ (d : Nat) (t : State), NoMove g l t.cus → NoMove g l (lostLeaves d t).cus := fun d t ht => by
    unfold lostLeaves
    split
    · exact ht
    · exact ht
  have hs₀ := each_holds (P := fun x => NoMove g l x.cus) (List.range 4) lostLeaves hleave hn
  have hs₁ : NoMove g l s₁.cus := placeIdle_noMove hs₀
  have hs₂ : NoMove g l s₂.cus := by
    dsimp only [s₂]
    clear_value s₁
    split
    · split
      · next hb => exact beginRec_noMove hb hs₁ nofun
      · exact hs₁
      · exact hs₁
    · exact hs₁
  clear_value s₂ s₁
  split
  · split
    · next hb => exact (beginRec_noMove hb hs₂ nofun :)
    · exact hs₂
    · exact hs₂
  · exact hs₂

/-- The drain's end: the store's links shut down, no job left (R460). -/
theorem drainEnds_cus : (drainEnds s).cus.drainStep = 0 ∧ (∀ x, x ∈ (drainEnds s).cus.drives → x.st = .online ∨ x.st = .worn → x.link = false) ∧
    (drainEnds s).cus.jobs = [] := by
  unfold drainEnds
  extract_lets s₁ s₂
  have hs₂ : s₂.cus.drainStep = 0 ∧ (∀ x, x ∈ s₂.cus.drives → x.st = .online ∨ x.st = .worn → x.link = false) ∧ s₂.cus.jobs = [] := by
    clear_value s₁
    refine ⟨rfl, fun x hx hst => ?_, rfl⟩
    obtain ⟨y, -, rfl⟩ := List.mem_map.mp (hx : x ∈ s₁.cus.drives.map _)
    revert hst
    split
    · exact fun _ => rfl
    · next hn => exact fun hst => absurd hst hn
  rw [modPwr_cus]
  clear_value s₂
  cases s₂.pwr.slice.isNone with
  | true => rw [onlyIf, if_pos rfl, lowerEnable_cus, lowerFrom_cus]; exact hs₂
  | false => rw [onlyIf, if_neg Bool.false_ne_true, lowerFrom_cus]; exact hs₂

theorem drainEnds_pwr : (drainEnds s).pwr.ledgerDrain = false ∧ (drainEnds s).pwr.mode = s.pwr.mode := by
  unfold drainEnds
  extract_lets s₁ s₂
  have hs₁ : s₁.pwr = s.pwr := each_same State.pwr _ _ (fun d t => by
    cases (storeDrives t.cus).any (fun e => e.1 == d) with
    | true => rfl
    | false => rfl) s
  clear_value s₁
  have hs₂ : s₂.pwr = s₁.pwr := rfl
  clear_value s₂
  refine ⟨rfl, ?_⟩
  obtain ⟨e, m, v, hlow⟩ := lowerFrom_pwr s₂ 2
  rw [modPwr_pwr, ← hs₁, ← hs₂]
  cases s₂.pwr.slice.isNone with
  | true =>
    obtain ⟨e', m', v', hlow'⟩ := lowerEnable_pwr (lowerFrom 2 s₂) 1
    rw [onlyIf, if_pos rfl, hlow', hlow]
  | false => rw [onlyIf, if_neg Bool.false_ne_true, hlow]

theorem drainOn_noMove (hn : NoMove g l s.cus) : NoMove g l (drainOn s).cus := by
  have hends : NoMove g l (drainEnds s).cus := by
    intro j hj
    rw [(drainEnds_cus (s := s)).2.2] at hj
    cases hj
  unfold drainOn
  split
  · exact hn
  · split
    · split
      · next hb => exact (beginRec_noMove (hb : beginRec _ _ _ (drawn _ (modLed _ s)) = _) hn nofun :)
      · exact hends
    · exact hends

theorem recordDone_move {j : CusJob} (hwhat : j.what = .move g l) : recordDone j s = custodyWork (reclaim (moveDone g l s)) := by
  simp only [recordDone, hwhat]

theorem execNvmeWriteComplete_moves {d : Fin 4} {u : Nat} {j : CusJob} (hu : (getDrive s d).unit = some u) (hj : firstJob s u = some j)
    (hwait : j.wait = [u]) (hwhat : j.what = .move g (h :: l)) (hst : moveStands s.cus g (h :: l) = true)
    (hlog : canLog (.other 434 g.id) s = true) : ∃ t, exec (.nvmeWriteComplete d true) s = .next t ∧ s.led.lsn < t.led.lsn ∧
    moveOf t.cus ≠ some (g, h :: l) := by
  have herase : j.wait.erase u = [] := by rw [hwait]; exact List.erase_cons_head u []
  refine ⟨_, rfl, ?_⟩
  simp only [hu, hj, if_true, jobWrite, herase, ofBool, List.isEmpty_nil]
  rw [recordDone_move (j := { j with wait := [], wrote := j.wrote + 1 }) hwhat]
  generalize hv : modCus _ s = v
  obtain ⟨-, hnomove, hlsn⟩ := moveDone_stands (s := v) (g := g) (l := h :: l) (by rw [← hv]; exact hst) (by rw [← hv]; exact hlog)
  have hled : v.led = s.led := by rw [← hv, modCus_led]
  rw [hled] at hlsn
  generalize moveDone g (h :: l) v = w at hnomove hlsn ⊢
  have hkeep := (drainOn_keeps (custodyWork_keeps (reclaim_keeps (.refl w)))).lsn
  exact ⟨lt_of_lt_of_le hlsn hkeep, (drainOn_noMove (custodyWork_noMove (by rw [reclaim_cus]; exact hnomove))).moveOf⟩

/-! ### Eviction -/

theorem oldestEvictable_mem {x : CusRec} (hx : oldestEvictable s = some x) : x ∈ s.cus.recs := by
  unfold oldestEvictable at hx
  rcases foldl_choose_mem (fun best x => by
    split
    · exact Or.inl rfl
    · split
      · exact Or.inl rfl
      · exact Or.inr rfl) _ hx with he | hmem
  · cases he
  · exact (List.mem_filter.mp hmem).1

/-- Record `x` is evicted, and CUS_EVENTS says so. -/
def Evicted (x : CusRec) (v : BitVec 9) (c : Cus) : Prop :=
  c.recs.any (fun y => y.cls == x.cls && y.rid == x.rid) = false ∧ (x.cls, x.rid, x.hash) ∈ c.gone ∧ c.events = setBits v 6

/-- Evicting a record changes these of the store. -/
theorem evictRec_cus (x : CusRec) : ∃ gs, (evictRec x s).cus = { s.cus with
    recs := s.cus.recs.filter (fun y => !(y.cls == x.cls && y.rid == x.rid)), gone := s.cus.gone ++ [(x.cls, x.rid, x.hash)], groups := gs,
    events := setBits s.cus.events 6 } := by
  unfold evictRec
  extract_lets +onlyGivenNames same s₁ s₂
  have hs₁ : s₁.cus = s.cus := tryLog_cus _
  refine ⟨s₂.cus.groups, ?_⟩
  rw [← hs₁]
  cases x.origin == 1 with
  | true => rfl
  | false => rfl

theorem evictRec_evicts {x : CusRec} {v : BitVec 9} (hv : s.cus.events = v) : Evicted x v (evictRec x s).cus := by
  obtain ⟨gs, hc⟩ := evictRec_cus (s := s) x
  rw [hc]
  refine ⟨?_, List.mem_append_right _ (List.mem_singleton_self _), by rw [← hv]⟩
  rw [List.any_eq_false]
  intro y hy
  have hne := (List.mem_filter.mp hy).2
  rw [Bool.not_eq_true'] at hne
  rw [hne]
  exact Bool.false_ne_true

theorem Evicted.evictRec {x y : CusRec} {v : BitVec 9} (h : Evicted x v s.cus) : Evicted x v (evictRec y s).cus := by
  obtain ⟨hrecs, hgone, hevents⟩ := h
  obtain ⟨gs, hc⟩ := evictRec_cus (s := s) y
  rw [hc]
  refine ⟨?_, List.mem_append_left _ hgone, by rw [hevents, setBits_setBits]⟩
  rw [List.any_eq_false] at hrecs ⊢
  exact fun z hz => hrecs z (List.mem_filter.mp hz).1

theorem evictAll_evicted {x : CusRec} {v : BitVec 9} {n : Nat} (h : Evicted x v s.cus) : Evicted x v (evictAll n s).cus := by
  induction n generalizing s with
  | zero => exact h
  | succ n ih =>
    rw [evictAll]
    split
    · split
      · exact ih h.evictRec
      · exact h
    · exact h

theorem execEviction_evicts {x : CusRec} (hon : storeOn s = true) (hlow : 100 * (storeSpace s.cus).1 < 5 * (storeSpace s.cus).2)
    (hx : oldestEvictable s = some x) : ∃ t, exec .eviction s = .next t ∧
    t.cus.recs.any (fun y => y.cls == x.cls && y.rid == x.rid) = false ∧
    (x.cls, x.rid, x.hash) ∈ t.cus.gone ∧ t.cus.events = setBits s.cus.events 6 := by
  obtain ⟨n, hn⟩ : ∃ n, s.cus.recs.length = n + 1 := Nat.exists_eq_succ_of_ne_zero (List.length_pos_of_mem (oldestEvictable_mem hx)).ne'
  refine ⟨evictAll n (evictRec x s), congrArg Host.Outcome.next ?_, ?_⟩
  · rw [if_pos hon, evictIfLow, if_pos hlow, hn, evictAll, if_pos (by omega), hx]
  · exact evictAll_evicted (evictRec_evicts rfl)

theorem execEviction_rests (hspace : 5 * (storeSpace s.cus).2 ≤ 100 * (storeSpace s.cus).1) : exec .eviction s = .next s := by
  have hlow : evictIfLow s = s := if_neg (by omega)
  refine congrArg Host.Outcome.next ?_
  rw [hlow]
  split
  · rfl
  · rfl

/-! ### The ledger's sectors and checkpoints -/

/-- The ledger's halves: failed, spare sectors, sectors being filled again. -/
def halvesOf (l : Ledger) : Bool × Nat × Nat × Bool × Nat × Nat := (l.aFailed, l.aSpares, l.aRefill, l.bFailed, l.bSpares, l.bRefill)

theorem writeFault_halves (ty ix code sev action detail arg : Nat) : halvesOf (writeFault ty ix code sev action detail arg s).led = halvesOf s.led := by
  unfold writeFault
  split
  · extract_lets no frec s₁ s₂
    split
    · rw [sendMsix_led]
      rfl
    · rfl
  · rfl

theorem fault_halves (ty ix code sev action detail arg : Nat) : halvesOf (fault ty ix code sev action detail arg s).led = halvesOf s.led := by
  rw [fault_eq]
  split
  · rfl
  · exact writeFault_halves ty ix code sev action detail arg

theorem changeUnit_halves (ty ix : Nat) (x : UnitSt) (code sev action detail arg : Nat) :
    halvesOf (changeUnit ty ix x code sev action detail arg s).led = halvesOf s.led := by
  rw [changeUnit_eq]
  exact writeFault_halves (s := setUnit ty ix x s) ty ix code sev action detail arg

theorem execLedgerSectorFail_spare {b : Bool} (hup : (if b then s.led.bFailed else s.led.aFailed) = false)
    (hspare : (if b then s.led.bSpares else s.led.aSpares) ≠ 0) : ∃ t, exec (.ledgerSectorFail b) s = .next t ∧
    (if b then t.led.bSpares else t.led.aSpares) = (if b then s.led.bSpares else s.led.aSpares) - 1 ∧
    (if b then t.led.bRefill else t.led.aRefill) = (if b then s.led.bRefill else s.led.aRefill) + 1 ∧
    t.cus.events = setBits s.cus.events 4 := by
  refine ⟨_, congrArg Host.Outcome.next ((if_neg (by rw [hup]; exact Bool.false_ne_true)).trans (if_neg hspare)), ?_⟩
  rw [fault_cus]
  have hled := fault_halves (s := modFlt (fun x => { x with events := setBits x.events 2 }) (cusEvent 4 (modLed (fun l =>
      if b then { l with bSpares := l.bSpares - 1, bRefill := l.bRefill + 1 } else { l with aSpares := l.aSpares - 1, aRefill := l.aRefill + 1 }) s)))
    uLedger (ofBool b) 0x02 sDegraded 0x03 0 0
  generalize fault uLedger (ofBool b) 0x02 sDegraded 0x03 0 0 _ = v at hled ⊢
  unfold halvesOf at hled
  simp only [Prod.mk.injEq] at hled
  obtain ⟨-, has, har, -, hbs, hbr⟩ := hled
  rw [has, har, hbs, hbr]
  cases b with
  | true => exact ⟨rfl, rfl, rfl⟩
  | false => exact ⟨rfl, rfl, rfl⟩

theorem execLedgerSectorFail_last (ha : s.led.aFailed = false) (hspare : s.led.aSpares = 0) (hb : s.led.bFailed = false) : ∃ t,
    exec (.ledgerSectorFail false) s = .next t ∧
    t.led.aFailed = true ∧ t.led.aRefill = 0 ∧ t.pwr.mode = s.pwr.mode ∧ t.cus.events = setBits s.cus.events 5 := by
  refine ⟨_, congrArg Host.Outcome.next ((if_neg (by simp [ha])).trans (if_pos hspare)), ?_⟩
  unfold halfFails
  extract_lets s₁ s₂
  have hled := changeUnit_halves (s := cusEvent 5 s₁) uLedger (ofBool false) .retired 0x02 sDegraded 0x04 0 0
  have hs₂ : s₂.pwr = s.pwr ∧ s₂.cus.events = setBits s.cus.events 5 := by
    refine ⟨(changeUnit_frame (.refl _ (cusEvent 5 s₁)) (within_refl _) _ _ _ _ _ _ _ _).pwr rfl, ?_⟩
    show (changeUnit _ _ _ _ _ _ _ _ (cusEvent 5 s₁)).cus.events = _
    rw [changeUnit_cus]
    rfl
  have hled₂ : halvesOf s₂.led = (true, s.led.aSpares, 0, false, s.led.bSpares, s.led.bRefill) := hled.trans (by rw [← hb]; rfl)
  clear_value s₂
  unfold halvesOf at hled₂
  simp only [Prod.mk.injEq] at hled₂
  obtain ⟨haf, -, har, hbf, -⟩ := hled₂
  rw [if_neg (by rw [ledgerUp, haf, hbf]; simp)]
  exact ⟨haf, har, congrArg Pwr.mode hs₂.1, hs₂.2⟩

theorem beginRec_cpAt {what : JobKind} {x : CusRec} {body : Bytes} (h : beginRec what x body s = .ok u) : u.led.cpAt = s.led.cpAt := by
  unfold beginRec at h
  split at h
  · cases h
  · split at h
    · cases h
    · extract_lets y at h
      split at h
      · cases h
      · next places c hplace =>
        extract_lets z s₁ st s₂ at h
        cases h
        rw [sendWrites_led]
        show s₁.led.cpAt = _
        dsimp only [s₁]
        split
        · rfl
        · rfl

theorem execLedgercp_begins (hon : storeOn s = true) (hsince : sinceCp s ≠ 0)
    (hu : u = custodyWork (reclaim (if sinceCp s < 8192 then elapseTo (s.led.cpAt + 1000000) s else s))) (hv : beginCp u = .ok v) :
    exec .ledgercp s = .next v ∧ v.led.cpAt = monoUs u ∧ ∃ j, j ∈ v.cus.jobs ∧ j.what = .ledgercp u.led.lsn ∧ j.item.cls = 5 := by
  refine ⟨congrArg Host.Outcome.next ?_, ?_, ?_⟩
  · rw [if_pos (by rw [hon]; simpa using hsince)]
    dsimp only
    rw [← hu, hv]
  · exact (beginRec_cpAt hv).trans rfl
  · obtain ⟨j, hj, hwhat, hcls, -⟩ := beginRec_ok hv
    exact ⟨j, hj, hwhat, hcls⟩

/-! ### The drain in Parked -/

/-- An enable that is high stays high while groups are raised. -/
theorem raiseEach_en {i : Nat} (gs : List Nat) (h : s.pwr.en.getLsbD i = true) : (raiseEach gs s).pwr.en.getLsbD i = true :=
  each_holds (P := fun x => x.pwr.en.getLsbD i = true) gs _ (fun g t ht => by
    split
    · rw [raiseEnable_en, ht]; rfl
    · exact ht) h

/-- The groups the drain raises (R460): the first, and the second once the first is good. -/
theorem raiseEach_drain (h0 : groupGood s 0 = true) : (raiseEach [1, 2, 3] s).pwr.en.getLsbD 1 = true ∧
    (groupGood s 1 = false → (raiseEach [1, 2, 3] s).pwr.en.getLsbD 2 = s.pwr.en.getLsbD 2) := by
  have hfirst : raiseEach [1, 2, 3] s = raiseEach [2, 3] (raiseEnable 1 s) := by
    rw [raiseEach, each, List.foldl_cons, if_pos (by rw [List.range_one, List.all_cons, h0]; rfl), raiseEach, each]
  rw [hfirst]
  refine ⟨raiseEach_en [2, 3] (by rw [raiseEnable_en]; simp), fun h1 => ?_⟩
  have h1' : groupGood (raiseEnable 1 s) 1 = false := by
    obtain ⟨e, n, hp⟩ := raiseEnable_pwr s 1
    rw [groupGood, hp]
    exact h1
  have hskip : raiseEach [2, 3] (raiseEnable 1 s) = raiseEnable 1 s := by
    generalize raiseEnable 1 s = u at h1'
    have hnot : ∀ n, 1 < n → (List.range n).all (groupGood u) = false := fun n hn =>
      List.all_eq_false.mpr ⟨1, List.mem_range.mpr hn, by rw [h1']; exact Bool.false_ne_true⟩
    simp only [raiseEach, each, List.foldl_cons, List.foldl_nil, hnot 2 (by omega), hnot 3 (by omega), Bool.false_eq_true, if_false]
  rw [hskip, raiseEnable_en]
  simp

theorem execLedgerDrain_raises {ready : BitVec 4} (hm : s.pwr.mode = .parked) (hvaon : s.pwr.vaon = true) (hstart : s.pwr.start = .settled)
    (hlow : s.led.low = true) (hgood : (groupGood s 1 && groupGood s 2 && groupGood s 3) = false) (h0 : groupGood s 0 = true) : ∃ t,
    exec (.ledgerDrain ready) s = .next t ∧
    t.pwr.ledgerDrain = true ∧ t.pwr.mode = .parked ∧ t.pwr.en.getLsbD 1 = true ∧ t.cus = s.cus ∧
    (groupGood s 1 = false → t.pwr.en.getLsbD 2 = s.pwr.en.getLsbD 2) := by
  refine ⟨_, congrArg Host.Outcome.next ((if_pos (by rw [hm, hvaon, hstart, hlow]; rfl)).trans (if_pos (by rw [hgood]; rfl))), ?_⟩
  generalize hv : modPwr (fun p => { p with ledgerDrain := true }) s = v
  have hpwr : v.pwr = { s.pwr with ledgerDrain := true } := by rw [← hv, modPwr_pwr]
  obtain ⟨e, n, hraise⟩ := raiseEach_pwr v [1, 2, 3]
  have hgood' : ∀ g, groupGood v g = groupGood s g := fun g => by rw [groupGood, groupGood, hpwr]
  obtain ⟨h1, h2⟩ := raiseEach_drain (s := v) (by rw [hgood']; exact h0)
  have hcus : (raiseEach [1, 2, 3] v).cus = s.cus := by rw [raiseEach_cus, ← hv, modPwr_cus]
  refine ⟨by rw [hraise, hpwr], by rw [hraise, hpwr]; exact hm, h1, hcus, fun hg => ?_⟩
  rw [h2 (by rw [hgood']; exact hg), hpwr]

theorem drainOn_mode : (drainOn s).pwr.mode = s.pwr.mode := by
  unfold drainOn
  split
  · rfl
  · split
    · split
      · next hb => exact congrArg Pwr.mode ((beginCp_frame (.refl _ s) (within_refl _) hb).pwr rfl)
      · exact drainEnds_pwr.2
    · exact drainEnds_pwr.2

/-- At its first step the drain waits, goes on to its second step, or ends (R460). -/
theorem drainOn_of_one (h : s.cus.drainStep = 1) : drainOn s = s ∨ (drainOn s).cus.drainStep = 2 ∨ drainOn s = drainEnds s := by
  unfold drainOn
  split
  · exact Or.inl rfl
  · split
    · exact Or.inr (Or.inl rfl)
    · exact Or.inr (Or.inr rfl)

theorem execLedgerDrain_drains {ready : BitVec 4} (hm : s.pwr.mode = .parked) (hvaon : s.pwr.vaon = true) (hstart : s.pwr.start = .settled)
    (hlow : s.led.low = true) (hgood : (groupGood s 1 && groupGood s 2 && groupGood s 3) = true) (hstep : s.cus.drainStep = 0) : ∃ t,
    exec (.ledgerDrain ready) s = .next t ∧ t.pwr.mode = .parked ∧ (t.cus.drainStep = 0 → t.pwr.ledgerDrain = false ∧
      ∀ x, x ∈ t.cus.drives → x.st = .online ∨ x.st = .worn → x.link = false) := by
  refine ⟨_, congrArg Host.Outcome.next ((if_pos (by rw [hm, hvaon, hstart, hlow]; rfl)).trans ((if_neg (by rw [hgood]; simp)).trans (if_pos hstep))), ?_⟩
  generalize hv : modCus (fun c => { c with drainStep := 1 }) (drainDrives ready (modPwr (fun p => { p with ledgerDrain := true }) s)) = v
  have hmode : (custodyWork v).pwr.mode = .parked := by
    rw [custodyWork_pwr, ← hv, modCus_pwr, drainDrives_pwr, modPwr_pwr]
    exact hm
  have hone : (custodyWork v).cus.drainStep = 1 :=
    custodyWork_cusHolds (P := fun c => c.drainStep = 1) (fun _ _ _ _ _ _ _ _ h => h) (fun d t ht => by
      unfold lostLeaves
      split
      · exact ht
      · exact ht) (by rw [← hv]; rfl)
  generalize custodyWork v = w at hmode hone
  refine ⟨(drainOn_mode (s := w)).trans hmode, fun h0 => ?_⟩
  obtain ⟨-, hlinks, -⟩ := drainEnds_cus (s := w)
  rcases drainOn_of_one hone with he | he | he
  · rw [he, hone] at h0
    cases h0
  · rw [he] at h0
    cases h0
  · rw [he]
    exact ⟨drainEnds_pwr.1, hlinks⟩

theorem execLedgerDrain_ends {ready : BitVec 4} (hm : s.pwr.mode = .parked) (hvaon : s.pwr.vaon = true) (hstart : s.pwr.start = .settled)
    (hgood : (groupGood s 1 && groupGood s 2 && groupGood s 3) = true) (hstep : s.cus.drainStep = 2)
    (hjobs : s.cus.jobs.all (fun j => j.wait.isEmpty) = true) : ∃ t,
    exec (.ledgerDrain ready) s = .next t ∧ t.pwr.mode = .parked ∧ t.pwr.ledgerDrain = false ∧ t.cus.drainStep = 0 ∧
    ∀ x, x ∈ t.cus.drives → x.st = .online ∨ x.st = .worn → x.link = false := by
  obtain ⟨hs, hlinks, -⟩ := drainEnds_cus (s := s)
  obtain ⟨hd, hmode⟩ := drainEnds_pwr (s := s)
  refine ⟨drainEnds s, congrArg Host.Outcome.next ((if_pos (by rw [hm, hvaon, hstart, hstep]; simp)).trans ((if_neg (by rw [hgood]; simp)).trans
    ((if_neg (by rw [hstep]; nofun)).trans ?_))), hmode.trans hm, hd, hs, hlinks⟩
  have hany : s.cus.jobs.any (fun j => !j.wait.isEmpty) = false := by
    rw [List.any_eq_false]
    rw [List.all_eq_true] at hjobs
    exact fun j hj => by rw [hjobs j hj]; simp
  rw [drainOn, if_neg (by rw [hany, hstep]; simp), if_neg (by rw [hstep]; nofun)]

/-- Settles O18. -/
theorem custodyCare : Obligations.CustodyCare :=
  ⟨fun _ _ _ hon hg hd hm hn hw => execReprotection_begins hon hg hd hm hn hw,
    fun _ _ _ _ _ _ _ hu hj hw hwh hst hl => execNvmeWriteComplete_moves hu hj hw hwh hst hl,
    fun _ _ _ _ hid hst hl => moveDone_groups hid hst hl, nextStep_ne_nil, fun _ hg => execReprotection_rests hg,
    fun _ _ hon hl hx => execEviction_evicts hon hl hx, fun _ h => execEviction_rests h,
    fun _ ha hs => execLedgerSectorFail_spare (b := false) ha hs, fun _ hb hs => execLedgerSectorFail_spare (b := true) hb hs,
    fun _ ha hs hb => execLedgerSectorFail_last ha hs hb, fun _ => ⟨rfl, rfl⟩,
    fun _ _ _ hon hs hu hv => execLedgercp_begins hon hs hu hv, fun _ _ hm hv hs hl hg h0 => execLedgerDrain_raises hm hv hs hl hg h0,
    fun _ _ hm hv hs hl hg hst => execLedgerDrain_drains hm hv hs hl hg hst,
    fun _ _ hm hv hs hg hst hj => execLedgerDrain_ends hm hv hs hg hst hj⟩

end Sys2Proof.Machine

/-! What sending on the Ifeven line leaves alone, and the nodes of the chain (R406–R422). -/

namespace Sys2Proof.Machine

variable {s t u v : State} {p q pos : Nat} {f : Port → Port} {ps : List Nat}

/-! ### Tables -/

section
variable {α : Type} (x : Tab α) (k : Nat)

theorem tabFind_tabPut_same (a : α) : tabFind (tabPut x k a) k = some a := by
  induction x with
  | nil => simp [tabPut, tabFind]
  | cons e x ih =>
    obtain ⟨i, b⟩ := e
    unfold tabPut
    split
    · simp [tabFind]
    · split
      · simp [tabFind]
      · next hne => rw [tabFind, if_neg (Ne.symm hne), ih]

theorem tabFind_tabErase (j : Nat) : tabFind (tabErase x k) j = if j = k then none else tabFind x j := by
  induction x with
  | nil => simp [tabErase, tabFind]
  | cons e x ih =>
    obtain ⟨i, b⟩ := e
    unfold tabErase at ih ⊢
    rw [List.filter_cons]
    by_cases hik : i = k
    · subst hik
      by_cases hj : j = i
      · subst hj
        simpa using ih
      · simpa [tabFind, Ne.symm hj, hj] using ih
    · by_cases hj : i = j
      · subst hj
        simp [tabFind, hik]
      · simpa [tabFind, hj, hik] using ih

theorem tabFind_map_at (g : α → α) : tabFind (x.map (fun e => if e.1 = k then (e.1, g e.2) else e)) k = (tabFind x k).map g := by
  induction x with
  | nil => rfl
  | cons e x ih =>
    obtain ⟨i, b⟩ := e
    rw [List.map_cons]
    by_cases hi : i = k
    · simp [tabFind, hi]
    · simpa [tabFind, hi] using ih

end

/-! ### Ports -/

theorem Shaped.ports (h : Shaped s) (p : Fin 4) : p.val < s.ifl.ports.length := by
  have hlen : s.ifl.ports.length = 4 := congrArg Counts.ports h
  rw [hlen]
  exact p.isLt

/-- What sending a frame leaves of a port. -/
def quietPort (x : Port) : Port :=
  { x with queue := [], unacked := [], txSeq := 0, airEnd := 0, txEnd := 0, searchUntil := 0, cntTx := 0, mgmt := [], reqAt := none }

/-- What sending frames leaves of the IFL block. -/
def quiet (s : State) : Ifl := { s.ifl with ports := s.ifl.ports.map quietPort }

theorem quiet_of_ifl (h : t.ifl = s.ifl) : quiet t = quiet s := by rw [quiet, quiet, h]

theorem modAt_map_same {α β : Type} (g : α → β) (f : α → α) (h : ∀ x, g (f x) = g x) (l : List α) (i : Nat) : (modAt l i f).map g = l.map g := by
  induction l generalizing i with
  | nil => rfl
  | cons a l ih =>
    cases i with
    | zero => simp [modAt, h]
    | succ i => simp [modAt, ih]

theorem quiet_modPort (h : ∀ x, quietPort (f x) = quietPort x) : quiet (modPort p f s) = quiet s := by
  unfold quiet modPort modIfl
  rw [modAt_map_same quietPort f h]

/-- A port as sending leaves it. -/
theorem quietPort_getPort : quietPort (getPort s p) = nth (quietPort {}) (quiet s).ports p := by
  simp only [getPort, nth, quiet, List.getD_eq_getElem?_getD, List.getElem?_map]
  cases s.ifl.ports[p]? <;> rfl

theorem port_of_quiet (h : (quiet t).ports = (quiet s).ports) (p : Nat) : quietPort (getPort t p) = quietPort (getPort s p) := by
  rw [quietPort_getPort, quietPort_getPort, h]

theorem nodeAt_of_nodes (h : t.ifl.nodes = s.ifl.nodes) (pos : Nat) : nodeAt t pos = nodeAt s pos := by rw [nodeAt, nodeAt, h]

theorem nodeAt_of_quiet (h : quiet t = quiet s) (pos : Nat) : nodeAt t pos = nodeAt s pos :=
  nodeAt_of_nodes (congrArg Ifl.nodes h : (quiet t).nodes = (quiet s).nodes) pos

theorem getPort_modPort (h : p < s.ifl.ports.length) : getPort (modPort p f s) p = f (getPort s p) := nth_modAt_same _ _ _ h

theorem getPort_of_ifl (h : t.ifl = s.ifl) : getPort t p = getPort s p := by rw [getPort, getPort, h]

theorem ports_of_quiet (h : (quiet t).ports = (quiet s).ports) : t.ifl.ports.length = s.ifl.ports.length := by
  simpa [quiet] using congrArg List.length h

@[simp] theorem length_ports_modPort : (modPort p f s).ifl.ports.length = s.ifl.ports.length := length_modAt _ _ _

/-! ### Sending -/

@[simp] theorem modPort_pwr (p : Nat) (f : Port → Port) : (modPort p f s).pwr = s.pwr := (modPort_frame (.refl _ s) (within_refl _) p f).pwr rfl
@[simp] theorem modPort_sys (p : Nat) (f : Port → Port) : (modPort p f s).sys = s.sys := (modPort_frame (.refl _ s) (within_refl _) p f).sys rfl
@[simp] theorem modPort_cfg (p : Nat) (f : Port → Port) : (modPort p f s).cfg = s.cfg := (modPort_frame (.refl _ s) (within_refl _) p f).cfg rfl
@[simp] theorem modPort_sec (p : Nat) (f : Port → Port) : (modPort p f s).sec = s.sec := (modPort_frame (.refl _ s) (within_refl _) p f).sec rfl
@[simp] theorem modPort_flt (p : Nat) (f : Port → Port) : (modPort p f s).flt = s.flt := (modPort_frame (.refl _ s) (within_refl _) p f).flt rfl
@[simp] theorem modPort_ns (p : Nat) (f : Port → Port) : (modPort p f s).clk.ns = s.clk.ns := (modPort_frame (.refl _ s) (within_refl _) p f).time rfl
@[simp] theorem sendAckFor_pwr (p : Nat) (pt : Port) (busy : Bool) : (sendAckFor p pt busy s).pwr = s.pwr := (sendAckFor_frame (.refl _ s) (within_refl _) p pt busy).pwr rfl
@[simp] theorem sendAckFor_sys (p : Nat) (pt : Port) (busy : Bool) : (sendAckFor p pt busy s).sys = s.sys := (sendAckFor_frame (.refl _ s) (within_refl _) p pt busy).sys rfl
@[simp] theorem sendAckFor_sec (p : Nat) (pt : Port) (busy : Bool) : (sendAckFor p pt busy s).sec = s.sec := (sendAckFor_frame (.refl _ s) (within_refl _) p pt busy).sec rfl
@[simp] theorem settle_ifl (r : Nat) (fr : FateRec) : (settle r fr s).ifl = s.ifl := (settle_frame (.refl _ s) (within_refl _) r fr).ifl rfl
@[simp] theorem logPart_ifl (p : PartRec) : (logPart p s).ifl = s.ifl := (logPart_frame (.refl _ s) (within_refl _) p).ifl rfl
@[simp] theorem sealRecord_ifl (kind : Nat) (x : Xchg) (f : Flight) (id : Nat) : (sealRecord kind x f id s).ifl = s.ifl := (sealRecord_frame (.refl _ s) (within_refl _) kind x f id).ifl rfl
@[simp] theorem dropTransfers_ifl (q : Nat) : (dropTransfers q s).ifl = s.ifl := (dropTransfers_frame (.refl _ s) (within_refl _) q).ifl rfl
@[simp] theorem elapseTo_ifl (t0 : Nat) : (elapseTo t0 s).ifl = s.ifl := (elapseTo_frame (.refl _ s) (within_refl _) t0).ifl rfl
@[simp] theorem drew_ifl (q : RngQueue) (n : Nat) : (drew q n s).ifl = s.ifl := (drew_frame (.refl _ s) (within_refl _) q n).ifl rfl

section
variable (p map tbl dst kind cpl r svc ten n ltype : Nat) (b : Bytes) (x : TxFrame) (y : QFrame) (z : Port) (fl : Bool) (op : Option Nat)

theorem quiet_searchOn : quiet (searchOn p n s) = quiet s := by
  unfold searchOn
  split
  · exact quiet_modPort fun _ => rfl
  · rfl

theorem quiet_sendFrame : quiet (sendFrame p map tbl dst kind b s) = quiet s := by
  unfold sendFrame onlyIf
  split
  · exact (quiet_searchOn p _).trans (quiet_modPort fun _ => rfl)
  · exact quiet_modPort fun _ => rfl

theorem quiet_sendPlain : quiet (sendPlain p y dst cpl fl s) = quiet s := by
  unfold sendPlain
  split
  · exact quiet_sendFrame ..
  · rfl

theorem quiet_sendRoll : quiet (sendRoll p fl s) = quiet s := quiet_sendPlain ..

theorem quiet_sendAckFor : quiet (sendAckFor p z fl s) = quiet s := quiet_sendPlain ..

theorem quiet_flushMgmt : quiet (flushMgmt p s) = quiet s := by
  unfold flushMgmt
  split
  · exact (each_same quiet _ _ (fun _ _ => quiet_sendFrame ..) _).trans (quiet_modPort fun _ => rfl)
  · rfl

theorem quiet_pumpN : quiet (pumpN n p s) = quiet s := by
  induction n generalizing s with
  | zero => rfl
  | succ n ih =>
    unfold pumpN
    dsimp only
    split
    · rfl
    · split
      · exact ih.trans ((quiet_sendFrame ..).trans (quiet_modPort fun _ => rfl))
      · rfl

theorem quiet_pump : quiet (pump p s) = quiet s := (quiet_pumpN p 8).trans (quiet_flushMgmt p)

theorem quiet_enqueue : quiet (enqueue p y s) = quiet s := (quiet_pump p).trans (quiet_modPort fun _ => rfl)

theorem quiet_sendTo : quiet (sendTo pos ltype b op s) = quiet s := by
  unfold sendTo
  split
  · exact quiet_enqueue ..
  · rfl

theorem quiet_sendData : quiet (sendData pos svc ten b op s) = quiet s := quiet_sendTo ..

theorem quiet_sendMgmt : quiet (sendMgmt p b s) = quiet s := by
  unfold sendMgmt
  split
  · exact (quiet_flushMgmt p).trans (quiet_modPort fun _ => rfl)
  · rfl

theorem quiet_sendSoundReq : quiet (sendSoundReq p n s) = quiet s := by
  unfold sendSoundReq
  split
  · rfl
  · exact quiet_sendMgmt ..

theorem quiet_sendDirState : quiet (sendDirState pos s) = quiet s := by
  unfold sendDirState
  exact (each_same quiet _ _ (fun _ _ => quiet_sendData ..) _).trans (quiet_sendData ..)

theorem quiet_resendSched : quiet (resendSched pos s) = quiet s := by
  unfold resendSched
  split
  · split
    · unfold sendSched
      split
      · exact quiet_sendData ..
      · rfl
    · rfl
  · rfl

theorem quiet_onwardLost (l : List QFrame) : quiet (onwardLost l s) = quiet s := each_same quiet _ _ (fun _ _ => quiet_sendTo ..) s

theorem quiet_readerRequest : quiet (readerRequest n r b s) = quiet s := by
  unfold readerRequest
  exact (quiet_sendData ..).trans rfl

/-! ### Losing a card of a unit -/

theorem quiet_carrierOff : quiet (carrierOff n fl s) = quiet s := by
  unfold carrierOff
  split
  · rfl
  · split
    · exact quiet_readerRequest ..
    · rfl

theorem quiet_endLost (x : Xchg) (fr : FateRec) : quiet (endLost x fr n s) = quiet s := by
  have hoff : quiet (dropXchg x.op (carrierOff (xRd x) false s)) = quiet s := quiet_carrierOff ..
  unfold endLost
  split
  · dsimp only
    split
    · exact (quiet_sendData ..).trans hoff
    · exact hoff
  · dsimp only
    split
    · exact (quiet_of_ifl (by rw [settle_ifl, sealRecord_ifl])).trans hoff
    · exact (quiet_of_ifl (settle_ifl ..)).trans hoff

theorem quiet_unitLost : quiet (unitLost n s) = quiet s := each_same quiet _ _ (fun _ _ => quiet_endLost ..) s

/-! ### Relays that end -/

/-- What sending frames and ending relays leave of the IFL block. -/
def unrelayed (s : State) : Ifl := { quiet s with relays := [] }

theorem unrelayed_of_quiet (h : quiet t = quiet s) : unrelayed t = unrelayed s := by rw [unrelayed, unrelayed, h]

theorem unrelayed_purgeOp : unrelayed (purgeOp r s) = unrelayed s := by
  have hports : (purgeOp r s).ifl.ports.map quietPort = s.ifl.ports.map quietPort := by
    unfold purgeOp modIfl
    rw [List.map_map]
    rfl
  unfold unrelayed quiet
  rw [hports]
  rfl

theorem unrelayed_endRelay (x : Relay) (i j : Nat) : unrelayed (endRelay x n i j s) = unrelayed s := by
  have hpurge : unrelayed (purgeOp x.op (modIfl (fun b => { b with relays := b.relays.filter (fun y => y.op != x.op) }) s)) = unrelayed s :=
    unrelayed_purgeOp _
  unfold endRelay
  dsimp only
  split <;> exact (unrelayed_of_quiet (quiet_of_ifl (settle_ifl ..))).trans hpurge

theorem unrelayed_endRelays : unrelayed (endRelays ps n s) = unrelayed s := each_same unrelayed _ _ (fun _ _ => unrelayed_endRelay ..) s

end

/-- What freeing nodes leaves of the IFL block. -/
def steady (s : State) : Ifl := { unrelayed s with nodes := [], freed := [], linkEv := 0 }

theorem steady_of_unrelayed (h : unrelayed t = unrelayed s) : steady t = steady s := by rw [steady, steady, h]

theorem ports_of_steady (h : steady t = steady s) : (quiet t).ports = (quiet s).ports :=
  (congrArg Ifl.ports h : (steady t).ports = (steady s).ports)

theorem ports_of_unrelayed (h : unrelayed t = unrelayed s) : (quiet t).ports = (quiet s).ports :=
  (congrArg Ifl.ports h : (unrelayed t).ports = (unrelayed s).ports)

theorem nodes_of_unrelayed (h : unrelayed t = unrelayed s) : t.ifl.nodes = s.ifl.nodes :=
  (congrArg Ifl.nodes h : (unrelayed t).nodes = (unrelayed s).nodes)

theorem linkEv_of_unrelayed (h : unrelayed t = unrelayed s) : t.ifl.linkEv = s.ifl.linkEv :=
  (congrArg Ifl.linkEv h : (unrelayed t).linkEv = (unrelayed s).linkEv)

/-! ### Nodes that leave and nodes that join -/

theorem nodeAt_modNode_same (g : Node → Node) : nodeAt (modNode pos g s) pos = (nodeAt s pos).map g := tabFind_map_at s.ifl.nodes pos g

/-- A node of the chain is freed, with what ran for it (R406, R412). -/
def freeNode (cause p : Nat) (t : State) : State :=
  match nodeAt t p with
  | none => t
  | some n =>
    let t := dropTransfers p (unitLost p t)
    let t := onlyIf n.joined (fun u => linkEvent 1 (logPart { kind := 0x0D, unit := p, cause := cause, cplId := n.cpl } u)) t
    modDir (fun d => { d with nodes := tabErase d.nodes p })
      (modIfl (fun b => { b with nodes := tabErase b.nodes p, freed := freedBy (monoUs t) n p b.freed }) t)

theorem freeNodes_eq (top cause detail : Nat) :
    freeNodes top cause detail s = each (subtree s top) (freeNode cause) (endRelays (subtree s top) detail s) := rfl

/-- A node freed is gone from the table; the ports stand. -/
theorem freeNode_leaves (cause p : Nat) : steady (freeNode cause p s) = steady s ∧
    ∀ j, nodeAt (freeNode cause p s) j = if j = p then none else nodeAt s j := by
  have hlost : quiet (dropTransfers p (unitLost p s)) = quiet s := (quiet_of_ifl (dropTransfers_ifl ..)).trans (quiet_unitLost p)
  unfold freeNode
  split
  · next hn =>
    refine ⟨rfl, fun j => ?_⟩
    split
    · next hj => rw [hj, hn]
    · rfl
  · next n _ =>
    dsimp only
    have hlog : ∀ b : Bool, steady (onlyIf b (fun u => linkEvent 1 (logPart { kind := 0x0D, unit := p, cause := cause, cplId := n.cpl } u))
        (dropTransfers p (unitLost p s))) = steady s ∧
        (onlyIf b (fun u => linkEvent 1 (logPart { kind := 0x0D, unit := p, cause := cause, cplId := n.cpl } u))
        (dropTransfers p (unitLost p s))).ifl.nodes = s.ifl.nodes := by
      intro b
      have hnodes : (dropTransfers p (unitLost p s)).ifl.nodes = s.ifl.nodes := (congrArg Ifl.nodes hlost : (quiet _).nodes = (quiet s).nodes)
      have hsteady := steady_of_unrelayed (unrelayed_of_quiet hlost)
      cases b with
      | false => exact ⟨hsteady, hnodes⟩
      | true =>
        have hl := quiet_of_ifl (logPart_ifl (s := dropTransfers p (unitLost p s)) { kind := 0x0D, unit := p, cause := cause, cplId := n.cpl })
        exact ⟨(steady_of_unrelayed (unrelayed_of_quiet hl)).trans hsteady, (congrArg Ifl.nodes hl : (quiet _).nodes = (quiet _).nodes).trans hnodes⟩
    obtain ⟨hsteady, hnodes⟩ := hlog n.joined
    refine ⟨hsteady, fun j => ?_⟩
    exact (tabFind_tabErase _ p j).trans (by rw [hnodes]; rfl)

theorem each_freeNode_leaves (cause : Nat) (l : List Nat) : steady (each l (freeNode cause) s) = steady s ∧
    ∀ j, nodeAt (each l (freeNode cause) s) j = if j ∈ l then none else nodeAt s j := by
  induction l generalizing s with
  | nil => exact ⟨rfl, fun j => by simp [each]⟩
  | cons a l ih =>
    obtain ⟨hsteady, hnodes⟩ := freeNode_leaves (s := s) cause a
    obtain ⟨hsteady', hnodes'⟩ := ih (s := freeNode cause a s)
    refine ⟨hsteady'.trans hsteady, fun j => (hnodes' j).trans ?_⟩
    rw [hnodes j]
    by_cases hj : j = a
    · simp [hj]
    · simp [hj]

theorem steady_freeNodes (top cause detail : Nat) : steady (freeNodes top cause detail s) = steady s := by
  rw [freeNodes_eq]
  exact (each_freeNode_leaves cause _).1.trans (steady_of_unrelayed (unrelayed_endRelays _))

theorem quiet_freeNodes_ports (top cause detail : Nat) : (quiet (freeNodes top cause detail s)).ports = (quiet s).ports :=
  ports_of_steady (steady_freeNodes top cause detail)

theorem tabFind_of_not_mem {α : Type} (x : Tab α) (h : pos ∉ x.map (·.1)) : tabFind x pos = none := by
  induction x with
  | nil => rfl
  | cons e x ih =>
    obtain ⟨i, n⟩ := e
    rw [List.map_cons, List.mem_cons, not_or] at h
    rw [tabFind, if_neg (Ne.symm h.1), ih h.2]

theorem nodeAt_freeNodes (top cause detail : Nat) : nodeAt (freeNodes top cause detail s) top = none := by
  rw [freeNodes_eq, (each_freeNode_leaves cause _).2 top]
  split
  · rfl
  · next hmem =>
    rw [nodeAt_of_nodes (nodes_of_unrelayed (unrelayed_endRelays _))]
    refine tabFind_of_not_mem _ fun hin => hmem (List.mem_filter.mpr ⟨hin, ?_⟩)
    rw [behind, beq_self_eq_true, Bool.true_or]

/-- A node that joins is joined, reached again, and reported (R411). -/
theorem quiet_nodeJoined {n : Node} (h : nodeAt s pos = some n) :
    quiet (nodeJoined pos s) = quiet (linkEvent 0 (modNode pos (fun x => { x with joined := true, adrift := false }) s)) := by
  unfold nodeJoined
  rw [h]
  dsimp only
  rw [quiet_resendSched, quiet_sendDirState]
  have hprof : ∀ (b : Bool) (u : State), quiet (onlyIf b (sendTo pos 0x07 [0x01] none) u) = quiet u := by
    intro b u
    cases b with
    | false => rfl
    | true => exact quiet_sendTo ..
  rw [hprof]
  exact congrArg (fun x : Ifl => { x with linkEv := setBits x.linkEv 0 }) (quiet_of_ifl (logPart_ifl ..))

end Sys2Proof.Machine

/-! Coupling (O19). -/

namespace Sys2Proof.Machine

variable {s t u v : State} {p q pos : Nat} {b : Bytes}

/-! ### Frames received in order -/

/-- The state in which the next frame in order on port `p` is delivered: it has been acknowledged. -/
def acked (p : Nat) (s : State) : State :=
  sendAckFor p { getPort s p with rxNext := nextMissing (getPort s p).held 8 (nextSeq (getPort s p).rxNext) } false
    (modPort p (fun x => { x with rxNext := nextSeq x.rxNext }) s)

@[simp] theorem acked_pwr : (acked p s).pwr = s.pwr := by rw [acked, sendAckFor_pwr, modPort_pwr]
@[simp] theorem acked_sys : (acked p s).sys = s.sys := by rw [acked, sendAckFor_sys, modPort_sys]
@[simp] theorem acked_sec : (acked p s).sec = s.sec := by rw [acked, sendAckFor_sec, modPort_sec]

theorem quiet_acked : quiet (acked p s) = quiet (modPort p (fun x => { x with rxNext := nextSeq x.rxNext }) s) := quiet_sendAckFor ..

theorem monoUs_acked : monoUs (acked p s) = monoUs s :=
  ((sendAckFor_frame (.refl _ _) (within_refl _) _ _ _).monoUs_eq rfl rfl rfl).trans
    ((modPort_frame (.refl _ _) (within_refl _) _ _).monoUs_eq rfl rfl rfl)

theorem quietPort_acked (hp : p < s.ifl.ports.length) :
    quietPort (getPort (acked p s) p) = quietPort { getPort s p with rxNext := nextSeq (getPort s p).rxNext } := by
  rw [port_of_quiet (congrArg Ifl.ports quiet_acked), getPort_modPort hp]

theorem nodes_acked : (acked p s).ifl.nodes = s.ifl.nodes :=
  (congrArg Ifl.nodes quiet_acked : (quiet (acked p s)).nodes = (quiet (modPort p (fun x => { x with rxNext := nextSeq x.rxNext }) s)).nodes)

theorem linkEv_acked : (acked p s).ifl.linkEv = s.ifl.linkEv :=
  (congrArg Ifl.linkEv quiet_acked : (quiet (acked p s)).linkEv = (quiet (modPort p (fun x => { x with rxNext := nextSeq x.rxNext }) s)).linkEv)

/-- A frame in order with nothing held behind it is delivered, once it is acknowledged (R418). -/
theorem recvSeq_of_inOrder {ty : Nat} {p : Fin 4} (h : InOrder ty p b s)
    (hheld : (getPort (deliverHere p (linkHead b) (acked p s)) p).held = []) :
    recvSeq ty p b s = deliverHere p (linkHead b) (acked p s) := by
  have hdist : seqDist (getPort s p).rxNext (linkHead b).hseq = 0 := by
    rw [h.next, seqDist]
    omega
  have hroom : noRoom s (linkHead b) = false := by rw [noRoom, h.here, bne_self_eq_false, Bool.false_and]
  have hhere : (linkHead b).final = ownPos (acked p s) := by
    have hq : ownPos (acked p s) = ownPos s := by
      have hown : (acked p s).ifl.ownPos = s.ifl.ownPos := (congrArg Ifl.ownPos quiet_acked : (quiet (acked p s)).ownPos = _)
      rw [ownPos, ownPos, acked_sys, hown]
    rw [h.here, hq]
  have hcond : (frameFits ty b && hears s p && isCoupled (getPort s p).link && (linkHead b).cpl == (getPort s p).cpl && (linkHead b).hseq != 0) = true := by
    rw [h.fits, h.heard, h.coupled, h.cpl, beq_self_eq_true, bne_iff_ne.mpr h.numbered]
    rfl
  unfold recvSeq
  dsimp only
  rw [if_pos hcond, hdist, h.held, hroom, if_neg (by simp), if_neg Bool.false_ne_true, if_pos rfl]
  have hdel : deliver p b (acked p s) = deliverHere p (linkHead b) (acked p s) := by
    unfold deliver
    exact if_pos hhere
  rw [← h.held]
  change drainHeld 8 p (deliver p b (acked p s)) = _
  rw [hdel]
  unfold drainHeld
  dsimp only
  rw [hheld]
  rfl

/-- What receiving it does, where its delivery leaves the port its link. -/
theorem recvSeq_does {ty : Nat} {p : Fin 4} (h : InOrder ty p b s)
    (hq : (getPort (deliverHere p (linkHead b) (acked p s)) p).held = (getPort (acked p s) p).held ∧
      (getPort (deliverHere p (linkHead b) (acked p s)) p).rxNext = (getPort (acked p s) p).rxNext) :
    recvSeq ty p b s = deliverHere p (linkHead b) (acked p s) ∧
    (getPort (deliverHere p (linkHead b) (acked p s)) p).rxNext = nextSeq (getPort s p).rxNext := by
  obtain ⟨hheld, hnext⟩ := hq
  have hack := quietPort_acked (h.shape.ports p)
  have hheld' : (getPort (acked p s) p).held = (getPort s p).held := (congrArg Port.held hack :)
  have hnext' : (getPort (acked p s) p).rxNext = nextSeq (getPort s p).rxNext := (congrArg Port.rxNext hack :)
  exact ⟨recvSeq_of_inOrder h (hheld.trans (hheld'.trans h.held)), hnext.trans hnext'⟩

theorem recvSeq_does_of_ports {ty : Nat} {p : Fin 4} (h : InOrder ty p b s)
    (hq : (quiet (deliverHere p (linkHead b) (acked p s))).ports = (quiet (acked p s)).ports) :
    recvSeq ty p b s = deliverHere p (linkHead b) (acked p s) ∧
    (getPort (deliverHere p (linkHead b) (acked p s)) p).rxNext = nextSeq (getPort s p).rxNext :=
  recvSeq_does h ⟨(congrArg Port.held (port_of_quiet hq p) :), (congrArg Port.rxNext (port_of_quiet hq p) :)⟩

/-- The type of a frame that fits. -/
theorem ltype_of_inOrder {ty : Nat} {p : Fin 4} (h : InOrder ty p b s) : (linkHead b).ltype = ty := by
  have hfit := h.fits
  unfold frameFits at hfit
  simp only [Bool.and_eq_true, beq_iff_eq] at hfit
  exact hfit.1.1.2

theorem execJoined_does {p : Fin 4} {n : Node} (h : InOrder 5 p b s) (htr : s.sys.trailer = false)
    (hn : nodeAt s (byteAt (linkHead b).body 0) = some n) : ∃ t m, exec (.joined p b) s = .next t ∧
    (getPort t p).rxNext = nextSeq (getPort s p).rxNext ∧ nodeAt t (byteAt (linkHead b).body 0) = some m ∧ m.joined = true ∧
    m.adrift = false ∧ m.flood = n.flood ∧ t.ifl.linkEv = setBits s.ifl.linkEv 0 := by
  have hdel : deliverHere p (linkHead b) (acked p s) = nodeJoined (byteAt (linkHead b).body 0) (acked p s) := by
    unfold deliverHere
    rw [ltype_of_inOrder h, acked_sys, htr]
    rfl
  have hn' : nodeAt (acked p s) (byteAt (linkHead b).body 0) = some n := by rw [nodeAt_of_nodes nodes_acked, hn]
  have hq := quiet_nodeJoined hn'
  obtain ⟨hrecv, hnext⟩ := recvSeq_does_of_ports h (by rw [hdel]; exact (congrArg Ifl.ports hq : (quiet _).ports = _))
  refine ⟨_, { n with joined := true, adrift := false }, congrArg Host.Outcome.next (hrecv.trans hdel), hdel ▸ hnext, ?_, rfl, rfl, rfl, ?_⟩
  · exact (nodeAt_of_quiet hq _).trans ((nodeAt_modNode_same (s := acked p s)
      (fun x => { x with joined := true, adrift := false })).trans (congrArg (Option.map _) hn'))
  · refine (congrArg Ifl.linkEv hq : (quiet _).linkEv = (quiet _).linkEv).trans ?_
    exact congrArg (fun x => setBits x 0) linkEv_acked

theorem execDecoupled_does {p : Fin 4} {n : Node} (h : InOrder 6 p b s) (htr : s.sys.trailer = false)
    (_hn : nodeAt s (byteAt (linkHead b).body 0) = some n) : ∃ t, exec (.decoupled p b) s = .next t ∧
    (getPort t p).rxNext = nextSeq (getPort s p).rxNext ∧ nodeAt t (byteAt (linkHead b).body 0) = none := by
  have hdel : deliverHere p (linkHead b) (acked p s) =
      freeNodes (byteAt (linkHead b).body 0) (byteAt (linkHead b).body 1) 0x22 (acked p s) := by
    unfold deliverHere
    rw [ltype_of_inOrder h, acked_sys, htr]
    rfl
  obtain ⟨hrecv, hnext⟩ := recvSeq_does_of_ports h (by rw [hdel]; exact quiet_freeNodes_ports ..)
  exact ⟨_, congrArg Host.Outcome.next (hrecv.trans hdel), hdel ▸ hnext, nodeAt_freeNodes ..⟩

theorem onwardReport_leaves (b : Bytes) : (quiet (onwardReport b s)).ports = (quiet s).ports ∧
    (onwardReport b s).ifl.linkEv = setBits s.ifl.linkEv 5 := by
  have hlost : ∀ (l : List Nat) (t : State), quiet (each l unitLost t) = quiet t := fun l => each_same quiet l _ fun _ _ => quiet_unitLost _
  have hun := (unrelayed_of_quiet (hlost (subtree s (byteAt b 0)) _)).trans (unrelayed_endRelays (ps := subtree s (byteAt b 0))
    (s := modNode (byteAt b 0) (fun n => { n with adrift := true })
      (linkEvent 5 (logPart { kind := 0x0E, unit := byteAt b 0, count := beAt b 1 2 } s))) 0x24)
  refine ⟨(ports_of_unrelayed hun).trans ?_, (linkEv_of_unrelayed hun).trans ?_⟩
  · exact (congrArg Ifl.ports (quiet_of_ifl (logPart_ifl (s := s) { kind := 0x0E, unit := byteAt b 0, count := beAt b 1 2 })) :
      (quiet (logPart _ s)).ports = (quiet s).ports)
  · exact congrArg (fun x : Ifl => setBits x.linkEv 5) (logPart_ifl (s := s) _)

theorem execOnwardLost_does {p : Fin 4} (h : InOrder 10 p b s) (htr : s.sys.trailer = false) : ∃ t, exec (.onwardLost p b) s = .next t ∧
    (getPort t p).rxNext = nextSeq (getPort s p).rxNext ∧ t.ifl.linkEv = setBits s.ifl.linkEv 5 := by
  have hdel : deliverHere p (linkHead b) (acked p s) = onwardReport (linkHead b).body (acked p s) := by
    unfold deliverHere
    rw [ltype_of_inOrder h, acked_sys, htr]
    rfl
  obtain ⟨hports, hev⟩ := onwardReport_leaves (s := acked p s) (linkHead b).body
  obtain ⟨hrecv, hnext⟩ := recvSeq_does_of_ports h (by rw [hdel]; exact hports)
  exact ⟨_, congrArg Host.Outcome.next (hrecv.trans hdel), hdel ▸ hnext, hev.trans (congrArg (fun x => setBits x 5) linkEv_acked)⟩

/-! ### A position is given -/

theorem readied_modPort_sec (f : Port → Port) : (readied (modPort p f s)).sec = (readied s).sec := by
  unfold readied
  cases h : reseedDue s && canReseed s with
  | true => rw [show (reseedDue (modPort p f s) && canReseed (modPort p f s)) = true from h]; rfl
  | false => rw [show (reseedDue (modPort p f s) && canReseed (modPort p f s)) = false from h]; rfl

theorem freshCpl_modPort (f : Port → Port) (old : Nat) : freshCpl old (modPort p f s) = freshCpl old s := by
  have hr : random (modPort p f s) 4 = random s 4 := by
    unfold random
    rw [readied_modPort_sec]
    rfl
  rw [freshCpl, freshCpl, hr]

/-- The node that a ROLL or a JOIN makes at a position of its own (R406, R411). -/
def newNode (roll : Bytes) (parent pport p : Nat) (s : State) : Node :=
  { uid := headUid roll, parent := parent, parentPort := pport, tport := p, kind := byteAt roll 16, readers := byteAt roll 17, lf := byteAt roll 18
    cpl := freshCpl (lastCpl (headUid roll) s) s }

/-- What a given position leaves of a port. -/
def unassigned (x : Port) : Port := { quietPort x with assign := none }

theorem unassigned_of_quiet (h : quiet t = quiet s) (q : Nat) : unassigned (getPort t q) = unassigned (getPort s q) :=
  congrArg (fun x : Port => { x with assign := none }) (port_of_quiet (congrArg Ifl.ports h) q)

theorem unassigned_modPort {f : Port → Port} (hf : ∀ x, unassigned (f x) = unassigned x) : unassigned (getPort (modPort p f s) q) = unassigned (getPort s q) := by
  have hnth : getPort (modPort p f s) q = if p = q ∧ q < s.ifl.ports.length then f (getPort s q) else getPort s q := nth_modAt _ _ _
  rw [hnth]
  split
  · exact hf _
  · rfl

theorem port_of_unassigned {x y : Port} (h : unassigned x = unassigned y) :
    x.link = y.link ∧ x.joinAt = y.joinAt ∧ x.held = y.held ∧ x.rxNext = y.rxNext :=
  ⟨(congrArg Port.link h :), (congrArg Port.joinAt h :), (congrArg Port.held h :), (congrArg Port.rxNext h :)⟩

theorem unassigned_sendAssign : unassigned (getPort (sendAssign p b s) q) = unassigned (getPort s q) := by
  unfold sendAssign
  exact (unassigned_of_quiet (quiet_sendPlain ..) q).trans (unassigned_modPort fun _ => rfl)

/-- A node that finds a position is entered there (R406, R411). -/
theorem assignNode_gives {roll : Bytes} {parent pport : Nat} (hpos : choosePos (headUid roll) s = some pos)
    (hfree : s.ifl.nodes.all (fun e => e.2.parent != pos) = true) (hdraw : canDraw s = true) :
    nodeAt (assignNode roll parent pport p s) pos = some (newNode roll parent pport p s) ∧
    ∀ q, unassigned (getPort (assignNode roll parent pport p s) q) = unassigned (getPort s q) := by
  have hnone : s.ifl.nodes.filter (fun e => e.2.parent == pos && e.1 != pos) = [] := by
    rw [List.filter_eq_nil_iff]
    intro e he
    have hne := List.all_eq_true.mp hfree e he
    simp only [bne_iff_ne, ne_eq] at hne
    simp [hne]
  have hassign : assignNode roll parent pport p s =
      (fun u : State => if parent = 0 then sendAssign p (assignBody (headUid roll) pos (newNode roll parent pport p s).cpl) u
        else sendTo parent 4 (assignBody (headUid roll) pos (newNode roll parent pport p s).cpl) none u)
      (modIfl (fun b => { b with nodes := tabPut b.nodes pos (newNode roll parent pport p s) }) (drew .lanes 4 s)) := by
    unfold assignNode
    dsimp only
    rw [hpos]
    dsimp only
    rw [if_pos hdraw, hnone]
    rfl
  have hnode : nodeAt (modIfl (fun b => { b with nodes := tabPut b.nodes pos (newNode roll parent pport p s) }) (drew .lanes 4 s)) pos =
      some (newNode roll parent pport p s) := tabFind_tabPut_same _ _ _
  have hport : ∀ q, getPort (modIfl (fun b => { b with nodes := tabPut b.nodes pos (newNode roll parent pport p s) }) (drew .lanes 4 s)) q =
      getPort s q := fun q => getPort_of_ifl (t := drew .lanes 4 s) (drew_ifl ..)
  rw [hassign]
  generalize modIfl (fun b => { b with nodes := tabPut b.nodes pos (newNode roll parent pport p s) }) (drew .lanes 4 s) = u at hnode hport
  dsimp only
  split
  · exact ⟨(nodeAt_of_quiet (quiet_sendPlain ..) pos).trans hnode, fun q =>
      unassigned_sendAssign.trans (congrArg unassigned (hport q))⟩
  · exact ⟨(nodeAt_of_quiet (quiet_sendTo ..) pos).trans hnode, fun q =>
      (unassigned_of_quiet (quiet_sendTo ..) q).trans (congrArg unassigned (hport q))⟩

theorem choosePos_congr (h : t.ifl.nodes = s.ifl.nodes) (hf : t.ifl.freed = s.ifl.freed) (hm : monoUs t = monoUs s) (uid : Nat) :
    choosePos uid t = choosePos uid s := by
  simp only [choosePos, nodeAt, h, hf, hm]

theorem execJoin_does {p : Fin 4} (h : InOrder 3 p b s) (htr : s.sys.trailer = false) (hmode : linkMode s = true)
    (hpos : choosePos (headUid (slice (linkHead b).body 0 22)) s = some pos) (hfree : s.ifl.nodes.all (fun e => e.2.parent != pos) = true)
    (hdraw : canDraw s = true) : ∃ t n, exec (.join p b) s = .next t ∧ (getPort t p).rxNext = nextSeq (getPort s p).rxNext ∧
    nodeAt t pos = some n ∧ n.uid = headUid (slice (linkHead b).body 0 22) ∧ n.parent = byteAt (linkHead b).body 22 ∧
    n.tport = p ∧ n.joined = false := by
  have hmode' : linkMode (acked p s) = true := by
    rw [linkMode, acked_sys, acked_pwr]
    exact hmode
  have hdel : deliverHere p (linkHead b) (acked p s) =
      assignNode (slice (linkHead b).body 0 22) (byteAt (linkHead b).body 22) (byteAt (linkHead b).body 23) p (acked p s) := by
    unfold deliverHere
    rw [ltype_of_inOrder h, acked_sys, htr, hmode']
    rfl
  have hfreed : (acked p s).ifl.freed = s.ifl.freed := (congrArg Ifl.freed quiet_acked : (quiet (acked p s)).freed = _)
  obtain ⟨hnode, hports⟩ := assignNode_gives (s := acked p s) (p := p) (parent := byteAt (linkHead b).body 22) (pport := byteAt (linkHead b).body 23)
    ((choosePos_congr nodes_acked hfreed monoUs_acked _).trans hpos) (by rw [nodes_acked]; exact hfree)
    ((canDraw_congr acked_pwr acked_sec monoUs_acked).trans hdraw)
  obtain ⟨hrecv, hnext⟩ := recvSeq_does h (by
    rw [hdel]
    exact (port_of_unassigned (hports p)).2.2)
  exact ⟨_, _, congrArg Host.Outcome.next (hrecv.trans hdel), hdel ▸ hnext, hnode, rfl, rfl, rfl, rfl⟩

theorem execRoll_discovers {p : Fin 4} (hs : Shaped s) (hfit : frameFits 2 b = true) (hhears : hears s p = true) (hmode : linkMode s = true)
    (htr : s.sys.trailer = false) (hlink : (getPort s p).link = .down) (hcpl : (linkHead b).cpl = 0)
    (hpos : choosePos (headUid (linkHead b).body) s = some pos) (hfree : s.ifl.nodes.all (fun e => e.2.parent != pos) = true)
    (hdraw : canDraw s = true) : ∃ t n, exec (.roll p 0xE b) s = .next t ∧
    (getPort t p).link = .joining ∧ (getPort t p).joinAt = some (monoUs s) ∧ nodeAt t pos = some n ∧
    n.uid = headUid (linkHead b).body ∧ n.parent = 0 ∧ n.tport = p ∧ n.joined = false ∧
    n.cpl = freshCpl (lastCpl n.uid s) s := by
  let u := modPort p (fun x => { x with roll := (linkHead b).body, joinAt := some (monoUs s) })
    (modPort p (fun x => { x with link := .joining, rolled := true, missed := 0, assign := none }) s)
  have hup : upstream s p = false := by rw [upstream, htr]; rfl
  have hown : ownPos s = 0 := by rw [ownPos, htr]; rfl
  obtain ⟨hnode, hports⟩ := assignNode_gives (s := u) (p := p) (parent := 0) (pport := p) hpos hfree hdraw
  obtain ⟨hl, hj, -, -⟩ := port_of_unassigned (hports p)
  have hport : getPort u p = { getPort s p with
      link := .joining, rolled := true, missed := 0, assign := none, roll := (linkHead b).body, joinAt := some (monoUs s) } := by
    rw [getPort_modPort (by rw [length_ports_modPort]; exact hs.ports p), getPort_modPort (hs.ports p)]
  rw [hport] at hl hj
  refine ⟨assignNode (linkHead b).body 0 p p u, _, congrArg Host.Outcome.next ?_, hl, hj, hnode, rfl, rfl, rfl, rfl,
    (freshCpl_modPort _ _).trans (freshCpl_modPort _ _)⟩
  dsimp only
  rw [hfit, hhears, hmode, hup, hown]
  refine (if_pos rfl).trans ?_
  rw [hlink]
  dsimp only
  rw [if_pos ⟨rfl, hcpl⟩]
  unfold sendJoin
  rw [if_neg (by rw [modPort_sys, modPort_sys, htr]; exact Bool.false_ne_true)]
  rfl

/-- The segment's node has answered with its position (R411 step 4). -/
theorem coupled_does {y : QFrame} {n : Node} (hp : p < s.ifl.ports.length) (htr : s.sys.trailer = false) (hn : nodeAt s (byteAt y.body 16) = some n) :
    nodeAt (coupled p y s) (byteAt y.body 16) = some { n with joined := true, adrift := false } ∧
    (getPort (coupled p y s) p).link = .coupledT ∧ (getPort (coupled p y s) p).pos = byteAt y.body 16 ∧
    (getPort (coupled p y s) p).cpl = beAt y.body 20 4 ∧ (getPort (coupled p y s) p).assign = none := by
  unfold coupled
  extract_lets pos u
  rw [if_neg (by rw [modPort_sys, htr]; exact Bool.false_ne_true)]
  have hnu : nodeAt u pos = some n := hn
  have hport : getPort u p = _ := getPort_modPort hp
  have hq := quiet_nodeJoined hnu
  refine ⟨(nodeAt_of_quiet hq _).trans ((nodeAt_modNode_same (s := u) (fun x => { x with joined := true, adrift := false })).trans
    (congrArg (Option.map _) hnu)), ?_⟩
  have hfin := port_of_quiet (congrArg Ifl.ports hq) p
  have hsame : getPort (linkEvent 0 (modNode pos (fun x => { x with joined := true, adrift := false }) u)) p = getPort u p := rfl
  rw [hsame, hport] at hfin
  generalize getPort (nodeJoined pos u) p = x at hfin
  exact ⟨(congrArg Port.link hfin :), (congrArg Port.pos hfin :), (congrArg Port.cpl hfin :), (congrArg Port.assign hfin :)⟩

theorem execRoll_couples {p : Fin 4} {src : Fin 16} {y : QFrame} {n : Node} (hs : Shaped s) (hfit : frameFits 2 b = true) (hhears : hears s p = true)
    (hmode : linkMode s = true) (htr : s.sys.trailer = false) (hlink : (getPort s p).link = .joining) (hy : (getPort s p).assign = some y)
    (hsrc : src.val = byteAt y.body 16) (huid : headUid (linkHead b).body = headUid y.body) (hcpl : (linkHead b).cpl = 0)
    (hn : nodeAt s (byteAt y.body 16) = some n) :
    ∃ t m, exec (.roll p src b) s = .next t ∧ nodeAt t (byteAt y.body 16) = some m ∧ m.joined = true ∧ (getPort t p).link = .coupledT ∧
    (getPort t p).pos = byteAt y.body 16 ∧ (getPort t p).cpl = beAt y.body 20 4 ∧ (getPort t p).assign = none := by
  have hup : upstream s p = false := by rw [upstream, htr]; rfl
  have hown : ownPos s = 0 := by rw [ownPos, htr]; rfl
  have hexec : exec (.roll p src b) s = .next (coupled p y (modPort p (fun x => { x with rolled := true, missed := 0 }) s)) := by
    refine congrArg Host.Outcome.next ?_
    dsimp only
    rw [hfit, hhears, hmode, hup, hown]
    refine (if_pos rfl).trans ?_
    rw [hlink, hy, hcpl]
    exact if_pos ⟨hsrc, huid, .inl rfl⟩
  refine ⟨_, { n with joined := true, adrift := false }, hexec, ?_⟩
  obtain ⟨hnode, hport⟩ := coupled_does (p := p) (y := y) (s := modPort p (fun x => { x with rolled := true, missed := 0 }) s)
    (by rw [length_ports_modPort]; exact hs.ports p) htr hn
  exact ⟨hnode, rfl, hport⟩

/-! ### BEACONs -/

/-- A BEACON goes out, and the ASSIGN of a port that still has one (R410, R411). -/
def beaconSent (p : Nat) (s : State) : State :=
  let s := modPort p (fun x => { x with rolled := false, beaconAt := some (monoUs s), beaconSeq := (x.beaconSeq + 1) % 65536 }) s
  let pt := getPort s p
  let q : QFrame := { ltype := 1, final := 0xF, orig := ownPos s,
                      body := le 1 (ownPos s) ++ le 1 (ofBool (pt.link == .coupledF)) ++ be 2 pt.beaconSeq }
  let s := sendPlain p q 0xF pt.cpl (pt.link == .coupledF) s
  let s := modPort p (fun x => { x with rollBy := x.airEnd / 1000 + 2000 }) s
  match pt.assign with
  | some a => sendPlain p a 0xF 0 false s
  | none => s

/-- What a BEACON changes of its port, but for what sending does. -/
theorem beaconSent_port (hp : p < s.ifl.ports.length) : ∃ n, quietPort (getPort (beaconSent p s) p) =
    quietPort { getPort s p with
      rolled := false, beaconAt := some (monoUs s), beaconSeq := ((getPort s p).beaconSeq + 1) % 65536, rollBy := n } := by
  unfold beaconSent
  extract_lets u pt y v w
  have hu : getPort u p = _ := getPort_modPort hp
  have hlen : v.ifl.ports.length = u.ifl.ports.length := ports_of_quiet (congrArg Ifl.ports (quiet_sendPlain ..))
  have hlenu : u.ifl.ports.length = s.ifl.ports.length := length_ports_modPort
  have hv : quietPort (getPort v p) = quietPort (getPort u p) := port_of_quiet (congrArg Ifl.ports (quiet_sendPlain ..)) p
  have hw : getPort w p = { getPort v p with rollBy := (getPort v p).airEnd / 1000 + 2000 } := getPort_modPort (by rw [hlen, hlenu]; exact hp)
  have hport : quietPort (getPort w p) = quietPort { getPort s p with
      rolled := false, beaconAt := some (monoUs s), beaconSeq := ((getPort s p).beaconSeq + 1) % 65536, rollBy := (getPort v p).airEnd / 1000 + 2000 } := by
    rw [hw]
    rw [hu] at hv
    exact (congrArg (fun x : Port => { x with rollBy := (getPort v p).airEnd / 1000 + 2000 }) hv :)
  refine ⟨_, Eq.trans ?_ hport⟩
  split
  · exact port_of_quiet (congrArg Ifl.ports (quiet_sendPlain ..)) p
  · rfl

theorem monoUs_modPort (f : Port → Port) : monoUs (modPort p f s) = monoUs s := (modPort_frame (.refl _ _) (within_refl _) _ _).monoUs_eq rfl rfl rfl

theorem monoUs_sendPlain (y : QFrame) (i j : Nat) (c : Bool) : monoUs (sendPlain p y i j c s) = monoUs s :=
  (sendPlain_frame (.refl _ _) (within_refl _) _ _ _ _ _).monoUs_eq rfl rfl rfl

theorem monoUs_beaconSent : monoUs (beaconSent p s) = monoUs s := by
  unfold beaconSent
  extract_lets u pt y v w
  have hw : monoUs w = monoUs s := (monoUs_modPort _).trans ((monoUs_sendPlain ..).trans (monoUs_modPort _))
  split
  · exact (monoUs_sendPlain ..).trans hw
  · exact hw

theorem execBeacon_goes {p : Fin 4} {t0 : Nat} (hs : Shaped s) (hmode : linkMode s = true) (hline : lineUp s p = true) (hup : upstream s p = false)
    (hown : ownPos s ≤ 7) (hq : (getPort s p).link ≠ .quarantined) (hat : (getPort s p).beaconAt = some t0) (hroll : (getPort s p).rolled = true) :
    ∃ t, exec (.beacon p) s = .next t ∧ (getPort t p).missed = (getPort s p).missed ∧ (getPort t p).rolled = false ∧
    (getPort t p).beaconSeq = ((getPort s p).beaconSeq + 1) % 65536 ∧
    (getPort t p).beaconAt = some (monoUs t) ∧ t0 + 100000 ≤ monoUs t ∧ (getPort t p).link = (getPort s p).link := by
  have hsend : canSend s p = true := by
    rw [canSend, hline, hmode, bne_iff_ne.mpr hq]
    rfl
  have hmiss : rollMissed p s = s := by
    unfold rollMissed
    dsimp only
    rw [hroll, Bool.not_true, Bool.and_false]
    rfl
  have hexec : exec (.beacon p) s = .next (beaconSent p (elapseTo (t0 + 100000) s)) := by
    refine congrArg Host.Outcome.next ?_
    rw [hmode, hsend, hup, decide_eq_true hown]
    refine (if_pos rfl).trans ?_
    rw [hat, hmiss]
    rfl
  have hifl : (elapseTo (t0 + 100000) s).ifl = s.ifl := elapseTo_ifl _
  obtain ⟨n, hport⟩ := beaconSent_port (p := p) (s := elapseTo (t0 + 100000) s) (by rw [hifl]; exact hs.ports p)
  rw [getPort_of_ifl hifl] at hport
  have hmono := monoUs_beaconSent (p := p) (s := elapseTo (t0 + 100000) s)
  refine ⟨_, hexec, ?_⟩
  rw [hmono]
  have hle := le_monoUs_elapseTo (s := s) (t0 + 100000)
  generalize getPort (beaconSent p (elapseTo (t0 + 100000) s)) p = x at hport
  exact ⟨(congrArg Port.missed hport :), (congrArg Port.rolled hport :), (congrArg Port.beaconSeq hport :), (congrArg Port.beaconAt hport :), hle,
    (congrArg Port.link hport :)⟩

/-- A port that goes down has no link (R412). -/
theorem portDown_link (cause : Nat) (hp : p < s.ifl.ports.length) (hq : (getPort s p).link ≠ .quarantined) :
    (getPort (portDown p .down cause s) p).link = .down := by
  unfold portDown
  extract_lets pt frames u gone
  have hu : (getPort u p).link = .down := by
    have hport : getPort u p = _ := getPort_modPort hp
    rw [hport]
    exact if_neg hq
  have hkept : ∀ {v : State}, (quiet v).ports = (quiet u).ports → (getPort v p).link = .down := fun h => (congrArg Port.link (port_of_quiet h p) :).trans hu
  split
  · split
    · exact hu
    · exact hkept (Eq.trans (congrArg Ifl.ports ((quiet_onwardLost _).trans (quiet_sendTo ..))) rfl)
  · split
    · exact hu
    · exact hkept (quiet_freeNodes_ports ..)

theorem length_ports_portDown {st : LinkSt} (cause : Nat) : (portDown p st cause s).ifl.ports.length = s.ifl.ports.length := by
  unfold portDown
  extract_lets pt frames u gone
  have hu : u.ifl.ports.length = s.ifl.ports.length := length_ports_modPort
  split
  · split
    · exact hu
    · exact (ports_of_quiet (Eq.trans (congrArg Ifl.ports ((quiet_onwardLost _).trans (quiet_sendTo ..))) rfl)).trans hu
  · split
    · exact hu
    · exact (ports_of_quiet (quiet_freeNodes_ports ..)).trans hu

/-- Outside a supply step a coupled port that loses its neighbour goes down (R412). -/
theorem decouple_down (cause : Nat) (hcoup : isCoupled (getPort s p).link = true) (hstep : s.ifl.stepEnd = none) :
    decouple p cause s = portDown p .down cause s := by
  unfold decouple stepOpen
  rw [if_pos hcoup, hstep]
  rfl

theorem ne_quarantined_of_coupled {x : Port} (h : isCoupled x.link = true) : x.link ≠ .quarantined := by
  intro hx
  rw [hx] at h
  exact absurd h Bool.false_ne_true

theorem execBeacon_decouples {p : Fin 4} {t0 : Nat} (hs : Shaped s) (hmode : linkMode s = true) (hline : lineUp s p = true)
    (htr : s.sys.trailer = false) (hat : (getPort s p).beaconAt = some t0) (hroll : (getPort s p).rolled = false)
    (hmiss : (getPort s p).missed = 2) (hcoup : isCoupled (getPort s p).link = true) (hstep : s.ifl.stepEnd = none) :
    ∃ t, exec (.beacon p) s = .next t ∧ (getPort t p).link = .down := by
  have hsend : canSend s p = true := by
    rw [canSend, hline, hmode, bne_iff_ne.mpr (ne_quarantined_of_coupled hcoup)]
    rfl
  have hup : upstream s p = false := by rw [upstream, htr]; rfl
  have hown : ownPos s = 0 := by rw [ownPos, htr]; rfl
  let u := modPort p (fun x => { x with missed := x.missed + 1, rolled := true }) (elapseTo (getPort s p).rollBy s)
  have hifl : (elapseTo (getPort s p).rollBy s).ifl = s.ifl := elapseTo_ifl _
  have hplt : p.val < (elapseTo (getPort s p).rollBy s).ifl.ports.length := by rw [hifl]; exact hs.ports p
  have hlen : p.val < u.ifl.ports.length := by rw [length_ports_modPort]; exact hplt
  have hport : getPort u p = { getPort s p with missed := (getPort s p).missed + 1, rolled := true } := by
    rw [getPort_modPort hplt, getPort_of_ifl hifl]
  have hcoupu : isCoupled (getPort u p).link = true := by rw [hport]; exact hcoup
  have hstepu : u.ifl.stepEnd = none := (congrArg Ifl.stepEnd hifl).trans hstep
  have hmissed : rollMissed p s = portDown p .down 1 u := by
    unfold rollMissed
    dsimp only
    rw [hroll, hat]
    refine (if_pos rfl).trans ?_
    rw [hmiss, if_pos (by decide), if_neg]
    · exact decouple_down 1 hcoupu hstepu
    · intro hj
      rw [hj] at hcoup
      exact absurd hcoup Bool.false_ne_true
  have hexec : exec (.beacon p) s = .next (beaconSent p (elapseTo (t0 + 100000) (portDown p .down 1 u))) := by
    refine congrArg Host.Outcome.next ?_
    rw [hmode, hsend, hup, hown]
    refine (if_pos rfl).trans ?_
    rw [hat, hmissed]
    rfl
  refine ⟨_, hexec, ?_⟩
  have hdown := portDown_link 1 hlen (ne_quarantined_of_coupled hcoupu)
  have hlen' := (length_ports_portDown (st := .down) (p := p.val) (s := u) 1).symm ▸ hlen
  generalize portDown p .down 1 u = w at hdown hlen'
  have hifl' : (elapseTo (t0 + 100000) w).ifl = w.ifl := elapseTo_ifl _
  obtain ⟨n, hb⟩ := beaconSent_port (p := p) (s := elapseTo (t0 + 100000) w) (by rw [hifl']; exact hlen')
  rw [getPort_of_ifl hifl'] at hb
  exact (congrArg Port.link hb :).trans hdown

/-! ### The node side -/

theorem getPort_map (f : Port → Port) (hp : p < s.ifl.ports.length) (g : Ifl → Ifl) (hg : (g s.ifl).ports = s.ifl.ports.map f) :
    getPort (modIfl g s) p = f (getPort s p) := by
  change nth {} (g s.ifl).ports p = f (nth {} s.ifl.ports p)
  rw [hg]
  simp [nth, List.getD_eq_getElem?_getD, List.getElem?_map, List.getElem?_eq_getElem hp]

theorem cntTx_sendFrame (map tbl dst kind : Nat) (hp : p < s.ifl.ports.length) :
    (getPort (sendFrame p map tbl dst kind b s) p).cntTx = (getPort s p).cntTx + 1 := by
  unfold sendFrame
  extract_lets stop
  let u := modPort p (fun x => { x with cntTx := x.cntTx + 1, airEnd := stop, txEnd := stop }) (emit (lineOut s p map tbl dst kind b) s)
  have hu : getPort u p = { getPort s p with cntTx := (getPort s p).cntTx + 1, airEnd := stop, txEnd := stop } := getPort_modPort hp
  have hlen : p < u.ifl.ports.length := by rw [length_ports_modPort]; exact hp
  cases kind == 0 with
  | false => exact (congrArg Port.cntTx hu :)
  | true =>
    change (getPort (searchOn p stop u) p).cntTx = _
    unfold searchOn
    split
    · rw [getPort_modPort hlen]
      exact (congrArg Port.cntTx hu :)
    · exact (congrArg Port.cntTx hu :)

theorem execBeaconReceived_takes {p : Fin 4} (hs : Shaped s) (hfit : frameFits 1 b = true) (hhears : hears s p = true) (hup : upstream s p = true)
    (hcpl : (linkHead b).cpl = s.ifl.ownCpl) : ∃ t, exec (.beaconReceived p b) s = .next t ∧ t.ifl.ownPos = s.ifl.ownPos ∧
    t.ifl.masterAt = monoUs s ∧ t.ifl.winSync = true ∧ (getPort t p).beaconAt = some (monoUs s) ∧
    (canSend s p = true → (getPort t p).cntTx = (getPort s p).cntTx + 1) := by
  let u := modIfl (fun x => { x with
    winSync := true, masterAt := monoUs s
    ports := x.ports.map (fun x => { x with winAt := monoUs s - 400 }) }) s
  let v := modPort p (fun x => { x with missed := 0, rolled := true, beaconAt := some (monoUs s) }) u
  let w := modPort p (fun x => { x with beaconAt := some (monoUs s), parent := byteAt (linkHead b).body 0 % 16 }) v
  have hlen : p.val < u.ifl.ports.length := by
    have hl : u.ifl.ports.length = s.ifl.ports.length := List.length_map ..
    rw [hl]
    exact hs.ports p
  have hlenv : p.val < v.ifl.ports.length := by rw [length_ports_modPort]; exact hlen
  have hlenw : p.val < w.ifl.ports.length := by rw [length_ports_modPort]; exact hlenv
  have hport : getPort w p = { getPort s p with
      winAt := monoUs s - 400, missed := 0, rolled := true, beaconAt := some (monoUs s), parent := byteAt (linkHead b).body 0 % 16 } := by
    rw [getPort_modPort hlenv, getPort_modPort hlen, getPort_map (fun x => { x with winAt := monoUs s - 400 }) (hs.ports p) _ rfl]
  have hexec : exec (.beaconReceived p b) s = .next (sendRoll p (s.ifl.ownPos.isSome && byteAt (linkHead b).body 1 == 1) w) := by
    refine congrArg Host.Outcome.next ?_
    rw [hfit, hhears, hup]
    refine (if_pos rfl).trans ?_
    rw [masterHeard, if_pos hup]
    dsimp only
    split
    · next h => exact absurd hcpl h.2
    · rfl
  refine ⟨_, hexec, ?_⟩
  have hq : quiet (sendRoll p (s.ifl.ownPos.isSome && byteAt (linkHead b).body 1 == 1) w) = quiet w := quiet_sendRoll ..
  refine ⟨(congrArg Ifl.ownPos hq :), (congrArg Ifl.masterAt hq :), (congrArg Ifl.winSync hq :), ?_, fun hsend => ?_⟩
  · have hb := port_of_quiet (congrArg Ifl.ports hq) p
    rw [hport] at hb
    exact (congrArg Port.beaconAt hb :)
  · have hsend' : canSend w p = true := by
      unfold canSend at hsend ⊢
      rw [hport]
      exact hsend
    rw [sendRoll, sendPlain, if_pos hsend', cntTx_sendFrame _ _ _ _ hlenw, hport]

theorem execBeaconReceived_drops {p : Fin 4} (hfit : frameFits 1 b = true) (hhears : hears s p = true) (hup : upstream s p = true)
    (hpos : s.ifl.ownPos.isSome = true) (hcpl : (linkHead b).cpl ≠ s.ifl.ownCpl) : ∃ t, exec (.beaconReceived p b) s = .next t ∧
    t.ifl.ownPos = none ∧ t.ifl.ownCpl = 0 ∧ t.ifl.routes = [] := by
  let u := modIfl (fun x => { x with
    winSync := true, masterAt := monoUs s
    ports := x.ports.map (fun x => { x with winAt := monoUs s - 400 }) }) s
  let v := modPort p (fun x => { x with missed := 0, rolled := true, beaconAt := some (monoUs s) }) u
  let w := modPort p (fun x => { x with beaconAt := some (monoUs s), parent := byteAt (linkHead b).body 0 % 16 }) (dropPosition v)
  have hexec : exec (.beaconReceived p b) s = .next (sendRoll p (false && byteAt (linkHead b).body 1 == 1) w) := by
    refine congrArg Host.Outcome.next ?_
    rw [hfit, hhears, hup]
    refine (if_pos rfl).trans ?_
    rw [masterHeard, if_pos hup]
    dsimp only
    split
    · rfl
    · next h => exact absurd ⟨hpos, hcpl⟩ h
  have hq : quiet (sendRoll p (false && byteAt (linkHead b).body 1 == 1) w) = quiet w := quiet_sendRoll ..
  exact ⟨_, hexec, (congrArg Ifl.ownPos hq :), (congrArg Ifl.ownCpl hq :), (congrArg Ifl.routes hq :)⟩

theorem execAssign_takes {p : Fin 4} (hs : Shaped s) (hseq : (linkHead b).hseq = 0) (hfit : frameFits 4 b = true) (hhears : hears s p = true)
    (hup : upstream s p = true) (hmode : linkMode s = true) (hcpl : (linkHead b).cpl = 0) (huid : headUid (linkHead b).body = fromBE (uidBytes s))
    (hlo : 1 ≤ byteAt (linkHead b).body 16) (hhi : byteAt (linkHead b).body 16 ≤ 7) (hpos : s.ifl.ownPos = none) : ∃ t,
    exec (.assign p b) s = .next t ∧ t.ifl.ownPos = some (byteAt (linkHead b).body 16) ∧
    t.ifl.ownCpl = beAt (linkHead b).body 20 4 ∧ (getPort t p).link = .coupledT := by
  let v := modPort p (fun x => { emptyPort .coupledT x with cpl := beAt (linkHead b).body 20 4 }) s
  let w := modIfl (fun x => { x with ownPos := some (byteAt (linkHead b).body 16), ownCpl := beAt (linkHead b).body 20 4 }) v
  have hexec : exec (.assign p b) s = .next (sendRoll p false w) := by
    refine congrArg Host.Outcome.next ?_
    refine (if_pos hseq).trans ?_
    rw [hfit, hhears, hup, hmode, hcpl]
    refine (if_pos rfl).trans ?_
    rw [takeAssign, if_pos ⟨huid, hlo, hhi⟩]
    dsimp only
    split
    · next h => exact absurd (hpos.symm.trans h.1) (by simp)
    · rfl
  have hq : quiet (sendRoll p false w) = quiet w := quiet_sendRoll ..
  refine ⟨_, hexec, (congrArg Ifl.ownPos hq :), (congrArg Ifl.ownCpl hq :), ?_⟩
  have hport : getPort w p = { emptyPort .coupledT (getPort s p) with cpl := beAt (linkHead b).body 20 4 } := getPort_modPort (hs.ports p)
  have hb := port_of_quiet (congrArg Ifl.ports hq) p
  rw [hport] at hb
  exact (congrArg Port.link hb :)

/-- Settles O19. -/
theorem couplingAndPositions : Obligations.CouplingAndPositions := by
  refine ⟨fun p t0 s hs hm hl hu ho hq ha hr => execBeacon_goes hs hm hl hu ho hq ha hr,
    fun p t0 s hs hm hl ht ha hr hmi hc hst => execBeacon_decouples hs hm hl ht ha hr hmi hc hst,
    fun p b s hs hf hh hu hc => execBeaconReceived_takes hs hf hh hu hc,
    fun p b s hf hh hu ho hc => execBeaconReceived_drops hf hh hu ho hc,
    fun p b pos s hs hf hh hm ht hl hc hp hn hd => execRoll_discovers hs hf hh hm ht hl hc hp hn hd,
    fun p src b q n s hs hf hh hm ht hl ha hsrc hu hc hn => execRoll_couples hs hf hh hm ht hl ha hsrc hu hc hn,
    fun p b s hs hseq hf hh hu hm hc huid hlo hhi hp => execAssign_takes hs hseq hf hh hu hm hc huid hlo hhi hp,
    fun p b pos s h ht hm hp hn hd => execJoin_does h ht hm hp hn hd,
    fun p b n s h ht hn => execJoined_does h ht hn, fun p b n s h ht hn => execDecoupled_does h ht hn,
    fun p b s h ht => execOnwardLost_does h ht⟩

end Sys2Proof.Machine

/-! Data on the chain (O20). -/

namespace Sys2Proof.Machine

variable {s t u v : State} {p q pos r ten : Nat} {b d : Bytes} {f : Flight}

@[simp] theorem pump_flights (p : Nat) : (pump p s).host.flights = s.host.flights := (pump_frame (.refl _ s) (within_refl _) p).flights rfl
@[simp] theorem sendData_flights (pos : Nat) (svc : Nat) (ten : Nat) (payload : Bytes) (op : Option Nat) : (sendData pos svc ten payload op s).host.flights = s.host.flights := (sendData_frame (.refl _ s) (within_refl _) pos svc ten payload op).flights rfl
@[simp] theorem sendData_led (pos : Nat) (svc : Nat) (ten : Nat) (payload : Bytes) (op : Option Nat) : (sendData pos svc ten payload op s).led = s.led := (sendData_frame (.refl _ s) (within_refl _) pos svc ten payload op).led rfl

/-! ### What going on air leaves of the frames that wait -/

/-- What a frame on its way leaves of its port. -/
def airPort (x : Port) : Port := { x with airEnd := 0, txEnd := 0, searchUntil := 0, cntTx := 0, mgmt := [], reqAt := none }

theorem airPort_modPort {f : Port → Port} (hf : ∀ x, airPort (f x) = airPort x) : airPort (getPort (modPort p f s) q) = airPort (getPort s q) := by
  have hnth : getPort (modPort p f s) q = if p = q ∧ q < s.ifl.ports.length then f (getPort s q) else getPort s q := nth_modAt _ _ _
  rw [hnth]
  split
  · exact hf _
  · rfl

theorem airPort_searchOn (n : Nat) : airPort (getPort (searchOn p n s) q) = airPort (getPort s q) := by
  unfold searchOn
  split
  · exact airPort_modPort fun _ => rfl
  · rfl

theorem airPort_sendFrame (map tbl dst kind : Nat) : airPort (getPort (sendFrame p map tbl dst kind b s) q) = airPort (getPort s q) := by
  unfold sendFrame onlyIf
  split
  · exact (airPort_searchOn _).trans (airPort_modPort fun _ => rfl)
  · exact airPort_modPort fun _ => rfl

theorem airPort_flushMgmt : airPort (getPort (flushMgmt p s) q) = airPort (getPort s q) := by
  unfold flushMgmt
  split
  · exact (each_same (fun t => airPort (getPort t q)) _ _ (fun _ _ => airPort_sendFrame ..) _).trans (airPort_modPort fun _ => rfl)
  · rfl

/-- A port with no frame that waits sends none. -/
theorem airPort_pump (h : (getPort s p).queue = []) : airPort (getPort (pump p s) q) = airPort (getPort s q) := by
  have hq : (getPort (flushMgmt p s) p).queue = [] :=
    (congrArg Port.queue (airPort_flushMgmt (s := s) (p := p) (q := p)) : (airPort _).queue = (airPort _).queue).trans h
  have hpump : pump p s = flushMgmt p s := by
    unfold pump pumpN
    dsimp only
    rw [hq]
  rw [hpump, airPort_flushMgmt]

/-! ### Frames received -/

theorem takeProfile_port (hp : p < s.ifl.ports.length) (n : Nat) :
    quietPort (getPort (takeProfile p n s) p) = quietPort { getPort s p with link := if n = 1 then .coupledF else .coupledT } := by
  unfold takeProfile
  split
  · rw [port_of_quiet (congrArg Ifl.ports (quiet_sendSoundReq ..)), getPort_modPort hp]
  · rw [getPort_modPort hp]

theorem execProfile_does {p : Fin 4} (h : InOrder 7 p b s) (hup : upstream s p = true) : ∃ t,
    exec (.profile p b) s = .next t ∧ (getPort t p).rxNext = nextSeq (getPort s p).rxNext ∧
    (getPort t p).link = if byteAt (linkHead b).body 0 = 1 then .coupledF else .coupledT := by
  have hdel : deliverHere p (linkHead b) (acked p s) = takeProfile p (byteAt (linkHead b).body 0) (acked p s) := by
    have hup' : upstream (acked p s) p = true := by
      rw [upstream, acked_sys]
      exact hup
    unfold deliverHere
    rw [ltype_of_inOrder h, hup']
    rfl
  have hlen : p.val < (acked p s).ifl.ports.length := by
    rw [ports_of_quiet (congrArg Ifl.ports quiet_acked), length_ports_modPort]
    exact h.shape.ports p
  have hport := takeProfile_port hlen (byteAt (linkHead b).body 0)
  rw [← hdel] at hport
  obtain ⟨hrecv, hnext⟩ := recvSeq_does h ⟨(congrArg Port.held hport :), (congrArg Port.rxNext hport :)⟩
  exact ⟨_, congrArg Host.Outcome.next hrecv, hnext, (congrArg Port.link hport :)⟩

theorem dropOld_of_fits (n : Nat) {l : List (Nat × Bytes)} (h : (l.map (fun e => e.2.length)).foldl (· + ·) 0 ≤ 65536) : dropOld n l = l := by
  cases n with
  | zero => rfl
  | succ n => exact if_neg (Nat.not_lt.mpr h)

theorem execDataFrame_stores {p : Fin 4} {l : List (Nat × Bytes)} (h : InOrder 8 p b s) (hsvc : byteAt (linkHead b).body 0 = 1)
    (hten : ten = beAt (linkHead b).body 2 2) (hex : tenExists s ten = true)
    (hl : l = tabGet [] s.ifl.inbox ten ++ [((linkHead b).orig, (linkHead b).body.drop 4)])
    (hfit : (l.map (fun e => e.2.length)).foldl (· + ·) 0 ≤ 65536) : ∃ t, exec (.dataFrame p b) s = .next t ∧
    (getPort t p).rxNext = nextSeq (getPort s p).rxNext ∧ tabGet [] t.ifl.inbox ten = l := by
  have hinbox : (acked p s).ifl.inbox = s.ifl.inbox := (congrArg Ifl.inbox quiet_acked : (quiet (acked p s)).inbox = _)
  have hdel : deliverHere p (linkHead b) (acked p s) = modIfl (fun b => { b with inbox := tabPut b.inbox ten l }) (acked p s) := by
    have hex' : tenExists (acked p s) ten = true := by
      have htens : (acked p s).slc.tens = s.slc.tens :=
        (sendAckFor_frame (.refl _ _) (within_refl _) _ _ _).slcField Slc.tens (fun _ => rfl) rfl
      rw [tenExists, getTen, htens]
      exact hex
    unfold deliverHere deliverData
    dsimp only
    rw [ltype_of_inOrder h, hsvc, ← hten]
    change storeHost ten (linkHead b).orig ((linkHead b).body.drop 4) (acked p s) = _
    unfold storeHost
    rw [if_pos hex', hinbox, ← hl]
    dsimp only
    rw [dropOld_of_fits _ hfit, bne_self_eq_false]
    rfl
  obtain ⟨hrecv, hnext⟩ := recvSeq_does_of_ports h (by rw [hdel]; rfl)
  refine ⟨_, congrArg Host.Outcome.next (hrecv.trans hdel), hdel ▸ hnext, ?_⟩
  exact (tabGet_tabPut ..).trans (if_pos rfl)

theorem execDataFrame_repeats {p : Fin 4} (hfit : frameFits 8 b = true) (hhears : hears s p = true) (hcoup : isCoupled (getPort s p).link = true)
    (hcpl : (linkHead b).cpl = (getPort s p).cpl) (hseq : (linkHead b).hseq ≠ 0) (hdist : 8 ≤ seqDist (getPort s p).rxNext (linkHead b).hseq) :
    exec (.dataFrame p b) s = .next (sendAck p false s) := by
  have hcond : (frameFits 8 b && hears s p && isCoupled (getPort s p).link && (linkHead b).cpl == (getPort s p).cpl && (linkHead b).hseq != 0) = true := by
    rw [hfit, hhears, hcoup, hcpl, beq_self_eq_true, bne_iff_ne.mpr hseq]
    rfl
  exact congrArg Host.Outcome.next ((if_pos hcond).trans (if_pos (.inl hdist)))

/-! ### Acknowledgements and resends -/

/-- An ACK takes the frames it covers out of the port, and what they were part of goes on (R418). -/
def ackTaken (p : Nat) (b : Bytes) (s : State) : State :=
  modPort p (fun x => { x with
    unacked := x.unacked.filter (fun t => !ackCovers (beAt (linkHead b).body 0 2) (byteAt (linkHead b).body 2) t.hseq)
    busyUntil := if bit (byteAt (linkHead b).body 3) 0 then monoUs s + 10000 else x.busyUntil }) s

theorem execAck_eq {p : Fin 4} (hfit : frameFits 9 b = true) (hhears : hears s p = true) (hcoup : isCoupled (getPort s p).link = true)
    (hcpl : (linkHead b).cpl = (getPort s p).cpl) : exec (.ack p b) s = .next (pump p (each
      ((getPort s p).unacked.filter (fun t => ackCovers (beAt (linkHead b).body 0 2) (byteAt (linkHead b).body 2) t.hseq))
      (frameAccepted p) (ackTaken p b s))) := by
  refine congrArg Host.Outcome.next ?_
  dsimp only
  rw [hfit, hhears, hcoup, hcpl, beq_self_eq_true]
  exact if_pos rfl

theorem ackTaken_port (hp : p < s.ifl.ports.length) : getPort (ackTaken p b s) p = { getPort s p with
    unacked := (getPort s p).unacked.filter (fun t => !ackCovers (beAt (linkHead b).body 0 2) (byteAt (linkHead b).body 2) t.hseq)
    busyUntil := if bit (byteAt (linkHead b).body 3) 0 then monoUs s + 10000 else (getPort s p).busyUntil } := getPort_modPort hp

theorem frameAccepted_plain {x : TxFrame} (hop : x.frame.op = none) (hty : x.frame.ltype ≠ 7) : frameAccepted p x s = s := by
  unfold frameAccepted
  rw [hop, beq_false_of_ne hty]
  exact if_neg fun h => hty h.1

theorem each_id {α : Type} (l : List α) (f : α → State → State) (hf : ∀ a ∈ l, ∀ t, f a t = t) : each l f s = s := by
  unfold each
  induction l with
  | nil => rfl
  | cons a l ih =>
    rw [List.foldl_cons, hf a (List.mem_cons_self ..)]
    exact ih fun c hc => hf c (List.mem_cons_of_mem _ hc)

theorem execAck_takes {p : Fin 4} (hs : Shaped s) (hfit : frameFits 9 b = true) (hhears : hears s p = true)
    (hcoup : isCoupled (getPort s p).link = true) (hcpl : (linkHead b).cpl = (getPort s p).cpl) (hqu : (getPort s p).queue = [])
    (hplain : (getPort s p).unacked.all (fun x => x.frame.op.isNone && x.frame.ltype != 7) = true) : ∃ t, exec (.ack p b) s = .next t ∧
    (getPort t p).unacked = (getPort s p).unacked.filter (fun x =>
      !ackCovers (beAt (linkHead b).body 0 2) (byteAt (linkHead b).body 2) x.hseq) := by
  have heach : each ((getPort s p).unacked.filter (fun t => ackCovers (beAt (linkHead b).body 0 2) (byteAt (linkHead b).body 2) t.hseq))
      (frameAccepted p) (ackTaken p b s) = ackTaken p b s := by
    refine each_id _ _ fun x hx t => ?_
    have hall := List.all_eq_true.mp hplain x (List.mem_filter.mp hx).1
    rw [Bool.and_eq_true, Option.isNone_iff_eq_none, bne_iff_ne] at hall
    exact frameAccepted_plain hall.1 hall.2
  refine ⟨_, execAck_eq hfit hhears hcoup hcpl, ?_⟩
  rw [heach]
  have hport := ackTaken_port (b := b) (hs.ports p)
  have hq : (getPort (ackTaken p b s) p).queue = [] := (congrArg Port.queue hport).trans hqu
  exact (congrArg Port.unacked (airPort_pump (q := p) hq) : (airPort _).unacked = (airPort _).unacked).trans (congrArg Port.unacked hport)

theorem execAck_relayed {p : Fin 4} {x : TxFrame} {y : Relay} (hfit : frameFits 9 b = true) (hhears : hears s p = true)
    (hcoup : isCoupled (getPort s p).link = true) (hcpl : (linkHead b).cpl = (getPort s p).cpl) (hun : (getPort s p).unacked = [x])
    (hop : x.frame.op = some r) (hty : x.frame.ltype ≠ 7)
    (hcov : ackCovers (beAt (linkHead b).body 0 2) (byteAt (linkHead b).body 2) x.hseq = true)
    (hrel : s.ifl.relays.find? (fun z => z.op == r) = some y) (hlast : y.accepted + 1 = y.total)
    (hf : ∃ f, getFlight s r = some f ∧ f.fate = none) : ∃ t, exec (.ack p b) s = .next t ∧ Done r y.total t := by
  obtain ⟨f, hget, hno⟩ := hf
  have heach : each ((getPort s p).unacked.filter (fun t => ackCovers (beAt (linkHead b).body 0 2) (byteAt (linkHead b).body 2) t.hseq))
      (frameAccepted p) (ackTaken p b s) = relayAccepted r (ackTaken p b s) := by
    rw [hun, List.filter_cons, if_pos hcov, List.filter_nil]
    change frameAccepted p x (ackTaken p b s) = _
    unfold frameAccepted
    rw [hop, beq_false_of_ne hty]
    exact if_neg fun h => hty h.1
  refine ⟨_, execAck_eq hfit hhears hcoup hcpl, ?_⟩
  rw [heach]
  have hacc : relayAccepted r (ackTaken p b s) = settle r { done y.total with units := y.total }
      (tryLog (.emitted 4 r) (modIfl (fun b => { b with relays := b.relays.filter (fun y => y.op != r) }) (ackTaken p b s))) := by
    have hrel' : (ackTaken p b s).ifl.relays.find? (fun z => z.op == r) = some y := hrel
    unfold relayAccepted
    rw [hrel']
    dsimp only
    rw [hlast, if_pos rfl]
  rw [hacc]
  refine Ended.of_flights (settle_ended (f := f) ?_ hno _) (pump_flights ..)
  exact (getFlight_of_host (tryLog_flights ..)).trans hget

theorem resend_pick (hmode : linkMode s = true) : (getPort s p).unacked.filter (fun t => fitsProfile (getPort s p) t.frame &&
    (linkMode s || decide (t.tries < 8))) = (getPort s p).unacked.filter (fun t => fitsProfile (getPort s p) t.frame) := by
  simp only [hmode, Bool.true_or, Bool.and_true]

/-- The ACK of frame `x` has not come in time: the frame goes again (R419). -/
def resent (p : Nat) (x : TxFrame) (s : State) : State :=
  sendSeq p { x with tries := x.tries + 1, sends := x.sends + 1, sentAt := monoUs s } (modIfl (fun b => { b with cntRetx := b.cntRetx + 1 })
    (modPort p (fun y => { y with unacked := y.unacked.map (fun z =>
      if z.hseq = x.hseq then { x with tries := x.tries + 1, sends := x.sends + 1, sentAt := monoUs s } else z) }) s))

theorem execResendTimer_resends {p : Fin 4} {x : TxFrame} (hs : Shaped s)
    (hx : oldestFrame ((getPort s p).unacked.filter (fun t => fitsProfile (getPort s p) t.frame)) = some x) (hmode : linkMode s = true)
    (hsend : canSend s p = true) (hcoup : isCoupled (getPort s p).link = true) (hbusy : (getPort s p).busyUntil ≤ x.sentAt) (htry : x.tries < 8)
    (hqu : (getPort s p).queue = []) : ∃ t, exec (.resendTimer p) s = .next t ∧ t.ifl.cntRetx = s.ifl.cntRetx + 1 ∧
    (getPort t p).unacked = (getPort s p).unacked.map (fun y =>
      if y.hseq = x.hseq then { x with tries := x.tries + 1, sends := x.sends + 1, sentAt := monoUs t } else y) := by
  let n := x.sentAt + (if (getPort s p).link = .coupledF then 2000 else 20000)
  have hexec : exec (.resendTimer p) s = .next (pump p (resent p x (elapseTo n s))) := by
    refine congrArg Host.Outcome.next ?_
    dsimp only
    rw [resend_pick hmode, hx]
    dsimp only
    rw [hcoup, hsend, decide_eq_false (Nat.not_lt.mpr hbusy), decide_eq_false (Nat.not_le.mpr htry)]
    rfl
  refine ⟨_, hexec, ?_⟩
  have hifl : (elapseTo n s).ifl = s.ifl := elapseTo_ifl _
  have hlen : p.val < (elapseTo n s).ifl.ports.length := by rw [hifl]; exact hs.ports p
  have hport0 : getPort (elapseTo n s) p = getPort s p := getPort_of_ifl hifl
  generalize elapseTo n s = v at hifl hlen hport0
  have hmono : monoUs (pump p (resent p x v)) = monoUs v :=
    ((pump_frame (.refl _ _) (within_refl _) _).monoUs_eq rfl rfl rfl).trans
      ((sendSeq_frame (.refl _ _) (within_refl _) _ _).monoUs_eq rfl rfl rfl)
  have hair : airPort (getPort (resent p x v) p) = airPort { getPort s p with
      unacked := (getPort s p).unacked.map (fun z =>
        if z.hseq = x.hseq then { x with tries := x.tries + 1, sends := x.sends + 1, sentAt := monoUs v } else z) } := by
    refine (airPort_sendFrame ..).trans (congrArg airPort ?_)
    refine (getPort_modPort hlen).trans ?_
    rw [hport0]
  have hpumped := airPort_pump (p := p) (q := p) (s := resent p x v) ((congrArg Port.queue hair : (airPort _).queue = (airPort _).queue).trans hqu)
  refine ⟨?_, ?_⟩
  · have hq : quiet (pump p (resent p x v)) = _ := (quiet_pump _).trans (quiet_sendFrame ..)
    have hretx : v.ifl.cntRetx = s.ifl.cntRetx := congrArg Ifl.cntRetx hifl
    rw [← hretx]
    exact (congrArg Ifl.cntRetx hq : (quiet _).cntRetx = (quiet _).cntRetx)
  · rw [hmono]
    exact (congrArg Port.unacked (hpumped.trans hair) : (airPort _).unacked = (airPort _).unacked)

theorem cntLost_portDown (cause : Nat) : (portDown p .down cause s).ifl.cntLost = s.ifl.cntLost := by
  unfold portDown
  extract_lets pt frames u gone
  have hu : u.ifl.cntLost = s.ifl.cntLost := rfl
  split
  · split
    · exact hu
    · have hq := (quiet_onwardLost (s := sendTo 0 0x06 (le 1 pt.pos ++ le 1 cause) none
        (linkEvent 1 (modIfl (fun b => { b with routes := gone.foldl tabErase b.routes }) u))) frames).trans (quiet_sendTo ..)
      exact (congrArg Ifl.cntLost hq : (quiet _).cntLost = (quiet _).cntLost).trans hu
  · split
    · exact hu
    · exact (congrArg Ifl.cntLost (steady_freeNodes ..) : (steady _).cntLost = (steady _).cntLost).trans hu

theorem execResendTimer_gives_up {p : Fin 4} {x : TxFrame} (hs : Shaped s)
    (hx : oldestFrame ((getPort s p).unacked.filter (fun t => fitsProfile (getPort s p) t.frame)) = some x) (hmode : linkMode s = true)
    (hsend : canSend s p = true) (hcoup : isCoupled (getPort s p).link = true) (hbusy : (getPort s p).busyUntil ≤ x.sentAt) (htry : 8 ≤ x.tries)
    (hstep : s.ifl.stepEnd = none) : ∃ t, exec (.resendTimer p) s = .next t ∧ t.ifl.cntLost = s.ifl.cntLost + 1 ∧
    (getPort t p).link = .down := by
  let n := x.sentAt + (if (getPort s p).link = .coupledF then 2000 else 20000)
  let v := modIfl (fun b => { b with cntLost := b.cntLost + 1 }) (elapseTo n s)
  have hexec : exec (.resendTimer p) s = .next (decouple p 3 v) := by
    refine congrArg Host.Outcome.next ?_
    dsimp only
    rw [resend_pick hmode, hx]
    dsimp only
    rw [hcoup, hsend, decide_eq_false (Nat.not_lt.mpr hbusy), decide_eq_true htry]
    rfl
  have hifl : (elapseTo n s).ifl = s.ifl := elapseTo_ifl _
  have hlen : p.val < v.ifl.ports.length := (congrArg (fun x : Ifl => p.val < x.ports.length) hifl).mpr (hs.ports p)
  have hport : getPort v p = getPort s p := getPort_of_ifl (t := elapseTo n s) hifl
  have hcoupv : isCoupled (getPort v p).link = true := by rw [hport]; exact hcoup
  have hdown := decouple_down (p := p) (s := v) 3 hcoupv ((congrArg Ifl.stepEnd hifl).trans hstep)
  refine ⟨_, hexec, ?_⟩
  rw [hdown]
  exact ⟨(cntLost_portDown _).trans (congrArg (fun x : Ifl => x.cntLost + 1) hifl), portDown_link 3 hlen (ne_quarantined_of_coupled hcoupv)⟩

/-! ### STATUS and the IFL class -/

theorem execSvcStatus_reports (htr : s.sys.trailer = true) (hpos : s.ifl.ownPos.isSome = true) (hready : s.sys.ready = true)
    (hmode : s.pwr.mode = .cab ∨ s.pwr.mode = .drive) :
    ∃ t, exec .svcStatus s = .next t ∧ t.ifl.statusAt = monoUs t ∧ s.ifl.statusAt + 1000000 ≤ monoUs t := by
  have hm : (s.pwr.mode == .cab || s.pwr.mode == .drive) = true := by
    obtain h | h := hmode <;> rw [h] <;> rfl
  have hcond : (s.sys.trailer && s.ifl.ownPos.isSome && s.sys.ready && (s.pwr.mode == .cab || s.pwr.mode == .drive)) = true := by
    rw [htr, hpos, hready, hm]
    rfl
  refine ⟨_, congrArg Host.Outcome.next (if_pos hcond), ?_⟩
  dsimp only
  have hle := le_monoUs_elapseTo (s := s) (s.ifl.statusAt + 1000000)
  generalize elapseTo (s.ifl.statusAt + 1000000) s = v at hle
  rw [(sendData_frame (.refl _ _) (within_refl _) _ _ _ _ _).monoUs_eq rfl rfl rfl]
  exact ⟨(congrArg Ifl.statusAt (quiet_sendData ..) : (quiet _).statusAt = _), hle⟩

theorem execRelay_begins {n : Node} (h : Ready 0x0500 r f s) (hrc : s.clk.onRc = false) (hn : nodeAt s (fieldLE f.raw 24 1) = some n)
    (hj : n.joined = true) (had : s.ifl.nodes.any (fun e => e.2.adrift && behind s e.1 7 (fieldLE f.raw 24 1)) = false)
    (hlog : canLog (.intent 4 r) s = true) : ∃ t g, exec (.relay r (.ok d)) s = .next t ∧ getFlight t r = some g ∧ g.fate = none ∧
    g.begun = true ∧ t.led.lsn = s.led.lsn + 1 ∧ t.ifl.relays = s.ifl.relays ++
      [{ op := r, final := fieldLE f.raw 24 1, accepted := 0,
         total := (cut (fieldLE f.raw 26 2) (dLen f.raw) (slice d 0 (dLen f.raw))).length }] := by
  have had' : (started r s).ifl.nodes.any (fun e => e.2.adrift && behind (started r s) e.1 7 (fieldLE f.raw 24 1)) = false := had
  have hn' : nodeAt (started r s) (fieldLE f.raw 24 1) = some n := hn
  have hlog' : canLog (.intent 4 r) (started r s) = true := hlog
  let frames := cut (fieldLE f.raw 26 2) (dLen f.raw) (slice d 0 (dLen f.raw))
  let u := modIfl (fun b => { b with relays := b.relays ++ [(⟨r, fieldLE f.raw 24 1, 0, frames.length⟩ : Relay)] })
    (logRec (.intent 4 r) (started r s))
  have hexec : exec (.relay r (.ok d)) s = .next (each frames (fun x => sendData (fieldLE f.raw 24 1) 0x01 f.ten x (some r)) u) := by
    refine congrArg Host.Outcome.next ?_
    rw [if_neg (by rw [hrc]; exact Bool.false_ne_true), startOp_ready h]
    dsimp only
    rw [hn', had']
    dsimp only
    rw [hj, if_neg Bool.false_ne_true, if_neg (by simp), withRead_ok, if_pos hlog']
  refine ⟨_, { f with begun := true }, hexec, ?_, h.noFate, rfl, ?_, ?_⟩
  · have hfl := each_same (fun t => t.host.flights) frames (fun x => sendData (fieldLE f.raw 24 1) 0x01 f.ten x (some r)) (fun _ _ => sendData_flights ..) u
    have hu : getFlight u r = getFlight (started r s) r := rfl
    exact (getFlight_of_host hfl).trans (hu.trans h.begun)
  · have hled := each_same (fun t => t.led) frames (fun x => sendData (fieldLE f.raw 24 1) 0x01 f.ten x (some r)) (fun _ _ => sendData_led ..) u
    exact congrArg Ledger.lsn hled
  · have hq := each_same quiet frames (fun x => sendData (fieldLE f.raw 24 1) 0x01 f.ten x (some r)) (fun _ _ => quiet_sendData ..) u
    exact (congrArg Ifl.relays hq : (quiet _).relays = (quiet u).relays)

theorem execRelay_absent (h : Ready 0x0500 r f s) (hrc : s.clk.onRc = false) (hn : nodeAt s (fieldLE f.raw 24 1) = none) : ∃ t,
    exec (.relay r (.ok d)) s = .next t ∧ Ended r fAbsent 0 0x20 t ∧ t.ifl = s.ifl := by
  have hn' : nodeAt (started r s) (fieldLE f.raw 24 1) = none := hn
  refine ⟨settle r (failFate fAbsent 0x20) (started r s), congrArg Host.Outcome.next ?_, h.settle_ended _, settle_ifl ..⟩
  rw [if_neg (by rw [hrc]; exact Bool.false_ne_true), startOp_ready h]
  dsimp only
  rw [hn']

theorem execChainRead_does {l : List (Nat × Node)} (h : Ready 0x0501 r f s) (hl : l = s.ifl.nodes.take (dLen f.raw / 32)) : ∃ t,
    exec (.chainRead r true) s = .next t ∧ Done r l.length t ∧ t.outs = s.outs ++
      [Out.hostWrite (rangeOf f 0).func (rangeOf f 0).addr (l.flatMap (fun e => chainBytes s e.1 e.2))] := by
  subst hl
  obtain ⟨hend, houts⟩ := writeAndSettle_ended (f := f) (s := drawn 16 (started r s)) h.begun h.noFate 0
    ((s.ifl.nodes.take (dLen f.raw / 32)).flatMap (fun e => chainBytes s e.1 e.2)) (done (s.ifl.nodes.take (dLen f.raw / 32)).length)
  exact ⟨_, congrArg Host.Outcome.next (startOp_ready h _), hend, houts⟩

theorem execRecv_does {l : List (Nat × Bytes)} (h : Ready 0x0502 r f s) (hl : l = recvFit (dLen f.raw) (tabGet [] s.ifl.inbox f.ten)) :
    ∃ t, exec (.recv r true) s = .next t ∧ Done r (l.flatMap recvBytes).length t ∧
    tabGet [] t.ifl.inbox f.ten = (tabGet [] s.ifl.inbox f.ten).drop l.length ∧
    t.outs = s.outs ++ [Out.hostWrite (rangeOf f 0).func (rangeOf f 0).addr (l.flatMap recvBytes)] := by
  let u := modIfl (fun b => { b with inbox := tabSet [] b.inbox f.ten ((tabGet [] s.ifl.inbox f.ten).drop l.length) }) (started r s)
  have hbegun : getFlight u r = some { f with begun := true } := h.begun
  obtain ⟨hend, houts⟩ := writeAndSettle_ended (f := f) hbegun h.noFate 0 (l.flatMap recvBytes) (done (l.flatMap recvBytes).length)
  have hexec : exec (.recv r true) s = .next (writeAndSettle r f 0 (l.flatMap recvBytes) true (done (l.flatMap recvBytes).length) u) := by
    subst hl
    exact congrArg Host.Outcome.next (startOp_ready h _)
  refine ⟨_, hexec, hend, ?_, houts⟩
  have hifl : (writeAndSettle r f 0 (l.flatMap recvBytes) true (done (l.flatMap recvBytes).length) u).ifl = u.ifl := by
    rw [writeAndSettle_true, settle_ifl]
    rfl
  rw [hifl]
  exact (tabGet_tabSet ..).trans (if_pos rfl)

/-- Settles O20. -/
theorem chainDataAndOperations : Obligations.ChainDataAndOperations := by
  refine ⟨fun p b s h hu hv => ?_, fun p b s h hu hv => ?_, fun p b ten l s h hsvc ht hex hl hf => execDataFrame_stores h hsvc ht hex hl hf,
    fun p b s hf hh hc hcpl hseq hd => execDataFrame_repeats hf hh hc hcpl hseq hd,
    fun p b s hs hf hh hc hcpl hq hall => execAck_takes hs hf hh hc hcpl hq hall,
    fun p b r x y s _ hf hh hc hcpl _ hun hop hty hcov hrel hlast hfl => execAck_relayed hf hh hc hcpl hun hop hty hcov hrel hlast hfl,
    fun p x s hs hx hm hsend hc hb ht hq => execResendTimer_resends hs hx hm hsend hc hb ht hq,
    fun p x s hs hx hm hsend hc hb ht _ hst => execResendTimer_gives_up hs hx hm hsend hc hb ht hst,
    fun s ht hp hr hm => execSvcStatus_reports ht hp hr hm,
    fun r d f n s h hrc hn hj had hlog => execRelay_begins h hrc hn hj had hlog,
    fun r d f s h hrc hn => execRelay_absent h hrc hn, fun r f l s h hl => execChainRead_does h hl, fun r f l s h hl => execRecv_does h hl⟩
  · obtain ⟨t, ht, hn, hl⟩ := execProfile_does h hu
    exact ⟨t, ht, hn, hl.trans (if_pos hv)⟩
  · obtain ⟨t, ht, hn, hl⟩ := execProfile_does h hu
    exact ⟨t, ht, hn, hl.trans (if_neg hv)⟩

end Sys2Proof.Machine

/-! Holds and services on the chain (O21): a statement about a lent reader that does not hold while a counter runs. -/

namespace Sys2Proof.Machine

/- The kernel evaluates the counterexamples: one after another, as in the tests. -/
set_option Elab.async false

/-- A board with one contactless reader. -/
def readerBoard : BoardRec := { lf := 1, uhf := 1, paGain := List.replicate 8 0, nfc := 1, can := 1, nvm := 1 }

/-- A trailer node in Cab at position 2, with a counter that runs up to a compare value and interrupts there. -/
def lendsWhileCounting : State :=
  { State.reset with
    pwr := { State.reset.pwr with vaon := true, mode := .cab, start := .settled, railGood := 0x1FF }
    sys := { State.reset.sys with ready := true, trailer := true }
    cfg := { State.reset.cfg with board := some readerBoard }
    ifl := { State.reset.ifl with ownPos := some 2 }
    slc := { State.reset.slc with vecs := [(0, 1)] }
    clk := { State.reset.clk with cnts := [{ en := true, irq0 := true, cmp0 := 5 }] }
    host := { State.reset.host with funcs := [(0, { msixEn := true })], vecs := [(0, { masked := false })] } }

/-- A READER request to activate a card on reader 0. -/
def activateRequest : Bytes := [1, 0, 0, 0, 0, 0, 0, 0]

/-- The 5.1 ms that the reader's carrier is on before REQA reach the compare value, and the match sends its message first. -/
theorem readerRequest_interrupts : ∃ t, exec (.readerRequest activateRequest) lendsWhileCounting = .next t ∧ t.outs.length = 2 :=
  ⟨_, rfl, by decide +kernel⟩

/-- Refutes O21: a lent reader's activation puts REQA on air after the carrier has been on for 5.1 ms, and a running counter that reaches its
compare value in that time sends its MSI-X message (R212), so REQA is not the only output. -/
theorem not_chainHoldsAndServices : ¬ Obligations.ChainHoldsAndServices := by
  unfold Obligations.ChainHoldsAndServices
  rintro ⟨-, -, -, -, hlent, -⟩
  obtain ⟨t, y, ht, -, -, -, -, -, -, -, houts⟩ :=
    hlent activateRequest lendsWhileCounting rfl rfl (by decide) (by decide) (by decide) (by decide) (by decide)
  obtain ⟨u, hu, hlen⟩ := readerRequest_interrupts
  cases hu.symm.trans ht
  rw [houts] at hlen
  exact absurd hlen (by decide)

end Sys2Proof.Machine

/-! Contactless readers and cards (O30, O31): statements about a reader's outputs that do not hold while a counter runs. -/

namespace Sys2Proof.Machine

/- The kernel evaluates the counterexamples: one after another, as in the tests. -/
set_option Elab.async false

/-! ### The first burst of a reader -/

/-- The part of `lendsWhileCounting` with a last burst of reader 0 at 0 µs. -/
def detectsWhileCounting : State :=
  { lendsWhileCounting with nfc := { lendsWhileCounting.nfc with rds := [(0, { detAt := some 0 })] } }

/-- The 200 ms to the reader's next burst reach the counter's compare value, and the match sends its message before the burst. -/
theorem nfcDetection_interrupts : ∃ t, exec (.nfcDetection 0 0 0 false false) detectsWhileCounting = .next t ∧ t.outs.length = 2 :=
  ⟨_, rfl, by decide +kernel⟩

/-- Refutes O30: the detection period runs before the burst, and a running counter that reaches its compare value in that time sends its MSI-X
message (R212), so the burst is not the only output. -/
theorem not_contactlessReaders : ¬ Obligations.ContactlessReaders := by
  unfold Obligations.ContactlessReaders
  rintro ⟨hfirst, -⟩
  obtain ⟨t, ht, -, -, -, -, houts⟩ :=
    hfirst 0 0 0 _ detectsWhileCounting (by decide) (by decide) (by decide) (by decide) rfl
  obtain ⟨u, hu, hlen⟩ := nfcDetection_interrupts
  cases hu.symm.trans ht
  rw [houts] at hlen
  exact absurd hlen (by decide)

/-! ### A SEAL_SCAN on a reader without a field -/

/-- A SEAL_SCAN on reader 0. -/
def sealScanFlight : Flight :=
  { ring := 0, era := 0, ten := 0, party := 0, func := 0, raw := 0x0401, hrSlot := 0, trSlot := 0, stamp := 0, tAdm := 0, epochAdm := 0, lsn := 0 }

/-- The part of `lendsWhileCounting` with that descriptor accepted. -/
def scansWhileCounting : State := { lendsWhileCounting with host := { lendsWhileCounting.host with flights := [sealScanFlight] } }

theorem sealScan_interrupts : ∃ t, exec (.sealScan 0) scansWhileCounting = .next t ∧ t.outs.length = 2 :=
  ⟨_, rfl, by decide +kernel⟩

theorem sealScanFlight_ready : Ready 0x0401 0 sealScanFlight scansWhileCounting :=
  ⟨rfl, rfl, by decide +kernel, rfl, rfl, rfl, by decide, by decide +kernel⟩

/-- Refutes O31: a SEAL_SCAN puts REQA on air after the carrier has been on for 5.1 ms, and a running counter that reaches its compare value in
that time sends its MSI-X message (R212), so REQA is not the only output. -/
theorem not_contactlessCards : ¬ Obligations.ContactlessCards := by
  unfold Obligations.ContactlessCards
  rintro ⟨-, -, -, -, -, -, -, -, -, -, -, -, -, -, hscan, -⟩
  obtain ⟨t, y, ht, -, -, -, -, houts⟩ :=
    hscan 0 0 sealScanFlight scansWhileCounting sealScanFlight_ready (by decide +kernel) (by decide +kernel) (by decide +kernel) (by decide)
  obtain ⟨u, hu, hlen⟩ := sealScan_interrupts
  cases hu.symm.trans ht
  rw [houts] at hlen
  exact absurd hlen (by decide)

end Sys2Proof.Machine

/-! Activation and SCHED on the chain (O41, O42): statements that give the clock a finer step than the RTC has. -/

namespace Sys2Proof.Machine

/- The kernel evaluates the counterexamples: one after another, as in the tests. -/
set_option Elab.async false

/-- The part in Parked with the wake slice's rails good; slot A is scheduled for 1 µs with no window after it. -/
def parkedBeforeTick : State :=
  { State.reset with
    pwr := { State.reset.pwr with vaon := true, mode := .parked, start := .settled, slice := some 0, railGood := 0x1FF }
    upd := { State.reset.upd with a := { State.reset.upd.a with st := .scheduled }, sched := some { windowH := 0, due := 1 } } }

/-- The RTC reads 0 µs before the deadline and 30 µs at its first step after it, when the window of 0 hours is over: the slot goes back to
STAGED. -/
theorem activationCommit_lapses : ∃ t, exec .activationCommit parkedBeforeTick = .next t ∧ t.upd.a.st = .staged :=
  ⟨_, rfl, by decide +kernel⟩

/-- Refutes O42: a window of 0 hours ends at the deadline itself, and in Parked the RTC's step takes the clock past it, so that a schedule whose
window is still open lapses. -/
theorem not_activationAndTrial : ¬ Obligations.ActivationAndTrial := by
  unfold Obligations.ActivationAndTrial
  rintro ⟨-, hparked, -⟩
  obtain ⟨t, ht, hslot, -⟩ := hparked false 1 parkedBeforeTick rfl (by decide) (by decide) rfl (by decide) (by decide) (by decide)
    (by decide) (by decide) (by decide)
  obtain ⟨u, hu, hst⟩ := activationCommit_lapses
  cases hu.symm.trans ht
  have htrial : t.upd.a.st = .trial := congrArg Slot.st hslot
  rw [hst] at htrial
  exact absurd htrial (by decide)

/-! ### SCHED again -/

/-- A part without VAON, whose clock is the RTC's; SCHED went out at 1 µs for a schedule due at 60,000,002 µs. -/
def repeatBeforeTick : State :=
  { State.reset with
    pwr := { State.reset.pwr with vaon := false, mode := .cab }
    sys := { State.reset.sys with ready := true }
    upd := { State.reset.upd with
      a := { State.reset.upd.a with st := .scheduled }
      sched := some { windowH := 0, by_ := some (0, 0), due := 60000002, sentAt := 1 } } }

/-- The first step of the RTC at 60,000,001 µs or later is past the deadline, so SCHED does not go out again. -/
theorem schedRepeat_rests : ∃ t, exec .schedRepeat repeatBeforeTick = .next t ∧ t.upd.sched = repeatBeforeTick.upd.sched :=
  ⟨_, rfl, by decide⟩

theorem deadline_repeatBeforeTick : deadline repeatBeforeTick = some 60000002 := rfl

/-- Refutes O41: SCHED is due again 1 µs before the deadline, and where TIME_MONO follows the RTC its step goes past both, so that SCHED does not go
out. -/
theorem not_imageTransport : ¬ Obligations.ImageTransport := by
  unfold Obligations.ImageTransport
  rintro ⟨-, -, -, -, -, -, -, -, -, -, -, -, -, -, hrepeat⟩
  obtain ⟨t, ht, hdue, hsched⟩ := hrepeat _ false repeatBeforeTick rfl rfl rfl rfl (Or.inl rfl) (by
    rintro e he
    cases deadline_repeatBeforeTick.symm.trans he
    decide)
  obtain ⟨u, hu, hkept⟩ := schedRepeat_rests
  cases hu.symm.trans ht
  have hsent : 1 = monoUs t := congrArg Schedule.sentAt (Option.some.inj (hkept.symm.trans hsched))
  have hlate : 60000001 ≤ monoUs t := hdue
  omega

end Sys2Proof.Machine

/-! The random source (O39): a RANDOM with prediction resistance in Parked, where the wake slice has no power. -/

namespace Sys2Proof.Machine

/- The kernel evaluates the counterexamples: one after another, as in the tests. -/
set_option Elab.async false

/-! ### The DRBG before its first instantiation -/

theorem xorL_nil (a : List Nat) : xorL a [] = [] := List.zipWith_nil_right

/-- The cipher makes nothing of a key of no bytes. -/
theorem aes_nil (block : Bytes) : aes [] block = [] := by
  have hlast : (roundKeys []).getLastD [] = [] := rfl
  unfold aes
  dsimp only
  rw [hlast, xorL_nil]
  rfl

theorem ctrBlocks_nil (n v : Nat) : ctrBlocks [] n v = [] := by
  induction n generalizing v with
  | zero => rfl
  | succ n ih => rw [ctrBlocks, aes_nil, ih]; rfl

/-- A DRBG without a key stays without one when it is reseeded. -/
theorem drbgReseed_key_nil (d : Drbg) (entropy : Bytes) (h : d.key = []) : (drbgReseed d entropy).key = [] := by
  have hnone : xorBytes (ctrBlocks d.key 3 (fromBE d.v)) (blockDf entropy) = [] := by
    rw [h, ctrBlocks_nil]
    rfl
  exact congrArg (List.take 32) hnone

theorem drbgOut_key_nil (d : Drbg) (n : Nat) (h : d.key = []) : drbgOut d n = [] := by
  rw [drbgOut, h, ctrBlocks_nil, List.take_nil]

/-! ### RANDOM without the wake slice -/

/-- A RANDOM of one byte with prediction resistance. -/
def randomFlight : Flight :=
  { ring := 0, era := 0, ten := 0, party := 0, func := 0, raw := BitVec.ofNat 512 (2 ^ 192 + 2 ^ 32 + 0x0B00), hrSlot := 0, trSlot := 0, stamp := 0,
    tAdm := 0, epochAdm := 0, lsn := 0 }

/-- The part in Parked without the wake slice, the sources healthy, and that RANDOM accepted. -/
def parkedRandom : State :=
  { State.reset with
    sys := { State.reset.sys with ready := true }
    pwr := { State.reset.pwr with vaon := true, mode := .parked, railGood := 0 }
    sec := { State.reset.sec with rng := .running, drbg := {} }
    host := { State.reset.host with flights := [randomFlight] } }

/-- The bytes that an output writes to host memory. -/
def hostBytes : Out → Nat
  | .hostWrite _ _ data => data.length
  | _ => 0

theorem random_writes_one : ∃ t, exec (.random 0 true) parkedRandom = .next t ∧ t.outs.map hostBytes = [1] :=
  ⟨_, rfl, by decide +kernel⟩

theorem randomFlight_ready : Ready 0x0B00 0 randomFlight parkedRandom :=
  ⟨rfl, by decide, by decide +kernel, rfl, rfl, by decide, by decide, by decide +kernel⟩

/-- Refutes O39: a reseed needs healthy sources alone, and a draw the wake slice too, so that in Parked without it a RANDOM with prediction
resistance writes bytes that the DRBG has not made. -/
theorem not_randomSource : ¬ Obligations.RandomSource := by
  unfold Obligations.RandomSource
  rintro ⟨-, hres, -⟩
  obtain ⟨t, ht, -, -, -, -, houts⟩ := hres 0 randomFlight parkedRandom _ randomFlight_ready (by decide +kernel) (by decide)
    (by decide) rfl
  obtain ⟨u, hu, hone⟩ := random_writes_one
  cases hu.symm.trans ht
  have hkey : (reseed (leaveQueue 0 (started 0 parkedRandom))).sec.drbg.key = [] := drbgReseed_key_nil _ _ rfl
  rw [houts, drbgOut_key_nil _ _ hkey] at hone
  exact absurd hone (by decide)

end Sys2Proof.Machine

/-! Checks and hashes (O38): what a check answers, and an engine that fails. -/

namespace Sys2Proof.Machine

@[simp] theorem changeUnit_sec (kind : Nat) (ix : Nat) (u : UnitSt) (code : Nat) (sev : Nat) (action : Nat) (detail : Nat) (arg : Nat) : (changeUnit kind ix u code sev action detail arg s).sec = s.sec := (changeUnit_frame (.refl _ s) (within_refl _) kind ix u code sev action detail arg).sec rfl

variable {r : Nat} {f g : Flight} {d : Bytes} {s : State}

/-! ### The fate of a check -/

/-- A check that holds ends DONE, and one that does not ends AUTH_FAIL with its code (R534). -/
theorem settle_pkeFate (hg : getFlight s r = some g) (hn : g.fate = none) (code : Nat) (degraded : Bool) :
    (code = 0 → Done r 0 (settle r (pkeFate code degraded) s)) ∧ (code ≠ 0 → Ended r fAuth code code (settle r (pkeFate code degraded) s)) := by
  have h := settle_ended hg hn (pkeFate code degraded)
  constructor <;> intro hc
  · rw [pkeFate, if_pos hc] at h ⊢
    exact h
  · rw [pkeFate, if_neg hc] at h ⊢
    exact h

/-- The state in which a check of descriptor `r` has run with its code. -/
def judged (r code : Nat) (s : State) : State := pkeRan code (atStage r 0x01 0 (started r s))

/-- What the end of a check leaves: one more run of the engine, its code, and the fate. -/
theorem settle_judged (h : Ready opc r f s) (code : Nat) (degraded : Bool) :
    (settle r (pkeFate code degraded) (judged r code s)).sec.cntPke = s.sec.cntPke + 1 ∧
    (settle r (pkeFate code degraded) (judged r code s)).sec.pkeLast = BitVec.ofNat 8 code ∧
    (code = 0 → Done r 0 (settle r (pkeFate code degraded) (judged r code s))) ∧
    (code ≠ 0 → Ended r fAuth code code (settle r (pkeFate code degraded) (judged r code s))) := by
  have hflight : getFlight (judged r code s) r = _ := getFlight_atStage (s := started r s) h.begun
  rw [settle_sec]
  exact ⟨rfl, rfl, settle_pkeFate hflight h.noFate code degraded⟩

/-! ### The clauses -/

theorem execPkeVerify_judges (h : Ready 0x0A00 r f s) (hup : pkeUp s = true) (hhash : fieldLE f.raw 25 1 = 1 ∨ hashUp s = true) (d : Bytes) :
    ∃ degraded, exec (.pkeVerify r (.ok d)) s = .next (settle r (pkeFate
      (pkVerify (fieldLE f.raw 24 1) (slice (slice d 0 (dLen f.raw)) 0 97) (slice (slice d 0 (dLen f.raw)) 100 96)
        ((slice d 0 (dLen f.raw)).drop 228) (fieldLE f.raw 25 1 == 1)) degraded)
      (judged r (pkVerify (fieldLE f.raw 24 1) (slice (slice d 0 (dLen f.raw)) 0 97) (slice (slice d 0 (dLen f.raw)) 100 96)
        ((slice d 0 (dLen f.raw)).drop 228) (fieldLE f.raw 25 1 == 1)) s)) := by
  have hup' : pkeUp (started r s) = true := hup
  have hhash' : fieldLE f.raw 25 1 = 1 ∨ hashUp (started r s) = true := hhash
  refine ⟨_, congrArg Host.Outcome.next ((startOp_ready h _).trans ((if_neg ?_).trans (withRead_ok _ _ _)))⟩
  rw [hup']
  obtain hd | hs := hhash'
  · simp [hd]
  · simp [hs]

theorem execPointCheck_judges (h : Ready 0x0A01 r f s) (hup : pkeUp s = true) (d : Bytes) :
    exec (.pointCheck r (.ok d)) s = .next (settle r (pkeFate (pointCheck (fieldLE f.raw 24 1) (slice d 0 97)) false)
      (judged r (pointCheck (fieldLE f.raw 24 1) (slice d 0 97)) s)) := by
  have hup' : pkeUp (started r s) = true := hup
  exact congrArg Host.Outcome.next ((startOp_ready h _).trans ((if_neg (by rw [hup']; simp)).trans (withRead_ok _ _ _)))

theorem execPkeVerify_engineOut (h : Ready 0x0A00 r f s) (hup : pkeUp s = false) (rd : HostRead) : ∃ t,
    exec (.pkeVerify r rd) s = .next t ∧ Ended r fDevice 0 0x29 t := by
  have hup' : pkeUp (started r s) = false := hup
  exact ⟨_, congrArg Host.Outcome.next ((startOp_ready h _).trans (if_pos (by rw [hup']; rfl))), h.settle_ended (failFate fDevice 0x29)⟩

theorem execPointCheck_engineOut (h : Ready 0x0A01 r f s) (hup : pkeUp s = false) (rd : HostRead) : ∃ t,
    exec (.pointCheck r rd) s = .next t ∧ Ended r fDevice 0 0x29 t := by
  have hup' : pkeUp (started r s) = false := hup
  exact ⟨_, congrArg Host.Outcome.next ((startOp_ready h _).trans (if_pos (by rw [hup']; rfl))), h.settle_ended (failFate fDevice 0x29)⟩

theorem execHash_writes (h : Ready 0x0A02 r f s) (hup : hashUp s = true) (d : Bytes) : ∃ t,
    exec (.hash r (.ok d) true) s = .next t ∧ Done r 0 t ∧
    t.outs = s.outs ++ [Out.hostWrite (rangeOf f 1).func (rangeOf f 1).addr
      (slice (if fieldLE f.raw 24 1 = 1 then sha256 (slice d 0 (dLen f.raw)) else sha384 (slice d 0 (dLen f.raw))) 0 48)] := by
  have hup' : hashUp (started r s) = true := hup
  have hflight : getFlight (atStage r 0x01 0 (started r s)) r = _ := getFlight_atStage h.begun
  exact ⟨_, congrArg Host.Outcome.next ((startOp_ready h _).trans ((if_neg (by rw [hup']; simp)).trans (withRead_ok _ _ _))),
    writeAndSettle_ended hflight h.noFate 1 _ { done 0 with degraded := hashDegraded (started r s) }⟩

theorem execHashEngineFault_out (e : Fin 2) (hup : unitSt s uHash e.val = .up) : ∃ t, exec (.hashEngineFault e) s = .next t ∧
    unitSt t uHash e.val = .out ∧ t.sec = { s.sec with rngEvents := setBits s.sec.rngEvents 4 } := by
  refine ⟨_, congrArg Host.Outcome.next (if_pos hup), ?_, ?_⟩
  · rw [outOfService, if_pos hup]
    exact unitSt_changeUnit_same _ _ _ _ _ _ _ _
  · rw [outOfService, if_pos hup, modSec, changeUnit_sec]

theorem execPublicKeyEngineFault_out (hup : unitSt s uPke 0 = .up) : ∃ t, exec .publicKeyEngineFault s = .next t ∧ unitSt t uPke 0 = .out ∧
    pkeUp t = false := by
  have hout : unitSt (outOfService uPke 0 0x02 sLost 0 s) uPke 0 = .out := by
    rw [outOfService, if_pos hup]
    exact unitSt_changeUnit_same _ _ _ _ _ _ _ _
  exact ⟨_, rfl, hout, by rw [pkeUp, hout]; rfl⟩

/-- Settles O38. -/
theorem checksAndHashes : Obligations.ChecksAndHashes := by
  refine ⟨?_, ?_, ?_, fun r d f s h hup => execHash_writes h hup d, fun e s hup => execHashEngineFault_out e hup,
    fun s hup => execPublicKeyEngineFault_out hup⟩
  · rintro r code d f s h hup hhash rfl
    obtain ⟨degraded, hexec⟩ := execPkeVerify_judges h hup hhash d
    exact ⟨_, hexec, settle_judged h _ degraded⟩
  · rintro r code d f s h hup rfl
    exact ⟨_, execPointCheck_judges h hup d, settle_judged h _ false⟩
  · exact fun r rd f s hup => ⟨fun h => execPkeVerify_engineOut h hup rd, fun h => execPointCheck_engineOut h hup rd⟩

end Sys2Proof.Machine

/-! Cipher lanes (O36): faults, retests, retirement and thermal removal. -/

namespace Sys2Proof.Machine

@[simp] theorem retireLane_flights (l : Nat) (code : Nat) (fault : Nat) : (retireLane l code fault s).host.flights = s.host.flights := (retireLane_frame (.refl _ s) (within_refl _) l code fault).flights rfl
@[simp] theorem changeUnit_flights (kind : Nat) (ix : Nat) (u : UnitSt) (code : Nat) (sev : Nat) (action : Nat) (detail : Nat) (arg : Nat) : (changeUnit kind ix u code sev action detail arg s).host.flights = s.host.flights := (changeUnit_frame (.refl _ s) (within_refl _) kind ix u code sev action detail arg).flights rfl

variable {s t : State} {i k l r : Nat}

/-! ### Lanes -/

theorem Shaped.lanes (h : Shaped s) (l : Fin 20) : l.val < s.sec.lanes.length := by
  have hlen : s.sec.lanes.length = 20 := congrArg Counts.lanes h
  rw [hlen]
  exact l.isLt

theorem length_lanes_modLane (l : Nat) (f : Lane → Lane) (s : State) : (modLane l f s).sec.lanes.length = s.sec.lanes.length := length_modAt _ _ _

theorem getLane_modLane_same (f : Lane → Lane) (h : l < s.sec.lanes.length) : getLane (modLane l f s) l = f (getLane s l) := nth_modAt_same _ _ f h

theorem mem_lanesIn {st : LaneSt} (h : k ∈ lanesIn s st) : k < 20 ∧ (getLane s k).st = st := by
  obtain ⟨hk, hst⟩ := List.mem_filter.mp h
  exact ⟨List.mem_range.mp hk, beq_iff_eq.mp hst⟩

theorem mem_spare_of_coolestSpare (h : coolestSpare s = some k) : k < 20 ∧ (getLane s k).st = .spare := by
  refine mem_lanesIn ((foldl_choose_mem (fun best x => ?_) _ h).resolve_left (by simp))
  cases best with
  | none => exact Or.inl rfl
  | some b =>
    dsimp only
    split
    · exact Or.inl rfl
    · exact Or.inr rfl

/-- The choice of a spare looks at the spares alone. -/
theorem coolestSpare_congr (hst : ∀ i, ((getLane t i).st == .spare) = ((getLane s i).st == .spare)) (htemp : ∀ i, (getLane t i).temp = (getLane s i).temp) :
    coolestSpare t = coolestSpare s := by
  unfold coolestSpare lanesIn
  simp only [hst, htemp]

/-- A lane in service that goes out of it changes no choice of a spare. -/
theorem coolestSpare_modLane (f : Lane → Lane) (hs : (getLane s l).st ≠ .spare) (hf : ∀ x, (f x).st ≠ .spare) (htemp : ∀ x, (f x).temp = x.temp) :
    coolestSpare (modLane l f s) = coolestSpare s := by
  have hlane : ∀ i, (i = l ∧ getLane (modLane l f s) i = f (getLane s l)) ∨ getLane (modLane l f s) i = getLane s i := fun i => by
    by_cases hi : i = l
    · by_cases hlen : l < s.sec.lanes.length
      · exact Or.inl ⟨hi, (congrArg _ hi).trans (getLane_modLane_same f hlen)⟩
      · exact Or.inr ((nth_modAt ..).trans (if_neg fun h => hlen (by rw [h.1]; exact h.2)))
    · exact Or.inr (getLane_modLane_of_ne f hi)
  refine coolestSpare_congr (fun i => ?_) (fun i => ?_)
  · obtain ⟨rfl, h⟩ | h := hlane i
    · rw [h, beq_eq_false_iff_ne.mpr (hf _), beq_eq_false_iff_ne.mpr hs]
    · rw [h]
  · obtain ⟨rfl, h⟩ | h := hlane i
    · rw [h, htemp]
    · rw [h]

/-! ### Retirement -/

theorem getLane_changeUnit (kind n : Nat) (x : UnitSt) (code sev action detail arg : Nat) :
    getLane (changeUnit kind n x code sev action detail arg s) i = getLane s i := getLane_of_sec (changeUnit_sec ..)

/-- A retired lane is out and stays out. -/
theorem retireLane_out (hl : l < s.sec.lanes.length) (code fault : Nat) : (getLane (retireLane l code fault s) l).st = .out ∧
    (getLane (retireLane l code fault s) l).kept = true ∧ unitSt (retireLane l code fault s) uLane l = .retired := by
  unfold retireLane
  extract_lets s₁
  have hlane : getLane s₁ l = { getLane s l with st := .out, fault := fault, kept := true } := getLane_modLane_same _ hl
  cases hspare : coolestSpare s₁ with
  | none =>
    dsimp only
    rw [getLane_changeUnit, hlane]
    exact ⟨rfl, rfl, unitSt_changeUnit_same ..⟩
  | some k =>
    have hne : l ≠ k := by
      rintro rfl
      have hst := (mem_spare_of_coolestSpare hspare).2
      rw [hlane] at hst
      cases hst
    dsimp only
    rw [getLane_changeUnit, getLane_modLane_of_ne _ hne, hlane]
    exact ⟨rfl, rfl, unitSt_changeUnit_same ..⟩

/-- A spare that is there comes in for it. -/
theorem retireLane_spare (hlen : s.sec.lanes.length = 20) (hne : (getLane s l).st ≠ .spare) (hspare : coolestSpare s = some k) (code fault : Nat) :
    getLane (retireLane l code fault s) k = { getLane s k with st := .active, wasSpare := true } := by
  obtain ⟨hk, hst⟩ := mem_spare_of_coolestSpare hspare
  have hkl : k ≠ l := fun h => hne (h ▸ hst)
  have hsame : coolestSpare (modLane l (fun x => { x with st := .out, fault := fault, kept := true }) s) = some k :=
    (coolestSpare_modLane (fun x => { x with st := .out, fault := fault, kept := true }) hne (fun _ => by simp) fun _ => rfl).trans hspare
  unfold retireLane
  dsimp only
  rw [hsame]
  dsimp only
  rw [getLane_changeUnit, getLane_modLane_same _ (by rw [length_lanes_modLane, hlen]; exact hk), getLane_modLane_of_ne _ hkl]

/-! ### The clauses -/

/-- The state in which a fault of a lane stands: the lane tests, and the fault is counted. -/
def laneTesting (l : Nat) (op : Option Nat) (s : State) : State :=
  keyEvent 2 (moveWork op (modLane l (fun x => { x with
    st := .test, fault := 1, faults := recentTimes (monoUs s) (getLane s l).faults ++ [monoUs s] }) s))

theorem execLaneFault_active {l : Fin 20} (h : (getLane s l.val).st = .active) (op : Option Nat) : exec (.laneFault l op) s =
    .next (if 3 ≤ (recentTimes (monoUs s) (getLane s l.val).faults ++ [monoUs s]).length then
      retireLane l.val 0x02 1 (laneTesting l.val op s) else changeUnit uLane l.val .out 0x02 sInfo 0x02 0 0 (laneTesting l.val op s)) := by
  refine congrArg Host.Outcome.next ?_
  dsimp only
  rw [h]
  rfl

theorem execLaneFault_tests {l : Fin 20} (hs : Shaped s) (h : (getLane s l.val).st = .active)
    (hfew : (recentTimes (monoUs s) (getLane s l.val).faults).length < 2) : ∃ t, exec (.laneFault l none) s = .next t ∧
    unitSt t uLane l.val = .out ∧ t.sec.keyEvents = setBits s.sec.keyEvents 2 ∧ getLane t l.val = { getLane s l.val with
      st := .test, fault := 1, faults := recentTimes (monoUs s) (getLane s l.val).faults ++ [monoUs s] } := by
  refine ⟨_, (execLaneFault_active h none).trans (congrArg Host.Outcome.next (if_neg ?_)), unitSt_changeUnit_same .., ?_, ?_⟩
  · rw [List.length_append, List.length_singleton]
    omega
  · rw [changeUnit_sec]
    rfl
  · rw [getLane_changeUnit]
    exact getLane_modLane_same _ (hs.lanes l)

theorem execLaneFault_moves {l : Fin 20} {f : Flight} (h : (getLane s l.val).st = .active) (hf : getFlight s r = some f) (hn : f.fate = none)
    (hpoll : s.radio.poll.any (fun p => pollOp p.kind == some r) = false) : ∃ t, exec (.laneFault l (some r)) s = .next t ∧
    getFlight t r = some { f with laneMoved := true } := by
  have hmoved : getFlight (laneTesting l.val (some r) s) r = some { f with laneMoved := true } := by
    unfold laneTesting moveWork
    dsimp only
    rw [if_neg (by exact Bool.eq_false_iff.mp hpoll)]
    show getFlight (modFlight r _ _) r = _
    rw [getFlight_modFlight, if_pos rfl]
    show Option.map _ (getFlight s r) = _
    rw [hf, Option.map_some, hn]
    rfl
  refine ⟨_, execLaneFault_active h (some r), ?_⟩
  split
  · rw [getFlight_of_host (retireLane_flights ..), hmoved]
  · rw [getFlight_of_host (changeUnit_flights ..), hmoved]

theorem execLaneFault_retires {l : Fin 20} (hs : Shaped s) (h : (getLane s l.val).st = .active)
    (hmany : 2 ≤ (recentTimes (monoUs s) (getLane s l.val).faults).length) (hspare : coolestSpare s = some k) : ∃ t,
    exec (.laneFault l none) s = .next t ∧ unitSt t uLane l.val = .retired ∧ (getLane t l.val).st = .out ∧ (getLane t l.val).kept = true ∧
    getLane t k = { getLane s k with st := .active, wasSpare := true } := by
  have hlen : (laneTesting l.val none s).sec.lanes.length = s.sec.lanes.length := length_lanes_modLane _ _ s
  have hlane : getLane (laneTesting l.val none s) l.val = _ := getLane_modLane_same _ (hs.lanes l)
  have hspare' : coolestSpare (laneTesting l.val none s) = some k :=
    (coolestSpare_modLane (s := s) (l := l.val) (fun x => { x with
      st := .test, fault := 1, faults := recentTimes (monoUs s) (getLane s l.val).faults ++ [monoUs s] })
      (by rw [h]; simp) (fun _ => by simp) fun _ => rfl).trans hspare
  have hk : k ≠ l.val := by
    rintro rfl
    have hst := (mem_spare_of_coolestSpare hspare).2
    rw [h] at hst
    cases hst
  have hother : getLane (laneTesting l.val none s) k = getLane s k := getLane_modLane_of_ne (s := s) _ hk
  obtain ⟨hst, hkept, hunit⟩ := retireLane_out (s := laneTesting l.val none s) (by rw [hlen]; exact hs.lanes l) 0x02 1
  refine ⟨_, (execLaneFault_active h none).trans (congrArg Host.Outcome.next (if_pos ?_)), hunit, hst, hkept, ?_⟩
  · rw [List.length_append, List.length_singleton]
    omega
  · rw [retireLane_spare (hlen.trans (congrArg Counts.lanes hs)) (by rw [hlane]; simp) hspare', hother]

theorem unitSt_backInService (kind n : Nat) : unitSt (backInService kind n s) kind n = .up := by
  unfold backInService
  split
  · assumption
  · exact unitSt_changeUnit_same ..

theorem getLane_backInService (kind n : Nat) : getLane (backInService kind n s) i = getLane s i := by
  unfold backInService
  split
  · rfl
  · exact getLane_changeUnit ..

theorem execLaneRetest_judges {l : Fin 20} (hs : Shaped s) (h : (getLane s l.val).st = .test) (hkept : (getLane s l.val).kept = false) : ∃ t u,
    exec (.laneRetest l true) s = .next t ∧ exec (.laneRetest l false) s = .next u ∧
    getLane t l.val = { getLane s l.val with st := .active, fault := 0 } ∧ unitSt t uLane l.val = .up ∧
    (getLane u l.val).st = .out ∧ (getLane u l.val).kept = true ∧ unitSt u uLane l.val = .retired := by
  have hcond : ((getLane s l.val).st == .test && !(getLane s l.val).kept) = true := by
    rw [h, hkept]
    rfl
  obtain ⟨hout, hkept', hunit⟩ := retireLane_out (hs.lanes l) 0x07 2
  refine ⟨_, _, congrArg Host.Outcome.next (if_pos hcond), congrArg Host.Outcome.next (if_pos hcond), ?_, unitSt_backInService ..,
    hout, hkept', hunit⟩
  exact (getLane_backInService ..).trans (getLane_modLane_same _ (hs.lanes l))

theorem execLaneOverheat_out {l : Fin 20} (hs : Shaped s) (h : (getLane s l.val).st = .active) : ∃ t, exec (.laneOverheat l) s = .next t ∧
    getLane t l.val = { getLane s l.val with st := .out, fault := 3, temp := 132 } ∧ unitSt t uLane l.val = .out := by
  refine ⟨changeUnit uLane l.val .out 0x02 sDegraded 0x04 0 132
    (modLane l.val (fun x => { x with st := .out, fault := 3, temp := 132 }) s), congrArg Host.Outcome.next ?_, ?_, unitSt_changeUnit_same ..⟩
  · rw [h]
    rfl
  · exact (getLane_changeUnit ..).trans (getLane_modLane_same _ (hs.lanes l))

theorem execLaneCooled_returns {l : Fin 20} {temp : Int} (hs : Shaped s) (hst : (getLane s l.val).st = .out) (hfault : (getLane s l.val).fault = 3)
    (hkept : (getLane s l.val).kept = false) (htemp : temp ≤ 122) : ∃ t, exec (.laneCooled l temp) s = .next t ∧
    getLane t l.val = { getLane s l.val with st := .active, fault := 0, temp := temp } ∧ unitSt t uLane l.val = .up := by
  refine ⟨_, congrArg Host.Outcome.next (if_pos ?_), ?_, unitSt_backInService ..⟩
  · rw [hst, hfault, hkept, decide_eq_true htemp]
    rfl
  · refine (getLane_backInService ..).trans ((getLane_modLane_same _ ?_).trans ?_)
    · rw [length_lanes_modLane]
      exact hs.lanes l
    · rw [getLane_modLane_same _ (hs.lanes l)]

/-- Settles O36. -/
theorem cipherLanes : Obligations.CipherLanes :=
  ⟨fun _ _ hs h hfew => execLaneFault_tests hs h hfew, fun _ _ _ _ h hf hn hpoll => execLaneFault_moves h hf hn hpoll,
    fun _ _ _ hs h hmany hspare => execLaneFault_retires hs h hmany hspare, fun _ _ hs h hkept => execLaneRetest_judges hs h hkept,
    fun _ _ hs h => execLaneOverheat_out hs h, fun _ _ _ hs hst hfault hkept htemp => execLaneCooled_returns hs hst hfault hkept htemp⟩

end Sys2Proof.Machine

/-! Hearth downloads (O43), on the slots' layer: what writing a slot changes and leaves. -/

namespace Sys2Proof.Machine


variable {s t u : State} {b : Bool}

/-! ### Slots -/

theorem getSlot_of_upd (ha : t.upd.a = s.upd.a) (hb : t.upd.b = s.upd.b) : getSlot t b = getSlot s b := by
  rw [getSlot, getSlot, ha, hb]

theorem getSlot_modUpd_same (b : Bool) (f : Slot → Slot) (g : Upd → Upd) (h : (g s.upd).a = (withSlot b f s.upd).a)
    (h' : (g s.upd).b = (withSlot b f s.upd).b) : getSlot (modUpd g s) b = f (getSlot s b) := by
  cases b
  · exact h
  · exact h'

theorem getSlot_modUpd_other (b : Bool) (f : Slot → Slot) (g : Upd → Upd) (h : (g s.upd).a = (withSlot b f s.upd).a)
    (h' : (g s.upd).b = (withSlot b f s.upd).b) : getSlot (modUpd g s) (!b) = getSlot s (!b) := by
  cases b
  · exact h'
  · exact h

@[simp] theorem withSlot_hearth (b : Bool) (f : Slot → Slot) (u : Upd) : (withSlot b f u).hearth = u.hearth := by cases b <;> rfl
@[simp] theorem withSlot_events (b : Bool) (f : Slot → Slot) (u : Upd) : (withSlot b f u).events = u.events := by cases b <;> rfl

theorem getSlot_putBlock_same (i : Nat) (data : Bytes) :
    getSlot (putBlock b i data s) b = { getSlot s b with blocks := tabPut (getSlot s b).blocks i data } :=
  getSlot_modUpd_same b _ _ rfl rfl

theorem getSlot_putBlock_other (i : Nat) (data : Bytes) : getSlot (putBlock b i data s) (!b) = getSlot s (!b) :=
  getSlot_modUpd_other b (fun x => { x with blocks := tabPut x.blocks i data }) _ rfl rfl

theorem getSlot_slotState_same (st : SlotSt) : getSlot (slotState b st s) b = { getSlot s b with st := st } := getSlot_modUpd_same b _ _ rfl rfl

theorem getSlot_slotState_other (st : SlotSt) : getSlot (slotState b st s) (!b) = getSlot s (!b) :=
  getSlot_modUpd_other b (fun x => { x with st := st }) _ rfl rfl

theorem getSlot_beginSlot_same (h : Bytes) :
    getSlot (beginSlot b h s) b = { getSlot s b with st := .staging, ver := hVer h, headId := headIdOf h, blocks := [] } :=
  getSlot_modUpd_same b _ _ rfl rfl

theorem getSlot_beginSlot_other (h : Bytes) : getSlot (beginSlot b h s) (!b) = getSlot s (!b) :=
  getSlot_modUpd_other b (fun x => { x with st := .staging, ver := hVer h, headId := headIdOf h, blocks := [] }) _ rfl rfl

/-! ### Writing blocks -/

/-- Writing the blocks of a slot leaves whatever writing one leaves. -/
theorem writeBlocks_same {α : Type} (p : State → α) (b : Bool) (hp : ∀ i data s, p (putBlock b i data s) = p s) (bs : List Bytes) (n : Nat) (s : State) :
    p (writeBlocks b bs n s) = p s := by
  unfold writeBlocks
  exact each_same p _ _ (fun (e : Nat × Bytes) t => hp e.1 e.2 t) s

theorem writeBlocks_st (bs : List Bytes) (n : Nat) : (getSlot (writeBlocks b bs n s) b).st = (getSlot s b).st :=
  writeBlocks_same (fun s => (getSlot s b).st) b (fun i data s => by
    show (getSlot (putBlock b i data s) b).st = _
    rw [getSlot_putBlock_same]) bs n s

theorem writeBlocks_ver (bs : List Bytes) (n : Nat) : (getSlot (writeBlocks b bs n s) b).ver = (getSlot s b).ver :=
  writeBlocks_same (fun s => (getSlot s b).ver) b (fun i data s => by
    show (getSlot (putBlock b i data s) b).ver = _
    rw [getSlot_putBlock_same]) bs n s

theorem writeBlocks_headId (bs : List Bytes) (n : Nat) : (getSlot (writeBlocks b bs n s) b).headId = (getSlot s b).headId :=
  writeBlocks_same (fun s => (getSlot s b).headId) b (fun i data s => by
    show (getSlot (putBlock b i data s) b).headId = _
    rw [getSlot_putBlock_same]) bs n s

theorem writeBlocks_other (bs : List Bytes) (n : Nat) : getSlot (writeBlocks b bs n s) (!b) = getSlot s (!b) :=
  writeBlocks_same (fun s => getSlot s (!b)) b (fun i data _ => getSlot_putBlock_other i data) bs n s

theorem writeBlocks_hearth (bs : List Bytes) (n : Nat) : (writeBlocks b bs n s).upd.hearth = s.upd.hearth :=
  writeBlocks_same (fun s => s.upd.hearth) b (fun _ _ _ => withSlot_hearth _ _ _) bs n s

theorem writeBlocks_seq (bs : List Bytes) (n : Nat) : (writeBlocks b bs n s).upd.seq = s.upd.seq :=
  writeBlocks_same (fun s => s.upd.seq) b (fun _ _ _ => withSlot_seq _ _ _) bs n s

theorem writeBlocks_events (bs : List Bytes) (n : Nat) : (writeBlocks b bs n s).upd.events = s.upd.events :=
  writeBlocks_same (fun s => s.upd.events) b (fun _ _ _ => withSlot_events _ _ _) bs n s

theorem writeBlocks_outs (bs : List Bytes) (n : Nat) : (writeBlocks b bs n s).outs = s.outs :=
  writeBlocks_same State.outs b (fun _ _ _ => rfl) bs n s

theorem writeBlocks_pwr (bs : List Bytes) (n : Nat) : (writeBlocks b bs n s).pwr = s.pwr :=
  writeBlocks_same State.pwr b (fun _ _ _ => rfl) bs n s

/-! ### A download -/

/-- A line on the UART is sent where its rail is good. -/
theorem uartLine_eq (n : Nat) (s : State) : uartLine n s = { s with outs := s.outs ++ if vio18 s then [Out.uart n] else [] } := by
  unfold uartLine
  cases vio18 s with
  | true => rfl
  | false => exact congrArg (fun o => { s with outs := o }) (List.append_nil s.outs).symm

theorem beginHearth_eq (used total : Nat) (s : State) : beginHearth used total s = { s with
    upd := { s.upd with hearth := { s.upd.hearth with
      st := 1, used := used, detail := 0, blocks := 0, slotB := hearthSlot s, total := total, got := [] } }
    outs := s.outs ++ if vio18 s then [Out.uart 1] else [] } := by
  rw [beginHearth, uartLine_eq]
  rfl

theorem hearthCheck_eq (s : State) : hearthCheck s = { s with
    upd := { s.upd with hearth := { s.upd.hearth with st := 2 } }, outs := s.outs ++ if vio18 s then [Out.uart 2] else [] } := by
  rw [hearthCheck, uartLine_eq]
  rfl

theorem getSlot_hearthCheck (s : State) (b : Bool) : getSlot (hearthCheck s) b = getSlot s b := by
  rw [hearthCheck_eq]
  rfl

theorem uart_append (c : Bool) (l : List Out) (m n : Nat) :
    (l ++ if c then [Out.uart m] else []) ++ (if c then [Out.uart n] else []) = l ++ if c then [Out.uart m, Out.uart n] else [] := by
  cases c <;> simp

/-- The download's bytes stand in its slot, which is STAGING; the rest of the download is as it was. -/
theorem fillSlot_fills (data : Bytes) (hb : b = s.upd.hearth.slotB) : (getSlot (fillSlot data s) b).st = .staging ∧
    (getSlot (fillSlot data s) b).headId = headIdOf (slice data 0 65536) ∧ (fillSlot data s).outs = s.outs ∧ (fillSlot data s).pwr = s.pwr ∧
    (fillSlot data s).upd.hearth = { s.upd.hearth with blocks := (imageBlocks data).length } := by
  subst hb
  have hfill : fillSlot data s = modUpd (fun u => { u with hearth := { u.hearth with blocks := (imageBlocks data).length } })
    (writeBlocks s.upd.hearth.slotB (imageBlocks data) (imageBlocks data).length (beginSlot s.upd.hearth.slotB (slice data 0 65536) s)) := rfl
  have hslot : ∀ x : State, getSlot (modUpd (fun u => { u with hearth := { u.hearth with blocks := (imageBlocks data).length } }) x) s.upd.hearth.slotB =
    getSlot x s.upd.hearth.slotB := fun _ => rfl
  rw [hfill, hslot]
  refine ⟨?_, ?_, ?_, ?_, ?_⟩
  · rw [writeBlocks_st, getSlot_beginSlot_same]
  · rw [writeBlocks_headId, getSlot_beginSlot_same]
  · exact writeBlocks_outs _ _
  · exact writeBlocks_pwr _ _
  · show { (writeBlocks _ _ _ _).upd.hearth with blocks := (imageBlocks data).length } = _
    rw [writeBlocks_hearth]
    show { (withSlot _ _ s.upd).hearth with blocks := (imageBlocks data).length } = _
    rw [withSlot_hearth]

theorem startSlot_hearth (s : State) : (startSlot s).upd.hearth = s.upd.hearth := withSlot_hearth _ _ _

/-! ### The registers -/

theorem hearthGo_begins {func : Fin 64} {v : BitVec 32} (hregs : hearthRegs s func.val = true) (hv : v.getLsbD 0 = true) (hbusy : hearthBusy s = false)
    (hsrc : s.upd.hearth.src.toNat % 4096 = 0) (hrecv : s.upd.recv = none) :
    hearthGo func.val v s = beginHearth 0 s.upd.hearth.len.toNat s ∧ hostLoading (beginHearth 0 s.upd.hearth.len.toNat s) func.val = true := by
  have hmay : mayGo s func.val v = true := by
    unfold mayGo
    rw [hregs, hv, hbusy, hsrc, hrecv]
    rfl
  have hregs' : hearthRegs (beginHearth 0 s.upd.hearth.len.toNat s) func.val = true := by
    rw [beginHearth_eq]
    exact hregs
  refine ⟨by rw [hearthGo, hmay]; rfl, ?_⟩
  rw [hostLoading, hregs', beginHearth_eq]
  rfl

theorem execUpdHearthGo_loads {func : Fin 64} {v : BitVec 32} (hregs : hearthRegs s func.val = true) (hv : v.getLsbD 0 = true)
    (hbusy : hearthBusy s = false) (hsrc : s.upd.hearth.src.toNat % 4096 = 0) (hrecv : s.upd.recv = none) (d : Bytes) : ∃ t,
    exec (.updHearthGo func v (.ok d)) s = .next t ∧ t.upd.hearth.st = 2 ∧ t.upd.hearth.used = 0 ∧
    t.upd.hearth.slotB = hearthSlot s ∧ t.upd.hearth.total = s.upd.hearth.len.toNat ∧ (getSlot t (hearthSlot s)).st = .staging ∧
    (getSlot t (hearthSlot s)).headId = headIdOf (slice (slice d 0 s.upd.hearth.len.toNat) 0 65536) ∧
    t.outs = s.outs ++ (if vio18 s then [Out.uart 1, Out.uart 2] else []) := by
  obtain ⟨hgo, hload⟩ := hearthGo_begins hregs hv hbusy hsrc hrecv
  have hbegun := beginHearth_eq 0 s.upd.hearth.len.toNat s
  generalize hx : beginHearth 0 s.upd.hearth.len.toNat s = x at hgo hload hbegun
  have htotal : x.upd.hearth.total = s.upd.hearth.len.toNat := by rw [hbegun]
  have hslot : hearthSlot s = x.upd.hearth.slotB := by rw [hbegun]
  have houts : x.outs = s.outs ++ if vio18 s then [Out.uart 1] else [] := by rw [hbegun]
  have hvio : vio18 x = vio18 s := by rw [hbegun]; rfl
  have hused : x.upd.hearth.used = 0 := by rw [hbegun]
  obtain ⟨hst, hhead, hout, hpwr, hhearth⟩ := fillSlot_fills (slice d 0 s.upd.hearth.len.toNat) hslot
  have hvio' : vio18 (fillSlot (slice d 0 s.upd.hearth.len.toNat) x) = vio18 s := by rw [vio18, hpwr, ← hvio]; rfl
  refine ⟨hearthCheck (fillSlot (slice d 0 s.upd.hearth.len.toNat) x), congrArg Host.Outcome.next ?_, ?_⟩
  · rw [hgo]
    refine (if_pos hload).trans ?_
    rw [htotal]
    rfl
  · rw [getSlot_hearthCheck, hearthCheck_eq]
    generalize fillSlot (slice d 0 s.upd.hearth.len.toNat) x = y at *
    refine ⟨rfl, (congrArg Hearth.used hhearth).trans hused, (congrArg Hearth.slotB hhearth).trans hslot.symm, (congrArg Hearth.total hhearth).trans htotal,
      hst, hhead, ?_⟩
    rw [hout, hvio', houts, uart_append]

theorem execUpdHearthGo_fails {func : Fin 64} {v : BitVec 32} (hregs : hearthRegs s func.val = true) (hv : v.getLsbD 0 = true)
    (hbusy : hearthBusy s = false) (hsrc : s.upd.hearth.src.toNat % 4096 = 0) (hrecv : s.upd.recv = none) : ∃ t,
    exec (.updHearthGo func v .failed) s = .next t ∧ t.upd.hearth.st = 3 ∧ t.upd.hearth.detail = 0x11 ∧
    (getSlot t (hearthSlot s)).st = .bad ∧ t.outs = s.outs ++ (if vio18 s then [Out.uart 1, Out.uart 3] else []) := by
  obtain ⟨hgo, hload⟩ := hearthGo_begins hregs hv hbusy hsrc hrecv
  have hbegun := beginHearth_eq 0 s.upd.hearth.len.toNat s
  generalize hx : beginHearth 0 s.upd.hearth.len.toNat s = x at hgo hload hbegun
  have hslot : hearthSlot s = (startSlot x).upd.hearth.slotB := by rw [startSlot_hearth, hbegun]
  refine ⟨hearthFails 0x11 true (startSlot x), congrArg Host.Outcome.next ?_, ?_⟩
  · rw [hgo]
    refine (if_pos hload).trans ?_
    rfl
  · rw [hearthFails, if_pos rfl, uartLine_eq, ← hslot]
    refine ⟨rfl, rfl, congrArg Slot.st (getSlot_slotState_same (s := startSlot x) (b := hearthSlot s) .bad), ?_⟩
    have hvio : vio18 x = vio18 s := by rw [hbegun]; rfl
    have houts : x.outs = s.outs ++ if vio18 s then [Out.uart 1] else [] := by rw [hbegun]
    show x.outs ++ (if vio18 x then [Out.uart 3] else []) = _
    rw [houts, hvio, uart_append]

theorem execUpdHearthRevert_checks {func : Fin 64} {v : BitVec 32} (hregs : hearthRegs s func.val = true) (hv : v.getLsbD 1 = true)
    (hbusy : hearthBusy s = false) (hrecv : s.upd.recv = none) (hstandby : standbySlot s = some b) : ∃ t,
    exec (.updHearthRevert func v) s = .next t ∧ t.upd.hearth.st = 2 ∧ t.upd.hearth.used = 3 ∧ t.upd.hearth.slotB = b ∧
    t.upd.a = s.upd.a ∧ t.upd.b = s.upd.b ∧ t.outs = s.outs ++ (if vio18 s then [Out.uart 1, Out.uart 2] else []) := by
  refine ⟨hearthCheck (modUpd (fun u => { u with hearth := { u.hearth with slotB := b } }) (beginHearth 3 0 s)), congrArg Host.Outcome.next ?_, ?_⟩
  · rw [hstandby]
    refine if_pos ?_
    rw [hregs, hv, hbusy, hrecv]
    rfl
  · rw [hearthCheck_eq, beginHearth_eq]
    refine ⟨rfl, rfl, rfl, rfl, rfl, ?_⟩
    exact uart_append (vio18 s) s.outs 1 2

/-! ### The CAN tool -/

theorem execHearthCanFrame_of {ident : BitVec 32} {m : Bytes} (hport : hearthPort s pCan 0 = true) (hid : ident.toNat = toolId) (hlen : m.length = 64) :
    ¬(!hearthPort s pCan 0 || ident.toNat != toolId || m.length != 64) = true := by
  rw [hport, hid, hlen]
  simp

theorem execHearthCanFrame_begins {ident : BitVec 32} {m : Bytes} (hport : hearthPort s pCan 0 = true) (hid : ident.toNat = toolId)
    (hlen : m.length = 64) (hop : byteAt m 0 = 1) (hbusy : hearthBusy s = false) (hrecv : s.upd.recv = none) : ∃ t,
    exec (.hearthCanFrame ident m) s = .next t ∧ t.upd.hearth.st = 1 ∧ t.upd.hearth.used = 1 ∧ t.upd.hearth.total = beAt m 4 4 ∧
    t.upd.hearth.got = [] ∧ t.upd.hearth.canAt = monoUs s ∧ (getSlot t (hearthSlot s)).st = .staging ∧
    t.outs = s.outs ++ (if vio18 s then [Out.uart 1] else []) := by
  have hbegun := beginHearth_eq 1 (beAt m 4 4) s
  generalize hx : beginHearth 1 (beAt m 4 4) s = x at hbegun
  have hexec : exec (.hearthCanFrame ident m) s = .next (startSlot (modUpd (fun u => { u with hearth := { u.hearth with canAt := monoUs x } }) x)) := by
    refine congrArg Host.Outcome.next ((if_neg (execHearthCanFrame_of hport hid hlen)).trans ?_)
    dsimp only
    rw [if_pos hop, if_neg (by rw [hbusy, hrecv]; simp), hx]
  have hmono : monoUs x = monoUs s := by rw [hbegun]; rfl
  have hhearth : (startSlot (modUpd (fun u => { u with hearth := { u.hearth with canAt := monoUs x } }) x)).upd.hearth =
      { x.upd.hearth with canAt := monoUs s } := by
    rw [← hmono]
    exact withSlot_hearth _ _ _
  refine ⟨_, hexec, ?_⟩
  rw [hhearth, hbegun]
  exact ⟨rfl, rfl, rfl, rfl, rfl, congrArg Slot.st (getSlot_modUpd_same (hearthSlot s) _ _ rfl rfl), rfl⟩

theorem execHearthCanFrame_data {ident : BitVec 32} {m : Bytes} (hport : hearthPort s pCan 0 = true) (hid : ident.toNat = toolId)
    (hlen : m.length = 64) (hop : byteAt m 0 = 2) (hload : canLoading s = true) (hat : 60 * beAt m 1 3 ≤ s.upd.hearth.got.length) :
    exec (.hearthCanFrame ident m) s = .next (modUpd (fun u =>
      let got := (u.hearth.got.take (60 * beAt m 1 3) ++ slice m 4 60 ++ u.hearth.got.drop (60 * beAt m 1 3 + 60)).take u.hearth.total
      { u with hearth := { u.hearth with got := got, blocks := got.length / 65536 } }) s) := by
  refine congrArg Host.Outcome.next ((if_neg (execHearthCanFrame_of hport hid hlen)).trans ?_)
  dsimp only
  rw [hop, hload]
  exact if_pos hat

theorem execHearthCanFrame_short {ident : BitVec 32} {m : Bytes} (hport : hearthPort s pCan 0 = true) (hid : ident.toNat = toolId)
    (hlen : m.length = 64) (hop : byteAt m 0 = 3) (hload : canLoading s = true) (hgot : s.upd.hearth.got.length ≠ s.upd.hearth.total) : ∃ t,
    exec (.hearthCanFrame ident m) s = .next t ∧ t.upd.hearth = { s.upd.hearth with canAt := monoUs s } ∧
    t.outs = s.outs ++ [Out.can 0 partId (le 1 0x81 ++ zeros 3 ++ be 4 s.upd.hearth.got.length ++ le 1 1 ++ zeros 55)] := by
  have hst : s.upd.hearth.st = 1 := by
    simp only [canLoading, Bool.and_eq_true, beq_iff_eq] at hload
    exact hload.1.2
  refine ⟨hearthAnswer s, congrArg Host.Outcome.next ((if_neg (execHearthCanFrame_of hport hid hlen)).trans ?_), rfl, ?_⟩
  · dsimp only
    rw [hop, hload]
    exact if_neg hgot
  · show s.outs ++ [Out.can 0 partId (_ ++ le 1 s.upd.hearth.st ++ _)] = _
    rw [hst]

theorem execHearthCanStatus_answers (hport : hearthPort s pCan 0 = true) (hused : s.upd.hearth.used = 1) (hst : s.upd.hearth.st ≠ 0) : ∃ t u,
    exec .hearthCanStatus s = .next t ∧ u = elapseTo (s.upd.hearth.canAt + 100000) s ∧
    t.upd.hearth = { s.upd.hearth with canAt := monoUs t } ∧ s.upd.hearth.canAt + 100000 ≤ monoUs t ∧
    t.outs = u.outs ++ [Out.can 0 partId (le 1 0x81 ++ zeros 3 ++ be 4 s.upd.hearth.got.length ++ le 1 s.upd.hearth.st ++ zeros 55)] := by
  have hupd : (elapseTo (s.upd.hearth.canAt + 100000) s).upd.hearth = s.upd.hearth := congrArg Upd.hearth (elapseTo_upd _)
  have htime := le_monoUs_elapseTo (s := s) (s.upd.hearth.canAt + 100000)
  refine ⟨hearthAnswer (elapseTo (s.upd.hearth.canAt + 100000) s), _, congrArg Host.Outcome.next (if_pos ?_), rfl, ?_⟩
  · rw [hport, hused, bne_iff_ne.mpr hst]
    rfl
  · generalize elapseTo (s.upd.hearth.canAt + 100000) s = u at hupd htime
    exact ⟨by rw [← hupd]; rfl, htime, by rw [← hupd]; rfl⟩

/-! ### The end of the checks -/

theorem coldReset_upd (s : State) : (coldReset s).upd = resetUpd s.upd := by
  obtain ⟨u, hu, h⟩ := resetBlocks_eq true s
  show (resetBlocks true s).upd = _
  rw [h, ← hu.upd rfl]

theorem fullReset_upd (cause : Nat) (s : State) : (fullReset cause s).upd = resetUpd s.upd := by
  rw [fullReset, startUp_upd, pickPair_upd, coldReset_upd]

theorem execHearthDownloadEnd_fails {fl : FlashResult} {d : Nat} (hmode : s.pwr.mode = .hearth) (hst : s.upd.hearth.st = 2)
    (hjudge : hearthJudge s fl = some d) : ∃ t, exec (.hearthDownloadEnd fl) s = .next t ∧ t.upd.hearth.st = 3 ∧
    t.upd.hearth.detail = d ∧ (getSlot t s.upd.hearth.slotB).st = .bad ∧ t.pwr.mode = .hearth ∧
    t.outs = s.outs ++ (if vio18 s then [Out.uart 3] else []) := by
  refine ⟨hearthFails d true s, congrArg Host.Outcome.next ?_, ?_⟩
  · refine (if_pos (by rw [hmode, hst]; rfl)).trans ?_
    rw [hjudge]
  · rw [hearthFails, if_pos rfl, uartLine_eq]
    exact ⟨rfl, rfl, congrArg Slot.st (getSlot_slotState_same (s := s) (b := s.upd.hearth.slotB) .bad), hmode, rfl⟩

/-- The journal entry with which a download that has passed is tried. -/
def downloadTried (b : Bool) : State → State :=
  journal (fun u => withSlot (!b) (fun y => { y with st := if y.st = .active then .standby else y.st })
    { withSlot b (fun y => { y with st := .trial }) u with boot := b, tries := 0 })

theorem downloadTried_upd (b : Bool) (s : State) : (getSlot (downloadTried b s) b).st = .trial ∧ (downloadTried b s).upd.boot = b ∧
    (downloadTried b s).upd.tries = 0 := by
  cases b <;> exact ⟨rfl, rfl, rfl⟩

theorem execHearthDownloadEnd_passes (hmode : s.pwr.mode = .hearth) (hst : s.upd.hearth.st = 2) (hjudge : hearthJudge s .ok = none) : ∃ t,
    exec (.hearthDownloadEnd .ok) s = .next t ∧ (getSlot t s.upd.hearth.slotB).st = .trial ∧ t.upd.boot = s.upd.hearth.slotB ∧
    t.upd.tries = 0 ∧ t.sys.resetCause = 8 ∧ t.pwr.mode = .cab ∧ t.sys.ready = false := by
  obtain ⟨htrial, hboot, htries⟩ := downloadTried_upd s.upd.hearth.slotB s
  have hdone : (uartLine 4 (modUpd (fun u => { u with hearth := { u.hearth with st := 4 } }) (downloadTried s.upd.hearth.slotB s))).upd =
      { (downloadTried s.upd.hearth.slotB s).upd with hearth := { (downloadTried s.upd.hearth.slotB s).upd.hearth with st := 4 } } := by
    rw [uartLine_eq]
    rfl
  refine ⟨fullReset 0x8 (uartLine 4 (modUpd (fun u => { u with hearth := { u.hearth with st := 4 } }) (downloadTried s.upd.hearth.slotB s))),
    congrArg Host.Outcome.next ?_, ?_⟩
  · refine (if_pos (by rw [hmode, hst]; rfl)).trans ?_
    rw [hjudge]
    rfl
  · generalize uartLine 4 _ = y at hdone
    obtain ⟨hready, hcause⟩ := fullReset_sys 0x8 y
    have ha : (fullReset 0x8 y).upd.a = (downloadTried s.upd.hearth.slotB s).upd.a := by rw [fullReset_upd, resetUpd, hdone]
    have hb : (fullReset 0x8 y).upd.b = (downloadTried s.upd.hearth.slotB s).upd.b := by rw [fullReset_upd, resetUpd, hdone]
    refine ⟨(congrArg Slot.st (getSlot_of_upd ha hb)).trans htrial, ?_, ?_, hcause, (fullReset_pwr 0x8 y).1, hready⟩
    · rw [fullReset_upd, resetUpd, hdone]
      exact hboot
    · rw [fullReset_upd, resetUpd, hdone]
      exact htries

/-- Settles O43. -/
theorem hearthDownloads : Obligations.HearthDownloads := by
  refine ⟨?_, fun _ _ _ hregs hv hbusy hsrc hrecv => execUpdHearthGo_fails hregs hv hbusy hsrc hrecv,
    fun _ _ _ _ hregs hv hbusy hrecv hst => execUpdHearthRevert_checks hregs hv hbusy hrecv hst,
    fun _ _ _ hport hid hlen hop hbusy hrecv => execHearthCanFrame_begins hport hid hlen hop hbusy hrecv, ?_,
    fun _ _ _ hport hid hlen hop hload hgot => execHearthCanFrame_short hport hid hlen hop hload hgot,
    fun _ hport hused hst => execHearthCanStatus_answers hport hused hst,
    fun _ _ _ hmode hst hjudge => execHearthDownloadEnd_fails hmode hst hjudge,
    fun _ hmode hst hjudge => execHearthDownloadEnd_passes hmode hst hjudge⟩
  · rintro func v d data s hregs hv hbusy hsrc hrecv rfl
    exact execUpdHearthGo_loads hregs hv hbusy hsrc hrecv d
  · rintro ident m got s hport hid hlen hop hload hat rfl
    exact ⟨_, execHearthCanFrame_data hport hid hlen hop hload hat, rfl, rfl, rfl⟩

end Sys2Proof.Machine

/-! Key handles and blobs (O34): how a handle is made, imported, exported and closed. -/

namespace Sys2Proof.Machine

@[simp] theorem tryLog_sec (k : LKind) : (tryLog k s).sec = s.sec := (tryLog_frame (.refl _ s) (within_refl _) k).sec rfl

variable {opc r h slot : Nat} {c : Instr} {f g : Flight} {k : Handle} {d : Bytes} {s x : State}

/-! ### The engine's turn -/

/-- A KEY operation whose turn has come leaves the queue of the DRBG and begins. -/
theorem keyOp_ready (hr : Ready opc r f s) (hsec : secReady s = true) (hturn : drawTurn r s = true) (body : Flight → State → State) :
    keyOp opc r body s = body f (leaveQueue r (started r s)) := by
  have hdraw : canDraw s = true := (Bool.and_eq_true _ _ ▸ hsec : _ ∧ _).2
  rw [keyOp, if_neg (by rw [hdraw]; simp), if_pos (by rw [hsec, hturn]; rfl), startOp_ready hr]

/-- What the operation's flight reads then. -/
theorem Ready.queued (hr : Ready opc r f s) : getFlight (leaveQueue r (started r s)) r = some { f with begun := true } := hr.begun

theorem withKey_ok (hfind : findHandle x r f.ten h = .ok k) (hcur : keyCurrent x k = true) (body : Handle → State → State) :
    withKey r f h body x = body k x := by
  rw [withKey, hfind]
  exact if_pos hcur

/-! ### Draws -/

/-- The SEC block without what a draw changes. -/
def drawless (b : Sec) : Sec := { b with drbg := {}, cond := [], condAt := 0, rng := .init, reseeds := 0, reseedAt := 0 }

/-- A draw changes the DRBG, the conditioner and the free values alone. -/
theorem drew_gives (q : RngQueue) (n : Nat) (s : State) : ∃ b m, drew q n s = { s with sec := b, free := m } ∧ drawless b = drawless s.sec := by
  unfold drew readied onlyIf
  cases canDraw s with
  | false => exact ⟨_, _, rfl, rfl⟩
  | true =>
    cases reseedDue s && canReseed s
    · exact ⟨_, _, rfl, rfl⟩
    · exact ⟨_, _, rfl, rfl⟩

/-! ### Making a handle -/

/-- A free slot and a record in the ledger make the handle, and its number is the result. -/
theorem makeHandle_makes (hg : getFlight x r = some g) (hn : g.fate = none) (hslot : freeSlot x = some slot)
    (hh : h = f.ten * 2 ^ 38 + nextGen x slot * 65536 + slot)
    (hlog : canLog (handleRecord x h { k with starterGen := x.sec.starterGen, created := monoUs x } true) x = true) :
    Done r h (makeHandle r f k x) ∧
    tabFind (makeHandle r f k x).sec.handles h = some { k with starterGen := x.sec.starterGen, created := monoUs x } ∧
    tabFind (makeHandle r f k x).sec.slotGen slot = some (nextGen x slot) := by
  subst hh
  unfold makeHandle
  rw [hslot]
  dsimp only
  rw [if_pos hlog, settle_sec]
  exact ⟨settle_done (by exact hg) hn _, tabFind_tabPut_same _ _ _, tabFind_tabPut_same _ _ _⟩

/-- A handle made in the state in which its operation has begun. -/
theorem Ready.makes (hr : Ready opc r f s) (hslot : freeSlot s = some slot) (hh : h = f.ten * 2 ^ 38 + nextGen s slot * 65536 + slot)
    (hlog : canLog (handleRecord s h { k with starterGen := s.sec.starterGen, created := monoUs s } true) s = true) :
    Done r h (makeHandle r f k (leaveQueue r (started r s))) ∧
    tabFind (makeHandle r f k (leaveQueue r (started r s))).sec.handles h = some { k with starterGen := s.sec.starterGen, created := monoUs s } ∧
    tabFind (makeHandle r f k (leaveQueue r (started r s))).sec.slotGen slot = some (nextGen s slot) :=
  makeHandle_makes (x := leaveQueue r (started r s)) hr.queued hr.noFate hslot hh hlog

/-! ### KEY_ROOT, KEY_DERIVE -/

/-- The handle of a root, by the number of the root (R513). -/
def rootOf (s : State) (f : Flight) : Handle :=
  if fieldLE f.raw 24 1 = 0 then rootHandle (tenancyRoot s f.rules) 1 0 0xFF
  else if fieldLE f.raw 24 1 = 1 then rootHandle (tokenNode s) 2 1 0x54 else rootHandle (frameNode s) 2 2 0x44

theorem execKeyRoot_makes (hr : Ready 0x0800 r f s) (hsec : secReady s = true) (hturn : drawTurn r s = true) (hvault : vaultOk s = true)
    (hparty : fieldLE f.raw 24 1 ≠ 0 → f.party ≤ 1) :
    exec (.keyRoot r) s = .next (makeHandle r f (rootOf s f) (leaveQueue r (started r s))) := by
  have hvault' : vaultOk (leaveQueue r (started r s)) = true := hvault
  refine congrArg Host.Outcome.next ((keyOp_ready hr hsec hturn _).trans ?_)
  dsimp only
  rw [if_neg (by
    simp only [Bool.and_eq_true, bne_iff_ne, decide_eq_true_eq, not_and]
    exact fun hroot => Nat.not_lt.mpr (hparty hroot)), if_neg (by rw [hvault']; simp)]
  unfold rootOf
  split
  · rfl
  · split <;> rfl

theorem execKeyRoot_refuses (hr : Ready 0x0800 r f s) (hsec : secReady s = true) (hturn : drawTurn r s = true)
    (hroot : fieldLE f.raw 24 1 ≠ 0) (hparty : 1 < f.party) : ∃ t,
    exec (.keyRoot r) s = .next t ∧ Ended r fPolicy 0 0x24 t ∧ t.sec.handles = s.sec.handles := by
  refine ⟨settle r (failFate fPolicy 0x24) (leaveQueue r (started r s)), congrArg Host.Outcome.next ((keyOp_ready hr hsec hturn _).trans ?_),
    settle_fail hr.queued hr.noFate _ _ _, ?_⟩
  · exact if_pos (by simp [hroot, hparty])
  · rw [settle_sec]
    rfl

theorem execKeyDerive_makes {p : Handle} (hr : Ready 0x0801 r f s) (hsec : secReady s = true) (hturn : drawTurn r s = true)
    (hfind : findHandle s r f.ten (fieldLE f.raw 24 8) = .ok p) (hcur : keyCurrent s p = true) (huse : p.usage.getLsbD uDerive = true)
    (hlevel : p.level < 8) (husage : within (BitVec.ofNat 8 (fieldLE f.raw 32 1)) p.childMask = true)
    (hchild : within (BitVec.ofNat 8 (fieldLE f.raw 33 1)) p.childMask = true) (d : Bytes) :
    exec (.keyDerive r (.ok d)) s = .next (makeHandle r f (deriveChild p (slice d 0 32) (BitVec.ofNat 8 (fieldLE f.raw 32 1))
      (BitVec.ofNat 8 (fieldLE f.raw 33 1)) (fieldLE f.raw 34 1)) (leaveQueue r (started r s))) := by
  refine congrArg Host.Outcome.next ((keyOp_ready hr hsec hturn _).trans ?_)
  rw [withKey_ok (x := leaveQueue r (started r s)) hfind hcur, if_neg (by rw [huse]; simp), if_neg (Nat.not_le.mpr hlevel),
    if_neg (by rw [husage, hchild]; simp), withRead_ok]

theorem execKeyDerive_refuses {p : Handle} (hr : Ready 0x0801 r f s) (hsec : secReady s = true) (hturn : drawTurn r s = true)
    (hfind : findHandle s r f.ten (fieldLE f.raw 24 8) = .ok p) (hcur : keyCurrent s p = true) (huse : p.usage.getLsbD uDerive = false)
    (d : Bytes) : ∃ t, exec (.keyDerive r (.ok d)) s = .next t ∧ Ended r fPolicy 0 0x22 t ∧ t.sec.handles = s.sec.handles := by
  refine ⟨settle r (failFate fPolicy 0x22) (leaveQueue r (started r s)), congrArg Host.Outcome.next ((keyOp_ready hr hsec hturn _).trans ?_),
    settle_fail hr.queued hr.noFate _ _ _, ?_⟩
  · rw [withKey_ok (x := leaveQueue r (started r s)) hfind hcur, if_pos (by rw [huse]; rfl)]
  · rw [settle_sec]
    rfl

/-! ### KEY_IMPORT -/

/-- The handle that an accepted blob holds. -/
def importedKey (f : Flight) (key : Bytes) : Handle :=
  { key := key, level := 2, usage := BitVec.ofNat 8 (fieldLE f.raw 40 1), childMask := BitVec.ofNat 8 (fieldLE f.raw 41 1), origin := 3,
    subtree := 0, starterGen := 0, created := 0 }

theorem importWith_makes {blob kek key : Bytes}
    (hkey : keyUnwrap kek (slice blob (32 + epkLen (byteAt blob 5)) (byteAt blob 6 + 8)) = some key) (hlen : key.length = byteAt blob 6)
    (husage : within (BitVec.ofNat 8 (fieldLE f.raw 40 1)) (BitVec.ofNat 8 (byteAt blob 7)) = true)
    (hchild : within (BitVec.ofNat 8 (fieldLE f.raw 41 1)) (BitVec.ofNat 8 (byteAt blob 8)) = true) :
    importWith r f blob kek x = makeHandle r f (importedKey f key) x := by
  unfold importWith
  dsimp only
  rw [hkey]
  dsimp only
  rw [if_neg (by rw [hlen]; simp), if_neg (by rw [husage, hchild]; simp)]
  rfl

theorem execKeyImport_wrapped {blob key : Bytes} (hr : Ready 0x0802 r f s) (hsec : secReady s = true) (hturn : drawTurn r s = true)
    (hhash : hashUp s = true) (hblob : blob = slice d 0 (dLen f.raw)) (hok : blobOk blob (dLen f.raw) = true) (huid : slice blob 16 16 = uidBytes s)
    (hkind : byteAt blob 5 = 1) (hfind : findHandle s r f.ten (fieldLE f.raw 32 8) = .ok k) (hcur : keyCurrent s k = true)
    (huse : k.usage.getLsbD uWrap = true) (hkey : keyUnwrap (kekOf k.key (slice blob 0 32)) (slice blob 32 (byteAt blob 6 + 8)) = some key)
    (hlen : key.length = byteAt blob 6) (husage : within (BitVec.ofNat 8 (fieldLE f.raw 40 1)) (BitVec.ofNat 8 (byteAt blob 7)) = true)
    (hchild : within (BitVec.ofNat 8 (fieldLE f.raw 41 1)) (BitVec.ofNat 8 (byteAt blob 8)) = true) :
    exec (.keyImport r (.ok d)) s = .next (makeHandle r f (importedKey f key) (leaveQueue r (started r s))) := by
  have hhash' : hashUp (leaveQueue r (started r s)) = true := hhash
  have huid' : slice blob 16 16 = uidBytes (leaveQueue r (started r s)) := huid
  have hepk : epkLen (byteAt blob 5) = 0 := by rw [hkind]; rfl
  refine congrArg Host.Outcome.next ((keyOp_ready hr hsec hturn _).trans ?_)
  dsimp only
  rw [withRead_ok, ← hblob, if_neg (by rw [hok, hkind]; simp), if_neg (by rw [hhash', hkind]; simp), if_neg (by rw [← huid']; simp),
    if_pos hkind, withKey_ok (x := leaveQueue r (started r s)) hfind hcur, if_pos huse, hepk]
  exact importWith_makes (by rw [hepk]; exact hkey) hlen husage hchild

theorem execKeyImport_agreed {blob key epk : Bytes} (hr : Ready 0x0802 r f s) (hsec : secReady s = true) (hturn : drawTurn r s = true)
    (hhash : hashUp s = true) (hpke : pkeUp s = true) (hblob : blob = slice d 0 (dLen f.raw)) (hok : blobOk blob (dLen f.raw) = true)
    (huid : slice blob 16 16 = uidBytes s) (hkind : byteAt blob 5 ≠ 1) (hkek : fieldLE f.raw 32 8 = 0) (hvault : vaultOk s = true)
    (hepk : epk = slice blob 32 (epkLen (byteAt blob 5))) (hpoint : pointCheck (kindCurve (byteAt blob 5)) epk = 0)
    (hkey : keyUnwrap (kekOfZ (importZ s f.rules (byteAt blob 5) epk) (slice blob 0 (32 + epkLen (byteAt blob 5))))
      (slice blob (32 + epkLen (byteAt blob 5)) (byteAt blob 6 + 8)) = some key)
    (hlen : key.length = byteAt blob 6) (husage : within (BitVec.ofNat 8 (fieldLE f.raw 40 1)) (BitVec.ofNat 8 (byteAt blob 7)) = true)
    (hchild : within (BitVec.ofNat 8 (fieldLE f.raw 41 1)) (BitVec.ofNat 8 (byteAt blob 8)) = true) :
    exec (.keyImport r (.ok d)) s = .next (makeHandle r f (importedKey f key) (pkeRan 0 (leaveQueue r (started r s)))) := by
  have hhash' : hashUp (leaveQueue r (started r s)) = true := hhash
  have hpke' : pkeUp (leaveQueue r (started r s)) = true := hpke
  have hvault' : vaultOk (leaveQueue r (started r s)) = true := hvault
  have huid' : slice blob 16 16 = uidBytes (leaveQueue r (started r s)) := huid
  subst hepk
  refine congrArg Host.Outcome.next ((keyOp_ready hr hsec hturn _).trans ?_)
  dsimp only
  rw [withRead_ok, ← hblob, if_neg (by rw [hok, hkek]; simp), if_neg (by rw [hhash', hpke']; simp), if_neg (by rw [← huid']; simp),
    if_neg hkind, if_neg (by rw [hvault']; simp), hpoint, if_neg (by simp)]
  exact importWith_makes hkey hlen husage hchild

/-! ### KEY_EXPORT -/

/-- The record of a KEY_EXPORT's release. -/
def exportRecord (f : Flight) (s : State) : LKind :=
  .part (stampPart { kind := 0x14, ten := f.ten, seq := dSeq f.raw, unit := 1, tid := 0, count := handleSlot (fieldLE f.raw 24 8) } s)

/-- A KEY_EXPORT that its release allows: the blob goes to the host behind one more record, and its length is the result. -/
theorem exportBlob_writes (hg : getFlight x r = some g) (hn : g.fate = none) (hallow : releaseAllowed x f (fieldLE f.raw 24 8) = true)
    (hcommit : commitHolds f true x = true) (hlog : canLog (exportRecord f x) x = true) (header kek : Bytes) :
    Done r (header ++ keyWrap kek k.key).length (exportBlob r f k header kek true x) ∧
    x.led.lsn + 1 ≤ (exportBlob r f k header kek true x).led.lsn ∧
    (exportBlob r f k header kek true x).outs =
      x.outs ++ [Out.hostWrite (rangeOf f 1).func ((rangeOf f 1).addr + 128) (slice (header ++ keyWrap kek k.key) 0 128)] := by
  have hrel : exportBlob r f k header kek true x = settle r (done (header ++ keyWrap kek k.key).length)
      (emit (.hostWrite (rangeOf f 1).func ((rangeOf f 1).addr + 128) (slice (header ++ keyWrap kek k.key) 0 128))
        (atStage r 0x02 0 (logRec (exportRecord f x) x))) := by
    unfold exportBlob keyRelease commitPoint
    rw [if_pos hallow, if_pos hcommit]
    exact if_pos hlog
  have hflight : getFlight (atStage r 0x02 0 (logRec (exportRecord f x) x)) r = some { g with stage := 0x02, units := 0 } :=
    getFlight_atStage (s := logRec (exportRecord f x) x) hg
  have hlsn : (atStage r 0x02 0 (logRec (exportRecord f x) x)).led.lsn = x.led.lsn + 1 := rfl
  have houts : (atStage r 0x02 0 (logRec (exportRecord f x) x)).outs = x.outs := rfl
  rw [hrel]
  generalize atStage r 0x02 0 (logRec (exportRecord f x) x) = y at hflight hlsn houts
  refine ⟨settle_done (s := emit _ y) hflight hn _, ?_, ?_⟩
  · rw [← hlsn]
    exact (settle_keeps (Keeps.refl (emit _ y)) _ _).lsn
  · rw [settle_outs, ← houts]
    rfl

theorem execKeyExport_wrapped {kek : Handle} {area head : Bytes} (hr : Ready 0x0803 r f s) (hsec : secReady s = true) (hturn : drawTurn r s = true)
    (hhash : hashUp s = true) (hkind : fieldLE f.raw 40 1 = 1) (hfind : findHandle s r f.ten (fieldLE f.raw 24 8) = .ok k)
    (hcur : keyCurrent s k = true) (huse : k.usage.getLsbD uExport = true) (hfind' : findHandle s r f.ten (fieldLE f.raw 32 8) = .ok kek)
    (hcur' : keyCurrent s kek = true) (huse' : kek.usage.getLsbD uWrap = true) (harea : area = slice d 0 128)
    (hhead : head = blobHeader 1 k (slice area 0 16)) :
    exec (.keyExport r (.ok d) true) s = .next (exportBlob r f k head (kekOf kek.key head) true (leaveQueue r (started r s))) := by
  have hhash' : hashUp (leaveQueue r (started r s)) = true := hhash
  refine congrArg Host.Outcome.next ((keyOp_ready hr hsec hturn _).trans ?_)
  dsimp only
  rw [withKey_ok (x := leaveQueue r (started r s)) hfind hcur, if_neg (by rw [huse]; simp), if_neg (by rw [hhash', hkind]; simp), withRead_ok,
    if_pos hkind, withKey_ok (x := leaveQueue r (started r s)) hfind' hcur', if_pos huse', hkind, hhead, harea]

/-- The state in which a KEY_EXPORT with a fresh key pair commits. -/
def agreedState (r : Nat) (f : Flight) (s : State) : State :=
  pkeRan 0 (pkeRan 0 (drew .pke (if fieldLE f.raw 40 1 = 2 then 32 else 48) (leaveQueue r (started r s))))

theorem execKeyExport_agreed {area head : Bytes} {e : Bytes × Bytes} (hr : Ready 0x0803 r f s) (hsec : secReady s = true) (hturn : drawTurn r s = true)
    (hhash : hashUp s = true) (hpke : pkeUp s = true) (hkind : fieldLE f.raw 40 1 ≠ 1)
    (hfind : findHandle s r f.ten (fieldLE f.raw 24 8) = .ok k) (hcur : keyCurrent s k = true) (huse : k.usage.getLsbD uExport = true)
    (harea : area = slice d 0 128)
    (hpoint : pointCheck (kindCurve (fieldLE f.raw 40 1)) (slice area 16 (epkLen (fieldLE f.raw 40 1))) = 0)
    (he : e = ephemeral (leaveQueue r (started r s)) (fieldLE f.raw 40 1) (slice area 16 (epkLen (fieldLE f.raw 40 1))))
    (hhead : head = blobHeader (fieldLE f.raw 40 1) k (slice area 0 16) ++ e.1) :
    exec (.keyExport r (.ok d) true) s = .next (exportBlob r f k head (kekOfZ e.2 head) true (agreedState r f s)) := by
  have hhash' : hashUp (leaveQueue r (started r s)) = true := hhash
  have hpke' : pkeUp (leaveQueue r (started r s)) = true := hpke
  refine congrArg Host.Outcome.next ((keyOp_ready hr hsec hturn _).trans ?_)
  dsimp only
  rw [withKey_ok (x := leaveQueue r (started r s)) hfind hcur, if_neg (by rw [huse]; simp), if_neg (by rw [hhash', hpke']; simp), withRead_ok,
    if_neg hkind, ← harea, hpoint, if_neg (by simp), hhead, he]
  rfl

/-! ### KEY_CLOSE, KEY_INFO, KEY_PUBLIC -/

/-- An open handle that is closed says which descriptors still go on using it. -/
theorem closeHandle_closes (hk : tabFind x.sec.handles h = some k) (hopen : k.closed = none) :
    tabFind (closeHandle h x).sec.handles h = some { k with closed := some x.host.flights.length } ∧
    (closeHandle h x).host.flights = x.host.flights := by
  unfold closeHandle
  rw [hk]
  dsimp only
  rw [if_neg (by rw [hopen]; simp), tryLog_sec, tryLog_flights]
  exact ⟨tabFind_tabPut_same _ _ _, rfl⟩

theorem execKeyClose_closes (hr : Ready 0x0804 r f s) (hh : h = fieldLE f.raw 24 8) (hten : handleTen h = f.ten)
    (hk : tabFind s.sec.handles h = some k) (hopen : k.closed = none) : ∃ t, exec (.keyClose r) s = .next t ∧ Done r 0 t ∧
    tabFind t.sec.handles h = some { k with closed := some s.host.flights.length } := by
  subst hh
  have hfind : findHandle (started r s) r f.ten (fieldLE f.raw 24 8) = .ok k := by
    have hk' : tabFind (started r s).sec.handles (fieldLE f.raw 24 8) = some k := hk
    rw [findHandle, if_pos hten, hk']
    dsimp only
    rw [hopen]
    rfl
  have hlen : (started r s).host.flights.length = s.host.flights.length := length_modAt _ _ _
  obtain ⟨hclosed, hflights⟩ := closeHandle_closes (x := started r s) hk hopen
  refine ⟨settle r (done 0) (closeHandle (fieldLE f.raw 24 8) (started r s)), congrArg Host.Outcome.next ((startOp_ready hr _).trans ?_),
    settle_done ((getFlight_of_host hflights).trans hr.begun) hr.noFate _, ?_⟩
  · rw [hfind]
  · rw [settle_sec, hclosed, hlen]

theorem execKeyInfo_writes (hr : Ready 0x0805 r f s) (hfind : findHandle s r f.ten (fieldLE f.raw 24 8) = .ok k) : ∃ t,
    exec (.keyInfo r true) s = .next t ∧ Done r 0 t ∧ t.sec = s.sec ∧
    t.outs = s.outs ++ [Out.hostWrite (rangeOf f 0).func (rangeOf f 0).addr (keyInfoBytes (fieldLE f.raw 24 8) k)] := by
  have hfind' : findHandle (started r s) r f.ten (fieldLE f.raw 24 8) = .ok k := hfind
  obtain ⟨hdone, houts⟩ := hr.writes 0 (keyInfoBytes (fieldLE f.raw 24 8) k) (done 0)
  refine ⟨_, congrArg Host.Outcome.next ((startOp_ready hr _).trans ?_), hdone, ?_, houts⟩
  · rw [hfind']
  · rw [writeAndSettle_true, settle_sec]
    rfl

theorem execKeyPublic_writes (hr : Ready 0x0806 r f s) (hsec : secReady s = true) (hturn : drawTurn r s = true) (hpke : pkeUp s = true)
    (hvault : vaultOk s = true) : ∃ t, exec (.keyPublic r true) s = .next t ∧ Done r 0 t ∧ t.sec.handles = s.sec.handles ∧
    t.outs = s.outs ++ [Out.hostWrite (rangeOf f 0).func (rangeOf f 0).addr (keyPublicBytes s f.rules)] := by
  have hvault' : vaultOk (leaveQueue r (started r s)) = true := hvault
  have hpke' : pkeUp (leaveQueue r (started r s)) = true := hpke
  obtain ⟨hdone, houts⟩ := writeAndSettle_ended (f := f) (s := pkeRan 0 (pkeRan 0 (leaveQueue r (started r s)))) hr.queued hr.noFate 0
    (keyPublicBytes s f.rules) (done 0)
  refine ⟨_, congrArg Host.Outcome.next ((keyOp_ready hr hsec hturn _).trans ?_), hdone, ?_, houts⟩
  · rw [if_neg (by rw [hpke']; simp), if_pos hvault']
    rfl
  · rw [writeAndSettle_true, settle_sec]
    rfl

/-! ### The clauses -/

/-- The handle that is made is the one the statement names. -/
theorem Ready.made {k' : Handle} (hr : Ready opc r f s) (hk : k' = { k with starterGen := s.sec.starterGen, created := monoUs s })
    (hslot : freeSlot s = some slot) (hh : h = f.ten * 2 ^ 38 + nextGen s slot * 65536 + slot) (hlog : canLog (handleRecord s h k' true) s = true)
    (hexec : exec c s = .next (makeHandle r f k (leaveQueue r (started r s)))) : ∃ t,
    exec c s = .next t ∧ Done r h t ∧ tabFind t.sec.handles h = some k' := by
  subst hk
  obtain ⟨hdone, hhandle, -⟩ := hr.makes hslot hh hlog
  exact ⟨_, hexec, hdone, hhandle⟩

/-- Settles O34. -/
theorem keyHandles : Obligations.KeyHandles := by
  refine ⟨?_, fun _ _ _ hr hsec hturn hroot hparty => execKeyRoot_refuses hr hsec hturn hroot hparty, ?_,
    fun _ d _ _ _ hr hsec hturn hfind hcur huse => execKeyDerive_refuses hr hsec hturn hfind hcur huse d, ?_, ?_, ?_, ?_,
    fun _ _ _ _ _ hr hh hten hk hopen => execKeyClose_closes hr hh hten hk hopen, fun _ _ _ _ hr hfind => execKeyInfo_writes hr hfind,
    fun _ _ _ hr hsec hturn hpke hvault => execKeyPublic_writes hr hsec hturn hpke hvault⟩
  · rintro r h slot f k s hr hsec hturn hvault hparty hslot hh hlog rfl
    obtain ⟨hdone, hhandle, hgen⟩ := hr.makes (k := rootOf s f) hslot hh hlog
    exact ⟨_, execKeyRoot_makes hr hsec hturn hvault hparty, hdone, hhandle, hgen⟩
  · intro r h slot d f p k s hr hsec hturn hfind hcur huse hlevel husage hchild hk hslot hh hlog
    exact hr.made hk hslot hh hlog (execKeyDerive_makes hr hsec hturn hfind hcur huse hlevel husage hchild d)
  · intro r h slot d blob key f k x s hr hsec hturn hhash hblob hok huid hkind hfind hcur huse hkey hlen husage hchild hx hslot hh hlog
    exact hr.made hx hslot hh hlog (execKeyImport_wrapped hr hsec hturn hhash hblob hok huid hkind hfind hcur huse hkey hlen husage hchild)
  · rintro r h slot d blob key epk header f x s hr hsec hturn hhash hpke hblob hok huid hkind hkek hvault hepk hpoint rfl hkey hlen husage hchild rfl
      hslot hh hlog
    obtain ⟨hdone, hhandle, -⟩ := makeHandle_makes (k := importedKey f key) (x := pkeRan 0 (leaveQueue r (started r s))) hr.queued hr.noFate hslot hh hlog
    exact ⟨_, execKeyImport_agreed hr hsec hturn hhash hpke hblob hok huid hkind hkek hvault hepk hpoint hkey hlen husage hchild, hdone, hhandle⟩
  · rintro r d area head blob f k kek s hr hsec hturn hhash hkind hfind hcur huse hfind' hcur' huse' hallow hcommit hlog harea hhead rfl
    exact ⟨_, execKeyExport_wrapped hr hsec hturn hhash hkind hfind hcur huse hfind' hcur' huse' harea hhead,
      exportBlob_writes (x := leaveQueue r (started r s)) hr.queued hr.noFate hallow hcommit hlog head (kekOf kek.key head)⟩
  · rintro r d area head blob f k e s hr hsec hturn hhash hpke hkind hfind hcur huse harea hpoint hallow hcommit hlog he hhead rfl
    have hexec := execKeyExport_agreed hr hsec hturn hhash hpke hkind hfind hcur huse harea hpoint he hhead
    obtain ⟨b, m, hdrew, hsec'⟩ := drew_gives .pke (if fieldLE f.raw 40 1 = 2 then 32 else 48) (leaveQueue r (started r s))
    rw [agreedState, hdrew] at hexec
    have hhandles : (drawless b).handles = (drawless (leaveQueue r (started r s)).sec).handles := congrArg Sec.handles hsec'
    have hallow' : releaseAllowed (pkeRan 0 (pkeRan 0 { leaveQueue r (started r s) with sec := b, free := m })) f (fieldLE f.raw 24 8) = true := by
      unfold releaseAllowed at hallow ⊢
      rw [show (pkeRan 0 (pkeRan 0 { leaveQueue r (started r s) with sec := b, free := m })).sec.handles = s.sec.handles from hhandles]
      exact hallow
    exact ⟨_, hexec, exportBlob_writes (x := pkeRan 0 (pkeRan 0 { leaveQueue r (started r s) with sec := b, free := m })) hr.queued hr.noFate hallow' hcommit
      hlog head (kekOfZ e.2 head)⟩

end Sys2Proof.Machine

/-! Cipher operations (O35): what an operation of the CPH class writes out, and a tag that fails. -/

namespace Sys2Proof.Machine

@[simp] theorem maskLane_outs (l : Nat) (n : Nat) : (maskLane l n s).outs = s.outs := (maskLane_frame (.refl _ s) (within_refl _) l n).part .outs rfl
@[simp] theorem maskLane_flights (l : Nat) (n : Nat) : (maskLane l n s).host.flights = s.host.flights := (maskLane_frame (.refl _ s) (within_refl _) l n).flights rfl
@[simp] theorem drewIv_outs (f : Flight) : (drewIv f s).outs = s.outs := (drewIv_frame (.refl _ s) (within_refl _) f).part .outs rfl
@[simp] theorem drewIv_flights (f : Flight) : (drewIv f s).host.flights = s.host.flights := (drewIv_frame (.refl _ s) (within_refl _) f).flights rfl

variable {opc r l : Nat} {f g : Flight} {k : Handle} {d : Bytes} {s x : State}

/-! ### The lane and its masks -/

/-- The counts of the CPH class. -/
def cphCounts (s : State) : BitVec 32 × BitVec 32 := (s.sec.cntCph, s.sec.cntTagFail)

theorem cphCounts_drew (q : RngQueue) (n : Nat) (s : State) : cphCounts (drew q n s) = cphCounts s := by
  obtain ⟨b, m, h, hb⟩ := drew_gives q n s
  have hcph : (drawless b).cntCph = (drawless s.sec).cntCph := congrArg Sec.cntCph hb
  have htag : (drawless b).cntTagFail = (drawless s.sec).cntTagFail := congrArg Sec.cntTagFail hb
  rw [h]
  exact Prod.ext hcph htag

theorem cphCounts_drawSeeds (l n : Nat) (s : State) : cphCounts (drawSeeds l n s) = cphCounts s := by
  induction n generalizing s with
  | zero => rfl
  | succ n ih =>
    rw [drawSeeds, ih]
    exact cphCounts_drew _ _ _

theorem cphCounts_maskLane (l n : Nat) (s : State) : cphCounts (maskLane l n s) = cphCounts s := cphCounts_drawSeeds l _ s

theorem cphCounts_drewIv (f : Flight) (s : State) : cphCounts (drewIv f s) = cphCounts s := by
  unfold drewIv onlyIf
  split
  · exact cphCounts_drew _ _ _
  · rfl

/-- The state in which an operation has its key, its lane and its masks. -/
def laned (r l : Nat) (f : Flight) (k : Handle) (s : State) : State :=
  maskLane l (maskedBytes f k) (modFlight r (fun y => { y with spare := y.spare || (getLane s l).wasSpare }) (leaveQueue r (started r s)))

theorem laned_outs (r l : Nat) (f : Flight) (k : Handle) (s : State) : (laned r l f k s).outs = s.outs := maskLane_outs _ _

theorem cphCounts_laned (r l : Nat) (f : Flight) (k : Handle) (s : State) : cphCounts (laned r l f k s) = cphCounts s := cphCounts_maskLane _ _ _

/-- An operation on its lane has no fate yet. -/
theorem Ready.laned (hr : Ready opc r f s) (l : Nat) (k : Handle) : ∃ g, getFlight (laned r l f k s) r = some g ∧ g.fate = none := by
  refine ⟨{ f with begun := true, spare := f.spare || (getLane s l).wasSpare }, ?_, hr.noFate⟩
  rw [Machine.laned, getFlight_of_host (maskLane_flights _ _), getFlight_modFlight, if_pos rfl, hr.queued]
  rfl

/-! ### The engine's turn -/

/-- A CPH operation with a usable key and an active lane reads its input and runs. -/
theorem cphOp_runs {use : Nat} (hr : Ready opc r f s) (hsec : secReady s = true) (hturn : drawTurn r s = true)
    (hfind : findHandle s r f.ten (fieldLE f.raw 24 8) = .ok k) (hcur : keyCurrent s k = true) (huse : k.usage.getLsbD use = true)
    (hnonce : opc = 0x0900 ∨ opc = 0x0904 → cPart f = true ∨ k.usage.getLsbD uHostNonce = true) (hlane : serveLane s = some l)
    (body : Flight → Handle → Bytes → State → State) :
    cphOp opc r use (.ok d) body s = body f k (slice d 0 (dLen f.raw)) (laned r l f k s) := by
  have hdraw : canDraw s = true := (Bool.and_eq_true _ _ ▸ hsec : _ ∧ _).2
  have hlane' : serveLane (leaveQueue r (started r s)) = some l := hlane
  have hnonce' : ¬((opc == 0x0900 || opc == 0x0904) && !cPart f && !k.usage.getLsbD uHostNonce) = true := by
    simp only [Bool.and_eq_true, Bool.or_eq_true, beq_iff_eq, Bool.not_eq_true']
    rintro ⟨⟨hopc, hpart⟩, hhost⟩
    obtain h | h := hnonce hopc
    · rw [hpart] at h
      cases h
    · rw [hhost] at h
      cases h
  rw [cphOp, if_neg (by rw [hdraw]; simp), if_pos (by rw [hsec, hturn]; rfl), startOp_ready hr,
    withKey_ok (x := leaveQueue r (started r s)) hfind hcur, if_neg (by rw [huse]; simp), if_neg hnonce', hlane']
  rfl

/-! ### The ends -/

/-- The output area is written and the operation is DONE and counted. -/
theorem cphOut_writes (hg : getFlight x r = some g) (hn : g.fate = none) (out : Bytes) : Done r (payloadLen f.raw) (cphOut r f out true x) ∧
    (cphOut r f out true x).sec.cntCph = x.sec.cntCph + 1 ∧
    (cphOut r f out true x).outs = x.outs ++ [Out.hostWrite (rangeOf f 1).func (rangeOf f 1).addr out] := by
  have hdone : Done r (payloadLen f.raw) (settle r (done (payloadLen f.raw)) (culvertWrite f 1 out x)) :=
    settle_done (s := culvertWrite f 1 out x) hg hn _
  have houts : (settle r (done (payloadLen f.raw)) (culvertWrite f 1 out x)).outs = (culvertWrite f 1 out x).outs := settle_outs _
  have hcnt : (settle r (done (payloadLen f.raw)) (culvertWrite f 1 out x)).sec.cntCph = x.sec.cntCph := congrArg Sec.cntCph (settle_sec _ _)
  exact ⟨hdone, congrArg (· + 1) hcnt, houts⟩

/-- An operation on its lane writes the output of its body. -/
theorem Ready.cphWrites (hr : Ready opc r f s) (hflights : x.host.flights = (Machine.laned r l f k s).host.flights) (houts : x.outs = s.outs)
    (hcnt : cphCounts x = cphCounts s) (out : Bytes) : Done r (payloadLen f.raw) (cphOut r f out true x) ∧
    (cphOut r f out true x).sec.cntCph = s.sec.cntCph + 1 ∧
    (cphOut r f out true x).outs = s.outs ++ [Out.hostWrite (rangeOf f 1).func (rangeOf f 1).addr out] := by
  obtain ⟨g, hg, hn⟩ := hr.laned l k
  have hcph : x.sec.cntCph = s.sec.cntCph := congrArg Prod.fst hcnt
  rw [← houts, ← hcph]
  exact cphOut_writes ((getFlight_of_host hflights).trans hg) hn out

/-- A failed tag ends the operation AUTH_FAIL and is counted (R509). -/
theorem tagFail_counts (hg : getFlight x r = some g) (hn : g.fate = none) : Ended r fAuth 0 0x30 (tagFail r x) ∧
    (tagFail r x).outs = x.outs ∧ (tagFail r x).sec.cntTagFail = x.sec.cntTagFail + 1 := by
  have hended : Ended r fAuth 0 0x30 (settle r (failFate fAuth 0x30 0x02) x) := settle_fail hg hn _ _ _
  have hcnt : (settle r (failFate fAuth 0x30 0x02) x).sec.cntTagFail = x.sec.cntTagFail := congrArg Sec.cntTagFail (settle_sec _ _)
  have houts : (settle r (failFate fAuth 0x30 0x02) x).outs = x.outs := settle_outs _
  exact ⟨hended, houts, congrArg (· + 1) hcnt⟩

/-! ### The clauses -/

section
variable (hsec : secReady s = true) (hturn : drawTurn r s = true) (hfind : findHandle s r f.ten (fieldLE f.raw 24 8) = .ok k)
  (hcur : keyCurrent s k = true)
include hsec hturn hfind hcur

theorem execEncrypt_writes (hr : Ready 0x0900 r f s) (huse : k.usage.getLsbD uEnc = true) (hnonce : cPart f = true ∨ k.usage.getLsbD uHostNonce = true)
    (hlane : serveLane s = some l) {inp iv : Bytes} (hinp : inp = slice d 0 (dLen f.raw)) (hiv : iv = cphIv f inp (laned r l f k s)) : ∃ t,
    exec (.encrypt r (.ok d) true) s = .next t ∧ Done r (payloadLen f.raw) t ∧ t.sec.cntCph = s.sec.cntCph + 1 ∧
    t.outs = s.outs ++ [Out.hostWrite (rangeOf f 1).func (rangeOf f 1).addr
      (iv ++ modeEnc (cMode f) k.key iv (slice inp 16 (payloadLen f.raw)))] := by
  subst hinp hiv
  exact ⟨_, congrArg Host.Outcome.next (cphOp_runs hr hsec hturn hfind hcur huse (fun _ => hnonce) hlane _),
    hr.cphWrites (drewIv_flights f) ((drewIv_outs f).trans (laned_outs ..)) ((cphCounts_drewIv ..).trans (cphCounts_laned ..)) _⟩

theorem execEncrypt_refuses (hr : Ready 0x0900 r f s) (huse : k.usage.getLsbD uEnc = true) (hpart : cPart f = false)
    (hhost : k.usage.getLsbD uHostNonce = false) (rd : HostRead) : ∃ t, exec (.encrypt r rd true) s = .next t ∧ Ended r fPolicy 0 0x2F t ∧
    t.outs = s.outs := by
  have hdraw : canDraw s = true := (Bool.and_eq_true _ _ ▸ hsec : _ ∧ _).2
  refine ⟨settle r (failFate fPolicy 0x2F) (leaveQueue r (started r s)), congrArg Host.Outcome.next ?_, settle_fail hr.queued hr.noFate _ _ _,
    settle_outs _⟩
  rw [cphOp, if_neg (by rw [hdraw]; simp), if_pos (by rw [hsec, hturn]; rfl), startOp_ready hr,
    withKey_ok (x := leaveQueue r (started r s)) hfind hcur, if_neg (by rw [huse]; simp), if_pos (by rw [hpart, hhost]; rfl)]

theorem execDecrypt_writes (hr : Ready 0x0901 r f s) (huse : k.usage.getLsbD uDec = true) (hlane : serveLane s = some l) {inp : Bytes}
    (hinp : inp = slice d 0 (dLen f.raw)) : ∃ t, exec (.decrypt r (.ok d) true) s = .next t ∧ Done r (payloadLen f.raw) t ∧
    t.sec.cntCph = s.sec.cntCph + 1 ∧ t.outs = s.outs ++ [Out.hostWrite (rangeOf f 1).func (rangeOf f 1).addr
      (slice inp 0 16 ++ modeDec (cMode f) k.key (slice inp 0 16) (slice inp 16 (payloadLen f.raw)))] := by
  subst hinp
  exact ⟨_, congrArg Host.Outcome.next (cphOp_runs hr hsec hturn hfind hcur huse (fun h => absurd h (by decide)) hlane _),
    hr.cphWrites rfl (laned_outs ..) (cphCounts_laned ..) _⟩

theorem execMac_writes (hr : Ready 0x0902 r f s) (huse : k.usage.getLsbD uMac = true) (hlane : serveLane s = some l) {inp : Bytes}
    (hinp : inp = slice d 0 (dLen f.raw)) : ∃ t, exec (.mac r (.ok d) true) s = .next t ∧ Done r (payloadLen f.raw) t ∧
    t.sec.cntCph = s.sec.cntCph + 1 ∧ t.outs = s.outs ++ [Out.hostWrite (rangeOf f 1).func (rangeOf f 1).addr
      (zeros 16 ++ (cmac k.key (slice inp 16 (payloadLen f.raw))).take (cTag f))] := by
  subst hinp
  exact ⟨_, congrArg Host.Outcome.next (cphOp_runs hr hsec hturn hfind hcur huse (fun h => absurd h (by decide)) hlane _),
    hr.cphWrites rfl (laned_outs ..) (cphCounts_laned ..) _⟩

theorem execMacVerify_judges (hr : Ready 0x0903 r f s) (huse : k.usage.getLsbD uMac = true) (hlane : serveLane s = some l) {inp : Bytes} {p : Nat}
    (hinp : inp = slice d 0 (dLen f.raw)) (hp : p = payloadLen f.raw) : ∃ t, exec (.macVerify r (.ok d)) s = .next t ∧ t.outs = s.outs ∧
    ((cmac k.key (slice inp 16 p)).take (cTag f) = slice inp (16 + p) (cTag f) → Done r p t) ∧
    ((cmac k.key (slice inp 16 p)).take (cTag f) ≠ slice inp (16 + p) (cTag f) → Ended r fAuth 0 0x30 t ∧
      t.sec.cntTagFail = s.sec.cntTagFail + 1) := by
  subst hinp hp
  obtain ⟨g, hg, hn⟩ := hr.laned l k
  have hcnt : (laned r l f k s).sec.cntTagFail = s.sec.cntTagFail := congrArg Prod.snd (cphCounts_laned r l f k s)
  refine ⟨_, congrArg Host.Outcome.next (cphOp_runs hr hsec hturn hfind hcur huse (fun h => absurd h (by decide)) hlane _), ?_⟩
  dsimp only
  split
  · next htag =>
    have hdone : Done r (payloadLen f.raw) (settle r (done (payloadLen f.raw)) (laned r l f k s)) := settle_done hg hn _
    exact ⟨(settle_outs _ : (settle r _ (laned r l f k s)).outs = _).trans (laned_outs ..), fun _ => hdone, fun h => absurd htag h⟩
  · next htag =>
    obtain ⟨hended, houts, hfails⟩ := tagFail_counts hg hn
    exact ⟨houts.trans (laned_outs ..), fun h => absurd h htag, fun _ => ⟨hended, hfails.trans (congrArg (· + 1) hcnt)⟩⟩

theorem execSealCcm_writes (hr : Ready 0x0904 r f s) (huse : k.usage.getLsbD uAead = true)
    (hnonce : cPart f = true ∨ k.usage.getLsbD uHostNonce = true) (hlane : serveLane s = some l) {inp nonce : Bytes}
    (hinp : inp = slice d 0 (dLen f.raw)) (hn : nonce = if cPart f then random (laned r l f k s) (cNonce f) else slice inp 0 (cNonce f)) : ∃ t,
    exec (.sealCcm r (.ok d) true) s = .next t ∧ Done r (payloadLen f.raw) t ∧ t.sec.cntCph = s.sec.cntCph + 1 ∧
    t.outs = s.outs ++ [Out.hostWrite (rangeOf f 1).func (rangeOf f 1).addr
      (nonceField nonce (drewIv f (laned r l f k s)) ++ ccmCrypt k.key nonce 1 (blocks16 (slice inp (16 + cAad f) (payloadLen f.raw))) ++
        ccmTag k.key nonce (slice inp 16 (cAad f)) (slice inp (16 + cAad f) (payloadLen f.raw)) (cTag f))] := by
  subst hinp hn
  exact ⟨_, congrArg Host.Outcome.next (cphOp_runs hr hsec hturn hfind hcur huse (fun _ => hnonce) hlane _),
    hr.cphWrites (x := drawn 16 (drewIv f (laned r l f k s))) (drewIv_flights f) ((drewIv_outs f).trans (laned_outs ..))
      ((cphCounts_drewIv ..).trans (cphCounts_laned ..)) _⟩

theorem execOpenCcm_judges (hr : Ready 0x0905 r f s) (huse : k.usage.getLsbD uAead = true) (hlane : serveLane s = some l) {inp nonce msg : Bytes}
    {p : Nat} (hinp : inp = slice d 0 (dLen f.raw)) (hnonce : nonce = slice inp 0 (cNonce f)) (hp : p = payloadLen f.raw)
    (hmsg : msg = ccmCrypt k.key nonce 1 (blocks16 (slice inp (16 + cAad f) p))) : ∃ t, exec (.openCcm r (.ok d) true) s = .next t ∧
    (ccmTag k.key nonce (slice inp 16 (cAad f)) msg (cTag f) = slice inp (16 + cAad f + p) (cTag f) → Done r p t ∧
      t.outs = s.outs ++ [Out.hostWrite (rangeOf f 1).func (rangeOf f 1).addr (nonceField nonce (laned r l f k s) ++ msg)]) ∧
    (ccmTag k.key nonce (slice inp 16 (cAad f)) msg (cTag f) ≠ slice inp (16 + cAad f + p) (cTag f) →
      Ended r fAuth 0 0x30 t ∧ t.outs = s.outs ∧ t.sec.cntTagFail = s.sec.cntTagFail + 1) := by
  subst hmsg hp hnonce hinp
  obtain ⟨g, hg, hn⟩ := hr.laned l k
  have hcnt : (laned r l f k s).sec.cntTagFail = s.sec.cntTagFail := congrArg Prod.snd (cphCounts_laned r l f k s)
  refine ⟨_, congrArg Host.Outcome.next (cphOp_runs hr hsec hturn hfind hcur huse (fun h => absurd h (by decide)) hlane _), ?_⟩
  dsimp only
  split
  · next htag =>
    obtain ⟨hdone, -, houts⟩ := cphOut_writes (f := f) (x := drawn 16 (atStage r 0x03 0 (laned r l f k s))) (getFlight_atStage hg) hn
      (nonceField (slice (slice d 0 (dLen f.raw)) 0 (cNonce f)) (laned r l f k s) ++
        ccmCrypt k.key (slice (slice d 0 (dLen f.raw)) 0 (cNonce f)) 1 (blocks16 (slice (slice d 0 (dLen f.raw)) (16 + cAad f) (payloadLen f.raw))))
    rw [show (drawn 16 (atStage r 0x03 0 (laned r l f k s))).outs = s.outs from laned_outs ..] at houts
    exact ⟨fun _ => ⟨hdone, houts⟩, fun h => absurd htag h⟩
  · next htag =>
    obtain ⟨hended, houts, hfails⟩ := tagFail_counts hg hn
    exact ⟨fun h => absurd h htag, fun _ => ⟨hended, houts.trans (laned_outs ..), hfails.trans (congrArg (· + 1) hcnt)⟩⟩

end

/-- Settles O35. -/
theorem cipherOperations : Obligations.CipherOperations := by
  refine ⟨?_, fun _ rd _ _ _ hr hsec hturn hfind hcur huse hpart hhost => execEncrypt_refuses hsec hturn hfind hcur hr huse hpart hhost rd,
    fun _ _ _ _ _ _ _ hr hsec hturn hfind hcur huse hlane hinp => execDecrypt_writes hsec hturn hfind hcur hr huse hlane hinp,
    fun _ _ _ _ _ _ _ hr hsec hturn hfind hcur huse hlane hinp => execMac_writes hsec hturn hfind hcur hr huse hlane hinp,
    fun _ _ _ _ _ _ _ _ hr hsec hturn hfind hcur huse hlane hinp hp => execMacVerify_judges hsec hturn hfind hcur hr huse hlane hinp hp, ?_, ?_⟩
  · rintro r l d inp iv f k s x hr hsec hturn hfind hcur huse hnonce hlane hinp rfl hiv
    exact execEncrypt_writes hsec hturn hfind hcur hr huse hnonce hlane hinp hiv
  · rintro r l d inp nonce f k s x hr hsec hturn hfind hcur huse hnonce hlane hinp rfl hn
    exact execSealCcm_writes hsec hturn hfind hcur hr huse hnonce hlane hinp hn
  · rintro r l p d inp nonce msg f k s x hr hsec hturn hfind hcur huse hlane hinp hnonce hp rfl hmsg
    exact execOpenCcm_judges hsec hturn hfind hcur hr huse hlane hinp hnonce hp hmsg

end Sys2Proof.Machine

/-! The directory's descriptors (O22). -/

namespace Sys2Proof.Machine

variable {opc r ns kind : Nat} {f : Flight} {d b id : Bytes} {e : DirEntry} {s x u : State}

theorem slice_of_length (d : Bytes) (n : Nat) (h : d.length = n) : slice d 0 n = d := by
  subst h
  rw [slice, List.drop_zero, List.take_length, Nat.sub_self]
  exact List.append_nil d

/-! ### LOOKUP and GRANT -/

/-- A query that its tenancy may make, on a directory that can answer it. -/
theorem withEntry_found (hr : Ready opc r f s) (hlen : d.length = 64) (hok : (parseQuery d).ok = true)
    (hread : f.rules.nsRead.getLsbD (parseQuery d).ns = true)
    (hfound : lookup s (parseQuery d).ns (parseQuery d).kind (parseQuery d).id = .entry e)
    (hhash : (parseQuery d).flag = 1 → e.keyHash = (parseQuery d).keyHash) (body : Flight → Query → DirEntry → State → State) :
    withEntry opc r (.ok d) body s = body f (parseQuery d) e (started r s) := by
  have hfound' : lookup (started r s) (parseQuery d).ns (parseQuery d).kind (parseQuery d).id = .entry e := hfound
  unfold withEntry
  dsimp only
  rw [hok, hfound, if_neg (by simp), startOp_ready hr, withRead_ok, slice_of_length d 64 hlen]
  rw [if_neg (by rw [hok]; simp), if_neg (by rw [hread]; simp), hfound']
  exact if_neg fun h => h.2 (hhash h.1)

theorem withEntry_absent (hr : Ready opc r f s) (hlen : d.length = 64) (hok : (parseQuery d).ok = true)
    (hread : f.rules.nsRead.getLsbD (parseQuery d).ns = true)
    (hfound : lookup s (parseQuery d).ns (parseQuery d).kind (parseQuery d).id = .absent) (body : Flight → Query → DirEntry → State → State) :
    withEntry opc r (.ok d) body s = settle r (failFate fAbsent 0x20) (started r s) := by
  have hfound' : lookup (started r s) (parseQuery d).ns (parseQuery d).kind (parseQuery d).id = .absent := hfound
  unfold withEntry
  dsimp only
  rw [hok, hfound, if_neg (by simp), startOp_ready hr, withRead_ok, slice_of_length d 64 hlen]
  rw [if_neg (by rw [hok]; simp), if_neg (by rw [hread]; simp), hfound']

/-- A lookup's end: the entry is written where WRITE_ENTRY asks for it, and the operation is DONE. -/
theorem lookupDone_does {g : Flight} (hg : getFlight x r = some g) (hn : g.fate = none) (e : DirEntry) :
    Done r (lookupResult x e) (lookupDone r f e true x) ∧ (lookupDone r f e true x).outs = x.outs ++ (if bit (fieldLE f.raw 40 1) 0 then
      [Out.hostWrite (rangeOf f 1).func (rangeOf f 1).addr (entryBytes e)] else []) := by
  unfold lookupDone
  cases bit (fieldLE f.raw 40 1) 0 with
  | true => exact writeAndSettle_ended hg hn 1 _ _
  | false => exact ⟨settle_done hg hn _, (settle_outs _).trans (List.append_nil _).symm⟩

theorem execLookup_answers (hr : Ready 0x0700 r f s) (hlen : d.length = 64) (hok : (parseQuery d).ok = true)
    (hread : f.rules.nsRead.getLsbD (parseQuery d).ns = true)
    (hfound : lookup s (parseQuery d).ns (parseQuery d).kind (parseQuery d).id = .entry e)
    (hhash : (parseQuery d).flag = 1 → e.keyHash = (parseQuery d).keyHash) : ∃ t, exec (.lookup r (.ok d) true) s = .next t ∧
    Done r (lookupResult s e) t ∧ t.outs = s.outs ++ (if bit (fieldLE f.raw 40 1) 0 then
      [Out.hostWrite (rangeOf f 1).func (rangeOf f 1).addr (entryBytes e)] else []) :=
  ⟨_, congrArg Host.Outcome.next (withEntry_found hr hlen hok hread hfound hhash _), lookupDone_does hr.begun hr.noFate e⟩

theorem execGrant_waits (hr : Ready 0x0701 r f s) (hlen : d.length = 64) (hok : (parseQuery d).ok = true)
    (hread : f.rules.nsRead.getLsbD (parseQuery d).ns = true)
    (hfound : lookup s (parseQuery d).ns (parseQuery d).kind (parseQuery d).id = .entry e)
    (hhash : (parseQuery d).flag = 1 → e.keyHash = (parseQuery d).keyHash) (hvalid : entryState s e = 1) : ∃ t,
    exec (.grant r (.ok d) true) s = .next t ∧ getFlight t r = some { f with begun := true } ∧
    t.dir.grants = s.dir.grants ++ [(r, (parseQuery d).ns, (parseQuery d).kind, (parseQuery d).id)] := by
  have hvalid' : entryState (started r s) e = 1 := hvalid
  refine ⟨modDir (fun x => { x with grants := x.grants ++ [(r, (parseQuery d).ns, (parseQuery d).kind, (parseQuery d).id)] }) (noteV (started r s)),
    congrArg Host.Outcome.next ((withEntry_found hr hlen hok hread hfound hhash _).trans ?_), hr.begun, rfl⟩
  dsimp only
  rw [hvalid']
  rfl

theorem execGrantCommit_commits (hrun : Running 0x0701 r f s) (hgrant : s.dir.grants.find? (fun g => g.1 == r) = some (r, ns, kind, id))
    (hturn : dirTurn s r f = true) (hfound : lookup s ns kind id = .entry e) (hvalid : entryState s e = 1)
    (hcommit : commitHolds f ((getTen s f.ten).nsRead.getLsbD ns) s = true)
    (hlog : canLog (.part (stampPart { kind := 0x13, ten := f.ten, tid := e.bindTid, seq := dSeq f.raw, unit := ns } s)) s = true) : ∃ t,
    exec (.grantCommit r true) s = .next t ∧ Done r (lookupResult s e) t ∧ s.led.lsn + 1 ≤ t.led.lsn ∧
    t.dir.grants = s.dir.grants.filter (fun g => g.1 != r) := by
  have hexec : exec (.grantCommit r true) s = .next (lookupDone r f e true
      (logRec (.part (stampPart { kind := 0x13, ten := f.ten, tid := e.bindTid, seq := dSeq f.raw, unit := ns } s))
        (modDir (fun x => { x with grants := x.grants.filter (fun g => g.1 != r) }) s))) := by
    refine congrArg Host.Outcome.next ?_
    rw [hgrant]
    refine (onOp_running hrun _).trans ?_
    dsimp only
    rw [hturn, hfound]
    refine (if_neg (by simp)).trans ?_
    have hvalid' : entryState (modDir (fun x => { x with grants := x.grants.filter (fun g => g.1 != r) }) s) e = 1 := hvalid
    dsimp only
    rw [hvalid']
    refine (if_neg (by simp)).trans ((if_pos hcommit).trans (if_pos hlog))
  refine ⟨_, hexec, ?_⟩
  generalize hy : logRec _ (modDir (fun x => { x with grants := x.grants.filter (fun g => g.1 != r) }) s) = y
  have hflight : getFlight y r = some f := by rw [← hy]; exact hrun.here
  have hlsn : y.led.lsn = s.led.lsn + 1 := by rw [← hy]; rfl
  have hdir : y.dir.grants = s.dir.grants.filter (fun g => g.1 != r) := by rw [← hy]; rfl
  have hres : lookupResult y e = lookupResult s e := by rw [← hy]; rfl
  rw [← hlsn, ← hdir, ← hres]
  refine ⟨(lookupDone_does hflight hrun.noFate e).1, (lookupDone_keeps (Keeps.refl y) r f e true).lsn, ?_⟩
  exact congrArg Dir.grants ((lookupDone_frame (.refl _ y) (within_refl _) r f e true).dir rfl)

/-! ### Changes -/

theorem changeOp_ready (hr : Ready opc r f s) (hnone : s.dir.pending = none) (hturn : dirTurn s r f = true) (hdram : dramUp s = true)
    (hst : s.dir.st ≠ 0) (hwait : entryWaits s f = false) (body : Flight → State → State) : changeOp opc r body s = body f (started r s) := by
  unfold changeOp
  rw [hr.here]
  dsimp only
  rw [hnone, hturn, hdram, hwait, if_neg (by simp), startOp_ready hr]
  exact if_neg hst

theorem entryWaits_of_found (h : inTable s (keyOf f).1 (keyOf f).2.1 (keyOf f).2.2 = some e) : entryWaits s f = false := by
  rw [entryWaits, h, Option.isNone_some, Bool.and_false]

theorem entryWaits_of_opc (h : dOpc f.raw = opc) (h3 : opc ≠ 0x0703) (h5 : opc ≠ 0x0705) : entryWaits s f = false := by
  rw [entryWaits, h, beq_eq_false_iff_ne.mpr h3, beq_eq_false_iff_ne.mpr h5, Bool.or_false, Bool.and_false, Bool.false_and]

/-- A change whose delta can be begun is pending, and nothing of the table has changed. -/
theorem beginChange_begins {a : DirAct} (hbegin : beginRec (.delta r) { partHeader x 4 0x12 f.lsn with snap := x.dir.snapId } (deltaBytes x f a) x = .ok u) :
    (beginChange r f a x).dir.pending = some { op := r, act := a, rid := 0 } ∧ (beginChange r f a x).dir.table = x.dir.table ∧
    (beginChange r f a x).dir.minEpoch = x.dir.minEpoch ∧
    (∀ g, getFlight x r = some g → getFlight (beginChange r f a x) r = some { g with stage := 0x02, units := 0 }) := by
  have hchange : beginChange r f a x = modDir (fun d => { d with pending := some ⟨r, a, 0⟩ }) (atStage r 0x02 0 u) := by
    unfold beginChange
    dsimp only
    rw [hbegin]
  have hframe := beginRec_frame (.refl _ x) (within_refl _) hbegin
  rw [hchange]
  have hdir : u.dir = x.dir := hframe.dir rfl
  have htable : u.dir.table = x.dir.table := congrArg Dir.table hdir
  have hminEpoch : u.dir.minEpoch = x.dir.minEpoch := congrArg Dir.minEpoch hdir
  exact ⟨rfl, htable, hminEpoch,
    fun g hg => getFlight_atStage (s := u) ((getFlight_of_host (hframe.flights rfl)).trans hg)⟩

theorem execDirLoad_begins {es : List DirEntry} (hr : Ready 0x0702 r f s) (hnone : s.dir.pending = none) (hturn : dirTurn s r f = true)
    (hdram : dramUp s = true) (hst : s.dir.st ≠ 0) (hb : b = slice d 0 (dLen f.raw))
    (hes : es = (List.range (dLen f.raw / 128)).map (fun i => { parseEntry b (128 * i) with owner := f.ten }))
    (hok : (List.range (dLen f.raw / 128)).all (fun i => loadEntryOk f.rules b (128 * i)) = true) (hkeys : distinctKeys es = true)
    (hfresh : es.any (fun e => (inTable s e.ns e.kind e.id).any (fun o => o.revoked && decide (e.epoch ≤ o.epoch))) = false)
    (hfits : loadFits s es = true) :
    exec (.dirLoad r (.ok d)) s = .next (beginChange r f (.load es) (drawn 1 (atStage r 0x01 0 (started r s)))) := by
  have hfresh' : es.any (fun e => (inTable (atStage r 0x01 0 (started r s)) e.ns e.kind e.id).any
    (fun o => o.revoked && decide (e.epoch ≤ o.epoch))) = false := hfresh
  have hfits' : loadFits (atStage r 0x01 0 (started r s)) es = true := hfits
  refine congrArg Host.Outcome.next ((changeOp_ready hr hnone hturn hdram hst (entryWaits_of_opc hr.opc (by decide) (by decide)) _).trans
    ((withRead_ok _ _ _).trans ?_))
  dsimp only
  rw [← hb, ← hes, hok, hkeys, hfresh', hfits']
  rfl

theorem execRevoke_begins (hr : Ready 0x0703 r f s) (hnone : s.dir.pending = none) (hturn : dirTurn s r f = true) (hdram : dramUp s = true)
    (hst : s.dir.st ≠ 0) (hmay : mayWriteNs f (keyOf f).1 = true) (hin : inTable s (keyOf f).1 (keyOf f).2.1 (keyOf f).2.2 = some e)
    (hvalid : e.revoked = false) :
    exec (.revoke r) s = .next (beginChange r f (.revoke (keyOf f).1 (keyOf f).2.1 (keyOf f).2.2) (started r s)) := by
  have hin' : inTable (started r s) (keyOf f).1 (keyOf f).2.1 (keyOf f).2.2 = some e := hin
  refine congrArg Host.Outcome.next ((changeOp_ready hr hnone hturn hdram hst (entryWaits_of_found hin) _).trans ?_)
  dsimp only
  rw [hmay, hin', Bool.not_true, if_neg Bool.false_ne_true]
  dsimp only
  rw [hvalid]
  rfl

theorem execRevoke_again (hr : Ready 0x0703 r f s) (hnone : s.dir.pending = none) (hturn : dirTurn s r f = true) (hdram : dramUp s = true)
    (hst : s.dir.st ≠ 0) (hmay : mayWriteNs f (keyOf f).1 = true) (hin : inTable s (keyOf f).1 (keyOf f).2.1 (keyOf f).2.2 = some e)
    (hrevoked : e.revoked = true) : ∃ t, exec (.revoke r) s = .next t ∧ Done r e.revSeq t ∧ t.dir = s.dir := by
  have hin' : inTable (started r s) (keyOf f).1 (keyOf f).2.1 (keyOf f).2.2 = some e := hin
  refine ⟨settle r (done e.revSeq) (started r s),
    congrArg Host.Outcome.next ((changeOp_ready hr hnone hturn hdram hst (entryWaits_of_found hin) _).trans ?_), hr.settle_done _,
    (settle_frame_of _).dir rfl⟩
  dsimp only
  rw [hmay, hin', Bool.not_true, if_neg Bool.false_ne_true]
  exact if_pos hrevoked

theorem execRevokeEpoch_begins (hr : Ready 0x0704 r f s) (hnone : s.dir.pending = none) (hturn : dirTurn s r f = true) (hdram : dramUp s = true)
    (hst : s.dir.st ≠ 0) (hmay : mayWriteNs f (fieldLE f.raw 24 1) = true) (hup : minEpoch s (fieldLE f.raw 24 1) < fieldLE f.raw 28 4) :
    exec (.revokeEpoch r) s = .next (beginChange r f (.epoch (fieldLE f.raw 24 1) (fieldLE f.raw 28 4)) (started r s)) := by
  refine congrArg Host.Outcome.next ((changeOp_ready hr hnone hturn hdram hst (entryWaits_of_opc hr.opc (by decide) (by decide)) _).trans ?_)
  exact (if_neg (by rw [hmay]; simp)).trans (if_neg (Nat.not_le.mpr hup))

theorem execRevokeEpoch_refuses (hr : Ready 0x0704 r f s) (hnone : s.dir.pending = none) (hturn : dirTurn s r f = true) (hdram : dramUp s = true)
    (hst : s.dir.st ≠ 0) (hmay : mayWriteNs f (fieldLE f.raw 24 1) = true) (hdown : fieldLE f.raw 28 4 ≤ minEpoch s (fieldLE f.raw 24 1)) : ∃ t,
    exec (.revokeEpoch r) s = .next t ∧ Ended r fPolicy 0 0x28 t ∧ t.dir = s.dir :=
  ⟨_, congrArg Host.Outcome.next ((changeOp_ready hr hnone hturn hdram hst (entryWaits_of_opc hr.opc (by decide) (by decide)) _).trans
    ((if_neg (by rw [hmay]; simp)).trans (if_pos hdown))), hr.settle_ended (failFate fPolicy 0x28), (settle_frame_of _).dir rfl⟩

theorem execRemove_begins (hr : Ready 0x0705 r f s) (hnone : s.dir.pending = none) (hturn : dirTurn s r f = true) (hdram : dramUp s = true)
    (hst : s.dir.st ≠ 0) (hmay : mayWriteNs f (keyOf f).1 = true) (hin : inTable s (keyOf f).1 (keyOf f).2.1 (keyOf f).2.2 = some e)
    (hold : e.revoked = true → e.epoch < minEpoch s (keyOf f).1) :
    exec (.remove r) s = .next (beginChange r f (.remove (keyOf f).1 (keyOf f).2.1 (keyOf f).2.2) (started r s)) := by
  have hin' : inTable (started r s) (keyOf f).1 (keyOf f).2.1 (keyOf f).2.2 = some e := hin
  refine congrArg Host.Outcome.next ((changeOp_ready hr hnone hturn hdram hst (entryWaits_of_found hin) _).trans ?_)
  dsimp only
  rw [hmay, hin', Bool.not_true, if_neg Bool.false_ne_true]
  exact if_neg fun h => Nat.not_le.mpr (hold h.1) h.2

/-- Settles O22. -/
theorem directoryOperations : Obligations.DirectoryOperations := by
  refine ⟨fun _ _ _ _ _ hr hlen hok hread hfound hhash => execLookup_answers hr hlen hok hread hfound hhash, ?_,
    fun _ _ _ _ _ hr hlen hok hread hfound hhash hvalid => execGrant_waits hr hlen hok hread hfound hhash hvalid,
    fun _ _ _ _ _ _ _ hrun hgrant hturn hfound hvalid hcommit hlog => execGrantCommit_commits hrun hgrant hturn hfound hvalid hcommit hlog, ?_, ?_,
    fun _ _ _ _ hr hnone hturn hdram hst hmay hin hrevoked => execRevoke_again hr hnone hturn hdram hst hmay hin hrevoked, ?_,
    fun _ _ _ hr hnone hturn hdram hst hmay hdown => execRevokeEpoch_refuses hr hnone hturn hdram hst hmay hdown, ?_, ?_⟩
  · exact fun r d f s hr hlen hok hread hfound => ⟨_, congrArg Host.Outcome.next (withEntry_absent hr hlen hok hread hfound _),
      hr.settle_ended (failFate fAbsent 0x20)⟩
  · rintro r b d es f s x u hr hnone hturn hdram hst hb hes hok hkeys hfresh hfits rfl hbegin
    obtain ⟨hpending, htable, -, hflight⟩ := beginChange_begins hbegin
    exact ⟨_, execDirLoad_begins hr hnone hturn hdram hst hb hes hok hkeys hfresh hfits, hpending, htable,
      _, hflight _ (getFlight_atStage hr.begun), hr.noFate, rfl⟩
  · rintro r f e s x u hr hnone hturn hdram hst hmay hin hvalid rfl hbegin
    obtain ⟨hpending, htable, -, -⟩ := beginChange_begins hbegin
    exact ⟨_, execRevoke_begins hr hnone hturn hdram hst hmay hin hvalid, hpending, htable⟩
  · rintro r f s x u hr hnone hturn hdram hst hmay hup rfl hbegin
    obtain ⟨hpending, -, hminEpoch, -⟩ := beginChange_begins hbegin
    exact ⟨_, execRevokeEpoch_begins hr hnone hturn hdram hst hmay hup, hpending, hminEpoch⟩
  · rintro r f e s x u hr hnone hturn hdram hst hmay hin hold rfl hbegin
    obtain ⟨hpending, htable, -, -⟩ := beginChange_begins hbegin
    exact ⟨_, execRemove_begins hr hnone hturn hdram hst hmay hin hold, hpending, htable⟩
  · exact fun r f s hr => ⟨_, congrArg Host.Outcome.next (startOp_ready hr _), hr.writes 0 (dirStatusBytes (started r s) f.ten) (done 0)⟩

end Sys2Proof.Machine

/-! Images and configuration records (O40). -/

namespace Sys2Proof.Machine

variable {opc r : Nat} {f : Flight} {b : Bool} {d data h : Bytes} {s t u : State}

theorem updOp_ready (hr : Ready opc r f s) (hturn : updTurn s r f = true) (body : Flight → State → State) :
    updOp opc r false body s = body f (started r s) := by
  unfold updOp
  rw [hr.here]
  dsimp only
  rw [hturn, if_neg (by simp), startOp_ready hr]

/-! ### STAGE -/

/-- What writing blocks makes of a slot depends on nothing but the slots before it. -/
theorem writeBlocks_upd_congr (bs : List Bytes) (n : Nat) (h : t.upd = s.upd) : (writeBlocks b bs n t).upd = (writeBlocks b bs n s).upd := by
  unfold writeBlocks each
  generalize (List.range (min n bs.length)).zip bs = l
  induction l generalizing s t with
  | nil => exact h
  | cons e l ih => exact ih (congrArg (withSlot b (fun x => { x with blocks := tabPut x.blocks e.1 e.2 })) h)

/-- The image written block by block, before its slot is STAGED. -/
def imageWritten (b : Bool) (data : Bytes) (s : State) : State :=
  writeBlocks b (imageBlocks data) (imageBlocks data).length (beginSlot b (slice data 0 65536) s)

/-- An image whose chunks and payload match its head is written whole. -/
theorem writeImage_whole (hchunks : ∀ c, c < hChunks (slice data 0 65536) → chunkOk (slice data 0 65536) c (nth [] (imageBlocks data) (c + 1)) = true)
    (hpayload : payloadOk (getSlot (imageWritten b data s) b) = true) : writeImage b data .ok s = (0, imageWritten b data s) := by
  have hgood : (List.range (hChunks (slice data 0 65536))).find?
      (fun c => !chunkOk (slice data 0 65536) c (nth [] (imageBlocks data) (c + 1))) = none :=
    List.find?_eq_none.mpr fun c hc => by rw [hchunks c (List.mem_range.mp hc)]; simp
  unfold writeImage
  dsimp only
  rw [hgood]
  exact if_pos hpayload

theorem imageWritten_slots (b : Bool) (data : Bytes) (s : State) : (getSlot (imageWritten b data s) b).ver = hVer (slice data 0 65536) ∧
    (getSlot (imageWritten b data s) b).headId = headIdOf (slice data 0 65536) ∧
    getSlot (imageWritten b data s) (!b) = getSlot s (!b) := by
  refine ⟨?_, ?_, ?_⟩ <;> unfold imageWritten
  · rw [writeBlocks_ver, getSlot_beginSlot_same]
  · rw [writeBlocks_headId, getSlot_beginSlot_same]
  · rw [writeBlocks_other, getSlot_beginSlot_other]

theorem imageWritten_upd (b : Bool) (data : Bytes) (s : State) : (imageWritten b data s).upd.seq = s.upd.seq + 1 ∧
    (imageWritten b data s).upd.events = s.upd.events := by
  refine ⟨?_, ?_⟩ <;> unfold imageWritten
  · rw [writeBlocks_seq]; rfl
  · rw [writeBlocks_events]; exact withSlot_events _ _ _

theorem imageWritten_flights (b : Bool) (data : Bytes) (s : State) : (imageWritten b data s).host.flights = s.host.flights := by
  unfold imageWritten
  rw [writeBlocks_same (fun s => s.host.flights) b (fun _ _ _ => rfl)]
  rfl

/-- The image in its slot, STAGED and reported. -/
theorem staged_does (hg : getFlight s r = some f) (hn : f.fate = none) (v : Nat) : ∃ t,
    settle r (done v) (updEvent 0 (slotState b .staged (imageWritten b data s))) = t ∧ Done r v t ∧
    (getSlot t b).st = .staged ∧ (getSlot t b).ver = hVer (slice data 0 65536) ∧ (getSlot t b).headId = headIdOf (slice data 0 65536) ∧
    getSlot t (!b) = getSlot s (!b) ∧ t.upd.seq = s.upd.seq + 2 ∧ t.upd.events = setBits s.upd.events 0 := by
  obtain ⟨hver, hhead, hother⟩ := imageWritten_slots b data s
  obtain ⟨hseq, hevents⟩ := imageWritten_upd b data s
  have hflight : getFlight (updEvent 0 (slotState b .staged (imageWritten b data s))) r = some f :=
    (getFlight_of_host (imageWritten_flights b data s)).trans hg
  have hsame := getSlot_slotState_same (b := b) (s := imageWritten b data s) .staged
  have hupd := settle_upd (s := updEvent 0 (slotState b .staged (imageWritten b data s))) r (done v)
  have hslot : ∀ c, getSlot (settle r (done v) (updEvent 0 (slotState b .staged (imageWritten b data s)))) c =
      getSlot (slotState b .staged (imageWritten b data s)) c :=
    fun c => getSlot_of_upd (by rw [hupd]; rfl) (by rw [hupd]; rfl)
  refine ⟨_, rfl, settle_done hflight hn v, ?_⟩
  rw [hslot b, hslot (!b), hupd, hsame, getSlot_slotState_other, ← hver, ← hhead, ← hother, ← hevents]
  have hseq' : (imageWritten b data s).upd.seq + 1 = s.upd.seq + 2 := by rw [hseq]
  refine ⟨rfl, rfl, rfl, rfl, hseq', ?_⟩
  show setBits (withSlot b _ _).events 0 = _
  rw [withSlot_events]

theorem execStage_stages (hr : Ready 0x0C00 r f s) (hrecv : s.upd.recv = none) (hsched : s.upd.schedOp = none) (hturn : updTurn s r f = true)
    (hfree : slotBusy s = false) (hhash : hashUp s = true) (hpke : pkeUp s = true) (hdata : data = slice d 0 (dLen f.raw))
    (hh : h = slice data 0 65536) (hb : b = updTarget s) (hlen : dLen f.raw = 65536 + hPayload h) (hhead : headCheck s h = none)
    (hkey : (imageKey s h).isSome = true) (hchunks : ∀ c, c < hChunks h → chunkOk h c (nth [] (imageBlocks data) (c + 1)) = true)
    (hpayload : payloadOk (getSlot (imageWritten b data s) b) = true) : ∃ t,
    exec (.stage r (.ok d) .ok) s = .next t ∧ Done r (hChunks h + 65536 * ofBool b) t ∧ (getSlot t b).st = .staged ∧
    (getSlot t b).ver = hVer h ∧ (getSlot t b).headId = headIdOf h ∧ getSlot t (!b) = getSlot s (!b) ∧
    t.upd.seq = s.upd.seq + 2 ∧ t.upd.events = setBits s.upd.events 0 := by
  subst hh
  have hboot : bootCheck s (slice data 0 65536) = none := by
    unfold headCheck at hhead
    split at hhead
    · cases hhead
    · assumption
  have hpayload' : payloadOk (getSlot (imageWritten b data (pkeRan 0 (pkeRan 0 (started r s)))) b) = true := by
    have hupd : (imageWritten b data (pkeRan 0 (pkeRan 0 (started r s)))).upd = (imageWritten b data s).upd := writeBlocks_upd_congr _ _ rfl
    rw [getSlot_of_upd (congrArg Upd.a hupd) (congrArg Upd.b hupd)]
    exact hpayload
  have hexec : exec (.stage r (.ok d) .ok) s = .next (settle r (done (hChunks (slice data 0 65536) + 65536 * ofBool b))
      (updEvent 0 (slotState b .staged (imageWritten b data (pkeRan 0 (pkeRan 0 (started r s))))))) := by
    have hboot' : bootCheck (started r s) (slice data 0 65536) = none := hboot
    have hhead' : headCheck (pkeRan 0 (started r s)) (slice data 0 65536) = none := hhead
    have hkey' : (imageKey (pkeRan 0 (pkeRan 0 (started r s))) (slice data 0 65536)).isNone = false := by
      rw [Option.isNone_eq_false_iff]
      exact hkey
    have hhash' : hashUp (started r s) = true := hhash
    have hpke' : pkeUp (started r s) = true := hpke
    have hb' : updTarget (started r s) = b := hb.symm
    refine congrArg Host.Outcome.next ?_
    rw [hrecv, hsched]
    refine (updOp_ready hr hturn _).trans ((if_neg (show ¬slotBusy (started r s) = true by rw [show slotBusy (started r s) = false from hfree]; simp)).trans
      ((withRead_ok _ _ _).trans ?_))
    rw [← hdata]
    dsimp only
    rw [hhash', hpke', hlen, hboot', hb', if_neg (by simp), if_neg (by simp), if_neg (by simp), if_neg (by simp), hhead']
    dsimp only
    rw [hkey', writeImage_whole hchunks hpayload']
    rfl
  obtain ⟨t, ht, hfacts⟩ := staged_does (b := b) (data := data) (s := pkeRan 0 (pkeRan 0 (started r s))) hr.begun hr.noFate
    (hChunks (slice data 0 65536) + 65536 * ofBool b)
  exact ⟨t, by rw [hexec, ht], hfacts⟩

theorem execStage_busy (hr : Ready 0x0C00 r f s) (hrecv : s.upd.recv = none) (hsched : s.upd.schedOp = none) (hturn : updTurn s r f = true)
    (hbusy : slotBusy s = true) (rd : HostRead) (fl : FlashResult) : ∃ t,
    exec (.stage r rd fl) s = .next t ∧ Ended r fPolicy 0 0x28 t ∧ t.upd = s.upd := by
  refine ⟨settle r (updFate 0x28) (started r s), congrArg Host.Outcome.next ?_, hr.settle_ended (updFate 0x28), settle_upd _ _⟩
  rw [hrecv, hsched]
  exact (updOp_ready hr hturn _).trans (if_pos hbusy)

/-! ### PUSH -/

theorem offerTo_push (b : Bool) (route : Nat) (dst : UpdPeer) (s : State) : (offerTo b route dst s).upd.push = s.upd.push := by
  unfold offerTo
  dsimp only
  rw [sendMsg_upd]
  rfl

theorem pushOffers_push (s : State) : (pushOffers s).upd.push = s.upd.push := by
  unfold pushOffers
  split
  · rfl
  · refine each_same (fun s => s.upd.push) _ _ (fun q t => ?_) s
    split
    · exact offerTo_push _ _ _ t
    · rfl

/-- What PUSH puts before its first offers, and those offers. -/
def pushBegun (p : Push) (eth : List UpdPeer) (s : State) : State :=
  pushOffers (each eth (fun t u => offerTo (updTarget u) p.route t u) (modUpd (fun u => { u with push := some p }) s))

theorem pushBegun_push (p : Push) (eth : List UpdPeer) (s : State) : (pushBegun p eth s).upd.push = some p := by
  unfold pushBegun
  rw [pushOffers_push, each_same (fun s => s.upd.push) eth _ (fun dst t => offerTo_push _ _ dst t)]
  rfl

@[simp] theorem offerTo_flights (b : Bool) (route : Nat) (dst : UpdPeer) : (offerTo b route dst s).host.flights = s.host.flights := (offerTo_frame (.refl _ s) (within_refl _) b route dst).flights rfl
@[simp] theorem pushOffers_flights : (pushOffers s).host.flights = s.host.flights := (pushOffers_frame (.refl _ s) (within_refl _)).flights rfl

theorem pushBegun_flights (p : Push) (eth : List UpdPeer) (s : State) : (pushBegun p eth s).host.flights = s.host.flights := by
  unfold pushBegun
  rw [pushOffers_flights, each_same (fun s => s.host.flights) eth _ (fun dst t => offerTo_flights _ _ dst)]
  rfl

theorem execPush_pushes {eth : List UpdPeer} {p : Push} (hr : Ready 0x0C01 r f s)
    (heth : eth = (if fieldLE f.raw 26 1 < 2 then
      [UpdPeer.eth (Fin.ofNat 2 (fieldLE f.raw 26 1)) (BitVec.ofNat 48 (fieldLE f.raw 32 6))] else []).filter (peerUp s))
    (hclk : s.clk.onRc = false) (hbusy : updBusy s = false) (hturn : updTurn s r f = true) (hst : (getSlot s (updTarget s)).st = .staged)
    (hp : p = { op := r, route := fieldLE f.raw 24 2,
                open_ := ((routePositions (fieldLE f.raw 24 2)).filter (fun q => (nodeAt s q).isSome)).map (fun q => .line (Fin.ofNat 8 q)) ++
                  eth,
                silent := (routePositions (fieldLE f.raw 24 2)).filter (fun q => (nodeAt s q).isNone) ++
                  (if fieldLE f.raw 26 1 < 2 ∧ eth = [] then [0] else []) }) : ∃ t,
    exec (.push r) s = .next t ∧ (p.open_ = [] → Ended r fAbsent 0 0x2E t ∧ t.upd.push = none) ∧
    (p.open_ ≠ [] → t.upd.push = some p ∧ getFlight t r = some { f with begun := true }) := by
  have hpush := pushBegun_push p eth (started r s)
  have hflight : getFlight (pushBegun p eth (started r s)) r = some { f with begun := true } :=
    (getFlight_of_host (pushBegun_flights p eth (started r s))).trans hr.begun
  have hop : p.op = r ∧ p.staged = 0 ∧ p.refused = 0 ∧ p.passed = [] := by rw [hp]; exact ⟨rfl, rfl, rfl, rfl⟩
  obtain ⟨hop, hstaged, hrefused, hpassed⟩ := hop
  have hexec : exec (.push r) s = .next (pushDone (pushBegun p eth (started r s))) := by
    refine congrArg Host.Outcome.next ((if_neg (by rw [hclk]; simp)).trans ?_)
    rw [hbusy]
    refine (updOp_ready hr hturn _).trans ((if_neg (bne_iff_ne.not.mpr (not_not.mpr hst))).trans ?_)
    rw [hp, heth]
    rfl
  refine ⟨_, hexec, fun hopen => ?_, fun hopen => ?_⟩
  · have hdone : pushDone (pushBegun p eth (started r s)) =
        settle r (failFate fAbsent 0x2E) (modUpd (fun u => { u with push := none }) (pushBegun p eth (started r s))) := by
      unfold pushDone
      rw [hpush]
      dsimp only
      rw [hopen, hop, hstaged, hrefused, hpassed]
      rfl
    rw [hdone, settle_upd]
    exact ⟨settle_ended (s := modUpd _ _) hflight hr.noFate (failFate fAbsent 0x2E), rfl⟩
  · have hwaits : pushDone (pushBegun p eth (started r s)) = pushBegun p eth (started r s) := by
      unfold pushDone
      rw [hpush]
      exact if_neg (by rwa [List.isEmpty_iff])
    rw [hwaits]
    exact ⟨hpush, hflight⟩

/-! ### SCHEDULE and CANCEL -/

/-- The schedule that a SCHEDULE makes now. -/
def scheduleOf (f : Flight) (s : State) : Schedule :=
  { windowH := fieldLE f.raw 32 2, route := fieldLE f.raw 34 2, by_ := some (f.ten, dEpoch f.raw), due := monoUs s, sentAt := monoUs s }

/-- The journal entry of a schedule. -/
def scheduledAs (b : Bool) (at_ : Nat) (x : Schedule) : State → State :=
  journal (fun u => withSlot b (fun y => { y with st := .scheduled }) { u with actAt := at_, sched := some x, lapse := 0 })

theorem scheduledAs_upd (b : Bool) (at_ : Nat) (x : Schedule) (s : State) :
    getSlot (scheduledAs b at_ x s) b = { getSlot s b with st := .scheduled } ∧ (scheduledAs b at_ x s).upd.actAt = at_ ∧
    (scheduledAs b at_ x s).upd.seq = s.upd.seq + 1 ∧ (scheduledAs b at_ x s).upd.sched = some x ∧
    (scheduledAs b at_ x s).upd.peers = s.upd.peers := by
  cases b <;> exact ⟨rfl, rfl, rfl, rfl, rfl⟩

theorem unschedule_upd (b : Bool) (s : State) : getSlot (unschedule b s) b = { getSlot s b with st := .staged } ∧
    (unschedule b s).upd.actAt = 0 ∧ (unschedule b s).upd.sched = none ∧ (unschedule b s).upd.seq = s.upd.seq + 1 := by
  cases b <;> exact ⟨rfl, rfl, rfl, rfl⟩

@[simp] theorem sendSched_flights (pos : Nat) : (sendSched pos s).host.flights = s.host.flights := (sendSched_frame (.refl _ s) (within_refl _) pos).flights rfl

theorem execSchedule_schedules {held : List Nat} (hr : Ready 0x0C02 r f s) (hbusy : updBusy s = false) (hturn : updTurn s r f = true)
    (hwall : fieldLE f.raw 24 8 = 0 ∨ s.clk.wallSet = true) (hb : b = updTarget s) (hst : (getSlot s b).st = .staged)
    (hheld : held = (routePositions (fieldLE f.raw 34 2)).filter (fun q => (peerOf s q).code == 2 &&
      (peerOf s q).headId == (getSlot s b).headId)) : ∃ t,
    exec (.schedule r) s = .next t ∧ getSlot t b = { getSlot s b with st := .scheduled } ∧ t.upd.actAt = fieldLE f.raw 24 8 ∧
    t.upd.seq = s.upd.seq + 1 ∧
    t.upd.sched = some { windowH := fieldLE f.raw 32 2, route := fieldLE f.raw 34 2, by_ := some (f.ten, dEpoch f.raw),
                         due := monoUs s, sentAt := monoUs s } ∧
    (held = [] → Done r 1 t ∧ t.upd.schedOp = none) ∧
    (held ≠ [] → t.upd.schedOp = some (r, held, 1) ∧ getFlight t r = some { f with begun := true, units := 1 }) := by
  generalize hx : scheduledAs b (fieldLE f.raw 24 8) (scheduleOf f s) (started r s) = x
  obtain ⟨hslot, hat, hseq, hsched, hpeers⟩ := scheduledAs_upd b (fieldLE f.raw 24 8) (scheduleOf f s) (started r s)
  rw [hx] at hslot hat hseq hsched hpeers
  generalize hy : modUpd (fun u => { u with schedOp := some (r, held, 1) }) (modFlight r (fun f => { f with units := 1 }) (each held sendSched x)) = y
  have hupd : y.upd = { x.upd with schedOp := some (r, held, 1) } := by
    rw [← hy]
    exact congrArg (fun u : Upd => { u with schedOp := some (r, held, 1) }) (each_same (fun s => s.upd) held sendSched (fun q t => sendSched_upd q) x)
  have hflight : getFlight y r = some { f with begun := true, units := 1 } := by
    have hflights : (each held sendSched x).host.flights = (started r s).host.flights := by
      rw [each_same (fun s => s.host.flights) held sendSched (fun q t => sendSched_flights q), ← hx]
      rfl
    have hbegun : getFlight (each held sendSched x) r = some { f with begun := true } := (getFlight_of_host hflights).trans hr.begun
    rw [← hy]
    show getFlight (modFlight r _ _) r = _
    rw [getFlight_modFlight, if_pos rfl, hbegun]
    rfl
  have hexec : exec (.schedule r) s = .next (schedDone y) := by
    refine congrArg Host.Outcome.next ?_
    rw [hbusy]
    refine (updOp_ready hr hturn _).trans ((if_neg ?_).trans ((if_neg ?_).trans ?_))
    · show ¬(fieldLE f.raw 24 8 != 0 && !s.clk.wallSet) = true
      rcases hwall with h | h <;> rw [h] <;> simp
    · show ¬((getSlot s (updTarget s)).st != .staged) = true
      rw [← hb, hst]
      simp
    · have hpeer : ∀ q, peerOf x q = peerOf s q := fun q => by rw [peerOf, hpeers]; rfl
      have hheld' : (routePositions (fieldLE f.raw 34 2)).filter (fun q => (peerOf x q).code == 2 && (peerOf x q).headId == (getSlot x b).headId) = held := by
        rw [hslot, hheld]
        simp only [hpeer]
        rfl
      rw [← hy, ← hheld', ← hx, hb]
      rfl
  refine ⟨_, hexec, ?_⟩
  by_cases hnil : held = []
  · have hdone : schedDone y = settle r { done 1 with units := 1 } (modUpd (fun u => { u with schedOp := none }) y) := by
      unfold schedDone
      rw [hupd, hnil]
    have hended : Done r 1 (schedDone y) := by
      rw [hdone]
      exact settle_ended (s := modUpd (fun u => { u with schedOp := none }) y) hflight hr.noFate { done 1 with units := 1 }
    have hupd' : (schedDone y).upd = { x.upd with schedOp := none } := by
      rw [hdone, settle_upd, modUpd, hupd]
    rw [getSlot_of_upd (t := schedDone y) (s := x) (by rw [hupd']) (by rw [hupd']), hupd']
    exact ⟨hslot, hat, hseq, hsched, fun _ => ⟨hended, rfl⟩, fun h => absurd hnil h⟩
  · obtain ⟨q, rest, rfl⟩ := List.exists_cons_of_ne_nil hnil
    have hwaits : schedDone y = y := by
      unfold schedDone
      rw [hupd]
    rw [hwaits, getSlot_of_upd (t := y) (s := x) (by rw [hupd]) (by rw [hupd]), hupd]
    exact ⟨hslot, hat, hseq, hsched, fun h => absurd h hnil, fun _ => ⟨rfl, hflight⟩⟩

theorem execSchedule_unset (hr : Ready 0x0C02 r f s) (hbusy : updBusy s = false) (hturn : updTurn s r f = true)
    (hat : fieldLE f.raw 24 8 ≠ 0) (hwall : s.clk.wallSet = false) : ∃ t, exec (.schedule r) s = .next t ∧ Ended r fPolicy 0 0x2A t ∧
    t.upd = s.upd := by
  refine ⟨settle r (updFate 0x2A) (started r s), congrArg Host.Outcome.next ?_, hr.settle_ended (updFate 0x2A), settle_upd _ _⟩
  rw [hbusy]
  refine (updOp_ready hr hturn _).trans (if_pos ?_)
  show (fieldLE f.raw 24 8 != 0 && !s.clk.wallSet) = true
  rw [hwall, bne_iff_ne.mpr hat]
  rfl

theorem execCancel_cancels {n : Nat} (hr : Ready 0x0C03 r f s) (hbusy : updBusy s = false) (hturn : updTurn s r f = true)
    (hslot : scheduledSlot s = some b)
    (hn : n = ((routePositions (fieldLE f.raw 34 2)).filter (fun q => (peerOf s q).code == 3 &&
      (peerOf s q).headId == (getSlot s b).headId)).length) : ∃ t, exec (.cancel r) s = .next t ∧ Done r (1 + n) t ∧
    getSlot t b = { getSlot s b with st := .staged } ∧ t.upd.actAt = 0 ∧ t.upd.sched = none ∧ t.upd.seq = s.upd.seq + 1 := by
  generalize hsend : (fun q t => sendData q 0x03 0 (unschedMsg (getSlot (started r s) b).headId) none t) = send
  generalize hps : (routePositions (fieldLE f.raw 34 2)).filter (fun q => (nodeAt (unschedule b (started r s)) q).isSome) = ps
  have hsendUpd : ∀ q t, (send q t).upd = t.upd := fun q t => by rw [← hsend]; exact sendData_upd _ _ _ _ _
  have hsendFlights : ∀ q t, (send q t).host.flights = t.host.flights := fun q t => by rw [← hsend]; exact sendData_flights _ _ _ _ _
  have hupd := each_same (fun s => s.upd) ps send hsendUpd (unschedule b (started r s))
  have hflights := each_same (fun s => s.host.flights) ps send hsendFlights (unschedule b (started r s))
  obtain ⟨hback, hat, hsched, hseq⟩ := unschedule_upd b (started r s)
  have hexec : exec (.cancel r) s = .next (settle r (done (1 + n)) (each ps send (unschedule b (started r s)))) := by
    have hslot' : scheduledSlot (started r s) = some b := hslot
    refine congrArg Host.Outcome.next ?_
    rw [hbusy]
    refine (updOp_ready hr hturn _).trans ?_
    dsimp only
    rw [hslot', ← hps, ← hsend, hn]
    rfl
  refine ⟨_, hexec, settle_done ((getFlight_of_host hflights).trans hr.begun) hr.noFate _, ?_⟩
  rw [getSlot_of_upd (t := settle r _ _) (s := unschedule b (started r s)) (by rw [settle_upd, hupd]) (by rw [settle_upd, hupd]), settle_upd, hupd]
  exact ⟨hback, hat, hsched, hseq⟩

theorem execCancel_none (hr : Ready 0x0C03 r f s) (hbusy : updBusy s = false) (hturn : updTurn s r f = true)
    (hslot : scheduledSlot s = none) : ∃ t, exec (.cancel r) s = .next t ∧ Ended r fAbsent 0 0x29 t ∧ t.upd = s.upd := by
  have hslot' : scheduledSlot (started r s) = none := hslot
  refine ⟨settle r (updFate 0x29) (started r s), congrArg Host.Outcome.next ?_, hr.settle_ended (updFate 0x29), settle_upd _ _⟩
  rw [hbusy]
  refine (updOp_ready hr hturn _).trans ?_
  dsimp only
  rw [hslot']

/-! ### CFG_WRITE and STATUS -/

/-- Where a record is placed depends on the banks alone. -/
theorem placeRec_of_upd (x : CfgRec) (h : t.upd = s.upd) (hplace : placeRec x s = some u) : placeRec x t = some { t with upd := u.upd } := by
  have hfor : bankFor t x.type = bankFor s x.type := by simp only [bankFor, bankGen, getBank, h]
  have hbank : ∀ n, getBank t n = getBank s n := fun n => by rw [getBank, getBank, h]
  have hgathered : gathered t = gathered s := by simp only [gathered, bankRecs, h]
  have hput : ∀ n l, putBank n l t = { t with upd := (putBank n l s).upd } := fun n l => by rw [putBank, modUpd, modUpd, h]
  unfold placeRec at hplace ⊢
  dsimp only at hplace ⊢
  rw [hfor, hbank, hgathered]
  split at hplace
  · next hfits =>
    rw [if_pos hfits, hput]
    injection hplace with hplace
    rw [hplace]
  · next hfull =>
    split at hplace
    · next hfits =>
      rw [if_neg hfull, if_pos hfits, hput]
      injection hplace with hplace
      rw [hplace]
    · cases hplace

theorem placeRec_events {x : CfgRec} (h : placeRec x s = some u) : u.upd.events = s.upd.events := by
  have hput : ∀ n l, (putBank n l s).upd.events = s.upd.events := fun n l => by
    dsimp only [putBank, modUpd]
    split <;> rfl
  unfold placeRec at h
  dsimp only at h
  split at h
  · injection h with h
    rw [← h, hput]
  · split at h
    · injection h with h
      rw [← h, hput]
    · cases h

theorem execCfgWrite_writes {w : Bytes} {body : CfgBody} {x : CfgRec} (hr : Ready 0x0C04 r f s) (hbusy : updBusy s = false)
    (hturn : updTurn s r f = true) (hw : w = slice d 0 (dLen f.raw)) (hx : x = recOf w body) (hformat : recFormatOk w = true)
    (htarget : recTargetOk s w = true) (htype : cfgTypeOf body = x.type) (hhash : hashUp s = true) (hpke : pkeUp s = true)
    (hsigner : recSignerKnown s w = true) (hsig : recSigCode w = 0) (hbody : cfgBodyOk (boardInCfg s) body = true)
    (hserves : fmtServes s x.format = true) (hgen : ∀ e ∈ bankRecs s, e.2.type = x.type → e.2.gen < x.gen) (hplace : placeRec x s = some u) : ∃ t,
    exec (.cfgWrite r (.ok d) body true) s = .next t ∧ Done r (x.type + 65536 * x.gen) t ∧ t.upd.bank0 = u.upd.bank0 ∧
    t.upd.bank1 = u.upd.bank1 ∧ t.upd.events = setBits s.upd.events 7 ∧ t.cfg = s.cfg := by
  have hevents := placeRec_events hplace
  have hplace' := placeRec_of_upd (s := s) (t := pkeRan 0 (started r s)) x rfl hplace
  have hexec : exec (.cfgWrite r (.ok d) body true) s = .next (settle r (done (x.type + 65536 * x.gen))
      (updEvent 7 { pkeRan 0 (started r s) with upd := u.upd })) := by
    have htarget' : recTargetOk (started r s) w = true := htarget
    have hhash' : hashUp (started r s) = true := hhash
    have hpke' : pkeUp (started r s) = true := hpke
    have hsigner' : recSignerKnown (started r s) w = true := hsigner
    have hbody' : cfgBodyOk (boardInCfg (pkeRan 0 (started r s))) body = true := hbody
    have hserves' : fmtServes (pkeRan 0 (started r s)) x.format = true := hserves
    have hnewest : (bankRecs (pkeRan 0 (started r s))).any (fun e => e.2.type == x.type && decide (x.gen ≤ e.2.gen)) = false := by
      refine List.any_eq_false.mpr fun e he h => ?_
      rw [Bool.and_eq_true, beq_iff_eq, decide_eq_true_iff] at h
      exact absurd (hgen e he h.1) (Nat.not_lt.mpr h.2)
    refine congrArg Host.Outcome.next ?_
    rw [hbusy]
    refine (updOp_ready hr hturn _).trans ((withRead_ok _ _ _).trans ?_)
    rw [← hw, ← hx, htype]
    dsimp only
    rw [hformat, htarget', hhash', hpke', hsigner', hsig, hbody', hserves', hnewest, storeRec, hplace', if_neg (by simp)]
    rfl
  exact ⟨_, hexec, settle_done (s := updEvent 7 { pkeRan 0 (started r s) with upd := u.upd }) hr.begun hr.noFate _,
    by rw [settle_upd]; rfl, by rw [settle_upd]; rfl, by rw [settle_upd, ← hevents]; rfl, (settle_frame_of _).cfg rfl⟩

/-- Settles O40. -/
theorem imagesAndRecords : Obligations.ImagesAndRecords := by
  refine ⟨?_, fun _ rd fl _ _ hr hrecv hsched hturn hbusy => execStage_busy hr hrecv hsched hturn hbusy rd fl,
    fun _ _ _ _ _ hr heth hclk hbusy hturn hst hp => execPush_pushes hr heth hclk hbusy hturn hst hp,
    fun _ _ hclk => congrArg Host.Outcome.next (if_pos hclk),
    fun _ _ _ _ _ hr hbusy hturn hwall hb hst hheld => execSchedule_schedules hr hbusy hturn hwall hb hst hheld,
    fun _ _ _ hr hbusy hturn hat hwall => execSchedule_unset hr hbusy hturn hat hwall,
    fun _ _ _ _ _ hr hbusy hturn hslot hn => execCancel_cancels hr hbusy hturn hslot hn,
    fun _ _ _ hr hbusy hturn hslot => execCancel_none hr hbusy hturn hslot, ?_,
    fun _ _ _ hr => ⟨_, congrArg Host.Outcome.next (startOp_ready hr _), hr.writes 0 _ (done 0)⟩⟩
  · rintro r d data h b f s hr hrecv hsched hturn hfree hhash hpke hdata rfl hb hlen hhead hkey hchunks hpayload
    exact execStage_stages hr hrecv hsched hturn hfree hhash hpke hdata rfl hb hlen hhead hkey hchunks hpayload
  · rintro r d w body f x s u hr hbusy hturn hw hx hformat htarget htype hhash hpke hsigner hsig hbody hserves hgen hplace
    exact execCfgWrite_writes hr hbusy hturn hw hx hformat htarget htype hhash hpke hsigner hsig hbody hserves hgen hplace

end Sys2Proof.Machine

/-! The PROX class (O33). -/

namespace Sys2Proof.Machine

variable {r n : Nat} {f : Flight} {p : Poll} {s x : State}

/-- The START that begins an operation is not held back by that operation's own begin. -/
theorem startHolds_started (r : Nat) (h : startHolds s = false) : startHolds (started r s) = false := by
  rw [startHolds, Bool.or_eq_false_iff] at h ⊢
  refine ⟨h.1, ?_⟩
  obtain ⟨-, hdue⟩ := h
  show s.radio.startDue.any _ = false
  rcases hq : s.radio.startDue with _ | q
  · rfl
  · rw [hq, Option.any_some] at hdue
    rw [Option.any_some]
    rw [started, getFlight_modFlight, getFlight_noteV]
    split
    · cases getFlight s q <;> rfl
    · exact hdue

@[simp] theorem takeSpare_flights (ch : Nat) : (takeSpare ch s).host.flights = s.host.flights := (takeSpare_frame (.refl _ s) (within_refl _) ch).flights rfl

/-- A telegram begun stands in the poll with a fresh nonce, and the descriptors are as they were. -/
theorem beginTelegram_begins (p : Poll) (s : State) : ∃ q, (beginTelegram p s).radio.poll = some q ∧ q.kind = p.kind ∧ q.phase = .telegram ∧
    q.m = p.m ∧ q.n = p.n ∧ q.nonce = random (drawn 2 s) 6 ∧ (beginTelegram p s).host.flights = s.host.flights := by
  refine ⟨_, rfl, rfl, rfl, rfl, rfl, rfl, ?_⟩
  refine (each_same (fun s => s.host.flights) _ _ (fun c t => takeSpare_flights c) _).trans ?_
  exact (drew_frame (.refl _ (drawn 2 s)) (within_refl _) (laneQueue s) 6).flights rfl

section

variable (hr : Ready 0x0200 r f s) (hsec : secReady s = true) (hboard : (board s).isSome = true) (hnonce : noNonce s = false)
include hr hsec hboard hnonce

/-- A LOCATE whose nonce can be drawn, by the token it names and what goes on on the air. -/
theorem execLocate_begun : exec (.locate r) s = .next (if (tokenKeyOf s (fieldLE f.raw 24 4)).isNone then settle r (failFate fAbsent 0x21) (started r s)
    else if s.radio.poll.isSome || startHolds (started r s) then modRadio (fun b => { b with locates := b.locates ++ [(r, 0)] }) (noteV (started r s))
    else startLocate 0 0 r f (started r s)) := by
  have hboard' : ¬(board (started r s)).isNone = true := by rwa [Bool.not_eq_true, Option.isNone_eq_false_iff]
  have hnonce' : ¬noNonce (started r s) = true := by rw [show noNonce (started r s) = false from hnonce]; simp
  refine congrArg Host.Outcome.next ((if_pos (by rw [hsec]; rfl)).trans ((startOp_ready hr _).trans ((if_neg hboard').trans ((if_neg hnonce').trans rfl))))

theorem execLocate_starts (htoken : (tokenKeyOf s (fieldLE f.raw 24 4)).isSome = true) (hpoll : s.radio.poll = none) (hstart : startHolds s = false)
    (hclk : s.clk.onRc = false) (hchains : chainsUp s ≠ []) (hchans : pollChans (started r s) (.locate r) ≠ []) : ∃ t p,
    exec (.locate r) s = .next t ∧ t.radio.poll = some p ∧ p.kind = .locate r ∧ p.phase = .telegram ∧ p.m = locateM f ∧ p.n = 1 ∧
    p.nonce = random (drawn 2 (started r s)) 6 ∧ getFlight t r = some { f with begun := true } := by
  obtain ⟨q, hq, hkind, hphase, hm, hn, hnonce', hflights⟩ :=
    beginTelegram_begins { newPoll (started r s) (.locate r) 1 (locateM f) with challenges := 0, waits := 0 } (started r s)
  have hstarts : startLocate 0 0 r f (started r s) =
      beginTelegram { newPoll (started r s) (.locate r) 1 (locateM f) with challenges := 0, waits := 0 } (started r s) := by
    have hclk' : ¬(started r s).clk.onRc = true := by rw [show (started r s).clk.onRc = false from hclk]; simp
    refine (if_neg hclk').trans (if_neg ?_)
    rintro (h | h)
    · exact hchains h
    · exact hchans h
  refine ⟨_, q, (execLocate_begun hr hsec hboard hnonce).trans (congrArg Host.Outcome.next ?_), hq, hkind, hphase, hm, hn, hnonce',
    (getFlight_of_host hflights).trans hr.begun⟩
  rw [startHolds_started r hstart, hpoll, if_neg (by rwa [Bool.not_eq_true, Option.isNone_eq_false_iff]), if_neg (by simp), hstarts]

theorem execLocate_waits (htoken : (tokenKeyOf s (fieldLE f.raw 24 4)).isSome = true) (hpoll : s.radio.poll = some p) : ∃ t,
    exec (.locate r) s = .next t ∧ t.radio = { s.radio with locates := s.radio.locates ++ [(r, 0)] } := by
  refine ⟨_, (execLocate_begun hr hsec hboard hnonce).trans (congrArg Host.Outcome.next ((if_neg ?_).trans (if_pos ?_))), rfl⟩
  · rwa [Bool.not_eq_true, Option.isNone_eq_false_iff]
  · rw [hpoll]
    rfl

theorem execLocate_unknown (htoken : tokenKeyOf s (fieldLE f.raw 24 4) = none) : ∃ t, exec (.locate r) s = .next t ∧ Ended r fAbsent 0 0x21 t :=
  ⟨_, (execLocate_begun hr hsec hboard hnonce).trans (congrArg Host.Outcome.next (if_pos (by rw [htoken]; rfl))), hr.settle_ended (failFate fAbsent 0x21)⟩

end

/-- The entry that a NEAR_ENROL makes. -/
def enrolled (f : Flight) (k : Handle) : NearEntry :=
  { tid := fieldLE f.raw 24 4, key := k.key, tcnt := 0, zones := BitVec.ofNat 12 (fieldLE f.raw 28 2),
    actions := BitVec.ofNat 8 (fieldLE f.raw 30 1), owner := f.ten }

theorem execNearEnrol_enrols {k : Handle} (hr : Ready 0x0202 r f s) (hsec : secReady s = true) (hturn : drawTurn r s = true)
    (hx : x = leaveQueue r (started r s)) (hnew : s.radio.near.any (fun e => e.tid == fieldLE f.raw 24 4) = false)
    (hkey : enrolKey x r f (fieldLE f.raw 32 8) = .ok k) (hroom : s.radio.near.length < 256)
    (hallow : releaseAllowed x f (fieldLE f.raw 32 8) = true) (hcommit : commitHolds f true x = true)
    (hlog : canLog (.part (stampPart { kind := 0x14, ten := f.ten, seq := dSeq f.raw, unit := 2, tid := fieldLE f.raw 24 4,
                                       count := handleSlot (fieldLE f.raw 32 8) } x)) x = true) : ∃ t,
    exec (.nearEnrol r) s = .next t ∧ Done r 0 t ∧ t.radio.near = s.radio.near ++ [enrolled f k] := by
  subst hx
  have hradio : (leaveQueue r (started r s)).radio = s.radio := rfl
  generalize hy : modRadio (fun b => { b with near := b.near ++ [enrolled f k] }) (atStage r 0x02 0 (logRec (.part (stampPart
    { kind := 0x14, ten := f.ten, seq := dSeq f.raw, unit := 2, tid := fieldLE f.raw 24 4, count := handleSlot (fieldLE f.raw 32 8) }
    (leaveQueue r (started r s)))) (leaveQueue r (started r s)))) = y
  have hflight : getFlight y r = some { f with begun := true, stage := 2, units := 0 } := by
    rw [← hy]
    exact getFlight_atStage (s := logRec _ (leaveQueue r (started r s))) hr.queued
  refine ⟨settle r (done 0) y, congrArg Host.Outcome.next ?_, settle_done hflight hr.noFate 0, ?_⟩
  · refine (keyOp_ready hr hsec hturn _).trans ?_
    dsimp only
    rw [hradio, if_neg (by rw [hnew]; simp), hkey]
    refine (if_neg (Nat.not_le.mpr hroom)).trans ((if_pos hallow).trans ((if_pos hcommit).trans ((if_pos hlog).trans ?_)))
    rw [← hy]
    rfl
  · rw [(settle_frame_of _).radio rfl, ← hy]
    rfl

theorem execNearEnrol_known (hr : Ready 0x0202 r f s) (hsec : secReady s = true) (hturn : drawTurn r s = true)
    (hknown : s.radio.near.any (fun e => e.tid == fieldLE f.raw 24 4) = true) : ∃ t, exec (.nearEnrol r) s = .next t ∧
    Ended r fPolicy 0 0x29 t ∧ t.radio = s.radio :=
  ⟨_, congrArg Host.Outcome.next ((keyOp_ready hr hsec hturn _).trans (if_pos hknown)),
    settle_ended (s := leaveQueue r (started r s)) hr.queued hr.noFate (failFate fPolicy 0x29), (settle_frame_of _).radio rfl⟩

theorem execNearRemove_removes {e : NearEntry} (hr : Ready 0x0203 r f s)
    (hfind : s.radio.near.find? (fun x => x.tid == fieldLE f.raw 24 4) = some e) (hreach : nearReach f e = true) : ∃ t,
    exec (.nearRemove r) s = .next t ∧ Done r 0 t ∧ t.radio.near = s.radio.near.filter (fun x => x.tid != fieldLE f.raw 24 4) := by
  have hfind' : (started r s).radio.near.find? (fun x => x.tid == fieldLE f.raw 24 4) = some e := hfind
  refine ⟨settle r (done 0) (nearRemove (fieldLE f.raw 24 4) (started r s)), congrArg Host.Outcome.next ((startOp_ready hr _).trans ?_),
    settle_done (s := nearRemove (fieldLE f.raw 24 4) (started r s)) hr.begun hr.noFate 0, ?_⟩
  · dsimp only
    rw [hfind']
    exact if_pos hreach
  · rw [(settle_frame_of _).radio rfl]
    rfl

theorem execZoneRead_writes {body : Bytes} (hr : Ready 0x0205 r f s)
    (hbody : body = (match s.radio.zones with | some z => z.body | none => [])) (hlen : body.length ≤ dLen f.raw) : ∃ t,
    exec (.zoneRead r true) s = .next t ∧ Done r body.length t ∧
    t.outs = s.outs ++ [Out.hostWrite (rangeOf f 0).func (rangeOf f 0).addr (slice body 0 (dLen f.raw))] := by
  refine ⟨writeAndSettle r f 0 (slice body 0 (dLen f.raw)) true (done body.length) (started r s),
    congrArg Host.Outcome.next ((startOp_ready hr _).trans ?_), hr.writes 0 _ (done body.length)⟩
  subst hbody
  exact if_neg (Nat.not_lt.mpr hlen)

/-- Settles O33. -/
theorem proxClass : Obligations.ProxClass := by
  refine ⟨fun _ _ _ hr hsec hboard hnonce htoken hpoll hstart hclk hchains hchans =>
      execLocate_starts hr hsec hboard hnonce htoken hpoll hstart hclk hchains hchans,
    fun _ _ _ _ hr hsec hboard hnonce htoken hpoll => execLocate_waits hr hsec hboard hnonce htoken hpoll,
    fun _ _ _ hr hsec hboard hnonce htoken => execLocate_unknown hr hsec hboard hnonce htoken, ?_,
    fun _ _ _ _ _ hr hsec hturn hx hnew hkey hroom hallow hcommit hlog => execNearEnrol_enrols hr hsec hturn hx hnew hkey hroom hallow hcommit hlog,
    fun _ _ _ hr hsec hturn hknown => execNearEnrol_known hr hsec hturn hknown,
    fun _ _ _ _ hr hfind hreach => execNearRemove_removes hr hfind hreach, ?_,
    fun _ _ _ _ hr hbody hlen => execZoneRead_writes hr hbody hlen⟩
  · rintro r f n s hr rfl
    exact ⟨_, congrArg Host.Outcome.next (startOp_ready hr _), hr.writes 0 _ (done _)⟩
  · rintro r f l s hr rfl
    exact ⟨_, congrArg Host.Outcome.next (startOp_ready hr _), hr.writes 0 _ (done _)⟩

end Sys2Proof.Machine

/-! The start lock's own state: what the frames, the latch and its timers change of it. -/

namespace Sys2Proof.Machine

variable {p q : Nat} {old new l : Latch} {cause ten seq tid : Nat} {bind : Option Nat} {s t u : State}

@[simp] theorem elapseTo_slk (t0 : Nat) : (elapseTo t0 s).slk = s.slk := (elapseTo_frame (.refl _ s) (within_refl _) t0).slk rfl
@[simp] theorem elapseTo_sec (t0 : Nat) : (elapseTo t0 s).sec = s.sec := (elapseTo_frame (.refl _ s) (within_refl _) t0).sec rfl
@[simp] theorem elapseTo_cfg (t0 : Nat) : (elapseTo t0 s).cfg = s.cfg := (elapseTo_frame (.refl _ s) (within_refl _) t0).cfg rfl
@[simp] theorem elapseToNs_slk (t0 : Nat) : (elapseToNs t0 s).slk = s.slk := (elapseToNs_frame (.refl _ s) (within_refl _) t0).slk rfl
@[simp] theorem elapseToNs_cfg (t0 : Nat) : (elapseToNs t0 s).cfg = s.cfg := (elapseToNs_frame (.refl _ s) (within_refl _) t0).cfg rfl
@[simp] theorem elapseToNs_flt (t0 : Nat) : (elapseToNs t0 s).flt = s.flt := (elapseToNs_frame (.refl _ s) (within_refl _) t0).flt rfl
@[simp] theorem elapseToNs_pwr (t0 : Nat) : (elapseToNs t0 s).pwr = s.pwr := (elapseToNs_frame (.refl _ s) (within_refl _) t0).pwr rfl
@[simp] theorem elapseToNs_sys (t0 : Nat) : (elapseToNs t0 s).sys = s.sys := (elapseToNs_frame (.refl _ s) (within_refl _) t0).sys rfl
@[simp] theorem drivePins_slk : (drivePins s).slk = s.slk := (drivePins_frame (.refl _ s) (within_refl _)).slk rfl
@[simp] theorem writeFault_slk (ty : Nat) (ix : Nat) (code : Nat) (sev : Nat) (action : Nat) (detail : Nat) (arg : Nat) : (writeFault ty ix code sev action detail arg s).slk = s.slk := (writeFault_frame (.refl _ s) (within_refl _) ty ix code sev action detail arg).slk rfl

/-- The lock's state without what a state frame changes. -/
def unframed (b : Slk) : Slk := { b with freshState := 0, frameAt := none, lastFlags := 0, events := 0 }

/-- The lock's state without what a move of the latch changes. -/
def lockless (b : Slk) : Slk := { unframed b with
  code := 0, comp := 0, cause := 0, tTransition := 0, bound := 0, tokenLost := false, tokenUnknown := false
  timerKind := 0, timerEnd := none, winCap := 0, winDue := false }

theorem sendState_unframed (s : State) : unframed (sendState s).slk = unframed s.slk := by
  have hevent : ∀ (c : Bool) (x : State), unframed (onlyIf c (slkEvent 5) x).slk = unframed x.slk := fun c x => by cases c <;> rfl
  unfold sendState
  split
  · dsimp only
    split
    · exact hevent _ _
    · exact hevent _ _
  · rfl

theorem flagsCheck_unframed (s : State) : unframed (flagsCheck s).slk = unframed s.slk := by
  have hevent : ∀ (c : Bool) (x : State), unframed (onlyIf c (slkEvent 4) x).slk = unframed x.slk := fun c x => by cases c <;> rfl
  unfold flagsCheck
  split
  · rfl
  · rw [sendState_unframed, hevent]
    rfl

/-- The latch stands as its two codes say. -/
theorem latch_of_code (hcode : s.slk.code = latchCode l) (hcomp : s.slk.comp = ~~~ latchCode l) : latch s = l := by
  rw [latch, hcode, hcomp]
  cases l <;> rfl

theorem latch_of_unframed (h : unframed t.slk = unframed s.slk) : latch t = latch s :=
  latch_congr (congrArg Slk.code h :) (congrArg Slk.comp h :)

/-! ### Moves of the latch -/

theorem startTimer_lockless (l : Latch) (s : State) : lockless (startTimer l s).slk = lockless s.slk := by cases l <;> rfl

theorem setLatch_sets (old new : Latch) (cause : Nat) (bind : Option Nat) (s : State) :
    latch (setLatch old new cause bind s) = new ∧ (setLatch old new cause bind s).slk.cause = cause ∧
    (setLatch old new cause bind s).slk.bound = bind.getD s.slk.bound ∧ lockless (setLatch old new cause bind s).slk = lockless s.slk := by
  unfold setLatch
  extract_lets clear moved
  have hpins : ∀ (c : Bool) (x : State), (onlyIf c drivePins x).slk = x.slk := fun c x => by
    cases c
    · rfl
    · exact drivePins_slk
  have hslk : unframed (sendState (onlyIf (isRelease old != isRelease new) drivePins (slkEvent 0 (startTimer new moved)))).slk =
      unframed (startTimer new moved).slk := by
    rw [sendState_unframed, hpins]
    rfl
  generalize sendState (onlyIf (isRelease old != isRelease new) drivePins (slkEvent 0 (startTimer new moved))) = t at hslk ⊢
  have hcode : t.slk.code = (startTimer new moved).slk.code := (congrArg Slk.code hslk :)
  have hcomp : t.slk.comp = (startTimer new moved).slk.comp := (congrArg Slk.comp hslk :)
  have hcause : t.slk.cause = (startTimer new moved).slk.cause := (congrArg Slk.cause hslk :)
  have hbound : t.slk.bound = (startTimer new moved).slk.bound := (congrArg Slk.bound hslk :)
  have hlockless : lockless t.slk = lockless (startTimer new moved).slk := (congrArg lockless hslk :)
  refine ⟨latch_of_code ?_ ?_, ?_, ?_, ?_⟩
  · rw [hcode]
    cases new <;> rfl
  · rw [hcomp]
    cases new <;> rfl
  · rw [hcause]
    cases new <;> rfl
  · rw [hbound]
    cases new <;> rfl
  · rw [hlockless, startTimer_lockless]
    rfl

/-- A move that the ledger takes: its record comes first. -/
theorem moveLatch_moves (hboard : (board s).isSome = true) (hlog : canLog (lockRecord (latch s) new cause s.slk.bound (nextFresh s) ten seq s) s = true) :
    latch (moveLatch new cause tid ten seq s) = new ∧ (moveLatch new cause tid ten seq s).slk.cause = cause ∧
    lockless (moveLatch new cause tid ten seq s).slk = lockless s.slk := by
  have hmove : moveLatch new cause tid ten seq s =
      setLatch (latch s) new cause none (logRec (lockRecord (latch s) new cause s.slk.bound (nextFresh s) ten seq s) s) := by
    refine (if_neg ?_).trans (if_pos hlog)
    rwa [Bool.not_eq_true, Option.isNone_eq_false_iff]
  obtain ⟨hlatch, hcause, -, hrest⟩ := setLatch_sets (latch s) new cause none
    (logRec (lockRecord (latch s) new cause s.slk.bound (nextFresh s) ten seq s) s)
  rw [hmove]
  exact ⟨hlatch, hcause, hrest⟩

/-- A move that the ledger does not take waits for its record. -/
theorem moveLatch_waits (hboard : (board s).isSome = true) (hlog : canLog (lockRecord (latch s) new cause s.slk.bound (nextFresh s) ten seq s) s = false) :
    latch (moveLatch new cause tid ten seq s) = latch s ∧
    ({ cause := cause, tid := tid, ten := ten, seq := seq } : SlkRetry) ∈ (moveLatch new cause tid ten seq s).slk.retry ∧
    (s.slk.retry = [] → (moveLatch new cause tid ten seq s).slk.retryAt = monoUs s + 100000) := by
  have hboard' : ¬(board s).isNone = true := by rwa [Bool.not_eq_true, Option.isNone_eq_false_iff]
  have hlog' : ¬canLog (lockRecord (latch s) new cause s.slk.bound (nextFresh s) ten seq s) s = true := by rw [hlog]; simp
  unfold moveLatch
  extract_lets _ _ w
  rw [if_neg hboard', if_neg hlog']
  refine ⟨rfl, ?_, fun hnone => ?_⟩
  · show w ∈ (if s.slk.retry.contains w then s.slk.retry else s.slk.retry ++ [w])
    split
    · next h => exact List.contains_iff_mem.mp h
    · exact List.mem_append_right _ (List.mem_singleton.mpr rfl)
  · show (if s.slk.retry.isEmpty then _ else _) = _
    rw [hnone]
    rfl

theorem lockRequest_moves (hmode : s.pwr.mode ≠ .hearth) (hboard : (board s).isSome = true) (htarget : requestTarget cause s = some new)
    (hlog : canLog (lockRecord (latch s) new cause s.slk.bound (nextFresh s) ten seq s) s = true) :
    latch (lockRequest cause ten seq s) = new ∧ (lockRequest cause ten seq s).slk.cause = cause ∧
    (lockRequest cause ten seq s).slk.ignOffAt = s.slk.ignOffAt := by
  obtain ⟨hlatch, hcause, hrest⟩ := moveLatch_moves (tid := s.slk.bound) hboard hlog
  have hign : (moveLatch new cause s.slk.bound ten seq s).slk.ignOffAt = s.slk.ignOffAt := (congrArg Slk.ignOffAt hrest :)
  have hboard' : ¬(board s).isNone = true := by rwa [Bool.not_eq_true, Option.isNone_eq_false_iff]
  unfold lockRequest
  rw [if_neg hmode, if_neg hboard', htarget]
  dsimp only
  split
  · exact ⟨hlatch, hcause, hign⟩
  · exact ⟨hlatch, hcause, hign⟩

/-- A request that moves nothing is only recorded. -/
theorem lockRequest_stands (h : requestTarget cause s = none ∨ board s = none) : latch (lockRequest cause ten seq s) = latch s := by
  have hnone : (if (board s).isNone then none else requestTarget cause s) = none := by
    rcases h with h | h
    · rw [h, ite_self]
    · rw [h]
      rfl
  have htry : ∀ k, latch (tryLog k s) = latch s := fun k => by
    unfold tryLog
    split <;> rfl
  unfold lockRequest
  split
  · rfl
  · rw [hnone]
    dsimp only
    split
    · exact htry _
    · exact htry _

end Sys2Proof.Machine

/-! The lock's frames and balls (O29). -/

namespace Sys2Proof.Machine

variable {p : Nat} {s t u : State}

/-! ### State frames -/

theorem macFrame_congr (hsec : t.sec = s.sec) (hpolicy : t.slk.policy = s.slk.policy) (ident : BitVec 32) (head : Bytes) :
    macFrame t ident head = macFrame s ident head := by
  rw [macFrame, macFrame, frameKey, frameKey, frameNode, frameNode, branchKey, branchKey, systemKey, systemKey, hsec, hpolicy]

/-- A state frame that its port carries goes out with the next FRESH value. -/
theorem sendState_sends (hon : stateFramesOn s = true) (hport : framePort s s.slk.policy.framePort = some p)
    (hfresh : s.slk.freshState + 1 < 0xFFFFFFFF) (hlog : canLog (.intent 1 (s.slk.freshState + 1)) s = true) :
    (sendState s).slk.freshState = s.slk.freshState + 1 ∧ (sendState s).slk.frameAt = some (monoUs s) ∧
    (sendState s).outs = s.outs ++ [Out.can p s.slk.policy.stateId.toNat (macFrame s s.slk.policy.stateId
      (le 1 1 ++ le 1 (latchNo (latch s)) ++ le 1 (lockFlags s) ++ le 1 s.slk.cause ++ be 4 (s.slk.freshState + 1)))] := by
  unfold sendState
  rw [if_pos (by rw [hon, hlog]; rfl)]
  extract_lets fresh head x y z
  have hquiet : z = y := by
    have hlast : (fresh == 0xFFFFFFFF) = false := beq_eq_false_iff_ne.mpr (Nat.ne_of_lt hfresh)
    show onlyIf (fresh == 0xFFFFFFFF) (slkEvent 5) y = y
    rw [hlast]
    rfl
  have hport' : framePort z z.slk.policy.framePort = some p := by
    rw [hquiet]
    exact hport
  rw [hport', hquiet]
  exact ⟨rfl, rfl, rfl⟩

theorem execStateFramePeriod_sends {t0 : Nat} (hat : s.slk.frameAt = some t0) (hon : stateFramesOn s = true)
    (hu : u = elapseTo (t0 + 1000 * s.slk.policy.periodMs) s) (honU : stateFramesOn u = true)
    (hport : framePort u s.slk.policy.framePort = some p) (hfresh : s.slk.freshState + 1 < 0xFFFFFFFF)
    (hlog : canLog (.intent 1 (s.slk.freshState + 1)) u = true) : ∃ t,
    exec .stateFramePeriod s = .next t ∧ t.slk.freshState = s.slk.freshState + 1 ∧ t.slk.frameAt = some (monoUs u) ∧
    t.outs = u.outs ++ [Out.can p s.slk.policy.stateId.toNat (macFrame s s.slk.policy.stateId
      (le 1 1 ++ le 1 (latchNo (latch s)) ++ le 1 (lockFlags u) ++ le 1 s.slk.cause ++ be 4 (s.slk.freshState + 1)))] := by
  have hslk : u.slk = s.slk := by rw [hu]; exact elapseTo_slk _
  have hsec : u.sec = s.sec := by rw [hu]; exact elapseTo_sec _
  have hlatch : latch u = latch s := latch_congr (congrArg Slk.code hslk) (congrArg Slk.comp hslk)
  rw [← hslk] at hport hfresh hlog
  have hsend := sendState_sends honU hport hfresh hlog
  rw [macFrame_congr hsec (congrArg Slk.policy hslk), hlatch, hslk] at hsend
  refine ⟨sendState u, congrArg Host.Outcome.next ?_, hsend⟩
  rw [hat, hu]
  exact if_pos hon

/-! ### The latch after a release -/

/-- The lock's state without what R306's note changes. -/
def unnoted (b : Slk) : Slk := { unframed b with noReleaseDone := false }

@[simp] theorem slkEvent_unnoted (i : Nat) (s : State) : unnoted (slkEvent i s).slk = unnoted s.slk := rfl

@[simp] theorem modSlk_noReleaseDone_unnoted (s : State) : unnoted (modSlk (fun b => { b with noReleaseDone := true }) s).slk = unnoted s.slk := rfl

theorem noRelease_unnoted (s : State) : unnoted (noRelease s).slk = unnoted s.slk := by
  have hlog : ∀ q, (logPart q s).slk = s.slk := fun q => by
    unfold logPart tryLog
    split <;> rfl
  unfold noRelease onlyIf
  split
  · rfl
  · split <;> simp only [slkEvent_unnoted, modSlk_noReleaseDone_unnoted, hlog]

section

variable {t0 : Nat} (hat : s.slk.reconcileAt = some t0) (hready : s.sys.ready = true) (hexit : s.slk.hearthExit = false)
  (hu : u = modSlk (fun b => { b with reconciled := true, reconcileAt := none }) (elapseTo t0 s))
include hu

theorem reconciling_slk : u.slk = { s.slk with reconciled := true, reconcileAt := none } := by
  rw [hu, modSlk, elapseTo_slk]

include hat hready hexit

theorem execReconciliation_at (hkeep : (reconcileMove u).slk.hearthExit = u.slk.hearthExit) :
    exec .reconciliation s = .next (flagsCheck (modSlk (fun b => { b with hearthExit := false }) (reconcileMove u))) := by
  have hexit' : (reconcileMove u).slk.hearthExit = false := by
    rw [hkeep, reconciling_slk hu, hexit]
  refine congrArg Host.Outcome.next ?_
  rw [hat]
  dsimp only
  rw [if_pos hready, ← hu, hexit']
  rfl

theorem execReconciliation_runs (hlatch : latch s = .released) (hrun : engineRunning u = true) (hboard : (board u).isSome = true)
    (hlog : canLog (lockRecord .released .running 0x0C u.slk.bound (nextFresh u) 0xFFFF 0 u) u = true) : ∃ t,
    exec .reconciliation s = .next t ∧ latch t = .running ∧ t.slk.cause = 0x0C ∧ t.slk.reconciled = true ∧ t.slk.reconcileAt = none := by
  have hslkU := reconciling_slk hu
  have hlatchU : latch u = .released := (latch_congr (by rw [hslkU]) (by rw [hslkU])).trans hlatch
  rw [← hlatchU] at hlog
  obtain ⟨hmoved, hcause, hrest⟩ := moveLatch_moves (tid := u.slk.bound) hboard hlog
  have hmove : reconcileMove u = moveLatch .running 0x0C u.slk.bound 0xFFFF 0 u := if_pos ⟨hlatchU, hrun⟩
  rw [← hmove] at hmoved hcause hrest
  have hexec := execReconciliation_at hat hready hexit hu (congrArg Slk.hearthExit hrest :)
  generalize reconcileMove u = m at hmoved hcause hrest hexec
  have hslk := flagsCheck_unframed (modSlk (fun b => { b with hearthExit := false }) m)
  have hreconciled : m.slk.reconciled = true := (congrArg Slk.reconciled hrest :).trans (by rw [hslkU]; rfl)
  have hwhen : m.slk.reconcileAt = none := (congrArg Slk.reconcileAt hrest :).trans (by rw [hslkU]; rfl)
  exact ⟨_, hexec, (latch_of_unframed hslk).trans hmoved,
    (congrArg Slk.cause hslk :).trans hcause, (congrArg Slk.reconciled hslk :).trans hreconciled, (congrArg Slk.reconcileAt hslk :).trans hwhen⟩

theorem execReconciliation_locked (hlatch : latch s = .locked) : ∃ t,
    exec .reconciliation s = .next t ∧ latch t = .locked ∧ t.slk.reconciled = true ∧ t.slk.reconcileAt = none := by
  have hslkU := reconciling_slk hu
  have hlatchU : latch u = .locked := (latch_congr (by rw [hslkU]) (by rw [hslkU])).trans hlatch
  have hnote : unnoted (reconcileMove u).slk = unnoted u.slk := by
    have hnotes : ∀ c, unnoted (onlyIf c noRelease u).slk = unnoted u.slk ∧ latch (onlyIf c noRelease u) = .locked := fun c => by
      cases c
      · exact ⟨rfl, hlatchU⟩
      · have hslk := noRelease_unnoted u
        exact ⟨hslk, (latch_congr (congrArg Slk.code hslk :) (congrArg Slk.comp hslk :)).trans hlatchU⟩
    unfold reconcileMove
    rw [if_neg (by rw [hlatchU]; simp), if_neg (by rw [hlatchU]; simp)]
    dsimp only
    rw [if_pos (.inr (hnotes _).2)]
    exact (hnotes _).1
  have hexec := execReconciliation_at hat hready hexit hu (congrArg Slk.hearthExit hnote :)
  generalize reconcileMove u = m at hnote hexec
  have hslk := flagsCheck_unframed (modSlk (fun b => { b with hearthExit := false }) m)
  have hlatch' : latch m = .locked := (latch_congr (congrArg Slk.code hnote :) (congrArg Slk.comp hnote :)).trans hlatchU
  have hreconciled : m.slk.reconciled = true := (congrArg Slk.reconciled hnote :).trans (by rw [hslkU]; rfl)
  have hwhen : m.slk.reconcileAt = none := (congrArg Slk.reconcileAt hnote :).trans (by rw [hslkU]; rfl)
  exact ⟨_, hexec, (latch_of_unframed hslk).trans hlatch',
    (congrArg Slk.reconciled hslk :).trans hreconciled, (congrArg Slk.reconcileAt hslk :).trans hwhen⟩

end

/-! ### CAN ports -/

@[simp] theorem flagsCheck_flt : (flagsCheck s).flt = s.flt := (flagsCheck_frame (.refl _ s) (within_refl _)).flt rfl

theorem monoUs_flagsCheck (s : State) : monoUs (flagsCheck s) = monoUs s :=
  (flagsCheck_frame (.refl _ s) (within_refl _)).monoUs_eq rfl rfl rfl

theorem execCanBusOff_falls {p : Fin 6} (hup : portUp s pCan p = true) (hoff : s.flt.canBusoff.getLsbD p = false) : ∃ t, exec (.canBusOff p) s = .next t ∧
    t.flt.canBusoff = setBits s.flt.canBusoff p ∧ t.slk.portOff = setBits s.slk.portOff p ∧
    tabFind t.slk.busOffAt p = some (monoUs s) ∧ latch t = latch s := by
  obtain ⟨off, hoffState⟩ : ∃ x : State, x = modSlk (fun b => { b with
      portOff := setBits b.portOff p.val, busOffAt := tabPut b.busOffAt p.val (monoUs s), activeAt := tabErase b.activeAt p.val })
    (modFlt (fun b => { b with canBusoff := setBits b.canBusoff p.val }) s) := ⟨_, rfl⟩
  have hevent : ∀ (c : Bool) (x : State), unframed (onlyIf c (slkEvent 4) x).slk = unframed x.slk ∧ (onlyIf c (slkEvent 4) x).flt = x.flt :=
    fun c x => by cases c <;> exact ⟨rfl, rfl⟩
  have hexec : ∃ c, exec (.canBusOff p) s = .next (flagsCheck (onlyIf c (slkEvent 4) (fault pCan p.val 0x03 sDegraded 0x02 0 0 off))) := by
    rw [hoffState]
    exact ⟨_, congrArg Host.Outcome.next (if_pos (by rw [hup, hoff]; rfl))⟩
  obtain ⟨c, hexec⟩ := hexec
  obtain ⟨hframe, hflt⟩ := hevent c (fault pCan p.val 0x03 sDegraded 0x02 0 0 off)
  have hslk := (flagsCheck_unframed (onlyIf c (slkEvent 4) (fault pCan p.val 0x03 sDegraded 0x02 0 0 off))).trans hframe
  rw [fault_slk] at hslk
  obtain ⟨fs, no, ev, hs, hfault⟩ := fault_flt_eq pCan p.val 0x03 sDegraded 0x02 0 0 off
  refine ⟨_, hexec, ?_, (congrArg Slk.portOff hslk :).trans ?_, ?_, (latch_of_unframed hslk).trans ?_⟩
  · rw [flagsCheck_flt, hflt, hfault, hoffState]
    rfl
  · rw [hoffState]
    rfl
  · have hwhen := (congrArg Slk.busOffAt hslk :)
    have hwhen' : off.slk.busOffAt = tabPut s.slk.busOffAt p.val (monoUs s) := by rw [hoffState]; rfl
    exact (congrArg (fun x => tabFind x p.val) hwhen).trans ((congrArg (fun x => tabFind x p.val) hwhen').trans (tabFind_tabPut_same ..))
  · rw [hoffState]
    rfl

theorem execCanBusoffRecovery_recovers {p : Fin 6} {t0 : Nat} (hat : tabFind s.slk.busOffAt p = some t0) : ∃ t, exec (.canBusoffRecovery p) s = .next t ∧
    t.flt.canBusoff.getLsbD p = false ∧ tabFind t.slk.busOffAt p = none ∧ tabFind t.slk.activeAt p = some (monoUs t) ∧
    t.slk.portOff = s.slk.portOff ∧ t0 + 100000 ≤ monoUs t := by
  generalize hu : elapseTo (t0 + 100000) s = u
  have hslkU : u.slk = s.slk := by rw [← hu, elapseTo_slk]
  have htime : t0 + 100000 ≤ monoUs u := by rw [← hu]; exact le_monoUs_elapseTo _
  generalize hx : modFlt (fun b => { b with canBusoff := b.canBusoff &&& ~~~ BitVec.ofNat 6 (2 ^ p.val) })
    (modSlk (fun b => { b with busOffAt := tabErase b.busOffAt p.val, activeAt := tabPut b.activeAt p.val (monoUs u) }) u) = x
  have hexec : exec (.canBusoffRecovery p) s = .next (flagsCheck x) := by
    refine congrArg Host.Outcome.next ?_
    rw [hat, ← hx, ← hu]
  have hslk := flagsCheck_unframed x
  have hmono : monoUs (flagsCheck x) = monoUs u := (monoUs_flagsCheck x).trans (by rw [← hx]; rfl)
  have hoff : x.slk.busOffAt = tabErase u.slk.busOffAt p.val := by rw [← hx]; rfl
  have hactive : x.slk.activeAt = tabPut u.slk.activeAt p.val (monoUs u) := by rw [← hx]; rfl
  have hport : x.slk.portOff = s.slk.portOff := by rw [← hslkU, ← hx]; rfl
  refine ⟨_, hexec, ?_, ?_, ?_, (congrArg Slk.portOff hslk :).trans hport, hmono ▸ htime⟩
  · rw [flagsCheck_flt, ← hx]
    exact (clearBit_getLsbD _ _ _).trans (by simp)
  · have hwhen := (congrArg Slk.busOffAt hslk :).trans hoff
    exact (congrArg (fun x => tabFind x p.val) hwhen).trans ((tabFind_tabErase ..).trans (if_pos rfl))
  · have hwhen := (congrArg Slk.activeAt hslk :).trans hactive
    rw [hmono]
    exact (congrArg (fun x => tabFind x p.val) hwhen).trans (tabFind_tabPut_same ..)

theorem execCanPortReturn_returns {p : Fin 6} {t0 : Nat} (hat : tabFind s.slk.activeAt p = some t0) : ∃ t, exec (.canPortReturn p) s = .next t ∧
    t.slk.portOff.getLsbD p = false ∧ tabFind t.slk.activeAt p = none ∧ t0 + 1000000 ≤ monoUs t ∧ latch t = latch s := by
  generalize hu : elapseTo (t0 + 1000000) s = u
  have hslkU : u.slk = s.slk := by rw [← hu, elapseTo_slk]
  have htime : t0 + 1000000 ≤ monoUs u := by rw [← hu]; exact le_monoUs_elapseTo _
  generalize hx : modSlk (fun b => { b with
    activeAt := tabErase b.activeAt p.val, portOff := b.portOff &&& ~~~ BitVec.ofNat 6 (2 ^ p.val) }) u = x
  have hexec : exec (.canPortReturn p) s = .next (flagsCheck x) := by
    refine congrArg Host.Outcome.next ?_
    rw [hat, ← hx, ← hu]
  have hslk := flagsCheck_unframed x
  have hmono : monoUs (flagsCheck x) = monoUs u := (monoUs_flagsCheck x).trans (by rw [← hx]; rfl)
  have hactive : x.slk.activeAt = tabErase u.slk.activeAt p.val := by rw [← hx]; rfl
  have hport : x.slk.portOff = u.slk.portOff &&& ~~~ BitVec.ofNat 6 (2 ^ p.val) := by rw [← hx]; rfl
  refine ⟨_, hexec, ?_, ?_, hmono ▸ htime, (latch_of_unframed hslk).trans ?_⟩
  · have hport' := (congrArg Slk.portOff hslk :).trans hport
    refine (congrArg (fun v : BitVec 6 => v.getLsbD p.val) hport').trans ?_
    rw [clearBit_getLsbD, decide_eq_true rfl, Bool.not_true, Bool.and_false]
  · have hwhen := (congrArg Slk.activeAt hslk :).trans hactive
    exact (congrArg (fun x => tabFind x p.val) hwhen).trans ((tabFind_tabErase ..).trans (if_pos rfl))
  · rw [← hx]
    exact latch_congr (congrArg Slk.code hslkU :) (congrArg Slk.comp hslkU :)

/-! ### The SLK balls -/

theorem execSlkMismatch_differs {out1 : Bool} (hfit : out1 = true → ∃ b, board s = some b ∧ b.slk1 = true)
    (hbit : s.flt.slkMismatch.getLsbD (ofBool out1) = false) : ∃ t, exec (.slkMismatch out1 false) s = .next t ∧
    t.flt.slkMismatch = setBits s.flt.slkMismatch (ofBool out1) ∧ t.slk = s.slk := by
  obtain ⟨fs, no, ev, hs, hfault⟩ := fault_flt_eq uSlk (ofBool out1) 0x03 sDegraded 0x00 0 0
    (modFlt (fun b => { b with slkMismatch := setBits b.slkMismatch (ofBool out1) }) s)
  refine ⟨_, congrArg Host.Outcome.next ((if_neg ?_).trans ((if_neg Bool.false_ne_true).trans (if_neg (by rw [hbit]; simp)))), ?_, fault_slk ..⟩
  · cases out1
    · simp
    · obtain ⟨b, hb, hslk1⟩ := hfit rfl
      rw [hb]
      simp [hslk1]
  · rw [hfault]
    rfl

theorem execSlkMismatch_agrees (hbit : s.flt.slkMismatch.getLsbD 0 = true) : ∃ t, exec (.slkMismatch false true) s = .next t ∧
    t.flt.slkMismatch.getLsbD 0 = false ∧ t.slk = s.slk := by
  obtain ⟨fs, no, ev, hfault⟩ := writeFault_flt_eq uSlk 0 0x09 sInfo 0x09 0 0
    (modFlt (fun b => { b with slkMismatch := b.slkMismatch &&& ~~~ BitVec.ofNat 2 (2 ^ 0) }) s)
  refine ⟨_, congrArg Host.Outcome.next ((if_neg (by simp)).trans ((if_pos rfl).trans (if_pos hbit))), ?_, writeFault_slk ..⟩
  refine (congrArg (fun b => b.slkMismatch.getLsbD 0) hfault).trans ?_
  exact (clearBit_getLsbD _ _ _).trans (by simp)

/-- Settles O29. -/
theorem lockFramesAndBalls : Obligations.LockFramesAndBalls := by
  exact ⟨fun _ _ _ _ hat hon hu honU hport hfresh hlog => execStateFramePeriod_sends hat hon hu honU hport hfresh hlog,
    fun _ _ _ hat hready hexit hu hlatch hrun hboard hlog => execReconciliation_runs hat hready hexit hu hlatch hrun hboard hlog,
    fun _ _ hat hready hexit hlatch => execReconciliation_locked hat hready hexit rfl hlatch,
    fun _ _ hup hoff => execCanBusOff_falls hup hoff, fun _ _ _ hat => execCanBusoffRecovery_recovers hat,
    fun _ _ _ hat => execCanPortReturn_returns hat, fun _ hbit => execSlkMismatch_differs (by simp) hbit,
    fun _ hbit => execSlkMismatch_agrees hbit, fun b _ hboard hslk1 hbit => execSlkMismatch_differs (fun _ => ⟨b, hboard, hslk1⟩) hbit⟩

end Sys2Proof.Machine

/-! The start lock (O28). -/

namespace Sys2Proof.Machine

variable {r t0 tid zone : Nat} {ev : StartEvidence} {f g : Flight} {p : Poll} {new : Latch} {s t u v w x y : State}

/-! ### Ports and coexistence pairs -/

theorem portUp_congr (hcfg : t.cfg = s.cfg) (hflt : t.flt = s.flt) (hpwr : t.pwr = s.pwr) (hrc : t.clk.onRc = s.clk.onRc) (k n : Nat) :
    portUp t k n = portUp s k n := by
  simp only [portUp, fitted, board, unitSt, clockServes, railServes, hcfg, hflt, hpwr, hrc]

theorem coexPairs_congr (hcfg : t.cfg = s.cfg) (hflt : t.flt = s.flt) (hpwr : t.pwr = s.pwr) (hrc : t.clk.onRc = s.clk.onRc) (act : Nat) :
    coexPairs t act = coexPairs s act := by
  simp only [coexPairs, uhfRec, board, hcfg, hpwr, portUp_congr hcfg hflt hpwr hrc]

theorem coexPairs_elapseToNs (n act : Nat) : coexPairs (elapseToNs n s) act = coexPairs s act :=
  coexPairs_congr (elapseToNs_cfg _) (elapseToNs_flt _) (elapseToNs_pwr _)
    ((elapseToNs_frame (.refl _ s) (within_refl _) n).onRc rfl) act

/-! ### The commit of a START -/

/-- The policy of a START under which its token alone counts, and whose ranging found it in time, commits. -/
theorem startRun_commits (hcard : (startPolicyOf (modRadio (fun b => { b with poll := b.session, session := none }) y) r).reqCard = false)
    (hw : w = modRadio (fun b => { b with poll := b.session, session := none }) y)
    (hrange : rangeAll r (startLimit w r f) (startPolicyOf w r).tokenNs (startPairs w != []) (startCands w (fieldLE f.raw 24 4)) ev.tokens
      (failFate fAbsent 0x20) w = .pass (tid, zone) v)
    (hlim : monoUs v < startLimit w r f) (hu : u = putSession y.radio.poll (priFall v)) (hg : getFlight u r = some g) (hn : g.fate = none)
    (hlock : u.slk.lockReqOps ≤ r) (hepoch : u.slc.epoch = f.epochAdm) (hcommit : commitHolds f true u = true)
    (hlog : canLog (lockRecord (latch u) (startTarget u) 0x01 tid (nextFresh u) f.ten (dSeq f.raw) u) u = true) :
    latch (startRun r ev f y) = startTarget u ∧ (startRun r ev f y).slk.bound = tid ∧ (startRun r ev f y).slk.cause = 0x01 ∧
    Done r (latchNo (startTarget u) + 256 * zone + 65536 * tid) (startRun r ev f y) := by
  generalize hz : setLatch (latch u) (startTarget u) 0x01 (some tid)
    (logRec (lockRecord (latch u) (startTarget u) 0x01 tid (nextFresh u) f.ten (dSeq f.raw) u) u) = z
  have hrun : startRun r ev f y =
      settle r { done (latchNo (startTarget u) + 256 * zone + 65536 * tid) with degraded := frontReduced (logRec
        (lockRecord (latch u) (startTarget u) 0x01 tid (nextFresh u) f.ten (dSeq f.raw) u) u) } z := by
    unfold startRun
    extract_lets pol old pri x
    have hx : x = w := hw.symm
    have hpol : pol = startPolicyOf w r := by rw [hw]; rfl
    have hlim' : startLimit x r f = startLimit w r f := by rw [hx]
    have hpri : pri = (startPairs w != []) := by rw [hw]; rfl
    rw [hlim', hx, hpol, hpri, hrange]
    have hlate : ¬startLimit w r f ≤ monoUs v := Nat.not_le.mpr hlim
    have hcard' : ¬(startPolicyOf w r).reqCard = true := by rw [hw, hcard]; simp
    refine (if_neg hlate).trans ((if_neg hcard').trans ?_)
    have hold : putSession old (priFall v) = u := hu.symm
    rw [hold]
    have hpast : ¬(u.slc.epoch != f.epochAdm && !stillPasses u tid none) = true := by
      rw [bne_eq_false_iff_eq.mpr hepoch]
      simp
    refine (if_neg (Nat.not_lt.mpr hlock)).trans ((if_neg hpast).trans ((if_pos hcommit).trans ((if_pos hlog).trans ?_)))
    rw [← hz]
  obtain ⟨hlatch, hcause, hbound, -⟩ := setLatch_sets (latch u) (startTarget u) 0x01 (some tid)
    (logRec (lockRecord (latch u) (startTarget u) 0x01 tid (nextFresh u) f.ten (dSeq f.raw) u) u)
  rw [hz] at hlatch hcause hbound
  have hflight : getFlight z r = some g := by
    rw [← hz]
    exact (getFlight_of_host ((setLatch_frame (.refl _ (logRec _ u)) (within_refl _) _ _ _ _).flights rfl)).trans hg
  have hslk : (startRun r ev f y).slk = z.slk := by rw [hrun]; exact (settle_frame_of _).slk rfl
  refine ⟨(latch_congr (congrArg Slk.code hslk) (congrArg Slk.comp hslk)).trans hlatch, (congrArg Slk.bound hslk).trans hbound,
    (congrArg Slk.cause hslk).trans hcause, ?_⟩
  rw [hrun]
  exact settle_ended hflight hn _

@[simp] theorem resumePoll_slk : (resumePoll s).slk = s.slk := (resumePoll_frame (.refl _ s) (within_refl _)).slk rfl
@[simp] theorem resumePoll_flights : (resumePoll s).host.flights = s.host.flights := (resumePoll_frame (.refl _ s) (within_refl _)).flights rfl
@[simp] theorem firstChallenge_slk (r : Nat) (f : Flight) : (firstChallenge r f s).slk = s.slk := (firstChallenge_frame (.refl _ s) (within_refl _) r f).slk rfl
@[simp] theorem awaitLead_slk (r : Nat) (ev : StartEvidence) (old : Option Poll) (p : Poll) : (awaitLead r ev old p s).slk = s.slk := (awaitLead_frame (.refl _ s) (within_refl _) r ev old p).slk rfl

theorem resumePoll_commits (h : latch y = new ∧ y.slk.bound = tid ∧ y.slk.cause = 0x01 ∧ Done r zone y) :
    latch (resumePoll y) = new ∧ (resumePoll y).slk.bound = tid ∧ (resumePoll y).slk.cause = 0x01 ∧ Done r zone (resumePoll y) := by
  obtain ⟨hlatch, hbound, hcause, hdone⟩ := h
  rw [resumePoll_slk]
  exact ⟨(latch_congr (congrArg Slk.code resumePoll_slk) (congrArg Slk.comp resumePoll_slk)).trans hlatch, hbound, hcause,
    hdone.of_flights resumePoll_flights⟩

/-! ### The coexistence pins -/

theorem driveReq_radio (v : BitVec 2) (s : State) : (driveReq v s).radio = { s.radio with coexReq := v } := by
  unfold driveReq
  refine each_same State.radio [0, 1] _ (fun m t => ?_) _
  split <;> rfl

theorem drivePri_radio (c : Bool) (s : State) : (drivePri c s).radio = { s.radio with coexPri := c } := by
  unfold drivePri
  split
  · next h => rw [← h]
  · cases vio18 s <;> rfl

theorem priFall_pri (s : State) : (priFall s).radio.coexPri = false := by rw [priFall, drivePri_radio]

theorem resumePoll_pri (s : State) : (resumePoll s).radio.coexPri = s.radio.coexPri := by
  have hanew : ∀ act q, (coexAnew act q s).radio.coexPri = s.radio.coexPri := fun act q => by
    rw [coexAnew, coexRaise, driveReq_radio]
    exact (congrArg Radio.coexPri (driveReq_radio 0 s) :)
  unfold resumePoll
  split
  · split
    · exact hanew _ _
    · split
      · exact hanew _ _
      · rfl
  · rfl

/-- COEX_PRI up with the requests of `v`. -/
theorem priDriven (v : BitVec 2) (s : State) : Frame [.radio, .outs] s (drivePri true (driveReq v s)) ∧
    (drivePri true (driveReq v s)).radio.coexPri = true ∧ (drivePri true (driveReq v s)).radio.coexReq = v := by
  have hreq := driveReq_radio v s
  refine ⟨drivePri_frame (driveReq_frame (.refl _ s) (within_refl _) _) (within_refl _) _, ?_, ?_⟩
  · rw [drivePri_radio]
  · rw [drivePri_radio]
    exact (congrArg Radio.coexReq hreq :)

/-- The lead that a session waits for: the requests and COEX_PRI are up, 100 µs before the trigger. -/
theorem awaitLead_waits (old : Option Poll) : (awaitLead r ev old p x).radio.startWait = some (r, monoUs (awaitLead r ev old p x), ev) ∧
    (awaitLead r ev old p x).radio.session = some p ∧ (awaitLead r ev old p x).radio.coexPri = true ∧
    (awaitLead r ev old p x).radio.coexReq = x.radio.coexReq ||| pairMask (coexPairs x 0) ∧
    slotAt p 0 ≤ (awaitLead r ev old p x).clk.ns + 100000 := by
  have hradio := (elapseToNs_frame (.refl _ x) (within_refl _) (slotAt p 0 - 100000)).radio rfl
  have hns := elapseToNs_ns (slotAt p 0 - 100000) x
  have hpairs := coexPairs_elapseToNs (s := x) (slotAt p 0 - 100000) 0
  unfold awaitLead
  dsimp only
  generalize elapseToNs (slotAt p 0 - 100000) x = y at hradio hns hpairs ⊢
  rw [hradio, hpairs]
  obtain ⟨hframe, hpri, hreq⟩ := priDriven (x.radio.coexReq ||| pairMask (coexPairs x 0)) y
  generalize drivePri true (driveReq (x.radio.coexReq ||| pairMask (coexPairs x 0)) y) = z at hframe hpri hreq
  have hmono : monoUs z = monoUs y := hframe.monoUs_eq rfl rfl rfl
  have hnsZ : z.clk.ns = y.clk.ns := hframe.time rfl
  rw [← hmono]
  rw [← hnsZ] at hns
  generalize slotAt p 0 = n at hns
  refine ⟨rfl, rfl, hpri, hreq, ?_⟩
  have hlead : n ≤ z.clk.ns + 100000 := by omega
  exact hlead

section

variable (hr : Ready 0x0300 r f s) (hready : startReady s r f ev = true) (hwait : s.radio.startWait = none) (hair : airFree s = true)
include hr hready hwait hair

theorem execStart_begins : exec (.start r ev) s = .next (startBegin r ev f (modRadio (fun b => { b with startDue := none }) (started r s))) := by
  refine congrArg Host.Outcome.next ?_
  rw [hr.here]
  dsimp only
  rw [hwait, hready, hair, if_neg (by simp), if_neg (by simp), startOp_ready hr]

theorem execStart_service (hmode : s.pwr.mode = .service) : ∃ t, exec (.start r ev) s = .next t ∧ Ended r fPolicy 0 0x28 t ∧ t.slk = s.slk := by
  have hmode' : (modRadio (fun b => { b with startDue := none }) (started r s)).pwr.mode = .service := hmode
  refine ⟨_, (execStart_begins hr hready hwait hair).trans (congrArg Host.Outcome.next (if_pos ?_)),
    settle_ended (s := modRadio (fun b => { b with startDue := none }) (started r s)) hr.begun hr.noFate (failFate fPolicy 0x28), (settle_frame_of _).slk rfl⟩
  rw [hmode']
  rfl

variable (hmode : s.pwr.mode = .cab ∨ s.pwr.mode = .drive)
  (hx : x = firstChallenge r f (modRadio (fun b => { b with startDue := none }) (started r s))) (hp : x.radio.poll = some p)
include hmode hx hp

omit hr hready hwait hair in
theorem startBegin_challenges : startBegin r ev f (modRadio (fun b => { b with startDue := none }) (started r s)) =
    if p.phase == .slots && coexPairs x 0 != [] then awaitLead r ev s.radio.poll p x
    else resumePoll (startRun r ev f (modRadio (fun b => { b with poll := s.radio.poll, session := some p }) x)) := by
  have hmode' : ¬(!((modRadio (fun b => { b with startDue := none }) (started r s)).pwr.mode == .cab ||
      (modRadio (fun b => { b with startDue := none }) (started r s)).pwr.mode == .drive)) = true := by
    show ¬(!(s.pwr.mode == .cab || s.pwr.mode == .drive)) = true
    rcases hmode with h | h <;> rw [h] <;> decide
  refine (if_neg hmode').trans ?_
  rw [← hx]
  dsimp only
  rw [hp]
  rfl

theorem execStart_commits (hphase : p.phase ≠ .slots ∨ coexPairs x 0 = []) (hw : w = modRadio (fun b => { b with poll := some p, session := none }) x)
    (hcard : (startPolicyOf w r).reqCard = false)
    (hrange : rangeAll r (startLimit w r f) (startPolicyOf w r).tokenNs (startPairs w != []) (startCands w (fieldLE f.raw 24 4)) ev.tokens
      (failFate fAbsent 0x20) w = .pass (tid, zone) v)
    (hlim : monoUs v < startLimit w r f) (hu : u = putSession s.radio.poll (priFall v)) (hg : getFlight u r = some g) (hn : g.fate = none)
    (hlock : u.slk.lockReqOps ≤ r) (hepoch : u.slc.epoch = f.epochAdm) (hcommit : commitHolds f true u = true)
    (hlog : canLog (lockRecord (latch u) (startTarget u) 0x01 tid (nextFresh u) f.ten (dSeq f.raw) u) u = true) : ∃ t,
    exec (.start r ev) s = .next t ∧ latch t = startTarget u ∧ t.slk.bound = tid ∧ t.slk.cause = 0x01 ∧
    Done r (latchNo (startTarget u) + 256 * zone + 65536 * tid) t := by
  have hgo : ¬(p.phase == .slots && coexPairs x 0 != []) = true := by
    rcases hphase with h | h
    · rw [beq_eq_false_iff_ne.mpr h]
      simp
    · rw [h]
      simp
  refine ⟨_, (execStart_begins hr hready hwait hair).trans (congrArg Host.Outcome.next
    ((startBegin_challenges hmode hx hp).trans (if_neg hgo))), resumePoll_commits ?_⟩
  have hcard' : (startPolicyOf (modRadio (fun b => { b with poll := b.session, session := none })
      (modRadio (fun b => { b with poll := s.radio.poll, session := some p }) x)) r).reqCard = false := by
    rw [← hcard, hw]
    rfl
  exact startRun_commits hcard' hw hrange hlim hu hg hn hlock hepoch hcommit hlog

theorem execStart_awaits (hphase : p.phase = .slots) (hpairs : coexPairs x 0 ≠ []) : ∃ t, exec (.start r ev) s = .next t ∧
    t.radio.startWait = some (r, monoUs t, ev) ∧ t.radio.session = some p ∧ t.radio.coexPri = true ∧
    t.radio.coexReq = x.radio.coexReq ||| pairMask (coexPairs x 0) ∧ slotAt p 0 ≤ t.clk.ns + 100000 ∧ t.slk = s.slk := by
  have hgo : (p.phase == .slots && coexPairs x 0 != []) = true := by
    rw [hphase, bne_iff_ne.mpr hpairs]
    rfl
  refine ⟨_, (execStart_begins hr hready hwait hair).trans (congrArg Host.Outcome.next
    ((startBegin_challenges hmode hx hp).trans (if_pos hgo))), ?_⟩
  obtain ⟨hstart, hsession, hpri, hreq, hslot⟩ := awaitLead_waits (r := r) (ev := ev) (p := p) (x := x) s.radio.poll
  refine ⟨hstart, hsession, hpri, hreq, hslot, ?_⟩
  rw [awaitLead_slk, hx, firstChallenge_slk]
  rfl

end

/-- The lead has passed: the START runs on, and then the priority falls (R276). -/
theorem execCoexPriLead_runs (hwait : s.radio.startWait = some (r, t0, ev)) (hrun : Running 0x0300 r f s)
    (hx : x = modRadio (fun b => { b with startWait := none }) (elapseTo (t0 + 100) s)) :
    exec .coexPriLead s = .next (resumePoll (priFall (modRadio (fun b => { b with session := none }) (startRun r ev f x)))) := by
  have hrunX : Running 0x0300 r f x := by
    refine ⟨?_, ?_, hrun.opc, hrun.begun, hrun.noFate⟩
    · rw [hx]
      exact (getFlight_elapseTo _ s).trans hrun.here
    · rw [← hrun.work, hx, working, working]
      show ((elapseTo (t0 + 100) s).sys.ready && (elapseTo (t0 + 100) s).pwr.mode != .hearth) = _
      rw [elapseTo_sys, elapseTo_pwr]
  refine congrArg Host.Outcome.next ?_
  rw [hwait]
  dsimp only
  rw [← hx, onOp_running hrunX]

/-- The lead has passed: the session goes on to its commit, and the priority falls. -/
theorem execCoexPriLead_commits (hwait : s.radio.startWait = some (r, t0, ev)) (hrun : Running 0x0300 r f s)
    (hx : x = modRadio (fun b => { b with startWait := none }) (elapseTo (t0 + 100) s))
    (hw : w = modRadio (fun b => { b with poll := b.session, session := none }) x) (hcard : (startPolicyOf w r).reqCard = false)
    (hrange : rangeAll r (startLimit w r f) (startPolicyOf w r).tokenNs (startPairs w != []) (startCands w (fieldLE f.raw 24 4)) ev.tokens
      (failFate fAbsent 0x20) w = .pass (tid, zone) v)
    (hlim : monoUs v < startLimit w r f) (hu : u = putSession x.radio.poll (priFall v)) (hg : getFlight u r = some g) (hn : g.fate = none)
    (hlock : u.slk.lockReqOps ≤ r) (hepoch : u.slc.epoch = f.epochAdm) (hcommit : commitHolds f true u = true)
    (hlog : canLog (lockRecord (latch u) (startTarget u) 0x01 tid (nextFresh u) f.ten (dSeq f.raw) u) u = true) : ∃ t,
    exec .coexPriLead s = .next t ∧ latch t = startTarget u ∧ t.slk.bound = tid ∧ t.slk.cause = 0x01 ∧ t.radio.coexPri = false ∧
    Done r (latchNo (startTarget u) + 256 * zone + 65536 * tid) t := by
  have hfall : ∀ z, (priFall z).slk = z.slk ∧ (priFall z).host.flights = z.host.flights := fun z =>
    ⟨(priFall_frame (.refl _ z) (within_refl _)).slk rfl, (priFall_frame (.refl _ z) (within_refl _)).flights rfl⟩
  obtain ⟨hslk, hflights⟩ := hfall (modRadio (fun b => { b with session := none }) (startRun r ev f x))
  have hpri := priFall_pri (modRadio (fun b => { b with session := none }) (startRun r ev f x))
  have hexec := execCoexPriLead_runs hwait hrun hx
  obtain ⟨hlatch, hbound, hcause, hdone⟩ := startRun_commits (hw ▸ hcard) hw hrange hlim hu hg hn hlock hepoch hcommit hlog
  have hcommits := resumePoll_commits (y := priFall (modRadio (fun b => { b with session := none }) (startRun r ev f x)))
    ⟨(latch_congr (congrArg Slk.code hslk) (congrArg Slk.comp hslk)).trans hlatch, (congrArg Slk.bound hslk).trans hbound,
      (congrArg Slk.cause hslk).trans hcause, hdone.of_flights hflights⟩
  obtain ⟨hlatch', hbound', hcause', hdone'⟩ := hcommits
  exact ⟨_, hexec, hlatch', hbound', hcause', (resumePoll_pri _).trans hpri, hdone'⟩

theorem execStart_held (hf : getFlight s r = some f) (hready : startReady s r f ev = true) (hwait : s.radio.startWait = none)
    (hair : airFree s = false) (hturn : startTurn s r f = true) :
    exec (.start r ev) s = .next { s with radio := { s.radio with startDue := some r } } := by
  refine congrArg Host.Outcome.next ?_
  rw [hf]
  dsimp only
  refine (if_neg (by rw [hwait, hready]; simp)).trans ((if_pos (by rw [hair]; rfl)).trans ?_)
  exact if_pos hturn

/-! ### Lock requests -/


theorem execLockReq_moves (hr : Ready 0x0301 r f s) (hboard : (board s).isSome = true) (htarget : requestTarget 0x02 s = some new)
    (hlog : canLog (lockRecord (latch s) new 0x02 s.slk.bound (nextFresh s) f.ten (dSeq f.raw) s) s = true) : ∃ t,
    exec (.lockReq r) s = .next t ∧ Done r (latchNo new) t ∧ latch t = new ∧ t.slk.cause = 0x02 := by
  have hmode : (started r s).pwr.mode ≠ .hearth := bne_iff_ne.mp (Bool.and_eq_true _ _ ▸ hr.work : _ ∧ _).2
  have htarget' : requestTarget 0x02 (started r s) = some new := htarget
  obtain ⟨hlatch, hcause, -⟩ := lockRequest_moves (s := started r s) (seq := dSeq f.raw) (ten := f.ten) hmode hboard htarget' hlog
  generalize hy : lockRequest 0x02 f.ten (dSeq f.raw) (started r s) = y at hlatch hcause
  have hslk : (settle r (done (latchNo (latch y))) y).slk = y.slk := (settle_frame_of _).slk rfl
  have hflight : getFlight y r = some { f with begun := true } := by
    rw [← hy]
    exact (getFlight_of_host (lockRequest_flights _ _ _)).trans hr.begun
  refine ⟨settle r (done (latchNo (latch y))) y, congrArg Host.Outcome.next ?_, hlatch ▸ settle_done hflight hr.noFate _,
    (latch_congr (congrArg Slk.code hslk) (congrArg Slk.comp hslk)).trans hlatch, (congrArg Slk.cause hslk).trans hcause⟩
  rw [startOp_ready hr, ← hy]

theorem execLockReq_stands (hr : Ready 0x0301 r f s) (h : requestTarget 0x02 s = none ∨ board s = none) : ∃ t,
    exec (.lockReq r) s = .next t ∧ Done r (latchNo (latch s)) t ∧ latch t = latch s := by
  have h' : requestTarget 0x02 (started r s) = none ∨ board (started r s) = none := h
  have hlatch : latch (lockRequest 0x02 f.ten (dSeq f.raw) (started r s)) = latch s := lockRequest_stands h'
  generalize hy : lockRequest 0x02 f.ten (dSeq f.raw) (started r s) = y at hlatch
  have hslk : (settle r (done (latchNo (latch y))) y).slk = y.slk := (settle_frame_of _).slk rfl
  have hflight : getFlight y r = some { f with begun := true } := by
    rw [← hy]
    exact (getFlight_of_host (lockRequest_flights _ _ _)).trans hr.begun
  refine ⟨settle r (done (latchNo (latch y))) y, congrArg Host.Outcome.next ?_, hlatch ▸ settle_done hflight hr.noFate _,
    (latch_congr (congrArg Slk.code hslk) (congrArg Slk.comp hslk)).trans hlatch⟩
  rw [startOp_ready hr, ← hy]

/-! ### The lock's timers -/

theorem latch_elapseTo (n : Nat) (s : State) : latch (elapseTo n s) = latch s :=
  latch_congr (congrArg Slk.code (elapseTo_slk n)) (congrArg Slk.comp (elapseTo_slk n))

theorem execArmHoldExpiry_at (hend : s.slk.timerEnd = some t0) (hkind : s.slk.timerKind = 1) (harmed : latch s = .armed) (hu : u = elapseTo t0 s) :
    exec .armHoldExpiry s = .next (moveLatch .locked 0x0B u.slk.bound 0xFFFF 0 u) := by
  refine congrArg Host.Outcome.next ?_
  rw [hend, hu]
  exact if_pos ⟨hkind, harmed⟩

theorem execReleaseWindowExpiry_at (hend : s.slk.timerEnd = some t0) (hkind : s.slk.timerKind = 2) (hreleased : latch s = .released)
    (hu : u = if s.slk.winDue && decide (crankedTo s < 1000 * t0) then elapseToNs (crankedTo s) s else elapseTo t0 s) :
    exec .releaseWindowExpiry s = .next (if cranking u && decide (monoUs u < u.slk.winCap) then
      modSlk (fun b => { b with winDue := true, timerEnd := some b.winCap }) u else windowExpired u) := by
  refine congrArg Host.Outcome.next ?_
  rw [hend, hu]
  exact if_pos ⟨hkind, hreleased⟩

/-- A release window that has passed locks where the vehicle rests. -/
theorem windowExpired_locks (hmode : u.pwr.mode ≠ .hearth) (hreleased : latch u = .released) (hrest : atRest u = true) (hboard : (board u).isSome = true)
    (hlog : canLog (lockRecord .released .locked 0x04 u.slk.bound (nextFresh u) 0xFFFF 0 u) u = true) :
    latch (windowExpired u) = .locked ∧ (windowExpired u).slk.cause = 0x04 ∧ (windowExpired u).clk.ns = u.clk.ns := by
  generalize hx : modSlk (fun b => { b with winDue := false }) u = x
  have hreleasedX : latch x = .released := by rw [← hx]; exact hreleased
  have htarget : requestTarget 0x04 x = some .locked := by
    have hrestX : atRest x = true := by rw [← hx]; exact hrest
    rw [requestTarget, hreleasedX]
    dsimp only
    rw [if_pos (.inr hrestX)]
  have hlogX : canLog (lockRecord (latch x) .locked 0x04 x.slk.bound (nextFresh x) 0xFFFF 0 x) x = true := by
    rw [hreleasedX, ← hx]
    exact hlog
  obtain ⟨hlatch, hcause, -⟩ := lockRequest_moves (s := x) (by rw [← hx]; exact hmode) (by rw [← hx]; exact hboard) htarget hlogX
  have hexpired : windowExpired u = lockRequest 0x04 0xFFFF 0 x := by
    rw [windowExpired, hx]
    exact if_pos hreleasedX
  have hns : (lockRequest 0x04 0xFFFF 0 x).clk.ns = x.clk.ns := (lockRequest_frame (.refl _ x) (within_refl _) _ _ _).time rfl
  rw [hexpired, hns]
  exact ⟨hlatch, hcause, by rw [← hx]; rfl⟩

theorem execIgnitionOffDebounce_locks (hat : s.slk.ignOffAt = some t0) (hign : ignAsserted s = false) (hready : s.sys.ready = true)
    (hauto : s.slk.policy.autoLock = true) (hmode : s.pwr.mode ≠ .hearth)
    (hu : u = modSlk (fun b => { b with ignOffAt := none }) (elapseTo (t0 + 2000000) s)) (hboard : (board u).isSome = true)
    (htarget : requestTarget 0x03 u = some new)
    (hlog : canLog (lockRecord (latch u) new 0x03 u.slk.bound (nextFresh u) 0xFFFF 0 u) u = true) : ∃ t,
    exec .ignitionOffDebounce s = .next t ∧ latch t = new ∧ t.slk.cause = 0x03 ∧ t.slk.ignOffAt = none := by
  have hslk : u.slk = { s.slk with ignOffAt := none } := by rw [hu, modSlk, elapseTo_slk]
  have hmodeU : u.pwr.mode ≠ .hearth := by
    rw [hu]
    show (elapseTo (t0 + 2000000) s).pwr.mode ≠ .hearth
    rwa [elapseTo_pwr]
  obtain ⟨hlatch, hcause, hoff⟩ := lockRequest_moves hmodeU hboard htarget hlog
  refine ⟨_, congrArg Host.Outcome.next ?_, hlatch, hcause, hoff.trans (by rw [hslk])⟩
  rw [hat]
  refine (if_neg (by rw [hign, hready]; simp)).trans ?_
  rw [← hu]
  exact if_pos (by rw [hslk]; exact hauto)

theorem execIgnitionOffDebounce_ends (hat : s.slk.ignOffAt = some t0) (hign : ignAsserted s = false) (hready : s.sys.ready = true)
    (hauto : s.slk.policy.autoLock = false) : ∃ t, exec .ignitionOffDebounce s = .next t ∧ t.slk = { s.slk with ignOffAt := none } := by
  have hslk : (modSlk (fun b => { b with ignOffAt := none }) (elapseTo (t0 + 2000000) s)).slk = { s.slk with ignOffAt := none } := by
    rw [modSlk, elapseTo_slk]
  refine ⟨_, congrArg Host.Outcome.next ?_, hslk⟩
  rw [hat]
  refine (if_neg (by rw [hign, hready]; simp)).trans (if_neg ?_)
  rw [hslk, hauto]
  simp

theorem execLockHoldExpiry_locks (hend : s.slk.timerEnd = some t0) (hkind : s.slk.timerKind = 3) (hdeferred : latch s = .deferred)
    (hrest : atRest s = true) (hu : u = elapseTo t0 s) (hrestU : atRest u = true) (hboard : (board u).isSome = true)
    (hlog : canLog (lockRecord .deferred .locked 0x05 u.slk.bound (nextFresh u) 0xFFFF 0 u) u = true) : ∃ t,
    exec .lockHoldExpiry s = .next t ∧ latch t = .locked ∧ t.slk.cause = 0x05 := by
  have hlatchU : latch u = .deferred := by rw [hu, latch_elapseTo, hdeferred]
  rw [← hlatchU] at hlog
  obtain ⟨hlatch, hcause, -⟩ := moveLatch_moves (tid := u.slk.bound) hboard hlog
  refine ⟨_, congrArg Host.Outcome.next ?_, hlatch, hcause⟩
  rw [hend]
  refine (if_pos ⟨hkind, hdeferred, hrest⟩).trans ?_
  rw [← hu]
  exact if_pos hrestU

/-! ### Records written again -/

theorem execSlkLedgerRetry_one {k : SlkRetry} (hretry : s.slk.retry = [k]) (hmode : s.pwr.mode ≠ .hearth)
    (hu : u = modSlk (fun b => { b with retry := [] }) (elapseTo s.slk.retryAt s)) (hcause : k.cause = 0x0B) :
    exec .slkLedgerRetry s = .next (if latch u = .armed ∧ timerOver 1 u then moveLatch .locked 0x0B u.slk.bound 0xFFFF 0 u else u) := by
  have hone : retryCause k u = if latch u = .armed ∧ timerOver 1 u then moveLatch .locked 0x0B u.slk.bound 0xFFFF 0 u else u := by
    unfold retryCause
    rw [hcause]
    rfl
  refine congrArg Host.Outcome.next ((if_neg (by rw [hretry]; simp [hmode])).trans ?_)
  rw [← hone, ← hu, hretry]
  rfl

/-- Settles O28. -/
theorem startLock : Obligations.StartLock := by
  refine ⟨fun _ _ _ _ _ _ _ _ _ _ _ _ hr hready hwait hair hmode hx hp hphase hw hcard hrange hlim hu hg hn hlock hepoch hcommit hlog =>
      execStart_commits hr hready hwait hair hmode hx hp hphase hw hcard hrange hlim hu hg hn hlock hepoch hcommit hlog,
    fun _ _ _ _ _ _ hr hready hwait hair hmode hx hp hphase hpairs => execStart_awaits hr hready hwait hair hmode hx hp hphase hpairs,
    fun _ _ _ _ _ _ _ _ _ _ _ _ hwait hrun hx hw hcard hrange hlim hu hg hn hlock hepoch hcommit hlog =>
      execCoexPriLead_commits hwait hrun hx hw hcard hrange hlim hu hg hn hlock hepoch hcommit hlog,
    fun _ _ _ _ hf hready hwait hair hturn => execStart_held hf hready hwait hair hturn,
    fun _ _ _ _ hr hready hwait hair hmode => execStart_service hr hready hwait hair hmode,
    fun _ _ _ _ hr hboard htarget hlog => execLockReq_moves hr hboard htarget hlog, fun _ _ _ hr h => execLockReq_stands hr h,
    fun _ _ _ hr => ⟨_, congrArg Host.Outcome.next (startOp_ready hr _), hr.writes 0 _ (done 0)⟩, ?_, ?_,
    fun _ _ _ _ hat hign hready hauto hmode hu hboard htarget hlog =>
      execIgnitionOffDebounce_locks hat hign hready hauto hmode hu hboard htarget hlog,
    fun _ _ hat hign hready hauto => execIgnitionOffDebounce_ends hat hign hready hauto, ?_, ?_, ?_,
    fun _ _ _ hend hkind hdeferred hrest hu hrestU hboard hlog => execLockHoldExpiry_locks hend hkind hdeferred hrest hu hrestU hboard hlog, ?_, ?_⟩
  · intro t0 s u hend hkind harmed hu hboard hlog
    have hlatchU : latch u = .armed := by rw [hu, latch_elapseTo, harmed]
    obtain ⟨hlatch, hcause, -⟩ := moveLatch_moves (tid := u.slk.bound) hboard (hlatchU.symm ▸ hlog)
    have hmono := (moveLatch_frame (.refl _ u) (within_refl _) .locked 0x0B u.slk.bound 0xFFFF 0).monoUs_eq rfl rfl rfl
    exact ⟨_, execArmHoldExpiry_at hend hkind harmed hu, hlatch, hcause, by rw [hmono, hu]; exact le_monoUs_elapseTo _⟩
  · intro t0 s u hend hkind harmed hu hboard hlog
    have hlatchU : latch u = .armed := by rw [hu, latch_elapseTo, harmed]
    have hslk : u.slk = s.slk := by rw [hu, elapseTo_slk]
    obtain ⟨hlatch, hmem, hwhen⟩ := moveLatch_waits (tid := u.slk.bound) hboard (hlatchU.symm ▸ hlog)
    rw [hslk] at hmem hwhen
    refine ⟨_, execArmHoldExpiry_at hend hkind harmed hu, hlatch.trans hlatchU, ?_⟩
    rw [hslk]
    exact ⟨hmem, hwhen⟩
  · intro t0 s u hend hkind hreleased hu hdue hcrank hrest hmode hboard hlog
    have hexec := execReleaseWindowExpiry_at hend hkind hreleased (u := u) (by rw [hdue, hu]; rfl)
    obtain ⟨hlatch, hcause, -⟩ := windowExpired_locks (by rw [hu, elapseTo_pwr]; exact hmode) (by rw [hu, latch_elapseTo, hreleased]) hrest hboard hlog
    exact ⟨_, hexec.trans (congrArg Host.Outcome.next (if_neg (by rw [hcrank]; simp))), hlatch, hcause⟩
  · intro t0 s u hend hkind hreleased hu hdue hcrank hcap
    have hslk : u.slk = s.slk := by rw [hu, elapseTo_slk]
    have hexec := execReleaseWindowExpiry_at hend hkind hreleased (u := u) (by rw [hdue, hu]; rfl)
    refine ⟨_, hexec.trans (congrArg Host.Outcome.next (if_pos (by rw [hcrank, hslk, decide_eq_true hcap]; rfl))), ?_⟩
    rw [modSlk, hslk]
  · intro t0 s u hend hkind hreleased hdue hedge hu hcrank hrest hmode hboard hlog
    have hexec := execReleaseWindowExpiry_at hend hkind hreleased (u := u) (by rw [hdue, decide_eq_true hedge, hu]; rfl)
    have hreleasedU : latch u = .released := by
      rw [hu, ← hreleased]
      exact latch_congr (congrArg Slk.code (elapseToNs_slk _)) (congrArg Slk.comp (elapseToNs_slk _))
    obtain ⟨hlatch, hcause, hns⟩ := windowExpired_locks (by rw [hu, elapseToNs_pwr]; exact hmode) hreleasedU hrest hboard hlog
    exact ⟨_, hexec.trans (congrArg Host.Outcome.next (if_neg (by rw [hcrank]; simp))), hlatch, hcause, hns⟩
  · intro w s u hretry hcause hmode harmed hu hover hboard hlog
    have hslk : u.slk = { s.slk with retry := [] } := by rw [hu, modSlk, elapseTo_slk]
    have hlatchU : latch u = .armed := (latch_congr (by rw [hslk]) (by rw [hslk])).trans harmed
    obtain ⟨hlatch, hcause', hrest⟩ := moveLatch_moves (tid := u.slk.bound) hboard (hlatchU.symm ▸ hlog)
    have hretry' : (moveLatch .locked 0x0B u.slk.bound 0xFFFF 0 u).slk.retry = u.slk.retry := (congrArg Slk.retry hrest :)
    exact ⟨_, (execSlkLedgerRetry_one hretry hmode hu hcause).trans (congrArg Host.Outcome.next (if_pos ⟨hlatchU, hover⟩)), hlatch, hcause',
      hretry'.trans (by rw [hslk])⟩
  · intro w s u hretry hcause hmode hu hstands
    refine (execSlkLedgerRetry_one hretry hmode hu hcause).trans (congrArg Host.Outcome.next (if_neg ?_))
    rintro ⟨harmed, hover⟩
    rcases hstands with h | h
    · exact h harmed
    · rw [h] at hover
      cases hover

end Sys2Proof.Machine

/-! Changes to the directory and its nodes (O23). -/

namespace Sys2Proof.Machine

variable {pos n : Nat} {b : Bytes} {x : RevItem} {s t : State}

@[simp] theorem sendData_dir (pos : Nat) (svc : Nat) (ten : Nat) (payload : Bytes) (op : Option Nat) : (sendData pos svc ten payload op s).dir = s.dir := (sendData_frame (.refl _ s) (within_refl _) pos svc ten payload op).dir rfl
@[simp] theorem sendHeld_dir : (sendHeld s).dir = s.dir := (sendHeld_frame (.refl _ s) (within_refl _)).dir rfl
@[simp] theorem elapseTo_dir (t0 : Nat) : (elapseTo t0 s).dir = s.dir := (elapseTo_frame (.refl _ s) (within_refl _) t0).dir rfl
@[simp] theorem returnEntries_dir (es : List DirEntry) : (returnEntries es s).dir = s.dir := (returnEntries_frame (.refl _ s) (within_refl _) es).dir rfl
@[simp] theorem nearRemove_dir (tid : Nat) : (nearRemove tid s).dir = s.dir := (nearRemove_frame (.refl _ s) (within_refl _) tid).dir rfl
@[simp] theorem settle_dir (r : Nat) (fr : FateRec) : (settle r fr s).dir = s.dir := (settle_frame (.refl _ s) (within_refl _) r fr).dir rfl
@[simp] theorem takeChange_flights (a : DirAct) (t0 : Nat) : (takeChange a t0 s).host.flights = s.host.flights := (takeChange_frame (.refl _ s) (within_refl _) a t0).flights rfl
@[simp] theorem takeChange_led (a : DirAct) (t0 : Nat) : (takeChange a t0 s).led = s.led := (takeChange_frame (.refl _ s) (within_refl _) a t0).led rfl

/-! ### A change takes effect -/

/-- The directory without its nodes. -/
def nodeless (d : Dir) : Dir := { d with nodes := [] }

theorem relayChange_nodeless (item : Option RevItem) (t0 : Nat) (s : State) : nodeless (relayChange item t0 s).dir = nodeless s.dir := by
  unfold relayChange
  refine each_same (fun s => nodeless s.dir) _ _ (fun pos t => ?_) s
  dsimp only
  generalize hu : sendData pos 0x02 0 _ none t = u
  have hdir : u.dir = t.dir := by rw [← hu, sendData_dir]
  exact (congrArg nodeless hdir :)

theorem takeChange_nodeless (a : DirAct) (t0 : Nat) (s : State) : nodeless (takeChange a t0 s).dir = nodeless (applyAct a s).dir := by
  have hact : (each (actTids s a) nearRemove (applyAct a (returnEntries (replaced s a) s))).dir = (applyAct a s).dir := by
    rw [each_same State.dir (actTids s a) nearRemove (fun tid _ => nearRemove_dir tid)]
    unfold applyAct modDir
    dsimp only
    rw [returnEntries_dir]
  unfold takeChange
  extract_lets tids gone u v
  have hv : nodeless v.dir = nodeless (applyAct a s).dir := congrArg nodeless hact
  split
  · exact (relayChange_nodeless _ _ _).trans hv
  · exact (relayChange_nodeless _ _ _).trans hv
  · exact hv

/-- What a change's fate reports. -/
def changeResult (rev : Nat) : DirAct → Nat
  | .load es => es.length
  | .revoke _ _ _ => rev
  | .epoch _ v => v
  | .remove _ _ _ => 0

theorem applyAct_dir (a : DirAct) (s : State) : (applyAct a s).dir.pending = s.dir.pending ∧
    (applyAct a s).dir.table = actOn a (s.dir.revSeq + 1) s.dir.table ∧ (applyAct a s).dir.persist = actOn a (s.dir.revSeq + 1) s.dir.persist ∧
    (changeFate (applyAct a s) a).result = changeResult (s.dir.revSeq + 1) a ∧ (changeFate (applyAct a s) a).code = fDone ∧
    (changeFate (applyAct a s) a).detail = 0 := by
  cases a <;> exact ⟨rfl, rfl, rfl, rfl, rfl, rfl⟩

theorem changeFate_congr (h : t.dir.revSeq = s.dir.revSeq) (a : DirAct) : changeFate t a = changeFate s a := by
  unfold changeFate
  rw [h]

theorem execDirDeltaCopied_takes {p : DirChange} {f : Flight} (hpending : s.dir.pending = some p) (hrid : p.rid ≠ 0)
    (hlog : canLog (.dirChange (s.dir.revSeq + 1)) s = true) (hf : getFlight s p.op = some f) (hn : f.fate = none) : ∃ t,
    exec .dirDeltaCopied s = .next t ∧ t.dir.pending = none ∧ t.dir.table = actOn p.act (s.dir.revSeq + 1) s.dir.table ∧
    t.dir.persist = actOn p.act (s.dir.revSeq + 1) s.dir.persist ∧ s.led.lsn < t.led.lsn ∧
    Done p.op (changeResult (s.dir.revSeq + 1) p.act) t := by
  generalize hx : modDir (fun d => { d with pending := none }) (logRec (.dirChange (s.dir.revSeq + 1)) (atStage p.op 0x03 0 s)) = x
  generalize hy : takeChange p.act (((getFlight s p.op).map (·.tAdm)).getD (monoUs s)) x = y
  have hexec : exec .dirDeltaCopied s = .next (settle p.op { changeFate y p.act with degraded := recWeak y 4 p.rid } y) := by
    refine congrArg Host.Outcome.next ?_
    unfold deltaCopied
    rw [hpending]
    dsimp only
    rw [if_neg (by rw [hlog]; simp [hrid]), hx, hy]
  have hdirX : x.dir = { s.dir with pending := none } := by rw [← hx]; rfl
  have hflight : getFlight y p.op = some { f with stage := 0x03, units := 0 } := by
    have hstage : getFlight x p.op = some { f with stage := 0x03, units := 0 } := by rw [← hx]; exact getFlight_atStage hf
    rw [← hy]
    exact (getFlight_of_host (takeChange_flights _ _)).trans hstage
  have hled : y.led.lsn = s.led.lsn + 1 := by rw [← hy, takeChange_led, ← hx]; rfl
  have hdir : nodeless y.dir = nodeless (applyAct p.act x).dir := by rw [← hy]; exact takeChange_nodeless _ _ _
  obtain ⟨hnone, htable, hpersist, hresult, hcode, hdetail⟩ := applyAct_dir p.act x
  rw [hdirX] at hnone htable hpersist hresult
  rw [← changeFate_congr (congrArg Dir.revSeq hdir :)] at hresult hcode hdetail
  obtain ⟨g, fr, hg, hfate, hcode', hresult', hdetail'⟩ := settle_ended hflight hn { changeFate y p.act with degraded := recWeak y 4 p.rid }
  have hlsn := (settle_keeps (Keeps.refl y) p.op { changeFate y p.act with degraded := recWeak y 4 p.rid }).lsn
  refine ⟨_, hexec, ?_, ?_, ?_, by omega,
    g, fr, hg, hfate, hcode'.trans hcode, hresult'.trans hresult, hdetail'.trans hdetail⟩
  · rw [settle_dir]
    exact (congrArg Dir.pending hdir :).trans hnone
  · rw [settle_dir]
    exact (congrArg Dir.table hdir :).trans htable
  · rw [settle_dir]
    exact (congrArg Dir.persist hdir :).trans hpersist

/-! ### What a node takes -/

theorem tabGet_foldl_max (v : Nat → Nat) (l : List Nat) (hl : l.Nodup) (m : Tab Nat) (n : Nat) :
    tabGet 0 (l.foldl (fun t n => tabSet 0 t n (max (tabGet 0 t n) (v n))) m) n = if n ∈ l then max (tabGet 0 m n) (v n) else tabGet 0 m n := by
  induction l generalizing m with
  | nil => simp
  | cons i l ih =>
    obtain ⟨hi, hl⟩ := List.nodup_cons.mp hl
    rw [List.foldl_cons, ih hl, tabGet_tabSet]
    by_cases h : n = i
    · subst h
      rw [if_neg hi, if_pos rfl, if_pos List.mem_cons_self]
    · rw [if_neg h]
      simp only [List.mem_cons, h, false_or]

theorem execEpochs_takes (hnode : asNode s = true) (hlen : b.length = 76) (hkind : byteAt b 0 = 1) (hzero : zeroAt b 1 3 = true) (hn : n < 16) : ∃ t,
    exec (.epochs b) s = .next t ∧ minEpoch t n = max (minEpoch s n) (beAt b (12 + 4 * n) 4) := by
  refine ⟨_, congrArg Host.Outcome.next (if_pos (by rw [hnode, hlen, hkind, hzero]; rfl)), ?_⟩
  rw [minEpoch, sendHeld_dir]
  dsimp only [modDir]
  exact (tabGet_foldl_max (fun n => beAt b (12 + 4 * n) 4) (List.range 16) List.nodup_range s.dir.minEpoch n).trans (if_pos (List.mem_range.mpr hn))

/-- A revocation that is news marks its entry wherever the table holds it. -/
theorem applyItem_marks (hseq : s.dir.revSeq < x.seq) : (applyItem x s).dir.revSeq = x.seq ∧ x ∈ (applyItem x s).dir.revList ∧
    ∀ e, e ∈ (applyItem x s).dir.table → sameKey x.ns x.kind x.id e = true → e.revoked = true := by
  unfold applyItem
  rw [if_pos hseq]
  extract_lets mark tids
  rw [each_same State.dir tids nearRemove (fun tid _ => nearRemove_dir tid)]
  have hkept : ∀ k, k ≤ s.dir.revList.length → x ∈ (s.dir.revList ++ [x]).drop k := fun k hk => by
    rw [List.drop_append_of_le_length hk]
    exact List.mem_append_right _ (List.mem_singleton.mpr rfl)
  dsimp only [modDir]
  refine ⟨rfl, hkept _ (by omega), fun e he hkey => ?_⟩
  · obtain ⟨o, -, rfl⟩ := List.mem_map.mp he
    show (if sameKey x.ns x.kind x.id o then { o with revoked := true, revSeq := x.seq } else o).revoked = true
    split
    · rfl
    · next hother =>
      refine absurd ?_ hother
      rwa [show mark o = o from if_neg hother] at hkey

theorem execRevoked_marks (hnode : asNode s = true) (hkind : byteAt b 0 = 2) (hzero : zeroAt b 1 1 = true) (hcount : beAt b 2 2 = 1) (hlen : b.length = 32)
    (hx : x = { ns := byteAt b 12, kind := byteAt b 13, id := slice b 16 16, seq := beAt b 4 8 }) (hseq : s.dir.revSeq < x.seq) : ∃ t,
    exec (.revoked b) s = .next t ∧ t.dir.revSeq = x.seq ∧ x ∈ t.dir.revList ∧
    ∀ e, e ∈ t.dir.table → sameKey x.ns x.kind x.id e = true → e.revoked = true := by
  have hitems : revItems b = [x] := by
    rw [revItems, hcount, hx]
    rfl
  refine ⟨_, congrArg Host.Outcome.next (if_pos (by rw [hnode, hkind, hzero, hcount, hlen]; rfl)), ?_⟩
  rw [sendHeld_dir, hitems]
  exact applyItem_marks hseq

/-! ### What a node holds -/

theorem execHeld_covers {pos : Fin 8} {m : Node} (htrailer : s.sys.trailer = false) (hm : nodeAt s pos = some m) (hjoined : m.joined = true)
    (hlen : b.length = 76) (hkind : byteAt b 0 = 3) (hzero : zeroAt b 1 3 = true) (hheld : s.dir.revSeq ≤ beAt b 4 8)
    (hepochs : ∀ i, i < 16 → minEpoch s i ≤ beAt b (12 + 4 * i) 4) : ∃ t, exec (.held pos b) s = .next t ∧
    (tabGet {} t.dir.nodes pos).due = none ∧ (tabGet {} t.dir.nodes pos).held = beAt b 4 8 := by
  obtain ⟨node, hnode⟩ : ∃ node : DirNode, node = { tabGet ({} : DirNode) s.dir.nodes pos with
    held := beAt b 4 8, epochs := (List.range 16).map (fun i => beAt b (12 + 4 * i) 4) } := ⟨_, rfl⟩
  have hcovers : heldCovers s node = true := by
    rw [heldCovers, hnode, Bool.and_eq_true]
    refine ⟨decide_eq_true hheld, List.all_eq_true.mpr fun i hi => decide_eq_true ?_⟩
    have hi' := List.mem_range.mp hi
    refine (hepochs i hi').trans (Nat.le_of_eq ?_)
    unfold nth
    simp [hi']
  have hexec : exec (.held pos b) s = .next (modDir (fun d => { d with nodes := tabPut d.nodes pos { node with due := none } }) s) := by
    refine congrArg Host.Outcome.next ((if_pos ?_).trans ?_)
    · rw [htrailer, hm, Option.any_some, hjoined, hlen, hkind, hzero]
      rfl
    · dsimp only
      rw [← hnode, if_pos hcovers, hnode]
  have hget := tabGet_tabPut ({} : DirNode) s.dir.nodes pos pos { node with due := none }
  rw [if_pos rfl] at hget
  refine ⟨_, hexec, (congrArg DirNode.due hget :), (congrArg DirNode.held hget :).trans ?_⟩
  rw [hnode]

theorem sendDirState_due (pos : Nat) (s : State) : (sendDirState pos s).dir.events = s.dir.events ∧
    (tabGet ({} : DirNode) (sendDirState pos s).dir.nodes pos).due = some (monoUs (sendDirState pos s) + 2000000) := by
  unfold sendDirState
  extract_lets u v
  have hu : u.dir = s.dir := sendData_dir _ _ _ _ _
  have hv : v.dir = u.dir := each_same State.dir _ _ (fun _ _ => sendData_dir _ _ _ _ _) u
  refine ⟨(congrArg Dir.events (hv.trans hu) :), ?_⟩
  have hput := (tabGet_tabPut ({} : DirNode) v.dir.nodes pos pos { tabGet ({} : DirNode) v.dir.nodes pos with due := some (monoUs v + 2000000) }).trans
    (if_pos rfl)
  exact (congrArg DirNode.due hput :)

theorem execDirRelayLate_waits {pos : Fin 8} {t0 : Nat} {m : Node} (hdue : (tabGet ({} : DirNode) s.dir.nodes pos).due = some t0)
    (hm : nodeAt s pos = some m) (hjoined : m.joined = true) : ∃ t, exec (.dirRelayLate pos) s = .next t ∧ t0 ≤ monoUs t ∧
    t.dir.events = setBits s.dir.events 2 ∧ (tabGet ({} : DirNode) t.dir.nodes pos).due = some (monoUs t + 2000000) := by
  obtain ⟨hevents, hdue'⟩ := sendDirState_due pos (dirEvent 2 (elapseTo t0 s))
  have hmono := (sendDirState_frame (.refl _ (dirEvent 2 (elapseTo t0 s))) (within_refl _) pos).monoUs_eq rfl rfl rfl
  refine ⟨sendDirState pos (dirEvent 2 (elapseTo t0 s)), congrArg Host.Outcome.next ?_, ?_, hevents.trans ?_, hdue'⟩
  · rw [hdue]
    refine if_pos ?_
    rw [hm, Option.any_some, hjoined]
  · rw [hmono]
    exact le_monoUs_elapseTo t0
  · show setBits (elapseTo t0 s).dir.events 2 = _
    rw [elapseTo_dir]

/-! ### Snapshots and rebuilds -/

/-- The directory without the segments that wait to be written. -/
def segless (d : Dir) : Dir := { d with snapSegs := [] }

@[simp] theorem placeIdle_dir : (placeIdle s).dir = s.dir := (placeIdle_frame (.refl _ s) (within_refl _)).dir rfl
@[simp] theorem lostLeaves_dir (d : Nat) : (lostLeaves d s).dir = s.dir := (lostLeaves_frame (.refl _ s) (within_refl _) d).dir rfl

theorem custodyWork_segless (s : State) : segless (custodyWork s).dir = segless s.dir := by
  have hbegin : ∀ {w k d u v}, beginRec w k d u = .ok v → v.dir = u.dir := fun h => (beginRec_frame (.refl _ _) (within_refl _) h).dir rfl
  unfold custodyWork
  extract_lets x y
  have hx : x.dir = s.dir := by
    show (placeIdle _).dir = _
    rw [placeIdle_dir, each_same State.dir (List.range 4) lostLeaves (fun d _ => lostLeaves_dir d)]
  clear_value x
  have hy : y.dir = x.dir := by
    unfold y
    split
    · split
      · next h => exact hbegin h
      · rfl
      · rfl
    · rfl
  have hxy := hy.trans hx
  clear_value y
  split
  · split
    · next h => exact (congrArg segless ((hbegin h).trans hxy) :)
    · exact (congrArg segless hxy :)
    · exact (congrArg segless hxy :)
  · exact (congrArg segless hxy :)

/-- The segments of a snapshot begun in a state. -/
def snapBodies (u : State) : List Bytes :=
  ((List.range (segmentsOf 65 u.dir.table).length).zip (segmentsOf 65 u.dir.table)).map (fun e =>
    segmentBytes u (u.dir.snapId + 1) (segmentsOf 65 u.dir.table).length e.1 e.2)

theorem execSnapshotStart_begins (hmode : linkMode s = true) (hgov : s.pwr.govLevel < 4) (hst : s.dir.st = 2) (hleft : s.dir.snapLeft = 0)
    (hchanged : s.dir.changed ≠ 0) : ∃ t, exec .snapshotStart s = .next t ∧ t.dir.snapId = s.dir.snapId + 1 ∧ t.dir.changed = 0 ∧
    t.dir.snapAt = monoUs t ∧ t.dir.snapLeft = (segmentsOf 65 s.dir.table).length ∧
    (s.dir.changed < 262144 → s.dir.snapAt + 86400000000 ≤ monoUs t) := by
  generalize hu : (if s.dir.changed < 262144 then elapseTo (s.dir.snapAt + 86400000000) s else s) = u
  have hdirU : u.dir = s.dir := by
    rw [← hu]
    split
    · exact elapseTo_dir _
    · rfl
  have htime : s.dir.changed < 262144 → s.dir.snapAt + 86400000000 ≤ monoUs u := fun h => by
    rw [← hu, if_pos h]
    exact le_monoUs_elapseTo _
  generalize hbegun : modDir (fun d => { d with snapId := u.dir.snapId + 1, snapLeft := (snapBodies u).length, snapSegs := snapBodies u, changed := 0
                                                snapAt := monoUs u }) u = v
  have hexec : exec .snapshotStart s = .next (custodyWork v) := by
    refine congrArg Host.Outcome.next ((if_pos ?_).trans ?_)
    · rw [hmode, internalRuns, decide_eq_true hgov, hst, hleft, bne_iff_ne.mpr hchanged]
      rfl
    · dsimp only
      rw [hu, ← hbegun]
      rfl
  have hlen : (snapBodies u).length = (segmentsOf 65 s.dir.table).length := by
    rw [snapBodies, List.length_map, List.length_zip, List.length_range, Nat.min_self, hdirU]
  have hmono : monoUs (custodyWork v) = monoUs u :=
    ((custodyWork_frame (.refl _ v) (within_refl _)).monoUs_eq rfl rfl rfl).trans (by rw [← hbegun]; rfl)
  have hdir := custodyWork_segless v
  have hdirV : v.dir = { u.dir with snapId := u.dir.snapId + 1, snapLeft := (snapBodies u).length, snapSegs := snapBodies u, changed := 0
                                    snapAt := monoUs u } := by rw [← hbegun]; rfl
  generalize custodyWork v = t at hexec hmono hdir
  have hid : t.dir.snapId = v.dir.snapId := (congrArg Dir.snapId hdir :)
  have hchanged' : t.dir.changed = v.dir.changed := (congrArg Dir.changed hdir :)
  have hat : t.dir.snapAt = v.dir.snapAt := (congrArg Dir.snapAt hdir :)
  have hleft' : t.dir.snapLeft = v.dir.snapLeft := (congrArg Dir.snapLeft hdir :)
  rw [hdirV] at hid hchanged' hat hleft'
  dsimp only at hid hchanged' hat hleft'
  rw [hdirU] at hid
  rw [hlen] at hleft'
  rw [← hmono] at hat htime
  exact ⟨t, hexec, hid, hchanged', hat, hleft', htime⟩

theorem execDirRebuild_readies (hst : s.dir.st = 1) (hdram : dramUp s = true) (hmode : linkMode s = true) (hvault : vaultOk s = true)
    (hheld : s.cus.recs.any (fun x => rebuildNeeds s x && recLost s x) = false) : ∃ t, exec (.dirRebuild true) s = .next t ∧ t.dir.st = 2 ∧
    t.dir.pct = 100 ∧ t.dir.table = s.dir.persist ∧ t.dir.events = setBits s.dir.events 0 :=
  ⟨_, congrArg Host.Outcome.next ((if_pos (by rw [hst, hdram, hmode]; rfl)).trans (if_pos (by rw [hvault, hheld]; rfl))), rfl, rfl, rfl, rfl⟩

theorem execDirRebuild_fails (hst : s.dir.st = 1) (hdram : dramUp s = true) (hmode : linkMode s = true) :
    exec (.dirRebuild false) s = .next { s with dir := { s.dir with st := 0, pct := 0 } } :=
  congrArg Host.Outcome.next ((if_pos (by rw [hst, hdram, hmode]; rfl)).trans (if_neg (by simp)))

/-- Settles O23. -/
theorem directoryChangesAndNodes : Obligations.DirectoryChangesAndNodes := by
  refine ⟨fun p _ _ hpending hrid hlog hf hn => ?_, fun _ _ _ hnode hlen hkind hzero hn => execEpochs_takes hnode hlen hkind hzero hn,
    fun _ _ _ hnode hkind hzero hcount hlen hx hseq => execRevoked_marks hnode hkind hzero hcount hlen hx hseq,
    fun _ _ _ _ htrailer hm hjoined hlen hkind hzero hheld hepochs => execHeld_covers htrailer hm hjoined hlen hkind hzero hheld hepochs,
    fun _ _ _ _ hdue hm hjoined => execDirRelayLate_waits hdue hm hjoined,
    fun _ hmode hgov hst hleft hchanged => execSnapshotStart_begins hmode hgov hst hleft hchanged,
    fun _ hst hdram hmode hvault hheld => execDirRebuild_readies hst hdram hmode hvault hheld,
    fun _ hst hdram hmode => execDirRebuild_fails hst hdram hmode⟩
  obtain ⟨t, hexec, hnone, htable, hpersist, hlsn, hdone⟩ := execDirDeltaCopied_takes hpending hrid hlog hf hn
  refine ⟨t, hexec, hnone, htable, hpersist, hlsn, ?_⟩
  cases h : p.act <;> rw [h] at hdone <;> exact hdone

end Sys2Proof.Machine

/-! Tamper events (O37). -/

namespace Sys2Proof.Machine

variable {r event : Nat} {f : Flight} {m : Fin 2} {s t u x : State}

@[simp] theorem endLocate_sec (r : Nat) (fr : FateRec) : (endLocate r fr s).sec = s.sec := (endLocate_frame (.refl _ s) (within_refl _) r fr).sec rfl
@[simp] theorem coexDrop_sec : (coexDrop s).sec = s.sec := (coexDrop_frame (.refl _ s) (within_refl _)).sec rfl
@[simp] theorem stopCarrier_sec (p : Poll) : (stopCarrier p s).sec = s.sec := (stopCarrier_frame (.refl _ s) (within_refl _) p).sec rfl
@[simp] theorem eraseWork_sec : (eraseWork s).sec = s.sec := (eraseWork_frame (.refl _ s) (within_refl _)).sec rfl
@[simp] theorem eraseWork_flt : (eraseWork s).flt = s.flt := (eraseWork_frame (.refl _ s) (within_refl _)).flt rfl
@[simp] theorem deferPoll_flt (t0 : Nat) : (deferPoll t0 s).flt = s.flt := (deferPoll_frame (.refl _ s) (within_refl _) t0).flt rfl
@[simp] theorem wake_sec (b : Nat) : (wake b s).sec = s.sec := (wake_frame (.refl _ s) (within_refl _) b).sec rfl
@[simp] theorem wake_flt (b : Nat) : (wake b s).flt = s.flt := (wake_frame (.refl _ s) (within_refl _) b).flt rfl
@[simp] theorem lockRequest_sec (cause : Nat) (ten : Nat) (seq : Nat) : (lockRequest cause ten seq s).sec = s.sec := (lockRequest_frame (.refl _ s) (within_refl _) cause ten seq).sec rfl
@[simp] theorem lockRequest_flt (cause : Nat) (ten : Nat) (seq : Nat) : (lockRequest cause ten seq s).flt = s.flt := (lockRequest_frame (.refl _ s) (within_refl _) cause ten seq).flt rfl
@[simp] theorem endKeyWork_sec : (endKeyWork s).sec = s.sec := (endKeyWork_frame (.refl _ s) (within_refl _)).sec rfl
@[simp] theorem endKeyWork_pwr : (endKeyWork s).pwr = s.pwr := (endKeyWork_frame (.refl _ s) (within_refl _)).pwr rfl
@[simp] theorem drivePins_sec : (drivePins s).sec = s.sec := (drivePins_frame (.refl _ s) (within_refl _)).sec rfl
@[simp] theorem drivePins_flt : (drivePins s).flt = s.flt := (drivePins_frame (.refl _ s) (within_refl _)).flt rfl

/-! ### A poll that starts again draws, and changes nothing else of the SEC block -/

theorem drew_drawless (q : RngQueue) (n : Nat) (s : State) : drawless (drew q n s).sec = drawless s.sec := by
  obtain ⟨b, m, hdrew, hsec⟩ := drew_gives q n s
  rw [hdrew]
  exact hsec

theorem beginTelegram_drawless (p : Poll) (s : State) : drawless (beginTelegram p s).sec = drawless s.sec := by
  have hspare : ∀ l (y : State), (each l takeSpare y).sec = y.sec := fun l y =>
    each_same State.sec l takeSpare (fun c t => (takeSpare_frame (.refl _ t) (within_refl _) c).sec rfl) y
  exact (congrArg drawless (hspare _ _)).trans (drew_drawless _ _ _)

theorem startPoll_drawless (k : PollKind) (n m : Nat) (s : State) : drawless (startPoll k n m s).sec = drawless s.sec := by
  unfold startPoll
  split
  · exact beginTelegram_drawless _ _
  · rfl

theorem startLocate_drawless (n waits r : Nat) (f : Flight) (s : State) : drawless (startLocate n waits r f s).sec = drawless s.sec := by
  unfold startLocate
  split
  · rfl
  · split
    · rw [endLocate_sec]
    · exact beginTelegram_drawless _ _

@[simp] theorem noteSlice_sec (cause : Nat) : (noteSlice cause s).sec = s.sec := (noteSlice_frame (.refl _ s) (within_refl _) cause).sec rfl
@[simp] theorem useSlice_sec : (useSlice s).sec = s.sec := (useSlice_frame (.refl _ s) (within_refl _)).sec rfl

theorem nextPoll_drawless (s : State) : drawless (nextPoll s).sec = drawless s.sec := by
  have hhandle : ∀ z y, drawless (startHandle z y).sec = drawless y.sec := fun z y => by
    unfold startHandle
    dsimp only
    split
    · rw [startPoll_drawless, noteSlice_sec]
    · exact congrArg drawless (noteSlice_sec (s := y) 6)
  have hpresence : ∀ y, drawless (startPresence y).sec = drawless y.sec := fun y => startPoll_drawless _ _ _ _
  have happroach : ∀ y, drawless (startApproach y).sec = drawless y.sec := fun y => by
    unfold startApproach
    extract_lets z up
    have hz : z.sec = y.sec := useSlice_sec
    cases up
    · exact congrArg drawless hz
    · exact (startPoll_drawless _ _ _ _).trans (congrArg drawless hz)
  unfold nextPoll
  split
  · rfl
  · split
    · exact hhandle _ _
    · split
      · exact hpresence _
      · split
        · exact happroach _
        · dsimp only
          split
          · exact startLocate_drawless _ _ _ _ _
          · rfl

theorem pollEnds_drawless (s : State) : drawless (pollEnds s).sec = drawless s.sec := by
  rw [pollEnds, nextPoll_drawless, coexDrop_sec]
  rfl

theorem restartPoll_drawless (s : State) : drawless (restartPoll s).sec = drawless s.sec := by
  have hretry : ∀ r p (y : State), drawless (retryLocate r p y).sec = drawless y.sec := fun r p y => by
    unfold retryLocate
    split
    · exact pollEnds_drawless y
    · split
      · rw [startLocate_drawless, coexDrop_sec]
      · dsimp only
        rw [pollEnds_drawless, endLocate_sec]
  unfold restartPoll
  split
  · dsimp only
    split
    · rw [hretry, stopCarrier_sec]
    · rw [pollEnds_drawless, stopCarrier_sec]
    · rw [pollEnds_drawless, stopCarrier_sec]
    · rw [pollEnds_drawless, stopCarrier_sec]
  · rfl

theorem deferPoll_drawless (at_ : Nat) (s : State) : drawless (deferPoll at_ s).sec = drawless s.sec := by
  unfold deferPoll
  split
  · show drawless (State.sec (if _ then _ else _)) = _
    split
    · rw [restartPoll_drawless, coexDrop_sec]
    · rw [beginTelegram_drawless, coexDrop_sec]
  · rfl

/-! ### What is noted of an event -/

/-- The TAMPER_LOG entry of an event now. -/
def tamperEntry (event : Nat) (zeroise : Bool) (s : State) : TamperEntry := { secs := monoUs s / 1000000, event := event, cls := ofBool zeroise }

theorem noteTamper_log (event : Nat) (z : Bool) (s : State) : (noteTamper event z s).sec.tamperLog.getLast? = some (tamperEntry event z s) := by
  have hlast : ∀ (l : List TamperEntry) e k, k ≤ l.length → ((l ++ [e]).drop k).getLast? = some e := fun l e k hk => by
    rw [List.drop_append_of_le_length hk, List.getLast?_concat]
  exact hlast _ _ _ (by omega)

/-- An event reported: its entry is in the log, its bit is set, and the rest of the vault and the power state stand. -/
theorem reportTamper_notes (event : Nat) (z : Bool) (s : State) : ∃ x, reportTamper event z (noteTamper event z s) = x ∧
    x.sec.tamperLog.getLast? = some (tamperEntry event z s) ∧ x.sec.starter = s.sec.starter ∧ x.sec.keyEvents = s.sec.keyEvents ∧
    x.flt.tamper = setBits s.flt.tamper event ∧ x.pwr = s.pwr ∧ monoUs x = monoUs s ∧ x.host.flights = s.host.flights := by
  have hnote : (noteTamper event z s).flt.tamper = setBits s.flt.tamper event := rfl
  unfold reportTamper
  split
  · refine ⟨_, rfl, ?_⟩
    obtain ⟨fs, no, ev, hs, hfault⟩ := fault_flt_eq uTamper event 0x08 sAlarm (if z then 0x08 else 0x00) 0 event (noteTamper event z s)
    have hfaulted := fault_frame (.refl _ (noteTamper event z s)) (within_refl _) uTamper event 0x08 sAlarm (if z then 0x08 else 0x00) 0 event
    generalize fault uTamper event 0x08 sAlarm (if z then 0x08 else 0x00) 0 event (noteTamper event z s) = y at hfault hfaulted
    have hasked := lockRequest_frame (.refl _ y) (within_refl _) 0x06 0xFFFF 0
    have htamper : y.flt.tamper = (noteTamper event z s).flt.tamper := by rw [hfault]
    rw [lockRequest_sec, lockRequest_flt, hfaulted.sec rfl, htamper]
    exact ⟨noteTamper_log event z s, rfl, rfl, hnote, (hasked.pwr rfl).trans (hfaulted.pwr rfl),
      (hasked.monoUs_eq rfl rfl rfl).trans (hfaulted.monoUs_eq rfl rfl rfl), (hasked.flights rfl).trans (hfaulted.flights rfl)⟩
  · exact ⟨_, rfl, noteTamper_log event z s, rfl, rfl, hnote, rfl, rfl, rfl⟩

/-! ### ZEROISE -/

theorem loseAon_leaves (s : State) : (loseAon s).sec.starterChk = [] ∧ (loseAon s).flt.tamper = 0 ∧ (loseAon s).pwr.vaon = s.pwr.vaon ∧
    (loseAon s).pwr.mode = s.pwr.mode := by
  simp -implicitDefEqProofs only [loseAon, modHost_pwr, modHost_sec, modHost_flt, modSlc_pwr, modSlc_sec, modSlc_flt, modSec_pwr, modSec_sec, modSec_flt,
    modFlt_pwr, modFlt_flt, modSlk_pwr, modPwr_pwr, modClk_pwr, and_self]

theorem loseVault_loses (event : Nat) (s : State) : (loseVault event s).sec.starter = [] ∧ (loseVault event s).sec.starterChk = [] ∧
    (loseVault event s).sec.tamperLog = s.sec.tamperLog ∧ (loseVault event s).flt.tamper = setBits 0 event ∧
    (loseVault event s).pwr.aonLost = true ∧ (loseVault event s).pwr.vaon = s.pwr.vaon ∧ (loseVault event s).pwr.mode = s.pwr.mode ∧
    (loseVault event s).slk.code = 0x3C ∧ (loseVault event s).slk.comp = 0xC3 := by
  obtain ⟨haon, hcode, hcomp, -, hstarter, -⟩ := loseAon_fields s
  obtain ⟨hcheck, htamper, hvaon, hmode⟩ := loseAon_leaves s
  have hlost : loseVault event s = modFlt (fun b => { b with tamper := setBits b.tamper event, events := setBits b.events 5 })
    (modSec (fun b => { b with tamperLog := s.sec.tamperLog, keyEvents := 1 }) (loseAon s)) := rfl
  rw [hlost]
  generalize loseAon s = y at *
  refine ⟨hstarter, hcheck, rfl, ?_, haon, hvaon, hmode, hcode, hcomp⟩
  rw [← htamper]
  rfl

theorem fullReset_keeps_vault (cause : Nat) (s : State) : (fullReset cause s).sec = resetSec true (monoUs s) s.sec ∧
    (fullReset cause s).flt = resetFlt true s.flt ∧ (fullReset cause s).slk = resetSlk s.slk ∧
    (fullReset cause s).pwr.aonLost = s.pwr.aonLost ∧ (fullReset cause s).pwr.vaon = s.pwr.vaon := by
  obtain ⟨u, hu, h⟩ := resetBlocks_eq true s
  have hcold : ∀ y, (coldReset y).sec = (resetBlocks true y).sec ∧ (coldReset y).flt = (resetBlocks true y).flt ∧
      (coldReset y).slk = (resetBlocks true y).slk := fun _ => ⟨rfl, rfl, rfl⟩
  obtain ⟨hsec, hflt, hslk⟩ := hcold s
  have hstart : ∀ y, (startUp cause (if s.pwr.aonLost then 0x05 else 0x04) y).sec = y.sec ∧
      (startUp cause (if s.pwr.aonLost then 0x05 else 0x04) y).flt = y.flt ∧ (startUp cause (if s.pwr.aonLost then 0x05 else 0x04) y).slk = y.slk := fun y =>
    have hframe := startUp_frame (.refl _ y) (within_refl _) cause (if s.pwr.aonLost then 0x05 else 0x04)
    ⟨hframe.sec rfl, hframe.flt rfl, hframe.slk rfl⟩
  obtain ⟨hsec', hflt', hslk'⟩ := hstart (pickPair true (coldReset s))
  obtain ⟨e, i, hpwr, -⟩ := startUp_pwr cause (if s.pwr.aonLost then 0x05 else 0x04) (pickPair true (coldReset s))
  have hpair : (pickPair true (coldReset s)).pwr.aonLost = (coldReset s).pwr.aonLost ∧ (pickPair true (coldReset s)).pwr.vaon = (coldReset s).pwr.vaon :=
    ⟨rfl, rfl⟩
  rw [coldReset_pwr] at hpair
  unfold fullReset
  refine ⟨?_, ?_, ?_, ?_, ?_⟩
  · rw [hsec', pickPair_sec, hsec, h, hu.sec rfl]
  · rw [hflt', pickPair_flt, hflt, h, hu.flt rfl]
  · rw [hslk', pickPair_slk, hslk, h, hu.slk rfl]
  · rw [hpwr]
    exact hpair.1
  · rw [hpwr]
    exact hpair.2

theorem wake_of_awake {b : Nat} (hvaon : s.pwr.vaon = true) (hd : s.pwr.mode ≠ .dormant) (hp : s.pwr.mode ≠ .parked) : wake b s = s := by
  unfold wake
  rw [if_neg (by rw [hvaon]; simp), if_neg hd, if_neg fun h => hp h.1]

theorem zeroise_of_vaon (hvaon : s.pwr.vaon = true) (hl : loseVault event (endKeyWork s) = t) : zeroise event s =
    fullReset 0x7 (onlyIf (isRelease (latch s)) drivePins
      (onlyIf (s.pwr.mode == .dormant) (modPwr (fun p => { p with wakeCause := setBits p.wakeCause 4 })) t)) := by
  subst hl
  exact if_pos hvaon

theorem zeroise_without_vaon (hvaon : s.pwr.vaon = false) (hl : loseVault event s = t) :
    zeroise event s = modFlt (fun b => { b with tamperOwed := true }) t := by
  subst hl
  exact if_neg (by rw [hvaon]; simp)

theorem wake_without_vaon {b : Nat} (hvaon : s.pwr.vaon = false) :
    wake b s = modPwr (fun p => { p with wakeCause := setBits (setBits p.wakeCause b) 11 }) s := if_pos (by rw [hvaon]; rfl)

/-- With VAON a ZEROISE event loses the vault and starts a full reset, of which the event's entry, its bit and the latch's loss stand. -/
theorem zeroiseEvent_resets (event : Nat) (hvaon : s.pwr.vaon = true) : ∃ t, zeroiseEvent event s = t ∧ t.sec.starter = [] ∧ t.sec.starterChk = [] ∧
    t.flt.tamper = setBits 0 event ∧ t.pwr.aonLost = true ∧ t.sys.resetCause = 7 ∧ t.slk.code = 0x3C ∧ t.slk.comp = 0xC3 ∧
    t.sec.tamperLog.getLast? = some (tamperEntry event true s) := by
  obtain ⟨x, hx, hlog, -, -, -, hpwr, -⟩ := reportTamper_notes event true s
  have hvaonX : x.pwr.vaon = true := by rw [hpwr, hvaon]
  have hkey : (endKeyWork x).sec = x.sec ∧ (endKeyWork x).pwr = x.pwr := ⟨endKeyWork_sec, endKeyWork_pwr⟩
  obtain ⟨l, hl⟩ : ∃ l, loseVault event (endKeyWork x) = l := ⟨_, rfl⟩
  obtain ⟨hstarter, hcheck, hkept, htamper, haon, hvaonL, -, hcode, hcomp⟩ := hl ▸ loseVault_loses event (endKeyWork x)
  have hpins : ∀ (c d : Bool), ∃ y, onlyIf d drivePins (onlyIf c (modPwr (fun p => { p with wakeCause := setBits p.wakeCause 4 })) l) = y ∧
      y.sec = l.sec ∧ y.flt = l.flt ∧ y.slk = l.slk ∧ y.pwr.aonLost = l.pwr.aonLost ∧ y.pwr.vaon = l.pwr.vaon := by
    intro c d
    have hwoken : ∀ c : Bool, ∃ z, onlyIf c (modPwr (fun p => { p with wakeCause := setBits p.wakeCause 4 })) l = z ∧
        z.sec = l.sec ∧ z.flt = l.flt ∧ z.slk = l.slk ∧ z.pwr.aonLost = l.pwr.aonLost ∧ z.pwr.vaon = l.pwr.vaon := fun c => by
      cases c <;> exact ⟨_, rfl, rfl, rfl, rfl, rfl, rfl⟩
    obtain ⟨z, hz, hfacts⟩ := hwoken c
    rw [hz]
    cases d
    · exact ⟨z, rfl, hfacts⟩
    · refine ⟨_, rfl, ?_⟩
      show (drivePins z).sec = _ ∧ (drivePins z).flt = _ ∧ (drivePins z).slk = _ ∧ (drivePins z).pwr.aonLost = _ ∧ (drivePins z).pwr.vaon = _
      rw [drivePins_sec, drivePins_flt, drivePins_slk, drivePins_pwr]
      exact hfacts
  obtain ⟨y, hy, hsecY, hfltY, hslkY, haonY, hvaonY⟩ := hpins (x.pwr.mode == .dormant) (isRelease (latch x))
  have hzero : zeroiseEvent event s = wake 4 (fullReset 0x7 y) := by
    rw [zeroiseEvent, hx, zeroise_of_vaon hvaonX hl, hy]
  obtain ⟨hsec, hflt, hslk, haonR, hvaonR⟩ := fullReset_keeps_vault 0x7 y
  obtain ⟨hmode, -⟩ := fullReset_pwr 0x7 y
  obtain ⟨-, hcause⟩ := fullReset_sys 0x7 y
  rw [wake_of_awake (by rw [hvaonR, hvaonY, hvaonL, hkey.2, hvaonX]) (by rw [hmode]; decide) (by rw [hmode]; decide)] at hzero
  refine ⟨_, hzero, ?_⟩
  rw [hsec, hflt, hslk, haonR, haonY, haon, hcause, hsecY, hfltY, hslkY]
  refine ⟨hstarter, hcheck, htamper, rfl, rfl, hcode, hcomp, ?_⟩
  show l.sec.tamperLog.getLast? = _
  rw [hkept, hkey.1, hlog]

/-- Without VAON the vault is lost all the same, and the event is reported at the next release. -/
theorem zeroiseEvent_owed (event : Nat) (hvaon : s.pwr.vaon = false) : ∃ t, zeroiseEvent event s = t ∧ t.sec.starter = [] ∧
    t.flt.tamper = setBits 0 event ∧ t.pwr.aonLost = true ∧ t.flt.tamperOwed = true ∧ t.pwr.mode = s.pwr.mode := by
  obtain ⟨x, hx, -, -, -, -, hpwr, -⟩ := reportTamper_notes event true s
  have hvaonX : x.pwr.vaon = false := by rw [hpwr, hvaon]
  obtain ⟨l, hl⟩ : ∃ l, loseVault event x = l := ⟨_, rfl⟩
  obtain ⟨hstarter, -, -, htamper, haon, hvaonL, hmode, -⟩ := hl ▸ loseVault_loses event x
  have hzero : zeroiseEvent event s = modPwr (fun p => { p with wakeCause := setBits (setBits p.wakeCause 4) 11 })
      (modFlt (fun b => { b with tamperOwed := true }) l) := by
    rw [zeroiseEvent, hx, zeroise_without_vaon hvaonX hl]
    exact wake_without_vaon (hvaonL.trans hvaonX)
  refine ⟨_, hzero, hstarter, htamper, haon, rfl, ?_⟩
  rw [← hpwr]
  exact hmode

/-! ### ALARM -/

/-- An event of class ALARM with VAON holds SEC_ALARM for 10 ms and leaves the vault. -/
theorem alarmEvent_holds (event : Nat) (hvaon : s.pwr.vaon = true) : ∃ t, alarmEvent event s = t ∧ t.sec.alarmEnd = some (monoUs s + 10000) ∧
    t.flt.tamper = setBits s.flt.tamper event ∧ t.sec.starter = s.sec.starter ∧ t.sec.keyEvents = setBits s.sec.keyEvents 1 ∧
    t.sec.tamperLog.getLast? = some (tamperEntry event false s) := by
  obtain ⟨x, hx, hlog, hstarter, hevents, htamper, hpwr, hmono, -⟩ := reportTamper_notes event false s
  have hvaonX : s.pwr.vaon = true := hvaon
  have hsec := deferPoll_drawless (1000 * (monoUs x + 10000)) (eraseWork (keyEvent 1 (modSec (fun b => { b with
    alarmEnd := some (monoUs x + 10000), lanes := b.lanes.map (fun x => { x with seed := [], masked := 0 }) }) x)))
  have halarm : alarmEvent event s = wake 4 (alarm x) := by
    unfold alarmEvent
    rw [hx, hvaon]
    rfl
  change drawless (alarm x).sec = _ at hsec
  rw [eraseWork_sec] at hsec
  have hflt : (alarm x).flt = x.flt := by
    unfold alarm
    rw [deferPoll_flt, eraseWork_flt]
    rfl
  generalize alarm x = y at *
  refine ⟨_, halarm, ?_⟩
  rw [wake_sec, wake_flt, hflt, ← hmono, ← hlog, ← hstarter, ← hevents]
  exact ⟨(congrArg Sec.alarmEnd hsec :), htamper, (congrArg Sec.starter hsec :), (congrArg Sec.keyEvents hsec :),
    congrArg List.getLast? (congrArg Sec.tamperLog hsec :)⟩

/-- The work of a KEY or CPH operation that has begun, at its turn. -/
def eraseOne (r : Nat) (s : State) : State :=
  match getFlight s r with
  | some f => if f.begun && f.fate.isNone && (dClass f.raw == 0x08 || dClass f.raw == 0x09) then settle r (failFate fDevice 0x2B f.stage) s else s
  | none => s

theorem eraseOne_ends (hf : getFlight s r = some f) (hbegun : f.begun = true) (hn : f.fate = none)
    (hclass : dClass f.raw = 0x08 ∨ dClass f.raw = 0x09) : Ended r fDevice 0 0x2B (eraseOne r s) := by
  have hworks : f.begun && f.fate.isNone && (dClass f.raw == 0x08 || dClass f.raw == 0x09) := by
    rw [hbegun, hn]
    rcases hclass with h | h <;> rw [h] <;> rfl
  unfold eraseOne
  rw [hf]
  dsimp only
  rw [if_pos hworks]
  exact settle_fail hf hn fDevice 0x2B f.stage

theorem eraseOne_keeps {q : State} (h : Keeps q s) (r : Nat) : Keeps q (eraseOne r s) := by
  unfold eraseOne
  split
  · split
    · exact settle_keeps h _ _
    · exact h
  · exact h

theorem getFlight_eraseOne_of_ne {j : Nat} (hj : r ≠ j) (hf : getFlight s r = some f) (hdup : f.dupOf = none) : getFlight (eraseOne j s) r = some f := by
  unfold eraseOne
  split
  · split
    · exact getFlight_settle_of_ne _ hj hf (by rw [hdup]; nofun)
    · exact hf
  · exact hf

theorem getFlight_each_eraseOne (l : List Nat) (hl : r ∉ l) (s : State) (hf : getFlight s r = some f) (hdup : f.dupOf = none) :
    getFlight (each l eraseOne s) r = some f := by
  unfold each
  induction l generalizing s with
  | nil => exact hf
  | cons j l ih =>
    obtain ⟨hj, hl⟩ := not_or.mp (mt List.mem_cons.mpr hl)
    exact ih hl _ (getFlight_eraseOne_of_ne hj hf hdup)

/-- A KEY or CPH operation that has begun ends KEY_ERASED. -/
theorem eraseWork_ends (hf : getFlight s r = some f) (hbegun : f.begun = true) (hn : f.fate = none) (hdup : f.dupOf = none)
    (hclass : dClass f.raw = 0x08 ∨ dClass f.raw = 0x09) : Ended r fDevice 0 0x2B (eraseWork s) := by
  have hr : r < s.host.flights.length := (List.getElem?_eq_some_iff.mp hf).1
  obtain ⟨before, after, hsplit⟩ := List.mem_iff_append.mp (List.mem_range.mpr hr)
  have hbefore : r ∉ before := fun h => by
    have hnodup := hsplit ▸ List.nodup_range (n := s.host.flights.length)
    exact (List.nodup_append.mp hnodup).2.2 r h r List.mem_cons_self rfl
  have hturn := getFlight_each_eraseOne before hbefore s hf hdup
  have hends := eraseOne_ends hturn hbegun hn hclass
  have hall : eraseWork s = each after eraseOne (eraseOne r (each before eraseOne s)) := by
    show each (List.range s.host.flights.length) eraseOne s = _
    rw [hsplit, each, each, each, List.foldl_append, List.foldl_cons]
  rw [hall]
  exact hends.keeps (each_keeps (Keeps.refl _) after eraseOne fun j _ h => eraseOne_keeps h j)

theorem alarmEvent_erases (event : Nat) (hvaon : s.pwr.vaon = true) (hf : getFlight s r = some f) (hbegun : f.begun = true) (hn : f.fate = none)
    (hdup : f.dupOf = none) (hclass : dClass f.raw = 0x08 ∨ dClass f.raw = 0x09) : Ended r fDevice 0 0x2B (alarmEvent event s) := by
  obtain ⟨x, hx, -, -, -, -, -, -, hflights⟩ := reportTamper_notes event false s
  have halarm : alarmEvent event s = wake 4 (alarm x) := by
    unfold alarmEvent
    rw [hx, hvaon]
    rfl
  rw [halarm]
  have hkeep := wake_keeps (deferPoll_keeps (Keeps.refl (eraseWork (keyEvent 1 (modSec (fun b => { b with
    alarmEnd := some (monoUs x + 10000), lanes := b.lanes.map (fun x => { x with seed := [], masked := 0 }) }) x))))
    (1000 * (monoUs x + 10000))) 4
  exact (eraseWork_ends (s := keyEvent 1 (modSec (fun b => { b with
    alarmEnd := some (monoUs x + 10000), lanes := b.lanes.map (fun x => { x with seed := [], masked := 0 }) }) x))
    ((getFlight_of_host hflights).trans hf) hbegun hn hdup hclass).keeps hkeep

/-! ### Glitches -/

theorem glitch_alarms (event : Nat) (hvaon : s.pwr.vaon = true) (hmode : s.pwr.mode ≠ .dormant)
    (hfew : (s.flt.alarms.filter (fun t => decide (monoUs s < t + 60000000))).length < 3) : glitch event s = alarmEvent event (countAlarm s).2 := by
  have hcount : ¬4 ≤ (countAlarm s).1 := by
    show ¬4 ≤ (s.flt.alarms.filter (fun t => decide (monoUs s < t + 60000000)) ++ [monoUs s]).length
    rw [List.length_append, List.length_singleton]
    omega
  exact (if_pos (by rw [hvaon, bne_iff_ne.mpr hmode]; rfl)).trans (if_neg hcount)

theorem glitch_zeroises (event : Nat) (hvaon : s.pwr.vaon = true) (hmode : s.pwr.mode ≠ .dormant)
    (hmany : 3 ≤ (s.flt.alarms.filter (fun t => decide (monoUs s < t + 60000000))).length) : glitch event s = zeroiseEvent event (countAlarm s).2 := by
  have hcount : 4 ≤ (countAlarm s).1 := by
    show 4 ≤ (s.flt.alarms.filter (fun t => decide (monoUs s < t + 60000000)) ++ [monoUs s]).length
    rw [List.length_append, List.length_singleton]
    omega
  exact (if_pos (by rw [hvaon, bne_iff_ne.mpr hmode]; rfl)).trans (if_pos hcount)

theorem rtcUs_mono {a b : Nat} (h : a ≤ b) : rtcUs a ≤ rtcUs b := by
  unfold rtcUs
  omega

/-- Time does not run back. -/
theorem monoUs_le_elapseTo (e : Nat) : monoUs s ≤ monoUs (elapseTo e s) := by
  have hrtc : onRtc (elapseTo e s) = onRtc s := by rw [onRtc, onRtc, elapseTo_pwr]
  obtain ⟨cnts, hclk⟩ : ∃ cnts, (elapseTo e s).clk = { s.clk with ns := max s.clk.ns (if onRtc s then rtcNs e else 1000 * e), cnts := cnts } :=
    elapseToNs_clk _ s
  rw [monoUs, monoUs, hrtc, hclk]
  split
  · have := rtcUs_mono (Nat.le_max_left s.clk.ns (rtcNs e))
    dsimp only
    omega
  · exact Nat.div_le_div_right (Nat.le_max_left _ _)

/-- Settles O37. -/
theorem tamperEvents : Obligations.TamperEvents := by
  refine ⟨?_, ?_, fun m s hup => congrArg Host.Outcome.next (if_neg (by rw [hup]; simp)), ?_, ?_, ?_, ?_, ?_, ?_⟩
  · intro m s hup hvaon
    obtain ⟨t, ht, hstarter, hcheck, htamper, haon, hcause, hcode, hcomp, hlog⟩ := zeroiseEvent_resets m.val hvaon
    refine ⟨t, congrArg Host.Outcome.next ((if_pos hup).trans ht), hstarter, hcheck, ?_, htamper, haon, hcause, hcode, hcomp, hlog⟩
    rw [vaultOk, hstarter]
    rfl
  · intro m s hup hvaon
    obtain ⟨t, ht, hfacts⟩ := zeroiseEvent_owed m.val hvaon
    exact ⟨t, congrArg Host.Outcome.next ((if_pos hup).trans ht), hfacts⟩
  · intro s hvaon
    obtain ⟨t, ht, hstarter, -, htamper, haon, hcause, hcode, -, hlog⟩ := zeroiseEvent_resets 2 hvaon
    exact ⟨t, congrArg Host.Outcome.next ht, hstarter, htamper, haon, hcause, hcode, hlog⟩
  · intro s hvaon hmode hfew
    have hvaon' : (countAlarm s).2.pwr.vaon = true := hvaon
    obtain ⟨t, ht, htend, httamper, htstarter, htevents, htlog⟩ := alarmEvent_holds 3 hvaon'
    obtain ⟨u, hu, huend, hutamper, hustarter, -, hulog⟩ := alarmEvent_holds 4 hvaon'
    exact ⟨t, u, congrArg Host.Outcome.next ((glitch_alarms 3 hvaon hmode hfew).trans ht),
      congrArg Host.Outcome.next ((glitch_alarms 4 hvaon hmode hfew).trans hu), htend, huend, httamper, hutamper, htstarter, hustarter, htevents, htlog, hulog⟩
  · intro s hvaon hmode hmany
    have hvaon' : (countAlarm s).2.pwr.vaon = true := hvaon
    obtain ⟨t, ht, htstarter, -, httamper, -, htcause, -⟩ := zeroiseEvent_resets 3 hvaon'
    obtain ⟨u, hu, hustarter, -, hutamper, -, hucause, -⟩ := zeroiseEvent_resets 4 hvaon'
    exact ⟨t, u, congrArg Host.Outcome.next ((glitch_zeroises 3 hvaon hmode hmany).trans ht),
      congrArg Host.Outcome.next ((glitch_zeroises 4 hvaon hmode hmany).trans hu), htstarter, hustarter, htcause, hucause, httamper, hutamper⟩
  · intro s hvaon
    have hvaon' : (countAlarm s).2.pwr.vaon = true := hvaon
    obtain ⟨t, ht, hend, htamper, hstarter, -, hlog⟩ := alarmEvent_holds 5 hvaon'
    exact ⟨t, congrArg Host.Outcome.next ht, hend, htamper, hstarter, hlog⟩
  · intro r f s hvaon hf hbegun hn hdup hclass
    exact ⟨_, rfl, alarmEvent_erases 5 (s := (countAlarm s).2) hvaon hf hbegun hn hdup hclass⟩
  · intro e s hend
    have hsec := elapseTo_sec (s := s) e
    refine ⟨modSec (fun b => { b with alarmEnd := none }) (elapseTo e s), congrArg Host.Outcome.next (by rw [hend]), ?_, le_monoUs_elapseTo e, ?_⟩
    · rw [modSec, hsec]
    · exact monoUs_le_elapseTo e

end Sys2Proof.Machine

/-! Buttons and electrodes (O25). -/

namespace Sys2Proof.Machine

variable {e i : Nat} {v : Int} {x : Electrode} {n : NearEntry} {frame : TokenFrame} {s t u y : State}

@[simp] theorem noteSlice_radio (cause : Nat) : (noteSlice cause s).radio = s.radio := (noteSlice_frame (.refl _ s) (within_refl _) cause).radio rfl
@[simp] theorem elapseTo_cap (t0 : Nat) : (elapseTo t0 s).cap = s.cap := (elapseTo_frame (.refl _ s) (within_refl _) t0).cap rfl
@[simp] theorem tokenSeen_radio : (tokenSeen s).radio = s.radio := (tokenSeen_frame (.refl _ s) (within_refl _)).radio rfl
@[simp] theorem sendBody_radio (action : Nat) (source : Nat) (zone : Nat) : (sendBody action source zone s).radio = s.radio := (sendBody_frame (.refl _ s) (within_refl _) action source zone).radio rfl
@[simp] theorem logPart_radio (p : PartRec) : (logPart p s).radio = s.radio := (logPart_frame (.refl _ s) (within_refl _) p).radio rfl
@[simp] theorem tryLog_radio (k : LKind) : (tryLog k s).radio = s.radio := (tryLog_frame (.refl _ s) (within_refl _) k).radio rfl
@[simp] theorem fault_cap (ty : Nat) (ix : Nat) (code : Nat) (sev : Nat) (action : Nat) (detail : Nat) (arg : Nat) : (fault ty ix code sev action detail arg s).cap = s.cap := (fault_frame (.refl _ s) (within_refl _) ty ix code sev action detail arg).cap rfl
@[simp] theorem outOfService_cap (kind : Nat) (ix : Nat) (code : Nat) (sev : Nat) (arg : Nat) : (outOfService kind ix code sev arg s).cap = s.cap := (outOfService_frame (.refl _ s) (within_refl _) kind ix code sev arg).cap rfl
@[simp] theorem beginTelegram_pwr (p : Poll) : (beginTelegram p s).pwr = s.pwr := (beginTelegram_frame (.refl _ s) (within_refl _) p).pwr rfl

/-! ### Buttons -/

theorem nearEntry_tid {tid : Nat} (h : nearEntry s tid = some n) : n.tid = tid := by
  unfold nearEntry at h
  split at h
  · exact of_decide_eq_true (by simpa using List.find?_some h)
  · cases h

theorem nearEntry_congr (h : t.radio = s.radio) (tid : Nat) : nearEntry t tid = nearEntry s tid := by rw [nearEntry, nearEntry, h]

theorem lastTcnt_congr (h : t.radio = s.radio) (tid : Nat) : lastTcnt t tid = lastTcnt s tid := by rw [lastTcnt, lastTcnt, nearEntry_congr h, h]

/-- The TCNT that a token's entry has taken. -/
theorem lastTcnt_setTcnt (tid k : Nat) (s : State) : lastTcnt (setTcnt tid k s) tid = k := by
  have htab : tabGet 0 (tabSet 0 s.radio.tcnts tid k) tid = k := (tabGet_tabSet 0 _ tid tid k).trans (if_pos rfl)
  have hnear : (setTcnt tid k s).radio.near.find? (fun e => e.tid == tid) = (s.radio.near.find? (fun e => e.tid == tid)).map (fun e => { e with tcnt := k }) := by
    show (s.radio.near.map _).find? _ = _
    induction s.radio.near with
    | nil => rfl
    | cons a l ih =>
      rw [List.map_cons, List.find?_cons, List.find?_cons]
      by_cases ha : a.tid = tid
      · rw [if_pos ha, beq_iff_eq.mpr ha]
        rfl
      · rw [if_neg ha, beq_eq_false_iff_ne.mpr ha]
        exact ih
  unfold lastTcnt nearEntry
  rw [hnear]
  show (match (if s.radio.nearUsable then (s.radio.near.find? (fun e => e.tid == tid)).map (fun e => { e with tcnt := k }) else none) with
    | some e => e.tcnt
    | none => tabGet 0 (tabSet 0 s.radio.tcnts tid k) tid) = k
  rw [htab]
  cases s.radio.nearUsable
  · rfl
  · cases s.radio.near.find? (fun e => e.tid == tid) <;> rfl

theorem lastTcnt_recordTcnt (tid k : Nat) (s : State) : lastTcnt (recordTcnt tid k s) tid = k :=
  (lastTcnt_congr (tryLog_radio _) tid).trans (lastTcnt_setTcnt tid k s)

theorem lastTcnt_buttonPress (n : NearEntry) (k btn : Nat) (s : State) : lastTcnt (buttonPress n k btn s) n.tid = k := by
  unfold buttonPress
  split
  · dsimp only
    exact (lastTcnt_congr ((sendBody_radio _ _ _).trans (tokenSeen_radio.trans (logPart_radio _))) n.tid).trans (lastTcnt_setTcnt n.tid k s)
  · exact lastTcnt_recordTcnt n.tid k s

theorem authFail_tokens (tid k : Nat) (s : State) : (authFail tid k s).radio.near = s.radio.near ∧ (authFail tid k s).radio.nearUsable = s.radio.nearUsable ∧
    (authFail tid k s).radio.lfEvents = setBits s.radio.lfEvents 3 := by
  have hlog : ∀ q, (logPart q s).radio = s.radio := fun q => logPart_radio q
  unfold authFail
  extract_lets recent
  cases recent
  · refine ⟨?_, ?_, ?_⟩
    · exact (congrArg Radio.near (hlog _) :)
    · exact (congrArg Radio.nearUsable (hlog _) :)
    · exact (congrArg (fun b => setBits b.lfEvents 3) (hlog _) :)
  · exact ⟨rfl, rfl, rfl⟩

section

variable (hhears : hearsButtons s = true) (hvalid : frameValid frame = true) (htype : ptype frame = 2) (hlen : frame.payload.length = 21)
  (hvwp : beAt frame.payload 1 2 = vwp s)
include hhears hvalid htype hlen hvwp

theorem execButton_heard : exec (.button frame) s = .next (if sliceUp (noteSlice 7 s) then buttonFrame frame (noteSlice 7 s)
    else modRadio (fun b => { b with heldFrame := some frame }) (noteSlice 7 s)) :=
  congrArg Host.Outcome.next (if_pos (by rw [hhears, hvalid, htype, hlen, hvwp]; simp))

variable (hslice : sliceUp (noteSlice 7 s) = true) (hu : u = noteSlice 7 s) (hn : nearEntry s (beAt frame.payload 3 4) = some n)
  (hsec : secReady u = true) (htake : canTakeTcnt u = true) (hnew : n.tcnt < beAt frame.payload 7 4) (hnear : beAt frame.payload 7 4 ≤ n.tcnt + 4096)
include hslice hu hn hsec htake hnew hnear

theorem execButton_checked : exec (.button frame) s = .next (if buttonResp n.key frame.payload = false then
    authFail (beAt frame.payload 3 4) (beAt frame.payload 7 4) u else buttonPress n (beAt frame.payload 7 4) (byteAt frame.payload 12) u) := by
  refine (execButton_heard hhears hvalid htype hlen hvwp).trans (congrArg Host.Outcome.next ((if_pos hslice).trans ?_))
  have hnU : nearEntry u (beAt frame.payload 3 4) = some n := (nearEntry_congr (by rw [hu, noteSlice_radio]) _).trans hn
  rw [← hu]
  unfold buttonFrame
  dsimp only
  rw [hnU]
  dsimp only
  rw [hsec, htake, beq_eq_false_iff_ne.mpr (Nat.ne_of_gt hnew), if_neg (by simp)]
  have hrange : (beAt frame.payload 7 4 < n.tcnt ∨ n.tcnt + 4096 < beAt frame.payload 7 4 ∨ buttonResp n.key frame.payload = false) ↔
      buttonResp n.key frame.payload = false := by
    rw [or_iff_right (Nat.not_lt.mpr hnew.le), or_iff_right (Nat.not_lt.mpr hnear)]
  exact ite_congr (propext hrange) (fun _ => rfl) (fun _ => rfl)

end

theorem noteSlice_parked (k : Nat) (hmode : s.pwr.mode = .parked) : ∃ e n sl, (noteSlice k s).pwr =
    { s.pwr with en := e, enAt := n, slice := sl, wakeCause := setBits s.pwr.wakeCause k, dorming := none } := by
  obtain ⟨e, n, sl, hslice⟩ := useSlice_pwr s
  refine ⟨e, n, sl, ?_⟩
  rw [noteSlice, if_pos hmode, modPwr_pwr, hslice]

theorem sliceUp_noteSlice (k : Nat) : sliceUp (noteSlice k s) = sliceUp s := by
  have hmode : (noteSlice k s).pwr.mode = s.pwr.mode := by
    by_cases hm : s.pwr.mode = .parked
    · obtain ⟨e, n, sl, hp⟩ := noteSlice_parked k hm
      rw [hp]
    · rw [noteSlice, if_neg hm]
  rw [sliceUp, sliceUp, groupGood, groupGood, hmode, noteSlice_railGood]

theorem mode_of_sliceDown (h : sliceUp s = false) : s.pwr.mode = .parked := by
  by_contra hm
  rw [sliceUp, bne_iff_ne.mpr hm] at h
  exact absurd h (by simp)

section

variable (hhears : hearsButtons s = true) (hvalid : frameValid frame = true) (htype : ptype frame = 2) (hlen : frame.payload.length = 21)
  (hvwp : beAt frame.payload 1 2 = vwp s)
include hhears hvalid htype hlen hvwp

/-- With the slice still coming up the frame is held for it (R82). -/
theorem execButton_held (hdown : sliceUp s = false) : ∃ t, exec (.button frame) s = .next t ∧ t.radio.heldFrame = some frame ∧
    t.pwr.wakeCause = setBits s.pwr.wakeCause 7 := by
  obtain ⟨e, n, sl, hp⟩ := noteSlice_parked 7 (mode_of_sliceDown hdown)
  refine ⟨_, (execButton_heard hhears hvalid htype hlen hvwp).trans
    (congrArg Host.Outcome.next (if_neg (by rw [sliceUp_noteSlice, hdown]; nofun))), rfl, ?_⟩
  rw [modRadio_pwr, hp]

variable (hslice : sliceUp s = true) (hu : u = noteSlice 7 s) (hn : nearEntry s (beAt frame.payload 3 4) = some n)
  (hsec : secReady u = true) (htake : canTakeTcnt u = true) (hnew : n.tcnt < beAt frame.payload 7 4) (hnear : beAt frame.payload 7 4 ≤ n.tcnt + 4096)
include hslice hu hn hsec htake hnew hnear

theorem execButton_taken (hresp : buttonResp n.key frame.payload = true) : ∃ t, exec (.button frame) s = .next t ∧
    lastTcnt t n.tid = beAt frame.payload 7 4 :=
  ⟨_, (execButton_checked hhears hvalid htype hlen hvwp ((sliceUp_noteSlice 7).trans hslice) hu hn hsec htake hnew hnear).trans
    (congrArg Host.Outcome.next (if_neg (by rw [hresp]; nofun))), lastTcnt_buttonPress n _ _ u⟩

theorem execButton_refused (hresp : buttonResp n.key frame.payload = false) : ∃ t, exec (.button frame) s = .next t ∧
    lastTcnt t n.tid = n.tcnt ∧ t.radio.lfEvents = setBits s.radio.lfEvents 3 := by
  have hradio : u.radio = s.radio := by rw [hu, noteSlice_radio]
  obtain ⟨hlist, husable, hevents⟩ := authFail_tokens (beAt frame.payload 3 4) (beAt frame.payload 7 4) u
  refine ⟨_, (execButton_checked hhears hvalid htype hlen hvwp ((sliceUp_noteSlice 7).trans hslice) hu hn hsec htake hnew hnear).trans
    (congrArg Host.Outcome.next (if_pos hresp)), ?_, hevents.trans (by rw [hradio])⟩
  have hentry : nearEntry (authFail (beAt frame.payload 3 4) (beAt frame.payload 7 4) u) n.tid = some n := by
    rw [nearEntry_tid hn, ← hn, ← nearEntry_congr hradio, nearEntry, nearEntry, hlist, husable]
  rw [lastTcnt, hentry]

end

/-! ### Electrodes -/

theorem getEl_modEl_same (f : Electrode → Electrode) : getEl (modEl e f s) e = f (getEl s e) :=
  (tabGet_tabModify ..).trans (if_pos rfl)

@[simp] theorem scanTime_cap : (scanTime e s).cap = s.cap := by
  unfold scanTime
  split
  · exact elapseTo_cap _
  · rfl

@[simp] theorem scanTime_radio : (scanTime e s).radio = s.radio := by
  unfold scanTime
  split
  · exact elapseTo_radio _
  · rfl

@[simp] theorem scanTime_pwr : (scanTime e s).pwr = s.pwr := by
  unfold scanTime
  split
  · exact elapseTo_pwr _
  · rfl

@[simp] theorem scanTime_cfg : (scanTime e s).cfg = s.cfg := by
  unfold scanTime
  split
  · exact elapseTo_cfg _
  · rfl

/-- The part with electrode `e` reported touched, as `x` left its last scan. -/
def touchEl (e : Nat) (x : Electrode) (u : State) : State :=
  capEvent 0 (modEl e (fun _ => { x with touched := true, since := monoUs u }) (modEl e (fun _ => x) u))

/-- What a touch starts in Parked: the poll of the door whose handle it is (R368). -/
def ringTouch (e : Nat) (s : State) : State :=
  match doorOfHandle s e with
  | some z => if s.pwr.mode = .parked then handleTouched z.id s else s
  | none => s

@[simp] theorem touchEl_pwr : (touchEl e x u).pwr = u.pwr := rfl
@[simp] theorem touchEl_radio : (touchEl e x u).radio = u.radio := rfl

theorem getEl_touchEl : getEl (touchEl e x u) e = { x with touched := true, since := monoUs u } :=
  getEl_modEl_same (s := modEl e (fun _ => x) u) (fun _ => { x with touched := true, since := monoUs u })

theorem events_touchEl : (touchEl e x u).cap.events = setBits u.cap.events 0 := rfl

theorem ringTouch_awake (h : s.pwr.mode ≠ .parked) : ringTouch e s = s := by
  unfold ringTouch
  split
  · exact if_neg h
  · rfl

section

variable (hscan : scanned s e = true) (hu : u = scanTime e s) (hx : x = scanEl (scanPeriod s) (capThresh s e) (monoUs u) v (getEl s e))
include hscan hu hx

/-- What one scan comes to, with `x` the electrode it leaves before its debouncing ends (R368). -/
theorem oneScan_scans : oneScan e v s = if !x.touched && decide (2 ≤ x.above) then touchStarts e (modEl e (fun _ => x) u)
    else if x.touched && decide (2 ≤ x.below) then modEl e (fun y => { y with touched := false, since := monoUs u }) (modEl e (fun _ => x) u)
    else modEl e (fun _ => x) u := by
  have hperiod : scanPeriod u = scanPeriod s := by rw [scanPeriod, scanPeriod, hu, scanTime_pwr]
  have hthresh : capThresh u e = capThresh s e := by rw [capThresh, capThresh, hu, scanTime_cfg]
  have hel : getEl u e = getEl s e := by rw [getEl, getEl, hu, scanTime_cap]
  have hset : modEl e (scanEl (scanPeriod u) (capThresh u e) (monoUs u) v) u = modEl e (fun _ => x) u := by
    show modEl e (fun _ => scanEl (scanPeriod u) (capThresh u e) (monoUs u) v (getEl u e)) u = _
    rw [hperiod, hthresh, hel, hx]
  unfold oneScan
  rw [if_pos hscan]
  dsimp only
  rw [← hu, hset, getEl_modEl_same]
  rfl

theorem oneScan_stands (h : x.touched = false ∧ x.above < 2 ∨ x.touched = true ∧ x.below < 2) : oneScan e v s = modEl e (fun _ => x) u := by
  refine (oneScan_scans hscan hu hx).trans ?_
  rcases h with ⟨htouch, hlow⟩ | ⟨htouch, hlow⟩
  · rw [htouch, decide_eq_false (Nat.not_le.mpr hlow)]
    rfl
  · rw [htouch, decide_eq_false (Nat.not_le.mpr hlow)]
    rfl

theorem oneScan_ends (htouch : x.touched = true) (hlow : 2 ≤ x.below) :
    oneScan e v s = modEl e (fun y => { y with touched := false, since := monoUs u }) (modEl e (fun _ => x) u) := by
  refine (oneScan_scans hscan hu hx).trans ?_
  rw [htouch, decide_eq_true hlow]
  rfl

/-- With the port not parked, or no door at it, a touch only sets its event. -/
theorem oneScan_touches (htouch : x.touched = false) (hhigh : 2 ≤ x.above) (hmask : x.masked = false) : oneScan e v s = ringTouch e (touchEl e x u) := by
  have hset : getEl (modEl e (fun y => { y with touched := true, since := monoUs (modEl e (fun _ => x) u) }) (modEl e (fun _ => x) u)) e =
      { x with touched := true, since := monoUs u } := by
    rw [getEl_modEl_same, getEl_modEl_same]
    rfl
  refine (oneScan_scans hscan hu hx).trans ((if_pos (by rw [htouch, decide_eq_true hhigh]; rfl)).trans ?_)
  refine (if_neg (by rw [hset, hmask]; nofun)).trans ?_
  show ringTouch e (capEvent 0 (modEl e (fun _ => { getEl (modEl e (fun _ => x) u) e with touched := true, since := monoUs u }) (modEl e (fun _ => x) u))) = _
  rw [getEl_modEl_same]
  rfl

end

/-- A touch that is reported (R368). -/
theorem execTouch_reports {f : Fin 48} (hscan : scanned s f = true) (hu : u = scanTime f s)
    (hx : x = scanEl (scanPeriod s) (capThresh s f) (monoUs u) v (getEl s f)) (htouch : x.touched = false) (hhigh : 2 ≤ x.above)
    (hmask : x.masked = false) (hmode : s.pwr.mode ≠ .parked) : ∃ t, exec (.capacitiveTouch f [v]) s = .next t ∧
    getEl t f = { x with touched := true, since := monoUs u } ∧ t.cap.events = setBits s.cap.events 0 ∧ t.radio = s.radio := by
  have hawake : (touchEl f x u).pwr.mode ≠ .parked := by rw [touchEl_pwr, hu, scanTime_pwr]; exact hmode
  refine ⟨touchEl f x u, congrArg Host.Outcome.next ((oneScan_touches hscan hu hx htouch hhigh hmask).trans (ringTouch_awake hawake)),
    getEl_touchEl, ?_, ?_⟩
  · rw [events_touchEl, hu, scanTime_cap]
  · rw [touchEl_radio, hu, scanTime_radio]

/-- The end of a touch (R368). -/
theorem execTouchEnd_ends {f : Fin 48} (hscan : scanned s f = true) (hu : u = scanTime f s)
    (hx : x = scanEl (scanPeriod s) (capThresh s f) (monoUs u) v (getEl s f)) (htouch : x.touched = true) (hlow : 2 ≤ x.below) : ∃ t,
    exec (.touchEnd (f, [v])) s = .next t ∧ getEl t f = { x with touched := false, since := monoUs u } ∧ t.radio = s.radio := by
  refine ⟨_, congrArg Host.Outcome.next (oneScan_ends hscan hu hx htouch hlow), ?_, ?_⟩
  · rw [getEl_modEl_same, getEl_modEl_same]
  · exact (by rw [hu, scanTime_radio] : u.radio = s.radio)

/-- A scan that decides nothing yet (R368). -/
theorem execTouch_undecided {f : Fin 48} (hscan : scanned s f = true) (hu : u = scanTime f s)
    (hx : x = scanEl (scanPeriod s) (capThresh s f) (monoUs u) v (getEl s f))
    (h : x.touched = false ∧ x.above < 2 ∨ x.touched = true ∧ x.below < 2) : ∃ t, exec (.capacitiveTouch f [v]) s = .next t ∧
    getEl t f = x ∧ t.cap.events = s.cap.events ∧ t.radio = s.radio := by
  refine ⟨_, congrArg Host.Outcome.next (oneScan_stands hscan hu hx h), getEl_modEl_same _, ?_, ?_⟩
  · exact (by rw [hu, scanTime_cap] : u.cap.events = s.cap.events)
  · exact (by rw [hu, scanTime_radio] : u.radio = s.radio)

/-! ### A handle touched in Parked -/

theorem zonesOf_congr (h : t.radio = s.radio) : zonesOf t = zonesOf s := by rw [zonesOf, zonesOf, h]

/-- The part with wake cause `k` noted and the slice kept up, whose power it has. -/
def sliceNoted (k : Nat) (s : State) : State :=
  modPwr (fun p => { p with wakeCause := setBits p.wakeCause k, dorming := none, slice := some (monoUs s) }) s

theorem noteSlice_of_powered (k : Nat) (hmode : s.pwr.mode = .parked) (hslice : s.pwr.slice ≠ none) : noteSlice k s = sliceNoted k s := by
  obtain ⟨p, hp⟩ := Option.ne_none_iff_exists'.mp hslice
  rw [noteSlice, if_pos hmode, useSlice, if_pos hmode, hp]
  rfl

/-- What a handle's poll asks for does not turn on the wake slice's own times. -/
theorem canPoll_sliceNoted (k z : Nat) (hdorm : s.pwr.dorming = none) : canPoll (sliceNoted k s) (.handle z) = canPoll s (.handle z) := by
  unfold canPoll
  rw [hdorm]
  rfl

theorem startHandle_polls (z : Nat) (hmode : s.pwr.mode = .parked) (hslice : s.pwr.slice ≠ none) (hgood : groupGood s 1 = true)
    (hdorm : s.pwr.dorming = none) (hpoll : canPoll s (.handle z) = true) : ∃ p, (startHandle z s).radio.poll = some p ∧ p.kind = .handle z ∧
    p.phase = .telegram ∧ p.n = 1 ∧ p.m = 1 ∧ (startHandle z s).pwr.wakeCause = setBits s.pwr.wakeCause 6 := by
  have hup : sliceUp (sliceNoted 6 s) = true := (congrArg ((s.pwr.mode != .parked) || ·) hgood).trans (Bool.or_true _)
  have hstart : startHandle z s = beginTelegram (newPoll (sliceNoted 6 s) (.handle z) 1 1) (sliceNoted 6 s) := by
    unfold startHandle
    rw [noteSlice_of_powered 6 hmode hslice]
    exact (if_pos hup).trans (if_pos ((canPoll_sliceNoted 6 z hdorm).trans hpoll))
  rw [hstart]
  obtain ⟨p, hp, hkind, hphase, hm, hn, -⟩ := beginTelegram_begins (newPoll (sliceNoted 6 s) (.handle z) 1 1) (sliceNoted 6 s)
  exact ⟨p, hp, hkind, hphase, hn, hm, by rw [beginTelegram_pwr]; rfl⟩

/-- A door's handle touched in Parked starts the door's poll (R368). -/
theorem execTouch_polls {f : Fin 48} {z : Zone} (hscan : scanned s f = true) (hu : u = scanTime f s)
    (hx : x = scanEl (scanPeriod s) (capThresh s f) (monoUs u) v (getEl s f)) (htouch : x.touched = false) (hhigh : 2 ≤ x.above)
    (hmask : x.masked = false) (hmode : s.pwr.mode = .parked) (hdoor : doorOfHandle s f = some z) (hpoll : s.radio.poll = none)
    (hslice : s.pwr.slice ≠ none) (hgood : groupGood s 1 = true) (hdorm : s.pwr.dorming = none) (hcan : canPoll u (.handle z.id) = true) : ∃ t p,
    exec (.capacitiveTouch f [v]) s = .next t ∧ t.radio.poll = some p ∧ p.kind = .handle z.id ∧ p.phase = .telegram ∧ p.n = 1 ∧ p.m = 1 ∧
    t.pwr.wakeCause = setBits s.pwr.wakeCause 6 := by
  have hpwr : (touchEl f x u).pwr = s.pwr := by rw [touchEl_pwr, hu, scanTime_pwr]
  have hradio : (touchEl f x u).radio = s.radio := by rw [touchEl_radio, hu, scanTime_radio]
  have hdoorT : doorOfHandle (touchEl f x u) f = some z := by rw [doorOfHandle, zonesOf_congr hradio]; exact hdoor
  have hring : ringTouch f (touchEl f x u) = startHandle z.id (touchEl f x u) := by
    unfold ringTouch
    rw [hdoorT]
    refine (if_pos (hpwr ▸ hmode)).trans ?_
    unfold handleTouched
    rw [hradio, hpoll]
  have hgoodT : groupGood (touchEl f x u) 1 = true := by rw [groupGood, hpwr]; exact hgood
  obtain ⟨p, hp, hkind, hphase, hn, hm, hcause⟩ := startHandle_polls (s := touchEl f x u) z.id (hpwr ▸ hmode) (hpwr ▸ hslice) hgoodT
    (hpwr ▸ hdorm) hcan
  exact ⟨_, p, congrArg Host.Outcome.next ((oneScan_touches hscan hu hx htouch hhigh hmask).trans hring), hp, hkind, hphase, hn, hm,
    hcause.trans (by rw [hpwr])⟩

/-! ### Electrodes masked, unmasked and given up -/

theorem monoUs_fault (ty ix code sev action detail arg : Nat) : monoUs (fault ty ix code sev action detail arg s) = monoUs s :=
  (fault_frame (.refl _ s) (within_refl _) ..).monoUs_eq rfl rfl rfl

/-- An electrode masked or unmasked at time `w`, with its fault record. -/
theorem electrode_masked {f : Fin 48} (w : Nat) (m : Bool) (code sev action detail arg : Nat)
    (hy : y = fault pCap f code sev action detail arg (modEl f (fun x => { x with masked := m }) (elapseTo w s))) :
    (getEl y f).masked = m ∧ y.cap.events = s.cap.events ∧ w ≤ monoUs y := by
  have hcap : y.cap = (modEl f (fun x => { x with masked := m }) (elapseTo w s)).cap := by rw [hy]; exact fault_cap ..
  refine ⟨?_, ?_, ?_⟩
  · rw [getEl, hcap]
    exact congrArg Electrode.masked (getEl_modEl_same (s := elapseTo w s) (fun x => { x with masked := m }))
  · rw [hcap]
    exact (congrArg Cap.events (elapseTo_cap w) :)
  · rw [hy, monoUs_fault]
    exact le_monoUs_elapseTo w

/-- A touch of 30 s masks its electrode (R370). -/
theorem execElectrodeStuck_masks {f : Fin 48} (htouch : (getEl s f).touched = true) (hmask : (getEl s f).masked = false)
    (hscan : scanned s f = true) : ∃ t, exec (.electrodeStuck f) s = .next t ∧ (getEl t f).masked = true ∧
    t.cap.events = setBits s.cap.events 1 ∧ (getEl s f).since + 30000000 ≤ monoUs t := by
  obtain ⟨y, hy⟩ : ∃ y, y = fault pCap f 0x03 sDegraded 0x05 0 0 (modEl f (fun x => { x with masked := true })
    (elapseTo ((getEl s f).since + 30000000) s)) := ⟨_, rfl⟩
  have hexec : exec (.electrodeStuck f) s = .next (capEvent 1 y) :=
    congrArg Host.Outcome.next ((if_pos (by rw [htouch, hmask, hscan]; rfl)).trans (congrArg (capEvent 1) hy.symm))
  obtain ⟨hmasked, hevents, htime⟩ := electrode_masked _ true _ _ _ _ _ hy
  exact ⟨capEvent 1 y, hexec, hmasked, congrArg (setBits · 1) hevents, htime⟩

/-- 2 s without the touch unmask it (R370). -/
theorem execElectrodeUnmask_unmasks {f : Fin 48} (htouch : (getEl s f).touched = false) (hmask : (getEl s f).masked = true)
    (hscan : scanned s f = true) : ∃ t, exec (.electrodeUnmask f) s = .next t ∧ (getEl t f).masked = false ∧
    (getEl s f).since + 2000000 ≤ monoUs t := by
  obtain ⟨y, hy⟩ : ∃ y, y = fault pCap f 0x09 sInfo 0x09 0 0 (modEl f (fun x => { x with masked := false })
    (elapseTo ((getEl s f).since + 2000000) s)) := ⟨_, rfl⟩
  have hexec : exec (.electrodeUnmask f) s = .next y :=
    congrArg Host.Outcome.next ((if_pos (by rw [htouch, hmask, hscan]; rfl)).trans hy.symm)
  obtain ⟨hmasked, -, htime⟩ := electrode_masked _ false _ _ _ _ _ hy
  exact ⟨y, hexec, hmasked, htime⟩

theorem unitSt_outOfService_same {kind n : Nat} (code sev arg : Nat) (h : unitSt s kind n = .up ∨ unitSt s kind n = .out) :
    unitSt (outOfService kind n code sev arg s) kind n = .out := by
  rw [outOfService]
  rcases h with h | h
  · rw [if_pos h]
    exact unitSt_changeUnit_same ..
  · rw [if_neg (by rw [h]; nofun)]
    exact h

theorem unitSt_outOfService_of_ne {kind m n : Nat} (code sev arg : Nat) (h : n ≠ m) :
    unitSt (outOfService kind m code sev arg s) kind n = unitSt s kind n := by
  obtain ⟨fs, no, ev, hw⟩ := writeFault_flt_eq kind m code sev 0x04 0 arg (setUnit kind m .out s)
  rw [outOfService]
  split
  · rw [changeUnit_eq, unitSt, countFault, modFlt_flt, hw, setUnit_flt]
    exact (tabGet_tabSet UnitSt.up s.flt.units (kind * 256 + m) (kind * 256 + n) .out).trans (if_neg (by omega))
  · rfl

/-- Of units given up one by one, each that was up is out. -/
theorem unitSt_each_outOfService {kind n : Nat} (code sev arg : Nat) (l : List Nat)
    (h : n ∈ l ∧ unitSt s kind n = .up ∨ unitSt s kind n = .out) :
    unitSt (each l (fun m t => outOfService kind m code sev arg t) s) kind n = .out := by
  induction l generalizing s with
  | nil => exact h.resolve_left fun ⟨hmem, _⟩ => nomatch hmem
  | cons m l ih =>
    refine ih (s := outOfService kind m code sev arg s) ?_
    by_cases hm : n = m
    · subst hm
      exact .inr (unitSt_outOfService_same code sev arg (h.imp And.right id))
    · rw [unitSt_outOfService_of_ne code sev arg hm]
      exact h.imp_left fun ⟨hmem, hup⟩ => ⟨(List.mem_cons.mp hmem).resolve_left hm, hup⟩

/-- A guard short puts the electrodes of its group out of service (R370). -/
theorem execCapGuardFault_out {g : Fin 2} (hlow : 24 * g.val ≤ e) (hhigh : e < 24 * g.val + 24) (hup : portUp s pCap e = true) : ∃ t,
    exec (.capGuardFault g) s = .next t ∧ unitSt t pCap e = .out ∧ t.cap.events = setBits s.cap.events 2 := by
  have hmine : e ∈ ((List.range 24).map (fun i => 24 * g.val + i)).filter (fun e => portUp s pCap e) :=
    List.mem_filter.mpr ⟨List.mem_map.mpr ⟨e - 24 * g.val, List.mem_range.mpr (by omega), by omega⟩, hup⟩
  have hst : unitSt s pCap e = .up := by
    simp only [portUp, Bool.and_eq_true, beq_iff_eq] at hup
    exact hup.1.1.2
  refine ⟨_, congrArg Host.Outcome.next (if_neg (List.ne_nil_of_mem hmine)), unitSt_each_outOfService _ _ _ _ (.inl ⟨hmine, hst⟩), ?_⟩
  exact congrArg (fun c => setBits (Cap.events c) 2) (each_same State.cap _ _ (fun m t => outOfService_cap ..) s)

/-- Settles O25. -/
theorem buttonsAndElectrodes : Obligations.ButtonsAndElectrodes := by
  unfold Obligations.ButtonsAndElectrodes
  refine ⟨?taken, ?refused, ?held, fun _ _ => rfl, ?reports, ?polls, ?ends, ?undecided, fun _ _ _ _ => ⟨rfl, rfl⟩, ?stuck, ?unmask, ?guard⟩
  case taken => exact fun _ _ _ _ hh hv ht hl hw hs hu hn hsec htake hnew hnear hresp =>
    execButton_taken hh hv ht hl hw hs hu hn hsec htake hnew hnear hresp
  case refused => exact fun _ _ _ _ hh hv ht hl hw hs hu hn hsec htake hnew hnear hresp =>
    execButton_refused hh hv ht hl hw hs hu hn hsec htake hnew hnear hresp
  case held => exact fun _ _ hh hv ht hl hw hs => execButton_held hh hv ht hl hw hs
  case reports => exact fun _ _ _ _ _ hscan hu hx ht hhigh hmask hmode => execTouch_reports hscan hu hx ht hhigh hmask hmode
  case polls => exact fun _ _ _ _ _ _ hscan hu hx ht hhigh hmask hmode hdoor hpoll hslice hgood hdorm hcan =>
    execTouch_polls hscan hu hx ht hhigh hmask hmode hdoor hpoll hslice hgood hdorm hcan
  case ends => exact fun _ _ _ _ _ hscan hu hx ht hlow => execTouchEnd_ends hscan hu hx ht hlow
  case undecided => exact fun _ _ _ _ _ hscan hu hx h => execTouch_undecided hscan hu hx h
  case stuck => exact fun _ _ ht hm hs => execElectrodeStuck_masks ht hm hs
  case unmask => exact fun _ _ ht hm hs => execElectrodeUnmask_unmasks ht hm hs
  case guard => exact fun _ _ _ hlow hhigh hup => execCapGuardFault_out hlow hhigh hup

end Sys2Proof.Machine

/-! Sounding tables (O27). -/

namespace Sys2Proof.Machine

variable {p : Fin 4} {s t : State} {b : Bytes} {m : LineMsg}

theorem airPort_sendMgmt (p : Nat) (q : Nat) (b : Bytes) : airPort (getPort (sendMgmt p b s) q) = airPort (getPort s q) := by
  unfold sendMgmt
  split
  · exact airPort_flushMgmt.trans (airPort_modPort fun _ => rfl)
  · rfl

theorem airPort_sendSoundReq (p q reason : Nat) : airPort (getPort (sendSoundReq p reason s) q) = airPort (getPort s q) := by
  unfold sendSoundReq
  split
  · rfl
  · exact airPort_sendMgmt ..

theorem monoUs_sendMgmt (p : Nat) (b : Bytes) : monoUs (sendMgmt p b s) = monoUs s :=
  (sendMgmt_frame (.refl _ s) (within_refl _) p b).monoUs_eq rfl rfl rfl

/-- What a port holds of its tables, by what sending frames leaves of it. -/
theorem tables_of_airPort {x y : Port} (h : airPort x = airPort y) : x.tblRx = y.tblRx ∧ x.tblSent = y.tblSent ∧ x.tblOld = y.tblOld ∧
    x.bitsRx = y.bitsRx ∧ x.loads = y.loads ∧ x.loadAt = y.loadAt ∧ x.oldSeen = y.oldSeen :=
  ⟨(congrArg Port.tblRx h :), (congrArg Port.tblSent h :), (congrArg Port.tblOld h :), (congrArg Port.bitsRx h :), (congrArg Port.loads h :),
    (congrArg Port.loadAt h :), (congrArg Port.oldSeen h :)⟩

/-- A port with table `tbl`, of `sum` bits, just made of a sounding and sent in the LOAD `body`. -/
def tableMade (s : State) (p tbl sum : Nat) (body : Bytes) (x : Port) : Port :=
  { x with
    tblOld := x.tblRx, bitsOld := x.bitsRx, oldBody := x.loadBody, tblRx := tbl, bitsRx := sum, srcRx := phyDst s p
    tblSent := tbl, bitsSent := sum, oldSeen := false, loads := 1
    loadAt := monoUs s, loadFirst := monoUs s, loadBody := body, soundAt := monoUs s }

/-- The LOAD of table `tbl`, of `sum` bits, that the symbols of a sounding give (R398). -/
def loadOf (s : State) (i : IflRec) (syms : List (List (Int × Int))) (tbl sum : Nat) : Bytes :=
  le 1 3 ++ le 1 tbl ++ be 2 sum ++ le 1 i.margin ++ zeros 3 ++ slice (packNibbles (soundTable s i.margin syms)) 0 528

/-- The part with the table made of a sounding, and its LOAD sent. -/
def sendTableMade (s : State) (p : Nat) (i : IflRec) (syms : List (List (Int × Int))) (tbl sum : Nat) : State :=
  sendMgmt p (loadOf s i syms tbl sum) (modPort p (tableMade s p tbl sum (loadOf s i syms tbl sum)) s)

theorem execSoundFrameReceived_made {syms : List (List (Int × Int))} {i : IflRec} (hi : iflRec s = some i) :
    execSoundFrameReceived p syms s = .next (if hears s p then
      sendTableMade s p i syms ((getPort s p).tblSent % 15 + 1) ((soundTable s i.margin syms).foldl (· + ·) 0) else s) := by
  unfold execSoundFrameReceived
  rw [hi]
  rfl

/-- A sounding received becomes the port's table, and its LOAD is sent (R398). -/
theorem execSoundFrameReceived_does {syms : List (List (Int × Int))} {i : IflRec} (hs : Shaped s) (hi : iflRec s = some i) (hhears : hears s p = true) :
    ∃ t, exec (.soundFrameReceived p syms) s = .next t ∧ (getPort t p).tblRx = (getPort s p).tblSent % 15 + 1 ∧
    (getPort t p).tblSent = (getPort t p).tblRx ∧ (getPort t p).tblOld = (getPort s p).tblRx ∧ (getPort t p).loads = 1 ∧
    (getPort t p).bitsRx = ((carriers.zip (soundStats syms)).map (fun e =>
      if isPilot e.1 || isMasked s e.1 then 0 else loadBits i.margin e.2)).foldl (· + ·) 0 := by
  rw [← soundTable]
  obtain ⟨tbl, htbl⟩ : ∃ n, n = (getPort s p).tblSent % 15 + 1 := ⟨_, rfl⟩
  generalize hsum : (soundTable s i.margin syms).foldl (· + ·) 0 = sum
  have hexec : exec (.soundFrameReceived p syms) s = .next (sendTableMade s p i syms tbl sum) := by
    rw [htbl, ← hsum]
    exact (execSoundFrameReceived_made hi).trans (congrArg Host.Outcome.next (if_pos hhears))
  obtain ⟨body, hload⟩ : ∃ body, body = loadOf s i syms tbl sum := ⟨_, rfl⟩
  obtain ⟨y, hy⟩ : ∃ y, y = modPort p (tableMade s p tbl sum body) s := ⟨_, rfl⟩
  have hport : getPort y p = tableMade s p tbl sum body (getPort s p) := hy ▸ getPort_modPort (hs.ports p)
  obtain ⟨hrx, hsent, hold, hbits, hloads, -, -⟩ := tables_of_airPort (airPort_sendMgmt (s := y) p.val p.val body)
  refine ⟨_, hexec, ?_⟩
  rw [sendTableMade, ← hload, ← hy, hrx, hsent, hold, hbits, hloads, hport, ← htbl]
  exact ⟨rfl, rfl, rfl, rfl, rfl⟩

section

variable (hb : b = m.payload) (hhears : hears s p = true) (hok : msgOk m 3 536 = true) (hlow : 1 ≤ byteAt b 1)
  (hhigh : byteAt b 1 ≤ 15) (hzero : zeroAt b 5 3 = true)
include hb hhears hok hlow hhigh hzero

theorem execIflLoad_heard : exec (.iflLoad p m) s = .next (if loadOk s b then
    modPort p (fun x => { x with tblTx := byteAt b 1, bitsTx := beAt b 2 2, bkTx := unpackNibbles (slice b 8 528) }) s
    else modPort p (fun x => { x with cntPcrc := x.cntPcrc + 1 }) s) := by
  subst hb
  exact congrArg Host.Outcome.next (if_pos (by rw [hhears, hok, decide_eq_true hlow, decide_eq_true hhigh, hzero]; rfl))

/-- A LOAD whose table holds is in use for sending (R398). -/
theorem execIflLoad_loads (hs : Shaped s) (hload : loadOk s b = true) : ∃ t, exec (.iflLoad p m) s = .next t ∧
    getPort t p = { getPort s p with tblTx := byteAt b 1, bitsTx := beAt b 2 2, bkTx := unpackNibbles (slice b 8 528) } :=
  ⟨_, (execIflLoad_heard hb hhears hok hlow hhigh hzero).trans (congrArg Host.Outcome.next (if_pos hload)), getPort_modPort (hs.ports p)⟩

theorem execIflLoad_drops (hs : Shaped s) (hload : loadOk s b = false) : ∃ t, exec (.iflLoad p m) s = .next t ∧
    getPort t p = { getPort s p with cntPcrc := (getPort s p).cntPcrc + 1 } :=
  ⟨_, (execIflLoad_heard hb hhears hok hlow hhigh hzero).trans (congrArg Host.Outcome.next (if_neg (by rw [hload]; nofun))),
    getPort_modPort (hs.ports p)⟩

end

section

variable (hs : Shaped s) (hseen : (getPort s p).oldSeen = true) (hold : (getPort s p).tblOld ≠ 0) (hsend : canSend s p = true)
include hs hseen hold hsend

/-- A LOAD not yet obeyed is sent again 50 ms after the last (R399). -/
theorem execLoadResend_sends (hloads : (getPort s p).loads < 4) : ∃ t, exec (.loadResend p) s = .next t ∧
    (getPort t p).loads = (getPort s p).loads + 1 ∧ (getPort t p).oldSeen = false ∧ (getPort t p).loadAt = monoUs t ∧
    (getPort s p).loadAt + 50000 ≤ monoUs t := by
  obtain ⟨w, hw⟩ : ∃ w, w = elapseTo ((getPort s p).loadAt + 50000) s := ⟨_, rfl⟩
  obtain ⟨y, hy⟩ : ∃ y, y = modPort p (fun x => { x with loads := x.loads + 1, loadAt := monoUs w, oldSeen := false }) w := ⟨_, rfl⟩
  have hport : getPort w p = getPort s p := getPort_of_ifl (by rw [hw, elapseTo_ifl])
  have hportY : getPort y p = { getPort s p with loads := (getPort s p).loads + 1, loadAt := monoUs w, oldSeen := false } := by
    rw [hy, getPort_modPort (hw ▸ (elapseTo_ifl (s := s) _).symm ▸ hs.ports p), hport]
  have hmono : monoUs (sendMgmt p (getPort s p).loadBody y) = monoUs w := (monoUs_sendMgmt ..).trans (hy ▸ monoUs_modPort _)
  have htime : (getPort s p).loadAt + 50000 ≤ monoUs w := hw ▸ le_monoUs_elapseTo _
  have hexec : exec (.loadResend p) s = .next (sendMgmt p (getPort s p).loadBody y) := by
    refine congrArg Host.Outcome.next ((if_pos (by rw [hseen, bne_iff_ne.mpr hold, hsend]; rfl)).trans ((if_pos hloads).trans ?_))
    rw [hy, hw]
  obtain ⟨-, -, -, -, hloadsT, hat, hseenT⟩ := tables_of_airPort (airPort_sendMgmt (s := y) p p (getPort s p).loadBody)
  exact ⟨_, hexec, by rw [hloadsT, hportY], by rw [hseenT, hportY], by rw [hat, hportY, hmono], hmono ▸ htime⟩

/-- After four the table before it is back, and a sounding is asked for (R399). -/
theorem execLoadResend_givesUp (hloads : 4 ≤ (getPort s p).loads) : ∃ t, exec (.loadResend p) s = .next t ∧
    (getPort t p).tblRx = (getPort s p).tblOld ∧ (getPort t p).bitsRx = (getPort s p).bitsOld ∧ (getPort t p).tblOld = 0 ∧
    (getPort t p).tblSent = (getPort s p).tblSent := by
  obtain ⟨w, hw⟩ : ∃ w, w = elapseTo ((getPort s p).loadAt + 50000) s := ⟨_, rfl⟩
  obtain ⟨y, hy⟩ : ∃ y, y = modPort p (fun x => { x with 
          tblRx := x.tblOld, bitsRx := x.bitsOld, loadBody := x.oldBody, tblOld := 0, bitsOld := 0, oldBody := [], oldSeen := false }) w := ⟨_, rfl⟩
  have hport : getPort w p = getPort s p := getPort_of_ifl (by rw [hw, elapseTo_ifl])
  have hportY : getPort y p = { getPort s p with tblRx := (getPort s p).tblOld, bitsRx := (getPort s p).bitsOld,
                                                 loadBody := (getPort s p).oldBody, tblOld := 0, bitsOld := 0, oldBody := [], oldSeen := false } := by
    rw [hy, getPort_modPort (hw ▸ (elapseTo_ifl (s := s) _).symm ▸ hs.ports p), hport]
  have hexec : exec (.loadResend p) s = .next (sendSoundReq p 1 y) := by
    refine congrArg Host.Outcome.next ((if_pos (by rw [hseen, bne_iff_ne.mpr hold, hsend]; rfl)).trans ((if_neg (Nat.not_lt.mpr hloads)).trans ?_))
    rw [hy, hw]
  have hair := airPort_sendSoundReq (s := y) p.val p.val 1
  obtain ⟨hrx, hsent, holdT, hbits, -, -, -⟩ := tables_of_airPort hair
  exact ⟨_, hexec, by rw [hrx, hportY], by rw [hbits, hportY], by rw [holdT, hportY], by rw [hsent, hportY]⟩

end

/-- Settles O27. -/
theorem soundingTables : Obligations.SoundingTables := by
  unfold Obligations.SoundingTables
  refine ⟨?sound, ?load, ?drop, ?resend, ?giveUp⟩
  case sound => exact fun _ _ _ _ hs hi hh => execSoundFrameReceived_does hs hi hh
  case load => exact fun _ _ _ _ hs hb hh hok hl hhi hz hload => execIflLoad_loads hb hh hok hl hhi hz hs hload
  case drop => exact fun _ _ _ _ hs hb hh hok hl hhi hz hload => execIflLoad_drops hb hh hok hl hhi hz hs hload
  case resend => exact fun _ _ hs hseen hold hsend hl => execLoadResend_sends hs hseen hold hsend hl
  case giveUp => exact fun _ _ hs hseen hold hsend hl => execLoadResend_givesUp hs hseen hold hsend hl

end Sys2Proof.Machine

/-! The Ifeven line (O26). -/

namespace Sys2Proof.Machine

variable {p : Fin 4} {q uv : Nat} {s t u v : State} {m : LineMsg} {frame : LineFrame} {o : Out}

@[simp] theorem elapseToNs_ifl (t0 : Nat) : (elapseToNs t0 s).ifl = s.ifl := (elapseToNs_frame (.refl _ s) (within_refl _) t0).ifl rfl
@[simp] theorem searchOn_pwr (p : Nat) (ns : Nat) : (searchOn p ns s).pwr = s.pwr := (searchOn_frame (.refl _ s) (within_refl _) p ns).pwr rfl
@[simp] theorem masterHeard_pwr (p : Nat) : (masterHeard p s).pwr = s.pwr := (masterHeard_frame (.refl _ s) (within_refl _) p).pwr rfl
@[simp] theorem fault_ifl (ty : Nat) (ix : Nat) (code : Nat) (sev : Nat) (action : Nat) (detail : Nat) (arg : Nat) : (fault ty ix code sev action detail arg s).ifl = s.ifl := (fault_frame (.refl _ s) (within_refl _) ty ix code sev action detail arg).ifl rfl

/-! ### Frames on air -/

/-- State `t` comes of `s` by sending: what has gone out stands, and port `q` searches no shorter. -/
def Aired (q : Nat) (s t : State) : Prop := (∀ o ∈ s.outs, o ∈ t.outs) ∧ (getPort s q).searchUntil ≤ (getPort t q).searchUntil

theorem Aired.refl (q : Nat) (s : State) : Aired q s s := ⟨fun _ h => h, le_rfl⟩

theorem Aired.trans (h : Aired q s t) (h' : Aired q t u) : Aired q s u := ⟨fun o ho => h'.1 o (h.1 o ho), h.2.trans h'.2⟩

theorem aired_modPort {f : Port → Port} (i : Nat) (hf : ∀ x, x.searchUntil ≤ (f x).searchUntil) : Aired q s (modPort i f s) := by
  refine ⟨fun _ h => h, ?_⟩
  have hnth : getPort (modPort i f s) q = if i = q ∧ q < s.ifl.ports.length then f (getPort s q) else getPort s q := nth_modAt _ _ _
  rw [hnth]
  split
  · exact hf _
  · exact le_rfl

theorem aired_searchOn (i n : Nat) : Aired q s (searchOn i n s) := by
  unfold searchOn
  split
  · exact aired_modPort i fun _ => Nat.le_max_left _ _
  · exact .refl q s

theorem aired_sendFrame (i map tbl dst kind : Nat) (b : Bytes) : Aired q s (sendFrame i map tbl dst kind b s) := by
  have hemit : Aired q s (emit (lineOut s i map tbl dst kind b) s) := ⟨fun _ h => List.mem_append_left _ h, le_rfl⟩
  have hport := fun stop => hemit.trans (aired_modPort i (f := fun x => { x with cntTx := x.cntTx + 1, airEnd := stop, txEnd := stop }) fun _ => le_rfl)
  unfold sendFrame onlyIf
  split
  · exact (hport _).trans (aired_searchOn i _)
  · exact hport _

theorem aired_sendSeq (i : Nat) (x : TxFrame) : Aired q s (sendSeq i x s) := aired_sendFrame ..

theorem aired_flushMgmt (i : Nat) : Aired q s (flushMgmt i s) := by
  unfold flushMgmt
  extract_lets go u
  have hu : Aired q s u := aired_modPort i fun _ => le_rfl
  split
  · exact each_holds (P := Aired q s) go _ (fun b t (h : Aired q s t) =>
      h.trans (aired_sendFrame i (if (getPort t i).link = .coupledF then 3 else 0) 0 (phyDst t i) 1 b)) hu
  · exact .refl q s

theorem aired_pumpN (n i : Nat) : Aired q s (pumpN n i s) := by
  induction n generalizing s with
  | zero => exact .refl q s
  | succ n ih =>
    unfold pumpN
    dsimp only
    split
    · exact .refl q s
    · split
      · refine Aired.trans ?_ ih
        refine Aired.trans ?_ (aired_sendSeq i _)
        exact aired_modPort i fun _ => le_rfl
      · exact .refl q s

theorem aired_pump (i : Nat) : Aired q s (pump i s) := (aired_flushMgmt i).trans (aired_pumpN 8 i)

/-! ### DET readings -/

/-- A port's DET reading `v` taken at its time (R380, R414). -/
theorem takeDet_port (p : Fin 4) (n : Nat) (hs : p.val < s.ifl.ports.length) : getPort (takeDet p n s) p = { getPort s p with
    det := (n :: (getPort s p).det).take 18, detAt := some (monoUs s), detWin := some (getPort s p).winSeq
    lows := if s.clk.ns < (getPort s p).txEnd then (getPort s p).lows else if n < 6 then (getPort s p).lows + 1 else 0
    goods := if (getPort s p).link = .quarantined ∧ 64 < n then (getPort s p).goods + 1 else 0 } := getPort_modPort hs

/-- The part at the time of a DET reading, 1 ms after the last in link mode. -/
def detSampled (p : Nat) (s : State) : State :=
  match (getPort s p).detAt with
  | some t => onlyIf (linkMode s) (elapseTo (t + 1000)) s
  | none => s

theorem detSampled_passes (p : Nat) (s : State) : (detSampled p s).ifl = s.ifl ∧ s.clk.ns ≤ (detSampled p s).clk.ns ∧
    (linkMode s = true → ∀ t0, (getPort s p).detAt = some t0 → t0 + 1000 ≤ monoUs (detSampled p s)) := by
  unfold detSampled
  cases h : (getPort s p).detAt with
  | none => exact ⟨rfl, le_rfl, nofun⟩
  | some t0 =>
    dsimp only
    cases hmode : linkMode s with
    | true =>
      have hns : s.clk.ns ≤ (elapseTo (t0 + 1000) s).clk.ns := by
        rw [elapseTo, elapseToNs_ns]
        exact Nat.le_max_left _ _
      exact ⟨elapseTo_ifl _, hns, fun _ _ ht => Option.some.inj ht ▸ le_monoUs_elapseTo _⟩
    | false => exact ⟨rfl, le_rfl, nofun⟩

theorem execIflDetSample_due (hdue : detDue s p = true) : exec (.iflDetSample p uv) s = .next (
    if (getPort (takeDet p (detCode uv) (detSampled p s)) p).link = .quarantined then
      if 100 ≤ (getPort (takeDet p (detCode uv) (detSampled p s)) p).goods then
        fault pIfl p 0x09 sInfo 0x09 0 0 (modPort p (fun x => { x with link := .down, goods := 0, lows := 0 }) (takeDet p (detCode uv) (detSampled p s)))
      else takeDet p (detCode uv) (detSampled p s)
    else if 10 ≤ (getPort (takeDet p (detCode uv) (detSampled p s)) p).lows then quarantine p (takeDet p (detCode uv) (detSampled p s))
    else if isCoupled (getPort (takeDet p (detCode uv) (detSampled p s)) p).link &&
        impedanceStep (getPort (takeDet p (detCode uv) (detSampled p s)) p).det then
      if stepOpen (takeDet p (detCode uv) (detSampled p s)) then
        modPort p (fun x => { x with det := List.replicate 18 (detCode uv) }) (takeDet p (detCode uv) (detSampled p s))
      else decouple p 2 (takeDet p (detCode uv) (detSampled p s))
    else takeDet p (detCode uv) (detSampled p s)) := congrArg Host.Outcome.next (if_pos hdue)

section

variable (hs : Shaped s) (hdue : detDue s p = true) (htx : (getPort s p).txEnd ≤ s.clk.ns)
include hs hdue htx

/-- A good reading on a port that is down is kept (R380). -/
theorem execIflDetSample_down (hgood : 6 ≤ detCode uv) (hdown : (getPort s p).link = .down) : ∃ t, exec (.iflDetSample p uv) s = .next t ∧
    (getPort t p).lows = 0 ∧ (getPort t p).det = (detCode uv :: (getPort s p).det).take 18 ∧ (getPort t p).link = .down ∧
    (linkMode s = true → ∀ t0, (getPort s p).detAt = some t0 → t0 + 1000 ≤ monoUs t) := by
  obtain ⟨hifl, hns, htime⟩ := detSampled_passes p s
  have hport0 : getPort (detSampled p s) p = getPort s p := getPort_of_ifl hifl
  have hport := takeDet_port p (detCode uv) (s := detSampled p s) (by rw [hifl]; exact hs.ports p)
  rw [hport0] at hport
  obtain ⟨w, hw⟩ : ∃ w, w = takeDet p (detCode uv) (detSampled p s) := ⟨_, rfl⟩
  rw [← hw] at hport
  have hlink : (getPort w p).link = .down := (congrArg Port.link hport :).trans hdown
  have hlows : (getPort w p).lows = 0 := by
    rw [hport]
    exact (if_neg (Nat.not_lt.mpr (htx.trans hns))).trans (if_neg (Nat.not_lt.mpr hgood))
  refine ⟨w, (execIflDetSample_due hdue).trans (congrArg Host.Outcome.next ?_), hlows, (congrArg Port.det hport :), hlink, ?_⟩
  · rw [← hw, hlink, hlows]
    rfl
  · rw [hw]
    exact htime

/-- The tenth low reading quarantines the port (R416). -/
theorem execIflDetSample_quarantines (hlow : detCode uv < 6) (hlink : (getPort s p).link ≠ .quarantined) (hnine : (getPort s p).lows = 9) : ∃ t,
    exec (.iflDetSample p uv) s = .next t ∧ (getPort t p).link = .quarantined ∧ t.ifl.linkEv.getLsbD 3 = true := by
  obtain ⟨hifl, hns, -⟩ := detSampled_passes p s
  have hport0 : getPort (detSampled p s) p = getPort s p := getPort_of_ifl hifl
  have hlen0 : p.val < (detSampled p s).ifl.ports.length := by rw [hifl]; exact hs.ports p
  have hport := takeDet_port p (detCode uv) hlen0
  rw [hport0] at hport
  obtain ⟨w, hw⟩ : ∃ w, w = takeDet p (detCode uv) (detSampled p s) := ⟨_, rfl⟩
  have hlen : p.val < w.ifl.ports.length := by rw [hw]; exact length_ports_modPort.symm ▸ hlen0
  rw [← hw] at hport
  have hlinkW : (getPort w p).link ≠ .quarantined := by rw [(congrArg Port.link hport :)]; exact hlink
  have hlows : (getPort w p).lows = 10 := by
    rw [hport]
    exact (if_neg (Nat.not_lt.mpr (htx.trans hns))).trans ((if_pos hlow).trans (congrArg (· + 1) hnine))
  obtain ⟨y, hy⟩ : ∃ y, y = portDown p .quarantined 4 w := ⟨_, rfl⟩
  have hlenY : p.val < y.ifl.ports.length := by rw [hy, length_ports_portDown]; exact hlen
  have hfault : (fault pIfl p 0x02 sDegraded 0x06 0 4 (modPort p (fun x => { x with link := .quarantined, goods := 0 }) y)).ifl =
      (modPort p (fun x => { x with link := .quarantined, goods := 0 }) y).ifl := fault_ifl ..
  refine ⟨quarantine p w, (execIflDetSample_due hdue).trans (congrArg Host.Outcome.next ?_), ?_, ?_⟩
  · rw [← hw, if_neg hlinkW, hlows]
    rfl
  · have hq : (getPort (quarantine p w) p).link = (getPort (fault pIfl p 0x02 sDegraded 0x06 0 4
        (modPort p (fun x => { x with link := .quarantined, goods := 0 }) y)) p).link := by rw [hy]; rfl
    rw [hq, getPort_of_ifl hfault, getPort_modPort hlenY]
  · exact (setBits_getLsbD _ 3 3).trans (by simp)

end

/-! ### Frames received -/

/-- What a frame's reception counts and notes in its port (R392, R393, R403). -/
def tally (x : Port) : BitVec 32 × BitVec 32 × BitVec 32 × Int × Nat × Int := (x.cntPre, x.cntRxOk, x.cntHcrc, x.margin, x.gain, x.rxRatio)

theorem trackFrame_counts (x : Port) : (trackFrame frame x).cntRxOk = x.cntRxOk ∧ (trackFrame frame x).cntHcrc = x.cntHcrc ∧
    (trackFrame frame x).margin = x.margin := by
  have hstep : ∀ (l : List PilotFit) (y : Port), y.cntRxOk = x.cntRxOk ∧ y.cntHcrc = x.cntHcrc ∧ y.margin = x.margin →
      (l.foldl (trackSymbol frame.flood) y).cntRxOk = x.cntRxOk ∧ (l.foldl (trackSymbol frame.flood) y).cntHcrc = x.cntHcrc ∧
      (l.foldl (trackSymbol frame.flood) y).margin = x.margin := by
    intro l
    induction l with
    | nil => exact fun _ h => h
    | cons a l ih =>
      refine fun y h => ih (trackSymbol frame.flood y a) ?_
      unfold trackSymbol
      split <;> exact h
  exact hstep frame.pilots _ ⟨rfl, rfl, rfl⟩

theorem tally_modPort {f : Port → Port} (i : Nat) (hf : ∀ x, tally (f x) = tally x) : tally (getPort (modPort i f s) q) = tally (getPort s q) := by
  have hnth : getPort (modPort i f s) q = if i = q ∧ q < s.ifl.ports.length then f (getPort s q) else getPort s q := nth_modAt _ _ _
  rw [hnth]
  split
  · exact hf _
  · rfl

theorem tally_winAt (x : Port) (n : Nat) : tally { x with winAt := n } = tally x := rfl

theorem tally_searchOn (i n : Nat) : tally (getPort (searchOn i n s) q) = tally (getPort s q) := by
  unfold searchOn
  split
  · exact tally_modPort i fun _ => rfl
  · rfl

/-- The IFL block with the master heard at `now` (R400). -/
def masterAtNow (now : Nat) (b : Ifl) : Ifl :=
  { b with winSync := true, masterAt := now, ports := b.ports.map (fun x => { x with winAt := now - 400 }) }

theorem masterHeard_upstream (i : Nat) (h : upstream s i = true) : masterHeard i s = modIfl (masterAtNow (monoUs s)) s := if_pos h

theorem getPort_masterAtNow (now : Nat) (hlen : q < s.ifl.ports.length) : getPort (modIfl (masterAtNow now) s) q = { getPort s q with winAt := now - 400 } :=
  getPort_map (fun x => { x with winAt := now - 400 }) hlen (masterAtNow now) rfl

theorem masterHeard_tally (i : Nat) (hlen : q < s.ifl.ports.length) : tally (getPort (masterHeard i s) q) = tally (getPort s q) ∧
    (masterHeard i s).ifl.ports.length = s.ifl.ports.length ∧ (masterHeard i s).ifl.ownPos = s.ifl.ownPos := by
  cases h : upstream s i with
  | true =>
    rw [masterHeard_upstream i h, getPort_masterAtNow _ hlen]
    exact ⟨tally_winAt .., List.length_map .., rfl⟩
  | false =>
    rw [masterHeard, if_neg (by rw [h]; nofun)]
    exact ⟨rfl, rfl, rfl⟩

/-- Port `p` with a frame's preamble heard: its gain, its tracking and its clipping (R392, R393). -/
def preambleHeard (p : Nat) (frame : LineFrame) (s : State) : State :=
  onlyIf frame.clip (iflEvent p 2) (modPort p (fun x => { trackFrame frame x with
    gain := frozenGain s p (parseHead frame.head).src frame.levels, cntPre := x.cntPre + 1 }) s)

theorem preambleHeard_port (hlen : q < s.ifl.ports.length) : tally (getPort (preambleHeard q frame s) q) = ((getPort s q).cntPre + 1,
    (getPort s q).cntRxOk, (getPort s q).cntHcrc, (getPort s q).margin, frozenGain s q (parseHead frame.head).src frame.levels,
    (trackFrame frame (getPort s q)).rxRatio) := by
  have hport : tally (getPort (modPort q (fun x => { trackFrame frame x with
      gain := frozenGain s q (parseHead frame.head).src frame.levels, cntPre := x.cntPre + 1 }) s) q) = ((getPort s q).cntPre + 1,
      (getPort s q).cntRxOk, (getPort s q).cntHcrc, (getPort s q).margin, frozenGain s q (parseHead frame.head).src frame.levels,
      (trackFrame frame (getPort s q)).rxRatio) := by
    obtain ⟨hok, hcrc, hmargin⟩ := trackFrame_counts (frame := frame) (getPort s q)
    rw [getPort_modPort hlen, ← hok, ← hcrc, ← hmargin]
    rfl
  unfold preambleHeard onlyIf
  split
  · exact (tally_modPort (f := fun x => { x with events := setBits x.events 2 }) q fun _ => rfl).trans hport
  · exact hport

/-- The part with a frame's head read: whom it is for and until when it is on the air (R394, R404). -/
def headHeard (p : Nat) (frame : LineFrame) (s : State) : State :=
  let stop := s.clk.ns + frameNs s (parseHead frame.head).map (headBits s p (parseHead frame.head)) (parseHead frame.head).len
  modPort p (fun x => { x with airEnd := max x.airEnd stop }) (onlyIf ((parseHead frame.head).kind == 0) (searchOn p stop) (masterHeard p s))

theorem length_ports_headHeard (i : Nat) (hlen : q < s.ifl.ports.length) : q < (headHeard i frame s).ifl.ports.length := by
  obtain ⟨-, hports, -⟩ := masterHeard_tally i hlen
  unfold headHeard onlyIf
  dsimp only
  rw [length_ports_modPort]
  split
  · unfold searchOn
    split
    · rw [length_ports_modPort, hports]
      exact hlen
    · rw [hports]
      exact hlen
  · rw [hports]
    exact hlen

theorem headHeard_port (hlen : q < s.ifl.ports.length) : tally (getPort (headHeard q frame s) q) = tally (getPort s q) := by
  obtain ⟨hport, -, -⟩ := masterHeard_tally q hlen
  unfold headHeard onlyIf
  dsimp only
  refine (tally_modPort q ?_).trans ?_
  · exact fun _ => rfl
  · split
    · exact (tally_searchOn q _).trans hport
    · exact hport

theorem forUs_headHeard (i : Nat) (hlen : q < s.ifl.ports.length) (dst : Nat) : forUs (headHeard i frame s) dst = forUs s dst := by
  obtain ⟨-, -, hown⟩ := masterHeard_tally i hlen
  have hsearch : ∀ (n : Nat) (u : State), (searchOn i n u).sys = u.sys ∧ (searchOn i n u).ifl.ownPos = u.ifl.ownPos := by
    intro n u
    unfold searchOn
    split <;> exact ⟨rfl, rfl⟩
  have hsys : (masterHeard i s).sys = s.sys := by
    unfold masterHeard
    split <;> rfl
  have hboth : (headHeard i frame s).sys = s.sys ∧ (headHeard i frame s).ifl.ownPos = s.ifl.ownPos := by
    unfold headHeard onlyIf
    dsimp only
    split
    · exact ⟨(hsearch _ _).1.trans hsys, (hsearch _ _).2.trans hown⟩
    · exact ⟨hsys, hown⟩
  rw [forUs, forUs, ownPos, ownPos, hboth.1, hboth.2]

/-- The port of a good frame: its counters, its margin, and the table it was under (R392, R399, R403). -/
def goodPort (frame : LineFrame) (now : Nat) (x : Port) : Port :=
  let x := { x with pcrcRun := 0, margin := frame.margin, cntRxOk := x.cntRxOk + 1 }
  let x := if frame.flood then { x with goodAt := some now, goodSrc := (parseHead frame.head).src, goodGain := x.gain } else x
  if (parseHead frame.head).map = 4 then
    if (parseHead frame.head).tbl = x.tblRx then { x with tblOld := 0, bitsOld := 0, oldBody := [], oldSeen := false } else { x with oldSeen := true }
  else x

theorem tally_goodPort (now : Nat) (x : Port) :
    tally (goodPort frame now x) = (x.cntPre, x.cntRxOk + 1, x.cntHcrc, frame.margin, x.gain, x.rxRatio) := by
  unfold goodPort
  dsimp only
  split
  · split
    · split <;> rfl
    · split <;> rfl
  · split <;> rfl

theorem goodFrame_awake (i : Nat) (hmode : s.pwr.mode ≠ .parked) (hmap : (parseHead frame.head).map ≠ 4) :
    goodFrame i (parseHead frame.head) frame s = modPort i (goodPort frame (monoUs s)) s := by
  unfold goodFrame
  extract_lets u w
  have hw : w = u := if_neg (by rw [beq_eq_false_iff_ne.mpr hmap]; nofun)
  have hmodeU : u.pwr.mode ≠ .parked := hmode
  rw [hw, if_neg fun h => hmodeU h.1]
  rfl

section

variable (hheard : hearsStart u p frame.flood = true) (hu : u = elapseToNs frame.start s)
include hheard hu

theorem execIflFrameReceived_heard : exec (.iflFrameReceived p frame) s = .next (frameVerdict p frame u) := by
  subst hu
  exact congrArg Host.Outcome.next (if_pos hheard)

end

theorem frameVerdict_dropped (hcrc : crc16 (slice frame.head 0 5) ≠ beAt frame.head 5 2) : frameVerdict q frame s =
    modPort q (fun x => { x with cntHcrc := x.cntHcrc + 1 }) (preambleHeard q frame s) :=
  if_pos (by rw [bne_iff_ne.mpr hcrc]; rfl)

theorem frameVerdict_good (hcrc : crc16 (slice frame.head 0 5) = beAt frame.head 5 2) (hok : headOk frame.flood (parseHead frame.head) = true)
    (hus : forUs (headHeard q frame (preambleHeard q frame s)) (parseHead frame.head).dst = true) (hmap : (parseHead frame.head).map ≠ 4)
    (hbody : (parseHead frame.head).len = 0 ∨ frame.payload.length = (parseHead frame.head).len ∧ frame.pcrc = crc32 frame.payload) :
    frameVerdict q frame s = goodFrame q (parseHead frame.head) frame (headHeard q frame (preambleHeard q frame s)) := by
  have hhead : (crc16 (slice frame.head 0 5) != beAt frame.head 5 2 || !headOk frame.flood (parseHead frame.head)) = false := by
    rw [hcrc, hok, bne_self_eq_false]
    rfl
  have hpcrc : ((parseHead frame.head).len != 0 && !(frame.payload.length == (parseHead frame.head).len && frame.pcrc == crc32 frame.payload)) = false := by
    obtain h | ⟨hlen, hp⟩ := hbody
    · rw [h]
      rfl
    · rw [hlen, hp, beq_self_eq_true, beq_self_eq_true]
      exact Bool.and_false _
  refine (if_neg (by rw [hhead]; nofun)).trans ((if_neg ?_).trans ((if_neg ?_).trans (if_neg ?_)))
  · show ¬(!forUs (headHeard q frame (preambleHeard q frame s)) (parseHead frame.head).dst) = true
    rw [hus]
    nofun
  · rw [beq_eq_false_iff_ne.mpr hmap]
    nofun
  · rw [hpcrc]
    nofun

theorem preambleHeard_keeps (i : Nat) : (preambleHeard i frame s).ifl.ports.length = s.ifl.ports.length ∧
    (preambleHeard i frame s).ifl.ownPos = s.ifl.ownPos ∧ (preambleHeard i frame s).pwr = s.pwr ∧ (preambleHeard i frame s).sys = s.sys := by
  unfold preambleHeard onlyIf
  split
  · exact ⟨length_ports_modPort.trans length_ports_modPort, rfl, rfl, rfl⟩
  · exact ⟨length_ports_modPort, rfl, rfl, rfl⟩

theorem headHeard_pwr (i : Nat) : (headHeard i frame s).pwr = s.pwr := by
  unfold headHeard onlyIf
  dsimp only
  rw [modPort_pwr]
  split
  · rw [searchOn_pwr, masterHeard_pwr]
  · exact masterHeard_pwr i

/-- A good frame for the part is counted, with its margin (R392, R403). -/
theorem execIflFrameReceived_counts (hu : u = elapseToNs frame.start s) (hheard : hearsStart u p frame.flood = true) (hmode : s.pwr.mode ≠ .parked)
    (hs : Shaped s) (hcrc : crc16 (slice frame.head 0 5) = beAt frame.head 5 2) (hok : headOk frame.flood (parseHead frame.head) = true)
    (hus : forUs s (parseHead frame.head).dst = true) (hmap : (parseHead frame.head).map ≠ 4)
    (hbody : (parseHead frame.head).len = 0 ∨ frame.payload.length = (parseHead frame.head).len ∧ frame.pcrc = crc32 frame.payload) : ∃ t,
    exec (.iflFrameReceived p frame) s = .next t ∧ tally (getPort t p) = ((getPort s p).cntPre + 1, (getPort s p).cntRxOk + 1,
      (getPort s p).cntHcrc, frame.margin, frozenGain u p (parseHead frame.head).src frame.levels, (trackFrame frame (getPort s p)).rxRatio) := by
  have hifl : u.ifl = s.ifl := by rw [hu, elapseToNs_ifl]
  have hlenU : p.val < u.ifl.ports.length := by rw [hifl]; exact hs.ports p
  have hportU : getPort u p = getPort s p := getPort_of_ifl hifl
  obtain ⟨v, hv⟩ : ∃ v, v = preambleHeard p frame u := ⟨_, rfl⟩
  obtain ⟨hports, hown, hpwr, hsys⟩ := preambleHeard_keeps (frame := frame) (s := u) p
  rw [← hv] at hports hown hpwr hsys
  have hlenV : p.val < v.ifl.ports.length := hports ▸ hlenU
  have hportV := preambleHeard_port (frame := frame) hlenU
  rw [← hv, hportU] at hportV
  obtain ⟨w, hw⟩ : ∃ w, w = headHeard p frame v := ⟨_, rfl⟩
  have hportW : tally (getPort w p) = tally (getPort v p) := hw ▸ headHeard_port hlenV
  have husW : forUs w (parseHead frame.head).dst = true := by
    rw [hw, forUs_headHeard p hlenV, forUs, ownPos, hown, hsys, hu, elapseToNs_sys, elapseToNs_ifl]
    exact hus
  have hmodeW : w.pwr.mode ≠ .parked := by rw [hw, headHeard_pwr, hpwr, hu, elapseToNs_pwr]; exact hmode
  have hgood : frameVerdict p frame u = modPort p (goodPort frame (monoUs w)) w := by
    rw [frameVerdict_good hcrc hok (by rw [← hv, ← hw]; exact husW) hmap hbody, ← hv, ← hw]
    exact goodFrame_awake p hmodeW hmap
  refine ⟨_, (execIflFrameReceived_heard hheard hu).trans (congrArg Host.Outcome.next hgood), ?_⟩
  rw [getPort_modPort (by rw [hw]; exact length_ports_headHeard p hlenV), tally_goodPort]
  have hall := hportW.trans hportV
  simp only [tally, Prod.mk.injEq] at hall
  obtain ⟨hpre, hokc, hhcrc, -, hgain, hratio⟩ := hall
  rw [hpre, hokc, hhcrc, hgain, hratio]

/-- A head that fails its check is counted as such (R392, R403). -/
theorem execIflFrameReceived_drops (hs : Shaped s) (hu : u = elapseToNs frame.start s) (hheard : hearsStart u p frame.flood = true)
    (hcrc : crc16 (slice frame.head 0 5) ≠ beAt frame.head 5 2) : ∃ t, exec (.iflFrameReceived p frame) s = .next t ∧
    (getPort t p).cntPre = (getPort s p).cntPre + 1 ∧ (getPort t p).cntHcrc = (getPort s p).cntHcrc + 1 ∧
    (getPort t p).cntRxOk = (getPort s p).cntRxOk := by
  have hifl : u.ifl = s.ifl := by rw [hu, elapseToNs_ifl]
  have hlenU : p.val < u.ifl.ports.length := by rw [hifl]; exact hs.ports p
  have hportU : getPort u p = getPort s p := getPort_of_ifl hifl
  have hall := preambleHeard_port (frame := frame) hlenU
  rw [hportU] at hall
  simp only [tally, Prod.mk.injEq] at hall
  obtain ⟨hpre, hokc, hhcrc, -⟩ := hall
  refine ⟨_, (execIflFrameReceived_heard hheard hu).trans (congrArg Host.Outcome.next (frameVerdict_dropped hcrc)), ?_⟩
  rw [getPort_modPort (by rw [(preambleHeard_keeps (frame := frame) (s := u) p).1]; exact hlenU)]
  exact ⟨hpre, congrArg (· + 1) hhcrc, hokc⟩

/-! ### Soundings asked for and sent -/

theorem execSoundReq_takes (hs : Shaped s) (hhears : hears s p = true) (hok : msgOk m 2 2 = true) (hlow : 1 ≤ byteAt m.payload 1)
    (hhigh : byteAt m.payload 1 ≤ 5) (hdue : ∀ d, (getPort s p).soundDue = some d → d < monoUs s) : ∃ t, exec (.soundReq p m) s = .next t ∧
    getPort t p = { getPort s p with soundDue := some (max s.clk.ns (getPort s p).airEnd / 1000 + 5000) } := by
  have hfree : (getPort s p).soundDue.any (fun d => decide (monoUs s ≤ d)) = false := by
    cases h : (getPort s p).soundDue with
    | none => rfl
    | some d => exact decide_eq_false (Nat.not_le.mpr (hdue d h))
  refine ⟨_, congrArg Host.Outcome.next (if_pos ?_), getPort_modPort (hs.ports p)⟩
  rw [hhears, hok, decide_eq_true hlow, decide_eq_true hhigh, hfree]
  rfl

theorem execSoundReq_owed {d : Nat} (hdue : (getPort s p).soundDue = some d) (hnow : monoUs s ≤ d) : exec (.soundReq p m) s = .next s := by
  refine congrArg Host.Outcome.next (if_neg ?_)
  rw [hdue, Option.any_some, decide_eq_true hnow, Bool.not_true, Bool.and_false]
  nofun

theorem execSoundFrame_late {d : Nat} (hs : Shaped s) (hdue : (getPort s p).soundDue = some d) (hlate : d < frameStart s p / 1000) : ∃ t,
    exec (.soundFrame p) s = .next t ∧ getPort t p = { getPort s p with soundDue := none } ∧ t.outs = s.outs := by
  refine ⟨modPort p (fun x => { x with soundDue := none }) s, ?_, getPort_modPort (hs.ports p), rfl⟩
  show execSoundFrame p s = _
  unfold execSoundFrame
  rw [hdue]
  exact congrArg Host.Outcome.next (if_pos hlate)

theorem execOldTableHoldEnd_drops (hs : Shaped s) (hold : (getPort s p).tblOld ≠ 0) : ∃ t, exec (.oldTableHoldEnd p) s = .next t ∧
    getPort t p = { getPort s p with tblOld := 0, bitsOld := 0, oldBody := [], oldSeen := false } ∧ (getPort s p).loadFirst + 1000000 ≤ monoUs t := by
  obtain ⟨w, hw⟩ : ∃ w, w = elapseTo ((getPort s p).loadFirst + 1000000) s := ⟨_, rfl⟩
  have htime : (getPort s p).loadFirst + 1000000 ≤ monoUs w := hw ▸ le_monoUs_elapseTo _
  have hifl : w.ifl = s.ifl := by rw [hw, elapseTo_ifl]
  have hexec : exec (.oldTableHoldEnd p) s = .next (modPort p (fun x => { x with tblOld := 0, bitsOld := 0, oldBody := [], oldSeen := false }) w) := by
    rw [hw]
    exact congrArg Host.Outcome.next (if_neg hold)
  exact ⟨_, hexec, (getPort_modPort (by rw [hifl]; exact hs.ports p)).trans (by rw [getPort_of_ifl hifl]), (monoUs_modPort _).symm ▸ htime⟩

theorem execSoundingPeriod_asks (hs : Shaped s) (hlink : (getPort s p).link = .coupledF) (hmode : linkMode s = true) : ∃ t,
    exec (.soundingPeriod p) s = .next t ∧ (getPort t p).soundAt = monoUs t ∧ (getPort s p).soundAt + 10000000 ≤ monoUs t ∧
    (getPort t p).link = .coupledF := by
  obtain ⟨w, hw⟩ : ∃ w, w = elapseTo ((getPort s p).soundAt + 10000000) s := ⟨_, rfl⟩
  have htime : (getPort s p).soundAt + 10000000 ≤ monoUs w := hw ▸ le_monoUs_elapseTo _
  have hifl : w.ifl = s.ifl := by rw [hw, elapseTo_ifl]
  obtain ⟨y, hy⟩ : ∃ y, y = modPort p (fun x => { x with soundAt := monoUs w }) w := ⟨_, rfl⟩
  have hexec : exec (.soundingPeriod p) s = .next (sendSoundReq p 3 y) := by
    rw [hy, hw]
    exact congrArg Host.Outcome.next (if_pos (by rw [hlink, hmode]; rfl))
  have hport : getPort y p = { getPort s p with soundAt := monoUs w } := by
    rw [hy, getPort_modPort (by rw [hifl]; exact hs.ports p), getPort_of_ifl hifl]
  have hair := airPort_sendSoundReq (s := y) p.val p.val 3
  have hmono : monoUs (sendSoundReq p 3 y) = monoUs w :=
    ((sendSoundReq_frame (.refl _ y) (within_refl _) p 3).monoUs_eq rfl rfl rfl).trans (hy ▸ monoUs_modPort _)
  rw [hport] at hair
  exact ⟨_, hexec, (congrArg Port.soundAt hair :).trans hmono.symm, hmono ▸ htime, (congrArg Port.link hair :).trans hlink⟩

/-! ### Parked windows -/

theorem execTick_follows (hs : Shaped s) (hup : upstream s p = true) (hhears : hears s p = true) (hok : msgOk m 1 5 = true) : ∃ t,
    exec (.tick p m) s = .next t ∧ getPort t p = { getPort s p with winAt := monoUs s - 400, winSeq := beAt m.payload 1 4 } ∧
    t.ifl.winSync = true ∧ t.ifl.masterAt = monoUs s := by
  obtain ⟨w, hw⟩ : ∃ w, w = modIfl (masterAtNow (monoUs s)) s := ⟨_, rfl⟩
  have hexec : exec (.tick p m) s = .next (modPort p (fun x => { x with winSeq := beAt m.payload 1 4 }) w) := by
    rw [hw, ← masterHeard_upstream p hup]
    exact congrArg Host.Outcome.next (if_pos (by rw [hup, hhears, hok]; rfl))
  have hlen : p.val < w.ifl.ports.length := by
    rw [hw]
    exact (List.length_map ..).symm ▸ hs.ports p
  refine ⟨_, hexec, ?_, ?_, ?_⟩
  · rw [getPort_modPort hlen, hw, getPort_masterAtNow _ (hs.ports p)]
  · exact hw ▸ rfl
  · exact hw ▸ rfl

theorem execWindowExtensionEnd_ends (hs : Shaped s) (hmode : s.pwr.mode = .parked) (hopen : (getPort s p).searchUntil ≠ 0) : ∃ t,
    exec (.windowExtensionEnd p) s = .next t ∧ getPort t p = { getPort s p with searchUntil := 0 } ∧ (getPort s p).searchUntil ≤ monoUs t := by
  have hifl : (elapseTo (getPort s p).searchUntil s).ifl = s.ifl := elapseTo_ifl _
  refine ⟨modPort p (fun x => { x with searchUntil := 0 }) (elapseTo (getPort s p).searchUntil s), congrArg Host.Outcome.next (if_pos ?_), ?_, ?_⟩
  · rw [hmode, bne_iff_ne.mpr hopen]
    rfl
  · rw [getPort_modPort (by rw [hifl]; exact hs.ports p), getPort_of_ifl hifl]
  · rw [monoUs_modPort]
    exact le_monoUs_elapseTo _

/-- A follower without its master listens again 60 s after it did last (R402). -/
theorem execResyncListen_listens (hs : Shaped s) (hup : upstream s p = true) (htrickle : tricklesOn s = true) (hsync : s.ifl.winSync = false) : ∃ t,
    exec (.resyncListen p) s = .next t ∧ (getPort t p).searchUntil = monoUs t + 2100000 ∧ t.ifl.resyncAt = monoUs t ∧
    s.ifl.resyncAt + 60000000 ≤ monoUs t := by
  obtain ⟨w, hw⟩ : ∃ w, w = elapseTo (s.ifl.resyncAt + 60000000) s := ⟨_, rfl⟩
  have htime : s.ifl.resyncAt + 60000000 ≤ monoUs w := hw ▸ le_monoUs_elapseTo _
  have hifl : w.ifl = s.ifl := by rw [hw, elapseTo_ifl]
  obtain ⟨y, hy⟩ : ∃ y, y = modIfl (fun b => { b with resyncAt := monoUs w }) w := ⟨_, rfl⟩
  have hmono : monoUs y = monoUs w := hy ▸ rfl
  have hexec : exec (.resyncListen p) s = .next (modPort p (fun x => { x with searchUntil := monoUs w + 2100000 }) y) := by
    rw [hy, hw]
    refine congrArg Host.Outcome.next (if_pos ?_)
    rw [hup, htrickle, hsync]
    rfl
  have hlen : p.val < y.ifl.ports.length := by
    rw [hy]
    exact (congrArg (fun x : Ifl => p.val < x.ports.length) hifl).mpr (hs.ports p)
  refine ⟨_, hexec, ?_, ?_, ?_⟩
  · rw [getPort_modPort hlen, monoUs_modPort, hmono]
  · rw [monoUs_modPort, hmono, hy]
    rfl
  · rw [monoUs_modPort, hmono]
    exact htime

/-! ### A frame's symbols -/

section

variable (h : t.cfg = s.cfg)
include h

theorem iflRec_congr : iflRec t = iflRec s := by rw [iflRec, iflRec, board, board, h]

theorem isMasked_congr : isMasked t = isMasked s := funext fun k => by rw [isMasked, isMasked, iflRec_congr h]

theorem dataCarriers_congr : dataCarriers t = dataCarriers s := funext fun b => by rw [dataCarriers, dataCarriers, isMasked_congr h]

theorem pnPoints_congr : pnPoints t = pnPoints s := funext fun ks => funext fun bits => by rw [pnPoints, pnPoints, isMasked_congr h]

theorem spread_congr : spread t = spread s := funext fun n => funext fun bits => by rw [spread, spread, dataCarriers_congr h]

theorem withPilots_congr : withPilots t = withPilots s := by
  funext ks
  induction ks with
  | nil => rfl
  | cons k ks ih =>
    funext pn data
    rw [withPilots.eq_def t, withPilots.eq_def s]
    dsimp only
    rw [isMasked_congr h, ih]

theorem modulate_congr : modulate t = modulate s := by
  funext flood pn ds
  induction ds generalizing pn with
  | nil => rw [modulate, modulate]
  | cons d ds ih => rw [modulate, modulate, withPilots_congr h, ih]

/-- A frame's symbols turn on the configuration alone: on its notches (R381). -/
theorem frameSymbols_congr (map : Nat) (bk : List Nat) (head payload : Bytes) : frameSymbols t map bk head payload = frameSymbols s map bk head payload := by
  simp only [frameSymbols, floodHead, bodyPoints, preamble, soundSymbols, dataCarriers_congr h, pnPoints_congr h, spread_congr h, modulate_congr h]

theorem ballPsd_congr (i : Nat) : ballPsd t i = ballPsd s i := by rw [ballPsd, ballPsd, iflRec_congr h]

end

/-- A SOUND frame that is owed and in time (R398). -/
theorem execSoundFrame_sends {d : Nat} (hs : Shaped s) (hdue : (getPort s p).soundDue = some d) (hnow : frameStart s p / 1000 ≤ d)
    (hsend : canSend s p = true) (hmode : linkMode s = true) : ∃ t, exec (.soundFrame p) s = .next t ∧ (getPort t p).soundDue = none ∧
    (getPort t p).cntTx = (getPort s p).cntTx + 1 ∧ t.outs = s.outs ++ [lineOut s p 8 0 (phyDst s p) 1 []] := by
  obtain ⟨w, hw⟩ : ∃ w, w = modPort p (fun x => { x with soundDue := none }) s := ⟨_, rfl⟩
  have hport : getPort w p = { getPort s p with soundDue := none } := hw ▸ getPort_modPort (hs.ports p)
  have hlen : p.val < w.ifl.ports.length := by rw [hw, length_ports_modPort]; exact hs.ports p
  have hcfg : w.cfg = s.cfg := by rw [hw, modPort_cfg]
  have hstart : frameStart w p = frameStart s p := by
    rw [frameStart, frameStart, hport, upstream, upstream, hw, modPort_sys, modPort_pwr, modPort_ns]
  have hline : lineOut w p 8 0 (phyDst s p) 1 [] = lineOut s p 8 0 (phyDst s p) 1 [] := by
    have hown : ownPos w = ownPos s := by
      rw [ownPos, ownPos, hw, modPort_sys]
      rfl
    unfold lineOut
    dsimp only
    rw [frameSymbols_congr hcfg, ballPsd_congr hcfg, hown, hstart, hport]
  have hexec : exec (.soundFrame p) s = .next (sendFrame p 8 0 (phyDst s p) 1 [] w) := by
    show execSoundFrame p s = _
    unfold execSoundFrame
    rw [hdue, hw]
    exact congrArg Host.Outcome.next ((if_neg (Nat.not_lt.mpr hnow)).trans (if_pos (by rw [hsend, hmode]; rfl)))
  obtain ⟨stop, hsent⟩ : ∃ stop, sendFrame p 8 0 (phyDst s p) 1 [] w = modPort p (fun x => { x with cntTx := x.cntTx + 1, airEnd := stop, txEnd := stop })
      (emit (lineOut w p 8 0 (phyDst s p) 1 []) w) := ⟨_, rfl⟩
  have hlenE : p.val < (emit (lineOut w p 8 0 (phyDst s p) 1 []) w).ifl.ports.length := hlen
  have hportE : getPort (emit (lineOut w p 8 0 (phyDst s p) 1 []) w) p = getPort w p := rfl
  refine ⟨_, hexec, ?_, ?_, ?_⟩
  · rw [hsent, getPort_modPort hlenE, hportE, hport]
  · rw [hsent, getPort_modPort hlenE, hportE, hport]
  · rw [hsent, ← hline, hw]
    rfl

/-! ### Windows and the master's silence -/

theorem onRc_elapseTo (n : Nat) : (elapseTo n s).clk.onRc = s.clk.onRc := by
  obtain ⟨cnts, hclk⟩ : ∃ cnts, (elapseTo n s).clk = { s.clk with ns := max s.clk.ns (if onRtc s then rtcNs n else 1000 * n), cnts := cnts } :=
    elapseToNs_clk _ s
  rw [hclk]

theorem rtcUs_rtcNs_le (n : Nat) : rtcUs (rtcNs n) ≤ n + 62 := by
  unfold rtcUs rtcNs ceilDiv
  simp only [OfNat.ofNat_ne_zero, if_false]
  omega

/-- On the RTC's time a moment waited for is overrun by less than two of its ticks. -/
theorem monoUs_elapseTo_le (hrtc : onRtc s = true) (n : Nat) : monoUs (elapseTo n s) ≤ max (monoUs s) (n + 62) := by
  have hrtc' : onRtc (elapseTo n s) = true := by rw [onRtc, elapseTo_pwr]; exact hrtc
  obtain ⟨cnts, hclk⟩ : ∃ cnts, (elapseTo n s).clk = { s.clk with ns := max s.clk.ns (if onRtc s then rtcNs n else 1000 * n), cnts := cnts } :=
    elapseToNs_clk _ s
  rw [monoUs_of_onRtc hrtc, monoUs_of_onRtc hrtc', hclk, hrtc, if_pos rfl]
  dsimp only
  have hover := rtcUs_rtcNs_le n
  obtain h | h := le_total s.clk.ns (rtcNs n)
  · rw [Nat.max_eq_right h]
    omega
  · rw [Nat.max_eq_left h]
    omega

/-- When a follower's next second without its master ends (R402). -/
def silenceEnd (s : State) : Nat := s.ifl.masterAt + 1000000 * max 3 ((monoUs s - s.ifl.masterAt) / 1000000 + 1)

theorem onRtc_parked (h : s.pwr.mode = .parked) : onRtc s = true := by
  rw [onRtc, h]
  cases s.pwr.vaon <;> rfl

section

variable (hs : Shaped s) (hup : upstream s p = true) (hmode : s.pwr.mode = .parked) (hsync : s.ifl.winSync = true)
include hup hmode hsync

theorem execMasterSilence_passes (hw : v = elapseTo (silenceEnd s) s) : exec (.masterSilence p) s = .next (if v.ifl.masterAt + 30000000 ≤ monoUs v then
      dropPosition (iflEvent p 1 (modIfl (fun b => { b with winSync := false, resyncAt := monoUs v }) v))
    else modPort p (fun x => { x with searchUntil := max x.searchUntil (x.winAt + 1500 + windowWiden v) }) v) := by
  subst hw
  exact congrArg Host.Outcome.next (if_pos (by rw [hup, hmode, hsync]; rfl))

include hs

/-- 30 s of silence end a follower's schedule, and with it its position (R402). -/
theorem execMasterSilence_loses (hlong : s.ifl.masterAt + 29000000 ≤ monoUs s) : ∃ t, exec (.masterSilence p) s = .next t ∧ t.ifl.winSync = false ∧
    t.ifl.ownPos = none ∧ t.ifl.resyncAt = monoUs t ∧ (getPort t p).events = setBits (getPort s p).events 1 := by
  obtain ⟨v, hv⟩ : ∃ v, v = elapseTo (silenceEnd s) s := ⟨_, rfl⟩
  have hifl : v.ifl = s.ifl := by rw [hv, elapseTo_ifl]
  have htime : silenceEnd s ≤ monoUs v := hv ▸ le_monoUs_elapseTo _
  have hover : v.ifl.masterAt + 30000000 ≤ monoUs v := by
    rw [hifl]
    unfold silenceEnd at htime
    omega
  obtain ⟨y, hy⟩ : ∃ y, y = iflEvent p 1 (modIfl (fun b => { b with winSync := false, resyncAt := monoUs v }) v) := ⟨_, rfl⟩
  have hports : v.ifl.ports.length = s.ifl.ports.length := by rw [hifl]
  have hlen : p.val < y.ifl.ports.length := by
    rw [hy]
    exact (length_modAt ..).symm ▸ hports.symm ▸ hs.ports p
  have hevents : (getPort y p).events = setBits (getPort s p).events 1 := by
    have hport : getPort y p = { getPort v p with events := setBits (getPort v p).events 1 } := by
      rw [hy]
      exact getPort_modPort (s := modIfl (fun b => { b with winSync := false, resyncAt := monoUs v }) v) (hports.symm ▸ hs.ports p)
    rw [hport, getPort_of_ifl hifl]
  have hdrop : getPort (dropPosition y) p = { emptyPort (if (getPort y p).link = .quarantined then .quarantined else .down) (getPort y p) with holds := [] } :=
    getPort_map (s := modIfl (fun b => { b with ownPos := none, ownCpl := 0, routes := [] }) y) _ hlen
      (fun b => { b with ports := b.ports.map (fun x => { emptyPort (if x.link = .quarantined then .quarantined else .down) x with holds := [] }) }) rfl
  have hexec := (execMasterSilence_passes hup hmode hsync hv).trans (congrArg Host.Outcome.next (if_pos hover))
  rw [← hy] at hexec
  refine ⟨_, hexec, ?_, rfl, ?_, ?_⟩
  · exact hy ▸ rfl
  · have hmono : monoUs (dropPosition y) = monoUs v := by
      rw [hy]
      rfl
    rw [hmono, hy]
    rfl
  · rw [hdrop]
    exact hevents

/-- A shorter silence widens the follower's window (R402). -/
theorem execMasterSilence_widens (hshort : monoUs s < s.ifl.masterAt + 28000000) (hafter : s.ifl.masterAt ≤ monoUs s) : ∃ t,
    exec (.masterSilence p) s = .next t ∧ t.ifl.winSync = true ∧ (getPort s p).winAt + 1500 + windowWiden t ≤ (getPort t p).searchUntil := by
  obtain ⟨v, hv⟩ : ∃ v, v = elapseTo (silenceEnd s) s := ⟨_, rfl⟩
  have hifl : v.ifl = s.ifl := by rw [hv, elapseTo_ifl]
  have htime : monoUs v ≤ max (monoUs s) (silenceEnd s + 62) := hv ▸ monoUs_elapseTo_le (onRtc_parked hmode) _
  have hunder : ¬v.ifl.masterAt + 30000000 ≤ monoUs v := by
    rw [hifl]
    unfold silenceEnd at htime
    omega
  have hlen : p.val < v.ifl.ports.length := by rw [hifl]; exact hs.ports p
  obtain ⟨t, ht⟩ : ∃ t, t = modPort p (fun x => { x with searchUntil := max x.searchUntil (x.winAt + 1500 + windowWiden v) }) v := ⟨_, rfl⟩
  have hwiden : windowWiden t = windowWiden v := by
    rw [windowWiden, windowWiden, ht, monoUs_modPort, modPort_sys]
    rfl
  refine ⟨t, ht ▸ (execMasterSilence_passes hup hmode hsync hv).trans (congrArg Host.Outcome.next (if_neg hunder)), ?_, ?_⟩
  · rw [ht]
    exact (congrArg Ifl.winSync hifl :).trans hsync
  · rw [hwiden, ht, getPort_modPort hlen, getPort_of_ifl hifl]
    exact Nat.le_max_right _ _

end

/-- Port `p` with its next window open: when it was due, the `n`th of its schedule (R400). -/
def windowOpened (p at_ n : Nat) (s : State) : State :=
  modPort p (fun x => { x with winAt := at_, winSeq := n, searchUntil := max x.searchUntil (at_ + 1500 + windowWiden s) }) s

/-- The master's TICK in its odd windows. -/
def tickSent (p n : Nat) (s : State) : State :=
  if canSend s p && masterOf s p && n % 2 == 1 then sendFrame p 0 0 0xF 1 (le 1 1 ++ be 4 n) s else s

theorem tickSent_keeps (i n : Nat) : quiet (tickSent i n s) = quiet s ∧ Aired i s (tickSent i n s) ∧ monoUs (tickSent i n s) = monoUs s := by
  unfold tickSent
  split
  · exact ⟨quiet_sendFrame .., aired_sendFrame .., (sendFrame_frame (.refl _ s) (within_refl _) ..).monoUs_eq rfl rfl rfl⟩
  · exact ⟨rfl, .refl i s, rfl⟩

theorem execListenWindow_opens (hvaon : s.pwr.vaon = true) (htrickle : tricklesOn s = true) (hline : lineUp s p = true)
    (hfollow : s.sys.trailer = false ∨ s.ifl.winSync = true) (hv : v = elapseTo ((getPort s p).winAt + 1000000 - windowWiden s) s) :
    exec (.listenWindow p) s = .next (pump p (tickSent p ((getPort s p).winSeq + 1)
      (windowOpened p ((getPort s p).winAt + 1000000) ((getPort s p).winSeq + 1) v))) := by
  have hcond : (tricklesOn s && s.pwr.vaon && lineUp s p && (!s.sys.trailer || s.ifl.winSync)) = true := by
    rw [htrickle, hvaon, hline]
    obtain h | h := hfollow
    · rw [h]
      rfl
    · rw [h, Bool.or_true]
      rfl
  have hifl : v.ifl = s.ifl := by rw [hv, elapseTo_ifl]
  have hseq : (getPort v p).winSeq = (getPort s p).winSeq := congrArg Port.winSeq (getPort_of_ifl hifl)
  rw [← hseq]
  subst hv
  exact congrArg Host.Outcome.next (if_pos hcond)

/-- What the TICK of window `n` puts on air. -/
theorem tickSent_sends {n : Nat} (hsend : canSend s p = true) (hmaster : masterOf s p = true) (hodd : n % 2 = 1) :
    lineOut s p 0 0 0xF 1 (le 1 1 ++ be 4 n) ∈ (tickSent p n s).outs := by
  have hsent : tickSent p n s = sendFrame p 0 0 0xF 1 (le 1 1 ++ be 4 n) s := if_pos (by rw [hsend, hmaster, hodd]; rfl)
  rw [hsent]
  exact List.mem_append_right _ (List.mem_singleton.mpr rfl)

theorem frameStart_master (hmode : s.pwr.mode = .parked) (hmaster : masterOf s q = true) : 1000 * (getPort s q).winAt + 400000 ≤ frameStart s q := by
  have hup : (!upstream s q) = true := hmaster
  rw [frameStart, if_pos ⟨hmode, hup⟩]
  exact Nat.le_max_right _ _

theorem length_tick (n : Nat) : (le 1 1 ++ be 4 n).length = 5 := by
  rw [List.length_append, be, List.length_reverse]
  rfl

/-- A window opens on its schedule, and in an odd one the master sends its TICK (R400). -/
theorem execListenWindow_does (hs : Shaped s) (hmode : s.pwr.mode = .parked) (hvaon : s.pwr.vaon = true) (htrickle : tricklesOn s = true)
    (hline : lineUp s p = true) (hfollow : s.sys.trailer = false ∨ s.ifl.winSync = true) : ∃ t,
    exec (.listenWindow p) s = .next t ∧ (getPort t p).winSeq = (getPort s p).winSeq + 1 ∧
    (getPort t p).winAt = (getPort s p).winAt + 1000000 ∧ (getPort s p).winAt + 1000000 ≤ monoUs t + windowWiden s ∧
    (getPort s p).winAt + 1001500 ≤ (getPort t p).searchUntil ∧
    (masterOf s p = true → (getPort s p).winSeq % 2 = 0 → (getPort s p).link ≠ .quarantined → monoUs s ≤ (getPort s p).winAt + 1000000 →
      ∃ start head body, head = headBytes 0 0 (ownPos s) 0xF 1 5 ∧ body = le 1 1 ++ be 4 ((getPort s p).winSeq + 1) ∧
        Out.line p start head body (ballPsd s p) (frameSymbols s 0 (getPort s p).bkTx head body) ∈ t.outs ∧
        1000 * (getPort s p).winAt + 1000400000 ≤ start) := by
  obtain ⟨v, hv⟩ : ∃ v, v = elapseTo ((getPort s p).winAt + 1000000 - windowWiden s) s := ⟨_, rfl⟩
  obtain ⟨w, hw⟩ : ∃ w, w = windowOpened p ((getPort s p).winAt + 1000000) ((getPort s p).winSeq + 1) v := ⟨_, rfl⟩
  obtain ⟨x, hx⟩ : ∃ x, x = tickSent p ((getPort s p).winSeq + 1) w := ⟨_, rfl⟩
  have hifl : v.ifl = s.ifl := by rw [hv, elapseTo_ifl]
  have hlen : p.val < v.ifl.ports.length := by rw [hifl]; exact hs.ports p
  have hport : getPort w p = { getPort s p with
      winAt := (getPort s p).winAt + 1000000, winSeq := (getPort s p).winSeq + 1
      searchUntil := max (getPort s p).searchUntil ((getPort s p).winAt + 1000000 + 1500 + windowWiden v) } := by
    rw [hw, windowOpened, getPort_modPort hlen, getPort_of_ifl hifl]
  have hmonoW : monoUs w = monoUs v := hw ▸ monoUs_modPort _
  obtain ⟨hquiet, haired, hmonoX⟩ := tickSent_keeps (s := w) p ((getPort s p).winSeq + 1)
  rw [← hx] at hquiet haired hmonoX
  have hmono : monoUs (pump p x) = monoUs v := ((pump_frame (.refl _ x) (within_refl _) p).monoUs_eq rfl rfl rfl).trans (hmonoX.trans hmonoW)
  have hkept : quietPort (getPort (pump p x) p) = quietPort (getPort w p) := port_of_quiet (congrArg Ifl.ports ((quiet_pump p).trans hquiet)) p
  have haired' : Aired p w (pump p x) := haired.trans (aired_pump p)
  have htime : (getPort s p).winAt + 1000000 - windowWiden s ≤ monoUs v := hv ▸ le_monoUs_elapseTo _
  have hsearch : (getPort s p).winAt + 1001500 ≤ (getPort w p).searchUntil := by
    rw [hport]
    dsimp only
    omega
  refine ⟨pump p x, hx ▸ hw ▸ execListenWindow_opens hvaon htrickle hline hfollow hv, (congrArg Port.winSeq hkept :).trans (by rw [hport]; rfl),
    (congrArg Port.winAt hkept :).trans (by rw [hport]; rfl), ?_, hsearch.trans haired'.2, ?_⟩
  · rw [hmono]
    omega
  · intro hmaster heven hlink hearly
    have hpwr : w.pwr = s.pwr := by rw [hw, windowOpened, modPort_pwr, hv, elapseTo_pwr]
    have hsys : w.sys = s.sys := by rw [hw, windowOpened, modPort_sys, hv, elapseTo_sys]
    have hcfg : w.cfg = s.cfg := by rw [hw, windowOpened, modPort_cfg, hv, elapseTo_cfg]
    have hmasterW : masterOf w p = true := by rw [masterOf, upstream, hsys]; exact hmaster
    have hown : ownPos w = ownPos s := by
      have hpos : w.ifl.ownPos = v.ifl.ownPos := by rw [hw]; rfl
      rw [ownPos, ownPos, hsys, hpos, hifl]
    have htimely : monoUs w ≤ (getPort w p).searchUntil := by
      have hupper : monoUs v ≤ max (monoUs s) ((getPort s p).winAt + 1000000 - windowWiden s + 62) := hv ▸ monoUs_elapseTo_le (onRtc_parked hmode) _
      rw [hmonoW]
      omega
    have hlineW : lineUp w p = true := by
      have hrc : w.clk.onRc = s.clk.onRc := by
        rw [hw, hv]
        exact onRc_elapseTo _
      have hfltW : w.flt = s.flt := by rw [hw, windowOpened, modPort_flt, hv, elapseTo_flt]
      rw [lineUp, portUp_congr hcfg hfltW hpwr hrc, iflRec_congr hcfg]
      exact hline
    have hsend : canSend w p = true := by
      have hlinkW : (getPort w p).link ≠ .quarantined := by rw [hport]; exact hlink
      have htrickleW : tricklesOn w = true := by rw [tricklesOn, hpwr]; exact htrickle
      rw [canSend, hlineW, bne_iff_ne.mpr hlinkW, htrickleW, decide_eq_true htimely]
      exact Bool.or_true _
    refine ⟨frameStart w p, _, _, rfl, rfl, ?_, ?_⟩
    · have hmem := tickSent_sends (p := p) hsend hmasterW (n := (getPort s p).winSeq + 1) (by omega)
      rw [← hx] at hmem
      have hsent := (aired_pump (q := p) (s := x) p).1 _ hmem
      unfold lineOut at hsent
      dsimp only at hsent
      rw [length_tick, hown, ballPsd_congr hcfg, frameSymbols_congr hcfg, hport] at hsent
      exact hsent
    · have hstart := frameStart_master (s := w) (q := p) (by rw [hpwr]; exact hmode) hmasterW
      have hat : (getPort w p).winAt = (getPort s p).winAt + 1000000 := by rw [hport]
      omega

/-- Settles O26. -/
theorem ifevenLine : Obligations.IfevenLine := by
  unfold Obligations.IfevenLine
  refine ⟨?good, ?quarantine, ?frame, ?head, ?unheard, ?asked, ?owed, ?sound, ?late, ?oldTable, ?period, ?tick, ?window, ?windowEnd, ?silent, ?widen,
    ?resync⟩
  case good => exact fun _ _ _ hs hdue hgood htx hdown => execIflDetSample_down hs hdue htx hgood hdown
  case quarantine => exact fun _ _ _ hs hdue hlow htx hlink hnine => execIflDetSample_quarantines hs hdue htx hlow hlink hnine
  case frame =>
    intro p frame u s hu hheard hmode hs hcrc hok hus hmap hbody
    obtain ⟨t, hexec, hall⟩ := execIflFrameReceived_counts hu hheard hmode hs hcrc hok hus hmap hbody
    simp only [tally, Prod.mk.injEq] at hall
    obtain ⟨hpre, hrxok, hhcrc, hmargin, hgain, hratio⟩ := hall
    exact ⟨t, hexec, hpre, hrxok, hhcrc, hmargin, hgain, hratio⟩
  case head => exact fun _ _ _ _ hs hu hheard hcrc => execIflFrameReceived_drops hs hu hheard hcrc
  case unheard => exact fun _ _ _ h => congrArg Host.Outcome.next (if_neg (by rw [h]; nofun))
  case asked => exact fun _ _ _ hs hhears hok hlow hhigh hdue => execSoundReq_takes hs hhears hok hlow hhigh hdue
  case owed => exact fun _ _ _ _ hdue hnow => execSoundReq_owed hdue hnow
  case sound => exact fun _ _ _ hs hdue hnow hsend hmode => execSoundFrame_sends hs hdue hnow hsend hmode
  case late => exact fun _ _ _ hs hdue hlate => execSoundFrame_late hs hdue hlate
  case oldTable => exact fun _ _ hs hold => execOldTableHoldEnd_drops hs hold
  case period => exact fun _ _ hs hlink hmode => execSoundingPeriod_asks hs hlink hmode
  case tick => exact fun _ _ _ hs hup hhears hok => execTick_follows hs hup hhears hok
  case window => exact fun _ _ hs hmode hvaon htrickle hline hfollow => execListenWindow_does hs hmode hvaon htrickle hline hfollow
  case windowEnd => exact fun _ _ hs hmode hopen => execWindowExtensionEnd_ends hs hmode hopen
  case silent => exact fun _ _ hs hup hmode hsync hlong => execMasterSilence_loses hs hup hmode hsync hlong
  case widen => exact fun _ _ hs hup hmode hsync hshort hafter => execMasterSilence_widens hs hup hmode hsync hshort hafter
  case resync => exact fun _ _ hs hup htrickle hsync => execResyncListen_listens hs hup htrickle hsync

end Sys2Proof.Machine

/-! LF polls (O24). -/

namespace Sys2Proof.Machine

variable {r z slot k t0 : Nat} {p q : Poll} {ch : Fin 48} {frame : TokenFrame} {s t u v w : State} {o : Out}

@[simp] theorem drew_radio (q : RngQueue) (n : Nat) : (drew q n s).radio = s.radio := (drew_frame (.refl _ s) (within_refl _) q n).radio rfl
@[simp] theorem elapseToNs_radio (t0 : Nat) : (elapseToNs t0 s).radio = s.radio := (elapseToNs_frame (.refl _ s) (within_refl _) t0).radio rfl
@[simp] theorem stopCarrier_radio (p : Poll) : (stopCarrier p s).radio = s.radio := (stopCarrier_frame (.refl _ s) (within_refl _) p).radio rfl
@[simp] theorem restartTelegram_flt (p : Poll) : (restartTelegram p s).flt = s.flt := (restartTelegram_frame (.refl _ s) (within_refl _) p).flt rfl
@[simp] theorem telegramLost_flt (ch : Nat) (p : Poll) : (telegramLost ch p s).flt = s.flt := (telegramLost_frame (.refl _ s) (within_refl _) ch p).flt rfl
@[simp] theorem countEmission_outs (us : Nat) : (countEmission us s).outs = s.outs := (countEmission_frame (.refl _ s) (within_refl _) us).part .outs rfl

/-! ### A telegram begun -/

/-- The part with its radio changed and the wake slice used at `sl`. -/
def stirred (f : Radio → Radio) (sl : Option Nat) (s : State) : State := { s with radio := f s.radio, pwr := { s.pwr with slice := sl } }

theorem readied_stirred_sec (f : Radio → Radio) (sl : Option Nat) (n : Nat) : (readied (drawn n (stirred f sl s))).sec = (readied (drawn n s)).sec := by
  unfold readied
  cases h : reseedDue (drawn n s) && canReseed (drawn n s) with
  | true =>
    rw [show (reseedDue (drawn n (stirred f sl s)) && canReseed (drawn n (stirred f sl s))) = true from h]
    rfl
  | false =>
    rw [show (reseedDue (drawn n (stirred f sl s)) && canReseed (drawn n (stirred f sl s))) = false from h]
    rfl

/-- What is drawn turns neither on the radio nor on when the slice was last used. -/
theorem random_stirred (f : Radio → Radio) (sl : Option Nat) (m n : Nat) : random (drawn m (stirred f sl s)) n = random (drawn m s) n := by
  unfold random
  rw [readied_stirred_sec]
  rfl

theorem canPoll_stirred {kind : PollKind} (f : Radio → Radio) (sl : Option Nat) (h : kind = .presence ∨ kind = .approach) :
    canPoll (stirred f sl s) kind = canPoll s kind := by
  obtain rfl | rfl := h <;> rfl

/-- Taking the spare path changes only the channels' paths, and leaves none that is taken. -/
theorem takeSpare_radio (l : List Nat) (s : State) : ∃ chs, (each l takeSpare s).radio = { s.radio with lfCh := chs } ∧
    ∀ i, (tabGet {} s.radio.lfCh i).spare = true → (tabGet {} chs i).spare = true := by
  unfold each
  induction l generalizing s with
  | nil => exact ⟨s.radio.lfCh, rfl, fun _ h => h⟩
  | cons c l ih =>
    obtain ⟨chs, h, hspare⟩ := ih (takeSpare c s)
    refine ⟨chs, h, fun i hi => hspare i ?_⟩
    have hget : tabGet {} (takeSpare c s).radio.lfCh i = if i = c then { tabGet {} s.radio.lfCh c with
        spare := (tabGet {} s.radio.lfCh c).spare || (tabGet {} s.radio.lfCh c).spareNext, spareNext := false } else tabGet {} s.radio.lfCh i :=
      tabGet_tabModify ({} : LfState) s.radio.lfCh c i (fun x => { x with spare := x.spare || x.spareNext, spareNext := false })
    rw [hget]
    split
    · next hic =>
      subst hic
      rw [hi]
      rfl
    · exact hi

/-- A telegram keyed: its drive is drawn and its channels take their paths. -/
theorem keyTelegram_radio (p : Poll) (s : State) : ∃ d sp chs, (keyTelegram p s).radio =
    { s.radio with poll := some { p with phase := .telegram, sent := 0, drive := d, spare := sp }, lfCh := chs } ∧
    ∀ i, (tabGet {} s.radio.lfCh i).spare = true → (tabGet {} chs i).spare = true := by
  obtain ⟨chs, h, hspare⟩ := takeSpare_radio p.chans s
  refine ⟨drawDrive p.chans (freeBytes s (2 * p.chans.length)), onSpare (each p.chans takeSpare s) p.chans, chs, ?_, hspare⟩
  exact congrArg (fun b : Radio => { b with poll := some { p with
    phase := .telegram, sent := 0, drive := drawDrive p.chans (freeBytes s (2 * p.chans.length)), spare := onSpare (each p.chans takeSpare s) p.chans } }) h

/-- The poll of a telegram that begins, before it is keyed. -/
def telegramPoll (p : Poll) (s : State) : Poll :=
  { p with
    nonce := random (drawn 2 s) 6, lastEnd := s.clk.ns,
    nonceAt := if s.pwr.mode = .parked then s.clk.ns + 1000 * (beAt (freeBytes s 2) 0 2 % 20000) else 0
    slot := 0, open_ := none, collided := false, tone := 0, bursts := 0,
    plan := [], reports := 0, turn := none, measure := false, held := none }

theorem beginTelegram_keys (p : Poll) (s : State) : beginTelegram p s = keyTelegram (telegramPoll p s) (drew (laneQueue s) 6 (drawn 2 s)) := rfl

/-- A telegram that begins stands in the poll, and of the radio only the channels' paths change with it. -/
theorem beginTelegram_radio (p : Poll) (s : State) : ∃ q chs, (beginTelegram p s).radio = { s.radio with poll := some q, lfCh := chs } ∧
    q.kind = p.kind ∧ q.phase = .telegram ∧ q.m = p.m ∧ q.n = p.n ∧ q.sent = 0 ∧ q.nonce = random (drawn 2 s) 6 := by
  have hradio : (drew (laneQueue s) 6 (drawn 2 s)).radio = s.radio := (drew_radio _ _).trans rfl
  obtain ⟨d, sp, chs, h, -⟩ := keyTelegram_radio (telegramPoll p s) (drew (laneQueue s) 6 (drawn 2 s))
  rw [hradio] at h
  rw [beginTelegram_keys]
  exact ⟨_, chs, h, rfl, rfl, rfl, rfl, rfl, rfl⟩

/-- A PRESENCE or APPROACH poll that can be, begun. -/
theorem startPoll_stirred {kind : PollKind} (f : Radio → Radio) (sl : Option Nat) (n m : Nat) (h : kind = .presence ∨ kind = .approach)
    (hcan : canPoll s kind = true) : ∃ q chs, (startPoll kind n m (stirred f sl s)).radio = { f s.radio with poll := some q, lfCh := chs } ∧
    q.kind = kind ∧ q.phase = .telegram ∧ q.m = m ∧ q.n = n ∧ q.sent = 0 ∧ q.nonce = random (drawn 2 s) 6 := by
  have hbegin : startPoll kind n m (stirred f sl s) = beginTelegram (newPoll (stirred f sl s) kind n m) (stirred f sl s) :=
    if_pos ((canPoll_stirred f sl h).trans hcan)
  rw [hbegin]
  obtain ⟨q, chs, hradio, hkind, hphase, hm, hn, hsent, hnonce⟩ := beginTelegram_radio (newPoll (stirred f sl s) kind n m) (stirred f sl s)
  exact ⟨q, chs, hradio, hkind, hphase, hm, hn, hsent, hnonce.trans (random_stirred f sl 2 6)⟩

theorem execPresencePoll_due (hready : s.sys.ready = true) (hmode : s.pwr.mode = .cab ∨ s.pwr.mode = .drive) (hpark : s.pwr.parking = .none) :
    exec .presencePoll s = .next (
      if (elapseTo (s.radio.presenceAt + presencePeriod s) s).radio.poll.isSome || startHolds (elapseTo (s.radio.presenceAt + presencePeriod s) s) then
        modRadio (fun b => { b with presenceDue := true }) (elapseTo (s.radio.presenceAt + presencePeriod s) s)
      else startPresence (elapseTo (s.radio.presenceAt + presencePeriod s) s)) := by
  refine congrArg Host.Outcome.next (if_pos ?_)
  rw [hready, hpark]
  obtain h | h := hmode <;> rw [h] <;> rfl

theorem startHolds_elapseTo (n : Nat) : startHolds (elapseTo n s) = startHolds s := by
  have hflight : ∀ i, getFlight (elapseTo n s) i = getFlight s i := fun i => by rw [getFlight, getFlight, elapseTo_flights]
  rw [startHolds, startHolds, elapseTo_radio]
  simp only [hflight]

/-- A PRESENCE poll that falls due with the air free (R244). -/
theorem execPresencePoll_begins (hready : s.sys.ready = true) (hmode : s.pwr.mode = .cab ∨ s.pwr.mode = .drive) (hpark : s.pwr.parking = .none)
    (hu : u = elapseTo (s.radio.presenceAt + presencePeriod s) s) (hpoll : s.radio.poll = none) (hholds : startHolds s = false)
    (hcan : canPoll u .presence = true) : ∃ t p, exec .presencePoll s = .next t ∧ t.radio.poll = some p ∧ p.kind = .presence ∧
    p.phase = .telegram ∧ p.n = 8 ∧ p.m = 3 ∧ p.sent = 0 ∧ p.nonce = random (drawn 2 u) 6 ∧ t.radio.presenceAt = monoUs u ∧
    t.radio.presenceDue = false := by
  have hexec := execPresencePoll_due hready hmode hpark
  rw [← hu] at hexec
  have hfree : (u.radio.poll.isSome || startHolds u) = false := by
    rw [hu, elapseTo_radio, hpoll, startHolds_elapseTo, hholds]
    rfl
  obtain ⟨q, chs, hradio, hkind, hphase, hm, hn, hsent, hnonce⟩ :=
    startPoll_stirred (fun b => { b with presenceDue := false, presenceAt := monoUs u }) u.pwr.slice 8 3 (.inl rfl) hcan
  refine ⟨startPresence u, q, hexec.trans (congrArg Host.Outcome.next (if_neg (by rw [hfree]; nofun))), (congrArg Radio.poll hradio :), hkind, hphase,
    hn, hm, hsent, hnonce, (congrArg Radio.presenceAt hradio :), (congrArg Radio.presenceDue hradio :)⟩

theorem execPresencePoll_waits (hready : s.sys.ready = true) (hmode : s.pwr.mode = .cab ∨ s.pwr.mode = .drive) (hpark : s.pwr.parking = .none)
    (hpoll : s.radio.poll = some p) : ∃ t, exec .presencePoll s = .next t ∧ t.radio = { s.radio with presenceDue := true } := by
  obtain ⟨n, hn⟩ : ∃ n, n = s.radio.presenceAt + presencePeriod s := ⟨_, rfl⟩
  have hexec := execPresencePoll_due hready hmode hpark
  rw [← hn] at hexec
  have hradio : (elapseTo n s).radio = s.radio := elapseTo_radio n
  refine ⟨_, hexec.trans (congrArg Host.Outcome.next (if_pos (by rw [hradio, hpoll]; rfl))), ?_⟩
  exact congrArg (fun b : Radio => { b with presenceDue := true }) hradio

/-- An APPROACH poll that falls due with the slice up (R244). -/
theorem execApproachPoll_begins (hmode : s.pwr.mode = .parked) (hap : s.radio.approach ≠ 0) (hdorm : s.pwr.dormHours < 72)
    (hpoll : s.radio.poll = none) (hslice : s.pwr.slice ≠ none) (hgood : groupGood s 1 = true)
    (hu : u = elapseTo (s.radio.approachAt + 100000 * s.radio.approach) s) (hcan : canPoll u .approach = true) : ∃ t p,
    exec .approachPoll s = .next t ∧ t.radio.poll = some p ∧ p.kind = .approach ∧ p.phase = .telegram ∧ p.n = 8 ∧ p.m = 0 ∧
    p.nonce = random (drawn 2 u) 6 ∧ t.radio.approachDue = false := by
  have hpwr : u.pwr = s.pwr := by rw [hu, elapseTo_pwr]
  have hpollU : u.radio.poll.isSome = false := by rw [hu, elapseTo_radio, hpoll]; rfl
  obtain ⟨n, hn⟩ := Option.ne_none_iff_exists'.mp hslice
  obtain ⟨v, hv⟩ : ∃ v, v = modRadio (fun b => { b with approachAt := monoUs u }) u := ⟨_, rfl⟩
  have hpwrV : v.pwr = s.pwr := by rw [hv, modRadio_pwr, hpwr]
  have huse : useSlice v = modPwr (fun p => { p with slice := some (monoUs v) }) v := by
    rw [useSlice, hpwrV, if_pos hmode, hn]
    rfl
  have hup : sliceUp (useSlice v) = true := by
    rw [huse, sliceUp, groupGood, modPwr_pwr, hpwrV]
    exact (congrArg (_ || ·) hgood).trans (Bool.or_true _)
  have hstart : startApproach u = startPoll .approach 8 0 (stirred (fun b => { b with approachAt := monoUs u, approachDue := false })
      (some (monoUs v)) u) := by
    unfold startApproach
    dsimp only
    rw [← hv, hup, huse, hv]
    rfl
  obtain ⟨q, chs, hradio, hkind, hphase, hm, hn', -, hnonce⟩ :=
    startPoll_stirred (fun b => { b with approachAt := monoUs u, approachDue := false }) (some (monoUs v)) 8 0 (.inr rfl) hcan
  have hexec : exec .approachPoll s = .next (startApproach u) := by
    subst hu
    refine congrArg Host.Outcome.next ((if_pos ?_).trans (if_neg (by rw [hpollU]; nofun)))
    rw [hmode, bne_iff_ne.mpr hap, decide_eq_true hdorm]
    rfl
  rw [← hstart] at hradio
  exact ⟨_, q, hexec, (congrArg Radio.poll hradio :), hkind, hphase, hn', hm, hnonce, (congrArg Radio.approachDue hradio :)⟩

/-! ### A telegram on air -/

theorem outs_driveReq (c : BitVec 2) (h : o ∈ s.outs) : o ∈ (driveReq c s).outs := by
  unfold driveReq
  refine each_holds (P := fun t => o ∈ t.outs) _ _ (fun m t ht => ?_) h
  split
  · exact ht
  · exact List.mem_append_left _ ht

/-- A poll that asks for the air, or needs not ask. -/
theorem coexRaise_radio (act : Nat) (p : Poll) (s : State) : ∃ q c, (coexRaise act p s).radio = { s.radio with poll := some q, coexReq := c } ∧
    q.phase = p.phase ∧ q.sent = p.sent ∧ q.lastEnd = p.lastEnd ∧ q.nonce = p.nonce := by
  unfold coexRaise
  extract_lets want keep q
  refine ⟨q, want, driveReq_radio _ _, ?_⟩
  show (if want = 0 then _ else _ : Poll).phase = _ ∧ (if want = 0 then _ else _ : Poll).sent = _ ∧ (if want = 0 then _ else _ : Poll).lastEnd = _ ∧
    (if want = 0 then _ else _ : Poll).nonce = _
  by_cases h : want = 0
  · simp only [if_pos h, and_self]
  · simp only [if_neg h, and_self]

theorem outs_coexRaise (act : Nat) (p : Poll) (h : o ∈ s.outs) : o ∈ (coexRaise act p s).outs := by
  unfold coexRaise
  exact outs_driveReq _ h

/-- A segment goes out as it is, and of the radio only its channels' readings change with it. -/
theorem emitSegment_emits (p : Poll) (k t : Nat) (s : State) : segOut s p k ∈ (emitSegment p k t s).outs ∧
    ∃ chs, (emitSegment p k t s).radio = { s.radio with lfCh := chs } := by
  unfold emitSegment
  have hradio : (emit (segOut s p k) (elapseToNs t (grantWindow true t (segDur p k) s))).radio = s.radio := elapseToNs_radio _
  refine each_holds (P := fun u => segOut s p k ∈ u.outs ∧ ∃ chs, u.radio = { s.radio with lfCh := chs }) _ _ ?_
    ⟨List.mem_append_right _ (List.mem_singleton.mpr rfl), s.radio.lfCh, hradio⟩
  rintro d u ⟨hout, chs, hu⟩
  refine ⟨hout, ?_⟩
  unfold lfReadings
  extract_lets b ilim
  exact ⟨_, congrArg (fun r : Radio => { r with lfCh := tabModify {} r.lfCh d.1 (fun x =>
    { x with ipeak := beAt b 0 2 % (ilim + 1), duty := d.2.1, phase := if x.fault = 3 then x.phase else (byteAt b 2 % 61 : Nat) - (30 : Int) }) }) hu⟩

theorem telegramSent_presence (h : p.kind = .presence) : telegramSent p s = coexRaise 0 { p with
    phase := .slots, asked := false, challenges := p.challenges + ofBool (isLocate p.kind && !p.measure),
    failed := if p.measure then p.failed else 0 } (modRadio (fun b => { b with cntTx := b.cntTx + 1 }) s) := by
  unfold telegramSent
  extract_lets u v
  have hv : v = u := by
    show (match p.kind with
      | .locate r => modFlight r (fun f => { f with spare := f.spare || p.spare }) (onlyIf (!p.measure) (atStage r 0x01 0) u)
      | _ => u) = u
    rw [h]
  rw [hv]

/-- A PRESENCE telegram that the Furrow fits whole (R229). -/
theorem execLfSegment_sends (hpoll : s.radio.poll = some p) (hholds : startHolds s = false) (hphase : p.phase = .telegram)
    (hkind : p.kind = .presence) (hsent : p.sent = 0) (hplan : segPlan s p = .send (teleUnits p) t0) : ∃ t q,
    exec .lfSegment s = .next t ∧ t.radio.cntTx = s.radio.cntTx + 1 ∧ t.radio.poll = some q ∧ q.phase = .slots ∧ q.sent = teleUnits p ∧
    q.lastEnd = t0 + segDur p (teleUnits p) ∧ q.nonce = p.nonce ∧ segOut s p (teleUnits p) ∈ t.outs := by
  obtain ⟨w, hw⟩ : ∃ w, w = emitSegment p (teleUnits p) t0 s := ⟨_, rfl⟩
  obtain ⟨hout, chs, hradio⟩ := emitSegment_emits p (teleUnits p) t0 s
  rw [← hw] at hout hradio
  have hall : (afterSegment p (teleUnits p) t0).sent = teleUnits p := (congrArg (· + teleUnits p) hsent).trans (Nat.zero_add _)
  obtain ⟨q0, hq0⟩ : ∃ q0, q0 = { afterSegment p (teleUnits p) t0 with
    phase := .slots, asked := false
    challenges := (afterSegment p (teleUnits p) t0).challenges +
      ofBool (isLocate (afterSegment p (teleUnits p) t0).kind && !(afterSegment p (teleUnits p) t0).measure)
    failed := if (afterSegment p (teleUnits p) t0).measure then (afterSegment p (teleUnits p) t0).failed else 0 } := ⟨_, rfl⟩
  have hexec : exec .lfSegment s = .next (coexRaise 0 q0 (modRadio (fun b => { b with cntTx := b.cntTx + 1 }) w)) := by
    refine congrArg Host.Outcome.next ?_
    rw [hpoll]
    refine (if_pos (by rw [hphase, hholds]; rfl)).trans ?_
    rw [hplan]
    refine (if_pos hall).trans ?_
    have hkind' : (afterSegment p (teleUnits p) t0).kind = .presence := hkind
    rw [telegramSent_presence hkind', hq0, hw]
  obtain ⟨q, c, hradioT, hphaseQ, hsentQ, hend, hnonce⟩ := coexRaise_radio 0 q0 (modRadio (fun b => { b with cntTx := b.cntTx + 1 }) w)
  refine ⟨_, q, hexec, ?_, ?_, ?_, ?_, ?_, ?_, outs_coexRaise 0 q0 hout⟩
  · rw [hradioT]
    exact (congrArg (fun b : Radio => b.cntTx + 1) hradio :)
  · rw [hradioT]
  · rw [hphaseQ, hq0]
  · rw [hsentQ, hq0]
    exact hall
  · rw [hend, hq0]
    rfl
  · rw [hnonce, hq0]
    rfl

/-! ### Faults of a channel -/

section

variable (hpoll : s.radio.poll = some p) (hon : telegramOn s p = true) (hmem : ch.val ∈ p.chans)
include hpoll hon hmem

/-- A fault of a channel whose telegram is on the air (R225). -/
theorem execLfChannelFault_on (cond : LfCondition) (early spareFails : Bool) (hu : u = lfEvent 0 (modLfCh ch (fun x => { x with fault := lfFaultCode cond }) s)) :
    exec (.lfChannelFault ch cond early spareFails) s = .next (match cond with
    | .short | .opened => lfChannelOut ch p u
    | .detuned => drawn 2 (modLfCh ch (fun x => { x with phase := detunedPhase u }) u)
    | .sense => if spareFails then lfChannelOut ch p u
      else onlyIf early (restartTelegram p) (modLfCh ch (fun x => { x with spare := x.spare || early, spareNext := !early }) u)) := by
  subst hu
  show execLfChannelFault ch cond early spareFails s = _
  unfold execLfChannelFault
  rw [hpoll]
  refine congrArg Host.Outcome.next ((if_pos (by rw [hon, List.contains_iff_mem.mpr hmem]; rfl)).trans ?_)
  cases cond <;> rfl

theorem execLfChannelFault_detuned (early spareFails : Bool) : 30 < (detunedPhase s).natAbs ∧ exec (.lfChannelFault ch .detuned early spareFails) s =
    .next (drawn 2 (modLfCh ch (fun x => { x with phase := detunedPhase s }) (lfEvent 0 (modLfCh ch (fun x => { x with fault := 3 }) s)))) := by
  refine ⟨?_, execLfChannelFault_on hpoll hon hmem .detuned early spareFails rfl⟩
  unfold detunedPhase
  extract_lets b
  split <;> omega

end

/-- The part with channel `ch` on its spare path now (`early`), or from the next telegram (R226). -/
def spared (ch : Nat) (early : Bool) (s : State) : State :=
  modLfCh ch (fun x => { x with spare := x.spare || early, spareNext := !early }) (lfEvent 0 (modLfCh ch (fun x => { x with fault := 4 }) s))

theorem lfCh_spared (ch : Nat) (early : Bool) : tabGet {} (spared ch early s).radio.lfCh ch = { tabGet {} s.radio.lfCh ch with
    fault := 4, spare := (tabGet {} s.radio.lfCh ch).spare || early, spareNext := !early } := by
  have hfault : tabGet {} (lfEvent 0 (modLfCh ch (fun x => { x with fault := 4 }) s)).radio.lfCh ch = { tabGet {} s.radio.lfCh ch with fault := 4 } :=
    (tabGet_tabModify ({} : LfState) s.radio.lfCh ch ch (fun x => { x with fault := 4 })).trans (if_pos rfl)
  refine (tabGet_tabModify ({} : LfState) (lfEvent 0 (modLfCh ch (fun x => { x with fault := 4 }) s)).radio.lfCh ch ch
    (fun x => { x with spare := x.spare || early, spareNext := !early })).trans ((if_pos rfl).trans ?_)
  rw [hfault]

/-- A telegram begun again on the spare path, 200 µs on (R226). -/
theorem restartTelegram_radio (p : Poll) (s : State) : ∃ q, (restartTelegram p s).radio.poll = some q ∧ q.phase = .telegram ∧ q.sent = 0 ∧
    q.lastEnd = s.clk.ns + 200000 ∧ q.nonce = p.nonce ∧ (restartTelegram p s).radio.lfEvents = s.radio.lfEvents ∧
    ∀ i, (tabGet {} s.radio.lfCh i).spare = true → (tabGet {} (restartTelegram p s).radio.lfCh i).spare = true := by
  have hkept : (coexDrop (uncount p (stopCarrier p s))).radio.lfEvents = s.radio.lfEvents ∧
      (coexDrop (uncount p (stopCarrier p s))).radio.lfCh = s.radio.lfCh := by
    rw [coexDrop, driveReq_radio, uncount, onlyIf]
    have hstop := stopCarrier_radio (s := s) p
    split <;> exact ⟨(congrArg Radio.lfEvents hstop :), (congrArg Radio.lfCh hstop :)⟩
  obtain ⟨hevents, hch⟩ := hkept
  unfold restartTelegram
  generalize coexDrop (uncount p (stopCarrier p s)) = y at hevents hch ⊢
  obtain ⟨d, sp, chs, hradio, hspare⟩ := keyTelegram_radio { p with
    challenges := p.challenges - ofBool (p.phase == .slots && isLocate p.kind && !p.measure), asked := false, open_ := none, slot := 0,
    lastEnd := s.clk.ns + 200000 } y
  rw [hch] at hspare
  exact ⟨_, (congrArg Radio.poll hradio :), rfl, rfl, rfl, rfl, (congrArg Radio.lfEvents hradio :).trans hevents,
    fun i hi => (congrArg Radio.lfCh hradio :).symm ▸ hspare i hi⟩

section

variable (hpoll : s.radio.poll = some p) (hon : telegramOn s p = true) (hmem : ch.val ∈ p.chans)
include hpoll hon hmem

theorem execLfChannelFault_restarts : ∃ t q, exec (.lfChannelFault ch .sense true false) s = .next t ∧ (tabGet {} t.radio.lfCh ch).spare = true ∧
    t.radio.lfEvents = setBits s.radio.lfEvents 0 ∧ t.radio.poll = some q ∧ q.phase = .telegram ∧ q.sent = 0 ∧
    q.lastEnd = s.clk.ns + 200000 ∧ q.nonce = p.nonce ∧ t.flt = s.flt := by
  obtain ⟨q, hq, hphase, hsent, hend, hnonce, hevents, hspare⟩ := restartTelegram_radio p (spared ch true s)
  refine ⟨_, q, execLfChannelFault_on hpoll hon hmem .sense true false rfl, hspare ch ?_, hevents, hq, hphase, hsent, hend, hnonce, restartTelegram_flt p⟩
  rw [lfCh_spared]
  exact Bool.or_true _

theorem execLfChannelFault_spares : ∃ t, exec (.lfChannelFault ch .sense false false) s = .next t ∧ (tabGet {} t.radio.lfCh ch).spareNext = true ∧
    (tabGet {} t.radio.lfCh ch).spare = (tabGet {} s.radio.lfCh ch).spare ∧
    t.radio.lfEvents = setBits s.radio.lfEvents 0 ∧ t.radio.poll = some p ∧ t.flt = s.flt := by
  refine ⟨spared ch false s, execLfChannelFault_on hpoll hon hmem .sense false false rfl, ?_, ?_, rfl, hpoll, rfl⟩
  · rw [lfCh_spared]
    rfl
  · rw [lfCh_spared]
    exact Bool.or_false _

theorem execLfChannelFault_out (early spareFails : Bool) : ∃ t, exec (.lfChannelFault ch .short early spareFails) s = .next t ∧ unitSt t pLf ch ≠ .up := by
  obtain ⟨u, hu⟩ : ∃ u, u = lfEvent 0 (modLfCh ch (fun x => { x with fault := lfFaultCode .short }) s) := ⟨_, rfl⟩
  refine ⟨_, execLfChannelFault_on hpoll hon hmem .short early spareFails hu, ?_⟩
  show unitSt (lfChannelOut ch p u) pLf ch ≠ .up
  rw [lfChannelOut, unitSt_of_flt (telegramLost_flt ..), outOfService]
  split
  · rw [unitSt_changeUnit_same]
    nofun
  · next h => exact h

end

/-! ### Reply slots -/

theorem chainsUp_congr (hcfg : t.cfg = s.cfg) (hflt : t.flt = s.flt) (hpwr : t.pwr = s.pwr) (hrc : t.clk.onRc = s.clk.onRc) : chainsUp t = chainsUp s := by
  have hup : uhfUp t = uhfUp s := funext fun k => by
    simp only [uhfUp, uhfRec, board, unitSt, portUp_congr hcfg hflt hpwr hrc, hcfg, hflt]
  rw [chainsUp, chainsUp, hpwr, hup]

theorem triggerOut_congr (hcfg : t.cfg = s.cfg) (k body : Nat) : triggerOut t k body = triggerOut s k body := by
  simp only [triggerOut, uhfRec, board, rfout, triggerBytes, vwp, lfRec, hcfg]

/-- A trigger goes out on the first chain in service (R261, R262). -/
theorem sendTrigger_sends {l : List Nat} (body : Nat) (q : Poll) (h : chainsUp u = k :: l) : (sendTrigger body (putPoll q u)).radio.poll = some q ∧
    (sendTrigger body (putPoll q u)).outs = u.outs ++ [Out.pin (30 + k) 1, triggerOut u k body, Out.pin (30 + k) 0] := by
  have hq : chainsUp (putPoll q u) = k :: l := (chainsUp_congr rfl rfl rfl rfl).trans h
  have hsend : sendTrigger body (putPoll q u) = onChain k (triggerOut u k body) (countEmission 574 (putPoll q u)) := by
    unfold sendTrigger
    rw [hq]
    dsimp only
    rw [triggerOut_congr (t := putPoll q u) (s := u) rfl]
  rw [hsend]
  refine ⟨rfl, ?_⟩
  show ((countEmission 574 (putPoll q u)).outs ++ [_] ++ [_]) ++ [_] = _
  rw [countEmission_outs, List.append_assoc, List.append_assoc]
  rfl

section

variable (hpoll : s.radio.poll = some p) (hphase : p.phase = .slots) (hslot : p.slot < p.n)
include hpoll hphase hslot

/-- A reply slot's time has come (R271). -/
theorem execReplySlotTrigger_due (hu : u = elapseToNs (slotAt p p.slot) s) : exec .replySlotTrigger s = .next (
    if !p.granted then putPoll { p with waits := 0x24 } u
    else if coexSpent p (u.clk.ns + 574000 + nsReplySlot) then coexAnew 0 p u
    else if chainsUp u = [] then putPoll { p with open_ := none, slot := p.slot + 1 } u
    else if dutyExempt p.kind || dutyAllows 574 u then
      sendTrigger (0x4000 + 128 * p.slot + p.n)
        (putPoll (actFrom { p with open_ := some p.slot, slot := p.slot + 1, trigAt := u.clk.ns + 574000, waits := 0 } u.clk.ns) u)
    else uhfEvent 5 (putPoll { p with waits := 0x26 } u)) := by
  subst hu
  show execReplySlotTrigger s = _
  unfold execReplySlotTrigger
  rw [hpoll]
  exact congrArg Host.Outcome.next (if_pos (by rw [hphase, decide_eq_true hslot]; rfl))

theorem execReplySlotTrigger_waits (hgrant : p.granted = false) : ∃ t, exec .replySlotTrigger s = .next t ∧
    t.radio.poll = some { p with waits := 0x24 } :=
  ⟨_, (execReplySlotTrigger_due hpoll hphase hslot rfl).trans (congrArg Host.Outcome.next (if_pos (by rw [hgrant]; rfl))), rfl⟩

variable (hgrant : p.granted = true) (hu : u = elapseToNs (slotAt p p.slot) s) (hspent : coexSpent p (u.clk.ns + 574000 + nsReplySlot) = false)
include hgrant hu hspent

theorem execReplySlotTrigger_granted : exec .replySlotTrigger s = .next (
    if chainsUp u = [] then putPoll { p with open_ := none, slot := p.slot + 1 } u
    else if dutyExempt p.kind || dutyAllows 574 u then
      sendTrigger (0x4000 + 128 * p.slot + p.n)
        (putPoll (actFrom { p with open_ := some p.slot, slot := p.slot + 1, trigAt := u.clk.ns + 574000, waits := 0 } u.clk.ns) u)
    else uhfEvent 5 (putPoll { p with waits := 0x26 } u)) :=
  (execReplySlotTrigger_due hpoll hphase hslot hu).trans (congrArg Host.Outcome.next
    ((if_neg (by rw [hgrant]; nofun)).trans (if_neg (by rw [hspent]; nofun))))

theorem execReplySlotTrigger_passes (hchains : chainsUp s = []) : ∃ t, exec .replySlotTrigger s = .next t ∧
    t.radio.poll = some { p with open_ := none, slot := p.slot + 1 } ∧ t.outs = u.outs := by
  have hnone : chainsUp u = [] := by
    rw [hu, chainsUp_congr (elapseToNs_cfg _) (elapseToNs_flt _) (elapseToNs_pwr _) ((elapseToNs_frame (.refl _ s) (within_refl _) _).onRc rfl)]
    exact hchains
  exact ⟨_, (execReplySlotTrigger_granted hpoll hphase hslot hgrant hu hspent).trans (congrArg Host.Outcome.next (if_pos hnone)), rfl, rfl⟩

theorem execReplySlotTrigger_opens {l : List Nat} (hduty : dutyExempt p.kind = true ∨ dutyAllows 574 u = true) (hchains : chainsUp u = k :: l) : ∃ t,
    exec .replySlotTrigger s = .next t ∧
    t.radio.poll = some (actFrom { p with open_ := some p.slot, slot := p.slot + 1, trigAt := u.clk.ns + 574000, waits := 0 } u.clk.ns) ∧
    t.outs = u.outs ++ [Out.pin (30 + k) 1, triggerOut u k (0x4000 + 128 * p.slot + p.n), Out.pin (30 + k) 0] := by
  obtain ⟨q, hq⟩ : ∃ q, q = actFrom { p with open_ := some p.slot, slot := p.slot + 1, trigAt := u.clk.ns + 574000, waits := 0 } u.clk.ns := ⟨_, rfl⟩
  obtain ⟨body, hbody⟩ : ∃ n, n = 0x4000 + 128 * p.slot + p.n := ⟨_, rfl⟩
  have hexec := (execReplySlotTrigger_granted hpoll hphase hslot hgrant hu hspent).trans (congrArg Host.Outcome.next
    ((if_neg (by rw [hchains]; nofun)).trans (if_pos (by rw [Bool.or_eq_true]; exact hduty))))
  rw [← hq, ← hbody] at hexec
  obtain ⟨hradio, houts⟩ := sendTrigger_sends body q hchains
  exact ⟨_, hexec, by rw [hradio, hq], by rw [houts, hbody]⟩

end

theorem nextPoll_quiet (htouch : s.radio.touchNext = none) (hpres : s.radio.presenceDue = false) (happ : s.radio.approachDue = false)
    (hloc : s.radio.locates = []) : nextPoll s = s := by
  unfold nextPoll
  split
  · rfl
  · rw [htouch, hpres, happ, hloc]
    rfl

/-- With nothing else due a poll's end leaves none, and asks for no air. -/
theorem pollEnds_quiet (htouch : s.radio.touchNext = none) (hpres : s.radio.presenceDue = false) (happ : s.radio.approachDue = false)
    (hloc : s.radio.locates = []) : (pollEnds s).radio = { s.radio with poll := none, coexReq := 0 } := by
  obtain ⟨w, hw⟩ : ∃ w, w = coexDrop (modRadio (fun b => { b with poll := none }) s) := ⟨_, rfl⟩
  have hradio : w.radio = { s.radio with poll := none, coexReq := 0 } := by
    rw [hw, coexDrop, driveReq_radio]
    rfl
  rw [pollEnds, ← hw, nextPoll_quiet (by rw [hradio]; exact htouch) (by rw [hradio]; exact hpres) (by rw [hradio]; exact happ) (by rw [hradio]; exact hloc)]
  exact hradio

/-- A HANDLE poll whose replies are all in ends, with nothing else due (R245). -/
theorem execReplyWindowEnd_ends (hpoll : s.radio.poll = some p) (hphase : p.phase = .slots) (hslot : p.n ≤ p.slot) (hkind : p.kind = .handle z)
    (hfits : s.radio.fits = []) (hcoll : p.collided = false) (htouch : s.radio.touchNext = none) (hpres : s.radio.presenceDue = false)
    (happ : s.radio.approachDue = false) (hloc : s.radio.locates = []) : ∃ t, exec .replyWindowEnd s = .next t ∧ t.radio.poll = none ∧
    t.radio.coexReq = 0 := by
  obtain ⟨u, hu⟩ : ∃ u, u = elapseToNs (slotAt p p.n) s := ⟨_, rfl⟩
  have hkept : u.radio = s.radio := hu ▸ elapseToNs_radio _
  have hexec : exec .replyWindowEnd s = .next (pollEnds u) := by
    show execReplyWindowEnd s = _
    unfold execReplyWindowEnd
    rw [hpoll]
    refine congrArg Host.Outcome.next ((if_pos (by rw [hphase, decide_eq_true hslot, hfits]; rfl)).trans ?_)
    rw [hkind, hcoll, ← hu]
    exact if_neg nofun
  have hends := pollEnds_quiet (s := u) (by rw [hkept]; exact htouch) (by rw [hkept]; exact hpres) (by rw [hkept]; exact happ) (by rw [hkept]; exact hloc)
  exact ⟨_, hexec, by rw [hends], by rw [hends]⟩

/-! ### Replies -/

theorem lastTcnt_of_tokens (hnear : t.radio.near = s.radio.near) (husable : t.radio.nearUsable = s.radio.nearUsable)
    (htcnts : t.radio.tcnts = s.radio.tcnts) (tid : Nat) : lastTcnt t tid = lastTcnt s tid := by
  rw [lastTcnt, lastTcnt, nearEntry, nearEntry, hnear, husable, htcnts]

theorem authFail_fits (tid n : Nat) (s : State) : (authFail tid n s).radio.fits = s.radio.fits ∧ (authFail tid n s).radio.tcnts = s.radio.tcnts := by
  have hlog : ∀ q, (logPart q s).radio = s.radio := fun q => logPart_radio q
  unfold authFail
  extract_lets recent
  cases recent
  · exact ⟨(congrArg Radio.fits (hlog _) :), (congrArg Radio.tcnts (hlog _) :)⟩
  · exact ⟨rfl, rfl⟩

/-- The part with its poll's slot closed. -/
def slotClosed (p : Poll) (s : State) : State := putPoll { p with open_ := none } s

theorem antennaTurn_slotClosed (p : Poll) : antennaTurn (slotClosed p s) frame = antennaTurn s frame := by
  have hchains : chainsUp (slotClosed p s) = chainsUp s := chainsUp_congr rfl rfl rfl rfl
  have hcal : calDelayOf (slotClosed p s) = calDelayOf s := rfl
  rw [antennaTurn, antennaTurn, hchains, hcal]

section

variable (hpoll : s.radio.poll = some p) (hopen : p.open_ = some slot) (hphase : p.phase = .slots) (hsec : secReady s = true)
  (htake : canTakeTcnt s = true)
include hpoll hopen hphase hsec htake

theorem execChalReply_none : exec (.chalReply []) s = .next { s with radio := { s.radio with poll := some { p with open_ := none } } } := by
  show execChalReply [] s = _
  unfold execChalReply
  rw [hpoll]
  dsimp only
  rw [hopen]
  refine congrArg Host.Outcome.next ((if_pos (by rw [hphase, hsec, htake]; rfl)).trans ?_)
  show putPoll { p with open_ := none, collided := p.collided || false } s = _
  rw [Bool.or_false]
  rfl

/-- One reply in its slot is judged (R241). -/
theorem execChalReply_one (hvalid : frameValid frame = true) (hin : inSlot s p slot frame = true) :
    exec (.chalReply [frame]) s = .next (oneReply frame (slotClosed p s)) := by
  show execChalReply [frame] s = _
  unfold execChalReply
  rw [hpoll]
  dsimp only
  rw [hopen]
  refine congrArg Host.Outcome.next ((if_pos (by rw [hphase, hsec, htake]; rfl)).trans ?_)
  have hgood : [frame].filter (fun f => frameValid f && inSlot s p slot f) = [frame] := List.filter_cons_of_pos (by rw [hvalid, hin]; rfl)
  rw [hgood]
  have hmine : [frame].filter (fun f => frameTid f == frameTid frame) = [frame] := List.filter_cons_of_pos (beq_self_eq_true _)
  show each [frameTid frame].eraseDups _ (putPoll { p with open_ := none, collided := p.collided || false } s) = _
  rw [Bool.or_false]
  show (match [frame].filter (fun f => frameTid f == frameTid frame) with
    | [f] => oneReply f (slotClosed p s)
    | _ => twinReplies _ _ _ _) = _
  rw [hmine]

variable (hkind : p.kind = .presence) (hvalid : frameValid frame = true) (hin : inSlot s p slot frame = true)
include hkind hvalid hin

/-- A reply that passes takes its TCNT and is fitted (R242, R287). -/
theorem execChalReply_passes (hcheck : replyCheck s p.m (cmdArg p) p.nonce frame = 0) (hturn : turnOk (antennaTurn s frame) = true) : ∃ t,
    exec (.chalReply [frame]) s = .next t ∧ lastTcnt t (frameTid frame) = frameTcnt frame ∧ t.radio.poll = some { p with open_ := none } ∧
    t.radio.fits = s.radio.fits ++ [replyFit s p frame none] := by
  obtain ⟨w, hw⟩ : ∃ w, w = recordTcnt (frameTid frame) (frameTcnt frame) (slotClosed p s) := ⟨_, rfl⟩
  have hradio : w.radio = (setTcnt (frameTid frame) (frameTcnt frame) (slotClosed p s)).radio := hw ▸ tryLog_radio _
  have hfit : replyFit (slotClosed p s) { p with open_ := none } frame none = replyFit s p frame none := by
    rw [replyFit, replyFit, antennaTurn_slotClosed]
  have hone : oneReply frame (slotClosed p s) = modRadio (fun b => { b with fits := b.fits ++ [replyFit s p frame none] }) w := by
    have hc : replyCheck (slotClosed p s) p.m (cmdArg { p with open_ := none }) p.nonce frame = 0 := hcheck
    unfold oneReply
    rw [show (slotClosed p s).radio.poll = some { p with open_ := none } from rfl]
    dsimp only
    rw [hc, hkind]
    refine (if_neg nofun).trans ((if_neg ?_).trans ?_)
    · show ¬(!turnOk (antennaTurn (slotClosed p s) frame)) = true
      rw [antennaTurn_slotClosed, hturn]
      nofun
    · rw [← hfit, hw]
      rfl
  refine ⟨_, (execChalReply_one hpoll hopen hphase hsec htake hvalid hin).trans (congrArg Host.Outcome.next hone), ?_, ?_, ?_⟩
  · show lastTcnt w (frameTid frame) = _
    rw [hw, lastTcnt_recordTcnt]
  · exact (congrArg Radio.poll hradio :)
  · exact (congrArg (fun b : Radio => b.fits ++ [replyFit s p frame none]) hradio :)

/-- A reply whose MAC fails takes nothing (R242). -/
theorem execChalReply_fails (hcheck : replyCheck s p.m (cmdArg p) p.nonce frame = 5) : ∃ t, exec (.chalReply [frame]) s = .next t ∧
    lastTcnt t (frameTid frame) = lastTcnt s (frameTid frame) ∧ t.radio.lfEvents = setBits s.radio.lfEvents 3 ∧ t.radio.fits = s.radio.fits := by
  obtain ⟨w, hw⟩ : ∃ w, w = authFail (frameTid frame) (frameTcnt frame) (slotClosed p s) := ⟨_, rfl⟩
  have hone : oneReply frame (slotClosed p s) = w := by
    have hc : replyCheck (slotClosed p s) p.m (cmdArg { p with open_ := none }) p.nonce frame = 5 := hcheck
    unfold oneReply
    rw [show (slotClosed p s).radio.poll = some { p with open_ := none } from rfl]
    dsimp only
    rw [hc, hkind, hw]
    exact if_pos rfl
  obtain ⟨hnear, husable, hevents⟩ := authFail_tokens (frameTid frame) (frameTcnt frame) (slotClosed p s)
  obtain ⟨hfits, htcnts⟩ := authFail_fits (frameTid frame) (frameTcnt frame) (slotClosed p s)
  rw [← hw] at hnear husable hevents hfits htcnts
  refine ⟨w, (execChalReply_one hpoll hopen hphase hsec htake hvalid hin).trans (congrArg Host.Outcome.next hone), ?_, hevents, hfits⟩
  exact lastTcnt_of_tokens hnear husable htcnts _

end

/-- Settles O24. -/
theorem lfPolls : Obligations.LfPolls := by
  unfold Obligations.LfPolls
  refine ⟨?presence, ?presenceWaits, ?approach, ?segment, ?detuned, ?restarts, ?spares, ?short, ?opens, ?waits, ?passes, ?handleEnds, ?unanswered,
    ?reply, ?badReply⟩
  case presence => exact fun _ _ hready hmode hpark hu hpoll hholds hcan => execPresencePoll_begins hready hmode hpark hu hpoll hholds hcan
  case presenceWaits => exact fun _ _ hready hmode hpark hpoll => execPresencePoll_waits hready hmode hpark hpoll
  case approach => exact fun _ _ hmode hap hdorm hpoll hslice hgood hu hcan => execApproachPoll_begins hmode hap hdorm hpoll hslice hgood hu hcan
  case segment => exact fun _ _ _ hpoll hholds hphase hkind hsent hplan => execLfSegment_sends hpoll hholds hphase hkind hsent hplan
  case detuned => exact fun _ early spareFails _ _ hpoll hon hmem => execLfChannelFault_detuned hpoll hon hmem early spareFails
  case restarts => exact fun _ _ _ hpoll hon hmem => execLfChannelFault_restarts hpoll hon hmem
  case spares => exact fun _ _ _ hpoll hon hmem => execLfChannelFault_spares hpoll hon hmem
  case short => exact fun _ _ early spareFails _ hpoll hon hmem _ => execLfChannelFault_out hpoll hon hmem early spareFails
  case opens => exact fun _ _ _ _ _ hpoll hphase hslot hgrant hu hspent hduty hchains =>
    execReplySlotTrigger_opens hpoll hphase hslot hgrant hu hspent hduty hchains
  case waits => exact fun _ _ hpoll hphase hslot hgrant => execReplySlotTrigger_waits hpoll hphase hslot hgrant
  case passes => exact fun _ _ _ hpoll hphase hslot hgrant hu hspent hchains => execReplySlotTrigger_passes hpoll hphase hslot hgrant hu hspent hchains
  case handleEnds => exact fun _ _ _ hpoll hphase hslot hkind hfits hcoll htouch hpres happ hloc =>
    execReplyWindowEnd_ends hpoll hphase hslot hkind hfits hcoll htouch hpres happ hloc
  case unanswered => exact fun _ _ _ hpoll hopen hphase hsec htake => execChalReply_none hpoll hopen hphase hsec htake
  case reply => exact fun _ _ _ _ hpoll hopen hphase hkind hsec htake hvalid hin hcheck hturn =>
    execChalReply_passes hpoll hopen hphase hsec htake hkind hvalid hin hcheck hturn
  case badReply => exact fun _ _ _ _ hpoll hopen hphase hkind hsec htake hvalid hin hcheck =>
    execChalReply_fails hpoll hopen hphase hsec htake hkind hvalid hin hcheck

end Sys2Proof.Machine

/-! Soundings, fits and coexistence (O32). -/

namespace Sys2Proof.Machine

variable {r c k tid zone : Nat} {p : Poll} {f : Flight} {q : FitReq} {s t u v w : State} {o : Out} {x : UhfRec} {frame : TokenFrame}

@[simp] theorem settle_radio (r : Nat) (fr : FateRec) : (settle r fr s).radio = s.radio := (settle_frame (.refl _ s) (within_refl _) r fr).radio rfl
@[simp] theorem setDieTemp_radio (temp : Int) : (setDieTemp temp s).radio = s.radio := (setDieTemp_frame (.refl _ s) (within_refl _) temp).radio rfl
@[simp] theorem setDieTemp_flt (temp : Int) : (setDieTemp temp s).flt = s.flt := (setDieTemp_frame (.refl _ s) (within_refl _) temp).flt rfl
@[simp] theorem outOfService_radio (kind : Nat) (ix : Nat) (code : Nat) (sev : Nat) (arg : Nat) : (outOfService kind ix code sev arg s).radio = s.radio := (outOfService_frame (.refl _ s) (within_refl _) kind ix code sev arg).radio rfl
@[simp] theorem tokenBack_radio (tid : Nat) : (tokenBack tid s).radio = s.radio := (tokenBack_frame (.refl _ s) (within_refl _) tid).radio rfl
@[simp] theorem tokenInCab_radio (tid : Nat) : (tokenInCab tid s).radio = s.radio := (tokenInCab_frame (.refl _ s) (within_refl _) tid).radio rfl
@[simp] theorem chainOut_flt : (chainOut s).flt = s.flt := (chainOut_frame (.refl _ s) (within_refl _)).flt rfl
@[simp] theorem useSlice_radio : (useSlice s).radio = s.radio := (useSlice_frame (.refl _ s) (within_refl _)).radio rfl

/-! ### What the polls leave of the chains -/

/-- The part of the radio block that is the chains': what they read, and the UHF events. -/
def chainPart (b : Radio) : Tab UhfState × BitVec 7 := (b.uhfCh, b.uhfEvents)

theorem chainPart_beginTelegram (p : Poll) (s : State) : chainPart (beginTelegram p s).radio = chainPart s.radio := by
  obtain ⟨_, _, hradio, -⟩ := beginTelegram_radio p s
  rw [hradio]
  rfl

theorem chainPart_startPoll (kind : PollKind) (n m : Nat) (s : State) : chainPart (startPoll kind n m s).radio = chainPart s.radio := by
  unfold startPoll
  split
  · exact chainPart_beginTelegram _ _
  · rfl

theorem chainPart_startHandle (z : Nat) (s : State) : chainPart (startHandle z s).radio = chainPart s.radio := by
  have hnote : (noteSlice 6 s).radio = s.radio := noteSlice_radio 6
  unfold startHandle
  dsimp only
  split
  · rw [chainPart_startPoll, hnote]
  · exact (congrArg chainPart hnote :)

theorem chainPart_startPresence (s : State) : chainPart (startPresence s).radio = chainPart s.radio := by
  unfold startPresence
  rw [chainPart_startPoll]
  rfl

theorem chainPart_startApproach (s : State) : chainPart (startApproach s).radio = chainPart s.radio := by
  have huse : (useSlice (modRadio (fun b => { b with approachAt := monoUs s }) s)).radio = { s.radio with approachAt := monoUs s } := useSlice_radio
  unfold startApproach onlyIf
  dsimp only
  split
  · rw [chainPart_startPoll]
    exact (congrArg chainPart huse :)
  · exact (congrArg chainPart huse :)

theorem chainPart_driveReq (c : BitVec 2) (s : State) : chainPart (driveReq c s).radio = chainPart s.radio := by
  rw [driveReq_radio]
  rfl

theorem chainPart_endLocate (r : Nat) (fr : FateRec) (s : State) : chainPart (endLocate r fr s).radio = chainPart s.radio := by
  unfold endLocate onlyIf
  dsimp only
  rw [settle_radio]
  split
  · exact chainPart_driveReq 0 s
  · rfl

theorem chainPart_startLocate (n waits r : Nat) (f : Flight) (s : State) : chainPart (startLocate n waits r f s).radio = chainPart s.radio := by
  unfold startLocate
  split
  · rfl
  · split
    · exact chainPart_endLocate _ _ _
    · exact chainPart_beginTelegram _ _

theorem chainPart_nextPoll (s : State) : chainPart (nextPoll s).radio = chainPart s.radio := by
  unfold nextPoll
  split
  · rfl
  · split
    · exact chainPart_startHandle _ _
    · split
      · exact chainPart_startPresence s
      · split
        · exact chainPart_startApproach s
        · dsimp only
          split
          · exact chainPart_startLocate _ _ _ _ _
          · rfl

theorem chainPart_pollEnds (s : State) : chainPart (pollEnds s).radio = chainPart s.radio := by
  rw [pollEnds, chainPart_nextPoll, coexDrop, chainPart_driveReq]
  rfl

theorem chainPart_retryLocate (r : Nat) (p : Poll) (s : State) : chainPart (retryLocate r p s).radio = chainPart s.radio := by
  unfold retryLocate
  split
  · exact chainPart_pollEnds s
  · split
    · rw [chainPart_startLocate, coexDrop, chainPart_driveReq]
    · rw [chainPart_pollEnds, chainPart_endLocate]

theorem chainPart_stopBurst (whole : Bool) (gap : Nat) (s : State) : chainPart (stopBurst whole gap s).radio = chainPart s.radio := by
  unfold stopBurst
  split
  · split <;> rfl
  · rfl

theorem chainPart_restartSound (gap : Nat) (s : State) : chainPart (restartSound gap s).radio = chainPart s.radio := by
  unfold restartSound
  split
  · split
    · dsimp only
      split
      · split
        · rw [chainPart_retryLocate, chainPart_stopBurst]
        · rw [chainPart_pollEnds, chainPart_endLocate, chainPart_stopBurst]
      · rw [chainPart_retryLocate, chainPart_stopBurst]
      · rw [chainPart_pollEnds, chainPart_stopBurst]
    · rfl
  · rfl

theorem chainPart_chainOut (s : State) : chainPart (chainOut s).radio = chainPart s.radio := by
  have hstop : ∀ p, (stopCarrier p s).radio = s.radio := fun p => stopCarrier_radio p
  have hends : chainPart (passiveEnds s).radio = chainPart s.radio := by
    unfold passiveEnds
    split
    · split
      · rw [chainPart_pollEnds, hstop]
      · rfl
      · rfl
      · rfl
    · rfl
  rw [chainOut, chainPart_restartSound, onlyIf]
  split
  · exact hends
  · rfl

/-! ### A chain's power -/

theorem uhfUp_of_mem (h : k ∈ chainsUp s) : uhfUp s k = true := by
  unfold chainsUp at h
  split at h
  · split at h
    · next hup => exact (List.mem_singleton.mp h) ▸ hup
    · nomatch h
  · exact (List.mem_filter.mp h).2

theorem unitSt_of_mem (h : k ∈ chainsUp s) : unitSt s pUhf k = .up := by
  have hup := uhfUp_of_mem h
  simp only [uhfUp, portUp, Bool.and_eq_true, beq_iff_eq] at hup
  exact hup.1.1.1.1.2

/-- Of the chains in service the first alone has a number below 1. -/
theorem chainsUp_first (h : 0 ∈ chainsUp s) : (chainsUp s).filter (fun k => decide (k < 1)) = [0] := by
  have hup := uhfUp_of_mem h
  unfold chainsUp
  split
  · rfl
  · have hrange : List.range 8 = [0, 1, 2, 3, 4, 5, 6, 7] := rfl
    rw [List.filter_filter, hrange]
    simp [hup]

theorem chainsUp_setDieTemp (temp : Int) : chainsUp (setDieTemp temp s) = chainsUp s := by
  unfold setDieTemp
  split <;> rfl

/-- The power error measured of the one chain asked about (R263). -/
theorem execUhfPowerCorrection_corrects {temp e : Int} (hon : s.sys.ready = true ∨ s.pwr.mode = .parked) (hup : 0 ∈ chainsUp s)
    (hv : v = modUhfCh 0 (fun y => { y with pwrErr := e, trim := y.trim - roundDiv e 5 }) (setDieTemp temp s)) :
    exec (.uhfPowerCorrection temp [e]) s = .next (if 30 < e.natAbs then
      chainOut (uhfEvent 0 (outOfService pUhf 0 0x02 (if chainsUp v = [0] then sLost else sDegraded) e.natAbs (modUhfCh 0 (fun y => { y with fault := 1 }) v)))
    else v) := by
  have hcond : (s.sys.ready || s.pwr.mode == .parked) = true := by
    obtain h | h := hon <;> rw [h]
    · rfl
    · exact Bool.or_true _
  have hfirst : (chainsUp (setDieTemp temp s)).filter (fun k => decide (k < [e].length)) = [0] := by
    rw [chainsUp_setDieTemp]
    exact chainsUp_first hup
  subst hv
  refine congrArg Host.Outcome.next ((if_pos hcond).trans ?_)
  dsimp only
  rw [hfirst]
  rfl

theorem uhfCh_modUhfCh (k : Nat) (g : UhfState → UhfState) : tabGet {} (modUhfCh k g s).radio.uhfCh k = g (tabGet {} s.radio.uhfCh k) :=
  (tabGet_tabModify ({} : UhfState) s.radio.uhfCh k k g).trans (if_pos rfl)

theorem execUhfPowerCorrection_trims {temp e : Int} (hon : s.sys.ready = true ∨ s.pwr.mode = .parked) (hup : 0 ∈ chainsUp s) (he : e.natAbs ≤ 30) :
    ∃ t, exec (.uhfPowerCorrection temp [e]) s = .next t ∧ (tabGet {} t.radio.uhfCh 0).pwrErr = e ∧
    (tabGet {} t.radio.uhfCh 0).trim = (tabGet {} s.radio.uhfCh 0).trim - roundDiv e 5 ∧ unitSt t pUhf 0 = .up ∧ t.flt = s.flt := by
  obtain ⟨v, hv⟩ : ∃ v, v = modUhfCh 0 (fun y => { y with pwrErr := e, trim := y.trim - roundDiv e 5 }) (setDieTemp temp s) := ⟨_, rfl⟩
  have hflt : v.flt = s.flt := hv ▸ setDieTemp_flt temp
  have hch : tabGet {} v.radio.uhfCh 0 = { tabGet {} s.radio.uhfCh 0 with pwrErr := e, trim := (tabGet {} s.radio.uhfCh 0).trim - roundDiv e 5 } := by
    rw [hv, uhfCh_modUhfCh, setDieTemp_radio]
  refine ⟨v, (execUhfPowerCorrection_corrects hon hup hv).trans (congrArg Host.Outcome.next (if_neg (Nat.not_lt.mpr he))), by rw [hch], by rw [hch], ?_, hflt⟩
  rw [unitSt_of_flt hflt]
  exact unitSt_of_mem hup

/-- A chain more than 3 dB out is out of service (R263). -/
theorem execUhfPowerCorrection_outs {temp e : Int} (hon : s.sys.ready = true ∨ s.pwr.mode = .parked) (hup : 0 ∈ chainsUp s) (he : 30 < e.natAbs) :
    ∃ t, exec (.uhfPowerCorrection temp [e]) s = .next t ∧ (tabGet {} t.radio.uhfCh 0).fault = 1 ∧ unitSt t pUhf 0 = .out ∧
    t.radio.uhfEvents = setBits s.radio.uhfEvents 0 := by
  obtain ⟨v, hv⟩ : ∃ v, v = modUhfCh 0 (fun y => { y with pwrErr := e, trim := y.trim - roundDiv e 5 }) (setDieTemp temp s) := ⟨_, rfl⟩
  obtain ⟨y, hy⟩ : ∃ y, y = outOfService pUhf 0 0x02 (if chainsUp v = [0] then sLost else sDegraded) e.natAbs (modUhfCh 0 (fun y => { y with fault := 1 }) v) :=
    ⟨_, rfl⟩
  have hexec := (execUhfPowerCorrection_corrects hon hup hv).trans (congrArg Host.Outcome.next (if_pos he))
  rw [← hy] at hexec
  have hradio : y.radio = (modUhfCh 0 (fun y => { y with fault := 1 }) v).radio := hy ▸ outOfService_radio ..
  have hevents : v.radio.uhfEvents = s.radio.uhfEvents := by
    rw [hv]
    exact (congrArg Radio.uhfEvents (setDieTemp_radio (s := s) temp) :)
  have hpart := chainPart_chainOut (uhfEvent 0 y)
  have hunit : unitSt y pUhf 0 = .out := by
    have hflt : (modUhfCh 0 (fun y => { y with fault := 1 }) v).flt = s.flt := by
      rw [hv]
      exact setDieTemp_flt temp
    rw [hy]
    exact unitSt_outOfService_same _ _ _ (.inl ((unitSt_of_flt hflt pUhf 0).trans (unitSt_of_mem hup)))
  refine ⟨_, hexec, ?_, ?_, ?_⟩
  · have hch : (chainOut (uhfEvent 0 y)).radio.uhfCh = y.radio.uhfCh := (congrArg Prod.fst hpart :)
    rw [hch, hradio, uhfCh_modUhfCh]
  · rw [unitSt_of_flt (chainOut_flt (s := uhfEvent 0 y))]
    exact hunit
  · refine (congrArg Prod.snd hpart :).trans ?_
    show setBits y.radio.uhfEvents 0 = _
    rw [hradio]
    exact congrArg (setBits · 0) hevents

/-- A synthesiser that fails is out of service (R265). -/
theorem execSynthFault_outs {b : Bool} (hup : unitSt s uSyn (ofBool b) = .up) (hpoll : s.radio.poll = none) : ∃ t, exec (.synthFault b) s = .next t ∧
    unitSt t uSyn (ofBool b) = .out ∧ t.radio = { s.radio with uhfEvents := setBits s.radio.uhfEvents 1 } := by
  obtain ⟨y, hy⟩ : ∃ y, y = outOfService uSyn (ofBool b) 0x02 (if unitSt s uSyn (1 - ofBool b) = .up then sDegraded else sLost) 0 s := ⟨_, rfl⟩
  have hradio : y.radio = s.radio := hy ▸ outOfService_radio ..
  have hrestart : restartSound (tonePeriod s) (uhfEvent 1 y) = uhfEvent 1 y := by
    have hnone : (uhfEvent 1 y).radio.poll = none := (congrArg Radio.poll hradio :).trans hpoll
    unfold restartSound
    rw [hnone]
  refine ⟨uhfEvent 1 y, ?_, ?_, ?_⟩
  · rw [← hrestart, hy]
    exact congrArg Host.Outcome.next (if_pos hup)
  · show unitSt y uSyn (ofBool b) = .out
    rw [hy]
    exact unitSt_outOfService_same _ _ _ (.inl hup)
  · exact congrArg (fun b : Radio => { b with uhfEvents := setBits b.uhfEvents 1 }) hradio

/-! ### Bursts and reports -/

theorem antennaTurn_recordTcnt (tid n : Nat) : antennaTurn (recordTcnt tid n s) frame = antennaTurn s frame := by
  have hframe : Frame [.led, .radio] s (recordTcnt tid n s) := recordTcnt_frame (.refl _ s) (within_refl _) tid n
  have hchains : chainsUp (recordTcnt tid n s) = chainsUp s :=
    chainsUp_congr (hframe.cfg rfl) (hframe.flt rfl) (hframe.pwr rfl) (hframe.onRc rfl)
  have hcal : calDelayOf (recordTcnt tid n s) = calDelayOf s := funext fun k => by
    rw [calDelayOf, calDelayOf, uhfRec, uhfRec, board, board, hframe.cfg rfl]
  rw [antennaTurn, antennaTurn, hchains, hcal]

theorem burstOut_outs {first count : Nat} (k : Nat) : triggerOut s k (0x8000 + 128 * first + 64 * ofBool (oneSynth s) + count) ∈ (burstOut x k first count s).outs ∧
    ∀ i, i < count → Out.tone k (toneFreq x (first + i)) (rfout s x.txpTone k) (tonePeriod s) ∈ (burstOut x k first count s).outs := by
  have hchain : ∀ (o o' : Out) (t : State), (o' ∈ t.outs ∨ o' = o) → o' ∈ (onChain k o t).outs := by
    intro o o' t h
    refine List.mem_append_left _ ?_
    obtain h | h := h
    · exact List.mem_append_left _ (List.mem_append_left _ h)
    · exact List.mem_append_right _ (List.mem_singleton.mpr h)
  have heach : ∀ (l : List Nat) (t : State) (o' : Out), (o' ∈ t.outs ∨ ∃ i ∈ l, o' = Out.tone k (toneFreq x (first + i)) (rfout s x.txpTone k) (tonePeriod s)) →
      o' ∈ (each l (fun i => onChain k (.tone k (toneFreq x (first + i)) (rfout s x.txpTone k) (tonePeriod s))) t).outs := by
    intro l
    induction l with
    | nil => exact fun t o' h => h.resolve_right fun ⟨_, hi, _⟩ => nomatch hi
    | cons a l ih =>
      refine fun t o' h => ih _ o' ?_
      obtain h | ⟨i, hi, ho⟩ := h
      · exact .inl (hchain _ _ _ (.inl h))
      · obtain rfl | hi := List.mem_cons.mp hi
        · exact .inl (hchain _ _ _ (.inr ho))
        · exact .inr ⟨i, hi, ho⟩
  exact ⟨heach _ _ _ (.inl (hchain _ _ _ (.inr rfl))), fun i hi => heach _ _ _ (.inr ⟨i, List.mem_range.mpr hi, rfl⟩)⟩

/-- A poll that asks for the air is otherwise as it was. -/
theorem coexRaise_asks (act : Nat) (p : Poll) (s : State) : ∃ a g n l, (coexRaise act p s).radio.poll =
    some { p with asked := a, granted := g, askedAt := n, actAt := l } := by
  unfold coexRaise
  extract_lets want keep q
  rw [driveReq_radio]
  by_cases h : want = 0
  · exact ⟨false, true, p.askedAt, none, congrArg some (if_pos h)⟩
  · exact ⟨true, keep, monoUs s, if keep then p.actAt else none, congrArg some (if_neg h)⟩

theorem pollOp_locate (h : p.kind = .locate r) : pollOp p.kind = some r := by rw [h, pollOp]

/-- A burst of the plan goes out (R280). -/
theorem execSoundBurst_sends {l ks : List Nat} (hpoll : s.radio.poll = some p) (hrec : uhfRec s = some x) (hkind : p.kind = .locate r)
    (hphase : p.phase = .sound) (hholds : startHolds s = false) (hplan : p.plan = c :: l) (hgrant : p.granted = true)
    (hpause : pausedTooLong p s.clk.ns = false) (hpauseAt : pausedTooLong p p.planAt = false) (hspent : coexSpent p (p.planAt + burstDur s c) = false)
    (hv : v = elapseToNs p.planAt s) (hduty : dutyAllows (burstUs c) v = true) (hchains : chainsUp v = k :: ks) : ∃ t q,
    exec .soundBurst s = .next t ∧ t.radio.poll = some q ∧ q.tone = p.tone + c ∧ q.bursts = p.bursts + 1 ∧
    q.burstTone = p.tone ∧ q.burstEnd = p.planAt + burstDur v c ∧ q.phase = (if planTones x ≤ p.tone + c then .report else .sound) ∧
    triggerOut v k (0x8000 + 128 * p.tone + 64 * ofBool (oneSynth v) + c) ∈ t.outs ∧
    ∀ i, i < c → Out.tone k (toneFreq x (p.tone + i)) (rfout v x.txpTone k) (tonePeriod v) ∈ t.outs := by
  obtain ⟨y, hy⟩ : ∃ y, y = burstOut x k p.tone c (countEmission (burstUs c) v) := ⟨_, rfl⟩
  obtain ⟨a, ha⟩ : ∃ a, a = afterBurst p k c v := ⟨_, rfl⟩
  have hexec : exec .soundBurst s = .next (if planTones x ≤ a.tone then coexRaise 0 { a with phase := .report, open_ := none } y else putPoll a y) := by
    show execSoundBurst s = _
    unfold execSoundBurst
    rw [hpoll, hrec]
    dsimp only
    rw [pollOp_locate hkind]
    refine congrArg Host.Outcome.next ((if_pos (by rw [hphase, hholds]; rfl)).trans ((if_neg (by rw [hpause]; nofun)).trans
      ((if_neg (by rw [hgrant]; nofun)).trans ?_)))
    rw [hplan]
    refine (if_neg (by rw [hpauseAt]; nofun)).trans ((if_neg (by rw [hspent]; nofun)).trans ?_)
    dsimp only
    rw [← hv, if_pos hduty, hchains, hy, ha]
  obtain ⟨htrig, htones⟩ := burstOut_outs (s := countEmission (burstUs c) v) (x := x) (first := p.tone) (count := c) k
  rw [← hy, triggerOut_congr (t := countEmission (burstUs c) v) (s := v) rfl] at htrig
  simp only [← hy] at htones
  have htone : a.tone = p.tone + c := ha ▸ rfl
  by_cases hall : planTones x ≤ p.tone + c
  · obtain ⟨b, g, n, m, hq⟩ := coexRaise_asks 0 { a with phase := .report, open_ := none } y
    refine ⟨_, _, hexec.trans (congrArg Host.Outcome.next (if_pos (htone ▸ hall))), hq, htone, ha ▸ rfl, ha ▸ rfl, ha ▸ rfl, (if_pos hall).symm,
      outs_coexRaise 0 _ htrig, fun i hi => outs_coexRaise 0 _ (htones i hi)⟩
  · refine ⟨_, a, hexec.trans (congrArg Host.Outcome.next (if_neg (htone ▸ hall))), rfl, htone, ha ▸ rfl, ha ▸ rfl, ha ▸ rfl, ?_, htrig, htones⟩
    rw [if_neg hall, ha]
    exact hphase

/-- The report is asked for after the last burst (R280). -/
theorem execReportTrigger_asks {ks : List Nat} (hpoll : s.radio.poll = some p) (hrec : uhfRec s = some x) (hkind : p.kind = .locate r)
    (hphase : p.phase = .report) (hreports : p.reports < 3) (hholds : startHolds s = false) (hgrant : p.granted = true)
    (hv : v = elapseToNs p.burstEnd s) (hpause : pausedTooLong p v.clk.ns = false) (hspent : coexSpent p (v.clk.ns + 10000000) = false)
    (hduty : dutyAllows 574 v = true) (hchains : chainsUp v = k :: ks) : ∃ t, exec .reportTrigger s = .next t ∧
    t.radio.poll = some (actFrom { p with reports := p.reports + 1, trigAt := v.clk.ns + 574000, open_ := some 0, waits := 0 } v.clk.ns) ∧
    t.outs = v.outs ++ [Out.pin (30 + k) 1, triggerOut v k (0xC000 + planTones x), Out.pin (30 + k) 0] := by
  obtain ⟨a, ha⟩ : ∃ a, a = actFrom { p with reports := p.reports + 1, trigAt := v.clk.ns + 574000, open_ := some 0, waits := 0 } v.clk.ns := ⟨_, rfl⟩
  obtain ⟨body, hbody⟩ : ∃ n, n = 0xC000 + planTones x := ⟨_, rfl⟩
  have hexec : exec .reportTrigger s = .next (sendTrigger body (putPoll a v)) := by
    show execReportTrigger s = _
    unfold execReportTrigger
    rw [hpoll, hrec]
    dsimp only
    rw [pollOp_locate hkind]
    refine congrArg Host.Outcome.next ((if_neg (by rw [hphase, decide_eq_true hreports]; nofun)).trans
      ((if_pos (by rw [hphase, hholds]; rfl)).trans ?_))
    rw [← hv]
    refine (if_neg (by rw [hpause]; nofun)).trans ((if_neg (by rw [hgrant]; nofun)).trans ((if_neg (by rw [hspent]; nofun)).trans
      ((if_pos hduty).trans ?_)))
    rw [ha, hbody]
  obtain ⟨hradio, houts⟩ := sendTrigger_sends body a hchains
  exact ⟨_, hexec, by rw [hradio, ha], by rw [houts, hbody]⟩

/-- A report that passes takes its TCNT and is fitted (R282, R285). -/
theorem execSoundReport_passes (hpoll : s.radio.poll = some p) (hrec : uhfRec s = some x) (hkind : p.kind = .locate r) (hphase : p.phase = .report)
    (hopen : p.open_.isSome = true) (hsec : secReady s = true) (hvalid : frameValid frame = true) (htake : canTakeTcnt s = true)
    (hcheck : reportCheck s 0 (planTones x) p.nonce frame = 0) (htid : frameTid frame = p.tid) (htouch : s.radio.touchNext = none)
    (hpres : s.radio.presenceDue = false) (happ : s.radio.approachDue = false) (hloc : s.radio.locates = []) : ∃ t,
    exec (.soundReport frame) s = .next t ∧ t.radio.poll = none ∧ t.radio.cntSound = s.radio.cntSound + 1 ∧ lastTcnt t p.tid = frameTcnt frame ∧
    t.radio.fits = s.radio.fits ++ [soundFit s p frame (some r)] := by
  obtain ⟨y, hy⟩ : ∃ y, y = recordTcnt (frameTid frame) (frameTcnt frame) s := ⟨_, rfl⟩
  have hfit : soundFit y p frame (some r) = soundFit s p frame (some r) := by
    rw [soundFit, soundFit, hy, antennaTurn_recordTcnt]
  obtain ⟨w, hw⟩ : ∃ w, w = modRadio (fun b => { b with cntSound := b.cntSound + 1, fits := b.fits ++ [soundFit s p frame (some r)] }) (atStage r 0x03 0 y) :=
    ⟨_, rfl⟩
  have hradio : w.radio = { (setTcnt (frameTid frame) (frameTcnt frame) s).radio with
      cntSound := s.radio.cntSound + 1, fits := s.radio.fits ++ [soundFit s p frame (some r)] } := by
    have hat : (atStage r 0x03 0 y).radio = (setTcnt (frameTid frame) (frameTcnt frame) s).radio := by
      rw [atStage_radio, hy]
      exact tryLog_radio _
    rw [hw]
    exact congrArg (fun b : Radio => { b with cntSound := b.cntSound + 1, fits := b.fits ++ [soundFit s p frame (some r)] }) hat
  have hexec : exec (.soundReport frame) s = .next (pollEnds w) := by
    show execSoundReport frame s = _
    unfold execSoundReport
    rw [hpoll, hrec]
    dsimp only
    rw [pollOp_locate hkind]
    refine congrArg Host.Outcome.next ((if_pos (by rw [hphase, hopen, hsec, hvalid, htake]; rfl)).trans ((if_pos hcheck).trans ((if_pos htid).trans ?_)))
    rw [← hy, hfit, hw]
  have hends : (pollEnds w).radio = { w.radio with poll := none, coexReq := 0 } :=
    pollEnds_quiet (by rw [hradio]; exact htouch) (by rw [hradio]; exact hpres) (by rw [hradio]; exact happ) (by rw [hradio]; exact hloc)
  refine ⟨_, hexec, by rw [hends], ?_, ?_, ?_⟩
  · rw [hends, hradio]
  · rw [← htid]
    exact (lastTcnt_of_tokens (by rw [hends, hradio]) (by rw [hends, hradio]) (by rw [hends, hradio]) _).trans (lastTcnt_setTcnt (frameTid frame) _ s)
  · rw [hends, hradio]

/-! ### Fits -/

theorem noteSnr_tracks (fit : FitResult) (s : State) : (noteSnr fit s).radio.tracks = s.radio.tracks ∧ (noteSnr fit s).radio.fits = s.radio.fits := by
  unfold noteSnr
  refine ⟨each_same (fun t => t.radio.tracks) _ _ ?_ s, each_same (fun t => t.radio.fits) _ _ ?_ s⟩
  · exact fun _ _ => rfl
  · exact fun _ _ => rfl

/-- The part with its first fit taken, and the levels it was heard at (R285). -/
def fitTaken (q : FitReq) (rest : List FitReq) (fit : FitResult) (s : State) : State :=
  onlyIf q.sounded (noteSnr fit) (modRadio (fun b => { b with fits := rest }) s)

theorem fitTaken_keeps (q : FitReq) (rest : List FitReq) (fit : FitResult) (s : State) : (fitTaken q rest fit s).radio.tracks = s.radio.tracks ∧
    (fitTaken q rest fit s).radio.fits = rest ∧ (fitTaken q rest fit s).host.flights = s.host.flights ∧ monoUs (fitTaken q rest fit s) = monoUs s := by
  unfold fitTaken onlyIf
  split
  · obtain ⟨htracks, hfits⟩ := noteSnr_tracks fit (modRadio (fun b => { b with fits := rest }) s)
    have hframe := noteSnr_frame (.refl _ (modRadio (fun b => { b with fits := rest }) s)) (within_refl _) fit
    exact ⟨htracks, hfits, hframe.flights rfl, hframe.monoUs_eq rfl rfl rfl⟩
  · exact ⟨rfl, rfl, rfl, rfl⟩

theorem tokenPassed_tracks (tid zone : Nat) (s : State) : (tokenPassed tid zone s).radio.tracks = s.radio.tracks ∧
    (tokenPassed tid zone s).radio.fits = s.radio.fits := by
  have hback : ∀ y : State, (tokenBack tid y).radio = y.radio := fun y => tokenBack_radio tid
  have hcab : ∀ y : State, (tokenInCab tid y).radio = y.radio := fun y => tokenInCab_radio tid
  have hseen : (tokenSeen s).radio = s.radio := tokenSeen_radio
  unfold tokenPassed onlyIf
  dsimp only
  split
  · rw [hcab, hback]
    exact ⟨(congrArg Radio.tracks hseen :), (congrArg Radio.fits hseen :)⟩
  · rw [hback]
    exact ⟨(congrArg Radio.tracks hseen :), (congrArg Radio.fits hseen :)⟩

theorem relaySuspect_radio (tid : Nat) (s : State) : (relaySuspect tid s).radio = { s.radio with lfEvents := setBits s.radio.lfEvents 2 } := by
  unfold relaySuspect
  exact congrArg (fun b : Radio => { b with lfEvents := setBits b.lfEvents 2 }) (logPart_radio _)

theorem inconsistent_fits (tid : Nat) (s : State) : (inconsistent tid s).radio.fits = s.radio.fits := by
  unfold inconsistent
  exact (congrArg Radio.fits (relaySuspect_radio tid s) :)

theorem find_track_last (tr : Track) (l : List Track) : (l.filter (fun y => y.tid != tr.tid) ++ [tr]).find? (fun y => y.tid == tr.tid) = some tr := by
  have hnone : (l.filter (fun y => y.tid != tr.tid)).find? (fun y => y.tid == tr.tid) = none :=
    List.find?_eq_none.mpr fun y hy => by
      have hne := (List.mem_filter.mp hy).2
      rw [bne_iff_ne] at hne
      simp [hne]
  rw [List.find?_append, hnone, Option.none_or, List.find?_singleton, beq_self_eq_true]
  rfl

section

variable {rest : List FitReq} {fit : FitResult} (hfits : s.radio.fits = q :: rest) (hrec : uhfRec s = some x) (hop : q.op = some r)
  (hflight : getFlight s r = some f) (hfate : f.fate = none)
include hfits hrec hop hflight

/-- A fit for a LOCATE, by what came of its turnaround and of its consistency (R289, R296). -/
theorem execPositionFit_judged (hv : v = fitTaken q rest fit s) : exec (.positionFit fit true) s = .next (
    if !q.turnOk then settle r { failFate fAuth 0x22 (if q.sounded then 0x03 else 0x02) with result := 6 } (inconsistent q.tid v)
    else if !(match fitPos v x q fit with | some p => consistent v x q fit p | none => true) then
      settle r { failFate fAuth 0x22 (if q.sounded then 0x03 else 0x02) with result := 7 } (inconsistent q.tid v)
    else locateDone r f x q fit (fitPos v x q fit) true v) := by
  subst hv
  have hget : getFlight (fitTaken q rest fit s) r = some f := by
    rw [getFlight, (fitTaken_keeps q rest fit s).2.2.1]
    exact hflight
  show execPositionFit fit true s = _
  unfold execPositionFit
  rw [hfits, hrec]
  dsimp only
  rw [hop]
  dsimp only
  rw [← fitTaken, hget] <;> rfl

include hfate

/-- A fit that passes gives the LOCATE its result, and the token its track (R296). -/
theorem execPositionFit_locates {pos : Pos} (hturn : q.turnOk = true)
    (hv : v = onlyIf q.sounded (noteSnr fit) (modRadio (fun b => { b with fits := rest }) s)) (hpos : fitPos v x q fit = some pos)
    (hgood : consistent v x q fit pos = true) (hlen : dLen f.raw = 0) (htracks : s.radio.tracks.length < 64) : ∃ t tr,
    exec (.positionFit fit true) s = .next t ∧ Done r (locateResult tr) t ∧ trackOf t q.tid = some tr ∧ tr.tid = q.tid ∧
    tr.tMeas = monoUs s ∧ t.radio.fits = rest := by
  obtain ⟨htracksV, hfitsV, hflightsV, hmonoV⟩ := fitTaken_keeps q rest fit s
  rw [← fitTaken] at hv
  rw [← hv] at htracksV hfitsV hflightsV hmonoV
  obtain ⟨tr, htr⟩ : ∃ tr, tr = fuse v x q fit (some pos) false := ⟨_, rfl⟩
  have htid : tr.tid = q.tid := htr ▸ rfl
  have hmeas : tr.tMeas = monoUs v := htr ▸ rfl
  obtain ⟨w, hw⟩ : ∃ w, w = modRadio (fun b => { b with tracks := v.radio.tracks.filter (fun y => y.tid != tr.tid) ++ [tr] }) v := ⟨_, rfl⟩
  have hput : putTrack tr v = (tr, w) := by
    have hfew : (v.radio.tracks.filter (fun y => y.tid != tr.tid)).length < 64 :=
      (List.length_filter_le ..).trans_lt (htracksV.symm ▸ htracks)
    refine (if_pos (by rw [decide_eq_true hfew, Bool.or_true])).trans ?_
    rw [hw]
  obtain ⟨y, hy⟩ : ∃ y, y = tokenPassed q.tid tr.zone w := ⟨_, rfl⟩
  obtain ⟨htracksY, hfitsY⟩ := tokenPassed_tracks q.tid tr.zone w
  rw [← hy] at htracksY hfitsY
  have hget : getFlight y r = some f := by
    have hflights : y.host.flights = s.host.flights := by
      have hpassed : y.host.flights = w.host.flights := hy ▸ (tokenPassed_frame (.refl _ w) (within_refl _) q.tid tr.zone).flights rfl
      rw [hpassed, hw]
      exact hflightsV
    rw [getFlight, hflights]
    exact hflight
  have hexec : exec (.positionFit fit true) s = .next (settle r { done (locateResult tr) with degraded := frontReduced y } y) := by
    refine (execPositionFit_judged hfits hrec hop hflight hv).trans (congrArg Host.Outcome.next ?_)
    rw [hturn, hpos]
    refine (if_neg (by nofun)).trans ((if_neg (by show ¬(!consistent v x q fit pos) = true; rw [hgood]; nofun)).trans ?_)
    unfold locateDone
    rw [← htr, hput]
    dsimp only
    rw [← hy, hlen]
    rfl
  refine ⟨_, tr, hexec, settle_ended hget hfate _, ?_, htid, hmeas.trans hmonoV, ?_⟩
  · rw [trackOf, settle_radio, htracksY, hw, ← htid]
    exact find_track_last tr v.radio.tracks
  · rw [settle_radio, hfitsY, hw]
    exact hfitsV

/-- A turnaround out of bound ends the LOCATE (R289). -/
theorem execPositionFit_refuses (hturn : q.turnOk = false) : ∃ t, exec (.positionFit fit true) s = .next t ∧ Ended r fAuth 6 0x22 t ∧
    t.radio.fits = rest := by
  obtain ⟨v, hv⟩ : ∃ v, v = fitTaken q rest fit s := ⟨_, rfl⟩
  obtain ⟨-, hfitsV, hflightsV, -⟩ := fitTaken_keeps q rest fit s
  rw [← hv] at hfitsV hflightsV
  have hget : getFlight (inconsistent q.tid v) r = some f := by
    have hflights : (inconsistent q.tid v).host.flights = v.host.flights := (inconsistent_frame (.refl _ v) (within_refl _) q.tid).flights rfl
    rw [getFlight, hflights, hflightsV]
    exact hflight
  refine ⟨_, (execPositionFit_judged hfits hrec hop hflight hv).trans (congrArg Host.Outcome.next (if_pos (by rw [hturn]; rfl))),
    settle_ended hget hfate _, ?_⟩
  rw [settle_radio, inconsistent_fits]
  exact hfitsV

end

/-! ### Grants of the air -/

theorem execCoexGrant_grants (hpoll : s.radio.poll = some p) (hask : p.asked = true) (hgrant : p.granted = false) : exec .coexGrant s =
    .next { s with radio := { s.radio with poll := some { p with granted := true, waits := 0 }, coexGnt := s.radio.coexGnt ||| s.radio.coexReq } } := by
  show execCoexGrant s = _
  unfold execCoexGrant
  rw [hpoll]
  exact congrArg Host.Outcome.next (if_pos (by rw [hask, hgrant]; rfl))

/-- A grant that fails to come ends an APPROACH poll (R275). -/
theorem execCoexTimeout_ends (hpoll : s.radio.poll = some p) (hrec : uhfRec s = some x) (hask : p.asked = true) (hgrant : p.granted = false)
    (hkind : p.kind = .approach) (htouch : s.radio.touchNext = none) (hpres : s.radio.presenceDue = false) (happ : s.radio.approachDue = false)
    (hloc : s.radio.locates = []) : ∃ t, exec .coexTimeout s = .next t ∧ t.radio.poll = none ∧ t.radio.coexReq = 0 ∧
    t.radio.cntCoex = s.radio.cntCoex + 1 ∧ t.radio.uhfEvents = setBits s.radio.uhfEvents 2 := by
  obtain ⟨u, hu⟩ : ∃ u, u = elapseTo (p.askedAt + 1000 * x.coexTmo) s := ⟨_, rfl⟩
  have hkept : u.radio = s.radio := hu ▸ elapseTo_radio _
  obtain ⟨w, hw⟩ : ∃ w, w = uhfEvent 2 (coexDrop (modRadio (fun b => { b with cntCoex := b.cntCoex + 1 }) u)) := ⟨_, rfl⟩
  have hradio : w.radio = { s.radio with cntCoex := s.radio.cntCoex + 1, coexReq := 0, uhfEvents := setBits s.radio.uhfEvents 2 } := by
    have hdrop : (coexDrop (modRadio (fun b => { b with cntCoex := b.cntCoex + 1 }) u)).radio = { u.radio with cntCoex := u.radio.cntCoex + 1, coexReq := 0 } :=
      driveReq_radio ..
    rw [hkept] at hdrop
    rw [hw]
    exact congrArg (fun b : Radio => { b with uhfEvents := setBits b.uhfEvents 2 }) hdrop
  have hexec : exec .coexTimeout s = .next (pollEnds w) := by
    show execCoexTimeout s = _
    unfold execCoexTimeout
    rw [hpoll, hrec]
    refine congrArg Host.Outcome.next ((if_pos (by rw [hask, hgrant]; rfl)).trans ?_)
    rw [hkind, ← hu]
    dsimp only
    rw [← hw]
  have hends : (pollEnds w).radio = { w.radio with poll := none, coexReq := 0 } :=
    pollEnds_quiet (by rw [hradio]; exact htouch) (by rw [hradio]; exact hpres) (by rw [hradio]; exact happ) (by rw [hradio]; exact hloc)
  exact ⟨_, hexec, by rw [hends], by rw [hends], by rw [hends, hradio], by rw [hends, hradio]⟩

/-- The part with the grant of pair `m` fallen, and the pair known not to be stuck. -/
def grantFallen (m : Fin 2) (s : State) : State :=
  let s := modRadio (fun b => { b with coexGnt := b.coexGnt &&& ~~~ BitVec.ofNat 2 (2 ^ m.val) }) s
  onlyIf (s.flt.coexStuck.getLsbD m) (fun t => writeFault pCoex m 0x09 sInfo 0x09 0 0
    (modFlt (fun b => { b with coexStuck := b.coexStuck &&& ~~~ BitVec.ofNat 2 (2 ^ m.val) }) t)) s

theorem grantFallen_keeps (m : Fin 2) (s : State) : (grantFallen m s).radio =
    { s.radio with coexGnt := s.radio.coexGnt &&& ~~~ BitVec.ofNat 2 (2 ^ m.val) } ∧ monoUs (grantFallen m s) = monoUs s ∧
    (grantFallen m s).clk.ns = s.clk.ns ∧ tonePeriod (grantFallen m s) = tonePeriod s := by
  unfold grantFallen onlyIf
  dsimp only
  split
  · obtain ⟨y, hy⟩ : ∃ y, y = modFlt (fun b => { b with coexStuck := b.coexStuck &&& ~~~ BitVec.ofNat 2 (2 ^ m.val) })
      (modRadio (fun b => { b with coexGnt := b.coexGnt &&& ~~~ BitVec.ofNat 2 (2 ^ m.val) }) s) := ⟨_, rfl⟩
    have hunit : ∀ i, unitSt (writeFault pCoex m 0x09 sInfo 0x09 0 0 y) uSyn i = unitSt s uSyn i := fun i => by
      obtain ⟨fs, no, ev, hflt⟩ := writeFault_flt_eq pCoex m 0x09 sInfo 0x09 0 0 y
      rw [unitSt, hflt, hy]
      rfl
    rw [← hy]
    refine ⟨(writeFault_radio ..).trans (by rw [hy]; rfl), (monoUs_writeFault ..).trans (by rw [hy]; rfl), ?_, ?_⟩
    · exact ((writeFault_frame (.refl _ y) (within_refl _) ..).time rfl).trans (by rw [hy]; rfl)
    · rw [tonePeriod, tonePeriod, oneSynth, oneSynth, hunit, hunit]
  · exact ⟨rfl, rfl, rfl, rfl⟩

theorem grant_fell (m : Fin 2) (b : BitVec 2) : (b &&& ~~~ BitVec.ofNat 2 (2 ^ m.val)).getLsbD m = false := by
  rw [BitVec.getLsbD_and, BitVec.getLsbD_not, oneBit_getLsbD]
  simp

section

variable {m : Fin 2} (hpoll : s.radio.poll = some p) (hask : p.asked = true) (hgrant : p.granted = true)
  (hgnt : s.radio.coexGnt.getLsbD m = true) (hreq : s.radio.coexReq.getLsbD m = true)
include hpoll hask hgrant hgnt hreq

/-- A grant that falls while a poll has the air (R277). -/
theorem execCoexGrantFall_fell (hv : v = stopBurst true (tonePeriod s) (grantFallen m s)) : exec (.coexGrantFall m) s = .next (
    if p.phase == .sound && decide (v.clk.ns < p.burstEnd) then
      putPoll { p with granted := false, askedAt := monoUs v, actAt := none, tone := p.burstTone, plan := [] } v
    else if p.phase == .report && decide (v.clk.ns < p.burstEnd) then
      putPoll { p with granted := false, askedAt := monoUs v, actAt := none, phase := .sound, tone := p.burstTone, plan := [] } v
    else putPoll { p with granted := false, askedAt := monoUs v, actAt := none } v) := by
  obtain ⟨hradio, -, -, hperiod⟩ := grantFallen_keeps m s
  have hpollG : (grantFallen m s).radio.poll = some p := (congrArg Radio.poll hradio :).trans hpoll
  have hreqG : (grantFallen m s).radio.coexReq.getLsbD m = true := by rw [hradio]; exact hreq
  rw [← hperiod] at hv
  obtain ⟨g, hg⟩ : ∃ g, g = grantFallen m s := ⟨_, rfl⟩
  rw [← hg] at hpollG hreqG hv
  show execCoexGrantFall m s = _
  unfold execCoexGrantFall
  unfold grantFallen at hg
  dsimp only at hg ⊢
  rw [← hg, hpollG]
  refine congrArg Host.Outcome.next ((if_pos (by rw [hgnt, hask, hgrant, hreqG]; rfl)).trans ?_)
  rw [← hv]

/-- A reply slot's poll asks again for the air that fell (R277). -/
theorem execCoexGrantFall_slots (hphase : p.phase = .slots) : ∃ t, exec (.coexGrantFall m) s = .next t ∧
    t.radio.poll = some { p with granted := false, askedAt := monoUs s, actAt := none } ∧ t.radio.coexGnt.getLsbD m = false := by
  obtain ⟨hradio, hmono, -, -⟩ := grantFallen_keeps m s
  have hpollG : (grantFallen m s).radio.poll = some p := (congrArg Radio.poll hradio :).trans hpoll
  have hstop : grantFallen m s = stopBurst true (tonePeriod s) (grantFallen m s) := by
    unfold stopBurst
    rw [hpollG]
    exact (if_neg (by rw [hphase]; nofun)).symm
  refine ⟨_, (execCoexGrantFall_fell hpoll hask hgrant hgnt hreq hstop).trans (congrArg Host.Outcome.next
    ((if_neg (by rw [hphase]; nofun)).trans (if_neg (by rw [hphase]; nofun)))), ?_, ?_⟩
  · rw [hmono]
    rfl
  · show (grantFallen m s).radio.coexGnt.getLsbD m = false
    rw [hradio]
    exact grant_fell m _

/-- A burst cut short by a grant that falls is sent again whole (R277). -/
theorem execCoexGrantFall_cuts (hphase : p.phase = .sound) (hbursts : p.bursts ≠ 0) (hnow : s.clk.ns < p.burstEnd) : ∃ t,
    exec (.coexGrantFall m) s = .next t ∧ t.radio.coexGnt.getLsbD m = false ∧ t.radio.coexReq = s.radio.coexReq ∧
    t.radio.poll = some { p with granted := false, askedAt := monoUs s, actAt := none, tone := p.burstTone, plan := [] } ∧
    Out.burstStop p.tx (ranNs true (tonePeriod s) (s.clk.ns - p.burstAt)) ∈ t.outs := by
  obtain ⟨hradio, hmono, hns, -⟩ := grantFallen_keeps m s
  have hpollG : (grantFallen m s).radio.poll = some p := (congrArg Radio.poll hradio :).trans hpoll
  obtain ⟨g, hg⟩ : ∃ g, g = grantFallen m s := ⟨_, rfl⟩
  rw [← hg] at hradio hmono hns hpollG
  obtain ⟨em, hem⟩ : ∃ em, em = g.radio.emissions.map (fun e => if e.1 == p.burstAt / 1000 && e.2 == burstUs (p.tone - p.burstTone) then
    (e.1, min (burstUs (p.tone - p.burstTone)) (ranUs true (tonePeriod s) (g.clk.ns - p.burstAt))) else e) := ⟨_, rfl⟩
  obtain ⟨v, hv⟩ : ∃ v, v = emit (.burstStop p.tx (ranNs true (tonePeriod s) (g.clk.ns - p.burstAt))) (modRadio (fun b => { b with emissions := em }) g) :=
    ⟨_, rfl⟩
  have hstop : v = stopBurst true (tonePeriod s) (grantFallen m s) := by
    rw [hv, ← hg, hem]
    unfold stopBurst
    rw [hpollG]
    exact (if_pos (by rw [hphase, bne_iff_ne.mpr hbursts, hns, decide_eq_true hnow]; rfl)).symm
  have hnsV : v.clk.ns = s.clk.ns := by
    rw [hv]
    exact hns
  have hmonoV : monoUs v = monoUs s := by
    rw [hv]
    exact hmono
  have hradioV : v.radio.coexGnt = g.radio.coexGnt ∧ v.radio.coexReq = g.radio.coexReq := by
    rw [hv]
    exact ⟨rfl, rfl⟩
  obtain ⟨hgntV, hreqV⟩ := hradioV
  refine ⟨_, (execCoexGrantFall_fell hpoll hask hgrant hgnt hreq hstop).trans (congrArg Host.Outcome.next
    (if_pos (by rw [hphase, hnsV, decide_eq_true hnow]; rfl))), ?_, ?_, ?_, ?_⟩
  · show v.radio.coexGnt.getLsbD m = false
    rw [hgntV, hradio]
    exact grant_fell m _
  · show v.radio.coexReq = _
    rw [hreqV, hradio]
  · rw [hmonoV]
    rfl
  · show _ ∈ v.outs
    rw [hv, hns]
    exact List.mem_append_right _ (List.mem_singleton.mpr rfl)

end

theorem execTrackAgeExpiry_ages {n : BitVec 32} {tr : Track} (htrack : trackOf s n.toNat = some tr) (hrec : uhfRec s = some x)
    (hpres : (tabGet {} s.radio.pres n.toNat).st = 1) : ∃ t, exec (.trackAgeExpiry n) s = .next t ∧ trackOf t n.toNat = none ∧
    tr.updated + 1000000 * x.trackAge ≤ monoUs t ∧ t.slk = s.slk := by
  obtain ⟨u, hu⟩ : ∃ u, u = elapseTo (tr.updated + 1000000 * x.trackAge) s := ⟨_, rfl⟩
  have htime : tr.updated + 1000000 * x.trackAge ≤ monoUs u := hu ▸ le_monoUs_elapseTo _
  have hslk : u.slk = s.slk := by rw [hu, elapseTo_slk]
  refine ⟨modRadio (fun b => { b with
    tracks := b.tracks.filter (fun y => y.tid != n.toNat), pres := if u.slk.bound = n.toNat then b.pres else tabErase b.pres n.toNat }) u, ?_, ?_, htime, hslk⟩
  · show execTrackAgeExpiry n s = _
    unfold execTrackAgeExpiry
    rw [htrack, hrec]
    refine congrArg Host.Outcome.next ((if_pos hpres).trans ?_)
    rw [hu]
  · refine List.find?_eq_none.mpr fun y hy => ?_
    have hne := (List.mem_filter.mp hy).2
    rw [bne_iff_ne] at hne
    simp [hne]

/-- Settles O32. -/
theorem soundingsAndCoexistence : Obligations.SoundingsAndCoexistence := by
  unfold Obligations.SoundingsAndCoexistence
  refine ⟨?trims, ?outs, ?synth, ?burst, ?report, ?reported, ?located, ?refused, ?granted, ?timeout, ?fell, ?cut, ?lead, ?aged⟩
  case trims => exact fun _ _ _ hon hup he => execUhfPowerCorrection_trims hon hup he
  case outs => exact fun _ _ _ hon hup he => execUhfPowerCorrection_outs hon hup he
  case synth => exact fun _ _ hup hpoll => execSynthFault_outs hup hpoll
  case burst => exact fun _ _ _ _ _ _ _ _ _ hpoll hrec hkind hphase hholds hplan hgrant hpause hpauseAt hspent hv hduty hchains =>
    execSoundBurst_sends hpoll hrec hkind hphase hholds hplan hgrant hpause hpauseAt hspent hv hduty hchains
  case report => exact fun _ _ _ _ _ _ _ hpoll hrec hkind hphase hreports hholds hgrant hv hpause hspent hduty hchains =>
    execReportTrigger_asks hpoll hrec hkind hphase hreports hholds hgrant hv hpause hspent hduty hchains
  case reported => exact fun _ _ _ _ _ hpoll hrec hkind hphase hopen hsec hvalid htake hcheck htid htouch hpres happ hloc =>
    execSoundReport_passes hpoll hrec hkind hphase hopen hsec hvalid htake hcheck htid htouch hpres happ hloc
  case located => exact fun _ _ _ _ _ _ _ _ _ hfits hrec hop hflight hfate hturn hv hpos hgood hlen htracks =>
    execPositionFit_locates hfits hrec hop hflight hfate hturn hv hpos hgood hlen htracks
  case refused => exact fun _ _ _ _ _ _ _ hfits hrec hop hflight hfate hturn => execPositionFit_refuses hfits hrec hop hflight hfate hturn
  case granted => exact fun _ _ hpoll hask hgrant => execCoexGrant_grants hpoll hask hgrant
  case timeout => exact fun _ _ _ hpoll hrec hask hgrant hkind htouch hpres happ hloc =>
    execCoexTimeout_ends hpoll hrec hask hgrant hkind htouch hpres happ hloc
  case fell => exact fun _ _ _ hpoll hask hgrant hphase hgnt hreq => execCoexGrantFall_slots hpoll hask hgrant hgnt hreq hphase
  case cut => exact fun _ _ _ hpoll hask hgrant hphase hbursts hnow hgnt hreq => execCoexGrantFall_cuts hpoll hask hgrant hgnt hreq hphase hbursts hnow
  case lead =>
    intro r t0 ev f s hwait hrun
    obtain ⟨v, hv⟩ : ∃ v, v = priFall (modRadio (fun b => { b with session := none })
      (startRun r ev f (modRadio (fun b => { b with startWait := none }) (elapseTo (t0 + 100) s)))) := ⟨_, rfl⟩
    refine ⟨resumePoll v, _, v, hv ▸ execCoexPriLead_runs hwait hrun rfl, rfl, hv, ?_, ?_, rfl⟩
    · rw [hv, priFall, drivePri_radio, driveReq_radio]
    · rw [hv, priFall_pri]
  case aged => exact fun _ _ _ _ htrack hrec hpres => execTrackAgeExpiry_ages htrack hrec hpres

end Sys2Proof.Machine
